-- ==== Sys2Proof/Word.lean ====
section
/-! DEFINITION. The plain words of the model: a 32-bit register word, a byte, and a sparse table. -/

namespace Sys2Proof

/-- A register or packet word (R55: accesses are 32 bits wide). -/
abbrev Word := BitVec 32

/-- A byte. -/
abbrev Byte := BitVec 8

/-- A sparse table: keys strictly rising, a key not listed holds the table's default. -/
abbrev Tbl (α : Type) := List (Nat × α)

end Sys2Proof
end

