-- ==== Sys2Proof/Syntax.lean ====
section
/-! DEFINITION. The commands: one constructor for each row of the opcode table, with what the sender or the outside
world supplies as its operands. -/

namespace Sys2Proof

/-- The command sources of R70: the mailbox MBX_H2D, a host CSI-2 receive virtual channel, or the mailbox MBX_T2D. -/
inductive Source where
  | h2d
  | csi (vc : Fin 4)
  | t2d
  deriving DecidableEq, Repr

/-- A host CSI-2 long packet as it arrives (R73): its virtual channel, whether its data type is one the row names,
the state of its header (0 good, 1 corrected, 2 uncorrectable), whether its payload CRC holds, and its payload. -/
structure RxPacket where
  vc      : Nat
  listed  : Bool
  header  : Nat
  crcOk   : Bool
  payload : List Byte
  deriving DecidableEq, Repr

/-- Whether a Common Command Code is sent as a broadcast, or directly to this target (R58). -/
inductive CccTo where
  | broadcast
  | direct
  deriving DecidableEq, Repr

/-- An upset of a stored granule (R305, R311): an error of one bit or symbol, with the DRAM device that holds it (0 to 9,
meaningful in DDR5), an uncorrectable error, or an SRAM word's poison bit turned over. -/
inductive Flaw where
  | correctable (device : Fin 10)
  | uncorrectable
  | poisonBit
  deriving DecidableEq, Repr

/-- An upset of one copy of a critical word (R314): the bits that it turns over. -/
structure Upset where
  word : Fin 48
  copy : Fin 3
  flip : BitVec 32
  deriving DecidableEq, Repr

/-- Levels of an encoder's A and B after a change (R358), and for how many field-die clocks they have held. -/
structure QuadSample where
  a    : Bool
  b    : Bool
  held : Nat := 7
  deriving DecidableEq, Repr

/-- A frame slot of the field link at its receiver (R332): the bits that the line inverted, and the bit of the receiver's slots at which
the frame begins. -/
structure Slot where
  errors : BitVec 80 := 0
  offset : Fin 80 := 0
  deriving DecidableEq, Repr

/-- A degrouping store (R187): the factor, the components of a pixel, the regrouped pixels of a line and the bytes of an
element. -/
structure Degroup where
  g     : Nat
  comps : Nat
  width : Nat
  bytes : Nat
  deriving DecidableEq, Repr

/-- What the loom's program and the silicon supply beside a descriptor (R170, R176, R187, R225, R326): the scale records that
the epilogue's conversion names and their codebooks, per tensor (one) or per channel; the bytes from one output row to the
next; the channel of the tensor that the first output is; a degrouping; for a vector-unit program that adds the looms' partial
rows, row by row their beam addresses in the order in which they arrive (R294); for a line fetch the 64-bit words that are lost on the way
from the line store, by port, window line and word (R35); whether a parity error of a front weight register or codebook entry is met; whether the descriptor is
poisoned, and whether even its kind cannot be read. -/
structure Aux where
  scales  : List (List Word) := []
  books   : List (List Int) := []
  stride  : Nat := 64
  degroup : Option Degroup := none
  chan    : Nat := 0
  partials : List (List Nat) := []
  lost    : List (Nat × Nat × Nat) := []
  parity  : Bool := false
  poison  : Bool := false
  blind   : Bool := false
  deriving DecidableEq, Repr

/-- A long packet on a camera port (R82, R83, R96, R98): its virtual channel and data type, the state of its header
(0 good, 1 corrected, 2 uncorrectable), whether its payload CRC holds, whether the receive buffer has room for the line,
and its payload; on the parallel port (R84), in place of all but the room, D23 to D0 at each sampled PCLK edge of the line and
whether DVAL was high; and the 64-bit words of the line whose flit has failed 8 retransmissions on its way to the store (R35). -/
structure CamPacket where
  vc      : Nat
  dt      : Nat
  header  : Nat
  crcOk   : Bool
  room    : Bool
  payload : List Byte
  pins    : List (BitVec 24 × Bool) := []
  lost    : List Nat := []
  deriving DecidableEq, Repr

/-- Where a line-trigger pulse is driven (R99): a field output or the trigger pin of a camera port. -/
inductive TrigPin where
  | fo (i : Fin 8)
  | cam (p : Fin 17)
  deriving DecidableEq, Repr

/-- What an Announce message carries to the best master clock algorithm (R368, IEEE 1588-2019): the grandmaster's priority 1,
clock class, accuracy, variance, priority 2 and identity, the steps removed, the identity and port number of the clock that
sends it, and its Announce interval in ns. -/
structure Announce where
  prio1    : Nat
  cls      : Nat
  accuracy : Nat
  variance : Nat
  prio2    : Nat
  gm       : Nat
  steps    : Nat
  source   : Nat
  port     : Nat
  interval : Nat
  deriving DecidableEq, Repr

/-- A frame that an Ethernet port discards (R369): one with a bad frame check sequence, a Management or Signaling message of
a domain, or any other. -/
inductive EthOther where
  | badFcs
  | management (dom : Fin 2)
  | other
  deriving DecidableEq, Repr

/-- What waits under HOST_CFG.BULK_TMO (R74, R140, R272, R413): a command's bulk, a sample's header or stream, a model
image's chunks, or a firmware image's words. -/
inductive BulkWait where
  | command (src : Source)
  | sample (vc : Fin 4)
  | model
  | firmware
  deriving DecidableEq, Repr

/-- The straps of the device as the board ties them (R446). -/
structure Straps where
  addrSel  : Bool := false
  ddrCfg   : Nat := 0
  cam16    : Bool := false
  pwrExt   : Bool := false
  deriving DecidableEq, Repr

/-- A local transfer that ends (R264): its tag, and the 64-bit words whose flit failed 8 retransmissions (R35, R322). -/
structure Transfer where
  tag  : Fin 2048
  lost : List Nat := []
  deriving DecidableEq, Repr

/-- A loom's tag (R263). -/
structure LoomTag where
  loom : Fin 64
  tag  : Fin 2048
  deriving DecidableEq, Repr

/-- A symbol of the Ranoz link (R385): a data byte, or a control symbol by its byte value. -/
inductive Sym where
  | data (b : Byte)
  | control (b : Byte)
  deriving DecidableEq, Repr

/-- A lane marker as a Ranoz receive lane takes it (R387): its three data bytes, whether it stands where the last one puts it,
whether idles in between were K23.7, whether the skew to the other lanes is within 128 symbols, and the code errors outside frames
since the marker before. -/
structure LaneMarker where
  b1     : Byte
  b2     : Byte
  b3     : Byte
  placed : Bool := true
  k23    : Bool := false
  inSkew : Bool := true
  errors : Nat := 0
  deriving DecidableEq, Repr

/-- A lane's line in fallback coding (R386): the 58 bits before, as its scrambler holds them, the last bit with the length of its
run, and the bits that follow. -/
structure LaneBits where
  past : BitVec 58
  last : Bool
  run  : Nat
  bits : List Bool
  deriving DecidableEq, Repr

/-- A Ranoz frame on the wire (R385, R386, R390), from behind the column that starts it to the one that ends it: its symbols in byte
order (`none` for a code violation or a disparity error), or in fallback coding the line of every lane. -/
inductive FrameWire where
  | symbols (l : List (Option Sym))
  | lanes (l : List LaneBits)
  deriving DecidableEq, Repr

/-- One telemetry sample (R439, R448): the hottest sensors in units of 0.125 °C, each regulator's voltage in mV and
current in 0.1 A (`none` where it does not answer), and whether VOUT_MODE at 0x40 is not ULINEAR16. -/
structure Telemetry where
  temps   : List Int
  rails   : List (Option (Nat × Nat))
  badMode : Bool := false
  deriving DecidableEq, Repr

/-- The commands of the block (spec/opcode_table.json). Operands carry what only the outside knows (DESIGN CHOICE:
notes/assumptions 16). -/
inductive Instr where
  /-- I3C_PRIVATE_WRITE (R59). -/
  | i3cPrivateWrite (data : List Byte)
  /-- I3C_PRIVATE_READ (R59). -/
  | i3cPrivateRead (count : Nat)
  /-- HDR_DDR_TRANSFER (R60). -/
  | hdrDdrTransfer (code : BitVec 8) (data : List (BitVec 16)) (count : Nat) (crcOk : Bool)
  /-- ENEC (R58). -/
  | enec (dest : CccTo)
  /-- DISEC (R58). -/
  | disec (dest : CccTo)
  /-- RSTDAA (R58). -/
  | rstdaa
  /-- ENTDAA (R58). -/
  | entdaa (address : BitVec 7)
  /-- SETAASA (R58). -/
  | setaasa
  /-- SETDASA (R58). -/
  | setdasa (address : BitVec 7)
  /-- SETNEWDA (R58). -/
  | setnewda (address : BitVec 7)
  /-- SETMWL (R58). -/
  | setmwl (dest : CccTo) (limit : Nat)
  /-- SETMRL (R58). -/
  | setmrl (dest : CccTo) (limit : Nat)
  /-- GETMWL (R58). -/
  | getmwl
  /-- GETMRL (R58). -/
  | getmrl
  /-- GETPID (R58). -/
  | getpid
  /-- GETBCR (R58). -/
  | getbcr
  /-- GETDCR (R58). -/
  | getdcr
  /-- GETSTATUS (R58). -/
  | getstatus
  /-- GETMXDS (R58). -/
  | getmxds
  /-- GETCAPS (R58). -/
  | getcaps
  /-- ENTHDR0 (R58). -/
  | enthdr0
  /-- ENTAS (R58). -/
  | entas (level : Fin 4)
  /-- RSTACT (R58). -/
  | rstact (dest : CccTo) (defining : Byte)
  /-- CCC_UNLISTED (R58). -/
  | cccUnlisted (dest : CccTo) (code : BitVec 8)
  /-- HOST_IBI_CAUSE_WRITE (R62). -/
  | hostIbiCauseWrite (value : Word)
  /-- MBX_H2D_GO_WRITE (R64). -/
  | mbxH2dGoWrite (value : Word)
  /-- MBX_WAKE (R64). -/
  | mbxWake
  /-- MBX_D2H_GO_READ (R66). -/
  | mbxD2hGoRead
  /-- MBX_WATCHDOG_EXPIRE (R66). -/
  | mbxWatchdogExpire
  /-- HOST_RX_COMMAND (R73). -/
  | hostRxCommand (packet : RxPacket)
  /-- HOST_RX_BULK (R74). -/
  | hostRxBulk (packet : RxPacket)
  /-- BULK_TMO_EXPIRE (R74). -/
  | bulkTmoExpire (what : BulkWait)
  /-- VERDICT_HOLD_EXPIRE (R76). -/
  | verdictHoldExpire
  /-- HOST_TX_MAP_WRITE (R77). -/
  | hostTxMapWrite (value : Word)
  /-- HOST_TX_VC_WRITE (R77). -/
  | hostTxVcWrite (index : Fin 4) (value : Word)
  /-- REGISTER_WRITE (R55). -/
  | registerWrite (address : Nat) (value : Word)
  /-- BLOCK_LOCK_WRITE (R54). -/
  | blockLockWrite (address : Nat) (value : Word)
  /-- CMD_NOP (R80). -/
  | cmdNop (src : Source)
  /-- CMD_GET_INFO (R290). -/
  | cmdGetInfo (src : Source)
  /-- CMD_RESET (R466). -/
  | cmdReset (src : Source)
  /-- RESET_BEGIN (R466). -/
  | resetBegin
  /-- CMD_SET_VCORE (R449). -/
  | cmdSetVcore (src : Source)
  /-- CMD_CAM_ENABLE (R86). -/
  | cmdCamEnable (src : Source)
  /-- CMD_CAM_DISABLE (R97). -/
  | cmdCamDisable (src : Source)
  /-- CMD_CAM_TRIGGER (R99). -/
  | cmdCamTrigger (src : Source)
  /-- CMD_PIPE_CONFIG (R102). -/
  | cmdPipeConfig (src : Source)
  /-- CMD_PIPE_TABLE (R114). -/
  | cmdPipeTable (src : Source)
  /-- CMD_TAP_SET (R121). -/
  | cmdTapSet (src : Source)
  /-- CMD_STATS_SET (R118). -/
  | cmdStatsSet (src : Source)
  /-- CMD_PROV_TABLE_SET (R27). -/
  | cmdProvTableSet (src : Source)
  /-- CMD_FINDER_ENABLE (R126). -/
  | cmdFinderEnable (src : Source)
  /-- CMD_FINDER_DISABLE (R132). -/
  | cmdFinderDisable (src : Source)
  /-- CMD_LANE_SET (R133). -/
  | cmdLaneSet (src : Source)
  /-- CMD_CLASS_MAP_SET (R135). -/
  | cmdClassMapSet (src : Source)
  /-- CMD_SAMPLE_CONFIG (R152). -/
  | cmdSampleConfig (src : Source)
  /-- CMD_BOBBIN_READ (R139). -/
  | cmdBobbinRead (src : Source)
  /-- CMD_MODEL_REGISTER (R272). -/
  | cmdModelRegister (src : Source)
  /-- CMD_MODEL_UNREGISTER (R275). -/
  | cmdModelUnregister (src : Source)
  /-- CMD_MODEL_PIN (R277). -/
  | cmdModelPin (src : Source)
  /-- CMD_PARTITION_CREATE (R269). -/
  | cmdPartitionCreate (src : Source)
  /-- CMD_PARTITION_DELETE (R270). -/
  | cmdPartitionDelete (src : Source)
  /-- CMD_JOB_START (R278). -/
  | cmdJobStart (src : Source)
  /-- CMD_JOB_STOP (R280). -/
  | cmdJobStop (src : Source)
  /-- CMD_JOB_CANCEL (R280). -/
  | cmdJobCancel (src : Source)
  /-- CMD_JOB_PREEMPT (R281). -/
  | cmdJobPreempt (src : Source)
  /-- CMD_JOB_RESUME (R285). -/
  | cmdJobResume (src : Source)
  /-- CMD_LEARN_COMMIT (R257). -/
  | cmdLearnCommit (src : Source)
  /-- CMD_ARITH_PROFILE_SET (R291). -/
  | cmdArithProfileSet (src : Source)
  /-- CMD_MEM_READ (R55). -/
  | cmdMemRead (src : Source) (flaws : List (Nat × Flaw))
  /-- CMD_MEM_WRITE (R307). -/
  | cmdMemWrite (src : Source)
  /-- CMD_MEM_FILL (R318). -/
  | cmdMemFill (src : Source)
  /-- CMD_SCRUB_SET (R319). -/
  | cmdScrubSet (src : Source)
  /-- CMD_TIME_READ (R367). -/
  | cmdTimeRead (src : Source)
  /-- CMD_TIME_DOMAIN_SET (R368). -/
  | cmdTimeDomainSet (src : Source)
  /-- CMD_TIME_SELECT (R373). -/
  | cmdTimeSelect (src : Source)
  /-- CMD_ETH_CONFIG (R375). -/
  | cmdEthConfig (src : Source)
  /-- CMD_LAUNCH_ENABLE (R377). -/
  | cmdLaunchEnable (src : Source)
  /-- CMD_LAUNCH_DISABLE (R377). -/
  | cmdLaunchDisable (src : Source)
  /-- CMD_FI_CONFIG (R346). -/
  | cmdFiConfig (src : Source)
  /-- CMD_FO_ASSIGN (R349). -/
  | cmdFoAssign (src : Source)
  /-- CMD_FO_RELEASE (R349). -/
  | cmdFoRelease (src : Source)
  /-- CMD_FO_SET (R350). -/
  | cmdFoSet (src : Source)
  /-- CMD_ENC_CONFIG (R357). -/
  | cmdEncConfig (src : Source)
  /-- CMD_EJECT_LEAD_SET (R31). -/
  | cmdEjectLeadSet (src : Source)
  /-- CMD_STOP_CLEAR (R351). -/
  | cmdStopClear (src : Source)
  /-- CMD_SAFE_VALUES_SET (R353). -/
  | cmdSafeValuesSet (src : Source)
  /-- CMD_TWIN_ROLE (R398). -/
  | cmdTwinRole (src : Source)
  /-- CMD_TWIN_STATUS (R80). -/
  | cmdTwinStatus (src : Source)
  /-- CMD_TWIN_HANDOVER (R407). -/
  | cmdTwinHandover (src : Source)
  /-- CMD_LANE_TEST (R397). -/
  | cmdLaneTest (src : Source)
  /-- CMD_FW_LOAD (R413). -/
  | cmdFwLoad (src : Source)
  /-- CMD_FW_CHUNK (R413). -/
  | cmdFwChunk (src : Source)
  /-- CMD_ATTEST_OPEN (R420). -/
  | cmdAttestOpen (src : Source)
  /-- CMD_ATTEST (R421). -/
  | cmdAttest (src : Source)
  /-- CMD_LC_TRANSITION (R424). -/
  | cmdLcTransition (src : Source)
  /-- CMD_SNAP_TRIGGER (R432). -/
  | cmdSnapTrigger (src : Source)
  /-- CMD_SNAP_CONFIG (R433). -/
  | cmdSnapConfig (src : Source)
  /-- CMD_SNAP_READ (R436). -/
  | cmdSnapRead (src : Source)
  /-- CMD_TRACE_SET (R437). -/
  | cmdTraceSet (src : Source)
  /-- CAM_FRAME_START (R89). -/
  | camFrameStart (port : Fin 17) (vc : Fin 16) (corrected : Bool)
  /-- CAM_FRAME_END (R91). -/
  | camFrameEnd (port : Fin 17) (vc : Fin 16) (corrected : Bool)
  /-- CAM_LONG_PACKET (R96). -/
  | camLongPacket (port : Fin 17) (packet : CamPacket)
  /-- HOLE_EXPIRE (R92). -/
  | holeExpire (port : Fin 17)
  /-- LINE_RETAIN_PASS (R95). -/
  | lineRetainPass (port : Fin 17)
  /-- PIPE_INLINE_LINE_DONE (R104). -/
  | pipeInlineLineDone (q : Fin 4)
  /-- PIPE_BLOCK_START (R105). -/
  | pipeBlockStart (q : Fin 4)
  /-- PIPE_BLOCK_DONE (R105). -/
  | pipeBlockDone (q : Fin 4)
  /-- PITCH_TRIGGER (R127). -/
  | pitchTrigger (rule : Fin 16)
  /-- FIELD_UP_FRAME_RX (R333). -/
  | fieldUpFrameRx (slot : Slot)
  /-- FIELD_DOWN_FRAME_RX (R334). -/
  | fieldDownFrameRx (slot : Slot)
  /-- FIELD_LINK_DOWN (R464). -/
  | fieldLinkDown (up : Bool)
  /-- FIELD_RESEND (R337). -/
  | fieldResend (up : Bool)
  /-- FIELD_ENTRY_A (R335). -/
  | fieldEntryA
  /-- FIELD_ENTRY_B (R335). -/
  | fieldEntryB
  /-- FIELD_ENTRY_C (R18). -/
  | fieldEntryC
  /-- FIELD_CFG_MSG (R345). -/
  | fieldCfgMsg
  /-- FIELD_TABLE_CLEAR (R411). -/
  | fieldTableClear
  /-- FIELD_STOP_CLEAR_MSG (R351). -/
  | fieldStopClearMsg
  /-- FIELD_RESYNC_MSG (R465). -/
  | fieldResyncMsg
  /-- AMEND_ARRIVE (R20). -/
  | amendArrive
  /-- CLOSE_MATCH (R21). -/
  | closeMatch (entry : Fin 256)
  /-- EJECT_MATCH (R23). -/
  | ejectMatch (entry : Fin 256)
  /-- PULSE_END (R364). -/
  | pulseEnd (entry : Fin 256)
  /-- ENTRY_TMO_EXPIRE (R365). -/
  | entryTmoExpire (entry : Fin 256)
  /-- SAFE_STATE_EXIT (R343). -/
  | safeStateExit
  /-- FIELD_ACK_REPORT (R137). -/
  | fieldAckReport
  /-- FIELD_REFUSE_REPORT (R18). -/
  | fieldRefuseReport
  /-- FIELD_ACCEPT_REPORT (R137). -/
  | fieldAcceptReport
  /-- FIELD_REJECT_REPORT (R338). -/
  | fieldRejectReport
  /-- FIELD_CLOSE_REPORT (R137). -/
  | fieldCloseReport
  /-- FIELD_EJECT_REPORT (R137). -/
  | fieldEjectReport
  /-- FIELD_LATCH_REPORT (R128). -/
  | fieldLatchReport
  /-- FIELD_INDEX_REPORT (R361). -/
  | fieldIndexReport
  /-- FIELD_SYNC_REPORT (R339). -/
  | fieldSyncReport
  /-- FIELD_FI_STATE_REPORT (R336). -/
  | fieldFiStateReport
  /-- FIELD_STATUS_REPORT (R342). -/
  | fieldStatusReport
  /-- FIELD_SPEED_REPORT (R360). -/
  | fieldSpeedReport
  /-- FIELD_RESYNC_REPORT (R465). -/
  | fieldResyncReport
  /-- FIELD_POWER_UP (R444). -/
  | fieldPowerUp
  /-- FIELD_POWER_DOWN (R444). -/
  | fieldPowerDown
  /-- FI_EDGE (R347). -/
  | fiEdge (input : Fin 16) (level : Bool)
  /-- DEBOUNCE_EXPIRE (R347). -/
  | debounceExpire (input : Fin 16)
  /-- ENC_QUAD_EDGE (R358). -/
  | encQuadEdge (ch : Fin 2) (levels : QuadSample) (clocks : Nat)
  /-- ENC_Z_EDGE (R361). -/
  | encZEdge (ch : Fin 2)
  /-- ENC_LINE_FAULT (R358). -/
  | encLineFault (ch : Fin 2) (fault : Bool)
  /-- SSI_READ (R362). -/
  | ssiRead (raw : Nat) (idleHigh : Bool) (clocks : Nat)
  /-- OUTPUT_OVERLOAD (R354). -/
  | outputOverload (output : Fin 8)
  /-- OUTPUT_FAULT_RETRY (R354). -/
  | outputFaultRetry (output : Fin 8) (persists : Bool)
  /-- SYNC_SNAPSHOT (R339). -/
  | syncSnapshot
  /-- STATUS_PERIODIC (R336). -/
  | statusPeriodic
  /-- SPEED_PERIODIC (R336). -/
  | speedPeriodic (ch : Fin 2) (idle : Bool)
  /-- FIELD_REGISTER_WRITE (R345). -/
  | fieldRegisterWrite (address : Nat) (value : Word)
  /-- BOB_AGE_EXPIRE (R138). -/
  | bobAgeExpire (bobbin : Fin 4096)
  /-- BOB_AGE_LIMIT_WRITE (R138). -/
  | bobAgeLimitWrite (value : Word)
  /-- STRIPE_TASK_ISSUE (R195). -/
  | stripeTaskIssue (part : Fin 8) (loom : Fin 64)
  /-- STRIPE_TASK_RETIRE (R197): on its loom; under FAST with the order in which partial sums arrived (R294). -/
  | stripeTaskRetire (loom : Fin 64) (bobbin : Fin 4096) (token : Nat) (stripe : Nat) (arrival : Nat)
  /-- LATEST_START_REACHED (R211). -/
  | latestStartReached (part : Fin 8)
  /-- FILL_WAIT_EXPIRE (R212). -/
  | fillWaitExpire (part : Fin 8)
  /-- SAMPLE_BATCH_WAIT_EXPIRE (R212). -/
  | sampleBatchWaitExpire (part : Fin 8)
  /-- BATCH_STEP_START (R212). -/
  | batchStepStart (part : Fin 8)
  /-- BATCH_STEP_DONE (R215): under FAST with the orders in which partial sums arrived (R294), in the projections of heads, in
  the blocks after their heads, in the layers after the blocks, and in the gradients. -/
  | batchStepDone (part : Fin 8) (projections : Nat) (blocks : Nat) (heads : Nat) (gradients : Nat)
  /-- OPTIMISER_STEP_START (R254). -/
  | optimiserStepStart (part : Fin 8)
  /-- OPTIMISER_STEP_DONE (R255). -/
  | optimiserStepDone (part : Fin 8)
  /-- WLOAD (R162). -/
  | wload (loom : Fin 64) (engine : Fin 4) (words : List Word) (aux : Aux)
  /-- MM (R165). -/
  | mm (loom : Fin 64) (engine : Fin 4) (words : List Word) (aux : Aux)
  /-- MMT (R166). -/
  | mmt (loom : Fin 64) (engine : Fin 4) (words : List Word) (aux : Aux)
  /-- CONV (R180). -/
  | conv (loom : Fin 64) (engine : Fin 4) (words : List Word) (aux : Aux)
  /-- DW (R185). -/
  | dw (loom : Fin 64) (engine : Fin 4) (words : List Word) (aux : Aux)
  /-- VPROG (R259). -/
  | vprog (loom : Fin 64) (engine : Fin 4) (words : List Word) (aux : Aux)
  /-- LFETCH (R193). -/
  | lfetch (loom : Fin 64) (engine : Fin 4) (words : List Word) (aux : Aux)
  /-- SHUTTLE (R261). -/
  | shuttle (loom : Fin 64) (engine : Fin 4) (words : List Word) (aux : Aux)
  /-- SHUTTLE_COMPLETE (R35, R265). -/
  | shuttleComplete (loom : Fin 64) (transfer : Transfer)
  /-- SIGNAL (R266). -/
  | signal (loom : Fin 64) (engine : Fin 4) (words : List Word) (aux : Aux)
  /-- WAIT (R266). -/
  | wait (loom : Fin 64) (engine : Fin 4) (words : List Word) (aux : Aux)
  /-- END (R266). -/
  | endInstr (loom : Fin 64) (engine : Fin 4) (words : List Word) (aux : Aux)
  /-- FENCE_WINDOW_EXPIRE (R427). -/
  | fenceWindowExpire
  /-- PACE_WINDOW (R43). -/
  | paceWindow (rates : List Nat)
  /-- RREQ_RECEIVE (R395). -/
  | rreqReceive
  /-- RRESP_RECEIVE (R286). -/
  | rrespReceive
  /-- REMOTE_TMO_EXPIRE (R286). -/
  | remoteTmoExpire (part : Fin 8) (shuttle : LoomTag)
  /-- MODEL_RESIDENT (R278). -/
  | modelResident (model : Nat)
  /-- PREEMPT_COMPLETE (R281). -/
  | preemptComplete (part : Fin 8)
  /-- RESUME_COMPLETE (R285). -/
  | resumeComplete (part : Fin 8)
  /-- MODEL_CACHE_RELOAD (R327). -/
  | modelCacheReload (model : Nat) (unit : Nat)
  /-- HOST_RX_MODEL_CHUNK (R273). -/
  | hostRxModelChunk (packet : RxPacket)
  /-- HOST_RX_SAMPLE (R140). -/
  | hostRxSample (packet : RxPacket)
  /-- SAMPLE_DECODE_START (R145). -/
  | sampleDecodeStart (seq : Nat)
  /-- SAMPLE_DECODE_DONE (R144). -/
  | sampleDecodeDone (seq : Nat)
  /-- SAMPLE_DECODE_LIMIT_EXPIRE (R145). -/
  | sampleDecodeLimitExpire (seq : Nat)
  /-- SAMPLE_TAKE_BOBBIN (R149). -/
  | sampleTakeBobbin
  /-- QUANT_STAT_CTRL_WRITE (R235). -/
  | quantStatCtrlWrite (part : Fin 8) (value : Word)
  /-- QUANT_CALIB_EN_SET (R239). -/
  | quantCalibEnSet (part : Fin 8)
  /-- QUANT_CALIB_EN_CLEAR (R240). -/
  | quantCalibEnClear (part : Fin 8)
  /-- SCHED_LEARN_HYPER_WRITE (R256). -/
  | schedLearnHyperWrite (part : Fin 8) (offset : Nat) (value : Word)
  /-- DET_CTRL_CLEAR (R298). -/
  | detCtrlClear
  /-- SRAM_WIPE_DONE (R316). -/
  | sramWipeDone
  /-- DDR_TRAINING_DONE (R316). -/
  | ddrTrainingDone
  /-- DDR_WIPE_MARK_ADVANCE (R316). -/
  | ddrWipeMarkAdvance
  /-- SCRUB_DDR_ACCESS (R320). -/
  | scrubDdrAccess (contended : Bool) (flaw : Option Flaw)
  /-- SCRUB_SRAM_ACCESS (R320). -/
  | scrubSramAccess (contended : Bool) (flaw : Option Flaw)
  /-- TMR_WALK (R314). -/
  | tmrWalk (before after : List Upset)
  /-- PRIVATE_MEMORY_UE (R328). -/
  | privateMemoryUe
  /-- PTP_ANNOUNCE_RX (R369). -/
  | ptpAnnounceRx (dom : Fin 2) (ann : Announce)
  /-- PTP_SYNC_RX (R370). -/
  | ptpSyncRx (dom : Fin 2) (seq : Nat) (twoStep : Bool) (origin : Int) (rate : Int)
  /-- PTP_FOLLOW_UP_RX (R369). -/
  | ptpFollowUpRx (dom : Fin 2) (seq : Nat) (origin : Int) (rate : Int)
  /-- PTP_DELAY_RESP_RX (R369). -/
  | ptpDelayRespRx (dom : Fin 2) (received : Int)
  /-- PTP_PDELAY_REQ_RX (R369). -/
  | ptpPdelayReqRx (dom : Fin 2)
  /-- PTP_PDELAY_RESP_RX (R369). -/
  | ptpPdelayRespRx (dom : Fin 2) (twoStep : Bool) (value : Int)
  /-- PTP_PDELAY_RESP_FOLLOW_UP_RX (R369). -/
  | ptpPdelayRespFollowUpRx (dom : Fin 2) (origin : Int)
  /-- PTP_DELAY_REQ_SEND (R369). -/
  | ptpDelayReqSend (dom : Fin 2)
  /-- ETH_RX_OTHER (R369). -/
  | ethRxOther (port : Fin 2) (kind : EthOther)
  /-- ANNOUNCE_TMO (R370). -/
  | announceTmo (dom : Fin 2)
  /-- SYNC_TMO (R370). -/
  | syncTmo (dom : Fin 2)
  /-- ETH_LINK_CHANGE (R375). -/
  | ethLinkChange (port : Fin 2) (up : Bool)
  /-- COMPARE_UNIT_FIRE (R383). -/
  | compareUnitFire (unit : Fin 32)
  /-- TIMED_FRAME_TX_DONE (R382). -/
  | timedFrameTxDone (port : Fin 2)
  /-- ETH_TXTS_ID_READ (R382). -/
  | ethTxtsIdRead (port : Fin 2)
  /-- TK_TIME_NS_READ (R367). -/
  | tkTimeNsRead
  /-- RANOZ_MARKER_RX (R387). -/
  | ranozMarkerRx (lane : Fin 8) (marker : LaneMarker)
  /-- FALLBACK_TIMEOUT (R388). -/
  | fallbackTimeout
  /-- RANOZ_LANE_LOSS (R389). -/
  | ranozLaneLoss (lane : Fin 8)
  /-- RANOZ_FRAME_RX (R393). -/
  | ranozFrameRx (frame : FrameWire)
  /-- RANOZ_ACK_TMO (R393). -/
  | ranozAckTmo
  /-- RANOZ_NULL_TMO (R393). -/
  | ranozNullTmo
  /-- CREDIT_RETURN_RX (R394): the data byte of the virtual lane, and the two of its credits. -/
  | creditReturnRx (lane : Byte) (credits : Byte × Byte)
  /-- HEARTBEAT_SEND (R399). -/
  | heartbeatSend
  /-- HEARTBEAT_RX (R399). -/
  | heartbeatRx
  /-- MBX_D2T_GO_WRITE (R396). -/
  | mbxD2tGoWrite (value : Word)
  /-- MBX_FRAME_RX (R396). -/
  | mbxFrameRx
  /-- MBX_T2D_GO_READ (R396). -/
  | mbxT2dGoRead
  /-- MBX_ACK_RX (R396). -/
  | mbxAckRx
  /-- MIRROR_RX (R401). -/
  | mirrorRx
  /-- VERDICT_RX (R403). -/
  | verdictRx
  /-- XCHECK_WAIT_EXPIRE (R403). -/
  | xcheckWaitExpire (bobbin : Fin 4096)
  /-- TWIN_CTL_RX (R407). -/
  | twinCtlRx
  /-- TAKEOVER_TMO (R404). -/
  | takeoverTmo
  /-- HANDOVER_TMO (R407). -/
  | handoverTmo
  /-- LINK_CFG_WRITE (R384). -/
  | linkCfgWrite (value : Word)
  /-- LANE_TEST_END (R397). -/
  | laneTestEnd (errors : Nat) (bits : Nat)
  /-- POWER_ON_RESET (R425, R443). -/
  | powerOnReset
  /-- RST_N_ASSERT (R443). -/
  | rstNAssert
  /-- RAIL_FAULT (R425, R443). -/
  | railFault
  /-- REFCLK_STOP (R443). -/
  | refclkStop
  /-- RESET_RELEASE (R442). -/
  | resetRelease (straps : Straps)
  /-- RESET_HOLD_END (R466). -/
  | resetHoldEnd (straps : Straps)
  /-- FIRMWARE_START (R415). -/
  | firmwareStart
  /-- FW_RUN (R415). -/
  | fwRun
  /-- IDENTITY_DERIVED (R419). -/
  | identityDerived
  /-- LOOM_STARTUP_TEST_DONE (R416). -/
  | loomStartupTestDone (failed : List (Fin 64))
  /-- MGMT_WATCHDOG (R409). -/
  | mgmtWatchdog
  /-- THERMAL_TRIP (R452). -/
  | thermalTrip
  /-- THERMAL_RELEASE (R452). -/
  | thermalRelease (straps : Straps)
  /-- TELEMETRY_SAMPLE (R439). -/
  | telemetrySample (sample : Telemetry)
  /-- VCORE_STEP (R449). -/
  | vcoreStep
  /-- PWR_ALERT (R448). -/
  | pwrAlert (words : List Word)
  /-- SNAP_LATCH_DONE (R434). -/
  | snapLatchDone (lags : List Nat)
  /-- SNAP_HOLDOFF_EXPIRE (R435). -/
  | snapHoldoffExpire
  /-- IBI_DELIVERED (R62). -/
  | ibiDelivered
  /-- EJECT_TABLE_ERROR (R363). -/
  | ejectTableError (entry : Fin 256) (uncorrectable : Bool)
  /-- PARTNER_LOST (R406). -/
  | partnerLost
  /-- TRIGGER_PULSE_END (R99). -/
  | triggerPulseEnd (pin : TrigPin)
  /-- MEM_FILL_DONE (R318). -/
  | memFillDone
  /-- ATTEST_OPEN_DONE (R420). -/
  | attestOpenDone
  /-- ATTEST_DONE (R421). -/
  | attestDone
  /-- LEARN_COMMIT_DONE (R257). -/
  | learnCommitDone (part : Fin 8)
  /-- SNAP_READ_DONE (R436). -/
  | snapReadDone
  /-- LC_TRANSITION_DONE (R424). -/
  | lcTransitionDone
  /-- I3C_TARGET_READY (R410). -/
  | i3cTargetReady
  /-- HOST_CSI2_READY (R410). -/
  | hostCsi2Ready
  /-- ETH_LANES_START (R410). -/
  | ethLanesStart
  deriving DecidableEq, Repr

end Sys2Proof
end

