-- ==== Sys2Proof/Decode.lean ====
section
/-! DEFINITION. The commands as the opcode table's bits spell them. No row of the table has bits: the commands are events
and operations at the block's pins and registers, so no word spells one. -/

namespace Sys2Proof

/-- The command that a word spells by the table's bits: none, since no row of spec/opcode_table.json has any (notes/assumptions 9). -/
def decodeTableWord (_nbits _w : Nat) : Option Instr := none

end Sys2Proof
end

