-- ==== Sys2Proof/Config.lean ====
section
/-! DEFINITION. What the spec leaves open and the model does not choose: opaque constants, one for each free value
or unexposed algorithm. Nothing can be proved about their values; a statement holds for every value of them. -/

namespace Sys2Proof.Config

/-- The hash that the spec names SHA-256 and does not define (R414, R415, R418): an unexposed algorithm.
(DESIGN CHOICE: notes/assumptions 12.) -/
opaque sha256 : List Byte → List Byte

/-- Verification of an LMS signature by a public-key block over a message (R414, R423, R274): the algorithm is
RFC 8554's, which the spec names and does not define. -/
opaque lmsVerify : (key : List Byte) → (signature : List Byte) → (message : List Byte) → Bool

/-- The root of the tree grown from a seed and an identifier I, at the given height (R419, R420). -/
opaque lmsRoot : (seed ident : List Byte) → (height : Nat) → List Byte

/-- The randomiser and the chains of the one-time signature of a message by leaf `q` (R420, R421). -/
opaque lmsChains : (seed ident : List Byte) → (leaf : Nat) → (message : List Byte) → List Byte

/-- The path from leaf `q` to the root of the tree of the given height (R420, R421). -/
opaque lmsPath : (seed ident : List Byte) → (height leaf : Nat) → List Byte

/-- The type code of LMS_SHA256_M32_H12, which RFC 8554 does not list and the spec does not give (R419). -/
opaque lmsTypeH12 : Nat

/-- The n-th draw of on-chip entropy (R418, R424): 32 bytes, unconstrained. -/
opaque entropy : Nat → List Byte

/-- Where a loss of power has met the burning of a transition's fuses (R425): not begun, or how many value fields are whole and
which bits of the next are burnt. (DESIGN CHOICE: notes/assumptions 206.) -/
opaque powerLoss : Nat → Option (Nat × List Byte)

/-- The test-root hash that the boot ROM holds in BLANK (R418). -/
opaque romTestRoot : List Byte

/-- The n-th value that a step leaves open (an unstated result, an undefined value). -/
opaque freeWord : Nat → Word

/-- Which neighbour within 1 ulp of the exact value the vector unit's functions give (R175: 0 exp2, 1 log2, 2 rcp, 3 rsqrt), by
a definition that the spec does not give; and their result where the exact value is none or too large.
(DESIGN CHOICE: notes/assumptions 13.) -/
opaque vecPick : (function : Nat) → Word → Nat
opaque vecEdge : (function : Nat) → Word → Word

/-- The minimum or maximum of a NaN and another value, or of zeros of two signs (R175).
(DESIGN CHOICE: notes/assumptions 189.) -/
opaque minMax : (greater : Bool) → Word → Word → Word

/-- The check byte of an SRAM word's data (R304): the rule gives it for zero data and names the code, an extended Hamming code, without
its matrix. (DESIGN CHOICE: notes/assumptions 201.) -/
opaque hamming : BitVec 64 → Byte

/-- What entry `entry` of a column's codebook store holds where no load has written it (R155).
(DESIGN CHOICE: notes/assumptions 190.) -/
opaque staleEntry : (loom column entry : Nat) → BitVec 12

/-- What a cell of a loom holds where the load of its tile did not write it (R161, R165).
(DESIGN CHOICE: notes/assumptions 191.) -/
opaque staleCell : (loom row column : Nat) → BitVec 16

/-- An operation of the vector unit (R175), on values of the same lane or across lanes; `const` brings a constant for each
lane. -/
inductive VecOp where
  | const (values : List Word)
  | add | mul | min | max | less | select | fma
  | iadd | shl | shr | sar | land | lor | lxor
  | exp2 | log2 | rcp | rsqrt
  | sum | least | greatest
  deriving DecidableEq, Repr, Inhabited

/-- A step of a vector-unit program: an operation on the results of earlier steps; result 0 is the row itself. -/
structure VecIns where
  op : VecOp
  a  : Nat := 0
  b  : Nat := 0
  c  : Nat := 0
  deriving DecidableEq, Repr, Inhabited

/-- The operations that a vector-unit program makes on a row, in order; the last gives the row's result: the programs come
from the image, and their encoding is not exposed (R175). (DESIGN CHOICE: notes/assumptions 192.) -/
opaque vecProgram : (program : Nat) → List VecIns

/-- The FP32 values or integers that a VPROG takes from a row of input bytes (R226, R259). -/
opaque vecInput : (program : Nat) → (input : List Byte) → List Word

/-- What the frame header of a JPEG says (R144): the number of its SOF marker (0 baseline sequential), the bits of a value,
the dimensions, and each component's horizontal and vertical sampling factors. -/
structure JpegFrame where
  sof       : Nat := 0
  precision : Nat := 8
  width     : Nat := 0
  height    : Nat := 0
  sampling  : List (Nat × Nat) := []
  deriving DecidableEq, Repr, Inhabited

/-- The frame header that a decoder finds in a stream, and the values of a component that it decodes, at the component's own
sampling in line order, as far as the stream gives them: ITU-T T.81, which the spec names and does not restate.
(DESIGN CHOICE: notes/assumptions 12.) -/
opaque jpegFrame : List Byte → Option JpegFrame
opaque jpegPlane : (stream : List Byte) → (component : Nat) → List Byte

/-- Strap ENCc_HTL of an encoder channel on the field side, which the field die reads continuously (R356, R446): the board ties it.
(DESIGN CHOICE: notes/assumptions 205.) -/
opaque encHtl : (channel : Nat) → Bool

/-- Whether the device takes a JPEG for a grey one when it checks the sample's header and what has arrived of the file does not say
(R142), by the sample's place in the submission order. (DESIGN CHOICE: notes/assumptions 54.) -/
opaque greyFile : (place : Nat) → (header : List Word) → Bool

/-- One schedule of an image: its partition size, T_stem, T_step and optimiser-step time in ns (R274). -/
structure Schedule where
  n     : Nat := 0
  tStem : Nat := 0
  tStep : Nat := 0
  tOpt  : Nat := 0
  deriving DecidableEq, Repr, Inhabited

/-- A learnable layer that an image declares (R244): its widths, its weights' format code (R221), the stored weights or
indices, the biases, the codebook entries and scales. -/
structure LearnLayer where
  ins     : Nat := 0
  outs    : Nat := 0
  fmt     : Nat := 7
  weights : List Nat := []
  biases  : List Nat := []
  entries : List Int := []
  sigmas  : List Nat := []
  deriving DecidableEq, Repr, Inhabited

/-- What an image holds for one head of one block (R204, R206): the constant c, the scale records of its queries, keys and
values, and the codebooks of its keys and values. -/
structure AttnConst where
  c     : Word := 0
  qRec  : List Word := []
  kRec  : List Word := []
  vRec  : List Word := []
  kBook : List Int := []
  vBook : List Int := []
  deriving DecidableEq, Repr, Inhabited

/-- What the device takes from a Decen image beyond its header: Latum's encoding of it is not exposed (R274). -/
structure Image where
  schedules : List Schedule := []
  tokenR    : Nat := 4
  tMax      : Nat := 1
  blocks    : Nat := 1
  heads     : Nat := 1
  headDim   : Nat := 16
  kvInt8    : Bool := false
  float     : Bool := false
  width     : Nat := 0
  comps     : Nat := 1
  inFmt     : Nat := 0
  stripes   : List (Nat × Nat) := []
  sl        : Nat := 0
  sr        : Nat := 0
  v         : Nat := 0
  channels  : List (Nat × Nat) := []
  learn     : List LearnLayer := []
  attn      : List (List AttnConst) := []
  deriving DecidableEq, Repr, Inhabited

/-- Row `t`, element `d` of an image's positional table (R201): an integer, or a binary32 pattern in float modes. -/
opaque positional (im : Image) (t d : Nat) : Int

/-- The contents of a registered image. (DESIGN CHOICE: notes/assumptions 14.) -/
opaque image : List Byte → Image

/-- The signer's public-key block, the signature and the signed bytes of an image (R274): their place is not exposed. -/
opaque imageKey : List Byte → List Byte
opaque imageSignature : List Byte → List Byte
opaque imageSigned : List Byte → List Byte

/-- Byte `i` of a packed line whose words end inside a group of pixels (R82, R107): the low bits of the last pixels lie past
the line, and the spec states no value for them. (DESIGN CHOICE: notes/assumptions 176.) -/
opaque pastLine : Nat → Byte

/-! What the programs of an image compute between the operations that the spec defines (R204, R216, R250). Each is fixed by the
image, by `sig` (the arithmetic profile, and under FAST the order in which partial sums arrive), and by the values of the one row
that it is given; `none` is a poisoned value or row. (DESIGN CHOICE: notes/assumptions 71.) -/

/-- The query (0), key (1) or value (2) of a head of a block. -/
opaque project (im : Image) (sig : Nat × Nat) (block head which : Nat) (row : List Word) : List (Option Word)

/-- A row after a block, from the row before it and its heads' outputs. -/
opaque afterBlock (im : Image) (sig : Nat × Nat) (block : Nat) (row heads : List Word) : Option (List Word)

/-- What the layers above the last block and below the learnable ones make of a row; the logits where nothing is learnable. -/
opaque topInput (im : Image) (sig : Nat × Nat) (row : List Word) : Option (List Word)

/-- The output of a learnable layer with the parameters of the copy that the row uses (R245). -/
opaque layerOut (im : Image) (sig : Nat × Nat) (layer : Nat) (copy : List (List Nat)) (row : List Word) : Option (List Word)

/-- The backward epilogue of a learnable layer (R250): the gradient of its sums from that of its output, from the copy of its tensors
that the row used, and from its input and output there. -/
opaque backEpilogue (im : Image) (sig : Nat × Nat) (layer : Nat) (copy : List (List Nat)) (gradient row output : List Word) : List Word

/-- What a codebook layer hands down for its input `i` where an element of its output gradient is infinite, so that no scale fits
(R250). (DESIGN CHOICE: notes/assumptions 224.) -/
opaque wideGradient : (gradient : List Nat) → (i : Nat) → Word

/-- The scale that the gradient of input `i` takes from a codebook layer with a scale for each channel (R250): the rule names
one scale. (DESIGN CHOICE: notes/assumptions 198.) -/
opaque backSigma : (sigmas : List Nat) → (i : Nat) → Word

/-- The image that a commit builds from the running image and the working copy, parameter by parameter (R257). -/
opaque committed : List Byte → List Nat → List Byte

/-- The place in a registered image from which byte `i` of its cache part comes (R276): which bytes of an image must be
resident is not exposed. -/
opaque cacheSource (img : List Byte) (i : Nat) : Nat

/-- Where in an area that the spec does not lay out the device puts an item (in units of 64 bytes), and the item's bytes there
(R140, R251, R308). (DESIGN CHOICE: notes/assumptions 55.) -/
opaque areaPlace : (item : Nat) → Nat
opaque areaByte : (item : Nat) → (i : Nat) → Byte

/-- The contents of a save record that the spec does not lay out (R282). (DESIGN CHOICE: notes/assumptions 15.) -/
opaque saveByte : Nat → Byte

end Sys2Proof.Config
end

