-- ==== Sys2Proof/Machine/Units1.lean ====
section
/-! DEFINITION. The units of the state, part 1: the I3C target, the host link, memory, boot and identity,
snapshots, time and the Ethernet ports (chapters 03, 14, 16, 18, 19 and 20 of spec/). State that a register of the
register map holds is kept in the register file and not here. -/

namespace Sys2Proof.Machine


/-- Where a command stands with its bulk data (R74): no bulk, bulk still awaited, complete, or ended early. -/
inductive BulkEnd where
  | none | awaiting | complete | truncated | timedOut
  deriving DecidableEq, Repr

/-- An accepted command (R67): its header fields, parameters and the bulk taken so far; `silent` marks a started command that
has not replied yet (R70). -/
structure Cmd where
  opcode   : Nat := 0
  replyCsi : Bool := false
  quiet    : Bool := false
  tag      : Nat := 0
  target   : Nat := 0
  params   : List Word := []
  bulkLen  : Nat := 0
  bulk     : List Byte := []
  bulkEnd  : BulkEnd := .none
  silent   : Bool := false
  deriving DecidableEq, Repr

/-- The I3C target (R57 to R62). `response` is what the target last drove on the bus: the model's record of an
answer, `none` where it does not answer (NACK or no data). -/
structure I3c where
  ready     : Bool := false
  dynAddr   : Option (BitVec 7) := none
  ibiOn     : Bool := true
  pending   : Bool := false
  again     : Bool := false
  mwl       : Nat := 256
  mrl       : Nat := 256
  ptr       : Nat := 0
  hdr       : Bool := false
  protoErr  : Bool := false
  response  : Option (List Byte) := none
  deriving DecidableEq, Repr

/-- One frame sent on a host CSI-2 transmit port (R75 to R77): the port, the wire virtual channel, the frame number,
the transmit channel, and its long packets with their data types; `badCrc` marks long packets sent with an inverted CRC
(R324). -/
structure TxFrame where
  port    : Nat
  wireVc  : Nat
  frame   : Nat
  chan    : Nat
  packets : List (Nat × List Byte)
  badCrc  : List Bool := []
  deriving DecidableEq, Repr

/-- The host link (R63 to R77): commands waiting for their start, 2R commands that have replied ACCEPTED, the reply
queue of MBX_D2H, what waits for a disabled transmit port, the frame numbers, everything sent, and the DONE that a due reset
waits for (R424, R466). -/
structure HostLink where
  csiReady   : Bool := false
  waiting    : List (Source × Cmd) := []
  running    : List (Source × Cmd) := []
  h2dWoken   : Bool := false
  d2hQueue   : List (List Word) := []
  d2hWatch   : Bool := false
  d2hLast    : List Word := []
  statusQ    : List (List Word) := []
  records    : List (List Word) := []
  statsQ     : List (List Word) := []
  snapQ      : List (List Word) := []
  traceQ     : List (List Word) := []
  recSeq     : Nat := 0
  frameNo    : Tbl Nat := []
  sent       : List TxFrame := []
  resetReply : List Word := []
  deriving DecidableEq, Repr


/-- The memories of R53. `cells` are the bytes that differ from 0x00. `clean` lists, by base address, the SRAM words whose
poison bit is 0 and the DDR5 bursts that do not hold the poison pattern; `valid` lists the granules whose check bits are those of
their data, the other SRAM words holding the complement (R304, R305). `flaws` are the errors that stored granules hold, and `held`
the writes that wait for the wipe (R317); `met` the model-cache units in which poison has been met and which are to be loaded again
(R327). A granule not listed is as the wipe leaves it: data 0, check byte 0xFF, poisoned. -/
structure Memory where
  cells : List (Nat × BitVec 8) := []
  clean : Tbl Unit := []
  valid : Tbl Unit := []
  flaws : Tbl Flaw := []
  held  : List (Nat × List (Option Byte)) := []
  met   : Tbl Unit := []
  deriving DecidableEq, Repr

/-- The three copies of a critical word (R313), each by its difference from the word's value. -/
structure Copies where
  a : BitVec 32 := 0
  b : BitVec 32 := 0
  c : BitVec 32 := 0
  deriving DecidableEq, Repr

/-- A fill in progress (R318): where the next granule goes, how many bytes remain and have been written. -/
structure Fill where
  src     : Source
  addr    : Nat
  left    : Nat
  done    : Nat
  pattern : Word
  deriving DecidableEq, Repr

/-- The scrubber (R319 to R321): the debt of each target, and the next granule of the DDR5 and the SRAM walk (an
address). -/
structure Scrub where
  debt : Tbl Nat := []
  ddr  : Nat := 0
  sram : Nat := 0x2000000000
  deriving DecidableEq, Repr

/-- A firmware load that awaits its image or its checks (R413): its source, the image length, and the bytes received
by offset. -/
structure FwLoad where
  src  : Source
  len  : Nat
  got  : Tbl Byte := []
  deriving DecidableEq, Repr

/-- A value field of the fuses (R418): its 256 bits, 0 where unburnt, and its pair of flag bits. -/
structure FuseField where
  value : List Byte := List.replicate 32 0
  flagA : Bool := false
  flagB : Bool := false
  deriving DecidableEq, Repr

/-- How far burning the fuses of a life-cycle transition has come when power is lost (R425): the value fields that are whole,
their flags among them; the bits of the next one that are burnt, its flags not; beyond the last field, the bits of the state, the
first and then the second of each pair. -/
structure BurnCut where
  fields : Nat
  part   : List Byte
  deriving DecidableEq, Repr

/-- The fuse fields of R418 and the fused constants of the registers. The life-cycle state is five redundant pairs of bits:
`lifeA` and `lifeB` hold the first and the second bit of each pair. (DESIGN CHOICE: notes/assumptions 7.) -/
structure Fuses where
  uds         : FuseField := {}
  vendorRoot  : FuseField := {}
  ownerSeed   : FuseField := {}
  ownerAuth   : FuseField := {}
  modelKey    : FuseField := {}
  lifeA       : Nat := 0
  lifeB       : Nat := 0
  sessions    : Nat := 0
  grade       : Nat := 0
  mac         : Tbl Nat := []
  deriving DecidableEq, Repr

/-- What holds the device in reset (R443, R452, R466). -/
structure Holds where
  rail    : Bool := false
  rstN    : Bool := false
  refclk  : Bool := false
  thermal : Bool := false
  timed   : Bool := false
  deriving DecidableEq, Repr

/-- Boot, identity and life cycle (R409 to R425). -/
structure Boot where
  held        : Bool := false
  holds       : Holds := {}
  resetDue    : Option Nat := none
  ethLanes    : Bool := false
  load        : Option FwLoad := none
  image       : Option (List Byte) := none
  started     : Bool := false
  loomTested  : Bool := false
  idDone      : Bool := false
  provWritten : Bool := false
  transition  : Option (Source × Nat × Nat) := none
  attestOpen  : Bool := false
  thermN      : Bool := true
  lcNext      : Bool := false
  nonce       : Nat := 0
  deriving DecidableEq, Repr

/-- One entry of the snapshot ring (R434 to R436): its sequence number, source bits, the device time at which it
fired, each block's latch delay in ns, the fence map and the register values copied. -/
structure Snap where
  seq     : Nat
  sources : Nat
  time    : Nat
  lag     : List Nat := []
  fenced  : Nat := 0
  regs    : Tbl Word := []
  deriving DecidableEq, Repr

/-- Snapshots and trace (R432 to R437). `count` is how many ring entries have been taken (R436); `trail` holds, while a trigger
travels, what the registers showed at the end of each nanosecond since its firing (R434). -/
structure SnapUnit where
  count     : Nat := 0
  trail     : List (Tbl Word) := []
  ring      : Tbl Snap := []
  taking    : Option Nat := none
  holdoff   : Bool := false
  holdEntry : Nat := 0
  encAt     : Int := 0
  encBelow  : Bool := false
  timeRearm : Bool := false
  reads     : List (Source × Nat × Nat × Nat) := []
  traceSrc  : Nat := 0
  traceRate : Nat := 0
  traceMs   : Nat := 0
  traceN    : Nat := 0
  deriving DecidableEq, Repr

/-- A foreign master of a domain (R368): its last Announce, the uptime of that, and whether it qualifies, by two Announces
within the window. -/
structure Master where
  ann   : Announce
  heard : Nat
  good  : Bool := false
  deriving DecidableEq, Repr

/-- The model of one PTP domain (R370, R372): consecutive measurements inside the lock window, whether a model exists, the
uptime and the domain time (ps) of its last measurement, the rate in units of 10^-12, the grandmaster, the Sync that awaits
its Follow_Up with its ingress time and uptime, the last Sync's origin and ingress, the egress of the last delay request, the times of
a two-step peer-delay response, the path delay, the foreign masters and the transmitter chosen among them. -/
structure Domain where
  inside   : Nat := 0
  modelled : Bool := false
  since    : Nat := 0
  base     : Int := 0
  rate     : Int := 0
  offset   : Int := 0
  gm       : Option Nat := none
  syncSeq  : Option (Nat × Int × Nat) := none
  sync     : Option (Int × Int) := none
  asked    : Option Int := none
  peer     : Option (Int × Int) := none
  delay    : Int := 0
  foreign  : List Master := []
  parent   : Option (Nat × Nat) := none
  deriving DecidableEq, Repr

/-- A timed frame (R378, R380): its launch time in units of 2^-48 ns, its serial, lane, late flag, eject count, encoder
channel, final action, valve channels, and its egress timestamp once sent. -/
structure TimedFrame where
  launch : Nat
  serial : Nat
  lane   : Nat
  late   : Bool := false
  eject  : Int := 0
  chan   : Nat := 0
  advance : Nat := 0
  action : Nat := 0
  first  : Nat := 0
  count  : Nat := 0
  stamp  : Nat := 0
  deriving DecidableEq, Repr

/-- One Ethernet port (R375 to R382): the launch queue, the frame on the wire, the transmit timestamp queue as ID, late flag
and time, the timed frames sent, the PTP messages sent and those that wait for the wire, by domain and kind, and whether
CMD_ETH_CONFIG has set the port. -/
structure EthPort where
  queue   : List TimedFrame := []
  onWire  : Option TimedFrame := none
  txts    : List (Nat × Bool × Nat) := []
  sent    : List (List Byte) := []
  ptpSent : List (Nat × Nat) := []
  ptpWait : List (Nat × Nat) := []
  configured : Bool := false
  deriving DecidableEq, Repr

/-- Device time and its servo (R366 to R374): time in units of 2^-48 ns, the ns since reset release, the rate in units of
2^-48, whether a locked domain has ever been followed, the uptime at which holdover began, the domains and the ports. -/
structure TimeUnit where
  now      : Nat := 0
  uptime   : Nat := 0
  rate     : Int := 0
  followed : Bool := false
  holdFrom : Nat := 0
  doms     : Tbl Domain := []
  ports    : Tbl EthPort := []
  deriving DecidableEq, Repr

/-- A Ranoz frame (R390, R391): its type, virtual lane, sequence number, payload words and the payload's poisoned
64-bit words by index. -/
structure RzFrame where
  kind    : Nat
  vl      : Nat
  seq     : Nat := 0
  payload : List Word := []
  poison  : List Nat := []
  nak     : Bool := false
  deriving DecidableEq, Repr

/-- The Ranoz link (R384 to R396): per lane how many good markers in a row and whether the lane is aligned, what the
partner's markers show, this side's session, frames waiting to start, frames sent and not acknowledged, credits
granted by the partner per virtual lane, the partner's credits owed, and what was sent; `errors` counts each lane's code errors
inside frames since its last marker; `start`, while frames wait for the next marker after the link came up, names its lane and
says whether unacknowledged frames go first, and `nakOwed` a NAK that waits with them. -/
structure LinkUnit where
  session   : Nat := 0
  markers   : Tbl Nat := []
  aligned   : Tbl Bool := []
  rxAligned : Tbl Bool := []
  missed    : Tbl Nat := []
  errors    : Tbl Nat := []
  k23       : Tbl Bool := []
  place     : Tbl Nat := []
  deskewed  : Bool := false
  partner   : Option Nat := none
  lastUpSession : Option Nat := none
  queue     : List RzFrame := []
  unacked   : List RzFrame := []
  nextSeq   : Nat := 0
  expect    : Nat := 0
  resends   : Nat := 0
  ackOwed   : Bool := false
  credits   : Tbl Nat := []
  returned  : List (Nat × Nat) := []
  sent      : List (Nat × RzFrame) := []
  inbox     : List RzFrame := []
  d2tQueue  : List (List Word) := []
  start     : Option (Nat × Bool) := none
  nakOwed   : Bool := false
  deriving DecidableEq, Repr

end Sys2Proof.Machine
end

