-- ==== Sys2Proof/Machine/Units2.lean ====
section
/-! DEFINITION. The units of the state, part 2: the field die, the two ends of the field link, and the device's view of
the eject table and of the counts (chapters 01 and 15 of spec/). -/

namespace Sys2Proof.Machine

/-- What an eject-table entry of the field die is (R335, R341). -/
inductive EntryPhase where
  | free | partA | partB | held | armed
  deriving DecidableEq, Repr

/-- An entry of the field die's eject table (R17, R363). `late` marks an entry whose FIELD_ENTRY_TMO expired in the safe
state; `answered` is the mark of R337. -/
structure Entry where
  phase    : EntryPhase := .free
  bobbin   : Nat := 0
  mask     : Nat := 0
  enc      : Nat := 0
  prov     : Nat := 0
  unitUs   : Bool := false
  low      : Nat := 0
  eject    : Int := 0
  close    : Int := 0
  width    : Nat := 0
  amended  : Option Nat := none
  closed   : Bool := false
  final    : Nat := 0
  late     : Bool := false
  answered : Bool := false
  flaw     : Option Bool := none
  deriving DecidableEq, Repr

/-- A message of R335. -/
inductive Msg where
  | entryA (entry bobbin mask enc prov : Nat) (unitUs : Bool)
  | entryB (low : Nat)
  | entryC (high lead width : Nat)
  | cfg (index value : Nat)
  | stopClear
  | resync
  deriving DecidableEq, Repr

/-- A report of R336. -/
inductive Report where
  | ack (entry : Nat) (closedAtArm : Bool)
  | refuse (entry : Nat)
  | accept (entry : Nat)
  | reject (entry : Nat) (notArmed : Bool)
  | close (entry : Nat) (amended : Bool)
  | eject (entry : Nat) (noPulse : Bool) (why : Nat)
  | latch (input enc count : Nat)
  | index (enc count : Nat)
  | sync (enc part bits : Nat)
  | fiState (levels : Nat)
  | status (faults : Nat) (stop powerup : Bool) (lines cause sets faultCnt : Nat)
  | speed (enc : Nat) (halves : Int)
  | resync
  deriving DecidableEq, Repr

/-- A report with the device time of its event, as the TKI converts it (R25), and whether the exit from the safe state gave
it (R343). -/
structure Rep where
  what : Report
  time : Nat := 0
  atExit : Bool := false
  deriving DecidableEq, Repr

/-- A report as taken: with the device time at which its frame arrived and that frame's count fields. -/
structure Taken where
  rep     : Rep
  arrived : Nat
  low     : List Nat
  safe    : Bool
  deriving DecidableEq, Repr

/-- An upstream frame (R333); `level`, `held` and `tally` are the field-die values that the mirror
shows and no report carries. -/
structure UpFrame where
  report : Option (Nat × Rep) := none
  resync : Bool := false
  safe   : Bool := true
  mack   : Nat := 15
  low    : List Nat := []
  level  : Nat := 0
  held   : Nat := 0
  tally  : Tbl Nat := []
  deriving DecidableEq, Repr

/-- A downstream frame (R334). -/
structure DownFrame where
  msg    : Option (Nat × Msg) := none
  resync : Bool := false
  run    : Bool := false
  rack   : Nat := 15
  amend  : Option (Nat × Nat) := none
  deriving DecidableEq, Repr

/-- One end of the field link (R332, R337, R465): what it sends, the go-back-N state, the resynchronisation, what it has
taken and not yet applied, and the state of the direction it receives: its run of good frames and the bit offset at which they lie, the
frame slots without one since, and whether it is up; `stale` counts the frames sent without progress. -/
structure LinkEnd (α β : Type) where
  queue   : List α := []
  unacked : List (Nat × α) := []
  ptr     : Nat := 0
  nextSeq : Nat := 0
  expect  : Nat := 0
  resync  : Bool := true
  answer  : Bool := false
  ignore  : Nat := 0
  inbox   : List β := []
  good    : Nat := 0
  offset  : Nat := 0
  missed  : Nat := 0
  stale   : Nat := 0
  up      : Bool := false
  deriving DecidableEq, Repr

/-- A pulse in progress (R364): its entry, its outputs, its channel and width unit, the count at which a count-width
pulse ends, and the uptime (ns) at which a pulse ends at the latest: after its width in µs, or after FIELD_PULSE_MAX. -/
structure Pulse where
  entry  : Nat
  mask   : Nat
  enc    : Nat
  unitUs : Bool
  ends   : Int
  limit  : Nat := 0
  deriving DecidableEq, Repr

/-- An encoder channel of the field die (R356 to R362): the count, the ejection position and its direction, the last Z
latch with its direction, the retained intervals as (forward, clocks), the last SSI position, the filtered levels of A and B. -/
structure EncCh where
  count    : Int := 0
  pos      : Int := 0
  fwd      : Bool := true
  lastDir  : Option Bool := none
  zLast    : Option (Int × Bool) := none
  spans    : List (Bool × Nat) := []
  ssi      : Option Nat := none
  a        : Bool := false
  b        : Bool := false
  fault    : Bool := false
  deriving DecidableEq, Repr

/-- The field die (chapter 15). `copy` is its copy of the FIELD registers, by register index; `tally` counts what the
mirror's counters show: 0 pulses cut, 1 table errors corrected, 2 to 5 latches lost, 6 and 7 illegal transitions, 8 and 9
Z drift, 10 and 11 rejected SSI reads. (DESIGN CHOICE: notes/assumptions 173.) -/
structure FieldDie where
  powered : Bool := true
  safe    : Bool := true
  cause   : Nat := 0
  powerup : Bool := true
  runs    : Nat := 0
  stop    : Bool := false
  stops   : Nat := 0
  faults  : Nat := 0
  faultN  : Nat := 0
  splits  : List Nat := []
  tally   : Tbl Nat := []
  table   : Tbl Entry := []
  loading : Nat := 0
  pulses  : List Pulse := []
  copy    : Tbl Nat := []
  enc     : Tbl EncCh := []
  raw     : Nat := 0
  deb     : Nat := 0
  trigNext : Tbl Int := []
  trigOn  : Nat := 0
  amendIn : List (Nat × Nat) := []
  syncDue : List Nat := []
  first   : List Rep := []
  entries : List Rep := []
  fiDue   : Bool := false
  stDue   : Bool := false
  spDue   : Tbl Int := []
  link    : LinkEnd Rep Msg := {}
  wire    : Option UpFrame := none
  deriving DecidableEq, Repr

/-- An amendment pending on the device (R20, R337): its entry, action, the entry's close count, and the frame in which it
was last sent. -/
structure Amend where
  entry  : Nat
  action : Nat
  close  : Int
  sent   : Option Nat := none
  deriving DecidableEq, Repr

/-- An eject-table entry as the device has allocated it: its bobbin (`none` once orphaned), whether it was armed while
the device was STANDBY, its outputs and its channel. -/
structure DevEntry where
  bobbin  : Option Nat
  standby : Bool
  mask    : Nat
  enc     : Nat
  deriving DecidableEq, Repr

/-- The mirrored count of a channel (R14, R15, R339): the count, the frames of the last 1.0 ms (newest first), the
velocity as counts over units of 2^-48 ns, when COUNT_VALID rose, part 0 of a SYNC, whether its SYNC has arrived. -/
structure Mirror where
  count  : Int := 0
  hist   : List (Int × Nat) := []
  vNum   : Int := 0
  vDen   : Nat := 1
  since  : Option Nat := none
  part0  : Option Nat := none
  synced : Bool := false
  deriving DecidableEq, Repr

/-- The device's end of the field link (R337 to R345): `seen` once STATUS has arrived since link-up, `allSent` once every
setting has been sent since link-up, `allDue` while every setting is still to be sent. -/
structure FieldDev where
  link     : LinkEnd Msg Taken := {}
  wire     : Option DownFrame := none
  amends   : List Amend := []
  frameNo  : Nat := 0
  seen     : Bool := false
  allSent  : Bool := false
  allDue   : Bool := true
  clearDue : Bool := true
  sawOff   : Bool := false
  tally    : Tbl Nat := []
  table    : Tbl DevEntry := []
  mirror   : Tbl Mirror := []
  deriving DecidableEq, Repr

end Sys2Proof.Machine
end

