-- ==== Sys2Proof/Machine/Units3.lean ====
section
/-! DEFINITION. The units of the state, part 3: camera ports and their lines, image pipes, part-finder rules, bobbins and
samples (chapters 04 to 06 of spec/). -/

namespace Sys2Proof.Machine

/-- Who holds a stored or output line (R95, R116): a through-memory pipe, a tap, or a bobbin with how many releases its
take has had. -/
inductive Taker where
  | pipe (q : Nat)
  | tap (q n : Nat)
  | bobbin (id : Nat) (count : Nat)
  deriving DecidableEq, Repr

/-- A line held in a line store or an output store: its number on its port, its position and the last count of its span, its
block's base and its index there, its slot and address, its length in bytes, whether it goes straight to its consumers (0), awaits its
pipe (1) or has been through it (2), the pipe whose store holds an output line and that line's format, its Frame Start time,
who holds it, and the holes that have met its span, which outlast the list of R92. -/
structure Line where
  uid    : Nat := 0
  pos    : Int
  hi     : Int
  base   : Int
  k      : Nat
  slot   : Nat
  addr   : Nat
  len    : Nat
  stage  : Nat := 0
  store  : Nat := 0
  fmt    : Nat := 3
  time   : Nat := 0
  takers : List Taker := []
  gaps   : List (Int × Int) := []
  deriving DecidableEq, Repr

/-- What a pipe does with the lines of one block, fixed at the block's Frame Start (R103, R114, R118): the pipe, the
position, stages, pattern, threshold, output format, output store (base, length and slot size) and tables. -/
structure PipeCfg where
  q       : Nat
  position : Nat
  through : Bool
  stages  : Nat
  cfa     : Nat
  thresh  : Nat
  fmt     : Nat
  store   : Option (Nat × Nat × Nat) := none
  flat    : List Nat := []
  defects : List Nat := []
  lut     : List Nat := []
  matrix  : List Nat := []
  zx      : Nat := 1
  zy      : Nat := 1
  hist    : Bool := false
  zone    : Bool := false
  deriving DecidableEq, Repr

/-- A line block (R89, R91): its base, pitch, length, Frame Start device time, how many lines have arrived, its marks, the
pipe's settings, the taps that take it, and its stored lines by index and number. -/
structure Block where
  port     : Nat
  base     : Int
  pitch    : Nat
  len      : Nat
  time     : Nat
  count    : Nat := 0
  long     : Bool := false
  snapped  : Bool := false
  holed    : Bool := false
  hdrErr   : Bool := false
  pipe     : Option PipeCfg := none
  taps     : List (Nat × Nat) := []
  lines    : List (Nat × Nat) := []
  deriving DecidableEq, Repr

/-- The setting of a tap point that is in force on a port (R121): pipe and tap point, mode, every how many, and rule mask. -/
structure TapSet where
  q     : Nat
  n     : Nat
  mode  : Nat
  every : Nat
  rules : Nat
  deriving DecidableEq, Repr

/-- A camera port (chapter 04). `held` are the stored lines, `outs` the output lines of the port; `holes` are the hole
ranges, oldest first; `standing` is the start of a standing hole, `stood` the ranges of those that have closed (R405). `prev` is the last stored block's base, pitch
and length; `orphans` marks that the last Frame Start was not stored (R89); `taps` are the tap settings in force since the
last stored Frame Start (R121), and `lines` numbers the lines that it stores. The trigger is a field output or a compare unit. -/
structure CamPort where
  first    : Bool := true
  streamed : Bool := false
  beam     : Nat := 0
  beamLen  : Nat := 0
  spill    : Nat := 0
  spillLen : Nat := 0
  blk      : Option Block := none
  orphans  : Bool := false
  seenAt   : Option Nat := none
  prev     : Option (Int × Nat × Nat) := none
  behind   : Option Int := none
  held     : List Line := []
  outs     : List Line := []
  holes    : List (Int × Int) := []
  standing : Option Int := none
  stood    : List (Int × Int) := []
  taps     : List TapSet := []
  lines    : Nat := 0
  trigFo   : Option Nat := none
  trigUnit : Option Nat := none
  trigPer  : Nat := 0
  trigW    : Nat := 0
  trigNext : Option Int := none
  trigAt   : Option Nat := none
  trigOn   : Bool := false
  deriving DecidableEq, Repr

/-- Component values of a line after a stage: one list per component; `none` is a poisoned value. -/
abbrev Comps := List (List (Option Nat))

/-- A line inside a pipe: its block line index, the last count of its span, the base that would join the block after it, whether it is
its block's last line, its number on its port, its bytes, and its values after flat-field and after the defect map. -/
structure PipeLine where
  k    : Nat
  hi   : Int
  next : Int
  last : Bool
  uid  : Nat
  t0   : List (Option (BitVec 8))
  t1   : Comps
  t2   : Comps
  deriving DecidableEq, Repr

/-- What a pipe has gathered of a block (R118): zone sums and counts, histogram bins, lines processed. -/
structure StatAcc where
  sums  : Tbl Nat := []
  nums  : Tbl Nat := []
  bins  : Tbl Nat := []
  lines : Nat := 0
  bad   : Bool := false
  deriving DecidableEq, Repr

/-- A block as a pipe has it in hand: the block, the last two lines taken, its statistics, and the packets of each block
tap so far. -/
structure PipeWork where
  blk   : Block
  prev  : Option PipeLine := none
  cur   : Option PipeLine := none
  stats : StatAcc := {}
  shown : Tbl (List (Nat × List (Option (BitVec 8)))) := []
  deriving DecidableEq, Repr

/-- What waits for the in-line pipe: a block's start, a line with its index and number, or a block's close with the lines
that arrived and whether it holds a hole. -/
inductive InEvent where
  | start (b : Block)
  | line (k uid : Nat) (data : List (Option (BitVec 8)))
  | close (n : Nat) (holed : Bool)
  deriving DecidableEq, Repr

/-- A frame that a tap gathers (R121, R122): the port, the tap point, the bobbin (0xFFF for a block), its base, the last count of its
window, its serial, the time of its first line's Frame Start, and its packets with their data types. -/
structure TapWork where
  port   : Nat
  tap    : Nat
  bobbin : Nat
  base   : Int
  last   : Int
  serial : Nat := 0
  time   : Option Nat := none
  packets : List (Nat × List (Option (BitVec 8))) := []
  deriving DecidableEq, Repr

/-- An image pipe (chapter 05): the newest tables by kind and position or matrix, the queue of eligible blocks, the block
in work, the in-line block, what waits in line, the last line of each port's previous block, the output store's
settings in use, the taps' counters and frames, and the rule masks of the tap settings that no block has taken over yet. -/
structure Pipe where
  tables  : Tbl (List Nat) := []
  queue   : List Block := []
  work    : Option Block := none
  inline  : Option PipeWork := none
  inq     : List InEvent := []
  last    : Tbl PipeLine := []
  store   : Option (Nat × Nat × Nat) := none
  tapSeen : Tbl Nat := []
  tapBobs : List TapWork := []
  tapDue  : Tbl Nat := []
  deriving DecidableEq, Repr

/-- The internals of a part-finder rule (R127, R128). -/
structure Rule where
  detail   : Nat := 0
  offset   : Int := 0
  wlen     : Nat := 0
  hold     : Nat := 0
  lastC    : Option Int := none
  next     : Option Int := none
  run      : Nat := 0
  gap      : Nat := 0
  found    : Bool := false
  runStart : Int := 0
  seg      : Option (Int × Nat × Nat) := none
  deriving DecidableEq, Repr

/-- The states of R136. -/
inductive BobState where
  | free | arming | open | closedInput | decided | armedFinal | fired
  deriving DecidableEq, Repr

/-- A head result (R217). -/
structure Head where
  cls    : Nat := 0xFF
  conf   : Nat := 0
  alarm  : Bool := false
  poison : Bool := false
  deriving DecidableEq, Repr

/-- A bobbin (R123 to R139); `valve` and `advance` are its lane's valve channels and frame advance at its creation (R134); `stood` marks a standing hole
in its window (R405). -/
structure Bobbin where
  state     : BobState := .free
  serial    : Nat := 0
  rule      : Nat := 0
  lane      : Nat := 0
  prov      : Nat := 0
  partition : Nat := 0
  enc       : Nat := 0
  ports     : Nat := 0
  wstart    : Int := 0
  wlen      : Nat := 0
  eject     : Int := 0
  close     : Int := 0
  entry     : Option Nat := none
  provAct   : Nat := 0
  mask      : Nat := 0
  valve     : Nat := 0
  advance   : Nat := 0
  late      : Bool := false
  poison    : Bool := false
  incomplete : Bool := false
  alarm     : Bool := false
  early     : Bool := false
  amended   : Bool := false
  mismatch  : Bool := false
  cls       : Nat := 0xFF
  conf      : Nat := 0
  incPorts  : Nat := 0
  placed    : Tbl (List (Int × Int)) := []
  floors    : Tbl Int := []
  computing : Bool := false
  ended     : Bool := false
  refusedJob : Bool := false
  recorded  : Bool := false
  tested    : Bool := false
  waits     : Bool := false
  final     : Nat := 0
  slot      : Nat := 0
  tokens    : Nat := 0
  done      : Nat := 0
  ready     : List Nat := []
  readyAt   : Option Nat := none
  retired   : Tbl (List Nat) := []
  since     : Nat := 0
  pages     : List Nat := []
  pageWait  : Bool := false
  member    : Bool := false
  heads     : List Head := []
  alarmed   : List Nat := []
  amendTo   : Option Nat := none
  sample    : Option Nat := none
  taken     : Bool := false
  stood     : Bool := false
  peerFinal : Option Nat := none
  deriving DecidableEq, Repr

/-- The stage a sample is in (R145 to R150). -/
inductive SampleStage where
  | stream | waiting | decoding | ready | running | done
  deriving DecidableEq, Repr

/-- An accepted sample (R140 to R150): `place` is its place in the submission order, `seq` its sequence number once every
earlier header is complete, `grey` whether the device takes its file for a grey JPEG (R142). -/
structure Sample where
  place   : Nat
  seq     : Option Nat := none
  vc      : Nat
  header  : List Word
  grey    : Bool := false
  stream  : List (BitVec 8) := []
  ended   : Bool := false
  stage   : SampleStage := .stream
  decoder : Option Nat := none
  lines   : List (List (BitVec 8)) := []
  size    : Nat := 0
  bobbin  : Option Nat := none
  status  : Option Nat := none
  trunc   : Bool := false
  head    : Head := {}
  time    : Nat := 0
  usedBob : Nat := 0xFFF
  deriving DecidableEq, Repr

/-- Sample intake: per virtual channel the place and the bytes of an incomplete header, the virtual channels whose sample still
takes bytes, the samples outstanding in submission order, the next sequence number, the next whose record is due, and the next
place. -/
structure Intake where
  headers : Tbl (Nat × List (BitVec 8)) := []
  opened  : Tbl Nat := []
  samples : List Sample := []
  nextSeq : Nat := 0
  nextOut : Nat := 0
  nextPlace : Nat := 0
  deriving DecidableEq, Repr

end Sys2Proof.Machine
end

