-- ==== Sys2Proof/Machine/Units4.lean ====
section
/-! DEFINITION. The units of the state, part 4: looms and their engines, partitions, jobs, steps and tasks, models,
learning, calibration, the twin and power (chapters 07 to 12, 14, 17 and 20 of spec/). -/

namespace Sys2Proof.Machine

/-- A codebook as it is loaded (R155): whether per channel, and its entries, one list per column or one for all, each with the
flag that it was loaded from poisoned data. -/
structure Book where
  chan    : Bool
  entries : List (List (Int × Bool))
  deriving DecidableEq, Repr

/-- Stationary operands of a group (R161): the mode and split they were loaded for, and the cells row by row as codes
with their poison flags. -/
structure Tile where
  mode  : Nat
  split : Nat
  rows  : Nat
  cols  : Nat
  cells : List (List (Nat × Bool))
  book  : Option Book := none
  deriving DecidableEq, Repr

/-- A group's front and back operands (R161 to R164), a codebook that waits for the swap among the latter; `none` in front:
unusable. -/
structure Group where
  front : Option Tile := none
  back  : Option Tile := none
  deriving DecidableEq, Repr

/-- One accumulator of one row and column (R156, R157): its mode class, its sum (an integer, or a binary32 pattern), and
its poison mark. -/
structure Acc where
  float : Bool
  sum   : Int
  bad   : Bool := false
  deriving DecidableEq, Repr

/-- A tag that is not FREE (R263): in flight until `status` is known; how many consumers have still to retire; its
descriptor and engine, and the stamp of its command; the operands delivered for the weight port; for a SIGNAL, nothing is
transferred; the number of an outstanding remote request, and its parked response. -/
structure Tag where
  status    : Option Nat := none
  consumers : Nat
  engine    : Nat
  words     : List Word
  signal    : Bool := false
  payload   : List (Option (BitVec 8)) := []
  remote    : Option Nat := none
  parked    : Option (List (Option (BitVec 8))) := none
  cmd       : Nat := 0
  aux       : Aux := {}
  deriving DecidableEq, Repr

/-- An instruction on an engine's queue: its descriptor, what the program supplies beside it, and the stamp of its command. -/
structure QIns where
  words : List Word
  aux   : Aux := {}
  cmd   : Nat := 0
  deriving DecidableEq, Repr

/-- An instruction that has issued and not retired (R264): the tag whose completion completes it, the tag it consumes,
whether it is an END, the stamp of its command, and for an array instruction that awaits its operands or its group the instruction
itself (R161, R164, R260). -/
structure Issued where
  awaits  : Option Nat := none
  uses    : Option Nat := none
  isEnd   : Bool := false
  cmd     : Nat := 0
  run     : Option QIns := none
  deriving DecidableEq, Repr

/-- A command in a loom's list (R267, R268): its kind (1 stripe task, 2 step segment, 3 optimiser segment), the bobbin,
token and stripe of a task, whether it has started, whether it has made a first-come reduction (R297), and whether its remaining
instructions have been given up (R326). -/
structure LoomCmd where
  kind    : Nat
  bobbin  : Nat := 0
  token   : Nat := 0
  stripe  : Nat := 0
  started : Bool := false
  reduced : Bool := false
  given   : Bool := false
  deriving DecidableEq, Repr

/-- A loom (chapters 07, 08, 12). Queues, issued lists and counts of the ENDs placed are keyed by engine: 0 load, 1 stream,
2 compute, 3 store. A command's stamp is its number in the order in which the loom ends its commands; `base` is that of the
oldest; `ends` are the ENDs retired, as 4 × stamp + engine. `books` is the front codebook store by column (R155), as far as it
has been loaded; `shed` is the window that the shed register holds: per position the codes of its channels (R177). -/
structure Loom where
  split   : Nat := 0
  groups  : Tbl Group := []
  books   : Tbl (List (Int × Bool)) := []
  shed    : List (List (Option Nat)) := []
  accs    : Tbl Acc := []
  queues  : Tbl (List QIns) := []
  issued  : Tbl (List Issued) := []
  tags    : Tbl Tag := []
  cmds    : List LoomCmd := []
  ends    : List Nat := []
  base    : Nat := 0
  fetched : Tbl Nat := []
  useful  : Nat := 0
  deriving DecidableEq, Repr

/-- A model-image registration that awaits its chunks (R272, R273). -/
structure RegLoad where
  src  : Source
  tag  : Nat
  id   : Nat
  len  : Nat
  addr : Nat
  got  : Tbl (BitVec 8) := []
  deriving DecidableEq, Repr

/-- A registered model (R272 to R277): its id, index, place, header words, contents, cache slot and units, when it was
last used. -/
structure Model where
  id     : Nat
  index  : Nat
  addr   : Nat
  len    : Nat
  header : List Word
  info   : Config.Image
  slot   : Option Nat := none
  units  : List Nat := []
  pinned : Bool := false
  used   : Nat := 0
  resident : Bool := false
  deriving DecidableEq, Repr

/-- One row of elements that the conversions of an instruction took under scale records with statistics, alarm or calibration set
(R232): the stripe task whose command made them, or a batch step; the records and codebooks of its channels; the row; the
tensor's channel of the first element; and the FP32 elements, `none` where poisoned. -/
structure Drained where
  task  : Option (Nat × Nat × Nat)
  recs  : List (List Word)
  books : List (List Int)
  row   : Nat
  chan  : Nat
  xs    : List (Option Word)
  deriving DecidableEq, Repr

/-- A running batch step (R210 to R215): the bobbins of its rows, EARLY_RUN at its start, the bobbins as the step took them, whose
rows run even where one has become FREE meanwhile, and whether an instruction of it has met poison (R326, R327). -/
structure StepRun where
  rows     : List Nat
  earlyRun : Nat
  bobs     : List Bobbin := []
  bad      : Bool := false
  deriving DecidableEq, Repr

/-- A stripe task by bobbin, token and stripe; `loom` once it has been issued; `calib` where it was issued while calibration
gathers (R239); what its command's stores have written, by tag (R197, R201); whether its command has been given up (R326). -/
structure Task where
  bobbin : Nat
  token  : Nat
  stripe : Nat
  loom   : Option Nat := none
  calib  : Bool := false
  outs   : Tbl (List (Option (BitVec 8))) := []
  spoilt : Bool := false
  deriving DecidableEq, Repr

/-- Whether a task is what a command runs. -/
def Task.runs (k : Task) (c : LoomCmd) : Bool := c.kind == 1 && c.bobbin == k.bobbin && c.token == k.token && c.stripe == k.stripe

/-- A task that is ready again: what an abandoned run of it made is gone (R197, R428). -/
def Task.again (k : Task) : Task := { k with loom := none, calib := false, outs := [], spoilt := false }

/-- The learnable parameters of one layer (R244): weights in ascending input, then output; biases; scales; codebook
entries; in a working copy, the scales' reciprocals (R255). All are binary32 patterns. -/
structure LearnPar where
  w : List Nat := []
  b : List Nat := []
  s : List Nat := []
  e : List Nat := []
  r : List Nat := []
  deriving DecidableEq, Repr

/-- What a learning sample brings to its mini-batch (R248, R251): its place in the submission order, whether it contributes, its
loss, and its factors per learnable layer. -/
structure Parked where
  place  : Nat
  gives  : Bool
  loss   : Nat := 0
  layers : List (List (BitVec 16) × List (BitVec 16)) := []
  deriving DecidableEq, Repr

/-- A commit in progress (R257): the new id, and the parameters it takes, which a running optimiser step has still to give. -/
structure Commit where
  id  : Nat
  par : Option (List LearnPar) := none
  deriving DecidableEq, Repr

/-- Learn state (R243 to R258): the master copy, moments, beta powers, gradient, working copy, the learning samples from
the present mini-batch onward, how many of it have been added or skipped, what waits to be added, the mini-batch's loss,
whether its optimiser step is due, has been deferred, runs, with the hyperparameters it started with, and the commits in
progress, oldest first. -/
structure Learn where
  master  : List LearnPar := []
  m       : List LearnPar := []
  v       : List LearnPar := []
  grad    : List LearnPar := []
  working : List LearnPar := []
  b1      : Nat := 0x3F800000
  b2      : Nat := 0x3F800000
  batch   : List Nat := []
  added   : Nat := 0
  parked  : List Parked := []
  loss    : Nat := 0
  due     : Bool := false
  held    : Bool := false
  running : Bool := false
  hyper   : List Nat := []
  commits : List Commit := []
  deriving DecidableEq, Repr

/-- Calibration of a partition (R239, R240): gathering or not, a start or a stop that waits for the boundary, the least
and greatest value per channel record. -/
structure Calib where
  gathering : Bool := false
  startDue  : Bool := false
  stopDue   : Bool := false
  ranges    : Tbl (Nat × Nat) := []
  deriving DecidableEq, Repr

/-- A partition (chapters 09, 11, 12): its looms, borrowed ones included, the lender of each borrowed loom, its job's model,
whether it learns, its step, whether a fence has changed its schedule, the device time at which the last step completed,
where its latest start had been reached by then, whether a fence has abandoned its step until the job resumes, its active looms when it was pre-empted, its tasks, the tokens that waited for a slot, its staging slots
and KV pages in use, the row tokens and head outputs of its last step, what its conversions have gathered for the step and the tasks
that are not yet done, learning and calibration, and what the save records of
an immediate pre-emption hold: the looms and their scratchpads. -/
structure Partition where
  looms    : List Nat := []
  borrowed : Tbl Nat := []
  model    : Nat := 0
  learning : Bool := false
  step     : Option StepRun := none
  switch   : Bool := false
  overdue  : Option Nat := none
  redo     : Bool := false
  paused   : List Nat := []
  ready    : List Task := []
  issued   : List Task := []
  waitSeen : List (Nat × Nat) := []
  stage    : Tbl (Nat × Nat) := []
  pages    : Tbl Nat := []
  rowTok   : List (List (Option Int)) := []
  headOut  : Tbl (List (Option Nat)) := []
  drained  : List Drained := []
  learn    : Learn := {}
  calib    : Calib := {}
  saved    : Tbl Loom := []
  savedMem : Memory := {}
  deriving DecidableEq, Repr

/-- The scheduler's device-wide state: partitions, models, a registration in progress, and how often a model has been
used. -/
structure Sched where
  parts    : Tbl Partition := []
  models   : List Model := []
  loading  : Option RegLoad := none
  uses     : Nat := 0
  deriving DecidableEq, Repr

/-- A head result as the twins compare it (R403): class, confidence, and whether R30 sends an amendment with its
action. -/
structure Verdict where
  cls    : Nat
  conf   : Nat
  amends : Bool
  action : Nat
  early  : Bool := false
  deriving DecidableEq, Repr

/-- The twin (chapter 17): heartbeats sent and received, the partner's last words, time difference, whether the snapshot of
bobbins has been sent, index edges on each side, results that wait for the partner's and the partner's that wait for ours,
a handover in progress, the partner's models as image CRCs by id, and the parameters
of a commit as the partner sends them. -/
structure Twin where
  hbSeq     : Nat := 0
  hbSent    : Tbl Nat := []
  partnerSeq : Nat := 0
  hbTime    : Option Nat := none
  hbAny     : Option Nat := none
  hbRecv    : Nat := 0
  hbFields  : List Word := []
  peer      : List Word := []
  peerTime  : Int := 0
  syncSent  : Bool := false
  index     : Tbl (Int × Nat) := []
  peerIndex : Tbl (Int × Nat) := []
  waiting   : Tbl Verdict := []
  peerHeads : Tbl Verdict := []
  handover  : Option Source := none
  asked     : Bool := false
  gateDue   : Bool := false
  lost      : Bool := false
  peerModels : Tbl Nat := []
  peerPar   : List Word := []
  deriving DecidableEq, Repr

/-- Power (chapter 20): the target of VCORE_C in mV, where the regulator stands on its way there, the depth of
throttling, and FLOOR as the last sample found it. -/
structure Power where
  target   : Nat := 750
  now      : Nat := 750
  depth    : Nat := 0
  floor    : Nat := 720
  deriving DecidableEq, Repr

end Sys2Proof.Machine
end

