-- ==== Sys2Proof/Machine/State.lean ====
section
/-! DEFINITION. The state of the block: the register file, the memories, the units behind them, the inputs the
board gives, and the queue of the commands that wait. Plain data. -/

namespace Sys2Proof.Machine

/-- The state of the block. `regs` holds every register of the register map that differs from its reset value or
has been written; a register not listed holds its reset value. `lastBob` is the id that a part bobbin took last; before the first
it is 0xEFF, so that the first id is 0x000 (R123; DESIGN CHOICE: notes/assumptions 187). -/
structure State where
  regs    : Tbl Word := []
  latch   : Tbl Word := []
  mem     : Memory := {}
  fills   : List Fill := []
  scrub   : Scrub := {}
  i3c     : I3c := {}
  host    : HostLink := {}
  boot    : Boot := {}
  fuses   : Fuses := {}
  straps  : Straps := {}
  snap    : SnapUnit := {}
  time    : TimeUnit := {}
  link    : LinkUnit := {}
  die     : FieldDie := {}
  field   : FieldDev := {}
  cams    : Tbl CamPort := []
  pipes   : Tbl Pipe := []
  rules   : Tbl Rule := []
  bobs    : Tbl Bobbin := []
  lastBob : Nat := 3839
  intake  : Intake := {}
  looms   : Tbl Loom := []
  sched   : Sched := {}
  twin    : Twin := {}
  power   : Power := {}
  tdcSeen : Bool := false
  fenceDue : List (Nat × Nat) := []
  splits  : List Nat := []
  copies  : Tbl Copies := []
  freeUse : Nat := 0
  pending : List Instr := []
  deriving DecidableEq, Repr

/-- Why the machine stops with a fault. No meaning of this model raises one: the spec gives every step an effect. -/
inductive Fault where
  /-- Raised by no meaning: the spec names no condition that stops the device for good. Safe. -/
  | stuck
  deriving DecidableEq, Repr

/-- Why a command has no meaning. -/
inductive Refusal where
  /-- Raised by an arm of the dispatch whose command has no meaning yet. Safe. -/
  | notModelled (mnemonic : String)
  deriving DecidableEq, Repr

/-- The device right after reset (R409, R410): every register at its reset value, every memory word poisoned, the
boot ROM running, no command waiting. Values the spec does not give are named in the log (DESIGN CHOICE: notes/assumptions 6, 7, 173). -/
def State.reset : State := {}

end Sys2Proof.Machine
end

