-- ==== Sys2Proof/Machine/Registers.lean ====
section
/-! DEFINITION. The register map (chapters 02 to 20 of spec/): one `Reg` for each register the spec gives, with
its address (R54 and the address in the register's own table), its reset value and the masks of its
access kinds (R10), and one `Fld` for each field a hardware update or a check names. -/

namespace Sys2Proof.Machine

/-- A register, or a family of registers at regular addresses (`base + i * stride + j * stride2`): its reset
value and, for each access kind of R10, the mask of the bits that have it (a bit in no mask is RO or reserved). -/
structure Reg where
  base    : Nat
  stride  : Nat := 0
  count   : Nat := 1
  stride2 : Nat := 0
  count2  : Nat := 1
  reset   : Nat → Nat → Nat := fun _ _ => 0
  rw      : Nat := 0
  w1c     : Nat := 0
  w1s     : Nat := 0
  rc      : Nat := 0
  rwl     : Nat := 0

/-- A field of a register: its lowest bit and its width. -/
structure Fld where
  reg   : Reg
  lo    : Nat
  width : Nat

/-- LOOM_PACE (R43). -/
def R.LOOM_PACE : Reg :=
  { base := 0x3F01000040, stride := 0x10000, count := 64 }

/-- LOOM_PACE_MIN (R43). -/
def R.LOOM_PACE_MIN : Reg :=
  { base := 0x3F01000044, stride := 0x10000, count := 64, reset := fun _ _ => 0xFFFF, rc := 0xFFFF }

/-- LOOM_ID (R43). -/
def R.LOOM_ID : Reg :=
  { base := 0x3F01000000, stride := 0x10000, count := 64, reset := fun n _ => n % 16 + 0x100 * (n / 16) + 0x10000 * n }

/-- SYS_OWN (R52). -/
def R.SYS_OWN : Reg :=
  { base := 0x3F00000400, stride := 0x4, count := 62, reset := fun i _ => if i < 4 then 1 else if i = 4 then 3 else 0 }

/-- SYS_ID (R54). -/
def R.SYS_ID : Reg :=
  { base := 0x3F00000000, reset := fun _ _ => 0xA16416 }

/-- MBX_H2D_DATA (R64). -/
def R.MBX_H2D_DATA : Reg :=
  { base := 0x3F00100000, stride := 0x4, count := 16, rw := 0xFFFFFFFF }

/-- MBX_D2H_DATA (R64). -/
def R.MBX_D2H_DATA : Reg :=
  { base := 0x3F00100100, stride := 0x4, count := 16, rw := 0xFFFFFFFF }

/-- MBX_T2D_DATA (R64). -/
def R.MBX_T2D_DATA : Reg :=
  { base := 0x3F00100200, stride := 0x4, count := 16, rw := 0xFFFFFFFF }

/-- MBX_D2T_DATA (R64). -/
def R.MBX_D2T_DATA : Reg :=
  { base := 0x3F00100300, stride := 0x4, count := 16, rw := 0xFFFFFFFF }

/-- MBX_H2D_GO (R64). -/
def R.MBX_H2D_GO : Reg :=
  { base := 0x3F00100040, w1s := 0x1 }

/-- MBX_D2H_GO (R64). -/
def R.MBX_D2H_GO : Reg :=
  { base := 0x3F00100140, w1s := 0x1 }

/-- MBX_T2D_GO (R64). -/
def R.MBX_T2D_GO : Reg :=
  { base := 0x3F00100240, w1s := 0x1 }

/-- MBX_D2T_GO (R64). -/
def R.MBX_D2T_GO : Reg :=
  { base := 0x3F00100340, w1s := 0x1 }

/-- HOST_STATUS (R80). -/
def R.HOST_STATUS : Reg :=
  { base := 0x3F00600000, reset := fun _ _ => 0x1, w1c := 0x8 }

/-- HOST_IBI_CAUSE (R80). -/
def R.HOST_IBI_CAUSE : Reg :=
  { base := 0x3F00600004, w1c := 0xFFE }

/-- HOST_IBI_EN (R80). -/
def R.HOST_IBI_EN : Reg :=
  { base := 0x3F00600008, reset := fun _ _ => 0xFFB, rw := 0xFFF }

/-- HOST_CFG (R80). -/
def R.HOST_CFG : Reg :=
  { base := 0x3F0060000C, reset := fun _ _ => 0xA0A, rw := 0xFFFFFFF }

/-- HOST_TX_MAP (R80). -/
def R.HOST_TX_MAP : Reg :=
  { base := 0x3F00600010, reset := fun _ _ => 0x4000FFFF, rw := 0xC01FFFFF }

/-- HOST_RX_CNT (R80). -/
def R.HOST_RX_CNT : Reg :=
  { base := 0x3F00600014, rc := 0xFFFFFF }

/-- HOST_TX_CNT (R80). -/
def R.HOST_TX_CNT : Reg :=
  { base := 0x3F00600018, rc := 0xFFFFFF }

/-- HOST_TX_VC_TAP (R80). -/
def R.HOST_TX_VC_TAP : Reg :=
  { base := 0x3F00600020, stride := 0x4, count := 3, reset := fun a _ => if a = 0 then 0x76543210 else if a = 1 then 0xFEDCBA98 else 1, rw := 0xFFFFFFFF }

/-- HOST_TX_VC_REC (R80). -/
def R.HOST_TX_VC_REC : Reg :=
  { base := 0x3F0060002C, rw := 0xFFFF, w1c := 0x10000 }

/-- CAM_CTRL (R99). -/
def R.CAM_CTRL : Reg :=
  { base := 0x3F00700000, stride := 0x100, count := 17, reset := fun _ _ => 0x20000 }

/-- CAM_LINE_WORDS (R99). -/
def R.CAM_LINE_WORDS : Reg :=
  { base := 0x3F00700004, stride := 0x100, count := 17 }

/-- CAM_BLOCK_LINES (R99). -/
def R.CAM_BLOCK_LINES : Reg :=
  { base := 0x3F00700008, stride := 0x100, count := 17 }

/-- CAM_FILL (R99). -/
def R.CAM_FILL : Reg :=
  { base := 0x3F0070000C, stride := 0x100, count := 17 }

/-- CAM_INCOMPLETE_POLICY (R99). -/
def R.CAM_INCOMPLETE_POLICY : Reg :=
  { base := 0x3F00700010, stride := 0x100, count := 17 }

/-- CAM_PITCH (R99). -/
def R.CAM_PITCH : Reg :=
  { base := 0x3F00700014, stride := 0x100, count := 17, reset := fun _ _ => 0x10000, rw := 0xFFFFFFFF }

/-- CAM_CNT_OFFSET (R99). -/
def R.CAM_CNT_OFFSET : Reg :=
  { base := 0x3F00700018, stride := 0x100, count := 17, rw := 0xFFFFFFFF }

/-- CAM_GAP_TOL (R99). -/
def R.CAM_GAP_TOL : Reg :=
  { base := 0x3F0070001C, stride := 0x100, count := 17, reset := fun _ _ => 0x2, rw := 0xFF }

/-- CAM_RETAIN (R99). -/
def R.CAM_RETAIN : Reg :=
  { base := 0x3F00700020, stride := 0x100, count := 17, rw := 0xFFFFFF }

/-- CAM_LS_SLOTS (R99). -/
def R.CAM_LS_SLOTS : Reg :=
  { base := 0x3F00700024, stride := 0x100, count := 17 }

/-- CAM_LS_USED (R99). -/
def R.CAM_LS_USED : Reg :=
  { base := 0x3F00700028, stride := 0x100, count := 17 }

/-- CAM_LS_PEAK (R99). -/
def R.CAM_LS_PEAK : Reg :=
  { base := 0x3F0070002C, stride := 0x100, count := 17, rc := 0x3FFFFFFF }

/-- CAM_BASE_LO (R99). -/
def R.CAM_BASE_LO : Reg :=
  { base := 0x3F00700030, stride := 0x100, count := 17 }

/-- CAM_BASE_HI (R99). -/
def R.CAM_BASE_HI : Reg :=
  { base := 0x3F00700034, stride := 0x100, count := 17 }

/-- CAM_FRAMES (R99). -/
def R.CAM_FRAMES : Reg :=
  { base := 0x3F00700038, stride := 0x100, count := 17 }

/-- CAM_PKT_CNT (R99). -/
def R.CAM_PKT_CNT : Reg :=
  { base := 0x3F00700040, stride := 0x100, count := 17, rc := 0xFFFFFFFF }

/-- CAM_LINE_CNT (R99). -/
def R.CAM_LINE_CNT : Reg :=
  { base := 0x3F00700044, stride := 0x100, count := 17, rc := 0xFFFFFFFF }

/-- CAM_BLOCK_CNT (R99). -/
def R.CAM_BLOCK_CNT : Reg :=
  { base := 0x3F00700048, stride := 0x100, count := 17, rc := 0xFFFFFFFF }

/-- CAM_DROP_CNT (R99). -/
def R.CAM_DROP_CNT : Reg :=
  { base := 0x3F0070004C, stride := 0x100, count := 17, rc := 0xFFFFFFFF }

/-- CAM_HOLES (R99). -/
def R.CAM_HOLES : Reg :=
  { base := 0x3F00700050, stride := 0x100, count := 17 }

/-- PIPE_CTRL (R122). -/
def R.PIPE_CTRL : Reg :=
  { base := 0x3F00800000, stride := 0x1000, count := 4, reset := fun _ _ => 0x1F }

/-- PIPE_STAGES (R122). -/
def R.PIPE_STAGES : Reg :=
  { base := 0x3F00800004, stride := 0x1000, count := 4 }

/-- PIPE_DM_THRESH (R122). -/
def R.PIPE_DM_THRESH : Reg :=
  { base := 0x3F00800008, stride := 0x1000, count := 4 }

/-- PIPE_OUT_FMT (R122). -/
def R.PIPE_OUT_FMT : Reg :=
  { base := 0x3F0080000C, stride := 0x1000, count := 4, reset := fun _ _ => 0x3 }

/-- PIPE_OUT_BASE (R122). -/
def R.PIPE_OUT_BASE : Reg :=
  { base := 0x3F00800010, stride := 0x1000, count := 4, rw := 0xFFFFFF }

/-- PIPE_OUT_SIZE (R122). -/
def R.PIPE_OUT_SIZE : Reg :=
  { base := 0x3F00800014, stride := 0x1000, count := 4, rw := 0xFFFF }

/-- PIPE_OUT_SLOT (R122). -/
def R.PIPE_OUT_SLOT : Reg :=
  { base := 0x3F00800018, stride := 0x1000, count := 4, rw := 0xFFF }

/-- PIPE_OUT_USED (R122). -/
def R.PIPE_OUT_USED : Reg :=
  { base := 0x3F0080001C, stride := 0x1000, count := 4, rc := 0xFFFF0000 }

/-- PIPE_QUEUE (R122). -/
def R.PIPE_QUEUE : Reg :=
  { base := 0x3F00800020, stride := 0x1000, count := 4, rc := 0x3F00 }

/-- PIPE_CNT (R122). -/
def R.PIPE_CNT : Reg :=
  { base := 0x3F00800024, stride := 0x1000, count := 4, rc := 0xFFFFFFFF }

/-- PIPE_STAT_CFG (R122). -/
def R.PIPE_STAT_CFG : Reg :=
  { base := 0x3F00800028, stride := 0x1000, count := 4, reset := fun _ _ => 0x101 }

/-- PIPE_STAT_CNT (R122). -/
def R.PIPE_STAT_CNT : Reg :=
  { base := 0x3F0080002C, stride := 0x1000, count := 4, rc := 0xFFFF0000 }

/-- PIPE_TAP (R122). -/
def R.PIPE_TAP : Reg :=
  { base := 0x3F00800030, stride := 0x1000, count := 4, stride2 := 4, count2 := 4, reset := fun _ _ => 0x10000 }

/-- PIPE_TAP_RULE (R122). -/
def R.PIPE_TAP_RULE : Reg :=
  { base := 0x3F00800040, stride := 0x1000, count := 4, stride2 := 4, count2 := 4 }

/-- BOB_PROV_TABLE (R152). -/
def R.BOB_PROV_TABLE : Reg :=
  { base := 0x3F00900000, reset := fun _ _ => 0x55555555 }

/-- BOB_SERIAL (R152). -/
def R.BOB_SERIAL : Reg :=
  { base := 0x3F00900004, rw := 0xFFFFFFFF }

/-- BOB_AGE_LIMIT (R152). -/
def R.BOB_AGE_LIMIT : Reg :=
  { base := 0x3F00900008, reset := fun _ _ => 0x2710, rw := 0xFFFF }

/-- BOB_UNTRACKED (R152). -/
def R.BOB_UNTRACKED : Reg :=
  { base := 0x3F0090000C, rc := 0xFFFFFFFF }

/-- BOB_CNT (R152). -/
def R.BOB_CNT : Reg :=
  { base := 0x3F00900010, rc := 0xFFFFFF }

/-- BOB_IN_USE (R152). -/
def R.BOB_IN_USE : Reg :=
  { base := 0x3F00900014 }

/-- BOB_RULE_CTRL (R152). -/
def R.BOB_RULE_CTRL : Reg :=
  { base := 0x3F00900100, stride := 0x8, count := 16 }

/-- BOB_RULE_AUX (R152). -/
def R.BOB_RULE_AUX : Reg :=
  { base := 0x3F00900104, stride := 0x8, count := 16, rw := 0xFFFFFF }

/-- BOB_LANE_CFG (R152). -/
def R.BOB_LANE_CFG : Reg :=
  { base := 0x3F00900200, stride := 0x10, count := 16 }

/-- BOB_LANE_OFFSET (R152). -/
def R.BOB_LANE_OFFSET : Reg :=
  { base := 0x3F00900204, stride := 0x10, count := 16 }

/-- BOB_LANE_ADVANCE (R152). -/
def R.BOB_LANE_ADVANCE : Reg :=
  { base := 0x3F00900208, stride := 0x10, count := 16 }

/-- BOB_LANE_VALVE (R152). -/
def R.BOB_LANE_VALVE : Reg :=
  { base := 0x3F0090020C, stride := 0x10, count := 16 }

/-- BOB_CLASS_MAP (R152). -/
def R.BOB_CLASS_MAP : Reg :=
  { base := 0x3F00900300, stride := 0x4, count := 8, reset := fun _ _ => 0x55555555 }

/-- SAMPLE_CREDITS (R152). -/
def R.SAMPLE_CREDITS : Reg :=
  { base := 0x3F00901000, reset := fun _ _ => 0x400040 }

/-- SAMPLE_DECODE_LIMIT (R152). -/
def R.SAMPLE_DECODE_LIMIT : Reg :=
  { base := 0x3F00901004, reset := fun _ _ => 0x2710 }

/-- SAMPLE_MAX_PIXELS (R152). -/
def R.SAMPLE_MAX_PIXELS : Reg :=
  { base := 0x3F00901008, reset := fun _ _ => 0x10000000 }

/-- SAMPLE_FILL (R152). -/
def R.SAMPLE_FILL : Reg :=
  { base := 0x3F0090100C, rw := 0xFFFF }

/-- SAMPLE_BUF_BASE (R152). -/
def R.SAMPLE_BUF_BASE : Reg :=
  { base := 0x3F00901010, rw := 0xFFFFFF }

/-- SAMPLE_BUF_SIZE (R152). -/
def R.SAMPLE_BUF_SIZE : Reg :=
  { base := 0x3F00901014, rw := 0xFFFFF }

/-- SAMPLE_BATCH_WAIT (R152). -/
def R.SAMPLE_BATCH_WAIT : Reg :=
  { base := 0x3F00901018, reset := fun _ _ => 0x64, rw := 0xFFFF }

/-- SAMPLE_CNT (R152). -/
def R.SAMPLE_CNT : Reg :=
  { base := 0x3F0090101C, rc := 0xFFFFFFFF }

/-- LOOM_ARRAY_CFG (R176). -/
def R.LOOM_ARRAY_CFG : Reg :=
  { base := 0x3F01000100, stride := 0x10000, count := 64 }

/-- LOOM_ARRAY_GSTAT (R176). -/
def R.LOOM_ARRAY_GSTAT : Reg :=
  { base := 0x3F01000110, stride := 0x10000, count := 64, stride2 := 4, count2 := 4 }

/-- LOOM_ARRAY_FAULT (R176). -/
def R.LOOM_ARRAY_FAULT : Reg :=
  { base := 0x3F01000120, stride := 0x10000, count := 64, w1c := 0xFFFF }

/-- LOOM_ARRAY_ERR (R176). -/
def R.LOOM_ARRAY_ERR : Reg :=
  { base := 0x3F01000124, stride := 0x10000, count := 64, rc := 0xFFFFFFFF }

/-- LOOM_ARRAY_PASSES (R176). -/
def R.LOOM_ARRAY_PASSES : Reg :=
  { base := 0x3F01000128, stride := 0x10000, count := 64 }

/-- LOOM_ARRAY_SLOTS_LO (R176). -/
def R.LOOM_ARRAY_SLOTS_LO : Reg :=
  { base := 0x3F01000130, stride := 0x10000, count := 64 }

/-- LOOM_ARRAY_SLOTS_HI (R176). -/
def R.LOOM_ARRAY_SLOTS_HI : Reg :=
  { base := 0x3F01000134, stride := 0x10000, count := 64 }

/-- LOOM_ARRAY_USEFUL_LO (R176). -/
def R.LOOM_ARRAY_USEFUL_LO : Reg :=
  { base := 0x3F01000138, stride := 0x10000, count := 64 }

/-- LOOM_ARRAY_USEFUL_HI (R176). -/
def R.LOOM_ARRAY_USEFUL_HI : Reg :=
  { base := 0x3F0100013C, stride := 0x10000, count := 64 }

/-- LOOM_VEC_CNT (R176). -/
def R.LOOM_VEC_CNT : Reg :=
  { base := 0x3F01000140, stride := 0x10000, count := 64, rc := 0xFFFF }

/-- LOOM_CONV_STAT (R199). -/
def R.LOOM_CONV_STAT : Reg :=
  { base := 0x3F01000180, stride := 0x10000, count := 64 }

/-- LOOM_FETCH_STAT (R199). -/
def R.LOOM_FETCH_STAT : Reg :=
  { base := 0x3F01000184, stride := 0x10000, count := 64 }

/-- LOOM_FETCH_LINES (R199). -/
def R.LOOM_FETCH_LINES : Reg :=
  { base := 0x3F01000188, stride := 0x10000, count := 64 }

/-- LOOM_FETCH_FILL (R199). -/
def R.LOOM_FETCH_FILL : Reg :=
  { base := 0x3F0100018C, stride := 0x10000, count := 64, rc := 0xFFFFFFFF }

/-- MILL_STRIPE_Q (R199). -/
def R.MILL_STRIPE_Q : Reg :=
  { base := 0x3F02000200, stride := 0x10000, count := 4, rc := 0xFFF0000 }

/-- MILL_STRIPE_CNT (R199). -/
def R.MILL_STRIPE_CNT : Reg :=
  { base := 0x3F02000204, stride := 0x10000, count := 4, rc := 0xFFFFFFFF }

/-- SCHED_GUARD (R220). -/
def R.SCHED_GUARD : Reg :=
  { base := 0x3F00C02000, reset := fun _ _ => 0xA, rw := 0xFFFF }

/-- SCHED_FILL_WAIT (R220). -/
def R.SCHED_FILL_WAIT : Reg :=
  { base := 0x3F00C02004, rw := 0xFFFF }

/-- SCHED_STEP_TIME (R220). -/
def R.SCHED_STEP_TIME : Reg :=
  { base := 0x3F00C02100, stride := 0x40, count := 8 }

/-- SCHED_BATCH (R220). -/
def R.SCHED_BATCH : Reg :=
  { base := 0x3F00C02104, stride := 0x40, count := 8 }

/-- SCHED_STEP_CNT (R220). -/
def R.SCHED_STEP_CNT : Reg :=
  { base := 0x3F00C02108, stride := 0x40, count := 8 }

/-- SCHED_START_CNT (R220). -/
def R.SCHED_START_CNT : Reg :=
  { base := 0x3F00C0210C, stride := 0x40, count := 8, rc := 0xFFFFFFFF }

/-- SCHED_LAG_CNT (R220). -/
def R.SCHED_LAG_CNT : Reg :=
  { base := 0x3F00C02110, stride := 0x40, count := 8, rc := 0xFFFFFFFF }

/-- SCHED_KV_BEAM_BASE (R220). -/
def R.SCHED_KV_BEAM_BASE : Reg :=
  { base := 0x3F00C02114, stride := 0x40, count := 8, rw := 0xFFFFFF }

/-- SCHED_KV_BEAM_SIZE (R220). -/
def R.SCHED_KV_BEAM_SIZE : Reg :=
  { base := 0x3F00C02118, stride := 0x40, count := 8, rw := 0x1FF }

/-- SCHED_KV_SPILL_BASE (R220). -/
def R.SCHED_KV_SPILL_BASE : Reg :=
  { base := 0x3F00C0211C, stride := 0x40, count := 8, rw := 0xFFFFFF }

/-- SCHED_KV_SPILL_SIZE (R220). -/
def R.SCHED_KV_SPILL_SIZE : Reg :=
  { base := 0x3F00C02120, stride := 0x40, count := 8, rw := 0xFFFFF }

/-- SCHED_KV_USED (R220). -/
def R.SCHED_KV_USED : Reg :=
  { base := 0x3F00C02124, stride := 0x40, count := 8 }

/-- SCHED_KV_PEAK (R220). -/
def R.SCHED_KV_PEAK : Reg :=
  { base := 0x3F00C02128, stride := 0x40, count := 8, rc := 0xFFFFF }

/-- SCHED_KV_WAIT (R220). -/
def R.SCHED_KV_WAIT : Reg :=
  { base := 0x3F00C0212C, stride := 0x40, count := 8, rc := 0xFFFF }

/-- SCHED_ATTN_CFG (R220). -/
def R.SCHED_ATTN_CFG : Reg :=
  { base := 0x3F00C02130, stride := 0x40, count := 8 }

/-- SCHED_ATTN_TOK (R220). -/
def R.SCHED_ATTN_TOK : Reg :=
  { base := 0x3F00C02134, stride := 0x40, count := 8 }

/-- SCHED_ATTN_CNT (R220). -/
def R.SCHED_ATTN_CNT : Reg :=
  { base := 0x3F00C02138, stride := 0x40, count := 8, rc := 0xFFFFFFFF }

/-- EARLY_THRESHOLD (R220). -/
def R.EARLY_THRESHOLD : Reg :=
  { base := 0x3F00902000, stride := 0x8, count := 8, reset := fun _ _ => 0xF0, rw := 0xFF }

/-- EARLY_RUN (R220). -/
def R.EARLY_RUN : Reg :=
  { base := 0x3F00902004, stride := 0x8, count := 8, rw := 0xFF }

/-- SCHED_STAGE_BASE (R220). -/
def R.SCHED_STAGE_BASE : Reg :=
  { base := 0x3F00C06000, stride := 0x10, count := 8, rw := 0xFFFFFF }

/-- SCHED_STAGE_SIZE (R220). -/
def R.SCHED_STAGE_SIZE : Reg :=
  { base := 0x3F00C06004, stride := 0x10, count := 8, rw := 0xFFFFF }

/-- SCHED_STAGE_NEED (R220). -/
def R.SCHED_STAGE_NEED : Reg :=
  { base := 0x3F00C06008, stride := 0x10, count := 8 }

/-- SCHED_STAGE_USED (R220). -/
def R.SCHED_STAGE_USED : Reg :=
  { base := 0x3F00C0600C, stride := 0x10, count := 8, rc := 0xFFFF0000 }

/-- QUANT_ALARM_FRACTION (R242). -/
def R.QUANT_ALARM_FRACTION : Reg :=
  { base := 0x3F00C03000, stride := 0x40, count := 8, reset := fun _ _ => 0x28F, rw := 0xFFFF }

/-- QUANT_SCALE_POLICY (R242). -/
def R.QUANT_SCALE_POLICY : Reg :=
  { base := 0x3F00C03004, stride := 0x40, count := 8, rw := 0xFF03 }

/-- QUANT_STAT_CTRL (R242). -/
def R.QUANT_STAT_CTRL : Reg :=
  { base := 0x3F00C03008, stride := 0x40, count := 8, rw := 0x3, w1c := 0x4 }

/-- QUANT_STAT_BASE (R242). -/
def R.QUANT_STAT_BASE : Reg :=
  { base := 0x3F00C0300C, stride := 0x40, count := 8, rw := 0xFFFFFF }

/-- QUANT_STAT_SIZE (R242). -/
def R.QUANT_STAT_SIZE : Reg :=
  { base := 0x3F00C03010, stride := 0x40, count := 8, rw := 0xFFFF }

/-- QUANT_STAT_WR (R242). -/
def R.QUANT_STAT_WR : Reg :=
  { base := 0x3F00C03014, stride := 0x40, count := 8 }

/-- QUANT_STAT_RD (R242). -/
def R.QUANT_STAT_RD : Reg :=
  { base := 0x3F00C03018, stride := 0x40, count := 8, rw := 0x7FFFFFF }

/-- QUANT_STAT_CNT (R242). -/
def R.QUANT_STAT_CNT : Reg :=
  { base := 0x3F00C0301C, stride := 0x40, count := 8, rc := 0xFFFFFFFF }

/-- QUANT_CALIB_CTRL (R242). -/
def R.QUANT_CALIB_CTRL : Reg :=
  { base := 0x3F00C03020, stride := 0x40, count := 8, rw := 0x1, w1c := 0x4 }

/-- QUANT_CALIB_BASE (R242). -/
def R.QUANT_CALIB_BASE : Reg :=
  { base := 0x3F00C03024, stride := 0x40, count := 8, rw := 0xFFFFFF }

/-- QUANT_CALIB_SIZE (R242). -/
def R.QUANT_CALIB_SIZE : Reg :=
  { base := 0x3F00C03028, stride := 0x40, count := 8, rw := 0xFFFF }

/-- QUANT_CALIB_NEED (R242). -/
def R.QUANT_CALIB_NEED : Reg :=
  { base := 0x3F00C0302C, stride := 0x40, count := 8 }

/-- QUANT_CALIB_CNT (R242). -/
def R.QUANT_CALIB_CNT : Reg :=
  { base := 0x3F00C03030, stride := 0x40, count := 8 }

/-- SCHED_LEARN_CTRL (R258). -/
def R.SCHED_LEARN_CTRL : Reg :=
  { base := 0x3F00C04000, stride := 0x40, count := 8, reset := fun _ _ => 0x100000, rw := 0x1FF0007, w1c := 0x8 }

/-- SCHED_LEARN_RATE (R258). -/
def R.SCHED_LEARN_RATE : Reg :=
  { base := 0x3F00C04004, stride := 0x40, count := 8, reset := fun _ _ => 0x3A83126F, rw := 0xFFFFFFFF }

/-- SCHED_LEARN_BETA1 (R258). -/
def R.SCHED_LEARN_BETA1 : Reg :=
  { base := 0x3F00C04008, stride := 0x40, count := 8, reset := fun _ _ => 0x3F666666, rw := 0xFFFFFFFF }

/-- SCHED_LEARN_BETA2 (R258). -/
def R.SCHED_LEARN_BETA2 : Reg :=
  { base := 0x3F00C0400C, stride := 0x40, count := 8, reset := fun _ _ => 0x3F7FBE77, rw := 0xFFFFFFFF }

/-- SCHED_LEARN_EPS (R258). -/
def R.SCHED_LEARN_EPS : Reg :=
  { base := 0x3F00C04010, stride := 0x40, count := 8, reset := fun _ _ => 0x322BCC77, rw := 0xFFFFFFFF }

/-- SCHED_LEARN_BASE (R258). -/
def R.SCHED_LEARN_BASE : Reg :=
  { base := 0x3F00C04014, stride := 0x40, count := 8, rw := 0xFFFFFF }

/-- SCHED_LEARN_SIZE (R258). -/
def R.SCHED_LEARN_SIZE : Reg :=
  { base := 0x3F00C04018, stride := 0x40, count := 8, rw := 0xFFFF }

/-- SCHED_LEARN_NEED (R258). -/
def R.SCHED_LEARN_NEED : Reg :=
  { base := 0x3F00C0401C, stride := 0x40, count := 8 }

/-- SCHED_LEARN_OPT_TIME (R258). -/
def R.SCHED_LEARN_OPT_TIME : Reg :=
  { base := 0x3F00C04020, stride := 0x40, count := 8 }

/-- SCHED_LEARN_STEPS (R258). -/
def R.SCHED_LEARN_STEPS : Reg :=
  { base := 0x3F00C04024, stride := 0x40, count := 8 }

/-- SCHED_LEARN_LOSS (R258). -/
def R.SCHED_LEARN_LOSS : Reg :=
  { base := 0x3F00C04028, stride := 0x40, count := 8 }

/-- SCHED_LEARN_CNT (R258). -/
def R.SCHED_LEARN_CNT : Reg :=
  { base := 0x3F00C0402C, stride := 0x40, count := 8, rc := 0xFFFFFFFF }

/-- SCHED_LEARN_COMMIT (R258). -/
def R.SCHED_LEARN_COMMIT : Reg :=
  { base := 0x3F00C04030, stride := 0x40, count := 8 }

/-- SCHED_MODEL_BASE (R289). -/
def R.SCHED_MODEL_BASE : Reg :=
  { base := 0x3F00C00000, rw := 0xFFFFFF }

/-- SCHED_MODEL_SIZE (R289). -/
def R.SCHED_MODEL_SIZE : Reg :=
  { base := 0x3F00C00004, rw := 0xFFFFF }

/-- SCHED_MODEL_CNT (R289). -/
def R.SCHED_MODEL_CNT : Reg :=
  { base := 0x3F00C00008 }

/-- SCHED_CACHE_CNT (R289). -/
def R.SCHED_CACHE_CNT : Reg :=
  { base := 0x3F00C00010, rc := 0xFFFF0000 }

/-- SCHED_SLOT (R289). -/
def R.SCHED_SLOT : Reg :=
  { base := 0x3F00C00100, stride := 0x4, count := 64 }

/-- SCHED_LOOM_MAP (R289). -/
def R.SCHED_LOOM_MAP : Reg :=
  { base := 0x3F00C00200, stride := 0x4, count := 8 }

/-- SCHED_PART_LO (R289). -/
def R.SCHED_PART_LO : Reg :=
  { base := 0x3F00C01000, stride := 0x40, count := 8 }

/-- SCHED_PART_HI (R289). -/
def R.SCHED_PART_HI : Reg :=
  { base := 0x3F00C01004, stride := 0x40, count := 8 }

/-- SCHED_JOB (R289). -/
def R.SCHED_JOB : Reg :=
  { base := 0x3F00C01008, stride := 0x40, count := 8 }

/-- SCHED_JOB_SIZE (R289). -/
def R.SCHED_JOB_SIZE : Reg :=
  { base := 0x3F00C0100C, stride := 0x40, count := 8 }

/-- SCHED_JOB_MODEL (R289). -/
def R.SCHED_JOB_MODEL : Reg :=
  { base := 0x3F00C01010, stride := 0x40, count := 8 }

/-- SCHED_STEM_TIME (R289). -/
def R.SCHED_STEM_TIME : Reg :=
  { base := 0x3F00C01014, stride := 0x40, count := 8 }

/-- SCHED_SAVE_BASE (R289). -/
def R.SCHED_SAVE_BASE : Reg :=
  { base := 0x3F00C01018, stride := 0x40, count := 8, rw := 0xFFFFFF }

/-- SCHED_SAVE_SIZE (R289). -/
def R.SCHED_SAVE_SIZE : Reg :=
  { base := 0x3F00C0101C, stride := 0x40, count := 8, rw := 0xFFFF }

/-- SCHED_REMOTE_BASE (R289). -/
def R.SCHED_REMOTE_BASE : Reg :=
  { base := 0x3F00C01020, stride := 0x40, count := 8, rw := 0xFFFFFF }

/-- SCHED_JOB_CNT (R289). -/
def R.SCHED_JOB_CNT : Reg :=
  { base := 0x3F00C01024, stride := 0x40, count := 8, rc := 0xFFFFFFFF }

/-- LOOM_QDEPTH_LS (R289). -/
def R.LOOM_QDEPTH_LS : Reg :=
  { base := 0x3F01000200, stride := 0x10000, count := 64 }

/-- LOOM_QDEPTH_CS (R289). -/
def R.LOOM_QDEPTH_CS : Reg :=
  { base := 0x3F01000204, stride := 0x10000, count := 64 }

/-- LOOM_SHUTTLE (R289). -/
def R.LOOM_SHUTTLE : Reg :=
  { base := 0x3F01000208, stride := 0x10000, count := 64, rc := 0xFFF0000 }

/-- LOOM_CMD (R289). -/
def R.LOOM_CMD : Reg :=
  { base := 0x3F0100020C, stride := 0x10000, count := 64 }

/-- LOOM_ENG_STAT (R289). -/
def R.LOOM_ENG_STAT : Reg :=
  { base := 0x3F01000210, stride := 0x10000, count := 64, rc := 0xFF }

/-- LOOM_REMOTE (R289). -/
def R.LOOM_REMOTE : Reg :=
  { base := 0x3F01000214, stride := 0x10000, count := 64 }

/-- LINK_REMOTE_TMO (R289). -/
def R.LINK_REMOTE_TMO : Reg :=
  { base := 0x3F00500800, reset := fun _ _ => 0xC8, rw := 0xFFFF }

/-- LINK_REMOTE_CNT (R289). -/
def R.LINK_REMOTE_CNT : Reg :=
  { base := 0x3F00500804, rc := 0xFFFFFFFF }

/-- DET_ARITH_PROFILE (R301). -/
def R.DET_ARITH_PROFILE : Reg :=
  { base := 0x3F00E00000, reset := fun _ _ => 0xA10001 }

/-- DET_CTRL (R301). -/
def R.DET_CTRL : Reg :=
  { base := 0x3F00E00004, w1s := 0x1 }

/-- DET_TDC (R301). -/
def R.DET_TDC : Reg :=
  { base := 0x3F00E00008 }

/-- DET_TDC_CAUSE0 (R301). -/
def R.DET_TDC_CAUSE0 : Reg :=
  { base := 0x3F00E0000C, rc := 0xFFFFFFFF }

/-- DET_TDC_CAUSE1 (R301). -/
def R.DET_TDC_CAUSE1 : Reg :=
  { base := 0x3F00E00010, rc := 0xFFFFFF }

/-- DET_TDC_FIRST_NS (R301). -/
def R.DET_TDC_FIRST_NS : Reg :=
  { base := 0x3F00E00014 }

/-- DET_TDC_FIRST_S_LO (R301). -/
def R.DET_TDC_FIRST_S_LO : Reg :=
  { base := 0x3F00E00018 }

/-- DET_TDC_FIRST_S_HI (R301). -/
def R.DET_TDC_FIRST_S_HI : Reg :=
  { base := 0x3F00E0001C }

/-- MEM_DDR_CFG (R329). -/
def R.MEM_DDR_CFG : Reg :=
  { base := 0x3F00B00000, reset := fun _ _ => 0x8000 }

/-- MEM_WIPE_STAT (R329). -/
def R.MEM_WIPE_STAT : Reg :=
  { base := 0x3F00B00004 }

/-- MEM_WIPE_MARK (R329). -/
def R.MEM_WIPE_MARK : Reg :=
  { base := 0x3F00B00008 }

/-- MEM_SRAM_CNT (R329). -/
def R.MEM_SRAM_CNT : Reg :=
  { base := 0x3F00B00010, rc := 0xFFFFFF }

/-- MEM_DDR_CNT (R329). -/
def R.MEM_DDR_CNT : Reg :=
  { base := 0x3F00B00014, rc := 0xFFFFFF }

/-- MEM_DDR_DEV (R329). -/
def R.MEM_DDR_DEV : Reg :=
  { base := 0x3F00B00018 }

/-- MEM_UE_ADDR_LO (R329). -/
def R.MEM_UE_ADDR_LO : Reg :=
  { base := 0x3F00B0001C }

/-- MEM_UE_ADDR_HI (R329). -/
def R.MEM_UE_ADDR_HI : Reg :=
  { base := 0x3F00B00020 }

/-- MEM_TMR_CNT (R329). -/
def R.MEM_TMR_CNT : Reg :=
  { base := 0x3F00B00024, rc := 0xFFFF }

/-- MEM_TMR_STAT (R329). -/
def R.MEM_TMR_STAT : Reg :=
  { base := 0x3F00B00028 }

/-- MEM_POISON_CNT (R329). -/
def R.MEM_POISON_CNT : Reg :=
  { base := 0x3F00B0002C, rc := 0xFFFFFFFF }

/-- SCRUB_RATE (R329). -/
def R.SCRUB_RATE : Reg :=
  { base := 0x3F00B00100, reset := fun _ _ => 7 }

/-- SCRUB_DEBT_MAX (R329). -/
def R.SCRUB_DEBT_MAX : Reg :=
  { base := 0x3F00B00104, reset := fun _ _ => 0x40 }

/-- SCRUB_SRAM_PERIOD (R329). -/
def R.SCRUB_SRAM_PERIOD : Reg :=
  { base := 0x3F00B00108, reset := fun _ _ => 0x40, rw := 0xFFFF }

/-- SCRUB_PASS (R329). -/
def R.SCRUB_PASS : Reg :=
  { base := 0x3F00B0010C }

/-- SCRUB_POS (R329). -/
def R.SCRUB_POS : Reg :=
  { base := 0x3F00B00110 }

/-- SCRUB_CNT (R329). -/
def R.SCRUB_CNT : Reg :=
  { base := 0x3F00B00114, rc := 0xFFFFFFFF }

/-- FIELD_LINK_STAT (R365). -/
def R.FIELD_LINK_STAT : Reg :=
  { base := 0x3F00A00000, reset := fun _ _ => 0x2 }

/-- FIELD_LINK_CNT (R365). -/
def R.FIELD_LINK_CNT : Reg :=
  { base := 0x3F00A00004, rc := 0xFFFFFFFF }

/-- FIELD_EJECT_LEAD (R365). -/
def R.FIELD_EJECT_LEAD : Reg :=
  { base := 0x3F00A00008, reset := fun _ _ => 0x40 }

/-- FIELD_AMEND_LATE (R365). -/
def R.FIELD_AMEND_LATE : Reg :=
  { base := 0x3F00A0000C, rc := 0xFFFFFFFF }

/-- FIELD_TABLE (R365). -/
def R.FIELD_TABLE : Reg :=
  { base := 0x3F00A00010, rc := 0x1FF0000 }

/-- FIELD_EJECT_CNT (R365). -/
def R.FIELD_EJECT_CNT : Reg :=
  { base := 0x3F00A00014, rc := 0xFFFFFFFF }

/-- FIELD_PULSE_MAX (R365). -/
def R.FIELD_PULSE_MAX : Reg :=
  { base := 0x3F00A00018, reset := fun _ _ => 0x64, rw := 0xFFFF }

/-- FIELD_ENTRY_TMO (R365). -/
def R.FIELD_ENTRY_TMO : Reg :=
  { base := 0x3F00A0001C, rw := 0xFFFF }

/-- FIELD_STOP (R365). -/
def R.FIELD_STOP : Reg :=
  { base := 0x3F00A00020, rc := 0xFF0000 }

/-- FIELD_SAFE_VALUES (R365). -/
def R.FIELD_SAFE_VALUES : Reg :=
  { base := 0x3F00A00024 }

/-- FIELD_FO_STAT (R365). -/
def R.FIELD_FO_STAT : Reg :=
  { base := 0x3F00A00028, rc := 0xFF0000 }

/-- FIELD_FI_STATE (R365). -/
def R.FIELD_FI_STATE : Reg :=
  { base := 0x3F00A0002C }

/-- FIELD_FO_FUNC (R365). -/
def R.FIELD_FO_FUNC : Reg :=
  { base := 0x3F00A00038 }

/-- FIELD_PROBE_CFG (R365). -/
def R.FIELD_PROBE_CFG : Reg :=
  { base := 0x3F00A00040 }

/-- FIELD_FO_TRIG_PERIOD (R365). -/
def R.FIELD_FO_TRIG_PERIOD : Reg :=
  { base := 0x3F00A00300, stride := 0x8, count := 8 }

/-- FIELD_FO_TRIG_WIDTH (R365). -/
def R.FIELD_FO_TRIG_WIDTH : Reg :=
  { base := 0x3F00A00304, stride := 0x8, count := 8 }

/-- FIELD_FI_CFG (R365). -/
def R.FIELD_FI_CFG : Reg :=
  { base := 0x3F00A00100, stride := 0x4, count := 16, rc := 0xFF000000 }

/-- FIELD_ENC_CFG (R365). -/
def R.FIELD_ENC_CFG : Reg :=
  { base := 0x3F00A00200, stride := 0x40, count := 2 }

/-- FIELD_ENC_COUNT_LO (R365). -/
def R.FIELD_ENC_COUNT_LO : Reg :=
  { base := 0x3F00A00204, stride := 0x40, count := 2 }

/-- FIELD_ENC_COUNT_HI (R365). -/
def R.FIELD_ENC_COUNT_HI : Reg :=
  { base := 0x3F00A00208, stride := 0x40, count := 2 }

/-- FIELD_ENC_INDEX_LO (R365). -/
def R.FIELD_ENC_INDEX_LO : Reg :=
  { base := 0x3F00A0020C, stride := 0x40, count := 2 }

/-- FIELD_ENC_INDEX_HI (R365). -/
def R.FIELD_ENC_INDEX_HI : Reg :=
  { base := 0x3F00A00210, stride := 0x40, count := 2 }

/-- FIELD_ENC_SPEED (R365). -/
def R.FIELD_ENC_SPEED : Reg :=
  { base := 0x3F00A00214, stride := 0x40, count := 2 }

/-- FIELD_ENC_ZCHECK (R365). -/
def R.FIELD_ENC_ZCHECK : Reg :=
  { base := 0x3F00A00218, stride := 0x40, count := 2, reset := fun _ _ => 0x2000000, rw := 0xFFFFFFFF }

/-- FIELD_ENC_ERR (R365). -/
def R.FIELD_ENC_ERR : Reg :=
  { base := 0x3F00A0021C, stride := 0x40, count := 2, rc := 0xFFFFFF }

/-- TK_TIME_NS (R383). -/
def R.TK_TIME_NS : Reg :=
  { base := 0x3F00300000 }

/-- TK_TIME_S_LO (R383). -/
def R.TK_TIME_S_LO : Reg :=
  { base := 0x3F00300004 }

/-- TK_TIME_S_HI (R383). -/
def R.TK_TIME_S_HI : Reg :=
  { base := 0x3F00300008 }

/-- TK_STAT (R383). -/
def R.TK_STAT : Reg :=
  { base := 0x3F00300010 }

/-- TK_HOLDOVER (R383). -/
def R.TK_HOLDOVER : Reg :=
  { base := 0x3F00300014 }

/-- TK_CTRL (R383). -/
def R.TK_CTRL : Reg :=
  { base := 0x3F00300018, reset := fun _ _ => 0x640A01, rw := 0xFFFFFF01 }

/-- TK_RATE_LO (R383). -/
def R.TK_RATE_LO : Reg :=
  { base := 0x3F0030001C }

/-- TK_RATE_HI (R383). -/
def R.TK_RATE_HI : Reg :=
  { base := 0x3F00300020 }

/-- TK_STEP_LO (R383). -/
def R.TK_STEP_LO : Reg :=
  { base := 0x3F00300024 }

/-- TK_STEP_HI (R383). -/
def R.TK_STEP_HI : Reg :=
  { base := 0x3F00300028 }

/-- TK_VEL (R383). -/
def R.TK_VEL : Reg :=
  { base := 0x3F00300030, stride := 0x4, count := 2 }

/-- TK_DOM_OFFSET (R383). -/
def R.TK_DOM_OFFSET : Reg :=
  { base := 0x3F00300040, stride := 0x20, count := 2 }

/-- TK_DOM_RATE (R383). -/
def R.TK_DOM_RATE : Reg :=
  { base := 0x3F00300044, stride := 0x20, count := 2 }

/-- TK_DOM_STAT (R383). -/
def R.TK_DOM_STAT : Reg :=
  { base := 0x3F00300048, stride := 0x20, count := 2 }

/-- PTP_CNT (R383). -/
def R.PTP_CNT : Reg :=
  { base := 0x3F0030004C, stride := 0x20, count := 2, rc := 0xFFFFFFFF }

/-- TK_CMP_NS (R383). -/
def R.TK_CMP_NS : Reg :=
  { base := 0x3F00300100, stride := 0x10, count := 32 }

/-- TK_CMP_S_LO (R383). -/
def R.TK_CMP_S_LO : Reg :=
  { base := 0x3F00300104, stride := 0x10, count := 32 }

/-- TK_CMP_S_HI (R383). -/
def R.TK_CMP_S_HI : Reg :=
  { base := 0x3F00300108, stride := 0x10, count := 32 }

/-- ETH_CFG (R383). -/
def R.ETH_CFG : Reg :=
  { base := 0x3F00400000, stride := 0x100, count := 2 }

/-- ETH_STAT (R383). -/
def R.ETH_STAT : Reg :=
  { base := 0x3F00400004, stride := 0x100, count := 2 }

/-- ETH_ASYM_RX (R383). -/
def R.ETH_ASYM_RX : Reg :=
  { base := 0x3F00400008, stride := 0x100, count := 2 }

/-- ETH_ASYM_TX (R383). -/
def R.ETH_ASYM_TX : Reg :=
  { base := 0x3F0040000C, stride := 0x100, count := 2 }

/-- ETH_LATE_POLICY (R383). -/
def R.ETH_LATE_POLICY : Reg :=
  { base := 0x3F00400010, stride := 0x100, count := 2 }

/-- ETH_MAC_LO (R383). -/
def R.ETH_MAC_LO : Reg :=
  { base := 0x3F00400014, stride := 0x100, count := 2 }

/-- ETH_MAC_HI (R383). -/
def R.ETH_MAC_HI : Reg :=
  { base := 0x3F00400018, stride := 0x100, count := 2 }

/-- ETH_DST_LO (R383). -/
def R.ETH_DST_LO : Reg :=
  { base := 0x3F0040001C, stride := 0x100, count := 2, rw := 0xFFFFFFFF }

/-- ETH_DST_HI (R383). -/
def R.ETH_DST_HI : Reg :=
  { base := 0x3F00400020, stride := 0x100, count := 2, rw := 0xFFFF }

/-- ETH_ETYPE (R383). -/
def R.ETH_ETYPE : Reg :=
  { base := 0x3F00400024, stride := 0x100, count := 2, reset := fun _ _ => 0x88B5, rw := 0xFFFF }

/-- ETH_TXTS_STAT (R383). -/
def R.ETH_TXTS_STAT : Reg :=
  { base := 0x3F00400028, stride := 0x100, count := 2, w1c := 0x100, rc := 0xFF0000 }

/-- ETH_TXTS_ID (R383). -/
def R.ETH_TXTS_ID : Reg :=
  { base := 0x3F0040002C, stride := 0x100, count := 2, rc := 0x3FFFF }

/-- ETH_TXTS_NS (R383). -/
def R.ETH_TXTS_NS : Reg :=
  { base := 0x3F00400030, stride := 0x100, count := 2 }

/-- ETH_TXTS_S_LO (R383). -/
def R.ETH_TXTS_S_LO : Reg :=
  { base := 0x3F00400034, stride := 0x100, count := 2 }

/-- ETH_TXTS_S_HI (R383). -/
def R.ETH_TXTS_S_HI : Reg :=
  { base := 0x3F00400038, stride := 0x100, count := 2 }

/-- ETH_CNT (R383). -/
def R.ETH_CNT : Reg :=
  { base := 0x3F00400040, stride := 0x100, count := 2, rc := 0xFFFFFF }

/-- ETH_LAUNCH_CNT (R383). -/
def R.ETH_LAUNCH_CNT : Reg :=
  { base := 0x3F00400044, stride := 0x100, count := 2, rc := 0xFFFFFFFF }

/-- LINK_CFG (R408). -/
def R.LINK_CFG : Reg :=
  { base := 0x3F00500000, reset := fun _ _ => 0x30, rw := 0x133 }

/-- LINK_STAT (R408). -/
def R.LINK_STAT : Reg :=
  { base := 0x3F00500004 }

/-- LINK_CNT (R408). -/
def R.LINK_CNT : Reg :=
  { base := 0x3F00500008, rc := 0xFFFFFFFF }

/-- LINK_CREDIT (R408). -/
def R.LINK_CREDIT : Reg :=
  { base := 0x3F0050000C }

/-- LINK_POISON (R408). -/
def R.LINK_POISON : Reg :=
  { base := 0x3F00500010, rc := 0xFFFFFFFF }

/-- TWIN_CTRL (R408). -/
def R.TWIN_CTRL : Reg :=
  { base := 0x3F00500400 }

/-- TWIN_STAT (R408). -/
def R.TWIN_STAT : Reg :=
  { base := 0x3F00500404, w1c := 0xA0 }

/-- TWIN_TAKEOVER_TMO (R408). -/
def R.TWIN_TAKEOVER_TMO : Reg :=
  { base := 0x3F00500408, reset := fun _ _ => 0x32, rw := 0xFFFF }

/-- TWIN_XCHECK_WAIT (R408). -/
def R.TWIN_XCHECK_WAIT : Reg :=
  { base := 0x3F0050040C, reset := fun _ _ => 0x14, rw := 0xFFFF }

/-- TWIN_OFFSET_LO (R408). -/
def R.TWIN_OFFSET_LO : Reg :=
  { base := 0x3F00500410, stride := 0x8, count := 2 }

/-- TWIN_OFFSET_HI (R408). -/
def R.TWIN_OFFSET_HI : Reg :=
  { base := 0x3F00500414, stride := 0x8, count := 2 }

/-- TWIN_CNT (R408). -/
def R.TWIN_CNT : Reg :=
  { base := 0x3F00500420, rc := 0xFFFFFFFF }

/-- TWIN_HB (R408). -/
def R.TWIN_HB : Reg :=
  { base := 0x3F00500424, reset := fun _ _ => 0xFFFF }

/-- TWIN_REMOTE_BASE (R408). -/
def R.TWIN_REMOTE_BASE : Reg :=
  { base := 0x3F00500428, rw := 0xFFFFFF }

/-- TWIN_REMOTE_SIZE (R408). -/
def R.TWIN_REMOTE_SIZE : Reg :=
  { base := 0x3F0050042C, rw := 0xFFFFF }

/-- TWIN_PEER_TDC (R408). -/
def R.TWIN_PEER_TDC : Reg :=
  { base := 0x3F00500430 }

/-- TWIN_EVENT_CNT (R408). -/
def R.TWIN_EVENT_CNT : Reg :=
  { base := 0x3F00500434, rc := 0xFFFF }

/-- FIELD_TWIN_GATE (R408). -/
def R.FIELD_TWIN_GATE : Reg :=
  { base := 0x3F00A00030 }

/-- SEC_BOOT (R425). -/
def R.SEC_BOOT : Reg :=
  { base := 0x3F00200000, rc := 0xFF00 }

/-- SEC_FW_VERSION (R425). -/
def R.SEC_FW_VERSION : Reg :=
  { base := 0x3F00200004 }

/-- SEC_RESET_CAUSE (R425). -/
def R.SEC_RESET_CAUSE : Reg :=
  { base := 0x3F00200008 }

/-- SEC_ATTEST (R425). -/
def R.SEC_ATTEST : Reg :=
  { base := 0x3F0020000C }

/-- SEC_ATTEST_CNT (R425). -/
def R.SEC_ATTEST_CNT : Reg :=
  { base := 0x3F00200010 }

/-- SEC_ID_PUB (R425). -/
def R.SEC_ID_PUB : Reg :=
  { base := 0x3F00200100, stride := 0x4, count := 14 }

/-- SEC_FW_HASH (R425). -/
def R.SEC_FW_HASH : Reg :=
  { base := 0x3F00200140, stride := 0x4, count := 8 }

/-- SEC_ROOT_KEY (R425). -/
def R.SEC_ROOT_KEY : Reg :=
  { base := 0x3F00200160, stride := 0x4, count := 8 }

/-- SEC_OWNER_KEY (R425). -/
def R.SEC_OWNER_KEY : Reg :=
  { base := 0x3F00200180, stride := 0x4, count := 8 }

/-- SEC_MODEL_KEY (R425). -/
def R.SEC_MODEL_KEY : Reg :=
  { base := 0x3F002001A0, stride := 0x4, count := 8 }

/-- LC_STATE (R425). -/
def R.LC_STATE : Reg :=
  { base := 0x3F00201000, reset := fun _ _ => 0x100 }

/-- LC_NONCE (R425). -/
def R.LC_NONCE : Reg :=
  { base := 0x3F00201020, stride := 0x4, count := 8 }

/-- FIELD_TABLE_CLEAR (R425). -/
def R.FIELD_TABLE_CLEAR : Reg :=
  { base := 0x3F00A00034 }

/-- SCHED_FENCE_CFG (R439). -/
def R.SCHED_FENCE_CFG : Reg :=
  { base := 0x3F00C05000, reset := fun _ _ => 0x40, rw := 0xFFFF }

/-- SCHED_FENCE_MAP_LO (R439). -/
def R.SCHED_FENCE_MAP_LO : Reg :=
  { base := 0x3F00C05004 }

/-- SCHED_FENCE_MAP_HI (R439). -/
def R.SCHED_FENCE_MAP_HI : Reg :=
  { base := 0x3F00C05008 }

/-- SCHED_FENCE_LAST (R439). -/
def R.SCHED_FENCE_LAST : Reg :=
  { base := 0x3F00C0500C }

/-- SCHED_FENCE_TIME_NS (R439). -/
def R.SCHED_FENCE_TIME_NS : Reg :=
  { base := 0x3F00C05010 }

/-- SCHED_FENCE_TIME_S_LO (R439). -/
def R.SCHED_FENCE_TIME_S_LO : Reg :=
  { base := 0x3F00C05014 }

/-- SCHED_FENCE_TIME_S_HI (R439). -/
def R.SCHED_FENCE_TIME_S_HI : Reg :=
  { base := 0x3F00C05018 }

/-- SCHED_FENCE_CNT (R439). -/
def R.SCHED_FENCE_CNT : Reg :=
  { base := 0x3F00C0501C, rc := 0xFFFFFFFF }

/-- LOOM_CORR (R439). -/
def R.LOOM_CORR : Reg :=
  { base := 0x3F01000300, stride := 0x10000, count := 64 }

/-- SNAP_CTRL (R439). -/
def R.SNAP_CTRL : Reg :=
  { base := 0x3F00D00000, rw := 0x100000 }

/-- SNAP_STAT (R439). -/
def R.SNAP_STAT : Reg :=
  { base := 0x3F00D00004 }

/-- SNAP_CMP_NS (R439). -/
def R.SNAP_CMP_NS : Reg :=
  { base := 0x3F00D00008, rw := 0xFFFFFFFF }

/-- SNAP_CMP_S_LO (R439). -/
def R.SNAP_CMP_S_LO : Reg :=
  { base := 0x3F00D0000C, rw := 0xFFFFFFFF }

/-- SNAP_CMP_S_HI (R439). -/
def R.SNAP_CMP_S_HI : Reg :=
  { base := 0x3F00D00010, rw := 0xFFFF }

/-- SNAP_ENC_LO (R439). -/
def R.SNAP_ENC_LO : Reg :=
  { base := 0x3F00D00014, rw := 0xFFFFFFFF }

/-- SNAP_ENC_HI (R439). -/
def R.SNAP_ENC_HI : Reg :=
  { base := 0x3F00D00018, rw := 0xFFFF }

/-- SNAP_HOLDOFF (R439). -/
def R.SNAP_HOLDOFF : Reg :=
  { base := 0x3F00D0001C, reset := fun _ _ => 0x64, rw := 0xFFFF }

/-- SNAP_CNT (R439). -/
def R.SNAP_CNT : Reg :=
  { base := 0x3F00D00020, rc := 0xFFFFFFFF }

/-- SYS_TEMP (R439). -/
def R.SYS_TEMP : Reg :=
  { base := 0x3F00000800, stride := 0x4, count := 4 }

/-- SYS_RAIL_C (R439). -/
def R.SYS_RAIL_C : Reg :=
  { base := 0x3F00000810 }

/-- SYS_RAIL_S (R439). -/
def R.SYS_RAIL_S : Reg :=
  { base := 0x3F00000814 }

/-- SYS_RAIL_X (R439). -/
def R.SYS_RAIL_X : Reg :=
  { base := 0x3F00000818 }

/-- SYS_VCORE (R462). -/
def R.SYS_VCORE : Reg :=
  { base := 0x3F00000900, reset := fun _ _ => 0x2EE02EE }

/-- SYS_THROTTLE (R462). -/
def R.SYS_THROTTLE : Reg :=
  { base := 0x3F00000904, reset := fun _ _ => 0x14052D0, rwl := 0x1FFF3FF }

/-- SYS_THROTTLE_STAT (R462). -/
def R.SYS_THROTTLE_STAT : Reg :=
  { base := 0x3F00000908, rc := 0xFF0000 }

/-- SYS_PWR (R462). -/
def R.SYS_PWR : Reg :=
  { base := 0x3F0000090C }

/-- SYS_PWR_STAT (R462). -/
def R.SYS_PWR_STAT : Reg :=
  { base := 0x3F00000910, w1c := 0x10 }

/-- Block lock registers of the blocks SYS to DET (R54). -/
def R.BLOCK_LOCK : Reg :=
  { base := 0x3F0000FFFC, stride := 0x100000, count := 15, w1s := 1 }

/-- Block lock registers of the LOOM blocks (R54). -/
def R.LOOM_LOCK : Reg :=
  { base := 0x3F0100FFFC, stride := 0x10000, count := 64, w1s := 1 }

/-- Block lock registers of the MILL blocks (R54). -/
def R.MILL_LOCK : Reg :=
  { base := 0x3F0200FFFC, stride := 0x10000, count := 4, w1s := 1 }

/-! Fields, in the order of the register tables. -/

def F.LOOM_PACE_RATE : Fld := ⟨R.LOOM_PACE, 0, 16⟩
def F.LOOM_PACE_VALID : Fld := ⟨R.LOOM_PACE, 31, 1⟩
def F.LOOM_PACE_MIN_MIN : Fld := ⟨R.LOOM_PACE_MIN, 0, 16⟩
def F.LOOM_ID_PHYS : Fld := ⟨R.LOOM_ID, 0, 5⟩
def F.LOOM_ID_MILL : Fld := ⟨R.LOOM_ID, 8, 2⟩
def F.LOOM_ID_ENABLED : Fld := ⟨R.LOOM_ID, 16, 6⟩
def F.SYS_OWN_OWNER : Fld := ⟨R.SYS_OWN, 0, 8⟩
def F.SYS_OWN_INSTANCE : Fld := ⟨R.SYS_OWN, 8, 8⟩
def F.SYS_OWN_IN_USE : Fld := ⟨R.SYS_OWN, 31, 1⟩
def F.SYS_ID_PART : Fld := ⟨R.SYS_ID, 0, 16⟩
def F.SYS_ID_STEPPING : Fld := ⟨R.SYS_ID, 16, 8⟩
def F.SYS_ID_GRADE : Fld := ⟨R.SYS_ID, 24, 2⟩
def F.MBX_H2D_DATA_DATA : Fld := ⟨R.MBX_H2D_DATA, 0, 32⟩
def F.MBX_D2H_DATA_DATA : Fld := ⟨R.MBX_D2H_DATA, 0, 32⟩
def F.MBX_T2D_DATA_DATA : Fld := ⟨R.MBX_T2D_DATA, 0, 32⟩
def F.MBX_D2T_DATA_DATA : Fld := ⟨R.MBX_D2T_DATA, 0, 32⟩
def F.MBX_H2D_GO_FULL : Fld := ⟨R.MBX_H2D_GO, 0, 1⟩
def F.MBX_D2H_GO_FULL : Fld := ⟨R.MBX_D2H_GO, 0, 1⟩
def F.MBX_T2D_GO_FULL : Fld := ⟨R.MBX_T2D_GO, 0, 1⟩
def F.MBX_D2T_GO_FULL : Fld := ⟨R.MBX_D2T_GO, 0, 1⟩
def F.HOST_STATUS_BOOT_ROM : Fld := ⟨R.HOST_STATUS, 0, 1⟩
def F.HOST_STATUS_FW_RUN : Fld := ⟨R.HOST_STATUS, 1, 1⟩
def F.HOST_STATUS_READY : Fld := ⟨R.HOST_STATUS, 2, 1⟩
def F.HOST_STATUS_MBX_COLLIDE : Fld := ⟨R.HOST_STATUS, 3, 1⟩
def F.HOST_STATUS_TX0_UP : Fld := ⟨R.HOST_STATUS, 4, 1⟩
def F.HOST_STATUS_TX1_UP : Fld := ⟨R.HOST_STATUS, 5, 1⟩
def F.HOST_STATUS_LC : Fld := ⟨R.HOST_STATUS, 8, 8⟩
def F.HOST_IBI_CAUSE_REPLY : Fld := ⟨R.HOST_IBI_CAUSE, 0, 1⟩
def F.HOST_IBI_CAUSE_UNTRACKED : Fld := ⟨R.HOST_IBI_CAUSE, 1, 1⟩
def F.HOST_IBI_CAUSE_LATE : Fld := ⟨R.HOST_IBI_CAUSE, 2, 1⟩
def F.HOST_IBI_CAUSE_FENCE : Fld := ⟨R.HOST_IBI_CAUSE, 3, 1⟩
def F.HOST_IBI_CAUSE_THERMAL : Fld := ⟨R.HOST_IBI_CAUSE, 4, 1⟩
def F.HOST_IBI_CAUSE_TWIN : Fld := ⟨R.HOST_IBI_CAUSE, 5, 1⟩
def F.HOST_IBI_CAUSE_SNAP : Fld := ⟨R.HOST_IBI_CAUSE, 6, 1⟩
def F.HOST_IBI_CAUSE_LINK : Fld := ⟨R.HOST_IBI_CAUSE, 7, 1⟩
def F.HOST_IBI_CAUSE_RX_ERR : Fld := ⟨R.HOST_IBI_CAUSE, 8, 1⟩
def F.HOST_IBI_CAUSE_MBX_WDT : Fld := ⟨R.HOST_IBI_CAUSE, 9, 1⟩
def F.HOST_IBI_CAUSE_READY : Fld := ⟨R.HOST_IBI_CAUSE, 10, 1⟩
def F.HOST_IBI_CAUSE_TX_DROP : Fld := ⟨R.HOST_IBI_CAUSE, 11, 1⟩
def F.HOST_IBI_EN_EN : Fld := ⟨R.HOST_IBI_EN, 0, 12⟩
def F.HOST_CFG_MBX_WDT : Fld := ⟨R.HOST_CFG, 0, 8⟩
def F.HOST_CFG_BULK_TMO : Fld := ⟨R.HOST_CFG, 8, 8⟩
def F.HOST_CFG_VERDICT_HOLD : Fld := ⟨R.HOST_CFG, 16, 12⟩
def F.HOST_TX_MAP_TAP_PORT : Fld := ⟨R.HOST_TX_MAP, 0, 17⟩
def F.HOST_TX_MAP_REC_PORT : Fld := ⟨R.HOST_TX_MAP, 17, 4⟩
def F.HOST_TX_MAP_TX0_EN : Fld := ⟨R.HOST_TX_MAP, 30, 1⟩
def F.HOST_TX_MAP_TX1_EN : Fld := ⟨R.HOST_TX_MAP, 31, 1⟩
def F.HOST_RX_CNT_ECC_CORR : Fld := ⟨R.HOST_RX_CNT, 0, 8⟩
def F.HOST_RX_CNT_CRC_ERR : Fld := ⟨R.HOST_RX_CNT, 8, 8⟩
def F.HOST_RX_CNT_DISCARD : Fld := ⟨R.HOST_RX_CNT, 16, 8⟩
def F.HOST_TX_CNT_MBX_WDT : Fld := ⟨R.HOST_TX_CNT, 0, 8⟩
def F.HOST_TX_CNT_TAP_DROP : Fld := ⟨R.HOST_TX_CNT, 8, 8⟩
def F.HOST_TX_CNT_VERDICT_DROP : Fld := ⟨R.HOST_TX_CNT, 16, 8⟩
def F.HOST_TX_VC_REC_VC20 : Fld := ⟨R.HOST_TX_VC_REC, 0, 4⟩
def F.HOST_TX_VC_REC_VC21 : Fld := ⟨R.HOST_TX_VC_REC, 4, 4⟩
def F.HOST_TX_VC_REC_VC22 : Fld := ⟨R.HOST_TX_VC_REC, 8, 4⟩
def F.HOST_TX_VC_REC_VC23 : Fld := ⟨R.HOST_TX_VC_REC, 12, 4⟩
def F.HOST_TX_VC_REC_ERR : Fld := ⟨R.HOST_TX_VC_REC, 16, 1⟩
def F.CAM_CTRL_EN : Fld := ⟨R.CAM_CTRL, 0, 1⟩
def F.CAM_CTRL_ARMED : Fld := ⟨R.CAM_CTRL, 1, 1⟩
def F.CAM_CTRL_QUIET : Fld := ⟨R.CAM_CTRL, 2, 1⟩
def F.CAM_CTRL_PHY_ACTIVE : Fld := ⟨R.CAM_CTRL, 3, 1⟩
def F.CAM_CTRL_DT : Fld := ⟨R.CAM_CTRL, 4, 6⟩
def F.CAM_CTRL_VC : Fld := ⟨R.CAM_CTRL, 10, 4⟩
def F.CAM_CTRL_MODE : Fld := ⟨R.CAM_CTRL, 14, 2⟩
def F.CAM_CTRL_WIDTH : Fld := ⟨R.CAM_CTRL, 16, 2⟩
def F.CAM_CTRL_ENC : Fld := ⟨R.CAM_CTRL, 18, 1⟩
def F.CAM_LINE_WORDS_LINE_WORDS : Fld := ⟨R.CAM_LINE_WORDS, 0, 14⟩
def F.CAM_BLOCK_LINES_BLOCK_LINES : Fld := ⟨R.CAM_BLOCK_LINES, 0, 16⟩
def F.CAM_FILL_FILL : Fld := ⟨R.CAM_FILL, 0, 16⟩
def F.CAM_INCOMPLETE_POLICY_DECIDE : Fld := ⟨R.CAM_INCOMPLETE_POLICY, 0, 1⟩
def F.CAM_PITCH_PITCH : Fld := ⟨R.CAM_PITCH, 0, 32⟩
def F.CAM_CNT_OFFSET_OFFSET : Fld := ⟨R.CAM_CNT_OFFSET, 0, 32⟩
def F.CAM_GAP_TOL_TOL : Fld := ⟨R.CAM_GAP_TOL, 0, 8⟩
def F.CAM_RETAIN_RETAIN : Fld := ⟨R.CAM_RETAIN, 0, 24⟩
def F.CAM_LS_SLOTS_SLOTS : Fld := ⟨R.CAM_LS_SLOTS, 0, 30⟩
def F.CAM_LS_USED_USED : Fld := ⟨R.CAM_LS_USED, 0, 30⟩
def F.CAM_LS_PEAK_PEAK : Fld := ⟨R.CAM_LS_PEAK, 0, 30⟩
def F.CAM_BASE_LO_BASE : Fld := ⟨R.CAM_BASE_LO, 0, 32⟩
def F.CAM_BASE_HI_BASE : Fld := ⟨R.CAM_BASE_HI, 0, 16⟩
def F.CAM_FRAMES_FRAMES : Fld := ⟨R.CAM_FRAMES, 0, 32⟩
def F.CAM_PKT_CNT_ECC_CORR : Fld := ⟨R.CAM_PKT_CNT, 0, 8⟩
def F.CAM_PKT_CNT_HDR_ERR : Fld := ⟨R.CAM_PKT_CNT, 8, 8⟩
def F.CAM_PKT_CNT_CRC_ERR : Fld := ⟨R.CAM_PKT_CNT, 16, 8⟩
def F.CAM_PKT_CNT_DISCARD : Fld := ⟨R.CAM_PKT_CNT, 24, 8⟩
def F.CAM_LINE_CNT_LINE_SHORT : Fld := ⟨R.CAM_LINE_CNT, 0, 8⟩
def F.CAM_LINE_CNT_LINE_LONG : Fld := ⟨R.CAM_LINE_CNT, 8, 8⟩
def F.CAM_LINE_CNT_ORPHAN : Fld := ⟨R.CAM_LINE_CNT, 16, 8⟩
def F.CAM_LINE_CNT_BEHIND : Fld := ⟨R.CAM_LINE_CNT, 24, 8⟩
def F.CAM_BLOCK_CNT_BLOCK_SHORT : Fld := ⟨R.CAM_BLOCK_CNT, 0, 8⟩
def F.CAM_BLOCK_CNT_BLOCK_LONG : Fld := ⟨R.CAM_BLOCK_CNT, 8, 8⟩
def F.CAM_BLOCK_CNT_NO_FE : Fld := ⟨R.CAM_BLOCK_CNT, 16, 8⟩
def F.CAM_BLOCK_CNT_GAP : Fld := ⟨R.CAM_BLOCK_CNT, 24, 8⟩
def F.CAM_DROP_CNT_LINE_DROP : Fld := ⟨R.CAM_DROP_CNT, 0, 16⟩
def F.CAM_DROP_CNT_FIFO_DROP : Fld := ⟨R.CAM_DROP_CNT, 16, 8⟩
def F.CAM_DROP_CNT_HOLE_MERGE : Fld := ⟨R.CAM_DROP_CNT, 24, 8⟩
def F.CAM_HOLES_ENTRIES : Fld := ⟨R.CAM_HOLES, 0, 7⟩
def F.PIPE_CTRL_INLINE : Fld := ⟨R.PIPE_CTRL, 0, 5⟩
def F.PIPE_CTRL_TM_MASK : Fld := ⟨R.PIPE_CTRL, 8, 17⟩
def F.PIPE_STAGES_EN : Fld := ⟨R.PIPE_STAGES, 0, 5⟩
def F.PIPE_STAGES_CFA : Fld := ⟨R.PIPE_STAGES, 8, 2⟩
def F.PIPE_DM_THRESH_T : Fld := ⟨R.PIPE_DM_THRESH, 0, 16⟩
def F.PIPE_OUT_FMT_FMT : Fld := ⟨R.PIPE_OUT_FMT, 0, 4⟩
def F.PIPE_OUT_FMT_MATRIX_SEL : Fld := ⟨R.PIPE_OUT_FMT, 16, 16⟩
def F.PIPE_OUT_BASE_BASE : Fld := ⟨R.PIPE_OUT_BASE, 0, 24⟩
def F.PIPE_OUT_SIZE_SIZE : Fld := ⟨R.PIPE_OUT_SIZE, 0, 16⟩
def F.PIPE_OUT_SLOT_SLOT : Fld := ⟨R.PIPE_OUT_SLOT, 0, 12⟩
def F.PIPE_OUT_USED_USED : Fld := ⟨R.PIPE_OUT_USED, 0, 16⟩
def F.PIPE_OUT_USED_PEAK : Fld := ⟨R.PIPE_OUT_USED, 16, 16⟩
def F.PIPE_QUEUE_DEPTH : Fld := ⟨R.PIPE_QUEUE, 0, 6⟩
def F.PIPE_QUEUE_PEAK : Fld := ⟨R.PIPE_QUEUE, 8, 6⟩
def F.PIPE_CNT_OUT_DROP : Fld := ⟨R.PIPE_CNT, 0, 16⟩
def F.PIPE_CNT_BLOCK_SKIP : Fld := ⟨R.PIPE_CNT, 16, 8⟩
def F.PIPE_CNT_OVERSIZE : Fld := ⟨R.PIPE_CNT, 24, 8⟩
def F.PIPE_STAT_CFG_ZX : Fld := ⟨R.PIPE_STAT_CFG, 0, 7⟩
def F.PIPE_STAT_CFG_ZY : Fld := ⟨R.PIPE_STAT_CFG, 8, 5⟩
def F.PIPE_STAT_CFG_HIST_EN : Fld := ⟨R.PIPE_STAT_CFG, 16, 8⟩
def F.PIPE_STAT_CFG_ZONE_EN : Fld := ⟨R.PIPE_STAT_CFG, 24, 8⟩
def F.PIPE_STAT_CNT_SEQ : Fld := ⟨R.PIPE_STAT_CNT, 0, 16⟩
def F.PIPE_STAT_CNT_DROP : Fld := ⟨R.PIPE_STAT_CNT, 16, 16⟩
def F.PIPE_TAP_MODE : Fld := ⟨R.PIPE_TAP, 0, 2⟩
def F.PIPE_TAP_VC : Fld := ⟨R.PIPE_TAP, 2, 5⟩
def F.PIPE_TAP_N : Fld := ⟨R.PIPE_TAP, 16, 16⟩
def F.PIPE_TAP_RULE_RULES : Fld := ⟨R.PIPE_TAP_RULE, 0, 16⟩
def F.BOB_PROV_TABLE_PROV : Fld := ⟨R.BOB_PROV_TABLE, 0, 32⟩
def F.BOB_SERIAL_NEXT : Fld := ⟨R.BOB_SERIAL, 0, 32⟩
def F.BOB_AGE_LIMIT_MS : Fld := ⟨R.BOB_AGE_LIMIT, 0, 16⟩
def F.BOB_UNTRACKED_PARTS : Fld := ⟨R.BOB_UNTRACKED, 0, 32⟩
def F.BOB_CNT_AGED : Fld := ⟨R.BOB_CNT, 0, 8⟩
def F.BOB_CNT_ARM_LATE : Fld := ⟨R.BOB_CNT, 8, 8⟩
def F.BOB_CNT_PROBE_HELD : Fld := ⟨R.BOB_CNT, 16, 8⟩
def F.BOB_IN_USE_PART : Fld := ⟨R.BOB_IN_USE, 0, 12⟩
def F.BOB_IN_USE_SAMPLE : Fld := ⟨R.BOB_IN_USE, 16, 9⟩
def F.BOB_RULE_CTRL_EN : Fld := ⟨R.BOB_RULE_CTRL, 0, 1⟩
def F.BOB_RULE_CTRL_SOURCE : Fld := ⟨R.BOB_RULE_CTRL, 1, 2⟩
def F.BOB_RULE_CTRL_ENC : Fld := ⟨R.BOB_RULE_CTRL, 3, 1⟩
def F.BOB_RULE_CTRL_LANE : Fld := ⟨R.BOB_RULE_CTRL, 4, 4⟩
def F.BOB_RULE_CTRL_PROV_CLASS : Fld := ⟨R.BOB_RULE_CTRL, 8, 4⟩
def F.BOB_RULE_CTRL_PARTITION : Fld := ⟨R.BOB_RULE_CTRL, 12, 3⟩
def F.BOB_RULE_CTRL_PORTS : Fld := ⟨R.BOB_RULE_CTRL, 15, 17⟩
def F.BOB_RULE_AUX_HOLD : Fld := ⟨R.BOB_RULE_AUX, 0, 24⟩
def F.BOB_RULE_AUX_RUN : Fld := ⟨R.BOB_RULE_AUX, 0, 8⟩
def F.BOB_RULE_AUX_GAP : Fld := ⟨R.BOB_RULE_AUX, 8, 16⟩
def F.BOB_LANE_CFG_MASK : Fld := ⟨R.BOB_LANE_CFG, 0, 8⟩
def F.BOB_LANE_CFG_UNIT : Fld := ⟨R.BOB_LANE_CFG, 8, 1⟩
def F.BOB_LANE_CFG_SET : Fld := ⟨R.BOB_LANE_CFG, 15, 1⟩
def F.BOB_LANE_CFG_WIDTH : Fld := ⟨R.BOB_LANE_CFG, 16, 16⟩
def F.BOB_LANE_OFFSET_OFFSET : Fld := ⟨R.BOB_LANE_OFFSET, 0, 24⟩
def F.BOB_LANE_ADVANCE_ADVANCE : Fld := ⟨R.BOB_LANE_ADVANCE, 0, 16⟩
def F.BOB_LANE_VALVE_FIRST : Fld := ⟨R.BOB_LANE_VALVE, 0, 8⟩
def F.BOB_LANE_VALVE_COUNT : Fld := ⟨R.BOB_LANE_VALVE, 8, 9⟩
def F.BOB_LANE_VALVE_PORT : Fld := ⟨R.BOB_LANE_VALVE, 17, 1⟩
def F.BOB_CLASS_MAP_MAP : Fld := ⟨R.BOB_CLASS_MAP, 0, 32⟩
def F.SAMPLE_CREDITS_LIMIT : Fld := ⟨R.SAMPLE_CREDITS, 0, 9⟩
def F.SAMPLE_CREDITS_AVAIL : Fld := ⟨R.SAMPLE_CREDITS, 16, 9⟩
def F.SAMPLE_DECODE_LIMIT_US : Fld := ⟨R.SAMPLE_DECODE_LIMIT, 0, 16⟩
def F.SAMPLE_MAX_PIXELS_MAX : Fld := ⟨R.SAMPLE_MAX_PIXELS, 0, 32⟩
def F.SAMPLE_FILL_FILL : Fld := ⟨R.SAMPLE_FILL, 0, 16⟩
def F.SAMPLE_BUF_BASE_BASE : Fld := ⟨R.SAMPLE_BUF_BASE, 0, 24⟩
def F.SAMPLE_BUF_SIZE_SIZE : Fld := ⟨R.SAMPLE_BUF_SIZE, 0, 20⟩
def F.SAMPLE_BATCH_WAIT_US : Fld := ⟨R.SAMPLE_BATCH_WAIT, 0, 16⟩
def F.SAMPLE_CNT_OVERFLOW : Fld := ⟨R.SAMPLE_CNT, 0, 8⟩
def F.SAMPLE_CNT_TIMEOUT : Fld := ⟨R.SAMPLE_CNT, 8, 8⟩
def F.SAMPLE_CNT_TRUNCATED : Fld := ⟨R.SAMPLE_CNT, 16, 8⟩
def F.SAMPLE_CNT_REJECT : Fld := ⟨R.SAMPLE_CNT, 24, 8⟩
def F.LOOM_ARRAY_CFG_SPLIT : Fld := ⟨R.LOOM_ARRAY_CFG, 0, 2⟩
def F.LOOM_ARRAY_CFG_AXIS : Fld := ⟨R.LOOM_ARRAY_CFG, 2, 1⟩
def F.LOOM_ARRAY_CFG_BUSY : Fld := ⟨R.LOOM_ARRAY_CFG, 4, 4⟩
def F.LOOM_ARRAY_CFG_BACK_FULL : Fld := ⟨R.LOOM_ARRAY_CFG, 8, 4⟩
def F.LOOM_ARRAY_CFG_TOKEN : Fld := ⟨R.LOOM_ARRAY_CFG, 12, 4⟩
def F.LOOM_ARRAY_GSTAT_STATUS : Fld := ⟨R.LOOM_ARRAY_GSTAT, 0, 8⟩
def F.LOOM_ARRAY_GSTAT_WPAR : Fld := ⟨R.LOOM_ARRAY_GSTAT, 8, 1⟩
def F.LOOM_ARRAY_GSTAT_POISON_IN : Fld := ⟨R.LOOM_ARRAY_GSTAT, 9, 1⟩
def F.LOOM_ARRAY_GSTAT_FLOAT : Fld := ⟨R.LOOM_ARRAY_GSTAT, 10, 1⟩
def F.LOOM_ARRAY_GSTAT_INT_OVF : Fld := ⟨R.LOOM_ARRAY_GSTAT, 11, 1⟩
def F.LOOM_ARRAY_GSTAT_TAG : Fld := ⟨R.LOOM_ARRAY_GSTAT, 16, 16⟩
def F.LOOM_ARRAY_ERR_WPAR : Fld := ⟨R.LOOM_ARRAY_ERR, 0, 8⟩
def F.LOOM_ARRAY_ERR_POISON_IN : Fld := ⟨R.LOOM_ARRAY_ERR, 8, 8⟩
def F.LOOM_ARRAY_ERR_FLOAT : Fld := ⟨R.LOOM_ARRAY_ERR, 16, 8⟩
def F.LOOM_ARRAY_ERR_INT_OVF : Fld := ⟨R.LOOM_ARRAY_ERR, 24, 8⟩
def F.LOOM_ARRAY_PASSES_PASSES : Fld := ⟨R.LOOM_ARRAY_PASSES, 0, 32⟩
def F.LOOM_ARRAY_SLOTS_LO_SLOTS : Fld := ⟨R.LOOM_ARRAY_SLOTS_LO, 0, 32⟩
def F.LOOM_ARRAY_SLOTS_HI_SLOTS : Fld := ⟨R.LOOM_ARRAY_SLOTS_HI, 0, 32⟩
def F.LOOM_ARRAY_USEFUL_LO_USEFUL : Fld := ⟨R.LOOM_ARRAY_USEFUL_LO, 0, 32⟩
def F.LOOM_ARRAY_USEFUL_HI_USEFUL : Fld := ⟨R.LOOM_ARRAY_USEFUL_HI, 0, 32⟩
def F.LOOM_VEC_CNT_NAN_CONV : Fld := ⟨R.LOOM_VEC_CNT, 0, 16⟩
def F.LOOM_CONV_STAT_STATUS : Fld := ⟨R.LOOM_CONV_STAT, 0, 8⟩
def F.LOOM_CONV_STAT_TAG : Fld := ⟨R.LOOM_CONV_STAT, 16, 16⟩
def F.LOOM_FETCH_STAT_STATUS : Fld := ⟨R.LOOM_FETCH_STAT, 0, 8⟩
def F.LOOM_FETCH_STAT_TAG : Fld := ⟨R.LOOM_FETCH_STAT, 16, 16⟩
def F.LOOM_FETCH_LINES_LINES : Fld := ⟨R.LOOM_FETCH_LINES, 0, 32⟩
def F.LOOM_FETCH_FILL_HOLE : Fld := ⟨R.LOOM_FETCH_FILL, 0, 16⟩
def F.LOOM_FETCH_FILL_BEYOND : Fld := ⟨R.LOOM_FETCH_FILL, 16, 16⟩
def F.MILL_STRIPE_Q_READY : Fld := ⟨R.MILL_STRIPE_Q, 0, 12⟩
def F.MILL_STRIPE_Q_PEAK : Fld := ⟨R.MILL_STRIPE_Q, 16, 12⟩
def F.MILL_STRIPE_CNT_REEXEC : Fld := ⟨R.MILL_STRIPE_CNT, 0, 16⟩
def F.MILL_STRIPE_CNT_WIDTH_ERR : Fld := ⟨R.MILL_STRIPE_CNT, 16, 8⟩
def F.MILL_STRIPE_CNT_CANCEL : Fld := ⟨R.MILL_STRIPE_CNT, 24, 8⟩
def F.SCHED_GUARD_US : Fld := ⟨R.SCHED_GUARD, 0, 16⟩
def F.SCHED_FILL_WAIT_US : Fld := ⟨R.SCHED_FILL_WAIT, 0, 16⟩
def F.SCHED_STEP_TIME_NS : Fld := ⟨R.SCHED_STEP_TIME, 0, 24⟩
def F.SCHED_BATCH_LAST_M : Fld := ⟨R.SCHED_BATCH, 0, 7⟩
def F.SCHED_BATCH_RUNNING : Fld := ⟨R.SCHED_BATCH, 7, 1⟩
def F.SCHED_BATCH_READY : Fld := ⟨R.SCHED_BATCH, 8, 12⟩
def F.SCHED_STEP_CNT_STEPS : Fld := ⟨R.SCHED_STEP_CNT, 0, 32⟩
def F.SCHED_START_CNT_FULL : Fld := ⟨R.SCHED_START_CNT, 0, 16⟩
def F.SCHED_START_CNT_LATEST : Fld := ⟨R.SCHED_START_CNT, 16, 16⟩
def F.SCHED_LAG_CNT_FILL_WAIT : Fld := ⟨R.SCHED_LAG_CNT, 0, 16⟩
def F.SCHED_LAG_CNT_OVERDUE : Fld := ⟨R.SCHED_LAG_CNT, 16, 16⟩
def F.SCHED_KV_BEAM_BASE_BASE : Fld := ⟨R.SCHED_KV_BEAM_BASE, 0, 24⟩
def F.SCHED_KV_BEAM_SIZE_PAGES : Fld := ⟨R.SCHED_KV_BEAM_SIZE, 0, 9⟩
def F.SCHED_KV_SPILL_BASE_BASE : Fld := ⟨R.SCHED_KV_SPILL_BASE, 0, 24⟩
def F.SCHED_KV_SPILL_SIZE_PAGES : Fld := ⟨R.SCHED_KV_SPILL_SIZE, 0, 20⟩
def F.SCHED_KV_USED_USED : Fld := ⟨R.SCHED_KV_USED, 0, 20⟩
def F.SCHED_KV_PEAK_PEAK : Fld := ⟨R.SCHED_KV_PEAK, 0, 20⟩
def F.SCHED_KV_WAIT_WAIT : Fld := ⟨R.SCHED_KV_WAIT, 0, 16⟩
def F.SCHED_ATTN_CFG_HEADS : Fld := ⟨R.SCHED_ATTN_CFG, 0, 5⟩
def F.SCHED_ATTN_CFG_HEAD_DIM : Fld := ⟨R.SCHED_ATTN_CFG, 8, 8⟩
def F.SCHED_ATTN_CFG_KV_FMT : Fld := ⟨R.SCHED_ATTN_CFG, 16, 1⟩
def F.SCHED_ATTN_CFG_R : Fld := ⟨R.SCHED_ATTN_CFG, 17, 7⟩
def F.SCHED_ATTN_CFG_BLOCKS : Fld := ⟨R.SCHED_ATTN_CFG, 24, 4⟩
def F.SCHED_ATTN_TOK_TMAX : Fld := ⟨R.SCHED_ATTN_TOK, 0, 11⟩
def F.SCHED_ATTN_TOK_PER_PAGE : Fld := ⟨R.SCHED_ATTN_TOK, 16, 11⟩
def F.SCHED_ATTN_CNT_TOKEN_ERR : Fld := ⟨R.SCHED_ATTN_CNT, 0, 16⟩
def F.SCHED_ATTN_CNT_EARLY : Fld := ⟨R.SCHED_ATTN_CNT, 16, 16⟩
def F.EARLY_THRESHOLD_CONF : Fld := ⟨R.EARLY_THRESHOLD, 0, 8⟩
def F.EARLY_RUN_RUN : Fld := ⟨R.EARLY_RUN, 0, 8⟩
def F.SCHED_STAGE_BASE_BASE : Fld := ⟨R.SCHED_STAGE_BASE, 0, 24⟩
def F.SCHED_STAGE_SIZE_SIZE : Fld := ⟨R.SCHED_STAGE_SIZE, 0, 20⟩
def F.SCHED_STAGE_NEED_NEED : Fld := ⟨R.SCHED_STAGE_NEED, 0, 20⟩
def F.SCHED_STAGE_USED_USED : Fld := ⟨R.SCHED_STAGE_USED, 0, 16⟩
def F.SCHED_STAGE_USED_WAIT : Fld := ⟨R.SCHED_STAGE_USED, 16, 16⟩
def F.QUANT_ALARM_FRACTION_FRAC : Fld := ⟨R.QUANT_ALARM_FRACTION, 0, 16⟩
def F.QUANT_SCALE_POLICY_POLICY : Fld := ⟨R.QUANT_SCALE_POLICY, 0, 2⟩
def F.QUANT_SCALE_POLICY_LOW_CONF : Fld := ⟨R.QUANT_SCALE_POLICY, 8, 8⟩
def F.QUANT_STAT_CTRL_STEP_EN : Fld := ⟨R.QUANT_STAT_CTRL, 0, 1⟩
def F.QUANT_STAT_CTRL_TASK_EN : Fld := ⟨R.QUANT_STAT_CTRL, 1, 1⟩
def F.QUANT_STAT_CTRL_ERR : Fld := ⟨R.QUANT_STAT_CTRL, 2, 1⟩
def F.QUANT_STAT_BASE_BASE : Fld := ⟨R.QUANT_STAT_BASE, 0, 24⟩
def F.QUANT_STAT_SIZE_SIZE : Fld := ⟨R.QUANT_STAT_SIZE, 0, 16⟩
def F.QUANT_STAT_WR_WR : Fld := ⟨R.QUANT_STAT_WR, 0, 27⟩
def F.QUANT_STAT_RD_RD : Fld := ⟨R.QUANT_STAT_RD, 0, 27⟩
def F.QUANT_STAT_CNT_ALARM : Fld := ⟨R.QUANT_STAT_CNT, 0, 16⟩
def F.QUANT_STAT_CNT_DROP : Fld := ⟨R.QUANT_STAT_CNT, 16, 8⟩
def F.QUANT_STAT_CNT_BAD_REC : Fld := ⟨R.QUANT_STAT_CNT, 24, 8⟩
def F.QUANT_CALIB_CTRL_EN : Fld := ⟨R.QUANT_CALIB_CTRL, 0, 1⟩
def F.QUANT_CALIB_CTRL_DONE : Fld := ⟨R.QUANT_CALIB_CTRL, 1, 1⟩
def F.QUANT_CALIB_CTRL_ERR : Fld := ⟨R.QUANT_CALIB_CTRL, 2, 1⟩
def F.QUANT_CALIB_BASE_BASE : Fld := ⟨R.QUANT_CALIB_BASE, 0, 24⟩
def F.QUANT_CALIB_SIZE_SIZE : Fld := ⟨R.QUANT_CALIB_SIZE, 0, 16⟩
def F.QUANT_CALIB_NEED_CHANNELS : Fld := ⟨R.QUANT_CALIB_NEED, 0, 24⟩
def F.QUANT_CALIB_CNT_FLAT : Fld := ⟨R.QUANT_CALIB_CNT, 0, 16⟩
def F.QUANT_CALIB_CNT_EMPTY : Fld := ⟨R.QUANT_CALIB_CNT, 16, 16⟩
def F.SCHED_LEARN_CTRL_OPT : Fld := ⟨R.SCHED_LEARN_CTRL, 0, 1⟩
def F.SCHED_LEARN_CTRL_SCALES : Fld := ⟨R.SCHED_LEARN_CTRL, 1, 1⟩
def F.SCHED_LEARN_CTRL_ENTRIES : Fld := ⟨R.SCHED_LEARN_CTRL, 2, 1⟩
def F.SCHED_LEARN_CTRL_ERR : Fld := ⟨R.SCHED_LEARN_CTRL, 3, 1⟩
def F.SCHED_LEARN_CTRL_DIVERGED : Fld := ⟨R.SCHED_LEARN_CTRL, 4, 1⟩
def F.SCHED_LEARN_CTRL_ACTIVE : Fld := ⟨R.SCHED_LEARN_CTRL, 5, 1⟩
def F.SCHED_LEARN_CTRL_BATCH : Fld := ⟨R.SCHED_LEARN_CTRL, 16, 9⟩
def F.SCHED_LEARN_RATE_LR : Fld := ⟨R.SCHED_LEARN_RATE, 0, 32⟩
def F.SCHED_LEARN_BETA1_BETA1 : Fld := ⟨R.SCHED_LEARN_BETA1, 0, 32⟩
def F.SCHED_LEARN_BETA2_BETA2 : Fld := ⟨R.SCHED_LEARN_BETA2, 0, 32⟩
def F.SCHED_LEARN_EPS_EPS : Fld := ⟨R.SCHED_LEARN_EPS, 0, 32⟩
def F.SCHED_LEARN_BASE_BASE : Fld := ⟨R.SCHED_LEARN_BASE, 0, 24⟩
def F.SCHED_LEARN_SIZE_SIZE : Fld := ⟨R.SCHED_LEARN_SIZE, 0, 16⟩
def F.SCHED_LEARN_NEED_NEED : Fld := ⟨R.SCHED_LEARN_NEED, 0, 16⟩
def F.SCHED_LEARN_OPT_TIME_NS : Fld := ⟨R.SCHED_LEARN_OPT_TIME, 0, 24⟩
def F.SCHED_LEARN_STEPS_STEPS : Fld := ⟨R.SCHED_LEARN_STEPS, 0, 32⟩
def F.SCHED_LEARN_LOSS_LOSS : Fld := ⟨R.SCHED_LEARN_LOSS, 0, 32⟩
def F.SCHED_LEARN_CNT_SKIP : Fld := ⟨R.SCHED_LEARN_CNT, 0, 16⟩
def F.SCHED_LEARN_CNT_DEFER : Fld := ⟨R.SCHED_LEARN_CNT, 16, 8⟩
def F.SCHED_LEARN_CNT_DIVERGE : Fld := ⟨R.SCHED_LEARN_CNT, 24, 8⟩
def F.SCHED_LEARN_COMMIT_MODEL : Fld := ⟨R.SCHED_LEARN_COMMIT, 0, 32⟩
def F.SCHED_MODEL_BASE_BASE : Fld := ⟨R.SCHED_MODEL_BASE, 0, 24⟩
def F.SCHED_MODEL_SIZE_SIZE : Fld := ⟨R.SCHED_MODEL_SIZE, 0, 20⟩
def F.SCHED_MODEL_CNT_REGISTERED : Fld := ⟨R.SCHED_MODEL_CNT, 0, 11⟩
def F.SCHED_MODEL_CNT_RESIDENT : Fld := ⟨R.SCHED_MODEL_CNT, 16, 7⟩
def F.SCHED_MODEL_CNT_PINNED : Fld := ⟨R.SCHED_MODEL_CNT, 24, 7⟩
def F.SCHED_CACHE_CNT_USED : Fld := ⟨R.SCHED_CACHE_CNT, 0, 9⟩
def F.SCHED_CACHE_CNT_LOADS : Fld := ⟨R.SCHED_CACHE_CNT, 16, 8⟩
def F.SCHED_CACHE_CNT_EVICTIONS : Fld := ⟨R.SCHED_CACHE_CNT, 24, 8⟩
def F.SCHED_SLOT_INDEX : Fld := ⟨R.SCHED_SLOT, 0, 10⟩
def F.SCHED_SLOT_VALID : Fld := ⟨R.SCHED_SLOT, 12, 1⟩
def F.SCHED_SLOT_PINNED : Fld := ⟨R.SCHED_SLOT, 13, 1⟩
def F.SCHED_SLOT_IN_USE : Fld := ⟨R.SCHED_SLOT, 14, 1⟩
def F.SCHED_SLOT_UNITS : Fld := ⟨R.SCHED_SLOT, 16, 9⟩
def F.SCHED_PART_LO_MASK : Fld := ⟨R.SCHED_PART_LO, 0, 32⟩
def F.SCHED_PART_HI_MASK : Fld := ⟨R.SCHED_PART_HI, 0, 32⟩
def F.SCHED_JOB_STATE : Fld := ⟨R.SCHED_JOB, 0, 3⟩
def F.SCHED_JOB_LEARN : Fld := ⟨R.SCHED_JOB, 3, 1⟩
def F.SCHED_JOB_IMMEDIATE : Fld := ⟨R.SCHED_JOB, 4, 1⟩
def F.SCHED_JOB_LAST : Fld := ⟨R.SCHED_JOB, 8, 8⟩
def F.SCHED_JOB_BORROWED : Fld := ⟨R.SCHED_JOB, 16, 7⟩
def F.SCHED_JOB_SIZE_ACTIVE : Fld := ⟨R.SCHED_JOB_SIZE, 0, 7⟩
def F.SCHED_JOB_SIZE_SIZE : Fld := ⟨R.SCHED_JOB_SIZE, 8, 7⟩
def F.SCHED_JOB_SIZE_NOMINAL : Fld := ⟨R.SCHED_JOB_SIZE, 16, 7⟩
def F.SCHED_JOB_SIZE_FLOOR : Fld := ⟨R.SCHED_JOB_SIZE, 24, 7⟩
def F.SCHED_JOB_MODEL_ID : Fld := ⟨R.SCHED_JOB_MODEL, 0, 32⟩
def F.SCHED_STEM_TIME_NS : Fld := ⟨R.SCHED_STEM_TIME, 0, 24⟩
def F.SCHED_SAVE_BASE_BASE : Fld := ⟨R.SCHED_SAVE_BASE, 0, 24⟩
def F.SCHED_SAVE_SIZE_SIZE : Fld := ⟨R.SCHED_SAVE_SIZE, 0, 16⟩
def F.SCHED_REMOTE_BASE_BASE : Fld := ⟨R.SCHED_REMOTE_BASE, 0, 24⟩
def F.SCHED_JOB_CNT_PREEMPT : Fld := ⟨R.SCHED_JOB_CNT, 0, 16⟩
def F.SCHED_JOB_CNT_WITHDRAWN : Fld := ⟨R.SCHED_JOB_CNT, 16, 16⟩
def F.LOOM_QDEPTH_LS_LOAD : Fld := ⟨R.LOOM_QDEPTH_LS, 0, 10⟩
def F.LOOM_QDEPTH_LS_STREAM : Fld := ⟨R.LOOM_QDEPTH_LS, 16, 10⟩
def F.LOOM_QDEPTH_CS_COMPUTE : Fld := ⟨R.LOOM_QDEPTH_CS, 0, 10⟩
def F.LOOM_QDEPTH_CS_STORE : Fld := ⟨R.LOOM_QDEPTH_CS, 16, 10⟩
def F.LOOM_SHUTTLE_IN_USE : Fld := ⟨R.LOOM_SHUTTLE, 0, 12⟩
def F.LOOM_SHUTTLE_PEAK : Fld := ⟨R.LOOM_SHUTTLE, 16, 12⟩
def F.LOOM_CMD_HELD : Fld := ⟨R.LOOM_CMD, 0, 2⟩
def F.LOOM_CMD_KIND : Fld := ⟨R.LOOM_CMD, 4, 2⟩
def F.LOOM_CMD_PARTITION : Fld := ⟨R.LOOM_CMD, 8, 3⟩
def F.LOOM_CMD_ASSIGNED : Fld := ⟨R.LOOM_CMD, 11, 1⟩
def F.LOOM_CMD_ENDED : Fld := ⟨R.LOOM_CMD, 16, 16⟩
def F.LOOM_ENG_STAT_STATUS : Fld := ⟨R.LOOM_ENG_STAT, 0, 8⟩
def F.LOOM_ENG_STAT_ENGINE : Fld := ⟨R.LOOM_ENG_STAT, 8, 2⟩
def F.LOOM_ENG_STAT_TAG : Fld := ⟨R.LOOM_ENG_STAT, 16, 16⟩
def F.LOOM_REMOTE_OUTSTANDING : Fld := ⟨R.LOOM_REMOTE, 0, 3⟩
def F.LOOM_REMOTE_PARKED : Fld := ⟨R.LOOM_REMOTE, 4, 3⟩
def F.LINK_REMOTE_TMO_US : Fld := ⟨R.LINK_REMOTE_TMO, 0, 16⟩
def F.LINK_REMOTE_CNT_TIMEOUT : Fld := ⟨R.LINK_REMOTE_CNT, 0, 8⟩
def F.LINK_REMOTE_CNT_LINK_DOWN : Fld := ⟨R.LINK_REMOTE_CNT, 8, 8⟩
def F.LINK_REMOTE_CNT_PARKED : Fld := ⟨R.LINK_REMOTE_CNT, 16, 8⟩
def F.LINK_REMOTE_CNT_LATE_REMOTE : Fld := ⟨R.LINK_REMOTE_CNT, 24, 8⟩
def F.DET_ARITH_PROFILE_PROFILE : Fld := ⟨R.DET_ARITH_PROFILE, 0, 8⟩
def F.DET_ARITH_PROFILE_LOCK : Fld := ⟨R.DET_ARITH_PROFILE, 8, 1⟩
def F.DET_ARITH_PROFILE_STEPPING : Fld := ⟨R.DET_ARITH_PROFILE, 16, 8⟩
def F.DET_CTRL_CLEAR : Fld := ⟨R.DET_CTRL, 0, 1⟩
def F.DET_TDC_COUNT : Fld := ⟨R.DET_TDC, 0, 32⟩
def F.DET_TDC_CAUSE0_LATE_CLOSE : Fld := ⟨R.DET_TDC_CAUSE0, 0, 8⟩
def F.DET_TDC_CAUSE0_ARM_LATE : Fld := ⟨R.DET_TDC_CAUSE0, 8, 8⟩
def F.DET_TDC_CAUSE0_SAMPLE_TIMEOUT : Fld := ⟨R.DET_TDC_CAUSE0, 16, 8⟩
def F.DET_TDC_CAUSE0_SAMPLE_OVERFLOW : Fld := ⟨R.DET_TDC_CAUSE0, 24, 8⟩
def F.DET_TDC_CAUSE1_LINE_DROP : Fld := ⟨R.DET_TDC_CAUSE1, 0, 8⟩
def F.DET_TDC_CAUSE1_PIPE_DROP : Fld := ⟨R.DET_TDC_CAUSE1, 8, 8⟩
def F.DET_TDC_CAUSE1_FAST_REDUCE : Fld := ⟨R.DET_TDC_CAUSE1, 16, 8⟩
def F.DET_TDC_FIRST_NS_NS : Fld := ⟨R.DET_TDC_FIRST_NS, 0, 32⟩
def F.DET_TDC_FIRST_S_LO_S : Fld := ⟨R.DET_TDC_FIRST_S_LO, 0, 32⟩
def F.DET_TDC_FIRST_S_HI_S : Fld := ⟨R.DET_TDC_FIRST_S_HI, 0, 16⟩
def F.DET_TDC_FIRST_S_HI_CAUSE : Fld := ⟨R.DET_TDC_FIRST_S_HI, 16, 8⟩
def F.MEM_DDR_CFG_CHANNELS : Fld := ⟨R.MEM_DDR_CFG, 0, 2⟩
def F.MEM_DDR_CFG_DENSITY : Fld := ⟨R.MEM_DDR_CFG, 2, 1⟩
def F.MEM_DDR_CFG_RATE : Fld := ⟨R.MEM_DDR_CFG, 3, 2⟩
def F.MEM_DDR_CFG_CAPACITY : Fld := ⟨R.MEM_DDR_CFG, 8, 8⟩
def F.MEM_DDR_CFG_TRAINED : Fld := ⟨R.MEM_DDR_CFG, 16, 1⟩
def F.MEM_WIPE_STAT_SRAM_DONE : Fld := ⟨R.MEM_WIPE_STAT, 0, 1⟩
def F.MEM_WIPE_STAT_DDR_RUN : Fld := ⟨R.MEM_WIPE_STAT, 1, 1⟩
def F.MEM_WIPE_STAT_DDR_DONE : Fld := ⟨R.MEM_WIPE_STAT, 2, 1⟩
def F.MEM_WIPE_STAT_LC : Fld := ⟨R.MEM_WIPE_STAT, 3, 1⟩
def F.MEM_WIPE_MARK_MARK : Fld := ⟨R.MEM_WIPE_MARK, 0, 20⟩
def F.MEM_SRAM_CNT_CORR : Fld := ⟨R.MEM_SRAM_CNT, 0, 16⟩
def F.MEM_SRAM_CNT_UE : Fld := ⟨R.MEM_SRAM_CNT, 16, 8⟩
def F.MEM_DDR_CNT_CORR : Fld := ⟨R.MEM_DDR_CNT, 0, 16⟩
def F.MEM_DDR_CNT_UE : Fld := ⟨R.MEM_DDR_CNT, 16, 8⟩
def F.MEM_DDR_DEV_CHANNEL : Fld := ⟨R.MEM_DDR_DEV, 0, 3⟩
def F.MEM_DDR_DEV_SUBCH : Fld := ⟨R.MEM_DDR_DEV, 3, 1⟩
def F.MEM_DDR_DEV_DEVICE : Fld := ⟨R.MEM_DDR_DEV, 4, 4⟩
def F.MEM_UE_ADDR_LO_ADDR : Fld := ⟨R.MEM_UE_ADDR_LO, 0, 32⟩
def F.MEM_UE_ADDR_HI_ADDR : Fld := ⟨R.MEM_UE_ADDR_HI, 0, 32⟩
def F.MEM_TMR_CNT_REWRITE : Fld := ⟨R.MEM_TMR_CNT, 0, 16⟩
def F.MEM_TMR_STAT_SPLIT : Fld := ⟨R.MEM_TMR_STAT, 0, 1⟩
def F.MEM_TMR_STAT_INDEX : Fld := ⟨R.MEM_TMR_STAT, 8, 6⟩
def F.MEM_POISON_CNT_VERDICT : Fld := ⟨R.MEM_POISON_CNT, 0, 8⟩
def F.MEM_POISON_CNT_HOST_READ : Fld := ⟨R.MEM_POISON_CNT, 8, 8⟩
def F.MEM_POISON_CNT_TX : Fld := ⟨R.MEM_POISON_CNT, 16, 8⟩
def F.MEM_POISON_CNT_RELOAD : Fld := ⟨R.MEM_POISON_CNT, 24, 8⟩
def F.SCRUB_RATE_MBPS : Fld := ⟨R.SCRUB_RATE, 0, 12⟩
def F.SCRUB_DEBT_MAX_MAX : Fld := ⟨R.SCRUB_DEBT_MAX, 0, 8⟩
def F.SCRUB_SRAM_PERIOD_S : Fld := ⟨R.SCRUB_SRAM_PERIOD, 0, 16⟩
def F.SCRUB_PASS_DDR : Fld := ⟨R.SCRUB_PASS, 0, 16⟩
def F.SCRUB_PASS_SRAM : Fld := ⟨R.SCRUB_PASS, 16, 16⟩
def F.SCRUB_POS_POS : Fld := ⟨R.SCRUB_POS, 0, 20⟩
def F.SCRUB_CNT_CORR : Fld := ⟨R.SCRUB_CNT, 0, 16⟩
def F.SCRUB_CNT_UE : Fld := ⟨R.SCRUB_CNT, 16, 8⟩
def F.SCRUB_CNT_FORCED : Fld := ⟨R.SCRUB_CNT, 24, 8⟩
def F.FIELD_LINK_STAT_UP : Fld := ⟨R.FIELD_LINK_STAT, 0, 1⟩
def F.FIELD_LINK_STAT_SAFE : Fld := ⟨R.FIELD_LINK_STAT, 1, 1⟩
def F.FIELD_LINK_STAT_RUN : Fld := ⟨R.FIELD_LINK_STAT, 2, 1⟩
def F.FIELD_LINK_STAT_COUNT_VALID : Fld := ⟨R.FIELD_LINK_STAT, 3, 1⟩
def F.FIELD_LINK_STAT_PENDING : Fld := ⟨R.FIELD_LINK_STAT, 4, 1⟩
def F.FIELD_LINK_STAT_POWERUP : Fld := ⟨R.FIELD_LINK_STAT, 5, 1⟩
def F.FIELD_LINK_STAT_SAFE_CAUSE : Fld := ⟨R.FIELD_LINK_STAT, 8, 3⟩
def F.FIELD_LINK_CNT_CRC_ERR : Fld := ⟨R.FIELD_LINK_CNT, 0, 8⟩
def F.FIELD_LINK_CNT_SAFE : Fld := ⟨R.FIELD_LINK_CNT, 8, 8⟩
def F.FIELD_LINK_CNT_RESEND : Fld := ⟨R.FIELD_LINK_CNT, 16, 8⟩
def F.FIELD_LINK_CNT_SYNC_ERR : Fld := ⟨R.FIELD_LINK_CNT, 24, 8⟩
def F.FIELD_EJECT_LEAD_LEAD : Fld := ⟨R.FIELD_EJECT_LEAD, 0, 16⟩
def F.FIELD_AMEND_LATE_LATE : Fld := ⟨R.FIELD_AMEND_LATE, 0, 16⟩
def F.FIELD_AMEND_LATE_NOT_ARMED : Fld := ⟨R.FIELD_AMEND_LATE, 16, 16⟩
def F.FIELD_TABLE_USED : Fld := ⟨R.FIELD_TABLE, 0, 9⟩
def F.FIELD_TABLE_PEAK : Fld := ⟨R.FIELD_TABLE, 16, 9⟩
def F.FIELD_EJECT_CNT_MISSED : Fld := ⟨R.FIELD_EJECT_CNT, 0, 8⟩
def F.FIELD_EJECT_CNT_DISCARD : Fld := ⟨R.FIELD_EJECT_CNT, 8, 8⟩
def F.FIELD_EJECT_CNT_PULSE_CUT : Fld := ⟨R.FIELD_EJECT_CNT, 16, 8⟩
def F.FIELD_EJECT_CNT_TABLE_CORR : Fld := ⟨R.FIELD_EJECT_CNT, 24, 8⟩
def F.FIELD_PULSE_MAX_MS : Fld := ⟨R.FIELD_PULSE_MAX, 0, 16⟩
def F.FIELD_ENTRY_TMO_S : Fld := ⟨R.FIELD_ENTRY_TMO, 0, 16⟩
def F.FIELD_STOP_REQ : Fld := ⟨R.FIELD_STOP, 0, 1⟩
def F.FIELD_STOP_CLEAR_PENDING : Fld := ⟨R.FIELD_STOP, 1, 1⟩
def F.FIELD_STOP_SETS : Fld := ⟨R.FIELD_STOP, 16, 8⟩
def F.FIELD_SAFE_VALUES_VALUES : Fld := ⟨R.FIELD_SAFE_VALUES, 0, 8⟩
def F.FIELD_FO_STAT_LEVEL : Fld := ⟨R.FIELD_FO_STAT, 0, 8⟩
def F.FIELD_FO_STAT_FAULT : Fld := ⟨R.FIELD_FO_STAT, 8, 8⟩
def F.FIELD_FO_STAT_FAULT_CNT : Fld := ⟨R.FIELD_FO_STAT, 16, 8⟩
def F.FIELD_FI_STATE_STATE : Fld := ⟨R.FIELD_FI_STATE, 0, 16⟩
def F.FIELD_FO_TRIG_PERIOD_PERIOD : Fld := ⟨R.FIELD_FO_TRIG_PERIOD, 0, 24⟩
def F.FIELD_FO_TRIG_PERIOD_ENC : Fld := ⟨R.FIELD_FO_TRIG_PERIOD, 24, 1⟩
def F.FIELD_FO_TRIG_WIDTH_WIDTH : Fld := ⟨R.FIELD_FO_TRIG_WIDTH, 0, 16⟩
def F.FIELD_FI_CFG_DEBOUNCE : Fld := ⟨R.FIELD_FI_CFG, 0, 16⟩
def F.FIELD_FI_CFG_TYPE3 : Fld := ⟨R.FIELD_FI_CFG, 16, 1⟩
def F.FIELD_FI_CFG_LOST : Fld := ⟨R.FIELD_FI_CFG, 24, 8⟩
def F.FIELD_ENC_CFG_MODE : Fld := ⟨R.FIELD_ENC_CFG, 0, 2⟩
def F.FIELD_ENC_CFG_INVERT : Fld := ⟨R.FIELD_ENC_CFG, 2, 1⟩
def F.FIELD_ENC_CFG_HTL : Fld := ⟨R.FIELD_ENC_CFG, 3, 1⟩
def F.FIELD_ENC_CFG_FILTER : Fld := ⟨R.FIELD_ENC_CFG, 4, 3⟩
def F.FIELD_ENC_CFG_SSI_BITS : Fld := ⟨R.FIELD_ENC_CFG, 8, 6⟩
def F.FIELD_ENC_CFG_GRAY : Fld := ⟨R.FIELD_ENC_CFG, 14, 1⟩
def F.FIELD_ENC_CFG_SSI_KHZ : Fld := ⟨R.FIELD_ENC_CFG, 16, 11⟩
def F.FIELD_ENC_COUNT_LO_COUNT : Fld := ⟨R.FIELD_ENC_COUNT_LO, 0, 32⟩
def F.FIELD_ENC_COUNT_HI_COUNT : Fld := ⟨R.FIELD_ENC_COUNT_HI, 0, 32⟩
def F.FIELD_ENC_INDEX_LO_INDEX : Fld := ⟨R.FIELD_ENC_INDEX_LO, 0, 32⟩
def F.FIELD_ENC_INDEX_HI_INDEX : Fld := ⟨R.FIELD_ENC_INDEX_HI, 0, 32⟩
def F.FIELD_ENC_SPEED_SPEED : Fld := ⟨R.FIELD_ENC_SPEED, 0, 32⟩
def F.FIELD_ENC_ZCHECK_PITCH : Fld := ⟨R.FIELD_ENC_ZCHECK, 0, 24⟩
def F.FIELD_ENC_ZCHECK_TOL : Fld := ⟨R.FIELD_ENC_ZCHECK, 24, 8⟩
def F.FIELD_ENC_ERR_ILLEGAL : Fld := ⟨R.FIELD_ENC_ERR, 0, 8⟩
def F.FIELD_ENC_ERR_Z_DRIFT : Fld := ⟨R.FIELD_ENC_ERR, 8, 8⟩
def F.FIELD_ENC_ERR_SSI : Fld := ⟨R.FIELD_ENC_ERR, 16, 8⟩
def F.FIELD_ENC_ERR_LINE_FAULT : Fld := ⟨R.FIELD_ENC_ERR, 24, 1⟩
def F.TK_TIME_NS_NS : Fld := ⟨R.TK_TIME_NS, 0, 32⟩
def F.TK_TIME_S_LO_S : Fld := ⟨R.TK_TIME_S_LO, 0, 32⟩
def F.TK_TIME_S_HI_S_HI : Fld := ⟨R.TK_TIME_S_HI, 0, 16⟩
def F.TK_TIME_S_HI_FRAC : Fld := ⟨R.TK_TIME_S_HI, 16, 16⟩
def F.TK_STAT_SEL : Fld := ⟨R.TK_STAT, 0, 1⟩
def F.TK_STAT_FOLLOWING : Fld := ⟨R.TK_STAT, 1, 1⟩
def F.TK_STAT_SEALED : Fld := ⟨R.TK_STAT, 2, 1⟩
def F.TK_STAT_SLEWING : Fld := ⟨R.TK_STAT, 3, 1⟩
def F.TK_STAT_DOM0_LOCK : Fld := ⟨R.TK_STAT, 4, 1⟩
def F.TK_STAT_DOM1_LOCK : Fld := ⟨R.TK_STAT, 5, 1⟩
def F.TK_HOLDOVER_ACTIVE : Fld := ⟨R.TK_HOLDOVER, 0, 1⟩
def F.TK_HOLDOVER_MS : Fld := ⟨R.TK_HOLDOVER, 16, 16⟩
def F.TK_CTRL_AUTO : Fld := ⟨R.TK_CTRL, 0, 1⟩
def F.TK_CTRL_SLEW : Fld := ⟨R.TK_CTRL, 8, 8⟩
def F.TK_CTRL_LOCK_NS : Fld := ⟨R.TK_CTRL, 16, 16⟩
def F.TK_RATE_LO_RATE : Fld := ⟨R.TK_RATE_LO, 0, 32⟩
def F.TK_RATE_HI_RATE : Fld := ⟨R.TK_RATE_HI, 0, 32⟩
def F.TK_STEP_LO_STEP : Fld := ⟨R.TK_STEP_LO, 0, 32⟩
def F.TK_STEP_HI_STEP : Fld := ⟨R.TK_STEP_HI, 0, 32⟩
def F.TK_VEL_VEL : Fld := ⟨R.TK_VEL, 0, 32⟩
def F.TK_DOM_OFFSET_OFFSET : Fld := ⟨R.TK_DOM_OFFSET, 0, 32⟩
def F.TK_DOM_RATE_RATE : Fld := ⟨R.TK_DOM_RATE, 0, 32⟩
def F.TK_DOM_STAT_EN : Fld := ⟨R.TK_DOM_STAT, 0, 1⟩
def F.TK_DOM_STAT_LOCKED : Fld := ⟨R.TK_DOM_STAT, 1, 1⟩
def F.TK_DOM_STAT_LOST : Fld := ⟨R.TK_DOM_STAT, 2, 1⟩
def F.TK_DOM_STAT_PORT : Fld := ⟨R.TK_DOM_STAT, 3, 1⟩
def F.TK_DOM_STAT_STEP_MODE : Fld := ⟨R.TK_DOM_STAT, 4, 1⟩
def F.TK_DOM_STAT_P2P : Fld := ⟨R.TK_DOM_STAT, 5, 1⟩
def F.TK_DOM_STAT_ONE_STEP_RESP : Fld := ⟨R.TK_DOM_STAT, 6, 1⟩
def F.TK_DOM_STAT_DOMAIN : Fld := ⟨R.TK_DOM_STAT, 8, 8⟩
def F.PTP_CNT_ANNOUNCE_TMO : Fld := ⟨R.PTP_CNT, 0, 8⟩
def F.PTP_CNT_GM_CHANGE : Fld := ⟨R.PTP_CNT, 8, 8⟩
def F.PTP_CNT_BAD_MSG : Fld := ⟨R.PTP_CNT, 16, 8⟩
def F.PTP_CNT_LOCK_LOSS : Fld := ⟨R.PTP_CNT, 24, 8⟩
def F.TK_CMP_NS_NS : Fld := ⟨R.TK_CMP_NS, 0, 32⟩
def F.TK_CMP_S_LO_S : Fld := ⟨R.TK_CMP_S_LO, 0, 32⟩
def F.TK_CMP_S_HI_S_HI : Fld := ⟨R.TK_CMP_S_HI, 0, 16⟩
def F.TK_CMP_S_HI_ARMED : Fld := ⟨R.TK_CMP_S_HI, 16, 1⟩
def F.ETH_CFG_SPEED : Fld := ⟨R.ETH_CFG, 0, 2⟩
def F.ETH_STAT_LINK_UP : Fld := ⟨R.ETH_STAT, 0, 1⟩
def F.ETH_STAT_LAUNCH_EN : Fld := ⟨R.ETH_STAT, 1, 1⟩
def F.ETH_STAT_UNIT : Fld := ⟨R.ETH_STAT, 2, 5⟩
def F.ETH_STAT_QUEUED : Fld := ⟨R.ETH_STAT, 8, 7⟩
def F.ETH_ASYM_RX_PS : Fld := ⟨R.ETH_ASYM_RX, 0, 32⟩
def F.ETH_ASYM_TX_PS : Fld := ⟨R.ETH_ASYM_TX, 0, 32⟩
def F.ETH_LATE_POLICY_DROP : Fld := ⟨R.ETH_LATE_POLICY, 0, 1⟩
def F.ETH_MAC_LO_MAC : Fld := ⟨R.ETH_MAC_LO, 0, 32⟩
def F.ETH_MAC_HI_MAC : Fld := ⟨R.ETH_MAC_HI, 0, 32⟩
def F.ETH_DST_LO_DST : Fld := ⟨R.ETH_DST_LO, 0, 32⟩
def F.ETH_DST_HI_DST : Fld := ⟨R.ETH_DST_HI, 0, 32⟩
def F.ETH_ETYPE_ETYPE : Fld := ⟨R.ETH_ETYPE, 0, 16⟩
def F.ETH_TXTS_STAT_DEPTH : Fld := ⟨R.ETH_TXTS_STAT, 0, 5⟩
def F.ETH_TXTS_STAT_OVF : Fld := ⟨R.ETH_TXTS_STAT, 8, 1⟩
def F.ETH_TXTS_STAT_DROP : Fld := ⟨R.ETH_TXTS_STAT, 16, 8⟩
def F.ETH_TXTS_ID_ID : Fld := ⟨R.ETH_TXTS_ID, 0, 16⟩
def F.ETH_TXTS_ID_VALID : Fld := ⟨R.ETH_TXTS_ID, 16, 1⟩
def F.ETH_TXTS_ID_LATE : Fld := ⟨R.ETH_TXTS_ID, 17, 1⟩
def F.ETH_TXTS_NS_NS : Fld := ⟨R.ETH_TXTS_NS, 0, 32⟩
def F.ETH_TXTS_S_LO_S : Fld := ⟨R.ETH_TXTS_S_LO, 0, 32⟩
def F.ETH_TXTS_S_HI_S_HI : Fld := ⟨R.ETH_TXTS_S_HI, 0, 16⟩
def F.ETH_TXTS_S_HI_FRAC : Fld := ⟨R.ETH_TXTS_S_HI, 16, 16⟩
def F.ETH_CNT_RX_DISCARD : Fld := ⟨R.ETH_CNT, 0, 8⟩
def F.ETH_CNT_RX_FCS : Fld := ⟨R.ETH_CNT, 8, 8⟩
def F.ETH_CNT_LINK_DOWN : Fld := ⟨R.ETH_CNT, 16, 8⟩
def F.ETH_LAUNCH_CNT_LATE_SENT : Fld := ⟨R.ETH_LAUNCH_CNT, 0, 8⟩
def F.ETH_LAUNCH_CNT_LATE_DROP : Fld := ⟨R.ETH_LAUNCH_CNT, 8, 8⟩
def F.ETH_LAUNCH_CNT_QFULL : Fld := ⟨R.ETH_LAUNCH_CNT, 16, 8⟩
def F.ETH_LAUNCH_CNT_NO_LAUNCH : Fld := ⟨R.ETH_LAUNCH_CNT, 24, 8⟩
def F.LINK_CFG_RATE : Fld := ⟨R.LINK_CFG, 0, 2⟩
def F.LINK_CFG_LANES : Fld := ⟨R.LINK_CFG, 4, 2⟩
def F.LINK_CFG_FALLBACK : Fld := ⟨R.LINK_CFG, 8, 1⟩
def F.LINK_STAT_UP : Fld := ⟨R.LINK_STAT, 0, 1⟩
def F.LINK_STAT_FB_ACTIVE : Fld := ⟨R.LINK_STAT, 1, 1⟩
def F.LINK_STAT_FB_REFUSED : Fld := ⟨R.LINK_STAT, 2, 1⟩
def F.LINK_STAT_CFG_MISMATCH : Fld := ⟨R.LINK_STAT, 3, 1⟩
def F.LINK_STAT_PARTNER_FW : Fld := ⟨R.LINK_STAT, 4, 1⟩
def F.LINK_STAT_ALIGNED : Fld := ⟨R.LINK_STAT, 8, 8⟩
def F.LINK_STAT_SESSION : Fld := ⟨R.LINK_STAT, 16, 4⟩
def F.LINK_CNT_CODE_ERR : Fld := ⟨R.LINK_CNT, 0, 8⟩
def F.LINK_CNT_CRC_ERR : Fld := ⟨R.LINK_CNT, 8, 8⟩
def F.LINK_CNT_RETRANS : Fld := ⟨R.LINK_CNT, 16, 8⟩
def F.LINK_CNT_DOWN : Fld := ⟨R.LINK_CNT, 24, 8⟩
def F.LINK_POISON_TX : Fld := ⟨R.LINK_POISON, 0, 16⟩
def F.LINK_POISON_RX : Fld := ⟨R.LINK_POISON, 16, 16⟩
def F.TWIN_CTRL_ROLE : Fld := ⟨R.TWIN_CTRL, 0, 2⟩
def F.TWIN_CTRL_HOT : Fld := ⟨R.TWIN_CTRL, 2, 1⟩
def F.TWIN_CTRL_POLICY : Fld := ⟨R.TWIN_CTRL, 4, 2⟩
def F.TWIN_STAT_PARTNER_ROLE : Fld := ⟨R.TWIN_STAT, 0, 2⟩
def F.TWIN_STAT_SYNCED : Fld := ⟨R.TWIN_STAT, 2, 1⟩
def F.TWIN_STAT_OFFSET_VALID0 : Fld := ⟨R.TWIN_STAT, 3, 1⟩
def F.TWIN_STAT_OFFSET_VALID1 : Fld := ⟨R.TWIN_STAT, 4, 1⟩
def F.TWIN_STAT_PARTNER_LOST : Fld := ⟨R.TWIN_STAT, 5, 1⟩
def F.TWIN_STAT_DUAL_ACTIVE : Fld := ⟨R.TWIN_STAT, 6, 1⟩
def F.TWIN_STAT_TAKEN_OVER : Fld := ⟨R.TWIN_STAT, 7, 1⟩
def F.TWIN_STAT_MODEL_DIFF : Fld := ⟨R.TWIN_STAT, 8, 1⟩
def F.TWIN_STAT_DRAINING : Fld := ⟨R.TWIN_STAT, 9, 1⟩
def F.TWIN_TAKEOVER_TMO_US : Fld := ⟨R.TWIN_TAKEOVER_TMO, 0, 16⟩
def F.TWIN_XCHECK_WAIT_US : Fld := ⟨R.TWIN_XCHECK_WAIT, 0, 16⟩
def F.TWIN_OFFSET_LO_OFFSET : Fld := ⟨R.TWIN_OFFSET_LO, 0, 32⟩
def F.TWIN_OFFSET_HI_OFFSET : Fld := ⟨R.TWIN_OFFSET_HI, 0, 32⟩
def F.TWIN_CNT_MISMATCH : Fld := ⟨R.TWIN_CNT, 0, 8⟩
def F.TWIN_CNT_XCHECK_MISS : Fld := ⟨R.TWIN_CNT, 8, 8⟩
def F.TWIN_CNT_FINAL_DIFF : Fld := ⟨R.TWIN_CNT, 16, 4⟩
def F.TWIN_CNT_OFFSET_ERR : Fld := ⟨R.TWIN_CNT, 20, 4⟩
def F.TWIN_CNT_NO_OFFSET : Fld := ⟨R.TWIN_CNT, 24, 4⟩
def F.TWIN_CNT_COMMIT_FAIL : Fld := ⟨R.TWIN_CNT, 28, 4⟩
def F.TWIN_HB_AGE : Fld := ⟨R.TWIN_HB, 0, 16⟩
def F.TWIN_HB_LATENCY : Fld := ⟨R.TWIN_HB, 16, 16⟩
def F.TWIN_REMOTE_BASE_BASE : Fld := ⟨R.TWIN_REMOTE_BASE, 0, 24⟩
def F.TWIN_REMOTE_SIZE_SIZE : Fld := ⟨R.TWIN_REMOTE_SIZE, 0, 20⟩
def F.TWIN_PEER_TDC_COUNT : Fld := ⟨R.TWIN_PEER_TDC, 0, 32⟩
def F.TWIN_EVENT_CNT_TAKEOVER : Fld := ⟨R.TWIN_EVENT_CNT, 0, 8⟩
def F.TWIN_EVENT_CNT_HANDOVER : Fld := ⟨R.TWIN_EVENT_CNT, 8, 8⟩
def F.FIELD_TWIN_GATE_CLOSED : Fld := ⟨R.FIELD_TWIN_GATE, 0, 1⟩
def F.FIELD_TWIN_GATE_HELD : Fld := ⟨R.FIELD_TWIN_GATE, 16, 8⟩
def F.SEC_BOOT_LOADING : Fld := ⟨R.SEC_BOOT, 0, 1⟩
def F.SEC_BOOT_VIA_MBX : Fld := ⟨R.SEC_BOOT, 1, 1⟩
def F.SEC_BOOT_VERIFIED : Fld := ⟨R.SEC_BOOT, 2, 1⟩
def F.SEC_BOOT_FAIL : Fld := ⟨R.SEC_BOOT, 8, 8⟩
def F.SEC_FW_VERSION_VERSION : Fld := ⟨R.SEC_FW_VERSION, 0, 32⟩
def F.SEC_RESET_CAUSE_CAUSE : Fld := ⟨R.SEC_RESET_CAUSE, 0, 4⟩
def F.SEC_RESET_CAUSE_PREV : Fld := ⟨R.SEC_RESET_CAUSE, 4, 4⟩
def F.SEC_RESET_CAUSE_COUNT : Fld := ⟨R.SEC_RESET_CAUSE, 8, 8⟩
def F.SEC_ATTEST_USED : Fld := ⟨R.SEC_ATTEST, 0, 13⟩
def F.SEC_ATTEST_OPEN : Fld := ⟨R.SEC_ATTEST, 13, 1⟩
def F.SEC_ATTEST_SESSION : Fld := ⟨R.SEC_ATTEST, 16, 12⟩
def F.SEC_ATTEST_CNT_COUNT : Fld := ⟨R.SEC_ATTEST_CNT, 0, 16⟩
def F.SEC_ID_PUB_KEY : Fld := ⟨R.SEC_ID_PUB, 0, 32⟩
def F.SEC_FW_HASH_HASH : Fld := ⟨R.SEC_FW_HASH, 0, 32⟩
def F.SEC_ROOT_KEY_HASH : Fld := ⟨R.SEC_ROOT_KEY, 0, 32⟩
def F.SEC_OWNER_KEY_HASH : Fld := ⟨R.SEC_OWNER_KEY, 0, 32⟩
def F.SEC_MODEL_KEY_HASH : Fld := ⟨R.SEC_MODEL_KEY, 0, 32⟩
def F.LC_STATE_STATE : Fld := ⟨R.LC_STATE, 0, 8⟩
def F.LC_STATE_DEBUG : Fld := ⟨R.LC_STATE, 8, 1⟩
def F.LC_STATE_FUSE_FAULT : Fld := ⟨R.LC_STATE, 9, 1⟩
def F.LC_NONCE_NONCE : Fld := ⟨R.LC_NONCE, 0, 32⟩
def F.FIELD_TABLE_CLEAR_CLEAR : Fld := ⟨R.FIELD_TABLE_CLEAR, 0, 1⟩
def F.SCHED_FENCE_CFG_THRESHOLD : Fld := ⟨R.SCHED_FENCE_CFG, 0, 16⟩
def F.SCHED_FENCE_MAP_LO_FENCED : Fld := ⟨R.SCHED_FENCE_MAP_LO, 0, 32⟩
def F.SCHED_FENCE_MAP_HI_FENCED : Fld := ⟨R.SCHED_FENCE_MAP_HI, 0, 32⟩
def F.SCHED_FENCE_LAST_LOOM : Fld := ⟨R.SCHED_FENCE_LAST, 0, 6⟩
def F.SCHED_FENCE_LAST_CAUSE : Fld := ⟨R.SCHED_FENCE_LAST, 8, 4⟩
def F.SCHED_FENCE_TIME_NS_NS : Fld := ⟨R.SCHED_FENCE_TIME_NS, 0, 32⟩
def F.SCHED_FENCE_TIME_S_LO_S : Fld := ⟨R.SCHED_FENCE_TIME_S_LO, 0, 32⟩
def F.SCHED_FENCE_TIME_S_HI_S_HI : Fld := ⟨R.SCHED_FENCE_TIME_S_HI, 0, 16⟩
def F.SCHED_FENCE_CNT_UNCORR : Fld := ⟨R.SCHED_FENCE_CNT, 0, 8⟩
def F.SCHED_FENCE_CNT_THRESH : Fld := ⟨R.SCHED_FENCE_CNT, 8, 8⟩
def F.SCHED_FENCE_CNT_REEXEC : Fld := ⟨R.SCHED_FENCE_CNT, 16, 8⟩
def F.SCHED_FENCE_CNT_FLOOR : Fld := ⟨R.SCHED_FENCE_CNT, 24, 8⟩
def F.LOOM_CORR_COUNT : Fld := ⟨R.LOOM_CORR, 0, 16⟩
def F.SNAP_CTRL_SOURCES : Fld := ⟨R.SNAP_CTRL, 0, 8⟩
def F.SNAP_CTRL_UNIT : Fld := ⟨R.SNAP_CTRL, 8, 5⟩
def F.SNAP_CTRL_ENC : Fld := ⟨R.SNAP_CTRL, 13, 1⟩
def F.SNAP_CTRL_FI : Fld := ⟨R.SNAP_CTRL, 14, 4⟩
def F.SNAP_CTRL_EDGE : Fld := ⟨R.SNAP_CTRL, 18, 1⟩
def F.SNAP_CTRL_REARM : Fld := ⟨R.SNAP_CTRL, 19, 1⟩
def F.SNAP_CTRL_HOLD : Fld := ⟨R.SNAP_CTRL, 20, 1⟩
def F.SNAP_STAT_VALID : Fld := ⟨R.SNAP_STAT, 0, 8⟩
def F.SNAP_STAT_NEXT : Fld := ⟨R.SNAP_STAT, 8, 3⟩
def F.SNAP_STAT_BUSY : Fld := ⟨R.SNAP_STAT, 11, 1⟩
def F.SNAP_STAT_TIME_ARMED : Fld := ⟨R.SNAP_STAT, 12, 1⟩
def F.SNAP_STAT_ENC_ARMED : Fld := ⟨R.SNAP_STAT, 13, 1⟩
def F.SNAP_STAT_SEQ : Fld := ⟨R.SNAP_STAT, 16, 16⟩
def F.SNAP_CMP_NS_NS : Fld := ⟨R.SNAP_CMP_NS, 0, 32⟩
def F.SNAP_CMP_S_LO_S : Fld := ⟨R.SNAP_CMP_S_LO, 0, 32⟩
def F.SNAP_CMP_S_HI_S_HI : Fld := ⟨R.SNAP_CMP_S_HI, 0, 16⟩
def F.SNAP_ENC_LO_COUNT : Fld := ⟨R.SNAP_ENC_LO, 0, 32⟩
def F.SNAP_ENC_HI_COUNT : Fld := ⟨R.SNAP_ENC_HI, 0, 32⟩
def F.SNAP_HOLDOFF_US : Fld := ⟨R.SNAP_HOLDOFF, 0, 16⟩
def F.SNAP_CNT_TAKEN : Fld := ⟨R.SNAP_CNT, 0, 8⟩
def F.SNAP_CNT_MERGED : Fld := ⟨R.SNAP_CNT, 8, 8⟩
def F.SNAP_CNT_DROPPED : Fld := ⟨R.SNAP_CNT, 16, 8⟩
def F.SNAP_CNT_TRACE_DROP : Fld := ⟨R.SNAP_CNT, 24, 8⟩
def F.SYS_TEMP_TEMP : Fld := ⟨R.SYS_TEMP, 0, 16⟩
def F.SYS_TEMP_VALID : Fld := ⟨R.SYS_TEMP, 31, 1⟩
def F.SYS_RAIL_C_CURRENT : Fld := ⟨R.SYS_RAIL_C, 0, 16⟩
def F.SYS_RAIL_C_VALID : Fld := ⟨R.SYS_RAIL_C, 31, 1⟩
def F.SYS_RAIL_S_CURRENT : Fld := ⟨R.SYS_RAIL_S, 0, 16⟩
def F.SYS_RAIL_S_VALID : Fld := ⟨R.SYS_RAIL_S, 31, 1⟩
def F.SYS_RAIL_X_CURRENT : Fld := ⟨R.SYS_RAIL_X, 0, 16⟩
def F.SYS_RAIL_X_VALID : Fld := ⟨R.SYS_RAIL_X, 31, 1⟩
def F.SYS_VCORE_TARGET : Fld := ⟨R.SYS_VCORE, 0, 10⟩
def F.SYS_VCORE_EFFECTIVE : Fld := ⟨R.SYS_VCORE, 16, 10⟩
def F.SYS_VCORE_EXT : Fld := ⟨R.SYS_VCORE, 31, 1⟩
def F.SYS_THROTTLE_FLOOR : Fld := ⟨R.SYS_THROTTLE, 0, 10⟩
def F.SYS_THROTTLE_HYST : Fld := ⟨R.SYS_THROTTLE, 12, 4⟩
def F.SYS_THROTTLE_CAP : Fld := ⟨R.SYS_THROTTLE, 16, 9⟩
def F.SYS_THROTTLE_STAT_ACTIVE : Fld := ⟨R.SYS_THROTTLE_STAT, 0, 1⟩
def F.SYS_THROTTLE_STAT_HOT : Fld := ⟨R.SYS_THROTTLE_STAT, 1, 1⟩
def F.SYS_THROTTLE_STAT_POWER : Fld := ⟨R.SYS_THROTTLE_STAT, 2, 1⟩
def F.SYS_THROTTLE_STAT_DEPTH : Fld := ⟨R.SYS_THROTTLE_STAT, 8, 8⟩
def F.SYS_THROTTLE_STAT_ENTRIES : Fld := ⟨R.SYS_THROTTLE_STAT, 16, 8⟩
def F.SYS_PWR_POWER : Fld := ⟨R.SYS_PWR, 0, 16⟩
def F.SYS_PWR_VALID : Fld := ⟨R.SYS_PWR, 31, 1⟩
def F.SYS_PWR_STAT_NO_RESPONSE : Fld := ⟨R.SYS_PWR_STAT, 0, 3⟩
def F.SYS_PWR_STAT_BAD_MODE : Fld := ⟨R.SYS_PWR_STAT, 3, 1⟩
def F.SYS_PWR_STAT_ALERT : Fld := ⟨R.SYS_PWR_STAT, 4, 1⟩
def F.SYS_PWR_STAT_ALERT_SRC : Fld := ⟨R.SYS_PWR_STAT, 8, 2⟩
def F.SYS_PWR_STAT_STATUS_WORD : Fld := ⟨R.SYS_PWR_STAT, 16, 16⟩

/-- Field of HOST_TX_VC_TAP: the wire virtual channel of tap channel 8a + i (R77). -/
def F.HOST_TX_VC_TAP_VC (i : Nat) : Fld := ⟨R.HOST_TX_VC_TAP, 4 * i, 4⟩
/-- LOOM_ARRAY_FAULT bits of group g, fault k (0 WPAR, 1 POISON_IN, 2 FLOAT, 3 INT_OVF) (R169). -/
def F.LOOM_ARRAY_FAULT_BIT (g k : Nat) : Fld := ⟨R.LOOM_ARRAY_FAULT, 4 * g + k, 1⟩
/-- SCHED_LOOM_MAP: partition of loom 8k + i (R271). -/
def F.SCHED_LOOM_MAP_PART (i : Nat) : Fld := ⟨R.SCHED_LOOM_MAP, 4 * i, 3⟩
/-- SCHED_LOOM_MAP: loom 8k + i is assigned (R271). -/
def F.SCHED_LOOM_MAP_ASSIGNED (i : Nat) : Fld := ⟨R.SCHED_LOOM_MAP, 4 * i + 3, 1⟩
/-- FIELD_FO_FUNC: function of output i (R349). -/
def F.FIELD_FO_FUNC_FUNC (i : Nat) : Fld := ⟨R.FIELD_FO_FUNC, 3 * i, 3⟩
/-- FIELD_FO_FUNC: commanded level of output i (R350). -/
def F.FIELD_FO_FUNC_LEVEL (i : Nat) : Fld := ⟨R.FIELD_FO_FUNC, 24 + i, 1⟩
/-- FIELD_PROBE_CFG: probe input i enabled (R348). -/
def F.FIELD_PROBE_CFG_EN (i : Nat) : Fld := ⟨R.FIELD_PROBE_CFG, 4 * i, 1⟩
/-- FIELD_PROBE_CFG: encoder channel of probe input i (R348). -/
def F.FIELD_PROBE_CFG_ENC (i : Nat) : Fld := ⟨R.FIELD_PROBE_CFG, 4 * i + 1, 1⟩
/-- FIELD_PROBE_CFG: edge of probe input i (R348). -/
def F.FIELD_PROBE_CFG_FALL (i : Nat) : Fld := ⟨R.FIELD_PROBE_CFG, 4 * i + 2, 1⟩
/-- LINK_CREDIT: credits held for virtual lane v (R394). -/
def F.LINK_CREDIT_VL (v : Nat) : Fld := ⟨R.LINK_CREDIT, 8 * v, 8⟩

/-- Part 0 of the register table. -/
def regTable0 : List Reg :=
  [R.LOOM_PACE, R.LOOM_PACE_MIN, R.LOOM_ID, R.SYS_OWN,
   R.SYS_ID, R.MBX_H2D_DATA, R.MBX_D2H_DATA, R.MBX_T2D_DATA,
   R.MBX_D2T_DATA, R.MBX_H2D_GO, R.MBX_D2H_GO, R.MBX_T2D_GO,
   R.MBX_D2T_GO, R.HOST_STATUS, R.HOST_IBI_CAUSE, R.HOST_IBI_EN,
   R.HOST_CFG, R.HOST_TX_MAP, R.HOST_RX_CNT, R.HOST_TX_CNT,
   R.HOST_TX_VC_TAP, R.HOST_TX_VC_REC, R.CAM_CTRL, R.CAM_LINE_WORDS,
   R.CAM_BLOCK_LINES, R.CAM_FILL, R.CAM_INCOMPLETE_POLICY, R.CAM_PITCH,
   R.CAM_CNT_OFFSET, R.CAM_GAP_TOL, R.CAM_RETAIN, R.CAM_LS_SLOTS,
   R.CAM_LS_USED, R.CAM_LS_PEAK, R.CAM_BASE_LO, R.CAM_BASE_HI,
   R.CAM_FRAMES, R.CAM_PKT_CNT, R.CAM_LINE_CNT, R.CAM_BLOCK_CNT]

/-- Part 1 of the register table. -/
def regTable1 : List Reg :=
  [R.CAM_DROP_CNT, R.CAM_HOLES, R.PIPE_CTRL, R.PIPE_STAGES,
   R.PIPE_DM_THRESH, R.PIPE_OUT_FMT, R.PIPE_OUT_BASE, R.PIPE_OUT_SIZE,
   R.PIPE_OUT_SLOT, R.PIPE_OUT_USED, R.PIPE_QUEUE, R.PIPE_CNT,
   R.PIPE_STAT_CFG, R.PIPE_STAT_CNT, R.PIPE_TAP, R.PIPE_TAP_RULE,
   R.BOB_PROV_TABLE, R.BOB_SERIAL, R.BOB_AGE_LIMIT, R.BOB_UNTRACKED,
   R.BOB_CNT, R.BOB_IN_USE, R.BOB_RULE_CTRL, R.BOB_RULE_AUX,
   R.BOB_LANE_CFG, R.BOB_LANE_OFFSET, R.BOB_LANE_ADVANCE, R.BOB_LANE_VALVE,
   R.BOB_CLASS_MAP, R.SAMPLE_CREDITS, R.SAMPLE_DECODE_LIMIT, R.SAMPLE_MAX_PIXELS,
   R.SAMPLE_FILL, R.SAMPLE_BUF_BASE, R.SAMPLE_BUF_SIZE, R.SAMPLE_BATCH_WAIT,
   R.SAMPLE_CNT, R.LOOM_ARRAY_CFG, R.LOOM_ARRAY_GSTAT, R.LOOM_ARRAY_FAULT]

/-- Part 2 of the register table. -/
def regTable2 : List Reg :=
  [R.LOOM_ARRAY_ERR, R.LOOM_ARRAY_PASSES, R.LOOM_ARRAY_SLOTS_LO, R.LOOM_ARRAY_SLOTS_HI,
   R.LOOM_ARRAY_USEFUL_LO, R.LOOM_ARRAY_USEFUL_HI, R.LOOM_VEC_CNT, R.LOOM_CONV_STAT,
   R.LOOM_FETCH_STAT, R.LOOM_FETCH_LINES, R.LOOM_FETCH_FILL, R.MILL_STRIPE_Q,
   R.MILL_STRIPE_CNT, R.SCHED_GUARD, R.SCHED_FILL_WAIT, R.SCHED_STEP_TIME,
   R.SCHED_BATCH, R.SCHED_STEP_CNT, R.SCHED_START_CNT, R.SCHED_LAG_CNT,
   R.SCHED_KV_BEAM_BASE, R.SCHED_KV_BEAM_SIZE, R.SCHED_KV_SPILL_BASE, R.SCHED_KV_SPILL_SIZE,
   R.SCHED_KV_USED, R.SCHED_KV_PEAK, R.SCHED_KV_WAIT, R.SCHED_ATTN_CFG,
   R.SCHED_ATTN_TOK, R.SCHED_ATTN_CNT, R.EARLY_THRESHOLD, R.EARLY_RUN,
   R.SCHED_STAGE_BASE, R.SCHED_STAGE_SIZE, R.SCHED_STAGE_NEED, R.SCHED_STAGE_USED,
   R.QUANT_ALARM_FRACTION, R.QUANT_SCALE_POLICY, R.QUANT_STAT_CTRL, R.QUANT_STAT_BASE]

/-- Part 3 of the register table. -/
def regTable3 : List Reg :=
  [R.QUANT_STAT_SIZE, R.QUANT_STAT_WR, R.QUANT_STAT_RD, R.QUANT_STAT_CNT,
   R.QUANT_CALIB_CTRL, R.QUANT_CALIB_BASE, R.QUANT_CALIB_SIZE, R.QUANT_CALIB_NEED,
   R.QUANT_CALIB_CNT, R.SCHED_LEARN_CTRL, R.SCHED_LEARN_RATE, R.SCHED_LEARN_BETA1,
   R.SCHED_LEARN_BETA2, R.SCHED_LEARN_EPS, R.SCHED_LEARN_BASE, R.SCHED_LEARN_SIZE,
   R.SCHED_LEARN_NEED, R.SCHED_LEARN_OPT_TIME, R.SCHED_LEARN_STEPS, R.SCHED_LEARN_LOSS,
   R.SCHED_LEARN_CNT, R.SCHED_LEARN_COMMIT, R.SCHED_MODEL_BASE, R.SCHED_MODEL_SIZE,
   R.SCHED_MODEL_CNT, R.SCHED_CACHE_CNT, R.SCHED_SLOT, R.SCHED_LOOM_MAP,
   R.SCHED_PART_LO, R.SCHED_PART_HI, R.SCHED_JOB, R.SCHED_JOB_SIZE,
   R.SCHED_JOB_MODEL, R.SCHED_STEM_TIME, R.SCHED_SAVE_BASE, R.SCHED_SAVE_SIZE,
   R.SCHED_REMOTE_BASE, R.SCHED_JOB_CNT, R.LOOM_QDEPTH_LS, R.LOOM_QDEPTH_CS]

/-- Part 4 of the register table. -/
def regTable4 : List Reg :=
  [R.LOOM_SHUTTLE, R.LOOM_CMD, R.LOOM_ENG_STAT, R.LOOM_REMOTE,
   R.LINK_REMOTE_TMO, R.LINK_REMOTE_CNT, R.DET_ARITH_PROFILE, R.DET_CTRL,
   R.DET_TDC, R.DET_TDC_CAUSE0, R.DET_TDC_CAUSE1, R.DET_TDC_FIRST_NS,
   R.DET_TDC_FIRST_S_LO, R.DET_TDC_FIRST_S_HI, R.MEM_DDR_CFG, R.MEM_WIPE_STAT,
   R.MEM_WIPE_MARK, R.MEM_SRAM_CNT, R.MEM_DDR_CNT, R.MEM_DDR_DEV,
   R.MEM_UE_ADDR_LO, R.MEM_UE_ADDR_HI, R.MEM_TMR_CNT, R.MEM_TMR_STAT,
   R.MEM_POISON_CNT, R.SCRUB_RATE, R.SCRUB_DEBT_MAX, R.SCRUB_SRAM_PERIOD,
   R.SCRUB_PASS, R.SCRUB_POS, R.SCRUB_CNT, R.FIELD_LINK_STAT,
   R.FIELD_LINK_CNT, R.FIELD_EJECT_LEAD, R.FIELD_AMEND_LATE, R.FIELD_TABLE,
   R.FIELD_EJECT_CNT, R.FIELD_PULSE_MAX, R.FIELD_ENTRY_TMO, R.FIELD_STOP]

/-- Part 5 of the register table. -/
def regTable5 : List Reg :=
  [R.FIELD_SAFE_VALUES, R.FIELD_FO_STAT, R.FIELD_FI_STATE, R.FIELD_FO_FUNC,
   R.FIELD_PROBE_CFG, R.FIELD_FO_TRIG_PERIOD, R.FIELD_FO_TRIG_WIDTH, R.FIELD_FI_CFG,
   R.FIELD_ENC_CFG, R.FIELD_ENC_COUNT_LO, R.FIELD_ENC_COUNT_HI, R.FIELD_ENC_INDEX_LO,
   R.FIELD_ENC_INDEX_HI, R.FIELD_ENC_SPEED, R.FIELD_ENC_ZCHECK, R.FIELD_ENC_ERR,
   R.TK_TIME_NS, R.TK_TIME_S_LO, R.TK_TIME_S_HI, R.TK_STAT,
   R.TK_HOLDOVER, R.TK_CTRL, R.TK_RATE_LO, R.TK_RATE_HI,
   R.TK_STEP_LO, R.TK_STEP_HI, R.TK_VEL, R.TK_DOM_OFFSET,
   R.TK_DOM_RATE, R.TK_DOM_STAT, R.PTP_CNT, R.TK_CMP_NS,
   R.TK_CMP_S_LO, R.TK_CMP_S_HI, R.ETH_CFG, R.ETH_STAT,
   R.ETH_ASYM_RX, R.ETH_ASYM_TX, R.ETH_LATE_POLICY, R.ETH_MAC_LO]

/-- Part 6 of the register table. -/
def regTable6 : List Reg :=
  [R.ETH_MAC_HI, R.ETH_DST_LO, R.ETH_DST_HI, R.ETH_ETYPE,
   R.ETH_TXTS_STAT, R.ETH_TXTS_ID, R.ETH_TXTS_NS, R.ETH_TXTS_S_LO,
   R.ETH_TXTS_S_HI, R.ETH_CNT, R.ETH_LAUNCH_CNT, R.LINK_CFG,
   R.LINK_STAT, R.LINK_CNT, R.LINK_CREDIT, R.LINK_POISON,
   R.TWIN_CTRL, R.TWIN_STAT, R.TWIN_TAKEOVER_TMO, R.TWIN_XCHECK_WAIT,
   R.TWIN_OFFSET_LO, R.TWIN_OFFSET_HI, R.TWIN_CNT, R.TWIN_HB,
   R.TWIN_REMOTE_BASE, R.TWIN_REMOTE_SIZE, R.TWIN_PEER_TDC, R.TWIN_EVENT_CNT,
   R.FIELD_TWIN_GATE, R.SEC_BOOT, R.SEC_FW_VERSION, R.SEC_RESET_CAUSE,
   R.SEC_ATTEST, R.SEC_ATTEST_CNT, R.SEC_ID_PUB, R.SEC_FW_HASH,
   R.SEC_ROOT_KEY, R.SEC_OWNER_KEY, R.SEC_MODEL_KEY, R.LC_STATE]

/-- Part 7 of the register table. -/
def regTable7 : List Reg :=
  [R.LC_NONCE, R.FIELD_TABLE_CLEAR, R.SCHED_FENCE_CFG, R.SCHED_FENCE_MAP_LO,
   R.SCHED_FENCE_MAP_HI, R.SCHED_FENCE_LAST, R.SCHED_FENCE_TIME_NS, R.SCHED_FENCE_TIME_S_LO,
   R.SCHED_FENCE_TIME_S_HI, R.SCHED_FENCE_CNT, R.LOOM_CORR, R.SNAP_CTRL,
   R.SNAP_STAT, R.SNAP_CMP_NS, R.SNAP_CMP_S_LO, R.SNAP_CMP_S_HI,
   R.SNAP_ENC_LO, R.SNAP_ENC_HI, R.SNAP_HOLDOFF, R.SNAP_CNT,
   R.SYS_TEMP, R.SYS_RAIL_C, R.SYS_RAIL_S, R.SYS_RAIL_X,
   R.SYS_VCORE, R.SYS_THROTTLE, R.SYS_THROTTLE_STAT, R.SYS_PWR,
   R.SYS_PWR_STAT, R.BLOCK_LOCK, R.LOOM_LOCK, R.MILL_LOCK]

/-- Every register the spec defines (R54 and the register tables). -/
def regTable : List Reg :=
  regTable0 ++ regTable1 ++ regTable2 ++ regTable3 ++ regTable4 ++ regTable5 ++ regTable6 ++ regTable7

end Sys2Proof.Machine
end

