-- ==== Sys2Proof/Machine/Tables.lean ====
section
/-! DEFINITION. Sparse tables, fields of words, byte and word orders, and the CRCs of the packets: the arithmetic
that every family uses. -/

namespace Sys2Proof.Machine

/-- The entry of a sparse table, if listed. -/
def tget? {α : Type} : Tbl α → Nat → Option α
  | [], _ => none
  | (j, v) :: t, k => if k = j then some v else tget? t k

/-- The entry of a sparse table, or its default. -/
def tgetD {α : Type} (t : Tbl α) (k : Nat) (d : α) : α :=
  match tget? t k with
  | some v => v
  | none => d

/-- Write an entry, keys staying strictly rising. -/
def tset {α : Type} : Tbl α → Nat → α → Tbl α
  | [], k, v => [(k, v)]
  | (j, w) :: t, k, v =>
    if k < j then (k, v) :: (j, w) :: t
    else if k = j then (k, v) :: t
    else (j, w) :: tset t k v

/-- Remove an entry. -/
def tdel {α : Type} : Tbl α → Nat → Tbl α
  | [], _ => []
  | (j, w) :: t, k => if k = j then t else (j, w) :: tdel t k

/-- Keys strictly rising, from `lo` upward. -/
def tsortedFrom {α : Type} : Nat → Tbl α → Bool
  | _, [] => true
  | lo, (j, _) :: t => decide (lo ≤ j) && tsortedFrom (j + 1) t

/-- Keys strictly rising. -/
def tsorted {α : Type} (t : Tbl α) : Bool := tsortedFrom 0 t

/-- The field of `width` bits from bit `lo` of a number. -/
def bitsOf (x lo width : Nat) : Nat := x / 2 ^ lo % 2 ^ width

/-- A number with the field of `width` bits from bit `lo` replaced (the new value cut to the width). -/
def setBits (x lo width v : Nat) : Nat :=
  x % 2 ^ lo + v % 2 ^ width * 2 ^ lo + x / 2 ^ (lo + width) * 2 ^ (lo + width)

/-- Bit `i` of a number. -/
def bitAt (x i : Nat) : Bool := x / 2 ^ i % 2 == 1

/-- One bit as a number. -/
def bit (b : Bool) : Nat := if b then 1 else 0

/-- Two's-complement reading of the low `width` bits. -/
def signed (width x : Nat) : Int :=
  if bitAt x (width - 1) then (x % 2 ^ width : Nat) - (2 ^ width : Nat) else (x % 2 ^ width : Nat)

/-- The low `width` bits of an integer, two's complement. -/
def unsigned (width : Nat) (x : Int) : Nat := (x % (2 ^ width : Nat)).toNat

/-- A signed count wrapped to 48 bits (counts are 48-bit two's complement). -/
def wrap48 (x : Int) : Int := signed 48 (unsigned 48 x)

/-- Rounding up a division. -/
def ceilDiv (a b : Nat) : Nat := (a + b - 1) / b

/-- A number rounded up to a multiple of `m`. -/
def roundUp (a m : Nat) : Nat := ceilDiv a m * m

/-- The bytes of a word, least significant first (R6). -/
def wordBytes (w : Word) : List Byte :=
  [w.extractLsb' 0 8, w.extractLsb' 8 8, w.extractLsb' 16 8, w.extractLsb' 24 8]

/-- The bytes of words in order (R6). -/
def wordsBytes (ws : List Word) : List Byte := ws.flatMap wordBytes

/-- `n` little-endian bytes of a number. -/
def natBytes : Nat → Nat → List Byte
  | 0, _ => []
  | n + 1, x => BitVec.ofNat 8 x :: natBytes n (x / 256)

/-- The number that little-endian bytes spell. -/
def bytesNat : List Byte → Nat
  | [] => 0
  | b :: t => b.toNat + 256 * bytesNat t

/-- The word that the first four bytes spell, least significant first. -/
def bytesWord (bs : List Byte) : Word := BitVec.ofNat 32 (bytesNat (bs.take 4))

/-- The whole words of a byte string; a trailing incomplete word is left out. -/
def bytesWords : List Byte → List Word
  | a :: b :: c :: d :: t => bytesWord [a, b, c, d] :: bytesWords t
  | _ => []

/-- Eight steps of the reflected CRC-32C register (R68: polynomial 0x1EDC6F41, reflected). -/
def crcBits : Nat → BitVec 32 → BitVec 32
  | 0, c => c
  | n + 1, c => crcBits n (if c.getLsbD 0 then (c >>> 1) ^^^ 0x82F63B78#32 else c >>> 1)

/-- CRC-32C over bytes, before the final XOR. -/
def crcFold : BitVec 32 → List Byte → BitVec 32
  | c, [] => c
  | c, b :: t => crcFold (crcBits 8 (c ^^^ b.zeroExtend 32)) t

/-- CRC-32C (R68). -/
def crc32c (bs : List Byte) : Word := crcFold 0xFFFFFFFF#32 bs ^^^ 0xFFFFFFFF#32

/-- CRC-32C over words, each least significant byte first (R68). -/
def crcWords (ws : List Word) : Word := crc32c (wordsBytes ws)

/-- The word a number spells. -/
def w32 (n : Nat) : Word := BitVec.ofNat 32 n

/-- Apply an operation to each element of a list, threading a state. -/
def foldState {α σ : Type} (f : σ → α → σ) : σ → List α → σ
  | s, [] => s
  | s, a :: t => foldState f (f s a) t

/-- Repeat an operation on a state, with the index counting up from `i`. -/
def timesFrom {σ : Type} (f : σ → Nat → σ) : Nat → Nat → σ → σ
  | 0, _, s => s
  | n + 1, i, s => timesFrom f n (i + 1) (f s i)

/-- Replace the first element that meets a test. -/
def replaceFirst {α : Type} (p : α → Bool) (f : α → α) : List α → List α
  | [] => []
  | a :: t => if p a then f a :: t else a :: replaceFirst p f t

/-- Remove the first element that meets a test. -/
def removeFirst {α : Type} (p : α → Bool) : List α → List α
  | [] => []
  | a :: t => if p a then t else a :: removeFirst p t

/-- Insert before the first element that comes strictly later in an order (equal elements keep build order). -/
def insertBefore {α : Type} (later : α → Bool) (x : α) : List α → List α
  | [] => [x]
  | a :: t => if later a then x :: a :: t else a :: insertBefore later x t

/-- The whole part of an address inside a register family, as its two indices. -/
def Reg.index? (r : Reg) (a : Nat) : Option (Nat × Nat) :=
  if a < r.base then none
  else
    let d := a - r.base
    let i := if r.count = 1 then 0 else d / r.stride
    let e := if r.count = 1 then d else d % r.stride
    let j := if r.count2 = 1 then 0 else e / r.stride2
    let f := if r.count2 = 1 then e else e % r.stride2
    if f = 0 ∧ i < r.count ∧ j < r.count2 then some (i, j) else none

/-- The address of a register. -/
def Reg.addr (r : Reg) (i j : Nat) : Nat := r.base + i * r.stride + j * r.stride2

/-- The register at an address, with its indices. -/
def findReg : List Reg → Nat → Option (Reg × Nat × Nat)
  | [], _ => none
  | r :: t, a =>
    match r.index? a with
    | some (i, j) => some (r, i, j)
    | none => findReg t a

end Sys2Proof.Machine
end

