-- ==== Sys2Proof/Machine/Ops.lean ====
section
/-! DEFINITION. The named operations over the state that every family shares: registers and their fields, counters,
free values, notifications, the host transmit channels, replies, timing-dependent choices, snapshots and trace. -/

namespace Sys2Proof.Machine

/-! ### Registers -/

/-- The value of a register: as written, or its reset value. (DESIGN CHOICE: notes/assumptions 10.) -/
def State.reg (s : State) (r : Reg) (i j : Nat := 0) : Nat :=
  match tget? s.regs (r.addr i j) with
  | some w => w.toNat
  | none => r.reset i j

/-- Write a whole register. -/
def State.setReg (s : State) (r : Reg) (v : Nat) (i j : Nat := 0) : State :=
  { s with regs := tset s.regs (r.addr i j) (w32 v) }

/-- The value of a field. -/
def State.get (s : State) (f : Fld) (i j : Nat := 0) : Nat := bitsOf (s.reg f.reg i j) f.lo f.width

/-- Write a field, the register's other bits unchanged. -/
def State.put (s : State) (f : Fld) (v : Nat) (i j : Nat := 0) : State :=
  s.setReg f.reg (setBits (s.reg f.reg i j) f.lo f.width v) i j

/-- Whether a one-bit field is set. -/
def State.on (s : State) (f : Fld) (i j : Nat := 0) : Bool := s.get f i j != 0

/-- Set or clear a one-bit field. -/
def State.putBit (s : State) (f : Fld) (b : Bool) (i j : Nat := 0) : State := s.put f (bit b) i j

/-- Add to a counter that saturates at all ones (R438). -/
def State.bumpBy (s : State) (f : Fld) (n : Nat) (i j : Nat := 0) : State :=
  s.put f (min (s.get f i j + n) (2 ^ f.width - 1)) i j

/-- Count one in a counter that saturates at all ones (R438). -/
def State.bump (s : State) (f : Fld) (i j : Nat := 0) : State := s.bumpBy f 1 i j

/-- Add to a counter that wraps. -/
def State.bumpWrap (s : State) (f : Fld) (n : Nat := 1) (i j : Nat := 0) : State :=
  s.put f (s.get f i j + n) i j

/-- Keep the highest value seen in a PEAK field. -/
def State.peak (s : State) (f : Fld) (v : Nat) (i j : Nat := 0) : State :=
  s.put f (max (s.get f i j) (min v (2 ^ f.width - 1))) i j

/-! ### Free values -/

/-- A value that the spec leaves open: the next draw of `Config.freeWord`. (DESIGN CHOICE: notes/assumptions 11.) -/
def State.freeVal (s : State) : Word := Config.freeWord s.freeUse

/-- The state after one draw. -/
def State.drawn (s : State) : State := { s with freeUse := s.freeUse + 1 }

/-- A device time that the spec leaves open: four draws. (DESIGN CHOICE: notes/assumptions 181.) -/
def State.freeTime (s : State) : Nat :=
  ((List.range 4).map fun i => (Config.freeWord (s.freeUse + i)).toNat * 2 ^ (32 * i)).sum

/-- The state after the draws of a time. -/
def State.timeDrawn (s : State) : State := { s with freeUse := s.freeUse + 4 }

/-! ### Device time (R366) -/

/-- One nanosecond in the units of device time (48 fraction bits). -/
def nsUnit : Nat := 2 ^ 48

/-- Device time in whole nanoseconds. -/
def State.nowNs (s : State) : Nat := s.time.now / nsUnit

/-- The nanosecond field of a device time. -/
def timeNs (t : Nat) : Nat := t / nsUnit % 1000000000

/-- The seconds of a device time (48 bits). -/
def timeSec (t : Nat) : Nat := t / nsUnit / 1000000000 % 2 ^ 48

/-- The top 16 fraction bits of a device time. -/
def timeFrac (t : Nat) : Nat := t % nsUnit / 2 ^ 32

/-- A device time as the three words of a record: ns, s [31:0], [15:0] s [47:32]. -/
def timeWords (t : Nat) : List Word := [w32 (timeNs t), w32 (timeSec t), w32 (timeSec t / 2 ^ 32)]

/-! ### Notifications (R62) -/

/-- The enabled cause bits. -/
def State.ibiActive (s : State) : Nat :=
  Nat.land (s.reg R.HOST_IBI_CAUSE) (s.reg R.HOST_IBI_EN)

/-- Request an In-Band Interrupt: at most one is pending, a further request waits for its delivery.
(DESIGN CHOICE: notes/assumptions 209.) -/
def State.requestIbi (s : State) : State :=
  if !s.i3c.ibiOn then s
  else if s.i3c.pending then { s with i3c := { s.i3c with again := true } }
  else { s with i3c := { s.i3c with pending := true } }

/-- Set a cause bit; an IBI is requested when the enabled causes change from zero to non-zero (R62). -/
def State.raise (s : State) (cause : Fld) : State :=
  let t := s.put cause 1
  if s.ibiActive = 0 ∧ t.ibiActive ≠ 0 then t.requestIbi else t

/-! ### Host CSI-2 transmit (R75 to R77) -/

/-- The transmit port of a channel (R76). -/
def State.txPort (s : State) (chan : Nat) : Nat :=
  if chan ≤ 16 then bitsOf (s.get F.HOST_TX_MAP_TAP_PORT) chan 1
  else bitsOf (s.get F.HOST_TX_MAP_REC_PORT) (chan - 20) 1

/-- The wire virtual channel of a channel (R77). -/
def State.wireVc (s : State) (chan : Nat) : Nat :=
  if chan ≤ 16 then s.get (F.HOST_TX_VC_TAP_VC (chan % 8)) (chan / 8)
  else bitsOf (s.reg R.HOST_TX_VC_REC) (4 * (chan - 20)) 4

/-- Whether a transmit port is enabled and sending. -/
def State.portUp (s : State) (port : Nat) : Bool :=
  if port = 0 then s.on F.HOST_STATUS_TX0_UP else s.on F.HOST_STATUS_TX1_UP

/-- The data type of a record channel (R75). -/
def recType (chan : Nat) : Nat :=
  if chan = 20 then 0x35 else if chan = 21 then 0x36 else if chan = 22 then 0x34 else 0x37

/-- The next frame number of a wire virtual channel: 1 to 65,535, wrapping to 1 (R76). -/
def nextFrame (n : Nat) : Nat := if n ≥ 65535 then 1 else n + 1

/-- Send one frame on a channel: its long packets stand between Frame Start and Frame End (R76). -/
def State.emit (s : State) (chan : Nat) (packets : List (Nat × List Byte)) (bad : List Bool := []) : State :=
  let port := s.txPort chan
  let wire := s.wireVc chan
  let key := 16 * port + wire
  let n := nextFrame (tgetD s.host.frameNo key 0)
  { s with host := { s.host with
      frameNo := tset s.host.frameNo key n
      sent := s.host.sent ++ [{ port := port, wireVc := wire, frame := n, chan := chan,
                                packets := packets, badCrc := bad }] } }

/-- Send one record-channel packet. -/
def State.emitWords (s : State) (chan : Nat) (ws : List Word) : State :=
  s.emit chan [(recType chan, wordsBytes ws)]

/-- Count a dropped verdict record or status packet (R76). -/
def State.dropRecord (s : State) : State := (s.bump F.HOST_TX_CNT_VERDICT_DROP).raise F.HOST_IBI_CAUSE_TX_DROP

/-- Send a status packet on channel 22, or queue it while its port is disabled, up to 64 (R76). -/
def State.sendStatus (s : State) (ws : List Word) : State :=
  if s.portUp (s.txPort 22) then s.emitWords 22 ws
  else if s.host.statusQ.length < 64 then
    { s with host := { s.host with statusQ := s.host.statusQ ++ [ws] } }
  else s.dropRecord

/-- The pending records without the packet's worth just sent. -/
def State.dropPending (s : State) : State :=
  { s with host := { s.host with records := s.host.records.drop 64 } }

/-- Form one verdict packet from the pending records, up to 64, oldest first, on an enabled port (R76). -/
def State.formVerdict (s : State) : State :=
  if s.host.records.isEmpty || !s.portUp (s.txPort 20) then s
  else (s.emit 20 [(0x35, wordsBytes (s.host.records.take 64).flatten)]).dropPending

/-- Form packets until no record is pending (at most 4,096 records wait: 64 packets). -/
def State.formVerdicts (s : State) : Nat → State
  | 0 => s
  | n + 1 => s.formVerdict.formVerdicts n

/-- Send every status packet that waits for its port. -/
def State.flushStatus (s : State) : State :=
  if s.portUp (s.txPort 22) then
    foldState (fun t ws => t.emitWords 22 ws) { s with host := { s.host with statusQ := [] } } s.host.statusQ
  else s

/-- Send a statistics packet on channel 21, or keep it while its port is disabled, up to 64; the flag says whether it
was taken (R119, R120). (DESIGN CHOICE: notes/assumptions 32.) -/
def State.sendStats (s : State) (ws : List Word) : State × Bool :=
  if s.portUp (s.txPort 21) then (s.emitWords 21 ws, true)
  else if s.host.statsQ.length < 64 then
    ({ s with host := { s.host with statsQ := s.host.statsQ ++ [ws] } }, true)
  else (s, false)

/-- Send every statistics packet that waits for its port. -/
def State.flushStats (s : State) : State :=
  if s.portUp (s.txPort 21) then
    foldState (fun t ws => t.emitWords 21 ws) { s with host := { s.host with statsQ := [] } } s.host.statsQ
  else s

/-- The packets of a line on a tap: a line that finds its port disabled is dropped, counted and notified (R76). -/
def State.tapKeep (s : State) (chan : Nat) (ps : List (Nat × List (Option Byte))) :
    State × List (Nat × List (Option Byte)) :=
  if s.portUp (s.txPort chan) then (s, ps)
  else ((s.bump F.HOST_TX_CNT_TAP_DROP).raise F.HOST_IBI_CAUSE_TX_DROP, [])

/-- Send a packet of channel 23, or keep it while its port is disabled. -/
def State.sendSnap (s : State) (ws : List Word) : State :=
  if s.portUp (s.txPort 23) then s.emitWords 23 ws
  else { s with host := { s.host with snapQ := s.host.snapQ ++ [ws] } }

/-- Send a trace record, or keep it while its port is disabled, behind every snapshot packet (R437). -/
def State.sendTrace (s : State) (ws : List Word) : State :=
  if s.portUp (s.txPort 23) then s.emitWords 23 ws
  else { s with host := { s.host with traceQ := s.host.traceQ ++ [ws] } }

/-- Send every packet of channel 23 that waits for its port: snapshot packets, then trace records (R437). -/
def State.flushSnap (s : State) : State :=
  if s.portUp (s.txPort 23) then
    foldState (fun t ws => t.emitWords 23 ws) { s with host := { s.host with snapQ := [], traceQ := [] } }
      (s.host.snapQ ++ s.host.traceQ)
  else s

/-- Show which transmit ports send: those that are enabled, once the host ports are ready; port 1 not before firmware
runs (R410).
(DEDUCED: notes/assumptions 30.) -/
def State.showTxPorts (s : State) : State :=
  if s.host.csiReady then
    (s.putBit F.HOST_STATUS_TX0_UP (s.on F.HOST_TX_MAP_TX0_EN)).putBit F.HOST_STATUS_TX1_UP
      (s.on F.HOST_STATUS_FW_RUN && s.on F.HOST_TX_MAP_TX1_EN)
  else s

/-- Send what waits for its port: status packets, verdict packets that R76 forms now, statistics, snapshots.
(DEDUCED: notes/assumptions 31.) -/
def State.flushTx (s : State) : State :=
  let n := s.host.records.length
  let k := if s.get F.HOST_CFG_VERDICT_HOLD = 0 then n else n / 64
  ((s.flushStatus.formVerdicts k).flushStats).flushSnap

/-! ### Snapshots and trace (R432 to R437) -/

/-- The entry with a further source bit. -/
def Snap.withSource (e : Snap) (src : Nat) : Snap := { e with sources := Nat.lor e.sources (2 ^ src) }

/-- Merge a firing into a ring entry (R435). -/
def State.snapMerge (s : State) (n src : Nat) : State :=
  match tget? s.snap.ring n with
  | some e =>
    ({ s with snap := { s.snap with ring := tset s.snap.ring n (e.withSource src) } }).bump F.SNAP_CNT_MERGED
  | none => s

/-- Take the next ring entry (R434, R435): the trigger starts to travel, the merge window opens. Its registers are copied as the
token reaches their blocks. -/
def State.snapTake (s : State) (src : Nat) : State :=
  let n := s.get F.SNAP_STAT_NEXT
  let t := ((s.bumpWrap F.SNAP_STAT_SEQ).put F.SNAP_STAT_NEXT (n + 1)).putBit F.SNAP_STAT_BUSY true
  let u := t.bump F.SNAP_CNT_TAKEN
  { u with snap := { u.snap with
      count := (s.snap.count + 1) % 2 ^ 32
      trail := []
      ring := tset u.snap.ring n
        { seq := (s.snap.count + 1) % 2 ^ 32, sources := 2 ^ src, time := s.time.now,
          fenced := (if s.splits.contains 4 then 0 else s.reg R.SCHED_FENCE_MAP_LO) +
            2 ^ 32 * (if s.splits.contains 5 then 0 else s.reg R.SCHED_FENCE_MAP_HI) }
      taking := some n
      holdoff := s.get F.SNAP_HOLDOFF_US != 0
      holdEntry := n } }

/-- One firing of the snapshot trigger from a source (bit 8 is COMMAND), with the ring index it caused, 0xFF when
dropped (R435). -/
def State.snapFire (s : State) (src : Nat) : State × Nat :=
  match s.snap.taking with
  | some n => (s.snapMerge n src, n)
  | none =>
    if s.snap.holdoff && src != 8 then (s.snapMerge s.snap.holdEntry src, s.snap.holdEntry)
    else
      let n := s.get F.SNAP_STAT_NEXT
      if bitAt (s.get F.SNAP_STAT_VALID) n && s.on F.SNAP_CTRL_HOLD then (s.bump F.SNAP_CNT_DROPPED, 0xFF)
      else (s.snapTake src, n)

/-- Fire the snapshot trigger if the source is enabled (R432). -/
def State.snapIf (s : State) (src : Nat) : State :=
  if bitAt (s.get F.SNAP_CTRL_SOURCES) src then (s.snapFire src).1 else s

/-- One trace record of an enabled source, or its drop at the rate limit (R437). -/
def State.traceEvent (s : State) (src id : Nat) : State :=
  if bitAt s.snap.traceSrc src && s.snap.traceRate != 0 then
    let ms := s.time.uptime / 1000000
    let n := if s.snap.traceMs = ms then s.snap.traceN else 0
    let t := { s with snap := { s.snap with traceMs := ms, traceN := n + 1 } }
    if n < s.snap.traceRate then
      t.sendTrace (w32 (0xFE + 2 ^ 8 * src + 2 ^ 16 * id) :: timeWords s.time.now)
    else t.bump F.SNAP_CNT_TRACE_DROP
  else s

/-- An event of bits 3 to 7 of R432: its trace record and its snapshot. -/
def State.event (s : State) (src id : Nat) : State := (s.traceEvent src id).snapIf src

/-- Poison consumed (R329): the snapshot and trace source POISON. -/
def State.poisonConsumed (s : State) (id : Nat := 0) : State := s.event 4 id

/-- Send one tap frame: its header and the packets of the lines that were kept, the poisoned ones with an inverted CRC and
counted, each a consumption (R122, R324, R329). Nothing is sent of a frame all of which met a disabled port. -/
def State.sendTap (s : State) (chan : Nat) (head : Nat × List (Option Byte)) (ls : List (Nat × List (Option Byte))) : State :=
  let ps := head :: ls
  let bad := ps.map fun p => p.2.any (·.isNone)
  let n := (bad.filter id).length
  if s.portUp (s.txPort chan) || !ls.isEmpty then
    timesFrom (fun t _ => (t.bump F.MEM_POISON_CNT_TX).poisonConsumed) n 0
      (s.emit chan (ps.map fun p => (p.1, p.2.map fun b => b.getD 0)) bad)
  else s

/-! ### Timing-dependent choices (R297) -/

/-- The cause fields in the order of DET_TDC_FIRST_S_HI.CAUSE. -/
def tdcField (cause : Nat) : Fld :=
  match cause with
  | 0 => F.DET_TDC_CAUSE0_LATE_CLOSE
  | 1 => F.DET_TDC_CAUSE0_ARM_LATE
  | 2 => F.DET_TDC_CAUSE0_SAMPLE_TIMEOUT
  | 3 => F.DET_TDC_CAUSE0_SAMPLE_OVERFLOW
  | 4 => F.DET_TDC_CAUSE1_LINE_DROP
  | 5 => F.DET_TDC_CAUSE1_PIPE_DROP
  | _ => F.DET_TDC_CAUSE1_FAST_REDUCE

/-- Record the first choice since reset or CLEAR. -/
def State.tdcFirst (s : State) (cause : Nat) : State :=
  if s.tdcSeen then s
  else
    let t := { s with tdcSeen := true }
    ((((t.put F.DET_TDC_FIRST_NS_NS (timeNs s.time.now)).put F.DET_TDC_FIRST_S_LO_S (timeSec s.time.now)).put
      F.DET_TDC_FIRST_S_HI_S (timeSec s.time.now / 2 ^ 32)).put F.DET_TDC_FIRST_S_HI_CAUSE cause)

/-- Count one timing-dependent choice (R297, R298). -/
def State.tdc (s : State) (cause : Nat) : State :=
  ((s.bumpWrap F.DET_TDC_COUNT).bump (tdcField cause)).tdcFirst cause

/-! ### The Ranoz link's sender (R390 to R394) -/

/-- The credits a frame of `n` payload words (64-bit) takes (R394). -/
def frameCredits (n : Nat) : Nat := ceilDiv (24 + 8 * n) 64

/-- Payload words of 64 bits. -/
def RzFrame.len (f : RzFrame) : Nat := ceilDiv f.payload.length 2

/-- The credits available on a virtual lane; a full buffer grants 1,024. -/
def State.vlCredits (s : State) (vl : Nat) : Nat := tgetD s.link.credits vl 0

/-- Show the credits of a virtual lane in LINK_CREDIT, in units of 8 credits (R394). -/
def State.setCredits (s : State) (vl n : Nat) : State :=
  ({ s with link := { s.link with credits := tset s.link.credits vl n } }).put (F.LINK_CREDIT_VL vl) (n / 8)

/-- Start one waiting frame: it takes its sequence number and its credits (R390, R394). -/
def State.startFrame (s : State) (f : RzFrame) : State :=
  let g := { f with seq := s.link.nextSeq }
  let ack := (s.link.expect + 4095) % 4096
  let t := { s with link := { s.link with
      nextSeq := (s.link.nextSeq + 1) % 4096, unacked := s.link.unacked ++ [g], ackOwed := false,
      sent := s.link.sent ++ [(ack, g)] } }
  (t.bumpBy F.LINK_POISON_TX g.poison.length).setCredits f.vl (t.vlCredits f.vl - frameCredits f.len)

/-- Start every waiting frame, in priority order, that the partner's credits allow; frames of one virtual lane stay in
order. -/
def State.pumpList (s : State) : List RzFrame → List Nat → State
  | [], _ => s
  | f :: t, blocked =>
    if blocked.contains f.vl = false ∧ frameCredits f.len ≤ s.vlCredits f.vl then
      (State.startFrame { s with link := { s.link with queue := removeFirst (· == f) s.link.queue } } f).pumpList t
      blocked
    else s.pumpList t (f.vl :: blocked)

/-- Frames in priority order: VL0, VL1, VL3, VL2 (R391). -/
def byPriority (q : List RzFrame) : List RzFrame :=
  q.filter (·.vl == 0) ++ q.filter (·.vl == 1) ++ q.filter (·.vl == 3) ++ q.filter (·.vl == 2)

/-- Whether frames may be sent: the link is up, and a marker has passed since it came up (R388). -/
def State.framesGo (s : State) : Bool := s.on F.LINK_STAT_UP && s.link.start.isNone

/-- Start what may start, while frames may be sent. -/
def State.pump (s : State) : State :=
  if s.framesGo then s.pumpList (byPriority s.link.queue) [] else s

/-- Give the link one frame to send. -/
def State.linkSend (s : State) (kind vl : Nat) (payload : List Word) (poison : List Nat := []) : State :=
  let f : RzFrame := { kind := kind, vl := vl, payload := payload, poison := poison }
  State.pump { s with link := { s.link with queue := s.link.queue ++ [f] } }

/-! ### Replies (R64, R65, R71, R72) -/

/-- The status codes of R79. -/
inductive Status where
  | done | accepted | busy | badOpcode | badParam | resourceHeld | notReady | badState | authFail | poisoned
  | timeout | fenced | overflow | crcFail | preempted | cancelled | noModel | late | truncated | incomplete | linkDown
  deriving DecidableEq, Repr

/-- The code of a status (R79). -/
def Status.code : Status → Nat
  | .done => 0x00 | .accepted => 0x01 | .busy => 0x02 | .badOpcode => 0x03 | .badParam => 0x04
  | .resourceHeld => 0x05 | .notReady => 0x06 | .badState => 0x07 | .authFail => 0x08 | .poisoned => 0x09
  | .timeout => 0x0A | .fenced => 0x0B | .overflow => 0x0C | .crcFail => 0x0D | .preempted => 0x0E
  | .cancelled => 0x0F | .noModel => 0x10 | .late => 0x11 | .truncated => 0x12 | .incomplete => 0x13
  | .linkDown => 0x14

/-- A status packet (R72). -/
def statusPacket (tag : Nat) (st : Status) (ws : List Word) : List Word :=
  let w0 := w32 (tag % 2 ^ 16 + 2 ^ 16 * st.code + 2 ^ 24 * ws.length)
  w0 :: crcWords (w0 :: ws) :: ws

/-- Write the words of a message into a mailbox's data registers. -/
def State.fillBox (s : State) (r : Reg) (ws : List Word) : State :=
  timesFrom (fun t i => match ws[i]? with | some w => t.setReg r w.toNat i | none => t) 16 0 s

/-- Place a status packet in MBX_D2H: data, FULL, the REPLY notification and the watchdog (R65, R66); a DONE that a reset waits for
is waited for no longer, as R466 bounds the wait from here. -/
def State.placeD2h (s : State) (ws : List Word) : State :=
  let t := ((s.fillBox R.MBX_D2H_DATA ws).putBit F.MBX_D2H_GO_FULL true).raise F.HOST_IBI_CAUSE_REPLY
  { t with
    host := { t.host with
      d2hWatch := t.get F.HOST_CFG_MBX_WDT != 0, d2hLast := ws
      resetReply := if t.host.resetReply = ws then [] else t.host.resetReply } }

/-- Give MBX_D2H a status packet: placed at once, queued behind others up to 64, or sent on channel 22 (R65). -/
def State.postD2h (s : State) (ws : List Word) : State :=
  if !s.on F.MBX_D2H_GO_FULL && s.host.d2hQueue.isEmpty then s.placeD2h ws
  else if s.host.d2hQueue.length < 64 then { s with host := { s.host with d2hQueue := s.host.d2hQueue ++ [ws] } }
  else s.sendStatus ws

/-- Put a message in MBX_D2T and send its 16 words to the partner (R396). -/
def State.placeD2t (s : State) (ws : List Word) : State :=
  let t := (s.fillBox R.MBX_D2T_DATA ws).putBit F.MBX_D2T_GO_FULL true
  t.linkSend 0x5 2 ((List.range 16).map fun i => w32 (t.reg R.MBX_D2T_DATA i))

/-- Give MBX_D2T a message: placed when the last one has been taken, otherwise queued. -/
def State.postD2t (s : State) (ws : List Word) : State :=
  if !s.on F.MBX_D2T_GO_FULL && s.link.d2tQueue.isEmpty then s.placeD2t ws
  else { s with link := { s.link with d2tQueue := s.link.d2tQueue ++ [ws] } }

/-- Where the replies of a command go (R71). -/
def State.routeReply (s : State) (src : Source) (csi : Bool) (ws : List Word) : State :=
  match src with
  | .h2d => if csi then s.sendStatus ws else s.postD2h ws
  | .csi _ => s.sendStatus ws
  | .t2d => s.postD2t ws

/-- Send one reply of a command: QUIET suppresses ACCEPTED and DONE alone (R67); a command that completes with
POISONED is counted (R329). -/
def State.reply (s : State) (src : Source) (c : Cmd) (st : Status) (ws : List Word := []) : State :=
  let t := if st = .poisoned then (s.bump F.MEM_POISON_CNT_HOST_READ).poisonConsumed else s
  if c.quiet && (st == .done || st == .accepted) then t
  else t.routeReply src c.replyCsi (statusPacket c.tag st ws)

/-! ### Resources (R49 to R52) -/

/-- The owner codes of SYS_OWN. -/
def ownNone : Nat := 0x00
def ownDebounced : Nat := 0x01
def ownProbe : Nat := 0x02
def ownQuadrature : Nat := 0x03
def ownSsi : Nat := 0x04
def ownEjector : Nat := 0x05
def ownLineTrigger : Nat := 0x06
def ownStop : Nat := 0x07
def ownGeneral : Nat := 0x08
def ownSnapshot : Nat := 0x09
def ownLaunch : Nat := 0x0A
def ownCamera : Nat := 0x0B
def ownLineStore : Nat := 0x0C

/-- A write of a critical word stores all three copies (R314). -/
def State.stored (s : State) (w : Nat) : State := { s with copies := tdel s.copies w }

/-- Whether the critical word of an index (R313 order) has split. -/
def State.splitWord (s : State) (i : Nat) : Bool := s.splits.contains i

/-- A resource's register as it is used: a split word of it is its reset value (R315). -/
def State.ownReg (s : State) (i : Nat) : Nat :=
  if decide (i ≤ 12) && s.splitWord (32 + i) then R.SYS_OWN.reset i 0 else s.reg R.SYS_OWN i

/-- The owner of a resource. -/
def State.owner (s : State) (i : Nat) : Nat := bitsOf (s.ownReg i) F.SYS_OWN_OWNER.lo F.SYS_OWN_OWNER.width

/-- The instance of a resource's owner. -/
def State.ownerInst (s : State) (i : Nat) : Nat := bitsOf (s.ownReg i) F.SYS_OWN_INSTANCE.lo F.SYS_OWN_INSTANCE.width

/-- Whether a resource is held by another feature or instance than the one that asks (R50); `free` is the owner code
that counts as not held. -/
def State.heldByOther (s : State) (i owner inst : Nat) (free : Nat := 0) : Bool :=
  s.owner i != free && !(s.owner i == owner && s.ownerInst i == inst)

/-- Give a resource to a feature. -/
def State.own (s : State) (i owner inst : Nat) : State :=
  let t := (s.put F.SYS_OWN_OWNER owner i).put F.SYS_OWN_INSTANCE inst i
  if i ≤ 12 then t.stored (32 + i) else t

/-! ### Critical words (R313 to R315) -/

/-- Whether any critical word has split. -/
def State.isSplit (s : State) : Bool := s.on F.MEM_TMR_STAT_SPLIT

/-! ### Verdict records (R76, R78) -/

/-- Add a finished record to those pending, or drop it; 64 pending records leave at once (R76). With VERDICT_HOLD 0 those of one
instant leave together, by the row of its expiry. (DEDUCED: notes/assumptions 213.) -/
def State.addRecord (s : State) (ws : List Word) : State :=
  let t := { s with host := { s.host with recSeq := (s.host.recSeq + 1) % 2 ^ 16 } }
  if t.host.records.length < 4096 then
    let u := { t with host := { t.host with records := t.host.records ++ [ws] } }
    if 64 ≤ u.host.records.length then u.formVerdict else u
  else t.dropRecord

/-- The flags of word 3 of a verdict record. -/
structure RecFlags where
  late       : Bool := false
  poison     : Bool := false
  incomplete : Bool := false
  scaleAlarm : Bool := false
  early      : Bool := false
  mismatch   : Bool := false
  truncated  : Bool := false
  sample     : Bool := false
  deriving DecidableEq, Repr

/-- The flag bits [31:24] of word 3. -/
def RecFlags.bits (f : RecFlags) : Nat :=
  bit f.late + 2 * bit f.poison + 4 * bit f.incomplete + 8 * bit f.scaleAlarm + 16 * bit f.early +
  32 * bit f.mismatch + 64 * bit f.truncated + 128 * bit f.sample

/-- The words of a verdict record (R78): the two data words of the subject are given, the rest is laid out here. -/
def recordWords (serial w1 w2 hi16 conf : Nat) (f : RecFlags) (time seq : Nat) : List Word :=
  let ws := [w32 serial, w32 w1, w32 w2, w32 (hi16 % 2 ^ 16 + 2 ^ 16 * (conf % 2 ^ 8) + 2 ^ 24 * f.bits),
    w32 (timeNs time), w32 (timeSec time), w32 (timeSec time / 2 ^ 32 % 2 ^ 16 + 2 ^ 16 * seq)]
  ws ++ [crcWords ws]

/-- Generate a record: the LATE and POISON consequences, then the packet (R329, R432). `id` names the bobbin in
trace records. -/
def State.record (s : State) (serial w1 w2 hi16 conf : Nat) (f : RecFlags) (time id : Nat) : State :=
  let t := s.addRecord (recordWords serial w1 w2 hi16 conf f time s.host.recSeq)
  let u := if f.late then (t.raise F.HOST_IBI_CAUSE_LATE).event 3 id else t
  if f.poison then (u.bump F.MEM_POISON_CNT_VERDICT).poisonConsumed id else u

/-! ### Acting on the device -/

/-- A command or event on the device: nothing happens while the device is held in reset (R443).
(DESIGN CHOICE: notes/assumptions 3, 5.) -/
def onDevice (s : State) (f : State → State) : Host.Outcome State Fault Refusal :=
  .next (if s.boot.held then s else f s)

end Sys2Proof.Machine
end

