-- ==== Sys2Proof/Machine/FieldDie.lean ====
section
/-! DEFINITION. The field die (chapters 01 and 15): its eject table and compares, pulses and outputs, inputs, encoders, the
safe state, its end of the field link, and the messages it takes. -/

namespace Sys2Proof.Machine

/-- An event on the field die: nothing happens while it is unpowered (R444). -/
def onDie (s : State) (f : State → State) : Host.Outcome State Fault Refusal :=
  .next (if s.die.powered then f s else s)

/-! ### The field die's copy of its settings (R345) -/

/-- The message index of a FIELD register: its offset in words (R335). -/
def cfgIndex (r : Reg) (i : Nat) : Nat := (r.addr i 0 - R.FIELD_LINK_STAT.base) / 4

/-- The index of FIELD_TABLE_CLEAR (R411). -/
def clearIndex : Nat := cfgIndex R.FIELD_TABLE_CLEAR 0

/-- The field die's copy of a register. A split triplicated word acts as its reset value (R315). -/
def State.copyOf (s : State) (r : Reg) (i : Nat := 0) : Nat :=
  if s.die.splits.contains (cfgIndex r i) then r.reset i 0 else tgetD s.die.copy (cfgIndex r i) (r.reset i 0)

/-- A field of the field die's copy. -/
def State.dget (s : State) (f : Fld) (i : Nat := 0) : Nat := bitsOf (s.copyOf f.reg i) f.lo f.width

/-! ### Times and reports -/

/-- A device time at the 5 ns resolution of R25. (DEDUCED: notes/assumptions 59.) -/
def stamp5 (t : Nat) : Nat := t / (5 * nsUnit) * (5 * nsUnit)

/-- The report of an entry event, in the order of the events (R336). -/
def State.report (s : State) (r : Report) : State :=
  { s with die := { s.die with entries := s.die.entries ++ [{ what := r, time := stamp5 s.time.now }] } }

/-- A LATCH or INDEX report. -/
def State.reportFirst (s : State) (r : Report) : State :=
  { s with die := { s.die with first := s.die.first ++ [{ what := r, time := stamp5 s.time.now }] } }

/-- One snapshot of each channel's count falls due (R339); of an earlier one nothing more is sent. -/
def FieldDie.snapshot (d : FieldDie) : FieldDie :=
  { d with syncDue := [0, 1], first := d.first.filter fun r => match r.what with | .sync _ _ _ => false | _ => true }

/-- STATUS falls due: it is sent on each change (R336). -/
def State.statusDue (s : State) : State := { s with die := { s.die with stDue := true } }

/-- Count in a tally of the field die. -/
def State.tallyUp (s : State) (k : Nat) : State :=
  { s with die := { s.die with tally := tset s.die.tally k (tgetD s.die.tally k 0 + 1) } }

/-! ### Encoders (R356 to R362) -/

/-- An encoder channel of the field die. -/
def State.encCh (s : State) (c : Nat) : EncCh := tgetD s.die.enc c {}

/-- Change an encoder channel. -/
def State.setEnc (s : State) (c : Nat) (e : EncCh) : State := { s with die := { s.die with enc := tset s.die.enc c e } }

/-- The ejection position follows the count with a hysteresis of one count (R359). -/
def EncCh.follow (e : EncCh) : EncCh :=
  if e.fwd then
    if e.pos < e.count then { e with pos := e.count }
    else if e.count ≤ e.pos - 2 then { e with fwd := false, pos := e.count }
    else e
  else if e.count < e.pos then { e with pos := e.count }
  else if e.pos + 2 ≤ e.count then { e with fwd := true, pos := e.count }
  else e

/-- The ejection position of a channel. -/
def State.pos (s : State) (c : Nat) : Int := (s.encCh c).pos

/-- The first multiple of a period above a position. -/
def nextMultiple (p : Int) (period : Nat) : Int := (p / period + 1) * period

/-- Line-trigger output `i` (R99): its pulse starts when the position reaches its next multiple. In the safe state, and
while the output has another function, the multiple passes without a pulse. (DEDUCED: notes/assumptions 41.) -/
def State.lineTrigger (s : State) (ch i : Nat) : State :=
  let per := s.dget F.FIELD_FO_TRIG_PERIOD_PERIOD i
  if per ≠ 0 ∧ s.dget F.FIELD_FO_TRIG_PERIOD_ENC i = ch then
    match tget? s.die.trigNext i with
    | some m =>
      if m ≤ s.pos ch then
        let shows := s.dget (F.FIELD_FO_FUNC_FUNC i) == 2 && !s.die.safe
        { s with die := { s.die with
            trigNext := tset s.die.trigNext i (nextMultiple (s.pos ch) per)
            trigOn := if shows then Nat.lor s.die.trigOn (2 ^ i) else s.die.trigOn } }
      else s
    | none => s
  else s

/-- A channel's count takes a new value: the position follows, and line triggers pulse. -/
def State.setCount (s : State) (ch : Nat) (e : EncCh) (v : Int) : State :=
  timesFrom (fun t i => t.lineTrigger ch i) 8 0 (s.setEnc ch (EncCh.follow { e with count := wrap48 v }))

/-- The retained intervals after one more count: an interval between counts of opposite direction is discarded, the last
16 are kept (R360). -/
def EncCh.span (e : EncCh) (fwd : Bool) (clocks : Nat) : EncCh :=
  { e with
    lastDir := some fwd
    spans := if e.lastDir = some fwd then ((fwd, clocks) :: e.spans).take 16 else e.spans }

/-- The reported speed in units of 2 cnt/s (R336, R360): the retained counts over their clocks of 5 ns. -/
def EncCh.halves (e : EncCh) : Int :=
  let n : Int := (e.spans.map fun p => if p.1 then (1 : Int) else -1).sum
  let d : Nat := (e.spans.map (·.2)).sum
  if d = 0 then 0 else n * 100000000 / d

/-! ### Outputs (R349 to R354, R402) -/

/-- Whether the twin gate is closed on the field die. -/
def State.gateClosed (s : State) : Bool := s.dget F.FIELD_TWIN_GATE_CLOSED != 0

/-- The level of output `i` outside fault and safe state. -/
def State.funcLevel (s : State) (i : Nat) : Bool :=
  match s.dget (F.FIELD_FO_FUNC_FUNC i) with
  | 1 => !s.gateClosed && s.die.pulses.any fun p => bitAt p.mask i
  | 2 => bitAt s.die.trigOn i
  | 3 => s.gateClosed || !s.die.stop
  | 4 => !s.gateClosed && s.dget (F.FIELD_FO_FUNC_LEVEL i) != 0
  | _ => false

/-- Whether output `i` is driven on. -/
def State.outLevel (s : State) (i : Nat) : Bool :=
  if !s.die.powered || bitAt s.die.faults i then false
  else if s.die.safe then bitAt (s.dget F.FIELD_SAFE_VALUES_VALUES) i
  else s.funcLevel i

/-- The levels of FO0 to FO7 as bits. -/
def State.outLevels (s : State) : Nat := ((List.range 8).map fun i => 2 ^ i * bit (s.outLevel i)).sum

/-- The outputs that the gate holds. -/
def State.gateHeld (s : State) : Nat :=
  if s.gateClosed && !s.die.safe then
    ((List.range 8).map fun i => 2 ^ i * bit ([1, 3, 4].contains (s.dget (F.FIELD_FO_FUNC_FUNC i)))).sum
  else 0

/-! ### The eject table (R17 to R23, R335 to R343, R363 to R365) -/

/-- An entry of the table. -/
def State.entry (s : State) (e : Nat) : Entry := tgetD s.die.table e {}

/-- Change an entry. -/
def State.setEntry (s : State) (e : Nat) (x : Entry) : State :=
  { s with die := { s.die with table := tset s.die.table e x } }

/-- An entry becomes free; its answered mark stays (R337), and so does an error of its storage. -/
def State.freeEntry (s : State) (e : Nat) : State := s.setEntry e { answered := (s.entry e).answered, flaw := (s.entry e).flaw }

/-- The code of STOP (R27). -/
def actStop : Nat := 2

/-- The stop-request latch is set (R351). -/
def State.setStop (s : State) : State :=
  (if s.die.stop then s else { s with die := { s.die with stop := true, stops := s.die.stops + 1 } }).statusDue

/-- The action that becomes final at the close. -/
def Entry.decided (x : Entry) : Nat := x.amended.getD x.prov

/-- Make an entry's action final (R21, R23). -/
def State.closeEntry (s : State) (e : Nat) : State :=
  let x := s.entry e
  let t := s.setEntry e { x with closed := true, final := x.decided }
  if x.decided = actStop then t.setStop else t

/-- The answer to an amendment at the field die (R20, R337, R338). -/
def State.amendEntry (s : State) (e action : Nat) : State :=
  let x := s.entry e
  if x.answered then s
  else
    match x.phase with
    | .armed =>
      if x.closed then (s.setEntry e { x with answered := true }).report (.reject e false)
      else (s.setEntry e { x with amended := some action, answered := true }).report (.accept e)
    | .free => (s.setEntry e { x with answered := true }).report (.reject e true)
    | _ => s

/-- Every amendment that has arrived is answered before what the same clock or a later one brings: the event wins (R20, R46,
R337); in the safe state none is taken (R341). -/
def State.answerAmends (s : State) : State :=
  let t := { s with die := { s.die with amendIn := [] } }
  if s.die.safe then t else foldState (fun u a => u.amendEntry a.1 a.2) t s.die.amendIn

/-- Enter the safe state with a cause (R340, R341). In the safe state a lasting cause replaces the recorded one.
(DEDUCED: notes/assumptions 127.) -/
def State.enterSafe (s : State) (cause : Nat) : State :=
  if s.die.safe then
    (if 2 ≤ cause then { s with die := { s.die with cause := cause, runs := 0 } } else s).statusDue
  else
    let t := s.answerAmends
    State.statusDue { t with die := { t.die with safe := true, cause := cause, runs := 0, pulses := [], trigOn := 0 } }

/-- An error of a table entry is found (R363): a single-bit one is corrected and counted, an uncorrectable one of an armed entry leads
into the safe state. -/
def State.foundFlaw (s : State) (uncorrectable : Bool) : State := if uncorrectable then s.enterSafe 3 else s.tallyUp 1

/-- An entry that has become armed is checked in the next clock (R363). -/
def State.checkArmed (s : State) (e : Nat) : State :=
  let x := s.entry e
  match x.flaw with
  | some u => if x.phase = .armed then (s.setEntry e { x with flaw := none }).foundFlaw u else s
  | none => s

/-- An entry that is not armed is checked as it is written (R363): the write replaces what cannot be corrected. -/
def State.checkWritten (s : State) (e : Nat) : State :=
  let x := s.entry e
  match x.flaw with
  | some u => let t := s.setEntry e { x with flaw := none }; if u then t else t.tallyUp 1
  | none => s

/-- Judge a complete entry at the ejection position (R18). -/
def State.judge (s : State) (e : Nat) : State :=
  let x := s.entry e
  let p := s.pos x.enc
  if x.eject ≤ p then (s.freeEntry e).report (.refuse e)
  else if x.close ≤ p then
    State.checkArmed ((State.closeEntry (s.setEntry e { x with phase := .armed, amended := none }) e).report (.ack e true)) e
  else State.checkArmed ((s.setEntry e { x with phase := .armed }).report (.ack e false)) e

/-- The treatment of one entry at the exit from the safe state (R343). -/
def State.exitEntry (s : State) (e : Nat) : State :=
  let x := s.entry e
  let p := s.pos x.enc
  match x.phase with
  | .held => s.judge e
  | .armed =>
    let t := if x.closed || decide (p < x.close) then s
      else (s.closeEntry e).report (.close e x.amended.isSome)
    if x.eject ≤ p then (t.freeEntry e).report (.eject e true 1) else t
  | _ => s

/-- An entry whose time expired in the safe state is discarded after the treatment (R343, R365).
(DEDUCED: notes/assumptions 133.) -/
def State.exitLate (s : State) (e : Nat) : State :=
  let x := s.entry e
  if x.phase = .armed ∧ x.late = true then (s.freeEntry e).report (.eject e true 2) else s

/-- Leave the safe state (R342, R343); an uncorrectable error of an entry that the exit has armed leads back into it (R363). -/
def State.leaveSafe (s : State) : State :=
  let es := s.die.table.map (·.1)
  let t := foldState (fun u e => u.exitLate e) (foldState (fun u e => u.exitEntry e) s es) es
  let n := s.die.entries.length
  let u := State.statusDue { t with die := { t.die with
    safe := false, powerup := false, runs := 0
    entries := t.die.entries.take n ++ (t.die.entries.drop n).map fun r => { r with atExit := true } } }
  if 2 ≤ t.die.cause then u.enterSafe t.die.cause else u

/-- SAFE_STATE_EXIT (R342, R343): the 64th consecutive good frame that carries RUN has been checked; after causes 0b010 and
0b011 the field die does not leave. -/
def execSafeStateExit (s : State) : Host.Outcome State Fault Refusal :=
  onDie s fun s => if s.die.safe ∧ 64 ≤ s.die.runs ∧ s.die.cause < 2 then s.leaveSafe else s

/-- The close compare of an entry (R21, R22). -/
def State.closeMatch (s : State) (e : Nat) : State :=
  let x := s.entry e
  if s.die.safe = false ∧ x.phase = .armed ∧ x.closed = false ∧ x.close ≤ s.pos x.enc then
    (s.closeEntry e).report (.close e x.amended.isSome)
  else s

/-- CLOSE_MATCH (R20 to R22): once, when the position has reached the close count; an amendment that has arrived by then is
taken first. -/
def execCloseMatch (entry : Fin 256) (s : State) : Host.Outcome State Fault Refusal :=
  onDie s fun s => s.answerAmends.closeMatch entry.val

/-- The pulse of an entry (R23, R364), from now on. -/
def State.pulseOf (s : State) (x : Entry) (e : Nat) : Pulse :=
  { entry := e, mask := x.mask, enc := x.enc, unitUs := x.unitUs, ends := x.eject + x.width
    limit := s.time.uptime + (if x.unitUs then x.width * 1000 else max 1 (s.dget F.FIELD_PULSE_MAX_MS) * 1000000) }

/-- The eject compare of an entry (R22, R23): it fires once; a final action other than PASS starts its pulse. -/
def State.ejectMatch (s : State) (e : Nat) : State :=
  let x := s.entry e
  if s.die.safe = false ∧ x.phase = .armed ∧ x.closed = true ∧ x.eject ≤ s.pos x.enc then
    let t := if x.final = 0 then s else { s with die := { s.die with pulses := s.die.pulses ++ [s.pulseOf x e] } }
    (t.freeEntry e).report (.eject e false 0)
  else s

/-- EJECT_MATCH (R22, R23). -/
def execEjectMatch (entry : Fin 256) (s : State) : Host.Outcome State Fault Refusal := onDie s fun s => s.ejectMatch entry.val

/-- When a pulse ends, as far as the state says: at once where its count has been reached, else at its limit. -/
def State.pulseDue (s : State) (p : Pulse) : Nat := if !p.unitUs && decide (p.ends ≤ s.pos p.enc) then 0 else p.limit

/-- The pulse of an entry number that ends first: a number that has been used again can have several (R23). -/
def State.endingPulse (s : State) (e : Nat) : Option Pulse :=
  match s.die.pulses.filter (·.entry == e) with
  | [] => none
  | p :: t => some (t.foldl (fun a b => if s.pulseDue b < s.pulseDue a then b else a) p)

/-- PULSE_END (R364): a µs pulse after its width; a count pulse once the position has reached its end, otherwise at
FIELD_PULSE_MAX, which is counted. (DEDUCED: notes/assumptions 128.) -/
def execPulseEnd (entry : Fin 256) (s : State) : Host.Outcome State Fault Refusal :=
  onDie s fun s =>
    match s.endingPulse entry.val with
    | none => s
    | some p =>
      let t := { s with die := { s.die with pulses := removeFirst (· == p) s.die.pulses } }
      if p.unitUs || decide (p.ends ≤ s.pos p.enc) then t else t.tallyUp 0

/-- An entry's time is up (R365): discarded without a close and without a pulse; in the safe state only at the exit. -/
def State.entryTmo (s : State) (e : Nat) : State :=
  let x := s.entry e
  if s.dget F.FIELD_ENTRY_TMO_S ≠ 0 ∧ x.phase = .armed then
    if s.die.safe then s.setEntry e { x with late := true } else (s.freeEntry e).report (.eject e true 2)
  else s

/-- ENTRY_TMO_EXPIRE (R46, R48, R365): an amendment that has arrived by then is taken first, and a count that the position has reached
is matched first. -/
def execEntryTmoExpire (entry : Fin 256) (s : State) : Host.Outcome State Fault Refusal :=
  onDie s fun s => ((s.answerAmends.closeMatch entry.val).ejectMatch entry.val).entryTmo entry.val

/-- EJECT_TABLE_ERROR (R363): a single-bit error in an armed entry is corrected and counted, an uncorrectable one puts the
field die into its safe state with cause 0b011. In an entry that is not armed an error stands until the entry is written or armed. -/
def execEjectTableError (entry : Fin 256) (uncorrectable : Bool) (s : State) : Host.Outcome State Fault Refusal :=
  onDie s fun s =>
    let x := s.entry entry.val
    if x.phase = .armed then s.foundFlaw uncorrectable
    else s.setEntry entry.val { x with flaw := some (uncorrectable || x.flaw.isSome) }

/-- AMEND_ARRIVE (R20): the amendment of the last frame; in the safe state none is taken (R341). -/
def execAmendArrive (s : State) : Host.Outcome State Fault Refusal :=
  onDie s fun s =>
    match s.die.amendIn with
    | [] => s
    | (e, a) :: t =>
      let u := { s with die := { s.die with amendIn := t } }
      if s.die.safe then u else u.amendEntry e a

/-! ### Messages taken (R335, R341) -/

/-- The oldest message taken and not yet applied. -/
def State.dieMsg (s : State) : Option Msg := s.die.link.inbox.head?

/-- The state without that message. -/
def State.dropMsg (s : State) : State :=
  { s with die := { s.die with link := { s.die.link with inbox := s.die.link.inbox.tail } } }

/-- FIELD_ENTRY_A (R335): the entry is written afresh; its answered mark clears (R337). -/
def execFieldEntryA (s : State) : Host.Outcome State Fault Refusal :=
  onDie s fun s =>
    match s.dieMsg with
    | some (.entryA e b mask enc prov us) =>
      let t := s.dropMsg.checkWritten e
      State.setEntry { t with die := { t.die with loading := e } } e
        { phase := .partA, bobbin := b, mask := mask, enc := enc, prov := prov, unitUs := us }
    | _ => s

/-- FIELD_ENTRY_B (R335): the low 40 bits of the eject count. -/
def execFieldEntryB (s : State) : Host.Outcome State Fault Refusal :=
  onDie s fun s =>
    match s.dieMsg with
    | some (.entryB low) =>
      let t := s.dropMsg.checkWritten s.die.loading
      let x := t.entry s.die.loading
      if x.phase = .partA then t.setEntry s.die.loading { x with phase := .partB, low := low } else s.dropMsg
    | _ => s

/-- FIELD_ENTRY_C (R17, R18, R341): the entry is complete; it is judged, or held unarmed in the safe state. -/
def execFieldEntryC (s : State) : Host.Outcome State Fault Refusal :=
  onDie s fun s =>
    match s.dieMsg with
    | some (.entryC high lead width) =>
      let e := s.die.loading
      let u := s.dropMsg.checkWritten e
      let x := u.entry e
      if x.phase = .partB then
        let eject := signed 48 (x.low + 2 ^ 40 * high)
        let t := u.setEntry e { x with phase := .held, eject := eject, close := eject - lead, width := width }
        if s.die.safe then t else t.judge e
      else s.dropMsg
    | _ => s

/-- The next multiple of a line trigger after its setting is taken (R99). -/
def State.armTrigger (s : State) (i : Nat) : State :=
  let per := s.dget F.FIELD_FO_TRIG_PERIOD_PERIOD i
  let ch := s.dget F.FIELD_FO_TRIG_PERIOD_ENC i
  { s with die := { s.die with
      trigNext := if per = 0 then tdel s.die.trigNext i
        else tset s.die.trigNext i (nextMultiple (s.pos ch) per) } }

/-- FI_STATE falls due on a change of a reported level. -/
def State.setDeb (s : State) (i : Nat) (b : Bool) : State :=
  if bitAt s.die.deb i = b then s
  else { s with die := { s.die with deb := setBits s.die.deb i 1 (bit b), fiDue := true } }

/-- Whether an input latches as a probe. -/
def State.isProbe (s : State) (i : Nat) : Bool := decide (i < 4) && s.dget (F.FIELD_PROBE_CFG_EN i) != 0

/-- Whether an input's sampled level is used as it is: a probe (R336, R348), or debounce 0 (R347). -/
def State.undebounced (s : State) (i : Nat) : Bool := s.isProbe i || s.dget F.FIELD_FI_CFG_DEBOUNCE i == 0

/-- Inputs that a setting leaves without debounce show their sampled level. -/
def State.showRaw (s : State) : State :=
  timesFrom (fun t i => if t.undebounced i then t.setDeb i (bitAt t.die.raw i) else t) 16 0 s

/-- Whether a setting is that of the probes or of an input's debounce. -/
def isInputCfg (k : Nat) : Bool :=
  k == cfgIndex R.FIELD_PROBE_CFG 0 || (List.range 16).any fun i => k == cfgIndex R.FIELD_FI_CFG i

/-- Write the field die's copy of a register, with what the new value starts: a line trigger's multiples, the load of an
SSI position, an input's undebounced level. -/
def State.takeCfg (s : State) (k v : Nat) : State :=
  let old := s.dget F.FIELD_ENC_CFG_MODE 1
  let w := if k = cfgIndex R.FIELD_SAFE_VALUES 0 then 45 else if k = cfgIndex R.FIELD_ENC_CFG 0 then 46
    else if k = cfgIndex R.FIELD_ENC_CFG 1 then 47 else 48
  let t := State.stored { s with die := { s.die with copy := tset s.die.copy k v } } w
  let i := (k - cfgIndex R.FIELD_FO_TRIG_PERIOD 0) / 2
  if cfgIndex R.FIELD_FO_TRIG_PERIOD 0 ≤ k ∧ k = cfgIndex R.FIELD_FO_TRIG_PERIOD i ∧ i < 8 then t.armTrigger i
  else if k = cfgIndex R.FIELD_ENC_CFG 1 ∧ t.dget F.FIELD_ENC_CFG_MODE 1 = 1 ∧ old ≠ 1 then
    t.setEnc 1 { t.encCh 1 with ssi := none }
  else if isInputCfg k then t.showRaw
  else t

/-- FIELD_CFG_MSG (R345): a setting takes effect in the field die. -/
def execFieldCfgMsg (s : State) : Host.Outcome State Fault Refusal :=
  onDie s fun s =>
    match s.dieMsg with
    | some (.cfg k v) => if k = clearIndex then s else s.dropMsg.takeCfg k v
    | _ => s

/-- FIELD_TABLE_CLEAR (R411): every entry becomes free, with no report and no pulse, in any state. -/
def execFieldTableClear (s : State) : Host.Outcome State Fault Refusal :=
  onDie s fun s =>
    match s.dieMsg with
    | some (.cfg k v) =>
      if k = clearIndex then
        if bitAt v 0 then foldState (fun t e => t.freeEntry e) s.dropMsg (s.die.table.map (·.1)) else s.dropMsg
      else s
    | _ => s

/-- FIELD_STOP_CLEAR_MSG (R351). -/
def execFieldStopClearMsg (s : State) : Host.Outcome State Fault Refusal :=
  onDie s fun s =>
    match s.dieMsg with
    | some .stopClear =>
      let t := s.dropMsg
      State.statusDue { t with die := { t.die with stop := false } }
    | _ => s

/-! ### Field inputs (R347, R348) -/

/-- Set or clear a bit of a word of levels. -/
def withBit (x i : Nat) (b : Bool) : Nat := setBits x i 1 (bit b)

/-- The LATCH reports of an input that wait. -/
def State.latchesWaiting (s : State) (i : Nat) : Nat :=
  (s.die.first.filter fun r => match r.what with | .latch j _ _ => j == i | _ => false).length

/-- Latch the count of a probe's channel (R348); a latch that finds 16 waiting is lost and counted. -/
def State.probeLatch (s : State) (i : Nat) : State :=
  let c := s.dget (F.FIELD_PROBE_CFG_ENC i)
  if s.latchesWaiting i < 16 then s.reportFirst (.latch i c (unsigned 24 (s.encCh c).count)) else s.tallyUp (2 + i)

/-- FI_EDGE (R347, R348): the sampled level changes; a probe bypasses debounce, debounce 0 uses the level directly. -/
def execFiEdge (input : Fin 16) (level : Bool) (s : State) : Host.Outcome State Fault Refusal :=
  onDie s fun s =>
    let i := input.val
    if bitAt s.die.raw i = level then s
    else
      let t := { s with die := { s.die with raw := withBit s.die.raw i level } }
      if t.isProbe i then
        let u := t.setDeb i level
        if level = (t.dget (F.FIELD_PROBE_CFG_FALL i) == 0) then u.probeLatch i else u
      else if t.dget F.FIELD_FI_CFG_DEBOUNCE i = 0 then t.setDeb i level
      else t

/-- DEBOUNCE_EXPIRE (R347): the level has held for the debounce time. -/
def execDebounceExpire (input : Fin 16) (s : State) : Host.Outcome State Fault Refusal :=
  onDie s fun s => s.setDeb input.val (bitAt s.die.raw input.val)

/-! ### Encoder events -/

/-- Whether a change of one of A and B goes forward in the quadrature sequence 00, 10, 11, 01 of A and B: A leads.
(PRESUMED: notes/assumptions 125.) -/
def quadForward (a b a' b' : Bool) : Bool := if a = a' then xor b' !a else xor a' b

/-- The filtered levels of A and B change (R358): one change counts one in the direction of the sequence, a change of both is illegal. -/
def State.quadChange (s : State) (c : Nat) (a b : Bool) (clocks : Nat) : State :=
  let e := s.encCh c
  let t := s.setEnc c { e with a := a, b := b }
  if e.a = a ∧ e.b = b then s
  else if e.a ≠ a ∧ e.b ≠ b then t.tallyUp (6 + c)
  else
    let fwd := xor (quadForward e.a e.b a b) (s.dget F.FIELD_ENC_CFG_INVERT c != 0)
    let x := (t.encCh c).span fwd clocks
    t.setCount c x (if fwd then x.count + 1 else x.count - 1)

/-- ENC_QUAD_EDGE (R356, R358): a change of A or B counts once it has held for the filter time; only in quadrature mode.
(DEDUCED: notes/assumptions 231.) -/
def execEncQuadEdge (ch : Fin 2) (levels : QuadSample) (clocks : Nat) (s : State) : Host.Outcome State Fault Refusal :=
  onDie s fun s =>
    if s.dget F.FIELD_ENC_CFG_MODE ch.val ≠ 0 ∨ levels.held < s.dget F.FIELD_ENC_CFG_FILTER ch.val then s
    else s.quadChange ch.val levels.a levels.b clocks

/-- ENC_Z_EDGE (R361): the count is latched; a latch outside tolerance from the last one in the same direction is counted.
Ignored in SSI mode. -/
def execEncZEdge (ch : Fin 2) (s : State) : Host.Outcome State Fault Refusal :=
  onDie s fun s =>
    if s.dget F.FIELD_ENC_CFG_MODE ch.val = 1 then s
    else
      let e := s.encCh ch.val
      let dir := e.lastDir.getD e.fwd
      let pitch := s.dget F.FIELD_ENC_ZCHECK_PITCH ch.val
      let drift := match e.zLast with
        | some (c, d) => decide (pitch ≠ 0) && d == dir &&
            decide (s.dget F.FIELD_ENC_ZCHECK_TOL ch.val < ((e.count - c).natAbs - (pitch : Int)).natAbs)
        | none => false
      let t := (s.setEnc ch.val { e with zLast := some (e.count, dir) }).reportFirst
        (.index ch.val (unsigned 24 e.count))
      if drift then t.tallyUp (8 + ch.val) else t

/-- ENC_LINE_FAULT (R356, R358): an RS-422 pair is open or shorted, or no longer so; the count is kept. An HTL channel has no
pairs. -/
def execEncLineFault (ch : Fin 2) (fault : Bool) (s : State) : Host.Outcome State Fault Refusal :=
  onDie s fun s => if Config.encHtl ch.val then s else (s.setEnc ch.val { s.encCh ch.val with fault := fault }).statusDue

/-- Gray code to binary, `n` bits from the top. -/
def grayFrom : Nat → Nat → Nat → Nat
  | 0, _, b => b
  | n + 1, g, b => grayFrom n g (2 * b + bit (xor (bitAt g n) (bitAt b 0)))

/-- The position that an SSI word spells (R362). (DEDUCED: notes/assumptions 129.) -/
def State.ssiPos (s : State) (raw : Nat) : Nat :=
  let n := s.dget F.FIELD_ENC_CFG_SSI_BITS 1
  let w := raw % 2 ^ n
  if s.dget F.FIELD_ENC_CFG_GRAY 1 = 1 then grayFrom n w 0 else w

/-- SSI_READ (R357, R362): the first position read is loaded; a later one moves the count by the signed difference; a read
with the line not idle high, or with too large a difference, is rejected and counted. -/
def execSsiRead (raw : Nat) (idleHigh : Bool) (clocks : Nat) (s : State) : Host.Outcome State Fault Refusal :=
  onDie s fun s =>
    if s.dget F.FIELD_ENC_CFG_MODE 1 ≠ 1 then s
    else if !idleHigh then s.tallyUp 11
    else
      let e := s.encCh 1
      let n := s.dget F.FIELD_ENC_CFG_SSI_BITS 1
      let p := s.ssiPos raw
      match e.ssi with
      | none => s.setCount 1 { e with ssi := some p } p
      | some q =>
        let d := signed n (unsigned n ((p : Int) - q))
        if 2 ^ (n - 2) < d.natAbs then s.tallyUp 11
        else
          let step := if s.dget F.FIELD_ENC_CFG_INVERT 1 = 1 then -d else d
          let f := if step = 0 then e else e.span (decide (0 < step)) (clocks / step.natAbs)
          s.setCount 1 { f with ssi := some p } (e.count + step)

/-! ### Periodic reports, outputs and supply -/

/-- SYNC_SNAPSHOT (R339): a SYNC of each channel falls due, replacing one that still waits. -/
def execSyncSnapshot (s : State) : Host.Outcome State Fault Refusal :=
  onDie s fun s => { s with die := s.die.snapshot }

/-- STATUS_PERIODIC (R336). -/
def execStatusPeriodic (s : State) : Host.Outcome State Fault Refusal := onDie s State.statusDue

/-- SPEED_PERIODIC (R336, R360): the speed is 0 when no count has occurred for 10 ms.
(DEDUCED: notes/assumptions 126.) -/
def execSpeedPeriodic (ch : Fin 2) (idle : Bool) (s : State) : Host.Outcome State Fault Refusal :=
  onDie s fun s =>
    { s with die := { s.die with
        spDue := tset s.die.spDue ch.val (if idle then 0 else (s.encCh ch.val).halves) } }

/-- OUTPUT_OVERLOAD (R354): the output enters fault shutdown. -/
def execOutputOverload (output : Fin 8) (s : State) : Host.Outcome State Fault Refusal :=
  onDie s fun s =>
    if bitAt s.die.faults output.val then s
    else State.statusDue { s with die := { s.die with
      faults := withBit s.die.faults output.val true, faultN := s.die.faultN + 1 } }

/-- OUTPUT_FAULT_RETRY (R354): every 10 ms; the output recovers unless the fault persists. -/
def execOutputFaultRetry (output : Fin 8) (persists : Bool) (s : State) : Host.Outcome State Fault Refusal :=
  onDie s fun s =>
    if bitAt s.die.faults output.val && !persists then
      State.statusDue { s with die := { s.die with faults := withBit s.die.faults output.val false } }
    else s

/-- FIELD_POWER_UP (R340, R356, R444, R465): counts, table and settings start anew, in the safe state with cause 0b000; the
field die starts a resynchronisation. -/
def execFieldPowerUp (s : State) : Host.Outcome State Fault Refusal :=
  .next (if s.die.powered then s else { s with die := { stDue := true } })

/-- FIELD_POWER_DOWN (R444): counts and table are lost; every output is off. -/
def execFieldPowerDown (s : State) : Host.Outcome State Fault Refusal := .next { s with die := { powered := false } }

/-- An end has received RESYNC (R465): numbering restarts; unless it had started the exchange it
answers with one RESYNC. (DEDUCED: notes/assumptions 124.) -/
def LinkEnd.restart {α β : Type} (l : LinkEnd α β) : LinkEnd α β :=
  { l with unacked := [], ptr := 0, stale := 0, nextSeq := 0, expect := 0, answer := !l.resync, resync := false,
           ignore := if l.resync then 3 else 0 }

/-- FIELD_RESYNC_MSG (R465): numbering restarts, and SYNC and STATUS are sent afresh. -/
def execFieldResyncMsg (s : State) : Host.Outcome State Fault Refusal :=
  onDie s fun s =>
    match s.dieMsg with
    | some .resync =>
      let t := s.dropMsg
      { t with die := { t.die.snapshot with link := t.die.link.restart, stDue := true } }
    | _ => s

/-! ### The field die's end of the link (R332 to R337) -/

/-- Acknowledge: everything sent up to a sequence number leaves the window (R337). -/
def LinkEnd.acked {α β : Type} (l : LinkEnd α β) (m : Nat) : LinkEnd α β :=
  match l.unacked.findIdx? (·.1 == m) with
  | some i => { l with unacked := l.unacked.drop (i + 1), ptr := l.ptr - (i + 1), stale := 0 }
  | none => l

/-- What the next frame carries: the next item to resend, or the next waiting one while the window of 4 allows. -/
def LinkEnd.item {α β : Type} (l : LinkEnd α β) : Option (Nat × α) × LinkEnd α β :=
  match l.unacked[l.ptr]? with
  | some x => (some x, { l with ptr := l.ptr + 1 })
  | none =>
    match l.queue with
    | a :: t =>
      if l.unacked.length < 4 then
        (some (l.nextSeq, a), { l with
          queue := t, unacked := l.unacked ++ [(l.nextSeq, a)], ptr := l.unacked.length + 1,
          nextSeq := (l.nextSeq + 1) % 16 })
      else (none, l)
    | [] => (none, l)

/-- The next frame's item; a frame sent while something is not acknowledged brings no progress so far (R337). -/
def LinkEnd.offer {α β : Type} (l : LinkEnd α β) : Option (Nat × α) × LinkEnd α β :=
  let o := l.item
  (o.1, { o.2 with stale := if o.2.unacked.isEmpty then 0 else o.2.stale + 1 })

/-- A frame slot without a good frame. -/
def LinkEnd.badFrame {α β : Type} (l : LinkEnd α β) : LinkEnd α β := { l with good := 0, missed := l.missed + 1 }

/-- Whether the receiving direction has seen 3 frame slots without a good frame (R332). -/
def LinkEnd.silent {α β : Type} (l : LinkEnd α β) : Bool := l.up && decide (3 ≤ l.missed)

/-- The direction goes down. -/
def LinkEnd.fall {α β : Type} (l : LinkEnd α β) : LinkEnd α β := { l with up := false, good := 0 }

/-- Whether an end must send again: 4 frames without progress (R337). -/
def LinkEnd.stuck {α β : Type} (l : LinkEnd α β) : Bool := !l.unacked.isEmpty && decide (4 ≤ l.stale)

/-- Go back to the oldest item that is not acknowledged. -/
def LinkEnd.goBack {α β : Type} (l : LinkEnd α β) : LinkEnd α β := { l with ptr := 0, stale := 0 }

/-- The run of good frames with one more at a bit offset (R332). -/
def LinkEnd.run {α β : Type} (l : LinkEnd α β) (k : Nat) : Nat := if k = l.offset then l.good + 1 else 1

/-- A good frame on the receiving side, at a bit offset: whether its direction is up, with the run of good frames (R332). -/
def LinkEnd.goodFrame {α β : Type} (l : LinkEnd α β) (k : Nat) : LinkEnd α β :=
  { l with good := l.run k, offset := k, missed := 0, up := l.up || decide (8 ≤ l.run k), ignore := l.ignore - 1 }

/-- Whether a receiver finds a frame that begins at a bit offset: a direction that is down tests the CRC at every offset, one that is
up at its own (R332). (DEDUCED: notes/assumptions 225.) -/
def LinkEnd.finds {α β : Type} (l : LinkEnd α β) (k : Nat) : Bool := !l.up || k == l.offset

/-- Whether an end takes numbered items: not while a resynchronisation is under way. -/
def LinkEnd.takes {α β : Type} (l : LinkEnd α β) (n : Nat) : Bool := !l.resync && n == l.expect

/-- The sequence number of the last item taken. -/
def LinkEnd.last {α β : Type} (l : LinkEnd α β) : Nat := (l.expect + 15) % 16

/-- The field die's present STATUS. -/
def State.statusNow (s : State) : Report :=
  .status s.die.faults s.die.stop s.die.powerup (bit (s.encCh 0).fault + 2 * bit (s.encCh 1).fault) s.die.cause
    s.die.stops s.die.faultN

/-- The next report by priority (R336): SYNC, LATCH and INDEX, then entry reports, then FI_STATE, STATUS and SPEED. A SYNC
takes its snapshot here, so that the frame of part 0 carries the same low bits. -/
def State.nextRep (s : State) : State × Option Rep :=
  let d := s.die
  let r := fun (w : Report) => ({ what := w, time := stamp5 s.time.now } : Rep)
  match d.syncDue, d.first, d.entries, d.spDue with
  | c :: t, _, _, _ =>
    let v := unsigned 48 (s.encCh c).count
    ({ s with die := { d with syncDue := t, first := r (.sync c 1 (v / 2 ^ 24)) :: d.first } },
      some (r (.sync c 0 (v % 2 ^ 24))))
  | [], x :: t, _, _ => ({ s with die := { d with first := t } }, some x)
  | [], [], x :: t, _ => ({ s with die := { d with entries := t } }, some x)
  | [], [], [], sp =>
    if d.fiDue then ({ s with die := { d with fiDue := false } }, some (r (.fiState d.deb)))
    else if d.stDue then
      ({ s with die := { d with stDue := false, stops := 0, faultN := 0 } }, some (r s.statusNow))
    else
      match sp with
      | (c, v) :: t => ({ s with die := { d with spDue := t } }, some (r (.speed c v)))
      | [] => (s, none)

/-- Fill the window with the next report, if there is room and nothing is to be resent. -/
def State.loadRep (s : State) : State :=
  let l := s.die.link
  if l.ptr < l.unacked.length ∨ 4 ≤ l.unacked.length ∨ l.queue ≠ [] then s
  else
    match s.nextRep with
    | (t, some r) => { t with die := { t.die with link := { t.die.link with queue := [r] } } }
    | (_, none) => s

/-- The upstream frame whose first bit is sent now (R333). -/
def State.upNow (s : State) (report : Option (Nat × Rep)) (resync : Bool) : UpFrame :=
  { report := report, resync := resync, safe := s.die.safe, mack := s.die.link.last,
    low := [unsigned 12 (s.encCh 0).count, unsigned 12 (s.encCh 1).count],
    level := s.outLevels, held := s.gateHeld, tally := s.die.tally }

/-- The field die starts its next frame. (DEDUCED: notes/assumptions 123.) -/
def State.composeUp (s : State) : State :=
  if !s.die.powered then { s with die := { s.die with wire := none } }
  else if s.die.link.resync then { s with die := { s.die with wire := some (s.upNow none true) } }
  else if s.die.link.answer then
    { s with die := { s.die with wire := some (s.upNow none true), link := { s.die.link with answer := false } } }
  else
    let t := s.loadRep
    let o := t.die.link.offer
    { t with die := { t.die with wire := some (t.upNow o.1 false), link := o.2 } }

/-- The field die checks a good downstream frame: the run of frames with RUN, the acknowledgement, RESYNC, the message and
the amendment slot (R334, R337, R341, R342); it began at a bit offset. -/
def State.takeDown (s : State) (f : DownFrame) (k : Nat) : State :=
  let l := s.die.link.goodFrame k
  if !l.up then { s with die := { s.die with link := l } }
  else
    let m := if l.resync then l else l.acked f.rack
    let n :=
      if f.resync then (if m.ignore = 0 then { m with inbox := m.inbox ++ [Msg.resync] } else m)
      else
        match f.msg with
        | some (k, x) => if m.takes k then { m with expect := (k + 1) % 16, inbox := m.inbox ++ [x] } else m
        | none => m
    { s with die := { s.die with
        link := n
        runs := if f.run then s.die.runs + 1 else 0
        amendIn := match f.amend with
          | some a => if s.die.safe then s.die.amendIn else s.die.amendIn ++ [a]
          | none => s.die.amendIn } }

end Sys2Proof.Machine
end

