-- ==== Sys2Proof/Machine/Memory.lean ====
section
/-! DEFINITION. The memories (chapter 14 and R53 to R56): the address map, granules and their poison marks, reads that
find stored errors, whole-granule and merged writes, and the wipe's readiness. -/

namespace Sys2Proof.Machine

/-- What lies at an address (R53, R54). -/
inductive Region where
  | ddr
  | cache
  | beam (mill : Nat)
  | scratch (loom : Nat)
  | block
  | unmapped
  deriving DecidableEq, Repr

/-- Installed DDR5 capacity in bytes (R302). -/
def State.capacity (s : State) : Nat := s.get F.MEM_DDR_CFG_CAPACITY * 2 ^ 30

/-- The region of an address (R53, R54); DDR5 is mapped up to the installed capacity. -/
def State.region (s : State) (a : Nat) : Region :=
  if a < 0x2000000000 then (if a < s.capacity then .ddr else .unmapped)
  else if a < 0x2018000000 then .cache
  else if 0x2100000000 ≤ a ∧ a < 0x2104000000 then .beam ((a - 0x2100000000) / 0x1000000)
  else if 0x2200000000 ≤ a ∧ a < 0x2208000000 then .scratch ((a - 0x2200000000) / 0x200000)
  else if 0x3F00000000 ≤ a ∧ a < 0x3F00F00000 then .block
  else if 0x3F01000000 ≤ a ∧ a < 0x3F01400000 then .block
  else if 0x3F02000000 ≤ a ∧ a < 0x3F02040000 then .block
  else .unmapped

/-- Whether a region is memory. -/
def Region.isMemory : Region → Bool
  | .ddr | .cache | .beam _ | .scratch _ => true
  | .block | .unmapped => false

/-- The size of the granule at an address: a 64-byte burst in DDR5, a 64-bit word in SRAM (R306). -/
def granSize (a : Nat) : Nat := if a < 0x2000000000 then 64 else 8

/-- The base of the granule that holds an address. -/
def granBase (a : Nat) : Nat := a / granSize a * granSize a

/-- The fence map (R426); a split word of it acts as its reset value (R315). -/
def State.fenceMap (s : State) : Nat :=
  (if s.splitWord 4 then 0 else s.reg R.SCHED_FENCE_MAP_LO) +
    2 ^ 32 * (if s.splitWord 5 then 0 else s.reg R.SCHED_FENCE_MAP_HI)

/-- Whether a loom is fenced. -/
def State.fenced (s : State) (n : Nat) : Bool := bitAt s.fenceMap n

/-- Whether the wipe has passed an address (R316, R317). -/
def State.wiped (s : State) (a : Nat) : Bool :=
  if a < 0x2000000000 then decide (a < s.get F.MEM_WIPE_MARK_MARK * 2 ^ 20) || s.on F.MEM_WIPE_STAT_DDR_DONE
  else s.on F.MEM_WIPE_STAT_SRAM_DONE

/-! ### The byte store -/

/-- The byte at an address; an unlisted address holds 0x00. (DESIGN CHOICE: notes/assumptions 35.) -/
def Memory.byte (m : Memory) (a : Nat) : Byte := tgetD m.cells a 0

/-- Store a byte in the canonical form: the value of an unlisted address is not listed. -/
def Memory.setByte (m : Memory) (a : Nat) (b : Byte) : Memory :=
  { m with cells := if b = 0 then tdel m.cells a else tset m.cells a b }

/-- Store bytes from an address upward. -/
def Memory.setBytes (m : Memory) : Nat → List Byte → Memory
  | _, [] => m
  | a, b :: t => (m.setByte a b).setBytes (a + 1) t

/-- The bytes from an address upward. -/
def Memory.bytes (m : Memory) (a n : Nat) : List Byte := (List.range n).map fun i => m.byte (a + i)

/-- Whether a granule carries neither mark of poison: its poison bit is 0 (or it does not hold the poison pattern), and its
check bits are not the complement. Either mark alone makes it read as poisoned (R305). -/
def Memory.good (m : Memory) (g : Nat) : Bool := (tget? m.clean g).isSome && (tget? m.valid g).isSome

/-- The valid check byte of a word's data (R304). -/
def secded (d : BitVec 64) : Byte := if d = 0 then 0 else Config.hamming d

/-- The check byte of an SRAM word (R304): the code's own for the data, or its complement. -/
def Memory.checkByte (m : Memory) (g : Nat) : Byte :=
  let x := secded (BitVec.ofNat 64 (bytesNat (m.bytes g 8)))
  if (tget? m.valid g).isSome then x else ~~~x

/-- The address of a 1 MiB unit of the model cache (R276). -/
def unitAddr (u : Nat) : Nat := 0x2000000000 + u * 2 ^ 20

/-- Whether every granule of a range of SRAM is good. -/
def Memory.whole (m : Memory) (a n : Nat) : Bool :=
  (m.clean.filter fun e => decide (a ≤ e.1) && decide (e.1 < a + n) && (tget? m.valid e.1).isSome).length * 8 == n

/-- Clear both marks of a granule; a whole write leaves no stored error. -/
def Memory.markGood (m : Memory) (g : Nat) : Memory :=
  { m with clean := tset m.clean g (), valid := tset m.valid g (), flaws := tdel m.flaws g }

/-- Poison a granule: both marks (R305). -/
def Memory.markBad (m : Memory) (g : Nat) : Memory :=
  { m with clean := tdel m.clean g, valid := tdel m.valid g, flaws := tdel m.flaws g }

/-- Forget the error a granule holds: it has been corrected. -/
def Memory.mend (m : Memory) (g : Nat) : Memory := { m with flaws := tdel m.flaws g }

/-- Every cell rises strictly and differs from 0x00. -/
def cellsOk : Nat → List (Nat × BitVec 8) → Bool
  | _, [] => true
  | lo, (a, b) :: t => decide (lo ≤ a) && decide (b ≠ 0) && cellsOk (a + 1) t

/-- The canonical form of the memories. -/
def Memory.wf (m : Memory) : Bool :=
  cellsOk 0 m.cells && tsorted m.clean && tsorted m.valid && tsorted m.flaws && tsorted m.met

/-- One upset of a stored granule: the poison bit of an SRAM word turns over; any other error stands until a read finds it. -/
def Memory.upset (m : Memory) (g : Nat) (f : Flaw) : Memory :=
  match f with
  | .poisonBit =>
    if g < 0x2000000000 then m
    else { m with clean := if (tget? m.clean g).isSome then tdel m.clean g else tset m.clean g () }
  | _ => { m with flaws := tset m.flaws g f }

/-- Let stored granules be upset (given by the outside). -/
def State.withFlaws (s : State) (errs : List (Nat × Flaw)) : State :=
  { s with mem := foldState (fun m e => m.upset (granBase e.1) e.2) s.mem errs }

/-! ### Errors found by a read (R305, R309, R311) -/

/-- Who reads: a foreground access counts in MEM_SRAM_CNT or MEM_DDR_CNT, the scrubber in SCRUB_CNT (R320). -/
inductive Reader where
  | foreground
  | scrubber
  deriving DecidableEq, Repr

/-- The counter of corrections for a granule. -/
def corrCounter (rd : Reader) (g : Nat) : Fld :=
  match rd with
  | .scrubber => F.SCRUB_CNT_CORR
  | .foreground => if g < 0x2000000000 then F.MEM_DDR_CNT_CORR else F.MEM_SRAM_CNT_CORR

/-- The counter of uncorrectable errors for a granule. -/
def ueCounter (rd : Reader) (g : Nat) : Fld :=
  match rd with
  | .scrubber => F.SCRUB_CNT_UE
  | .foreground => if g < 0x2000000000 then F.MEM_DDR_CNT_UE else F.MEM_SRAM_CNT_UE

/-- The DDR5 subchannel of an address (R303): 16, 8 or 4 subchannels by the configuration. -/
def State.subchannel (s : State) (a : Nat) : Nat :=
  let cfg := s.get F.MEM_DDR_CFG_CHANNELS
  if cfg = 0 then a / 64 % 16
  else if cfg = 1 then
    let k := a / 64 % 8
    (if k < 4 then k else k + 4)
  else
    let k := a / 64 % 4
    (if k < 2 then k else k + 6)

/-- Count a correction in a loom's scratchpad and note the fence it may cause (R427). -/
def State.loomCorrection (s : State) (n : Nat) : State :=
  let t := s.bump F.LOOM_CORR_COUNT n
  let lim := t.get F.SCHED_FENCE_CFG_THRESHOLD
  if lim ≠ 0 ∧ lim < t.get F.LOOM_CORR_COUNT n then { t with fenceDue := t.fenceDue ++ [(n, 4)] } else t

/-- The stored error of a granule is found and corrected (R305, R311). -/
def State.corrected (s : State) (rd : Reader) (g : Nat) (dev : Nat) : State :=
  let t := State.bump { s with mem := s.mem.mend g } (corrCounter rd g)
  match s.region g with
  | .ddr =>
    let k := s.subchannel g
    ((t.put F.MEM_DDR_DEV_CHANNEL (k / 2)).put F.MEM_DDR_DEV_SUBCH (k % 2)).put F.MEM_DDR_DEV_DEVICE dev
  | .scratch n => t.loomCorrection n
  | _ => t

/-- The stored error of a granule is uncorrectable: the granule is written poisoned (R305, R309, R311). -/
def State.uncorrectable (s : State) (rd : Reader) (g : Nat) : State :=
  let t := ((State.bump { s with mem := s.mem.markBad g } (ueCounter rd g)).put F.MEM_UE_ADDR_LO_ADDR g).put
    F.MEM_UE_ADDR_HI_ADDR (g / 2 ^ 32)
  match s.region g with
  | .scratch n => { t with fenceDue := t.fenceDue ++ [(n, 2)] }
  | _ => t

/-- Poison of the model cache is met: its 1 MiB unit is noted (R327). -/
def State.meet (s : State) (g : Nat) : State :=
  match s.region g with
  | .cache => if s.mem.good g then s else { s with mem := { s.mem with met := tset s.mem.met ((g - 0x2000000000) / 2 ^ 20) () } }
  | _ => s

/-- Read a granule. A good one may turn out to hold an error. An SRAM word whose poison bit is 1 stays as it is; one that holds
the complemented check byte under a poison bit of 0 shows an uncorrectable syndrome (R305). A burst that holds the poison pattern
keeps it, whatever one symbol of it says (R310); an uncorrectable error has destroyed the pattern too (R311).
(DEDUCED: notes/assumptions 200.) -/
def State.found (s : State) (rd : Reader) (g : Nat) : State :=
  let f := tget? s.mem.flaws g
  if s.mem.good g then
    match f with
    | some (.correctable d) => s.corrected rd g d.val
    | some .uncorrectable => s.uncorrectable rd g
    | _ => s
  else if g < 0x2000000000 then (if f = some .uncorrectable then s.uncorrectable rd g else s)
  else if (tget? s.mem.clean g).isSome then s.uncorrectable rd g
  else s

/-- Read a granule, and note poison that a model's cache shows. -/
def State.touch (s : State) (rd : Reader) (g : Nat) : State := (s.found rd g).meet g

/-! ### Reads and writes of the device -/

/-- The data of a transfer: a byte, or `none` where its granule is poisoned. -/
abbrev Data := List (Option Byte)

/-- The granules that a range touches, lowest first. -/
def granules (a n : Nat) : List Nat :=
  if n = 0 then []
  else
    let z := granSize a
    let g := granBase a
    (List.range (ceilDiv (a + n - g) z)).map fun i => g + i * z

/-- Read a range: stored errors are found granule by granule, then the bytes delivered. -/
def State.readData (s : State) (a n : Nat) : State × Data :=
  let t := foldState (fun u g => u.touch .foreground g) s (granules a n)
  (t, (List.range n).map fun i => if t.mem.good (granBase (a + i)) then some (t.mem.byte (a + i)) else none)

/-- The bytes of data, a poisoned byte as 0x00. -/
def dataBytes (d : Data) : List Byte := d.map fun o => o.getD 0

/-- Whether data holds no poison. -/
def dataGood (d : Data) : Bool := d.all Option.isSome

/-- Write one granule's share of data: the bytes `d` from address `a`, all inside one granule (R306). A share that covers
the granule replaces its contents and mark; a narrower one is merged, and leaves a poisoned granule poisoned. -/
def State.writeShare (s : State) (a : Nat) (d : Data) : State :=
  let g := granBase a
  if a = g ∧ d.length = granSize a then
    let m := s.mem.setBytes a (dataBytes d)
    { s with mem := if dataGood d then m.markGood g else m.markBad g }
  else
    let t := s.touch .foreground g
    let m := t.mem.setBytes a (dataBytes d)
    { t with mem := if dataGood d then m else m.markBad g }

/-- Write data granule by granule, at most `fuel` granules. -/
def State.writeFuel (s : State) : Nat → Nat → Data → State
  | 0, _, _ => s
  | _ + 1, _, [] => s
  | fuel + 1, a, d =>
    let n := granBase a + granSize a - a
    (s.writeShare a (d.take n)).writeFuel fuel (a + n) (d.drop n)

/-- Whether a write must wait: its last byte lies in DDR5 at or above the wipe's mark (R317), or an earlier write to its bytes
waits. -/
def State.mustWait (s : State) (a n : Nat) : Bool :=
  decide (a < 0x2000000000) && n != 0 &&
    (!s.wiped (a + n - 1) || s.mem.held.any fun e => decide (a < e.1 + e.2.length) && decide (e.1 < a + n))

/-- Write data from an address upward. A write of the device that the wipe has not reached waits (R317). -/
def State.writeData (s : State) (a : Nat) (d : Data) : State :=
  if s.mustWait a d.length then { s with mem := { s.mem with held := s.mem.held ++ [(a, d)] } }
  else s.writeFuel (d.length + 1) a d

/-- The writes that wait are made, in their order, as far as the mark has passed their last bytes. -/
def State.releaseHeld (s : State) : State :=
  foldState (fun (t : State) (e : Nat × Data) => t.writeData e.1 e.2) { s with mem := { s.mem with held := [] } } s.mem.held

/-- Good bytes as data. -/
def goodData (bs : List Byte) : Data := bs.map some

/-- Good bytes padded with 0x00 to whole granules (R308). -/
def padded (a : Nat) (bs : List Byte) : Data :=
  goodData (bs ++ List.replicate (roundUp bs.length (granSize a) - bs.length) 0)

/-- Write a range poisoned. -/
def State.poisonRange (s : State) (a n : Nat) : State := s.writeData a (List.replicate n none)

/-- A host access to memory at an address, word or granule: the status that refuses it, if any (R55, R317). -/
def State.memRefusal (s : State) (a : Nat) : Option Status :=
  match s.region a with
  | .unmapped => some .badParam
  | .block => none
  | .scratch n => if s.fenced n then some .fenced else if s.wiped a then none else some .notReady
  | _ => if s.wiped a then none else some .notReady

end Sys2Proof.Machine
end

