-- ==== Sys2Proof/Machine/Lines.lean ====
section
/-! DEFINITION. What every part-related family shares (chapters 04 to 09): access to ports, bobbins, rules, pipes, looms and
partitions; lines, their takers and their release; holes; which window counts have been placed and which stripe tasks
that makes ready; the end of a bobbin's compute. -/

namespace Sys2Proof.Machine

/-! ### Units by number -/

/-- A camera port. -/
def State.cam (s : State) (p : Nat) : CamPort := tgetD s.cams p {}
/-- Change a camera port. -/
def State.setCam (s : State) (p : Nat) (c : CamPort) : State := { s with cams := tset s.cams p c }
/-- A bobbin; one that is not listed is FREE. -/
def State.bob (s : State) (id : Nat) : Bobbin := tgetD s.bobs id {}
/-- Change a bobbin. -/
def State.setBob (s : State) (id : Nat) (b : Bobbin) : State := { s with bobs := tset s.bobs id b }
/-- A part-finder rule's internals. -/
def State.rule (s : State) (r : Nat) : Rule := tgetD s.rules r {}
/-- Change a rule's internals. -/
def State.setRule (s : State) (r : Nat) (x : Rule) : State := { s with rules := tset s.rules r x }
/-- An image pipe. -/
def State.pipe (s : State) (q : Nat) : Pipe := tgetD s.pipes q {}
/-- Change an image pipe. -/
def State.setPipe (s : State) (q : Nat) (x : Pipe) : State := { s with pipes := tset s.pipes q x }
/-- A loom. -/
def State.loom (s : State) (n : Nat) : Loom := tgetD s.looms n {}
/-- Change a loom. -/
def State.setLoom (s : State) (n : Nat) (x : Loom) : State := { s with looms := tset s.looms n x }
/-- A partition. -/
def State.part (s : State) (p : Nat) : Partition := tgetD s.sched.parts p {}
/-- Whether a partition exists. -/
def State.hasPart (s : State) (p : Nat) : Bool := (tget? s.sched.parts p).isSome
/-- Change a partition. -/
def State.setPart (s : State) (p : Nat) (x : Partition) : State :=
  { s with sched := { s.sched with parts := tset s.sched.parts p x } }

/-- The lowest number below `n` that is not in use. -/
def lowestFree (used : List Nat) (n : Nat) : Option Nat :=
  (List.range (min n (used.length + 1))).find? fun i => !used.contains i

/-- The numbers below `n` that meet a test. -/
def those (n : Nat) (p : Nat → Bool) : List Nat := (List.range n).filter p

/-- The bits set in a mask of `n` bits. -/
def maskList (n m : Nat) : List Nat := those n fun i => bitAt m i

/-- Write a 48-bit count to a LO and HI register. -/
def State.putCount (s : State) (lo hi : Fld) (v : Int) (i : Nat := 0) : State :=
  (s.put lo (unsigned 48 v) i).put hi (unsigned 48 v / 2 ^ 32) i

/-! ### The looms' registers and commands (R259, R263, R267, R269) -/

/-- The partition that holds a loom now: the borrower, otherwise the owner. -/
def State.holderOf (s : State) (n : Nat) : Option Nat :=
  match s.sched.parts.find? fun e => (tget? e.2.borrowed n).isSome with
  | some e => some e.1
  | none => (s.sched.parts.find? fun e => e.2.looms.contains n).map (·.1)

/-- Whether a loom of a partition is lent to another. -/
def State.lent (s : State) (p n : Nat) : Bool := s.sched.parts.any fun e => tget? e.2.borrowed n == some p

/-- The instructions that wait on an engine's queue. -/
def Loom.queue (l : Loom) (e : Nat) : List QIns := tgetD l.queues e []

/-- Whether a tag is an outstanding remote shuttle. -/
def Tag.far (x : Tag) : Bool := x.remote.isSome && x.status.isNone && x.parked.isNone

/-- The tags of a loom that save records keep (R281). -/
def State.savedTags (s : State) (n : Nat) : List Tag :=
  s.sched.parts.flatMap fun (e : Nat × Partition) => ((tget? e.2.saved n).map fun (l : Loom) => l.tags.map (·.2)).getD []

/-- Show a loom's queue depths, tags, commands and remote shuttles. -/
def State.showLoom (s : State) (n : Nat) : State :=
  let l := s.loom n
  let q := fun (e : Nat) => min 512 (l.queue e).length
  let tags := l.tags.length
  let h := s.holderOf n
  let t := (((s.put F.LOOM_QDEPTH_LS_LOAD (q 0) n).put F.LOOM_QDEPTH_LS_STREAM (q 1) n).put
    F.LOOM_QDEPTH_CS_COMPUTE (q 2) n).put F.LOOM_QDEPTH_CS_STORE (q 3) n
  let u := ((t.put F.LOOM_SHUTTLE_IN_USE tags n).peak F.LOOM_SHUTTLE_PEAK tags n).put F.LOOM_CMD_HELD l.cmds.length n
  let v := ((u.put F.LOOM_CMD_KIND ((l.cmds.head?.map (·.kind)).getD 0) n).put F.LOOM_CMD_PARTITION (h.getD 0) n).putBit
    F.LOOM_CMD_ASSIGNED h.isSome n
  let far := l.tags.map (·.2) ++ s.savedTags n
  (v.put F.LOOM_REMOTE_OUTSTANDING (far.filter Tag.far).length n).put F.LOOM_REMOTE_PARKED (far.filter (·.parked.isSome)).length n

/-- Change a loom, and show it. -/
def State.mapLoom (s : State) (n : Nat) (f : Loom → Loom) : State := (s.setLoom n (f (s.loom n))).showLoom n

/-- A stamp after the one `st` has gone. -/
def stampDown (st c : Nat) : Nat := if st < c then c - 1 else c

/-- Remove the i-th command of a list, with what of it is queued, issued or tagged. -/
def Loom.cutAt (l : Loom) (i : Nat) : Loom :=
  let st := l.base + i
  let qs := l.queues.map fun (e : Nat × List QIns) =>
    (e.1, (e.2.filter (·.cmd != st)).map fun (q : QIns) => { q with cmd := stampDown st q.cmd })
  let is := l.issued.map fun (e : Nat × List Issued) =>
    (e.1, (e.2.filter (·.cmd != st)).map fun (q : Issued) =>
      { q with cmd := stampDown st q.cmd, run := q.run.map fun (r : QIns) => { r with cmd := stampDown st r.cmd } })
  let ts := (l.tags.filter fun (e : Nat × Tag) => e.2.cmd != st).map fun (e : Nat × Tag) =>
    (e.1, { e.2 with cmd := stampDown st e.2.cmd })
  let es := (l.ends.filter fun c => c / 4 != st).map fun c => 4 * stampDown st (c / 4) + c % 4
  let fs := l.fetched.map fun (e : Nat × Nat) => (e.1, stampDown st e.2)
  { l with cmds := l.cmds.eraseIdx i, queues := qs, issued := is, tags := ts, ends := es, fetched := fs }

/-- Remove the commands that meet a test, at most `n` of them. -/
def Loom.cut (l : Loom) (p : LoomCmd → Bool) : Nat → Loom
  | 0 => l
  | n + 1 =>
    match l.cmds.findIdx? p with
    | some i => (l.cutAt i).cut p n
    | none => l

/-! ### Counts and projections (R14 to R16, R339) -/

/-- The mirror of a channel. -/
def State.mirrorOf (s : State) (c : Nat) : Mirror := tgetD s.field.mirror c {}

/-- Change the mirror of a channel. -/
def State.setMirror (s : State) (c : Nat) (m : Mirror) : State :=
  { s with field := { s.field with mirror := tset s.field.mirror c m } }

/-- The mirrored count of a channel, while the channel has one. -/
def State.count? (s : State) (c : Nat) : Option Int :=
  if s.on F.FIELD_LINK_STAT_COUNT_VALID then some (s.mirrorOf c).count else none

/-- The device time projected for a count, while the velocity estimate is positive. -/
def State.project (s : State) (c : Nat) (count : Int) : Option Nat :=
  let m := s.mirrorOf c
  match m.hist with
  | [] => none
  | (cn, tn) :: _ =>
    if 0 < m.vNum ∧ s.on F.FIELD_LINK_STAT_COUNT_VALID then
      some (((tn : Int) + (count - cn) * (m.vDen : Int) / m.vNum).toNat)
    else none

/-- The retained floor of a port: its channel's mirrored count minus CAM_RETAIN (R93). -/
def State.retainFloor (s : State) (p : Nat) : Option Int :=
  (s.count? (s.get F.CAM_CTRL_ENC p)).map fun c => c - s.get F.CAM_RETAIN_RETAIN p

/-! ### Who names a port (R88, R102, R121, R126) -/

/-- The pipe whose configuration serves a port. -/
def State.servedBy (s : State) (p : Nat) : Option Nat :=
  (List.range 4).find? fun q => s.get F.PIPE_CTRL_INLINE q == p || bitAt (s.get F.PIPE_CTRL_TM_MASK q) p

/-- The enabled rules that take lines from a port. -/
def State.rulesOf (s : State) (p : Nat) : List Nat :=
  those 16 fun r => s.on F.BOB_RULE_CTRL_EN r && bitAt (s.get F.BOB_RULE_CTRL_PORTS r) p

/-- The taps, as pipe and tap point, that select a port. -/
def State.tapsOf (s : State) (p : Nat) : List (Nat × Nat) :=
  (List.range 4).flatMap fun q =>
    (those 4 fun n => s.get F.PIPE_TAP_MODE q n != 0 && s.get F.PIPE_TAP_VC q n == p).map fun n => (q, n)

/-- Whether some consumer names a port (R88). -/
def State.named (s : State) (p : Nat) : Bool :=
  (s.servedBy p).isSome || !(s.tapsOf p).isEmpty || !(s.rulesOf p).isEmpty

/-- Show CAM_CTRL.QUIET and the use of the line-store region of a port (R88, R97). -/
def State.showPort (s : State) (p : Nat) : State :=
  let en := s.on F.CAM_CTRL_EN p
  (s.putBit F.CAM_CTRL_QUIET (en && !s.named p) p).putBit F.SYS_OWN_IN_USE
    (en && (s.named p || !(s.cam p).held.isEmpty)) (45 + p)

/-- Show every port after a change of consumers. -/
def State.showPorts (s : State) : State := timesFrom State.showPort 17 0 s

/-! ### Places of a block's lines (R89) -/

/-- The position of line `k` of a block. (DEDUCED: notes/assumptions 36.) -/
def Block.pos (b : Block) (k : Nat) : Int := b.base + k * b.pitch / 65536

/-- The last count of line `k`'s span. -/
def Block.hi (b : Block) (k : Nat) : Int := max (b.pos k) (b.pos (k + 1) - 1)

/-- Whether two ranges of counts overlap. -/
def overlaps (a b c d : Int) : Bool := decide (a ≤ d) && decide (c ≤ b)

/-- The last count of a bobbin's window. -/
def Bobbin.wlast (b : Bobbin) : Int := b.wstart + b.wlen - 1

/-! ### Lines held, and their release (R94, R95, R116) -/

/-- Whether a line's retention has passed: its count plus CAM_RETAIN, or no enabled rule takes lines from the port. -/
def State.retained (s : State) (p : Nat) (l : Line) : Bool :=
  if (s.rulesOf p).isEmpty then false
  else
    match s.retainFloor p with
    | some f => decide (f ≤ l.pos)
    | none => true

/-- Show how many slots hold lines. -/
def State.showSlots (s : State) (p : Nat) : State :=
  let n := (s.cam p).held.length
  (s.put F.CAM_LS_USED_USED n p).peak F.CAM_LS_PEAK_PEAK n p

/-- The output lines that a pipe's store holds, with their ports. -/
def State.outLines (s : State) (q : Nat) : List Line :=
  (s.cams.flatMap fun e => e.2.outs).filter fun l => l.store == q

/-- Show how many output slots hold lines. -/
def State.showOuts (s : State) (q : Nat) : State :=
  let n := (s.outLines q).length
  (s.put F.PIPE_OUT_USED_USED n q).peak F.PIPE_OUT_USED_PEAK n q

/-- Free every line of a port that nobody holds and whose retention has passed (R95, R116). -/
def State.sweep (s : State) (p : Nat) : State :=
  let c := s.cam p
  let keep := fun (l : Line) => !l.takers.isEmpty || s.retained p l
  let t := s.setCam p { c with held := c.held.filter keep, outs := c.outs.filter keep }
  (timesFrom State.showOuts 4 0 (t.showSlots p)).showPort p

/-- Change the lines of a port, and free what nobody holds any more. -/
def State.mapLines (s : State) (p : Nat) (f : Line → Line) : State :=
  let c := s.cam p
  (s.setCam p { c with held := c.held.map f, outs := c.outs.map f }).sweep p

/-- Whether a taker is a bobbin. -/
def Taker.isBob (t : Taker) (id : Nat) : Bool :=
  match t with
  | .bobbin j _ => j == id
  | _ => false

/-- A line without a bobbin's take. -/
def Line.dropBob (l : Line) (id : Nat) : Line := { l with takers := l.takers.filter fun t => !t.isBob id }

/-- One release of a bobbin's take of a line; the take ends at its count. -/
def Line.release (l : Line) (id count : Nat) : Line :=
  { l with takers := l.takers.filterMap fun t =>
      match t with
      | .bobbin j n => if j = id then (if n + 1 < count then some (.bobbin j (n + 1)) else none) else some t
      | t => some t }

/-! ### Models, tokens and stripes (R188 to R196) -/

/-- The model with an id. -/
def State.model? (s : State) (id : Nat) : Option Model := s.sched.models.find? (·.id == id)

/-- The model of a partition's job. -/
def State.jobModel (s : State) (p : Nat) : Option Model :=
  if s.get F.SCHED_JOB_STATE p = 0 then none else s.model? (s.part p).model

/-- What the image of a partition's job declares. -/
def State.info (s : State) (p : Nat) : Config.Image :=
  match s.jobModel p with
  | some m => m.info
  | none => {}

/-- Bits per pixel of a data type (R82). -/
def dtBits (dt : Nat) : Nat :=
  if dt = 0x2B then 10 else if dt = 0x2C then 12 else if dt = 0x2D then 14 else if dt = 0x2E then 16
  else if dt = 0x1E then 16 else if dt = 0x24 then 24 else 8

/-- The pixels of a port's line (R188). -/
def State.portWidth (s : State) (p : Nat) : Nat :=
  32 * s.get F.CAM_LINE_WORDS_LINE_WORDS p / dtBits (s.get F.CAM_CTRL_DT p)

/-- The components of a port's lines, as a bobbin takes them (R106, R113, R467). -/
def State.portComps (s : State) (p : Nat) : Nat :=
  match s.servedBy p with
  | some q =>
    let f := s.get F.PIPE_OUT_FMT_FMT q
    if f = 4 ∨ f = 5 then 3 else 1
  | none =>
    let dt := s.get F.CAM_CTRL_DT p
    if dt = 0x24 then 3 else if dt = 0x1E then 2 else 1

/-- The feeding ports of a bobbin, ascending. -/
def Bobbin.portList (b : Bobbin) : List Nat := maskList 17 b.ports

/-- The stitched pixels of each feeding port: the port, its first pixel and its width (R188). -/
def State.stitch (s : State) : List Nat → Nat → List (Nat × Nat × Nat)
  | [], _ => []
  | p :: t, x => (p, x, s.portWidth p) :: s.stitch t (x + s.portWidth p)

/-- The stitched width of a bobbin's lines. -/
def State.stitchWidth (s : State) (b : Bobbin) : Nat := (b.portList.map s.portWidth).sum

/-- The tokens of a window of `n` lines. -/
def tokensOf (n r : Nat) : Nat := if r = 0 then 0 else ceilDiv n r

/-- Whether a stripe's footprint touches the pixels from `x`, `w` of them (R193, R196). -/
def stripeTouches (im : Config.Image) (width : Nat) (st : Nat × Nat) (x w : Nat) : Bool :=
  let lo := st.1 - im.sl
  let hi := min (st.1 + st.2 + im.sr) width
  decide (lo < x + w) && decide (x < hi)

/-- The ports that a stripe's footprint touches. -/
def State.stripePorts (s : State) (b : Bobbin) (im : Config.Image) (st : Nat × Nat) : List Nat :=
  ((s.stitch b.portList 0).filter fun e => stripeTouches im (s.stitchWidth b) st e.2.1 e.2.2).map (·.1)

/-- The first window line of token `t`'s footprint. -/
def footLow (im : Config.Image) (t : Nat) : Nat := im.tokenR * t - im.v

/-- Whether the footprint of token `t` holds a window line of a line that spans `lo` to `hi`. -/
def Bobbin.footHolds (b : Bobbin) (im : Config.Image) (t : Nat) (lo hi : Int) : Bool :=
  overlaps (b.wstart + footLow im t) (b.wstart + im.tokenR * t + im.tokenR - 1) lo hi

/-- The release count of a bobbin's take of a line of port `p` (R196): N_p × T_y. -/
def State.takeCount (s : State) (b : Bobbin) (p : Nat) (l : Line) : Nat :=
  let im := s.info b.partition
  let np := (im.stripes.filter fun st => (s.stripePorts b im st).contains p).length
  let ty := (those (tokensOf b.wlen im.tokenR) fun t => b.footHolds im t l.pos l.hi).length
  np * ty

/-! ### Placed counts and ready tasks (R136, R193, R194) -/

/-- The first count from `a` upward that no range covers, walking at most `n` ranges. -/
def coverFrom (rs : List (Int × Int)) : Nat → Int → Int
  | 0, a => a
  | n + 1, a =>
    match rs.find? fun r => decide (r.1 ≤ a) && decide (a ≤ r.2) with
    | some r => coverFrom rs n (r.2 + 1)
    | none => a

/-- Whether ranges cover every count from `a` to `b`. -/
def covers (rs : List (Int × Int)) (a b : Int) : Bool := decide (b < coverFrom rs rs.length a)

/-- Add a range, joining it to one that it meets. -/
def addRange : List (Int × Int) → Int → Int → List (Int × Int)
  | [], lo, hi => [(lo, hi)]
  | (a, b) :: t, lo, hi =>
    if a ≤ hi + 1 ∧ lo ≤ b + 1 then (min a lo, max b hi) :: t else (a, b) :: addRange t lo hi

/-- The ranges placed on a port for a bobbin. -/
def Bobbin.placedOn (b : Bobbin) (p : Nat) : List (Int × Int) := tgetD b.placed p []

/-- Whether the footprint lines of a token have been placed on a port; lines beyond the window count as placed. -/
def Bobbin.footPlaced (b : Bobbin) (im : Config.Image) (t p : Nat) : Bool :=
  covers (b.placedOn p) (b.wstart + footLow im t) (min (b.wstart + im.tokenR * t + im.tokenR - 1) b.wlast)

/-- The stripe tasks of a bobbin, as token times stripes plus stripe, that have newly become ready (R194). A sample's lines
are all at hand. -/
def State.newReady (s : State) (b : Bobbin) : List Nat :=
  let im := s.info b.partition
  let n := im.stripes.length
  those (tokensOf b.wlen im.tokenR * n) fun i =>
    !b.ready.contains i &&
      (b.sample.isSome || (s.stripePorts b im (im.stripes.getD (i % n) (0, 0))).all fun p =>
        b.footPlaced im (i / n) p)

/-- The mill that schedules a partition: that of its lowest loom (R40, R269). -/
def State.millOf (s : State) (p : Nat) : Nat := ((s.part p).looms.headD 0) / 16

/-- Show the ready tasks of a mill's partitions. -/
def State.showReady (s : State) (p : Nat) : State :=
  let m := s.millOf p
  let n := ((s.sched.parts.filter fun e => s.millOf e.1 == m).map fun e => e.2.ready.length).sum
  (s.put F.MILL_STRIPE_Q_READY (min n 0xFFF) m).peak F.MILL_STRIPE_Q_PEAK n m

/-- Make ready what has become ready for a bobbin whose compute runs. -/
def State.wake (s : State) (id : Nat) : State :=
  let b := s.bob id
  if b.computing then
    let new := s.newReady b
    let n := (s.info b.partition).stripes.length
    let x := s.part b.partition
    let t := s.setBob id { b with ready := b.ready ++ new }
    (t.setPart b.partition { x with ready := x.ready ++ new.map fun i =>
      { bobbin := id, token := i / n, stripe := i % n, loom := none } }).showReady b.partition
  else s

/-- Whether every feeding port has placed the window's last count. -/
def Bobbin.inputDone (b : Bobbin) : Bool := b.portList.all fun p => covers (b.placedOn p) b.wlast b.wlast

/-- OPEN becomes CLOSED-INPUT once the last window count is placed on every feeding port (R137). -/
def State.closeInput (s : State) (id : Nat) : State :=
  let b := s.bob id
  if b.state = .open ∧ b.inputDone = true then s.setBob id { b with state := .closedInput } else s

/-- The bobbins fed by a port whose windows overlap a range. -/
def State.fedBy (s : State) (p : Nat) (lo hi : Int) : List Nat :=
  (s.bobs.filter fun e => e.2.state != .free && e.2.sample.isNone && bitAt e.2.ports p &&
    overlaps e.2.wstart e.2.wlast lo hi).map (·.1)

/-- Counts `lo` to `hi` have been placed on a port for one bobbin. -/
def State.placeFor (s : State) (p : Nat) (lo hi : Int) (id : Nat) : State :=
  let b := s.bob id
  State.closeInput ((s.setBob id { b with placed := tset b.placed p (addRange (b.placedOn p) lo hi) }).wake id) id

/-- Counts `lo` to `hi` have been placed on a port. -/
def State.place (s : State) (p : Nat) (lo hi : Int) : State :=
  foldState (fun t id => t.placeFor p lo hi id) s (s.fedBy p lo hi)

/-! ### Holes (R92, R93) -/

/-- The last element of a list replaced. -/
def mapLast {α : Type} (f : α → α) : List α → List α
  | [] => []
  | [a] => [f a]
  | a :: t => a :: mapLast f t

/-- Whether a count lies in one of some ranges. -/
def inRanges (rs : List (Int × Int)) (pos : Int) : Bool := rs.any fun h => decide (h.1 ≤ pos) && decide (pos ≤ h.2)

/-- A stored line notes a hole that meets its span. -/
def Line.noteGap (lo hi : Int) (l : Line) : Line :=
  if overlaps lo hi l.pos l.hi then { l with gaps := l.gaps ++ [(lo, hi)] } else l

/-- The stored lines of a port note a hole. -/
def CamPort.noteGap (c : CamPort) (lo hi : Int) : CamPort :=
  { c with held := c.held.map (Line.noteGap lo hi), outs := c.outs.map (Line.noteGap lo hi) }

/-- A hole marks a bobbin INCOMPLETE, unless the test has been made. -/
def State.markHole (s : State) (p id : Nat) : State :=
  let b := s.bob id
  if b.tested then s
  else s.setBob id { b with incomplete := true, incPorts := if bitAt b.incPorts p then b.incPorts else b.incPorts + 2 ^ p }

/-- A standing hole lies in a bobbin's window (R405). -/
def State.markStood (s : State) (id : Nat) : State := s.setBob id { s.bob id with stood := true }

/-- Record a hole on a port: listed, or merged with the newest when the list is full; the bobbins whose windows it overlaps
become INCOMPLETE and count it as placed. -/
def State.addHole (s : State) (p : Nat) (lo hi : Int) : State :=
  if hi < lo then s
  else
    let c := s.cam p
    let full := decide (64 ≤ c.holes.length)
    let hs := if full then mapLast (fun h => (min h.1 lo, max h.2 hi)) c.holes else c.holes ++ [(lo, hi)]
    let r := if full then hs.getLastD (lo, hi) else (lo, hi)
    let t := (s.setCam p ({ c with holes := hs }.noteGap r.1 r.2)).put F.CAM_HOLES_ENTRIES hs.length p
    let u := if full then t.bump F.CAM_DROP_CNT_HOLE_MERGE p else t
    let v := foldState (fun w id => w.markHole p id) u (u.fedBy p r.1 r.2)
    v.place p r.1 r.2

/-- Whether a count of a port lies in a hole: a listed one, or a standing one, closed or not (R92, R405). -/
def State.inHole (s : State) (p : Nat) (pos : Int) : Bool :=
  inRanges (s.cam p).holes pos || inRanges (s.cam p).stood pos || (s.cam p).standing.any fun lo => decide (lo ≤ pos)

/-- The holes of a port that meet a span, for a line that is being stored. -/
def State.gapsOn (s : State) (p : Nat) (lo hi : Int) : List (Int × Int) :=
  ((s.cam p).holes ++ (s.cam p).stood).filter fun h => overlaps h.1 h.2 lo hi

/-- Whether a count of a stored line lies in a hole, also one that has left the list since (R83, R92, R193). -/
def State.lineGap (s : State) (p uid : Nat) (pos : Int) : Bool :=
  s.inHole p pos || ((s.cam p).held.find? (·.uid == uid)).any fun l => inRanges l.gaps pos

/-! ### The end of a bobbin's compute (R131, R198, R202, R209) -/

/-- A page has become free: the bobbins of the partition that waited for one are batch-ready from now (R208, R212). -/
def State.pageFreed (s : State) (p : Nat) : State :=
  { s with bobs := s.bobs.map fun (e : Nat × Bobbin) =>
      if e.2.partition == p && e.2.pageWait && e.2.readyAt.isNone then (e.1, { e.2 with readyAt := some s.time.now, pageWait := false })
      else e }

/-- Return the KV pages of a bobbin to its partition's pool. -/
def State.freePages (s : State) (id : Nat) : State :=
  let b := s.bob id
  let x := s.part b.partition
  let t := (s.setBob id { b with pages := [] }).setPart b.partition
    { x with pages := x.pages.filter fun e => e.2 != id }
  let u := if b.pages.isEmpty then t else t.pageFreed b.partition
  u.put F.SCHED_KV_USED_USED (u.part b.partition).pages.length b.partition

/-- Free the staging slots of a bobbin's tokens that meet a test. -/
def State.freeStage (s : State) (id : Nat) (which : Nat → Bool) : State :=
  let p := (s.bob id).partition
  let x := s.part p
  let t := s.setPart p { x with stage := x.stage.filter fun e => !(e.2.1 == id && which e.2.2) }
  t.put F.SCHED_STAGE_USED_USED (t.part p).stage.length p

/-- Discard the tasks of a bobbin that are ready or issued and not retired, with the commands that run them, in a loom or in a save
record, and count them. -/
def State.discardTasks (s : State) (id : Nat) : State :=
  let p := (s.bob id).partition
  let x := s.part p
  let mine := fun (t : Task) => t.bobbin == id
  let n := (x.ready.filter mine).length + (x.issued.filter mine).length
  let looms := x.issued.filterMap fun k => if mine k then k.loom else none
  let t := s.setPart p { x with
    ready := x.ready.filter (!mine ·), issued := x.issued.filter (!mine ·), waitSeen := x.waitSeen.filter (·.1 != id)
    drained := x.drained.filter fun d => !d.task.any (·.1 == id)
    saved := x.saved.map fun (e : Nat × Loom) => (e.1, e.2.cut (fun c => c.kind == 1 && c.bobbin == id) 3) }
  let u := foldState (fun (v : State) m => v.mapLoom m fun l => l.cut (fun c => c.kind == 1 && c.bobbin == id) 3) t looms
  (u.bumpBy F.MILL_STRIPE_CNT_CANCEL n (s.millOf p)).showReady p

/-- Release every take of a bobbin. -/
def State.releaseAll (s : State) (id : Nat) : State :=
  foldState (fun t p => t.mapLines p (·.dropBob id)) s (s.bob id).portList

/-- End a bobbin's compute: its tasks, lines, staging slots and pages are given up; the pages of a member of the running
step when that step completes. -/
def State.endCompute (s : State) (id : Nat) : State :=
  let b := s.bob id
  if b.ended then s
  else
    let t := (s.setBob id { b with computing := false, ended := true, waits := false }).releaseAll id
    let u := (t.discardTasks id).freeStage id fun _ => true
    if b.member then u else u.freePages id

/-- Show how many bobbins are not FREE. -/
def State.showBobs (s : State) : State :=
  let n := (s.bobs.filter fun e => e.1 < 0xF00).length
  (s.put F.BOB_IN_USE_PART n).put F.BOB_IN_USE_SAMPLE (s.bobs.length - n)

/-- A bobbin becomes FREE. -/
def State.freeBob (s : State) (id : Nat) : State :=
  State.showBobs { s with bobs := tdel s.bobs id, twin := { s.twin with
    waiting := tdel s.twin.waiting id, peerHeads := tdel s.twin.peerHeads id } }

/-! ### The twin's mirror (R401) -/

/-- The twin role: 0 NONE, 1 ACTIVE, 2 STANDBY. A split word acts as its reset value (R315). -/
def State.role (s : State) : Nat := if s.splitWord 3 then 0 else s.get F.TWIN_CTRL_ROLE

/-- Send one mirror item, in the model's own encoding, while this ACTIVE device mirrors to its partner. -/
def State.mirror (s : State) (code : Nat) (ws : List Word) : State :=
  if s.role = 1 ∧ s.twin.syncSent = true then s.linkSend 0x7 1 (w32 code :: ws) else s

end Sys2Proof.Machine
end

