-- ==== Sys2Proof/Machine/Bobbins.lean ====
section
/-! DEFINITION. Part bobbins (chapters 01 and 06): messages to the field die, the creation of a bobbin and its eject-table
entry, what lines it takes, the start of its compute, and its verdict record. -/

namespace Sys2Proof.Machine

/-! ### Critical words (R315) -/

/-- A critical register: a split word acts as its reset value. -/
def State.crit (s : State) (word : Nat) (r : Reg) (i : Nat := 0) : Nat :=
  if s.splitWord word then r.reset i 0 else s.reg r i

/-- BOB_PROV_TABLE's action for a class (R27). -/
def State.provAction (s : State) (cls : Nat) : Nat := bitsOf (s.crit 6 R.BOB_PROV_TABLE) (2 * cls) 2

/-- The class-action map of a partition (R135). -/
def State.classAction (s : State) (p cls : Nat) : Nat := bitsOf (s.crit (7 + p) R.BOB_CLASS_MAP p) (2 * cls) 2

/-- A field of a lane's BOB_LANE_CFG. -/
def State.laneCfg (s : State) (f : Fld) (l : Nat) : Nat := bitsOf (s.crit (15 + l) R.BOB_LANE_CFG l) f.lo f.width

/-- The lead (R31). -/
def State.lead (s : State) : Nat := bitsOf (s.crit 31 R.FIELD_EJECT_LEAD) 0 16

/-! ### The device's end of the field link: messages and entries -/

/-- Give the field link one message to send. -/
def State.fieldSend (s : State) (m : Msg) : State :=
  { s with field := { s.field with link := { s.field.link with queue := s.field.link.queue ++ [m] } } }

/-- Whether a message carries a recorded value: CFG or STOP_CLEAR. -/
def Msg.isValue (m : Msg) : Bool :=
  match m with
  | .cfg _ _ => true
  | .stopClear => true
  | _ => false

/-- The messages that wait or are not acknowledged. -/
def FieldDev.outbox (d : FieldDev) : List Msg := d.link.unacked.map (·.2) ++ d.link.queue

/-- Show FIELD_LINK_STAT.PENDING and FIELD_STOP.CLEAR_PENDING (R345). -/
def State.showPending (s : State) : State :=
  let o := s.field.outbox
  (s.putBit F.FIELD_LINK_STAT_PENDING (o.any (·.isValue) || s.field.allDue)).putBit F.FIELD_STOP_CLEAR_PENDING
    (o.contains .stopClear)

/-- Record a field-die setting: the mirror shows it at once, and its CFG message waits for the link (R345). Until every
setting has been sent once, none is sent singly. -/
def State.setField (s : State) (r : Reg) (v : Nat) (i : Nat := 0) : State :=
  let t := s.setReg r v i
  State.showPending (if t.field.allDue then t else t.fieldSend (.cfg (cfgIndex r i) (t.reg r i)))

/-- Record one field of a field-die setting. -/
def State.putField (s : State) (f : Fld) (v : Nat) (i : Nat := 0) : State :=
  s.setField f.reg (setBits (s.reg f.reg i) f.lo f.width v) i

/-- The lowest entry number that is free and that no pending amendment names (R338).
(DESIGN CHOICE: notes/assumptions 50.) -/
def State.freeEntryNo (s : State) : Option Nat :=
  lowestFree (s.field.table.map (·.1) ++ s.field.amends.map (·.entry)) 256

/-- Show FIELD_TABLE. -/
def State.showTable (s : State) : State :=
  (s.put F.FIELD_TABLE_USED s.field.table.length).peak F.FIELD_TABLE_PEAK s.field.table.length

/-- Whether an entry that counts as armed names an output (R134). -/
def State.outputArmed (s : State) (o : Nat) : Bool := s.field.table.any fun e => bitAt e.2.mask o

/-- Write an eject-table entry: ENTRY_A, ENTRY_B and ENTRY_C (R335). -/
def State.sendEntry (s : State) (e : Nat) (d : DevEntry) (bobbin prov : Nat) (us : Bool) (width lead : Nat) (eject : Int) :
    State :=
  let v := unsigned 48 eject
  let t := ((s.fieldSend (.entryA e bobbin d.mask d.enc prov us)).fieldSend (.entryB (v % 2 ^ 40))).fieldSend
    (.entryC (v / 2 ^ 40) lead width)
  State.showTable { t with field := { t.field with table := tset t.field.table e d } }

/-! ### Lines of a bobbin (R130, R131) -/

/-- The lowest count a bobbin takes on a port: its window start, or the retained floor of its creation. -/
def Bobbin.floorOn (b : Bobbin) (p : Nat) : Int := max b.wstart (tgetD b.floors p b.wstart)

/-- Whether a bobbin takes a line of a port: its position lies in the window and its compute has not ended. -/
def Bobbin.takes (b : Bobbin) (p : Nat) (pos : Int) : Bool :=
  b.state != .free && b.sample.isNone && bitAt b.ports p && !b.ended && decide (b.floorOn p ≤ pos) &&
    decide (pos ≤ b.wlast)

/-- Whether a bobbin's take of a line has a release count at all: a count of zero holds nothing. -/
def State.holds (s : State) (b : Bobbin) (p : Nat) (l : Line) : Bool :=
  !b.computing || l.stage == 1 || decide (0 < s.takeCount b p l)

/-- The takes of a line that is stored: every bobbin whose window contains its position. -/
def State.bobTakers (s : State) (p : Nat) (l : Line) : List Taker :=
  (s.bobs.filter fun e => e.2.takes p l.pos && s.holds e.2 p l).map fun e => .bobbin e.1 0

/-- The mode 3 taps in force that take an output line: it lies in the window of a bobbin of the port without a final action
(R121). -/
def State.tapTakers (s : State) (p : Nat) (pos : Int) : List Taker :=
  let live := s.bobs.any fun e =>
    [BobState.arming, .open, .closedInput, .decided].contains e.2.state && bitAt e.2.ports p &&
      decide (e.2.wstart ≤ pos) && decide (pos ≤ e.2.wlast)
  if live then ((s.cam p).taps.filter (·.mode == 3)).map fun e => .tap e.q e.n else []

/-- A line with the takers that it has not yet. -/
def Line.also (l : Line) (ts : List Taker) : Line := { l with takers := l.takers ++ ts.filter (!l.takers.contains ·) }

/-- A bobbin created after lines were stored takes those of its window: lines that go straight to it, lines that await
their pipe, and output lines, which mode 3 taps take with it. -/
def State.takeStored (s : State) (id p : Nat) : State :=
  let b := s.bob id
  let c := s.cam p
  let f := fun (l : Line) =>
    if l.stage ≠ 2 ∧ b.takes p l.pos = true then { l with takers := l.takers ++ [.bobbin id 0] } else l
  let g := fun (l : Line) =>
    if b.takes p l.pos then State.tapTakers s p l.pos |> Line.also { l with takers := l.takers ++ [.bobbin id 0] } else l
  let t := s.setCam p { c with held := c.held.map f, outs := c.outs.map g }
  let here := (c.held.filter (·.stage == 0)) ++ c.outs
  foldState (fun u l => u.placeFor p l.pos l.hi id) t (here.filter fun l => b.takes p l.pos)

/-- The holes of a port count for a bobbin that is created (R93). -/
def State.takeHoles (s : State) (id p : Nat) : State :=
  let b := s.bob id
  let take := fun (t : State) (h : Int × Int) =>
    if overlaps h.1 h.2 b.wstart b.wlast then (t.markHole p id).placeFor p h.1 h.2 id else t
  let t := foldState take s ((s.cam p).holes ++ (s.cam p).stood)
  match (s.cam p).standing with
  | some lo => if lo ≤ b.wlast then take (t.markStood id) (lo, b.wlast) else t
  | none => t

/-- The counts of the window below a port's retained floor count as a hole for the bobbin (R93). -/
def State.takeFloor (s : State) (id p : Nat) : State :=
  let b := s.bob id
  match s.retainFloor p with
  | some f =>
    let t := s.setBob id { b with floors := tset b.floors p f }
    if b.wstart < f then (t.markHole p id).placeFor p b.wstart (min (f - 1) b.wlast) id else t
  | none => s

/-! ### The start of compute (R135, R190, R203, R278) -/

/-- Drop the takes whose release count is zero. -/
def State.dropEmptyTakes (s : State) (id : Nat) : State :=
  let b := s.bob id
  foldState (fun t p => t.mapLines p fun l => if t.holds b p l then l else l.dropBob id) s b.portList

/-- Start a bobbin's compute under its partition's job. -/
def State.startCompute (s : State) (id : Nat) : State :=
  let b := s.bob id
  match s.jobModel b.partition with
  | none => s
  | some m =>
    let n := tokensOf b.wlen m.info.tokenR
    let wrong := s.stitchWidth b != m.info.width || b.portList.any fun p => s.portComps p != m.info.comps
    let u := if wrong then s.bump F.MILL_STRIPE_CNT_WIDTH_ERR (s.millOf b.partition) else s
    let v := if m.info.tMax < n then u.bump F.SCHED_ATTN_CNT_TOKEN_ERR b.partition else u
    if wrong || decide (m.info.tMax < n) then
      State.endCompute (v.setBob id { b with refusedJob := true, waits := false }) id
    else
      let t := s.setBob id { b with
        computing := true, waits := false, refusedJob := false, tokens := n, slot := m.slot.getD 0 }
      (t.dropEmptyTakes id).wake id

/-- Whether a STANDBY device computes nothing: warm mode (R402). -/
def State.computesNothing (s : State) : Bool := s.role == 2 && !s.on F.TWIN_CTRL_HOT

/-- The job of a bobbin's partition is judged as the bobbin enters OPEN (R135). A bobbin for which no job runs waits: a job
that reaches RUNNING before the bobbin's compute has ended starts it (R278). (DEDUCED: notes/assumptions 48.) -/
def State.judgeJob (s : State) (id : Nat) : State :=
  let b := s.bob id
  let j := s.get F.SCHED_JOB_STATE b.partition
  if s.computesNothing then s.setBob id { b with waits := true }
  else if !s.hasPart b.partition || j == 0 || j == 6 then s.setBob id { b with refusedJob := true, waits := true }
  else if j = 1 then s.setBob id { b with waits := true }
  else s.startCompute id

/-! ### Records (R25, R30, R78, R402) -/

/-- The flags of a part's record; LATE where the provisional action stood. -/
def Bobbin.flags (b : Bobbin) : RecFlags :=
  { late := !b.amended, poison := b.poison, incomplete := b.incomplete, scaleAlarm := b.alarm,
    early := b.early && b.amended, mismatch := b.mismatch }

/-- The bobbin's single verdict record, with its time; a STANDBY device sends none (R402). -/
def State.bobRecord (s : State) (id time : Nat) : State :=
  let b := s.bob id
  if b.recorded || s.role == 2 then s
  else
    let cls := if b.amended then b.cls else 0xFF
    let conf := if b.amended then b.conf else 0
    let e := unsigned 48 b.eject
    let t := s.setBob id { b with recorded := true, late := !b.amended }
    t.record b.serial (id + 2 ^ 12 * b.slot + 2 ^ 24 * cls) (e % 2 ^ 32) (e / 2 ^ 32) conf b.flags time id

/-- A bobbin passes to FREE, its compute ended. -/
def State.retireBob (s : State) (id : Nat) : State :=
  ((s.endCompute id).freeBob id).mirror 4 [w32 id]

/-! ### Creation (R17, R19, R123, R124, R129) -/

/-- The lowest free part bobbin above the one allocated last, wrapping from 0xEFF to 0x000 (R123). -/
def State.nextBob (s : State) : Option Nat :=
  ((List.range (min 3840 (s.bobs.length + 1))).map fun i => (s.lastBob + 1 + i) % 3840).find? fun id =>
    (tget? s.bobs id).isNone

/-- A part without a bobbin (R19). -/
def State.untracked (s : State) : State := (s.bump F.BOB_UNTRACKED_PARTS).raise F.HOST_IBI_CAUSE_UNTRACKED

/-- A tap counts one more of what it selects; the flag says that this one is the Nth. -/
def State.tapCount (s : State) (e : TapSet) : State × Bool :=
  let x := s.pipe e.q
  let k := tgetD x.tapSeen e.n 0 + 1
  let nth := decide (e.every ≤ k)
  (s.setPipe e.q { x with tapSeen := tset x.tapSeen e.n (if nth then 0 else k) }, nth)

/-- A tap in mode 2 counts a created bobbin of its rules; every Nth is selected (R121). -/
def State.tapCreated (s : State) (id p : Nat) (e : TapSet) : State :=
  let b := s.bob id
  if e.mode = 2 ∧ bitAt e.rules b.rule = true then
    let r := s.tapCount e
    if r.2 then
      let x := r.1.pipe e.q
      r.1.setPipe e.q { x with tapBobs := x.tapBobs ++
        [{ port := p, tap := e.n, bobbin := id, base := b.wstart, last := b.wlast, serial := b.serial }] }
    else r.1
  else s

/-- Every tap in force on a port of a created bobbin counts it. -/
def State.tapsCreated (s : State) (id : Nat) : State :=
  foldState (fun t p => foldState (fun u e => u.tapCreated id p e) t (t.cam p).taps) s (s.bob id).portList

/-- What a mirrored creation carries: the bobbin's own words (R401). -/
def Bobbin.words (b : Bobbin) (id lead unit width : Nat) : List Word :=
  [w32 id, w32 b.serial, w32 (b.rule + 2 ^ 4 * b.lane + 2 ^ 8 * b.prov + 2 ^ 12 * b.partition + 2 ^ 16 * b.enc +
    2 ^ 17 * b.provAct + 2 ^ 24 * b.mask), w32 b.ports, w32 (unsigned 48 b.wstart), w32 (unsigned 48 b.wstart / 2 ^ 32 +
    2 ^ 16 * b.wlen), w32 (unsigned 48 b.eject), w32 (unsigned 48 b.eject / 2 ^ 32 + 2 ^ 16 * lead), w32 width, w32 unit]

/-- The words of a creation with the lane's pulse. (DEDUCED: notes/assumptions 157.) -/
def State.bobWords (s : State) (id : Nat) (b : Bobbin) : List Word :=
  b.words id (wrap48 (b.eject - b.close)).toNat (s.laneCfg F.BOB_LANE_CFG_UNIT b.lane) (s.laneCfg F.BOB_LANE_CFG_WIDTH b.lane)

/-- A new bobbin of a rule whose window starts at a count. -/
def State.newBobbin (s : State) (r e : Nat) (wstart : Int) : Bobbin :=
  let lane := s.get F.BOB_RULE_CTRL_LANE r
  let cls := s.get F.BOB_RULE_CTRL_PROV_CLASS r
  let eject := wrap48 (wstart + s.get F.BOB_LANE_OFFSET_OFFSET lane)
  { state := .arming, serial := s.get F.BOB_SERIAL_NEXT, rule := r, lane := lane, prov := cls
    partition := s.get F.BOB_RULE_CTRL_PARTITION r, enc := s.get F.BOB_RULE_CTRL_ENC r
    ports := s.get F.BOB_RULE_CTRL_PORTS r, wstart := wstart, wlen := (s.rule r).wlen, eject := eject
    close := wrap48 (eject - s.lead), entry := some e, provAct := s.provAction cls
    mask := s.laneCfg F.BOB_LANE_CFG_MASK lane, valve := s.reg R.BOB_LANE_VALVE lane
    advance := s.reg R.BOB_LANE_ADVANCE lane }

/-- Create a bobbin with its id and entry. -/
def State.createBob (s : State) (r id e : Nat) (wstart : Int) : State :=
  let b := s.newBobbin r e wstart
  let t := (({ s with lastBob := id }.setBob id b).put F.BOB_SERIAL_NEXT (b.serial + 1)).showBobs
  let d : DevEntry := { bobbin := some id, standby := false, mask := b.mask, enc := b.enc }
  let u := t.sendEntry e d id b.provAct (s.laneCfg F.BOB_LANE_CFG_UNIT b.lane != 0)
    (s.laneCfg F.BOB_LANE_CFG_WIDTH b.lane) s.lead b.eject
  let v := foldState (fun w p => ((w.takeFloor id p).takeHoles id p).takeStored id p) u b.portList
  (v.tapsCreated id).mirror 1 (s.bobWords id b)

/-- A rule has found a part with a trigger count (R127, R129): a bobbin, or an untracked part. A STANDBY device's rules
create no bobbins (R402). (DEDUCED: notes/assumptions 52.) -/
def State.partFound (s : State) (r : Nat) (c : Int) : State :=
  if s.role = 2 then s
  else if s.isSplit || !s.on F.FIELD_LINK_STAT_UP || s.on F.FIELD_LINK_STAT_SAFE || !s.on F.FIELD_LINK_STAT_COUNT_VALID
  then s.untracked
  else
    match s.nextBob, s.freeEntryNo with
    | some id, some e => s.createBob r id e (wrap48 (c + (s.rule r).offset))
    | _, _ => s.untracked

end Sys2Proof.Machine
end

