-- ==== Sys2Proof/Machine/HostLink.lean ====
section
/-! DEFINITION. The host link's command path (chapter 03): the opcode table of R80, the header checks of R69, the lists of
accepted commands, the start of a command and its replies, and the packets that arrive on host CSI-2. -/

namespace Sys2Proof.Machine

/-- A row of the opcode table of R80: the opcode, how many targets it has (1 where the column shows a dash), the
fewest and most parameter words, and whether the count is a range. -/
structure OpRow where
  op      : Nat
  targets : Nat := 1
  least   : Nat := 0
  most    : Nat := 0
  range   : Bool := false
  deriving DecidableEq, Repr

/-- The rows 0x01xx to 0x04xx of R80. -/
def opRows0 : List OpRow := [
  { op := 0x0100 }, { op := 0x0101 }, { op := 0x0102 }, { op := 0x0103, least := 1, most := 1 },
  { op := 0x0201, targets := 17, least := 8, most := 8 }, { op := 0x0202, targets := 17 },
  { op := 0x0203, targets := 17, least := 3, most := 3 }, { op := 0x0204, targets := 4, least := 6, most := 6 },
  { op := 0x0205, targets := 4, least := 2, most := 2 }, { op := 0x0206, targets := 4, least := 4, most := 4 },
  { op := 0x0207, targets := 4, least := 2, most := 2 },
  { op := 0x0301, least := 1, most := 1 }, { op := 0x0302, targets := 16, least := 6, most := 6 },
  { op := 0x0303, targets := 16 }, { op := 0x0304, targets := 16, least := 5, most := 5 },
  { op := 0x0305, targets := 8, least := 1, most := 1 }, { op := 0x0306, least := 3, most := 3 },
  { op := 0x0307, least := 1, most := 1 },
  { op := 0x0401, least := 2, most := 2 }, { op := 0x0402, least := 1, most := 1 },
  { op := 0x0403, least := 2, most := 2 }, { op := 0x0404, targets := 8, least := 2, most := 2 },
  { op := 0x0405, targets := 8 }, { op := 0x0406, targets := 8, least := 2, most := 2 },
  { op := 0x0407, targets := 8 }, { op := 0x0408, targets := 8 },
  { op := 0x0409, targets := 8, least := 1, most := 1 }, { op := 0x040A, targets := 8 },
  { op := 0x040B, targets := 8, least := 1, most := 1 }, { op := 0x040C, least := 1, most := 1 }]

/-- The rows 0x05xx to 0x0Axx of R80. -/
def opRows1 : List OpRow := [
  { op := 0x0501, least := 3, most := 3 }, { op := 0x0502, least := 2, most := 1020, range := true },
  { op := 0x0503, least := 4, most := 4 }, { op := 0x0504, least := 2, most := 2 },
  { op := 0x0601 }, { op := 0x0602, targets := 2, least := 4, most := 4 }, { op := 0x0603, targets := 2 },
  { op := 0x0604, targets := 2, least := 4, most := 4 }, { op := 0x0605, targets := 2, least := 1, most := 1 },
  { op := 0x0606, targets := 2 },
  { op := 0x0701, targets := 16, least := 2, most := 2 }, { op := 0x0702, targets := 8, least := 2, most := 2 },
  { op := 0x0703, targets := 8 }, { op := 0x0704, targets := 8, least := 1, most := 1 },
  { op := 0x0705, targets := 2, least := 3, most := 3 }, { op := 0x0706, least := 1, most := 1 },
  { op := 0x0707 }, { op := 0x0708, least := 1, most := 1 },
  { op := 0x0801, least := 2, most := 2 }, { op := 0x0802 }, { op := 0x0803 },
  { op := 0x0804, targets := 10, least := 3, most := 3 },
  { op := 0x0901, least := 1, most := 1 }, { op := 0x0902, least := 2, most := 11, range := true },
  { op := 0x0903 }, { op := 0x0904, least := 10, most := 10 }, { op := 0x0905, least := 2, most := 2 },
  { op := 0x0A01 }, { op := 0x0A02, least := 2, most := 2 }, { op := 0x0A03, least := 2, most := 2 },
  { op := 0x0A04, least := 2, most := 2 }]

/-- The row of an opcode. -/
def opRow? (op : Nat) : Option OpRow := (opRows0 ++ opRows1).find? (·.op == op)

/-! ### The header (R67, R69) -/

/-- A command packet laid open: its header words and its parameter words as they came. -/
structure Packet where
  w0     : Nat
  w1     : Nat
  bulk   : Nat
  crc    : Word
  params : List Word
  deriving DecidableEq, Repr

/-- QUAD of word 0. -/
def Packet.quad (p : Packet) : Bool := bitAt p.w0 18

/-- The opcode. -/
def Packet.op (p : Packet) : Nat := bitsOf p.w0 0 16

/-- The parameter words that COUNT and QUAD give. -/
def Packet.words (p : Packet) : Nat := if p.quad then 4 * bitsOf p.w1 16 8 else bitsOf p.w1 16 8

/-- The CRC over words 0, 1, 2 and the parameters (R68). -/
def Packet.crcHolds (p : Packet) : Bool := crcWords ([w32 p.w0, w32 p.w1, w32 p.bulk] ++ p.params) == p.crc

/-- Whether a command comes over host CSI-2. -/
def isCsi : Source → Bool
  | .csi _ => true
  | _ => false

/-- Check 3 of R69: flags, path limits, the parameter count, the target and BULK_LEN. (DESIGN CHOICE: notes/assumptions 25.) -/
def Packet.formOk (p : Packet) (src : Source) (row : OpRow) : Bool :=
  let csi := isCsi src
  let n := p.words
  let t := bitsOf p.w1 24 8
  let counted :=
    if row.range then
      decide (row.least ≤ n) && decide (n ≤ (if csi then row.most else 11))
    else if p.quad then
      decide (row.most ≤ n) && decide (n ≤ row.most + 3) && (p.params.drop row.most).all (· == 0)
    else n == row.most
  let writeOk := p.op != 0x0502 || (n == 2 && p.bulk != 0) || (decide (3 ≤ n) && p.bulk == 0)
  bitsOf p.w0 19 5 == 0 && (csi || (!p.quad && p.bulk == 0)) && (csi || decide (n ≤ 11)) &&
    counted && writeOk && decide (t < row.targets) && p.bulk % 4 == 0

/-- The opcodes the boot ROM accepts (R69). -/
def bootOps : List Nat := [0x0100, 0x0101, 0x0901, 0x0902]

/-- The opcodes still accepted after a split (R315). -/
def splitOps : List Nat := [0x0100, 0x0101, 0x0102, 0x0501, 0x0A03]

/-- The opcodes MBX_T2D accepts (R396). -/
def twinOps : List Nat := [0x0100, 0x0101, 0x0601, 0x0307, 0x0802]

/-- The opcodes that firmware refuses before READY (R417). -/
def preReadyRefused (op : Nat) : Bool :=
  op / 256 == 2 || op / 256 == 3 || op / 256 == 4 || [0x0801, 0x0803, 0x0903, 0x0904].contains op

/-- Check 4 of R69: whether the opcode is accepted in the present state. An opcode that MBX_T2D does not accept and that
firmware refuses before READY completes with NOT_READY. (DESIGN CHOICE: notes/assumptions 183.) -/
def State.stateRefusal (s : State) (src : Source) (op : Nat) : Option Status :=
  if s.isSplit && !splitOps.contains op then some .badState
  else if s.boot.transition.isSome && !([0x0100, 0x0101].contains op) then some .busy
  else if s.on F.HOST_STATUS_BOOT_ROM && !bootOps.contains op then some .notReady
  else if !s.on F.HOST_STATUS_READY && preReadyRefused op then some .notReady
  else if src = .t2d ∧ twinOps.contains op = false then some .badState
  else none

/-- The commands of one source that are outstanding (R70). -/
def State.outstanding (s : State) (src : Source) : Nat :=
  (s.host.waiting.filter (·.1 == src)).length + (s.host.running.filter (·.1 == src)).length

/-- The checks of R69 in order; the status of the first that fails. -/
def State.headerRefusal (s : State) (src : Source) (p : Packet) (lengthOk : Bool) : Option Status :=
  if !lengthOk then some .badParam
  else if !p.crcHolds then some .crcFail
  else
    match opRow? p.op with
    | none => some .badOpcode
    | some row =>
      if bitsOf p.w0 24 8 ≠ 1 then some .badOpcode
      else if !p.formOk src row then some .badParam
      else
        match s.stateRefusal src p.op with
        | some st => some st
        | none => if 32 ≤ s.outstanding src then some .busy else none

/-- The command of a packet. -/
def Packet.cmd (p : Packet) : Cmd :=
  { opcode := p.op, replyCsi := bitAt p.w0 16, quiet := bitAt p.w0 17, tag := bitsOf p.w1 0 16,
    target := bitsOf p.w1 24 8, params := p.params, bulkLen := p.bulk,
    bulkEnd := if p.bulk = 0 then .none else .awaiting }

/-- A command packet of a source: refused with its status, or accepted to wait for its start (R69, R70). -/
def State.takePacket (s : State) (src : Source) (p : Packet) (lengthOk : Bool) : State :=
  match s.headerRefusal src p lengthOk with
  | some st => s.reply src p.cmd st
  | none => { s with host := { s.host with waiting := s.host.waiting ++ [(src, p.cmd)] } }

/-- The packet that mailbox words hold: of the parameter words that COUNT and QUAD give, the 12 that the data registers can
hold. (DESIGN CHOICE: notes/assumptions 25.) -/
def mailPacket (ws : List Word) : Packet :=
  let w := fun i => (ws.getD i 0).toNat
  let p : Packet := { w0 := w 0, w1 := w 1, bulk := w 2, crc := ws.getD 3 0, params := [] }
  { p with params := (ws.drop 4).take (min p.words 12) }

/-- The packet that a host CSI-2 payload holds. -/
def csiPacket (bs : List Byte) : Packet :=
  let ws := bytesWords bs
  let w := fun i => (ws.getD i 0).toNat
  { w0 := w 0, w1 := w 1, bulk := w 2, crc := ws.getD 3 0, params := ws.drop 4 }

/-! ### The start of a command (R70, R71) -/

/-- What a command's start leads to: a final reply, ACCEPTED with its work begun, or its work begun with its one reply
still to come. -/
inductive Answer where
  | final (st : Status) (ws : List Word := [])
  | begun
  | later
  deriving DecidableEq, Repr

/-- The oldest waiting command of a source. -/
def State.oldest (s : State) (src : Source) : Option Cmd := (s.host.waiting.find? (·.1 == src)).map (·.2)

/-- The opcodes that touch SYS_OWN (R52). (DEDUCED: notes/assumptions 186.) -/
def ownOps : List Nat :=
  [0x0201, 0x0202, 0x0203, 0x0302, 0x0303, 0x0304, 0x0605, 0x0606, 0x0701, 0x0702, 0x0703, 0x0704, 0x0705, 0x0A02]

/-- Whether the oldest command of a source may start: the one before it has sent its ACCEPTED or final reply (R70), and no
command that touches SYS_OWN has been accepted before it from another source, if it touches SYS_OWN itself (R52). -/
def State.mayStart (s : State) (src : Source) (op : Nat) : Bool :=
  !(s.host.running.any fun e => e.1 == src && e.2.silent) &&
    (!ownOps.contains op || (s.host.waiting.find? fun e => ownOps.contains e.2.opcode).all fun e => e.1 == src)

/-- The opcodes whose own text says what becomes of bulk data cut short (R114, R413, R80). -/
def bulkOps : List Nat := [0x0205, 0x0502, 0x0901]

/-- Whether an answer ends the command with a failure. -/
def Answer.fails : Answer → Bool
  | .final st _ => st.code != 0
  | _ => false

/-- Take the oldest waiting command of a source from its list. -/
def State.dropOldest (s : State) (src : Source) : State :=
  { s with host := { s.host with waiting := removeFirst (·.1 == src) s.host.waiting } }

/-- Apply a command's answer: its reply, and its place among the running commands. -/
def State.answer (s : State) (src : Source) (c : Cmd) : Answer → State
  | .final st ws => s.reply src c st ws
  | .later => { s with host := { s.host with running := s.host.running ++ [(src, { c with silent := true })] } }
  | .begun => (State.reply { s with host := { s.host with running := s.host.running ++ [(src, c)] } } src c .accepted)

/-- The status with which a command ends whose bulk ended early. -/
def Cmd.bulkStatus (c : Cmd) : Status :=
  match c.bulkEnd with
  | .truncated => .truncated
  | .timedOut => .timeout
  | _ => .done

/-- What a command does that may start (R74). One that fails a check of its own ends at once, whatever its bulk; otherwise it
waits for its bulk, except CMD_FW_LOAD, which replies ACCEPTED first (R413), and bulk cut short ends it.
(DEDUCED: notes/assumptions 185.) -/
def State.begin (s : State) (src : Source) (c : Cmd) (body : State → Cmd → State × Answer) : State :=
  let r := body (s.dropOldest src) c
  if r.2.fails || c.opcode == 0x0901 then r.1.answer src c r.2
  else if c.bulkEnd = .awaiting then s
  else if c.bulkStatus ≠ .done ∧ bulkOps.contains c.opcode = false then
    (s.dropOldest src).answer src c (.final c.bulkStatus)
  else r.1.answer src c r.2

/-- Start the oldest command of a source, if it is the one the row names; its body says what it does. -/
def State.startCmd (s : State) (src : Source) (op : Nat) (body : State → Cmd → State × Answer) : State :=
  match s.oldest src with
  | some c => if c.opcode = op ∧ s.mayStart src op = true then s.begin src c body else s
  | none => s

/-- The start of a command as a meaning. -/
def runCmd (s : State) (src : Source) (op : Nat) (body : State → Cmd → State × Answer) :
    Host.Outcome State Fault Refusal := onDevice s fun s => s.startCmd src op body

/-- A parameter word of a command (0 where absent). -/
def Cmd.p (c : Cmd) (i : Nat) : Nat := (c.params.getD (i - 1) 0).toNat

/-- Refuse with a status, nothing changed. -/
def refuse (s : State) (st : Status) : State × Answer := (s, .final st)

/-- Complete with DONE. -/
def doneWith (s : State) (ws : List Word := []) : State × Answer := (s, .final .done ws)

/-- The oldest running command with an opcode. -/
def State.runningCmd (s : State) (op : Nat) : Option (Source × Cmd) :=
  s.host.running.find? (fun e => e.2.opcode == op)

/-- The oldest running command with an opcode and a target. -/
def State.runningFor (s : State) (op target : Nat) : Option (Source × Cmd) :=
  s.host.running.find? (fun e => e.2.opcode == op && e.2.target == target)

/-- End a running command with its final reply. -/
def State.finish (s : State) (e : Source × Cmd) (st : Status) (ws : List Word := []) : State :=
  State.reply { s with host := { s.host with running := removeFirst (· == e) s.host.running } } e.1 e.2 st ws

/-- End the oldest running command with an opcode, if there is one. -/
def State.finishOp (s : State) (op : Nat) (st : Status) (ws : List Word := []) : State :=
  match s.runningCmd op with
  | some e => s.finish e st ws
  | none => s

/-- End the oldest running command with an opcode and a target, if there is one. -/
def State.finishFor (s : State) (op target : Nat) (st : Status) (ws : List Word := []) : State :=
  match s.runningFor op target with
  | some e => s.finish e st ws
  | none => s

/-! ### Packets on host CSI-2 receive (R73, R74) -/

/-- Count a discarded packet or surplus. -/
def State.rxDiscard (s : State) : State := s.bump F.HOST_RX_CNT_DISCARD

/-- Count a packet discarded for its header or CRC, and notify. -/
def State.rxError (s : State) : State := (s.bump F.HOST_RX_CNT_CRC_ERR).raise F.HOST_IBI_CAUSE_RX_ERR

/-- The filters of R73: `f` takes a packet that passes; the rest is counted and discarded. Before the receive port is
ready nothing is received (R410). A packet of another type or channel counts in DISCARD alone, whatever its CRC.
(DESIGN CHOICE: notes/assumptions 210.) -/
def State.rxFilter (s : State) (p : RxPacket) (f : State → Fin 4 → State) : State :=
  if !s.host.csiReady then s
  else if p.header ≥ 2 then s.rxError
  else
    let t := if p.header = 1 then s.bump F.HOST_RX_CNT_ECC_CORR else s
    if h : p.vc < 4 then
      if !p.listed then t.rxDiscard
      else if !p.crcOk then t.rxError
      else f t ⟨p.vc, h⟩
    else t.rxDiscard

/-- Change the command of a source that awaits bulk, wherever it stands. -/
def State.mapAwaiting (s : State) (src : Source) (f : Cmd → Cmd) : State :=
  let p := fun (e : Source × Cmd) => e.1 == src && e.2.bulkEnd == .awaiting
  let g := fun (e : Source × Cmd) => (e.1, f e.2)
  if s.host.waiting.any p then { s with host := { s.host with waiting := replaceFirst p g s.host.waiting } }
  else { s with host := { s.host with running := replaceFirst p g s.host.running } }

/-- The command of a source that awaits bulk. -/
def State.awaiting (s : State) (src : Source) : Option Cmd :=
  ((s.host.waiting ++ s.host.running).find? (fun e => e.1 == src && e.2.bulkEnd == .awaiting)).map (·.2)

/-- Take bulk bytes into a command. -/
def Cmd.takeBulk (c : Cmd) (bs : List Byte) : Cmd :=
  let all := c.bulk ++ bs
  { c with bulk := all.take c.bulkLen, bulkEnd := if c.bulkLen ≤ all.length then .complete else .awaiting }

/-- A bulk packet for a source: taken by the command that awaits it, surplus bytes counted, or discarded (R74). -/
def State.takeBulk (s : State) (src : Source) (bs : List Byte) : State :=
  match s.awaiting src with
  | none => s.rxDiscard
  | some c =>
    let t := s.mapAwaiting src (·.takeBulk bs)
    if c.bulkLen < c.bulk.length + bs.length then t.rxDiscard else t

/-- A new command packet ends the bulk that a command of the same channel still awaits (R74). -/
def State.truncateBulk (s : State) (src : Source) : State :=
  s.mapAwaiting src fun c => { c with bulkEnd := .truncated }

end Sys2Proof.Machine
end

