-- ==== Sys2Proof/Machine/RegWrite.lean ====
section
/-! DEFINITION. A write to a register of the register map (R10, R54, R55): which bits take the written value, and the lock
that a block holds. -/

namespace Sys2Proof.Machine

/-- Every bit of a word but those of a mask. -/
def without (x mask : Nat) : Nat := Nat.land x (0xFFFFFFFF - mask)

/-- The register after a write: RW and RWL bits take the value, W1C bits written 1 clear, W1S bits written 1 set. -/
def Reg.merge (r : Reg) (old v : Nat) : Nat :=
  let plain := Nat.lor r.rw r.rwl
  let x := Nat.lor (without old plain) (Nat.land v plain)
  Nat.lor (without x (Nat.land v r.w1c)) (Nat.land v r.w1s)

/-- Write a register by the access kinds of its fields. -/
def State.mergeReg (s : State) (r : Reg) (v : Nat) (i j : Nat := 0) : State :=
  s.setReg r (r.merge (s.reg r i j) v) i j

/-- Whether the block that holds an address is locked (R54). -/
def State.locked (s : State) (a : Nat) : Bool :=
  if a < 0x3F01000000 then bitAt (s.reg R.BLOCK_LOCK ((a - 0x3F00000000) / 0x100000)) 0
  else if a < 0x3F02000000 then bitAt (s.reg R.LOOM_LOCK ((a - 0x3F01000000) / 0x10000)) 0
  else bitAt (s.reg R.MILL_LOCK ((a - 0x3F02000000) / 0x10000)) 0

/-- Whether a lock refuses a write to a register: one of its fields is RWL and its block is locked (R55). -/
def State.refused (s : State) (r : Reg) (a : Nat) : Bool := r.rwl != 0 && s.locked a

end Sys2Proof.Machine
end

