-- ==== Sys2Proof/Machine/FieldOut.lean ====
section
/-! DEFINITION. The commands over the field die's inputs, outputs and encoders (R31, R345 to R357). Each records its
settings in the FIELD block; the field link carries them. -/

namespace Sys2Proof.Machine

/-- The threshold type of an input's group of four (R346). -/
def State.setThreshold (s : State) (i v : Nat) : State :=
  foldState (fun t j => t.putField F.FIELD_FI_CFG_TYPE3 v j) s ((List.range 4).map fun k => i / 4 * 4 + k)

/-- CMD_FI_CONFIG (R346). -/
def execCmdFiConfig (src : Source) (s : State) : Host.Outcome State Fault Refusal :=
  runCmd s src 0x0701 fun s c =>
    let i := c.target
    let action := bitsOf (c.p 1) 8 2
    if bitsOf (c.p 1) 1 7 ≠ 0 ∨ 2 ^ 10 ≤ c.p 1 ∨ 2 ≤ action ∨ 2 ^ 16 ≤ c.p 2 ∨ (action = 1 ∧ 4 ≤ i) then
      refuse s .badParam
    else if i < 4 ∧ s.owner i = ownProbe then refuse s .resourceHeld
    else if action = 1 then doneWith (s.own i ownNone 0)
    else
      let t := if i < 4 then s.own i ownDebounced 0 else s
      doneWith ((t.putField F.FIELD_FI_CFG_DEBOUNCE (c.p 2) i).setThreshold i (bitsOf (c.p 1) 0 1))

/-- CMD_FO_ASSIGN (R349): function 0x07 STOP_REQUEST or 0x08 GENERAL_OUTPUT. -/
def execCmdFoAssign (src : Source) (s : State) : Host.Outcome State Fault Refusal :=
  runCmd s src 0x0702 fun s c =>
    let i := c.target
    if (c.p 1 ≠ ownStop ∧ c.p 1 ≠ ownGeneral) ∨ c.p 2 ≠ 0 then refuse s .badParam
    else if s.heldByOther (5 + i) (c.p 1) 0 then refuse s .resourceHeld
    else
      let t := s.own (5 + i) (c.p 1) 0
      if c.p 1 = ownStop then
        doneWith ((t.setField R.FIELD_SAFE_VALUES (withBit (t.reg R.FIELD_SAFE_VALUES) i false)).putField
          (F.FIELD_FO_FUNC_FUNC i) 3)
      else doneWith (t.putField (F.FIELD_FO_FUNC_FUNC i) 4)

/-- An output returns to NONE: it goes off. -/
def State.releaseOutput (s : State) (i : Nat) : State :=
  let w := setBits (setBits (s.reg R.FIELD_FO_FUNC) (3 * i) 3 0) (24 + i) 1 0
  (s.own (5 + i) ownNone 0).setField R.FIELD_FO_FUNC w

/-- CMD_FO_RELEASE (R134, R349, R350). (DEDUCED: notes/assumptions 130.) -/
def execCmdFoRelease (src : Source) (s : State) : Host.Outcome State Fault Refusal :=
  runCmd s src 0x0703 fun s c =>
    let i := c.target
    let o := s.owner (5 + i)
    if o = ownLineTrigger then refuse s .resourceHeld
    else if o = ownEjector ∧ s.outputArmed i = true then refuse s .busy
    else if o = ownStop ∧ s.on F.FIELD_STOP_REQ = true then refuse s .busy
    else if o = ownNone then doneWith s
    else doneWith (s.releaseOutput i)

/-- CMD_FO_SET (R350). -/
def execCmdFoSet (src : Source) (s : State) : Host.Outcome State Fault Refusal :=
  runCmd s src 0x0704 fun s c =>
    if s.owner (5 + c.target) ≠ ownGeneral then refuse s .resourceHeld
    else doneWith (s.putField (F.FIELD_FO_FUNC_LEVEL c.target) (bitsOf (c.p 1) 0 1))

/-! ### Encoders (R357) -/

/-- Whether something names an encoder channel: an armed entry, an enabled rule, an enabled port, a running trigger. -/
def State.encInUse (s : State) (ch : Nat) : Bool :=
  (s.field.table.any fun e => e.2.enc == ch) ||
    ((List.range 16).any fun r => s.on F.BOB_RULE_CTRL_EN r && s.get F.BOB_RULE_CTRL_ENC r == ch) ||
    ((List.range 17).any fun p => s.get F.CAM_CTRL_ENC p == ch &&
      (s.on F.CAM_CTRL_EN p || (s.cam p).trigFo.isSome || (s.cam p).trigUnit.isSome))

/-- Whether the parameters of CMD_ENC_CONFIG are in range. (DEDUCED: notes/assumptions 131.) -/
def encOk (c : Cmd) : Bool :=
  let mode := bitsOf (c.p 1) 0 2
  let bits := bitsOf (c.p 2) 0 6
  let khz := bitsOf (c.p 2) 16 11
  decide (mode < 3) && (c.target == 1 || mode == 0) &&
    (mode != 1 || (decide (10 ≤ bits) && decide (bits ≤ 32) && decide (100 ≤ khz) && decide (khz ≤ 2000)))

/-- FIELD_ENCc_CFG after CMD_ENC_CONFIG; the strap's bit stays. -/
def encWord (old : Nat) (c : Cmd) : Nat :=
  let mode := bitsOf (c.p 1) 0 2
  let ssi := if mode = 1 then
      2 ^ 8 * bitsOf (c.p 2) 0 6 + 2 ^ 14 * bitsOf (c.p 3) 0 1 + 2 ^ 16 * bitsOf (c.p 2) 16 11
    else 0
  mode + 4 * bitsOf (c.p 1) 2 1 + 8 * bitsOf old 3 1 + 16 * bitsOf (c.p 1) 4 3 + ssi

/-- The bit that shows a channel's twin offset. -/
def offsetBit (c : Nat) : Fld := if c = 0 then F.TWIN_STAT_OFFSET_VALID0 else F.TWIN_STAT_OFFSET_VALID1

/-- A channel that takes SSI mode has no twin offset, and no index edge that could make one (R357, R400). -/
def State.dropOffset (s : State) (c : Nat) : State :=
  State.putBit { s with twin := { s.twin with index := tdel s.twin.index c, peerIndex := tdel s.twin.peerIndex c } }
    (offsetBit c) false

/-- CMD_ENC_CONFIG (R357): BAD_PARAM, then RESOURCE_HELD, then BUSY. -/
def execCmdEncConfig (src : Source) (s : State) : Host.Outcome State Fault Refusal :=
  runCmd s src 0x0705 fun s c =>
    let ch := c.target
    let mode := bitsOf (c.p 1) 0 2
    let owner := if mode = 0 then ownQuadrature else if mode = 1 then ownSsi else ownNone
    let changes := s.get F.FIELD_ENC_CFG_MODE ch != mode || s.get F.FIELD_ENC_CFG_INVERT ch != bitsOf (c.p 1) 2 1
    if !encOk c then refuse s .badParam
    else if ch = 1 ∧ mode ≠ 2 ∧ s.heldByOther 4 owner 0 = true then refuse s .resourceHeld
    else if changes && s.encInUse ch then refuse s .busy
    else
      let o := if ch = 1 then s.own 4 owner 0 else s
      let t := if mode = 1 then o.dropOffset ch else o
      doneWith (t.setField R.FIELD_ENC_CFG (encWord (s.reg R.FIELD_ENC_CFG ch) c) ch)

/-! ### Lead, stop request and safe values (R31, R351, R353) -/

/-- CMD_EJECT_LEAD_SET (R31). -/
def execCmdEjectLeadSet (src : Source) (s : State) : Host.Outcome State Fault Refusal :=
  runCmd s src 0x0706 fun s c =>
    if c.p 1 = 0 ∨ 65535 < c.p 1 then refuse s .badParam else doneWith ((s.put F.FIELD_EJECT_LEAD_LEAD (c.p 1)).stored 31)

/-- CMD_STOP_CLEAR (R345, R351). -/
def execCmdStopClear (src : Source) (s : State) : Host.Outcome State Fault Refusal :=
  runCmd s src 0x0707 fun s _ => doneWith (s.fieldSend .stopClear).showPending

/-- CMD_SAFE_VALUES_SET (R353). -/
def execCmdSafeValuesSet (src : Source) (s : State) : Host.Outcome State Fault Refusal :=
  runCmd s src 0x0708 fun s c =>
    let v := bitsOf (c.p 1) 0 8
    if s.locked R.FIELD_SAFE_VALUES.base || (List.range 8).any fun i => bitAt v i && s.owner (5 + i) == ownStop then
      refuse s .badState
    else doneWith (s.setField R.FIELD_SAFE_VALUES v)

/-! ### Writes to the FIELD block (R345) -/

/-- A host write to a FIELD register: its RW fields are recorded and sent as settings; the block's LOCK (R54) is the device's
own. -/
def State.writeField (s : State) (r : Reg) (v i : Nat) : State :=
  if r.base = R.BLOCK_LOCK.base then s.setReg r (r.merge (s.reg r i) v) i
  else if r.rw = 0 then s
  else s.setField r (r.merge (s.reg r i) v) i

/-- FIELD_REGISTER_WRITE (R345). -/
def execFieldRegisterWrite (address : Nat) (value : Word) (s : State) : Host.Outcome State Fault Refusal :=
  onDevice s fun s =>
    if 0x3F00A00000 ≤ address ∧ address < 0x3F00AFFFFC then
      match findReg regTable address with
      | some (r, i, _) => s.writeField r value.toNat i
      | none => s
    else s

end Sys2Proof.Machine
end

