-- ==== Sys2Proof/Machine/FieldWire.lean ====
section
/-! DEFINITION. The field link on the wire (R332 to R336): the layout of the payloads in both directions, the CRC-16, the
scrambling, and what a receiver makes of the 80 bits of a frame slot. -/

namespace Sys2Proof.Machine

/-! ### CRC and scrambling (R332) -/

/-- One bit of the CRC-16 register: polynomial 0x1021, most significant bit first. -/
def crc16Bit (c : BitVec 16) (b : Bool) : BitVec 16 :=
  if xor c.msb b then (c <<< 1) ^^^ 0x1021#16 else c <<< 1

/-- CRC-16 over the `n` lowest bits of a payload, the highest of them first. -/
def crc16From (x : BitVec 64) : Nat → BitVec 16 → BitVec 16
  | 0, c => c
  | n + 1, c => crc16From x n (crc16Bit c (x.getLsbD n))

/-- CRC-16 over the 64 payload bits. -/
def crc16 (x : BitVec 64) : BitVec 16 := crc16From x 64 0xFFFF#16

/-- The scrambling sequence x^7 + x^6 + 1, one bit for each of `n` sent bits, first sent bit highest. -/
def scrambleFrom : Nat → BitVec 7 → Nat → Nat
  | 0, _, acc => acc
  | n + 1, st, acc =>
    let b := xor (st.getLsbD 6) (st.getLsbD 5)
    scrambleFrom n ((st <<< 1) ||| BitVec.ofNat 7 (bit b)) (2 * acc + bit b)

/-- The sequence of one frame, whose state is 0x7F at the frame's first bit. -/
def scrambleSeq : BitVec 80 := BitVec.ofNat 80 (scrambleFrom 80 0x7F#7 0)

/-- The 80 bits of a frame as sent. -/
def frameBits (payload : BitVec 64) : BitVec 80 :=
  (payload.zeroExtend 80 <<< 16 ||| (crc16 payload).zeroExtend 80) ^^^ scrambleSeq

/-- The payload of 80 received bits, where its CRC holds. -/
def receivePayload (bits : BitVec 80) : Option (BitVec 64) :=
  let plain := bits ^^^ scrambleSeq
  let x := plain.extractLsb' 16 64
  if crc16 x = plain.extractLsb' 0 16 then some x else none

/-- What a receiver takes when the line inverts some bits of a frame. -/
def receiveOver (payload : BitVec 64) (errors : BitVec 80) : Option (BitVec 64) :=
  receivePayload (frameBits payload ^^^ errors)

/-! ### Upstream (R333, R336) -/

/-- RTYPE and RDATA of a report. -/
def Report.code : Report → Nat × Nat
  | .ack e closed => (0x1, e % 256 + 2 ^ 8 * bit closed)
  | .refuse e => (0x2, e % 256)
  | .accept e => (0x3, e % 256)
  | .reject e notArmed => (0x4, e % 256 + 2 ^ 8 * bit notArmed)
  | .close e amended => (0x5, e % 256 + 2 ^ 8 * bit amended)
  | .eject e noPulse _ => (0x6, e % 256 + 2 ^ 8 * bit noPulse)
  | .latch i enc count => (0x7, count % 2 ^ 24 + 2 ^ 24 * (enc % 2) + 2 ^ 25 * (i % 4))
  | .index enc count => (0x8, count % 2 ^ 24 + 2 ^ 24 * (enc % 2))
  | .sync enc part bits => (0x9, bits % 2 ^ 24 + 2 ^ 25 * (part % 2) + 2 ^ 26 * (enc % 2))
  | .fiState levels => (0xA, levels % 2 ^ 16)
  | .status faults stop powerup lines cause _ _ =>
    (0xB, faults % 256 + 2 ^ 8 * bit stop + 2 ^ 9 * bit powerup + 2 ^ 10 * (lines % 4) + 2 ^ 12 * (cause % 8))
  | .speed enc halves => (0xC, unsigned 26 halves + 2 ^ 26 * (enc % 2))
  | .resync => (0xD, 0)

/-- The report that RTYPE and RDATA spell; a reserved type is none. -/
def Report.ofCode (t d : Nat) : Option Report :=
  match t with
  | 0x1 => some (.ack (d % 256) (bitAt d 8))
  | 0x2 => some (.refuse (d % 256))
  | 0x3 => some (.accept (d % 256))
  | 0x4 => some (.reject (d % 256) (bitAt d 8))
  | 0x5 => some (.close (d % 256) (bitAt d 8))
  | 0x6 => some (.eject (d % 256) (bitAt d 8) 0)
  | 0x7 => some (.latch (bitsOf d 25 2) (bitsOf d 24 1) (d % 2 ^ 24))
  | 0x8 => some (.index (bitsOf d 24 1) (d % 2 ^ 24))
  | 0x9 => some (.sync (bitsOf d 26 1) (bitsOf d 25 1) (d % 2 ^ 24))
  | 0xA => some (.fiState (d % 2 ^ 16))
  | 0xB => some (.status (d % 256) (bitAt d 8) (bitAt d 9) (bitsOf d 10 2) (bitsOf d 12 3) 0 0)
  | 0xC => some (.speed (bitsOf d 26 1) (signed 26 d))
  | _ => none

/-- The upstream payload. -/
def UpFrame.payload (f : UpFrame) : BitVec 64 :=
  let r : Nat × Nat × Nat :=
    if f.resync then (0xD, 0, 0)
    else match f.report with
      | some (k, r) => (r.what.code.1, r.what.code.2, k)
      | none => (0, 0, 0)
  BitVec.ofNat 64 (f.low.getD 0 0 % 2 ^ 12 + 2 ^ 12 * (f.low.getD 1 0 % 2 ^ 12) + 2 ^ 24 * (f.mack % 16) +
    2 ^ 28 * (r.2.2 % 16) + 2 ^ 32 * bit f.safe + 2 ^ 33 * (r.2.1 % 2 ^ 27) + 2 ^ 60 * r.1)

/-- The frame that a received payload spells; a report's time of event and what no field of the payload carries are those of
the frame `sent`. -/
def UpFrame.ofPayload (sent : UpFrame) (now : Nat) (x : BitVec 64) : UpFrame :=
  let v := x.toNat
  let t := bitsOf v 60 4
  if x = sent.payload then sent
  else
    { sent with
      report := (Report.ofCode t (bitsOf v 33 27)).map fun r => (bitsOf v 28 4, { what := r, time := now })
      resync := t == 0xD, safe := bitAt v 32, mack := bitsOf v 24 4, low := [bitsOf v 0 12, bitsOf v 12 12] }

/-! ### Downstream (R334, R335) -/

/-- MTYPE and MDATA of a message. -/
def Msg.code : Msg → Nat × Nat
  | .entryA e b mask enc prov us =>
    (0x1, e % 2 ^ 8 + 2 ^ 8 * (b % 2 ^ 12) + 2 ^ 20 * (mask % 2 ^ 8) + 2 ^ 28 * (enc % 2) + 2 ^ 29 * (prov % 4) +
      2 ^ 31 * bit us)
  | .entryB low => (0x2, low % 2 ^ 40)
  | .entryC high lead width => (0x3, high % 2 ^ 8 + 2 ^ 8 * (lead % 2 ^ 16) + 2 ^ 24 * (width % 2 ^ 16))
  | .cfg k v => (0x4, v % 2 ^ 32 + 2 ^ 32 * (k % 2 ^ 8))
  | .stopClear => (0x5, 0)
  | .resync => (0x6, 0)

/-- The message that MTYPE and MDATA spell; a reserved type is none. -/
def Msg.ofCode (t d : Nat) : Option Msg :=
  match t with
  | 0x1 => some (.entryA (d % 2 ^ 8) (bitsOf d 8 12) (bitsOf d 20 8) (bitsOf d 28 1) (bitsOf d 29 2) (bitAt d 31))
  | 0x2 => some (.entryB (d % 2 ^ 40))
  | 0x3 => some (.entryC (d % 2 ^ 8) (bitsOf d 8 16) (bitsOf d 24 16))
  | 0x4 => some (.cfg (bitsOf d 32 8) (d % 2 ^ 32))
  | 0x5 => some .stopClear
  | _ => none

/-- The downstream payload. -/
def DownFrame.payload (f : DownFrame) : BitVec 64 :=
  let m : Nat × Nat × Nat :=
    if f.resync then (0x6, 0, 0)
    else match f.msg with
      | some (k, m) => (m.code.1, m.code.2, k)
      | none => (0, 0, 0)
  let a : Nat × Nat × Nat := match f.amend with
    | some (e, act) => (e % 2 ^ 8, act % 4, 1)
    | none => (0, 0, 0)
  BitVec.ofNat 64 (f.rack % 16 + 2 ^ 4 * (m.2.2 % 16) + 2 ^ 8 * a.2.2 + 2 ^ 9 * a.2.1 + 2 ^ 11 * a.1 + 2 ^ 19 * bit f.run +
    2 ^ 20 * (m.2.1 % 2 ^ 40) + 2 ^ 60 * m.1)

/-- The frame that a received payload spells. -/
def DownFrame.ofPayload (x : BitVec 64) : DownFrame :=
  let v := x.toNat
  let t := bitsOf v 60 4
  { msg := (Msg.ofCode t (bitsOf v 20 40)).map fun m => (bitsOf v 4 4, m)
    resync := t == 0x6, run := bitAt v 19, rack := bitsOf v 0 4
    amend := if bitAt v 8 then some (bitsOf v 11 8, bitsOf v 9 2) else none }

/-! ### Reception -/

/-- The upstream frame that the device takes: none where the CRC fails. -/
def UpFrame.received (f : UpFrame) (now : Nat) (errors : BitVec 80) : Option UpFrame :=
  (receiveOver f.payload errors).map fun x => f.ofPayload now x

/-- The downstream frame that the field die takes: none where the CRC fails. -/
def DownFrame.received (f : DownFrame) (errors : BitVec 80) : Option DownFrame :=
  (receiveOver f.payload errors).map fun x => if x = f.payload then f else DownFrame.ofPayload x

end Sys2Proof.Machine
end

