-- ==== Sys2Proof/Machine/Areas.lean ====
section
/-! DEFINITION. The areas of memory that registers and commands set aside (R53, R86, R115, R152, R202, R207, R235, R239,
R246, R272, R282, R287), and the tests of where an area may lie. -/

namespace Sys2Proof.Machine

/-- An area: who it belongs to, its base and its length in bytes. -/
structure Area where
  owner : Nat
  base  : Nat
  len   : Nat
  deriving DecidableEq, Repr

/-- Owner numbers of the areas. -/
def ownPortBeam : Nat := 0x100
def ownPortSpill : Nat := 0x120
def ownPipeStore : Nat := 0x140
def ownSampleBuf : Nat := 0x150
def ownKvBeam : Nat := 0x160
def ownKvSpill : Nat := 0x170
def ownStage : Nat := 0x180
def ownLearn : Nat := 0x190
def ownSave : Nat := 0x1A0
def ownRing : Nat := 0x1B0
def ownCalib : Nat := 0x1C0
def ownRemote : Nat := 0x1D0
def ownRegistry : Nat := 0x1E0

/-- The line-store regions of the enabled ports. -/
def State.portAreas (s : State) : List Area :=
  (those 17 fun p => s.on F.CAM_CTRL_EN p).flatMap fun p =>
    [⟨ownPortBeam + p, (s.cam p).beam, (s.cam p).beamLen⟩, ⟨ownPortSpill + p, (s.cam p).spill, (s.cam p).spillLen⟩]

/-- The output stores of the pipes, as configured. -/
def State.pipeAreas (s : State) : List Area :=
  (List.range 4).filterMap fun q =>
    (s.pipe q).store.map fun e => ⟨ownPipeStore + q, e.1, e.2.1⟩

/-- The sample buffer. -/
def State.sampleArea (s : State) : Area :=
  ⟨ownSampleBuf, s.get F.SAMPLE_BUF_BASE_BASE * 65536, s.get F.SAMPLE_BUF_SIZE_SIZE * 65536⟩

/-- The areas of one partition. -/
def State.partAreas (s : State) (p : Nat) : List Area := [
  ⟨ownKvBeam + p, s.get F.SCHED_KV_BEAM_BASE_BASE p * 65536, s.get F.SCHED_KV_BEAM_SIZE_PAGES p * 65536⟩,
  ⟨ownKvSpill + p, s.get F.SCHED_KV_SPILL_BASE_BASE p * 65536, s.get F.SCHED_KV_SPILL_SIZE_PAGES p * 65536⟩,
  ⟨ownStage + p, s.get F.SCHED_STAGE_BASE_BASE p * 65536, s.get F.SCHED_STAGE_SIZE_SIZE p * 65536⟩,
  ⟨ownLearn + p, s.get F.SCHED_LEARN_BASE_BASE p * 65536, s.get F.SCHED_LEARN_SIZE_SIZE p * 65536⟩,
  ⟨ownSave + p, s.get F.SCHED_SAVE_BASE_BASE p * 65536, s.get F.SCHED_SAVE_SIZE_SIZE p * 65536⟩,
  ⟨ownRing + p, s.get F.QUANT_STAT_BASE_BASE p * 65536, s.get F.QUANT_STAT_SIZE_SIZE p * 65536⟩,
  ⟨ownCalib + p, s.get F.QUANT_CALIB_BASE_BASE p * 65536, s.get F.QUANT_CALIB_SIZE_SIZE p * 65536⟩,
  ⟨ownRemote + p, s.get F.SCHED_REMOTE_BASE_BASE p * 65536, (s.part p).looms.length * 16384⟩]

/-- The model registry. -/
def State.registryArea (s : State) : Area :=
  ⟨ownRegistry, s.get F.SCHED_MODEL_BASE_BASE * 65536, s.get F.SCHED_MODEL_SIZE_SIZE * 65536⟩

/-- Every area that a register or command has set. A remote area whose base is the reset value 0 is not set. -/
def State.areas (s : State) : List Area :=
  s.portAreas ++ s.pipeAreas ++ [s.sampleArea, s.registryArea] ++
    ((List.range 8).flatMap s.partAreas).filter fun a => !(ownRemote ≤ a.owner && a.owner < ownRegistry && a.base == 0)

/-- Whether two areas share a byte. -/
def Area.meets (a b : Area) : Bool :=
  a.len != 0 && b.len != 0 && decide (a.base < b.base + b.len) && decide (b.base < a.base + a.len)

/-- Whether an area meets one of those chosen, other than its owner's. -/
def State.clashes (s : State) (a : Area) (which : Nat → Bool) : Bool :=
  s.areas.any fun b => b.owner != a.owner && which b.owner && a.meets b

/-- Whether an area lies wholly in the beam memory of a mill. -/
def Area.inBeam (a : Area) (mill : Nat) : Bool :=
  decide (0x2100000000 + mill * 0x1000000 ≤ a.base) && decide (a.base + a.len ≤ 0x2100000000 + (mill + 1) * 0x1000000)

/-- Whether an area lies wholly in one mill's beam memory. -/
def Area.inSomeBeam (a : Area) : Bool := (List.range 4).any a.inBeam

/-- Whether an area lies wholly below the installed DDR5 capacity, its end too. (DESIGN CHOICE: notes/assumptions 215.) -/
def State.inDdr (s : State) (a : Area) : Bool := decide (a.base < s.capacity) && decide (a.base + a.len ≤ s.capacity)

/-- Where an item of `n` bytes lies in an area. (DESIGN CHOICE: notes/assumptions 55.) -/
def Area.placeOf (a : Area) (item n : Nat) : Nat := a.base + 64 * (Config.areaPlace item % ((a.len - roundUp n 64) / 64 + 1))

/-- The device reads an item back: whether no word of it is poisoned (R251, R305). -/
def State.getItem (s : State) (a : Area) (item n : Nat) : State × Bool :=
  let r := s.readData (a.placeOf item n) n
  (r.1, dataGood r.2)

/-- The device puts an item of `n` bytes into an area that the spec does not lay out: whole granules, the rest of the last one
0x00 (R308). (DESIGN CHOICE: notes/assumptions 55.) -/
def State.putItem (s : State) (a : Area) (item n : Nat) : State :=
  let at' := a.placeOf item n
  { s with mem := (s.writeData at' (padded at' ((List.range n).map (Config.areaByte item)))).mem }

/-- The learn area of a partition (R246). -/
def State.learnArea (s : State) (p : Nat) : Area :=
  ⟨ownLearn + p, s.get F.SCHED_LEARN_BASE_BASE p * 65536, s.get F.SCHED_LEARN_SIZE_SIZE p * 65536⟩

/-- Every owner. -/
def anyOwner (_ : Nat) : Bool := true

/-- Line-store regions. -/
def isPortOwner (o : Nat) : Bool := decide (ownPortBeam ≤ o) && decide (o < ownPipeStore)

/-- Line-store regions and pipe output stores. -/
def isLineOwner (o : Nat) : Bool := decide (ownPortBeam ≤ o) && decide (o < ownSampleBuf)

end Sys2Proof.Machine
end

