-- ==== Sys2Proof/Machine/Pixels.lean ====
section
/-! DEFINITION. Pixel arithmetic (R106 to R113): the packings of CSI-2 lines and the stages of an image pipe, exactly, on
16-bit components; `none` is a poisoned value. -/

namespace Sys2Proof.Machine

/-- A component value of a line, poisoned or not. -/
abbrev Px := Option Nat

/-- A value saturated to 0 to 65,535. -/
def sat16 (v : Int) : Nat := (max 0 (min 65535 v)).toNat

/-- Two values combined; poison spreads. -/
def both (f : Nat → Nat → Nat) (a b : Px) : Px :=
  match a, b with
  | some x, some y => some (f x y)
  | _, _ => none

/-- Byte `i` of a line. -/
def byteAt (d : Data) (i : Nat) : Px := (d.getD i none).map (·.toNat)

/-- A pixel with a poisoned component is poisoned whole (R325). -/
def wholePx (cs : Comps) : Comps :=
  let bad := fun (x : Nat) => cs.any fun c => (c.drop x).head?.any (·.isNone)
  cs.map fun c => c.mapIdx fun x v => if bad x then none else v

/-! ### Unpack (R107) -/

/-- Byte `i` of a line's packing; a byte past the line's end is a free value. (DESIGN CHOICE: notes/assumptions 176.) -/
def lineByte (d : Data) (i : Nat) : Px := if i < d.length then byteAt d i else some (Config.pastLine i).toNat

/-- The value of pixel `x` of a packed `n`-bit line with the top bits in bytes of their own: `g` pixels a group. -/
def packedPx (d : Data) (n g x : Nat) : Px :=
  let low := n - 8
  let base := (g + low * g / 8) * (x / g)
  let off := low * (x % g)
  let a := lineByte d (base + g + off / 8)
  let b := lineByte d (base + g + (off + low - 1) / 8)
  let lowBits := both (fun u v => bitsOf (if off / 8 = (off + low - 1) / 8 then u else u + 256 * v) (off % 8) low) a b
  both (fun h l => (h * 2 ^ low + l) * 2 ^ (16 - n)) (byteAt d (base + x % g)) lowBits

/-- The top bits of a byte as a 16-bit component. -/
def bytePx (d : Data) (i : Nat) : Px := (byteAt d i).map (· * 256)

/-- Unpack the `w` pixels of a line into its components. (PRESUMED: notes/assumptions 29.) -/
def unpackLine (dt : Nat) (d : Data) (w : Nat) : Comps :=
  let each := fun (f : Nat → Px) => (List.range w).map f
  if dt = 0x2B then [each (packedPx d 10 4)]
  else if dt = 0x2C then [each (packedPx d 12 2)]
  else if dt = 0x2D then [each (packedPx d 14 4)]
  else if dt = 0x2E then [each fun x => both (fun h l => 256 * h + l) (byteAt d (2 * x)) (byteAt d (2 * x + 1))]
  else if dt = 0x24 then [each fun x => bytePx d (3 * x + 2), each fun x => bytePx d (3 * x + 1), each fun x => bytePx d (3 * x)]
  else if dt = 0x1E then [each fun x => bytePx d (2 * x + 1), each fun x => bytePx d (2 * x)]
  else [each (bytePx d)]

/-- Whether a data type is RAW. -/
def isRaw (dt : Nat) : Bool := decide (0x2A ≤ dt) && decide (dt ≤ 0x2E)

/-! ### Flat-field and defect map (R108, R109) -/

/-- One flat-field entry applied. -/
def flatPx (e : Nat) (v : Nat) : Nat :=
  sat16 ((((v : Int) - signed 16 (e / 65536)) * (e % 65536 : Nat) + 2048) / 4096)

/-- Flat-field of a component: pixels beyond the table pass. -/
def flatField (tab : List Nat) (c : List Px) : List Px :=
  c.mapIdx fun x v =>
    match (tab.drop x).head? with
    | some e => if x < 16384 then v.map (flatPx e) else v
    | none => v

/-- The value a defect entry writes: neighbours are those before any correction. -/
def defectPx (c : List Px) (step x method : Nat) : Option Px :=
  let left := if step ≤ x then (c.drop (x - step)).head? else none
  let right := (c.drop (x + step)).head?
  match left, right, method with
  | some a, some b, 0 => some (both (fun u v => (u + v + 1) / 2) a b)
  | some a, some _, 1 => some a
  | some _, some b, _ => some b
  | some a, none, _ => some a
  | none, some b, _ => some b
  | none, none, _ => none

/-- The defect map of a component. -/
def defectMap (tab : List Nat) (step : Nat) (c : List Px) : List Px :=
  tab.foldl (fun acc e =>
    match defectPx c step (e % 16384) (e / 16384) with
    | some v => if e % 16384 < c.length then acc.set (e % 16384) v else acc
    | none => acc) c

/-! ### Demosaic (R110) -/

/-- The colour of a Bayer site: 0 red, 1 green, 2 blue; the CFA's first two letters are even columns of even lines.
(DEDUCED: notes/assumptions 42.) -/
def cfaAt (cfa x k : Nat) : Nat :=
  let row := fun (a b : Nat) => if x % 2 = 0 then a else b
  let even := k % 2 == 0
  match cfa with
  | 0 => if even then row 0 1 else row 1 2
  | 1 => if even then row 1 0 else row 2 1
  | 2 => if even then row 1 2 else row 0 1
  | _ => if even then row 2 1 else row 1 0

/-- A value of a line, the edge columns replicated. (DESIGN CHOICE: notes/assumptions 43.) -/
def edgePx (c : List Px) (x : Int) : Px := c.getD (max 0 (min ((c.length : Int) - 1) x)).toNat none

/-- The interpolation of R110 from two pairs. -/
def interp (t l r u d : Nat) : Nat :=
  let gH := (l : Int) - r
  let gV := (u : Int) - d
  let h := gH.natAbs
  let v := gV.natAbs
  if ((h : Int) - v).natAbs ≤ t then sat16 (((l + r + u + d + 2) / 4 : Nat) : Int)
  else sat16 (((v * (l + r) + h * (u + d) + (h + v)) / (2 * (h + v)) : Nat) : Int)

/-- The interpolation with poison. -/
def interpPx (t : Nat) (l r u d : Px) : Px :=
  match l, r, u, d with
  | some a, some b, some c, some e => some (interp t a b c e)
  | _, _, _, _ => none

/-- One colour at one site, from the lines above, at and below. -/
def demosaicPx (cfa t k : Nat) (up at' dn : List Px) (x colour : Nat) : Px :=
  let here := cfaAt cfa x k
  let i : Int := x
  if here = colour then edgePx at' i
  else if colour = 1 then
    interpPx t (edgePx at' (i - 1)) (edgePx at' (i + 1)) (edgePx up i) (edgePx dn i)
  else if here = 1 then
    if cfaAt cfa (x + 1) k = colour then
      both (fun a b => (a + b + 1) / 2) (edgePx at' (i - 1)) (edgePx at' (i + 1))
    else both (fun a b => (a + b + 1) / 2) (edgePx up i) (edgePx dn i)
  else interpPx t (edgePx up (i - 1)) (edgePx dn (i + 1)) (edgePx up (i + 1)) (edgePx dn (i - 1))

/-- Bayer to three components. -/
def demosaic (cfa t k : Nat) (up at' dn : List Px) : Comps :=
  (List.range 3).map fun c => (List.range at'.length).map fun x => demosaicPx cfa t k up at' dn x c

/-- The chroma of a YUV422 line repeated to every pixel. -/
def spreadChroma (c : Comps) : Comps :=
  let y := c.getD 0 []
  let ch := c.getD 1 []
  [y, (List.range y.length).map fun x => ch.getD (x - x % 2) none,
    (List.range y.length).map fun x => edgePx ch ((x - x % 2 + 1 : Nat) : Int)]

/-! ### Colour matrix and LUT (R111, R112) -/

/-- One output component of the matrix. -/
def matrixPx (m : List Nat) (j : Nat) (r g b : Nat) : Nat :=
  let c := fun i => signed 16 (m.getD i 0)
  sat16 ((c (3 * j) * r + c (3 * j + 1) * g + c (3 * j + 2) * b + 2048) / 4096 + c (9 + j))

/-- The colour matrix of a three-component line; an empty matrix is the identity. -/
def colourMatrix (m : List Nat) (cs : Comps) : Comps :=
  match cs with
  | [r, g, b] =>
    if m.isEmpty then cs
    else
      (List.range 3).map fun j => (List.range r.length).map fun x =>
        match r.getD x none, g.getD x none, b.getD x none with
        | some u, some v, some w => some (matrixPx m j u v w)
        | _, _, _ => none
  | _ => cs

/-- The LUT on one value; E[4096] is E[4095]. -/
def lutPx (e : List Nat) (v : Nat) : Nat :=
  let i := v / 16
  let a : Int := e.getD i 0
  let b : Int := e.getD (min (i + 1) 4095) 0
  sat16 (a + ((b - a) * (v % 16 : Nat) + 8) / 16)

/-- The LUT of a line; an empty LUT is the identity. -/
def applyLut (e : List Nat) (cs : Comps) : Comps := if e.isEmpty then cs else cs.map fun c => c.map fun v => v.map (lutPx e)

/-! ### Output packing (R113) -/

/-- Bits of a component in an output format. -/
def fmtDepth (fmt : Nat) : Nat := if fmt = 0 ∨ fmt = 4 then 8 else if fmt = 1 then 10 else if fmt = 2 then 12 else 16

/-- A 16-bit value rounded half up to `n` bits and saturated. -/
def narrow (n v : Nat) : Nat := min (2 ^ n - 1) ((v + 2 ^ (16 - n) / 2) / 2 ^ (16 - n))

/-- A component of a line for an output format: a line of one component repeats it. -/
def compOf (cs : Comps) (i : Nat) : List Px := if cs.length = 1 then cs.getD 0 [] else cs.getD i []

/-- Bytes that a poisoned 32-bit word spoils whole (R325). -/
def spoilWords : List (Option Byte) → List (Option Byte)
  | a :: b :: c :: d :: t =>
    let ok := a.isSome && b.isSome && c.isSome && d.isSome
    (if ok then [a, b, c, d] else [none, none, none, none]) ++ spoilWords t
  | l => if l.all (·.isSome) then l else l.map fun _ => none

/-- The low bits of a group of `g` values of `n` bits as bytes. -/
def lowBytes (n : Nat) (vs : List Px) : List (Option Byte) :=
  let low := n - 8
  if vs.all (·.isSome) then
    (natBytes (vs.length * low / 8)
      ((vs.mapIdx fun i v => v.getD 0 % 2 ^ low * 2 ^ (low * i)).sum)).map some
  else List.replicate (vs.length * low / 8) none

/-- A group of values in the packing with the top bits in bytes of their own. -/
def packGroup (n : Nat) (vs : List Px) : List (Option Byte) :=
  (vs.map fun v => v.map fun u => BitVec.ofNat 8 (u / 2 ^ (n - 8))) ++ lowBytes n vs

/-- A line cut into groups of `g`, the last one padded with 0; `f` bounds the groups. (DESIGN CHOICE: notes/assumptions 216.) -/
def groupsOf (g : Nat) : Nat → List Px → List (List Px)
  | 0, _ => []
  | f + 1, l =>
    if l.isEmpty then []
    else (l.take g ++ List.replicate (g - l.length) (some 0)) :: groupsOf g f (l.drop g)

/-- The two bytes of a RAW16 value, high byte first. -/
def raw16 (v : Px) : List (Option Byte) :=
  match v with
  | some u => [some (BitVec.ofNat 8 (u / 256)), some (BitVec.ofNat 8 u)]
  | none => [none, none]

/-- A component packed as RAW16. -/
def packRaw16 (c : List Px) : List (Option Byte) := spoilWords (c.flatMap raw16)

/-- The bytes of the pixels that a parallel port samples on D23 to D0, in the packing of its data type (R82, R84): an
incomplete last group is filled with 0. (DESIGN CHOICE: notes/assumptions 177.) -/
def pinBytes (dt : Nat) (ps : List Nat) : List Byte :=
  let cut := fun (n : Nat) => ps.map fun v => some (v % 2 ^ n)
  let packed := fun (n g : Nat) => ((groupsOf g ps.length (cut n)).flatMap (packGroup n)).map (·.getD 0)
  let byte := fun (v i : Nat) => BitVec.ofNat 8 (v / 2 ^ (8 * i))
  if dt = 0x2B then packed 10 4
  else if dt = 0x2C then packed 12 2
  else if dt = 0x2D then packed 14 4
  else if dt = 0x2E then ps.flatMap fun v => [byte v 1, byte v 0]
  else if dt = 0x24 then ps.flatMap fun v => [byte v 0, byte v 1, byte v 2]
  else if dt = 0x1E then ps.flatMap fun v => [byte v 1, byte v 0]
  else ps.map fun v => byte v 0

/-- One pixel's three components as bytes. -/
def rgbPx (fmt : Nat) (r g b : Px) : List (Option Byte) :=
  if fmt = 4 then [b, g, r].map fun v => v.map fun u => BitVec.ofNat 8 (narrow 8 u)
  else [r, g, b].flatMap fun v => (raw16 v).reverse

/-- A line packed in an output format. -/
def packLine (fmt : Nat) (cs : Comps) : List (Option Byte) :=
  let c := cs.getD 0 []
  let n := fmtDepth fmt
  let cut := c.map fun v => v.map (narrow n)
  spoilWords (
    if fmt = 0 then cut.map fun v => v.map fun u => BitVec.ofNat 8 u
    else if fmt = 1 then (groupsOf 4 c.length cut).flatMap (packGroup 10)
    else if fmt = 2 then (groupsOf 2 c.length cut).flatMap (packGroup 12)
    else if fmt = 3 then c.flatMap raw16
    else (List.range c.length).flatMap fun x =>
      rgbPx fmt ((compOf cs 0).getD x none) ((compOf cs 1).getD x none) ((compOf cs 2).getD x none))

/-- The bytes of an output line of `w` pixels. -/
def packedLen (fmt w : Nat) : Nat :=
  if fmt = 0 then w else if fmt = 1 then ceilDiv w 4 * 5 else if fmt = 2 then ceilDiv w 2 * 3 else if fmt = 3 then 2 * w
  else if fmt = 4 then 3 * w else 6 * w

/-- The data type that an output format has on a tap (R113). -/
def fmtType (fmt : Nat) : Nat :=
  if fmt = 0 then 0x2A else if fmt = 1 then 0x2B else if fmt = 2 then 0x2C else if fmt = 4 then 0x24 else 0x2E

end Sys2Proof.Machine
end

