-- ==== Sys2Proof/Machine/Pipes.lean ====
section
/-! DEFINITION. The image pipes (chapter 05): their configuration and tables, the lines of a block through the stages, the
output store, statistics, raw taps, and segmentation. -/

namespace Sys2Proof.Machine

/-! ### What a pipe does with a block (R102, R103, R114, R118) -/

/-- The position of a port in a pipe: 0 in line, then the through-memory ports ascending. -/
def State.pipePos (s : State) (q p : Nat) : Nat :=
  if s.get F.PIPE_CTRL_INLINE q = p then 0
  else 1 + (maskList p (s.get F.PIPE_CTRL_TM_MASK q)).length

/-- The key of a table: kinds 0 to 2 by position, kind 3 by matrix. -/
def tableKey (kind i : Nat) : Nat := 16 * kind + i

/-- What a pipe does with the blocks of a port that start now. -/
def State.pipeCfg (s : State) (q p : Nat) : PipeCfg :=
  let i := s.pipePos q p
  let tab := fun (k : Nat) => tgetD (s.pipe q).tables k []
  { q := q, position := i, through := s.get F.PIPE_CTRL_INLINE q != p
    stages := s.get F.PIPE_STAGES_EN q, cfa := s.get F.PIPE_STAGES_CFA q, thresh := s.get F.PIPE_DM_THRESH_T q
    fmt := s.get F.PIPE_OUT_FMT_FMT q, store := (s.pipe q).store
    flat := tab (tableKey 0 i), defects := tab (tableKey 1 i), lut := tab (tableKey 2 i)
    matrix := tab (tableKey 3 (bitsOf (s.get F.PIPE_OUT_FMT_MATRIX_SEL q) (2 * i) 2))
    zx := s.get F.PIPE_STAT_CFG_ZX q, zy := s.get F.PIPE_STAT_CFG_ZY q
    hist := bitAt (s.get F.PIPE_STAT_CFG_HIST_EN q) i, zone := bitAt (s.get F.PIPE_STAT_CFG_ZONE_EN q) i }

/-- A stage's enable bit. -/
def PipeCfg.stage (c : PipeCfg) (i : Nat) : Bool := bitAt c.stages i

/-! ### The output store (R115) -/

/-- The slots of an output store that a line's bytes lie in. -/
def Line.slotsIn (l : Line) (base slot : Nat) : List Nat :=
  if base ≤ l.addr then (List.range ((l.addr + l.len - 1 - base) / slot + 1)).drop ((l.addr - base) / slot) else []

/-- The lowest free slot of the output store that a block started with (R103), and its address; none where its last byte has
not been wiped (R317). -/
def State.outSlot (s : State) (c : PipeCfg) : Option (Nat × Nat) :=
  match c.store with
  | none => none
  | some (base, len, slot) =>
    if slot = 0 then none
    else
      match lowestFree ((s.outLines c.q).flatMap fun l => l.slotsIn base slot) (len / slot) with
      | some i => if s.wiped (base + i * slot + slot - 1) then some (i, base + i * slot) else none
      | none => none

/-- Bytes of an output slot. -/
def PipeCfg.slotSize (c : PipeCfg) : Nat :=
  match c.store with
  | some e => e.2.2
  | none => 0

/-- Data padded with good zeros to whole granules (R308). (DESIGN CHOICE: notes/assumptions 47.) -/
def padData (a : Nat) (d : Data) : Data :=
  d ++ List.replicate (roundUp d.length (granSize a) - d.length) (some 0)

/-! ### Taps (R121, R122) -/

/-- The embedded-data packet of a tap frame. -/
def tapHeader (port tap bobbin : Nat) (base : Int) (time serial : Nat) : Nat × List (Option Byte) :=
  (0x12, (wordsBytes ([w32 (port + 2 ^ 5 * tap + 2 ^ 16 * bobbin), w32 (unsigned 48 base),
    w32 (unsigned 48 base / 2 ^ 32)] ++ timeWords time ++ [w32 serial, 0#32])).map some)

/-- Whether a bobbin's tap takes a line. -/
def TapWork.wants (w : TapWork) (n : Nat) (pos : Int) : Bool :=
  w.tap == n && decide (w.base ≤ pos) && decide (pos ≤ w.last)

/-- Give one line's packets to the bobbins that a tap point gathers; a frame carries the Frame Start time of its first line's
block. (DESIGN CHOICE: notes/assumptions 219.) -/
def State.tapBobLine (s : State) (q n p time : Nat) (pos : Int) (ps : List (Nat × List (Option Byte))) : State :=
  let r := (s.pipe q).tapBobs.foldl (fun (a : State × List TapWork) w =>
    if w.port == p && w.wants n pos && w.bobbin != 0xFFF then
      let k := a.1.tapKeep p ps
      (k.1, a.2 ++ [{ w with time := some (w.time.getD time), packets := w.packets ++ k.2 }])
    else (a.1, a.2 ++ [w])) (s, [])
  r.1.setPipe q { r.1.pipe q with tapBobs := r.2 }

/-- Send the frame of a bobbin that a tap gathered. A frame without a line has no Frame Start: its time is a free value.
(DESIGN CHOICE: notes/assumptions 181.) -/
def State.sendTapBob (s : State) (w : TapWork) : State :=
  match w.time with
  | some t => s.sendTap w.port (tapHeader w.port w.tap w.bobbin w.base t w.serial) w.packets
  | none => s.timeDrawn.sendTap w.port (tapHeader w.port w.tap w.bobbin w.base s.freeTime w.serial) w.packets

/-- Send the frames of the bobbins whose window has been passed on a port. (DESIGN CHOICE: notes/assumptions 46.) -/
def State.tapBobEnd (s : State) (q p : Nat) (upTo : Int) : State :=
  let x := s.pipe q
  let past := fun (w : TapWork) => w.port == p && w.bobbin != 0xFFF && decide (w.last ≤ upTo)
  let t := s.setPipe q { x with tapBobs := x.tapBobs.filter (!past ·) }
  foldState State.sendTapBob t (x.tapBobs.filter past)

/-- Give one line's packets at a tap point to the block's frame and to the bobbins' frames. -/
def tapLine (s : State) (w : PipeWork) (n : Nat) (pos : Int) (ps : List (Nat × List (Option Byte))) : State × PipeWork :=
  match w.blk.pipe with
  | none => (s, w)
  | some c =>
    let t := s.tapBobLine c.q n w.blk.port w.blk.time pos ps
    if w.blk.taps.contains (c.q, n) then
      let k := t.tapKeep w.blk.port ps
      (k.1, { w with shown := tset w.shown n (tgetD w.shown n [] ++ k.2) })
    else (t, w)

/-- The packets of a line of 16-bit components: one RAW16 packet a component, so two for a YUV422 line before demosaic.
(DESIGN CHOICE: notes/assumptions 184.) -/
def raw16Packets (cs : Comps) : List (Nat × List (Option Byte)) := cs.map fun c => (0x2E, packRaw16 c)

/-- The packets of an output line (R113, R122). -/
def outPackets (fmt : Nat) (cs : Comps) (bytes : Data) : List (Nat × List (Option Byte)) :=
  if fmt = 5 then raw16Packets ((List.range 3).map fun i => compOf cs i) else [(fmtType fmt, bytes)]

/-- Taps in mode 1 count a block of a port; every Nth is taken. The result is the block's taps.
(DEDUCED: notes/assumptions 45.) -/
def State.tapBlock (s : State) : List TapSet → State × List (Nat × Nat)
  | [] => (s, [])
  | e :: t =>
    let r := s.tapBlock t
    let u := r.1
    if e.mode = 1 then
      let c := u.tapCount e
      (c.1, if c.2 then (e.q, e.n) :: r.2 else r.2)
    else r

/-- Release what mode 3 taps hold of a port's lines once every bobbin that contains a line has a final action. -/
def State.releaseTaps (s : State) (p : Nat) : State :=
  s.mapLines p fun l =>
    if (s.tapTakers p l.pos).isEmpty then
      { l with takers := l.takers.filter fun t => match t with | .tap _ _ => false | _ => true }
    else l

/-- The tap settings that name a port take over at its stored Frame Start, with their rule masks; counts of a new setting start
anew; a tap point of a pipe that does not serve the port takes nothing of it, but for T0 on a port without a pipe (R121).
(DEDUCED: notes/assumptions 182.) -/
def State.tapsTake (s : State) (p : Nat) : State :=
  let due := fun (u : State) (q n : Nat) =>
    match tget? (u.pipe q).tapDue n with
    | some rules =>
      if u.get F.PIPE_TAP_VC q n = p then
        let x := u.pipe q
        (u.setPipe q { x with tapDue := tdel x.tapDue n, tapSeen := tset x.tapSeen n 0 }).put F.PIPE_TAP_RULE_RULES rules q n
      else u
    | none => u
  let t := timesFrom (fun u q => timesFrom (fun v n => due v q n) 4 0 u) 4 0 s
  let here := (t.tapsOf p).filter fun e => t.servedBy p == some e.1 || (e.2 == 0 && (t.servedBy p).isNone)
  let set := fun (e : Nat × Nat) => ({ q := e.1, n := e.2, mode := t.get F.PIPE_TAP_MODE e.1 e.2, every := t.get F.PIPE_TAP_N e.1 e.2
                                       rules := t.get F.PIPE_TAP_RULE_RULES e.1 e.2 } : TapSet)
  (t.setCam p { t.cam p with taps := here.map set }).releaseTaps p

/-- The packets of an output line that its store holds, as its format has them (R113, R122). -/
def Line.packets (l : Line) (d : Data) : List (Nat × List (Option Byte)) :=
  if l.fmt = 5 then
    (List.range 3).map fun c => (0x2E, spoilWords ((List.range (l.len / 6)).flatMap fun x =>
      [d.getD (6 * x + 2 * c + 1) none, d.getD (6 * x + 2 * c) none]))
  else [(fmtType l.fmt, d)]

/-- The lines of a bobbin's window that a mode 3 tap holds, sent as one frame (R121). -/
def State.sendRejects (s : State) (id p q n : Nat) : State :=
  let b := s.bob id
  let ls := (s.cam p).outs.filter fun l =>
    l.takers.contains (.tap q n) && decide (b.wstart ≤ l.pos) && decide (l.pos ≤ b.wlast)
  let r := ls.foldl (fun (a : State × List (Nat × List (Option Byte))) l =>
    let d := a.1.readData l.addr l.len
    let k := d.1.tapKeep p (l.packets d.2)
    (k.1, a.2 ++ k.2)) (s, [])
  r.1.sendTapBob { port := p, tap := n, bobbin := id, base := b.wstart, last := b.wlast, serial := b.serial
                   time := ls.head?.map (·.time), packets := r.2 }

/-- A mode 3 tap at a bobbin's close match: every Nth bobbin whose final action is EJECT or STOP. -/
def State.tapClose (s : State) (id p : Nat) (e : TapSet) : State :=
  if e.mode = 3 ∧ (s.bob id).final ≠ 0 then
    let r := s.tapCount e
    if r.2 then r.1.sendRejects id p e.q e.n else r.1
  else s

/-- Every tap in force on a bobbin's ports at its close match, then the release of what taps held. -/
def State.tapsClose (s : State) (id : Nat) : State :=
  let t := foldState (fun u p => foldState (fun v e => v.tapClose id p e) u (u.cam p).taps) s (s.bob id).portList
  foldState (fun u p => u.releaseTaps p) t (s.bob id).portList

/-! ### Segmentation (R127, R128) -/

/-- Lines of consecutive absence: unoccupied lines (R128). -/
def Rule.vacant (x : Rule) (gap n : Nat) : Rule :=
  if n = 0 then x
  else if x.found then
    if gap ≤ x.gap + n then { x with found := false, gap := 0, run := 0 } else { x with gap := x.gap + n }
  else { x with run := 0 }

/-- An occupied line; the flag says that the run confirms a part. -/
def Rule.occupied (x : Rule) (run : Nat) (pos : Int) : Rule × Bool :=
  if x.found then ({ x with gap := 0 }, false)
  else
    let y := if x.run = 0 then { x with runStart := pos, run := 1 } else { x with run := x.run + 1 }
    if run ≤ y.run then ({ y with found := true, run := 0, gap := 0 }, true) else (y, false)

/-- The lines that are missing between the last line a rule read and this one. -/
def Rule.missing (x : Rule) (b : Block) (k : Nat) : Nat :=
  match x.seg with
  | none => 0
  | some (base, pitch, j) =>
    if base = b.base then k - j - 1
    else
      let last : Int := base + (j + 1) * pitch / 65536
      ((b.base - last) * 65536 / b.pitch).toNat + k

/-- The top 8 bits of an output line's component 0, as packed. -/
def topByte (fmt v : Nat) : Nat := narrow (fmtDepth fmt) v / 2 ^ (fmtDepth fmt - 8)

/-- One segmentation rule reads an output line; `gap` says that the line lies in a hole, which makes it unoccupied as a poisoned word
does (R128, R325). (DEDUCED: notes/assumptions 44.) -/
def State.segLine (s : State) (b : Block) (fmt k : Nat) (gap : Bool) (cs : Comps) (r : Nat) : State :=
  let x := s.rule r
  let c0 := cs.getD 0 []
  let thr := bitsOf x.detail 8 8
  let need := bitsOf x.detail 16 16
  let bright := (c0.filter fun v => match v with | some u => decide (thr ≤ topByte fmt u) | none => false).length
  let occ := !gap && cs.all (fun c => c.all (·.isSome)) && decide (need ≤ bright)
  let run := max 1 (s.get F.BOB_RULE_AUX_RUN r)
  let off := max 1 (s.get F.BOB_RULE_AUX_GAP r)
  let y := { x.vacant off (x.missing b k) with seg := some (b.base, b.pitch, k) }
  let o := if occ then y.occupied run (b.pos k) else (y.vacant off 1, false)
  let t := s.setRule r o.1
  if o.2 then t.partFound r o.1.runStart else t

/-- Every segmentation rule of a port reads an output line, in ascending rule number. -/
def State.segment (s : State) (b : Block) (fmt k : Nat) (gap : Bool) (cs : Comps) : State :=
  foldState (fun t r => t.segLine b fmt k gap cs r) s
    (those 16 fun r => s.on F.BOB_RULE_CTRL_EN r && s.get F.BOB_RULE_CTRL_SOURCE r == 1 &&
      bitsOf (s.rule r).detail 0 5 == b.port)

/-! ### Statistics (R118, R119) -/

/-- The sum and count of the good values of a slice. -/
def sliceSum (c : List Px) (lo hi : Nat) : Nat × Nat :=
  ((c.drop lo).take (hi - lo)).foldl (fun a v => match v with | some u => (a.1 + u, a.2 + 1) | none => a) (0, 0)

/-- Add to an entry of a table of counts. -/
def tadd (t : Tbl Nat) (k n : Nat) : Tbl Nat := tset t k (tgetD t k 0 + n)

/-- The line group of block line `k`. -/
def lineGroup (zy n k : Nat) : Option Nat :=
  (List.range zy).find? fun y => decide (y * n / zy ≤ k) && decide (k < (y + 1) * n / zy)

/-- Gather one line after the LUT. -/
def StatAcc.line (a : StatAcc) (c : PipeCfg) (n k : Nat) (cs : Comps) : StatAcc :=
  let w := (cs.getD 0 []).length
  let m := cs.length
  let zones := match lineGroup c.zy n k with
    | none => a
    | some y =>
      (List.range (c.zx * m)).foldl (fun b i =>
        let z := i / m
        let r := sliceSum (cs.getD (i % m) []) (z * w / c.zx) ((z + 1) * w / c.zx)
        { b with sums := tadd b.sums ((y * c.zx + z) * m + i % m) r.1
                 nums := tadd b.nums ((y * c.zx + z) * m + i % m) r.2 }) a
  let bins := (List.range m).foldl (fun b i => (cs.getD i []).foldl (fun t v =>
    match v with
    | some u => tset t (256 * i + u / 256) (min (tgetD t (256 * i + u / 256) 0 + 1) 0xFFFFFFFF)
    | none => t) b) zones.bins
  { zones with bins := bins, lines := a.lines + 1, bad := a.bad || cs.any fun c => c.any (·.isNone) }

/-- A zone average, rounded half up; 0 for a zone without values. -/
def StatAcc.avg (a : StatAcc) (i : Nat) : Nat :=
  let n := tgetD a.nums i 0
  if n = 0 then 0 else (2 * tgetD a.sums i 0 + n) / (2 * n)

/-- 16-bit values packed two to a word, padded with 0. -/
def halfWords : List Nat → List Word
  | a :: b :: t => w32 (a + 65536 * b) :: halfWords t
  | [a] => [w32 a]
  | [] => []

/-- The statistics record of a block (R119). -/
def State.statRecord (s : State) (w : PipeWork) (c : PipeCfg) (m : Nat) (partly : Bool) : State :=
  if !c.hist && !c.zone then s
  else
    let a := w.stats
    let z := c.zone
    let seq := s.get F.PIPE_STAT_CNT_SEQ c.q
    let head := [w32 (w.blk.port + 2 ^ 5 * c.q + 2 ^ 8 * m + 2 ^ 10 * (if z then c.zx else 0) +
        2 ^ 17 * (if z then c.zy else 0) + 2 ^ 22 * bit c.hist + 2 ^ 23 * bit (partly || a.bad)),
      w32 (seq + 2 ^ 16 * a.lines), w32 (unsigned 48 w.blk.base), w32 (unsigned 48 w.blk.base / 2 ^ 32)] ++
      timeWords w.blk.time ++ [0#32]
    let hist := if c.hist then (List.range (256 * m)).map fun i => w32 (tgetD a.bins i 0) else []
    let avgs := if z then halfWords ((List.range (c.zx * c.zy * m)).map a.avg) else []
    let ws := head ++ hist ++ avgs
    let t := s.bumpWrap F.PIPE_STAT_CNT_SEQ 1 c.q
    let r := t.sendStats (ws ++ [crcWords ws])
    if r.2 then r.1 else r.1.bump F.PIPE_STAT_CNT_DROP c.q

/-! ### A line through the stages (R106, R110, R115, R116) -/

/-- A stored line is done with: its pipe and the bobbins that waited for its output let go of it. -/
def State.lineDone (s : State) (p uid q : Nat) : State :=
  let c := s.cam p
  let f := fun (l : Line) =>
    if l.uid = uid then
      { l with stage := 2, takers := l.takers.filter fun t =>
          match t with
          | .bobbin _ _ => false
          | .pipe r => r != q
          | .tap _ _ => true }
    else l
  State.sweep (s.setCam p { c with held := c.held.map f }) p

/-- An output line that is not stored: its span becomes a hole. -/
def State.outLost (s : State) (b : Block) (k : Nat) : State := s.addHole b.port (b.pos k) (b.hi k)

/-- Store an output line in a slot; the bobbins whose windows hold its position take it. -/
def State.storeOut (s : State) (b : Block) (c : PipeCfg) (x : PipeLine) (slot addr : Nat) (bytes : Data) : State :=
  let t := s.writeData addr (padData addr bytes)
  let p := t.cam b.port
  let l : Line := { uid := x.uid, pos := b.pos x.k, hi := x.hi, base := b.base, k := x.k, slot := slot, addr := addr,
                    len := bytes.length, store := c.q, fmt := c.fmt, time := b.time
                    gaps := t.gapsOn b.port (b.pos x.k) x.hi ++
                      (((p.held.find? (·.uid == x.uid)).map (·.gaps)).getD []) }
  let m := { l with takers := t.bobTakers b.port l ++ t.tapTakers b.port l.pos }
  State.sweep ((t.setCam b.port { p with outs := p.outs ++ [m] }).place b.port l.pos l.hi) b.port

/-- The statistics of a block take a line that was stored and lies in no hole (R118); LINES counts those lines (R119).
(DESIGN CHOICE: notes/assumptions 218.) -/
def PipeWork.count (w : PipeWork) (s : State) (c : PipeCfg) (x : PipeLine) (done : Comps) : PipeWork :=
  if s.lineGap w.blk.port x.uid (w.blk.pos x.k) then w
  else { w with stats := w.stats.line c (s.get F.CAM_BLOCK_LINES_BLOCK_LINES w.blk.port) x.k done }

/-- Emit a line: demosaic, matrix, LUT, statistics, taps T2 and T3, packing and the output store. -/
def emitLine (s : State) (w : PipeWork) (c : PipeCfg) (x : PipeLine) (up dn : Comps) : State × PipeWork :=
  let b := w.blk
  let dt := s.get F.CAM_CTRL_DT b.port
  let mosaic := wholePx (if dt = 0x1E then spreadChroma x.t2
    else if c.stage 2 && isRaw dt then
      demosaic c.cfa c.thresh x.k (up.getD 0 []) (x.t2.getD 0 []) (dn.getD 0 [])
    else x.t2)
  let gap := s.lineGap b.port x.uid (b.pos x.k)
  let r2 := tapLine s w 2 (b.pos x.k) (raw16Packets mosaic)
  let done := applyLut (if c.stage 4 then c.lut else []) (if c.stage 3 then colourMatrix c.matrix mosaic else mosaic)
  let bytes := packLine c.fmt done
  match r2.1.outSlot c with
  | none =>
    let t := ((r2.1.bump F.PIPE_CNT_OUT_DROP c.q).tdc 5).outLost b x.k
    (t.lineDone b.port x.uid c.q, { r2.2 with blk := { b with holed := true } })
  | some (slot, addr) =>
    let t := (r2.1.storeOut b c x slot addr bytes).lineDone b.port x.uid c.q
    let r3 := tapLine t (r2.2.count s c x done) 3 (b.pos x.k) (outPackets c.fmt done bytes)
    ((r3.1.segment b c.fmt x.k gap done).tapBobEnd c.q b.port (x.next - 1), r3.2)

/-- The line above a line in the neighbourhood of demosaic: the line before it, or the last line of the port's previous
block where the new base was snapped and no hole separates the blocks, or the line itself, also where the line before it is missing inside
the block. (DESIGN CHOICE: notes/assumptions 180.) -/
def State.lineAbove (s : State) (w : PipeWork) (q : Nat) (x : PipeLine) : Comps :=
  match w.prev with
  | some y => if y.k + 1 = x.k then y.t2 else x.t2
  | none =>
    match tget? (s.pipe q).last w.blk.port with
    | some y =>
      if x.k = 0 ∧ w.blk.snapped = true ∧ y.last = true ∧ y.next = w.blk.base ∧ s.inHole w.blk.port y.hi = false then y.t2
      else x.t2
    | none => x.t2

/-- Emit the line in hand, with the line below it; a line missing below it is replaced by the line itself. (DESIGN CHOICE:
notes/assumptions 180.) -/
def emitHeld (s : State) (w : PipeWork) (c : PipeCfg) (below : Option PipeLine) : State × PipeWork :=
  match w.cur with
  | none => (s, w)
  | some x =>
    let dn := match below with
      | some y => if y.k = x.k + 1 then y.t2 else x.t2
      | none => x.t2
    let r := emitLine s w c x (s.lineAbove w c.q x) dn
    (r.1, { r.2 with prev := some x, cur := none })

/-- The settings of a block's pipe, where it has one. -/
def Block.cfg (b : Block) : PipeCfg := b.pipe.getD
  { q := 0, position := 0, through := false, stages := 0, cfa := 0, thresh := 0, fmt := 3 }

/-- A line enters the pipe: unpack, flat-field, defect map, taps T0 and T1; a line that its output slot cannot hold is not
processed (R115). Demosaic emits each line once the next has been processed. -/
def pipeLine (s : State) (w : PipeWork) (k uid : Nat) (d : Data) : State × PipeWork :=
  let b := w.blk
  let c := b.cfg
  let wd := s.portWidth b.port
  if c.slotSize < packedLen c.fmt wd then
    let t := (s.bump F.PIPE_CNT_OVERSIZE c.q).outLost b k
    (t.lineDone b.port uid c.q, { w with blk := { b with holed := true } })
  else
    let dt := s.get F.CAM_CTRL_DT b.port
    let t0 := wholePx (unpackLine dt d wd)
    let t1 := if c.stage 0 then t0.map (flatField c.flat) else t0
    let t2 := if c.stage 1 then t1.map (defectMap c.defects (if c.stage 2 then 2 else 1)) else t1
    let x : PipeLine := { k := k, hi := b.hi k, next := b.pos (k + 1), last := k + 1 == b.len, uid := uid, t0 := d, t1 := t1, t2 := t2 }
    let r0 := tapLine s w 0 (b.pos k) [(dt, d)]
    let r1 := tapLine r0.1 r0.2 1 (b.pos k) (raw16Packets t1)
    if c.stage 2 && isRaw dt then
      let e := emitHeld r1.1 r1.2 c (some x)
      (e.1, { e.2 with cur := some x })
    else
      let e := emitLine r1.1 r1.2 c x x.t2 x.t2
      (e.1, { e.2 with prev := some x })

/-- The block ends in the pipe: the line in hand is emitted, the statistics record and the block's tap frames are sent, the
last line is kept for the next block. -/
def pipeEnd (s : State) (w : PipeWork) (n : Nat) (holed : Bool) : State :=
  let c := w.blk.cfg
  let e := emitHeld s w c none
  let v := e.2
  let dt := s.get F.CAM_CTRL_DT v.blk.port
  let m := if dt = 0x24 ∨ dt = 0x1E ∨ (c.stage 2 = true ∧ isRaw dt = true) then 3 else 1
  let short := decide (n < s.get F.CAM_BLOCK_LINES_BLOCK_LINES v.blk.port)
  let t := e.1.statRecord v c m (short || holed || v.blk.holed)
  let u := foldState (fun a (e : Nat × Nat) =>
    a.sendTap v.blk.port (tapHeader v.blk.port e.2 0xFFF v.blk.base v.blk.time 0) (tgetD v.shown e.2 [])) t
    (v.blk.taps.filter (·.1 == c.q))
  let x := u.pipe c.q
  let y := u.setPipe c.q (match v.prev with
    | some l => { x with last := tset x.last v.blk.port l }
    | none => x)
  y.tapBobEnd c.q v.blk.port (v.blk.pos (s.get F.CAM_BLOCK_LINES_BLOCK_LINES v.blk.port) - 1)

/-! ### The in-line port (R104) -/

/-- Put what the in-line pipe has in hand back into its place. -/
def State.keepInline (s : State) (q : Nat) (w : Option PipeWork) (rest : List InEvent) : State :=
  s.setPipe q { s.pipe q with inline := w, inq := rest }

/-- Handle the starts and closes that stand before the next in-line line; `n` bounds them. -/
def State.inlineMarks (s : State) (q : Nat) : Nat → State
  | 0 => s
  | n + 1 =>
    match (s.pipe q).inq with
    | .start b :: t => (s.keepInline q (some { blk := b }) t).inlineMarks q n
    | .close k holed :: t =>
      match (s.pipe q).inline with
      | some w => (pipeEnd (s.keepInline q none t) w k holed).inlineMarks q n
      | none => (s.keepInline q none t).inlineMarks q n
    | _ => s

/-- Give the in-line pipe an event. -/
def State.inlinePush (s : State) (q : Nat) (e : InEvent) : State :=
  let x := s.pipe q
  (s.setPipe q { x with inq := x.inq ++ [e] }).inlineMarks q (x.inq.length + 1)

/-- PIPE_INLINE_LINE_DONE (R104): the pipe completes the next in-line line. -/
def execPipeInlineLineDone (q : Fin 4) (s : State) : Host.Outcome State Fault Refusal :=
  onDevice s fun s =>
    match (s.pipe q.val).inq, (s.pipe q.val).inline with
    | .line k uid d :: t, some w =>
      let r := pipeLine (s.keepInline q.val none t) w k uid d
      let u := r.1.keepInline q.val (some r.2) t
      u.inlineMarks q.val (t.length + 1)
    | _, _ => s

/-! ### Through-memory blocks (R105) -/

/-- Show a pipe's queue. -/
def State.showQueue (s : State) (q : Nat) : State :=
  let n := (s.pipe q).queue.length
  (s.put F.PIPE_QUEUE_DEPTH n q).peak F.PIPE_QUEUE_PEAK n q

/-- Let go of the stored lines of a skipped block. -/
def State.skipLines (s : State) (b : Block) (q : Nat) : State :=
  foldState (fun t e => t.lineDone b.port e.2 q) s b.lines

/-- A through-memory block becomes eligible, or is skipped when the queue is full: its whole span becomes a hole; a skipped block
sends no statistics record and no tap frame. (DESIGN CHOICE: notes/assumptions 217.) -/
def State.pipeQueue (s : State) (b : Block) : State :=
  let q := b.cfg.q
  let x := s.pipe q
  if x.queue.length < 32 then (s.setPipe q { x with queue := x.queue ++ [b] }).showQueue q
  else
    let t := ((s.bump F.PIPE_CNT_BLOCK_SKIP q).tdc 5).skipLines b q
    t.addHole b.port (b.pos 0) (b.base + b.len * b.pitch / 65536 - 1)

/-- The earlier of two eligible blocks: by Frame Start time, then by port. -/
def earlier (a b : Block) : Block :=
  if b.time < a.time ∨ (b.time = a.time ∧ b.port < a.port) then b else a

/-- PIPE_BLOCK_START (R105). -/
def execPipeBlockStart (q : Fin 4) (s : State) : Host.Outcome State Fault Refusal :=
  onDevice s fun s =>
    let x := s.pipe q.val
    match x.work, x.queue with
    | none, b :: t =>
      let c := t.foldl earlier b
      (s.setPipe q.val { x with work := some c, queue := removeFirst (· == c) x.queue }).showQueue q.val
    | _, _ => s

/-- One stored line of a through-memory block: read from the line store and processed. -/
def throughLine (a : State × PipeWork) (e : Nat × Nat) : State × PipeWork :=
  match (a.1.cam a.2.blk.port).held.find? (·.uid == e.2) with
  | some l =>
    let d := a.1.readData l.addr l.len
    pipeLine d.1 a.2 e.1 e.2 d.2
  | none => a

/-- PIPE_BLOCK_DONE (R105, R106, R115, R118, R122): every stored line of the block, in line order. -/
def execPipeBlockDone (q : Fin 4) (s : State) : Host.Outcome State Fault Refusal :=
  onDevice s fun s =>
    match (s.pipe q.val).work with
    | none => s
    | some b =>
      let t := s.setPipe q.val { s.pipe q.val with work := none }
      let r := b.lines.foldl throughLine (t, { blk := b })
      pipeEnd r.1 r.2 b.count b.holed

/-! ### Commands (R102, R114, R118, R121) -/

/-- Whether the in-line port suits a pipe (R100). -/
def inlineOk (q p : Nat) : Bool := p == 0x1F || p == 16 || (decide (4 * q ≤ p) && decide (p < 4 * q + 4))

/-- Whether the output-store registers of a pipe are valid (R115). (DEDUCED: notes/assumptions 38.) -/
def State.storeOk (s : State) (q : Nat) : Bool :=
  let a : Area := ⟨ownPipeStore + q, s.get F.PIPE_OUT_BASE_BASE q * 65536, s.get F.PIPE_OUT_SIZE_SIZE q * 65536⟩
  a.len == 0 || (s.get F.PIPE_OUT_SLOT_SLOT q != 0 && (a.inSomeBeam || s.inDdr a) && !s.clashes a isLineOwner)

/-- The output-store registers: base, length and slot size in bytes. -/
def State.storeRegs (s : State) (q : Nat) : Nat × Nat × Nat :=
  (s.get F.PIPE_OUT_BASE_BASE q * 65536, s.get F.PIPE_OUT_SIZE_SIZE q * 65536, s.get F.PIPE_OUT_SLOT_SLOT q * 64)

/-- Whether the parameters of CMD_PIPE_CONFIG are in range. -/
def pipeConfigOk (c : Cmd) : Bool :=
  let inl := c.p 1
  let tm := c.p 2
  decide (inl < 32) && inlineOk c.target inl && decide (tm < 2 ^ 17) && decide ((maskList 17 tm).length ≤ 7) &&
    !bitAt tm inl && bitsOf (c.p 3) 5 3 == 0 && decide (c.p 3 < 2 ^ 10) && decide (c.p 4 < 2 ^ 16) &&
    decide (c.p 5 ≤ 5) && decide (c.p 6 < 2 ^ 16)

/-- CMD_PIPE_CONFIG (R102, R103). -/
def execCmdPipeConfig (src : Source) (s : State) : Host.Outcome State Fault Refusal :=
  runCmd s src 0x0204 fun s c =>
    let q := c.target
    let served := fun p => (c.p 1 == p || bitAt (c.p 2) p) && (s.servedBy p).any (· != q)
    if !pipeConfigOk c || !s.storeOk q then refuse s .badParam
    else if (List.range 17).any served then refuse s .badState
    else if !(s.outLines q).isEmpty && (s.pipe q).store != some (s.storeRegs q) then refuse s .badState
    else
      let t := ((((((s.put F.PIPE_CTRL_INLINE (c.p 1) q).put F.PIPE_CTRL_TM_MASK (c.p 2) q).put F.PIPE_STAGES_EN (c.p 3) q).put
        F.PIPE_STAGES_CFA (c.p 3 / 2 ^ 8) q).put F.PIPE_DM_THRESH_T (c.p 4) q).put F.PIPE_OUT_FMT_FMT (c.p 5) q).put
        F.PIPE_OUT_FMT_MATRIX_SEL (c.p 6) q
      let u := t.setPipe q { t.pipe q with store := some (s.storeRegs q) }
      doneWith u.showPorts

/-- The 16-bit values that bytes spell. -/
def halves : List Byte → List Nat
  | a :: b :: t => (a.toNat + 256 * b.toNat) :: halves t
  | _ => []

/-- The 32-bit values that bytes spell. -/
def fulls (bs : List Byte) : List Nat := (bytesWords bs).map (·.toNat)

/-- Columns strictly rising, no method 3. -/
def defectsOk : List Nat → Bool
  | [] => true
  | [a] => a / 16384 != 3
  | a :: b :: t => a / 16384 != 3 && decide (a % 16384 < b % 16384) && defectsOk (b :: t)

/-- The entries of a table and whether it is within its limits (R114). -/
def tableOf (kind : Nat) (bs : List Byte) : List Nat × Bool :=
  if kind = 0 then (fulls bs, decide (1 ≤ bs.length / 4) && decide (bs.length / 4 ≤ 16384))
  else
    let h := halves bs
    if kind = 1 then (h, decide (h.length ≤ 4096) && defectsOk h)
    else if kind = 2 then (h, h.length == 4096)
    else (h, h.length == 12)

/-- CMD_PIPE_TABLE (R114): the reply reports the bytes taken. -/
def execCmdPipeTable (src : Source) (s : State) : Host.Outcome State Fault Refusal :=
  runCmd s src 0x0205 fun s c =>
    let q := c.target
    let kind := bitsOf (c.p 1) 0 2
    let i := bitsOf (c.p 2) 0 5
    let tab := tableOf kind c.bulk
    let portOk := if kind = 3 then decide (i < 4) else decide (i < 17) && s.servedBy i == some q
    if portOk = false then (s, .final .badParam [0])
    else if c.bulkStatus ≠ .done then (s, .final c.bulkStatus [w32 c.bulk.length])
    else if c.bulkEnd = .awaiting then doneWith s
    else if !tab.2 then (s, .final .badParam [w32 c.bulk.length])
    else
      let x := s.pipe q
      doneWith (s.setPipe q { x with
        tables := tset x.tables (tableKey kind (if kind = 3 then i else s.pipePos q i)) tab.1 }) [w32 c.bulk.length]

/-- CMD_STATS_SET (R118). -/
def execCmdStatsSet (src : Source) (s : State) : Host.Outcome State Fault Refusal :=
  runCmd s src 0x0207 fun s c =>
    let zx := bitsOf (c.p 1) 0 7
    let zy := bitsOf (c.p 1) 8 5
    if zx = 0 ∨ 64 < zx ∨ zy = 0 ∨ 16 < zy then refuse s .badParam
    else
      doneWith ((((s.put F.PIPE_STAT_CFG_ZX zx c.target).put F.PIPE_STAT_CFG_ZY zy c.target).put F.PIPE_STAT_CFG_HIST_EN
        (c.p 2) c.target).put F.PIPE_STAT_CFG_ZONE_EN (c.p 2 / 2 ^ 8) c.target)

/-- Whether the parameters of CMD_TAP_SET are in range and the port is permitted. -/
def State.tapOk (s : State) (c : Cmd) : Bool :=
  let tap := bitsOf (c.p 1) 0 2
  let mode := bitsOf (c.p 2) 0 2
  let port := bitsOf (c.p 3) 0 5
  decide (1 ≤ c.p 2 / 2 ^ 16) && decide (port < 17) && (mode != 3 || tap == 3) && ((mode == 2) == (bitsOf (c.p 4) 0 16 != 0)) &&
    (s.servedBy port == some c.target || (tap == 0 && (s.servedBy port).isNone))

/-- CMD_TAP_SET (R121): the setting is shown, and taken over at the port's next block. (DEDUCED: notes/assumptions 182.) -/
def execCmdTapSet (src : Source) (s : State) : Host.Outcome State Fault Refusal :=
  runCmd s src 0x0206 fun s c =>
    if !s.tapOk c then refuse s .badParam
    else
      let q := c.target
      let n := bitsOf (c.p 1) 0 2
      let t := ((s.put F.PIPE_TAP_MODE (c.p 2) q n).put F.PIPE_TAP_N (c.p 2 / 2 ^ 16) q n).put F.PIPE_TAP_VC (bitsOf (c.p 3) 0 5) q n
      let x := t.pipe q
      doneWith (t.setPipe q { x with tapDue := tset x.tapDue n (bitsOf (c.p 4) 0 16) }).showPorts

end Sys2Proof.Machine
end

