-- ==== Sys2Proof/Machine/Camera.lean ====
section
/-! DEFINITION. The camera ports (chapter 04): Frame Start, Frame End and lines, their places on the count axis, holes and
retention, enabling and disabling a port, and line triggers. -/

namespace Sys2Proof.Machine

/-- Write a device time to three registers. -/
def State.putTime (s : State) (ns lo hi : Fld) (t : Nat) (i : Nat := 0) : State :=
  ((s.put ns (timeNs t) i).put lo (timeSec t) i).put hi (timeSec t / 2 ^ 32) i

/-! ### Blocks (R89, R91) -/

/-- CAM_PITCH; 0 is treated as 0x0001_0000. -/
def State.camPitch (s : State) (p : Nat) : Nat :=
  let v := s.get F.CAM_PITCH_PITCH p
  if v = 0 then 65536 else v

/-- The block length of a port. -/
def State.blockLines (s : State) (p : Nat) : Nat := s.get F.CAM_BLOCK_LINES_BLOCK_LINES p

/-- Change a port's open block. -/
def State.setBlk (s : State) (p : Nat) (b : Option Block) : State := s.setCam p { s.cam p with blk := b }

/-- The last count of a block's whole span. -/
def Block.last (b : Block) : Int := b.base + b.len * b.pitch / 65536 - 1

/-- The T0 taps of other pipes that take a block of a port without a pipe end their frames with it. -/
def State.endRawTaps (s : State) (b : Block) : State :=
  foldState (fun t e =>
    let x := t.pipe e.1
    let mine := fun (w : TapWork) => w.bobbin == 0xFFF && w.tap == e.2 && w.port == b.port && w.base == b.base
    State.sendTap (t.setPipe e.1 { x with tapBobs := x.tapBobs.filter (!mine ·) }) b.port
      (tapHeader b.port e.2 0xFFF b.base b.time 0) ((x.tapBobs.filter mine).flatMap (·.packets))) s
    (if b.pipe.isNone then b.taps else [])

/-- A port's block ends without a close: what its raw taps hold of it is sent (R122). -/
def State.dropBlock (s : State) (p : Nat) : State :=
  match (s.cam p).blk with
  | some b => (s.setBlk p none).endRawTaps b
  | none => s

/-- Close a block after `b.count` lines: a short block leaves a hole, and the block goes to its pipe (R91, R104, R105). -/
def State.closeBlock (s : State) (b : Block) : State :=
  let p := b.port
  let short := decide (b.count < b.len)
  let t := if short then (s.bump F.CAM_BLOCK_CNT_BLOCK_SHORT p).addHole p (b.pos b.count) b.last else s
  let u := (t.setBlk p none).endRawTaps b
  let v := match b.pipe with
    | none => u
    | some c => if c.through then u.pipeQueue { b with holed := b.holed || short }
      else u.inlinePush c.q (.close b.count (b.holed || short))
  foldState (fun w q => if b.pipe.isNone then w.tapBobEnd q p b.last else w) v (List.range 4)

/-- The place of a new block (R89): its base, whether it snapped, its behind limit, and the state with a gap recorded. -/
def State.placeBlock (s : State) (p : Nat) (raw : Int) : State × Int × Bool × Option Int :=
  let c := s.cam p
  let tol : Int := s.get F.CAM_GAP_TOL_TOL p
  if c.first || c.standing.isSome then (s, raw, false, none)
  else
    match c.prev with
    | none => (s, raw, false, none)
    | some (base, pitch, n) =>
      let exp := base + n * pitch / 65536
      if exp - tol ≤ raw ∧ raw ≤ exp + tol then (s, exp, true, none)
      else if exp + tol < raw then ((s.bump F.CAM_BLOCK_CNT_GAP p).addHole p exp (raw - 1), raw, false, none)
      else (s, raw, false, some exp)

/-- The standing hole of a port ends at its first stored Frame Start; the range that it then covers stays a hole (R405). -/
def State.endStanding (s : State) (p : Nat) (base : Int) : State :=
  match (s.cam p).standing with
  | none => s
  | some lo =>
    let t := s.setCam p ({ s.cam p with standing := none, stood := (s.cam p).stood ++ [(lo, base - 1)] }.noteGap lo (base - 1))
    foldState (fun u id => (u.markHole p id).placeFor p lo (base - 1) id) t (t.fedBy p lo (base - 1))

/-- Open a block at a stored Frame Start. -/
def State.openBlock (s : State) (p : Nat) (count : Int) : State :=
  let raw := wrap48 (count + signed 32 (s.get F.CAM_CNT_OFFSET_OFFSET p))
  let r := s.placeBlock p raw
  let t := (r.1.endStanding p r.2.1).tapsTake p
  let tb := t.tapBlock (t.cam p).taps
  let b : Block := { port := p, base := r.2.1, pitch := t.camPitch p, len := t.blockLines p, time := t.time.now,
                     snapped := r.2.2.1, taps := tb.2, pipe := (t.servedBy p).map fun q => t.pipeCfg q p }
  let u := tb.1
  let v := u.setCam p { u.cam p with
    first := false, orphans := false, blk := some b, prev := some (b.base, b.pitch, b.len), behind := r.2.2.2 }
  let w := ((v.putBit F.CAM_CTRL_ARMED false p).putCount F.CAM_BASE_LO_BASE F.CAM_BASE_HI_BASE b.base p)
  match b.pipe with
  | some c => if c.through then w else w.inlinePush c.q (.start b)
  | none => w

/-- Whether a port stores lines now: a consumer names it, or a block under way belongs to a pipe or to the taps that it started
with (R88, R103, R121). -/
def State.storing (s : State) (p : Nat) : Bool :=
  s.named p || (s.cam p).blk.any fun b => b.pipe.isSome || !(s.cam p).taps.isEmpty

/-- A packet's high-speed data has been seen. -/
def State.phySeen (s : State) (p : Nat) : State := s.setCam p { s.cam p with seenAt := some s.time.uptime }

/-- Whether a virtual channel is that of a port's stream; before the first enable every one is (R85). -/
def State.onStream (s : State) (p vc : Nat) : Bool :=
  p == 16 || !(s.cam p).streamed || vc == s.get F.CAM_CTRL_VC p

/-- A short packet's header as it arrives; the parallel port has no header and no check (R84). -/
def State.shortPacket (s : State) (p : Nat) (corrected : Bool) : State :=
  if corrected && p != 16 then (s.phySeen p).bump F.CAM_PKT_CNT_ECC_CORR p else s.phySeen p

/-- CAM_FRAME_START (R83, R84, R85, R87, R88, R89, R91). A block that it closes counts as at Frame End and in NO_FE.
(DEDUCED: notes/assumptions 178.) -/
def execCamFrameStart (port : Fin 17) (vc : Fin 16) (corrected : Bool) (s : State) : Host.Outcome State Fault Refusal :=
  onDevice s fun s =>
    let p := port.val
    let t := s.shortPacket p corrected
    if !t.onStream p vc.val then t
    else
      let u := t.bumpWrap F.CAM_FRAMES_FRAMES 1 p
      if !u.on F.CAM_CTRL_EN p then u
      else if !u.storing p then u.dropBlock p
      else
        let v := match (u.cam p).blk with
          | some b => (u.bump F.CAM_BLOCK_CNT_NO_FE p).closeBlock b
          | none => u
        match v.count? (v.get F.CAM_CTRL_ENC p) with
        | some c => v.openBlock p c
        | none => v.setCam p { v.cam p with orphans := true }

/-- CAM_FRAME_END (R91). -/
def execCamFrameEnd (port : Fin 17) (vc : Fin 16) (corrected : Bool) (s : State) : Host.Outcome State Fault Refusal :=
  onDevice s fun s =>
    let p := port.val
    let t := s.shortPacket p corrected
    if !t.onStream p vc.val then t
    else
      match (t.cam p).blk with
      | some b => if t.storing p then t.closeBlock b else t.dropBlock p
      | none => t

/-! ### Lines (R83, R90, R94, R96, R98) -/

/-- Bytes of a slot of a port's line store. -/
def State.slotSize (s : State) (p : Nat) : Nat := roundUp (4 * s.get F.CAM_LINE_WORDS_LINE_WORDS p) 64

/-- The lowest free slot of a port's region, beam part first, and its address (R94); a slot that the wipe has not passed is
not free (R317). -/
def State.lineSlot (s : State) (p : Nat) : Option (Nat × Nat) :=
  let c := s.cam p
  let z := s.slotSize p
  if z = 0 then none
  else
    let n := c.beamLen / z
    match lowestFree (c.held.map (·.slot)) (n + c.spillLen / z) with
    | none => none
    | some i =>
      let a := if i < n then c.beam + i * z else c.spill + (i - n) * z
      if s.wiped (a + z - 1) then some (i, a) else none

/-- Byte `o` of the fill pattern. -/
def fillByte (fill o : Nat) : Byte := BitVec.ofNat 8 (fill / 2 ^ (8 * (o % 2)))

/-- A payload filled or cut to a line's length (R90). -/
def fitLine (fill len : Nat) (d : List Byte) : List Byte :=
  d.take len ++ (List.range (len - d.length)).map fun i => fillByte fill (d.length + i)

/-- Count a short or a long line. -/
def State.countLength (s : State) (p n len : Nat) : State :=
  if len < n then s.bump F.CAM_LINE_CNT_LINE_LONG p
  else if n ≤ len - 4 then s.bump F.CAM_LINE_CNT_LINE_SHORT p
  else s

/-- The block after line `b.count` has arrived, stored or not. -/
def Block.next (b : Block) (holed : Bool) : Block := { b with count := b.count + 1, holed := b.holed || holed }

/-- The line's span becomes a hole; the line has taken its index. -/
def State.lineHole (s : State) (b : Block) : State :=
  (s.setBlk b.port (some (b.next true))).addHole b.port (b.pos b.count) (b.hi b.count)

/-- A stored line goes to the T0 taps of a port without a pipe. -/
def State.rawTaps (s : State) (b : Block) (d : List Byte) : State :=
  let ps := [(s.get F.CAM_CTRL_DT b.port, goodData d)]
  let t := foldState (fun t q => t.tapBobLine q 0 b.port b.time (b.pos b.count) ps) s (List.range 4)
  foldState (fun u e =>
    let k := u.tapKeep b.port ps
    let x := k.1.pipe e.1
    k.1.setPipe e.1 { x with tapBobs := x.tapBobs ++
      [{ port := b.port, tap := e.2, bobbin := 0xFFF, base := b.base, last := 2 ^ 48, packets := k.2 }] }) t b.taps

/-- The data of a line as they reach the store: the words `lost` on the way are poisoned (R35, R323). -/
def lineData (addr : Nat) (d : List Byte) (lost : List Nat) : Data :=
  (padded addr d).mapIdx fun i b => if lost.contains (i / 8) then none else b

/-- Store a line in a slot: its takers, what it places, its pipe and its taps. -/
def State.storeLine (s : State) (b : Block) (slot addr : Nat) (d : List Byte) (lost : List Nat) : State :=
  let p := b.port
  let t := s.writeData addr (lineData addr d lost)
  let uid := (t.cam p).lines
  let l : Line := { uid := uid, pos := b.pos b.count, hi := b.hi b.count, base := b.base, k := b.count, slot := slot, addr := addr,
                    len := d.length, stage := if b.pipe.isSome then 1 else 0, time := b.time
                    gaps := t.gapsOn p (b.pos b.count) (b.hi b.count) }
  let byPipe := match b.pipe with
    | some c => if c.through then [Taker.pipe c.q] else []
    | none => []
  let m := { l with takers := byPipe ++ t.bobTakers p l }
  let c := t.cam p
  let u := t.setCam p { c with
    held := c.held ++ [m], lines := uid + 1, blk := some { b.next false with lines := b.lines ++ [(b.count, uid)] } }
  let v := match b.pipe with
    | none => (u.place p l.pos l.hi).rawTaps b d
    | some x => if x.through then u else u.inlinePush x.q (.line b.count uid (goodData d))
  v.sweep p

/-- A line of an open block. Where neither buffer space nor a slot is free, FIFO_DROP alone counts it; a line beyond the block or
behind its limit is judged before either. (DESIGN CHOICE: notes/assumptions 179, 214.) -/
def State.takeLine (s : State) (b : Block) (pk : CamPacket) : State :=
  let p := b.port
  let len := 4 * s.get F.CAM_LINE_WORDS_LINE_WORDS p
  if b.len ≤ b.count then
    if b.long then s else (s.bump F.CAM_BLOCK_CNT_BLOCK_LONG p).setBlk p (some { b with long := true })
  else if (s.cam p).behind.any fun lim => decide (b.pos b.count < lim) then
    (s.bump F.CAM_LINE_CNT_BEHIND p).setBlk p (some (b.next false))
  else if !pk.room then ((s.bump F.CAM_DROP_CNT_FIFO_DROP p).tdc 4).lineHole b
  else
    match s.lineSlot p with
    | none => ((s.bump F.CAM_DROP_CNT_LINE_DROP p).tdc 4).lineHole b
    | some (slot, addr) =>
      if !pk.crcOk then s.lineHole b
      else (s.countLength p pk.payload.length len).storeLine b slot addr (fitLine (s.get F.CAM_FILL_FILL p) len pk.payload) pk.lost

/-- An uncorrectable header makes the whole span of an open block a hole, once (R83). -/
def State.headerLost (s : State) (p : Nat) : State :=
  match (s.cam p).blk with
  | some b =>
    if b.hdrErr || !s.storing p then s
    else (s.setBlk p (some { b with hdrErr := true, holed := true })).addHole p (b.pos 0) b.last
  | none => s

/-- Whether a long packet belongs to a port's stream. -/
def State.streamPacket (s : State) (p : Nat) (pk : CamPacket) : Bool :=
  p == 16 || !(s.cam p).streamed || (pk.vc == s.get F.CAM_CTRL_VC p && pk.dt == s.get F.CAM_CTRL_DT p)

/-- A line that arrives while the port is quiet takes its index in a block under way and is discarded (R88, R89). -/
def State.skipLine (s : State) (p : Nat) : State :=
  match (s.cam p).blk with
  | some b => if b.count < b.len then s.setBlk p (some (b.next false)) else s
  | none => s

/-- A long packet of the port's stream, its header good. -/
def State.takePacketLine (s : State) (p : Nat) (packet : CamPacket) : State :=
  if !s.on F.CAM_CTRL_EN p then s
  else if !s.storing p then s.skipLine p
  else
    match (s.cam p).blk with
    | some b => s.takeLine b packet
    | none =>
      if s.on F.CAM_CTRL_ARMED p && !(s.cam p).orphans then s else s.bump F.CAM_LINE_CNT_ORPHAN p

/-- A line of the parallel port as the packet that carries it: no header, no check, and the pixels of the PCLK edges with DVAL
high, packed (R84). -/
def State.pinPacket (s : State) (pk : CamPacket) : CamPacket :=
  let dt := s.get F.CAM_CTRL_DT 16
  { pk with dt := dt, header := 0, crcOk := true
            payload := pinBytes dt ((pk.pins.filter (·.2)).map fun x => x.1.toNat) }

/-- CAM_LONG_PACKET (R82 to R85, R87, R88, R90, R91, R96, R98): the header, then the payload's CRC, then the line. -/
def execCamLongPacket (port : Fin 17) (packet : CamPacket) (s : State) : Host.Outcome State Fault Refusal :=
  onDevice s fun s =>
    let p := port.val
    let t := s.phySeen p
    let pk := if p = 16 then t.pinPacket packet else packet
    if 2 ≤ pk.header then (t.bump F.CAM_PKT_CNT_HDR_ERR p).headerLost p
    else
      let u := if pk.header = 1 then t.bump F.CAM_PKT_CNT_ECC_CORR p else t
      let v := if pk.crcOk then u else u.bump F.CAM_PKT_CNT_CRC_ERR p
      if !v.streamPacket p pk then v.bump F.CAM_PKT_CNT_DISCARD p else v.takePacketLine p pk

/-! ### Holes and retention passing (R92, R95) -/

/-- HOLE_EXPIRE (R92): holes that the mirrored count has passed by more than CAM_RETAIN leave the list.
(DESIGN CHOICE: notes/assumptions 2.) -/
def execHoleExpire (port : Fin 17) (s : State) : Host.Outcome State Fault Refusal :=
  onDevice s fun s =>
    match s.retainFloor port.val with
    | none => s
    | some f =>
      let c := s.cam port.val
      let hs := c.holes.filter fun h => decide (f ≤ h.2)
      (s.setCam port.val { c with holes := hs }).put F.CAM_HOLES_ENTRIES hs.length port.val

/-- LINE_RETAIN_PASS (R95): lines that nobody holds and whose retention has passed are freed. -/
def execLineRetainPass (port : Fin 17) (s : State) : Host.Outcome State Fault Refusal :=
  onDevice s fun s => s.sweep port.val

/-! ### Enabling and disabling (R86, R87, R97) -/

/-- Whether a data type is accepted (R82). -/
def dtAccepted (dt : Nat) : Bool := isRaw dt || dt == 0x1E || dt == 0x24 || (decide (0x30 ≤ dt) && decide (dt ≤ 0x37))

/-- Whether the PHY mode and width suit the port. -/
def phyOk (p mode width : Nat) : Bool :=
  if p = 16 then decide (2 ≤ mode) && width == 0 else decide (mode < 2) && decide (width < 3)

/-- The regions that CMD_CAM_ENABLE names: beam base and length, spill base and length. -/
def camRegions (c : Cmd) : Nat × Nat × Nat × Nat :=
  (c.p 5 + 2 ^ 32 * bitsOf (c.p 6) 0 8, bitsOf (c.p 7) 0 16 * 65536, bitsOf (c.p 6) 8 20 * 2 ^ 20,
    bitsOf (c.p 7) 16 16 * 2 ^ 20)

/-- Whether the parameters of CMD_CAM_ENABLE are in range; reserved bits are ignored (R7). (DESIGN CHOICE: notes/assumptions
37.) -/
def State.camEnableOk (s : State) (c : Cmd) : Bool :=
  let r := camRegions c
  let p := c.target
  let words := bitsOf (c.p 2) 0 14
  dtAccepted (bitsOf (c.p 1) 0 6) && phyOk p (bitsOf (c.p 1) 12 2) (bitsOf (c.p 1) 14 2) && decide (1 ≤ words) &&
    decide (1 ≤ bitsOf (c.p 3) 0 16) && c.p 5 % 65536 == 0 && decide (1 ≤ bitsOf (c.p 7) 0 16) &&
    decide (bitsOf (c.p 7) 0 16 ≤ 256) && decide (bitsOf (c.p 7) 16 16 ≤ 32768) &&
    decide (roundUp (4 * words) 64 ≤ r.2.1) &&
    Area.inSomeBeam ⟨ownPortBeam + p, r.1, r.2.1⟩ && s.inDdr ⟨ownPortSpill + p, r.2.2.1, r.2.2.2⟩

/-- CMD_CAM_ENABLE (R86, R87). -/
def execCmdCamEnable (src : Source) (s : State) : Host.Outcome State Fault Refusal :=
  runCmd s src 0x0201 fun s c =>
    let p := c.target
    let r := camRegions c
    let other := fun o => isPortOwner o && o != ownPortBeam + p && o != ownPortSpill + p
    if !s.camEnableOk c then refuse s .badParam
    else if s.on F.CAM_CTRL_EN p then refuse s .badState
    else if s.clashes ⟨ownPortBeam + p, r.1, r.2.1⟩ other || s.clashes ⟨ownPortSpill + p, r.2.2.1, r.2.2.2⟩ other then
      refuse s .resourceHeld
    else
      let words := bitsOf (c.p 2) 0 14
      let z := roundUp (4 * words) 64
      let x := s.cam p
      let t := s.setCam p { x with first := true, orphans := false, streamed := true, beam := r.1, beamLen := r.2.1, spill := r.2.2.1,
                                   spillLen := r.2.2.2, blk := none, prev := none, behind := none, held := [],
                                   outs := [], holes := [], stood := [], taps := [] }
      let w := bitsOf (c.p 1) 0 6 * 2 ^ 4 + bitsOf (c.p 1) 8 4 * 2 ^ 10 + bitsOf (c.p 1) 12 2 * 2 ^ 14 +
        bitsOf (c.p 1) 14 2 * 2 ^ 16 + bitsOf (c.p 4) 0 1 * 2 ^ 18 + 3
      let u := ((((t.setReg R.CAM_CTRL w p).setReg R.CAM_LINE_WORDS words p).setReg R.CAM_BLOCK_LINES (bitsOf (c.p 3) 0 16) p).put
        F.CAM_FILL_FILL (c.p 8) p).put F.CAM_INCOMPLETE_POLICY_DECIDE (c.p 8 / 2 ^ 16) p
      let v := (((u.put F.CAM_LS_SLOTS_SLOTS (r.2.1 / z + r.2.2.2 / z) p).put F.CAM_LS_USED_USED 0 p).put
        F.CAM_HOLES_ENTRIES 0 p).own (45 + p) ownLineStore p
      doneWith (v.showPort p)

/-- CMD_CAM_DISABLE (R97). -/
def execCmdCamDisable (src : Source) (s : State) : Host.Outcome State Fault Refusal :=
  runCmd s src 0x0202 fun s c =>
    let p := c.target
    let x := s.cam p
    if !s.on F.CAM_CTRL_EN p then refuse s .badState
    else if s.named p || !x.held.isEmpty || !x.outs.isEmpty then refuse s .busy
    else
      let d := s.dropBlock p
      let t := d.setCam p { x with beam := 0, beamLen := 0, spill := 0, spillLen := 0, blk := none, prev := none,
                                   behind := none, holes := [], standing := none, stood := [], taps := [] }
      let u := ((((t.putBit F.CAM_CTRL_EN false p).putBit F.CAM_CTRL_ARMED false p).put F.CAM_LS_SLOTS_SLOTS 0 p).put
        F.CAM_HOLES_ENTRIES 0 p).own (45 + p) ownNone 0
      doneWith (u.showPort p)

/-! ### Line triggers (R16, R99) -/

/-- The resource of a trigger: field outputs are entries 5 to 12 of SYS_OWN, compare units 13 to 44. -/
def trigResource (kind index : Nat) : Nat := if kind = 0 then 5 + index else 13 + index

/-- The compare unit of a port's trigger takes the time projected for the next multiple, or is disarmed while the velocity
estimate is not positive; armed again, it takes the next multiple above the mirrored count.
(DEDUCED: notes/assumptions 40.) -/
def State.retrigger (s : State) (p : Nat) : State :=
  let x := s.cam p
  let ch := s.get F.CAM_CTRL_ENC p
  match x.trigUnit with
  | none => s
  | some u =>
    let next := match x.trigNext, x.trigAt with
      | some m, some _ => some m
      | _, _ => (s.count? ch).map fun c => nextMultiple c x.trigPer
    match next.bind (s.project ch) with
    | some t =>
      ((s.setCam p { x with trigNext := next, trigAt := some t }).putTime F.TK_CMP_NS_NS F.TK_CMP_S_LO_S
        F.TK_CMP_S_HI_S_HI t u).putBit F.TK_CMP_S_HI_ARMED true u
    | none => (s.setCam p { x with trigNext := none, trigAt := none }).putBit F.TK_CMP_S_HI_ARMED false u

/-- Every trigger's projection is renewed (R99). -/
def State.retriggerAll (s : State) : State := timesFrom State.retrigger 17 0 s

/-- A compare unit fires the trigger of a port: CAMp_TRIG is on, and the unit goes to the next multiple. -/
def State.fireTrigger (s : State) (p : Nat) : State :=
  let x := s.cam p
  match x.trigAt, x.trigNext with
  | some _, some m => State.retrigger (s.setCam p { x with trigOn := true, trigNext := some (m + x.trigPer) }) p
  | _, _ => s

/-- Stop a port's trigger and release its resource. -/
def State.stopTrigger (s : State) (p : Nat) : State :=
  let x := s.cam p
  let t := match x.trigFo with
    | some i => ((((s.setField R.FIELD_FO_TRIG_PERIOD 0 i).setField R.FIELD_FO_TRIG_WIDTH 0 i).putField
        (F.FIELD_FO_FUNC_FUNC i) 0).own (5 + i) ownNone 0)
    | none => s
  let u := match x.trigUnit with
    | some n => (t.own (13 + n) ownNone 0).putBit F.TK_CMP_S_HI_ARMED false n
    | none => t
  u.setCam p { u.cam p with trigFo := none, trigUnit := none, trigNext := none, trigAt := none, trigPer := 0, trigW := 0 }

/-- Start a port's trigger on a resource it may take. -/
def State.startTrigger (s : State) (p kind index period width : Nat) : State :=
  if kind = 0 then
    let t := (s.own (5 + index) ownLineTrigger p).setCam p { s.cam p with trigFo := some index, trigPer := period, trigW := width }
    ((t.setField R.FIELD_FO_TRIG_WIDTH width index).setField R.FIELD_FO_TRIG_PERIOD
      (period + 2 ^ 24 * t.get F.CAM_CTRL_ENC p) index).putField (F.FIELD_FO_FUNC_FUNC index) 2
  else
    State.retrigger ((s.own (13 + index) ownCamera p).setCam p
      { s.cam p with trigUnit := some index, trigPer := period, trigW := width, trigNext := none, trigAt := none }) p

/-- Whether the parameters of CMD_CAM_TRIGGER are in range. (DEDUCED: notes/assumptions 39.) -/
def camTriggerOk (c : Cmd) : Bool :=
  let kind := bitsOf (c.p 1) 8 1
  (kind == 1 || decide (bitsOf (c.p 1) 0 5 < 8)) &&
    (bitsOf (c.p 2) 0 24 == 0 || kind == 1 || decide (200 ≤ bitsOf (c.p 3) 0 16))

/-- CMD_CAM_TRIGGER (R99): the new resource is acquired and the old one released as one change. -/
def execCmdCamTrigger (src : Source) (s : State) : Host.Outcome State Fault Refusal :=
  runCmd s src 0x0203 fun s c =>
    let p := c.target
    let kind := bitsOf (c.p 1) 8 1
    let i := bitsOf (c.p 1) 0 5
    let owner := if kind = 0 then ownLineTrigger else ownCamera
    if !camTriggerOk c then refuse s .badParam
    else if bitsOf (c.p 2) 0 24 = 0 then doneWith (s.stopTrigger p)
    else if s.heldByOther (trigResource kind i) owner p then refuse s .resourceHeld
    else
      let x := s.cam p
      let same := if kind = 0 then x.trigFo == some i else x.trigUnit == some i
      doneWith ((if same then s else s.stopTrigger p).startTrigger p kind i (bitsOf (c.p 2) 0 24) (bitsOf (c.p 3) 0 16))

/-- TRIGGER_PULSE_END (R99): the pulse ends. -/
def execTriggerPulseEnd (pin : TrigPin) (s : State) : Host.Outcome State Fault Refusal :=
  match pin with
  | .fo i => onDie s fun s => { s with die := { s.die with trigOn := withBit s.die.trigOn i.val false } }
  | .cam p => onDevice s fun s => s.setCam p.val { s.cam p.val with trigOn := false }

end Sys2Proof.Machine
end

