-- ==== Sys2Proof/Machine/Network.lean ====
section
/-! DEFINITION. Device time and its servo, the PTP domains, the Ethernet ports and the timed frames (chapter 16). -/

namespace Sys2Proof.Machine

/-! ### Units -/

/-- A PTP domain. -/
def State.dom (s : State) (d : Nat) : Domain := tgetD s.time.doms d {}
/-- Change a PTP domain. -/
def State.setDom (s : State) (d : Nat) (x : Domain) : State := { s with time := { s.time with doms := tset s.time.doms d x } }
/-- An Ethernet port. -/
def State.eth (s : State) (p : Nat) : EthPort := tgetD s.time.ports p {}
/-- Change an Ethernet port. -/
def State.setEth (s : State) (p : Nat) (x : EthPort) : State := { s with time := { s.time with ports := tset s.time.ports p x } }

/-- Device time in picoseconds. -/
def State.nowPs (s : State) : Int := (s.time.now * 1000 / nsUnit : Nat)

/-- What one nanosecond adds to device time: 1 ns times (1 + r), in units of 2^-48 ns (R366). -/
def TimeUnit.pace (x : TimeUnit) : Nat := ((nsUnit : Int) + x.rate).toNat

/-- Picoseconds in units of device time. -/
def psUnits (x : Int) : Int := x * nsUnit / 1000

/-- A signed number cut to the range of 32 bits. -/
def sat32 (x : Int) : Int := max (-2147483648) (min 2147483647 x)

/-! ### Timed frames (R26, R376 to R382) -/

/-- One step of the reflected CRC-32 of IEEE 802.3. -/
def fcsBits : Nat → BitVec 32 → BitVec 32
  | 0, c => c
  | n + 1, c => fcsBits n (if c.getLsbD 0 then (c >>> 1) ^^^ 0xEDB88320#32 else c >>> 1)

/-- The frame check sequence. (PRESUMED: notes/assumptions 137.) -/
def fcs (bs : List Byte) : Word :=
  (bs.foldl (fun c b => fcsBits 8 (c ^^^ b.zeroExtend 32)) 0xFFFFFFFF#32) ^^^ 0xFFFFFFFF#32

/-- An Ethernet address from its registers: HI holds bytes 0 and 1, LO bytes 2 to 5. -/
def addrBytes (lo hi : Nat) : List Byte := natBytes 2 hi ++ natBytes 4 lo

/-- Word `i` of the fire mask. -/
def TimedFrame.fire (f : TimedFrame) (i : Nat) : Word :=
  if f.action = 0 then 0#32
  else w32 (((List.range 32).map fun j =>
    if f.first ≤ 32 * i + j ∧ 32 * i + j < f.first + f.count then 2 ^ j else 0).sum)

/-- The 16 payload words (R380). -/
def TimedFrame.words (f : TimedFrame) : List Word :=
  let e := unsigned 48 f.eject
  [w32 (1 + 2 ^ 8 * bit f.late + 2 ^ 16 * (f.serial % 2 ^ 16)), w32 f.serial, w32 e, w32 (e / 2 ^ 32 + 2 ^ 16 * f.first),
    w32 (f.count + 2 ^ 12 * f.lane + 2 ^ 16 * f.action), w32 (timeNs f.launch), w32 (timeSec f.launch),
    w32 (timeSec f.launch / 2 ^ 32 + 2 ^ 16 * timeFrac f.launch)] ++ (List.range 8).map f.fire

/-- The 82 bytes of a timed frame (R380). -/
def State.frameBytes (s : State) (p : Nat) (f : TimedFrame) : List Byte :=
  let t := s.get F.ETH_ETYPE_ETYPE p
  let bs := addrBytes (s.reg R.ETH_DST_LO p) (s.reg R.ETH_DST_HI p) ++
    addrBytes (s.reg R.ETH_MAC_LO p) (s.reg R.ETH_MAC_HI p) ++
    [BitVec.ofNat 8 (t / 256), BitVec.ofNat 8 t] ++ wordsBytes f.words
  bs ++ wordBytes (fcs bs)

/-- Show a port's queue, and give its compare unit the launch time of the head. -/
def State.showEth (s : State) (p : Nat) : State :=
  let u := s.get F.ETH_STAT_UNIT p
  let t := s.put F.ETH_STAT_QUEUED (s.eth p).queue.length p
  if s.on F.ETH_STAT_LAUNCH_EN p then
    match (s.eth p).queue with
    | f :: _ => (t.putTime F.TK_CMP_NS_NS F.TK_CMP_S_LO_S F.TK_CMP_S_HI_S_HI f.launch u).putBit F.TK_CMP_S_HI_ARMED true u
    | [] => t.putBit F.TK_CMP_S_HI_ARMED false u
  else t

/-- The range of the launch's residue δ in ps (R379). -/
def State.deltaRange (s : State) (p : Nat) : Nat := if s.get F.ETH_CFG_SPEED p = 2 then 6400 else 16000

/-- Whether a port runs as CMD_ETH_CONFIG has set it: before the first one its lane sends code groups only, and discards what it
receives (R410). -/
def State.ethRuns (s : State) (p : Nat) : Bool :=
  s.on F.ETH_STAT_LINK_UP p && (s.eth p).configured && s.get F.ETH_CFG_SPEED p != 0

/-- One unit interval of a port's serialiser in ps (R376). -/
def State.unitInterval (s : State) (p : Nat) : Nat := if s.get F.ETH_CFG_SPEED p = 2 then 320 else 800

/-- What the resolution of a timestamp leaves open: less than one unit interval, in ps. (DESIGN CHOICE: notes/assumptions 207.) -/
def State.resolution (s : State) (p : Nat) : Int := (s.freeVal.toNat % s.unitInterval p : Nat)

/-- The corrected ingress timestamp of a frame that arrives now (R376). -/
def State.ingress (s : State) (p : Nat) : Int := s.nowPs - s.resolution p - signed 32 (s.get F.ETH_ASYM_RX_PS p)

/-- The corrected egress timestamp of a frame that leaves now (R376). -/
def State.egress (s : State) (p : Nat) : Int := s.nowPs - s.resolution p + signed 32 (s.get F.ETH_ASYM_TX_PS p)

/-- The wire time in ps of a PTP message the device sends, preamble and inter-frame gap included: 84 bytes, 92 for a Pdelay
message. (PRESUMED: notes/assumptions 208.) -/
def State.ptpTime (s : State) (p kind : Nat) : Nat := (if kind = 0 then 84 else 92) * 10 * s.unitInterval p

/-- Whether a PTP message may start: no timed frame is on the wire, and no queued L falls into its transmission (R379). -/
def State.ptpMay (s : State) (p kind : Nat) : Bool :=
  (s.eth p).onWire.isNone && (s.eth p).queue.all fun f => decide ((s.time.now : Int) + psUnits (s.ptpTime p kind) ≤ f.launch)

/-- A PTP message starts: its domain and its kind (0 Delay_Req, 1 Pdelay_Req, 2 Pdelay_Resp, 3 Pdelay_Resp_Follow_Up); a request
keeps its egress timestamp. -/
def State.ptpStart (s : State) (p : Nat) (m : Nat × Nat) : State :=
  let t := s.setEth p { s.eth p with ptpSent := (s.eth p).ptpSent ++ [m] }
  if m.2 < 2 then (t.setDom m.1 { t.dom m.1 with asked := some (t.egress p), peer := none }).drawn else t

/-- Start the PTP messages that wait, in order, as far as the launch queue allows. -/
def State.ptpFlush (s : State) (p : Nat) : Nat → State
  | 0 => s
  | n + 1 =>
    match (s.eth p).ptpWait with
    | [] => s
    | m :: rest =>
      if s.ptpMay p m.2 then (State.ptpStart (s.setEth p { s.eth p with ptpWait := rest }) p m).ptpFlush p n else s

/-- Give a port what waits for its wire. -/
def State.ptpGo (s : State) (p : Nat) : State := s.ptpFlush p (s.eth p).ptpWait.length

/-- Send a PTP message of a domain on its port. -/
def State.ptpSend (s : State) (d kind : Nat) : State :=
  let p := s.get F.TK_DOM_STAT_PORT d
  State.ptpGo (s.setEth p { s.eth p with ptpWait := (s.eth p).ptpWait ++ [(d, kind)] }) p

/-- Launch the head of a port's queue, if the whole nanosecond its compare unit holds has come (R383) and the wire is free;
`exact` where L has been reached just now, so that it leaves δ after L, a free value within R379's bound. A late frame that is sent is counted (R381).
(DESIGN CHOICE: notes/assumptions 138.) -/
def State.launchHead (s : State) (p : Nat) (exact : Bool) : State :=
  let x := s.eth p
  match x.onWire, x.queue with
  | none, f :: t =>
    if s.nowNs < f.launch / nsUnit then s
    else if !s.ethRuns p then
      (((s.setEth p { x with queue := t }).bump F.ETH_LAUNCH_CNT_NO_LAUNCH p).showEth p).ptpGo p
    else
      let d := psUnits (s.freeVal.toNat % s.deltaRange p : Nat)
      let stamp := if exact && !f.late then f.launch + d.toNat else (psUnits (s.egress p)).toNat
      let u := if f.late then s.bump F.ETH_LAUNCH_CNT_LATE_SENT p else s
      State.showEth ((u.setEth p { x with
        queue := t, onWire := some { f with stamp := stamp }, sent := x.sent ++ [s.frameBytes p f] }).drawn) p
  | _, _ => s

/-- Place a timed frame in its port's launch queue, or drop it (R378, R381): one that arrives in L's own cycle is launched as
its compare unit would. (DEDUCED: notes/assumptions 140.) -/
def State.queueFrame (s : State) (p : Nat) (f : TimedFrame) : State :=
  if !s.on F.ETH_STAT_LAUNCH_EN p then s.bump F.ETH_LAUNCH_CNT_NO_LAUNCH p
  else if f.late && s.on F.ETH_LATE_POLICY_DROP p then s.bump F.ETH_LAUNCH_CNT_LATE_DROP p
  else if 64 ≤ (s.eth p).queue.length then s.bump F.ETH_LAUNCH_CNT_QFULL p
  else
    let x := s.eth p
    let u := (s.setEth p { x with queue := insertBefore (fun g => decide (f.launch < g.launch)) f x.queue }).showEth p
    u.launchHead p (decide (s.time.now < f.launch + s.time.pace))

/-- The launch time of a bobbin's timed frame: the projection of the eject count less the frame advance; without a
projection the device time of the close match, and on time (R16, R26). -/
def State.launchTime (s : State) (chan advance : Nat) (eject : Int) : Option Nat :=
  (s.project chan eject).map fun t => t - advance * 1000 * nsUnit

/-- The TKI cycles of 1 ns that an island-13 cycle of a port spans at most: 125 MHz, or 312.5 MHz at 2.5GBASE-X. -/
def State.islandSpan (s : State) (p : Nat) : Nat := if s.get F.ETH_CFG_SPEED p = 2 then 4 else 8

/-- Whether a launch time was reached in an island-13 cycle before the present one: a frame that reaches the queue now is late
(R46, R381). How many TKI cycles of the present island-13 cycle have passed is a free value. (DESIGN CHOICE:
notes/assumptions 227.) -/
def State.passed (s : State) (p l : Nat) : Bool :=
  decide (l + (s.freeVal.toNat % s.islandSpan p + 1) * s.time.pace ≤ s.time.now)

/-- Build the timed frame of a bobbin at its close match (R378), with the lane's settings of its creation (R134).
(DEDUCED: notes/assumptions 175.) -/
def State.timedFrame (s : State) (id closed : Nat) : State :=
  let b := s.bob id
  let part := fun (f : Fld) => bitsOf b.valve f.lo f.width
  let n := part F.BOB_LANE_VALVE_COUNT
  let adv := bitsOf b.advance F.BOB_LANE_ADVANCE_ADVANCE.lo F.BOB_LANE_ADVANCE_ADVANCE.width
  if n = 0 then s
  else
    let l := s.launchTime b.enc adv b.eject
    let p := part F.BOB_LANE_VALVE_PORT
    let f : TimedFrame := {
      launch := l.getD closed, serial := b.serial, lane := b.lane, late := l.any (s.passed p)
      eject := b.eject, chan := b.enc, advance := adv, action := b.final, first := part F.BOB_LANE_VALVE_FIRST, count := n }
    s.drawn.queueFrame p f

/-- TIMED_FRAME_TX_DONE (R379, R382): the timestamp enters the queue, and a frame whose L has passed follows. -/
def execTimedFrameTxDone (port : Fin 2) (s : State) : Host.Outcome State Fault Refusal :=
  onDevice s fun s =>
    let p := port.val
    let x := s.eth p
    match x.onWire with
    | none => s
    | some f =>
      let t := s.setEth p { x with onWire := none }
      let u := if x.txts.length < 16 then
          (t.setEth p { x with onWire := none, txts := x.txts ++ [(f.serial % 2 ^ 16, f.late, f.stamp)] }).put
            F.ETH_TXTS_STAT_DEPTH (x.txts.length + 1) p
        else (t.bump F.ETH_TXTS_STAT_DROP p).putBit F.ETH_TXTS_STAT_OVF true p
      (u.launchHead p false).ptpGo p

/-- A read of ETH_TXTS_IDp: the oldest entry leaves the queue and its time is latched; the value read. -/
def State.readTxts (s : State) (p : Nat) : State × Nat :=
  let x := s.eth p
  match x.txts with
  | [] => (s, 0)
  | (i, late, t) :: rest =>
    let u := (s.setEth p { x with txts := rest }).put F.ETH_TXTS_STAT_DEPTH rest.length p
    (((u.putTime F.ETH_TXTS_NS_NS F.ETH_TXTS_S_LO_S F.ETH_TXTS_S_HI_S_HI t p).put F.ETH_TXTS_S_HI_FRAC (timeFrac t) p),
      i + 2 ^ 16 + 2 ^ 17 * bit late)

/-- ETH_TXTS_ID_READ (R382). -/
def execEthTxtsIdRead (port : Fin 2) (s : State) : Host.Outcome State Fault Refusal :=
  onDevice s fun s => (s.readTxts port.val).1

/-! ### Device time (R366, R367) -/

/-- A read of TK_TIME_NS latches the seconds. -/
def State.latchTime (s : State) : State :=
  ((s.put F.TK_TIME_S_LO_S (timeSec s.time.now)).put F.TK_TIME_S_HI_S_HI (timeSec s.time.now / 2 ^ 32)).put
    F.TK_TIME_S_HI_FRAC (timeFrac s.time.now)

/-- TK_TIME_NS_READ (R367). -/
def execTkTimeNsRead (s : State) : Host.Outcome State Fault Refusal := onDevice s State.latchTime

/-- CMD_TIME_READ (R367). -/
def execCmdTimeRead (src : Source) (s : State) : Host.Outcome State Fault Refusal :=
  runCmd s src 0x0601 fun s _ => doneWith s (timeWords s.time.now)

/-! ### The servo (R370 to R374) -/

/-- Whether a domain is locked. -/
def State.lockedDom (s : State) (d : Nat) : Bool := s.on F.TK_DOM_STAT_LOCKED d

/-- Show the locks in TK_STAT. -/
def State.showLocks (s : State) : State :=
  (s.putBit F.TK_STAT_DOM0_LOCK (s.lockedDom 0)).putBit F.TK_STAT_DOM1_LOCK (s.lockedDom 1)

/-- The largest correction, in units of 10^-12 (TK_CTRL.SLEW in ppm, 1 to 200). -/
def State.slew (s : State) : Nat := max 1 (min 200 (s.get F.TK_CTRL_SLEW)) * 1000000

/-- A rate of 10^-12 units in units of 2^-48, to nearest. -/
def rateUnits (x : Int) : Int := (2 * x * 2 ^ 48 + 10 ^ 12) / (2 * 10 ^ 12)

/-- Set the rate of device time and show it. -/
def State.setRate (s : State) (r : Int) : State :=
  let t := { s with time := { s.time with rate := r } }
  (t.put F.TK_RATE_LO_RATE (unsigned 48 r)).put F.TK_RATE_HI_RATE (unsigned 48 r / 2 ^ 32)

/-- With AUTO, select the other domain while the selected one is not locked and the other is (R373). -/
def State.autoSelect (s : State) : State :=
  let d := s.get F.TK_STAT_SEL
  if s.on F.TK_CTRL_AUTO && !s.lockedDom d && s.lockedDom (1 - d) then s.put F.TK_STAT_SEL (1 - d) else s

/-- The correction while an offset remains: the law belongs to the firmware, so the magnitude is a free value within
SLEW, against the offset (R372). (DESIGN CHOICE: notes/assumptions 139.) -/
def State.correction (s : State) (offset : Int) : Int :=
  let m : Int := (s.freeVal.toNat % (s.slew + 1) : Nat)
  if offset = 0 then 0 else if 0 < offset then -m else m

/-- The source that device time follows: the selected domain while it is locked; on a STANDBY device with no locked domain
the ACTIVE device's time, kept as domain 2 (R371, R408). -/
def State.followedDom (s : State) : Option Nat :=
  let d := s.get F.TK_STAT_SEL
  if s.lockedDom d then some d
  else if s.role == 2 && !s.lockedDom 0 && !s.lockedDom 1 && (s.dom 2).modelled then some 2
  else none

/-- Device time follows the selected domain while it is locked; otherwise it holds its rate (R371, R372, R374). -/
def State.follow (s : State) : State :=
  match s.followedDom with
  | some d =>
    let x := s.dom d
    let c := s.correction x.offset
    let t := { s with time := { s.time with followed := true } }.drawn
    (((t.setRate (rateUnits (x.rate + c))).putBit F.TK_STAT_FOLLOWING true).putBit F.TK_STAT_SLEWING (c != 0)).putBit
      F.TK_HOLDOVER_ACTIVE false
  | none =>
    let t := (s.putBit F.TK_STAT_FOLLOWING false).putBit F.TK_STAT_SLEWING false
    if s.time.followed && !s.on F.TK_HOLDOVER_ACTIVE then
      State.putBit ({ t with time := { t.time with holdFrom := t.time.uptime } }.put F.TK_HOLDOVER_MS 0)
        F.TK_HOLDOVER_ACTIVE true
    else t

/-- Selection, then the rate. -/
def State.servo (s : State) : State := s.showLocks.autoSelect.follow

/-- The mirrored counts' arrival times on a stepped time scale. -/
def Mirror.shift (m : Mirror) (d : Int) : Mirror :=
  { m with hist := m.hist.map fun e => (e.1, ((e.2 : Int) + d).toNat) }

/-- The launch times of a port's queue on a stepped time scale: recomputed from the counts where they have a projection. -/
def State.restamp (s : State) (p : Nat) (d : Int) : State :=
  let x := s.eth p
  let f := fun (g : TimedFrame) =>
    { g with launch := (s.launchTime g.chan g.advance g.eject).getD ((g.launch : Int) + d).toNat }
  let q := (x.queue.map f).foldl (fun a g => insertBefore (fun h => decide (g.launch < h.launch)) g a) []
  (s.setEth p { x with queue := q }).showEth p

/-- The compare time of a unit, in ns. -/
def State.compareTime (s : State) (u : Nat) : Nat :=
  s.get F.TK_CMP_NS_NS u + 1000000000 * (s.get F.TK_CMP_S_LO_S u + 2 ^ 32 * s.get F.TK_CMP_S_HI_S_HI u)

/-- Show a domain's model. -/
def State.showDom (s : State) (d : Nat) : State :=
  let x := s.dom d
  (s.put F.TK_DOM_OFFSET_OFFSET (unsigned 32 (sat32 (x.offset / 1000))) d).put F.TK_DOM_RATE_RATE
    (unsigned 32 (sat32 x.rate)) d

/-- Device time behind the value at which the TIME source has fired: it may fire again (R433). -/
def State.snapTimeBack (s : State) : State :=
  if s.nowNs < s.compareTime (s.get F.SNAP_CTRL_UNIT) then { s with snap := { s.snap with timeRearm := false } } else s

/-- The compare unit of the TIME source fires: disarmed unless REARM is set, which waits for a step back below the value. -/
def State.fireSnapTime (s : State) (u : Nat) : State :=
  if !s.on F.SNAP_STAT_TIME_ARMED || s.snap.timeRearm then s
  else
    let t := if s.on F.SNAP_CTRL_REARM then { s with snap := { s.snap with timeRearm := true } }
      else (s.putBit F.SNAP_STAT_TIME_ARMED false).putBit F.TK_CMP_S_HI_ARMED false u
    t.snapIf 0

/-- The TIME source fires in the cycle of a step that passes its value (R383). -/
def State.snapStep (s : State) : State :=
  let u := s.get F.SNAP_CTRL_UNIT
  if s.owner (13 + u) == ownSnapshot && s.on F.TK_CMP_S_HI_ARMED u && decide (s.compareTime u ≤ s.nowNs) then s.fireSnapTime u else s

/-- A domain's offset, and the stamps of its exchanges in progress, on a stepped time scale. -/
def Domain.shift (x : Domain) (offset : Int) : Domain :=
  { x with
    offset := x.offset - offset
    syncSeq := x.syncSeq.map fun e => (e.1, e.2.1 - offset, e.2.2)
    sync := x.sync.map fun e => (e.1, e.2 - offset)
    asked := x.asked.map (· - offset)
    peer := x.peer.map fun e => (e.1, e.2 - offset) }

/-- The index edges that wait for their pair, and the partner's time, on a stepped time scale. -/
def Twin.shift (x : Twin) (ns : Int) : Twin :=
  let move := fun (e : Nat × Int × Nat) => (e.1, e.2.1, ((e.2.2 : Int) + ns).toNat)
  { x with peerTime := x.peerTime - ns, index := x.index.map move, peerIndex := x.peerIndex.map move }

/-- Step device time once by the negative of an offset in ps (R371, R383). (DEDUCED: notes/assumptions 145.) -/
def State.stepTime (s : State) (offset : Int) : State :=
  let d := -psUnits offset
  let n := unsigned 48 (-offset / 1000)
  let moved := fun (e : Nat × Domain) => (e.1, e.2.shift offset)
  let t := { s with
    time := { s.time with now := ((s.time.now : Int) + d).toNat, doms := s.time.doms.map moved }
    twin := s.twin.shift (-offset / 1000)
    field := { s.field with mirror := s.field.mirror.map fun (e : Nat × Mirror) => (e.1, e.2.shift d) } }
  let u := ((t.put F.TK_STEP_LO_STEP n).put F.TK_STEP_HI_STEP (n / 2 ^ 32)).snapTimeBack
  ((((u.restamp 0 d).restamp 1 d).retriggerAll.showDom 0).showDom 1).snapStep

/-- Whether the time-step seal is set; a split seal counts as set (R315). -/
def State.sealed (s : State) : Bool := s.on F.TK_STAT_SEALED || s.splitWord 2

/-- A domain has locked: the first time the selected one does, which device time then follows, the seal is set and device time
may step (R371); a domain that AUTO selects because it has locked steps nothing (R373). -/
def State.lockDom (s : State) (d : Nat) : State :=
  let t := ((s.putBit F.TK_DOM_STAT_LOCKED true d).putBit F.TK_DOM_STAT_LOST false d).showLocks
  let u := if t.get F.TK_STAT_SEL = d ∧ t.sealed = false then
      let v := (t.putBit F.TK_STAT_SEALED true).stored 2
      if t.on F.TK_DOM_STAT_STEP_MODE d then v else v.stepTime (t.dom d).offset
    else t
  u.servo

/-- A domain is lost (R370). -/
def State.loseDom (s : State) (d : Nat) : State :=
  let t := if s.lockedDom d then s.bump F.PTP_CNT_LOCK_LOSS d else s
  State.servo (((t.setDom d { t.dom d with inside := 0 }).putBit F.TK_DOM_STAT_LOCKED false d).putBit
    F.TK_DOM_STAT_LOST true d)

/-- The domain time that a model predicts for an uptime, in ps. -/
def Domain.predict (x : Domain) (uptime : Nat) : Int :=
  let ps : Int := ((uptime : Int) - x.since) * 1000
  x.base + ps + ps * x.rate / 10 ^ 12

/-- One offset measurement: the domain time at a Sync's ingress, the uptime of that, and the rate that the firmware's model
takes (R370). (DEDUCED: notes/assumptions 143.) -/
def State.measure (s : State) (d : Nat) (ingress : Int) (at' : Nat) (origin rate : Int) : State :=
  let x := s.dom d
  let now := origin + x.delay
  let inWindow := x.modelled && decide ((now - x.predict at').natAbs ≤ s.get F.TK_CTRL_LOCK_NS * 1000)
  let n := if inWindow then x.inside + 1 else 0
  let y := { x with inside := n, modelled := true, since := at', base := now, rate := rate,
                    offset := ingress - now, sync := some (origin, ingress) }
  let t := (s.setDom d y).showDom d
  if 16 ≤ n ∧ s.lockedDom d = false then (t.lockDom d).showDom d else t.servo

/-! ### PTP messages (R368, R369) -/

/-- The port of a domain. -/
def State.domPort (s : State) (d : Nat) : Nat := s.get F.TK_DOM_STAT_PORT d

/-- Whether a port's lane runs: off by CMD_ETH_CONFIG, it has no link. -/
def State.laneOn (s : State) (p : Nat) : Bool := s.boot.ethLanes && (!(s.eth p).configured || s.get F.ETH_CFG_SPEED p != 0)

/-- Whether frames reach a port: its lane runs and has a link. -/
def State.hears (s : State) (p : Nat) : Bool := s.laneOn p && s.on F.ETH_STAT_LINK_UP p

/-- Whether a port takes the frames it receives: firmware runs and CMD_ETH_CONFIG has set the port (R410). -/
def State.takes (s : State) (p : Nat) : Bool := s.on F.HOST_STATUS_FW_RUN && (s.eth p).configured

/-- A PTP message of a domain: taken while the domain is tracked on a port that takes frames, otherwise discarded and counted;
a port that is off or has no link receives none. -/
def ptpTake (s : State) (d : Nat) (f : State → State) : State :=
  if !s.hears (s.domPort d) then s
  else if s.takes (s.domPort d) && s.on F.TK_DOM_STAT_EN d then f s
  else s.bump F.ETH_CNT_RX_DISCARD (s.domPort d)

/-- Whether a list of numbers comes before another of its length, the first difference deciding. -/
def lexLess : List Nat → List Nat → Bool
  | a :: as, b :: bs => decide (a < b) || (a == b && lexLess as bs)
  | _, _ => false

/-- The clock and port that send an Announce. -/
def sender (a : Announce) : Nat × Nat := (a.source, a.port)

/-- The data set comparison of the default best master clock algorithm, for a clock with one port (R368): by the grandmasters'
qualities, and for one grandmaster by the path. (PRESUMED: notes/assumptions 226.) -/
def betterMaster (a b : Announce) : Bool :=
  if a.gm = b.gm then lexLess [a.steps, a.source, a.port] [b.steps, b.source, b.port]
  else lexLess [a.prio1, a.cls, a.accuracy, a.variance, a.prio2, a.gm] [b.prio1, b.cls, b.accuracy, b.variance, b.prio2, b.gm]

/-- Whether a foreign master has been heard within the window of four Announce intervals. -/
def Master.fresh (m : Master) (uptime : Nat) : Bool := decide (uptime - m.heard ≤ 4 * m.ann.interval)

/-- A domain keeps an Announce: its sender qualifies with the second one within the window. -/
def Domain.hear (x : Domain) (a : Announce) (uptime : Nat) : Domain :=
  let known := x.foreign.any fun m => decide (sender m.ann = sender a) && m.fresh uptime
  { x with foreign := { ann := a, heard := uptime, good := known || decide (x.parent = some (sender a)) } ::
      x.foreign.filter fun m => decide (sender m.ann ≠ sender a) }

/-- The best of the masters that qualify, and of the present one. -/
def Domain.best (x : Domain) (uptime : Nat) : Option Announce :=
  let ms := x.foreign.filter fun m => (m.good && m.fresh uptime) || decide (x.parent = some (sender m.ann))
  ms.foldl (fun best m => match best with
    | none => some m.ann
    | some b => some (if betterMaster m.ann b then m.ann else b)) none

/-- The state decision of a domain: the best master is its transmitter, and a change of grandmaster resets the model (R368,
R370). -/
def State.chooseMaster (s : State) (d : Nat) : State :=
  let x := s.dom d
  match x.best s.time.uptime with
  | none => s
  | some a =>
    if x.gm.all (· == a.gm) then s.setDom d { x with gm := some a.gm, parent := some (sender a) }
    else
      let y : Domain := { gm := some a.gm, parent := some (sender a), foreign := x.foreign, delay := x.delay }
      State.servo (((s.setDom d y).bump F.PTP_CNT_GM_CHANGE d).putBit F.TK_DOM_STAT_LOCKED false d)

/-- PTP_ANNOUNCE_RX (R368 to R370): the Announce is kept and the best master clock algorithm chooses; one that has come 255
steps or more does not qualify. -/
def execPtpAnnounceRx (dom : Fin 2) (ann : Announce) (s : State) : Host.Outcome State Fault Refusal :=
  onDevice s fun s => ptpTake s dom.val fun s =>
    if 255 ≤ ann.steps then s
    else (s.setDom dom.val ((s.dom dom.val).hear ann s.time.uptime)).chooseMaster dom.val

/-- PTP_SYNC_RX (R369, R370): a one-step Sync measures the offset; a two-step one awaits its Follow_Up.
(DESIGN CHOICE: notes/assumptions 144.) -/
def execPtpSyncRx (dom : Fin 2) (seq : Nat) (twoStep : Bool) (origin rate : Int) (s : State) :
    Host.Outcome State Fault Refusal :=
  onDevice s fun s => ptpTake s dom.val fun s =>
    let i := s.ingress (s.domPort dom.val)
    if twoStep then (s.setDom dom.val { s.dom dom.val with syncSeq := some (seq, i, s.time.uptime) }).drawn
    else s.drawn.measure dom.val i s.time.uptime origin rate

/-- PTP_FOLLOW_UP_RX (R369). -/
def execPtpFollowUpRx (dom : Fin 2) (seq : Nat) (origin rate : Int) (s : State) : Host.Outcome State Fault Refusal :=
  onDevice s fun s => ptpTake s dom.val fun s =>
    match (s.dom dom.val).syncSeq with
    | some (n, i, up) =>
      if n = seq then (s.setDom dom.val { s.dom dom.val with syncSeq := none }).measure dom.val i up origin rate else s
    | none => s

/-- PTP_DELAY_RESP_RX (R369): the path delay from the last Sync and the last Delay_Req. -/
def execPtpDelayRespRx (dom : Fin 2) (received : Int) (s : State) : Host.Outcome State Fault Refusal :=
  onDevice s fun s => ptpTake s dom.val fun s =>
    let x := s.dom dom.val
    match x.sync, x.asked with
    | some (t1, t2), some t3 =>
      if s.on F.TK_DOM_STAT_P2P dom.val then s.bump F.ETH_CNT_RX_DISCARD (s.domPort dom.val)
      else s.setDom dom.val { x with delay := ((t2 - t1) + (received - t3)) / 2, asked := none }
    | _, _ => s

/-- PTP_PDELAY_REQ_RX (R368, R369): answered in one step or in two. -/
def execPtpPdelayReqRx (dom : Fin 2) (s : State) : Host.Outcome State Fault Refusal :=
  onDevice s fun s => ptpTake s dom.val fun s =>
    if !s.on F.TK_DOM_STAT_P2P dom.val then s.bump F.ETH_CNT_RX_DISCARD (s.domPort dom.val)
    else
      let t := s.ptpSend dom.val 2
      if s.on F.TK_DOM_STAT_ONE_STEP_RESP dom.val then t else t.ptpSend dom.val 3

/-- PTP_PDELAY_RESP_RX (R369): a one-step response carries the turnaround, a two-step one the time of receipt. -/
def execPtpPdelayRespRx (dom : Fin 2) (twoStep : Bool) (value : Int) (s : State) : Host.Outcome State Fault Refusal :=
  onDevice s fun s => ptpTake s dom.val fun s =>
    let x := s.dom dom.val
    let t4 := s.ingress (s.domPort dom.val)
    match x.asked with
    | none => s
    | some t1 =>
      if !s.on F.TK_DOM_STAT_P2P dom.val then s.bump F.ETH_CNT_RX_DISCARD (s.domPort dom.val)
      else if twoStep then (s.setDom dom.val { x with peer := some (value, t4) }).drawn
      else (s.setDom dom.val { x with delay := ((t4 - t1) - value) / 2, asked := none }).drawn

/-- PTP_PDELAY_RESP_FOLLOW_UP_RX (R369). -/
def execPtpPdelayRespFollowUpRx (dom : Fin 2) (origin : Int) (s : State) : Host.Outcome State Fault Refusal :=
  onDevice s fun s => ptpTake s dom.val fun s =>
    let x := s.dom dom.val
    match x.asked, x.peer with
    | some t1, some (t2, t4) =>
      s.setDom dom.val { x with delay := ((t4 - t1) - (origin - t2)) / 2, asked := none, peer := none }
    | _, _ => s

/-- PTP_DELAY_REQ_SEND (R369): on a running link of a tracked domain. -/
def execPtpDelayReqSend (dom : Fin 2) (s : State) : Host.Outcome State Fault Refusal :=
  onDevice s fun s =>
    let d := dom.val
    if s.on F.HOST_STATUS_FW_RUN && s.on F.TK_DOM_STAT_EN d && s.ethRuns (s.domPort d) then
      s.ptpSend d (if s.on F.TK_DOM_STAT_P2P d then 1 else 0)
    else s

/-- ETH_RX_OTHER (R369, R410): discarded and counted, Management and Signaling messages of a port that takes frames in
PTP_CNT; a bad frame check sequence counts as well. (DEDUCED: notes/assumptions 228.) -/
def execEthRxOther (port : Fin 2) (kind : EthOther) (s : State) : Host.Outcome State Fault Refusal :=
  onDevice s fun s =>
    let p := port.val
    if !s.hears p then s
    else
      match kind with
      | .badFcs => (s.bump F.ETH_CNT_RX_FCS p).bump F.ETH_CNT_RX_DISCARD p
      | .management d => if s.takes p then s.bump F.PTP_CNT_BAD_MSG d.val else s.bump F.ETH_CNT_RX_DISCARD p
      | .other => s.bump F.ETH_CNT_RX_DISCARD p

/-- A domain without its transmitter, which sends no Announce any more. -/
def Domain.drop (x : Domain) : Domain :=
  { x with parent := none, foreign := x.foreign.filter fun m => decide (x.parent ≠ some (sender m.ann)) }

/-- ANNOUNCE_TMO (R368, R370): a tracked domain is lost, and the best of the other masters that qualify is chosen. -/
def execAnnounceTmo (dom : Fin 2) (s : State) : Host.Outcome State Fault Refusal :=
  onDevice s fun s =>
    let d := dom.val
    if s.on F.TK_DOM_STAT_EN d then
      let t := (s.bump F.PTP_CNT_ANNOUNCE_TMO d).loseDom d
      (t.setDom d (t.dom d).drop).chooseMaster d
    else s

/-- SYNC_TMO (R370): 16 Sync intervals without a Sync; a tracked domain is lost. -/
def execSyncTmo (dom : Fin 2) (s : State) : Host.Outcome State Fault Refusal :=
  onDevice s fun s => if s.on F.TK_DOM_STAT_EN dom.val then s.loseDom dom.val else s

/-- CMD_TIME_DOMAIN_SET (R368). -/
def execCmdTimeDomainSet (src : Source) (s : State) : Host.Outcome State Fault Refusal :=
  runCmd s src 0x0602 fun s c =>
    let d := c.target
    if 2 ≤ c.p 1 ∨ 256 ≤ c.p 2 ∨ 2 ≤ c.p 3 then refuse s .badParam
    else
      let w := bitsOf (c.p 4) 0 1 + 8 * c.p 1 + 16 * c.p 3 + 32 * bitsOf (c.p 4) 1 1 + 64 * bitsOf (c.p 4) 2 1 +
        256 * c.p 2
      doneWith (((s.setReg R.TK_DOM_STAT w d).setDom d {}).showDom d).servo

/-- CMD_TIME_SELECT (R373). -/
def execCmdTimeSelect (src : Source) (s : State) : Host.Outcome State Fault Refusal :=
  runCmd s src 0x0603 fun s c =>
    if s.lockedDom c.target then doneWith (s.put F.TK_STAT_SEL c.target).servo else refuse s .notReady

/-! ### Ports (R375, R377) -/

/-- A port's link state changes; before its lane starts (R410), and while the port is off, it does not come up. -/
def State.linkChange (s : State) (p : Nat) (up : Bool) : State :=
  if (up && !s.laneOn p) || s.on F.ETH_STAT_LINK_UP p == up then s
  else
    let t := (s.putBit F.ETH_STAT_LINK_UP up p).raise F.HOST_IBI_CAUSE_LINK
    if up then t else t.bump F.ETH_CNT_LINK_DOWN p

/-- ETH_LINK_CHANGE (R375). -/
def execEthLinkChange (port : Fin 2) (up : Bool) (s : State) : Host.Outcome State Fault Refusal :=
  onDevice s fun s => s.linkChange port.val up

/-- CMD_ETH_CONFIG (R375): a change of speed takes the link down, and so does the first command that turns the port off (R410).
(DEDUCED: notes/assumptions 141.) -/
def execCmdEthConfig (src : Source) (s : State) : Host.Outcome State Fault Refusal :=
  runCmd s src 0x0604 fun s c =>
    let p := c.target
    let new := s.get F.ETH_CFG_SPEED p != c.p 1
    if 3 ≤ c.p 1 ∨ 2 ≤ c.p 4 then refuse s .badParam
    else if new && s.on F.ETH_STAT_LAUNCH_EN p then refuse s .busy
    else
      let a := if new || c.p 1 == 0 then s.linkChange p false else s
      let t := a.setEth p { a.eth p with configured := true }
      doneWith ((((t.put F.ETH_CFG_SPEED (c.p 1) p).put F.ETH_ASYM_RX_PS (c.p 2) p).put F.ETH_ASYM_TX_PS (c.p 3) p).put
        F.ETH_LATE_POLICY_DROP (c.p 4) p)

/-- Give back a port's compare unit. -/
def State.dropUnit (s : State) (p : Nat) : State :=
  let u := s.get F.ETH_STAT_UNIT p
  if s.on F.ETH_STAT_LAUNCH_EN p then
    (((s.own (13 + u) ownNone 0).putBit F.TK_CMP_S_HI_ARMED false u).putBit F.ETH_STAT_LAUNCH_EN false p).put
      F.ETH_STAT_UNIT 0 p
  else s

/-- CMD_LAUNCH_ENABLE (R51, R377): another unit takes the place of the port's, which frames still queued do not allow.
(DEDUCED: notes/assumptions 142.) -/
def execCmdLaunchEnable (src : Source) (s : State) : Host.Outcome State Fault Refusal :=
  runCmd s src 0x0605 fun s c =>
    let p := c.target
    if 32 ≤ c.p 1 then refuse s .badParam
    else if !s.on F.ETH_STAT_LINK_UP p then refuse s .linkDown
    else if s.heldByOther (13 + c.p 1) ownLaunch p then refuse s .resourceHeld
    else if s.on F.ETH_STAT_LAUNCH_EN p && s.get F.ETH_STAT_UNIT p != c.p 1 && !(s.eth p).queue.isEmpty then refuse s .busy
    else
      let t := (s.dropUnit p).own (13 + c.p 1) ownLaunch p
      doneWith (((t.putBit F.ETH_STAT_LAUNCH_EN true p).put F.ETH_STAT_UNIT (c.p 1) p).showEth p)

/-- CMD_LAUNCH_DISABLE (R377). -/
def execCmdLaunchDisable (src : Source) (s : State) : Host.Outcome State Fault Refusal :=
  runCmd s src 0x0606 fun s c =>
    if !(s.eth c.target).queue.isEmpty then refuse s .busy else doneWith (s.dropUnit c.target)

end Sys2Proof.Machine
end

