-- ==== Sys2Proof/Machine/FieldLink.lean ====
section
/-! DEFINITION. The field link (chapters 01 and 15): frames in both directions, link state, the settings the device sends,
mirrored counts and velocities. -/

namespace Sys2Proof.Machine

/-- A reset of the device falls due with a cause (R409). -/
def State.requestReset (s : State) (cause : Nat) : State :=
  if s.boot.resetDue.isSome then s else { s with boot := { s.boot with resetDue := some cause } }

/-! ### Settings (R342, R345, R411) -/

/-- One setting as a CFG message. -/
def State.cfgOf (s : State) (r : Reg) (i width : Nat) : Msg := .cfg (cfgIndex r i) (s.reg r i % 2 ^ width)

/-- Every field-die setting, in register order. -/
def State.allSettings (s : State) : List Msg :=
  [s.cfgOf R.FIELD_PULSE_MAX 0 32, s.cfgOf R.FIELD_ENTRY_TMO 0 32, s.cfgOf R.FIELD_SAFE_VALUES 0 32,
    s.cfgOf R.FIELD_TWIN_GATE 0 1, s.cfgOf R.FIELD_FO_FUNC 0 32, s.cfgOf R.FIELD_PROBE_CFG 0 32] ++
  ((List.range 16).map fun i => s.cfgOf R.FIELD_FI_CFG i 17) ++
  ((List.range 2).flatMap fun c => [s.cfgOf R.FIELD_ENC_CFG c 32, s.cfgOf R.FIELD_ENC_ZCHECK c 32]) ++
  (List.range 8).flatMap fun i => [s.cfgOf R.FIELD_FO_TRIG_PERIOD i 32, s.cfgOf R.FIELD_FO_TRIG_WIDTH i 32]

/-- Send every setting that is due: while the link is up and numbered, and firmware runs; after the device's own reset
FIELD_TABLE_CLEAR goes first. -/
def State.sendAll (s : State) : State :=
  let d := s.field
  if d.allDue && s.on F.FIELD_LINK_STAT_UP && s.on F.HOST_STATUS_FW_RUN && !d.link.resync then
    let clear := if d.clearDue then [Msg.cfg clearIndex 1] else []
    State.showPending { s with field := { d with
      allDue := false, clearDue := false, allSent := true
      link := { d.link with queue := clear ++ s.allSettings ++ d.link.queue } } }
  else s

/-! ### Link state (R332, R339) -/

/-- Both directions are up. -/
def State.fieldUp (s : State) : Bool := s.field.link.up && s.die.powered && s.die.link.up

/-- The link has come up: SYNC follows, STATUS is awaited. -/
def State.fieldRise (s : State) : State :=
  State.sendAll ({ s with
    die := s.die.snapshot
    field := { s.field with seen := false, allSent := false } }.putBit F.FIELD_LINK_STAT_UP true)

/-- The link has gone down: no mirrored count, no velocity. -/
def State.fieldFall (s : State) : State :=
  let t := { s with field := { s.field with mirror := [], seen := false } }
  State.retriggerAll (((((t.putBit F.FIELD_LINK_STAT_UP false).putBit F.FIELD_LINK_STAT_RUN false).putBit
    F.FIELD_LINK_STAT_COUNT_VALID false).put F.TK_VEL_VEL 0 0).put F.TK_VEL_VEL 0 1)

/-- Show a change of the link's state. -/
def State.showLink (s : State) : State :=
  if s.fieldUp = s.on F.FIELD_LINK_STAT_UP then s else if s.fieldUp then s.fieldRise else s.fieldFall

/-! ### Counts and velocity (R14, R15, R339) -/

/-- The value congruent to `low` modulo 2^bits that lies nearest a count. -/
def rebuild (prev : Int) (bits low : Nat) : Int :=
  let m : Int := (2 ^ bits : Nat)
  let d := ((low : Int) - prev) % m
  wrap48 (prev + (if m < 2 * d then d - m else d))

/-- One millisecond of device time. -/
def msUnits : Nat := 1000000 * nsUnit

/-- The velocity estimate after a frame; it keeps its value while the window holds no other frame, and is 0 until counts
have been valid for 1.0 ms. -/
def Mirror.estimate (m : Mirror) (uptime : Nat) : Mirror :=
  match m.since with
  | none => { m with vNum := 0, vDen := 1 }
  | some u =>
    if uptime < u + 1000000 then { m with vNum := 0, vDen := 1 }
    else
      match m.hist with
      | (c, t) :: rest =>
        match (rest.find? fun e => decide (64 ≤ (c - e.1).natAbs)).orElse fun _ => rest.getLast? with
        | some (d, t') => { m with vNum := c - d, vDen := max 1 (t - t') }
        | none => m
      | [] => m

/-- A frame's count enters the window. -/
def Mirror.pushed (m : Mirror) (count : Int) (now : Nat) : Mirror :=
  { m with count := count, hist := (count, now) :: m.hist.filter fun e => decide (now - e.2 ≤ msUnits) }

/-- A frame's count enters the window, and the velocity is recomputed. -/
def Mirror.push (m : Mirror) (count : Int) (now uptime : Nat) : Mirror := (m.pushed count now).estimate uptime

/-- The counts of the frames after a SYNC's part 1, oldest first, rebuilt from the count before (R339). -/
def rebuildAfter (prev : Int) : List (Int × Nat) → List (Int × Nat)
  | [] => []
  | (c, t) :: rest => (rebuild prev 12 (unsigned 12 c), t) :: rebuildAfter (rebuild prev 12 (unsigned 12 c)) rest

/-- A SYNC replaces the count of the frame that arrived at `arrived`, and those after it: the window restarts at that frame,
and the velocity keeps its value while the window holds no other (R15, R339). -/
def Mirror.replaced (m : Mirror) (count : Int) (arrived uptime : Nat) : Mirror :=
  let later := rebuildAfter count (m.hist.filter fun e => decide (arrived < e.2)).reverse
  let hist := later.reverse ++ [(count, arrived)]
  let n := { m with count := (hist.headD (count, arrived)).1, hist := hist }
  if later.isEmpty then n else n.estimate uptime

/-- The velocity in units of 1/16 cnt/s. (DEDUCED: notes/assumptions 134.) -/
def Mirror.vel (m : Mirror) : Int := m.vNum * 16 * 1000000000 * nsUnit / m.vDen

/-- Show a channel's mirrored count and velocity. -/
def State.showCount (s : State) (c : Nat) : State :=
  let m := s.mirrorOf c
  (s.putCount F.FIELD_ENC_COUNT_LO_COUNT F.FIELD_ENC_COUNT_HI_COUNT m.count c).put F.TK_VEL_VEL (unsigned 32 m.vel) c

/-- Whether a SYNC part 1 of a channel has been taken and not yet applied: its frame's count may be replaced (R339). -/
def State.syncWaits (s : State) (c : Nat) : Bool :=
  s.field.link.inbox.any fun t => match t.rep.what with | .sync d 1 _ => d == c | _ => false

/-- A channel's count of a frame, once its SYNC has arrived. While a SYNC waits that may replace the counts from its frame
onward, the velocity keeps its value (R15). -/
def State.takeCount12 (s : State) (c low : Nat) : State :=
  let m := s.mirrorOf c
  if m.synced then
    let n := rebuild m.count 12 low
    let k := if s.syncWaits c then m.pushed n s.time.now else m.push n s.time.now s.time.uptime
    (s.setMirror c k).showCount c
  else s

/-- Pitch rules that had no mirrored count take their first multiple (R127). -/
def State.startPitch (s : State) (r : Nat) : State :=
  let x := s.rule r
  if s.on F.BOB_RULE_CTRL_EN r && s.get F.BOB_RULE_CTRL_SOURCE r == 2 && x.next.isNone then
    s.setRule r { x with next := (s.count? (s.get F.BOB_RULE_CTRL_ENC r)).map fun k => nextMultiple k x.detail }
  else s

/-- The ENCODER snapshot source (R432, R433): fires when the count reaches its value moving forward. -/
def State.snapEncoder (s : State) : State :=
  match s.on F.SNAP_STAT_ENC_ARMED, s.count? (s.get F.SNAP_CTRL_ENC) with
  | true, some c =>
    if c < s.snap.encAt then { s with snap := { s.snap with encBelow := true } }
    else if s.snap.encBelow then
      let t := { s with snap := { s.snap with encBelow := false } }
      State.snapIf (if t.on F.SNAP_CTRL_REARM then t else t.putBit F.SNAP_STAT_ENC_ARMED false) 1
    else s
  | _, _ => s

/-- What follows new mirrored counts. -/
def State.countsTaken (s : State) : State :=
  (timesFrom State.startPitch 16 0 s).retriggerAll.snapEncoder

/-! ### Upstream frames (R333) -/

/-- What a tally of the field die counts on the device. -/
def tallyField (k : Nat) : Fld × Nat :=
  if k = 0 then (F.FIELD_EJECT_CNT_PULSE_CUT, 0)
  else if k = 1 then (F.FIELD_EJECT_CNT_TABLE_CORR, 0)
  else if k < 6 then (F.FIELD_FI_CFG_LOST, k - 2)
  else if k < 8 then (F.FIELD_ENC_ERR_ILLEGAL, k - 6)
  else if k < 10 then (F.FIELD_ENC_ERR_Z_DRIFT, k - 8)
  else (F.FIELD_ENC_ERR_SSI, k - 10)

/-- Add what the field die has counted since the last frame. -/
def State.takeTally (s : State) (t : Tbl Nat) : State :=
  let one := fun (u : State) (e : Nat × Nat) =>
    let old := tgetD s.field.tally e.1 0
    let f := tallyField e.1
    u.bumpBy f.1 (if old ≤ e.2 then e.2 - old else e.2) f.2
  let v := foldState one s t
  { v with field := { v.field with tally := t } }

/-- SAFE of a frame. -/
def State.takeSafe (s : State) (safe : Bool) : State :=
  let t := if safe && !s.on F.FIELD_LINK_STAT_SAFE then s.bump F.FIELD_LINK_CNT_SAFE else s
  t.putBit F.FIELD_LINK_STAT_SAFE safe

/-- The device's end of the link after a good frame of a direction that is up. -/
def State.upEnd (s : State) (l : LinkEnd Msg Taken) (f : UpFrame) : LinkEnd Msg Taken :=
  let taken := fun (r : Rep) => ({ rep := r, arrived := s.time.now, low := f.low, safe := f.safe } : Taken)
  let m := if l.resync then l else l.acked f.mack
  if f.resync then
    (if m.ignore = 0 then { m with inbox := m.inbox ++ [taken { what := .resync, time := s.time.now }] } else m)
  else
    match f.report with
    | some (k, r) => if m.takes k then { m with expect := (k + 1) % 16, inbox := m.inbox ++ [taken r] } else m
    | none => m

/-- The device checks a good upstream frame, which began at a bit offset. -/
def State.takeUp (s : State) (f : UpFrame) (k : Nat) : State :=
  let l := s.field.link.goodFrame k
  if !l.up then { s with field := { s.field with link := l } }
  else
    let t := State.showLink { s with field := { s.field with link := s.upEnd l f } }
    let u := (((t.takeSafe f.safe).put F.FIELD_FO_STAT_LEVEL f.level).put F.FIELD_TWIN_GATE_HELD f.held).takeTally f.tally
    State.showPending ((u.takeCount12 0 (f.low.getD 0 0)).takeCount12 1 (f.low.getD 1 0)).countsTaken

/-- A new ACTIVE device acknowledges the handover once its field die has taken the gate (R407). -/
def State.gateTaken (s : State) : State :=
  let isGate := fun (m : Msg) => match m with | .cfg k _ => k == cfgIndex R.FIELD_TWIN_GATE 0 | _ => false
  if s.twin.gateDue && !s.field.allDue && !s.field.outbox.any isGate then
    State.linkSend { s with twin := { s.twin with gateDue := false } } 0x2 0 [w32 2]
  else s

/-- FIELD_UP_FRAME_RX (R332, R333): the frame on the wire arrives, at a bit offset and with the bits that the line inverted, and the
field die sends its next. A slot without a frame is one without a good frame; a device in reset receives nothing. -/
def execFieldUpFrameRx (slot : Slot) (s : State) : Host.Outcome State Fault Refusal :=
  .next (State.composeUp (
    if s.boot.held then s
    else
      let bad : State := { s with field := { s.field with link := s.field.link.badFrame } }
      match s.die.wire with
      | none => bad
      | some f =>
        match (f.received s.time.now slot.errors).filter fun _ => s.field.link.finds slot.offset with
        | some g => (s.takeUp g slot.offset).gateTaken
        | none => bad.bump F.FIELD_LINK_CNT_CRC_ERR))

/-! ### Downstream frames (R334, R337, R342) -/

/-- Whether the device sets RUN. -/
def State.runBit (s : State) : Bool :=
  s.on F.FIELD_LINK_STAT_UP && s.on F.HOST_STATUS_FW_RUN && s.field.seen && !s.field.allDue &&
    !s.field.outbox.any fun m => match m with | .cfg _ _ => true | _ => false

/-- Whether amendment `a` goes before `b`: unsent before sent, unsent by close count and entry, sent by the longest ago. -/
def Amend.before (a b : Amend) : Bool :=
  match a.sent, b.sent with
  | none, none => decide (a.close < b.close) || (a.close == b.close && decide (a.entry < b.entry))
  | none, some _ => true
  | some _, none => false
  | some i, some j => decide (i < j)

/-- The amendment that the next frame carries. -/
def FieldDev.nextAmend (d : FieldDev) : Option Amend :=
  match d.amends with
  | [] => none
  | a :: t => some (t.foldl (fun x y => if y.before x then y else x) a)

/-- Note in which frame an amendment was sent. -/
def FieldDev.markSent (d : FieldDev) : FieldDev :=
  match d.nextAmend with
  | none => { d with frameNo := d.frameNo + 1 }
  | some a =>
    { d with
      frameNo := d.frameNo + 1
      amends := replaceFirst (fun x => x.entry == a.entry) (fun x => { x with sent := some d.frameNo }) d.amends }

/-- Put a frame on the wire. -/
def State.sendDown (s : State) (msg : Option (Nat × Msg)) (resync : Bool) (l : LinkEnd Msg Taken) : State :=
  let run := s.runBit && !resync
  let am := s.field.nextAmend.map fun a => (a.entry, a.action)
  let f : DownFrame := { msg := msg, resync := resync, run := run, rack := s.field.link.last, amend := am }
  let d := s.field.markSent
  State.putBit { s with field := { d with link := l, wire := some f } } F.FIELD_LINK_STAT_RUN run

/-- The device starts its next frame: none in reset or after a split (R315); messages only while the link is up. -/
def State.composeDown (s : State) : State :=
  let l := s.field.link
  if s.boot.held || s.isSplit then
    State.putBit { s with field := { s.field with wire := none } } F.FIELD_LINK_STAT_RUN false
  else if l.resync then s.sendDown none true l
  else if l.answer then s.sendDown none true { l with answer := false }
  else if s.on F.FIELD_LINK_STAT_UP then s.sendDown l.offer.1 false l.offer.2
  else s.sendDown none false l

/-- FIELD_DOWN_FRAME_RX (R332, R334): the frame on the wire arrives at the field die, at a bit offset and with the bits that the line
inverted, and the device sends its next. -/
def execFieldDownFrameRx (slot : Slot) (s : State) : Host.Outcome State Fault Refusal :=
  .next (State.composeDown (
    if !s.die.powered then s
    else
      let bad : State := { s with die := { s.die with runs := 0, link := s.die.link.badFrame } }
      match s.field.wire with
      | none => bad
      | some f =>
        match (f.received slot.errors).filter fun _ => s.die.link.finds slot.offset with
        | some g => (s.takeDown g slot.offset).showLink
        | none => bad))

/-- FIELD_LINK_DOWN (R332, R340, R464): a direction that has seen 3 frame slots without a good frame goes down; with the
downstream one the field die enters its safe state. -/
def execFieldLinkDown (up : Bool) (s : State) : Host.Outcome State Fault Refusal :=
  .next (
    if up then
      (if s.field.link.silent then State.showLink { s with field := { s.field with link := s.field.link.fall } } else s)
    else if s.die.powered && s.die.link.silent then
      State.showLink (State.enterSafe { s with die := { s.die with runs := 0, link := s.die.link.fall } } 1)
    else s)

/-- FIELD_RESEND (R337): an end that has sent 4 frames without progress sends again from the oldest item that is not
acknowledged. (DEDUCED: notes/assumptions 135.) -/
def execFieldResend (up : Bool) (s : State) : Host.Outcome State Fault Refusal :=
  .next (
    if up then
      (if s.die.link.stuck then
        State.bump { s with die := { s.die with link := s.die.link.goBack } } F.FIELD_LINK_CNT_RESEND
      else s)
    else
      (if s.field.link.stuck then
        State.bump { s with field := { s.field with link := s.field.link.goBack } } F.FIELD_LINK_CNT_RESEND
      else s))

end Sys2Proof.Machine
end

