-- ==== Sys2Proof/Machine/FieldReports.lean ====
section
/-! DEFINITION. What the device does with the field die's reports (chapters 01, 06 and 15): entries and their bobbins, probe
latches, counts, input levels, status and speed. -/

namespace Sys2Proof.Machine

/-- The oldest report taken and not yet applied. -/
def State.report? (s : State) : Option Taken := s.field.link.inbox.head?

/-- The state without that report. -/
def State.dropReport (s : State) : State :=
  { s with field := { s.field with link := { s.field.link with inbox := s.field.link.inbox.tail } } }

/-- Apply the oldest report, if it is the one the row names. -/
def onReport (s : State) (f : State → Taken → Option State) : Host.Outcome State Fault Refusal :=
  onDevice s fun s =>
    match s.report? with
    | none => s
    | some tk => (f s.dropReport tk).getD s

/-- The bobbin of an entry, unless the entry is orphaned or was never allocated. -/
def State.entryBob (s : State) (e : Nat) : Option Nat := (tget? s.field.table e).bind (·.bobbin)

/-- Drop the pending amendment of an entry. -/
def State.dropAmend (s : State) (e : Nat) : State :=
  { s with field := { s.field with amends := s.field.amends.filter (·.entry != e) } }

/-- After STANDBY to NONE the gate opens once no entry armed while STANDBY is left (R398). -/
def State.drainGate (s : State) : State :=
  if s.on F.TWIN_STAT_DRAINING && !s.field.table.any (fun e => e.2.standby) then
    (s.setField R.FIELD_TWIN_GATE 0).putBit F.TWIN_STAT_DRAINING false
  else s

/-- An entry becomes free (R363). -/
def State.freeDevEntry (s : State) (e : Nat) : State :=
  State.drainGate (State.showTable (State.dropAmend { s with field := { s.field with table := tdel s.field.table e } } e))

/-- The final action of a STANDBY device's own entry against the mirrored one (R401). -/
def State.finalDiff (s : State) (id : Nat) : State :=
  let b := s.bob id
  if s.role = 2 ∧ b.state = .armedFinal ∧ b.peerFinal.any (· != b.final) = true then s.bump F.TWIN_CNT_FINAL_DIFF else s

/-- A bobbin's final action is fixed at a device time: its age runs from then (R138), its timed frame goes out, its taps
close, its compute ends. -/
def State.finalise (s : State) (id final time : Nat) : State :=
  let t := s.setBob id { s.bob id with
    state := .armedFinal, final := final, since := s.time.uptime - (s.time.now - time) / nsUnit }
  (((t.finalDiff id).timedFrame id time).tapsClose id).endCompute id |>.mirror 3 [w32 id, w32 (final + 4)]

/-- Count an arm that came late (R18, R137). (DEDUCED: notes/assumptions 132.) -/
def State.armLate (s : State) : State := (s.bump F.BOB_CNT_ARM_LATE).tdc 1

/-- The ACK of a bobbin's entry. -/
def State.ackBob (s : State) (id : Nat) (closed : Bool) (arrived : Nat) : State :=
  let b := s.bob id
  if b.state ≠ .arming then s
  else if closed then ((s.armLate).bobRecord id arrived).finalise id b.provAct arrived
  else ((s.setBob id { b with state := .open }).judgeJob id).closeInput id

/-- FIELD_ACK_REPORT (R18, R135, R137). -/
def execFieldAckReport (s : State) : Host.Outcome State Fault Refusal :=
  onReport s fun s tk =>
    match tk.rep.what with
    | .ack e closed => some (match s.entryBob e with | some id => s.ackBob id closed tk.arrived | none => s)
    | _ => none

/-- FIELD_REFUSE_REPORT (R18, R137). -/
def execFieldRefuseReport (s : State) : Host.Outcome State Fault Refusal :=
  onReport s fun s tk =>
    match tk.rep.what with
    | .refuse e =>
      let t := s.freeDevEntry e
      some (match s.entryBob e with
        | some id => ((t.armLate).bobRecord id tk.arrived).retireBob id
        | none => t)
    | _ => none

/-- FIELD_ACCEPT_REPORT (R20, R25, R131, R137). -/
def execFieldAcceptReport (s : State) : Host.Outcome State Fault Refusal :=
  onReport s fun s tk =>
    match tk.rep.what with
    | .accept e =>
      let t := s.dropAmend e
      some (match s.entryBob e with
        | some id =>
          let b := t.bob id
          let u := (t.setBob id { b with amended := true, tested := true, state := .decided }).bobRecord id tk.rep.time
          (u.endCompute id).mirror 3 [w32 id, w32 (b.amendTo.getD b.provAct)]
        | none => t)
    | _ => none

/-- FIELD_REJECT_REPORT (R20, R338). -/
def execFieldRejectReport (s : State) : Host.Outcome State Fault Refusal :=
  onReport s fun s tk =>
    match tk.rep.what with
    | .reject e notArmed =>
      some ((s.dropAmend e).bump (if notArmed then F.FIELD_AMEND_LATE_NOT_ARMED else F.FIELD_AMEND_LATE_LATE))
    | _ => none

/-- Whether the incomplete policy of a port whose hole the bobbin overlaps keeps the provisional action (R93). -/
def State.incompleteHolds (s : State) (b : Bobbin) : Bool :=
  b.incomplete && (maskList 17 b.incPorts).any fun p => !s.on F.CAM_INCOMPLETE_POLICY_DECIDE p

/-- Whether another row of R30 than the first already keeps the provisional action: poison, a hole under the policy
provisional, a scale alarm under the policy provisional, or no job to decide. -/
def State.otherRow (s : State) (b : Bobbin) : Bool :=
  b.refusedJob || b.poison || s.incompleteHolds b || (b.alarm && s.get F.QUANT_SCALE_POLICY_POLICY b.partition == 2)

/-- Whether a close without an amendment is the timing-dependent choice of R30 and R297: the bobbin's compute was still
running, or its verdict was ready to amend and is rejected; no other row of R30 holds, and neither the exit from the safe
state (R343) nor a takeover (R404, R405) caused it. (DEDUCED: notes/assumptions 162.) -/
def State.lateClose (s : State) (id : Nat) (atExit : Bool) : Bool :=
  let b := s.bob id
  let held := s.role != 2 && (tget? s.twin.waiting id).any (·.amends)
  (if b.tested then b.amendTo.isSome || held else b.computing) && !s.otherRow b && !atExit && !b.taken && !b.stood

/-- FIELD_CLOSE_REPORT (R21, R25, R30, R137, R378). -/
def execFieldCloseReport (s : State) : Host.Outcome State Fault Refusal :=
  onReport s fun s tk =>
    match tk.rep.what with
    | .close e amended =>
      some (match s.entryBob e with
        | some id =>
          let b := s.bob id
          let final := if amended then b.amendTo.getD b.provAct else b.provAct
          let t := if b.state = .decided then s
            else (if s.lateClose id tk.rep.atExit then s.tdc 0 else s).bobRecord id tk.rep.time
          t.finalise id final tk.rep.time
        | none => s)
    | _ => none

/-- FIELD_EJECT_REPORT (R137, R343, R365): the entry is free; the bobbin is FIRED and FREE. -/
def execFieldEjectReport (s : State) : Host.Outcome State Fault Refusal :=
  onReport s fun s tk =>
    match tk.rep.what with
    | .eject e noPulse why =>
      let t := s.freeDevEntry e
      let u := if noPulse then t.bump (if why = 1 then F.FIELD_EJECT_CNT_MISSED else F.FIELD_EJECT_CNT_DISCARD) else t
      some (match s.entryBob e with
        | some id => (u.bobRecord id tk.arrived).retireBob id
        | none => u)
    | _ => none

/-! ### Probes (R127, R128, R348) -/

/-- The enabled probe rule of an input. -/
def State.probeRule (s : State) (i : Nat) : Option Nat :=
  (List.range 16).find? fun r =>
    s.on F.BOB_RULE_CTRL_EN r && s.get F.BOB_RULE_CTRL_SOURCE r == 0 && (s.rule r).detail == i

/-- A probe rule judges a latch by its hold (R128); one taken in a frame with SAFE set is a part without a bobbin (R129,
R341). -/
def State.probeEdge (s : State) (r : Nat) (c : Int) (safe : Bool) : State :=
  let x := s.rule r
  if x.lastC.any (fun l => x.hold != 0 && decide (c < l + x.hold)) then s.bump F.BOB_CNT_PROBE_HELD
  else
    let t := s.setRule r { x with lastC := some c }
    if safe then (if t.role = 2 then t else t.untracked) else t.partFound r c

/-- A latch reaches the rule that probes its input, if one does. -/
def State.latchTaken (s : State) (i enc low : Nat) (safe : Bool) : State :=
  match s.probeRule i, s.count? enc with
  | some r, some c => s.probeEdge r (rebuild c 24 low) safe
  | some _, none => if s.role = 2 then s else s.untracked
  | none, _ => s

/-- FIELD_LATCH_REPORT (R127, R128, R339, R341). -/
def execFieldLatchReport (s : State) : Host.Outcome State Fault Refusal :=
  onReport s fun s tk =>
    match tk.rep.what with
    | .latch i enc low => some (s.latchTaken i enc low tk.safe)
    | _ => none

/-! ### Counts, levels, status and speed -/

/-- Part 1 of a SYNC takes effect (R339): the count of the frame that carried it is the one that stands, or is replaced from
that frame onward. -/
def State.syncCount (s : State) (c : Nat) (snapshot : Int) (low arrived : Nat) : State :=
  let m := s.mirrorOf c
  let new := rebuild snapshot 12 low
  if m.synced then
    match m.hist.find? (·.2 == arrived) with
    | some (old, _) =>
      if old = new then
        (s.setMirror c (if s.syncWaits c then m else m.estimate s.time.uptime)).showCount c
      else ((s.setMirror c (m.replaced new arrived s.time.uptime)).showCount c).bump F.FIELD_LINK_CNT_SYNC_ERR
    | none => s
  else (s.setMirror c ({ m with synced := true }.replaced new arrived s.time.uptime)).showCount c

/-- COUNT_VALID rises once both channels' SYNC have arrived; the wait of R15 starts. -/
def State.countsValid (s : State) : State :=
  if s.on F.FIELD_LINK_STAT_COUNT_VALID || !(s.mirrorOf 0).synced || !(s.mirrorOf 1).synced then s
  else
    let f := fun (t : State) (c : Nat) => t.setMirror c { t.mirrorOf c with since := some t.time.uptime, hist := [] }
    State.countsTaken ((f (f s 0) 1).putBit F.FIELD_LINK_STAT_COUNT_VALID true)

/-- FIELD_SYNC_REPORT (R339). -/
def execFieldSyncReport (s : State) : Host.Outcome State Fault Refusal :=
  onReport s fun s tk =>
    match tk.rep.what with
    | .sync c part bits =>
      some (
        if !s.on F.FIELD_LINK_STAT_UP then s
        else if part = 0 then s.setMirror c { s.mirrorOf c with part0 := some bits }
        else
          match (s.mirrorOf c).part0 with
          | none => s
          | some lo => (s.syncCount c (signed 48 (lo + 2 ^ 24 * bits)) (tk.low.getD c 0) tk.arrived).countsValid)
    | _ => none

/-- FIELD_FI_STATE_REPORT (R336, R432). -/
def execFieldFiStateReport (s : State) : Host.Outcome State Fault Refusal :=
  onReport s fun s tk =>
    match tk.rep.what with
    | .fiState levels =>
      let i := s.get F.SNAP_CTRL_FI
      let old := bitAt (s.get F.FIELD_FI_STATE_STATE) i
      let new := bitAt levels i
      let t := s.put F.FIELD_FI_STATE_STATE levels
      some (if old != new && new == (s.get F.SNAP_CTRL_EDGE == 0) then t.snapIf 2 else t)
    | _ => none

/-- What POWERUP of a STATUS means (R342, R344): a field die that powered up again resets the device; after a link-up the
settings are sent anew. -/
def State.takePowerup (s : State) (powerup first : Bool) : State :=
  if !powerup then { s with field := { s.field with sawOff := true } }
  else if s.field.sawOff then s.requestReset 4
  else if first && !s.field.allSent then State.sendAll { s with field := { s.field with allDue := true } }
  else s

/-- FIELD_STATUS_REPORT (R336, R342, R344, R351, R354, R358). -/
def execFieldStatusReport (s : State) : Host.Outcome State Fault Refusal :=
  onReport s fun s tk =>
    match tk.rep.what with
    | .status faults stop powerup lines cause sets faultN =>
      let first := !s.field.seen
      let t := ((((((s.put F.FIELD_FO_STAT_FAULT faults).putBit F.FIELD_STOP_REQ stop).putBit F.FIELD_LINK_STAT_POWERUP
        powerup).put F.FIELD_LINK_STAT_SAFE_CAUSE cause).put F.FIELD_ENC_ERR_LINE_FAULT (lines % 2) 0).put
        F.FIELD_ENC_ERR_LINE_FAULT (lines / 2) 1)
      let u := (t.bumpBy F.FIELD_STOP_SETS sets).bumpBy F.FIELD_FO_STAT_FAULT_CNT faultN
      some (State.showPending (State.takePowerup { u with field := { u.field with seen := true } } powerup first))
    | _ => none

/-- FIELD_SPEED_REPORT (R336, R360): the report's units are 2 cnt/s. -/
def execFieldSpeedReport (s : State) : Host.Outcome State Fault Refusal :=
  onReport s fun s tk =>
    match tk.rep.what with
    | .speed c h => some (s.put F.FIELD_ENC_SPEED_SPEED (unsigned 32 (2 * h)) c)
    | _ => none

/-- FIELD_RESYNC_REPORT (R344, R465): numbering restarts, and the settings follow; a RESYNC that the device did not start,
after a STATUS without POWERUP, resets the device. -/
def execFieldResyncReport (s : State) : Host.Outcome State Fault Refusal :=
  onReport s fun s tk =>
    match tk.rep.what with
    | .resync =>
      if !s.field.link.resync && s.field.sawOff then some (s.requestReset 4)
      else some (State.showPending (State.sendAll { s with field := { s.field with
        allDue := true, seen := false, link := s.field.link.restart } }))
    | _ => none

end Sys2Proof.Machine
end

