-- ==== Sys2Proof/Machine/Finder.lean ====
section
/-! DEFINITION. The part finder (chapters 01 and 06): provisional actions, rules, lanes, class maps, pitch triggers, the
ageing of bobbins, and the commands over samples and bobbins. -/

namespace Sys2Proof.Machine

/-- Whether a word of 16 two-bit actions holds the reserved code (R27, R135). -/
def hasReserved (v : Nat) : Bool := (List.range 16).any fun i => bitsOf v (2 * i) 2 == 3

/-- CMD_PROV_TABLE_SET (R27, R29). -/
def execCmdProvTableSet (src : Source) (s : State) : Host.Outcome State Fault Refusal :=
  runCmd s src 0x0301 fun s c =>
    if hasReserved (c.p 1) then refuse s .badParam
    else
      let t := (s.setReg R.BOB_PROV_TABLE (c.p 1)).stored 6
      doneWith { t with boot := { t.boot with provWritten := true } }

/-- CMD_CLASS_MAP_SET (R135). -/
def execCmdClassMapSet (src : Source) (s : State) : Host.Outcome State Fault Refusal :=
  runCmd s src 0x0305 fun s c =>
    if hasReserved (c.p 1) then refuse s .badParam else doneWith ((s.setReg R.BOB_CLASS_MAP (c.p 1) c.target).stored (7 + c.target))

/-! ### Rules (R125, R126, R132) -/

/-- Whether the source's own parameter is in range. -/
def finderDetailOk (source d ports : Nat) : Bool :=
  if source = 0 then decide (d < 4)
  else if source = 1 then
    bitsOf d 5 3 == 0 && decide (bitsOf d 0 5 < 17) && decide (1 ≤ bitsOf d 16 16) && bitAt ports (bitsOf d 0 5)
  else decide (1 ≤ d) && decide (d < 2 ^ 24)

/-- Whether the parameters of CMD_FINDER_ENABLE are in range. -/
def finderOk (c : Cmd) : Bool :=
  let source := bitsOf (c.p 1) 0 2
  let ports := bitsOf (c.p 3) 8 17
  decide (source < 3) && bitsOf (c.p 1) 2 6 == 0 && decide (c.p 1 < 2 ^ 9) && (source == 0 || c.p 1 / 2 ^ 8 == 0) &&
    finderDetailOk source (c.p 2) ports && bitsOf (c.p 3) 1 7 == 0 && decide (c.p 3 < 2 ^ 25) && ports != 0 &&
    decide (1 ≤ c.p 5) && decide (c.p 5 < 2 ^ 16) && bitsOf (c.p 6) 4 4 == 0 && bitsOf (c.p 6) 12 4 == 0 &&
    decide (c.p 6 < 2 ^ 19)

/-- Whether a port can feed the rule: enabled, on the rule's encoder channel. -/
def State.feedOk (s : State) (ports enc p : Nat) : Bool :=
  !bitAt ports p || (s.on F.CAM_CTRL_EN p && s.get F.CAM_CTRL_ENC p == enc)

/-- Check 5 of R126. -/
def State.feedsOk (s : State) (c : Cmd) : Bool :=
  (List.range 17).all (s.feedOk (bitsOf (c.p 3) 8 17) (bitsOf (c.p 3) 0 1)) &&
    (bitsOf (c.p 1) 0 2 != 1 || (s.servedBy (bitsOf (c.p 2) 0 5)).isSome)

/-- The first multiple of a pitch rule: above the mirrored count, where the channel has one. -/
def State.firstPitch (s : State) (source enc pitch : Nat) : Option Int :=
  if source = 2 then (s.count? enc).map fun k => nextMultiple k pitch else none

/-- The word of BOB_RULE_CTRL for a rule that a command enables. -/
def ruleWord (c : Cmd) : Nat :=
  1 + 2 * bitsOf (c.p 1) 0 2 + 2 ^ 3 * bitsOf (c.p 3) 0 1 + 2 ^ 4 * bitsOf (c.p 6) 0 4 + 2 ^ 8 * bitsOf (c.p 6) 8 4 +
    2 ^ 12 * bitsOf (c.p 6) 16 3 + 2 ^ 15 * bitsOf (c.p 3) 8 17

/-- The probe input of a rule is taken, and its settings go to the field die (R348). -/
def State.takeProbe (s : State) (r : Nat) (c : Cmd) : State :=
  let i := bitsOf (c.p 2) 0 2
  let w := setBits (s.reg R.FIELD_PROBE_CFG) (4 * i) 3 (1 + 2 * bitsOf (c.p 3) 0 1 + 4 * bitsOf (c.p 1) 8 1)
  (s.own i ownProbe r).setField R.FIELD_PROBE_CFG w

/-- CMD_FINDER_ENABLE (R125, R126). -/
def execCmdFinderEnable (src : Source) (s : State) : Host.Outcome State Fault Refusal :=
  runCmd s src 0x0302 fun s c =>
    let r := c.target
    let source := bitsOf (c.p 1) 0 2
    if !finderOk c then refuse s .badParam
    else if s.on F.BOB_RULE_CTRL_EN r then refuse s .badState
    else if !s.boot.provWritten then refuse s .badState
    else if s.laneCfg F.BOB_LANE_CFG_SET (bitsOf (c.p 6) 0 4) = 0 then refuse s .badState
    else if !s.feedsOk c then refuse s .badState
    else if source = 0 ∧ s.heldByOther (bitsOf (c.p 2) 0 2) ownProbe r = true then refuse s .resourceHeld
    else
      let t := (s.setReg R.BOB_RULE_CTRL (ruleWord c) r).setRule r
        { detail := c.p 2, offset := signed 32 (c.p 4), wlen := c.p 5, hold := s.get F.BOB_RULE_AUX_HOLD r
          next := s.firstPitch source (bitsOf (c.p 3) 0 1) (c.p 2) }
      let u := if source = 0 then t.takeProbe r c else t
      doneWith u.showPorts

/-- The mirrored count has reached a pitch rule's next multiple, which triggers once. -/
def State.pitchStep (s : State) (r : Nat) : State :=
  let x := s.rule r
  match x.next, s.count? (s.get F.BOB_RULE_CTRL_ENC r) with
  | some m, some k =>
    if s.on F.BOB_RULE_CTRL_EN r && s.get F.BOB_RULE_CTRL_SOURCE r == 2 && decide (m ≤ k) then
      (s.setRule r { x with next := some (m + x.detail) }).partFound r m
    else s
  | _, _ => s

/-- PITCH_TRIGGER (R127, R128): the mirrored count has reached the rule's next multiple. -/
def execPitchTrigger (rule : Fin 16) (s : State) : Host.Outcome State Fault Refusal := onDevice s fun s => s.pitchStep rule.val

/-- The multiples of a pitch rule that the mirrored count has reached. -/
def State.pitchDue (s : State) (r : Nat) : Nat :=
  match (s.rule r).next, s.count? (s.get F.BOB_RULE_CTRL_ENC r) with
  | some m, some k => ((k - m) / (s.rule r).detail + 1).toNat
  | _, _ => 0

/-- Whether a taken report is a latch of the input that a rule probes. -/
def State.latchOf (s : State) (r : Nat) (tk : Taken) : Bool :=
  match tk.rep.what with
  | .latch i _ _ => s.probeRule i == some r
  | _ => false

/-- The parts that a rule finds in this handshake (R132): latches that have arrived, multiples that have been reached.
(DEDUCED: notes/assumptions 221.) -/
def State.findDue (s : State) (r : Nat) : State :=
  let ls := s.field.link.inbox.filter (s.latchOf r)
  let t := { s with field := { s.field with link := { s.field.link with inbox := s.field.link.inbox.filter (!s.latchOf r ·) } } }
  let u := foldState (fun (v : State) (tk : Taken) =>
    match tk.rep.what with
    | .latch i enc low => v.latchTaken i enc low tk.safe
    | _ => v) t ls
  timesFrom (fun v _ => v.pitchStep r) (u.pitchDue r) 0 u

/-- CMD_FINDER_DISABLE (R132): a part that the rule finds in the same handshake has its bobbin first. -/
def execCmdFinderDisable (src : Source) (s : State) : Host.Outcome State Fault Refusal :=
  runCmd s src 0x0303 fun s c =>
    let r := c.target
    if !s.on F.BOB_RULE_CTRL_EN r then refuse s .badState
    else if s.bobs.any fun e => e.2.rule == r && e.2.state == .arming then refuse s .busy
    else
      let f := s.findDue r
      let t := f.putBit F.BOB_RULE_CTRL_EN false r
      let i := bitsOf (s.rule r).detail 0 2
      let u := if s.get F.BOB_RULE_CTRL_SOURCE r = 0 then
          (t.own i ownNone 0).putField (F.FIELD_PROBE_CFG_EN i) 0
        else t
      doneWith (foldState (fun v p => v.sweep p) u (List.range 17)).showPorts

/-! ### Lanes (R133, R134) -/

/-- Whether two valve channel ranges overlap. -/
def valvesMeet (f1 n1 f2 n2 : Nat) : Bool := n1 != 0 && n2 != 0 && decide (f1 < f2 + n2) && decide (f2 < f1 + n1)

/-- Whether the valve channels of a lane overlap those of another lane that is set on the same Ethernet port. -/
def State.valvesTaken (s : State) (c : Cmd) : Bool :=
  (List.range 16).any fun l =>
    l != c.target && s.laneCfg F.BOB_LANE_CFG_SET l != 0 && s.get F.BOB_LANE_VALVE_PORT l == bitsOf (c.p 5) 17 1 &&
      valvesMeet (bitsOf (c.p 5) 0 8) (bitsOf (c.p 5) 8 9) (s.get F.BOB_LANE_VALVE_FIRST l)
        (s.get F.BOB_LANE_VALVE_COUNT l)

/-- Whether the parameters of CMD_LANE_SET are in range. -/
def laneOk (c : Cmd) : Bool :=
  decide (c.p 1 < 2 ^ 8) && decide (1 ≤ c.p 2) && decide (c.p 2 < 2 ^ 24) && decide (1 ≤ bitsOf (c.p 3) 0 16) &&
    decide (c.p 3 < 2 ^ 17) && decide (c.p 4 < 2 ^ 16) && decide (c.p 5 < 2 ^ 18) &&
    decide (bitsOf (c.p 5) 0 8 + bitsOf (c.p 5) 8 9 ≤ 256)

/-- The outputs of a mask become EJECTOR outputs of a lane. -/
def State.takeOutputs (s : State) (mask lane : Nat) : State :=
  let w := (maskList 8 mask).foldl (fun v i => setBits v (3 * i) 3 1) (s.reg R.FIELD_FO_FUNC)
  let t := foldState (fun u i => u.own (5 + i) ownEjector lane) s (maskList 8 mask)
  if mask = 0 then t else t.setField R.FIELD_FO_FUNC w

/-- CMD_LANE_SET (R133). -/
def execCmdLaneSet (src : Source) (s : State) : Host.Outcome State Fault Refusal :=
  runCmd s src 0x0304 fun s c =>
    let l := c.target
    if !laneOk c || s.valvesTaken c then refuse s .badParam
    else if (maskList 8 (c.p 1)).any fun i => s.heldByOther (5 + i) ownEjector l then refuse s .resourceHeld
    else
      let t := (((s.setReg R.BOB_LANE_CFG (c.p 1 + 2 ^ 8 * bitsOf (c.p 3) 16 1 + 2 ^ 15 + 2 ^ 16 * bitsOf (c.p 3) 0 16) l).put
        F.BOB_LANE_OFFSET_OFFSET (c.p 2) l).put F.BOB_LANE_ADVANCE_ADVANCE (c.p 4) l).setReg R.BOB_LANE_VALVE (c.p 5) l
      doneWith ((t.stored (15 + l)).takeOutputs (c.p 1) l)

/-! ### Samples and bobbins (R139, R152) -/

/-- CMD_SAMPLE_CONFIG (R152). (DEDUCED: notes/assumptions 51.) -/
def execCmdSampleConfig (src : Source) (s : State) : Host.Outcome State Fault Refusal :=
  runCmd s src 0x0306 fun s c =>
    if !s.intake.samples.isEmpty then refuse s .badState
    else if c.p 1 = 0 ∨ 256 < c.p 1 ∨ 65535 < c.p 2 ∨ c.p 3 = 0 then refuse s .badParam
    else
      let t := (((s.put F.SAMPLE_CREDITS_LIMIT (c.p 1)).put F.SAMPLE_CREDITS_AVAIL (c.p 1)).put
        F.SAMPLE_DECODE_LIMIT_US (c.p 2)).put F.SAMPLE_MAX_PIXELS_MAX (c.p 3)
      doneWith { t with intake := { t.intake with nextSeq := 0, nextOut := 0 } }

/-- The code of a state (R136). -/
def BobState.code : BobState → Nat
  | .free => 0 | .arming => 1 | .open => 2 | .closedInput => 3 | .decided => 4 | .armedFinal => 5 | .fired => 6

/-- The six words of CMD_BOBBIN_READ (R139). -/
def Bobbin.read (b : Bobbin) : List Word :=
  if b.state = .free then List.replicate 6 0#32
  else
    let part := b.sample.isNone
    let z := fun (n : Nat) => if part then n else 0
    let ws := z (unsigned 48 b.wstart)
    let e := z (unsigned 48 b.eject)
    [w32 (b.state.code + 2 ^ 4 * z b.rule + 2 ^ 8 * z b.lane + 2 ^ 12 * z b.prov + 2 ^ 16 * b.partition + 2 ^ 19 * b.enc +
        2 ^ 20 * bit b.late + 2 ^ 21 * bit b.poison + 2 ^ 22 * bit b.incomplete + 2 ^ 23 * bit b.alarm +
        2 ^ 24 * bit b.early + 2 ^ 25 * bit b.amended),
      w32 b.serial, w32 ws, w32 (ws / 2 ^ 32 + 2 ^ 16 * z b.wlen), w32 e,
      w32 (e / 2 ^ 32 + 2 ^ 16 * b.cls + 2 ^ 24 * b.conf)]

/-- CMD_BOBBIN_READ (R139). -/
def execCmdBobbinRead (src : Source) (s : State) : Host.Outcome State Fault Refusal :=
  runCmd s src 0x0307 fun s c =>
    if 0xFFF < c.p 1 then refuse s .badParam else doneWith s (s.bob (c.p 1)).read

/-! ### Ageing (R138) -/

/-- Whether the field die's report that a bobbin's entry has ended waits to be applied: it comes before the age limit (R46, R137). -/
def State.ejectWaits (s : State) (id : Nat) : Bool :=
  s.field.link.inbox.any fun tk =>
    match tk.rep.what with
    | .eject e _ _ => ((tget? s.field.table e).bind (·.bobbin)) == some id
    | _ => false

/-- A bobbin ages out: it is FREE, its entry is orphaned, and the count goes up. -/
def State.ageOut (s : State) (id : Nat) : State :=
  let f := fun (e : Nat × DevEntry) => if e.2.bobbin = some id then (e.1, { e.2 with bobbin := none }) else e
  let t := { s with field := { s.field with table := s.field.table.map f } }
  (t.retireBob id).bump F.BOB_CNT_AGED

/-- BOB_AGE_EXPIRE (R46, R137, R138): a bobbin has been ARMED-FINAL for longer than the limit. (DEDUCED: notes/assumptions 49.) -/
def execBobAgeExpire (bobbin : Fin 4096) (s : State) : Host.Outcome State Fault Refusal :=
  onDevice s fun s =>
    if s.get F.BOB_AGE_LIMIT_MS ≠ 0 ∧ (s.bob bobbin.val).state = .armedFinal ∧ s.ejectWaits bobbin.val = false then
      s.ageOut bobbin.val
    else s

/-- A write to BOB_AGE_LIMIT applies at once to every ARMED-FINAL bobbin whose report of the end does not wait. -/
def State.writeAgeLimit (s : State) (v : Nat) : State :=
  let t := s.mergeReg R.BOB_AGE_LIMIT v
  let lim := t.get F.BOB_AGE_LIMIT_MS * 1000000
  let old := t.bobs.filter fun e =>
    e.2.state == .armedFinal && lim != 0 && decide (lim < t.time.uptime - e.2.since) && !t.ejectWaits e.1
  foldState (fun u e => u.ageOut e.1) t old

/-- BOB_AGE_LIMIT_WRITE (R138). -/
def execBobAgeLimitWrite (value : Word) (s : State) : Host.Outcome State Fault Refusal :=
  onDevice s fun s => s.writeAgeLimit value.toNat

end Sys2Proof.Machine
end

