-- ==== Sys2Proof/Machine/Fp.lean ====
section
/-! DEFINITION. Number formats (chapter 10): the float formats of R221, binary32 arithmetic with one rounding (R157,
R175), and the conversion of an FP32 value to a stored code (R227 to R231). A float is a bit pattern in a Nat. -/

namespace Sys2Proof.Machine

/-- What a float bit pattern stands for: `fin neg m e` is (-1)^neg * m * 2^e. -/
inductive FpVal where
  | nan
  | inf (neg : Bool)
  | fin (neg : Bool) (m : Nat) (e : Int)
  deriving DecidableEq, Repr

/-- A float format: exponent and mantissa widths and the bias; `e4m3` marks the format without infinity (R221). -/
structure FpFmt where
  eb   : Nat
  mb   : Nat
  bias : Nat
  e4m3 : Bool := false
  deriving DecidableEq, Repr

/-- The formats of R221. -/
def fmtE4M3 : FpFmt := { eb := 4, mb := 3, bias := 7, e4m3 := true }
def fmtE5M2 : FpFmt := { eb := 5, mb := 2, bias := 15 }
def fmtBF16 : FpFmt := { eb := 8, mb := 7, bias := 127 }
def fmtFP16 : FpFmt := { eb := 5, mb := 10, bias := 15 }
def fmtFP32 : FpFmt := { eb := 8, mb := 23, bias := 127 }

/-- The value a bit pattern stands for (R221, subnormals included). -/
def FpFmt.val (f : FpFmt) (x : Nat) : FpVal :=
  let neg := bitAt x (f.eb + f.mb)
  let e := bitsOf x f.mb f.eb
  let m := bitsOf x 0 f.mb
  if f.e4m3 && e == 2 ^ f.eb - 1 && m == 2 ^ f.mb - 1 then .nan
  else if !f.e4m3 && e == 2 ^ f.eb - 1 then (if m = 0 then .inf neg else .nan)
  else if e = 0 then .fin neg m (1 - f.bias - f.mb)
  else .fin neg (2 ^ f.mb + m) ((e : Int) - f.bias - f.mb)

/-- The bit pattern of the largest finite value. -/
def FpFmt.maxBits (f : FpFmt) : Nat :=
  if f.e4m3 then 2 ^ (f.eb + f.mb) - 2 else 2 ^ (f.eb + f.mb) - 2 ^ f.mb - 1

/-- The bit pattern of infinity. -/
def FpFmt.infBits (f : FpFmt) : Nat := (2 ^ f.eb - 1) * 2 ^ f.mb

/-- A quotient rounded to nearest, ties to even. -/
def rneDiv (a b : Nat) : Nat :=
  let q := a / b
  let r := a % b
  if 2 * r < b then q else if b < 2 * r then q + 1 else q + q % 2

/-- The magnitude `m * 2^e` rounded to nearest, ties to even, as a bit pattern without its sign; a value above the
largest finite one gives a pattern above `maxBits`. -/
def FpFmt.roundMag (f : FpFmt) (m : Nat) (e : Int) : Nat :=
  if m = 0 then 0
  else
    let low : Int := 1 - f.bias - f.mb
    let top : Int := e + Nat.log2 m - f.mb
    let q : Int := if low < top then top else low
    let k := if q ≤ e then m * 2 ^ (e - q).toNat else rneDiv m (2 ^ (q - e).toNat)
    if k < 2 ^ f.mb then k else (q - low + 1).toNat * 2 ^ f.mb + (k - 2 ^ f.mb)

/-- A magnitude with a sign, overflow giving infinity. -/
def FpFmt.pack (f : FpFmt) (neg : Bool) (mag : Nat) : Nat :=
  (if f.maxBits < mag then f.infBits else mag) + bit neg * 2 ^ (f.eb + f.mb)

/-! ### Binary32 -/

/-- The quiet NaN pattern. -/
def nan32 : Nat := 0x7FC00000

/-- Infinity with a sign. -/
def inf32 (neg : Bool) : Nat := fmtFP32.infBits + bit neg * 2 ^ 31

/-- round32 of the signed value `m * 2^e`; a zero takes the sign given. -/
def round32 (m : Int) (e : Int) (zeroNeg : Bool := false) : Nat :=
  if m = 0 then bit zeroNeg * 2 ^ 31 else fmtFP32.pack (decide (m < 0)) (fmtFP32.roundMag m.natAbs e)

/-- The signed mantissa of a finite value. -/
def FpVal.sig : FpVal → Int
  | .fin true m _ => -(m : Int)
  | .fin false m _ => m
  | _ => 0

/-- The sign of a value. -/
def FpVal.neg : FpVal → Bool
  | .fin n _ _ => n
  | .inf n => n
  | .nan => false

/-- The exact sum of two dyadics. -/
def dyAdd (a : Int) (e : Int) (b : Int) (g : Int) : Int × Int :=
  let q := min e g
  (a * 2 ^ (e - q).toNat + b * 2 ^ (g - q).toNat, q)

/-- acc + a * b with one rounding (R157, R175). -/
def fmaVal (a b c : FpVal) : Nat :=
  match a, b, c with
  | .nan, _, _ | _, .nan, _ | _, _, .nan => nan32
  | .inf n, .fin m k _, c | .fin m k _, .inf n, c =>
    if k = 0 then nan32
    else
      match c with
      | .inf d => if xor n m = d then inf32 d else nan32
      | _ => inf32 (xor n m)
  | .inf n, .inf m, c =>
    match c with
    | .inf d => if xor n m = d then inf32 d else nan32
    | _ => inf32 (xor n m)
  | .fin _ _ _, .fin _ _ _, .inf d => inf32 d
  | .fin n k e, .fin m l g, .fin d h i =>
    let p : Int := FpVal.sig (.fin n k e) * FpVal.sig (.fin m l g)
    let r := dyAdd p (e + g) (FpVal.sig (.fin d h i)) i
    round32 r.1 r.2 (d && (xor n m))

/-- The value of a binary32 pattern. -/
def val32 (x : Nat) : FpVal := fmtFP32.val x

/-- Fused multiply-add on patterns: a * b + c. -/
def fma32 (a b c : Nat) : Nat := fmaVal (val32 a) (val32 b) (val32 c)

/-- FP32 addition. -/
def add32 (a b : Nat) : Nat := fma32 a 0x3F800000 b

/-- The pattern with its sign turned. -/
def neg32 (a : Nat) : Nat := if bitAt a 31 then a - 2 ^ 31 else a % 2 ^ 31 + 2 ^ 31

/-- FP32 subtraction. -/
def sub32 (a b : Nat) : Nat := add32 a (neg32 b)

/-- FP32 multiplication. -/
def mul32 (a b : Nat) : Nat :=
  match val32 a, val32 b with
  | .fin n k e, .fin m l g =>
    let p : Int := FpVal.sig (.fin n k e) * FpVal.sig (.fin m l g)
    round32 p (e + g) (xor n m)
  | x, y => fmaVal x y (.fin false 0 0)

/-- Whether a pattern is finite. -/
def finite32 (a : Nat) : Bool :=
  match val32 a with
  | .fin _ _ _ => true
  | _ => false

/-- Whether a pattern is a NaN. -/
def isNan32 (a : Nat) : Bool := val32 a == .nan

/-- The order of finite and infinite patterns: a key that rises with the value, -0 below +0. -/
def key32 (a : Nat) : Int := if bitAt a 31 then -((a % 2 ^ 31 : Nat) : Int) - 1 else (a % 2 ^ 31 : Nat)

/-- The comparison a < b of non-NaN patterns; zeros of both signs are equal. -/
def lt32 (a b : Nat) : Bool :=
  if a % 2 ^ 31 = 0 ∧ b % 2 ^ 31 = 0 then false else decide (key32 a < key32 b)

/-- An integer rounded to binary32 (R156). -/
def int32 (n : Int) : Nat := round32 n 0

/-- round32(1 / x), correctly rounded, for a finite non-zero pattern. -/
def recipExact (x : Nat) : Nat :=
  match val32 x with
  | .fin n m e =>
    if m = 0 then inf32 n
    else
      let a := 2 ^ 80
      let q := 2 * (a / m) + (if a % m = 0 then 0 else 1)
      round32 (if n then -(q : Int) else q) (-e - 81)
  | .inf n => bit n * 2 ^ 31
  | .nan => nan32

/-! ### The vector unit's functions (R175)

Each is exact to within 1 ulp: its bits are those of a neighbour of the exact value, and which neighbour is a free value. -/

/-- The pattern of the magnitude `m * 2^e` cut towards zero, and whether nothing was cut off. -/
def FpFmt.truncMag (f : FpFmt) (m : Nat) (e : Int) : Nat × Bool :=
  let low : Int := 1 - f.bias - f.mb
  let q := max low (e + Nat.log2 m - f.mb)
  let k := if q ≤ e then m * 2 ^ (e - q).toNat else m / 2 ^ (q - e).toNat
  (if k < 2 ^ f.mb then k else (q - low + 1).toNat * 2 ^ f.mb + (k - 2 ^ f.mb), decide (q ≤ e) || m % 2 ^ (q - e).toNat == 0)

/-- The functions, by the number under which `Config` frees their bits. -/
inductive VecFn where
  | exp2 | log2 | rcp | rsqrt
  deriving DecidableEq, Repr

/-- The number of a function. -/
def VecFn.num : VecFn → Nat
  | .exp2 => 0 | .log2 => 1 | .rcp => 2 | .rsqrt => 3

/-- A result within 1 ulp of a magnitude that lies at `m * 2^e`, or above it by less than one unit of `m` where `exact` does
not hold; beyond the largest finite value the result is open. (DESIGN CHOICE: notes/assumptions 13.) -/
def VecFn.near (g : VecFn) (x : Nat) (neg : Bool) (m : Nat) (e : Int) (exact : Bool) : Nat :=
  let t := fmtFP32.truncMag m e
  let k := Config.vecPick g.num (w32 x)
  let r := if exact && t.2 then t.1 + k % 3 - 1 else t.1 + k % 2
  if fmtFP32.maxBits ≤ t.1 then (Config.vecEdge g.num (w32 x)).toNat else bit neg * 2 ^ 31 + r

/-- An operand for which the spec states no result: a special value, or one outside the function's domain. -/
def VecFn.edge (g : VecFn) (x : Nat) : Nat := if isNan32 x then nan32 else (Config.vecEdge g.num (w32 x)).toNat

/-- The integer square root, bit by bit from bit `k - 1` down. -/
def sqrtFrom (n : Nat) : Nat → Nat → Nat
  | 0, r => r
  | k + 1, r => sqrtFrom n k (if (r + 2 ^ k) * (r + 2 ^ k) ≤ n then r + 2 ^ k else r)

/-- The integer square root of a number below 2^224. -/
def isqrt (n : Nat) : Nat := sqrtFrom n 112 0

/-- 2^f for the fraction f whose 64 bits are `bits` from bit `k - 1` down: a product of roots of 2, with 96 fraction bits;
`root` is the root that belongs to bit `k`. -/
def powFrac (bits : Nat) : Nat → Nat → Nat → Nat
  | 0, _, r => r
  | k + 1, root, r =>
    let c := isqrt (root * 2 ^ 96)
    powFrac bits k c (if bitAt bits k then r * c / 2 ^ 96 else r)

/-- exp2 of R175. -/
def exp2' (x : Nat) : Nat :=
  match val32 x with
  | .fin n m e =>
    let v : Int := FpVal.sig (.fin n m e)
    let fix : Int := if -64 ≤ e then v * 2 ^ (e + 64).toNat else v / 2 ^ (-64 - e).toNat
    let i := fix / 2 ^ 64
    let f := (fix % 2 ^ 64).toNat
    let whole := f == 0 && (decide (-64 ≤ e) || v % 2 ^ (-64 - e).toNat == 0)
    if 128 ≤ i then VecFn.edge .exp2 x
    else if i < -200 then VecFn.near .exp2 x false 1 (-200) false
    else VecFn.near .exp2 x false (powFrac f 64 (2 * 2 ^ 96) (2 ^ 96)) (i - 96) whole
  | _ => VecFn.edge .exp2 x

/-- The first bits of the binary logarithm of `y / 2^96`, a number from 1 to below 2, after the point. -/
def logBits : Nat → Nat → Nat → Nat
  | 0, _, r => r
  | k + 1, y, r =>
    let z := y * y / 2 ^ 96
    if 2 ^ 97 ≤ z then logBits k (z / 2) (2 * r + 1) else logBits k z (2 * r)

/-- log2 of R175. -/
def log2' (x : Nat) : Nat :=
  match val32 x with
  | .fin false m e =>
    if m = 0 then VecFn.edge .log2 x
    else
      let k := Nat.log2 m
      let power := m == 2 ^ k
      let l : Int := 2 ^ 64 * (e + k) + logBits 64 (m * 2 ^ (96 - k)) 0
      if power then VecFn.near .log2 x (decide (l < 0)) l.natAbs (-64) true
      else VecFn.near .log2 x (decide (l < 0)) (if l < 0 then 2 * l.natAbs - 1 else 2 * l.natAbs) (-65) false
  | _ => VecFn.edge .log2 x

/-- rcp of R175. -/
def rcp' (x : Nat) : Nat :=
  match val32 x with
  | .fin n m e =>
    if m = 0 then VecFn.edge .rcp x else VecFn.near .rcp x n (2 ^ 80 / m) (-e - 80) (2 ^ 80 % m == 0)
  | _ => VecFn.edge .rcp x

/-- rsqrt of R175. -/
def rsqrt' (x : Nat) : Nat :=
  match val32 x with
  | .fin false m e =>
    if m = 0 then VecFn.edge .rsqrt x
    else
      let odd := e % 2 == 1
      let k := if odd then 2 * m else m
      let h := (if odd then e - 1 else e) / 2
      let r := isqrt (2 ^ 160 / k)
      VecFn.near .rsqrt x false r (-h - 80) (r * r * k == 2 ^ 160)
  | _ => VecFn.edge .rsqrt x

/-- 255 times a value, rounded once to the nearest integer, ties to even. -/
def rne255 (x : Nat) : Int :=
  match val32 x with
  | .fin n m e =>
    let k : Nat := if 0 ≤ e then 255 * m * 2 ^ e.toNat else rneDiv (255 * m) (2 ^ (-e).toNat)
    if n then -(k : Int) else k
  | .inf n => if n then 0 else 255
  | .nan => 0

/-- Whether a pattern is an infinity. -/
def isInf32 (a : Nat) : Bool :=
  match val32 a with
  | .inf _ => true
  | _ => false

/-- Whether a pattern is +0 or -0. -/
def isZero32 (a : Nat) : Bool := a % 2 ^ 31 == 0

/-- The lesser or the greater of two patterns (R175); where IEEE 754 leaves the choice open (a NaN, zeros of two signs), a
free value. (DESIGN CHOICE: notes/assumptions 189.) -/
def pick32 (greater : Bool) (a b : Nat) : Nat :=
  if isNan32 a || isNan32 b || (isZero32 a && isZero32 b && a != b) then (Config.minMax greater (w32 a) (w32 b)).toNat
  else if greater == lt32 a b then b else a

/-- One level of a pairwise tree: neighbours are joined; a single last value passes. -/
def pairUp (f : Nat → Nat → Nat) : List Nat → List Nat
  | a :: b :: t => f a b :: pairUp f t
  | l => l

/-- The pairwise tree over lanes, lanes (0,1), (2,3) and so on first (R175). -/
def laneTree (f : Nat → Nat → Nat) : Nat → List Nat → Nat
  | 0, l => l.headD 0
  | n + 1, l => laneTree f n (pairUp f l)

/-- The sum across lanes. -/
def treeSum (n : Nat) (l : List Nat) : Nat := laneTree add32 n l

/-! ### Rounding to integers and to narrow formats -/

/-- rne_int of the dyadic value of a finite pattern. -/
def rneInt (x : Nat) : Int :=
  match val32 x with
  | .fin n m e =>
    let k : Nat := if 0 ≤ e then m * 2 ^ e.toNat else rneDiv m (2 ^ (-e).toNat)
    if n then -(k : Int) else k
  | _ => 0

/-- A value rounded to a float format to nearest, ties to even, overflow to infinity (ordinary IEEE rounding). -/
def FpFmt.round (f : FpFmt) (v : FpVal) : Nat :=
  match v with
  | .nan => f.infBits + (if f.e4m3 then 2 ^ f.mb - 1 else 1)
  | .inf n => f.pack n (f.maxBits + 1)
  | .fin n m e => f.pack n (f.roundMag m e)

/-- to_target of R229: the pattern, and whether the value saturated. -/
def FpFmt.target (f : FpFmt) (v : FpVal) : Nat × Bool :=
  let s := bit v.neg * 2 ^ (f.eb + f.mb)
  match v with
  | .fin _ m e =>
    let r := f.roundMag m e
    if f.maxBits < r then (f.maxBits + s, true) else (r + s, false)
  | _ => (f.maxBits + s, true)

/-- The pattern that a finite value is stored as: past the range of the format it saturates, so no infinity is stored (R223). -/
def FpFmt.store (f : FpFmt) (v : FpVal) : Nat :=
  match v with
  | .nan => f.round v
  | _ => (f.target v).1

/-! ### Scale records and the conversion (R225 to R231) -/

/-- A scale record (R225). -/
structure ScaleRec where
  sigma  : Nat := 0
  rho    : Nat := 0
  z      : Int := 0
  fmt    : Nat := 0
  stats  : Bool := false
  alarm  : Bool := false
  calib  : Bool := false
  resv   : Bool := false
  tensor : Nat := 0
  off    : Nat := 0
  deriving DecidableEq, Repr

/-- The record that four words spell. -/
def scaleRec (ws : List Word) : ScaleRec :=
  let w := fun i => (ws.getD i 0).toNat
  { sigma := w 0, rho := w 1, z := signed 16 (bitsOf (w 2) 0 16), fmt := bitsOf (w 2) 16 4, stats := bitAt (w 2) 20,
    alarm := bitAt (w 2) 21, calib := bitAt (w 2) 22, resv := bitsOf (w 2) 23 9 != 0, tensor := bitsOf (w 3) 0 12,
    off := bitsOf (w 3) 12 20 }

/-- Whether a pattern is positive, finite and normal. -/
def normal32 (x : Nat) : Bool := decide (0x00800000 ≤ x) && decide (x < 0x7F800000)

/-- The least and largest codes of an integer format. -/
def codeRange (fmt : Nat) : Int × Int :=
  if fmt = 0 then (-128, 127) else if fmt = 1 then (0, 255) else (-8, 7)

/-- Whether a scale record is valid (R231). -/
def ScaleRec.valid (r : ScaleRec) : Bool :=
  normal32 r.sigma && normal32 r.rho && decide (r.fmt ≤ 9) && !r.resv &&
    (if r.fmt ≤ 2 then decide ((codeRange r.fmt).1 ≤ r.z) && decide (r.z ≤ (codeRange r.fmt).2) else r.z == 0)

/-- The bits of one stored element (R221). -/
def fmtBits (fmt : Nat) : Nat :=
  if fmt = 2 ∨ fmt = 3 then 4 else if fmt ≤ 6 then 8 else if fmt ≤ 8 then 16 else 32

/-- The float format of a format code. -/
def fmtFloat (fmt : Nat) : FpFmt :=
  if fmt = 5 then fmtE4M3 else if fmt = 6 then fmtE5M2 else if fmt = 7 then fmtBF16 else if fmt = 8 then fmtFP16
  else fmtFP32

/-- The exact distance from a finite pattern to an integer, as a numerator over a common power of two. -/
def distTo (x : Nat) (c : Int) : Nat :=
  match val32 x with
  | .fin n m e =>
    let v : Int := FpVal.sig (.fin n m e)
    if 0 ≤ e then (v * 2 ^ e.toNat - c).natAbs else (v - c * 2 ^ (-e).toNat).natAbs
  | _ => 0

/-- The better of two candidate indices (R228): nearer first, then even before odd, then lower. -/
def betterIdx (a b : Nat × Nat) : Nat × Nat :=
  if b.2 < a.2 then b
  else if b.2 = a.2 ∧ a.1 % 2 = 1 ∧ b.1 % 2 = 0 then b
  else a

/-- The nearest codebook index (R228); an infinity takes the extreme entry, the same index of it among equal ones. -/
def nearest (y : Nat) (cb : List Int) : Nat :=
  match val32 y with
  | .inf neg =>
    let best := cb.foldl (fun m c => if neg then min m c else max m c) (cb.headD 0)
    ((cb.mapIdx fun i c => (i, bit (c != best))).foldl betterIdx (0, bit (cb.headD 0 != best))).1
  | _ => ((cb.mapIdx fun i c => (i, distTo y c)).foldl betterIdx (0, distTo y (cb.headD 0))).1

/-- Whether y lies beyond an integer bound given in halves, below or above, compared exactly. -/
def beyondHalf (y : Nat) (halves : Int) (below : Bool) : Bool :=
  match val32 y with
  | .inf n => n == below
  | .nan => false
  | .fin n m e =>
    let v : Int := 2 * FpVal.sig (.fin n m e)
    let a := if 0 ≤ e then v * 2 ^ e.toNat else v
    let b := if 0 ≤ e then halves else halves * 2 ^ (-e).toNat
    if below then decide (a < b) else decide (b < a)

/-- One converted element: its code, whether it saturated or underflowed, and its error (R227). -/
structure Conv1 where
  code  : Nat
  sat   : Bool
  under : Bool
  err   : Nat
  deriving DecidableEq, Repr

/-- Whether x is non-zero. -/
def nonZero32 (x : Nat) : Bool := x % 2 ^ 31 != 0

/-- The integer rule of R227. -/
def convInt (r : ScaleRec) (x y : Nat) : Conv1 :=
  let lo := (codeRange r.fmt).1
  let hi := (codeRange r.fmt).2
  let k : Int := match val32 y with
    | .inf true => lo - r.z - 1
    | .inf false => hi - r.z + 1
    | _ => rneInt y
  let q := k + r.z
  let c := max lo (min hi q)
  let d := mul32 r.sigma (int32 (c - r.z))
  { code := unsigned (fmtBits r.fmt) c, sat := decide (q < lo) || decide (hi < q),
    under := nonZero32 x && c == r.z, err := sub32 x d }

/-- The codebook rule of R227. -/
def convBook (r : ScaleRec) (cb : List Int) (x y : Nat) : Conv1 :=
  let n := if r.fmt = 3 then 16 else 256
  let c := fun i => cb.getD i 0
  let q := nearest y (cb.take n)
  let low := 2 * c 0 - (c 1 - c 0)
  let top := 2 * c (n - 1) + (c (n - 1) - c (n - 2))
  let d := mul32 r.sigma (int32 (c q))
  { code := q, sat := isInf32 x || (q == 0 && beyondHalf y low true) || (q == n - 1 && beyondHalf y top false),
    under := nonZero32 x && c q == 0, err := sub32 x d }

/-- The float rule of R227 and R229. -/
def convFloat (r : ScaleRec) (x y : Nat) : Conv1 :=
  let f := fmtFloat r.fmt
  let t := if r.fmt = 9 then (y, match val32 y with | .inf _ => true | _ => false) else f.target (val32 y)
  let back := if r.fmt = 9 then y else fmtFP32.round (f.val t.1)
  { code := t.1, sat := t.2, under := nonZero32 x && !nonZero32 back, err := sub32 x (mul32 r.sigma back) }

/-- The conversion of a non-NaN element (R227). -/
def ScaleRec.conv (r : ScaleRec) (cb : List Int) (x : Nat) : Conv1 :=
  let y := mul32 x r.rho
  if r.fmt ≤ 2 then convInt r x y
  else if r.fmt ≤ 4 then convBook r cb x y
  else convFloat r x y

/-! ### Statistics (R232, R233, R236) -/

/-- What a set of conversions gathers. `lanes` holds the SSE sums of the 64 lanes. -/
structure Gather where
  count : Nat := 0
  sat   : Nat := 0
  under : Nat := 0
  lanes : Tbl Nat := []
  lo    : Nat := 0x7F800000
  hi    : Nat := 0xFF800000
  deriving DecidableEq, Repr

/-- Count one element of channel `j`: a poisoned element or a NaN is not counted (R230). -/
def Gather.add (g : Gather) (r : ScaleRec) (cb : List Int) (j : Nat) (x : Option Word) : Gather :=
  match x with
  | none => g
  | some w =>
    let v := w.toNat
    if isNan32 v then g
    else
      let c := r.conv cb v
      let h := { g with count := g.count + 1, sat := g.sat + bit c.sat }
      if !finite32 v then h
      else
        { h with
          under := h.under + bit c.under
          lanes := tset h.lanes (j % 64) (add32 (tgetD h.lanes (j % 64) 0) (mul32 c.err c.err))
          lo := if key32 v < key32 h.lo then v else h.lo
          hi := if key32 h.hi < key32 v then v else h.hi }

/-- SSE: the lane sums combined by the pairwise tree (R233). -/
def Gather.sse (g : Gather) : Nat := treeSum 6 ((List.range 64).map fun i => tgetD g.lanes i 0)

/-- Whether an alarm unit raises an alarm (R236). -/
def Gather.alarms (g : Gather) (frac : Nat) : Bool :=
  frac != 0xFFFF && (decide (frac * g.count < g.sat * 65536) || decide (frac * g.count < g.under * 65536))

/-! ### The head (R217) -/

/-- The index of the largest logit, the lowest on a tie, with the logit. -/
def argMax (ls : List Nat) : Nat × Nat :=
  (ls.mapIdx fun i l => (i, l)).foldl (fun b c => if lt32 b.2 c.2 then c else b) (0, ls.headD 0)

/-- The sum of exp2(l_c - l_max) over the 16 lanes. -/
def headSum (ls : List Nat) : Nat := treeSum 4 (ls.map fun l => exp2' (sub32 l (argMax ls).2))

/-- The confidence (R217). -/
def headConf (ls : List Nat) : Nat := (max 0 (min 255 (rne255 (rcp' (headSum ls))))).toNat

end Sys2Proof.Machine
end

