-- ==== Sys2Proof/Machine/VecUnit.lean ====
section
/-! DEFINITION. The operations of the vector unit (R175): on a lane, and across lanes; and a program of them on a row. -/

namespace Sys2Proof.Machine

open Config (VecOp VecIns)

/-- An operation on one lane: FP32 with one rounding, 32-bit integers exact and wrapping, the four functions. -/
def laneOp (op : VecOp) (a b c : Word) : Word :=
  match op with
  | .const _ => a
  | .add => w32 (add32 a.toNat b.toNat)
  | .mul => w32 (mul32 a.toNat b.toNat)
  | .min => w32 (pick32 false a.toNat b.toNat)
  | .max => w32 (pick32 true a.toNat b.toNat)
  | .less => w32 (bit (!isNan32 a.toNat && !isNan32 b.toNat && lt32 a.toNat b.toNat))
  | .select => if a = 0 then c else b
  | .fma => w32 (fma32 a.toNat b.toNat c.toNat)
  | .iadd => a + b
  | .shl => a <<< b.toNat
  | .shr => a >>> b.toNat
  | .sar => a.sshiftRight b.toNat
  | .land => a &&& b
  | .lor => a ||| b
  | .lxor => a ^^^ b
  | .exp2 => w32 (exp2' a.toNat)
  | .log2 => w32 (log2' a.toNat)
  | .rcp => w32 (rcp' a.toNat)
  | .rsqrt => w32 (rsqrt' a.toNat)
  | .sum | .least | .greatest => a

/-- The operation that a tree across lanes makes at each node, if it is one. -/
def treeOp : VecOp → Option (Nat → Nat → Nat)
  | .sum => some add32
  | .least => some (pick32 false)
  | .greatest => some (pick32 true)
  | _ => none

/-- The result of one step for `n` lanes, from the results of the steps before it. -/
def vecStep (rs : List (List Word)) (n : Nat) (i : VecIns) : List Word :=
  let arg := fun (k l : Nat) => (rs.getD k []).getD l 0
  match i.op, treeOp i.op with
  | .const ws, _ => (List.range n).map fun l => ws.getD (if ws.length = 1 then 0 else l) 0
  | _, some f => List.replicate n (w32 (laneTree f 6 ((List.range n).map fun l => (arg i.a l).toNat)))
  | op, none => (List.range n).map fun l => laneOp op (arg i.a l) (arg i.b l) (arg i.c l)

/-- What a program makes of a row of lanes. -/
def vecRun (prog : List VecIns) (row : List Word) : List Word :=
  ((prog.foldl (fun rs i => rs ++ [vecStep rs row.length i]) [row]).getLast?).getD row

end Sys2Proof.Machine
end

