-- ==== Sys2Proof/Machine/ArrayOps.lean ====
section
/-! DEFINITION. The arithmetic of the loom array (chapter 07, R153 to R160, R293; R227): modes, operands, sums in their
order, tiles, and stored codes. -/

namespace Sys2Proof.Machine

/-! ### Descriptors (R172, R179, R192, R261, R266) -/

/-- A field of a descriptor. -/
def fld (ws : List Word) (w lo width : Nat) : Nat := bitsOf (ws.getD w 0).toNat lo width

/-- Whether a descriptor has the words of a layout and no reserved bit set; `masks` are the named bits, word by word. -/
def plainBits (ws : List Word) (masks : List Nat) : Bool :=
  ws.length == masks.length && (ws.zip masks).all fun e => Nat.land e.1.toNat (0xFFFFFFFF - e.2) == 0

/-- The named bits of the layouts. -/
def maskWload : List Nat := [0x70FFF, 0x7FF, 0x7F7F, 0, 0, 0, 0, 0xFFFF]
def maskMm : List Nat := [0x77FFF, 0x7F7F07FF, 0x1FFFFF, 0x1FFFFF, 0x3FF, 0xFFFF, 0x1FFFFF, 0xFFFF]
def maskConv : List Nat := [0x1F7FFF, 0x7FF, 0x3F3F3F3F, 0x3FFF3FFF, 0x7F0FFF, 0x1FFFFF, 0x1FFFFF, 0x1FFF, 0x1FFFFF,
  0x1FFFFF, 0x1FFFFF, 0x1FFFFF, 0x1FFF, 0xFFFF07FF, 0xFFFF, 0xFFFF]

/-! ### Modes (R153, R168) -/

/-- Whether a mode accumulates in binary32. -/
def modeFloat (mode : Nat) : Bool := decide (4 ≤ mode)
/-- The bits of a stationary operand. -/
def wBits (mode : Nat) : Nat := if mode = 1 ∨ mode = 2 then 4 else if mode ≤ 4 then 8 else 16
/-- The bytes of a streamed operand. -/
def aBytes (mode : Nat) : Nat := if mode ≤ 4 then 1 else 2
/-- The handshakes of a slot. -/
def slotTime (mode : Nat) : Nat := if mode ≤ 3 then 1 else if mode = 4 then 2 else 4
/-- The groups of a split mode. -/
def groupCount (split : Nat) : Nat := if split = 0 then 1 else if split = 1 then 2 else 4
/-- The columns of a group. -/
def groupWidth (split : Nat) : Nat := 64 / groupCount split

/-- How operands are read: the mode, the streamed operand unsigned, E5M2 for each of the two. -/
structure Reading where
  mode  : Nat
  uns   : Bool := false
  aE5M2 : Bool := false
  wE5M2 : Bool := false
  deriving DecidableEq, Repr

/-- Whether a mode's stationary operands are codebook indices. -/
def modeBook (mode : Nat) : Bool := mode == 2 || mode == 3

/-- The value of a stationary code in an integer or codebook mode; `entry` is the codebook entry that it selects. -/
def Reading.wInt (r : Reading) (entry : Int) (code : Nat) : Int :=
  if r.mode = 0 then signed 8 code else if r.mode = 1 then signed 4 code else entry

/-- The value of a streamed code in an integer or codebook mode. -/
def Reading.aInt (r : Reading) (code : Nat) : Int := if r.uns then (code % 256 : Nat) else signed 8 code

/-- The float format of an operand. -/
def Reading.fmt (r : Reading) (e5m2 : Bool) : FpFmt :=
  if r.mode = 4 then (if e5m2 then fmtE5M2 else fmtE4M3) else if r.mode = 5 then fmtBF16 else fmtFP16

/-! ### Sums (R156, R157, R159, R293) -/

/-- Whether a value is a NaN or an infinity. -/
def FpVal.special : FpVal → Bool
  | .fin _ _ _ => false
  | _ => true

/-- The exact product of two finite values. -/
def exactMul (a b : FpVal) : FpVal :=
  match a, b with
  | .fin n k e, .fin m l g => .fin (xor n m) (k * l) (e + g)
  | _, _ => .nan

/-- One binary32 addition; an infinity stays one. -/
def roundAdd (a b : FpVal) : Nat :=
  match a, b with
  | .inf n, .fin _ _ _ => inf32 n
  | .fin _ _ _, .inf m => inf32 m
  | .inf n, .inf m => if n = m then inf32 n else nan32
  | .fin n k e, .fin m l g =>
    let r := dyAdd (FpVal.sig (.fin n k e)) e (FpVal.sig (.fin m l g)) g
    round32 r.1 r.2 (n && m)
  | _, _ => nan32

/-- One level of the pairwise tree; the flag says that some addition overflowed. -/
def treeLevel : List FpVal → List FpVal × Bool
  | a :: b :: t =>
    let r := roundAdd a b
    let u := treeLevel t
    (val32 r :: u.1, isInf32 r || u.2)
  | l => (l, false)

/-- The tree over the active positions: an absent child passes the other on. -/
def treeOf : Nat → List FpVal → List FpVal × Bool
  | 0, l => (l, false)
  | n + 1, l =>
    let r := treeLevel l
    let u := treeOf n r.1
    (u.1, r.2 || u.2)

/-- A pass's terms joined to an accumulator in a float mode, with the FLOAT fault: an operand that is a NaN or infinite, or an
infinite result (R159). -/
def floatPass (tree : Bool) (acc : Nat) (ts : List (FpVal × FpVal)) : Nat × Bool :=
  let bad := ts.any fun t => t.1.special || t.2.special
  if bad then (nan32, true)
  else if tree then
    let r := treeOf 6 (ts.map fun t => exactMul t.1 t.2)
    match r.1 with
    | v :: _ =>
      let s := roundAdd (val32 acc) v
      (s, r.2 || isInf32 s)
    | [] => (acc, false)
  else
    ts.foldl (fun (a : Nat × Bool) t =>
      let s := fmaVal t.1 t.2 (val32 a.1)
      (s, a.2 || isInf32 s)) (acc, false)

/-- Whether a sum leaves the 48-bit range. -/
def overflows48 (x : Int) : Bool := decide (x < -(2 ^ 47)) || decide (2 ^ 47 ≤ x)

/-- What an instruction meets (R169). -/
structure Faults where
  wpar   : Bool := false
  poison : Bool := false
  float  : Bool := false
  ovf    : Bool := false
  deriving DecidableEq, Repr

/-- Faults met together. -/
def Faults.join (a b : Faults) : Faults :=
  { wpar := a.wpar || b.wpar, poison := a.poison || b.poison, float := a.float || b.float, ovf := a.ovf || b.ovf }

/-- Whether anything was met. -/
def Faults.any (f : Faults) : Bool := f.wpar || f.poison || f.float || f.ovf

/-- One term: the streamed code, and the stationary code with the codebook entry that it selects and their poison flag. -/
structure Term where
  a     : Option Nat
  w     : Nat
  bad   : Bool := false
  entry : Int := 0
  deriving DecidableEq, Repr

/-- Terms joined to an accumulator, in their order, as one pass; a NaN or an infinity raises FLOAT also where its partner is poisoned
(R159). (DEDUCED: notes/assumptions 61.) -/
def joinPass (r : Reading) (tree : Bool) (acc : Acc) (ts : List Term) : Acc × Faults :=
  let poison := acc.bad || ts.any fun t => t.a.isNone || t.bad
  if modeFloat r.mode then
    let vs := ts.map fun t => ((r.fmt r.aE5M2).val (t.a.getD 0), (r.fmt r.wE5M2).val t.w)
    let live := (ts.zip vs).filter fun e => e.1.a.isSome && !e.1.bad
    let odd := (ts.zip vs).any fun e => (e.1.a.isSome && e.2.1.special) || (!e.1.bad && e.2.2.special)
    let s := floatPass tree (acc.sum.toNat) (live.map (·.2))
    ({ float := true, sum := (s.1 : Int), bad := poison || s.2 || odd }, { poison := poison, float := s.2 || odd })
  else
    let s := acc.sum + (ts.map fun t => r.wInt t.entry t.w * r.aInt (t.a.getD 0)).sum
    let o := overflows48 s
    ({ float := false, sum := s, bad := poison || o }, { poison := poison, ovf := o })

/-- An accumulator before its first term (R157). -/
def freshAcc (mode : Nat) : Acc := { float := modeFloat mode, sum := 0 }

/-- The FP32 value of an accumulator at drain (R156, R175). -/
def Acc.word (a : Acc) : Word := if a.float then w32 a.sum.toNat else w32 (int32 a.sum)

/-! ### Tiles (R161, R222, R224) -/

/-- Element `i` of packed operands of 4, 8 or 16 bits. -/
def packedAt (bits : Nat) (d : Data) (i : Nat) : Option Nat :=
  if bits = 4 then (d.getD (i / 2) none).map fun b => bitsOf b.toNat (4 * (i % 2)) 4
  else if bits = 8 then (d.getD i none).map (·.toNat)
  else
    match d.getD (2 * i) none, d.getD (2 * i + 1) none with
    | some a, some b => some (a.toNat + 256 * b.toNat)
    | _, _ => none

/-- The bytes of `n` packed operands. -/
def packedBytes (bits n : Nat) : Nat := ceilDiv (n * bits) 8

/-- The cells of a tile, row by row; a missing or poisoned operand carries the flag.
(DESIGN CHOICE: notes/assumptions 63.) -/
def tileCells (mode rows cols : Nat) (d : Data) : List (List (Nat × Bool)) :=
  (List.range rows).map fun i => (List.range cols).map fun j =>
    match packedAt (wBits mode) d (i * cols + j) with
    | some c => (c, false)
    | none => (0, true)

/-- A codebook of `n` entries from its containers (R224), each with its poison flag. -/
def bookEntries (n : Nat) (d : Data) : List (Int × Bool) :=
  (List.range n).map fun i => let c := packedAt 16 d i; (signed 12 (c.getD 0), c.isNone)

/-- The codebook that follows operands: one for all columns, or one for each. -/
def loadBook (chan : Bool) (large : Bool) (cols : Nat) (d : Data) : Book :=
  let n := if large then 256 else 16
  let bs := (List.range (if chan then cols else 1)).map fun c => bookEntries n (d.drop (2 * n * c))
  { chan := chan, entries := bs }

/-- A codebook swapped into the front store of columns `first` to `first + width - 1` of a loom (R155). -/
def Loom.swapBook (l : Loom) (first width : Nat) (b : Book) : Loom :=
  { l with books := (List.range width).foldl (fun t c => tset t (first + c) (b.entries.getD (if b.chan then c else 0) [])) l.books }

/-- The entry of a column's front store that a code selects. (DESIGN CHOICE: notes/assumptions 190.) -/
def Loom.entry (l : Loom) (n col code : Nat) : Int × Bool :=
  ((tgetD l.books col [])[code]?).getD ((Config.staleEntry n col code).toInt, false)

/-! ### Rows of four-byte values (R201, R294) -/

/-- The values of a stripe vector held as four-byte words: binary32 patterns, or 32-bit integers.
(DESIGN CHOICE: notes/assumptions 73.) -/
def vectorOf (float : Bool) : Data → List (Option Int)
  | some a :: some b :: some c :: some d :: t =>
    let n := bytesNat [a, b, c, d]
    some (if float then (n : Int) else signed 32 n) :: vectorOf float t
  | _ :: _ :: _ :: _ :: t => none :: vectorOf float t
  | _ => []

/-- The sum of two elements: FP32 in float modes, exact in integer modes. -/
def tokAdd (float : Bool) (a b : Option Int) : Option Int :=
  match a, b with
  | some x, some y => some (if float then (add32 x.toNat y.toNat : Nat) else x + y)
  | _, _ => none

/-- The values of a list, if none is poisoned. -/
def allSome {α : Type} : List (Option α) → Option (List α)
  | [] => some []
  | some a :: t => (allSome t).map (a :: ·)
  | none :: _ => none

/-! ### Stored codes (R221, R222, R227, R230, R231) -/

/-- Codes packed in memory: a poisoned 4-bit element poisons its byte. -/
def packCodes (bits : Nat) (cs : List (Option Nat)) : Data :=
  if bits = 4 then
    (List.range (ceilDiv cs.length 2)).map fun i =>
      match cs.getD (2 * i) (some 0), cs.getD (2 * i + 1) (some 0) with
      | some a, some b => some (BitVec.ofNat 8 (a % 16 + 16 * (b % 16)))
      | _, _ => none
  else cs.flatMap fun c =>
    match c with
    | some v => (natBytes (bits / 8) v).map some
    | none => List.replicate (bits / 8) none

/-- The scale record of a channel. -/
def auxRecord (x : Aux) (j : Nat) : ScaleRec := scaleRec (x.scales.getD (if x.scales.length = 1 then 0 else j) [])

/-- The codebook of a channel. -/
def auxBook (x : Aux) (j : Nat) : List Int := x.books.getD (if x.books.length = 1 then 0 else j) []

/-- The bits of a stored output element; without a scale record an output stays FP32. -/
def auxOutBits (x : Aux) : Nat := if x.scales.isEmpty then 32 else fmtBits (auxRecord x 0).fmt

/-- An output row as it is stored, how many NaNs it held, and whether some record was invalid. -/
def auxStore (x : Aux) (ws : List (Option Word)) : Data × Nat × Bool :=
  let nans := (ws.filter fun o => o.any fun w => isNan32 w.toNat).length
  if x.scales.isEmpty then (packCodes 32 (ws.map fun o => o.map (·.toNat)), 0, false)
  else
    let cs := ws.mapIdx fun j o => o.bind fun w =>
      let r := auxRecord x j
      if isNan32 w.toNat || !r.valid then none else some (r.conv (auxBook x j) w.toNat).code
    (packCodes (auxOutBits x) cs, nans, (List.range ws.length).any fun j => !(auxRecord x j).valid)

end Sys2Proof.Machine
end

