-- ==== Sys2Proof/Machine/Quant.lean ====
section
/-! DEFINITION. Statistics, scale alarms and calibration (chapter 10): what the conversions of a step or a task gather, the
statistics ring, the alarm units, the calibration area and its proposals. -/

namespace Sys2Proof.Machine

/-! ### Gathering (R232, R233) -/

/-- The scale record of an element of a drained row: per tensor, or per channel. -/
def Drained.rec' (d : Drained) (j : Nat) : ScaleRec := scaleRec (d.recs.getD (if d.recs.length = 1 then 0 else j) [])

/-- The codebook of an element of a drained row. -/
def Drained.book (d : Drained) (j : Nat) : List Int := d.books.getD (if d.books.length = 1 then 0 else j) []

/-- The tensor that a drained row belongs to. -/
def Drained.tensor (d : Drained) : Nat := (d.rec' 0).tensor

/-- Gather the elements of one drained row; an invalid record gathers nothing. -/
def gatherRow (a : Gather) (d : Drained) : Gather :=
  d.xs.zipIdx.foldl (fun b e =>
    let r := d.rec' e.2
    if r.valid then b.add r (d.book e.2) (d.chan + e.2) e.1 else b) a

/-- Gather rows in their order. -/
def gatherAll (ds : List Drained) : Gather := ds.foldl gatherRow {}

/-- Put a drained row into its place: ascending rows, and within a row ascending channels. -/
def placeDrained (d : Drained) : List Drained → List Drained
  | [] => [d]
  | e :: t => if d.row < e.row ∨ d.row = e.row ∧ d.chan < e.chan then d :: e :: t else e :: placeDrained d t

/-- The rows of each tensor in the order of R233; tensors by ascending id. -/
def tensorRows (ds : List Drained) : List (List Drained) :=
  (those 4096 fun k => ds.any fun d => d.tensor == k).map fun k =>
    (ds.filter fun d => d.tensor == k).foldl (fun a d => placeDrained d a) []

/-! ### The statistics ring (R234, R235) -/

/-- The ring's length in records. -/
def State.ringLen (s : State) (p : Nat) : Nat := s.get F.QUANT_STAT_SIZE_SIZE p * 2048

/-- Write one record into a partition's ring, or drop it: in DDR5 a record at an even index fills a whole granule, and the one
after it is merged into that (R308). -/
def State.ringWrite (s : State) (p : Nat) (ws : List Word) : State :=
  let n := s.ringLen p
  let w := s.get F.QUANT_STAT_WR_WR p
  if n = 0 ∨ (w + 1) % n = s.get F.QUANT_STAT_RD_RD p then s.bump F.QUANT_STAT_CNT_DROP p
  else
    let a := s.get F.QUANT_STAT_BASE_BASE p * 65536 + 32 * w
    let whole := s.region a == .ddr && w % 2 == 0
    (s.writeData a (goodData (wordsBytes ws ++ List.replicate (if whole then 32 else 0) 0))).put F.QUANT_STAT_WR_WR ((w + 1) % n) p

/-- A statistics record (R234). -/
def statWords (r : ScaleRec) (task : Bool) (who : Nat) (g : Gather) : List Word :=
  [w32 (r.tensor + 2 ^ 12 * r.fmt + 2 ^ 16 * bit task), w32 who, w32 g.count, w32 g.sat, w32 g.under, w32 g.sse,
    w32 g.lo, w32 g.hi]

/-- The scale record that a tensor's rows share, as far as TENSOR, FMT and the flags go (R225). -/
def recOf (ds : List Drained) : ScaleRec := ((ds.head?).map fun d => d.rec' 0).getD {}

/-- The record of one tensor with STATS set. (DEDUCED: notes/assumptions 77.) -/
def State.statsOf (s : State) (p : Nat) (task : Bool) (who : Nat) (ds : List Drained) : State :=
  if (recOf ds).stats && s.on (if task then F.QUANT_STAT_CTRL_TASK_EN else F.QUANT_STAT_CTRL_STEP_EN) p then
    s.ringWrite p (statWords (recOf ds) task who (gatherAll ds))
  else s

/-- Owners that a ring or a calibration area may not overlap (R235). -/
def isRingFoe (o : Nat) : Bool := decide (o < ownStage) || (decide (ownRing ≤ o) && decide (o < ownRemote))

/-- Whether a ring or calibration area is placed as R235 requires. -/
def State.ringPlaced (s : State) (a : Area) : Bool :=
  a.len != 0 && (a.inSomeBeam || s.inDdr a) && !s.clashes a isRingFoe

/-- The ring's area. -/
def State.ringArea (s : State) (p : Nat) : Area :=
  ⟨ownRing + p, s.get F.QUANT_STAT_BASE_BASE p * 65536, s.get F.QUANT_STAT_SIZE_SIZE p * 65536⟩

/-- A write to QUANT_STAT_CTRLp (R235). -/
def State.writeStatCtrl (s : State) (p v : Nat) : State :=
  let old := s.reg R.QUANT_STAT_CTRL p
  let t := s.mergeReg R.QUANT_STAT_CTRL v p
  if old % 4 = 0 ∧ v % 4 ≠ 0 then
    if s.ringPlaced (s.ringArea p) then (t.put F.QUANT_STAT_WR_WR 0 p).put F.QUANT_STAT_RD_RD 0 p
    else s.putBit F.QUANT_STAT_CTRL_ERR true p
  else t

/-- QUANT_STAT_CTRL_WRITE (R235). -/
def execQuantStatCtrlWrite (part : Fin 8) (value : Word) (s : State) : Host.Outcome State Fault Refusal :=
  onDevice s fun s => s.writeStatCtrl part.val value.toNat

/-! ### Scale alarms (R236, R237) -/

/-- A scale alarm of a bobbin's token; a bobbin that is no longer `there` has no flag to set. -/
def State.raiseAlarm (s : State) (p id token : Nat) (there : Bool) : State :=
  let b := s.bob id
  let t := if there then s.setBob id { b with alarm := true, alarmed := b.alarmed ++ [token] } else s
  (t.bump F.QUANT_STAT_CNT_ALARM p).event 7 id

/-- Judge one alarm unit: the rows that a bobbin's token contributes to a tensor. -/
def State.judgeUnit (s : State) (p id token : Nat) (there : Bool) (ds : List Drained) : State :=
  if (recOf ds).alarm && (gatherAll ds).alarms (s.get F.QUANT_ALARM_FRACTION_FRAC p) then s.raiseAlarm p id token there else s

/-! ### Calibration (R239 to R241) -/

/-- The address of a channel record. -/
def State.calibAddr (s : State) (p i : Nat) : Nat := s.get F.QUANT_CALIB_BASE_BASE p * 65536 + 16 * i

/-- Write the MIN and MAX of a channel record. -/
def State.putRange (s : State) (p i lo hi : Nat) : State :=
  let x := s.part p
  let t := s.setPart p { x with calib := { x.calib with ranges := tset x.calib.ranges i (lo, hi) } }
  t.writeData (s.calibAddr p i) (goodData (wordsBytes [w32 lo, w32 hi]))

/-- One finite element of a channel. -/
def State.calibOne (s : State) (p i x : Nat) : State :=
  let r := tgetD (s.part p).calib.ranges i (0x7F800000, 0xFF800000)
  if finite32 x then
    s.putRange p i (if key32 x < key32 r.1 then x else r.1) (if key32 r.2 < key32 x then x else r.2)
  else s

/-- Gather the minimum and maximum of a tensor with CALIB set. -/
def State.calibOf (s : State) (p : Nat) (ds : List Drained) : State :=
  foldState (fun t (d : Drained) =>
    foldState (fun u (e : Option Word × Nat) =>
      match e.1 with
      | some w => if (d.rec' e.2).valid then u.calibOne p ((d.rec' e.2).off + d.chan + e.2) w.toNat else u
      | none => u) t d.xs.zipIdx) s (if (recOf ds).calib && (s.part p).calib.gathering then ds else [])

/-- The calibration area. (DEDUCED: notes/assumptions 79.) -/
def State.calibArea (s : State) (p : Nat) : Area :=
  ⟨ownCalib + p, s.get F.QUANT_CALIB_BASE_BASE p * 65536, s.get F.QUANT_CALIB_SIZE_SIZE p * 65536⟩

/-- A channel record at the start of gathering (R239). -/
def calibFresh : List Byte := wordsBytes [0x7F800000#32, 0xFF800000#32, 0#32, 0#32]

/-- Write every declared channel record afresh: in DDR5 the granules of four records that hold one, every other byte 0x00; in
SRAM each record (R239, R308). -/
def State.freshCalib (s : State) (p : Nat) (cs : List Nat) : State :=
  if s.region (s.calibAddr p 0) == .ddr then
    foldState (fun v (g : Nat) => v.writeData (s.calibAddr p (4 * g)) (goodData ((List.range 4).flatMap fun k =>
      if cs.contains (4 * g + k) then calibFresh else List.replicate 16 0))) s ((cs.map (· / 4)).eraseDups)
  else foldState (fun v (c : Nat) => v.writeData (s.calibAddr p c) (goodData calibFresh)) s cs

/-- Start gathering: every channel record that the image declares is written afresh. -/
def State.startCalib (s : State) (p : Nat) : State :=
  let x := s.part p
  let cs := (s.info p).channels.map (·.1)
  let t := s.setPart p { x with
    issued := x.issued.map fun k => { k with calib := false }
    calib := { gathering := true, ranges := cs.foldl (fun r c => tset r c (0x7F800000, 0xFF800000)) [] } }
  (t.freshCalib p cs).putBit F.QUANT_CALIB_CTRL_DONE false p

/-- The magnitude of a pattern. -/
def abs32 (x : Nat) : Nat := x % 2 ^ 31

/-- The greater of two patterns. -/
def max32 (a b : Nat) : Nat := if lt32 a b then b else a

/-- A proposed scale below 2^-126 is replaced by 2^-126 (R241). -/
def floorSigma (x : Nat) : Nat := if lt32 x 0x00800000 then 0x00800000 else x

/-- The largest finite value of a float format, as binary32. -/
def fmtLargest (fmt : Nat) : Nat :=
  match (fmtFloat fmt).val (fmtFloat fmt).maxBits with
  | .fin _ m e => round32 m e
  | _ => 0

/-- The proposal of R241: sigma, zero point, and the FLAT and EMPTY bits. -/
def propose (fmt lo hi : Nat) : Nat × Int × Nat :=
  if !finite32 lo || !finite32 hi then (0, 0, 2)
  else if lo = hi ∨ (abs32 lo = 0 ∧ abs32 hi = 0) then
    let v := hi
    let sigma := if abs32 v = 0 then 0x3F800000 else abs32 v
    (floorSigma sigma, if fmt = 1 ∧ lt32 v 0 = true then 1 else 0, 1)
  else if fmt ≤ 2 then
    let l := if lt32 lo 0 then lo else 0
    let h := max32 hi 0
    let q := codeRange fmt
    let sigma := floorSigma (mul32 (sub32 h l) (recipExact (int32 (q.2 - q.1))))
    (sigma, max q.1 (min q.2 (q.1 - rneInt (mul32 l (rcp' sigma)))), 0)
  else if fmt ≤ 4 then (floorSigma (mul32 (max32 (abs32 lo) (abs32 hi)) (recipExact (int32 2047))), 0, 0)
  else if fmt ≤ 8 then (floorSigma (mul32 (max32 (abs32 lo) (abs32 hi)) (recipExact (fmtLargest fmt))), 0, 0)
  else (0x3F800000, 0, 0)

/-- Write one channel's proposal, and count it. -/
def State.proposeOne (s : State) (p i fmt : Nat) : State :=
  let r := tgetD (s.part p).calib.ranges i (0x7F800000, 0xFF800000)
  let q := propose fmt r.1 r.2
  let t := s.writeData (s.calibAddr p i) (goodData (wordsBytes
    [w32 r.1, w32 r.2, w32 q.1, w32 (unsigned 16 q.2.1 + 2 ^ 16 * q.2.2)]))
  if q.2.2 = 1 then t.bump F.QUANT_CALIB_CNT_FLAT p else if q.2.2 = 2 then t.bump F.QUANT_CALIB_CNT_EMPTY p else t

/-- Stop gathering: the proposals are written and DONE is set. -/
def State.stopCalib (s : State) (p : Nat) : State :=
  let t := (s.put F.QUANT_CALIB_CNT_FLAT 0 p).put F.QUANT_CALIB_CNT_EMPTY 0 p
  let u := foldState (fun v (c : Nat × Nat) => v.proposeOne p c.1 c.2) t (s.info p).channels
  let x := u.part p
  (u.setPart p { x with calib := {} }).putBit F.QUANT_CALIB_CTRL_DONE true p

/-- What a batch-step boundary applies (R239, R240). (DEDUCED: notes/assumptions 78.) -/
def State.calibBoundary (s : State) (p : Nat) : State :=
  let x := s.part p
  let t := if x.calib.stopDue && x.calib.gathering then s.stopCalib p else s
  if x.calib.startDue then t.startCalib p else t

/-- The end of a partition's job stops gathering (R240). -/
def State.calibJobEnd (s : State) (p : Nat) : State :=
  let t := if (s.part p).calib.gathering then s.stopCalib p else s
  t.setPart p { t.part p with calib := {} }

/-- Whether calibration can start (R239). -/
def State.calibOk (s : State) (p : Nat) : Bool :=
  let j := s.get F.SCHED_JOB_STATE p
  s.hasPart p && j != 0 && decide (s.get F.QUANT_CALIB_NEED_CHANNELS p ≤ s.get F.QUANT_CALIB_SIZE_SIZE p * 4096) &&
    s.ringPlaced (s.calibArea p)

/-- A write to QUANT_CALIB_CTRLp (R239, R240). -/
def State.writeCalibCtrl (s : State) (p v : Nat) : State :=
  let old := s.on F.QUANT_CALIB_CTRL_EN p
  let t := s.mergeReg R.QUANT_CALIB_CTRL v p
  let x := s.part p
  if !old && bitAt v 0 then
    if s.calibOk p then t.setPart p { x with calib := { x.calib with startDue := true } }
    else s.putBit F.QUANT_CALIB_CTRL_ERR true p
  else if old && !bitAt v 0 then t.setPart p { x with calib := { x.calib with startDue := false, stopDue := true } }
  else t

/-- QUANT_CALIB_EN_SET (R239). -/
def execQuantCalibEnSet (part : Fin 8) (s : State) : Host.Outcome State Fault Refusal :=
  onDevice s fun s => s.writeCalibCtrl part.val 1

/-- QUANT_CALIB_EN_CLEAR (R240). -/
def execQuantCalibEnClear (part : Fin 8) (s : State) : Host.Outcome State Fault Refusal :=
  onDevice s fun s => s.writeCalibCtrl part.val 0

end Sys2Proof.Machine
end

