-- ==== Sys2Proof/Machine/Learning.lean ====
section
/-! DEFINITION. Learn state (chapter 11): the learnable set, mini-batches and their accumulation, the loss and the
optimiser's arithmetic. -/

namespace Sys2Proof.Machine

/-- The pattern of 1.0. -/
def one32 : Nat := 0x3F800000

/-- The binary32 pattern of a BF16 value. -/
def bf16Up (x : BitVec 16) : Nat := x.toNat * 2 ^ 16

/-- A binary32 pattern stored as BF16: a NaN is written as poison, and no infinity is stored (R176, R223). -/
def bf16Of (x : Nat) : Option (BitVec 16) := if isNan32 x then none else some (BitVec.ofNat 16 (fmtBF16.store (val32 x)))

/-! ### The learnable set (R244, R246) -/

/-- Whether a layer's weights are learned themselves: BF16 or FP16. -/
def floatLayer (l : Config.LearnLayer) : Bool := l.fmt == 7 || l.fmt == 8

/-- The binary32 value of a stored float weight. -/
def weightUp (fmt x : Nat) : Nat := fmtFP32.round ((fmtFloat fmt).val x)

/-- The master copy of a layer at a job's start (R243). -/
def masterOf (l : Config.LearnLayer) : LearnPar :=
  { w := if floatLayer l then l.weights.map (weightUp l.fmt) else []
    b := l.biases, s := l.sigmas, e := l.entries.map int32 }

/-- Every number of a layer set to zero; the gradient keeps a place for each weight. -/
def zeroOf (l : Config.LearnLayer) : LearnPar :=
  { w := List.replicate (l.ins * l.outs) 0, b := l.biases.map fun _ => 0, s := l.sigmas.map fun _ => 0
    e := l.entries.map fun _ => 0 }

/-- The working copy of a layer (R255): weights in their format, entries as 12-bit codes, and with each scale its reciprocal. -/
def workingOf (l : Config.LearnLayer) (x : LearnPar) : LearnPar :=
  { w := x.w.map fun v => (fmtFloat l.fmt).store (val32 v), b := x.b, s := x.s, r := x.s.map recipExact
    e := x.e.map fun v => unsigned 12 (max (-2048) (min 2047 (rneInt v))) }

/-- The tensors of a working copy, as an image's programs take them. -/
def LearnPar.lists (x : LearnPar) : List (List Nat) := [x.w, x.b, x.s, x.r, x.e]

/-- The copy that parts and inference samples use: the learnable tensors as the image holds them (R245). -/
def imageCopy (im : Config.Image) : List LearnPar := im.learn.map fun l => workingOf l (masterOf l)

/-- A layer of an image with its learnable tensors taken from a working copy (R257). -/
def layerWith (l : Config.LearnLayer) (x : LearnPar) : Config.LearnLayer :=
  { l with weights := if floatLayer l then x.w else l.weights, biases := x.b, sigmas := x.s
           entries := x.e.map fun v => signed 12 v }

/-- The learnable parameters of a partition's image. -/
def State.learnParams (s : State) (p : Nat) : Nat :=
  ((s.info p).learn.map fun l =>
    (if floatLayer l then l.ins * l.outs else 0) + l.biases.length +
      (if s.on F.SCHED_LEARN_CTRL_SCALES p then l.sigmas.length else 0) +
      (if s.on F.SCHED_LEARN_CTRL_ENTRIES p then l.entries.length else 0)).sum

/-- The mini-batch size; 0 acts as 1. -/
def State.batchSize (s : State) (p : Nat) : Nat := max 1 (s.get F.SCHED_LEARN_CTRL_BATCH p)

/-- The units that the learn area needs (R246); 0 without a learnable set. (DEDUCED: notes/assumptions 87.) -/
def State.learnNeed (s : State) (p : Nat) : Nat :=
  let ls := (s.info p).learn
  if ls.isEmpty then 0
  else ceilDiv (4 * (7 * s.learnParams p + s.batchSize p * (ls.map fun l => l.ins + l.outs).sum)) 65536

/-- Change the learn state of a partition. -/
def State.mapLearn (s : State) (p : Nat) (f : Learn → Learn) : State :=
  let x := s.part p
  s.setPart p { x with learn := f x.learn }

/-- Whether a LEARN job runs or is pre-empted. -/
def State.learns (s : State) (p : Nat) : Bool := (s.part p).learning && s.get F.SCHED_JOB_STATE p != 0

/-- A LEARN job is started (R243): samples accepted from now on join its mini-batches. -/
def State.startLearn (s : State) (p : Nat) : State :=
  let ls := (s.info p).learn
  let m := ls.map masterOf
  let z := ls.map fun l => { zeroOf l with w := if floatLayer l then (zeroOf l).w else [] }
  let t := s.mapLearn p fun _ =>
    { master := m, m := z, v := z, grad := ls.map zeroOf, working := (ls.zip m).map fun e => workingOf e.1 e.2 }
  (t.put F.SCHED_LEARN_STEPS_STEPS 0 p).putBit F.SCHED_LEARN_CTRL_DIVERGED false p

/-- The learn state is discarded (R258). -/
def State.endLearn (s : State) (p : Nat) : State :=
  (s.mapLearn p fun _ => {}).putBit F.SCHED_LEARN_CTRL_ACTIVE false p

/-! ### Loss and gradient of the logits (R249) -/

/-- The gradient of logit `c` for label `y`. (DEDUCED: notes/assumptions 80.) -/
def logitGrad (ls : List Nat) (y c : Nat) : Nat :=
  let p := mul32 (exp2' (sub32 (ls.getD c 0) (argMax ls).2)) (rcp' (headSum ls))
  if c = y then sub32 p one32 else p

/-- The loss for label `y`. -/
def logitLoss (ls : List Nat) (y : Nat) : Nat :=
  sub32 (log2' (headSum ls)) (sub32 (ls.getD y 0) (argMax ls).2)

/-! ### The backward pass (R250) -/

/-- The least integer e with m × 2^x ≤ 127 × 2^e, for m above 0. -/
def rowExp (m : Nat) (x : Int) : Int :=
  let l := Nat.log2 m
  if 64 * m ≤ 127 * 2 ^ l then x + l - 6 else x + l - 5

/-- The exponent of a row's scale s = 2^e; a row of zeros takes s = 1. -/
def scaleExp (ds : List Nat) : Int :=
  let m := ds.foldl (fun a d => if lt32 (a % 2 ^ 31) (d % 2 ^ 31) then d % 2 ^ 31 else a) 0
  match val32 m with
  | .fin _ k e => if k = 0 then 0 else rowExp k e
  | _ => 0

/-- rne_int(d / 2^e) of a finite value. -/
def codeAt (d : Nat) (e : Int) : Int :=
  match val32 d with
  | .fin n m g =>
    let k : Nat := if e ≤ g then m * 2 ^ (g - e).toNat else rneDiv m (2 ^ (e - g).toNat)
    if n then -(k : Int) else k
  | _ => 0

/-- The sum of products of a float pass in chunks of 64 positions, in the order of R157 or the trees of R293; `none` where FLOAT is
raised. -/
def floatRow (tree : Bool) : Nat → Nat → List (FpVal × FpVal) → Option Nat
  | 0, acc, _ => some acc
  | n + 1, acc, ts =>
    let r := floatPass tree acc (ts.take 64)
    if r.2 then none else if ts.length ≤ 64 then some r.1 else floatRow tree n r.1 (ts.drop 64)

/-- The gradient that a layer hands down for its input `i`: a weft-wise read of the weights that the forward pass used, with the
output gradient streamed (R250); a NaN among it is written as poison (R176). No scale fits an infinite element of a row that a codebook
layer streams: what that layer hands down is a free value. (DESIGN CHOICE: notes/assumptions 224.) -/
def gradDown (l : Config.LearnLayer) (x : LearnPar) (tree : Bool) (ds : List Nat) (i : Nat) : Option Nat :=
  if ds.any isNan32 then none
  else if floatLayer l then
    let f := fmtFloat l.fmt
    floatRow tree ds.length 0 (ds.mapIdx fun j d => (f.val (f.store (val32 d)), f.val (x.w.getD (i * l.outs + j) 0)))
  else if ds.any fun d => !finite32 d then some (Config.wideGradient ds i).toNat
  else
    let e := scaleExp ds
    let n := if l.fmt = 3 then 16 else 256
    let own := decide (n < l.entries.length)
    let sum := (ds.mapIdx fun j d => codeAt d e * signed 12 (x.e.getD ((if own then n * j else 0) + l.weights.getD (i * l.outs + j) 0) 0)).sum
    let sigma := if x.s.length = 1 then x.s.headD 0 else (Config.backSigma x.s i).toNat
    let scale := match val32 sigma with
      | .fin n m g => round32 (FpVal.sig (.fin n m g)) (g + e)
      | _ => sigma
    some (mul32 (int32 sum) scale)

/-- The output gradients of the learnable layers, from the top one's down: each layer below takes the gradient that comes down
through its backward epilogue; `none` where a value is poisoned. `xs` are the layers' inputs. -/
def gradients (im : Config.Image) (sig : Nat × Nat) (copy : List LearnPar) (xs : List (List Word)) :
    Nat → Option (List Nat) → List (Option (List Nat))
  | 0, _ => []
  | n + 1, dy =>
    let l := im.learn.getD n {}
    let down := dy.bind fun ds =>
      allSome ((List.range l.ins).map fun i => gradDown l (copy.getD n {}) (sig.1 == 2) ds i)
    let next := down.map fun g => (Config.backEpilogue im sig (n - 1) (copy.getD (n - 1) {}).lists (g.map w32) (xs.getD (n - 1) [])
      (xs.getD n [])).map (·.toNat)
    gradients im sig copy xs n next ++ [dy]

/-! ### Accumulation (R247, R248, R251, R252) -/

/-- Add one layer's outer products: ascending input, then ascending output; then the biases. -/
def LearnPar.gather (g : LearnPar) (f : List (BitVec 16) × List (BitVec 16)) : LearnPar :=
  let ps := f.1.flatMap fun x => f.2.map fun d => (bf16Up x, bf16Up d)
  { g with
    w := List.zipWith (fun a (q : Nat × Nat) => fma32 q.1 q.2 a) g.w ps
    b := List.zipWith (fun a d => add32 a (bf16Up d)) g.b f.2 }

/-- Add a contributing sample. -/
def Learn.add (l : Learn) (k : Parked) : Learn :=
  if k.gives then
    { l with grad := List.zipWith LearnPar.gather l.grad k.layers, loss := add32 l.loss k.loss }
  else l

/-- A mini-batch is complete: its loss is shown and its optimiser step is due; once learning has diverged, the next one
follows at once (R254, R256). -/
def State.batchFull (s : State) (p : Nat) : State :=
  let t := s.put F.SCHED_LEARN_LOSS_LOSS (s.part p).learn.loss p
  if t.on F.SCHED_LEARN_CTRL_DIVERGED p then
    t.mapLearn p fun l => { l with batch := l.batch.drop (s.batchSize p), added := 0, loss := 0 }
  else t.mapLearn p fun l => { l with due := true, held := false }

/-- The bytes that a sample's parked factors take in the learn area. -/
def Parked.bytes (k : Parked) : Nat := 4 * (k.layers.map fun f => f.1.length + f.2.length).sum

/-- Add or skip, in sequence order, what is parked for the present mini-batch, at most `n` samples; factors that the learn area
gives back poisoned end the contribution (R251). -/
def State.gatherNext (s : State) (p : Nat) : Nat → State
  | 0 => s
  | n + 1 =>
    let l := (s.part p).learn
    if l.due || l.running then s
    else
      match l.batch[l.added]? with
      | none => s
      | some place =>
        match l.parked.find? (·.place == place) with
        | none => s
        | some k =>
          let r := s.getItem (s.learnArea p) (3 * place) (if k.gives then k.bytes else 0)
          let gives := k.gives && r.2 && !s.on F.SCHED_LEARN_CTRL_DIVERGED p
          let t := r.1.mapLearn p fun x =>
            { x.add { k with gives := gives } with
              parked := x.parked.filter (·.place != place), added := x.added + 1 }
          let u := if gives then t else t.bump F.SCHED_LEARN_CNT_SKIP p
          State.gatherNext (if l.added + 1 = s.batchSize p then u.batchFull p else u) p n

/-- A learning sample has finished: its factors are parked in the learn area (R251, R308), and accumulation goes as far as it
can. -/
def State.parkLearn (s : State) (p : Nat) (k : Parked) : State :=
  let t := (s.mapLearn p fun l => { l with parked := l.parked ++ [k] }).putItem (s.learnArea p) (3 * k.place)
    k.bytes
  t.gatherNext p (t.part p).learn.batch.length

/-- Whether a learning sample may run: it belongs to the present mini-batch, whose optimiser step is still to come (R247);
after DIVERGED nothing is held back. -/
def State.mayLearn (s : State) (p place : Nat) : Bool :=
  s.on F.SCHED_LEARN_CTRL_DIVERGED p || ((s.part p).learn.batch.take (s.batchSize p)).contains place

/-! ### The optimiser's arithmetic (R255, R256) -/

/-- The hyperparameters of a step: Adam or SGD, learned scales and entries, and the patterns of R255. -/
structure Hyper where
  adam    : Bool
  scales  : Bool
  entries : Bool
  lr      : Nat
  beta1   : Nat
  beta2   : Nat
  eps     : Nat
  deriving DecidableEq, Repr

/-- The hyperparameters in force. -/
def State.hyper (s : State) (p : Nat) : Hyper :=
  { adam := s.on F.SCHED_LEARN_CTRL_OPT p, scales := s.on F.SCHED_LEARN_CTRL_SCALES p
    entries := s.on F.SCHED_LEARN_CTRL_ENTRIES p, lr := s.get F.SCHED_LEARN_RATE_LR p
    beta1 := s.get F.SCHED_LEARN_BETA1_BETA1 p, beta2 := s.get F.SCHED_LEARN_BETA2_BETA2 p
    eps := s.get F.SCHED_LEARN_EPS_EPS p }

/-- The hyperparameters as plain numbers, and back. -/
def Hyper.list (h : Hyper) : List Nat := [bit h.adam, bit h.scales, bit h.entries, h.lr, h.beta1, h.beta2, h.eps]

/-- The hyperparameters that a list of numbers holds. -/
def hyperOf (l : List Nat) : Hyper :=
  let n := fun (i : Nat) => l.getD i 0
  { adam := n 0 != 0, scales := n 1 != 0, entries := n 2 != 0, lr := n 3, beta1 := n 4, beta2 := n 5, eps := n 6 }

/-- One parameter's step: the new master, first and second moment. -/
def Hyper.one (h : Hyper) (b1 b2 : Nat) (w m v g : Nat) : Nat × Nat × Nat :=
  if h.adam then
    let m' := add32 (mul32 h.beta1 m) (mul32 (sub32 one32 h.beta1) g)
    let v' := add32 (mul32 h.beta2 v) (mul32 (sub32 one32 h.beta2) (mul32 g g))
    let mh := mul32 m' (rcp' (sub32 one32 b1))
    let vh := mul32 v' (rcp' (sub32 one32 b2))
    let r := if lt32 0 vh then mul32 vh (rsqrt' vh) else 0
    (sub32 w (mul32 (mul32 h.lr mh) (rcp' (add32 r h.eps))), m', v')
  else
    let m' := add32 (mul32 h.beta1 m) g
    (sub32 w (mul32 h.lr m'), m', v)

/-- A list of parameters stepped together. -/
def Hyper.list1 (h : Hyper) (b1 b2 : Nat) (w m v g : List Nat) : List (Nat × Nat × Nat) :=
  List.zipWith (fun (a : Nat × Nat) (c : Nat × Nat) => h.one b1 b2 a.1 a.2 c.1 c.2) (w.zip m) (v.zip g)

/-- The channel's entry of a list per tensor or per channel. -/
def perChan (l : List Nat) (j : Nat) : Nat := l.getD (if l.length = 1 then 0 else j) 0

/-- The sum over a codebook layer's weights of a product of the gradient, ascending input, then output.
(DESIGN CHOICE: notes/assumptions 82.) -/
def bookSum (l : Config.LearnLayer) (g : LearnPar) (pick : Nat → Nat → Bool) (f : Nat → Nat → Nat) : Nat :=
  (g.w.zipIdx).foldl (fun a (e : Nat × Nat) =>
    let j := e.2 % l.outs
    let q := l.weights.getD e.2 0
    if pick j q then add32 a (f j e.1) else a) 0

/-- The binary32 value of a learned entry. -/
def entryUp (x : Nat) : Nat := int32 (signed 12 x)

/-- The entries per book of a layer, and whether each channel has its own. -/
def bookSize (l : Config.LearnLayer) : Nat := if l.fmt = 3 then 16 else 256

/-- The gradient of the learned entries: sigma times the sum over the weights with that index. -/
def entryGrads (l : Config.LearnLayer) (g wk : LearnPar) : List Nat :=
  (List.range l.entries.length).map fun k =>
    let n := bookSize l
    let own := decide (n < l.entries.length)
    let pick := fun (j q : Nat) => q == k % n && (!own || j == k / n)
    if wk.s.length = 1 then mul32 (perChan wk.s 0) (bookSum l g pick fun _ x => x)
    else if own then mul32 (perChan wk.s (k / n)) (bookSum l g pick fun _ x => x)
    else bookSum l g pick fun j x => mul32 (perChan wk.s j) x

/-- The gradient of the codebook scales: the sum of the gradient times the entry. (DEDUCED: notes/assumptions 83.) -/
def scaleGrads (l : Config.LearnLayer) (g wk : LearnPar) : List Nat :=
  (List.range l.sigmas.length).map fun c =>
    let n := bookSize l
    let own := decide (n < l.entries.length)
    (g.w.zipIdx).foldl (fun a (e : Nat × Nat) =>
      let j := e.2 % l.outs
      let q := l.weights.getD e.2 0
      if l.sigmas.length = 1 ∨ j = c then add32 a (mul32 e.1 (entryUp (wk.e.getD (if own then n * j + q else q) 0)))
      else a) 0

/-- One layer's step: master, first and second moment. -/
def Hyper.layer (h : Hyper) (b1 b2 : Nat) (l : Config.LearnLayer) (w m v g wk : LearnPar) : LearnPar × LearnPar × LearnPar :=
  let book := !floatLayer l
  let rw' := h.list1 b1 b2 w.w m.w v.w g.w
  let rb := h.list1 b1 b2 w.b m.b v.b g.b
  let rs := h.list1 b1 b2 w.s m.s v.s (scaleGrads l g wk)
  let re := h.list1 b1 b2 w.e m.e v.e (entryGrads l g wk)
  let useS := h.scales && book
  let useE := h.entries && book
  let pick := fun (f : Nat × Nat × Nat → Nat) (old : LearnPar) => ({
    w := rw'.map f, b := rb.map f, s := if useS then rs.map f else old.s, e := if useE then re.map f else old.e } : LearnPar)
  (pick (·.1) w, pick (·.2.1) m, pick (·.2.2) v)

/-- Whether every value of a layer is finite. -/
def LearnPar.finite (x : LearnPar) : Bool := (x.w ++ x.b ++ x.s ++ x.e).all finite32

/-- What an optimiser step computes from the unflipped copies. (DEDUCED: notes/assumptions 88.) -/
def Learn.step (l : Learn) (layers : List Config.LearnLayer) : Learn :=
  let h := hyperOf l.hyper
  let b1 := if h.adam then mul32 l.b1 h.beta1 else l.b1
  let b2 := if h.adam then mul32 l.b2 h.beta2 else l.b2
  let r := (List.range layers.length).map fun i =>
    h.layer b1 b2 (layers.getD i {}) (l.master.getD i {}) (l.m.getD i {}) (l.v.getD i {}) (l.grad.getD i {})
      (l.working.getD i {})
  let master := r.map (·.1)
  { l with
    master := master, m := r.map (·.2.1), v := r.map (·.2.2), b1 := b1, b2 := b2
    grad := layers.map zeroOf
    working := (layers.zip master).map fun e => workingOf e.1 e.2 }

/-- Whether a step's result stands (R256): everything finite, no scale below 2^-126. -/
def Learn.sound (l : Learn) : Bool :=
  (l.master ++ l.m ++ l.v).all (·.finite) && l.master.all fun x => x.s.all fun q => !lt32 q 0x00800000

/-- The parameters of a layer in one list: the order in which a commit takes them.
(DESIGN CHOICE: notes/assumptions 81.) -/
def LearnPar.flat (x : LearnPar) : List Nat := x.w ++ x.b ++ x.s ++ x.e

/-! ### The registers (R246, R256) -/

/-- Whether a hyperparameter's value is in range, by the register's offset. -/
def hyperOk (offset v : Nat) : Bool :=
  if offset = 0x04 then finite32 v && !lt32 v 0
  else if offset = 0x08 ∨ offset = 0x0C then finite32 v && !lt32 v 0 && lt32 v one32
  else normal32 v

/-- Show SCHED_LEARN_NEED. -/
def State.showNeed (s : State) (p : Nat) : State := s.put F.SCHED_LEARN_NEED_NEED (s.learnNeed p) p

/-- A write ignored with ERR. -/
def State.learnErr (s : State) (p : Nat) : State := s.putBit F.SCHED_LEARN_CTRL_ERR true p

/-- A write to SCHED_LEARN_CTRL: while a LEARN job runs, a changed BATCH is ignored and sets ERR; ERR is cleared by 1.
(DEDUCED: notes/assumptions 84.) -/
def State.writeLearnCtrl (s : State) (p v : Nat) : State :=
  let batch := s.get F.SCHED_LEARN_CTRL_BATCH p
  let t := s.mergeReg R.SCHED_LEARN_CTRL v p
  State.showNeed (if s.learns p && bitsOf v 16 9 != batch then (t.put F.SCHED_LEARN_CTRL_BATCH batch p).learnErr p else t) p

/-- A write to a learning register of a partition, by its offset. -/
def State.writeLearn (s : State) (p offset v : Nat) : State :=
  if offset = 0x00 then s.writeLearnCtrl p v
  else if offset = 0x14 then if s.learns p then s.learnErr p else s.mergeReg R.SCHED_LEARN_BASE v p
  else if offset = 0x18 then if s.learns p then s.learnErr p else s.mergeReg R.SCHED_LEARN_SIZE v p
  else if offset = 0x04 then if hyperOk offset v then s.setReg R.SCHED_LEARN_RATE v p else s.learnErr p
  else if offset = 0x08 then if hyperOk offset v then s.setReg R.SCHED_LEARN_BETA1 v p else s.learnErr p
  else if offset = 0x0C then if hyperOk offset v then s.setReg R.SCHED_LEARN_BETA2 v p else s.learnErr p
  else if offset = 0x10 then if hyperOk offset v then s.setReg R.SCHED_LEARN_EPS v p else s.learnErr p
  else s

/-- SCHED_LEARN_HYPER_WRITE (R246, R256). -/
def execSchedLearnHyperWrite (part : Fin 8) (offset : Nat) (value : Word) (s : State) : Host.Outcome State Fault Refusal :=
  onDevice s fun s => s.writeLearn part.val offset value.toNat

end Sys2Proof.Machine
end

