-- ==== Sys2Proof/Machine/Samples.lean ====
section
/-! DEFINITION. Sample intake (chapter 06): the header and its checks, decoding, augmentation, sample bobbins, and the
records in sequence order. -/

namespace Sys2Proof.Machine

/-! ### The header (R141) -/

/-- A field of a sample header. -/
def Sample.h (x : Sample) (word lo width : Nat) : Nat := bitsOf (x.header.getD word 0).toNat lo width

/-- CODING: 1 for JPEG. -/
def Sample.jpeg (x : Sample) : Bool := x.h 0 0 8 == 1
/-- DT. -/
def Sample.dt (x : Sample) : Nat := x.h 0 8 6
/-- PARTITION. -/
def Sample.part (x : Sample) : Nat := x.h 0 16 3
/-- MODE 1: learning. -/
def Sample.learning (x : Sample) : Bool := x.h 0 24 2 == 1
/-- SAMPLE_ID. -/
def Sample.id (x : Sample) : Nat := x.h 1 0 32
/-- WIDTH. -/
def Sample.width (x : Sample) : Nat := x.h 2 0 17
/-- HEIGHT. -/
def Sample.height (x : Sample) : Nat := x.h 3 0 17
/-- STREAM_LEN. -/
def Sample.streamLen (x : Sample) : Nat := x.h 4 0 32
/-- LABEL. -/
def Sample.label (x : Sample) : Nat := x.h 5 0 8
/-- The width after crop. -/
def Sample.cropW (x : Sample) : Nat := if x.h 7 0 16 = 0 then x.width - x.h 6 0 16 else x.h 7 0 16
/-- The height after crop. -/
def Sample.cropH (x : Sample) : Nat := if x.h 7 16 16 = 0 then x.height - x.h 6 16 16 else x.h 7 16 16

/-- The components of a sample for its buffer need (R142). -/
def Sample.comps (x : Sample) : Nat := if x.jpeg then (if x.grey then 1 else 3) else if x.dt == 0x24 then 3 else 1

/-- Whether a JPEG is grey, as its bytes say once they hold its frame; before that a free value of the sample says what the device
takes it for. (DESIGN CHOICE: notes/assumptions 54.) -/
def greyJpeg (place : Nat) (header : List Word) (bytes : List Byte) : Bool :=
  match Config.jpegFrame bytes with
  | some f => f.sampling.length == 1
  | none => Config.greyFile place header

/-- The buffer need (R142). -/
def Sample.need (x : Sample) : Nat := roundUp x.streamLen 64 + roundUp (x.width * x.height * x.comps * 2) 64

/-- Check 3 of R142. -/
def Sample.fieldsOk (x : Sample) : Bool :=
  (if x.jpeg then x.dt == 0 else x.h 0 0 8 == 0 && [0x2A, 0x2B, 0x2C, 0x2E, 0x24].contains x.dt) &&
    x.h 0 14 2 == 0 && x.h 0 19 5 == 0 && x.h 0 26 6 == 0 && decide (x.h 0 24 2 ≤ 1) &&
    decide (1 ≤ x.width) && decide (x.width ≤ 65536) && x.h 2 17 15 == 0 &&
    decide (1 ≤ x.height) && decide (x.height ≤ 65536) && x.h 3 17 15 == 0 && x.streamLen != 0 &&
    (decide (x.label < 16) || (x.label == 0xFF && !x.learning)) && x.h 5 10 6 == 0 && x.h 10 0 32 == 0 &&
    decide (1 ≤ x.cropW) && decide (1 ≤ x.cropH) && decide (x.h 6 0 16 + x.cropW ≤ x.width) &&
    decide (x.h 6 16 16 + x.cropH ≤ x.height)

/-! ### Records in order (R143, R150, R151) -/

/-- Change the sample with a place in the submission order. -/
def State.mapSample (s : State) (place : Nat) (f : Sample → Sample) : State :=
  { s with intake := { s.intake with samples := replaceFirst (·.place == place) f s.intake.samples } }

/-- The outstanding sample with a place. -/
def State.sample? (s : State) (place : Nat) : Option Sample := s.intake.samples.find? (·.place == place)

/-- The outstanding sample with a sequence number. -/
def State.numbered (s : State) (seq : Nat) : Option Sample := s.intake.samples.find? (·.seq == some seq)

/-- The slot of the model of a partition's job, or 0. -/
def State.jobSlot (s : State) (p : Nat) : Nat := ((s.jobModel p).bind (·.slot)).getD 0

/-- A sample's record (R150); `lo` is its sequence number or all ones. A STANDBY device sends no verdict records (R402).
SLOT is that of the partition's job when the record is generated. (DEDUCED: notes/assumptions 57. DESIGN CHOICE:
notes/assumptions 220.) -/
def State.sampleRecord (s : State) (x : Sample) (st : Status) (lo : Nat) : State :=
  if s.role = 2 then s
  else
    let good := st == .done || st == .truncated
    let f : RecFlags :=
      { poison := st == .poisoned, scaleAlarm := x.head.alarm, truncated := st == .truncated, sample := true }
    s.record x.id (x.usedBob + 2 ^ 12 * s.jobSlot x.part + 2 ^ 24 * (if good then x.head.cls else 0xFF)) lo st.code
      (if good then x.head.conf else 0) f x.time x.usedBob

/-- Count a sample's status in SAMPLE_CNT. -/
def State.countSample (s : State) (st : Status) : State :=
  match st with
  | .overflow => s.bump F.SAMPLE_CNT_OVERFLOW
  | .timeout => s.bump F.SAMPLE_CNT_TIMEOUT
  | .truncated => s.bump F.SAMPLE_CNT_TRUNCATED
  | .crcFail | .badParam | .noModel | .badState => s.bump F.SAMPLE_CNT_REJECT
  | _ => s

/-- The status that a code names, among those a sample takes. -/
def sampleStatus (code : Nat) : Status :=
  if code = 0x00 then .done else if code = 0x12 then .truncated else if code = 0x0A then .timeout
  else if code = 0x04 then .badParam else if code = 0x09 then .poisoned else if code = 0x0F then .cancelled
  else if code = 0x0B then .fenced else if code = 0x0C then .overflow else if code = 0x10 then .noModel else .badState

/-- Generate the records that are due, in sequence order; each returns its credit. -/
def State.recordsDue (s : State) : Nat → State
  | 0 => s
  | n + 1 =>
    match s.numbered s.intake.nextOut with
    | none => s
    | some x =>
      match x.status with
      | none => s
      | some code =>
        let t := s.sampleRecord x (sampleStatus code) s.intake.nextOut
        let u := { t with intake := { t.intake with
          samples := removeFirst (·.place == x.place) t.intake.samples, nextOut := (t.intake.nextOut + 1) % 2 ^ 32 } }
        (u.bumpWrap F.SAMPLE_CREDITS_AVAIL).recordsDue n

/-- Free JPEG decoders go to the accepted JPEG samples in sequence order, the lower-numbered first (R145). -/
def State.giveDecoder (s : State) (d : Nat) : State :=
  if s.intake.samples.any fun x => x.decoder == some d then s
  else
    match s.intake.samples.find? fun x => x.jpeg && x.stage == .stream && x.decoder.isNone && x.status.isNone with
    | some x => s.mapSample x.place fun y => { y with decoder := some d }
    | none => s

/-- Both decoders. -/
def State.giveDecoders (s : State) : State := (s.giveDecoder 0).giveDecoder 1

/-- A sample's status becomes known: its bobbin and decoder are given up, its mini-batch hears of it, and the records that
are due go out. An alarm of its bobbin stands, whatever the status (R150, R237). -/
def State.sampleDone (s : State) (place : Nat) (st : Status) (head : Head := {}) : State :=
  match s.sample? place with
  | none => s
  | some x =>
    let alarm := head.alarm || x.bobbin.any fun id => (s.bob id).alarm
    let t := (s.countSample st).mapSample place fun y =>
      { y with status := some st.code, head := { head with alarm := alarm }, time := s.time.now, stage := .done, decoder := none, lines := []
               stream := [], bobbin := none }
    let u := match x.bobbin with
      | some id => (t.endCompute id).freeBob id
      | none => t
    let v := if st != .done && (u.part x.part).learn.batch.contains place then
        u.parkLearn x.part { place := place, gives := false } else u
    (v.recordsDue v.intake.samples.length).giveDecoders

/-! ### Reception (R140, R142, R146) -/

/-- The free bytes of the sample buffer. -/
def State.sampleSpace (s : State) : Nat :=
  s.sampleArea.len - ((s.intake.samples.filter (·.status.isNone)).map (·.size)).sum

/-- Whether the sample buffer is placed as R152 requires. -/
def State.samplePlaced (s : State) : Bool :=
  (s.sampleArea.inSomeBeam || s.inDdr s.sampleArea) && !s.clashes s.sampleArea isLineOwner

/-- Checks 3 to 7 of R142; the flag marks check 7's own count in DET_TDC. -/
def State.sampleRefusal (s : State) (x : Sample) : Option Status × Bool :=
  let j := s.get F.SCHED_JOB_STATE x.part
  if !x.fieldsOk then (some .badParam, false)
  else if s.get F.SAMPLE_MAX_PIXELS_MAX < x.width * x.height then (some .badParam, false)
  else if s.sampleArea.len < x.need || !s.samplePlaced then (some .badParam, false)
  else if !s.hasPart x.part || j == 0 || j == 6 then (some .noModel, false)
  else if x.learning && !s.learns x.part then (some .badState, false)
  else if s.sampleSpace < x.need then (some .overflow, true)
  else (none, false)

/-- A sample takes the next sequence number, and joins its mini-batch (R143, R247): one that has ended while it waited for its number
contributes nothing (R248). -/
def State.giveNumber (s : State) (place : Nat) : State :=
  let t := s.mapSample place fun y => { y with seq := some s.intake.nextSeq }
  let u := { t with intake := { t.intake with nextSeq := (t.intake.nextSeq + 1) % 2 ^ 32 } }
  match s.sample? place with
  | some x =>
    if x.learning && u.learns x.part then
      let v := u.mapLearn x.part fun l => { l with batch := l.batch ++ [place] }
      if x.status.isSome then v.parkLearn x.part { place := place, gives := false } else v
    else u
  | none => u

/-- Sequence numbers follow the order in which first packets end (R140): a sample waits for its number while the header of an
earlier one is incomplete. (DEDUCED: notes/assumptions 53.) -/
def State.giveNumbers (s : State) : State :=
  let clear := fun (x : Sample) => x.seq.isNone && s.intake.headers.all fun h => decide (x.place < h.2.1)
  let t := foldState (fun (u : State) (x : Sample) => u.giveNumber x.place) s (s.intake.samples.filter clear)
  t.recordsDue t.intake.samples.length

/-- A sample that takes a sequence number: its credit is taken, and it stands in the submission order. -/
def State.addSample (s : State) (x : Sample) : State :=
  let t := s.put F.SAMPLE_CREDITS_AVAIL (s.get F.SAMPLE_CREDITS_AVAIL - 1)
  { t with intake := { t.intake with
    samples := insertBefore (fun y => decide (x.place < y.place)) x t.intake.samples
    opened := if x.streamLen = 0 then tdel t.intake.opened x.vc else tset t.intake.opened x.vc x.streamLen } }

/-- The header of a virtual channel is complete (R142), `rest` of its packet behind it; the flag says whether the stream follows. -/
def State.takeHeader (s : State) (vc place : Nat) (bs rest : List Byte) : State × Bool :=
  let ws := bytesWords bs
  let x : Sample := { place := place, vc := vc, header := ws, grey := greyJpeg place ws rest, size := 0 }
  let t := { s with intake := { s.intake with headers := tdel s.intake.headers vc } }
  let now := fun (y : Sample) => { y with time := s.time.now }
  if crcWords (ws.take 11) ≠ ws.getD 11 0 then
    (((t.countSample .crcFail).sampleRecord (now x) .crcFail 0xFFFFFFFF).giveNumbers, false)
  else if t.get F.SAMPLE_CREDITS_AVAIL = 0 then
    (((t.countSample .overflow).sampleRecord (now x) .overflow 0xFFFFFFFF).giveNumbers, false)
  else
    match t.sampleRefusal x with
    | (some st, tdc) =>
      let u := (t.addSample x).giveNumbers.sampleDone place st
      (if tdc then u.tdc 3 else u, true)
    | (none, _) => ((t.addSample { x with size := x.need }).giveNumbers.giveDecoders, true)

/-- The sample of a virtual channel that still takes its stream. -/
def State.openSample (s : State) (vc : Nat) : Option Sample :=
  s.intake.samples.find? fun x => x.vc == vc && !x.ended && x.status.isNone

/-! ### Augmentation (R147, R148) -/

/-- An image: lines of components of values. -/
abbrev Img := List (List (List Nat))

/-- One step of xorshift32. -/
def xorshift (s : BitVec 32) : BitVec 32 :=
  let a := s ^^^ (s <<< 13)
  let b := a ^^^ (a >>> 17)
  b ^^^ (b <<< 5)

/-- The noise of one component (R148). -/
def noiseOf (s : BitVec 32) (a : Nat) : Int :=
  (((s.toNat / 65536 : Nat) + (s.toNat % 65536 : Nat) - 65535 : Int) * a + 32768) / 65536

/-- Add noise to values in order, with the generator's state. -/
def noisy (a : Nat) : BitVec 32 → List Nat → List Nat × BitVec 32
  | s, [] => ([], s)
  | s, v :: t =>
    let n := xorshift s
    let r := noisy a n t
    (sat16 (v + noiseOf n a) :: r.1, r.2)

/-- The values of a line in pixel order, and back: each component's list. -/
def pixelOrder (line : List (List Nat)) : List Nat :=
  (List.range (line.headD []).length).flatMap fun x => line.map fun c => c.getD x 0

/-- The components of a line from its values in pixel order. -/
def fromPixels (n : Nat) (vs : List Nat) : List (List Nat) :=
  (List.range n).map fun c => (List.range (vs.length / max n 1)).map fun x => vs.getD (x * n + c) 0

/-- Noise over the lines of an image. -/
def noisyImg (a : Nat) : BitVec 32 → Img → Img
  | _, [] => []
  | s, l :: t =>
    let r := noisy a s (pixelOrder l)
    fromPixels l.length r.1 :: noisyImg a r.2 t

/-- A list moved right by `n` (left if negative), vacated places filled; its length unchanged. -/
def shiftList {α : Type} (l : List α) (n : Int) (fill : α) : List α :=
  (List.range l.length).map fun (i : Nat) =>
    let j : Int := (i : Int) - n
    if j < 0 then fill else l.getD j.toNat fill

/-- The operations of R147 in order: crop, flip, shift, gain, noise. -/
def Sample.augment (x : Sample) (fill : Nat) (img : Img) : Img :=
  let crop := ((img.drop (x.h 6 16 16)).take x.cropH).map fun l => l.map fun c => (c.drop (x.h 6 0 16)).take x.cropW
  let flipV := if x.h 5 9 1 = 1 then crop.reverse else crop
  let flip := if x.h 5 8 1 = 1 then flipV.map fun l => l.map List.reverse else flipV
  let n := (img.headD []).length
  let empty := List.replicate n (List.replicate x.cropW fill)
  let moved := (shiftList flip (signed 8 (x.h 8 8 8)) empty).map fun l => l.map fun c => shiftList c (signed 8 (x.h 8 0 8)) fill
  let gained := moved.map fun l => l.map fun c => c.map fun v => sat16 (((v * x.h 5 16 16 + 2048) / 4096 : Nat))
  let seed := if x.h 9 0 32 = 0 then 0x9E3779B9#32 else x.header.getD 9 0
  if x.h 8 16 16 = 0 then gained else noisyImg (x.h 8 16 16) seed gained

/-- The lines of an uncompressed stream; a component of which a byte is missing takes the fill (R146). -/
def Sample.unpacked (x : Sample) (fill : Nat) : Img :=
  let fmt := if x.dt = 0x2B then 1 else if x.dt = 0x2C then 2 else if x.dt = 0x2E then 3 else if x.dt = 0x24 then 4 else 0
  let n := packedLen fmt x.width
  (List.range x.height).map fun y =>
    let d := (x.stream.drop (n * y)).take n
    (unpackLine x.dt (d.map some ++ List.replicate (n - d.length) none) x.width).map fun c => c.map fun v => v.getD fill

/-- The bytes that an uncompressed image needs. -/
def Sample.fullLen (x : Sample) : Nat :=
  x.height * packedLen (if x.dt = 0x2B then 1 else if x.dt = 0x2C then 2 else if x.dt = 0x2E then 3 else
    if x.dt = 0x24 then 4 else 0) x.width

/-- Whether the decoders accept a JPEG's frame (R144): baseline sequential, 8 bits, grey or YCbCr at 4:4:4, 4:2:2 or 4:2:0.
(PRESUMED: notes/assumptions 188.) -/
def jpegAccepts (f : Config.JpegFrame) : Bool :=
  f.sof == 0 && f.precision == 8 &&
    match f.sampling with
    | [_] => true
    | [a, b, c] => b == c && b.1 != 0 && b.2 != 0 && (a == b || a == (2 * b.1, b.2) || a == (2 * b.1, 2 * b.2))
    | _ => false

/-- The value of component `c` at a pixel, where the stream gives it: a plane holds the component at its own sampling, and
replication spreads it over the image (R144). -/
def jpegAt (stream : List Byte) (f : Config.JpegFrame) (c x y : Nat) : Option Int :=
  let a := f.sampling.getD 0 (1, 1)
  let b := f.sampling.getD c (1, 1)
  let w := ceilDiv (f.width * b.1) a.1
  ((Config.jpegPlane stream c)[y * b.2 / a.2 * w + x * b.1 / a.1]?).map fun v => (v.toNat : Int)

/-- An 8-bit component saturated. -/
def sat8 (v : Int) : Nat := (max 0 (min 255 v)).toNat

/-- YCbCr to RGB by the full-range equations of ITU-T T.871, rounded half up (R144). (PRESUMED: notes/assumptions 188.) -/
def ycc (y cb cr : Int) (c : Nat) : Nat :=
  sat8 (if c = 0 then (2000 * y + 2804 * (cr - 128) + 1000) / 2000
    else if c = 1 then (1174000 * y - 2 * (202008 * (cb - 128) + 419198 * (cr - 128)) + 587000) / 1174000
    else (2000 * y + 3544 * (cb - 128) + 1000) / 2000)

/-- Component `c` of a decoded pixel: the grey value, or the colour once all three of its components are decoded. -/
def jpegPixel (stream : List Byte) (f : Config.JpegFrame) (x y c : Nat) : Option Nat :=
  if f.sampling.length = 1 then (jpegAt stream f 0 x y).map sat8
  else
    match jpegAt stream f 0 x y, jpegAt stream f 1 x y, jpegAt stream f 2 x y with
    | some l, some b, some r => some (ycc l b r c)
    | _, _, _ => none

/-- The values of a decoded JPEG, where the stream gives them; one whose stream ended before its frame gives none. -/
def Sample.decoded (x : Sample) : List (List (List (Option Nat))) :=
  let f := Config.jpegFrame x.stream
  let n := match f with | some g => g.sampling.length | none => x.comps
  (List.range x.height).map fun i => (List.range n).map fun c => (List.range x.width).map fun j =>
    f.bind fun g => jpegPixel x.stream g j i c

/-- The image of a decoded JPEG; missing components take the fill (R146). -/
def Sample.jpegImg (x : Sample) (fill : Nat) : Img :=
  x.decoded.map fun l => l.map fun c => c.map fun v => (v.map (· * 256)).getD fill

/-- Whether a decoded JPEG lacks a component (R146). -/
def Sample.jpegShort (x : Sample) : Bool := x.decoded.any fun l => l.any fun c => c.any (·.isNone)

/-- A sample is ready: its image is augmented and packed in the model's input format (R149).
(DESIGN CHOICE: notes/assumptions 55.) -/
def State.sampleReady (s : State) (place : Nat) (img : Img) (trunc : Bool) : State :=
  match s.sample? place with
  | none => s
  | some x =>
    let fmt := (s.info x.part).inFmt
    let ls := (x.augment (s.get F.SAMPLE_FILL_FILL) img).map fun l =>
      (packLine fmt (l.map fun c => c.map some)).map fun b => b.getD 0
    State.giveDecoders ((s.putItem s.sampleArea (3 * place + 2) (x.width * x.height * x.comps * 2)).mapSample place fun y =>
      { y with stage := .ready, decoder := none, lines := ls, trunc := trunc, stream := [] })

/-- A stream has ended, and lies in the sample buffer: an uncompressed sample is ready, and so is a JPEG of which nothing came, all of it fill (R146). -/
def State.streamEnd (s : State) (place : Nat) : State :=
  match s.sample? place with
  | none => s
  | some x =>
    let t := (s.putItem s.sampleArea (3 * place + 1) x.streamLen).mapSample place fun y => { y with ended := true }
    if x.stage ≠ .stream then t
    else if x.jpeg then
      if x.stream.isEmpty then t.sampleReady place (x.jpegImg (s.get F.SAMPLE_FILL_FILL)) true else t
    else t.sampleReady place (x.unpacked (s.get F.SAMPLE_FILL_FILL)) (decide (x.stream.length < x.fullLen))

/-- Stream bytes for a virtual channel; surplus bytes are discarded and counted. (DEDUCED: notes/assumptions 56.) -/
def State.takeStream (s : State) (vc : Nat) (bs : List Byte) : State :=
  let left := tgetD s.intake.opened vc 0
  let used := bs.take left
  let o := if bs.length < left then tset s.intake.opened vc (left - bs.length) else tdel s.intake.opened vc
  let t := { s with intake := { s.intake with opened := o } }
  let u := match t.openSample vc with
    | some x =>
      let v := t.mapSample x.place fun y => { y with stream := y.stream ++ used }
      if left ≤ bs.length then v.streamEnd x.place else v
    | none => t
  if left < bs.length then u.rxDiscard else u

/-- A sample packet of a virtual channel (R140). -/
def State.samplePacket (s : State) (vc : Nat) (bs : List Byte) : State :=
  if (tget? s.intake.opened vc).isSome then s.takeStream vc bs
  else
    let h := tgetD s.intake.headers vc (s.intake.nextPlace, [])
    let all := h.2 ++ bs
    let t := if (tget? s.intake.headers vc).isSome then s
      else { s with intake := { s.intake with nextPlace := s.intake.nextPlace + 1 } }
    if all.length < 48 then { t with intake := { t.intake with headers := tset t.intake.headers vc (h.1, all) } }
    else
      let r := t.takeHeader vc h.1 (all.take 48) (all.drop 48)
      if r.2 && !(all.drop 48).isEmpty then r.1.takeStream vc (all.drop 48) else r.1

/-- BULK_TMO expires between the packets of a sample: an incomplete header is discarded and counted; a stream ends
(R140, R146). -/
def State.sampleTmo (s : State) (vc : Nat) : State :=
  if (tget? s.intake.headers vc).isSome then
    State.giveNumbers (State.rxDiscard { s with intake := { s.intake with headers := tdel s.intake.headers vc } })
  else
    let t := { s with intake := { s.intake with opened := tdel s.intake.opened vc } }
    match t.openSample vc with
    | some x => t.streamEnd x.place
    | none => t

/-! ### Sample bobbins (R149, R150) -/

/-- The lowest free sample bobbin. -/
def State.freeSampleBob (s : State) : Option Nat :=
  ((List.range 256).map (0xF00 + ·)).find? fun id => (tget? s.bobs id).isNone

/-- A sample's lines are delivered to its bobbin, which passes from OPEN to CLOSED-INPUT with the last (R150); its tasks become
ready. -/
def State.deliverSample (s : State) (id : Nat) : State :=
  (s.setBob id { s.bob id with state := .closedInput }).wake id

/-- A sample takes a bobbin. It goes forward only once all of its lines are at hand (R149), so they are delivered at once. -/
def State.sampleRun (s : State) (x : Sample) (id : Nat) : State :=
  let im := s.info x.part
  let n := tokensOf x.cropH im.tokenR
  if x.cropW != im.width || decide (im.tMax < n) then s.sampleDone x.place .badParam
  else
    let b : Bobbin := { state := .open, serial := x.id, partition := x.part, wlen := x.cropH, computing := true
                        tokens := n, slot := s.jobSlot x.part, sample := some x.place }
    let t := (s.setBob id b).showBobs
    (t.mapSample x.place fun y => { y with stage := .running, bobbin := some id, usedBob := id }).deliverSample id

/-- The samples of a partition that are outstanding without a status complete with one (R151). -/
def State.dropSamples (s : State) (p : Nat) (st : Status) : State :=
  foldState (fun t (x : Sample) => t.sampleDone x.place st) s
    (s.intake.samples.filter fun x => x.part == p && x.status.isNone)

end Sys2Proof.Machine
end

