-- ==== Sys2Proof/Machine/JobCore.lean ====
section
/-! DEFINITION. What the partitions' jobs share (chapters 09, 12 and 19): active looms and schedules, the lists of commands on
the looms, KV pages and staging slots, and the end of a job. -/

namespace Sys2Proof.Machine

/-! ### Looms of a partition (R269, R271, R278) -/

/-- A list of numbers in ascending order, without repeats. -/
def sorted (l : List Nat) : List Nat := those 64 l.contains

/-- The looms of a partition that are neither fenced nor lent. -/
def State.activeLooms (s : State) (p : Nat) : List Nat :=
  (sorted (s.part p).looms).filter fun n => !s.fenced n && !s.lent p n

/-- The active looms of a partition that take new work: a loom whose fence is due takes none, since the fence reaches it before
anything that the scheduler dispatches from then on (R39, R428). -/
def State.freshLooms (s : State) (p : Nat) : List Nat :=
  (s.activeLooms p).filter fun n => !s.fenceDue.any fun e => e.1 == n

/-- The looms on which the job's schedule runs (R278). -/
def State.jobLooms (s : State) (p : Nat) : List Nat :=
  (s.freshLooms p).take (s.get F.SCHED_JOB_SIZE_SIZE p)

/-- NOMINAL of a model's image (R274). -/
def Model.nominal (m : Model) : Nat := bitsOf (m.header.getD 2 0).toNat 16 7
/-- FLOOR of a model's image. -/
def Model.floor (m : Model) : Nat := bitsOf (m.header.getD 2 0).toNat 24 7
/-- PROFILE of a model's image. -/
def Model.profile (m : Model) : Nat := bitsOf (m.header.getD 2 0).toNat 8 8
/-- CACHE_LEN of a model's image. -/
def Model.cacheLen (m : Model) : Nat := (m.header.getD 3 0).toNat
/-- LEARN of a model's image. -/
def Model.learns (m : Model) : Bool := bitAt (m.header.getD 5 0).toNat 0
/-- REMOTE of a model's image. -/
def Model.remote (m : Model) : Bool := bitAt (m.header.getD 5 0).toNat 1

/-- The schedule of an image for n looms. -/
def scheduleFor (im : Config.Image) (n : Nat) : Config.Schedule := (im.schedules.find? (·.n == n)).getD {}

/-- Take the schedule for the present active looms (R278, R289, R430). (DEDUCED: notes/assumptions 96.) -/
def State.takeSchedule (s : State) (p : Nat) : State :=
  match s.jobModel p with
  | none => s
  | some m =>
    let a := (s.activeLooms p).length
    let n := min (s.freshLooms p).length m.nominal
    let c := scheduleFor m.info n
    let x := s.part p
    ((((((s.setPart p { x with switch := false }).put F.SCHED_JOB_SIZE_ACTIVE a p).put F.SCHED_JOB_SIZE_SIZE n p).put
      F.SCHED_STEM_TIME_NS c.tStem p).put F.SCHED_STEP_TIME_NS c.tStep p).put F.SCHED_LEARN_OPT_TIME_NS
      (if x.learning then c.tOpt else 0) p)

/-! ### The lists of commands (R267, R268) -/

/-- Put a command at the end of a loom's list. -/
def State.giveCmd (s : State) (n : Nat) (c : LoomCmd) : State :=
  s.mapLoom n fun l => { l with cmds := l.cmds ++ [c] }

/-- Put a segment on a loom directly behind its started commands (R268); what the queues hold of the commands that move
behind it is fetched again. -/
def State.giveSegment (s : State) (kind n : Nat) : State :=
  s.mapLoom n fun l =>
    let a := l.cmds.filter (·.started)
    let b := l.cmds.filter fun c => !c.started
    let k := l.base + a.length
    let qs := l.queues.map fun (e : Nat × List QIns) => (e.1, e.2.filter fun (q : QIns) => decide (q.cmd < k))
    let fs := l.fetched.map fun (e : Nat × Nat) => (e.1, min e.2 k)
    { l with cmds := a ++ { kind := kind } :: b, queues := qs, fetched := fs }

/-- Whether some loom of a partition still holds a segment of a kind: a command ends with its four ENDs, and a step with the last of
its segments (R267). -/
def State.segmentsLeft (s : State) (p kind : Nat) : Bool :=
  (s.part p).looms.any fun n => !s.lent p n && (s.loom n).cmds.any fun c => c.kind == kind

/-- Withdraw the commands of looms that have not started and meet a test: they are counted, and their tasks are ready again
(R280, R281). -/
def State.withdraw (s : State) (p : Nat) (ns : List Nat) (which : LoomCmd → Bool) : State :=
  let x := s.part p
  let out := fun (c : LoomCmd) => !c.started && which c
  let back := ns.flatMap fun n => (s.loom n).cmds.filter out
  let isBack := fun (t : Task) => back.any fun c =>
    c.kind == 1 && c.bobbin == t.bobbin && c.token == t.token && c.stripe == t.stripe
  let t := s.setPart p { x with
    issued := x.issued.filter fun k => !isBack k
    ready := x.ready ++ (x.issued.filter isBack).map Task.again }
  (foldState (fun u n => u.mapLoom n fun l => l.cut out 3)
    (t.bumpBy F.SCHED_JOB_CNT_WITHDRAWN back.length p) ns).showReady p

/-- Stop a loom: its queues, tags and commands are cleared (R280, R429). -/
def State.clearLoom (s : State) (n : Nat) : State :=
  s.mapLoom n fun l => { l with queues := [], issued := [], tags := [], cmds := [], ends := [], base := 0, fetched := [] }

/-! ### KV pages (R206 to R209) -/

/-- D of an image. -/
def dimOf (im : Config.Image) : Nat := im.heads * im.headDim

/-- The entry size: 2 × D × 4 or 8 bits, rounded up to 64 bytes (R206). -/
def entrySize (im : Config.Image) : Nat := roundUp (if im.kvInt8 then 2 * dimOf im else dimOf im) 64

/-- Tokens per page (R207). -/
def perPage (im : Config.Image) : Nat := 65536 / (im.blocks * entrySize im)

/-- The pages of a partition's pool. -/
def State.poolPages (s : State) (p : Nat) : Nat := s.get F.SCHED_KV_BEAM_SIZE_PAGES p + s.get F.SCHED_KV_SPILL_SIZE_PAGES p

/-- The address of a page: the beam part first, then the spill part. -/
def State.pageAddr (s : State) (p i : Nat) : Nat :=
  let n := s.get F.SCHED_KV_BEAM_SIZE_PAGES p
  if i < n then (s.get F.SCHED_KV_BEAM_BASE_BASE p + i) * 65536
  else (s.get F.SCHED_KV_SPILL_BASE_BASE p + (i - n)) * 65536

/-- The page a bobbin would take: the lowest free one of the beam part, else of the spill part (R208). -/
def State.freePage (s : State) (p : Nat) : Option Nat := lowestFree ((s.part p).pages.map (·.1)) (s.poolPages p)

/-- Show the pages in use. -/
def State.showPages (s : State) (p : Nat) : State :=
  let n := (s.part p).pages.length
  (s.put F.SCHED_KV_USED_USED n p).peak F.SCHED_KV_PEAK_PEAK n p

/-- A bobbin takes a page. -/
def State.takePage (s : State) (p id i : Nat) : State :=
  let x := s.part p
  let b := s.bob id
  ((s.setPart p { x with pages := tset x.pages i id }).setBob id { b with pages := b.pages ++ [i], pageWait := false }).showPages p

/-- Free every page that a bobbin holds in a partition. -/
def State.dropPages (s : State) (p id : Nat) : State :=
  let x := s.part p
  (s.setPart p { x with pages := x.pages.filter fun e => e.2 != id }).showPages p

/-- The address of the entry of block `b`, token `t` of a bobbin (R206, R207). -/
def State.entryAddr (s : State) (p : Nat) (b : Bobbin) (blk t : Nat) : Nat :=
  let im := s.info p
  s.pageAddr p (b.pages.getD (t / perPage im) 0) + (t % perPage im * im.blocks + blk) * entrySize im

/-- Whether the pool meets R207 for an image. -/
def State.poolOk (s : State) (p : Nat) (im : Config.Image) : Bool :=
  let beam : Area := ⟨ownKvBeam + p, s.get F.SCHED_KV_BEAM_BASE_BASE p * 65536, s.get F.SCHED_KV_BEAM_SIZE_PAGES p * 65536⟩
  let spill : Area := ⟨ownKvSpill + p, s.get F.SCHED_KV_SPILL_BASE_BASE p * 65536, s.get F.SCHED_KV_SPILL_SIZE_PAGES p * 65536⟩
  let foe := fun (o : Nat) => decide (o ≤ ownSampleBuf) ||
    (decide (ownKvBeam ≤ o) && decide (o < ownStage) && o != ownKvBeam + p && o != ownKvSpill + p)
  (beam.len == 0 || beam.inBeam (s.millOf p)) && (spill.len == 0 || s.inDdr spill) && perPage im != 0 &&
    decide (ceilDiv im.tMax (perPage im) ≤ s.poolPages p) && !s.clashes beam foe && !s.clashes spill foe

/-! ### Staging slots (R202) -/

/-- The bytes of a staging slot. -/
def slotBytes (im : Config.Image) : Nat := roundUp (im.stripes.length * dimOf im * 4) 64

/-- The units that 64 slots need. -/
def stageNeed (im : Config.Image) : Nat := ceilDiv (64 * slotBytes im) 65536

/-- The slots of a partition's staging area. -/
def State.stageSlots (s : State) (p : Nat) : Nat := s.get F.SCHED_STAGE_SIZE_SIZE p * 65536 / slotBytes (s.info p)

/-- The slot of a token, if it holds one. -/
def State.slotOf (s : State) (p id t : Nat) : Option Nat := ((s.part p).stage.find? fun e => e.2 == (id, t)).map (·.1)

/-- The slot a token has or would take. -/
def State.slotFor (s : State) (p id t : Nat) : Option Nat :=
  match s.slotOf p id t with
  | some k => some k
  | none => lowestFree ((s.part p).stage.map (·.1)) (s.stageSlots p)

/-- The address of a stripe's vector in a slot. -/
def State.vectorAddr (s : State) (p slot stripe : Nat) : Nat :=
  s.get F.SCHED_STAGE_BASE_BASE p * 65536 + slot * slotBytes (s.info p) + stripe * dimOf (s.info p) * 4

/-- Show the slots in use. -/
def State.showStage (s : State) (p : Nat) : State := s.put F.SCHED_STAGE_USED_USED (s.part p).stage.length p

/-- Whether the staging area meets R202 for an image. -/
def State.stageOk (s : State) (p : Nat) (im : Config.Image) : Bool :=
  let a : Area := ⟨ownStage + p, s.get F.SCHED_STAGE_BASE_BASE p * 65536, s.get F.SCHED_STAGE_SIZE_SIZE p * 65536⟩
  decide (stageNeed im ≤ s.get F.SCHED_STAGE_SIZE_SIZE p) && (a.inBeam (s.millOf p) || s.inDdr a) && !s.clashes a anyOwner

/-! ### The end of a job (R151, R258, R279, R280) -/

/-- The bobbins of a partition. -/
def State.bobsOf (s : State) (p : Nat) : List Nat := (s.bobs.filter fun e => e.2.partition == p && e.2.sample.isNone).map (·.1)

/-- A part bobbin's compute ends for the reason of the R30 row of a job stopped, cancelled or NO_MODEL; a bobbin still
ARMING is judged when it enters OPEN. -/
def State.jobLost (s : State) (id : Nat) : State :=
  let b := s.bob id
  if b.ended || b.state == .arming then s else (s.setBob id { b with refusedJob := true, member := false }).endCompute id

/-- Clear what a job shows in the registers. -/
def State.clearJobRegs (s : State) (p : Nat) : State :=
  let t := (((s.setReg R.SCHED_JOB_MODEL 0 p).setReg R.SCHED_STEM_TIME 0 p).setReg R.SCHED_STEP_TIME 0 p).setReg R.SCHED_ATTN_CFG 0 p
  let u := ((((t.setReg R.SCHED_ATTN_TOK 0 p).setReg R.SCHED_STAGE_NEED 0 p).put F.SCHED_JOB_SIZE_SIZE 0 p).put
    F.SCHED_JOB_SIZE_NOMINAL 0 p).put F.SCHED_JOB_SIZE_FLOOR 0 p
  let v := (((u.put F.QUANT_CALIB_NEED_CHANNELS 0 p).put F.SCHED_LEARN_OPT_TIME_NS 0 p).put F.SCHED_LEARN_NEED_NEED 0 p).putBit
    F.SCHED_BATCH_RUNNING false p
  ((v.put F.SCHED_JOB_STATE 0 p).putBit F.SCHED_JOB_LEARN false p).putBit F.SCHED_JOB_IMMEDIATE false p

/-- Show which slots' models a job uses. -/
def State.showInUse (s : State) : State :=
  timesFrom (fun t k =>
    match t.sched.models.find? (·.slot == some k) with
    | some m => t.putBit F.SCHED_SLOT_IN_USE (t.sched.parts.any fun e => e.2.model == m.id && t.get F.SCHED_JOB_STATE e.1 != 0) k
    | none => t) 64 0 s

/-- A job reaches IDLE: samples, bobbins, calibration, learning and tasks end; `last` is LAST, `samples` their status. -/
def State.jobIdle (s : State) (p : Nat) (last samples : Status) : State :=
  let rows := ((s.part p).step.map (·.rows)).getD []
  let a := foldState (fun t id => if (tget? t.bobs id).isSome then t.setBob id { t.bob id with member := false } else t) s rows
  let b := foldState (fun t id => t.jobLost id) a (a.bobsOf p)
  let c := foldState (fun t id => t.dropPages p id) (b.dropSamples p samples) rows
  let d := ((c.calibJobEnd p).endLearn p)
  let x := d.part p
  let e := d.setPart p { x with step := none, ready := [], issued := [], waitSeen := [], stage := [], learning := false, model := 0
                                switch := false, overdue := none, redo := false, paused := [], rowTok := []
                                headOut := [], drained := [], saved := [], savedMem := {} }
  let f := foldState (fun (t : State) (k : Nat × Loom) => t.showLoom k.1) e x.saved
  ((((f.clearJobRegs p).put F.SCHED_JOB_LAST last.code p).showStage p).showReady p).showInUse

/-- Every running command with an opcode and a target ends. -/
def State.finishAll (s : State) (op p : Nat) (st : Status) : State :=
  timesFrom (fun t _ => t.finishFor op p st) s.host.running.length 0 s

/-- The commands of a partition that still await their reply complete with a status (R280). -/
def State.endWaiting (s : State) (p : Nat) (st : Status) : State :=
  foldState (fun t op => t.finishAll op p st) s [0x0406, 0x0407, 0x0409, 0x040A, 0x040B]

/-- A job is ended at once: by CMD_JOB_CANCEL, a fence below FLOOR, or a split word (R280, R315, R430). -/
def State.jobKill (s : State) (p : Nat) (last samples : Status) : State :=
  let ns := (s.part p).looms.filter fun n => !s.lent p n
  let t := s.withdraw p ns fun _ => true
  let u := foldState (fun v n => v.clearLoom n) t ns
  (u.jobIdle p last samples).endWaiting p last

/-- Whether a stopping job has nothing left to run: no step and no started stripe task. -/
def State.allEnded (s : State) (p : Nat) : Bool :=
  (s.part p).step.isNone && !(s.part p).learn.running && (s.part p).issued.isEmpty

/-- A STOPPING job whose work has ended reaches IDLE, and CMD_JOB_STOP completes. -/
def State.stopIfIdle (s : State) (p : Nat) : State :=
  if s.get F.SCHED_JOB_STATE p = 6 ∧ s.allEnded p = true then
    ((s.jobIdle p .done .cancelled).finishFor 0x0407 p .done).finishAll 0x040B p .cancelled
  else s

end Sys2Proof.Machine
end

