-- ==== Sys2Proof/Machine/Fence.lean ====
section
/-! DEFINITION. Fencing (R426 to R431): what a fence does to the loom, to its partition and to the job; the threshold
windows; and the pace monitors (R43). -/

namespace Sys2Proof.Machine

/-- Tasks that have been issued become ready again (R197); what their abandoned commands gathered is gone (R428). -/
def State.reReady (s : State) (p : Nat) (which : Task → Bool) : State :=
  let x := s.part p
  let back := x.issued.filter which
  (s.setPart p { x with
    issued := x.issued.filter fun k => !which k
    ready := x.ready ++ back.map Task.again
    drained := x.drained.filter fun d => !d.task.any fun t => back.any fun k => t == (k.bobbin, k.token, k.stripe) }).showReady p

/-- What the segments of an abandoned step have gathered is gone, and so is the poison that they met (R428). -/
def State.dropStep (s : State) (p : Nat) : State :=
  let x := s.part p
  s.setPart p { x with
    drained := x.drained.filter (·.task.isSome)
    step := x.step.map fun r => { r with bad := false } }

/-- The segments on the partition's looms stop and leave the lists (R428). -/
def State.stopSegments (s : State) (p : Nat) : State :=
  foldState (fun t n => t.mapLoom n fun l => l.cut (fun c => c.kind != 1) 3) s ((s.part p).looms.filter fun n => !s.lent p n)

/-- Show the active looms of a partition. -/
def State.showActive (s : State) (p : Nat) : State :=
  if s.hasPart p then s.put F.SCHED_JOB_SIZE_ACTIVE (s.activeLooms p).length p else s.put F.SCHED_JOB_SIZE_ACTIVE 0 p

/-- The running step and optimiser step start again on the looms of the schedule now in use (R428, R430). -/
def State.restart (s : State) (p : Nat) : State :=
  let x := s.part p
  let t := State.takeSchedule ((s.stopSegments p).dropStep p) p
  let u := if x.step.isSome then foldState (fun v n => v.giveSegment 2 n) t (t.jobLooms p) else t
  if x.learn.running then foldState (fun v n => v.giveSegment 3 n) u (u.jobLooms p) else u

/-- Whether a partition's job has too few looms left: it ends, and nothing of it is re-executed (R430). -/
def State.belowFloor (s : State) (p : Nat) : Bool := (s.jobModel p).any fun m => decide ((s.activeLooms p).length < m.floor)

/-- What a fence of a loom does to its partition's job (R428, R430). `segment` says that the loom held a segment of the
running step or optimiser step, which is abandoned. (DEDUCED: notes/assumptions 98.) -/
def State.fenceJob (s : State) (p : Nat) (segment : Bool) : State :=
  let j := s.get F.SCHED_JOB_STATE p
  if (s.jobModel p).isNone then s
  else if s.belowFloor p then (s.jobKill p .fenced .fenced).bump F.SCHED_FENCE_CNT_FLOOR
  else
    let x := s.part p
    if j = 2 ∨ j = 6 then
      if segment then (s.bump F.SCHED_FENCE_CNT_REEXEC).restart p else s.setPart p { x with switch := true }
    else if segment then
      let t := (s.setPart p { x with redo := true }).bump F.SCHED_FENCE_CNT_REEXEC
      (t.stopSegments p).dropStep p
    else s

/-- The fence map takes a loom (R431); a split word of the map keeps its reset value (R315). -/
def State.fenceMark (s : State) (n : Nat) : State :=
  if s.splitWord (if n < 32 then 4 else 5) then s
  else if n < 32 then (s.setReg R.SCHED_FENCE_MAP_LO (s.reg R.SCHED_FENCE_MAP_LO + 2 ^ n)).stored 4
  else (s.setReg R.SCHED_FENCE_MAP_HI (s.reg R.SCHED_FENCE_MAP_HI + 2 ^ (n - 32))).stored 5

/-- Record a fence (R431). -/
def State.fenceRecord (s : State) (n cause : Nat) : State :=
  let now := s.time.now
  let b := ((s.put F.SCHED_FENCE_LAST_LOOM n).put F.SCHED_FENCE_LAST_CAUSE cause).put F.SCHED_FENCE_TIME_NS_NS (timeNs now)
  let c := (b.put F.SCHED_FENCE_TIME_S_LO_S (timeSec now)).put F.SCHED_FENCE_TIME_S_HI_S_HI (timeSec now / 2 ^ 32)
  ((c.bump (if cause = 4 then F.SCHED_FENCE_CNT_THRESH else F.SCHED_FENCE_CNT_UNCORR)).raise F.HOST_IBI_CAUSE_FENCE).event 5 n

/-- Count the started stripe tasks of looms: they are re-executed (R197, R281, R428). -/
def State.countReexec (s : State) (p : Nat) (ls : List Loom) : State :=
  s.bumpBy F.MILL_STRIPE_CNT_REEXEC (ls.map fun l => (l.cmds.filter fun c => c.started && c.kind == 1).length).sum (s.millOf p)

/-- A loom that the fence map has taken: the fence is recorded, its work is abandoned, its queues and tags are cleared, its job
reacts; the tasks that run again are counted. -/
def State.fenceAct (s : State) (e : Nat × Nat) : State :=
  let n := e.1
  let segment := (s.loom n).cmds.any fun c => c.kind != 1
  let h := s.holderOf n
  let t := (s.fenceRecord n e.2).clearLoom n
  match h with
  | some p =>
    ((((if t.belowFloor p then t else t.countReexec p [s.loom n]).reReady p fun k => k.loom == some n).showActive p).fenceJob p segment).stopIfIdle p
  | none => t

/-- The first cause of each loom of a list. -/
def firstCauses : List (Nat × Nat) → List (Nat × Nat)
  | [] => []
  | e :: t => e :: (firstCauses t).filter (·.1 != e.1)

/-- Fence looms: the map takes them in one write, and each is recorded in turn (R431). -/
def State.fenceAll (s : State) (es : List (Nat × Nat)) : State :=
  let l := firstCauses (es.filter fun e => !s.fenced e.1)
  foldState State.fenceAct (foldState State.fenceMark s (l.map (·.1))) l

/-- The commands of a loom that have not started are withdrawn and become ready for other looms (R428). -/
def State.fenceWithdraw (s : State) (n : Nat) : State :=
  let back := (s.loom n).cmds.filter fun c => !c.started && c.kind == 1
  let isBack := fun (t : Task) => t.loom == some n && back.any fun c =>
    c.bobbin == t.bobbin && c.token == t.token && c.stripe == t.stripe
  match s.holderOf n with
  | some p => (s.reReady p isBack).mapLoom n fun l => l.cut (fun c => !c.started && c.kind == 1) 3
  | none => s

/-- Whether a due fence acts now: at once for an uncorrectable cause, at the loom's command boundary for the threshold. -/
def State.fenceActs (s : State) (e : Nat × Nat) : Bool := e.2 != 4 || (s.loom e.1).cmds.isEmpty

/-- Fence every loom that is due, lower loom first (R431): a threshold fence withdraws what has not started, and waits for what
has. -/
def State.settleOnce (s : State) : State :=
  let due := (List.range 64).flatMap fun n => s.fenceDue.filter fun e => e.1 == n
  let t := foldState State.fenceWithdraw s ((due.filter (·.2 == 4)).map (·.1))
  State.fenceAll { t with fenceDue := due.filter fun e => !t.fenceActs e && !due.any fun x => x.1 == e.1 && x.2 != 4 }
    (due.filter t.fenceActs)

/-- Fence what is due, and then what the end of a job has brought to its command boundary. -/
def State.settle (s : State) : State :=
  timesFrom (fun t _ => if t.fenceDue.any t.fenceActs then t.settleOnce else t) 64 0 s.settleOnce

/-- A command or event that may find an error of a loom: the fences it causes follow at once. -/
def onCore (s : State) (f : State → State) : Host.Outcome State Fault Refusal := onDevice s fun s => (f s).settle

/-- FENCE_WINDOW_EXPIRE (R427). -/
def execFenceWindowExpire (s : State) : Host.Outcome State Fault Refusal :=
  onDevice s fun s => timesFrom (fun t n => t.put F.LOOM_CORR_COUNT 0 n) 64 0 s

/-- PACE_WINDOW (R43): `rates` are the monitors' results, loom 0 first; one that is not supplied leaves its loom unchanged. -/
def execPaceWindow (rates : List Nat) (s : State) : Host.Outcome State Fault Refusal :=
  onDevice s fun s =>
    timesFrom (fun t n =>
      match rates[n]? with
      | some r =>
        let v := r % 2 ^ 16
        ((t.put F.LOOM_PACE_RATE v n).putBit F.LOOM_PACE_VALID true n).put F.LOOM_PACE_MIN_MIN
          (min v (t.get F.LOOM_PACE_MIN_MIN n)) n
      | none => t) 64 0 s

end Sys2Proof.Machine
end

