-- ==== Sys2Proof/Machine/LoomArray.lean ====
section
/-! DEFINITION. The array instructions of a loom on its state (chapters 07 and 08): WLOAD, MM and MMT, CONV and DW, VPROG,
with their checks, faults, drains and registers. -/

namespace Sys2Proof.Machine

/-! ### Scratchpad -/

/-- The bytes of a scratchpad. -/
def scratchLen : Nat := 0x200000

/-- The address of a scratchpad byte. -/
def scratch (n off : Nat) : Nat := 0x2200000000 + n * 0x200000 + off

/-- Read `m` rows. -/
def State.readRows (s : State) (stride len : Nat) : Nat → Nat → State × List Data
  | 0, _ => (s, [])
  | m + 1, a =>
    let r := s.readData a len
    let u := r.1.readRows stride len m (a + stride)
    (u.1, r.2 :: u.2)

/-- A row padded with 0x00 to whole 64-bit words. -/
def rowData (d : Data) : Data := d ++ List.replicate (roundUp d.length 8 - d.length) (some 0)

/-- The bytes of elements at a pitch; a byte of a gap is `none`. -/
def pitched (pitch : Nat) (es : List Data) : List (Option (Option Byte)) :=
  es.flatMap fun e => e.map some ++ List.replicate (pitch - e.length) none

/-- Write the 64-bit words from an address that hold a byte of a structure, whole: bytes that it does not use are 0x00 (R308). -/
def State.writeGaps (s : State) : Nat → Nat → List (Option (Option Byte)) → State
  | 0, _, _ => s
  | _ + 1, _, [] => s
  | f + 1, a, d =>
    let w := d.take 8
    let t := if w.any (·.isSome) then s.writeData a (rowData (w.map (·.getD (some 0)))) else s
    t.writeGaps f (a + 8) (d.drop 8)

/-- Write elements at a pitch: side by side as one row, or word by word where there are gaps (R308); elements that overlap one
by one. -/
def State.writeElems (s : State) (a pitch : Nat) (es : List Data) : State :=
  if es.all fun e => e.length == pitch then s.writeData a (rowData es.flatten)
  else if es.all fun e => decide (e.length ≤ pitch) then
    let d := List.replicate (a % 8) none ++ pitched pitch es
    s.writeGaps (d.length + 1) (a - a % 8) d
  else foldState (fun (t : State) (e : Data × Nat) => t.writeData (a + e.2 * pitch) e.1) s es.zipIdx

/-- Write rows poisoned, as far as they lie in the scratchpad. -/
def State.poisonRows (s : State) (n off stride bytes m : Nat) : State :=
  timesFrom (fun t i => if off + i * stride + bytes ≤ scratchLen then t.poisonRange (scratch n (off + i * stride)) bytes else t) m 0 s

/-! ### Groups, status and counters (R168 to R173) -/

/-- The arithmetic profile in force (R291). -/
def State.profile (s : State) : Nat := if s.splitWord 1 then 1 else s.get F.DET_ARITH_PROFILE_PROFILE

/-- A group of a loom. -/
def Loom.group (l : Loom) (g : Nat) : Group := tgetD l.groups g {}

/-- Show the split mode and the groups whose back registers are full. -/
def State.showArray (s : State) (n : Nat) : State :=
  let l := s.loom n
  (s.put F.LOOM_ARRAY_CFG_SPLIT l.split n).put F.LOOM_ARRAY_CFG_BACK_FULL
    ((those 4 fun g => (l.group g).back.isSome).map fun g => 2 ^ g).sum n

/-- Change a group. -/
def State.mapGroup (s : State) (n g : Nat) (f : Group → Group) : State :=
  let l := s.loom n
  (s.setLoom n { l with groups := tset l.groups g (f (l.group g)) }).showArray n

/-- An instruction's SPLIT takes force: a change leaves every weight register unusable (R171); the front codebooks stay (R155). -/
def State.reshape (s : State) (n split : Nat) : State :=
  let l := s.loom n
  if l.split = split then s else (s.setLoom n { l with split := split, groups := [] }).showArray n

/-- Set one fault's bit and count it. -/
def State.noteFault (s : State) (n g k : Nat) (err : Fld) (met : Bool) : State :=
  if met then (s.putBit (F.LOOM_ARRAY_FAULT_BIT g k) true n).bump err n else s

/-- The status of an array instruction and the faults it met (R169, R170). -/
def State.arrayStatus (s : State) (n g tag : Nat) (st : Status) (f : Faults) : State :=
  let a := ((s.put F.LOOM_ARRAY_GSTAT_STATUS st.code n g).put F.LOOM_ARRAY_GSTAT_TAG tag n g).putBit F.LOOM_ARRAY_GSTAT_WPAR f.wpar n g
  let b := ((a.putBit F.LOOM_ARRAY_GSTAT_POISON_IN f.poison n g).putBit F.LOOM_ARRAY_GSTAT_FLOAT f.float n g).putBit
    F.LOOM_ARRAY_GSTAT_INT_OVF f.ovf n g
  let c := (((b.noteFault n g 0 F.LOOM_ARRAY_ERR_WPAR f.wpar).noteFault n g 1 F.LOOM_ARRAY_ERR_POISON_IN f.poison).noteFault n g 2
    F.LOOM_ARRAY_ERR_FLOAT f.float).noteFault n g 3 F.LOOM_ARRAY_ERR_INT_OVF f.ovf
  if f.wpar then { c with fenceDue := c.fenceDue ++ [(n, 1)] } else c

/-- Count passes and useful products (in slot handshakes) of a loom. -/
def State.countPasses (s : State) (n passes products : Nat) : State :=
  let l := s.loom n
  let u := l.useful + products
  let t := (s.setLoom n { l with useful := u }).bumpWrap F.LOOM_ARRAY_PASSES_PASSES passes n
  (t.put F.LOOM_ARRAY_USEFUL_LO_USEFUL (u / 4096) n).put F.LOOM_ARRAY_USEFUL_HI_USEFUL (u / 4096 / 2 ^ 32) n

/-- Count what a drain's conversions met (R230, R231). -/
def State.countConv (s : State) (n nans : Nat) (invalid : Bool) : State :=
  let t := s.bumpBy F.LOOM_VEC_CNT_NAN_CONV nans n
  match invalid, s.holderOf n with
  | true, some p => t.bump F.QUANT_STAT_CNT_BAD_REC p
  | _, _ => t

/-- What an epilogue makes of a row of accumulators: FP32 values, none of a poisoned row (R175, R176). -/
def epilogue (epi : Nat) (accs : List Acc) : List (Option Word) :=
  if accs.any (·.bad) then accs.map fun _ => none
  else (vecRun (Config.vecProgram epi) (accs.map (·.word))).map some

/-- The place in the list of the command that an instruction belongs to. -/
def Loom.place (l : Loom) (q : QIns) : Nat := q.cmd - l.base

/-- What the conversions of an instruction gather for its command's task or step (R232): rows of elements, `first` the row of
the first. An optimiser step gathers nothing. (DEDUCED: notes/assumptions 193.) -/
def State.gather (s : State) (n : Nat) (q : QIns) (first : Nat) (rows : List (List (Option Word))) : State :=
  let l := s.loom n
  let r := auxRecord q.aux 0
  match s.holderOf n, l.cmds[l.place q]? with
  | some p, some c =>
    if q.aux.scales.isEmpty || !(r.stats || r.alarm || r.calib) || c.kind == 3 then s
    else
      let task := if c.kind = 1 then some (c.bobbin, c.token, c.stripe) else none
      let x := s.part p
      s.setPart p { x with drained := x.drained ++ rows.zipIdx.map fun (e : List (Option Word) × Nat) =>
        { task := task, recs := q.aux.scales, books := q.aux.books, row := first + e.2, chan := q.aux.chan, xs := e.1 } }
  | _, _ => s

/-! ### WLOAD (R161, R162, R172, R173) -/

/-- Check 1 of R173 for a WLOAD. -/
def wloadOk (ws : List Word) : Bool :=
  let split := fld ws 0 4 2
  plainBits ws maskWload && decide (split ≤ 2) && decide (fld ws 0 6 2 < groupCount split) && decide (fld ws 0 8 4 ≤ 6) &&
    decide (1 ≤ fld ws 2 0 7) && decide (fld ws 2 0 7 ≤ 64) && decide (1 ≤ fld ws 2 8 7) &&
    decide (fld ws 2 8 7 ≤ groupWidth split)

/-- The tile that a WLOAD takes from what its shuttle delivers: operands, then the codebook on a 64-byte boundary. -/
def wloadTile (ws : List Word) (d : Data) : Tile :=
  let mode := fld ws 0 8 4
  let rows := fld ws 2 0 7
  let cols := fld ws 2 8 7
  let at' := roundUp (packedBytes (wBits mode) (rows * cols)) 64
  { mode := mode, split := fld ws 0 4 2, rows := rows, cols := cols, cells := tileCells mode rows cols d
    book := if fld ws 0 16 1 = 1 then some (loadBook (fld ws 0 17 1 == 1) (fld ws 0 18 1 == 1) cols (d.drop at')) else none }

/-- Execute a WLOAD. -/
def State.runWload (s : State) (n : Nat) (q : QIns) (d : Data) : State × Status :=
  let ws := q.words
  let g := fld ws 0 6 2
  let tag := fld ws 7 0 16
  if wloadOk ws then
    let t := (s.reshape n (fld ws 0 4 2)).mapGroup n g fun x => { x with back := some (wloadTile ws d) }
    (t.arrayStatus n g tag .done {}, .done)
  else (s.arrayStatus n g tag .badParam {}, .badParam)

/-! ### MM and MMT (R160 to R173) -/

/-- An MM or MMT descriptor laid open. -/
structure MmIns where
  weft   : Bool
  split  : Nat
  group  : Nat
  rd     : Reading
  keep   : Bool
  accIn  : Bool
  accOut : Bool
  m      : Nat
  rows   : Nat
  cols   : Nat
  aBase  : Nat
  aStride : Nat
  accRow : Nat
  epi    : Nat
  oBase  : Nat
  tag    : Nat
  deriving DecidableEq, Repr

/-- The fields of R172. -/
def mmIns (ws : List Word) : MmIns :=
  { weft := fld ws 0 0 4 == 2, split := fld ws 0 4 2, group := fld ws 0 6 2
    rd := { mode := fld ws 0 8 4, uns := fld ws 0 12 1 == 1, aE5M2 := fld ws 0 13 1 == 1, wE5M2 := fld ws 0 14 1 == 1 }
    keep := fld ws 0 16 1 == 1, accIn := fld ws 0 17 1 == 1, accOut := fld ws 0 18 1 == 1
    m := fld ws 1 0 11, rows := fld ws 1 16 7, cols := fld ws 1 24 7, aBase := fld ws 2 0 21, aStride := fld ws 3 0 21
    accRow := fld ws 4 0 10, epi := fld ws 5 0 16, oBase := fld ws 6 0 21, tag := fld ws 7 0 16 }

/-- The contraction length. -/
def MmIns.len (x : MmIns) : Nat := if x.weft then x.cols else x.rows
/-- The outputs of a vector. -/
def MmIns.outs (x : MmIns) : Nat := if x.weft then x.rows else x.cols
/-- The group's first column. -/
def MmIns.first (x : MmIns) : Nat := x.group * groupWidth x.split
/-- The bytes of a streamed vector. -/
def MmIns.vecBytes (x : MmIns) : Nat := x.len * aBytes x.rd.mode
/-- The bytes of an output row. -/
def MmIns.rowBytes (x : MmIns) (aux : Aux) : Nat := packedBytes (auxOutBits aux) x.outs

/-- Check 1 of R173; the output region counts where the instruction has one, with ACC_OUT = 1.
(DEDUCED: notes/assumptions 194.) -/
def MmIns.ok (x : MmIns) (ws : List Word) (aux : Aux) : Bool :=
  plainBits ws maskMm && decide (x.split ≤ 2) && decide (x.group < groupCount x.split) && decide (x.rd.mode ≤ 6) &&
    decide (1 ≤ x.m) && decide (x.m ≤ 1024) && decide (1 ≤ x.rows) && decide (x.rows ≤ 64) && decide (1 ≤ x.cols) &&
    decide (x.cols ≤ groupWidth x.split) && x.aBase % 64 == 0 && x.aStride % 64 == 0 && x.oBase % 64 == 0 &&
    decide (x.accRow + x.m ≤ 1024) && !(x.weft && x.split != 0) &&
    decide (x.aBase + (x.m - 1) * x.aStride + x.vecBytes ≤ scratchLen) &&
    (!x.accOut || decide (x.oBase + (x.m - 1) * aux.stride + x.rowBytes aux ≤ scratchLen))

/-- The key of an accumulator. -/
def MmIns.acc (x : MmIns) (m o : Nat) : Nat := (x.accRow + m) * 64 + x.first + o

/-- What a cell holds that the load of its tile did not write. (DESIGN CHOICE: notes/assumptions 191.) -/
def staleCell (mode n r col : Nat) : Nat := (Config.staleCell n r col).toNat % 2 ^ wBits mode

/-- The cell that a term of an output uses: its code, the codebook entry that it selects, and their poison flag. -/
def MmIns.cell (x : MmIns) (l : Loom) (n : Nat) (t : Tile) (o i : Nat) : Nat × Int × Bool :=
  let r := if x.weft then o else i
  let c := if x.weft then i else o
  let w := ((t.cells.getD r [])[c]?).getD (staleCell x.rd.mode n r (x.first + c), false)
  if modeBook x.rd.mode then
    let e := l.entry n (x.first + c) w.1
    (w.1, e.1, w.2 || e.2)
  else (w.1, 0, w.2)

/-- The terms of one output of one vector. -/
def MmIns.terms (x : MmIns) (l : Loom) (n : Nat) (t : Tile) (v : Data) (o : Nat) : List Term :=
  (List.range x.len).map fun i =>
    let w := x.cell l n t o i
    { a := packedAt (8 * aBytes x.rd.mode) v i, w := w.1, entry := w.2.1, bad := w.2.2 }

/-- The accumulators of one output row, with what the pass met. -/
def MmIns.rowAccs (x : MmIns) (tree : Bool) (l : Loom) (n : Nat) (t : Tile) (m : Nat) (v : Data) : List Acc × Faults :=
  (List.range x.outs).foldl (fun (a : List Acc × Faults) o =>
    let start := if x.accIn then tgetD l.accs (x.acc m o) (freshAcc x.rd.mode) else freshAcc x.rd.mode
    let r := joinPass x.rd tree start (x.terms l n t v o)
    (a.1 ++ [r.1], a.2.join r.2)) ([], {})

/-- Store the accumulators of the rows. -/
def MmIns.keepAccs (x : MmIns) (old : Tbl Acc) (rows : List (List Acc)) : Tbl Acc :=
  rows.zipIdx.foldl (fun (a : Tbl Acc) (r : List Acc × Nat) =>
    r.1.zipIdx.foldl (fun (b : Tbl Acc) (e : Acc × Nat) => tset b (x.acc r.2 e.2) e.1) a) old

/-- Convert rows of FP32 elements for an instruction and store each at its place: their statistics are gathered, and the NaNs
and an invalid record are counted (R176, R230 to R232). -/
def State.convert (s : State) (n : Nat) (q : QIns) (rows : List (List (Option Word))) (place : State → List Data → State) : State :=
  let ds := rows.map (auxStore q.aux)
  let t := (place s (ds.map (·.1))).countConv n (ds.map fun d => d.2.1).sum (ds.any fun d => d.2.2)
  t.gather n q 0 rows

/-- Write rows at a stride from a scratchpad offset. (DESIGN CHOICE: notes/assumptions 64.) -/
def State.writeRows (n base stride : Nat) (s : State) (ds : List Data) : State :=
  foldState (fun (u : State) (e : Data × Nat) => u.writeData (scratch n (base + e.2 * stride)) (rowData e.1)) s ds.zipIdx

/-- A swap brings a group's back operands to the front, with a codebook that they carry (R155, R163). -/
def State.swapIn (s : State) (n g first width : Nat) (t : Tile) : State :=
  let a := s.mapGroup n g fun _ => { front := some t, back := none }
  match t.book with
  | some b => a.setLoom n ((a.loom n).swapBook first width b)
  | none => a

/-- The pass itself, on the operands in use. -/
def State.mmPass (s : State) (n : Nat) (x : MmIns) (q : QIns) (t : Tile) : State × Status :=
  let a := if x.keep then s else s.swapIn n x.group x.first (groupWidth x.split) t
  let vs := a.readRows x.aStride x.vecBytes x.m (scratch n x.aBase)
  let rs := vs.2.zipIdx.map fun (e : Data × Nat) => x.rowAccs (s.profile == 2) (a.loom n) n t e.2 e.1
  let met := rs.foldl (fun (f : Faults) r => f.join r.2) { wpar := q.aux.parity }
  let rows := rs.map fun r => if met.any then r.1.map fun (c : Acc) => { c with bad := true } else r.1
  let l := vs.1.loom n
  let b := (vs.1.setLoom n { l with accs := x.keepAccs l.accs rows }).putBit F.LOOM_ARRAY_CFG_AXIS x.weft n
  let c := if x.accOut then b.convert n q (rows.map (epilogue x.epi)) (State.writeRows n x.oBase q.aux.stride) else b
  let d := c.countPasses n 1 (x.m * x.rows * x.cols * slotTime x.rd.mode)
  let st : Status := if met.any then .poisoned else .done
  (d.arrayStatus n x.group x.tag st met, st)

/-- Whether ACC_IN meets rows of the other mode class, or rows that hold none (check 4 of R173).
(DEDUCED: notes/assumptions 62.) -/
def MmIns.classOk (x : MmIns) (old : Tbl Acc) : Bool :=
  !x.accIn || (List.range x.m).all fun m => (List.range x.outs).all fun o =>
    match tget? old (x.acc m o) with
    | some a => a.float == modeFloat x.rd.mode
    | none => false

/-- Execute an MM or MMT. -/
def State.runMm (s : State) (n : Nat) (q : QIns) : State × Status :=
  let x := mmIns q.words
  let fail := fun (st : Status) =>
    let t := if x.accOut then s.poisonRows n x.oBase q.aux.stride (x.rowBytes q.aux) x.m else s
    (t.arrayStatus n x.group x.tag st {}, st)
  let grp := (s.loom n).group x.group
  if !x.ok q.words q.aux then fail .badParam
  else
    match (if x.keep then grp.front else grp.back) with
    | none => fail .badState
    | some t =>
      if t.mode ≠ x.rd.mode ∨ t.split ≠ x.split then fail .badState
      else if !x.classOk (s.loom n).accs then fail .badState
      else s.mmPass n x q t

/-! ### VPROG (R259) -/

/-- The row that partial rows add up to: in a float image FP32 in the order in which they arrived, one rounding for each addition;
else exactly (R294). -/
def State.addPartials (s : State) (float : Bool) (len : Nat) : List Nat → List (Option Int) → State × List (Option Int)
  | [], sum => (s, sum)
  | a :: t, sum =>
    let r := s.readData a len
    let v := vectorOf float r.2
    r.1.addPartials float len t (if sum.isEmpty then v else List.zipWith (tokAdd float) sum v)

/-- Whether the image that a loom works for is a float image. -/
def State.floatOn (s : State) (n : Nat) : Bool := ((s.holderOf n).bind s.jobModel).any (·.info.float)

/-- Whether a loom works for an image that may split float sums: PROFILE 0x03 under FAST (R294). -/
def State.splitsSums (s : State) (n : Nat) : Bool :=
  s.profile == 3 && ((s.holderOf n).bind s.jobModel).any fun m => m.profile == 3

/-- The partial rows of a VPROG's row, of an image that may split its sums. -/
def State.partialsOf (s : State) (n : Nat) (aux : Aux) (m : Nat) : List Nat :=
  if s.splitsSums n || !s.floatOn n then aux.partials.getD m [] else []

/-- The values that a VPROG starts from in one row: the sum of partial rows, or what its program takes from the bytes of its
input row; none where one is poisoned. -/
def State.vprogRow (s : State) (n : Nat) (x : MmIns) (aux : Aux) (len m : Nat) : State × Option (List Word) :=
  match s.partialsOf n aux m with
  | a :: t =>
    let r := s.addPartials (s.floatOn n) len (a :: t) []
    (r.1, (allSome r.2).map fun v => v.map fun (i : Int) => w32 (unsigned 32 i))
  | [] =>
    let r := s.readData (scratch n (x.aBase + m * x.aStride)) len
    (r.1, if dataGood r.2 then some (Config.vecInput x.epi (dataBytes r.2)) else none)

/-- The rows of a VPROG, and what its program makes of each. -/
def State.vprogRows (s : State) (n : Nat) (x : MmIns) (aux : Aux) (len : Nat) : Nat → State × List (Option (List Word))
  | 0 => (s, [])
  | m + 1 =>
    let r := s.vprogRows n x aux len m
    let u := r.1.vprogRow n x aux len m
    (u.1, r.2 ++ [u.2.map (vecRun (Config.vecProgram x.epi))])

/-- The elements of a VPROG's output row; a poisoned one is as long as the row's place. -/
def vprogElems (aux : Aux) (r : Option (List Word)) : List (Option Word) :=
  let fits := aux.stride * 8 / auxOutBits aux
  match r with
  | some ws => (ws.take fits).map some
  | none => List.replicate fits none

/-- A first-come reduction of a FAST image is one choice per command (R294, R297): a float row that adds two partial rows or more.
(DEDUCED: notes/assumptions 68.) -/
def State.noteReduce (s : State) (n : Nat) (x : MmIns) (q : QIns) : State :=
  let l := s.loom n
  let k := l.place q
  let fresh := (l.cmds[k]?).any fun (c : LoomCmd) => !c.reduced
  if ((List.range x.m).any fun m => decide (2 ≤ (q.aux.partials.getD m []).length)) && s.splitsSums n && s.floatOn n && fresh then
    let cs := l.cmds.modify k fun c => { c with reduced := true }
    State.tdc (s.setLoom n { l with cmds := cs }) 6
  else s

/-- Execute a VPROG: a vector-unit program on M rows of A_STRIDE bytes. (DEDUCED: notes/assumptions 66.) -/
def State.runVprog (s : State) (n : Nat) (q : QIns) : State × Status :=
  let x := mmIns q.words
  let len := if x.aStride = 0 then 64 else x.aStride
  let ok := plainBits q.words maskMm && decide (1 ≤ x.m) && decide (x.m ≤ 1024) && x.aBase % 64 == 0 && x.aStride % 64 == 0 &&
    x.oBase % 64 == 0 && decide (x.aBase + (x.m - 1) * x.aStride + len ≤ scratchLen) &&
    decide (x.oBase + x.m * q.aux.stride ≤ scratchLen)
  if !ok then (s.poisonRows n x.oBase q.aux.stride q.aux.stride x.m, .badParam)
  else
    let vs := (s.noteReduce n x q).vprogRows n x q.aux len x.m
    let t := vs.1.convert n q (vs.2.map (vprogElems q.aux)) (State.writeRows n x.oBase q.aux.stride)
    (t, if vs.2.all (·.isSome) then .done else .poisoned)

/-! ### CONV and DW (R177 to R185) -/

/-- A CONV or DW descriptor laid open (R179). -/
structure ConvIns where
  dw      : Bool
  split   : Nat
  group   : Nat
  rd      : Reading
  padMode : Nat
  cb      : Bool
  cbChan  : Bool
  cbLarge : Bool
  k       : Nat
  stride  : Nat
  dil     : Nat
  padL    : Nat
  padR    : Nat
  padT    : Nat
  padB    : Nat
  inW     : Nat
  inH     : Nat
  cin     : Nat
  cout    : Nat
  aBase   : Nat
  aLine   : Nat
  aPix    : Nat
  lbBase  : Nat
  lbSize  : Nat
  oBase   : Nat
  oLine   : Nat
  oPix    : Nat
  wTag    : Nat
  epi     : Nat
  padVal  : Nat
  tag     : Nat
  deriving DecidableEq, Repr

/-- The fields of R179. -/
def convIns (ws : List Word) : ConvIns :=
  { dw := fld ws 0 0 4 == 5, split := fld ws 0 4 2, group := fld ws 0 6 2
    rd := { mode := fld ws 0 8 4, uns := fld ws 0 12 1 == 1, aE5M2 := fld ws 0 13 1 == 1, wE5M2 := fld ws 0 14 1 == 1 }
    padMode := fld ws 0 16 2, cb := fld ws 0 18 1 == 1, cbChan := fld ws 0 19 1 == 1, cbLarge := fld ws 0 20 1 == 1
    k := fld ws 1 0 4, stride := fld ws 1 4 4, dil := fld ws 1 8 3
    padL := fld ws 2 0 6, padR := fld ws 2 8 6, padT := fld ws 2 16 6, padB := fld ws 2 24 6
    inW := fld ws 3 0 14, inH := fld ws 3 16 14, cin := fld ws 4 0 12, cout := fld ws 4 16 7
    aBase := fld ws 5 0 21, aLine := fld ws 6 0 21, aPix := fld ws 7 0 13, lbBase := fld ws 8 0 21, lbSize := fld ws 9 0 21
    oBase := fld ws 10 0 21, oLine := fld ws 11 0 21, oPix := fld ws 12 0 13, wTag := fld ws 13 0 11, epi := fld ws 13 16 16
    padVal := fld ws 14 0 16, tag := fld ws 15 0 16 }

/-- The extent E of the kernel (R178). -/
def ConvIns.extent (x : ConvIns) : Nat := (x.k - 1) * x.dil + 1
/-- The line-buffer need E × L (R178). -/
def ConvIns.lbNeed (x : ConvIns) : Nat := x.extent * roundUp (x.inW * min x.cin 64 * aBytes x.rd.mode) 64
/-- OUT_W (R182). -/
def ConvIns.outW (x : ConvIns) : Nat :=
  (((x.inW : Int) + x.padL + x.padR - x.dil * (x.k - 1 : Nat) - 1) / x.stride + 1).toNat
/-- OUT_H (R182). -/
def ConvIns.outH (x : ConvIns) : Nat :=
  (((x.inH : Int) + x.padT + x.padB - x.dil * (x.k - 1 : Nat) - 1) / x.stride + 1).toNat
/-- The bytes of one output pixel of the instruction. -/
def ConvIns.pixBytes (x : ConvIns) (aux : Aux) : Nat := packedBytes (auxOutBits aux) x.cout

/-- The length of a tile in memory from its first byte. -/
def tileSpan (w h line pix bytes : Nat) : Nat := (h - 1) * line + (w - 1) * pix + bytes

/-- The input, line-buffer and output regions. -/
def ConvIns.regions (x : ConvIns) (aux : Aux) : List (Nat × Nat) := [
  (x.aBase, tileSpan x.inW x.inH x.aLine x.aPix (x.cin * aBytes x.rd.mode)), (x.lbBase, x.lbSize),
  (x.oBase, if x.outW = 0 ∨ x.outH = 0 then 0 else tileSpan x.outW x.outH x.oLine x.oPix (x.pixBytes aux))]

/-- Whether no two regions share a byte. -/
def apart : List (Nat × Nat) → Bool
  | [] => true
  | a :: t => (t.all fun b => decide (a.1 + a.2 ≤ b.1) || decide (b.1 + b.2 ≤ a.1)) && apart t

/-- The fields in range and the reserved bits 0. -/
def ConvIns.inRange (x : ConvIns) (ws : List Word) : Bool :=
  let pad := (x.k - 1) * x.dil
  plainBits ws maskConv && decide (x.split ≤ 2) && decide (x.group < groupCount x.split) && decide (x.rd.mode ≤ 6) &&
    decide (1 ≤ x.k) && decide (x.k ≤ 11) && decide (1 ≤ x.stride) && decide (x.stride ≤ 8) && decide (1 ≤ x.dil) &&
    decide (x.dil ≤ 4) && decide (x.padL ≤ pad) && decide (x.padR ≤ pad) && decide (x.padT ≤ pad) && decide (x.padB ≤ pad) &&
    decide (1 ≤ x.inW) && decide (x.inW ≤ 8192) && decide (1 ≤ x.inH) && decide (x.inH ≤ 8192) && decide (1 ≤ x.cin) &&
    decide (x.cin ≤ 2048) && decide (1 ≤ x.cout) && decide (x.cout ≤ groupWidth x.split) && (!x.dw || x.cin == x.cout) &&
    x.aBase % 64 == 0 && x.aLine % 64 == 0 && decide (x.cin * aBytes x.rd.mode ≤ x.aPix) && x.lbBase % 64 == 0 &&
    decide (64 ≤ x.lbSize) && decide (x.lbSize ≤ 0x100000) && x.lbSize % 64 == 0 && x.oBase % 64 == 0 && x.oLine % 64 == 0

/-- Checks 1 and 2 of R180. -/
def ConvIns.ok (x : ConvIns) (ws : List Word) (aux : Aux) : Bool :=
  x.inRange ws && decide (x.extent ≤ 16) && decide (x.lbNeed ≤ x.lbSize) &&
    (x.regions aux).all (fun r => decide (r.1 + r.2 ≤ scratchLen)) && apart (x.regions aux) &&
    (x.padMode != 2 || (decide (x.padL < x.inW) && decide (x.padR < x.inW) && decide (x.padT < x.inH) && decide (x.padB < x.inH))) &&
    decide (1 ≤ x.outW) && decide (1 ≤ x.outH)

/-- A coordinate mirrored with the edge not repeated. -/
def mirrorCoord (x : Int) (w : Nat) : Int := if x < 0 then -x else if (w : Int) ≤ x then 2 * ((w : Int) - 1) - x else x

/-- A coordinate held inside. -/
def clampCoord (x : Int) (w : Nat) : Int := max 0 (min ((w : Int) - 1) x)

/-- The input position that a tap reads, if it reads one (R182, R183). -/
def ConvIns.source (x : ConvIns) (px py : Int) : Option (Nat × Nat) :=
  if 0 ≤ px ∧ px < x.inW ∧ 0 ≤ py ∧ py < x.inH then some (px.toNat, py.toNat)
  else if x.padMode = 1 then some ((clampCoord px x.inW).toNat, (clampCoord py x.inH).toNat)
  else if x.padMode = 2 then some ((mirrorCoord px x.inW).toNat, (mirrorCoord py x.inH).toNat)
  else none

/-- The position of tap (kx, ky) of output pixel (ox, oy), if it reads one. -/
def ConvIns.tap (x : ConvIns) (ox oy kx ky : Nat) : Option (Nat × Nat) :=
  x.source ((x.stride * ox : Nat) - (x.padL : Int) + (x.dil * kx : Nat)) ((x.stride * oy : Nat) - (x.padT : Int) + (x.dil * ky : Nat))

/-- The address of a channel of an input pixel. -/
def ConvIns.inAddr (x : ConvIns) (n : Nat) (p : Nat × Nat) (ch : Nat) : Nat :=
  scratch n (x.aBase + p.2 * x.aLine + p.1 * x.aPix + ch * aBytes x.rd.mode)

/-- Every position that some tap of some output touches (R184). -/
def ConvIns.touched (x : ConvIns) : List (Nat × Nat) :=
  (List.range x.outH).flatMap fun oy => (List.range x.outW).flatMap fun ox =>
    (List.range x.k).flatMap fun ky => (List.range x.k).filterMap fun kx => x.tap ox oy kx ky

/-- The front end reads the positions that a tap touches, and no other (R184). -/
def State.touchTaps (s : State) (n : Nat) (x : ConvIns) : State :=
  foldState (fun t p => (t.readData (x.inAddr n p 0) (x.cin * aBytes x.rd.mode)).1) s x.touched

/-- The data at an address, stored errors already found. -/
def Memory.peek (m : Memory) (a n : Nat) : Data :=
  (List.range n).map fun i => if m.good (granBase (a + i)) then some (m.byte (a + i)) else none

/-- The streamed code of a tap and channel. -/
def ConvIns.code (x : ConvIns) (m : Memory) (n ox oy kx ky ch : Nat) : Option Nat :=
  let b := aBytes x.rd.mode
  match x.tap ox oy kx ky with
  | some p => packedAt (8 * b) (m.peek (x.inAddr n p ch) b) 0
  | none => some (if x.padMode = 3 then x.padVal % 2 ^ (8 * b) else 0)

/-- The channels of a slice; a DW instruction has one. -/
def ConvIns.sliceRows (x : ConvIns) (sl : Nat) : Nat := if x.dw then 1 else min 64 (x.cin - 64 * sl)
/-- The channel slices. -/
def ConvIns.slices (x : ConvIns) : Nat := if x.dw then 1 else ceilDiv x.cin 64
/-- The bytes of the weight tiles of a slice's tap. -/
def ConvIns.tileBytes (x : ConvIns) (sl : Nat) : Nat := packedBytes (wBits x.rd.mode) (x.sliceRows sl * x.cout)
/-- Where the weight tile of a slice's tap starts: tiles in the order of R185. (DESIGN CHOICE: notes/assumptions 65.) -/
def ConvIns.tileAt (x : ConvIns) (sl ky kx : Nat) : Nat :=
  ((List.range sl).map fun i => x.k * x.k * x.tileBytes i).sum + (ky * x.k + kx) * x.tileBytes sl
/-- The bytes of all weight tiles. -/
def ConvIns.allTiles (x : ConvIns) : Nat := ((List.range x.slices).map fun i => x.k * x.k * x.tileBytes i).sum

/-- The group's first column. -/
def ConvIns.first (x : ConvIns) : Nat := x.group * groupWidth x.split

/-- The terms of one slice's tap for one output channel. -/
def ConvIns.terms (x : ConvIns) (m : Memory) (l : Loom) (n : Nat) (w : Data) (ox oy oc sl ky kx : Nat) : List Term :=
  let d := w.drop (x.tileAt sl ky kx)
  (List.range (x.sliceRows sl)).map fun i =>
    let c := packedAt (wBits x.rd.mode) d (i * x.cout + oc)
    let e := if modeBook x.rd.mode then l.entry n (x.first + oc) (c.getD 0) else (0, false)
    { a := x.code m n ox oy kx ky (if x.dw then oc else 64 * sl + i), w := c.getD 0, bad := c.isNone || e.2, entry := e.1 }

/-- The accumulator of one output channel of one output pixel, its terms in the order of R185. -/
def ConvIns.acc (x : ConvIns) (m : Memory) (l : Loom) (tree : Bool) (n : Nat) (w : Data) (ox oy oc : Nat) : Acc × Faults :=
  let steps := (List.range x.slices).flatMap fun sl => (List.range x.k).flatMap fun ky => (List.range x.k).map fun kx => (sl, ky, kx)
  steps.foldl (fun (a : Acc × Faults) (e : Nat × Nat × Nat) =>
    let r := joinPass x.rd (tree && !x.dw) a.1 (x.terms m l n w ox oy oc e.1 e.2.1 e.2.2)
    (r.1, a.2.join r.2)) (freshAcc x.rd.mode, {})

/-- The accumulators of one output line: pixels, each with its channels. -/
def ConvIns.line (x : ConvIns) (m : Memory) (l : Loom) (tree : Bool) (n : Nat) (w : Data) (oy : Nat) : List (List (Acc × Faults)) :=
  (List.range x.outW).map fun ox => (List.range x.cout).map fun oc => x.acc m l tree n w ox oy oc

/-- Write the output tile: lines of pixels. -/
def State.writeTile (s : State) (n : Nat) (x : ConvIns) (lines : List (List Data)) : State :=
  foldState (fun (t : State) (e : List Data × Nat) => t.writeElems (scratch n (x.oBase + e.2 * x.oLine)) x.oPix e.1) s lines.zipIdx

/-- Write the whole output region poisoned, as far as it lies in the scratchpad. -/
def State.poisonTile (s : State) (n : Nat) (x : ConvIns) (aux : Aux) : State :=
  timesFrom (fun t oy => t.poisonRows n (x.oBase + oy * x.oLine) x.oPix (x.pixBytes aux) x.outW) x.outH 0 s

/-- The status of a CONV or DW. -/
def State.convStatus (s : State) (n tag : Nat) (st : Status) : State :=
  (s.put F.LOOM_CONV_STAT_STATUS st.code n).put F.LOOM_CONV_STAT_TAG tag n

/-- The bytes of one line of the last channel slice as the line buffer holds it: touched positions as they were read, the rest as
the line buffer's bytes stand. (DESIGN CHOICE: notes/assumptions 195.) -/
def ConvIns.bufferLine (x : ConvIns) (m : Memory) (n : Nat) (touched : List (Nat × Nat)) (y at' : Nat) : Data :=
  let sl := x.slices - 1
  let len := (if x.dw then x.cin else x.sliceRows sl) * aBytes x.rd.mode
  (List.range x.inW).flatMap fun px =>
    if touched.contains (px, y) then m.peek (x.inAddr n (px, y) (64 * sl)) len else m.peek (at' + px * len) len

/-- The line buffer keeps the most recent lines that taps touched, E at most: line y in place y mod E (R177, R178).
(DESIGN CHOICE: notes/assumptions 195.) -/
def State.keepLines (s : State) (n : Nat) (x : ConvIns) : State :=
  let ps := x.touched
  let last := ps.foldl (fun m p => max m p.2) 0
  let pitch := roundUp (x.inW * min x.cin 64 * aBytes x.rd.mode) 64
  foldState (fun (t : State) y =>
    let a := scratch n (x.lbBase + y % x.extent * pitch)
    t.writeData a (rowData (x.bufferLine s.mem n ps y a))) s (if ps.isEmpty then [] else (List.range x.extent).filterMap fun i =>
      if i ≤ last then some (last - i) else none)

/-- The shed register after the last window: K × K positions of the last slice's channels. -/
def ConvIns.lastWindow (x : ConvIns) (m : Memory) (n : Nat) : List (List (Option Nat)) :=
  let sl := x.slices - 1
  (List.range x.k).flatMap fun ky => (List.range x.k).map fun kx =>
    (List.range (if x.dw then x.cin else x.sliceRows sl)).map fun i => x.code m n (x.outW - 1) (x.outH - 1) kx ky (64 * sl + i)

/-- The convolution itself. -/
def State.convPass (s : State) (n : Nat) (x : ConvIns) (q : QIns) (w : Data) : State × Status :=
  let a := (s.reshape n x.split).touchTaps n x
  let l := if x.cb then (a.loom n).swapBook x.first (groupWidth x.split) (loadBook x.cbChan x.cbLarge x.cout (w.drop (roundUp x.allTiles 64)))
    else a.loom n
  let ls := (List.range x.outH).map fun oy => x.line a.mem l (s.profile == 2) n w oy
  let met := ls.flatten.flatten.foldl (fun (f : Faults) r => f.join r.2) { wpar := q.aux.parity }
  let rows := ls.map fun l => l.map fun p => epilogue x.epi (p.map fun e => { e.1 with bad := e.1.bad || met.any })
  let b := (a.setLoom n { l with shed := x.lastWindow a.mem n }).keepLines n x
  let c := b.convert n q rows.flatten fun u ds =>
    u.writeTile n x ((List.range x.outH).map fun oy => (ds.drop (oy * x.outW)).take x.outW)
  let d := c.mapGroup n x.group fun _ => {}
  let products := x.outW * x.outH * x.k * x.k * x.cout * (if x.dw then 1 else x.cin)
  let e := d.countPasses n (x.slices * x.k * x.k) (products * slotTime x.rd.mode)
  let st : Status := if met.any then .poisoned else .done
  ((e.arrayStatus n x.group x.tag st met).convStatus n x.tag st, st)

/-- Execute a CONV or DW. A completed WLOAD stands in the way in the split mode in force only: a change of SPLIT leaves it unusable
(R171). (DEDUCED: notes/assumptions 196.) -/
def State.runConv (s : State) (n : Nat) (q : QIns) (w : Data) : State × Status :=
  let x := convIns q.words
  let fail := fun (st : Status) => ((s.poisonTile n x q.aux).convStatus n x.tag st, st)
  if !x.ok q.words q.aux then fail .badParam
  else if (s.loom n).split = x.split ∧ ((s.loom n).group x.group).back.isSome = true then fail .badState
  else s.convPass n x q w

end Sys2Proof.Machine
end

