-- ==== Sys2Proof/Machine/Attention.lean ====
section
/-! DEFINITION. Row tokens and attention (R201, R204 to R206): the sum of stripe vectors, the conversion of queries, keys and
values, KV entries, and a head's output. -/

namespace Sys2Proof.Machine

/-! ### Row tokens (R201) -/

/-- The sum of vectors in order; the first is taken as it is. -/
def tokSum (float : Bool) : List (List (Option Int)) → List (Option Int)
  | [] => []
  | a :: t => t.foldl (fun x y => List.zipWith (tokAdd float) x y) a

/-- The row token of a bobbin's next token: its stripe vectors in ascending stripe order, then the positional row. -/
def State.rowToken (s : State) (p id : Nat) : State × List (Option Int) :=
  let im := s.info p
  let t := (s.bob id).done
  match s.slotOf p id t with
  | none => (s, List.replicate (dimOf im) none)
  | some k =>
    let r := (List.range im.stripes.length).foldl (fun (a : State × List (List (Option Int))) i =>
      let d := a.1.readData (a.1.vectorAddr p k i) (4 * dimOf im)
      (d.1, a.2 ++ [vectorOf im.float d.2])) (s, [])
    (r.1, tokSum im.float (r.2 ++ [(List.range (dimOf im)).map fun d => some (Config.positional im t d)]))

/-! ### Conversions (R204 step 1, R206, R230) -/

/-- The arithmetic that fixes a partition's results (R216, R290): the profile, and for a float image that splits sums under FAST the
order in which they arrive; integer and codebook sums are exact (R294). -/
def State.sig (s : State) (p arrival : Nat) : Nat × Nat :=
  (s.profile, if s.profile == 3 && ((s.jobModel p).any fun m => m.profile == 3 && m.info.float) then arrival + 1 else 0)

/-- The orders in which the partial sums of a step arrive under FAST (R294): in the projections of heads, in the blocks after
their heads, in the layers after the blocks, and in the gradients. -/
structure Arrivals where
  projections : Nat
  blocks      : Nat
  heads       : Nat
  gradients   : Nat
  deriving DecidableEq, Repr

/-- A scale record with the format that an operand of attention takes (R204). -/
def withFmt (ws : List Word) (fmt : Nat) : List Word :=
  ws.set 2 (w32 ((ws.getD 2 0).toNat - bitsOf (ws.getD 2 0).toNat 16 4 * 2 ^ 16 + fmt * 2 ^ 16))

/-- The code of an element under a scale record; a NaN and an invalid record give poison. -/
def codeOf (ws : List Word) (book : List Int) (x : Option Word) : Option Nat :=
  let r := scaleRec ws
  match x with
  | some w => if r.valid && !isNan32 w.toNat then some (r.conv book w.toNat).code else none
  | none => none

/-- The bytes of KV codes: two to a byte, or one (R206). -/
def kvBytes (int8 : Bool) : List (Option Nat) → Data
  | [] => []
  | a :: t =>
    if int8 then a.map (BitVec.ofNat 8) :: kvBytes int8 t
    else
      match t with
      | [] => [a.map (BitVec.ofNat 8)]
      | b :: u => (match a, b with | some x, some y => some (BitVec.ofNat 8 (x + 16 * y)) | _, _ => none) :: kvBytes int8 u

/-- The codes that the bytes of a KV entry hold. -/
def kvCodes (int8 : Bool) (d : Data) : List (Option Nat) :=
  if int8 then d.map fun b => b.map (·.toNat)
  else d.flatMap fun b => [b.map fun x => x.toNat % 16, b.map fun x => x.toNat / 16]

/-- The integer that a key or value code stands for: an INT8 code, or a codebook entry. -/
def kvVal (int8 : Bool) (book : List Int) (c : Option Nat) : Option Int :=
  c.map fun x => if int8 then signed 8 x else book.getD x 0

/-- One head of one block for a row: its constants, and its query, key and value as FP32 elements. -/
structure HeadRow where
  k : Config.AttnConst
  x : List (List (Option Word))
  deriving DecidableEq, Repr

/-- The scale record of a head's query, key or value, in the format that R204 gives it. -/
def HeadRow.record (h : HeadRow) (int8 : Bool) (which : Nat) : List Word :=
  if which = 0 then withFmt h.k.qRec 0 else withFmt (if which = 1 then h.k.kRec else h.k.vRec) (if int8 then 0 else 3)

/-- The codebook of a head's keys or values. -/
def HeadRow.book (h : HeadRow) (which : Nat) : List Int := if which = 1 then h.k.kBook else if which = 2 then h.k.vBook else []

/-- The codes of a head's query, key or value. -/
def HeadRow.codes (h : HeadRow) (int8 : Bool) (which : Nat) : List (Option Nat) :=
  (h.x.getD which []).map (codeOf (h.record int8 which) (h.book which))

/-- The heads of a block for a row; a poisoned row gives poisoned elements (R169). -/
def headRows (im : Config.Image) (sig : Nat × Nat) (blk : Nat) (act : Option (List Word)) : List HeadRow :=
  (List.range im.heads).map fun h =>
    { k := (im.attn.getD blk []).getD h {}
      x := (List.range 3).map fun w =>
        match act with
        | some a => (Config.project im sig blk h w a ++ List.replicate im.headDim none).take im.headDim
        | none => List.replicate im.headDim none }

/-- The KV entry of a block: the keys of every head, then the values, then padding of 0x00 (R206, R308). -/
def kvEntry (im : Config.Image) (hs : List HeadRow) : Data :=
  let ks := hs.flatMap fun h => h.codes im.kvInt8 1
  let vs := hs.flatMap fun h => h.codes im.kvInt8 2
  let d := kvBytes im.kvInt8 ks ++ kvBytes im.kvInt8 vs
  d ++ List.replicate (entrySize im - d.length) (some 0)

/-- What the conversions of a head's query, key and value gather and count: NaNs on the loom that counts for them, invalid records,
statistics (R230 to R232). (DESIGN CHOICE: notes/assumptions 199.) -/
def State.noteConv (s : State) (p row : Nat) (h : HeadRow) (int8 : Bool) (which : Nat) : State :=
  let ws := h.record int8 which
  let xs := h.x.getD which []
  let r := scaleRec ws
  let t := s.countConv ((s.jobLooms p).headD 0) (xs.filter fun o => o.any fun w => isNan32 w.toNat).length (!r.valid)
  if r.stats || r.alarm || r.calib then
    let x := t.part p
    t.setPart p { x with drained := x.drained ++
      [{ task := none, recs := [ws], books := [h.book which], row := row, chan := 0, xs := xs }] }
  else t

/-! ### A head's output (R204 steps 2 to 7) -/

/-- An exact sum of products. -/
def dot (a b : List Int) : Int := (List.zipWith (· * ·) a b).sum

/-- The weight of a token: e × 255 rounded to nearest, ties to even; the token with the greatest score gives 255. -/
def weight (m sc : Nat) : Int :=
  if sc = m then 255
  else
    match val32 (exp2' (sub32 sc m)) with
    | .fin false k e =>
      min 255 ((if 0 ≤ e then 255 * k * 2 ^ e.toNat else rneDiv (255 * k) (2 ^ (-e).toNat) : Nat) : Int)
    | _ => 0

/-- The output of a head from its query, the keys and values of tokens 0 to t, c and sigma_v. -/
def attend (q : List Int) (ks vs : List (List Int)) (c sigma : Nat) : List Nat :=
  let ss := ks.map fun k => mul32 (int32 (dot q k)) c
  let m := ss.foldl max32 (ss.headD 0)
  let us := ss.map (weight m)
  let z := us.sum
  (List.range (vs.headD []).length).map fun d =>
    mul32 (int32 (dot us (vs.map fun v => v.getD d 0))) (mul32 sigma (rcp' (int32 z)))

/-- The output of a head, poisoned where the query, a key or a value is. -/
def headOutput (h : HeadRow) (int8 : Bool) (keys vals : List (List (Option Nat))) : List (Option Nat) :=
  let q := allSome ((h.codes int8 0).map (kvVal true []))
  let ks := allSome (keys.map fun k => allSome (k.map (kvVal int8 h.k.kBook)))
  let vs := allSome (vals.map fun v => allSome (v.map (kvVal int8 h.k.vBook)))
  match q, ks, vs with
  | some a, some b, some c => (attend a b c h.k.c.toNat (scaleRec h.k.vRec).sigma).map some
  | _, _, _ => (h.x.getD 0 []).map fun _ => none

/-- The codes of a token's entry: its keys and values. -/
def State.entryCodes (s : State) (p : Nat) (b : Bobbin) (blk j : Nat) : State × List (Option Nat) :=
  let im := s.info p
  let d := s.readData (s.entryAddr p b blk j) (entrySize im)
  (d.1, kvCodes im.kvInt8 d.2)

/-- The outputs of the heads of a block for a row, tokens 0 to t (R205); `lives` says that the row's KV entry is written, which
R215 discards for a bobbin whose compute has ended. -/
def State.attnBlock (s : State) (o : Arrivals) (p row : Nat) (b : Bobbin) (blk : Nat) (lives : Bool) (act : Option (List Word)) :
    State × List (List (Option Nat)) :=
  let im := s.info p
  let hs := headRows im (s.sig p o.projections) blk act
  let own := kvEntry im hs
  let a := foldState (fun (u : State) (h : HeadRow) => timesFrom (fun v w => v.noteConv p row h im.kvInt8 w) 3 0 u) s hs
  let w := if lives then a.writeData (a.entryAddr p b blk b.done) own else a
  let r := (List.range b.done).foldl (fun (acc : State × List (List (Option Nat))) j =>
    let d := acc.1.entryCodes p b blk j
    (d.1, acc.2 ++ [d.2])) (w, [])
  let es := r.2 ++ [kvCodes im.kvInt8 own]
  let dh := im.headDim
  let outs := hs.mapIdx fun h x => headOutput x im.kvInt8 (es.map fun e => (e.drop (h * dh)).take dh)
    (es.map fun e => (e.drop (dimOf im + h * dh)).take dh)
  let x := r.1.part p
  (r.1.setPart p { x with headOut := outs.zipIdx.foldl (fun o e => tset o (256 * row + 16 * blk + e.2) e.1) x.headOut }, outs)

/-- A row after its blocks, in ascending order; `none` where it is poisoned (R169, R204, R216). -/
def State.rowBlocks (s : State) (o : Arrivals) (p row : Nat) (b : Bobbin) (lives : Bool) : Nat → Nat → Option (List Word) → State × Option (List Word)
  | 0, _, act => (s, act)
  | n + 1, blk, act =>
    let r := s.attnBlock o p row b blk lives act
    let heads := (allSome r.2.flatten).map fun l => l.map w32
    let next := act.bind fun a => heads.bind fun h => Config.afterBlock (s.info p) (s.sig p o.blocks) blk a h
    r.1.rowBlocks o p row b lives n (blk + 1) next

end Sys2Proof.Machine
end

