-- ==== Sys2Proof/Machine/LoomFetch.lean ====
section
/-! DEFINITION. Line fetches (chapter 08, R186 to R193): the footprint of a stripe task, its conversion, regrouping and the
tile in scratchpad. -/

namespace Sys2Proof.Machine

/-- An LFETCH descriptor laid open (R192). -/
structure FetchIns where
  g      : Nat
  fmt    : Nat
  bobbin : Nat
  token  : Nat
  x0     : Nat
  width  : Nat
  sl     : Nat
  sr     : Nat
  v      : Nat
  r      : Nat
  dst    : Nat
  line   : Nat
  pix    : Nat
  tag    : Nat
  deriving DecidableEq, Repr

/-- The fields of R192; BOBBIN and TOKEN are those of the stripe task that the loom runs. -/
def fetchIns (ws : List Word) (task : Option LoomCmd) : FetchIns :=
  { g := 2 ^ fld ws 0 4 2, fmt := fld ws 0 6 2
    bobbin := (task.map (·.bobbin)).getD (fld ws 1 0 12), token := (task.map (·.token)).getD (fld ws 1 16 10)
    x0 := fld ws 2 0 16, width := fld ws 2 16 13, sl := fld ws 3 0 8, sr := fld ws 3 8 8, v := fld ws 3 16 8, r := fld ws 3 24 7
    dst := fld ws 4 0 21, line := fld ws 5 0 21, pix := fld ws 6 0 13, tag := fld ws 7 0 16 }

/-- The first line of the footprint. -/
def FetchIns.y0 (x : FetchIns) : Nat := x.r * x.token - x.v
/-- The lines of the footprint. -/
def FetchIns.ny (x : FetchIns) : Nat := x.r * x.token + x.r - x.y0
/-- The first pixel of the footprint. -/
def FetchIns.lo (x : FetchIns) : Nat := x.x0 - x.sl
/-- The pixels of the footprint on a stitched line. -/
def FetchIns.nx (x : FetchIns) (w : Nat) : Nat := min (x.x0 + x.width + x.sr) w - x.lo
/-- The bytes of an element. -/
def FetchIns.elem (x : FetchIns) : Nat := if x.fmt ≤ 1 then 1 else 2
/-- The bytes of a regrouped pixel. -/
def FetchIns.pixBytes (x : FetchIns) (comps : Nat) : Nat := x.g * x.g * comps * x.elem

/-- The stitched width of a bobbin's lines; a sample's lines have the model's width. -/
def State.lineWidth (s : State) (b : Bobbin) : Nat :=
  if b.sample.isSome then (s.info b.partition).width else s.stitchWidth b

/-- The components of a bobbin's lines. -/
def State.lineComps (s : State) (b : Bobbin) : Nat :=
  if b.sample.isSome then (s.info b.partition).comps else s.portComps (b.portList.headD 0)

/-- The checks of R193, which name no reserved bit. (DEDUCED: notes/assumptions 70, 197.) -/
def FetchIns.ok (x : FetchIns) (ws : List Word) (w comps : Nat) : Bool :=
  ws.length == 8 && decide (1 ≤ x.width) && decide (x.width ≤ 4096) && decide (4 ≤ x.r) && decide (x.r ≤ 64) &&
    x.dst % 64 == 0 && x.line % 64 == 0 && decide (x.pixBytes comps ≤ x.pix) && decide (x.x0 + x.width ≤ w) &&
    (x.g == 1 || (x.x0 % x.g == 0 && x.width % x.g == 0 && x.sl % x.g == 0 && x.sr % x.g == 0 && x.v % x.g == 0 &&
      x.r % x.g == 0 && w % x.g == 0)) &&
    decide (x.nx w / x.g * x.pix ≤ x.line) &&
    decide (x.dst + tileSpan (x.nx w / x.g) (x.ny / x.g) x.line x.pix (x.pixBytes comps) ≤ scratchLen)

/-- A 16-bit component in the format of the fetch. -/
def fetchCode (fmt v : Nat) : Nat :=
  if fmt = 0 then narrow 8 v
  else if fmt = 1 then unsigned 8 ((narrow 8 v : Int) - 128)
  else (if fmt = 2 then fmtFP16 else fmtBF16).round (.fin false v (-16))

/-- A component as the bytes of its element. -/
def fetchBytes (fmt : Nat) (v : Px) : Data :=
  match v with
  | some u => (natBytes (if fmt ≤ 1 then 1 else 2) (fetchCode fmt u)).map some
  | none => List.replicate (if fmt ≤ 1 then 1 else 2) none

/-- The bytes of a line that the port's fill pattern gives (R90). -/
def fillBytes (pattern n : Nat) : Data :=
  (List.range n).map fun o => some (BitVec.ofNat 8 (pattern / 2 ^ (8 * (o % 2))))

/-- Unpack a line in a pipe's output format (R113). -/
def unpackOut (fmt : Nat) (d : Data) (w : Nat) : Comps :=
  if fmt = 5 then
    (List.range 3).map fun c => (List.range w).map fun x =>
      both (fun l h => l + 256 * h) (byteAt d (6 * x + 2 * c)) (byteAt d (6 * x + 2 * c + 1))
  else
    unpackLine (if fmt = 1 then 0x2B else if fmt = 2 then 0x2C else if fmt = 3 then 0x2E else if fmt = 4 then 0x24 else 0x2A) d w

/-- Unpack a port's line as the bobbin takes it: an output line in the format of its block (R103), a line of a port without a pipe in
the port's data type. -/
def State.unpackPort (s : State) (p : Nat) (fmt : Option Nat) (d : Data) : Comps :=
  match fmt with
  | some f => unpackOut f d (s.portWidth p)
  | none => unpackLine (s.get F.CAM_CTRL_DT p) d (s.portWidth p)

/-- The line of a port that a bobbin's window line reads, if one is stored, with its format if a pipe has put it out: the block that it
belongs to decides, not the pipe that serves the port now (R103). -/
def State.lineAt (s : State) (p : Nat) (id : Nat) (pos : Int) : Option (Line × Option Nat) :=
  let c := s.cam p
  let here := fun (l : Line) => decide (l.pos ≤ pos) && decide (pos ≤ l.hi) && l.takers.any fun t => t.isBob id
  match c.outs.find? here with
  | some l => some (l, some l.fmt)
  | none => (c.held.find? fun l => l.stage == 0 && here l).map fun l => (l, none)

/-- A line's data as read, the words `lost` on the link to the store poisoned (R35). -/
def lostWords (lost : List Nat) (d : Data) : Data := d.mapIdx fun i b => if lost.contains (i / 8) then none else b

/-- One port line of a footprint: its components; a line that lies in a hole, stored or not and listed still or not, reads as fill and
is counted. `beyond` says that it lies beyond the window, `lost` which 64-bit words of the line are lost on the way (R35). -/
def State.fetchPortLine (s : State) (n id p : Nat) (pos : Int) (beyond : Bool) (lost : List Nat) : State × Comps :=
  let t := s.bumpWrap F.LOOM_FETCH_LINES_LINES 1 n
  let fill := fillBytes (s.get F.CAM_FILL_FILL p) (4 * s.get F.CAM_LINE_WORDS_LINE_WORDS p)
  let fillPx := match s.servedBy p with
    | some q => unpackOut (s.get F.PIPE_OUT_FMT_FMT q)
        (fillBytes (s.get F.CAM_FILL_FILL p) (packedLen (s.get F.PIPE_OUT_FMT_FMT q) (s.portWidth p))) (s.portWidth p)
    | none => s.unpackPort p none fill
  if beyond then (t, fillPx)
  else
    match (if s.inHole p pos then none else s.lineAt p id pos).filter fun e => !inRanges e.1.gaps pos with
    | some (l, fmt) =>
      let r := t.readData l.addr l.len
      (r.1, s.unpackPort p fmt (lostWords lost r.2))
    | none => (t.bump F.LOOM_FETCH_FILL_HOLE n, fillPx)

/-- The components of one footprint line, its ports joined; only the ports that the footprint touches are read. -/
def State.fetchStitched (s : State) (n id : Nat) (pos : Int) (beyond : Bool) (lost : Nat → List Nat) (lo nx : Nat) :
    List (Nat × Nat × Nat) → State × Comps
  | [] => (s, [])
  | (p, x, w) :: t =>
    if x < lo + nx ∧ lo < x + w then
      let r := s.fetchPortLine n id p pos beyond (lost p)
      let a := lo - x
      let cut := r.2.map fun c => (c.drop a).take (min (x + w) (lo + nx) - max x lo)
      let u := State.fetchStitched r.1 n id pos beyond lost lo nx t
      (u.1, if u.2.isEmpty then cut else cut.mapIdx fun i c => c ++ u.2.getD i [])
    else s.fetchStitched n id pos beyond lost lo nx t

/-- One footprint line: components, each with the footprint's pixels. `lost` are the words lost on the way (R35), by port, line and word;
a sample's lines are port 0's. -/
def State.fetchLine (s : State) (n : Nat) (x : FetchIns) (b : Bobbin) (lost : List (Nat × Nat × Nat)) (w y : Nat) : State × Comps :=
  let beyond := decide (b.wlen ≤ y)
  let t := if beyond then s.bump F.LOOM_FETCH_FILL_BEYOND n else s
  let gone := fun (p : Nat) => (lost.filter fun e => e.1 == p && e.2.1 == y).map fun e => e.2.2
  match b.sample with
  | some seq =>
    let im := s.info b.partition
    let d := (((s.sample? seq).map (·.lines)).getD []).getD y []
    let bytes : Data := if beyond then fillBytes (s.get F.SAMPLE_FILL_FILL) (packedLen im.inFmt w) else lostWords (gone 0) (goodData d)
    (t.bumpWrap F.LOOM_FETCH_LINES_LINES 1 n, (unpackOut im.inFmt bytes w).map fun c => (c.drop x.lo).take (x.nx w))
  | none => t.fetchStitched n x.bobbin (b.wstart + y) beyond gone x.lo (x.nx w) (s.stitch b.portList 0)

/-- The lines of a footprint, top to bottom. -/
def State.fetchLines (s : State) (n : Nat) (x : FetchIns) (b : Bobbin) (lost : List (Nat × Nat × Nat)) (w : Nat) : Nat → Nat → State × List Comps
  | 0, _ => (s, [])
  | m + 1, y =>
    let r := s.fetchLine n x b lost w y
    let u := r.1.fetchLines n x b lost w m (y + 1)
    (u.1, r.2 :: u.2)

/-- A component of a footprint's pixel; one that a line in the format of an earlier block does not have is a free value.
(DESIGN CHOICE: notes/assumptions 176.) -/
def footPx (ls : Comps) (c px : Nat) : Px :=
  match ls[c]? with
  | some l => l.getD px none
  | none => some ((Config.pastLine (3 * px + c)).toNat * 256)

/-- The bytes of a regrouped pixel: channel ((y mod g) × g + (x mod g)) × C + c (R186). -/
def FetchIns.pixel (x : FetchIns) (comps : Nat) (ls : List Comps) (px py : Nat) : Data :=
  (List.range x.g).flatMap fun dy => (List.range x.g).flatMap fun dx => (List.range comps).flatMap fun c =>
    fetchBytes x.fmt (footPx (ls.getD (py * x.g + dy) []) c (px * x.g + dx))

/-- The status of an LFETCH. -/
def State.fetchStatus (s : State) (n tag : Nat) (st : Status) : State :=
  (s.put F.LOOM_FETCH_STAT_STATUS st.code n).put F.LOOM_FETCH_STAT_TAG tag n

/-- Execute an LFETCH. (DEDUCED: notes/assumptions 69.) -/
def State.runLfetch (s : State) (n : Nat) (q : QIns) (task : Option LoomCmd) : State × Status :=
  let x := fetchIns q.words task
  let b := s.bob x.bobbin
  let w := s.lineWidth b
  let comps := s.lineComps b
  if x.ok q.words w comps then
    let r := s.fetchLines n x b q.aux.lost w x.ny x.y0
    let row := fun (py : Nat) => (List.range (x.nx w / x.g)).map fun px => x.pixel comps r.2 px py
    let t := timesFrom (fun (u : State) py => u.writeElems (scratch n (x.dst + py * x.line)) x.pix (row py)) (x.ny / x.g) 0 r.1
    (t.fetchStatus n x.tag .done, .done)
  else (s.fetchStatus n x.tag .badParam, .badParam)

end Sys2Proof.Machine
end

