-- ==== Sys2Proof/Machine/Batch.lean ====
section
/-! DEFINITION. Stripe tasks and batch steps (chapters 08 and 09): the order of tasks, readiness and latest starts, the start
rule, heads and verdicts, early verdicts, and the policies that decide whether an amendment is sent. -/

namespace Sys2Proof.Machine

/-! ### Orders (R195, R213) -/

/-- Whether one list of keys comes before another, position by position. -/
def keysBefore : List Int → List Int → Bool
  | a :: s, b :: t => if a < b then true else if b < a then false else keysBefore s t
  | _, _ => false

/-- Insert by keys. -/
def insertByKey {α : Type} (x : List Int × α) : List (List Int × α) → List (List Int × α)
  | [] => [x]
  | y :: t => if keysBefore x.1 y.1 then x :: y :: t else y :: insertByKey x t

/-- A list in the order of its keys; equal keys keep their order. -/
def orderBy {α : Type} (key : α → List Int) (l : List α) : List α :=
  (l.foldl (fun a x => insertByKey (key x, x) a) []).map (·.2)

/-- A time that no projection gives: it comes after every other. -/
def never : Int := 2 ^ 200

/-- The device time projected for a bobbin's close count; none for a sample or without a velocity estimate. -/
def State.closeTime (s : State) (id : Nat) : Int :=
  let b := s.bob id
  if b.sample.isSome then never + 1 else ((s.project b.enc b.close).map fun n => (n : Int)).getD never

/-- The number that orders bobbins of one time: the serial, or a sample's sequence number. -/
def Bobbin.order (b : Bobbin) : Nat := b.sample.getD b.serial

/-! ### Issue and retirement of stripe tasks (R195 to R198, R201, R202, R268) -/

/-- The ready tasks of a partition in the order of R195. (DEDUCED: notes/assumptions 74.) -/
def State.taskOrder (s : State) (p : Nat) : List Task :=
  orderBy (fun k => [s.closeTime k.bobbin, ((s.bob k.bobbin).order : Int), (k.token : Int), (k.stripe : Int)]) (s.part p).ready

/-- Count once a token that waits for a staging slot (R202). -/
def State.noteStageWait (s : State) (p : Nat) (k : Task) : State :=
  let x := s.part p
  if x.waitSeen.contains (k.bobbin, k.token) then s
  else (s.setPart p { x with waitSeen := x.waitSeen ++ [(k.bobbin, k.token)] }).bump F.SCHED_STAGE_USED_WAIT p

/-- Issue a task to a loom: its token takes a slot with its first task. -/
def State.issueTask (s : State) (p n : Nat) (k : Task) (slot : Nat) : State :=
  let x := s.part p
  let mine := fun (t : Task) => t.bobbin == k.bobbin && t.token == k.token && t.stripe == k.stripe
  let t := s.setPart p { x with
    ready := x.ready.filter (!mine ·)
    issued := x.issued ++ [{ k with loom := some n, calib := x.calib.gathering }]
    stage := tset x.stage slot (k.bobbin, k.token)
    waitSeen := x.waitSeen.filter (· != (k.bobbin, k.token)) }
  ((t.giveCmd n { kind := 1, bobbin := k.bobbin, token := k.token, stripe := k.stripe }).showStage p).showReady p

/-- Issue the first task whose token has or finds a slot; those that find none are counted. -/
def State.issueFirst (s : State) (p n : Nat) : List Task → State
  | [] => s
  | k :: t =>
    match s.slotFor p k.bobbin k.token with
    | some slot => s.issueTask p n k slot
    | none => (s.noteStageWait p k).issueFirst p n t

/-- STRIPE_TASK_ISSUE (R195, R202, R268). -/
def execStripeTaskIssue (part : Fin 8) (loom : Fin 64) (s : State) : Host.Outcome State Fault Refusal :=
  onDevice s fun s =>
    let p := part.val
    if s.get F.SCHED_JOB_STATE p = 2 ∧ (s.jobLooms p).contains loom.val = true ∧ (s.loom loom.val).cmds.length < 2 ∧
        (s.fenceDue.any fun e => e.1 == loom.val) = false then
      s.issueFirst p loom.val (s.taskOrder p)
    else s

/-! ### Batch-ready bobbins and latest starts (R208, R210, R211) -/

/-- Whether a bobbin's next token may join a step, its page apart. -/
def State.tokenReady (s : State) (id : Nat) : Bool :=
  let b := s.bob id
  b.computing && !b.ended && decide (b.done < b.tokens) && !b.member &&
    decide ((tgetD b.retired b.done []).length = (s.info b.partition).stripes.length) &&
    (match b.sample.bind s.sample? with
      | some x => !x.learning || s.mayLearn b.partition x.place
      | none => true)

/-- Whether a bobbin's next token needs a new page. -/
def State.needsPage (s : State) (id : Nat) : Bool :=
  let b := s.bob id
  b.done % perPage (s.info b.partition) == 0 && decide (b.pages.length ≤ b.done / perPage (s.info b.partition))

/-- Whether a bobbin is batch-ready. -/
def State.batchReady (s : State) (id : Nat) : Bool :=
  s.tokenReady id && (!s.needsPage id || (s.freePage (s.bob id).partition).isSome)

/-- The batch-ready bobbins of a partition. -/
def State.readyBobs (s : State) (p : Nat) : List Nat :=
  (s.bobs.filter fun e => e.2.partition == p && s.batchReady e.1).map (·.1)

/-- Note when a bobbin became batch-ready, or that it waits for a page: the wait is counted once. -/
def State.noteReady (s : State) (id : Nat) : State :=
  let b := s.bob id
  if s.batchReady id then
    if b.readyAt.isNone then s.setBob id { b with readyAt := some s.time.now, pageWait := false } else s
  else if s.tokenReady id && !b.pageWait then
    (s.setBob id { b with pageWait := true, readyAt := none }).bump F.SCHED_KV_WAIT_WAIT b.partition
  else s

/-- Show SCHED_BATCH.READY of a partition, after noting its bobbins. -/
def State.judgeReady (s : State) (p : Nat) : State :=
  let t := foldState (fun u (e : Nat × Bobbin) => if e.2.partition = p then u.noteReady e.1 else u) s s.bobs
  t.put F.SCHED_BATCH_READY (t.readyBobs p).length p

/-- Microseconds in the units of device time. -/
def usUnits (n : Nat) : Nat := n * 1000 * nsUnit

/-- The latest start of a part bobbin (R211). -/
def State.bobLatest (s : State) (id : Nat) : Option Int :=
  let b := s.bob id
  if b.sample.isSome then none
  else (s.project b.enc b.close).map fun t =>
    (t : Int) - ((b.tokens - b.done) * s.get F.SCHED_STEP_TIME_NS b.partition * nsUnit : Nat) - usUnits (s.get F.SCHED_GUARD_US)

/-- The lesser of two times, where there are any. -/
def earlierOf (a b : Option Int) : Option Int :=
  match a, b with
  | some x, some y => some (min x y)
  | some x, none => some x
  | none, y => y

/-- The partition's latest start. -/
def State.partLatest (s : State) (p : Nat) : Option Int :=
  (s.readyBobs p).foldl (fun a id => earlierOf a (s.bobLatest id)) none

/-- Whether the partition's latest start has been reached. -/
def State.latestReached (s : State) (p : Nat) : Bool :=
  match s.partLatest p with
  | some t => decide (t ≤ s.time.now)
  | none => false

/-! ### The start of a step (R208, R212 to R214) -/

/-- Why a step starts. -/
inductive Why where
  | full | latest | waited
  deriving DecidableEq, Repr

/-- Whether poison was met in a cache unit of a model, which is loaded again before the next step (R327). -/
def State.reloadDue (s : State) (m : Model) : Bool := m.resident && m.units.any fun u => (tget? s.mem.met u).isSome

/-- Whether a step of a partition may start at all; not on fewer looms than FLOOR, while a fence that is due will end the job, and
not before the model's cache is loaded again. -/
def State.mayStep (s : State) (p : Nat) : Bool :=
  s.get F.SCHED_JOB_STATE p == 2 && (s.part p).step.isNone && !(s.part p).learn.running &&
    (s.jobModel p).all fun m => decide (m.floor ≤ (s.freshLooms p).length) && !s.reloadDue m

/-- The batch-ready bobbins that are parts, and those that are samples. -/
def State.readyParts (s : State) (p : Nat) : List Nat := (s.readyBobs p).filter fun id => (s.bob id).sample.isNone
/-- The batch-ready sample bobbins. -/
def State.readySamples (s : State) (p : Nat) : List Nat := (s.readyBobs p).filter fun id => (s.bob id).sample.isSome

/-- Whether the oldest of some bobbins has been ready for a time. -/
def State.waited (s : State) (ids : List Nat) (us : Nat) : Bool :=
  ids.any fun id => match (s.bob id).readyAt with | some t => decide (t + usUnits us ≤ s.time.now) | none => false

/-- The start rule of R212, evaluated now. -/
def State.startWhy (s : State) (p : Nat) : Option Why :=
  let parts := s.readyParts p
  let samples := s.readySamples p
  let fill := s.get F.SCHED_FILL_WAIT_US
  if 64 ≤ parts.length + samples.length then some .full
  else if parts ≠ [] ∧ s.latestReached p = true then some .latest
  else if parts ≠ [] ∧ fill ≠ 0 ∧ s.waited parts fill = true then some .waited
  else if parts = [] ∧ samples ≠ [] ∧ s.waited samples (s.get F.SAMPLE_BATCH_WAIT_US) = true then some .waited
  else none

/-- The order in which a step takes rows (R213). -/
def State.rowOrder (s : State) (p : Nat) : List Nat :=
  orderBy (fun id => [(s.bobLatest id).getD never, ((s.bob id).order : Int)]) (s.readyParts p) ++
    orderBy (fun id => [((s.bob id).order : Int)]) (s.readySamples p)

/-- Take rows, each with the page it needs; a bobbin for which no page is left waits. -/
def State.takeRows (s : State) (p : Nat) : List Nat → List Nat → State × List Nat
  | [], rows => (s, rows)
  | id :: t, rows =>
    if 64 ≤ rows.length then (s, rows)
    else
      let join := fun (u : State) => u.setBob id { u.bob id with member := true, readyAt := none, pageWait := false }
      if s.needsPage id then
        match s.freePage p with
        | some k => (join (s.takePage p id k)).takeRows p t (rows ++ [id])
        | none => s.takeRows p t rows
      else (join s).takeRows p t (rows ++ [id])

/-- A model is used (R277). -/
def State.useModel (s : State) (id : Nat) : State :=
  let n := s.sched.uses + 1
  { s with sched := { s.sched with
      uses := n, models := s.sched.models.map fun m => if m.id = id then { m with used := n } else m } }

/-- The row tokens of a step's rows. -/
def State.rowTokens (s : State) (p : Nat) : List Nat → State × List (List (Option Int))
  | [] => (s, [])
  | id :: t =>
    let r := s.rowToken p id
    let u := r.1.rowTokens p t
    (u.1, r.2 :: u.2)

/-- A schedule that a fence has changed, or changes now for what is dispatched after it (R39, R430). -/
def State.freshSchedule (s : State) (p : Nat) : State :=
  if (s.part p).switch || (s.freshLooms p).length != (s.activeLooms p).length then s.takeSchedule p else s

/-- What a batch-step boundary applies: calibration and a schedule that a fence has changed. -/
def State.boundary (s : State) (p : Nat) : State := (s.calibBoundary p).freshSchedule p

/-- Note a deferred optimiser step (R254): a due step that the latest start holds back is counted once. -/
def State.noteDefer (s : State) (p : Nat) : State :=
  let l := (s.part p).learn
  let open' := l.due && !l.running && !l.held && (s.part p).step.isNone && s.get F.SCHED_JOB_STATE p == 2
  let late := match s.partLatest p with
    | some t => decide (t < s.time.now + s.get F.SCHED_LEARN_OPT_TIME_NS p * nsUnit + usUnits (s.get F.SCHED_GUARD_US))
    | none => false
  if open' && late then (s.mapLearn p fun l => { l with held := true }).bump F.SCHED_LEARN_CNT_DEFER p else s

/-- Note the deferred optimiser steps of every partition: a mini-batch may have filled between steps. -/
def State.noteDefers (s : State) : State := timesFrom State.noteDefer 8 0 s

/-- Start a step (R212, R213, R268, R277). -/
def State.startStep (s : State) (p : Nat) (why : Why) : State :=
  let a := s.boundary p
  let r := a.takeRows p (a.rowOrder p) []
  if r.2 = [] then r.1
  else
    let k := r.1.rowTokens p r.2
    let x := k.1.part p
    let b := k.1.setPart p { x with
      step := some { rows := r.2, earlyRun := k.1.get F.EARLY_RUN_RUN p, bobs := r.2.map r.1.bob }, overdue := none, rowTok := k.2, headOut := [] }
    let c := (b.put F.SCHED_BATCH_LAST_M r.2.length p).putBit F.SCHED_BATCH_RUNNING true p
    let d := match why with
      | .full => c.bump F.SCHED_START_CNT_FULL p
      | .latest => c.bump F.SCHED_START_CNT_LATEST p
      | .waited => c.bump F.SCHED_LAG_CNT_FILL_WAIT p
    let e := if x.overdue = some s.time.now then d.bump F.SCHED_LAG_CNT_OVERDUE p else d
    (foldState (fun u n => u.giveSegment 2 n) (e.useModel x.model) (e.jobLooms p)).judgeReady p

/-- Start a step for a reason, if the partition may start one. -/
def State.startIf (s : State) (p : Nat) (why : State → Option Why) : State :=
  let t := s.judgeReady p
  if t.mayStep p then
    match why t with
    | some w => (t.noteDefer p).startStep p w
    | none => t
  else t

/-- BATCH_STEP_START (R212): the start rule holds. -/
def execBatchStepStart (part : Fin 8) (s : State) : Host.Outcome State Fault Refusal :=
  onDevice s fun s => s.startIf part.val fun t => t.startWhy part.val

/-- LATEST_START_REACHED (R211, R212): the rule is evaluated as device time reaches the latest start; 64 ready tokens in the same
handshake win (R46). -/
def execLatestStartReached (part : Fin 8) (s : State) : Host.Outcome State Fault Refusal :=
  onDevice s fun s => s.startIf part.val fun t => if t.latestReached part.val then t.startWhy part.val else none

/-- FILL_WAIT_EXPIRE (R212): the rule is evaluated as the oldest ready part token has waited SCHED_FILL_WAIT. -/
def execFillWaitExpire (part : Fin 8) (s : State) : Host.Outcome State Fault Refusal :=
  onDevice s fun s => s.startIf part.val fun t =>
    let us := t.get F.SCHED_FILL_WAIT_US
    if us ≠ 0 ∧ t.waited (t.readyParts part.val) us = true then t.startWhy part.val else none

/-- SAMPLE_BATCH_WAIT_EXPIRE (R149, R212): the rule is evaluated as the oldest ready sample token has waited SAMPLE_BATCH_WAIT. -/
def execSampleBatchWaitExpire (part : Fin 8) (s : State) : Host.Outcome State Fault Refusal :=
  onDevice s fun s => s.startIf part.val fun t =>
    if t.waited (t.readySamples part.val) (t.get F.SAMPLE_BATCH_WAIT_US) then t.startWhy part.val else none

/-! ### Retirement (R196, R197, R201, R234, R236, R239) -/

/-- Release one unit of the count of every line in a task's footprint. -/
def State.releaseTask (s : State) (id token stripe : Nat) : State :=
  let b := s.bob id
  let im := s.info b.partition
  foldState (fun t p => t.mapLines p fun l =>
    if b.footHolds im token l.pos l.hi then l.release id (s.takeCount b p l) else l) s
    (if b.sample.isSome then [] else s.stripePorts b im (im.stripes.getD stripe (0, 0)))

/-- What the conversions of a stripe task have gathered is judged and recorded, and leaves the partition. -/
def State.taskStats (s : State) (p id token stripe : Nat) (calib : Bool) : State :=
  let x := s.part p
  let mine := fun (d : Drained) => d.task == some (id, token, stripe)
  let t := s.setPart p { x with drained := x.drained.filter (!mine ·) }
  foldState (fun t ds =>
    let u := (t.statsOf p true (id + 2 ^ 12 * token + 2 ^ 22 * stripe) ds).judgeUnit p id token true ds
    if calib then u.calibOf p ds else u) t (tensorRows (x.drained.filter mine))

/-- The stripe vector of a task: what the store of its last stem layer has written (R197, R201), poisoned where its command has been
given up (R326) and as far as the store has written less. What the task's own instructions made is staged, so R191 is a property of a
schedule: the model adds no timing to it. (DEDUCED: notes/assumptions 223.) -/
def Task.vector (k : Task) (im : Config.Image) (store : Nat) : Data :=
  let d := if k.spoilt then [] else (tgetD k.outs store []).take (4 * dimOf im)
  d ++ List.replicate (4 * dimOf im - d.length) none

/-- Whether an issued task may have reached its last store: its command has started, or has ended. -/
def State.underWay (s : State) (k : Task) : Bool :=
  (k.loom.map fun n => (s.loom n).cmds.all fun c => c.started || !k.runs c).getD true

/-- Whether a store of an issued task has completed, or its command has been given up (R197, R326). -/
def Task.stored (k : Task) (store : Nat) : Bool := (tget? k.outs store).isSome || k.spoilt

/-- Whether a partition's commands run on: RUNNING, STOPPING, or PREEMPTING at the boundary level. -/
def State.runsOn (s : State) (p : Nat) : Bool :=
  let j := s.get F.SCHED_JOB_STATE p
  j == 2 || j == 6 || (j == 3 && !s.on F.SCHED_JOB_IMMEDIATE p)

/-- A stripe task retires: its vector is staged, its statistics are judged, its lines are released. Its command ends with its own
four ENDs (R267). -/
def State.retireTask (s : State) (p store : Nat) (k : Task) : State :=
  let id := k.bobbin
  let mine := fun (t : Task) => t.bobbin == id && t.token == k.token && t.stripe == k.stripe
  let x := s.part p
  let a := s.setPart p { x with issued := x.issued.filter (!mine ·) }
  let c := match a.slotOf p id k.token with
    | some slot => a.writeData (a.vectorAddr p slot k.stripe) (k.vector (s.info p) store)
    | none => a
  let e := (c.taskStats p id k.token k.stripe k.calib).releaseTask id k.token k.stripe
  let y := e.bob id
  let f := e.setBob id { y with retired := tset y.retired k.token (tgetD y.retired k.token [] ++ [k.stripe]) }
  (f.judgeReady p).stopIfIdle p

/-- STRIPE_TASK_RETIRE (R197, R201): the store of the task's last stem layer, the shuttle of a tag, has completed. -/
def execStripeTaskRetire (loom : Fin 64) (bobbin : Fin 4096) (token stripe store : Nat) (s : State) : Host.Outcome State Fault Refusal :=
  onCore s fun s =>
    let p := (s.bob bobbin.val).partition
    match (s.part p).issued.find? fun t =>
        t.loom == some loom.val && t.bobbin == bobbin.val && t.token == token && t.stripe == stripe with
    | some k => if s.runsOn p && s.underWay k && k.stored store then s.retireTask p store k else s
    | none => s

/-! ### Verdicts (R20, R27, R30, R93, R135, R217 to R220, R238, R402, R403) -/

/-- Place an amendment in the list of pending amendments, and mirror it. -/
def State.amend (s : State) (id action : Nat) : State :=
  let b := s.bob id
  match b.entry with
  | some e =>
    if b.state = .open ∨ b.state = .closedInput then
      let t := s.setBob id { b with amendTo := some action }
      let a : Amend := { entry := e, action := action, close := b.close }
      State.mirror { t with field := { t.field with
        amends := t.field.amends.filter (·.entry != e) ++ [a] } } 2 [w32 id, w32 action]
    else s
  | none => s

/-- Apply a verdict: its amendment is sent, or the provisional action stands and compute ends (R131). -/
def State.applyVerdict (s : State) (id : Nat) (v : Verdict) : State :=
  let t := s.setBob id { s.bob id with cls := v.cls, conf := v.conf, early := v.early }
  if v.amends then t.amend id v.action else t.endCompute id

/-- The verdict of a head result (R93, R135, R238). -/
def State.verdictOf (s : State) (b : Bobbin) (h : Head) (early : Bool) : Verdict :=
  let p := b.partition
  let pol := s.get F.QUANT_SCALE_POLICY_POLICY p
  let conf := if b.alarm ∧ pol = 1 then min h.conf (s.get F.QUANT_SCALE_POLICY_LOW_CONF p) else h.conf
  { cls := h.cls, conf := conf, amends := !s.incompleteHolds b && !(b.alarm && pol == 2)
    action := s.classAction p h.cls, early := early }

/-- Whether the twins cross-check (R403): this ACTIVE device has its partner, in hot mode. -/
def State.crossChecks (s : State) : Bool :=
  s.role == 1 && s.on F.TWIN_CTRL_HOT && s.twin.syncSent && !s.twin.lost

/-- The rank of an action: STOP, then EJECT, then PASS. -/
def actionRank (v : Verdict) (prov : Nat) : Nat := if v.amends then v.action else prov

/-- A mismatch between the twins' results (R403). -/
def State.mismatch (s : State) (id : Nat) (mine peer : Verdict) : State :=
  let b := s.bob id
  let t := (((s.setBob id { b with mismatch := true }).bump F.TWIN_CNT_MISMATCH).raise F.HOST_IBI_CAUSE_TWIN).event 6 id
  let pol := if s.splitWord 3 then 0 else s.get F.TWIN_CTRL_POLICY
  if pol = 1 then t.applyVerdict id { mine with amends := false }
  else if pol = 2 then t.applyVerdict id (if actionRank mine b.provAct < actionRank peer b.provAct then peer else mine)
  else t.applyVerdict id mine

/-- Both results are known: they agree, or they do not. -/
def State.crossCheck (s : State) (id : Nat) (mine peer : Verdict) : State :=
  let t := { s with twin := { s.twin with waiting := tdel s.twin.waiting id, peerHeads := tdel s.twin.peerHeads id } }
  if mine.cls = peer.cls ∧ mine.conf = peer.conf ∧ mine.amends = peer.amends then t.applyVerdict id mine
  else t.mismatch id mine peer

/-- A verdict in words, as a VERDICT frame carries it. -/
def Verdict.words (v : Verdict) (id : Nat) : List Word :=
  [w32 (id + 2 ^ 12 * v.action + 2 ^ 16 * v.cls + 2 ^ 24 * v.conf), w32 (bit v.amends + 2 * bit v.early)]

/-- A part's verdict is ready. (DEDUCED: notes/assumptions 89.) -/
def State.verdictReady (s : State) (id : Nat) (h : Head) (early : Bool) : State :=
  let b := s.bob id
  let a := s.setBob id { b with tested := true, cls := h.cls, conf := h.conf, computing := !early && b.computing }
  let c := if early then a.bump F.SCHED_ATTN_CNT_EARLY b.partition else a
  let v := s.verdictOf b h early
  if s.role = 2 then
    let t := c.setBob id { c.bob id with cls := v.cls, conf := v.conf, early := early }
    let u := { t with twin := { t.twin with waiting := tset t.twin.waiting id v } }
    u.linkSend 0x8 1 (v.words id)
  else if s.crossChecks then
    match tget? c.twin.peerHeads id with
    | some peer => c.crossCheck id v peer
    | none =>
      if s.get F.TWIN_XCHECK_WAIT_US = 0 then c.applyVerdict id v
      else { c with twin := { c.twin with waiting := tset c.twin.waiting id v } }
  else c.applyVerdict id v

/-- Whether the last head results make a run (R219, R220). -/
def State.earlyRun (s : State) (p : Nat) (hs : List Head) (h : Head) : Bool :=
  let n := s.get F.EARLY_RUN_RUN p
  let th := s.get F.EARLY_THRESHOLD_CONF p
  n != 0 && decide (n ≤ hs.length) && (hs.drop (hs.length - n)).all fun x =>
    x.cls == h.cls && decide (th < x.conf) && !x.alarm && !x.poison

/-- A poisoned head result: the part takes the R30 row of a poisoned verdict. -/
def State.headPoisoned (s : State) (id : Nat) : State :=
  (s.setBob id { s.bob id with poison := true, tested := true }).endCompute id

/-- The head of a part's token completes. -/
def State.partHead (s : State) (id : Nat) (h : Head) (last : Bool) : State :=
  let b := s.bob id
  if h.poison then s.headPoisoned id
  else
    let hs := b.heads ++ [h]
    let t := s.setBob id { b with heads := hs }
    if last then t.verdictReady id h false
    else if t.earlyRun b.partition hs h then t.verdictReady id h true
    else t

/-- What a row's head gives (R217, R245): the inputs of the learnable layers, in ascending order, and the logits; `none` where the
row is poisoned. -/
structure HeadRun where
  xs     : List (List Word) := []
  logits : Option (List Nat) := none
  deriving DecidableEq, Repr

/-- The learnable layers run on a row with one copy of their tensors. -/
def layersRun (im : Config.Image) (sig : Nat × Nat) (copy : List LearnPar) : Nat → Nat → HeadRun → Option (List Word) → HeadRun
  | 0, _, r, row => { r with logits := row.map fun l => l.map (·.toNat) }
  | n + 1, i, r, row =>
    match row with
    | some x => layersRun im sig copy n (i + 1) { r with xs := r.xs ++ [x] }
        (Config.layerOut im sig i (copy.getD i {}).lists x)
    | none => r

/-- The head of a row with one copy of the learnable tensors. -/
def headRun (im : Config.Image) (sig : Nat × Nat) (copy : List LearnPar) (row : Option (List Word)) : HeadRun :=
  layersRun im sig copy im.learn.length 0 {} (row.bind fun a => Config.topInput im sig a)

/-- What a learning row brings to its mini-batch (R248 to R251): the loss, and for each learnable layer its input and its output
gradient, rounded to BF16; nothing where one of them is poisoned. -/
def parkedOf (im : Config.Image) (sig : Nat × Nat) (copy : List LearnPar) (x : Sample) (h : HeadRun) : Parked :=
  match h.logits with
  | some ls =>
    let top := (List.range 16).map fun c => logitGrad ls x.label c
    let factors := (allSome (gradients im sig copy h.xs im.learn.length (some top))).bind fun ds =>
      allSome ((h.xs.zip ds).map fun e =>
        (allSome (e.1.map fun w => bf16Of w.toNat)).bind fun a => (allSome (e.2.map bf16Of)).map fun b => (a, b))
    match factors with
    | some fs => { place := x.place, gives := true, loss := logitLoss ls x.label, layers := fs }
    | none => { place := x.place, gives := false }
  | none => { place := x.place, gives := false }

/-- The head of a sample's last token completes (R150, R248). -/
def State.sampleHead (s : State) (x : Sample) (h : Head) (k : Parked) : State :=
  if h.poison then s.sampleDone x.place .poisoned h
  else if x.trunc then s.sampleDone x.place .truncated h
  else
    let t := s.sampleDone x.place .done h
    if x.learning && (t.part x.part).learn.batch.contains x.place then t.parkLearn x.part k else t

/-- The head result of a row: poisoned where it has no logits (R169, R204, R217). -/
def headOf (logits : Option (List Nat)) (alarm : Bool) : Head :=
  match logits with
  | some ls => if ls.length = 16 then { cls := (argMax ls).1, conf := headConf ls, alarm := alarm } else { poison := true, alarm := alarm }
  | none => { poison := true, alarm := alarm }

/-! ### The completion of a step (R209, R215, R234, R236, R239) -/

/-- The rows of a step that still count: their bobbins' compute has not ended. -/
def State.rowLives (s : State) (id : Nat) : Bool := (tget? s.bobs id).isSome && !(s.bob id).ended && (s.bob id).member

/-- Whether a row's bobbin still stands where the step found it. -/
def State.rowStands (s : State) (id : Nat) : Bool := (tget? s.bobs id).isSome && (s.bob id).member

/-- The cache units of a partition's model that hold poison: it has been met there, or a granule of what the model has loaded is
poisoned (R327). -/
def State.poisonUnits (s : State) (p : Nat) : List Nat :=
  match s.jobModel p with
  | some m =>
    if m.resident then
      (m.units.zipIdx.filter fun e => (tget? s.mem.met e.1).isSome ||
        !s.mem.whole (unitAddr e.1) (roundUp (min (2 ^ 20) (m.cacheLen - e.2 * 2 ^ 20)) 8)).map (·.1)
    else []
  | none => []

/-- A step uses its model's cache units, and meets the poison in them (R327). -/
def State.meetUnits (s : State) (p : Nat) : State :=
  { s with mem := { s.mem with met := (s.poisonUnits p).foldl (fun m u => tset m u ()) s.mem.met } }

/-- One row of a step: its blocks, and what stands after them. It runs on its bobbin as the step took it, whatever has become of the
bobbin since (R215); `bad` says that the step has met poison, which is in every result of it (R169, R326, R327).
(DEDUCED: notes/assumptions 222.) -/
def State.runRow (s : State) (o : Arrivals) (p row id : Nat) (b : Bobbin) (bad : Bool) : State × Option (List Word) :=
  s.rowBlocks o p row b (s.rowLives id) (s.info p).blocks 0
    (if bad then none
      else (allSome ((s.part p).rowTok.getD row [])).map fun l => l.map fun (v : Int) => w32 (unsigned 32 v))

/-- The rows of a step, first row first: the bobbins' numbers, the rows, and the bobbins as the step took them. -/
def State.runRows (s : State) (o : Arrivals) (p : Nat) (bad : Bool) : List (Nat × Nat × Bobbin) → State × List (Option (List Word))
  | [] => (s, [])
  | (id, row, b) :: t =>
    let r := s.runRow o p row id b bad
    let u := r.1.runRows o p bad t
    (u.1, r.2 :: u.2)

/-- The rows of a running step. -/
def StepRun.members (st : StepRun) : List (Nat × Nat × Bobbin) :=
  st.rows.zipIdx.map fun e => (e.1, e.2, st.bobs.getD e.2 {})

/-- One tensor of a step: its record, its calibration, and the alarm unit of every row, in ascending order.
(DEDUCED: notes/assumptions 58, 193.) -/
def State.stepStats (s : State) (p : Nat) (rows : List (Nat × Nat × Bobbin)) (ds : List Drained) : State :=
  let t := (s.statsOf p false (s.get F.SCHED_STEP_CNT_STEPS p) ds).calibOf p ds
  foldState (fun u (e : Nat × Nat × Bobbin) =>
    u.judgeUnit p e.1 e.2.2.done (u.rowStands e.1) (ds.filter fun d => d.row == e.2.1)) t rows

/-- What the conversions of a step have gathered is recorded and judged, and leaves the partition. -/
def State.stepGather (s : State) (p : Nat) (rows : List (Nat × Nat × Bobbin)) : State :=
  let x := s.part p
  foldState (fun t ds => t.stepStats p rows ds) (s.setPart p { x with drained := x.drained.filter (·.task.isSome) })
    (tensorRows (x.drained.filter (·.task.isNone)))

/-- The head of a row: a learning sample's with the working copy, every other's with the image's tensors (R245). -/
def State.rowHead (s : State) (o : Arrivals) (p id : Nat) (row : Option (List Word)) : HeadRun × Parked :=
  let im := s.info p
  match ((s.bob id).sample.bind s.sample?).filter (·.learning) with
  | some x =>
    let h := headRun im (s.sig p o.heads) (s.part p).learn.working row
    (h, parkedOf im (s.sig p o.gradients) (s.part p).learn.working x h)
  | none => (headRun im (s.sig p o.heads) (imageCopy im) row, { place := 0, gives := false })

/-- A row of a step completes: its token is done, its slot is free, and its head is judged. -/
def State.rowDone (s : State) (o : Arrivals) (p : Nat) (early : Nat) (row : Option (List Word)) (id : Nat) : State :=
  if !s.rowLives id then s.dropPages p id
  else
    let b := s.bob id
    let t := b.done
    let last := decide (t + 1 = b.tokens)
    let u := (s.setBob id { b with done := t + 1, member := false }).freeStage id (· == t)
    let r := s.rowHead o p id row
    let h := headOf r.1.logits (b.alarmed.contains t)
    match b.sample.bind s.sample? with
    | some x => if last then u.sampleHead x { h with alarm := b.alarm } r.2 else u
    | none =>
      if last ∨ early ≠ 0 then u.partHead id h last
      else u.setBob id { u.bob id with heads := b.heads ++ [{}] }

/-- A step has ended: its boundary applies. -/
def State.stepEnd (s : State) (p : Nat) : State :=
  let x := s.part p
  let t := (s.setPart p { x with step := none }).putBit F.SCHED_BATCH_RUNNING false p
  let u := (t.boundary p).judgeReady p
  let v := u.setPart p { u.part p with overdue := if u.latestReached p then some u.time.now else none }
  (v.noteDefer p).stopIfIdle p

/-- BATCH_STEP_DONE (R204, R215, R217 to R220): the last segment of the step has ended. Each row's blocks and head are computed
from the row alone (R216), poisoned where the step has met poison (R327). (DESIGN CHOICE: notes/assumptions 71.) -/
def execBatchStepDone (part : Fin 8) (projections blocks heads gradients : Nat) (s : State) : Host.Outcome State Fault Refusal :=
  onCore s fun s =>
    let p := part.val
    let o : Arrivals := { projections, blocks, heads, gradients }
    match (s.part p).step with
    | none => s
    | some st =>
      if !s.runsOn p || (s.part p).redo || s.segmentsLeft p 2 then s
      else
        let a := (s.meetUnits p).runRows o p (st.bad || !(s.poisonUnits p).isEmpty) st.members
        let c := (a.1.bumpWrap F.SCHED_STEP_CNT_STEPS 1 p).stepGather p st.members
        (foldState (fun t (e : Nat × Option (List Word)) => t.rowDone o p st.earlyRun e.2 e.1) c (st.rows.zip a.2)).stepEnd p

/-! ### The optimiser step (R254 to R256) -/

/-- OPTIMISER_STEP_START (R254, R268). -/
def execOptimiserStepStart (part : Fin 8) (s : State) : Host.Outcome State Fault Refusal :=
  onDevice s fun s =>
    let p := part.val
    let l := (s.part p).learn
    if l.due && s.mayStep p then
      let t := s.noteDefer p
      let finish : Int := s.time.now + s.get F.SCHED_LEARN_OPT_TIME_NS p * nsUnit + usUnits (s.get F.SCHED_GUARD_US)
      let free := match s.partLatest p with | some x => decide (finish ≤ x) | none => true
      if free then
        foldState (fun u n => u.giveSegment 3 n)
          ((t.freshSchedule p).mapLearn p fun l => { l with running := true, due := false, held := false, hyper := (s.hyper p).list })
          ((t.freshSchedule p).jobLooms p)
      else t
    else s

/-- The optimiser step's results are flipped to, or the step is abandoned. -/
def State.optDone (s : State) (p : Nat) : State :=
  let l := (s.part p).learn
  let n := l.step (s.info p).learn
  let drop := fun (x : Learn) => { x with running := false, batch := x.batch.drop (s.batchSize p), added := 0, loss := 0 }
  let t :=
    if n.sound then (s.mapLearn p fun _ => drop n).bump F.SCHED_LEARN_STEPS_STEPS p
    else ((s.mapLearn p drop).putBit F.SCHED_LEARN_CTRL_DIVERGED true p).bump F.SCHED_LEARN_CNT_DIVERGE p
  let u := t.mapLearn p fun x => { x with commits := x.commits.map fun c => if c.par.isNone then { c with par := some x.working } else c }
  u.gatherNext p (u.part p).learn.batch.length

/-- OPTIMISER_STEP_DONE (R255, R256): its last segment has ended. -/
def execOptimiserStepDone (part : Fin 8) (s : State) : Host.Outcome State Fault Refusal :=
  onCore s fun s =>
    let p := part.val
    if (s.part p).learn.running ∧ s.runsOn p = true ∧ (s.part p).redo = false ∧ s.segmentsLeft p 3 = false then
      let t := (s.optDone p).judgeReady p
      let u := t.setPart p { t.part p with overdue := if t.latestReached p then some t.time.now else none }
      (u.noteDefer p).stopIfIdle p
    else s

end Sys2Proof.Machine
end

