-- ==== Sys2Proof/Machine/Power.lean ====
section
/-! DEFINITION. Power and telemetry (R439, R448 to R451): the 1 ms sample, the throttle depth, the steps of the VCORE_C
setpoint, regulator alerts, and SYS_THROTTLE. -/

namespace Sys2Proof.Machine

/-- The lowest throttled setpoint (R450), by FLOOR as it stood at the last sample (R451). -/
def State.vcoreLowest (s : State) : Nat := min s.power.floor s.power.target

/-- The effective setpoint: the target minus the throttle depth (R449). -/
def State.vcoreEffective (s : State) : Nat := s.power.target - s.power.depth

/-- Show the target and, where the device commands the regulator, the effective setpoint. -/
def State.showVcore (s : State) : State :=
  let t := s.put F.SYS_VCORE_TARGET s.power.target
  if s.straps.pwrExt then t else t.put F.SYS_VCORE_EFFECTIVE s.vcoreEffective

/-- Set the throttle depth in mV: SYS_THROTTLE_STAT follows, and THERMAL is set when the depth leaves 0 and when it returns
to 0 (R450). -/
def State.setDepth (s : State) (d : Nat) : State :=
  let old := s.power.depth
  let t := State.showVcore { s with power := { s.power with depth := d } }
  let u := (t.putBit F.SYS_THROTTLE_STAT_ACTIVE (d != 0)).put F.SYS_THROTTLE_STAT_DEPTH (d / 10)
  let v := if old = 0 ∧ d ≠ 0 then u.bump F.SYS_THROTTLE_STAT_ENTRIES else u
  if (old == 0) != (d == 0) then v.raise F.HOST_IBI_CAUSE_THERMAL else v

/-- The throttle step of one sample (R450): `hot` and `cool` as the sample met them. -/
def State.throttle (s : State) (hot cool : Bool) : State :=
  let d := s.power.depth
  if hot && decide (s.vcoreLowest + d + 10 ≤ s.power.target) then s.setDepth (d + 10)
  else if cool && d != 0 then s.setDepth (d - 10)
  else s

/-- The term of one regulator in P, in mV × 0.1 A; one that did not answer leaves its term open.
(DEDUCED: notes/assumptions 120.) -/
def State.powerTerm (s : State) (r : Option (Nat × Nat)) : State × Nat :=
  match r with
  | some (mv, da) => (s, mv * da)
  | none => (s.drawn, s.freeVal.toNat)

/-- The current that a regulator reports, in its register. -/
def State.showRail (s : State) (cur valid : Fld) (r : Option (Nat × Nat)) : State :=
  match r with
  | some (_, da) => (s.put cur da).putBit valid true
  | none => s.putBit valid false

/-- The regulators' part of a sample (R448): currents, which answered, and the power estimate P in 0.1 W. -/
def State.sampleRails (s : State) (x : Telemetry) : State :=
  let r := fun i => (x.rails[i]?).getD none
  let a := ((s.showRail F.SYS_RAIL_C_CURRENT F.SYS_RAIL_C_VALID (r 0)).showRail F.SYS_RAIL_S_CURRENT F.SYS_RAIL_S_VALID
    (r 1)).showRail F.SYS_RAIL_X_CURRENT F.SYS_RAIL_X_VALID (r 2)
  let missing := bit (r 0).isNone + 2 * bit (r 1).isNone + 4 * bit (r 2).isNone
  let b := (a.put F.SYS_PWR_STAT_NO_RESPONSE missing).putBit F.SYS_PWR_STAT_BAD_MODE x.badMode
  let c := b.powerTerm (r 0)
  let d := c.1.powerTerm (r 1)
  let e := d.1.powerTerm (r 2)
  let t := (e.1.put F.SYS_PWR_POWER ((c.2 + d.2 + e.2) / 1000 + 166)).putBit F.SYS_PWR_VALID (missing == 0)
  match r 0 with
  | some (mv, _) => if t.straps.pwrExt then t.put F.SYS_VCORE_EFFECTIVE ((mv + 5) / 10 * 10) else t
  | none => t

/-- The sensors' part of a sample (R439). -/
def State.sampleTemps (s : State) (x : Telemetry) : State :=
  timesFrom (fun t i =>
    match x.temps[i]? with
    | some v => (t.put F.SYS_TEMP_TEMP (unsigned 16 v) i).putBit F.SYS_TEMP_VALID true i
    | none => t) 4 0 s

/-- The highest of SYS_TEMP0 to SYS_TEMP3, in units of 0.125 °C. -/
def State.hottest (s : State) : Int :=
  let t := fun i => signed 16 (s.get F.SYS_TEMP_TEMP i)
  max (max (t 0) (t 1)) (max (t 2) (t 3))

/-- Complete every CMD_SET_VCORE whose last step the regulator has taken (R449). -/
def State.vcoreSettled (s : State) : Nat → State
  | 0 => s
  | n + 1 =>
    if s.power.now = s.vcoreEffective then
      match s.runningCmd 0x0103 with
      | some e => (s.finish e .done [w32 s.vcoreEffective]).vcoreSettled n
      | none => s
    else s

/-- Whether the VCORE_C regulator does not answer, or takes no ULINEAR16 setpoint (R449). -/
def State.regulatorBad (s : State) : Bool := bitAt (s.get F.SYS_PWR_STAT_NO_RESPONSE) 0 || s.on F.SYS_PWR_STAT_BAD_MODE

/-- Complete what the setpoint as it stands completes: with BAD_STATE while the regulator acknowledges no step (R449). -/
def State.settleVcore (s : State) : State :=
  let n := s.host.running.length
  if s.regulatorBad then timesFrom (fun t _ => t.finishOp 0x0103 .badState) n 0 s else s.vcoreSettled n

/-- TELEMETRY_SAMPLE (R439, R448, R450): taken by the management processor once firmware runs.
(DEDUCED: notes/assumptions 122.) -/
def execTelemetrySample (sample : Telemetry) (s : State) : Host.Outcome State Fault Refusal :=
  onDevice s fun s =>
    if s.on F.HOST_STATUS_FW_RUN then
      let t := State.sampleRails
        (State.sampleTemps { s with power := { s.power with floor := s.get F.SYS_THROTTLE_FLOOR } } sample) sample
      let hotT := decide (800 ≤ t.hottest)
      let p := t.get F.SYS_PWR_POWER
      let cap := t.get F.SYS_THROTTLE_CAP
      let hotP := decide (10 * cap < p)
      let cool := decide (t.hottest < 8 * (100 - (t.get F.SYS_THROTTLE_HYST : Int))) && decide (2 * p < 19 * cap)
      let u := (t.putBit F.SYS_THROTTLE_STAT_HOT hotT).putBit F.SYS_THROTTLE_STAT_POWER hotP
      (u.throttle (hotT || hotP) cool).settleVcore
    else s

/-- VCORE_STEP (R42, R449): one 10 mV step of the regulator's setpoint towards the effective one, which a regulator that does
not answer does not take. -/
def execVcoreStep (s : State) : Host.Outcome State Fault Refusal :=
  onDevice s fun s =>
    if s.on F.HOST_STATUS_FW_RUN && !s.straps.pwrExt && !s.regulatorBad && s.power.now != s.vcoreEffective then
      let v := if s.power.now < s.vcoreEffective then min (s.power.now + 10) s.vcoreEffective
        else max (s.power.now - 10) s.vcoreEffective
      State.settleVcore { s with power := { s.power with now := v } }
    else s

/-- CMD_SET_VCORE (R449): the depth is kept as far as R450 allows it at the new target.
(DEDUCED: notes/assumptions 121.) -/
def execCmdSetVcore (src : Source) (s : State) : Host.Outcome State Fault Refusal :=
  runCmd s src 0x0103 fun s c =>
    let mv := c.p 1
    if mv % 10 ≠ 0 ∨ mv < 650 ∨ 900 < mv then refuse s .badParam
    else if s.straps.pwrExt || s.regulatorBad then refuse s .badState
    else
      let t : State := { s with power := { s.power with target := mv } }
      let u := (t.setDepth (min t.power.depth (mv - t.vcoreLowest))).settleVcore
      if u.power.now = u.vcoreEffective then doneWith u [w32 u.vcoreEffective] else (u, .later)

/-- PWR_ALERT (R448): `words` are the STATUS_WORD of the regulators at 0x40, 0x41 and 0x42. -/
def execPwrAlert (words : List Word) (s : State) : Host.Outcome State Fault Refusal :=
  onDevice s fun s =>
    timesFrom (fun t i =>
      let w := (words.getD i 0).toNat % 2 ^ 16
      if w = 0 then t else (t.put F.SYS_PWR_STAT_ALERT_SRC i).put F.SYS_PWR_STAT_STATUS_WORD w) 3 0
      (s.putBit F.SYS_PWR_STAT_ALERT true)

/-- The value that a write leaves in SYS_THROTTLE: FLOOR rounded down to 10 mV, each field clamped (R451). -/
def throttleValue (v : Nat) : Nat :=
  let floor := min 900 (max 650 (bitsOf v 0 10 / 10 * 10))
  let hyst := min 15 (max 1 (bitsOf v 12 4))
  let cap := min 320 (max 100 (bitsOf v 16 9))
  floor + 2 ^ 12 * hyst + 2 ^ 16 * cap

/-- Write SYS_THROTTLE (R451). -/
def State.writeThrottle (s : State) (v : Nat) : State := s.setReg R.SYS_THROTTLE (throttleValue v)

end Sys2Proof.Machine
end

