-- ==== Sys2Proof/Machine/Frames.lean ====
section
/-! DEFINITION. Received Ranoz frames (R391, R394): a virtual lane's frames are consumed in order, and their credits go
back to the partner. -/

namespace Sys2Proof.Machine

/-- The virtual lane of a frame type (R391). -/
def kindLane (kind : Nat) : Nat :=
  if kind = 4 then 3 else if kind = 3 ∨ kind = 5 ∨ kind = 6 then 2 else if kind = 7 ∨ kind = 8 then 1 else 0

/-- The next frame of a type, when it is the oldest received of its virtual lane. -/
def State.frameOf (s : State) (kind : Nat) : Option RzFrame :=
  match s.link.inbox.find? fun f => f.vl == kindLane kind with
  | some f => if f.kind = kind then some f else none
  | none => none

/-- Consume a received frame: its credits are returned (R394). -/
def State.consume (s : State) (f : RzFrame) : State :=
  { s with link := { s.link with inbox := removeFirst (· == f) s.link.inbox
                                 returned := s.link.returned ++ [(f.vl, frameCredits f.len)] } }

/-- Apply an operation to the next frame of a type and consume it. -/
def State.onFrame (s : State) (kind : Nat) (f : State → RzFrame → State) : State :=
  match s.frameOf kind with
  | some x => f (s.consume x) x
  | none => s

/-- A word of a frame. -/
def RzFrame.word (f : RzFrame) (i : Nat) : Nat := (f.payload.getD i 0).toNat

end Sys2Proof.Machine
end

