-- ==== Sys2Proof/Machine/Looms.lean ====
section
/-! DEFINITION. The engines of a loom (chapter 12): queues, issue, shuttles and their tags, retirement, commands, poisoned
descriptors, and remote shuttles. -/

namespace Sys2Proof.Machine

/-! ### Instructions and engines (R259, R261, R266) -/

/-- The KIND of an instruction. -/
def QIns.kind (q : QIns) : Nat := fld q.words 0 0 4

/-- Whether an engine (0 load, 1 stream, 2 compute, 3 store) executes an instruction. -/
def engineRuns (e : Nat) (q : QIns) : Bool :=
  let k := q.kind
  let dest := fld q.words 0 4 2
  if k = 0xA ∨ k = 0xB ∨ k = 0xC then true
  else if e = 0 then k == 8 || (k == 9 && dest == 2)
  else if e = 1 then k == 9 && dest == 1
  else if e = 2 then decide (1 ≤ k) && decide (k ≤ 6)
  else k == 9 && dest == 0

/-- The tag that an instruction consumes (R263). -/
def QIns.uses (q : QIns) : Option Nat :=
  let k := q.kind
  if k = 3 ∨ k = 0xB then some (fld q.words 1 0 11) else if k = 4 ∨ k = 5 then some (fld q.words 13 0 11) else none

/-- Whether an instruction takes a tag. -/
def QIns.takes (q : QIns) : Bool := q.kind == 9 || q.kind == 0xA

/-- The TAG that status registers echo. -/
def QIns.echo (q : QIns) : Nat := if q.kind = 4 ∨ q.kind = 5 then fld q.words 15 0 16 else fld q.words 7 0 16

/-- The tag an instruction takes. -/
def QIns.tag (q : QIns) : Nat := fld q.words 1 0 11

/-- Whether a shuttle reads from the twin device. -/
def QIns.remote (q : QIns) : Bool := q.kind == 9 && fld q.words 0 6 1 == 1

/-- Whether a tag is COMPLETE. -/
def Loom.complete (l : Loom) (t : Nat) : Bool := (tget? l.tags t).any fun x => x.status.isSome

/-- The remote shuttles of a loom that are outstanding. -/
def Loom.outstanding (l : Loom) : List Nat :=
  l.tags.filterMap fun (e : Nat × Tag) => if e.2.status.isNone then e.2.remote else none

/-! ### Status (R264) -/

/-- Hold the first status other than DONE. -/
def State.noteStatus (s : State) (n e tag : Nat) (st : Status) : State :=
  if st ≠ .done ∧ s.get F.LOOM_ENG_STAT_STATUS n = 0 then
    ((s.put F.LOOM_ENG_STAT_STATUS st.code n).put F.LOOM_ENG_STAT_ENGINE e n).put F.LOOM_ENG_STAT_TAG tag n
  else s

/-! ### Tags (R263) -/

/-- An instruction that awaits a tag has completed. -/
def arrived (t : Nat) (is : List Issued) : List Issued :=
  replaceFirst (fun i => i.awaits == some t) (fun i => { i with awaits := none }) is

/-- A tag becomes COMPLETE with a status, or FREE at once where nothing consumes it. -/
def State.completeTag (s : State) (n t : Nat) (st : Status) (d : Data := []) : State :=
  let l := s.loom n
  match tget? l.tags t with
  | none => s
  | some x =>
    let ts := if x.consumers = 0 then tdel l.tags t
      else tset l.tags t { x with status := some st.code, payload := d, remote := none, parked := none }
    let is := tset l.issued x.engine (arrived t (tgetD l.issued x.engine []))
    (s.setLoom n { l with tags := ts, issued := is }).noteStatus n x.engine (fld x.words 7 0 16) st

/-- A consumer of a tag has retired. -/
def Loom.consumed (l : Loom) (t : Nat) : Loom :=
  match tget? l.tags t with
  | none => l
  | some x =>
    let n := x.consumers - 1
    { l with tags := if n = 0 ∧ x.status.isSome = true then tdel l.tags t else tset l.tags t { x with consumers := n } }

/-! ### Shuttles (R261, R262, R265, R187) -/

/-- SRC of a shuttle. -/
def shuttleSrc (ws : List Word) : Nat := (ws.getD 2 0).toNat + 2 ^ 32 * fld ws 3 0 8
/-- DST of a shuttle as a device address. -/
def shuttleDst (ws : List Word) : Nat := (ws.getD 4 0).toNat + 2 ^ 32 * fld ws 5 0 8
/-- LENGTH of a shuttle. -/
def shuttleLen (ws : List Word) : Nat := fld ws 6 0 22

/-- Whether a device address may be read (or, as a destination, written) by a shuttle of a loom. -/
def State.addrOk (s : State) (n : Option Nat) (dest : Bool) (a : Nat) : Bool :=
  match s.region a with
  | .ddr | .beam _ => true
  | .cache => !dest
  | .scratch m => n == some m
  | _ => false

/-- Whether a range may: its first and last byte lie in one of the ranges of R53, which its length cannot span. -/
def State.rangeOk (s : State) (n : Option Nat) (dest : Bool) (a len : Nat) : Bool :=
  s.addrOk n dest a && s.addrOk n dest (a + len - 1)

/-- Where a shuttle writes, if that is a place it may write: an address; the weight port has none. -/
def State.shuttleTarget (s : State) (n : Nat) (ws : List Word) : Option Nat :=
  let len := shuttleLen ws
  let d := fld ws 0 4 2
  if d = 2 then
    (if fld ws 4 0 21 + len ≤ scratchLen then some (scratch n (fld ws 4 0 21)) else none)
  else if d = 0 then (if s.rangeOk (some n) true (shuttleDst ws) len then some (shuttleDst ws) else none)
  else none

/-- Where a local shuttle reads. -/
def shuttleFrom (n e : Nat) (ws : List Word) : Nat := if e = 3 then scratch n (shuttleSrc ws) else shuttleSrc ws

/-- The issue checks of a shuttle. (DEDUCED: notes/assumptions 100.) -/
def State.shuttleOk (s : State) (n e : Nat) (ws : List Word) : Bool :=
  let len := shuttleLen ws
  let far := fld ws 0 6 1 == 1
  let src := if far then e == 0 && decide (len ≤ 4096)
    else if e = 3 then decide (shuttleSrc ws + len ≤ scratchLen) else s.rangeOk (some n) false (shuttleSrc ws) len
  decide (64 ≤ len) && decide (len ≤ scratchLen) && len % 64 == 0 && src &&
    (fld ws 0 4 2 == 1 || (s.shuttleTarget n ws).isSome)

/-- Depth-to-space of regrouped pixels, the inverse of R186. (DESIGN CHOICE: notes/assumptions 67.) -/
def degrouped (d : Degroup) (x : Data) : Data :=
  (List.range (x.length / max d.bytes 1)).flatMap fun i =>
    let c := i % d.comps
    let px := i / d.comps
    let col := px % (d.width * d.g)
    let row := px / (d.width * d.g)
    let k := (row / d.g * d.width + col / d.g) * (d.g * d.g * d.comps) + (row % d.g * d.g + col % d.g) * d.comps + c
    (x.drop (k * d.bytes)).take d.bytes

/-- A shuttle ends: data go to its destination, or to the weight port. -/
def State.deliver (s : State) (n t : Nat) (st : Status) (d : Data) : State :=
  match tget? (s.loom n).tags t with
  | none => s
  | some x =>
    match s.shuttleTarget n x.words with
    | some a => (s.writeData a d).completeTag n t st
    | none => s.completeTag n t st d

/-- A shuttle ends without data: its destination is poisoned. -/
def State.deliverPoison (s : State) (n t : Nat) (st : Status) : State :=
  match tget? (s.loom n).tags t with
  | none => s
  | some x => s.deliver n t st (List.replicate (shuttleLen x.words) none)

/-- Data that crossed a store link or the I/O link: the 64-bit words of a flit that failed 8 retransmissions arrive poisoned
(R35, R323). -/
def overLink (lost : List Nat) (d : Data) : Data := d.mapIdx fun i b => if lost.contains (i / 8) then none else b

/-- What a store shuttle of a stripe task has written, kept with the task (R197, R201). -/
def State.noteStore (s : State) (n t : Nat) (x : Tag) (d : Data) : State :=
  let l := s.loom n
  match s.holderOf n, (l.cmds[x.cmd - l.base]?).filter (fun c => c.kind == 1 && x.engine == 3) with
  | some p, some c =>
    let y := s.part p
    s.setPart p { y with
      issued := y.issued.map fun k => if k.loom = some n ∧ k.runs c = true then { k with outs := tset k.outs t d } else k }
  | _, _ => s

/-- The transfer of a local shuttle (R265, R187); `lost` are the words of flits that failed for good (R35). -/
def State.runShuttle (s : State) (n t : Nat) (lost : List Nat) : State :=
  match tget? (s.loom n).tags t with
  | none => s
  | some x =>
    let r := s.readData (shuttleFrom n x.engine x.words) (shuttleLen x.words)
    let d := overLink lost (match x.aux.degroup with
      | some g => degrouped g r.2
      | none => r.2)
    (r.1.noteStore n t x d).deliver n t .done d

/-- The words 0 and 1 of a remote request (R395). -/
def requestWords (n j : Nat) (ws : List Word) : List Word :=
  [w32 (shuttleSrc ws), w32 (shuttleSrc ws / 2 ^ 32 + 2 ^ 8 * (shuttleLen ws / 64) + 2 ^ 16 * n + 2 ^ 22 * j)]

/-- A remote shuttle completes without a response; the counter of R286. -/
def State.remoteFails (s : State) (n t : Nat) (st : Status) (c : Fld) : State := (s.bump c).deliverPoison n t st

/-- A remote shuttle's request departs (R286), or the shuttle ends at once while the link is down. -/
def State.askTwin (s : State) (n t : Nat) (x : Tag) : State :=
  if s.on F.LINK_STAT_UP then
    let l := s.loom n
    let j := (lowestFree l.outstanding 4).getD 0
    (s.setLoom n { l with tags := tset l.tags t { x with remote := some j } }).linkSend 3 2 (requestWords n j x.words)
  else s.remoteFails n t .linkDown F.LINK_REMOTE_CNT_LINK_DOWN

/-- Issue a shuttle: it takes its tag; a failed check ends it at once. -/
def State.issueShuttle (s : State) (n e : Nat) (q : QIns) : State :=
  let l := s.loom n
  let x : Tag := { consumers := fld q.words 0 8 4, engine := e, words := q.words, cmd := q.cmd, aux := q.aux }
  let i : Issued := { awaits := some q.tag, cmd := q.cmd }
  let t := s.setLoom n { l with tags := tset l.tags q.tag x, issued := tset l.issued e (tgetD l.issued e [] ++ [i]) }
  if q.aux.poison then t.deliverPoison n q.tag .poisoned
  else if !s.shuttleOk n e q.words then t.deliverPoison n q.tag .badParam
  else if q.remote then t.askTwin n q.tag x
  else t

/-! ### Array instructions, line fetches and poisoned descriptors (R173, R326, R294) -/

/-- The task that an instruction belongs to. -/
def Loom.task (l : Loom) (q : QIns) : Option LoomCmd := (l.cmds[l.place q]?).filter fun c => c.kind == 1

/-- A poisoned descriptor executes nothing: the regions that its fields name are poisoned. -/
def State.spoil (s : State) (n : Nat) (q : QIns) : State :=
  let ws := q.words
  let k := q.kind
  if k = 3 then
    let t := if wloadOk ws then (s.reshape n (fld ws 0 4 2)).mapGroup n (fld ws 0 6 2) fun g => { g with back := some (wloadTile ws []) } else s
    t.arrayStatus n (fld ws 0 6 2) q.echo .poisoned {}
  else if k = 1 ∨ k = 2 then
    let x := mmIns ws
    (if x.accOut then s.poisonRows n x.oBase q.aux.stride (x.rowBytes q.aux) x.m else s).arrayStatus n x.group q.echo .poisoned {}
  else if k = 6 then s.poisonRows n (mmIns ws).oBase q.aux.stride q.aux.stride (mmIns ws).m
  else if k = 4 ∨ k = 5 then (s.poisonTile n (convIns ws) q.aux).convStatus n q.echo .poisoned
  else if k = 8 then
    let x := fetchIns ws ((s.loom n).task q)
    let b := s.bob x.bobbin
    State.fetchStatus (timesFrom (fun t y => t.poisonRows n (x.dst + y * x.line) x.pix (x.pixBytes (s.lineComps b))
      (x.nx (s.lineWidth b) / x.g)) (x.ny / x.g) 0 s) n q.echo .poisoned
  else s

/-- Execute an array instruction, a vector-unit program or a line fetch.
(DESIGN CHOICE: notes/assumptions 60; DEDUCED: notes/assumptions 104.) -/
def State.runIns (s : State) (n : Nat) (q : QIns) : State × Status :=
  let k := q.kind
  let d := ((q.uses.bind fun t => tget? (s.loom n).tags t).map (·.payload)).getD []
  if q.aux.poison then (s.spoil n q, .poisoned)
  else if k = 3 then s.runWload n q d
  else if k = 1 ∨ k = 2 then s.runMm n q
  else if k = 4 ∨ k = 5 then s.runConv n q d
  else if k = 6 then s.runVprog n q
  else if k = 8 then s.runLfetch n q ((s.loom n).task q)
  else (s, if q.aux.poison then .poisoned else .done)

/-! ### Array instructions that have issued and wait for their operands (R161 to R163, R171) -/

/-- Whether an instruction is a WLOAD, MM, MMT, CONV or DW. -/
def QIns.array (q : QIns) : Bool := decide (1 ≤ q.kind) && decide (q.kind ≤ 5)

/-- SPLIT of an array instruction. -/
def QIns.split (q : QIns) : Nat := fld q.words 0 4 2

/-- GROUP of an array instruction. -/
def QIns.group (q : QIns) : Nat := fld q.words 0 6 2

/-- Whether an instruction is an MM or MMT with a value of KEEP. -/
def QIns.pass (q : QIns) (keep : Bool) : Bool := (q.kind == 1 || q.kind == 2) && (mmIns q.words).keep == keep

/-- Whether an array instruction passes the checks on its fields (check 1 of R173, checks 1 and 2 of R180). -/
def QIns.fieldsOk (q : QIns) : Bool :=
  if q.kind = 3 then wloadOk q.words
  else if q.kind = 4 ∨ q.kind = 5 then (convIns q.words).ok q.words q.aux
  else (mmIns q.words).ok q.words q.aux

/-- Whether an array instruction executes at all, as far as its descriptor says. -/
def QIns.sound (q : QIns) : Bool := !q.aux.poison && q.fieldsOk

/-- The array instructions of a loom that have issued and not yet executed, oldest first. -/
def Loom.pendings (l : Loom) : List QIns := (tgetD l.issued 2 []).filterMap (·.run)

/-- Whether an issued array instruction may execute behind the ones before it that have not: its weights have arrived; a WLOAD
takes its turn at the weight port (R161) and leaves the back registers to the passes before it; a pass with KEEP = 1 does not need the
loads before it; else a group waits for its own instructions (R171). (DEDUCED: notes/assumptions 230.) -/
def mayRun (l : Loom) (earlier : List QIns) (q : QIns) : Bool :=
  !q.sound || (q.uses.all l.complete && !earlier.any fun r =>
    if q.kind = 3 then r.kind == 3 || r.group == q.group
    else if q.pass true then r.kind != 3 && r.group == q.group
    else r.group == q.group)

/-- The first of some issued instructions that waits and may execute: its place and itself. -/
def nextRun (l : Loom) : List QIns → Nat → List Issued → Option (Nat × QIns)
  | _, _, [] => none
  | earlier, k, i :: t =>
    match i.run with
    | some q => if mayRun l earlier q then some (k, q) else nextRun l (earlier ++ [q]) (k + 1) t
    | none => nextRun l earlier (k + 1) t

/-- Poison met by an instruction of a step's segment: the step's results are poisoned (R169, R326, R327).
(DEDUCED: notes/assumptions 222.) -/
def State.spoilStep (s : State) (n cmd : Nat) : State :=
  let l := s.loom n
  match s.holderOf n, (l.cmds[cmd - l.base]?).filter (·.kind == 2) with
  | some p, some _ =>
    let x := s.part p
    s.setPart p { x with step := x.step.map fun r => { r with bad := true } }
  | _, _ => s

/-- A status that an instruction completes with: the first other than DONE is held, and poison in a step's segment counts. -/
def State.insStatus (s : State) (n e : Nat) (q : QIns) (st : Status) : State :=
  let t := s.noteStatus n e q.echo st
  if st = .done then t else t.spoilStep n q.cmd

/-- Execute the next issued array instruction that may. -/
def State.runPending (s : State) (n : Nat) : State :=
  let is := tgetD (s.loom n).issued 2 []
  match nextRun (s.loom n) [] 0 is with
  | some (k, q) =>
    let r := s.runIns n q
    let l := r.1.loom n
    State.insStatus (r.1.setLoom n { l with issued := tset l.issued 2 (is.modify k fun i => { i with run := none }) }) n 2 q r.2
  | none => s

/-! ### Issue (R260, R162, R171) -/

/-- Whether a loom's engines stand still: a fence, an error that fences it at once, or an immediate pre-emption.
(DEDUCED: notes/assumptions 102.) -/
def State.frozen (s : State) (n : Nat) : Bool :=
  s.fenced n || (s.fenceDue.any fun e => e.1 == n && e.2 != 4) ||
    (s.holderOf n).any fun p =>
      let j := s.get F.SCHED_JOB_STATE p
      (j == 3 || j == 4 || j == 5) && s.on F.SCHED_JOB_IMMEDIATE p

/-- Whether an array instruction may issue: one that changes SPLIT waits until the array is idle (R171), a WLOAD until no pass still
has to swap in what the back registers hold (R162). A pass is one step of the model, so no token is outstanding between steps. -/
def arrayMay (l : Loom) (q : QIns) : Bool :=
  !q.sound || ((q.split == l.split || l.pendings.isEmpty) &&
    (q.kind != 3 || !l.pendings.any fun r => r.pass false && r.group == q.group))

/-- Whether the oldest instruction of a queue may issue (R260). -/
def mayIssue (l : Loom) (e : Nat) (q : QIns) : Bool :=
  if q.aux.blind || !engineRuns e q then true
  else if q.takes then (tget? l.tags q.tag).isNone && (!q.remote || decide (l.outstanding.length < 4))
  else if q.array then arrayMay l q
  else q.uses.all l.complete

/-- An instruction that completes as it issues. -/
def State.finishIns (s : State) (n e : Nat) (q : QIns) (st : Status) : State :=
  let l := s.loom n
  let i : Issued := { uses := q.uses, isEnd := q.kind == 0xC, cmd := q.cmd }
  (s.setLoom n { l with issued := tset l.issued e (tgetD l.issued e [] ++ [i]) }).insStatus n e q st

/-- An array instruction issues: a WLOAD, CONV or DW with another SPLIT reshapes the array (R171), and the instruction executes once
its operands are there. -/
def State.issueArray (s : State) (n : Nat) (q : QIns) : State :=
  let t := if q.sound ∧ 3 ≤ q.kind then s.reshape n q.split else s
  let l := t.loom n
  let i : Issued := { uses := q.uses, cmd := q.cmd, run := some q }
  t.setLoom n { l with issued := tset l.issued 2 (tgetD l.issued 2 [] ++ [i]) }

/-- A SIGNAL issues: it completes once what stands before it has completed. -/
def State.issueSignal (s : State) (n e : Nat) (q : QIns) : State :=
  let l := s.loom n
  let x : Tag := { consumers := fld q.words 0 8 4, engine := e, words := q.words, signal := true, cmd := q.cmd }
  let i : Issued := { awaits := some q.tag, cmd := q.cmd }
  let t := s.setLoom n { l with tags := tset l.tags q.tag x, issued := tset l.issued e (tgetD l.issued e [] ++ [i]) }
  if q.aux.poison then t.completeTag n q.tag .poisoned else t

/-- A queue in which the rest of a command is its END alone. -/
def cutToEnd (cmd : Nat) (qs : List QIns) : List QIns :=
  qs.filter (fun r => decide (r.cmd < cmd)) ++ { words := [0xC#32], cmd := cmd } :: qs.filter fun r => decide (cmd < r.cmd)

/-- Whether an engine has issued a command's END. -/
def Loom.endIssued (l : Loom) (cmd e : Nat) : Bool :=
  l.ends.contains (4 * cmd + e) || (tgetD l.issued e []).any fun i => i.isEnd && i.cmd == cmd

/-- How many issued instructions of a command still have to retire as consumers of a tag. -/
def Loom.users (l : Loom) (cmd t : Nat) : Nat :=
  (l.issued.map fun (e : Nat × List Issued) => (e.2.filter fun i => i.cmd == cmd && i.uses == some t).length).sum

/-- A loom whose command has been given up (R326): nothing of the rest of it issues but its ENDs; its tags await only the consumers
that have issued; and issued array instructions whose weights can no longer come are poisoned.
(DEDUCED: notes/assumptions 222.) -/
def Loom.giveUp (l : Loom) (cmd : Nat) : Loom :=
  let ts := (l.tags.map fun (e : Nat × Tag) => if e.2.cmd = cmd then (e.1, { e.2 with consumers := l.users cmd e.1 }) else e).filter
    fun (e : Nat × Tag) => !(e.2.cmd == cmd && e.2.consumers == 0 && e.2.status.isSome)
  let doom := fun (i : Issued) =>
    if i.cmd = cmd ∧ (i.uses.any fun t => (tget? ts t).isNone) = true then
      { i with run := i.run.map fun (r : QIns) => { r with aux := { r.aux with poison := true } } }
    else i
  { l with
    queues := (List.range 4).map fun e => (e, if l.endIssued cmd e then l.queue e else cutToEnd cmd (l.queue e))
    issued := l.issued.map fun (e : Nat × List Issued) => (e.1, e.2.map doom)
    tags := ts
    cmds := l.cmds.modify (cmd - l.base) fun c => { c with given := true } }

/-- A stripe task whose command has been given up: its vector is poisoned (R326). -/
def State.spoilTask (s : State) (n cmd : Nat) : State :=
  let l := s.loom n
  match s.holderOf n, (l.cmds[cmd - l.base]?).filter (·.kind == 1) with
  | some p, some c =>
    let x := s.part p
    s.setPart p { x with
      issued := x.issued.map fun k => if k.loom = some n ∧ k.runs c = true then { k with spoilt := true } else k }
  | _, _ => s

/-- A descriptor whose kind cannot be read (R326): its command is given up, on every engine, and ends; the poison goes with the task or
the step to the verdict. -/
def State.giveUp (s : State) (n e : Nat) (q : QIns) : State :=
  let t := (s.setLoom n ((s.loom n).giveUp q.cmd)).noteStatus n e q.echo .poisoned
  (t.spoilTask n q.cmd).spoilStep n q.cmd

/-- Issue the oldest instruction of a queue. -/
def State.issueHead (s : State) (n e : Nat) (q : QIns) (rest : List QIns) : State :=
  let l := s.loom n
  let cs := l.cmds.modify (l.place q) fun c => { c with started := true }
  let t := s.setLoom n { l with queues := tset l.queues e rest, cmds := cs }
  if q.aux.blind then t.giveUp n e q
  else if !engineRuns e q then t.finishIns n e q .badParam
  else if q.kind = 9 then t.issueShuttle n e q
  else if q.kind = 0xA then t.issueSignal n e q
  else if q.array then t.issueArray n q
  else
    let r := t.runIns n q
    r.1.finishIns n e q r.2

/-- One engine's turn to issue. -/
def State.issueTurn (s : State) (n e : Nat) : State :=
  match (s.loom n).queue e with
  | q :: rest => if !s.frozen n && mayIssue (s.loom n) e q then s.issueHead n e q rest else s
  | [] => s

/-! ### Retirement and the end of a command (R264, R267) -/

/-- Whether the oldest command's four ENDs have retired. -/
def Loom.ended (l : Loom) : Bool := (List.range 4).all fun e => l.ends.contains (4 * l.base + e)

/-- The oldest commands end, each once its four ENDs have retired; a list holds three. -/
def State.endOldest (s : State) (n : Nat) : Nat → State
  | 0 => s
  | f + 1 =>
    let l := s.loom n
    if l.ended then
      let es := l.ends.filter fun c => decide (4 * (l.base + 1) ≤ c)
      ((s.setLoom n { l with cmds := l.cmds.tail, base := l.base + 1, ends := es }).bumpWrap F.LOOM_CMD_ENDED 1 n).endOldest n f
    else s

/-- The oldest issued instruction of an engine retires, if it has completed; a SIGNAL there completes. -/
def State.retireTurn (s : State) (n e : Nat) : State :=
  let l := s.loom n
  match tgetD l.issued e [] with
  | [] => s
  | i :: rest =>
    match i.awaits with
    | some t => if (tget? l.tags t).any (·.signal) then s.completeTag n t .done else s
    | none =>
      let a := (i.uses.map l.consumed).getD l
      let es := if i.isEnd then a.ends ++ [4 * i.cmd + e] else a.ends
      if i.run.isSome then s else State.endOldest (s.setLoom n { a with issued := tset a.issued e rest, ends := es }) n 3

/-- How much a loom has still before it: it falls with each issue, completion and retirement.
(DESIGN CHOICE: notes/assumptions 103.) -/
def Loom.work (l : Loom) : Nat :=
  ((l.queues.map fun (e : Nat × List QIns) => 3 * e.2.length).sum) +
    (l.issued.map fun (e : Nat × List Issued) =>
      e.2.length + (e.2.filter fun i => i.awaits.isSome || i.run.isSome).length).sum

/-- One round: every engine issues and retires what it can, and the array executes what it can. -/
def State.round (s : State) (n : Nat) : State :=
  timesFrom (fun t e =>
    let u := t.issueTurn n e
    (if u.frozen n then u else u.runPending n).retireTurn n e) 4 0 s

/-- Rounds until nothing moves. -/
def State.rounds (s : State) (n : Nat) : Nat → State
  | 0 => s
  | f + 1 =>
    let t := s.round n
    if (t.loom n).work < (s.loom n).work then t.rounds n f else t

/-- Let a loom's engines go on as far as they can. -/
def State.pumpLoom (s : State) (n : Nat) : State := (s.rounds n ((s.loom n).work + 1)).showLoom n

/-- The stamp of the command whose descriptors the sequencer fetches next for an engine: it fetches none of a command that has been given
up. -/
def Loom.nextCmd (l : Loom) (e : Nat) : Nat :=
  let st := max l.base (tgetD l.fetched e 0)
  st + ((l.cmds.drop (st - l.base)).takeWhile (·.given)).length

/-- Place an instruction on an engine's queue, for the command whose descriptors the sequencer fetches there. -/
def State.feed (s : State) (n e kind : Nat) (words : List Word) (aux : Aux) : State :=
  let l := s.loom n
  let st := l.nextCmd e
  if fld words 0 0 4 ≠ kind ∨ s.frozen n = true ∨ 512 ≤ (l.queue e).length ∨ l.base + l.cmds.length ≤ st then s
  else
    let q : QIns := { words := words, aux := aux, cmd := st }
    let fs := tset l.fetched e (if kind = 0xC then st + 1 else st)
    State.pumpLoom (s.setLoom n { l with queues := tset l.queues e (l.queue e ++ [q]), fetched := fs }) n

/-! ### The instructions -/

/-- WLOAD (R161, R162). -/
def execWload (loom : Fin 64) (engine : Fin 4) (words : List Word) (aux : Aux) (s : State) : Host.Outcome State Fault Refusal :=
  onCore s fun s => s.feed loom engine 3 words aux

/-- MM (R165). -/
def execMm (loom : Fin 64) (engine : Fin 4) (words : List Word) (aux : Aux) (s : State) : Host.Outcome State Fault Refusal :=
  onCore s fun s => s.feed loom engine 1 words aux

/-- MMT (R166). -/
def execMmt (loom : Fin 64) (engine : Fin 4) (words : List Word) (aux : Aux) (s : State) : Host.Outcome State Fault Refusal :=
  onCore s fun s => s.feed loom engine 2 words aux

/-- CONV (R180). -/
def execConv (loom : Fin 64) (engine : Fin 4) (words : List Word) (aux : Aux) (s : State) : Host.Outcome State Fault Refusal :=
  onCore s fun s => s.feed loom engine 4 words aux

/-- DW (R185). -/
def execDw (loom : Fin 64) (engine : Fin 4) (words : List Word) (aux : Aux) (s : State) : Host.Outcome State Fault Refusal :=
  onCore s fun s => s.feed loom engine 5 words aux

/-- VPROG (R259). -/
def execVprog (loom : Fin 64) (engine : Fin 4) (words : List Word) (aux : Aux) (s : State) : Host.Outcome State Fault Refusal :=
  onCore s fun s => s.feed loom engine 6 words aux

/-- LFETCH (R193). -/
def execLfetch (loom : Fin 64) (engine : Fin 4) (words : List Word) (aux : Aux) (s : State) : Host.Outcome State Fault Refusal :=
  onCore s fun s => s.feed loom engine 8 words aux

/-- SHUTTLE (R261). -/
def execShuttle (loom : Fin 64) (engine : Fin 4) (words : List Word) (aux : Aux) (s : State) : Host.Outcome State Fault Refusal :=
  onCore s fun s => s.feed loom engine 9 words aux

/-- SIGNAL (R266). -/
def execSignal (loom : Fin 64) (engine : Fin 4) (words : List Word) (aux : Aux) (s : State) : Host.Outcome State Fault Refusal :=
  onCore s fun s => s.feed loom engine 0xA words aux

/-- WAIT (R266). -/
def execWait (loom : Fin 64) (engine : Fin 4) (words : List Word) (aux : Aux) (s : State) : Host.Outcome State Fault Refusal :=
  onCore s fun s => s.feed loom engine 0xB words aux

/-- END (R266, R267). -/
def execEndInstr (loom : Fin 64) (engine : Fin 4) (words : List Word) (aux : Aux) (s : State) : Host.Outcome State Fault Refusal :=
  onCore s fun s => s.feed loom engine 0xC words aux

/-- SHUTTLE_COMPLETE (R35, R264, R265, R322): a local shuttle's transfer ends. (DEDUCED: notes/assumptions 101.) -/
def execShuttleComplete (loom : Fin 64) (transfer : Transfer) (s : State) : Host.Outcome State Fault Refusal :=
  onCore s fun s =>
    match tget? (s.loom loom).tags transfer.tag with
    | some x =>
      if x.status.isNone && !x.signal && x.remote.isNone then (s.runShuttle loom transfer.tag transfer.lost).pumpLoom loom else s
    | none => s

/-! ### Remote requests of the twin (R395) -/

/-- Whether a remote request may be answered with data. (DEDUCED: notes/assumptions 106.) -/
def State.requestOk (s : State) (a len : Nat) : Bool :=
  let base := s.get F.TWIN_REMOTE_BASE_BASE * 65536
  decide (base ≤ a) && decide (a + len ≤ base + s.get F.TWIN_REMOTE_SIZE_SIZE * 65536) && s.rangeOk none false a len &&
    s.wiped (a + len - 1)

/-- The payload of a response: words, a poisoned 64-bit word as zeros with its index. -/
def respPayload (head : List Word) (d : Data) : List Word × List Nat :=
  (head ++ bytesWords (dataBytes d),
   (those (d.length / 8) fun i => !dataGood ((d.drop (8 * i)).take 8)).map (· + head.length / 2))

/-- RREQ_RECEIVE (R395). -/
def execRreqReceive (s : State) : Host.Outcome State Fault Refusal :=
  onCore s fun s => s.onFrame 3 fun t f =>
    let a := f.word 0 + 2 ^ 32 * bitsOf (f.word 1) 0 8
    let len := 64 * bitsOf (f.word 1) 8 7
    let head := fun (st : Status) => [w32 (f.word 0), w32 (f.word 1), w32 st.code, 0]
    if len ≠ 0 ∧ t.requestOk a len = true then
      let r := t.readData a len
      let p := respPayload (head .done) r.2
      r.1.linkSend 4 3 p.1 p.2
    else t.linkSend 4 3 (head .badParam)

/-! ### Remote responses (R286 to R288) -/

/-- The data of a response. -/
def respData (f : RzFrame) : Data :=
  let bs := wordsBytes (f.payload.drop 4)
  bs.mapIdx fun i b => if f.poison.contains (i / 8 + 2) then none else some b

/-- The tag of a loom that awaits a response: its entry, address and length are those of the request. -/
def Loom.awaiting (l : Loom) (n : Nat) (f : RzFrame) : Option Nat :=
  (l.tags.find? fun (e : Nat × Tag) => e.2.status.isNone && e.2.parked.isNone &&
    e.2.remote.any fun j => requestWords n j e.2.words == f.payload.take 2).map (·.1)

/-- The place of a loom in its partition. -/
def State.positionOf (s : State) (p n : Nat) : Nat := ((sorted (s.part p).looms).findIdx? (· == n)).getD 0

/-- The address of a remote slot entry. -/
def State.slotAddr (s : State) (p n j : Nat) : Nat :=
  s.get F.SCHED_REMOTE_BASE_BASE p * 65536 + 16384 * s.positionOf p n + 4096 * j

/-- A tag with its response parked. -/
def Tag.park (x : Tag) (ok : Bool) (d : Data) : Tag :=
  if ok then { x with parked := some d } else { x with status := some Status.badParam.code }

/-- Park a response in the remote slot (R288). -/
def State.parkIn (s : State) (p n : Nat) (x : Tag) (d : Data) : State :=
  (s.writeData (s.slotAddr p n (x.remote.getD 0)) d).bump F.LINK_REMOTE_CNT_PARKED

/-- Change the tag of a saved loom, and show the loom. -/
def State.mapSaved (s : State) (p n t : Nat) (f : Tag → Tag) : State :=
  let x := s.part p
  let l := tgetD x.saved n {}
  let y := f (tgetD l.tags t { consumers := 0, engine := 0, words := [] })
  (s.setPart p { x with saved := tset x.saved n { l with tags := tset l.tags t y } }).showLoom n

/-- The partition that keeps a saved loom with a tag that meets a test, and that tag. -/
def State.savedTag (s : State) (n : Nat) (which : Loom → Option Nat) : Option (Nat × Nat) :=
  s.sched.parts.findSome? fun (e : Nat × Partition) => ((tget? e.2.saved n).bind which).map fun t => (e.1, t)

/-- A response for a loom (R286, R288). (DEDUCED: notes/assumptions 105.) -/
def State.response (s : State) (n : Nat) (f : RzFrame) : State :=
  let ok := f.word 2 % 256 == 0
  match (s.loom n).awaiting n f with
  | some t =>
    let l := s.loom n
    let x := tgetD l.tags t { consumers := 0, engine := 0, words := [] }
    if s.frozen n then
      let u := s.setLoom n { l with tags := tset l.tags t (x.park ok (respData f)) }
      State.showLoom (match ok, s.holderOf n with
        | true, some p => u.parkIn p n x (respData f)
        | _, _ => u) n
    else (if ok then s.deliver n t .done (respData f) else s.deliverPoison n t .badParam).pumpLoom n
  | none =>
    match s.savedTag n fun l => l.awaiting n f with
    | some (p, t) =>
      let u := s.mapSaved p n t fun x => x.park ok (respData f)
      if ok then u.parkIn p n (tgetD (tgetD (s.part p).saved n {}).tags t { consumers := 0, engine := 0, words := [] }) (respData f) else u
    | none => s.bump F.LINK_REMOTE_CNT_LATE_REMOTE

/-- RRESP_RECEIVE (R286, R288). -/
def execRrespReceive (s : State) : Host.Outcome State Fault Refusal :=
  onCore s fun s => s.onFrame 4 fun t f => t.response (bitsOf (f.word 1) 16 6) f

/-- An outstanding remote shuttle that a loom holds ends without a response: at once, or marked where the loom stands still. -/
def State.remoteEndsLive (s : State) (n t : Nat) (st : Status) (c : Fld) : State :=
  let l := s.loom n
  match (tget? l.tags t).filter Tag.far with
  | some x =>
    if s.frozen n then ((s.setLoom n { l with tags := tset l.tags t { x with status := some st.code } }).bump c).showLoom n
    else (s.remoteFails n t st c).pumpLoom n
  | none => s

/-- An outstanding remote shuttle of a saved loom is marked. -/
def State.remoteEndsSaved (s : State) (p n t : Nat) (st : Status) (c : Fld) : State :=
  if (tget? (tgetD (s.part p).saved n {}).tags t).any Tag.far then
    ((s.mapSaved p n t fun x => { x with status := some st.code }).bump c).showLoom n
  else s

/-- An outstanding remote shuttle of a partition's loom ends without a response, in the loom or in its save record (R288). -/
def State.remoteEnds (s : State) (p n t : Nat) (st : Status) (c : Fld) : State :=
  if (tget? (s.part p).saved n).isSome then s.remoteEndsSaved p n t st c
  else if s.holderOf n = some p then s.remoteEndsLive n t st c else s

/-- Whether the response to a shuttle has arrived and waits to be taken: it comes before the expiry (R46, R286). -/
def State.responseIn (s : State) (p n t : Nat) : Bool :=
  let x := match tget? (s.part p).saved n with
    | some l => tget? l.tags t
    | none => tget? (s.loom n).tags t
  x.any fun y => y.remote.any fun j => s.link.inbox.any fun f => f.kind == 4 && requestWords n j y.words == f.payload.take 2

/-- REMOTE_TMO_EXPIRE (R286): of a shuttle that a partition's loom asked for. -/
def execRemoteTmoExpire (part : Fin 8) (shuttle : LoomTag) (s : State) : Host.Outcome State Fault Refusal :=
  onCore s fun s =>
    if s.responseIn part shuttle.loom shuttle.tag then s else s.remoteEnds part shuttle.loom shuttle.tag .timeout F.LINK_REMOTE_CNT_TIMEOUT

/-- The link goes down: every outstanding remote shuttle ends with LINK_DOWN (R389). -/
def State.remotesDown (s : State) : State :=
  timesFrom (fun t n =>
    let u := foldState (fun v tag => v.remoteEndsLive n tag .linkDown F.LINK_REMOTE_CNT_LINK_DOWN) t ((t.loom n).tags.map (·.1))
    foldState (fun v (e : Nat × Partition) =>
      foldState (fun w tag => w.remoteEndsSaved e.1 n tag .linkDown F.LINK_REMOTE_CNT_LINK_DOWN) v
        ((tgetD e.2.saved n {}).tags.map (·.1))) u u.sched.parts) 64 0 s

/-- A loom goes on after an immediate pre-emption: parked responses are delivered, and shuttles that ended meanwhile write
their destinations poisoned (R288). -/
def State.resumeRemote (s : State) (p n : Nat) : State :=
  let fars := (s.loom n).tags.filter fun (e : Nat × Tag) => e.2.remote.isSome && (e.2.parked.isSome || e.2.status.isSome)
  let t := foldState (fun (u : State) (e : Nat × Tag) =>
    if e.2.parked.isSome then
      let r := u.readData (u.slotAddr p n (e.2.remote.getD 0)) (shuttleLen e.2.words)
      r.1.deliver n e.1 .done r.2
    else u.deliverPoison n e.1 (if e.2.status = some Status.timeout.code then .timeout
      else if e.2.status = some Status.linkDown.code then .linkDown else .badParam)) s fars
  t.pumpLoom n

end Sys2Proof.Machine
end

