-- ==== Sys2Proof/Machine/Models.lean ====
section
/-! DEFINITION. Decen images (chapter 12, R272 to R277; R257; R327): registration from chunks, the checks of an image, the
model cache and its eviction, pins, reloads, and the commit of what a job has learned. -/

namespace Sys2Proof.Machine

/-! ### The life-cycle state and its keys (R418, R422) -/

/-- Whether a value field is marked as written (R418): either flag bit of its pair. (DESIGN CHOICE: notes/assumptions 206.) -/
def FuseField.written (f : FuseField) : Bool := f.flagA || f.flagB

/-- Whether a value field is partly written: not 0, and not marked (R425). -/
def FuseField.torn (f : FuseField) : Bool := !f.written && f.value.any (· != 0)

/-- A value field as the device reads it. -/
def FuseField.read (f : FuseField) : Option (List Byte) := if f.written then some f.value else none

/-- A value field of the fuses: 0 where unburnt. -/
def fuseValue (f : FuseField) : List Byte := f.read.getD (List.replicate 32 0)

/-- The life-cycle state: a bit is 1 if either bit of its pair is (R418). -/
def Fuses.life (f : Fuses) : Nat := Nat.lor f.lifeA f.lifeB

/-- The life-cycle code in force; a split word of it is the state that the fuses hold (R315). -/
def State.life (s : State) : Nat := if s.splitWord 0 then s.fuses.life else s.get F.LC_STATE_STATE

/-- The key hash against which the signature of a model is verified. -/
def State.modelRoot (s : State) : List Byte :=
  let l := s.life
  if l = 0x00 then Config.romTestRoot
  else if l = 0x03 ∨ l = 0x07 then fuseValue s.fuses.modelKey
  else fuseValue s.fuses.vendorRoot

/-! ### The checks of an image (R274) -/

/-- Whether the signature of an image holds. -/
def State.imageSigned (s : State) (bs : List Byte) : Bool :=
  Config.sha256 (Config.imageKey bs) == s.modelRoot &&
    Config.lmsVerify (Config.imageKey bs) (Config.imageSignature bs) (Config.imageSigned bs)

/-- Whether the header words of an image are as the table gives. -/
def State.headerOk (s : State) (h : List Word) : Bool :=
  let w := fun (i : Nat) => (h.getD i 0).toNat
  let nominal := bitsOf (w 2) 16 7
  let floor := bitsOf (w 2) 24 7
  w 0 == 0x4E454344 && w 1 == 0x64160001 && decide (bitsOf (w 2) 0 8 ≤ s.get F.SYS_ID_STEPPING) &&
    decide (bitsOf (w 2) 8 8 ≤ 3) && decide (1 ≤ nominal) && decide (nominal ≤ 64) && decide (1 ≤ floor) &&
    decide (floor ≤ nominal) && !bitAt (w 2) 23 && !bitAt (w 2) 31 && decide (w 5 < 8)

/-- Whether an image carries a schedule for every partition size from FLOOR to NOMINAL. -/
def schedulesOk (h : List Word) (im : Config.Image) : Bool :=
  let w2 := (h.getD 2 0).toNat
  (List.range 65).all fun n =>
    !(decide (bitsOf w2 24 7 ≤ n) && decide (n ≤ bitsOf w2 16 7)) || im.schedules.any (·.n == n)

/-- The CRC-32C of an image, word 7 taken as 0. -/
def imageCrc (bs : List Byte) : Word := crc32c (bs.take 28 ++ [0, 0, 0, 0] ++ bs.drop 32)

/-- Whether an image passes every check. -/
def State.imageOk (s : State) (bs : List Byte) : Bool :=
  let h := (bytesWords bs).take 8
  let signed := bitAt (h.getD 5 0).toNat 2
  s.headerOk h && imageCrc bs == h.getD 7 0 && schedulesOk h (Config.image bs) &&
    (!(signed || s.life == 0x07) || (signed && s.imageSigned bs))

/-! ### The registry (R272) -/

/-- The lowest address from `base` at which `len` bytes fit beside what is taken.
(DESIGN CHOICE: notes/assumptions 92.) -/
def lowestSpace (taken : List (Nat × Nat)) (base size len : Nat) : Option Nat :=
  let fits := fun (a : Nat) => decide (a + len ≤ base + size) &&
    taken.all fun t => decide (a + len ≤ t.1) || decide (t.1 + t.2 ≤ a)
  ((base :: taken.map fun t => t.1 + t.2).filter fits).foldl
    (fun (m : Option Nat) a => match m with | some b => some (min a b) | none => some a) none

/-- What the registry holds: the registered models and the image being received. -/
def State.registryTaken (s : State) : List (Nat × Nat) :=
  s.sched.models.map (fun m => (m.addr, m.len)) ++
    (match s.sched.loading with | some l => [(l.addr, l.len)] | none => [])

/-- The lowest free registry space of a length. -/
def State.registrySpace (s : State) (len : Nat) : Option Nat :=
  lowestSpace s.registryTaken s.registryArea.base s.registryArea.len len

/-- Whether the registry is valid. -/
def State.registryOk (s : State) : Bool :=
  let a := s.registryArea
  a.len != 0 && s.inDdr a && !s.clashes a anyOwner

/-- Change the models. -/
def State.mapModels (s : State) (f : List Model → List Model) : State :=
  { s with sched := { s.sched with models := f s.sched.models } }

/-- Change one model. -/
def State.mapModel (s : State) (id : Nat) (f : Model → Model) : State :=
  s.mapModels fun l => l.map fun m => if m.id = id then f m else m

/-- Whether a job in a state other than IDLE uses a model. -/
def State.modelBusy (s : State) (id : Nat) : Bool :=
  s.sched.parts.any fun e => e.2.model == id && s.get F.SCHED_JOB_STATE e.1 != 0

/-- Show one slot of the model cache. -/
def State.showSlot (s : State) (k : Nat) : State :=
  match s.sched.models.find? fun m => m.slot == some k && m.resident with
  | some m =>
    ((((s.put F.SCHED_SLOT_INDEX m.index k).putBit F.SCHED_SLOT_VALID true k).putBit F.SCHED_SLOT_PINNED m.pinned k).putBit
      F.SCHED_SLOT_IN_USE (s.modelBusy m.id) k).put F.SCHED_SLOT_UNITS m.units.length k
  | none => s.setReg R.SCHED_SLOT 0 k

/-- Show the models and the cache. -/
def State.showModels (s : State) : State :=
  let ms := s.sched.models
  let t := ((s.put F.SCHED_MODEL_CNT_REGISTERED ms.length).put F.SCHED_MODEL_CNT_RESIDENT
    (ms.filter (·.resident)).length).put F.SCHED_MODEL_CNT_PINNED (ms.filter (·.pinned)).length
  timesFrom State.showSlot 64 0 (t.put F.SCHED_CACHE_CNT_USED (ms.map fun m => m.units.length).sum)

/-- The CRC-32C that an image's header holds. -/
def Model.crc (m : Model) : Word := m.header.getD 7 0

/-- Mirror one model identity: kind 0 removed, 1 added or listed, 2 a list begins, 3 it has ended (R401). -/
def State.mirrorModel (s : State) (id : Nat) (crc : Word) (kind : Nat) : State := s.mirror 6 [w32 id, crc, w32 kind]

/-- Enter an image in the registry: its bytes are written, its index is the lowest free one. -/
def State.enterModel (s : State) (id addr : Nat) (bs : List Byte) (info : Config.Image) : State :=
  let i := (lowestFree (s.sched.models.map (·.index)) 1024).getD 0
  let m : Model := { id := id, index := i, addr := addr, len := bs.length, header := (bytesWords bs).take 8
                     info := info }
  ((s.mapModels fun l => l ++ [m]).showModels).mirrorModel id m.crc 1

/-- CMD_MODEL_REGISTER (R272). -/
def execCmdModelRegister (src : Source) (s : State) : Host.Outcome State Fault Refusal :=
  runCmd s src 0x0401 fun s c =>
    let id := c.p 1
    let len := c.p 2
    if id = 0 ∨ (s.model? id).isSome = true ∨ len = 0 ∨ len % 64 ≠ 0 then refuse s .badParam
    else if !s.registryOk then refuse s .badState
    else if s.sched.loading.isSome then refuse s .busy
    else if 1024 ≤ s.sched.models.length then refuse s .overflow
    else
      match s.registrySpace len with
      | none => refuse s .overflow
      | some a =>
        let l : RegLoad := { src := src, tag := c.tag, id := id, len := len, addr := a }
        ({ s with sched := { s.sched with loading := some l } }, .begun)

/-- The complete image is written to its place and checked; the registration ends (R272, R274). -/
def State.endLoading (s : State) (l : RegLoad) : State :=
  let bs := l.got.map (·.2)
  let t := State.writeData { s with sched := { s.sched with loading := none } } l.addr (goodData bs)
  if t.imageOk bs then
    let u := t.enterModel l.id l.addr bs (Config.image bs)
    u.finishOp 0x0401 .done [w32 (((u.model? l.id).map (·.index)).getD 0)]
  else t.finishOp 0x0401 .authFail

/-- Bytes taken by offset. -/
def takeAt (got : Tbl Byte) : Nat → List Byte → Tbl Byte
  | _, [] => got
  | o, b :: t => takeAt (tset got o b) (o + 1) t

/-- A chunk reaches its registration, or is discarded (R273). (DEDUCED: notes/assumptions 90.) -/
def State.takeChunk (s : State) (bs : List Byte) : State :=
  let w := fun (i : Nat) => (bytesWord (bs.drop (4 * i))).toNat
  match s.sched.loading with
  | none => s.rxDiscard
  | some l =>
    let o := w 1
    let data := bs.drop 8
    if bs.length < 8 ∨ bs.length % 4 ≠ 0 ∨ bitsOf (w 0) 0 16 ≠ l.tag ∨ o % 4 ≠ 0 ∨ l.len < o + data.length then s.rxDiscard
    else
      let m := { l with got := takeAt l.got o data }
      let t := { s with sched := { s.sched with loading := some m } }
      if m.got.length = m.len then t.endLoading m else t

/-- HOST_RX_MODEL_CHUNK (R273). -/
def execHostRxModelChunk (packet : RxPacket) (s : State) : Host.Outcome State Fault Refusal :=
  onDevice s fun s => s.rxFilter packet fun t _ => t.takeChunk packet.payload

/-- BULK_TMO expires between the chunks of an image (R272). -/
def State.modelTmo (s : State) : State :=
  if s.sched.loading.isSome then State.finishOp { s with sched := { s.sched with loading := none } } 0x0401 .truncated else s

/-! ### The model cache (R276, R277) -/

/-- The units that a model takes in the cache. -/
def Model.need (m : Model) : Nat := ceilDiv m.cacheLen (2 ^ 20)

/-- Whether a CMD_MODEL_PIN waits for a model. -/
def State.pinWaits (s : State) (id : Nat) : Bool :=
  s.host.running.any fun e => e.2.opcode == 0x0403 && e.2.p 1 == id

/-- The model that would be evicted next: unpinned, not in use, least recently used, the lower slot at a tie. -/
def State.evictable (s : State) : Option Model :=
  (s.sched.models.filter fun m => m.slot.isSome && !m.pinned && !s.modelBusy m.id && !s.pinWaits m.id).foldl
    (fun (b : Option Model) m =>
      match b with
      | none => some m
      | some k => if m.used < k.used ∨ (m.used = k.used ∧ m.slot.getD 0 < k.slot.getD 0) then some m else some k) none

/-- A model leaves the cache. -/
def State.evict (s : State) (id : Nat) : State :=
  (s.mapModel id fun m => { m with slot := none, units := [], resident := false, pinned := false }).bump
    F.SCHED_CACHE_CNT_EVICTIONS

/-- The cache units in use. -/
def State.cacheUsed (s : State) : List Nat := s.sched.models.flatMap (·.units)

/-- Give a model a slot and units, evicting at most `n` models first; `none` where no permitted eviction makes room. -/
def State.placeModel (s : State) (m : Model) : Nat → Option State
  | 0 => none
  | n + 1 =>
    let used := s.cacheUsed
    match lowestFree (s.sched.models.filterMap (·.slot)) 64 with
    | some k =>
      if m.need + used.length ≤ 384 then
        some (s.mapModel m.id fun x => { x with slot := some k, units := (those 384 fun u => !used.contains u).take m.need })
      else
        match s.evictable with
        | some e => (s.evict e.id).placeModel m n
        | none => none
    | none =>
      match s.evictable with
      | some e => (s.evict e.id).placeModel m n
      | none => none

/-- Begin to make a model resident: it has a slot already, or takes one. -/
def State.beginResident (s : State) (id : Nat) : Option State :=
  match s.model? id with
  | some m => if m.slot.isSome then some s else (s.placeModel m 66).map (·.showModels)
  | none => none

/-- Load one unit of a model from its registry copy; poison of the copy travels. -/
def State.loadUnit (s : State) (m : Model) (i : Nat) : State :=
  let r := s.readData m.addr m.len
  let img := dataBytes r.2
  let n := min (2 ^ 20) (m.cacheLen - i * 2 ^ 20)
  let part := (List.range n).map fun j => r.2.getD (Config.cacheSource img (i * 2 ^ 20 + j) % m.len) none
  let a := unitAddr (m.units.getD i 0)
  let t := r.1.writeData a (part ++ List.replicate (roundUp n 8 - n) (some 0))
  { t with mem := { t.mem with met := tdel t.mem.met (m.units.getD i 0) } }

/-- A model becomes resident: its units are loaded, and it is used. -/
def State.loadModel (s : State) (m : Model) : State :=
  let t := timesFrom (fun u i => u.loadUnit m i) m.units.length 0 s
  (((t.mapModel m.id fun x => { x with resident := true }).useModel m.id).bump F.SCHED_CACHE_CNT_LOADS).showModels

/-- A waiting CMD_MODEL_PIN of a resident model completes. -/
def State.pinDone (s : State) (m : Model) : State :=
  match s.host.running.find? fun e => e.2.opcode == 0x0403 && e.2.p 1 == m.id with
  | some e =>
    (((s.mapModel m.id fun x => { x with pinned := true }).useModel m.id).showModels).finish e .done [w32 (m.slot.getD 0)]
  | none => s

/-- CMD_MODEL_UNREGISTER (R275). (DEDUCED: notes/assumptions 91.) -/
def execCmdModelUnregister (src : Source) (s : State) : Host.Outcome State Fault Refusal :=
  runCmd s src 0x0402 fun s c =>
    let id := c.p 1
    match s.model? id with
    | none => refuse s .noModel
    | some _ =>
      if s.modelBusy id then refuse s .busy
      else
        let t := match s.host.running.find? fun e => e.2.opcode == 0x0403 && e.2.p 1 == id with
          | some e => s.finish e .noModel
          | none => s
        doneWith (((t.mapModels fun l => l.filter fun m => m.id != id).showModels).mirrorModel id 0 0)

/-- CMD_MODEL_PIN (R277). (DEDUCED: notes/assumptions 93.) -/
def execCmdModelPin (src : Source) (s : State) : Host.Outcome State Fault Refusal :=
  runCmd s src 0x0403 fun s c =>
    let id := c.p 1
    match s.model? id with
    | none => refuse s .noModel
    | some m =>
      if bitAt (c.p 2) 0 then
        match s.beginResident id with
        | some t => (t, .begun)
        | none => refuse s .overflow
      else
        let t := ((s.reply src c .accepted).mapModel id fun x => { x with pinned := false }).showModels
        doneWith t [w32 (if m.resident then m.slot.getD 0xFF else 0xFF)]

/-- MODEL_CACHE_RELOAD (R327): a unit of a resident model in which poison was met is loaded again. -/
def execModelCacheReload (model unit : Nat) (s : State) : Host.Outcome State Fault Refusal :=
  onDevice s fun s =>
    match s.model? model with
    | some m =>
      if m.resident ∧ unit < m.units.length ∧ (tget? s.mem.met (m.units.getD unit 0)).isSome = true then (s.loadUnit m unit).bump F.MEM_POISON_CNT_RELOAD else s
    | none => s

/-! ### Commits (R257) -/

/-- The first numbers of a list, and the rest. -/
def cutList (l : List Nat) (n : Nat) : List Nat × List Nat := (l.take n, l.drop n)

/-- The working copies of layers from their parameters in one list, the order of `LearnPar.flat`. -/
def parsOf : List Config.LearnLayer → List Nat → List LearnPar
  | [], _ => []
  | l :: t, par =>
    let w := cutList par (if floatLayer l then l.ins * l.outs else 0)
    let b := cutList w.2 l.biases.length
    let s := cutList b.2 l.sigmas.length
    let e := cutList s.2 l.entries.length
    { w := w.1, b := b.1, s := s.1, e := e.1 } :: parsOf t e.2

/-- An image with its learnable tensors taken from a working copy; everything else, every schedule included, as it is (R257). -/
def imageWith (im : Config.Image) (par : List Nat) : Config.Image :=
  { im with learn := (im.learn.zip (parsOf im.learn par)).map fun e => layerWith e.1 e.2 }

/-- The bytes of a committed image: the base's length and header, with the CRC of its new contents. -/
def committedBytes (base : List Byte) (par : List Nat) : List Byte :=
  let body := (Config.committed base par ++ List.replicate base.length 0).take base.length
  let bs := base.take 28 ++ [0, 0, 0, 0] ++ body.drop 32
  bs.take 28 ++ wordBytes (imageCrc bs) ++ bs.drop 32

/-- Register the image that parameters make of a base model; `none` where the registry has no room.
(DEDUCED: notes/assumptions 86.) -/
def State.enterCommit (s : State) (id : Nat) (base : Model) (par : List Nat) : Option State :=
  let r := s.readData base.addr base.len
  let bs := committedBytes (dataBytes r.2) par
  if 1024 ≤ s.sched.models.length ∨ (s.model? id).isSome = true then none
  else
    match s.registrySpace (roundUp bs.length 64) with
    | none => none
    | some a =>
      let d : Data := if dataGood r.2 then goodData bs else bs.map fun _ => none
      some ((r.1.writeData a d).enterModel id a bs (imageWith base.info par))

/-- CMD_LEARN_COMMIT (R257, R398). (DEDUCED: notes/assumptions 85.) -/
def execCmdLearnCommit (src : Source) (s : State) : Host.Outcome State Fault Refusal :=
  runCmd s src 0x040B fun s c =>
    let p := c.target
    let x := s.part p
    let id := c.p 1
    if id = 0 then refuse s .badParam
    else
      match s.jobModel p with
      | none => refuse s .badState
      | some m =>
        if s.role == 2 || !x.learning || s.get F.SCHED_JOB_STATE p == 1 || s.get F.SCHED_LEARN_STEPS_STEPS p == 0 || (s.model? id).isSome then refuse s .badState
        else if 1024 ≤ s.sched.models.length ∨ (s.registrySpace m.len).isNone = true ∨ (s.placeModel m 66).isNone = true then
          refuse s .overflow
        else
          let par := if x.learn.running then none else some x.learn.working
          (s.mapLearn p fun l => { l with commits := l.commits ++ [{ id := id, par := par }] }, .begun)

/-- Mirror a commit: the parameters in pieces, then the ids (R401). -/
def State.mirrorCommit (s : State) (id base : Nat) (par : List Nat) : State :=
  let n := ceilDiv par.length 1024
  (timesFrom (fun t i => t.mirror 8 (((par.drop (1024 * i)).take 1024).map w32)) n 0 s).mirror 7 [w32 id, w32 base]

/-- A commit's image is built, registered and loaded. -/
def State.commitNow (s : State) (p : Nat) (k : Commit) (lps : List LearnPar) : State :=
  let t := s.mapLearn p fun l => { l with commits := l.commits.drop 1 }
  let par := lps.flatMap (·.flat)
  match s.jobModel p with
  | none => t.finishFor 0x040B p .badState
  | some base =>
    if (t.model? k.id).isSome then t.finishFor 0x040B p .badState
    else
      match (t.enterCommit k.id base par).bind fun u => u.beginResident k.id with
      | some u =>
        let v := match u.model? k.id with | some m => u.loadModel m | none => u
        let slot := ((v.model? k.id).bind (·.slot)).getD 0xFF
        ((v.put F.SCHED_LEARN_COMMIT_MODEL k.id p).mirrorCommit k.id base.id par).finishFor 0x040B p .done [w32 slot]
      | none => t.finishFor 0x040B p .overflow

/-- LEARN_COMMIT_DONE (R257). -/
def execLearnCommitDone (part : Fin 8) (s : State) : Host.Outcome State Fault Refusal :=
  onDevice s fun s =>
    match (s.part part.val).learn.commits.head? with
    | some k =>
      match k.par with
      | some lps => s.commitNow part.val k lps
      | none => s
    | none => s

end Sys2Proof.Machine
end

