-- ==== Sys2Proof/Machine/Jobs.lean ====
section
/-! DEFINITION. Partitions and jobs (chapter 12, R269 to R271 and R278 to R285; R291): creation and deletion, start, stop,
cancel, pre-emption at both levels, resume, and the arithmetic profile. -/

namespace Sys2Proof.Machine

/-! ### Partitions (R269 to R271) -/

/-- Show the looms of a partition and how many are lent. -/
def State.showPart (s : State) (p : Nat) : State :=
  let x := s.part p
  let mask := (x.looms.map fun n => 2 ^ n).sum
  (((s.put F.SCHED_PART_LO_MASK mask p).put F.SCHED_PART_HI_MASK (mask / 2 ^ 32) p).put F.SCHED_JOB_BORROWED
    (x.looms.filter fun n => s.lent p n).length p).showActive p

/-- Show which partition holds a loom now. -/
def State.showHolder (s : State) (n : Nat) : State :=
  let h := s.holderOf n
  ((s.put (F.SCHED_LOOM_MAP_PART (n % 8)) (h.getD 0) (n / 8)).putBit (F.SCHED_LOOM_MAP_ASSIGNED (n % 8)) h.isSome (n / 8)).showLoom n

/-- Show every partition and loom. -/
def State.showParts (s : State) : State := timesFrom State.showHolder 64 0 (timesFrom State.showPart 8 0 s)

/-- The partition a loom belongs to as its own. -/
def State.ownerOf (s : State) (n : Nat) : Option Nat :=
  (s.sched.parts.find? fun e => e.2.looms.contains n && (tget? e.2.borrowed n).isNone).map (·.1)

/-- Whether a loom can be borrowed: its partition's job is PREEMPTED, and nobody has borrowed it. -/
def State.borrowable (s : State) (n : Nat) : Bool :=
  match s.ownerOf n with
  | some q => s.get F.SCHED_JOB_STATE q == 4 && !s.lent q n
  | none => true

/-- CMD_PARTITION_CREATE (R269, R271). (DEDUCED: notes/assumptions 99.) -/
def execCmdPartitionCreate (src : Source) (s : State) : Host.Outcome State Fault Refusal :=
  runCmd s src 0x0404 fun s c =>
    let p := c.target
    let ns := maskList 64 (c.p 1 + 2 ^ 32 * c.p 2)
    if ns.isEmpty then refuse s .badParam
    else if s.hasPart p then refuse s .badState
    else if ns.any fun n => !s.borrowable n then refuse s .resourceHeld
    else if ns.any s.fenced then refuse s .fenced
    else
      let from' : Tbl Nat := ns.filterMap fun n => (s.ownerOf n).map fun q => (n, q)
      doneWith (s.setPart p { looms := ns, borrowed := from' }).showParts

/-- A lender finds a loom fenced when it returns (R430): with fewer unfenced looms than FLOOR its job ends FENCED. -/
def State.lenderFenced (s : State) (q : Nat) : State :=
  match s.jobModel q with
  | some m =>
    if ((s.part q).looms.filter fun n => !s.fenced n).length < m.floor then (s.jobKill q .fenced .fenced).bump F.SCHED_FENCE_CNT_FLOOR
    else s
  | none => s

/-- CMD_PARTITION_DELETE (R270). -/
def execCmdPartitionDelete (src : Source) (s : State) : Host.Outcome State Fault Refusal :=
  runCmd s src 0x0405 fun s c =>
    let p := c.target
    if !s.hasPart p then refuse s .badState
    else if s.get F.SCHED_JOB_STATE p ≠ 0 ∨ ((s.part p).looms.any fun n => s.lent p n) = true then refuse s .busy
    else
      let back := (s.part p).borrowed
      let t := State.showParts { s with sched := { s.sched with parts := tdel s.sched.parts p } }
      doneWith (foldState (fun u q => u.lenderFenced q) t ((back.filter fun e => s.fenced e.1).map (·.2)).eraseDups).settle

/-! ### The start of a job (R243, R246, R278, R287) -/

/-- The remote area of a partition. -/
def State.remoteArea (s : State) (p : Nat) : Area :=
  ⟨ownRemote + p, s.get F.SCHED_REMOTE_BASE_BASE p * 65536, (s.part p).looms.length * 16384⟩

/-- Whether the remote area meets R287. (DEDUCED: notes/assumptions 107.) -/
def State.remoteOk (s : State) (p : Nat) : Bool :=
  let a := s.remoteArea p
  a.inBeam (s.millOf p) && !s.clashes a anyOwner

/-- The areas that a learn area may not overlap (R246). -/
def isLearnFoe (o : Nat) : Bool :=
  decide (o < ownStage) || (decide (ownLearn ≤ o) && decide (o < ownSave)) || (decide (ownRing ≤ o) && decide (o < ownRemote))

/-- Whether a LEARN job of the partition's model may start (R243). -/
def State.learnOk (s : State) (p : Nat) (m : Model) : Bool :=
  let a : Area := ⟨ownLearn + p, s.get F.SCHED_LEARN_BASE_BASE p * 65536, s.get F.SCHED_LEARN_SIZE_SIZE p * 65536⟩
  m.learns && !m.info.learn.isEmpty && decide (s.learnNeed p ≤ s.get F.SCHED_LEARN_SIZE_SIZE p) &&
    a.inBeam (s.millOf p) && !s.clashes a isLearnFoe

/-- The partition with a job of a model in the state STARTING. -/
def State.asStarting (s : State) (p id : Nat) (learn : Bool) : State :=
  let x := s.part p
  ((s.setPart p { x with model := id, learning := learn }).put F.SCHED_JOB_STATE 1 p).putBit F.SCHED_JOB_LEARN learn p

/-- Check 4 of R278, on the partition with its job. -/
def State.jobFits (s : State) (p : Nat) (m : Model) (learn : Bool) : Bool :=
  (m.profile == 0 || m.profile == s.profile) && s.poolOk p m.info && s.stageOk p m.info && (!learn || s.learnOk p m) &&
    (!m.remote || s.remoteOk p)

/-- Show what a job's image declares. -/
def State.showJob (s : State) (p : Nat) (m : Model) : State :=
  let im := m.info
  let a := ((s.setReg R.SCHED_JOB_MODEL m.id p).put F.SCHED_JOB_SIZE_NOMINAL m.nominal p).put F.SCHED_JOB_SIZE_FLOOR m.floor p
  let b := ((a.put F.SCHED_ATTN_CFG_HEADS im.heads p).put F.SCHED_ATTN_CFG_HEAD_DIM im.headDim p).putBit F.SCHED_ATTN_CFG_KV_FMT im.kvInt8 p
  let c := ((b.put F.SCHED_ATTN_CFG_R im.tokenR p).put F.SCHED_ATTN_CFG_BLOCKS (im.blocks - 1) p).put F.SCHED_ATTN_TOK_TMAX im.tMax p
  let d := ((c.put F.SCHED_ATTN_TOK_PER_PAGE (perPage im) p).put F.SCHED_STAGE_NEED_NEED (stageNeed im) p).put
    F.QUANT_CALIB_NEED_CHANNELS im.channels.length p
  (d.showNeed p).showInUse

/-- CMD_JOB_START (R278). -/
def execCmdJobStart (src : Source) (s : State) : Host.Outcome State Fault Refusal :=
  runCmd s src 0x0406 fun s c =>
    let p := c.target
    let id := c.p 1
    let learn := bitAt (c.p 2) 0
    if !s.hasPart p || s.get F.SCHED_JOB_STATE p != 0 then refuse s .badState
    else
      match s.model? id with
      | none => refuse s .noModel
      | some m =>
        let t := s.asStarting p id learn
        if (s.activeLooms p).length < m.floor then refuse s .fenced
        else if !t.jobFits p m learn then refuse s .badState
        else
          match t.beginResident id with
          | none => refuse s .noModel
          | some u =>
            let v := u.showJob p m
            (if learn then v.startLearn p else v, .begun)

/-- The bobbins that wait for a job start their compute (R278); a STANDBY device in warm mode computes nothing. -/
def State.startWaiting (s : State) (p : Nat) : State :=
  if s.computesNothing then s
  else foldState (fun t id => if (t.bob id).waits then t.startCompute id else t) s (s.bobsOf p)

/-- A STARTING job reaches RUNNING. -/
def State.jobRuns (s : State) (p : Nat) : State :=
  let a := (s.put F.SCHED_JOB_STATE 2 p).takeSchedule p
  let b := if (a.part p).learning then a.putBit F.SCHED_LEARN_CTRL_ACTIVE true p else a
  ((b.startWaiting p).judgeReady p).finishFor 0x0406 p .done

/-- The partitions whose job is STARTING with a model. -/
def State.startingWith (s : State) (id : Nat) : List Nat :=
  (s.sched.parts.filter fun e => e.2.model == id && s.get F.SCHED_JOB_STATE e.1 == 1).map (·.1)

/-- MODEL_RESIDENT (R276 to R278): a model that has a slot is loaded; the jobs and pins that wait for it go on. -/
def execModelResident (model : Nat) (s : State) : Host.Outcome State Fault Refusal :=
  onDevice s fun s =>
    match s.model? model with
    | some m =>
      if m.slot.isNone then s
      else
        let t := if m.resident then s else s.loadModel m
        foldState (fun u p => u.jobRuns p) (t.pinDone m) (t.startingWith model)
    | none => s

/-! ### Stop and cancel (R280) -/

/-- The looms of a partition that it holds now. -/
def State.heldLooms (s : State) (p : Nat) : List Nat := (s.part p).looms.filter fun n => !s.lent p n

/-- CMD_JOB_STOP (R280). -/
def execCmdJobStop (src : Source) (s : State) : Host.Outcome State Fault Refusal :=
  runCmd s src 0x0407 fun s c =>
    let p := c.target
    if s.get F.SCHED_JOB_STATE p ≠ 2 then refuse s .badState
    else
      let t := (s.withdraw p (s.heldLooms p) fun c => c.kind == 1).put F.SCHED_JOB_STATE 6 p
      if t.allEnded p then
        doneWith (((t.reply src c .accepted).jobIdle p .done .cancelled).finishAll 0x040B p .cancelled)
      else (t, .begun)

/-- CMD_JOB_CANCEL (R280). -/
def execCmdJobCancel (src : Source) (s : State) : Host.Outcome State Fault Refusal :=
  runCmd s src 0x0408 fun s c =>
    let p := c.target
    if s.get F.SCHED_JOB_STATE p = 0 then refuse s .badState else doneWith (s.jobKill p .cancelled .cancelled).settle

/-! ### Pre-emption (R281 to R285, R288) -/

/-- The bytes of a save record, in whole 64 KiB units: 37. -/
def saveLen : Nat := 37 * 65536

/-- Whether the save area meets R282. -/
def State.saveOk (s : State) (p : Nat) : Bool :=
  let a : Area := ⟨ownSave + p, s.get F.SCHED_SAVE_BASE_BASE p * 65536, s.get F.SCHED_SAVE_SIZE_SIZE p * 65536⟩
  decide (37 * (s.part p).looms.length ≤ s.get F.SCHED_SAVE_SIZE_SIZE p) && s.inDdr a && !s.clashes a anyOwner

/-- A pre-emption begins: tasks that have not started are withdrawn; the segments of the running step stay, to end it at the boundary
level, and to continue after an immediate pause. -/
def State.beginPreempt (s : State) (p : Nat) (immediate : Bool) : State :=
  let t := ((s.withdraw p (s.heldLooms p) fun c => c.kind == 1).put F.SCHED_JOB_STATE 3 p).putBit F.SCHED_JOB_IMMEDIATE immediate p
  let x := t.part p
  t.setPart p { x with paused := t.activeLooms p }

/-- CMD_JOB_PREEMPT (R281 to R283). (DEDUCED: notes/assumptions 95.) -/
def execCmdJobPreempt (src : Source) (s : State) : Host.Outcome State Fault Refusal :=
  runCmd s src 0x0409 fun s c =>
    let p := c.target
    let immediate := c.p 1 == 1
    let j := s.get F.SCHED_JOB_STATE p
    if j = 2 then
      if 1 < c.p 1 then refuse s .badParam
      else if immediate && !s.saveOk p then refuse s .badState else (s.beginPreempt p immediate, .begun)
    else if j = 3 ∧ immediate = true ∧ s.on F.SCHED_JOB_IMMEDIATE p = false then
      if !s.saveOk p then refuse s .badState
      else ((s.finishFor 0x0409 p .preempted).putBit F.SCHED_JOB_IMMEDIATE true p, .begun)
    else refuse s .badState

/-- Whether an address lies in the scratchpad of one of some looms. -/
def inScratch (ns : List Nat) (a : Nat) : Bool :=
  decide (0x2200000000 ≤ a) && ns.contains ((a - 0x2200000000) / 0x200000)

/-- The part of the memories whose addresses meet a test. -/
def Memory.only (m : Memory) (p : Nat → Bool) : Memory :=
  { cells := m.cells.filter fun e => p e.1, clean := m.clean.filter fun e => p e.1, valid := m.valid.filter fun e => p e.1
    flaws := m.flaws.filter fun e => p e.1, held := [] }

/-- Put the entries of a table into another. -/
def tmerge {α : Type} (t u : Tbl α) : Tbl α := u.foldl (fun (a : Tbl α) (e : Nat × α) => tset a e.1 e.2) t

/-- Put a part of the memories back. -/
def Memory.putBack (m n : Memory) : Memory :=
  { cells := (foldState (fun (a : Memory) (e : Nat × BitVec 8) => a.setByte e.1 e.2) m n.cells).cells
    clean := tmerge m.clean n.clean, valid := tmerge m.valid n.valid, flaws := tmerge m.flaws n.flaws, held := m.held
    met := m.met }

/-- Write the save records, whose layout the spec does not give (R282). -/
def State.writeSaves (s : State) (p n : Nat) : State :=
  let d := (List.range (n * saveLen)).map fun i => some (Config.saveByte (s.freeUse * 2 ^ 40 + i))
  (s.writeData (s.get F.SCHED_SAVE_BASE_BASE p * 65536) d).drawn

/-- The looms' state goes into the save records, and the looms are free. -/
def State.saveLooms (s : State) (p : Nat) : State :=
  let ns := s.activeLooms p
  let x := s.part p
  let mem := s.mem.only (inScratch ns)
  let t := s.setPart p { x with saved := ns.map fun n => (n, s.loom n), savedMem := mem }
  foldState (fun u n => (u.setLoom n { u.loom n with groups := [], accs := [] }).clearLoom n) (t.writeSaves p ns.length) ns

/-- Whether a loom has a local shuttle in flight. -/
def Loom.localInFlight (l : Loom) : Bool := l.tags.any fun e => e.2.status.isNone && e.2.remote.isNone && !e.2.signal

/-- Whether a PREEMPTING job has reached its pause: at the boundary level nothing runs; at the immediate level no local
shuttle is in flight (R281). -/
def State.paused (s : State) (p : Nat) : Bool :=
  let x := s.part p
  if s.on F.SCHED_JOB_IMMEDIATE p then (s.heldLooms p).all fun n => !(s.loom n).localInFlight
  else x.issued.isEmpty && ((x.step.isNone && !x.learn.running) || x.redo) && (s.heldLooms p).all fun n => (s.loom n).cmds.isEmpty

/-- PREEMPT_COMPLETE (R281). -/
def execPreemptComplete (part : Fin 8) (s : State) : Host.Outcome State Fault Refusal :=
  onCore s fun s =>
    let p := part.val
    if s.get F.SCHED_JOB_STATE p = 3 ∧ s.paused p = true then
      let t := if s.on F.SCHED_JOB_IMMEDIATE p then s.saveLooms p else s
      (((t.put F.SCHED_JOB_STATE 4 p).bump F.SCHED_JOB_CNT_PREEMPT p).finishFor 0x0409 p .done)
    else s

/-- CMD_JOB_RESUME (R285). -/
def execCmdJobResume (src : Source) (s : State) : Host.Outcome State Fault Refusal :=
  runCmd s src 0x040A fun s c =>
    let p := c.target
    if s.get F.SCHED_JOB_STATE p ≠ 4 ∨ ((s.part p).looms.any fun n => s.lent p n) = true then refuse s .badState
    else (s.put F.SCHED_JOB_STATE 5 p, .later)

/-- The save records are restored; the stripe tasks that had started are discarded and ready again (R281). -/
def State.restoreLooms (s : State) (p : Nat) : State :=
  let x := s.part p
  let m := ({ s.mem.only fun a => !inScratch (x.saved.map (·.1)) a with held := s.mem.held } : Memory).putBack x.savedMem
  let t := foldState (fun (u : State) (e : Nat × Loom) => (u.setLoom e.1 (e.2.cut (fun c => c.kind == 1) 3)).showLoom e.1)
    ({ s with mem := m }.setPart p { x with saved := [], savedMem := {} }) x.saved
  (t.countReexec p (x.saved.map (·.2))).reReady p fun _ => true

/-- The job goes on with other looms: the save records are discarded, the interrupted work starts again (R285). -/
def State.resumeAnew (s : State) (p : Nat) : State :=
  let x := s.part p
  let a := foldState (fun (v : State) (e : Nat × Loom) => v.showLoom e.1) (s.setPart p { x with saved := [], savedMem := {}, redo := false }) x.saved
  let t := (a.countReexec p (x.saved.map (·.2))).reReady p fun _ => true
  let u := if (x.step.isSome || x.learn.running) && !x.redo then t.bump F.SCHED_FENCE_CNT_REEXEC else t
  u.restart p

/-- RESUME_COMPLETE (R285). (DEDUCED: notes/assumptions 97.) -/
def execResumeComplete (part : Fin 8) (s : State) : Host.Outcome State Fault Refusal :=
  onCore s fun s =>
    let p := part.val
    if s.get F.SCHED_JOB_STATE p ≠ 5 then s
    else
      let x := s.part p
      let t :=
        if (s.activeLooms p).length ≠ x.paused.length then s.resumeAnew p
        else if s.on F.SCHED_JOB_IMMEDIATE p then s.restoreLooms p
        else s
      let u := (t.put F.SCHED_JOB_STATE 2 p).putBit F.SCHED_JOB_IMMEDIATE false p
      let v := foldState (fun w n => w.resumeRemote p n) u (if x.paused.length = (s.activeLooms p).length then x.saved.map (·.1) else [])
      (v.judgeReady p).finishFor 0x040A p .done

/-! ### The arithmetic profile (R291) -/

/-- CMD_ARITH_PROFILE_SET (R291). -/
def execCmdArithProfileSet (src : Source) (s : State) : Host.Outcome State Fault Refusal :=
  runCmd s src 0x040C fun s c =>
    let v := c.p 1 % 256
    if v = 0 ∨ 3 < v ∨ 512 ≤ c.p 1 then refuse s .badParam
    else if s.on F.DET_ARITH_PROFILE_LOCK then refuse s .badState
    else if (List.range 8).any fun p => s.get F.SCHED_JOB_STATE p != 0 then refuse s .badState
    else
      let t := (s.put F.DET_ARITH_PROFILE_PROFILE v).stored 1
      doneWith (if bitAt (c.p 1) 8 then t.putBit F.DET_ARITH_PROFILE_LOCK true else t)

end Sys2Proof.Machine
end

