-- ==== Sys2Proof/Machine/Protect.lean ====
section
/-! DEFINITION. Memory protection (chapter 14): the wipe, CMD_MEM_FILL, the scrubber, the critical words and their split,
and DET_CTRL.CLEAR. -/

namespace Sys2Proof.Machine

/-! ### READY (R416) -/

/-- Whether every condition of READY holds. -/
def State.readyNow (s : State) : Bool :=
  s.on F.HOST_STATUS_FW_RUN && s.on F.MEM_WIPE_STAT_SRAM_DONE && s.on F.MEM_WIPE_STAT_DDR_DONE && s.boot.loomTested &&
    (s.boot.idDone || s.life == 0)

/-- Become READY when the last condition comes to hold. -/
def State.becomeReady (s : State) : State :=
  if s.readyNow && !s.on F.HOST_STATUS_READY then
    (s.putBit F.HOST_STATUS_READY true).raise F.HOST_IBI_CAUSE_READY
  else s

/-! ### The wipe (R316, R317) -/

/-- The memories with a range of addresses wiped (R316): every granule poisoned by both marks, its data 0, so that the check byte
of an SRAM word is 0xFF. -/
def Memory.wipe (m : Memory) (lo hi : Nat) : Memory :=
  { cells := m.cells.filter fun (e : Nat × BitVec 8) => decide (e.1 < lo) || decide (hi ≤ e.1)
    clean := m.clean.filter fun (e : Nat × Unit) => decide (e.1 < lo) || decide (hi ≤ e.1)
    valid := m.valid.filter fun (e : Nat × Unit) => decide (e.1 < lo) || decide (hi ≤ e.1)
    held := m.held
    met := m.met
    flaws := m.flaws.filter fun (e : Nat × Flaw) => decide (e.1 < lo) || decide (hi ≤ e.1) }

/-- SRAM_WIPE_DONE (R316): every SRAM word is poisoned. -/
def execSramWipeDone (s : State) : Host.Outcome State Fault Refusal :=
  onDevice s fun s =>
    if s.on F.MEM_WIPE_STAT_SRAM_DONE then s
    else
      (State.putBit { s with mem := s.mem.wipe 0x2000000000 0x3F00000000 } F.MEM_WIPE_STAT_SRAM_DONE true).becomeReady

/-- DDR_TRAINING_DONE (R316): the DDR5 wipe begins. With no installed capacity there is nothing to train. -/
def execDdrTrainingDone (s : State) : Host.Outcome State Fault Refusal :=
  onDevice s fun s =>
    if s.on F.MEM_DDR_CFG_TRAINED || s.capacity == 0 then s
    else (s.putBit F.MEM_DDR_CFG_TRAINED true).putBit F.MEM_WIPE_STAT_DDR_RUN true

/-- DDR_WIPE_MARK_ADVANCE (R316, R317): a further MiB is wiped, and the writes that waited for it are made; at the installed
capacity the wipe ends. -/
def execDdrWipeMarkAdvance (s : State) : Host.Outcome State Fault Refusal :=
  onDevice s fun s =>
    if s.on F.MEM_WIPE_STAT_DDR_RUN then
      let k := s.get F.MEM_WIPE_MARK_MARK
      let t := State.put { s with mem := s.mem.wipe (k * 2 ^ 20) ((k + 1) * 2 ^ 20) } F.MEM_WIPE_MARK_MARK (k + 1)
      if t.capacity ≤ (k + 1) * 2 ^ 20 then
        ((t.putBit F.MEM_WIPE_STAT_DDR_RUN false).putBit F.MEM_WIPE_STAT_DDR_DONE true).releaseHeld.becomeReady
      else t.releaseHeld
    else s

/-! ### CMD_MEM_FILL (R318) -/

/-- What a fill meets at a granule: the region's own refusal, a block as unmapped space. -/
def State.fillRefusal (s : State) (a : Nat) : Option Status :=
  if s.region a = .block then some .badParam else s.memRefusal a

/-- The bytes before the first failing granule, at most `n` chunks of 64 bytes. (DEDUCED: notes/assumptions 111.) -/
def State.fillPrefix (s : State) : Nat → Nat → Nat
  | 0, _ => 0
  | n + 1, a => if (s.fillRefusal a).isSome then 0 else 64 + s.fillPrefix n (a + 64)

/-- Fill `n` chunks of 64 bytes with a pattern, stopping at one that fails by now; the bytes written. -/
def State.fillChunks (s : State) (pattern : Word) : Nat → Nat → Nat → State × Nat
  | 0, _, w => (s, w)
  | n + 1, a, w =>
    if (s.fillRefusal a).isSome then (s, w)
    else
      let d := goodData ((List.replicate 16 (wordBytes pattern)).flatten)
      State.fillChunks (s.writeFuel (d.length + 1) a d) pattern n (a + 64)
        (w + 64)

/-- CMD_MEM_FILL (R318): how far the fill reaches is judged at acceptance (R317). -/
def execCmdMemFill (src : Source) (s : State) : Host.Outcome State Fault Refusal :=
  runCmd s src 0x0503 fun s c =>
    let a := c.p 1 + 2 ^ 32 * bitsOf (c.p 2) 0 8
    let n := c.p 3
    let first := s.region a
    if a % 64 ≠ 0 ∨ n % 64 ≠ 0 ∨ first = .block ∨ first = .unmapped then refuse s .badParam
    else
      let f : Fill := { src := src, addr := a, left := s.fillPrefix (n / 64) a, done := n,
                        pattern := w32 (c.p 4) }
      ({ s with fills := s.fills ++ [f] }, .begun)

/-- The status of a granule at which a fill stopped. -/
def State.fillStatus (s : State) (a : Nat) : Status :=
  match s.region a with
  | .block | .unmapped => .badParam
  | .scratch n => if s.fenced n then .fenced else .notReady
  | _ => .notReady

/-- MEM_FILL_DONE (R318): the oldest fill has written its range, and its command completes with the bytes written. -/
def execMemFillDone (s : State) : Host.Outcome State Fault Refusal :=
  onDevice s fun s =>
    match s.fills with
    | [] => s
    | f :: rest =>
      let r := State.fillChunks { s with fills := rest } f.pattern (f.left / 64) f.addr 0
      match r.1.host.running.find? (fun e => e.1 == f.src && e.2.opcode == 0x0503) with
      | some e => r.1.finish e (if r.2 = f.done then .done else r.1.fillStatus (f.addr + r.2)) [w32 r.2]
      | none => r.1

/-! ### The scrubber (R319 to R321) -/

/-- CMD_SCRUB_SET (R319). -/
def execCmdScrubSet (src : Source) (s : State) : Host.Outcome State Fault Refusal :=
  runCmd s src 0x0504 fun s c =>
    if 4000 < c.p 1 ∨ c.p 2 < 1 ∨ 255 < c.p 2 then refuse s .badParam
    else doneWith ((s.put F.SCRUB_RATE_MBPS (c.p 1)).put F.SCRUB_DEBT_MAX_MAX (c.p 2))

/-- The scrub target of an address: subchannels 0 to 15, scratchpads 16 to 79, beam memories 80 to 83, the halves of the
model cache 84 and 85. -/
def State.scrubTarget (s : State) (a : Nat) : Nat :=
  match s.region a with
  | .scratch n => 16 + n
  | .beam m => 80 + m
  | .cache => if a < 0x200C000000 then 84 else 85
  | _ => s.subchannel a

/-- One scrub access to a granule: deferred with a debt where a foreground access is ahead of it, made otherwise, and made
by force once the debt has reached its limit. The flag says whether the access was made. -/
def State.scrubAccess (s : State) (g : Nat) (contended : Bool) (flaw : Option Flaw) : State × Bool :=
  let k := s.scrubTarget g
  let d := tgetD s.scrub.debt k 0
  let set := fun (t : State) (n : Nat) => { t with scrub := { t.scrub with debt := tset t.scrub.debt k n } }
  let found := s.withFlaws (flaw.toList.map fun f => (g, f))
  if s.get F.SCRUB_DEBT_MAX_MAX ≤ d then (((set found 0).bump F.SCRUB_CNT_FORCED).touch .scrubber g, true)
  else if contended then (set s (d + 1), false)
  else (found.touch .scrubber g, true)

/-- SCRUB_DDR_ACCESS (R319 to R321). -/
def execScrubDdrAccess (contended : Bool) (flaw : Option Flaw) (s : State) : Host.Outcome State Fault Refusal :=
  onCore s fun s =>
    if s.on F.MEM_WIPE_STAT_DDR_DONE && s.get F.SCRUB_RATE_MBPS != 0 && s.capacity != 0 then
      let r := s.scrubAccess s.scrub.ddr contended flaw
      if r.2 then
        let next := s.scrub.ddr + 64
        let wrap := decide (s.capacity ≤ next)
        let pos := if wrap then 0 else next
        let t := State.put { r.1 with scrub := { r.1.scrub with ddr := pos } } F.SCRUB_POS_POS (pos / 2 ^ 20)
        if wrap then t.bumpWrap F.SCRUB_PASS_DDR else t
      else r.1
    else s

/-- The SRAM granule after one, in address order: the model cache, the beam memories, the scratchpads, and again.
(DEDUCED: notes/assumptions 112.) -/
def nextSram (a : Nat) : Nat :=
  if a + 8 = 0x2018000000 then 0x2100000000
  else if a + 8 = 0x2104000000 then 0x2200000000
  else if 0x2208000000 ≤ a + 8 then 0x2000000000
  else a + 8

/-- Whether a granule is the first of a pass. -/
def passStart (a : Nat) : Bool := a == 0x2000000000

/-- Pass over the scratchpads of fenced looms. -/
def State.skipFenced (s : State) : Nat → Nat → Nat
  | 0, a => a
  | n + 1, a =>
    match s.region a with
    | .scratch k =>
      if s.fenced k then
        s.skipFenced n (if k = 63 then 0x2000000000 else 0x2200000000 + (k + 1) * 0x200000)
      else a
    | _ => a

/-- SCRUB_SRAM_ACCESS (R319 to R321). -/
def execScrubSramAccess (contended : Bool) (flaw : Option Flaw) (s : State) : Host.Outcome State Fault Refusal :=
  onCore s fun s =>
    if s.on F.MEM_WIPE_STAT_SRAM_DONE && s.get F.SCRUB_SRAM_PERIOD_S != 0 then
      let g := s.skipFenced 64 s.scrub.sram
      let r := s.scrubAccess g contended flaw
      if r.2 then
        let next := s.skipFenced 64 (nextSram g)
        let t := { r.1 with scrub := { r.1.scrub with sram := next } }
        if passStart next then t.bumpWrap F.SCRUB_PASS_SRAM else t
      else r.1
    else s

/-! ### The critical words (R313 to R315) -/

/-- Whether a register is one of the critical words, and which. -/
def critWord (r : Reg) (i : Nat) : Option Nat :=
  if r.base = R.LC_STATE.base then some 0
  else if r.base = R.DET_ARITH_PROFILE.base then some 1
  else if r.base = R.TWIN_CTRL.base then some 3
  else if r.base = R.SCHED_FENCE_MAP_LO.base then some 4
  else if r.base = R.SCHED_FENCE_MAP_HI.base then some 5
  else if r.base = R.BOB_PROV_TABLE.base then some 6
  else if r.base = R.BOB_CLASS_MAP.base then some (7 + i)
  else if r.base = R.BOB_LANE_CFG.base then some (15 + i)
  else if r.base = R.FIELD_EJECT_LEAD.base then some 31
  else if r.base = R.SYS_OWN.base ∧ i ≤ 12 then some (32 + i)
  else if r.base = R.TK_STAT.base then some 2
  else none

/-- The value of a critical register as it is used: a split word of it is its reset value, the fused life-cycle state, or the
set seal (R315). -/
def State.critReg (s : State) (r : Reg) (i j : Nat) : Nat :=
  match critWord r i with
  | some w =>
    if s.splitWord w then
      (if w = 0 then setBits (s.reg r i j) 0 8 s.fuses.life
       else if w = 2 then setBits (s.reg r i j) F.TK_STAT_SEALED.lo 1 1
       else r.reset i j)
    else s.reg r i j
  | none => s.reg r i j

/-- A register at its reset value. -/
def State.toReset (s : State) (r : Reg) (i : Nat := 0) : State := s.setReg r (r.reset i 0) i

/-- The register that holds a critical word of the I/O die, and its index; the time-step seal is one bit of TK_STAT. -/
def critHome (w : Nat) : Reg × Nat :=
  if w = 0 then (R.LC_STATE, 0) else if w = 1 then (R.DET_ARITH_PROFILE, 0) else if w = 2 then (R.TK_STAT, 0)
  else if w = 3 then (R.TWIN_CTRL, 0) else if w = 4 then (R.SCHED_FENCE_MAP_LO, 0) else if w = 5 then (R.SCHED_FENCE_MAP_HI, 0)
  else if w = 6 then (R.BOB_PROV_TABLE, 0) else if w < 15 then (R.BOB_CLASS_MAP, w - 7)
  else if w < 31 then (R.BOB_LANE_CFG, w - 15) else if w = 31 then (R.FIELD_EJECT_LEAD, 0) else (R.SYS_OWN, w - 32)

/-- The bits of that register that belong to the word. -/
def critMask (w : Nat) : Nat :=
  if w = 0 then 0xFF else if w = 2 then 2 ^ F.TK_STAT_SEALED.lo else 0xFFFFFFFF

/-- The register of the field die that holds a critical word. -/
def critField (w : Nat) : Reg × Nat := if w = 45 then (R.FIELD_SAFE_VALUES, 0) else (R.FIELD_ENC_CFG, w - 46)

/-- Turn over bits of a critical word's value, in all three copies. -/
def State.flipWord (s : State) (w : Nat) (m : BitVec 32) : State :=
  if w < 45 then
    let h := critHome w
    s.setReg h.1 (Nat.xor (s.reg h.1 h.2) m.toNat) h.2
  else
    let h := critField w
    let k := cfgIndex h.1 h.2
    { s with die := { s.die with copy := tset s.die.copy k (Nat.xor (tgetD s.die.copy k (h.1.reset h.2 0)) m.toNat) } }

/-- The value on which at least two copies agree, as a difference from the word's. -/
def Copies.vote (x : Copies) : Option (BitVec 32) :=
  if x.a = x.b ∨ x.a = x.c then some x.a else if x.b = x.c then some x.b else none

/-- The copies with one of them upset. -/
def Copies.upset (x : Copies) (k : Fin 3) (m : BitVec 32) : Copies :=
  if k = 0 then { x with a := x.a ^^^ m } else if k = 1 then { x with b := x.b ^^^ m } else { x with c := x.c ^^^ m }

/-- An upset strikes a copy of a critical word: where two copies are upset alike, theirs is the value that is used (R314). -/
def State.strike (s : State) (u : Upset) : State :=
  let w := u.word.val
  let x := (tgetD s.copies w {}).upset u.copy (u.flip &&& BitVec.ofNat 32 (critMask w))
  match x.vote with
  | some m =>
    let y : Copies := { a := x.a ^^^ m, b := x.b ^^^ m, c := x.c ^^^ m }
    let t := { s with copies := if y = {} then tdel s.copies w else tset s.copies w y }
    if m = 0 then t else t.flipWord w m
  | none => { s with copies := tset s.copies w x }

/-- The register of a split word shows what its uses take: its reset value, the fused state for the life cycle, set for the
time-step seal; a split word of the field die puts the field die into its safe state (R315).
(DEDUCED: notes/assumptions 109.) -/
def State.splitValue (s : State) (w : Nat) : State :=
  if w = 0 then s.put F.LC_STATE_STATE s.fuses.life
  else if w = 1 then s.toReset R.DET_ARITH_PROFILE
  else if w = 2 then s.putBit F.TK_STAT_SEALED true
  else if w = 3 then s.toReset R.TWIN_CTRL
  else if w = 4 then s.toReset R.SCHED_FENCE_MAP_LO
  else if w = 5 then s.toReset R.SCHED_FENCE_MAP_HI
  else if w = 6 then s.toReset R.BOB_PROV_TABLE
  else if w < 15 then s.toReset R.BOB_CLASS_MAP (w - 7)
  else if w < 31 then s.toReset R.BOB_LANE_CFG (w - 15)
  else if w = 31 then s.toReset R.FIELD_EJECT_LEAD
  else if w < 45 then s.toReset R.SYS_OWN (w - 32)
  else
    let k := cfgIndex (critField w).1 (critField w).2
    if s.die.powered then State.enterSafe { s with die := { s.die with splits := s.die.splits ++ [k] } } 2 else s

/-- A critical word splits (R315): it is recorded, every job is cancelled. (DEDUCED: notes/assumptions 110.) -/
def State.splitOne (s : State) (w : Nat) : State :=
  if s.splitWord w then s
  else
    let t := if s.isSplit then s else (s.putBit F.MEM_TMR_STAT_SPLIT true).put F.MEM_TMR_STAT_INDEX w
    let u := State.splitValue { t with splits := t.splits ++ [w] } w
    timesFrom (fun v p => if v.get F.SCHED_JOB_STATE p = 0 then v else v.jobKill p .cancelled .cancelled) 8 0 u

/-- A critical word is read (R314, R315): its copies are compared; the one that disagrees with the other two is rewritten and
counted; a word of which no two agree is split. -/
def State.readCritical (s : State) (w : Nat) : State :=
  match tget? s.copies w with
  | none => s
  | some x =>
    let t := { s with copies := tdel s.copies w }
    if x.vote.isSome then t.bump F.MEM_TMR_CNT_REWRITE else t.splitOne w

/-- TMR_WALK (R314, R315): the walker reads every critical word; a field die without power has none. The upsets `before` strike
before it, the upsets `after` behind it, and stand until their words are read. (DESIGN CHOICE: notes/assumptions 108.) -/
def execTmrWalk (before after : List Upset) (s : State) : Host.Outcome State Fault Refusal :=
  onCore s fun s =>
    let here := fun (l : List Upset) => l.filter fun u => decide (u.word.val < 45) || s.die.powered
    let t := timesFrom (fun (u : State) w => u.readCritical w) 48 0 (foldState State.strike s (here before))
    foldState State.strike t (here after)

/-! ### DET_CTRL -/

/-- The record of timing-dependent choices starts anew (R298). -/
def State.clearTdc (s : State) : State :=
  foldState (fun (t : State) (r : Reg) => t.setReg r 0) { s with tdcSeen := false }
    [R.DET_TDC, R.DET_TDC_CAUSE0, R.DET_TDC_CAUSE1, R.DET_TDC_FIRST_NS, R.DET_TDC_FIRST_S_LO, R.DET_TDC_FIRST_S_HI]

/-- DET_CTRL_CLEAR (R298). -/
def execDetCtrlClear (s : State) : Host.Outcome State Fault Refusal := onDevice s State.clearTdc

end Sys2Proof.Machine
end

