-- ==== Sys2Proof/Machine/Boot.lean ====
section
/-! DEFINITION. Resets, the first second, firmware, identity, attestation and the life cycle (chapter 18; R443, R446,
R452, R466). -/

namespace Sys2Proof.Machine

/-! ### Resets (R409, R443, R466) -/

/-- SEC_RESET_CAUSE after one more reset: CAUSE moves to PREV, the new cause is recorded, COUNT adds 1 (R409). -/
def State.causeAfter (s : State) (cause : Nat) : Nat :=
  cause + 2 ^ 4 * s.get F.SEC_RESET_CAUSE_CAUSE + 2 ^ 8 * ((s.get F.SEC_RESET_CAUSE_COUNT + 1) % 256)

/-- What leaves an Ethernet port stays sent. -/
def EthPort.history (x : EthPort) : EthPort := { sent := x.sent, ptpSent := x.ptpSent }

/-- The device in reset: every register but SEC_RESET_CAUSE at its reset value, the memories poisoned, every unit as after
reset. The field die, the fuses and the straps stand; SESSION increases (R387).
(DESIGN CHOICE: notes/assumptions 34; DEDUCED: notes/assumptions 113, 165.) -/
def State.enterReset (s : State) (cause : Nat) (holds : Holds) : State :=
  { regs := tset [] (R.SEC_RESET_CAUSE.addr 0 0) (w32 cause)
    die := s.die
    fuses := s.fuses
    straps := s.straps
    copies := s.copies.filter fun e => decide (45 ≤ e.1)
    host := { sent := s.host.sent }
    link := { session := (s.link.session + 1) % 16, sent := s.link.sent }
    time := { ports := s.time.ports.map fun (e : Nat × EthPort) => (e.1, e.2.history) }
    boot := { held := true, holds := holds, nonce := s.boot.nonce, lcNext := s.boot.lcNext,
              thermN := !holds.thermal }
    lastBob := State.reset.lastBob
    freeUse := s.freeUse
    pending := s.pending }

/-- A cause of reset arises: it resets a running device; a device already in reset is only held longer. -/
def State.hold (s : State) (cause : Nat) (f : Holds → Holds) : State :=
  if s.boot.held then { s with boot := { s.boot with holds := f s.boot.holds } }
  else s.enterReset (s.causeAfter cause) (f {})

/-- A reset that the device causes itself: it is held for 1 ms (R466). -/
def State.selfReset (s : State) (cause : Nat) : State :=
  s.enterReset (s.causeAfter cause) { timed := true }

/-- RST_N_ASSERT (R443). -/
def execRstNAssert (s : State) : Host.Outcome State Fault Refusal := .next (s.hold 0 fun h => { h with rstN := true })

/-- REFCLK_STOP (R443). -/
def execRefclkStop (s : State) : Host.Outcome State Fault Refusal := .next (s.hold 0 fun h => { h with refclk := true })

/-- A reset is due once the DONE of the command that asks for it has left (R424, R466). -/
def State.resetAfter (s : State) (cause : Nat) (c : Cmd) : State :=
  let t := s.requestReset cause
  { t with host := { t.host with resetReply := if c.quiet then [] else statusPacket c.tag .done [] } }

/-- CMD_RESET (R466): DONE, and a reset that RESET_BEGIN then begins. (DESIGN CHOICE: notes/assumptions 33.) -/
def execCmdReset (src : Source) (s : State) : Host.Outcome State Fault Refusal :=
  runCmd s src 0x0102 fun s c => doneWith (s.resetAfter 1 c)

/-- Whether the DONE before a reset still waits for its mailbox or its transmit port (R424, R466). -/
def State.doneWaits (s : State) : Bool :=
  !s.host.resetReply.isEmpty && (s.host.d2hQueue.contains s.host.resetReply || s.host.statusQ.contains s.host.resetReply)

/-- RESET_BEGIN (R409, R424, R466): a reset that is due begins, but not while the DONE before it waits. -/
def execResetBegin (s : State) : Host.Outcome State Fault Refusal :=
  onDevice s fun s =>
    match s.boot.resetDue with
    | some cause => if s.doneWaits then s else s.selfReset cause
    | none => s

/-- PRIVATE_MEMORY_UE (R328, R409). -/
def execPrivateMemoryUe (s : State) : Host.Outcome State Fault Refusal := onDevice s fun s => s.selfReset 3

/-- MGMT_WATCHDOG (R409): firmware has not served it for 100 ms. -/
def execMgmtWatchdog (s : State) : Host.Outcome State Fault Refusal :=
  onDevice s fun s => if s.on F.HOST_STATUS_FW_RUN then s.selfReset 6 else s

/-- THERMAL_TRIP (R452): THERM_N goes low and the device enters reset; the cause is recorded at its release. -/
def execThermalTrip (s : State) : Host.Outcome State Fault Refusal :=
  .next (
    if s.boot.held then
      { s with boot := { s.boot with thermN := false, holds := { s.boot.holds with thermal := true } } }
    else s.enterReset (s.reg R.SEC_RESET_CAUSE) { thermal := true })

/-! ### Reset release (R302, R410, R446) -/

/-- The installed capacity in GiB that the straps give (R302). -/
def strapCapacity (cfg : Nat) : Nat :=
  let ch := bitsOf cfg 0 2
  let big := bitAt cfg 2
  if bitsOf cfg 3 2 = 3 ∨ ch = 3 ∨ (ch = 0 ∧ big = true) then 0
  else if ch = 0 then 128
  else if ch = 1 then (if big then 128 else 64)
  else if big then 64 else 32

/-- SCRUB_RATE after reset: one DDR5 pass takes at most 6 hours (R319). -/
def scrubDefault (gib : Nat) : Nat := ceilDiv (ceilDiv (gib * 2 ^ 30) 21600) 1000000

/-- Whether JTAG debug is open in a life-cycle state (R422). -/
def debugOpen (life : Nat) : Bool := life == 0x00 || life == 0x01 || life == 0x0F

/-- Show the fused values (R422, R424): the life-cycle state, the grade, the sessions used, the Ethernet addresses. -/
def State.showFuses (s : State) : State :=
  let l := s.fuses.life
  let a := (((s.put F.LC_STATE_STATE l).stored 0).putBit F.LC_STATE_DEBUG (debugOpen l)).put F.HOST_STATUS_LC l
  let b := (a.put F.SYS_ID_GRADE s.fuses.grade).put F.SEC_ATTEST_USED s.fuses.sessions
  timesFrom (fun t p =>
    let m := tgetD s.fuses.mac p 0
    (t.setReg R.ETH_MAC_LO m p).setReg R.ETH_MAC_HI (m / 2 ^ 32 % 2 ^ 16) p) 2 0 b

/-- A fresh draw of entropy: its index among the draws. -/
def State.entropyDraw (s : State) : State × Nat := (s.drawn, s.freeUse + 1)

/-- Renew LC_NONCE. -/
def State.newNonce (s : State) : State :=
  let e := s.entropyDraw
  { e.1 with boot := { e.1.boot with nonce := e.2 } }

/-- Reset release: the straps are sampled, the boot ROM starts, the field link and the Ranoz lanes begin to send.
(DEDUCED: notes/assumptions 136.) -/
def State.release (s : State) (straps : Straps) : State :=
  let lc := s.boot.lcNext
  let t : State := { s with
    straps := straps, boot := { nonce := s.boot.nonce }, field := { s.field with tally := s.die.tally } }
  let cap := strapCapacity straps.ddrCfg
  let a := (t.put F.MEM_DDR_CFG_CHANNELS (bitsOf straps.ddrCfg 0 2)).put F.MEM_DDR_CFG_DENSITY (bitsOf straps.ddrCfg 2 1)
  let b := (a.put F.MEM_DDR_CFG_RATE (bitsOf straps.ddrCfg 3 2)).put F.MEM_DDR_CFG_CAPACITY cap
  let c := (b.put F.SCRUB_RATE_MBPS (scrubDefault cap)).putBit F.SYS_VCORE_EXT straps.pwrExt
  let d := (c.putBit F.MEM_WIPE_STAT_LC lc).putBit F.MEM_WIPE_STAT_DDR_DONE (cap == 0)
  d.showFuses.newNonce

/-- RESET_RELEASE (R442, R443): no rail, RST_N or REFCLK condition holds any more. -/
def execResetRelease (straps : Straps) (s : State) : Host.Outcome State Fault Refusal :=
  .next (
    if !s.boot.held then s
    else
      let h := { s.boot.holds with rail := false, rstN := false, refclk := false }
      let t : State := { s with boot := { s.boot with holds := h } }
      if h.thermal || h.timed then t else t.release straps)

/-- Whether nothing holds the device. -/
def Holds.clear (h : Holds) : Bool := !h.rail && !h.rstN && !h.refclk && !h.thermal && !h.timed

/-- RESET_HOLD_END (R466): 1 ms has passed in a reset of the device's own. -/
def execResetHoldEnd (straps : Straps) (s : State) : Host.Outcome State Fault Refusal :=
  .next (
    if s.boot.held && s.boot.holds.timed then
      let h := { s.boot.holds with timed := false }
      let t : State := { s with boot := { s.boot with holds := h } }
      if h.clear then t.release straps else t
    else s)

/-- THERMAL_RELEASE (R452): every sensor reads below 100 °C; THERM_N is released and the reset has cause 0x5. -/
def execThermalRelease (straps : Straps) (s : State) : Host.Outcome State Fault Refusal :=
  .next (
    if s.boot.held && s.boot.holds.thermal then
      let h := { s.boot.holds with thermal := false }
      let t := State.setReg { s with boot := { s.boot with holds := h, thermN := true } } R.SEC_RESET_CAUSE (s.causeAfter 5)
      if h.clear then t.release straps else t
    else s)

/-! ### The first second (R410) -/

/-- I3C_TARGET_READY (R410): 2 ms after reset release. -/
def execI3cTargetReady (s : State) : Host.Outcome State Fault Refusal :=
  onDevice s fun s => { s with i3c := { s.i3c with ready := true } }

/-- HOST_CSI2_READY (R410): 3 ms after reset release, receive takes packets and transmit port 0 sends. -/
def execHostCsi2Ready (s : State) : Host.Outcome State Fault Refusal :=
  onDevice s fun s =>
    if s.host.csiReady then s
    else
      (State.showTxPorts { s with host := { s.host with csiReady := true } }).flushStatus

/-- ETH_LANES_START (R410): 1 ms after reset release. -/
def execEthLanesStart (s : State) : Host.Outcome State Fault Refusal :=
  onDevice s fun s => { s with boot := { s.boot with ethLanes := true } }

/-! ### Keys (R418, R419, R422) -/

/-- The firmware root hash of the present life-cycle state; none in SCRAPPED. -/
def State.fwRoot (s : State) : Option (List Byte) :=
  let l := s.life
  if l = 0x00 then some Config.romTestRoot
  else if l = 0x1F then none
  else s.fuses.vendorRoot.read

/-- Whether the owner's fuse fields can be read (R422). -/
def State.ownerKnown (s : State) : Bool := s.life == 0x03 || s.life == 0x07

/-- An owner's fuse field as the security controller reads it: 0 where unburnt or gated. -/
def State.ownerField (s : State) (f : FuseField) : List Byte :=
  if s.ownerKnown then fuseValue f else List.replicate 32 0

/-- The identity seed (R419). -/
def State.idSeed (s : State) : List Byte :=
  Config.sha256 (fuseValue s.fuses.uds ++ s.ownerField s.fuses.ownerSeed ++
    [0x53#8, 0x51#8, 0x5A#8, 0x2D#8, 0x49#8, 0x44#8])

/-- The seed of a session (R420). (DEDUCED: notes/assumptions 168.) -/
def State.sessionSeed (s : State) (i : Nat) : List Byte :=
  Config.sha256 (s.idSeed ++ [0x53#8, 0x45#8, 0x53#8, 0x53#8] ++ natBytes 4 i)

/-- Bytes cut or padded with 0 to a length. -/
def fit (n : Nat) (bs : List Byte) : List Byte := (bs ++ List.replicate n 0).take n

/-- Show bytes in consecutive registers, byte 4n in [7:0] of register n. -/
def State.showBytes (s : State) (r : Reg) (n : Nat) (bs : List Byte) : State :=
  timesFrom (fun t i => t.setReg r (bytesNat ((bs.drop (4 * i)).take 4)) i) n 0 s

/-- Big-endian 32-bit words of RFC 8554. -/
def beNat (bs : List Byte) : Nat := bytesNat bs.reverse

/-- A slice of bytes. -/
def slice (bs : List Byte) (at' n : Nat) : List Byte := (bs.drop at').take n

/-- The type codes of a public-key block and a signature are LMS_SHA256_M32_H10 and LMOTS_SHA256_N32_W4 (R412), by the
codes and encodings of RFC 8554: the leaf, the one-time signature with its type, the LMS type, the path.
(PRESUMED: notes/assumptions 167.) -/
def lmsTypesOk (key sig : List Byte) : Bool :=
  beNat (slice key 0 4) == 6 && beNat (slice key 4 4) == 3 && beNat (slice sig 4 4) == 3 &&
    beNat (slice sig (4 + 4 + 32 + 67 * 32) 4) == 6

/-- The big-endian bytes of a 32-bit word (RFC 8554). -/
def beBytes (n : Nat) : List Byte := (natBytes 4 n).reverse

/-- The type code of an LMS key by its tree height. (PRESUMED: notes/assumptions 167.) -/
def lmsType (height : Nat) : Nat := if height = 10 then 6 else if height = 15 then 7 else Config.lmsTypeH12

/-- I of a key: the first 16 bytes of SHA-256(seed ‖ "I") (R419). (DEDUCED: notes/assumptions 168.) -/
def lmsIdent (seed : List Byte) : List Byte := (Config.sha256 (seed ++ [0x49#8])).take 16

/-- A public-key block as RFC 8554 encodes it: the LMS type, the one-time type LMOTS_SHA256_N32_W4, I, the root (R412, R419).
(PRESUMED: notes/assumptions 167.) -/
def keyBlock (seed : List Byte) (height : Nat) : List Byte :=
  beBytes (lmsType height) ++ beBytes 3 ++ fit 16 (lmsIdent seed) ++ fit 32 (Config.lmsRoot seed (lmsIdent seed) height)

/-- A signature as RFC 8554 encodes it: the leaf, the one-time signature with its type, the LMS type, the path (R421).
(PRESUMED: notes/assumptions 167.) -/
def lmsSign (seed : List Byte) (height leaf : Nat) (message : List Byte) : List Byte :=
  let i := lmsIdent seed
  beBytes leaf ++ beBytes 3 ++ fit (32 + 67 * 32) (Config.lmsChains seed i leaf message) ++ beBytes (lmsType height) ++
    fit (32 * height) (Config.lmsPath seed i height leaf)

/-! ### The firmware image (R412 to R415) -/

/-- The checks of R414 on an image of the given length. -/
def State.fwOk (s : State) (bs : List Byte) : Bool :=
  let w := fun i => bytesNat (slice bs (4 * i) 4)
  let key := slice bs 64 56
  let sig := bs.drop (bs.length - 2508)
  let root := match s.fwRoot with
    | some h => Config.sha256 key == h
    | none => false
  w 0 == 0x57465153 && w 1 == 0x64160001 && decide (bitsOf (w 3) 0 8 ≤ s.get F.SYS_ID_STEPPING) &&
    128 + w 4 + 2508 == bs.length && root && lmsTypesOk key sig &&
    Config.lmsVerify key sig (bs.take (bs.length - 2508))

/-- A load ends: no image is awaited. -/
def State.endLoad (s : State) : State :=
  (State.putBit { s with boot := { s.boot with load := none } } F.SEC_BOOT_LOADING false).putBit F.SEC_BOOT_VIA_MBX false

/-- The command of the load that awaits its image: no later CMD_FW_LOAD can have begun. -/
def State.loadCmd (s : State) : Option (Source × Cmd) := s.host.running.reverse.find? fun e => e.2.opcode == 0x0901

/-- The image of a load is complete: it is checked (R414). A second image that passes before the firmware runs does not take the
place of the first. (DESIGN CHOICE: notes/assumptions 229.) -/
def State.fwComplete (s : State) (e : Source × Cmd) (bs : List Byte) : State :=
  let t := s.endLoad
  if !t.fwOk bs then (t.bump F.SEC_BOOT_FAIL).finish e .authFail
  else if t.boot.image.isSome then t
  else State.putBit { t with boot := { t.boot with image := some bs } } F.SEC_BOOT_VERIFIED true

/-- Whether a load by chunks has every byte. -/
def FwLoad.full (l : FwLoad) : Bool := l.got.length == l.len

/-- How a load stands: its image complete by bulk or by chunks, or its bulk ended early. -/
def State.fwProgress (s : State) : State :=
  match s.boot.load, s.loadCmd with
  | some l, some e =>
    match e.2.bulkEnd with
    | .complete => s.fwComplete e e.2.bulk
    | .truncated => s.endLoad.finish e .truncated
    | .timedOut => s.endLoad.finish e .timeout
    | .awaiting => s
    | .none => if l.full then s.fwComplete e (l.got.map fun (x : Nat × Byte) => x.2) else s
  | _, _ => s

/-- Whether an image length is one that R413 allows. -/
def fwLengthOk (n : Nat) : Bool := n % 4 == 0 && decide (2640 ≤ n) && decide (n ≤ 8391244)

/-- CMD_FW_LOAD (R413, R415). (DEDUCED: notes/assumptions 166.) -/
def execCmdFwLoad (src : Source) (s : State) : Host.Outcome State Fault Refusal :=
  onDevice s fun s => State.fwProgress (s.startCmd src 0x0901 fun s c =>
    let n := c.p 1
    if s.on F.HOST_STATUS_FW_RUN then refuse s .badState
    else if !fwLengthOk n then refuse s .badParam
    else if s.boot.load.isSome || s.life == 0x1F then refuse s .badState
    else if isCsi src && c.bulkLen != n then refuse s .badParam
    else
      let t : State := { s with boot := { s.boot with load := some { src := src, len := n } } }
      ((t.putBit F.SEC_BOOT_LOADING true).putBit F.SEC_BOOT_VIA_MBX (!isCsi src), .begun))

/-- CMD_FW_CHUNK (R413). -/
def execCmdFwChunk (src : Source) (s : State) : Host.Outcome State Fault Refusal :=
  onDevice s fun s => State.fwProgress (s.startCmd src 0x0902 fun s c =>
    match s.boot.load with
    | none => refuse s .badState
    | some l =>
      let a := c.p 1
      let bs := wordsBytes (c.params.drop 1)
      if l.src ≠ .h2d ∨ s.on F.HOST_STATUS_FW_RUN = true then refuse s .badState
      else if a % 4 ≠ 0 ∨ l.len < a + bs.length then refuse s .badParam
      else doneWith { s with boot := { s.boot with load := some { l with got := takeAt l.got a bs } } })

/-- HOST_CFG.BULK_TMO expires while a load by chunks awaits its image (R413). -/
def State.firmwareTmo (s : State) : State :=
  match s.boot.load with
  | some l => match s.loadCmd with
    | some e => if l.src = .h2d then s.endLoad.finish e .timeout else s
    | none => s
  | none => s

/-- FIRMWARE_START (R415): a verified image starts once SRAM_DONE is set. -/
def execFirmwareStart (s : State) : Host.Outcome State Fault Refusal :=
  onDevice s fun s =>
    match s.boot.image with
    | some bs =>
      if s.boot.started || !s.on F.MEM_WIPE_STAT_SRAM_DONE then s
      else
        let t := State.setReg { s with boot := { s.boot with started := true } } R.SEC_FW_VERSION
          (bytesNat (slice bs 8 4))
        (t.showBytes R.SEC_FW_HASH 8 (Config.sha256 bs)).finishOp 0x0901 .done
    | none => s

/-- A load that still waits when firmware runs completes with BAD_STATE. (DESIGN CHOICE: notes/assumptions 229.) -/
def State.endLoads (s : State) : State :=
  timesFrom (fun t _ => t.finishOp 0x0901 .badState) s.host.running.length 0 s.endLoad

/-- FW_RUN (R410, R411, R415, R449): the firmware's own start-up is complete; the settings go to the field die. -/
def execFwRun (s : State) : Host.Outcome State Fault Refusal :=
  onDevice s fun s =>
    if s.boot.started && !s.on F.HOST_STATUS_FW_RUN then
      let t := (s.endLoads.putBit F.HOST_STATUS_FW_RUN true).putBit F.HOST_STATUS_BOOT_ROM false
      let u := (State.showVcore { t with power := { t.power with target := 750 } }).sendAll
      (u.showTxPorts.flushTx).becomeReady
    else s

/-- IDENTITY_DERIVED (R416, R419): the identity public key is in SEC_ID_PUB. -/
def execIdentityDerived (s : State) : Host.Outcome State Fault Refusal :=
  onDevice s fun s =>
    if s.on F.HOST_STATUS_FW_RUN && s.life != 0x00 && !s.boot.idDone then
      (State.showBytes { s with boot := { s.boot with idDone := true } } R.SEC_ID_PUB 14
        (keyBlock s.idSeed 12)).becomeReady
    else s

/-- LOOM_STARTUP_TEST_DONE (R416, R426): the test of every enabled loom has completed; one that fails is fenced. -/
def execLoomStartupTestDone (failed : List (Fin 64)) (s : State) : Host.Outcome State Fault Refusal :=
  onDevice s fun s =>
    if s.on F.HOST_STATUS_FW_RUN && s.on F.MEM_WIPE_STAT_DDR_DONE && !s.boot.loomTested then
      let t := s.fenceAll (((List.range 64).filter fun n => failed.any (·.val == n)).map fun n => (n, 3))
      State.becomeReady { t with boot := { t.boot with loomTested := true } }
    else s

/-! ### Attestation (R420, R421) -/

/-- CMD_ATTEST_OPEN (R420, R422): the next session bit is burnt before any other step. -/
def execCmdAttestOpen (src : Source) (s : State) : Host.Outcome State Fault Refusal :=
  runCmd s src 0x0903 fun s _ =>
    if s.life == 0x00 || s.life == 0x1F || s.boot.attestOpen then refuse s .badState
    else if 4096 ≤ s.fuses.sessions then refuse s .overflow
    else
      let t : State := { s with
        fuses := { s.fuses with sessions := s.fuses.sessions + 1 }
        boot := { s.boot with attestOpen := true } }
      (t.put F.SEC_ATTEST_USED t.fuses.sessions, .later)

/-- ATTEST_OPEN_DONE (R420). -/
def execAttestOpenDone (s : State) : Host.Outcome State Fault Refusal :=
  onDevice s fun s =>
    match s.runningCmd 0x0903 with
    | some e =>
      let i := s.fuses.sessions - 1
      ((s.putBit F.SEC_ATTEST_OPEN true).put F.SEC_ATTEST_SESSION i).finish e .done [w32 i]
    | none => s

/-- The granules of a buffer that a command of the host names: the first refusal (R55, R317), if any. -/
def State.bufferRefusal (s : State) (a n : Nat) : Option Status :=
  (granules a n).findSome? fun g => if s.region g = .block then some .badParam else s.memRefusal g

/-- CMD_ATTEST (R421). (DEDUCED: notes/assumptions 169.) -/
def execCmdAttest (src : Source) (s : State) : Host.Outcome State Fault Refusal :=
  runCmd s src 0x0904 fun s c =>
    let a := c.p 9 + 2 ^ 32 * bitsOf (c.p 10) 0 8
    let ahead := (s.host.running.filter fun e => e.2.opcode == 0x0904).length
    if !s.on F.SEC_ATTEST_OPEN then refuse s .badState
    else if 32768 ≤ s.get F.SEC_ATTEST_CNT_COUNT + ahead then refuse s .overflow
    else if a % 64 ≠ 0 then refuse s .badParam
    else
      match s.bufferRefusal a 5568 with
      | some st => refuse s st
      | none => (s, .begun)

/-- The arithmetic signature (R290): stepping and profile. -/
def State.arithSignature (s : State) : Nat := 2 ^ 8 * s.get F.SYS_ID_STEPPING + s.profile

/-- The evidence before its signatures: bytes 0 to 319 (R421). -/
def State.evidenceHead (s : State) (nonce : List Word) (k : Nat) : List Byte :=
  let i := s.get F.SEC_ATTEST_SESSION
  let ws := [w32 0x56455153, w32 (1 + 2 ^ 8 * s.life + 2 ^ 16 * s.arithSignature), w32 (s.reg R.SEC_FW_VERSION),
    w32 (i + 2 ^ 16 * k)] ++ timeWords s.time.now ++ [w32 (s.reg R.SYS_ID)] ++ nonce ++
    (List.range 8).map fun j => w32 (s.reg R.SEC_FW_HASH j)
  wordsBytes ws ++ fuseValue s.fuses.vendorRoot ++ s.ownerField s.fuses.ownerAuth ++ s.ownerField s.fuses.modelKey ++
    fit 64 (keyBlock s.idSeed 12) ++ fit 64 (keyBlock (s.sessionSeed i) 15)

/-- The whole evidence with the 8 bytes that complete its last granule. -/
def State.evidence (s : State) (nonce : List Word) (k : Nat) : List Byte :=
  let i := s.get F.SEC_ATTEST_SESSION
  let head := s.evidenceHead nonce k
  let id := head ++ lmsSign s.idSeed 12 i (slice head 256 64)
  fit 5568 (id ++ lmsSign (s.sessionSeed i) 15 k id)

/-- ATTEST_DONE (R421): the oldest attestation's evidence is written, with the next session leaf. -/
def execAttestDone (s : State) : Host.Outcome State Fault Refusal :=
  onDevice s fun s =>
    match s.runningCmd 0x0904 with
    | some e =>
      let a := e.2.p 9 + 2 ^ 32 * bitsOf (e.2.p 10) 0 8
      let k := s.get F.SEC_ATTEST_CNT_COUNT
      match s.bufferRefusal a 5568 with
      | some st => s.finish e st
      | none =>
        ((s.writeData a (goodData (s.evidence (e.2.params.take 8) k))).bump F.SEC_ATTEST_CNT_COUNT).finish e .done
          [w32 5560]
    | none => s

/-! ### The life cycle (R422 to R425) -/

/-- The codes of R422. -/
def lcCodes : List Nat := [0x00, 0x01, 0x03, 0x07, 0x0F, 0x1F]

/-- The transitions of R423. -/
def lcAllowed (a b : Nat) : Bool :=
  (a == 0x00 && b == 0x01) || (a == 0x01 && b == 0x03) || (a == 0x03 && b == 0x07) ||
    ((a == 0x03 || a == 0x07) && b == 0x0F) || (a != 0x1F && b == 0x1F)

/-- The key hashes that may sign a transition (R423). (DEDUCED: notes/assumptions 170.) -/
def State.lcSigners (s : State) (b : Nat) : List (List Byte) :=
  let owner := if s.ownerKnown then s.fuses.ownerAuth.read.toList else []
  if b = 0x01 then [Config.romTestRoot]
  else if b = 0x03 then s.fuses.vendorRoot.read.toList
  else if b = 0x1F then s.fwRoot.toList ++ owner
  else owner

/-- CMD_LC_TRANSITION, steps 1 to 3 (R424). -/
def execCmdLcTransition (src : Source) (s : State) : Host.Outcome State Fault Refusal :=
  runCmd s src 0x0905 fun s c =>
    let b := c.p 1
    let busy := (List.range 8).any fun p => s.get F.SCHED_JOB_STATE p != 0
    if !lcCodes.contains b then refuse s .badParam
    else if !lcAllowed s.life b || busy || s.role != 0 || (s.on F.LC_STATE_FUSE_FAULT && b != 0x1F) then refuse s .badState
    else ({ s with boot := { s.boot with transition := some (src, b, 256 * c.p 2) } }, .begun)

/-- LC_NONCE as bytes. -/
def State.nonceBytes (s : State) : List Byte := fit 32 (Config.entropy s.boot.nonce)

/-- Whether an authorisation record holds (R424). -/
def State.recordOk (s : State) (bs : List Byte) (b : Nat) : Bool :=
  let key := slice bs 128 56
  let sig := slice bs 192 2508
  bytesNat (slice bs 0 4) == 0x544C5153 && bytesNat (slice bs 4 4) == s.life + 2 ^ 8 * b + 2 ^ 16 * 0x6416 &&
    slice bs 8 32 == s.nonceBytes && (s.lcSigners b).contains (Config.sha256 key) && lmsTypesOk key sig &&
    Config.lmsVerify key sig (bs.take 192)

/-- Burning never reaches a fifth of these: no power was lost. -/
def noCut : BurnCut := { fields := 5, part := [] }

/-- Bits of a value that are burnt over those that are. -/
def orBytes (a b : List Byte) : List Byte := List.zipWith (· ||| ·) a b

/-- The n-th value field of a transition, as far as it is burnt: one already written keeps its value (R425). -/
def burnField (cut : BurnCut) (n : Nat) (f : FuseField) (v : List Byte) : FuseField :=
  if f.written then f
  else if n < cut.fields then { value := orBytes f.value v, flagA := true, flagB := true }
  else if n = cut.fields then { f with value := orBytes f.value (List.zipWith (· &&& ·) v (fit 32 cut.part)) }
  else f

/-- The n-th value field overwritten with ones, as far as it is burnt. -/
def eraseField (cut : BurnCut) (n : Nat) (f : FuseField) : FuseField :=
  let ones := List.replicate 32 0xFF#8
  if n < cut.fields then { value := ones, flagA := true, flagB := true }
  else if n = cut.fields then { f with value := orBytes f.value (List.zipWith (· &&& ·) ones (fit 32 cut.part)) }
  else f

/-- The state bits after the n value fields of a transition to state b. -/
def burnLife (cut : BurnCut) (n b : Nat) (f : Fuses) : Fuses :=
  { f with lifeA := if n < cut.fields then Nat.lor f.lifeA b else f.lifeA
           lifeB := if n + 1 < cut.fields then Nat.lor f.lifeB b else f.lifeB }

/-- The fuses that a transition burns, values and their flags before the state bit, as far as power lasts (R418, R424, R425).
(DESIGN CHOICE: notes/assumptions 206.) -/
def State.burnFuses (s : State) (b : Nat) (bs : List Byte) (cut : BurnCut := noCut) : State :=
  let f := s.fuses
  let a := slice bs 40 32
  if b = 0x01 then
    let e := s.entropyDraw
    { e.1 with fuses := burnLife cut 2 b { f with
        uds := burnField cut 0 f.uds (fit 32 (Config.entropy e.2)), vendorRoot := burnField cut 1 f.vendorRoot a } }
  else if b = 0x03 then
    let e := s.entropyDraw
    { e.1 with fuses := burnLife cut 3 b { f with
        ownerSeed := burnField cut 0 f.ownerSeed (fit 32 (Config.entropy e.2)), ownerAuth := burnField cut 1 f.ownerAuth a
        modelKey := burnField cut 2 f.modelKey (slice bs 72 32) } }
  else if b = 0x1F then
    { s with fuses := burnLife cut 2 b { f with uds := eraseField cut 0 f.uds, ownerSeed := eraseField cut 1 f.ownerSeed } }
  else { s with fuses := burnLife cut 0 b f }

/-- Whether a value field that a transition burns is partly written (R425). -/
def Fuses.torn (f : Fuses) : Bool := [f.uds, f.vendorRoot, f.ownerSeed, f.ownerAuth, f.modelKey].any FuseField.torn

/-- A transition ends without its reset. -/
def State.lcFails (s : State) (e : Source × Cmd) (st : Status) : State :=
  State.finish { s with boot := { s.boot with transition := none } } e st

/-- LC_TRANSITION_DONE, steps 4 to 7 (R424, R425). (DESIGN CHOICE: notes/assumptions 171.) -/
def execLcTransitionDone (s : State) : Host.Outcome State Fault Refusal :=
  onDevice s fun s =>
    match s.boot.transition, s.runningCmd 0x0905 with
    | some (_, b, a), some e =>
      if s.boot.resetDue = some 2 then s
      else
        match s.bufferRefusal a 2700 with
        | some st => s.lcFails e st
        | none =>
          let r := s.readData a 2700
          if !dataGood r.2 then r.1.lcFails e .poisoned
          else
            let ok := r.1.recordOk (dataBytes r.2) b
            let t := r.1.newNonce
            if !ok then t.lcFails e .authFail
            else if t.fuses.torn && b != 0x1F then (t.putBit F.LC_STATE_FUSE_FAULT true).lcFails e .badState
            else
              let u := t.burnFuses b (dataBytes r.2)
              let v : State := { u with boot := { u.boot with resetDue := none, lcNext := true } }
              (v.resetAfter 2 e.2).finish e .done
    | _, _ => s

/-- Power is lost while a transition's record holds and its fuses are being burnt (R425). -/
def State.cutBurn (s : State) (cut : Option BurnCut) : State :=
  match cut, s.boot.transition with
  | some k, some (_, b, a) =>
    let r := s.readData a 2700
    if s.boot.held = false ∧ s.boot.resetDue ≠ some 2 ∧ s.bufferRefusal a 2700 = none ∧ dataGood r.2 = true ∧
        r.1.recordOk (dataBytes r.2) b = true ∧ (r.1.fuses.torn = false ∨ b = 0x1F) then
      r.1.newNonce.burnFuses b (dataBytes r.2) k
    else s
  | _, _ => s

/-- A supply is lost; how far that finds a transition's burning is a free value. (DESIGN CHOICE: notes/assumptions 206.) -/
def State.losePower (s : State) : State :=
  if s.boot.transition.isSome && !s.boot.held then
    (s.cutBurn ((Config.powerLoss s.freeUse).map fun e => { fields := e.1, part := e.2 })).drawn
  else s

/-- POWER_ON_RESET (R409, R425, R442, R443): VAUX_3V3 powers up, which clears SEC_RESET_CAUSE; the rails still hold the device. -/
def execPowerOnReset (s : State) : Host.Outcome State Fault Refusal :=
  .next (s.losePower.enterReset 0 { rail := true })

/-- RAIL_FAULT (R425, R443). -/
def execRailFault (s : State) : Host.Outcome State Fault Refusal :=
  .next (s.losePower.hold 0 fun h => { h with rail := true })

/-! ### CMD_NOP and CMD_GET_INFO -/

/-- CMD_NOP (R80). -/
def execCmdNop (src : Source) (s : State) : Host.Outcome State Fault Refusal := runCmd s src 0x0100 fun s _ => doneWith s

/-- CMD_GET_INFO (R80). -/
def execCmdGetInfo (src : Source) (s : State) : Host.Outcome State Fault Refusal :=
  runCmd s src 0x0101 fun s _ =>
    doneWith s [w32 (s.reg R.SYS_ID), w32 (s.reg R.SEC_FW_VERSION), w32 s.arithSignature, w32 (s.reg R.HOST_STATUS)]

end Sys2Proof.Machine
end

