-- ==== Sys2Proof/Machine/LineCode.lean ====
section
/-! DEFINITION. The Ranoz link on the wire (R385 to R387, R390, R392): the symbols of a frame, what a receiver reads in them, lane
markers, and fallback coding with its units, its scrambler and its inserted bits. -/

namespace Sys2Proof.Machine

/-! ### Control symbols (R385) -/

/-- The byte value of a control symbol K x.y (R386). (DEDUCED: notes/assumptions 202.) -/
def kCode (x y : Nat) : Byte := BitVec.ofNat 8 (32 * y + x)

/-- The control symbols of R385: idle, marker, start, end, poison, credit return, fallback request. -/
def controls : List Byte := [kCode 28 5, kCode 28 1, kCode 27 7, kCode 29 7, kCode 30 7, kCode 28 3, kCode 23 7]

/-- The idle symbol, which pads a frame's last column. -/
def idleSym : Sym := .control (kCode 28 5)

/-- The poison mark. -/
def poisonSym : Sym := .control (kCode 30 7)

/-! ### A frame as it is sent (R390, R392) -/

/-- The header of a frame that carries an acknowledgement. -/
def RzFrame.header (f : RzFrame) (ack : Nat) : List Byte :=
  wordsBytes [w32 (f.kind % 16 + 2 ^ 4 * (f.vl % 4) + 2 ^ 8 * (f.seq % 4096) + 2 ^ 20 * (ack % 4096)),
    w32 (ceilDiv f.payload.length 2 + 2 ^ 10 * bit f.nak + 2 ^ 16 * (f.poison.length % 256)), 0, 0]

/-- The payload in bytes: whole 64-bit words, a poisoned one as zeros. -/
def RzFrame.body (f : RzFrame) : List Byte :=
  (wordsBytes f.payload ++ List.replicate (4 * (f.payload.length % 2)) 0).mapIdx fun i b =>
    if f.poison.contains (i / 8) then 0 else b

/-- The symbols of a frame in byte order: header, payload with its poison marks, CRC, four zeros. -/
def RzFrame.symbols (f : RzFrame) (ack : Nat) : List Sym :=
  let front := f.header ack ++ f.body
  (front ++ wordBytes (crc32c front) ++ [0, 0, 0, 0]).mapIdx fun i b =>
    if 16 ≤ i ∧ (i - 16) % 8 = 0 ∧ f.poison.contains ((i - 16) / 8) = true then poisonSym else .data b

/-- The columns of a frame over a number of lanes, lane 0 first in each. -/
def RzFrame.columns (f : RzFrame) (ack lanes : Nat) : List Sym :=
  let b := f.symbols ack
  List.replicate lanes (.control (kCode 27 7)) ++ (b ++ List.replicate (roundUp b.length lanes - b.length) idleSym) ++
    List.replicate lanes (.control (kCode 29 7))

/-! ### A frame as it is received -/

/-- A received frame (R390 to R392): its header fields, whether its CRC holds and its poison marks number POISON_CNT, its payload
words and the indices of the poisoned 64-bit words. -/
structure RxFrame where
  kind    : Nat
  vl      : Nat
  seq     : Nat
  ack     : Nat
  nak     : Bool := false
  crcOk   : Bool := true
  payload : List Word := []
  poison  : List Nat := []
  deriving DecidableEq, Repr

/-- The symbols between the start and the end of a frame, without the idles that pad the last column. -/
def unpadded (l : List (Option Sym)) : List (Option Sym) := (l.reverse.dropWhile fun o => o == some idleSym).reverse

/-- The byte that a symbol stands for; a poison mark is one of the eight zeros of its word. -/
def symByte (o : Option Sym) : Byte := match o with | some (.data b) => b | _ => 0

/-- LEN of a frame, in 64-bit words. -/
def frameLen (bs : List Byte) : Nat := bitsOf (bytesWord (bs.drop 4)).toNat 0 10

/-- Whether a symbol is an error (R385, R392): a code violation, a control symbol that R385 does not list, or a poison mark outside
a payload word. -/
def codeError (len i : Nat) (o : Option Sym) : Bool :=
  match o with
  | none => true
  | some (.data _) => false
  | some (.control c) => !controls.contains c || (c == kCode 30 7 && (decide (i < 16) || decide (16 + 8 * len ≤ i)))

/-- The positions of the errors in a frame. -/
def codeErrors (l : List (Option Sym)) : List Nat :=
  let b := unpadded l
  ((b.mapIdx fun i o => (i, o)).filter fun e => codeError (frameLen (b.map symByte)) e.1 e.2).map (·.1)

/-- Whether a symbol is a data byte or a poison mark, as inside a frame. -/
def plainSym (o : Option Sym) : Bool := match o with | some (.data _) => true | o => o == some poisonSym

/-- What a receiver reads between the start and the end of a frame. A frame with an error in it, with a control symbol other than
poison marks, or of another length than LEN says fails its CRC. (DESIGN CHOICE: notes/assumptions 203.) -/
def readFrame (l : List (Option Sym)) : RxFrame :=
  let b := unpadded l
  let bs := b.map symByte
  let len := frameLen bs
  let w0 := (bytesWord bs).toNat
  let w1 := (bytesWord (bs.drop 4)).toNat
  let n := 16 + 8 * len
  let marks := (List.range b.length).filter fun i => b.getD i none == some poisonSym
  let plain := (List.range b.length).all fun i => plainSym (b.getD i none)
  { kind := bitsOf w0 0 4, vl := bitsOf w0 4 2, seq := bitsOf w0 8 12, ack := bitsOf w0 20 12, nak := bitAt w1 10
    crcOk := plain && (codeErrors l).isEmpty && bs.length == n + 8 && bytesWord (bs.drop n) == crc32c (bs.take n) &&
      marks.length % 256 == bitsOf w1 16 8
    payload := bytesWords ((bs.take n).drop 16)
    poison := (List.range len).filter fun k => marks.any fun i => i ≥ 16 && (i - 16) / 8 == k }

/-! ### Fallback coding (R386) -/

/-- The unit of a symbol: its byte, least significant bit first, then 1 for a control symbol. -/
def symUnit : Sym → List Bool
  | .data b => (List.range 8).map b.getLsbD ++ [false]
  | .control b => (List.range 8).map b.getLsbD ++ [true]

/-- The byte of eight bits, least significant first. -/
def byteOf (l : List Bool) : Byte := BitVec.ofNat 8 (l.foldr (fun b n => bit b + 2 * n) 0)

/-- The symbols of a string of units; an incomplete unit is left out. -/
def unitSyms : List Bool → List Sym
  | a :: b :: c :: d :: e :: f :: g :: h :: k :: t =>
    (if k then Sym.control (byteOf [a, b, c, d, e, f, g, h]) else Sym.data (byteOf [a, b, c, d, e, f, g, h])) :: unitSyms t
  | _ => []

/-- The scrambler's feedback x^58 + x^39 + 1: `h` holds the scrambled bits sent before, the last in bit 0. -/
def feedback (h : BitVec 58) : Bool := xor (h.getLsbD 57) (h.getLsbD 38)

/-- The scrambler's past after a further bit. -/
def shiftIn (h : BitVec 58) (b : Bool) : BitVec 58 := (h <<< 1) ||| BitVec.ofNat 58 (bit b)

/-- Scramble a lane's bits. -/
def scramble : BitVec 58 → List Bool → List Bool
  | _, [] => []
  | h, b :: t => let c := xor b (feedback h); c :: scramble (shiftIn h c) t

/-- Descramble a lane's bits. -/
def descramble : BitVec 58 → List Bool → List Bool
  | _, [] => []
  | h, c :: t => xor c (feedback h) :: descramble (shiftIn h c) t

/-- The length of the run that a bit ends on the line, `run` bits equal to `last` before it. -/
def runWith (last : Bool) (run : Nat) (b : Bool) : Nat := if b = last then run + 1 else 1

/-- The bits on the line: after every 31 identical ones, one that complements them. -/
def insertBits : Bool → Nat → List Bool → List Bool
  | _, _, [] => []
  | last, run, b :: t =>
    let n := runWith last run b
    if n = 31 then b :: (!b) :: insertBits (!b) 1 t else b :: insertBits b n t

/-- The bits that a receiver keeps: the one after every 31 identical ones is removed; `skip` says that it comes next. -/
def removeBits : Bool → Nat → Bool → List Bool → List Bool
  | _, _, _, [] => []
  | _, _, true, b :: t => removeBits b 1 false t
  | last, run, false, b :: t =>
    let n := runWith last run b
    b :: removeBits b n (decide (n = 31)) t

/-- What a lane sends for symbols, from the past of its scrambler and its line. -/
def laneLine (h : BitVec 58) (last : Bool) (run : Nat) (l : List Sym) : List Bool :=
  insertBits last run (scramble h (l.flatMap symUnit))

/-- What a receive lane makes of its line. -/
def laneSyms (x : LaneBits) : List Sym :=
  unitSyms (descramble x.past (removeBits x.last x.run false x.bits))

/-- The symbols of lanes in byte order: column by column, lane 0 first. -/
def byColumns (ls : List (List Sym)) : List Sym :=
  (List.range ((ls.map List.length).foldl min (ls.headD []).length)).flatMap fun j => ls.filterMap fun l => l[j]?

/-- The symbols that a frame brings in the line coding in use; none in the other. -/
def frameSyms (w : FrameWire) (fallback : Bool) : Option (List (Option Sym)) :=
  match w, fallback with
  | .symbols l, false => some l
  | .lanes ls, true => some ((byColumns (ls.map laneSyms)).map some)
  | _, _ => none

/-! ### Lane markers (R387) and credit returns (R394) -/

/-- The three data bytes of a marker. -/
def markerBytes (lane lanes : Nat) (aligned fwRun : Bool) (session : Nat) : List Byte :=
  let a : Byte := BitVec.ofNat 8 (lane % 8 + 2 ^ 3 * (lanes % 4) + 2 ^ 5 * bit aligned + 2 ^ 6 * bit fwRun)
  let b : Byte := BitVec.ofNat 8 (session % 16)
  [a, b, ~~~(a ^^^ b)]

/-- Whether a marker is good: it stands in its place and its check byte holds. -/
def markerGood (m : LaneMarker) : Bool := m.placed && m.b3 == ~~~(m.b1 ^^^ m.b2)

/-- The lane number, LANES, RX_ALIGNED, FW_RUN and SESSION of a marker. -/
def markerNumber (m : LaneMarker) : Nat := bitsOf m.b1.toNat 0 3
def markerLanes (m : LaneMarker) : Nat := bitsOf m.b1.toNat 3 2
def markerAligned (m : LaneMarker) : Bool := bitAt m.b1.toNat 5
def markerFw (m : LaneMarker) : Bool := bitAt m.b1.toNat 6
def markerSession (m : LaneMarker) : Nat := bitsOf m.b2.toNat 0 4

/-- The three data bytes of a credit return. -/
def creditBytes (vl credits : Nat) : List Byte :=
  [BitVec.ofNat 8 (vl % 4), BitVec.ofNat 8 credits, BitVec.ofNat 8 (credits / 256)]

end Sys2Proof.Machine
end

