-- ==== Sys2Proof/Machine/Ranoz.lean ====
section
/-! DEFINITION. The Ranoz link (chapter 17, R384 to R394, R396, R397): bring-up, alignment, fallback, frames with
acknowledgement and resending, credits, the twin mailboxes and the lane tests. -/

namespace Sys2Proof.Machine

/-! ### Bring-up (R384, R387 to R389) -/

/-- The number of configured lanes, lanes 0 upward (R384). -/
def State.laneCount (s : State) : Nat := 2 ^ s.get F.LINK_CFG_LANES

/-- Whether a lane is out of service for a test (R397). -/
def State.laneTested (s : State) (l : Nat) : Bool := s.host.running.any fun e => e.2.opcode == 0x0804 && e.2.target == l

/-- Whether a receive lane is aligned. -/
def State.laneAligned (s : State) (l : Nat) : Bool := tgetD s.link.aligned l false

/-- Show the aligned lanes. -/
def State.showLanes (s : State) : State :=
  s.put F.LINK_STAT_ALIGNED ((List.range 8).map fun l => if s.laneAligned l then 2 ^ l else 0).sum

/-- The receivers start again: step 2 of R388. -/
def State.realign (s : State) : State :=
  State.showLanes { s with link := { s.link with
    markers := [], errors := [], aligned := [], rxAligned := [], missed := [], k23 := [], place := [], deskewed := false } }

/-- Bring-up starts again: step 1 of R388, in 8b/10b coding. -/
def State.bringUp (s : State) : State :=
  (s.realign.putBit F.LINK_STAT_FB_ACTIVE false).putBit F.LINK_STAT_FB_REFUSED false

/-- The link goes down (R389): counted, notified, back to step 1; the outstanding remote shuttles complete. -/
def State.linkFall (s : State) : State :=
  let t := ((s.putBit F.LINK_STAT_UP false).bump F.LINK_CNT_DOWN).raise F.HOST_IBI_CAUSE_LINK
  State.remotesDown (State.bringUp { t with link := { t.link with resends := 0, start := none, nakOwed := false } })

/-- MBX_D2T is free: the next message is placed. -/
def State.nextD2t (s : State) : State :=
  match s.link.d2tQueue with
  | [] => s
  | ws :: t => State.placeD2t { s with link := { s.link with d2tQueue := t } } ws

/-- A virtual lane's buffer at the partner holds 64 KiB: 1,024 credits (R394). -/
def fullCredits : Nat := 1024

/-- The partner is another one, or has been reset: frames not acknowledged and frames that wait are discarded, the twin
mailbox and the mirror start anew (R389). -/
def State.newSession (s : State) : State :=
  let t : State := { s with
    link := { s.link with queue := [], unacked := [], nextSeq := 0, expect := 0, inbox := [], ackOwed := false }
    twin := { s.twin with syncSent := false } }
  let u := (t.putBit F.MBX_D2T_GO_FULL false).putBit F.TWIN_STAT_SYNCED false
  timesFrom (fun v l => v.setCredits l fullCredits) 4 0 u

/-- Send every frame that is not acknowledged again (R393). -/
def State.resendFrames (s : State) : State :=
  let ack := (s.link.expect + 4095) % 4096
  State.bumpBy { s with link := { s.link with sent := s.link.sent ++ s.link.unacked.map fun f => (ack, f) } }
    F.LINK_CNT_RETRANS s.link.unacked.length

/-- The link comes up (R388, step 6): what the partner's SESSION says of the frames of before; frames start after the next
marker, that of the lane named. (DEDUCED: notes/assumptions 148.) -/
def State.linkRise (s : State) (lane : Nat) : State :=
  let t := (s.putBit F.LINK_STAT_UP true).raise F.HOST_IBI_CAUSE_LINK
  let same := t.link.lastUpSession.isSome && t.link.lastUpSession == t.link.partner
  let u : State := { t with link := { t.link with lastUpSession := t.link.partner, start := some (lane, same) } }
  if same then u else u.newSession.nextD2t

/-- Send a NULL frame: ACK and NAK only. -/
def State.sendNull (s : State) (nak : Bool) : State :=
  { s with link := { s.link with
      ackOwed := false
      sent := s.link.sent ++ [((s.link.expect + 4095) % 4096, { kind := 0, vl := 0, nak := nak })] } }

/-- Frames start: those not acknowledged again where the partner's SESSION is unchanged, a NAK owed, and those that wait. -/
def State.startFrames (s : State) : State :=
  match s.link.start with
  | none => s
  | some (_, same) =>
    let t : State := { s with link := { s.link with start := none, nakOwed := false } }
    let u := if same then t.resendFrames else t
    State.pump (if s.link.nakOwed then u.sendNull true else u)

/-- Whether every configured lane meets a test. -/
def State.everyLane (s : State) (p : Nat → Bool) : Bool := (List.range s.laneCount).all p

/-- Whether fallback coding is settled: not asked for, in use, or refused (R388, step 5).
(DEDUCED: notes/assumptions 147.) -/
def State.codingSettled (s : State) : Bool :=
  !s.on F.LINK_CFG_FALLBACK || s.on F.LINK_STAT_FB_ACTIVE || s.on F.LINK_STAT_FB_REFUSED

/-- Whether the link may come up. -/
def State.mayRise (s : State) : Bool :=
  s.link.deskewed && s.codingSettled && !s.on F.LINK_STAT_CFG_MISMATCH &&
    s.everyLane fun l => s.laneAligned l && tgetD s.link.rxAligned l false && !s.laneTested l

/-- Bring the link up or down as its lanes stand, after a marker of the lane named. -/
def State.judgeLink (s : State) (lane : Nat) : State :=
  if s.on F.LINK_STAT_UP then
    (if s.everyLane fun l => s.laneAligned l && tgetD s.link.rxAligned l false then s else s.linkFall)
  else if s.mayRise then s.linkRise lane else s

/-- Fallback is granted: K23.7 sent and received on every lane; the receiver returns to step 2. -/
def State.judgeFallback (s : State) : State :=
  if !s.codingSettled && s.link.deskewed && s.everyLane (fun l => tgetD s.link.k23 l false) then
    (s.putBit F.LINK_STAT_FB_ACTIVE true).realign
  else s

/-! ### What a lane sends (R385, R387, R388) -/

/-- RX_ALIGNED of this side: every configured receive lane is aligned and deskewed. -/
def State.rxAligned (s : State) : Bool := s.link.deskewed && s.everyLane s.laneAligned

/-- The marker that a lane sends in each marker period. -/
def State.laneMarker (s : State) (l : Nat) : List Sym :=
  .control (kCode 28 1) ::
    (markerBytes l (s.get F.LINK_CFG_LANES) s.rxAligned (s.on F.HOST_STATUS_FW_RUN) s.link.session).map .data

/-- The idle symbol that a lane sends: a side that asks for fallback sends K23.7 until that is granted or refused. -/
def State.idleSent (s : State) : Sym := if s.codingSettled then idleSym else .control (kCode 23 7)

/-- What a lane sends where no frame is: its marker, then idles; a lane outside LANES or under test sends neither. -/
def State.laneSends (s : State) (l : Nat) : List Sym :=
  if s.laneCount ≤ l || s.laneTested l then [] else s.laneMarker l ++ List.replicate 1020 s.idleSent

/-! ### What a lane receives -/

/-- The state of a lane after a marker: alignment after two good ones in a row, its loss after two bad ones or 16 code
errors. -/
def State.laneAfter (s : State) (l : Nat) (m : LaneMarker) : State :=
  let k := s.link
  let n := if markerGood m then tgetD k.markers l 0 + 1 else 0
  let bad := if markerGood m then 0 else tgetD k.missed l 0 + 1
  let lost := decide (2 ≤ bad) || decide (16 ≤ m.errors + tgetD k.errors l 0)
  let al := !lost && (tgetD k.aligned l false || decide (2 ≤ n))
  let t : State := { s with link := { k with
    markers := tset k.markers l (if lost then 0 else n)
    missed := tset k.missed l (if lost then 0 else bad)
    errors := tdel k.errors l
    aligned := tset k.aligned l al
    rxAligned := if markerGood m then tset k.rxAligned l (markerAligned m) else k.rxAligned
    k23 := tset k.k23 l m.k23
    place := if markerGood m then tset k.place l (markerNumber m) else k.place
    partner := if markerGood m then some (markerSession m) else k.partner } }
  t.showLanes

/-- Whether the lanes' places are all different (R388). -/
def State.placesDiffer (s : State) : Bool :=
  let ps := (List.range s.laneCount).map fun l => tgetD s.link.place l 0
  ps.all fun p => (ps.filter (· == p)).length == 1

/-- RANOZ_MARKER_RX (R385, R387 to R389): a marker period of one receive lane. (DEDUCED: notes/assumptions 151.) -/
def execRanozMarkerRx (lane : Fin 8) (marker : LaneMarker) (s : State) : Host.Outcome State Fault Refusal :=
  onCore s fun s =>
    let l := lane.val
    if s.laneCount ≤ l || s.laneTested l then s
    else
      let a := (s.bumpBy F.LINK_CNT_CODE_ERR marker.errors).laneAfter l marker
      let b := if markerGood marker then
          ((a.putBit F.LINK_STAT_CFG_MISMATCH (markerLanes marker != a.get F.LINK_CFG_LANES)).putBit F.LINK_STAT_PARTNER_FW
            (markerFw marker)).put F.LINK_STAT_SESSION (markerSession marker)
        else a
      let d := b.everyLane b.laneAligned && b.placesDiffer && marker.inSkew
      let c : State := { b with link := { b.link with deskewed := d } }
      let e := c.judgeFallback.judgeLink l
      if s.link.start.any (·.1 == l) then e.startFrames else e

/-- FALLBACK_TIMEOUT (R388): no K23.7 within 4 marker periods; the side stays in 8b/10b. -/
def execFallbackTimeout (s : State) : Host.Outcome State Fault Refusal :=
  onCore s fun s => if s.codingSettled then s else (s.putBit F.LINK_STAT_FB_REFUSED true).judgeLink 0

/-- RANOZ_LANE_LOSS (R389). -/
def execRanozLaneLoss (lane : Fin 8) (s : State) : Host.Outcome State Fault Refusal :=
  onCore s fun s =>
    let l := lane.val
    if s.laneCount ≤ l || !s.laneAligned l then s
    else
      let t := State.showLanes { s with link := { s.link with
        aligned := tset s.link.aligned l false, markers := tset s.link.markers l 0, deskewed := false } }
      if t.on F.LINK_STAT_UP then t.linkFall else t

/-- Write LINK_CFG (R384): ignored with a twin role or with the reserved rate; a change restarts bring-up. -/
def State.writeLinkCfg (s : State) (v : Nat) : State :=
  if s.role = 1 ∨ s.role = 2 ∨ bitsOf v 0 2 = 3 then s
  else
    let t := s.mergeReg R.LINK_CFG v
    if t.reg R.LINK_CFG = s.reg R.LINK_CFG then s
    else if t.on F.LINK_STAT_UP then t.linkFall else t.bringUp

/-- LINK_CFG_WRITE (R384). -/
def execLinkCfgWrite (value : Word) (s : State) : Host.Outcome State Fault Refusal :=
  onCore s fun s => s.writeLinkCfg value.toNat

/-! ### Frames (R390 to R394) -/

/-- A NAK, at once or when frames start. -/
def State.sendNak (s : State) : State :=
  if s.framesGo then s.sendNull true else { s with link := { s.link with nakOwed := true } }

/-- Resend without progress: at the eighth time the link goes down (R393). (DEDUCED: notes/assumptions 150.) -/
def State.resend (s : State) : State :=
  if s.link.unacked.isEmpty || !s.framesGo then s
  else if 7 ≤ s.link.resends then s.resendFrames.linkFall
  else
    let t := s.resendFrames
    { t with link := { t.link with resends := t.link.resends + 1 } }

/-- Take the partner's ACK: frames up to it are acknowledged. -/
def State.takeAck (s : State) (ack : Nat) : State :=
  match s.link.unacked.findIdx? (·.seq == ack) with
  | some i => { s with link := { s.link with unacked := s.link.unacked.drop (i + 1), resends := 0 } }
  | none => s

/-- The frame in the form in which it waits to be consumed. -/
def storedFrame (f : RxFrame) : RzFrame :=
  { kind := f.kind, vl := f.vl, seq := f.seq, payload := f.payload, poison := f.poison }

/-- A frame in order with a good CRC: it takes its sequence number. A reserved type is counted and discarded; before
firmware runs every frame is discarded; the discarded frame's credits go back. (DEDUCED: notes/assumptions 149.) -/
def State.takeFrame (s : State) (f : RxFrame) : State :=
  let x := storedFrame f
  let t : State := { s with link := { s.link with expect := (s.link.expect + 1) % 4096, ackOwed := true } }
  let u := t.bumpBy F.LINK_POISON_RX f.poison.length
  let back := { u with link := { u.link with returned := u.link.returned ++ [(x.vl, frameCredits x.len)] } }
  if 9 ≤ f.kind then back.bump F.LINK_CNT_CODE_ERR
  else if !u.on F.HOST_STATUS_FW_RUN then back
  else { u with link := { u.link with inbox := u.link.inbox ++ [x] } }

/-- A frame that is not taken is counted and answered with a NAK. -/
def State.badFrame (s : State) : State := (s.bump F.LINK_CNT_CRC_ERR).sendNak

/-- A frame with a good CRC: its ACK and NAK, then the frame itself; one with an unexpected SEQ is discarded whole.
(DEDUCED: notes/assumptions 204.) -/
def State.goodFrame (s : State) (f : RxFrame) : State :=
  if f.kind ≠ 0 ∧ f.seq ≠ s.link.expect then s.badFrame
  else
    let t := s.takeAck f.ack
    let u := if f.nak then t.resend else t
    if f.kind = 0 ∨ u.on F.LINK_STAT_UP = false then u else u.takeFrame f

/-- Code errors inside a frame are counted, each against its lane (R385, R389). -/
def State.frameErrors (s : State) (l : List Nat) : State :=
  let n := s.laneCount
  let t : State := { s with link := { s.link with
    errors := foldState (fun t i => tset t (i % n) (tgetD t (i % n) 0 + 1)) s.link.errors l } }
  t.bumpBy F.LINK_CNT_CODE_ERR l.length

/-- RANOZ_FRAME_RX (R385, R386, R390 to R393). -/
def execRanozFrameRx (frame : FrameWire) (s : State) : Host.Outcome State Fault Refusal :=
  onCore s fun s =>
    if !s.on F.LINK_STAT_UP then s
    else
      match frameSyms frame (s.on F.LINK_STAT_FB_ACTIVE) with
      | none => s
      | some l =>
        let t := s.frameErrors (codeErrors l)
        let f := readFrame l
        if f.crcOk then t.goodFrame f else t.badFrame

/-- RANOZ_ACK_TMO (R393): no progress of ACK for 4 µs. -/
def execRanozAckTmo (s : State) : Host.Outcome State Fault Refusal :=
  onCore s fun s => if s.on F.LINK_STAT_UP then s.resend else s

/-- RANOZ_NULL_TMO (R393): an ACK is owed and no frame was sent within 1 µs. -/
def execRanozNullTmo (s : State) : Host.Outcome State Fault Refusal :=
  onDevice s fun s => if s.framesGo && s.link.ackOwed then s.sendNull false else s

/-! ### The handover request waits for the mirror (R407) -/

/-- Send the handover request once no mirror traffic waits to start. -/
def State.askHandover (s : State) : State :=
  if s.twin.handover.isSome && !s.twin.asked && s.on F.LINK_STAT_UP && !s.link.queue.any (·.kind == 7) then
    State.linkSend { s with twin := { s.twin with asked := true } } 0x2 0 [w32 1]
  else s

/-- The credit returns that the device has sent, each K28.3 and its three data bytes (R394). -/
def State.creditsSent (s : State) : List (List Sym) :=
  s.link.returned.map fun (e : Nat × Nat) => .control (kCode 28 3) :: (creditBytes e.1 e.2).map .data

/-- CREDIT_RETURN_RX (R394): the three data bytes behind K28.3. -/
def execCreditReturnRx (lane : Byte) (credits : Byte × Byte) (s : State) : Host.Outcome State Fault Refusal :=
  onDevice s fun s =>
    if s.on F.LINK_STAT_UP then
      let vl := bitsOf lane.toNat 0 2
      (s.setCredits vl (min fullCredits (s.vlCredits vl + bytesNat [credits.1, credits.2]))).pump.askHandover
    else s

/-! ### The twin mailboxes (R64, R396) -/

/-- Write MBX_D2T_GO: the message goes to the partner; a write while FULL is set is ignored. -/
def State.writeD2tGo (s : State) (v : Nat) : State :=
  if s.on F.MBX_D2T_GO_FULL || !bitAt v 0 then s
  else s.placeD2t ((List.range 16).map fun i => w32 (s.reg R.MBX_D2T_DATA i))

/-- MBX_D2T_GO_WRITE (R64, R396): by the mailbox's sender, the management processor. (DEDUCED: notes/assumptions 153.) -/
def execMbxD2tGoWrite (value : Word) (s : State) : Host.Outcome State Fault Refusal :=
  onDevice s fun s => if s.on F.HOST_STATUS_FW_RUN then s.writeD2tGo value.toNat else s

/-- Whether mailbox words are a status packet (R72): a reply of the partner, which nothing answers.
(DEDUCED: notes/assumptions 152.) -/
def isReply (ws : List Word) : Bool :=
  let n := ((ws.getD 0 0).toNat / 2 ^ 24) % 256
  decide (n ≤ 14) && crcWords (ws.take 1 ++ (ws.drop 2).take n) == ws.getD 1 0

/-- MBX_FRAME_RX (R64, R69, R396): the partner's message fills MBX_T2D, and its command's header is checked. A message that
meets FULL set is ignored. -/
def execMbxFrameRx (s : State) : Host.Outcome State Fault Refusal :=
  onDevice s fun s => s.onFrame 5 fun t x => if t.on F.MBX_T2D_GO_FULL then t else
    let ws := (List.range 16).map fun i => x.payload.getD i 0
    let u := (t.fillBox R.MBX_T2D_DATA ws).putBit F.MBX_T2D_GO_FULL true
    if isReply ws then u else u.takePacket .t2d (mailPacket ws) true

/-- MBX_T2D_GO_READ (R64, R396): the management processor reads GO, which clears FULL and tells the partner. -/
def execMbxT2dGoRead (s : State) : Host.Outcome State Fault Refusal :=
  onDevice s fun s =>
    if s.on F.MBX_T2D_GO_FULL then (s.putBit F.MBX_T2D_GO_FULL false).linkSend 0x6 2 [] else s

/-- MBX_ACK_RX (R396). -/
def execMbxAckRx (s : State) : Host.Outcome State Fault Refusal :=
  onDevice s fun s => s.onFrame 6 fun t _ => (t.putBit F.MBX_D2T_GO_FULL false).nextD2t

/-! ### Lane tests (R397) -/

/-- CMD_LANE_TEST (R397): the lane leaves service; a Ranoz lane takes the link down. -/
def execCmdLaneTest (src : Source) (s : State) : Host.Outcome State Fault Refusal :=
  onCore s fun s => s.startCmd src 0x0804 fun s c =>
    let l := c.target
    if bitsOf (c.p 1) 8 24 = 0 then refuse s .badParam
    else if l < 8 ∧ s.role ≠ 0 then refuse s .badState
    else if 8 ≤ l ∧ s.get F.ETH_CFG_SPEED (l - 8) ≠ 0 then refuse s .badState
    else if 8 ≤ l then (s, .later)
    else (if s.on F.LINK_STAT_UP then s.linkFall else s.bringUp, .later)

/-- LANE_TEST_END (R397): the oldest test ends with what the checker counted; far-end loopback has no checker. The lane
returns to service, and a Ranoz lane restarts bring-up, which takes down a link that came up meanwhile. -/
def execLaneTestEnd (errors bits : Nat) (s : State) : Host.Outcome State Fault Refusal :=
  onCore s fun s =>
    match s.runningCmd 0x0804 with
    | some e =>
      let ws := if bitsOf (e.2.p 2) 0 2 = 3 then [0, 0] else [w32 errors, w32 bits]
      let t := s.finish e .done ws
      if 8 ≤ e.2.target then t else if t.on F.LINK_STAT_UP then t.linkFall else t.bringUp
    | none => s

end Sys2Proof.Machine
end

