-- ==== Sys2Proof/Machine/Twin.lean ====
section
/-! DEFINITION. Twin operation (chapter 17, R398 to R408): roles, heartbeats, the count offset, mirroring, the
cross-check, takeover and handover. -/

namespace Sys2Proof.Machine

/-! ### Heartbeats (R399, R406, R408) -/

/-- The age of the last valid heartbeat in µs; saturates. -/
def State.twinAge (s : State) : Nat :=
  match s.twin.hbTime with
  | some t => min 0xFFFF ((s.time.uptime - t) / 1000)
  | none => 0xFFFF

/-- The takeover timeout in µs: values below 20 act as 20 (R404). -/
def State.takeoverUs (s : State) : Nat := max 20 (s.get F.TWIN_TAKEOVER_TMO_US)

/-- The payload of a heartbeat. -/
def State.heartbeatWords (s : State) : List Word :=
  let w0 := s.role + 2 ^ 2 * s.get F.TWIN_CTRL_HOT + 2 ^ 4 * s.get F.TWIN_CTRL_POLICY +
    2 ^ 6 * s.get F.HOST_STATUS_FW_RUN + 2 ^ 7 * s.get F.TWIN_STAT_SYNCED + 2 ^ 16 * s.twin.hbSeq
  let echo := if s.twin.hbAny.isSome then s.time.uptime - s.twin.hbRecv else 0
  [w32 w0, w32 (s.arithSignature + 2 ^ 16 * s.twin.partnerSeq)] ++ timeWords s.time.now ++
    [w32 echo, w32 (s.reg R.DET_TDC), w32 (s.reg R.SEC_FW_VERSION)]

/-- HEARTBEAT_SEND (R399): while firmware runs. (DEDUCED: notes/assumptions 154.) -/
def execHeartbeatSend (s : State) : Host.Outcome State Fault Refusal :=
  onDevice s fun s =>
    if s.on F.HOST_STATUS_FW_RUN && s.on F.LINK_STAT_UP then
      let n := (s.twin.hbSeq + 1) % 2 ^ 16
      let t : State := { s with twin := { s.twin with
        hbSeq := n, hbSent := tset s.twin.hbSent (n % 256) s.time.uptime } }
      t.linkSend 0x1 0 t.heartbeatWords
    else s

/-- The role that a heartbeat's words show. -/
def roleOf (ws : List Word) : Nat := (ws.getD 0 0).toNat % 4

/-- The partner's device time in a heartbeat, in ns. -/
def timeOf (f : RzFrame) : Nat := f.word 2 + 1000000000 * (f.word 3 + 2 ^ 32 * (f.word 4 % 2 ^ 16))

/-- The link latency: half the round trip of the heartbeat that this one echoes, less the echo delay (R399). -/
def State.latency (s : State) (f : RzFrame) : State :=
  match tget? s.twin.hbSent (f.word 1 / 2 ^ 16 % 256) with
  | some t => if f.word 1 / 2 ^ 16 = 0 then s else s.put F.TWIN_HB_LATENCY (min 0xFFFF ((s.time.uptime - t - f.word 5) / 2))
  | none => s

/-- A STANDBY device takes the ACTIVE device's time as that of a domain (R408).
(DESIGN CHOICE: notes/assumptions 164.) -/
def State.followPartner (s : State) (f : RzFrame) : State :=
  let partner : Int := ((timeOf f + s.get F.TWIN_HB_LATENCY) * 1000 : Nat)
  let x := s.dom 2
  let up : Int := ((s.time.uptime - x.since) * 1000 : Nat)
  let rate := if x.modelled && up != 0 then (partner - x.base - up) * 10 ^ 12 / up else x.rate
  let t := s.setDom 2 { x with
    modelled := true, since := s.time.uptime, base := partner, rate := rate, offset := s.nowPs - partner }
  let u := if t.followedDom = some 2 ∧ t.sealed = false then
      ((t.putBit F.TK_STAT_SEALED true).stored 2).stepTime (t.dom 2).offset
    else t
  u.servo

/-- A bobbin in mirror items: its creation, its amendment, its result. (DEDUCED: notes/assumptions 156.) -/
def State.mirrorBob (s : State) (id : Nat) : State :=
  let b := s.bob id
  let t := s.mirror 1 (s.bobWords id b)
  let u := match b.amendTo with
    | some a => t.mirror 2 [w32 id, w32 a]
    | none => t
  if b.state = .armedFinal then u.mirror 3 [w32 id, w32 (b.final + 4)]
  else if b.recorded then u.mirror 3 [w32 id, w32 (b.amendTo.getD b.provAct)]
  else u

/-- The mirror starts with a snapshot of every bobbin that is not FREE, and the model identities (R401). -/
def State.sendSnapshot (s : State) : State :=
  let t : State := { s with twin := { s.twin with syncSent := true } }
  let ids := (t.bobs.filter fun e => e.2.sample.isNone && e.2.state != .free).map (·.1)
  let u := foldState State.mirrorBob t ids
  let v := foldState (fun (w : State) (m : Model) => w.mirrorModel m.id m.crc 1) (u.mirrorModel 0 0 2) u.sched.models
  ((v.mirrorModel 0 0 3).mirror 9 []).putBit F.TWIN_STAT_SYNCED true

/-- The mirror stops until a pair is formed anew. -/
def State.unsync (s : State) : State :=
  State.putBit { s with twin := { s.twin with syncSent := false } } F.TWIN_STAT_SYNCED false

/-- What a valid heartbeat brings (R399, R406). -/
def State.validBeat (s : State) (f : RzFrame) (partner : Nat) : State :=
  let t : State := { s with twin := { s.twin with
    hbTime := some s.time.uptime, lost := false, peer := f.payload
    peerTime := ((timeOf f + s.get F.TWIN_HB_LATENCY : Nat) : Int) - s.nowNs } }
  let u := ((t.put F.TWIN_STAT_PARTNER_ROLE partner).put F.TWIN_PEER_TDC_COUNT (f.word 6)).putBit
    F.TWIN_STAT_DUAL_ACTIVE (t.role == 1 && partner == 1)
  if u.role = 2 then u.followPartner f else u

/-- HEARTBEAT_RX (R399, R401, R406, R408). -/
def execHeartbeatRx (s : State) : Host.Outcome State Fault Refusal :=
  onDevice s fun s => s.onFrame 1 fun s f =>
    if !bitAt (f.word 0) 6 then s
    else
      let partner := roleOf f.payload
      let t := State.latency { s with twin := { s.twin with
        hbAny := some s.time.uptime, hbRecv := s.time.uptime, partnerSeq := f.word 0 / 2 ^ 16, hbFields := f.payload } } f
      let u := if partner = 0 then t else t.validBeat f partner
      if u.role ≠ 1 then u
      else if partner ≠ 2 then (if u.twin.syncSent then u.unsync else u)
      else if u.twin.syncSent then u
      else u.sendSnapshot

/-! ### Roles (R398, R402) -/

/-- Set the triplicated role word. -/
def State.setRole (s : State) (role hot policy : Nat) : State :=
  ((((s.put F.TWIN_CTRL_ROLE role).put F.TWIN_CTRL_HOT hot).put F.TWIN_CTRL_POLICY policy).stored 3).raise F.HOST_IBI_CAUSE_TWIN

/-- Every head result that waits for the partner's is used as it is (R403). -/
def State.resolveWaiting (s : State) : State :=
  let ws := s.twin.waiting
  foldState (fun (t : State) (e : Nat × Verdict) => t.applyVerdict e.1 e.2)
    { s with twin := { s.twin with waiting := [], peerHeads := [] } } ws

/-- STANDBY ends with role NONE: mirrored bobbins record nothing, and the gate opens once their entries are gone.
(DEDUCED: notes/assumptions 159.) -/
def State.leaveStandby (s : State) : State :=
  let t : State := { s with bobs := s.bobs.map fun (e : Nat × Bobbin) =>
    if e.2.sample.isNone then (e.1, { e.2 with recorded := true }) else e }
  (t.putBit F.TWIN_STAT_DRAINING true).drainGate

/-- A role takes effect: the gate, the mirror, the time followed. -/
def State.takeRole (s : State) (role hot policy : Nat) : State :=
  let old := s.role
  let t := (s.setRole role hot policy).unsync
  let u := t.setDom 2 {}
  let v := if role = 2 then u.setField R.FIELD_TWIN_GATE 1
    else if old = 2 then u.leaveStandby
    else if old = 1 then u.resolveWaiting
    else u
  v.servo

/-- Check 4 of R398 for a requested role other than NONE, and R295. -/
def State.roleFits (s : State) (role hot policy : Nat) : Bool :=
  let w := s.twin.hbFields
  let w0 := (w.getD 0 0).toNat
  let partner := roleOf w
  let same := bitsOf w0 2 1 == hot && bitsOf w0 4 2 == policy && (w.getD 7 0).toNat == s.reg R.SEC_FW_VERSION
  let hotOk := hot == 0 || (bitsOf (w.getD 1 0).toNat 0 16 == s.arithSignature && s.profile != 3)
  (role != 2 || (partner == 1 && s.field.table.isEmpty)) && (role != 1 || partner == 0) && (partner == 0 || same) && hotOk

/-- Whether a heartbeat of the partner's firmware has arrived within the takeover timeout.
(DEDUCED: notes/assumptions 155.) -/
def State.partnerSeen (s : State) : Bool :=
  match s.twin.hbAny with
  | some t => decide (s.time.uptime - t ≤ s.takeoverUs * 1000)
  | none => false

/-- CMD_TWIN_ROLE (R398). -/
def execCmdTwinRole (src : Source) (s : State) : Host.Outcome State Fault Refusal :=
  runCmd s src 0x0801 fun s c =>
    let role := c.p 1
    let hot := bitsOf (c.p 2) 0 1
    let policy := bitsOf (c.p 2) 4 2
    if 2 < role ∨ policy = 3 ∨ bitsOf (c.p 2) 1 3 ≠ 0 ∨ bitsOf (c.p 2) 6 26 ≠ 0 then refuse s .badParam
    else if (s.role ≠ 0 ∧ role ≠ 0) ∨ (s.role = 1 ∧ role = 0 ∧ roleOf s.twin.hbFields = 2) then refuse s .badState
    else if role ≠ 0 ∧ (s.on F.LINK_STAT_UP = false ∨ s.partnerSeen = false) then refuse s .linkDown
    else if role ≠ 0 ∧ s.roleFits role hot policy = false then refuse s .badState
    else doneWith (s.takeRole role hot policy)

/-- CMD_TWIN_STATUS (R80). -/
def execCmdTwinStatus (src : Source) (s : State) : Host.Outcome State Fault Refusal :=
  runCmd s src 0x0802 fun s _ =>
    doneWith s [w32 s.role, w32 (s.get F.TWIN_CTRL_HOT), w32 s.twinAge, w32 (s.get F.TWIN_CNT_MISMATCH)]

/-! ### The count offset (R400) -/

/-- Whether a channel reads an SSI encoder. -/
def State.ssi (s : State) (c : Nat) : Bool := s.get F.FIELD_ENC_CFG_MODE c == 1

/-- The offset of a channel, where there is one. -/
def State.twinOffset (s : State) (c : Nat) : Option Int :=
  if s.on (offsetBit c) && !s.ssi c then
    some (signed 48 (s.reg R.TWIN_OFFSET_LO c + 2 ^ 32 * s.reg R.TWIN_OFFSET_HI c))
  else none

/-- Set the offset of a channel: a value that replaces another is counted. -/
def State.setOffset (s : State) (c : Nat) (d : Int) : State :=
  let t := if s.twinOffset c = none ∨ s.twinOffset c = some d then s else s.bump F.TWIN_CNT_OFFSET_ERR
  (t.putCount F.TWIN_OFFSET_LO_OFFSET F.TWIN_OFFSET_HI_OFFSET d c).putBit (offsetBit c) true

/-- Pair an index edge of each side that arrived less than 20 µs apart; a channel in SSI mode pairs none. -/
def State.pairIndex (s : State) (c : Nat) : State :=
  match tget? s.twin.index c, tget? s.twin.peerIndex c with
  | some mine, some theirs =>
    let gap : Int := (mine.2 : Int) - theirs.2
    if gap.natAbs < 20000 && !s.ssi c then
      State.setOffset { s with twin := { s.twin with
        index := tdel s.twin.index c, peerIndex := tdel s.twin.peerIndex c } } c (wrap48 (theirs.1 - mine.1))
    else s
  | _, _ => s

/-- FIELD_INDEX_REPORT (R336, R361, R400, R401). -/
def execFieldIndexReport (s : State) : Host.Outcome State Fault Refusal :=
  onReport s fun s tk =>
    match tk.rep.what with
    | .index c low =>
      some (
        match s.count? c with
        | none => s
        | some k =>
          let v := rebuild k 24 low
          let t := s.putCount F.FIELD_ENC_INDEX_LO_INDEX F.FIELD_ENC_INDEX_HI_INDEX v c
          let ns := tk.arrived / nsUnit
          let n := unsigned 48 v
          if t.role = 2 then State.pairIndex { t with twin := { t.twin with index := tset t.twin.index c (v, ns) } } c
          else t.mirror 5 ([w32 c, w32 n, w32 (n / 2 ^ 32)] ++ timeWords tk.arrived))
    | _ => none

/-! ### The mirror on the STANDBY device (R401) -/

/-- A mirrored creation: the words follow the code. (DEDUCED: notes/assumptions 158.) -/
def State.mirrorCreate (s : State) (f : RzFrame) : State :=
  let id := f.word 1 % 4096
  let serial := f.word 2
  let w := f.word 3
  let c := bitsOf w 16 1
  let lead : Nat := f.word 8 / 2 ^ 16
  let old := s.bob id
  if old.state ≠ .free ∧ old.serial = serial then s
  else
    let s := if old.state = .free then s else s.retireBob id
    let off := s.twinOffset c
    let own := fun (x : Int) => wrap48 (x - off.getD 0)
    let eject := own (signed 48 (f.word 7 + 2 ^ 32 * (f.word 8 % 2 ^ 16)))
    let e := if off.isSome then s.freeEntryNo else none
    let b : Bobbin := {
      state := .arming, serial := serial, rule := bitsOf w 0 4, lane := bitsOf w 4 4, prov := bitsOf w 8 4
      partition := bitsOf w 12 4, enc := c, ports := f.word 4
      wstart := own (signed 48 (f.word 5 + 2 ^ 32 * (f.word 6 % 2 ^ 16))), wlen := f.word 6 / 2 ^ 16
      eject := eject, close := wrap48 (eject - lead), entry := e, provAct := bitsOf w 17 2, mask := bitsOf w 24 8 }
    let t := (({ s with lastBob := id }.setBob id b).put F.BOB_SERIAL_NEXT (serial + 1)).showBobs
    match e with
    | some k =>
      let d : DevEntry := { bobbin := some id, standby := true, mask := b.mask, enc := c }
      let u := t.sendEntry k d id b.provAct (f.word 10 != 0) (f.word 9) lead b.eject
      (foldState (fun w p => ((w.takeFloor id p).takeHoles id p).takeStored id p) u b.portList).tapsCreated id
    | none => if off.isSome then t else t.bump F.TWIN_CNT_NO_OFFSET

/-- A mirrored amendment goes into the device's own amendment slot. -/
def State.mirrorAmend (s : State) (id action : Nat) : State :=
  let b := s.bob id
  match b.entry with
  | some e =>
    if b.state = .decided ∨ b.state = .armedFinal then s
    else
      let t := s.setBob id { b with amendTo := some action }
      { t with field := { t.field with
          amends := t.field.amends.filter (·.entry != e) ++ [{ entry := e, action := action, close := b.close }] } }
  | none => s

/-- A mirrored result: the ACTIVE device has sent the record; a final action is compared. -/
def State.mirrorResult (s : State) (id code : Nat) : State :=
  let b := s.bob id
  if b.state = .free then s
  else
    let t := s.setBob id { b with recorded := true, peerFinal := if 4 ≤ code then some (code - 4) else b.peerFinal }
    if 4 ≤ code then t.finalDiff id else t

/-- A bobbin is FREE on the ACTIVE device: its entry here runs on. -/
def State.mirrorFree (s : State) (id : Nat) : State :=
  if (s.bob id).state = .free then s
  else
    let f := fun (e : Nat × DevEntry) => if e.2.bobbin = some id then (e.1, { e.2 with bobbin := none }) else e
    State.retireBob { s with field := { s.field with table := s.field.table.map f } } id

/-- Compare the model identities: one that a job uses differs or is absent (R401). (DEDUCED: notes/assumptions 94.) -/
def State.compareModels (s : State) : State :=
  let used := s.sched.models.filter fun m => s.sched.parts.any fun e => e.2.model == m.id && s.get F.SCHED_JOB_STATE e.1 != 0
  s.putBit F.TWIN_STAT_MODEL_DIFF (used.any fun m => tget? s.twin.peerModels m.id != some m.crc.toNat)

/-- A mirrored model identity: removed, added, the list begins, the list ends. -/
def State.mirrorModels (s : State) (id crc kind : Nat) : State :=
  let m := s.twin.peerModels
  let n := if kind = 0 then tdel m id else if kind = 1 then tset m id crc else if kind = 2 then [] else m
  let t : State := { s with twin := { s.twin with peerModels := n } }
  if kind = 2 then t else t.compareModels

/-- A mirrored commit: the same image from this device's own copy of the base model. -/
def State.mirrorBuild (s : State) (id base : Nat) : State :=
  let par := s.twin.peerPar.map (·.toNat)
  let t : State := { s with twin := { s.twin with peerPar := [] } }
  match (t.model? base).bind fun m => t.enterCommit id m par with
  | some u => u
  | none => (t.bump F.TWIN_CNT_COMMIT_FAIL).putBit F.TWIN_STAT_MODEL_DIFF true

/-- A mirrored index edge, its time on this device's scale. -/
def State.mirrorIndex (s : State) (f : RzFrame) : State :=
  let c := f.word 1 % 2
  let count := signed 48 (f.word 2 + 2 ^ 32 * (f.word 3 % 2 ^ 16))
  let ns : Int := ((f.word 4 + 1000000000 * (f.word 5 + 2 ^ 32 * f.word 6) : Nat) : Int) - s.twin.peerTime
  State.pairIndex { s with twin := { s.twin with peerIndex := tset s.twin.peerIndex c (count, ns.toNat) } } c

/-- MIRROR_RX (R400, R401). -/
def execMirrorRx (s : State) : Host.Outcome State Fault Refusal :=
  onDevice s fun s => s.onFrame 7 fun s f =>
    let k := f.word 0
    if s.role ≠ 2 then s
    else if k = 1 then s.mirrorCreate f
    else if k = 2 then s.mirrorAmend (f.word 1) (f.word 2)
    else if k = 3 then s.mirrorResult (f.word 1) (f.word 2)
    else if k = 4 then s.mirrorFree (f.word 1)
    else if k = 5 then s.mirrorIndex f
    else if k = 6 then s.mirrorModels (f.word 1) (f.word 2) (f.word 3)
    else if k = 7 then s.mirrorBuild (f.word 1) (f.word 2)
    else if k = 8 then { s with twin := { s.twin with peerPar := s.twin.peerPar ++ f.payload.drop 1 } }
    else if k = 9 then s.putBit F.TWIN_STAT_SYNCED true
    else s

/-! ### The cross-check (R403) -/

/-- The verdict of a VERDICT frame. -/
def verdictOfFrame (f : RzFrame) : Verdict :=
  let w := f.word 0
  { action := bitsOf w 12 4, cls := bitsOf w 16 8, conf := bitsOf w 24 8, amends := bitAt (f.word 1) 0
    early := bitAt (f.word 1) 1 }

/-- VERDICT_RX (R403): compared with this device's result, or kept until that is ready. -/
def execVerdictRx (s : State) : Host.Outcome State Fault Refusal :=
  onDevice s fun s => s.onFrame 8 fun s f =>
    let id := f.word 0 % 4096
    let v := verdictOfFrame f
    let b := s.bob id
    if s.role ≠ 1 ∨ b.state = .free then s
    else
      match tget? s.twin.waiting id with
      | some mine => s.crossCheck id mine v
      | none => if b.tested || b.ended then s else { s with twin := { s.twin with peerHeads := tset s.twin.peerHeads id v } }

/-- Whether a frame of a kind has arrived and waits to be taken: it wins a tie with the expiry of the wait for it (R46). -/
def State.frameWaits (s : State) (kind : Nat) (p : RzFrame → Bool) : Bool := s.link.inbox.any fun f => f.kind == kind && p f

/-- Whether a valid heartbeat has arrived and waits to be taken. -/
def State.beatWaits (s : State) : Bool :=
  s.frameWaits 1 fun f => bitAt (f.word 0) 6 && roleOf f.payload != 0

/-- XCHECK_WAIT_EXPIRE (R403): the device uses its own result. A verdict that has already arrived comes first (R46). -/
def execXcheckWaitExpire (bobbin : Fin 4096) (s : State) : Host.Outcome State Fault Refusal :=
  onDevice s fun s =>
    match tget? s.twin.waiting bobbin.val with
    | some v =>
      if s.role = 1 ∧ (s.frameWaits 8 fun f => f.word 0 % 4096 == bobbin.val) = false then
        (State.bump { s with twin := { s.twin with waiting := tdel s.twin.waiting bobbin.val } }
          F.TWIN_CNT_XCHECK_MISS).applyVerdict bobbin.val v
      else s
    | none => s

/-- PARTNER_LOST (R403, R406): a valid heartbeat that has already arrived comes first (R46). -/
def execPartnerLost (s : State) : Host.Outcome State Fault Refusal :=
  onDevice s fun s =>
    if s.role = 1 ∧ s.twin.hbTime.isSome = true ∧ s.twin.lost = false ∧ s.beatWaits = false then
      (State.putBit { s with twin := { s.twin with lost := true } } F.TWIN_STAT_PARTNER_LOST true).resolveWaiting
    else s

/-! ### Takeover and handover (R404, R405, R407) -/

/-- Whether a bobbin's final action is still open. -/
def Bobbin.undecided (b : Bobbin) : Bool :=
  b.sample.isNone && (b.state == .arming || b.state == .open || b.state == .closedInput)

/-- The bobbins of parts. -/
def State.partBobs (s : State) : List Nat := (s.bobs.filter fun e => e.2.sample.isNone && e.2.state != .free).map (·.1)

/-- A standing hole on a port that has stored no line since the device became ACTIVE (R405). -/
def State.standHole (s : State) (lo : Int) (p : Nat) : State :=
  if s.on F.CAM_CTRL_EN p then
    let t := s.setCam p { s.cam p with standing := some lo }
    let fed := t.partBobs.filter fun id => bitAt (t.bob id).ports p
    foldState (fun u id => ((u.markHole p id).markStood id).placeFor p lo (u.bob id).wlast id) t fed
  else s

/-- The lowest window start of any bobbin; without one, the lowest count. (DEDUCED: notes/assumptions 161.) -/
def State.lowestStart (s : State) : Int :=
  match s.partBobs.map fun id => (s.bob id).wstart with
  | [] => -(2 ^ 47)
  | a :: t => t.foldl min a

/-- A STANDBY device becomes ACTIVE: the role, the gate, the records of actions that are already final, its own results in
hot mode, provisional actions and standing holes in warm mode. (DEDUCED: notes/assumptions 160.) -/
def State.becomeActive (s : State) : State :=
  let hot := s.on F.TWIN_CTRL_HOT
  let a := ((((s.put F.TWIN_CTRL_ROLE 1).stored 3).raise F.HOST_IBI_CAUSE_TWIN).unsync).setField R.FIELD_TWIN_GATE 0
  let due := a.partBobs.filter fun id => (a.bob id).state == .decided || (a.bob id).state == .armedFinal
  let c := foldState (fun (t : State) id => t.bobRecord id t.time.now) a due
  let mine := c.twin.waiting.filter fun e => (c.bob e.1).undecided && (c.bob e.1).amendTo.isNone
  let d : State := { c with twin := { c.twin with waiting := [], peerHeads := [] } }
  let e := if hot then foldState (fun (t : State) (x : Nat × Verdict) => t.applyVerdict x.1 x.2) d mine
    else
      let t := foldState (fun (t : State) id => if (t.bob id).undecided then t.endCompute id else t) d d.partBobs
      timesFrom (fun u p => u.standHole t.lowestStart p) 17 0 t
  (e.setDom 2 {}).servo

/-- The bobbins of a takeover: what it makes late counts in no DET_TDC (R404); a planned handover marks none. -/
def State.markTaken (s : State) : State :=
  foldState (fun (t : State) id => t.setBob id { t.bob id with taken := true }) s s.partBobs

/-- TAKEOVER_TMO (R404): no valid heartbeat for the takeover timeout. One that has already arrived comes first (R46). -/
def execTakeoverTmo (s : State) : Host.Outcome State Fault Refusal :=
  onDevice s fun s =>
    if s.role = 2 ∧ s.beatWaits = false then
      ((s.markTaken.becomeActive.putBit F.TWIN_STAT_TAKEN_OVER true).bump F.TWIN_EVENT_CNT_TAKEOVER)
    else s

/-- CMD_TWIN_HANDOVER, steps 1 and 2 (R407). (DEDUCED: notes/assumptions 163.) -/
def execCmdTwinHandover (src : Source) (s : State) : Host.Outcome State Fault Refusal :=
  onDevice s fun s => State.askHandover (s.startCmd src 0x0803 fun s _ =>
    let w0 := (s.twin.peer.getD 0 0).toNat
    if s.role ≠ 1 ∨ w0 % 4 ≠ 2 ∨ bitAt w0 7 = false ∨ s.twin.handover.isSome = true then refuse s .badState
    else if !s.on F.LINK_STAT_UP then refuse s .linkDown
    else ({ s with twin := { s.twin with handover := some src, asked := false } }, .begun))

/-- The old ACTIVE device becomes STANDBY: its gate closes; the new one mirrors to it. -/
def State.handedOver (s : State) : State :=
  let t := ((((s.put F.TWIN_CTRL_ROLE 2).stored 3).raise F.HOST_IBI_CAUSE_TWIN).unsync).setField R.FIELD_TWIN_GATE 1
  let u : State := { t with twin := { t.twin with
    handover := none, asked := false, waiting := [], peerHeads := [] } }
  ((u.bump F.TWIN_EVENT_CNT_HANDOVER).finishOp 0x0803 .done).servo

/-- TWIN_CTL_RX (R407): the request makes this STANDBY device ACTIVE; the acknowledgement ends the handover. -/
def execTwinCtlRx (s : State) : Host.Outcome State Fault Refusal :=
  onDevice s fun s => s.onFrame 2 fun s f =>
    if f.word 0 = 1 ∧ s.role = 2 then
      let t := s.becomeActive
      State.gateTaken { t with twin := { t.twin with gateDue := true } }
    else if f.word 0 = 2 ∧ s.twin.asked = true ∧ s.role = 1 then s.handedOver
    else s

/-- HANDOVER_TMO (R407): 1 ms without an acknowledgement; this device stays ACTIVE. An acknowledgement that has already
arrived comes first (R46). -/
def execHandoverTmo (s : State) : Host.Outcome State Fault Refusal :=
  onDevice s fun s =>
    if s.twin.asked && !s.frameWaits 2 (fun f => f.word 0 == 2) then
      State.finishOp { s with twin := { s.twin with handover := none, asked := false } } 0x0803 .timeout
    else s

end Sys2Proof.Machine
end

