-- ==== Sys2Proof/Machine/Live.lean ====
section
/-! DEFINITION. What a register shows when it is read: fields that the device computes at the moment of a read are not
stored in the register file and are laid over it here. -/

namespace Sys2Proof.Machine

/-- SYS_OWN_i.IN_USE: whether a release of the resource would complete with BUSY (R51).
(DEDUCED: notes/assumptions 119.) -/
def State.inUse (s : State) (i : Nat) : Bool :=
  let o := s.owner i
  if i < 4 then
    o == ownProbe && s.bobs.any fun e => e.2.rule == s.ownerInst i && e.2.state == .arming
  else if i = 4 then s.encInUse 1
  else if i < 13 then
    (o == ownEjector && s.outputArmed (i - 5)) || (o == ownStop && s.on F.FIELD_STOP_REQ)
  else if i < 45 then o == ownLaunch && !(s.eth (s.ownerInst i)).queue.isEmpty
  else
    let p := i - 45
    o == ownLineStore && (s.named p || !(s.cam p).held.isEmpty || !(s.cam p).outs.isEmpty)

/-- The bytes of a key hash, word n of eight. -/
def hashWord (bs : List Byte) (n : Nat) : Nat := bytesNat (slice bs (4 * n) 4)

/-- Whether a port's PHY has seen data or PCLK in the last 10 ms. -/
def State.phyActive (s : State) (p : Nat) : Bool :=
  match (s.cam p).seenAt with
  | some t => decide (s.time.uptime - t ≤ 10000000)
  | none => false

/-- The value of a register as a read finds it. (DEDUCED: notes/assumptions 174.) -/
def State.shown (s : State) (r : Reg) (i j : Nat) : Nat :=
  let v := s.critReg r i j
  if r.base = R.TK_TIME_NS.base then timeNs s.time.now
  else if r.base = R.SYS_OWN.base then setBits v 31 1 (bit (s.inUse i))
  else if r.base = R.CAM_CTRL.base then setBits v 3 1 (bit (s.phyActive i))
  else if r.base = R.SCHED_BATCH.base then setBits v F.SCHED_BATCH_READY.lo F.SCHED_BATCH_READY.width (s.readyBobs i).length
  else if r.base = R.TWIN_HB.base then setBits v 0 16 s.twinAge
  else if r.base = R.SEC_ROOT_KEY.base then hashWord (s.fwRoot.getD []) i
  else if r.base = R.SEC_OWNER_KEY.base then hashWord (s.ownerField s.fuses.ownerAuth) i
  else if r.base = R.SEC_MODEL_KEY.base then hashWord (s.ownerField s.fuses.modelKey) i
  else if r.base = R.LC_NONCE.base then hashWord s.nonceBytes i
  else if r.base = R.FIELD_TABLE_CLEAR.base then 0
  else if r.base = R.FIELD_ENC_CFG.base then setBits v F.FIELD_ENC_CFG_HTL.lo 1 (bit (Config.encHtl i))
  else v

/-- The registers whose value a read computes, or which hold a critical word. -/
def liveRegs : List (Reg × Nat) :=
  [(R.TK_TIME_NS, 0), (R.TWIN_HB, 0), (R.LC_STATE, 0), (R.DET_ARITH_PROFILE, 0), (R.TK_STAT, 0), (R.TWIN_CTRL, 0),
    (R.SCHED_FENCE_MAP_LO, 0), (R.SCHED_FENCE_MAP_HI, 0), (R.BOB_PROV_TABLE, 0), (R.FIELD_EJECT_LEAD, 0),
    (R.FIELD_SAFE_VALUES, 0), (R.FIELD_ENC_CFG, 0), (R.FIELD_ENC_CFG, 1)] ++
    ((List.range 62).map fun i => (R.SYS_OWN, i)) ++ ((List.range 17).map fun i => (R.CAM_CTRL, i)) ++
    ((List.range 16).map fun i => (R.BOB_LANE_CFG, i)) ++
    (List.range 8).flatMap fun i => [(R.BOB_CLASS_MAP, i), (R.SCHED_BATCH, i), (R.SEC_ROOT_KEY, i), (R.SEC_OWNER_KEY, i),
      (R.SEC_MODEL_KEY, i), (R.LC_NONCE, i)]

/-- The registers as reads find them now: those held, overlaid with those computed. -/
def State.shownRegs (s : State) : Tbl Word :=
  foldState (fun (t : Tbl Word) (x : Reg × Nat) => tset t (x.1.addr x.2 0) (w32 (s.shown x.1 x.2 0))) s.regs liveRegs

end Sys2Proof.Machine
end

