-- ==== Sys2Proof/Machine/Clock.lean ====
section
/-! DEFINITION. The passing of time when no command waits (R366, R374): DESIGN CHOICE, one nanosecond of the TKI. -/

namespace Sys2Proof.Machine

/-- The milliseconds that a holdover lasts, while one does (R374). -/
def State.showHoldover (s : State) : State :=
  if s.on F.TK_HOLDOVER_ACTIVE then
    s.put F.TK_HOLDOVER_MS (min 0xFFFF ((s.time.uptime - s.time.holdFrom) / 1000000))
  else s

/-- While a trigger travels, note what the registers show as the nanosecond ends (R434); no block latches after 200 ns. -/
def State.noteTrail (s : State) : State :=
  if s.snap.taking.isSome && decide (s.snap.trail.length < 200) then
    { s with snap := { s.snap with trail := s.snap.trail ++ [s.shownRegs] } }
  else s

/-- One nanosecond passes; time stands while the device is held in reset (R366, R443).
(DESIGN CHOICE: notes/assumptions 1.) -/
def State.tick (s : State) : State :=
  if s.boot.held then s
  else
    let t := s.noteTrail
    State.showHoldover { t with time := { t.time with now := t.time.now + t.time.pace, uptime := t.time.uptime + 1 } }

end Sys2Proof.Machine
end

