-- ==== Sys2Proof/Machine/HostRx.lean ====
section
/-! DEFINITION. Host CSI-2 in both directions (R73, R74, R76, R77): command and bulk packets, the bulk timeout, verdict
packets and the placement of the transmit channels. -/

namespace Sys2Proof.Machine

/-! ### Receive (R73, R74) -/

/-- A command packet on a receive channel: one shorter than its header is discarded; any other ends the bulk that a command
of the channel still awaits, and is then checked (R69, R73, R74). (DEDUCED: notes/assumptions 28.) -/
def State.rxCommand (s : State) (vc : Fin 4) (bs : List Byte) : State :=
  if bs.length < 16 then s.rxDiscard
  else
    let p := csiPacket bs
    State.takePacket (s.truncateBulk (.csi vc)).fwProgress (.csi vc) { p with params := p.params.take p.words }
      (bs.length == 16 + 4 * p.words)

/-- HOST_RX_COMMAND (R73). -/
def execHostRxCommand (packet : RxPacket) (s : State) : Host.Outcome State Fault Refusal :=
  onDevice s fun s => s.rxFilter packet fun t vc => t.rxCommand vc packet.payload

/-- HOST_RX_BULK (R74). -/
def execHostRxBulk (packet : RxPacket) (s : State) : Host.Outcome State Fault Refusal :=
  onDevice s fun s => s.rxFilter packet fun t vc => (t.takeBulk (.csi vc) packet.payload).fwProgress

/-- BULK_TMO_EXPIRE (R74, R140, R146, R272, R413): what was awaited has not come in time. -/
def execBulkTmoExpire (what : BulkWait) (s : State) : Host.Outcome State Fault Refusal :=
  onDevice s fun s =>
    if s.get F.HOST_CFG_BULK_TMO = 0 then s
    else
      match what with
      | .command src => (s.mapAwaiting src fun c => { c with bulkEnd := .timedOut }).fwProgress
      | .sample vc => (s.sampleTmo vc.val).noteDefers
      | .model => s.modelTmo
      | .firmware => s.firmwareTmo

/-! ### Transmit (R76, R77) -/

/-- VERDICT_HOLD_EXPIRE (R76): every record pending leaves, up to 64 to a packet. (DEDUCED: notes/assumptions 213.) -/
def execVerdictHoldExpire (s : State) : Host.Outcome State Fault Refusal :=
  onDevice s fun s => s.formVerdicts (ceilDiv s.host.records.length 64)

/-- The port and wire virtual channel of a channel, as one number. -/
def State.wirePlace (s : State) (chan : Nat) : Nat := 16 * s.txPort chan + s.wireVc chan

/-- Whether no number stands twice in a list. -/
def distinct : List Nat → Bool
  | [] => true
  | x :: t => !t.contains x && distinct t

/-- Whether the placement obeys R77: each tap channel alone on its wire virtual channel, no record channel on a tap's. -/
def State.placementOk (s : State) : Bool :=
  let taps := (List.range 17).map s.wirePlace
  let recs := [20, 21, 22, 23].map s.wirePlace
  distinct taps && recs.all fun r => !taps.contains r

/-- Keep a placement write, or ignore it as a whole and set ERR (R77). -/
def State.placed (s t : State) : State :=
  if t.placementOk then t.showTxPorts.flushTx else s.putBit F.HOST_TX_VC_REC_ERR true

/-- Write HOST_TX_MAP. -/
def State.writeTxMap (s : State) (v : Nat) : State := s.placed (s.mergeReg R.HOST_TX_MAP v)

/-- Write HOST_TX_VC_TAPa, a = 0 to 2, or HOST_TX_VC_REC (index 3); only VC_0 is defined in HOST_TX_VC_TAP2. -/
def State.writeTxVc (s : State) (k v : Nat) : State :=
  if k = 3 then s.placed (s.mergeReg R.HOST_TX_VC_REC v)
  else s.placed (s.mergeReg R.HOST_TX_VC_TAP (if k = 2 then v % 16 else v) k)

/-- HOST_TX_MAP_WRITE (R77). -/
def execHostTxMapWrite (value : Word) (s : State) : Host.Outcome State Fault Refusal :=
  onDevice s fun s => s.writeTxMap value.toNat

/-- HOST_TX_VC_WRITE (R77). -/
def execHostTxVcWrite (index : Fin 4) (value : Word) (s : State) : Host.Outcome State Fault Refusal :=
  onDevice s fun s => s.writeTxVc index.val value.toNat

end Sys2Proof.Machine
end

