-- ==== Sys2Proof/Machine/I3c.lean ====
section
/-! DEFINITION. The I3C target and the mailboxes (R57 to R66): Common Command Codes, the register window, HDR-DDR, In-Band
Interrupts, and the messages of MBX_H2D and MBX_D2H. -/

namespace Sys2Proof.Machine

/-- An event on the I3C bus: the target answers only from 2 ms after reset release (R57, R410). -/
def onBus (s : State) (f : State → State) : Host.Outcome State Fault Refusal :=
  onDevice s fun s => if s.i3c.ready then f s else s

/-- An SDR event: the bus has left HDR mode. -/
def onSdr (s : State) (f : State → State) : Host.Outcome State Fault Refusal :=
  onBus s fun s => f { s with i3c := { s.i3c with hdr := false } }

/-- What the target drives on the bus. -/
def State.respond (s : State) (bs : List Byte) : State := { s with i3c := { s.i3c with response := some bs } }

/-- No answer: a NACK, or nothing to drive. -/
def State.silent (s : State) : State := { s with i3c := { s.i3c with response := none } }

/-! ### Mailboxes (R64 to R66) -/

/-- Place the next waiting reply in MBX_D2H once it is free (R65). -/
def State.nextD2h (s : State) : State :=
  match s.host.d2hQueue with
  | [] => s
  | ws :: t => State.placeD2h { s with host := { s.host with d2hQueue := t } } ws

/-- MBX_D2H becomes free: FULL, its copy REPLY and the watchdog are cleared. -/
def State.freeD2h (s : State) : State :=
  let t := (s.putBit F.MBX_D2H_GO_FULL false).put F.HOST_IBI_CAUSE_REPLY 0
  { t with host := { t.host with d2hWatch := false } }

/-- The host reads MBX_D2H_GO: a posted message is taken, and the next reply is placed (R64, R66). -/
def State.readD2hGo (s : State) : State := if s.on F.MBX_D2H_GO_FULL then s.freeD2h.nextD2h else s

/-- The watchdog of MBX_D2H expires: the message is rerouted to channel 22 (R66). -/
def State.d2hExpire (s : State) : State :=
  if s.host.d2hWatch && s.on F.MBX_D2H_GO_FULL then
    (((s.freeD2h.sendStatus s.host.d2hLast).bump F.HOST_TX_CNT_MBX_WDT).raise F.HOST_IBI_CAUSE_MBX_WDT).nextD2h
  else s

/-- A write of the host to MBX_H2D while FULL is set is ignored (R64). -/
def State.collide (s : State) : State := s.putBit F.HOST_STATUS_MBX_COLLIDE true

/-- The host writes MBX_H2D_GO: FULL is set and the management processor woken (R64). -/
def State.writeH2dGo (s : State) (v : Nat) : State :=
  if s.on F.MBX_H2D_GO_FULL then s.collide
  else if bitAt v 0 then
    let t := s.putBit F.MBX_H2D_GO_FULL true
    { t with host := { t.host with h2dWoken := true } }
  else s

/-- The management processor takes the message of MBX_H2D: the data are read, the read of GO clears FULL, and the
command's header is checked (R64, R69). -/
def State.wakeH2d (s : State) : State :=
  if s.on F.MBX_H2D_GO_FULL then
    let ws := (List.range 16).map fun i => w32 (s.reg R.MBX_H2D_DATA i)
    let t := s.putBit F.MBX_H2D_GO_FULL false
    State.takePacket { t with host := { t.host with h2dWoken := false } } .h2d (mailPacket ws) true
  else s

/-! ### Host registers of the window -/

/-- A write of HOST_IBI_CAUSE: written ones clear bits; another IBI is requested when an enabled cause stays set (R62). -/
def State.writeIbiCause (s : State) (v : Nat) : State :=
  let old := s.reg R.HOST_IBI_CAUSE
  let t := s.setReg R.HOST_IBI_CAUSE (old - Nat.land old (Nat.land v 0xFFE))
  if t.ibiActive ≠ 0 then t.requestIbi else t

/-- A write of HOST_IBI_EN: an IBI is requested when the enabled causes change from zero to non-zero (R62). -/
def State.writeIbiEn (s : State) (v : Nat) : State :=
  let t := s.put F.HOST_IBI_EN_EN v
  if s.ibiActive = 0 ∧ t.ibiActive ≠ 0 then t.requestIbi else t

/-- A write of HOST_STATUS: only MBX_COLLIDE can be cleared. -/
def State.writeHostStatus (s : State) (v : Nat) : State :=
  if bitAt v 3 then s.putBit F.HOST_STATUS_MBX_COLLIDE false else s

/-- One whole word written at a window offset (R59). -/
def State.windowWrite (s : State) (off : Nat) (v : Word) : State :=
  if off < 0x40 then (if s.on F.MBX_H2D_GO_FULL then s.collide else s.setReg R.MBX_H2D_DATA v.toNat (off / 4))
  else if off = 0x40 then s.writeH2dGo v.toNat
  else if off = 0x100 then s.writeHostStatus v.toNat
  else if off = 0x104 then s.writeIbiCause v.toNat
  else if off = 0x108 then s.writeIbiEn v.toNat
  else s

/-- Whole words written from a window offset upward. -/
def State.windowWrites (s : State) : Nat → List Word → State
  | _, [] => s
  | off, v :: t => (s.windowWrite off v).windowWrites (off + 4) t

/-- The word at a window offset. -/
def State.windowValue (s : State) (off : Nat) : Word :=
  if off < 0x40 then w32 (s.reg R.MBX_H2D_DATA (off / 4))
  else if off = 0x40 then w32 (s.reg R.MBX_H2D_GO)
  else if 0x80 ≤ off ∧ off < 0xC0 then w32 (s.reg R.MBX_D2H_DATA ((off - 0x80) / 4))
  else if off = 0xC0 then w32 (s.reg R.MBX_D2H_GO)
  else if off = 0x100 then w32 (s.reg R.HOST_STATUS)
  else if off = 0x104 then w32 (s.reg R.HOST_IBI_CAUSE)
  else if off = 0x108 then w32 (s.reg R.HOST_IBI_EN)
  else 0

/-- Read words from a window offset upward; the receiver's read of MBX_D2H_GO takes the message (R64). -/
def State.windowReads (s : State) : Nat → Nat → State × List Word
  | 0, _ => (s, [])
  | n + 1, off =>
    let w := s.windowValue off
    let t := if off = 0xC0 then s.readD2hGo else s
    let r := t.windowReads n (off + 4)
    (r.1, w :: r.2)

/-! ### Transfers -/

/-- I3C_PRIVATE_WRITE (R59): the offset, then whole words; two bytes alone set the read pointer. Bytes beyond the
write limit are not taken. -/
def execI3cPrivateWrite (data : List Byte) (s : State) : Host.Outcome State Fault Refusal :=
  onSdr s fun s =>
    match data.take s.i3c.mwl with
    | lo :: hi :: rest =>
      let off := lo.toNat + 256 * hi.toNat
      if off % 4 ≠ 0 then s
      else if rest.isEmpty then { s with i3c := { s.i3c with ptr := off } }
      else s.windowWrites off (bytesWords rest)
    | _ => s

/-- I3C_PRIVATE_READ (R59): words from the read pointer, which advances by 4 for each word begun.
(DESIGN CHOICE: notes/assumptions 212.) -/
def execI3cPrivateRead (count : Nat) (s : State) : Host.Outcome State Fault Refusal :=
  onSdr s fun s =>
    let n := min count s.i3c.mrl
    let words := ceilDiv n 4
    let r := s.windowReads words s.i3c.ptr
    State.respond { r.1 with i3c := { r.1.i3c with ptr := s.i3c.ptr + 4 * words } } ((wordsBytes r.2).take n)

/-- The register words that HDR-DDR data words form, low half first (R60). -/
def hdrWords : List (BitVec 16) → List Word
  | a :: b :: t => (b ++ a) :: hdrWords t
  | _ => []

/-- HDR_DDR_TRANSFER (R60): command codes 0x00 to 0x7F write, 0x80 to 0xFF read; a write with a parity or CRC error
changes nothing but the protocol-error mark. -/
def execHdrDdrTransfer (code : BitVec 8) (data : List (BitVec 16)) (count : Nat) (crcOk : Bool) (s : State) :
    Host.Outcome State Fault Refusal :=
  onBus s fun s =>
    if !s.i3c.hdr then s
    else if code.toNat < 0x80 then
      if crcOk then s.windowWrites (4 * code.toNat) (hdrWords data)
      else { s with i3c := { s.i3c with protoErr := true } }
    else
      let r := s.windowReads count (4 * (code.toNat - 0x80))
      r.1.respond (wordsBytes r.2)

/-! ### Common Command Codes (R58) -/

/-- ENEC: IBI requests enabled; one is requested while an enabled cause is set (R62). -/
def execEnec (_dest : CccTo) (s : State) : Host.Outcome State Fault Refusal :=
  onSdr s fun s =>
    let t := { s with i3c := { s.i3c with ibiOn := true } }
    if t.ibiActive ≠ 0 then t.requestIbi else t

/-- DISEC: IBI requests disabled; a pending request is withdrawn, cause bits still accumulate (R62).
(DEDUCED: notes/assumptions 27.) -/
def execDisec (_dest : CccTo) (s : State) : Host.Outcome State Fault Refusal :=
  onSdr s fun s => { s with i3c := { s.i3c with ibiOn := false, pending := false, again := false } }

/-- RSTDAA: the dynamic address is dropped. -/
def execRstdaa (s : State) : Host.Outcome State Fault Refusal :=
  onSdr s fun s => { s with i3c := { s.i3c with dynAddr := none } }

/-- The provisional ID of R57 (48 bits), BCR and DCR, most significant byte first. -/
def State.provisionalId (s : State) : List Byte :=
  [0xBC#8, 0x76#8, 0x64#8, 0x16#8, BitVec.ofNat 8 (16 * bit s.straps.addrSel), 0xA1#8]

/-- ENTDAA: a target without a dynamic address takes part with its provisional ID, BCR and DCR, and takes the address
assigned. -/
def execEntdaa (address : BitVec 7) (s : State) : Host.Outcome State Fault Refusal :=
  onSdr s fun s =>
    if s.i3c.dynAddr.isSome then s.silent
    else State.respond { s with i3c := { s.i3c with dynAddr := some address } }
      (s.provisionalId ++ [0x26#8, 0x00#8])

/-- The static address (R57). -/
def State.staticAddr (s : State) : BitVec 7 := if s.straps.addrSel then 0x4D#7 else 0x4C#7

/-- SETAASA: the static address becomes the dynamic address. -/
def execSetaasa (s : State) : Host.Outcome State Fault Refusal :=
  onSdr s fun s => { s with i3c := { s.i3c with dynAddr := some s.staticAddr } }

/-- SETDASA: takes the given dynamic address. -/
def execSetdasa (address : BitVec 7) (s : State) : Host.Outcome State Fault Refusal :=
  onSdr s fun s => { s with i3c := { s.i3c with dynAddr := some address } }

/-- SETNEWDA: takes the given dynamic address. -/
def execSetnewda (address : BitVec 7) (s : State) : Host.Outcome State Fault Refusal :=
  onSdr s fun s => { s with i3c := { s.i3c with dynAddr := some address } }

/-- Whether a limit is one SETMWL and SETMRL take (R58). -/
def limitOk (n : Nat) : Bool := decide (8 ≤ n) && decide (n ≤ 256)

/-- SETMWL: sets the write limit; values below 8 or above 256 are ignored. -/
def execSetmwl (_dest : CccTo) (limit : Nat) (s : State) : Host.Outcome State Fault Refusal :=
  onSdr s fun s => if limitOk limit then { s with i3c := { s.i3c with mwl := limit } } else s

/-- SETMRL: sets the read limit; values below 8 or above 256 are ignored. -/
def execSetmrl (_dest : CccTo) (limit : Nat) (s : State) : Host.Outcome State Fault Refusal :=
  onSdr s fun s => if limitOk limit then { s with i3c := { s.i3c with mrl := limit } } else s

/-- A number as two bytes, most significant first. -/
def twoBytes (n : Nat) : List Byte := [BitVec.ofNat 8 (n / 256), BitVec.ofNat 8 n]

/-- GETMWL: the present write limit. -/
def execGetmwl (s : State) : Host.Outcome State Fault Refusal := onSdr s fun s => s.respond (twoBytes s.i3c.mwl)

/-- GETMRL: the present read limit. -/
def execGetmrl (s : State) : Host.Outcome State Fault Refusal := onSdr s fun s => s.respond (twoBytes s.i3c.mrl)

/-- GETPID: the provisional ID. -/
def execGetpid (s : State) : Host.Outcome State Fault Refusal := onSdr s fun s => s.respond s.provisionalId

/-- GETBCR: 0x26. -/
def execGetbcr (s : State) : Host.Outcome State Fault Refusal := onSdr s fun s => s.respond [0x26#8]

/-- GETDCR: 0x00. -/
def execGetdcr (s : State) : Host.Outcome State Fault Refusal := onSdr s fun s => s.respond [0x00#8]

/-- The status word of GETSTATUS (R58). -/
def State.i3cStatus (s : State) : Nat :=
  bit s.i3c.pending + 2 ^ 5 * bit s.i3c.protoErr + 2 ^ 8 * bitsOf (s.reg R.HOST_STATUS) 0 8

/-- GETSTATUS: the status word; the protocol-error mark starts anew. -/
def execGetstatus (s : State) : Host.Outcome State Fault Refusal :=
  onSdr s fun s => State.respond { s with i3c := { s.i3c with protoErr := false } } (twoBytes s.i3cStatus)

/-- GETMXDS: no read turnaround limit and no speed limit. (PRESUMED: notes/assumptions 26.) -/
def execGetmxds (s : State) : Host.Outcome State Fault Refusal := onSdr s fun s => s.respond [0x00#8, 0x00#8]

/-- GETCAPS: HDR-DDR and no other HDR mode. -/
def execGetcaps (s : State) : Host.Outcome State Fault Refusal := onSdr s fun s => s.respond [0x01#8]

/-- ENTHDR0: enters HDR-DDR. -/
def execEnthdr0 (s : State) : Host.Outcome State Fault Refusal :=
  onBus s fun s => { s with i3c := { s.i3c with hdr := true } }

/-- ENTAS0 to ENTAS3: accepted, no effect. -/
def execEntas (_level : Fin 4) (s : State) : Host.Outcome State Fault Refusal := onSdr s fun s => s

/-- Clear a mailbox: its data and FULL. -/
def State.clearBox (s : State) (data : Reg) (full : Fld) : State :=
  timesFrom (fun t i => t.setReg data 0 i) 16 0 (s.putBit full false)

/-- The I3C target logic and the mailboxes MBX_H2D and MBX_D2H reset (R58); a waiting reply is then placed.
(DESIGN CHOICE: notes/assumptions 211.) -/
def State.resetTarget (s : State) : State :=
  let t := (s.clearBox R.MBX_H2D_DATA F.MBX_H2D_GO_FULL).clearBox R.MBX_D2H_DATA F.MBX_D2H_GO_FULL
  let u := t.put F.HOST_IBI_CAUSE_REPLY 0
  State.nextD2h { u with
    i3c := { ready := true }
    host := { u.host with h2dWoken := false, d2hWatch := false } }

/-- RSTACT: defining byte 0x01 resets the target logic and the two mailboxes; every other byte has no effect. -/
def execRstact (_dest : CccTo) (defining : Byte) (s : State) : Host.Outcome State Fault Refusal :=
  onSdr s fun s => if defining = 0x01#8 then s.resetTarget else s

/-- CCC_UNLISTED: a direct code that is not listed is answered with a NACK, a broadcast one ignored (R58). -/
def execCccUnlisted (dest : CccTo) (_code : BitVec 8) (s : State) : Host.Outcome State Fault Refusal :=
  onSdr s fun s =>
    match dest with
    | .direct => s.silent
    | .broadcast => s

/-! ### Notifications and mailbox rows -/

/-- HOST_IBI_CAUSE_WRITE (R62). -/
def execHostIbiCauseWrite (value : Word) (s : State) : Host.Outcome State Fault Refusal :=
  onDevice s fun s => s.writeIbiCause value.toNat

/-- IBI_DELIVERED (R62): the pending IBI goes out with its mandatory byte; a request that waited becomes the pending
one. -/
def execIbiDelivered (s : State) : Host.Outcome State Fault Refusal :=
  onBus s fun s =>
    if s.i3c.pending then
      let b : Byte := if bitAt s.ibiActive 0 then 0x01#8 else 0x02#8
      { s with i3c := { s.i3c with pending := s.i3c.again, again := false, response := some [b] } }
    else s

/-- MBX_H2D_GO_WRITE (R64). -/
def execMbxH2dGoWrite (value : Word) (s : State) : Host.Outcome State Fault Refusal :=
  onBus s fun s => s.writeH2dGo value.toNat

/-- MBX_WAKE (R64, R69). -/
def execMbxWake (s : State) : Host.Outcome State Fault Refusal := onDevice s fun s => s.wakeH2d

/-- MBX_D2H_GO_READ (R64, R66). -/
def execMbxD2hGoRead (s : State) : Host.Outcome State Fault Refusal :=
  onBus s fun s => s.readD2hGo.respond (wordBytes (w32 (s.reg R.MBX_D2H_GO)))

/-- MBX_WATCHDOG_EXPIRE (R66). -/
def execMbxWatchdogExpire (s : State) : Host.Outcome State Fault Refusal := onDevice s fun s => s.d2hExpire

end Sys2Proof.Machine
end

