-- ==== Sys2Proof/Machine/Access.lean ====
section
/-! DEFINITION. Access to registers and memory words (R55): CMD_MEM_READ, CMD_MEM_WRITE, the registers that have no row
of their own, and the block locks. -/

namespace Sys2Proof.Machine

/-- The answer to one access. -/
inductive Access where
  | value (w : Nat)
  | fails (st : Status)
  deriving DecidableEq, Repr

/-- Whether an address lies in the LOOM block of a fenced loom and its register is not one of the three that stay
reachable (R55). (DEDUCED: notes/assumptions 20.) -/
def State.fencedReg (s : State) (r : Reg) (a : Nat) : Bool :=
  decide (0x3F01000000 ≤ a) && decide (a < 0x3F01400000) && s.fenced ((a - 0x3F01000000) / 0x10000) &&
    !(r.base == R.LOOM_ID.base || r.base == R.LOOM_PACE.base || r.base == R.LOOM_PACE_MIN.base)

/-! ### Reads -/

/-- The pairs whose low register latches its high one when it is read. (DEDUCED: notes/assumptions 19.) -/
def latchPairs : List (Reg × Reg) := [
  (R.LOOM_ARRAY_SLOTS_LO, R.LOOM_ARRAY_SLOTS_HI), (R.LOOM_ARRAY_USEFUL_LO, R.LOOM_ARRAY_USEFUL_HI),
  (R.MEM_UE_ADDR_LO, R.MEM_UE_ADDR_HI), (R.FIELD_ENC_COUNT_LO, R.FIELD_ENC_COUNT_HI),
  (R.FIELD_ENC_INDEX_LO, R.FIELD_ENC_INDEX_HI), (R.TK_RATE_LO, R.TK_RATE_HI), (R.TK_STEP_LO, R.TK_STEP_HI),
  (R.TWIN_OFFSET_LO, R.TWIN_OFFSET_HI), (R.SCHED_FENCE_TIME_NS, R.SCHED_FENCE_TIME_S_LO),
  (R.SCHED_FENCE_TIME_NS, R.SCHED_FENCE_TIME_S_HI)]

/-- A read of a low register latches its high ones. -/
def State.latchHigh (s : State) (r : Reg) (i j : Nat) : State :=
  foldState (fun (t : State) (e : Reg × Reg) =>
    if e.1.base = r.base then { t with latch := tset t.latch (e.2.addr i j) (w32 (t.shown e.2 i j)) } else t) s latchPairs

/-- A read sets the RC fields of a register to their reset value (R10). -/
def State.readClear (s : State) (r : Reg) (i j : Nat) : State :=
  if r.rc = 0 then s
  else s.setReg r (Nat.lor (without (s.reg r i j) r.rc) (Nat.land (r.reset i j) r.rc)) i j

/-- Read a register: the value found, and what the read does; the copies of a critical word are compared (R314). -/
def State.readReg (s : State) (r : Reg) (i j : Nat) : State × Nat :=
  if r.base = R.ETH_TXTS_ID.base then s.readTxts i
  else
    match tget? s.latch (r.addr i j) with
    | some w => (s, w.toNat)
    | none =>
      let s := match critWord r i with | some w => s.readCritical w | none => s
      let v := s.shown r i j
      let t := (s.latchHigh r i j).readClear r i j
      (if r.base = R.TK_TIME_NS.base then t.latchTime else t, v)

/-- Read a word (R55, R56). (DESIGN CHOICE: notes/assumptions 18.) -/
def State.readWord (s : State) (a : Nat) : State × Access :=
  if a % 4 ≠ 0 then (s, .fails .badParam)
  else
    match s.region a with
    | .unmapped => (s, .fails .badParam)
    | .block =>
      match findReg regTable a with
      | none => (s, .value 0)
      | some (r, i, j) =>
        if s.fencedReg r a then (s, .fails .fenced)
        else
          let x := s.readReg r i j
          (x.1, .value x.2)
    | _ =>
      match s.memRefusal a with
      | some st => (s, .fails st)
      | none =>
        let x := s.readData a 4
        (x.1, if dataGood x.2 then .value (bytesNat (dataBytes x.2)) else .fails .poisoned)

/-- Read at most `n` words from an address upward, up to the first that fails. -/
def State.readWords (s : State) : Nat → Nat → State × List Word × Status
  | 0, _ => (s, [], .done)
  | n + 1, a =>
    let x := s.readWord a
    match x.2 with
    | .fails st => (x.1, [], st)
    | .value w =>
      let y := x.1.readWords n (a + 4)
      (y.1, w32 w :: y.2.1, y.2.2)

/-- The address that two parameter words give; the bits above [39:32] are reserved (R7).
(DEDUCED: notes/assumptions 23.) -/
def Cmd.address (c : Cmd) : Nat := c.p 1 + 2 ^ 32 * bitsOf (c.p 2) 0 8

/-- CMD_MEM_READ (R55, R80). (DEDUCED: notes/assumptions 21.) -/
def execCmdMemRead (src : Source) (flaws : List (Nat × Flaw)) (s : State) : Host.Outcome State Fault Refusal :=
  onCore s fun s => s.startCmd src 0x0501 fun s c =>
    let n := c.p 3
    if n = 0 ∨ (if isCsi src then 255 else 14) < n then refuse s .badParam
    else
      let x := (s.withFlaws flaws).readWords n c.address
      (x.1, .final x.2.2 x.2.1)

/-! ### Writes -/

/-- Whether a register keeps its value whatever is written, in the present state. -/
def State.writeIgnored (s : State) (r : Reg) (i : Nat) : Bool :=
  let b := r.base
  let job := s.get F.SCHED_JOB_STATE i
  if b = R.SCHED_MODEL_BASE.base ∨ b = R.SCHED_MODEL_SIZE.base then !s.sched.models.isEmpty
  else if b = R.SAMPLE_BUF_BASE.base ∨ b = R.SAMPLE_BUF_SIZE.base then !s.intake.samples.isEmpty
  else if b = R.SCHED_SAVE_BASE.base ∨ b = R.SCHED_SAVE_SIZE.base then job != 0 && job != 2
  else if [R.SCHED_REMOTE_BASE, R.SCHED_STAGE_BASE, R.SCHED_STAGE_SIZE, R.SCHED_KV_BEAM_BASE, R.SCHED_KV_BEAM_SIZE,
      R.SCHED_KV_SPILL_BASE, R.SCHED_KV_SPILL_SIZE].any (fun (x : Reg) => x.base == b) then job != 0
  else if b = R.QUANT_CALIB_BASE.base ∨ b = R.QUANT_CALIB_SIZE.base then s.on F.QUANT_CALIB_CTRL_EN i
  else if b = R.QUANT_STAT_BASE.base ∨ b = R.QUANT_STAT_SIZE.base then
    s.on F.QUANT_STAT_CTRL_STEP_EN i || s.on F.QUANT_STAT_CTRL_TASK_EN i
  else false

/-- The learning registers in the order of their offsets. -/
def learnRegs : List Reg := [R.SCHED_LEARN_CTRL, R.SCHED_LEARN_RATE, R.SCHED_LEARN_BETA1, R.SCHED_LEARN_BETA2,
  R.SCHED_LEARN_EPS, R.SCHED_LEARN_BASE, R.SCHED_LEARN_SIZE]

/-- A write to a register, no lock and no fence in its way: the registers whose writes do more than store have their own
operation; the mailboxes belong to their senders (R63). -/
def State.writeReg (s : State) (r : Reg) (i j a v : Nat) : State :=
  let b := r.base
  if b = R.BLOCK_LOCK.base then s.mergeReg r v i j
  else if a < 0x3F00200000 ∧ 0x3F00100000 ≤ a then s
  else if b = R.HOST_STATUS.base then s.writeHostStatus v
  else if b = R.HOST_IBI_CAUSE.base then s.writeIbiCause v
  else if b = R.HOST_IBI_EN.base then s.writeIbiEn v
  else if b = R.HOST_TX_MAP.base then s.writeTxMap v
  else if b = R.HOST_TX_VC_TAP.base then s.writeTxVc i v
  else if b = R.HOST_TX_VC_REC.base then s.writeTxVc 3 v
  else if b = R.HOST_CFG.base then (s.mergeReg r v i j).flushTx
  else if b = R.BOB_AGE_LIMIT.base then s.writeAgeLimit v
  else if b = R.QUANT_STAT_CTRL.base then s.writeStatCtrl i v
  else if b = R.QUANT_CALIB_CTRL.base then s.writeCalibCtrl i v
  else if b = R.LINK_CFG.base then s.writeLinkCfg v
  else if b = R.TK_CTRL.base then (s.mergeReg r v i j).servo
  else if b = R.DET_CTRL.base then (if bitAt v 0 then s.clearTdc else s)
  else if 0x3F00A00000 ≤ a ∧ a < 0x3F00AFFFFC then s.writeField r v i
  else
    match learnRegs.findIdx? fun (x : Reg) => x.base == b with
    | some k => s.writeLearn i (4 * k) v
    | none =>
      if s.writeIgnored r i then s
      else if b = R.QUANT_SCALE_POLICY.base ∧ v % 4 = 3 then
        s.mergeReg r (setBits v 0 2 (s.get F.QUANT_SCALE_POLICY_POLICY i)) i j
      else s.mergeReg r v i j

/-- A write of a register word at its address, with its status (R55). -/
def State.writeRegWord (s : State) (a v : Nat) : State × Status :=
  match findReg regTable a with
  | none => (s, .done)
  | some (r, i, j) =>
    if s.fencedReg r a then (s, .fenced)
    else if s.refused r a then (s, .badState)
    else if r.base = R.SYS_THROTTLE.base then (s.writeThrottle v, .done)
    else (s.writeReg r i j a v, .done)

/-- Write words from an address upward, at most `fuel` shares: whole granules where the words cover one (R307); the words
written, and the status of the one at which writing stopped. -/
def State.writeWords (s : State) : Nat → Nat → List Word → Nat → State × Nat × Status
  | 0, _, _, n => (s, n, .done)
  | _ + 1, _, [], n => (s, n, .done)
  | fuel + 1, a, w :: rest, n =>
    match s.region a with
    | .unmapped => (s, n, .badParam)
    | .block =>
      let x := s.writeRegWord a w.toNat
      match x.2 with
      | .done => x.1.writeWords fuel (a + 4) rest (n + 1)
      | st => (x.1, n, st)
    | _ =>
      match s.memRefusal a with
      | some st => (s, n, st)
      | none =>
        let k := min ((granBase a + granSize a - a) / 4) (rest.length + 1)
        State.writeWords (s.writeShare a (goodData (wordsBytes ((w :: rest).take k)))) fuel (a + 4 * k)
          ((w :: rest).drop k) (n + k)

/-- CMD_MEM_WRITE (R55, R80, R307): the data are the parameter words after the address, or the bulk; bulk that came before
it was cut short stays applied (R74). (DESIGN CHOICE: notes/assumptions 22.) -/
def execCmdMemWrite (src : Source) (s : State) : Host.Outcome State Fault Refusal :=
  onCore s fun s => s.startCmd src 0x0502 fun s c =>
    let a := c.address
    let ws := if c.bulkEnd = .none then c.params.drop 2 else bytesWords c.bulk
    if a % 4 ≠ 0 then (s, .final .badParam [0])
    else if c.bulkEnd = .awaiting then doneWith s
    else
      let x := s.writeWords ws.length a ws 0
      (x.1, .final (if x.2.2 = .done then c.bulkStatus else x.2.2) [w32 x.2.1])

/-- REGISTER_WRITE (R55): a write to a register; its status goes to the command that carries it.
(DESIGN CHOICE: notes/assumptions 24.) -/
def execRegisterWrite (address : Nat) (value : Word) (s : State) : Host.Outcome State Fault Refusal :=
  onDevice s fun s =>
    if s.region address = .block ∧ address % 4 = 0 then (s.writeRegWord address value.toNat).1 else s

/-- Whether a register is a block's lock. -/
def Reg.isLock (r : Reg) : Bool :=
  r.base == R.BLOCK_LOCK.base || r.base == R.LOOM_LOCK.base || r.base == R.MILL_LOCK.base

/-- BLOCK_LOCK_WRITE (R54): 1 locks the block until reset; a fenced loom's lock is not reached (R55). -/
def execBlockLockWrite (address : Nat) (value : Word) (s : State) : Host.Outcome State Fault Refusal :=
  onDevice s fun s =>
    match findReg regTable address with
    | some (r, i, j) => if r.isLock && !s.fencedReg r address then s.mergeReg r value.toNat i j else s
    | none => s

end Sys2Proof.Machine
end

