-- ==== Sys2Proof/Machine/SampleEvents.lean ====
section
/-! DEFINITION. The events of sample intake (chapter 06, R140 to R150): the packets of a sample, its decoding, and its bobbin. A
mini-batch that fills with one of them may have a deferred optimiser step (R254). -/

namespace Sys2Proof.Machine

/-- An event of sample intake. -/
def onSamples (s : State) (f : State → State) : Host.Outcome State Fault Refusal := onDevice s fun s => (f s).noteDefers

/-- HOST_RX_SAMPLE (R140 to R148). -/
def execHostRxSample (packet : RxPacket) (s : State) : Host.Outcome State Fault Refusal :=
  onSamples s fun s => s.rxFilter packet fun t vc => t.samplePacket vc.val packet.payload

/-- What a decoded file says of its components is known: the sample holds the buffer that they need (R142). -/
def State.knowFile (s : State) (x : Sample) : State :=
  let y := { x with grey := greyJpeg x.place x.header x.stream }
  s.mapSample x.place fun z => { z with grey := y.grey, size := y.need }

/-- SAMPLE_DECODE_START (R145). -/
def execSampleDecodeStart (seq : Nat) (s : State) : Host.Outcome State Fault Refusal :=
  onSamples s fun s =>
    match s.numbered seq with
    | some x =>
      if x.jpeg && x.decoder.isSome && x.stage == .stream && !x.stream.isEmpty then
        s.mapSample x.place fun y => { y with stage := .decoding }
      else s
    | none => s

/-- SAMPLE_DECODE_DONE (R144, R146): the decoder finds a marker that refuses the file, or has decoded it. -/
def execSampleDecodeDone (seq : Nat) (s : State) : Host.Outcome State Fault Refusal :=
  onSamples s fun s =>
    match s.numbered seq with
    | some x =>
      if x.stage ≠ .decoding then s
      else if (Config.jpegFrame x.stream).any fun f => !jpegAccepts f || f.width != x.width || f.height != x.height then
        s.sampleDone x.place .badParam
      else (s.knowFile x).sampleReady x.place (x.jpegImg (s.get F.SAMPLE_FILL_FILL)) x.jpegShort
    | none => s

/-- SAMPLE_DECODE_LIMIT_EXPIRE (R145). -/
def execSampleDecodeLimitExpire (seq : Nat) (s : State) : Host.Outcome State Fault Refusal :=
  onSamples s fun s =>
    match s.numbered seq with
    | some x =>
      if s.get F.SAMPLE_DECODE_LIMIT_US ≠ 0 ∧ x.stage = .decoding then (s.tdc 2).sampleDone x.place .timeout else s
    | none => s

/-- SAMPLE_TAKE_BOBBIN (R149, R203): the ready sample of lowest sequence number takes the lowest free sample bobbin. -/
def execSampleTakeBobbin (s : State) : Host.Outcome State Fault Refusal :=
  onSamples s fun s =>
    match s.intake.samples.find? (·.stage == .ready), s.freeSampleBob with
    | some x, some id => s.sampleRun x id
    | _, _ => s

end Sys2Proof.Machine
end

