-- ==== Sys2Proof/Machine/Snap.lean ====
section
/-! DEFINITION. Snapshots and trace (R432 to R437) and the firing of time-compare units (R383). -/

namespace Sys2Proof.Machine

/-! ### The trigger (R432, R433) -/

/-- CMD_SNAP_TRIGGER (R432). -/
def execCmdSnapTrigger (src : Source) (s : State) : Host.Outcome State Fault Refusal :=
  runCmd s src 0x0A01 fun s _ =>
    let r := s.snapFire 8
    doneWith r.1 [w32 r.2]

/-- Disarm the TIME source and release its compare unit. -/
def State.releaseSnapUnit (s : State) : State :=
  let u := s.get F.SNAP_CTRL_UNIT
  if s.owner (13 + u) = ownSnapshot then
    ((s.own (13 + u) ownNone 0).putBit F.TK_CMP_S_HI_ARMED false u).putBit F.SNAP_STAT_TIME_ARMED false
  else s.putBit F.SNAP_STAT_TIME_ARMED false

/-- Take a compare unit as SNAPSHOT_TRIGGER, armed with SNAP_CMP. -/
def State.armSnapTime (s : State) (u : Nat) : State :=
  let t := (((s.own (13 + u) ownSnapshot 0).setReg R.TK_CMP_NS (s.reg R.SNAP_CMP_NS) u).setReg R.TK_CMP_S_LO
    (s.reg R.SNAP_CMP_S_LO) u).put F.TK_CMP_S_HI_S_HI (s.get F.SNAP_CMP_S_HI_S_HI) u
  State.putBit ({ t with snap := { t.snap with timeRearm := false } }.putBit F.TK_CMP_S_HI_ARMED true u)
    F.SNAP_STAT_TIME_ARMED true

/-- Arm the ENCODER source with SNAP_ENC. (DEDUCED: notes/assumptions 117.) -/
def State.armSnapEnc (s : State) (c : Nat) : State :=
  let v := signed 48 (s.reg R.SNAP_ENC_LO + 2 ^ 32 * s.reg R.SNAP_ENC_HI)
  let below := match s.count? c with
    | some k => decide (k < v)
    | none => false
  State.putBit { s with snap := { s.snap with encAt := v, encBelow := below } } F.SNAP_STAT_ENC_ARMED true

/-- CMD_SNAP_CONFIG (R433). -/
def execCmdSnapConfig (src : Source) (s : State) : Host.Outcome State Fault Refusal :=
  runCmd s src 0x0A02 fun s c =>
    let srcs := bitsOf (c.p 1) 0 8
    let q := c.p 2
    let u := bitsOf q 0 5
    if bitAt srcs 0 && s.heldByOther (13 + u) ownSnapshot 0 then refuse s .resourceHeld
    else
      let a := s.releaseSnapUnit
      let b := ((((((a.put F.SNAP_CTRL_SOURCES srcs).put F.SNAP_CTRL_UNIT u).put F.SNAP_CTRL_ENC (bitsOf q 8 1)).put
        F.SNAP_CTRL_FI (bitsOf q 12 4)).put F.SNAP_CTRL_EDGE (bitsOf q 16 1)).put F.SNAP_CTRL_REARM (bitsOf q 24 1))
      let d := if bitAt srcs 0 then b.armSnapTime u else b
      doneWith (if bitAt srcs 1 then d.armSnapEnc (bitsOf q 8 1) else d.putBit F.SNAP_STAT_ENC_ARMED false)

/-- COMPARE_UNIT_FIRE (R383): device time is at or past the compare time of an armed unit; its owner acts.
(DEDUCED: notes/assumptions 146.) -/
def execCompareUnitFire (unit : Fin 32) (s : State) : Host.Outcome State Fault Refusal :=
  onDevice s fun s =>
    let u := unit.val
    let o := s.owner (13 + u)
    let i := s.ownerInst (13 + u)
    if !s.on F.TK_CMP_S_HI_ARMED u || decide (s.nowNs < s.compareTime u) then s
    else if o = ownLaunch then s.launchHead i true
    else if o = ownCamera then s.fireTrigger i
    else if o = ownSnapshot then s.fireSnapTime u
    else s

/-! ### The latch (R434, R435) -/

/-- The place of a register's block among the lags of a firing: blocks SYS to DET, looms, mills. -/
def regPlace (a : Nat) : Nat :=
  if a < 0x3F01000000 then (a - 0x3F00000000) / 0x100000
  else if a < 0x3F02000000 then 15 + (a - 0x3F01000000) / 0x10000
  else 79 + (a - 0x3F02000000) / 0x10000

/-- What a block that the token reached `lag` ns after the firing has copied: its registers as the nanosecond before left them,
since an update in the token's own cycle is seen after the latch (R434). (DEDUCED: notes/assumptions 114.) -/
def State.latched (s : State) (place lag : Nat) : Tbl Word :=
  (s.snap.trail.getD (lag - 1) s.shownRegs).filter fun (x : Nat × Word) => regPlace x.1 == place

/-- The registers of a ring entry, each block's from the moment of its latch; the device time is that of the latch (R434). -/
def State.latchRegs (s : State) (e : Snap) (lags : List Nat) : Tbl Word :=
  let at' := e.time + lags.getD (regPlace (R.TK_TIME_NS.addr 0 0)) 0 * nsUnit
  tset ((List.range 83).flatMap fun p => s.latched p (lags.getD p 0)) (R.TK_TIME_NS.addr 0 0) (w32 (timeNs at'))

/-- SNAP_LATCH_DONE (R434, R435): every block has latched; `lags` are the ns from the firing to each block's latch, blocks SYS
to DET, looms, mills, each at most 200. (DEDUCED: notes/assumptions 115.) -/
def execSnapLatchDone (lags : List Nat) (s : State) : Host.Outcome State Fault Refusal :=
  onDevice s fun s =>
    match s.snap.taking with
    | none => s
    | some n =>
      match tget? s.snap.ring n with
      | none => s
      | some e =>
        let at' := lags.map (min 200)
        let t : State := { s with snap := { s.snap with
          taking := none, trail := [], ring := tset s.snap.ring n { e with lag := at', regs := s.latchRegs e at' } } }
        (((t.put F.SNAP_STAT_VALID (setBits (t.get F.SNAP_STAT_VALID) n 1 1)).putBit F.SNAP_STAT_BUSY false)).raise
          F.HOST_IBI_CAUSE_SNAP

/-- SNAP_HOLDOFF_EXPIRE (R435): the merge window closes. -/
def execSnapHoldoffExpire (s : State) : Host.Outcome State Fault Refusal :=
  onDevice s fun s => { s with snap := { s.snap with holdoff := false } }

/-! ### Reading (R436) -/

/-- Every defined register inside a range of addresses, in ascending order. -/
def regsIn (base size : Nat) : List (Nat × Nat) :=
  let all := regTable.flatMap fun (r : Reg) => (List.range r.count).flatMap fun i => (List.range r.count2).map fun j =>
    (r.addr i j, r.reset i j)
  let here := all.filter fun (x : Nat × Nat) => decide (base ≤ x.1) && decide (x.1 < base + size)
  here.foldl (fun a x => insertBefore (fun (y : Nat × Nat) => decide (x.1 < y.1)) x a) []

/-- The words of a block's registers: offset and value pairs. -/
def Snap.pairs (e : Snap) (base : Nat) (rs : List (Nat × Nat)) : List Word :=
  rs.flatMap fun (x : Nat × Nat) => [w32 (x.1 - base), (tget? e.regs x.1).getD (w32 x.2)]

/-- One block's packet: the block's number, instance, base and size, its place among the lags, and whether only the
registers open for a fenced loom follow. -/
def Snap.packet (e : Snap) (idx block inst base size place : Nat) (fenced : Bool) : List Word :=
  let open' : List Nat := [R.LOOM_ID.addr inst 0, R.LOOM_PACE.addr inst 0, R.LOOM_PACE_MIN.addr inst 0]
  let rs := (regsIn base size).filter fun (x : Nat × Nat) => !fenced || open'.contains x.1
  let at' := e.time + e.lag.getD place 0 * nsUnit
  let ws := [w32 (idx + 2 ^ 8 * block + 2 ^ 16 * inst + 2 ^ 24 * bit fenced), w32 e.seq] ++ timeWords at' ++
    [w32 e.sources, w32 rs.length] ++ e.pairs base rs
  ws ++ [crcWords ws]

/-- The packets of an entry for a mask, in base-address order. -/
def Snap.packets (e : Snap) (idx mask : Nat) : List (List Word) :=
  ((maskList 15 mask).map fun b => e.packet idx b 0 (0x3F00000000 + b * 0x100000) 0x100000 b false) ++
    (if bitAt mask 15 then (List.range 64).map fun n =>
      e.packet idx 15 n (0x3F01000000 + n * 0x10000) 0x10000 (15 + n) (bitAt e.fenced n) else []) ++
    (if bitAt mask 16 then (List.range 4).map fun m =>
      e.packet idx 16 m (0x3F02000000 + m * 0x10000) 0x10000 (79 + m) false else [])

/-- CMD_SNAP_READ (R436). -/
def execCmdSnapRead (src : Source) (s : State) : Host.Outcome State Fault Refusal :=
  runCmd s src 0x0A03 fun s c =>
    let n := c.p 1
    match tget? s.snap.ring n with
    | none => refuse s .badParam
    | some e =>
      if 7 < n ∨ bitAt (s.get F.SNAP_STAT_VALID) n = false then refuse s .badParam
      else if s.snap.taking = some n then refuse s .busy
      else ({ s with snap := { s.snap with reads := s.snap.reads ++ [(src, n, bitsOf (c.p 2) 0 17, e.seq)] } }, .begun)

/-- End the read of a source with a status. -/
def State.endRead (s : State) (src : Source) (st : Status) : State :=
  match s.host.running.find? (fun e => e.1 == src && e.2.opcode == 0x0A03) with
  | some e => s.finish e st
  | none => s

/-- SNAP_READ_DONE (R436): the oldest read sends its packets; one that meets an entry being overwritten ends with BUSY.
(DEDUCED: notes/assumptions 118.) -/
def execSnapReadDone (s : State) : Host.Outcome State Fault Refusal :=
  onDevice s fun s =>
    match s.snap.reads with
    | [] => s
    | (src, n, mask, seq) :: rest =>
      let t : State := { s with snap := { s.snap with reads := rest } }
      match tget? t.snap.ring n with
      | none => t.endRead src .busy
      | some e =>
        if t.snap.taking = some n ∨ e.seq ≠ seq then t.endRead src .busy
        else (foldState State.sendSnap t (e.packets n mask)).endRead src .done

/-- CMD_TRACE_SET (R437). (DEDUCED: notes/assumptions 116.) -/
def execCmdTraceSet (src : Source) (s : State) : Host.Outcome State Fault Refusal :=
  runCmd s src 0x0A04 fun s c =>
    if 65535 < c.p 2 then refuse s .badParam
    else doneWith { s with snap := { s.snap with traceSrc := bitsOf (c.p 1) 3 5 * 8, traceRate := c.p 2 } }

end Sys2Proof.Machine
end

