-- ==== Sys2Proof/Machine/Dispatch.lean ====
section
/-! DEFINITION. What each command does to the state (everything but the queue): one arm for each row of the opcode
table, each a direct call of that row's meaning. -/

namespace Sys2Proof.Machine

def exec (i : Instr) (s : State) : Host.Outcome State Fault Refusal :=
  match i with
  | .i3cPrivateWrite data => Sys2Proof.Machine.execI3cPrivateWrite data s
  | .i3cPrivateRead count => Sys2Proof.Machine.execI3cPrivateRead count s
  | .hdrDdrTransfer code data count crcOk => Sys2Proof.Machine.execHdrDdrTransfer code data count crcOk s
  | .enec dest => Sys2Proof.Machine.execEnec dest s
  | .disec dest => Sys2Proof.Machine.execDisec dest s
  | .rstdaa => Sys2Proof.Machine.execRstdaa s
  | .entdaa address => Sys2Proof.Machine.execEntdaa address s
  | .setaasa => Sys2Proof.Machine.execSetaasa s
  | .setdasa address => Sys2Proof.Machine.execSetdasa address s
  | .setnewda address => Sys2Proof.Machine.execSetnewda address s
  | .setmwl dest limit => Sys2Proof.Machine.execSetmwl dest limit s
  | .setmrl dest limit => Sys2Proof.Machine.execSetmrl dest limit s
  | .getmwl => Sys2Proof.Machine.execGetmwl s
  | .getmrl => Sys2Proof.Machine.execGetmrl s
  | .getpid => Sys2Proof.Machine.execGetpid s
  | .getbcr => Sys2Proof.Machine.execGetbcr s
  | .getdcr => Sys2Proof.Machine.execGetdcr s
  | .getstatus => Sys2Proof.Machine.execGetstatus s
  | .getmxds => Sys2Proof.Machine.execGetmxds s
  | .getcaps => Sys2Proof.Machine.execGetcaps s
  | .enthdr0 => Sys2Proof.Machine.execEnthdr0 s
  | .entas level => Sys2Proof.Machine.execEntas level s
  | .rstact dest defining => Sys2Proof.Machine.execRstact dest defining s
  | .cccUnlisted dest code => Sys2Proof.Machine.execCccUnlisted dest code s
  | .hostIbiCauseWrite value => Sys2Proof.Machine.execHostIbiCauseWrite value s
  | .mbxH2dGoWrite value => Sys2Proof.Machine.execMbxH2dGoWrite value s
  | .mbxWake => Sys2Proof.Machine.execMbxWake s
  | .mbxD2hGoRead => Sys2Proof.Machine.execMbxD2hGoRead s
  | .mbxWatchdogExpire => Sys2Proof.Machine.execMbxWatchdogExpire s
  | .hostRxCommand packet => Sys2Proof.Machine.execHostRxCommand packet s
  | .hostRxBulk packet => Sys2Proof.Machine.execHostRxBulk packet s
  | .bulkTmoExpire what => Sys2Proof.Machine.execBulkTmoExpire what s
  | .verdictHoldExpire => Sys2Proof.Machine.execVerdictHoldExpire s
  | .hostTxMapWrite value => Sys2Proof.Machine.execHostTxMapWrite value s
  | .hostTxVcWrite index value => Sys2Proof.Machine.execHostTxVcWrite index value s
  | .registerWrite address value => Sys2Proof.Machine.execRegisterWrite address value s
  | .blockLockWrite address value => Sys2Proof.Machine.execBlockLockWrite address value s
  | .cmdNop src => Sys2Proof.Machine.execCmdNop src s
  | .cmdGetInfo src => Sys2Proof.Machine.execCmdGetInfo src s
  | .cmdReset src => Sys2Proof.Machine.execCmdReset src s
  | .resetBegin => Sys2Proof.Machine.execResetBegin s
  | .cmdSetVcore src => Sys2Proof.Machine.execCmdSetVcore src s
  | .cmdCamEnable src => Sys2Proof.Machine.execCmdCamEnable src s
  | .cmdCamDisable src => Sys2Proof.Machine.execCmdCamDisable src s
  | .cmdCamTrigger src => Sys2Proof.Machine.execCmdCamTrigger src s
  | .cmdPipeConfig src => Sys2Proof.Machine.execCmdPipeConfig src s
  | .cmdPipeTable src => Sys2Proof.Machine.execCmdPipeTable src s
  | .cmdTapSet src => Sys2Proof.Machine.execCmdTapSet src s
  | .cmdStatsSet src => Sys2Proof.Machine.execCmdStatsSet src s
  | .cmdProvTableSet src => Sys2Proof.Machine.execCmdProvTableSet src s
  | .cmdFinderEnable src => Sys2Proof.Machine.execCmdFinderEnable src s
  | .cmdFinderDisable src => Sys2Proof.Machine.execCmdFinderDisable src s
  | .cmdLaneSet src => Sys2Proof.Machine.execCmdLaneSet src s
  | .cmdClassMapSet src => Sys2Proof.Machine.execCmdClassMapSet src s
  | .cmdSampleConfig src => Sys2Proof.Machine.execCmdSampleConfig src s
  | .cmdBobbinRead src => Sys2Proof.Machine.execCmdBobbinRead src s
  | .cmdModelRegister src => Sys2Proof.Machine.execCmdModelRegister src s
  | .cmdModelUnregister src => Sys2Proof.Machine.execCmdModelUnregister src s
  | .cmdModelPin src => Sys2Proof.Machine.execCmdModelPin src s
  | .cmdPartitionCreate src => Sys2Proof.Machine.execCmdPartitionCreate src s
  | .cmdPartitionDelete src => Sys2Proof.Machine.execCmdPartitionDelete src s
  | .cmdJobStart src => Sys2Proof.Machine.execCmdJobStart src s
  | .cmdJobStop src => Sys2Proof.Machine.execCmdJobStop src s
  | .cmdJobCancel src => Sys2Proof.Machine.execCmdJobCancel src s
  | .cmdJobPreempt src => Sys2Proof.Machine.execCmdJobPreempt src s
  | .cmdJobResume src => Sys2Proof.Machine.execCmdJobResume src s
  | .cmdLearnCommit src => Sys2Proof.Machine.execCmdLearnCommit src s
  | .cmdArithProfileSet src => Sys2Proof.Machine.execCmdArithProfileSet src s
  | .cmdMemRead src flaws => Sys2Proof.Machine.execCmdMemRead src flaws s
  | .cmdMemWrite src => Sys2Proof.Machine.execCmdMemWrite src s
  | .cmdMemFill src => Sys2Proof.Machine.execCmdMemFill src s
  | .cmdScrubSet src => Sys2Proof.Machine.execCmdScrubSet src s
  | .cmdTimeRead src => Sys2Proof.Machine.execCmdTimeRead src s
  | .cmdTimeDomainSet src => Sys2Proof.Machine.execCmdTimeDomainSet src s
  | .cmdTimeSelect src => Sys2Proof.Machine.execCmdTimeSelect src s
  | .cmdEthConfig src => Sys2Proof.Machine.execCmdEthConfig src s
  | .cmdLaunchEnable src => Sys2Proof.Machine.execCmdLaunchEnable src s
  | .cmdLaunchDisable src => Sys2Proof.Machine.execCmdLaunchDisable src s
  | .cmdFiConfig src => Sys2Proof.Machine.execCmdFiConfig src s
  | .cmdFoAssign src => Sys2Proof.Machine.execCmdFoAssign src s
  | .cmdFoRelease src => Sys2Proof.Machine.execCmdFoRelease src s
  | .cmdFoSet src => Sys2Proof.Machine.execCmdFoSet src s
  | .cmdEncConfig src => Sys2Proof.Machine.execCmdEncConfig src s
  | .cmdEjectLeadSet src => Sys2Proof.Machine.execCmdEjectLeadSet src s
  | .cmdStopClear src => Sys2Proof.Machine.execCmdStopClear src s
  | .cmdSafeValuesSet src => Sys2Proof.Machine.execCmdSafeValuesSet src s
  | .cmdTwinRole src => Sys2Proof.Machine.execCmdTwinRole src s
  | .cmdTwinStatus src => Sys2Proof.Machine.execCmdTwinStatus src s
  | .cmdTwinHandover src => Sys2Proof.Machine.execCmdTwinHandover src s
  | .cmdLaneTest src => Sys2Proof.Machine.execCmdLaneTest src s
  | .cmdFwLoad src => Sys2Proof.Machine.execCmdFwLoad src s
  | .cmdFwChunk src => Sys2Proof.Machine.execCmdFwChunk src s
  | .cmdAttestOpen src => Sys2Proof.Machine.execCmdAttestOpen src s
  | .cmdAttest src => Sys2Proof.Machine.execCmdAttest src s
  | .cmdLcTransition src => Sys2Proof.Machine.execCmdLcTransition src s
  | .cmdSnapTrigger src => Sys2Proof.Machine.execCmdSnapTrigger src s
  | .cmdSnapConfig src => Sys2Proof.Machine.execCmdSnapConfig src s
  | .cmdSnapRead src => Sys2Proof.Machine.execCmdSnapRead src s
  | .cmdTraceSet src => Sys2Proof.Machine.execCmdTraceSet src s
  | .camFrameStart port vc corrected => Sys2Proof.Machine.execCamFrameStart port vc corrected s
  | .camFrameEnd port vc corrected => Sys2Proof.Machine.execCamFrameEnd port vc corrected s
  | .camLongPacket port packet => Sys2Proof.Machine.execCamLongPacket port packet s
  | .holeExpire port => Sys2Proof.Machine.execHoleExpire port s
  | .lineRetainPass port => Sys2Proof.Machine.execLineRetainPass port s
  | .pipeInlineLineDone q => Sys2Proof.Machine.execPipeInlineLineDone q s
  | .pipeBlockStart q => Sys2Proof.Machine.execPipeBlockStart q s
  | .pipeBlockDone q => Sys2Proof.Machine.execPipeBlockDone q s
  | .pitchTrigger rule => Sys2Proof.Machine.execPitchTrigger rule s
  | .fieldUpFrameRx slot => Sys2Proof.Machine.execFieldUpFrameRx slot s
  | .fieldDownFrameRx slot => Sys2Proof.Machine.execFieldDownFrameRx slot s
  | .fieldLinkDown up => Sys2Proof.Machine.execFieldLinkDown up s
  | .fieldResend up => Sys2Proof.Machine.execFieldResend up s
  | .fieldEntryA => Sys2Proof.Machine.execFieldEntryA s
  | .fieldEntryB => Sys2Proof.Machine.execFieldEntryB s
  | .fieldEntryC => Sys2Proof.Machine.execFieldEntryC s
  | .fieldCfgMsg => Sys2Proof.Machine.execFieldCfgMsg s
  | .fieldTableClear => Sys2Proof.Machine.execFieldTableClear s
  | .fieldStopClearMsg => Sys2Proof.Machine.execFieldStopClearMsg s
  | .fieldResyncMsg => Sys2Proof.Machine.execFieldResyncMsg s
  | .amendArrive => Sys2Proof.Machine.execAmendArrive s
  | .closeMatch entry => Sys2Proof.Machine.execCloseMatch entry s
  | .ejectMatch entry => Sys2Proof.Machine.execEjectMatch entry s
  | .pulseEnd entry => Sys2Proof.Machine.execPulseEnd entry s
  | .entryTmoExpire entry => Sys2Proof.Machine.execEntryTmoExpire entry s
  | .safeStateExit => Sys2Proof.Machine.execSafeStateExit s
  | .fieldAckReport => Sys2Proof.Machine.execFieldAckReport s
  | .fieldRefuseReport => Sys2Proof.Machine.execFieldRefuseReport s
  | .fieldAcceptReport => Sys2Proof.Machine.execFieldAcceptReport s
  | .fieldRejectReport => Sys2Proof.Machine.execFieldRejectReport s
  | .fieldCloseReport => Sys2Proof.Machine.execFieldCloseReport s
  | .fieldEjectReport => Sys2Proof.Machine.execFieldEjectReport s
  | .fieldLatchReport => Sys2Proof.Machine.execFieldLatchReport s
  | .fieldIndexReport => Sys2Proof.Machine.execFieldIndexReport s
  | .fieldSyncReport => Sys2Proof.Machine.execFieldSyncReport s
  | .fieldFiStateReport => Sys2Proof.Machine.execFieldFiStateReport s
  | .fieldStatusReport => Sys2Proof.Machine.execFieldStatusReport s
  | .fieldSpeedReport => Sys2Proof.Machine.execFieldSpeedReport s
  | .fieldResyncReport => Sys2Proof.Machine.execFieldResyncReport s
  | .fieldPowerUp => Sys2Proof.Machine.execFieldPowerUp s
  | .fieldPowerDown => Sys2Proof.Machine.execFieldPowerDown s
  | .fiEdge input level => Sys2Proof.Machine.execFiEdge input level s
  | .debounceExpire input => Sys2Proof.Machine.execDebounceExpire input s
  | .encQuadEdge ch levels clocks => Sys2Proof.Machine.execEncQuadEdge ch levels clocks s
  | .encZEdge ch => Sys2Proof.Machine.execEncZEdge ch s
  | .encLineFault ch fault => Sys2Proof.Machine.execEncLineFault ch fault s
  | .ssiRead raw idleHigh clocks => Sys2Proof.Machine.execSsiRead raw idleHigh clocks s
  | .outputOverload output => Sys2Proof.Machine.execOutputOverload output s
  | .outputFaultRetry output persists => Sys2Proof.Machine.execOutputFaultRetry output persists s
  | .syncSnapshot => Sys2Proof.Machine.execSyncSnapshot s
  | .statusPeriodic => Sys2Proof.Machine.execStatusPeriodic s
  | .speedPeriodic ch idle => Sys2Proof.Machine.execSpeedPeriodic ch idle s
  | .fieldRegisterWrite address value => Sys2Proof.Machine.execFieldRegisterWrite address value s
  | .bobAgeExpire bobbin => Sys2Proof.Machine.execBobAgeExpire bobbin s
  | .bobAgeLimitWrite value => Sys2Proof.Machine.execBobAgeLimitWrite value s
  | .stripeTaskIssue part loom => Sys2Proof.Machine.execStripeTaskIssue part loom s
  | .stripeTaskRetire loom bobbin token stripe arrival => Sys2Proof.Machine.execStripeTaskRetire loom bobbin token stripe arrival s
  | .latestStartReached part => Sys2Proof.Machine.execLatestStartReached part s
  | .fillWaitExpire part => Sys2Proof.Machine.execFillWaitExpire part s
  | .sampleBatchWaitExpire part => Sys2Proof.Machine.execSampleBatchWaitExpire part s
  | .batchStepStart part => Sys2Proof.Machine.execBatchStepStart part s
  | .batchStepDone part projections blocks heads gradients => Sys2Proof.Machine.execBatchStepDone part projections blocks heads gradients s
  | .optimiserStepStart part => Sys2Proof.Machine.execOptimiserStepStart part s
  | .optimiserStepDone part => Sys2Proof.Machine.execOptimiserStepDone part s
  | .wload loom engine words aux => Sys2Proof.Machine.execWload loom engine words aux s
  | .mm loom engine words aux => Sys2Proof.Machine.execMm loom engine words aux s
  | .mmt loom engine words aux => Sys2Proof.Machine.execMmt loom engine words aux s
  | .conv loom engine words aux => Sys2Proof.Machine.execConv loom engine words aux s
  | .dw loom engine words aux => Sys2Proof.Machine.execDw loom engine words aux s
  | .vprog loom engine words aux => Sys2Proof.Machine.execVprog loom engine words aux s
  | .lfetch loom engine words aux => Sys2Proof.Machine.execLfetch loom engine words aux s
  | .shuttle loom engine words aux => Sys2Proof.Machine.execShuttle loom engine words aux s
  | .shuttleComplete loom transfer => Sys2Proof.Machine.execShuttleComplete loom transfer s
  | .signal loom engine words aux => Sys2Proof.Machine.execSignal loom engine words aux s
  | .wait loom engine words aux => Sys2Proof.Machine.execWait loom engine words aux s
  | .endInstr loom engine words aux => Sys2Proof.Machine.execEndInstr loom engine words aux s
  | .fenceWindowExpire => Sys2Proof.Machine.execFenceWindowExpire s
  | .paceWindow rates => Sys2Proof.Machine.execPaceWindow rates s
  | .rreqReceive => Sys2Proof.Machine.execRreqReceive s
  | .rrespReceive => Sys2Proof.Machine.execRrespReceive s
  | .remoteTmoExpire part shuttle => Sys2Proof.Machine.execRemoteTmoExpire part shuttle s
  | .modelResident model => Sys2Proof.Machine.execModelResident model s
  | .preemptComplete part => Sys2Proof.Machine.execPreemptComplete part s
  | .resumeComplete part => Sys2Proof.Machine.execResumeComplete part s
  | .modelCacheReload model unit => Sys2Proof.Machine.execModelCacheReload model unit s
  | .hostRxModelChunk packet => Sys2Proof.Machine.execHostRxModelChunk packet s
  | .hostRxSample packet => Sys2Proof.Machine.execHostRxSample packet s
  | .sampleDecodeStart seq => Sys2Proof.Machine.execSampleDecodeStart seq s
  | .sampleDecodeDone seq => Sys2Proof.Machine.execSampleDecodeDone seq s
  | .sampleDecodeLimitExpire seq => Sys2Proof.Machine.execSampleDecodeLimitExpire seq s
  | .sampleTakeBobbin => Sys2Proof.Machine.execSampleTakeBobbin s
  | .quantStatCtrlWrite part value => Sys2Proof.Machine.execQuantStatCtrlWrite part value s
  | .quantCalibEnSet part => Sys2Proof.Machine.execQuantCalibEnSet part s
  | .quantCalibEnClear part => Sys2Proof.Machine.execQuantCalibEnClear part s
  | .schedLearnHyperWrite part offset value => Sys2Proof.Machine.execSchedLearnHyperWrite part offset value s
  | .detCtrlClear => Sys2Proof.Machine.execDetCtrlClear s
  | .sramWipeDone => Sys2Proof.Machine.execSramWipeDone s
  | .ddrTrainingDone => Sys2Proof.Machine.execDdrTrainingDone s
  | .ddrWipeMarkAdvance => Sys2Proof.Machine.execDdrWipeMarkAdvance s
  | .scrubDdrAccess contended flaw => Sys2Proof.Machine.execScrubDdrAccess contended flaw s
  | .scrubSramAccess contended flaw => Sys2Proof.Machine.execScrubSramAccess contended flaw s
  | .tmrWalk rewrites lost => Sys2Proof.Machine.execTmrWalk rewrites lost s
  | .privateMemoryUe => Sys2Proof.Machine.execPrivateMemoryUe s
  | .ptpAnnounceRx dom gm => Sys2Proof.Machine.execPtpAnnounceRx dom gm s
  | .ptpSyncRx dom seq twoStep origin rate => Sys2Proof.Machine.execPtpSyncRx dom seq twoStep origin rate s
  | .ptpFollowUpRx dom seq origin rate => Sys2Proof.Machine.execPtpFollowUpRx dom seq origin rate s
  | .ptpDelayRespRx dom received => Sys2Proof.Machine.execPtpDelayRespRx dom received s
  | .ptpPdelayReqRx dom => Sys2Proof.Machine.execPtpPdelayReqRx dom s
  | .ptpPdelayRespRx dom twoStep value => Sys2Proof.Machine.execPtpPdelayRespRx dom twoStep value s
  | .ptpPdelayRespFollowUpRx dom origin => Sys2Proof.Machine.execPtpPdelayRespFollowUpRx dom origin s
  | .ptpDelayReqSend dom => Sys2Proof.Machine.execPtpDelayReqSend dom s
  | .ethRxOther port kind => Sys2Proof.Machine.execEthRxOther port kind s
  | .announceTmo dom => Sys2Proof.Machine.execAnnounceTmo dom s
  | .syncTmo dom => Sys2Proof.Machine.execSyncTmo dom s
  | .ethLinkChange port up => Sys2Proof.Machine.execEthLinkChange port up s
  | .compareUnitFire unit => Sys2Proof.Machine.execCompareUnitFire unit s
  | .timedFrameTxDone port => Sys2Proof.Machine.execTimedFrameTxDone port s
  | .ethTxtsIdRead port => Sys2Proof.Machine.execEthTxtsIdRead port s
  | .tkTimeNsRead => Sys2Proof.Machine.execTkTimeNsRead s
  | .ranozMarkerRx lane marker => Sys2Proof.Machine.execRanozMarkerRx lane marker s
  | .fallbackTimeout => Sys2Proof.Machine.execFallbackTimeout s
  | .ranozLaneLoss lane => Sys2Proof.Machine.execRanozLaneLoss lane s
  | .ranozFrameRx frame => Sys2Proof.Machine.execRanozFrameRx frame s
  | .ranozAckTmo => Sys2Proof.Machine.execRanozAckTmo s
  | .ranozNullTmo => Sys2Proof.Machine.execRanozNullTmo s
  | .creditReturnRx lane credits => Sys2Proof.Machine.execCreditReturnRx lane credits s
  | .heartbeatSend => Sys2Proof.Machine.execHeartbeatSend s
  | .heartbeatRx => Sys2Proof.Machine.execHeartbeatRx s
  | .mbxD2tGoWrite value => Sys2Proof.Machine.execMbxD2tGoWrite value s
  | .mbxFrameRx => Sys2Proof.Machine.execMbxFrameRx s
  | .mbxT2dGoRead => Sys2Proof.Machine.execMbxT2dGoRead s
  | .mbxAckRx => Sys2Proof.Machine.execMbxAckRx s
  | .mirrorRx => Sys2Proof.Machine.execMirrorRx s
  | .verdictRx => Sys2Proof.Machine.execVerdictRx s
  | .xcheckWaitExpire bobbin => Sys2Proof.Machine.execXcheckWaitExpire bobbin s
  | .twinCtlRx => Sys2Proof.Machine.execTwinCtlRx s
  | .takeoverTmo => Sys2Proof.Machine.execTakeoverTmo s
  | .handoverTmo => Sys2Proof.Machine.execHandoverTmo s
  | .linkCfgWrite value => Sys2Proof.Machine.execLinkCfgWrite value s
  | .laneTestEnd errors bits => Sys2Proof.Machine.execLaneTestEnd errors bits s
  | .powerOnReset => Sys2Proof.Machine.execPowerOnReset s
  | .rstNAssert => Sys2Proof.Machine.execRstNAssert s
  | .railFault => Sys2Proof.Machine.execRailFault s
  | .refclkStop => Sys2Proof.Machine.execRefclkStop s
  | .resetRelease straps => Sys2Proof.Machine.execResetRelease straps s
  | .resetHoldEnd straps => Sys2Proof.Machine.execResetHoldEnd straps s
  | .firmwareStart => Sys2Proof.Machine.execFirmwareStart s
  | .fwRun => Sys2Proof.Machine.execFwRun s
  | .identityDerived => Sys2Proof.Machine.execIdentityDerived s
  | .loomStartupTestDone failed => Sys2Proof.Machine.execLoomStartupTestDone failed s
  | .mgmtWatchdog => Sys2Proof.Machine.execMgmtWatchdog s
  | .thermalTrip => Sys2Proof.Machine.execThermalTrip s
  | .thermalRelease straps => Sys2Proof.Machine.execThermalRelease straps s
  | .telemetrySample sample => Sys2Proof.Machine.execTelemetrySample sample s
  | .vcoreStep => Sys2Proof.Machine.execVcoreStep s
  | .pwrAlert words => Sys2Proof.Machine.execPwrAlert words s
  | .snapLatchDone lags => Sys2Proof.Machine.execSnapLatchDone lags s
  | .snapHoldoffExpire => Sys2Proof.Machine.execSnapHoldoffExpire s
  | .ibiDelivered => Sys2Proof.Machine.execIbiDelivered s
  | .ejectTableError entry uncorrectable => Sys2Proof.Machine.execEjectTableError entry uncorrectable s
  | .partnerLost => Sys2Proof.Machine.execPartnerLost s
  | .triggerPulseEnd pin => Sys2Proof.Machine.execTriggerPulseEnd pin s
  | .memFillDone => Sys2Proof.Machine.execMemFillDone s
  | .attestOpenDone => Sys2Proof.Machine.execAttestOpenDone s
  | .attestDone => Sys2Proof.Machine.execAttestDone s
  | .learnCommitDone part => Sys2Proof.Machine.execLearnCommitDone part s
  | .snapReadDone => Sys2Proof.Machine.execSnapReadDone s
  | .lcTransitionDone => Sys2Proof.Machine.execLcTransitionDone s
  | .i3cTargetReady => Sys2Proof.Machine.execI3cTargetReady s
  | .hostCsi2Ready => Sys2Proof.Machine.execHostCsi2Ready s
  | .ethLanesStart => Sys2Proof.Machine.execEthLanesStart s

end Sys2Proof.Machine
end

