-- ==== Sys2Proof/WellFormed.lean ====
section
/-! DEFINITION. What the spec lets the outside send: the ranges that the operands' types do not give. -/

namespace Sys2Proof

/-- A host CSI-2 packet: a header in one of three conditions (R73), a virtual channel of two VC and two VCX bits (R77). -/
def RxPacket.wf (p : RxPacket) : Bool := decide (p.header < 3) && decide (p.vc < 16)

/-- A camera packet (R82): a header in one of three conditions, a virtual channel of 4 bits, a data type of 6 bits. -/
def CamPacket.wf (p : CamPacket) : Bool := decide (p.header < 3) && decide (p.vc < 16) && decide (p.dt < 64)

/-- A device address: 40 bits (R53). -/
def addressOk (a : Nat) : Bool := decide (a < 2 ^ 40)

/-- A word address: 40 bits, a multiple of 4 (R55). -/
def wordAddressOk (a : Nat) : Bool := addressOk a && a % 4 == 0

/-- The words of a loom's descriptor (R172, R179): 8 words, 16 for a convolution. -/
def descriptorOk (n : Nat) (words : List Word) : Bool := words.length == n

/-- A Ranoz frame on the wire (R386): no run of more than 31 bits stands before it. -/
def FrameWire.wf : FrameWire → Bool
  | .symbols _ => true
  | .lanes l => l.all fun x => decide (x.run < 31)

/-- The straps (R446): five bits choose the DDR5 configuration. -/
def Straps.wf (x : Straps) : Bool := decide (x.ddrCfg < 32)

/-- Whether a command's operands lie in the ranges the spec gives them; operands whose type gives the range are not listed. -/
def Instr.wf : Instr → Bool
  | .hostRxCommand p | .hostRxBulk p | .hostRxSample p | .hostRxModelChunk p => p.wf
  | .camLongPacket _ p => p.wf
  | .registerWrite a _ | .blockLockWrite a _ | .fieldRegisterWrite a _ => wordAddressOk a
  | .cmdMemRead _ flaws => flaws.all fun e => addressOk e.1
  | .schedLearnHyperWrite _ o _ => decide (o ≤ 0x18) && o % 4 == 0
  | .paceWindow rates => rates.length == 64
  | .wload _ _ w _ | .mm _ _ w _ | .mmt _ _ w _ | .vprog _ _ w _ | .lfetch _ _ w _ | .shuttle _ _ w _ | .signal _ _ w _
  | .wait _ _ w _ | .endInstr _ _ w _ => descriptorOk 8 w
  | .conv _ _ w _ | .dw _ _ w _ => descriptorOk 16 w
  | .ranozFrameRx f => f.wf
  | .resetRelease x | .resetHoldEnd x | .thermalRelease x => x.wf
  | .setmwl _ n | .setmrl _ n => decide (n < 2 ^ 16)
  | _ => true

end Sys2Proof
end

