-- ==== Sys2Proof/Safety.lean ====
section
/-! DEFINITION. What a sound state is, and the words in which the statements are written: how a command completes and what
it leaves unchanged. -/

namespace Sys2Proof.Claims

open Sys2Proof.Machine

/-! ### Sound states -/

/-- A sound state: the register file and the memories are in their canonical form (each address once, rising), and no queue
of the host link holds more than the spec lets it (R65, R76, R120). -/
structure Sound (s : State) : Prop where
  regs    : tsorted s.regs = true
  mem     : s.mem.wf = true
  replies : s.host.d2hQueue.length ≤ 64
  status  : s.host.statusQ.length ≤ 64
  stats   : s.host.statsQ.length ≤ 64
  records : s.host.records.length ≤ 4096

/-! ### How a command completes -/

/-- The device is out of reset. -/
def Live (s : State) : Prop := s.boot.held = false

/-- The I3C target answers on its bus (R57). -/
def BusUp (s : State) : Prop := Live s ∧ s.i3c.ready = true

/-- The field die is powered (R444). -/
def DieUp (s : State) : Prop := s.die.powered = true

/-- Firmware runs. -/
def FwUp (s : State) : Prop := Live s ∧ s.on F.HOST_STATUS_FW_RUN = true

/-- The command `i` answers the next state `t`. -/
def Goes (i : Instr) (s t : State) : Prop := exec i s = .next t

/-- The oldest waiting command of a source is `c`, of an opcode; it may start (R52, R70), and its bulk, if it has any, is whole
(R74). -/
def Starts (s : State) (src : Source) (op : Nat) (c : Cmd) : Prop :=
  Live s ∧ s.oldest src = some c ∧ c.opcode = op ∧ s.mayStart src op = true ∧ (c.bulkEnd = .none ∨ c.bulkEnd = .complete)

/-- The command completes at once: the device stands as `t`, and then its one reply goes out. -/
def Ends (i : Instr) (s t : State) (src : Source) (c : Cmd) (st : Status) (ws : List Word := []) : Prop :=
  Goes i s (t.reply src c st ws)

/-- The state in which a started command runs on. -/
def runs (t : State) (src : Source) (c : Cmd) : State :=
  { t with host := { t.host with running := t.host.running ++ [(src, c)] } }

/-- The command replies ACCEPTED and runs on. -/
def Begins (i : Instr) (s t : State) (src : Source) (c : Cmd) : Prop := Goes i s ((runs t src c).reply src c .accepted)

/-- The command runs on, and its one reply is still to come. -/
def Lasts (i : Instr) (s t : State) (src : Source) (c : Cmd) : Prop := Goes i s (runs t src { c with silent := true })

/-- The state of a device whose I3C bus has just carried an SDR event: the bus is out of HDR mode. -/
def sdr (s : State) : State := { s with i3c := { s.i3c with hdr := false } }

/-- The next report of the field die is `tk`, on a device out of reset. -/
def Reports (s : State) (tk : Taken) : Prop := Live s ∧ s.report? = some tk

/-- The next message for the field die is `m`, on a powered field die. -/
def DieTakes (s : State) (m : Msg) : Prop := DieUp s ∧ s.dieMsg = some m

/-- The next Ranoz frame of a type is `f`. -/
def Frames (s : State) (kind : Nat) (f : RzFrame) : Prop := Live s ∧ s.frameOf kind = some f

/-! ### What stays unchanged -/

/-- Every register but those at some addresses holds what it held. -/
def SameRegs (s t : State) (but : List Nat) : Prop := ∀ a, a ∉ but → tget? t.regs a = tget? s.regs a

/-- Nothing changes but the registers at some addresses. -/
def OnlyRegs (s t : State) (but : List Nat) : Prop := t = { s with regs := t.regs } ∧ SameRegs s t but

/-- Nothing changes but the I3C target. -/
def OnlyI3c (s t : State) : Prop := t = { s with i3c := t.i3c }

/-- The position has not yet reached the count at which an armed entry acts next: its close count, or its eject count once it is
closed. -/
def CountAhead (s : State) (e : Nat) : Prop :=
  ((s.entry e).closed = false → s.pos (s.entry e).enc < (s.entry e).close) ∧
  ((s.entry e).closed = true → s.pos (s.entry e).enc < (s.entry e).eject)

/-- Nothing changes but the field die. -/
def OnlyDie (s t : State) : Prop := t = { s with die := t.die }

/-- Every byte of memory reads as before: its value, and whether its granule is poisoned. -/
def SameBytes (s t : State) : Prop :=
  ∀ a, t.mem.byte a = s.mem.byte a ∧ t.mem.good (granBase a) = s.mem.good (granBase a)

/-- Every byte of memory outside a range reads as before. -/
def SameBytesBut (s t : State) (lo n : Nat) : Prop :=
  ∀ a, (a < lo ∨ lo + n ≤ a) → t.mem.byte a = s.mem.byte a

/-- A descriptor of a kind is placed: while a command has descriptors to fetch on the engine, its queue has room and the loom
does not stand still, it joins the queue and the loom's engines go on as far as they can. -/
def Feeds (mk : Fin 64 → Fin 4 → List Word → Aux → Instr) (kind : Nat) : Prop :=
  ∀ (s : State) (n : Fin 64) (e : Fin 4) (ws : List Word) (aux : Aux) (st : Nat), Live s → fld ws 0 0 4 = kind →
    s.frozen n.val = false → ((s.loom n.val).queue e.val).length < 512 →
    st = (s.loom n.val).nextCmd e.val →
    st < (s.loom n.val).base + (s.loom n.val).cmds.length →
    ∀ l : Loom, l = { s.loom n.val with
      queues := tset (s.loom n.val).queues e.val ((s.loom n.val).queue e.val ++ [{ words := ws, aux := aux, cmd := st }])
      fetched := tset (s.loom n.val).fetched e.val (if kind = 0xC then st + 1 else st) } →
    Goes (mk n e ws aux) s (State.settle ((s.setLoom n.val l).pumpLoom n.val))

end Sys2Proof.Claims
end

