-- ==== Sys2Proof/Certificates/Slice0/Obligations.lean ====
section
/-! DEFINITION. The statements about the block: how it steps, what each command does and leaves unchanged, and what always
holds. Unless a docstring says otherwise, a clause holds in every state that meets its hypotheses, reachable or not. -/

open Sys2Proof
open Sys2Proof.Machine
open Sys2Proof.Claims

/-! ### The machine -/

/-- A step of the block runs the command at the front of the queue, with the rest of the queue waiting. -/
def Obligations.StepRunsTheFrontCommand : Prop :=
  ∀ (c : Instr) (rest : List Instr) (s : State), s.pending = c :: rest → step s = exec c { s with pending := rest }

/-- With no command waiting, one nanosecond of the TKI passes, which is the model's choice (notes/assumptions/1.md): uptime
grows by 1, device time by 1 + r ns in units of 2^-48 ns, nothing else changes but TK_HOLDOVER and, while a snapshot trigger
travels, the trail of what the registers show (notes/assumptions/114.md); in reset time stands. -/
def Obligations.IdleStepPassesTime : Prop :=
  (∀ s : State, s.pending = [] → Live s → ∃ t, step s = .next t ∧ t.time.uptime = s.time.uptime + 1 ∧
    (t.time.now : Int) = s.time.now + max 0 (2 ^ 48 + s.time.rate) ∧
    t = { s with regs := t.regs, time := { s.time with now := t.time.now, uptime := t.time.uptime },
                 snap := { s.snap with trail := t.snap.trail } } ∧
    (s.snap.taking = none → t.snap.trail = s.snap.trail) ∧
    (s.snap.taking.isSome = true → s.snap.trail.length < 200 → t.snap.trail = s.snap.trail ++ [s.shownRegs]) ∧ SameRegs s t [R.TK_HOLDOVER.addr 0 0]) ∧
  (∀ s : State, s.pending = [] → s.boot.held = true → step s = .next s)

/-- Every command answers a next state in every state: none faults and none is refused. While the device is held in reset it changes
nothing, or it is an event of the supplies, of the reset inputs, of the field die's supply or of the field link, or it changes the
field die alone, with its copies of the critical words.
Where the spec leaves a reading open it follows the model's choices of notes/assumptions 5. -/
def Obligations.NoCommandStops : Prop :=
  (∀ (i : Instr) (s : State), ∃ t, exec i s = .next t) ∧
  (∀ (i : Instr) (s : State), s.boot.held = true →
    (exec i s = .next s) ∨
    i ∈ [.powerOnReset, .railFault, .rstNAssert, .refclkStop, .thermalTrip, .fieldPowerUp, .fieldPowerDown] ∨
    (∃ x, i = .resetRelease x ∨ i = .resetHoldEnd x ∨ i = .thermalRelease x) ∨
    (∃ e, i = .fieldUpFrameRx e ∨ i = .fieldDownFrameRx e) ∨ (∃ b, i = .fieldLinkDown b ∨ i = .fieldResend b) ∨
    (∃ t, exec i s = .next t ∧ t = { s with die := t.die, copies := t.copies }))

/-- The state at reset is sound. -/
def Obligations.ResetIsSound : Prop := Sound State.reset

/-- Every step keeps a sound state sound: the register file and the memories keep their canonical form, and no queue of the
host link outgrows its bound. -/
def Obligations.EveryStepKeepsSound : Prop := ∀ s t : State, Sound s → step s = .next t → Sound t

/-- What the loom instructions compute (R153, R155 to R157, R161, R165, R166, R169, R172, R175, R178, R179, R182 to R185, R259, R294).
Integer and codebook sums are exact, and a sum beyond 48 bits is INT_OVF; a float sum under NATIVE takes its terms in order, one
rounding each. A WLOAD fills its group's back registers with the tile. An MM or MMT joins, for each streamed vector and each output,
the vector's operands with the tile's cells of that output's column (MM) or row (MMT) to the accumulator, which starts anew or goes on
from the last; the epilogue's rows are stored where ACC_OUT says so; with a fault met the accumulators are poisoned. A CONV or DW
reads for each tap the input position of R182, or what PAD_MODE puts there, sums over slices and taps, and writes the epilogue's
pixels to the output tile. A VPROG stores what its program makes of each row, or of the sum of the partial rows.
Where the spec leaves a reading open it follows the model's choices of notes/assumptions 61, 62, 63, 64, 65, 66, 190, 191, 196. -/
def Obligations.LoomArithmetic : Prop :=
  (∀ (r : Reading) (e : Int) (c : Nat), (r.mode = 0 → r.wInt e c = signed 8 c) ∧ (r.mode = 1 → r.wInt e c = signed 4 c) ∧
    (modeBook r.mode = true → r.wInt e c = e) ∧ (r.uns = false → r.aInt c = signed 8 c) ∧ (r.uns = true → r.aInt c = (c % 256 : Nat))) ∧
  (∀ (r : Reading) (tree : Bool) (acc : Acc) (ts : List Term) (z : Int), modeFloat r.mode = false →
    z = acc.sum + (ts.map fun t => r.wInt t.entry t.w * r.aInt (t.a.getD 0)).sum →
    (joinPass r tree acc ts).1.sum = z ∧ ((joinPass r tree acc ts).2.ovf = true ↔ z < -2 ^ 47 ∨ 2 ^ 47 ≤ z) ∧
    ((joinPass r tree acc ts).1.bad = false ↔
      acc.bad = false ∧ (∀ t ∈ ts, t.a.isSome = true ∧ t.bad = false) ∧ -2 ^ 47 ≤ z ∧ z < 2 ^ 47)) ∧
  (∀ (r : Reading) (acc : Acc) (ts : List Term), modeFloat r.mode = true →
    (∀ t ∈ ts, t.a.isSome = true ∧ t.bad = false ∧ ((r.fmt r.aE5M2).val (t.a.getD 0)).special = false ∧
      ((r.fmt r.wE5M2).val t.w).special = false) →
    (joinPass r false acc ts).1.sum = (ts.foldl (fun (a : Nat) t =>
      fmaVal ((r.fmt r.aE5M2).val (t.a.getD 0)) ((r.fmt r.wE5M2).val t.w) (val32 a)) acc.sum.toNat : Nat)) ∧
  (∀ (s : State) (n : Nat) (q : QIns) (d : Data), wloadOk q.words = true → (s.runWload n q d).2 = .done ∧
    (((s.runWload n q d).1.loom n).group (fld q.words 0 6 2)).back = some (wloadTile q.words d)) ∧
  (∀ (ws : List Word) (d : Data) (i j : Nat), i < fld ws 2 0 7 → j < fld ws 2 8 7 →
    ((wloadTile ws d).cells.getD i [])[j]? =
      some (((packedAt (wBits (fld ws 0 8 4)) d (i * fld ws 2 8 7 + j)).map fun c => (c, false)).getD (0, true))) ∧
  (∀ (x : MmIns) (l : Loom) (n o i : Nat) (t : Tile) (v : Data) (c : Nat) (b : Bool), i < x.len →
    (t.cells.getD (if x.weft then o else i) [])[if x.weft then i else o]? = some (c, b) →
    x.len = (if x.weft then x.cols else x.rows) ∧ x.outs = (if x.weft then x.rows else x.cols) ∧
    (modeBook x.rd.mode = false → (x.terms l n t v o)[i]? = some { a := packedAt (8 * aBytes x.rd.mode) v i, w := c, bad := b }) ∧
    (modeBook x.rd.mode = true → ∀ y, y = l.entry n (x.first + if x.weft then i else o) c →
      (x.terms l n t v o)[i]? = some { a := packedAt (8 * aBytes x.rd.mode) v i, w := c, bad := b || y.2, entry := y.1 })) ∧
  (∀ (x : MmIns) (tree : Bool) (l : Loom) (n m o : Nat) (t : Tile) (v : Data), o < x.outs →
    (x.rowAccs tree l n t m v).1[o]? = some (joinPass x.rd tree
      (if x.accIn then tgetD l.accs (x.acc m o) (freshAcc x.rd.mode) else freshAcc x.rd.mode) (x.terms l n t v o)).1) ∧
  (∀ (s a : State) (n : Nat) (q : QIns) (x : MmIns) (t : Tile) (vs : State × List Data) (rs : List (List Acc × Faults)),
    x = mmIns q.words → x.ok q.words q.aux = true →
    (if x.keep then ((s.loom n).group x.group).front else ((s.loom n).group x.group).back) = some t →
    t.mode = x.rd.mode → t.split = x.split → x.classOk (s.loom n).accs = true →
    a = (if x.keep then s else s.swapIn n x.group x.first (groupWidth x.split) t) →
    vs = a.readRows x.aStride x.vecBytes x.m (scratch n x.aBase) →
    rs = vs.2.zipIdx.map (fun e => x.rowAccs (s.profile == 2) (a.loom n) n t e.2 e.1) →
    (q.aux.parity = false → (∀ r ∈ rs, r.2.any = false) → ∃ u, s.runMm n q = (u, .done) ∧
      (∀ m o, m < x.m → o < x.outs → ∃ r c, rs[m]? = some r ∧ r.1[o]? = some c ∧ tget? (u.loom n).accs (x.acc m o) = some c) ∧
      (x.accOut = false → u.mem = vs.1.mem) ∧
      (x.accOut = true → ∀ b : State, b = State.putBit (vs.1.setLoom n { vs.1.loom n with accs := (u.loom n).accs })
          F.LOOM_ARRAY_CFG_AXIS x.weft n →
        u.mem = (State.writeRows n x.oBase q.aux.stride b (rs.map fun r => (auxStore q.aux (epilogue x.epi r.1)).1)).mem)) ∧
    ((q.aux.parity = true ∨ ∃ r ∈ rs, r.2.any = true) → ∃ u, s.runMm n q = (u, .poisoned) ∧
      ∀ m o, m < x.m → o < x.outs → ∃ c, tget? (u.loom n).accs (x.acc m o) = some c ∧ c.bad = true)) ∧
  (∀ (epi : Nat) (cs : List Acc), ((∃ c ∈ cs, c.bad = true) → epilogue epi cs = cs.map fun _ => none) ∧
    ((∀ c ∈ cs, c.bad = false) → epilogue epi cs = (vecRun (Config.vecProgram epi) (cs.map (·.word))).map some)) ∧
  (∀ (x : ConvIns) (ox oy kx ky : Nat) (px py : Int), px = x.stride * ox - x.padL + x.dil * kx → py = x.stride * oy - x.padT + x.dil * ky →
    (0 ≤ px → px < x.inW → 0 ≤ py → py < x.inH → x.tap ox oy kx ky = some (px.toNat, py.toNat)) ∧
    ((px < 0 ∨ x.inW ≤ px ∨ py < 0 ∨ x.inH ≤ py) →
      (x.padMode = 0 ∨ x.padMode = 3 → x.tap ox oy kx ky = none) ∧
      (x.padMode = 1 → x.tap ox oy kx ky = some ((clampCoord px x.inW).toNat, (clampCoord py x.inH).toNat)) ∧
      (x.padMode = 2 → x.tap ox oy kx ky = some ((mirrorCoord px x.inW).toNat, (mirrorCoord py x.inH).toNat)))) ∧
  (∀ (x : ConvIns) (m : Memory) (n ox oy kx ky ch : Nat),
    (x.tap ox oy kx ky = none → x.code m n ox oy kx ky ch =
      some (if x.padMode = 3 then x.padVal % 2 ^ (8 * aBytes x.rd.mode) else 0)) ∧
    (∀ p, x.tap ox oy kx ky = some p → x.code m n ox oy kx ky ch = packedAt (8 * aBytes x.rd.mode)
      (m.peek (scratch n (x.aBase + p.2 * x.aLine + p.1 * x.aPix + ch * aBytes x.rd.mode)) (aBytes x.rd.mode)) 0)) ∧
  (∀ (x : ConvIns) (m : Memory) (l : Loom) (tree : Bool) (n : Nat) (w : Data) (ox oy oc : Nat), modeFloat x.rd.mode = false →
    (x.acc m l tree n w ox oy oc).1.sum = (((List.range x.slices).flatMap fun sl => (List.range x.k).flatMap fun ky =>
      (List.range x.k).map fun kx => ((x.terms m l n w ox oy oc sl ky kx).map fun t =>
        x.rd.wInt t.entry t.w * x.rd.aInt (t.a.getD 0)).sum)).sum) ∧
  (∀ (s a b : State) (n : Nat) (q : QIns) (w : Data) (x : ConvIns) (l : Loom), x = convIns q.words → x.ok q.words q.aux = true →
    ((s.loom n).split ≠ x.split ∨ ((s.loom n).group x.group).back = none) → a = (s.reshape n x.split).touchTaps n x →
    l = (if x.cb then (a.loom n).swapBook x.first (groupWidth x.split)
      (loadBook x.cbChan x.cbLarge x.cout (w.drop (roundUp x.allTiles 64))) else a.loom n) →
    b = (a.setLoom n { l with shed := x.lastWindow a.mem n }).keepLines n x → q.aux.parity = false →
    (∀ ox oy oc, ox < x.outW → oy < x.outH → oc < x.cout → (x.acc a.mem l (s.profile == 2) n w ox oy oc).2.any = false) →
    ∃ u, s.runConv n q w = (u, .done) ∧
      u.mem = (b.writeTile n x ((List.range x.outH).map fun oy => (List.range x.outW).map fun ox =>
        (auxStore q.aux (epilogue x.epi ((List.range x.cout).map fun oc => (x.acc a.mem l (s.profile == 2) n w ox oy oc).1))).1)).mem) ∧
  (∀ (s : State) (n len : Nat) (q : QIns) (x : MmIns) (vs : State × List (Option (List Word))), x = mmIns q.words →
    len = (if x.aStride = 0 then 64 else x.aStride) → plainBits q.words maskMm = true → 1 ≤ x.m → x.m ≤ 1024 → x.aBase % 64 = 0 →
    x.aStride % 64 = 0 → x.oBase % 64 = 0 → x.aBase + (x.m - 1) * x.aStride + len ≤ scratchLen →
    x.oBase + x.m * q.aux.stride ≤ scratchLen → vs = (s.noteReduce n x q).vprogRows n x q.aux len x.m →
    (s.runVprog n q).2 = (if vs.2.all (·.isSome) then .done else .poisoned) ∧
    (s.runVprog n q).1.mem = (State.writeRows n x.oBase q.aux.stride vs.1
      (vs.2.map fun r => (auxStore q.aux (vprogElems q.aux r)).1)).mem) ∧
  (∀ (s : State) (n len m : Nat) (x : MmIns) (aux : Aux), s.partialsOf n aux m = [] →
    ∀ d, d = (s.readData (scratch n (x.aBase + m * x.aStride)) len).2 →
    (s.vprogRow n x aux len m).2 = if dataGood d then some (Config.vecInput x.epi (dataBytes d)) else none) ∧
  (∀ (s : State) (n m : Nat) (aux : Aux), (s.splitsSums n = true ∨ s.floatOn n = false) → s.partialsOf n aux m = aux.partials.getD m []) ∧
  (∀ x y : Int, tokAdd false (some x) (some y) = some (x + y) ∧
    tokAdd true (some x) (some y) = some (add32 x.toNat y.toNat : Nat))

/-- What reset leaves: the placement of the transmit channels (R77), the notification mask, the mailbox and bulk timeouts, the
boot ROM running, the owners of the resources (R49), and every word of memory poisoned (R56). That every granule of the address
space reads as poisoned from reset on, before the wipe too, and that the data under a poisoned granule are 0 and its check byte
0xFF, at every address, are the model's choices of notes/assumptions 35 and 113, after what the wipe writes (R304, R305, R316). -/
def Obligations.ResetValues : Prop :=
  State.reset.reg R.HOST_IBI_EN = 0xFFB ∧ State.reset.reg R.HOST_CFG = 0x0A0A ∧
  State.reset.on F.HOST_STATUS_BOOT_ROM = true ∧ State.reset.on F.HOST_STATUS_READY = false ∧
  State.reset.owner 0 = ownDebounced ∧ State.reset.owner 4 = ownQuadrature ∧ State.reset.owner 5 = ownNone ∧
  (∀ c ∈ [20, 21, 22, 23], State.reset.txPort c = 0 ∧ State.reset.wireVc c = 0) ∧
  (State.reset.txPort 16 = 0 ∧ State.reset.wireVc 16 = 1) ∧
  (∀ p : Fin 16, State.reset.txPort p.val = 1 ∧ State.reset.wireVc p.val = p.val) ∧
  ∀ a, State.reset.mem.good (granBase a) = false ∧ State.reset.mem.byte a = 0 ∧ State.reset.mem.checkByte a = 0xFF

/-! ### Registers and memory -/

/-- The register file, REGISTER_WRITE and BLOCK_LOCK_WRITE: a register reads as last written, other registers keep their
values, and a write takes 32 bits. A host write of a register takes the written bits of RW and RWL fields, clears W1C bits
written 1, sets W1S bits written 1, and leaves every other bit, RO and reserved ones among them. A REGISTER_WRITE of any
register whose write does no more than store, that no lock, fence or state holds, changes that register alone, by those codes; a
lock refuses a register with an RWL field, a fence those of its loom; an address of a block at which no register is defined
takes no write and reads 0; a write of 1 to any block's, loom's or mill's LOCK sets it, one of 0 leaves it, and none clears it.
Of the registers whose write does more: HOST_STATUS clears MBX_COLLIDE alone; HOST_IBI_EN requests an In-Band Interrupt when the
enabled causes become non-zero (R62); HOST_CFG is taken whole, and what its VERDICT_HOLD releases leaves (R76); TK_CTRL is taken
whole, and selection and rate follow it (R372, R373); the reserved code 3 leaves the policy of QUANT_SCALE_POLICY and takes its
LOW_CONF (R238).
Where the spec leaves a reading open it follows the model's choices of notes/assumptions 24. -/
def Obligations.RegisterWrites : Prop :=
  (∀ (s : State) (r : Reg) (i j v : Nat), (s.setReg r v i j).reg r i j = v % 2 ^ 32) ∧
  (∀ (s : State) (r : Reg) (i j v : Nat), OnlyRegs s (s.setReg r v i j) [r.addr i j]) ∧
  (∀ (s : State) (f : Fld) (i j v : Nat), f.lo + f.width ≤ 32 → (s.put f v i j).get f i j = v % 2 ^ f.width) ∧
  (∀ (r : Reg) (old v i : Nat), i < 32 → old < 2 ^ 32 → v < 2 ^ 32 → r.rw < 2 ^ 32 → r.rwl < 2 ^ 32 →
    ((bitAt r.rw i || bitAt r.rwl i) = true → bitAt r.w1c i = false → bitAt r.w1s i = false →
      bitAt (r.merge old v) i = bitAt v i) ∧
    (bitAt r.rw i = false → bitAt r.rwl i = false → bitAt r.w1s i = false → bitAt r.w1c i = true →
      bitAt (r.merge old v) i = (bitAt old i && !bitAt v i)) ∧
    (bitAt r.rw i = false → bitAt r.rwl i = false → bitAt r.w1c i = false → bitAt r.w1s i = true →
      bitAt (r.merge old v) i = (bitAt old i || bitAt v i)) ∧
    (bitAt r.rw i = false → bitAt r.rwl i = false → bitAt r.w1c i = false → bitAt r.w1s i = false →
      bitAt (r.merge old v) i = bitAt old i)) ∧
  (∀ (s : State) (a : Nat) (v : Word) (r : Reg) (i j : Nat), Live s → s.region a = .block → a % 4 = 0 →
    findReg regTable a = some (r, i, j) → s.fencedReg r a = false → s.refused r a = false → s.writeIgnored r i = false →
    ¬(0x3F00100000 ≤ a ∧ a < 0x3F00200000) → ¬(0x3F00A00000 ≤ a ∧ a < 0x3F00AFFFFC) →
    r.base ∉ ([R.SYS_THROTTLE, R.HOST_STATUS, R.HOST_IBI_CAUSE, R.HOST_IBI_EN, R.HOST_TX_MAP, R.HOST_TX_VC_TAP, R.HOST_TX_VC_REC,
      R.HOST_CFG, R.BOB_AGE_LIMIT, R.QUANT_STAT_CTRL, R.QUANT_CALIB_CTRL, R.QUANT_SCALE_POLICY, R.LINK_CFG, R.TK_CTRL,
      R.DET_CTRL] ++ learnRegs).map (fun (x : Reg) => x.base) →
    Goes (.registerWrite a v) s (s.mergeReg r v.toNat i j)) ∧
  (∀ (s : State) (a : Nat) (v : Word) (r : Reg) (i j : Nat), Live s → s.region a = .block → a % 4 = 0 →
    findReg regTable a = some (r, i, j) → (s.fencedReg r a = true ∨ s.refused r a = true) → Goes (.registerWrite a v) s s) ∧
  (∀ (s : State) (a : Nat) (v : Word), Live s → s.region a = .block → findReg regTable a = none →
    Goes (.registerWrite a v) s s ∧ (a % 4 = 0 → s.readWord a = (s, .value 0))) ∧
  (∀ (s : State) (a : Nat) (v : Word) (r : Reg) (i j : Nat), Live s → findReg regTable a = some (r, i, j) →
    r ∈ [R.BLOCK_LOCK, R.LOOM_LOCK, R.MILL_LOCK] → s.fencedReg r a = false →
    ∃ t, Goes (.blockLockWrite a v) s t ∧ OnlyRegs s t [r.addr i j] ∧
      bitAt (t.reg r i j) 0 = (bitAt (s.reg r i j) 0 || bitAt v.toNat 0)) ∧
  (∀ (s : State) (v : Word), Live s → Goes (.registerWrite (R.HOST_STATUS.addr 0 0) v) s
    (if bitAt v.toNat 3 then s.putBit F.HOST_STATUS_MBX_COLLIDE false else s)) ∧
  (∀ (s : State) (v : Word), Live s → ∃ t, Goes (.registerWrite (R.HOST_IBI_EN.addr 0 0) v) s t ∧
    t = { s with regs := t.regs, i3c := t.i3c } ∧ SameRegs s t [R.HOST_IBI_EN.addr 0 0] ∧
    t.get F.HOST_IBI_EN_EN = v.toNat % 2 ^ 12 ∧
    (s.ibiActive = 0 → t.ibiActive ≠ 0 → s.i3c.ibiOn = true → t.i3c.pending = true) ∧
    ((s.ibiActive ≠ 0 ∨ t.ibiActive = 0) → t.i3c = s.i3c)) ∧
  (∀ (s : State) (v : Word), Live s →
    Goes (.registerWrite (R.HOST_CFG.addr 0 0) v) s (s.mergeReg R.HOST_CFG v.toNat).flushTx ∧
    Goes (.registerWrite (R.TK_CTRL.addr 0 0) v) s (s.mergeReg R.TK_CTRL v.toNat).servo) ∧
  (∀ (s : State) (p : Fin 8) (v : Word), Live s → ∃ t, Goes (.registerWrite (R.QUANT_SCALE_POLICY.addr p.val 0) v) s t ∧
    OnlyRegs s t [R.QUANT_SCALE_POLICY.addr p.val 0] ∧
    t.get F.QUANT_SCALE_POLICY_LOW_CONF p.val = bitsOf v.toNat 8 8 ∧
    t.get F.QUANT_SCALE_POLICY_POLICY p.val =
      (if v.toNat % 4 = 3 then s.get F.QUANT_SCALE_POLICY_POLICY p.val else v.toNat % 4))

/-- SYS_THROTTLE (R451): a write rounds FLOOR down to 10 mV and clamps it to 650 to 900 mV, clamps HYST to 1 to 15 °C and CAP to
100 to 320 W, and changes nothing else; the next sample of running firmware compares against the new values; with the SYS lock
set the write is ignored with BAD_STATE. -/
def Obligations.ThrottleWriteClamps : Prop :=
  (∀ (s : State) (v : Word), s.locked R.SYS_THROTTLE.base = false →
    ∃ t, s.writeRegWord R.SYS_THROTTLE.base v.toNat = (t, .done) ∧ OnlyRegs s t [R.SYS_THROTTLE.base] ∧
      t.get F.SYS_THROTTLE_FLOOR = max 650 (min 900 (bitsOf v.toNat F.SYS_THROTTLE_FLOOR.lo F.SYS_THROTTLE_FLOOR.width / 10 * 10)) ∧
      t.get F.SYS_THROTTLE_HYST = max 1 (min 15 (bitsOf v.toNat F.SYS_THROTTLE_HYST.lo F.SYS_THROTTLE_HYST.width)) ∧
      t.get F.SYS_THROTTLE_CAP = max 100 (min 320 (bitsOf v.toNat F.SYS_THROTTLE_CAP.lo F.SYS_THROTTLE_CAP.width))) ∧
  (∀ (s t u w : State) (v : Word) (x : Telemetry) (hot cool : Bool) (cap hyst : Nat), FwUp s →
    s.locked R.SYS_THROTTLE.base = false → t = (s.writeRegWord R.SYS_THROTTLE.base v.toNat).1 →
    cap = max 100 (min 320 (bitsOf v.toNat F.SYS_THROTTLE_CAP.lo F.SYS_THROTTLE_CAP.width)) →
    hyst = max 1 (min 15 (bitsOf v.toNat F.SYS_THROTTLE_HYST.lo F.SYS_THROTTLE_HYST.width)) →
    u = State.sampleRails
      (State.sampleTemps { t with power := { t.power with floor := t.get F.SYS_THROTTLE_FLOOR } } x) x →
    hot = (decide (800 ≤ u.hottest) || decide (10 * cap < u.get F.SYS_PWR_POWER)) →
    cool = (decide (u.hottest < 8 * (100 - (hyst : Int))) && decide (2 * u.get F.SYS_PWR_POWER < 19 * cap)) →
    w = (u.putBit F.SYS_THROTTLE_STAT_HOT (decide (800 ≤ u.hottest))).putBit F.SYS_THROTTLE_STAT_POWER
      (decide (10 * cap < u.get F.SYS_PWR_POWER)) →
    w.vcoreLowest = min (t.get F.SYS_THROTTLE_FLOOR) t.power.target ∧ t.power = s.power ∧ Goes (.telemetrySample x) t (w.throttle hot cool).settleVcore) ∧
  (∀ (s : State) (v : Word), s.locked R.SYS_THROTTLE.base = true →
    s.writeRegWord R.SYS_THROTTLE.base v.toNat = (s, .badState))

/-- Memory as R56, R306 and R307 say: reset poisons every granule; a write that covers granules whole makes them good and
readable, reads give what was written last, and every other granule keeps its bytes and its mark; a narrower write leaves a
poisoned granule poisoned. Either mark of an SRAM word alone makes it read as poisoned: an upset of the poison bit of a good
word, or of one that carries both marks, leaves no byte readable (R305). DDR5 interleaving (R303): which subchannel holds an address in each of the three configurations.
Where the spec leaves a reading open it follows the model's choices of notes/assumptions 113. -/
def Obligations.MemoryReadsWhatWasWritten : Prop :=
  (∀ (s : State) (a : Nat) (d : List Byte), s.mem.wf = true → a % granSize a = 0 → d.length = granSize a →
    let t := s.writeShare a (goodData d)
    t.readData a d.length = (t, goodData d) ∧ SameBytesBut s t a d.length ∧
    (∀ g, g ≠ a → t.mem.good g = s.mem.good g) ∧ t = { s with mem := t.mem }) ∧
  (∀ (s : State) (a : Nat) (d : List Byte), 0 < d.length → a + d.length ≤ granBase a + granSize a → d.length < granSize a →
    s.mem.good (granBase a) = false →
    let t := s.writeShare a (goodData d)
    t.mem.good (granBase a) = false ∧ SameBytesBut s t a d.length) ∧
  (∀ (s : State) (g : Nat), s.mem.wf = true → 0x2000000000 ≤ g → g % 8 = 0 → tget? s.mem.clean g = tget? s.mem.valid g →
    ((s.withFlaws [(g, .poisonBit)]).readData g 8).2 = List.replicate 8 none) ∧
  (∀ (s : State) (cause : Nat) (h : Holds) (a : Nat), (s.enterReset cause h).mem.good a = false) ∧
  (∀ (s : State) (a : Nat), s.get F.MEM_DDR_CFG_CHANNELS = 0 → s.subchannel a = bitsOf a 6 4) ∧
  (∀ (s : State) (a : Nat), s.get F.MEM_DDR_CFG_CHANNELS = 1 →
    s.subchannel a / 2 = [0, 1, 4, 5].getD (bitsOf a 6 3 / 2) 0 ∧ s.subchannel a % 2 = bitsOf a 6 3 % 2) ∧
  (∀ (s : State) (a : Nat), s.get F.MEM_DDR_CFG_CHANNELS = 2 →
    s.subchannel a / 2 = [0, 4].getD (bitsOf a 6 2 / 2) 0 ∧ s.subchannel a % 2 = bitsOf a 6 2 % 2)

/-- CMD_MEM_READ and CMD_MEM_WRITE (R55): a read takes N words one by one and replies with those before the first that fails
and with its status: a poisoned word POISONED, an unaligned address BAD_PARAM, a word of a fenced scratchpad FENCED, an unwiped
one NOT_READY; a good word of memory is delivered, and nothing changes. A write stores its words, from its parameters or from
its bulk, and replies how many; words that cover a granule make it good. A read of a register that is no critical word gives
what the register shows, sets its RC fields to their reset value and leaves every other bit (R10), the mailbox registers whole
(R55); the low register of a pair latches the high ones as they stand, and a latched one then reads so. The two registers whose
read does more have their own statements: TK_TIME_NS and ETH_TXTS_ID.
Where the spec leaves a reading open it follows the model's choices of notes/assumptions 18, 19, 21, 22, 23. -/
def Obligations.MemoryCommands : Prop :=
  (∀ (s : State) (src : Source) (c : Cmd) (flaws : List (Nat × Flaw)) (x : State × List Word × Status), Starts s src 0x0501 c →
    1 ≤ c.p 3 → c.p 3 ≤ (if isCsi src then 255 else 14) → x = ((s.dropOldest src).withFlaws flaws).readWords (c.p 3) c.address →
    Goes (.cmdMemRead src flaws) s (State.settle (x.1.reply src c x.2.2 x.2.1))) ∧
  (∀ (s : State) (src : Source) (c : Cmd) (flaws : List (Nat × Flaw)), Starts s src 0x0501 c →
    (c.p 3 = 0 ∨ (if isCsi src then 255 else 14) < c.p 3) →
    Goes (.cmdMemRead src flaws) s (State.settle ((s.dropOldest src).reply src c .badParam))) ∧
  (∀ (s : State) (n a : Nat), a % 4 = 0 → (s.region a).isMemory = true → s.memRefusal a = none →
    s.mem.good (granBase a) = true → tget? s.mem.flaws (granBase a) = none →
    s.readWords (n + 1) a = ((s.readWords n (a + 4)).1,
      w32 (bytesNat (s.mem.bytes a 4)) :: (s.readWords n (a + 4)).2.1, (s.readWords n (a + 4)).2.2)) ∧
  (∀ (s : State) (n a : Nat), a % 4 ≠ 0 → s.readWords (n + 1) a = (s, [], .badParam)) ∧
  (∀ (s : State) (n a : Nat), a % 4 = 0 → (s.region a).isMemory = true → s.memRefusal a = none →
    s.mem.good (granBase a) = false → tget? s.mem.flaws (granBase a) = none → tget? s.mem.clean (granBase a) = none →
    ∃ t, s.readWords (n + 1) a = (t, [], .poisoned) ∧ t = { s with mem := { s.mem with met := t.mem.met } }) ∧
  (∀ (s : State) (n a k : Nat), a % 4 = 0 → s.region a = .scratch k → s.fenced k = true →
    s.readWords (n + 1) a = (s, [], .fenced)) ∧
  (∀ (s : State) (n a : Nat), a % 4 = 0 → s.region a = .ddr → s.wiped a = false →
    s.readWords (n + 1) a = (s, [], .notReady)) ∧
  (∀ (s : State) (src : Source) (c : Cmd) (ws : List Word) (x : State × Nat × Status), Starts s src 0x0502 c →
    c.address % 4 = 0 → ws = (if c.bulkEnd = .none then c.params.drop 2 else bytesWords c.bulk) →
    x = (s.dropOldest src).writeWords ws.length c.address ws 0 →
    Goes (.cmdMemWrite src) s (State.settle (x.1.reply src c x.2.2 [w32 x.2.1]))) ∧
  (∀ (s : State) (src : Source) (c : Cmd), Starts s src 0x0502 c → c.address % 4 ≠ 0 →
    Goes (.cmdMemWrite src) s (State.settle ((s.dropOldest src).reply src c .badParam [0]))) ∧
  (∀ (s : State) (a : Nat) (ws : List Word), a % granSize a = 0 → 4 * ws.length = granSize a → (s.region a).isMemory = true →
    s.memRefusal a = none →
    s.writeWords ws.length a ws 0 = (s.writeShare a (goodData (wordsBytes ws)), ws.length, .done)) ∧
  (∀ (s : State) (r : Reg) (i j a : Nat), s.region a = .block → a % 4 = 0 → findReg regTable a = some (r, i, j) →
    s.fencedReg r a = false → r.base ≠ R.ETH_TXTS_ID.base →
    (∀ w, tget? s.latch (r.addr i j) = some w → s.readWord a = (s, .value w.toNat)) ∧
    (tget? s.latch (r.addr i j) = none → critWord r i = none → r.base ≠ R.TK_TIME_NS.base → r.rc < 2 ^ 32 →
      ∃ t, s.readWord a = (t, .value (s.shown r i j)) ∧ t = { s with regs := t.regs, latch := t.latch } ∧
        SameRegs s t [r.addr i j] ∧
        (∀ k, k < 32 → bitAt (t.reg r i j) k = if bitAt r.rc k then bitAt (r.reset i j) k else bitAt (s.reg r i j) k) ∧
        (∀ hi, (r, hi) ∈ latchPairs → tget? t.latch (hi.addr i j) = some (w32 (s.shown hi i j))))) ∧
  (∀ (s : State) (r : Reg) (i : Nat), r ∈ [R.MBX_H2D_DATA, R.MBX_H2D_GO, R.MBX_D2H_DATA, R.MBX_D2H_GO] → i < r.count →
    tget? s.latch (r.addr i 0) = none → s.readWord (r.addr i 0) = (s, .value (s.reg r i)))

/-! ### The host link -/

/-- Replies to the mailbox (R65): one status packet at a time stands in MBX_D2H; further ones wait, up to 64; one that finds
the queue full goes out on channel 22. -/
def Obligations.ReplyQueue : Prop :=
  (∀ (s : State) (ws : List Word), s.on F.MBX_D2H_GO_FULL = false → s.host.d2hQueue = [] → ws.length ≤ 16 →
    ∃ t, s.postD2h ws = t ∧ t.on F.MBX_D2H_GO_FULL = true ∧ t.host.d2hQueue = [] ∧
      (∀ i, i < ws.length → w32 (t.reg R.MBX_D2H_DATA i) = ws.getD i 0)) ∧
  (∀ (s : State) (ws : List Word), (s.on F.MBX_D2H_GO_FULL = true ∨ s.host.d2hQueue ≠ []) → s.host.d2hQueue.length < 64 →
    s.postD2h ws = { s with host := { s.host with d2hQueue := s.host.d2hQueue ++ [ws] } }) ∧
  (∀ (s : State) (ws : List Word), 64 ≤ s.host.d2hQueue.length → s.postD2h ws = s.sendStatus ws)

/-- What a reply changes: nothing beyond the host link, the I3C target's request, the twin mailbox's link, the snapshot unit
and registers; for a command of host CSI-2 whose channel 22 is up and whose status is not POISONED it changes the host link
alone, and exactly one status packet goes out on channel 22. -/
def Obligations.ReplyFrame : Prop :=
  (∀ (s : State) (src : Source) (c : Cmd) (st : Status) (ws : List Word),
    let t := s.reply src c st ws
    t = { s with regs := t.regs, i3c := t.i3c, host := t.host, link := t.link, snap := t.snap }) ∧
  (∀ (s : State) (vc : Fin 4) (c : Cmd) (st : Status) (ws : List Word), st ≠ .poisoned →
    (c.quiet && (st == .done || st == .accepted)) = false → s.portUp (s.txPort 22) = true →
    let t := s.reply (.csi vc) c st ws
    t = { s with host := { s.host with sent := t.host.sent, frameNo := t.host.frameNo } } ∧
    ∃ f, t.host.sent = s.host.sent ++ [f] ∧ f.chan = 22 ∧
      f.packets = [(0x34, wordsBytes (statusPacket c.tag st ws))]) ∧
  (∀ (s : State) (src : Source) (c : Cmd) (st : Status) (ws : List Word), c.quiet = true → (st = .done ∨ st = .accepted) →
    s.reply src c st ws = s)

/-- The header checks of a command in their order (R69), and what an accepted command changes: it only waits. What the present
state refuses: NOT_READY of all but four opcodes while the boot ROM runs, NOT_READY of those that R417 lists before READY, BUSY
during a life-cycle transition (R424), BAD_STATE of what a split word or the twin mailbox does not take. The packet CRC
is CRC-32C (R68): its check value, and the words it covers.
Where the spec leaves a reading open it follows the model's choices of notes/assumptions 25, 183. -/
def Obligations.HeaderChecks : Prop :=
  (∀ (s : State) (src : Source) (p : Packet), s.headerRefusal src p false = some .badParam) ∧
  (∀ (s : State) (src : Source) (p : Packet), p.crcHolds = false → s.headerRefusal src p true = some .crcFail) ∧
  (∀ (s : State) (src : Source) (p : Packet), p.crcHolds = true → (opRow? p.op = none ∨ bitsOf p.w0 24 8 ≠ 1) →
    s.headerRefusal src p true = some .badOpcode) ∧
  (∀ (s : State) (src : Source) (p : Packet) (r : OpRow), p.crcHolds = true → opRow? p.op = some r → bitsOf p.w0 24 8 = 1 →
    p.formOk src r = false → s.headerRefusal src p true = some .badParam) ∧
  (∀ (s : State) (src : Source) (p : Packet) (r : OpRow), p.crcHolds = true → opRow? p.op = some r → bitsOf p.w0 24 8 = 1 →
    p.formOk src r = true →
    (∀ st, s.stateRefusal src p.op = some st → s.headerRefusal src p true = some st) ∧
    (s.stateRefusal src p.op = none → 32 ≤ s.outstanding src → s.headerRefusal src p true = some .busy) ∧
    (s.stateRefusal src p.op = none → s.outstanding src < 32 → s.headerRefusal src p true = none)) ∧
  (∀ (s : State) (src : Source) (p : Packet), s.headerRefusal src p true = none →
    s.takePacket src p true = { s with host := { s.host with waiting := s.host.waiting ++ [(src, p.cmd)] } }) ∧
  (∀ (s : State) (src : Source) (op : Nat), s.isSplit = true → op ∉ splitOps → s.stateRefusal src op = some .badState) ∧
  (∀ (s : State) (src : Source) (op : Nat), s.isSplit = false →
    (s.boot.transition.isSome = true → op ≠ 0x0100 → op ≠ 0x0101 → s.stateRefusal src op = some .busy) ∧
    (s.boot.transition = none →
      (s.on F.HOST_STATUS_BOOT_ROM = true → op ∉ [0x0100, 0x0101, 0x0901, 0x0902] →
        s.stateRefusal src op = some .notReady) ∧
      (s.on F.HOST_STATUS_READY = false →
        (op / 256 = 2 ∨ op / 256 = 3 ∨ op / 256 = 4 ∨ op ∈ [0x0801, 0x0803, 0x0903, 0x0904]) →
        s.stateRefusal src op = some .notReady) ∧
      (s.on F.HOST_STATUS_BOOT_ROM = false → s.on F.HOST_STATUS_READY = true → src ≠ .t2d → s.stateRefusal src op = none) ∧
      (s.on F.HOST_STATUS_BOOT_ROM = false → s.on F.HOST_STATUS_READY = true → op ∉ twinOps →
        s.stateRefusal .t2d op = some .badState))) ∧
  (crc32c [0x31, 0x32, 0x33, 0x34, 0x35, 0x36, 0x37, 0x38, 0x39] = 0xE3069283#32 ∧
  ∀ p : Packet, p.crcHolds = true ↔
    crc32c (wordsBytes ([w32 p.w0, w32 p.w1, w32 p.bulk] ++ p.params)) = p.crc)

/-- Host CSI-2 receive (R73, R74), while no firmware image loads: a packet with a good or a corrected header, of a listed type
and with a good CRC is taken. A command packet ends the bulk that a command of its channel still awaits, and is then checked and
accepted or answered; one shorter than a header is counted in DISCARD. Bulk goes to the command that awaits it, its surplus
counted in DISCARD, and all of it where no command awaits bulk. A packet with an uncorrectable header or a bad CRC is counted and
notified, one on a channel that is none of the four or of no listed type counted in DISCARD. The bulk timeout marks the command
that awaits bulk, ends a loading model, a firmware image that MBX_H2D loads (R413) and a sample's stream, and at 0 it is off.
Where the spec leaves a reading open it follows the model's choices of notes/assumptions 28. -/
def Obligations.HostReceive : Prop :=
  (∀ (s u : State) (x : RxPacket) (h : x.vc < 4) (p : Packet), Live s → s.host.csiReady = true → x.header < 2 →
    x.listed = true → x.crcOk = true → s.boot.load = none →
    u = (if x.header = 1 then s.bump F.HOST_RX_CNT_ECC_CORR else s) → p = csiPacket x.payload →
    (x.payload.length < 16 → Goes (.hostRxCommand x) s (u.bump F.HOST_RX_CNT_DISCARD)) ∧
    (16 ≤ x.payload.length → Goes (.hostRxCommand x) s
      ((u.mapAwaiting (.csi ⟨x.vc, h⟩) fun c => { c with bulkEnd := .truncated }).takePacket (.csi ⟨x.vc, h⟩)
        { p with params := p.params.take p.words } (x.payload.length == 16 + 4 * p.words)))) ∧
  (∀ (s u : State) (x : RxPacket) (h : x.vc < 4) (c : Cmd), Live s → s.host.csiReady = true → x.header < 2 →
    x.listed = true → x.crcOk = true → s.boot.load = none →
    u = (if x.header = 1 then s.bump F.HOST_RX_CNT_ECC_CORR else s) →
    (s.awaiting (.csi ⟨x.vc, h⟩) = some c → c.bulk.length + x.payload.length ≤ c.bulkLen →
      Goes (.hostRxBulk x) s (u.mapAwaiting (.csi ⟨x.vc, h⟩) fun c => c.takeBulk x.payload)) ∧
    (s.awaiting (.csi ⟨x.vc, h⟩) = some c → c.bulkLen < c.bulk.length + x.payload.length →
      Goes (.hostRxBulk x) s ((u.mapAwaiting (.csi ⟨x.vc, h⟩) fun c => c.takeBulk x.payload).bump F.HOST_RX_CNT_DISCARD)) ∧
    (s.awaiting (.csi ⟨x.vc, h⟩) = none → Goes (.hostRxBulk x) s (u.bump F.HOST_RX_CNT_DISCARD))) ∧
  (∀ (c : Cmd) (bs : List Byte), c.bulk.length ≤ c.bulkLen → (c.takeBulk bs).bulk = (c.bulk ++ bs).take c.bulkLen ∧
    ((c.takeBulk bs).bulkEnd = .complete ↔ (c.takeBulk bs).bulk.length = c.bulkLen)) ∧
  (∀ (s : State) (x : RxPacket), Live s → s.host.csiReady = true → 2 ≤ x.header →
    Goes (.hostRxCommand x) s ((s.bump F.HOST_RX_CNT_CRC_ERR).raise F.HOST_IBI_CAUSE_RX_ERR) ∧
    Goes (.hostRxBulk x) s ((s.bump F.HOST_RX_CNT_CRC_ERR).raise F.HOST_IBI_CAUSE_RX_ERR)) ∧
  (∀ (s u : State) (x : RxPacket), Live s → s.host.csiReady = true → x.header < 2 →
    u = (if x.header = 1 then s.bump F.HOST_RX_CNT_ECC_CORR else s) →
    (x.vc < 4 → x.listed = true → x.crcOk = false →
      Goes (.hostRxCommand x) s ((u.bump F.HOST_RX_CNT_CRC_ERR).raise F.HOST_IBI_CAUSE_RX_ERR) ∧
      Goes (.hostRxBulk x) s ((u.bump F.HOST_RX_CNT_CRC_ERR).raise F.HOST_IBI_CAUSE_RX_ERR)) ∧
    ((4 ≤ x.vc ∨ x.listed = false) →
      Goes (.hostRxCommand x) s (u.bump F.HOST_RX_CNT_DISCARD) ∧ Goes (.hostRxBulk x) s (u.bump F.HOST_RX_CNT_DISCARD))) ∧
  (∀ (s : State) (l : FwLoad) (e : Source × Cmd), Live s → s.get F.HOST_CFG_BULK_TMO ≠ 0 → s.boot.load = some l →
    s.loadCmd = some e → (l.src = .h2d → Goes (.bulkTmoExpire .firmware) s (s.endLoad.finish e .timeout)) ∧
    (l.src ≠ .h2d → Goes (.bulkTmoExpire .firmware) s s)) ∧
  (∀ (s : State) (b : BulkWait), Live s → s.get F.HOST_CFG_BULK_TMO = 0 → Goes (.bulkTmoExpire b) s s) ∧
  (∀ (s : State) (src : Source), Live s → s.get F.HOST_CFG_BULK_TMO ≠ 0 → s.boot.load = none →
    Goes (.bulkTmoExpire (.command src)) s (s.mapAwaiting src fun c => { c with bulkEnd := .timedOut }) ∧
    Goes (.bulkTmoExpire .firmware) s s) ∧
  (∀ (s : State) (l : RegLoad), Live s → s.get F.HOST_CFG_BULK_TMO ≠ 0 → s.sched.loading = some l →
    Goes (.bulkTmoExpire .model) s (State.finishOp { s with sched := { s.sched with loading := none } } 0x0401 .truncated)) ∧
  (∀ (s : State) (vc : Fin 4) (x : Sample), Live s → s.get F.HOST_CFG_BULK_TMO ≠ 0 → tget? s.intake.headers vc.val = none →
    s.openSample vc.val = some x → Goes (.bulkTmoExpire (.sample vc)) s (State.noteDefers
      (State.streamEnd { s with intake := { s.intake with opened := tdel s.intake.opened vc.val } } x.place)))

/-- Host CSI-2 transmit (R76): when the oldest pending record has waited VERDICT_HOLD, the pending records go out on channel 20,
oldest first, up to 64 to a packet, and none is pending any more. The placement of the transmit channels (R77): a
write of HOST_TX_MAP, HOST_TX_VC_TAPa or HOST_TX_VC_REC that keeps the placement sound is taken whole; one that would break
it changes nothing but ERR; so the placement stays sound.
Where the spec leaves a reading open it follows the model's choices of notes/assumptions 30, 31. -/
def Obligations.HostTransmit : Prop :=
  (∀ s : State, Live s → s.host.records ≠ [] → s.portUp (s.txPort 20) = true →
    ∃ t fs, exec .verdictHoldExpire s = .next t ∧
      t = { s with host := { s.host with records := [], sent := s.host.sent ++ fs, frameNo := t.host.frameNo } } ∧
      fs.length = ceilDiv s.host.records.length 64 ∧
      fs.map (fun f => (f.chan, f.packets)) = (List.range fs.length).map fun k =>
        (20, [(0x35, wordsBytes ((s.host.records.drop (64 * k)).take 64).flatten)])) ∧
  (∀ (s : State) (v : Word), Live s → (s.mergeReg R.HOST_TX_MAP v.toNat).placementOk = true →
    exec (.hostTxMapWrite v) s = .next ((s.mergeReg R.HOST_TX_MAP v.toNat).showTxPorts.flushTx)) ∧
  (∀ (s : State) (v : Word), Live s → (s.mergeReg R.HOST_TX_MAP v.toNat).placementOk = false →
    exec (.hostTxMapWrite v) s = .next (s.putBit F.HOST_TX_VC_REC_ERR true)) ∧
  (∀ (s t : State) (k : Fin 4) (v : Word), Live s →
    t = (if k.val = 3 then s.mergeReg R.HOST_TX_VC_REC v.toNat
      else s.mergeReg R.HOST_TX_VC_TAP (if k.val = 2 then v.toNat % 16 else v.toNat) k.val) →
    (t.placementOk = true → exec (.hostTxVcWrite k v) s = .next t.showTxPorts.flushTx) ∧
    (t.placementOk = false → exec (.hostTxVcWrite k v) s = .next (s.putBit F.HOST_TX_VC_REC_ERR true))) ∧
  (∀ (s : State) (k : Fin 4) (v : Word), Live s → s.placementOk = true →
    (∀ t, exec (.hostTxVcWrite k v) s = .next t → t.placementOk = true) ∧
    (∀ t, exec (.hostTxMapWrite v) s = .next t → t.placementOk = true))

/-! ### The I3C target and the mailboxes -/

/-- The Common Command Codes (R58): each completes, changes the I3C target alone, and leaves HDR mode; those that read answer
with the bytes the spec names.
Where the spec leaves a reading open it follows the model's choices of notes/assumptions 26, 27. -/
def Obligations.CommonCommandCodes : Prop :=
  ∀ (s : State) (d : CccTo), BusUp s →
    (s.ibiActive = 0 → Goes (.enec d) s { sdr s with i3c := { (sdr s).i3c with ibiOn := true } }) ∧
    (s.ibiActive ≠ 0 → ∃ t, Goes (.enec d) s t ∧ OnlyI3c s t ∧ t.i3c.ibiOn = true ∧ t.i3c.pending = true) ∧
    (∃ t, Goes (.disec d) s t ∧ OnlyI3c s t ∧ t.i3c.ibiOn = false ∧ t.i3c.pending = false ∧ t.i3c.hdr = false ∧
      ∀ f, t.raise f = t.put f 1) ∧
    Goes .rstdaa s { sdr s with i3c := { (sdr s).i3c with dynAddr := none } } ∧
    (∀ a, s.i3c.dynAddr = none → ∃ t, Goes (.entdaa a) s t ∧ OnlyI3c s t ∧ t.i3c.dynAddr = some a ∧
      t.i3c.response = some (s.provisionalId ++ [0x26#8, 0x00#8])) ∧
    (∀ a b, s.i3c.dynAddr = some b → Goes (.entdaa a) s (sdr s).silent) ∧
    (∃ t, Goes .setaasa s t ∧ OnlyI3c s t ∧ t.i3c.dynAddr = some (if s.straps.addrSel then 0x4D#7 else 0x4C#7)) ∧
    (∀ a, Goes (.setdasa a) s { sdr s with i3c := { (sdr s).i3c with dynAddr := some a } }) ∧
    (∀ a, Goes (.setnewda a) s { sdr s with i3c := { (sdr s).i3c with dynAddr := some a } }) ∧
    (∀ n, 8 ≤ n → n ≤ 256 → Goes (.setmwl d n) s { sdr s with i3c := { (sdr s).i3c with mwl := n } } ∧
      Goes (.setmrl d n) s { sdr s with i3c := { (sdr s).i3c with mrl := n } }) ∧
    (∀ n, n < 8 ∨ 256 < n → Goes (.setmwl d n) s (sdr s) ∧ Goes (.setmrl d n) s (sdr s)) ∧
    Goes .getmwl s ((sdr s).respond (twoBytes s.i3c.mwl)) ∧
    Goes .getmrl s ((sdr s).respond (twoBytes s.i3c.mrl)) ∧
    Goes .getpid s ((sdr s).respond s.provisionalId) ∧
    Goes .getbcr s ((sdr s).respond [0x26#8]) ∧ Goes .getdcr s ((sdr s).respond [0x00#8]) ∧
    (∃ t, Goes .getstatus s t ∧ OnlyI3c s t ∧ t.i3c.protoErr = false ∧
      t.i3c.response = some (twoBytes (bit s.i3c.pending + 2 ^ 5 * bit s.i3c.protoErr + 2 ^ 8 * (s.reg R.HOST_STATUS % 256)))) ∧
    Goes .getmxds s ((sdr s).respond [0x00#8, 0x00#8]) ∧ Goes .getcaps s ((sdr s).respond [0x01#8]) ∧
    Goes .enthdr0 s { s with i3c := { s.i3c with hdr := true } } ∧
    (∀ l, Goes (.entas l) s (sdr s)) ∧
    (∀ v, v ≠ 0x01#8 → Goes (.rstact d v) s (sdr s)) ∧ Goes (.rstact d 0x01#8) s (sdr s).resetTarget ∧
    (∀ c, Goes (.cccUnlisted .direct c) s (sdr s).silent ∧ Goes (.cccUnlisted .broadcast c) s (sdr s))

/-- The register window (R59, R60): two bytes set the read pointer; a whole word at an offset below 0x40 goes to MBX_H2D_DATA,
or sets MBX_COLLIDE while FULL is set; an unaligned offset changes nothing; a read answers the word at the pointer and
moves it by 4; HDR-DDR writes and reads words by command code, and a write with an error only marks it. -/
def Obligations.RegisterWindow : Prop :=
  (∀ (s : State) (lo hi : Byte), BusUp s → 8 ≤ s.i3c.mwl → (lo.toNat + 256 * hi.toNat) % 4 = 0 →
    Goes (.i3cPrivateWrite [lo, hi]) s { sdr s with i3c := { (sdr s).i3c with ptr := lo.toNat + 256 * hi.toNat } }) ∧
  (∀ (s : State) (lo : Byte) (v : Word), BusUp s → 8 ≤ s.i3c.mwl → lo.toNat % 4 = 0 → lo.toNat < 0x40 →
    s.on F.MBX_H2D_GO_FULL = false →
    Goes (.i3cPrivateWrite (lo :: 0x00#8 :: wordBytes v)) s ((sdr s).setReg R.MBX_H2D_DATA v.toNat (lo.toNat / 4))) ∧
  (∀ (s : State) (lo : Byte) (v : Word), BusUp s → 8 ≤ s.i3c.mwl → lo.toNat % 4 = 0 → lo.toNat < 0x40 →
    s.on F.MBX_H2D_GO_FULL = true →
    Goes (.i3cPrivateWrite (lo :: 0x00#8 :: wordBytes v)) s ((sdr s).putBit F.HOST_STATUS_MBX_COLLIDE true)) ∧
  (∀ (s : State) (lo hi : Byte) (d : List Byte), BusUp s → 8 ≤ s.i3c.mwl → (lo.toNat + 256 * hi.toNat) % 4 ≠ 0 →
    Goes (.i3cPrivateWrite (lo :: hi :: d)) s (sdr s)) ∧
  (∀ s : State, BusUp s → 8 ≤ s.i3c.mrl → s.i3c.ptr ≠ 0xC0 → ∃ t, Goes (.i3cPrivateRead 4) s t ∧ OnlyI3c s t ∧
    t.i3c.ptr = s.i3c.ptr + 4 ∧ t.i3c.response = some (wordBytes (s.windowValue s.i3c.ptr))) ∧
  (∀ s : State, s.windowValue 0x100 = w32 (s.reg R.HOST_STATUS) ∧ s.windowValue 0x104 = w32 (s.reg R.HOST_IBI_CAUSE) ∧
    s.windowValue 0x108 = w32 (s.reg R.HOST_IBI_EN) ∧ s.windowValue 0x40 = w32 (s.reg R.MBX_H2D_GO) ∧
    s.windowValue 0xC0 = w32 (s.reg R.MBX_D2H_GO) ∧
    (∀ i, i < 16 → s.windowValue (4 * i) = w32 (s.reg R.MBX_H2D_DATA i) ∧
      s.windowValue (0x80 + 4 * i) = w32 (s.reg R.MBX_D2H_DATA i))) ∧
  (∀ (s : State) (k : BitVec 8) (a b : BitVec 16) (n : Nat), BusUp s → s.i3c.hdr = true → k.toNat < 16 →
    s.on F.MBX_H2D_GO_FULL = false →
    Goes (.hdrDdrTransfer k [a, b] n true) s (s.setReg R.MBX_H2D_DATA (a.toNat + 2 ^ 16 * b.toNat) k.toNat)) ∧
  (∀ (s : State) (k : BitVec 8) (d : List (BitVec 16)) (n : Nat), BusUp s → s.i3c.hdr = true → k.toNat < 0x80 →
    Goes (.hdrDdrTransfer k d n false) s { s with i3c := { s.i3c with protoErr := true } }) ∧
  (∀ (s : State) (k : BitVec 8) (d : List (BitVec 16)) (ok : Bool), BusUp s → s.i3c.hdr = true → 0x80 ≤ k.toNat →
    k.toNat ≠ 0xB0 →
    Goes (.hdrDdrTransfer k d 1 ok) s (s.respond (wordBytes (s.windowValue (4 * (k.toNat - 0x80))))))

/-- The mailboxes (R64, R66): the GO write with bit 0 set posts a message, and one while FULL is set is ignored with
MBX_COLLIDE; the wake takes the message, clears FULL and gives the packet to the header checks; the host's GO read takes the
reply, clears FULL and REPLY, and the next reply is placed; the watchdog sends an unread reply on channel 22, counts and
notifies it. Notifications (R62): a cause that makes the enabled causes non-zero requests an In-Band Interrupt; a write of
HOST_IBI_CAUSE clears the bits written 1 but REPLY, and requests another while an enabled one stays set; the delivery gives
the mandatory byte and frees the one request that may be pending.
Where the spec leaves a reading open it follows the model's choices of notes/assumptions 27. -/
def Obligations.MailboxesAndNotifications : Prop :=
  (∀ (s : State) (v : Word), BusUp s → s.on F.MBX_H2D_GO_FULL = true →
    Goes (.mbxH2dGoWrite v) s (s.putBit F.HOST_STATUS_MBX_COLLIDE true)) ∧
  (∀ (s : State) (v : Word), BusUp s → s.on F.MBX_H2D_GO_FULL = false → bitAt v.toNat 0 = true →
    ∃ t, Goes (.mbxH2dGoWrite v) s t ∧ t = { s with regs := t.regs, host := { s.host with h2dWoken := true } } ∧
      SameRegs s t [R.MBX_H2D_GO.addr 0 0] ∧ t.on F.MBX_H2D_GO_FULL = true) ∧
  (∀ (s : State) (v : Word), BusUp s → s.on F.MBX_H2D_GO_FULL = false → bitAt v.toNat 0 = false →
    Goes (.mbxH2dGoWrite v) s s) ∧
  (∀ s : State, Live s → s.on F.MBX_H2D_GO_FULL = true →
    Goes .mbxWake s (State.takePacket { s.putBit F.MBX_H2D_GO_FULL false with host := { s.host with h2dWoken := false } } .h2d
      (mailPacket ((List.range 16).map fun i => w32 (s.reg R.MBX_H2D_DATA i))) true)) ∧
  (∀ s : State, BusUp s → s.on F.MBX_D2H_GO_FULL = true → s.host.d2hQueue = [] →
    ∃ t, Goes .mbxD2hGoRead s t ∧ t = { s with regs := t.regs, i3c := t.i3c, host := { s.host with d2hWatch := false } } ∧
      SameRegs s t [R.MBX_D2H_GO.addr 0 0, R.HOST_IBI_CAUSE.addr 0 0] ∧ t.on F.MBX_D2H_GO_FULL = false ∧
      t.get F.HOST_IBI_CAUSE_REPLY = 0 ∧ t.i3c.response = some (wordBytes (w32 (s.reg R.MBX_D2H_GO)))) ∧
  (∀ (s : State) (ws : List Word) (q : List (List Word)), BusUp s → s.on F.MBX_D2H_GO_FULL = true →
    s.host.d2hQueue = ws :: q → ∃ t, Goes .mbxD2hGoRead s t ∧ t.host.d2hQueue = q ∧ t.on F.MBX_D2H_GO_FULL = true ∧
      t.get F.HOST_IBI_CAUSE_REPLY = 1 ∧ ∀ i, i < 16 → i < ws.length → w32 (t.reg R.MBX_D2H_DATA i) = ws.getD i 0) ∧
  (∀ s : State, BusUp s → s.on F.MBX_D2H_GO_FULL = false →
    Goes .mbxD2hGoRead s (s.respond (wordBytes (w32 (s.reg R.MBX_D2H_GO))))) ∧
  (∀ s : State, Live s → s.host.d2hWatch = true → s.on F.MBX_D2H_GO_FULL = true → s.host.d2hQueue = [] →
    s.portUp (s.txPort 22) = true → ∃ t f, Goes .mbxWatchdogExpire s t ∧ t.on F.MBX_D2H_GO_FULL = false ∧
      t.host.sent = s.host.sent ++ [f] ∧ f.chan = 22 ∧ f.packets = [(0x34, wordsBytes s.host.d2hLast)] ∧
      t.get F.HOST_TX_CNT_MBX_WDT = min (s.get F.HOST_TX_CNT_MBX_WDT + 1) (2 ^ F.HOST_TX_CNT_MBX_WDT.width - 1) ∧
      t.get F.HOST_IBI_CAUSE_MBX_WDT = 1) ∧
  (∀ (s : State) (f : Fld), f.reg = R.HOST_IBI_CAUSE → s.ibiActive = 0 → (s.put f 1).ibiActive ≠ 0 → s.i3c.ibiOn = true →
    (s.raise f).i3c.pending = true ∧ (s.raise f).regs = (s.put f 1).regs) ∧
  (∀ (s : State) (f : Fld), f.reg = R.HOST_IBI_CAUSE → s.ibiActive ≠ 0 → s.raise f = s.put f 1) ∧
  (∀ (s : State) (v : Word), Live s → ∃ t, Goes (.hostIbiCauseWrite v) s t ∧ t = { s with regs := t.regs, i3c := t.i3c } ∧
    SameRegs s t [R.HOST_IBI_CAUSE.addr 0 0] ∧
    (∀ i, i < 32 → bitAt (t.reg R.HOST_IBI_CAUSE) i =
      (bitAt (s.reg R.HOST_IBI_CAUSE) i && !(bitAt v.toNat i && decide (1 ≤ i) && decide (i ≤ 11)))) ∧
    (t.ibiActive ≠ 0 → s.i3c.ibiOn = true → t.i3c.pending = true)) ∧
  (∀ s : State, BusUp s → s.i3c.pending = true → ∃ t, Goes .ibiDelivered s t ∧ OnlyI3c s t ∧ t.i3c.pending = s.i3c.again ∧
    t.i3c.again = false ∧ t.i3c.response = some [if bitAt s.ibiActive 0 then 0x01#8 else 0x02#8])

/-- The general commands: CMD_NOP only replies; CMD_GET_INFO replies the identity words; CMD_RESET replies DONE, and a reset
with cause 1 is due unless one already is; CMD_SET_VCORE with a target the device already gives replies DONE with the
effective setpoint, runs on where it must step, and refuses a target it cannot give. The start of any command (R52, R70, R74):
it is the oldest of its source, and none of its source that has sent no reply yet runs; while its bulk is still to come it
waits, unless it fails at once; bulk that was cut short, or that did not come in time, ends it with TRUNCATED or TIMEOUT and
with nothing else done.
Where the spec leaves a reading open it follows the model's choices of notes/assumptions 33, 121. -/
def Obligations.GeneralCommands : Prop :=
  (∀ (s : State) (src : Source) (c : Cmd), Starts s src 0x0100 c → Ends (.cmdNop src) s (s.dropOldest src) src c .done) ∧
  (∀ (s : State) (src : Source) (c : Cmd), Starts s src 0x0101 c → Ends (.cmdGetInfo src) s (s.dropOldest src) src c .done
    [w32 (s.reg R.SYS_ID), w32 (s.reg R.SEC_FW_VERSION), w32 s.arithSignature, w32 (s.reg R.HOST_STATUS)]) ∧
  (∀ (s : State) (src : Source) (c : Cmd), Starts s src 0x0102 c → ∃ t, Ends (.cmdReset src) s t src c .done ∧
    t.boot.resetDue.isSome = true ∧ (s.boot.resetDue = none → t.boot.resetDue = some 1) ∧
    t = { s.dropOldest src with
      boot := { s.boot with resetDue := t.boot.resetDue }
      host := { (s.dropOldest src).host with resetReply := if c.quiet then [] else statusPacket c.tag .done [] } }) ∧
  (∀ (s : State) (src : Source) (c : Cmd), Starts s src 0x0103 c → c.p 1 % 10 = 0 → 650 ≤ c.p 1 → c.p 1 ≤ 900 →
    s.straps.pwrExt = false → bitAt (s.get F.SYS_PWR_STAT_NO_RESPONSE) 0 = false → s.on F.SYS_PWR_STAT_BAD_MODE = false →
    s.power.depth = 0 → s.runningCmd 0x0103 = none →
    ∃ t, t.power = { s.power with target := c.p 1 } ∧ t.host = (s.dropOldest src).host ∧
      (s.power.now = c.p 1 → Ends (.cmdSetVcore src) s t src c .done [w32 (c.p 1)]) ∧
      (s.power.now ≠ c.p 1 → Lasts (.cmdSetVcore src) s t src c) ∧
      t.get F.SYS_VCORE_TARGET = c.p 1 ∧ t.get F.SYS_VCORE_EFFECTIVE = c.p 1) ∧
  (∀ (s : State) (src : Source) (c : Cmd), Starts s src 0x0103 c → (c.p 1 % 10 ≠ 0 ∨ c.p 1 < 650 ∨ 900 < c.p 1) →
    Ends (.cmdSetVcore src) s (s.dropOldest src) src c .badParam) ∧
  (∀ (s : State) (src : Source) (op : Nat) (body : State → Cmd → State × Answer),
    (∀ c, s.oldest src = some c → c.opcode ≠ op ∨ s.mayStart src op = false) → s.startCmd src op body = s) ∧
  (∀ (s : State) (src : Source) (op : Nat) (e : Source × Cmd), e ∈ s.host.running → e.1 = src → e.2.silent = true →
    s.mayStart src op = false) ∧
  (∀ (s : State) (src : Source) (op : Nat) (c : Cmd) (body : State → Cmd → State × Answer), s.oldest src = some c →
    c.opcode = op → op ≠ 0x0901 → s.mayStart src op = true →
    ((body (s.dropOldest src) c).2.fails = true → s.startCmd src op body =
      (body (s.dropOldest src) c).1.answer src c (body (s.dropOldest src) c).2) ∧
    ((body (s.dropOldest src) c).2.fails = false → c.bulkEnd = .awaiting → s.startCmd src op body = s) ∧
    ((body (s.dropOldest src) c).2.fails = false → op ∉ bulkOps → c.bulkEnd = .truncated →
      s.startCmd src op body = (s.dropOldest src).reply src c .truncated) ∧
    ((body (s.dropOldest src) c).2.fails = false → op ∉ bulkOps → c.bulkEnd = .timedOut →
      s.startCmd src op body = (s.dropOldest src).reply src c .timeout))

/-! ### Camera ports -/

/-- CMD_CAM_ENABLE, CMD_CAM_DISABLE and CMD_CAM_TRIGGER (R86, R97, R99): a valid enable opens the port with its line and block
lengths, its regions and ownership, and touches no other port; one out of range is refused with BAD_PARAM, one of an enabled
port with BAD_STATE, one whose region meets another port's with RESOURCE_HELD. Disable is refused while the port is disabled,
while a consumer names it or while a line is held, and else gives the region back, an open block ending with it. A trigger takes its compare unit or its
field output with period and width, unless another holds it, and period 0 stops it; its pulse ends.
Where the spec leaves a reading open it follows the model's choices of notes/assumptions 37, 39, 40. -/
def Obligations.CameraCommands : Prop :=
  (∀ (s : State) (src : Source) (c : Cmd), Starts s src 0x0201 c → c.target < 17 →
    (s.dropOldest src).camEnableOk c = true → s.on F.CAM_CTRL_EN c.target = false →
    (s.dropOldest src).clashes ⟨ownPortBeam + c.target, (camRegions c).1, (camRegions c).2.1⟩
      (fun o => isPortOwner o && o != ownPortBeam + c.target && o != ownPortSpill + c.target) = false →
    (s.dropOldest src).clashes ⟨ownPortSpill + c.target, (camRegions c).2.2.1, (camRegions c).2.2.2⟩
      (fun o => isPortOwner o && o != ownPortBeam + c.target && o != ownPortSpill + c.target) = false →
    ∃ t, Ends (.cmdCamEnable src) s t src c .done ∧ t = { s.dropOldest src with regs := t.regs, cams := t.cams } ∧
      t.on F.CAM_CTRL_EN c.target = true ∧ t.on F.CAM_CTRL_ARMED c.target = true ∧
      t.get F.CAM_LINE_WORDS_LINE_WORDS c.target = c.p 2 % 2 ^ 14 ∧
      t.get F.CAM_BLOCK_LINES_BLOCK_LINES c.target = c.p 3 % 2 ^ 16 ∧
      t.owner (45 + c.target) = ownLineStore ∧ (t.cam c.target).beam = c.p 5 + 2 ^ 32 * (c.p 6 % 256) ∧
      (t.cam c.target).first = true ∧ (t.cam c.target).held = [] ∧
      ∀ p, p ≠ c.target → tget? t.cams p = tget? s.cams p) ∧
  (∀ (s : State) (src : Source) (c : Cmd), Starts s src 0x0201 c → (s.dropOldest src).camEnableOk c = false →
    Ends (.cmdCamEnable src) s (s.dropOldest src) src c .badParam) ∧
  (∀ (s : State) (src : Source) (c : Cmd), Starts s src 0x0201 c → (s.dropOldest src).camEnableOk c = true →
    (s.on F.CAM_CTRL_EN c.target = true → Ends (.cmdCamEnable src) s (s.dropOldest src) src c .badState) ∧
    (s.on F.CAM_CTRL_EN c.target = false →
      (s.dropOldest src).clashes ⟨ownPortBeam + c.target, (camRegions c).1, (camRegions c).2.1⟩
        (fun o => isPortOwner o && o != ownPortBeam + c.target && o != ownPortSpill + c.target) = true →
      Ends (.cmdCamEnable src) s (s.dropOldest src) src c .resourceHeld)) ∧
  (∀ (s : State) (src : Source) (c : Cmd), Starts s src 0x0202 c → s.on F.CAM_CTRL_EN c.target = false →
    Ends (.cmdCamDisable src) s (s.dropOldest src) src c .badState) ∧
  (∀ (s : State) (src : Source) (c : Cmd), Starts s src 0x0202 c → s.on F.CAM_CTRL_EN c.target = true →
    (s.named c.target = true ∨ (s.cam c.target).held ≠ [] ∨ (s.cam c.target).outs ≠ []) →
    Ends (.cmdCamDisable src) s (s.dropOldest src) src c .busy) ∧
  (∀ (s : State) (src : Source) (c : Cmd), Starts s src 0x0202 c → c.target < 17 → s.on F.CAM_CTRL_EN c.target = true →
    s.named c.target = false → (s.cam c.target).held = [] → (s.cam c.target).outs = [] →
    ∃ t, Ends (.cmdCamDisable src) s t src c .done ∧
      t = { (s.dropOldest src).dropBlock c.target with regs := t.regs, cams := t.cams } ∧
      t.on F.CAM_CTRL_EN c.target = false ∧ t.owner (45 + c.target) = ownNone ∧ (t.cam c.target).beamLen = 0 ∧
      ∀ p, p ≠ c.target → tget? t.cams p = tget? s.cams p) ∧
  (∀ (s : State) (src : Source) (c : Cmd), Starts s src 0x0203 c → c.target < 17 → camTriggerOk c = true → c.p 2 % 2 ^ 24 ≠ 0 →
    bitAt (c.p 1) 8 = true → s.heldByOther (13 + c.p 1 % 32) ownCamera c.target = false →
    ∃ t, Ends (.cmdCamTrigger src) s t src c .done ∧ t.owner (13 + c.p 1 % 32) = ownCamera ∧
      t.ownerInst (13 + c.p 1 % 32) = c.target ∧ (t.cam c.target).trigUnit = some (c.p 1 % 32) ∧
      (t.cam c.target).trigPer = c.p 2 % 2 ^ 24 ∧ (t.cam c.target).trigW = c.p 3 % 2 ^ 16) ∧
  (∀ (s : State) (src : Source) (c : Cmd), Starts s src 0x0203 c → c.target < 17 → camTriggerOk c = true → c.p 2 % 2 ^ 24 ≠ 0 →
    bitAt (c.p 1) 8 = false → s.splits = [] → s.heldByOther (5 + c.p 1 % 32) ownLineTrigger c.target = false →
    ∃ t, Ends (.cmdCamTrigger src) s t src c .done ∧ t.owner (5 + c.p 1 % 32) = ownLineTrigger ∧
      t.ownerInst (5 + c.p 1 % 32) = c.target ∧ (t.cam c.target).trigFo = some (c.p 1 % 32) ∧
      (t.cam c.target).trigPer = c.p 2 % 2 ^ 24 ∧ (t.cam c.target).trigW = c.p 3 % 2 ^ 16) ∧
  (∀ (s : State) (src : Source) (c : Cmd), Starts s src 0x0203 c →
    (camTriggerOk c = false → Ends (.cmdCamTrigger src) s (s.dropOldest src) src c .badParam) ∧
    (camTriggerOk c = true → c.p 2 % 2 ^ 24 ≠ 0 → bitAt (c.p 1) 8 = true →
      s.heldByOther (13 + c.p 1 % 32) ownCamera c.target = true →
      Ends (.cmdCamTrigger src) s (s.dropOldest src) src c .resourceHeld)) ∧
  (∀ (s : State) (src : Source) (c : Cmd), Starts s src 0x0203 c → camTriggerOk c = true → c.p 2 % 2 ^ 24 = 0 →
    ∃ t, Ends (.cmdCamTrigger src) s t src c .done ∧ (t.cam c.target).trigFo = none ∧ (t.cam c.target).trigUnit = none ∧
      (t.cam c.target).trigPer = 0) ∧
  (∀ (s : State) (p : Fin 17), Live s →
    Goes (.triggerPulseEnd (.cam p)) s (s.setCam p.val { s.cam p.val with trigOn := false })) ∧
  (∀ (s : State) (i : Fin 8), DieUp s → ∃ t, Goes (.triggerPulseEnd (.fo i)) s t ∧ OnlyDie s t ∧
    t.die = { s.die with trigOn := t.die.trigOn } ∧
    ∀ j, j < 8 → bitAt t.die.trigOn j = (bitAt s.die.trigOn j && decide (j ≠ i.val)))

/-- Frame Start and Frame End (R87, R89, R91), their header corrected or not: one of another virtual channel does nothing; on a
port that is not enabled a Frame Start is only counted; the first stored one opens a block at the count plus CAM_CNT_OFFSET and
clears ARMED; later ones snap to the expected base within CAM_GAP_TOL, and beyond it record the gap as a hole; a Frame End closes
the block, and one that came short counts BLOCK_SHORT; one with no block open does nothing. The holes that the retained floor has
passed leave the list (R92). -/
def Obligations.CameraBlocks : Prop :=
  (∀ (s : State) (p : Fin 17) (cor : Bool), s.shortPacket p.val cor =
    if cor = true ∧ p.val ≠ 16 then (s.phySeen p.val).bump F.CAM_PKT_CNT_ECC_CORR p.val else s.phySeen p.val) ∧
  (∀ (s : State) (p : Fin 17) (vc : Fin 16) (cor : Bool), Live s → s.onStream p.val vc.val = true →
    s.on F.CAM_CTRL_EN p.val = false →
    Goes (.camFrameStart p vc cor) s ((s.shortPacket p.val cor).bumpWrap F.CAM_FRAMES_FRAMES 1 p.val)) ∧
  (∀ (s : State) (p : Fin 17) (vc : Fin 16) (cor : Bool), Live s → s.onStream p.val vc.val = false →
    Goes (.camFrameStart p vc cor) s (s.shortPacket p.val cor) ∧ Goes (.camFrameEnd p vc cor) s (s.shortPacket p.val cor)) ∧
  (∀ (s : State) (p : Fin 17) (vc : Fin 16) (cor : Bool), Live s → s.onStream p.val vc.val = true → (s.cam p.val).blk = none →
    Goes (.camFrameEnd p vc cor) s (s.shortPacket p.val cor)) ∧
  (∀ (s : State) (p : Fin 17) (vc : Fin 16) (cor : Bool) (k : Int), Live s → s.onStream p.val vc.val = true →
    s.on F.CAM_CTRL_EN p.val = true → s.storing p.val = true → (s.cam p.val).blk = none → (s.cam p.val).first = true →
    (s.cam p.val).standing = none → (∀ q, (s.pipe q).inq = []) → s.count? (s.get F.CAM_CTRL_ENC p.val) = some k →
    ∃ t b, Goes (.camFrameStart p vc cor) s t ∧ (t.cam p.val).blk = some b ∧
      b.base = wrap48 (k + signed 32 (s.get F.CAM_CNT_OFFSET_OFFSET p.val)) ∧ b.pitch = s.camPitch p.val ∧
      b.len = s.get F.CAM_BLOCK_LINES_BLOCK_LINES p.val ∧ b.count = 0 ∧ b.time = s.time.now ∧
      t.on F.CAM_CTRL_ARMED p.val = false ∧ t.mem = s.mem) ∧
  (∀ (s : State) (p : Nat) (raw base : Int) (pitch n : Nat), (s.cam p).first = false → (s.cam p).standing = none →
    (s.cam p).prev = some (base, pitch, n) →
    (∀ tol : Int, tol = (s.get F.CAM_GAP_TOL_TOL p : Int) →
      (base + n * pitch / 65536 - tol ≤ raw → raw ≤ base + n * pitch / 65536 + tol →
        s.placeBlock p raw = (s, base + n * pitch / 65536, true, none)) ∧
      (base + n * pitch / 65536 + tol < raw →
        s.placeBlock p raw = ((s.bump F.CAM_BLOCK_CNT_GAP p).addHole p (base + n * pitch / 65536) (raw - 1), raw, false, none)) ∧
      (raw < base + n * pitch / 65536 - tol →
        s.placeBlock p raw = (s, raw, false, some (base + n * pitch / 65536))))) ∧
  (∀ (s : State) (p : Fin 17) (vc : Fin 16) (cor : Bool) (b : Block), Live s → s.onStream p.val vc.val = true →
    (s.cam p.val).blk = some b → s.storing p.val = true → b.port = p.val → b.pipe = none →
    ∃ t, Goes (.camFrameEnd p vc cor) s t ∧ (t.cam p.val).blk = none ∧ t.mem = s.mem ∧
      (b.count < b.len → t.get F.CAM_BLOCK_CNT_BLOCK_SHORT p.val = min (s.get F.CAM_BLOCK_CNT_BLOCK_SHORT p.val + 1) 255) ∧
      (b.len ≤ b.count → t.get F.CAM_BLOCK_CNT_BLOCK_SHORT p.val = s.get F.CAM_BLOCK_CNT_BLOCK_SHORT p.val)) ∧
  (∀ (s : State) (p : Fin 17) (f : Int), Live s → s.retainFloor p.val = some f → ∃ t, Goes (.holeExpire p) s t ∧
    t = { s with regs := t.regs, cams := t.cams } ∧ SameRegs s t [R.CAM_HOLES.addr p.val 0] ∧
    (t.cam p.val).holes = (s.cam p.val).holes.filter fun h => decide (f ≤ h.2))

/-- Lines (R83, R84, R85, R90, R91, R94, R96), on any port, `pk` being the packet of a CSI-2 port or the line that the pins of the
parallel port carry: an uncorrectable header counts HDR_ERR; a corrected one ECC_CORR, a payload with a bad CRC CRC_ERR, and then
a packet that is not of the stream DISCARD, one with no block open ORPHAN; a line of an open block takes its slot, is filled or
cut to the line length and stored in whole granules there, every other byte of memory unchanged, its lost words poisoned;
without room its span becomes a hole, and that is a timing-dependent choice.
Where the spec leaves a reading open it follows the model's choices of notes/assumptions 36. -/
def Obligations.CameraLines : Prop :=
  (∀ (s : State) (p : Fin 17) (k : CamPacket), Live s → p.val ≠ 16 → 2 ≤ k.header → (s.cam p.val).blk = none →
    Goes (.camLongPacket p k) s ((s.phySeen p.val).bump F.CAM_PKT_CNT_HDR_ERR p.val)) ∧
  (∀ (s u v : State) (p : Fin 17) (k pk : CamPacket), Live s → pk = (if p.val = 16 then s.pinPacket k else k) → pk.header < 2 →
    u = (if pk.header = 1 then (s.phySeen p.val).bump F.CAM_PKT_CNT_ECC_CORR p.val else s.phySeen p.val) →
    v = (if pk.crcOk = true then u else u.bump F.CAM_PKT_CNT_CRC_ERR p.val) →
    (s.streamPacket p.val pk = false → Goes (.camLongPacket p k) s (v.bump F.CAM_PKT_CNT_DISCARD p.val)) ∧
    (s.streamPacket p.val pk = true → s.on F.CAM_CTRL_EN p.val = false → Goes (.camLongPacket p k) s v) ∧
    (s.streamPacket p.val pk = true → s.on F.CAM_CTRL_EN p.val = true → s.storing p.val = true → (s.cam p.val).blk = none →
      (s.on F.CAM_CTRL_ARMED p.val = false ∨ (s.cam p.val).orphans = true) →
      Goes (.camLongPacket p k) s (v.bump F.CAM_LINE_CNT_ORPHAN p.val))) ∧
  (∀ (s : State) (p : Fin 17) (k pk : CamPacket) (b : Block) (slot addr n : Nat), Live s →
    pk = (if p.val = 16 then s.pinPacket k else k) → pk.header < 2 → pk.crcOk = true → pk.room = true →
    s.streamPacket p.val pk = true → s.on F.CAM_CTRL_EN p.val = true → s.storing p.val = true →
    (s.cam p.val).blk = some b → b.port = p.val → b.pipe = none → b.count < b.len → (s.cam p.val).behind = none →
    s.lineSlot p.val = some (slot, addr) → n = 4 * s.get F.CAM_LINE_WORDS_LINE_WORDS p.val →
    ∃ t, Goes (.camLongPacket p k) s t ∧ (∃ b', (t.cam p.val).blk = some b' ∧ b'.count = b.count + 1) ∧
      t.mem = (s.writeData addr (lineData addr (fitLine (s.get F.CAM_FILL_FILL p.val) n pk.payload) pk.lost)).mem ∧
      SameBytesBut s t addr (roundUp n (granSize addr))) ∧
  (∀ (addr i : Nat) (d : List Byte) (lost : List Nat), i < d.length → (lineData addr d lost)[i]? =
    some (if i / 8 ∈ lost then none else d[i]?)) ∧
  (∀ (fill len : Nat) (d : List Byte), (fitLine fill len d).length = len ∧
    (∀ i, i < len → i < d.length → (fitLine fill len d)[i]? = d[i]?) ∧
    (∀ i, i < len → d.length ≤ i → (fitLine fill len d)[i]? = some (fillByte fill i))) ∧
  (∀ (s : State) (p : Fin 17) (k pk : CamPacket) (b : Block), Live s → pk = (if p.val = 16 then s.pinPacket k else k) →
    pk.header < 2 → s.streamPacket p.val pk = true → s.on F.CAM_CTRL_EN p.val = true → s.storing p.val = true →
    (s.cam p.val).blk = some b → b.port = p.val → b.count < b.len → (s.cam p.val).behind = none → pk.room = false →
    ∃ t, Goes (.camLongPacket p k) s t ∧ (t.cam p.val).blk = some (b.next true) ∧ t.mem = s.mem ∧
      t.get F.CAM_DROP_CNT_FIFO_DROP p.val = min (s.get F.CAM_DROP_CNT_FIFO_DROP p.val + 1) 255 ∧
      t.get F.DET_TDC_COUNT = (s.get F.DET_TDC_COUNT + 1) % 2 ^ 32) ∧
  (∀ (s : State) (p : Fin 17) (l : Line), Live s → l ∈ (s.cam p.val).held →
    ∃ t, Goes (.lineRetainPass p) s t ∧ t = { s with regs := t.regs, cams := t.cams } ∧
      (l ∈ (t.cam p.val).held ↔ (l.takers ≠ [] ∨ s.retained p.val l = true)))

/-! ### Image pipes -/

/-- The pipe commands (R102, R114, R118, R121): a valid configuration takes the stages, pattern, threshold, format and
matrices and shows no other pipe's registers changed; one that serves a port another pipe serves is refused; a table
within its limits replaces its position's or its matrix's and reports the bytes taken, another is refused with BAD_PARAM, and one
cut short with TRUNCATED, with the bytes taken; statistics take their settings, a grid out of range is refused; a tap shows its new
mode, N and channel, its rule mask waiting for the port's next block; other values are refused.
Where the spec leaves a reading open it follows the model's choices of notes/assumptions 38, 45, 182. -/
def Obligations.PipeCommands : Prop :=
  (∀ (s : State) (src : Source) (c : Cmd), Starts s src 0x0204 c → c.target < 4 → pipeConfigOk c = true →
    (s.dropOldest src).storeOk c.target = true → (∀ p q, p < 17 → s.servedBy p = some q → q = c.target) →
    (s.outLines c.target = [] ∨ (s.pipe c.target).store = some (s.storeRegs c.target)) →
    ∃ t, Ends (.cmdPipeConfig src) s t src c .done ∧ t = { s.dropOldest src with regs := t.regs, pipes := t.pipes } ∧
      t.get F.PIPE_CTRL_INLINE c.target = c.p 1 ∧ t.get F.PIPE_CTRL_TM_MASK c.target = c.p 2 ∧
      t.get F.PIPE_STAGES_EN c.target = c.p 3 % 32 ∧ t.get F.PIPE_STAGES_CFA c.target = c.p 3 / 256 ∧
      t.get F.PIPE_DM_THRESH_T c.target = c.p 4 ∧
      t.get F.PIPE_OUT_FMT_FMT c.target = c.p 5 ∧ t.get F.PIPE_OUT_FMT_MATRIX_SEL c.target = c.p 6 ∧
      (t.pipe c.target).store = some (s.storeRegs c.target) ∧
      (∀ q, q ≠ c.target → tget? t.pipes q = tget? s.pipes q) ∧
      ∀ r ∈ [R.PIPE_CTRL, R.PIPE_STAGES, R.PIPE_DM_THRESH, R.PIPE_OUT_FMT], ∀ q, q < 4 → q ≠ c.target → t.reg r q = s.reg r q) ∧
  (∀ (s : State) (src : Source) (c : Cmd), Starts s src 0x0204 c →
    (pipeConfigOk c = false ∨ (s.dropOldest src).storeOk c.target = false) →
    Ends (.cmdPipeConfig src) s (s.dropOldest src) src c .badParam) ∧
  (∀ (s : State) (src : Source) (c : Cmd) (p q : Nat), Starts s src 0x0204 c → pipeConfigOk c = true →
    (s.dropOldest src).storeOk c.target = true → p < 17 → (c.p 1 = p ∨ bitAt (c.p 2) p = true) → s.servedBy p = some q →
    q ≠ c.target → Ends (.cmdPipeConfig src) s (s.dropOldest src) src c .badState) ∧
  (∀ (s : State) (src : Source) (c : Cmd) (key kind port : Nat), Starts s src 0x0205 c → kind = c.p 1 % 4 → port = c.p 2 % 32 →
    (kind = 3 → port < 4 ∧ key = 48 + port) →
    (kind ≠ 3 → port < 17 ∧ s.servedBy port = some c.target ∧ key = 16 * kind + s.pipePos c.target port) →
    ((tableOf kind c.bulk).2 = true → ∃ t, Ends (.cmdPipeTable src) s t src c .done [w32 c.bulk.length] ∧
      t = { s.dropOldest src with pipes := t.pipes } ∧
      tget? (t.pipe c.target).tables key = some (tableOf kind c.bulk).1) ∧
    ((tableOf kind c.bulk).2 = false →
      Ends (.cmdPipeTable src) s (s.dropOldest src) src c .badParam [w32 c.bulk.length])) ∧
  (∀ (s : State) (src : Source) (c : Cmd), Live s → s.oldest src = some c → c.opcode = 0x0205 → s.mayStart src 0x0205 = true →
    (((c.p 1 % 4 = 3 ∧ 4 ≤ c.p 2 % 32) ∨
        (c.p 1 % 4 < 3 ∧ (17 ≤ c.p 2 % 32 ∨ s.servedBy (c.p 2 % 32) ≠ some c.target))) →
      Ends (.cmdPipeTable src) s (s.dropOldest src) src c .badParam [0]) ∧
    (c.p 1 % 4 = 3 → c.p 2 % 32 < 4 → c.bulkEnd = .truncated →
      Ends (.cmdPipeTable src) s (s.dropOldest src) src c .truncated [w32 c.bulk.length])) ∧
  (∀ bs : List Byte, (tableOf 2 bs).1 = halves bs ∧ ((tableOf 2 bs).2 = true ↔ (halves bs).length = 4096) ∧
    (tableOf 3 bs).1 = halves bs ∧ ((tableOf 3 bs).2 = true ↔ (halves bs).length = 12) ∧
    ((tableOf 0 bs).2 = true ↔ 1 ≤ bs.length / 4 ∧ bs.length / 4 ≤ 16384) ∧
    ((tableOf 1 bs).2 = true ↔ (halves bs).length ≤ 4096 ∧ (∀ e ∈ halves bs, e / 16384 ≠ 3) ∧
      (halves bs).Pairwise fun a b => a % 16384 < b % 16384)) ∧
  (∀ (s : State) (src : Source) (c : Cmd), Starts s src 0x0207 c →
    (1 ≤ c.p 1 % 128 → c.p 1 % 128 ≤ 64 → 1 ≤ c.p 1 / 256 % 32 → c.p 1 / 256 % 32 ≤ 16 →
      ∃ t, Ends (.cmdStatsSet src) s t src c .done ∧ OnlyRegs (s.dropOldest src) t [R.PIPE_STAT_CFG.addr c.target 0] ∧
        t.get F.PIPE_STAT_CFG_ZX c.target = c.p 1 % 128 ∧ t.get F.PIPE_STAT_CFG_ZY c.target = c.p 1 / 256 % 32 ∧
        t.get F.PIPE_STAT_CFG_HIST_EN c.target = c.p 2 % 256 ∧ t.get F.PIPE_STAT_CFG_ZONE_EN c.target = c.p 2 / 256 % 256) ∧
    ((c.p 1 % 128 = 0 ∨ 64 < c.p 1 % 128 ∨ c.p 1 / 256 % 32 = 0 ∨ 16 < c.p 1 / 256 % 32) →
      Ends (.cmdStatsSet src) s (s.dropOldest src) src c .badParam)) ∧
  (∀ (s : State) (src : Source) (c : Cmd) (n : Nat), Starts s src 0x0206 c → c.target < 4 → n = c.p 1 % 4 →
    (s.dropOldest src).tapOk c = true →
    ∃ t, Ends (.cmdTapSet src) s t src c .done ∧ t.get F.PIPE_TAP_MODE c.target n = c.p 2 % 4 ∧
      t.get F.PIPE_TAP_N c.target n = c.p 2 / 2 ^ 16 ∧ t.get F.PIPE_TAP_VC c.target n = c.p 3 % 32 ∧
      tget? (t.pipe c.target).tapDue n = some (c.p 4 % 2 ^ 16) ∧
      t.get F.PIPE_TAP_RULE_RULES c.target n = s.get F.PIPE_TAP_RULE_RULES c.target n ∧ t.mem = s.mem) ∧
  (∀ (s : State) (src : Source) (c : Cmd), Starts s src 0x0206 c → (s.dropOldest src).tapOk c = false →
    Ends (.cmdTapSet src) s (s.dropOldest src) src c .badParam)

/-- Blocks and lines in a pipe (R104, R105, R115): an idle pipe takes the eligible block with the earliest Frame Start, the
lowest port first among equals; a through-memory block leaves the pipe when its stored lines, each read from its slot and in line
order, have been through the stages; the next in-line line goes through the stages; a line whose output slot is too small counts
OVERSIZE. -/
def Obligations.PipeBlocks : Prop :=
  (∀ (s : State) (q : Fin 4) (b : Block) (bs : List Block), Live s → (s.pipe q.val).work = none →
    (s.pipe q.val).queue = b :: bs → ∃ t c, Goes (.pipeBlockStart q) s t ∧ t = { s with regs := t.regs, pipes := t.pipes } ∧
      (t.pipe q.val).work = some c ∧ c ∈ b :: bs ∧
      (∀ d ∈ b :: bs, c.time < d.time ∨ (c.time = d.time ∧ c.port ≤ d.port)) ∧
      (t.pipe q.val).queue.length = bs.length) ∧
  (∀ (s : State) (q : Fin 4) (b : Block) (r : State × PipeWork), Live s → (s.pipe q.val).work = some b →
    r = b.lines.foldl throughLine (s.setPipe q.val { s.pipe q.val with work := none }, { blk := b }) →
    Goes (.pipeBlockDone q) s (pipeEnd r.1 r.2 b.count b.holed)) ∧
  (∀ (s : State) (q : Fin 4), Live s → (s.pipe q.val).work = none → Goes (.pipeBlockDone q) s s) ∧
  (∀ (s : State) (q : Fin 4) (b : Block) (e : Nat × Nat) (l : Line), Live s → (s.pipe q.val).work = some b → b.lines = [e] →
    (s.cam b.port).held.find? (·.uid == e.2) = some l →
    ∃ t d w, (s.setPipe q.val { s.pipe q.val with work := none }).readData l.addr l.len = (t, d) ∧
      pipeLine t { blk := b } e.1 e.2 d = w ∧ Goes (.pipeBlockDone q) s (pipeEnd w.1 w.2 b.count b.holed)) ∧
  (∀ (s : State) (q : Fin 4) (k uid : Nat) (d : Data) (w : PipeWork) (es : List InEvent) (r : State × PipeWork), Live s →
    (s.pipe q.val).inq = .line k uid d :: es → (s.pipe q.val).inline = some w →
    r = pipeLine (s.keepInline q.val none es) w k uid d →
    Goes (.pipeInlineLineDone q) s ((r.1.keepInline q.val (some r.2) es).inlineMarks q.val (es.length + 1))) ∧
  (∀ (s : State) (w : PipeWork) (k uid : Nat) (d : Data),
    w.blk.cfg.slotSize < packedLen w.blk.cfg.fmt (s.portWidth w.blk.port) →
    ∃ t, pipeLine s w k uid d = (t, { w with blk := { w.blk with holed := true } }) ∧
      t.mem = s.mem ∧ t.get F.PIPE_CNT_OVERSIZE w.blk.cfg.q =
        min (s.get F.PIPE_CNT_OVERSIZE w.blk.cfg.q + 1) (2 ^ F.PIPE_CNT_OVERSIZE.width - 1))

/-! ### The part finder, bobbins and samples -/

/-- Provisional actions, class maps and rules (R27, R28, R126, R132, R135): a table without the reserved code is taken, one with
it refused; enabling a rule is refused out of range, while it is enabled, until BOB_PROV_TABLE has been written, for a lane that
is not set and for ports that cannot feed it; a rule whose checks hold is set, a probe input then belonging to it unless another
feature holds it; disabling a rule is refused while it is disabled and while one of its bobbins is ARMING, and gives its probe
input back, the latches already arrived and the multiples already reached having their bobbins first.
Where the spec leaves a reading open it follows the model's choice of notes/assumptions 221. -/
def Obligations.RuleCommands : Prop :=
  (∀ (s : State) (src : Source) (c : Cmd), Starts s src 0x0301 c → hasReserved (c.p 1) = false →
    Ends (.cmdProvTableSet src) s { ((s.dropOldest src).setReg R.BOB_PROV_TABLE (c.p 1)).stored 6 with
      boot := { s.boot with provWritten := true } } src c .done) ∧
  (∀ (s : State) (src : Source) (c : Cmd) (i : Nat), i < 16 → (c.p 1 / 2 ^ (2 * i)) % 4 = 3 →
    (Starts s src 0x0301 c → Ends (.cmdProvTableSet src) s (s.dropOldest src) src c .badParam) ∧
    (Starts s src 0x0305 c → Ends (.cmdClassMapSet src) s (s.dropOldest src) src c .badParam)) ∧
  (∀ (s : State) (src : Source) (c : Cmd), Starts s src 0x0305 c → hasReserved (c.p 1) = false →
    Ends (.cmdClassMapSet src) s (((s.dropOldest src).setReg R.BOB_CLASS_MAP (c.p 1) c.target).stored (7 + c.target)) src c
      .done) ∧
  (∀ (s : State) (src : Source) (c : Cmd), Starts s src 0x0302 c →
    (finderOk c = false → Ends (.cmdFinderEnable src) s (s.dropOldest src) src c .badParam) ∧
    (finderOk c = true → (s.on F.BOB_RULE_CTRL_EN c.target = true ∨ (s.dropOldest src).laneCfg F.BOB_LANE_CFG_SET (c.p 6 % 16) = 0 ∨
      (s.dropOldest src).feedsOk c = false) → Ends (.cmdFinderEnable src) s (s.dropOldest src) src c .badState)) ∧
  (∀ (s : State) (src : Source) (c : Cmd), Starts s src 0x0302 c → finderOk c = true →
    s.on F.BOB_RULE_CTRL_EN c.target = false → s.boot.provWritten = false →
    Ends (.cmdFinderEnable src) s (s.dropOldest src) src c .badState) ∧
  (∀ (s : State) (src : Source) (c : Cmd), Starts s src 0x0302 c → c.target < 16 → finderOk c = true →
    s.on F.BOB_RULE_CTRL_EN c.target = false → s.boot.provWritten = true →
    (s.dropOldest src).laneCfg F.BOB_LANE_CFG_SET (c.p 6 % 16) ≠ 0 → (s.dropOldest src).feedsOk c = true →
    (c.p 1 % 4 = 2 → ∃ t, Ends (.cmdFinderEnable src) s t src c .done ∧
      t = { s.dropOldest src with regs := t.regs, rules := t.rules } ∧ t.reg R.BOB_RULE_CTRL c.target = ruleWord c ∧
      (t.rule c.target).wlen = c.p 5 ∧ (t.rule c.target).offset = signed 32 (c.p 4) ∧ (t.rule c.target).detail = c.p 2 ∧
      (t.rule c.target).next = (s.count? (c.p 3 % 2)).map fun k => nextMultiple k (c.p 2)) ∧
    (c.p 1 % 4 = 1 → ∃ t, Ends (.cmdFinderEnable src) s t src c .done ∧
      t = { s.dropOldest src with regs := t.regs, rules := t.rules } ∧ t.reg R.BOB_RULE_CTRL c.target = ruleWord c ∧
      (t.rule c.target).wlen = c.p 5 ∧ (t.rule c.target).offset = signed 32 (c.p 4) ∧ (t.rule c.target).detail = c.p 2 ∧
      (t.rule c.target).next = none) ∧
    (c.p 1 % 4 = 0 → s.splits = [] → s.heldByOther (c.p 2 % 4) ownProbe c.target = false →
      ∃ t, Ends (.cmdFinderEnable src) s t src c .done ∧ t.on F.BOB_RULE_CTRL_EN c.target = true ∧
      t.owner (c.p 2 % 4) = ownProbe ∧ t.ownerInst (c.p 2 % 4) = c.target) ∧
    (c.p 1 % 4 = 0 → s.heldByOther (c.p 2 % 4) ownProbe c.target = true →
      Ends (.cmdFinderEnable src) s (s.dropOldest src) src c .resourceHeld)) ∧
  (∀ (s : State) (src : Source) (c : Cmd), Starts s src 0x0303 c → s.on F.BOB_RULE_CTRL_EN c.target = false →
    Ends (.cmdFinderDisable src) s (s.dropOldest src) src c .badState) ∧
  (∀ (s : State) (src : Source) (c : Cmd), Starts s src 0x0303 c → s.on F.BOB_RULE_CTRL_EN c.target = true →
    (∃ e ∈ s.bobs, e.2.rule = c.target ∧ e.2.state = .arming) →
    Ends (.cmdFinderDisable src) s (s.dropOldest src) src c .busy) ∧
  (∀ (s : State) (src : Source) (c : Cmd), Starts s src 0x0303 c → c.target < 16 → s.on F.BOB_RULE_CTRL_EN c.target = true →
    (∀ e ∈ s.bobs, ¬(e.2.rule = c.target ∧ e.2.state = .arming)) →
    ∃ t, Ends (.cmdFinderDisable src) s t src c .done ∧ t.on F.BOB_RULE_CTRL_EN c.target = false ∧
      t.bobs = ((s.dropOldest src).findDue c.target).bobs ∧ t.mem = s.mem ∧ (s.get F.BOB_RULE_CTRL_SOURCE c.target = 0 → s.splits = [] → t.owner (bitsOf (s.rule c.target).detail 0 2) = ownNone))

/-- Lanes, sample settings and CMD_BOBBIN_READ (R133, R139, R152): a lane takes its mask, pulse, offset, advance and valve
channels, and owns every output of its mask; values out of range and valve channels of another lane are refused with BAD_PARAM, an
output that another feature holds with RESOURCE_HELD; sample settings are refused out of range and while samples are outstanding;
a free bobbin reads as zeros, another as its state and serial; a number beyond 0xFFF is refused.
Where the spec leaves a reading open it follows the model's choices of notes/assumptions 51. -/
def Obligations.LaneAndSampleCommands : Prop :=
  (∀ (s : State) (src : Source) (c : Cmd), Starts s src 0x0304 c → c.target < 16 → laneOk c = true →
    (s.dropOldest src).valvesTaken c = false →
    (∀ i, i < 8 → bitAt (c.p 1) i = true → s.heldByOther (5 + i) ownEjector c.target = false) →
    ∃ t, Ends (.cmdLaneSet src) s t src c .done ∧
      t = { s.dropOldest src with regs := t.regs, field := t.field, copies := t.copies } ∧
      t.get F.BOB_LANE_CFG_MASK c.target = c.p 1 ∧ t.get F.BOB_LANE_CFG_WIDTH c.target = c.p 3 % 2 ^ 16 ∧
      t.get F.BOB_LANE_CFG_SET c.target = 1 ∧ t.get F.BOB_LANE_OFFSET_OFFSET c.target = c.p 2 ∧
      t.get F.BOB_LANE_ADVANCE_ADVANCE c.target = c.p 4 ∧ t.reg R.BOB_LANE_VALVE c.target = c.p 5 ∧
      (s.splits = [] → ∀ i, i < 8 → bitAt (c.p 1) i = true → t.owner (5 + i) = ownEjector ∧ t.ownerInst (5 + i) = c.target)) ∧
  (∀ (s : State) (src : Source) (c : Cmd), Starts s src 0x0304 c → (laneOk c = false ∨ (s.dropOldest src).valvesTaken c = true) →
    Ends (.cmdLaneSet src) s (s.dropOldest src) src c .badParam) ∧
  (∀ (s : State) (src : Source) (c : Cmd) (i : Nat), Starts s src 0x0304 c → laneOk c = true →
    (s.dropOldest src).valvesTaken c = false → i < 8 → bitAt (c.p 1) i = true →
    s.heldByOther (5 + i) ownEjector c.target = true → Ends (.cmdLaneSet src) s (s.dropOldest src) src c .resourceHeld) ∧
  (∀ (s : State) (src : Source) (c : Cmd), Starts s src 0x0306 c → s.intake.samples = [] → 1 ≤ c.p 1 → c.p 1 ≤ 256 →
    c.p 2 < 2 ^ 16 → c.p 3 ≠ 0 → ∃ t, Ends (.cmdSampleConfig src) s t src c .done ∧
      t = { s.dropOldest src with regs := t.regs, intake := { s.intake with nextSeq := 0, nextOut := 0 } } ∧
      t.get F.SAMPLE_CREDITS_LIMIT = c.p 1 ∧ t.get F.SAMPLE_CREDITS_AVAIL = c.p 1 ∧
      t.get F.SAMPLE_DECODE_LIMIT_US = c.p 2 ∧ t.get F.SAMPLE_MAX_PIXELS_MAX = c.p 3) ∧
  (∀ (s : State) (src : Source) (c : Cmd), Starts s src 0x0306 c → s.intake.samples ≠ [] →
    Ends (.cmdSampleConfig src) s (s.dropOldest src) src c .badState) ∧
  (∀ (s : State) (src : Source) (c : Cmd), Starts s src 0x0306 c → s.intake.samples = [] →
    (c.p 1 = 0 ∨ 256 < c.p 1 ∨ 2 ^ 16 ≤ c.p 2 ∨ c.p 3 = 0) →
    Ends (.cmdSampleConfig src) s (s.dropOldest src) src c .badParam) ∧
  (∀ (s : State) (src : Source) (c : Cmd), Starts s src 0x0307 c → 0xFFF < c.p 1 →
    Ends (.cmdBobbinRead src) s (s.dropOldest src) src c .badParam) ∧
  (∀ (s : State) (src : Source) (c : Cmd), Starts s src 0x0307 c → c.p 1 ≤ 0xFFF →
    ∃ ws, Ends (.cmdBobbinRead src) s (s.dropOldest src) src c .done ws ∧ ws.length = 6 ∧
      ((s.bob (c.p 1)).state = .free → ws = [0, 0, 0, 0, 0, 0]) ∧
      ((s.bob (c.p 1)).state ≠ .free → ws.getD 1 0 = w32 (s.bob (c.p 1)).serial ∧
        (ws.getD 0 0).toNat % 16 = (s.bob (c.p 1)).state.code))

/-- Parts found (R19, R123, R127, R138): an enabled pitch rule triggers once when the mirrored count reaches its multiple, and then
waits for the next one; a part found while the link is down, the field die is safe or the count is not valid, or without a
free bobbin or entry, is only counted and notified; the next bobbin is the lowest free one above the one allocated last; an
ARMED-FINAL bobbin that ages out becomes FREE, its entry orphaned; a write of BOB_AGE_LIMIT takes the limit and ages out every
ARMED-FINAL bobbin that is older; none ages out whose report of the end has arrived (R46, R137). The creation of a bobbin (R17, R123, R124, R129): with a
free bobbin and a free entry, a part found at a trigger count becomes an ARMING bobbin whose window starts at the count plus
the rule's offset; its eject count is that plus the lane's offset, its close count that minus the lead; it takes the next
serial, and its entry goes to the field die in three messages.
Where the spec leaves a reading open it follows the model's choices of notes/assumptions 49, 50, 52. -/
def Obligations.Parts : Prop :=
  (∀ (s : State) (r : Fin 16) (m k : Int), Live s → s.on F.BOB_RULE_CTRL_EN r.val = true →
    s.get F.BOB_RULE_CTRL_SOURCE r.val = 2 → (s.rule r.val).next = some m → s.count? (s.get F.BOB_RULE_CTRL_ENC r.val) = some k →
    m ≤ k → Goes (.pitchTrigger r) s
      ((s.setRule r.val { s.rule r.val with next := some (m + (s.rule r.val).detail) }).partFound r.val m)) ∧
  (∀ (s : State) (r : Fin 16) (m k : Int), Live s → (s.rule r.val).next = some m →
    s.count? (s.get F.BOB_RULE_CTRL_ENC r.val) = some k → k < m → Goes (.pitchTrigger r) s s) ∧
  (∀ (s : State) (r : Nat) (c : Int), s.role ≠ 2 →
    (s.isSplit = true ∨ s.on F.FIELD_LINK_STAT_UP = false ∨ s.on F.FIELD_LINK_STAT_SAFE = true ∨
      s.on F.FIELD_LINK_STAT_COUNT_VALID = false ∨ s.nextBob = none ∨ s.freeEntryNo = none) →
    s.partFound r c = (s.bump F.BOB_UNTRACKED_PARTS).raise F.HOST_IBI_CAUSE_UNTRACKED) ∧
  (∀ (s : State) (id : Nat), s.nextBob = some id → id < 3840 ∧ tget? s.bobs id = none ∧
    ∃ i, i < 3840 ∧ id = (s.lastBob + 1 + i) % 3840 ∧ ∀ j, j < i → tget? s.bobs ((s.lastBob + 1 + j) % 3840) ≠ none) ∧
  (∀ (s : State) (b : Fin 4096), Live s → tsorted s.bobs = true → s.get F.BOB_AGE_LIMIT_MS ≠ 0 →
    (s.bob b.val).state = .armedFinal → s.ejectWaits b.val = false → ∃ t, Goes (.bobAgeExpire b) s t ∧ (t.bob b.val).state = .free ∧
      (∀ e ∈ t.field.table, e.2.bobbin ≠ some b.val) ∧ t.die = s.die ∧
      t.get F.BOB_CNT_AGED = min (s.get F.BOB_CNT_AGED + 1) 255) ∧
  (∀ (s : State) (b : Fin 4096), Live s →
    (s.get F.BOB_AGE_LIMIT_MS = 0 ∨ (s.bob b.val).state ≠ .armedFinal ∨ s.ejectWaits b.val = true) →
    Goes (.bobAgeExpire b) s s) ∧
  (∀ (s : State) (v : Word) (lim : Nat), Live s → lim = v.toNat % 2 ^ 16 * 1000000 →
    Goes (.bobAgeLimitWrite v) s (foldState (fun u (e : Nat × Bobbin) => u.ageOut e.1) (s.mergeReg R.BOB_AGE_LIMIT v.toNat)
      (s.bobs.filter fun e => decide (e.2.state = .armedFinal ∧ lim ≠ 0 ∧ lim < s.time.uptime - e.2.since ∧
        s.ejectWaits e.1 = false)))) ∧
  (∀ (s : State) (r id e : Nat) (c : Int), s.role ≠ 2 → s.isSplit = false → s.on F.FIELD_LINK_STAT_UP = true →
    s.on F.FIELD_LINK_STAT_SAFE = false → s.on F.FIELD_LINK_STAT_COUNT_VALID = true → s.nextBob = some id →
    s.freeEntryNo = some e → ∃ t, s.partFound r c = t ∧ (t.bob id).state = .arming ∧
      (t.bob id).wstart = wrap48 (c + (s.rule r).offset) ∧
      (t.bob id).eject = wrap48 ((t.bob id).wstart + s.get F.BOB_LANE_OFFSET_OFFSET (s.get F.BOB_RULE_CTRL_LANE r)) ∧
      (t.bob id).close = wrap48 ((t.bob id).eject - s.lead) ∧ (t.bob id).serial = s.get F.BOB_SERIAL_NEXT ∧
      (t.bob id).entry = some e ∧ t.lastBob = id ∧ t.get F.BOB_SERIAL_NEXT = (s.get F.BOB_SERIAL_NEXT + 1) % 2 ^ 32 ∧
      t.mem = s.mem ∧ ∃ a b d, t.field.link.queue = s.field.link.queue ++ [a, b, d] ∧
        (∃ us, a = .entryA e id (t.bob id).mask (t.bob id).enc (t.bob id).provAct us) ∧
        b = .entryB (unsigned 48 (t.bob id).eject % 2 ^ 40) ∧
        ∃ w, d = .entryC (unsigned 48 (t.bob id).eject / 2 ^ 40) s.lead w)

/-- Samples (R140 to R149), from packets with a good or a corrected header: header bytes gather per virtual channel up to 48; a
complete header whose checks hold takes a credit, and, with no earlier header incomplete, the next sequence number; one whose CRC
fails takes neither and counts in REJECT; decoding starts, ends with the image or with BAD_PARAM for a file that R144 refuses, or
ends with TIMEOUT, a timing-dependent choice; the first ready sample takes the lowest free sample bobbin. A deferred optimiser
step is noted where a mini-batch has filled (R254).
Where the spec leaves a reading open it follows the model's choices of notes/assumptions 53, 54, 56. -/
def Obligations.SampleIntake : Prop :=
  (∀ (s u : State) (x : RxPacket) (v : Fin 4), Live s → s.host.csiReady = true → x.header < 2 → x.listed = true →
    x.crcOk = true → x.vc = v.val → tget? s.intake.opened v.val = none → tget? s.intake.headers v.val = none →
    u = (if x.header = 1 then s.bump F.HOST_RX_CNT_ECC_CORR else s) → x.payload.length < 48 → Goes (.hostRxSample x) s
      (State.noteDefers { u with intake := { s.intake with
        headers := tset s.intake.headers v.val (s.intake.nextPlace, x.payload), nextPlace := s.intake.nextPlace + 1 } })) ∧
  (∀ (s u : State) (x : RxPacket) (v : Fin 4) (n : Nat) (bs : List Byte), Live s → s.host.csiReady = true → x.header < 2 →
    x.listed = true → x.crcOk = true → x.vc = v.val → tget? s.intake.opened v.val = none →
    tget? s.intake.headers v.val = some (n, bs) → bs.length + x.payload.length < 48 →
    u = (if x.header = 1 then s.bump F.HOST_RX_CNT_ECC_CORR else s) → Goes (.hostRxSample x) s
      (State.noteDefers { u with intake := { s.intake with headers := tset s.intake.headers v.val (n, bs ++ x.payload) } })) ∧
  (∀ (s u : State) (x : RxPacket) (v : Fin 4) (ws : List Word), Live s → s.host.csiReady = true → x.header < 2 →
    x.listed = true → x.crcOk = true → x.vc = v.val → tget? s.intake.opened v.val = none → s.intake.headers = [] →
    x.payload.length = 48 → ws = bytesWords x.payload → (∀ y ∈ s.intake.samples, y.seq ≠ none ∧ y.place < s.intake.nextPlace) →
    (∀ y, s.numbered s.intake.nextOut = some y → y.status = none) →
    u = (if x.header = 1 then s.bump F.HOST_RX_CNT_ECC_CORR else s) →
    (crcWords (ws.take 11) = ws.getD 11 0 → s.get F.SAMPLE_CREDITS_AVAIL ≠ 0 →
      u.sampleRefusal { place := s.intake.nextPlace, vc := v.val, header := ws, size := 0, grey := greyJpeg s.intake.nextPlace ws [] } =
        (none, false) →
      ∃ t, Goes (.hostRxSample x) s t ∧ t.get F.SAMPLE_CREDITS_AVAIL = s.get F.SAMPLE_CREDITS_AVAIL - 1 ∧
        t.intake.nextSeq = (s.intake.nextSeq + 1) % 2 ^ 32 ∧ t.intake.samples.length = s.intake.samples.length + 1 ∧
        (∃ y ∈ t.intake.samples, y.seq = some s.intake.nextSeq ∧ y.header = ws ∧ y.stage = .stream) ∧
        (tget? t.intake.opened v.val).isSome = true) ∧
    (crcWords (ws.take 11) ≠ ws.getD 11 0 →
      ∃ t, Goes (.hostRxSample x) s t ∧ t.get F.SAMPLE_CREDITS_AVAIL = s.get F.SAMPLE_CREDITS_AVAIL ∧
        t.intake.nextSeq = s.intake.nextSeq ∧ t.intake.samples = s.intake.samples ∧
        t.get F.SAMPLE_CNT_REJECT = min (s.get F.SAMPLE_CNT_REJECT + 1) 255)) ∧
  (∀ (s : State) (n : Nat) (x : Sample), Live s → s.numbered n = some x → x.jpeg = true → x.decoder.isSome = true →
    x.stage = .stream → x.stream ≠ [] →
    Goes (.sampleDecodeStart n) s (s.mapSample x.place fun y => { y with stage := .decoding }).noteDefers) ∧
  (∀ (s : State) (n : Nat) (x : Sample), Live s → s.numbered n = some x → x.stage = .decoding →
    (s.intake.samples.map fun (y : Sample) => y.place).Nodup →
    ∃ t, Goes (.sampleDecodeDone n) s t.noteDefers ∧
      ((Config.jpegFrame x.stream).any (fun f => !jpegAccepts f || f.width != x.width || f.height != x.height) = true →
        t = s.sampleDone x.place .badParam) ∧
      ((Config.jpegFrame x.stream).any (fun f => !jpegAccepts f || f.width != x.width || f.height != x.height) = false →
        t.regs = s.regs ∧
        ∃ y, t.sample? x.place = some y ∧ y.seq = some n ∧ y.stage = .ready ∧ y.decoder = none ∧ y.trunc = x.jpegShort)) ∧
  (∀ (s : State) (n : Nat) (x : Sample), Live s → s.numbered n = some x → s.get F.SAMPLE_DECODE_LIMIT_US ≠ 0 →
    x.stage = .decoding → Goes (.sampleDecodeLimitExpire n) s ((s.tdc 2).sampleDone x.place .timeout).noteDefers) ∧
  (∀ (s : State) (n : Nat), Live s → s.get F.SAMPLE_DECODE_LIMIT_US = 0 → Goes (.sampleDecodeLimitExpire n) s s.noteDefers) ∧
  (∀ (s : State) (x : Sample) (id : Nat), Live s → s.intake.samples.find? (·.stage == .ready) = some x →
    s.freeSampleBob = some id → s.sample? x.place = some x →
    0xF00 ≤ id ∧ id ≤ 0xFFF ∧ (∀ j, 0xF00 ≤ j → j < id → tget? s.bobs j ≠ none) ∧
    ((x.cropW ≠ (s.info x.part).width ∨ (s.info x.part).tMax < tokensOf x.cropH (s.info x.part).tokenR) →
      Goes .sampleTakeBobbin s (s.sampleDone x.place .badParam).noteDefers) ∧
    (x.cropW = (s.info x.part).width → tokensOf x.cropH (s.info x.part).tokenR ≤ (s.info x.part).tMax →
      ∃ t y, Goes .sampleTakeBobbin s t ∧ (t.bob id).state = .closedInput ∧ (t.bob id).sample = some x.place ∧
        (t.bob id).computing = true ∧ t.sample? x.place = some y ∧ y.stage = .running ∧ y.bobbin = some id))

/-! ### The field die -/

/-- Messages the field die takes (R17, R18, R335, R341, R345, R351, R411, R465): each changes the field die alone, with its copies of the
critical words. ENTRY_A,
ENTRY_B and ENTRY_C build one entry; complete, it is held in the safe state, and else refused, closed at arming or armed as
the position stands to its eject and close counts. A free entry is checked as it is written: an error that can be corrected
counts (R363). A CFG message is the copy's new value, and an input that it leaves without debounce reports its sampled level;
FIELD_TABLE_CLEAR frees every entry without a report; STOP_CLEAR clears the latch; RESYNC restarts the numbering and the
snapshots. A message out of place in an entry is dropped; with no message waiting nothing happens.
Where the spec leaves a reading open it follows the model's choices of notes/assumptions 124, 59. -/
def Obligations.FieldDieMessages : Prop :=
  (∀ (s : State) (e b mask enc prov : Nat) (us : Bool), DieTakes s (.entryA e b mask enc prov us) →
    ∃ t, Goes .fieldEntryA s t ∧ OnlyDie s t ∧ t.die.loading = e ∧ t.die.link.inbox = s.die.link.inbox.tail ∧
      t.entry e = { phase := .partA, bobbin := b, mask := mask, enc := enc, prov := prov, unitUs := us } ∧
      tgetD t.die.tally 1 0 = tgetD s.die.tally 1 0 + (if (s.entry e).flaw = some false then 1 else 0) ∧
      ∀ f, f ≠ e → t.entry f = s.entry f) ∧
  (∀ (s : State) (low : Nat), DieTakes s (.entryB low) → (s.entry s.die.loading).phase = .partA →
    ∃ t, Goes .fieldEntryB s t ∧ OnlyDie s t ∧
      t.entry s.die.loading = { s.entry s.die.loading with phase := .partB, low := low, flaw := none } ∧
      ∀ f, f ≠ s.die.loading → t.entry f = s.entry f) ∧
  (∀ (s : State) (high lead width : Nat), DieTakes s (.entryC high lead width) → (s.entry s.die.loading).phase = .partB →
    ∀ eject : Int, eject = signed 48 ((s.entry s.die.loading).low + 2 ^ 40 * high) →
    ∀ p : Int, p = s.pos (s.entry s.die.loading).enc →
    ∃ t, Goes .fieldEntryC s t ∧ OnlyDie s t ∧ (∀ f, f ≠ s.die.loading → t.entry f = s.entry f) ∧
      (s.die.safe = true → (t.entry s.die.loading).phase = .held ∧ (t.entry s.die.loading).eject = eject ∧
        (t.entry s.die.loading).close = eject - lead ∧ t.die.entries = s.die.entries) ∧
      (s.die.safe = false → eject ≤ p → (t.entry s.die.loading).phase = .free ∧
        ∃ r, t.die.entries = s.die.entries ++ [r] ∧ r.what = .refuse s.die.loading) ∧
      (s.die.safe = false → p < eject → eject - lead ≤ p → (t.entry s.die.loading).phase = .armed ∧
        (t.entry s.die.loading).closed = true ∧ (t.entry s.die.loading).final = (s.entry s.die.loading).prov ∧
        ((s.entry s.die.loading).prov = 2 → t.die.stop = true) ∧
        ∃ r, t.die.entries = s.die.entries ++ [r] ∧ r.what = .ack s.die.loading true) ∧
      (s.die.safe = false → p < eject - lead → (t.entry s.die.loading).phase = .armed ∧
        (t.entry s.die.loading).closed = (s.entry s.die.loading).closed ∧
        ∃ r, t.die.entries = s.die.entries ++ [r] ∧ r.what = .ack s.die.loading false)) ∧
  (∀ (s : State) (k v : Nat), DieTakes s (.cfg k v) → k ≠ clearIndex →
    ∃ t, Goes .fieldCfgMsg s t ∧ t = { s with die := t.die, copies := t.copies } ∧ tget? t.die.copy k = some v ∧
      (∀ j, j ≠ k → tget? t.die.copy j = tget? s.die.copy j) ∧ t.die.table = s.die.table ∧
      t.die.link.inbox = s.die.link.inbox.tail ∧ (∀ w, w < 45 → tget? t.copies w = tget? s.copies w) ∧
      (isInputCfg k = true → ∀ i, i < 16 → t.undebounced i = true → bitAt t.die.deb i = bitAt s.die.raw i)) ∧
  (∀ (s : State) (low : Nat), DieTakes s (.entryB low) → (s.entry s.die.loading).phase ≠ .partA →
    Goes .fieldEntryB s s.dropMsg) ∧
  (∀ (s : State) (high lead width : Nat), DieTakes s (.entryC high lead width) →
    (s.entry s.die.loading).phase ≠ .partB → Goes .fieldEntryC s s.dropMsg) ∧
  (∀ (s : State) (v : Nat), DieTakes s (.cfg clearIndex v) → bitAt v 0 = false → Goes .fieldTableClear s s.dropMsg) ∧
  (∀ (s : State) (i : Instr), DieUp s → s.dieMsg = none → i ∈ [.fieldEntryA, .fieldEntryB, .fieldEntryC, .fieldCfgMsg,
    .fieldTableClear, .fieldStopClearMsg, .fieldResyncMsg] → Goes i s s) ∧
  (∀ (s : State) (v : Nat), DieTakes s (.cfg clearIndex v) → bitAt v 0 = true →
    ∃ t, Goes .fieldTableClear s t ∧ OnlyDie s t ∧ (∀ e, (t.entry e).phase = .free) ∧ t.die.entries = s.die.entries ∧
      t.die.pulses = s.die.pulses) ∧
  (∀ s : State, DieTakes s .stopClear → ∃ t, Goes .fieldStopClearMsg s t ∧
    t = { s with die := { s.die with stop := false, stDue := true, link := { s.die.link with inbox := s.die.link.inbox.tail } } }) ∧
  (∀ s : State, DieTakes s .resync → ∃ t, Goes .fieldResyncMsg s t ∧ OnlyDie s t ∧ t.die.link.nextSeq = 0 ∧
    t.die.link.expect = 0 ∧ t.die.link.unacked = [] ∧ t.die.link.resync = false ∧ t.die.link.answer = !s.die.link.resync ∧
    t.die.syncDue = [0, 1] ∧ t.die.stDue = true ∧ ∀ r ∈ t.die.first, ∀ c p v, r.what ≠ .sync c p v)

/-- The life of an armed entry (R20 to R23, R340 to R343, R363 to R365): at its close count its action is final and a STOP sets
the latch; at its eject count it fires once, a final action other than PASS starting its pulse; an amendment is accepted
before the close and rejected after it, and one that has arrived when its entry's close or timeout comes wins (R46), as does a
close or eject count that the position has reached (R48); timeouts and errors discard or correct it, an error of an entry that
is not armed standing until the entry is written or armed; of several pulses of one entry number the one that is over first
ends; the safe state is left only after 64 frames with RUN and never after a lasting cause. Each event changes the field die alone.
Where the spec leaves a reading open it follows the model's choices of notes/assumptions 59, 128. -/
def Obligations.EjectTable : Prop :=
  (∀ (s : State) (e : Fin 256), DieUp s → s.die.safe = false → (s.entry e.val).phase = .armed → s.die.amendIn = [] →
    (s.entry e.val).closed = false → (s.entry e.val).close ≤ s.pos (s.entry e.val).enc →
    ∃ t r, Goes (.closeMatch e) s t ∧ OnlyDie s t ∧ t.entry e.val = { s.entry e.val with
        closed := true, final := (s.entry e.val).amended.getD (s.entry e.val).prov } ∧
      (∀ f, f ≠ e.val → t.entry f = s.entry f) ∧ t.die.entries = s.die.entries ++ [r] ∧
      r.what = .close e.val (s.entry e.val).amended.isSome ∧ r.time ≤ s.time.now ∧
      ((s.entry e.val).amended.getD (s.entry e.val).prov = 2 → t.die.stop = true) ∧
      ((s.entry e.val).amended.getD (s.entry e.val).prov ≠ 2 → t.die.stop = s.die.stop)) ∧
  (∀ (s : State) (e : Fin 256), DieUp s →
    (s.pos (s.entry e.val).enc < (s.entry e.val).close ∨ (s.entry e.val).closed = true ∨ s.die.safe = true) →
    Goes (.closeMatch e) s s.answerAmends) ∧
  (∀ s : State, s.die.amendIn = [] → s.answerAmends = s) ∧
  (∀ (s : State) (e : Fin 256), DieUp s →
    (∃ t, Goes (.closeMatch e) s t ∧ OnlyDie s t ∧ t.die.amendIn = []) ∧
    (∃ t, Goes (.entryTmoExpire e) s t ∧ OnlyDie s t ∧ t.die.amendIn = [])) ∧
  (∀ (s : State) (e : Fin 256) (a : Nat), DieUp s → s.die.safe = false → s.die.amendIn = [(e.val, a)] →
    (s.entry e.val).phase = .armed → (s.entry e.val).closed = false → (s.entry e.val).answered = false →
    (s.entry e.val).close ≤ s.pos (s.entry e.val).enc →
    ∃ t r q, Goes (.closeMatch e) s t ∧ OnlyDie s t ∧ t.die.entries = s.die.entries ++ [r, q] ∧ r.what = .accept e.val ∧
      q.what = .close e.val true ∧ (t.entry e.val).closed = true ∧ (t.entry e.val).final = a) ∧
  (∀ (s : State) (e : Fin 256), DieUp s → s.die.safe = false → (s.entry e.val).phase = .armed →
    (s.entry e.val).closed = true → (s.entry e.val).eject ≤ s.pos (s.entry e.val).enc →
    ∃ t r, Goes (.ejectMatch e) s t ∧ OnlyDie s t ∧ (t.entry e.val).phase = .free ∧
      (∀ f, f ≠ e.val → t.entry f = s.entry f) ∧ t.die.entries = s.die.entries ++ [r] ∧ r.what = .eject e.val false 0 ∧
      ((s.entry e.val).final = 0 → t.die.pulses = s.die.pulses) ∧
      ((s.entry e.val).final ≠ 0 → ∃ p, t.die.pulses = s.die.pulses ++ [p] ∧ p.mask = (s.entry e.val).mask ∧
        p.ends = (s.entry e.val).eject + (s.entry e.val).width)) ∧
  (∀ (s : State) (e : Fin 256), DieUp s → ((s.entry e.val).phase ≠ .armed ∨ (s.entry e.val).closed = false ∨
    s.pos (s.entry e.val).enc < (s.entry e.val).eject ∨ s.die.safe = true) → Goes (.ejectMatch e) s s) ∧
  (∀ (s : State) (e : Fin 256), DieUp s → (∀ p ∈ s.die.pulses, p.entry ≠ e.val) → Goes (.pulseEnd e) s s) ∧
  (∀ (s : State) (e : Nat), ∀ q ∈ s.die.pulses, q.entry = e → ∃ p, s.endingPulse e = some p ∧ p ∈ s.die.pulses ∧ p.entry = e ∧
    s.pulseDue p ≤ s.pulseDue q) ∧
  (∀ (s : State) (e : Fin 256) (p : Pulse), DieUp s → s.endingPulse e.val = some p →
    ∃ t, Goes (.pulseEnd e) s t ∧ OnlyDie s t ∧ t.die.pulses = removeFirst (· == p) s.die.pulses ∧
      ((p.unitUs = true ∨ p.ends ≤ s.pos p.enc) → t.die.tally = s.die.tally) ∧
      (p.unitUs = false → s.pos p.enc < p.ends → tgetD t.die.tally 0 0 = tgetD s.die.tally 0 0 + 1)) ∧
  (∀ (s : State) (e : Fin 256), DieUp s → s.die.amendIn = [] → ((s.entry e.val).phase ≠ .armed ∨
    (s.dget F.FIELD_ENTRY_TMO_S = 0 ∧ (s.die.safe = true ∨ CountAhead s e.val))) → Goes (.entryTmoExpire e) s s) ∧
  (∀ (s : State) (e : Fin 256), DieUp s → s.die.amendIn = [] → s.die.safe = false → (s.entry e.val).phase = .armed →
    (s.entry e.val).closed = true → (s.entry e.val).eject ≤ s.pos (s.entry e.val).enc →
    ∃ t r, Goes (.entryTmoExpire e) s t ∧ Goes (.ejectMatch e) s t ∧ t.die.entries = s.die.entries ++ [r] ∧
      r.what = .eject e.val false 0) ∧
  (∀ (s : State) (e : Fin 256), DieUp s → s.dget F.FIELD_ENTRY_TMO_S ≠ 0 → (s.entry e.val).phase = .armed →
    s.die.amendIn = [] →
    (s.die.safe = false → CountAhead s e.val → ∃ t r, Goes (.entryTmoExpire e) s t ∧ OnlyDie s t ∧ (t.entry e.val).phase = .free ∧
      t.die.entries = s.die.entries ++ [r] ∧ r.what = .eject e.val true 2 ∧ t.die.pulses = s.die.pulses) ∧
    (s.die.safe = true → Goes (.entryTmoExpire e) s (s.setEntry e.val { s.entry e.val with late := true }))) ∧
  (∀ (s : State) (e : Fin 256), DieUp s → (s.entry e.val).phase = .armed →
    Goes (.ejectTableError e false) s (s.tallyUp 1) ∧
    (s.die.safe = false → ∃ t, Goes (.ejectTableError e true) s t ∧ OnlyDie s t ∧ t.die.safe = true ∧ t.die.cause = 3 ∧
      t.die.pulses = [] ∧ (s.die.amendIn = [] → t.die.table = s.die.table)) ∧
    (s.die.safe = true → Goes (.ejectTableError e true) s
      { s with die := { s.die with cause := 3, runs := 0, stDue := true } })) ∧
  (∀ (s : State) (e : Fin 256) (b : Bool), DieUp s → (s.entry e.val).phase ≠ .armed → Goes (.ejectTableError e b) s
    (s.setEntry e.val { s.entry e.val with flaw := some (b || (s.entry e.val).flaw.isSome) })) ∧
  (∀ s : State, DieUp s → s.die.amendIn = [] → Goes .amendArrive s s) ∧
  (∀ (s : State) (e a : Nat) (q : List (Nat × Nat)), DieUp s → s.die.safe = false → s.die.amendIn = (e, a) :: q →
    (s.entry e).answered = false → (s.entry e).phase = .armed →
    ∃ t r, Goes .amendArrive s t ∧ OnlyDie s t ∧ t.die.amendIn = q ∧ t.die.entries = s.die.entries ++ [r] ∧
      ((s.entry e).closed = false → r.what = .accept e ∧ (t.entry e).amended = some a) ∧
      ((s.entry e).closed = true → r.what = .reject e false ∧ (t.entry e).amended = (s.entry e).amended ∧
        (t.entry e).final = (s.entry e).final)) ∧
  (∀ (s : State) (e a : Nat) (q : List (Nat × Nat)), DieUp s → s.die.safe = true → s.die.amendIn = (e, a) :: q →
    Goes .amendArrive s { s with die := { s.die with amendIn := q } }) ∧
  (∀ s : State, DieUp s → (s.die.runs < 64 ∨ 2 ≤ s.die.cause ∨ s.die.safe = false) → Goes .safeStateExit s s) ∧
  (∀ (s : State) (e : Nat) (x : Entry), DieUp s → s.die.safe = true → 64 ≤ s.die.runs → s.die.cause < 2 →
    s.die.table = [(e, x)] → x.phase = .held → x.flaw = some true → s.pos x.enc < x.close → s.pos x.enc < x.eject →
    ∃ t, Goes .safeStateExit s t ∧ OnlyDie s t ∧ t.die.safe = true ∧ t.die.cause = 3) ∧
  (∀ s : State, DieUp s → s.die.safe = true → 64 ≤ s.die.runs → s.die.cause < 2 → (∀ x ∈ s.die.table, x.2.flaw = none) →
    ∃ t, Goes .safeStateExit s t ∧ OnlyDie s t ∧ t.die.safe = false ∧ t.die.powerup = false ∧
      t.die.pulses = s.die.pulses ∧ (s.die.table = [] → t.die.entries = s.die.entries)) ∧
  (∀ (s : State) (c i : Nat), s.die.powered = true → bitAt s.die.faults i = false →
    (s.enterSafe c).outLevel i = bitAt (s.dget F.FIELD_SAFE_VALUES_VALUES) i)

/-- Inputs, encoders and outputs at the field die (R336, R339, R347, R348, R354, R356 to R362, R444): a probe edge latches the
count, a debounced one waits for its time; a change of A or B that has held for the filter time counts one up or down as the
quadrature sequence and INVERT say, a change of both is illegal; an SSI word beyond a
quarter of its range is rejected; an HTL channel has no pair whose fault it could report; an overload turns the output off; power down loses counts and table; unpowered nothing
happens. Each changes the field die alone.
Where the spec leaves a reading open it follows the model's choices of notes/assumptions 41, 125, 129, 205. -/
def Obligations.FieldDieInputs : Prop :=
  (∀ (s : State) (i : Fin 16), DieUp s → Goes (.fiEdge i (bitAt s.die.raw i.val)) s s) ∧
  (∀ (s : State) (i : Fin 16) (b : Bool), DieUp s → bitAt s.die.raw i.val ≠ b → s.isProbe i.val = false →
    ∃ t, Goes (.fiEdge i b) s t ∧ OnlyDie s t ∧ bitAt t.die.raw i.val = b ∧ t.die.first = s.die.first ∧
      (s.dget F.FIELD_FI_CFG_DEBOUNCE i.val ≠ 0 → t.die.deb = s.die.deb) ∧
      (s.dget F.FIELD_FI_CFG_DEBOUNCE i.val = 0 → bitAt t.die.deb i.val = b)) ∧
  (∀ (s : State) (i : Fin 16) (b : Bool), DieUp s → bitAt s.die.raw i.val ≠ b → s.isProbe i.val = true →
    b = (s.dget (F.FIELD_PROBE_CFG_FALL i.val) == 0) →
    (s.latchesWaiting i.val < 16 → ∃ t r, Goes (.fiEdge i b) s t ∧ OnlyDie s t ∧ t.die.first = s.die.first ++ [r] ∧
      r.what = .latch i.val (s.dget (F.FIELD_PROBE_CFG_ENC i.val))
        (unsigned 24 (s.encCh (s.dget (F.FIELD_PROBE_CFG_ENC i.val))).count)) ∧
    (16 ≤ s.latchesWaiting i.val → ∃ t, Goes (.fiEdge i b) s t ∧ OnlyDie s t ∧ t.die.first = s.die.first ∧
      tgetD t.die.tally (2 + i.val) 0 = tgetD s.die.tally (2 + i.val) 0 + 1)) ∧
  (∀ (s : State) (i : Fin 16), DieUp s → ∃ t, Goes (.debounceExpire i) s t ∧ OnlyDie s t ∧
    bitAt t.die.deb i.val = bitAt s.die.raw i.val ∧ (bitAt s.die.deb i.val ≠ bitAt s.die.raw i.val → t.die.fiDue = true)) ∧
  (∀ (s : State) (c : Fin 2) (q : QuadSample) (n : Nat), DieUp s → s.dget F.FIELD_ENC_CFG_MODE c.val = 0 →
    s.dget F.FIELD_ENC_CFG_FILTER c.val ≤ q.held →
    (((s.encCh c.val).a = q.a ↔ (s.encCh c.val).b ≠ q.b) →
      ∃ t, Goes (.encQuadEdge c q n) s t ∧ OnlyDie s t ∧ (t.encCh c.val).a = q.a ∧ (t.encCh c.val).b = q.b ∧
      (t.encCh c.val).count = wrap48 ((s.encCh c.val).count +
        (if xor (quadForward (s.encCh c.val).a (s.encCh c.val).b q.a q.b) (s.dget F.FIELD_ENC_CFG_INVERT c.val != 0) then 1
          else -1)) ∧ t.die.tally = s.die.tally ∧
      ∀ d, d ≠ c.val → t.encCh d = s.encCh d) ∧
    ((s.encCh c.val).a ≠ q.a → (s.encCh c.val).b ≠ q.b → Goes (.encQuadEdge c q n) s
      ((s.setEnc c.val { s.encCh c.val with a := q.a, b := q.b }).tallyUp (6 + c.val))) ∧
    ((s.encCh c.val).a = q.a → (s.encCh c.val).b = q.b → Goes (.encQuadEdge c q n) s s)) ∧
  (quadForward false false true false = true ∧ quadForward true false true true = true ∧
    quadForward true true false true = true ∧ quadForward false true false false = true ∧
    ∀ a b c d, (a = c ↔ b ≠ d) → quadForward c d a b = !quadForward a b c d) ∧
  (∀ (s : State) (c : Fin 2), DieUp s → s.dget F.FIELD_ENC_CFG_MODE c.val ≠ 1 →
    ∃ t r, Goes (.encZEdge c) s t ∧ OnlyDie s t ∧ t.die.first = s.die.first ++ [r] ∧
      r.what = .index c.val (unsigned 24 (s.encCh c.val).count) ∧ (t.encCh c.val).count = (s.encCh c.val).count) ∧
  (∀ (s : State) (c : Fin 2) (b : Bool), DieUp s → Goes (.encLineFault c b) s
    (if Config.encHtl c.val then s else (s.setEnc c.val { s.encCh c.val with fault := b }).statusDue)) ∧
  (∀ (s : State) (raw n : Nat), DieUp s → s.dget F.FIELD_ENC_CFG_MODE 1 = 1 →
    Goes (.ssiRead raw false n) s (s.tallyUp 11) ∧
    ((s.encCh 1).ssi = none → ∃ t, Goes (.ssiRead raw true n) s t ∧ OnlyDie s t ∧
      (t.encCh 1).count = wrap48 (s.ssiPos raw) ∧ (t.encCh 1).ssi = some (s.ssiPos raw)) ∧
    (∀ q, (s.encCh 1).ssi = some q →
      ∀ d, d = signed (s.dget F.FIELD_ENC_CFG_SSI_BITS 1) (unsigned (s.dget F.FIELD_ENC_CFG_SSI_BITS 1) ((s.ssiPos raw : Int) - q)) →
      (2 ^ (s.dget F.FIELD_ENC_CFG_SSI_BITS 1 - 2) < d.natAbs → Goes (.ssiRead raw true n) s (s.tallyUp 11)) ∧
      (d.natAbs ≤ 2 ^ (s.dget F.FIELD_ENC_CFG_SSI_BITS 1 - 2) → ∃ t, Goes (.ssiRead raw true n) s t ∧ OnlyDie s t ∧
        (t.encCh 1).count = wrap48 ((s.encCh 1).count + (if s.dget F.FIELD_ENC_CFG_INVERT 1 = 1 then -d else d))))) ∧
  (∀ s : State, DieUp s → (∃ t, Goes .syncSnapshot s t ∧ t = { s with die := { s.die with syncDue := [0, 1], first := t.die.first } } ∧
      (∀ r ∈ t.die.first, ∀ c p v, r.what ≠ .sync c p v) ∧
      ((∀ r ∈ s.die.first, ∀ c p v, r.what ≠ .sync c p v) → t.die.first = s.die.first)) ∧
    Goes .statusPeriodic s { s with die := { s.die with stDue := true } }) ∧
  (∀ (s : State) (c : Fin 2), DieUp s →
    Goes (.speedPeriodic c true) s { s with die := { s.die with spDue := tset s.die.spDue c.val 0 } } ∧
    Goes (.speedPeriodic c false) s { s with die := { s.die with spDue := tset s.die.spDue c.val (s.encCh c.val).halves } }) ∧
  (∀ (s : State) (o : Fin 8), DieUp s → bitAt s.die.faults o.val = false → ∃ t, Goes (.outputOverload o) s t ∧ OnlyDie s t ∧
    bitAt t.die.faults o.val = true ∧ t.outLevel o.val = false ∧ t.die.faultN = s.die.faultN + 1 ∧ t.die.stDue = true) ∧
  (∀ (s : State) (o : Fin 8), DieUp s → bitAt s.die.faults o.val = true →
    Goes (.outputFaultRetry o true) s s ∧ ∃ t, Goes (.outputFaultRetry o false) s t ∧ OnlyDie s t ∧
      bitAt t.die.faults o.val = false ∧ t.die.stDue = true) ∧
  (∀ (s : State) (c : Fin 2) (q : QuadSample) (n : Nat), DieUp s →
    (s.dget F.FIELD_ENC_CFG_MODE c.val ≠ 0 ∨ q.held < s.dget F.FIELD_ENC_CFG_FILTER c.val) →
    Goes (.encQuadEdge c q n) s s) ∧
  (∀ (s : State) (c : Fin 2), DieUp s → s.dget F.FIELD_ENC_CFG_MODE c.val = 1 → Goes (.encZEdge c) s s) ∧
  (∀ (s : State) (raw n : Nat) (b : Bool), DieUp s → s.dget F.FIELD_ENC_CFG_MODE 1 ≠ 1 → Goes (.ssiRead raw b n) s s) ∧
  (∀ (s : State) (o : Fin 8) (b : Bool), DieUp s →
    (bitAt s.die.faults o.val = true → Goes (.outputOverload o) s s) ∧
    (bitAt s.die.faults o.val = false → Goes (.outputFaultRetry o b) s s)) ∧
  (∀ s : State, DieUp s → Goes .fieldPowerUp s s) ∧
  (∀ (s : State) (i : Fin 16) (c : Fin 2) (o : Fin 8) (b : Bool) (q : QuadSample) (raw n : Nat), s.die.powered = false →
    ∀ x ∈ [Instr.fiEdge i b, .debounceExpire i, .encQuadEdge c q n, .encZEdge c, .encLineFault c b, .ssiRead raw b n,
      .syncSnapshot, .statusPeriodic, .speedPeriodic c b, .outputOverload o, .outputFaultRetry o b], Goes x s s) ∧
  (∀ s : State, s.die.powered = false → ∃ t, Goes .fieldPowerUp s t ∧ OnlyDie s t ∧ t.die.powered = true ∧
    t.die.safe = true ∧ t.die.cause = 0 ∧ t.die.table = [] ∧ t.die.enc = [] ∧ t.die.link.resync = true) ∧
  (∀ s : State, ∃ t, Goes .fieldPowerDown s t ∧ OnlyDie s t ∧ t.die.powered = false ∧ t.die.table = [] ∧ t.die.enc = [] ∧
    ∀ i, t.outLevel i = false)

/-! ### The field link -/

/-- Frames (R332 to R337, R464): a frame arrives as sent where the line inverts no bit; one whose CRC fails counts or breaks
the run of its direction, as an empty slot does and a frame at another bit offset than the one the direction is aligned to; a
direction that is down looks at every offset, and eight good frames at one of them bring it up; a good one acknowledges, is taken in sequence only, and a message or report
taken waits in order; a direction that has had three slots without a good frame goes down, the downstream one putting the
field die into its safe state; an end stuck for four frames starts again at the oldest item that is not acknowledged.
Where the spec leaves a reading open it follows the model's choices of notes/assumptions 123, 124, 135, 225. -/
def Obligations.FieldFrames : Prop :=
  (∀ (l : LinkEnd Msg Taken) (k : Nat), (l.up = false → l.finds k = true) ∧ (l.up = true → (l.finds k = true ↔ k = l.offset)) ∧
    (l.goodFrame k).offset = k ∧ (l.goodFrame k).missed = 0 ∧ (k = l.offset → (l.goodFrame k).good = l.good + 1) ∧
    (k ≠ l.offset → (l.goodFrame k).good = 1) ∧ ((l.goodFrame k).up = true ↔ l.up = true ∨ 8 ≤ (l.goodFrame k).good)) ∧
  (∀ (f : UpFrame) (now : Nat), f.received now 0 = some f) ∧ (∀ f : DownFrame, f.received 0 = some f) ∧
  (∀ (s : State) (e : Slot) (f : UpFrame), Live s → s.die.wire = some f →
    (f.received s.time.now e.errors = none ∨ s.field.link.finds e.offset = false) →
    ∃ t, Goes (.fieldUpFrameRx e) s t ∧ t = { s with regs := t.regs, die := t.die, field := { s.field with
      link := { s.field.link with good := 0, missed := s.field.link.missed + 1 } } } ∧
    SameRegs s t [R.FIELD_LINK_CNT.addr 0 0] ∧
    t.get F.FIELD_LINK_CNT_CRC_ERR = min (s.get F.FIELD_LINK_CNT_CRC_ERR + 1) (2 ^ F.FIELD_LINK_CNT_CRC_ERR.width - 1)) ∧
  (∀ (s : State) (e : Slot), Live s → s.die.wire = none →
    Goes (.fieldUpFrameRx e) s (State.composeUp { s with field := { s.field with link := s.field.link.badFrame } })) ∧
  (∀ (s : State) (e : Slot), s.boot.held = true → Goes (.fieldUpFrameRx e) s s.composeUp) ∧
  (∀ (s : State) (e : Slot) (f g : UpFrame), Live s → s.die.wire = some f → f.received s.time.now e.errors = some g →
    s.field.link.finds e.offset = true → Goes (.fieldUpFrameRx e) s (State.composeUp (s.takeUp g e.offset).gateTaken)) ∧
  (∀ (s : State) (l : LinkEnd Msg Taken) (f : UpFrame) (r : Rep), l.resync = false → f.resync = false →
    (f.report = some (l.expect, r) → ∃ k, (s.upEnd l f).inbox = l.inbox ++ [k] ∧ k.rep = r ∧ k.arrived = s.time.now ∧
      k.low = f.low ∧ k.safe = f.safe ∧ (s.upEnd l f).expect = (l.expect + 1) % 16) ∧
    (∀ n, n ≠ l.expect → f.report = some (n, r) → (s.upEnd l f).inbox = l.inbox ∧ (s.upEnd l f).expect = l.expect)) ∧
  (∀ (s : State) (e : Slot) (f g : DownFrame), s.die.powered = true → s.field.wire = some f → f.received e.errors = some g →
    s.die.link.finds e.offset = true →
    Goes (.fieldDownFrameRx e) s (State.composeDown ((s.takeDown g e.offset).showLink))) ∧
  (∀ (s : State) (e : Slot), s.die.powered = true →
    (∀ f, s.field.wire = some f → f.received e.errors = none ∨ s.die.link.finds e.offset = false) →
    Goes (.fieldDownFrameRx e) s (State.composeDown { s with die := { s.die with
      runs := 0, link := { s.die.link with good := 0, missed := s.die.link.missed + 1 } } })) ∧
  (∀ (s : State) (e : Slot), s.die.powered = false → Goes (.fieldDownFrameRx e) s s.composeDown) ∧
  (∀ (s : State) (f : DownFrame) (k : Nat), s.die.link.up = true → s.die.link.resync = false → f.resync = false →
    OnlyDie s (s.takeDown f k) ∧ (s.takeDown f k).die.runs = (if f.run then s.die.runs + 1 else 0) ∧
    (∀ m, f.msg = some (s.die.link.expect, m) → (s.takeDown f k).die.link.inbox = s.die.link.inbox ++ [m]) ∧
    (∀ n m, n ≠ s.die.link.expect → f.msg = some (n, m) → (s.takeDown f k).die.link.inbox = s.die.link.inbox) ∧
    (∀ a, f.amend = some a → s.die.safe = false → (s.takeDown f k).die.amendIn = s.die.amendIn ++ [a])) ∧
  (∀ s : State, s.die.powered = true → s.die.link.up = true → 3 ≤ s.die.link.missed → s.die.safe = false →
    ∃ t, Goes (.fieldLinkDown false) s t ∧ t.die.safe = true ∧ t.die.cause = 1 ∧ t.die.pulses = [] ∧
      t.die.link.up = false ∧ t.die.runs = 0 ∧ t.on F.FIELD_LINK_STAT_UP = false ∧ t.mem = s.mem) ∧
  (∀ s : State, (s.die.powered = false ∨ s.die.link.up = false ∨ s.die.link.missed < 3) → Goes (.fieldLinkDown false) s s) ∧
  (∀ s : State, (s.field.link.up = false ∨ s.field.link.missed < 3) → Goes (.fieldLinkDown true) s s) ∧
  (∀ s : State, s.field.link.up = true → 3 ≤ s.field.link.missed → s.on F.FIELD_LINK_STAT_UP = false →
    Goes (.fieldLinkDown true) s { s with field := { s.field with link := { s.field.link with up := false, good := 0 } } }) ∧
  (∀ s : State, s.field.link.up = true → 3 ≤ s.field.link.missed → s.on F.FIELD_LINK_STAT_UP = true →
    ∃ t, Goes (.fieldLinkDown true) s t ∧ t.on F.FIELD_LINK_STAT_UP = false ∧
    t.on F.FIELD_LINK_STAT_COUNT_VALID = false ∧ t.field.mirror = [] ∧ t.field.link.up = false ∧ t.die = s.die ∧ t.mem = s.mem) ∧
  (∀ s : State, (s.die.link.unacked = [] ∨ s.die.link.stale < 4) → Goes (.fieldResend true) s s) ∧
  (∀ s : State, (s.field.link.unacked = [] ∨ s.field.link.stale < 4) → Goes (.fieldResend false) s s) ∧
  (∀ s : State, s.die.link.unacked ≠ [] → 4 ≤ s.die.link.stale → ∃ t, Goes (.fieldResend true) s t ∧
    t = { s with regs := t.regs, die := { s.die with link := { s.die.link with ptr := 0, stale := 0 } } } ∧
    SameRegs s t [R.FIELD_LINK_CNT.addr 0 0] ∧
    t.get F.FIELD_LINK_CNT_RESEND = min (s.get F.FIELD_LINK_CNT_RESEND + 1) (2 ^ F.FIELD_LINK_CNT_RESEND.width - 1)) ∧
  (∀ s : State, s.field.link.unacked ≠ [] → 4 ≤ s.field.link.stale → ∃ t, Goes (.fieldResend false) s t ∧
    t = { s with regs := t.regs, field := { s.field with link := { s.field.link with ptr := 0, stale := 0 } } } ∧
    SameRegs s t [R.FIELD_LINK_CNT.addr 0 0] ∧
    t.get F.FIELD_LINK_CNT_RESEND = min (s.get F.FIELD_LINK_CNT_RESEND + 1) (2 ^ F.FIELD_LINK_CNT_RESEND.width - 1))

/-- Reports the device applies (R18, R20, R25, R128, R137, R336 to R342, R351, R360, R361, R465): an entry's ACK opens its
bobbin; a REFUSE or EJECT frees the entry and its bobbin; an accepted amendment decides it; a close fixes its final action; a
latch within the hold is counted, one taken in the safe state or without a mirrored count is an untracked part; levels, speeds and status show in their registers.
Where the spec leaves a reading open it follows the model's choices of notes/assumptions 126, 132. -/
def Obligations.FieldReportsApplied : Prop :=
  (∀ (s : State) (k : Taken) (e id : Nat), Reports s k → k.rep.what = .ack e false → s.entryBob e = some id →
    (s.bob id).state = .arming → Goes .fieldAckReport s
      ((((s.dropReport.setBob id { s.bob id with state := .open }).judgeJob id)).closeInput id)) ∧
  (∀ (s : State) (k : Taken) (e id : Nat), Reports s k → k.rep.what = .ack e true → s.entryBob e = some id →
    (s.bob id).state = .arming → Goes .fieldAckReport s
      ((s.dropReport.armLate.bobRecord id k.arrived).finalise id (s.bob id).provAct k.arrived)) ∧
  (∀ (s : State) (k : Taken) (e : Nat) (b : Bool), Reports s k → k.rep.what = .ack e b →
    (∀ id, s.entryBob e = some id → (s.bob id).state ≠ .arming) → Goes .fieldAckReport s s.dropReport) ∧
  (∀ (s : State) (k : Taken) (e : Nat), Reports s k → k.rep.what = .accept e → s.entryBob e = none →
    Goes .fieldAcceptReport s (s.dropReport.dropAmend e)) ∧
  (∀ (s : State) (k : Taken) (e : Nat) (b : Bool), Reports s k → k.rep.what = .close e b → s.entryBob e = none →
    Goes .fieldCloseReport s s.dropReport) ∧
  (∀ (s : State) (k : Taken) (e : Nat), Reports s k → k.rep.what = .eject e false 0 → s.entryBob e = none →
    Goes .fieldEjectReport s (s.dropReport.freeDevEntry e)) ∧
  (∀ (s : State) (k : Taken) (e why : Nat), Reports s k → k.rep.what = .eject e true why → s.entryBob e = none →
    Goes .fieldEjectReport s ((s.dropReport.freeDevEntry e).bump
      (if why = 1 then F.FIELD_EJECT_CNT_MISSED else F.FIELD_EJECT_CNT_DISCARD))) ∧
  (∀ (s : State) (k : Taken) (e : Nat), Reports s k → k.rep.what = .refuse e → s.entryBob e = none →
    Goes .fieldRefuseReport s (s.dropReport.freeDevEntry e)) ∧
  (∀ (s : State) (k : Taken) (e id : Nat), Reports s k → k.rep.what = .refuse e → s.entryBob e = some id →
    tsorted s.bobs = true → tsorted s.field.table = true → ∃ t, Goes .fieldRefuseReport s t ∧ (t.bob id).state = .free ∧
      tget? t.field.table e = none ∧ t.die = s.die) ∧
  (∀ (s : State) (k : Taken) (e id : Nat), Reports s k → k.rep.what = .accept e → s.entryBob e = some id →
    ∃ t, Goes .fieldAcceptReport s t ∧ (t.bob id).state = .decided ∧ (t.bob id).amended = true ∧
      (∀ a ∈ t.field.amends, a.entry ≠ e)) ∧
  (∀ (s : State) (k : Taken) (e : Nat) (b : Bool), Reports s k → k.rep.what = .reject e b → ∃ t, Goes .fieldRejectReport s t ∧
    t = { s with regs := t.regs, field := t.field } ∧ SameRegs s t [R.FIELD_AMEND_LATE.addr 0 0] ∧
    (∀ a ∈ t.field.amends, a.entry ≠ e)) ∧
  (∀ (s : State) (k : Taken) (e id : Nat) (b : Bool), Reports s k → k.rep.what = .close e b → s.entryBob e = some id →
    (s.bob id).state = .decided → Goes .fieldCloseReport s
      (s.dropReport.finalise id (if b then (s.bob id).amendTo.getD (s.bob id).provAct else (s.bob id).provAct) k.rep.time)) ∧
  (∀ (s : State) (k : Taken) (e id : Nat) (b : Bool), Reports s k → k.rep.what = .close e b → s.entryBob e = some id →
    (s.bob id).state ≠ .decided → Goes .fieldCloseReport s
      (((if s.dropReport.lateClose id k.rep.atExit then s.dropReport.tdc 0 else s.dropReport).bobRecord id k.rep.time).finalise
        id (if b then (s.bob id).amendTo.getD (s.bob id).provAct else (s.bob id).provAct) k.rep.time)) ∧
  (∀ (s : State) (id f n : Nat), (((s.finalise id f n).bob id).state = .armedFinal) ∧ ((s.finalise id f n).bob id).final = f) ∧
  (∀ (s : State) (k : Taken) (e id why : Nat) (b : Bool), Reports s k → k.rep.what = .eject e b why → s.entryBob e = some id →
    tsorted s.bobs = true → tsorted s.field.table = true → ∃ t, Goes .fieldEjectReport s t ∧ (t.bob id).state = .free ∧
      tget? t.field.table e = none ∧ t.die = s.die) ∧
  (∀ (s : State) (k : Taken) (i enc low r : Nat) (c : Int), Reports s k → k.rep.what = .latch i enc low →
    s.probeRule i = some r → s.role ≠ 2 →
    (s.count? enc = none → Goes .fieldLatchReport s s.dropReport.untracked) ∧
    (∀ l, s.count? enc = some c → (s.rule r).lastC = some l → (s.rule r).hold ≠ 0 →
      rebuild c 24 low < l + (s.rule r).hold → Goes .fieldLatchReport s (s.dropReport.bump F.BOB_CNT_PROBE_HELD)) ∧
    (s.count? enc = some c → (∀ l, (s.rule r).lastC = some l → (s.rule r).hold ≠ 0 →
        l + (s.rule r).hold ≤ rebuild c 24 low) →
      ∀ t : State, t = s.dropReport.setRule r { s.rule r with lastC := some (rebuild c 24 low) } →
      (k.safe = true → Goes .fieldLatchReport s t.untracked) ∧
      (k.safe = false → Goes .fieldLatchReport s (t.partFound r (rebuild c 24 low))))) ∧
  (∀ (s : State) (k : Taken) (i enc low : Nat), Reports s k → k.rep.what = .latch i enc low → s.probeRule i = none →
    Goes .fieldLatchReport s s.dropReport) ∧
  (∀ (s : State) (k : Taken) (c low : Nat), Reports s k → k.rep.what = .index c low → s.count? c = none →
    Goes .fieldIndexReport s s.dropReport) ∧
  (∀ (s : State) (k : Taken) (c p bits : Nat), Reports s k → k.rep.what = .sync c p bits →
    s.on F.FIELD_LINK_STAT_UP = false → Goes .fieldSyncReport s s.dropReport) ∧
  (∀ (s : State) (i : Instr), Live s → s.report? = none → i ∈ [.fieldAckReport, .fieldRefuseReport, .fieldAcceptReport,
    .fieldRejectReport, .fieldCloseReport, .fieldEjectReport, .fieldLatchReport, .fieldIndexReport, .fieldSyncReport,
    .fieldFiStateReport, .fieldStatusReport, .fieldSpeedReport, .fieldResyncReport] → Goes i s s) ∧
  (∀ (s : State) (k : Taken) (c low : Nat) (n : Int), Reports s k → k.rep.what = .index c low → s.count? c = some n →
    s.role = 0 → Goes .fieldIndexReport s
      (s.dropReport.putCount F.FIELD_ENC_INDEX_LO_INDEX F.FIELD_ENC_INDEX_HI_INDEX (rebuild n 24 low) c)) ∧
  (∀ (s : State) (k : Taken) (c bits : Nat), Reports s k → k.rep.what = .sync c 0 bits → s.on F.FIELD_LINK_STAT_UP = true →
    Goes .fieldSyncReport s (s.dropReport.setMirror c { s.mirrorOf c with part0 := some bits })) ∧
  (∀ (s : State) (k : Taken) (c bits lo : Nat), Reports s k → k.rep.what = .sync c 1 bits → s.on F.FIELD_LINK_STAT_UP = true →
    (s.mirrorOf c).part0 = some lo → Goes .fieldSyncReport s
      ((s.dropReport.syncCount c (signed 48 (lo + 2 ^ 24 * bits)) (k.low.getD c 0) k.arrived).countsValid)) ∧
  (∀ (s : State) (k : Taken) (v : Nat), Reports s k → k.rep.what = .fiState v → s.get F.SNAP_CTRL_SOURCES = 0 →
    Goes .fieldFiStateReport s (s.dropReport.put F.FIELD_FI_STATE_STATE v)) ∧
  (∀ (s : State) (k : Taken) (faults lines cause sets n : Nat) (stop : Bool), Reports s k →
    k.rep.what = .status faults stop false lines cause sets n → ∃ t, Goes .fieldStatusReport s t ∧
    t = { s with regs := t.regs, field := t.field } ∧ t.field.sawOff = true ∧ t.field.seen = true ∧
    t.get F.FIELD_FO_STAT_FAULT = faults % 256 ∧ t.on F.FIELD_STOP_REQ = stop ∧
    t.get F.FIELD_LINK_STAT_SAFE_CAUSE = cause % 2 ^ F.FIELD_LINK_STAT_SAFE_CAUSE.width ∧
    t.get F.FIELD_STOP_SETS = min (s.get F.FIELD_STOP_SETS + sets) (2 ^ F.FIELD_STOP_SETS.width - 1)) ∧
  (∀ (s : State) (k : Taken) (c : Nat) (h : Int), Reports s k → k.rep.what = .speed c h →
    Goes .fieldSpeedReport s (s.dropReport.put F.FIELD_ENC_SPEED_SPEED (unsigned 32 (2 * h)) c)) ∧
  (∀ (s : State) (k : Taken), Reports s k → k.rep.what = .resync → s.field.link.resync = false → s.field.sawOff = true →
    ∃ t, Goes .fieldResyncReport s t ∧ t.boot.resetDue.isSome = true ∧ (s.boot.resetDue = none → t.boot.resetDue = some 4)) ∧
  (∀ (s : State) (k : Taken), Reports s k → k.rep.what = .resync → s.field.link.resync = true →
    s.on F.HOST_STATUS_FW_RUN = false → ∃ t, Goes .fieldResyncReport s t ∧ t = { s with regs := t.regs, field := t.field } ∧
    t.field.allDue = true ∧ t.field.link.resync = false ∧ t.field.link.nextSeq = 0 ∧ t.field.link.expect = 0)

/-- The field commands (R31, R345 to R353, R357): inputs, outputs and encoders take their settings, which show in the FIELD
block at once and go to the field die; an output of another feature is refused; a released output is off and NONE; safe
values are refused for an output that is STOP_REQUEST; a channel that takes SSI mode has no twin offset (R400); CMD_STOP_CLEAR sends its message; parameters out of range are
BAD_PARAM. Where a resource's record is a triplicated word, what it holds is said for words that have not split (R315).
Where the spec leaves a reading open it follows the model's choices of notes/assumptions 130, 131. -/
def Obligations.FieldCommands : Prop :=
  (∀ (s : State) (r : Reg) (v i : Nat), (s.setField r v i).field.outbox =
    if s.field.allDue then s.field.outbox else s.field.outbox ++ [.cfg (cfgIndex r i) (v % 2 ^ 32)]) ∧
  (∀ (s : State) (src : Source) (c : Cmd), Starts s src 0x0701 c → c.target < 16 → c.p 1 < 2 → c.p 2 < 2 ^ 16 →
    (c.target < 4 → s.owner c.target ≠ ownProbe) → ∃ t, Ends (.cmdFiConfig src) s t src c .done ∧
      t = { s.dropOldest src with regs := t.regs, field := t.field, copies := t.copies } ∧
      (c.target < 4 → s.splits = [] → t.owner c.target = ownDebounced) ∧
      t.get F.FIELD_FI_CFG_DEBOUNCE c.target = c.p 2 ∧
      ∀ k, k < 4 → t.get F.FIELD_FI_CFG_TYPE3 (c.target / 4 * 4 + k) = c.p 1) ∧
  (∀ (s : State) (src : Source) (c : Cmd), Starts s src 0x0701 c → c.target < 4 → (c.p 1 = 0x100 ∨ c.p 1 = 0x101) →
    c.p 2 < 2 ^ 16 → s.owner c.target ≠ ownProbe → ∃ t, Ends (.cmdFiConfig src) s t src c .done ∧
      t = { s.dropOldest src with regs := t.regs, copies := t.copies } ∧ (s.splits = [] → t.owner c.target = ownNone)) ∧
  (∀ (s : State) (src : Source) (c : Cmd), Starts s src 0x0701 c → c.target < 4 →
    (c.p 1 < 2 ∨ c.p 1 = 0x100 ∨ c.p 1 = 0x101) → c.p 2 < 2 ^ 16 →
    s.owner c.target = ownProbe → Ends (.cmdFiConfig src) s (s.dropOldest src) src c .resourceHeld) ∧
  (∀ (s : State) (src : Source) (c : Cmd), Starts s src 0x0701 c →
    ((2 ≤ c.p 1 ∧ c.p 1 ≠ 0x100 ∧ c.p 1 ≠ 0x101) ∨ 2 ^ 16 ≤ c.p 2 ∨ (2 ≤ c.p 1 ∧ 4 ≤ c.target)) →
    Ends (.cmdFiConfig src) s (s.dropOldest src) src c .badParam) ∧
  (∀ (s : State) (src : Source) (c : Cmd), Starts s src 0x0702 c → c.target < 8 → (c.p 1 = 7 ∨ c.p 1 = 8) → c.p 2 = 0 →
    s.heldByOther (5 + c.target) (c.p 1) 0 = false → ∃ t, Ends (.cmdFoAssign src) s t src c .done ∧
      t = { s.dropOldest src with regs := t.regs, field := t.field, copies := t.copies } ∧
      (s.splits = [] → t.owner (5 + c.target) = c.p 1) ∧
      t.get (F.FIELD_FO_FUNC_FUNC c.target) = c.p 1 - 4 ∧
      (c.p 1 = 7 → bitAt (t.reg R.FIELD_SAFE_VALUES) c.target = false)) ∧
  (∀ (s : State) (src : Source) (c : Cmd), Starts s src 0x0702 c → (c.p 1 = 7 ∨ c.p 1 = 8) → c.p 2 = 0 →
    s.heldByOther (5 + c.target) (c.p 1) 0 = true → Ends (.cmdFoAssign src) s (s.dropOldest src) src c .resourceHeld) ∧
  (∀ (s : State) (src : Source) (c : Cmd), Starts s src 0x0702 c → ((c.p 1 ≠ 7 ∧ c.p 1 ≠ 8) ∨ c.p 2 ≠ 0) →
    Ends (.cmdFoAssign src) s (s.dropOldest src) src c .badParam) ∧
  (∀ (s : State) (src : Source) (c : Cmd), Starts s src 0x0703 c → c.target < 8 → (s.owner (5 + c.target) = ownGeneral ∨
      (s.owner (5 + c.target) = ownEjector ∧ s.outputArmed c.target = false) ∨
      (s.owner (5 + c.target) = ownStop ∧ s.on F.FIELD_STOP_REQ = false)) →
    ∃ t, Ends (.cmdFoRelease src) s t src c .done ∧
      t = { s.dropOldest src with regs := t.regs, field := t.field, copies := t.copies } ∧
      (s.splits = [] → t.owner (5 + c.target) = ownNone) ∧ t.get (F.FIELD_FO_FUNC_FUNC c.target) = 0 ∧
      t.get (F.FIELD_FO_FUNC_LEVEL c.target) = 0) ∧
  (∀ (s : State) (src : Source) (c : Cmd), Starts s src 0x0703 c → s.owner (5 + c.target) = ownEjector →
    s.outputArmed c.target = true → Ends (.cmdFoRelease src) s (s.dropOldest src) src c .busy) ∧
  (∀ (s : State) (src : Source) (c : Cmd), Starts s src 0x0703 c →
    (s.owner (5 + c.target) = ownStop → s.on F.FIELD_STOP_REQ = true →
      Ends (.cmdFoRelease src) s (s.dropOldest src) src c .busy) ∧
    (s.owner (5 + c.target) = ownLineTrigger → Ends (.cmdFoRelease src) s (s.dropOldest src) src c .resourceHeld) ∧
    (s.owner (5 + c.target) = ownNone → Ends (.cmdFoRelease src) s (s.dropOldest src) src c .done)) ∧
  (∀ (s : State) (src : Source) (c : Cmd), Starts s src 0x0704 c → c.target < 8 →
    (s.owner (5 + c.target) ≠ ownGeneral → Ends (.cmdFoSet src) s (s.dropOldest src) src c .resourceHeld) ∧
    (s.owner (5 + c.target) = ownGeneral → ∃ t, Ends (.cmdFoSet src) s t src c .done ∧
      t = { s.dropOldest src with regs := t.regs, field := t.field } ∧
      t.get (F.FIELD_FO_FUNC_LEVEL c.target) = c.p 1 % 2 ∧
      t.get (F.FIELD_FO_FUNC_FUNC c.target) = s.get (F.FIELD_FO_FUNC_FUNC c.target))) ∧
  (∀ (s : State) (src : Source) (c : Cmd) (o : Nat), Starts s src 0x0705 c → c.target < 2 → encOk c = true →
    o = (if c.p 1 % 4 = 0 then ownQuadrature else if c.p 1 % 4 = 1 then ownSsi else ownNone) →
    (c.target = 1 → c.p 1 % 4 ≠ 2 → s.heldByOther 4 o 0 = true → Ends (.cmdEncConfig src) s (s.dropOldest src) src c
      .resourceHeld) ∧
    ((c.target = 1 → c.p 1 % 4 ≠ 2 → s.heldByOther 4 o 0 = false) → s.encInUse c.target = true →
      (s.get F.FIELD_ENC_CFG_MODE c.target ≠ c.p 1 % 4 ∨ s.get F.FIELD_ENC_CFG_INVERT c.target ≠ c.p 1 / 4 % 2) →
      Ends (.cmdEncConfig src) s (s.dropOldest src) src c .busy) ∧
    ((c.target = 1 → c.p 1 % 4 ≠ 2 → s.heldByOther 4 o 0 = false) → (s.encInUse c.target = false ∨
      (s.get F.FIELD_ENC_CFG_MODE c.target = c.p 1 % 4 ∧ s.get F.FIELD_ENC_CFG_INVERT c.target = c.p 1 / 4 % 2)) →
    ∃ t, Ends (.cmdEncConfig src) s t src c .done ∧
      t = { s.dropOldest src with regs := t.regs, field := t.field, copies := t.copies, twin := t.twin } ∧
      (c.p 1 % 4 ≠ 1 → t.twin = s.twin) ∧ (c.p 1 % 4 = 1 → t.on (offsetBit c.target) = false) ∧
      (c.target = 1 → s.splits = [] → t.owner 4 = o) ∧
      t.get F.FIELD_ENC_CFG_MODE c.target = c.p 1 % 4 ∧ t.get F.FIELD_ENC_CFG_INVERT c.target = c.p 1 / 4 % 2)) ∧
  (∀ (s : State) (src : Source) (c : Cmd), Starts s src 0x0705 c → encOk c = false →
    Ends (.cmdEncConfig src) s (s.dropOldest src) src c .badParam) ∧
  (∀ (s : State) (src : Source) (c : Cmd), Starts s src 0x0706 c →
    (1 ≤ c.p 1 → c.p 1 ≤ 65535 → Ends (.cmdEjectLeadSet src) s
      (((s.dropOldest src).put F.FIELD_EJECT_LEAD_LEAD (c.p 1)).stored 31) src c .done) ∧
    ((c.p 1 = 0 ∨ 65535 < c.p 1) → Ends (.cmdEjectLeadSet src) s (s.dropOldest src) src c .badParam)) ∧
  (∀ (s : State) (src : Source) (c : Cmd), Starts s src 0x0707 c → ∃ t, Ends (.cmdStopClear src) s t src c .done ∧
    t = { s.dropOldest src with regs := t.regs, field := t.field } ∧ t.field.outbox = s.field.outbox ++ [.stopClear] ∧
    t.on F.FIELD_STOP_CLEAR_PENDING = true) ∧
  (∀ (s : State) (src : Source) (c : Cmd), Starts s src 0x0708 c → s.locked R.FIELD_SAFE_VALUES.base = false →
    (∀ i, i < 8 → bitAt (c.p 1) i = true → s.owner (5 + i) ≠ ownStop) →
    ∃ t, Ends (.cmdSafeValuesSet src) s t src c .done ∧ t = { s.dropOldest src with regs := t.regs, field := t.field } ∧
      t.reg R.FIELD_SAFE_VALUES = c.p 1 % 256) ∧
  (∀ (s : State) (src : Source) (c : Cmd) (i : Nat), Starts s src 0x0708 c → i < 8 → bitAt (c.p 1) i = true →
    s.owner (5 + i) = ownStop → Ends (.cmdSafeValuesSet src) s (s.dropOldest src) src c .badState) ∧
  (∀ (s : State) (src : Source) (c : Cmd), Starts s src 0x0708 c → s.locked R.FIELD_SAFE_VALUES.base = true →
    Ends (.cmdSafeValuesSet src) s (s.dropOldest src) src c .badState) ∧
  (∀ (s : State) (a : Nat) (v : Word) (r : Reg) (i j : Nat), Live s → 0x3F00A00000 ≤ a → a < 0x3F00AFFFFC →
    findReg regTable a = some (r, i, j) →
    (r.base = R.BLOCK_LOCK.base → Goes (.fieldRegisterWrite a v) s (s.setReg r (r.merge (s.reg r i) v.toNat) i)) ∧
    (r.base ≠ R.BLOCK_LOCK.base → r.rw = 0 → Goes (.fieldRegisterWrite a v) s s) ∧
    (r.base ≠ R.BLOCK_LOCK.base → r.rw ≠ 0 →
      Goes (.fieldRegisterWrite a v) s (s.setField r (r.merge (s.reg r i) v.toNat) i))) ∧
  (∀ (s : State) (a : Nat) (v : Word), Live s → (a < 0x3F00A00000 ∨ 0x3F00AFFFFC ≤ a ∨ findReg regTable a = none) →
    Goes (.fieldRegisterWrite a v) s s)

/-! ### Stripe tasks and steps -/

/-- The issue and the retirement of stripe tasks (R195 to R197, R201, R202, R267, R268): a loom of a RUNNING job with room in its
list takes the first task in the order whose token has or finds a staging slot; a token that finds none is counted once; a task
retires only where it was issued, its command is under way, its last store has completed and its partition's commands run. Its
stripe vector is what that store has written, and is poisoned where the task's command has been given up (R326).
Where the spec leaves a reading open it follows the model's choices of notes/assumptions 71, 74, 75, 76, 223. -/
def Obligations.StripeTasks : Prop :=
  (∀ (s : State) (p : Fin 8) (n : Fin 64) (k : Task) (q : List Task) (slot : Nat), Live s →
    s.get F.SCHED_JOB_STATE p.val = 2 → (s.jobLooms p.val).contains n.val = true → (s.loom n.val).cmds.length < 2 →
    (s.fenceDue.any fun e => e.1 == n.val) = false → s.taskOrder p.val = k :: q →
    s.slotFor p.val k.bobbin k.token = some slot →
    ∃ t, Goes (.stripeTaskIssue p n) s t ∧ t = { s with regs := t.regs, sched := t.sched, looms := t.looms } ∧
      (t.part p.val).issued = (s.part p.val).issued ++ [{ k with loom := some n.val, calib := (s.part p.val).calib.gathering }] ∧
      tget? (t.part p.val).stage slot = some (k.bobbin, k.token) ∧ k ∉ (t.part p.val).ready ∧
      (t.loom n.val).cmds = (s.loom n.val).cmds ++
        [{ kind := 1, bobbin := k.bobbin, token := k.token, stripe := k.stripe }] ∧
      ∀ m, m ≠ n.val → tget? t.looms m = tget? s.looms m) ∧
  (∀ (s : State) (p : Fin 8) (n : Fin 64), Live s → s.get F.SCHED_JOB_STATE p.val = 2 →
    (s.jobLooms p.val).contains n.val = true → (s.loom n.val).cmds.length < 2 →
    (s.fenceDue.any fun e => e.1 == n.val) = false →
    (s.taskOrder p.val = [] → Goes (.stripeTaskIssue p n) s s) ∧
    (∀ k q, s.taskOrder p.val = k :: q → s.slotFor p.val k.bobbin k.token = none →
      Goes (.stripeTaskIssue p n) s ((s.noteStageWait p.val k).issueFirst p.val n.val q))) ∧
  (∀ (s : State) (p n : Nat), s.issueFirst p n [] = s) ∧
  (∀ (s : State) (p : Nat) (k : Task), (s.part p).waitSeen.contains (k.bobbin, k.token) = true → s.noteStageWait p k = s) ∧
  (∀ (k : Task) (im : Config.Image) (store : Nat), (k.vector im store).length = 4 * dimOf im ∧
    (k.spoilt = true → ∀ b ∈ k.vector im store, b = none) ∧
    (k.spoilt = false → ∀ i, i < 4 * dimOf im → (k.vector im store).getD i none = (tgetD k.outs store []).getD i none)) ∧
  (∀ k : Task, k.again.loom = none ∧ k.again.outs = [] ∧ k.again.spoilt = false) ∧
  (∀ (s : State) (p : Fin 8) (n : Fin 64), Live s → (s.get F.SCHED_JOB_STATE p.val ≠ 2 ∨ 2 ≤ (s.loom n.val).cmds.length ∨
    (s.jobLooms p.val).contains n.val = false ∨ (s.fenceDue.any fun e => e.1 == n.val) = true) →
    Goes (.stripeTaskIssue p n) s s) ∧
  (∀ (s : State) (n : Fin 64) (b : Fin 4096) (token stripe o : Nat) (k : Task), Live s →
    (s.part (s.bob b.val).partition).issued.find? (fun t =>
      t.loom == some n.val && t.bobbin == b.val && t.token == token && t.stripe == stripe) = some k →
    s.runsOn (s.bob b.val).partition = true → s.underWay k = true → k.stored o = true →
    Goes (.stripeTaskRetire n b token stripe o) s (s.retireTask (s.bob b.val).partition o k).settle) ∧
  (∀ (s : State) (n : Fin 64) (b : Fin 4096) (token stripe o : Nat), Live s →
    (∀ k, (s.part (s.bob b.val).partition).issued.find? (fun t =>
      t.loom == some n.val && t.bobbin == b.val && t.token == token && t.stripe == stripe) = some k →
      s.runsOn (s.bob b.val).partition = false ∨ s.underWay k = false ∨ k.stored o = false) →
    Goes (.stripeTaskRetire n b token stripe o) s s.settle) ∧
  (∀ s : State, s.fenceDue = [] → s.settle = s)

/-- The start of a batch step (R39, R46, R211 to R214, R268, R327): the start rule decides; a step takes at most 64 rows, shows
RUNNING and puts its segment on every loom of the job's schedule; a partition that runs a step or an optimiser step starts none,
nor one with too few looms, nor one whose model must be loaded again.
Where the spec leaves a reading open it follows the model's choices of notes/assumptions 71, 78. -/
def Obligations.StepStarts : Prop :=
  (∀ (s t : State) (p : Fin 8) (w : Why), Live s → t = s.judgeReady p.val → t.mayStep p.val = true →
    t.startWhy p.val = some w →
    Goes (.batchStepStart p) s ((t.noteDefer p.val).startStep p.val w) ∧
    (t.latestReached p.val = true → Goes (.latestStartReached p) s ((t.noteDefer p.val).startStep p.val w)) ∧
    (t.get F.SCHED_FILL_WAIT_US ≠ 0 → t.waited (t.readyParts p.val) (t.get F.SCHED_FILL_WAIT_US) = true →
      Goes (.fillWaitExpire p) s ((t.noteDefer p.val).startStep p.val w)) ∧
    (t.waited (t.readySamples p.val) (t.get F.SAMPLE_BATCH_WAIT_US) = true →
      Goes (.sampleBatchWaitExpire p) s ((t.noteDefer p.val).startStep p.val w))) ∧
  (∀ (s t : State) (p : Fin 8), Live s → t = s.judgeReady p.val → (t.mayStep p.val = false ∨ t.startWhy p.val = none) →
    Goes (.batchStepStart p) s t ∧ Goes (.latestStartReached p) s t ∧ Goes (.fillWaitExpire p) s t ∧
    Goes (.sampleBatchWaitExpire p) s t) ∧
  (∀ (s t : State) (p : Fin 8), Live s → t = s.judgeReady p.val →
    (t.latestReached p.val = false → Goes (.latestStartReached p) s t) ∧
    ((t.get F.SCHED_FILL_WAIT_US = 0 ∨ t.waited (t.readyParts p.val) (t.get F.SCHED_FILL_WAIT_US) = false) →
      Goes (.fillWaitExpire p) s t) ∧
    (t.waited (t.readySamples p.val) (t.get F.SAMPLE_BATCH_WAIT_US) = false → Goes (.sampleBatchWaitExpire p) s t)) ∧
  (∀ (s : State) (p : Nat), s.get F.SCHED_JOB_STATE p ≠ 2 ∨ (s.part p).step.isSome = true ∨ (s.part p).learn.running = true ∨
    (∃ m, s.jobModel p = some m ∧ ((s.freshLooms p).length < m.floor ∨ s.reloadDue m = true)) → s.mayStep p = false) ∧
  (∀ (s : State) (p : Nat), 64 ≤ (s.readyParts p).length + (s.readySamples p).length → s.startWhy p = some .full) ∧
  (∀ (s : State) (p : Nat), (s.readyParts p).length + (s.readySamples p).length < 64 → s.readyParts p ≠ [] →
    (s.latestReached p = true → s.startWhy p = some .latest) ∧
    (s.latestReached p = false → s.get F.SCHED_FILL_WAIT_US ≠ 0 →
      s.waited (s.readyParts p) (s.get F.SCHED_FILL_WAIT_US) = true → s.startWhy p = some .waited)) ∧
  (∀ (s : State) (p : Nat), (s.readySamples p).length < 64 → s.readyParts p = [] → s.readySamples p ≠ [] →
    s.waited (s.readySamples p) (s.get F.SAMPLE_BATCH_WAIT_US) = true → s.startWhy p = some .waited) ∧
  (∀ (s : State) (p : Nat), s.readyParts p = [] → s.readySamples p = [] → s.startWhy p = none) ∧
  (∀ (s : State) (p : Fin 8) (w : Why) (rows : List Nat),
    (State.takeRows (s.boundary p.val) p.val ((s.boundary p.val).rowOrder p.val) []).2 = rows → rows ≠ [] →
    rows.length ≤ 64 ∧ ((s.startStep p.val w).part p.val).step.map (·.rows) = some rows ∧
      (s.startStep p.val w).on F.SCHED_BATCH_RUNNING p.val = true ∧
      ∀ n, n ∈ (s.startStep p.val w).jobLooms p.val → ∃ c ∈ ((s.startStep p.val w).loom n).cmds, c.kind = 2)

/-- The end of a batch step and the optimiser step (R204, R209, R215, R217, R251 to R256, R267): a step ends once the last of its
segments has; every row runs on its bobbin as the step took it, and one that still counts has one token more and its bobbin leaves
the step, and the last token's head is judged; a step that has met poison has no result but poison, and its poisoned cache units are
loaded again before the next step (R326, R327);
the order in which partial sums arrive matters only where a float image splits sums under FAST (R216, R294); an optimiser step runs where no latest start stands in its way, else it is counted deferred once; a result that is not finite
sets DIVERGED.
Where the spec leaves a reading open it follows the model's choices of notes/assumptions 58, 71, 77, 88, 222. -/
def Obligations.StepEnds : Prop :=
  (∀ (s c d : State) (p : Fin 8) (j b h g : Nat) (o : Arrivals) (st : StepRun) (r : State × List (Option (List Word))), Live s →
    (s.part p.val).step = some st → s.runsOn p.val = true → (s.part p.val).redo = false → s.segmentsLeft p.val 2 = false →
    o = { projections := j, blocks := b, heads := h, gradients := g } →
    r = (s.meetUnits p.val).runRows o p.val (st.bad || !(s.poisonUnits p.val).isEmpty) st.members →
    c = (r.1.bumpWrap F.SCHED_STEP_CNT_STEPS 1 p.val).stepGather p.val st.members →
    d = foldState (fun t (e : Nat × Option (List Word)) => t.rowDone o p.val st.earlyRun e.2 e.1) c (st.rows.zip r.2) →
    Goes (.batchStepDone p j b h g) s (State.settle (d.stepEnd p.val))) ∧
  (∀ (s : State) (o : Arrivals) (p row id : Nat) (b : Bobbin), (s.runRow o p row id b true).2 = none) ∧
  (∀ (s : State) (p : Nat), (∃ m, s.meetUnits p = { s with mem := { s.mem with met := m } }) ∧
    ∀ u ∈ s.poisonUnits p, (tget? (s.meetUnits p).mem.met u).isSome = true) ∧
  (∀ st : StepRun, st.members.length = st.rows.length ∧
    ∀ i, i < st.rows.length → st.members[i]? = some (st.rows.getD i 0, i, st.bobs.getD i {})) ∧
  (∀ (s : State) (p a b : Nat), (s.profile ≠ 3 ∨ ∀ m, s.jobModel p = some m → m.profile ≠ 3 ∨ m.info.float = false) →
    s.sig p a = s.sig p b) ∧
  (∀ (s : State) (p : Fin 8) (j b h g : Nat), Live s → ((s.part p.val).step = none ∨ s.runsOn p.val = false ∨ (s.part p.val).redo = true ∨
    s.segmentsLeft p.val 2 = true) → Goes (.batchStepDone p j b h g) s s.settle) ∧
  (∀ (s : State) (o : Arrivals) (p e id : Nat) (row : Option (List Word)), s.rowLives id = false →
    s.rowDone o p e row id = s.dropPages p id) ∧
  (∀ (s : State) (o : Arrivals) (p id : Nat) (row : Option (List Word)), s.rowLives id = true →
    (s.bob id).sample = none → (s.bob id).done + 1 < (s.bob id).tokens →
    ∃ t, s.rowDone o p 0 row id = t ∧ (t.bob id).done = (s.bob id).done + 1 ∧ (t.bob id).member = false ∧
      (t.bob id).heads.length = (s.bob id).heads.length + 1 ∧ ∀ j, j ≠ id → tget? t.bobs j = tget? s.bobs j) ∧
  (∀ (s u : State) (o : Arrivals) (p e id : Nat) (row : Option (List Word)), s.rowLives id = true → (s.bob id).sample = none →
    (s.bob id).done + 1 = (s.bob id).tokens →
    u = (s.setBob id { s.bob id with done := (s.bob id).done + 1, member := false }).freeStage id (· == (s.bob id).done) →
    s.rowDone o p e row id = u.partHead id (headOf (s.rowHead o p id row).1.logits ((s.bob id).alarmed.contains (s.bob id).done))
      true) ∧
  (∀ (s : State) (p : Fin 8), Live s → (s.part p.val).learn.due = true → s.mayStep p.val = true →
    (∀ x, s.partLatest p.val = some x →
      (s.time.now : Int) + s.get F.SCHED_LEARN_OPT_TIME_NS p.val * nsUnit + usUnits (s.get F.SCHED_GUARD_US) ≤ x) →
    ∃ t, Goes (.optimiserStepStart p) s t ∧ t = { s with regs := t.regs, sched := t.sched, looms := t.looms } ∧
      (t.part p.val).learn = { (s.part p.val).learn with
        running := true, due := false, held := false, hyper := (s.hyper p.val).list }) ∧
  (∀ (s : State) (p : Fin 8) (x : Int), Live s → (s.part p.val).learn.due = true → s.mayStep p.val = true →
    s.partLatest p.val = some x →
    x < s.time.now + s.get F.SCHED_LEARN_OPT_TIME_NS p.val * nsUnit + usUnits (s.get F.SCHED_GUARD_US) →
    ((s.part p.val).learn.held = true → Goes (.optimiserStepStart p) s s) ∧
    ((s.part p.val).learn.held = false → Goes (.optimiserStepStart p) s
      ((s.mapLearn p.val fun l => { l with held := true }).bump F.SCHED_LEARN_CNT_DEFER p.val))) ∧
  (∀ (s : State) (p : Fin 8), Live s → ((s.part p.val).learn.due = false ∨ s.mayStep p.val = false) →
    Goes (.optimiserStepStart p) s s) ∧
  (∀ (s t : State) (p : Fin 8), Live s → (s.part p.val).learn.running = true → s.runsOn p.val = true →
    (s.part p.val).redo = false → s.segmentsLeft p.val 3 = false → t = (s.optDone p.val).judgeReady p.val →
    ∀ x : Partition, x = { t.part p.val with overdue := if t.latestReached p.val then some t.time.now else none } →
    Goes (.optimiserStepDone p) s (State.settle (((t.setPart p.val x).noteDefer p.val).stopIfIdle p.val))) ∧
  (∀ (s : State) (p : Fin 8), Live s → ((s.part p.val).learn.running = false ∨ s.runsOn p.val = false ∨
    (s.part p.val).redo = true ∨ s.segmentsLeft p.val 3 = true) → Goes (.optimiserStepDone p) s s.settle) ∧
  (∀ (s : State) (p : Fin 8), ((s.part p.val).learn.step (s.info p.val).learn).sound = false →
    (s.optDone p.val).on F.SCHED_LEARN_CTRL_DIVERGED p.val = true ∧
    ((s.optDone p.val).part p.val).learn.master = (s.part p.val).learn.master ∧
    ((s.optDone p.val).part p.val).learn.working = (s.part p.val).learn.working)

/-! ### Partitions and jobs -/

/-- CMD_PARTITION_CREATE and CMD_PARTITION_DELETE (R269 to R271): the first check that fails names the status; a valid creation
takes its looms and borrows those of a pre-empted job; a deletion is refused while a job runs or a loom is lent, and ends the
job of a lender to whom a fenced loom returns and leaves fewer than FLOOR (R430).
Where the spec leaves a reading open it follows the model's choices of notes/assumptions 99. -/
def Obligations.Partitions : Prop :=
  (∀ (s : State) (src : Source) (c : Cmd) (ns : List Nat), Starts s src 0x0404 c → c.target < 8 →
    ns = maskList 64 (c.p 1 + 2 ^ 32 * c.p 2) →
    (ns = [] → Ends (.cmdPartitionCreate src) s (s.dropOldest src) src c .badParam) ∧
    (ns ≠ [] → s.hasPart c.target = true → Ends (.cmdPartitionCreate src) s (s.dropOldest src) src c .badState) ∧
    (ns ≠ [] → s.hasPart c.target = false → (∃ n ∈ ns, s.borrowable n = false) →
      Ends (.cmdPartitionCreate src) s (s.dropOldest src) src c .resourceHeld) ∧
    (ns ≠ [] → s.hasPart c.target = false → (∀ n ∈ ns, s.borrowable n = true) → (∃ n ∈ ns, s.fenced n = true) →
      Ends (.cmdPartitionCreate src) s (s.dropOldest src) src c .fenced) ∧
    (ns ≠ [] → s.hasPart c.target = false → (∀ n ∈ ns, s.borrowable n = true) → (∀ n ∈ ns, s.fenced n = false) →
      ∃ t, Ends (.cmdPartitionCreate src) s t src c .done ∧
        t = { s.dropOldest src with regs := t.regs, sched := { s.sched with parts := t.sched.parts } } ∧
        t.hasPart c.target = true ∧ (t.part c.target).looms = ns ∧
        (∀ n q, (n, q) ∈ (t.part c.target).borrowed ↔ n ∈ ns ∧ s.ownerOf n = some q) ∧
        ∀ q, q ≠ c.target → tget? t.sched.parts q = tget? s.sched.parts q)) ∧
  (∀ (s : State) (src : Source) (c : Cmd), Starts s src 0x0405 c → c.target < 8 →
    (s.hasPart c.target = false → Ends (.cmdPartitionDelete src) s (s.dropOldest src) src c .badState) ∧
    (s.hasPart c.target = true → (s.get F.SCHED_JOB_STATE c.target ≠ 0 ∨ ∃ n ∈ (s.part c.target).looms, s.lent c.target n = true) →
      Ends (.cmdPartitionDelete src) s (s.dropOldest src) src c .busy) ∧
    (s.hasPart c.target = true → s.get F.SCHED_JOB_STATE c.target = 0 →
      (∀ n ∈ (s.part c.target).looms, s.lent c.target n = false) →
      ∀ t : State, t = { s.dropOldest src with sched := { s.sched with parts := tdel s.sched.parts c.target } } →
      Ends (.cmdPartitionDelete src) s (State.settle (foldState (fun u q => u.lenderFenced q) t.showParts
        (((s.part c.target).borrowed.filter fun e => s.fenced e.1).map (·.2)).eraseDups)) src c .done) ∧
    (s.hasPart c.target = true → s.get F.SCHED_JOB_STATE c.target = 0 →
      (∀ n ∈ (s.part c.target).looms, s.lent c.target n = false) → tsorted s.sched.parts = true →
      (∀ e ∈ (s.part c.target).borrowed, s.fenced e.1 = false) →
      ∃ t, Ends (.cmdPartitionDelete src) s t src c .done ∧
        t = { s.dropOldest src with regs := t.regs, sched := { s.sched with parts := t.sched.parts } } ∧
        t.hasPart c.target = false ∧ ∀ q, q ≠ c.target → tget? t.sched.parts q = tget? s.sched.parts q)) ∧
  (∀ (s : State) (q : Nat), (s.jobModel q = none → s.lenderFenced q = s) ∧
    ∀ m, s.jobModel q = some m →
      (m.floor ≤ ((s.part q).looms.filter fun n => !s.fenced n).length → s.lenderFenced q = s) ∧
      (((s.part q).looms.filter fun n => !s.fenced n).length < m.floor →
        s.lenderFenced q = (s.jobKill q .fenced .fenced).bump F.SCHED_FENCE_CNT_FLOOR))

/-- The job commands (R278 to R285, R291): start checks the partition, the model, the floor and the areas and begins; stop
withdraws and lets what runs end; cancel ends at once; pre-emption and resume pass through their states; the profile is
refused while a job is anything but IDLE or once it is locked.
Where the spec leaves a reading open it follows the model's choices of notes/assumptions 95, 96, 97, 98. -/
def Obligations.JobCommands : Prop :=
  (∀ (s : State) (src : Source) (c : Cmd), Starts s src 0x0406 c →
    ((s.hasPart c.target = false ∨ s.get F.SCHED_JOB_STATE c.target ≠ 0) →
      Ends (.cmdJobStart src) s (s.dropOldest src) src c .badState) ∧
    (s.hasPart c.target = true → s.get F.SCHED_JOB_STATE c.target = 0 → s.model? (c.p 1) = none →
      Ends (.cmdJobStart src) s (s.dropOldest src) src c .noModel) ∧
    (∀ m, s.hasPart c.target = true → s.get F.SCHED_JOB_STATE c.target = 0 → s.model? (c.p 1) = some m →
      (s.activeLooms c.target).length < m.floor → Ends (.cmdJobStart src) s (s.dropOldest src) src c .fenced) ∧
    (∀ m (t : State), s.hasPart c.target = true → s.get F.SCHED_JOB_STATE c.target = 0 → s.model? (c.p 1) = some m →
      m.floor ≤ (s.activeLooms c.target).length →
      t = State.asStarting (s.dropOldest src) c.target (c.p 1) (bitAt (c.p 2) 0) →
      (t.jobFits c.target m (bitAt (c.p 2) 0) = false → Ends (.cmdJobStart src) s (s.dropOldest src) src c .badState) ∧
      (t.jobFits c.target m (bitAt (c.p 2) 0) = true → t.beginResident (c.p 1) = none →
        Ends (.cmdJobStart src) s (s.dropOldest src) src c .noModel) ∧
      (∀ u : State, t.jobFits c.target m (bitAt (c.p 2) 0) = true → t.beginResident (c.p 1) = some u →
        (bitAt (c.p 2) 0 = false → Begins (.cmdJobStart src) s (u.showJob c.target m) src c) ∧
        (bitAt (c.p 2) 0 = true → Begins (.cmdJobStart src) s ((u.showJob c.target m).startLearn c.target) src c)))) ∧
  (∀ (s : State) (p : Fin 8) (id : Nat) (learn : Bool), ((s.asStarting p.val id learn).get F.SCHED_JOB_STATE p.val = 1) ∧
    ((s.asStarting p.val id learn).part p.val).model = id ∧ ((s.asStarting p.val id learn).part p.val).learning = learn) ∧
  (∀ (s t : State) (src : Source) (c : Cmd), Starts s src 0x0407 c →
    (s.get F.SCHED_JOB_STATE c.target ≠ 2 → Ends (.cmdJobStop src) s (s.dropOldest src) src c .badState) ∧
    (s.get F.SCHED_JOB_STATE c.target = 2 →
      t = State.put (State.withdraw (s.dropOldest src) c.target (s.heldLooms c.target) fun k => k.kind == 1)
        F.SCHED_JOB_STATE 6 c.target →
      (t.allEnded c.target = false → Begins (.cmdJobStop src) s t src c) ∧
      (t.allEnded c.target = true → Ends (.cmdJobStop src) s
        (State.finishAll ((t.reply src c .accepted).jobIdle c.target .done .cancelled) 0x040B c.target .cancelled)
        src c .done))) ∧
  (∀ (s : State) (src : Source) (c : Cmd), Starts s src 0x0408 c →
    (s.get F.SCHED_JOB_STATE c.target = 0 → Ends (.cmdJobCancel src) s (s.dropOldest src) src c .badState) ∧
    (s.get F.SCHED_JOB_STATE c.target ≠ 0 →
      Ends (.cmdJobCancel src) s (State.settle (State.jobKill (s.dropOldest src) c.target .cancelled .cancelled)) src c .done)) ∧
  (∀ (s : State) (p : Fin 8) (last samples : Status), ∃ t, s.jobIdle p.val last samples = t ∧
    t.get F.SCHED_JOB_STATE p.val = 0 ∧ t.get F.SCHED_JOB_LAST p.val = last.code ∧ (t.part p.val).step = none ∧
    (t.part p.val).ready = [] ∧ (t.part p.val).issued = [] ∧ (t.part p.val).stage = [] ∧ (t.part p.val).model = 0) ∧
  (∀ (s : State) (src : Source) (c : Cmd), Starts s src 0x0409 c →
    (1 < c.p 1 → s.get F.SCHED_JOB_STATE c.target = 2 → Ends (.cmdJobPreempt src) s (s.dropOldest src) src c .badParam) ∧
    (c.p 1 = 0 → s.get F.SCHED_JOB_STATE c.target = 2 →
      Begins (.cmdJobPreempt src) s (State.beginPreempt (s.dropOldest src) c.target false) src c) ∧
    (c.p 1 = 1 → s.get F.SCHED_JOB_STATE c.target = 2 → s.saveOk c.target = true →
      Begins (.cmdJobPreempt src) s (State.beginPreempt (s.dropOldest src) c.target true) src c) ∧
    (c.p 1 = 1 → s.get F.SCHED_JOB_STATE c.target = 2 → s.saveOk c.target = false →
      Ends (.cmdJobPreempt src) s (s.dropOldest src) src c .badState) ∧
    (c.p 1 = 1 → s.get F.SCHED_JOB_STATE c.target = 3 → s.on F.SCHED_JOB_IMMEDIATE c.target = false → s.saveOk c.target = true →
      Begins (.cmdJobPreempt src) s ((State.finishFor (s.dropOldest src) 0x0409 c.target .preempted).putBit
        F.SCHED_JOB_IMMEDIATE true c.target) src c) ∧
    (s.get F.SCHED_JOB_STATE c.target ≠ 2 → (s.get F.SCHED_JOB_STATE c.target ≠ 3 ∨ c.p 1 ≠ 1 ∨
        s.on F.SCHED_JOB_IMMEDIATE c.target = true ∨ s.saveOk c.target = false) →
      Ends (.cmdJobPreempt src) s (s.dropOldest src) src c .badState)) ∧
  (∀ (s : State) (p : Fin 8), Live s → s.get F.SCHED_JOB_STATE p.val = 3 → s.paused p.val = true →
    s.on F.SCHED_JOB_IMMEDIATE p.val = false → Goes (.preemptComplete p) s (State.settle
      (((s.put F.SCHED_JOB_STATE 4 p.val).bump F.SCHED_JOB_CNT_PREEMPT p.val).finishFor 0x0409 p.val .done))) ∧
  (∀ (s : State) (p : Fin 8), Live s → s.get F.SCHED_JOB_STATE p.val = 3 → s.paused p.val = true →
    s.on F.SCHED_JOB_IMMEDIATE p.val = true → Goes (.preemptComplete p) s (State.settle
      ((((s.saveLooms p.val).put F.SCHED_JOB_STATE 4 p.val).bump F.SCHED_JOB_CNT_PREEMPT p.val).finishFor 0x0409 p.val .done))) ∧
  (∀ (s : State) (p : Fin 8), Live s → (s.get F.SCHED_JOB_STATE p.val ≠ 3 ∨ s.paused p.val = false) →
    Goes (.preemptComplete p) s s.settle) ∧
  (∀ (s : State) (src : Source) (c : Cmd), Starts s src 0x040A c →
    ((s.get F.SCHED_JOB_STATE c.target ≠ 4 ∨ ∃ n ∈ (s.part c.target).looms, s.lent c.target n = true) →
      Ends (.cmdJobResume src) s (s.dropOldest src) src c .badState) ∧
    (s.get F.SCHED_JOB_STATE c.target = 4 → (∀ n ∈ (s.part c.target).looms, s.lent c.target n = false) →
      Lasts (.cmdJobResume src) s (State.put (s.dropOldest src) F.SCHED_JOB_STATE 5 c.target) src c)) ∧
  (∀ (s t u : State) (p : Fin 8), Live s → s.get F.SCHED_JOB_STATE p.val = 5 →
    u = (t.put F.SCHED_JOB_STATE 2 p.val).putBit F.SCHED_JOB_IMMEDIATE false p.val →
    ((s.activeLooms p.val).length ≠ (s.part p.val).paused.length → t = s.resumeAnew p.val →
      Goes (.resumeComplete p) s (State.settle ((u.judgeReady p.val).finishFor 0x040A p.val .done))) ∧
    ((s.activeLooms p.val).length = (s.part p.val).paused.length →
      t = (if s.on F.SCHED_JOB_IMMEDIATE p.val then s.restoreLooms p.val else s) →
      Goes (.resumeComplete p) s (State.settle (((foldState (fun w n => w.resumeRemote p.val n) u
        ((s.part p.val).saved.map (·.1))).judgeReady p.val).finishFor 0x040A p.val .done)))) ∧
  (∀ (s : State) (p : Fin 8), Live s → s.get F.SCHED_JOB_STATE p.val ≠ 5 → Goes (.resumeComplete p) s s.settle) ∧
  (∀ (s : State) (src : Source) (c : Cmd), Starts s src 0x040C c →
    ((c.p 1 % 256 = 0 ∨ 3 < c.p 1 % 256 ∨ 512 ≤ c.p 1) → Ends (.cmdArithProfileSet src) s (s.dropOldest src) src c .badParam) ∧
    (1 ≤ c.p 1 % 256 → c.p 1 % 256 ≤ 3 → c.p 1 < 512 → s.on F.DET_ARITH_PROFILE_LOCK = true →
      Ends (.cmdArithProfileSet src) s (s.dropOldest src) src c .badState) ∧
    (1 ≤ c.p 1 % 256 → c.p 1 % 256 ≤ 3 → c.p 1 < 512 → s.on F.DET_ARITH_PROFILE_LOCK = false →
      (∃ p, p < 8 ∧ s.get F.SCHED_JOB_STATE p ≠ 0) → Ends (.cmdArithProfileSet src) s (s.dropOldest src) src c .badState) ∧
    (1 ≤ c.p 1 % 256 → c.p 1 % 256 ≤ 3 → c.p 1 < 512 → s.on F.DET_ARITH_PROFILE_LOCK = false →
      (∀ p, p < 8 → s.get F.SCHED_JOB_STATE p = 0) →
      ∃ t, Ends (.cmdArithProfileSet src) s t src c .done ∧ t = { s.dropOldest src with regs := t.regs, copies := t.copies } ∧
        SameRegs s t [R.DET_ARITH_PROFILE.addr 0 0] ∧
        t.get F.DET_ARITH_PROFILE_PROFILE = c.p 1 % 256 ∧ (t.on F.DET_ARITH_PROFILE_LOCK = bitAt (c.p 1) 8)))

/-! ### Models and learning -/

/-- Models (R257, R272 to R277, R327): a registration begins where the registry is valid and free, and its chunks are taken in
their places; a model is pinned when it has room; one that is in use is not unregistered; a resident unit in which poison was met
is loaded again and counted; a commit waits for the optimiser step in progress, and a STANDBY device takes none (R398).
Where the spec leaves a reading open it follows the model's choices of notes/assumptions 85, 90, 91, 92, 93. -/
def Obligations.Models : Prop :=
  (∀ (s : State) (src : Source) (c : Cmd), Starts s src 0x0401 c →
    ((c.p 1 = 0 ∨ (s.model? (c.p 1)).isSome = true ∨ c.p 2 = 0 ∨ c.p 2 % 64 ≠ 0) →
      Ends (.cmdModelRegister src) s (s.dropOldest src) src c .badParam) ∧
    (∀ a, c.p 1 ≠ 0 → s.model? (c.p 1) = none → c.p 2 ≠ 0 → c.p 2 % 64 = 0 → s.registryOk = true →
      s.sched.loading = none → s.sched.models.length < 1024 → s.registrySpace (c.p 2) = some a →
      ∀ l : RegLoad, l = { src := src, tag := c.tag, id := c.p 1, len := c.p 2, addr := a } →
      Begins (.cmdModelRegister src) s { s.dropOldest src with sched := { s.sched with loading := some l } } src c) ∧
    (c.p 1 ≠ 0 → s.model? (c.p 1) = none → c.p 2 ≠ 0 → c.p 2 % 64 = 0 → s.registryOk = true → s.sched.loading.isSome = true →
      Ends (.cmdModelRegister src) s (s.dropOldest src) src c .busy) ∧
    (c.p 1 ≠ 0 → s.model? (c.p 1) = none → c.p 2 ≠ 0 → c.p 2 % 64 = 0 → s.registryOk = false →
      Ends (.cmdModelRegister src) s (s.dropOldest src) src c .badState) ∧
    (c.p 1 ≠ 0 → s.model? (c.p 1) = none → c.p 2 ≠ 0 → c.p 2 % 64 = 0 → s.registryOk = true → s.sched.loading = none →
      (1024 ≤ s.sched.models.length ∨ s.registrySpace (c.p 2) = none) →
      Ends (.cmdModelRegister src) s (s.dropOldest src) src c .overflow)) ∧
  (∀ (s : State) (k : RxPacket), Live s → s.host.csiReady = true → k.header = 0 → k.vc < 4 → k.listed = true → k.crcOk = true →
    Goes (.hostRxModelChunk k) s (s.takeChunk k.payload)) ∧
  (∀ (s : State) (bs : List Byte), s.sched.loading = none → s.takeChunk bs = s.rxDiscard) ∧
  (∀ (s : State) (bs : List Byte) (l : RegLoad) (o : Nat), s.sched.loading = some l → o = (bytesWord (bs.drop 4)).toNat →
    ((bs.length < 8 ∨ bs.length % 4 ≠ 0 ∨ (bytesWord bs).toNat % 2 ^ 16 ≠ l.tag ∨ o % 4 ≠ 0 ∨ l.len < o + (bs.length - 8)) →
      s.takeChunk bs = s.rxDiscard) ∧
    (8 ≤ bs.length → bs.length % 4 = 0 → (bytesWord bs).toNat % 2 ^ 16 = l.tag → o % 4 = 0 → o + (bs.length - 8) ≤ l.len →
      ∀ (m : RegLoad) (t : State), m = { l with got := takeAt l.got o (bs.drop 8) } →
      t = { s with sched := { s.sched with loading := some m } } →
      (m.got.length = m.len → s.takeChunk bs = t.endLoading m) ∧ (m.got.length ≠ m.len → s.takeChunk bs = t))) ∧
  (∀ (s : State) (src : Source) (c : Cmd), Starts s src 0x0402 c →
    (s.model? (c.p 1) = none → Ends (.cmdModelUnregister src) s (s.dropOldest src) src c .noModel) ∧
    (∀ m, s.model? (c.p 1) = some m → s.modelBusy (c.p 1) = true → Ends (.cmdModelUnregister src) s (s.dropOldest src) src c .busy) ∧
    (∀ m, s.model? (c.p 1) = some m → s.modelBusy (c.p 1) = false →
      ∃ t, Ends (.cmdModelUnregister src) s t src c .done ∧ t.model? (c.p 1) = none ∧
        (∀ id, id ≠ c.p 1 → t.model? id = s.model? id) ∧ t.mem = s.mem)) ∧
  (∀ (s : State) (src : Source) (c : Cmd), Starts s src 0x0403 c →
    (s.model? (c.p 1) = none → Ends (.cmdModelPin src) s (s.dropOldest src) src c .noModel) ∧
    (∀ m t, s.model? (c.p 1) = some m → bitAt (c.p 2) 0 = true → (s.dropOldest src).beginResident (c.p 1) = some t →
      Begins (.cmdModelPin src) s t src c) ∧
    (∀ m, s.model? (c.p 1) = some m → bitAt (c.p 2) 0 = true → (s.dropOldest src).beginResident (c.p 1) = none →
      Ends (.cmdModelPin src) s (s.dropOldest src) src c .overflow) ∧
    (∀ m, s.model? (c.p 1) = some m → bitAt (c.p 2) 0 = false → Ends (.cmdModelPin src) s
      (State.showModels (((s.dropOldest src).reply src c .accepted).mapModel (c.p 1) fun x => { x with pinned := false })) src c .done
      [w32 (if m.resident then m.slot.getD 0xFF else 0xFF)])) ∧
  (∀ (s : State) (m : Model) (id k : Nat), Live s → s.model? id = some m → m.slot = some k → m.resident = true →
    s.startingWith id = [] → s.pinWaits id = false → Goes (.modelResident id) s s) ∧
  (∀ (s : State) (m : Model) (id k : Nat), Live s → s.model? id = some m → m.slot = some k → m.resident = false →
    Goes (.modelResident id) s
      (foldState (fun u p => u.jobRuns p) ((s.loadModel m).pinDone m) ((s.loadModel m).startingWith id))) ∧
  (∀ (s : State) (id : Nat), Live s → (s.model? id = none ∨ ∃ m, s.model? id = some m ∧ m.slot = none) →
    Goes (.modelResident id) s s) ∧
  (∀ (s : State) (m : Model) (id k : Nat), Live s → s.model? id = some m → m.slot = some k → m.resident = true →
    Goes (.modelResident id) s (foldState (fun u p => u.jobRuns p) (s.pinDone m) (s.startingWith id))) ∧
  (∀ (s : State) (id unit : Nat), Live s → s.model? id = none → Goes (.modelCacheReload id unit) s s) ∧
  (∀ (s : State) (m : Model) (id unit : Nat), Live s → s.model? id = some m →
    ((m.resident = false ∨ m.units.length ≤ unit ∨ tget? s.mem.met (m.units.getD unit 0) = none) →
      Goes (.modelCacheReload id unit) s s) ∧
    (m.resident = true → unit < m.units.length → (tget? s.mem.met (m.units.getD unit 0)).isSome = true →
      Goes (.modelCacheReload id unit) s ((s.loadUnit m unit).bump F.MEM_POISON_CNT_RELOAD))) ∧
  (∀ (s : State) (src : Source) (c : Cmd), Starts s src 0x040B c →
    (c.p 1 = 0 → Ends (.cmdLearnCommit src) s (s.dropOldest src) src c .badParam) ∧
    (c.p 1 ≠ 0 → (s.role = 2 ∨ s.jobModel c.target = none ∨ (s.part c.target).learning = false ∨ s.get F.SCHED_JOB_STATE c.target = 1 ∨
        s.get F.SCHED_LEARN_STEPS_STEPS c.target = 0 ∨ (s.model? (c.p 1)).isSome = true) →
      Ends (.cmdLearnCommit src) s (s.dropOldest src) src c .badState) ∧
    (∀ m, c.p 1 ≠ 0 → s.role ≠ 2 → s.jobModel c.target = some m → (s.part c.target).learning = true →
      s.get F.SCHED_JOB_STATE c.target ≠ 1 → s.get F.SCHED_LEARN_STEPS_STEPS c.target ≠ 0 → s.model? (c.p 1) = none →
      (1024 ≤ s.sched.models.length ∨ s.registrySpace m.len = none ∨ (s.dropOldest src).placeModel m 66 = none) →
      Ends (.cmdLearnCommit src) s (s.dropOldest src) src c .overflow) ∧
    (∀ m, c.p 1 ≠ 0 → s.role ≠ 2 → s.jobModel c.target = some m → (s.part c.target).learning = true →
      s.get F.SCHED_JOB_STATE c.target ≠ 1 → s.get F.SCHED_LEARN_STEPS_STEPS c.target ≠ 0 → s.model? (c.p 1) = none → s.sched.models.length < 1024 →
      (s.registrySpace m.len).isSome = true → ((s.dropOldest src).placeModel m 66).isSome = true →
      ∀ k : Commit, k.id = c.p 1 →
      k.par = (if (s.part c.target).learn.running then none else some (s.part c.target).learn.working) →
      Begins (.cmdLearnCommit src) s
        (State.mapLearn (s.dropOldest src) c.target fun l => { l with commits := l.commits ++ [k] }) src c)) ∧
  (∀ (s : State) (p : Fin 8) (k : Commit) (lps : List LearnPar), Live s → (s.part p.val).learn.commits.head? = some k →
    (k.par = some lps → Goes (.learnCommitDone p) s (s.commitNow p.val k lps)) ∧
    (k.par = none → Goes (.learnCommitDone p) s s)) ∧
  (∀ (s : State) (p : Fin 8), Live s → (s.part p.val).learn.commits = [] → Goes (.learnCommitDone p) s s)

/-- The learning and statistics registers (R235, R239, R240, R246, R256): a hyperparameter out of range is ignored and sets ERR;
while a LEARN job runs its area and batch size stay; NEED follows; enabling the ring or calibration checks its place and else sets ERR.
Where the spec leaves a reading open it follows the model's choices of notes/assumptions 79, 84, 87. -/
def Obligations.LearnAndStatRegisters : Prop :=
  (∀ (s : State) (p : Fin 8) (v : Word), Live s → hyperOk 0x04 v.toNat = true →
    Goes (.schedLearnHyperWrite p 0x04 v) s (s.setReg R.SCHED_LEARN_RATE v.toNat p.val)) ∧
  (∀ (s : State) (p : Fin 8) (v : Word), Live s → hyperOk 0x08 v.toNat = true →
    Goes (.schedLearnHyperWrite p 0x08 v) s (s.setReg R.SCHED_LEARN_BETA1 v.toNat p.val) ∧
    Goes (.schedLearnHyperWrite p 0x0C v) s (s.setReg R.SCHED_LEARN_BETA2 v.toNat p.val)) ∧
  (∀ (s : State) (p : Fin 8) (v : Word), Live s → s.learns p.val = false →
    Goes (.schedLearnHyperWrite p 0x14 v) s (s.mergeReg R.SCHED_LEARN_BASE v.toNat p.val) ∧
    Goes (.schedLearnHyperWrite p 0x18 v) s (s.mergeReg R.SCHED_LEARN_SIZE v.toNat p.val)) ∧
  (∀ (s : State) (p : Fin 8) (v : Word), Live s →
    (s.learns p.val = false ∨ bitsOf v.toNat 16 9 = s.get F.SCHED_LEARN_CTRL_BATCH p.val) →
    Goes (.schedLearnHyperWrite p 0x00 v) s ((s.mergeReg R.SCHED_LEARN_CTRL v.toNat p.val).showNeed p.val)) ∧
  (∀ (s : State) (p : Fin 8) (off : Nat) (v : Word), Live s → off ∉ [0x00, 0x04, 0x08, 0x0C, 0x10, 0x14, 0x18] →
    Goes (.schedLearnHyperWrite p off v) s s) ∧
  (∀ (s : State) (p : Fin 8) (v : Word), Live s → hyperOk 0x10 v.toNat = true →
    Goes (.schedLearnHyperWrite p 0x10 v) s (s.setReg R.SCHED_LEARN_EPS v.toNat p.val)) ∧
  (∀ (s : State) (p : Fin 8) (off : Nat) (v : Word), Live s → (off = 0x04 ∨ off = 0x08 ∨ off = 0x0C ∨ off = 0x10) →
    hyperOk off v.toNat = false → ∃ t, Goes (.schedLearnHyperWrite p off v) s t ∧ OnlyRegs s t [R.SCHED_LEARN_CTRL.addr p.val 0] ∧
      t.on F.SCHED_LEARN_CTRL_ERR p.val = true) ∧
  (∀ (s : State) (p : Fin 8) (off : Nat) (v : Word), Live s → (off = 0x14 ∨ off = 0x18) → s.learns p.val = true →
    ∃ t, Goes (.schedLearnHyperWrite p off v) s t ∧ OnlyRegs s t [R.SCHED_LEARN_CTRL.addr p.val 0] ∧
      t.on F.SCHED_LEARN_CTRL_ERR p.val = true) ∧
  (∀ (s : State) (p : Fin 8) (v : Word), Live s → s.learns p.val = true →
    bitsOf v.toNat 16 9 ≠ s.get F.SCHED_LEARN_CTRL_BATCH p.val → ∃ t, Goes (.schedLearnHyperWrite p 0x00 v) s t ∧
      OnlyRegs s t [R.SCHED_LEARN_CTRL.addr p.val 0, R.SCHED_LEARN_NEED.addr p.val 0] ∧
      t.get F.SCHED_LEARN_CTRL_BATCH p.val = s.get F.SCHED_LEARN_CTRL_BATCH p.val ∧ t.on F.SCHED_LEARN_CTRL_ERR p.val = true) ∧
  (∀ (s : State) (p : Fin 8) (v : Word), Live s → s.reg R.QUANT_STAT_CTRL p.val % 4 = 0 → v.toNat % 4 ≠ 0 →
    (s.ringPlaced (s.ringArea p.val) = true → ∃ t, Goes (.quantStatCtrlWrite p v) s t ∧
      OnlyRegs s t [R.QUANT_STAT_CTRL.addr p.val 0, R.QUANT_STAT_WR.addr p.val 0, R.QUANT_STAT_RD.addr p.val 0] ∧
      t.get F.QUANT_STAT_WR_WR p.val = 0 ∧ t.get F.QUANT_STAT_RD_RD p.val = 0) ∧
    (s.ringPlaced (s.ringArea p.val) = false →
      Goes (.quantStatCtrlWrite p v) s (s.putBit F.QUANT_STAT_CTRL_ERR true p.val))) ∧
  (∀ (s : State) (p : Fin 8) (v : Word), Live s → (s.reg R.QUANT_STAT_CTRL p.val % 4 ≠ 0 ∨ v.toNat % 4 = 0) →
    Goes (.quantStatCtrlWrite p v) s (s.mergeReg R.QUANT_STAT_CTRL v.toNat p.val)) ∧
  (∀ (s : State) (p : Fin 8), Live s →
    (s.on F.QUANT_CALIB_CTRL_EN p.val = true → Goes (.quantCalibEnSet p) s (s.mergeReg R.QUANT_CALIB_CTRL 1 p.val)) ∧
    (s.on F.QUANT_CALIB_CTRL_EN p.val = false → Goes (.quantCalibEnClear p) s (s.mergeReg R.QUANT_CALIB_CTRL 0 p.val))) ∧
  (∀ (s : State) (p : Fin 8), Live s → s.on F.QUANT_CALIB_CTRL_EN p.val = false →
    (s.calibOk p.val = false → Goes (.quantCalibEnSet p) s (s.putBit F.QUANT_CALIB_CTRL_ERR true p.val)) ∧
    (s.calibOk p.val = true → ∃ t, Goes (.quantCalibEnSet p) s t ∧ t = { s with regs := t.regs, sched := t.sched } ∧
      SameRegs s t [R.QUANT_CALIB_CTRL.addr p.val 0] ∧ t.on F.QUANT_CALIB_CTRL_EN p.val = true ∧
      (t.part p.val).calib.startDue = true)) ∧
  (∀ (s : State) (p : Fin 8), Live s → s.on F.QUANT_CALIB_CTRL_EN p.val = true →
    ∃ t, Goes (.quantCalibEnClear p) s t ∧ t = { s with regs := t.regs, sched := t.sched } ∧
      t.on F.QUANT_CALIB_CTRL_EN p.val = false ∧ (t.part p.val).calib.startDue = false ∧
      (t.part p.val).calib.stopDue = true)

/-! ### Looms -/

/-- Every kind of loom instruction is placed on its engine's queue and taken from there (R161, R165, R166, R180, R185, R193,
R259 to R267): one that consumes a tag waits until it is COMPLETE, one that takes a tag until it is FREE; a wrong engine is
BAD_PARAM, a poisoned descriptor POISONED; the first status other than DONE is held. An array instruction issues before its weights
have arrived and executes once they have, unless it changes SPLIT (R171) or a pass has still to swap in what a WLOAD would
overwrite (R162). Of a command that has been given up nothing issues but its ENDs (R326). One that finds no command to belong to, a
full queue or a loom at a standstill is not placed.
Where the spec leaves a reading open it follows the model's choices of notes/assumptions 60, 62, 102, 103, 104, 222. -/
def Obligations.LoomInstructions : Prop :=
  (Feeds .wload 3 ∧ Feeds .mm 1 ∧ Feeds .mmt 2 ∧ Feeds .conv 4 ∧ Feeds .dw 5 ∧ Feeds .vprog 6 ∧ Feeds .lfetch 8 ∧
    Feeds .shuttle 9 ∧ Feeds .signal 0xA ∧ Feeds .wait 0xB ∧ Feeds .endInstr 0xC) ∧
  (∀ (s : State) (n : Fin 64) (e : Fin 4) (ws : List Word) (aux : Aux), Live s →
    ∀ y ∈ [(Instr.wload n e ws aux, 3), (.mm n e ws aux, 1), (.mmt n e ws aux, 2), (.conv n e ws aux, 4), (.dw n e ws aux, 5),
      (.vprog n e ws aux, 6), (.lfetch n e ws aux, 8), (.shuttle n e ws aux, 9), (.signal n e ws aux, 0xA),
      (.wait n e ws aux, 0xB), (.endInstr n e ws aux, 0xC)],
    (s.frozen n.val = true ∨ 512 ≤ ((s.loom n.val).queue e.val).length ∨ fld ws 0 0 4 ≠ y.2 ∨
      (s.loom n.val).base + (s.loom n.val).cmds.length ≤ (s.loom n.val).nextCmd e.val) → Goes y.1 s s.settle) ∧
  (∀ (l : Loom) (e : Nat), (∀ c ∈ l.cmds, c.given = false) → l.nextCmd e = max l.base (tgetD l.fetched e 0)) ∧
  (∀ (s : State) (n : Fin 64) (e : Fin 4) (q : QIns) (rest : List QIns), (s.loom n.val).queue e.val = q :: rest →
    s.frozen n.val = false → q.aux.blind = false → engineRuns e.val q = false →
    ((s.issueTurn n.val e.val).loom n.val).queue e.val = rest ∧
    (s.get F.LOOM_ENG_STAT_STATUS n.val = 0 →
      (s.issueTurn n.val e.val).get F.LOOM_ENG_STAT_STATUS n.val = Status.badParam.code ∧
      (s.issueTurn n.val e.val).get F.LOOM_ENG_STAT_ENGINE n.val = e.val)) ∧
  (∀ (l : Loom) (e t : Nat) (q : QIns), q.aux.blind = false → engineRuns e q = true → q.kind = 0xB → q.uses = some t →
    l.complete t = false → mayIssue l e q = false) ∧
  (∀ (l : Loom) (earlier : List QIns) (t : Nat) (q : QIns), q.sound = true → q.uses = some t → l.complete t = false →
    mayRun l earlier q = false) ∧
  (∀ (l : Loom) (earlier : List QIns) (q : QIns), q.pass true = true → (∀ r ∈ earlier, r.kind = 3 ∨ r.group ≠ q.group) →
    mayRun l earlier q = true) ∧
  (∀ (l : Loom) (q r : QIns), q.sound = true → r ∈ l.pendings →
    (q.split ≠ l.split → arrayMay l q = false) ∧
    (q.kind = 3 → r.pass false = true → r.group = q.group → arrayMay l q = false)) ∧
  (∀ (l : Loom) (q : QIns), q.split = l.split → (∀ r ∈ l.pendings, r.group ≠ q.group) → arrayMay l q = true) ∧
  (∀ (l : Loom) (cmd e : Nat), e < 4 → l.endIssued cmd e = false → ∀ r ∈ (l.giveUp cmd).queue e, r.cmd = cmd → r.kind = 0xC) ∧
  (∀ (l : Loom) (e : Nat) (q : QIns), q.aux.blind = false → engineRuns e q = true → q.takes = true →
    (tget? l.tags q.tag).isSome = true → mayIssue l e q = false) ∧
  (∀ (l : Loom) (e : Nat) (q : QIns), q.aux.blind = false → engineRuns e q = true → q.remote = true →
    4 ≤ l.outstanding.length → mayIssue l e q = false) ∧
  (∀ (s : State) (n e : Nat) (q : QIns) (rest : List QIns), (s.loom n).queue e = q :: rest → s.frozen n = true →
    s.issueTurn n e = s) ∧
  (∀ (s : State) (n : Nat) (q : QIns), q.aux.poison = true → (s.runIns n q).2 = .poisoned) ∧
  (∀ (s : State) (n e tag : Nat) (st : Status), s.get F.LOOM_ENG_STAT_STATUS n ≠ 0 → s.noteStatus n e tag st = s) ∧
  (∀ (s : State) (n : Fin 64) (e : Fin 4) (tag : Nat) (st : Status), st ≠ .done → s.get F.LOOM_ENG_STAT_STATUS n.val = 0 →
    (s.noteStatus n.val e.val tag st).get F.LOOM_ENG_STAT_STATUS n.val = st.code ∧
    (s.noteStatus n.val e.val tag st).get F.LOOM_ENG_STAT_ENGINE n.val = e.val ∧
    OnlyRegs s (s.noteStatus n.val e.val tag st) [R.LOOM_ENG_STAT.addr n.val 0]) ∧
  (∀ (s : State) (n t : Nat) (st : Status) (d : Data) (x : Tag), tget? (s.loom n).tags t = some x → x.consumers ≠ 0 →
    ∃ y, tget? ((s.completeTag n t st d).loom n).tags t = some y ∧ y.status = some st.code ∧ y.payload = d ∧
      y.consumers = x.consumers) ∧
  (∀ (l : Loom) (t : Nat) (x : Tag), tsorted l.tags = true → tget? l.tags t = some x → x.consumers = 1 →
    x.status.isSome = true → tget? (l.consumed t).tags t = none) ∧
  (∀ (s : State) (n : Nat) (q : QIns), (mmIns q.words).ok q.words q.aux = false → (s.runMm n q).2 = .badParam) ∧
  (∀ (s : State) (n : Nat) (q : QIns) (d : Data), (convIns q.words).ok q.words q.aux = false → (s.runConv n q d).2 = .badParam)

/-- Transfers, remote requests and the windows (R35, R43, R263 to R265, R286 to R288, R395, R427, R428, R431): a local shuttle
ends its transfer, in which the words of flits that failed for good are poisoned and no others; a request out of range is answered BAD_PARAM; a response that nothing awaits is counted late; a remote shuttle that
times out ends, unless its response has come; the correction window restarts every count; a fenced loom is not fenced again.
Where the spec leaves a reading open it follows the model's choices of notes/assumptions 100, 101, 105, 106. -/
def Obligations.LoomTransfers : Prop :=
  (∀ (s : State) (n : Fin 64) (t : Fin 2048) (lost : List Nat) (x : Tag), Live s → tget? (s.loom n.val).tags t.val = some x →
    x.status = none → x.signal = false → x.remote = none →
    Goes (.shuttleComplete n { tag := t, lost := lost }) s ((s.runShuttle n.val t.val lost).pumpLoom n.val).settle) ∧
  (∀ (s : State) (n : Fin 64) (t : Fin 2048) (lost : List Nat), Live s → (∀ x, tget? (s.loom n.val).tags t.val = some x →
    x.status ≠ none ∨ x.signal = true ∨ x.remote ≠ none) → Goes (.shuttleComplete n { tag := t, lost := lost }) s s.settle) ∧
  (∀ (lost : List Nat) (d : Data) (i : Nat), i < d.length →
    (i / 8 ∈ lost → (overLink lost d)[i]? = some none) ∧ (i / 8 ∉ lost → (overLink lost d)[i]? = d[i]?)) ∧
  (∀ (s : State) (f : RzFrame) (len : Nat), Frames s 3 f → len = 64 * bitsOf (f.word 1) 8 7 →
    (len = 0 ∨ (s.consume f).requestOk (f.word 0 + 2 ^ 32 * bitsOf (f.word 1) 0 8) len = false) →
    Goes .rreqReceive s (State.settle ((s.consume f).linkSend 4 3 [w32 (f.word 0), w32 (f.word 1), w32 Status.badParam.code, 0]))) ∧
  (∀ (s : State) (f : RzFrame) (a len : Nat), Frames s 3 f → len = 64 * bitsOf (f.word 1) 8 7 → len ≠ 0 →
    a = f.word 0 + 2 ^ 32 * bitsOf (f.word 1) 0 8 → (s.consume f).requestOk a len = true →
    ∀ p, p = respPayload [w32 (f.word 0), w32 (f.word 1), w32 Status.done.code, 0] ((s.consume f).readData a len).2 →
    Goes .rreqReceive s (State.settle (State.linkSend ((s.consume f).readData a len).1 4 3 p.1 p.2))) ∧
  (∀ (s : State) (f : RzFrame), Frames s 4 f →
    Goes .rrespReceive s (State.settle ((s.consume f).response (bitsOf (f.word 1) 16 6) f))) ∧
  (∀ (s : State) (n : Nat) (f : RzFrame), (s.loom n).awaiting n f = none → s.savedTag n (fun l => l.awaiting n f) = none →
    s.response n f = s.bump F.LINK_REMOTE_CNT_LATE_REMOTE) ∧
  (∀ (s : State) (n t : Nat) (f : RzFrame), s.frozen n = false → (s.loom n).awaiting n f = some t → f.word 2 % 256 = 0 →
    s.response n f = (s.deliver n t .done (respData f)).pumpLoom n) ∧
  (∀ (s : State) (p : Fin 8) (n : Fin 64) (t : Fin 2048), Live s → s.responseIn p.val n.val t.val = true →
    Goes (.remoteTmoExpire p { loom := n, tag := t }) s s.settle) ∧
  (∀ (s : State) (p : Fin 8) (n : Fin 64) (t : Fin 2048), Live s → s.responseIn p.val n.val t.val = false →
    tget? (s.part p.val).saved n.val = none → s.holderOf n.val = some p.val →
    (∀ x, tget? (s.loom n.val).tags t.val = some x → x.far = true →
      (s.frozen n.val = false → Goes (.remoteTmoExpire p { loom := n, tag := t }) s
        (State.settle ((s.remoteFails n.val t.val .timeout F.LINK_REMOTE_CNT_TIMEOUT).pumpLoom n.val))) ∧
      (s.frozen n.val = true → ∀ l : Loom, l = { s.loom n.val with
          tags := tset (s.loom n.val).tags t.val { x with status := some Status.timeout.code } } →
        Goes (.remoteTmoExpire p { loom := n, tag := t }) s
          (State.settle (((s.setLoom n.val l).bump F.LINK_REMOTE_CNT_TIMEOUT).showLoom n.val)))) ∧
    ((∀ x, tget? (s.loom n.val).tags t.val = some x → x.far = false) → Goes (.remoteTmoExpire p { loom := n, tag := t }) s s.settle)) ∧
  (∀ (s : State) (p : Fin 8) (n : Fin 64) (t : Fin 2048), Live s → s.responseIn p.val n.val t.val = false →
    tget? (s.part p.val).saved n.val = none → s.holderOf n.val ≠ some p.val → Goes (.remoteTmoExpire p { loom := n, tag := t }) s s.settle) ∧
  (∀ (s : State) (p : Fin 8) (n : Fin 64) (t : Fin 2048) (l : Loom), Live s → s.responseIn p.val n.val t.val = false →
    tget? (s.part p.val).saved n.val = some l →
    ((tget? l.tags t.val).any Tag.far = false → Goes (.remoteTmoExpire p { loom := n, tag := t }) s s.settle) ∧
    ((tget? l.tags t.val).any Tag.far = true → Goes (.remoteTmoExpire p { loom := n, tag := t }) s (State.settle
      (((s.mapSaved p.val n.val t.val fun x => { x with status := some Status.timeout.code }).bump
        F.LINK_REMOTE_CNT_TIMEOUT).showLoom n.val)))) ∧
  (∀ s : State, Live s → ∃ t, Goes .fenceWindowExpire s t ∧
    OnlyRegs s t ((List.range 64).map fun n => R.LOOM_CORR.addr n 0) ∧ ∀ n, n < 64 → t.get F.LOOM_CORR_COUNT n = 0) ∧
  (∀ (s : State) (rates : List Nat), Live s → ∃ t, Goes (.paceWindow rates) s t ∧
    OnlyRegs s t ((List.range 64).flatMap fun n => [R.LOOM_PACE.addr n 0, R.LOOM_PACE_MIN.addr n 0]) ∧
    (∀ n r, n < 64 → rates[n]? = some r → t.get F.LOOM_PACE_RATE n = r % 2 ^ 16 ∧ t.on F.LOOM_PACE_VALID n = true ∧
      t.get F.LOOM_PACE_MIN_MIN n = min (r % 2 ^ 16) (s.get F.LOOM_PACE_MIN_MIN n)) ∧
    ∀ n, n < 64 → rates[n]? = none → t.reg R.LOOM_PACE n = s.reg R.LOOM_PACE n) ∧
  (∀ (s : State) (n cause : Nat), (s.fenced n = true → s.fenceAll [(n, cause)] = s) ∧
    (s.fenced n = false → s.fenceAll [(n, cause)] = (s.fenceMark n).fenceAct (n, cause))) ∧
  (∀ (s : State) (n : Fin 64), s.fenced n.val = false → s.splits = [] → (s.fenceMark n.val).fenced n.val = true ∧
    ∀ m, m < 64 → m ≠ n.val → (s.fenceMark n.val).fenced m = s.fenced m) ∧
  (∀ (s : State) (n : Fin 64), s.splits.contains (if n.val < 32 then 4 else 5) = true → s.fenceMark n.val = s)

/-! ### Memory protection -/

/-- The wipe (R316, R317) and CMD_MEM_FILL (R318): a wipe leaves every granule of its range poisoned and touches no byte outside;
DDR5 is wiped MiB by MiB up to its capacity, and the writes that waited for it are made; every check byte of wiped SRAM is 0xFF; a
misplaced fill is BAD_PARAM and changes nothing, and a fill reports how many
bytes it wrote.
Where the spec leaves a reading open it follows the model's choices of notes/assumptions 111, 113. -/
def Obligations.WipeAndFill : Prop :=
  (∀ s : State, Live s → s.on F.MEM_WIPE_STAT_SRAM_DONE = false → ∃ t, Goes .sramWipeDone s t ∧
    t = { s with regs := t.regs, mem := t.mem, i3c := t.i3c } ∧ t.on F.MEM_WIPE_STAT_SRAM_DONE = true ∧
    (∀ a, 0x2000000000 ≤ a → a < 0x3F00000000 → t.mem.good a = false ∧ t.mem.byte a = 0 ∧
      (a % 8 = 0 → t.mem.checkByte a = 0xFF)) ∧
    ∀ a, a < 0x2000000000 ∨ 0x3F00000000 ≤ a → t.mem.good a = s.mem.good a ∧ t.mem.byte a = s.mem.byte a) ∧
  (∀ s : State, Live s → s.on F.MEM_WIPE_STAT_SRAM_DONE = true → Goes .sramWipeDone s s) ∧
  (∀ s : State, Live s → s.on F.MEM_DDR_CFG_TRAINED = false → s.capacity ≠ 0 → ∃ t, Goes .ddrTrainingDone s t ∧
    OnlyRegs s t [R.MEM_DDR_CFG.addr 0 0, R.MEM_WIPE_STAT.addr 0 0] ∧ t.on F.MEM_DDR_CFG_TRAINED = true ∧
    t.on F.MEM_WIPE_STAT_DDR_RUN = true ∧ t.capacity = s.capacity) ∧
  (∀ s : State, Live s → (s.on F.MEM_DDR_CFG_TRAINED = true ∨ s.capacity = 0) → Goes .ddrTrainingDone s s) ∧
  (∀ s : State, s.mem.held = [] → s.releaseHeld = s) ∧
  (∀ (s : State) (k : Nat), Live s → s.on F.MEM_WIPE_STAT_DDR_RUN = true → k = s.get F.MEM_WIPE_MARK_MARK →
    (k + 1) * 2 ^ 20 < s.capacity → Goes .ddrWipeMarkAdvance s
      (State.put { s with mem := s.mem.wipe (k * 2 ^ 20) ((k + 1) * 2 ^ 20) } F.MEM_WIPE_MARK_MARK (k + 1)).releaseHeld) ∧
  (∀ (s : State) (k : Nat), Live s → s.on F.MEM_WIPE_STAT_DDR_RUN = true → k = s.get F.MEM_WIPE_MARK_MARK →
    s.capacity ≤ (k + 1) * 2 ^ 20 → ∀ u : State,
      u = State.put { s with mem := s.mem.wipe (k * 2 ^ 20) ((k + 1) * 2 ^ 20) } F.MEM_WIPE_MARK_MARK (k + 1) →
    Goes .ddrWipeMarkAdvance s
      (((u.putBit F.MEM_WIPE_STAT_DDR_RUN false).putBit F.MEM_WIPE_STAT_DDR_DONE true).releaseHeld.becomeReady) ∧
    (s.mem.held = [] → ∃ t, Goes .ddrWipeMarkAdvance s t ∧ t.on F.MEM_WIPE_STAT_DDR_RUN = false ∧
      t.on F.MEM_WIPE_STAT_DDR_DONE = true ∧ t.mem = u.mem)) ∧
  (∀ s : State, Live s → s.on F.MEM_WIPE_STAT_DDR_RUN = false → Goes .ddrWipeMarkAdvance s s) ∧
  (∀ (s : State) (src : Source) (c : Cmd) (a : Nat), Starts s src 0x0503 c → a = c.p 1 + 2 ^ 32 * bitsOf (c.p 2) 0 8 →
    ((a % 64 ≠ 0 ∨ c.p 3 % 64 ≠ 0 ∨ s.region a = .block ∨ s.region a = .unmapped) →
      Ends (.cmdMemFill src) s (s.dropOldest src) src c .badParam) ∧
    (a % 64 = 0 → c.p 3 % 64 = 0 → s.region a ≠ .block → s.region a ≠ .unmapped → ∃ f : Fill,
      f.src = src ∧ f.addr = a ∧ f.left = s.fillPrefix (c.p 3 / 64) a ∧ f.done = c.p 3 ∧ f.pattern = w32 (c.p 4) ∧
      Begins (.cmdMemFill src) s { s.dropOldest src with fills := s.fills ++ [f] } src c)) ∧
  (∀ (s : State) (f : Fill) (q : List Fill) (e : Source × Cmd) (r : State × Nat), Live s → s.fills = f :: q →
    r = State.fillChunks { s with fills := q } f.pattern (f.left / 64) f.addr 0 →
    r.1.host.running.find? (fun e => e.1 == f.src && e.2.opcode == 0x0503) = some e →
    Goes .memFillDone s (State.finish r.1 e (if r.2 = f.done then .done else r.1.fillStatus (f.addr + r.2)) [w32 r.2])) ∧
  (∀ (s : State) (f : Fill) (q : List Fill) (r : State × Nat), Live s → s.fills = f :: q →
    r = State.fillChunks { s with fills := q } f.pattern (f.left / 64) f.addr 0 →
    r.1.host.running.find? (fun e => e.1 == f.src && e.2.opcode == 0x0503) = none → Goes .memFillDone s r.1) ∧
  (∀ s : State, Live s → s.fills = [] → Goes .memFillDone s s) ∧
  (∀ (s : State) (pattern : Word) (n a w : Nat), (s.fillChunks pattern n a w).2 ≤ w + 64 * n ∧ w ≤ (s.fillChunks pattern n a w).2)

/-- The scrubber and the critical words (R313 to R315, R319 to R321): the rate and debt take
values in range; a contended access is deferred with a debt and touches no memory; an uncontended one reads its granule and
moves on, as does one whose debt has reached its limit, which is counted; of the three copies of a critical word one that
disagrees with the other two is rewritten and counted when the word is read, two that are upset alike carry the value with them,
and a word of which no two agree is split; a split is recorded once.
Where the spec leaves a reading open it follows the model's choices of notes/assumptions 108, 109, 110, 112. -/
def Obligations.ScrubAndSplit : Prop :=
  (∀ (s : State) (src : Source) (c : Cmd), Starts s src 0x0504 c →
    ((4000 < c.p 1 ∨ c.p 2 = 0 ∨ 255 < c.p 2) → Ends (.cmdScrubSet src) s (s.dropOldest src) src c .badParam) ∧
    (c.p 1 ≤ 4000 → 1 ≤ c.p 2 → c.p 2 ≤ 255 → ∃ t, Ends (.cmdScrubSet src) s t src c .done ∧
      OnlyRegs (s.dropOldest src) t [R.SCRUB_RATE.addr 0 0, R.SCRUB_DEBT_MAX.addr 0 0] ∧
      t.get F.SCRUB_RATE_MBPS = c.p 1 ∧ t.get F.SCRUB_DEBT_MAX_MAX = c.p 2)) ∧
  (∀ (s : State) (fl : Option Flaw) (k : Nat), Live s → s.fenceDue = [] → s.on F.MEM_WIPE_STAT_DDR_DONE = true →
    s.get F.SCRUB_RATE_MBPS ≠ 0 → s.capacity ≠ 0 → k = s.scrubTarget s.scrub.ddr →
    tgetD s.scrub.debt k 0 < s.get F.SCRUB_DEBT_MAX_MAX → Goes (.scrubDdrAccess true fl) s
      { s with scrub := { s.scrub with debt := tset s.scrub.debt k (tgetD s.scrub.debt k 0 + 1) } }) ∧
  (∀ s : State, Live s → s.fenceDue = [] → s.on F.MEM_WIPE_STAT_DDR_DONE = true → s.get F.SCRUB_RATE_MBPS ≠ 0 →
    tgetD s.scrub.debt (s.scrubTarget s.scrub.ddr) 0 < s.get F.SCRUB_DEBT_MAX_MAX → s.scrub.ddr + 64 < s.capacity →
    s.scrub.ddr < 0x2000000000 → (s.mem.good s.scrub.ddr = true ∨ tget? s.mem.clean s.scrub.ddr = none) →
    tget? s.mem.flaws s.scrub.ddr = none → ∃ t, Goes (.scrubDdrAccess false none) s t ∧
      t = { s with regs := t.regs, scrub := { s.scrub with ddr := s.scrub.ddr + 64 } } ∧
      t.get F.SCRUB_POS_POS = (s.scrub.ddr + 64) / 2 ^ 20 % 2 ^ 20) ∧
  (∀ (s : State) (b : Bool) (k : Nat), Live s → s.fenceDue = [] → s.on F.MEM_WIPE_STAT_DDR_DONE = true →
    s.get F.SCRUB_RATE_MBPS ≠ 0 → k = s.scrubTarget s.scrub.ddr → s.get F.SCRUB_DEBT_MAX_MAX ≤ tgetD s.scrub.debt k 0 →
    s.scrub.ddr + 64 < s.capacity → s.scrub.ddr < 0x2000000000 →
    (s.mem.good s.scrub.ddr = true ∨ tget? s.mem.clean s.scrub.ddr = none) → tget? s.mem.flaws s.scrub.ddr = none →
    ∃ t, Goes (.scrubDdrAccess b none) s t ∧ t = { s with regs := t.regs, scrub := { s.scrub with
        ddr := s.scrub.ddr + 64, debt := tset s.scrub.debt k 0 } } ∧
      t.get F.SCRUB_CNT_FORCED = min (s.get F.SCRUB_CNT_FORCED + 1) (2 ^ F.SCRUB_CNT_FORCED.width - 1)) ∧
  (∀ (s : State) (b : Bool) (fl : Option Flaw), Live s → (s.get F.SCRUB_RATE_MBPS = 0 ∨ s.capacity = 0 ∨
    s.on F.MEM_WIPE_STAT_DDR_DONE = false) → Goes (.scrubDdrAccess b fl) s s.settle) ∧
  (∀ (s : State) (b : Bool) (fl : Option Flaw), Live s → (s.get F.SCRUB_SRAM_PERIOD_S = 0 ∨
    s.on F.MEM_WIPE_STAT_SRAM_DONE = false) → Goes (.scrubSramAccess b fl) s s.settle) ∧
  (∀ (s : State) (fl : Option Flaw) (k : Nat), Live s → s.fenceDue = [] → s.on F.MEM_WIPE_STAT_SRAM_DONE = true →
    s.get F.SCRUB_SRAM_PERIOD_S ≠ 0 → k = s.scrubTarget (s.skipFenced 64 s.scrub.sram) →
    tgetD s.scrub.debt k 0 < s.get F.SCRUB_DEBT_MAX_MAX → Goes (.scrubSramAccess true fl) s
      { s with scrub := { s.scrub with debt := tset s.scrub.debt k (tgetD s.scrub.debt k 0 + 1) } }) ∧
  (∀ (s : State) (g : Nat), Live s → s.fenceDue = [] → s.on F.MEM_WIPE_STAT_SRAM_DONE = true →
    s.get F.SCRUB_SRAM_PERIOD_S ≠ 0 → g = s.skipFenced 64 s.scrub.sram →
    tgetD s.scrub.debt (s.scrubTarget g) 0 < s.get F.SCRUB_DEBT_MAX_MAX → tget? s.mem.flaws g = none →
    (s.mem.good g = true ∨ (tget? s.mem.clean g = none ∧ s.region g ≠ .cache)) →
    passStart (s.skipFenced 64 (nextSram g)) = false → Goes (.scrubSramAccess false none) s
      { s with scrub := { s.scrub with sram := s.skipFenced 64 (nextSram g) } }) ∧
  (∀ (s : State) (us : List Upset), Live s → s.copies = [] → Goes (.tmrWalk [] us) s (State.settle (foldState State.strike s
    (us.filter fun u => decide (u.word.val < 45) || s.die.powered)))) ∧
  (∀ (s : State) (u : Upset), Live s → s.copies = [] → (u.word.val < 45 ∨ s.die.powered = true) →
    u.flip &&& BitVec.ofNat 32 (critMask u.word.val) ≠ 0 → Goes (.tmrWalk [u] []) s (s.bump F.MEM_TMR_CNT_REWRITE).settle) ∧
  (∀ (s : State) (w : Fin 48) (f g m : BitVec 32), Live s → s.copies = [] → (w.val < 45 ∨ s.die.powered = true) →
    m = BitVec.ofNat 32 (critMask w.val) → f &&& m ≠ 0 → g &&& m ≠ 0 → f &&& m ≠ g &&& m →
    Goes (.tmrWalk [⟨w, 0, f⟩, ⟨w, 1, g⟩] []) s (s.splitOne w.val).settle) ∧
  (∀ (s : State) (w : Fin 48) (f m : BitVec 32), s.copies = [] → w.val < 45 → m = f &&& BitVec.ofNat 32 (critMask w.val) →
    m ≠ 0 → ∃ t, (s.strike ⟨w, 0, f⟩).strike ⟨w, 1, f⟩ = t ∧
      t.reg (critHome w.val).1 (critHome w.val).2 = Nat.xor (s.reg (critHome w.val).1 (critHome w.val).2) m.toNat ∧
      tget? t.copies w.val = some { c := m }) ∧
  (∀ (s : State) (w : Nat) (x : Copies), tget? s.copies w = some x →
    (x.vote ≠ none → s.readCritical w = State.bump { s with copies := tdel s.copies w } F.MEM_TMR_CNT_REWRITE) ∧
    (x.vote = none → s.readCritical w = State.splitOne { s with copies := tdel s.copies w } w)) ∧
  (∀ (s : State) (r : Reg) (i j w : Nat), critWord r i = some w → tget? s.latch (r.addr i j) = none →
    (s.readReg r i j).2 = (s.readCritical w).shown r i j) ∧
  (∀ (s : State) (w : Nat), s.splitWord w = true → s.splitOne w = s) ∧
  (∀ (s : State) (w : Fin 48), s.splitWord w.val = false → (∀ p, p < 8 → s.get F.SCHED_JOB_STATE p = 0) →
    (s.splitOne w.val).splits = s.splits ++ [w.val] ∧ (s.splitOne w.val).isSplit = true ∧
    (s.isSplit = false → (s.splitOne w.val).get F.MEM_TMR_STAT_INDEX = w.val) ∧ (s.splitOne w.val).mem = s.mem)

/-- The record of timing-dependent choices (R298): CLEAR sets COUNT, the cause fields and the DET_TDC_FIRST registers to zero and
changes nothing else; an event after it counts from 0, so that COUNT reads 1 and DET_TDC_FIRST holds its time; a read of COUNT
changes nothing; a read of a cause register answers its value and clears its fields; a cause field saturates at 0xFF and COUNT
wraps. -/
def Obligations.TimingChoiceRecord : Prop :=
  (∀ s : State, Live s → ∃ t, Goes .detCtrlClear s t ∧ t = { s with regs := t.regs, tdcSeen := false } ∧
    SameRegs s t [R.DET_TDC.addr 0 0, R.DET_TDC_CAUSE0.addr 0 0, R.DET_TDC_CAUSE1.addr 0 0, R.DET_TDC_FIRST_NS.addr 0 0,
      R.DET_TDC_FIRST_S_LO.addr 0 0, R.DET_TDC_FIRST_S_HI.addr 0 0] ∧
    t.reg R.DET_TDC = 0 ∧ t.reg R.DET_TDC_CAUSE0 = 0 ∧ t.reg R.DET_TDC_CAUSE1 = 0 ∧ t.reg R.DET_TDC_FIRST_NS = 0 ∧
    t.reg R.DET_TDC_FIRST_S_LO = 0 ∧ t.reg R.DET_TDC_FIRST_S_HI = 0) ∧
  (∀ (s : State) (cause : Fin 7), ∃ t, s.clearTdc.tdc cause.val = t ∧ t.get F.DET_TDC_COUNT = 1 ∧
    t.get (tdcField cause.val) = 1 ∧ t.get F.DET_TDC_FIRST_NS_NS = timeNs s.time.now ∧
    t.get F.DET_TDC_FIRST_S_LO_S = timeSec s.time.now % 2 ^ 32 ∧ t.get F.DET_TDC_FIRST_S_HI_S = timeSec s.time.now / 2 ^ 32 ∧
    t.get F.DET_TDC_FIRST_S_HI_CAUSE = cause.val ∧ t.tdcSeen = true) ∧
  (∀ s : State, tget? s.latch (R.DET_TDC.addr 0 0) = none → s.readReg R.DET_TDC 0 0 = (s, s.reg R.DET_TDC)) ∧
  (∀ (s : State) (r : Reg), (r = R.DET_TDC_CAUSE0 ∨ r = R.DET_TDC_CAUSE1) → tget? s.latch (r.addr 0 0) = none →
    ∃ t, s.readReg r 0 0 = (t, s.reg r) ∧ OnlyRegs s t [r.addr 0 0] ∧
      ∀ cause : Fin 7, (tdcField cause.val).reg = r → t.get (tdcField cause.val) = 0) ∧
  (∀ (s : State) (cause : Fin 7), (s.tdc cause.val).get (tdcField cause.val) = min (s.get (tdcField cause.val) + 1) 0xFF ∧
    (s.tdc cause.val).get F.DET_TDC_COUNT = (s.get F.DET_TDC_COUNT + 1) % 2 ^ 32)

/-! ### Time and network -/

/-- The time and port commands (R367, R368, R371, R373, R375, R377): CMD_TIME_READ answers device time; a domain takes its
configuration and starts unlocked; only a locked domain is selected; a port takes speed, corrections and policy, and a new
speed or speed 0 takes its link down; a launch port owns its compare unit, which it exchanges or gives back only when its
queue is empty.
Where the spec leaves a reading open it follows the model's choices of notes/assumptions 141, 142. -/
def Obligations.TimeAndPortCommands : Prop :=
  (∀ (s : State) (src : Source) (c : Cmd), Starts s src 0x0601 c →
    Ends (.cmdTimeRead src) s (s.dropOldest src) src c .done (timeWords s.time.now)) ∧
  (∀ (s : State) (src : Source) (c : Cmd), Starts s src 0x0602 c → c.target < 2 →
    ((2 ≤ c.p 1 ∨ 256 ≤ c.p 2 ∨ 2 ≤ c.p 3) →
      Ends (.cmdTimeDomainSet src) s (s.dropOldest src) src c .badParam) ∧
    (c.p 1 < 2 → c.p 2 < 256 → c.p 3 < 2 → ∃ t, Ends (.cmdTimeDomainSet src) s t src c .done ∧
      t.on F.TK_DOM_STAT_EN c.target = bitAt (c.p 4) 0 ∧ t.get F.TK_DOM_STAT_PORT c.target = c.p 1 ∧
      t.get F.TK_DOM_STAT_DOMAIN c.target = c.p 2 ∧ t.lockedDom c.target = false ∧ t.dom c.target = {})) ∧
  (∀ (s : State) (src : Source) (c : Cmd), Starts s src 0x0603 c → c.target < 2 →
    (s.lockedDom c.target = false → Ends (.cmdTimeSelect src) s (s.dropOldest src) src c .notReady) ∧
    (s.lockedDom c.target = true → ∃ t, Ends (.cmdTimeSelect src) s t src c .done ∧ t.get F.TK_STAT_SEL = c.target ∧
      t.on F.TK_STAT_FOLLOWING = true ∧ t.time.now = s.time.now)) ∧
  (∀ (s : State) (src : Source) (c : Cmd), Starts s src 0x0604 c → c.target < 2 →
    ((3 ≤ c.p 1 ∨ 2 ≤ c.p 4) → Ends (.cmdEthConfig src) s (s.dropOldest src) src c .badParam) ∧
    (c.p 1 < 3 → c.p 4 < 2 → s.get F.ETH_CFG_SPEED c.target ≠ c.p 1 → s.on F.ETH_STAT_LAUNCH_EN c.target = true →
      Ends (.cmdEthConfig src) s (s.dropOldest src) src c .busy) ∧
    (c.p 1 < 3 → c.p 4 < 2 → (s.get F.ETH_CFG_SPEED c.target = c.p 1 ∨ s.on F.ETH_STAT_LAUNCH_EN c.target = false) →
      ∃ t, Ends (.cmdEthConfig src) s t src c .done ∧
      t.get F.ETH_CFG_SPEED c.target = c.p 1 ∧ t.get F.ETH_ASYM_RX_PS c.target = c.p 2 ∧
      t.get F.ETH_ASYM_TX_PS c.target = c.p 3 ∧ t.get F.ETH_LATE_POLICY_DROP c.target = c.p 4 ∧ t.time.now = s.time.now ∧
      t.eth c.target = { s.eth c.target with configured := true } ∧
      ((s.get F.ETH_CFG_SPEED c.target ≠ c.p 1 ∨ c.p 1 = 0) → t.on F.ETH_STAT_LINK_UP c.target = false) ∧
      (s.get F.ETH_CFG_SPEED c.target = c.p 1 → c.p 1 ≠ 0 →
        t.on F.ETH_STAT_LINK_UP c.target = s.on F.ETH_STAT_LINK_UP c.target))) ∧
  (∀ (s : State) (src : Source) (c : Cmd), Starts s src 0x0605 c → c.target < 2 →
    (32 ≤ c.p 1 → Ends (.cmdLaunchEnable src) s (s.dropOldest src) src c .badParam) ∧
    (c.p 1 < 32 → s.on F.ETH_STAT_LINK_UP c.target = false →
      Ends (.cmdLaunchEnable src) s (s.dropOldest src) src c .linkDown) ∧
    (c.p 1 < 32 → s.on F.ETH_STAT_LINK_UP c.target = true → s.heldByOther (13 + c.p 1) ownLaunch c.target = true →
      Ends (.cmdLaunchEnable src) s (s.dropOldest src) src c .resourceHeld) ∧
    (c.p 1 < 32 → s.on F.ETH_STAT_LINK_UP c.target = true → s.heldByOther (13 + c.p 1) ownLaunch c.target = false →
      s.on F.ETH_STAT_LAUNCH_EN c.target = true → s.get F.ETH_STAT_UNIT c.target ≠ c.p 1 → (s.eth c.target).queue ≠ [] →
      Ends (.cmdLaunchEnable src) s (s.dropOldest src) src c .busy) ∧
    (c.p 1 < 32 → s.on F.ETH_STAT_LINK_UP c.target = true → s.heldByOther (13 + c.p 1) ownLaunch c.target = false →
      (s.on F.ETH_STAT_LAUNCH_EN c.target = false ∨ s.get F.ETH_STAT_UNIT c.target = c.p 1 ∨ (s.eth c.target).queue = []) →
      ∃ t, Ends (.cmdLaunchEnable src) s t src c .done ∧ OnlyRegs (s.dropOldest src) t (
        [13 + c.p 1, 13 + s.get F.ETH_STAT_UNIT c.target].map (fun i => R.SYS_OWN.addr i 0) ++ [R.ETH_STAT.addr c.target 0] ++
        [c.p 1, s.get F.ETH_STAT_UNIT c.target].flatMap fun u =>
          [R.TK_CMP_NS.addr u 0, R.TK_CMP_S_LO.addr u 0, R.TK_CMP_S_HI.addr u 0]) ∧
      t.on F.ETH_STAT_LAUNCH_EN c.target = true ∧ t.get F.ETH_STAT_UNIT c.target = c.p 1 ∧
      t.owner (13 + c.p 1) = ownLaunch ∧ t.ownerInst (13 + c.p 1) = c.target)) ∧
  (∀ (s : State) (src : Source) (c : Cmd), Starts s src 0x0606 c → c.target < 2 →
    ((s.eth c.target).queue ≠ [] → Ends (.cmdLaunchDisable src) s (s.dropOldest src) src c .busy) ∧
    ((s.eth c.target).queue = [] → ∃ t, Ends (.cmdLaunchDisable src) s t src c .done ∧
      t = { s.dropOldest src with regs := t.regs } ∧ t.on F.ETH_STAT_LAUNCH_EN c.target = false ∧
      (s.on F.ETH_STAT_LAUNCH_EN c.target = true → t.owner (13 + s.get F.ETH_STAT_UNIT c.target) = ownNone)))

/-- PTP messages (R368 to R371, R373, R376, R410): a port that is off or has no link receives none; one for a domain that is not
tracked, on a port not yet configured, or before firmware runs, is discarded and counted; an Announce is kept, a sender qualifies with
its second one within the window, and the best of those that qualify is the domain's transmitter, by the data set comparison (which
the model takes from IEEE 1588-2019, notes/assumptions/226.md); Sync and Follow_Up measure the offset at the Sync's ingress, the
responses the path delay, by the mechanism the domain uses, and an answer without its question changes nothing; a message goes out as
far as the launch queue allows it, and a request keeps its egress timestamp; the first lock of the selected domain seals device time
and may step it, with the stamps of the exchanges in progress, another lock steps nothing; a timeout loses the domain, and a
transmitter that sends no Announce is given up.
Where the spec leaves a reading open it follows the model's choices of notes/assumptions 143, 144, 145, 207, 208, 226. -/
def Obligations.PtpMessages : Prop :=
  (∀ (s : State) (d : Fin 2) (i : Instr), Live s → s.hears (s.domPort d.val) = false →
    ((∃ g, i = .ptpAnnounceRx d g) ∨ (∃ n b o r, i = .ptpSyncRx d n b o r) ∨ (∃ n o r, i = .ptpFollowUpRx d n o r) ∨
      (∃ r, i = .ptpDelayRespRx d r) ∨ i = .ptpPdelayReqRx d ∨ (∃ b v, i = .ptpPdelayRespRx d b v) ∨
      (∃ o, i = .ptpPdelayRespFollowUpRx d o)) → Goes i s s) ∧
  (∀ (s : State) (p : Nat), (s.eth p).configured = true → s.get F.ETH_CFG_SPEED p = 0 → s.hears p = false) ∧
  (∀ (s : State) (d : Fin 2) (i : Instr), Live s → s.hears (s.domPort d.val) = true →
    (s.on F.HOST_STATUS_FW_RUN = false ∨ s.on F.TK_DOM_STAT_EN d.val = false ∨ (s.eth (s.domPort d.val)).configured = false) →
    ((∃ g, i = .ptpAnnounceRx d g) ∨ (∃ n b o r, i = .ptpSyncRx d n b o r) ∨ (∃ n o r, i = .ptpFollowUpRx d n o r) ∨
      (∃ r, i = .ptpDelayRespRx d r) ∨ i = .ptpPdelayReqRx d ∨ (∃ b v, i = .ptpPdelayRespRx d b v) ∨
      (∃ o, i = .ptpPdelayRespFollowUpRx d o)) →
    Goes i s (s.bump F.ETH_CNT_RX_DISCARD (s.domPort d.val))) ∧
  (∀ (x : Domain) (a : Announce) (up : Nat), (∃ m, (x.hear a up).foreign = m :: x.foreign.filter (fun k => decide (sender k.ann ≠ sender a)) ∧
    m.ann = a ∧ m.heard = up ∧ (m.good = true ↔ x.parent = some (sender a) ∨
      ∃ k ∈ x.foreign, sender k.ann = sender a ∧ up - k.heard ≤ 4 * k.ann.interval)) ∧ (x.hear a up).parent = x.parent) ∧
  (∀ (x : Domain) (up : Nat) (a : Announce), x.best up = some a → ∃ m ∈ x.foreign, m.ann = a ∧
    ((m.good = true ∧ up - m.heard ≤ 4 * m.ann.interval) ∨ x.parent = some (sender a))) ∧
  (∀ (x : Domain) (up : Nat) (m k : Master), x.foreign = [m, k] → m.good = true → k.good = true → up - m.heard ≤ 4 * m.ann.interval →
    up - k.heard ≤ 4 * k.ann.interval → x.best up = some (if betterMaster k.ann m.ann then k.ann else m.ann)) ∧
  (∀ a b : Announce, (a.gm ≠ b.gm → (a.prio1 < b.prio1 → betterMaster a b = true) ∧
      (a.prio1 = b.prio1 → a.cls < b.cls → betterMaster a b = true) ∧
      (a.prio1 = b.prio1 → a.cls = b.cls → a.accuracy < b.accuracy → betterMaster a b = true)) ∧
    (a.gm = b.gm → a.steps < b.steps → betterMaster a b = true) ∧ (betterMaster a b = true → betterMaster b a = false)) ∧
  (∀ (s : State) (d : Nat) (a : Announce), (s.dom d).best s.time.uptime = some a →
    ((s.dom d).gm = none ∨ (s.dom d).gm = some a.gm →
      s.chooseMaster d = s.setDom d { s.dom d with gm := some a.gm, parent := some (sender a) }) ∧
    (∀ g, (s.dom d).gm = some g → g ≠ a.gm → d < 2 → (s.chooseMaster d).lockedDom d = false ∧
      ((s.chooseMaster d).dom d).gm = some a.gm ∧ ((s.chooseMaster d).dom d).parent = some (sender a) ∧
      ((s.chooseMaster d).dom d).modelled = false ∧ ((s.chooseMaster d).dom d).delay = (s.dom d).delay)) ∧
  (∀ (s : State) (d : Nat), (s.dom d).best s.time.uptime = none → s.chooseMaster d = s) ∧
  (∀ (s : State) (d : Fin 2), FwUp s → s.hears (s.domPort d.val) = true → s.on F.TK_DOM_STAT_EN d.val = true →
    (s.eth (s.domPort d.val)).configured = true →
    (∀ a, 255 ≤ a.steps → Goes (.ptpAnnounceRx d a) s s) ∧
    (∀ a, a.steps < 255 → Goes (.ptpAnnounceRx d a) s
      ((s.setDom d.val ((s.dom d.val).hear a s.time.uptime)).chooseMaster d.val)) ∧
    (∀ n o r i, i = s.ingress (s.domPort d.val) →
      Goes (.ptpSyncRx d n true o r) s (s.setDom d.val { s.dom d.val with syncSeq := some (n, i, s.time.uptime) }).drawn ∧
      Goes (.ptpSyncRx d n false o r) s (s.drawn.measure d.val i s.time.uptime o r)) ∧
    (∀ n o r i up, (s.dom d.val).syncSeq = some (n, i, up) →
      Goes (.ptpFollowUpRx d n o r) s ((s.setDom d.val { s.dom d.val with syncSeq := none }).measure d.val i up o r)) ∧
    (∀ n o r, (s.dom d.val).syncSeq.any (fun x => x.1 == n) = false →
      Goes (.ptpFollowUpRx d n o r) s s) ∧
    (∀ t1 t2 t3 t4, (s.dom d.val).sync = some (t1, t2) → (s.dom d.val).asked = some t3 →
      (s.on F.TK_DOM_STAT_P2P d.val = false → Goes (.ptpDelayRespRx d t4) s
        (s.setDom d.val { s.dom d.val with delay := ((t2 - t1) + (t4 - t3)) / 2, asked := none })) ∧
      (s.on F.TK_DOM_STAT_P2P d.val = true → Goes (.ptpDelayRespRx d t4) s (s.bump F.ETH_CNT_RX_DISCARD (s.domPort d.val)))) ∧
    (∀ t4, ((s.dom d.val).sync = none ∨ (s.dom d.val).asked = none) → Goes (.ptpDelayRespRx d t4) s s) ∧
    (s.on F.TK_DOM_STAT_P2P d.val = false → Goes (.ptpPdelayReqRx d) s (s.bump F.ETH_CNT_RX_DISCARD (s.domPort d.val))) ∧
    (s.on F.TK_DOM_STAT_P2P d.val = true → s.on F.TK_DOM_STAT_ONE_STEP_RESP d.val = true →
      Goes (.ptpPdelayReqRx d) s (s.ptpSend d.val 2)) ∧
    (s.on F.TK_DOM_STAT_P2P d.val = true → s.on F.TK_DOM_STAT_ONE_STEP_RESP d.val = false →
      Goes (.ptpPdelayReqRx d) s ((s.ptpSend d.val 2).ptpSend d.val 3)) ∧
    (∀ b v, (s.dom d.val).asked = none → Goes (.ptpPdelayRespRx d b v) s s) ∧
    (∀ b v t1, (s.dom d.val).asked = some t1 → s.on F.TK_DOM_STAT_P2P d.val = false →
      Goes (.ptpPdelayRespRx d b v) s (s.bump F.ETH_CNT_RX_DISCARD (s.domPort d.val))) ∧
    (∀ v t1, (s.dom d.val).asked = some t1 → s.on F.TK_DOM_STAT_P2P d.val = true →
      Goes (.ptpPdelayRespRx d true v) s
        (s.setDom d.val { s.dom d.val with peer := some (v, s.ingress (s.domPort d.val)) }).drawn ∧
      Goes (.ptpPdelayRespRx d false v) s
        (s.setDom d.val { s.dom d.val with delay := ((s.ingress (s.domPort d.val) - t1) - v) / 2, asked := none }).drawn) ∧
    (∀ v t1 t2 t4, (s.dom d.val).asked = some t1 → (s.dom d.val).peer = some (t2, t4) →
      Goes (.ptpPdelayRespFollowUpRx d v) s
        (s.setDom d.val { s.dom d.val with delay := ((t4 - t1) - (v - t2)) / 2, asked := none, peer := none })) ∧
    (∀ v, ((s.dom d.val).asked = none ∨ (s.dom d.val).peer = none) → Goes (.ptpPdelayRespFollowUpRx d v) s s)) ∧
  (∀ (s : State) (d : Fin 2) (i o r : Int) (up : Nat), (s.dom d.val).inside < 15 →
    ((s.measure d.val i up o r).dom d.val).offset = i - (o + (s.dom d.val).delay) ∧
    ((s.measure d.val i up o r).dom d.val).sync = some (o, i) ∧ (s.measure d.val i up o r).time.now = s.time.now ∧
    ((s.measure d.val i up o r).dom d.val).since = up ∧
    ((s.measure d.val i up o r).dom d.val).inside = (if (s.dom d.val).modelled ∧
      (o + (s.dom d.val).delay - (s.dom d.val).predict up).natAbs ≤ s.get F.TK_CTRL_LOCK_NS * 1000 then (s.dom d.val).inside + 1 else 0)) ∧
  (∀ (s : State) (d : Fin 2), (s.get F.TK_STAT_SEL ≠ d.val ∨ s.sealed = true ∨ s.on F.TK_DOM_STAT_STEP_MODE d.val = true) →
    (s.lockDom d.val).time.now = s.time.now ∧ (s.lockDom d.val).lockedDom d.val = true) ∧
  (∀ (s : State) (d : Fin 2), s.get F.TK_STAT_SEL = d.val → s.sealed = false → (s.lockDom d.val).sealed = true ∧
    (s.on F.TK_DOM_STAT_STEP_MODE d.val = false →
      (s.lockDom d.val).time.now = ((s.time.now : Int) - psUnits (s.dom d.val).offset).toNat)) ∧
  (∀ (x : Domain) (o : Int), (x.shift o).offset = x.offset - o ∧ (x.shift o).asked = x.asked.map (· - o) ∧
    (∀ a b, x.sync = some (a, b) → (x.shift o).sync = some (a, b - o)) ∧
    (∀ a b, x.peer = some (a, b) → (x.shift o).peer = some (a, b - o)) ∧
    ∀ n i up, x.syncSeq = some (n, i, up) → (x.shift o).syncSeq = some (n, i - o, up)) ∧
  (∀ (s : State) (d : Fin 2), FwUp s → s.on F.TK_DOM_STAT_EN d.val = true → s.ethRuns (s.domPort d.val) = true →
    Goes (.ptpDelayReqSend d) s (s.ptpSend d.val (if s.on F.TK_DOM_STAT_P2P d.val then 1 else 0))) ∧
  (∀ (s : State) (d : Fin 2), Live s → (s.on F.HOST_STATUS_FW_RUN = false ∨ s.on F.TK_DOM_STAT_EN d.val = false ∨
    s.ethRuns (s.domPort d.val) = false) → Goes (.ptpDelayReqSend d) s s) ∧
  (∀ (s : State) (d : Fin 2) (kind p : Nat), p = s.domPort d.val → (s.eth p).ptpWait = [] →
    (s.ptpMay p kind = true → ((s.ptpSend d.val kind).eth p).ptpSent = (s.eth p).ptpSent ++ [(d.val, kind)] ∧
      (kind < 2 → ((s.ptpSend d.val kind).dom d.val).asked = some (s.egress p))) ∧
    (s.ptpMay p kind = false → s.ptpSend d.val kind = s.setEth p { s.eth p with ptpWait := [(d.val, kind)] })) ∧
  (∀ (s : State) (d : Fin 2), Live s → s.on F.TK_DOM_STAT_EN d.val = true → ∃ t, Goes (.syncTmo d) s t ∧
    t.lockedDom d.val = false ∧ t.on F.TK_DOM_STAT_LOST d.val = true ∧ (t.dom d.val).inside = 0 ∧ t.time.now = s.time.now) ∧
  (∀ (x : Domain), x.drop.parent = none ∧ ∀ m ∈ x.drop.foreign, m ∈ x.foreign ∧ x.parent ≠ some (sender m.ann)) ∧
  (∀ (s : State) (d : Fin 2), Live s → s.on F.TK_DOM_STAT_EN d.val = true → ∃ t, Goes (.announceTmo d) s t ∧
    (∃ u : State, (u.dom d.val).foreign = (s.dom d.val).foreign ∧ (u.dom d.val).parent = (s.dom d.val).parent ∧
      t = (u.setDom d.val (u.dom d.val).drop).chooseMaster d.val) ∧
    t.get F.PTP_CNT_ANNOUNCE_TMO d.val = min (s.get F.PTP_CNT_ANNOUNCE_TMO d.val + 1) (2 ^ F.PTP_CNT_ANNOUNCE_TMO.width - 1) ∧
    t.lockedDom d.val = false ∧ t.on F.TK_DOM_STAT_LOST d.val = true ∧ (t.dom d.val).inside = 0 ∧ t.time.now = s.time.now) ∧
  (∀ (s : State) (d : Fin 2), Live s → s.on F.TK_DOM_STAT_EN d.val = false →
    Goes (.syncTmo d) s s ∧ Goes (.announceTmo d) s s)

/-- Ports, timed frames and compare units (R367, R369, R375, R378 to R383, R410): other frames are counted where the port has a link,
a Management message as such once the port takes frames; a change of link state
notifies; a launch time counts as passed once the island-13 cycle in which it was reached is over; an on-time frame that reaches a
free wire in its own cycle leaves within δ after L, stamped so; a frame that may not be launched is dropped under the cause of its own; a sent frame leaves its timestamp, at most
16, read oldest first; a read of the nanoseconds latches the seconds; a compare unit acts for its owner and not early.
Where the spec leaves a reading open it follows the model's choices of notes/assumptions 138, 140, 146, 227, 228. -/
def Obligations.PortsAndFrames : Prop :=
  (∀ (s : State) (p : Fin 2) (k : EthOther), Live s → s.hears p.val = false → Goes (.ethRxOther p k) s s) ∧
  (∀ (s : State) (p : Fin 2), Live s → s.hears p.val = true →
    Goes (.ethRxOther p .badFcs) s ((s.bump F.ETH_CNT_RX_FCS p.val).bump F.ETH_CNT_RX_DISCARD p.val) ∧
    Goes (.ethRxOther p .other) s (s.bump F.ETH_CNT_RX_DISCARD p.val)) ∧
  (∀ (s : State) (p d : Fin 2), FwUp s → s.hears p.val = true → (s.eth p.val).configured = true →
    Goes (.ethRxOther p (.management d)) s (s.bump F.PTP_CNT_BAD_MSG d.val)) ∧
  (∀ (s : State) (p d : Fin 2), Live s → s.hears p.val = true →
    (s.on F.HOST_STATUS_FW_RUN = false ∨ (s.eth p.val).configured = false) →
    Goes (.ethRxOther p (.management d)) s (s.bump F.ETH_CNT_RX_DISCARD p.val)) ∧
  (∀ (s : State) (p l : Nat), (s.time.now < l + s.time.pace → s.passed p l = false) ∧
    (l + s.islandSpan p * s.time.pace ≤ s.time.now → s.passed p l = true) ∧ s.islandSpan p ≤ 8) ∧
  (∀ (s : State) (p : Fin 2) (f : TimedFrame), s.on F.ETH_STAT_LAUNCH_EN p.val = true → s.ethRuns p.val = true →
    (s.eth p.val).queue = [] → (s.eth p.val).onWire = none → f.late = false → f.launch / nsUnit ≤ s.nowNs →
    s.time.now < f.launch + s.time.pace → ∃ g, ((s.queueFrame p.val f).eth p.val).onWire = some g ∧ g = { f with stamp := g.stamp } ∧
      f.launch ≤ g.stamp ∧ g.stamp < f.launch + (psUnits (s.deltaRange p.val)).toNat) ∧
  (∀ (s : State) (p : Fin 2) (b : Bool), Live s → (b = true → s.laneOn p.val = true) → s.on F.ETH_STAT_LINK_UP p.val ≠ b →
    ∃ t, Goes (.ethLinkChange p b) s t ∧ t = { s with regs := t.regs, i3c := t.i3c } ∧ t.on F.ETH_STAT_LINK_UP p.val = b ∧
      t.on F.HOST_IBI_CAUSE_LINK = true) ∧
  (∀ (s : State) (p : Fin 2) (b : Bool), Live s → ((b = true ∧ s.laneOn p.val = false) ∨ s.on F.ETH_STAT_LINK_UP p.val = b) →
    Goes (.ethLinkChange p b) s s) ∧
  (∀ (s : State) (p : Fin 2) (f : TimedFrame),
    (s.on F.ETH_STAT_LAUNCH_EN p.val = false → s.queueFrame p.val f = s.bump F.ETH_LAUNCH_CNT_NO_LAUNCH p.val) ∧
    (s.on F.ETH_STAT_LAUNCH_EN p.val = true → f.late = true → s.on F.ETH_LATE_POLICY_DROP p.val = true →
      s.queueFrame p.val f = s.bump F.ETH_LAUNCH_CNT_LATE_DROP p.val) ∧
    (s.on F.ETH_STAT_LAUNCH_EN p.val = true → f.late = false → 64 ≤ (s.eth p.val).queue.length →
      s.queueFrame p.val f = s.bump F.ETH_LAUNCH_CNT_QFULL p.val) ∧
    (s.on F.ETH_STAT_LAUNCH_EN p.val = true → (f.late = false ∨ s.on F.ETH_LATE_POLICY_DROP p.val = false) →
      (s.eth p.val).queue.length < 64 → (s.eth p.val).onWire ≠ none → (s.queueFrame p.val f).eth p.val = { s.eth p.val with
        queue := insertBefore (fun g => decide (f.launch < g.launch)) f (s.eth p.val).queue })) ∧
  (∀ (s : State) (p : Fin 2) (f : TimedFrame), Live s → (s.eth p.val).onWire = some f →
    ((s.eth p.val).txts.length < 16 → ∃ t, Goes (.timedFrameTxDone p) s t ∧
      (t.eth p.val).txts = (s.eth p.val).txts ++ [(f.serial % 2 ^ 16, f.late, f.stamp)] ∧
      t.get F.ETH_TXTS_STAT_DEPTH p.val = (s.eth p.val).txts.length + 1 ∧ ((s.eth p.val).queue = [] →
        (s.eth p.val).ptpWait = [] → (t.eth p.val).onWire = none ∧ t = { s with regs := t.regs, time := t.time })) ∧
    (16 ≤ (s.eth p.val).txts.length → ∃ t, Goes (.timedFrameTxDone p) s t ∧ (t.eth p.val).txts = (s.eth p.val).txts ∧
      t.on F.ETH_TXTS_STAT_OVF p.val = true ∧
      t.get F.ETH_TXTS_STAT_DROP p.val = min (s.get F.ETH_TXTS_STAT_DROP p.val + 1) 255)) ∧
  (∀ (s : State) (p : Fin 2), Live s → (s.eth p.val).onWire = none → Goes (.timedFrameTxDone p) s s) ∧
  (∀ (s : State) (p : Fin 2), Live s → (s.eth p.val).txts = [] → Goes (.ethTxtsIdRead p) s s) ∧
  (∀ (s : State) (p : Fin 2) (i tm : Nat) (late : Bool) (q : List (Nat × Bool × Nat)), Live s →
    (s.eth p.val).txts = (i, late, tm) :: q → ∃ t, Goes (.ethTxtsIdRead p) s t ∧ (t.eth p.val).txts = q ∧
      t.get F.ETH_TXTS_NS_NS p.val = timeNs tm ∧ t.get F.ETH_TXTS_S_HI_FRAC p.val = timeFrac tm % 2 ^ 16 ∧ t.time.now = s.time.now) ∧
  (∀ s : State, Live s → ∃ t, Goes .tkTimeNsRead s t ∧
    OnlyRegs s t [R.TK_TIME_S_LO.addr 0 0, R.TK_TIME_S_HI.addr 0 0] ∧ t.get F.TK_TIME_S_LO_S = timeSec s.time.now % 2 ^ 32 ∧
    t.get F.TK_TIME_S_HI_S_HI = timeSec s.time.now / 2 ^ 32 % 2 ^ 16) ∧
  (∀ (s : State) (u : Fin 32), Live s → (s.on F.TK_CMP_S_HI_ARMED u.val = false ∨ s.nowNs < s.compareTime u.val) →
    Goes (.compareUnitFire u) s s) ∧
  (∀ (s : State) (u : Fin 32), Live s → s.on F.TK_CMP_S_HI_ARMED u.val = true → s.compareTime u.val ≤ s.nowNs →
    (s.owner (13 + u.val) = ownLaunch → Goes (.compareUnitFire u) s (s.launchHead (s.ownerInst (13 + u.val)) true)) ∧
    (s.owner (13 + u.val) = ownCamera → Goes (.compareUnitFire u) s (s.fireTrigger (s.ownerInst (13 + u.val)))) ∧
    (s.owner (13 + u.val) = ownSnapshot → Goes (.compareUnitFire u) s (s.fireSnapTime u.val)) ∧
    (s.owner (13 + u.val) ≠ ownLaunch → s.owner (13 + u.val) ≠ ownCamera → s.owner (13 + u.val) ≠ ownSnapshot →
      Goes (.compareUnitFire u) s s))

/-! ### Snapshots, power -/

/-- Snapshots and trace (R432 to R437): a firing takes the next entry, which is numbered by a count of 32 bits, or joins the one being
taken, or is dropped from a held ring; the command answers the index; each block's registers are copied as they stood when the token
reached it; a latch makes the entry valid; a read sends the blocks asked for, and one of an entry that is not valid is refused; a
waiting trace record goes out behind every waiting snapshot packet.
Where the spec leaves a reading open it follows the model's choices of notes/assumptions 114, 115, 116, 117, 118. -/
def Obligations.Snapshots : Prop :=
  (∀ (s : State) (src : Source) (c : Cmd), Starts s src 0x0A01 c →
    Ends (.cmdSnapTrigger src) s (State.snapFire (s.dropOldest src) 8).1 src c .done [w32 (State.snapFire (s.dropOldest src) 8).2]) ∧
  (∀ (s : State) (src n : Nat), s.snap.taking = none → s.snap.holdoff = false → n = s.get F.SNAP_STAT_NEXT →
    ((bitAt (s.get F.SNAP_STAT_VALID) n = false ∨ s.on F.SNAP_CTRL_HOLD = false) → ∃ t e, s.snapFire src = (t, n) ∧
      tget? t.snap.ring n = some e ∧ e.seq = (s.snap.count + 1) % 2 ^ 32 ∧ t.snap.count = e.seq ∧ t.snap.trail = [] ∧
      e.time = s.time.now ∧ e.sources = 2 ^ src ∧ t.snap.taking = some n ∧
      t.get F.SNAP_STAT_NEXT = (n + 1) % 8 ∧ t.get F.SNAP_STAT_SEQ = (s.get F.SNAP_STAT_SEQ + 1) % 2 ^ 16 ∧ t.mem = s.mem) ∧
    (bitAt (s.get F.SNAP_STAT_VALID) n = true → s.on F.SNAP_CTRL_HOLD = true →
      s.snapFire src = (s.bump F.SNAP_CNT_DROPPED, 0xFF))) ∧
  (∀ (s : State) (src n : Nat) (e : Snap), s.snap.taking = some n → tget? s.snap.ring n = some e → ∃ t, s.snapFire src = (t, n) ∧
    tget? t.snap.ring n = some (e.withSource src) ∧ t.get F.SNAP_STAT_SEQ = s.get F.SNAP_STAT_SEQ) ∧
  (∀ (s : State) (src : Source) (c : Cmd), Starts s src 0x0A02 c →
    (bitAt (c.p 1) 0 = true → s.heldByOther (13 + bitsOf (c.p 2) 0 5) ownSnapshot 0 = true →
      Ends (.cmdSnapConfig src) s (s.dropOldest src) src c .resourceHeld) ∧
    ((bitAt (c.p 1) 0 = false ∨ s.heldByOther (13 + bitsOf (c.p 2) 0 5) ownSnapshot 0 = false) →
      ∃ t, Ends (.cmdSnapConfig src) s t src c .done ∧ t.get F.SNAP_CTRL_SOURCES = c.p 1 % 256 ∧
        t.get F.SNAP_CTRL_UNIT = c.p 2 % 32 ∧ t.on F.SNAP_STAT_TIME_ARMED = bitAt (c.p 1) 0 ∧
        t.on F.SNAP_STAT_ENC_ARMED = bitAt (c.p 1) 1 ∧ t.mem = s.mem ∧
        (bitAt (c.p 1) 0 = true → t.owner (13 + bitsOf (c.p 2) 0 5) = ownSnapshot) ∧
        (bitAt (c.p 1) 1 = true → t.snap.encAt = signed 48 (s.reg R.SNAP_ENC_LO + 2 ^ 32 * s.reg R.SNAP_ENC_HI)) ∧
        (bitAt (c.p 1) 0 = false → bitAt (c.p 1) 1 = false → t = { s.dropOldest src with regs := t.regs }))) ∧
  (∀ (s : State) (lags : List Nat) (n : Nat) (e : Snap), Live s → s.snap.taking = some n → n < 8 →
    tget? s.snap.ring n = some e → ∃ t f, Goes (.snapLatchDone lags) s t ∧ t.snap.taking = none ∧
      tget? t.snap.ring n = some f ∧ f.seq = e.seq ∧ f.time = e.time ∧ f.lag = lags.map (min 200) ∧
      f.regs = s.latchRegs e (lags.map (min 200)) ∧ t.snap.trail = [] ∧
      bitAt (t.get F.SNAP_STAT_VALID) n = true ∧ t.on F.SNAP_STAT_BUSY = false ∧ t.on F.HOST_IBI_CAUSE_SNAP = true) ∧
  (∀ (s : State) (lags : List Nat), Live s → (s.snap.taking = none ∨
    ∃ n, s.snap.taking = some n ∧ tget? s.snap.ring n = none) → Goes (.snapLatchDone lags) s s) ∧
  (∀ (s : State) (e : Snap) (lags : List Nat) (a : Nat), regPlace a < 83 →
    (a ≠ R.TK_TIME_NS.addr 0 0 → tget? (s.latchRegs e lags) a =
      tget? (s.snap.trail.getD (lags.getD (regPlace a) 0 - 1) s.shownRegs) a) ∧
    (a = R.TK_TIME_NS.addr 0 0 → tget? (s.latchRegs e lags) a =
      some (w32 (timeNs (e.time + lags.getD (regPlace a) 0 * nsUnit))))) ∧
  (∀ (s : State) (ws : List Word), (s.portUp (s.txPort 23) = false → s.sendTrace ws =
      { s with host := { s.host with traceQ := s.host.traceQ ++ [ws] } } ∧ s.flushSnap = s) ∧
    (s.portUp (s.txPort 23) = true → s.sendTrace ws = s.emitWords 23 ws ∧ s.flushSnap =
      foldState (fun t ws => t.emitWords 23 ws) { s with host := { s.host with snapQ := [], traceQ := [] } }
        (s.host.snapQ ++ s.host.traceQ))) ∧
  (∀ s : State, Live s → Goes .snapHoldoffExpire s { s with snap := { s.snap with holdoff := false } }) ∧
  (∀ (s : State) (src : Source) (c : Cmd), Starts s src 0x0A03 c →
    ((7 < c.p 1 ∨ bitAt (s.get F.SNAP_STAT_VALID) (c.p 1) = false ∨ tget? s.snap.ring (c.p 1) = none) →
      Ends (.cmdSnapRead src) s (s.dropOldest src) src c .badParam) ∧
    (∀ e, tget? s.snap.ring (c.p 1) = some e → c.p 1 ≤ 7 → bitAt (s.get F.SNAP_STAT_VALID) (c.p 1) = true →
      s.snap.taking = some (c.p 1) → Ends (.cmdSnapRead src) s (s.dropOldest src) src c .busy) ∧
    (∀ e, tget? s.snap.ring (c.p 1) = some e → c.p 1 ≤ 7 → bitAt (s.get F.SNAP_STAT_VALID) (c.p 1) = true →
      s.snap.taking ≠ some (c.p 1) → ∃ q, q = (src, c.p 1, c.p 2 % 2 ^ 17, e.seq) ∧ Begins (.cmdSnapRead src) s
        { s.dropOldest src with snap := { s.snap with reads := s.snap.reads ++ [q] } } src c)) ∧
  (∀ (s t : State) (src : Source) (n mask seq : Nat) (q : List (Source × Nat × Nat × Nat)), Live s →
    s.snap.reads = (src, n, mask, seq) :: q → t = { s with snap := { s.snap with reads := q } } →
    (∀ e, tget? s.snap.ring n = some e → s.snap.taking ≠ some n → e.seq = seq →
      Goes .snapReadDone s (State.endRead (foldState State.sendSnap t (e.packets n mask)) src .done)) ∧
    ((s.snap.taking = some n ∨ tget? s.snap.ring n = none ∨ ∃ e, tget? s.snap.ring n = some e ∧ e.seq ≠ seq) →
      Goes .snapReadDone s (t.endRead src .busy))) ∧
  (∀ s : State, Live s → s.snap.reads = [] → Goes .snapReadDone s s) ∧
  (∀ (s : State) (src : Source) (c : Cmd), Starts s src 0x0A04 c →
    (65535 < c.p 2 → Ends (.cmdTraceSet src) s (s.dropOldest src) src c .badParam) ∧
    (c.p 2 ≤ 65535 → ∃ n, n = bitsOf (c.p 1) 3 5 * 8 ∧ Ends (.cmdTraceSet src) s
      { s.dropOldest src with snap := { s.snap with traceSrc := n, traceRate := c.p 2 } } src c .done))

/-- Power (R42, R439, R448 to R451): a sample is taken once firmware runs, with FLOOR as it stands then; throttling goes 10 mV deeper
while hot and not below the lowest setpoint, and 10 mV back when cool; the setpoint moves in 10 mV steps towards the effective one
while the regulator answers, and a CMD_SET_VCORE that waits ends with BAD_STATE while it does not; an alert is recorded.
Where the spec leaves a reading open it follows the model's choices of notes/assumptions 120, 122. -/
def Obligations.PowerAndThrottle : Prop :=
  (∀ (s : State) (x : Telemetry), Live s → s.on F.HOST_STATUS_FW_RUN = false → Goes (.telemetrySample x) s s) ∧
  (∀ (s t u : State) (x : Telemetry) (hotT hotP cool : Bool), FwUp s →
    t = State.sampleRails (State.sampleTemps { s with power := { s.power with floor := s.get F.SYS_THROTTLE_FLOOR } } x) x →
    hotT = decide (800 ≤ t.hottest) → hotP = decide (10 * t.get F.SYS_THROTTLE_CAP < t.get F.SYS_PWR_POWER) →
    cool = (decide (t.hottest < 8 * (100 - (t.get F.SYS_THROTTLE_HYST : Int))) &&
      decide (2 * t.get F.SYS_PWR_POWER < 19 * t.get F.SYS_THROTTLE_CAP)) →
    u = (t.putBit F.SYS_THROTTLE_STAT_HOT hotT).putBit F.SYS_THROTTLE_STAT_POWER hotP →
    Goes (.telemetrySample x) s (u.throttle (hotT || hotP) cool).settleVcore) ∧
  (∀ (s : State) (x : Telemetry) (i : Nat) (v : Int), i < 4 → x.temps[i]? = some v →
    (s.sampleTemps x).get F.SYS_TEMP_TEMP i = unsigned 16 v ∧ (s.sampleTemps x).on F.SYS_TEMP_VALID i = true) ∧
  (∀ (s : State) (cool : Bool), s.vcoreLowest + s.power.depth + 10 ≤ s.power.target →
    (s.throttle true cool).power.depth = s.power.depth + 10 ∧
    s.vcoreLowest ≤ (s.throttle true cool).vcoreEffective) ∧
  (∀ s : State, s.power.depth ≠ 0 → (s.throttle false true).power.depth = s.power.depth - 10) ∧
  (∀ s : State, s.throttle false false = s) ∧
  (∀ s : State, s.vcoreLowest = min s.power.floor s.power.target) ∧
  (∀ s : State, s.regulatorBad = true → s.settleVcore.runningCmd 0x0103 = none ∧
    ∀ e, s.host.running = [e] → e.2.opcode = 0x0103 → s.settleVcore = s.finish e .badState) ∧
  (∀ s : State, FwUp s → s.straps.pwrExt = false → s.regulatorBad = false → s.power.now < s.vcoreEffective → ∃ t : State, Goes .vcoreStep s t.settleVcore ∧
    t = { s with power := { s.power with now := t.power.now } } ∧ t.power.now = min (s.power.now + 10) s.vcoreEffective) ∧
  (∀ s : State, FwUp s → s.straps.pwrExt = false → s.regulatorBad = false → s.vcoreEffective < s.power.now → ∃ t : State, Goes .vcoreStep s t.settleVcore ∧
    t = { s with power := { s.power with now := t.power.now } } ∧ t.power.now = max (s.power.now - 10) s.vcoreEffective) ∧
  (∀ s : State, Live s → (s.power.now = s.vcoreEffective ∨ s.straps.pwrExt = true ∨ s.regulatorBad = true ∨
      s.on F.HOST_STATUS_FW_RUN = false) →
    Goes .vcoreStep s s) ∧
  (∀ (s : State) (ws : List Word), Live s → ∃ t, Goes (.pwrAlert ws) s t ∧ OnlyRegs s t [R.SYS_PWR_STAT.addr 0 0] ∧
    t.on F.SYS_PWR_STAT_ALERT = true ∧ t.get F.SYS_PWR_STAT_NO_RESPONSE = s.get F.SYS_PWR_STAT_NO_RESPONSE)

/-! ### The Ranoz link -/

/-- Lanes and bring-up (R384, R387 to R389): a lane sends K28.1 with its own place, LANES, RX_ALIGNED, FW_RUN and SESSION, and
idles, which are K23.7 while fallback is asked for; a marker as it is sent reads back as it was; two good markers in a row align a
lane, 16 code errors or two missing ones lose it; a link that comes up sends no frame before the next marker; fallback ends
refused; the loss of a lane's alignment takes the link down; LINK_CFG changes only in role NONE and never to the reserved rate.
Where the spec leaves a reading open it follows the model's choices of notes/assumptions 147, 148, 151. -/
def Obligations.RanozLanes : Prop :=
  (∀ (s : State) (l : Nat), s.laneMarker l = .control (kCode 28 1) ::
    (markerBytes l (s.get F.LINK_CFG_LANES) s.rxAligned (s.on F.HOST_STATUS_FW_RUN) s.link.session).map .data) ∧
  (∀ s : State, (s.codingSettled = true → s.idleSent = idleSym) ∧ (s.codingSettled = false → s.idleSent = .control (kCode 23 7)) ∧
    (s.rxAligned = true ↔ s.link.deskewed = true ∧ ∀ l, l < s.laneCount → s.laneAligned l = true)) ∧
  (∀ (s : State) (l : Nat), (s.laneCount ≤ l ∨ s.laneTested l = true → s.laneSends l = []) ∧
    (l < s.laneCount → s.laneTested l = false → (s.laneSends l).take 4 = s.laneMarker l ∧
      (s.laneSends l).drop 4 = List.replicate 1020 s.idleSent)) ∧
  (∀ (l n k : Nat) (al fw : Bool) (m : LaneMarker), l < 8 → n < 4 → k < 16 → [m.b1, m.b2, m.b3] = markerBytes l n al fw k →
    markerGood m = m.placed ∧ markerNumber m = l ∧ markerLanes m = n ∧ markerAligned m = al ∧ markerFw m = fw ∧
    markerSession m = k) ∧
  (∀ (s a b c : State) (l : Fin 8) (m : LaneMarker), Live s → l.val < s.laneCount → s.laneTested l.val = false →
    a = (s.bumpBy F.LINK_CNT_CODE_ERR m.errors).laneAfter l.val m →
    b = (if markerGood m then ((a.putBit F.LINK_STAT_CFG_MISMATCH (markerLanes m != a.get F.LINK_CFG_LANES)).putBit
      F.LINK_STAT_PARTNER_FW (markerFw m)).put F.LINK_STAT_SESSION (markerSession m) else a) →
    c = { b with link := { b.link with deskewed := b.everyLane b.laneAligned && b.placesDiffer && m.inSkew } } →
    (∀ same, s.link.start ≠ some (l.val, same)) → Goes (.ranozMarkerRx l m) s (c.judgeFallback.judgeLink l.val).settle) ∧
  (∀ (s a b c : State) (l : Fin 8) (m : LaneMarker) (same : Bool), Live s → l.val < s.laneCount → s.laneTested l.val = false →
    s.link.start = some (l.val, same) → a = (s.bumpBy F.LINK_CNT_CODE_ERR m.errors).laneAfter l.val m →
    b = (if markerGood m then ((a.putBit F.LINK_STAT_CFG_MISMATCH (markerLanes m != a.get F.LINK_CFG_LANES)).putBit
      F.LINK_STAT_PARTNER_FW (markerFw m)).put F.LINK_STAT_SESSION (markerSession m) else a) →
    c = { b with link := { b.link with deskewed := b.everyLane b.laneAligned && b.placesDiffer && m.inSkew } } →
    Goes (.ranozMarkerRx l m) s (c.judgeFallback.judgeLink l.val).startFrames.settle) ∧
  (∀ (s : State) (l : Nat), s.on F.LINK_STAT_UP = false → s.mayRise = true → s.judgeLink l = s.linkRise l) ∧
  (∀ (s : State) (l : Nat), (s.linkRise l).on F.LINK_STAT_UP = true ∧ (s.linkRise l).framesGo = false ∧
    (s.linkRise l).link.sent = s.link.sent ∧ (∃ same, (s.linkRise l).link.start = some (l, same)) ∧
    (s.linkRise l).on F.HOST_IBI_CAUSE_LINK = true) ∧
  (∀ s : State, s.framesGo = false → s.pump = s) ∧
  (∀ (s t : State) (l : Nat), s.link.start = some (l, false) → s.link.nakOwed = false →
    t = { s with link := { s.link with start := none } } → s.startFrames = t.pump) ∧
  (∀ (s t : State) (l : Nat), s.link.start = some (l, true) → s.link.nakOwed = false →
    t = { s with link := { s.link with start := none } } → s.startFrames = t.resendFrames.pump) ∧
  (∀ (s : State) (l : Fin 8) (m : LaneMarker), Live s → s.fenceDue = [] →
    (s.laneCount ≤ l.val ∨ s.laneTested l.val = true) → Goes (.ranozMarkerRx l m) s s) ∧
  (∀ (s : State) (l : Nat) (m : LaneMarker), markerGood m = true → m.errors + tgetD s.link.errors l 0 < 16 →
    1 ≤ tgetD s.link.markers l 0 →
    (s.laneAfter l m).laneAligned l = true) ∧
  (∀ (s : State) (l : Nat) (m : LaneMarker), 
    (16 ≤ m.errors + tgetD s.link.errors l 0 ∨ (markerGood m = false ∧ 1 ≤ tgetD s.link.missed l 0)) →
    (s.laneAfter l m).laneAligned l = false) ∧
  (∀ (s : State) (l k : Nat) (m : LaneMarker), k ≠ l → (s.laneAfter l m).laneAligned k = s.laneAligned k) ∧
  (∀ s : State, (s.link.deskewed = false ∨ s.on F.LINK_STAT_CFG_MISMATCH = true ∨ s.codingSettled = false) → s.mayRise = false) ∧
  (∀ s : State, Live s → s.codingSettled = false →
    Goes .fallbackTimeout s (State.settle ((s.putBit F.LINK_STAT_FB_REFUSED true).judgeLink 0))) ∧
  (∀ s : State, Live s → s.fenceDue = [] → s.codingSettled = true → Goes .fallbackTimeout s s) ∧
  (∀ (s : State) (l : Fin 8), Live s → s.fenceDue = [] → l.val < s.laneCount → s.laneAligned l.val = true →
    s.on F.LINK_STAT_UP = false → ∃ t, Goes (.ranozLaneLoss l) s t ∧ t = { s with regs := t.regs, link := t.link } ∧
      t.laneAligned l.val = false ∧ t.link.deskewed = false ∧ ∀ k, k ≠ l.val → t.laneAligned k = s.laneAligned k) ∧
  (∀ (s t : State) (l : Fin 8), Live s → l.val < s.laneCount → s.laneAligned l.val = true → s.on F.LINK_STAT_UP = true →
    t = State.showLanes { s with link := { s.link with
      aligned := tset s.link.aligned l.val false, markers := tset s.link.markers l.val 0, deskewed := false } } →
    Goes (.ranozLaneLoss l) s t.linkFall.settle) ∧
  (∀ (s : State) (v : Word), Live s → s.fenceDue = [] → (s.role = 1 ∨ s.role = 2 ∨ v.toNat % 4 = 3) →
    Goes (.linkCfgWrite v) s s) ∧
  (∀ (s t : State) (v : Word), Live s → s.fenceDue = [] → s.role = 0 → v.toNat % 4 ≠ 3 → s.on F.LINK_STAT_UP = false →
    t = s.mergeReg R.LINK_CFG v.toNat → t.reg R.LINK_CFG ≠ s.reg R.LINK_CFG →
    Goes (.linkCfgWrite v) s t.bringUp ∧ t.bringUp.link.aligned = [] ∧ t.bringUp.get F.LINK_STAT_ALIGNED = 0)

/-- Frames, acknowledgements and credits (R385, R386, R390 to R394): a frame without poison marks reads back as it was sent, and in
fallback coding so do a lane's symbols; a frame in order with a good CRC is taken, any other answered with a NAK, which waits for the
start of frames like every frame; the eighth resend without progress takes the link down; an owed ACK goes out in a NULL frame;
returned credits add up to 1,024 at most.
Where the spec leaves a reading open it follows the model's choices of notes/assumptions 148, 149, 150, 202, 203, 204. -/
def Obligations.RanozFrames : Prop :=
  (∀ (f : RzFrame) (ack : Nat), f.kind < 16 → f.vl < 4 → f.seq < 4096 → ack < 4096 → f.payload.length % 2 = 0 →
    f.payload.length < 2048 → f.poison = [] → readFrame ((f.symbols ack).map some) =
      { kind := f.kind, vl := f.vl, seq := f.seq, ack := ack, nak := f.nak, crcOk := true, payload := f.payload }) ∧
  (∀ (h : BitVec 58) (last : Bool) (run : Nat) (l : List Sym), run < 31 →
    laneSyms { past := h, last := last, run := run, bits := laneLine h last run l } = l) ∧
  (∀ (s : State) (w : FrameWire), Live s → s.fenceDue = [] →
    (s.on F.LINK_STAT_UP = false ∨ frameSyms w (s.on F.LINK_STAT_FB_ACTIVE) = none) → Goes (.ranozFrameRx w) s s) ∧
  (∀ (s t : State) (w : FrameWire) (l : List (Option Sym)) (f : RxFrame), Live s → s.on F.LINK_STAT_UP = true →
    frameSyms w (s.on F.LINK_STAT_FB_ACTIVE) = some l → t = s.frameErrors (codeErrors l) → f = readFrame l →
    (s.fenceDue = [] → f.crcOk = false → Goes (.ranozFrameRx w) s t.badFrame) ∧
    (s.fenceDue = [] → f.crcOk = true → f.kind = 0 → f.nak = false → Goes (.ranozFrameRx w) s (t.takeAck f.ack)) ∧
    (f.crcOk = true → f.kind = 0 → f.nak = true → Goes (.ranozFrameRx w) s (t.takeAck f.ack).resend.settle) ∧
    (s.fenceDue = [] → f.crcOk = true → f.kind ≠ 0 → f.seq = s.link.expect → f.nak = false →
      Goes (.ranozFrameRx w) s ((t.takeAck f.ack).takeFrame f)) ∧
    (s.fenceDue = [] → f.crcOk = true → f.kind ≠ 0 → f.seq = s.link.expect → f.nak = true →
      (t.takeAck f.ack).resend.on F.LINK_STAT_UP = true → (t.takeAck f.ack).resend.fenceDue = [] →
      Goes (.ranozFrameRx w) s ((t.takeAck f.ack).resend.takeFrame f)) ∧
    (s.fenceDue = [] → f.crcOk = true → f.kind ≠ 0 → f.seq ≠ s.link.expect → Goes (.ranozFrameRx w) s t.badFrame)) ∧
  (∀ s : State, ∃ t, s.badFrame = t ∧ t = { s with regs := t.regs, link := t.link } ∧ t.link.expect = s.link.expect ∧
    t.link.inbox = s.link.inbox ∧ (s.framesGo = true → t.link.sent.length = s.link.sent.length + 1) ∧
    (s.framesGo = false → t.link.sent = s.link.sent ∧ t.link.nakOwed = true) ∧
    t.get F.LINK_CNT_CRC_ERR = min (s.get F.LINK_CNT_CRC_ERR + 1) 255) ∧
  (∀ (s : State) (f : RxFrame), s.on F.HOST_STATUS_FW_RUN = true → f.kind < 9 →
    (s.takeFrame f).link.inbox = s.link.inbox ++ [storedFrame f] ∧ (s.takeFrame f).link.expect = (s.link.expect + 1) % 4096 ∧
    (s.takeFrame f).link.ackOwed = true) ∧
  (∀ (s : State) (f : RxFrame), s.on F.HOST_STATUS_FW_RUN = false → (s.takeFrame f).link.inbox = s.link.inbox ∧
    (s.takeFrame f).link.returned.length = s.link.returned.length + 1) ∧
  (∀ s : State, Live s → s.fenceDue = [] → (s.framesGo = false ∨ s.link.unacked = []) → Goes .ranozAckTmo s s) ∧
  (∀ s : State, Live s → s.fenceDue = [] → s.framesGo = true → s.link.unacked ≠ [] → s.link.resends < 7 →
    ∃ t, Goes .ranozAckTmo s t ∧ t = { s with regs := t.regs, link := t.link } ∧ t.link.resends = s.link.resends + 1 ∧
      t.link.unacked = s.link.unacked ∧ t.link.sent.length = s.link.sent.length + s.link.unacked.length) ∧
  (∀ s : State, Live s → s.framesGo = true → s.link.unacked ≠ [] → 7 ≤ s.link.resends →
    Goes .ranozAckTmo s s.resendFrames.linkFall.settle) ∧
  (∀ s : State, Live s → s.framesGo = true → s.link.ackOwed = true → Goes .ranozNullTmo s (s.sendNull false)) ∧
  (∀ s : State, Live s → (s.framesGo = false ∨ s.link.ackOwed = false) → Goes .ranozNullTmo s s) ∧
  (∀ (s : State) (a b c : Byte) (vl : Nat), Live s → s.on F.LINK_STAT_UP = true → vl = a.toNat % 4 →
    Goes (.creditReturnRx a (b, c)) s (State.askHandover
      (s.setCredits vl (min fullCredits (s.vlCredits vl + (b.toNat + 256 * c.toNat)))).pump)) ∧
  (∀ (s : State) (a b c : Byte), Live s → s.on F.LINK_STAT_UP = false → Goes (.creditReturnRx a (b, c)) s s) ∧
  (∀ (s : State) (f : RzFrame), (s.startFrame f).vlCredits f.vl = s.vlCredits f.vl - frameCredits f.len ∧
    (s.startFrame f).link.nextSeq = (s.link.nextSeq + 1) % 4096 ∧
    (s.startFrame f).link.unacked = s.link.unacked ++ [{ f with seq := s.link.nextSeq }])

/-- The twin mailboxes and lane tests (R64, R69, R396, R397): a GO write sends the 16 words unless the mailbox is full; a
partner's message fills MBX_T2D unless it is full; reading GO clears it and tells the partner; a test needs role NONE or a port that is off and
ends with what the checker counted; a Ranoz lane's end restarts bring-up, which takes down a link that is up.
Where the spec leaves a reading open it follows the model's choices of notes/assumptions 152, 153. -/
def Obligations.TwinMailboxesAndLaneTests : Prop :=
  (∀ (s : State) (v : Word), FwUp s → s.on F.MBX_D2T_GO_FULL = false → bitAt v.toNat 0 = true →
    Goes (.mbxD2tGoWrite v) s (s.placeD2t ((List.range 16).map fun i => w32 (s.reg R.MBX_D2T_DATA i)))) ∧
  (∀ (s : State) (v : Word), Live s → (s.on F.MBX_D2T_GO_FULL = true ∨ bitAt v.toNat 0 = false) → Goes (.mbxD2tGoWrite v) s s) ∧
  (∀ (s : State) (x : RzFrame), Frames s 5 x → s.on F.MBX_T2D_GO_FULL = true → Goes .mbxFrameRx s (s.consume x)) ∧
  (∀ (s u : State) (x : RzFrame) (ws : List Word), Frames s 5 x → s.on F.MBX_T2D_GO_FULL = false → ws = (List.range 16).map (fun i => x.payload.getD i 0) →
    u = ((s.consume x).fillBox R.MBX_T2D_DATA ws).putBit F.MBX_T2D_GO_FULL true →
    u.on F.MBX_T2D_GO_FULL = true ∧
    (isReply ws = true → Goes .mbxFrameRx s u) ∧
    (isReply ws = false → Goes .mbxFrameRx s (u.takePacket .t2d (mailPacket ws) true))) ∧
  (∀ s : State, Live s → s.on F.MBX_T2D_GO_FULL = true →
    Goes .mbxT2dGoRead s ((s.putBit F.MBX_T2D_GO_FULL false).linkSend 6 2 [])) ∧
  (∀ s : State, Live s → s.on F.MBX_T2D_GO_FULL = false → Goes .mbxT2dGoRead s s) ∧
  (∀ (s : State) (x : RzFrame), Frames s 6 x →
    Goes .mbxAckRx s (State.nextD2t ((s.consume x).putBit F.MBX_D2T_GO_FULL false))) ∧
  (∀ (s : State) (src : Source) (c : Cmd), Starts s src 0x0804 c → s.fenceDue = [] →
    (c.p 1 / 256 = 0 → Ends (.cmdLaneTest src) s (s.dropOldest src) src c .badParam) ∧
    (c.p 1 / 256 ≠ 0 → c.target < 8 → s.role ≠ 0 → Ends (.cmdLaneTest src) s (s.dropOldest src) src c .badState) ∧
    (c.p 1 / 256 ≠ 0 → 8 ≤ c.target → s.get F.ETH_CFG_SPEED (c.target - 8) ≠ 0 →
      Ends (.cmdLaneTest src) s (s.dropOldest src) src c .badState) ∧
    (c.p 1 / 256 ≠ 0 → 8 ≤ c.target → s.get F.ETH_CFG_SPEED (c.target - 8) = 0 →
      Lasts (.cmdLaneTest src) s (s.dropOldest src) src c) ∧
    (c.p 1 / 256 ≠ 0 → c.target < 8 → s.role = 0 → s.on F.LINK_STAT_UP = false →
      Lasts (.cmdLaneTest src) s (s.dropOldest src).bringUp src c) ∧
    (c.p 1 / 256 ≠ 0 → c.target < 8 → s.role = 0 → s.on F.LINK_STAT_UP = true →
      Goes (.cmdLaneTest src) s (State.settle (runs (s.dropOldest src).linkFall src { c with silent := true })))) ∧
  (∀ (s : State) (e : Source × Cmd) (errors bits : Nat), Live s → s.runningCmd 0x0804 = some e →
    ∀ ws : List Word, ws = (if bitsOf (e.2.p 2) 0 2 = 3 then [0, 0] else [w32 errors, w32 bits]) →
    (8 ≤ e.2.target → Goes (.laneTestEnd errors bits) s (s.finish e .done ws).settle) ∧
    (e.2.target < 8 → (s.finish e .done ws).on F.LINK_STAT_UP = false →
      Goes (.laneTestEnd errors bits) s (s.finish e .done ws).bringUp.settle) ∧
    (e.2.target < 8 → (s.finish e .done ws).on F.LINK_STAT_UP = true →
      Goes (.laneTestEnd errors bits) s (s.finish e .done ws).linkFall.settle)) ∧
  (∀ (s : State) (errors bits : Nat), Live s → s.fenceDue = [] → s.runningCmd 0x0804 = none → Goes (.laneTestEnd errors bits) s s)

/-! ### Twin operation -/

/-- Roles, takeover and handover (R398, R402 to R407): a role is taken only where the checks hold; only a STANDBY device takes
over; a takeover alone marks the bobbins that it makes late; a handover is asked of an ACTIVE device alone and ends by its
acknowledgement or after its time; what has arrived when a time ends comes first (R46).
Where the spec leaves a reading open it follows the model's choices of notes/assumptions 155, 160, 163. -/
def Obligations.TwinRoles : Prop :=
  (∀ (s : State) (src : Source) (c : Cmd) (hot policy : Nat), Starts s src 0x0801 c → hot = bitsOf (c.p 2) 0 1 →
    policy = bitsOf (c.p 2) 4 2 →
    ((2 < c.p 1 ∨ policy = 3 ∨ bitsOf (c.p 2) 1 3 ≠ 0 ∨ bitsOf (c.p 2) 6 26 ≠ 0) → Ends (.cmdTwinRole src) s (s.dropOldest src) src c .badParam) ∧
    (1 ≤ c.p 1 → c.p 1 ≤ 2 → policy ≠ 3 → bitsOf (c.p 2) 1 3 = 0 → bitsOf (c.p 2) 6 26 = 0 → s.role ≠ 0 →
      Ends (.cmdTwinRole src) s (s.dropOldest src) src c .badState) ∧
    (1 ≤ c.p 1 → c.p 1 ≤ 2 → policy ≠ 3 → bitsOf (c.p 2) 1 3 = 0 → bitsOf (c.p 2) 6 26 = 0 → s.role = 0 →
      (s.on F.LINK_STAT_UP = false ∨ s.partnerSeen = false) → Ends (.cmdTwinRole src) s (s.dropOldest src) src c .linkDown) ∧
    (1 ≤ c.p 1 → c.p 1 ≤ 2 → policy ≠ 3 → bitsOf (c.p 2) 1 3 = 0 → bitsOf (c.p 2) 6 26 = 0 → s.role = 0 →
      s.on F.LINK_STAT_UP = true → s.partnerSeen = true → s.roleFits (c.p 1) hot policy = false →
      Ends (.cmdTwinRole src) s (s.dropOldest src) src c .badState) ∧
    (1 ≤ c.p 1 → c.p 1 ≤ 2 → policy ≠ 3 → bitsOf (c.p 2) 1 3 = 0 → bitsOf (c.p 2) 6 26 = 0 → s.role = 0 →
      s.on F.LINK_STAT_UP = true → s.partnerSeen = true → s.roleFits (c.p 1) hot policy = true →
      Ends (.cmdTwinRole src) s (State.takeRole (s.dropOldest src) (c.p 1) hot policy) src c .done) ∧
    (c.p 1 = 0 → policy ≠ 3 → bitsOf (c.p 2) 1 3 = 0 → bitsOf (c.p 2) 6 26 = 0 → s.role = 1 →
      roleOf s.twin.hbFields = 2 → Ends (.cmdTwinRole src) s (s.dropOldest src) src c .badState) ∧
    (c.p 1 = 0 → policy ≠ 3 → bitsOf (c.p 2) 1 3 = 0 → bitsOf (c.p 2) 6 26 = 0 →
      (s.role ≠ 1 ∨ roleOf s.twin.hbFields ≠ 2) →
      Ends (.cmdTwinRole src) s (State.takeRole (s.dropOldest src) 0 hot policy) src c .done)) ∧
  (∀ (s : State) (hot policy : Nat), s.splits = [] → (s.takeRole 2 hot policy).role = 2 ∧
    (s.takeRole 2 hot policy).on F.TWIN_STAT_SYNCED = false ∧ (s.takeRole 2 hot policy).twin.syncSent = false) ∧
  (∀ (s : State) (src : Source) (c : Cmd), Starts s src 0x0802 c → Ends (.cmdTwinStatus src) s (s.dropOldest src) src c .done
    [w32 s.role, w32 (s.get F.TWIN_CTRL_HOT), w32 s.twinAge, w32 (s.get F.TWIN_CNT_MISMATCH)]) ∧
  (∀ (s : State) (src : Source) (c : Cmd) (w : Nat), Starts s src 0x0803 c → w = (s.twin.peer.getD 0 0).toNat →
    s.twin.handover = none →
    ((s.role ≠ 1 ∨ w % 4 ≠ 2 ∨ bitAt w 7 = false) → Ends (.cmdTwinHandover src) s (s.dropOldest src) src c .badState) ∧
    (s.role = 1 → w % 4 = 2 → bitAt w 7 = true → s.on F.LINK_STAT_UP = false →
      Ends (.cmdTwinHandover src) s (s.dropOldest src) src c .linkDown) ∧
    (s.role = 1 → w % 4 = 2 → bitAt w 7 = true → s.on F.LINK_STAT_UP = true → ∀ t : State,
      t = { s.dropOldest src with twin := { s.twin with handover := some src, asked := false } } →
      Goes (.cmdTwinHandover src) s ((runs t src c).reply src c .accepted).askHandover)) ∧
  (∀ (s : State) (src : Source) (c : Cmd), Starts s src 0x0803 c → s.twin.handover ≠ none →
    Goes (.cmdTwinHandover src) s (State.reply (s.dropOldest src) src c .badState).askHandover) ∧
  (∀ (s : State) (f : RzFrame), Frames s 2 f →
    (∀ t : State, f.word 0 = 1 → (s.consume f).role = 2 → t = (s.consume f).becomeActive →
      Goes .twinCtlRx s (State.gateTaken { t with twin := { t.twin with gateDue := true } })) ∧
    (f.word 0 = 2 → s.twin.asked = true → (s.consume f).role = 1 → Goes .twinCtlRx s (s.consume f).handedOver) ∧
    ((f.word 0 ≠ 1 ∨ (s.consume f).role ≠ 2) → (f.word 0 ≠ 2 ∨ s.twin.asked = false ∨ (s.consume f).role ≠ 1) →
      Goes .twinCtlRx s (s.consume f))) ∧
  (∀ s : State, Live s → s.role = 2 → s.beatWaits = false → Goes .takeoverTmo s
    ((s.markTaken.becomeActive.putBit F.TWIN_STAT_TAKEN_OVER true).bump F.TWIN_EVENT_CNT_TAKEOVER)) ∧
  (∀ s : State, Live s → (s.role ≠ 2 ∨ s.beatWaits = true) → Goes .takeoverTmo s s) ∧
  (∀ s : State, s.markTaken = { s with bobs := s.markTaken.bobs } ∧
    ∀ id, (s.bob id).sample = none → (s.bob id).state ≠ .free → s.markTaken.bob id = { s.bob id with taken := true }) ∧
  (∀ (s t : State), Live s → s.twin.asked = true → (s.frameWaits 2 fun f => f.word 0 == 2) = false → t = { s with twin := { s.twin with handover := none, asked := false } } →
    Goes .handoverTmo s (t.finishOp 0x0803 .timeout)) ∧
  (∀ s : State, Live s → (s.twin.asked = false ∨ (s.frameWaits 2 fun f => f.word 0 == 2) = true) → Goes .handoverTmo s s) ∧
  (∀ s : State, Live s → s.role = 1 → s.twin.hbTime.isSome = true → s.twin.lost = false → s.beatWaits = false →
    Goes .partnerLost s
      (State.putBit { s with twin := { s.twin with lost := true } } F.TWIN_STAT_PARTNER_LOST true).resolveWaiting ∧
    (s.twin.waiting = [] → ∃ t, Goes .partnerLost s t ∧ t = { s with regs := t.regs, twin := t.twin } ∧ t.twin.lost = true ∧
      t.on F.TWIN_STAT_PARTNER_LOST = true)) ∧
  (∀ s : State, Live s → (s.role ≠ 1 ∨ s.twin.lost = true ∨ s.twin.hbTime = none ∨ s.beatWaits = true) →
    Goes .partnerLost s s)

/-- Twin traffic (R399 to R403, R408): heartbeats go out while firmware runs; one whose partner's firmware does not run changes
nothing; only a STANDBY device follows the mirror; a verdict is compared with the device's own and stands where they agree;
an expired wait uses the device's own, unless the partner's has arrived (R46).
Where the spec leaves a reading open it follows the model's choices of notes/assumptions 154, 155, 156, 157, 158, 164. -/
def Obligations.TwinTraffic : Prop :=
  (∀ (s t : State) (n : Nat), FwUp s → s.on F.LINK_STAT_UP = true → n = (s.twin.hbSeq + 1) % 2 ^ 16 →
    t = { s with twin := { s.twin with hbSeq := n, hbSent := tset s.twin.hbSent (n % 256) s.time.uptime } } →
    Goes .heartbeatSend s (t.linkSend 1 0 t.heartbeatWords)) ∧
  (∀ s : State, Live s → (s.on F.LINK_STAT_UP = false ∨ s.on F.HOST_STATUS_FW_RUN = false) → Goes .heartbeatSend s s) ∧
  (∀ (s : State) (f : RzFrame), Frames s 1 f → bitAt (f.word 0) 6 = false → Goes .heartbeatRx s (s.consume f)) ∧
  (∀ (s t u : State) (f : RzFrame), Frames s 1 f → bitAt (f.word 0) 6 = true →
    t = { s.consume f with twin := { s.twin with
      hbAny := some s.time.uptime, hbRecv := s.time.uptime, partnerSeq := f.word 0 / 2 ^ 16, hbFields := f.payload } } →
    u = (if roleOf f.payload = 0 then t.latency f else (t.latency f).validBeat f (roleOf f.payload)) →
    (u.role ≠ 1 → Goes .heartbeatRx s u) ∧
    (u.role = 1 → roleOf f.payload = 2 → u.twin.syncSent = false → Goes .heartbeatRx s u.sendSnapshot) ∧
    (u.role = 1 → roleOf f.payload = 2 → u.twin.syncSent = true → Goes .heartbeatRx s u) ∧
    (u.role = 1 → roleOf f.payload ≠ 2 → Goes .heartbeatRx s (if u.twin.syncSent then u.unsync else u))) ∧
  (∀ (s : State) (f : RzFrame), Frames s 7 f → (s.consume f).role ≠ 2 → Goes .mirrorRx s (s.consume f)) ∧
  (∀ (s t : State) (f : RzFrame), Frames s 7 f → t = s.consume f → t.role = 2 →
    (f.word 0 = 1 → Goes .mirrorRx s (t.mirrorCreate f)) ∧
    (f.word 0 = 2 → Goes .mirrorRx s (t.mirrorAmend (f.word 1) (f.word 2))) ∧
    (f.word 0 = 3 → Goes .mirrorRx s (t.mirrorResult (f.word 1) (f.word 2))) ∧
    (f.word 0 = 4 → Goes .mirrorRx s (t.mirrorFree (f.word 1))) ∧
    (f.word 0 = 5 → Goes .mirrorRx s (t.mirrorIndex f)) ∧
    (f.word 0 = 6 → Goes .mirrorRx s (t.mirrorModels (f.word 1) (f.word 2) (f.word 3))) ∧
    (f.word 0 = 7 → Goes .mirrorRx s (t.mirrorBuild (f.word 1) (f.word 2))) ∧
    (f.word 0 = 8 → Goes .mirrorRx s { t with twin := { t.twin with peerPar := t.twin.peerPar ++ f.payload.drop 1 } }) ∧
    (f.word 0 = 9 → Goes .mirrorRx s (t.putBit F.TWIN_STAT_SYNCED true)) ∧
    ((f.word 0 = 0 ∨ 9 < f.word 0) → Goes .mirrorRx s t)) ∧
  (∀ (s : State) (f : RzFrame) (id : Nat), Frames s 8 f → id = f.word 0 % 4096 →
    (((s.consume f).role ≠ 1 ∨ (s.bob id).state = .free) → Goes .verdictRx s (s.consume f)) ∧
    (∀ mine, (s.consume f).role = 1 → (s.bob id).state ≠ .free → tget? s.twin.waiting id = some mine →
      Goes .verdictRx s ((s.consume f).crossCheck id mine (verdictOfFrame f))) ∧
    ((s.consume f).role = 1 → (s.bob id).state ≠ .free → tget? s.twin.waiting id = none →
      ((s.bob id).tested = true ∨ (s.bob id).ended = true) → Goes .verdictRx s (s.consume f)) ∧
    ((s.consume f).role = 1 → (s.bob id).state ≠ .free → tget? s.twin.waiting id = none → (s.bob id).tested = false →
      (s.bob id).ended = false → ∃ t, Goes .verdictRx s t ∧ t = { s.consume f with twin := t.twin } ∧
        tget? t.twin.peerHeads id = some (verdictOfFrame f))) ∧
  (∀ (s t : State) (id : Nat) (mine peer : Verdict), mine.cls = peer.cls → mine.conf = peer.conf → mine.amends = peer.amends →
    t = { s with twin := { s.twin with waiting := tdel s.twin.waiting id, peerHeads := tdel s.twin.peerHeads id } } →
    s.crossCheck id mine peer = t.applyVerdict id mine) ∧
  (∀ (s t : State) (b : Fin 4096) (v : Verdict), Live s → tget? s.twin.waiting b.val = some v → s.role = 1 →
    (s.frameWaits 8 fun f => f.word 0 % 4096 == b.val) = false → t = { s with twin := { s.twin with waiting := tdel s.twin.waiting b.val } } →
    Goes (.xcheckWaitExpire b) s ((t.bump F.TWIN_CNT_XCHECK_MISS).applyVerdict b.val v)) ∧
  (∀ (s : State) (b : Fin 4096), Live s → (tget? s.twin.waiting b.val = none ∨ s.role ≠ 1 ∨
    (s.frameWaits 8 fun f => f.word 0 % 4096 == b.val) = true) → Goes (.xcheckWaitExpire b) s s)

/-! ### Resets, firmware, identity and life cycle -/

/-- Causes and release of reset (R302, R387, R409, R425, R443, R452, R466): each cause puts a running device in reset, which leaves
only the cause register, the fuses, the straps and the field die; a reset that a command asks for begins once its DONE no longer
waits for its mailbox or its transmit port; a device in reset is held longer; it is released once nothing holds it, with the
capacity its straps give; the loss of a rail while fuses are burnt leaves what is burnt.
Where the spec leaves a reading open it follows the model's choices of notes/assumptions 6, 33, 113, 165, 206. -/
def Obligations.Resets : Prop :=
  (∀ s : State, Live s → Goes .rstNAssert s (s.enterReset (s.causeAfter 0) { rstN := true }) ∧
    Goes .refclkStop s (s.enterReset (s.causeAfter 0) { refclk := true }) ∧
    Goes .thermalTrip s (s.enterReset (s.reg R.SEC_RESET_CAUSE) { thermal := true }) ∧
    Goes .privateMemoryUe s (s.enterReset (s.causeAfter 3) { timed := true })) ∧
  (∀ s : State, Goes .powerOnReset s (s.losePower.enterReset 0 { rail := true }) ∧
    (Live s → ∃ t, t = s.losePower ∧ Goes .railFault s (t.enterReset (t.causeAfter 0) { rail := true })) ∧
    ((s.boot.transition = none ∨ s.boot.held = true) → s.losePower = s)) ∧
  (∀ s : State, Live s → s.boot.transition ≠ none → ∃ cut : Option BurnCut, s.losePower = (s.cutBurn cut).drawn) ∧
  (∀ s : State, s.cutBurn none = s) ∧
  (∀ s : State, Live s → (s.on F.HOST_STATUS_FW_RUN = true → Goes .mgmtWatchdog s (s.enterReset (s.causeAfter 6) { timed := true })) ∧
    (s.on F.HOST_STATUS_FW_RUN = false → Goes .mgmtWatchdog s s)) ∧
  (∀ s : State, Live s → 
    (∀ c, s.boot.resetDue = some c → s.doneWaits = false →
      Goes .resetBegin s (s.enterReset (s.causeAfter c) { timed := true })) ∧
    ((s.boot.resetDue = none ∨ s.doneWaits = true) → Goes .resetBegin s s)) ∧
  (∀ s : State, (s.placeD2h s.host.resetReply).host.resetReply = []) ∧
  (∀ s : State, s.host.resetReply = [] → s.doneWaits = false) ∧
  (∀ (s : State) (cause : Nat) (h : Holds), ∃ t, s.enterReset cause h = t ∧ t.boot.held = true ∧ t.boot.holds = h ∧
    t.die = s.die ∧ t.fuses = s.fuses ∧ t.straps = s.straps ∧ t.link.session = (s.link.session + 1) % 16 ∧
    t.bobs = [] ∧ t.sched = {} ∧ t.looms = [] ∧ t.host.waiting = [] ∧ t.host.running = [] ∧
    (∀ a, t.mem.good a = false) ∧ (∀ a, a ≠ R.SEC_RESET_CAUSE.addr 0 0 → tget? t.regs a = none) ∧
    t.reg R.SEC_RESET_CAUSE = cause % 2 ^ 32) ∧
  (∀ (s : State) (c : Nat), c < 16 → ((s.enterReset (s.causeAfter c) {}).get F.SEC_RESET_CAUSE_CAUSE = c) ∧
    ((s.enterReset (s.causeAfter c) {}).get F.SEC_RESET_CAUSE_PREV = s.get F.SEC_RESET_CAUSE_CAUSE) ∧
    ((s.enterReset (s.causeAfter c) {}).get F.SEC_RESET_CAUSE_COUNT = (s.get F.SEC_RESET_CAUSE_COUNT + 1) % 256)) ∧
  (∀ (s t : State), s.boot.held = true → t = { s with boot := { s.boot with holds := { s.boot.holds with rstN := true } } } →
    Goes .rstNAssert s t) ∧
  (∀ s : State, s.boot.held = true →
    Goes .railFault s { s with boot := { s.boot with holds := { s.boot.holds with rail := true } } } ∧
    Goes .refclkStop s { s with boot := { s.boot with holds := { s.boot.holds with refclk := true } } } ∧
    Goes .thermalTrip s { s with boot := { s.boot with thermN := false, holds := { s.boot.holds with thermal := true } } } ∧
    Goes .privateMemoryUe s s ∧ Goes .mgmtWatchdog s s ∧ Goes .resetBegin s s) ∧
  (∀ (s : State) (x : Straps), Live s → Goes (.resetRelease x) s s ∧ Goes (.resetHoldEnd x) s s ∧ Goes (.thermalRelease x) s s) ∧
  (∀ (s t : State) (x : Straps), s.boot.held = true → t = { s with boot := { s.boot with holds :=
      { s.boot.holds with rail := false, rstN := false, refclk := false } } } →
    ((s.boot.holds.thermal = true ∨ s.boot.holds.timed = true) → Goes (.resetRelease x) s t) ∧
    (s.boot.holds.thermal = false → s.boot.holds.timed = false → Goes (.resetRelease x) s (t.release x))) ∧
  (∀ (s t : State) (x : Straps), s.boot.held = true → s.boot.holds = { timed := true } →
    t = { s with boot := { s.boot with holds := {} } } → Goes (.resetHoldEnd x) s (t.release x)) ∧
  (∀ (s t : State) (x : Straps), s.boot.held = true → s.boot.holds = { thermal := true } →
    t = { s with boot := { s.boot with holds := {}, thermN := true } } →
    Goes (.thermalRelease x) s ((t.setReg R.SEC_RESET_CAUSE (s.causeAfter 5)).release x)) ∧
  (∀ (s : State) (x : Straps), Live (s.release x) ∧ (s.release x).get F.MEM_DDR_CFG_CAPACITY = strapCapacity x.ddrCfg ∧
    (s.release x).on F.MEM_WIPE_STAT_DDR_DONE = (strapCapacity x.ddrCfg == 0) ∧ (s.release x).mem = s.mem ∧
    (s.release x).straps = x)

/-- The first second and firmware (R410, R411, R413 to R416, R419, R426, R449): the interfaces start, and what waits for a
transmit port goes; a load of a fitting length begins unless firmware runs, which comes first; a verified image starts once the SRAM
is wiped; firmware runs at 750 mV, with FIELD_TABLE_CLEAR the first CFG message where it is due, and loads that wait end; identity,
whose key block has the type codes and I as R412 and R419 give them, and the looms' test lead to READY.
Where the spec leaves a reading open it follows the model's choices of notes/assumptions 31, 121, 166, 167, 168, 229. -/
def Obligations.BootAndFirmware : Prop :=
  (∀ s : State, Live s → Goes .i3cTargetReady s { s with i3c := { s.i3c with ready := true } } ∧
    Goes .ethLanesStart s { s with boot := { s.boot with ethLanes := true } }) ∧
  (∀ s : State, Live s → (s.host.csiReady = true → Goes .hostCsi2Ready s s) ∧
    (s.host.csiReady = false → ∀ t : State, t = { s with host := { s.host with csiReady := true } } →
      Goes .hostCsi2Ready s t.showTxPorts.flushStatus) ∧
    (s.host.csiReady = false → s.host.statusQ = [] → ∃ t, Goes .hostCsi2Ready s t ∧ t.host.csiReady = true ∧
      t.on F.HOST_STATUS_TX0_UP = s.on F.HOST_TX_MAP_TX0_EN ∧
      t.on F.HOST_STATUS_TX1_UP = (s.on F.HOST_STATUS_FW_RUN && s.on F.HOST_TX_MAP_TX1_EN))) ∧
  (∀ (s : State) (src : Source) (c : Cmd), Starts s src 0x0901 c → s.boot.load = none →
    (s.on F.HOST_STATUS_FW_RUN = true → Ends (.cmdFwLoad src) s (s.dropOldest src) src c .badState) ∧
    (s.on F.HOST_STATUS_FW_RUN = false → fwLengthOk (c.p 1) = false → Ends (.cmdFwLoad src) s (s.dropOldest src) src c .badParam) ∧
    (fwLengthOk (c.p 1) = true → s.life = 0x1F → Ends (.cmdFwLoad src) s (s.dropOldest src) src c .badState) ∧
    (src = .h2d → c.bulkEnd = .none → fwLengthOk (c.p 1) = true → s.on F.HOST_STATUS_FW_RUN = false →
      s.life ≠ 0x1F → ∃ t, Begins (.cmdFwLoad src) s t src c ∧ t = { s.dropOldest src with regs := t.regs, boot := t.boot } ∧
        t.on F.SEC_BOOT_LOADING = true ∧ t.on F.SEC_BOOT_VIA_MBX = true ∧
        ∃ l, t.boot.load = some l ∧ l.len = c.p 1 ∧ l.got = []) ∧
    (isCsi src = true → c.bulkLen ≠ c.p 1 → fwLengthOk (c.p 1) = true → s.on F.HOST_STATUS_FW_RUN = false →
      s.life ≠ 0x1F → Ends (.cmdFwLoad src) s (s.dropOldest src) src c .badParam) ∧
    (isCsi src = true → c.bulkLen = c.p 1 → c.bulkEnd = .complete → fwLengthOk (c.p 1) = true →
      s.on F.HOST_STATUS_FW_RUN = false → s.life ≠ 0x1F → ∃ t e,
        Goes (.cmdFwLoad src) s (State.fwComplete ((runs t src c).reply src c .accepted) e c.bulk) ∧ (runs t src c).loadCmd = some e ∧ e.2.tag = c.tag ∧
        t = { s.dropOldest src with regs := t.regs, boot := t.boot } ∧ t.on F.SEC_BOOT_LOADING = true ∧
        t.on F.SEC_BOOT_VIA_MBX = false)) ∧
  (∀ (s : State) (src : Source) (c : Cmd) (l : FwLoad) (e : Source × Cmd), Starts s src 0x0901 c → s.boot.load = some l →
    s.on F.HOST_STATUS_FW_RUN = false → fwLengthOk (c.p 1) = true → s.loadCmd = some e → e.2.bulkEnd = .awaiting →
    Ends (.cmdFwLoad src) s (s.dropOldest src) src c .badState) ∧
  (∀ (s : State) (src : Source) (c : Cmd), Starts s src 0x0902 c → s.boot.load = none →
    Ends (.cmdFwChunk src) s (s.dropOldest src) src c .badState) ∧
  (∀ (s t : State) (src : Source) (c : Cmd) (l m : FwLoad), Starts s src 0x0902 c → s.boot.load = some l → l.src = .h2d →
    s.on F.HOST_STATUS_FW_RUN = false → c.p 1 % 4 = 0 → c.p 1 + (wordsBytes (c.params.drop 1)).length ≤ l.len →
    m = { l with got := takeAt l.got (c.p 1) (wordsBytes (c.params.drop 1)) } →
    t = { s.dropOldest src with boot := { s.boot with load := some m } } →
    Goes (.cmdFwChunk src) s (t.reply src c .done).fwProgress) ∧
  (∀ (s : State) (src : Source) (c : Cmd) (l : FwLoad), Starts s src 0x0902 c → s.boot.load = some l →
    ((l.src ≠ .h2d ∨ s.on F.HOST_STATUS_FW_RUN = true) →
      Goes (.cmdFwChunk src) s (State.reply (s.dropOldest src) src c .badState).fwProgress) ∧
    (l.src = .h2d → s.on F.HOST_STATUS_FW_RUN = false →
      (c.p 1 % 4 ≠ 0 ∨ l.len < c.p 1 + (wordsBytes (c.params.drop 1)).length) →
      Goes (.cmdFwChunk src) s (State.reply (s.dropOldest src) src c .badParam).fwProgress)) ∧
  (∀ (s t : State) (e : Source × Cmd) (bs : List Byte), t = s.endLoad → t.boot.load = none ∧
    (t.fwOk bs = true → s.boot.image = none →
      (s.fwComplete e bs).on F.SEC_BOOT_VERIFIED = true ∧ (s.fwComplete e bs).boot.image = some bs) ∧
    (t.fwOk bs = true → s.boot.image.isSome = true → s.fwComplete e bs = t) ∧
    (t.fwOk bs = false → s.fwComplete e bs = (t.bump F.SEC_BOOT_FAIL).finish e .authFail)) ∧
  (∀ s : State, Live s → (s.boot.image = none ∨ s.boot.started = true ∨ s.on F.MEM_WIPE_STAT_SRAM_DONE = false) →
    Goes .firmwareStart s s) ∧
  (∀ (s t : State) (bs : List Byte), Live s → s.boot.image = some bs → s.boot.started = false →
    s.on F.MEM_WIPE_STAT_SRAM_DONE = true → t = State.setReg { s with boot := { s.boot with started := true } } R.SEC_FW_VERSION
      (bytesNat (slice bs 8 4)) →
    Goes .firmwareStart s ((t.showBytes R.SEC_FW_HASH 8 (Config.sha256 bs)).finishOp 0x0901 .done)) ∧
  (∀ s : State, Live s → s.boot.started = true → s.on F.HOST_STATUS_FW_RUN = false → ∃ t, Goes .fwRun s t ∧
    t.on F.HOST_STATUS_FW_RUN = true ∧ t.on F.HOST_STATUS_BOOT_ROM = false ∧ t.power = { s.power with target := 750 } ∧
    t.mem = s.mem ∧ t.boot.load = none) ∧
  (∀ s : State, s.field.allDue = true → s.field.clearDue = true → s.on F.FIELD_LINK_STAT_UP = true →
    s.on F.HOST_STATUS_FW_RUN = true → s.field.link.resync = false → s.sendAll.field.link.queue.head? = some (.cfg clearIndex 1) ∧
    s.sendAll.field.clearDue = false) ∧
  (∀ s : State, (s.field.allDue = false ∨ s.on F.FIELD_LINK_STAT_UP = false ∨ s.on F.HOST_STATUS_FW_RUN = false ∨
    s.field.link.resync = true) → s.sendAll = s) ∧
  (∀ s : State, Live s → (s.boot.started = false ∨ s.on F.HOST_STATUS_FW_RUN = true) → Goes .fwRun s s) ∧
  (∀ s : State, Live s → (s.on F.HOST_STATUS_FW_RUN = false ∨ s.life = 0 ∨ s.boot.idDone = true) →
    Goes .identityDerived s s) ∧
  (∀ (s t : State), FwUp s → s.life ≠ 0 → s.boot.idDone = false → t = { s with boot := { s.boot with idDone := true } } →
    Goes .identityDerived s (t.showBytes R.SEC_ID_PUB 14 (keyBlock s.idSeed 12)).becomeReady) ∧
  (∀ (seed : List Byte) (h : Nat), (keyBlock seed h).length = 56 ∧ slice (keyBlock seed h) 0 4 = beBytes (lmsType h) ∧
    slice (keyBlock seed h) 4 4 = [0, 0, 0, 3] ∧
    slice (keyBlock seed h) 8 16 = fit 16 (Config.sha256 (seed ++ [0x49]))) ∧
  (∀ s : State, FwUp s → s.on F.MEM_WIPE_STAT_DDR_DONE = true → s.boot.loomTested = false → ∀ t : State,
    t = { s with boot := { s.boot with loomTested := true } } → Goes (.loomStartupTestDone []) s t.becomeReady) ∧
  (∀ (s t : State) (failed : List (Fin 64)), FwUp s → s.on F.MEM_WIPE_STAT_DDR_DONE = true → s.boot.loomTested = false →
    t = s.fenceAll (((List.range 64).filter fun n => failed.any (·.val == n)).map fun n => (n, 3)) →
    Goes (.loomStartupTestDone failed) s (State.becomeReady { t with boot := { t.boot with loomTested := true } })) ∧
  (∀ (s : State) (failed : List (Fin 64)), Live s → (s.on F.HOST_STATUS_FW_RUN = false ∨
    s.on F.MEM_WIPE_STAT_DDR_DONE = false ∨ s.boot.loomTested = true) → Goes (.loomStartupTestDone failed) s s) ∧
  (∀ s : State, s.readyNow = true → s.on F.HOST_STATUS_READY = false → s.becomeReady.on F.HOST_STATUS_READY = true ∧
    s.becomeReady.on F.HOST_IBI_CAUSE_READY = true) ∧
  (∀ s : State, s.readyNow = false → s.becomeReady = s)

/-- Attestation and the life cycle (R55, R317, R420 to R425): opening burns the next session and is refused without one left and
in BLANK and SCRAPPED; evidence is written to its buffer and counted; a transition that is not allowed is refused, and one whose record holds ends
with DONE and a reset due; a record that does not hold is AUTH_FAIL with a fresh nonce; values are burnt before the state, and a
value partly burnt bars every transition but that to SCRAPPED.
Where the spec leaves a reading open it follows the model's choices of notes/assumptions 7, 12, 169, 171, 206. -/
def Obligations.AttestAndLifeCycle : Prop :=
  (∀ (s : State) (src : Source) (c : Cmd), Starts s src 0x0903 c →
    ((s.life = 0 ∨ s.life = 0x1F ∨ s.boot.attestOpen = true) → Ends (.cmdAttestOpen src) s (s.dropOldest src) src c .badState) ∧
    (s.life ≠ 0 → s.life ≠ 0x1F → s.boot.attestOpen = false → 4096 ≤ s.fuses.sessions →
      Ends (.cmdAttestOpen src) s (s.dropOldest src) src c .overflow) ∧
    (s.life ≠ 0 → s.life ≠ 0x1F → s.boot.attestOpen = false → s.fuses.sessions < 4096 → ∃ t, Lasts (.cmdAttestOpen src) s t src c ∧
      t = { s.dropOldest src with regs := t.regs, fuses := t.fuses, boot := { s.boot with attestOpen := true } } ∧
      t.fuses = { s.fuses with sessions := s.fuses.sessions + 1 } ∧ t.get F.SEC_ATTEST_USED = s.fuses.sessions + 1)) ∧
  (∀ (s : State) (e : Source × Cmd), Live s → s.runningCmd 0x0903 = some e → Goes .attestOpenDone s
    (((s.putBit F.SEC_ATTEST_OPEN true).put F.SEC_ATTEST_SESSION (s.fuses.sessions - 1)).finish e .done
      [w32 (s.fuses.sessions - 1)])) ∧
  (∀ s : State, Live s → s.runningCmd 0x0903 = none → Goes .attestOpenDone s s) ∧
  (∀ (s : State) (src : Source) (c : Cmd) (a : Nat), Starts s src 0x0904 c → a = c.p 9 + 2 ^ 32 * bitsOf (c.p 10) 0 8 →
    (s.on F.SEC_ATTEST_OPEN = false → Ends (.cmdAttest src) s (s.dropOldest src) src c .badState) ∧
    (s.on F.SEC_ATTEST_OPEN = true → 32768 ≤ s.get F.SEC_ATTEST_CNT_COUNT →
      Ends (.cmdAttest src) s (s.dropOldest src) src c .overflow) ∧
    (s.on F.SEC_ATTEST_OPEN = true → s.runningCmd 0x0904 = none → s.get F.SEC_ATTEST_CNT_COUNT < 32768 → a % 64 ≠ 0 →
      Ends (.cmdAttest src) s (s.dropOldest src) src c .badParam) ∧
    (s.on F.SEC_ATTEST_OPEN = true → s.runningCmd 0x0904 = none → s.get F.SEC_ATTEST_CNT_COUNT < 32768 → a % 64 = 0 →
      s.bufferRefusal a 5568 = none → Begins (.cmdAttest src) s (s.dropOldest src) src c) ∧
    (∀ st, s.on F.SEC_ATTEST_OPEN = true → s.runningCmd 0x0904 = none → s.get F.SEC_ATTEST_CNT_COUNT < 32768 → a % 64 = 0 →
      s.bufferRefusal a 5568 = some st → Ends (.cmdAttest src) s (s.dropOldest src) src c st)) ∧
  (∀ (s : State) (e : Source × Cmd) (a : Nat), Live s → s.runningCmd 0x0904 = some e →
    a = e.2.p 9 + 2 ^ 32 * bitsOf (e.2.p 10) 0 8 →
    (∀ st, s.bufferRefusal a 5568 = some st → Goes .attestDone s (s.finish e st)) ∧
    (s.bufferRefusal a 5568 = none → Goes .attestDone s
      (((s.writeData a (goodData (s.evidence (e.2.params.take 8) (s.get F.SEC_ATTEST_CNT_COUNT)))).bump
        F.SEC_ATTEST_CNT_COUNT).finish e .done [w32 5560]))) ∧
  (∀ s : State, Live s → s.runningCmd 0x0904 = none → Goes .attestDone s s) ∧
  (∀ (s : State) (src : Source) (c : Cmd), Starts s src 0x0905 c →
    (c.p 1 ∉ lcCodes → Ends (.cmdLcTransition src) s (s.dropOldest src) src c .badParam) ∧
    (c.p 1 ∈ lcCodes → (lcAllowed s.life (c.p 1) = false ∨ s.role ≠ 0 ∨
      (∃ p, p < 8 ∧ s.get F.SCHED_JOB_STATE p ≠ 0) ∨ (s.on F.LC_STATE_FUSE_FAULT = true ∧ c.p 1 ≠ 0x1F)) →
      Ends (.cmdLcTransition src) s (s.dropOldest src) src c .badState) ∧
    (c.p 1 ∈ lcCodes → lcAllowed s.life (c.p 1) = true → (∀ p, p < 8 → s.get F.SCHED_JOB_STATE p = 0) → s.role = 0 →
      (s.on F.LC_STATE_FUSE_FAULT = false ∨ c.p 1 = 0x1F) → Begins (.cmdLcTransition src) s
        { s.dropOldest src with boot := { s.boot with transition := some (src, c.p 1, 256 * c.p 2) } } src c)) ∧
  (∀ (s : State) (src : Source) (b a : Nat) (e : Source × Cmd) (r : State × Data), Live s →
    s.boot.transition = some (src, b, a) → s.runningCmd 0x0905 = some e → s.boot.resetDue ≠ some 2 →
    (∀ st, s.bufferRefusal a 2700 = some st → Goes .lcTransitionDone s (s.lcFails e st)) ∧
    (s.bufferRefusal a 2700 = none → r = s.readData a 2700 →
      (dataGood r.2 = false → Goes .lcTransitionDone s (r.1.lcFails e .poisoned)) ∧
      (dataGood r.2 = true →
        if r.1.recordOk (dataBytes r.2) b = true then
          (r.1.newNonce.fuses.torn = true → b ≠ 0x1F →
            Goes .lcTransitionDone s ((r.1.newNonce.putBit F.LC_STATE_FUSE_FAULT true).lcFails e .badState)) ∧
          ∀ u v : State, (r.1.newNonce.fuses.torn = false ∨ b = 0x1F) → u = r.1.newNonce.burnFuses b (dataBytes r.2) →
            v = { u with boot := { u.boot with resetDue := none, lcNext := true } } →
            Goes .lcTransitionDone s ((v.resetAfter 2 e.2).finish e .done)
        else Goes .lcTransitionDone s (r.1.newNonce.lcFails e .authFail)))) ∧
  (∀ s : State, Live s → (s.boot.transition = none ∨ s.boot.resetDue = some 2) → Goes .lcTransitionDone s s) ∧
  (∀ (s : State) (b : Nat) (bs : List Byte), s.fuses.life ∈ lcCodes → lcAllowed s.fuses.life b = true →
    (s.burnFuses b bs).fuses.life = b ∧ (s.burnFuses b bs).mem = s.mem) ∧
  (∀ (s : State) (b : Nat) (bs : List Byte) (k : BurnCut), (b = 0x01 ∨ b = 0x1F) → k.fields ≤ 2 →
    (s.burnFuses b bs k).fuses.life = s.fuses.life) ∧
  (∀ (s : State) (bs : List Byte) (k : BurnCut), (k.fields ≤ 3 → (s.burnFuses 0x03 bs k).fuses.life = s.fuses.life) ∧
    (3 ≤ k.fields → s.fuses.ownerSeed.written = false → s.fuses.ownerAuth.written = false → s.fuses.modelKey.written = false →
      (s.burnFuses 0x03 bs k).fuses.ownerSeed.written = true ∧ (s.burnFuses 0x03 bs k).fuses.ownerAuth.written = true ∧
      (s.burnFuses 0x03 bs k).fuses.modelKey.written = true)) ∧
  (∀ (s : State) (b : Nat) (bs : List Byte) (k : BurnCut), (b = 0x07 ∨ b = 0x0F) →
    (∃ u, u = s.burnFuses b bs k ∧ u = { s with fuses := { s.fuses with lifeA := u.fuses.lifeA, lifeB := u.fuses.lifeB } }) ∧
    (k.fields = 0 → s.burnFuses b bs k = s) ∧
    (1 ≤ k.fields → (s.burnFuses b bs k).fuses.lifeA = Nat.lor s.fuses.lifeA b) ∧
    (2 ≤ k.fields → (s.burnFuses b bs k).fuses.lifeB = Nat.lor s.fuses.lifeB b)) ∧
  (∀ (s : State) (c : Cmd), (s.resetAfter 2 c).host.resetReply = (if c.quiet then [] else statusPacket c.tag .done [])) ∧
  (∀ a b : Nat, lcAllowed a b = true → a ≠ 0x1F)
end

