-- ==== Sys2Proof/Laws/FieldWire.lean ====
section
/-! SUPPORT. A frame of the field link whose line inverts no bit is taken as it was sent (R332). -/

namespace Sys2Proof.Machine

/-- Without an inverted bit the receiver finds the payload, under its CRC. -/
theorem receiveOver_zero (x : BitVec 64) : receiveOver x 0 = some x := by
  have plain : ∀ q : BitVec 80, (frameBits x ^^^ 0#80) ^^^ q = frameBits x ^^^ q := by simp
  have bits : frameBits x ^^^ scrambleSeq = (x.zeroExtend 80 <<< 16 ||| (crc16 x).zeroExtend 80) := by
    rw [frameBits, BitVec.xor_assoc, BitVec.xor_self, BitVec.xor_zero]
  have high : (x.zeroExtend 80 <<< 16 ||| (crc16 x).zeroExtend 80).extractLsb' 16 64 = x := by
    apply BitVec.eq_of_getLsbD_eq
    intro i hi
    have far : ¬ 16 + i < 16 := by omega
    simp only [BitVec.getLsbD_extractLsb', BitVec.getLsbD_or, BitVec.getLsbD_shiftLeft, BitVec.getLsbD_setWidth,
      BitVec.getLsbD_of_ge (crc16 x) (16 + i) (by omega), far]
    simp [hi, show 16 + i < 80 by omega, show i < 80 by omega]
  have low : (x.zeroExtend 80 <<< 16 ||| (crc16 x).zeroExtend 80).extractLsb' 0 16 = crc16 x := by
    apply BitVec.eq_of_getLsbD_eq
    intro i hi
    simp only [BitVec.getLsbD_extractLsb', BitVec.getLsbD_or, BitVec.getLsbD_shiftLeft, BitVec.getLsbD_setWidth,
      BitVec.zeroExtend_eq_setWidth, Nat.zero_add]
    simp [hi, show i < 80 by omega]
  show receivePayload (frameBits x ^^^ 0#80) = some x
  simp only [receivePayload, plain, bits, high, low, if_true]

/-- An upstream frame arrives as it was sent. -/
theorem received_up_zero (f : UpFrame) (now : Nat) : f.received now 0 = some f := by
  rw [UpFrame.received, receiveOver_zero]; simp [UpFrame.ofPayload]

end Sys2Proof.Machine
end

