-- ==== Sys2Proof/Laws/Tables.lean ====
section
/-! SUPPORT. Laws of the sparse tables, of bit fields and of the folds: what a table answers after a write, and that every
operation keeps its keys rising. -/

namespace Sys2Proof.Machine

variable {α σ : Type}

/-! ### What a table answers -/

@[simp] theorem tget?_nil (k : Nat) : tget? ([] : Tbl α) k = none := rfl

theorem tget?_tset (t : Tbl α) (k j : Nat) (v : α) : tget? (tset t k v) j = if j = k then some v else tget? t j := by
  induction t with
  | nil => simp [tset, tget?]
  | cons e t ih =>
    obtain ⟨i, w⟩ := e
    simp only [tset]
    split_ifs with h1 h2 <;> simp only [tget?] <;> split_ifs <;> simp_all

@[simp] theorem tget?_tset_same (t : Tbl α) (k : Nat) (v : α) : tget? (tset t k v) k = some v := by simp [tget?_tset]

theorem tget?_tset_other (t : Tbl α) {k j : Nat} (v : α) (h : j ≠ k) : tget? (tset t k v) j = tget? t j := by
  simp [tget?_tset, h]

@[simp] theorem tgetD_tset_same (t : Tbl α) (k : Nat) (v d : α) : tgetD (tset t k v) k d = v := by simp [tgetD]

theorem tgetD_tset_other (t : Tbl α) {k j : Nat} (v d : α) (h : j ≠ k) : tgetD (tset t k v) j d = tgetD t j d := by
  simp [tgetD, tget?_tset, h]

theorem tget?_tdel_other (t : Tbl α) {k j : Nat} (h : j ≠ k) : tget? (tdel t k) j = tget? t j := by
  induction t with
  | nil => rfl
  | cons e t ih =>
    obtain ⟨i, w⟩ := e
    simp only [tdel]
    split_ifs with h1 <;> simp only [tget?] <;> split_ifs <;> simp_all

/-! ### Keys stay rising -/

theorem tsortedFrom_mono {t : Tbl α} {a b : Nat} (h : tsortedFrom b t = true) (hab : a ≤ b) : tsortedFrom a t = true := by
  cases t with
  | nil => rfl
  | cons e t => simp only [tsortedFrom, Bool.and_eq_true, decide_eq_true_eq] at h ⊢; exact ⟨by omega, h.2⟩

theorem tget?_of_tsortedFrom {t : Tbl α} {a k : Nat} (h : tsortedFrom a t = true) (hk : k < a) : tget? t k = none := by
  induction t generalizing a with
  | nil => rfl
  | cons e t ih =>
    simp only [tsortedFrom, Bool.and_eq_true, decide_eq_true_eq] at h
    simp only [tget?]
    rw [if_neg (by omega)]
    exact ih h.2 (by omega)

theorem tsortedFrom_tset {t : Tbl α} {a k : Nat} (v : α) (h : tsortedFrom a t = true) (hk : a ≤ k) :
    tsortedFrom a (tset t k v) = true := by
  induction t generalizing a with
  | nil => simp [tset, tsortedFrom, hk]
  | cons e t ih =>
    obtain ⟨i, w⟩ := e
    simp only [tsortedFrom, Bool.and_eq_true, decide_eq_true_eq] at h
    simp only [tset]
    split_ifs with h1 h2
    · simp [tsortedFrom, hk, h.2, Nat.succ_le_of_lt h1]
    · subst h2; simp [tsortedFrom, hk, h.2]
    · simp only [tsortedFrom, Bool.and_eq_true, decide_eq_true_eq]
      exact ⟨h.1, ih h.2 (by omega)⟩

/-- A write keeps the keys rising. -/
theorem tsorted_tset {t : Tbl α} (k : Nat) (v : α) (h : tsorted t = true) : tsorted (tset t k v) = true :=
  tsortedFrom_tset v h (Nat.zero_le k)

theorem tsortedFrom_tdel {t : Tbl α} {a : Nat} (k : Nat) (h : tsortedFrom a t = true) : tsortedFrom a (tdel t k) = true := by
  induction t generalizing a with
  | nil => rfl
  | cons e t ih =>
    obtain ⟨i, w⟩ := e
    simp only [tsortedFrom, Bool.and_eq_true, decide_eq_true_eq] at h
    simp only [tdel]
    split_ifs with h1
    · exact tsortedFrom_mono h.2 (by omega)
    · simp only [tsortedFrom, Bool.and_eq_true, decide_eq_true_eq]; exact ⟨h.1, ih h.2⟩

/-- A removal keeps the keys rising. -/
theorem tsorted_tdel {t : Tbl α} (k : Nat) (h : tsorted t = true) : tsorted (tdel t k) = true := tsortedFrom_tdel k h

theorem tsortedFrom_filter {t : Tbl α} {a : Nat} (p : Nat × α → Bool) (h : tsortedFrom a t = true) :
    tsortedFrom a (t.filter p) = true := by
  induction t generalizing a with
  | nil => rfl
  | cons e t ih =>
    simp only [tsortedFrom, Bool.and_eq_true, decide_eq_true_eq] at h
    by_cases hp : p e = true
    · simp only [List.filter, hp, tsortedFrom, Bool.and_eq_true, decide_eq_true_eq]; exact ⟨h.1, ih h.2⟩
    · simp only [List.filter, hp]; exact tsortedFrom_mono (ih h.2) (by omega)

/-- A selection of entries keeps the keys rising. -/
theorem tsorted_filter {t : Tbl α} (p : Nat × α → Bool) (h : tsorted t = true) : tsorted (t.filter p) = true :=
  tsortedFrom_filter p h

/-- A removed key is no longer listed. -/
theorem tget?_tdel_same {t : Tbl α} {k : Nat} (h : tsorted t = true) : tget? (tdel t k) k = none := by
  suffices ∀ a, tsortedFrom a t = true → tget? (tdel t k) k = none from this 0 h
  clear h
  induction t with
  | nil => intro _ _; rfl
  | cons e t ih =>
    obtain ⟨i, w⟩ := e
    intro a h
    simp only [tsortedFrom, Bool.and_eq_true, decide_eq_true_eq] at h
    simp only [tdel]
    split_ifs with h1
    · exact tget?_of_tsortedFrom h.2 (by omega)
    · simp only [tget?]; rw [if_neg h1]; exact ih _ h.2

/-! ### Folds -/

@[simp] theorem foldState_nil (f : σ → α → σ) (s : σ) : foldState f s [] = s := rfl
@[simp] theorem foldState_cons (f : σ → α → σ) (s : σ) (a : α) (t : List α) :
    foldState f s (a :: t) = foldState f (f s a) t := rfl

/-- What each step of a fold keeps, the fold keeps. -/
theorem foldState_keeps {f : σ → α → σ} {P : σ → Prop} (h : ∀ s a, P s → P (f s a)) {s : σ} (hs : P s) (l : List α) :
    P (foldState f s l) := by
  induction l generalizing s with
  | nil => exact hs
  | cons a t ih => exact ih (h s a hs)

/-- What each repetition keeps, all of them keep. -/
theorem timesFrom_keeps {f : σ → Nat → σ} {P : σ → Prop} (h : ∀ s i, P s → P (f s i)) {s : σ} (hs : P s) (n i : Nat) :
    P (timesFrom f n i s) := by
  induction n generalizing s i with
  | zero => exact hs
  | succ n ih => exact ih (h s i hs) (i + 1)

/-- A view of the state that each step of a fold leaves alone, the fold leaves alone. -/
theorem foldState_view {β : Type} {f : σ → α → σ} {v : σ → β} (h : ∀ s a, v (f s a) = v s) (s : σ) (l : List α) :
    v (foldState f s l) = v s := by
  induction l generalizing s with
  | nil => rfl
  | cons a t ih => rw [foldState_cons, ih, h]

/-- A view of the state that each repetition leaves alone, all of them leave alone. -/
theorem timesFrom_view {β : Type} {f : σ → Nat → σ} {v : σ → β} (h : ∀ s i, v (f s i) = v s) (s : σ) (n i : Nat) :
    v (timesFrom f n i s) = v s := by
  induction n generalizing s i with
  | zero => rfl
  | succ n ih => rw [timesFrom, ih, h]

/-! ### Bit fields -/

theorem bitsOf_lt (x lo w : Nat) : bitsOf x lo w < 2 ^ w := Nat.mod_lt _ (Nat.two_pow_pos w)

theorem bitAt_eq_testBit (x i : Nat) : bitAt x i = x.testBit i := by
  rw [bitAt, Nat.testBit_eq_decide_div_mod_eq]; rfl

theorem testBit_bitsOf (x lo w i : Nat) : (bitsOf x lo w).testBit i = (decide (i < w) && x.testBit (lo + i)) := by
  simp [bitsOf, Nat.testBit_mod_two_pow, Nat.testBit_div_two_pow, Nat.add_comm]

theorem testBit_setBits (x lo w v i : Nat) :
    (setBits x lo w v).testBit i = if lo ≤ i ∧ i < lo + w then v.testBit (i - lo) else x.testBit i := by
  have e : setBits x lo w v = 2 ^ (lo + w) * (x / 2 ^ (lo + w)) + (2 ^ lo * (v % 2 ^ w) + x % 2 ^ lo) := by
    unfold setBits; ring
  have h1 : x % 2 ^ lo < 2 ^ lo := Nat.mod_lt _ (Nat.two_pow_pos _)
  have h2 : 2 ^ lo * (v % 2 ^ w) + x % 2 ^ lo < 2 ^ (lo + w) := by
    have hv : v % 2 ^ w + 1 ≤ 2 ^ w := Nat.mod_lt _ (Nat.two_pow_pos _)
    calc 2 ^ lo * (v % 2 ^ w) + x % 2 ^ lo < 2 ^ lo * (v % 2 ^ w) + 2 ^ lo := by omega
      _ = 2 ^ lo * (v % 2 ^ w + 1) := by ring
      _ ≤ 2 ^ lo * 2 ^ w := Nat.mul_le_mul_left _ hv
      _ = 2 ^ (lo + w) := by rw [Nat.pow_add]
  rw [e, Nat.testBit_two_pow_mul_add _ h2, Nat.testBit_two_pow_mul_add _ h1]
  split_ifs with a b c c d <;> simp_all [Nat.testBit_mod_two_pow, Nat.testBit_div_two_pow] <;> omega

/-- A field reads as written, cut to its width. -/
theorem bitsOf_setBits_same (x lo w v : Nat) : bitsOf (setBits x lo w v) lo w = v % 2 ^ w := by
  apply Nat.eq_of_testBit_eq; intro i
  rw [testBit_bitsOf, testBit_setBits, Nat.testBit_mod_two_pow]
  by_cases h : i < w <;> simp [h]

/-- A field that does not overlap the written one keeps its value. -/
theorem bitsOf_setBits_other (x lo w v lo' w' : Nat) (h : lo' + w' ≤ lo ∨ lo + w ≤ lo') :
    bitsOf (setBits x lo w v) lo' w' = bitsOf x lo' w' := by
  apply Nat.eq_of_testBit_eq; intro i
  rw [testBit_bitsOf, testBit_bitsOf, testBit_setBits]
  by_cases hi : i < w'
  · rw [if_neg (by omega)]
  · simp [hi]

end Sys2Proof.Machine
end

