-- ==== Sys2Proof/Laws/LineCode.lean ====
section
/-! SUPPORT. The line code of the Ranoz link reads back what it sends: the scrambler, the inserted bits and the units of
fallback coding (R386), and the symbols of a frame (R390, R392). -/

namespace Sys2Proof.Machine

/-! ### Fallback coding -/

/-- Descrambling from the same past undoes scrambling. -/
theorem descramble_scramble (l : List Bool) : ∀ h : BitVec 58, descramble h (scramble h l) = l := by
  induction l with
  | nil => intro h; rfl
  | cons b t ih =>
    intro h
    simp only [scramble, descramble, ih]
    cases b <;> cases feedback h <;> rfl

/-- Removing bits undoes inserting them, from a run that is shorter than 31. -/
theorem removeBits_insertBits (l : List Bool) :
    ∀ (last : Bool) (run : Nat), removeBits last run false (insertBits last run l) = l := by
  induction l with
  | nil => intro last run; rfl
  | cons b t ih =>
    intro last run
    by_cases h : runWith last run b = 31
    · simp [insertBits, removeBits, h, ih]
    · simp [insertBits, removeBits, h, ih]

/-- Bit `i` of a byte as a number. -/
theorem bit_getLsbD (b : Byte) (i : Nat) : bit (b.getLsbD i) = b.toNat / 2 ^ i % 2 := by
  rw [BitVec.getLsbD, ← bitAt_eq_testBit]
  rcases Nat.mod_two_eq_zero_or_one (b.toNat / 2 ^ i) with h | h <;> simp [bitAt, bit, h]

/-- A byte is read back from its bits. -/
theorem byteOf_bits (b : Byte) : byteOf ((List.range 8).map b.getLsbD) = b := by
  apply BitVec.eq_of_toNat_eq
  have e : List.range 8 = [0, 1, 2, 3, 4, 5, 6, 7] := rfl
  have h : b.toNat < 2 ^ 8 := b.isLt
  simp only [byteOf, e, List.map_cons, List.map_nil, List.foldr_cons, List.foldr_nil, bit_getLsbD, BitVec.toNat_ofNat]
  omega

/-- The unit of a symbol is read back, whatever follows it. -/
theorem unitSyms_unit (x : Sym) (t : List Bool) : unitSyms (symUnit x ++ t) = x :: unitSyms t := by
  have e : List.range 8 = [0, 1, 2, 3, 4, 5, 6, 7] := rfl
  cases x with
  | data b =>
    have h := byteOf_bits b
    simp only [symUnit, e, List.map_cons, List.map_nil, List.cons_append, List.nil_append, unitSyms, Bool.false_eq_true,
      if_false] at h ⊢
    rw [h]
  | control b =>
    have h := byteOf_bits b
    simp only [symUnit, e, List.map_cons, List.map_nil, List.cons_append, List.nil_append, unitSyms, if_true] at h ⊢
    rw [h]

/-- The units of symbols are read back. -/
theorem unitSyms_units (l : List Sym) : unitSyms (l.flatMap symUnit) = l := by
  induction l with
  | nil => rfl
  | cons x t ih => rw [List.flatMap_cons, unitSyms_unit, ih]

/-- A lane's symbols are read back from its line, whatever stood on it before. -/
theorem laneSyms_laneLine (h : BitVec 58) (last : Bool) (run : Nat) (l : List Sym) :
    laneSyms { past := h, last := last, run := run, bits := laneLine h last run l } = l := by
  simp [laneSyms, laneLine, removeBits_insertBits, descramble_scramble, unitSyms_units]

/-! ### Frames -/

theorem bytesWord_wordBytes (w : Word) (t : List Byte) : bytesWord (wordBytes w ++ t) = w := by
  apply BitVec.eq_of_toNat_eq
  have h : w.toNat < 2 ^ 32 := w.isLt
  simp only [bytesWord, wordBytes, List.cons_append, List.nil_append, List.take_succ_cons, List.take_zero, bytesNat,
    BitVec.extractLsb'_toNat, BitVec.toNat_ofNat, Nat.shiftRight_eq_div_pow]
  omega

theorem bytesWords_wordsBytes (ws : List Word) : bytesWords (wordsBytes ws) = ws := by
  induction ws with
  | nil => rfl
  | cons w t ih =>
    have h := bytesWord_wordBytes w []
    simp only [wordsBytes, List.flatMap_cons, List.append_nil, wordBytes, List.cons_append, List.nil_append, bytesWords] at h ih ⊢
    rw [h, ih]

theorem length_wordsBytes (ws : List Word) : (wordsBytes ws).length = 4 * ws.length := by
  induction ws with
  | nil => rfl
  | cons w t ih => simp only [wordsBytes, List.flatMap_cons, List.length_append, List.length_cons] at ih ⊢; rw [ih]; simp [wordBytes]; omega

theorem mapIdx_const {α β : Type} (g : α → β) (l : List α) : l.mapIdx (fun _ b => g b) = l.map g := by
  apply List.ext_getElem <;> simp

/-- A frame without poison marks sends its bytes as data symbols. -/
theorem symbols_plain (f : RzFrame) (ack : Nat) (h : f.poison = []) (he : f.payload.length % 2 = 0) :
    f.symbols ack = (f.header ack ++ wordsBytes f.payload ++
      wordBytes (crc32c (f.header ack ++ wordsBytes f.payload)) ++ [0, 0, 0, 0]).map Sym.data := by
  have b : f.body = wordsBytes f.payload := by
    simp only [RzFrame.body, h, he, List.contains_nil, Bool.false_eq_true, if_false, Nat.mul_zero, List.replicate_zero, List.append_nil]
    rw [mapIdx_const (fun b => b), List.map_id']
  simp only [RzFrame.symbols, b, h, List.contains_nil, Bool.false_eq_true, and_false, if_false]
  rw [mapIdx_const, List.append_assoc (f.header ack ++ wordsBytes f.payload)]

/-- What a receiver reads in data symbols alone. -/
theorem readFrame_data (bs : List Byte) : readFrame ((bs.map Sym.data).map some) =
    { kind := bitsOf (bytesWord bs).toNat 0 4, vl := bitsOf (bytesWord bs).toNat 4 2, seq := bitsOf (bytesWord bs).toNat 8 12
      ack := bitsOf (bytesWord bs).toNat 20 12, nak := bitAt (bytesWord (bs.drop 4)).toNat 10
      crcOk := bs.length == 16 + 8 * frameLen bs + 8 &&
        bytesWord (bs.drop (16 + 8 * frameLen bs)) == crc32c (bs.take (16 + 8 * frameLen bs)) &&
        0 == bitsOf (bytesWord (bs.drop 4)).toNat 16 8
      payload := bytesWords ((bs.take (16 + 8 * frameLen bs)).drop 16), poison := [] } := by
  have u : unpadded ((bs.map Sym.data).map some) = (bs.map Sym.data).map some := by
    have k : ∀ l : List Byte, (((l.map Sym.data).map some).dropWhile fun o => o == some idleSym) = (l.map Sym.data).map some := by
      intro l
      cases l with
      | nil => rfl
      | cons a t => rfl
    rw [unpadded, ← List.map_reverse, ← List.map_reverse, k]
    simp
  have y : ((bs.map Sym.data).map some).map symByte = bs := by simp [List.map_map, Function.comp_def, symByte]
  have e : ∀ i, ((bs.map Sym.data).map some).getD i none = (bs[i]?).map Sym.data := by
    intro i
    simp only [List.getD_eq_getElem?_getD, List.getElem?_map]
    cases bs[i]? <;> rfl
  have m : ((List.range ((bs.map Sym.data).map some).length).filter fun i =>
      ((bs.map Sym.data).map some).getD i none == some poisonSym) = [] := by
    rw [List.filter_eq_nil_iff]
    intro i _
    rw [e]
    cases bs[i]? <;> simp [poisonSym]
  have p : ((List.range ((bs.map Sym.data).map some).length).all fun i =>
      plainSym (((bs.map Sym.data).map some).getD i none)) = true := by
    rw [List.all_eq_true]
    intro i hi
    have hl : i < bs.length := by simpa using hi
    rw [e, List.getElem?_eq_getElem hl]
    rfl
  have c : codeErrors ((bs.map Sym.data).map some) = [] := by
    rw [codeErrors, u, y]
    simp only [List.map_eq_nil_iff, List.filter_eq_nil_iff]
    rintro ⟨i, o⟩ ho
    simp only [List.mem_mapIdx, List.length_map, List.getElem_map, Prod.mk.injEq] at ho
    obtain ⟨j, hj, rfl, rfl⟩ := ho
    simp [codeError]
  simp only [readFrame, u, y, m, p, c]
  simp

/-- A frame without poison marks reads back as it was sent. -/
theorem readFrame_symbols (f : RzFrame) (ack : Nat) (hk : f.kind < 16) (hv : f.vl < 4) (hs : f.seq < 4096) (ha : ack < 4096)
    (he : f.payload.length % 2 = 0) (hl : f.payload.length < 2048) (hp : f.poison = []) :
    readFrame ((f.symbols ack).map some) =
      { kind := f.kind, vl := f.vl, seq := f.seq, ack := ack, nak := f.nak, crcOk := true, payload := f.payload } := by
  rw [symbols_plain f ack hp he, readFrame_data]
  have w0 : (w32 (f.kind % 16 + 2 ^ 4 * (f.vl % 4) + 2 ^ 8 * (f.seq % 4096) + 2 ^ 20 * (ack % 4096))).toNat =
      f.kind + 2 ^ 4 * f.vl + 2 ^ 8 * f.seq + 2 ^ 20 * ack := by
    simp only [w32, BitVec.toNat_ofNat]; omega
  have w1 : (w32 (ceilDiv f.payload.length 2 + 2 ^ 10 * bit f.nak + 2 ^ 16 * (f.poison.length % 256))).toNat =
      f.payload.length / 2 + 2 ^ 10 * bit f.nak := by
    have hb : bit f.nak < 2 := by cases f.nak <;> decide
    simp only [w32, BitVec.toNat_ofNat, ceilDiv, hp, List.length_nil]; omega
  have hd : f.header ack = wordBytes (w32 (f.kind % 16 + 2 ^ 4 * (f.vl % 4) + 2 ^ 8 * (f.seq % 4096) + 2 ^ 20 * (ack % 4096))) ++
      (wordBytes (w32 (ceilDiv f.payload.length 2 + 2 ^ 10 * bit f.nak + 2 ^ 16 * (f.poison.length % 256))) ++
        List.replicate 8 0) := by
    simp [RzFrame.header, wordsBytes, wordBytes, List.replicate]
  have ll : (f.header ack).length = 16 := by rw [hd]; simp [wordBytes]
  generalize hf : f.header ack ++ wordsBytes f.payload = front
  have lf : front.length = 16 + 4 * f.payload.length := by rw [← hf, List.length_append, ll, length_wordsBytes]
  have r0 : bytesWord (front ++ wordBytes (crc32c front) ++ [0, 0, 0, 0]) =
      w32 (f.kind % 16 + 2 ^ 4 * (f.vl % 4) + 2 ^ 8 * (f.seq % 4096) + 2 ^ 20 * (ack % 4096)) := by
    rw [← hf, hd]; simp only [List.append_assoc]; rw [bytesWord_wordBytes]
  have r1 : bytesWord ((front ++ wordBytes (crc32c front) ++ [0, 0, 0, 0]).drop 4) =
      w32 (ceilDiv f.payload.length 2 + 2 ^ 10 * bit f.nak + 2 ^ 16 * (f.poison.length % 256)) := by
    rw [← hf, hd]; simp only [List.append_assoc]
    rw [List.drop_append_of_le_length (by simp [wordBytes]), List.drop_of_length_le (by simp [wordBytes]), List.nil_append,
      bytesWord_wordBytes]
  have hb : bit f.nak < 2 := by cases f.nak <;> decide
  have n : 16 + 8 * frameLen (front ++ wordBytes (crc32c front) ++ [0, 0, 0, 0]) = front.length := by
    rw [frameLen, r1, w1, lf]; simp only [bitsOf]; omega
  rw [n, r0, r1, w0, w1]
  have d : (front ++ wordBytes (crc32c front) ++ [0, 0, 0, 0]).drop front.length = wordBytes (crc32c front) ++ [0, 0, 0, 0] := by
    rw [List.append_assoc, List.drop_left]
  have k : (front ++ wordBytes (crc32c front) ++ [0, 0, 0, 0]).take front.length = front := by
    rw [List.append_assoc, List.take_left]
  have pl : front.drop 16 = wordsBytes f.payload := by rw [← hf, ← ll, List.drop_left]
  have c : ((front ++ wordBytes (crc32c front) ++ [0, 0, 0, 0]).length == front.length + 8) = true := by simp [wordBytes]
  have nk : bitAt (f.payload.length / 2 + 2 ^ 10 * bit f.nak) 10 = f.nak := by
    rw [bitAt, show (f.payload.length / 2 + 2 ^ 10 * bit f.nak) / 2 ^ 10 % 2 = bit f.nak by omega]; cases f.nak <;> rfl
  rw [d, k, c, pl, bytesWord_wordBytes, bytesWords_wordsBytes, nk]
  congr 1
  · simp only [bitsOf]; omega
  · simp only [bitsOf]; omega
  · simp only [bitsOf]; omega
  · simp only [bitsOf]; omega
  · simp only [bitsOf, BEq.rfl, Bool.true_and]
    simp only [beq_iff_eq]; omega

end Sys2Proof.Machine
end

