-- ==== Sys2Proof/Laws/State.lean ====
section
/-! SUPPORT. What each plain update of the state leaves alone, one lemma per field per update, and what it answers for the
part that it changes. -/

namespace Sys2Proof.Machine

/-! ### A register: `State.setReg` -/

@[simp] theorem State.setReg_latch (s : State) (r : Reg) (v i j : Nat) : (s.setReg r v i j).latch = s.latch := rfl
@[simp] theorem State.setReg_mem (s : State) (r : Reg) (v i j : Nat) : (s.setReg r v i j).mem = s.mem := rfl
@[simp] theorem State.setReg_fills (s : State) (r : Reg) (v i j : Nat) : (s.setReg r v i j).fills = s.fills := rfl
@[simp] theorem State.setReg_scrub (s : State) (r : Reg) (v i j : Nat) : (s.setReg r v i j).scrub = s.scrub := rfl
@[simp] theorem State.setReg_i3c (s : State) (r : Reg) (v i j : Nat) : (s.setReg r v i j).i3c = s.i3c := rfl
@[simp] theorem State.setReg_host (s : State) (r : Reg) (v i j : Nat) : (s.setReg r v i j).host = s.host := rfl
@[simp] theorem State.setReg_boot (s : State) (r : Reg) (v i j : Nat) : (s.setReg r v i j).boot = s.boot := rfl
@[simp] theorem State.setReg_fuses (s : State) (r : Reg) (v i j : Nat) : (s.setReg r v i j).fuses = s.fuses := rfl
@[simp] theorem State.setReg_straps (s : State) (r : Reg) (v i j : Nat) : (s.setReg r v i j).straps = s.straps := rfl
@[simp] theorem State.setReg_snap (s : State) (r : Reg) (v i j : Nat) : (s.setReg r v i j).snap = s.snap := rfl
@[simp] theorem State.setReg_time (s : State) (r : Reg) (v i j : Nat) : (s.setReg r v i j).time = s.time := rfl
@[simp] theorem State.setReg_link (s : State) (r : Reg) (v i j : Nat) : (s.setReg r v i j).link = s.link := rfl
@[simp] theorem State.setReg_die (s : State) (r : Reg) (v i j : Nat) : (s.setReg r v i j).die = s.die := rfl
@[simp] theorem State.setReg_field (s : State) (r : Reg) (v i j : Nat) : (s.setReg r v i j).field = s.field := rfl
@[simp] theorem State.setReg_cams (s : State) (r : Reg) (v i j : Nat) : (s.setReg r v i j).cams = s.cams := rfl
@[simp] theorem State.setReg_pipes (s : State) (r : Reg) (v i j : Nat) : (s.setReg r v i j).pipes = s.pipes := rfl
@[simp] theorem State.setReg_rules (s : State) (r : Reg) (v i j : Nat) : (s.setReg r v i j).rules = s.rules := rfl
@[simp] theorem State.setReg_bobs (s : State) (r : Reg) (v i j : Nat) : (s.setReg r v i j).bobs = s.bobs := rfl
@[simp] theorem State.setReg_lastBob (s : State) (r : Reg) (v i j : Nat) : (s.setReg r v i j).lastBob = s.lastBob := rfl
@[simp] theorem State.setReg_intake (s : State) (r : Reg) (v i j : Nat) : (s.setReg r v i j).intake = s.intake := rfl
@[simp] theorem State.setReg_looms (s : State) (r : Reg) (v i j : Nat) : (s.setReg r v i j).looms = s.looms := rfl
@[simp] theorem State.setReg_sched (s : State) (r : Reg) (v i j : Nat) : (s.setReg r v i j).sched = s.sched := rfl
@[simp] theorem State.setReg_twin (s : State) (r : Reg) (v i j : Nat) : (s.setReg r v i j).twin = s.twin := rfl
@[simp] theorem State.setReg_power (s : State) (r : Reg) (v i j : Nat) : (s.setReg r v i j).power = s.power := rfl
@[simp] theorem State.setReg_tdcSeen (s : State) (r : Reg) (v i j : Nat) : (s.setReg r v i j).tdcSeen = s.tdcSeen := rfl
@[simp] theorem State.setReg_fenceDue (s : State) (r : Reg) (v i j : Nat) : (s.setReg r v i j).fenceDue = s.fenceDue := rfl
@[simp] theorem State.setReg_splits (s : State) (r : Reg) (v i j : Nat) : (s.setReg r v i j).splits = s.splits := rfl
@[simp] theorem State.setReg_copies (s : State) (r : Reg) (v i j : Nat) : (s.setReg r v i j).copies = s.copies := rfl
@[simp] theorem State.setReg_freeUse (s : State) (r : Reg) (v i j : Nat) : (s.setReg r v i j).freeUse = s.freeUse := rfl
@[simp] theorem State.setReg_pending (s : State) (r : Reg) (v i j : Nat) : (s.setReg r v i j).pending = s.pending := rfl

/-! ### A field of a register: `State.put` -/

@[simp] theorem State.put_latch (s : State) (f : Fld) (v i j : Nat) : (s.put f v i j).latch = s.latch := rfl
@[simp] theorem State.put_mem (s : State) (f : Fld) (v i j : Nat) : (s.put f v i j).mem = s.mem := rfl
@[simp] theorem State.put_fills (s : State) (f : Fld) (v i j : Nat) : (s.put f v i j).fills = s.fills := rfl
@[simp] theorem State.put_scrub (s : State) (f : Fld) (v i j : Nat) : (s.put f v i j).scrub = s.scrub := rfl
@[simp] theorem State.put_i3c (s : State) (f : Fld) (v i j : Nat) : (s.put f v i j).i3c = s.i3c := rfl
@[simp] theorem State.put_host (s : State) (f : Fld) (v i j : Nat) : (s.put f v i j).host = s.host := rfl
@[simp] theorem State.put_boot (s : State) (f : Fld) (v i j : Nat) : (s.put f v i j).boot = s.boot := rfl
@[simp] theorem State.put_fuses (s : State) (f : Fld) (v i j : Nat) : (s.put f v i j).fuses = s.fuses := rfl
@[simp] theorem State.put_straps (s : State) (f : Fld) (v i j : Nat) : (s.put f v i j).straps = s.straps := rfl
@[simp] theorem State.put_snap (s : State) (f : Fld) (v i j : Nat) : (s.put f v i j).snap = s.snap := rfl
@[simp] theorem State.put_time (s : State) (f : Fld) (v i j : Nat) : (s.put f v i j).time = s.time := rfl
@[simp] theorem State.put_link (s : State) (f : Fld) (v i j : Nat) : (s.put f v i j).link = s.link := rfl
@[simp] theorem State.put_die (s : State) (f : Fld) (v i j : Nat) : (s.put f v i j).die = s.die := rfl
@[simp] theorem State.put_field (s : State) (f : Fld) (v i j : Nat) : (s.put f v i j).field = s.field := rfl
@[simp] theorem State.put_cams (s : State) (f : Fld) (v i j : Nat) : (s.put f v i j).cams = s.cams := rfl
@[simp] theorem State.put_pipes (s : State) (f : Fld) (v i j : Nat) : (s.put f v i j).pipes = s.pipes := rfl
@[simp] theorem State.put_rules (s : State) (f : Fld) (v i j : Nat) : (s.put f v i j).rules = s.rules := rfl
@[simp] theorem State.put_bobs (s : State) (f : Fld) (v i j : Nat) : (s.put f v i j).bobs = s.bobs := rfl
@[simp] theorem State.put_lastBob (s : State) (f : Fld) (v i j : Nat) : (s.put f v i j).lastBob = s.lastBob := rfl
@[simp] theorem State.put_intake (s : State) (f : Fld) (v i j : Nat) : (s.put f v i j).intake = s.intake := rfl
@[simp] theorem State.put_looms (s : State) (f : Fld) (v i j : Nat) : (s.put f v i j).looms = s.looms := rfl
@[simp] theorem State.put_sched (s : State) (f : Fld) (v i j : Nat) : (s.put f v i j).sched = s.sched := rfl
@[simp] theorem State.put_twin (s : State) (f : Fld) (v i j : Nat) : (s.put f v i j).twin = s.twin := rfl
@[simp] theorem State.put_power (s : State) (f : Fld) (v i j : Nat) : (s.put f v i j).power = s.power := rfl
@[simp] theorem State.put_tdcSeen (s : State) (f : Fld) (v i j : Nat) : (s.put f v i j).tdcSeen = s.tdcSeen := rfl
@[simp] theorem State.put_fenceDue (s : State) (f : Fld) (v i j : Nat) : (s.put f v i j).fenceDue = s.fenceDue := rfl
@[simp] theorem State.put_splits (s : State) (f : Fld) (v i j : Nat) : (s.put f v i j).splits = s.splits := rfl
@[simp] theorem State.put_copies (s : State) (f : Fld) (v i j : Nat) : (s.put f v i j).copies = s.copies := rfl
@[simp] theorem State.put_freeUse (s : State) (f : Fld) (v i j : Nat) : (s.put f v i j).freeUse = s.freeUse := rfl
@[simp] theorem State.put_pending (s : State) (f : Fld) (v i j : Nat) : (s.put f v i j).pending = s.pending := rfl

/-! ### A one-bit field: `State.putBit` -/

@[simp] theorem State.putBit_latch (s : State) (f : Fld) (b : Bool) (i j : Nat) : (s.putBit f b i j).latch = s.latch := rfl
@[simp] theorem State.putBit_mem (s : State) (f : Fld) (b : Bool) (i j : Nat) : (s.putBit f b i j).mem = s.mem := rfl
@[simp] theorem State.putBit_fills (s : State) (f : Fld) (b : Bool) (i j : Nat) : (s.putBit f b i j).fills = s.fills := rfl
@[simp] theorem State.putBit_scrub (s : State) (f : Fld) (b : Bool) (i j : Nat) : (s.putBit f b i j).scrub = s.scrub := rfl
@[simp] theorem State.putBit_i3c (s : State) (f : Fld) (b : Bool) (i j : Nat) : (s.putBit f b i j).i3c = s.i3c := rfl
@[simp] theorem State.putBit_host (s : State) (f : Fld) (b : Bool) (i j : Nat) : (s.putBit f b i j).host = s.host := rfl
@[simp] theorem State.putBit_boot (s : State) (f : Fld) (b : Bool) (i j : Nat) : (s.putBit f b i j).boot = s.boot := rfl
@[simp] theorem State.putBit_fuses (s : State) (f : Fld) (b : Bool) (i j : Nat) : (s.putBit f b i j).fuses = s.fuses := rfl
@[simp] theorem State.putBit_straps (s : State) (f : Fld) (b : Bool) (i j : Nat) : (s.putBit f b i j).straps = s.straps := rfl
@[simp] theorem State.putBit_snap (s : State) (f : Fld) (b : Bool) (i j : Nat) : (s.putBit f b i j).snap = s.snap := rfl
@[simp] theorem State.putBit_time (s : State) (f : Fld) (b : Bool) (i j : Nat) : (s.putBit f b i j).time = s.time := rfl
@[simp] theorem State.putBit_link (s : State) (f : Fld) (b : Bool) (i j : Nat) : (s.putBit f b i j).link = s.link := rfl
@[simp] theorem State.putBit_die (s : State) (f : Fld) (b : Bool) (i j : Nat) : (s.putBit f b i j).die = s.die := rfl
@[simp] theorem State.putBit_field (s : State) (f : Fld) (b : Bool) (i j : Nat) : (s.putBit f b i j).field = s.field := rfl
@[simp] theorem State.putBit_cams (s : State) (f : Fld) (b : Bool) (i j : Nat) : (s.putBit f b i j).cams = s.cams := rfl
@[simp] theorem State.putBit_pipes (s : State) (f : Fld) (b : Bool) (i j : Nat) : (s.putBit f b i j).pipes = s.pipes := rfl
@[simp] theorem State.putBit_rules (s : State) (f : Fld) (b : Bool) (i j : Nat) : (s.putBit f b i j).rules = s.rules := rfl
@[simp] theorem State.putBit_bobs (s : State) (f : Fld) (b : Bool) (i j : Nat) : (s.putBit f b i j).bobs = s.bobs := rfl
@[simp] theorem State.putBit_lastBob (s : State) (f : Fld) (b : Bool) (i j : Nat) : (s.putBit f b i j).lastBob = s.lastBob := rfl
@[simp] theorem State.putBit_intake (s : State) (f : Fld) (b : Bool) (i j : Nat) : (s.putBit f b i j).intake = s.intake := rfl
@[simp] theorem State.putBit_looms (s : State) (f : Fld) (b : Bool) (i j : Nat) : (s.putBit f b i j).looms = s.looms := rfl
@[simp] theorem State.putBit_sched (s : State) (f : Fld) (b : Bool) (i j : Nat) : (s.putBit f b i j).sched = s.sched := rfl
@[simp] theorem State.putBit_twin (s : State) (f : Fld) (b : Bool) (i j : Nat) : (s.putBit f b i j).twin = s.twin := rfl
@[simp] theorem State.putBit_power (s : State) (f : Fld) (b : Bool) (i j : Nat) : (s.putBit f b i j).power = s.power := rfl
@[simp] theorem State.putBit_tdcSeen (s : State) (f : Fld) (b : Bool) (i j : Nat) : (s.putBit f b i j).tdcSeen = s.tdcSeen := rfl
@[simp] theorem State.putBit_fenceDue (s : State) (f : Fld) (b : Bool) (i j : Nat) : (s.putBit f b i j).fenceDue = s.fenceDue := rfl
@[simp] theorem State.putBit_splits (s : State) (f : Fld) (b : Bool) (i j : Nat) : (s.putBit f b i j).splits = s.splits := rfl
@[simp] theorem State.putBit_copies (s : State) (f : Fld) (b : Bool) (i j : Nat) : (s.putBit f b i j).copies = s.copies := rfl
@[simp] theorem State.putBit_freeUse (s : State) (f : Fld) (b : Bool) (i j : Nat) : (s.putBit f b i j).freeUse = s.freeUse := rfl
@[simp] theorem State.putBit_pending (s : State) (f : Fld) (b : Bool) (i j : Nat) : (s.putBit f b i j).pending = s.pending := rfl

/-! ### A saturating counter, by any number: `State.bumpBy` -/

@[simp] theorem State.bumpBy_latch (s : State) (f : Fld) (n i j : Nat) : (s.bumpBy f n i j).latch = s.latch := rfl
@[simp] theorem State.bumpBy_mem (s : State) (f : Fld) (n i j : Nat) : (s.bumpBy f n i j).mem = s.mem := rfl
@[simp] theorem State.bumpBy_fills (s : State) (f : Fld) (n i j : Nat) : (s.bumpBy f n i j).fills = s.fills := rfl
@[simp] theorem State.bumpBy_scrub (s : State) (f : Fld) (n i j : Nat) : (s.bumpBy f n i j).scrub = s.scrub := rfl
@[simp] theorem State.bumpBy_i3c (s : State) (f : Fld) (n i j : Nat) : (s.bumpBy f n i j).i3c = s.i3c := rfl
@[simp] theorem State.bumpBy_host (s : State) (f : Fld) (n i j : Nat) : (s.bumpBy f n i j).host = s.host := rfl
@[simp] theorem State.bumpBy_boot (s : State) (f : Fld) (n i j : Nat) : (s.bumpBy f n i j).boot = s.boot := rfl
@[simp] theorem State.bumpBy_fuses (s : State) (f : Fld) (n i j : Nat) : (s.bumpBy f n i j).fuses = s.fuses := rfl
@[simp] theorem State.bumpBy_straps (s : State) (f : Fld) (n i j : Nat) : (s.bumpBy f n i j).straps = s.straps := rfl
@[simp] theorem State.bumpBy_snap (s : State) (f : Fld) (n i j : Nat) : (s.bumpBy f n i j).snap = s.snap := rfl
@[simp] theorem State.bumpBy_time (s : State) (f : Fld) (n i j : Nat) : (s.bumpBy f n i j).time = s.time := rfl
@[simp] theorem State.bumpBy_link (s : State) (f : Fld) (n i j : Nat) : (s.bumpBy f n i j).link = s.link := rfl
@[simp] theorem State.bumpBy_die (s : State) (f : Fld) (n i j : Nat) : (s.bumpBy f n i j).die = s.die := rfl
@[simp] theorem State.bumpBy_field (s : State) (f : Fld) (n i j : Nat) : (s.bumpBy f n i j).field = s.field := rfl
@[simp] theorem State.bumpBy_cams (s : State) (f : Fld) (n i j : Nat) : (s.bumpBy f n i j).cams = s.cams := rfl
@[simp] theorem State.bumpBy_pipes (s : State) (f : Fld) (n i j : Nat) : (s.bumpBy f n i j).pipes = s.pipes := rfl
@[simp] theorem State.bumpBy_rules (s : State) (f : Fld) (n i j : Nat) : (s.bumpBy f n i j).rules = s.rules := rfl
@[simp] theorem State.bumpBy_bobs (s : State) (f : Fld) (n i j : Nat) : (s.bumpBy f n i j).bobs = s.bobs := rfl
@[simp] theorem State.bumpBy_lastBob (s : State) (f : Fld) (n i j : Nat) : (s.bumpBy f n i j).lastBob = s.lastBob := rfl
@[simp] theorem State.bumpBy_intake (s : State) (f : Fld) (n i j : Nat) : (s.bumpBy f n i j).intake = s.intake := rfl
@[simp] theorem State.bumpBy_looms (s : State) (f : Fld) (n i j : Nat) : (s.bumpBy f n i j).looms = s.looms := rfl
@[simp] theorem State.bumpBy_sched (s : State) (f : Fld) (n i j : Nat) : (s.bumpBy f n i j).sched = s.sched := rfl
@[simp] theorem State.bumpBy_twin (s : State) (f : Fld) (n i j : Nat) : (s.bumpBy f n i j).twin = s.twin := rfl
@[simp] theorem State.bumpBy_power (s : State) (f : Fld) (n i j : Nat) : (s.bumpBy f n i j).power = s.power := rfl
@[simp] theorem State.bumpBy_tdcSeen (s : State) (f : Fld) (n i j : Nat) : (s.bumpBy f n i j).tdcSeen = s.tdcSeen := rfl
@[simp] theorem State.bumpBy_fenceDue (s : State) (f : Fld) (n i j : Nat) : (s.bumpBy f n i j).fenceDue = s.fenceDue := rfl
@[simp] theorem State.bumpBy_splits (s : State) (f : Fld) (n i j : Nat) : (s.bumpBy f n i j).splits = s.splits := rfl
@[simp] theorem State.bumpBy_copies (s : State) (f : Fld) (n i j : Nat) : (s.bumpBy f n i j).copies = s.copies := rfl
@[simp] theorem State.bumpBy_freeUse (s : State) (f : Fld) (n i j : Nat) : (s.bumpBy f n i j).freeUse = s.freeUse := rfl
@[simp] theorem State.bumpBy_pending (s : State) (f : Fld) (n i j : Nat) : (s.bumpBy f n i j).pending = s.pending := rfl

/-! ### A saturating counter: `State.bump` -/

@[simp] theorem State.bump_latch (s : State) (f : Fld) (i j : Nat) : (s.bump f i j).latch = s.latch := rfl
@[simp] theorem State.bump_mem (s : State) (f : Fld) (i j : Nat) : (s.bump f i j).mem = s.mem := rfl
@[simp] theorem State.bump_fills (s : State) (f : Fld) (i j : Nat) : (s.bump f i j).fills = s.fills := rfl
@[simp] theorem State.bump_scrub (s : State) (f : Fld) (i j : Nat) : (s.bump f i j).scrub = s.scrub := rfl
@[simp] theorem State.bump_i3c (s : State) (f : Fld) (i j : Nat) : (s.bump f i j).i3c = s.i3c := rfl
@[simp] theorem State.bump_host (s : State) (f : Fld) (i j : Nat) : (s.bump f i j).host = s.host := rfl
@[simp] theorem State.bump_boot (s : State) (f : Fld) (i j : Nat) : (s.bump f i j).boot = s.boot := rfl
@[simp] theorem State.bump_fuses (s : State) (f : Fld) (i j : Nat) : (s.bump f i j).fuses = s.fuses := rfl
@[simp] theorem State.bump_straps (s : State) (f : Fld) (i j : Nat) : (s.bump f i j).straps = s.straps := rfl
@[simp] theorem State.bump_snap (s : State) (f : Fld) (i j : Nat) : (s.bump f i j).snap = s.snap := rfl
@[simp] theorem State.bump_time (s : State) (f : Fld) (i j : Nat) : (s.bump f i j).time = s.time := rfl
@[simp] theorem State.bump_link (s : State) (f : Fld) (i j : Nat) : (s.bump f i j).link = s.link := rfl
@[simp] theorem State.bump_die (s : State) (f : Fld) (i j : Nat) : (s.bump f i j).die = s.die := rfl
@[simp] theorem State.bump_field (s : State) (f : Fld) (i j : Nat) : (s.bump f i j).field = s.field := rfl
@[simp] theorem State.bump_cams (s : State) (f : Fld) (i j : Nat) : (s.bump f i j).cams = s.cams := rfl
@[simp] theorem State.bump_pipes (s : State) (f : Fld) (i j : Nat) : (s.bump f i j).pipes = s.pipes := rfl
@[simp] theorem State.bump_rules (s : State) (f : Fld) (i j : Nat) : (s.bump f i j).rules = s.rules := rfl
@[simp] theorem State.bump_bobs (s : State) (f : Fld) (i j : Nat) : (s.bump f i j).bobs = s.bobs := rfl
@[simp] theorem State.bump_lastBob (s : State) (f : Fld) (i j : Nat) : (s.bump f i j).lastBob = s.lastBob := rfl
@[simp] theorem State.bump_intake (s : State) (f : Fld) (i j : Nat) : (s.bump f i j).intake = s.intake := rfl
@[simp] theorem State.bump_looms (s : State) (f : Fld) (i j : Nat) : (s.bump f i j).looms = s.looms := rfl
@[simp] theorem State.bump_sched (s : State) (f : Fld) (i j : Nat) : (s.bump f i j).sched = s.sched := rfl
@[simp] theorem State.bump_twin (s : State) (f : Fld) (i j : Nat) : (s.bump f i j).twin = s.twin := rfl
@[simp] theorem State.bump_power (s : State) (f : Fld) (i j : Nat) : (s.bump f i j).power = s.power := rfl
@[simp] theorem State.bump_tdcSeen (s : State) (f : Fld) (i j : Nat) : (s.bump f i j).tdcSeen = s.tdcSeen := rfl
@[simp] theorem State.bump_fenceDue (s : State) (f : Fld) (i j : Nat) : (s.bump f i j).fenceDue = s.fenceDue := rfl
@[simp] theorem State.bump_splits (s : State) (f : Fld) (i j : Nat) : (s.bump f i j).splits = s.splits := rfl
@[simp] theorem State.bump_copies (s : State) (f : Fld) (i j : Nat) : (s.bump f i j).copies = s.copies := rfl
@[simp] theorem State.bump_freeUse (s : State) (f : Fld) (i j : Nat) : (s.bump f i j).freeUse = s.freeUse := rfl
@[simp] theorem State.bump_pending (s : State) (f : Fld) (i j : Nat) : (s.bump f i j).pending = s.pending := rfl

/-! ### A wrapping counter: `State.bumpWrap` -/

@[simp] theorem State.bumpWrap_latch (s : State) (f : Fld) (n i j : Nat) : (s.bumpWrap f n i j).latch = s.latch := rfl
@[simp] theorem State.bumpWrap_mem (s : State) (f : Fld) (n i j : Nat) : (s.bumpWrap f n i j).mem = s.mem := rfl
@[simp] theorem State.bumpWrap_fills (s : State) (f : Fld) (n i j : Nat) : (s.bumpWrap f n i j).fills = s.fills := rfl
@[simp] theorem State.bumpWrap_scrub (s : State) (f : Fld) (n i j : Nat) : (s.bumpWrap f n i j).scrub = s.scrub := rfl
@[simp] theorem State.bumpWrap_i3c (s : State) (f : Fld) (n i j : Nat) : (s.bumpWrap f n i j).i3c = s.i3c := rfl
@[simp] theorem State.bumpWrap_host (s : State) (f : Fld) (n i j : Nat) : (s.bumpWrap f n i j).host = s.host := rfl
@[simp] theorem State.bumpWrap_boot (s : State) (f : Fld) (n i j : Nat) : (s.bumpWrap f n i j).boot = s.boot := rfl
@[simp] theorem State.bumpWrap_fuses (s : State) (f : Fld) (n i j : Nat) : (s.bumpWrap f n i j).fuses = s.fuses := rfl
@[simp] theorem State.bumpWrap_straps (s : State) (f : Fld) (n i j : Nat) : (s.bumpWrap f n i j).straps = s.straps := rfl
@[simp] theorem State.bumpWrap_snap (s : State) (f : Fld) (n i j : Nat) : (s.bumpWrap f n i j).snap = s.snap := rfl
@[simp] theorem State.bumpWrap_time (s : State) (f : Fld) (n i j : Nat) : (s.bumpWrap f n i j).time = s.time := rfl
@[simp] theorem State.bumpWrap_link (s : State) (f : Fld) (n i j : Nat) : (s.bumpWrap f n i j).link = s.link := rfl
@[simp] theorem State.bumpWrap_die (s : State) (f : Fld) (n i j : Nat) : (s.bumpWrap f n i j).die = s.die := rfl
@[simp] theorem State.bumpWrap_field (s : State) (f : Fld) (n i j : Nat) : (s.bumpWrap f n i j).field = s.field := rfl
@[simp] theorem State.bumpWrap_cams (s : State) (f : Fld) (n i j : Nat) : (s.bumpWrap f n i j).cams = s.cams := rfl
@[simp] theorem State.bumpWrap_pipes (s : State) (f : Fld) (n i j : Nat) : (s.bumpWrap f n i j).pipes = s.pipes := rfl
@[simp] theorem State.bumpWrap_rules (s : State) (f : Fld) (n i j : Nat) : (s.bumpWrap f n i j).rules = s.rules := rfl
@[simp] theorem State.bumpWrap_bobs (s : State) (f : Fld) (n i j : Nat) : (s.bumpWrap f n i j).bobs = s.bobs := rfl
@[simp] theorem State.bumpWrap_lastBob (s : State) (f : Fld) (n i j : Nat) : (s.bumpWrap f n i j).lastBob = s.lastBob := rfl
@[simp] theorem State.bumpWrap_intake (s : State) (f : Fld) (n i j : Nat) : (s.bumpWrap f n i j).intake = s.intake := rfl
@[simp] theorem State.bumpWrap_looms (s : State) (f : Fld) (n i j : Nat) : (s.bumpWrap f n i j).looms = s.looms := rfl
@[simp] theorem State.bumpWrap_sched (s : State) (f : Fld) (n i j : Nat) : (s.bumpWrap f n i j).sched = s.sched := rfl
@[simp] theorem State.bumpWrap_twin (s : State) (f : Fld) (n i j : Nat) : (s.bumpWrap f n i j).twin = s.twin := rfl
@[simp] theorem State.bumpWrap_power (s : State) (f : Fld) (n i j : Nat) : (s.bumpWrap f n i j).power = s.power := rfl
@[simp] theorem State.bumpWrap_tdcSeen (s : State) (f : Fld) (n i j : Nat) : (s.bumpWrap f n i j).tdcSeen = s.tdcSeen := rfl
@[simp] theorem State.bumpWrap_fenceDue (s : State) (f : Fld) (n i j : Nat) : (s.bumpWrap f n i j).fenceDue = s.fenceDue := rfl
@[simp] theorem State.bumpWrap_splits (s : State) (f : Fld) (n i j : Nat) : (s.bumpWrap f n i j).splits = s.splits := rfl
@[simp] theorem State.bumpWrap_copies (s : State) (f : Fld) (n i j : Nat) : (s.bumpWrap f n i j).copies = s.copies := rfl
@[simp] theorem State.bumpWrap_freeUse (s : State) (f : Fld) (n i j : Nat) : (s.bumpWrap f n i j).freeUse = s.freeUse := rfl
@[simp] theorem State.bumpWrap_pending (s : State) (f : Fld) (n i j : Nat) : (s.bumpWrap f n i j).pending = s.pending := rfl

/-! ### A peak: `State.peak` -/

@[simp] theorem State.peak_latch (s : State) (f : Fld) (v i j : Nat) : (s.peak f v i j).latch = s.latch := rfl
@[simp] theorem State.peak_mem (s : State) (f : Fld) (v i j : Nat) : (s.peak f v i j).mem = s.mem := rfl
@[simp] theorem State.peak_fills (s : State) (f : Fld) (v i j : Nat) : (s.peak f v i j).fills = s.fills := rfl
@[simp] theorem State.peak_scrub (s : State) (f : Fld) (v i j : Nat) : (s.peak f v i j).scrub = s.scrub := rfl
@[simp] theorem State.peak_i3c (s : State) (f : Fld) (v i j : Nat) : (s.peak f v i j).i3c = s.i3c := rfl
@[simp] theorem State.peak_host (s : State) (f : Fld) (v i j : Nat) : (s.peak f v i j).host = s.host := rfl
@[simp] theorem State.peak_boot (s : State) (f : Fld) (v i j : Nat) : (s.peak f v i j).boot = s.boot := rfl
@[simp] theorem State.peak_fuses (s : State) (f : Fld) (v i j : Nat) : (s.peak f v i j).fuses = s.fuses := rfl
@[simp] theorem State.peak_straps (s : State) (f : Fld) (v i j : Nat) : (s.peak f v i j).straps = s.straps := rfl
@[simp] theorem State.peak_snap (s : State) (f : Fld) (v i j : Nat) : (s.peak f v i j).snap = s.snap := rfl
@[simp] theorem State.peak_time (s : State) (f : Fld) (v i j : Nat) : (s.peak f v i j).time = s.time := rfl
@[simp] theorem State.peak_link (s : State) (f : Fld) (v i j : Nat) : (s.peak f v i j).link = s.link := rfl
@[simp] theorem State.peak_die (s : State) (f : Fld) (v i j : Nat) : (s.peak f v i j).die = s.die := rfl
@[simp] theorem State.peak_field (s : State) (f : Fld) (v i j : Nat) : (s.peak f v i j).field = s.field := rfl
@[simp] theorem State.peak_cams (s : State) (f : Fld) (v i j : Nat) : (s.peak f v i j).cams = s.cams := rfl
@[simp] theorem State.peak_pipes (s : State) (f : Fld) (v i j : Nat) : (s.peak f v i j).pipes = s.pipes := rfl
@[simp] theorem State.peak_rules (s : State) (f : Fld) (v i j : Nat) : (s.peak f v i j).rules = s.rules := rfl
@[simp] theorem State.peak_bobs (s : State) (f : Fld) (v i j : Nat) : (s.peak f v i j).bobs = s.bobs := rfl
@[simp] theorem State.peak_lastBob (s : State) (f : Fld) (v i j : Nat) : (s.peak f v i j).lastBob = s.lastBob := rfl
@[simp] theorem State.peak_intake (s : State) (f : Fld) (v i j : Nat) : (s.peak f v i j).intake = s.intake := rfl
@[simp] theorem State.peak_looms (s : State) (f : Fld) (v i j : Nat) : (s.peak f v i j).looms = s.looms := rfl
@[simp] theorem State.peak_sched (s : State) (f : Fld) (v i j : Nat) : (s.peak f v i j).sched = s.sched := rfl
@[simp] theorem State.peak_twin (s : State) (f : Fld) (v i j : Nat) : (s.peak f v i j).twin = s.twin := rfl
@[simp] theorem State.peak_power (s : State) (f : Fld) (v i j : Nat) : (s.peak f v i j).power = s.power := rfl
@[simp] theorem State.peak_tdcSeen (s : State) (f : Fld) (v i j : Nat) : (s.peak f v i j).tdcSeen = s.tdcSeen := rfl
@[simp] theorem State.peak_fenceDue (s : State) (f : Fld) (v i j : Nat) : (s.peak f v i j).fenceDue = s.fenceDue := rfl
@[simp] theorem State.peak_splits (s : State) (f : Fld) (v i j : Nat) : (s.peak f v i j).splits = s.splits := rfl
@[simp] theorem State.peak_copies (s : State) (f : Fld) (v i j : Nat) : (s.peak f v i j).copies = s.copies := rfl
@[simp] theorem State.peak_freeUse (s : State) (f : Fld) (v i j : Nat) : (s.peak f v i j).freeUse = s.freeUse := rfl
@[simp] theorem State.peak_pending (s : State) (f : Fld) (v i j : Nat) : (s.peak f v i j).pending = s.pending := rfl

/-! ### A draw of a free value: `State.drawn` -/

@[simp] theorem State.drawn_regs (s : State) : (s.drawn).regs = s.regs := rfl
@[simp] theorem State.drawn_latch (s : State) : (s.drawn).latch = s.latch := rfl
@[simp] theorem State.drawn_mem (s : State) : (s.drawn).mem = s.mem := rfl
@[simp] theorem State.drawn_fills (s : State) : (s.drawn).fills = s.fills := rfl
@[simp] theorem State.drawn_scrub (s : State) : (s.drawn).scrub = s.scrub := rfl
@[simp] theorem State.drawn_i3c (s : State) : (s.drawn).i3c = s.i3c := rfl
@[simp] theorem State.drawn_host (s : State) : (s.drawn).host = s.host := rfl
@[simp] theorem State.drawn_boot (s : State) : (s.drawn).boot = s.boot := rfl
@[simp] theorem State.drawn_fuses (s : State) : (s.drawn).fuses = s.fuses := rfl
@[simp] theorem State.drawn_straps (s : State) : (s.drawn).straps = s.straps := rfl
@[simp] theorem State.drawn_snap (s : State) : (s.drawn).snap = s.snap := rfl
@[simp] theorem State.drawn_time (s : State) : (s.drawn).time = s.time := rfl
@[simp] theorem State.drawn_link (s : State) : (s.drawn).link = s.link := rfl
@[simp] theorem State.drawn_die (s : State) : (s.drawn).die = s.die := rfl
@[simp] theorem State.drawn_field (s : State) : (s.drawn).field = s.field := rfl
@[simp] theorem State.drawn_cams (s : State) : (s.drawn).cams = s.cams := rfl
@[simp] theorem State.drawn_pipes (s : State) : (s.drawn).pipes = s.pipes := rfl
@[simp] theorem State.drawn_rules (s : State) : (s.drawn).rules = s.rules := rfl
@[simp] theorem State.drawn_bobs (s : State) : (s.drawn).bobs = s.bobs := rfl
@[simp] theorem State.drawn_lastBob (s : State) : (s.drawn).lastBob = s.lastBob := rfl
@[simp] theorem State.drawn_intake (s : State) : (s.drawn).intake = s.intake := rfl
@[simp] theorem State.drawn_looms (s : State) : (s.drawn).looms = s.looms := rfl
@[simp] theorem State.drawn_sched (s : State) : (s.drawn).sched = s.sched := rfl
@[simp] theorem State.drawn_twin (s : State) : (s.drawn).twin = s.twin := rfl
@[simp] theorem State.drawn_power (s : State) : (s.drawn).power = s.power := rfl
@[simp] theorem State.drawn_tdcSeen (s : State) : (s.drawn).tdcSeen = s.tdcSeen := rfl
@[simp] theorem State.drawn_fenceDue (s : State) : (s.drawn).fenceDue = s.fenceDue := rfl
@[simp] theorem State.drawn_splits (s : State) : (s.drawn).splits = s.splits := rfl
@[simp] theorem State.drawn_copies (s : State) : (s.drawn).copies = s.copies := rfl
@[simp] theorem State.drawn_pending (s : State) : (s.drawn).pending = s.pending := rfl

/-! ### A camera port: `State.setCam` -/

@[simp] theorem State.setCam_regs (s : State) (p : Nat) (x : CamPort) : (s.setCam p x).regs = s.regs := rfl
@[simp] theorem State.setCam_latch (s : State) (p : Nat) (x : CamPort) : (s.setCam p x).latch = s.latch := rfl
@[simp] theorem State.setCam_mem (s : State) (p : Nat) (x : CamPort) : (s.setCam p x).mem = s.mem := rfl
@[simp] theorem State.setCam_fills (s : State) (p : Nat) (x : CamPort) : (s.setCam p x).fills = s.fills := rfl
@[simp] theorem State.setCam_scrub (s : State) (p : Nat) (x : CamPort) : (s.setCam p x).scrub = s.scrub := rfl
@[simp] theorem State.setCam_i3c (s : State) (p : Nat) (x : CamPort) : (s.setCam p x).i3c = s.i3c := rfl
@[simp] theorem State.setCam_host (s : State) (p : Nat) (x : CamPort) : (s.setCam p x).host = s.host := rfl
@[simp] theorem State.setCam_boot (s : State) (p : Nat) (x : CamPort) : (s.setCam p x).boot = s.boot := rfl
@[simp] theorem State.setCam_fuses (s : State) (p : Nat) (x : CamPort) : (s.setCam p x).fuses = s.fuses := rfl
@[simp] theorem State.setCam_straps (s : State) (p : Nat) (x : CamPort) : (s.setCam p x).straps = s.straps := rfl
@[simp] theorem State.setCam_snap (s : State) (p : Nat) (x : CamPort) : (s.setCam p x).snap = s.snap := rfl
@[simp] theorem State.setCam_time (s : State) (p : Nat) (x : CamPort) : (s.setCam p x).time = s.time := rfl
@[simp] theorem State.setCam_link (s : State) (p : Nat) (x : CamPort) : (s.setCam p x).link = s.link := rfl
@[simp] theorem State.setCam_die (s : State) (p : Nat) (x : CamPort) : (s.setCam p x).die = s.die := rfl
@[simp] theorem State.setCam_field (s : State) (p : Nat) (x : CamPort) : (s.setCam p x).field = s.field := rfl
@[simp] theorem State.setCam_pipes (s : State) (p : Nat) (x : CamPort) : (s.setCam p x).pipes = s.pipes := rfl
@[simp] theorem State.setCam_rules (s : State) (p : Nat) (x : CamPort) : (s.setCam p x).rules = s.rules := rfl
@[simp] theorem State.setCam_bobs (s : State) (p : Nat) (x : CamPort) : (s.setCam p x).bobs = s.bobs := rfl
@[simp] theorem State.setCam_lastBob (s : State) (p : Nat) (x : CamPort) : (s.setCam p x).lastBob = s.lastBob := rfl
@[simp] theorem State.setCam_intake (s : State) (p : Nat) (x : CamPort) : (s.setCam p x).intake = s.intake := rfl
@[simp] theorem State.setCam_looms (s : State) (p : Nat) (x : CamPort) : (s.setCam p x).looms = s.looms := rfl
@[simp] theorem State.setCam_sched (s : State) (p : Nat) (x : CamPort) : (s.setCam p x).sched = s.sched := rfl
@[simp] theorem State.setCam_twin (s : State) (p : Nat) (x : CamPort) : (s.setCam p x).twin = s.twin := rfl
@[simp] theorem State.setCam_power (s : State) (p : Nat) (x : CamPort) : (s.setCam p x).power = s.power := rfl
@[simp] theorem State.setCam_tdcSeen (s : State) (p : Nat) (x : CamPort) : (s.setCam p x).tdcSeen = s.tdcSeen := rfl
@[simp] theorem State.setCam_fenceDue (s : State) (p : Nat) (x : CamPort) : (s.setCam p x).fenceDue = s.fenceDue := rfl
@[simp] theorem State.setCam_splits (s : State) (p : Nat) (x : CamPort) : (s.setCam p x).splits = s.splits := rfl
@[simp] theorem State.setCam_copies (s : State) (p : Nat) (x : CamPort) : (s.setCam p x).copies = s.copies := rfl
@[simp] theorem State.setCam_freeUse (s : State) (p : Nat) (x : CamPort) : (s.setCam p x).freeUse = s.freeUse := rfl
@[simp] theorem State.setCam_pending (s : State) (p : Nat) (x : CamPort) : (s.setCam p x).pending = s.pending := rfl

/-! ### A pipe: `State.setPipe` -/

@[simp] theorem State.setPipe_regs (s : State) (q : Nat) (x : Pipe) : (s.setPipe q x).regs = s.regs := rfl
@[simp] theorem State.setPipe_latch (s : State) (q : Nat) (x : Pipe) : (s.setPipe q x).latch = s.latch := rfl
@[simp] theorem State.setPipe_mem (s : State) (q : Nat) (x : Pipe) : (s.setPipe q x).mem = s.mem := rfl
@[simp] theorem State.setPipe_fills (s : State) (q : Nat) (x : Pipe) : (s.setPipe q x).fills = s.fills := rfl
@[simp] theorem State.setPipe_scrub (s : State) (q : Nat) (x : Pipe) : (s.setPipe q x).scrub = s.scrub := rfl
@[simp] theorem State.setPipe_i3c (s : State) (q : Nat) (x : Pipe) : (s.setPipe q x).i3c = s.i3c := rfl
@[simp] theorem State.setPipe_host (s : State) (q : Nat) (x : Pipe) : (s.setPipe q x).host = s.host := rfl
@[simp] theorem State.setPipe_boot (s : State) (q : Nat) (x : Pipe) : (s.setPipe q x).boot = s.boot := rfl
@[simp] theorem State.setPipe_fuses (s : State) (q : Nat) (x : Pipe) : (s.setPipe q x).fuses = s.fuses := rfl
@[simp] theorem State.setPipe_straps (s : State) (q : Nat) (x : Pipe) : (s.setPipe q x).straps = s.straps := rfl
@[simp] theorem State.setPipe_snap (s : State) (q : Nat) (x : Pipe) : (s.setPipe q x).snap = s.snap := rfl
@[simp] theorem State.setPipe_time (s : State) (q : Nat) (x : Pipe) : (s.setPipe q x).time = s.time := rfl
@[simp] theorem State.setPipe_link (s : State) (q : Nat) (x : Pipe) : (s.setPipe q x).link = s.link := rfl
@[simp] theorem State.setPipe_die (s : State) (q : Nat) (x : Pipe) : (s.setPipe q x).die = s.die := rfl
@[simp] theorem State.setPipe_field (s : State) (q : Nat) (x : Pipe) : (s.setPipe q x).field = s.field := rfl
@[simp] theorem State.setPipe_cams (s : State) (q : Nat) (x : Pipe) : (s.setPipe q x).cams = s.cams := rfl
@[simp] theorem State.setPipe_rules (s : State) (q : Nat) (x : Pipe) : (s.setPipe q x).rules = s.rules := rfl
@[simp] theorem State.setPipe_bobs (s : State) (q : Nat) (x : Pipe) : (s.setPipe q x).bobs = s.bobs := rfl
@[simp] theorem State.setPipe_lastBob (s : State) (q : Nat) (x : Pipe) : (s.setPipe q x).lastBob = s.lastBob := rfl
@[simp] theorem State.setPipe_intake (s : State) (q : Nat) (x : Pipe) : (s.setPipe q x).intake = s.intake := rfl
@[simp] theorem State.setPipe_looms (s : State) (q : Nat) (x : Pipe) : (s.setPipe q x).looms = s.looms := rfl
@[simp] theorem State.setPipe_sched (s : State) (q : Nat) (x : Pipe) : (s.setPipe q x).sched = s.sched := rfl
@[simp] theorem State.setPipe_twin (s : State) (q : Nat) (x : Pipe) : (s.setPipe q x).twin = s.twin := rfl
@[simp] theorem State.setPipe_power (s : State) (q : Nat) (x : Pipe) : (s.setPipe q x).power = s.power := rfl
@[simp] theorem State.setPipe_tdcSeen (s : State) (q : Nat) (x : Pipe) : (s.setPipe q x).tdcSeen = s.tdcSeen := rfl
@[simp] theorem State.setPipe_fenceDue (s : State) (q : Nat) (x : Pipe) : (s.setPipe q x).fenceDue = s.fenceDue := rfl
@[simp] theorem State.setPipe_splits (s : State) (q : Nat) (x : Pipe) : (s.setPipe q x).splits = s.splits := rfl
@[simp] theorem State.setPipe_copies (s : State) (q : Nat) (x : Pipe) : (s.setPipe q x).copies = s.copies := rfl
@[simp] theorem State.setPipe_freeUse (s : State) (q : Nat) (x : Pipe) : (s.setPipe q x).freeUse = s.freeUse := rfl
@[simp] theorem State.setPipe_pending (s : State) (q : Nat) (x : Pipe) : (s.setPipe q x).pending = s.pending := rfl

/-! ### A rule: `State.setRule` -/

@[simp] theorem State.setRule_regs (s : State) (r : Nat) (x : Rule) : (s.setRule r x).regs = s.regs := rfl
@[simp] theorem State.setRule_latch (s : State) (r : Nat) (x : Rule) : (s.setRule r x).latch = s.latch := rfl
@[simp] theorem State.setRule_mem (s : State) (r : Nat) (x : Rule) : (s.setRule r x).mem = s.mem := rfl
@[simp] theorem State.setRule_fills (s : State) (r : Nat) (x : Rule) : (s.setRule r x).fills = s.fills := rfl
@[simp] theorem State.setRule_scrub (s : State) (r : Nat) (x : Rule) : (s.setRule r x).scrub = s.scrub := rfl
@[simp] theorem State.setRule_i3c (s : State) (r : Nat) (x : Rule) : (s.setRule r x).i3c = s.i3c := rfl
@[simp] theorem State.setRule_host (s : State) (r : Nat) (x : Rule) : (s.setRule r x).host = s.host := rfl
@[simp] theorem State.setRule_boot (s : State) (r : Nat) (x : Rule) : (s.setRule r x).boot = s.boot := rfl
@[simp] theorem State.setRule_fuses (s : State) (r : Nat) (x : Rule) : (s.setRule r x).fuses = s.fuses := rfl
@[simp] theorem State.setRule_straps (s : State) (r : Nat) (x : Rule) : (s.setRule r x).straps = s.straps := rfl
@[simp] theorem State.setRule_snap (s : State) (r : Nat) (x : Rule) : (s.setRule r x).snap = s.snap := rfl
@[simp] theorem State.setRule_time (s : State) (r : Nat) (x : Rule) : (s.setRule r x).time = s.time := rfl
@[simp] theorem State.setRule_link (s : State) (r : Nat) (x : Rule) : (s.setRule r x).link = s.link := rfl
@[simp] theorem State.setRule_die (s : State) (r : Nat) (x : Rule) : (s.setRule r x).die = s.die := rfl
@[simp] theorem State.setRule_field (s : State) (r : Nat) (x : Rule) : (s.setRule r x).field = s.field := rfl
@[simp] theorem State.setRule_cams (s : State) (r : Nat) (x : Rule) : (s.setRule r x).cams = s.cams := rfl
@[simp] theorem State.setRule_pipes (s : State) (r : Nat) (x : Rule) : (s.setRule r x).pipes = s.pipes := rfl
@[simp] theorem State.setRule_bobs (s : State) (r : Nat) (x : Rule) : (s.setRule r x).bobs = s.bobs := rfl
@[simp] theorem State.setRule_lastBob (s : State) (r : Nat) (x : Rule) : (s.setRule r x).lastBob = s.lastBob := rfl
@[simp] theorem State.setRule_intake (s : State) (r : Nat) (x : Rule) : (s.setRule r x).intake = s.intake := rfl
@[simp] theorem State.setRule_looms (s : State) (r : Nat) (x : Rule) : (s.setRule r x).looms = s.looms := rfl
@[simp] theorem State.setRule_sched (s : State) (r : Nat) (x : Rule) : (s.setRule r x).sched = s.sched := rfl
@[simp] theorem State.setRule_twin (s : State) (r : Nat) (x : Rule) : (s.setRule r x).twin = s.twin := rfl
@[simp] theorem State.setRule_power (s : State) (r : Nat) (x : Rule) : (s.setRule r x).power = s.power := rfl
@[simp] theorem State.setRule_tdcSeen (s : State) (r : Nat) (x : Rule) : (s.setRule r x).tdcSeen = s.tdcSeen := rfl
@[simp] theorem State.setRule_fenceDue (s : State) (r : Nat) (x : Rule) : (s.setRule r x).fenceDue = s.fenceDue := rfl
@[simp] theorem State.setRule_splits (s : State) (r : Nat) (x : Rule) : (s.setRule r x).splits = s.splits := rfl
@[simp] theorem State.setRule_copies (s : State) (r : Nat) (x : Rule) : (s.setRule r x).copies = s.copies := rfl
@[simp] theorem State.setRule_freeUse (s : State) (r : Nat) (x : Rule) : (s.setRule r x).freeUse = s.freeUse := rfl
@[simp] theorem State.setRule_pending (s : State) (r : Nat) (x : Rule) : (s.setRule r x).pending = s.pending := rfl

/-! ### A bobbin: `State.setBob` -/

@[simp] theorem State.setBob_regs (s : State) (id : Nat) (x : Bobbin) : (s.setBob id x).regs = s.regs := rfl
@[simp] theorem State.setBob_latch (s : State) (id : Nat) (x : Bobbin) : (s.setBob id x).latch = s.latch := rfl
@[simp] theorem State.setBob_mem (s : State) (id : Nat) (x : Bobbin) : (s.setBob id x).mem = s.mem := rfl
@[simp] theorem State.setBob_fills (s : State) (id : Nat) (x : Bobbin) : (s.setBob id x).fills = s.fills := rfl
@[simp] theorem State.setBob_scrub (s : State) (id : Nat) (x : Bobbin) : (s.setBob id x).scrub = s.scrub := rfl
@[simp] theorem State.setBob_i3c (s : State) (id : Nat) (x : Bobbin) : (s.setBob id x).i3c = s.i3c := rfl
@[simp] theorem State.setBob_host (s : State) (id : Nat) (x : Bobbin) : (s.setBob id x).host = s.host := rfl
@[simp] theorem State.setBob_boot (s : State) (id : Nat) (x : Bobbin) : (s.setBob id x).boot = s.boot := rfl
@[simp] theorem State.setBob_fuses (s : State) (id : Nat) (x : Bobbin) : (s.setBob id x).fuses = s.fuses := rfl
@[simp] theorem State.setBob_straps (s : State) (id : Nat) (x : Bobbin) : (s.setBob id x).straps = s.straps := rfl
@[simp] theorem State.setBob_snap (s : State) (id : Nat) (x : Bobbin) : (s.setBob id x).snap = s.snap := rfl
@[simp] theorem State.setBob_time (s : State) (id : Nat) (x : Bobbin) : (s.setBob id x).time = s.time := rfl
@[simp] theorem State.setBob_link (s : State) (id : Nat) (x : Bobbin) : (s.setBob id x).link = s.link := rfl
@[simp] theorem State.setBob_die (s : State) (id : Nat) (x : Bobbin) : (s.setBob id x).die = s.die := rfl
@[simp] theorem State.setBob_field (s : State) (id : Nat) (x : Bobbin) : (s.setBob id x).field = s.field := rfl
@[simp] theorem State.setBob_cams (s : State) (id : Nat) (x : Bobbin) : (s.setBob id x).cams = s.cams := rfl
@[simp] theorem State.setBob_pipes (s : State) (id : Nat) (x : Bobbin) : (s.setBob id x).pipes = s.pipes := rfl
@[simp] theorem State.setBob_rules (s : State) (id : Nat) (x : Bobbin) : (s.setBob id x).rules = s.rules := rfl
@[simp] theorem State.setBob_lastBob (s : State) (id : Nat) (x : Bobbin) : (s.setBob id x).lastBob = s.lastBob := rfl
@[simp] theorem State.setBob_intake (s : State) (id : Nat) (x : Bobbin) : (s.setBob id x).intake = s.intake := rfl
@[simp] theorem State.setBob_looms (s : State) (id : Nat) (x : Bobbin) : (s.setBob id x).looms = s.looms := rfl
@[simp] theorem State.setBob_sched (s : State) (id : Nat) (x : Bobbin) : (s.setBob id x).sched = s.sched := rfl
@[simp] theorem State.setBob_twin (s : State) (id : Nat) (x : Bobbin) : (s.setBob id x).twin = s.twin := rfl
@[simp] theorem State.setBob_power (s : State) (id : Nat) (x : Bobbin) : (s.setBob id x).power = s.power := rfl
@[simp] theorem State.setBob_tdcSeen (s : State) (id : Nat) (x : Bobbin) : (s.setBob id x).tdcSeen = s.tdcSeen := rfl
@[simp] theorem State.setBob_fenceDue (s : State) (id : Nat) (x : Bobbin) : (s.setBob id x).fenceDue = s.fenceDue := rfl
@[simp] theorem State.setBob_splits (s : State) (id : Nat) (x : Bobbin) : (s.setBob id x).splits = s.splits := rfl
@[simp] theorem State.setBob_copies (s : State) (id : Nat) (x : Bobbin) : (s.setBob id x).copies = s.copies := rfl
@[simp] theorem State.setBob_freeUse (s : State) (id : Nat) (x : Bobbin) : (s.setBob id x).freeUse = s.freeUse := rfl
@[simp] theorem State.setBob_pending (s : State) (id : Nat) (x : Bobbin) : (s.setBob id x).pending = s.pending := rfl

/-! ### A loom: `State.setLoom` -/

@[simp] theorem State.setLoom_regs (s : State) (n : Nat) (x : Loom) : (s.setLoom n x).regs = s.regs := rfl
@[simp] theorem State.setLoom_latch (s : State) (n : Nat) (x : Loom) : (s.setLoom n x).latch = s.latch := rfl
@[simp] theorem State.setLoom_mem (s : State) (n : Nat) (x : Loom) : (s.setLoom n x).mem = s.mem := rfl
@[simp] theorem State.setLoom_fills (s : State) (n : Nat) (x : Loom) : (s.setLoom n x).fills = s.fills := rfl
@[simp] theorem State.setLoom_scrub (s : State) (n : Nat) (x : Loom) : (s.setLoom n x).scrub = s.scrub := rfl
@[simp] theorem State.setLoom_i3c (s : State) (n : Nat) (x : Loom) : (s.setLoom n x).i3c = s.i3c := rfl
@[simp] theorem State.setLoom_host (s : State) (n : Nat) (x : Loom) : (s.setLoom n x).host = s.host := rfl
@[simp] theorem State.setLoom_boot (s : State) (n : Nat) (x : Loom) : (s.setLoom n x).boot = s.boot := rfl
@[simp] theorem State.setLoom_fuses (s : State) (n : Nat) (x : Loom) : (s.setLoom n x).fuses = s.fuses := rfl
@[simp] theorem State.setLoom_straps (s : State) (n : Nat) (x : Loom) : (s.setLoom n x).straps = s.straps := rfl
@[simp] theorem State.setLoom_snap (s : State) (n : Nat) (x : Loom) : (s.setLoom n x).snap = s.snap := rfl
@[simp] theorem State.setLoom_time (s : State) (n : Nat) (x : Loom) : (s.setLoom n x).time = s.time := rfl
@[simp] theorem State.setLoom_link (s : State) (n : Nat) (x : Loom) : (s.setLoom n x).link = s.link := rfl
@[simp] theorem State.setLoom_die (s : State) (n : Nat) (x : Loom) : (s.setLoom n x).die = s.die := rfl
@[simp] theorem State.setLoom_field (s : State) (n : Nat) (x : Loom) : (s.setLoom n x).field = s.field := rfl
@[simp] theorem State.setLoom_cams (s : State) (n : Nat) (x : Loom) : (s.setLoom n x).cams = s.cams := rfl
@[simp] theorem State.setLoom_pipes (s : State) (n : Nat) (x : Loom) : (s.setLoom n x).pipes = s.pipes := rfl
@[simp] theorem State.setLoom_rules (s : State) (n : Nat) (x : Loom) : (s.setLoom n x).rules = s.rules := rfl
@[simp] theorem State.setLoom_bobs (s : State) (n : Nat) (x : Loom) : (s.setLoom n x).bobs = s.bobs := rfl
@[simp] theorem State.setLoom_lastBob (s : State) (n : Nat) (x : Loom) : (s.setLoom n x).lastBob = s.lastBob := rfl
@[simp] theorem State.setLoom_intake (s : State) (n : Nat) (x : Loom) : (s.setLoom n x).intake = s.intake := rfl
@[simp] theorem State.setLoom_sched (s : State) (n : Nat) (x : Loom) : (s.setLoom n x).sched = s.sched := rfl
@[simp] theorem State.setLoom_twin (s : State) (n : Nat) (x : Loom) : (s.setLoom n x).twin = s.twin := rfl
@[simp] theorem State.setLoom_power (s : State) (n : Nat) (x : Loom) : (s.setLoom n x).power = s.power := rfl
@[simp] theorem State.setLoom_tdcSeen (s : State) (n : Nat) (x : Loom) : (s.setLoom n x).tdcSeen = s.tdcSeen := rfl
@[simp] theorem State.setLoom_fenceDue (s : State) (n : Nat) (x : Loom) : (s.setLoom n x).fenceDue = s.fenceDue := rfl
@[simp] theorem State.setLoom_splits (s : State) (n : Nat) (x : Loom) : (s.setLoom n x).splits = s.splits := rfl
@[simp] theorem State.setLoom_copies (s : State) (n : Nat) (x : Loom) : (s.setLoom n x).copies = s.copies := rfl
@[simp] theorem State.setLoom_freeUse (s : State) (n : Nat) (x : Loom) : (s.setLoom n x).freeUse = s.freeUse := rfl
@[simp] theorem State.setLoom_pending (s : State) (n : Nat) (x : Loom) : (s.setLoom n x).pending = s.pending := rfl

/-! ### A partition: `State.setPart` -/

@[simp] theorem State.setPart_regs (s : State) (p : Nat) (x : Partition) : (s.setPart p x).regs = s.regs := rfl
@[simp] theorem State.setPart_latch (s : State) (p : Nat) (x : Partition) : (s.setPart p x).latch = s.latch := rfl
@[simp] theorem State.setPart_mem (s : State) (p : Nat) (x : Partition) : (s.setPart p x).mem = s.mem := rfl
@[simp] theorem State.setPart_fills (s : State) (p : Nat) (x : Partition) : (s.setPart p x).fills = s.fills := rfl
@[simp] theorem State.setPart_scrub (s : State) (p : Nat) (x : Partition) : (s.setPart p x).scrub = s.scrub := rfl
@[simp] theorem State.setPart_i3c (s : State) (p : Nat) (x : Partition) : (s.setPart p x).i3c = s.i3c := rfl
@[simp] theorem State.setPart_host (s : State) (p : Nat) (x : Partition) : (s.setPart p x).host = s.host := rfl
@[simp] theorem State.setPart_boot (s : State) (p : Nat) (x : Partition) : (s.setPart p x).boot = s.boot := rfl
@[simp] theorem State.setPart_fuses (s : State) (p : Nat) (x : Partition) : (s.setPart p x).fuses = s.fuses := rfl
@[simp] theorem State.setPart_straps (s : State) (p : Nat) (x : Partition) : (s.setPart p x).straps = s.straps := rfl
@[simp] theorem State.setPart_snap (s : State) (p : Nat) (x : Partition) : (s.setPart p x).snap = s.snap := rfl
@[simp] theorem State.setPart_time (s : State) (p : Nat) (x : Partition) : (s.setPart p x).time = s.time := rfl
@[simp] theorem State.setPart_link (s : State) (p : Nat) (x : Partition) : (s.setPart p x).link = s.link := rfl
@[simp] theorem State.setPart_die (s : State) (p : Nat) (x : Partition) : (s.setPart p x).die = s.die := rfl
@[simp] theorem State.setPart_field (s : State) (p : Nat) (x : Partition) : (s.setPart p x).field = s.field := rfl
@[simp] theorem State.setPart_cams (s : State) (p : Nat) (x : Partition) : (s.setPart p x).cams = s.cams := rfl
@[simp] theorem State.setPart_pipes (s : State) (p : Nat) (x : Partition) : (s.setPart p x).pipes = s.pipes := rfl
@[simp] theorem State.setPart_rules (s : State) (p : Nat) (x : Partition) : (s.setPart p x).rules = s.rules := rfl
@[simp] theorem State.setPart_bobs (s : State) (p : Nat) (x : Partition) : (s.setPart p x).bobs = s.bobs := rfl
@[simp] theorem State.setPart_lastBob (s : State) (p : Nat) (x : Partition) : (s.setPart p x).lastBob = s.lastBob := rfl
@[simp] theorem State.setPart_intake (s : State) (p : Nat) (x : Partition) : (s.setPart p x).intake = s.intake := rfl
@[simp] theorem State.setPart_looms (s : State) (p : Nat) (x : Partition) : (s.setPart p x).looms = s.looms := rfl
@[simp] theorem State.setPart_twin (s : State) (p : Nat) (x : Partition) : (s.setPart p x).twin = s.twin := rfl
@[simp] theorem State.setPart_power (s : State) (p : Nat) (x : Partition) : (s.setPart p x).power = s.power := rfl
@[simp] theorem State.setPart_tdcSeen (s : State) (p : Nat) (x : Partition) : (s.setPart p x).tdcSeen = s.tdcSeen := rfl
@[simp] theorem State.setPart_fenceDue (s : State) (p : Nat) (x : Partition) : (s.setPart p x).fenceDue = s.fenceDue := rfl
@[simp] theorem State.setPart_splits (s : State) (p : Nat) (x : Partition) : (s.setPart p x).splits = s.splits := rfl
@[simp] theorem State.setPart_copies (s : State) (p : Nat) (x : Partition) : (s.setPart p x).copies = s.copies := rfl
@[simp] theorem State.setPart_freeUse (s : State) (p : Nat) (x : Partition) : (s.setPart p x).freeUse = s.freeUse := rfl
@[simp] theorem State.setPart_pending (s : State) (p : Nat) (x : Partition) : (s.setPart p x).pending = s.pending := rfl

/-! ### A count mirror: `State.setMirror` -/

@[simp] theorem State.setMirror_regs (s : State) (c : Nat) (x : Mirror) : (s.setMirror c x).regs = s.regs := rfl
@[simp] theorem State.setMirror_latch (s : State) (c : Nat) (x : Mirror) : (s.setMirror c x).latch = s.latch := rfl
@[simp] theorem State.setMirror_mem (s : State) (c : Nat) (x : Mirror) : (s.setMirror c x).mem = s.mem := rfl
@[simp] theorem State.setMirror_fills (s : State) (c : Nat) (x : Mirror) : (s.setMirror c x).fills = s.fills := rfl
@[simp] theorem State.setMirror_scrub (s : State) (c : Nat) (x : Mirror) : (s.setMirror c x).scrub = s.scrub := rfl
@[simp] theorem State.setMirror_i3c (s : State) (c : Nat) (x : Mirror) : (s.setMirror c x).i3c = s.i3c := rfl
@[simp] theorem State.setMirror_host (s : State) (c : Nat) (x : Mirror) : (s.setMirror c x).host = s.host := rfl
@[simp] theorem State.setMirror_boot (s : State) (c : Nat) (x : Mirror) : (s.setMirror c x).boot = s.boot := rfl
@[simp] theorem State.setMirror_fuses (s : State) (c : Nat) (x : Mirror) : (s.setMirror c x).fuses = s.fuses := rfl
@[simp] theorem State.setMirror_straps (s : State) (c : Nat) (x : Mirror) : (s.setMirror c x).straps = s.straps := rfl
@[simp] theorem State.setMirror_snap (s : State) (c : Nat) (x : Mirror) : (s.setMirror c x).snap = s.snap := rfl
@[simp] theorem State.setMirror_time (s : State) (c : Nat) (x : Mirror) : (s.setMirror c x).time = s.time := rfl
@[simp] theorem State.setMirror_link (s : State) (c : Nat) (x : Mirror) : (s.setMirror c x).link = s.link := rfl
@[simp] theorem State.setMirror_die (s : State) (c : Nat) (x : Mirror) : (s.setMirror c x).die = s.die := rfl
@[simp] theorem State.setMirror_cams (s : State) (c : Nat) (x : Mirror) : (s.setMirror c x).cams = s.cams := rfl
@[simp] theorem State.setMirror_pipes (s : State) (c : Nat) (x : Mirror) : (s.setMirror c x).pipes = s.pipes := rfl
@[simp] theorem State.setMirror_rules (s : State) (c : Nat) (x : Mirror) : (s.setMirror c x).rules = s.rules := rfl
@[simp] theorem State.setMirror_bobs (s : State) (c : Nat) (x : Mirror) : (s.setMirror c x).bobs = s.bobs := rfl
@[simp] theorem State.setMirror_lastBob (s : State) (c : Nat) (x : Mirror) : (s.setMirror c x).lastBob = s.lastBob := rfl
@[simp] theorem State.setMirror_intake (s : State) (c : Nat) (x : Mirror) : (s.setMirror c x).intake = s.intake := rfl
@[simp] theorem State.setMirror_looms (s : State) (c : Nat) (x : Mirror) : (s.setMirror c x).looms = s.looms := rfl
@[simp] theorem State.setMirror_sched (s : State) (c : Nat) (x : Mirror) : (s.setMirror c x).sched = s.sched := rfl
@[simp] theorem State.setMirror_twin (s : State) (c : Nat) (x : Mirror) : (s.setMirror c x).twin = s.twin := rfl
@[simp] theorem State.setMirror_power (s : State) (c : Nat) (x : Mirror) : (s.setMirror c x).power = s.power := rfl
@[simp] theorem State.setMirror_tdcSeen (s : State) (c : Nat) (x : Mirror) : (s.setMirror c x).tdcSeen = s.tdcSeen := rfl
@[simp] theorem State.setMirror_fenceDue (s : State) (c : Nat) (x : Mirror) : (s.setMirror c x).fenceDue = s.fenceDue := rfl
@[simp] theorem State.setMirror_splits (s : State) (c : Nat) (x : Mirror) : (s.setMirror c x).splits = s.splits := rfl
@[simp] theorem State.setMirror_copies (s : State) (c : Nat) (x : Mirror) : (s.setMirror c x).copies = s.copies := rfl
@[simp] theorem State.setMirror_freeUse (s : State) (c : Nat) (x : Mirror) : (s.setMirror c x).freeUse = s.freeUse := rfl
@[simp] theorem State.setMirror_pending (s : State) (c : Nat) (x : Mirror) : (s.setMirror c x).pending = s.pending := rfl

/-! ### An encoder channel: `State.setEnc` -/

@[simp] theorem State.setEnc_regs (s : State) (c : Nat) (x : EncCh) : (s.setEnc c x).regs = s.regs := rfl
@[simp] theorem State.setEnc_latch (s : State) (c : Nat) (x : EncCh) : (s.setEnc c x).latch = s.latch := rfl
@[simp] theorem State.setEnc_mem (s : State) (c : Nat) (x : EncCh) : (s.setEnc c x).mem = s.mem := rfl
@[simp] theorem State.setEnc_fills (s : State) (c : Nat) (x : EncCh) : (s.setEnc c x).fills = s.fills := rfl
@[simp] theorem State.setEnc_scrub (s : State) (c : Nat) (x : EncCh) : (s.setEnc c x).scrub = s.scrub := rfl
@[simp] theorem State.setEnc_i3c (s : State) (c : Nat) (x : EncCh) : (s.setEnc c x).i3c = s.i3c := rfl
@[simp] theorem State.setEnc_host (s : State) (c : Nat) (x : EncCh) : (s.setEnc c x).host = s.host := rfl
@[simp] theorem State.setEnc_boot (s : State) (c : Nat) (x : EncCh) : (s.setEnc c x).boot = s.boot := rfl
@[simp] theorem State.setEnc_fuses (s : State) (c : Nat) (x : EncCh) : (s.setEnc c x).fuses = s.fuses := rfl
@[simp] theorem State.setEnc_straps (s : State) (c : Nat) (x : EncCh) : (s.setEnc c x).straps = s.straps := rfl
@[simp] theorem State.setEnc_snap (s : State) (c : Nat) (x : EncCh) : (s.setEnc c x).snap = s.snap := rfl
@[simp] theorem State.setEnc_time (s : State) (c : Nat) (x : EncCh) : (s.setEnc c x).time = s.time := rfl
@[simp] theorem State.setEnc_link (s : State) (c : Nat) (x : EncCh) : (s.setEnc c x).link = s.link := rfl
@[simp] theorem State.setEnc_field (s : State) (c : Nat) (x : EncCh) : (s.setEnc c x).field = s.field := rfl
@[simp] theorem State.setEnc_cams (s : State) (c : Nat) (x : EncCh) : (s.setEnc c x).cams = s.cams := rfl
@[simp] theorem State.setEnc_pipes (s : State) (c : Nat) (x : EncCh) : (s.setEnc c x).pipes = s.pipes := rfl
@[simp] theorem State.setEnc_rules (s : State) (c : Nat) (x : EncCh) : (s.setEnc c x).rules = s.rules := rfl
@[simp] theorem State.setEnc_bobs (s : State) (c : Nat) (x : EncCh) : (s.setEnc c x).bobs = s.bobs := rfl
@[simp] theorem State.setEnc_lastBob (s : State) (c : Nat) (x : EncCh) : (s.setEnc c x).lastBob = s.lastBob := rfl
@[simp] theorem State.setEnc_intake (s : State) (c : Nat) (x : EncCh) : (s.setEnc c x).intake = s.intake := rfl
@[simp] theorem State.setEnc_looms (s : State) (c : Nat) (x : EncCh) : (s.setEnc c x).looms = s.looms := rfl
@[simp] theorem State.setEnc_sched (s : State) (c : Nat) (x : EncCh) : (s.setEnc c x).sched = s.sched := rfl
@[simp] theorem State.setEnc_twin (s : State) (c : Nat) (x : EncCh) : (s.setEnc c x).twin = s.twin := rfl
@[simp] theorem State.setEnc_power (s : State) (c : Nat) (x : EncCh) : (s.setEnc c x).power = s.power := rfl
@[simp] theorem State.setEnc_tdcSeen (s : State) (c : Nat) (x : EncCh) : (s.setEnc c x).tdcSeen = s.tdcSeen := rfl
@[simp] theorem State.setEnc_fenceDue (s : State) (c : Nat) (x : EncCh) : (s.setEnc c x).fenceDue = s.fenceDue := rfl
@[simp] theorem State.setEnc_splits (s : State) (c : Nat) (x : EncCh) : (s.setEnc c x).splits = s.splits := rfl
@[simp] theorem State.setEnc_copies (s : State) (c : Nat) (x : EncCh) : (s.setEnc c x).copies = s.copies := rfl
@[simp] theorem State.setEnc_freeUse (s : State) (c : Nat) (x : EncCh) : (s.setEnc c x).freeUse = s.freeUse := rfl
@[simp] theorem State.setEnc_pending (s : State) (c : Nat) (x : EncCh) : (s.setEnc c x).pending = s.pending := rfl

/-! ### An entry of the eject table: `State.setEntry` -/

@[simp] theorem State.setEntry_regs (s : State) (e : Nat) (x : Entry) : (s.setEntry e x).regs = s.regs := rfl
@[simp] theorem State.setEntry_latch (s : State) (e : Nat) (x : Entry) : (s.setEntry e x).latch = s.latch := rfl
@[simp] theorem State.setEntry_mem (s : State) (e : Nat) (x : Entry) : (s.setEntry e x).mem = s.mem := rfl
@[simp] theorem State.setEntry_fills (s : State) (e : Nat) (x : Entry) : (s.setEntry e x).fills = s.fills := rfl
@[simp] theorem State.setEntry_scrub (s : State) (e : Nat) (x : Entry) : (s.setEntry e x).scrub = s.scrub := rfl
@[simp] theorem State.setEntry_i3c (s : State) (e : Nat) (x : Entry) : (s.setEntry e x).i3c = s.i3c := rfl
@[simp] theorem State.setEntry_host (s : State) (e : Nat) (x : Entry) : (s.setEntry e x).host = s.host := rfl
@[simp] theorem State.setEntry_boot (s : State) (e : Nat) (x : Entry) : (s.setEntry e x).boot = s.boot := rfl
@[simp] theorem State.setEntry_fuses (s : State) (e : Nat) (x : Entry) : (s.setEntry e x).fuses = s.fuses := rfl
@[simp] theorem State.setEntry_straps (s : State) (e : Nat) (x : Entry) : (s.setEntry e x).straps = s.straps := rfl
@[simp] theorem State.setEntry_snap (s : State) (e : Nat) (x : Entry) : (s.setEntry e x).snap = s.snap := rfl
@[simp] theorem State.setEntry_time (s : State) (e : Nat) (x : Entry) : (s.setEntry e x).time = s.time := rfl
@[simp] theorem State.setEntry_link (s : State) (e : Nat) (x : Entry) : (s.setEntry e x).link = s.link := rfl
@[simp] theorem State.setEntry_field (s : State) (e : Nat) (x : Entry) : (s.setEntry e x).field = s.field := rfl
@[simp] theorem State.setEntry_cams (s : State) (e : Nat) (x : Entry) : (s.setEntry e x).cams = s.cams := rfl
@[simp] theorem State.setEntry_pipes (s : State) (e : Nat) (x : Entry) : (s.setEntry e x).pipes = s.pipes := rfl
@[simp] theorem State.setEntry_rules (s : State) (e : Nat) (x : Entry) : (s.setEntry e x).rules = s.rules := rfl
@[simp] theorem State.setEntry_bobs (s : State) (e : Nat) (x : Entry) : (s.setEntry e x).bobs = s.bobs := rfl
@[simp] theorem State.setEntry_lastBob (s : State) (e : Nat) (x : Entry) : (s.setEntry e x).lastBob = s.lastBob := rfl
@[simp] theorem State.setEntry_intake (s : State) (e : Nat) (x : Entry) : (s.setEntry e x).intake = s.intake := rfl
@[simp] theorem State.setEntry_looms (s : State) (e : Nat) (x : Entry) : (s.setEntry e x).looms = s.looms := rfl
@[simp] theorem State.setEntry_sched (s : State) (e : Nat) (x : Entry) : (s.setEntry e x).sched = s.sched := rfl
@[simp] theorem State.setEntry_twin (s : State) (e : Nat) (x : Entry) : (s.setEntry e x).twin = s.twin := rfl
@[simp] theorem State.setEntry_power (s : State) (e : Nat) (x : Entry) : (s.setEntry e x).power = s.power := rfl
@[simp] theorem State.setEntry_tdcSeen (s : State) (e : Nat) (x : Entry) : (s.setEntry e x).tdcSeen = s.tdcSeen := rfl
@[simp] theorem State.setEntry_fenceDue (s : State) (e : Nat) (x : Entry) : (s.setEntry e x).fenceDue = s.fenceDue := rfl
@[simp] theorem State.setEntry_splits (s : State) (e : Nat) (x : Entry) : (s.setEntry e x).splits = s.splits := rfl
@[simp] theorem State.setEntry_copies (s : State) (e : Nat) (x : Entry) : (s.setEntry e x).copies = s.copies := rfl
@[simp] theorem State.setEntry_freeUse (s : State) (e : Nat) (x : Entry) : (s.setEntry e x).freeUse = s.freeUse := rfl
@[simp] theorem State.setEntry_pending (s : State) (e : Nat) (x : Entry) : (s.setEntry e x).pending = s.pending := rfl

/-! ### A PTP domain: `State.setDom` -/

@[simp] theorem State.setDom_regs (s : State) (d : Nat) (x : Domain) : (s.setDom d x).regs = s.regs := rfl
@[simp] theorem State.setDom_latch (s : State) (d : Nat) (x : Domain) : (s.setDom d x).latch = s.latch := rfl
@[simp] theorem State.setDom_mem (s : State) (d : Nat) (x : Domain) : (s.setDom d x).mem = s.mem := rfl
@[simp] theorem State.setDom_fills (s : State) (d : Nat) (x : Domain) : (s.setDom d x).fills = s.fills := rfl
@[simp] theorem State.setDom_scrub (s : State) (d : Nat) (x : Domain) : (s.setDom d x).scrub = s.scrub := rfl
@[simp] theorem State.setDom_i3c (s : State) (d : Nat) (x : Domain) : (s.setDom d x).i3c = s.i3c := rfl
@[simp] theorem State.setDom_host (s : State) (d : Nat) (x : Domain) : (s.setDom d x).host = s.host := rfl
@[simp] theorem State.setDom_boot (s : State) (d : Nat) (x : Domain) : (s.setDom d x).boot = s.boot := rfl
@[simp] theorem State.setDom_fuses (s : State) (d : Nat) (x : Domain) : (s.setDom d x).fuses = s.fuses := rfl
@[simp] theorem State.setDom_straps (s : State) (d : Nat) (x : Domain) : (s.setDom d x).straps = s.straps := rfl
@[simp] theorem State.setDom_snap (s : State) (d : Nat) (x : Domain) : (s.setDom d x).snap = s.snap := rfl
@[simp] theorem State.setDom_link (s : State) (d : Nat) (x : Domain) : (s.setDom d x).link = s.link := rfl
@[simp] theorem State.setDom_die (s : State) (d : Nat) (x : Domain) : (s.setDom d x).die = s.die := rfl
@[simp] theorem State.setDom_field (s : State) (d : Nat) (x : Domain) : (s.setDom d x).field = s.field := rfl
@[simp] theorem State.setDom_cams (s : State) (d : Nat) (x : Domain) : (s.setDom d x).cams = s.cams := rfl
@[simp] theorem State.setDom_pipes (s : State) (d : Nat) (x : Domain) : (s.setDom d x).pipes = s.pipes := rfl
@[simp] theorem State.setDom_rules (s : State) (d : Nat) (x : Domain) : (s.setDom d x).rules = s.rules := rfl
@[simp] theorem State.setDom_bobs (s : State) (d : Nat) (x : Domain) : (s.setDom d x).bobs = s.bobs := rfl
@[simp] theorem State.setDom_lastBob (s : State) (d : Nat) (x : Domain) : (s.setDom d x).lastBob = s.lastBob := rfl
@[simp] theorem State.setDom_intake (s : State) (d : Nat) (x : Domain) : (s.setDom d x).intake = s.intake := rfl
@[simp] theorem State.setDom_looms (s : State) (d : Nat) (x : Domain) : (s.setDom d x).looms = s.looms := rfl
@[simp] theorem State.setDom_sched (s : State) (d : Nat) (x : Domain) : (s.setDom d x).sched = s.sched := rfl
@[simp] theorem State.setDom_twin (s : State) (d : Nat) (x : Domain) : (s.setDom d x).twin = s.twin := rfl
@[simp] theorem State.setDom_power (s : State) (d : Nat) (x : Domain) : (s.setDom d x).power = s.power := rfl
@[simp] theorem State.setDom_tdcSeen (s : State) (d : Nat) (x : Domain) : (s.setDom d x).tdcSeen = s.tdcSeen := rfl
@[simp] theorem State.setDom_fenceDue (s : State) (d : Nat) (x : Domain) : (s.setDom d x).fenceDue = s.fenceDue := rfl
@[simp] theorem State.setDom_splits (s : State) (d : Nat) (x : Domain) : (s.setDom d x).splits = s.splits := rfl
@[simp] theorem State.setDom_copies (s : State) (d : Nat) (x : Domain) : (s.setDom d x).copies = s.copies := rfl
@[simp] theorem State.setDom_freeUse (s : State) (d : Nat) (x : Domain) : (s.setDom d x).freeUse = s.freeUse := rfl
@[simp] theorem State.setDom_pending (s : State) (d : Nat) (x : Domain) : (s.setDom d x).pending = s.pending := rfl

/-! ### An Ethernet port: `State.setEth` -/

@[simp] theorem State.setEth_regs (s : State) (p : Nat) (x : EthPort) : (s.setEth p x).regs = s.regs := rfl
@[simp] theorem State.setEth_latch (s : State) (p : Nat) (x : EthPort) : (s.setEth p x).latch = s.latch := rfl
@[simp] theorem State.setEth_mem (s : State) (p : Nat) (x : EthPort) : (s.setEth p x).mem = s.mem := rfl
@[simp] theorem State.setEth_fills (s : State) (p : Nat) (x : EthPort) : (s.setEth p x).fills = s.fills := rfl
@[simp] theorem State.setEth_scrub (s : State) (p : Nat) (x : EthPort) : (s.setEth p x).scrub = s.scrub := rfl
@[simp] theorem State.setEth_i3c (s : State) (p : Nat) (x : EthPort) : (s.setEth p x).i3c = s.i3c := rfl
@[simp] theorem State.setEth_host (s : State) (p : Nat) (x : EthPort) : (s.setEth p x).host = s.host := rfl
@[simp] theorem State.setEth_boot (s : State) (p : Nat) (x : EthPort) : (s.setEth p x).boot = s.boot := rfl
@[simp] theorem State.setEth_fuses (s : State) (p : Nat) (x : EthPort) : (s.setEth p x).fuses = s.fuses := rfl
@[simp] theorem State.setEth_straps (s : State) (p : Nat) (x : EthPort) : (s.setEth p x).straps = s.straps := rfl
@[simp] theorem State.setEth_snap (s : State) (p : Nat) (x : EthPort) : (s.setEth p x).snap = s.snap := rfl
@[simp] theorem State.setEth_link (s : State) (p : Nat) (x : EthPort) : (s.setEth p x).link = s.link := rfl
@[simp] theorem State.setEth_die (s : State) (p : Nat) (x : EthPort) : (s.setEth p x).die = s.die := rfl
@[simp] theorem State.setEth_field (s : State) (p : Nat) (x : EthPort) : (s.setEth p x).field = s.field := rfl
@[simp] theorem State.setEth_cams (s : State) (p : Nat) (x : EthPort) : (s.setEth p x).cams = s.cams := rfl
@[simp] theorem State.setEth_pipes (s : State) (p : Nat) (x : EthPort) : (s.setEth p x).pipes = s.pipes := rfl
@[simp] theorem State.setEth_rules (s : State) (p : Nat) (x : EthPort) : (s.setEth p x).rules = s.rules := rfl
@[simp] theorem State.setEth_bobs (s : State) (p : Nat) (x : EthPort) : (s.setEth p x).bobs = s.bobs := rfl
@[simp] theorem State.setEth_lastBob (s : State) (p : Nat) (x : EthPort) : (s.setEth p x).lastBob = s.lastBob := rfl
@[simp] theorem State.setEth_intake (s : State) (p : Nat) (x : EthPort) : (s.setEth p x).intake = s.intake := rfl
@[simp] theorem State.setEth_looms (s : State) (p : Nat) (x : EthPort) : (s.setEth p x).looms = s.looms := rfl
@[simp] theorem State.setEth_sched (s : State) (p : Nat) (x : EthPort) : (s.setEth p x).sched = s.sched := rfl
@[simp] theorem State.setEth_twin (s : State) (p : Nat) (x : EthPort) : (s.setEth p x).twin = s.twin := rfl
@[simp] theorem State.setEth_power (s : State) (p : Nat) (x : EthPort) : (s.setEth p x).power = s.power := rfl
@[simp] theorem State.setEth_tdcSeen (s : State) (p : Nat) (x : EthPort) : (s.setEth p x).tdcSeen = s.tdcSeen := rfl
@[simp] theorem State.setEth_fenceDue (s : State) (p : Nat) (x : EthPort) : (s.setEth p x).fenceDue = s.fenceDue := rfl
@[simp] theorem State.setEth_splits (s : State) (p : Nat) (x : EthPort) : (s.setEth p x).splits = s.splits := rfl
@[simp] theorem State.setEth_copies (s : State) (p : Nat) (x : EthPort) : (s.setEth p x).copies = s.copies := rfl
@[simp] theorem State.setEth_freeUse (s : State) (p : Nat) (x : EthPort) : (s.setEth p x).freeUse = s.freeUse := rfl
@[simp] theorem State.setEth_pending (s : State) (p : Nat) (x : EthPort) : (s.setEth p x).pending = s.pending := rfl

/-! ### The answer on the I3C bus: `State.respond` -/

@[simp] theorem State.respond_regs (s : State) (bs : List Byte) : (s.respond bs).regs = s.regs := rfl
@[simp] theorem State.respond_latch (s : State) (bs : List Byte) : (s.respond bs).latch = s.latch := rfl
@[simp] theorem State.respond_mem (s : State) (bs : List Byte) : (s.respond bs).mem = s.mem := rfl
@[simp] theorem State.respond_fills (s : State) (bs : List Byte) : (s.respond bs).fills = s.fills := rfl
@[simp] theorem State.respond_scrub (s : State) (bs : List Byte) : (s.respond bs).scrub = s.scrub := rfl
@[simp] theorem State.respond_host (s : State) (bs : List Byte) : (s.respond bs).host = s.host := rfl
@[simp] theorem State.respond_boot (s : State) (bs : List Byte) : (s.respond bs).boot = s.boot := rfl
@[simp] theorem State.respond_fuses (s : State) (bs : List Byte) : (s.respond bs).fuses = s.fuses := rfl
@[simp] theorem State.respond_straps (s : State) (bs : List Byte) : (s.respond bs).straps = s.straps := rfl
@[simp] theorem State.respond_snap (s : State) (bs : List Byte) : (s.respond bs).snap = s.snap := rfl
@[simp] theorem State.respond_time (s : State) (bs : List Byte) : (s.respond bs).time = s.time := rfl
@[simp] theorem State.respond_link (s : State) (bs : List Byte) : (s.respond bs).link = s.link := rfl
@[simp] theorem State.respond_die (s : State) (bs : List Byte) : (s.respond bs).die = s.die := rfl
@[simp] theorem State.respond_field (s : State) (bs : List Byte) : (s.respond bs).field = s.field := rfl
@[simp] theorem State.respond_cams (s : State) (bs : List Byte) : (s.respond bs).cams = s.cams := rfl
@[simp] theorem State.respond_pipes (s : State) (bs : List Byte) : (s.respond bs).pipes = s.pipes := rfl
@[simp] theorem State.respond_rules (s : State) (bs : List Byte) : (s.respond bs).rules = s.rules := rfl
@[simp] theorem State.respond_bobs (s : State) (bs : List Byte) : (s.respond bs).bobs = s.bobs := rfl
@[simp] theorem State.respond_lastBob (s : State) (bs : List Byte) : (s.respond bs).lastBob = s.lastBob := rfl
@[simp] theorem State.respond_intake (s : State) (bs : List Byte) : (s.respond bs).intake = s.intake := rfl
@[simp] theorem State.respond_looms (s : State) (bs : List Byte) : (s.respond bs).looms = s.looms := rfl
@[simp] theorem State.respond_sched (s : State) (bs : List Byte) : (s.respond bs).sched = s.sched := rfl
@[simp] theorem State.respond_twin (s : State) (bs : List Byte) : (s.respond bs).twin = s.twin := rfl
@[simp] theorem State.respond_power (s : State) (bs : List Byte) : (s.respond bs).power = s.power := rfl
@[simp] theorem State.respond_tdcSeen (s : State) (bs : List Byte) : (s.respond bs).tdcSeen = s.tdcSeen := rfl
@[simp] theorem State.respond_fenceDue (s : State) (bs : List Byte) : (s.respond bs).fenceDue = s.fenceDue := rfl
@[simp] theorem State.respond_splits (s : State) (bs : List Byte) : (s.respond bs).splits = s.splits := rfl
@[simp] theorem State.respond_copies (s : State) (bs : List Byte) : (s.respond bs).copies = s.copies := rfl
@[simp] theorem State.respond_freeUse (s : State) (bs : List Byte) : (s.respond bs).freeUse = s.freeUse := rfl
@[simp] theorem State.respond_pending (s : State) (bs : List Byte) : (s.respond bs).pending = s.pending := rfl

/-! ### What is read back -/

@[simp] theorem State.cam_setCam (s : State) (k : Nat) (x : CamPort) : (s.setCam k x).cam k = x := by
  simp [State.cam, State.setCam]

theorem State.cam_setCam_other (s : State) {k m : Nat} (x : CamPort) (h : m ≠ k) : (s.setCam k x).cam m = s.cam m := by
  simp [State.cam, State.setCam, tgetD_tset_other _ _ _ h]

@[simp] theorem State.pipe_setPipe (s : State) (k : Nat) (x : Pipe) : (s.setPipe k x).pipe k = x := by
  simp [State.pipe, State.setPipe]

theorem State.pipe_setPipe_other (s : State) {k m : Nat} (x : Pipe) (h : m ≠ k) : (s.setPipe k x).pipe m = s.pipe m := by
  simp [State.pipe, State.setPipe, tgetD_tset_other _ _ _ h]

@[simp] theorem State.rule_setRule (s : State) (k : Nat) (x : Rule) : (s.setRule k x).rule k = x := by
  simp [State.rule, State.setRule]

theorem State.rule_setRule_other (s : State) {k m : Nat} (x : Rule) (h : m ≠ k) : (s.setRule k x).rule m = s.rule m := by
  simp [State.rule, State.setRule, tgetD_tset_other _ _ _ h]

@[simp] theorem State.bob_setBob (s : State) (k : Nat) (x : Bobbin) : (s.setBob k x).bob k = x := by
  simp [State.bob, State.setBob]

theorem State.bob_setBob_other (s : State) {k m : Nat} (x : Bobbin) (h : m ≠ k) : (s.setBob k x).bob m = s.bob m := by
  simp [State.bob, State.setBob, tgetD_tset_other _ _ _ h]

@[simp] theorem State.loom_setLoom (s : State) (k : Nat) (x : Loom) : (s.setLoom k x).loom k = x := by
  simp [State.loom, State.setLoom]

theorem State.loom_setLoom_other (s : State) {k m : Nat} (x : Loom) (h : m ≠ k) : (s.setLoom k x).loom m = s.loom m := by
  simp [State.loom, State.setLoom, tgetD_tset_other _ _ _ h]

@[simp] theorem State.part_setPart (s : State) (k : Nat) (x : Partition) : (s.setPart k x).part k = x := by
  simp [State.part, State.setPart]

theorem State.part_setPart_other (s : State) {k m : Nat} (x : Partition) (h : m ≠ k) : (s.setPart k x).part m = s.part m := by
  simp [State.part, State.setPart, tgetD_tset_other _ _ _ h]

end Sys2Proof.Machine
end

