-- ==== Sys2Proof/Laws/Memory.lean ====
section
/-! SUPPORT. Laws of the memories: every memory operation keeps the canonical form and changes nothing but the memories,
registers and the fences it makes due; a byte reads as it was written. -/

namespace Sys2Proof.Machine

/-! ### The canonical form, as three parts -/

theorem cellsOk_iff (lo : Nat) (t : List (Nat × BitVec 8)) :
    cellsOk lo t = true ↔ tsortedFrom lo t = true ∧ ∀ e ∈ t, e.2 ≠ 0 := by
  induction t generalizing lo with
  | nil => simp [cellsOk, tsortedFrom]
  | cons e t ih => simp [cellsOk, tsortedFrom, ih]; tauto

theorem Memory.wf_iff (m : Memory) : m.wf = true ↔
    (tsorted m.cells = true ∧ ∀ e ∈ m.cells, e.2 ≠ 0) ∧ tsorted m.clean = true ∧ tsorted m.valid = true ∧
      tsorted m.flaws = true ∧ tsorted m.met = true := by
  simp [Memory.wf, cellsOk_iff, tsorted, and_assoc]

theorem mem_tset {α : Type} {t : Tbl α} {k : Nat} {v : α} {e : Nat × α} (h : e ∈ tset t k v) : e = (k, v) ∨ e ∈ t := by
  induction t with
  | nil => simpa [tset] using h
  | cons x t ih =>
    obtain ⟨i, w⟩ := x
    simp only [tset] at h
    split_ifs at h <;> simp only [List.mem_cons] at h ⊢ <;> tauto

theorem mem_tdel {α : Type} {t : Tbl α} {k : Nat} {e : Nat × α} (h : e ∈ tdel t k) : e ∈ t := by
  induction t with
  | nil => simp [tdel] at h
  | cons x t ih =>
    obtain ⟨i, w⟩ := x
    simp only [tdel] at h
    split_ifs at h <;> simp only [List.mem_cons] at h ⊢ <;> tauto

/-! ### Every memory operation keeps the canonical form -/

theorem Memory.wf_setByte {m : Memory} (h : m.wf = true) (a : Nat) (b : Byte) : (m.setByte a b).wf = true := by
  rw [Memory.wf_iff] at h ⊢
  obtain ⟨⟨h1, h2⟩, h3⟩ := h
  refine ⟨?_, h3⟩
  unfold Memory.setByte
  split_ifs with hb
  · exact ⟨tsorted_tdel _ h1, fun e he => h2 e (mem_tdel he)⟩
  · refine ⟨tsorted_tset _ _ h1, fun e he => ?_⟩
    rcases mem_tset he with rfl | he
    · exact hb
    · exact h2 e he

theorem Memory.wf_setBytes {m : Memory} (h : m.wf = true) (a : Nat) (bs : List Byte) : (m.setBytes a bs).wf = true := by
  induction bs generalizing m a with
  | nil => exact h
  | cons b t ih => exact ih (Memory.wf_setByte h a b) (a + 1)

theorem Memory.wf_markGood {m : Memory} (h : m.wf = true) (g : Nat) : (m.markGood g).wf = true := by
  rw [Memory.wf_iff] at h ⊢
  obtain ⟨c, k, v, f, t⟩ := h
  exact ⟨c, tsorted_tset g () k, tsorted_tset g () v, tsorted_tdel g f, t⟩

theorem Memory.wf_markBad {m : Memory} (h : m.wf = true) (g : Nat) : (m.markBad g).wf = true := by
  rw [Memory.wf_iff] at h ⊢
  obtain ⟨c, k, v, f, t⟩ := h
  exact ⟨c, tsorted_tdel g k, tsorted_tdel g v, tsorted_tdel g f, t⟩

theorem Memory.wf_mend {m : Memory} (h : m.wf = true) (g : Nat) : (m.mend g).wf = true := by
  rw [Memory.wf_iff] at h ⊢
  obtain ⟨c, k, v, f, t⟩ := h
  exact ⟨c, k, v, tsorted_tdel g f, t⟩

theorem Memory.wf_upset {m : Memory} (h : m.wf = true) (g : Nat) (x : Flaw) : (m.upset g x).wf = true := by
  rw [Memory.wf_iff] at h ⊢
  obtain ⟨c, k, v, f, t⟩ := h
  unfold Memory.upset
  split
  · split_ifs
    · exact ⟨c, k, v, f, t⟩
    · exact ⟨c, tsorted_tdel g k, v, f, t⟩
    · exact ⟨c, tsorted_tset g () k, v, f, t⟩
  · exact ⟨c, k, v, tsorted_tset g x f, t⟩

/-- A note of poison met in the model's cache. -/
theorem Memory.wf_met {m : Memory} (h : m.wf = true) {t : Tbl Unit} (ht : tsorted t = true) : Memory.wf { m with met := t } = true := by
  rw [Memory.wf_iff] at h ⊢
  exact ⟨h.1, h.2.1, h.2.2.1, h.2.2.2.1, ht⟩

/-- Bytes outside some addresses left out, the rest stay in the canonical form. -/
theorem cells_filter {t : Tbl (BitVec 8)} (h : tsorted t = true ∧ ∀ e ∈ t, e.2 ≠ 0) (p : Nat × BitVec 8 → Bool) :
    tsorted (t.filter p) = true ∧ ∀ e ∈ t.filter p, e.2 ≠ 0 :=
  ⟨tsorted_filter p h.1, fun e he => h.2 e (List.mem_of_mem_filter he)⟩

theorem Memory.wf_only {m : Memory} (h : m.wf = true) (p : Nat → Bool) : (m.only p).wf = true := by
  rw [Memory.wf_iff] at h ⊢
  obtain ⟨c, k, v, f, -⟩ := h
  exact ⟨cells_filter c _, tsorted_filter _ k, tsorted_filter _ v, tsorted_filter _ f, rfl⟩

theorem Memory.wf_wipe {m : Memory} (h : m.wf = true) (lo hi : Nat) : (m.wipe lo hi).wf = true := by
  rw [Memory.wf_iff] at h ⊢
  obtain ⟨c, k, v, f, t⟩ := h
  exact ⟨cells_filter c _, tsorted_filter _ k, tsorted_filter _ v, tsorted_filter _ f, t⟩

theorem tsorted_tmerge {α : Type} {t : Tbl α} (h : tsorted t = true) (u : Tbl α) : tsorted (tmerge t u) = true := by
  unfold tmerge
  induction u generalizing t with
  | nil => exact h
  | cons e u ih => exact ih (tsorted_tset e.1 e.2 h)

theorem Memory.wf_putBack {m : Memory} (h : m.wf = true) (n : Memory) : (m.putBack n).wf = true := by
  have hf : (foldState (fun (a : Memory) (e : Nat × BitVec 8) => a.setByte e.1 e.2) m n.cells).wf = true :=
    foldState_keeps (P := fun x : Memory => x.wf = true) (fun x e hx => Memory.wf_setByte hx e.1 e.2) h n.cells
  rw [Memory.wf_iff] at h hf ⊢
  obtain ⟨-, k, v, f, t⟩ := h
  exact ⟨hf.1, tsorted_tmerge k _, tsorted_tmerge v _, tsorted_tmerge f _, t⟩

/-! ### Bytes and marks -/

theorem Memory.byte_setByte {m : Memory} (h : tsorted m.cells = true) (a x : Nat) (b : Byte) :
    (m.setByte a b).byte x = if x = a then b else m.byte x := by
  unfold Memory.byte Memory.setByte
  split_ifs with h1 h2 h2
  · subst h1 h2; simp [tgetD, tget?_tdel_same h]
  · simp [tgetD, tget?_tdel_other _ h2]
  · subst h2; simp
  · simp [tgetD, tget?_tset, h2]

theorem Memory.byte_setByte_other (m : Memory) {a x : Nat} (b : Byte) (hx : x ≠ a) : (m.setByte a b).byte x = m.byte x := by
  unfold Memory.byte Memory.setByte
  split_ifs <;> simp [tgetD, tget?_tdel_other _ hx, tget?_tset, hx]

/-- Bytes outside the stored ones read as before. -/
theorem Memory.byte_setBytes_other (m : Memory) {a x : Nat} (bs : List Byte) (hx : x < a ∨ a + bs.length ≤ x) :
    (m.setBytes a bs).byte x = m.byte x := by
  induction bs generalizing m a with
  | nil => rfl
  | cons b t ih =>
    simp only [List.length_cons] at hx
    rw [Memory.setBytes, ih _ (by omega), Memory.byte_setByte_other _ _ (by omega)]

/-- The stored bytes read as stored. -/
theorem Memory.byte_setBytes {m : Memory} (h : m.wf = true) (a i : Nat) (bs : List Byte) (hi : i < bs.length) :
    (m.setBytes a bs).byte (a + i) = bs[i] := by
  induction bs generalizing m a i with
  | nil => simp at hi
  | cons b t ih =>
    cases i with
    | zero =>
      rw [Memory.setBytes, Memory.byte_setBytes_other _ _ (by omega),
        Memory.byte_setByte ((Memory.wf_iff m).mp h).1.1]
      simp
    | succ i =>
      have := ih (Memory.wf_setByte h a b) (a + 1) i (by simpa using hi)
      rw [Memory.setBytes, show a + (i + 1) = a + 1 + i by omega, this]
      rfl

@[simp] theorem Memory.good_setByte (m : Memory) (a g : Nat) (b : Byte) : (m.setByte a b).good g = m.good g := rfl

@[simp] theorem Memory.good_setBytes (m : Memory) (a g : Nat) (bs : List Byte) : (m.setBytes a bs).good g = m.good g := by
  induction bs generalizing m a with
  | nil => rfl
  | cons b t ih => rw [Memory.setBytes, ih]; rfl

@[simp] theorem Memory.good_markGood_same (m : Memory) (g : Nat) : (m.markGood g).good g = true := by
  simp [Memory.good, Memory.markGood]

theorem Memory.good_markGood_other (m : Memory) {g k : Nat} (h : k ≠ g) : (m.markGood g).good k = m.good k := by
  simp [Memory.good, Memory.markGood, tget?_tset, h]

theorem Memory.good_markBad_same {m : Memory} (h : m.wf = true) (g : Nat) : (m.markBad g).good g = false := by
  simp [Memory.good, Memory.markBad, tget?_tdel_same ((Memory.wf_iff m).mp h).2.1]

/-- Either mark alone poisons a granule (R305). -/
theorem Memory.bad_of_bit {m : Memory} {g : Nat} (h : tget? m.clean g = none) : m.good g = false := by simp [Memory.good, h]

theorem Memory.bad_of_check {m : Memory} {g : Nat} (h : tget? m.valid g = none) : m.good g = false := by simp [Memory.good, h]

theorem Memory.good_markBad_other (m : Memory) {g k : Nat} (h : k ≠ g) : (m.markBad g).good k = m.good k := by
  simp [Memory.good, Memory.markBad, tget?_tdel_other _ h]

@[simp] theorem Memory.byte_markGood (m : Memory) (g a : Nat) : (m.markGood g).byte a = m.byte a := rfl
@[simp] theorem Memory.byte_markBad (m : Memory) (g a : Nat) : (m.markBad g).byte a = m.byte a := rfl
@[simp] theorem Memory.byte_mend (m : Memory) (g a : Nat) : (m.mend g).byte a = m.byte a := rfl
@[simp] theorem Memory.good_mend (m : Memory) (g a : Nat) : (m.mend g).good a = m.good a := rfl

/-! ### The operations on the state -/

/-- What an access of the memories may change: the memories, registers, and the fences that become due. -/
def MemOnly (s t : State) : Prop := t = { s with regs := t.regs, mem := t.mem, fenceDue := t.fenceDue }

theorem MemOnly.refl (s : State) : MemOnly s s := rfl

theorem MemOnly.trans {s t u : State} (h : MemOnly s t) (k : MemOnly t u) : MemOnly s u := by
  unfold MemOnly at *; rw [k, h]

/-- What an access of the memories keeps: the canonical forms. -/
def MemKept (s t : State) : Prop :=
  MemOnly s t ∧ (tsorted s.regs = true → tsorted t.regs = true) ∧ (s.mem.wf = true → t.mem.wf = true)

theorem MemKept.refl (s : State) : MemKept s s := ⟨rfl, id, id⟩

theorem MemKept.trans {s t u : State} (h : MemKept s t) (k : MemKept t u) : MemKept s u :=
  ⟨h.1.trans k.1, fun x => k.2.1 (h.2.1 x), fun x => k.2.2 (h.2.2 x)⟩

theorem MemKept.setReg (s : State) (r : Reg) (v i j : Nat) : MemKept s (s.setReg r v i j) :=
  ⟨rfl, fun h => tsorted_tset _ _ h, id⟩

theorem MemKept.put (s : State) (f : Fld) (v i j : Nat) : MemKept s (s.put f v i j) := MemKept.setReg _ _ _ _ _

theorem MemKept.bump (s : State) (f : Fld) (i j : Nat) : MemKept s (s.bump f i j) := MemKept.put _ _ _ _ _

theorem MemKept.mem {s : State} {m : Memory} (h : s.mem.wf = true → m.wf = true) : MemKept s { s with mem := m } :=
  ⟨rfl, id, h⟩

theorem MemKept.due (s : State) (l : List (Nat × Nat)) : MemKept s { s with fenceDue := l } := ⟨rfl, id, id⟩

theorem State.loomCorrection_kept (s : State) (n : Nat) : MemKept s (s.loomCorrection n) := by
  unfold State.loomCorrection
  simp only
  split_ifs
  · exact (MemKept.bump s _ n 0).trans (MemKept.due _ _)
  · exact MemKept.bump s _ n 0

theorem State.corrected_kept (s : State) (rd : Reader) (g dev : Nat) : MemKept s (s.corrected rd g dev) := by
  have h : MemKept s (State.bump { s with mem := s.mem.mend g } (corrCounter rd g)) :=
    (MemKept.mem fun w => Memory.wf_mend w g).trans (MemKept.bump _ _ _ _)
  unfold State.corrected
  split
  · exact h.trans ((MemKept.put _ _ _ _ _).trans ((MemKept.put _ _ _ _ _).trans (MemKept.put _ _ _ _ _)))
  · exact h.trans (State.loomCorrection_kept _ _)
  · exact h

theorem State.uncorrectable_kept (s : State) (rd : Reader) (g : Nat) : MemKept s (s.uncorrectable rd g) := by
  have h : MemKept s (((State.bump { s with mem := s.mem.markBad g } (ueCounter rd g)).put F.MEM_UE_ADDR_LO_ADDR g).put
      F.MEM_UE_ADDR_HI_ADDR (g / 2 ^ 32)) :=
    (MemKept.mem fun w => Memory.wf_markBad w g).trans
      ((MemKept.bump _ _ _ _).trans ((MemKept.put _ _ _ _ _).trans (MemKept.put _ _ _ _ _)))
  unfold State.uncorrectable
  split
  · exact h.trans (MemKept.due _ _)
  · exact h

/-- The errors that a read of a granule finds. -/
theorem State.found_kept (s : State) (rd : Reader) (g : Nat) : MemKept s (s.found rd g) := by
  unfold State.found
  simp only
  split_ifs
  · split
    · exact State.corrected_kept _ _ _ _
    · exact State.uncorrectable_kept _ _ _
    · exact MemKept.refl s
  all_goals first | exact State.uncorrectable_kept _ _ _ | exact MemKept.refl s

theorem State.meet_kept (s : State) (g : Nat) : MemKept s (s.meet g) := by
  unfold State.meet
  split
  · split_ifs
    · exact MemKept.refl s
    · exact MemKept.mem fun w => Memory.wf_met w (tsorted_tset _ () ((Memory.wf_iff _).mp w).2.2.2.2)
  · exact MemKept.refl s

/-- A read of a granule. -/
theorem State.touch_kept (s : State) (rd : Reader) (g : Nat) : MemKept s (s.touch rd g) :=
  (State.found_kept s rd g).trans (State.meet_kept _ g)

theorem foldState_kept {α : Type} {f : State → α → State} (h : ∀ s a, MemKept s (f s a)) (s : State) (l : List α) :
    MemKept s (foldState f s l) :=
  foldState_keeps (P := fun t => MemKept s t) (fun t a ht => ht.trans (h t a)) (MemKept.refl s) l

/-- A read of a range. -/
theorem State.readData_kept (s : State) (a n : Nat) : MemKept s (s.readData a n).1 :=
  foldState_kept (fun t g => State.touch_kept t .foreground g) s _

theorem State.writeShare_kept (s : State) (a : Nat) (d : Data) : MemKept s (s.writeShare a d) := by
  unfold State.writeShare
  simp only
  split_ifs
  · exact MemKept.mem fun w => Memory.wf_markGood (Memory.wf_setBytes w _ _) _
  · exact MemKept.mem fun w => Memory.wf_markBad (Memory.wf_setBytes w _ _) _
  · exact (State.touch_kept _ _ _).trans (MemKept.mem fun w => Memory.wf_setBytes w _ _)
  · exact (State.touch_kept _ _ _).trans (MemKept.mem fun w => Memory.wf_markBad (Memory.wf_setBytes w _ _) _)

theorem State.writeFuel_kept (s : State) (fuel a : Nat) (d : Data) : MemKept s (s.writeFuel fuel a d) := by
  induction fuel generalizing s a d with
  | zero => exact MemKept.refl s
  | succ n ih =>
    cases d with
    | nil => exact MemKept.refl s
    | cons x d => exact (State.writeShare_kept s a _).trans (ih _ _ _)

/-- A write of a range: made, or kept until the wipe has passed it (R317). -/
theorem State.writeData_kept (s : State) (a : Nat) (d : Data) : MemKept s (s.writeData a d) := by
  unfold State.writeData
  split_ifs
  · exact MemKept.mem fun w => (Memory.wf_iff _).mpr ((Memory.wf_iff _).mp w)
  · exact State.writeFuel_kept s _ a d

/-- The writes that the wipe has let through. -/
theorem State.releaseHeld_kept (s : State) : MemKept s s.releaseHeld := by
  refine (MemKept.mem (m := { s.mem with held := [] }) fun w => (Memory.wf_iff _).mpr ((Memory.wf_iff _).mp w)).trans ?_
  exact foldState_kept (fun t e => State.writeData_kept t e.1 e.2) _ s.mem.held

theorem State.poisonRange_kept (s : State) (a n : Nat) : MemKept s (s.poisonRange a n) := State.writeData_kept s a _

theorem State.withFlaws_kept (s : State) (errs : List (Nat × Flaw)) : MemKept s (s.withFlaws errs) :=
  MemKept.mem fun w => foldState_keeps (P := fun m : Memory => m.wf = true) (fun _ e hm => Memory.wf_upset hm _ e.2) w errs

end Sys2Proof.Machine
end

