-- ==== Sys2Proof/Laws/Registers.lean ====
section
/-! SUPPORT. Laws of the register file: what registers and fields read after a write of one of them. -/

namespace Sys2Proof.Machine

/-- A register reads as written, cut to 32 bits. -/
@[simp] theorem State.reg_setReg (s : State) (r : Reg) (v i j : Nat) : (s.setReg r v i j).reg r i j = v % 2 ^ 32 := by
  simp [State.reg, State.setReg, w32]

/-- A register at another address keeps its value. -/
theorem State.reg_setReg_other (s : State) (r q : Reg) (v i j k l : Nat) (h : q.addr k l ≠ r.addr i j) :
    (s.setReg r v i j).reg q k l = s.reg q k l := by
  simp [State.reg, State.setReg, tget?_tset, h]

/-- A register of another state with the same register file reads the same. -/
theorem State.reg_congr {s t : State} (h : t.regs = s.regs) (r : Reg) (i j : Nat) : t.reg r i j = s.reg r i j := by
  simp [State.reg, h]

theorem State.get_congr {s t : State} (h : t.regs = s.regs) (f : Fld) (i j : Nat) : t.get f i j = s.get f i j := by
  simp [State.get, State.reg_congr h]

theorem State.on_congr {s t : State} (h : t.regs = s.regs) (f : Fld) (i j : Nat) : t.on f i j = s.on f i j := by
  simp [State.on, State.get_congr h]

/-- A field reads as written, cut to its width. -/
theorem State.get_put (s : State) (f : Fld) (v i j : Nat) (h : f.lo + f.width ≤ 32) :
    (s.put f v i j).get f i j = v % 2 ^ f.width := by
  have hb : ∀ x : Nat, bitsOf (x % 2 ^ 32) f.lo f.width = bitsOf x f.lo f.width := by
    intro x
    apply Nat.eq_of_testBit_eq; intro k
    rw [testBit_bitsOf, testBit_bitsOf, Nat.testBit_mod_two_pow]
    by_cases hk : k < f.width
    · simp [hk, show f.lo + k < 32 by omega]
    · simp [hk]
  rw [State.get, State.put, State.reg_setReg, hb, bitsOf_setBits_same]

/-- A field of another register keeps its value. -/
theorem State.get_put_other (s : State) (f g : Fld) (v i j k l : Nat) (h : g.reg.addr k l ≠ f.reg.addr i j) :
    (s.put f v i j).get g k l = s.get g k l := by
  simp [State.get, State.put, State.reg_setReg_other _ _ _ _ _ _ _ _ h]

/-- A field of the same register that does not overlap the written one keeps its value. -/
theorem State.get_put_apart (s : State) (f g : Fld) (v i j : Nat) (hr : g.reg = f.reg) (hw : g.lo + g.width ≤ 32)
    (h : g.lo + g.width ≤ f.lo ∨ f.lo + f.width ≤ g.lo) : (s.put f v i j).get g i j = s.get g i j := by
  have hb : ∀ x : Nat, bitsOf (x % 2 ^ 32) g.lo g.width = bitsOf x g.lo g.width := by
    intro x
    apply Nat.eq_of_testBit_eq; intro k
    rw [testBit_bitsOf, testBit_bitsOf, Nat.testBit_mod_two_pow]
    by_cases hk : k < g.width
    · simp [hk, show g.lo + k < 32 by omega]
    · simp [hk]
  rw [State.get, State.put, hr, State.reg_setReg, hb, bitsOf_setBits_other _ _ _ _ _ _ h, State.get, hr]

/-- A one-bit field reads as set or cleared. -/
theorem State.on_putBit (s : State) (f : Fld) (b : Bool) (i j : Nat) (hw : f.width = 1) (h : f.lo < 32) :
    (s.putBit f b i j).on f i j = b := by
  rw [State.on, State.putBit, State.get_put _ _ _ _ _ (by omega), hw]
  cases b <;> rfl

/-- A counter that saturates, after one more. -/
theorem State.get_bumpBy (s : State) (f : Fld) (n i j : Nat) (h : f.lo + f.width ≤ 32) :
    (s.bumpBy f n i j).get f i j = min (s.get f i j + n) (2 ^ f.width - 1) := by
  rw [State.bumpBy, State.get_put _ _ _ _ _ h]
  have : 0 < 2 ^ f.width := Nat.two_pow_pos _
  exact Nat.mod_eq_of_lt (by omega)

/-- Registers at other addresses keep what they hold. -/
theorem tget?_setReg (s : State) (r : Reg) (v i j a : Nat) (h : a ≠ r.addr i j) :
    tget? (s.setReg r v i j).regs a = tget? s.regs a := tget?_tset_other _ _ h

end Sys2Proof.Machine
end

