-- ==== Sys2Proof/Laws/Ops.lean ====
section
/-! SUPPORT. Laws of the shared operations: for each, once, everything it can change, and that it keeps a sound state
sound. -/

namespace Sys2Proof.Machine

open Sys2Proof.Claims

/-! ### Sound states -/

/-- A change of anything but the register file, the memories and the host link keeps a sound state sound. -/
theorem sound_of_same {s t : State} (h : Sound s) (h1 : t.regs = s.regs) (h2 : t.mem = s.mem) (h3 : t.host = s.host) :
    Sound t := by
  obtain ⟨a, b, c, d, e, f⟩ := h
  exact ⟨h1 ▸ a, h2 ▸ b, h3 ▸ c, h3 ▸ d, h3 ▸ e, h3 ▸ f⟩

/-- A change of the host link that keeps its queues within their bounds keeps a sound state sound. -/
theorem sound_of_host {s t : State} (h : Sound s) (h1 : t.regs = s.regs) (h2 : t.mem = s.mem)
    (q1 : t.host.d2hQueue.length ≤ 64) (q2 : t.host.statusQ.length ≤ 64) (q3 : t.host.statsQ.length ≤ 64)
    (q4 : t.host.records.length ≤ 4096) : Sound t := ⟨h1 ▸ h.regs, h2 ▸ h.mem, q1, q2, q3, q4⟩

/-- A change of the host link. -/
theorem sound_host {s : State} (h : Sound s) (x : HostLink) (q1 : x.d2hQueue.length ≤ 64) (q2 : x.statusQ.length ≤ 64)
    (q3 : x.statsQ.length ≤ 64) (q4 : x.records.length ≤ 4096) : Sound { s with host := x } :=
  sound_of_host h rfl rfl q1 q2 q3 q4

theorem sound_latch {s : State} (h : Sound s) (x : Tbl Word) : Sound { s with latch := x } := sound_of_same h rfl rfl rfl
theorem sound_fills {s : State} (h : Sound s) (x : List Fill) : Sound { s with fills := x } := sound_of_same h rfl rfl rfl
theorem sound_scrub {s : State} (h : Sound s) (x : Scrub) : Sound { s with scrub := x } := sound_of_same h rfl rfl rfl
theorem sound_i3c {s : State} (h : Sound s) (x : I3c) : Sound { s with i3c := x } := sound_of_same h rfl rfl rfl
theorem sound_boot {s : State} (h : Sound s) (x : Boot) : Sound { s with boot := x } := sound_of_same h rfl rfl rfl
theorem sound_fuses {s : State} (h : Sound s) (x : Fuses) : Sound { s with fuses := x } := sound_of_same h rfl rfl rfl
theorem sound_straps {s : State} (h : Sound s) (x : Straps) : Sound { s with straps := x } := sound_of_same h rfl rfl rfl
theorem sound_snap {s : State} (h : Sound s) (x : SnapUnit) : Sound { s with snap := x } := sound_of_same h rfl rfl rfl
theorem sound_time {s : State} (h : Sound s) (x : TimeUnit) : Sound { s with time := x } := sound_of_same h rfl rfl rfl
theorem sound_link {s : State} (h : Sound s) (x : LinkUnit) : Sound { s with link := x } := sound_of_same h rfl rfl rfl
theorem sound_die {s : State} (h : Sound s) (x : FieldDie) : Sound { s with die := x } := sound_of_same h rfl rfl rfl
theorem sound_field {s : State} (h : Sound s) (x : FieldDev) : Sound { s with field := x } := sound_of_same h rfl rfl rfl
theorem sound_cams {s : State} (h : Sound s) (x : Tbl CamPort) : Sound { s with cams := x } := sound_of_same h rfl rfl rfl
theorem sound_pipes {s : State} (h : Sound s) (x : Tbl Pipe) : Sound { s with pipes := x } := sound_of_same h rfl rfl rfl
theorem sound_rules {s : State} (h : Sound s) (x : Tbl Rule) : Sound { s with rules := x } := sound_of_same h rfl rfl rfl
theorem sound_bobs {s : State} (h : Sound s) (x : Tbl Bobbin) : Sound { s with bobs := x } := sound_of_same h rfl rfl rfl
theorem sound_lastBob {s : State} (h : Sound s) (x : Nat) : Sound { s with lastBob := x } := sound_of_same h rfl rfl rfl
theorem sound_intake {s : State} (h : Sound s) (x : Intake) : Sound { s with intake := x } := sound_of_same h rfl rfl rfl
theorem sound_looms {s : State} (h : Sound s) (x : Tbl Loom) : Sound { s with looms := x } := sound_of_same h rfl rfl rfl
theorem sound_sched {s : State} (h : Sound s) (x : Sched) : Sound { s with sched := x } := sound_of_same h rfl rfl rfl
theorem sound_twin {s : State} (h : Sound s) (x : Twin) : Sound { s with twin := x } := sound_of_same h rfl rfl rfl
theorem sound_power {s : State} (h : Sound s) (x : Power) : Sound { s with power := x } := sound_of_same h rfl rfl rfl
theorem sound_tdcSeen {s : State} (h : Sound s) (x : Bool) : Sound { s with tdcSeen := x } := sound_of_same h rfl rfl rfl
theorem sound_fenceDue {s : State} (h : Sound s) (x : List (Nat × Nat)) : Sound { s with fenceDue := x } := sound_of_same h rfl rfl rfl
theorem sound_splits {s : State} (h : Sound s) (x : List Nat) : Sound { s with splits := x } := sound_of_same h rfl rfl rfl
theorem sound_copies {s : State} (h : Sound s) (x : Tbl Copies) : Sound { s with copies := x } := sound_of_same h rfl rfl rfl
theorem sound_freeUse {s : State} (h : Sound s) (x : Nat) : Sound { s with freeUse := x } := sound_of_same h rfl rfl rfl
theorem sound_pending {s : State} (h : Sound s) (x : List Instr) : Sound { s with pending := x } := sound_of_same h rfl rfl rfl

theorem sound_setReg {s : State} (h : Sound s) (r : Reg) (v i j : Nat) : Sound (s.setReg r v i j) :=
  ⟨tsorted_tset _ _ h.regs, h.mem, h.replies, h.status, h.stats, h.records⟩

theorem sound_put {s : State} (h : Sound s) (f : Fld) (v i j : Nat) : Sound (s.put f v i j) := sound_setReg h _ _ _ _
theorem sound_putBit {s : State} (h : Sound s) (f : Fld) (b : Bool) (i j : Nat) : Sound (s.putBit f b i j) :=
  sound_put h _ _ _ _
theorem sound_bumpBy {s : State} (h : Sound s) (f : Fld) (n i j : Nat) : Sound (s.bumpBy f n i j) := sound_put h _ _ _ _
theorem sound_bump {s : State} (h : Sound s) (f : Fld) (i j : Nat) : Sound (s.bump f i j) := sound_put h _ _ _ _
theorem sound_bumpWrap {s : State} (h : Sound s) (f : Fld) (n i j : Nat) : Sound (s.bumpWrap f n i j) := sound_put h _ _ _ _
theorem sound_peak {s : State} (h : Sound s) (f : Fld) (v i j : Nat) : Sound (s.peak f v i j) := sound_put h _ _ _ _

/-- An access of the memories keeps a sound state sound. -/
theorem sound_of_kept {s t : State} (h : Sound s) (k : MemKept s t) : Sound t := by
  have hh : t.host = s.host := by rw [k.1]
  exact ⟨k.2.1 h.regs, k.2.2 h.mem, hh ▸ h.replies, hh ▸ h.status, hh ▸ h.stats, hh ▸ h.records⟩

theorem sound_readData {s : State} (h : Sound s) (a n : Nat) : Sound (s.readData a n).1 :=
  sound_of_kept h (State.readData_kept s a n)
theorem sound_writeData {s : State} (h : Sound s) (a : Nat) (d : Data) : Sound (s.writeData a d) :=
  sound_of_kept h (State.writeData_kept s a d)
theorem sound_writeShare {s : State} (h : Sound s) (a : Nat) (d : Data) : Sound (s.writeShare a d) :=
  sound_of_kept h (State.writeShare_kept s a d)
theorem sound_releaseHeld {s : State} (h : Sound s) : Sound s.releaseHeld :=
  sound_of_kept h (State.releaseHeld_kept s)
theorem sound_withFlaws {s : State} (h : Sound s) (l : List (Nat × Flaw)) : Sound (s.withFlaws l) :=
  sound_of_kept h (State.withFlaws_kept s l)

theorem sound_foldState {α : Type} {f : State → α → State} (hf : ∀ s a, Sound s → Sound (f s a)) {s : State} (h : Sound s)
    (l : List α) : Sound (foldState f s l) := foldState_keeps (P := Sound) hf h l

theorem sound_timesFrom {f : State → Nat → State} (hf : ∀ s i, Sound s → Sound (f s i)) {s : State} (h : Sound s)
    (n i : Nat) : Sound (timesFrom f n i s) := timesFrom_keeps (P := Sound) hf h n i

/-! ### What the shared operations change -/

/-- Registers and the I3C target. -/
def OnlyI (s t : State) : Prop := t = { s with regs := t.regs, i3c := t.i3c }
/-- Registers, the I3C target and the host link. -/
def OnlyH (s t : State) : Prop := t = { s with regs := t.regs, i3c := t.i3c, host := t.host }
/-- Registers, the I3C target, the host link and the snapshot unit. -/
def OnlyS (s t : State) : Prop := t = { s with regs := t.regs, i3c := t.i3c, host := t.host, snap := t.snap }
/-- Registers and the Ranoz link. -/
def OnlyL (s t : State) : Prop := t = { s with regs := t.regs, link := t.link }
/-- Registers, the I3C target, the host link, the Ranoz link and the snapshot unit. -/
def OnlyR (s t : State) : Prop :=
  t = { s with regs := t.regs, i3c := t.i3c, host := t.host, link := t.link, snap := t.snap }

theorem OnlyI.h {s t : State} (a : OnlyI s t) : OnlyH s t := by unfold OnlyI OnlyH at *; rw [a]
theorem OnlyH.s {s t : State} (a : OnlyH s t) : OnlyS s t := by unfold OnlyH OnlyS at *; rw [a]
theorem OnlyS.r {s t : State} (a : OnlyS s t) : OnlyR s t := by unfold OnlyS OnlyR at *; rw [a]
theorem OnlyL.r {s t : State} (a : OnlyL s t) : OnlyR s t := by unfold OnlyL OnlyR at *; rw [a]
theorem OnlyI.trans {s t u : State} (a : OnlyI s t) (b : OnlyI t u) : OnlyI s u := by unfold OnlyI at *; rw [b, a]
theorem OnlyH.trans {s t u : State} (a : OnlyH s t) (b : OnlyH t u) : OnlyH s u := by unfold OnlyH at *; rw [b, a]
theorem OnlyS.trans {s t u : State} (a : OnlyS s t) (b : OnlyS t u) : OnlyS s u := by unfold OnlyS at *; rw [b, a]
theorem OnlyL.trans {s t u : State} (a : OnlyL s t) (b : OnlyL t u) : OnlyL s u := by unfold OnlyL at *; rw [b, a]
theorem OnlyR.trans {s t u : State} (a : OnlyR s t) (b : OnlyR t u) : OnlyR s u := by unfold OnlyR at *; rw [b, a]

theorem OnlyI.put (s : State) (f : Fld) (v i j : Nat) : OnlyI s (s.put f v i j) := rfl
theorem OnlyI.bump (s : State) (f : Fld) (i j : Nat) : OnlyI s (s.bump f i j) := OnlyI.put _ _ _ _ _
theorem OnlyI.bumpBy (s : State) (f : Fld) (n i j : Nat) : OnlyI s (s.bumpBy f n i j) := OnlyI.put _ _ _ _ _
theorem OnlyL.put (s : State) (f : Fld) (v i j : Nat) : OnlyL s (s.put f v i j) := rfl
theorem OnlyL.link (s : State) (x : LinkUnit) : OnlyL s { s with link := x } := rfl
theorem OnlyH.host (s : State) (x : HostLink) : OnlyH s { s with host := x } := rfl
theorem OnlyS.snap (s : State) (x : SnapUnit) : OnlyS s { s with snap := x } := rfl

/-! ### Notifications -/

theorem State.requestIbi_only (s : State) : s.requestIbi = { s with i3c := s.requestIbi.i3c } := by
  unfold State.requestIbi; split_ifs <;> rfl

theorem State.requestIbi_i (s : State) : OnlyI s s.requestIbi := by
  unfold OnlyI; rw [State.requestIbi_only]

/-- A notification changes registers and the I3C target alone. -/
theorem State.raise_i (s : State) (c : Fld) : OnlyI s (s.raise c) := by
  unfold State.raise
  simp only
  split_ifs
  · exact (OnlyI.put s c 1 0 0).trans (State.requestIbi_i _)
  · exact OnlyI.put s c 1 0 0

@[simp] theorem State.requestIbi_regs (s : State) : s.requestIbi.regs = s.regs := by rw [State.requestIbi_only]

@[simp] theorem State.raise_regs (s : State) (c : Fld) : (s.raise c).regs = (s.put c 1).regs := by
  unfold State.raise; simp only; split_ifs <;> simp

@[simp] theorem State.raise_host (s : State) (c : Fld) : (s.raise c).host = s.host := by rw [State.raise_i s c]
@[simp] theorem State.raise_mem (s : State) (c : Fld) : (s.raise c).mem = s.mem := by rw [State.raise_i s c]

theorem sound_raise {s : State} (h : Sound s) (c : Fld) : Sound (s.raise c) :=
  sound_of_same (sound_put h c 1 0 0) (by simp) (by simp) (by simp)

/-! ### Host CSI-2 transmit -/

/-- A frame is sent: it joins those sent, and its wire virtual channel's frame number moves on. -/
theorem State.emit_only (s : State) (c : Nat) (ps : List (Nat × List Byte)) (bad : List Bool) :
    s.emit c ps bad = { s with host := { s.host with
      frameNo := (s.emit c ps bad).host.frameNo, sent := (s.emit c ps bad).host.sent } } := rfl

theorem State.emit_h (s : State) (c : Nat) (ps : List (Nat × List Byte)) (bad : List Bool) : OnlyH s (s.emit c ps bad) := rfl
theorem State.emitWords_h (s : State) (c : Nat) (ws : List Word) : OnlyH s (s.emitWords c ws) := rfl

theorem sound_emit {s : State} (h : Sound s) (c : Nat) (ps : List (Nat × List Byte)) (bad : List Bool) :
    Sound (s.emit c ps bad) := ⟨h.regs, h.mem, h.replies, h.status, h.stats, h.records⟩
theorem sound_emitWords {s : State} (h : Sound s) (c : Nat) (ws : List Word) : Sound (s.emitWords c ws) := sound_emit h _ _ _

theorem State.dropRecord_i (s : State) : OnlyI s s.dropRecord :=
  (OnlyI.bump s F.HOST_TX_CNT_VERDICT_DROP 0 0).trans (State.raise_i _ _)
theorem sound_dropRecord {s : State} (h : Sound s) : Sound s.dropRecord := sound_raise (sound_bump h _ _ _) _

theorem State.sendStatus_h (s : State) (ws : List Word) : OnlyH s (s.sendStatus ws) := by
  unfold State.sendStatus
  split_ifs
  · rfl
  · rfl
  · exact (State.dropRecord_i s).h

theorem sound_sendStatus {s : State} (h : Sound s) (ws : List Word) : Sound (s.sendStatus ws) := by
  unfold State.sendStatus
  split_ifs with h1 h2
  · exact sound_emitWords h _ _
  · exact ⟨h.regs, h.mem, h.replies, by simp; omega, h.stats, h.records⟩
  · exact sound_dropRecord h

theorem State.formVerdict_h (s : State) : OnlyH s s.formVerdict := by unfold State.formVerdict; split_ifs <;> rfl

theorem sound_formVerdict {s : State} (h : Sound s) : Sound s.formVerdict := by
  unfold State.formVerdict
  split_ifs
  · exact h
  · have e := sound_emit h 20 [(0x35, wordsBytes (s.host.records.take 64).flatten)] []
    exact ⟨e.regs, e.mem, e.replies, e.status, e.stats, by
      have := e.records
      simp only [State.dropPending, List.length_drop]; omega⟩

theorem State.formVerdicts_h (s : State) (n : Nat) : OnlyH s (s.formVerdicts n) := by
  induction n generalizing s with
  | zero => rfl
  | succ n ih => exact (State.formVerdict_h s).trans (ih _)

theorem sound_formVerdicts {s : State} (h : Sound s) (n : Nat) : Sound (s.formVerdicts n) := by
  induction n generalizing s with
  | zero => exact h
  | succ n ih => exact ih (sound_formVerdict h)

theorem foldState_h {α : Type} {f : State → α → State} (hf : ∀ s a, OnlyH s (f s a)) (s : State) (l : List α) :
    OnlyH s (foldState f s l) := foldState_keeps (P := fun t => OnlyH s t) (fun t a h => h.trans (hf t a)) (rfl : OnlyH s s) l

theorem State.flushStatus_h (s : State) : OnlyH s s.flushStatus := by
  unfold State.flushStatus
  split_ifs
  · exact OnlyH.trans (t := { s with host := { s.host with statusQ := [] } }) rfl
      (foldState_h (fun t ws => State.emitWords_h t 22 ws) _ _)
  · rfl

theorem sound_flushStatus {s : State} (h : Sound s) : Sound s.flushStatus := by
  unfold State.flushStatus
  split_ifs
  · refine sound_foldState (fun t ws ht => sound_emitWords ht 22 ws) ?_ _
    exact ⟨h.regs, h.mem, h.replies, Nat.zero_le _, h.stats, h.records⟩
  · exact h

theorem State.sendStats_h (s : State) (ws : List Word) : OnlyH s (s.sendStats ws).1 := by
  unfold State.sendStats; split_ifs <;> rfl

theorem sound_sendStats {s : State} (h : Sound s) (ws : List Word) : Sound (s.sendStats ws).1 := by
  unfold State.sendStats
  split_ifs with h1 h2
  · exact sound_emitWords h _ _
  · exact ⟨h.regs, h.mem, h.replies, h.status, by simp; omega, h.records⟩
  · exact h

theorem State.flushStats_h (s : State) : OnlyH s s.flushStats := by
  unfold State.flushStats
  split_ifs
  · exact OnlyH.trans (t := { s with host := { s.host with statsQ := [] } }) rfl
      (foldState_h (fun t ws => State.emitWords_h t 21 ws) _ _)
  · rfl

theorem sound_flushStats {s : State} (h : Sound s) : Sound s.flushStats := by
  unfold State.flushStats
  split_ifs
  · refine sound_foldState (fun t ws ht => sound_emitWords ht 21 ws) ?_ _
    exact ⟨h.regs, h.mem, h.replies, h.status, Nat.zero_le _, h.records⟩
  · exact h

theorem State.sendSnap_h (s : State) (ws : List Word) : OnlyH s (s.sendSnap ws) := by
  unfold State.sendSnap; split_ifs <;> rfl

theorem sound_sendSnap {s : State} (h : Sound s) (ws : List Word) : Sound (s.sendSnap ws) := by
  unfold State.sendSnap
  split_ifs
  · exact sound_emitWords h _ _
  · exact ⟨h.regs, h.mem, h.replies, h.status, h.stats, h.records⟩

theorem State.sendTrace_h (s : State) (ws : List Word) : OnlyH s (s.sendTrace ws) := by
  unfold State.sendTrace; split_ifs <;> rfl

theorem sound_sendTrace {s : State} (h : Sound s) (ws : List Word) : Sound (s.sendTrace ws) := by
  unfold State.sendTrace
  split_ifs
  · exact sound_emitWords h _ _
  · exact ⟨h.regs, h.mem, h.replies, h.status, h.stats, h.records⟩

theorem State.flushSnap_h (s : State) : OnlyH s s.flushSnap := by
  unfold State.flushSnap
  split_ifs
  · exact OnlyH.trans (t := { s with host := { s.host with snapQ := [], traceQ := [] } }) rfl
      (foldState_h (fun t ws => State.emitWords_h t 23 ws) _ _)
  · rfl

theorem sound_flushSnap {s : State} (h : Sound s) : Sound s.flushSnap := by
  unfold State.flushSnap
  split_ifs
  · refine sound_foldState (fun t ws ht => sound_emitWords ht 23 ws) ?_ _
    exact ⟨h.regs, h.mem, h.replies, h.status, h.stats, h.records⟩
  · exact h

/-! ### Snapshots and trace -/

theorem State.snapMerge_s (s : State) (n src : Nat) : OnlyS s (s.snapMerge n src) := by
  unfold State.snapMerge; split
  · exact (OnlyS.snap s _).trans (OnlyI.bump _ _ _ _).h.s
  · rfl

theorem sound_snapMerge {s : State} (h : Sound s) (n src : Nat) : Sound (s.snapMerge n src) := by
  unfold State.snapMerge
  split
  · exact sound_bump (sound_snap h _) _ _ _
  · exact h

theorem State.snapTake_s (s : State) (src : Nat) : OnlyS s (s.snapTake src) := by
  unfold State.snapTake
  simp only
  exact OnlyS.trans (OnlyI.trans (OnlyI.trans (OnlyI.trans (OnlyI.put s _ _ _ _) (OnlyI.put _ _ _ _ _)) (OnlyI.put _ _ _ _ _))
    (OnlyI.bump _ _ _ _)).h.s (OnlyS.snap _ _)

theorem sound_snapTake {s : State} (h : Sound s) (src : Nat) : Sound (s.snapTake src) := by
  unfold State.snapTake
  simp only
  exact sound_snap (sound_bump (sound_putBit (sound_put (sound_bumpWrap h _ _ _ _) _ _ _ _) _ _ _ _) _ _ _) _

theorem State.snapFire_s (s : State) (src : Nat) : OnlyS s (s.snapFire src).1 := by
  unfold State.snapFire
  split
  · exact State.snapMerge_s _ _ _
  · simp only; split_ifs
    · exact State.snapMerge_s _ _ _
    · exact (OnlyI.bump _ _ _ _).h.s
    · exact State.snapTake_s _ _

theorem sound_snapFire {s : State} (h : Sound s) (src : Nat) : Sound (s.snapFire src).1 := by
  unfold State.snapFire
  split
  · exact sound_snapMerge h _ _
  · simp only; split_ifs
    · exact sound_snapMerge h _ _
    · exact sound_bump h _ _ _
    · exact sound_snapTake h _

theorem State.snapIf_s (s : State) (src : Nat) : OnlyS s (s.snapIf src) := by
  unfold State.snapIf; split_ifs
  · exact State.snapFire_s _ _
  · rfl

theorem sound_snapIf {s : State} (h : Sound s) (src : Nat) : Sound (s.snapIf src) := by
  unfold State.snapIf; split_ifs
  · exact sound_snapFire h _
  · exact h

theorem State.traceEvent_s (s : State) (src id : Nat) : OnlyS s (s.traceEvent src id) := by
  unfold State.traceEvent
  split_ifs with h1
  · simp only
    split_ifs <;> first
      | exact (OnlyS.snap s _).trans (State.sendTrace_h _ _).s
      | exact (OnlyS.snap s _).trans (OnlyI.bump _ _ _ _).h.s
  · rfl

theorem sound_traceEvent {s : State} (h : Sound s) (src id : Nat) : Sound (s.traceEvent src id) := by
  unfold State.traceEvent
  split_ifs with h1
  · simp only
    split_ifs <;> first
      | exact sound_sendTrace (sound_snap h _) _
      | exact sound_bump (sound_snap h _) _ _ _
  · exact h

theorem State.event_s (s : State) (src id : Nat) : OnlyS s (s.event src id) :=
  (State.traceEvent_s s src id).trans (State.snapIf_s _ _)
theorem sound_event {s : State} (h : Sound s) (src id : Nat) : Sound (s.event src id) :=
  sound_snapIf (sound_traceEvent h src id) src

theorem State.poisonConsumed_s (s : State) (id : Nat) : OnlyS s (s.poisonConsumed id) := State.event_s s 4 id
theorem sound_poisonConsumed {s : State} (h : Sound s) (id : Nat) : Sound (s.poisonConsumed id) := sound_event h 4 id

/-! ### Tap frames -/

/-- A tap frame changes registers, the I3C target, the host link and the snapshot unit alone. -/
theorem State.sendTap_s (s : State) (c : Nat) (x : Nat × List (Option Byte)) (ls : List (Nat × List (Option Byte))) :
    OnlyS s (s.sendTap c x ls) := by
  unfold State.sendTap; simp only; split_ifs
  · exact timesFrom_keeps (P := fun t => OnlyS s t) (fun t _ k => k.trans
      ((OnlyI.bump t F.MEM_POISON_CNT_TX 0 0).h.s.trans (State.poisonConsumed_s _ _))) (State.emit_h s _ _ _).s _ _
  · rfl

theorem sound_sendTap {s : State} (h : Sound s) (c : Nat) (x : Nat × List (Option Byte))
    (ls : List (Nat × List (Option Byte))) : Sound (s.sendTap c x ls) := by
  unfold State.sendTap
  simp only
  split_ifs
  · exact sound_timesFrom (fun t _ k => sound_poisonConsumed (sound_bump k F.MEM_POISON_CNT_TX 0 0) _) (sound_emit h _ _ _) _ _
  · exact h

/-! ### Timing-dependent choices -/

/-- Registers and the mark of the first timing-dependent choice. -/
def OnlyT (s t : State) : Prop := t = { s with regs := t.regs, tdcSeen := t.tdcSeen }

theorem OnlyT.trans {s t u : State} (a : OnlyT s t) (b : OnlyT t u) : OnlyT s u := by unfold OnlyT at *; rw [b, a]
theorem OnlyT.put (s : State) (f : Fld) (v i j : Nat) : OnlyT s (s.put f v i j) := rfl
theorem OnlyT.mark (s : State) (b : Bool) : OnlyT s { s with tdcSeen := b } := rfl

theorem State.tdcFirst_t (s : State) (c : Nat) : OnlyT s (s.tdcFirst c) := by
  unfold State.tdcFirst
  split_ifs
  · rfl
  · simp only
    exact ((((OnlyT.mark s true).trans (OnlyT.put _ _ _ _ _)).trans (OnlyT.put _ _ _ _ _)).trans (OnlyT.put _ _ _ _ _)).trans
      (OnlyT.put _ _ _ _ _)

/-- A timing-dependent choice changes registers and the mark of the first one alone. -/
theorem State.tdc_t (s : State) (c : Nat) : OnlyT s (s.tdc c) :=
  ((OnlyT.put s _ _ _ _).trans (OnlyT.put _ _ _ _ _)).trans (State.tdcFirst_t _ c)

theorem sound_tdcFirst {s : State} (h : Sound s) (c : Nat) : Sound (s.tdcFirst c) := by
  unfold State.tdcFirst
  split_ifs
  · exact h
  · simp only
    exact sound_put (sound_put (sound_put (sound_put (sound_tdcSeen h _) _ _ _ _) _ _ _ _) _ _ _ _) _ _ _ _

theorem sound_tdc {s : State} (h : Sound s) (c : Nat) : Sound (s.tdc c) :=
  sound_tdcFirst (sound_bump (sound_bumpWrap h _ _ _ _) _ _ _) c

/-! ### The Ranoz link's sender -/

theorem State.setCredits_l (s : State) (vl n : Nat) : OnlyL s (s.setCredits vl n) := by
  unfold State.setCredits; exact (OnlyL.link s _).trans (OnlyL.put _ _ _ _ _)
theorem sound_setCredits {s : State} (h : Sound s) (vl n : Nat) : Sound (s.setCredits vl n) := by
  unfold State.setCredits; exact sound_put (sound_link h _) _ _ _ _

theorem State.startFrame_l (s : State) (f : RzFrame) : OnlyL s (s.startFrame f) := by
  unfold State.startFrame
  simp only
  exact ((OnlyL.link s _).trans (OnlyL.put _ _ _ _ _)).trans (State.setCredits_l _ _ _)
theorem sound_startFrame {s : State} (h : Sound s) (f : RzFrame) : Sound (s.startFrame f) := by
  unfold State.startFrame
  simp only
  exact sound_setCredits (sound_bumpBy (sound_link h _) _ _ _ _) _ _

theorem State.pumpList_l (s : State) (q : List RzFrame) (b : List Nat) : OnlyL s (s.pumpList q b) := by
  induction q generalizing s b with
  | nil => rfl
  | cons f t ih =>
    unfold State.pumpList
    split_ifs
    · exact ((OnlyL.link s _).trans (State.startFrame_l _ _)).trans (ih _ _)
    · exact ih _ _

theorem sound_pumpList {s : State} (h : Sound s) (q : List RzFrame) (b : List Nat) : Sound (s.pumpList q b) := by
  induction q generalizing s b with
  | nil => exact h
  | cons f t ih =>
    unfold State.pumpList
    split_ifs
    · exact ih (sound_startFrame (sound_link h _) _) _
    · exact ih h _

theorem State.pump_l (s : State) : OnlyL s s.pump := by
  unfold State.pump; split_ifs
  · exact State.pumpList_l _ _ _
  · rfl

theorem sound_pump {s : State} (h : Sound s) : Sound s.pump := by
  unfold State.pump; split_ifs
  · exact sound_pumpList h _ _
  · exact h

/-- A frame given to the link changes the link and registers alone. -/
theorem State.linkSend_l (s : State) (k vl : Nat) (p : List Word) (q : List Nat) : OnlyL s (s.linkSend k vl p q) := by
  unfold State.linkSend
  simp only
  exact (OnlyL.link s _).trans (State.pump_l _)

theorem sound_linkSend {s : State} (h : Sound s) (k vl : Nat) (p : List Word) (q : List Nat) : Sound (s.linkSend k vl p q) := by
  unfold State.linkSend
  simp only
  exact sound_pump (sound_link h _)

/-! ### Replies -/

theorem State.fillBox_only (s : State) (r : Reg) (ws : List Word) : s.fillBox r ws = { s with regs := (s.fillBox r ws).regs } :=
  timesFrom_keeps (P := fun t : State => t = { s with regs := t.regs })
    (fun t i ht => by split <;> first | (rw [ht]; rfl) | exact ht) rfl 16 0

theorem sound_fillBox {s : State} (h : Sound s) (r : Reg) (ws : List Word) : Sound (s.fillBox r ws) :=
  sound_timesFrom (fun t i ht => by split <;> first | exact sound_setReg ht _ _ _ _ | exact ht) h 16 0

theorem State.placeD2h_h (s : State) (ws : List Word) : OnlyH s (s.placeD2h ws) := by
  unfold State.placeD2h
  have a : OnlyI s ((s.fillBox R.MBX_D2H_DATA ws).putBit F.MBX_D2H_GO_FULL true) := by
    unfold OnlyI; rw [State.putBit, State.put, State.setReg, State.fillBox_only]
  exact (a.trans (State.raise_i _ _)).h.trans (OnlyH.host _ _)

theorem sound_placeD2h {s : State} (h : Sound s) (ws : List Word) : Sound (s.placeD2h ws) := by
  have k := sound_raise (sound_putBit (sound_fillBox h R.MBX_D2H_DATA ws) F.MBX_D2H_GO_FULL true 0 0) F.HOST_IBI_CAUSE_REPLY
  exact ⟨k.regs, k.mem, k.replies, k.status, k.stats, k.records⟩

theorem State.postD2h_h (s : State) (ws : List Word) : OnlyH s (s.postD2h ws) := by
  unfold State.postD2h
  split_ifs
  · exact State.placeD2h_h _ _
  · rfl
  · exact State.sendStatus_h _ _

theorem sound_postD2h {s : State} (h : Sound s) (ws : List Word) : Sound (s.postD2h ws) := by
  unfold State.postD2h
  split_ifs with h1 h2
  · exact sound_placeD2h h _
  · exact ⟨h.regs, h.mem, by simp; omega, h.status, h.stats, h.records⟩
  · exact sound_sendStatus h _

theorem State.placeD2t_l (s : State) (ws : List Word) : OnlyL s (s.placeD2t ws) := by
  unfold State.placeD2t
  have a : OnlyL s ((s.fillBox R.MBX_D2T_DATA ws).putBit F.MBX_D2T_GO_FULL true) := by
    unfold OnlyL; rw [State.putBit, State.put, State.setReg, State.fillBox_only]
  exact a.trans (State.linkSend_l _ _ _ _ _)

theorem sound_placeD2t {s : State} (h : Sound s) (ws : List Word) : Sound (s.placeD2t ws) :=
  sound_linkSend (sound_putBit (sound_fillBox h _ _) _ _ _ _) _ _ _ _

theorem State.postD2t_l (s : State) (ws : List Word) : OnlyL s (s.postD2t ws) := by
  unfold State.postD2t
  split_ifs
  · exact State.placeD2t_l _ _
  · rfl

theorem sound_postD2t {s : State} (h : Sound s) (ws : List Word) : Sound (s.postD2t ws) := by
  unfold State.postD2t
  split_ifs
  · exact sound_placeD2t h _
  · exact sound_link h _

theorem State.routeReply_r (s : State) (src : Source) (csi : Bool) (ws : List Word) : OnlyR s (s.routeReply src csi ws) := by
  unfold State.routeReply
  split
  · split_ifs
    · exact (State.sendStatus_h _ _).s.r
    · exact (State.postD2h_h _ _).s.r
  · exact (State.sendStatus_h _ _).s.r
  · exact (State.postD2t_l _ _).r

theorem sound_routeReply {s : State} (h : Sound s) (src : Source) (csi : Bool) (ws : List Word) :
    Sound (s.routeReply src csi ws) := by
  unfold State.routeReply
  split
  · split_ifs
    · exact sound_sendStatus h _
    · exact sound_postD2h h _
  · exact sound_sendStatus h _
  · exact sound_postD2t h _


/-- A reply changes registers, the I3C target, the host link, the Ranoz link and the snapshot unit alone. -/
theorem State.reply_r (s : State) (src : Source) (c : Cmd) (st : Status) (ws : List Word) : OnlyR s (s.reply src c st ws) := by
  have k : OnlyR s (if st = .poisoned then (s.bump F.MEM_POISON_CNT_HOST_READ).poisonConsumed else s) := by
    split_ifs
    · exact ((OnlyI.bump s F.MEM_POISON_CNT_HOST_READ 0 0).h.s.trans (State.poisonConsumed_s _ _)).r
    · rfl
  unfold State.reply
  simp only
  revert k
  generalize (if st = .poisoned then (s.bump F.MEM_POISON_CNT_HOST_READ).poisonConsumed else s) = u
  intro k
  split_ifs
  · exact k
  · exact k.trans (State.routeReply_r _ _ _ _)

/-- A reply of any command keeps a sound state sound. -/
theorem sound_reply {s : State} (h : Sound s) (src : Source) (c : Cmd) (st : Status) (ws : List Word) :
    Sound (s.reply src c st ws) := by
  have k : Sound (if st = .poisoned then (s.bump F.MEM_POISON_CNT_HOST_READ).poisonConsumed else s) := by
    split_ifs
    · exact sound_poisonConsumed (sound_bump h _ _ _) _
    · exact h
  unfold State.reply
  simp only
  revert k
  generalize (if st = .poisoned then (s.bump F.MEM_POISON_CNT_HOST_READ).poisonConsumed else s) = u
  intro k
  split_ifs
  · exact k
  · exact sound_routeReply k _ _ _

theorem sound_finish {s : State} (h : Sound s) (e : Source × Cmd) (st : Status) (ws : List Word) :
    Sound (s.finish e st ws) := by
  unfold State.finish
  exact sound_reply (sound_host h { s.host with running := removeFirst (· == e) s.host.running }
    h.replies h.status h.stats h.records) _ _ _ _

theorem sound_finishOp {s : State} (h : Sound s) (op : Nat) (st : Status) (ws : List Word) : Sound (s.finishOp op st ws) := by
  unfold State.finishOp; split
  · exact sound_finish h _ _ _
  · exact h

theorem sound_finishFor {s : State} (h : Sound s) (op x : Nat) (st : Status) (ws : List Word) :
    Sound (s.finishFor op x st ws) := by
  unfold State.finishFor; split
  · exact sound_finish h _ _ _
  · exact h

/-! ### Verdict records -/

theorem State.addRecord_h (s : State) (ws : List Word) : OnlyH s (s.addRecord ws) := by
  unfold State.addRecord
  simp only
  split_ifs
  · exact (OnlyH.host s _).trans (State.formVerdict_h _)
  · rfl
  · exact (OnlyH.host s _).trans (State.dropRecord_i _).h

theorem sound_addRecord {s : State} (h : Sound s) (ws : List Word) : Sound (s.addRecord ws) := by
  unfold State.addRecord
  simp only
  split_ifs with h1 h2
  · exact sound_formVerdict (sound_host h _ h.replies h.status h.stats (by simp; omega))
  · exact sound_host h _ h.replies h.status h.stats (by simp; omega)
  · exact sound_dropRecord (sound_host h _ h.replies h.status h.stats h.records)

theorem State.record_s (s : State) (a b c d e : Nat) (f : RecFlags) (t id : Nat) : OnlyS s (s.record a b c d e f t id) := by
  have h := (State.addRecord_h s (recordWords a b c d e f t s.host.recSeq)).s
  unfold State.record
  simp only
  revert h
  generalize s.addRecord (recordWords a b c d e f t s.host.recSeq) = u
  intro h
  have k : OnlyS s (if f.late then (u.raise F.HOST_IBI_CAUSE_LATE).event 3 id else u) := by
    split_ifs
    · exact (h.trans (State.raise_i u F.HOST_IBI_CAUSE_LATE).h.s).trans (State.event_s (u.raise F.HOST_IBI_CAUSE_LATE) 3 id)
    · exact h
  revert k
  generalize (if f.late then (u.raise F.HOST_IBI_CAUSE_LATE).event 3 id else u) = v
  intro k
  split_ifs
  · exact k.trans ((OnlyI.bump v F.MEM_POISON_CNT_VERDICT 0 0).h.s.trans (State.poisonConsumed_s _ id))
  · exact k

theorem sound_record {s : State} (h : Sound s) (a b c d e : Nat) (f : RecFlags) (t id : Nat) :
    Sound (s.record a b c d e f t id) := by
  have k := sound_addRecord h (recordWords a b c d e f t s.host.recSeq)
  unfold State.record
  simp only
  revert k
  generalize s.addRecord (recordWords a b c d e f t s.host.recSeq) = u
  intro k
  have m : Sound (if f.late then (u.raise F.HOST_IBI_CAUSE_LATE).event 3 id else u) := by
    split_ifs
    · exact sound_event (sound_raise k F.HOST_IBI_CAUSE_LATE) 3 id
    · exact k
  revert m
  generalize (if f.late then (u.raise F.HOST_IBI_CAUSE_LATE).event 3 id else u) = v
  intro m
  split_ifs
  · exact sound_poisonConsumed (sound_bump m F.MEM_POISON_CNT_VERDICT 0 0) id
  · exact m

/-! ### The wrappers of the meanings -/

/-- What a command of the device keeps, its operation keeps. -/
theorem onDevice_keeps {P : State → Prop} {f : State → State} {s t : State} (hs : P s) (hf : P (f s))
    (h : onDevice s f = .next t) : P t := by
  unfold onDevice at h
  cases h
  split_ifs
  · exact hs
  · exact hf

/-- On a device out of reset, the operation is the next state. -/
theorem onDevice_live {s : State} (h : Live s) (f : State → State) : onDevice s f = .next (f s) := by
  unfold Live at h; simp [onDevice, h]

/-- A device held in reset stands still. -/
theorem onDevice_held {s : State} (h : s.boot.held = true) (f : State → State) : onDevice s f = .next s := by
  simp [onDevice, h]

/-- A command whose turn it is not does not start. -/
theorem startCmd_not {s : State} {src : Source} {op : Nat} (body : State → Cmd → State × Answer)
    (h : ∀ c, s.oldest src = some c → ¬(c.opcode = op ∧ s.mayStart src op = true)) : s.startCmd src op body = s := by
  unfold State.startCmd
  split
  · rename_i c hc; rw [if_neg (h c hc)]
  · rfl

/-- The command whose turn it is, its bulk whole, does what its row says (R52, R70, R74). -/
theorem startCmd_starts {s : State} {src : Source} {op : Nat} {c : Cmd} (h : Starts s src op c)
    (body : State → Cmd → State × Answer) :
    s.startCmd src op body = (body (s.dropOldest src) c).1.answer src c (body (s.dropOldest src) c).2 := by
  obtain ⟨-, h2, h3, h4, h5⟩ := h
  have e : s.startCmd src op body = s.begin src c body := by simp [State.startCmd, h2, h3, h4]
  rw [e]
  unfold State.begin
  simp only
  obtain h6 | h6 := h5 <;> simp [h6, Cmd.bulkStatus]

/-- A command whose bulk is still to come waits for it, unless it fails at once (R74). -/
theorem begin_awaits {s : State} {src : Source} {c : Cmd} (body : State → Cmd → State × Answer) (h : c.bulkEnd = .awaiting)
    (hf : (body (s.dropOldest src) c).2.fails = false) (ho : c.opcode ≠ 0x0901) : s.begin src c body = s := by
  simp [State.begin, h, hf, ho]

end Sys2Proof.Machine
end

