-- ==== Sys2Proof/Tests/Slice0.lean ====
section
/-! SUPPORT. The tests: states that meet the hypotheses of every statement, clause by clause; the ill-formed commands that
the checks of WellFormed refuse; worked examples of the spec. -/

namespace Sys2Proof.Tests

open Sys2Proof Sys2Proof.Machine Sys2Proof.Claims

set_option Elab.async false

/-! ### Small states -/

/-- A state with one more command waiting. -/
def told (s : State) (op : Nat) (ps : List Word) (target : Nat := 0) (src : Source := .h2d) : State :=
  { s with host := { s.host with waiting := s.host.waiting ++ [(src, { opcode := op, params := ps, target := target, quiet := true })] } }

/-- A state with one more command running. -/
def doing (s : State) (op : Nat) (ps : List Word) (target : Nat := 0) : State :=
  { s with host := { s.host with running := s.host.running ++ [(.h2d, { opcode := op, params := ps, target := target })] } }

/-- A device held in reset by RST_N. -/
def wHeld : State := State.reset.enterReset 0 { rstN := true }

/-- A device whose memories are wiped. -/
def wWiped : State := (State.reset.putBit F.MEM_WIPE_STAT_SRAM_DONE true).putBit F.MEM_WIPE_STAT_DDR_DONE true

/-- A device whose transmit port 0 sends and whose receive port takes packets. -/
def wTx : State := State.putBit { State.reset with host := { csiReady := true } } F.HOST_STATUS_TX0_UP true

/-- A command packet with its CRC. -/
def packet (op tag : Nat) (ps : List Word) : Packet :=
  { w0 := 0x1000000 + op, w1 := tag + 0x10000 * ps.length, bulk := 0
    crc := crcWords ([w32 (0x1000000 + op), w32 (tag + 0x10000 * ps.length), w32 0] ++ ps), params := ps }

/-- A good packet on host CSI-2 receive. -/
def rx (bs : List Byte) : RxPacket := { vc := 0, listed := true, header := 0, crcOk := true, payload := bs }

/-- A state with another `host`. -/
def withHost (s : State) (x : HostLink) : State := { s with host := x }
/-- A state with another `link`. -/
def withLink (s : State) (x : LinkUnit) : State := { s with link := x }
/-- A state with another `twin`. -/
def withTwin (s : State) (x : Twin) : State := { s with twin := x }
/-- A state with another `die`. -/
def withDie (s : State) (x : FieldDie) : State := { s with die := x }
/-- A state with another `field`. -/
def withField (s : State) (x : FieldDev) : State := { s with field := x }
/-- A state with another `sched`. -/
def withSched (s : State) (x : Sched) : State := { s with sched := x }
/-- A state with another `boot`. -/
def withBoot (s : State) (x : Boot) : State := { s with boot := x }
/-- A state with another `time`. -/
def withTime (s : State) (x : TimeUnit) : State := { s with time := x }
/-- A state with another `i3c`. -/
def withI3c (s : State) (x : I3c) : State := { s with i3c := x }
/-- A state with another `snap`. -/
def withSnap (s : State) (x : SnapUnit) : State := { s with snap := x }
/-- A state with another `power`. -/
def withPower (s : State) (x : Power) : State := { s with power := x }
/-- A state with another `intake`. -/
def withIntake (s : State) (x : Intake) : State := { s with intake := x }

/-- A device whose I3C target answers. -/
def wBus : State := withI3c State.reset { ready := true }

/-- The state after one command, run outside the queue. -/
def after (s : State) (i : Instr) : State :=
  match exec i s with
  | .next t => t
  | _ => s

/-- CMD_CAM_ENABLE of port 0: RAW8, 4 line words, 2 lines per block, 64 KiB of the first beam. -/
def camOn : List Word := [0x2A, 4, 2, 0, 0, 0x21, 1, 0]

/-- A device with port 0 enabled, which rule 0 takes lines from, and with valid counts. -/
def wCam : State :=
  (((after (told wWiped 0x0201 camOn) (.cmdCamEnable .h2d)).put F.BOB_RULE_CTRL_EN 1).put F.BOB_RULE_CTRL_PORTS 1).putBit
    F.FIELD_LINK_STAT_COUNT_VALID true

/-- A block of port 0. -/
def block0 : Block := { port := 0, base := 0, pitch := 65536, len := 2, time := 0 }

/-- A pipe's settings with nothing enabled. -/
def cfg0 : PipeCfg := { q := 0, position := 1, through := true, stages := 0, cfa := 0, thresh := 0, fmt := 0 }

/-- A block by its port and its Frame Start time. -/
def blockAt (port time : Nat) : Block := { port := port, base := 0, pitch := 65536, len := 2, time := time }

/-- A block that goes through a pipe, with its stored lines. -/
def piped (lines : List (Nat × Nat)) : Block :=
  { port := 0, base := 0, pitch := 65536, len := 2, time := 0, pipe := some cfg0, lines := lines }

/-- A stored line of port 0. -/
def line0 : Line := { pos := 0, hi := 0, base := 0, k := 0, slot := 0, addr := 0x2100000000, len := 16 }

/-- A state in which port 0 has an open block. -/
def blocked (s : State) : State := s.setCam 0 { s.cam 0 with blk := some block0 }

/-- A packet of port 0. -/
def raw (dt header : Nat) (room : Bool) : CamPacket :=
  { vc := 0, dt := dt, header := header, crcOk := true, room := room, payload := [1, 2, 3] }

/-- A device with port 0 enabled, whose field link is up, not safe, with valid counts. -/
def wUp : State := (wCam.putBit F.FIELD_LINK_STAT_UP true).putBit F.FIELD_LINK_STAT_SAFE false

/-- A device whose part finder may be set: a port, a lane and the provisional table. -/
def wFind : State :=
  withBoot (wUp.put F.BOB_LANE_CFG_SET 1 0) { wUp.boot with provWritten := true }

/-- A device with pitch rule 3, whose next part is at count `m`. -/
def wPitch (m : Int) : State :=
  ((((wUp.put F.BOB_RULE_CTRL_EN 0 0).put F.BOB_RULE_CTRL_EN 1 3).put F.BOB_RULE_CTRL_SOURCE 2 3).put
    F.BOB_RULE_CTRL_PORTS 1 3).setRule 3 { detail := 100, offset := 7, wlen := 2, next := some m }

/-- A bobbin in a state. -/
def bobIn (st : BobState) : Bobbin := { state := st, serial := 9, rule := 3, ports := 1, wlen := 2, entry := some 4 }

/-- A state with one more bobbin. -/
def bobbed (s : State) (id : Nat) (b : Bobbin) : State := s.setBob id b

/-- An image that a test uses: 8 pixels wide, monochrome, 4-line tokens. -/
def image0 : Config.Image :=
  { schedules := [{ n := 2, tStem := 100, tStep := 200, tOpt := 50 }], tokenR := 2, tMax := 4, width := 4
    stripes := [(0, 4)] }

/-- A registered model of that image. -/
def model0 (learn : Bool) : Model :=
  { id := 7, index := 0, addr := 0, len := 64
    header := [0, 0, w32 (0x100 * 0 + 0x20000 + 0x1000000), 0, 0, w32 (if learn then 1 else 0)], info := image0
    resident := true, slot := some 0 }

/-- A device whose partition 0 runs a job of that model on looms 0 and 1. -/
def wJob (learn : Bool) : State :=
  (withSched wUp { models := [model0 learn]
                   parts := [(0, { looms := [0, 1], model := 7, learning := learn })] }).put F.SCHED_JOB_STATE 2 0

/-- The words of the header of an uncompressed sample, 4 by 2 pixels of RAW8. -/
def sampleHead : List Word := [w32 (0x2A * 256), 5, 4, 2, 8, 0xFF + 0x10000000, 0, 0, 0, 0, 0]

/-- The bytes of that header with its CRC. -/
def sampleBytes (crc : Word) : List Byte := wordsBytes (sampleHead ++ [crc])

/-- A device ready for samples of partition 0. -/
def wSample : State :=
  withHost ((((((wJob false).put F.SAMPLE_BUF_BASE_BASE 0x2130).put F.SAMPLE_BUF_SIZE_SIZE 1).put F.SAMPLE_CREDITS_LIMIT 4).put
    F.SAMPLE_CREDITS_AVAIL 4).put F.SAMPLE_MAX_PIXELS_MAX 100) { csiReady := true }

/-- A JPEG sample in a stage. -/
def jpeg0 (st : SampleStage) : Sample :=
  { place := 3, seq := some 3, vc := 0, header := [1], stream := [1], stage := st, decoder := some 0 }

/-- A sample that is ready for a bobbin. -/
def ready0 : Sample := { place := 3, seq := some 3, vc := 0, header := sampleHead, stage := .ready, ended := true, lines := [[1], [2]] }

/-- A field die out of its safe state with a table. -/
def dieWith (t : Tbl Entry) : FieldDie := { safe := false, table := t }

/-- An armed entry, its position not yet at its close count. -/
def armed0 : Entry := { phase := .armed, bobbin := 8, mask := 3, prov := 2, eject := 50, close := 40, width := 5 }

/-- An armed entry whose counts have been reached. -/
def armed1 : Entry := { armed0 with eject := 0, close := -10 }

/-- A device whose field die has an entry 4. -/
def wEntry (x : Entry) : State := withDie State.reset (dieWith [(4, x)])

/-- A device whose field die has taken a message. -/
def wMsg (d : FieldDie) (m : Msg) : State := withDie State.reset { d with link := { d.link with inbox := [m] } }

/-- A field die whose copy of a register has a value. -/
def wCopy (d : FieldDie) (r : Reg) (i v : Nat) : State := withDie State.reset { d with copy := [(cfgIndex r i, v)] }

/-- A taken report. -/
def taken (r : Report) : Taken := { rep := { what := r, time := 1 }, arrived := 2, low := [1, 2], safe := false }

/-- A device that has taken a report of the field die. -/
def reported (s : State) (r : Report) : State :=
  withField s { s.field with link := { s.field.link with inbox := [taken r], resync := false } }

/-- A device with bobbin 8 and its entry 4. -/
def wBob (st : BobState) : State :=
  bobbed (withField wUp { wUp.field with
    table := [(4, { bobbin := some 8, standby := false, mask := 1, enc := 0 })]
    amends := [{ entry := 4, action := 1, close := 9 }] }) 8 (bobIn st)

/-- A good upstream frame with a report. -/
def up0 : UpFrame := { report := some (0, { what := .refuse 4 }), safe := false, low := [1, 2] }

/-- A good downstream frame with a message. -/
def down0 : DownFrame := { msg := some (0, .stopClear), run := true, amend := some (4, 1) }

/-- A job of partition 0 with pages, staging slots and a schedule on looms 0 and 1. -/
def wRun : State :=
  ((((wJob false).put F.SCHED_JOB_SIZE_SIZE 2 0).put F.SCHED_KV_BEAM_SIZE_PAGES 4 0).put F.SCHED_KV_BEAM_BASE_BASE 0x210010 0).put
    F.SCHED_STAGE_SIZE_SIZE 1 0

/-- The task of token 0 and stripe 0 of bobbin 8. -/
def task0 : Task := { bobbin := 8, token := 0, stripe := 0 }

/-- A bobbin of partition 0 whose compute runs, with two tokens. -/
def running0 : Bobbin := { bobIn .closedInput with computing := true, tokens := 2, close := 10 }

/-- A bobbin whose first token may join a step. -/
def readyBob : Bobbin := { running0 with retired := [(0, [0])] }

/-- A running job with a ready bobbin. -/
def wReady : State := bobbed wRun 8 readyBob

/-- The same with a projection of its counts. -/
def wDue : State := wReady.setMirror 0 { count := 10, hist := [(10, 100)], vNum := 1 }

/-- A partition 0 with other contents. -/
def withPart (s : State) (x : Partition) : State := s.setPart 0 x

/-- A running job with a task that is ready, and bobbin 8. -/
def wTask : State := withPart (bobbed wRun 8 running0) { wRun.part 0 with ready := [task0] }

/-- A running job that runs a step of bobbin 8. -/
def wStep : State :=
  withPart (bobbed wRun 8 { readyBob with member := true }) { wRun.part 0 with step := some { rows := [8], earlyRun := 0 } }

/-- A LEARN job with other learn state. -/
def wLearn (l : Learn) : State := withPart (wJob true) { (wJob true).part 0 with learn := l }

/-- The job of partition 0 in a state. -/
def wState (j : Nat) : State := wRun.put F.SCHED_JOB_STATE j 0

/-- A LEARN job whose optimiser step diverges. -/
def wDiverge : State :=
  withSched (wJob true)
    { models := [{ model0 true with info := { image0 with learn := [{ ins := 1, outs := 1, weights := [0], biases := [0] }] } }]
      parts := [(0, { looms := [0, 1], model := 7, learning := true
                      learn := { master := [{ w := [0x7F800000], b := [0] }], m := [{ w := [0], b := [0] }]
                                 v := [{ w := [0], b := [0] }], grad := [{ w := [0], b := [0] }], running := true } })] }

/-- A device with a registry of one unit and the model of id 7, whose job's partition has gone. -/
def wModel : State :=
  withSched ((State.reset.put F.SCHED_MODEL_BASE_BASE 0x100).put F.SCHED_MODEL_SIZE_SIZE 1) { models := [{ model0 false with addr := 0x1000000 }] }

/-- A registered model without a cache slot. -/
def cold0 : Model := { model0 false with addr := 0x1000000, slot := none, resident := false }

/-- A device with that model. -/
def wCold : State := withSched wModel { models := [cold0] }

/-- A model that has a slot and a unit and is not resident yet, or is. -/
def unit0 (r : Bool) : Model :=
  { model0 false with addr := 0x1000000, header := [0, 0, 0, 64, 0, 0, 0, 0], resident := r, units := [5] }

/-- A device with that model. -/
def wUnit (r : Bool) : State := withSched wModel { models := [unit0 r] }

/-- A LEARN job that has made a step, with a registry. -/
def wCommit : State :=
  ((withSched wUp { models := [{ model0 true with addr := 0x1000000 }]
                    parts := [(0, { looms := [0, 1], model := 7, learning := true })] }).put F.SCHED_MODEL_BASE_BASE 0x100
    |>.put F.SCHED_MODEL_SIZE_SIZE 1 |>.put F.SCHED_LEARN_STEPS_STEPS 3 0).put F.SCHED_JOB_STATE 2 0

/-- A device with another loom 3. -/
def withLoom (l : Loom) : State := State.reset.setLoom 3 l

/-- Loom 3 with a command. -/
def wLoom : State := withLoom { cmds := [{ kind := 2, started := true }] }

/-- A tag in flight. -/
def flying : Tag := { consumers := 1, engine := 1, words := [9] }

/-- A tag that is COMPLETE. -/
def landed : Tag := { flying with status := some 0 }

/-- A remote tag. -/
def farTag : Tag := { flying with remote := some 2, words := [0x49, 5, 0, 0x20, 0, 0, 64, 0] }

/-- A device whose Ranoz link has received a frame. -/
def withFrame (s : State) (f : RzFrame) : State := withLink s { s.link with inbox := [f] }

/-- A Ranoz frame of a type. -/
def frame (kind : Nat) (ws : List Word) : RzFrame := { kind := kind, vl := kindLane kind, payload := ws }

/-- A device on which firmware runs. -/
def wFw : State := State.reset.putBit F.HOST_STATUS_FW_RUN true

/-- The same, with domain 0 tracked on port 0, which has been configured. -/
def wDom (p2p : Bool) (x : Domain) : State :=
  State.put (State.putBit ((((withBoot wFw { ethLanes := true }).putBit F.TK_DOM_STAT_EN true 0).putBit F.TK_DOM_STAT_P2P p2p 0).setDom 0 x
    |>.setEth 0 { configured := true }) F.ETH_STAT_LINK_UP true 0) F.ETH_CFG_SPEED 1 0

/-- An Announce of grandmaster 7 by its steps. -/
def ann0 (steps : Nat) : Announce :=
  { prio1 := 128, cls := 6, accuracy := 0x21, variance := 0x4E5D, prio2 := 128, gm := 7, steps := steps, source := steps, port := 1
    interval := 1000000000 }

/-- A timed frame. -/
def timed0 : TimedFrame := { launch := 5, serial := 70000, lane := 1, stamp := 77 }

/-- A device whose compare unit 3 is armed for a time that has come, for an owner. -/
def wUnit3 (o : Nat) : State := (State.reset.putBit F.TK_CMP_S_HI_ARMED true 3).own 16 o 0

/-- A snapshot. -/
def snap0 : Snap := { seq := 5, sources := 1, time := 9 }

/-- A device with a snapshot in entry 2. -/
def wSnap (x : SnapUnit) (valid : Nat) : State :=
  (withSnap State.reset { x with ring := [(2, snap0)] }).put F.SNAP_STAT_VALID valid

/-- A device whose Ranoz link is up. -/
def wLink : State := wFw.putBit F.LINK_STAT_UP true

/-- A device in a twin role. -/
def wRole (s : State) (r : Nat) : State := s.put F.TWIN_CTRL_ROLE r

/-- A good marker of lane 0. -/
def marker0 : LaneMarker := { b1 := 0x60, b2 := 3, b3 := 0x9C }

/-- A Ranoz frame of a type. -/
def sentFrame (kind seq : Nat) (nak : Bool := false) : RzFrame :=
  { kind := kind, vl := 1, seq := seq, nak := nak, payload := if kind = 0 then [] else [1, 2] }

/-- That frame on the wire, in 8b/10b coding. -/
def wire (kind seq : Nat) (nak : Bool := false) : FrameWire := .symbols (((sentFrame kind seq nak).symbols 4095).map some)

/-- A heartbeat's first words of a partner in a role. -/
def beat (r : Nat) : List Word := [w32 (r + 0x40), 0, 0, 0, 0, 0, 0, 0]

/-- A device in a role with its link up that has heard its partner. -/
def wPair (r : Nat) (peer : Nat) : State :=
  withTwin (wRole wLink r) { hbAny := some 0, hbTime := some 0, hbFields := beat peer, peer := [w32 (peer + 0xC0)] }

/-- A verdict. -/
def verdict0 : Verdict := { cls := 5, conf := 200, amends := true, action := 1 }

/-- A boot unit with an image that is verified. -/
def wImage : State := withBoot wWiped { image := some (List.replicate 16 1) }

/-- A device in the life-cycle state OWNED. -/
def wOwned : State :=
  withBoot ((wWiped.putBit F.HOST_STATUS_FW_RUN true).put F.LC_STATE_STATE 3) {}

/-- A transition to RETURNED waits for its record at address 0, which reads as zeros. -/
def wRecord : State :=
  let s := doing (withBoot wOwned { transition := some (.h2d, 7, 0) }) 0x0905 [7, 0]
  { s with mem := { clean := (List.range 43).map fun i => (64 * i, ()), valid := (List.range 43).map fun i => (64 * i, ()) } }

/-- A command with a lens table of 4,096 points that are 0x0101. -/
def lensTable : Cmd :=
  { opcode := 0x0205, params := [2, 0], bulkLen := 8192, bulk := List.replicate 8192 1, bulkEnd := .complete, quiet := true }

/-- Ports that only one pipe serves, checked port by port. -/
theorem served_here (s : State) (t : Nat) (h : ((List.range 17).all fun p => (s.servedBy p).all (· == t)) = true) :
    ∀ p q : Nat, p < 17 → s.servedBy p = some q → q = t := by
  intro p q hp hq
  have h1 := List.all_eq_true.mp h p (List.mem_range.mpr hp)
  rw [hq] at h1
  simpa using h1

/-! ### Ill-formed commands that `Instr.wf` refuses -/

theorem test_wf_rx_header : (Instr.hostRxCommand { vc := 0, listed := true, header := 3, crcOk := true, payload := [] }).wf = false := by
  decide

theorem test_wf_rx_channel : (Instr.hostRxBulk { vc := 16, listed := true, header := 0, crcOk := true, payload := [] }).wf = false := by
  decide

theorem test_wf_camera_type :
    (Instr.camLongPacket 0 { vc := 0, dt := 64, header := 0, crcOk := true, room := true, payload := [] }).wf = false := by decide

theorem test_wf_camera_channel :
    (Instr.camLongPacket 0 { vc := 16, dt := 0x2A, header := 0, crcOk := true, room := true, payload := [] }).wf = false := by decide

theorem test_wf_unaligned : (Instr.registerWrite 0x3F00A00002 0).wf = false := by decide

theorem test_wf_address : (Instr.cmdMemRead .h2d [(2 ^ 40, Flaw.correctable 0)]).wf = false := by decide

theorem test_wf_hyper_offset : (Instr.schedLearnHyperWrite 0 0x1C 0).wf = false := by decide

theorem test_wf_pace : (Instr.paceWindow [1, 2]).wf = false := by decide

theorem test_wf_descriptor : (Instr.mm 0 0 [1, 2, 3, 4] {}).wf = false := by decide

theorem test_wf_conv_descriptor : (Instr.conv 0 0 (List.replicate 8 0) {}).wf = false := by decide

theorem test_wf_run : (Instr.ranozFrameRx (.lanes [{ past := 0, last := true, run := 31, bits := [] }])).wf = false := by decide

theorem test_wf_straps : (Instr.resetRelease { ddrCfg := 32 }).wf = false := by decide

theorem test_wf_limit : (Instr.setmwl .broadcast 65536).wf = false := by decide

theorem test_wf_ordinary : (Instr.registerWrite 0x3F00A00004 7).wf = true := by decide

/-! ### Worked examples and check values of the spec -/

/-- R68: the CRC-32C of the nine ASCII bytes "123456789". -/
theorem test_crc_check_value : crc32c [0x31, 0x32, 0x33, 0x34, 0x35, 0x36, 0x37, 0x38, 0x39] = 0xE3069283 := by decide +kernel

/-- Chapter 3, setting the lead: the CRC is taken over 06 07 00 01, 31 00 01 00, 00 00 00 00, 18 00 00 00. -/
theorem test_lead_packet_bytes : wordsBytes [0x01000706, 0x00010031, 0, 0x18] =
    [0x06, 0x07, 0x00, 0x01, 0x31, 0x00, 0x01, 0x00, 0, 0, 0, 0, 0x18, 0, 0, 0] := by decide +kernel

/-- Chapter 3, setting the lead: FIELD_EJECT_LEAD holds 24. -/
theorem test_lead_24 : (after (told wFw 0x0706 [24]) (.cmdEjectLeadSet .h2d)).get F.FIELD_EJECT_LEAD_LEAD = 24 := by
  decide +kernel

/-- Chapter 3, setting the lead: with 70,000 the lead is unchanged. -/
theorem test_lead_too_large : (after (told wFw 0x0706 [70000]) (.cmdEjectLeadSet .h2d)).get F.FIELD_EJECT_LEAD_LEAD =
    wFw.get F.FIELD_EJECT_LEAD_LEAD := by decide +kernel

/-- Chapter 3, setting the lead: a parameter of 70,000 is answered with 0x0004_0031. -/
theorem test_lead_reply :
    let s := after { wFw with host := { wFw.host with waiting := [(.h2d, { opcode := 0x0706, tag := 0x31, params := [70000] })] } }
      (.cmdEjectLeadSet .h2d)
    s.reg R.MBX_D2H_DATA 0 = 0x00040031 := by decide +kernel

/-- The codebook of chapter 10's example. -/
def book10 : List Int := [-1024, -512, -256, -128, -64, -32, -16, 0, 16, 32, 64, 128, 256, 512, 1024, 2047]

/-- The scale record of chapter 10's example. -/
def rec10 : ScaleRec := scaleRec [0x3C000000, 0x43000000, 0x00330000, 0x041]

/-- The elements of chapter 10's example: 0.25, 0.1875, -0.046875, 20, -3, 0, 1.5, -9. -/
def elems10 : List Nat := [0x3E800000, 0x3E400000, 0xBD400000, 0x41A00000, 0xC0400000, 0, 0x3FC00000, 0xC1100000]

/-- What the conversions of chapter 10's example gather. -/
def gather10 : Gather := (elems10.zipIdx).foldl (fun g e => g.add rec10 book10 e.2 (some (w32 e.1))) {}

/-- Chapter 10, a CB16 conversion: the indices. -/
theorem test_cb16_indices : elems10.map (fun x => (rec10.conv book10 x).code) = [9, 8, 7, 15, 2, 7, 12, 0] := by decide +kernel

/-- Chapter 10, a CB16 conversion: the bytes 0x89, 0xF7, 0x72 and 0x0C. -/
theorem test_cb16_packed : packCodes 4 (elems10.map fun x => some (rec10.conv book10 x).code) =
    [some 0x89, some 0xF7, some 0x72, some 0x0C] := by decide +kernel

/-- Chapter 10, a CB16 conversion: SSE 0x4192_8CA0, COUNT 8, SAT 1, UNDER 1, MIN and MAX. -/
theorem test_cb16_gather : (gather10.sse, gather10.count, gather10.sat, gather10.under, gather10.lo, gather10.hi) =
    (0x41928CA0, 8, 1, 1, 0xC1100000, 0x41A00000) := by decide +kernel

/-- Chapter 10, a CB16 conversion: the unit raises a scale alarm at the reset fraction. -/
theorem test_cb16_alarm : gather10.alarms 0x028F = true := by decide +kernel

/-- R242: a UINT8 channel that held -0.75 throughout gets sigma 0.75 and Z 1. -/
theorem test_flat_uint8 : propose 1 0xBF400000 0xBF400000 = (0x3F400000, 1, 1) := by decide +kernel

/-- The four products of chapter 13's example: 1.0 and three times 2^-24. -/
def terms13 : List (FpVal × FpVal) := [0x3F80, 0x3980, 0x3980, 0x3980].map fun x => (fmtBF16.val x, fmtBF16.val x)

/-- Chapter 13, one column sum under NATIVE. -/
theorem test_native_sum : floatPass false 0 terms13 = (0x3F800000, false) := by decide +kernel

/-- Chapter 13, one column sum under IC24_TREE. -/
theorem test_tree_sum : floatPass true 0 terms13 = (0x3F800001, false) := by decide +kernel

/-- Chapter 16, a domain switch: the rates that TK_RATE shows for +2.0, +13.2 and +3.2 ppm. -/
theorem test_rates : [2000000, 13200000, 3200000].map rateUnits = [562949953, 3715469693, 900719925] := by decide +kernel

/-- R182's example: IN_W 5, K 7, DIL 1 and no padding give no output. -/
theorem test_conv_no_output :
    ({ convIns [] with k := 7, stride := 1, dil := 1, inW := 5 } : ConvIns).outW = 0 := by decide +kernel

/-- A part at target 750 mV with the temperatures of chapter 20's example, in units of 0.125 °C. -/
def cooled (depth : Nat) : State := withPower wFw { target := 750, now := 750, depth := depth }

/-- A sample of one hottest sensor. -/
def sampleOf (t : Int) : Telemetry := { temps := [t, 400, 400, 400], rails := [some (750, 3000), some (750, 10), some (750, 10)] }

/-- Chapter 20, throttling at the floor, step 1: 100.1 °C lowers the setpoint by 10 mV. -/
theorem test_throttle_step : (after (cooled 0) (.telemetrySample (sampleOf 801))).power.depth = 10 := by decide +kernel

/-- Chapter 20, step 4: at the floor of 720 mV the depth holds. -/
theorem test_throttle_floor : (after (cooled 30) (.telemetrySample (sampleOf 800))).power.depth = 30 := by decide +kernel

/-- Chapter 20, step 5: between 95 °C and 100 °C the depth holds. -/
theorem test_throttle_between : (after (cooled 30) (.telemetrySample (sampleOf 789))).power.depth = 30 := by decide +kernel

/-- Chapter 20, step 6: 94.9 °C raises the setpoint again. -/
theorem test_throttle_cool : (after (cooled 30) (.telemetrySample (sampleOf 759))).power.depth = 20 := by decide +kernel

/-- Chapter 4, placing lines, step 2: the count reads 1,250,110, within 2 of the expected 1,250,112, and the block snaps. -/
theorem test_block_snaps :
    let s := (wCam.put F.CAM_GAP_TOL_TOL 2 0).setCam 0 { wCam.cam 0 with first := false, prev := some (1250048, 65536, 64) }
    (s.placeBlock 0 1250110).2.1 = 1250112 := by decide +kernel

/-! ### Two witnesses that are not in the list below -/

/-- PtpMessages, the first clause: a Sync for a domain that is not tracked. -/
theorem test_witness_PtpMessages_discard :
    (Live State.reset ∧ State.reset.on F.HOST_STATUS_FW_RUN = false) ∧
      ∃ n b o r, Instr.ptpSyncRx 1 3 true 5 6 = .ptpSyncRx 1 n b o r := by
  unfold Live
  exact ⟨by decide +kernel, 3, true, 5, 6, rfl⟩

/-- EveryStepKeepsSound: the state at reset is sound, and a step from it answers a next state. -/
theorem test_witness_EveryStepKeepsSound :
    Sound State.reset ∧ step State.reset = .next State.reset.tick :=
  ⟨⟨by decide +kernel, by decide +kernel, by decide +kernel, by decide +kernel, by decide +kernel, by decide +kernel⟩, rfl⟩


/-! ### Every hypothesis is met -/

theorem test_witness_StepRunsTheFrontCommand :
    (let c : Instr := .ethLanesStart; let rest : List Instr := [.i3cTargetReady]; let s : State := { State.reset with pending := [.ethLanesStart, .i3cTargetReady] }; s.pending = c :: rest) := by decide +kernel

theorem test_witness_IdleStepPassesTime :
    (let s : State := State.reset; s.pending = [] ∧ Live s) ∧
    (let s : State := wHeld; s.pending = [] ∧ s.boot.held = true) ∧
    (let s : State := withSnap State.reset { taking := some 0 }; s.pending = [] ∧ Live s ∧ s.snap.taking.isSome = true ∧ s.snap.trail.length < 200) := by unfold Live; decide +kernel

theorem test_witness_NoCommandStops :
    (let s : State := wHeld; s.boot.held = true) := by decide +kernel

theorem test_witness_ResetValues :
    (let c : ℕ := 20; c ∈ [20, 21, 22, 23]) := by decide +kernel

set_option maxRecDepth 20000 in
theorem test_witness_RegisterWrites :
    ((let f : Fld := F.HOST_CFG_BULK_TMO; f.lo + f.width ≤ 32) ∧
    (let r : Reg := R.HOST_CFG; let old : ℕ := 1; let v : ℕ := 0; let i : ℕ := 0; i < 32 ∧ old < 2 ^ 32 ∧ v < 2 ^ 32 ∧ r.rw < 2 ^ 32 ∧ r.rwl < 2 ^ 32 ∧ (bitAt r.rw i || bitAt r.rwl i) = true ∧ bitAt r.w1c i = false ∧ bitAt r.w1s i = false) ∧
    (let r : Reg := R.HOST_IBI_CAUSE; let old : ℕ := 2; let v : ℕ := 2; let i : ℕ := 1; i < 32 ∧ old < 2 ^ 32 ∧ v < 2 ^ 32 ∧ r.rw < 2 ^ 32 ∧ r.rwl < 2 ^ 32 ∧ bitAt r.rw i = false ∧ bitAt r.rwl i = false ∧ bitAt r.w1s i = false ∧ bitAt r.w1c i = true)) ∧
    ((let r : Reg := R.BLOCK_LOCK; let v : ℕ := 1; let old : ℕ := 0; let i : ℕ := 0; i < 32 ∧ old < 2 ^ 32 ∧ v < 2 ^ 32 ∧ r.rw < 2 ^ 32 ∧ r.rwl < 2 ^ 32 ∧ bitAt r.rw i = false ∧ bitAt r.rwl i = false ∧ bitAt r.w1c i = false ∧ bitAt r.w1s i = true) ∧
    (let r : Reg := R.SYS_ID; let v : ℕ := 0xFFFFFFFF; let old : ℕ := 0; let i : ℕ := 0; i < 32 ∧ old < 2 ^ 32 ∧ v < 2 ^ 32 ∧ r.rw < 2 ^ 32 ∧ r.rwl < 2 ^ 32 ∧ bitAt r.rw i = false ∧ bitAt r.rwl i = false ∧ bitAt r.w1c i = false ∧ bitAt r.w1s i = false) ∧
    (let a : ℕ := 0x3F00EF0000; let s : State := State.reset; Live s ∧ s.region a = Region.block ∧ findReg regTable a = none ∧ a % 4 = 0)) :=
  ⟨by decide +kernel,
   by unfold Live; decide +kernel⟩

set_option maxRecDepth 20000 in
theorem test_witness_RegisterWrites_a :
    let a : ℕ := R.CAM_GAP_TOL.addr 0 0; let r : Reg := R.CAM_GAP_TOL; let s : State := State.reset; let i : ℕ := 0; let j : ℕ := 0; findReg regTable a = some (r, i, j) ∧ Live s ∧ s.region a = Region.block ∧ a % 4 = 0 ∧ s.fencedReg r a = false ∧ s.refused r a = false ∧ s.writeIgnored r i = false ∧ ¬(270583988224 ≤ a ∧ a < 270585036800) ∧ ¬(270593425408 ≤ a ∧ a < 270594473980) ∧ r.base ∉ List.map (fun x => x.base) ([R.SYS_THROTTLE, R.HOST_STATUS, R.HOST_IBI_CAUSE, R.HOST_IBI_EN, R.HOST_TX_MAP, R.HOST_TX_VC_TAP, R.HOST_TX_VC_REC, R.HOST_CFG, R.BOB_AGE_LIMIT, R.QUANT_STAT_CTRL, R.QUANT_CALIB_CTRL, R.QUANT_SCALE_POLICY, R.LINK_CFG, R.TK_CTRL, R.DET_CTRL] ++ learnRegs) :=
  ⟨rfl, by unfold Live; decide +kernel⟩

set_option maxRecDepth 20000 in
theorem test_witness_RegisterWrites_b :
    let s : State := State.reset.setReg R.BLOCK_LOCK 1 0; let a : ℕ := R.SYS_THROTTLE.addr 0 0; let r : Reg := R.SYS_THROTTLE; let i : ℕ := 0; let j : ℕ := 0; findReg regTable a = some (r, i, j) ∧ Live s ∧ s.region a = Region.block ∧ a % 4 = 0 ∧ (s.fencedReg r a = true ∨ s.refused r a = true) :=
  ⟨rfl, by unfold Live; decide +kernel⟩

theorem test_witness_ThrottleWriteClamps :
    (let s : State := State.reset; s.locked R.SYS_THROTTLE.base = false) ∧
    (let s : State := wFw; FwUp s ∧ s.locked R.SYS_THROTTLE.base = false) ∧
    (let s : State := State.reset.setReg R.BLOCK_LOCK 1 ((R.SYS_THROTTLE.base - 0x3F00000000) / 0x100000); s.locked R.SYS_THROTTLE.base = true) := by unfold FwUp Live; decide +kernel

theorem test_witness_MemoryReadsWhatWasWritten :
    ((let a : ℕ := 0x2000000000; let d : List Byte := List.replicate 8 0xAB; let s : State := State.reset; s.mem.wf = true ∧ a % granSize a = 0 ∧ d.length = granSize a) ∧
    (let a : ℕ := 0x2000000000; let d : List Byte := [0xAB]; let s : State := State.reset; 0 < d.length ∧ a + d.length ≤ granBase a + granSize a ∧ d.length < granSize a ∧ s.mem.good (granBase a) = false) ∧
    (let g : ℕ := 0x2000000000; let s : State := State.reset; s.mem.wf = true ∧ 137438953472 ≤ g ∧ g % 8 = 0 ∧ tget? s.mem.clean g = tget? s.mem.valid g)) ∧
    ((let s : State := State.reset; s.get F.MEM_DDR_CFG_CHANNELS = 0) ∧
    (let s : State := State.reset.put F.MEM_DDR_CFG_CHANNELS 1; s.get F.MEM_DDR_CFG_CHANNELS = 1) ∧
    (let s : State := State.reset.put F.MEM_DDR_CFG_CHANNELS 2; s.get F.MEM_DDR_CFG_CHANNELS = 2)) :=
  ⟨by decide +kernel,
   by decide +kernel⟩

theorem test_witness_MemoryCommands :
    ((let s : State := told wWiped 0x0501 [0, 0x20, 14]; let src : Source := .h2d; let c : Cmd := (s.oldest Source.h2d).getD {  }; Starts s src 1281 c ∧ 1 ≤ c.p 3 ∧ c.p 3 ≤ if isCsi src = true then 255 else 14) ∧
    (let s : State := told wWiped 0x0501 [0, 0x20, 15]; let src : Source := .h2d; let c : Cmd := (s.oldest Source.h2d).getD {  }; Starts s src 1281 c ∧ (c.p 3 = 0 ∨ (if isCsi src = true then 255 else 14) < c.p 3)) ∧
    (let s : State := wWiped.writeData 0x2000000000 (goodData (List.replicate 8 0)); let a : ℕ := 0x2000000000; a % 4 = 0 ∧ (s.region a).isMemory = true ∧ s.memRefusal a = none ∧ s.mem.good (granBase a) = true ∧ tget? s.mem.flaws (granBase a) = none)) ∧
    ((let a : ℕ := 2; a % 4 ≠ 0) ∧
    (let s : State := told wWiped 0x0502 [0, 0x20, 5]; let a : ℕ := 0; a % 4 = 0 ∧ (s.region a).isMemory = true ∧ s.memRefusal a = none ∧ s.mem.good (granBase a) = false ∧ tget? s.mem.flaws (granBase a) = none ∧ tget? s.mem.clean (granBase a) = none) ∧
    (let s : State := State.reset.setReg R.SCHED_FENCE_MAP_LO 1; let a : ℕ := 0x2200000000; let k : ℕ := 0; a % 4 = 0 ∧ s.region a = Region.scratch k ∧ s.fenced k = true)) ∧
    ((let s : State := State.reset; let a : ℕ := 0; a % 4 = 0 ∧ s.region a = Region.ddr ∧ s.wiped a = false) ∧
    (let s : State := told wWiped 0x0502 [0, 0x20, 5]; let src : Source := .h2d; let c : Cmd := (s.oldest Source.h2d).getD {  }; Starts s src 1282 c ∧ c.address % 4 = 0) ∧
    (let s : State := told wWiped 0x0502 [2, 0x20, 5]; let src : Source := .h2d; let c : Cmd := (s.oldest Source.h2d).getD {  }; Starts s src 1282 c ∧ c.address % 4 ≠ 0)) ∧
    ((let s : State := wWiped; let a : ℕ := 0x2000000000; let ws : List Word := [1, 2]; a % granSize a = 0 ∧ 4 * ws.length = granSize a ∧ (s.region a).isMemory = true ∧ s.memRefusal a = none)) :=
  ⟨by unfold Starts Live; decide +kernel,
   by decide +kernel,
   by unfold Starts Live; decide +kernel,
   by decide +kernel⟩

theorem test_witness_ReplyQueue :
    (let ws : List Word := [1, 2]; let s : State := State.reset; s.on F.MBX_D2H_GO_FULL = false ∧ s.host.d2hQueue = [] ∧ ws.length ≤ 16) ∧
    (let s : State := State.reset.putBit F.MBX_D2H_GO_FULL true; (s.on F.MBX_D2H_GO_FULL = true ∨ s.host.d2hQueue ≠ []) ∧ s.host.d2hQueue.length < 64) ∧
    (let s : State := withHost State.reset { d2hQueue := List.replicate 64 [] }; 64 ≤ s.host.d2hQueue.length) := by decide +kernel

theorem test_witness_ReplyFrame :
    (let s : State := wTx; let st : Status := .done; let c : Cmd := {  }; st ≠ Status.poisoned ∧ (c.quiet && (st == Status.done || st == Status.accepted)) = false ∧ s.portUp (s.txPort 22) = true) ∧
    (let c : Cmd := { quiet := true }; let st : Status := .accepted; c.quiet = true ∧ (st = Status.done ∨ st = Status.accepted)) := by decide +kernel

theorem test_witness_HeaderChecks :
    ((let p : Packet := { w0 := 0x1000100, w1 := 5, bulk := 0, crc := 0, params := [] }; p.crcHolds = false) ∧
    (let p : Packet := packet 0x0200 5 []; p.crcHolds = true ∧ (opRow? p.op = none ∨ bitsOf p.w0 24 8 ≠ 1)) ∧
    (let p : Packet := packet 0x0100 5 [1]; let r : OpRow := (opRow? 0x0100).getD { op := 0 }; let src : Source := .h2d; p.crcHolds = true ∧ opRow? p.op = some r ∧ bitsOf p.w0 24 8 = 1 ∧ p.formOk src r = false)) ∧
    ((let s : State := withHost State.reset { waiting := List.replicate 32 (.h2d, {  }) }; let p : Packet := packet 0x0100 5 []; let r : OpRow := (opRow? 0x0100).getD { op := 0 }; let src : Source := .h2d; p.crcHolds = true ∧ opRow? p.op = some r ∧ bitsOf p.w0 24 8 = 1 ∧ p.formOk src r = true ∧ s.stateRefusal src p.op = none ∧ 32 ≤ s.outstanding src) ∧
    (let s : State := State.reset; let p : Packet := packet 0x0100 5 []; let r : OpRow := (opRow? 0x0100).getD { op := 0 }; let src : Source := .h2d; p.crcHolds = true ∧ opRow? p.op = some r ∧ bitsOf p.w0 24 8 = 1 ∧ p.formOk src r = true ∧ s.stateRefusal src p.op = none ∧ s.outstanding src < 32) ∧
    (let s : State := State.reset.putBit F.HOST_STATUS_BOOT_ROM true; let p : Packet := packet 0x0303 5 []; let r : OpRow := (opRow? 0x0303).getD { op := 0 }; let src : Source := .h2d; let st : Status := .notReady; p.crcHolds = true ∧ opRow? p.op = some r ∧ bitsOf p.w0 24 8 = 1 ∧ p.formOk src r = true ∧ s.stateRefusal src p.op = some st) ∧
    (let p : Packet := packet 0x0100 5 []; let s : State := State.reset; let src : Source := .h2d; s.headerRefusal src p true = none) ∧
    (let s : State := State.reset.putBit F.MEM_TMR_STAT_SPLIT true; let op : ℕ := 0; s.isSplit = true ∧ op ∉ splitOps)) ∧
    ((let s : State := withBoot State.reset { transition := some (.h2d, 7, 0) }; let op : ℕ := 0x0303; s.isSplit = false ∧ s.boot.transition.isSome = true ∧ op ≠ 0x0100 ∧ op ≠ 0x0101) ∧
    (let s : State := State.reset.putBit F.HOST_STATUS_BOOT_ROM true; let op : ℕ := 0x0303; s.isSplit = false ∧ s.boot.transition = none ∧ s.on F.HOST_STATUS_BOOT_ROM = true ∧ op ∉ [0x0100, 0x0101, 0x0901, 0x0902]) ∧
    (let s : State := wFw.putBit F.HOST_STATUS_BOOT_ROM false; let op : ℕ := 0x0904; s.isSplit = false ∧ s.boot.transition = none ∧ s.on F.HOST_STATUS_READY = false ∧ (op / 256 = 2 ∨ op / 256 = 3 ∨ op / 256 = 4 ∨ op ∈ [0x0801, 0x0803, 0x0903, 0x0904])) ∧
    (let s : State := (wFw.putBit F.HOST_STATUS_BOOT_ROM false).putBit F.HOST_STATUS_READY true; let src : Source := .h2d; s.isSplit = false ∧ s.boot.transition = none ∧ s.on F.HOST_STATUS_BOOT_ROM = false ∧ s.on F.HOST_STATUS_READY = true ∧ src ≠ .t2d) ∧
    (let s : State := (wFw.putBit F.HOST_STATUS_BOOT_ROM false).putBit F.HOST_STATUS_READY true; let op : ℕ := 0x0303; s.isSplit = false ∧ s.boot.transition = none ∧ s.on F.HOST_STATUS_BOOT_ROM = false ∧ s.on F.HOST_STATUS_READY = true ∧ op ∉ twinOps)) :=
  ⟨by decide +kernel,
   by decide +kernel,
   by decide +kernel⟩

theorem test_witness_HostReceive :
    ((let s : State := withHost wTx { csiReady := true, waiting := [(.csi 0, { bulkLen := 8, bulkEnd := .awaiting })] }; let x : RxPacket := rx [1, 2, 3, 4]; x.vc < 4 ∧ Live s ∧ s.host.csiReady = true ∧ x.header < 2 ∧ x.listed = true ∧ x.crcOk = true ∧ s.boot.load = none ∧ x.payload.length < 16) ∧
    (let s : State := wTx; let x : RxPacket := rx (wordsBytes [1, 2, 3, 4]); x.vc < 4 ∧ Live s ∧ s.host.csiReady = true ∧ x.header < 2 ∧ x.listed = true ∧ x.crcOk = true ∧ s.boot.load = none ∧ 16 ≤ x.payload.length) ∧
    (let s : State := withHost wTx { csiReady := true, waiting := [(.csi 0, { bulkLen := 8, bulkEnd := .awaiting })] }; let x : RxPacket := rx [1, 2, 3, 4]; let c : Cmd := (s.awaiting (Source.csi 0)).getD {  }; x.vc < 4 ∧ Live s ∧ s.host.csiReady = true ∧ x.header < 2 ∧ x.listed = true ∧ x.crcOk = true ∧ s.boot.load = none ∧ s.awaiting (Source.csi 0) = some c ∧ c.bulk.length + x.payload.length ≤ c.bulkLen)) ∧
    ((let s : State := withHost wTx { csiReady := true, waiting := [(.csi 0, { bulkLen := 2, bulkEnd := .awaiting })] }; let x : RxPacket := rx [1, 2, 3, 4]; let c : Cmd := (s.awaiting (Source.csi 0)).getD {  }; x.vc < 4 ∧ Live s ∧ s.host.csiReady = true ∧ x.header < 2 ∧ x.listed = true ∧ x.crcOk = true ∧ s.boot.load = none ∧ s.awaiting (Source.csi 0) = some c ∧ c.bulkLen < c.bulk.length + x.payload.length) ∧
    (let s : State := wTx; let x : RxPacket := rx [1, 2, 3, 4]; x.vc < 4 ∧ Live s ∧ s.host.csiReady = true ∧ x.header < 2 ∧ x.listed = true ∧ x.crcOk = true ∧ s.boot.load = none ∧ s.awaiting (Source.csi 0) = none) ∧
    (let c : Cmd := {  }; c.bulk.length ≤ c.bulkLen)) ∧
    ((let s : State := wTx; let x : RxPacket := { vc := 0, listed := true, header := 2, crcOk := true, payload := [] }; Live s ∧ s.host.csiReady = true ∧ 2 ≤ x.header) ∧
    (let s : State := wTx; let x : RxPacket := { rx [] with header := 1, crcOk := false }; Live s ∧ s.host.csiReady = true ∧ x.header < 2 ∧ x.vc < 4 ∧ x.listed = true ∧ x.crcOk = false) ∧
    (let s : State := wTx; let x : RxPacket := { rx [] with vc := 4, header := 1 }; Live s ∧ s.host.csiReady = true ∧ x.header < 2 ∧ (4 ≤ x.vc ∨ x.listed = false))) ∧
    ((let s : State := State.reset.put F.HOST_CFG_BULK_TMO 0; Live s ∧ s.get F.HOST_CFG_BULK_TMO = 0) ∧
    (let s : State := State.reset; Live s ∧ s.get F.HOST_CFG_BULK_TMO ≠ 0 ∧ s.boot.load = none) ∧
    (let s : State := doing (withBoot State.reset { load := some { src := .h2d, len := 2640 } }) 0x0901 [2640]; let l : FwLoad := { src := .h2d, len := 2640 }; let e : Source × Cmd := (s.runningCmd 0x0901).getD (Source.h2d, {  }); Live s ∧ s.get F.HOST_CFG_BULK_TMO ≠ 0 ∧ s.boot.load = some l ∧ s.loadCmd = some e ∧ l.src = .h2d) ∧
    (let s : State := doing (withBoot State.reset { load := some { src := .csi 0, len := 2640 } }) 0x0901 [2640]; let l : FwLoad := { src := .csi 0, len := 2640 }; let e : Source × Cmd := (s.runningCmd 0x0901).getD (Source.h2d, {  }); Live s ∧ s.get F.HOST_CFG_BULK_TMO ≠ 0 ∧ s.boot.load = some l ∧ s.loadCmd = some e ∧ l.src ≠ .h2d) ∧
    (let s : State := withSched State.reset { loading := some { src := .h2d, tag := 0, id := 7, len := 64, addr := 0x1000000 } }; let l : RegLoad := { src := .h2d, tag := 0, id := 7, len := 64, addr := 0x1000000 }; Live s ∧ s.get F.HOST_CFG_BULK_TMO ≠ 0 ∧ s.sched.loading = some l)) ∧
    ((let s : State := withIntake State.reset { opened := [(0, 3)], samples := [{ ready0 with stage := .waiting, ended := false }] }; let vc : Fin 4 := 0; let x : Sample := (s.openSample ↑vc).getD ready0; Live s ∧ s.get F.HOST_CFG_BULK_TMO ≠ 0 ∧ tget? s.intake.headers ↑vc = none ∧ s.openSample ↑vc = some x)) :=
  ⟨by unfold Live; decide +kernel,
   by unfold Live; decide +kernel,
   by unfold Live; decide +kernel,
   by unfold Live; decide +kernel,
   by unfold Live; decide +kernel⟩

theorem test_witness_HostTransmit :
    ((let s : State := withHost wTx { csiReady := true, records := [[1, 2, 3]] }; Live s ∧ s.host.records ≠ [] ∧ s.portUp (s.txPort 20) = true) ∧
    (let v : Word := w32 (State.reset.reg R.HOST_TX_MAP); let s : State := State.reset; Live s ∧ (s.mergeReg R.HOST_TX_MAP (BitVec.toNat v)).placementOk = true) ∧
    (let s : State := State.reset; let v : Word := 0; Live s ∧ (s.mergeReg R.HOST_TX_MAP (BitVec.toNat v)).placementOk = false)) ∧
    ((let s : State := State.reset; let v : Word := 0; let k : Fin 4 := 3; let t : State := if k.val = 3 then s.mergeReg R.HOST_TX_VC_REC v.toNat else s.mergeReg R.HOST_TX_VC_TAP (if k.val = 2 then v.toNat % 16 else v.toNat) k.val; Live s ∧ t.placementOk = true) ∧
    (let s : State := State.reset.setReg R.HOST_TX_MAP 1; let v : Word := 0xFFFFFFFF; let k : Fin 4 := 1; let t : State := if k.val = 3 then s.mergeReg R.HOST_TX_VC_REC v.toNat else s.mergeReg R.HOST_TX_VC_TAP (if k.val = 2 then v.toNat % 16 else v.toNat) k.val; Live s ∧ t.placementOk = false) ∧
    (let s : State := State.reset; Live s ∧ s.placementOk = true)) :=
  ⟨by unfold Live; decide +kernel,
   by unfold Live; decide +kernel⟩

theorem test_witness_CommonCommandCodes :
    ((let s : State := wBus; BusUp s ∧ s.ibiActive = 0) ∧
    (let s : State := (wBus.put F.HOST_IBI_CAUSE_RX_ERR 1); BusUp s ∧ s.ibiActive ≠ 0) ∧
    (let s : State := wBus; BusUp s ∧ s.i3c.dynAddr = none)) ∧
    ((let s : State := withI3c State.reset { ready := true, dynAddr := some 0x4C }; let b : BitVec 7 := s.i3c.dynAddr.getD 0; BusUp s ∧ s.i3c.dynAddr = some b) ∧
    (let s : State := wBus; let n : ℕ := 8; BusUp s ∧ 8 ≤ n ∧ n ≤ 256) ∧
    (let s : State := wBus; let n : ℕ := 257; BusUp s ∧ (n < 8 ∨ 256 < n))) ∧
    ((let s : State := wBus; let v : BitVec 8 := 0; BusUp s ∧ v ≠ 1#8)) :=
  ⟨by unfold BusUp Live; decide +kernel,
   by unfold BusUp Live; decide +kernel,
   by unfold BusUp Live; decide +kernel⟩

theorem test_witness_RegisterWindow :
    ((let s : State := wBus; let lo : Byte := 0x80; let hi : Byte := 0; BusUp s ∧ 8 ≤ s.i3c.mwl ∧ (BitVec.toNat lo + 256 * BitVec.toNat hi) % 4 = 0) ∧
    (let s : State := wBus; let lo : Byte := 0x3C; BusUp s ∧ 8 ≤ s.i3c.mwl ∧ BitVec.toNat lo % 4 = 0 ∧ BitVec.toNat lo < 64 ∧ s.on F.MBX_H2D_GO_FULL = false) ∧
    (let s : State := wBus.putBit F.MBX_H2D_GO_FULL true; let lo : Byte := 0x3C; BusUp s ∧ 8 ≤ s.i3c.mwl ∧ BitVec.toNat lo % 4 = 0 ∧ BitVec.toNat lo < 64 ∧ s.on F.MBX_H2D_GO_FULL = true)) ∧
    ((let s : State := wBus; let lo : Byte := 0x3D; let hi : Byte := 0; BusUp s ∧ 8 ≤ s.i3c.mwl ∧ (BitVec.toNat lo + 256 * BitVec.toNat hi) % 4 ≠ 0) ∧
    (let s : State := withI3c State.reset { ready := true, ptr := 0x100 }; BusUp s ∧ 8 ≤ s.i3c.mrl ∧ s.i3c.ptr ≠ 192) ∧
    (let i : ℕ := 0; i < 16)) ∧
    ((let s : State := withI3c State.reset { ready := true, hdr := true }; let k : BitVec 8 := 0x0F; BusUp s ∧ s.i3c.hdr = true ∧ k.toNat < 16 ∧ s.on F.MBX_H2D_GO_FULL = false) ∧
    (let s : State := withI3c State.reset { ready := true, hdr := true }; let k : BitVec 8 := 0x7F; BusUp s ∧ s.i3c.hdr = true ∧ k.toNat < 128) ∧
    (let s : State := withI3c State.reset { ready := true, hdr := true }; let k : BitVec 8 := 0x80; BusUp s ∧ s.i3c.hdr = true ∧ 128 ≤ k.toNat ∧ k.toNat ≠ 176)) :=
  ⟨by unfold BusUp Live; decide +kernel,
   by unfold BusUp Live; decide +kernel,
   by unfold BusUp Live; decide +kernel⟩

theorem test_witness_MailboxesAndNotifications :
    ((let s : State := wBus.putBit F.MBX_H2D_GO_FULL true; BusUp s ∧ s.on F.MBX_H2D_GO_FULL = true) ∧
    (let s : State := wBus; let v : Word := 1; BusUp s ∧ s.on F.MBX_H2D_GO_FULL = false ∧ bitAt (BitVec.toNat v) 0 = true) ∧
    (let s : State := wBus; let v : Word := 0; BusUp s ∧ s.on F.MBX_H2D_GO_FULL = false ∧ bitAt (BitVec.toNat v) 0 = false)) ∧
    ((let s : State := State.reset.putBit F.MBX_H2D_GO_FULL true; Live s ∧ s.on F.MBX_H2D_GO_FULL = true) ∧
    (let s : State := wBus.placeD2h [1, 2]; BusUp s ∧ s.on F.MBX_D2H_GO_FULL = true ∧ s.host.d2hQueue = []) ∧
    (let s : State := (wBus.placeD2h [1, 2]).postD2h [3, 4]; let ws : List Word := [3, 4]; let q : List (List Word) := []; BusUp s ∧ s.on F.MBX_D2H_GO_FULL = true ∧ s.host.d2hQueue = ws :: q)) ∧
    ((let s : State := wBus; BusUp s ∧ s.on F.MBX_D2H_GO_FULL = false) ∧
    (let s : State := (wTx.put F.HOST_CFG_MBX_WDT 1).placeD2h [1, 2]; Live s ∧ s.host.d2hWatch = true ∧ s.on F.MBX_D2H_GO_FULL = true ∧ s.host.d2hQueue = [] ∧ s.portUp (s.txPort 22) = true) ∧
    (let s : State := (State.reset.put F.HOST_IBI_CAUSE_RX_ERR 1).put F.HOST_IBI_CAUSE_READY 1; Live s)) ∧
    ((let s : State := withI3c State.reset { ready := true, pending := true, again := true }; BusUp s ∧ s.i3c.pending = true)) :=
  ⟨by unfold BusUp Live; decide +kernel,
   by unfold BusUp Live; decide +kernel,
   by unfold BusUp Live; decide +kernel,
   by unfold BusUp Live; decide +kernel⟩

theorem test_witness_MailboxesAndNotifications_a :
    let f : Fld := F.HOST_IBI_CAUSE_RX_ERR; let s : State := State.reset; f.reg = R.HOST_IBI_CAUSE ∧ s.ibiActive = 0 ∧ (s.put f 1).ibiActive ≠ 0 ∧ s.i3c.ibiOn = true :=
  ⟨rfl, by decide +kernel⟩

theorem test_witness_MailboxesAndNotifications_b :
    let f : Fld := F.HOST_IBI_CAUSE_READY; let s : State := State.reset; f.reg = R.HOST_IBI_CAUSE ∧ s.ibiActive = 0 ∧ (s.put f 1).ibiActive ≠ 0 ∧ s.i3c.ibiOn = true :=
  ⟨rfl, by decide +kernel⟩

theorem test_witness_MailboxesAndNotifications_c :
    let s : State := State.reset.put F.HOST_IBI_CAUSE_RX_ERR 1; let f : Fld := F.HOST_IBI_CAUSE_READY; f.reg = R.HOST_IBI_CAUSE ∧ s.ibiActive ≠ 0 :=
  ⟨rfl, by decide +kernel⟩

theorem test_witness_GeneralCommands :
    ((let s : State := told State.reset 0x0100 []; let src : Source := .h2d; let c : Cmd := (s.oldest Source.h2d).getD {  }; Starts s src 256 c) ∧
    (let s : State := told State.reset 0x0101 []; let src : Source := .h2d; let c : Cmd := (s.oldest Source.h2d).getD {  }; Starts s src 257 c) ∧
    (let s : State := told State.reset 0x0102 []; let src : Source := .h2d; let c : Cmd := (s.oldest Source.h2d).getD {  }; Starts s src 258 c)) ∧
    ((let s : State := told State.reset 0x0103 [750]; let src : Source := .h2d; let c : Cmd := (s.oldest Source.h2d).getD {  }; Starts s src 259 c ∧ c.p 1 % 10 = 0 ∧ 650 ≤ c.p 1 ∧ c.p 1 ≤ 900 ∧ s.straps.pwrExt = false ∧ bitAt (s.get F.SYS_PWR_STAT_NO_RESPONSE) 0 = false ∧ s.on F.SYS_PWR_STAT_BAD_MODE = false ∧ s.power.depth = 0 ∧ s.runningCmd 259 = none) ∧
    (let s : State := told State.reset 0x0103 [751]; let src : Source := .h2d; let c : Cmd := (s.oldest Source.h2d).getD {  }; Starts s src 259 c ∧ (c.p 1 % 10 ≠ 0 ∨ c.p 1 < 650 ∨ 900 < c.p 1)) ∧
    (let s : State := State.reset; let src : Source := .h2d; let op : ℕ := 0; (∀ (c : Cmd), s.oldest src = some c → c.opcode ≠ op ∨ s.mayStart src op = false))) ∧
    ((let s : State := withHost State.reset { running := [(.h2d, { silent := true })] }; let e : Source × Cmd := (.h2d, { silent := true }); e ∈ s.host.running ∧ e.2.silent = true) ∧
    (let s : State := told State.reset 0x0100 []; let op : ℕ := 0x0100; let body : State → Cmd → State × Answer := fun s _ => refuse s .badParam; let src : Source := .h2d; let c : Cmd := (s.oldest Source.h2d).getD {  }; s.oldest src = some c ∧ c.opcode = op ∧ op ≠ 2305 ∧ s.mayStart src op = true ∧ (body (s.dropOldest src) c).2.fails = true) ∧
    (let s : State := withHost State.reset { waiting := [(.h2d, { opcode := 0x0100, bulkLen := 8, bulkEnd := .awaiting })] }; let op : ℕ := 0x0100; let body : State → Cmd → State × Answer := fun s _ => doneWith s; let src : Source := .h2d; let c : Cmd := (s.oldest Source.h2d).getD {  }; s.oldest src = some c ∧ c.opcode = op ∧ op ≠ 2305 ∧ s.mayStart src op = true ∧ (body (s.dropOldest src) c).2.fails = false ∧ c.bulkEnd = BulkEnd.awaiting)) ∧
    ((let s : State := withHost State.reset { waiting := [(.h2d, { opcode := 0x0100, bulkLen := 8, bulkEnd := .truncated })] }; let op : ℕ := 0x0100; let body : State → Cmd → State × Answer := fun s _ => doneWith s; let src : Source := .h2d; let c : Cmd := (s.oldest Source.h2d).getD {  }; s.oldest src = some c ∧ c.opcode = op ∧ op ≠ 2305 ∧ s.mayStart src op = true ∧ (body (s.dropOldest src) c).2.fails = false ∧ op ∉ bulkOps ∧ c.bulkEnd = BulkEnd.truncated) ∧
    (let s : State := withHost State.reset { waiting := [(.h2d, { opcode := 0x0100, bulkLen := 8, bulkEnd := .timedOut })] }; let op : ℕ := 0x0100; let body : State → Cmd → State × Answer := fun s _ => doneWith s; let src : Source := .h2d; let c : Cmd := (s.oldest Source.h2d).getD {  }; s.oldest src = some c ∧ c.opcode = op ∧ op ≠ 2305 ∧ s.mayStart src op = true ∧ (body (s.dropOldest src) c).2.fails = false ∧ op ∉ bulkOps ∧ c.bulkEnd = BulkEnd.timedOut)) :=
  ⟨by unfold Starts Live; decide +kernel,
   by unfold Starts Live; decide +kernel,
   by decide +kernel,
   by decide +kernel⟩

theorem test_witness_CameraCommands :
    ((let s : State := told wWiped 0x0201 camOn; let src : Source := .h2d; let c : Cmd := (s.oldest Source.h2d).getD {  }; Starts s src 513 c ∧ c.target < 17 ∧ (s.dropOldest src).camEnableOk c = true ∧ s.on F.CAM_CTRL_EN c.target = false ∧ ((s.dropOldest src).clashes { owner := ownPortBeam + c.target, base := (camRegions c).1, len := (camRegions c).2.1 } fun o => isPortOwner o && o != ownPortBeam + c.target && o != ownPortSpill + c.target) = false ∧ ((s.dropOldest src).clashes { owner := ownPortSpill + c.target, base := (camRegions c).2.2.1, len := (camRegions c).2.2.2 } fun o => isPortOwner o && o != ownPortBeam + c.target && o != ownPortSpill + c.target) = false) ∧
    (let s : State := told State.reset 0x0201 [0x2A, 0, 2, 0, 0, 0x21, 1, 0]; let src : Source := .h2d; let c : Cmd := (s.oldest Source.h2d).getD {  }; Starts s src 513 c ∧ (s.dropOldest src).camEnableOk c = false) ∧
    (let s : State := told wCam 0x0201 camOn; let src : Source := .h2d; let c : Cmd := (s.oldest Source.h2d).getD {  }; Starts s src 513 c ∧ (s.dropOldest src).camEnableOk c = true ∧ s.on F.CAM_CTRL_EN c.target = true)) ∧
    ((let s : State := told wCam 0x0201 camOn 1; let src : Source := .h2d; let c : Cmd := (s.oldest Source.h2d).getD {  }; Starts s src 513 c ∧ (s.dropOldest src).camEnableOk c = true ∧ s.on F.CAM_CTRL_EN c.target = false ∧ ((s.dropOldest src).clashes { owner := ownPortBeam + c.target, base := (camRegions c).1, len := (camRegions c).2.1 } fun o => isPortOwner o && o != ownPortBeam + c.target && o != ownPortSpill + c.target) = true) ∧
    (let s : State := told State.reset 0x0202 []; let src : Source := .h2d; let c : Cmd := (s.oldest Source.h2d).getD {  }; Starts s src 514 c ∧ s.on F.CAM_CTRL_EN c.target = false) ∧
    (let s : State := told wCam 0x0202 []; let src : Source := .h2d; let c : Cmd := (s.oldest Source.h2d).getD {  }; Starts s src 514 c ∧ s.on F.CAM_CTRL_EN c.target = true ∧ (s.named c.target = true ∨ (s.cam c.target).held ≠ [] ∨ (s.cam c.target).outs ≠ []))) ∧
    ((let s : State := told (wCam.put F.BOB_RULE_CTRL_EN 0) 0x0202 []; let src : Source := .h2d; let c : Cmd := (s.oldest Source.h2d).getD {  }; Starts s src 514 c ∧ c.target < 17 ∧ s.on F.CAM_CTRL_EN c.target = true ∧ s.named c.target = false ∧ (s.cam c.target).held = [] ∧ (s.cam c.target).outs = []) ∧
    (let s : State := told wCam 0x0203 [0x11F, 0xFFFFFF, 0]; let src : Source := .h2d; let c : Cmd := (s.oldest Source.h2d).getD {  }; Starts s src 515 c ∧ c.target < 17 ∧ camTriggerOk c = true ∧ c.p 2 % 2 ^ 24 ≠ 0 ∧ bitAt (c.p 1) 8 = true ∧ s.heldByOther (13 + c.p 1 % 32) ownCamera c.target = false) ∧
    (let s : State := told wCam 0x0203 [0, 0xFFFFF, 200]; let src : Source := .h2d; let c : Cmd := (s.oldest Source.h2d).getD {  }; Starts s src 515 c ∧ c.target < 17 ∧ camTriggerOk c = true ∧ c.p 2 % 2 ^ 24 ≠ 0 ∧ bitAt (c.p 1) 8 = false ∧ s.splits = [] ∧ s.heldByOther (5 + c.p 1 % 32) ownLineTrigger c.target = false)) ∧
    ((let s : State := told wCam 0x0203 [31, 5, 0]; let src : Source := .h2d; let c : Cmd := (s.oldest Source.h2d).getD {  }; Starts s src 515 c ∧ camTriggerOk c = false) ∧
    (let s : State := told (wCam.own 44 ownSnapshot 0) 0x0203 [0x11F, 0xFFFFFF, 0]; let src : Source := .h2d; let c : Cmd := (s.oldest Source.h2d).getD {  }; Starts s src 515 c ∧ camTriggerOk c = true ∧ c.p 2 % 2 ^ 24 ≠ 0 ∧ bitAt (c.p 1) 8 = true ∧ s.heldByOther (13 + c.p 1 % 32) ownCamera c.target = true) ∧
    (let s : State := told wCam 0x0203 [0x11F, 0, 0]; let src : Source := .h2d; let c : Cmd := (s.oldest Source.h2d).getD {  }; Starts s src 515 c ∧ camTriggerOk c = true ∧ c.p 2 % 2 ^ 24 = 0)) ∧
    ((let s : State := State.reset; Live s) ∧
    (let s : State := State.reset; DieUp s)) :=
  ⟨by unfold Starts Live; decide +kernel,
   by unfold Starts Live; decide +kernel,
   by unfold Starts Live; decide +kernel,
   by unfold Starts Live; decide +kernel,
   by unfold DieUp Live; decide +kernel⟩

theorem test_witness_CameraBlocks :
    ((let s : State := State.reset; let p : Fin 17 := 0; let vc : Fin 16 := 0; Live s ∧ s.onStream ↑p ↑vc = true ∧ s.on F.CAM_CTRL_EN ↑p = false) ∧
    (let s : State := wCam; let vc : Fin 16 := 1; let p : Fin 17 := 0; Live s ∧ s.onStream ↑p ↑vc = false) ∧
    (let s : State := wCam.setCam 0 { first := false, prev := some (100, 65536, 2) }; let p : Fin 17 := 0; let vc : Fin 16 := 0; Live s ∧ s.onStream ↑p ↑vc = true ∧ (s.cam ↑p).blk = none)) ∧
    ((let s : State := wCam.setCam 0 { first := false, prev := some (100, 65536, 2) }; let p : ℕ := 0; let raw : ℤ := 102; let base : ℤ := 100; let pitch : ℕ := 65536; let n : ℕ := 2; let tol : ℤ := ↑(s.get F.CAM_GAP_TOL_TOL p p); (s.cam p).first = false ∧ (s.cam p).standing = none ∧ (s.cam p).prev = some (base, pitch, n) ∧ base + ↑n * ↑pitch / 65536 - tol ≤ raw ∧ raw ≤ base + ↑n * ↑pitch / 65536 + tol) ∧
    (let s : State := wCam.setCam 0 { first := false, prev := some (100, 65536, 2) }; let p : ℕ := 0; let raw : ℤ := 5000; let base : ℤ := 100; let pitch : ℕ := 65536; let n : ℕ := 2; let tol : ℤ := ↑(s.get F.CAM_GAP_TOL_TOL p p); (s.cam p).first = false ∧ (s.cam p).standing = none ∧ (s.cam p).prev = some (base, pitch, n) ∧ base + ↑n * ↑pitch / 65536 + tol < raw) ∧
    (let s : State := wCam.setCam 0 { first := false, prev := some (100, 65536, 2) }; let p : ℕ := 0; let raw : ℤ := -5000; let base : ℤ := 100; let pitch : ℕ := 65536; let n : ℕ := 2; let tol : ℤ := ↑(s.get F.CAM_GAP_TOL_TOL p p); (s.cam p).first = false ∧ (s.cam p).standing = none ∧ (s.cam p).prev = some (base, pitch, n) ∧ raw < base + ↑n * ↑pitch / 65536 - tol)) ∧
    ((let s : State := wCam.setCam 0 { blk := some block0 }; let b : Block := block0; let p : Fin 17 := 0; let vc : Fin 16 := 0; Live s ∧ s.onStream ↑p ↑vc = true ∧ (s.cam ↑p).blk = some b ∧ s.storing ↑p = true ∧ b.port = ↑p ∧ b.pipe = none) ∧
    (let s : State := wCam.setCam 0 { holes := [(-99999, -99990), (5, 6)] }; let f : ℤ := 0; let p : Fin 17 := 0; Live s ∧ s.retainFloor ↑p = some f)) :=
  ⟨by unfold Live; decide +kernel,
   by decide +kernel,
   by unfold Live; decide +kernel⟩

theorem test_witness_CameraBlocks_a :
    let s : State := wCam; let k : ℤ := 0; let p : Fin 17 := 0; let vc : Fin 16 := 0; (∀ (q : ℕ), (s.pipe q).inq = []) ∧ Live s ∧ s.onStream ↑p ↑vc = true ∧ s.on F.CAM_CTRL_EN ↑p = true ∧ s.storing ↑p = true ∧ (s.cam ↑p).blk = none ∧ (s.cam ↑p).first = true ∧ (s.cam ↑p).standing = none ∧ s.count? (s.get F.CAM_CTRL_ENC ↑p) = some k :=
  ⟨fun _ => rfl, by unfold Live; decide +kernel⟩

theorem test_witness_CameraLines :
    ((let s : State := wCam; let k : CamPacket := raw 0x2A 2 true; let p : Fin 17 := 0; Live s ∧ ↑p ≠ 16 ∧ 2 ≤ k.header ∧ (s.cam ↑p).blk = none) ∧
    (let s : State := wCam; let k : CamPacket := raw 0x2B 0 true; let p : Fin 17 := 0; let pk : CamPacket := if ↑p = 16 then wCam.pinPacket k else k; Live s ∧ pk.header < 2 ∧ s.streamPacket (↑p) pk = false) ∧
    (let s : State := State.reset; let p : Fin 17 := 0; let k : CamPacket := raw 0x2A 0 true; let pk : CamPacket := if ↑p = 16 then State.reset.pinPacket k else k; Live s ∧ pk.header < 2 ∧ s.streamPacket (↑p) pk = true ∧ s.on F.CAM_CTRL_EN ↑p = false)) ∧
    ((let s : State := wCam.put F.CAM_CTRL_ARMED 0; let k : CamPacket := raw 0x2A 0 true; let p : Fin 17 := 0; let pk : CamPacket := if ↑p = 16 then s.pinPacket k else k; Live s ∧ pk.header < 2 ∧ s.streamPacket (↑p) pk = true ∧ s.on F.CAM_CTRL_EN ↑p = true ∧ s.storing ↑p = true ∧ (s.cam ↑p).blk = none ∧ (s.on F.CAM_CTRL_ARMED ↑p = false ∨ (s.cam ↑p).orphans = true)) ∧
    (let s : State := blocked wCam; let k : CamPacket := raw 0x2A 0 true; let b : Block := block0; let slot : ℕ := 0; let addr : ℕ := 0x2100000000; let p : Fin 17 := 0; let pk : CamPacket := if ↑p = 16 then s.pinPacket k else k; Live s ∧ pk.header < 2 ∧ pk.crcOk = true ∧ pk.room = true ∧ s.streamPacket (↑p) pk = true ∧ s.on F.CAM_CTRL_EN ↑p = true ∧ s.storing ↑p = true ∧ (s.cam ↑p).blk = some b ∧ b.port = ↑p ∧ b.pipe = none ∧ b.count < b.len ∧ (s.cam ↑p).behind = none ∧ s.lineSlot ↑p = some (slot, addr)) ∧
    (let len : ℕ := 64; let d : List Byte := [1, 2]; let i : ℕ := 1; i < len ∧ i < d.length)) ∧
    ((let len : ℕ := 64; let d : List Byte := [1, 2]; let i : ℕ := 2; i < len ∧ d.length ≤ i) ∧
    (let s : State := blocked wCam; let k : CamPacket := raw 0x2A 0 false; let b : Block := block0; let p : Fin 17 := 0; let pk : CamPacket := if ↑p = 16 then s.pinPacket k else k; Live s ∧ pk.header < 2 ∧ s.streamPacket (↑p) pk = true ∧ s.on F.CAM_CTRL_EN ↑p = true ∧ s.storing ↑p = true ∧ (s.cam ↑p).blk = some b ∧ b.port = ↑p ∧ b.count < b.len ∧ (s.cam ↑p).behind = none ∧ pk.room = false) ∧
    (let s : State := wCam.setCam 0 { held := [line0] }; let l : Line := line0; let p : Fin 17 := 0; Live s ∧ l ∈ (s.cam ↑p).held)) :=
  ⟨by unfold Live; decide +kernel,
   by unfold Live; decide +kernel,
   by unfold Live; decide +kernel⟩

theorem test_witness_PipeCommands :
    ((let s : State := told wCam 0x0204 [32, 0, 0, 0, 0, 0]; let src : Source := .h2d; let c : Cmd := (s.oldest Source.h2d).getD {  }; Starts s src 516 c ∧ (pipeConfigOk c = false ∨ (s.dropOldest src).storeOk c.target = false)) ∧
    (let s : State := told (wCam.put F.PIPE_CTRL_INLINE 0 1) 0x0204 [0, 0, 0, 0, 0, 0]; let src : Source := .h2d; let c : Cmd := (s.oldest Source.h2d).getD {  }; let p : ℕ := 0; let q : ℕ := (s.servedBy p).getD p; Starts s src 516 c ∧ pipeConfigOk c = true ∧ (s.dropOldest src).storeOk c.target = true ∧ p < 17 ∧ (c.p 1 = p ∨ bitAt (c.p 2) p = true) ∧ s.servedBy p = some q ∧ q ≠ c.target) ∧
    (let s : State := told State.reset 0x0205 [3, 0]; let key : ℕ := 48; let src : Source := .h2d; let c : Cmd := (s.oldest Source.h2d).getD {  }; Starts s src 517 c ∧ (c.p 1 % 4 = 3 → c.p 2 % 32 < 4 ∧ key = 48 + c.p 2 % 32) ∧ (c.p 1 % 4 ≠ 3 → c.p 2 % 32 < 17 ∧ s.servedBy (c.p 2 % 32) = some c.target ∧ key = 16 * (c.p 1 % 4) + s.pipePos c.target (c.p 2 % 32)) ∧ (tableOf (c.p 1 % 4) c.bulk).2 = false)) ∧
    ((let s : State := told State.reset 0x0205 [4, 0]; let src : Source := .h2d; let c : Cmd := (s.oldest Source.h2d).getD {  }; Live s ∧ s.oldest src = some c ∧ c.opcode = 517 ∧ s.mayStart src 517 = true ∧ (c.p 1 % 4 = 3 ∧ 4 ≤ c.p 2 % 32 ∨ c.p 1 % 4 < 3 ∧ (17 ≤ c.p 2 % 32 ∨ s.servedBy (c.p 2 % 32) ≠ some c.target))) ∧
    (let s : State := withHost State.reset { waiting := [(.h2d, { opcode := 0x0205, params := [3, 0], bulkLen := 8, bulkEnd := .truncated })] }; let src : Source := .h2d; let c : Cmd := (s.oldest Source.h2d).getD {  }; Live s ∧ s.oldest src = some c ∧ c.opcode = 517 ∧ s.mayStart src 517 = true ∧ c.p 1 % 4 = 3 ∧ c.p 2 % 32 < 4 ∧ c.bulkEnd = BulkEnd.truncated) ∧
    (let s : State := told State.reset 0x0207 [0x1040, 0xFFFF]; let src : Source := .h2d; let c : Cmd := (s.oldest Source.h2d).getD {  }; Starts s src 519 c ∧ 1 ≤ c.p 1 % 128 ∧ c.p 1 % 128 ≤ 64 ∧ 1 ≤ c.p 1 / 256 % 32 ∧ c.p 1 / 256 % 32 ≤ 16)) ∧
    ((let s : State := told State.reset 0x0207 [0, 0]; let src : Source := .h2d; let c : Cmd := (s.oldest Source.h2d).getD {  }; Starts s src 519 c ∧ (c.p 1 % 128 = 0 ∨ 64 < c.p 1 % 128 ∨ c.p 1 / 256 % 32 = 0 ∨ 16 < c.p 1 / 256 % 32)) ∧
    (let s : State := told State.reset 0x0206 [4, 0x10001, 16, 0]; let src : Source := .h2d; let c : Cmd := (s.oldest Source.h2d).getD {  }; Starts s src 518 c ∧ c.target < 4 ∧ (s.dropOldest src).tapOk c = true) ∧
    (let s : State := told State.reset 0x0206 [0, 0, 16, 0]; let src : Source := .h2d; let c : Cmd := (s.oldest Source.h2d).getD {  }; Starts s src 518 c ∧ (s.dropOldest src).tapOk c = false)) :=
  ⟨by unfold Starts Live; decide +kernel,
   by unfold Starts Live; decide +kernel,
   by unfold Starts Live; decide +kernel⟩

theorem test_witness_PipeCommands_a :
    let s : State := told wCam 0x0204 [0, 0x1FC00, 0, 0, 0, 0]; let src : Source := .h2d; let c : Cmd := (s.oldest Source.h2d).getD {  }; (∀ (p q : ℕ), p < 17 → s.servedBy p = some q → q = c.target) ∧ Starts s src 516 c ∧ c.target < 4 ∧ pipeConfigOk c = true ∧ (s.dropOldest src).storeOk c.target = true ∧ (s.outLines c.target = [] ∨ (s.pipe c.target).store = some (s.storeRegs c.target)) :=
  ⟨served_here _ _ (by decide +kernel), by unfold Starts Live; decide +kernel⟩

theorem test_witness_PipeCommands_b :
    let s : State := withHost (wCam.put F.PIPE_CTRL_INLINE 0) { waiting := [(.h2d, lensTable)] }; let c : Cmd := lensTable; let key : ℕ := 16 * 2 + State.pipePos (wCam.put F.PIPE_CTRL_INLINE 0) 0 0; let src : Source := .h2d; Starts s src 517 c ∧ (c.p 1 % 4 = 3 → c.p 2 % 32 < 4 ∧ key = 48 + c.p 2 % 32) ∧ (c.p 1 % 4 ≠ 3 → c.p 2 % 32 < 17 ∧ s.servedBy (c.p 2 % 32) = some c.target ∧ key = 16 * (c.p 1 % 4) + s.pipePos c.target (c.p 2 % 32)) ∧ (tableOf (c.p 1 % 4) c.bulk).2 = true :=
  ⟨by unfold Starts Live; exact ⟨by decide +kernel, rfl, by decide +kernel, by decide +kernel⟩, by decide +kernel⟩

theorem test_witness_PipeBlocks :
    ((let s : State := State.reset.setPipe 0 { queue := [blockAt 0 5, blockAt 3 4, blockAt 2 4] }; let b : Block := blockAt 0 5; let bs : List Block := [blockAt 3 4, blockAt 2 4]; let q : Fin 4 := 0; Live s ∧ (s.pipe ↑q).work = none ∧ (s.pipe ↑q).queue = b :: bs) ∧
    (let s : State := State.reset.setPipe 0 { work := some (piped []) }; let b : Block := piped []; let q : Fin 4 := 0; Live s ∧ (s.pipe ↑q).work = some b) ∧
    (let s : State := State.reset; let q : Fin 4 := 0; Live s ∧ (s.pipe ↑q).work = none)) ∧
    ((let s : State := (wCam.setPipe 0 { work := some (piped [(0, 0)]) }).setCam 0 { held := [line0] }; let b : Block := piped [(0, 0)]; let e : ℕ × ℕ := (0, 0); let l : Line := line0; let q : Fin 4 := 0; Live s ∧ (s.pipe ↑q).work = some b ∧ b.lines = [e] ∧ List.find? (fun x => x.uid == e.2) (s.cam b.port).held = some l) ∧
    (let s : State := wCam.setPipe 0 { inq := [.line 0 0 (List.replicate 16 (some 1))], inline := some { blk := piped [] } }; let k : ℕ := 0; let d : Data := List.replicate 16 (some 1); let w : PipeWork := { blk := piped [] }; let q : Fin 4 := 0; let uid : ℕ := 0; let es : List InEvent := []; Live s ∧ (s.pipe ↑q).inq = InEvent.line k uid d :: es ∧ (s.pipe ↑q).inline = some w) ∧
    (let s : State := wCam; let w : PipeWork := { blk := piped [] }; w.blk.cfg.slotSize < packedLen w.blk.cfg.fmt (s.portWidth w.blk.port))) :=
  ⟨by unfold Live; decide +kernel,
   by unfold Live; decide +kernel⟩

theorem test_witness_RuleCommands :
    ((let s : State := told State.reset 0x0301 [0x12]; let src : Source := .h2d; let c : Cmd := (s.oldest Source.h2d).getD {  }; Starts s src 769 c ∧ hasReserved (c.p 1) = false) ∧
    (let s : State := told State.reset 0x0301 [0x1C]; let i : ℕ := 1; let src : Source := .h2d; let c : Cmd := (s.oldest Source.h2d).getD {  }; i < 16 ∧ c.p 1 / 2 ^ (2 * i) % 4 = 3 ∧ Starts s src 769 c) ∧
    (let s : State := told State.reset 0x0305 [0xC0000000]; let i : ℕ := 15; let src : Source := .h2d; let c : Cmd := (s.oldest Source.h2d).getD {  }; i < 16 ∧ c.p 1 / 2 ^ (2 * i) % 4 = 3 ∧ Starts s src 773 c)) ∧
    ((let s : State := told State.reset 0x0305 [0x12] 2; let src : Source := .h2d; let c : Cmd := (s.oldest Source.h2d).getD {  }; Starts s src 773 c ∧ hasReserved (c.p 1) = false) ∧
    (let s : State := told State.reset 0x0302 [3, 100, 0x100, 500, 400, 0] 3; let src : Source := .h2d; let c : Cmd := (s.oldest Source.h2d).getD {  }; Starts s src 770 c ∧ finderOk c = false) ∧
    (let s : State := told State.reset 0x0302 [2, 100, 0x100, 500, 400, 0] 3; let src : Source := .h2d; let c : Cmd := (s.oldest Source.h2d).getD {  }; Starts s src 770 c ∧ finderOk c = true ∧ (s.on F.BOB_RULE_CTRL_EN c.target = true ∨ (s.dropOldest src).laneCfg F.BOB_LANE_CFG_SET (c.p 6 % 16) = 0 ∨ (s.dropOldest src).feedsOk c = false))) ∧
    ((let s : State := told State.reset 0x0302 [2, 100, 0x100, 500, 400, 0] 3; let src : Source := .h2d; let c : Cmd := (s.oldest Source.h2d).getD {  }; Starts s src 770 c ∧ finderOk c = true ∧ s.on F.BOB_RULE_CTRL_EN c.target = false ∧ s.boot.provWritten = false) ∧
    (let s : State := told wFind 0x0302 [2, 100, 0x100, 500, 400, 0] 3; let src : Source := .h2d; let c : Cmd := (s.oldest Source.h2d).getD {  }; Starts s src 770 c ∧ c.target < 16 ∧ finderOk c = true ∧ s.on F.BOB_RULE_CTRL_EN c.target = false ∧ s.boot.provWritten = true ∧ (s.dropOldest src).laneCfg F.BOB_LANE_CFG_SET (c.p 6 % 16) ≠ 0 ∧ (s.dropOldest src).feedsOk c = true ∧ c.p 1 % 4 = 2) ∧
    (let s : State := told (wFind.put F.PIPE_CTRL_INLINE 0) 0x0302 [1, 0x10000, 0x100, 500, 400, 0] 3; let src : Source := .h2d; let c : Cmd := (s.oldest Source.h2d).getD {  }; Starts s src 770 c ∧ c.target < 16 ∧ finderOk c = true ∧ s.on F.BOB_RULE_CTRL_EN c.target = false ∧ s.boot.provWritten = true ∧ (s.dropOldest src).laneCfg F.BOB_LANE_CFG_SET (c.p 6 % 16) ≠ 0 ∧ (s.dropOldest src).feedsOk c = true ∧ c.p 1 % 4 = 1)) ∧
    ((let s : State := told (wFind.own 1 ownNone 0) 0x0302 [0, 1, 0x100, 500, 400, 0] 3; let src : Source := .h2d; let c : Cmd := (s.oldest Source.h2d).getD {  }; Starts s src 770 c ∧ c.target < 16 ∧ finderOk c = true ∧ s.on F.BOB_RULE_CTRL_EN c.target = false ∧ s.boot.provWritten = true ∧ (s.dropOldest src).laneCfg F.BOB_LANE_CFG_SET (c.p 6 % 16) ≠ 0 ∧ (s.dropOldest src).feedsOk c = true ∧ c.p 1 % 4 = 0 ∧ s.splits = [] ∧ s.heldByOther (c.p 2 % 4) ownProbe c.target = false) ∧
    (let s : State := told (wFind.own 1 ownProbe 4) 0x0302 [0, 1, 0x100, 500, 400, 0] 3; let src : Source := .h2d; let c : Cmd := (s.oldest Source.h2d).getD {  }; Starts s src 770 c ∧ c.target < 16 ∧ finderOk c = true ∧ s.on F.BOB_RULE_CTRL_EN c.target = false ∧ s.boot.provWritten = true ∧ (s.dropOldest src).laneCfg F.BOB_LANE_CFG_SET (c.p 6 % 16) ≠ 0 ∧ (s.dropOldest src).feedsOk c = true ∧ c.p 1 % 4 = 0 ∧ s.heldByOther (c.p 2 % 4) ownProbe c.target = true) ∧
    (let s : State := told State.reset 0x0303 [] 3; let src : Source := .h2d; let c : Cmd := (s.oldest Source.h2d).getD {  }; Starts s src 771 c ∧ s.on F.BOB_RULE_CTRL_EN c.target = false)) ∧
    ((let s : State := told (bobbed (wPitch 5) 8 (bobIn .arming)) 0x0303 [] 3; let src : Source := .h2d; let c : Cmd := (s.oldest Source.h2d).getD {  }; Starts s src 771 c ∧ s.on F.BOB_RULE_CTRL_EN c.target = true ∧ ∃ e ∈ s.bobs, e.2.rule = c.target ∧ e.2.state = BobState.arming) ∧
    (let s : State := told (bobbed (wPitch 5) 8 (bobIn .open)) 0x0303 [] 3; let src : Source := .h2d; let c : Cmd := (s.oldest Source.h2d).getD {  }; Starts s src 771 c ∧ c.target < 16 ∧ s.on F.BOB_RULE_CTRL_EN c.target = true ∧ (∀ e ∈ s.bobs, ¬(e.2.rule = c.target ∧ e.2.state = BobState.arming)))) :=
  ⟨by unfold Starts Live; decide +kernel,
   by unfold Starts Live; decide +kernel,
   by unfold Starts Live; decide +kernel,
   by unfold Starts Live; decide +kernel,
   by unfold Starts Live; decide +kernel⟩

theorem test_witness_LaneAndSampleCommands :
    ((let s : State := told State.reset 0x0304 [0x5, 1000, 0x10014, 20, 0x304] 2; let src : Source := .h2d; let c : Cmd := (s.oldest Source.h2d).getD {  }; Starts s src 772 c ∧ c.target < 16 ∧ laneOk c = true ∧ (s.dropOldest src).valvesTaken c = false ∧ (∀ i < 8, bitAt (c.p 1) i = true → s.heldByOther (5 + i) ownEjector c.target = false)) ∧
    (let s : State := told State.reset 0x0304 [0x105, 1000, 0x10014, 20, 0] 2; let src : Source := .h2d; let c : Cmd := (s.oldest Source.h2d).getD {  }; Starts s src 772 c ∧ (laneOk c = false ∨ (s.dropOldest src).valvesTaken c = true)) ∧
    (let s : State := told (State.reset.own 7 ownStop 0) 0x0304 [0x5, 1000, 0x10014, 20, 0x304] 2; let i : ℕ := 2; let src : Source := .h2d; let c : Cmd := (s.oldest Source.h2d).getD {  }; Starts s src 772 c ∧ laneOk c = true ∧ (s.dropOldest src).valvesTaken c = false ∧ i < 8 ∧ bitAt (c.p 1) i = true ∧ s.heldByOther (5 + i) ownEjector c.target = true)) ∧
    ((let s : State := told State.reset 0x0306 [8, 500, 65536]; let src : Source := .h2d; let c : Cmd := (s.oldest Source.h2d).getD {  }; Starts s src 774 c ∧ s.intake.samples = [] ∧ 1 ≤ c.p 1 ∧ c.p 1 ≤ 256 ∧ c.p 2 < 2 ^ 16 ∧ c.p 3 ≠ 0) ∧
    (let s : State := told (withIntake State.reset { samples := [ready0] }) 0x0306 [8, 500, 65536]; let src : Source := .h2d; let c : Cmd := (s.oldest Source.h2d).getD {  }; Starts s src 774 c ∧ s.intake.samples ≠ []) ∧
    (let s : State := told State.reset 0x0306 [0, 0, 65536]; let src : Source := .h2d; let c : Cmd := (s.oldest Source.h2d).getD {  }; Starts s src 774 c ∧ s.intake.samples = [] ∧ (c.p 1 = 0 ∨ 256 < c.p 1 ∨ 2 ^ 16 ≤ c.p 2 ∨ c.p 3 = 0))) ∧
    ((let s : State := told State.reset 0x0307 [4096]; let src : Source := .h2d; let c : Cmd := (s.oldest Source.h2d).getD {  }; Starts s src 775 c ∧ 4095 < c.p 1) ∧
    (let s : State := told (bobbed State.reset 8 (bobIn .open)) 0x0307 [8]; let src : Source := .h2d; let c : Cmd := (s.oldest Source.h2d).getD {  }; Starts s src 775 c ∧ c.p 1 ≤ 4095)) :=
  ⟨by unfold Starts Live; decide +kernel,
   by unfold Starts Live; decide +kernel,
   by unfold Starts Live; decide +kernel⟩

theorem test_witness_Parts :
    ((let s : State := (wPitch 5).setMirror 0 { count := 6 }; let r : Fin 16 := 3; let m : ℤ := (s.rule ↑r).next.getD 0; let k : ℤ := (s.count? (s.get F.BOB_RULE_CTRL_ENC ↑r)).getD 0; Live s ∧ s.on F.BOB_RULE_CTRL_EN ↑r = true ∧ s.get F.BOB_RULE_CTRL_SOURCE ↑r = 2 ∧ (s.rule ↑r).next = some m ∧ s.count? (s.get F.BOB_RULE_CTRL_ENC ↑r) = some k ∧ m ≤ k) ∧
    (let s : State := (wPitch 5).setMirror 0 { count := 4 }; let r : Fin 16 := 3; let m : ℤ := (s.rule ↑r).next.getD 0; let k : ℤ := (s.count? (s.get F.BOB_RULE_CTRL_ENC ↑r)).getD 0; Live s ∧ (s.rule ↑r).next = some m ∧ s.count? (s.get F.BOB_RULE_CTRL_ENC ↑r) = some k ∧ k < m) ∧
    (let s : State := (wPitch 5).putBit F.FIELD_LINK_STAT_SAFE true; s.role ≠ 2 ∧ (s.isSplit = true ∨ s.on F.FIELD_LINK_STAT_UP = false ∨ s.on F.FIELD_LINK_STAT_SAFE = true ∨ s.on F.FIELD_LINK_STAT_COUNT_VALID = false ∨ s.nextBob = none ∨ s.freeEntryNo = none))) ∧
    ((let s : State := State.reset; let id : ℕ := State.reset.nextBob.getD 0; s.nextBob = some id) ∧
    (let s : State := (bobbed (wPitch 5) 8 (bobIn .armedFinal)).put F.BOB_AGE_LIMIT_MS 10; let b : Fin 4096 := 8; Live s ∧ tsorted s.bobs = true ∧ s.get F.BOB_AGE_LIMIT_MS ≠ 0 ∧ (s.bob ↑b).state = BobState.armedFinal ∧ s.ejectWaits ↑b = false) ∧
    (let s : State := (bobbed (wPitch 5) 8 (bobIn .armedFinal)).put F.BOB_AGE_LIMIT_MS 10; let b : Fin 4096 := 0; Live s ∧ (s.get F.BOB_AGE_LIMIT_MS = 0 ∨ (s.bob ↑b).state ≠ BobState.armedFinal ∨ s.ejectWaits ↑b = true))) ∧
    ((let s : State := (wPitch 5); Live s) ∧
    (let s : State := (wPitch 5); let id : ℕ := s.nextBob.getD 0; let e : ℕ := s.freeEntryNo.getD 0; s.role ≠ 2 ∧ s.isSplit = false ∧ s.on F.FIELD_LINK_STAT_UP = true ∧ s.on F.FIELD_LINK_STAT_SAFE = false ∧ s.on F.FIELD_LINK_STAT_COUNT_VALID = true ∧ s.nextBob = some id ∧ s.freeEntryNo = some e)) :=
  ⟨by unfold Live; decide +kernel,
   by unfold Live; decide +kernel,
   by unfold Live; decide +kernel⟩

theorem test_witness_SampleIntake :
    ((let s : State := wSample; let x : RxPacket := rx [1, 2, 3]; let v : Fin 4 := 0; Live s ∧ s.host.csiReady = true ∧ x.header < 2 ∧ x.listed = true ∧ x.crcOk = true ∧ x.vc = ↑v ∧ tget? s.intake.opened ↑v = none ∧ tget? s.intake.headers ↑v = none ∧ x.payload.length < 48) ∧
    (let s : State := withIntake wSample { headers := [(0, (0, [1, 2]))] }; let x : RxPacket := rx [1, 2, 3]; let n : ℕ := 0; let bs : List Byte := [1, 2]; let v : Fin 4 := 0; Live s ∧ s.host.csiReady = true ∧ x.header < 2 ∧ x.listed = true ∧ x.crcOk = true ∧ x.vc = ↑v ∧ tget? s.intake.opened ↑v = none ∧ tget? s.intake.headers ↑v = some (n, bs) ∧ bs.length + x.payload.length < 48) ∧
    (let s : State := wSample; let x : RxPacket := rx (sampleBytes (crcWords sampleHead)); let u : State := if x.header = 1 then wSample.bump F.HOST_RX_CNT_ECC_CORR else wSample; let ws : List Word := bytesWords x.payload; let v : Fin 4 := 0; Live s ∧ s.host.csiReady = true ∧ x.header < 2 ∧ x.listed = true ∧ x.crcOk = true ∧ x.vc = ↑v ∧ tget? s.intake.opened ↑v = none ∧ s.intake.headers = [] ∧ x.payload.length = 48 ∧ (∀ y ∈ s.intake.samples, y.seq ≠ none ∧ y.place < s.intake.nextPlace) ∧ (∀ (y : Sample), s.numbered s.intake.nextOut = some y → y.status = none) ∧ crcWords (List.take 11 ws) = ws.getD 11 0 ∧ s.get F.SAMPLE_CREDITS_AVAIL ≠ 0 ∧ u.sampleRefusal { place := s.intake.nextPlace, vc := ↑v, header := ws, grey := greyJpeg s.intake.nextPlace ws [] } = (none, false))) ∧
    ((let s : State := wSample; let x : RxPacket := rx (sampleBytes 0); let ws : List Word := bytesWords x.payload; let v : Fin 4 := 0; Live s ∧ s.host.csiReady = true ∧ x.header < 2 ∧ x.listed = true ∧ x.crcOk = true ∧ x.vc = ↑v ∧ tget? s.intake.opened ↑v = none ∧ s.intake.headers = [] ∧ x.payload.length = 48 ∧ (∀ y ∈ s.intake.samples, y.seq ≠ none ∧ y.place < s.intake.nextPlace) ∧ (∀ (y : Sample), s.numbered s.intake.nextOut = some y → y.status = none) ∧ crcWords (List.take 11 ws) ≠ ws.getD 11 0) ∧
    (let s : State := withIntake wSample { samples := [jpeg0 .stream] }; let n : ℕ := 3; let x : Sample := jpeg0 .stream; Live s ∧ s.numbered n = some x ∧ x.jpeg = true ∧ x.decoder.isSome = true ∧ x.stage = SampleStage.stream ∧ x.stream ≠ []) ∧
    (let s : State := (withIntake wSample { samples := [jpeg0 .decoding] }).put F.SAMPLE_DECODE_LIMIT_US 5; let n : ℕ := 3; let x : Sample := jpeg0 .decoding; Live s ∧ s.numbered n = some x ∧ x.stage = SampleStage.decoding ∧ (List.map (fun y => y.place) s.intake.samples).Nodup)) ∧
    ((let s : State := (withIntake wSample { samples := [jpeg0 .decoding] }).put F.SAMPLE_DECODE_LIMIT_US 5; let n : ℕ := 3; let x : Sample := jpeg0 .decoding; Live s ∧ s.numbered n = some x ∧ s.get F.SAMPLE_DECODE_LIMIT_US ≠ 0 ∧ x.stage = SampleStage.decoding) ∧
    (let s : State := State.reset.put F.SAMPLE_DECODE_LIMIT_US 0; Live s ∧ s.get F.SAMPLE_DECODE_LIMIT_US = 0) ∧
    (let s : State := withIntake wSample { samples := [ready0] }; let x : Sample := ready0; let id : ℕ := s.freeSampleBob.getD 0; Live s ∧ List.find? (fun x => x.stage == SampleStage.ready) s.intake.samples = some x ∧ s.freeSampleBob = some id ∧ s.sample? x.place = some x)) ∧
    ((let s : State := bobbed (withIntake wSample { samples := [ready0] }) 0xF00 (bobIn .open); let x : Sample := ready0; let j : ℕ := 0xF00; let id : ℕ := s.freeSampleBob.getD 0; Live s ∧ List.find? (fun x => x.stage == SampleStage.ready) s.intake.samples = some x ∧ s.freeSampleBob = some id ∧ s.sample? x.place = some x ∧ 3840 ≤ j ∧ j < id) ∧
    (let s : State := withIntake State.reset { samples := [ready0] }; let x : Sample := ready0; let id : ℕ := s.freeSampleBob.getD 0; Live s ∧ List.find? (fun x => x.stage == SampleStage.ready) s.intake.samples = some x ∧ s.freeSampleBob = some id ∧ s.sample? x.place = some x ∧ (x.cropW ≠ (s.info x.part).width ∨ (s.info x.part).tMax < tokensOf x.cropH (s.info x.part).tokenR)) ∧
    (let s : State := withIntake wSample { samples := [ready0] }; let x : Sample := (List.find? (fun x => x.stage == SampleStage.ready) s.intake.samples).getD ready0; let id : ℕ := s.freeSampleBob.getD 0; Live s ∧ List.find? (fun x => x.stage == SampleStage.ready) s.intake.samples = some x ∧ s.freeSampleBob = some id ∧ s.sample? x.place = some x ∧ x.cropW = (s.info x.part).width ∧ tokensOf x.cropH (s.info x.part).tokenR ≤ (s.info x.part).tMax)) :=
  ⟨by unfold Live; decide +kernel,
   by unfold Live; decide +kernel,
   by unfold Live; decide +kernel,
   by unfold Live; decide +kernel⟩

theorem test_witness_FieldDieMessages :
    ((let s : State := wMsg {  } (.entryA 4 8 3 0 2 false); let e : ℕ := 4; let b : ℕ := 8; let mask : ℕ := 3; let enc : ℕ := 0; let prov : ℕ := 2; let us : Bool := false; DieTakes s (Msg.entryA e b mask enc prov us)) ∧
    (let s : State := wMsg { loading := 4, table := [(4, { phase := .partA })] } (.entryB 77); let low : ℕ := 77; DieTakes s (Msg.entryB low) ∧ (s.entry s.die.loading).phase = EntryPhase.partA) ∧
    (let s : State := wMsg { safe := false, loading := 4, table := [(4, { phase := .partB, low := 77, prov := 2 })] } (.entryC 0 10 5); let high : ℕ := 0; let lead : ℕ := 10; let width : ℕ := 5; DieTakes s (Msg.entryC high lead width) ∧ (s.entry s.die.loading).phase = EntryPhase.partB)) ∧
    ((let s : State := wMsg {  } (.cfg 5 9); let k : ℕ := 5; let v : ℕ := 9; DieTakes s (Msg.cfg k v) ∧ k ≠ clearIndex) ∧
    (let s : State := wMsg {  } (.cfg (cfgIndex R.FIELD_FI_CFG 3) 0); let k : ℕ := cfgIndex R.FIELD_FI_CFG 3; let v : ℕ := 0; DieTakes s (Msg.cfg k v) ∧ k ≠ clearIndex ∧ isInputCfg k = true ∧ (after s .fieldCfgMsg).undebounced 3 = true) ∧
    (let s : State := wMsg { loading := 4 } (.entryB 77); let low : ℕ := 77; DieTakes s (Msg.entryB low) ∧ (s.entry s.die.loading).phase ≠ EntryPhase.partA) ∧
    (let s : State := wMsg { loading := 4 } (.entryC 0 10 5); let high : ℕ := 0; let lead : ℕ := 10; let width : ℕ := 5; DieTakes s (Msg.entryC high lead width) ∧ (s.entry s.die.loading).phase ≠ EntryPhase.partB)) ∧
    ((let s : State := wMsg {  } (.cfg clearIndex 0); let v : ℕ := 0; DieTakes s (Msg.cfg clearIndex v) ∧ bitAt v 0 = false) ∧
    (let i : Instr := .fieldEntryA; let s : State := State.reset; DieUp s ∧ s.dieMsg = none ∧ i ∈ [Instr.fieldEntryA, Instr.fieldEntryB, Instr.fieldEntryC, Instr.fieldCfgMsg, Instr.fieldTableClear, Instr.fieldStopClearMsg, Instr.fieldResyncMsg]) ∧
    (let s : State := wMsg (dieWith [(4, armed0)]) (.cfg clearIndex 1); let v : ℕ := 1; DieTakes s (Msg.cfg clearIndex v) ∧ bitAt v 0 = true)) ∧
    ((let s : State := wMsg { stop := true } .stopClear; DieTakes s Msg.stopClear) ∧
    (let s : State := wMsg {  } .resync; DieTakes s Msg.resync)) :=
  ⟨by unfold DieTakes DieUp; decide +kernel,
   by unfold DieTakes DieUp; decide +kernel,
   by unfold DieTakes DieUp; decide +kernel,
   by unfold DieTakes DieUp; decide +kernel⟩

theorem test_witness_EjectTable :
    ((let s : State := wEntry armed1; let e : Fin 256 := 4; DieUp s ∧ s.die.safe = false ∧ (s.entry ↑e).phase = EntryPhase.armed ∧ s.die.amendIn = [] ∧ (s.entry ↑e).closed = false ∧ (s.entry ↑e).close ≤ s.pos (s.entry ↑e).enc) ∧
    (let s : State := wEntry armed0; let e : Fin 256 := 4; DieUp s ∧ (s.pos (s.entry ↑e).enc < (s.entry ↑e).close ∨ (s.entry ↑e).closed = true ∨ s.die.safe = true)) ∧
    (let s : State := wEntry { armed1 with closed := true, final := 1 }; s.die.amendIn = [])) ∧
    ((let s : State := withDie State.reset { dieWith [(4, armed1)] with amendIn := [(4, 1)] }; let e : Fin 256 := 4; let a : ℕ := 1; DieUp s ∧ s.die.safe = false ∧ s.die.amendIn = [(↑e, a)] ∧ (s.entry ↑e).phase = EntryPhase.armed ∧ (s.entry ↑e).closed = false ∧ (s.entry ↑e).answered = false ∧ (s.entry ↑e).close ≤ s.pos (s.entry ↑e).enc) ∧
    (let s : State := wEntry { armed1 with closed := true, final := 1 }; let e : Fin 256 := 4; DieUp s ∧ s.die.safe = false ∧ (s.entry ↑e).phase = EntryPhase.armed ∧ (s.entry ↑e).closed = true ∧ (s.entry ↑e).eject ≤ s.pos (s.entry ↑e).enc) ∧
    (let s : State := wEntry armed0; let e : Fin 256 := 4; DieUp s ∧ ((s.entry ↑e).phase ≠ EntryPhase.armed ∨ (s.entry ↑e).closed = false ∨ s.pos (s.entry ↑e).enc < (s.entry ↑e).eject ∨ s.die.safe = true))) ∧
    ((let s : State := withDie State.reset { dieWith [(4, armed0)] with amendIn := [(4, 1)] }; let e : Fin 256 := 4; DieUp s ∧ (∀ p ∈ s.die.pulses, p.entry ≠ ↑e)) ∧
    (let s : State := withDie State.reset { safe := false, pulses := [{ entry := 4, mask := 1, enc := 0, unitUs := false, ends := 10 }] }; let e : Fin 256 := 4; let p : Pulse := { entry := 4, mask := 1, enc := 0, unitUs := false, ends := 10 }; DieUp s ∧ s.endingPulse ↑e = some p) ∧
    (let s : State := withDie State.reset { safe := false, pulses := [{ entry := 4, mask := 1, enc := 0, unitUs := true, ends := 10, limit := 90 }, { entry := 4, mask := 2, enc := 0, unitUs := true, ends := 10, limit := 40 }] }; let e : ℕ := 4; let q : Pulse := { entry := 4, mask := 1, enc := 0, unitUs := true, ends := 10, limit := 90 }; q ∈ s.die.pulses ∧ q.entry = e) ∧
    (let s : State := wEntry armed0; let e : Fin 256 := 4; DieUp s ∧ s.die.amendIn = [] ∧ ((s.entry ↑e).phase ≠ EntryPhase.armed ∨ s.dget F.FIELD_ENTRY_TMO_S = 0 ∧ (s.die.safe = true ∨ CountAhead s ↑e))) ∧
    (let s : State := wEntry { armed1 with closed := true, final := 1 }; let e : Fin 256 := 4; DieUp s ∧ s.die.amendIn = [] ∧ s.die.safe = false ∧ (s.entry ↑e).phase = EntryPhase.armed ∧ (s.entry ↑e).closed = true ∧ (s.entry ↑e).eject ≤ s.pos (s.entry ↑e).enc)) ∧
    ((let s : State := wCopy (dieWith [(4, armed0)]) R.FIELD_ENTRY_TMO 0 5; let e : Fin 256 := 4; DieUp s ∧ s.dget F.FIELD_ENTRY_TMO_S ≠ 0 ∧ (s.entry ↑e).phase = EntryPhase.armed ∧ s.die.amendIn = [] ∧ s.die.safe = false ∧ CountAhead s ↑e) ∧
    (let s : State := wCopy { dieWith [(4, armed0)] with safe := true } R.FIELD_ENTRY_TMO 0 5; let e : Fin 256 := 4; DieUp s ∧ s.dget F.FIELD_ENTRY_TMO_S ≠ 0 ∧ (s.entry ↑e).phase = EntryPhase.armed ∧ s.die.amendIn = [] ∧ s.die.safe = true) ∧
    (let s : State := withDie State.reset { dieWith [(4, armed0)] with amendIn := [(4, 1)] }; let e : Fin 256 := 4; DieUp s ∧ (s.entry ↑e).phase = EntryPhase.armed ∧ s.die.safe = false)) ∧
    ((let s : State := withDie State.reset { dieWith [(4, armed0)] with safe := true, amendIn := [(4, 1)] }; let e : Fin 256 := 4; DieUp s ∧ (s.entry ↑e).phase = EntryPhase.armed ∧ s.die.safe = true) ∧
    (let s : State := State.reset; let e : Fin 256 := 0; DieUp s ∧ (s.entry ↑e).phase ≠ EntryPhase.armed) ∧
    (let s : State := State.reset; DieUp s ∧ s.die.amendIn = [])) ∧
    ((let s : State := withDie State.reset { dieWith [(4, armed0)] with amendIn := [(4, 1)] }; let e : ℕ := 4; let a : ℕ := 1; let q : List (ℕ × ℕ) := []; DieUp s ∧ s.die.safe = false ∧ s.die.amendIn = (e, a) :: q ∧ (s.entry e).answered = false ∧ (s.entry e).phase = EntryPhase.armed) ∧
    (let s : State := withDie State.reset { dieWith [(4, armed0)] with safe := true, amendIn := [(4, 1)] }; let e : ℕ := 4; let a : ℕ := 1; let q : List (ℕ × ℕ) := []; DieUp s ∧ s.die.safe = true ∧ s.die.amendIn = (e, a) :: q) ∧
    (let s : State := State.reset; DieUp s ∧ (s.die.runs < 64 ∨ 2 ≤ s.die.cause ∨ s.die.safe = false))) ∧
    ((let s : State := withDie State.reset { dieWith [(4, armed1)] with safe := true, runs := 64, cause := 1 }; DieUp s ∧ s.die.safe = true ∧ 64 ≤ s.die.runs ∧ s.die.cause < 2 ∧ (∀ x ∈ s.die.table, x.2.flaw = none)) ∧
    (let s : State := withDie State.reset { dieWith [(4, { armed0 with phase := .held, flaw := some true })] with safe := true, runs := 64, cause := 1 }; let e : ℕ := 4; let x : Entry := { armed0 with phase := .held, flaw := some true }; DieUp s ∧ s.die.safe = true ∧ 64 ≤ s.die.runs ∧ s.die.cause < 2 ∧ s.die.table = [(e, x)] ∧ x.phase = .held ∧ x.flaw = some true ∧ s.pos x.enc < x.close ∧ s.pos x.enc < x.eject) ∧
    (let s : State := State.reset; let i : ℕ := 0; s.die.powered = true ∧ bitAt s.die.faults i = false)) :=
  ⟨by unfold DieUp; decide +kernel,
   by unfold DieUp; decide +kernel,
   by unfold CountAhead DieUp; decide +kernel,
   by unfold CountAhead DieUp; decide +kernel,
   by unfold DieUp; decide +kernel,
   by unfold DieUp; decide +kernel,
   by unfold DieUp; decide +kernel⟩

theorem test_witness_FieldDieInputs :
    ((let s : State := wEntry armed0; DieUp s) ∧
    (let s : State := wCopy {  } R.FIELD_FI_CFG 3 20; let i : Fin 16 := 3; let b : Bool := true; DieUp s ∧ bitAt s.die.raw ↑i ≠ b ∧ s.isProbe ↑i = false) ∧
    (let s : State := wCopy {  } R.FIELD_PROBE_CFG 0 0x10; let i : Fin 16 := 1; let b : Bool := true; DieUp s ∧ bitAt s.die.raw ↑i ≠ b ∧ s.isProbe ↑i = true ∧ b = (s.dget (F.FIELD_PROBE_CFG_FALL ↑i) == 0) ∧ s.latchesWaiting ↑i < 16)) ∧
    ((let s : State := wCopy { first := List.replicate 16 { what := .latch 1 0 0 } } R.FIELD_PROBE_CFG 0 0x10; let i : Fin 16 := 1; let b : Bool := true; DieUp s ∧ bitAt s.die.raw ↑i ≠ b ∧ s.isProbe ↑i = true ∧ b = (s.dget (F.FIELD_PROBE_CFG_FALL ↑i) == 0) ∧ 16 ≤ s.latchesWaiting ↑i) ∧
    (let s : State := withDie State.reset { raw := 8 }; DieUp s) ∧
    (let s : State := State.reset; let c : Fin 2 := 0; let q : QuadSample := { a := true, b := false }; DieUp s ∧ s.dget F.FIELD_ENC_CFG_MODE ↑c = 0 ∧ s.dget F.FIELD_ENC_CFG_FILTER ↑c ≤ q.held ∧ ((s.encCh ↑c).a = q.a ↔ (s.encCh ↑c).b ≠ q.b)) ∧
    (let s : State := State.reset; let c : Fin 2 := 0; let q : QuadSample := { a := true, b := true }; DieUp s ∧ s.dget F.FIELD_ENC_CFG_MODE ↑c = 0 ∧ s.dget F.FIELD_ENC_CFG_FILTER ↑c ≤ q.held ∧ (s.encCh ↑c).a ≠ q.a ∧ (s.encCh ↑c).b ≠ q.b) ∧
    (let s : State := State.reset; let c : Fin 2 := 0; let q : QuadSample := { a := false, b := false }; DieUp s ∧ s.dget F.FIELD_ENC_CFG_MODE ↑c = 0 ∧ s.dget F.FIELD_ENC_CFG_FILTER ↑c ≤ q.held ∧ (s.encCh ↑c).a = q.a ∧ (s.encCh ↑c).b = q.b)) ∧
    ((let s : State := State.reset; let c : Fin 2 := 0; DieUp s ∧ s.dget F.FIELD_ENC_CFG_MODE ↑c ≠ 1) ∧
    (let s : State := wCopy {  } R.FIELD_ENC_CFG 1 0x1801; DieUp s)) ∧
    ((let s : State := wCopy {  } R.FIELD_ENC_CFG 1 0x1801; DieUp s ∧ s.dget F.FIELD_ENC_CFG_MODE 1 = 1 ∧ (s.encCh 1).ssi = none) ∧
    (let s : State := withDie State.reset { copy := [(cfgIndex R.FIELD_ENC_CFG 1, 0x1801)], enc := [(1, { ssi := some 3 })] }; let raw : ℕ := 0x500000; let n : ℕ := 1; let q : ℕ := 3; let d : ℤ := signed (s.dget F.FIELD_ENC_CFG_SSI_BITS n) (unsigned (s.dget F.FIELD_ENC_CFG_SSI_BITS n) (↑(s.ssiPos raw) - ↑q)); DieUp s ∧ s.dget F.FIELD_ENC_CFG_MODE 1 = 1 ∧ (s.encCh 1).ssi = some q ∧ 2 ^ (s.dget F.FIELD_ENC_CFG_SSI_BITS 1 - 2) < d.natAbs) ∧
    (let s : State := withDie State.reset { copy := [(cfgIndex R.FIELD_ENC_CFG 1, 0x1801)], enc := [(1, { ssi := some 3 })] }; let raw : ℕ := 5; let n : ℕ := 1; let q : ℕ := 3; let d : ℤ := signed (s.dget F.FIELD_ENC_CFG_SSI_BITS n) (unsigned (s.dget F.FIELD_ENC_CFG_SSI_BITS n) (↑(s.ssiPos raw) - ↑q)); DieUp s ∧ s.dget F.FIELD_ENC_CFG_MODE 1 = 1 ∧ (s.encCh 1).ssi = some q ∧ d.natAbs ≤ 2 ^ (s.dget F.FIELD_ENC_CFG_SSI_BITS 1 - 2))) ∧
    ((let s : State := State.reset; let o : Fin 8 := 0; DieUp s ∧ bitAt s.die.faults ↑o = false) ∧
    (let s : State := withDie State.reset { faults := 2 }; let o : Fin 8 := 1; DieUp s ∧ bitAt s.die.faults ↑o = true) ∧
    (let s : State := wCopy {  } R.FIELD_ENC_CFG 0 1; let c : Fin 2 := 0; let q : QuadSample := { a := true, b := false }; DieUp s ∧ (s.dget F.FIELD_ENC_CFG_MODE ↑c ≠ 0 ∨ q.held < s.dget F.FIELD_ENC_CFG_FILTER ↑c))) ∧
    ((let s : State := wCopy {  } R.FIELD_ENC_CFG 0 1; let c : Fin 2 := 0; DieUp s ∧ s.dget F.FIELD_ENC_CFG_MODE ↑c = 1) ∧
    (let s : State := State.reset; DieUp s ∧ s.dget F.FIELD_ENC_CFG_MODE 1 ≠ 1) ∧
    (let s : State := withDie State.reset { powered := false }; let q : QuadSample := { a := true, b := true }; let x : Instr := .fiEdge 0 false; let i : Fin 16 := 0; let c : Fin 2 := 0; let o : Fin 8 := 0; let b : Bool := false; let raw : ℕ := 0; let n : ℕ := 0; s.die.powered = false ∧ x ∈ [Instr.fiEdge i b, Instr.debounceExpire i, Instr.encQuadEdge c q n, Instr.encZEdge c, Instr.encLineFault c b, Instr.ssiRead raw b n, Instr.syncSnapshot, Instr.statusPeriodic, Instr.speedPeriodic c b, Instr.outputOverload o, Instr.outputFaultRetry o b])) :=
  ⟨by unfold DieUp; decide +kernel,
   by unfold DieUp; decide +kernel,
   by unfold DieUp; decide +kernel,
   by unfold DieUp; decide +kernel,
   by unfold DieUp; decide +kernel,
   by unfold DieUp; decide +kernel⟩

theorem test_witness_FieldFrames :
    ((let s : State := withDie State.reset { wire := some up0 }; let e : Slot := { errors := 1 }; let f : UpFrame := up0; Live s ∧ s.die.wire = some f ∧ (f.received s.time.now e.errors = none ∨ s.field.link.finds e.offset = false)) ∧
    (let l : LinkEnd Msg Taken := { up := false, good := 7, offset := 3 }; let k : ℕ := 3; l.up = false ∧ k = l.offset) ∧
    (let l : LinkEnd Msg Taken := { up := true, good := 9, offset := 3 }; let k : ℕ := 4; l.up = true ∧ k ≠ l.offset) ∧
    (let s : State := State.reset; Live s ∧ s.die.wire = none) ∧
    (let s : State := wHeld; s.boot.held = true)) ∧
    ((let s : State := withDie (withField State.reset { link := { up := true, good := 9, resync := false } }) { wire := some up0, link := { up := true } }; let f : UpFrame := up0; let e : Slot := {  }; let g : UpFrame := (up0.received s.time.now e.errors).getD {  }; Live s ∧ s.die.wire = some f ∧ f.received s.time.now e.errors = some g ∧ s.field.link.finds e.offset = true) ∧
    (let l : LinkEnd Msg Taken := { resync := false }; let f : UpFrame := up0; let r : Machine.Rep := { what := .refuse 4 }; l.resync = false ∧ f.resync = false ∧ f.report = some (l.expect, r)) ∧
    (let l : LinkEnd Msg Taken := { resync := false, expect := 3 }; let f : UpFrame := up0; let r : Machine.Rep := { what := .refuse 4 }; let n : ℕ := 0; l.resync = false ∧ f.resync = false ∧ n ≠ l.expect ∧ f.report = some (n, r))) ∧
    ((let s : State := withField State.reset { wire := some down0 }; let f : DownFrame := down0; let e : Slot := {  }; let g : DownFrame := (down0.received e.errors).getD {  }; s.die.powered = true ∧ s.field.wire = some f ∧ f.received e.errors = some g ∧ s.die.link.finds e.offset = true) ∧
    (let s : State := withDie State.reset { safe := false, link := { up := true, good := 9, resync := false, expect := 3 } }; let e : Slot := {  }; s.die.powered = true ∧ (∀ (f : DownFrame), s.field.wire = some f → f.received e.errors = none ∨ s.die.link.finds e.offset = false)) ∧
    (let s : State := withDie State.reset { powered := false }; s.die.powered = false)) ∧
    ((let s : State := withDie wUp { safe := false, link := { up := true, good := 9, resync := false } }; let f : DownFrame := {  }; s.die.link.up = true ∧ s.die.link.resync = false ∧ f.resync = false) ∧
    (let s : State := withDie State.reset { safe := false, link := { up := true, good := 9, resync := false } }; let f : DownFrame := down0; let m : Msg := .stopClear; s.die.link.up = true ∧ s.die.link.resync = false ∧ f.resync = false ∧ f.msg = some (s.die.link.expect, m)) ∧
    (let s : State := withDie State.reset { safe := false, link := { up := true, good := 9, resync := false, expect := 3 } }; let f : DownFrame := down0; let n : ℕ := 0; let m : Msg := .stopClear; s.die.link.up = true ∧ s.die.link.resync = false ∧ f.resync = false ∧ n ≠ s.die.link.expect ∧ f.msg = some (n, m))) ∧
    ((let s : State := withDie State.reset { safe := false, link := { up := true, good := 9, resync := false } }; let f : DownFrame := down0; let a : ℕ × ℕ := (4, 1); s.die.link.up = true ∧ s.die.link.resync = false ∧ f.resync = false ∧ f.amend = some a ∧ s.die.safe = false) ∧
    (let s : State := withDie wUp { safe := false, link := { up := true, missed := 3, resync := false } }; s.die.powered = true ∧ s.die.link.up = true ∧ 3 ≤ s.die.link.missed ∧ s.die.safe = false) ∧
    (let s : State := State.reset; (s.die.powered = false ∨ s.die.link.up = false ∨ s.die.link.missed < 3))) ∧
    ((let s : State := State.reset; (s.field.link.up = false ∨ s.field.link.missed < 3)) ∧
    (let s : State := withField State.reset { link := { up := true, missed := 3 } }; s.field.link.up = true ∧ 3 ≤ s.field.link.missed ∧ s.on F.FIELD_LINK_STAT_UP = false) ∧
    (let s : State := withField wUp { link := { up := true, missed := 3 } }; s.field.link.up = true ∧ 3 ≤ s.field.link.missed ∧ s.on F.FIELD_LINK_STAT_UP = true)) ∧
    ((let s : State := State.reset; (s.die.link.unacked = [] ∨ s.die.link.stale < 4)) ∧
    (let s : State := State.reset; (s.field.link.unacked = [] ∨ s.field.link.stale < 4)) ∧
    (let s : State := withDie State.reset { link := { ptr := 2, stale := 4, unacked := [(0, { what := .refuse 4 })] } }; s.die.link.unacked ≠ [] ∧ 4 ≤ s.die.link.stale)) ∧
    ((let s : State := withField State.reset { link := { ptr := 2, stale := 4, unacked := [(0, .stopClear)] } }; s.field.link.unacked ≠ [] ∧ 4 ≤ s.field.link.stale)) :=
  ⟨by unfold Live; decide +kernel,
   by unfold Live; decide +kernel,
   by decide +kernel,
   by decide +kernel,
   by decide +kernel,
   by decide +kernel,
   by decide +kernel,
   by decide +kernel⟩

theorem test_witness_FieldReportsApplied :
    ((let s : State := reported (wBob .arming) (.ack 4 false); let k : Taken := taken (.ack 4 false); let e : ℕ := 4; let id : ℕ := 8; Reports s k ∧ k.rep.what = Report.ack e false ∧ s.entryBob e = some id ∧ (s.bob id).state = BobState.arming) ∧
    (let s : State := reported (wBob .arming) (.ack 4 true); let k : Taken := taken (.ack 4 true); let e : ℕ := 4; let id : ℕ := 8; Reports s k ∧ k.rep.what = Report.ack e true ∧ s.entryBob e = some id ∧ (s.bob id).state = BobState.arming) ∧
    (let s : State := reported wUp (.ack 4 false); let k : Taken := taken (.ack 4 false); let e : ℕ := 4; let b : Bool := false; Reports s k ∧ k.rep.what = Report.ack e b ∧ (∀ (id : ℕ), s.entryBob e = some id → (s.bob id).state ≠ BobState.arming))) ∧
    ((let s : State := reported wUp (.accept 4); let k : Taken := taken (.accept 4); let e : ℕ := 4; Reports s k ∧ k.rep.what = Report.accept e ∧ s.entryBob e = none) ∧
    (let s : State := reported wUp (.close 4 true); let k : Taken := taken (.close 4 true); let e : ℕ := 4; let b : Bool := true; Reports s k ∧ k.rep.what = Report.close e b ∧ s.entryBob e = none) ∧
    (let s : State := reported wUp (.eject 4 false 0); let k : Taken := taken (.eject 4 false 0); let e : ℕ := 4; Reports s k ∧ k.rep.what = Report.eject e false 0 ∧ s.entryBob e = none)) ∧
    ((let s : State := reported wUp (.eject 4 true 1); let k : Taken := taken (.eject 4 true 1); let e : ℕ := 4; let why : ℕ := 1; Reports s k ∧ k.rep.what = Report.eject e true why ∧ s.entryBob e = none) ∧
    (let s : State := reported wUp (.refuse 4); let k : Taken := taken (.refuse 4); let e : ℕ := 4; Reports s k ∧ k.rep.what = Report.refuse e ∧ s.entryBob e = none) ∧
    (let s : State := reported (wBob .arming) (.refuse 4); let k : Taken := taken (.refuse 4); let e : ℕ := 4; let id : ℕ := 8; Reports s k ∧ k.rep.what = Report.refuse e ∧ s.entryBob e = some id ∧ tsorted s.bobs = true ∧ tsorted s.field.table = true)) ∧
    ((let s : State := reported (wBob .closedInput) (.accept 4); let k : Taken := taken (.accept 4); let e : ℕ := 4; let id : ℕ := 8; Reports s k ∧ k.rep.what = Report.accept e ∧ s.entryBob e = some id) ∧
    (let s : State := reported (wBob .closedInput) (.reject 4 false); let k : Taken := taken (.reject 4 false); let e : ℕ := 4; let b : Bool := false; Reports s k ∧ k.rep.what = Report.reject e b) ∧
    (let s : State := reported (wBob .decided) (.close 4 true); let k : Taken := taken (.close 4 true); let e : ℕ := 4; let id : ℕ := 8; let b : Bool := true; Reports s k ∧ k.rep.what = Report.close e b ∧ s.entryBob e = some id ∧ (s.bob id).state = BobState.decided)) ∧
    ((let s : State := reported (wBob .armedFinal) (.close 4 true); let k : Taken := taken (.close 4 true); let e : ℕ := 4; let id : ℕ := 8; let b : Bool := true; Reports s k ∧ k.rep.what = Report.close e b ∧ s.entryBob e = some id ∧ (s.bob id).state ≠ BobState.decided) ∧
    (let s : State := reported (wBob .armedFinal) (.eject 4 false 0); let k : Taken := taken (.eject 4 false 0); let e : ℕ := 4; let id : ℕ := 8; let why : ℕ := 0; let b : Bool := false; Reports s k ∧ k.rep.what = Report.eject e b why ∧ s.entryBob e = some id ∧ tsorted s.bobs = true ∧ tsorted s.field.table = true) ∧
    (let s : State := (reported (State.setRule (wUp.put F.BOB_RULE_CTRL_EN 1 0) 0 { detail := 1 }) (.latch 1 0 5)).putBit F.FIELD_LINK_STAT_COUNT_VALID false; let k : Taken := taken (.latch 1 0 5); let i : ℕ := 1; let enc : ℕ := 0; let low : ℕ := 5; let r : ℕ := 0; Reports s k ∧ k.rep.what = Report.latch i enc low ∧ s.probeRule i = some r ∧ s.role ≠ 2 ∧ s.count? enc = none)) ∧
    ((let s : State := reported ((State.setRule (wUp.put F.BOB_RULE_CTRL_EN 1 0) 0 { detail := 1, lastC := some 3, hold := 10 }).setMirror 0 { count := 5 }) (.latch 1 0 5); let k : Taken := taken (.latch 1 0 5); let i : ℕ := 1; let enc : ℕ := 0; let low : ℕ := 5; let r : ℕ := 0; let l : ℤ := 3; let c : ℤ := (s.count? enc).getD 0; Reports s k ∧ k.rep.what = Report.latch i enc low ∧ s.probeRule i = some r ∧ s.role ≠ 2 ∧ s.count? enc = some c ∧ (s.rule r).lastC = some l ∧ (s.rule r).hold ≠ 0 ∧ rebuild c 24 low < l + ↑(s.rule r).hold) ∧
    (let s : State := withField wUp { link := { inbox := [{ taken (.latch 1 0 5) with safe := true }] } } |>.setRule 0 { detail := 1 }; let k : Taken := { taken (.latch 1 0 5) with safe := true }; let i : ℕ := 1; let enc : ℕ := 0; let low : ℕ := 5; let r : ℕ := 0; let c : ℤ := (s.count? enc).getD 0; Reports s k ∧ k.rep.what = Report.latch i enc low ∧ s.probeRule i = some r ∧ s.role ≠ 2 ∧ s.count? enc = some c ∧ (∀ (l : ℤ), (s.rule r).lastC = some l → (s.rule r).hold ≠ 0 → l + ↑(s.rule r).hold ≤ rebuild c 24 low) ∧ k.safe = true) ∧
    (let s : State := reported (State.setRule (wUp.put F.BOB_RULE_CTRL_EN 1 0) 0 { detail := 1 }) (.latch 1 0 5); let k : Taken := taken (.latch 1 0 5); let i : ℕ := 1; let enc : ℕ := 0; let low : ℕ := 5; let r : ℕ := 0; let c : ℤ := (s.count? enc).getD 0; Reports s k ∧ k.rep.what = Report.latch i enc low ∧ s.probeRule i = some r ∧ s.role ≠ 2 ∧ s.count? enc = some c ∧ (∀ (l : ℤ), (s.rule r).lastC = some l → (s.rule r).hold ≠ 0 → l + ↑(s.rule r).hold ≤ rebuild c 24 low) ∧ k.safe = false)) ∧
    ((let s : State := reported wUp (.latch 1 0 5); let k : Taken := taken (.latch 1 0 5); let i : ℕ := 1; let enc : ℕ := 0; let low : ℕ := 5; Reports s k ∧ k.rep.what = Report.latch i enc low ∧ s.probeRule i = none) ∧
    (let s : State := (reported wUp (.index 1 7)).putBit F.FIELD_LINK_STAT_COUNT_VALID false; let k : Taken := taken (.index 1 7); let c : ℕ := 1; let low : ℕ := 7; Reports s k ∧ k.rep.what = Report.index c low ∧ s.count? c = none) ∧
    (let s : State := (reported wUp (.sync 1 0 7)).putBit F.FIELD_LINK_STAT_UP false; let k : Taken := taken (.sync 1 0 7); let c : ℕ := 1; let p : ℕ := 0; let bits : ℕ := 7; Reports s k ∧ k.rep.what = Report.sync c p bits ∧ s.on F.FIELD_LINK_STAT_UP = false)) ∧
    ((let s : State := State.reset; let i : Instr := .fieldAckReport; Live s ∧ s.report? = none ∧ i ∈ [Instr.fieldAckReport, Instr.fieldRefuseReport, Instr.fieldAcceptReport, Instr.fieldRejectReport, Instr.fieldCloseReport, Instr.fieldEjectReport, Instr.fieldLatchReport, Instr.fieldIndexReport, Instr.fieldSyncReport, Instr.fieldFiStateReport, Instr.fieldStatusReport, Instr.fieldSpeedReport, Instr.fieldResyncReport]) ∧
    (let s : State := reported wUp (.index 1 7); let k : Taken := taken (.index 1 7); let c : ℕ := 1; let low : ℕ := 7; let n : ℤ := 0; Reports s k ∧ k.rep.what = Report.index c low ∧ s.count? c = some n ∧ s.role = 0) ∧
    (let s : State := reported wUp (.sync 1 0 7); let k : Taken := taken (.sync 1 0 7); let c : ℕ := 1; let bits : ℕ := 7; Reports s k ∧ k.rep.what = Report.sync c 0 bits ∧ s.on F.FIELD_LINK_STAT_UP = true)) ∧
    ((let s : State := (reported wUp (.sync 1 1 7)).setMirror 1 { part0 := some 3 }; let k : Taken := taken (.sync 1 1 7); let c : ℕ := 1; let bits : ℕ := 7; let lo : ℕ := 3; Reports s k ∧ k.rep.what = Report.sync c 1 bits ∧ s.on F.FIELD_LINK_STAT_UP = true ∧ (s.mirrorOf c).part0 = some lo) ∧
    (let s : State := reported wUp (.fiState 9); let k : Taken := taken (.fiState 9); let v : ℕ := 9; Reports s k ∧ k.rep.what = Report.fiState v ∧ s.get F.SNAP_CTRL_SOURCES = 0) ∧
    (let s : State := reported wUp (.status 3 true false 2 1 1 2); let k : Taken := taken (.status 3 true false 2 1 1 2); let faults : ℕ := 3; let lines : ℕ := 2; let cause : ℕ := 1; let sets : ℕ := 1; let n : ℕ := 2; let stop : Bool := true; Reports s k ∧ k.rep.what = Report.status faults stop false lines cause sets n)) ∧
    ((let s : State := reported wUp (.speed 1 (-4)); let k : Taken := taken (.speed 1 (-4)); let c : ℕ := 1; let h : ℤ := -4; Reports s k ∧ k.rep.what = Report.speed c h) ∧
    (let s : State := withField wUp { sawOff := true, link := { resync := false, inbox := [taken .resync] } }; let k : Taken := taken .resync; Reports s k ∧ k.rep.what = Report.resync ∧ s.field.link.resync = false ∧ s.field.sawOff = true) ∧
    (let s : State := withField wUp { sawOff := true, link := { resync := true, inbox := [taken .resync] } }; let k : Taken := taken .resync; Reports s k ∧ k.rep.what = Report.resync ∧ s.field.link.resync = true ∧ s.on F.HOST_STATUS_FW_RUN = false)) :=
  ⟨by unfold Reports Live; decide +kernel,
   by unfold Reports Live; decide +kernel,
   by unfold Reports Live; decide +kernel,
   by unfold Reports Live; decide +kernel,
   by unfold Reports Live; decide +kernel,
   by unfold Reports Live; decide +kernel,
   by unfold Reports Live; decide +kernel,
   by unfold Reports Live; decide +kernel,
   by unfold Reports Live; decide +kernel,
   by unfold Reports Live; decide +kernel⟩

set_option maxRecDepth 20000 in
theorem test_witness_FieldCommands :
    ((let s : State := told State.reset 0x0701 [1, 500] 9; let src : Source := .h2d; let c : Cmd := (s.oldest Source.h2d).getD {  }; Starts s src 1793 c ∧ c.target < 16 ∧ c.p 1 < 2 ∧ c.p 2 < 2 ^ 16 ∧ (c.target < 4 → s.owner c.target ≠ ownProbe)) ∧
    (let s : State := told State.reset 0x0701 [256, 500] 2; let src : Source := .h2d; let c : Cmd := (s.oldest Source.h2d).getD {  }; Starts s src 1793 c ∧ c.target < 4 ∧ (c.p 1 = 256 ∨ c.p 1 = 257) ∧ c.p 2 < 2 ^ 16 ∧ s.owner c.target ≠ ownProbe) ∧
    (let s : State := told (State.reset.own 2 ownProbe 4) 0x0701 [1, 500] 2; let src : Source := .h2d; let c : Cmd := (s.oldest Source.h2d).getD {  }; Starts s src 1793 c ∧ c.target < 4 ∧ (c.p 1 < 2 ∨ c.p 1 = 256 ∨ c.p 1 = 257) ∧ c.p 2 < 2 ^ 16 ∧ s.owner c.target = ownProbe)) ∧
    ((let s : State := told State.reset 0x0701 [2, 500] 2; let src : Source := .h2d; let c : Cmd := (s.oldest Source.h2d).getD {  }; Starts s src 1793 c ∧ (2 ≤ c.p 1 ∧ c.p 1 ≠ 256 ∧ c.p 1 ≠ 257 ∨ 2 ^ 16 ≤ c.p 2 ∨ 2 ≤ c.p 1 ∧ 4 ≤ c.target)) ∧
    (let s : State := told State.reset 0x0702 [7, 0] 3; let src : Source := .h2d; let c : Cmd := (s.oldest Source.h2d).getD {  }; Starts s src 1794 c ∧ c.target < 8 ∧ (c.p 1 = 7 ∨ c.p 1 = 8) ∧ c.p 2 = 0 ∧ s.heldByOther (5 + c.target) (c.p 1) 0 = false) ∧
    (let s : State := told (State.reset.own 8 ownGeneral 0) 0x0702 [7, 0] 3; let src : Source := .h2d; let c : Cmd := (s.oldest Source.h2d).getD {  }; Starts s src 1794 c ∧ (c.p 1 = 7 ∨ c.p 1 = 8) ∧ c.p 2 = 0 ∧ s.heldByOther (5 + c.target) (c.p 1) 0 = true)) ∧
    ((let s : State := told State.reset 0x0702 [6, 0] 3; let src : Source := .h2d; let c : Cmd := (s.oldest Source.h2d).getD {  }; Starts s src 1794 c ∧ (c.p 1 ≠ 7 ∧ c.p 1 ≠ 8 ∨ c.p 2 ≠ 0)) ∧
    (let s : State := told (State.reset.own 8 ownGeneral 0) 0x0703 [] 3; let src : Source := .h2d; let c : Cmd := (s.oldest Source.h2d).getD {  }; Starts s src 1795 c ∧ c.target < 8 ∧ (s.owner (5 + c.target) = ownGeneral ∨ s.owner (5 + c.target) = ownEjector ∧ s.outputArmed c.target = false ∨ s.owner (5 + c.target) = ownStop ∧ s.on F.FIELD_STOP_REQ = false)) ∧
    (let s : State := told ((wBob .open).own 5 ownEjector 0) 0x0703 [] 0; let src : Source := .h2d; let c : Cmd := (s.oldest Source.h2d).getD {  }; Starts s src 1795 c ∧ s.owner (5 + c.target) = ownEjector ∧ s.outputArmed c.target = true)) ∧
    ((let s : State := told ((State.reset.own 8 ownStop 0).putBit F.FIELD_STOP_REQ true) 0x0703 [] 3; let src : Source := .h2d; let c : Cmd := (s.oldest Source.h2d).getD {  }; Starts s src 1795 c ∧ s.owner (5 + c.target) = ownStop ∧ s.on F.FIELD_STOP_REQ = true) ∧
    (let s : State := told (State.reset.own 8 ownLineTrigger 0) 0x0703 [] 3; let src : Source := .h2d; let c : Cmd := (s.oldest Source.h2d).getD {  }; Starts s src 1795 c ∧ s.owner (5 + c.target) = ownLineTrigger) ∧
    (let s : State := told State.reset 0x0703 [] 3; let src : Source := .h2d; let c : Cmd := (s.oldest Source.h2d).getD {  }; Starts s src 1795 c ∧ s.owner (5 + c.target) = ownNone)) ∧
    ((let s : State := told State.reset 0x0704 [1] 3; let src : Source := .h2d; let c : Cmd := (s.oldest Source.h2d).getD {  }; Starts s src 1796 c ∧ c.target < 8 ∧ s.owner (5 + c.target) ≠ ownGeneral) ∧
    (let s : State := told (State.reset.own 8 ownGeneral 0) 0x0704 [1] 3; let src : Source := .h2d; let c : Cmd := (s.oldest Source.h2d).getD {  }; Starts s src 1796 c ∧ c.target < 8 ∧ s.owner (5 + c.target) = ownGeneral) ∧
    (let s : State := told (State.reset.own 4 ownProbe 0) 0x0705 [4, 0, 0] 1; let src : Source := .h2d; let c : Cmd := (s.oldest Source.h2d).getD {  }; let o : ℕ := if c.p 1 % 4 = 0 then ownQuadrature else if c.p 1 % 4 = 1 then ownSsi else ownNone; Starts s src 1797 c ∧ c.target < 2 ∧ encOk c = true ∧ c.target = 1 ∧ c.p 1 % 4 ≠ 2 ∧ s.heldByOther 4 o 0 = true)) ∧
    ((let s : State := told (wUp.putBit F.FIELD_LINK_STAT_SAFE true) 0x0705 [4, 0, 0] 0; let src : Source := .h2d; let c : Cmd := (s.oldest Source.h2d).getD {  }; let o : ℕ := if c.p 1 % 4 = 0 then ownQuadrature else if c.p 1 % 4 = 1 then ownSsi else ownNone; Starts s src 1797 c ∧ c.target < 2 ∧ encOk c = true ∧ (c.target = 1 → c.p 1 % 4 ≠ 2 → s.heldByOther 4 o 0 = false) ∧ s.encInUse c.target = true ∧ (s.get F.FIELD_ENC_CFG_MODE c.target ≠ c.p 1 % 4 ∨ s.get F.FIELD_ENC_CFG_INVERT c.target ≠ c.p 1 / 4 % 2)) ∧
    (let s : State := told State.reset 0x0705 [4, 0, 0] 1; let src : Source := .h2d; let c : Cmd := (s.oldest Source.h2d).getD {  }; let o : ℕ := if c.p 1 % 4 = 0 then ownQuadrature else if c.p 1 % 4 = 1 then ownSsi else ownNone; Starts s src 1797 c ∧ c.target < 2 ∧ encOk c = true ∧ (c.target = 1 → c.p 1 % 4 ≠ 2 → s.heldByOther 4 o 0 = false) ∧ (s.encInUse c.target = false ∨ s.get F.FIELD_ENC_CFG_MODE c.target = c.p 1 % 4 ∧ s.get F.FIELD_ENC_CFG_INVERT c.target = c.p 1 / 4 % 2)) ∧
    (let s : State := told State.reset 0x0705 [3, 0, 0] 1; let src : Source := .h2d; let c : Cmd := (s.oldest Source.h2d).getD {  }; Starts s src 1797 c ∧ encOk c = false)) ∧
    ((let s : State := told State.reset 0x0706 [65535]; let src : Source := .h2d; let c : Cmd := (s.oldest Source.h2d).getD {  }; Starts s src 1798 c ∧ 1 ≤ c.p 1 ∧ c.p 1 ≤ 65535) ∧
    (let s : State := told State.reset 0x0706 [65536]; let src : Source := .h2d; let c : Cmd := (s.oldest Source.h2d).getD {  }; Starts s src 1798 c ∧ (c.p 1 = 0 ∨ 65535 < c.p 1)) ∧
    (let s : State := told State.reset 0x0707 []; let src : Source := .h2d; let c : Cmd := (s.oldest Source.h2d).getD {  }; Starts s src 1799 c)) ∧
    ((let s : State := told (State.reset.own 8 ownStop 0) 0x0708 [5]; let src : Source := .h2d; let c : Cmd := (s.oldest Source.h2d).getD {  }; Starts s src 1800 c ∧ s.locked R.FIELD_SAFE_VALUES.base = false ∧ (∀ i < 8, bitAt (c.p 1) i = true → s.owner (5 + i) ≠ ownStop)) ∧
    (let s : State := told (State.reset.own 8 ownStop 0) 0x0708 [0xD]; let i : ℕ := 3; let src : Source := .h2d; let c : Cmd := (s.oldest Source.h2d).getD {  }; Starts s src 1800 c ∧ i < 8 ∧ bitAt (c.p 1) i = true ∧ s.owner (5 + i) = ownStop) ∧
    (let s : State := told (State.reset.setReg R.BLOCK_LOCK 1 10) 0x0708 [5]; let src : Source := .h2d; let c : Cmd := (s.oldest Source.h2d).getD {  }; Starts s src 1800 c ∧ s.locked R.FIELD_SAFE_VALUES.base = true)) ∧
    ((let s : State := State.reset; let a : ℕ := 0; Live s ∧ (a < 270593425408 ∨ 270594473980 ≤ a ∨ findReg regTable a = none))) :=
  ⟨by unfold Starts Live; decide +kernel,
   by unfold Starts Live; decide +kernel,
   by unfold Starts Live; decide +kernel,
   by unfold Starts Live; decide +kernel,
   by unfold Starts Live; decide +kernel,
   by unfold Starts Live; decide +kernel,
   by unfold Starts Live; decide +kernel,
   by unfold Starts Live; decide +kernel,
   by unfold Live; decide +kernel⟩

set_option maxRecDepth 20000 in
theorem test_witness_FieldCommands_a :
    let a : ℕ := 0x3F00A0FFFC; let r : Reg := R.BLOCK_LOCK; let i : ℕ := 10; let s : State := State.reset; let j : ℕ := 0; findReg regTable a = some (r, i, j) ∧ Live s ∧ 270593425408 ≤ a ∧ a < 270594473980 :=
  ⟨rfl, by unfold Live; decide +kernel⟩

set_option maxRecDepth 20000 in
theorem test_witness_FieldCommands_b :
    let a : ℕ := 0x3F00A00000; let s : State := State.reset; let i : ℕ := 0; let j : ℕ := 0; let r : Reg := R.FIELD_LINK_STAT; findReg regTable a = some (r, i, j) ∧ Live s ∧ 270593425408 ≤ a ∧ a < 270594473980 ∧ r.base ≠ R.BLOCK_LOCK.base ∧ r.rw = 0 :=
  ⟨rfl, by unfold Live; decide +kernel⟩

set_option maxRecDepth 20000 in
theorem test_witness_FieldCommands_c :
    let a : ℕ := 270593425432; let s : State := State.reset; let i : ℕ := 0; let j : ℕ := 0; let r : Reg := R.FIELD_PULSE_MAX; findReg regTable a = some (r, i, j) ∧ Live s ∧ 270593425408 ≤ a ∧ a < 270594473980 ∧ r.base ≠ R.BLOCK_LOCK.base ∧ r.rw ≠ 0 :=
  ⟨rfl, by unfold Live; decide +kernel⟩

theorem test_witness_StripeTasks :
    ((let s : State := wTask; let k : Machine.Task := task0; let slot : ℕ := 0; let p : Fin 8 := 0; let n : Fin 64 := 0; let q : List Machine.Task := []; Live s ∧ s.get F.SCHED_JOB_STATE ↑p = 2 ∧ (s.jobLooms ↑p).contains ↑n = true ∧ (s.loom ↑n).cmds.length < 2 ∧ (s.fenceDue.any fun e => e.1 == ↑n) = false ∧ s.taskOrder ↑p = k :: q ∧ s.slotFor (↑p) k.bobbin k.token = some slot) ∧
    (let s : State := withPart wTask { wTask.part 0 with ready := [], issued := [task0] }; let p : Fin 8 := 0; let n : Fin 64 := 0; Live s ∧ s.get F.SCHED_JOB_STATE ↑p = 2 ∧ (s.jobLooms ↑p).contains ↑n = true ∧ (s.loom ↑n).cmds.length < 2 ∧ (s.fenceDue.any fun e => e.1 == ↑n) = false ∧ s.taskOrder ↑p = []) ∧
    (let s : State := withPart wTask { wTask.part 0 with waitSeen := [(8, 0)] } |>.put F.SCHED_STAGE_SIZE_SIZE 0 0; let k : Machine.Task := task0; let p : Fin 8 := 0; let n : Fin 64 := 0; let q : List Machine.Task := []; Live s ∧ s.get F.SCHED_JOB_STATE ↑p = 2 ∧ (s.jobLooms ↑p).contains ↑n = true ∧ (s.loom ↑n).cmds.length < 2 ∧ (s.fenceDue.any fun e => e.1 == ↑n) = false ∧ s.taskOrder ↑p = k :: q ∧ s.slotFor (↑p) k.bobbin k.token = none)) ∧
    ((let s : State := withPart wTask { wTask.part 0 with waitSeen := [(8, 0)] } |>.put F.SCHED_STAGE_SIZE_SIZE 0 0; let k : Machine.Task := task0; let p : ℕ := 0; (s.part p).waitSeen.contains (k.bobbin, k.token) = true) ∧
    (let s : State := State.reset; let p : Fin 8 := 0; let n : Fin 64 := 0; Live s ∧ (s.get F.SCHED_JOB_STATE ↑p ≠ 2 ∨ 2 ≤ (s.loom ↑n).cmds.length ∨ (s.jobLooms ↑p).contains ↑n = false ∨ (s.fenceDue.any fun e => e.1 == ↑n) = true)) ∧
    (let s : State := withPart wTask { wTask.part 0 with ready := [], issued := [{ task0 with loom := some 0, outs := [(5, [])] }] }; let n : Fin 64 := 0; let b : Fin 4096 := 8; let o : ℕ := 5; let k : Machine.Task := { task0 with loom := some 0, outs := [(5, [])] }; let token : ℕ := 0; let stripe : ℕ := 0; Live s ∧ List.find? (fun t => t.loom == some ↑n && t.bobbin == ↑b && t.token == token && t.stripe == stripe) (s.part (s.bob ↑b).partition).issued = some k ∧ s.runsOn (s.bob ↑b).partition = true ∧ s.underWay k = true ∧ k.stored o = true) ∧
    (let k : Machine.Task := { task0 with spoilt := true }; k.spoilt = true) ∧
    (let k : Machine.Task := { task0 with outs := [(5, [some 3])] }; let i : ℕ := 0; k.spoilt = false ∧ i < 4 * dimOf image0)) ∧
    ((let s : State := State.reset; let n : Fin 64 := 0; let b : Fin 4096 := 0; let token : ℕ := 0; let stripe : ℕ := 0; let o : ℕ := 0; Live s ∧ (∀ (k : Machine.Task), List.find? (fun t => t.loom == some ↑n && t.bobbin == ↑b && t.token == token && t.stripe == stripe) (s.part (s.bob ↑b).partition).issued = some k → s.runsOn (s.bob ↑b).partition = false ∨ s.underWay k = false ∨ k.stored o = false)) ∧
    (let s : State := State.reset; s.fenceDue = [])) :=
  ⟨by unfold Live; decide +kernel,
   by unfold Live; decide +kernel,
   by unfold Live; decide +kernel⟩

theorem test_witness_StepStarts :
    ((let s : State := wDue; let w : Why := .latest; let p : Fin 8 := 0; let t : State := wDue.judgeReady ↑p; Live s ∧ t.mayStep ↑p = true ∧ t.startWhy ↑p = some w) ∧
    (let s : State := wDue; let p : Fin 8 := 0; let t : State := wDue.judgeReady ↑p; let w : Why := Why.latest; Live s ∧ t.mayStep ↑p = true ∧ t.startWhy ↑p = some w ∧ t.latestReached ↑p = true) ∧
    (let s : State := withTime (bobbed (wRun.put F.SCHED_FILL_WAIT_US 5) 8 { readyBob with readyAt := some 0 }) { now := 1000000000000000000000 }; let p : Fin 8 := 0; let t : State := s.judgeReady ↑p; let w : Why := Why.waited; Live s ∧ t.mayStep ↑p = true ∧ t.startWhy ↑p = some w ∧ t.get F.SCHED_FILL_WAIT_US ≠ 0 ∧ t.waited (t.readyParts ↑p) (t.get F.SCHED_FILL_WAIT_US) = true)) ∧
    ((let s : State := withTime (withIntake (bobbed wRun 0xF00 { readyBob with sample := some 3, readyAt := some 0 }) { samples := [ready0] }) { now := 1000000000000000000000 }; let p : Fin 8 := 0; let t : State := s.judgeReady ↑p; let w : Why := Why.waited; Live s ∧ t.mayStep ↑p = true ∧ t.startWhy ↑p = some w ∧ t.waited (t.readySamples ↑p) (t.get F.SAMPLE_BATCH_WAIT_US) = true) ∧
    (let s : State := wStep; let p : Fin 8 := 0; let t : State := wStep.judgeReady ↑p; Live s ∧ (t.mayStep ↑p = false ∨ t.startWhy ↑p = none)) ∧
    (let s : State := wStep; let p : Fin 8 := 0; let t : State := wStep.judgeReady ↑p; Live s ∧ t.latestReached ↑p = false)) ∧
    ((let s : State := { wRun with bobs := (List.range 64).map fun i => (i, readyBob) } |>.put F.SCHED_KV_BEAM_SIZE_PAGES 64 0; let p : Fin 8 := 0; let t : State := s.judgeReady ↑p; Live s ∧ (t.get F.SCHED_FILL_WAIT_US = 0 ∨ t.waited (t.readyParts ↑p) (t.get F.SCHED_FILL_WAIT_US) = false)) ∧
    (let s : State := wRun; let p : Fin 8 := 0; let t : State := wRun.judgeReady ↑p; Live s ∧ t.waited (t.readySamples ↑p) (t.get F.SAMPLE_BATCH_WAIT_US) = false) ∧
    (let s : State := State.reset; let p : ℕ := 0; (s.get F.SCHED_JOB_STATE p ≠ 2 ∨ (s.part p).step.isSome = true ∨ (s.part p).learn.running = true ∨ ∃ m, s.jobModel p = some m ∧ ((s.freshLooms p).length < m.floor ∨ s.reloadDue m = true)))) ∧
    ((let s : State := { wRun with bobs := (List.range 64).map fun i => (i, readyBob) } |>.put F.SCHED_KV_BEAM_SIZE_PAGES 64 0; let p : ℕ := 0; 64 ≤ (s.readyParts p).length + (s.readySamples p).length) ∧
    (let s : State := wDue; let p : ℕ := 0; (s.readyParts p).length + (s.readySamples p).length < 64 ∧ s.readyParts p ≠ [] ∧ s.latestReached p = true) ∧
    (let s : State := withTime (bobbed (wRun.put F.SCHED_FILL_WAIT_US 5) 8 { readyBob with readyAt := some 0 }) { now := 1000000000000000000000 }; let p : ℕ := 0; (s.readyParts p).length + (s.readySamples p).length < 64 ∧ s.readyParts p ≠ [] ∧ s.latestReached p = false ∧ s.get F.SCHED_FILL_WAIT_US ≠ 0 ∧ s.waited (s.readyParts p) (s.get F.SCHED_FILL_WAIT_US) = true)) ∧
    ((let s : State := withTime (withIntake (bobbed wRun 0xF00 { readyBob with sample := some 3, readyAt := some 0 }) { samples := [ready0] }) { now := 1000000000000000000000 }; let p : ℕ := 0; (s.readySamples p).length < 64 ∧ s.readyParts p = [] ∧ s.readySamples p ≠ [] ∧ s.waited (s.readySamples p) (s.get F.SAMPLE_BATCH_WAIT_US) = true) ∧
    (let s : State := State.reset; let p : ℕ := 0; s.readyParts p = [] ∧ s.readySamples p = []) ∧
    (let s : State := wReady; let w : Why := .waited; let rows : List ℕ := [8]; let p : Fin 8 := 0; let n : ℕ := 0; ((s.boundary ↑p).takeRows (↑p) ((s.boundary ↑p).rowOrder ↑p) []).2 = rows ∧ rows ≠ [] ∧ n ∈ (s.startStep (↑p) w).jobLooms ↑p)) :=
  ⟨by unfold Live; decide +kernel,
   by unfold Live; decide +kernel,
   by unfold Live; decide +kernel,
   by decide +kernel,
   by decide +kernel⟩

theorem test_witness_StepEnds :
    ((let s : State := wStep; let st : StepRun := { rows := [8], earlyRun := 0 }; let p : Fin 8 := 0; Live s ∧ (s.part ↑p).step = some st ∧ s.runsOn ↑p = true ∧ (s.part ↑p).redo = false ∧ s.segmentsLeft (↑p) 2 = false) ∧
    (let s : State := State.reset; let p : Fin 8 := 0; Live s ∧ ((s.part ↑p).step = none ∨ s.runsOn ↑p = false ∨ (s.part ↑p).redo = true ∨ s.segmentsLeft (↑p) 2 = true)) ∧
    (let s : State := State.reset; (s.profile ≠ 3 ∨ (∀ m, s.jobModel 0 = some m → m.profile ≠ 3 ∨ m.info.float = false))) ∧
    (let s : State := wStep; let id : ℕ := 9; s.rowLives id = false) ∧
    (let st : StepRun := { rows := [8], earlyRun := 0 }; let i : ℕ := 0; i < st.rows.length) ∧
    (let s : State := withSched State.reset { models := [{ unit0 true with header := [0, 0, 0, 64, 0, 0, 0, 0] }], parts := [(0, { looms := [0], model := 7 })] } |>.put F.SCHED_JOB_STATE 2 0; let u : ℕ := 5; u ∈ s.poisonUnits 0)) ∧
    ((let s : State := wStep; let id : ℕ := 8; s.rowLives id = true ∧ (s.bob id).sample = none ∧ (s.bob id).done + 1 < (s.bob id).tokens) ∧
    (let s : State := withPart (bobbed wRun 8 { readyBob with member := true, done := 1 }) { wRun.part 0 with step := some { rows := [8], earlyRun := 0 } }; let id : ℕ := 8; s.rowLives id = true ∧ (s.bob id).sample = none ∧ (s.bob id).done + 1 = (s.bob id).tokens) ∧
    (let s : State := wLearn { due := true }; let p : Fin 8 := 0; Live s ∧ (s.part ↑p).learn.due = true ∧ s.mayStep ↑p = true ∧ (∀ (x : ℤ), s.partLatest ↑p = some x → ↑s.time.now + ↑(s.get F.SCHED_LEARN_OPT_TIME_NS ↑p) * ↑nsUnit + ↑(usUnits (s.get F.SCHED_GUARD_US)) ≤ x))) ∧
    ((let s : State := State.setMirror (State.put (bobbed (wLearn { due := true, held := true }) 8 readyBob) F.SCHED_KV_BEAM_SIZE_PAGES 4 0) 0 { count := 10, hist := [(10, 100)], vNum := 1 }; let p : Fin 8 := 0; let x : ℤ := (s.partLatest ↑p).getD 0; Live s ∧ (s.part ↑p).learn.due = true ∧ s.mayStep ↑p = true ∧ s.partLatest ↑p = some x ∧ x < ↑s.time.now + ↑(s.get F.SCHED_LEARN_OPT_TIME_NS ↑p) * ↑nsUnit + ↑(usUnits (s.get F.SCHED_GUARD_US)) ∧ (s.part ↑p).learn.held = true) ∧
    (let s : State := State.setMirror (State.put (bobbed (wLearn { due := true }) 8 readyBob) F.SCHED_KV_BEAM_SIZE_PAGES 4 0) 0 { count := 10, hist := [(10, 100)], vNum := 1 }; let p : Fin 8 := 0; let x : ℤ := (s.partLatest ↑p).getD 0; Live s ∧ (s.part ↑p).learn.due = true ∧ s.mayStep ↑p = true ∧ s.partLatest ↑p = some x ∧ x < ↑s.time.now + ↑(s.get F.SCHED_LEARN_OPT_TIME_NS ↑p) * ↑nsUnit + ↑(usUnits (s.get F.SCHED_GUARD_US)) ∧ (s.part ↑p).learn.held = false) ∧
    (let s : State := wDiverge; let p : Fin 8 := 0; Live s ∧ ((s.part ↑p).learn.due = false ∨ s.mayStep ↑p = false))) ∧
    ((let s : State := wDiverge; let p : Fin 8 := 0; Live s ∧ (s.part ↑p).learn.running = true ∧ s.runsOn ↑p = true ∧ (s.part ↑p).redo = false ∧ s.segmentsLeft (↑p) 3 = false) ∧
    (let s : State := State.reset; let p : Fin 8 := 0; Live s ∧ ((s.part ↑p).learn.running = false ∨ s.runsOn ↑p = false ∨ (s.part ↑p).redo = true ∨ s.segmentsLeft (↑p) 3 = true)) ∧
    (let s : State := wDiverge; let p : Fin 8 := 0; ((s.part ↑p).learn.step (s.info ↑p).learn).sound = false)) :=
  ⟨by unfold Live; decide +kernel,
   by unfold Live; decide +kernel,
   by unfold Live; decide +kernel,
   by unfold Live; decide +kernel⟩

theorem test_witness_Partitions :
    ((let s : State := told wRun 0x0404 [0, 0] 1; let ns : List ℕ := []; let src : Source := .h2d; let c : Cmd := (s.oldest Source.h2d).getD {  }; Starts s src 1028 c ∧ c.target < 8 ∧ ns = maskList 64 (c.p 1 + 2 ^ 32 * c.p 2)) ∧
    (let s : State := told wRun 0x0404 [4, 0] 0; let src : Source := .h2d; let c : Cmd := (s.oldest Source.h2d).getD {  }; let ns : List ℕ := maskList 64 (c.p 1 + 2 ^ 32 * c.p 2); Starts s src 1028 c ∧ c.target < 8 ∧ ns ≠ [] ∧ s.hasPart c.target = true) ∧
    (let s : State := told wRun 0x0404 [6, 0] 1; let src : Source := .h2d; let c : Cmd := (s.oldest Source.h2d).getD {  }; let ns : List ℕ := maskList 64 (c.p 1 + 2 ^ 32 * c.p 2); Starts s src 1028 c ∧ c.target < 8 ∧ ns ≠ [] ∧ s.hasPart c.target = false ∧ ∃ n ∈ ns, s.borrowable n = false)) ∧
    ((let s : State := told (wRun.setReg R.SCHED_FENCE_MAP_HI 2) 0x0404 [4, 2] 1; let src : Source := .h2d; let c : Cmd := (s.oldest Source.h2d).getD {  }; let ns : List ℕ := maskList 64 (c.p 1 + 2 ^ 32 * c.p 2); Starts s src 1028 c ∧ c.target < 8 ∧ ns ≠ [] ∧ s.hasPart c.target = false ∧ (∀ n ∈ ns, s.borrowable n = true) ∧ ∃ n ∈ ns, s.fenced n = true) ∧
    (let s : State := told (wState 4) 0x0404 [6, 0x80000000] 7; let src : Source := .h2d; let c : Cmd := (s.oldest Source.h2d).getD {  }; let ns : List ℕ := maskList 64 (c.p 1 + 2 ^ 32 * c.p 2); Starts s src 1028 c ∧ c.target < 8 ∧ ns ≠ [] ∧ s.hasPart c.target = false ∧ (∀ n ∈ ns, s.borrowable n = true) ∧ (∀ n ∈ ns, s.fenced n = false)) ∧
    (let s : State := told wRun 0x0405 [] 3; let src : Source := .h2d; let c : Cmd := (s.oldest Source.h2d).getD {  }; Starts s src 1029 c ∧ c.target < 8 ∧ s.hasPart c.target = false)) ∧
    ((let s : State := told wRun 0x0405 [] 0; let src : Source := .h2d; let c : Cmd := (s.oldest Source.h2d).getD {  }; Starts s src 1029 c ∧ c.target < 8 ∧ s.hasPart c.target = true ∧ (s.get F.SCHED_JOB_STATE c.target ≠ 0 ∨ ∃ n ∈ (s.part c.target).looms, s.lent c.target n = true)) ∧
    (let s : State := told (wState 0) 0x0405 [] 0; let src : Source := .h2d; let c : Cmd := (s.oldest Source.h2d).getD {  }; Starts s src 1029 c ∧ c.target < 8 ∧ s.hasPart c.target = true ∧ s.get F.SCHED_JOB_STATE c.target = 0 ∧ (∀ n ∈ (s.part c.target).looms, s.lent c.target n = false) ∧ tsorted s.sched.parts = true ∧ (∀ e ∈ (s.part c.target).borrowed, s.fenced e.1 = false)) ∧
    (let s : State := State.reset; let q : ℕ := 0; s.jobModel q = none)) ∧
    ((let s : State := told wRun 0x0405 [] 0; let q : ℕ := 0; let m : Model := (s.jobModel q).getD (model0 false); s.jobModel q = some m ∧ m.floor ≤ (List.filter (fun n => !s.fenced n) (s.part q).looms).length) ∧
    (let s : State := wRun.setReg R.SCHED_FENCE_MAP_LO 3; let q : ℕ := 0; let m : Model := model0 false; s.jobModel q = some m ∧ (List.filter (fun n => !s.fenced n) (s.part q).looms).length < m.floor)) :=
  ⟨by unfold Starts Live; decide +kernel,
   by unfold Starts Live; decide +kernel,
   by unfold Starts Live; decide +kernel,
   by decide +kernel⟩

theorem test_witness_JobCommands :
    ((let s : State := told wRun 0x0406 [7, 0] 3; let src : Source := .h2d; let c : Cmd := (s.oldest Source.h2d).getD {  }; Starts s src 1030 c ∧ (s.hasPart c.target = false ∨ s.get F.SCHED_JOB_STATE c.target ≠ 0)) ∧
    (let s : State := told (wState 0) 0x0406 [9, 0] 0; let src : Source := .h2d; let c : Cmd := (s.oldest Source.h2d).getD {  }; Starts s src 1030 c ∧ s.hasPart c.target = true ∧ s.get F.SCHED_JOB_STATE c.target = 0 ∧ s.model? (c.p 1) = none) ∧
    (let s : State := told ((wState 0).setReg R.SCHED_FENCE_MAP_LO 3) 0x0406 [7, 0] 0; let m : Model := model0 false; let src : Source := .h2d; let c : Cmd := (s.oldest Source.h2d).getD {  }; Starts s src 1030 c ∧ s.hasPart c.target = true ∧ s.get F.SCHED_JOB_STATE c.target = 0 ∧ s.model? (c.p 1) = some m ∧ (s.activeLooms c.target).length < m.floor)) ∧
    ((let s : State := told ((wState 0).put F.SCHED_KV_BEAM_SIZE_PAGES 0 0) 0x0406 [7, 0] 0; let m : Model := model0 false; let src : Source := .h2d; let c : Cmd := (s.oldest Source.h2d).getD {  }; let t : State := (s.dropOldest Source.h2d).asStarting c.target (c.p 1) (bitAt (c.p 2) 0); Starts s src 1030 c ∧ s.hasPart c.target = true ∧ s.get F.SCHED_JOB_STATE c.target = 0 ∧ s.model? (c.p 1) = some m ∧ m.floor ≤ (s.activeLooms c.target).length ∧ t.jobFits c.target m (bitAt (c.p 2) 0) = false) ∧
    (let s : State := told (withSched (wState 0) { models := [{ model0 false with slot := none, header := [0, 0, w32 0x1020000, 0xFFFFFFFF, 0, 0] }], parts := [(0, { looms := [0, 1] })] }) 0x0406 [7, 0] 0; let m : Model := { model0 false with slot := none, header := [0, 0, w32 0x1020000, 0xFFFFFFFF, 0, 0] }; let src : Source := .h2d; let c : Cmd := (s.oldest Source.h2d).getD {  }; let t : State := (s.dropOldest Source.h2d).asStarting c.target (c.p 1) (bitAt (c.p 2) 0); Starts s src 1030 c ∧ s.hasPart c.target = true ∧ s.get F.SCHED_JOB_STATE c.target = 0 ∧ s.model? (c.p 1) = some m ∧ m.floor ≤ (s.activeLooms c.target).length ∧ t.jobFits c.target m (bitAt (c.p 2) 0) = true ∧ t.beginResident (c.p 1) = none) ∧
    (let s : State := told (wState 0) 0x0406 [7, 0] 0; let m : Model := model0 false; let src : Source := .h2d; let c : Cmd := (s.oldest Source.h2d).getD {  }; let t : State := (s.dropOldest Source.h2d).asStarting c.target (c.p 1) (bitAt (c.p 2) 0); let u : State := (t.beginResident (c.p 1)).getD State.reset; Starts s src 1030 c ∧ s.hasPart c.target = true ∧ s.get F.SCHED_JOB_STATE c.target = 0 ∧ s.model? (c.p 1) = some m ∧ m.floor ≤ (s.activeLooms c.target).length ∧ t.jobFits c.target m (bitAt (c.p 2) 0) = true ∧ t.beginResident (c.p 1) = some u ∧ bitAt (c.p 2) 0 = false)) ∧
    ((let s : State := told (withSched (((wState 0).put F.SCHED_LEARN_BASE_BASE 0x210080 0).put F.SCHED_LEARN_SIZE_SIZE 1 0) { models := [{ model0 true with info := { image0 with learn := [{ ins := 1, outs := 1, weights := [0], biases := [0] }] } }], parts := [(0, { looms := [0, 1] })] }) 0x0406 [7, 1] 0; let m : Model := { model0 true with info := { image0 with learn := [{ ins := 1, outs := 1, weights := [0], biases := [0] }] } }; let src : Source := .h2d; let c : Cmd := (s.oldest Source.h2d).getD {  }; let t : State := (s.dropOldest Source.h2d).asStarting c.target (c.p 1) (bitAt (c.p 2) 0); let u : State := (t.beginResident (c.p 1)).getD State.reset; Starts s src 1030 c ∧ s.hasPart c.target = true ∧ s.get F.SCHED_JOB_STATE c.target = 0 ∧ s.model? (c.p 1) = some m ∧ m.floor ≤ (s.activeLooms c.target).length ∧ t.jobFits c.target m (bitAt (c.p 2) 0) = true ∧ t.beginResident (c.p 1) = some u ∧ bitAt (c.p 2) 0 = true) ∧
    (let s : State := told (wState 4) 0x0407 [] 0; let src : Source := .h2d; let c : Cmd := (s.oldest Source.h2d).getD {  }; Starts s src 1031 c ∧ s.get F.SCHED_JOB_STATE c.target ≠ 2) ∧
    (let s : State := told wStep 0x0407 [] 0; let src : Source := .h2d; let t : State := ((s.dropOldest Source.h2d).withdraw ((s.oldest Source.h2d).getD {  }).target (s.heldLooms ((s.oldest Source.h2d).getD {  }).target) fun k => k.kind == 1).put F.SCHED_JOB_STATE 6 ((s.oldest Source.h2d).getD {  }).target; let c : Cmd := (s.oldest Source.h2d).getD {  }; Starts s src 1031 c ∧ s.get F.SCHED_JOB_STATE c.target = 2 ∧ t.allEnded c.target = false)) ∧
    ((let s : State := told wRun 0x0407 [] 0; let src : Source := .h2d; let t : State := ((s.dropOldest Source.h2d).withdraw ((s.oldest Source.h2d).getD {  }).target (s.heldLooms ((s.oldest Source.h2d).getD {  }).target) fun k => k.kind == 1).put F.SCHED_JOB_STATE 6 ((s.oldest Source.h2d).getD {  }).target; let c : Cmd := (s.oldest Source.h2d).getD {  }; Starts s src 1031 c ∧ s.get F.SCHED_JOB_STATE c.target = 2 ∧ t.allEnded c.target = true) ∧
    (let s : State := told (wState 0) 0x0408 [] 0; let src : Source := .h2d; let c : Cmd := (s.oldest Source.h2d).getD {  }; Starts s src 1032 c ∧ s.get F.SCHED_JOB_STATE c.target = 0) ∧
    (let s : State := told wStep 0x0408 [] 0; let src : Source := .h2d; let c : Cmd := (s.oldest Source.h2d).getD {  }; Starts s src 1032 c ∧ s.get F.SCHED_JOB_STATE c.target ≠ 0)) ∧
    ((let s : State := told wRun 0x0409 [2] 0; let src : Source := .h2d; let c : Cmd := (s.oldest Source.h2d).getD {  }; Starts s src 1033 c ∧ 1 < c.p 1 ∧ s.get F.SCHED_JOB_STATE c.target = 2) ∧
    (let s : State := told wRun 0x0409 [0] 0; let src : Source := .h2d; let c : Cmd := (s.oldest Source.h2d).getD {  }; Starts s src 1033 c ∧ c.p 1 = 0 ∧ s.get F.SCHED_JOB_STATE c.target = 2) ∧
    (let s : State := told ((wRun.put F.SCHED_SAVE_BASE_BASE 0x10 0).put F.SCHED_SAVE_SIZE_SIZE 74 0) 0x0409 [1] 0; let src : Source := .h2d; let c : Cmd := (s.oldest Source.h2d).getD {  }; Starts s src 1033 c ∧ c.p 1 = 1 ∧ s.get F.SCHED_JOB_STATE c.target = 2 ∧ s.saveOk c.target = true)) ∧
    ((let s : State := told wRun 0x0409 [1] 0; let src : Source := .h2d; let c : Cmd := (s.oldest Source.h2d).getD {  }; Starts s src 1033 c ∧ c.p 1 = 1 ∧ s.get F.SCHED_JOB_STATE c.target = 2 ∧ s.saveOk c.target = false) ∧
    (let s : State := told (((wState 3).put F.SCHED_SAVE_BASE_BASE 0x10 0).put F.SCHED_SAVE_SIZE_SIZE 74 0) 0x0409 [1] 0; let src : Source := .h2d; let c : Cmd := (s.oldest Source.h2d).getD {  }; Starts s src 1033 c ∧ c.p 1 = 1 ∧ s.get F.SCHED_JOB_STATE c.target = 3 ∧ s.on F.SCHED_JOB_IMMEDIATE c.target = false ∧ s.saveOk c.target = true) ∧
    (let s : State := told (wState 4) 0x0409 [1] 0; let src : Source := .h2d; let c : Cmd := (s.oldest Source.h2d).getD {  }; Starts s src 1033 c ∧ s.get F.SCHED_JOB_STATE c.target ≠ 2 ∧ (s.get F.SCHED_JOB_STATE c.target ≠ 3 ∨ c.p 1 ≠ 1 ∨ s.on F.SCHED_JOB_IMMEDIATE c.target = true ∨ s.saveOk c.target = false))) ∧
    ((let s : State := wState 3; let p : Fin 8 := 0; Live s ∧ s.get F.SCHED_JOB_STATE ↑p = 3 ∧ s.paused ↑p = true ∧ s.on F.SCHED_JOB_IMMEDIATE ↑p = false) ∧
    (let s : State := withPart ((wState 3).putBit F.SCHED_JOB_IMMEDIATE true 0) { (wState 3).part 0 with looms := [] }; let p : Fin 8 := 0; Live s ∧ s.get F.SCHED_JOB_STATE ↑p = 3 ∧ s.paused ↑p = true ∧ s.on F.SCHED_JOB_IMMEDIATE ↑p = true) ∧
    (let s : State := State.reset; let p : Fin 8 := 0; Live s ∧ (s.get F.SCHED_JOB_STATE ↑p ≠ 3 ∨ s.paused ↑p = false))) ∧
    ((let s : State := told wRun 0x040A [] 0; let src : Source := .h2d; let c : Cmd := (s.oldest Source.h2d).getD {  }; Starts s src 1034 c ∧ (s.get F.SCHED_JOB_STATE c.target ≠ 4 ∨ ∃ n ∈ (s.part c.target).looms, s.lent c.target n = true)) ∧
    (let s : State := told (wState 4) 0x040A [] 0; let src : Source := .h2d; let c : Cmd := (s.oldest Source.h2d).getD {  }; Starts s src 1034 c ∧ s.get F.SCHED_JOB_STATE c.target = 4 ∧ (∀ n ∈ (s.part c.target).looms, s.lent c.target n = false)) ∧
    (let s : State := withPart (wState 5) { (wState 5).part 0 with paused := [] }; let p : Fin 8 := 0; Live s ∧ s.get F.SCHED_JOB_STATE ↑p = 5 ∧ (s.activeLooms ↑p).length ≠ (s.part ↑p).paused.length)) ∧
    ((let s : State := withPart (wState 5) { (wState 5).part 0 with paused := [0, 1] }; let p : Fin 8 := 0; Live s ∧ s.get F.SCHED_JOB_STATE ↑p = 5 ∧ (s.activeLooms ↑p).length = (s.part ↑p).paused.length) ∧
    (let s : State := State.reset; let p : Fin 8 := 0; Live s ∧ s.get F.SCHED_JOB_STATE ↑p ≠ 5) ∧
    (let s : State := told State.reset 0x040C [4]; let src : Source := .h2d; let c : Cmd := (s.oldest Source.h2d).getD {  }; Starts s src 1036 c ∧ (c.p 1 % 256 = 0 ∨ 3 < c.p 1 % 256 ∨ 512 ≤ c.p 1))) ∧
    ((let s : State := told (State.reset.putBit F.DET_ARITH_PROFILE_LOCK true) 0x040C [3]; let src : Source := .h2d; let c : Cmd := (s.oldest Source.h2d).getD {  }; Starts s src 1036 c ∧ 1 ≤ c.p 1 % 256 ∧ c.p 1 % 256 ≤ 3 ∧ c.p 1 < 512 ∧ s.on F.DET_ARITH_PROFILE_LOCK = true) ∧
    (let s : State := told wRun 0x040C [3]; let src : Source := .h2d; let c : Cmd := (s.oldest Source.h2d).getD {  }; Starts s src 1036 c ∧ 1 ≤ c.p 1 % 256 ∧ c.p 1 % 256 ≤ 3 ∧ c.p 1 < 512 ∧ s.on F.DET_ARITH_PROFILE_LOCK = false ∧ ∃ p < 8, s.get F.SCHED_JOB_STATE p ≠ 0) ∧
    (let s : State := told State.reset 0x040C [0x103]; let src : Source := .h2d; let c : Cmd := (s.oldest Source.h2d).getD {  }; Starts s src 1036 c ∧ 1 ≤ c.p 1 % 256 ∧ c.p 1 % 256 ≤ 3 ∧ c.p 1 < 512 ∧ s.on F.DET_ARITH_PROFILE_LOCK = false ∧ (∀ p < 8, s.get F.SCHED_JOB_STATE p = 0))) :=
  ⟨by unfold Starts Live; decide +kernel,
   by unfold Starts Live; decide +kernel,
   by unfold Starts Live; decide +kernel,
   by unfold Starts Live; decide +kernel,
   by unfold Starts Live; decide +kernel,
   by unfold Starts Live; decide +kernel,
   by unfold Live; decide +kernel,
   by unfold Starts Live; decide +kernel,
   by unfold Starts Live; decide +kernel,
   by unfold Starts Live; decide +kernel⟩

theorem test_witness_Models :
    ((let s : State := told wModel 0x0401 [8, 65]; let src : Source := .h2d; let c : Cmd := (s.oldest Source.h2d).getD {  }; Starts s src 1025 c ∧ (c.p 1 = 0 ∨ (s.model? (c.p 1)).isSome = true ∨ c.p 2 = 0 ∨ c.p 2 % 64 ≠ 0)) ∧
    (let s : State := told wModel 0x0401 [8, 128]; let src : Source := .h2d; let c : Cmd := (s.oldest Source.h2d).getD {  }; let a : ℕ := (s.registrySpace (c.p 2)).getD 0; Starts s src 1025 c ∧ c.p 1 ≠ 0 ∧ s.model? (c.p 1) = none ∧ c.p 2 ≠ 0 ∧ c.p 2 % 64 = 0 ∧ s.registryOk = true ∧ s.sched.loading = none ∧ s.sched.models.length < 1024 ∧ s.registrySpace (c.p 2) = some a) ∧
    (let s : State := withSched (told wModel 0x0401 [8, 128]) { loading := some { src := .h2d, tag := 0, id := 9, len := 64, addr := 0 } }; let src : Source := .h2d; let c : Cmd := (s.oldest Source.h2d).getD {  }; Starts s src 1025 c ∧ c.p 1 ≠ 0 ∧ s.model? (c.p 1) = none ∧ c.p 2 ≠ 0 ∧ c.p 2 % 64 = 0 ∧ s.registryOk = true ∧ s.sched.loading.isSome = true)) ∧
    ((let s : State := told (wModel.put F.SCHED_MODEL_SIZE_SIZE 0) 0x0401 [8, 64]; let src : Source := .h2d; let c : Cmd := (s.oldest Source.h2d).getD {  }; Starts s src 1025 c ∧ c.p 1 ≠ 0 ∧ s.model? (c.p 1) = none ∧ c.p 2 ≠ 0 ∧ c.p 2 % 64 = 0 ∧ s.registryOk = false) ∧
    (let s : State := told wModel 0x0401 [8, 0x7FFFFFC0]; let src : Source := .h2d; let c : Cmd := (s.oldest Source.h2d).getD {  }; Starts s src 1025 c ∧ c.p 1 ≠ 0 ∧ s.model? (c.p 1) = none ∧ c.p 2 ≠ 0 ∧ c.p 2 % 64 = 0 ∧ s.registryOk = true ∧ s.sched.loading = none ∧ (1024 ≤ s.sched.models.length ∨ s.registrySpace (c.p 2) = none)) ∧
    (let s : State := withHost wModel { csiReady := true }; let k : RxPacket := rx [1, 2, 3, 4]; Live s ∧ s.host.csiReady = true ∧ k.header = 0 ∧ k.vc < 4 ∧ k.listed = true ∧ k.crcOk = true)) ∧
    ((let s : State := told wRun 0x0402 [7]; s.sched.loading = none) ∧
    (let s : State := withSched (told wModel 0x0401 [8, 128]) { loading := some { src := .h2d, tag := 0, id := 9, len := 64, addr := 0 } }; let bs : List Byte := []; let o : ℕ := BitVec.toNat (bytesWord (List.drop 4 bs)); let l : RegLoad := { src := Source.h2d, tag := 0, id := 9, len := 64, addr := 0 }; s.sched.loading = some l ∧ (bs.length < 8 ∨ bs.length % 4 ≠ 0 ∨ BitVec.toNat (bytesWord bs) % 2 ^ 16 ≠ l.tag ∨ o % 4 ≠ 0 ∨ l.len < o + (bs.length - 8))) ∧
    (let s : State := withSched wModel { loading := some { src := .h2d, tag := 0, id := 9, len := 4, addr := 0x1000000 } }; let bs : List Byte := List.replicate 12 0; let l : RegLoad := { src := .h2d, tag := 0, id := 9, len := 4, addr := 0x1000000 }; let o : ℕ := BitVec.toNat (bytesWord (List.drop 4 bs)); let m : RegLoad := { l with got := takeAt l.got o (List.drop 8 bs) }; s.sched.loading = some l ∧ 8 ≤ bs.length ∧ bs.length % 4 = 0 ∧ BitVec.toNat (bytesWord bs) % 2 ^ 16 = l.tag ∧ o % 4 = 0 ∧ o + (bs.length - 8) ≤ l.len ∧ List.length m.got = m.len)) ∧
    ((let s : State := withSched wModel { loading := some { src := .h2d, tag := 0, id := 9, len := 8, addr := 0x1000000 } }; let bs : List Byte := List.replicate 12 0; let l : RegLoad := { src := .h2d, tag := 0, id := 9, len := 8, addr := 0x1000000 }; let o : ℕ := BitVec.toNat (bytesWord (List.drop 4 bs)); let m : RegLoad := { l with got := takeAt l.got o (List.drop 8 bs) }; s.sched.loading = some l ∧ 8 ≤ bs.length ∧ bs.length % 4 = 0 ∧ BitVec.toNat (bytesWord bs) % 2 ^ 16 = l.tag ∧ o % 4 = 0 ∧ o + (bs.length - 8) ≤ l.len ∧ List.length m.got ≠ m.len) ∧
    (let s : State := told wModel 0x0402 [9]; let src : Source := .h2d; let c : Cmd := (s.oldest Source.h2d).getD {  }; Starts s src 1026 c ∧ s.model? (c.p 1) = none) ∧
    (let s : State := told wRun 0x0402 [7]; let m : Model := model0 false; let src : Source := .h2d; let c : Cmd := (s.oldest Source.h2d).getD {  }; Starts s src 1026 c ∧ s.model? (c.p 1) = some m ∧ s.modelBusy (c.p 1) = true)) ∧
    ((let s : State := told wModel 0x0402 [7]; let m : Model := { model0 false with addr := 0x1000000 }; let src : Source := .h2d; let c : Cmd := (s.oldest Source.h2d).getD {  }; Starts s src 1026 c ∧ s.model? (c.p 1) = some m ∧ s.modelBusy (c.p 1) = false) ∧
    (let s : State := told wModel 0x0403 [9, 1]; let src : Source := .h2d; let c : Cmd := (s.oldest Source.h2d).getD {  }; Starts s src 1027 c ∧ s.model? (c.p 1) = none) ∧
    (let s : State := told wCold 0x0403 [7, 1]; let m : Model := cold0; let src : Source := .h2d; let c : Cmd := (s.oldest Source.h2d).getD {  }; let t : State := ((s.dropOldest Source.h2d).beginResident (c.p 1)).getD State.reset; Starts s src 1027 c ∧ s.model? (c.p 1) = some m ∧ bitAt (c.p 2) 0 = true ∧ (s.dropOldest src).beginResident (c.p 1) = some t)) ∧
    ((let s : State := told (withSched wModel { models := [{ cold0 with header := [0, 0, 0, 0xFFFFFFFF] }] }) 0x0403 [7, 1]; let m : Model := { cold0 with header := [0, 0, 0, 0xFFFFFFFF] }; let src : Source := .h2d; let c : Cmd := (s.oldest Source.h2d).getD {  }; Starts s src 1027 c ∧ s.model? (c.p 1) = some m ∧ bitAt (c.p 2) 0 = true ∧ (s.dropOldest src).beginResident (c.p 1) = none) ∧
    (let s : State := told wModel 0x0403 [7, 0]; let m : Model := { model0 false with addr := 0x1000000 }; let src : Source := .h2d; let c : Cmd := (s.oldest Source.h2d).getD {  }; Starts s src 1027 c ∧ s.model? (c.p 1) = some m ∧ bitAt (c.p 2) 0 = false) ∧
    (let s : State := wUnit true; let m : Model := unit0 true; let id : ℕ := 7; let k : ℕ := m.slot.getD 0; Live s ∧ s.model? id = some m ∧ m.slot = some k ∧ m.resident = true ∧ s.startingWith id = [] ∧ s.pinWaits id = false)) ∧
    ((let s : State := wUnit false; let m : Model := unit0 false; let id : ℕ := 7; let k : ℕ := m.slot.getD 0; Live s ∧ s.model? id = some m ∧ m.slot = some k ∧ m.resident = false) ∧
    (let s : State := withPart wCommit { wCommit.part 0 with learn := { commits := [{ id := 7, par := some [] }] } }; let id : ℕ := 0; Live s ∧ (s.model? id = none ∨ ∃ m, s.model? id = some m ∧ m.slot = none)) ∧
    (let s : State := State.reset; let id : ℕ := 0; Live s ∧ s.model? id = none)) ∧
    ((let s : State := wUnit true; let m : Model := unit0 true; let id : ℕ := 7; let unit : ℕ := 0; Live s ∧ s.model? id = some m ∧ (m.resident = false ∨ m.units.length ≤ unit ∨ tget? s.mem.met (m.units.getD unit 0) = none)) ∧
    (let s : State := { wUnit true with mem := { met := [(5, ())] } }; let m : Model := unit0 true; let id : ℕ := 7; let unit : ℕ := 0; Live s ∧ s.model? id = some m ∧ m.resident = true ∧ unit < m.units.length ∧ (tget? s.mem.met (m.units.getD unit 0)).isSome = true) ∧
    (let s : State := told wCommit 0x040B [0] 0; let src : Source := .h2d; let c : Cmd := (s.oldest Source.h2d).getD {  }; Starts s src 1035 c ∧ c.p 1 = 0)) ∧
    ((let s : State := told wRun 0x040B [9] 0; let src : Source := .h2d; let c : Cmd := (s.oldest Source.h2d).getD {  }; Starts s src 1035 c ∧ c.p 1 ≠ 0 ∧ (s.role = 2 ∨ s.jobModel c.target = none ∨ (s.part c.target).learning = false ∨ s.get F.SCHED_JOB_STATE c.target = 1 ∨ s.get F.SCHED_LEARN_STEPS_STEPS c.target = 0 ∨ (s.model? (c.p 1)).isSome = true)) ∧
    (let s : State := told (wCommit.put F.SCHED_MODEL_SIZE_SIZE 0) 0x040B [9] 0; let m : Model := { model0 true with addr := 0x1000000 }; let src : Source := .h2d; let c : Cmd := (s.oldest Source.h2d).getD {  }; Starts s src 1035 c ∧ c.p 1 ≠ 0 ∧ s.role ≠ 2 ∧ s.jobModel c.target = some m ∧ (s.part c.target).learning = true ∧ s.get F.SCHED_JOB_STATE c.target ≠ 1 ∧ s.get F.SCHED_LEARN_STEPS_STEPS c.target ≠ 0 ∧ s.model? (c.p 1) = none ∧ (1024 ≤ s.sched.models.length ∨ s.registrySpace m.len = none ∨ (s.dropOldest src).placeModel m 66 = none)) ∧
    (let s : State := told wCommit 0x040B [9] 0; let m : Model := { model0 true with addr := 0x1000000 }; let k : Commit := { id := 9, par := some [] }; let src : Source := .h2d; let c : Cmd := (s.oldest Source.h2d).getD {  }; Starts s src 1035 c ∧ c.p 1 ≠ 0 ∧ s.role ≠ 2 ∧ s.jobModel c.target = some m ∧ (s.part c.target).learning = true ∧ s.get F.SCHED_JOB_STATE c.target ≠ 1 ∧ s.get F.SCHED_LEARN_STEPS_STEPS c.target ≠ 0 ∧ s.model? (c.p 1) = none ∧ s.sched.models.length < 1024 ∧ (s.registrySpace m.len).isSome = true ∧ ((s.dropOldest src).placeModel m 66).isSome = true ∧ k.id = c.p 1 ∧ k.par = if (s.part c.target).learn.running = true then none else some (s.part c.target).learn.working)) ∧
    ((let s : State := withPart wCommit { wCommit.part 0 with learn := { commits := [{ id := 7, par := some [] }] } }; let k : Commit := { id := 7, par := some [] }; let lps : List LearnPar := []; let p : Fin 8 := 0; Live s ∧ (s.part ↑p).learn.commits.head? = some k ∧ k.par = some lps) ∧
    (let s : State := withPart wCommit { wCommit.part 0 with learn := { commits := [{ id := 7, par := none }] } }; let k : Commit := { id := 7, par := none }; let p : Fin 8 := 0; Live s ∧ (s.part ↑p).learn.commits.head? = some k ∧ k.par = none) ∧
    (let s : State := State.reset; let p : Fin 8 := 0; Live s ∧ (s.part ↑p).learn.commits = [])) :=
  ⟨by unfold Starts Live; decide +kernel,
   by unfold Starts Live; decide +kernel,
   by decide +kernel,
   by unfold Starts Live; decide +kernel,
   by unfold Starts Live; decide +kernel,
   by unfold Starts Live; decide +kernel,
   by unfold Live; decide +kernel,
   by unfold Starts Live; decide +kernel,
   by unfold Starts Live; decide +kernel,
   by unfold Live; decide +kernel⟩

theorem test_witness_LearnAndStatRegisters :
    ((let s : State := State.reset; let v : Word := 0; Live s ∧ hyperOk 4 (BitVec.toNat v) = true) ∧
    (let s : State := State.reset; let v : Word := 0; Live s ∧ hyperOk 8 (BitVec.toNat v) = true) ∧
    (let s : State := State.reset; let p : Fin 8 := 0; Live s ∧ s.learns ↑p = false)) ∧
    ((let s : State := (State.reset.put F.QUANT_STAT_BASE_BASE 0x210000 0).put F.QUANT_STAT_SIZE_SIZE 1 0; let v : Word := 2; let p : Fin 8 := 0; Live s ∧ (s.learns ↑p = false ∨ bitsOf (BitVec.toNat v) 16 9 = s.get F.SCHED_LEARN_CTRL_BATCH ↑p)) ∧
    (let off : ℕ := 28; let s : State := State.reset; Live s ∧ off ∉ [0, 4, 8, 12, 16, 20, 24]) ∧
    (let v : Word := 0x3F800000; let s : State := State.reset; Live s ∧ hyperOk 16 (BitVec.toNat v) = true)) ∧
    ((let off : ℕ := 0x08; let v : Word := 0x3F800000; let s : State := State.reset; Live s ∧ (off = 4 ∨ off = 8 ∨ off = 12 ∨ off = 16) ∧ hyperOk off (BitVec.toNat v) = false) ∧
    (let s : State := wJob true; let off : ℕ := 0x18; let p : Fin 8 := 0; Live s ∧ (off = 20 ∨ off = 24) ∧ s.learns ↑p = true) ∧
    (let s : State := wJob true; let v : Word := 0x50000; let p : Fin 8 := 0; Live s ∧ s.learns ↑p = true ∧ bitsOf (BitVec.toNat v) 16 9 ≠ s.get F.SCHED_LEARN_CTRL_BATCH ↑p)) ∧
    ((let s : State := (State.reset.put F.QUANT_STAT_BASE_BASE 0x210000 0).put F.QUANT_STAT_SIZE_SIZE 1 0; let v : Word := 2; let p : Fin 8 := 0; Live s ∧ s.reg R.QUANT_STAT_CTRL ↑p % 4 = 0 ∧ BitVec.toNat v % 4 ≠ 0 ∧ s.ringPlaced (s.ringArea ↑p) = true) ∧
    (let v : Word := 1; let s : State := State.reset; let p : Fin 8 := 0; Live s ∧ s.reg R.QUANT_STAT_CTRL ↑p % 4 = 0 ∧ BitVec.toNat v % 4 ≠ 0 ∧ s.ringPlaced (s.ringArea ↑p) = false) ∧
    (let s : State := State.reset; let p : Fin 8 := 0; let v : Word := 0; Live s ∧ (s.reg R.QUANT_STAT_CTRL ↑p % 4 ≠ 0 ∨ BitVec.toNat v % 4 = 0))) ∧
    ((let s : State := wRun.putBit F.QUANT_CALIB_CTRL_EN true 0; let p : Fin 8 := 0; Live s ∧ s.on F.QUANT_CALIB_CTRL_EN ↑p = true) ∧
    (let s : State := State.reset; let p : Fin 8 := 0; Live s ∧ s.on F.QUANT_CALIB_CTRL_EN ↑p = false ∧ s.calibOk ↑p = false) ∧
    (let s : State := (wRun.put F.QUANT_CALIB_BASE_BASE 0x210100 0).put F.QUANT_CALIB_SIZE_SIZE 1 0; let p : Fin 8 := 0; Live s ∧ s.on F.QUANT_CALIB_CTRL_EN ↑p = false ∧ s.calibOk ↑p = true)) :=
  ⟨by unfold Live; decide +kernel,
   by unfold Live; decide +kernel,
   by unfold Live; decide +kernel,
   by unfold Live; decide +kernel,
   by unfold Live; decide +kernel⟩

theorem test_witness_LoomInstructions :
    ((let s : State := wLoom; let n : Fin 64 := 3; let e : Fin 4 := 2; let ws : List Word := [3]; let st : ℕ := (wLoom.loom ↑n).nextCmd ↑e; Live s ∧ fld ws 0 0 4 = 3 ∧ s.frozen ↑n = false ∧ ((s.loom ↑n).queue ↑e).length < 512 ∧ st < (s.loom ↑n).base + (s.loom ↑n).cmds.length) ∧
    (let s : State := wLoom; let n : Fin 64 := 3; let e : Fin 4 := 2; let ws : List Word := [1]; let st : ℕ := (wLoom.loom ↑n).nextCmd ↑e; Live s ∧ fld ws 0 0 4 = 1 ∧ s.frozen ↑n = false ∧ ((s.loom ↑n).queue ↑e).length < 512 ∧ st < (s.loom ↑n).base + (s.loom ↑n).cmds.length) ∧
    (let s : State := wLoom; let n : Fin 64 := 3; let e : Fin 4 := 2; let ws : List Word := [2]; let st : ℕ := (wLoom.loom ↑n).nextCmd ↑e; Live s ∧ fld ws 0 0 4 = 2 ∧ s.frozen ↑n = false ∧ ((s.loom ↑n).queue ↑e).length < 512 ∧ st < (s.loom ↑n).base + (s.loom ↑n).cmds.length)) ∧
    ((let s : State := wLoom; let n : Fin 64 := 3; let e : Fin 4 := 2; let ws : List Word := [4]; let st : ℕ := (wLoom.loom ↑n).nextCmd ↑e; Live s ∧ fld ws 0 0 4 = 4 ∧ s.frozen ↑n = false ∧ ((s.loom ↑n).queue ↑e).length < 512 ∧ st < (s.loom ↑n).base + (s.loom ↑n).cmds.length) ∧
    (let s : State := wLoom; let n : Fin 64 := 3; let e : Fin 4 := 2; let ws : List Word := [5]; let st : ℕ := (wLoom.loom ↑n).nextCmd ↑e; Live s ∧ fld ws 0 0 4 = 5 ∧ s.frozen ↑n = false ∧ ((s.loom ↑n).queue ↑e).length < 512 ∧ st < (s.loom ↑n).base + (s.loom ↑n).cmds.length) ∧
    (let s : State := wLoom; let n : Fin 64 := 3; let e : Fin 4 := 2; let ws : List Word := [6]; let st : ℕ := (wLoom.loom ↑n).nextCmd ↑e; Live s ∧ fld ws 0 0 4 = 6 ∧ s.frozen ↑n = false ∧ ((s.loom ↑n).queue ↑e).length < 512 ∧ st < (s.loom ↑n).base + (s.loom ↑n).cmds.length)) ∧
    ((let s : State := wLoom; let n : Fin 64 := 3; let e : Fin 4 := 2; let ws : List Word := [8]; let st : ℕ := (wLoom.loom ↑n).nextCmd ↑e; Live s ∧ fld ws 0 0 4 = 8 ∧ s.frozen ↑n = false ∧ ((s.loom ↑n).queue ↑e).length < 512 ∧ st < (s.loom ↑n).base + (s.loom ↑n).cmds.length) ∧
    (let s : State := wLoom; let n : Fin 64 := 3; let e : Fin 4 := 2; let ws : List Word := [9]; let st : ℕ := (wLoom.loom ↑n).nextCmd ↑e; Live s ∧ fld ws 0 0 4 = 9 ∧ s.frozen ↑n = false ∧ ((s.loom ↑n).queue ↑e).length < 512 ∧ st < (s.loom ↑n).base + (s.loom ↑n).cmds.length) ∧
    (let s : State := wLoom; let n : Fin 64 := 3; let e : Fin 4 := 2; let ws : List Word := [10]; let st : ℕ := (wLoom.loom ↑n).nextCmd ↑e; Live s ∧ fld ws 0 0 4 = 10 ∧ s.frozen ↑n = false ∧ ((s.loom ↑n).queue ↑e).length < 512 ∧ st < (s.loom ↑n).base + (s.loom ↑n).cmds.length)) ∧
    ((let s : State := wLoom; let n : Fin 64 := 3; let e : Fin 4 := 2; let ws : List Word := [11]; let st : ℕ := (wLoom.loom ↑n).nextCmd ↑e; Live s ∧ fld ws 0 0 4 = 11 ∧ s.frozen ↑n = false ∧ ((s.loom ↑n).queue ↑e).length < 512 ∧ st < (s.loom ↑n).base + (s.loom ↑n).cmds.length) ∧
    (let s : State := wLoom; let n : Fin 64 := 3; let e : Fin 4 := 2; let ws : List Word := [12]; let st : ℕ := (wLoom.loom ↑n).nextCmd ↑e; Live s ∧ fld ws 0 0 4 = 12 ∧ s.frozen ↑n = false ∧ ((s.loom ↑n).queue ↑e).length < 512 ∧ st < (s.loom ↑n).base + (s.loom ↑n).cmds.length) ∧
    (let n : Fin 64 := 3; let e : Fin 4 := 0; let ws : List Word := []; let aux : Aux := {  }; let y : Instr × ℕ := (.wload 3 0 [] {  }, 3); let s : State := State.reset; Live s ∧ y ∈ [(Instr.wload n e ws aux, 3), (Instr.mm n e ws aux, 1), (Instr.mmt n e ws aux, 2), (Instr.conv n e ws aux, 4), (Instr.dw n e ws aux, 5), (Instr.vprog n e ws aux, 6), (Instr.lfetch n e ws aux, 8), (Instr.shuttle n e ws aux, 9), (Instr.signal n e ws aux, 10), (Instr.wait n e ws aux, 11), (Instr.endInstr n e ws aux, 12)] ∧ (s.frozen ↑n = true ∨ 512 ≤ ((s.loom ↑n).queue ↑e).length ∨ fld ws 0 0 4 ≠ y.2 ∨ (s.loom ↑n).base + (s.loom ↑n).cmds.length ≤ max (s.loom ↑n).base (tgetD (s.loom ↑n).fetched (↑e) 0)))) ∧
    ((let l : Loom := { tags := [(5, flying)] }; let e : ℕ := 2; let t : ℕ := 5; let q : QIns := { words := [0xB, 5] }; q.aux.blind = false ∧ engineRuns e q = true ∧ q.kind = 0xB ∧ q.uses = some t ∧ l.complete t = false) ∧
    (let l : Loom := { tags := [(5, flying)] }; let e : ℕ := 1; let q : QIns := { words := [0x19, 5] }; q.aux.blind = false ∧ engineRuns e q = true ∧ q.takes = true ∧ (tget? l.tags q.tag).isSome = true) ∧
    (let l : Loom := { tags := [(1, farTag), (2, farTag), (3, farTag), (4, farTag)] }; let e : ℕ := 1; let q : QIns := { words := [0x59, 5] }; q.aux.blind = false ∧ engineRuns e q = true ∧ q.remote = true ∧ 4 ≤ l.outstanding.length)) ∧
    ((let s : State := (withLoom { queues := [(2, [{ words := [1] }])] }).setReg R.SCHED_FENCE_MAP_LO 8; let n : ℕ := 3; let e : ℕ := 2; let q : QIns := { words := [1] }; let rest : List QIns := []; (s.loom n).queue e = q :: rest ∧ s.frozen n = true) ∧
    (let q : QIns := { words := [1], aux := { poison := true } }; q.aux.poison = true) ∧
    (let s : State := State.reset.put F.LOOM_ENG_STAT_STATUS 4 3; let n : ℕ := 3; s.get F.LOOM_ENG_STAT_STATUS n ≠ 0)) ∧
    ((let n : Fin 64 := 3; let st : Status := .poisoned; let s : State := State.reset; st ≠ Status.done ∧ s.get F.LOOM_ENG_STAT_STATUS ↑n = 0) ∧
    (let s : State := withLoom { tags := [(5, flying)] }; let n : ℕ := 3; let t : ℕ := 5; let x : Tag := flying; tget? (s.loom n).tags t = some x ∧ x.consumers ≠ 0) ∧
    (let l : Loom := { tags := [(5, landed)] }; let t : ℕ := 5; let x : Tag := landed; tsorted l.tags = true ∧ tget? l.tags t = some x ∧ x.consumers = 1 ∧ x.status.isSome = true)) ∧
    ((let q : QIns := { words := [1] }; (mmIns q.words).ok q.words q.aux = false) ∧
    (let q : QIns := { words := [1] }; (convIns q.words).ok q.words q.aux = false)) :=
  ⟨by unfold Live; decide +kernel,
   by unfold Live; decide +kernel,
   by unfold Live; decide +kernel,
   by unfold Live; decide +kernel,
   by decide +kernel,
   by decide +kernel,
   by decide +kernel,
   by decide +kernel⟩

theorem test_witness_LoomTransfers :
    ((let s : State := withLoom { tags := [(5, { flying with words := [0x19, 5, 0, 0x20, 0, 0, 64, 0] })] }; let n : Fin 64 := 3; let t : Fin 2048 := 5; let x : Tag := { flying with words := [0x19, 5, 0, 0x20, 0, 0, 64, 0] }; Live s ∧ tget? (s.loom ↑n).tags ↑t = some x ∧ x.status = none ∧ x.signal = false ∧ x.remote = none) ∧
    (let n : Fin 64 := 3; let t : Fin 2048 := 5; let s : State := State.reset; Live s ∧ (∀ (x : Tag), tget? (s.loom ↑n).tags ↑t = some x → x.status ≠ none ∨ x.signal = true ∨ x.remote ≠ none)) ∧
    (let lost : List ℕ := [0]; let d : Data := [some 1]; let i : ℕ := 0; i < List.length d ∧ i / 8 ∈ lost)) ∧
    ((let lost : List ℕ := []; let d : Data := [some 1]; let i : ℕ := 0; i < List.length d ∧ i / 8 ∉ lost) ∧
    (let s : State := withFrame wUp (frame 3 [0x1000, 0x400000]); let f : RzFrame := frame 3 [0x1000, 0x400000]; let len : ℕ := 64 * bitsOf (f.word 1) 8 7; Frames s 3 f ∧ (len = 0 ∨ (s.consume f).requestOk (f.word 0 + 2 ^ 32 * bitsOf (f.word 1) 0 8) len = false)) ∧
    (let s : State := withFrame (((wUp.put F.TWIN_REMOTE_SIZE_SIZE 1).put F.MEM_DDR_CFG_CAPACITY 1).putBit F.MEM_WIPE_STAT_DDR_DONE true) (frame 3 [0x1000, 0x30100]); let f : RzFrame := frame 3 [0x1000, 0x30100]; let a : ℕ := f.word 0 + 2 ^ 32 * bitsOf (f.word 1) 0 8; let len : ℕ := 64 * bitsOf (f.word 1) 8 7; Frames s 3 f ∧ len ≠ 0 ∧ (s.consume f).requestOk a len = true)) ∧
    ((let s : State := withFrame (withLoom { tags := [(5, farTag)] }) (frame 4 (requestWords 3 2 farTag.words ++ [0, 0] ++ List.replicate 16 7)); let f : RzFrame := frame 4 (requestWords 3 2 farTag.words ++ [0, 0] ++ List.replicate 16 7); Frames s 4 f) ∧
    (let s : State := withLoom { tags := [(5, farTag)] }; let n : ℕ := 3; let f : RzFrame := frame 1 []; (s.loom n).awaiting n f = none ∧ (s.savedTag n fun l => l.awaiting n f) = none) ∧
    (let s : State := withLoom { tags := [(5, farTag)] }; let n : ℕ := 3; let t : ℕ := 5; let f : RzFrame := frame 4 (requestWords 3 2 farTag.words ++ [0, 0] ++ List.replicate 16 7); s.frozen n = false ∧ (s.loom n).awaiting n f = some t ∧ f.word 2 % 256 = 0)) ∧
    ((let s : State := withFrame (withSched (withLoom { tags := [(5, farTag)] }) { parts := [(0, { looms := [3] })] }) (frame 4 (requestWords 3 2 farTag.words ++ [0, 0])); let p : Fin 8 := 0; let n : Fin 64 := 3; let t : Fin 2048 := 5; Live s ∧ s.responseIn ↑p ↑n ↑t = true) ∧
    (let s : State := withSched (withLoom { tags := [(5, farTag)] }) { parts := [(0, { looms := [3] })] }; let p : Fin 8 := 0; let n : Fin 64 := 3; let t : Fin 2048 := 5; let x : Tag := farTag; Live s ∧ s.responseIn ↑p ↑n ↑t = false ∧ tget? (s.part ↑p).saved ↑n = none ∧ s.holderOf ↑n = some ↑p ∧ tget? (s.loom ↑n).tags ↑t = some x ∧ x.far = true ∧ s.frozen ↑n = false) ∧
    (let s : State := (withSched (withLoom { tags := [(5, farTag)] }) { parts := [(0, { looms := [3] })] }).setReg R.SCHED_FENCE_MAP_LO 8; let p : Fin 8 := 0; let n : Fin 64 := 3; let t : Fin 2048 := 5; let x : Tag := farTag; Live s ∧ s.responseIn ↑p ↑n ↑t = false ∧ tget? (s.part ↑p).saved ↑n = none ∧ s.holderOf ↑n = some ↑p ∧ tget? (s.loom ↑n).tags ↑t = some x ∧ x.far = true ∧ s.frozen ↑n = true)) ∧
    ((let s : State := withSched (withLoom { tags := [(5, flying)] }) { parts := [(0, { looms := [3] })] }; let p : Fin 8 := 0; let n : Fin 64 := 3; let t : Fin 2048 := 6; Live s ∧ s.responseIn ↑p ↑n ↑t = false ∧ tget? (s.part ↑p).saved ↑n = none ∧ s.holderOf ↑n = some ↑p ∧ (∀ (x : Tag), tget? (s.loom ↑n).tags ↑t = some x → x.far = false)) ∧
    (let s : State := State.reset; let p : Fin 8 := 0; let n : Fin 64 := 0; let t : Fin 2048 := 0; Live s ∧ s.responseIn ↑p ↑n ↑t = false ∧ tget? (s.part ↑p).saved ↑n = none ∧ s.holderOf ↑n ≠ some ↑p) ∧
    (let s : State := withSched State.reset { parts := [(0, { looms := [3], saved := [(3, { tags := [(5, flying)] })] })] }; let p : Fin 8 := 0; let n : Fin 64 := 3; let t : Fin 2048 := 5; let l : Loom := { tags := [(5, flying)] }; Live s ∧ s.responseIn ↑p ↑n ↑t = false ∧ tget? (s.part ↑p).saved ↑n = some l ∧ Option.any Tag.far (tget? l.tags ↑t) = false)) ∧
    ((let s : State := withSched State.reset { parts := [(0, { looms := [3], saved := [(3, { tags := [(5, farTag)] })] })] }; let p : Fin 8 := 0; let n : Fin 64 := 3; let t : Fin 2048 := 5; let l : Loom := { tags := [(5, farTag)] }; Live s ∧ s.responseIn ↑p ↑n ↑t = false ∧ tget? (s.part ↑p).saved ↑n = some l ∧ Option.any Tag.far (tget? l.tags ↑t) = true) ∧
    (let s : State := State.reset.setReg R.SCHED_FENCE_MAP_LO 8; let n : ℕ := 3; s.fenced n = true) ∧
    (let s : State := State.reset; let n : ℕ := 0; s.fenced n = false)) ∧
    ((let s : State := State.reset; let n : Fin 64 := 0; s.fenced ↑n = false ∧ s.splits = []) ∧
    (let s : State := State.reset.setReg R.SCHED_FENCE_MAP_LO 8; let n : Fin 64 := 4; let m : ℕ := 0; s.fenced ↑n = false ∧ s.splits = [] ∧ m < 64 ∧ m ≠ ↑n) ∧
    (let s : State := { State.reset with splits := [4] }; let n : Fin 64 := 3; s.splits.contains (if ↑n < 32 then 4 else 5) = true)) :=
  ⟨by unfold Live; decide +kernel,
   by unfold Frames Live; decide +kernel,
   by unfold Frames Live; decide +kernel,
   by unfold Live; decide +kernel,
   by unfold Live; decide +kernel,
   by unfold Live; decide +kernel,
   by decide +kernel⟩

theorem test_witness_WipeAndFill :
    ((let s : State := State.reset; Live s ∧ s.on F.MEM_WIPE_STAT_SRAM_DONE = false) ∧
    (let s : State := wWiped; Live s ∧ s.on F.MEM_WIPE_STAT_SRAM_DONE = true) ∧
    (let s : State := State.reset.put F.MEM_DDR_CFG_CAPACITY 1; Live s ∧ s.on F.MEM_DDR_CFG_TRAINED = false ∧ s.capacity ≠ 0)) ∧
    ((let s : State := State.reset.putBit F.MEM_DDR_CFG_TRAINED true; Live s ∧ (s.on F.MEM_DDR_CFG_TRAINED = true ∨ s.capacity = 0)) ∧
    (let s : State := (State.reset.put F.MEM_DDR_CFG_CAPACITY 1).putBit F.MEM_WIPE_STAT_DDR_RUN true; let k : ℕ := s.get F.MEM_WIPE_MARK_MARK; Live s ∧ s.on F.MEM_WIPE_STAT_DDR_RUN = true ∧ (k + 1) * 2 ^ 20 < s.capacity) ∧
    (let s : State := ((State.reset.put F.MEM_DDR_CFG_CAPACITY 1).put F.MEM_WIPE_MARK_MARK 1023).putBit F.MEM_WIPE_STAT_DDR_RUN true; let k : ℕ := 1023; Live s ∧ s.on F.MEM_WIPE_STAT_DDR_RUN = true ∧ k = s.get F.MEM_WIPE_MARK_MARK ∧ s.capacity ≤ (k + 1) * 2 ^ 20 ∧ s.mem.held = [])) ∧
    ((let s : State := { doing wWiped 0x0503 [0, 0x21, 128, 5] with fills := [{ src := .h2d, addr := 0x2100000000, left := 128, done := 128, pattern := 5 }] }; Live s ∧ s.on F.MEM_WIPE_STAT_DDR_RUN = false) ∧
    (let s : State := told wWiped 0x0503 [0x20, 0, 64, 5]; let src : Source := .h2d; let c : Cmd := (s.oldest Source.h2d).getD {  }; let a : ℕ := c.p 1 + 2 ^ 32 * bitsOf (c.p 2) 0 8; Starts s src 1283 c ∧ (a % 64 ≠ 0 ∨ c.p 3 % 64 ≠ 0 ∨ s.region a = Region.block ∨ s.region a = Region.unmapped)) ∧
    (let s : State := told wWiped 0x0503 [0, 0x21, 128, 5]; let src : Source := .h2d; let c : Cmd := (s.oldest Source.h2d).getD {  }; let a : ℕ := c.p 1 + 2 ^ 32 * bitsOf (c.p 2) 0 8; Starts s src 1283 c ∧ a % 64 = 0 ∧ c.p 3 % 64 = 0 ∧ s.region a ≠ Region.block ∧ s.region a ≠ Region.unmapped)) ∧
    ((let s : State := { doing wWiped 0x0503 [0, 0x21, 128, 5] with fills := [{ src := .h2d, addr := 0x2100000000, left := 128, done := 128, pattern := 5 }] }; let f : Fill := { src := .h2d, addr := 0x2100000000, left := 128, done := 128, pattern := 5 }; let q : List Fill := []; let e : Source × Cmd := (.h2d, { opcode := 0x0503, params := [0, 0x21, 128, 5] }); let r : State × ℕ := State.fillChunks (doing wWiped 0x0503 [0, 0x21, 128, 5]) 5 2 0x2100000000 0; Live s ∧ s.fills = f :: q ∧ r = ({ s with fills := q } : State).fillChunks f.pattern (f.left / 64) f.addr 0 ∧ List.find? (fun e => e.1 == f.src && e.2.opcode == 1283) r.1.host.running = some e) ∧
    (let s : State := { wWiped with fills := [{ src := .h2d, addr := 0x2100000000, left := 128, done := 128, pattern := 5 }] }; let f : Fill := { src := .h2d, addr := 0x2100000000, left := 128, done := 128, pattern := 5 }; let q : List Fill := []; let r : State × ℕ := State.fillChunks wWiped 5 2 0x2100000000 0; Live s ∧ s.fills = f :: q ∧ r = ({ s with fills := q } : State).fillChunks f.pattern (f.left / 64) f.addr 0 ∧ List.find? (fun e => e.1 == f.src && e.2.opcode == 1283) r.1.host.running = none) ∧
    (let s : State := State.reset; Live s ∧ s.fills = [])) :=
  ⟨by unfold Live; decide +kernel,
   by unfold Live; decide +kernel,
   by unfold Starts Live; decide +kernel,
   by unfold Live; decide +kernel⟩

theorem test_witness_ScrubAndSplit :
    ((let s : State := told State.reset 0x0504 [4001, 1]; let src : Source := .h2d; let c : Cmd := (s.oldest Source.h2d).getD {  }; Starts s src 1284 c ∧ (4000 < c.p 1 ∨ c.p 2 = 0 ∨ 255 < c.p 2)) ∧
    (let s : State := told State.reset 0x0504 [4000, 255]; let src : Source := .h2d; let c : Cmd := (s.oldest Source.h2d).getD {  }; Starts s src 1284 c ∧ c.p 1 ≤ 4000 ∧ 1 ≤ c.p 2 ∧ c.p 2 ≤ 255) ∧
    (let s : State := State.put (State.put (State.put wWiped F.SCRUB_RATE_MBPS 500) F.SCRUB_DEBT_MAX_MAX 8) F.MEM_DDR_CFG_CAPACITY 1; let k : ℕ := s.scrubTarget s.scrub.ddr; Live s ∧ s.fenceDue = [] ∧ s.on F.MEM_WIPE_STAT_DDR_DONE = true ∧ s.get F.SCRUB_RATE_MBPS ≠ 0 ∧ s.capacity ≠ 0 ∧ tgetD s.scrub.debt k 0 < s.get F.SCRUB_DEBT_MAX_MAX)) ∧
    ((let s : State := State.put (State.put (State.put wWiped F.SCRUB_RATE_MBPS 500) F.SCRUB_DEBT_MAX_MAX 8) F.MEM_DDR_CFG_CAPACITY 1; Live s ∧ s.fenceDue = [] ∧ s.on F.MEM_WIPE_STAT_DDR_DONE = true ∧ s.get F.SCRUB_RATE_MBPS ≠ 0 ∧ tgetD s.scrub.debt (s.scrubTarget s.scrub.ddr) 0 < s.get F.SCRUB_DEBT_MAX_MAX ∧ s.scrub.ddr + 64 < s.capacity ∧ s.scrub.ddr < 137438953472 ∧ (s.mem.good s.scrub.ddr = true ∨ tget? s.mem.clean s.scrub.ddr = none) ∧ tget? s.mem.flaws s.scrub.ddr = none) ∧
    (let s : State := { State.put (State.put (State.put wWiped F.SCRUB_RATE_MBPS 500) F.SCRUB_DEBT_MAX_MAX 8) F.MEM_DDR_CFG_CAPACITY 1 with scrub := { debt := [(0, 8), (64, 8)] } }; let k : ℕ := (({ ((wWiped.put F.SCRUB_RATE_MBPS 500).put F.SCRUB_DEBT_MAX_MAX 8).put F.MEM_DDR_CFG_CAPACITY 1 with scrub := { debt := [(0, 8), (64, 8)] } } : State)).scrubTarget (({ ((wWiped.put F.SCRUB_RATE_MBPS 500).put F.SCRUB_DEBT_MAX_MAX 8).put F.MEM_DDR_CFG_CAPACITY 1 with scrub := { debt := [(0, 8), (64, 8)] } } : State)).scrub.ddr; Live s ∧ s.fenceDue = [] ∧ s.on F.MEM_WIPE_STAT_DDR_DONE = true ∧ s.get F.SCRUB_RATE_MBPS ≠ 0 ∧ s.get F.SCRUB_DEBT_MAX_MAX ≤ tgetD s.scrub.debt k 0 ∧ s.scrub.ddr + 64 < s.capacity ∧ s.scrub.ddr < 137438953472 ∧ (s.mem.good s.scrub.ddr = true ∨ tget? s.mem.clean s.scrub.ddr = none) ∧ tget? s.mem.flaws s.scrub.ddr = none) ∧
    (let s : State := State.reset; Live s ∧ (s.get F.SCRUB_RATE_MBPS = 0 ∨ s.capacity = 0 ∨ s.on F.MEM_WIPE_STAT_DDR_DONE = false))) ∧
    ((let s : State := State.reset; Live s ∧ (s.get F.SCRUB_SRAM_PERIOD_S = 0 ∨ s.on F.MEM_WIPE_STAT_SRAM_DONE = false)) ∧
    (let s : State := State.put (State.put wWiped F.SCRUB_SRAM_PERIOD_S 5) F.SCRUB_DEBT_MAX_MAX 8; let k : ℕ := s.scrubTarget (s.skipFenced 64 s.scrub.sram); Live s ∧ s.fenceDue = [] ∧ s.on F.MEM_WIPE_STAT_SRAM_DONE = true ∧ s.get F.SCRUB_SRAM_PERIOD_S ≠ 0 ∧ tgetD s.scrub.debt k 0 < s.get F.SCRUB_DEBT_MAX_MAX) ∧
    (let s : State := { State.put (State.put wWiped F.SCRUB_SRAM_PERIOD_S 5) F.SCRUB_DEBT_MAX_MAX 8 with scrub := { sram := 0x2200000000 } }; let g : ℕ := (({ (wWiped.put F.SCRUB_SRAM_PERIOD_S 5).put F.SCRUB_DEBT_MAX_MAX 8 with scrub := { sram := 146028888064 } } : State)).skipFenced 64 (({ (wWiped.put F.SCRUB_SRAM_PERIOD_S 5).put F.SCRUB_DEBT_MAX_MAX 8 with scrub := { sram := 146028888064 } } : State)).scrub.sram; Live s ∧ s.fenceDue = [] ∧ s.on F.MEM_WIPE_STAT_SRAM_DONE = true ∧ s.get F.SCRUB_SRAM_PERIOD_S ≠ 0 ∧ tgetD s.scrub.debt (s.scrubTarget g) 0 < s.get F.SCRUB_DEBT_MAX_MAX ∧ tget? s.mem.flaws g = none ∧ (s.mem.good g = true ∨ tget? s.mem.clean g = none ∧ s.region g ≠ Region.cache) ∧ passStart (s.skipFenced 64 (nextSram g)) = false)) ∧
    ((let s : State := { State.reset with splits := [4] }; Live s ∧ s.copies = []) ∧
    (let u : Upset := { word := 6, copy := 0, flip := 1 }; let s : State := State.reset; Live s ∧ s.copies = [] ∧ (↑u.word < 45 ∨ s.die.powered = true) ∧ u.flip &&& BitVec.ofNat 32 (critMask ↑u.word) ≠ 0) ∧
    (let w : Fin 48 := 6; let f : BitVec 32 := 1; let g : BitVec 32 := 2; let m : BitVec 32 := BitVec.ofNat 32 (critMask ↑w); let s : State := State.reset; Live s ∧ s.copies = [] ∧ (↑w < 45 ∨ s.die.powered = true) ∧ f &&& m ≠ 0 ∧ g &&& m ≠ 0 ∧ f &&& m ≠ g &&& m)) ∧
    ((let w : Fin 48 := 6; let f : BitVec 32 := 1; let m : BitVec 32 := f &&& BitVec.ofNat 32 (critMask ↑w); let s : State := State.reset; s.copies = [] ∧ ↑w < 45 ∧ m ≠ 0) ∧
    (let s : State := { State.reset with copies := [(4, { a := 1 })] }; let w : ℕ := 4; let x : Copies := { a := 1 }; tget? s.copies w = some x ∧ x.vote ≠ none) ∧
    (let s : State := { State.reset with copies := [(4, { a := 1, b := 2 })] }; let w : ℕ := 4; let x : Copies := { a := 1, b := 2 }; tget? s.copies w = some x ∧ x.vote = none)) ∧
    ((let r : Reg := R.LC_STATE; let w : ℕ := 0; let s : State := State.reset; let i : ℕ := 0; let j : ℕ := 0; critWord r i = some w ∧ tget? s.latch (r.addr i j) = none) ∧
    (let s : State := { State.reset with splits := [4] }; let w : ℕ := 4; s.splitWord w = true) ∧
    (let s : State := State.reset; let w : Fin 48 := 0; s.splitWord ↑w = false ∧ (∀ p < 8, s.get F.SCHED_JOB_STATE p = 0) ∧ s.isSplit = false)) :=
  ⟨by unfold Starts Live; decide +kernel,
   by unfold Live; decide +kernel,
   by unfold Live; decide +kernel,
   by unfold Live; decide +kernel,
   by decide +kernel,
   by decide +kernel⟩

theorem test_witness_TimeAndPortCommands :
    ((let s : State := told State.reset 0x0601 []; let src : Source := .h2d; let c : Cmd := (s.oldest Source.h2d).getD {  }; Starts s src 1537 c) ∧
    (let s : State := told State.reset 0x0602 [2, 0, 0, 1] 1; let src : Source := .h2d; let c : Cmd := (s.oldest Source.h2d).getD {  }; Starts s src 1538 c ∧ c.target < 2 ∧ (2 ≤ c.p 1 ∨ 256 ≤ c.p 2 ∨ 2 ≤ c.p 3)) ∧
    (let s : State := told State.reset 0x0602 [1, 255, 1, 7] 1; let src : Source := .h2d; let c : Cmd := (s.oldest Source.h2d).getD {  }; Starts s src 1538 c ∧ c.target < 2 ∧ c.p 1 < 2 ∧ c.p 2 < 256 ∧ c.p 3 < 2)) ∧
    ((let s : State := told State.reset 0x0603 [] 1; let src : Source := .h2d; let c : Cmd := (s.oldest Source.h2d).getD {  }; Starts s src 1539 c ∧ c.target < 2 ∧ s.lockedDom c.target = false) ∧
    (let s : State := told (State.reset.putBit F.TK_DOM_STAT_LOCKED true 1) 0x0603 [] 1; let src : Source := .h2d; let c : Cmd := (s.oldest Source.h2d).getD {  }; Starts s src 1539 c ∧ c.target < 2 ∧ s.lockedDom c.target = true) ∧
    (let s : State := told State.reset 0x0604 [3, 0, 0, 0] 1; let src : Source := .h2d; let c : Cmd := (s.oldest Source.h2d).getD {  }; Starts s src 1540 c ∧ c.target < 2 ∧ (3 ≤ c.p 1 ∨ 2 ≤ c.p 4))) ∧
    ((let s : State := told (State.reset.putBit F.ETH_STAT_LAUNCH_EN true 1) 0x0604 [2, 0, 0, 0] 1; let src : Source := .h2d; let c : Cmd := (s.oldest Source.h2d).getD {  }; Starts s src 1540 c ∧ c.target < 2 ∧ c.p 1 < 3 ∧ c.p 4 < 2 ∧ s.get F.ETH_CFG_SPEED c.target ≠ c.p 1 ∧ s.on F.ETH_STAT_LAUNCH_EN c.target = true) ∧
    (let s : State := told State.reset 0x0604 [2, 5, 6, 1] 1; let src : Source := .h2d; let c : Cmd := (s.oldest Source.h2d).getD {  }; Starts s src 1540 c ∧ c.target < 2 ∧ c.p 1 < 3 ∧ c.p 4 < 2 ∧ (s.get F.ETH_CFG_SPEED c.target = c.p 1 ∨ s.on F.ETH_STAT_LAUNCH_EN c.target = false)) ∧
    (let s : State := told State.reset 0x0605 [32] 1; let src : Source := .h2d; let c : Cmd := (s.oldest Source.h2d).getD {  }; Starts s src 1541 c ∧ c.target < 2 ∧ 32 ≤ c.p 1)) ∧
    ((let s : State := told State.reset 0x0605 [31] 1; let src : Source := .h2d; let c : Cmd := (s.oldest Source.h2d).getD {  }; Starts s src 1541 c ∧ c.target < 2 ∧ c.p 1 < 32 ∧ s.on F.ETH_STAT_LINK_UP c.target = false) ∧
    (let s : State := told ((State.reset.putBit F.ETH_STAT_LINK_UP true 1).own 44 ownCamera 2) 0x0605 [31] 1; let src : Source := .h2d; let c : Cmd := (s.oldest Source.h2d).getD {  }; Starts s src 1541 c ∧ c.target < 2 ∧ c.p 1 < 32 ∧ s.on F.ETH_STAT_LINK_UP c.target = true ∧ s.heldByOther (13 + c.p 1) ownLaunch c.target = true) ∧
    (let s : State := told (((State.reset.putBit F.ETH_STAT_LINK_UP true 1).putBit F.ETH_STAT_LAUNCH_EN true 1).setEth 1 { queue := [timed0] }) 0x0605 [31] 1; let src : Source := .h2d; let c : Cmd := (s.oldest Source.h2d).getD {  }; Starts s src 1541 c ∧ c.target < 2 ∧ c.p 1 < 32 ∧ s.on F.ETH_STAT_LINK_UP c.target = true ∧ s.heldByOther (13 + c.p 1) ownLaunch c.target = false ∧ s.on F.ETH_STAT_LAUNCH_EN c.target = true ∧ s.get F.ETH_STAT_UNIT c.target ≠ c.p 1 ∧ (s.eth c.target).queue ≠ [])) ∧
    ((let s : State := told (State.reset.putBit F.ETH_STAT_LINK_UP true 1) 0x0605 [31] 1; let src : Source := .h2d; let c : Cmd := (s.oldest Source.h2d).getD {  }; Starts s src 1541 c ∧ c.target < 2 ∧ c.p 1 < 32 ∧ s.on F.ETH_STAT_LINK_UP c.target = true ∧ s.heldByOther (13 + c.p 1) ownLaunch c.target = false ∧ (s.on F.ETH_STAT_LAUNCH_EN c.target = false ∨ s.get F.ETH_STAT_UNIT c.target = c.p 1 ∨ (s.eth c.target).queue = [])) ∧
    (let s : State := told (State.reset.setEth 1 { queue := [timed0] }) 0x0606 [] 1; let src : Source := .h2d; let c : Cmd := (s.oldest Source.h2d).getD {  }; Starts s src 1542 c ∧ c.target < 2 ∧ (s.eth c.target).queue ≠ []) ∧
    (let s : State := told ((State.reset.putBit F.ETH_STAT_LAUNCH_EN true 1).own 13 ownLaunch 1) 0x0606 [] 1; let src : Source := .h2d; let c : Cmd := (s.oldest Source.h2d).getD {  }; Starts s src 1542 c ∧ c.target < 2 ∧ (s.eth c.target).queue = [])) :=
  ⟨by unfold Starts Live; decide +kernel,
   by unfold Starts Live; decide +kernel,
   by unfold Starts Live; decide +kernel,
   by unfold Starts Live; decide +kernel,
   by unfold Starts Live; decide +kernel⟩

theorem test_witness_PtpMessages :
    ((let s : State := wDom false {  }; let a : Announce := ann0 255; let d : Fin 2 := 0; FwUp s ∧ s.hears (s.domPort ↑d) = true ∧ s.on F.TK_DOM_STAT_EN ↑d = true ∧ (s.eth (s.domPort ↑d)).configured = true ∧ 255 ≤ a.steps) ∧
    (let s : State := wDom false {  }; let a : Announce := ann0 1; let d : Fin 2 := 0; FwUp s ∧ s.hears (s.domPort ↑d) = true ∧ s.on F.TK_DOM_STAT_EN ↑d = true ∧ (s.eth (s.domPort ↑d)).configured = true ∧ a.steps < 255) ∧
    (let s : State := State.reset; let d : Fin 2 := 0; Live s ∧ s.hears (s.domPort ↑d) = false)) ∧
    ((let s : State := (wDom false {  }).put F.ETH_CFG_SPEED 0 0; let p : ℕ := 0; (s.eth p).configured = true ∧ s.get F.ETH_CFG_SPEED p = 0) ∧
    (let s : State := (wDom false {  }).putBit F.TK_DOM_STAT_EN false 0; let d : Fin 2 := 0; Live s ∧ s.hears (s.domPort ↑d) = true ∧ (s.on F.HOST_STATUS_FW_RUN = false ∨ s.on F.TK_DOM_STAT_EN ↑d = false ∨ (s.eth (s.domPort ↑d)).configured = false)) ∧
    (let x : Domain := { foreign := [{ ann := ann0 1, heard := 5, good := true }] }; let up : ℕ := 6; let a : Announce := ann0 1; x.best up = some a)) ∧
    ((let x : Domain := { foreign := [{ ann := ann0 1, heard := 5, good := true }, { ann := ann0 2, heard := 5, good := true }] }; let up : ℕ := 6; let m : Master := { ann := ann0 1, heard := 5, good := true }; let k : Master := { ann := ann0 2, heard := 5, good := true }; x.foreign = [m, k] ∧ m.good = true ∧ k.good = true ∧ up - m.heard ≤ 4 * m.ann.interval ∧ up - k.heard ≤ 4 * k.ann.interval) ∧
    (let a : Announce := ann0 1; let b : Announce := { ann0 1 with gm := 9, prio1 := 200 }; a.gm ≠ b.gm ∧ a.prio1 < b.prio1) ∧
    (let a : Announce := ann0 1; let b : Announce := { ann0 1 with gm := 9, cls := 255 }; a.gm ≠ b.gm ∧ a.prio1 = b.prio1 ∧ a.cls < b.cls)) ∧
    ((let a : Announce := ann0 1; let b : Announce := { ann0 1 with gm := 9, accuracy := 255 }; a.gm ≠ b.gm ∧ a.prio1 = b.prio1 ∧ a.cls = b.cls ∧ a.accuracy < b.accuracy) ∧
    (let a : Announce := ann0 1; let b : Announce := ann0 2; a.gm = b.gm ∧ a.steps < b.steps ∧ betterMaster a b = true) ∧
    (let s : State := wDom false { foreign := [{ ann := ann0 1, heard := 0, good := true }] }; let d : ℕ := 0; let a : Announce := ann0 1; (s.dom d).best s.time.uptime = some a ∧ ((s.dom d).gm = none ∨ (s.dom d).gm = some a.gm))) ∧
    ((let s : State := wDom false { gm := some 8, foreign := [{ ann := ann0 1, heard := 0, good := true }] }; let d : ℕ := 0; let a : Announce := ann0 1; let g : ℕ := 8; (s.dom d).best s.time.uptime = some a ∧ (s.dom d).gm = some g ∧ g ≠ a.gm ∧ d < 2) ∧
    (let s : State := wDom false {  }; let d : ℕ := 0; (s.dom d).best s.time.uptime = none) ∧
    (let s : State := wDom false {  } |>.put F.TK_STAT_SEL 1; let d : Fin 2 := 0; (s.get F.TK_STAT_SEL ≠ d.val ∨ s.sealed = true ∨ s.on F.TK_DOM_STAT_STEP_MODE d.val = true))) ∧
    ((let s : State := wDom false {  } |>.put F.TK_STAT_SEL 0; let d : Fin 2 := 0; s.get F.TK_STAT_SEL = d.val ∧ s.sealed = false ∧ s.on F.TK_DOM_STAT_STEP_MODE d.val = false) ∧
    (let x : Domain := { sync := some (1, 2), peer := some (3, 4), syncSeq := some (5, 6, 7) }; let a : ℤ := 1; let b : ℤ := 2; x.sync = some (a, b)) ∧
    (let x : Domain := { sync := some (1, 2), peer := some (3, 4), syncSeq := some (5, 6, 7) }; let a : ℤ := 3; let b : ℤ := 4; let n : ℕ := 5; let i : ℤ := 6; let up : ℕ := 7; x.peer = some (a, b) ∧ x.syncSeq = some (n, i, up))) ∧
    ((let s : State := wDom false { syncSeq := some (3, 50, 9) }; let n : ℕ := 3; let i : ℤ := 50; let up : ℕ := 9; let d : Fin 2 := 0; FwUp s ∧ s.hears (s.domPort ↑d) = true ∧ s.on F.TK_DOM_STAT_EN ↑d = true ∧ (s.eth (s.domPort ↑d)).configured = true ∧ (s.dom ↑d).syncSeq = some (n, i, up)) ∧
    (let s : State := wDom false { syncSeq := some (2, 50, 9) }; let n : ℕ := 3; let d : Fin 2 := 0; FwUp s ∧ s.hears (s.domPort ↑d) = true ∧ s.on F.TK_DOM_STAT_EN ↑d = true ∧ (s.eth (s.domPort ↑d)).configured = true ∧ Option.any (fun x => x.1 == n) (s.dom ↑d).syncSeq = false) ∧
    (let s : State := wDom false { sync := some (10, 30), asked := some 40 }; let t1 : ℤ := 10; let t2 : ℤ := 30; let t3 : ℤ := 40; let d : Fin 2 := 0; FwUp s ∧ s.hears (s.domPort ↑d) = true ∧ s.on F.TK_DOM_STAT_EN ↑d = true ∧ (s.eth (s.domPort ↑d)).configured = true ∧ (s.dom ↑d).sync = some (t1, t2) ∧ (s.dom ↑d).asked = some t3 ∧ s.on F.TK_DOM_STAT_P2P ↑d = false)) ∧
    ((let s : State := wDom true { sync := some (10, 30), asked := some 40 }; let t1 : ℤ := 10; let t2 : ℤ := 30; let t3 : ℤ := 40; let d : Fin 2 := 0; FwUp s ∧ s.hears (s.domPort ↑d) = true ∧ s.on F.TK_DOM_STAT_EN ↑d = true ∧ (s.eth (s.domPort ↑d)).configured = true ∧ (s.dom ↑d).sync = some (t1, t2) ∧ (s.dom ↑d).asked = some t3 ∧ s.on F.TK_DOM_STAT_P2P ↑d = true) ∧
    (let s : State := wDom false {  }; let d : Fin 2 := 0; FwUp s ∧ s.hears (s.domPort ↑d) = true ∧ s.on F.TK_DOM_STAT_EN ↑d = true ∧ (s.eth (s.domPort ↑d)).configured = true ∧ ((s.dom ↑d).sync = none ∨ (s.dom ↑d).asked = none)) ∧
    (let s : State := (wDom true {  }).putBit F.TK_DOM_STAT_ONE_STEP_RESP true 0; let d : Fin 2 := 0; FwUp s ∧ s.hears (s.domPort ↑d) = true ∧ s.on F.TK_DOM_STAT_EN ↑d = true ∧ (s.eth (s.domPort ↑d)).configured = true ∧ s.on F.TK_DOM_STAT_P2P ↑d = true ∧ s.on F.TK_DOM_STAT_ONE_STEP_RESP ↑d = true)) ∧
    ((let s : State := wDom true { sync := some (10, 30), asked := some 40 }; let d : Fin 2 := 0; FwUp s ∧ s.hears (s.domPort ↑d) = true ∧ s.on F.TK_DOM_STAT_EN ↑d = true ∧ (s.eth (s.domPort ↑d)).configured = true ∧ s.on F.TK_DOM_STAT_P2P ↑d = true ∧ s.on F.TK_DOM_STAT_ONE_STEP_RESP ↑d = false) ∧
    (let s : State := (wDom true {  }).putBit F.TK_DOM_STAT_ONE_STEP_RESP true 0; let d : Fin 2 := 0; FwUp s ∧ s.hears (s.domPort ↑d) = true ∧ s.on F.TK_DOM_STAT_EN ↑d = true ∧ (s.eth (s.domPort ↑d)).configured = true ∧ (s.dom ↑d).asked = none) ∧
    (let s : State := wDom false { asked := some 40 }; let t1 : ℤ := 40; let d : Fin 2 := 0; FwUp s ∧ s.hears (s.domPort ↑d) = true ∧ s.on F.TK_DOM_STAT_EN ↑d = true ∧ (s.eth (s.domPort ↑d)).configured = true ∧ (s.dom ↑d).asked = some t1 ∧ s.on F.TK_DOM_STAT_P2P ↑d = false)) ∧
    ((let s : State := wDom true { asked := some 40 }; let t1 : ℤ := 40; let d : Fin 2 := 0; FwUp s ∧ s.hears (s.domPort ↑d) = true ∧ s.on F.TK_DOM_STAT_EN ↑d = true ∧ (s.eth (s.domPort ↑d)).configured = true ∧ (s.dom ↑d).asked = some t1 ∧ s.on F.TK_DOM_STAT_P2P ↑d = true) ∧
    (let s : State := wDom true { asked := some 40, peer := some (55, 90) }; let t1 : ℤ := 40; let t2 : ℤ := 55; let t4 : ℤ := 90; let d : Fin 2 := 0; FwUp s ∧ s.hears (s.domPort ↑d) = true ∧ s.on F.TK_DOM_STAT_EN ↑d = true ∧ (s.eth (s.domPort ↑d)).configured = true ∧ (s.dom ↑d).asked = some t1 ∧ (s.dom ↑d).peer = some (t2, t4)) ∧
    (let s : State := (wDom true {  }).putBit F.ETH_STAT_LINK_UP true 0; let d : Fin 2 := 0; FwUp s ∧ s.hears (s.domPort ↑d) = true ∧ s.on F.TK_DOM_STAT_EN ↑d = true ∧ (s.eth (s.domPort ↑d)).configured = true ∧ ((s.dom ↑d).asked = none ∨ (s.dom ↑d).peer = none))) ∧
    ((let s : State := wDom true { inside := 9 }; let d : Fin 2 := 0; (s.dom ↑d).inside < 15) ∧
    (let s : State := State.reset; let d : Fin 2 := 0; (s.dom ↑d).inside < 15) ∧
    (let s : State := ((wDom true {  }).putBit F.ETH_STAT_LINK_UP true 0).put F.ETH_CFG_SPEED 1 0; let d : Fin 2 := 0; FwUp s ∧ s.on F.TK_DOM_STAT_EN ↑d = true ∧ s.ethRuns (s.domPort ↑d) = true)) ∧
    ((let s : State := State.reset; let d : Fin 2 := 0; Live s ∧ (s.on F.HOST_STATUS_FW_RUN = false ∨ s.on F.TK_DOM_STAT_EN ↑d = false ∨ s.ethRuns (s.domPort ↑d) = false)) ∧
    (let s : State := State.reset; let d : Fin 2 := 0; let p : ℕ := State.reset.domPort ↑d; let kind : ℕ := 0; (s.eth p).ptpWait = [] ∧ s.ptpMay p kind = true ∧ kind < 2) ∧
    (let s : State := (wDom true {  }).setEth 0 { configured := true, onWire := some timed0 }; let d : Fin 2 := 0; let p : ℕ := s.domPort ↑d; let kind : ℕ := 0; (s.eth p).ptpWait = [] ∧ s.ptpMay p kind = false)) ∧
    ((let s : State := wDom true { inside := 9 }; let d : Fin 2 := 0; Live s ∧ s.on F.TK_DOM_STAT_EN ↑d = true) ∧
    (let s : State := State.reset; let d : Fin 2 := 0; Live s ∧ s.on F.TK_DOM_STAT_EN ↑d = false)) :=
  ⟨by unfold FwUp Live; decide +kernel,
   by unfold Live; decide +kernel,
   by decide +kernel,
   by decide +kernel,
   by decide +kernel,
   by decide +kernel,
   by unfold FwUp Live; decide +kernel,
   by unfold FwUp Live; decide +kernel,
   by unfold FwUp Live; decide +kernel,
   by unfold FwUp Live; decide +kernel,
   by unfold FwUp Live; decide +kernel,
   by unfold Live; decide +kernel,
   by unfold Live; decide +kernel⟩

theorem test_witness_PortsAndFrames :
    ((let s : State := wDom false {  }; let p : Fin 2 := 0; FwUp s ∧ s.hears ↑p = true ∧ (s.eth ↑p).configured = true) ∧
    (let s : State := (withBoot State.reset { ethLanes := true }).putBit F.ETH_STAT_LINK_UP true 0; let p : Fin 2 := 0; Live s ∧ s.hears ↑p = true ∧ (s.on F.HOST_STATUS_FW_RUN = false ∨ (s.eth ↑p).configured = false)) ∧
    (let s : State := State.reset; let p : Fin 2 := 0; Live s ∧ s.hears ↑p = false) ∧
    (let s : State := withTime State.reset { now := 10 * nsUnit }; let l : ℕ := 10 * nsUnit; s.time.now < l + s.time.pace) ∧
    (let s : State := withTime State.reset { now := 10 * nsUnit }; let p : ℕ := 0; let l : ℕ := 0; l + s.islandSpan p * s.time.pace ≤ s.time.now) ∧
    (let s : State := withTime (((wDom false {  }).putBit F.ETH_STAT_LAUNCH_EN true 0)) { ports := [(0, { configured := true })], now := 10 * nsUnit }; let p : Fin 2 := 0; let f : TimedFrame := { timed0 with launch := 10 * nsUnit }; s.on F.ETH_STAT_LAUNCH_EN ↑p = true ∧ s.ethRuns ↑p = true ∧ (s.eth ↑p).queue = [] ∧ (s.eth ↑p).onWire = none ∧ f.late = false ∧ f.launch / nsUnit ≤ s.nowNs ∧ s.time.now < f.launch + s.time.pace) ∧
    (let s : State := withBoot State.reset { ethLanes := true }; let b : Bool := true; let p : Fin 2 := 0; Live s ∧ (b = true → s.laneOn ↑p = true) ∧ s.on F.ETH_STAT_LINK_UP ↑p ≠ b)) ∧
    ((let s : State := State.reset; let p : Fin 2 := 0; let b : Bool := false; Live s ∧ (b = true ∧ s.laneOn ↑p = false ∨ s.on F.ETH_STAT_LINK_UP ↑p = b)) ∧
    (let s : State := State.reset; let p : Fin 2 := 0; s.on F.ETH_STAT_LAUNCH_EN ↑p = false) ∧
    (let s : State := (State.reset.putBit F.ETH_STAT_LAUNCH_EN true 0).put F.ETH_LATE_POLICY_DROP 1 0; let f : TimedFrame := { timed0 with late := true }; let p : Fin 2 := 0; s.on F.ETH_STAT_LAUNCH_EN ↑p = true ∧ f.late = true ∧ s.on F.ETH_LATE_POLICY_DROP ↑p = true)) ∧
    ((let s : State := (State.reset.putBit F.ETH_STAT_LAUNCH_EN true 0).setEth 0 { queue := List.replicate 64 timed0 }; let f : TimedFrame := timed0; let p : Fin 2 := 0; s.on F.ETH_STAT_LAUNCH_EN ↑p = true ∧ f.late = false ∧ 64 ≤ (s.eth ↑p).queue.length) ∧
    (let s : State := (State.reset.putBit F.ETH_STAT_LAUNCH_EN true 0).setEth 0 { onWire := some timed0 }; let p : Fin 2 := 0; let f : TimedFrame := timed0; s.on F.ETH_STAT_LAUNCH_EN ↑p = true ∧ (f.late = false ∨ s.on F.ETH_LATE_POLICY_DROP ↑p = false) ∧ (s.eth ↑p).queue.length < 64 ∧ (s.eth ↑p).onWire ≠ none) ∧
    (let s : State := State.reset.setEth 0 { onWire := some timed0 }; let f : TimedFrame := timed0; let p : Fin 2 := 0; Live s ∧ (s.eth ↑p).onWire = some f ∧ (s.eth ↑p).txts.length < 16)) ∧
    ((let s : State := State.reset.setEth 0 { onWire := some timed0, txts := List.replicate 16 (1, false, 2) }; let f : TimedFrame := timed0; let p : Fin 2 := 0; Live s ∧ (s.eth ↑p).onWire = some f ∧ 16 ≤ (s.eth ↑p).txts.length) ∧
    (let s : State := State.reset.setEth 0 { txts := [(7, true, 12345678901234567890)] }; let p : Fin 2 := 0; Live s ∧ (s.eth ↑p).onWire = none) ∧
    (let s : State := State.reset; let p : Fin 2 := 0; Live s ∧ (s.eth ↑p).txts = [])) ∧
    ((let s : State := State.reset.setEth 0 { txts := [(7, true, 12345678901234567890)] }; let i : ℕ := 7; let tm : ℕ := 12345678901234567890; let late : Bool := true; let p : Fin 2 := 0; let q : List (ℕ × Bool × ℕ) := []; Live s ∧ (s.eth ↑p).txts = (i, late, tm) :: q) ∧
    (let s : State := State.reset; let u : Fin 32 := 0; Live s ∧ (s.on F.TK_CMP_S_HI_ARMED ↑u = false ∨ s.nowNs < s.compareTime ↑u)) ∧
    (let s : State := wUnit3 ownLaunch; let u : Fin 32 := 3; Live s ∧ s.on F.TK_CMP_S_HI_ARMED ↑u = true ∧ s.compareTime ↑u ≤ s.nowNs ∧ s.owner (13 + ↑u) = ownLaunch)) ∧
    ((let s : State := wUnit3 ownCamera; let u : Fin 32 := 3; Live s ∧ s.on F.TK_CMP_S_HI_ARMED ↑u = true ∧ s.compareTime ↑u ≤ s.nowNs ∧ s.owner (13 + ↑u) = ownCamera) ∧
    (let s : State := wUnit3 ownSnapshot; let u : Fin 32 := 3; Live s ∧ s.on F.TK_CMP_S_HI_ARMED ↑u = true ∧ s.compareTime ↑u ≤ s.nowNs ∧ s.owner (13 + ↑u) = ownSnapshot) ∧
    (let s : State := State.reset.putBit F.TK_CMP_S_HI_ARMED true 3; let u : Fin 32 := 3; Live s ∧ s.on F.TK_CMP_S_HI_ARMED ↑u = true ∧ s.compareTime ↑u ≤ s.nowNs ∧ s.owner (13 + ↑u) ≠ ownLaunch ∧ s.owner (13 + ↑u) ≠ ownCamera ∧ s.owner (13 + ↑u) ≠ ownSnapshot)) :=
  ⟨by unfold FwUp Live; decide +kernel,
   by unfold Live; decide +kernel,
   by unfold Live; decide +kernel,
   by unfold Live; decide +kernel,
   by unfold Live; decide +kernel,
   by unfold Live; decide +kernel⟩

theorem test_witness_Snapshots :
    ((let s : State := told State.reset 0x0A01 []; let src : Source := .h2d; let c : Cmd := (s.oldest Source.h2d).getD {  }; Starts s src 2561 c) ∧
    (let s : State := State.reset; let n : ℕ := State.reset.get F.SNAP_STAT_NEXT; s.snap.taking = none ∧ s.snap.holdoff = false ∧ (bitAt (s.get F.SNAP_STAT_VALID) n = false ∨ s.on F.SNAP_CTRL_HOLD = false)) ∧
    (let s : State := (State.reset.put F.SNAP_STAT_VALID 1).putBit F.SNAP_CTRL_HOLD true; let n : ℕ := s.get F.SNAP_STAT_NEXT; s.snap.taking = none ∧ s.snap.holdoff = false ∧ bitAt (s.get F.SNAP_STAT_VALID) n = true ∧ s.on F.SNAP_CTRL_HOLD = true)) ∧
    ((let s : State := told (State.reset.own 18 ownCamera 0) 0x0A02 [1, 5, 0, 0, 0, 0]; let src : Source := .h2d; let c : Cmd := (s.oldest Source.h2d).getD {  }; Starts s src 2562 c ∧ bitAt (c.p 1) 0 = true ∧ s.heldByOther (13 + bitsOf (c.p 2) 0 5) ownSnapshot 0 = true) ∧
    (let s : State := told State.reset 0x0A02 [0xC, 7, 0, 0, 0, 0]; let src : Source := .h2d; let c : Cmd := (s.oldest Source.h2d).getD {  }; Starts s src 2562 c ∧ (bitAt (c.p 1) 0 = false ∨ s.heldByOther (13 + bitsOf (c.p 2) 0 5) ownSnapshot 0 = false)) ∧
    (let s : State := wSnap { taking := some 2 } 0; let n : ℕ := 2; let e : Snap := snap0; Live s ∧ s.snap.taking = some n ∧ n < 8 ∧ tget? s.snap.ring n = some e)) ∧
    ((let a : ℕ := R.SYS_ID.addr 0 0; regPlace a < 83 ∧ a ≠ R.TK_TIME_NS.addr 0 0) ∧
    (let a : ℕ := R.TK_TIME_NS.addr 0 0; regPlace a < 83 ∧ a = R.TK_TIME_NS.addr 0 0) ∧
    (let s : State := State.reset; s.portUp (s.txPort 23) = false) ∧
    (let s : State := wTx; s.portUp (s.txPort 23) = true)) ∧
    ((let s : State := State.reset; Live s ∧ (s.snap.taking = none ∨ ∃ n, s.snap.taking = some n ∧ tget? s.snap.ring n = none)) ∧
    (let s : State := told (wSnap {  } 4) 0x0A03 [8, 0]; let src : Source := .h2d; let c : Cmd := (s.oldest Source.h2d).getD {  }; Starts s src 2563 c ∧ (7 < c.p 1 ∨ bitAt (s.get F.SNAP_STAT_VALID) (c.p 1) = false ∨ tget? s.snap.ring (c.p 1) = none)) ∧
    (let s : State := told (wSnap { taking := some 2 } 4) 0x0A03 [2, 0]; let src : Source := .h2d; let c : Cmd := (s.oldest Source.h2d).getD {  }; let e : Snap := (tget? s.snap.ring (c.p 1)).getD snap0; Starts s src 2563 c ∧ tget? s.snap.ring (c.p 1) = some e ∧ c.p 1 ≤ 7 ∧ bitAt (s.get F.SNAP_STAT_VALID) (c.p 1) = true ∧ s.snap.taking = some (c.p 1))) ∧
    ((let s : State := told (wSnap {  } 4) 0x0A03 [2, 3]; let e : Snap := snap0; let src : Source := .h2d; let c : Cmd := (s.oldest Source.h2d).getD {  }; Starts s src 2563 c ∧ tget? s.snap.ring (c.p 1) = some e ∧ c.p 1 ≤ 7 ∧ bitAt (s.get F.SNAP_STAT_VALID) (c.p 1) = true ∧ s.snap.taking ≠ some (c.p 1)) ∧
    (let s : State := doing (wSnap { reads := [(.h2d, 2, 3, 5)] } 4) 0x0A03 [2, 3]; let src : Source := .h2d; let n : ℕ := 2; let mask : ℕ := 3; let seq : ℕ := 5; let e : Snap := snap0; let q : List (Source × ℕ × ℕ × ℕ) := []; Live s ∧ s.snap.reads = (src, n, mask, seq) :: q ∧ tget? s.snap.ring n = some e ∧ s.snap.taking ≠ some n ∧ e.seq = seq) ∧
    (let s : State := doing (wSnap { reads := [(.h2d, 2, 3, 4)] } 4) 0x0A03 [2, 3]; let src : Source := .h2d; let n : ℕ := 2; let mask : ℕ := 3; let seq : ℕ := 4; let q : List (Source × ℕ × ℕ × ℕ) := []; Live s ∧ s.snap.reads = (src, n, mask, seq) :: q ∧ (s.snap.taking = some n ∨ tget? s.snap.ring n = none ∨ ∃ e, tget? s.snap.ring n = some e ∧ e.seq ≠ seq))) ∧
    ((let s : State := State.reset; Live s ∧ s.snap.reads = []) ∧
    (let s : State := told State.reset 0x0A04 [8, 65536]; let src : Source := .h2d; let c : Cmd := (s.oldest Source.h2d).getD {  }; Starts s src 2564 c ∧ 65535 < c.p 2) ∧
    (let s : State := told State.reset 0x0A04 [0x80, 65535]; let src : Source := .h2d; let c : Cmd := (s.oldest Source.h2d).getD {  }; Starts s src 2564 c ∧ c.p 2 ≤ 65535)) :=
  ⟨by unfold Starts Live; decide +kernel,
   by unfold Starts Live; decide +kernel,
   by decide +kernel,
   by unfold Starts Live; decide +kernel,
   by unfold Starts Live; decide +kernel,
   by unfold Starts Live; decide +kernel⟩

theorem test_witness_PowerAndThrottle :
    ((let s : State := State.reset; Live s ∧ s.on F.HOST_STATUS_FW_RUN = false) ∧
    (let s : State := wFw; FwUp s) ∧
    (let x : Telemetry := { temps := [800, -16, 10, 10], rails := [some (900, 5)] }; let i : ℕ := 1; let v : ℤ := -16; i < 4 ∧ x.temps[i]? = some v)) ∧
    ((let s : State := State.reset; s.vcoreLowest + s.power.depth + 10 ≤ s.power.target) ∧
    (let s : State := withPower State.reset { depth := 20 }; s.power.depth ≠ 0) ∧
    (let s : State := withPower wFw { now := 745 }; FwUp s ∧ s.straps.pwrExt = false ∧ s.regulatorBad = false ∧ s.power.now < s.vcoreEffective)) ∧
    ((let s : State := withPower wFw { now := 755 }; FwUp s ∧ s.straps.pwrExt = false ∧ s.regulatorBad = false ∧ s.vcoreEffective < s.power.now) ∧
    (let s : State := doing (wFw.putBit F.SYS_PWR_STAT_BAD_MODE true) 0x0103 [760]; let e : Source × Cmd := (s.runningCmd 0x0103).getD (Source.h2d, {  }); s.regulatorBad = true ∧ s.host.running = [e] ∧ e.2.opcode = 0x0103) ∧
    (let s : State := State.reset; Live s ∧ (s.power.now = s.vcoreEffective ∨ s.straps.pwrExt = true ∨ s.regulatorBad = true ∨ s.on F.HOST_STATUS_FW_RUN = false))) :=
  ⟨by unfold FwUp Live; decide +kernel,
   by unfold FwUp Live; decide +kernel,
   by unfold FwUp Live; decide +kernel⟩

theorem test_witness_RanozLanes :
    ((let l : ℕ := 0; let n : ℕ := 1; let k : ℕ := 3; let al : Bool := false; let fw : Bool := false; let m : LaneMarker := { b1 := 8, b2 := 3, b3 := 0xF4 }; l < 8 ∧ n < 4 ∧ k < 16 ∧ [m.b1, m.b2, m.b3] = markerBytes l n al fw k) ∧
    (let s : State := State.reset.putBit F.LINK_CFG_FALLBACK true; let l : Fin 8 := 0; Live s ∧ ↑l < s.laneCount ∧ s.laneTested ↑l = false ∧ s.link.start = none) ∧
    (let s : State := withLink wLink { start := some (0, true) }; let l : Fin 8 := 0; let same : Bool := true; Live s ∧ ↑l < s.laneCount ∧ s.laneTested ↑l = false ∧ s.link.start = some (↑l, same)) ∧
    (let s : State := State.reset.put F.LINK_CFG_LANES 1; let l : Fin 8 := 3; Live s ∧ s.fenceDue = [] ∧ (s.laneCount ≤ ↑l ∨ s.laneTested ↑l = true))) ∧
    ((let s : State := withLink State.reset { markers := [(0, 1)] }; let l : ℕ := 0; let m : LaneMarker := marker0; markerGood m = true ∧ m.errors + tgetD s.link.errors l 0 < 16 ∧ 1 ≤ tgetD s.link.markers l 0) ∧
    (let s : State := withLink State.reset { aligned := [(0, true)] }; let l : ℕ := 0; let m : LaneMarker := { marker0 with errors := 16 }; (16 ≤ m.errors + tgetD s.link.errors l 0 ∨ markerGood m = false ∧ 1 ≤ tgetD s.link.missed l 0)) ∧
    (let l : ℕ := 0; let k : ℕ := 1; k ≠ l)) ∧
    ((let s : State := State.reset; let l : ℕ := 0; l < s.laneCount ∧ s.laneTested l = false) ∧
    (let s : State := State.reset.put F.LINK_CFG_LANES 1; let l : ℕ := 3; s.laneCount ≤ l ∨ s.laneTested l = true) ∧
    (let s : State := State.reset.putBit F.LINK_CFG_FALLBACK true; s.codingSettled = false) ∧
    (let s : State := withLink (State.reset.put F.LINK_CFG_LANES 0) { aligned := [(0, true)], rxAligned := [(0, true)], deskewed := true }; s.on F.LINK_STAT_UP = false ∧ s.mayRise = true) ∧
    (let s : State := withLink wLink { start := some (0, true) }; s.framesGo = false) ∧
    (let s : State := withLink wLink { start := some (0, false) }; let l : ℕ := 0; s.link.start = some (l, false) ∧ s.link.nakOwed = false) ∧
    (let s : State := withLink wLink { start := some (0, true) }; let l : ℕ := 0; s.link.start = some (l, true) ∧ s.link.nakOwed = false)) ∧
    ((let s : State := State.reset; (s.link.deskewed = false ∨ s.on F.LINK_STAT_CFG_MISMATCH = true ∨ s.codingSettled = false)) ∧
    (let s : State := State.reset.putBit F.LINK_CFG_FALLBACK true; Live s ∧ s.codingSettled = false) ∧
    (let s : State := State.reset; Live s ∧ s.fenceDue = [] ∧ s.codingSettled = true)) ∧
    ((let s : State := withLink State.reset { aligned := [(0, true)], deskewed := true }; let l : Fin 8 := 0; Live s ∧ s.fenceDue = [] ∧ ↑l < s.laneCount ∧ s.laneAligned ↑l = true ∧ s.on F.LINK_STAT_UP = false) ∧
    (let s : State := withLink wLink { aligned := [(0, true)], deskewed := true }; let l : Fin 8 := 0; Live s ∧ ↑l < s.laneCount ∧ s.laneAligned ↑l = true ∧ s.on F.LINK_STAT_UP = true) ∧
    (let s : State := wRole State.reset 2; let v : Word := 1; Live s ∧ s.fenceDue = [] ∧ (s.role = 1 ∨ s.role = 2 ∨ BitVec.toNat v % 4 = 3))) ∧
    ((let s : State := State.reset; let v : Word := 0; let t : State := State.reset.mergeReg R.LINK_CFG (BitVec.toNat v); Live s ∧ s.fenceDue = [] ∧ s.role = 0 ∧ BitVec.toNat v % 4 ≠ 3 ∧ s.on F.LINK_STAT_UP = false ∧ t.reg R.LINK_CFG ≠ s.reg R.LINK_CFG)) :=
  ⟨by unfold Live; decide +kernel,
   by decide +kernel,
   by decide +kernel,
   by unfold Live; decide +kernel,
   by unfold Live; decide +kernel,
   by unfold Live; decide +kernel⟩

theorem test_witness_RanozFrames :
    ((let f : RzFrame := frame 1 []; let ack : ℕ := 0; f.kind < 16 ∧ f.vl < 4 ∧ f.seq < 4096 ∧ ack < 4096 ∧ f.payload.length % 2 = 0 ∧ f.payload.length < 2048 ∧ f.poison = []) ∧
    (let run : ℕ := 0; run < 31) ∧
    (let s : State := State.reset; let w : FrameWire := wire 0 0; Live s ∧ s.fenceDue = [] ∧ (s.on F.LINK_STAT_UP = false ∨ frameSyms w (s.on F.LINK_STAT_FB_ACTIVE) = none))) ∧
    ((let s : State := wLink; let w : FrameWire := .symbols [none]; let l : List (Option Sys2Proof.Sym) := (frameSyms w (wLink.on F.LINK_STAT_FB_ACTIVE)).getD []; let f : RxFrame := readFrame l; Live s ∧ s.on F.LINK_STAT_UP = true ∧ frameSyms w (s.on F.LINK_STAT_FB_ACTIVE) = some l ∧ s.fenceDue = [] ∧ f.crcOk = false) ∧
    (let s : State := wLink; let w : FrameWire := wire 0 0; let l : List (Option Sys2Proof.Sym) := (frameSyms w (wLink.on F.LINK_STAT_FB_ACTIVE)).getD []; let f : RxFrame := readFrame l; Live s ∧ s.on F.LINK_STAT_UP = true ∧ frameSyms w (s.on F.LINK_STAT_FB_ACTIVE) = some l ∧ s.fenceDue = [] ∧ f.crcOk = true ∧ f.kind = 0 ∧ f.nak = false) ∧
    (let s : State := wLink; let w : FrameWire := wire 0 0 true; let l : List (Option Sys2Proof.Sym) := (frameSyms w (wLink.on F.LINK_STAT_FB_ACTIVE)).getD []; let f : RxFrame := readFrame l; Live s ∧ s.on F.LINK_STAT_UP = true ∧ frameSyms w (s.on F.LINK_STAT_FB_ACTIVE) = some l ∧ f.crcOk = true ∧ f.kind = 0 ∧ f.nak = true)) ∧
    ((let s : State := wLink; let w : FrameWire := wire 8 0; let l : List (Option Sys2Proof.Sym) := (frameSyms w (wLink.on F.LINK_STAT_FB_ACTIVE)).getD []; let f : RxFrame := readFrame l; Live s ∧ s.on F.LINK_STAT_UP = true ∧ frameSyms w (s.on F.LINK_STAT_FB_ACTIVE) = some l ∧ s.fenceDue = [] ∧ f.crcOk = true ∧ f.kind ≠ 0 ∧ f.seq = s.link.expect ∧ f.nak = false) ∧
    (let s : State := wLink; let w : FrameWire := wire 8 0 true; let t : State := wLink.frameErrors (codeErrors ((frameSyms w (wLink.on F.LINK_STAT_FB_ACTIVE)).getD [])); let l : List (Option Sys2Proof.Sym) := (frameSyms w (wLink.on F.LINK_STAT_FB_ACTIVE)).getD []; let f : RxFrame := readFrame l; Live s ∧ s.on F.LINK_STAT_UP = true ∧ frameSyms w (s.on F.LINK_STAT_FB_ACTIVE) = some l ∧ s.fenceDue = [] ∧ f.crcOk = true ∧ f.kind ≠ 0 ∧ f.seq = s.link.expect ∧ f.nak = true ∧ (t.takeAck f.ack).resend.on F.LINK_STAT_UP = true ∧ (t.takeAck f.ack).resend.fenceDue = []) ∧
    (let s : State := wLink; let w : FrameWire := wire 8 5; let l : List (Option Sys2Proof.Sym) := (frameSyms w (wLink.on F.LINK_STAT_FB_ACTIVE)).getD []; let f : RxFrame := readFrame l; Live s ∧ s.on F.LINK_STAT_UP = true ∧ frameSyms w (s.on F.LINK_STAT_FB_ACTIVE) = some l ∧ s.fenceDue = [] ∧ f.crcOk = true ∧ f.kind ≠ 0 ∧ f.seq ≠ s.link.expect)) ∧
    ((let s : State := wLink; let f : RxFrame := { kind := 8, vl := 1, seq := 0, ack := 0 }; s.on F.HOST_STATUS_FW_RUN = true ∧ f.kind < 9) ∧
    (let s : State := State.reset; s.on F.HOST_STATUS_FW_RUN = false) ∧
    (let s : State := State.reset; Live s ∧ s.fenceDue = [] ∧ (s.framesGo = false ∨ s.link.unacked = []))) ∧
    ((let s : State := withLink wLink { unacked := [frame 8 [1]], resends := 6 }; Live s ∧ s.fenceDue = [] ∧ s.framesGo = true ∧ s.link.unacked ≠ [] ∧ s.link.resends < 7) ∧
    (let s : State := withLink wLink { unacked := [frame 8 [1]], resends := 7 }; Live s ∧ s.framesGo = true ∧ s.link.unacked ≠ [] ∧ 7 ≤ s.link.resends) ∧
    (let s : State := withLink wLink { ackOwed := true }; Live s ∧ s.framesGo = true ∧ s.link.ackOwed = true) ∧
    (let s : State := withLink wLink { start := some (0, true) }; s.framesGo = false)) ∧
    ((let s : State := State.reset; Live s ∧ (s.framesGo = false ∨ s.link.ackOwed = false)) ∧
    (let s : State := State.reset; Live s ∧ s.on F.LINK_STAT_UP = false)) :=
  ⟨by unfold Live; decide +kernel,
   by unfold Live; decide +kernel,
   by unfold Live; decide +kernel,
   by unfold Live; decide +kernel,
   by unfold Live; decide +kernel,
   by unfold Live; decide +kernel⟩

theorem test_witness_TwinMailboxesAndLaneTests :
    ((let s : State := wLink; let v : Word := 1; FwUp s ∧ s.on F.MBX_D2T_GO_FULL = false ∧ bitAt (BitVec.toNat v) 0 = true) ∧
    (let s : State := State.reset; let v : Word := 0; Live s ∧ (s.on F.MBX_D2T_GO_FULL = true ∨ bitAt (BitVec.toNat v) 0 = false)) ∧
    (let s : State := (withFrame wLink (frame 5 [0])).putBit F.MBX_T2D_GO_FULL true; let x : RzFrame := frame 5 [0]; Frames s 5 x ∧ s.on F.MBX_T2D_GO_FULL = true)) ∧
    ((let s : State := withFrame wLink (frame 5 [0, crcWords [0]]); let x : RzFrame := frame 5 [0, crcWords [0]]; let ws : List Word := List.map (fun i => x.payload.getD i 0) (List.range 16); Frames s 5 x ∧ s.on F.MBX_T2D_GO_FULL = false ∧ isReply ws = true) ∧
    (let s : State := withFrame wLink (frame 5 [1]); let x : RzFrame := frame 5 [1]; let ws : List Word := List.map (fun i => x.payload.getD i 0) (List.range 16); Frames s 5 x ∧ s.on F.MBX_T2D_GO_FULL = false ∧ isReply ws = false) ∧
    (let s : State := wLink.putBit F.MBX_T2D_GO_FULL true; Live s ∧ s.on F.MBX_T2D_GO_FULL = true)) ∧
    ((let s : State := withFrame wLink (frame 6 []); Live s ∧ s.on F.MBX_T2D_GO_FULL = false) ∧
    (let s : State := withFrame wLink (frame 6 []); let x : RzFrame := frame 6 []; Frames s 6 x) ∧
    (let s : State := told wFw 0x0804 [255, 0]; let src : Source := .h2d; let c : Cmd := (s.oldest Source.h2d).getD {  }; Starts s src 2052 c ∧ s.fenceDue = [] ∧ c.p 1 / 256 = 0)) ∧
    ((let s : State := told (wRole wFw 2) 0x0804 [256, 0]; let src : Source := .h2d; let c : Cmd := (s.oldest Source.h2d).getD {  }; Starts s src 2052 c ∧ s.fenceDue = [] ∧ c.p 1 / 256 ≠ 0 ∧ c.target < 8 ∧ s.role ≠ 0) ∧
    (let s : State := told (wFw.put F.ETH_CFG_SPEED 1 0) 0x0804 [256, 0] 8; let src : Source := .h2d; let c : Cmd := (s.oldest Source.h2d).getD {  }; Starts s src 2052 c ∧ s.fenceDue = [] ∧ c.p 1 / 256 ≠ 0 ∧ 8 ≤ c.target ∧ s.get F.ETH_CFG_SPEED (c.target - 8) ≠ 0) ∧
    (let s : State := told wFw 0x0804 [256, 0] 8; let src : Source := .h2d; let c : Cmd := (s.oldest Source.h2d).getD {  }; Starts s src 2052 c ∧ s.fenceDue = [] ∧ c.p 1 / 256 ≠ 0 ∧ 8 ≤ c.target ∧ s.get F.ETH_CFG_SPEED (c.target - 8) = 0)) ∧
    ((let s : State := told wFw 0x0804 [256, 0] 1; let src : Source := .h2d; let c : Cmd := (s.oldest Source.h2d).getD {  }; Starts s src 2052 c ∧ s.fenceDue = [] ∧ c.p 1 / 256 ≠ 0 ∧ c.target < 8 ∧ s.role = 0 ∧ s.on F.LINK_STAT_UP = false) ∧
    (let s : State := told wLink 0x0804 [256, 0] 1; let src : Source := .h2d; let c : Cmd := (s.oldest Source.h2d).getD {  }; Starts s src 2052 c ∧ s.fenceDue = [] ∧ c.p 1 / 256 ≠ 0 ∧ c.target < 8 ∧ s.role = 0 ∧ s.on F.LINK_STAT_UP = true) ∧
    (let s : State := doing wFw 0x0804 [256, 0] 8; let e : Source × Cmd := (s.runningCmd 2052).getD (Source.h2d, {  }); Live s ∧ s.runningCmd 2052 = some e ∧ 8 ≤ e.2.target)) ∧
    ((let s : State := doing wFw 0x0804 [256, 3] 1; let e : Source × Cmd := (s.runningCmd 2052).getD (Source.h2d, {  }); Live s ∧ s.runningCmd 2052 = some e ∧ e.2.target < 8 ∧ (s.finish e .done [0, 0]).on F.LINK_STAT_UP = false) ∧
    (let s : State := doing wLink 0x0804 [256, 3] 1; let e : Source × Cmd := (s.runningCmd 2052).getD (Source.h2d, {  }); Live s ∧ s.runningCmd 2052 = some e ∧ e.2.target < 8 ∧ (s.finish e .done [0, 0]).on F.LINK_STAT_UP = true) ∧
    (let s : State := State.reset; Live s ∧ s.fenceDue = [] ∧ s.runningCmd 2052 = none)) :=
  ⟨by unfold Frames FwUp Live; decide +kernel,
   by unfold Frames Live; decide +kernel,
   by unfold Starts Frames Live; decide +kernel,
   by unfold Starts Live; decide +kernel,
   by unfold Starts Live; decide +kernel,
   by unfold Live; decide +kernel⟩

theorem test_witness_TwinRoles :
    ((let s : State := told wFw 0x0801 [3, 0]; let src : Source := .h2d; let c : Cmd := (s.oldest Source.h2d).getD {  }; let policy : ℕ := bitsOf (c.p 2) 4 2; Starts s src 2049 c ∧ (2 < c.p 1 ∨ policy = 3 ∨ bitsOf (c.p 2) 1 3 ≠ 0 ∨ bitsOf (c.p 2) 6 26 ≠ 0)) ∧
    (let s : State := told (wRole wFw 1) 0x0801 [2, 0]; let src : Source := .h2d; let c : Cmd := (s.oldest Source.h2d).getD {  }; let policy : ℕ := bitsOf (c.p 2) 4 2; Starts s src 2049 c ∧ 1 ≤ c.p 1 ∧ c.p 1 ≤ 2 ∧ policy ≠ 3 ∧ bitsOf (c.p 2) 1 3 = 0 ∧ bitsOf (c.p 2) 6 26 = 0 ∧ s.role ≠ 0) ∧
    (let s : State := told wFw 0x0801 [1, 0]; let src : Source := .h2d; let c : Cmd := (s.oldest Source.h2d).getD {  }; let policy : ℕ := bitsOf (c.p 2) 4 2; Starts s src 2049 c ∧ 1 ≤ c.p 1 ∧ c.p 1 ≤ 2 ∧ policy ≠ 3 ∧ bitsOf (c.p 2) 1 3 = 0 ∧ bitsOf (c.p 2) 6 26 = 0 ∧ s.role = 0 ∧ (s.on F.LINK_STAT_UP = false ∨ s.partnerSeen = false))) ∧
    ((let s : State := told (withTwin wLink { hbAny := some 0, hbTime := some 0, hbFields := beat 0, peer := [0xC0] }) 0x0801 [2, 0]; let src : Source := .h2d; let c : Cmd := (s.oldest Source.h2d).getD {  }; let hot : ℕ := bitsOf (c.p 2) 0 1; let policy : ℕ := bitsOf (c.p 2) 4 2; Starts s src 2049 c ∧ 1 ≤ c.p 1 ∧ c.p 1 ≤ 2 ∧ policy ≠ 3 ∧ bitsOf (c.p 2) 1 3 = 0 ∧ bitsOf (c.p 2) 6 26 = 0 ∧ s.role = 0 ∧ s.on F.LINK_STAT_UP = true ∧ s.partnerSeen = true ∧ s.roleFits (c.p 1) hot policy = false) ∧
    (let s : State := told (wPair 0 0) 0x0801 [1, 0]; let src : Source := .h2d; let c : Cmd := (s.oldest Source.h2d).getD {  }; let hot : ℕ := bitsOf (c.p 2) 0 1; let policy : ℕ := bitsOf (c.p 2) 4 2; Starts s src 2049 c ∧ 1 ≤ c.p 1 ∧ c.p 1 ≤ 2 ∧ policy ≠ 3 ∧ bitsOf (c.p 2) 1 3 = 0 ∧ bitsOf (c.p 2) 6 26 = 0 ∧ s.role = 0 ∧ s.on F.LINK_STAT_UP = true ∧ s.partnerSeen = true ∧ s.roleFits (c.p 1) hot policy = true) ∧
    (let s : State := told (wPair 1 2) 0x0801 [0, 0]; let src : Source := .h2d; let c : Cmd := (s.oldest Source.h2d).getD {  }; let policy : ℕ := bitsOf (c.p 2) 4 2; Starts s src 2049 c ∧ c.p 1 = 0 ∧ policy ≠ 3 ∧ bitsOf (c.p 2) 1 3 = 0 ∧ bitsOf (c.p 2) 6 26 = 0 ∧ s.role = 1 ∧ roleOf s.twin.hbFields = 2)) ∧
    ((let s : State := told (wPair 2 1) 0x0801 [0, 0]; let src : Source := .h2d; let c : Cmd := (s.oldest Source.h2d).getD {  }; let policy : ℕ := bitsOf (c.p 2) 4 2; Starts s src 2049 c ∧ c.p 1 = 0 ∧ policy ≠ 3 ∧ bitsOf (c.p 2) 1 3 = 0 ∧ bitsOf (c.p 2) 6 26 = 0 ∧ (s.role ≠ 1 ∨ roleOf s.twin.hbFields ≠ 2)) ∧
    (let s : State := State.reset; s.splits = []) ∧
    (let s : State := told wFw 0x0802 []; s.splits = [])) ∧
    ((let s : State := told wFw 0x0803 []; s.splits = []) ∧
    (let s : State := told wFw 0x0802 []; let src : Source := .h2d; let c : Cmd := (s.oldest Source.h2d).getD {  }; Starts s src 2050 c) ∧
    (let s : State := told wFw 0x0803 []; let w : ℕ := BitVec.toNat (s.twin.peer.getD 0 0); let src : Source := .h2d; let c : Cmd := (s.oldest Source.h2d).getD {  }; Starts s src 2051 c ∧ s.twin.handover = none ∧ (s.role ≠ 1 ∨ w % 4 ≠ 2 ∨ bitAt w 7 = false))) ∧
    ((let s : State := told ((wPair 1 2).putBit F.LINK_STAT_UP false) 0x0803 []; let w : ℕ := BitVec.toNat (s.twin.peer.getD 0 0); let src : Source := .h2d; let c : Cmd := (s.oldest Source.h2d).getD {  }; Starts s src 2051 c ∧ s.twin.handover = none ∧ s.role = 1 ∧ w % 4 = 2 ∧ bitAt w 7 = true ∧ s.on F.LINK_STAT_UP = false) ∧
    (let s : State := told (wPair 1 2) 0x0803 []; let w : ℕ := BitVec.toNat (s.twin.peer.getD 0 0); let src : Source := .h2d; let c : Cmd := (s.oldest Source.h2d).getD {  }; Starts s src 2051 c ∧ s.twin.handover = none ∧ s.role = 1 ∧ w % 4 = 2 ∧ bitAt w 7 = true ∧ s.on F.LINK_STAT_UP = true) ∧
    (let s : State := told (withTwin (wRole wLink 1) { handover := some .h2d }) 0x0803 []; let src : Source := .h2d; let c : Cmd := (s.oldest Source.h2d).getD {  }; Starts s src 2051 c ∧ s.twin.handover ≠ none)) ∧
    ((let s : State := withFrame (wPair 2 1) (frame 2 [1]); let f : RzFrame := frame 2 [1]; Frames s 2 f ∧ f.word 0 = 1 ∧ (s.consume f).role = 2) ∧
    (let s : State := withFrame (withTwin (wRole wLink 1) { asked := true }) (frame 2 [2]); let f : RzFrame := frame 2 [2]; Frames s 2 f ∧ f.word 0 = 2 ∧ s.twin.asked = true ∧ (s.consume f).role = 1) ∧
    (let s : State := withFrame wLink (frame 2 [3]); let f : RzFrame := frame 2 [3]; Frames s 2 f ∧ (f.word 0 ≠ 1 ∨ (s.consume f).role ≠ 2) ∧ (f.word 0 ≠ 2 ∨ s.twin.asked = false ∨ (s.consume f).role ≠ 1))) ∧
    ((let s : State := wPair 2 1; Live s ∧ s.role = 2 ∧ s.beatWaits = false) ∧
    (let s : State := bobbed State.reset 8 (bobIn .open); let id : ℕ := 8; (s.bob id).sample = none ∧ (s.bob id).state ≠ .free) ∧
    (let s : State := wPair 1 2; Live s ∧ (s.role ≠ 2 ∨ s.beatWaits = true)) ∧
    (let s : State := withTwin (wRole wLink 1) { asked := true }; Live s ∧ s.twin.asked = true ∧ (s.frameWaits 2 fun f => f.word 0 == 2) = false)) ∧
    ((let s : State := State.reset; Live s ∧ (s.twin.asked = false ∨ (s.frameWaits 2 fun f => f.word 0 == 2) = true)) ∧
    (let s : State := wPair 1 2; Live s ∧ s.role = 1 ∧ s.twin.hbTime.isSome = true ∧ s.twin.lost = false ∧ s.beatWaits = false ∧ s.twin.waiting = []) ∧
    (let s : State := State.reset; Live s ∧ (s.role ≠ 1 ∨ s.twin.lost = true ∨ s.twin.hbTime = none ∨ s.beatWaits = true))) :=
  ⟨by unfold Starts Live; decide +kernel,
   by unfold Starts Live; decide +kernel,
   by unfold Starts Live; decide +kernel,
   by unfold Starts Live; decide +kernel,
   by unfold Starts Live; decide +kernel,
   by unfold Frames Live; decide +kernel,
   by unfold Live; decide +kernel,
   by unfold Live; decide +kernel⟩

theorem test_witness_TwinTraffic :
    ((let s : State := wLink; FwUp s ∧ s.on F.LINK_STAT_UP = true) ∧
    (let s : State := wFw; Live s ∧ (s.on F.LINK_STAT_UP = false ∨ s.on F.HOST_STATUS_FW_RUN = false)) ∧
    (let s : State := withFrame wLink (frame 1 [2]); let f : RzFrame := frame 1 [2]; Frames s 1 f ∧ bitAt (f.word 0) 6 = false)) ∧
    ((let s : State := withFrame wLink (frame 1 (beat 1)); let f : RzFrame := frame 1 (beat 1); let u : State := if roleOf f.payload = 0 then (({ s.consume f with twin := { s.twin with partnerSeq := f.word 0 / 2 ^ 16, hbAny := some s.time.uptime, hbRecv := s.time.uptime, hbFields := f.payload } } : State)).latency f else ((({ s.consume f with twin := { s.twin with partnerSeq := f.word 0 / 2 ^ 16, hbAny := some s.time.uptime, hbRecv := s.time.uptime, hbFields := f.payload } } : State)).latency f).validBeat f (roleOf f.payload); Frames s 1 f ∧ bitAt (f.word 0) 6 = true ∧ u.role ≠ 1) ∧
    (let s : State := withFrame (wRole wLink 1) (frame 1 (beat 2)); let f : RzFrame := frame 1 (beat 2); let u : State := if roleOf f.payload = 0 then (({ s.consume f with twin := { s.twin with partnerSeq := f.word 0 / 2 ^ 16, hbAny := some s.time.uptime, hbRecv := s.time.uptime, hbFields := f.payload } } : State)).latency f else ((({ s.consume f with twin := { s.twin with partnerSeq := f.word 0 / 2 ^ 16, hbAny := some s.time.uptime, hbRecv := s.time.uptime, hbFields := f.payload } } : State)).latency f).validBeat f (roleOf f.payload); Frames s 1 f ∧ bitAt (f.word 0) 6 = true ∧ u.role = 1 ∧ roleOf f.payload = 2 ∧ u.twin.syncSent = false) ∧
    (let s : State := withFrame (withTwin (wRole wLink 1) { syncSent := true }) (frame 1 (beat 2)); let f : RzFrame := frame 1 (beat 2); let u : State := if roleOf f.payload = 0 then (({ s.consume f with twin := { s.twin with partnerSeq := f.word 0 / 2 ^ 16, hbAny := some s.time.uptime, hbRecv := s.time.uptime, hbFields := f.payload } } : State)).latency f else ((({ s.consume f with twin := { s.twin with partnerSeq := f.word 0 / 2 ^ 16, hbAny := some s.time.uptime, hbRecv := s.time.uptime, hbFields := f.payload } } : State)).latency f).validBeat f (roleOf f.payload); Frames s 1 f ∧ bitAt (f.word 0) 6 = true ∧ u.role = 1 ∧ roleOf f.payload = 2 ∧ u.twin.syncSent = true)) ∧
    ((let s : State := withFrame (wRole wLink 1) (frame 1 (beat 0)); let f : RzFrame := frame 1 (beat 0); let u : State := if roleOf f.payload = 0 then (({ s.consume f with twin := { s.twin with partnerSeq := f.word 0 / 2 ^ 16, hbAny := some s.time.uptime, hbRecv := s.time.uptime, hbFields := f.payload } } : State)).latency f else ((({ s.consume f with twin := { s.twin with partnerSeq := f.word 0 / 2 ^ 16, hbAny := some s.time.uptime, hbRecv := s.time.uptime, hbFields := f.payload } } : State)).latency f).validBeat f (roleOf f.payload); Frames s 1 f ∧ bitAt (f.word 0) 6 = true ∧ u.role = 1 ∧ roleOf f.payload ≠ 2) ∧
    (let s : State := withFrame wLink (frame 7 [1]); let f : RzFrame := frame 7 [1]; Frames s 7 f ∧ (s.consume f).role ≠ 2) ∧
    (let s : State := withFrame (wPair 2 1) (frame 7 [1]); let f : RzFrame := frame 7 [1]; let t : State := s.consume f; Frames s 7 f ∧ t.role = 2 ∧ f.word 0 = 1)) ∧
    ((let s : State := withFrame (wPair 2 1) (frame 7 [2]); let f : RzFrame := frame 7 [2]; let t : State := s.consume f; Frames s 7 f ∧ t.role = 2 ∧ f.word 0 = 2) ∧
    (let s : State := withFrame (wPair 2 1) (frame 7 [3]); let f : RzFrame := frame 7 [3]; let t : State := s.consume f; Frames s 7 f ∧ t.role = 2 ∧ f.word 0 = 3) ∧
    (let s : State := withFrame (wPair 2 1) (frame 7 [4]); let f : RzFrame := frame 7 [4]; let t : State := s.consume f; Frames s 7 f ∧ t.role = 2 ∧ f.word 0 = 4)) ∧
    ((let s : State := withFrame (wPair 2 1) (frame 7 [5]); let f : RzFrame := frame 7 [5]; let t : State := s.consume f; Frames s 7 f ∧ t.role = 2 ∧ f.word 0 = 5) ∧
    (let s : State := withFrame (wPair 2 1) (frame 7 [6]); let f : RzFrame := frame 7 [6]; let t : State := s.consume f; Frames s 7 f ∧ t.role = 2 ∧ f.word 0 = 6) ∧
    (let s : State := withFrame (wPair 2 1) (frame 7 [7]); let f : RzFrame := frame 7 [7]; let t : State := s.consume f; Frames s 7 f ∧ t.role = 2 ∧ f.word 0 = 7)) ∧
    ((let s : State := withFrame (wPair 2 1) (frame 7 [8]); let f : RzFrame := frame 7 [8]; let t : State := s.consume f; Frames s 7 f ∧ t.role = 2 ∧ f.word 0 = 8) ∧
    (let s : State := withFrame (wPair 2 1) (frame 7 [9]); let f : RzFrame := frame 7 [9]; let t : State := s.consume f; Frames s 7 f ∧ t.role = 2 ∧ f.word 0 = 9) ∧
    (let s : State := withFrame (wPair 2 1) (frame 7 [10]); let f : RzFrame := frame 7 [10]; let t : State := s.consume f; Frames s 7 f ∧ t.role = 2 ∧ (f.word 0 = 0 ∨ 9 < f.word 0))) ∧
    ((let s : State := withFrame wLink (frame 8 [9]); let f : RzFrame := frame 8 [9]; let id : ℕ := f.word 0 % 4096; Frames s 8 f ∧ ((s.consume f).role ≠ 1 ∨ (s.bob id).state = BobState.free)) ∧
    (let s : State := bobbed (withFrame (withTwin (wRole wLink 1) { waiting := [(9, verdict0)] }) (frame 8 [9, 0])) 9 (bobIn .closedInput); let f : RzFrame := frame 8 [9, 0]; let mine : Verdict := verdict0; let id : ℕ := f.word 0 % 4096; Frames s 8 f ∧ (s.consume f).role = 1 ∧ (s.bob id).state ≠ BobState.free ∧ tget? s.twin.waiting id = some mine) ∧
    (let s : State := bobbed (withFrame (wRole wLink 1) (frame 8 [9, 0])) 9 { bobIn .closedInput with tested := true }; let f : RzFrame := frame 8 [9, 0]; let id : ℕ := f.word 0 % 4096; Frames s 8 f ∧ (s.consume f).role = 1 ∧ (s.bob id).state ≠ BobState.free ∧ tget? s.twin.waiting id = none ∧ ((s.bob id).tested = true ∨ (s.bob id).ended = true))) ∧
    ((let s : State := bobbed (withFrame (wRole wLink 1) (frame 8 [9, 0])) 9 (bobIn .closedInput); let f : RzFrame := frame 8 [9, 0]; let id : ℕ := f.word 0 % 4096; Frames s 8 f ∧ (s.consume f).role = 1 ∧ (s.bob id).state ≠ BobState.free ∧ tget? s.twin.waiting id = none ∧ (s.bob id).tested = false ∧ (s.bob id).ended = false) ∧
    (let s : State := withTwin (wRole wLink 1) { waiting := [(9, verdict0)] }; let b : Fin 4096 := 9; let v : Verdict := verdict0; Live s ∧ tget? s.twin.waiting ↑b = some v ∧ s.role = 1 ∧ (s.frameWaits 8 fun f => f.word 0 % 4096 == ↑b) = false) ∧
    (let s : State := State.reset; let b : Fin 4096 := 0; Live s ∧ (tget? s.twin.waiting ↑b = none ∨ s.role ≠ 1 ∨ (s.frameWaits 8 fun f => f.word 0 % 4096 == ↑b) = true))) :=
  ⟨by unfold Frames FwUp Live; decide +kernel,
   by unfold Frames Live; decide +kernel,
   by unfold Frames Live; decide +kernel,
   by unfold Frames Live; decide +kernel,
   by unfold Frames Live; decide +kernel,
   by unfold Frames Live; decide +kernel,
   by unfold Frames Live; decide +kernel,
   by unfold Frames Live; decide +kernel⟩

theorem test_witness_Resets :
    ((let s : State := State.reset; (s.boot.transition = none ∨ s.boot.held = true)) ∧
    (let s : State := withBoot State.reset { transition := some (.h2d, 7, 0) }; Live s ∧ s.boot.transition ≠ none) ∧
    (let s : State := wFw; Live s ∧ s.on F.HOST_STATUS_FW_RUN = true) ∧
    (let s : State := State.reset; Live s ∧ s.on F.HOST_STATUS_FW_RUN = false)) ∧
    ((let s : State := withBoot State.reset { resetDue := some 1 }; let c : ℕ := 1; Live s ∧ s.boot.resetDue = some c ∧ s.doneWaits = false) ∧
    (let s : State := withHost (withBoot State.reset { resetDue := some 2 }) { resetReply := [1, 2], d2hQueue := [[1, 2]] }; Live s ∧ (s.boot.resetDue = none ∨ s.doneWaits = true)) ∧
    (let s : State := State.reset; s.host.resetReply = []) ∧
    (let c : ℕ := 0; c < 16)) ∧
    ((let s : State := State.reset.enterReset 0 { thermal := true }; s.boot.held = true ∧ (s.boot.holds.thermal = true ∨ s.boot.holds.timed = true)) ∧
    (let s : State := wHeld; s.boot.held = true ∧ s.boot.holds.thermal = false ∧ s.boot.holds.timed = false) ∧
    (let s : State := State.reset.enterReset 0 { timed := true }; s.boot.held = true ∧ s.boot.holds = { timed := true })) ∧
    ((let s : State := State.reset.enterReset 0 { thermal := true }; s.boot.held = true ∧ s.boot.holds = { thermal := true })) :=
  ⟨by unfold Live; decide +kernel,
   by unfold Live; decide +kernel,
   by decide +kernel,
   by decide +kernel⟩

theorem test_witness_BootAndFirmware :
    ((let s : State := withHost State.reset { csiReady := true }; Live s ∧ s.host.csiReady = true) ∧
    (let s : State := State.reset; Live s ∧ s.host.csiReady = false ∧ s.host.statusQ = []) ∧
    (let s : State := told State.reset 0x0901 [2636]; let src : Source := .h2d; let c : Cmd := (s.oldest Source.h2d).getD {  }; Starts s src 2305 c ∧ s.boot.load = none ∧ s.on F.HOST_STATUS_FW_RUN = false ∧ fwLengthOk (c.p 1) = false)) ∧
    ((let s : State := told wFw 0x0901 [2640]; let src : Source := .h2d; let c : Cmd := (s.oldest Source.h2d).getD {  }; Starts s src 2305 c ∧ s.boot.load = none ∧ s.on F.HOST_STATUS_FW_RUN = true) ∧
    (let s : State := told (wWiped.put F.LC_STATE_STATE 0x1F) 0x0901 [2640]; let src : Source := .h2d; let c : Cmd := (s.oldest Source.h2d).getD {  }; Starts s src 2305 c ∧ s.boot.load = none ∧ fwLengthOk (c.p 1) = true ∧ s.life = 0x1F) ∧
    (let s : State := told (withHost (withBoot State.reset { load := some { src := .csi 0, len := 2640 } }) { running := [(.csi 0, { opcode := 0x0901, bulkLen := 2640, bulkEnd := .awaiting })] }) 0x0901 [2640]; let l : FwLoad := { src := .csi 0, len := 2640 }; let e : Source × Cmd := s.loadCmd.getD (Source.h2d, {  }); let src : Source := .h2d; let c : Cmd := (s.oldest Source.h2d).getD {  }; Starts s src 2305 c ∧ s.boot.load = some l ∧ s.on F.HOST_STATUS_FW_RUN = false ∧ fwLengthOk (c.p 1) = true ∧ s.loadCmd = some e ∧ e.2.bulkEnd = .awaiting) ∧
    (let s : State := told State.reset 0x0901 [2640]; let src : Source := Source.h2d; let c : Cmd := (s.oldest Source.h2d).getD {  }; Starts s src 2305 c ∧ s.boot.load = none ∧ c.bulkEnd = BulkEnd.none ∧ fwLengthOk (c.p 1) = true ∧ s.on F.HOST_STATUS_FW_RUN = false ∧ s.life ≠ 31) ∧
    (let s : State := withHost State.reset { csiReady := true, waiting := [(.csi 0, { opcode := 0x0901, params := [2640], bulkLen := 2636, bulkEnd := .complete })] }; let src : Source := .csi 0; let c : Cmd := (s.oldest src).getD {  }; Starts s src 2305 c ∧ s.boot.load = none ∧ isCsi src = true ∧ c.bulkLen ≠ c.p 1 ∧ fwLengthOk (c.p 1) = true ∧ s.on F.HOST_STATUS_FW_RUN = false ∧ s.life ≠ 31)) ∧
    ((let s : State := withHost State.reset { csiReady := true, waiting := [(.csi 0, { opcode := 0x0901, params := [2640], bulkLen := 2640, bulkEnd := .complete })] }; let src : Source := .csi 0; let c : Cmd := (s.oldest src).getD {  }; Starts s src 2305 c ∧ s.boot.load = none ∧ isCsi src = true ∧ c.bulkLen = c.p 1 ∧ c.bulkEnd = BulkEnd.complete ∧ fwLengthOk (c.p 1) = true ∧ s.on F.HOST_STATUS_FW_RUN = false ∧ s.life ≠ 31) ∧
    (let s : State := told State.reset 0x0902 [0, 1]; let src : Source := .h2d; let c : Cmd := (s.oldest Source.h2d).getD {  }; Starts s src 2306 c ∧ s.boot.load = none) ∧
    (let s : State := told (doing (withBoot State.reset { load := some { src := .h2d, len := 2640 } }) 0x0901 [2640]) 0x0902 [0, 1]; let l : FwLoad := { src := .h2d, len := 2640 }; let src : Source := .h2d; let c : Cmd := (s.oldest Source.h2d).getD {  }; Starts s src 2306 c ∧ s.boot.load = some l ∧ l.src = Source.h2d ∧ s.on F.HOST_STATUS_FW_RUN = false ∧ c.p 1 % 4 = 0 ∧ c.p 1 + (wordsBytes (List.drop 1 c.params)).length ≤ l.len)) ∧
    ((let s : State := told (doing (withBoot State.reset { load := some { src := .csi 0, len := 2640 } }) 0x0901 [2640]) 0x0902 [0, 1]; let l : FwLoad := { src := .csi 0, len := 2640 }; let src : Source := .h2d; let c : Cmd := (s.oldest Source.h2d).getD {  }; Starts s src 2306 c ∧ s.boot.load = some l ∧ (l.src ≠ Source.h2d ∨ s.on F.HOST_STATUS_FW_RUN = true)) ∧
    (let s : State := told (doing (withBoot State.reset { load := some { src := .h2d, len := 2640 } }) 0x0901 [2640]) 0x0902 [2, 1]; let l : FwLoad := { src := .h2d, len := 2640 }; let src : Source := .h2d; let c : Cmd := (s.oldest Source.h2d).getD {  }; Starts s src 2306 c ∧ s.boot.load = some l ∧ l.src = Source.h2d ∧ s.on F.HOST_STATUS_FW_RUN = false ∧ (c.p 1 % 4 ≠ 0 ∨ l.len < c.p 1 + (wordsBytes (List.drop 1 c.params)).length)) ∧
    (let s : State := wUp.putBit F.HOST_STATUS_FW_RUN true |> fun (s : State) => withField s { s.field with allDue := true, clearDue := true, link := { s.field.link with resync := false } }; s.field.allDue = true ∧ s.field.clearDue = true ∧ s.on F.FIELD_LINK_STAT_UP = true ∧ s.on F.HOST_STATUS_FW_RUN = true ∧ s.field.link.resync = false) ∧
    (let s : State := State.reset; (s.field.allDue = false ∨ s.on F.FIELD_LINK_STAT_UP = false ∨ s.on F.HOST_STATUS_FW_RUN = false ∨ s.field.link.resync = true)) ∧
    (let s : State := withHost State.reset { statusQ := [[1]] }; Live s ∧ s.host.csiReady = false) ∧
    (let s : State := wOwned; Live s ∧ (s.boot.image = none ∨ s.boot.started = true ∨ s.on F.MEM_WIPE_STAT_SRAM_DONE = false))) ∧
    ((let s : State := wImage; let bs : List Byte := wImage.boot.image.getD []; Live s ∧ s.boot.image = some bs ∧ s.boot.started = false ∧ s.on F.MEM_WIPE_STAT_SRAM_DONE = true) ∧
    (let s : State := withBoot wImage { started := true }; Live s ∧ s.boot.started = true ∧ s.on F.HOST_STATUS_FW_RUN = false) ∧
    (let s : State := withBoot wOwned { loomTested := true, idDone := true }; Live s ∧ (s.boot.started = false ∨ s.on F.HOST_STATUS_FW_RUN = true))) ∧
    ((let s : State := withBoot wOwned { loomTested := true, idDone := true }; Live s ∧ (s.on F.HOST_STATUS_FW_RUN = false ∨ s.life = 0 ∨ s.boot.idDone = true)) ∧
    (let s : State := wOwned; FwUp s ∧ s.life ≠ 0 ∧ s.boot.idDone = false) ∧
    (let s : State := wOwned; FwUp s ∧ s.on F.MEM_WIPE_STAT_DDR_DONE = true ∧ s.boot.loomTested = false)) ∧
    ((let s : State := State.reset; Live s ∧ (s.on F.HOST_STATUS_FW_RUN = false ∨ s.on F.MEM_WIPE_STAT_DDR_DONE = false ∨ s.boot.loomTested = true)) ∧
    (let s : State := withBoot wOwned { loomTested := true, idDone := true }; s.readyNow = true ∧ s.on F.HOST_STATUS_READY = false) ∧
    (let s : State := State.reset; s.readyNow = false)) :=
  ⟨by unfold Starts Live; decide +kernel,
   by unfold Starts Live; decide +kernel,
   by unfold Starts Live; decide +kernel,
   by unfold Starts Live; decide +kernel,
   by unfold Live; decide +kernel,
   by unfold FwUp Live; decide +kernel,
   by unfold Live; decide +kernel⟩

theorem test_witness_AttestAndLifeCycle :
    ((let s : State := told State.reset 0x0903 []; let src : Source := .h2d; let c : Cmd := (s.oldest Source.h2d).getD {  }; Starts s src 2307 c ∧ (s.life = 0 ∨ s.life = 0x1F ∨ s.boot.attestOpen = true)) ∧
    (let s : State := told { wOwned with fuses := { sessions := 4096 } } 0x0903 []; let src : Source := .h2d; let c : Cmd := (s.oldest Source.h2d).getD {  }; Starts s src 2307 c ∧ s.life ≠ 0 ∧ s.life ≠ 0x1F ∧ s.boot.attestOpen = false ∧ 4096 ≤ s.fuses.sessions) ∧
    (let s : State := told wOwned 0x0903 []; let src : Source := .h2d; let c : Cmd := (s.oldest Source.h2d).getD {  }; Starts s src 2307 c ∧ s.life ≠ 0 ∧ s.life ≠ 0x1F ∧ s.boot.attestOpen = false ∧ s.fuses.sessions < 4096)) ∧
    ((let s : State := doing wOwned 0x0903 []; let e : Source × Cmd := (s.runningCmd 2307).getD (Source.h2d, {  }); Live s ∧ s.runningCmd 2307 = some e) ∧
    (let s : State := State.reset; Live s ∧ s.runningCmd 2307 = none) ∧
    (let s : State := told wOwned 0x0904 [1, 2, 3, 4, 5, 6, 7, 8, 0, 0x21]; let src : Source := .h2d; let c : Cmd := (s.oldest Source.h2d).getD {  }; Starts s src 2308 c ∧ s.on F.SEC_ATTEST_OPEN = false)) ∧
    ((let s : State := told ((wOwned.putBit F.SEC_ATTEST_OPEN true).put F.SEC_ATTEST_CNT_COUNT 32768) 0x0904 [1, 2, 3, 4, 5, 6, 7, 8, 0, 0x21]; let src : Source := .h2d; let c : Cmd := (s.oldest Source.h2d).getD {  }; Starts s src 2308 c ∧ s.on F.SEC_ATTEST_OPEN = true ∧ 32768 ≤ s.get F.SEC_ATTEST_CNT_COUNT) ∧
    (let s : State := told (wOwned.putBit F.SEC_ATTEST_OPEN true) 0x0904 [1, 2, 3, 4, 5, 6, 7, 8, 1, 0x21]; let src : Source := .h2d; let c : Cmd := (s.oldest Source.h2d).getD {  }; let a : ℕ := c.p 9 + 2 ^ 32 * bitsOf (c.p 10) 0 8; Starts s src 2308 c ∧ s.on F.SEC_ATTEST_OPEN = true ∧ s.runningCmd 2308 = none ∧ s.get F.SEC_ATTEST_CNT_COUNT < 32768 ∧ a % 64 ≠ 0) ∧
    (let s : State := told (wOwned.putBit F.SEC_ATTEST_OPEN true) 0x0904 [1, 2, 3, 4, 5, 6, 7, 8, 0, 0x21]; let src : Source := .h2d; let c : Cmd := (s.oldest Source.h2d).getD {  }; let a : ℕ := c.p 9 + 2 ^ 32 * bitsOf (c.p 10) 0 8; Starts s src 2308 c ∧ s.on F.SEC_ATTEST_OPEN = true ∧ s.runningCmd 2308 = none ∧ s.get F.SEC_ATTEST_CNT_COUNT < 32768 ∧ a % 64 = 0 ∧ s.bufferRefusal a 5568 = none)) ∧
    ((let s : State := told (wOwned.putBit F.SEC_ATTEST_OPEN true) 0x0904 [1, 2, 3, 4, 5, 6, 7, 8, 0, 0x23]; let st : Status := .badParam; let src : Source := .h2d; let c : Cmd := (s.oldest Source.h2d).getD {  }; let a : ℕ := c.p 9 + 2 ^ 32 * bitsOf (c.p 10) 0 8; Starts s src 2308 c ∧ s.on F.SEC_ATTEST_OPEN = true ∧ s.runningCmd 2308 = none ∧ s.get F.SEC_ATTEST_CNT_COUNT < 32768 ∧ a % 64 = 0 ∧ s.bufferRefusal a 5568 = some st) ∧
    (let s : State := doing (wOwned.putBit F.SEC_ATTEST_OPEN true) 0x0904 [1, 2, 3, 4, 5, 6, 7, 8, 0, 0x23]; let st : Status := .badParam; let e : Source × Cmd := (s.runningCmd 2308).getD (Source.h2d, {  }); let a : ℕ := e.2.p 9 + 2 ^ 32 * bitsOf (e.2.p 10) 0 8; Live s ∧ s.runningCmd 2308 = some e ∧ s.bufferRefusal a 5568 = some st) ∧
    (let s : State := doing (wOwned.putBit F.SEC_ATTEST_OPEN true) 0x0904 [1, 2, 3, 4, 5, 6, 7, 8, 0, 0x21]; let e : Source × Cmd := (s.runningCmd 2308).getD (Source.h2d, {  }); let a : ℕ := e.2.p 9 + 2 ^ 32 * bitsOf (e.2.p 10) 0 8; Live s ∧ s.runningCmd 2308 = some e ∧ s.bufferRefusal a 5568 = none)) ∧
    ((let s : State := told wOwned 0x0905 [2, 0]; Live s ∧ s.runningCmd 2308 = none) ∧
    (let s : State := told wOwned 0x0905 [2, 0]; let src : Source := .h2d; let c : Cmd := (s.oldest Source.h2d).getD {  }; Starts s src 2309 c ∧ c.p 1 ∉ lcCodes) ∧
    (let s : State := told wOwned 0x0905 [1, 0]; let src : Source := .h2d; let c : Cmd := (s.oldest Source.h2d).getD {  }; Starts s src 2309 c ∧ c.p 1 ∈ lcCodes ∧ (lcAllowed s.life (c.p 1) = false ∨ s.role ≠ 0 ∨ (∃ p < 8, s.get F.SCHED_JOB_STATE p ≠ 0) ∨ s.on F.LC_STATE_FUSE_FAULT = true ∧ c.p 1 ≠ 31))) ∧
    ((let s : State := told wOwned 0x0905 [7, 0x21000000]; let src : Source := .h2d; let c : Cmd := (s.oldest Source.h2d).getD {  }; Starts s src 2309 c ∧ c.p 1 ∈ lcCodes ∧ lcAllowed s.life (c.p 1) = true ∧ (∀ p < 8, s.get F.SCHED_JOB_STATE p = 0) ∧ s.role = 0 ∧ (s.on F.LC_STATE_FUSE_FAULT = false ∨ c.p 1 = 31)) ∧
    (let s : State := doing (withBoot wOwned { transition := some (.h2d, 7, 0x2300000000) }) 0x0905 [7, 0x23000000]; let src : Source := .h2d; let b : ℕ := 7; let a : ℕ := 0x2300000000; let st : Status := .badParam; let e : Source × Cmd := (s.runningCmd 2309).getD (Source.h2d, {  }); Live s ∧ s.boot.transition = some (src, b, a) ∧ s.runningCmd 2309 = some e ∧ s.boot.resetDue ≠ some 2 ∧ s.bufferRefusal a 2700 = some st) ∧
    (let s : State := doing (withBoot wOwned { transition := some (.h2d, 7, 0x2100000000) }) 0x0905 [7, 0x21000000]; let src : Source := .h2d; let b : ℕ := 7; let a : ℕ := 0x2100000000; let e : Source × Cmd := (s.runningCmd 2309).getD (Source.h2d, {  }); let r : State × Data := s.readData a 2700; Live s ∧ s.boot.transition = some (src, b, a) ∧ s.runningCmd 2309 = some e ∧ s.boot.resetDue ≠ some 2 ∧ s.bufferRefusal a 2700 = none ∧ dataGood r.2 = false)) ∧
    ((let s : State := wRecord; let src : Source := .h2d; let b : ℕ := 7; let a : ℕ := 0; let e : Source × Cmd := (wRecord.runningCmd 2309).getD (Source.h2d, { opcode := a, tag := a, target := a, bulkLen := a }); let r : State × Data := wRecord.readData a 2700; Live s ∧ s.boot.transition = some (src, b, a) ∧ s.runningCmd 2309 = some e ∧ s.boot.resetDue ≠ some 2 ∧ s.bufferRefusal a 2700 = none ∧ dataGood r.2 = true) ∧
    (let s : State := State.reset; Live s ∧ (s.boot.transition = none ∨ s.boot.resetDue = some 2)) ∧
    (let b : ℕ := 1; let s : State := State.reset; s.fuses.life ∈ lcCodes ∧ lcAllowed s.fuses.life b = true)) ∧
    ((let b : ℕ := 1; let k : BurnCut := { fields := 1, part := [] }; (b = 1 ∨ b = 31) ∧ k.fields ≤ 2) ∧
    (let s : State := State.reset; let k : BurnCut := { fields := 3, part := [] }; k.fields ≤ 3 ∧ 3 ≤ k.fields ∧ s.fuses.ownerSeed.written = false ∧ s.fuses.ownerAuth.written = false ∧ s.fuses.modelKey.written = false) ∧
    (let b : ℕ := 7; let k : BurnCut := { fields := 0, part := [] }; (b = 7 ∨ b = 15) ∧ k.fields = 0) ∧
    (let b : ℕ := 15; let k : BurnCut := { fields := 2, part := [] }; (b = 7 ∨ b = 15) ∧ 1 ≤ k.fields ∧ 2 ≤ k.fields) ∧
    (let a : ℕ := 3; let b : ℕ := 7; lcAllowed a b = true)) :=
  ⟨by unfold Starts Live; decide +kernel,
   by unfold Starts Live; decide +kernel,
   by unfold Starts Live; decide +kernel,
   by unfold Starts Live; decide +kernel,
   by unfold Starts Live; decide +kernel,
   by unfold Starts Live; decide +kernel,
   by unfold Live; decide +kernel,
   by decide +kernel⟩

set_option maxRecDepth 20000 in
theorem test_witness_RegisterWrites_lock : let a : ℕ := R.BLOCK_LOCK.addr 0 0; let r : Reg := R.BLOCK_LOCK; let s : State := State.reset;
    Live s ∧ s.fencedReg r a = false ∧ r ∈ [R.BLOCK_LOCK, R.LOOM_LOCK, R.MILL_LOCK] ∧ findReg regTable a = some (r, 0, 0) :=
  ⟨by unfold Live; decide +kernel, by decide +kernel, .head _, rfl⟩


/-- A WLOAD of one INT8 cell into group 0 that takes tag 5. -/
def load0 : QIns := { words := [3, 5, 0x101, 0, 0, 0, 0, 0] }

/-- An MM of one INT8 product with its row of outputs at 0x40. -/
def mm0 : QIns := { words := [0x40001, 0x1010001, 0, 0, 0, 0, 0x40, 0] }

/-- Loom 3 with an MM that has issued and not yet executed. -/
def wIssued : Loom := { issued := [(2, [{ run := some mm0 }])] }

theorem test_witness_LoomInstructions_turns :
    (∀ c ∈ (wLoom.loom 3).cmds, c.given = false) ∧
    (let s : State := withLoom { queues := [(0, [load0])] };
      (s.loom 3).queue 0 = [load0] ∧ s.frozen 3 = false ∧ load0.aux.blind = false ∧ engineRuns 0 load0 = false ∧
        s.get F.LOOM_ENG_STAT_STATUS 3 = 0) ∧
    (let l : Loom := { tags := [(5, flying)] };
      load0.sound = true ∧ load0.uses = some 5 ∧ l.complete 5 = false) ∧
    (let q : QIns := { mm0 with words := [0x50001, 0x1010001, 0, 0, 0, 0, 0x40, 0] };
      q.pass true = true ∧ ∀ r ∈ [load0], r.kind = 3 ∨ r.group ≠ q.group) := by
  decide +kernel

theorem test_witness_LoomInstructions_array :
    (let q : QIns := { words := [0x13, 5, 0x101, 0, 0, 0, 0, 0] };
      q.sound = true ∧ mm0 ∈ wIssued.pendings ∧ q.split ≠ wIssued.split) ∧
    (load0.sound = true ∧ mm0 ∈ wIssued.pendings ∧ load0.kind = 3 ∧ mm0.pass false = true ∧ mm0.group = load0.group) ∧
    (load0.split = ({} : Loom).split ∧ ∀ r ∈ ({} : Loom).pendings, r.group ≠ load0.group) ∧
    (let l : Loom := { queues := [(2, [load0, { words := [0xC] }])] };
      l.endIssued 0 2 = false ∧ { words := [0xC] } ∈ (l.giveUp 0).queue 2) := by
  decide +kernel

/-- The tile of one cell that holds 2. -/
def tile0 : Tile := { mode := 0, split := 0, rows := 1, cols := 1, cells := [[(2, false)]] }

/-- Loom 3 with that tile in its back registers and 5 in the first bytes of its scratchpad. -/
def wArray : State :=
  (wWiped.setLoom 3 { groups := [(0, { back := some tile0 })] }).writeData (scratch 3 0) (goodData (List.replicate 128 5))

/-- A CONV of one 2 by 2 kernel over a 2 by 2 input with one column of padding on the left. -/
def conv0 (padMode : Nat) : QIns :=
  { words := [w32 (4 + 0x10000 * padMode), 0x112, 1, 0x20002, 0x10001, 0, 64, 1, 0x1000, 128, 0x2000, 64, 4, 5, 7, 0] }

theorem test_witness_LoomArithmetic_joins :
    (modeFloat ({ mode := 0 } : Reading).mode = false) ∧
    (let r : Reading := { mode := 4 };
      modeFloat r.mode = true ∧ ∀ t ∈ [({ a := some 0x38, w := 0x38 } : Term)], t.a.isSome = true ∧ t.bad = false ∧
        ((r.fmt r.aE5M2).val (t.a.getD 0)).special = false ∧ ((r.fmt r.wE5M2).val t.w).special = false) ∧
    (wloadOk load0.words = true ∧ 0 < fld load0.words 2 0 7 ∧ 0 < fld load0.words 2 8 7) ∧
    (let x : MmIns := mmIns mm0.words;
      0 < x.len ∧ 0 < x.outs ∧ (tile0.cells.getD 0 [])[0]? = some (2, false) ∧ modeBook x.rd.mode = false) ∧
    (let x : MmIns := { mmIns mm0.words with rd := { mode := 2 } };
      0 < x.len ∧ (tile0.cells.getD 0 [])[0]? = some (2, false) ∧ modeBook x.rd.mode = true) ∧
    (∃ c ∈ [({ freshAcc 0 with bad := true } : Acc)], c.bad = true) ∧ (∀ c ∈ [freshAcc 0], c.bad = false) := by
  decide +kernel

theorem test_witness_LoomArithmetic_mm :
    let x : MmIns := mmIns mm0.words;
    let a : State := wArray.swapIn 3 x.group x.first (groupWidth x.split) tile0;
    let vs := a.readRows x.aStride x.vecBytes x.m (scratch 3 x.aBase);
    let rs := vs.2.zipIdx.map fun (e : Data × Nat) => x.rowAccs (wArray.profile == 2) (a.loom 3) 3 tile0 e.2 e.1;
    x.ok mm0.words mm0.aux = true ∧ x.keep = false ∧ ((wArray.loom 3).group x.group).back = some tile0 ∧
      tile0.mode = x.rd.mode ∧ tile0.split = x.split ∧ x.classOk (wArray.loom 3).accs = true ∧ mm0.aux.parity = false ∧
      x.accOut = true ∧ (∀ r ∈ rs, r.2.any = false) ∧ rs.map (fun r => r.1.map (·.sum)) = [[10]] := by
  decide +kernel

theorem test_witness_LoomArithmetic_fault :
    let q : QIns := { words := [1, 0x1010001, 0, 0, 0, 0, 0x40, 0], aux := { parity := true } };
    let x : MmIns := mmIns q.words;
    x.ok q.words q.aux = true ∧ x.keep = false ∧ ((wArray.loom 3).group x.group).back = some tile0 ∧ tile0.mode = x.rd.mode ∧
      tile0.split = x.split ∧ x.classOk (wArray.loom 3).accs = true ∧ q.aux.parity = true ∧ x.accOut = false := by
  decide +kernel

theorem test_witness_LoomArithmetic_taps :
    (let x : ConvIns := convIns (conv0 3).words;
      x.tap 1 0 0 0 = some (0, 0) ∧ x.padMode = 3 ∧ x.tap 0 0 0 0 = none ∧ (1 : Int) * 0 - x.padL + x.dil * 0 < 0) ∧
    (convIns (conv0 0).words).padMode = 0 ∧ (convIns (conv0 1).words).padMode = 1 ∧ (convIns (conv0 2).words).padMode = 2 ∧
    (let x : ConvIns := convIns (conv0 0).words;
      let s : State := wArray.setLoom 3 {};
      let a : State := (s.reshape 3 x.split).touchTaps 3 x;
      let w : Data := goodData [1, 2, 3, 4];
      x.ok (conv0 0).words (conv0 0).aux = true ∧ ((s.loom 3).group x.group).back = none ∧ (conv0 0).aux.parity = false ∧
        x.cb = false ∧ modeFloat x.rd.mode = false ∧ 0 < x.outW ∧ 0 < x.outH ∧
        ∀ ox < x.outW, ∀ oy < x.outH, ∀ oc < x.cout, (x.acc a.mem (a.loom 3) (s.profile == 2) 3 w ox oy oc).2.any = false) := by
  decide +kernel

theorem test_witness_LoomArithmetic_vprog :
    (let q : QIns := { words := [6, 1, 0, 0, 0, 0, 0x40, 0] };
      let x : MmIns := mmIns q.words;
      plainBits q.words maskMm = true ∧ 1 ≤ x.m ∧ x.m ≤ 1024 ∧ x.aBase % 64 = 0 ∧ x.aStride % 64 = 0 ∧ x.oBase % 64 = 0 ∧
        x.aBase + (x.m - 1) * x.aStride + (if x.aStride = 0 then 64 else x.aStride) ≤ scratchLen ∧
        x.oBase + x.m * q.aux.stride ≤ scratchLen ∧ wArray.partialsOf 3 q.aux 0 = []) ∧
    wArray.floatOn 3 = false ∧
    (let s : State := withSched (wJob false) { (wJob false).sched with models := [{ model0 false with header := [0, 0, w32 0x1020300] }] };
      (s.put F.DET_ARITH_PROFILE_PROFILE 3).splitsSums 0 = true) := by
  decide +kernel

theorem test_witness_RegisterWrites_ibi :
    let s : State := withI3c (State.reset.setReg R.HOST_IBI_EN 0) { ibiOn := true }
    Live (s.putBit F.HOST_IBI_CAUSE_THERMAL true) ∧ (s.putBit F.HOST_IBI_CAUSE_THERMAL true).ibiActive = 0 ∧
      ((s.putBit F.HOST_IBI_CAUSE_THERMAL true).setReg R.HOST_IBI_EN 0xFFF).ibiActive ≠ 0 ∧ s.i3c.ibiOn = true ∧ Live s ∧
      s.ibiActive = 0 ∧ (s.setReg R.HOST_IBI_EN 0).ibiActive = 0 := by
  unfold Live; decide +kernel

set_option maxRecDepth 20000 in
theorem test_witness_MemoryCommands_latched :
    let s : State := { State.reset with latch := [(R.MEM_UE_ADDR_HI.addr 0 0, 7)] }
    let a : Nat := R.MEM_UE_ADDR_HI.addr 0 0
    findReg regTable a = some (R.MEM_UE_ADDR_HI, 0, 0) ∧ s.region a = .block ∧ a % 4 = 0 ∧
      s.fencedReg R.MEM_UE_ADDR_HI a = false ∧ R.MEM_UE_ADDR_HI.base ≠ R.ETH_TXTS_ID.base ∧ tget? s.latch a = some 7 :=
  ⟨rfl, by decide +kernel⟩

set_option maxRecDepth 20000 in
theorem test_witness_MemoryCommands_read :
    let a : Nat := R.MEM_UE_ADDR_LO.addr 0 0
    findReg regTable a = some (R.MEM_UE_ADDR_LO, 0, 0) ∧ (R.MEM_UE_ADDR_LO, R.MEM_UE_ADDR_HI) ∈ latchPairs ∧
      R.MBX_H2D_DATA ∈ [R.MBX_H2D_DATA, R.MBX_H2D_GO, R.MBX_D2H_DATA, R.MBX_D2H_GO] ∧ State.reset.region a = .block ∧ a % 4 = 0 ∧
      State.reset.fencedReg R.MEM_UE_ADDR_LO a = false ∧ tget? State.reset.latch a = none ∧ critWord R.MEM_UE_ADDR_LO 0 = none ∧
      R.MEM_UE_ADDR_LO.base ≠ R.TK_TIME_NS.base ∧ R.MEM_UE_ADDR_LO.rc < 2 ^ 32 ∧
      bitAt R.DET_TDC_CAUSE0.rc 0 = true ∧
      0 < R.MBX_H2D_DATA.count ∧ tget? State.reset.latch (R.MBX_H2D_DATA.addr 0 0) = none :=
  ⟨rfl, .tail _ (.tail _ (.head _)), .head _, by decide +kernel⟩

theorem test_witness_FieldCommands_ssi :
    let s : State := told (State.reset.own 4 ownNone 0) 0x0705 [5, 0x3E8000C, 0] 1
    let c : Cmd := (s.oldest Source.h2d).getD {}
    Starts s .h2d 0x0705 c ∧ c.target < 2 ∧ encOk c = true ∧ s.heldByOther 4 ownSsi 0 = false ∧ s.encInUse c.target = false ∧
      c.p 1 % 4 = 1 ∧ s.splits = [] := by
  unfold Starts Live; decide +kernel
end Sys2Proof.Tests
end

section
/-! Replies to the mailbox (R65): what stands in MBX_D2H after a status packet is placed there, and where a reply goes
while others wait. -/

namespace Sys2Proof.Machine

/-! ### Repetitions and registers -/

/-- A view of the state that repetition `k` sets and the later ones leave alone reads as set: once `k` is behind the index,
the view stands. -/
theorem timesFrom_view_eq {σ β : Type} {f : σ → Nat → σ} {v : σ → β} {k : Nat} {b : β} (hset : ∀ t, v (f t k) = b)
    (hkeep : ∀ t m, k < m → v (f t m) = v t) {n i : Nat} {s : σ} (hk : k < i + n) (hs : i ≤ k ∨ v s = b) :
    v (timesFrom f n i s) = b := by
  induction n generalizing i s with
  | zero => exact hs.resolve_left (by omega)
  | succ n ih =>
    refine ih (by omega) ?_
    rcases Nat.lt_trichotomy i k with hlt | rfl | hgt
    · exact .inl hlt
    · exact .inr (hset s)
    · exact .inr ((hkeep s i hgt).trans (hs.resolve_left (by omega)))

/-- The registers of a family with a stride stand at different addresses. -/
theorem Reg.addr_ne {r : Reg} (hr : 0 < r.stride) {i m : Nat} (h : i ≠ m) : r.addr i 0 ≠ r.addr m 0 := by
  intro e
  have hmul : i * r.stride = m * r.stride := by simpa [Reg.addr] using e
  exact h (Nat.eq_of_mul_eq_mul_right hr hmul)

/-- A register at another address keeps its value when a field is written. -/
theorem State.reg_put_other (s : State) (f : Fld) (q : Reg) (v i j k l : Nat) (h : q.addr k l ≠ f.reg.addr i j) :
    (s.put f v i j).reg q k l = s.reg q k l := State.reg_setReg_other _ _ _ _ _ _ _ _ h

/-- A mailbox's data register reads as the word of the message. -/
theorem State.reg_fillBox (s : State) {r : Reg} (hr : 0 < r.stride) (ws : List Word) {i : Nat} (hi : i < ws.length)
    (h16 : i < 16) : (s.fillBox r ws).reg r i = ws[i].toNat := by
  refine timesFrom_view_eq (v := fun t : State => t.reg r i) (k := i) ?_ ?_ (by omega) (.inl (Nat.zero_le i))
  · intro t
    simp [hi, Nat.mod_eq_of_lt ws[i].isLt]
  · intro t m hm
    split
    · exact State.reg_setReg_other _ _ _ _ _ _ _ _ (Reg.addr_ne hr (by omega))
    · rfl

/-! ### A status packet in MBX_D2H -/

/-- The registers after a status packet is placed: the data, FULL and the REPLY cause. -/
theorem State.placeD2h_regs (s : State) (ws : List Word) : (s.placeD2h ws).regs =
    (((s.fillBox R.MBX_D2H_DATA ws).putBit F.MBX_D2H_GO_FULL true).put F.HOST_IBI_CAUSE_REPLY 1).regs :=
  State.raise_regs _ _

/-- The mailbox is full once a status packet is placed. -/
@[simp] theorem State.placeD2h_full (s : State) (ws : List Word) : (s.placeD2h ws).on F.MBX_D2H_GO_FULL = true := by
  have hreg : F.MBX_D2H_GO_FULL.reg.addr 0 0 ≠ F.HOST_IBI_CAUSE_REPLY.reg.addr 0 0 := by decide
  rw [State.on_congr (s.placeD2h_regs ws), State.on, State.get_put_other _ _ _ _ _ _ _ _ hreg]
  exact State.on_putBit _ _ _ _ _ rfl (by decide)

/-- A placed status packet leaves the replies that wait. -/
@[simp] theorem State.placeD2h_queue (s : State) (ws : List Word) :
    (s.placeD2h ws).host.d2hQueue = s.host.d2hQueue := by
  simp only [State.placeD2h, State.raise_host, State.putBit_host]
  rw [State.fillBox_only]

/-- MBX_D2H_DATA holds the words of a placed status packet. -/
theorem State.placeD2h_data (s : State) (ws : List Word) {i : Nat} (hi : i < ws.length) (h16 : i < 16) :
    (s.placeD2h ws).reg R.MBX_D2H_DATA i = ws[i].toNat := by
  have hcause : R.MBX_D2H_DATA.addr i 0 ≠ F.HOST_IBI_CAUSE_REPLY.reg.addr 0 0 := by
    simp only [Reg.addr, R.MBX_D2H_DATA, F.HOST_IBI_CAUSE_REPLY, R.HOST_IBI_CAUSE]; omega
  have hfull : R.MBX_D2H_DATA.addr i 0 ≠ F.MBX_D2H_GO_FULL.reg.addr 0 0 := by
    simp only [Reg.addr, R.MBX_D2H_DATA, F.MBX_D2H_GO_FULL, R.MBX_D2H_GO]; omega
  rw [State.reg_congr (s.placeD2h_regs ws), State.reg_put_other _ _ _ _ _ _ _ _ hcause, State.putBit,
    State.reg_put_other _ _ _ _ _ _ _ _ hfull]
  exact State.reg_fillBox s (by decide) ws hi h16

/-! ### Where a reply to the mailbox goes -/

/-- A reply to a free mailbox, none waiting, is placed. -/
theorem State.postD2h_of_free {s : State} (ws : List Word) (hfull : s.on F.MBX_D2H_GO_FULL = false)
    (hq : s.host.d2hQueue = []) : s.postD2h ws = s.placeD2h ws :=
  if_pos (by simp [hfull, hq])

/-- A mailbox that is full, or that others wait for, is not given a reply at once. -/
theorem State.d2h_not_free {s : State} (h : s.on F.MBX_D2H_GO_FULL = true ∨ s.host.d2hQueue ≠ []) :
    ¬ (!s.on F.MBX_D2H_GO_FULL && s.host.d2hQueue.isEmpty) = true := by
  rcases h with hfull | hq
  · simp [hfull]
  · simp [hq]

/-- A reply that finds room in the queue waits behind the others. -/
theorem State.postD2h_of_room {s : State} (ws : List Word) (h : s.on F.MBX_D2H_GO_FULL = true ∨ s.host.d2hQueue ≠ [])
    (hroom : s.host.d2hQueue.length < 64) :
    s.postD2h ws = { s with host := { s.host with d2hQueue := s.host.d2hQueue ++ [ws] } } :=
  (if_neg (State.d2h_not_free h)).trans (if_pos hroom)

/-- A reply that finds the queue full goes out on channel 22. -/
theorem State.postD2h_of_queue_full {s : State} (ws : List Word) (hlen : 64 ≤ s.host.d2hQueue.length) :
    s.postD2h ws = s.sendStatus ws := by
  have hq : s.host.d2hQueue ≠ [] := List.ne_nil_of_length_pos (by omega)
  exact (if_neg (State.d2h_not_free (.inr hq))).trans (if_neg (by omega))

/-- Settles O12, one clause of R65 for each place a reply can go: the mailbox, the queue, channel 22. -/
theorem replyQueue : Obligations.ReplyQueue := by
  unfold Obligations.ReplyQueue
  refine ⟨fun s ws hfull hq hlen => ?_, fun s ws h hroom => State.postD2h_of_room ws h hroom,
    fun s ws hlen => State.postD2h_of_queue_full ws hlen⟩
  refine ⟨s.placeD2h ws, State.postD2h_of_free ws hfull hq, s.placeD2h_full ws, (s.placeD2h_queue ws).trans hq, ?_⟩
  intro i hi
  have hget : ws.getD i 0 = ws[i] := by simp [List.getD_eq_getElem?_getD, hi]
  rw [s.placeD2h_data ws hi (by omega), hget]
  simp [w32]

end Sys2Proof.Machine
end

section
/-! The record of timing-dependent choices (R298): what a clear leaves in it, what a choice counts and notes, and what a
read of its count and of its cause fields does. -/

namespace Sys2Proof.Machine

open Sys2Proof.Claims

/-! ### Registers set to zero -/

/-- Registers set to zero in turn: what the register file then holds at an address. -/
theorem tget?_zeroRegs (s : State) (l : List Reg) (a : Nat) :
    tget? (foldState (fun (t : State) (r : Reg) => t.setReg r 0) s l).regs a =
      if a ∈ l.map (·.addr 0 0) then some (w32 0) else tget? s.regs a := by
  induction l generalizing s with
  | nil => simp
  | cons r l ih =>
    rw [foldState_cons, ih, State.setReg, tget?_tset, List.map_cons]
    by_cases hl : a ∈ l.map (·.addr 0 0)
    · rw [if_pos hl, if_pos (List.mem_cons_of_mem _ hl)]
    · by_cases hr : a = r.addr 0 0
      · rw [if_neg hl, if_pos hr, if_pos (by simp [hr])]
      · rw [if_neg hl, if_neg hr, if_neg (by simpa [hr] using hl)]

/-! ### CLEAR -/

/-- The registers of the record. -/
def tdcRegs : List Reg :=
  [R.DET_TDC, R.DET_TDC_CAUSE0, R.DET_TDC_CAUSE1, R.DET_TDC_FIRST_NS, R.DET_TDC_FIRST_S_LO, R.DET_TDC_FIRST_S_HI]

/-- A clear changes registers and the mark of the first choice alone. -/
theorem State.clearTdc_only (s : State) : s.clearTdc = { s with regs := s.clearTdc.regs, tdcSeen := false } := rfl

/-- A clear touches no register outside the record. -/
theorem State.clearTdc_sameRegs (s : State) : SameRegs s s.clearTdc (tdcRegs.map (·.addr 0 0)) := fun a ha =>
  (tget?_zeroRegs _ tdcRegs a).trans (if_neg ha)

/-- Every register of the record reads zero after a clear. -/
theorem State.reg_clearTdc (s : State) {r : Reg} (hr : r ∈ tdcRegs) : s.clearTdc.reg r = 0 := by
  have hget : tget? s.clearTdc.regs (r.addr 0 0) = some (w32 0) :=
    (tget?_zeroRegs _ tdcRegs _).trans (if_pos (List.mem_map_of_mem hr))
  rw [State.reg, hget]
  rfl

/-- Every field of the record reads zero after a clear. -/
theorem State.get_clearTdc (s : State) {f : Fld} (hf : f.reg ∈ tdcRegs) : s.clearTdc.get f = 0 := by
  rw [State.get, s.reg_clearTdc hf]
  simp [bitsOf]

/-! ### The cause fields -/

/-- A cause field stands in one of the two cause registers. -/
theorem tdcField_reg (c : Nat) : (tdcField c).reg = R.DET_TDC_CAUSE0 ∨ (tdcField c).reg = R.DET_TDC_CAUSE1 := by
  unfold tdcField
  split
  exacts [.inl rfl, .inl rfl, .inl rfl, .inl rfl, .inr rfl, .inr rfl, .inr rfl]

/-- A cause field is a byte. -/
theorem tdcField_width (c : Nat) : (tdcField c).width = 8 := by unfold tdcField; split <;> rfl

/-- A cause field lies within its register. -/
theorem tdcField_fits (c : Nat) : (tdcField c).lo + (tdcField c).width ≤ 32 := by unfold tdcField; split <;> decide

/-- Every bit of a cause field is of the kind that a read clears. -/
theorem tdcField_rc (c : Nat) : bitsOf (0xFFFFFFFF - (tdcField c).reg.rc) (tdcField c).lo (tdcField c).width = 0 := by
  unfold tdcField; split <;> decide

/-- A cause field stands in a register of the record. -/
theorem tdcField_mem (c : Nat) : (tdcField c).reg ∈ tdcRegs := by
  rcases tdcField_reg c with h | h <;> rw [h] <;> simp [tdcRegs]

/-! ### A choice -/

/-- The first choice is noted in the DET_TDC_FIRST registers alone. -/
theorem State.get_tdcFirst_other (s : State) (c : Nat) {f : Fld} (h : f.reg.addr 0 0 ∉
    [R.DET_TDC_FIRST_NS.addr 0 0, R.DET_TDC_FIRST_S_LO.addr 0 0, R.DET_TDC_FIRST_S_HI.addr 0 0]) :
    (s.tdcFirst c).get f = s.get f := by
  simp only [List.mem_cons, not_or] at h
  obtain ⟨hns, hlo, hhi, -⟩ := h
  unfold State.tdcFirst
  split
  · rfl
  · rw [State.get_put_other (h := hhi), State.get_put_other (h := hhi), State.get_put_other (h := hlo),
      State.get_put_other (h := hns)]
    rfl

/-- A choice counts one in COUNT, which wraps. -/
theorem State.get_tdc_count (s : State) (c : Nat) :
    (s.tdc c).get F.DET_TDC_COUNT = (s.get F.DET_TDC_COUNT + 1) % 2 ^ 32 := by
  have hcause : R.DET_TDC.addr 0 0 ≠ (tdcField c).reg.addr 0 0 := by
    rcases tdcField_reg c with h | h <;> rw [h] <;> decide
  calc (s.tdc c).get F.DET_TDC_COUNT
      = ((s.bumpWrap F.DET_TDC_COUNT).bump (tdcField c)).get F.DET_TDC_COUNT :=
        State.get_tdcFirst_other _ c (by decide)
    _ = (s.bumpWrap F.DET_TDC_COUNT).get F.DET_TDC_COUNT := State.get_put_other (h := hcause) ..
    _ = (s.get F.DET_TDC_COUNT + 1) % 2 ^ 32 := State.get_put (h := by decide) ..

/-- A choice counts one in its cause field, which saturates. -/
theorem State.get_tdc_cause (s : State) (c : Nat) :
    (s.tdc c).get (tdcField c) = min (s.get (tdcField c) + 1) 0xFF := by
  have hfirst : (tdcField c).reg.addr 0 0 ∉
      [R.DET_TDC_FIRST_NS.addr 0 0, R.DET_TDC_FIRST_S_LO.addr 0 0, R.DET_TDC_FIRST_S_HI.addr 0 0] := by
    rcases tdcField_reg c with h | h <;> rw [h] <;> decide
  have hcount : (tdcField c).reg.addr 0 0 ≠ F.DET_TDC_COUNT.reg.addr 0 0 := by
    rcases tdcField_reg c with h | h <;> rw [h] <;> decide
  calc (s.tdc c).get (tdcField c)
      = ((s.bumpWrap F.DET_TDC_COUNT).bump (tdcField c)).get (tdcField c) := State.get_tdcFirst_other _ c hfirst
    _ = min ((s.bumpWrap F.DET_TDC_COUNT).get (tdcField c) + 1) (2 ^ (tdcField c).width - 1) :=
        State.get_bumpBy _ _ _ _ _ (tdcField_fits c)
    _ = min (s.get (tdcField c) + 1) 0xFF := by
        rw [State.bumpWrap, State.get_put_other (h := hcount), tdcField_width]; rfl

/-- The DET_TDC_FIRST registers hold a cause and the time of its choice. -/
structure FirstChoice (t : State) (c now : Nat) : Prop where
  ns    : t.get F.DET_TDC_FIRST_NS_NS = timeNs now
  sLo   : t.get F.DET_TDC_FIRST_S_LO_S = timeSec now % 2 ^ 32
  sHi   : t.get F.DET_TDC_FIRST_S_HI_S = timeSec now / 2 ^ 32
  cause : t.get F.DET_TDC_FIRST_S_HI_CAUSE = c
  seen  : t.tdcSeen = true

/-- With none noted yet, a choice is noted with its cause and the device time. -/
theorem State.tdcFirst_unseen {s : State} (hs : s.tdcSeen = false) {c : Nat} (hc : c < 256) :
    FirstChoice (s.tdcFirst c) c s.time.now := by
  have hns : timeNs s.time.now < 2 ^ 32 := by unfold timeNs; omega
  have hhi : timeSec s.time.now / 2 ^ 32 < 2 ^ 16 := by unfold timeSec; omega
  rw [State.tdcFirst, hs, if_neg Bool.false_ne_true]
  dsimp only
  constructor
  case ns =>
    rw [State.get_put_other (h := by decide), State.get_put_other (h := by decide),
      State.get_put_other (h := by decide), State.get_put (h := by decide)]
    exact Nat.mod_eq_of_lt hns
  case sLo =>
    rw [State.get_put_other (h := by decide), State.get_put_other (h := by decide)]
    exact State.get_put (h := by decide) ..
  case sHi =>
    rw [State.get_put_apart _ F.DET_TDC_FIRST_S_HI_CAUSE F.DET_TDC_FIRST_S_HI_S _ _ _ rfl (by decide) (by decide),
      State.get_put (h := by decide)]
    exact Nat.mod_eq_of_lt hhi
  case cause =>
    rw [State.get_put (h := by decide)]
    exact Nat.mod_eq_of_lt hc
  case seen => rfl

/-! ### Reads of the record -/

/-- A read clears a field all of whose bits are of the kind that a read clears, where their reset value is zero. -/
theorem State.get_readClear (s : State) (f : Fld) (i j : Nat) (hrc : f.reg.rc ≠ 0) (hreset : f.reg.reset i j = 0)
    (hbits : bitsOf (0xFFFFFFFF - f.reg.rc) f.lo f.width = 0) : (s.readClear f.reg i j).get f i j = 0 := by
  have hkept : Nat.lor (without (s.reg f.reg i j) f.reg.rc) (Nat.land 0 f.reg.rc) =
      s.reg f.reg i j &&& (0xFFFFFFFF - f.reg.rc) := by
    show (s.reg f.reg i j &&& (0xFFFFFFFF - f.reg.rc)) ||| (0 &&& f.reg.rc) = _
    rw [Nat.zero_and, Nat.or_zero]
  rw [State.get, State.readClear, if_neg hrc, State.reg_setReg, hreset, hkept]
  apply Nat.eq_of_testBit_eq
  intro k
  rw [testBit_bitsOf, Nat.testBit_mod_two_pow, Nat.testBit_and, Nat.zero_testBit]
  by_cases hk : k < f.width
  · have hbit : (0xFFFFFFFF - f.reg.rc).testBit (f.lo + k) = false := by
      simpa [testBit_bitsOf, hk] using congrArg (·.testBit k) hbits
    simp [hbit]
  · simp [hk]

/-- A read changes no register but the one read. -/
theorem State.readClear_onlyRegs (s : State) (r : Reg) (i j : Nat) : OnlyRegs s (s.readClear r i j) [r.addr i j] := by
  unfold State.readClear
  split
  · exact ⟨rfl, fun _ _ => rfl⟩
  · exact ⟨rfl, fun a ha => tget?_setReg _ _ _ _ _ _ (by simpa using ha)⟩

/-- A read of a register of the record finds the value that it holds, unless one is latched; it latches nothing. -/
theorem State.readReg_tdc (s : State) {r : Reg} (hr : r = R.DET_TDC ∨ r = R.DET_TDC_CAUSE0 ∨ r = R.DET_TDC_CAUSE1)
    (hlatch : tget? s.latch (r.addr 0 0) = none) : s.readReg r 0 0 = (s.readClear r 0 0, s.reg r) := by
  have hcrit : critWord r 0 = none := by rcases hr with rfl | rfl | rfl <;> rfl
  have hshown : s.shown r 0 0 = s.reg r := by rcases hr with rfl | rfl | rfl <;> rfl
  have hhigh : s.latchHigh r 0 0 = s := by rcases hr with rfl | rfl | rfl <;> rfl
  have htxts : r.base ≠ R.ETH_TXTS_ID.base := by rcases hr with rfl | rfl | rfl <;> decide
  have htime : r.base ≠ R.TK_TIME_NS.base := by rcases hr with rfl | rfl | rfl <;> decide
  simp only [State.readReg, if_neg htxts, hlatch, hcrit, hshown, hhigh, if_neg htime]

/-- Settles O47, one clause of R298 after another: the clear, the choice after it, the reads of COUNT and of a cause
register, and how the counters end. -/
theorem timingChoiceRecord : Obligations.TimingChoiceRecord := by
  unfold Obligations.TimingChoiceRecord
  refine ⟨fun s hlive => ?clear, fun s cause => ?first, fun s hlatch => ?count, fun s r hr hlatch => ?causes,
    fun s cause => ⟨s.get_tdc_cause cause, s.get_tdc_count cause⟩⟩
  case clear =>
    have hzero : ∀ r ∈ tdcRegs, s.clearTdc.reg r = 0 := fun r hr => s.reg_clearTdc hr
    simp only [tdcRegs, List.forall_mem_cons] at hzero
    obtain ⟨hcount, hcause0, hcause1, hns, hlo, hhi, -⟩ := hzero
    exact ⟨s.clearTdc, onDevice_live hlive _, s.clearTdc_only, s.clearTdc_sameRegs, hcount,
      hcause0, hcause1, hns, hlo, hhi⟩
  case first =>
    have hcause : cause.val < 256 := by omega
    obtain ⟨hns, hlo, hhi, hc, hseen⟩ := State.tdcFirst_unseen
      (s := (s.clearTdc.bumpWrap F.DET_TDC_COUNT).bump (tdcField cause.val)) rfl hcause
    refine ⟨_, rfl, ?_, ?_, hns, hlo, hhi, hc, hseen⟩
    · rw [State.get_tdc_count, State.get_clearTdc s (by simp [tdcRegs, F.DET_TDC_COUNT])]; rfl
    · rw [State.get_tdc_cause, State.get_clearTdc s (tdcField_mem cause)]; rfl
  case count => exact s.readReg_tdc (.inl rfl) hlatch
  case causes =>
    refine ⟨s.readClear r 0 0, s.readReg_tdc (.inr hr) hlatch, s.readClear_onlyRegs r 0 0, ?_⟩
    rintro cause rfl
    have hrc : (tdcField cause.val).reg.rc ≠ 0 := by rcases hr with h | h <;> rw [h] <;> decide
    have hreset : (tdcField cause.val).reg.reset 0 0 = 0 := by rcases hr with h | h <;> rw [h] <;> rfl
    exact s.get_readClear _ 0 0 hrc hreset (tdcField_rc cause)

end Sys2Proof.Machine
end

section
/-! SYS_THROTTLE (R450, R451): what a write of the register leaves in its fields, and that the sensors' and the regulators'
part of a sample leave the register and the power state alone, so that the sample compares against what was written. -/

namespace Sys2Proof.Machine

open Sys2Proof.Claims

/-! ### The write -/

/-- A search of a register table passes over registers that do not hold the address. -/
theorem findReg_append {l : List Reg} {a : Nat} (h : ∀ r ∈ l, r.index? a = none) (m : List Reg) :
    findReg (l ++ m) a = findReg m a := by
  induction l with
  | nil => rfl
  | cons r l ih =>
    obtain ⟨hr, hl⟩ := List.forall_mem_cons.mp h
    rw [List.cons_append, findReg, hr]
    exact ih hl

/-- The register table's entry at the address of SYS_THROTTLE: it stands in the table's last part. -/
theorem findReg_throttle : findReg regTable R.SYS_THROTTLE.base = some (R.SYS_THROTTLE, 0, 0) :=
  (findReg_append (by decide +kernel) regTable7).trans rfl

/-- A write at the address of SYS_THROTTLE: refused under the SYS lock, else taken as R451 says; no fence holds it. -/
theorem State.writeRegWord_throttle (s : State) (v : Nat) : s.writeRegWord R.SYS_THROTTLE.base v =
    if s.locked R.SYS_THROTTLE.base then (s, .badState) else (s.writeThrottle v, .done) := by
  have hfence : s.fencedReg R.SYS_THROTTLE R.SYS_THROTTLE.base = false := by
    simp [State.fencedReg, R.SYS_THROTTLE]
  have hlock : s.refused R.SYS_THROTTLE R.SYS_THROTTLE.base = s.locked R.SYS_THROTTLE.base := Bool.true_and _
  simp [State.writeRegWord, findReg_throttle, hfence, hlock]

/-- A write changes SYS_THROTTLE alone. -/
theorem State.writeThrottle_onlyRegs (s : State) (v : Nat) : OnlyRegs s (s.writeThrottle v) [R.SYS_THROTTLE.base] :=
  ⟨rfl, fun a ha => tget?_setReg _ _ _ _ _ _ (by simpa [Reg.addr] using ha)⟩

/-- Fields laid side by side in a word as in SYS_THROTTLE are read back one by one. -/
theorem throttleFields {floor hyst cap : Nat} (hf : floor < 2 ^ 10) (hh : hyst < 2 ^ 4) (hc : cap < 2 ^ 9) :
    bitsOf ((floor + 2 ^ 12 * hyst + 2 ^ 16 * cap) % 2 ^ 32) 0 10 = floor ∧
      bitsOf ((floor + 2 ^ 12 * hyst + 2 ^ 16 * cap) % 2 ^ 32) 12 4 = hyst ∧
      bitsOf ((floor + 2 ^ 12 * hyst + 2 ^ 16 * cap) % 2 ^ 32) 16 9 = cap := by
  unfold bitsOf; omega

/-- The three fields of SYS_THROTTLE after a write, FLOOR rounded down and each clamped (R451). -/
theorem State.get_writeThrottle (s : State) (v : Nat) :
    (s.writeThrottle v).get F.SYS_THROTTLE_FLOOR = max 650 (min 900 (bitsOf v 0 10 / 10 * 10)) ∧
      (s.writeThrottle v).get F.SYS_THROTTLE_HYST = max 1 (min 15 (bitsOf v 12 4)) ∧
      (s.writeThrottle v).get F.SYS_THROTTLE_CAP = max 100 (min 320 (bitsOf v 16 9)) := by
  have hreg : (s.writeThrottle v).reg R.SYS_THROTTLE = throttleValue v % 2 ^ 32 := State.reg_setReg _ _ _ _ _
  have hget : ∀ f : Fld, f.reg = R.SYS_THROTTLE →
      (s.writeThrottle v).get f = bitsOf (throttleValue v % 2 ^ 32) f.lo f.width := by
    intro f hf
    rw [State.get, hf, hreg]
  obtain ⟨hfloor, hhyst, hcap⟩ := throttleFields (floor := min 900 (max 650 (bitsOf v 0 10 / 10 * 10)))
    (hyst := min 15 (max 1 (bitsOf v 12 4))) (cap := min 320 (max 100 (bitsOf v 16 9)))
    (by omega) (by omega) (by omega)
  rw [hget _ rfl, hget _ rfl, hget _ rfl]
  exact ⟨hfloor.trans (by omega), hhyst.trans (by omega), hcap.trans (by omega)⟩

/-! ### The sample -/

/-- Repetitions whose every step keeps a property, each at its own index, keep it. -/
theorem timesFrom_keeps_below {σ : Type} {f : σ → Nat → σ} {P : σ → Prop} {n i : Nat} {s : σ}
    (h : ∀ t k, k < i + n → P t → P (f t k)) (hs : P s) : P (timesFrom f n i s) := by
  induction n generalizing i s with
  | zero => exact hs
  | succ n ih => exact ih (fun t k hk => h t k (by omega)) (h s i (by omega) hs)

/-- SYS_THROTTLE and the power state stand as they stood. -/
def ThrottleKept (s t : State) : Prop := t.power = s.power ∧ t.reg R.SYS_THROTTLE = s.reg R.SYS_THROTTLE

section
variable {s t : State}

theorem ThrottleKept.get (h : ThrottleKept s t) {f : Fld} (hf : f.reg = R.SYS_THROTTLE) : t.get f = s.get f := by
  rw [State.get, State.get, hf, h.2]

theorem ThrottleKept.put (h : ThrottleKept s t) {f : Fld} {v i : Nat}
    (hf : R.SYS_THROTTLE.addr 0 0 ≠ f.reg.addr i 0) : ThrottleKept s (t.put f v i) :=
  ⟨h.1, (State.reg_put_other _ _ _ _ _ _ _ _ hf).trans h.2⟩

theorem ThrottleKept.putBit (h : ThrottleKept s t) {f : Fld} {b : Bool} {i : Nat}
    (hf : R.SYS_THROTTLE.addr 0 0 ≠ f.reg.addr i 0) : ThrottleKept s (t.putBit f b i) := h.put hf

theorem ThrottleKept.powerTerm (h : ThrottleKept s t) (r : Option (Nat × Nat)) : ThrottleKept s (t.powerTerm r).1 := by
  cases r with
  | none => exact h
  | some _ => exact h

theorem ThrottleKept.showRail (h : ThrottleKept s t) {cur valid : Fld} (r : Option (Nat × Nat))
    (hcur : R.SYS_THROTTLE.addr 0 0 ≠ cur.reg.addr 0 0) (hvalid : R.SYS_THROTTLE.addr 0 0 ≠ valid.reg.addr 0 0) :
    ThrottleKept s (t.showRail cur valid r) := by
  cases r with
  | none => exact h.putBit hvalid
  | some _ => exact (h.put hcur).putBit hvalid

/-- The sensors' part of a sample keeps SYS_THROTTLE and the power state. -/
theorem ThrottleKept.sampleTemps (h : ThrottleKept s t) (x : Telemetry) : ThrottleKept s (t.sampleTemps x) := by
  refine timesFrom_keeps_below (fun u k hk hu => ?_) h
  have hk4 : R.SYS_THROTTLE.addr 0 0 ≠ R.SYS_TEMP.addr k 0 := by
    simp only [Reg.addr, R.SYS_THROTTLE, R.SYS_TEMP]; omega
  split
  · exact (hu.put hk4).putBit hk4
  · exact hu

/-- The regulators' part of a sample keeps SYS_THROTTLE and the power state. -/
theorem ThrottleKept.sampleRails (h : ThrottleKept s t) (x : Telemetry) : ThrottleKept s (t.sampleRails x) := by
  unfold State.sampleRails
  extract_lets r a missing b c d e u
  have ha : ThrottleKept s a :=
    ((h.showRail (r 0) (by decide) (by decide)).showRail (r 1) (by decide) (by decide)).showRail (r 2)
      (by decide) (by decide)
  have hb : ThrottleKept s b := (ha.put (by decide)).putBit (by decide)
  have he : ThrottleKept s e.1 := ((hb.powerTerm (r 0)).powerTerm (r 1)).powerTerm (r 2)
  have hu : ThrottleKept s u := (he.put (by decide)).putBit (by decide)
  split
  · split
    · exact hu.put (by decide)
    · exact hu
  · exact hu

end

/-- A sample of running firmware takes FLOOR, then the sensors and the regulators, and compares (R450). -/
theorem execTelemetrySample_fwUp {s u : State} (h : FwUp s) (x : Telemetry)
    (hu : u = State.sampleRails
      (State.sampleTemps { s with power := { s.power with floor := s.get F.SYS_THROTTLE_FLOOR } } x) x) :
    Goes (.telemetrySample x) s
      (((u.putBit F.SYS_THROTTLE_STAT_HOT (decide (800 ≤ u.hottest))).putBit F.SYS_THROTTLE_STAT_POWER
        (decide (10 * u.get F.SYS_THROTTLE_CAP < u.get F.SYS_PWR_POWER))).throttle
        (decide (800 ≤ u.hottest) || decide (10 * u.get F.SYS_THROTTLE_CAP < u.get F.SYS_PWR_POWER))
        (decide (u.hottest < 8 * (100 - (u.get F.SYS_THROTTLE_HYST : Int))) &&
          decide (2 * u.get F.SYS_PWR_POWER < 19 * u.get F.SYS_THROTTLE_CAP))).settleVcore := by
  subst hu
  obtain ⟨hlive, hfw⟩ := h
  exact (onDevice_live hlive _).trans (congrArg _ (if_pos hfw))

/-- Firmware still runs after a write of SYS_THROTTLE. -/
theorem fwUp_writeThrottle {s : State} (h : FwUp s) (v : Nat) : FwUp (s.writeThrottle v) := by
  obtain ⟨hlive, hfw⟩ := h
  have hreg : (s.writeThrottle v).reg R.HOST_STATUS = s.reg R.HOST_STATUS :=
    State.reg_setReg_other _ _ _ _ _ _ _ _ (by decide)
  refine ⟨hlive, ?_⟩
  rw [State.on, State.get] at hfw ⊢
  exact hreg ▸ hfw

/-- Settles O9, one clause of R451 after another: what a write leaves, the sample after it, and the lock. -/
theorem throttleWriteClamps : Obligations.ThrottleWriteClamps := by
  unfold Obligations.ThrottleWriteClamps
  refine ⟨fun s v hlock => ?write, fun s t u w v x hot cool cap hyst hfw hlock ht hcap hhyst hu hhot hcool hw => ?sample,
    fun s v hlock => ?locked⟩
  case write =>
    refine ⟨s.writeThrottle v.toNat, ?_, s.writeThrottle_onlyRegs _, s.get_writeThrottle _⟩
    rw [State.writeRegWord_throttle, if_neg (by simp [hlock])]
  case sample =>
    obtain rfl : t = s.writeThrottle v.toNat := by
      rw [ht, State.writeRegWord_throttle, if_neg (by simp [hlock])]
    obtain ⟨-, hhystT, hcapT⟩ := s.get_writeThrottle v.toNat
    have hkept : ThrottleKept { s.writeThrottle v.toNat with
        power := { (s.writeThrottle v.toNat).power with floor := (s.writeThrottle v.toNat).get F.SYS_THROTTLE_FLOOR } } u :=
      hu ▸ ThrottleKept.sampleRails (ThrottleKept.sampleTemps ⟨rfl, rfl⟩ x) x
    have hcapU : u.get F.SYS_THROTTLE_CAP = cap := (hkept.get rfl).trans (hcapT.trans hcap.symm)
    have hhystU : u.get F.SYS_THROTTLE_HYST = hyst := (hkept.get rfl).trans (hhystT.trans hhyst.symm)
    have hgoes := execTelemetrySample_fwUp (fwUp_writeThrottle hfw v.toNat) x hu
    rw [hcapU, hhystU, ← hhot, ← hcool, ← hw] at hgoes
    have hpower : w.power = u.power := by rw [hw]; rfl
    refine ⟨?_, rfl, hgoes⟩
    rw [State.vcoreLowest, hpower, hkept.1]
  case locked => rw [State.writeRegWord_throttle, if_pos hlock]

end Sys2Proof.Machine
end

section
/-! Soundness, operation by operation: each operation of the model keeps a sound state sound. A lemma follows its operation's
definition: it cites the lemmas of the operations that the definition calls, and splits where the definition does. -/

namespace Sys2Proof.Machine
open Sys2Proof.Claims

/-- The next state of an outcome is sound. -/
def SoundNext (o : Host.Outcome State Fault Refusal) : Prop := ∀ t, o = .next t → Sound t

/-- The state that an operation gives, if it gives one, is sound. -/
def SoundOpt (o : Option State) : Prop := ∀ t, o = some t → Sound t

theorem soundOpt_none : SoundOpt none := fun t e => (Option.some_ne_none t e.symm).elim

theorem soundOpt_some {s : State} (h : Sound s) : SoundOpt (some s) := fun _ e => Option.some.inj e ▸ h

theorem soundOpt_ite {c : Prop} [Decidable c] {x y : Option State} (hx : SoundOpt x) (hy : SoundOpt y) :
    SoundOpt (if c then x else y) := by
  split
  · exact hx
  · exact hy

theorem soundOpt_map {o : Option State} (h : SoundOpt o) {f : State → State} (hf : ∀ t, Sound t → Sound (f t)) :
    SoundOpt (o.map f) := by
  intro t e
  obtain ⟨u, hu, rfl⟩ := Option.map_eq_some_iff.mp e
  exact hf u (h u hu)

theorem soundOpt_bind {o : Option State} (h : SoundOpt o) {f : State → Option State} (hf : ∀ t, Sound t → SoundOpt (f t)) :
    SoundOpt (o.bind f) := by
  intro t e
  obtain ⟨u, hu, hf'⟩ := Option.bind_eq_some_iff.mp e
  exact hf u (h u hu) t hf'

theorem sound_getD {o : Option State} (h : SoundOpt o) {s : State} (hs : Sound s) : Sound (o.getD s) := by
  cases o with
  | none => exact hs
  | some t => exact h t rfl

/-- Both branches sound, whatever decides between them. -/
theorem sound_ite {c : Prop} [Decidable c] {s t : State} (hs : Sound s) (ht : Sound t) : Sound (if c then s else t) := by
  split
  · exact hs
  · exact ht

/-- Both branches sound, in a state given with an answer. -/
theorem sound_ite_fst {α : Type} {c : Prop} [Decidable c] {x y : State × α} (hx : Sound x.1) (hy : Sound y.1) :
    Sound (if c then x else y).1 := by
  split
  · exact hx
  · exact hy

/-- A change of the host link that leaves its bounded queues alone. -/
theorem sound_of_hostKeep {s t : State} (h : Sound s) (h1 : t.regs = s.regs) (h2 : t.mem = s.mem)
    (q1 : t.host.d2hQueue = s.host.d2hQueue) (q2 : t.host.statusQ = s.host.statusQ)
    (q3 : t.host.statsQ = s.host.statsQ) (q4 : t.host.records = s.host.records) : Sound t :=
  sound_of_host h h1 h2 (q1 ▸ h.replies) (q2 ▸ h.status) (q3 ▸ h.stats) (q4 ▸ h.records)

theorem sound_hostKeep {s : State} (h : Sound s) (x : HostLink) (q1 : x.d2hQueue = s.host.d2hQueue)
    (q2 : x.statusQ = s.host.statusQ) (q3 : x.statsQ = s.host.statsQ) (q4 : x.records = s.host.records) :
    Sound { s with host := x } := sound_of_hostKeep h rfl rfl q1 q2 q3 q4

theorem soundNext_next {s : State} (h : Sound s) : SoundNext (.next s) := by rintro t ⟨⟩; exact h

theorem soundNext_onDevice {s : State} {f : State → State} (h : Sound s) (hf : Sound (f s)) : SoundNext (onDevice s f) :=
  fun _ => onDevice_keeps h hf

theorem soundNext_onDie {s : State} {f : State → State} (h : Sound s) (hf : Sound (f s)) : SoundNext (onDie s f) :=
  soundNext_next (sound_ite hf h)

theorem sound_mem {s : State} (h : Sound s) {m : Memory} (hm : m.wf = true) : Sound { s with mem := m } :=
  ⟨h.regs, hm, h.replies, h.status, h.stats, h.records⟩

theorem Memory.tsorted_met {m : Memory} (h : m.wf = true) : tsorted m.met = true := by
  obtain ⟨-, -, -, -, hmet⟩ := (Memory.wf_iff m).mp h
  exact hmet

theorem Memory.wf_held {m : Memory} (h : m.wf = true) (l : List (Nat × List (Option Byte))) : Memory.wf { m with held := l } = true := h

theorem sound_answer {s : State} (h : Sound s) (src : Source) (c : Cmd) (a : Answer) : Sound (s.answer src c a) := by
  cases a <;> simp only [State.answer]
  case final st ws => exact sound_reply h _ _ _ _
  case later => exact sound_hostKeep h _ rfl rfl rfl rfl
  case begun =>
    refine sound_reply ?_ _ _ _ _
    exact sound_hostKeep h _ rfl rfl rfl rfl

theorem sound_dropOldest {s : State} (h : Sound s) (src : Source) : Sound (s.dropOldest src) :=
  sound_hostKeep h _ rfl rfl rfl rfl

theorem sound_begin {s : State} (h : Sound s) (src : Source) (c : Cmd) {body : State → Cmd → State × Answer}
    (hb : ∀ t d, Sound t → Sound (body t d).1) : Sound (s.begin src c body) := by
  have hbody := sound_answer (hb _ c (sound_dropOldest h src)) src c (body (s.dropOldest src) c).2
  exact sound_ite hbody (sound_ite h (sound_ite (sound_answer (sound_dropOldest h src) _ _ _) hbody))

theorem sound_startCmd {s : State} (h : Sound s) (src : Source) (op : Nat) {body : State → Cmd → State × Answer}
    (hb : ∀ t d, Sound t → Sound (body t d).1) : Sound (s.startCmd src op body) := by
  unfold State.startCmd
  split
  · exact sound_ite (sound_begin h _ _ hb) h
  · exact h

theorem soundNext_runCmd {s : State} (h : Sound s) (src : Source) (op : Nat) {body : State → Cmd → State × Answer}
    (hb : ∀ t d, Sound t → Sound (body t d).1) : SoundNext (runCmd s src op body) :=
  soundNext_onDevice h (sound_startCmd h src op hb)

theorem sound_dropPending {s : State} (h : Sound s) : Sound s.dropPending :=
  sound_host h _ h.replies h.status h.stats (by simp only [List.length_drop]; have := h.records; omega)

theorem sound_foldl_fst {α β : Type} {f : State × β → α → State × β} (hf : ∀ x a, Sound x.1 → Sound (f x a).1)
    {x : State × β} (h : Sound x.1) (l : List α) : Sound (l.foldl f x).1 := by
  induction l generalizing x with
  | nil => exact h
  | cons a t ih => exact ih (hf x a h)

theorem soundNext_onBus {s : State} {f : State → State} (h : Sound s) (hf : Sound (f s)) : SoundNext (onBus s f) :=
  soundNext_onDevice h (sound_ite hf h)

theorem soundNext_onSdr {s : State} {f : State → State} (h : Sound s)
    (hf : Sound (f { s with i3c := { s.i3c with hdr := false } })) : SoundNext (onSdr s f) := soundNext_onBus h hf

theorem sound_ptpTake {s : State} (h : Sound s) (d : Nat) {f : State → State} (hf : Sound (f s)) : Sound (ptpTake s d f) :=
  sound_ite h (sound_ite hf (sound_bump h _ _ _))
/-! ### Ops -/

theorem sound_drawn {s : State} (h : Sound s) : Sound s.drawn := by
  unfold State.drawn
  exact sound_freeUse h _

theorem sound_timeDrawn {s : State} (h : Sound s) : Sound s.timeDrawn := by
  unfold State.timeDrawn
  exact sound_freeUse h _

theorem sound_requestIbi {s : State} (h : Sound s) : Sound s.requestIbi := by
  unfold State.requestIbi
  exact sound_ite h (sound_ite (sound_i3c h _) (sound_i3c h _))

theorem sound_tapKeep {s : State} (h : Sound s) (chan : Nat) (ps : List (Nat × List (Option Byte))) : Sound
    (s.tapKeep chan ps).1 := by
  unfold State.tapKeep
  refine sound_ite_fst ?_ ?_
  · exact h
  · dsimp only
    exact sound_raise (sound_bump h _ _ _) _

theorem sound_showTxPorts {s : State} (h : Sound s) : Sound s.showTxPorts := by
  unfold State.showTxPorts
  exact sound_ite (sound_putBit (sound_putBit h _ _ _ _) _ _ _ _) h

theorem sound_flushTx {s : State} (h : Sound s) : Sound s.flushTx := by
  unfold State.flushTx
  exact sound_flushSnap (sound_flushStats (sound_formVerdicts (sound_flushStatus h) _))

theorem sound_stored {s : State} (h : Sound s) (w : Nat) : Sound (s.stored w) := by
  unfold State.stored
  exact sound_copies h _

theorem sound_own {s : State} (h : Sound s) (i owner inst : Nat) : Sound (s.own i owner inst) := by
  unfold State.own
  exact sound_ite (sound_stored (sound_put (sound_put h _ _ _ _) _ _ _ _) _) (sound_put (sound_put h _ _ _ _) _ _ _ _)

/-! ### FieldDie -/

theorem sound_report {s : State} (h : Sound s) (r : Report) : Sound (s.report r) := by
  unfold State.report
  exact sound_die h _

theorem sound_reportFirst {s : State} (h : Sound s) (r : Report) : Sound (s.reportFirst r) := by
  unfold State.reportFirst
  exact sound_die h _

theorem sound_statusDue {s : State} (h : Sound s) : Sound s.statusDue := by
  unfold State.statusDue
  exact sound_die h _

theorem sound_tallyUp {s : State} (h : Sound s) (k : Nat) : Sound (s.tallyUp k) := by
  unfold State.tallyUp
  exact sound_die h _

theorem sound_setEnc {s : State} (h : Sound s) (c : Nat) (e : EncCh) : Sound (s.setEnc c e) := by
  unfold State.setEnc
  exact sound_die h _

theorem sound_lineTrigger {s : State} (h : Sound s) (ch i : Nat) : Sound (s.lineTrigger ch i) := by
  unfold State.lineTrigger
  dsimp only
  refine sound_ite ?_ ?_
  · split
    · exact sound_ite (sound_die h _) h
    · exact h
  · exact h

theorem sound_setCount {s : State} (h : Sound s) (ch : Nat) (e : EncCh) (v : Int) : Sound (s.setCount ch e v) := by
  unfold State.setCount
  exact sound_timesFrom (fun s i k => sound_lineTrigger k _ _) (sound_setEnc h _ _) _ _

theorem sound_setEntry {s : State} (h : Sound s) (e : Nat) (x : Entry) : Sound (s.setEntry e x) := by
  unfold State.setEntry
  exact sound_die h _

theorem sound_freeEntry {s : State} (h : Sound s) (e : Nat) : Sound (s.freeEntry e) := by
  unfold State.freeEntry
  exact sound_setEntry h _ _

theorem sound_setStop {s : State} (h : Sound s) : Sound s.setStop := by
  unfold State.setStop
  exact sound_statusDue (sound_ite h (sound_die h _))

theorem sound_closeEntry {s : State} (h : Sound s) (e : Nat) : Sound (s.closeEntry e) := by
  unfold State.closeEntry
  exact sound_ite (sound_setStop (sound_setEntry h _ _)) (sound_setEntry h _ _)

theorem sound_amendEntry {s : State} (h : Sound s) (e action : Nat) : Sound (s.amendEntry e action) := by
  unfold State.amendEntry
  dsimp only
  refine sound_ite ?_ ?_
  · exact h
  · split
    · exact sound_ite (sound_report (sound_setEntry h _ _) _) (sound_report (sound_setEntry h _ _) _)
    · exact sound_report (sound_setEntry h _ _) _
    · exact h

theorem sound_answerAmends {s : State} (h : Sound s) : Sound s.answerAmends := by
  unfold State.answerAmends
  exact sound_ite (sound_die h _) (sound_foldState (fun s a k => sound_amendEntry k _ _) (sound_die h _) _)

theorem sound_enterSafe {s : State} (h : Sound s) (cause : Nat) : Sound (s.enterSafe cause) := by
  unfold State.enterSafe
  exact sound_ite (sound_statusDue (sound_ite (sound_die h _) h)) (sound_statusDue (sound_die (sound_answerAmends h)
      _))

theorem sound_foundFlaw {s : State} (h : Sound s) (uncorrectable : Bool) : Sound (s.foundFlaw uncorrectable) := by
  unfold State.foundFlaw
  exact sound_ite (sound_enterSafe h _) (sound_tallyUp h _)

theorem sound_checkArmed {s : State} (h : Sound s) (e : Nat) : Sound (s.checkArmed e) := by
  unfold State.checkArmed
  dsimp only
  split
  · exact sound_ite (sound_foundFlaw (sound_setEntry h _ _) _) h
  · exact h

theorem sound_checkWritten {s : State} (h : Sound s) (e : Nat) : Sound (s.checkWritten e) := by
  unfold State.checkWritten
  dsimp only
  split
  · exact sound_ite (sound_setEntry h _ _) (sound_tallyUp (sound_setEntry h _ _) _)
  · exact h

theorem sound_judge {s : State} (h : Sound s) (e : Nat) : Sound (s.judge e) := by
  unfold State.judge
  exact sound_ite (sound_report (sound_freeEntry h _) _) (sound_ite (sound_checkArmed (sound_report (sound_closeEntry
      (sound_setEntry h _ _) _) _) _) (sound_checkArmed (sound_report (sound_setEntry h _ _) _) _))

theorem sound_exitEntry {s : State} (h : Sound s) (e : Nat) : Sound (s.exitEntry e) := by
  unfold State.exitEntry
  dsimp only
  split
  · exact sound_judge h _
  · exact sound_ite (sound_report (sound_freeEntry (sound_ite h (sound_report (sound_closeEntry h _) _)) _) _)
        (sound_ite h (sound_report (sound_closeEntry h _) _))
  · exact h

theorem sound_exitLate {s : State} (h : Sound s) (e : Nat) : Sound (s.exitLate e) := by
  unfold State.exitLate
  exact sound_ite (sound_report (sound_freeEntry h _) _) h

theorem sound_leaveSafe {s : State} (h : Sound s) : Sound s.leaveSafe := by
  unfold State.leaveSafe
  exact sound_ite (sound_enterSafe (sound_statusDue (sound_die (sound_foldState (fun s a k => sound_exitLate k _)
      (sound_foldState (fun s a k => sound_exitEntry k _) h _) _) _)) _) (sound_statusDue (sound_die (sound_foldState
      (fun s a k => sound_exitLate k _) (sound_foldState (fun s a k => sound_exitEntry k _) h _) _) _))

theorem soundNext_execSafeStateExit {s : State} (h : Sound s) : SoundNext (execSafeStateExit s) := by
  unfold execSafeStateExit
  exact soundNext_onDie h (sound_ite (sound_leaveSafe h) h)

theorem sound_closeMatch {s : State} (h : Sound s) (e : Nat) : Sound (s.closeMatch e) := by
  unfold State.closeMatch
  exact sound_ite (sound_report (sound_closeEntry h _) _) h

theorem soundNext_execCloseMatch {s : State} (h : Sound s) (entry : Fin 256) : SoundNext (execCloseMatch entry s) :=
    by
  unfold execCloseMatch
  exact soundNext_onDie h (sound_closeMatch (sound_answerAmends h) _)

theorem sound_ejectMatch {s : State} (h : Sound s) (e : Nat) : Sound (s.ejectMatch e) := by
  unfold State.ejectMatch
  exact sound_ite (sound_report (sound_freeEntry (sound_ite h (sound_die h _)) _) _) h

theorem soundNext_execEjectMatch {s : State} (h : Sound s) (entry : Fin 256) : SoundNext (execEjectMatch entry s) :=
    by
  unfold execEjectMatch
  exact soundNext_onDie h (sound_ejectMatch h _)

theorem soundNext_execPulseEnd {s : State} (h : Sound s) (entry : Fin 256) : SoundNext (execPulseEnd entry s) := by
  unfold execPulseEnd
  dsimp only
  refine soundNext_onDie h ?_
  split
  · exact h
  · exact sound_ite (sound_die h _) (sound_tallyUp (sound_die h _) _)

theorem sound_entryTmo {s : State} (h : Sound s) (e : Nat) : Sound (s.entryTmo e) := by
  unfold State.entryTmo
  exact sound_ite (sound_ite (sound_setEntry h _ _) (sound_report (sound_freeEntry h _) _)) h

theorem soundNext_execEntryTmoExpire {s : State} (h : Sound s) (entry : Fin 256) : SoundNext (execEntryTmoExpire
    entry s) := by
  unfold execEntryTmoExpire
  exact soundNext_onDie h (sound_entryTmo (sound_ejectMatch (sound_closeMatch (sound_answerAmends h) _) _) _)

theorem soundNext_execEjectTableError {s : State} (h : Sound s) (entry : Fin 256) (uncorrectable : Bool) : SoundNext
    (execEjectTableError entry uncorrectable s) := by
  unfold execEjectTableError
  exact soundNext_onDie h (sound_ite (sound_foundFlaw h _) (sound_setEntry h _ _))

theorem soundNext_execAmendArrive {s : State} (h : Sound s) : SoundNext (execAmendArrive s) := by
  unfold execAmendArrive
  dsimp only
  refine soundNext_onDie h ?_
  split
  · exact h
  · exact sound_ite (sound_die h _) (sound_amendEntry (sound_die h _) _ _)

theorem sound_dropMsg {s : State} (h : Sound s) : Sound s.dropMsg := by
  unfold State.dropMsg
  exact sound_die h _

theorem soundNext_execFieldEntryA {s : State} (h : Sound s) : SoundNext (execFieldEntryA s) := by
  unfold execFieldEntryA
  dsimp only
  refine soundNext_onDie h ?_
  split
  · exact sound_setEntry (sound_die (sound_checkWritten (sound_dropMsg h) _) _) _ _
  · exact h

theorem soundNext_execFieldEntryB {s : State} (h : Sound s) : SoundNext (execFieldEntryB s) := by
  unfold execFieldEntryB
  dsimp only
  refine soundNext_onDie h ?_
  split
  · exact sound_ite (sound_setEntry (sound_checkWritten (sound_dropMsg h) _) _ _) (sound_dropMsg h)
  · exact h

theorem soundNext_execFieldEntryC {s : State} (h : Sound s) : SoundNext (execFieldEntryC s) := by
  unfold execFieldEntryC
  dsimp only
  refine soundNext_onDie h ?_
  split
  · exact sound_ite (sound_ite (sound_setEntry (sound_checkWritten (sound_dropMsg h) _) _ _) (sound_judge
        (sound_setEntry (sound_checkWritten (sound_dropMsg h) _) _ _) _)) (sound_dropMsg h)
  · exact h

theorem sound_armTrigger {s : State} (h : Sound s) (i : Nat) : Sound (s.armTrigger i) := by
  unfold State.armTrigger
  exact sound_die h _

theorem sound_setDeb {s : State} (h : Sound s) (i : Nat) (b : Bool) : Sound (s.setDeb i b) := by
  unfold State.setDeb
  exact sound_ite h (sound_die h _)

theorem sound_showRaw {s : State} (h : Sound s) : Sound s.showRaw := by
  unfold State.showRaw
  exact sound_timesFrom (fun s i k => sound_ite (sound_setDeb k _ _) k) h _ _

theorem sound_takeCfg {s : State} (h : Sound s) (k v : Nat) : Sound (s.takeCfg k v) := by
  unfold State.takeCfg
  exact sound_ite (sound_armTrigger (sound_stored (sound_die h _) _) _) (sound_ite (sound_setEnc (sound_stored
      (sound_die h _) _) _ _) (sound_ite (sound_showRaw (sound_stored (sound_die h _) _)) (sound_stored (sound_die h
      _) _)))

theorem soundNext_execFieldCfgMsg {s : State} (h : Sound s) : SoundNext (execFieldCfgMsg s) := by
  unfold execFieldCfgMsg
  refine soundNext_onDie h ?_
  split
  · exact sound_ite h (sound_takeCfg (sound_dropMsg h) _ _)
  · exact h

theorem soundNext_execFieldTableClear {s : State} (h : Sound s) : SoundNext (execFieldTableClear s) := by
  unfold execFieldTableClear
  refine soundNext_onDie h ?_
  split
  · exact sound_ite (sound_ite (sound_foldState (fun s a k' => sound_freeEntry k' _) (sound_dropMsg h) _)
        (sound_dropMsg h)) h
  · exact h

theorem soundNext_execFieldStopClearMsg {s : State} (h : Sound s) : SoundNext (execFieldStopClearMsg s) := by
  unfold execFieldStopClearMsg
  dsimp only
  refine soundNext_onDie h ?_
  split
  · exact sound_statusDue (sound_die (sound_dropMsg h) _)
  · exact h

theorem sound_probeLatch {s : State} (h : Sound s) (i : Nat) : Sound (s.probeLatch i) := by
  unfold State.probeLatch
  exact sound_ite (sound_reportFirst h _) (sound_tallyUp h _)

theorem soundNext_execFiEdge {s : State} (h : Sound s) (input : Fin 16) (level : Bool) : SoundNext (execFiEdge input
    level s) := by
  unfold execFiEdge
  exact soundNext_onDie h (sound_ite h (sound_ite (sound_ite (sound_probeLatch (sound_setDeb (sound_die h _) _ _) _)
      (sound_setDeb (sound_die h _) _ _)) (sound_ite (sound_setDeb (sound_die h _) _ _) (sound_die h _))))

theorem soundNext_execDebounceExpire {s : State} (h : Sound s) (input : Fin 16) : SoundNext (execDebounceExpire input
    s) := by
  unfold execDebounceExpire
  exact soundNext_onDie h (sound_setDeb h _ _)

theorem sound_quadChange {s : State} (h : Sound s) (c : Nat) (a b : Bool) (clocks : Nat) : Sound (s.quadChange c a b
    clocks) := by
  unfold State.quadChange
  exact sound_ite h (sound_ite (sound_tallyUp (sound_setEnc h _ _) _) (sound_setCount (sound_setEnc h _ _) _ _ _))

theorem soundNext_execEncQuadEdge {s : State} (h : Sound s) (ch : Fin 2) (levels : QuadSample) (clocks : Nat) :
    SoundNext (execEncQuadEdge ch levels clocks s) := by
  unfold execEncQuadEdge
  exact soundNext_onDie h (sound_ite h (sound_quadChange h _ _ _ _))

theorem soundNext_execEncZEdge {s : State} (h : Sound s) (ch : Fin 2) : SoundNext (execEncZEdge ch s) := by
  unfold execEncZEdge
  exact soundNext_onDie h (sound_ite h (sound_ite (sound_tallyUp (sound_reportFirst (sound_setEnc h _ _) _) _)
      (sound_reportFirst (sound_setEnc h _ _) _)))

theorem soundNext_execEncLineFault {s : State} (h : Sound s) (ch : Fin 2) (fault : Bool) : SoundNext
    (execEncLineFault ch fault s) := by
  unfold execEncLineFault
  exact soundNext_onDie h (sound_ite h (sound_statusDue (sound_setEnc h _ _)))

theorem soundNext_execSsiRead {s : State} (h : Sound s) (raw : Nat) (idleHigh : Bool) (clocks : Nat) : SoundNext
    (execSsiRead raw idleHigh clocks s) := by
  unfold execSsiRead
  dsimp only
  refine soundNext_onDie h ?_
  refine sound_ite ?_ ?_
  · exact h
  · refine sound_ite ?_ ?_
    · exact sound_tallyUp h _
    · split
      · exact sound_setCount h _ _ _
      · exact sound_ite (sound_tallyUp h _) (sound_setCount h _ _ _)

theorem soundNext_execSyncSnapshot {s : State} (h : Sound s) : SoundNext (execSyncSnapshot s) := by
  unfold execSyncSnapshot
  exact soundNext_onDie h (sound_die h _)

theorem soundNext_execStatusPeriodic {s : State} (h : Sound s) : SoundNext (execStatusPeriodic s) := by
  unfold execStatusPeriodic
  exact soundNext_onDie h (sound_statusDue h)

theorem soundNext_execSpeedPeriodic {s : State} (h : Sound s) (ch : Fin 2) (idle : Bool) : SoundNext
    (execSpeedPeriodic ch idle s) := by
  unfold execSpeedPeriodic
  exact soundNext_onDie h (sound_die h _)

theorem soundNext_execOutputOverload {s : State} (h : Sound s) (output : Fin 8) : SoundNext (execOutputOverload
    output s) := by
  unfold execOutputOverload
  exact soundNext_onDie h (sound_ite h (sound_statusDue (sound_die h _)))

theorem soundNext_execOutputFaultRetry {s : State} (h : Sound s) (output : Fin 8) (persists : Bool) : SoundNext
    (execOutputFaultRetry output persists s) := by
  unfold execOutputFaultRetry
  exact soundNext_onDie h (sound_ite (sound_statusDue (sound_die h _)) h)

theorem soundNext_execFieldPowerUp {s : State} (h : Sound s) : SoundNext (execFieldPowerUp s) := by
  unfold execFieldPowerUp
  exact soundNext_next (sound_ite h (sound_die h _))

theorem soundNext_execFieldPowerDown {s : State} (h : Sound s) : SoundNext (execFieldPowerDown s) := by
  unfold execFieldPowerDown
  exact soundNext_next (sound_die h _)

theorem soundNext_execFieldResyncMsg {s : State} (h : Sound s) : SoundNext (execFieldResyncMsg s) := by
  unfold execFieldResyncMsg
  dsimp only
  refine soundNext_onDie h ?_
  split
  · exact sound_die (sound_dropMsg h) _
  · exact h

theorem sound_nextRep {s : State} (h : Sound s) : Sound s.nextRep.1 := by
  unfold State.nextRep
  dsimp only
  split
  · exact sound_die h _
  · exact sound_die h _
  · exact sound_die h _
  · refine sound_ite_fst ?_ ?_
    · dsimp only
      exact sound_die h _
    · refine sound_ite_fst ?_ ?_
      · dsimp only
        exact sound_die h _
      · split
        · exact sound_die h _
        · exact h

theorem sound_loadRep {s : State} (h : Sound s) : Sound s.loadRep := by
  unfold State.loadRep
  refine sound_ite h ?_
  split
  · rename_i t r e
    have ht : Sound t := by simpa [e] using sound_nextRep h
    exact sound_die ht _
  · exact h

theorem sound_composeUp {s : State} (h : Sound s) : Sound s.composeUp := by
  unfold State.composeUp
  exact sound_ite (sound_die h _) (sound_ite (sound_die h _) (sound_ite (sound_die h _) (sound_die (sound_loadRep h)
      _)))

theorem sound_takeDown {s : State} (h : Sound s) (f : DownFrame) (k : Nat) : Sound (s.takeDown f k) := by
  unfold State.takeDown
  exact sound_ite (sound_die h _) (sound_die h _)

/-! ### Memory -/

theorem sound_loomCorrection {s : State} (h : Sound s) (n : Nat) : Sound (s.loomCorrection n) := by
  unfold State.loomCorrection
  exact sound_ite (sound_fenceDue (sound_bump h _ _ _) _) (sound_bump h _ _ _)

theorem sound_corrected {s : State} (h : Sound s) (rd : Reader) (g dev : Nat) : Sound (s.corrected rd g dev) :=
  sound_of_kept h (State.corrected_kept s rd g dev)

theorem sound_uncorrectable {s : State} (h : Sound s) (rd : Reader) (g : Nat) : Sound (s.uncorrectable rd g) :=
  sound_of_kept h (State.uncorrectable_kept s rd g)

theorem sound_meet {s : State} (h : Sound s) (g : Nat) : Sound (s.meet g) := sound_of_kept h (State.meet_kept s g)

theorem sound_found {s : State} (h : Sound s) (rd : Reader) (g : Nat) : Sound (s.found rd g) := by
  unfold State.found
  dsimp only
  refine sound_ite ?_ ?_
  · split
    · exact sound_corrected h _ _ _
    · exact sound_uncorrectable h _ _
    · exact h
  · exact sound_ite (sound_ite (sound_uncorrectable h _ _) h) (sound_ite (sound_uncorrectable h _ _) h)

theorem sound_touch {s : State} (h : Sound s) (rd : Reader) (g : Nat) : Sound (s.touch rd g) := by
  unfold State.touch
  exact sound_meet (sound_found h _ _) _

theorem sound_writeFuel {s : State} (h : Sound s) (fuel a : Nat) (d : Data) : Sound (s.writeFuel fuel a d) :=
  sound_of_kept h (State.writeFuel_kept s fuel a d)

theorem sound_poisonRange {s : State} (h : Sound s) (a n : Nat) : Sound (s.poisonRange a n) := by
  unfold State.poisonRange
  exact sound_writeData h _ _

/-! ### Lines -/

theorem sound_setCam {s : State} (h : Sound s) (p : Nat) (c : CamPort) : Sound (s.setCam p c) := by
  unfold State.setCam
  exact sound_cams h _

theorem sound_setBob {s : State} (h : Sound s) (id : Nat) (b : Bobbin) : Sound (s.setBob id b) := by
  unfold State.setBob
  exact sound_bobs h _

theorem sound_setRule {s : State} (h : Sound s) (r : Nat) (x : Rule) : Sound (s.setRule r x) := by
  unfold State.setRule
  exact sound_rules h _

theorem sound_setPipe {s : State} (h : Sound s) (q : Nat) (x : Pipe) : Sound (s.setPipe q x) := by
  unfold State.setPipe
  exact sound_pipes h _

theorem sound_setLoom {s : State} (h : Sound s) (n : Nat) (x : Loom) : Sound (s.setLoom n x) := by
  unfold State.setLoom
  exact sound_looms h _

theorem sound_setPart {s : State} (h : Sound s) (p : Nat) (x : Partition) : Sound (s.setPart p x) := by
  unfold State.setPart
  exact sound_sched h _

theorem sound_putCount {s : State} (h : Sound s) (lo hi : Fld) (v : Int) (i : Nat) : Sound (s.putCount lo hi v i) :=
    by
  unfold State.putCount
  exact sound_put (sound_put h _ _ _ _) _ _ _ _

theorem sound_showLoom {s : State} (h : Sound s) (n : Nat) : Sound (s.showLoom n) := by
  unfold State.showLoom
  exact sound_put (sound_put (sound_putBit (sound_put (sound_put (sound_put (sound_peak (sound_put (sound_put
      (sound_put (sound_put (sound_put h _ _ _ _) _ _ _ _) _ _ _ _) _ _ _ _) _ _ _ _) _ _ _ _) _ _ _ _) _ _ _ _) _ _
      _ _) _ _ _ _) _ _ _ _) _ _ _ _

theorem sound_mapLoom {s : State} (h : Sound s) (n : Nat) (f : Loom → Loom) : Sound (s.mapLoom n f) := by
  unfold State.mapLoom
  exact sound_showLoom (sound_setLoom h _ _) _

theorem sound_setMirror {s : State} (h : Sound s) (c : Nat) (m : Mirror) : Sound (s.setMirror c m) := by
  unfold State.setMirror
  exact sound_field h _

theorem sound_showPort {s : State} (h : Sound s) (p : Nat) : Sound (s.showPort p) := by
  unfold State.showPort
  exact sound_putBit (sound_putBit h _ _ _ _) _ _ _ _

theorem sound_showPorts {s : State} (h : Sound s) : Sound s.showPorts := by
  unfold State.showPorts
  exact sound_timesFrom (fun s _ k => sound_showPort k _) h _ _

theorem sound_showSlots {s : State} (h : Sound s) (p : Nat) : Sound (s.showSlots p) := by
  unfold State.showSlots
  exact sound_peak (sound_put h _ _ _ _) _ _ _ _

theorem sound_showOuts {s : State} (h : Sound s) (q : Nat) : Sound (s.showOuts q) := by
  unfold State.showOuts
  exact sound_peak (sound_put h _ _ _ _) _ _ _ _

theorem sound_sweep {s : State} (h : Sound s) (p : Nat) : Sound (s.sweep p) := by
  unfold State.sweep
  exact sound_showPort (sound_timesFrom (fun s _ k => sound_showOuts k _) (sound_showSlots (sound_setCam h _ _) _) _
      _) _

theorem sound_mapLines {s : State} (h : Sound s) (p : Nat) (f : Line → Line) : Sound (s.mapLines p f) := by
  unfold State.mapLines
  exact sound_sweep (sound_setCam h _ _) _

theorem sound_showReady {s : State} (h : Sound s) (p : Nat) : Sound (s.showReady p) := by
  unfold State.showReady
  exact sound_peak (sound_put h _ _ _ _) _ _ _ _

theorem sound_wake {s : State} (h : Sound s) (id : Nat) : Sound (s.wake id) := by
  unfold State.wake
  exact sound_ite (sound_showReady (sound_setPart (sound_setBob h _ _) _ _) _) h

theorem sound_closeInput {s : State} (h : Sound s) (id : Nat) : Sound (s.closeInput id) := by
  unfold State.closeInput
  exact sound_ite (sound_setBob h _ _) h

theorem sound_placeFor {s : State} (h : Sound s) (p : Nat) (lo hi : Int) (id : Nat) : Sound (s.placeFor p lo hi id)
    := by
  unfold State.placeFor
  exact sound_closeInput (sound_wake (sound_setBob h _ _) _) _

theorem sound_place {s : State} (h : Sound s) (p : Nat) (lo hi : Int) : Sound (s.place p lo hi) := by
  unfold State.place
  exact sound_foldState (fun s a k => sound_placeFor k _ _ _ _) h _

theorem sound_markHole {s : State} (h : Sound s) (p id : Nat) : Sound (s.markHole p id) := by
  unfold State.markHole
  exact sound_ite h (sound_setBob h _ _)

theorem sound_markStood {s : State} (h : Sound s) (id : Nat) : Sound (s.markStood id) := by
  unfold State.markStood
  exact sound_setBob h _ _

theorem sound_addHole {s : State} (h : Sound s) (p : Nat) (lo hi : Int) : Sound (s.addHole p lo hi) := by
  unfold State.addHole
  exact sound_ite h (sound_place (sound_foldState (fun s a k => sound_markHole k _ _) (sound_ite (sound_bump
      (sound_put (sound_setCam h _ _) _ _ _ _) _ _ _) (sound_put (sound_setCam h _ _) _ _ _ _)) _) _ _ _)

theorem sound_pageFreed {s : State} (h : Sound s) (p : Nat) : Sound (s.pageFreed p) := by
  unfold State.pageFreed
  exact sound_bobs h _

theorem sound_freePages {s : State} (h : Sound s) (id : Nat) : Sound (s.freePages id) := by
  unfold State.freePages
  exact sound_put (sound_ite (sound_setPart (sound_setBob h _ _) _ _) (sound_pageFreed (sound_setPart (sound_setBob h
      _ _) _ _) _)) _ _ _ _

theorem sound_freeStage {s : State} (h : Sound s) (id : Nat) (which : Nat → Bool) : Sound (s.freeStage id which) := by
  unfold State.freeStage
  exact sound_put (sound_setPart h _ _) _ _ _ _

theorem sound_discardTasks {s : State} (h : Sound s) (id : Nat) : Sound (s.discardTasks id) := by
  unfold State.discardTasks
  exact sound_showReady (sound_bumpBy (sound_foldState (fun s a k => sound_mapLoom k _ _) (sound_setPart h _ _) _) _
      _ _ _) _

theorem sound_releaseAll {s : State} (h : Sound s) (id : Nat) : Sound (s.releaseAll id) := by
  unfold State.releaseAll
  exact sound_foldState (fun s a k => sound_mapLines k _ _) h _

theorem sound_endCompute {s : State} (h : Sound s) (id : Nat) : Sound (s.endCompute id) := by
  unfold State.endCompute
  exact sound_ite h (sound_ite (sound_freeStage (sound_discardTasks (sound_releaseAll (sound_setBob h _ _) _) _) _ _)
      (sound_freePages (sound_freeStage (sound_discardTasks (sound_releaseAll (sound_setBob h _ _) _) _) _ _) _))

theorem sound_showBobs {s : State} (h : Sound s) : Sound s.showBobs := by
  unfold State.showBobs
  exact sound_put (sound_put h _ _ _ _) _ _ _ _

theorem sound_freeBob {s : State} (h : Sound s) (id : Nat) : Sound (s.freeBob id) := by
  unfold State.freeBob
  dsimp only
  refine sound_showBobs ?_
  exact sound_of_same h rfl rfl rfl

theorem sound_mirror {s : State} (h : Sound s) (code : Nat) (ws : List Word) : Sound (s.mirror code ws) := by
  unfold State.mirror
  exact sound_ite (sound_linkSend h _ _ _ _) h

/-! ### Bobbins -/

theorem sound_fieldSend {s : State} (h : Sound s) (m : Msg) : Sound (s.fieldSend m) := by
  unfold State.fieldSend
  exact sound_field h _

theorem sound_showPending {s : State} (h : Sound s) : Sound s.showPending := by
  unfold State.showPending
  exact sound_putBit (sound_putBit h _ _ _ _) _ _ _ _

theorem sound_setField {s : State} (h : Sound s) (r : Reg) (v i : Nat) : Sound (s.setField r v i) := by
  unfold State.setField
  exact sound_showPending (sound_ite (sound_setReg h _ _ _ _) (sound_fieldSend (sound_setReg h _ _ _ _) _))

theorem sound_putField {s : State} (h : Sound s) (f : Fld) (v i : Nat) : Sound (s.putField f v i) := by
  unfold State.putField
  exact sound_setField h _ _ _

theorem sound_showTable {s : State} (h : Sound s) : Sound s.showTable := by
  unfold State.showTable
  exact sound_peak (sound_put h _ _ _ _) _ _ _ _

theorem sound_sendEntry {s : State} (h : Sound s) (e : Nat) (d : DevEntry) (bobbin prov : Nat) (us : Bool) (width
    lead : Nat) (eject : Int) : Sound (s.sendEntry e d bobbin prov us width lead eject) := by
  unfold State.sendEntry
  exact sound_showTable (sound_field (sound_fieldSend (sound_fieldSend (sound_fieldSend h _) _) _) _)

theorem sound_takeStored {s : State} (h : Sound s) (id p : Nat) : Sound (s.takeStored id p) := by
  unfold State.takeStored
  exact sound_foldState (fun s a k => sound_placeFor k _ _ _ _) (sound_setCam h _ _) _

theorem sound_takeHoles {s : State} (h : Sound s) (id p : Nat) : Sound (s.takeHoles id p) := by
  unfold State.takeHoles
  dsimp only
  split
  · exact sound_ite (sound_ite (sound_placeFor (sound_markHole (sound_markStood (sound_foldState (fun s a k =>
        sound_ite (sound_placeFor (sound_markHole k _ _) _ _ _ _) k) h _) _) _ _) _ _ _ _) (sound_markStood
        (sound_foldState (fun s a k => sound_ite (sound_placeFor (sound_markHole k _ _) _ _ _ _) k) h _) _))
        (sound_foldState (fun s a k => sound_ite (sound_placeFor (sound_markHole k _ _) _ _ _ _) k) h _)
  · exact sound_foldState (fun s a k => sound_ite (sound_placeFor (sound_markHole k _ _) _ _ _ _) k) h _

theorem sound_takeFloor {s : State} (h : Sound s) (id p : Nat) : Sound (s.takeFloor id p) := by
  unfold State.takeFloor
  dsimp only
  split
  · exact sound_ite (sound_placeFor (sound_markHole (sound_setBob h _ _) _ _) _ _ _ _) (sound_setBob h _ _)
  · exact h

theorem sound_dropEmptyTakes {s : State} (h : Sound s) (id : Nat) : Sound (s.dropEmptyTakes id) := by
  unfold State.dropEmptyTakes
  exact sound_foldState (fun s a k => sound_mapLines k _ _) h _

theorem sound_startCompute {s : State} (h : Sound s) (id : Nat) : Sound (s.startCompute id) := by
  unfold State.startCompute
  dsimp only
  split
  · exact h
  · exact sound_ite (sound_endCompute (sound_setBob (sound_ite (sound_bump (sound_ite (sound_bump h _ _ _) h) _ _ _)
        (sound_ite (sound_bump h _ _ _) h)) _ _) _) (sound_wake (sound_dropEmptyTakes (sound_setBob h _ _) _) _)

theorem sound_judgeJob {s : State} (h : Sound s) (id : Nat) : Sound (s.judgeJob id) := by
  unfold State.judgeJob
  exact sound_ite (sound_setBob h _ _) (sound_ite (sound_setBob h _ _) (sound_ite (sound_setBob h _ _)
      (sound_startCompute h _)))

theorem sound_bobRecord {s : State} (h : Sound s) (id time : Nat) : Sound (s.bobRecord id time) := by
  unfold State.bobRecord
  exact sound_ite h (sound_record (sound_setBob h _ _) _ _ _ _ _ _ _ _)

theorem sound_retireBob {s : State} (h : Sound s) (id : Nat) : Sound (s.retireBob id) := by
  unfold State.retireBob
  exact sound_mirror (sound_freeBob (sound_endCompute h _) _) _ _

theorem sound_untracked {s : State} (h : Sound s) : Sound s.untracked := by
  unfold State.untracked
  exact sound_raise (sound_bump h _ _ _) _

theorem sound_tapCount {s : State} (h : Sound s) (e : TapSet) : Sound (s.tapCount e).1 := by
  unfold State.tapCount
  exact sound_setPipe h _ _

theorem sound_tapCreated {s : State} (h : Sound s) (id p : Nat) (e : TapSet) : Sound (s.tapCreated id p e) := by
  unfold State.tapCreated
  exact sound_ite (sound_ite (sound_setPipe (sound_tapCount h _) _ _) (sound_tapCount h _)) h

theorem sound_tapsCreated {s : State} (h : Sound s) (id : Nat) : Sound (s.tapsCreated id) := by
  unfold State.tapsCreated
  exact sound_foldState (fun s a k => sound_foldState (fun s a k' => sound_tapCreated k' _ _ _) k _) h _

theorem sound_createBob {s : State} (h : Sound s) (r id e : Nat) (wstart : Int) : Sound (s.createBob r id e wstart)
    := by
  unfold State.createBob
  exact sound_mirror (sound_tapsCreated (sound_foldState (fun s a k => sound_takeStored (sound_takeHoles
      (sound_takeFloor k _ _) _ _) _ _) (sound_sendEntry (sound_showBobs (sound_put (sound_setBob (sound_lastBob h _)
      _ _) _ _ _ _)) _ _ _ _ _ _ _ _) _) _) _ _

theorem sound_partFound {s : State} (h : Sound s) (r : Nat) (c : Int) : Sound (s.partFound r c) := by
  unfold State.partFound
  refine sound_ite ?_ ?_
  · exact h
  · refine sound_ite ?_ ?_
    · exact sound_untracked h
    · split
      · exact sound_createBob h _ _ _ _
      · exact sound_untracked h

/-! ### HostLink -/

theorem sound_takePacket {s : State} (h : Sound s) (src : Source) (p : Packet) (lengthOk : Bool) : Sound
    (s.takePacket src p lengthOk) := by
  unfold State.takePacket
  dsimp only
  split
  · exact sound_reply h _ _ _ _
  · exact sound_hostKeep h _ rfl rfl rfl rfl

theorem sound_refuse {s : State} (h : Sound s) (st : Status) : Sound (refuse s st).1 := by
  unfold refuse
  exact h

theorem sound_doneWith {s : State} (h : Sound s) (ws : List Word) : Sound (doneWith s ws).1 := by
  unfold doneWith
  exact h

theorem sound_rxDiscard {s : State} (h : Sound s) : Sound s.rxDiscard := by
  unfold State.rxDiscard
  exact sound_bump h _ _ _

theorem sound_rxError {s : State} (h : Sound s) : Sound s.rxError := by
  unfold State.rxError
  exact sound_raise (sound_bump h _ _ _) _

theorem sound_rxFilter {s : State} (h : Sound s) (p : RxPacket) (f : State → Fin 4 → State)
    (hf : ∀ t k, Sound t → Sound (f t k)) : Sound (s.rxFilter p f) := by
  have ht : Sound (if p.header = 1 then s.bump F.HOST_RX_CNT_ECC_CORR else s) := sound_ite (sound_bump h _ _ _) h
  unfold State.rxFilter
  refine sound_ite h (sound_ite (sound_rxError h) ?_)
  dsimp only
  split
  · exact sound_ite (sound_rxDiscard ht) (sound_ite (sound_rxError ht) (hf _ _ ht))
  · exact sound_rxDiscard ht

theorem sound_mapAwaiting {s : State} (h : Sound s) (src : Source) (f : Cmd → Cmd) : Sound (s.mapAwaiting src f) := by
  unfold State.mapAwaiting
  exact sound_ite (sound_hostKeep h _ rfl rfl rfl rfl) (sound_hostKeep h _ rfl rfl rfl rfl)

theorem sound_takeBulk {s : State} (h : Sound s) (src : Source) (bs : List Byte) : Sound (s.takeBulk src bs) := by
  unfold State.takeBulk
  dsimp only
  split
  · exact sound_rxDiscard h
  · exact sound_ite (sound_rxDiscard (sound_mapAwaiting h _ _)) (sound_mapAwaiting h _ _)

theorem sound_truncateBulk {s : State} (h : Sound s) (src : Source) : Sound (s.truncateBulk src) := by
  unfold State.truncateBulk
  exact sound_mapAwaiting h _ _

/-! ### RegWrite -/

theorem sound_mergeReg {s : State} (h : Sound s) (r : Reg) (v i j : Nat) : Sound (s.mergeReg r v i j) := by
  unfold State.mergeReg
  exact sound_setReg h _ _ _ _

/-! ### FieldOut -/

theorem sound_setThreshold {s : State} (h : Sound s) (i v : Nat) : Sound (s.setThreshold i v) := by
  unfold State.setThreshold
  exact sound_foldState (fun s a k => sound_putField k _ _ _) h _

theorem soundNext_execCmdFiConfig {s : State} (h : Sound s) (src : Source) : SoundNext (execCmdFiConfig src s) := by
  unfold execCmdFiConfig
  dsimp only
  refine soundNext_runCmd h _ _ (fun t d k => ?_)
  refine sound_ite_fst ?_ ?_
  · exact sound_refuse k _
  · refine sound_ite_fst ?_ ?_
    · exact sound_refuse k _
    · refine sound_ite_fst ?_ ?_
      · exact sound_doneWith (sound_own k _ _ _) _
      · exact sound_doneWith (sound_setThreshold (sound_putField (sound_ite (sound_own k _ _ _) k) _ _ _) _ _) _

theorem soundNext_execCmdFoAssign {s : State} (h : Sound s) (src : Source) : SoundNext (execCmdFoAssign src s) := by
  unfold execCmdFoAssign
  dsimp only
  refine soundNext_runCmd h _ _ (fun t d k => ?_)
  refine sound_ite_fst ?_ ?_
  · exact sound_refuse k _
  · refine sound_ite_fst ?_ ?_
    · exact sound_refuse k _
    · refine sound_ite_fst ?_ ?_
      · exact sound_doneWith (sound_putField (sound_setField (sound_own k _ _ _) _ _ _) _ _ _) _
      · exact sound_doneWith (sound_putField (sound_own k _ _ _) _ _ _) _

theorem sound_releaseOutput {s : State} (h : Sound s) (i : Nat) : Sound (s.releaseOutput i) := by
  unfold State.releaseOutput
  exact sound_setField (sound_own h _ _ _) _ _ _

theorem soundNext_execCmdFoRelease {s : State} (h : Sound s) (src : Source) : SoundNext (execCmdFoRelease src s) := by
  unfold execCmdFoRelease
  dsimp only
  refine soundNext_runCmd h _ _ (fun t d k => ?_)
  refine sound_ite_fst ?_ ?_
  · exact sound_refuse k _
  · refine sound_ite_fst ?_ ?_
    · exact sound_refuse k _
    · refine sound_ite_fst ?_ ?_
      · exact sound_refuse k _
      · refine sound_ite_fst ?_ ?_
        · exact sound_doneWith k _
        · exact sound_doneWith (sound_releaseOutput k _) _

theorem soundNext_execCmdFoSet {s : State} (h : Sound s) (src : Source) : SoundNext (execCmdFoSet src s) := by
  unfold execCmdFoSet
  refine soundNext_runCmd h _ _ (fun t d k => ?_)
  refine sound_ite_fst ?_ ?_
  · exact sound_refuse k _
  · exact sound_doneWith (sound_putField k _ _ _) _

theorem sound_dropOffset {s : State} (h : Sound s) (c : Nat) : Sound (s.dropOffset c) := by
  unfold State.dropOffset
  exact sound_putBit (sound_twin h _) _ _ _ _

theorem soundNext_execCmdEncConfig {s : State} (h : Sound s) (src : Source) : SoundNext (execCmdEncConfig src s) := by
  unfold execCmdEncConfig
  dsimp only
  refine soundNext_runCmd h _ _ (fun t d k => ?_)
  refine sound_ite_fst ?_ ?_
  · exact sound_refuse k _
  · refine sound_ite_fst ?_ ?_
    · exact sound_refuse k _
    · refine sound_ite_fst ?_ ?_
      · exact sound_refuse k _
      · exact sound_doneWith (sound_setField (sound_ite (sound_dropOffset (sound_ite (sound_own k _ _ _) k) _)
            (sound_ite (sound_own k _ _ _) k)) _ _ _) _

theorem soundNext_execCmdEjectLeadSet {s : State} (h : Sound s) (src : Source) : SoundNext (execCmdEjectLeadSet src
    s) := by
  unfold execCmdEjectLeadSet
  refine soundNext_runCmd h _ _ (fun t d k => ?_)
  refine sound_ite_fst ?_ ?_
  · exact sound_refuse k _
  · exact sound_doneWith (sound_stored (sound_put k _ _ _ _) _) _

theorem soundNext_execCmdStopClear {s : State} (h : Sound s) (src : Source) : SoundNext (execCmdStopClear src s) := by
  unfold execCmdStopClear
  exact soundNext_runCmd h _ _ (fun t d k => sound_doneWith (sound_showPending (sound_fieldSend k _)) _)

theorem soundNext_execCmdSafeValuesSet {s : State} (h : Sound s) (src : Source) : SoundNext (execCmdSafeValuesSet src
    s) := by
  unfold execCmdSafeValuesSet
  dsimp only
  refine soundNext_runCmd h _ _ (fun t d k => ?_)
  refine sound_ite_fst ?_ ?_
  · exact sound_refuse k _
  · exact sound_doneWith (sound_setField k _ _ _) _

theorem sound_writeField {s : State} (h : Sound s) (r : Reg) (v i : Nat) : Sound (s.writeField r v i) := by
  unfold State.writeField
  exact sound_ite (sound_setReg h _ _ _ _) (sound_ite h (sound_setField h _ _ _))

theorem soundNext_execFieldRegisterWrite {s : State} (h : Sound s) (address : Nat) (value : Word) : SoundNext
    (execFieldRegisterWrite address value s) := by
  unfold execFieldRegisterWrite
  refine soundNext_onDevice h ?_
  refine sound_ite ?_ ?_
  · split
    · exact sound_writeField h _ _ _
    · exact h
  · exact h

/-! ### Areas -/

theorem sound_getItem {s : State} (h : Sound s) (a : Area) (item n : Nat) : Sound (s.getItem a item n).1 := by
  unfold State.getItem
  exact sound_readData h _ _

theorem sound_putItem {s : State} (h : Sound s) (a : Area) (item n : Nat) : Sound (s.putItem a item n) :=
  sound_mem h (sound_writeData h _ _).mem

/-! ### Pipes -/

theorem sound_tapBobLine {s : State} (h : Sound s) (q n p time : Nat) (pos : Int) (ps : List (Nat × List (Option
    Byte))) : Sound (s.tapBobLine q n p time pos ps) := by
  unfold State.tapBobLine
  dsimp only
  refine sound_setPipe ?_ _ _
  refine sound_foldl_fst (fun x a k => ?_) ?_ _
  · refine sound_ite_fst ?_ ?_
    · dsimp only
      exact sound_tapKeep k _ _
    · exact k
  · exact h

theorem sound_sendTapBob {s : State} (h : Sound s) (w : TapWork) : Sound (s.sendTapBob w) := by
  unfold State.sendTapBob
  split
  · exact sound_sendTap h _ _ _
  · exact sound_sendTap (sound_timeDrawn h) _ _ _

theorem sound_tapBobEnd {s : State} (h : Sound s) (q p : Nat) (upTo : Int) : Sound (s.tapBobEnd q p upTo) := by
  unfold State.tapBobEnd
  exact sound_foldState (fun s a k => sound_sendTapBob k _) (sound_setPipe h _ _) _

theorem sound_tapLine {s : State} (h : Sound s) (w : PipeWork) (n : Nat) (pos : Int) (ps : List (Nat × List (Option
    Byte))) : Sound (tapLine s w n pos ps).1 := by
  unfold tapLine
  dsimp only
  split
  · exact h
  · refine sound_ite_fst ?_ ?_
    · dsimp only
      exact sound_tapKeep (sound_tapBobLine h _ _ _ _ _ _) _ _
    · dsimp only
      exact sound_tapBobLine h _ _ _ _ _ _

theorem sound_tapBlock {s : State} (h : Sound s) (l : List TapSet) : Sound (s.tapBlock l).1 := by
  induction l with
  | nil => exact h
  | cons e t ih =>
    unfold State.tapBlock
    refine sound_ite_fst ?_ ih
    exact sound_tapCount ih e

theorem sound_releaseTaps {s : State} (h : Sound s) (p : Nat) : Sound (s.releaseTaps p) := by
  unfold State.releaseTaps
  exact sound_mapLines h _ _

theorem sound_tapsTake {s : State} (h : Sound s) (p : Nat) : Sound (s.tapsTake p) := by
  unfold State.tapsTake
  dsimp only
  refine sound_releaseTaps ?_ _
  refine sound_setCam ?_ _ _
  refine sound_timesFrom (fun s i k => ?_) h _ _
  refine sound_timesFrom (fun s i k' => ?_) k _ _
  split
  · exact sound_ite (sound_put (sound_setPipe k' _ _) _ _ _ _) k'
  · exact k'

theorem sound_sendRejects {s : State} (h : Sound s) (id p q n : Nat) : Sound (s.sendRejects id p q n) := by
  unfold State.sendRejects
  dsimp only
  refine sound_sendTapBob ?_ _
  refine sound_foldl_fst (fun x a k => ?_) ?_ _
  · refine sound_tapKeep ?_ _ _
    exact sound_readData k _ _
  · exact h

theorem sound_tapClose {s : State} (h : Sound s) (id p : Nat) (e : TapSet) : Sound (s.tapClose id p e) := by
  unfold State.tapClose
  exact sound_ite (sound_ite (sound_sendRejects (sound_tapCount h _) _ _ _ _) (sound_tapCount h _)) h

theorem sound_tapsClose {s : State} (h : Sound s) (id : Nat) : Sound (s.tapsClose id) := by
  unfold State.tapsClose
  exact sound_foldState (fun s a k => sound_releaseTaps k _) (sound_foldState (fun s a k => sound_foldState (fun s a
      k' => sound_tapClose k' _ _ _) k _) h _) _

theorem sound_segLine {s : State} (h : Sound s) (b : Block) (fmt k : Nat) (gap : Bool) (cs : Comps) (r : Nat) : Sound
    (s.segLine b fmt k gap cs r) := by
  unfold State.segLine
  exact sound_ite (sound_partFound (sound_setRule h _ _) _ _) (sound_setRule h _ _)

theorem sound_segment {s : State} (h : Sound s) (b : Block) (fmt k : Nat) (gap : Bool) (cs : Comps) : Sound
    (s.segment b fmt k gap cs) := by
  unfold State.segment
  exact sound_foldState (fun s a k' => sound_segLine k' _ _ _ _ _ _) h _

theorem sound_statRecord {s : State} (h : Sound s) (w : PipeWork) (c : PipeCfg) (m : Nat) (partly : Bool) : Sound
    (s.statRecord w c m partly) := by
  unfold State.statRecord
  exact sound_ite h (sound_ite (sound_sendStats (sound_bumpWrap h _ _ _ _) _) (sound_bump (sound_sendStats
      (sound_bumpWrap h _ _ _ _) _) _ _ _))

theorem sound_lineDone {s : State} (h : Sound s) (p uid q : Nat) : Sound (s.lineDone p uid q) := by
  unfold State.lineDone
  exact sound_sweep (sound_setCam h _ _) _

theorem sound_outLost {s : State} (h : Sound s) (b : Block) (k : Nat) : Sound (s.outLost b k) := by
  unfold State.outLost
  exact sound_addHole h _ _ _

theorem sound_storeOut {s : State} (h : Sound s) (b : Block) (c : PipeCfg) (x : PipeLine) (slot addr : Nat) (bytes :
    Data) : Sound (s.storeOut b c x slot addr bytes) := by
  unfold State.storeOut
  exact sound_sweep (sound_place (sound_setCam (sound_writeData h _ _) _ _) _ _ _) _

theorem sound_emitLine {s : State} (h : Sound s) (w : PipeWork) (c : PipeCfg) (x : PipeLine) (up dn : Comps) : Sound
    (emitLine s w c x up dn).1 := by
  unfold emitLine
  dsimp only
  split
  · exact sound_lineDone (sound_outLost (sound_tdc (sound_bump (sound_tapLine h _ _ _ _) _ _ _) _) _ _) _ _ _
  · exact sound_tapBobEnd (sound_segment (sound_tapLine (sound_lineDone (sound_storeOut (sound_tapLine h _ _ _ _) _ _
        _ _ _ _) _ _ _) _ _ _ _) _ _ _ _ _) _ _ _

theorem sound_emitHeld {s : State} (h : Sound s) (w : PipeWork) (c : PipeCfg) (below : Option PipeLine) : Sound
    (emitHeld s w c below).1 := by
  unfold emitHeld
  dsimp only
  split
  · exact h
  · exact sound_emitLine h _ _ _ _ _

theorem sound_pipeLine {s : State} (h : Sound s) (w : PipeWork) (k uid : Nat) (d : Data) : Sound (pipeLine s w k uid
    d).1 := by
  unfold pipeLine
  dsimp only
  refine sound_ite_fst ?_ ?_
  · dsimp only
    exact sound_lineDone (sound_outLost (sound_bump h _ _ _) _ _) _ _ _
  · refine sound_ite_fst ?_ ?_
    · dsimp only
      exact sound_emitHeld (sound_tapLine (sound_tapLine h _ _ _ _) _ _ _ _) _ _ _
    · dsimp only
      exact sound_emitLine (sound_tapLine (sound_tapLine h _ _ _ _) _ _ _ _) _ _ _ _ _

theorem sound_pipeEnd {s : State} (h : Sound s) (w : PipeWork) (n : Nat) (holed : Bool) : Sound (pipeEnd s w n holed)
    := by
  unfold pipeEnd
  exact sound_tapBobEnd (sound_setPipe (sound_foldState (fun s a k => sound_sendTap k _ _ _) (sound_statRecord
      (sound_emitHeld h _ _ _) _ _ _ _) _) _ _) _ _ _

theorem sound_keepInline {s : State} (h : Sound s) (q : Nat) (w : Option PipeWork) (rest : List InEvent) : Sound
    (s.keepInline q w rest) := by
  unfold State.keepInline
  exact sound_setPipe h _ _

theorem sound_inlineMarks {s : State} (h : Sound s) (q n : Nat) : Sound (s.inlineMarks q n) := by
  induction n generalizing s with
  | zero => exact h
  | succ n ih =>
    unfold State.inlineMarks
    split
    · exact ih (sound_keepInline h _ _ _)
    · split
      · exact ih (sound_pipeEnd (sound_keepInline h _ _ _) _ _ _)
      · exact ih (sound_keepInline h _ _ _)
    · exact h

theorem sound_inlinePush {s : State} (h : Sound s) (q : Nat) (e : InEvent) : Sound (s.inlinePush q e) := by
  unfold State.inlinePush
  exact sound_inlineMarks (sound_setPipe h _ _) _ _

theorem soundNext_execPipeInlineLineDone {s : State} (h : Sound s) (q : Fin 4) : SoundNext (execPipeInlineLineDone q
    s) := by
  unfold execPipeInlineLineDone
  dsimp only
  refine soundNext_onDevice h ?_
  split
  · exact sound_inlineMarks (sound_keepInline (sound_pipeLine (sound_keepInline h _ _ _) _ _ _ _) _ _ _) _ _
  · exact h

theorem sound_showQueue {s : State} (h : Sound s) (q : Nat) : Sound (s.showQueue q) := by
  unfold State.showQueue
  exact sound_peak (sound_put h _ _ _ _) _ _ _ _

theorem sound_skipLines {s : State} (h : Sound s) (b : Block) (q : Nat) : Sound (s.skipLines b q) := by
  unfold State.skipLines
  exact sound_foldState (fun s a k => sound_lineDone k _ _ _) h _

theorem sound_pipeQueue {s : State} (h : Sound s) (b : Block) : Sound (s.pipeQueue b) := by
  unfold State.pipeQueue
  exact sound_ite (sound_showQueue (sound_setPipe h _ _) _) (sound_addHole (sound_skipLines (sound_tdc (sound_bump h
      _ _ _) _) _ _) _ _ _)

theorem soundNext_execPipeBlockStart {s : State} (h : Sound s) (q : Fin 4) : SoundNext (execPipeBlockStart q s) := by
  unfold execPipeBlockStart
  dsimp only
  refine soundNext_onDevice h ?_
  split
  · exact sound_showQueue (sound_setPipe h _ _) _
  · exact h

theorem sound_throughLine {a : State × PipeWork} (h : Sound a.1) (e : Nat × Nat) : Sound (throughLine a e).1 := by
  unfold throughLine
  dsimp only
  split
  · exact sound_pipeLine (sound_readData h _ _) _ _ _ _
  · exact h

theorem soundNext_execPipeBlockDone {s : State} (h : Sound s) (q : Fin 4) : SoundNext (execPipeBlockDone q s) := by
  unfold execPipeBlockDone
  dsimp only
  refine soundNext_onDevice h ?_
  split
  · exact h
  · refine sound_pipeEnd ?_ _ _ _
    refine sound_foldl_fst (fun x a k => ?_) ?_ _
    · exact sound_throughLine k _
    · exact sound_setPipe h _ _

theorem soundNext_execCmdPipeConfig {s : State} (h : Sound s) (src : Source) : SoundNext (execCmdPipeConfig src s) :=
    by
  unfold execCmdPipeConfig
  dsimp only
  refine soundNext_runCmd h _ _ (fun t d k => ?_)
  refine sound_ite_fst ?_ ?_
  · exact sound_refuse k _
  · refine sound_ite_fst ?_ ?_
    · exact sound_refuse k _
    · refine sound_ite_fst ?_ ?_
      · exact sound_refuse k _
      · exact sound_doneWith (sound_showPorts (sound_setPipe (sound_put (sound_put (sound_put (sound_put (sound_put
            (sound_put (sound_put k _ _ _ _) _ _ _ _) _ _ _ _) _ _ _ _) _ _ _ _) _ _ _ _) _ _ _ _) _ _)) _

theorem soundNext_execCmdPipeTable {s : State} (h : Sound s) (src : Source) : SoundNext (execCmdPipeTable src s) := by
  unfold execCmdPipeTable
  dsimp only
  refine soundNext_runCmd h _ _ (fun t d k => ?_)
  refine sound_ite_fst ?_ ?_
  · exact k
  · refine sound_ite_fst ?_ ?_
    · exact k
    · refine sound_ite_fst ?_ ?_
      · exact sound_doneWith k _
      · refine sound_ite_fst ?_ ?_
        · exact k
        · exact sound_doneWith (sound_setPipe k _ _) _

theorem soundNext_execCmdStatsSet {s : State} (h : Sound s) (src : Source) : SoundNext (execCmdStatsSet src s) := by
  unfold execCmdStatsSet
  dsimp only
  refine soundNext_runCmd h _ _ (fun t d k => ?_)
  refine sound_ite_fst ?_ ?_
  · exact sound_refuse k _
  · exact sound_doneWith (sound_put (sound_put (sound_put (sound_put k _ _ _ _) _ _ _ _) _ _ _ _) _ _ _ _) _

theorem soundNext_execCmdTapSet {s : State} (h : Sound s) (src : Source) : SoundNext (execCmdTapSet src s) := by
  unfold execCmdTapSet
  dsimp only
  refine soundNext_runCmd h _ _ (fun t d k => ?_)
  refine sound_ite_fst ?_ ?_
  · exact sound_refuse k _
  · exact sound_doneWith (sound_showPorts (sound_setPipe (sound_put (sound_put (sound_put k _ _ _ _) _ _ _ _) _ _ _
        _) _ _)) _

/-! ### Camera -/

theorem sound_putTime {s : State} (h : Sound s) (ns lo hi : Fld) (t i : Nat) : Sound (s.putTime ns lo hi t i) := by
  unfold State.putTime
  exact sound_put (sound_put (sound_put h _ _ _ _) _ _ _ _) _ _ _ _

theorem sound_setBlk {s : State} (h : Sound s) (p : Nat) (b : Option Block) : Sound (s.setBlk p b) := by
  unfold State.setBlk
  exact sound_setCam h _ _

theorem sound_endRawTaps {s : State} (h : Sound s) (b : Block) : Sound (s.endRawTaps b) := by
  unfold State.endRawTaps
  exact sound_foldState (fun s a k => sound_sendTap (sound_setPipe k _ _) _ _ _) h _

theorem sound_dropBlock {s : State} (h : Sound s) (p : Nat) : Sound (s.dropBlock p) := by
  unfold State.dropBlock
  split
  · exact sound_endRawTaps (sound_setBlk h _ _) _
  · exact h

theorem sound_closeBlock {s : State} (h : Sound s) (b : Block) : Sound (s.closeBlock b) := by
  unfold State.closeBlock
  dsimp only
  refine sound_foldState (fun s a k => sound_ite (sound_tapBobEnd k _ _ _) k) ?_ _
  split
  · exact sound_endRawTaps (sound_setBlk (sound_ite (sound_addHole (sound_bump h _ _ _) _ _ _) h) _ _) _
  · exact sound_ite (sound_pipeQueue (sound_endRawTaps (sound_setBlk (sound_ite (sound_addHole (sound_bump h _ _ _) _
        _ _) h) _ _) _) _) (sound_inlinePush (sound_endRawTaps (sound_setBlk (sound_ite (sound_addHole (sound_bump h
        _ _ _) _ _ _) h) _ _) _) _ _)

theorem sound_placeBlock {s : State} (h : Sound s) (p : Nat) (raw : Int) : Sound (s.placeBlock p raw).1 := by
  unfold State.placeBlock
  dsimp only
  refine sound_ite_fst ?_ ?_
  · exact h
  · split
    · exact h
    · refine sound_ite_fst ?_ ?_
      · exact h
      · refine sound_ite_fst ?_ ?_
        · dsimp only
          exact sound_addHole (sound_bump h _ _ _) _ _ _
        · exact h

theorem sound_endStanding {s : State} (h : Sound s) (p : Nat) (base : Int) : Sound (s.endStanding p base) := by
  unfold State.endStanding
  dsimp only
  split
  · exact h
  · exact sound_foldState (fun s a k => sound_placeFor (sound_markHole k _ _) _ _ _ _) (sound_setCam h _ _) _

theorem sound_openBlock {s : State} (h : Sound s) (p : Nat) (count : Int) : Sound (s.openBlock p count) := by
  unfold State.openBlock
  dsimp only
  split
  · exact sound_ite (sound_putCount (sound_putBit (sound_setCam (sound_tapBlock (sound_tapsTake (sound_endStanding
        (sound_placeBlock h _ _) _ _) _) _) _ _) _ _ _ _) _ _ _ _) (sound_inlinePush (sound_putCount (sound_putBit
        (sound_setCam (sound_tapBlock (sound_tapsTake (sound_endStanding (sound_placeBlock h _ _) _ _) _) _) _ _) _ _
        _ _) _ _ _ _) _ _)
  · exact sound_putCount (sound_putBit (sound_setCam (sound_tapBlock (sound_tapsTake (sound_endStanding
        (sound_placeBlock h _ _) _ _) _) _) _ _) _ _ _ _) _ _ _ _

theorem sound_phySeen {s : State} (h : Sound s) (p : Nat) : Sound (s.phySeen p) := by
  unfold State.phySeen
  exact sound_setCam h _ _

theorem sound_shortPacket {s : State} (h : Sound s) (p : Nat) (corrected : Bool) : Sound (s.shortPacket p corrected)
    := by
  unfold State.shortPacket
  exact sound_ite (sound_bump (sound_phySeen h _) _ _ _) (sound_phySeen h _)

theorem soundNext_execCamFrameStart {s : State} (h : Sound s) (port : Fin 17) (vc : Fin 16) (corrected : Bool) :
    SoundNext (execCamFrameStart port vc corrected s) := by
  unfold execCamFrameStart
  dsimp only
  refine soundNext_onDevice h ?_
  refine sound_ite ?_ ?_
  · exact sound_shortPacket h _ _
  · refine sound_ite ?_ ?_
    · exact sound_bumpWrap (sound_shortPacket h _ _) _ _ _ _
    · refine sound_ite ?_ ?_
      · exact sound_dropBlock (sound_bumpWrap (sound_shortPacket h _ _) _ _ _ _) _
      · split
        · refine sound_openBlock ?_ _ _
          split
          · exact sound_closeBlock (sound_bump (sound_bumpWrap (sound_shortPacket h _ _) _ _ _ _) _ _ _) _
          · exact sound_bumpWrap (sound_shortPacket h _ _) _ _ _ _
        · refine sound_setCam ?_ _ _
          split
          · exact sound_closeBlock (sound_bump (sound_bumpWrap (sound_shortPacket h _ _) _ _ _ _) _ _ _) _
          · exact sound_bumpWrap (sound_shortPacket h _ _) _ _ _ _

theorem soundNext_execCamFrameEnd {s : State} (h : Sound s) (port : Fin 17) (vc : Fin 16) (corrected : Bool) :
    SoundNext (execCamFrameEnd port vc corrected s) := by
  unfold execCamFrameEnd
  dsimp only
  refine soundNext_onDevice h ?_
  refine sound_ite ?_ ?_
  · exact sound_shortPacket h _ _
  · split
    · exact sound_ite (sound_closeBlock (sound_shortPacket h _ _) _) (sound_dropBlock (sound_shortPacket h _ _) _)
    · exact sound_shortPacket h _ _

theorem sound_countLength {s : State} (h : Sound s) (p n len : Nat) : Sound (s.countLength p n len) := by
  unfold State.countLength
  exact sound_ite (sound_bump h _ _ _) (sound_ite (sound_bump h _ _ _) h)

theorem sound_lineHole {s : State} (h : Sound s) (b : Block) : Sound (s.lineHole b) := by
  unfold State.lineHole
  exact sound_addHole (sound_setBlk h _ _) _ _ _

theorem sound_rawTaps {s : State} (h : Sound s) (b : Block) (d : List Byte) : Sound (s.rawTaps b d) := by
  unfold State.rawTaps
  exact sound_foldState (fun s a k => sound_setPipe (sound_tapKeep k _ _) _ _) (sound_foldState (fun s a k =>
      sound_tapBobLine k _ _ _ _ _ _) h _) _

theorem sound_storeLine {s : State} (h : Sound s) (b : Block) (slot addr : Nat) (d : List Byte) (lost : List Nat) :
    Sound (s.storeLine b slot addr d lost) := by
  unfold State.storeLine
  dsimp only
  refine sound_sweep ?_ _
  split
  · exact sound_rawTaps (sound_place (sound_setCam (sound_writeData h _ _) _ _) _ _ _) _ _
  · exact sound_ite (sound_setCam (sound_writeData h _ _) _ _) (sound_inlinePush (sound_setCam (sound_writeData h _
        _) _ _) _ _)

theorem sound_takeLine {s : State} (h : Sound s) (b : Block) (pk : CamPacket) : Sound (s.takeLine b pk) := by
  unfold State.takeLine
  dsimp only
  refine sound_ite ?_ ?_
  · exact sound_ite h (sound_setBlk (sound_bump h _ _ _) _ _)
  · refine sound_ite ?_ ?_
    · exact sound_setBlk (sound_bump h _ _ _) _ _
    · refine sound_ite ?_ ?_
      · exact sound_lineHole (sound_tdc (sound_bump h _ _ _) _) _
      · split
        · exact sound_lineHole (sound_tdc (sound_bump h _ _ _) _) _
        · exact sound_ite (sound_lineHole h _) (sound_storeLine (sound_countLength h _ _ _) _ _ _ _ _)

theorem sound_headerLost {s : State} (h : Sound s) (p : Nat) : Sound (s.headerLost p) := by
  unfold State.headerLost
  split
  · exact sound_ite h (sound_addHole (sound_setBlk h _ _) _ _ _)
  · exact h

theorem sound_skipLine {s : State} (h : Sound s) (p : Nat) : Sound (s.skipLine p) := by
  unfold State.skipLine
  split
  · exact sound_ite (sound_setBlk h _ _) h
  · exact h

theorem sound_takePacketLine {s : State} (h : Sound s) (p : Nat) (packet : CamPacket) : Sound (s.takePacketLine p
    packet) := by
  unfold State.takePacketLine
  refine sound_ite ?_ ?_
  · exact h
  · refine sound_ite ?_ ?_
    · exact sound_skipLine h _
    · split
      · exact sound_takeLine h _ _
      · exact sound_ite h (sound_bump h _ _ _)

theorem soundNext_execCamLongPacket {s : State} (h : Sound s) (port : Fin 17) (packet : CamPacket) : SoundNext
    (execCamLongPacket port packet s) := by
  unfold execCamLongPacket
  exact soundNext_onDevice h (sound_ite (sound_headerLost (sound_bump (sound_phySeen h _) _ _ _) _) (sound_ite
      (sound_bump (sound_ite (sound_ite (sound_bump (sound_phySeen h _) _ _ _) (sound_phySeen h _)) (sound_bump
      (sound_ite (sound_bump (sound_phySeen h _) _ _ _) (sound_phySeen h _)) _ _ _)) _ _ _) (sound_takePacketLine
      (sound_ite (sound_ite (sound_bump (sound_phySeen h _) _ _ _) (sound_phySeen h _)) (sound_bump (sound_ite
      (sound_bump (sound_phySeen h _) _ _ _) (sound_phySeen h _)) _ _ _)) _ _)))

theorem soundNext_execHoleExpire {s : State} (h : Sound s) (port : Fin 17) : SoundNext (execHoleExpire port s) := by
  unfold execHoleExpire
  dsimp only
  refine soundNext_onDevice h ?_
  split
  · exact h
  · exact sound_put (sound_setCam h _ _) _ _ _ _

theorem soundNext_execLineRetainPass {s : State} (h : Sound s) (port : Fin 17) : SoundNext (execLineRetainPass port
    s) := by
  unfold execLineRetainPass
  exact soundNext_onDevice h (sound_sweep h _)

theorem soundNext_execCmdCamEnable {s : State} (h : Sound s) (src : Source) : SoundNext (execCmdCamEnable src s) := by
  unfold execCmdCamEnable
  dsimp only
  refine soundNext_runCmd h _ _ (fun t d k => ?_)
  refine sound_ite_fst ?_ ?_
  · exact sound_refuse k _
  · refine sound_ite_fst ?_ ?_
    · exact sound_refuse k _
    · refine sound_ite_fst ?_ ?_
      · exact sound_refuse k _
      · exact sound_doneWith (sound_showPort (sound_own (sound_put (sound_put (sound_put (sound_put (sound_put
            (sound_setReg (sound_setReg (sound_setReg (sound_setCam k _ _) _ _ _ _) _ _ _ _) _ _ _ _) _ _ _ _) _ _ _
            _) _ _ _ _) _ _ _ _) _ _ _ _) _ _ _) _) _

theorem soundNext_execCmdCamDisable {s : State} (h : Sound s) (src : Source) : SoundNext (execCmdCamDisable src s) :=
    by
  unfold execCmdCamDisable
  dsimp only
  refine soundNext_runCmd h _ _ (fun t d k => ?_)
  refine sound_ite_fst ?_ ?_
  · exact sound_refuse k _
  · refine sound_ite_fst ?_ ?_
    · exact sound_refuse k _
    · exact sound_doneWith (sound_showPort (sound_own (sound_put (sound_put (sound_putBit (sound_putBit (sound_setCam
          (sound_dropBlock k _) _ _) _ _ _ _) _ _ _ _) _ _ _ _) _ _ _ _) _ _ _) _) _

theorem sound_retrigger {s : State} (h : Sound s) (p : Nat) : Sound (s.retrigger p) := by
  unfold State.retrigger
  dsimp only
  split
  · exact h
  · split
    · exact sound_putBit (sound_putTime (sound_setCam h _ _) _ _ _ _ _) _ _ _ _
    · exact sound_putBit (sound_setCam h _ _) _ _ _ _

theorem sound_retriggerAll {s : State} (h : Sound s) : Sound s.retriggerAll := by
  unfold State.retriggerAll
  exact sound_timesFrom (fun s i k => sound_retrigger k _) h _ _

theorem sound_fireTrigger {s : State} (h : Sound s) (p : Nat) : Sound (s.fireTrigger p) := by
  unfold State.fireTrigger
  dsimp only
  split
  · exact sound_retrigger (sound_setCam h _ _) _
  · exact h

theorem sound_stopTrigger {s : State} (h : Sound s) (p : Nat) : Sound (s.stopTrigger p) := by
  unfold State.stopTrigger
  dsimp only
  refine sound_setCam ?_ _ _
  split
  · refine sound_putBit ?_ _ _ _ _
    refine sound_own ?_ _ _ _
    split
    · exact sound_own (sound_putField (sound_setField (sound_setField h _ _ _) _ _ _) _ _ _) _ _ _
    · exact h
  · split
    · exact sound_own (sound_putField (sound_setField (sound_setField h _ _ _) _ _ _) _ _ _) _ _ _
    · exact h

theorem sound_startTrigger {s : State} (h : Sound s) (p kind index period width : Nat) : Sound (s.startTrigger p kind
    index period width) := by
  unfold State.startTrigger
  exact sound_ite (sound_putField (sound_setField (sound_setField (sound_setCam (sound_own h _ _ _) _ _) _ _ _) _ _
      _) _ _ _) (sound_retrigger (sound_setCam (sound_own h _ _ _) _ _) _)

theorem soundNext_execCmdCamTrigger {s : State} (h : Sound s) (src : Source) : SoundNext (execCmdCamTrigger src s) :=
    by
  unfold execCmdCamTrigger
  dsimp only
  refine soundNext_runCmd h _ _ (fun t d k => ?_)
  refine sound_ite_fst ?_ ?_
  · exact sound_refuse k _
  · refine sound_ite_fst ?_ ?_
    · exact sound_doneWith (sound_stopTrigger k _) _
    · refine sound_ite_fst ?_ ?_
      · exact sound_refuse k _
      · exact sound_doneWith (sound_startTrigger (sound_ite k (sound_stopTrigger k _)) _ _ _ _ _) _

theorem soundNext_execTriggerPulseEnd {s : State} (h : Sound s) (pin : TrigPin) : SoundNext (execTriggerPulseEnd pin
    s) := by
  unfold execTriggerPulseEnd
  dsimp only
  split
  · exact soundNext_onDie h (sound_die h _)
  · exact soundNext_onDevice h (sound_setCam h _ _)

/-! ### Network -/

theorem sound_setDom {s : State} (h : Sound s) (d : Nat) (x : Domain) : Sound (s.setDom d x) := by
  unfold State.setDom
  exact sound_time h _

theorem sound_setEth {s : State} (h : Sound s) (p : Nat) (x : EthPort) : Sound (s.setEth p x) := by
  unfold State.setEth
  exact sound_time h _

theorem sound_showEth {s : State} (h : Sound s) (p : Nat) : Sound (s.showEth p) := by
  unfold State.showEth
  dsimp only
  refine sound_ite ?_ ?_
  · split
    · exact sound_putBit (sound_putTime (sound_put h _ _ _ _) _ _ _ _ _) _ _ _ _
    · exact sound_putBit (sound_put h _ _ _ _) _ _ _ _
  · exact sound_put h _ _ _ _

theorem sound_ptpStart {s : State} (h : Sound s) (p : Nat) (m : Nat × Nat) : Sound (s.ptpStart p m) := by
  unfold State.ptpStart
  exact sound_ite (sound_drawn (sound_setDom (sound_setEth h _ _) _ _)) (sound_setEth h _ _)

theorem sound_ptpFlush {s : State} (h : Sound s) (p n : Nat) : Sound (s.ptpFlush p n) := by
  induction n generalizing s with
  | zero => exact h
  | succ n ih =>
    unfold State.ptpFlush
    split
    · exact h
    · exact sound_ite (ih (sound_ptpStart (sound_setEth h _ _) _ _)) h

theorem sound_ptpGo {s : State} (h : Sound s) (p : Nat) : Sound (s.ptpGo p) := by
  unfold State.ptpGo
  exact sound_ptpFlush h _ _

theorem sound_ptpSend {s : State} (h : Sound s) (d kind : Nat) : Sound (s.ptpSend d kind) := by
  unfold State.ptpSend
  exact sound_ptpGo (sound_setEth h _ _) _

theorem sound_launchHead {s : State} (h : Sound s) (p : Nat) (exact : Bool) : Sound (s.launchHead p exact) := by
  unfold State.launchHead
  dsimp only
  split
  · exact sound_ite h (sound_ite (sound_ptpGo (sound_showEth (sound_bump (sound_setEth h _ _) _ _ _) _) _)
        (sound_showEth (sound_drawn (sound_setEth (sound_ite (sound_bump h _ _ _) h) _ _)) _))
  · exact h

theorem sound_queueFrame {s : State} (h : Sound s) (p : Nat) (f : TimedFrame) : Sound (s.queueFrame p f) := by
  unfold State.queueFrame
  exact sound_ite (sound_bump h _ _ _) (sound_ite (sound_bump h _ _ _) (sound_ite (sound_bump h _ _ _)
      (sound_launchHead (sound_showEth (sound_setEth h _ _) _) _ _)))

theorem sound_timedFrame {s : State} (h : Sound s) (id closed : Nat) : Sound (s.timedFrame id closed) := by
  unfold State.timedFrame
  exact sound_ite h (sound_queueFrame (sound_drawn h) _ _)

theorem soundNext_execTimedFrameTxDone {s : State} (h : Sound s) (port : Fin 2) : SoundNext (execTimedFrameTxDone
    port s) := by
  unfold execTimedFrameTxDone
  dsimp only
  refine soundNext_onDevice h ?_
  split
  · exact h
  · exact sound_ptpGo (sound_launchHead (sound_ite (sound_put (sound_setEth (sound_setEth h _ _) _ _) _ _ _ _)
        (sound_putBit (sound_bump (sound_setEth h _ _) _ _ _) _ _ _ _)) _ _) _

theorem sound_readTxts {s : State} (h : Sound s) (p : Nat) : Sound (s.readTxts p).1 := by
  unfold State.readTxts
  dsimp only
  split
  · exact h
  · exact sound_put (sound_putTime (sound_put (sound_setEth h _ _) _ _ _ _) _ _ _ _ _) _ _ _ _

theorem soundNext_execEthTxtsIdRead {s : State} (h : Sound s) (port : Fin 2) : SoundNext (execEthTxtsIdRead port s)
    := by
  unfold execEthTxtsIdRead
  exact soundNext_onDevice h (sound_readTxts h _)

theorem sound_latchTime {s : State} (h : Sound s) : Sound s.latchTime := by
  unfold State.latchTime
  exact sound_put (sound_put (sound_put h _ _ _ _) _ _ _ _) _ _ _ _

theorem soundNext_execTkTimeNsRead {s : State} (h : Sound s) : SoundNext (execTkTimeNsRead s) := by
  unfold execTkTimeNsRead
  exact soundNext_onDevice h (sound_latchTime h)

theorem soundNext_execCmdTimeRead {s : State} (h : Sound s) (src : Source) : SoundNext (execCmdTimeRead src s) := by
  unfold execCmdTimeRead
  exact soundNext_runCmd h _ _ (fun t d k => sound_doneWith k _)

theorem sound_showLocks {s : State} (h : Sound s) : Sound s.showLocks := by
  unfold State.showLocks
  exact sound_putBit (sound_putBit h _ _ _ _) _ _ _ _

theorem sound_setRate {s : State} (h : Sound s) (r : Int) : Sound (s.setRate r) := by
  unfold State.setRate
  exact sound_put (sound_put (sound_time h _) _ _ _ _) _ _ _ _

theorem sound_autoSelect {s : State} (h : Sound s) : Sound s.autoSelect := by
  unfold State.autoSelect
  exact sound_ite (sound_put h _ _ _ _) h

theorem sound_follow {s : State} (h : Sound s) : Sound s.follow := by
  unfold State.follow
  dsimp only
  split
  · exact sound_putBit (sound_putBit (sound_putBit (sound_setRate (sound_drawn (sound_time h _)) _) _ _ _ _) _ _ _ _)
        _ _ _ _
  · exact sound_ite (sound_putBit (sound_put (sound_time (sound_putBit (sound_putBit h _ _ _ _) _ _ _ _) _) _ _ _ _)
        _ _ _ _) (sound_putBit (sound_putBit h _ _ _ _) _ _ _ _)

theorem sound_servo {s : State} (h : Sound s) : Sound s.servo := by
  unfold State.servo
  exact sound_follow (sound_autoSelect (sound_showLocks h))

theorem sound_restamp {s : State} (h : Sound s) (p : Nat) (d : Int) : Sound (s.restamp p d) := by
  unfold State.restamp
  exact sound_showEth (sound_setEth h _ _) _

theorem sound_showDom {s : State} (h : Sound s) (d : Nat) : Sound (s.showDom d) := by
  unfold State.showDom
  exact sound_put (sound_put h _ _ _ _) _ _ _ _

theorem sound_snapTimeBack {s : State} (h : Sound s) : Sound s.snapTimeBack := by
  unfold State.snapTimeBack
  exact sound_ite (sound_snap h _) h

theorem sound_fireSnapTime {s : State} (h : Sound s) (u : Nat) : Sound (s.fireSnapTime u) := by
  unfold State.fireSnapTime
  exact sound_ite h (sound_snapIf (sound_ite (sound_snap h _) (sound_putBit (sound_putBit h _ _ _ _) _ _ _ _)) _)

theorem sound_snapStep {s : State} (h : Sound s) : Sound s.snapStep := by
  unfold State.snapStep
  exact sound_ite (sound_fireSnapTime h _) h

theorem sound_stepTime {s : State} (h : Sound s) (offset : Int) : Sound (s.stepTime offset) := by
  unfold State.stepTime
  dsimp only
  refine sound_snapStep ?_
  refine sound_showDom ?_ _
  refine sound_showDom ?_ _
  refine sound_retriggerAll ?_
  refine sound_restamp ?_ _ _
  refine sound_restamp ?_ _ _
  refine sound_snapTimeBack ?_
  refine sound_put ?_ _ _ _ _
  refine sound_put ?_ _ _ _ _
  exact sound_of_same h rfl rfl rfl

theorem sound_lockDom {s : State} (h : Sound s) (d : Nat) : Sound (s.lockDom d) := by
  unfold State.lockDom
  exact sound_servo (sound_ite (sound_ite (sound_stored (sound_putBit (sound_showLocks (sound_putBit (sound_putBit h
      _ _ _ _) _ _ _ _)) _ _ _ _) _) (sound_stepTime (sound_stored (sound_putBit (sound_showLocks (sound_putBit
      (sound_putBit h _ _ _ _) _ _ _ _)) _ _ _ _) _) _)) (sound_showLocks (sound_putBit (sound_putBit h _ _ _ _) _ _
      _ _)))

theorem sound_loseDom {s : State} (h : Sound s) (d : Nat) : Sound (s.loseDom d) := by
  unfold State.loseDom
  exact sound_servo (sound_putBit (sound_putBit (sound_setDom (sound_ite (sound_bump h _ _ _) h) _ _) _ _ _ _) _ _ _
      _)

theorem sound_measure {s : State} (h : Sound s) (d : Nat) (ingress : Int) (at' : Nat) (origin rate : Int) : Sound
    (s.measure d ingress at' origin rate) := by
  unfold State.measure
  exact sound_ite (sound_showDom (sound_lockDom (sound_showDom (sound_setDom h _ _) _) _) _) (sound_servo
      (sound_showDom (sound_setDom h _ _) _))

theorem sound_chooseMaster {s : State} (h : Sound s) (d : Nat) : Sound (s.chooseMaster d) := by
  unfold State.chooseMaster
  dsimp only
  split
  · exact h
  · exact sound_ite (sound_setDom h _ _) (sound_servo (sound_putBit (sound_bump (sound_setDom h _ _) _ _ _) _ _ _ _))

theorem soundNext_execPtpAnnounceRx {s : State} (h : Sound s) (dom : Fin 2) (ann : Announce) : SoundNext
    (execPtpAnnounceRx dom ann s) := by
  unfold execPtpAnnounceRx
  exact soundNext_onDevice h (sound_ptpTake h _ (sound_ite h (sound_chooseMaster (sound_setDom h _ _) _)))

theorem soundNext_execPtpSyncRx {s : State} (h : Sound s) (dom : Fin 2) (seq : Nat) (twoStep : Bool) (origin rate :
    Int) : SoundNext (execPtpSyncRx dom seq twoStep origin rate s) := by
  unfold execPtpSyncRx
  exact soundNext_onDevice h (sound_ptpTake h _ (sound_ite (sound_drawn (sound_setDom h _ _)) (sound_measure
      (sound_drawn h) _ _ _ _ _)))

theorem soundNext_execPtpFollowUpRx {s : State} (h : Sound s) (dom : Fin 2) (seq : Nat) (origin rate : Int) :
    SoundNext (execPtpFollowUpRx dom seq origin rate s) := by
  unfold execPtpFollowUpRx
  dsimp only
  refine soundNext_onDevice h ?_
  refine sound_ptpTake h _ ?_
  split
  · exact sound_ite (sound_measure (sound_setDom h _ _) _ _ _ _ _) h
  · exact h

theorem soundNext_execPtpDelayRespRx {s : State} (h : Sound s) (dom : Fin 2) (received : Int) : SoundNext
    (execPtpDelayRespRx dom received s) := by
  unfold execPtpDelayRespRx
  dsimp only
  refine soundNext_onDevice h ?_
  refine sound_ptpTake h _ ?_
  split
  · exact sound_ite (sound_bump h _ _ _) (sound_setDom h _ _)
  · exact h

theorem soundNext_execPtpPdelayReqRx {s : State} (h : Sound s) (dom : Fin 2) : SoundNext (execPtpPdelayReqRx dom s)
    := by
  unfold execPtpPdelayReqRx
  exact soundNext_onDevice h (sound_ptpTake h _ (sound_ite (sound_bump h _ _ _) (sound_ite (sound_ptpSend h _ _)
      (sound_ptpSend (sound_ptpSend h _ _) _ _))))

theorem soundNext_execPtpPdelayRespRx {s : State} (h : Sound s) (dom : Fin 2) (twoStep : Bool) (value : Int) :
    SoundNext (execPtpPdelayRespRx dom twoStep value s) := by
  unfold execPtpPdelayRespRx
  dsimp only
  refine soundNext_onDevice h ?_
  refine sound_ptpTake h _ ?_
  split
  · exact h
  · exact sound_ite (sound_bump h _ _ _) (sound_ite (sound_drawn (sound_setDom h _ _)) (sound_drawn (sound_setDom h _
        _)))

theorem soundNext_execPtpPdelayRespFollowUpRx {s : State} (h : Sound s) (dom : Fin 2) (origin : Int) : SoundNext
    (execPtpPdelayRespFollowUpRx dom origin s) := by
  unfold execPtpPdelayRespFollowUpRx
  dsimp only
  refine soundNext_onDevice h ?_
  refine sound_ptpTake h _ ?_
  split
  · exact sound_setDom h _ _
  · exact h

theorem soundNext_execPtpDelayReqSend {s : State} (h : Sound s) (dom : Fin 2) : SoundNext (execPtpDelayReqSend dom s)
    := by
  unfold execPtpDelayReqSend
  exact soundNext_onDevice h (sound_ite (sound_ptpSend h _ _) h)

theorem soundNext_execEthRxOther {s : State} (h : Sound s) (port : Fin 2) (kind : EthOther) : SoundNext
    (execEthRxOther port kind s) := by
  unfold execEthRxOther
  dsimp only
  refine soundNext_onDevice h ?_
  refine sound_ite ?_ ?_
  · exact h
  · split
    · exact sound_bump (sound_bump h _ _ _) _ _ _
    · exact sound_ite (sound_bump h _ _ _) (sound_bump h _ _ _)
    · exact sound_bump h _ _ _

theorem soundNext_execAnnounceTmo {s : State} (h : Sound s) (dom : Fin 2) : SoundNext (execAnnounceTmo dom s) := by
  unfold execAnnounceTmo
  exact soundNext_onDevice h (sound_ite (sound_chooseMaster (sound_setDom (sound_loseDom (sound_bump h _ _ _) _) _ _)
      _) h)

theorem soundNext_execSyncTmo {s : State} (h : Sound s) (dom : Fin 2) : SoundNext (execSyncTmo dom s) := by
  unfold execSyncTmo
  exact soundNext_onDevice h (sound_ite (sound_loseDom h _) h)

theorem soundNext_execCmdTimeDomainSet {s : State} (h : Sound s) (src : Source) : SoundNext (execCmdTimeDomainSet src
    s) := by
  unfold execCmdTimeDomainSet
  dsimp only
  refine soundNext_runCmd h _ _ (fun t d k => ?_)
  refine sound_ite_fst ?_ ?_
  · exact sound_refuse k _
  · exact sound_doneWith (sound_servo (sound_showDom (sound_setDom (sound_setReg k _ _ _ _) _ _) _)) _

theorem soundNext_execCmdTimeSelect {s : State} (h : Sound s) (src : Source) : SoundNext (execCmdTimeSelect src s) :=
    by
  unfold execCmdTimeSelect
  refine soundNext_runCmd h _ _ (fun t d k => ?_)
  refine sound_ite_fst ?_ ?_
  · exact sound_doneWith (sound_servo (sound_put k _ _ _ _)) _
  · exact sound_refuse k _

theorem sound_linkChange {s : State} (h : Sound s) (p : Nat) (up : Bool) : Sound (s.linkChange p up) := by
  unfold State.linkChange
  exact sound_ite h (sound_ite (sound_raise (sound_putBit h _ _ _ _) _) (sound_bump (sound_raise (sound_putBit h _ _
      _ _) _) _ _ _))

theorem soundNext_execEthLinkChange {s : State} (h : Sound s) (port : Fin 2) (up : Bool) : SoundNext
    (execEthLinkChange port up s) := by
  unfold execEthLinkChange
  exact soundNext_onDevice h (sound_linkChange h _ _)

theorem soundNext_execCmdEthConfig {s : State} (h : Sound s) (src : Source) : SoundNext (execCmdEthConfig src s) := by
  unfold execCmdEthConfig
  dsimp only
  refine soundNext_runCmd h _ _ (fun t d k => ?_)
  refine sound_ite_fst ?_ ?_
  · exact sound_refuse k _
  · refine sound_ite_fst ?_ ?_
    · exact sound_refuse k _
    · exact sound_doneWith (sound_put (sound_put (sound_put (sound_put (sound_setEth (sound_ite (sound_linkChange k _
          _) k) _ _) _ _ _ _) _ _ _ _) _ _ _ _) _ _ _ _) _

theorem sound_dropUnit {s : State} (h : Sound s) (p : Nat) : Sound (s.dropUnit p) := by
  unfold State.dropUnit
  exact sound_ite (sound_put (sound_putBit (sound_putBit (sound_own h _ _ _) _ _ _ _) _ _ _ _) _ _ _ _) h

theorem soundNext_execCmdLaunchEnable {s : State} (h : Sound s) (src : Source) : SoundNext (execCmdLaunchEnable src
    s) := by
  unfold execCmdLaunchEnable
  dsimp only
  refine soundNext_runCmd h _ _ (fun t d k => ?_)
  refine sound_ite_fst ?_ ?_
  · exact sound_refuse k _
  · refine sound_ite_fst ?_ ?_
    · exact sound_refuse k _
    · refine sound_ite_fst ?_ ?_
      · exact sound_refuse k _
      · refine sound_ite_fst ?_ ?_
        · exact sound_refuse k _
        · exact sound_doneWith (sound_showEth (sound_put (sound_putBit (sound_own (sound_dropUnit k _) _ _ _) _ _ _
              _) _ _ _ _) _) _

theorem soundNext_execCmdLaunchDisable {s : State} (h : Sound s) (src : Source) : SoundNext (execCmdLaunchDisable src
    s) := by
  unfold execCmdLaunchDisable
  refine soundNext_runCmd h _ _ (fun t d k => ?_)
  refine sound_ite_fst ?_ ?_
  · exact sound_refuse k _
  · exact sound_doneWith (sound_dropUnit k _) _

/-! ### FieldLink -/

theorem sound_requestReset {s : State} (h : Sound s) (cause : Nat) : Sound (s.requestReset cause) := by
  unfold State.requestReset
  exact sound_ite h (sound_boot h _)

theorem sound_sendAll {s : State} (h : Sound s) : Sound s.sendAll := by
  unfold State.sendAll
  exact sound_ite (sound_showPending (sound_field h _)) h

theorem sound_fieldRise {s : State} (h : Sound s) : Sound s.fieldRise := by
  unfold State.fieldRise
  dsimp only
  refine sound_sendAll ?_
  refine sound_putBit ?_ _ _ _ _
  exact sound_of_same h rfl rfl rfl

theorem sound_fieldFall {s : State} (h : Sound s) : Sound s.fieldFall := by
  unfold State.fieldFall
  exact sound_retriggerAll (sound_put (sound_put (sound_putBit (sound_putBit (sound_putBit (sound_field h _) _ _ _ _)
      _ _ _ _) _ _ _ _) _ _ _ _) _ _ _ _)

theorem sound_showLink {s : State} (h : Sound s) : Sound s.showLink := by
  unfold State.showLink
  exact sound_ite h (sound_ite (sound_fieldRise h) (sound_fieldFall h))

theorem sound_showCount {s : State} (h : Sound s) (c : Nat) : Sound (s.showCount c) := by
  unfold State.showCount
  exact sound_put (sound_putCount h _ _ _ _) _ _ _ _

theorem sound_takeCount12 {s : State} (h : Sound s) (c low : Nat) : Sound (s.takeCount12 c low) := by
  unfold State.takeCount12
  exact sound_ite (sound_showCount (sound_setMirror h _ _) _) h

theorem sound_startPitch {s : State} (h : Sound s) (r : Nat) : Sound (s.startPitch r) := by
  unfold State.startPitch
  exact sound_ite (sound_setRule h _ _) h

theorem sound_snapEncoder {s : State} (h : Sound s) : Sound s.snapEncoder := by
  unfold State.snapEncoder
  dsimp only
  split
  · exact sound_ite (sound_snap h _) (sound_ite (sound_snapIf (sound_ite (sound_snap h _) (sound_putBit (sound_snap h
        _) _ _ _ _)) _) h)
  · exact h

theorem sound_countsTaken {s : State} (h : Sound s) : Sound s.countsTaken := by
  unfold State.countsTaken
  exact sound_snapEncoder (sound_retriggerAll (sound_timesFrom (fun s i k => sound_startPitch k _) h _ _))

theorem sound_takeTally {s : State} (h : Sound s) (t : Tbl Nat) : Sound (s.takeTally t) := by
  unfold State.takeTally
  exact sound_field (sound_foldState (fun s a k => sound_bumpBy k _ _ _ _) h _) _

theorem sound_takeSafe {s : State} (h : Sound s) (safe : Bool) : Sound (s.takeSafe safe) := by
  unfold State.takeSafe
  exact sound_putBit (sound_ite (sound_bump h _ _ _) h) _ _ _ _

theorem sound_takeUp {s : State} (h : Sound s) (f : UpFrame) (k : Nat) : Sound (s.takeUp f k) := by
  unfold State.takeUp
  exact sound_ite (sound_field h _) (sound_showPending (sound_countsTaken (sound_takeCount12 (sound_takeCount12
      (sound_takeTally (sound_put (sound_put (sound_takeSafe (sound_showLink (sound_field h _)) _) _ _ _ _) _ _ _ _)
      _) _ _) _ _)))

theorem sound_gateTaken {s : State} (h : Sound s) : Sound s.gateTaken := by
  unfold State.gateTaken
  exact sound_ite (sound_linkSend (sound_twin h _) _ _ _ _) h

theorem soundNext_execFieldUpFrameRx {s : State} (h : Sound s) (slot : Slot) : SoundNext (execFieldUpFrameRx slot s)
    := by
  unfold execFieldUpFrameRx
  dsimp only
  refine soundNext_next ?_
  refine sound_composeUp ?_
  refine sound_ite ?_ ?_
  · exact h
  · split
    · exact sound_field h _
    · split
      · exact sound_gateTaken (sound_takeUp h _ _)
      · exact sound_bump (sound_field h _) _ _ _

theorem sound_sendDown {s : State} (h : Sound s) (msg : Option (Nat × Msg)) (resync : Bool) (l : LinkEnd Msg Taken) :
    Sound (s.sendDown msg resync l) := by
  unfold State.sendDown
  exact sound_putBit (sound_field h _) _ _ _ _

theorem sound_composeDown {s : State} (h : Sound s) : Sound s.composeDown := by
  unfold State.composeDown
  exact sound_ite (sound_putBit (sound_field h _) _ _ _ _) (sound_ite (sound_sendDown h _ _ _) (sound_ite
      (sound_sendDown h _ _ _) (sound_ite (sound_sendDown h _ _ _) (sound_sendDown h _ _ _))))

theorem soundNext_execFieldDownFrameRx {s : State} (h : Sound s) (slot : Slot) : SoundNext (execFieldDownFrameRx slot
    s) := by
  unfold execFieldDownFrameRx
  dsimp only
  refine soundNext_next ?_
  refine sound_composeDown ?_
  refine sound_ite ?_ ?_
  · exact h
  · split
    · exact sound_die h _
    · split
      · exact sound_showLink (sound_takeDown h _ _)
      · exact sound_die h _

theorem soundNext_execFieldLinkDown {s : State} (h : Sound s) (up : Bool) : SoundNext (execFieldLinkDown up s) := by
  unfold execFieldLinkDown
  exact soundNext_next (sound_ite (sound_ite (sound_showLink (sound_field h _)) h) (sound_ite (sound_showLink
      (sound_enterSafe (sound_die h _) _)) h))

theorem soundNext_execFieldResend {s : State} (h : Sound s) (up : Bool) : SoundNext (execFieldResend up s) := by
  unfold execFieldResend
  exact soundNext_next (sound_ite (sound_ite (sound_bump (sound_die h _) _ _ _) h) (sound_ite (sound_bump
      (sound_field h _) _ _ _) h))

/-! ### FieldReports -/

theorem sound_dropReport {s : State} (h : Sound s) : Sound s.dropReport := by
  unfold State.dropReport
  exact sound_field h _

theorem soundNext_onReport {s : State} (h : Sound s) (f : State → Taken → Option State) (hf : ∀ (a : State) (a_1 :
    Taken), Sound a → SoundOpt (f a a_1)) : SoundNext (onReport s f) := by
  unfold onReport
  refine soundNext_onDevice h ?_
  split
  · exact h
  · exact sound_getD (hf _ _ (sound_dropReport h)) h

theorem sound_dropAmend {s : State} (h : Sound s) (e : Nat) : Sound (s.dropAmend e) := by
  unfold State.dropAmend
  exact sound_field h _

theorem sound_drainGate {s : State} (h : Sound s) : Sound s.drainGate := by
  unfold State.drainGate
  exact sound_ite (sound_putBit (sound_setField h _ _ _) _ _ _ _) h

theorem sound_freeDevEntry {s : State} (h : Sound s) (e : Nat) : Sound (s.freeDevEntry e) := by
  unfold State.freeDevEntry
  exact sound_drainGate (sound_showTable (sound_dropAmend (sound_field h _) _))

theorem sound_finalDiff {s : State} (h : Sound s) (id : Nat) : Sound (s.finalDiff id) := by
  unfold State.finalDiff
  exact sound_ite (sound_bump h _ _ _) h

theorem sound_finalise {s : State} (h : Sound s) (id final time : Nat) : Sound (s.finalise id final time) := by
  unfold State.finalise
  exact sound_mirror (sound_endCompute (sound_tapsClose (sound_timedFrame (sound_finalDiff (sound_setBob h _ _) _) _
      _) _) _) _ _

theorem sound_armLate {s : State} (h : Sound s) : Sound s.armLate := by
  unfold State.armLate
  exact sound_tdc (sound_bump h _ _ _) _

theorem sound_ackBob {s : State} (h : Sound s) (id : Nat) (closed : Bool) (arrived : Nat) : Sound (s.ackBob id closed
    arrived) := by
  unfold State.ackBob
  exact sound_ite h (sound_ite (sound_finalise (sound_bobRecord (sound_armLate h) _ _) _ _ _) (sound_closeInput
      (sound_judgeJob (sound_setBob h _ _) _) _))

theorem soundNext_execFieldAckReport {s : State} (h : Sound s) : SoundNext (execFieldAckReport s) := by
  unfold execFieldAckReport
  refine soundNext_onReport h _ (fun a _ k => ?_)
  split
  · refine soundOpt_some ?_
    split
    · exact sound_ackBob k _ _ _
    · exact k
  · exact soundOpt_none

theorem soundNext_execFieldRefuseReport {s : State} (h : Sound s) : SoundNext (execFieldRefuseReport s) := by
  unfold execFieldRefuseReport
  dsimp only
  refine soundNext_onReport h _ (fun a _ k => ?_)
  split
  · refine soundOpt_some ?_
    split
    · exact sound_retireBob (sound_bobRecord (sound_armLate (sound_freeDevEntry k _)) _ _) _
    · exact sound_freeDevEntry k _
  · exact soundOpt_none

theorem soundNext_execFieldAcceptReport {s : State} (h : Sound s) : SoundNext (execFieldAcceptReport s) := by
  unfold execFieldAcceptReport
  dsimp only
  refine soundNext_onReport h _ (fun a _ k => ?_)
  split
  · refine soundOpt_some ?_
    split
    · exact sound_mirror (sound_endCompute (sound_bobRecord (sound_setBob (sound_dropAmend k _) _ _) _ _) _) _ _
    · exact sound_dropAmend k _
  · exact soundOpt_none

theorem soundNext_execFieldRejectReport {s : State} (h : Sound s) : SoundNext (execFieldRejectReport s) := by
  unfold execFieldRejectReport
  refine soundNext_onReport h _ (fun a _ k => ?_)
  split
  · exact soundOpt_some (sound_bump (sound_dropAmend k _) _ _ _)
  · exact soundOpt_none

theorem soundNext_execFieldCloseReport {s : State} (h : Sound s) : SoundNext (execFieldCloseReport s) := by
  unfold execFieldCloseReport
  dsimp only
  refine soundNext_onReport h _ (fun a _ k => ?_)
  split
  · refine soundOpt_some ?_
    split
    · exact sound_finalise (sound_ite k (sound_bobRecord (sound_ite (sound_tdc k _) k) _ _)) _ _ _
    · exact k
  · exact soundOpt_none

theorem soundNext_execFieldEjectReport {s : State} (h : Sound s) : SoundNext (execFieldEjectReport s) := by
  unfold execFieldEjectReport
  dsimp only
  refine soundNext_onReport h _ (fun a _ k => ?_)
  split
  · refine soundOpt_some ?_
    split
    · exact sound_retireBob (sound_bobRecord (sound_ite (sound_bump (sound_freeDevEntry k _) _ _ _)
          (sound_freeDevEntry k _)) _ _) _
    · exact sound_ite (sound_bump (sound_freeDevEntry k _) _ _ _) (sound_freeDevEntry k _)
  · exact soundOpt_none

theorem sound_probeEdge {s : State} (h : Sound s) (r : Nat) (c : Int) (safe : Bool) : Sound (s.probeEdge r c safe) :=
    by
  unfold State.probeEdge
  exact sound_ite (sound_bump h _ _ _) (sound_ite (sound_ite (sound_setRule h _ _) (sound_untracked (sound_setRule h
      _ _))) (sound_partFound (sound_setRule h _ _) _ _))

theorem sound_latchTaken {s : State} (h : Sound s) (i enc low : Nat) (safe : Bool) : Sound (s.latchTaken i enc low
    safe) := by
  unfold State.latchTaken
  split
  · exact sound_probeEdge h _ _ _
  · exact sound_ite h (sound_untracked h)
  · exact h

theorem soundNext_execFieldLatchReport {s : State} (h : Sound s) : SoundNext (execFieldLatchReport s) := by
  unfold execFieldLatchReport
  refine soundNext_onReport h _ (fun a _ k => ?_)
  split
  · exact soundOpt_some (sound_latchTaken k _ _ _ _)
  · exact soundOpt_none

theorem sound_syncCount {s : State} (h : Sound s) (c : Nat) (snapshot : Int) (low arrived : Nat) : Sound (s.syncCount
    c snapshot low arrived) := by
  unfold State.syncCount
  dsimp only
  refine sound_ite ?_ ?_
  · split
    · exact sound_ite (sound_showCount (sound_setMirror h _ _) _) (sound_bump (sound_showCount (sound_setMirror h _
          _) _) _ _ _)
    · exact h
  · exact sound_showCount (sound_setMirror h _ _) _

theorem sound_countsValid {s : State} (h : Sound s) : Sound s.countsValid := by
  unfold State.countsValid
  exact sound_ite h (sound_countsTaken (sound_putBit (sound_setMirror (sound_setMirror h _ _) _ _) _ _ _ _))

theorem soundNext_execFieldSyncReport {s : State} (h : Sound s) : SoundNext (execFieldSyncReport s) := by
  unfold execFieldSyncReport
  dsimp only
  refine soundNext_onReport h _ (fun a _ k => ?_)
  split
  · refine soundOpt_some ?_
    refine sound_ite ?_ ?_
    · exact k
    · refine sound_ite ?_ ?_
      · exact sound_setMirror k _ _
      · split
        · exact k
        · exact sound_countsValid (sound_syncCount k _ _ _ _)
  · exact soundOpt_none

theorem soundNext_execFieldFiStateReport {s : State} (h : Sound s) : SoundNext (execFieldFiStateReport s) := by
  unfold execFieldFiStateReport
  dsimp only
  refine soundNext_onReport h _ (fun a _ k => ?_)
  split
  · exact soundOpt_some (sound_ite (sound_snapIf (sound_put k _ _ _ _) _) (sound_put k _ _ _ _))
  · exact soundOpt_none

theorem sound_takePowerup {s : State} (h : Sound s) (powerup first : Bool) : Sound (s.takePowerup powerup first) := by
  unfold State.takePowerup
  exact sound_ite (sound_field h _) (sound_ite (sound_requestReset h _) (sound_ite (sound_sendAll (sound_field h _))
      h))

theorem soundNext_execFieldStatusReport {s : State} (h : Sound s) : SoundNext (execFieldStatusReport s) := by
  unfold execFieldStatusReport
  dsimp only
  refine soundNext_onReport h _ (fun a _ k => ?_)
  split
  · exact soundOpt_some (sound_showPending (sound_takePowerup (sound_field (sound_bumpBy (sound_bumpBy (sound_put
        (sound_put (sound_put (sound_putBit (sound_putBit (sound_put k _ _ _ _) _ _ _ _) _ _ _ _) _ _ _ _) _ _ _ _) _
        _ _ _) _ _ _ _) _ _ _ _) _) _ _))
  · exact soundOpt_none

theorem soundNext_execFieldSpeedReport {s : State} (h : Sound s) : SoundNext (execFieldSpeedReport s) := by
  unfold execFieldSpeedReport
  refine soundNext_onReport h _ (fun a _ k => ?_)
  split
  · exact soundOpt_some (sound_put k _ _ _ _)
  · exact soundOpt_none

theorem soundNext_execFieldResyncReport {s : State} (h : Sound s) : SoundNext (execFieldResyncReport s) := by
  unfold execFieldResyncReport
  dsimp only
  refine soundNext_onReport h _ (fun a _ k => ?_)
  split
  · split
    · exact soundOpt_some (sound_requestReset k _)
    · exact soundOpt_some (sound_showPending (sound_sendAll (sound_field k _)))
  · exact soundOpt_none

/-! ### Finder -/

theorem soundNext_execCmdProvTableSet {s : State} (h : Sound s) (src : Source) : SoundNext (execCmdProvTableSet src
    s) := by
  unfold execCmdProvTableSet
  dsimp only
  refine soundNext_runCmd h _ _ (fun t d k => ?_)
  refine sound_ite_fst ?_ ?_
  · exact sound_refuse k _
  · exact sound_doneWith (sound_boot (sound_stored (sound_setReg k _ _ _ _) _) _) _

theorem soundNext_execCmdClassMapSet {s : State} (h : Sound s) (src : Source) : SoundNext (execCmdClassMapSet src s)
    := by
  unfold execCmdClassMapSet
  refine soundNext_runCmd h _ _ (fun t d k => ?_)
  refine sound_ite_fst ?_ ?_
  · exact sound_refuse k _
  · exact sound_doneWith (sound_stored (sound_setReg k _ _ _ _) _) _

theorem sound_takeProbe {s : State} (h : Sound s) (r : Nat) (c : Cmd) : Sound (s.takeProbe r c) := by
  unfold State.takeProbe
  exact sound_setField (sound_own h _ _ _) _ _ _

theorem soundNext_execCmdFinderEnable {s : State} (h : Sound s) (src : Source) : SoundNext (execCmdFinderEnable src
    s) := by
  unfold execCmdFinderEnable
  dsimp only
  refine soundNext_runCmd h _ _ (fun t d k => ?_)
  refine sound_ite_fst ?_ ?_
  · exact sound_refuse k _
  · refine sound_ite_fst ?_ ?_
    · exact sound_refuse k _
    · refine sound_ite_fst ?_ ?_
      · exact sound_refuse k _
      · refine sound_ite_fst ?_ ?_
        · exact sound_refuse k _
        · refine sound_ite_fst ?_ ?_
          · exact sound_refuse k _
          · refine sound_ite_fst ?_ ?_
            · exact sound_refuse k _
            · exact sound_doneWith (sound_showPorts (sound_ite (sound_takeProbe (sound_setRule (sound_setReg k _ _ _
                  _) _ _) _ _) (sound_setRule (sound_setReg k _ _ _ _) _ _))) _

theorem sound_pitchStep {s : State} (h : Sound s) (r : Nat) : Sound (s.pitchStep r) := by
  unfold State.pitchStep
  dsimp only
  split
  · exact sound_ite (sound_partFound (sound_setRule h _ _) _ _) h
  · exact h

theorem soundNext_execPitchTrigger {s : State} (h : Sound s) (rule : Fin 16) : SoundNext (execPitchTrigger rule s) :=
    by
  unfold execPitchTrigger
  exact soundNext_onDevice h (sound_pitchStep h _)

theorem sound_findDue {s : State} (h : Sound s) (r : Nat) : Sound (s.findDue r) := by
  unfold State.findDue
  dsimp only
  refine sound_timesFrom (fun s i k => sound_pitchStep k _) ?_ _ _
  refine sound_foldState (fun s a k => ?_) (sound_field h _) _
  split
  · exact sound_latchTaken k _ _ _ _
  · exact k

theorem soundNext_execCmdFinderDisable {s : State} (h : Sound s) (src : Source) : SoundNext (execCmdFinderDisable src
    s) := by
  unfold execCmdFinderDisable
  dsimp only
  refine soundNext_runCmd h _ _ (fun t d k => ?_)
  refine sound_ite_fst ?_ ?_
  · exact sound_refuse k _
  · refine sound_ite_fst ?_ ?_
    · exact sound_refuse k _
    · exact sound_doneWith (sound_showPorts (sound_foldState (fun s a k' => sound_sweep k' _) (sound_ite
          (sound_putField (sound_own (sound_putBit (sound_findDue k _) _ _ _ _) _ _ _) _ _ _) (sound_putBit
          (sound_findDue k _) _ _ _ _)) _)) _

theorem sound_takeOutputs {s : State} (h : Sound s) (mask lane : Nat) : Sound (s.takeOutputs mask lane) := by
  unfold State.takeOutputs
  exact sound_ite (sound_foldState (fun s a k => sound_own k _ _ _) h _) (sound_setField (sound_foldState (fun s a k
      => sound_own k _ _ _) h _) _ _ _)

theorem soundNext_execCmdLaneSet {s : State} (h : Sound s) (src : Source) : SoundNext (execCmdLaneSet src s) := by
  unfold execCmdLaneSet
  dsimp only
  refine soundNext_runCmd h _ _ (fun t d k => ?_)
  refine sound_ite_fst ?_ ?_
  · exact sound_refuse k _
  · refine sound_ite_fst ?_ ?_
    · exact sound_refuse k _
    · exact sound_doneWith (sound_takeOutputs (sound_stored (sound_setReg (sound_put (sound_put (sound_setReg k _ _ _
          _) _ _ _ _) _ _ _ _) _ _ _ _) _) _ _) _

theorem soundNext_execCmdSampleConfig {s : State} (h : Sound s) (src : Source) : SoundNext (execCmdSampleConfig src
    s) := by
  unfold execCmdSampleConfig
  dsimp only
  refine soundNext_runCmd h _ _ (fun t d k => ?_)
  refine sound_ite_fst ?_ ?_
  · exact sound_refuse k _
  · refine sound_ite_fst ?_ ?_
    · exact sound_refuse k _
    · exact sound_doneWith (sound_intake (sound_put (sound_put (sound_put (sound_put k _ _ _ _) _ _ _ _) _ _ _ _) _ _
          _ _) _) _

theorem soundNext_execCmdBobbinRead {s : State} (h : Sound s) (src : Source) : SoundNext (execCmdBobbinRead src s) :=
    by
  unfold execCmdBobbinRead
  refine soundNext_runCmd h _ _ (fun t d k => ?_)
  refine sound_ite_fst ?_ ?_
  · exact sound_refuse k _
  · exact sound_doneWith k _

theorem sound_ageOut {s : State} (h : Sound s) (id : Nat) : Sound (s.ageOut id) := by
  unfold State.ageOut
  exact sound_bump (sound_retireBob (sound_field h _) _) _ _ _

theorem soundNext_execBobAgeExpire {s : State} (h : Sound s) (bobbin : Fin 4096) : SoundNext (execBobAgeExpire bobbin
    s) := by
  unfold execBobAgeExpire
  exact soundNext_onDevice h (sound_ite (sound_ageOut h _) h)

theorem sound_writeAgeLimit {s : State} (h : Sound s) (v : Nat) : Sound (s.writeAgeLimit v) := by
  unfold State.writeAgeLimit
  exact sound_foldState (fun s a k => sound_ageOut k _) (sound_mergeReg h _ _ _ _) _

theorem soundNext_execBobAgeLimitWrite {s : State} (h : Sound s) (value : Word) : SoundNext (execBobAgeLimitWrite
    value s) := by
  unfold execBobAgeLimitWrite
  exact soundNext_onDevice h (sound_writeAgeLimit h _)

/-! ### Quant -/

theorem sound_ringWrite {s : State} (h : Sound s) (p : Nat) (ws : List Word) : Sound (s.ringWrite p ws) := by
  unfold State.ringWrite
  exact sound_ite (sound_bump h _ _ _) (sound_put (sound_writeData h _ _) _ _ _ _)

theorem sound_statsOf {s : State} (h : Sound s) (p : Nat) (task : Bool) (who : Nat) (ds : List Drained) : Sound
    (s.statsOf p task who ds) := by
  unfold State.statsOf
  exact sound_ite (sound_ringWrite h _ _) h

theorem sound_writeStatCtrl {s : State} (h : Sound s) (p v : Nat) : Sound (s.writeStatCtrl p v) := by
  unfold State.writeStatCtrl
  exact sound_ite (sound_ite (sound_put (sound_put (sound_mergeReg h _ _ _ _) _ _ _ _) _ _ _ _) (sound_putBit h _ _ _
      _)) (sound_mergeReg h _ _ _ _)

theorem soundNext_execQuantStatCtrlWrite {s : State} (h : Sound s) (part : Fin 8) (value : Word) : SoundNext
    (execQuantStatCtrlWrite part value s) := by
  unfold execQuantStatCtrlWrite
  exact soundNext_onDevice h (sound_writeStatCtrl h _ _)

theorem sound_raiseAlarm {s : State} (h : Sound s) (p id token : Nat) (there : Bool) : Sound (s.raiseAlarm p id token
    there) := by
  unfold State.raiseAlarm
  exact sound_event (sound_bump (sound_ite (sound_setBob h _ _) h) _ _ _) _ _

theorem sound_judgeUnit {s : State} (h : Sound s) (p id token : Nat) (there : Bool) (ds : List Drained) : Sound
    (s.judgeUnit p id token there ds) := by
  unfold State.judgeUnit
  exact sound_ite (sound_raiseAlarm h _ _ _ _) h

theorem sound_putRange {s : State} (h : Sound s) (p i lo hi : Nat) : Sound (s.putRange p i lo hi) := by
  unfold State.putRange
  exact sound_writeData (sound_setPart h _ _) _ _

theorem sound_calibOne {s : State} (h : Sound s) (p i x : Nat) : Sound (s.calibOne p i x) := by
  unfold State.calibOne
  exact sound_ite (sound_putRange h _ _ _ _) h

theorem sound_calibOf {s : State} (h : Sound s) (p : Nat) (ds : List Drained) : Sound (s.calibOf p ds) := by
  unfold State.calibOf
  refine sound_foldState (fun s a k => ?_) h _
  refine sound_foldState (fun s a k' => ?_) k _
  split
  · exact sound_ite (sound_calibOne k' _ _ _) k'
  · exact k'

theorem sound_freshCalib {s : State} (h : Sound s) (p : Nat) (cs : List Nat) : Sound (s.freshCalib p cs) := by
  unfold State.freshCalib
  exact sound_ite (sound_foldState (fun s a k => sound_writeData k _ _) h _) (sound_foldState (fun s a k =>
      sound_writeData k _ _) h _)

theorem sound_startCalib {s : State} (h : Sound s) (p : Nat) : Sound (s.startCalib p) := by
  unfold State.startCalib
  exact sound_putBit (sound_freshCalib (sound_setPart h _ _) _ _) _ _ _ _

theorem sound_proposeOne {s : State} (h : Sound s) (p i fmt : Nat) : Sound (s.proposeOne p i fmt) := by
  unfold State.proposeOne
  exact sound_ite (sound_bump (sound_writeData h _ _) _ _ _) (sound_ite (sound_bump (sound_writeData h _ _) _ _ _)
      (sound_writeData h _ _))

theorem sound_stopCalib {s : State} (h : Sound s) (p : Nat) : Sound (s.stopCalib p) := by
  unfold State.stopCalib
  exact sound_putBit (sound_setPart (sound_foldState (fun s a k => sound_proposeOne k _ _ _) (sound_put (sound_put h
      _ _ _ _) _ _ _ _) _) _ _) _ _ _ _

theorem sound_calibBoundary {s : State} (h : Sound s) (p : Nat) : Sound (s.calibBoundary p) := by
  unfold State.calibBoundary
  exact sound_ite (sound_startCalib (sound_ite (sound_stopCalib h _) h) _) (sound_ite (sound_stopCalib h _) h)

theorem sound_calibJobEnd {s : State} (h : Sound s) (p : Nat) : Sound (s.calibJobEnd p) := by
  unfold State.calibJobEnd
  exact sound_setPart (sound_ite (sound_stopCalib h _) h) _ _

theorem sound_writeCalibCtrl {s : State} (h : Sound s) (p v : Nat) : Sound (s.writeCalibCtrl p v) := by
  unfold State.writeCalibCtrl
  exact sound_ite (sound_ite (sound_setPart (sound_mergeReg h _ _ _ _) _ _) (sound_putBit h _ _ _ _)) (sound_ite
      (sound_setPart (sound_mergeReg h _ _ _ _) _ _) (sound_mergeReg h _ _ _ _))

theorem soundNext_execQuantCalibEnSet {s : State} (h : Sound s) (part : Fin 8) : SoundNext (execQuantCalibEnSet part
    s) := by
  unfold execQuantCalibEnSet
  exact soundNext_onDevice h (sound_writeCalibCtrl h _ _)

theorem soundNext_execQuantCalibEnClear {s : State} (h : Sound s) (part : Fin 8) : SoundNext (execQuantCalibEnClear
    part s) := by
  unfold execQuantCalibEnClear
  exact soundNext_onDevice h (sound_writeCalibCtrl h _ _)

/-! ### Learning -/

theorem sound_mapLearn {s : State} (h : Sound s) (p : Nat) (f : Learn → Learn) : Sound (s.mapLearn p f) := by
  unfold State.mapLearn
  exact sound_setPart h _ _

theorem sound_startLearn {s : State} (h : Sound s) (p : Nat) : Sound (s.startLearn p) := by
  unfold State.startLearn
  exact sound_putBit (sound_put (sound_mapLearn h _ _) _ _ _ _) _ _ _ _

theorem sound_endLearn {s : State} (h : Sound s) (p : Nat) : Sound (s.endLearn p) := by
  unfold State.endLearn
  exact sound_putBit (sound_mapLearn h _ _) _ _ _ _

theorem sound_batchFull {s : State} (h : Sound s) (p : Nat) : Sound (s.batchFull p) := by
  unfold State.batchFull
  exact sound_ite (sound_mapLearn (sound_put h _ _ _ _) _ _) (sound_mapLearn (sound_put h _ _ _ _) _ _)

theorem sound_gatherNext {s : State} (h : Sound s) (p n : Nat) : Sound (s.gatherNext p n) := by
  induction n generalizing s with
  | zero => exact h
  | succ n ih =>
    unfold State.gatherNext
    refine sound_ite h ?_
    split
    · exact h
    · split
      · exact h
      · have hr : ∀ (a : Area) (i m : Nat) f, Sound ((s.getItem a i m).1.mapLearn p f) :=
          fun a i m f => sound_mapLearn (sound_getItem h a i m) p f
        refine ih (sound_ite (sound_batchFull ?_ _) ?_) <;>
          exact sound_ite (hr _ _ _ _) (sound_bump (hr _ _ _ _) _ _ _)

theorem sound_parkLearn {s : State} (h : Sound s) (p : Nat) (k : Parked) : Sound (s.parkLearn p k) := by
  unfold State.parkLearn
  exact sound_gatherNext (sound_putItem (sound_mapLearn h _ _) _ _ _) _ _

theorem sound_showNeed {s : State} (h : Sound s) (p : Nat) : Sound (s.showNeed p) := by
  unfold State.showNeed
  exact sound_put h _ _ _ _

theorem sound_learnErr {s : State} (h : Sound s) (p : Nat) : Sound (s.learnErr p) := by
  unfold State.learnErr
  exact sound_putBit h _ _ _ _

theorem sound_writeLearnCtrl {s : State} (h : Sound s) (p v : Nat) : Sound (s.writeLearnCtrl p v) := by
  unfold State.writeLearnCtrl
  exact sound_showNeed (sound_ite (sound_learnErr (sound_put (sound_mergeReg h _ _ _ _) _ _ _ _) _) (sound_mergeReg h
      _ _ _ _)) _

theorem sound_writeLearn {s : State} (h : Sound s) (p offset v : Nat) : Sound (s.writeLearn p offset v) := by
  unfold State.writeLearn
  exact sound_ite (sound_writeLearnCtrl h _ _) (sound_ite (sound_ite (sound_learnErr h _) (sound_mergeReg h _ _ _ _))
      (sound_ite (sound_ite (sound_learnErr h _) (sound_mergeReg h _ _ _ _)) (sound_ite (sound_ite (sound_setReg h _
      _ _ _) (sound_learnErr h _)) (sound_ite (sound_ite (sound_setReg h _ _ _ _) (sound_learnErr h _)) (sound_ite
      (sound_ite (sound_setReg h _ _ _ _) (sound_learnErr h _)) (sound_ite (sound_ite (sound_setReg h _ _ _ _)
      (sound_learnErr h _)) h))))))

theorem soundNext_execSchedLearnHyperWrite {s : State} (h : Sound s) (part : Fin 8) (offset : Nat) (value : Word) :
    SoundNext (execSchedLearnHyperWrite part offset value s) := by
  unfold execSchedLearnHyperWrite
  exact soundNext_onDevice h (sound_writeLearn h _ _ _)

/-! ### Samples -/

theorem sound_mapSample {s : State} (h : Sound s) (place : Nat) (f : Sample → Sample) : Sound (s.mapSample place f)
    := by
  unfold State.mapSample
  exact sound_intake h _

theorem sound_sampleRecord {s : State} (h : Sound s) (x : Sample) (st : Status) (lo : Nat) : Sound (s.sampleRecord x
    st lo) := by
  unfold State.sampleRecord
  exact sound_ite h (sound_record h _ _ _ _ _ _ _ _)

theorem sound_countSample {s : State} (h : Sound s) (st : Status) : Sound (s.countSample st) := by
  unfold State.countSample
  split
  · exact sound_bump h _ _ _
  · exact sound_bump h _ _ _
  · exact sound_bump h _ _ _
  · exact sound_bump h _ _ _
  · exact sound_bump h _ _ _
  · exact sound_bump h _ _ _
  · exact sound_bump h _ _ _
  · exact h

theorem sound_recordsDue {s : State} (h : Sound s) (n : Nat) : Sound (s.recordsDue n) := by
  induction n generalizing s with
  | zero => exact h
  | succ n ih =>
    unfold State.recordsDue
    split
    · exact h
    · split
      · exact h
      · exact ih (sound_bumpWrap (sound_intake (sound_sampleRecord h _ _ _) _) _ _ _ _)

theorem sound_giveDecoder {s : State} (h : Sound s) (d : Nat) : Sound (s.giveDecoder d) := by
  unfold State.giveDecoder
  refine sound_ite ?_ ?_
  · exact h
  · split
    · exact sound_mapSample h _ _
    · exact h

theorem sound_giveDecoders {s : State} (h : Sound s) : Sound s.giveDecoders := by
  unfold State.giveDecoders
  exact sound_giveDecoder (sound_giveDecoder h _) _

theorem sound_sampleDone {s : State} (h : Sound s) (place : Nat) (st : Status) (head : Head) : Sound (s.sampleDone
    place st head) := by
  unfold State.sampleDone
  dsimp only
  split
  · exact h
  · refine sound_giveDecoders ?_
    refine sound_recordsDue ?_ _
    refine sound_ite ?_ ?_
    · refine sound_parkLearn ?_ _ _
      split
      · exact sound_freeBob (sound_endCompute (sound_mapSample (sound_countSample h _) _ _) _) _
      · exact sound_mapSample (sound_countSample h _) _ _
    · split
      · exact sound_freeBob (sound_endCompute (sound_mapSample (sound_countSample h _) _ _) _) _
      · exact sound_mapSample (sound_countSample h _) _ _

theorem sound_giveNumber {s : State} (h : Sound s) (place : Nat) : Sound (s.giveNumber place) := by
  unfold State.giveNumber
  dsimp only
  split
  · exact sound_ite (sound_ite (sound_parkLearn (sound_mapLearn (sound_intake (sound_mapSample h _ _) _) _ _) _ _)
        (sound_mapLearn (sound_intake (sound_mapSample h _ _) _) _ _)) (sound_intake (sound_mapSample h _ _) _)
  · exact sound_intake (sound_mapSample h _ _) _

theorem sound_giveNumbers {s : State} (h : Sound s) : Sound s.giveNumbers := by
  unfold State.giveNumbers
  exact sound_recordsDue (sound_foldState (fun s a k => sound_giveNumber k _) h _) _

theorem sound_addSample {s : State} (h : Sound s) (x : Sample) : Sound (s.addSample x) := by
  unfold State.addSample
  exact sound_intake (sound_put h _ _ _ _) _

theorem sound_takeHeader {s : State} (h : Sound s) (vc place : Nat) (bs rest : List Byte) : Sound (s.takeHeader vc
    place bs rest).1 := by
  unfold State.takeHeader
  dsimp only
  refine sound_ite_fst ?_ ?_
  · dsimp only
    exact sound_giveNumbers (sound_sampleRecord (sound_countSample (sound_intake h _) _) _ _ _)
  · refine sound_ite_fst ?_ ?_
    · dsimp only
      exact sound_giveNumbers (sound_sampleRecord (sound_countSample (sound_intake h _) _) _ _ _)
    · split
      · exact sound_ite (sound_tdc (sound_sampleDone (sound_giveNumbers (sound_addSample (sound_intake h _) _)) _ _
            _) _) (sound_sampleDone (sound_giveNumbers (sound_addSample (sound_intake h _) _)) _ _ _)
      · exact sound_giveDecoders (sound_giveNumbers (sound_addSample (sound_intake h _) _))

theorem sound_sampleReady {s : State} (h : Sound s) (place : Nat) (img : Img) (trunc : Bool) : Sound (s.sampleReady
    place img trunc) := by
  unfold State.sampleReady
  dsimp only
  split
  · exact h
  · exact sound_giveDecoders (sound_mapSample (sound_putItem h _ _ _) _ _)

theorem sound_streamEnd {s : State} (h : Sound s) (place : Nat) : Sound (s.streamEnd place) := by
  unfold State.streamEnd
  dsimp only
  split
  · exact h
  · exact sound_ite (sound_mapSample (sound_putItem h _ _ _) _ _) (sound_ite (sound_ite (sound_sampleReady
        (sound_mapSample (sound_putItem h _ _ _) _ _) _ _ _) (sound_mapSample (sound_putItem h _ _ _) _ _))
        (sound_sampleReady (sound_mapSample (sound_putItem h _ _ _) _ _) _ _ _))

theorem sound_takeStream {s : State} (h : Sound s) (vc : Nat) (bs : List Byte) : Sound (s.takeStream vc bs) := by
  unfold State.takeStream
  dsimp only
  refine sound_ite ?_ ?_
  · refine sound_rxDiscard ?_
    split
    · exact sound_ite (sound_streamEnd (sound_mapSample (sound_intake h _) _ _) _) (sound_mapSample (sound_intake h
          _) _ _)
    · exact sound_intake h _
  · split
    · exact sound_ite (sound_streamEnd (sound_mapSample (sound_intake h _) _ _) _) (sound_mapSample (sound_intake h
          _) _ _)
    · exact sound_intake h _

theorem sound_samplePacket {s : State} (h : Sound s) (vc : Nat) (bs : List Byte) : Sound (s.samplePacket vc bs) := by
  unfold State.samplePacket
  exact sound_ite (sound_takeStream h _ _) (sound_ite (sound_intake (sound_ite h (sound_intake h _)) _) (sound_ite
      (sound_takeStream (sound_takeHeader (sound_ite h (sound_intake h _)) _ _ _ _) _ _) (sound_takeHeader (sound_ite
      h (sound_intake h _)) _ _ _ _)))

theorem sound_sampleTmo {s : State} (h : Sound s) (vc : Nat) : Sound (s.sampleTmo vc) := by
  unfold State.sampleTmo
  dsimp only
  refine sound_ite ?_ ?_
  · exact sound_giveNumbers (sound_rxDiscard (sound_intake h _))
  · split
    · exact sound_streamEnd (sound_intake h _) _
    · exact sound_intake h _

theorem sound_deliverSample {s : State} (h : Sound s) (id : Nat) : Sound (s.deliverSample id) := by
  unfold State.deliverSample
  exact sound_wake (sound_setBob h _ _) _

theorem sound_sampleRun {s : State} (h : Sound s) (x : Sample) (id : Nat) : Sound (s.sampleRun x id) := by
  unfold State.sampleRun
  exact sound_ite (sound_sampleDone h _ _ _) (sound_deliverSample (sound_mapSample (sound_showBobs (sound_setBob h _
      _)) _ _) _)

theorem sound_dropSamples {s : State} (h : Sound s) (p : Nat) (st : Status) : Sound (s.dropSamples p st) := by
  unfold State.dropSamples
  exact sound_foldState (fun s a k => sound_sampleDone k _ _ _) h _

/-! ### JobCore -/

theorem sound_takeSchedule {s : State} (h : Sound s) (p : Nat) : Sound (s.takeSchedule p) := by
  unfold State.takeSchedule
  dsimp only
  split
  · exact h
  · exact sound_put (sound_put (sound_put (sound_put (sound_put (sound_setPart h _ _) _ _ _ _) _ _ _ _) _ _ _ _) _ _
        _ _) _ _ _ _

theorem sound_giveCmd {s : State} (h : Sound s) (n : Nat) (c : LoomCmd) : Sound (s.giveCmd n c) := by
  unfold State.giveCmd
  exact sound_mapLoom h _ _

theorem sound_giveSegment {s : State} (h : Sound s) (kind n : Nat) : Sound (s.giveSegment kind n) := by
  unfold State.giveSegment
  exact sound_mapLoom h _ _

theorem sound_withdraw {s : State} (h : Sound s) (p : Nat) (ns : List Nat) (which : LoomCmd → Bool) : Sound
    (s.withdraw p ns which) := by
  unfold State.withdraw
  exact sound_showReady (sound_foldState (fun s a k => sound_mapLoom k _ _) (sound_bumpBy (sound_setPart h _ _) _ _ _
      _) _) _

theorem sound_clearLoom {s : State} (h : Sound s) (n : Nat) : Sound (s.clearLoom n) := by
  unfold State.clearLoom
  exact sound_mapLoom h _ _

theorem sound_showPages {s : State} (h : Sound s) (p : Nat) : Sound (s.showPages p) := by
  unfold State.showPages
  exact sound_peak (sound_put h _ _ _ _) _ _ _ _

theorem sound_takePage {s : State} (h : Sound s) (p id i : Nat) : Sound (s.takePage p id i) := by
  unfold State.takePage
  exact sound_showPages (sound_setBob (sound_setPart h _ _) _ _) _

theorem sound_dropPages {s : State} (h : Sound s) (p id : Nat) : Sound (s.dropPages p id) := by
  unfold State.dropPages
  exact sound_showPages (sound_setPart h _ _) _

theorem sound_showStage {s : State} (h : Sound s) (p : Nat) : Sound (s.showStage p) := by
  unfold State.showStage
  exact sound_put h _ _ _ _

theorem sound_jobLost {s : State} (h : Sound s) (id : Nat) : Sound (s.jobLost id) := by
  unfold State.jobLost
  exact sound_ite h (sound_endCompute (sound_setBob h _ _) _)

theorem sound_clearJobRegs {s : State} (h : Sound s) (p : Nat) : Sound (s.clearJobRegs p) := by
  unfold State.clearJobRegs
  exact sound_putBit (sound_putBit (sound_put (sound_putBit (sound_put (sound_put (sound_put (sound_put (sound_put
      (sound_put (sound_setReg (sound_setReg (sound_setReg (sound_setReg (sound_setReg (sound_setReg h _ _ _ _) _ _ _
      _) _ _ _ _) _ _ _ _) _ _ _ _) _ _ _ _) _ _ _ _) _ _ _ _) _ _ _ _) _ _ _ _) _ _ _ _) _ _ _ _) _ _ _ _) _ _ _ _)
      _ _ _ _) _ _ _ _

theorem sound_showInUse {s : State} (h : Sound s) : Sound s.showInUse := by
  unfold State.showInUse
  refine sound_timesFrom (fun s i k => ?_) h _ _
  split
  · exact sound_putBit k _ _ _ _
  · exact k

theorem sound_jobIdle {s : State} (h : Sound s) (p : Nat) (last samples : Status) : Sound (s.jobIdle p last samples)
    := by
  unfold State.jobIdle
  exact sound_showInUse (sound_showReady (sound_showStage (sound_put (sound_clearJobRegs (sound_foldState (fun s a k
      => sound_showLoom k _) (sound_setPart (sound_endLearn (sound_calibJobEnd (sound_foldState (fun s a k =>
      sound_dropPages k _ _) (sound_dropSamples (sound_foldState (fun s a k => sound_jobLost k _) (sound_foldState
      (fun s a k => sound_ite (sound_setBob k _ _) k) h _) _) _ _) _) _) _) _ _) _) _) _ _ _ _) _) _)

theorem sound_finishAll {s : State} (h : Sound s) (op p : Nat) (st : Status) : Sound (s.finishAll op p st) := by
  unfold State.finishAll
  exact sound_timesFrom (fun s i k => sound_finishFor k _ _ _ _) h _ _

theorem sound_endWaiting {s : State} (h : Sound s) (p : Nat) (st : Status) : Sound (s.endWaiting p st) := by
  unfold State.endWaiting
  exact sound_foldState (fun s a k => sound_finishAll k _ _ _) h _

theorem sound_jobKill {s : State} (h : Sound s) (p : Nat) (last samples : Status) : Sound (s.jobKill p last samples)
    := by
  unfold State.jobKill
  exact sound_endWaiting (sound_jobIdle (sound_foldState (fun s a k => sound_clearLoom k _) (sound_withdraw h _ _ _)
      _) _ _ _) _ _

theorem sound_stopIfIdle {s : State} (h : Sound s) (p : Nat) : Sound (s.stopIfIdle p) := by
  unfold State.stopIfIdle
  exact sound_ite (sound_finishAll (sound_finishFor (sound_jobIdle h _ _ _) _ _ _ _) _ _ _) h

/-! ### Fence -/

theorem sound_reReady {s : State} (h : Sound s) (p : Nat) (which : Task → Bool) : Sound (s.reReady p which) := by
  unfold State.reReady
  exact sound_showReady (sound_setPart h _ _) _

theorem sound_dropStep {s : State} (h : Sound s) (p : Nat) : Sound (s.dropStep p) := by
  unfold State.dropStep
  exact sound_setPart h _ _

theorem sound_stopSegments {s : State} (h : Sound s) (p : Nat) : Sound (s.stopSegments p) := by
  unfold State.stopSegments
  exact sound_foldState (fun s a k => sound_mapLoom k _ _) h _

theorem sound_showActive {s : State} (h : Sound s) (p : Nat) : Sound (s.showActive p) := by
  unfold State.showActive
  exact sound_ite (sound_put h _ _ _ _) (sound_put h _ _ _ _)

theorem sound_restart {s : State} (h : Sound s) (p : Nat) : Sound (s.restart p) := by
  unfold State.restart
  exact sound_ite (sound_foldState (fun s a k => sound_giveSegment k _ _) (sound_ite (sound_foldState (fun s a k =>
      sound_giveSegment k _ _) (sound_takeSchedule (sound_dropStep (sound_stopSegments h _) _) _) _)
      (sound_takeSchedule (sound_dropStep (sound_stopSegments h _) _) _)) _) (sound_ite (sound_foldState (fun s a k
      => sound_giveSegment k _ _) (sound_takeSchedule (sound_dropStep (sound_stopSegments h _) _) _) _)
      (sound_takeSchedule (sound_dropStep (sound_stopSegments h _) _) _))

theorem sound_fenceJob {s : State} (h : Sound s) (p : Nat) (segment : Bool) : Sound (s.fenceJob p segment) := by
  unfold State.fenceJob
  exact sound_ite h (sound_ite (sound_bump (sound_jobKill h _ _ _) _ _ _) (sound_ite (sound_ite (sound_restart
      (sound_bump h _ _ _) _) (sound_setPart h _ _)) (sound_ite (sound_dropStep (sound_stopSegments (sound_bump
      (sound_setPart h _ _) _ _ _) _) _) h)))

theorem sound_fenceMark {s : State} (h : Sound s) (n : Nat) : Sound (s.fenceMark n) := by
  unfold State.fenceMark
  exact sound_ite h (sound_ite (sound_stored (sound_setReg h _ _ _ _) _) (sound_stored (sound_setReg h _ _ _ _) _))

theorem sound_fenceRecord {s : State} (h : Sound s) (n cause : Nat) : Sound (s.fenceRecord n cause) := by
  unfold State.fenceRecord
  exact sound_event (sound_raise (sound_bump (sound_put (sound_put (sound_put (sound_put (sound_put h _ _ _ _) _ _ _
      _) _ _ _ _) _ _ _ _) _ _ _ _) _ _ _) _) _ _

theorem sound_countReexec {s : State} (h : Sound s) (p : Nat) (ls : List Loom) : Sound (s.countReexec p ls) := by
  unfold State.countReexec
  exact sound_bumpBy h _ _ _ _

theorem sound_fenceAct {s : State} (h : Sound s) (e : Nat × Nat) : Sound (s.fenceAct e) := by
  unfold State.fenceAct
  dsimp only
  split
  · exact sound_stopIfIdle (sound_fenceJob (sound_showActive (sound_reReady (sound_ite (sound_clearLoom
        (sound_fenceRecord h _ _) _) (sound_countReexec (sound_clearLoom (sound_fenceRecord h _ _) _) _ _)) _ _) _) _
        _) _
  · exact sound_clearLoom (sound_fenceRecord h _ _) _

theorem sound_fenceAll {s : State} (h : Sound s) (es : List (Nat × Nat)) : Sound (s.fenceAll es) := by
  unfold State.fenceAll
  exact sound_foldState (fun s a k => sound_fenceAct k _) (sound_foldState (fun s a k => sound_fenceMark k _) h _) _

theorem sound_fenceWithdraw {s : State} (h : Sound s) (n : Nat) : Sound (s.fenceWithdraw n) := by
  unfold State.fenceWithdraw
  dsimp only
  split
  · exact sound_mapLoom (sound_reReady h _ _) _ _
  · exact h

theorem sound_settleOnce {s : State} (h : Sound s) : Sound s.settleOnce := by
  unfold State.settleOnce
  exact sound_fenceAll (sound_fenceDue (sound_foldState (fun s a k => sound_fenceWithdraw k _) h _) _) _

theorem sound_settle {s : State} (h : Sound s) : Sound s.settle := by
  unfold State.settle
  exact sound_timesFrom (fun s i k => sound_ite (sound_settleOnce k) k) (sound_settleOnce h) _ _

theorem soundNext_onCore {s : State} (h : Sound s) (f : State → State) (hf : ∀ (a : State), Sound a → Sound (f a)) :
    SoundNext (onCore s f) := by
  unfold onCore
  exact soundNext_onDevice h (sound_settle (hf _ h))

theorem soundNext_execFenceWindowExpire {s : State} (h : Sound s) : SoundNext (execFenceWindowExpire s) := by
  unfold execFenceWindowExpire
  exact soundNext_onDevice h (sound_timesFrom (fun s _ k => sound_put k _ _ _ _) h _ _)

theorem soundNext_execPaceWindow {s : State} (h : Sound s) (rates : List Nat) : SoundNext (execPaceWindow rates s) :=
    by
  unfold execPaceWindow
  dsimp only
  refine soundNext_onDevice h ?_
  refine sound_timesFrom (fun s i k => ?_) h _ _
  split
  · exact sound_put (sound_putBit (sound_put k _ _ _ _) _ _ _ _) _ _ _ _
  · exact k

/-! ### LoomArray -/

theorem sound_readRows {s : State} (h : Sound s) (stride len n a : Nat) : Sound (s.readRows stride len n a).1 := by
  induction n generalizing s a with
  | zero => exact h
  | succ n ih => exact ih (sound_readData h a len) (a + stride)

theorem sound_writeGaps {s : State} (h : Sound s) (n a : Nat) (d : List (Option (Option Byte))) :
    Sound (s.writeGaps n a d) := by
  induction n generalizing s a d with
  | zero => exact h
  | succ n ih =>
    cases d with
    | nil => exact h
    | cons x t => exact ih (sound_ite (sound_writeData h _ _) h) _ _

theorem sound_writeElems {s : State} (h : Sound s) (a pitch : Nat) (es : List Data) : Sound (s.writeElems a pitch es)
    := by
  unfold State.writeElems
  exact sound_ite (sound_writeData h _ _) (sound_ite (sound_writeGaps h _ _ _) (sound_foldState (fun s a k =>
      sound_writeData k _ _) h _))

theorem sound_poisonRows {s : State} (h : Sound s) (n off stride bytes m : Nat) : Sound (s.poisonRows n off stride
    bytes m) := by
  unfold State.poisonRows
  exact sound_timesFrom (fun s i k => sound_ite (sound_poisonRange k _ _) k) h _ _

theorem sound_showArray {s : State} (h : Sound s) (n : Nat) : Sound (s.showArray n) := by
  unfold State.showArray
  exact sound_put (sound_put h _ _ _ _) _ _ _ _

theorem sound_mapGroup {s : State} (h : Sound s) (n g : Nat) (f : Group → Group) : Sound (s.mapGroup n g f) := by
  unfold State.mapGroup
  exact sound_showArray (sound_setLoom h _ _) _

theorem sound_reshape {s : State} (h : Sound s) (n split : Nat) : Sound (s.reshape n split) := by
  unfold State.reshape
  exact sound_ite h (sound_showArray (sound_setLoom h _ _) _)

theorem sound_noteFault {s : State} (h : Sound s) (n g k : Nat) (err : Fld) (met : Bool) : Sound (s.noteFault n g k
    err met) := by
  unfold State.noteFault
  exact sound_ite (sound_bump (sound_putBit h _ _ _ _) _ _ _) h

theorem sound_arrayStatus {s : State} (h : Sound s) (n g tag : Nat) (st : Status) (f : Faults) : Sound (s.arrayStatus
    n g tag st f) := by
  unfold State.arrayStatus
  exact sound_ite (sound_fenceDue (sound_noteFault (sound_noteFault (sound_noteFault (sound_noteFault (sound_putBit
      (sound_putBit (sound_putBit (sound_putBit (sound_put (sound_put h _ _ _ _) _ _ _ _) _ _ _ _) _ _ _ _) _ _ _ _)
      _ _ _ _) _ _ _ _ _) _ _ _ _ _) _ _ _ _ _) _ _ _ _ _) _) (sound_noteFault (sound_noteFault (sound_noteFault
      (sound_noteFault (sound_putBit (sound_putBit (sound_putBit (sound_putBit (sound_put (sound_put h _ _ _ _) _ _ _
      _) _ _ _ _) _ _ _ _) _ _ _ _) _ _ _ _) _ _ _ _ _) _ _ _ _ _) _ _ _ _ _) _ _ _ _ _)

theorem sound_countPasses {s : State} (h : Sound s) (n passes products : Nat) : Sound (s.countPasses n passes
    products) := by
  unfold State.countPasses
  exact sound_put (sound_put (sound_bumpWrap (sound_setLoom h _ _) _ _ _ _) _ _ _ _) _ _ _ _

theorem sound_countConv {s : State} (h : Sound s) (n nans : Nat) (invalid : Bool) : Sound (s.countConv n nans
    invalid) := by
  unfold State.countConv
  dsimp only
  split
  · exact sound_bump (sound_bumpBy h _ _ _ _) _ _ _
  · exact sound_bumpBy h _ _ _ _

theorem sound_gather {s : State} (h : Sound s) (n : Nat) (q : QIns) (first : Nat) (rows : List (List (Option Word)))
    : Sound (s.gather n q first rows) := by
  unfold State.gather
  dsimp only
  split
  · exact sound_ite h (sound_setPart h _ _)
  · exact h

theorem sound_runWload {s : State} (h : Sound s) (n : Nat) (q : QIns) (d : Data) : Sound (s.runWload n q d).1 := by
  unfold State.runWload
  dsimp only
  refine sound_ite_fst ?_ ?_
  · dsimp only
    exact sound_arrayStatus (sound_mapGroup (sound_reshape h _ _) _ _ _) _ _ _ _ _
  · dsimp only
    exact sound_arrayStatus h _ _ _ _ _

theorem sound_convert {s : State} (h : Sound s) (n : Nat) (q : QIns) (rows : List (List (Option Word))) (place :
    State → List Data → State) (hplace : ∀ (a : State) (a_1 : List Data), Sound a → Sound (place a a_1)) : Sound
    (s.convert n q rows place) := by
  unfold State.convert
  exact sound_gather (sound_countConv (hplace _ _ h) _ _ _) _ _ _ _

theorem sound_writeRows {s : State} (h : Sound s) (n base stride : Nat) (ds : List Data) : Sound (State.writeRows n
    base stride s ds) := by
  unfold State.writeRows
  exact sound_foldState (fun s a k => sound_writeData k _ _) h _

theorem sound_swapIn {s : State} (h : Sound s) (n g first width : Nat) (t : Tile) : Sound (s.swapIn n g first width
    t) := by
  unfold State.swapIn
  dsimp only
  split
  · exact sound_setLoom (sound_mapGroup h _ _ _) _ _
  · exact sound_mapGroup h _ _ _

theorem sound_mmPass {s : State} (h : Sound s) (n : Nat) (x : MmIns) (q : QIns) (t : Tile) : Sound (s.mmPass n x q
    t).1 := by
  unfold State.mmPass
  exact sound_arrayStatus (sound_countPasses (sound_ite (sound_convert (sound_putBit (sound_setLoom (sound_readRows
      (sound_ite h (sound_swapIn h _ _ _ _ _)) _ _ _ _) _ _) _ _ _ _) _ _ _ _ (fun a _ k => sound_writeRows k _ _ _
      _)) (sound_putBit (sound_setLoom (sound_readRows (sound_ite h (sound_swapIn h _ _ _ _ _)) _ _ _ _) _ _) _ _ _
      _)) _ _ _) _ _ _ _ _

theorem sound_runMm {s : State} (h : Sound s) (n : Nat) (q : QIns) : Sound (s.runMm n q).1 := by
  unfold State.runMm
  extract_lets x t fail grp
  have ht : Sound t := sound_ite (sound_poisonRows h _ _ _ _ _) h
  have hfail : ∀ st, Sound (fail st).1 := fun st =>
    show Sound (t.arrayStatus n x.group x.tag st {}) from sound_arrayStatus ht _ _ _ _ _
  refine sound_ite_fst (hfail _) ?_
  cases if x.keep then grp.front else grp.back with
  | none => exact hfail _
  | some t => exact sound_ite_fst (hfail _) (sound_ite_fst (hfail _) (sound_mmPass h _ _ _ _))

theorem sound_addPartials {s : State} (h : Sound s) (float : Bool) (len : Nat) (as : List Nat) (sum : List (Option
    Int)) :
    Sound (s.addPartials float len as sum).1 := by
  induction as generalizing s sum with
  | nil => exact h
  | cons a t ih => exact ih (sound_readData h a len) _

theorem sound_vprogRow {s : State} (h : Sound s) (n : Nat) (x : MmIns) (aux : Aux) (len m : Nat) : Sound (s.vprogRow
    n x aux len m).1 := by
  unfold State.vprogRow
  dsimp only
  split
  · exact sound_addPartials h _ _ _ _
  · exact sound_readData h _ _

theorem sound_vprogRows {s : State} (h : Sound s) (n : Nat) (x : MmIns) (aux : Aux) (len m : Nat) :
    Sound (s.vprogRows n x aux len m).1 := by
  induction m with
  | zero => exact h
  | succ m ih => exact sound_vprogRow ih n x aux len m

theorem sound_noteReduce {s : State} (h : Sound s) (n : Nat) (x : MmIns) (q : QIns) : Sound (s.noteReduce n x q) := by
  unfold State.noteReduce
  exact sound_ite (sound_tdc (sound_setLoom h _ _) _) h

theorem sound_runVprog {s : State} (h : Sound s) (n : Nat) (q : QIns) : Sound (s.runVprog n q).1 := by
  unfold State.runVprog
  dsimp only
  refine sound_ite_fst ?_ ?_
  · dsimp only
    exact sound_poisonRows h _ _ _ _ _
  · dsimp only
    exact sound_convert (sound_vprogRows (sound_noteReduce h _ _ _) _ _ _ _ _) _ _ _ _ (fun a _ k => sound_writeRows
        k _ _ _ _)

theorem sound_touchTaps {s : State} (h : Sound s) (n : Nat) (x : ConvIns) : Sound (s.touchTaps n x) := by
  unfold State.touchTaps
  exact sound_foldState (fun s a k => sound_readData k _ _) h _

theorem sound_writeTile {s : State} (h : Sound s) (n : Nat) (x : ConvIns) (lines : List (List Data)) : Sound
    (s.writeTile n x lines) := by
  unfold State.writeTile
  exact sound_foldState (fun s a k => sound_writeElems k _ _ _) h _

theorem sound_poisonTile {s : State} (h : Sound s) (n : Nat) (x : ConvIns) (aux : Aux) : Sound (s.poisonTile n x aux)
    := by
  unfold State.poisonTile
  exact sound_timesFrom (fun s i k => sound_poisonRows k _ _ _ _ _) h _ _

theorem sound_convStatus {s : State} (h : Sound s) (n tag : Nat) (st : Status) : Sound (s.convStatus n tag st) := by
  unfold State.convStatus
  exact sound_put (sound_put h _ _ _ _) _ _ _ _

theorem sound_keepLines {s : State} (h : Sound s) (n : Nat) (x : ConvIns) : Sound (s.keepLines n x) := by
  unfold State.keepLines
  exact sound_foldState (fun s a k => sound_writeData k _ _) h _

theorem sound_convPass {s : State} (h : Sound s) (n : Nat) (x : ConvIns) (q : QIns) (w : Data) : Sound (s.convPass n
    x q w).1 := by
  unfold State.convPass
  exact sound_convStatus (sound_arrayStatus (sound_countPasses (sound_mapGroup (sound_convert (sound_keepLines
      (sound_setLoom (sound_touchTaps (sound_reshape h _ _) _ _) _ _) _ _) _ _ _ _ (fun a _ k => sound_writeTile k _
      _ _)) _ _ _) _ _ _) _ _ _ _ _) _ _ _

theorem sound_runConv {s : State} (h : Sound s) (n : Nat) (q : QIns) (w : Data) : Sound (s.runConv n q w).1 := by
  unfold State.runConv
  dsimp only
  refine sound_ite_fst ?_ ?_
  · dsimp only
    exact sound_convStatus (sound_poisonTile h _ _ _) _ _ _
  · refine sound_ite_fst ?_ ?_
    · dsimp only
      exact sound_convStatus (sound_poisonTile h _ _ _) _ _ _
    · exact sound_convPass h _ _ _ _

/-! ### Attention -/

theorem sound_rowToken {s : State} (h : Sound s) (p id : Nat) : Sound (s.rowToken p id).1 := by
  unfold State.rowToken
  dsimp only
  split
  · exact h
  · refine sound_foldl_fst (fun x a k' => ?_) ?_ _
    · exact sound_readData k' _ _
    · exact h

theorem sound_noteConv {s : State} (h : Sound s) (p row : Nat) (h' : HeadRow) (int8 : Bool) (which : Nat) : Sound
    (s.noteConv p row h' int8 which) := by
  unfold State.noteConv
  exact sound_ite (sound_setPart (sound_countConv h _ _ _) _ _) (sound_countConv h _ _ _)

theorem sound_entryCodes {s : State} (h : Sound s) (p : Nat) (b : Bobbin) (blk j : Nat) : Sound (s.entryCodes p b blk
    j).1 := by
  unfold State.entryCodes
  exact sound_readData h _ _

theorem sound_attnBlock {s : State} (h : Sound s) (o : Arrivals) (p row : Nat) (b : Bobbin) (blk : Nat) (lives :
    Bool) (act : Option (List Word)) : Sound (s.attnBlock o p row b blk lives act).1 := by
  unfold State.attnBlock
  dsimp only
  refine sound_setPart ?_ _ _
  refine sound_foldl_fst (fun x a k => ?_) ?_ _
  · exact sound_entryCodes k _ _ _ _
  · refine sound_ite ?_ ?_
    · refine sound_writeData ?_ _ _
      exact sound_foldState (fun s a k => sound_timesFrom (fun s _ k' => sound_noteConv k' _ _ _ _ _) k _ _) h _
    · exact sound_foldState (fun s a k => sound_timesFrom (fun s _ k' => sound_noteConv k' _ _ _ _ _) k _ _) h _

theorem sound_rowBlocks {s : State} (h : Sound s) (o : Arrivals) (p row : Nat) (b : Bobbin) (lives : Bool) (n blk :
    Nat)
    (act : Option (List Word)) : Sound (s.rowBlocks o p row b lives n blk act).1 := by
  induction n generalizing s blk act with
  | zero => exact h
  | succ n ih => exact ih (sound_attnBlock h _ _ _ _ _ _ _) _ _

/-! ### LoomFetch -/

theorem sound_fetchPortLine {s : State} (h : Sound s) (n id p : Nat) (pos : Int) (beyond : Bool) (lost : List Nat) :
    Sound (s.fetchPortLine n id p pos beyond lost).1 := by
  unfold State.fetchPortLine
  dsimp only
  refine sound_ite_fst ?_ ?_
  · dsimp only
    exact sound_bumpWrap h _ _ _ _
  · split
    · exact sound_readData (sound_bumpWrap h _ _ _ _) _ _
    · exact sound_bump (sound_bumpWrap h _ _ _ _) _ _ _

theorem sound_fetchStitched {s : State} (h : Sound s) (n id : Nat) (pos : Int) (beyond : Bool) (lost : Nat → List Nat)
    (lo nx : Nat) (l : List (Nat × Nat × Nat)) : Sound (s.fetchStitched n id pos beyond lost lo nx l).1 := by
  induction l generalizing s with
  | nil => exact h
  | cons e t ih => exact sound_ite_fst (ih (sound_fetchPortLine h _ _ _ _ _ _)) (ih h)

theorem sound_fetchLine {s : State} (h : Sound s) (n : Nat) (x : FetchIns) (b : Bobbin) (lost : List (Nat × Nat ×
    Nat)) (w y : Nat) : Sound (s.fetchLine n x b lost w y).1 := by
  unfold State.fetchLine
  dsimp only
  split
  · exact sound_bumpWrap (sound_ite (sound_bump h _ _ _) h) _ _ _ _
  · exact sound_fetchStitched (sound_ite (sound_bump h _ _ _) h) _ _ _ _ _ _ _ _

theorem sound_fetchLines {s : State} (h : Sound s) (n : Nat) (x : FetchIns) (b : Bobbin) (lost : List (Nat × Nat ×
    Nat))
    (w m y : Nat) : Sound (s.fetchLines n x b lost w m y).1 := by
  induction m generalizing s y with
  | zero => exact h
  | succ m ih => exact ih (sound_fetchLine h _ _ _ _ _ _) (y + 1)

theorem sound_fetchStatus {s : State} (h : Sound s) (n tag : Nat) (st : Status) : Sound (s.fetchStatus n tag st) := by
  unfold State.fetchStatus
  exact sound_put (sound_put h _ _ _ _) _ _ _ _

theorem sound_runLfetch {s : State} (h : Sound s) (n : Nat) (q : QIns) (task : Option LoomCmd) : Sound (s.runLfetch n
    q task).1 := by
  unfold State.runLfetch
  dsimp only
  refine sound_ite_fst ?_ ?_
  · dsimp only
    exact sound_fetchStatus (sound_timesFrom (fun s i k => sound_writeElems k _ _ _) (sound_fetchLines h _ _ _ _ _ _
        _) _ _) _ _ _
  · dsimp only
    exact sound_fetchStatus h _ _ _

/-! ### Batch -/

theorem sound_noteStageWait {s : State} (h : Sound s) (p : Nat) (k : Task) : Sound (s.noteStageWait p k) := by
  unfold State.noteStageWait
  exact sound_ite h (sound_bump (sound_setPart h _ _) _ _ _)

theorem sound_issueTask {s : State} (h : Sound s) (p n : Nat) (k : Task) (slot : Nat) : Sound (s.issueTask p n k
    slot) := by
  unfold State.issueTask
  exact sound_showReady (sound_showStage (sound_giveCmd (sound_setPart h _ _) _ _) _) _

theorem sound_issueFirst {s : State} (h : Sound s) (p n : Nat) (l : List Task) : Sound (s.issueFirst p n l) := by
  induction l generalizing s with
  | nil => exact h
  | cons k t ih =>
    unfold State.issueFirst
    split
    · exact sound_issueTask h _ _ _ _
    · exact ih (sound_noteStageWait h _ _)

theorem soundNext_execStripeTaskIssue {s : State} (h : Sound s) (part : Fin 8) (loom : Fin 64) : SoundNext
    (execStripeTaskIssue part loom s) := by
  unfold execStripeTaskIssue
  exact soundNext_onDevice h (sound_ite (sound_issueFirst h _ _ _) h)

theorem sound_noteReady {s : State} (h : Sound s) (id : Nat) : Sound (s.noteReady id) := by
  unfold State.noteReady
  exact sound_ite (sound_ite (sound_setBob h _ _) h) (sound_ite (sound_bump (sound_setBob h _ _) _ _ _) h)

theorem sound_judgeReady {s : State} (h : Sound s) (p : Nat) : Sound (s.judgeReady p) := by
  unfold State.judgeReady
  exact sound_put (sound_foldState (fun s a k => sound_ite (sound_noteReady k _) k) h _) _ _ _ _

theorem sound_takeRows {s : State} (h : Sound s) (p : Nat) (ids rows : List Nat) : Sound (s.takeRows p ids rows).1 :=
    by
  induction ids generalizing s rows with
  | nil => exact h
  | cons id t ih =>
    unfold State.takeRows
    refine sound_ite_fst h (sound_ite_fst ?_ (ih (sound_setBob h _ _) _))
    split
    · exact ih (sound_setBob (sound_takePage h _ _ _) _ _) _
    · exact ih h _

theorem sound_useModel {s : State} (h : Sound s) (id : Nat) : Sound (s.useModel id) := by
  unfold State.useModel
  exact sound_sched h _

theorem sound_rowTokens {s : State} (h : Sound s) (p : Nat) (ids : List Nat) : Sound (s.rowTokens p ids).1 := by
  induction ids generalizing s with
  | nil => exact h
  | cons id t ih => exact ih (sound_rowToken h p id)

theorem sound_freshSchedule {s : State} (h : Sound s) (p : Nat) : Sound (s.freshSchedule p) := by
  unfold State.freshSchedule
  exact sound_ite (sound_takeSchedule h _) h

theorem sound_boundary {s : State} (h : Sound s) (p : Nat) : Sound (s.boundary p) := by
  unfold State.boundary
  exact sound_freshSchedule (sound_calibBoundary h _) _

theorem sound_noteDefer {s : State} (h : Sound s) (p : Nat) : Sound (s.noteDefer p) := by
  unfold State.noteDefer
  exact sound_ite (sound_bump (sound_mapLearn h _ _) _ _ _) h

theorem sound_noteDefers {s : State} (h : Sound s) : Sound s.noteDefers := by
  unfold State.noteDefers
  exact sound_timesFrom (fun s _ k => sound_noteDefer k _) h _ _

theorem sound_startStep {s : State} (h : Sound s) (p : Nat) (why : Why) : Sound (s.startStep p why) := by
  unfold State.startStep
  dsimp only
  refine sound_ite ?_ ?_
  · exact sound_takeRows (sound_boundary h _) _ _ _
  · refine sound_judgeReady ?_ _
    refine sound_foldState (fun s a k => sound_giveSegment k _ _) ?_ _
    refine sound_useModel ?_ _
    refine sound_ite ?_ ?_
    · refine sound_bump ?_ _ _ _
      split
      · exact sound_bump (sound_putBit (sound_put (sound_setPart (sound_rowTokens (sound_takeRows (sound_boundary h
            _) _ _ _) _ _) _ _) _ _ _ _) _ _ _ _) _ _ _
      · exact sound_bump (sound_putBit (sound_put (sound_setPart (sound_rowTokens (sound_takeRows (sound_boundary h
            _) _ _ _) _ _) _ _) _ _ _ _) _ _ _ _) _ _ _
      · exact sound_bump (sound_putBit (sound_put (sound_setPart (sound_rowTokens (sound_takeRows (sound_boundary h
            _) _ _ _) _ _) _ _) _ _ _ _) _ _ _ _) _ _ _
    · split
      · exact sound_bump (sound_putBit (sound_put (sound_setPart (sound_rowTokens (sound_takeRows (sound_boundary h
            _) _ _ _) _ _) _ _) _ _ _ _) _ _ _ _) _ _ _
      · exact sound_bump (sound_putBit (sound_put (sound_setPart (sound_rowTokens (sound_takeRows (sound_boundary h
            _) _ _ _) _ _) _ _) _ _ _ _) _ _ _ _) _ _ _
      · exact sound_bump (sound_putBit (sound_put (sound_setPart (sound_rowTokens (sound_takeRows (sound_boundary h
            _) _ _ _) _ _) _ _) _ _ _ _) _ _ _ _) _ _ _

theorem sound_startIf {s : State} (h : Sound s) (p : Nat) (why : State → Option Why) : Sound (s.startIf p why) := by
  unfold State.startIf
  dsimp only
  refine sound_ite ?_ ?_
  · split
    · exact sound_startStep (sound_noteDefer (sound_judgeReady h _) _) _ _
    · exact sound_judgeReady h _
  · exact sound_judgeReady h _

theorem soundNext_execBatchStepStart {s : State} (h : Sound s) (part : Fin 8) : SoundNext (execBatchStepStart part s)
    := by
  unfold execBatchStepStart
  exact soundNext_onDevice h (sound_startIf h _ _)

theorem soundNext_execLatestStartReached {s : State} (h : Sound s) (part : Fin 8) : SoundNext (execLatestStartReached
    part s) := by
  unfold execLatestStartReached
  exact soundNext_onDevice h (sound_startIf h _ _)

theorem soundNext_execFillWaitExpire {s : State} (h : Sound s) (part : Fin 8) : SoundNext (execFillWaitExpire part s)
    := by
  unfold execFillWaitExpire
  exact soundNext_onDevice h (sound_startIf h _ _)

theorem soundNext_execSampleBatchWaitExpire {s : State} (h : Sound s) (part : Fin 8) : SoundNext
    (execSampleBatchWaitExpire part s) := by
  unfold execSampleBatchWaitExpire
  exact soundNext_onDevice h (sound_startIf h _ _)

theorem sound_releaseTask {s : State} (h : Sound s) (id token stripe : Nat) : Sound (s.releaseTask id token stripe)
    := by
  unfold State.releaseTask
  exact sound_foldState (fun s a k => sound_mapLines k _ _) h _

theorem sound_taskStats {s : State} (h : Sound s) (p id token stripe : Nat) (calib : Bool) : Sound (s.taskStats p id
    token stripe calib) := by
  unfold State.taskStats
  exact sound_foldState (fun s a k => sound_ite (sound_calibOf (sound_judgeUnit (sound_statsOf k _ _ _ _) _ _ _ _ _)
      _ _) (sound_judgeUnit (sound_statsOf k _ _ _ _) _ _ _ _ _)) (sound_setPart h _ _) _

theorem sound_retireTask {s : State} (h : Sound s) (p store : Nat) (k : Task) : Sound (s.retireTask p store k) := by
  unfold State.retireTask
  dsimp only
  refine sound_stopIfIdle ?_ _
  refine sound_judgeReady ?_ _
  refine sound_setBob ?_ _ _
  refine sound_releaseTask ?_ _ _ _
  refine sound_taskStats ?_ _ _ _ _ _
  split
  · exact sound_writeData (sound_setPart h _ _) _ _
  · exact sound_setPart h _ _

theorem soundNext_execStripeTaskRetire {s : State} (h : Sound s) (loom : Fin 64) (bobbin : Fin 4096) (token stripe
    store : Nat) : SoundNext (execStripeTaskRetire loom bobbin token stripe store s) := by
  unfold execStripeTaskRetire
  dsimp only
  refine soundNext_onCore h _ (fun a k => ?_)
  split
  · exact sound_ite (sound_retireTask k _ _ _) k
  · exact k

theorem sound_amend {s : State} (h : Sound s) (id action : Nat) : Sound (s.amend id action) := by
  unfold State.amend
  dsimp only
  split
  · exact sound_ite (sound_mirror (sound_field (sound_setBob h _ _) _) _ _) h
  · exact h

theorem sound_applyVerdict {s : State} (h : Sound s) (id : Nat) (v : Verdict) : Sound (s.applyVerdict id v) := by
  unfold State.applyVerdict
  exact sound_ite (sound_amend (sound_setBob h _ _) _ _) (sound_endCompute (sound_setBob h _ _) _)

theorem sound_mismatch {s : State} (h : Sound s) (id : Nat) (mine peer : Verdict) : Sound (s.mismatch id mine peer)
    := by
  unfold State.mismatch
  exact sound_ite (sound_applyVerdict (sound_event (sound_raise (sound_bump (sound_setBob h _ _) _ _ _) _) _ _) _ _)
      (sound_ite (sound_applyVerdict (sound_event (sound_raise (sound_bump (sound_setBob h _ _) _ _ _) _) _ _) _ _)
      (sound_applyVerdict (sound_event (sound_raise (sound_bump (sound_setBob h _ _) _ _ _) _) _ _) _ _))

theorem sound_crossCheck {s : State} (h : Sound s) (id : Nat) (mine peer : Verdict) : Sound (s.crossCheck id mine
    peer) := by
  unfold State.crossCheck
  exact sound_ite (sound_applyVerdict (sound_twin h _) _ _) (sound_mismatch (sound_twin h _) _ _ _)

theorem sound_verdictReady {s : State} (h : Sound s) (id : Nat) (h' : Head) (early : Bool) : Sound (s.verdictReady id
    h' early) := by
  unfold State.verdictReady
  dsimp only
  refine sound_ite ?_ ?_
  · exact sound_linkSend (sound_twin (sound_setBob (sound_ite (sound_bump (sound_setBob h _ _) _ _ _) (sound_setBob h
        _ _)) _ _) _) _ _ _ _
  · refine sound_ite ?_ ?_
    · split
      · exact sound_crossCheck (sound_ite (sound_bump (sound_setBob h _ _) _ _ _) (sound_setBob h _ _)) _ _ _
      · exact sound_ite (sound_applyVerdict (sound_ite (sound_bump (sound_setBob h _ _) _ _ _) (sound_setBob h _ _))
            _ _) (sound_twin (sound_ite (sound_bump (sound_setBob h _ _) _ _ _) (sound_setBob h _ _)) _)
    · exact sound_applyVerdict (sound_ite (sound_bump (sound_setBob h _ _) _ _ _) (sound_setBob h _ _)) _ _

theorem sound_headPoisoned {s : State} (h : Sound s) (id : Nat) : Sound (s.headPoisoned id) := by
  unfold State.headPoisoned
  exact sound_endCompute (sound_setBob h _ _) _

theorem sound_partHead {s : State} (h : Sound s) (id : Nat) (h' : Head) (last : Bool) : Sound (s.partHead id h' last)
    := by
  unfold State.partHead
  exact sound_ite (sound_headPoisoned h _) (sound_ite (sound_verdictReady (sound_setBob h _ _) _ _ _) (sound_ite
      (sound_verdictReady (sound_setBob h _ _) _ _ _) (sound_setBob h _ _)))

theorem sound_sampleHead {s : State} (h : Sound s) (x : Sample) (h' : Head) (k : Parked) : Sound (s.sampleHead x h'
    k) := by
  unfold State.sampleHead
  exact sound_ite (sound_sampleDone h _ _ _) (sound_ite (sound_sampleDone h _ _ _) (sound_ite (sound_parkLearn
      (sound_sampleDone h _ _ _) _ _) (sound_sampleDone h _ _ _)))

theorem sound_meetUnits {s : State} (h : Sound s) (p : Nat) : Sound (s.meetUnits p) := by
  have hmet : ∀ (l : List Nat) (t : Tbl Unit), tsorted t = true → tsorted (l.foldl (fun m u => tset m u ()) t) = true
      := by
    intro l
    induction l with
    | nil => exact fun _ ht => ht
    | cons u l ih => exact fun t ht => ih _ (tsorted_tset u () ht)
  exact sound_mem h (Memory.wf_met h.mem (hmet _ _ (Memory.tsorted_met h.mem)))

theorem sound_runRow {s : State} (h : Sound s) (o : Arrivals) (p row id : Nat) (b : Bobbin) (bad : Bool) : Sound
    (s.runRow o p row id b bad).1 := by
  unfold State.runRow
  exact sound_rowBlocks h _ _ _ _ _ _ _ _

theorem sound_runRows {s : State} (h : Sound s) (o : Arrivals) (p : Nat) (bad : Bool) (l : List (Nat × Nat × Bobbin))
    :
    Sound (s.runRows o p bad l).1 := by
  induction l generalizing s with
  | nil => exact h
  | cons e t ih => exact ih (sound_runRow h _ _ _ _ _ _)

theorem sound_stepStats {s : State} (h : Sound s) (p : Nat) (rows : List (Nat × Nat × Bobbin)) (ds : List Drained) :
    Sound (s.stepStats p rows ds) := by
  unfold State.stepStats
  exact sound_foldState (fun s a k => sound_judgeUnit k _ _ _ _ _) (sound_calibOf (sound_statsOf h _ _ _ _) _ _) _

theorem sound_stepGather {s : State} (h : Sound s) (p : Nat) (rows : List (Nat × Nat × Bobbin)) : Sound (s.stepGather
    p rows) := by
  unfold State.stepGather
  exact sound_foldState (fun s a k => sound_stepStats k _ _ _) (sound_setPart h _ _) _

theorem sound_rowDone {s : State} (h : Sound s) (o : Arrivals) (p early : Nat) (row : Option (List Word)) (id : Nat)
    : Sound (s.rowDone o p early row id) := by
  unfold State.rowDone
  dsimp only
  refine sound_ite ?_ ?_
  · exact sound_dropPages h _ _
  · split
    · exact sound_ite (sound_sampleHead (sound_freeStage (sound_setBob h _ _) _ _) _ _ _) (sound_freeStage
          (sound_setBob h _ _) _ _)
    · exact sound_ite (sound_partHead (sound_freeStage (sound_setBob h _ _) _ _) _ _ _) (sound_setBob
          (sound_freeStage (sound_setBob h _ _) _ _) _ _)

theorem sound_stepEnd {s : State} (h : Sound s) (p : Nat) : Sound (s.stepEnd p) := by
  unfold State.stepEnd
  exact sound_stopIfIdle (sound_noteDefer (sound_setPart (sound_judgeReady (sound_boundary (sound_putBit
      (sound_setPart h _ _) _ _ _ _) _) _) _ _) _) _

theorem soundNext_execBatchStepDone {s : State} (h : Sound s) (part : Fin 8) (projections blocks heads gradients :
    Nat) : SoundNext (execBatchStepDone part projections blocks heads gradients s) := by
  unfold execBatchStepDone
  dsimp only
  refine soundNext_onCore h _ (fun a k => ?_)
  split
  · exact k
  · exact sound_ite k (sound_stepEnd (sound_foldState (fun s a k' => sound_rowDone k' _ _ _ _ _) (sound_stepGather
        (sound_bumpWrap (sound_runRows (sound_meetUnits k _) _ _ _ _) _ _ _ _) _ _) _) _)

theorem soundNext_execOptimiserStepStart {s : State} (h : Sound s) (part : Fin 8) : SoundNext (execOptimiserStepStart
    part s) := by
  unfold execOptimiserStepStart
  exact soundNext_onDevice h (sound_ite (sound_ite (sound_foldState (fun s a k => sound_giveSegment k _ _)
      (sound_mapLearn (sound_freshSchedule (sound_noteDefer h _) _) _ _) _) (sound_noteDefer h _)) h)

theorem sound_optDone {s : State} (h : Sound s) (p : Nat) : Sound (s.optDone p) := by
  unfold State.optDone
  exact sound_gatherNext (sound_mapLearn (sound_ite (sound_bump (sound_mapLearn h _ _) _ _ _) (sound_bump
      (sound_putBit (sound_mapLearn h _ _) _ _ _ _) _ _ _)) _ _) _ _

theorem soundNext_execOptimiserStepDone {s : State} (h : Sound s) (part : Fin 8) : SoundNext (execOptimiserStepDone
    part s) := by
  unfold execOptimiserStepDone
  exact soundNext_onCore h _ (fun a k => sound_ite (sound_stopIfIdle (sound_noteDefer (sound_setPart
      (sound_judgeReady (sound_optDone k _) _) _ _) _) _) k)

/-! ### Power -/

theorem sound_showVcore {s : State} (h : Sound s) : Sound s.showVcore := by
  unfold State.showVcore
  exact sound_ite (sound_put h _ _ _ _) (sound_put (sound_put h _ _ _ _) _ _ _ _)

theorem sound_setDepth {s : State} (h : Sound s) (d : Nat) : Sound (s.setDepth d) := by
  unfold State.setDepth
  exact sound_ite (sound_raise (sound_ite (sound_bump (sound_put (sound_putBit (sound_showVcore (sound_power h _)) _
      _ _ _) _ _ _ _) _ _ _) (sound_put (sound_putBit (sound_showVcore (sound_power h _)) _ _ _ _) _ _ _ _)) _)
      (sound_ite (sound_bump (sound_put (sound_putBit (sound_showVcore (sound_power h _)) _ _ _ _) _ _ _ _) _ _ _)
      (sound_put (sound_putBit (sound_showVcore (sound_power h _)) _ _ _ _) _ _ _ _))

theorem sound_throttle {s : State} (h : Sound s) (hot cool : Bool) : Sound (s.throttle hot cool) := by
  unfold State.throttle
  exact sound_ite (sound_setDepth h _) (sound_ite (sound_setDepth h _) h)

theorem sound_powerTerm {s : State} (h : Sound s) (r : Option (Nat × Nat)) : Sound (s.powerTerm r).1 := by
  unfold State.powerTerm
  split
  · exact h
  · exact sound_drawn h

theorem sound_showRail {s : State} (h : Sound s) (cur valid : Fld) (r : Option (Nat × Nat)) : Sound (s.showRail cur
    valid r) := by
  unfold State.showRail
  split
  · exact sound_putBit (sound_put h _ _ _ _) _ _ _ _
  · exact sound_putBit h _ _ _ _

theorem sound_sampleRails {s : State} (h : Sound s) (x : Telemetry) : Sound (s.sampleRails x) := by
  unfold State.sampleRails
  dsimp only
  split
  · exact sound_ite (sound_put (sound_putBit (sound_put (sound_powerTerm (sound_powerTerm (sound_powerTerm
        (sound_putBit (sound_put (sound_showRail (sound_showRail (sound_showRail h _ _ _) _ _ _) _ _ _) _ _ _ _) _ _
        _ _) _) _) _) _ _ _ _) _ _ _ _) _ _ _ _) (sound_putBit (sound_put (sound_powerTerm (sound_powerTerm
        (sound_powerTerm (sound_putBit (sound_put (sound_showRail (sound_showRail (sound_showRail h _ _ _) _ _ _) _ _
        _) _ _ _ _) _ _ _ _) _) _) _) _ _ _ _) _ _ _ _)
  · exact sound_putBit (sound_put (sound_powerTerm (sound_powerTerm (sound_powerTerm (sound_putBit (sound_put
        (sound_showRail (sound_showRail (sound_showRail h _ _ _) _ _ _) _ _ _) _ _ _ _) _ _ _ _) _) _) _) _ _ _ _) _
        _ _ _

theorem sound_sampleTemps {s : State} (h : Sound s) (x : Telemetry) : Sound (s.sampleTemps x) := by
  unfold State.sampleTemps
  refine sound_timesFrom (fun s i k => ?_) h _ _
  split
  · exact sound_putBit (sound_put k _ _ _ _) _ _ _ _
  · exact k

theorem sound_vcoreSettled {s : State} (h : Sound s) (n : Nat) : Sound (s.vcoreSettled n) := by
  induction n generalizing s with
  | zero => exact h
  | succ n ih =>
    unfold State.vcoreSettled
    refine sound_ite ?_ h
    split
    · exact ih (sound_finish h _ _ _)
    · exact h

theorem sound_settleVcore {s : State} (h : Sound s) : Sound s.settleVcore := by
  unfold State.settleVcore
  exact sound_ite (sound_timesFrom (fun s i k => sound_finishOp k _ _ _) h _ _) (sound_vcoreSettled h _)

theorem soundNext_execTelemetrySample {s : State} (h : Sound s) (sample : Telemetry) : SoundNext (execTelemetrySample
    sample s) := by
  unfold execTelemetrySample
  exact soundNext_onDevice h (sound_ite (sound_settleVcore (sound_throttle (sound_putBit (sound_putBit
      (sound_sampleRails (sound_sampleTemps (sound_power h _) _) _) _ _ _ _) _ _ _ _) _ _)) h)

theorem soundNext_execVcoreStep {s : State} (h : Sound s) : SoundNext (execVcoreStep s) := by
  unfold execVcoreStep
  exact soundNext_onDevice h (sound_ite (sound_settleVcore (sound_power h _)) h)

theorem soundNext_execCmdSetVcore {s : State} (h : Sound s) (src : Source) : SoundNext (execCmdSetVcore src s) := by
  unfold execCmdSetVcore
  dsimp only
  refine soundNext_runCmd h _ _ (fun t d k => ?_)
  refine sound_ite_fst ?_ ?_
  · exact sound_refuse k _
  · refine sound_ite_fst ?_ ?_
    · exact sound_refuse k _
    · refine sound_ite_fst ?_ ?_
      · exact sound_doneWith (sound_settleVcore (sound_setDepth (sound_power k _) _)) _
      · dsimp only
        exact sound_settleVcore (sound_setDepth (sound_power k _) _)

theorem soundNext_execPwrAlert {s : State} (h : Sound s) (words : List Word) : SoundNext (execPwrAlert words s) := by
  unfold execPwrAlert
  exact soundNext_onDevice h (sound_timesFrom (fun s i k => sound_ite k (sound_put (sound_put k _ _ _ _) _ _ _ _))
      (sound_putBit h _ _ _ _) _ _)

theorem sound_writeThrottle {s : State} (h : Sound s) (v : Nat) : Sound (s.writeThrottle v) := by
  unfold State.writeThrottle
  exact sound_setReg h _ _ _ _

/-! ### Frames -/

theorem sound_consume {s : State} (h : Sound s) (f : RzFrame) : Sound (s.consume f) := by
  unfold State.consume
  exact sound_link h _

theorem sound_onFrame {s : State} (h : Sound s) (kind : Nat) (f : State → RzFrame → State) (hf : ∀ (a : State) (a_1 :
    RzFrame), Sound a → Sound (f a a_1)) : Sound (s.onFrame kind f) := by
  unfold State.onFrame
  split
  · exact hf _ _ (sound_consume h _)
  · exact h

/-! ### Looms -/

theorem sound_noteStatus {s : State} (h : Sound s) (n e tag : Nat) (st : Status) : Sound (s.noteStatus n e tag st) :=
    by
  unfold State.noteStatus
  exact sound_ite (sound_put (sound_put (sound_put h _ _ _ _) _ _ _ _) _ _ _ _) h

theorem sound_completeTag {s : State} (h : Sound s) (n t : Nat) (st : Status) (d : Data) : Sound (s.completeTag n t
    st d) := by
  unfold State.completeTag
  dsimp only
  split
  · exact h
  · exact sound_noteStatus (sound_setLoom h _ _) _ _ _ _

theorem sound_deliver {s : State} (h : Sound s) (n t : Nat) (st : Status) (d : Data) : Sound (s.deliver n t st d) :=
    by
  unfold State.deliver
  split
  · exact h
  · split
    · exact sound_completeTag (sound_writeData h _ _) _ _ _ _
    · exact sound_completeTag h _ _ _ _

theorem sound_deliverPoison {s : State} (h : Sound s) (n t : Nat) (st : Status) : Sound (s.deliverPoison n t st) := by
  unfold State.deliverPoison
  split
  · exact h
  · exact sound_deliver h _ _ _ _

theorem sound_noteStore {s : State} (h : Sound s) (n t : Nat) (x : Tag) (d : Data) : Sound (s.noteStore n t x d) := by
  unfold State.noteStore
  dsimp only
  split
  · exact sound_setPart h _ _
  · exact h

theorem sound_runShuttle {s : State} (h : Sound s) (n t : Nat) (lost : List Nat) : Sound (s.runShuttle n t lost) := by
  unfold State.runShuttle
  dsimp only
  split
  · exact h
  · exact sound_deliver (sound_noteStore (sound_readData h _ _) _ _ _ _) _ _ _ _

theorem sound_remoteFails {s : State} (h : Sound s) (n t : Nat) (st : Status) (c : Fld) : Sound (s.remoteFails n t st
    c) := by
  unfold State.remoteFails
  exact sound_deliverPoison (sound_bump h _ _ _) _ _ _

theorem sound_askTwin {s : State} (h : Sound s) (n t : Nat) (x : Tag) : Sound (s.askTwin n t x) := by
  unfold State.askTwin
  exact sound_ite (sound_linkSend (sound_setLoom h _ _) _ _ _ _) (sound_remoteFails h _ _ _ _)

theorem sound_issueShuttle {s : State} (h : Sound s) (n e : Nat) (q : QIns) : Sound (s.issueShuttle n e q) := by
  unfold State.issueShuttle
  exact sound_ite (sound_deliverPoison (sound_setLoom h _ _) _ _ _) (sound_ite (sound_deliverPoison (sound_setLoom h
      _ _) _ _ _) (sound_ite (sound_askTwin (sound_setLoom h _ _) _ _ _) (sound_setLoom h _ _)))

theorem sound_spoil {s : State} (h : Sound s) (n : Nat) (q : QIns) : Sound (s.spoil n q) := by
  unfold State.spoil
  exact sound_ite (sound_arrayStatus (sound_ite (sound_mapGroup (sound_reshape h _ _) _ _ _) h) _ _ _ _ _) (sound_ite
      (sound_arrayStatus (sound_ite (sound_poisonRows h _ _ _ _ _) h) _ _ _ _ _) (sound_ite (sound_poisonRows h _ _ _
      _ _) (sound_ite (sound_convStatus (sound_poisonTile h _ _ _) _ _ _) (sound_ite (sound_fetchStatus
      (sound_timesFrom (fun s i k => sound_poisonRows k _ _ _ _ _) h _ _) _ _ _) h))))

theorem sound_runIns {s : State} (h : Sound s) (n : Nat) (q : QIns) : Sound (s.runIns n q).1 := by
  unfold State.runIns
  dsimp only
  refine sound_ite_fst ?_ ?_
  · dsimp only
    exact sound_spoil h _ _
  · refine sound_ite_fst ?_ ?_
    · exact sound_runWload h _ _ _
    · refine sound_ite_fst ?_ ?_
      · exact sound_runMm h _ _
      · refine sound_ite_fst ?_ ?_
        · exact sound_runConv h _ _ _
        · refine sound_ite_fst ?_ ?_
          · exact sound_runVprog h _ _
          · refine sound_ite_fst ?_ ?_
            · exact sound_runLfetch h _ _ _
            · exact h

theorem sound_spoilStep {s : State} (h : Sound s) (n cmd : Nat) : Sound (s.spoilStep n cmd) := by
  unfold State.spoilStep
  dsimp only
  split
  · exact sound_setPart h _ _
  · exact h

theorem sound_insStatus {s : State} (h : Sound s) (n e : Nat) (q : QIns) (st : Status) : Sound (s.insStatus n e q st)
    := by
  unfold State.insStatus
  exact sound_ite (sound_noteStatus h _ _ _ _) (sound_spoilStep (sound_noteStatus h _ _ _ _) _ _)

theorem sound_runPending {s : State} (h : Sound s) (n : Nat) : Sound (s.runPending n) := by
  unfold State.runPending
  dsimp only
  split
  · exact sound_insStatus (sound_setLoom (sound_runIns h _ _) _ _) _ _ _ _
  · exact h

theorem sound_finishIns {s : State} (h : Sound s) (n e : Nat) (q : QIns) (st : Status) : Sound (s.finishIns n e q st)
    := by
  unfold State.finishIns
  exact sound_insStatus (sound_setLoom h _ _) _ _ _ _

theorem sound_issueArray {s : State} (h : Sound s) (n : Nat) (q : QIns) : Sound (s.issueArray n q) := by
  unfold State.issueArray
  exact sound_setLoom (sound_ite (sound_reshape h _ _) h) _ _

theorem sound_issueSignal {s : State} (h : Sound s) (n e : Nat) (q : QIns) : Sound (s.issueSignal n e q) := by
  unfold State.issueSignal
  exact sound_ite (sound_completeTag (sound_setLoom h _ _) _ _ _ _) (sound_setLoom h _ _)

theorem sound_spoilTask {s : State} (h : Sound s) (n cmd : Nat) : Sound (s.spoilTask n cmd) := by
  unfold State.spoilTask
  dsimp only
  split
  · exact sound_setPart h _ _
  · exact h

theorem sound_giveUp {s : State} (h : Sound s) (n e : Nat) (q : QIns) : Sound (s.giveUp n e q) := by
  unfold State.giveUp
  exact sound_spoilStep (sound_spoilTask (sound_noteStatus (sound_setLoom h _ _) _ _ _ _) _ _) _ _

theorem sound_issueHead {s : State} (h : Sound s) (n e : Nat) (q : QIns) (rest : List QIns) : Sound (s.issueHead n e
    q rest) := by
  unfold State.issueHead
  exact sound_ite (sound_giveUp (sound_setLoom h _ _) _ _ _) (sound_ite (sound_finishIns (sound_setLoom h _ _) _ _ _
      _) (sound_ite (sound_issueShuttle (sound_setLoom h _ _) _ _ _) (sound_ite (sound_issueSignal (sound_setLoom h _
      _) _ _ _) (sound_ite (sound_issueArray (sound_setLoom h _ _) _ _) (sound_finishIns (sound_runIns (sound_setLoom
      h _ _) _ _) _ _ _ _)))))

theorem sound_issueTurn {s : State} (h : Sound s) (n e : Nat) : Sound (s.issueTurn n e) := by
  unfold State.issueTurn
  split
  · exact sound_ite (sound_issueHead h _ _ _ _) h
  · exact h

theorem sound_endOldest {s : State} (h : Sound s) (n f : Nat) : Sound (s.endOldest n f) := by
  induction f generalizing s with
  | zero => exact h
  | succ f ih => exact sound_ite (ih (sound_bumpWrap (sound_setLoom h _ _) _ _ _ _)) h

theorem sound_retireTurn {s : State} (h : Sound s) (n e : Nat) : Sound (s.retireTurn n e) := by
  unfold State.retireTurn
  dsimp only
  split
  · exact h
  · split
    · exact sound_ite (sound_completeTag h _ _ _ _) h
    · exact sound_ite h (sound_endOldest (sound_setLoom h _ _) _ _)

theorem sound_round {s : State} (h : Sound s) (n : Nat) : Sound (s.round n) := by
  unfold State.round
  exact sound_timesFrom (fun s i k => sound_retireTurn (sound_ite (sound_issueTurn k _ _) (sound_runPending
      (sound_issueTurn k _ _) _)) _ _) h _ _

theorem sound_rounds {s : State} (h : Sound s) (n f : Nat) : Sound (s.rounds n f) := by
  induction f generalizing s with
  | zero => exact h
  | succ f ih => exact sound_ite (ih (sound_round h n)) (sound_round h n)

theorem sound_pumpLoom {s : State} (h : Sound s) (n : Nat) : Sound (s.pumpLoom n) := by
  unfold State.pumpLoom
  exact sound_showLoom (sound_rounds h _ _) _

theorem sound_feed {s : State} (h : Sound s) (n e kind : Nat) (words : List Word) (aux : Aux) : Sound (s.feed n e
    kind words aux) := by
  unfold State.feed
  exact sound_ite h (sound_pumpLoom (sound_setLoom h _ _) _)

theorem soundNext_execWload {s : State} (h : Sound s) (loom : Fin 64) (engine : Fin 4) (words : List Word) (aux :
    Aux) : SoundNext (execWload loom engine words aux s) := by
  unfold execWload
  exact soundNext_onCore h _ (fun a k => sound_feed k _ _ _ _ _)

theorem soundNext_execMm {s : State} (h : Sound s) (loom : Fin 64) (engine : Fin 4) (words : List Word) (aux : Aux) :
    SoundNext (execMm loom engine words aux s) := by
  unfold execMm
  exact soundNext_onCore h _ (fun a k => sound_feed k _ _ _ _ _)

theorem soundNext_execMmt {s : State} (h : Sound s) (loom : Fin 64) (engine : Fin 4) (words : List Word) (aux : Aux)
    : SoundNext (execMmt loom engine words aux s) := by
  unfold execMmt
  exact soundNext_onCore h _ (fun a k => sound_feed k _ _ _ _ _)

theorem soundNext_execConv {s : State} (h : Sound s) (loom : Fin 64) (engine : Fin 4) (words : List Word) (aux : Aux)
    : SoundNext (execConv loom engine words aux s) := by
  unfold execConv
  exact soundNext_onCore h _ (fun a k => sound_feed k _ _ _ _ _)

theorem soundNext_execDw {s : State} (h : Sound s) (loom : Fin 64) (engine : Fin 4) (words : List Word) (aux : Aux) :
    SoundNext (execDw loom engine words aux s) := by
  unfold execDw
  exact soundNext_onCore h _ (fun a k => sound_feed k _ _ _ _ _)

theorem soundNext_execVprog {s : State} (h : Sound s) (loom : Fin 64) (engine : Fin 4) (words : List Word) (aux :
    Aux) : SoundNext (execVprog loom engine words aux s) := by
  unfold execVprog
  exact soundNext_onCore h _ (fun a k => sound_feed k _ _ _ _ _)

theorem soundNext_execLfetch {s : State} (h : Sound s) (loom : Fin 64) (engine : Fin 4) (words : List Word) (aux :
    Aux) : SoundNext (execLfetch loom engine words aux s) := by
  unfold execLfetch
  exact soundNext_onCore h _ (fun a k => sound_feed k _ _ _ _ _)

theorem soundNext_execShuttle {s : State} (h : Sound s) (loom : Fin 64) (engine : Fin 4) (words : List Word) (aux :
    Aux) : SoundNext (execShuttle loom engine words aux s) := by
  unfold execShuttle
  exact soundNext_onCore h _ (fun a k => sound_feed k _ _ _ _ _)

theorem soundNext_execSignal {s : State} (h : Sound s) (loom : Fin 64) (engine : Fin 4) (words : List Word) (aux :
    Aux) : SoundNext (execSignal loom engine words aux s) := by
  unfold execSignal
  exact soundNext_onCore h _ (fun a k => sound_feed k _ _ _ _ _)

theorem soundNext_execWait {s : State} (h : Sound s) (loom : Fin 64) (engine : Fin 4) (words : List Word) (aux : Aux)
    : SoundNext (execWait loom engine words aux s) := by
  unfold execWait
  exact soundNext_onCore h _ (fun a k => sound_feed k _ _ _ _ _)

theorem soundNext_execEndInstr {s : State} (h : Sound s) (loom : Fin 64) (engine : Fin 4) (words : List Word) (aux :
    Aux) : SoundNext (execEndInstr loom engine words aux s) := by
  unfold execEndInstr
  exact soundNext_onCore h _ (fun a k => sound_feed k _ _ _ _ _)

theorem soundNext_execShuttleComplete {s : State} (h : Sound s) (loom : Fin 64) (transfer : Transfer) : SoundNext
    (execShuttleComplete loom transfer s) := by
  unfold execShuttleComplete
  refine soundNext_onCore h _ (fun a k => ?_)
  split
  · exact sound_ite (sound_pumpLoom (sound_runShuttle k _ _ _) _) k
  · exact k

theorem soundNext_execRreqReceive {s : State} (h : Sound s) : SoundNext (execRreqReceive s) := by
  unfold execRreqReceive
  exact soundNext_onCore h _ (fun a k => sound_onFrame k _ _ (fun _ _ k' => sound_ite (sound_linkSend (sound_readData
      k' _ _) _ _ _ _) (sound_linkSend k' _ _ _ _)))

theorem sound_parkIn {s : State} (h : Sound s) (p n : Nat) (x : Tag) (d : Data) : Sound (s.parkIn p n x d) := by
  unfold State.parkIn
  exact sound_bump (sound_writeData h _ _) _ _ _

theorem sound_mapSaved {s : State} (h : Sound s) (p n t : Nat) (f : Tag → Tag) : Sound (s.mapSaved p n t f) := by
  unfold State.mapSaved
  exact sound_showLoom (sound_setPart h _ _) _

theorem sound_response {s : State} (h : Sound s) (n : Nat) (f : RzFrame) : Sound (s.response n f) := by
  unfold State.response
  dsimp only
  split
  · refine sound_ite ?_ ?_
    · refine sound_showLoom ?_ _
      split
      · exact sound_parkIn (sound_setLoom h _ _) _ _ _ _
      · exact sound_setLoom h _ _
    · exact sound_pumpLoom (sound_ite (sound_deliver h _ _ _ _) (sound_deliverPoison h _ _ _)) _
  · split
    · exact sound_ite (sound_parkIn (sound_mapSaved h _ _ _ _) _ _ _ _) (sound_mapSaved h _ _ _ _)
    · exact sound_bump h _ _ _

theorem soundNext_execRrespReceive {s : State} (h : Sound s) : SoundNext (execRrespReceive s) := by
  unfold execRrespReceive
  exact soundNext_onCore h _ (fun a k => sound_onFrame k _ _ (fun _ _ k' => sound_response k' _ _))

theorem sound_remoteEndsLive {s : State} (h : Sound s) (n t : Nat) (st : Status) (c : Fld) : Sound (s.remoteEndsLive
    n t st c) := by
  unfold State.remoteEndsLive
  dsimp only
  split
  · exact sound_ite (sound_showLoom (sound_bump (sound_setLoom h _ _) _ _ _) _) (sound_pumpLoom (sound_remoteFails h
        _ _ _ _) _)
  · exact h

theorem sound_remoteEndsSaved {s : State} (h : Sound s) (p n t : Nat) (st : Status) (c : Fld) : Sound
    (s.remoteEndsSaved p n t st c) := by
  unfold State.remoteEndsSaved
  exact sound_ite (sound_showLoom (sound_bump (sound_mapSaved h _ _ _ _) _ _ _) _) h

theorem sound_remoteEnds {s : State} (h : Sound s) (p n t : Nat) (st : Status) (c : Fld) : Sound (s.remoteEnds p n t
    st c) := by
  unfold State.remoteEnds
  exact sound_ite (sound_remoteEndsSaved h _ _ _ _ _) (sound_ite (sound_remoteEndsLive h _ _ _ _) h)

theorem soundNext_execRemoteTmoExpire {s : State} (h : Sound s) (part : Fin 8) (shuttle : LoomTag) : SoundNext
    (execRemoteTmoExpire part shuttle s) := by
  unfold execRemoteTmoExpire
  exact soundNext_onCore h _ (fun a k => sound_ite k (sound_remoteEnds k _ _ _ _ _))

theorem sound_remotesDown {s : State} (h : Sound s) : Sound s.remotesDown := by
  unfold State.remotesDown
  exact sound_timesFrom (fun s i k => sound_foldState (fun s a k' => sound_foldState (fun s a k'' =>
      sound_remoteEndsSaved k'' _ _ _ _ _) k' _) (sound_foldState (fun s a k' => sound_remoteEndsLive k' _ _ _ _) k
      _) _) h _ _

theorem sound_resumeRemote {s : State} (h : Sound s) (p n : Nat) : Sound (s.resumeRemote p n) := by
  unfold State.resumeRemote
  exact sound_pumpLoom (sound_foldState (fun s a k => sound_ite (sound_deliver (sound_readData k _ _) _ _ _ _)
      (sound_deliverPoison k _ _ _)) h _) _

/-! ### Models -/

theorem sound_mapModels {s : State} (h : Sound s) (f : List Model → List Model) : Sound (s.mapModels f) := by
  unfold State.mapModels
  exact sound_sched h _

theorem sound_mapModel {s : State} (h : Sound s) (id : Nat) (f : Model → Model) : Sound (s.mapModel id f) := by
  unfold State.mapModel
  exact sound_mapModels h _

theorem sound_showSlot {s : State} (h : Sound s) (k : Nat) : Sound (s.showSlot k) := by
  unfold State.showSlot
  split
  · exact sound_put (sound_putBit (sound_putBit (sound_putBit (sound_put h _ _ _ _) _ _ _ _) _ _ _ _) _ _ _ _) _ _ _ _
  · exact sound_setReg h _ _ _ _

theorem sound_showModels {s : State} (h : Sound s) : Sound s.showModels := by
  unfold State.showModels
  exact sound_timesFrom (fun s _ k => sound_showSlot k _) (sound_put (sound_put (sound_put (sound_put h _ _ _ _) _ _
      _ _) _ _ _ _) _ _ _ _) _ _

theorem sound_mirrorModel {s : State} (h : Sound s) (id : Nat) (crc : Word) (kind : Nat) : Sound (s.mirrorModel id
    crc kind) := by
  unfold State.mirrorModel
  exact sound_mirror h _ _

theorem sound_enterModel {s : State} (h : Sound s) (id addr : Nat) (bs : List Byte) (info : Config.Image) : Sound
    (s.enterModel id addr bs info) := by
  unfold State.enterModel
  exact sound_mirrorModel (sound_showModels (sound_mapModels h _)) _ _ _

theorem soundNext_execCmdModelRegister {s : State} (h : Sound s) (src : Source) : SoundNext (execCmdModelRegister src
    s) := by
  unfold execCmdModelRegister
  dsimp only
  refine soundNext_runCmd h _ _ (fun t d k => ?_)
  refine sound_ite_fst ?_ ?_
  · exact sound_refuse k _
  · refine sound_ite_fst ?_ ?_
    · exact sound_refuse k _
    · refine sound_ite_fst ?_ ?_
      · exact sound_refuse k _
      · refine sound_ite_fst ?_ ?_
        · exact sound_refuse k _
        · split
          · exact sound_refuse k _
          · exact sound_sched k _

theorem sound_endLoading {s : State} (h : Sound s) (l : RegLoad) : Sound (s.endLoading l) := by
  unfold State.endLoading
  exact sound_ite (sound_finishOp (sound_enterModel (sound_writeData (sound_sched h _) _ _) _ _ _ _) _ _ _)
      (sound_finishOp (sound_writeData (sound_sched h _) _ _) _ _ _)

theorem sound_takeChunk {s : State} (h : Sound s) (bs : List Byte) : Sound (s.takeChunk bs) := by
  unfold State.takeChunk
  dsimp only
  split
  · exact sound_rxDiscard h
  · exact sound_ite (sound_rxDiscard h) (sound_ite (sound_endLoading (sound_sched h _) _) (sound_sched h _))

theorem soundNext_execHostRxModelChunk {s : State} (h : Sound s) (packet : RxPacket) : SoundNext
    (execHostRxModelChunk packet s) := by
  unfold execHostRxModelChunk
  exact soundNext_onDevice h (sound_rxFilter h _ _ (fun a _ k => sound_takeChunk k _))

theorem sound_modelTmo {s : State} (h : Sound s) : Sound s.modelTmo := by
  unfold State.modelTmo
  exact sound_ite (sound_finishOp (sound_sched h _) _ _ _) h

theorem sound_evict {s : State} (h : Sound s) (id : Nat) : Sound (s.evict id) := by
  unfold State.evict
  exact sound_bump (sound_mapModel h _ _) _ _ _

theorem soundOpt_placeModel {s : State} (h : Sound s) (m : Model) (n : Nat) : SoundOpt (s.placeModel m n) := by
  induction n generalizing s with
  | zero => exact soundOpt_none
  | succ n ih =>
    have hevict : SoundOpt (match s.evictable with
        | some e => (s.evict e.id).placeModel m n
        | none => none) := by
      split
      · exact ih (sound_evict h _)
      · exact soundOpt_none
    unfold State.placeModel
    dsimp only
    split
    · exact soundOpt_ite (soundOpt_some (sound_mapModel h _ _)) hevict
    · exact hevict

theorem soundOpt_beginResident {s : State} (h : Sound s) (id : Nat) : SoundOpt (s.beginResident id) := by
  unfold State.beginResident
  split
  · split
    · exact soundOpt_some h
    · exact soundOpt_map (soundOpt_placeModel h _ _) (fun t k => sound_showModels k)
  · exact soundOpt_none

theorem sound_loadUnit {s : State} (h : Sound s) (m : Model) (i : Nat) : Sound (s.loadUnit m i) := by
  unfold State.loadUnit
  dsimp only
  have ht := fun a d => sound_writeData (sound_readData h m.addr m.len) a d
  exact sound_mem (ht _ _) (Memory.wf_met (ht _ _).mem (tsorted_tdel _ (Memory.tsorted_met (ht _ _).mem)))

theorem sound_loadModel {s : State} (h : Sound s) (m : Model) : Sound (s.loadModel m) := by
  unfold State.loadModel
  exact sound_showModels (sound_bump (sound_useModel (sound_mapModel (sound_timesFrom (fun s i k => sound_loadUnit k
      _ _) h _ _) _ _) _) _ _ _)

theorem sound_pinDone {s : State} (h : Sound s) (m : Model) : Sound (s.pinDone m) := by
  unfold State.pinDone
  split
  · exact sound_finish (sound_showModels (sound_useModel (sound_mapModel h _ _) _)) _ _ _
  · exact h

theorem soundNext_execCmdModelUnregister {s : State} (h : Sound s) (src : Source) : SoundNext (execCmdModelUnregister
    src s) := by
  unfold execCmdModelUnregister
  dsimp only
  refine soundNext_runCmd h _ _ (fun t d k => ?_)
  split
  · exact sound_refuse k _
  · refine sound_ite_fst ?_ ?_
    · exact sound_refuse k _
    · refine sound_doneWith ?_ _
      refine sound_mirrorModel ?_ _ _ _
      refine sound_showModels ?_
      refine sound_mapModels ?_ _
      split
      · exact sound_finish k _ _ _
      · exact k

theorem soundNext_execCmdModelPin {s : State} (h : Sound s) (src : Source) : SoundNext (execCmdModelPin src s) := by
  unfold execCmdModelPin
  dsimp only
  refine soundNext_runCmd h _ _ (fun t d k => ?_)
  split
  · exact sound_refuse k _
  · refine sound_ite_fst ?_ ?_
    · split
      · rename_i u e
        have hu := soundOpt_beginResident k _ u e
        exact hu
      · exact sound_refuse k _
    · exact sound_doneWith (sound_showModels (sound_mapModel (sound_reply k _ _ _ _) _ _)) _

theorem soundNext_execModelCacheReload {s : State} (h : Sound s) (model unit : Nat) : SoundNext (execModelCacheReload
    model unit s) := by
  unfold execModelCacheReload
  refine soundNext_onDevice h ?_
  split
  · exact sound_ite (sound_bump (sound_loadUnit h _ _) _ _ _) h
  · exact h

theorem soundOpt_enterCommit {s : State} (h : Sound s) (id : Nat) (base : Model) (par : List Nat) : SoundOpt
    (s.enterCommit id base par) := by
  unfold State.enterCommit
  dsimp only
  refine soundOpt_ite ?_ ?_
  · exact soundOpt_none
  · split
    · exact soundOpt_none
    · exact soundOpt_some (sound_enterModel (sound_writeData (sound_readData h _ _) _ _) _ _ _ _)

theorem soundNext_execCmdLearnCommit {s : State} (h : Sound s) (src : Source) : SoundNext (execCmdLearnCommit src s)
    := by
  unfold execCmdLearnCommit
  dsimp only
  refine soundNext_runCmd h _ _ (fun t d k => ?_)
  refine sound_ite_fst ?_ ?_
  · exact sound_refuse k _
  · split
    · exact sound_refuse k _
    · refine sound_ite_fst ?_ ?_
      · exact sound_refuse k _
      · refine sound_ite_fst ?_ ?_
        · exact sound_refuse k _
        · dsimp only
          exact sound_mapLearn k _ _

theorem sound_mirrorCommit {s : State} (h : Sound s) (id base : Nat) (par : List Nat) : Sound (s.mirrorCommit id base
    par) := by
  unfold State.mirrorCommit
  exact sound_mirror (sound_timesFrom (fun s i k => sound_mirror k _ _) h _ _) _ _

theorem sound_commitNow {s : State} (h : Sound s) (p : Nat) (k : Commit) (lps : List LearnPar) : Sound (s.commitNow p
    k lps) := by
  unfold State.commitNow
  dsimp only
  split
  · exact sound_finishFor (sound_mapLearn h _ _) _ _ _ _
  · refine sound_ite ?_ ?_
    · exact sound_finishFor (sound_mapLearn h _ _) _ _ _ _
    · split
      · rename_i u e
        have hu := soundOpt_bind (soundOpt_enterCommit (sound_mapLearn h _ _) _ _ _) (fun t k' =>
            soundOpt_beginResident k' _) u e
        refine sound_finishFor ?_ _ _ _ _
        refine sound_mirrorCommit ?_ _ _ _
        refine sound_put ?_ _ _ _ _
        split
        · exact sound_loadModel hu _
        · exact hu
      · exact sound_finishFor (sound_mapLearn h _ _) _ _ _ _

theorem soundNext_execLearnCommitDone {s : State} (h : Sound s) (part : Fin 8) : SoundNext (execLearnCommitDone part
    s) := by
  unfold execLearnCommitDone
  refine soundNext_onDevice h ?_
  split
  · split
    · exact sound_commitNow h _ _ _
    · exact h
  · exact h

/-! ### Jobs -/

theorem sound_showPart {s : State} (h : Sound s) (p : Nat) : Sound (s.showPart p) := by
  unfold State.showPart
  exact sound_showActive (sound_put (sound_put (sound_put h _ _ _ _) _ _ _ _) _ _ _ _) _

theorem sound_showHolder {s : State} (h : Sound s) (n : Nat) : Sound (s.showHolder n) := by
  unfold State.showHolder
  exact sound_showLoom (sound_putBit (sound_put h _ _ _ _) _ _ _ _) _

theorem sound_showParts {s : State} (h : Sound s) : Sound s.showParts := by
  unfold State.showParts
  exact sound_timesFrom (fun s _ k => sound_showHolder k _) (sound_timesFrom (fun s _ k => sound_showPart k _) h _ _)
      _ _

theorem soundNext_execCmdPartitionCreate {s : State} (h : Sound s) (src : Source) : SoundNext (execCmdPartitionCreate
    src s) := by
  unfold execCmdPartitionCreate
  dsimp only
  refine soundNext_runCmd h _ _ (fun t d k => ?_)
  refine sound_ite_fst ?_ ?_
  · exact sound_refuse k _
  · refine sound_ite_fst ?_ ?_
    · exact sound_refuse k _
    · refine sound_ite_fst ?_ ?_
      · exact sound_refuse k _
      · refine sound_ite_fst ?_ ?_
        · exact sound_refuse k _
        · exact sound_doneWith (sound_showParts (sound_setPart k _ _)) _

theorem sound_lenderFenced {s : State} (h : Sound s) (q : Nat) : Sound (s.lenderFenced q) := by
  unfold State.lenderFenced
  split
  · exact sound_ite (sound_bump (sound_jobKill h _ _ _) _ _ _) h
  · exact h

theorem soundNext_execCmdPartitionDelete {s : State} (h : Sound s) (src : Source) : SoundNext (execCmdPartitionDelete
    src s) := by
  unfold execCmdPartitionDelete
  dsimp only
  refine soundNext_runCmd h _ _ (fun t d k => ?_)
  refine sound_ite_fst ?_ ?_
  · exact sound_refuse k _
  · refine sound_ite_fst ?_ ?_
    · exact sound_refuse k _
    · exact sound_doneWith (sound_settle (sound_foldState (fun s a k' => sound_lenderFenced k' _) (sound_showParts
          (sound_sched k _)) _)) _

theorem sound_asStarting {s : State} (h : Sound s) (p id : Nat) (learn : Bool) : Sound (s.asStarting p id learn) := by
  unfold State.asStarting
  exact sound_putBit (sound_put (sound_setPart h _ _) _ _ _ _) _ _ _ _

theorem sound_showJob {s : State} (h : Sound s) (p : Nat) (m : Model) : Sound (s.showJob p m) := by
  unfold State.showJob
  exact sound_showInUse (sound_showNeed (sound_put (sound_put (sound_put (sound_put (sound_put (sound_put
      (sound_putBit (sound_put (sound_put (sound_put (sound_put (sound_setReg h _ _ _ _) _ _ _ _) _ _ _ _) _ _ _ _) _
      _ _ _) _ _ _ _) _ _ _ _) _ _ _ _) _ _ _ _) _ _ _ _) _ _ _ _) _ _ _ _) _)

theorem soundNext_execCmdJobStart {s : State} (h : Sound s) (src : Source) : SoundNext (execCmdJobStart src s) := by
  unfold execCmdJobStart
  dsimp only
  refine soundNext_runCmd h _ _ (fun t d k => ?_)
  refine sound_ite_fst ?_ ?_
  · exact sound_refuse k _
  · split
    · exact sound_refuse k _
    · refine sound_ite_fst ?_ ?_
      · exact sound_refuse k _
      · refine sound_ite_fst ?_ ?_
        · exact sound_refuse k _
        · split
          · exact sound_refuse k _
          · rename_i u e
            have hu := soundOpt_beginResident (sound_asStarting k _ _ _) _ u e
            exact sound_ite (sound_startLearn (sound_showJob hu _ _) _) (sound_showJob hu _ _)

theorem sound_startWaiting {s : State} (h : Sound s) (p : Nat) : Sound (s.startWaiting p) := by
  unfold State.startWaiting
  exact sound_ite h (sound_foldState (fun s a k => sound_ite (sound_startCompute k _) k) h _)

theorem sound_jobRuns {s : State} (h : Sound s) (p : Nat) : Sound (s.jobRuns p) := by
  unfold State.jobRuns
  exact sound_finishFor (sound_judgeReady (sound_startWaiting (sound_ite (sound_putBit (sound_takeSchedule (sound_put
      h _ _ _ _) _) _ _ _ _) (sound_takeSchedule (sound_put h _ _ _ _) _)) _) _) _ _ _ _

theorem soundNext_execModelResident {s : State} (h : Sound s) (model : Nat) : SoundNext (execModelResident model s)
    := by
  unfold execModelResident
  dsimp only
  refine soundNext_onDevice h ?_
  split
  · exact sound_ite h (sound_foldState (fun s a k => sound_jobRuns k _) (sound_pinDone (sound_ite h (sound_loadModel
        h _)) _) _)
  · exact h

theorem soundNext_execCmdJobStop {s : State} (h : Sound s) (src : Source) : SoundNext (execCmdJobStop src s) := by
  unfold execCmdJobStop
  dsimp only
  refine soundNext_runCmd h _ _ (fun t d k => ?_)
  refine sound_ite_fst ?_ ?_
  · exact sound_refuse k _
  · refine sound_ite_fst ?_ ?_
    · exact sound_doneWith (sound_finishAll (sound_jobIdle (sound_reply (sound_put (sound_withdraw k _ _ _) _ _ _ _)
          _ _ _ _) _ _ _) _ _ _) _
    · dsimp only
      exact sound_put (sound_withdraw k _ _ _) _ _ _ _

theorem soundNext_execCmdJobCancel {s : State} (h : Sound s) (src : Source) : SoundNext (execCmdJobCancel src s) := by
  unfold execCmdJobCancel
  dsimp only
  refine soundNext_runCmd h _ _ (fun t d k => ?_)
  refine sound_ite_fst ?_ ?_
  · exact sound_refuse k _
  · exact sound_doneWith (sound_settle (sound_jobKill k _ _ _)) _

theorem sound_beginPreempt {s : State} (h : Sound s) (p : Nat) (immediate : Bool) : Sound (s.beginPreempt p
    immediate) := by
  unfold State.beginPreempt
  exact sound_setPart (sound_putBit (sound_put (sound_withdraw h _ _ _) _ _ _ _) _ _ _ _) _ _

theorem soundNext_execCmdJobPreempt {s : State} (h : Sound s) (src : Source) : SoundNext (execCmdJobPreempt src s) :=
    by
  unfold execCmdJobPreempt
  dsimp only
  refine soundNext_runCmd h _ _ (fun t d k => ?_)
  refine sound_ite_fst ?_ ?_
  · refine sound_ite_fst ?_ ?_
    · exact sound_refuse k _
    · refine sound_ite_fst ?_ ?_
      · exact sound_refuse k _
      · dsimp only
        exact sound_beginPreempt k _ _
  · refine sound_ite_fst ?_ ?_
    · refine sound_ite_fst ?_ ?_
      · exact sound_refuse k _
      · dsimp only
        exact sound_putBit (sound_finishFor k _ _ _ _) _ _ _ _
    · exact sound_refuse k _

theorem sound_writeSaves {s : State} (h : Sound s) (p n : Nat) : Sound (s.writeSaves p n) := by
  unfold State.writeSaves
  exact sound_drawn (sound_writeData h _ _)

theorem sound_saveLooms {s : State} (h : Sound s) (p : Nat) : Sound (s.saveLooms p) := by
  unfold State.saveLooms
  exact sound_foldState (fun s a k => sound_clearLoom (sound_setLoom k _ _) _) (sound_writeSaves (sound_setPart h _
      _) _ _) _

theorem soundNext_execPreemptComplete {s : State} (h : Sound s) (part : Fin 8) : SoundNext (execPreemptComplete part
    s) := by
  unfold execPreemptComplete
  exact soundNext_onCore h _ (fun a k => sound_ite (sound_finishFor (sound_bump (sound_put (sound_ite
      (sound_saveLooms k _) k) _ _ _ _) _ _ _) _ _ _ _) k)

theorem soundNext_execCmdJobResume {s : State} (h : Sound s) (src : Source) : SoundNext (execCmdJobResume src s) := by
  unfold execCmdJobResume
  dsimp only
  refine soundNext_runCmd h _ _ (fun t d k => ?_)
  refine sound_ite_fst ?_ ?_
  · exact sound_refuse k _
  · dsimp only
    exact sound_put k _ _ _ _

theorem sound_restoreLooms {s : State} (h : Sound s) (p : Nat) : Sound (s.restoreLooms p) := by
  unfold State.restoreLooms
  dsimp only
  refine sound_reReady (sound_countReexec (sound_foldState (fun t e k => sound_showLoom (sound_setLoom k _ _) _)
    (sound_setPart (sound_mem h ?_) _ _) _) _ _) _ _
  exact Memory.wf_putBack (Memory.wf_held (Memory.wf_only h.mem _) _) _

theorem sound_resumeAnew {s : State} (h : Sound s) (p : Nat) : Sound (s.resumeAnew p) := by
  unfold State.resumeAnew
  exact sound_restart (sound_ite (sound_bump (sound_reReady (sound_countReexec (sound_foldState (fun s a k =>
      sound_showLoom k _) (sound_setPart h _ _) _) _ _) _ _) _ _ _) (sound_reReady (sound_countReexec
      (sound_foldState (fun s a k => sound_showLoom k _) (sound_setPart h _ _) _) _ _) _ _)) _

theorem soundNext_execResumeComplete {s : State} (h : Sound s) (part : Fin 8) : SoundNext (execResumeComplete part s)
    := by
  unfold execResumeComplete
  exact soundNext_onCore h _ (fun a k => sound_ite k (sound_finishFor (sound_judgeReady (sound_foldState (fun s a k'
      => sound_resumeRemote k' _ _) (sound_putBit (sound_put (sound_ite (sound_resumeAnew k _) (sound_ite
      (sound_restoreLooms k _) k)) _ _ _ _) _ _ _ _) _) _) _ _ _ _))

theorem soundNext_execCmdArithProfileSet {s : State} (h : Sound s) (src : Source) : SoundNext (execCmdArithProfileSet
    src s) := by
  unfold execCmdArithProfileSet
  dsimp only
  refine soundNext_runCmd h _ _ (fun t d k => ?_)
  refine sound_ite_fst ?_ ?_
  · exact sound_refuse k _
  · refine sound_ite_fst ?_ ?_
    · exact sound_refuse k _
    · refine sound_ite_fst ?_ ?_
      · exact sound_refuse k _
      · exact sound_doneWith (sound_ite (sound_putBit (sound_stored (sound_put k _ _ _ _) _) _ _ _ _) (sound_stored
            (sound_put k _ _ _ _) _)) _

/-! ### Protect -/

theorem sound_becomeReady {s : State} (h : Sound s) : Sound s.becomeReady := by
  unfold State.becomeReady
  exact sound_ite (sound_raise (sound_putBit h _ _ _ _) _) h

theorem soundNext_execSramWipeDone {s : State} (h : Sound s) : SoundNext (execSramWipeDone s) := by
  unfold execSramWipeDone
  exact soundNext_onDevice h (sound_ite h (sound_becomeReady (sound_putBit (sound_mem h (Memory.wf_wipe h.mem _ _)) _
      _ _ _)))

theorem soundNext_execDdrTrainingDone {s : State} (h : Sound s) : SoundNext (execDdrTrainingDone s) := by
  unfold execDdrTrainingDone
  exact soundNext_onDevice h (sound_ite h (sound_putBit (sound_putBit h _ _ _ _) _ _ _ _))

theorem soundNext_execDdrWipeMarkAdvance {s : State} (h : Sound s) : SoundNext (execDdrWipeMarkAdvance s) := by
  have hwipe := fun lo hi v => sound_put (sound_mem h (Memory.wf_wipe h.mem lo hi)) F.MEM_WIPE_MARK_MARK v 0 0
  unfold execDdrWipeMarkAdvance
  refine soundNext_onDevice h (sound_ite (sound_ite ?_ ?_) h)
  · exact sound_becomeReady (sound_releaseHeld (sound_putBit (sound_putBit (hwipe _ _ _) _ _ _ _) _ _ _ _))
  · exact sound_releaseHeld (hwipe _ _ _)

theorem sound_fillChunks {s : State} (h : Sound s) (pattern : Word) (n a w : Nat) : Sound (s.fillChunks pattern n a
    w).1 := by
  induction n generalizing s a w with
  | zero => exact h
  | succ n ih => exact sound_ite_fst h (ih (sound_writeFuel h _ _ _) _ _)

theorem soundNext_execCmdMemFill {s : State} (h : Sound s) (src : Source) : SoundNext (execCmdMemFill src s) := by
  unfold execCmdMemFill
  dsimp only
  refine soundNext_runCmd h _ _ (fun t d k => ?_)
  refine sound_ite_fst ?_ ?_
  · exact sound_refuse k _
  · dsimp only
    exact sound_fills k _

theorem soundNext_execMemFillDone {s : State} (h : Sound s) : SoundNext (execMemFillDone s) := by
  unfold execMemFillDone
  dsimp only
  refine soundNext_onDevice h ?_
  split
  · exact h
  · split
    · exact sound_finish (sound_fillChunks (sound_fills h _) _ _ _ _) _ _ _
    · exact sound_fillChunks (sound_fills h _) _ _ _ _

theorem soundNext_execCmdScrubSet {s : State} (h : Sound s) (src : Source) : SoundNext (execCmdScrubSet src s) := by
  unfold execCmdScrubSet
  refine soundNext_runCmd h _ _ (fun t d k => ?_)
  refine sound_ite_fst ?_ ?_
  · exact sound_refuse k _
  · exact sound_doneWith (sound_put (sound_put k _ _ _ _) _ _ _ _) _

theorem sound_scrubAccess {s : State} (h : Sound s) (g : Nat) (contended : Bool) (flaw : Option Flaw) : Sound
    (s.scrubAccess g contended flaw).1 := by
  unfold State.scrubAccess
  dsimp only
  refine sound_ite_fst ?_ ?_
  · dsimp only
    exact sound_touch (sound_bump (sound_scrub (sound_withFlaws h _) _) _ _ _) _ _
  · refine sound_ite_fst ?_ ?_
    · dsimp only
      exact sound_scrub h _
    · dsimp only
      exact sound_touch (sound_withFlaws h _) _ _

theorem soundNext_execScrubDdrAccess {s : State} (h : Sound s) (contended : Bool) (flaw : Option Flaw) : SoundNext
    (execScrubDdrAccess contended flaw s) := by
  unfold execScrubDdrAccess
  exact soundNext_onCore h _ (fun a k => sound_ite (sound_ite (sound_ite (sound_bumpWrap (sound_put (sound_scrub
      (sound_scrubAccess k _ _ _) _) _ _ _ _) _ _ _ _) (sound_put (sound_scrub (sound_scrubAccess k _ _ _) _) _ _ _
      _)) (sound_scrubAccess k _ _ _)) k)

theorem soundNext_execScrubSramAccess {s : State} (h : Sound s) (contended : Bool) (flaw : Option Flaw) : SoundNext
    (execScrubSramAccess contended flaw s) := by
  unfold execScrubSramAccess
  exact soundNext_onCore h _ (fun a k => sound_ite (sound_ite (sound_ite (sound_bumpWrap (sound_scrub
      (sound_scrubAccess k _ _ _) _) _ _ _ _) (sound_scrub (sound_scrubAccess k _ _ _) _)) (sound_scrubAccess k _ _
      _)) k)

theorem sound_toReset {s : State} (h : Sound s) (r : Reg) (i : Nat) : Sound (s.toReset r i) := by
  unfold State.toReset
  exact sound_setReg h _ _ _ _

theorem sound_flipWord {s : State} (h : Sound s) (w : Nat) (m : BitVec 32) : Sound (s.flipWord w m) := by
  unfold State.flipWord
  exact sound_ite (sound_setReg h _ _ _ _) (sound_die h _)

theorem sound_strike {s : State} (h : Sound s) (u : Upset) : Sound (s.strike u) := by
  unfold State.strike
  dsimp only
  split
  · exact sound_ite (sound_copies h _) (sound_flipWord (sound_copies h _) _ _)
  · exact sound_copies h _

theorem sound_splitValue {s : State} (h : Sound s) (w : Nat) : Sound (s.splitValue w) := by
  unfold State.splitValue
  exact sound_ite (sound_put h _ _ _ _) (sound_ite (sound_toReset h _ _) (sound_ite (sound_putBit h _ _ _ _)
      (sound_ite (sound_toReset h _ _) (sound_ite (sound_toReset h _ _) (sound_ite (sound_toReset h _ _) (sound_ite
      (sound_toReset h _ _) (sound_ite (sound_toReset h _ _) (sound_ite (sound_toReset h _ _) (sound_ite
      (sound_toReset h _ _) (sound_ite (sound_toReset h _ _) (sound_ite (sound_enterSafe (sound_die h _) _)
      h)))))))))))

theorem sound_splitOne {s : State} (h : Sound s) (w : Nat) : Sound (s.splitOne w) := by
  unfold State.splitOne
  exact sound_ite h (sound_timesFrom (fun s i k => sound_ite k (sound_jobKill k _ _ _)) (sound_splitValue
      (sound_splits (sound_ite h (sound_put (sound_putBit h _ _ _ _) _ _ _ _)) _) _) _ _)

theorem sound_readCritical {s : State} (h : Sound s) (w : Nat) : Sound (s.readCritical w) := by
  unfold State.readCritical
  dsimp only
  split
  · exact h
  · exact sound_ite (sound_bump (sound_copies h _) _ _ _) (sound_splitOne (sound_copies h _) _)

theorem soundNext_execTmrWalk {s : State} (h : Sound s) (before after : List Upset) : SoundNext (execTmrWalk before
    after s) := by
  unfold execTmrWalk
  exact soundNext_onCore h _ (fun a k => sound_foldState (fun s a k' => sound_strike k' _) (sound_timesFrom (fun s i
      k' => sound_readCritical k' _) (sound_foldState (fun s a k' => sound_strike k' _) k _) _ _) _)

theorem sound_clearTdc {s : State} (h : Sound s) : Sound s.clearTdc := by
  unfold State.clearTdc
  exact sound_foldState (fun s a k => sound_setReg k _ _ _ _) (sound_tdcSeen h _) _

theorem soundNext_execDetCtrlClear {s : State} (h : Sound s) : SoundNext (execDetCtrlClear s) := by
  unfold execDetCtrlClear
  exact soundNext_onDevice h (sound_clearTdc h)

/-! ### Boot -/

theorem sound_enterReset {s : State} (_h : Sound s) (cause : Nat) (holds : Holds) : Sound (s.enterReset cause holds)
    :=
  ⟨rfl, rfl, Nat.zero_le _, Nat.zero_le _, Nat.zero_le _, Nat.zero_le _⟩

theorem sound_hold {s : State} (h : Sound s) (cause : Nat) (f : Holds → Holds) : Sound (s.hold cause f) := by
  unfold State.hold
  exact sound_ite (sound_boot h _) (sound_enterReset h _ _)

theorem sound_selfReset {s : State} (h : Sound s) (cause : Nat) : Sound (s.selfReset cause) := by
  unfold State.selfReset
  exact sound_enterReset h _ _

theorem soundNext_execRstNAssert {s : State} (h : Sound s) : SoundNext (execRstNAssert s) := by
  unfold execRstNAssert
  exact soundNext_next (sound_hold h _ _)

theorem soundNext_execRefclkStop {s : State} (h : Sound s) : SoundNext (execRefclkStop s) := by
  unfold execRefclkStop
  exact soundNext_next (sound_hold h _ _)

theorem sound_resetAfter {s : State} (h : Sound s) (cause : Nat) (c : Cmd) : Sound (s.resetAfter cause c) := by
  unfold State.resetAfter
  dsimp only
  refine sound_hostKeep ?_ _ rfl rfl rfl rfl
  exact sound_requestReset h _

theorem soundNext_execCmdReset {s : State} (h : Sound s) (src : Source) : SoundNext (execCmdReset src s) := by
  unfold execCmdReset
  exact soundNext_runCmd h _ _ (fun t d k => sound_doneWith (sound_resetAfter k _ _) _)

theorem soundNext_execResetBegin {s : State} (h : Sound s) : SoundNext (execResetBegin s) := by
  unfold execResetBegin
  refine soundNext_onDevice h ?_
  split
  · exact sound_ite h (sound_selfReset h _)
  · exact h

theorem soundNext_execPrivateMemoryUe {s : State} (h : Sound s) : SoundNext (execPrivateMemoryUe s) := by
  unfold execPrivateMemoryUe
  exact soundNext_onDevice h (sound_selfReset h _)

theorem soundNext_execMgmtWatchdog {s : State} (h : Sound s) : SoundNext (execMgmtWatchdog s) := by
  unfold execMgmtWatchdog
  exact soundNext_onDevice h (sound_ite (sound_selfReset h _) h)

theorem soundNext_execThermalTrip {s : State} (h : Sound s) : SoundNext (execThermalTrip s) := by
  unfold execThermalTrip
  exact soundNext_next (sound_ite (sound_boot h _) (sound_enterReset h _ _))

theorem sound_showFuses {s : State} (h : Sound s) : Sound s.showFuses := by
  unfold State.showFuses
  exact sound_timesFrom (fun s _ k => sound_setReg (sound_setReg k _ _ _ _) _ _ _ _) (sound_put (sound_put (sound_put
      (sound_putBit (sound_stored (sound_put h _ _ _ _) _) _ _ _ _) _ _ _ _) _ _ _ _) _ _ _ _) _ _

theorem sound_entropyDraw {s : State} (h : Sound s) : Sound s.entropyDraw.1 := by
  unfold State.entropyDraw
  exact sound_drawn h

theorem sound_newNonce {s : State} (h : Sound s) : Sound s.newNonce := by
  unfold State.newNonce
  exact sound_boot (sound_entropyDraw h) _

theorem sound_release {s : State} (h : Sound s) (straps : Straps) : Sound (s.release straps) := by
  unfold State.release
  dsimp only
  refine sound_newNonce ?_
  refine sound_showFuses ?_
  refine sound_putBit ?_ _ _ _ _
  refine sound_putBit ?_ _ _ _ _
  refine sound_putBit ?_ _ _ _ _
  refine sound_put ?_ _ _ _ _
  refine sound_put ?_ _ _ _ _
  refine sound_put ?_ _ _ _ _
  refine sound_put ?_ _ _ _ _
  refine sound_put ?_ _ _ _ _
  exact sound_of_same h rfl rfl rfl

theorem soundNext_execResetRelease {s : State} (h : Sound s) (straps : Straps) : SoundNext (execResetRelease straps
    s) := by
  unfold execResetRelease
  exact soundNext_next (sound_ite h (sound_ite (sound_boot h _) (sound_release (sound_boot h _) _)))

theorem soundNext_execResetHoldEnd {s : State} (h : Sound s) (straps : Straps) : SoundNext (execResetHoldEnd straps
    s) := by
  unfold execResetHoldEnd
  exact soundNext_next (sound_ite (sound_ite (sound_release (sound_boot h _) _) (sound_boot h _)) h)

theorem soundNext_execThermalRelease {s : State} (h : Sound s) (straps : Straps) : SoundNext (execThermalRelease
    straps s) := by
  unfold execThermalRelease
  exact soundNext_next (sound_ite (sound_ite (sound_release (sound_setReg (sound_boot h _) _ _ _ _) _) (sound_setReg
      (sound_boot h _) _ _ _ _)) h)

theorem soundNext_execI3cTargetReady {s : State} (h : Sound s) : SoundNext (execI3cTargetReady s) := by
  unfold execI3cTargetReady
  exact soundNext_onDevice h (sound_i3c h _)

theorem soundNext_execHostCsi2Ready {s : State} (h : Sound s) : SoundNext (execHostCsi2Ready s) := by
  unfold execHostCsi2Ready
  exact soundNext_onDevice h (sound_ite h (sound_flushStatus (sound_showTxPorts (sound_hostKeep h _ rfl rfl rfl
      rfl))))

theorem soundNext_execEthLanesStart {s : State} (h : Sound s) : SoundNext (execEthLanesStart s) := by
  unfold execEthLanesStart
  exact soundNext_onDevice h (sound_boot h _)

theorem sound_showBytes {s : State} (h : Sound s) (r : Reg) (n : Nat) (bs : List Byte) : Sound (s.showBytes r n bs)
    := by
  unfold State.showBytes
  exact sound_timesFrom (fun s _ k => sound_setReg k _ _ _ _) h _ _

theorem sound_endLoad {s : State} (h : Sound s) : Sound s.endLoad := by
  unfold State.endLoad
  exact sound_putBit (sound_putBit (sound_boot h _) _ _ _ _) _ _ _ _

theorem sound_fwComplete {s : State} (h : Sound s) (e : Source × Cmd) (bs : List Byte) : Sound (s.fwComplete e bs) :=
    by
  unfold State.fwComplete
  exact sound_ite (sound_finish (sound_bump (sound_endLoad h) _ _ _) _ _ _) (sound_ite (sound_endLoad h)
      (sound_putBit (sound_boot (sound_endLoad h) _) _ _ _ _))

theorem sound_fwProgress {s : State} (h : Sound s) : Sound s.fwProgress := by
  unfold State.fwProgress
  split
  · split
    · exact sound_fwComplete h _ _
    · exact sound_finish (sound_endLoad h) _ _ _
    · exact sound_finish (sound_endLoad h) _ _ _
    · exact h
    · exact sound_ite (sound_fwComplete h _ _) h
  · exact h

theorem soundNext_execCmdFwLoad {s : State} (h : Sound s) (src : Source) : SoundNext (execCmdFwLoad src s) := by
  unfold execCmdFwLoad
  dsimp only
  refine soundNext_onDevice h ?_
  refine sound_fwProgress ?_
  refine sound_startCmd h _ _ (fun t d k => ?_)
  refine sound_ite_fst ?_ ?_
  · exact sound_refuse k _
  · refine sound_ite_fst ?_ ?_
    · exact sound_refuse k _
    · refine sound_ite_fst ?_ ?_
      · exact sound_refuse k _
      · refine sound_ite_fst ?_ ?_
        · exact sound_refuse k _
        · dsimp only
          exact sound_putBit (sound_putBit (sound_boot k _) _ _ _ _) _ _ _ _

theorem soundNext_execCmdFwChunk {s : State} (h : Sound s) (src : Source) : SoundNext (execCmdFwChunk src s) := by
  unfold execCmdFwChunk
  dsimp only
  refine soundNext_onDevice h ?_
  refine sound_fwProgress ?_
  refine sound_startCmd h _ _ (fun t d k => ?_)
  split
  · exact sound_refuse k _
  · refine sound_ite_fst ?_ ?_
    · exact sound_refuse k _
    · refine sound_ite_fst ?_ ?_
      · exact sound_refuse k _
      · exact sound_doneWith (sound_boot k _) _

theorem sound_firmwareTmo {s : State} (h : Sound s) : Sound s.firmwareTmo := by
  unfold State.firmwareTmo
  split
  · split
    · exact sound_ite (sound_finish (sound_endLoad h) _ _ _) h
    · exact h
  · exact h

theorem soundNext_execFirmwareStart {s : State} (h : Sound s) : SoundNext (execFirmwareStart s) := by
  unfold execFirmwareStart
  dsimp only
  refine soundNext_onDevice h ?_
  split
  · exact sound_ite h (sound_finishOp (sound_showBytes (sound_setReg (sound_boot h _) _ _ _ _) _ _ _) _ _ _)
  · exact h

theorem sound_endLoads {s : State} (h : Sound s) : Sound s.endLoads := by
  unfold State.endLoads
  exact sound_timesFrom (fun s i k => sound_finishOp k _ _ _) (sound_endLoad h) _ _

theorem soundNext_execFwRun {s : State} (h : Sound s) : SoundNext (execFwRun s) := by
  unfold execFwRun
  exact soundNext_onDevice h (sound_ite (sound_becomeReady (sound_flushTx (sound_showTxPorts (sound_sendAll
      (sound_showVcore (sound_power (sound_putBit (sound_putBit (sound_endLoads h) _ _ _ _) _ _ _ _) _)))))) h)

theorem soundNext_execIdentityDerived {s : State} (h : Sound s) : SoundNext (execIdentityDerived s) := by
  unfold execIdentityDerived
  exact soundNext_onDevice h (sound_ite (sound_becomeReady (sound_showBytes (sound_boot h _) _ _ _)) h)

theorem soundNext_execLoomStartupTestDone {s : State} (h : Sound s) (failed : List (Fin 64)) : SoundNext
    (execLoomStartupTestDone failed s) := by
  unfold execLoomStartupTestDone
  exact soundNext_onDevice h (sound_ite (sound_becomeReady (sound_boot (sound_fenceAll h _) _)) h)

theorem soundNext_execCmdAttestOpen {s : State} (h : Sound s) (src : Source) : SoundNext (execCmdAttestOpen src s) :=
    by
  unfold execCmdAttestOpen
  dsimp only
  refine soundNext_runCmd h _ _ (fun t d k => ?_)
  refine sound_ite_fst ?_ ?_
  · exact sound_refuse k _
  · refine sound_ite_fst ?_ ?_
    · exact sound_refuse k _
    · dsimp only
      refine sound_put ?_ _ _ _ _
      exact sound_of_same k rfl rfl rfl

theorem soundNext_execAttestOpenDone {s : State} (h : Sound s) : SoundNext (execAttestOpenDone s) := by
  unfold execAttestOpenDone
  dsimp only
  refine soundNext_onDevice h ?_
  split
  · exact sound_finish (sound_put (sound_putBit h _ _ _ _) _ _ _ _) _ _ _
  · exact h

theorem soundNext_execCmdAttest {s : State} (h : Sound s) (src : Source) : SoundNext (execCmdAttest src s) := by
  unfold execCmdAttest
  dsimp only
  refine soundNext_runCmd h _ _ (fun t d k => ?_)
  refine sound_ite_fst ?_ ?_
  · exact sound_refuse k _
  · refine sound_ite_fst ?_ ?_
    · exact sound_refuse k _
    · refine sound_ite_fst ?_ ?_
      · exact sound_refuse k _
      · split
        · exact sound_refuse k _
        · exact k

theorem soundNext_execAttestDone {s : State} (h : Sound s) : SoundNext (execAttestDone s) := by
  unfold execAttestDone
  dsimp only
  refine soundNext_onDevice h ?_
  split
  · split
    · exact sound_finish h _ _ _
    · exact sound_finish (sound_bump (sound_writeData h _ _) _ _ _) _ _ _
  · exact h

theorem soundNext_execCmdLcTransition {s : State} (h : Sound s) (src : Source) : SoundNext (execCmdLcTransition src
    s) := by
  unfold execCmdLcTransition
  dsimp only
  refine soundNext_runCmd h _ _ (fun t d k => ?_)
  refine sound_ite_fst ?_ ?_
  · exact sound_refuse k _
  · refine sound_ite_fst ?_ ?_
    · exact sound_refuse k _
    · dsimp only
      exact sound_boot k _

theorem sound_burnFuses {s : State} (h : Sound s) (b : Nat) (bs : List Byte) (cut : BurnCut) : Sound (s.burnFuses b
    bs cut) := by
  unfold State.burnFuses
  exact sound_ite (sound_fuses (sound_entropyDraw h) _) (sound_ite (sound_fuses (sound_entropyDraw h) _) (sound_ite
      (sound_fuses h _) (sound_fuses h _)))

theorem sound_lcFails {s : State} (h : Sound s) (e : Source × Cmd) (st : Status) : Sound (s.lcFails e st) := by
  unfold State.lcFails
  exact sound_finish (sound_boot h _) _ _ _

theorem soundNext_execLcTransitionDone {s : State} (h : Sound s) : SoundNext (execLcTransitionDone s) := by
  unfold execLcTransitionDone
  dsimp only
  refine soundNext_onDevice h ?_
  split
  · refine sound_ite ?_ ?_
    · exact h
    · split
      · exact sound_lcFails h _ _
      · exact sound_ite (sound_lcFails (sound_readData h _ _) _ _) (sound_ite (sound_lcFails (sound_newNonce
            (sound_readData h _ _)) _ _) (sound_ite (sound_lcFails (sound_putBit (sound_newNonce (sound_readData h _
            _)) _ _ _ _) _ _) (sound_finish (sound_resetAfter (sound_boot (sound_burnFuses (sound_newNonce
            (sound_readData h _ _)) _ _ _) _) _ _) _ _ _)))
  · exact h

theorem sound_cutBurn {s : State} (h : Sound s) (cut : Option BurnCut) : Sound (s.cutBurn cut) := by
  unfold State.cutBurn
  dsimp only
  split
  · exact sound_ite (sound_burnFuses (sound_newNonce (sound_readData h _ _)) _ _ _) h
  · exact h

theorem sound_losePower {s : State} (h : Sound s) : Sound s.losePower := by
  unfold State.losePower
  exact sound_ite (sound_drawn (sound_cutBurn h _)) h

theorem soundNext_execPowerOnReset {s : State} (h : Sound s) : SoundNext (execPowerOnReset s) := by
  unfold execPowerOnReset
  exact soundNext_next (sound_enterReset (sound_losePower h) _ _)

theorem soundNext_execRailFault {s : State} (h : Sound s) : SoundNext (execRailFault s) := by
  unfold execRailFault
  exact soundNext_next (sound_hold (sound_losePower h) _ _)

theorem soundNext_execCmdNop {s : State} (h : Sound s) (src : Source) : SoundNext (execCmdNop src s) := by
  unfold execCmdNop
  exact soundNext_runCmd h _ _ (fun t d k => sound_doneWith k _)

theorem soundNext_execCmdGetInfo {s : State} (h : Sound s) (src : Source) : SoundNext (execCmdGetInfo src s) := by
  unfold execCmdGetInfo
  exact soundNext_runCmd h _ _ (fun t d k => sound_doneWith k _)

/-! ### Ranoz -/

theorem sound_showLanes {s : State} (h : Sound s) : Sound s.showLanes := by
  unfold State.showLanes
  exact sound_put h _ _ _ _

theorem sound_realign {s : State} (h : Sound s) : Sound s.realign := by
  unfold State.realign
  exact sound_showLanes (sound_link h _)

theorem sound_bringUp {s : State} (h : Sound s) : Sound s.bringUp := by
  unfold State.bringUp
  exact sound_putBit (sound_putBit (sound_realign h) _ _ _ _) _ _ _ _

theorem sound_linkFall {s : State} (h : Sound s) : Sound s.linkFall := by
  unfold State.linkFall
  exact sound_remotesDown (sound_bringUp (sound_link (sound_raise (sound_bump (sound_putBit h _ _ _ _) _ _ _) _) _))

theorem sound_nextD2t {s : State} (h : Sound s) : Sound s.nextD2t := by
  unfold State.nextD2t
  dsimp only
  split
  · exact h
  · exact sound_placeD2t (sound_link h _) _

theorem sound_newSession {s : State} (h : Sound s) : Sound s.newSession := by
  unfold State.newSession
  dsimp only
  refine sound_timesFrom (fun s i k => sound_setCredits k _ _) ?_ _ _
  refine sound_putBit ?_ _ _ _ _
  refine sound_putBit ?_ _ _ _ _
  exact sound_of_same h rfl rfl rfl

theorem sound_resendFrames {s : State} (h : Sound s) : Sound s.resendFrames := by
  unfold State.resendFrames
  exact sound_bumpBy (sound_link h _) _ _ _ _

theorem sound_linkRise {s : State} (h : Sound s) (lane : Nat) : Sound (s.linkRise lane) := by
  unfold State.linkRise
  exact sound_ite (sound_link (sound_raise (sound_putBit h _ _ _ _) _) _) (sound_nextD2t (sound_newSession
      (sound_link (sound_raise (sound_putBit h _ _ _ _) _) _)))

theorem sound_sendNull {s : State} (h : Sound s) (nak : Bool) : Sound (s.sendNull nak) := by
  unfold State.sendNull
  exact sound_link h _

theorem sound_startFrames {s : State} (h : Sound s) : Sound s.startFrames := by
  unfold State.startFrames
  dsimp only
  split
  · exact h
  · exact sound_pump (sound_ite (sound_sendNull (sound_ite (sound_resendFrames (sound_link h _)) (sound_link h _)) _)
        (sound_ite (sound_resendFrames (sound_link h _)) (sound_link h _)))

theorem sound_judgeLink {s : State} (h : Sound s) (lane : Nat) : Sound (s.judgeLink lane) := by
  unfold State.judgeLink
  exact sound_ite (sound_ite h (sound_linkFall h)) (sound_ite (sound_linkRise h _) h)

theorem sound_judgeFallback {s : State} (h : Sound s) : Sound s.judgeFallback := by
  unfold State.judgeFallback
  exact sound_ite (sound_realign (sound_putBit h _ _ _ _)) h

theorem sound_laneAfter {s : State} (h : Sound s) (l : Nat) (m : LaneMarker) : Sound (s.laneAfter l m) := by
  unfold State.laneAfter
  exact sound_showLanes (sound_link h _)

theorem soundNext_execRanozMarkerRx {s : State} (h : Sound s) (lane : Fin 8) (marker : LaneMarker) : SoundNext
    (execRanozMarkerRx lane marker s) := by
  unfold execRanozMarkerRx
  exact soundNext_onCore h _ (fun a k => sound_ite k (sound_ite (sound_startFrames (sound_judgeLink
      (sound_judgeFallback (sound_link (sound_ite (sound_put (sound_putBit (sound_putBit (sound_laneAfter
      (sound_bumpBy k _ _ _ _) _ _) _ _ _ _) _ _ _ _) _ _ _ _) (sound_laneAfter (sound_bumpBy k _ _ _ _) _ _)) _))
      _)) (sound_judgeLink (sound_judgeFallback (sound_link (sound_ite (sound_put (sound_putBit (sound_putBit
      (sound_laneAfter (sound_bumpBy k _ _ _ _) _ _) _ _ _ _) _ _ _ _) _ _ _ _) (sound_laneAfter (sound_bumpBy k _ _
      _ _) _ _)) _)) _)))

theorem soundNext_execFallbackTimeout {s : State} (h : Sound s) : SoundNext (execFallbackTimeout s) := by
  unfold execFallbackTimeout
  exact soundNext_onCore h _ (fun a k => sound_ite k (sound_judgeLink (sound_putBit k _ _ _ _) _))

theorem soundNext_execRanozLaneLoss {s : State} (h : Sound s) (lane : Fin 8) : SoundNext (execRanozLaneLoss lane s)
    := by
  unfold execRanozLaneLoss
  exact soundNext_onCore h _ (fun a k => sound_ite k (sound_ite (sound_linkFall (sound_showLanes (sound_link k _)))
      (sound_showLanes (sound_link k _))))

theorem sound_writeLinkCfg {s : State} (h : Sound s) (v : Nat) : Sound (s.writeLinkCfg v) := by
  unfold State.writeLinkCfg
  exact sound_ite h (sound_ite h (sound_ite (sound_linkFall (sound_mergeReg h _ _ _ _)) (sound_bringUp
      (sound_mergeReg h _ _ _ _))))

theorem soundNext_execLinkCfgWrite {s : State} (h : Sound s) (value : Word) : SoundNext (execLinkCfgWrite value s) :=
    by
  unfold execLinkCfgWrite
  exact soundNext_onCore h _ (fun a k => sound_writeLinkCfg k _)

theorem sound_sendNak {s : State} (h : Sound s) : Sound s.sendNak := by
  unfold State.sendNak
  exact sound_ite (sound_sendNull h _) (sound_link h _)

theorem sound_resend {s : State} (h : Sound s) : Sound s.resend := by
  unfold State.resend
  exact sound_ite h (sound_ite (sound_linkFall (sound_resendFrames h)) (sound_link (sound_resendFrames h) _))

theorem sound_takeAck {s : State} (h : Sound s) (ack : Nat) : Sound (s.takeAck ack) := by
  unfold State.takeAck
  dsimp only
  split
  · exact sound_link h _
  · exact h

theorem sound_takeFrame {s : State} (h : Sound s) (f : RxFrame) : Sound (s.takeFrame f) := by
  unfold State.takeFrame
  exact sound_ite (sound_bump (sound_link (sound_bumpBy (sound_link h _) _ _ _ _) _) _ _ _) (sound_ite (sound_link
      (sound_bumpBy (sound_link h _) _ _ _ _) _) (sound_link (sound_bumpBy (sound_link h _) _ _ _ _) _))

theorem sound_badFrame {s : State} (h : Sound s) : Sound s.badFrame := by
  unfold State.badFrame
  exact sound_sendNak (sound_bump h _ _ _)

theorem sound_goodFrame {s : State} (h : Sound s) (f : RxFrame) : Sound (s.goodFrame f) := by
  unfold State.goodFrame
  exact sound_ite (sound_badFrame h) (sound_ite (sound_ite (sound_resend (sound_takeAck h _)) (sound_takeAck h _))
      (sound_takeFrame (sound_ite (sound_resend (sound_takeAck h _)) (sound_takeAck h _)) _))

theorem sound_frameErrors {s : State} (h : Sound s) (l : List Nat) : Sound (s.frameErrors l) := by
  unfold State.frameErrors
  exact sound_bumpBy (sound_link h _) _ _ _ _

theorem soundNext_execRanozFrameRx {s : State} (h : Sound s) (frame : FrameWire) : SoundNext (execRanozFrameRx frame
    s) := by
  unfold execRanozFrameRx
  dsimp only
  refine soundNext_onCore h _ (fun a k => ?_)
  refine sound_ite ?_ ?_
  · exact k
  · split
    · exact k
    · exact sound_ite (sound_goodFrame (sound_frameErrors k _) _) (sound_badFrame (sound_frameErrors k _))

theorem soundNext_execRanozAckTmo {s : State} (h : Sound s) : SoundNext (execRanozAckTmo s) := by
  unfold execRanozAckTmo
  exact soundNext_onCore h _ (fun a k => sound_ite (sound_resend k) k)

theorem soundNext_execRanozNullTmo {s : State} (h : Sound s) : SoundNext (execRanozNullTmo s) := by
  unfold execRanozNullTmo
  exact soundNext_onDevice h (sound_ite (sound_sendNull h _) h)

theorem sound_askHandover {s : State} (h : Sound s) : Sound s.askHandover := by
  unfold State.askHandover
  exact sound_ite (sound_linkSend (sound_twin h _) _ _ _ _) h

theorem soundNext_execCreditReturnRx {s : State} (h : Sound s) (lane : Byte) (credits : Byte × Byte) : SoundNext
    (execCreditReturnRx lane credits s) := by
  unfold execCreditReturnRx
  exact soundNext_onDevice h (sound_ite (sound_askHandover (sound_pump (sound_setCredits h _ _))) h)

theorem sound_writeD2tGo {s : State} (h : Sound s) (v : Nat) : Sound (s.writeD2tGo v) := by
  unfold State.writeD2tGo
  exact sound_ite h (sound_placeD2t h _)

theorem soundNext_execMbxD2tGoWrite {s : State} (h : Sound s) (value : Word) : SoundNext (execMbxD2tGoWrite value s)
    := by
  unfold execMbxD2tGoWrite
  exact soundNext_onDevice h (sound_ite (sound_writeD2tGo h _) h)

theorem soundNext_execMbxFrameRx {s : State} (h : Sound s) : SoundNext (execMbxFrameRx s) := by
  unfold execMbxFrameRx
  exact soundNext_onDevice h (sound_onFrame h _ _ (fun a _ k => sound_ite k (sound_ite (sound_putBit (sound_fillBox k
      _ _) _ _ _ _) (sound_takePacket (sound_putBit (sound_fillBox k _ _) _ _ _ _) _ _ _))))

theorem soundNext_execMbxT2dGoRead {s : State} (h : Sound s) : SoundNext (execMbxT2dGoRead s) := by
  unfold execMbxT2dGoRead
  exact soundNext_onDevice h (sound_ite (sound_linkSend (sound_putBit h _ _ _ _) _ _ _ _) h)

theorem soundNext_execMbxAckRx {s : State} (h : Sound s) : SoundNext (execMbxAckRx s) := by
  unfold execMbxAckRx
  exact soundNext_onDevice h (sound_onFrame h _ _ (fun a _ k => sound_nextD2t (sound_putBit k _ _ _ _)))

theorem soundNext_execCmdLaneTest {s : State} (h : Sound s) (src : Source) : SoundNext (execCmdLaneTest src s) := by
  unfold execCmdLaneTest
  dsimp only
  refine soundNext_onCore h _ (fun a k => ?_)
  refine sound_startCmd k _ _ (fun t d k' => ?_)
  refine sound_ite_fst ?_ ?_
  · exact sound_refuse k' _
  · refine sound_ite_fst ?_ ?_
    · exact sound_refuse k' _
    · refine sound_ite_fst ?_ ?_
      · exact sound_refuse k' _
      · refine sound_ite_fst ?_ ?_
        · exact k'
        · dsimp only
          exact sound_ite (sound_linkFall k') (sound_bringUp k')

theorem soundNext_execLaneTestEnd {s : State} (h : Sound s) (errors bits : Nat) : SoundNext (execLaneTestEnd errors
    bits s) := by
  unfold execLaneTestEnd
  dsimp only
  refine soundNext_onCore h _ (fun a k => ?_)
  split
  · exact sound_ite (sound_finish k _ _ _) (sound_ite (sound_linkFall (sound_finish k _ _ _)) (sound_bringUp
        (sound_finish k _ _ _)))
  · exact k

/-! ### Twin -/

theorem soundNext_execHeartbeatSend {s : State} (h : Sound s) : SoundNext (execHeartbeatSend s) := by
  unfold execHeartbeatSend
  exact soundNext_onDevice h (sound_ite (sound_linkSend (sound_twin h _) _ _ _ _) h)

theorem sound_latency {s : State} (h : Sound s) (f : RzFrame) : Sound (s.latency f) := by
  unfold State.latency
  split
  · exact sound_ite h (sound_put h _ _ _ _)
  · exact h

theorem sound_followPartner {s : State} (h : Sound s) (f : RzFrame) : Sound (s.followPartner f) := by
  unfold State.followPartner
  exact sound_servo (sound_ite (sound_stepTime (sound_stored (sound_putBit (sound_setDom h _ _) _ _ _ _) _) _)
      (sound_setDom h _ _))

theorem sound_mirrorBob {s : State} (h : Sound s) (id : Nat) : Sound (s.mirrorBob id) := by
  unfold State.mirrorBob
  dsimp only
  refine sound_ite ?_ ?_
  · refine sound_mirror ?_ _ _
    split
    · exact sound_mirror (sound_mirror h _ _) _ _
    · exact sound_mirror h _ _
  · refine sound_ite ?_ ?_
    · refine sound_mirror ?_ _ _
      split
      · exact sound_mirror (sound_mirror h _ _) _ _
      · exact sound_mirror h _ _
    · split
      · exact sound_mirror (sound_mirror h _ _) _ _
      · exact sound_mirror h _ _

theorem sound_sendSnapshot {s : State} (h : Sound s) : Sound s.sendSnapshot := by
  unfold State.sendSnapshot
  exact sound_putBit (sound_mirror (sound_mirrorModel (sound_foldState (fun s a k => sound_mirrorModel k _ _ _)
      (sound_mirrorModel (sound_foldState (fun s a k => sound_mirrorBob k _) (sound_twin h _) _) _ _ _) _) _ _ _) _
      _) _ _ _ _

theorem sound_unsync {s : State} (h : Sound s) : Sound s.unsync := by
  unfold State.unsync
  exact sound_putBit (sound_twin h _) _ _ _ _

theorem sound_validBeat {s : State} (h : Sound s) (f : RzFrame) (partner : Nat) : Sound (s.validBeat f partner) := by
  unfold State.validBeat
  exact sound_ite (sound_followPartner (sound_putBit (sound_put (sound_put (sound_twin h _) _ _ _ _) _ _ _ _) _ _ _
      _) _) (sound_putBit (sound_put (sound_put (sound_twin h _) _ _ _ _) _ _ _ _) _ _ _ _)

theorem soundNext_execHeartbeatRx {s : State} (h : Sound s) : SoundNext (execHeartbeatRx s) := by
  unfold execHeartbeatRx
  exact soundNext_onDevice h (sound_onFrame h _ _ (fun a _ k => sound_ite k (sound_ite (sound_ite (sound_latency
      (sound_twin k _) _) (sound_validBeat (sound_latency (sound_twin k _) _) _ _)) (sound_ite (sound_ite
      (sound_unsync (sound_ite (sound_latency (sound_twin k _) _) (sound_validBeat (sound_latency (sound_twin k _) _)
      _ _))) (sound_ite (sound_latency (sound_twin k _) _) (sound_validBeat (sound_latency (sound_twin k _) _) _ _)))
      (sound_ite (sound_ite (sound_latency (sound_twin k _) _) (sound_validBeat (sound_latency (sound_twin k _) _) _
      _)) (sound_sendSnapshot (sound_ite (sound_latency (sound_twin k _) _) (sound_validBeat (sound_latency
      (sound_twin k _) _) _ _))))))))

theorem sound_setRole {s : State} (h : Sound s) (role hot policy : Nat) : Sound (s.setRole role hot policy) := by
  unfold State.setRole
  exact sound_raise (sound_stored (sound_put (sound_put (sound_put h _ _ _ _) _ _ _ _) _ _ _ _) _) _

theorem sound_resolveWaiting {s : State} (h : Sound s) : Sound s.resolveWaiting := by
  unfold State.resolveWaiting
  exact sound_foldState (fun s a k => sound_applyVerdict k _ _) (sound_twin h _) _

theorem sound_leaveStandby {s : State} (h : Sound s) : Sound s.leaveStandby := by
  unfold State.leaveStandby
  exact sound_drainGate (sound_putBit (sound_bobs h _) _ _ _ _)

theorem sound_takeRole {s : State} (h : Sound s) (role hot policy : Nat) : Sound (s.takeRole role hot policy) := by
  unfold State.takeRole
  exact sound_servo (sound_ite (sound_setField (sound_setDom (sound_unsync (sound_setRole h _ _ _)) _ _) _ _ _)
      (sound_ite (sound_leaveStandby (sound_setDom (sound_unsync (sound_setRole h _ _ _)) _ _)) (sound_ite
      (sound_resolveWaiting (sound_setDom (sound_unsync (sound_setRole h _ _ _)) _ _)) (sound_setDom (sound_unsync
      (sound_setRole h _ _ _)) _ _))))

theorem soundNext_execCmdTwinRole {s : State} (h : Sound s) (src : Source) : SoundNext (execCmdTwinRole src s) := by
  unfold execCmdTwinRole
  dsimp only
  refine soundNext_runCmd h _ _ (fun t d k => ?_)
  refine sound_ite_fst ?_ ?_
  · exact sound_refuse k _
  · refine sound_ite_fst ?_ ?_
    · exact sound_refuse k _
    · refine sound_ite_fst ?_ ?_
      · exact sound_refuse k _
      · refine sound_ite_fst ?_ ?_
        · exact sound_refuse k _
        · exact sound_doneWith (sound_takeRole k _ _ _) _

theorem soundNext_execCmdTwinStatus {s : State} (h : Sound s) (src : Source) : SoundNext (execCmdTwinStatus src s) :=
    by
  unfold execCmdTwinStatus
  exact soundNext_runCmd h _ _ (fun t d k => sound_doneWith k _)

theorem sound_setOffset {s : State} (h : Sound s) (c : Nat) (d : Int) : Sound (s.setOffset c d) := by
  unfold State.setOffset
  exact sound_putBit (sound_putCount (sound_ite h (sound_bump h _ _ _)) _ _ _ _) _ _ _ _

theorem sound_pairIndex {s : State} (h : Sound s) (c : Nat) : Sound (s.pairIndex c) := by
  unfold State.pairIndex
  dsimp only
  split
  · exact sound_ite (sound_setOffset (sound_twin h _) _ _) h
  · exact h

theorem soundNext_execFieldIndexReport {s : State} (h : Sound s) : SoundNext (execFieldIndexReport s) := by
  unfold execFieldIndexReport
  dsimp only
  refine soundNext_onReport h _ (fun a _ k => ?_)
  split
  · refine soundOpt_some ?_
    split
    · exact k
    · exact sound_ite (sound_pairIndex (sound_twin (sound_putCount k _ _ _ _) _) _) (sound_mirror (sound_putCount k _
          _ _ _) _ _)
  · exact soundOpt_none

theorem sound_mirrorCreate {s : State} (h : Sound s) (f : RzFrame) : Sound (s.mirrorCreate f) := by
  unfold State.mirrorCreate
  dsimp only
  refine sound_ite ?_ ?_
  · exact h
  · split
    · exact sound_tapsCreated (sound_foldState (fun s a k' => sound_takeStored (sound_takeHoles (sound_takeFloor k' _
          _) _ _) _ _) (sound_sendEntry (sound_showBobs (sound_put (sound_setBob (sound_lastBob (sound_ite h
          (sound_retireBob h _)) _) _ _) _ _ _ _)) _ _ _ _ _ _ _ _) _) _
    · exact sound_ite (sound_showBobs (sound_put (sound_setBob (sound_lastBob (sound_ite h (sound_retireBob h _)) _)
          _ _) _ _ _ _)) (sound_bump (sound_showBobs (sound_put (sound_setBob (sound_lastBob (sound_ite h
          (sound_retireBob h _)) _) _ _) _ _ _ _)) _ _ _)

theorem sound_mirrorAmend {s : State} (h : Sound s) (id action : Nat) : Sound (s.mirrorAmend id action) := by
  unfold State.mirrorAmend
  dsimp only
  split
  · exact sound_ite h (sound_field (sound_setBob h _ _) _)
  · exact h

theorem sound_mirrorResult {s : State} (h : Sound s) (id code : Nat) : Sound (s.mirrorResult id code) := by
  unfold State.mirrorResult
  exact sound_ite h (sound_ite (sound_finalDiff (sound_setBob h _ _) _) (sound_setBob h _ _))

theorem sound_mirrorFree {s : State} (h : Sound s) (id : Nat) : Sound (s.mirrorFree id) := by
  unfold State.mirrorFree
  exact sound_ite h (sound_retireBob (sound_field h _) _)

theorem sound_compareModels {s : State} (h : Sound s) : Sound s.compareModels := by
  unfold State.compareModels
  exact sound_putBit h _ _ _ _

theorem sound_mirrorModels {s : State} (h : Sound s) (id crc kind : Nat) : Sound (s.mirrorModels id crc kind) := by
  unfold State.mirrorModels
  exact sound_ite (sound_twin h _) (sound_compareModels (sound_twin h _))

theorem sound_mirrorBuild {s : State} (h : Sound s) (id base : Nat) : Sound (s.mirrorBuild id base) := by
  have ht : ∀ l, Sound { s with twin := { s.twin with peerPar := l } } := fun l => sound_twin h _
  unfold State.mirrorBuild
  dsimp only
  split
  · rename_i u e
    obtain ⟨m, -, hu⟩ := Option.bind_eq_some_iff.mp e
    exact soundOpt_enterCommit (ht _) _ _ _ u hu
  · exact sound_putBit (sound_bump (ht _) _ _ _) _ _ _ _

theorem sound_mirrorIndex {s : State} (h : Sound s) (f : RzFrame) : Sound (s.mirrorIndex f) := by
  unfold State.mirrorIndex
  exact sound_pairIndex (sound_twin h _) _

theorem soundNext_execMirrorRx {s : State} (h : Sound s) : SoundNext (execMirrorRx s) := by
  unfold execMirrorRx
  exact soundNext_onDevice h (sound_onFrame h _ _ (fun a _ k => sound_ite k (sound_ite (sound_mirrorCreate k _)
      (sound_ite (sound_mirrorAmend k _ _) (sound_ite (sound_mirrorResult k _ _) (sound_ite (sound_mirrorFree k _)
      (sound_ite (sound_mirrorIndex k _) (sound_ite (sound_mirrorModels k _ _ _) (sound_ite (sound_mirrorBuild k _ _)
      (sound_ite (sound_twin k _) (sound_ite (sound_putBit k _ _ _ _) k)))))))))))

theorem soundNext_execVerdictRx {s : State} (h : Sound s) : SoundNext (execVerdictRx s) := by
  unfold execVerdictRx
  dsimp only
  refine soundNext_onDevice h ?_
  refine sound_onFrame h _ _ (fun a _ k => ?_)
  refine sound_ite ?_ ?_
  · exact k
  · split
    · exact sound_crossCheck k _ _ _
    · exact sound_ite k (sound_twin k _)

theorem soundNext_execXcheckWaitExpire {s : State} (h : Sound s) (bobbin : Fin 4096) : SoundNext
    (execXcheckWaitExpire bobbin s) := by
  unfold execXcheckWaitExpire
  dsimp only
  refine soundNext_onDevice h ?_
  split
  · exact sound_ite (sound_applyVerdict (sound_bump (sound_twin h _) _ _ _) _ _) h
  · exact h

theorem soundNext_execPartnerLost {s : State} (h : Sound s) : SoundNext (execPartnerLost s) := by
  unfold execPartnerLost
  exact soundNext_onDevice h (sound_ite (sound_resolveWaiting (sound_putBit (sound_twin h _) _ _ _ _)) h)

theorem sound_standHole {s : State} (h : Sound s) (lo : Int) (p : Nat) : Sound (s.standHole lo p) := by
  unfold State.standHole
  exact sound_ite (sound_foldState (fun s a k => sound_placeFor (sound_markStood (sound_markHole k _ _) _) _ _ _ _)
      (sound_setCam h _ _) _) h

theorem sound_becomeActive {s : State} (h : Sound s) : Sound s.becomeActive := by
  unfold State.becomeActive
  exact sound_servo (sound_setDom (sound_ite (sound_foldState (fun s a k => sound_applyVerdict k _ _) (sound_twin
      (sound_foldState (fun s a k => sound_bobRecord k _ _) (sound_setField (sound_unsync (sound_raise (sound_stored
      (sound_put h _ _ _ _) _) _)) _ _ _) _) _) _) (sound_timesFrom (fun s _ k => sound_standHole k _ _)
      (sound_foldState (fun s a k => sound_ite (sound_endCompute k _) k) (sound_twin (sound_foldState (fun s a k =>
      sound_bobRecord k _ _) (sound_setField (sound_unsync (sound_raise (sound_stored (sound_put h _ _ _ _) _) _)) _
      _ _) _) _) _) _ _)) _ _)

theorem sound_markTaken {s : State} (h : Sound s) : Sound s.markTaken := by
  unfold State.markTaken
  exact sound_foldState (fun s a k => sound_setBob k _ _) h _

theorem soundNext_execTakeoverTmo {s : State} (h : Sound s) : SoundNext (execTakeoverTmo s) := by
  unfold execTakeoverTmo
  exact soundNext_onDevice h (sound_ite (sound_bump (sound_putBit (sound_becomeActive (sound_markTaken h)) _ _ _ _) _
      _ _) h)

theorem soundNext_execCmdTwinHandover {s : State} (h : Sound s) (src : Source) : SoundNext (execCmdTwinHandover src
    s) := by
  unfold execCmdTwinHandover
  dsimp only
  refine soundNext_onDevice h ?_
  refine sound_askHandover ?_
  refine sound_startCmd h _ _ (fun t d k => ?_)
  refine sound_ite_fst ?_ ?_
  · exact sound_refuse k _
  · refine sound_ite_fst ?_ ?_
    · exact sound_refuse k _
    · dsimp only
      exact sound_twin k _

theorem sound_handedOver {s : State} (h : Sound s) : Sound s.handedOver := by
  unfold State.handedOver
  exact sound_servo (sound_finishOp (sound_bump (sound_twin (sound_setField (sound_unsync (sound_raise (sound_stored
      (sound_put h _ _ _ _) _) _)) _ _ _) _) _ _ _) _ _ _)

theorem soundNext_execTwinCtlRx {s : State} (h : Sound s) : SoundNext (execTwinCtlRx s) := by
  unfold execTwinCtlRx
  exact soundNext_onDevice h (sound_onFrame h _ _ (fun a _ k => sound_ite (sound_gateTaken (sound_twin
      (sound_becomeActive k) _)) (sound_ite (sound_handedOver k) k)))

theorem soundNext_execHandoverTmo {s : State} (h : Sound s) : SoundNext (execHandoverTmo s) := by
  unfold execHandoverTmo
  exact soundNext_onDevice h (sound_ite (sound_finishOp (sound_twin h _) _ _ _) h)

/-! ### HostRx -/

theorem sound_rxCommand {s : State} (h : Sound s) (vc : Fin 4) (bs : List Byte) : Sound (s.rxCommand vc bs) := by
  unfold State.rxCommand
  exact sound_ite (sound_rxDiscard h) (sound_takePacket (sound_fwProgress (sound_truncateBulk h _)) _ _ _)

theorem soundNext_execHostRxCommand {s : State} (h : Sound s) (packet : RxPacket) : SoundNext (execHostRxCommand
    packet s) := by
  unfold execHostRxCommand
  exact soundNext_onDevice h (sound_rxFilter h _ _ (fun a _ k => sound_rxCommand k _ _))

theorem soundNext_execHostRxBulk {s : State} (h : Sound s) (packet : RxPacket) : SoundNext (execHostRxBulk packet s)
    := by
  unfold execHostRxBulk
  exact soundNext_onDevice h (sound_rxFilter h _ _ (fun a _ k => sound_fwProgress (sound_takeBulk k _ _)))

theorem soundNext_execBulkTmoExpire {s : State} (h : Sound s) (what : BulkWait) : SoundNext (execBulkTmoExpire what
    s) := by
  unfold execBulkTmoExpire
  refine soundNext_onDevice h ?_
  refine sound_ite ?_ ?_
  · exact h
  · split
    · exact sound_fwProgress (sound_mapAwaiting h _ _)
    · exact sound_noteDefers (sound_sampleTmo h _)
    · exact sound_modelTmo h
    · exact sound_firmwareTmo h

theorem soundNext_execVerdictHoldExpire {s : State} (h : Sound s) : SoundNext (execVerdictHoldExpire s) := by
  unfold execVerdictHoldExpire
  exact soundNext_onDevice h (sound_formVerdicts h _)

theorem sound_placed {s t : State} (h : Sound s) (h1 : Sound t) : Sound (s.placed t) := by
  unfold State.placed
  exact sound_ite (sound_flushTx (sound_showTxPorts h1)) (sound_putBit h _ _ _ _)

theorem sound_writeTxMap {s : State} (h : Sound s) (v : Nat) : Sound (s.writeTxMap v) := by
  unfold State.writeTxMap
  exact sound_placed h (sound_mergeReg h _ _ _ _)

theorem sound_writeTxVc {s : State} (h : Sound s) (k v : Nat) : Sound (s.writeTxVc k v) := by
  unfold State.writeTxVc
  exact sound_ite (sound_placed h (sound_mergeReg h _ _ _ _)) (sound_placed h (sound_mergeReg h _ _ _ _))

theorem soundNext_execHostTxMapWrite {s : State} (h : Sound s) (value : Word) : SoundNext (execHostTxMapWrite value
    s) := by
  unfold execHostTxMapWrite
  exact soundNext_onDevice h (sound_writeTxMap h _)

theorem soundNext_execHostTxVcWrite {s : State} (h : Sound s) (index : Fin 4) (value : Word) : SoundNext
    (execHostTxVcWrite index value s) := by
  unfold execHostTxVcWrite
  exact soundNext_onDevice h (sound_writeTxVc h _ _)

/-! ### I3c -/

theorem sound_respond {s : State} (h : Sound s) (bs : List Byte) : Sound (s.respond bs) := by
  unfold State.respond
  exact sound_i3c h _

theorem sound_silent {s : State} (h : Sound s) : Sound s.silent := by
  unfold State.silent
  exact sound_i3c h _

theorem sound_nextD2h {s : State} (h : Sound s) : Sound s.nextD2h := by
  unfold State.nextD2h
  split
  · exact h
  · rename_i ws t e
    have hlen : t.length ≤ 64 := by
      have := h.replies
      rw [e, List.length_cons] at this
      omega
    exact sound_placeD2h (sound_host h { s.host with d2hQueue := t } hlen h.status h.stats h.records) ws

theorem sound_freeD2h {s : State} (h : Sound s) : Sound s.freeD2h := by
  unfold State.freeD2h
  dsimp only
  refine sound_hostKeep ?_ _ rfl rfl rfl rfl
  exact sound_put (sound_putBit h _ _ _ _) _ _ _ _

theorem sound_readD2hGo {s : State} (h : Sound s) : Sound s.readD2hGo := by
  unfold State.readD2hGo
  exact sound_ite (sound_nextD2h (sound_freeD2h h)) h

theorem sound_d2hExpire {s : State} (h : Sound s) : Sound s.d2hExpire := by
  unfold State.d2hExpire
  exact sound_ite (sound_nextD2h (sound_raise (sound_bump (sound_sendStatus (sound_freeD2h h) _) _ _ _) _)) h

theorem sound_collide {s : State} (h : Sound s) : Sound s.collide := by
  unfold State.collide
  exact sound_putBit h _ _ _ _

theorem sound_writeH2dGo {s : State} (h : Sound s) (v : Nat) : Sound (s.writeH2dGo v) := by
  unfold State.writeH2dGo
  dsimp only
  refine sound_ite ?_ ?_
  · exact sound_collide h
  · refine sound_ite ?_ ?_
    · refine sound_hostKeep ?_ _ rfl rfl rfl rfl
      exact sound_putBit h _ _ _ _
    · exact h

theorem sound_wakeH2d {s : State} (h : Sound s) : Sound s.wakeH2d := by
  unfold State.wakeH2d
  dsimp only
  refine sound_ite ?_ ?_
  · refine sound_takePacket ?_ _ _ _
    refine sound_hostKeep ?_ _ rfl rfl rfl rfl
    exact sound_putBit h _ _ _ _
  · exact h

theorem sound_writeIbiCause {s : State} (h : Sound s) (v : Nat) : Sound (s.writeIbiCause v) := by
  unfold State.writeIbiCause
  exact sound_ite (sound_requestIbi (sound_setReg h _ _ _ _)) (sound_setReg h _ _ _ _)

theorem sound_writeIbiEn {s : State} (h : Sound s) (v : Nat) : Sound (s.writeIbiEn v) := by
  unfold State.writeIbiEn
  exact sound_ite (sound_requestIbi (sound_put h _ _ _ _)) (sound_put h _ _ _ _)

theorem sound_writeHostStatus {s : State} (h : Sound s) (v : Nat) : Sound (s.writeHostStatus v) := by
  unfold State.writeHostStatus
  exact sound_ite (sound_putBit h _ _ _ _) h

theorem sound_windowWrite {s : State} (h : Sound s) (off : Nat) (v : Word) : Sound (s.windowWrite off v) := by
  unfold State.windowWrite
  exact sound_ite (sound_ite (sound_collide h) (sound_setReg h _ _ _ _)) (sound_ite (sound_writeH2dGo h _) (sound_ite
      (sound_writeHostStatus h _) (sound_ite (sound_writeIbiCause h _) (sound_ite (sound_writeIbiEn h _) h))))

theorem sound_windowWrites {s : State} (h : Sound s) (a : Nat) (ws : List Word) : Sound (s.windowWrites a ws) := by
  induction ws generalizing s a with
  | nil => exact h
  | cons v t ih => exact ih (sound_windowWrite h a v) (a + 4)

theorem sound_windowReads {s : State} (h : Sound s) (n off : Nat) : Sound (s.windowReads n off).1 := by
  induction n generalizing s off with
  | zero => exact h
  | succ n ih => exact ih (sound_ite (sound_readD2hGo h) h) (off + 4)

theorem soundNext_execI3cPrivateWrite {s : State} (h : Sound s) (data : List Byte) : SoundNext (execI3cPrivateWrite
    data s) := by
  unfold execI3cPrivateWrite
  dsimp only
  refine soundNext_onSdr h ?_
  split
  · exact sound_ite (sound_i3c h _) (sound_ite (sound_i3c (sound_i3c h _) _) (sound_windowWrites (sound_i3c h _) _ _))
  · exact sound_i3c h _

theorem soundNext_execI3cPrivateRead {s : State} (h : Sound s) (count : Nat) : SoundNext (execI3cPrivateRead count s)
    := by
  unfold execI3cPrivateRead
  exact soundNext_onSdr h (sound_respond (sound_i3c (sound_windowReads (sound_i3c h _) _ _) _) _)

theorem soundNext_execHdrDdrTransfer {s : State} (h : Sound s) (code : BitVec 8) (data : List (BitVec 16)) (count :
    Nat) (crcOk : Bool) : SoundNext (execHdrDdrTransfer code data count crcOk s) := by
  unfold execHdrDdrTransfer
  exact soundNext_onBus h (sound_ite h (sound_ite (sound_ite (sound_windowWrites h _ _) (sound_i3c h _))
      (sound_respond (sound_windowReads h _ _) _)))

theorem soundNext_execEnec {s : State} (h : Sound s) (_dest : CccTo) : SoundNext (execEnec _dest s) := by
  unfold execEnec
  exact soundNext_onSdr h (sound_ite (sound_requestIbi (sound_i3c (sound_i3c h _) _)) (sound_i3c (sound_i3c h _) _))

theorem soundNext_execDisec {s : State} (h : Sound s) (_dest : CccTo) : SoundNext (execDisec _dest s) := by
  unfold execDisec
  exact soundNext_onSdr h (sound_i3c (sound_i3c h _) _)

theorem soundNext_execRstdaa {s : State} (h : Sound s) : SoundNext (execRstdaa s) := by
  unfold execRstdaa
  exact soundNext_onSdr h (sound_i3c (sound_i3c h _) _)

theorem soundNext_execEntdaa {s : State} (h : Sound s) (address : BitVec 7) : SoundNext (execEntdaa address s) := by
  unfold execEntdaa
  exact soundNext_onSdr h (sound_ite (sound_silent (sound_i3c h _)) (sound_respond (sound_i3c (sound_i3c h _) _) _))

theorem soundNext_execSetaasa {s : State} (h : Sound s) : SoundNext (execSetaasa s) := by
  unfold execSetaasa
  exact soundNext_onSdr h (sound_i3c (sound_i3c h _) _)

theorem soundNext_execSetdasa {s : State} (h : Sound s) (address : BitVec 7) : SoundNext (execSetdasa address s) := by
  unfold execSetdasa
  exact soundNext_onSdr h (sound_i3c (sound_i3c h _) _)

theorem soundNext_execSetnewda {s : State} (h : Sound s) (address : BitVec 7) : SoundNext (execSetnewda address s) :=
    by
  unfold execSetnewda
  exact soundNext_onSdr h (sound_i3c (sound_i3c h _) _)

theorem soundNext_execSetmwl {s : State} (h : Sound s) (_dest : CccTo) (limit : Nat) : SoundNext (execSetmwl _dest
    limit s) := by
  unfold execSetmwl
  exact soundNext_onSdr h (sound_ite (sound_i3c (sound_i3c h _) _) (sound_i3c h _))

theorem soundNext_execSetmrl {s : State} (h : Sound s) (_dest : CccTo) (limit : Nat) : SoundNext (execSetmrl _dest
    limit s) := by
  unfold execSetmrl
  exact soundNext_onSdr h (sound_ite (sound_i3c (sound_i3c h _) _) (sound_i3c h _))

theorem soundNext_execGetmwl {s : State} (h : Sound s) : SoundNext (execGetmwl s) := by
  unfold execGetmwl
  exact soundNext_onSdr h (sound_respond (sound_i3c h _) _)

theorem soundNext_execGetmrl {s : State} (h : Sound s) : SoundNext (execGetmrl s) := by
  unfold execGetmrl
  exact soundNext_onSdr h (sound_respond (sound_i3c h _) _)

theorem soundNext_execGetpid {s : State} (h : Sound s) : SoundNext (execGetpid s) := by
  unfold execGetpid
  exact soundNext_onSdr h (sound_respond (sound_i3c h _) _)

theorem soundNext_execGetbcr {s : State} (h : Sound s) : SoundNext (execGetbcr s) := by
  unfold execGetbcr
  exact soundNext_onSdr h (sound_respond (sound_i3c h _) _)

theorem soundNext_execGetdcr {s : State} (h : Sound s) : SoundNext (execGetdcr s) := by
  unfold execGetdcr
  exact soundNext_onSdr h (sound_respond (sound_i3c h _) _)

theorem soundNext_execGetstatus {s : State} (h : Sound s) : SoundNext (execGetstatus s) := by
  unfold execGetstatus
  exact soundNext_onSdr h (sound_respond (sound_i3c (sound_i3c h _) _) _)

theorem soundNext_execGetmxds {s : State} (h : Sound s) : SoundNext (execGetmxds s) := by
  unfold execGetmxds
  exact soundNext_onSdr h (sound_respond (sound_i3c h _) _)

theorem soundNext_execGetcaps {s : State} (h : Sound s) : SoundNext (execGetcaps s) := by
  unfold execGetcaps
  exact soundNext_onSdr h (sound_respond (sound_i3c h _) _)

theorem soundNext_execEnthdr0 {s : State} (h : Sound s) : SoundNext (execEnthdr0 s) := by
  unfold execEnthdr0
  exact soundNext_onBus h (sound_i3c h _)

theorem soundNext_execEntas {s : State} (h : Sound s) (_level : Fin 4) : SoundNext (execEntas _level s) := by
  unfold execEntas
  exact soundNext_onSdr h (sound_i3c h _)

theorem sound_clearBox {s : State} (h : Sound s) (data : Reg) (full : Fld) : Sound (s.clearBox data full) := by
  unfold State.clearBox
  exact sound_timesFrom (fun s _ k => sound_setReg k _ _ _ _) (sound_putBit h _ _ _ _) _ _

theorem sound_resetTarget {s : State} (h : Sound s) : Sound s.resetTarget := by
  unfold State.resetTarget
  extract_lets t u
  have hu : Sound u := sound_put (sound_clearBox (sound_clearBox h _ _) _ _) _ _ _ _
  clear_value u
  exact sound_nextD2h (sound_of_hostKeep hu rfl rfl rfl rfl rfl rfl)

theorem soundNext_execRstact {s : State} (h : Sound s) (_dest : CccTo) (defining : Byte) : SoundNext (execRstact
    _dest defining s) := by
  unfold execRstact
  exact soundNext_onSdr h (sound_ite (sound_resetTarget (sound_i3c h _)) (sound_i3c h _))

theorem soundNext_execCccUnlisted {s : State} (h : Sound s) (dest : CccTo) (_code : BitVec 8) : SoundNext
    (execCccUnlisted dest _code s) := by
  unfold execCccUnlisted
  refine soundNext_onSdr h ?_
  split
  · exact sound_silent (sound_i3c h _)
  · exact sound_i3c h _

theorem soundNext_execHostIbiCauseWrite {s : State} (h : Sound s) (value : Word) : SoundNext (execHostIbiCauseWrite
    value s) := by
  unfold execHostIbiCauseWrite
  exact soundNext_onDevice h (sound_writeIbiCause h _)

theorem soundNext_execIbiDelivered {s : State} (h : Sound s) : SoundNext (execIbiDelivered s) := by
  unfold execIbiDelivered
  exact soundNext_onBus h (sound_ite (sound_i3c h _) h)

theorem soundNext_execMbxH2dGoWrite {s : State} (h : Sound s) (value : Word) : SoundNext (execMbxH2dGoWrite value s)
    := by
  unfold execMbxH2dGoWrite
  exact soundNext_onBus h (sound_writeH2dGo h _)

theorem soundNext_execMbxWake {s : State} (h : Sound s) : SoundNext (execMbxWake s) := by
  unfold execMbxWake
  exact soundNext_onDevice h (sound_wakeH2d h)

theorem soundNext_execMbxD2hGoRead {s : State} (h : Sound s) : SoundNext (execMbxD2hGoRead s) := by
  unfold execMbxD2hGoRead
  exact soundNext_onBus h (sound_respond (sound_readD2hGo h) _)

theorem soundNext_execMbxWatchdogExpire {s : State} (h : Sound s) : SoundNext (execMbxWatchdogExpire s) := by
  unfold execMbxWatchdogExpire
  exact soundNext_onDevice h (sound_d2hExpire h)

/-! ### Access -/

theorem sound_latchHigh {s : State} (h : Sound s) (r : Reg) (i j : Nat) : Sound (s.latchHigh r i j) := by
  unfold State.latchHigh
  exact sound_foldState (fun s a k => sound_ite (sound_latch k _) k) h _

theorem sound_readClear {s : State} (h : Sound s) (r : Reg) (i j : Nat) : Sound (s.readClear r i j) := by
  unfold State.readClear
  exact sound_ite h (sound_setReg h _ _ _ _)

theorem sound_readReg {s : State} (h : Sound s) (r : Reg) (i j : Nat) : Sound (s.readReg r i j).1 := by
  unfold State.readReg
  dsimp only
  refine sound_ite_fst ?_ ?_
  · exact sound_readTxts h _
  · split
    · exact h
    · refine sound_ite ?_ ?_
      · refine sound_latchTime ?_
        refine sound_readClear ?_ _ _ _
        refine sound_latchHigh ?_ _ _ _
        split
        · exact sound_readCritical h _
        · exact h
      · refine sound_readClear ?_ _ _ _
        refine sound_latchHigh ?_ _ _ _
        split
        · exact sound_readCritical h _
        · exact h

theorem sound_readWord {s : State} (h : Sound s) (a : Nat) : Sound (s.readWord a).1 := by
  unfold State.readWord
  dsimp only
  refine sound_ite_fst ?_ ?_
  · exact h
  · split
    · exact h
    · split
      · exact h
      · refine sound_ite_fst ?_ ?_
        · exact h
        · dsimp only
          exact sound_readReg h _ _ _
    · split
      · exact h
      · exact sound_readData h _ _

theorem sound_readWords {s : State} (h : Sound s) (n a : Nat) : Sound (s.readWords n a).1 := by
  induction n generalizing s a with
  | zero => exact h
  | succ n ih =>
    unfold State.readWords
    dsimp only
    split
    · exact sound_readWord h a
    · exact ih (sound_readWord h a) (a + 4)

theorem soundNext_execCmdMemRead {s : State} (h : Sound s) (src : Source) (flaws : List (Nat × Flaw)) : SoundNext
    (execCmdMemRead src flaws s) := by
  unfold execCmdMemRead
  dsimp only
  refine soundNext_onCore h _ (fun a k => ?_)
  refine sound_startCmd k _ _ (fun t d k' => ?_)
  refine sound_ite_fst ?_ ?_
  · exact sound_refuse k' _
  · dsimp only
    exact sound_readWords (sound_withFlaws k' _) _ _

theorem sound_writeReg {s : State} (h : Sound s) (r : Reg) (i j a v : Nat) : Sound (s.writeReg r i j a v) := by
  unfold State.writeReg
  dsimp only
  refine sound_ite ?_ ?_
  · exact sound_mergeReg h _ _ _ _
  · refine sound_ite ?_ ?_
    · exact h
    · refine sound_ite ?_ ?_
      · exact sound_writeHostStatus h _
      · refine sound_ite ?_ ?_
        · exact sound_writeIbiCause h _
        · refine sound_ite ?_ ?_
          · exact sound_writeIbiEn h _
          · refine sound_ite ?_ ?_
            · exact sound_writeTxMap h _
            · refine sound_ite ?_ ?_
              · exact sound_writeTxVc h _ _
              · refine sound_ite ?_ ?_
                · exact sound_writeTxVc h _ _
                · refine sound_ite ?_ ?_
                  · exact sound_flushTx (sound_mergeReg h _ _ _ _)
                  · refine sound_ite ?_ ?_
                    · exact sound_writeAgeLimit h _
                    · refine sound_ite ?_ ?_
                      · exact sound_writeStatCtrl h _ _
                      · refine sound_ite ?_ ?_
                        · exact sound_writeCalibCtrl h _ _
                        · refine sound_ite ?_ ?_
                          · exact sound_writeLinkCfg h _
                          · refine sound_ite ?_ ?_
                            · exact sound_servo (sound_mergeReg h _ _ _ _)
                            · refine sound_ite ?_ ?_
                              · exact sound_ite (sound_clearTdc h) h
                              · refine sound_ite ?_ ?_
                                · exact sound_writeField h _ _ _
                                · split
                                  · exact sound_writeLearn h _ _ _
                                  · exact sound_ite h (sound_ite (sound_mergeReg h _ _ _ _) (sound_mergeReg h _ _ _
                                        _))

theorem sound_writeRegWord {s : State} (h : Sound s) (a v : Nat) : Sound (s.writeRegWord a v).1 := by
  unfold State.writeRegWord
  split
  · exact h
  · refine sound_ite_fst ?_ ?_
    · exact h
    · refine sound_ite_fst ?_ ?_
      · exact h
      · refine sound_ite_fst ?_ ?_
        · dsimp only
          exact sound_writeThrottle h _
        · dsimp only
          exact sound_writeReg h _ _ _ _ _

theorem sound_writeWords {s : State} (h : Sound s) (fuel a : Nat) (ws : List Word) (n : Nat) :
    Sound (s.writeWords fuel a ws n).1 := by
  induction fuel generalizing s a ws n with
  | zero => exact h
  | succ fuel ih =>
    cases ws with
    | nil => exact h
    | cons w rest =>
      unfold State.writeWords
      split
      · exact h
      · dsimp only
        split
        · exact ih (sound_writeRegWord h _ _) _ _ _
        · exact sound_writeRegWord h _ _
      · split
        · exact h
        · exact ih (sound_writeShare h _ _) _ _ _

theorem soundNext_execCmdMemWrite {s : State} (h : Sound s) (src : Source) : SoundNext (execCmdMemWrite src s) := by
  unfold execCmdMemWrite
  dsimp only
  refine soundNext_onCore h _ (fun a k => ?_)
  refine sound_startCmd k _ _ (fun t d k' => ?_)
  refine sound_ite_fst ?_ ?_
  · exact k'
  · refine sound_ite_fst ?_ ?_
    · exact sound_doneWith k' _
    · dsimp only
      exact sound_writeWords k' _ _ _ _

theorem soundNext_execRegisterWrite {s : State} (h : Sound s) (address : Nat) (value : Word) : SoundNext
    (execRegisterWrite address value s) := by
  unfold execRegisterWrite
  exact soundNext_onDevice h (sound_ite (sound_writeRegWord h _ _) h)

theorem soundNext_execBlockLockWrite {s : State} (h : Sound s) (address : Nat) (value : Word) : SoundNext
    (execBlockLockWrite address value s) := by
  unfold execBlockLockWrite
  refine soundNext_onDevice h ?_
  split
  · exact sound_ite (sound_mergeReg h _ _ _ _) h
  · exact h

/-! ### SampleEvents -/

theorem soundNext_onSamples {s : State} (h : Sound s) (f : State → State) (hf : ∀ (a : State), Sound a → Sound (f a))
    : SoundNext (onSamples s f) := by
  unfold onSamples
  exact soundNext_onDevice h (sound_noteDefers (hf _ h))

theorem soundNext_execHostRxSample {s : State} (h : Sound s) (packet : RxPacket) : SoundNext (execHostRxSample packet
    s) := by
  unfold execHostRxSample
  exact soundNext_onSamples h _ (fun a k => sound_rxFilter k _ _ (fun _ _ k' => sound_samplePacket k' _ _))

theorem sound_knowFile {s : State} (h : Sound s) (x : Sample) : Sound (s.knowFile x) := by
  unfold State.knowFile
  exact sound_mapSample h _ _

theorem soundNext_execSampleDecodeStart {s : State} (h : Sound s) (seq : Nat) : SoundNext (execSampleDecodeStart seq
    s) := by
  unfold execSampleDecodeStart
  refine soundNext_onSamples h _ (fun a k => ?_)
  split
  · exact sound_ite (sound_mapSample k _ _) k
  · exact k

theorem soundNext_execSampleDecodeDone {s : State} (h : Sound s) (seq : Nat) : SoundNext (execSampleDecodeDone seq s)
    := by
  unfold execSampleDecodeDone
  refine soundNext_onSamples h _ (fun a k => ?_)
  split
  · exact sound_ite k (sound_ite (sound_sampleDone k _ _ _) (sound_sampleReady (sound_knowFile k _) _ _ _))
  · exact k

theorem soundNext_execSampleDecodeLimitExpire {s : State} (h : Sound s) (seq : Nat) : SoundNext
    (execSampleDecodeLimitExpire seq s) := by
  unfold execSampleDecodeLimitExpire
  refine soundNext_onSamples h _ (fun a k => ?_)
  split
  · exact sound_ite (sound_sampleDone (sound_tdc k _) _ _ _) k
  · exact k

theorem soundNext_execSampleTakeBobbin {s : State} (h : Sound s) : SoundNext (execSampleTakeBobbin s) := by
  unfold execSampleTakeBobbin
  refine soundNext_onSamples h _ (fun a k => ?_)
  split
  · exact sound_sampleRun k _ _
  · exact k

/-! ### Snap -/

theorem soundNext_execCmdSnapTrigger {s : State} (h : Sound s) (src : Source) : SoundNext (execCmdSnapTrigger src s)
    := by
  unfold execCmdSnapTrigger
  exact soundNext_runCmd h _ _ (fun t d k => sound_doneWith (sound_snapFire k _) _)

theorem sound_releaseSnapUnit {s : State} (h : Sound s) : Sound s.releaseSnapUnit := by
  unfold State.releaseSnapUnit
  exact sound_ite (sound_putBit (sound_putBit (sound_own h _ _ _) _ _ _ _) _ _ _ _) (sound_putBit h _ _ _ _)

theorem sound_armSnapTime {s : State} (h : Sound s) (u : Nat) : Sound (s.armSnapTime u) := by
  unfold State.armSnapTime
  exact sound_putBit (sound_putBit (sound_snap (sound_put (sound_setReg (sound_setReg (sound_own h _ _ _) _ _ _ _) _
      _ _ _) _ _ _ _) _) _ _ _ _) _ _ _ _

theorem sound_armSnapEnc {s : State} (h : Sound s) (c : Nat) : Sound (s.armSnapEnc c) := by
  unfold State.armSnapEnc
  exact sound_putBit (sound_snap h _) _ _ _ _

theorem soundNext_execCmdSnapConfig {s : State} (h : Sound s) (src : Source) : SoundNext (execCmdSnapConfig src s) :=
    by
  unfold execCmdSnapConfig
  dsimp only
  refine soundNext_runCmd h _ _ (fun t d k => ?_)
  refine sound_ite_fst ?_ ?_
  · exact sound_refuse k _
  · exact sound_doneWith (sound_ite (sound_armSnapEnc (sound_ite (sound_armSnapTime (sound_put (sound_put (sound_put
        (sound_put (sound_put (sound_put (sound_releaseSnapUnit k) _ _ _ _) _ _ _ _) _ _ _ _) _ _ _ _) _ _ _ _) _ _ _
        _) _) (sound_put (sound_put (sound_put (sound_put (sound_put (sound_put (sound_releaseSnapUnit k) _ _ _ _) _
        _ _ _) _ _ _ _) _ _ _ _) _ _ _ _) _ _ _ _)) _) (sound_putBit (sound_ite (sound_armSnapTime (sound_put
        (sound_put (sound_put (sound_put (sound_put (sound_put (sound_releaseSnapUnit k) _ _ _ _) _ _ _ _) _ _ _ _) _
        _ _ _) _ _ _ _) _ _ _ _) _) (sound_put (sound_put (sound_put (sound_put (sound_put (sound_put
        (sound_releaseSnapUnit k) _ _ _ _) _ _ _ _) _ _ _ _) _ _ _ _) _ _ _ _) _ _ _ _)) _ _ _ _)) _

theorem soundNext_execCompareUnitFire {s : State} (h : Sound s) (unit : Fin 32) : SoundNext (execCompareUnitFire unit
    s) := by
  unfold execCompareUnitFire
  exact soundNext_onDevice h (sound_ite h (sound_ite (sound_launchHead h _ _) (sound_ite (sound_fireTrigger h _)
      (sound_ite (sound_fireSnapTime h _) h))))

theorem soundNext_execSnapLatchDone {s : State} (h : Sound s) (lags : List Nat) : SoundNext (execSnapLatchDone lags
    s) := by
  unfold execSnapLatchDone
  dsimp only
  refine soundNext_onDevice h ?_
  split
  · exact h
  · split
    · exact h
    · exact sound_raise (sound_putBit (sound_put (sound_snap h _) _ _ _ _) _ _ _ _) _

theorem soundNext_execSnapHoldoffExpire {s : State} (h : Sound s) : SoundNext (execSnapHoldoffExpire s) := by
  unfold execSnapHoldoffExpire
  exact soundNext_onDevice h (sound_snap h _)

theorem soundNext_execCmdSnapRead {s : State} (h : Sound s) (src : Source) : SoundNext (execCmdSnapRead src s) := by
  unfold execCmdSnapRead
  dsimp only
  refine soundNext_runCmd h _ _ (fun t d k => ?_)
  split
  · exact sound_refuse k _
  · refine sound_ite_fst ?_ ?_
    · exact sound_refuse k _
    · refine sound_ite_fst ?_ ?_
      · exact sound_refuse k _
      · dsimp only
        exact sound_snap k _

theorem sound_endRead {s : State} (h : Sound s) (src : Source) (st : Status) : Sound (s.endRead src st) := by
  unfold State.endRead
  split
  · exact sound_finish h _ _ _
  · exact h

theorem soundNext_execSnapReadDone {s : State} (h : Sound s) : SoundNext (execSnapReadDone s) := by
  unfold execSnapReadDone
  dsimp only
  refine soundNext_onDevice h ?_
  split
  · exact h
  · split
    · exact sound_endRead (sound_snap h _) _ _
    · exact sound_ite (sound_endRead (sound_snap h _) _ _) (sound_endRead (sound_foldState (fun s a k =>
          sound_sendSnap k _) (sound_snap h _) _) _ _)

theorem soundNext_execCmdTraceSet {s : State} (h : Sound s) (src : Source) : SoundNext (execCmdTraceSet src s) := by
  unfold execCmdTraceSet
  dsimp only
  refine soundNext_runCmd h _ _ (fun t d k => ?_)
  refine sound_ite_fst ?_ ?_
  · exact sound_refuse k _
  · exact sound_doneWith (sound_snap k _) _

/-! ### The step -/

/-- Every command answers a sound state in a sound state. -/
theorem soundNext_exec {s : State} (h : Sound s) : ∀ i : Instr, SoundNext (exec i s)
  | .i3cPrivateWrite data => soundNext_execI3cPrivateWrite h data
  | .i3cPrivateRead count => soundNext_execI3cPrivateRead h count
  | .hdrDdrTransfer code data count crcOk => soundNext_execHdrDdrTransfer h code data count crcOk
  | .enec dest => soundNext_execEnec h dest
  | .disec dest => soundNext_execDisec h dest
  | .rstdaa => soundNext_execRstdaa h
  | .entdaa address => soundNext_execEntdaa h address
  | .setaasa => soundNext_execSetaasa h
  | .setdasa address => soundNext_execSetdasa h address
  | .setnewda address => soundNext_execSetnewda h address
  | .setmwl dest limit => soundNext_execSetmwl h dest limit
  | .setmrl dest limit => soundNext_execSetmrl h dest limit
  | .getmwl => soundNext_execGetmwl h
  | .getmrl => soundNext_execGetmrl h
  | .getpid => soundNext_execGetpid h
  | .getbcr => soundNext_execGetbcr h
  | .getdcr => soundNext_execGetdcr h
  | .getstatus => soundNext_execGetstatus h
  | .getmxds => soundNext_execGetmxds h
  | .getcaps => soundNext_execGetcaps h
  | .enthdr0 => soundNext_execEnthdr0 h
  | .entas level => soundNext_execEntas h level
  | .rstact dest defining => soundNext_execRstact h dest defining
  | .cccUnlisted dest code => soundNext_execCccUnlisted h dest code
  | .hostIbiCauseWrite value => soundNext_execHostIbiCauseWrite h value
  | .mbxH2dGoWrite value => soundNext_execMbxH2dGoWrite h value
  | .mbxWake => soundNext_execMbxWake h
  | .mbxD2hGoRead => soundNext_execMbxD2hGoRead h
  | .mbxWatchdogExpire => soundNext_execMbxWatchdogExpire h
  | .hostRxCommand packet => soundNext_execHostRxCommand h packet
  | .hostRxBulk packet => soundNext_execHostRxBulk h packet
  | .bulkTmoExpire what => soundNext_execBulkTmoExpire h what
  | .verdictHoldExpire => soundNext_execVerdictHoldExpire h
  | .hostTxMapWrite value => soundNext_execHostTxMapWrite h value
  | .hostTxVcWrite index value => soundNext_execHostTxVcWrite h index value
  | .registerWrite address value => soundNext_execRegisterWrite h address value
  | .blockLockWrite address value => soundNext_execBlockLockWrite h address value
  | .cmdNop src => soundNext_execCmdNop h src
  | .cmdGetInfo src => soundNext_execCmdGetInfo h src
  | .cmdReset src => soundNext_execCmdReset h src
  | .resetBegin => soundNext_execResetBegin h
  | .cmdSetVcore src => soundNext_execCmdSetVcore h src
  | .cmdCamEnable src => soundNext_execCmdCamEnable h src
  | .cmdCamDisable src => soundNext_execCmdCamDisable h src
  | .cmdCamTrigger src => soundNext_execCmdCamTrigger h src
  | .cmdPipeConfig src => soundNext_execCmdPipeConfig h src
  | .cmdPipeTable src => soundNext_execCmdPipeTable h src
  | .cmdTapSet src => soundNext_execCmdTapSet h src
  | .cmdStatsSet src => soundNext_execCmdStatsSet h src
  | .cmdProvTableSet src => soundNext_execCmdProvTableSet h src
  | .cmdFinderEnable src => soundNext_execCmdFinderEnable h src
  | .cmdFinderDisable src => soundNext_execCmdFinderDisable h src
  | .cmdLaneSet src => soundNext_execCmdLaneSet h src
  | .cmdClassMapSet src => soundNext_execCmdClassMapSet h src
  | .cmdSampleConfig src => soundNext_execCmdSampleConfig h src
  | .cmdBobbinRead src => soundNext_execCmdBobbinRead h src
  | .cmdModelRegister src => soundNext_execCmdModelRegister h src
  | .cmdModelUnregister src => soundNext_execCmdModelUnregister h src
  | .cmdModelPin src => soundNext_execCmdModelPin h src
  | .cmdPartitionCreate src => soundNext_execCmdPartitionCreate h src
  | .cmdPartitionDelete src => soundNext_execCmdPartitionDelete h src
  | .cmdJobStart src => soundNext_execCmdJobStart h src
  | .cmdJobStop src => soundNext_execCmdJobStop h src
  | .cmdJobCancel src => soundNext_execCmdJobCancel h src
  | .cmdJobPreempt src => soundNext_execCmdJobPreempt h src
  | .cmdJobResume src => soundNext_execCmdJobResume h src
  | .cmdLearnCommit src => soundNext_execCmdLearnCommit h src
  | .cmdArithProfileSet src => soundNext_execCmdArithProfileSet h src
  | .cmdMemRead src flaws => soundNext_execCmdMemRead h src flaws
  | .cmdMemWrite src => soundNext_execCmdMemWrite h src
  | .cmdMemFill src => soundNext_execCmdMemFill h src
  | .cmdScrubSet src => soundNext_execCmdScrubSet h src
  | .cmdTimeRead src => soundNext_execCmdTimeRead h src
  | .cmdTimeDomainSet src => soundNext_execCmdTimeDomainSet h src
  | .cmdTimeSelect src => soundNext_execCmdTimeSelect h src
  | .cmdEthConfig src => soundNext_execCmdEthConfig h src
  | .cmdLaunchEnable src => soundNext_execCmdLaunchEnable h src
  | .cmdLaunchDisable src => soundNext_execCmdLaunchDisable h src
  | .cmdFiConfig src => soundNext_execCmdFiConfig h src
  | .cmdFoAssign src => soundNext_execCmdFoAssign h src
  | .cmdFoRelease src => soundNext_execCmdFoRelease h src
  | .cmdFoSet src => soundNext_execCmdFoSet h src
  | .cmdEncConfig src => soundNext_execCmdEncConfig h src
  | .cmdEjectLeadSet src => soundNext_execCmdEjectLeadSet h src
  | .cmdStopClear src => soundNext_execCmdStopClear h src
  | .cmdSafeValuesSet src => soundNext_execCmdSafeValuesSet h src
  | .cmdTwinRole src => soundNext_execCmdTwinRole h src
  | .cmdTwinStatus src => soundNext_execCmdTwinStatus h src
  | .cmdTwinHandover src => soundNext_execCmdTwinHandover h src
  | .cmdLaneTest src => soundNext_execCmdLaneTest h src
  | .cmdFwLoad src => soundNext_execCmdFwLoad h src
  | .cmdFwChunk src => soundNext_execCmdFwChunk h src
  | .cmdAttestOpen src => soundNext_execCmdAttestOpen h src
  | .cmdAttest src => soundNext_execCmdAttest h src
  | .cmdLcTransition src => soundNext_execCmdLcTransition h src
  | .cmdSnapTrigger src => soundNext_execCmdSnapTrigger h src
  | .cmdSnapConfig src => soundNext_execCmdSnapConfig h src
  | .cmdSnapRead src => soundNext_execCmdSnapRead h src
  | .cmdTraceSet src => soundNext_execCmdTraceSet h src
  | .camFrameStart port vc corrected => soundNext_execCamFrameStart h port vc corrected
  | .camFrameEnd port vc corrected => soundNext_execCamFrameEnd h port vc corrected
  | .camLongPacket port packet => soundNext_execCamLongPacket h port packet
  | .holeExpire port => soundNext_execHoleExpire h port
  | .lineRetainPass port => soundNext_execLineRetainPass h port
  | .pipeInlineLineDone q => soundNext_execPipeInlineLineDone h q
  | .pipeBlockStart q => soundNext_execPipeBlockStart h q
  | .pipeBlockDone q => soundNext_execPipeBlockDone h q
  | .pitchTrigger rule => soundNext_execPitchTrigger h rule
  | .fieldUpFrameRx slot => soundNext_execFieldUpFrameRx h slot
  | .fieldDownFrameRx slot => soundNext_execFieldDownFrameRx h slot
  | .fieldLinkDown up => soundNext_execFieldLinkDown h up
  | .fieldResend up => soundNext_execFieldResend h up
  | .fieldEntryA => soundNext_execFieldEntryA h
  | .fieldEntryB => soundNext_execFieldEntryB h
  | .fieldEntryC => soundNext_execFieldEntryC h
  | .fieldCfgMsg => soundNext_execFieldCfgMsg h
  | .fieldTableClear => soundNext_execFieldTableClear h
  | .fieldStopClearMsg => soundNext_execFieldStopClearMsg h
  | .fieldResyncMsg => soundNext_execFieldResyncMsg h
  | .amendArrive => soundNext_execAmendArrive h
  | .closeMatch entry => soundNext_execCloseMatch h entry
  | .ejectMatch entry => soundNext_execEjectMatch h entry
  | .pulseEnd entry => soundNext_execPulseEnd h entry
  | .entryTmoExpire entry => soundNext_execEntryTmoExpire h entry
  | .safeStateExit => soundNext_execSafeStateExit h
  | .fieldAckReport => soundNext_execFieldAckReport h
  | .fieldRefuseReport => soundNext_execFieldRefuseReport h
  | .fieldAcceptReport => soundNext_execFieldAcceptReport h
  | .fieldRejectReport => soundNext_execFieldRejectReport h
  | .fieldCloseReport => soundNext_execFieldCloseReport h
  | .fieldEjectReport => soundNext_execFieldEjectReport h
  | .fieldLatchReport => soundNext_execFieldLatchReport h
  | .fieldIndexReport => soundNext_execFieldIndexReport h
  | .fieldSyncReport => soundNext_execFieldSyncReport h
  | .fieldFiStateReport => soundNext_execFieldFiStateReport h
  | .fieldStatusReport => soundNext_execFieldStatusReport h
  | .fieldSpeedReport => soundNext_execFieldSpeedReport h
  | .fieldResyncReport => soundNext_execFieldResyncReport h
  | .fieldPowerUp => soundNext_execFieldPowerUp h
  | .fieldPowerDown => soundNext_execFieldPowerDown h
  | .fiEdge input level => soundNext_execFiEdge h input level
  | .debounceExpire input => soundNext_execDebounceExpire h input
  | .encQuadEdge ch levels clocks => soundNext_execEncQuadEdge h ch levels clocks
  | .encZEdge ch => soundNext_execEncZEdge h ch
  | .encLineFault ch fault => soundNext_execEncLineFault h ch fault
  | .ssiRead raw idleHigh clocks => soundNext_execSsiRead h raw idleHigh clocks
  | .outputOverload output => soundNext_execOutputOverload h output
  | .outputFaultRetry output persists => soundNext_execOutputFaultRetry h output persists
  | .syncSnapshot => soundNext_execSyncSnapshot h
  | .statusPeriodic => soundNext_execStatusPeriodic h
  | .speedPeriodic ch idle => soundNext_execSpeedPeriodic h ch idle
  | .fieldRegisterWrite address value => soundNext_execFieldRegisterWrite h address value
  | .bobAgeExpire bobbin => soundNext_execBobAgeExpire h bobbin
  | .bobAgeLimitWrite value => soundNext_execBobAgeLimitWrite h value
  | .stripeTaskIssue part loom => soundNext_execStripeTaskIssue h part loom
  | .stripeTaskRetire loom bobbin token stripe arrival => soundNext_execStripeTaskRetire h loom bobbin token stripe arrival
  | .latestStartReached part => soundNext_execLatestStartReached h part
  | .fillWaitExpire part => soundNext_execFillWaitExpire h part
  | .sampleBatchWaitExpire part => soundNext_execSampleBatchWaitExpire h part
  | .batchStepStart part => soundNext_execBatchStepStart h part
  | .batchStepDone part projections blocks heads gradients => soundNext_execBatchStepDone h part projections blocks heads gradients
  | .optimiserStepStart part => soundNext_execOptimiserStepStart h part
  | .optimiserStepDone part => soundNext_execOptimiserStepDone h part
  | .wload loom engine words aux => soundNext_execWload h loom engine words aux
  | .mm loom engine words aux => soundNext_execMm h loom engine words aux
  | .mmt loom engine words aux => soundNext_execMmt h loom engine words aux
  | .conv loom engine words aux => soundNext_execConv h loom engine words aux
  | .dw loom engine words aux => soundNext_execDw h loom engine words aux
  | .vprog loom engine words aux => soundNext_execVprog h loom engine words aux
  | .lfetch loom engine words aux => soundNext_execLfetch h loom engine words aux
  | .shuttle loom engine words aux => soundNext_execShuttle h loom engine words aux
  | .shuttleComplete loom transfer => soundNext_execShuttleComplete h loom transfer
  | .signal loom engine words aux => soundNext_execSignal h loom engine words aux
  | .wait loom engine words aux => soundNext_execWait h loom engine words aux
  | .endInstr loom engine words aux => soundNext_execEndInstr h loom engine words aux
  | .fenceWindowExpire => soundNext_execFenceWindowExpire h
  | .paceWindow rates => soundNext_execPaceWindow h rates
  | .rreqReceive => soundNext_execRreqReceive h
  | .rrespReceive => soundNext_execRrespReceive h
  | .remoteTmoExpire part shuttle => soundNext_execRemoteTmoExpire h part shuttle
  | .modelResident model => soundNext_execModelResident h model
  | .preemptComplete part => soundNext_execPreemptComplete h part
  | .resumeComplete part => soundNext_execResumeComplete h part
  | .modelCacheReload model unit => soundNext_execModelCacheReload h model unit
  | .hostRxModelChunk packet => soundNext_execHostRxModelChunk h packet
  | .hostRxSample packet => soundNext_execHostRxSample h packet
  | .sampleDecodeStart seq => soundNext_execSampleDecodeStart h seq
  | .sampleDecodeDone seq => soundNext_execSampleDecodeDone h seq
  | .sampleDecodeLimitExpire seq => soundNext_execSampleDecodeLimitExpire h seq
  | .sampleTakeBobbin => soundNext_execSampleTakeBobbin h
  | .quantStatCtrlWrite part value => soundNext_execQuantStatCtrlWrite h part value
  | .quantCalibEnSet part => soundNext_execQuantCalibEnSet h part
  | .quantCalibEnClear part => soundNext_execQuantCalibEnClear h part
  | .schedLearnHyperWrite part offset value => soundNext_execSchedLearnHyperWrite h part offset value
  | .detCtrlClear => soundNext_execDetCtrlClear h
  | .sramWipeDone => soundNext_execSramWipeDone h
  | .ddrTrainingDone => soundNext_execDdrTrainingDone h
  | .ddrWipeMarkAdvance => soundNext_execDdrWipeMarkAdvance h
  | .scrubDdrAccess contended flaw => soundNext_execScrubDdrAccess h contended flaw
  | .scrubSramAccess contended flaw => soundNext_execScrubSramAccess h contended flaw
  | .tmrWalk rewrites lost => soundNext_execTmrWalk h rewrites lost
  | .privateMemoryUe => soundNext_execPrivateMemoryUe h
  | .ptpAnnounceRx dom gm => soundNext_execPtpAnnounceRx h dom gm
  | .ptpSyncRx dom seq twoStep origin rate => soundNext_execPtpSyncRx h dom seq twoStep origin rate
  | .ptpFollowUpRx dom seq origin rate => soundNext_execPtpFollowUpRx h dom seq origin rate
  | .ptpDelayRespRx dom received => soundNext_execPtpDelayRespRx h dom received
  | .ptpPdelayReqRx dom => soundNext_execPtpPdelayReqRx h dom
  | .ptpPdelayRespRx dom twoStep value => soundNext_execPtpPdelayRespRx h dom twoStep value
  | .ptpPdelayRespFollowUpRx dom origin => soundNext_execPtpPdelayRespFollowUpRx h dom origin
  | .ptpDelayReqSend dom => soundNext_execPtpDelayReqSend h dom
  | .ethRxOther port kind => soundNext_execEthRxOther h port kind
  | .announceTmo dom => soundNext_execAnnounceTmo h dom
  | .syncTmo dom => soundNext_execSyncTmo h dom
  | .ethLinkChange port up => soundNext_execEthLinkChange h port up
  | .compareUnitFire unit => soundNext_execCompareUnitFire h unit
  | .timedFrameTxDone port => soundNext_execTimedFrameTxDone h port
  | .ethTxtsIdRead port => soundNext_execEthTxtsIdRead h port
  | .tkTimeNsRead => soundNext_execTkTimeNsRead h
  | .ranozMarkerRx lane marker => soundNext_execRanozMarkerRx h lane marker
  | .fallbackTimeout => soundNext_execFallbackTimeout h
  | .ranozLaneLoss lane => soundNext_execRanozLaneLoss h lane
  | .ranozFrameRx frame => soundNext_execRanozFrameRx h frame
  | .ranozAckTmo => soundNext_execRanozAckTmo h
  | .ranozNullTmo => soundNext_execRanozNullTmo h
  | .creditReturnRx lane credits => soundNext_execCreditReturnRx h lane credits
  | .heartbeatSend => soundNext_execHeartbeatSend h
  | .heartbeatRx => soundNext_execHeartbeatRx h
  | .mbxD2tGoWrite value => soundNext_execMbxD2tGoWrite h value
  | .mbxFrameRx => soundNext_execMbxFrameRx h
  | .mbxT2dGoRead => soundNext_execMbxT2dGoRead h
  | .mbxAckRx => soundNext_execMbxAckRx h
  | .mirrorRx => soundNext_execMirrorRx h
  | .verdictRx => soundNext_execVerdictRx h
  | .xcheckWaitExpire bobbin => soundNext_execXcheckWaitExpire h bobbin
  | .twinCtlRx => soundNext_execTwinCtlRx h
  | .takeoverTmo => soundNext_execTakeoverTmo h
  | .handoverTmo => soundNext_execHandoverTmo h
  | .linkCfgWrite value => soundNext_execLinkCfgWrite h value
  | .laneTestEnd errors bits => soundNext_execLaneTestEnd h errors bits
  | .powerOnReset => soundNext_execPowerOnReset h
  | .rstNAssert => soundNext_execRstNAssert h
  | .railFault => soundNext_execRailFault h
  | .refclkStop => soundNext_execRefclkStop h
  | .resetRelease straps => soundNext_execResetRelease h straps
  | .resetHoldEnd straps => soundNext_execResetHoldEnd h straps
  | .firmwareStart => soundNext_execFirmwareStart h
  | .fwRun => soundNext_execFwRun h
  | .identityDerived => soundNext_execIdentityDerived h
  | .loomStartupTestDone failed => soundNext_execLoomStartupTestDone h failed
  | .mgmtWatchdog => soundNext_execMgmtWatchdog h
  | .thermalTrip => soundNext_execThermalTrip h
  | .thermalRelease straps => soundNext_execThermalRelease h straps
  | .telemetrySample sample => soundNext_execTelemetrySample h sample
  | .vcoreStep => soundNext_execVcoreStep h
  | .pwrAlert words => soundNext_execPwrAlert h words
  | .snapLatchDone lags => soundNext_execSnapLatchDone h lags
  | .snapHoldoffExpire => soundNext_execSnapHoldoffExpire h
  | .ibiDelivered => soundNext_execIbiDelivered h
  | .ejectTableError entry uncorrectable => soundNext_execEjectTableError h entry uncorrectable
  | .partnerLost => soundNext_execPartnerLost h
  | .triggerPulseEnd pin => soundNext_execTriggerPulseEnd h pin
  | .memFillDone => soundNext_execMemFillDone h
  | .attestOpenDone => soundNext_execAttestOpenDone h
  | .attestDone => soundNext_execAttestDone h
  | .learnCommitDone part => soundNext_execLearnCommitDone h part
  | .snapReadDone => soundNext_execSnapReadDone h
  | .lcTransitionDone => soundNext_execLcTransitionDone h
  | .i3cTargetReady => soundNext_execI3cTargetReady h
  | .hostCsi2Ready => soundNext_execHostCsi2Ready h
  | .ethLanesStart => soundNext_execEthLanesStart h

theorem sound_noteTrail {s : State} (h : Sound s) : Sound s.noteTrail := sound_ite (sound_snap h _) h

theorem sound_showHoldover {s : State} (h : Sound s) : Sound s.showHoldover := sound_ite (sound_put h _ _ _ _) h

/-- A nanosecond that passes keeps a sound state sound. -/
theorem sound_tick {s : State} (h : Sound s) : Sound s.tick := by
  unfold State.tick
  refine sound_ite h (sound_showHoldover ?_)
  exact sound_time (sound_noteTrail h) _

/-- Settles O5: the step is the front command's (`soundNext_exec`) or a nanosecond's (`sound_tick`). -/
theorem everyStepKeepsSound : Obligations.EveryStepKeepsSound := by
  unfold Obligations.EveryStepKeepsSound
  intro s t h e
  unfold step at e
  split at e
  · exact soundNext_next (sound_tick h) t e
  · exact soundNext_exec (sound_pending h _) _ t e

end Sys2Proof.Machine
end

section
/-! What leaves everything but the field die and its copies of the critical words as it stands (R443, R444). -/
namespace Sys2Proof.Machine
open Sys2Proof.Claims

/-- Nothing changes but the field die, with its copies of the critical words. -/
def DieFrame (s t : State) : Prop := t = { s with die := t.die, copies := t.copies }

theorem dieFrame_refl (s : State) : DieFrame s s := rfl

theorem dieFrame_die {r s : State} (h : DieFrame r s) (x : FieldDie) : DieFrame r { s with die := x } := by
  unfold DieFrame at h ⊢; rw [h]

theorem dieFrame_copies {r s : State} (h : DieFrame r s) (x : Tbl Copies) : DieFrame r { s with copies := x } := by
  unfold DieFrame at h ⊢; rw [h]

theorem dieFrame_ite {c : Prop} [Decidable c] {r s t : State} (hs : DieFrame r s) (ht : DieFrame r t) :
    DieFrame r (if c then s else t) := by
  split
  · exact hs
  · exact ht

theorem dieFrame_ite_fst {α : Type} {c : Prop} [Decidable c] {r : State} {x y : State × α} (hx : DieFrame r x.1)
    (hy : DieFrame r y.1) : DieFrame r (if c then x else y).1 := by
  split
  · exact hx
  · exact hy

theorem dieFrame_foldState {α : Type} {r : State} {f : State → α → State} (hf : ∀ s a, DieFrame r s → DieFrame r (f s a))
    {s : State} (h : DieFrame r s) (l : List α) : DieFrame r (foldState f s l) := foldState_keeps (P := DieFrame r) hf h l

theorem dieFrame_timesFrom {r : State} {f : State → Nat → State} (hf : ∀ s i, DieFrame r s → DieFrame r (f s i))
    {s : State} (h : DieFrame r s) (n i : Nat) : DieFrame r (timesFrom f n i s) := timesFrom_keeps (P := DieFrame r) hf h n i

/-- The next state differs in the field die, with its copies of the critical words, alone. -/
def DieNext (s : State) (o : Host.Outcome State Fault Refusal) : Prop := ∃ t, o = .next t ∧ DieFrame s t

theorem dieNext_next {r s : State} (h : DieFrame r s) : DieNext r (.next s) := ⟨s, rfl, h⟩

theorem dieNext_onDie {r s : State} {f : State → State} (h : DieFrame r s) (hf : DieFrame r (f s)) :
    DieNext r (onDie s f) := dieNext_next (dieFrame_ite hf h)

theorem dieFrame_stored {r s : State} (h : DieFrame r s) (w : Nat) : DieFrame r (s.stored w) := by
  unfold State.stored
  exact dieFrame_copies h _

theorem dieFrame_report {r s : State} (h : DieFrame r s) (r' : Report) : DieFrame r (s.report r') := by
  unfold State.report
  exact dieFrame_die h _

theorem dieFrame_reportFirst {r s : State} (h : DieFrame r s) (r' : Report) : DieFrame r (s.reportFirst r') := by
  unfold State.reportFirst
  exact dieFrame_die h _

theorem dieFrame_statusDue {r s : State} (h : DieFrame r s) : DieFrame r s.statusDue := by
  unfold State.statusDue
  exact dieFrame_die h _

theorem dieFrame_tallyUp {r s : State} (h : DieFrame r s) (k : Nat) : DieFrame r (s.tallyUp k) := by
  unfold State.tallyUp
  exact dieFrame_die h _

theorem dieFrame_setEnc {r s : State} (h : DieFrame r s) (c : Nat) (e : EncCh) : DieFrame r (s.setEnc c e) := by
  unfold State.setEnc
  exact dieFrame_die h _

theorem dieFrame_lineTrigger {r s : State} (h : DieFrame r s) (ch i : Nat) : DieFrame r (s.lineTrigger ch i) := by
  unfold State.lineTrigger
  dsimp only
  refine dieFrame_ite ?_ ?_
  · split
    · exact dieFrame_ite (dieFrame_die h _) h
    · exact h
  · exact h

theorem dieFrame_setCount {r s : State} (h : DieFrame r s) (ch : Nat) (e : EncCh) (v : Int) : DieFrame r (s.setCount
    ch e v) := by
  unfold State.setCount
  exact dieFrame_timesFrom (fun _ i k => dieFrame_lineTrigger k _ _) (dieFrame_setEnc h _ _) _ _

theorem dieFrame_setEntry {r s : State} (h : DieFrame r s) (e : Nat) (x : Entry) : DieFrame r (s.setEntry e x) := by
  unfold State.setEntry
  exact dieFrame_die h _

theorem dieFrame_freeEntry {r s : State} (h : DieFrame r s) (e : Nat) : DieFrame r (s.freeEntry e) := by
  unfold State.freeEntry
  exact dieFrame_setEntry h _ _

theorem dieFrame_setStop {r s : State} (h : DieFrame r s) : DieFrame r s.setStop := by
  unfold State.setStop
  exact dieFrame_statusDue (dieFrame_ite h (dieFrame_die h _))

theorem dieFrame_closeEntry {r s : State} (h : DieFrame r s) (e : Nat) : DieFrame r (s.closeEntry e) := by
  unfold State.closeEntry
  exact dieFrame_ite (dieFrame_setStop (dieFrame_setEntry h _ _)) (dieFrame_setEntry h _ _)

theorem dieFrame_amendEntry {r s : State} (h : DieFrame r s) (e action : Nat) : DieFrame r (s.amendEntry e action) :=
    by
  unfold State.amendEntry
  dsimp only
  refine dieFrame_ite ?_ ?_
  · exact h
  · split
    · exact dieFrame_ite (dieFrame_report (dieFrame_setEntry h _ _) _) (dieFrame_report (dieFrame_setEntry h _ _) _)
    · exact dieFrame_report (dieFrame_setEntry h _ _) _
    · exact h

theorem dieFrame_answerAmends {r s : State} (h : DieFrame r s) : DieFrame r s.answerAmends := by
  unfold State.answerAmends
  exact dieFrame_ite (dieFrame_die h _) (dieFrame_foldState (fun _ a k => dieFrame_amendEntry k _ _) (dieFrame_die h
      _) _)

theorem dieFrame_enterSafe {r s : State} (h : DieFrame r s) (cause : Nat) : DieFrame r (s.enterSafe cause) := by
  unfold State.enterSafe
  exact dieFrame_ite (dieFrame_statusDue (dieFrame_ite (dieFrame_die h _) h)) (dieFrame_statusDue (dieFrame_die
      (dieFrame_answerAmends h) _))

theorem dieFrame_foundFlaw {r s : State} (h : DieFrame r s) (uncorrectable : Bool) : DieFrame r (s.foundFlaw
    uncorrectable) := by
  unfold State.foundFlaw
  exact dieFrame_ite (dieFrame_enterSafe h _) (dieFrame_tallyUp h _)

theorem dieFrame_checkArmed {r s : State} (h : DieFrame r s) (e : Nat) : DieFrame r (s.checkArmed e) := by
  unfold State.checkArmed
  dsimp only
  split
  · exact dieFrame_ite (dieFrame_foundFlaw (dieFrame_setEntry h _ _) _) h
  · exact h

theorem dieFrame_checkWritten {r s : State} (h : DieFrame r s) (e : Nat) : DieFrame r (s.checkWritten e) := by
  unfold State.checkWritten
  dsimp only
  split
  · exact dieFrame_ite (dieFrame_setEntry h _ _) (dieFrame_tallyUp (dieFrame_setEntry h _ _) _)
  · exact h

theorem dieFrame_judge {r s : State} (h : DieFrame r s) (e : Nat) : DieFrame r (s.judge e) := by
  unfold State.judge
  exact dieFrame_ite (dieFrame_report (dieFrame_freeEntry h _) _) (dieFrame_ite (dieFrame_checkArmed (dieFrame_report
      (dieFrame_closeEntry (dieFrame_setEntry h _ _) _) _) _) (dieFrame_checkArmed (dieFrame_report
      (dieFrame_setEntry h _ _) _) _))

theorem dieFrame_exitEntry {r s : State} (h : DieFrame r s) (e : Nat) : DieFrame r (s.exitEntry e) := by
  unfold State.exitEntry
  dsimp only
  split
  · exact dieFrame_judge h _
  · exact dieFrame_ite (dieFrame_report (dieFrame_freeEntry (dieFrame_ite h (dieFrame_report (dieFrame_closeEntry h
        _) _)) _) _) (dieFrame_ite h (dieFrame_report (dieFrame_closeEntry h _) _))
  · exact h

theorem dieFrame_exitLate {r s : State} (h : DieFrame r s) (e : Nat) : DieFrame r (s.exitLate e) := by
  unfold State.exitLate
  exact dieFrame_ite (dieFrame_report (dieFrame_freeEntry h _) _) h

theorem dieFrame_leaveSafe {r s : State} (h : DieFrame r s) : DieFrame r s.leaveSafe := by
  unfold State.leaveSafe
  exact dieFrame_ite (dieFrame_enterSafe (dieFrame_statusDue (dieFrame_die (dieFrame_foldState (fun _ a k =>
      dieFrame_exitLate k _) (dieFrame_foldState (fun _ a k => dieFrame_exitEntry k _) h _) _) _)) _)
      (dieFrame_statusDue (dieFrame_die (dieFrame_foldState (fun _ a k => dieFrame_exitLate k _) (dieFrame_foldState
      (fun _ a k => dieFrame_exitEntry k _) h _) _) _))

theorem dieNext_execSafeStateExit {r s : State} (h : DieFrame r s) : DieNext r (execSafeStateExit s) := by
  unfold execSafeStateExit
  exact dieNext_onDie h (dieFrame_ite (dieFrame_leaveSafe h) h)

theorem dieFrame_closeMatch {r s : State} (h : DieFrame r s) (e : Nat) : DieFrame r (s.closeMatch e) := by
  unfold State.closeMatch
  exact dieFrame_ite (dieFrame_report (dieFrame_closeEntry h _) _) h

theorem dieNext_execCloseMatch {r s : State} (h : DieFrame r s) (entry : Fin 256) : DieNext r (execCloseMatch entry
    s) := by
  unfold execCloseMatch
  exact dieNext_onDie h (dieFrame_closeMatch (dieFrame_answerAmends h) _)

theorem dieFrame_ejectMatch {r s : State} (h : DieFrame r s) (e : Nat) : DieFrame r (s.ejectMatch e) := by
  unfold State.ejectMatch
  exact dieFrame_ite (dieFrame_report (dieFrame_freeEntry (dieFrame_ite h (dieFrame_die h _)) _) _) h

theorem dieNext_execEjectMatch {r s : State} (h : DieFrame r s) (entry : Fin 256) : DieNext r (execEjectMatch entry
    s) := by
  unfold execEjectMatch
  exact dieNext_onDie h (dieFrame_ejectMatch h _)

theorem dieNext_execPulseEnd {r s : State} (h : DieFrame r s) (entry : Fin 256) : DieNext r (execPulseEnd entry s) :=
    by
  unfold execPulseEnd
  dsimp only
  refine dieNext_onDie h ?_
  split
  · exact h
  · exact dieFrame_ite (dieFrame_die h _) (dieFrame_tallyUp (dieFrame_die h _) _)

theorem dieFrame_entryTmo {r s : State} (h : DieFrame r s) (e : Nat) : DieFrame r (s.entryTmo e) := by
  unfold State.entryTmo
  exact dieFrame_ite (dieFrame_ite (dieFrame_setEntry h _ _) (dieFrame_report (dieFrame_freeEntry h _) _)) h

theorem dieNext_execEntryTmoExpire {r s : State} (h : DieFrame r s) (entry : Fin 256) : DieNext r (execEntryTmoExpire
    entry s) := by
  unfold execEntryTmoExpire
  exact dieNext_onDie h (dieFrame_entryTmo (dieFrame_ejectMatch (dieFrame_closeMatch (dieFrame_answerAmends h) _) _)
      _)

theorem dieNext_execEjectTableError {r s : State} (h : DieFrame r s) (entry : Fin 256) (uncorrectable : Bool) :
    DieNext r (execEjectTableError entry uncorrectable s) := by
  unfold execEjectTableError
  exact dieNext_onDie h (dieFrame_ite (dieFrame_foundFlaw h _) (dieFrame_setEntry h _ _))

theorem dieNext_execAmendArrive {r s : State} (h : DieFrame r s) : DieNext r (execAmendArrive s) := by
  unfold execAmendArrive
  dsimp only
  refine dieNext_onDie h ?_
  split
  · exact h
  · exact dieFrame_ite (dieFrame_die h _) (dieFrame_amendEntry (dieFrame_die h _) _ _)

theorem dieFrame_dropMsg {r s : State} (h : DieFrame r s) : DieFrame r s.dropMsg := by
  unfold State.dropMsg
  exact dieFrame_die h _

theorem dieNext_execFieldEntryA {r s : State} (h : DieFrame r s) : DieNext r (execFieldEntryA s) := by
  unfold execFieldEntryA
  dsimp only
  refine dieNext_onDie h ?_
  split
  · exact dieFrame_setEntry (dieFrame_die (dieFrame_checkWritten (dieFrame_dropMsg h) _) _) _ _
  · exact h

theorem dieNext_execFieldEntryB {r s : State} (h : DieFrame r s) : DieNext r (execFieldEntryB s) := by
  unfold execFieldEntryB
  dsimp only
  refine dieNext_onDie h ?_
  split
  · exact dieFrame_ite (dieFrame_setEntry (dieFrame_checkWritten (dieFrame_dropMsg h) _) _ _) (dieFrame_dropMsg h)
  · exact h

theorem dieNext_execFieldEntryC {r s : State} (h : DieFrame r s) : DieNext r (execFieldEntryC s) := by
  unfold execFieldEntryC
  dsimp only
  refine dieNext_onDie h ?_
  split
  · exact dieFrame_ite (dieFrame_ite (dieFrame_setEntry (dieFrame_checkWritten (dieFrame_dropMsg h) _) _ _)
        (dieFrame_judge (dieFrame_setEntry (dieFrame_checkWritten (dieFrame_dropMsg h) _) _ _) _)) (dieFrame_dropMsg
        h)
  · exact h

theorem dieFrame_armTrigger {r s : State} (h : DieFrame r s) (i : Nat) : DieFrame r (s.armTrigger i) := by
  unfold State.armTrigger
  exact dieFrame_die h _

theorem dieFrame_setDeb {r s : State} (h : DieFrame r s) (i : Nat) (b : Bool) : DieFrame r (s.setDeb i b) := by
  unfold State.setDeb
  exact dieFrame_ite h (dieFrame_die h _)

theorem dieFrame_showRaw {r s : State} (h : DieFrame r s) : DieFrame r s.showRaw := by
  unfold State.showRaw
  exact dieFrame_timesFrom (fun s i k => dieFrame_ite (dieFrame_setDeb k _ _) k) h _ _

theorem dieFrame_takeCfg {r s : State} (h : DieFrame r s) (k v : Nat) : DieFrame r (s.takeCfg k v) := by
  unfold State.takeCfg
  exact dieFrame_ite (dieFrame_armTrigger (dieFrame_stored (dieFrame_die h _) _) _) (dieFrame_ite (dieFrame_setEnc
      (dieFrame_stored (dieFrame_die h _) _) _ _) (dieFrame_ite (dieFrame_showRaw (dieFrame_stored (dieFrame_die h _)
      _)) (dieFrame_stored (dieFrame_die h _) _)))

theorem dieNext_execFieldCfgMsg {r s : State} (h : DieFrame r s) : DieNext r (execFieldCfgMsg s) := by
  unfold execFieldCfgMsg
  refine dieNext_onDie h ?_
  split
  · exact dieFrame_ite h (dieFrame_takeCfg (dieFrame_dropMsg h) _ _)
  · exact h

theorem dieNext_execFieldTableClear {r s : State} (h : DieFrame r s) : DieNext r (execFieldTableClear s) := by
  unfold execFieldTableClear
  refine dieNext_onDie h ?_
  split
  · exact dieFrame_ite (dieFrame_ite (dieFrame_foldState (fun _ a k' => dieFrame_freeEntry k' _) (dieFrame_dropMsg h)
        _) (dieFrame_dropMsg h)) h
  · exact h

theorem dieNext_execFieldStopClearMsg {r s : State} (h : DieFrame r s) : DieNext r (execFieldStopClearMsg s) := by
  unfold execFieldStopClearMsg
  dsimp only
  refine dieNext_onDie h ?_
  split
  · exact dieFrame_statusDue (dieFrame_die (dieFrame_dropMsg h) _)
  · exact h

theorem dieFrame_probeLatch {r s : State} (h : DieFrame r s) (i : Nat) : DieFrame r (s.probeLatch i) := by
  unfold State.probeLatch
  exact dieFrame_ite (dieFrame_reportFirst h _) (dieFrame_tallyUp h _)

theorem dieNext_execFiEdge {r s : State} (h : DieFrame r s) (input : Fin 16) (level : Bool) : DieNext r (execFiEdge
    input level s) := by
  unfold execFiEdge
  exact dieNext_onDie h (dieFrame_ite h (dieFrame_ite (dieFrame_ite (dieFrame_probeLatch (dieFrame_setDeb
      (dieFrame_die h _) _ _) _) (dieFrame_setDeb (dieFrame_die h _) _ _)) (dieFrame_ite (dieFrame_setDeb
      (dieFrame_die h _) _ _) (dieFrame_die h _))))

theorem dieNext_execDebounceExpire {r s : State} (h : DieFrame r s) (input : Fin 16) : DieNext r (execDebounceExpire
    input s) := by
  unfold execDebounceExpire
  exact dieNext_onDie h (dieFrame_setDeb h _ _)

theorem dieFrame_quadChange {r s : State} (h : DieFrame r s) (c : Nat) (a b : Bool) (clocks : Nat) : DieFrame r
    (s.quadChange c a b clocks) := by
  unfold State.quadChange
  exact dieFrame_ite h (dieFrame_ite (dieFrame_tallyUp (dieFrame_setEnc h _ _) _) (dieFrame_setCount (dieFrame_setEnc
      h _ _) _ _ _))

theorem dieNext_execEncQuadEdge {r s : State} (h : DieFrame r s) (ch : Fin 2) (levels : QuadSample) (clocks : Nat) :
    DieNext r (execEncQuadEdge ch levels clocks s) := by
  unfold execEncQuadEdge
  exact dieNext_onDie h (dieFrame_ite h (dieFrame_quadChange h _ _ _ _))

theorem dieNext_execEncZEdge {r s : State} (h : DieFrame r s) (ch : Fin 2) : DieNext r (execEncZEdge ch s) := by
  unfold execEncZEdge
  exact dieNext_onDie h (dieFrame_ite h (dieFrame_ite (dieFrame_tallyUp (dieFrame_reportFirst (dieFrame_setEnc h _ _)
      _) _) (dieFrame_reportFirst (dieFrame_setEnc h _ _) _)))

theorem dieNext_execEncLineFault {r s : State} (h : DieFrame r s) (ch : Fin 2) (fault : Bool) : DieNext r
    (execEncLineFault ch fault s) := by
  unfold execEncLineFault
  exact dieNext_onDie h (dieFrame_ite h (dieFrame_statusDue (dieFrame_setEnc h _ _)))

theorem dieNext_execSsiRead {r s : State} (h : DieFrame r s) (raw : Nat) (idleHigh : Bool) (clocks : Nat) : DieNext r
    (execSsiRead raw idleHigh clocks s) := by
  unfold execSsiRead
  dsimp only
  refine dieNext_onDie h ?_
  refine dieFrame_ite ?_ ?_
  · exact h
  · refine dieFrame_ite ?_ ?_
    · exact dieFrame_tallyUp h _
    · split
      · exact dieFrame_setCount h _ _ _
      · exact dieFrame_ite (dieFrame_tallyUp h _) (dieFrame_setCount h _ _ _)

theorem dieNext_execSyncSnapshot {r s : State} (h : DieFrame r s) : DieNext r (execSyncSnapshot s) := by
  unfold execSyncSnapshot
  exact dieNext_onDie h (dieFrame_die h _)

theorem dieNext_execStatusPeriodic {r s : State} (h : DieFrame r s) : DieNext r (execStatusPeriodic s) := by
  unfold execStatusPeriodic
  exact dieNext_onDie h (dieFrame_statusDue h)

theorem dieNext_execSpeedPeriodic {r s : State} (h : DieFrame r s) (ch : Fin 2) (idle : Bool) : DieNext r
    (execSpeedPeriodic ch idle s) := by
  unfold execSpeedPeriodic
  exact dieNext_onDie h (dieFrame_die h _)

theorem dieNext_execOutputOverload {r s : State} (h : DieFrame r s) (output : Fin 8) : DieNext r (execOutputOverload
    output s) := by
  unfold execOutputOverload
  exact dieNext_onDie h (dieFrame_ite h (dieFrame_statusDue (dieFrame_die h _)))

theorem dieNext_execOutputFaultRetry {r s : State} (h : DieFrame r s) (output : Fin 8) (persists : Bool) : DieNext r
    (execOutputFaultRetry output persists s) := by
  unfold execOutputFaultRetry
  exact dieNext_onDie h (dieFrame_ite (dieFrame_statusDue (dieFrame_die h _)) h)

theorem dieNext_execFieldPowerUp {r s : State} (h : DieFrame r s) : DieNext r (execFieldPowerUp s) := by
  unfold execFieldPowerUp
  exact dieNext_next (dieFrame_ite h (dieFrame_die h _))

theorem dieNext_execFieldPowerDown {r s : State} (h : DieFrame r s) : DieNext r (execFieldPowerDown s) := by
  unfold execFieldPowerDown
  exact dieNext_next (dieFrame_die h _)

theorem dieNext_execFieldResyncMsg {r s : State} (h : DieFrame r s) : DieNext r (execFieldResyncMsg s) := by
  unfold execFieldResyncMsg
  dsimp only
  refine dieNext_onDie h ?_
  split
  · exact dieFrame_die (dieFrame_dropMsg h) _
  · exact h

/-! ### What a command may do while the device is held in reset -/

theorem dieNext_triggerPulseEnd_fo (s : State) (i : Fin 8) : DieNext s (execTriggerPulseEnd (.fo i) s) :=
  by
  unfold execTriggerPulseEnd
  refine dieNext_onDie (dieFrame_refl s) ?_
  exact dieFrame_die (dieFrame_refl s) _

/-- Every command answers a next state. -/
theorem exec_next (i : Instr) (s : State) : ∃ t, exec i s = .next t := by
  cases i
  case triggerPulseEnd pin => cases pin <;> exact ⟨_, rfl⟩
  all_goals exact ⟨_, rfl⟩

/-- A device held in reset stands still, but for the supplies, the reset inputs, the field link and the field die. -/
theorem exec_held {s : State} (h : s.boot.held = true) (i : Instr) : exec i s = .next s ∨
    i ∈ [.powerOnReset, .railFault, .rstNAssert, .refclkStop, .thermalTrip, .fieldPowerUp, .fieldPowerDown] ∨
    (∃ x, i = .resetRelease x ∨ i = .resetHoldEnd x ∨ i = .thermalRelease x) ∨
    (∃ e, i = .fieldUpFrameRx e ∨ i = .fieldDownFrameRx e) ∨ (∃ b, i = .fieldLinkDown b ∨ i = .fieldResend b) ∨
    DieNext s (exec i s) := by
  cases i
  case powerOnReset => exact .inr (.inl (by simp))
  case railFault => exact .inr (.inl (by simp))
  case rstNAssert => exact .inr (.inl (by simp))
  case refclkStop => exact .inr (.inl (by simp))
  case thermalTrip => exact .inr (.inl (by simp))
  case resetRelease x => exact .inr (.inr (.inl ⟨x, .inl rfl⟩))
  case resetHoldEnd x => exact .inr (.inr (.inl ⟨x, .inr (.inl rfl)⟩))
  case thermalRelease x => exact .inr (.inr (.inl ⟨x, .inr (.inr rfl)⟩))
  case fieldUpFrameRx e => exact .inr (.inr (.inr (.inl ⟨e, .inl rfl⟩)))
  case fieldDownFrameRx e => exact .inr (.inr (.inr (.inl ⟨e, .inr rfl⟩)))
  case fieldLinkDown b => exact .inr (.inr (.inr (.inr (.inl ⟨b, .inl rfl⟩))))
  case fieldResend b => exact .inr (.inr (.inr (.inr (.inl ⟨b, .inr rfl⟩))))
  case triggerPulseEnd pin =>
    cases pin with
    | fo i => exact .inr (.inr (.inr (.inr (.inr (dieNext_triggerPulseEnd_fo s i)))))
    | cam p => exact .inl (congrArg Host.Outcome.next (if_pos h))
  case fieldEntryA => exact .inr (.inr (.inr (.inr (.inr (dieNext_execFieldEntryA (dieFrame_refl s))))))
  case fieldEntryB => exact .inr (.inr (.inr (.inr (.inr (dieNext_execFieldEntryB (dieFrame_refl s))))))
  case fieldEntryC => exact .inr (.inr (.inr (.inr (.inr (dieNext_execFieldEntryC (dieFrame_refl s))))))
  case fieldCfgMsg => exact .inr (.inr (.inr (.inr (.inr (dieNext_execFieldCfgMsg (dieFrame_refl s))))))
  case fieldTableClear => exact .inr (.inr (.inr (.inr (.inr (dieNext_execFieldTableClear (dieFrame_refl s))))))
  case fieldStopClearMsg => exact .inr (.inr (.inr (.inr (.inr (dieNext_execFieldStopClearMsg (dieFrame_refl s))))))
  case fieldResyncMsg => exact .inr (.inr (.inr (.inr (.inr (dieNext_execFieldResyncMsg (dieFrame_refl s))))))
  case amendArrive => exact .inr (.inr (.inr (.inr (.inr (dieNext_execAmendArrive (dieFrame_refl s))))))
  case closeMatch entry => exact .inr (.inr (.inr (.inr (.inr (dieNext_execCloseMatch (dieFrame_refl s) entry)))))
  case ejectMatch entry => exact .inr (.inr (.inr (.inr (.inr (dieNext_execEjectMatch (dieFrame_refl s) entry)))))
  case pulseEnd entry => exact .inr (.inr (.inr (.inr (.inr (dieNext_execPulseEnd (dieFrame_refl s) entry)))))
  case entryTmoExpire entry => exact .inr (.inr (.inr (.inr (.inr (dieNext_execEntryTmoExpire (dieFrame_refl s) entry)))))
  case safeStateExit => exact .inr (.inr (.inr (.inr (.inr (dieNext_execSafeStateExit (dieFrame_refl s))))))
  case fieldPowerUp => exact .inr (.inr (.inr (.inr (.inr (dieNext_execFieldPowerUp (dieFrame_refl s))))))
  case fieldPowerDown => exact .inr (.inr (.inr (.inr (.inr (dieNext_execFieldPowerDown (dieFrame_refl s))))))
  case fiEdge input level => exact .inr (.inr (.inr (.inr (.inr (dieNext_execFiEdge (dieFrame_refl s) input level)))))
  case debounceExpire input => exact .inr (.inr (.inr (.inr (.inr (dieNext_execDebounceExpire (dieFrame_refl s) input)))))
  case encQuadEdge ch levels clocks => exact .inr (.inr (.inr (.inr (.inr (dieNext_execEncQuadEdge (dieFrame_refl s) ch levels clocks)))))
  case encZEdge ch => exact .inr (.inr (.inr (.inr (.inr (dieNext_execEncZEdge (dieFrame_refl s) ch)))))
  case encLineFault ch fault => exact .inr (.inr (.inr (.inr (.inr (dieNext_execEncLineFault (dieFrame_refl s) ch fault)))))
  case ssiRead raw idleHigh clocks => exact .inr (.inr (.inr (.inr (.inr (dieNext_execSsiRead (dieFrame_refl s) raw idleHigh clocks)))))
  case outputOverload output => exact .inr (.inr (.inr (.inr (.inr (dieNext_execOutputOverload (dieFrame_refl s) output)))))
  case outputFaultRetry output persists => exact .inr (.inr (.inr (.inr (.inr (dieNext_execOutputFaultRetry (dieFrame_refl s) output persists)))))
  case syncSnapshot => exact .inr (.inr (.inr (.inr (.inr (dieNext_execSyncSnapshot (dieFrame_refl s))))))
  case statusPeriodic => exact .inr (.inr (.inr (.inr (.inr (dieNext_execStatusPeriodic (dieFrame_refl s))))))
  case speedPeriodic ch idle => exact .inr (.inr (.inr (.inr (.inr (dieNext_execSpeedPeriodic (dieFrame_refl s) ch idle)))))
  case ejectTableError entry uncorrectable => exact .inr (.inr (.inr (.inr (.inr (dieNext_execEjectTableError (dieFrame_refl s) entry uncorrectable)))))
  all_goals exact .inl (congrArg Host.Outcome.next (if_pos h))

/-- Settles O3. -/
theorem noCommandStops : Obligations.NoCommandStops := by
  unfold Obligations.NoCommandStops
  exact ⟨exec_next, fun i s h => exec_held h i⟩

/-! ### The step of the machine -/

/-- Settles O1. -/
theorem stepRunsTheFrontCommand : Obligations.StepRunsTheFrontCommand := by
  unfold Obligations.StepRunsTheFrontCommand
  intro c rest s h
  rw [step, h]

/-- With no command waiting, a step is a nanosecond. -/
theorem step_idle {s : State} (h : s.pending = []) : step s = .next s.tick := by rw [step, h]

/-- Settles O4. -/
theorem resetIsSound : Obligations.ResetIsSound :=
  ⟨rfl, rfl, Nat.zero_le _, Nat.zero_le _, Nat.zero_le _, Nat.zero_le _⟩

end Sys2Proof.Machine
end

section
/-! The machine itself: a nanosecond that passes (R366, log entry 1), and what reset leaves (R49, R56, R77). -/
namespace Sys2Proof.Machine
open Sys2Proof.Claims

/-! ### A nanosecond -/

/-- The trail grows by what the registers show, while a trigger travels. -/
theorem State.noteTrail_eq (s : State) : s.noteTrail = { s with snap := { s.snap with trail := s.noteTrail.snap.trail } } := by
  unfold State.noteTrail; split <;> rfl

theorem State.noteTrail_none {s : State} (h : s.snap.taking = none) : s.noteTrail = s := by
  simp [State.noteTrail, h]

theorem State.noteTrail_some {s : State} (h : s.snap.taking.isSome = true) (hlen : s.snap.trail.length < 200) :
    s.noteTrail.snap.trail = s.snap.trail ++ [s.shownRegs] := by
  simp [State.noteTrail, h, hlen]

/-- The holdover counter changes registers alone. -/
theorem State.showHoldover_only (s : State) : OnlyRegs s s.showHoldover [R.TK_HOLDOVER.addr 0 0] := by
  unfold State.showHoldover
  split
  · exact ⟨rfl, fun a ha => tget?_setReg _ _ _ _ _ _ (by simpa [F.TK_HOLDOVER_MS] using ha)⟩
  · exact ⟨rfl, fun _ _ => rfl⟩

/-- The pace of device time is a nanosecond and the correction, never backwards. -/
theorem TimeUnit.pace_eq (x : TimeUnit) : (x.pace : Int) = max 0 (2 ^ 48 + x.rate) := by
  rw [TimeUnit.pace, Int.toNat_eq_max, max_comm]; rfl

/-- Settles O2: a nanosecond of a device out of reset, and one of a device held in reset. -/
theorem idleStepPassesTime : Obligations.IdleStepPassesTime := by
  unfold Obligations.IdleStepPassesTime
  refine ⟨fun s hp hlive => ?_, fun s hp hheld => ?_⟩
  · obtain ⟨u, hu⟩ : ∃ u : State, u = { s.noteTrail with
        time := { s.time with now := s.time.now + s.time.pace, uptime := s.time.uptime + 1 } } := ⟨_, rfl⟩
    have htime : s.noteTrail.time = s.time := by rw [State.noteTrail_eq]
    have hregs : u.regs = s.regs := by rw [hu, State.noteTrail_eq]
    have htick : s.tick = u.showHoldover := by
      have hheld : ¬ s.boot.held = true := Bool.eq_false_iff.mp hlive
      rw [State.tick, if_neg hheld, hu]; simp only [htime]
    obtain ⟨honly, hsame⟩ := u.showHoldover_only
    have htimeT : u.showHoldover.time = u.time := by rw [honly]
    have hsnapT : u.showHoldover.snap = s.noteTrail.snap := by rw [honly, hu]
    refine ⟨u.showHoldover, (step_idle hp).trans (congrArg _ htick), ?_, ?_, ?_, ?_, ?_, ?_⟩
    · rw [htimeT, hu]
    · rw [htimeT, hu, ← TimeUnit.pace_eq]; push_cast; rfl
    · have hframe : u.showHoldover = { u with regs := u.showHoldover.regs } := honly
      rw [htimeT, hsnapT]
      rw [hframe, hu, State.noteTrail_eq]
    · intro h; rw [hsnapT, State.noteTrail_none h]
    · intro h hlen; rw [hsnapT, State.noteTrail_some h hlen]
    · intro a ha; rw [hsame a ha, hregs]
  · rw [step_idle hp, State.tick, if_pos hheld]

/-! ### Reset -/

/-- Bytes that are all zero spell zero. -/
theorem bytesNat_zero {bs : List Byte} (h : ∀ b ∈ bs, b = 0) : bytesNat bs = 0 := by
  induction bs with
  | nil => rfl
  | cons b t ih =>
    obtain ⟨hb, ht⟩ := List.forall_mem_cons.mp h
    rw [bytesNat, ih ht, hb]; rfl

/-- Memory never written has the check byte of zero data, complemented. -/
theorem Memory.checkByte_empty (g : Nat) : Memory.checkByte {} g = 0xFF := by
  have hbytes : bytesNat (Memory.bytes {} g 8) = 0 := by
    refine bytesNat_zero fun b hb => ?_
    obtain ⟨i, -, rfl⟩ := List.mem_map.mp hb
    rfl
  rw [Memory.checkByte, hbytes]
  rfl

/-- Settles O7: the registers by evaluation, the memory by its empty tables. -/
theorem resetValues : Obligations.ResetValues := by
  unfold Obligations.ResetValues
  refine ⟨rfl, rfl, rfl, rfl, rfl, rfl, rfl, by decide, by decide, by decide,
    fun a => ⟨rfl, rfl, Memory.checkByte_empty a⟩⟩

end Sys2Proof.Machine
end

section
/-! What a device's command answers, in the words of the statements: from the meaning of its row to `Goes`, `Ends`, `Begins`
and `Lasts`. -/
namespace Sys2Proof.Machine
open Sys2Proof.Claims

/-- An event on a device out of reset does what its row says. -/
theorem goes_onDevice {i : Instr} {s t : State} {f : State → State} (hlive : Live s) (hi : exec i s = onDevice s f)
    (ht : f s = t) : Goes i s t := by rw [Goes, hi, onDevice_live hlive, ht]

/-- A command whose turn it is applies the answer of its row. -/
theorem goes_runCmd {i : Instr} {s : State} {src : Source} {op : Nat} {c : Cmd} {body : State → Cmd → State × Answer}
    {t : State} {a : Answer} (h : Starts s src op c) (hi : exec i s = runCmd s src op body)
    (hb : body (s.dropOldest src) c = (t, a)) : Goes i s (t.answer src c a) := by
  have hlive : Live s := h.1
  refine goes_onDevice hlive hi ?_
  rw [startCmd_starts h, hb]

theorem ends_runCmd {i : Instr} {s : State} {src : Source} {op : Nat} {c : Cmd} {body : State → Cmd → State × Answer}
    {t : State} {st : Status} {ws : List Word} (h : Starts s src op c) (hi : exec i s = runCmd s src op body)
    (hb : body (s.dropOldest src) c = (t, .final st ws)) : Ends i s t src c st ws := goes_runCmd h hi hb

theorem begins_runCmd {i : Instr} {s : State} {src : Source} {op : Nat} {c : Cmd} {body : State → Cmd → State × Answer}
    {t : State} (h : Starts s src op c) (hi : exec i s = runCmd s src op body)
    (hb : body (s.dropOldest src) c = (t, .begun)) : Begins i s t src c := goes_runCmd h hi hb

theorem lasts_runCmd {i : Instr} {s : State} {src : Source} {op : Nat} {c : Cmd} {body : State → Cmd → State × Answer}
    {t : State} (h : Starts s src op c) (hi : exec i s = runCmd s src op body)
    (hb : body (s.dropOldest src) c = (t, .later)) : Lasts i s t src c := goes_runCmd h hi hb

/-- The bodies' usual answers, spelled out. -/
@[simp] theorem refuse_eq (s : State) (st : Status) : refuse s st = (s, .final st) := rfl
@[simp] theorem doneWith_eq (s : State) (ws : List Word) : doneWith s ws = (s, .final .done ws) := rfl

end Sys2Proof.Machine
end

section
/-! Replies and their status packet (R65, R67, R72). -/
namespace Sys2Proof.Machine
open Sys2Proof.Claims

/-- A status packet that finds its port up goes out at once, as the one frame of a packet. -/
theorem State.sendStatus_up {s : State} (h : s.portUp (s.txPort 22) = true) (ws : List Word) :
    s.sendStatus ws = s.emitWords 22 ws := if_pos h

/-- A command of host CSI-2 that is neither silenced nor poisoned sends its status packet. -/
theorem State.reply_csi (s : State) (vc : Fin 4) (c : Cmd) {st : Status} (ws : List Word) (hst : st ≠ .poisoned)
    (hq : (c.quiet && (st == .done || st == .accepted)) = false) :
    s.reply (.csi vc) c st ws = s.sendStatus (statusPacket c.tag st ws) := by
  simp only [State.reply, if_neg hst, hq, State.routeReply]; rfl

/-- QUIET leaves a command that is done or accepted without a reply. -/
theorem State.reply_quiet (s : State) (src : Source) {c : Cmd} {st : Status} (ws : List Word) (hc : c.quiet = true)
    (hst : st = .done ∨ st = .accepted) : s.reply src c st ws = s := by
  rcases hst with rfl | rfl <;> simp [State.reply, hc]

/-- Settles O13: the frame of any reply, the packet of one on host CSI-2, and a silenced one. -/
theorem replyFrame : Obligations.ReplyFrame := by
  unfold Obligations.ReplyFrame
  refine ⟨fun s src c st ws => s.reply_r src c st ws, fun s vc c st ws hst hq hport => ?_,
    fun s src c st ws hc hst => s.reply_quiet src ws hc hst⟩
  dsimp only
  rw [s.reply_csi vc c ws hst hq, State.sendStatus_up hport]
  exact ⟨rfl, _, rfl, rfl, rfl⟩

end Sys2Proof.Machine
end

section
/-! The header checks of a command (R69), the refusals of the present state (R417, R424) and the packet CRC (R68). -/
namespace Sys2Proof.Machine
open Sys2Proof.Claims

/-! ### The checks of a header in their order -/

theorem State.headerRefusal_length (s : State) (src : Source) (p : Packet) :
    s.headerRefusal src p false = some .badParam := rfl

theorem State.headerRefusal_crc (s : State) (src : Source) {p : Packet} (h : p.crcHolds = false) :
    s.headerRefusal src p true = some .crcFail := by simp [State.headerRefusal, h]

theorem State.headerRefusal_opcode (s : State) (src : Source) {p : Packet} (hcrc : p.crcHolds = true)
    (h : opRow? p.op = none ∨ bitsOf p.w0 24 8 ≠ 1) : s.headerRefusal src p true = some .badOpcode := by
  simp only [State.headerRefusal, hcrc, Bool.not_true, Bool.false_eq_true, if_false]
  split
  · rfl
  · rename_i row hrow
    exact if_pos (h.resolve_left (by simp [hrow]))

/-- With a length, a CRC, an opcode and a version that hold, the form and then the state decide. -/
theorem State.headerRefusal_row (s : State) (src : Source) {p : Packet} {r : OpRow} (hcrc : p.crcHolds = true)
    (hrow : opRow? p.op = some r) (hver : bitsOf p.w0 24 8 = 1) :
    s.headerRefusal src p true =
      if p.formOk src r then (s.stateRefusal src p.op).or (if 32 ≤ s.outstanding src then some .busy else none)
      else some .badParam := by
  simp only [State.headerRefusal, hcrc, hrow, hver]
  cases p.formOk src r <;> cases s.stateRefusal src p.op <;> rfl

/-- An accepted command only waits. -/
theorem State.takePacket_accepted {s : State} {src : Source} {p : Packet} {ok : Bool} (h : s.headerRefusal src p ok = none) :
    s.takePacket src p ok = { s with host := { s.host with waiting := s.host.waiting ++ [(src, p.cmd)] } } := by
  rw [State.takePacket, h]

/-! ### The refusals of the present state -/

section
variable {s : State} {src : Source} {op : Nat}

theorem State.stateRefusal_split (h : s.isSplit = true) (hop : op ∉ splitOps) :
    s.stateRefusal src op = some .badState := if_pos (by simp [h, hop])

/-- With no split word, the later checks decide. -/
theorem State.stateRefusal_whole (h : s.isSplit = false) : s.stateRefusal src op =
    if s.boot.transition.isSome && !([0x0100, 0x0101].contains op) then some .busy
    else if s.on F.HOST_STATUS_BOOT_ROM && !bootOps.contains op then some .notReady
    else if !s.on F.HOST_STATUS_READY && preReadyRefused op then some .notReady
    else if src = .t2d ∧ twinOps.contains op = false then some .badState
    else none := if_neg (by simp [h])

theorem State.stateRefusal_transition (h : s.isSplit = false) (ht : s.boot.transition.isSome = true)
    (h0 : op ≠ 0x0100) (h1 : op ≠ 0x0101) : s.stateRefusal src op = some .busy := by
  rw [State.stateRefusal_whole h, if_pos (by simp [ht, h0, h1])]

/-- With no transition in progress either, the boot ROM, READY and the twin mailbox decide. -/
theorem State.stateRefusal_settled (h : s.isSplit = false) (ht : s.boot.transition = none) : s.stateRefusal src op =
    if s.on F.HOST_STATUS_BOOT_ROM && !bootOps.contains op then some .notReady
    else if !s.on F.HOST_STATUS_READY && preReadyRefused op then some .notReady
    else if src = .t2d ∧ twinOps.contains op = false then some .badState
    else none := by rw [State.stateRefusal_whole h, if_neg (by simp [ht])]

theorem State.stateRefusal_boot (h : s.isSplit = false) (ht : s.boot.transition = none)
    (hb : s.on F.HOST_STATUS_BOOT_ROM = true) (hop : op ∉ [0x0100, 0x0101, 0x0901, 0x0902]) :
    s.stateRefusal src op = some .notReady := by
  have hop' : op ∉ bootOps := hop
  rw [State.stateRefusal_settled h ht, if_pos (by simp [hb, hop'])]

theorem State.stateRefusal_notReady (h : s.isSplit = false) (ht : s.boot.transition = none)
    (hr : s.on F.HOST_STATUS_READY = false)
    (hop : op / 256 = 2 ∨ op / 256 = 3 ∨ op / 256 = 4 ∨ op ∈ [0x0801, 0x0803, 0x0903, 0x0904]) :
    s.stateRefusal src op = some .notReady := by
  have hpre : preReadyRefused op = true := by
    simp only [preReadyRefused, Bool.or_eq_true, beq_iff_eq, List.contains_iff_mem]
    tauto
  rw [State.stateRefusal_settled h ht]
  split
  · rfl
  · exact if_pos (by simp [hr, hpre])

theorem State.stateRefusal_ready (h : s.isSplit = false) (ht : s.boot.transition = none)
    (hb : s.on F.HOST_STATUS_BOOT_ROM = false) (hr : s.on F.HOST_STATUS_READY = true) :
    s.stateRefusal src op = if src = .t2d ∧ twinOps.contains op = false then some .badState else none := by
  rw [State.stateRefusal_settled h ht, if_neg (by simp [hb]), if_neg (by simp [hr])]

end

/-- The check value of CRC-32C. -/
theorem crc32c_check : crc32c [0x31, 0x32, 0x33, 0x34, 0x35, 0x36, 0x37, 0x38, 0x39] = 0xE3069283#32 := by decide +kernel

/-- Settles O14: the checks of a header in their order, the acceptance, the refusals of the state, and the CRC. -/
theorem headerChecks : Obligations.HeaderChecks := by
  unfold Obligations.HeaderChecks
  refine ⟨fun s src p => s.headerRefusal_length src p, fun s src p h => s.headerRefusal_crc src h,
    fun s src p hcrc h => s.headerRefusal_opcode src hcrc h, fun s src p r hcrc hrow hver hform => ?form,
    fun s src p r hcrc hrow hver hform => ?state, fun s src p h => State.takePacket_accepted h,
    fun s src op h hop => State.stateRefusal_split h hop, fun s src op h => ⟨State.stateRefusal_transition h, fun ht =>
      ⟨State.stateRefusal_boot h ht, State.stateRefusal_notReady h ht, fun hb hr hsrc => ?ready, fun hb hr hop => ?twin⟩⟩,
    crc32c_check, fun p => beq_iff_eq⟩
  case form => rw [s.headerRefusal_row src hcrc hrow hver, hform]; rfl
  case state =>
    rw [s.headerRefusal_row src hcrc hrow hver, if_pos hform]
    refine ⟨fun st hst => by rw [hst]; rfl, fun hst hlen => ?_, fun hst hlen => ?_⟩
    · rw [hst, if_pos hlen]; rfl
    · rw [hst, if_neg (by omega)]; rfl
  case ready => rw [State.stateRefusal_ready h ht hb hr, if_neg (by simp [hsrc])]
  case twin => rw [State.stateRefusal_ready h ht hb hr, if_pos (by simpa using hop)]

end Sys2Proof.Machine
end

section
/-! Packets on host CSI-2 receive and the bulk timeout (R73, R74, R413). -/
namespace Sys2Proof.Machine
open Sys2Proof.Claims

/-! ### The filter of a packet -/

/-- A packet whose header stands, after its correction is counted. -/
def State.eccCounted (s : State) (x : RxPacket) : State := if x.header = 1 then s.bump F.HOST_RX_CNT_ECC_CORR else s

@[simp] theorem State.eccCounted_host (s : State) (x : RxPacket) : (s.eccCounted x).host = s.host := by
  unfold State.eccCounted; split <;> rfl

@[simp] theorem State.eccCounted_boot (s : State) (x : RxPacket) : (s.eccCounted x).boot = s.boot := by
  unfold State.eccCounted; split <;> rfl

section
variable {s : State} {x : RxPacket} {f : State → Fin 4 → State}

theorem State.rxFilter_lost (hup : s.host.csiReady = true) (hx : 2 ≤ x.header) :
    s.rxFilter x f = (s.bump F.HOST_RX_CNT_CRC_ERR).raise F.HOST_IBI_CAUSE_RX_ERR := by
  rw [State.rxFilter, if_neg (by simp [hup]), if_pos hx]; rfl

/-- A packet with a header that stands is judged by its channel, its type and its CRC. -/
theorem State.rxFilter_read (hup : s.host.csiReady = true) (hx : x.header < 2) : s.rxFilter x f =
    if h : x.vc < 4 then
      if !x.listed then (s.eccCounted x).rxDiscard
      else if !x.crcOk then (s.eccCounted x).rxError
      else f (s.eccCounted x) ⟨x.vc, h⟩
    else (s.eccCounted x).rxDiscard := by
  rw [State.rxFilter, if_neg (by simp [hup]), if_neg (by omega)]; rfl

theorem State.rxFilter_taken (hup : s.host.csiReady = true) (hx : x.header < 2) (hl : x.listed = true)
    (hc : x.crcOk = true) (h : x.vc < 4) : s.rxFilter x f = f (s.eccCounted x) ⟨x.vc, h⟩ := by
  rw [State.rxFilter_read hup hx, dif_pos h, if_neg (by simp [hl]), if_neg (by simp [hc])]

theorem State.rxFilter_badCrc (hup : s.host.csiReady = true) (hx : x.header < 2) (h : x.vc < 4) (hl : x.listed = true)
    (hc : x.crcOk = false) :
    s.rxFilter x f = ((s.eccCounted x).bump F.HOST_RX_CNT_CRC_ERR).raise F.HOST_IBI_CAUSE_RX_ERR := by
  rw [State.rxFilter_read hup hx, dif_pos h, if_neg (by simp [hl]), if_pos (by simp [hc])]; rfl

theorem State.rxFilter_stray (hup : s.host.csiReady = true) (hx : x.header < 2) (h : 4 ≤ x.vc ∨ x.listed = false) :
    s.rxFilter x f = (s.eccCounted x).bump F.HOST_RX_CNT_DISCARD := by
  rw [State.rxFilter_read hup hx]
  split
  · rename_i hvc
    exact if_pos (by simpa using h.resolve_left (by omega))
  · rfl

end

/-! ### Bulk -/

@[simp] theorem State.mapAwaiting_boot (s : State) (src : Source) (f : Cmd → Cmd) : (s.mapAwaiting src f).boot = s.boot := by
  unfold State.mapAwaiting; dsimp only; split <;> rfl

@[simp] theorem State.rxDiscard_boot (s : State) : s.rxDiscard.boot = s.boot := rfl

/-- While no firmware image loads, its load makes no progress. -/
theorem State.fwProgress_idle {s : State} (h : s.boot.load = none) : s.fwProgress = s := by rw [State.fwProgress, h]

theorem State.awaiting_congr {s t : State} (h : t.host = s.host) (src : Source) : t.awaiting src = s.awaiting src := by
  rw [State.awaiting, State.awaiting, h]

@[simp] theorem State.takeBulk_boot (s : State) (src : Source) (bs : List Byte) : (s.takeBulk src bs).boot = s.boot := by
  unfold State.takeBulk
  split
  · rfl
  · dsimp only; split <;> simp

/-- What a command packet that is taken does, while no image loads. -/
theorem State.rxCommand_idle {s : State} (h : s.boot.load = none) (vc : Fin 4) (bs : List Byte) : s.rxCommand vc bs =
    if bs.length < 16 then s.bump F.HOST_RX_CNT_DISCARD
    else (s.mapAwaiting (.csi vc) fun c => { c with bulkEnd := .truncated }).takePacket (.csi vc)
      { csiPacket bs with params := (csiPacket bs).params.take (csiPacket bs).words }
      (bs.length == 16 + 4 * (csiPacket bs).words) := by
  have hload : (s.mapAwaiting (.csi vc) fun c => { c with bulkEnd := .truncated }).boot.load = none := by
    rw [State.mapAwaiting_boot, h]
  simp only [State.rxCommand, State.truncateBulk, State.fwProgress_idle hload]; rfl

/-- Bulk bytes of a command: as many as it still awaits, and whether that is all of them. -/
theorem Cmd.takeBulk_bulk (c : Cmd) (bs : List Byte) : (c.takeBulk bs).bulk = (c.bulk ++ bs).take c.bulkLen := rfl

theorem Cmd.takeBulk_complete (c : Cmd) (bs : List Byte) :
    (c.takeBulk bs).bulkEnd = .complete ↔ (c.takeBulk bs).bulk.length = c.bulkLen := by
  rw [Cmd.takeBulk_bulk, List.length_take, Cmd.takeBulk]
  dsimp only
  split
  · simp only [true_iff]; omega
  · simp only [reduceCtorEq, false_iff]; omega

/-! ### The bulk timeout -/

/-- The bulk timeout of a device out of reset. -/
theorem goes_bulkTmo {s t : State} {b : BulkWait} (hlive : Live s) (ht : (if s.get F.HOST_CFG_BULK_TMO = 0 then s
    else match b with
      | .command src => (s.mapAwaiting src fun c => { c with bulkEnd := .timedOut }).fwProgress
      | .sample vc => (s.sampleTmo vc.val).noteDefers
      | .model => s.modelTmo
      | .firmware => s.firmwareTmo) = t) : Goes (.bulkTmoExpire b) s t := by
  refine goes_onDevice hlive (by unfold exec; rfl) ?_; exact ht

/-- A sample's stream ends where no header of its channel is incomplete. -/
theorem State.sampleTmo_open {s : State} {vc : Nat} {x : Sample} (hh : tget? s.intake.headers vc = none)
    (hx : s.openSample vc = some x) : s.sampleTmo vc =
      State.streamEnd { s with intake := { s.intake with opened := tdel s.intake.opened vc } } x.place := by
  have hx' : State.openSample { s with intake := { s.intake with opened := tdel s.intake.opened vc } } vc = some x := hx
  rw [State.sampleTmo, if_neg (by simp [hh])]
  dsimp only
  rw [hx']

/-- Settles O15: the packets that are taken, those that are not, and the bulk timeout of each kind of wait. -/
theorem hostReceive : Obligations.HostReceive := by
  unfold Obligations.HostReceive
  refine ⟨fun s u x h p hlive hup hx hl hc hload hu hp => ?command, fun s u x h c hlive hup hx hl hc hload hu => ?bulk,
    fun c bs _ => ⟨c.takeBulk_bulk bs, c.takeBulk_complete bs⟩,
    fun s x hlive hup hx => ?lost,
    fun s u x hlive hup hx hu => ?stray, fun s l e hlive htmo hload he => ?image, fun s b hlive htmo => ?off,
    fun s src hlive htmo hload => ?waits, fun s l hlive htmo hl => ?model, fun s vc x hlive htmo hh hx => ?sample⟩
  case command =>
    have hloadU : u.boot.load = none := by rw [hu]; exact (congrArg _ (s.eccCounted_boot x)).trans hload
    obtain rfl : u = s.eccCounted x := hu
    subst hp
    refine ⟨fun hlen => goes_onDevice hlive (by unfold exec; rfl) ?_, fun hlen => goes_onDevice hlive (by unfold exec; rfl) ?_⟩
    · rw [State.rxFilter_taken hup hx hl hc h, State.rxCommand_idle hloadU, if_pos hlen]
    · rw [State.rxFilter_taken hup hx hl hc h, State.rxCommand_idle hloadU, if_neg (by omega)]
  case bulk =>
    obtain rfl : u = s.eccCounted x := hu
    have haw := State.awaiting_congr (s.eccCounted_host x) (.csi ⟨x.vc, h⟩)
    have htaken : s.rxFilter x (fun t vc => (t.takeBulk (.csi vc) x.payload).fwProgress) =
        (s.eccCounted x).takeBulk (.csi ⟨x.vc, h⟩) x.payload := by
      rw [State.rxFilter_taken hup hx hl hc h]
      exact State.fwProgress_idle (by simp [hload])
    refine ⟨fun ha hlen => ?_, fun ha hlen => ?_, fun ha => ?_⟩ <;>
      refine goes_onDevice hlive (by unfold exec; rfl) ?_ <;> refine htaken.trans ?_ <;> rw [State.takeBulk, haw, ha]
    · exact if_neg (by omega)
    · exact if_pos hlen
    · rfl
  case lost => constructor <;> exact (goes_onDevice hlive (by unfold exec; rfl) <| State.rxFilter_lost hup hx)
  case stray =>
    obtain rfl : u = s.eccCounted x := hu
    refine ⟨fun h hl hc => ?_, fun h => ?_⟩
    · constructor <;> exact (goes_onDevice hlive (by unfold exec; rfl) <| State.rxFilter_badCrc hup hx h hl hc)
    · constructor <;> exact (goes_onDevice hlive (by unfold exec; rfl) <| State.rxFilter_stray hup hx h)
  case image =>
    have htmo' : s.firmwareTmo = if l.src = .h2d then s.endLoad.finish e .timeout else s := by
      rw [State.firmwareTmo, hload]; dsimp only; rw [he]
    exact ⟨fun hsrc => goes_bulkTmo hlive ((if_neg htmo).trans (htmo'.trans (if_pos hsrc))),
      fun hsrc => goes_bulkTmo hlive ((if_neg htmo).trans (htmo'.trans (if_neg hsrc)))⟩
  case off => exact goes_bulkTmo hlive (if_pos htmo)
  case waits =>
    refine ⟨goes_bulkTmo hlive ((if_neg htmo).trans (State.fwProgress_idle (by simp [hload]))),
      goes_bulkTmo hlive ((if_neg htmo).trans ?_)⟩
    dsimp only
    rw [State.firmwareTmo, hload]
  case model => exact goes_bulkTmo hlive ((if_neg htmo).trans (if_pos (by simp [hl])))
  case sample =>
    refine goes_bulkTmo hlive ((if_neg htmo).trans ?_)
    dsimp only
    rw [State.sampleTmo_open hh hx]

end Sys2Proof.Machine
end

section
/-! Verdict packets on channel 20 and the placement of the transmit channels (R76, R77). -/
namespace Sys2Proof.Machine
open Sys2Proof.Claims

/-! ### Verdict packets -/

/-- The frame that one verdict packet of some records is, on a port and a wire channel, with its number. -/
def verdictFrame (s : State) (ws : List Word) : TxFrame :=
  { port := s.txPort 20, wireVc := s.wireVc 20,
    frame := nextFrame (tgetD s.host.frameNo (16 * s.txPort 20 + s.wireVc 20) 0), chan := 20,
    packets := [(0x35, wordsBytes ws)], badCrc := [] }

/-- One verdict packet takes the 64 oldest records. -/
theorem State.formVerdict_up {s : State} (hr : s.host.records ≠ []) (hup : s.portUp (s.txPort 20) = true) :
    s.formVerdict = { s with host := { s.host with
      records := s.host.records.drop 64
      sent := s.host.sent ++ [verdictFrame s (s.host.records.take 64).flatten]
      frameNo := s.formVerdict.host.frameNo } } := by
  rw [State.formVerdict, if_neg (by simp [hr, hup])]; rfl

/-- As many verdict packets as the records fill leave none pending. -/
theorem State.formVerdicts_all (n : Nat) (s : State) (hup : s.portUp (s.txPort 20) = true)
    (hn : n = ceilDiv s.host.records.length 64) : ∃ fs : List TxFrame,
      s.formVerdicts n = { s with host := { s.host with
        records := [], sent := s.host.sent ++ fs, frameNo := (s.formVerdicts n).host.frameNo } } ∧
      fs.length = n ∧ fs.map (fun f => (f.chan, f.packets)) = (List.range n).map fun k =>
        (20, [(0x35, wordsBytes ((s.host.records.drop (64 * k)).take 64).flatten)]) := by
  induction n generalizing s with
  | zero =>
    have hr : s.host.records = [] := List.length_eq_zero_iff.mp (by unfold ceilDiv at hn; omega)
    refine ⟨[], ?_, rfl, rfl⟩
    rw [List.append_nil, ← hr]; rfl
  | succ n ih =>
    have hr : s.host.records ≠ [] := fun h => by rw [h] at hn; cases hn
    have hstep := State.formVerdict_up hr hup
    obtain ⟨fs, hfs, hlen, hmap⟩ := ih s.formVerdict (by rw [hstep]; exact hup) (by
      rw [hstep]; simp only [List.length_drop]; unfold ceilDiv at hn ⊢; omega)
    refine ⟨verdictFrame s (s.host.records.take 64).flatten :: fs, ?_, by simp [hlen], ?_⟩
    · rw [State.formVerdicts, hfs, hstep]; simp
    · rw [List.map_cons, hmap, List.range_succ_eq_map, List.map_cons, List.map_map, hstep]
      simp [verdictFrame, Function.comp_def, List.drop_drop, Nat.mul_add, Nat.add_comm]

/-! ### The placement -/

/-- A state that keeps the three placement registers keeps the placement. -/
theorem State.placementOk_congr {s t : State} (hmap : t.reg R.HOST_TX_MAP = s.reg R.HOST_TX_MAP)
    (hvc : ∀ i < 3, t.reg R.HOST_TX_VC_TAP i = s.reg R.HOST_TX_VC_TAP i)
    (hrec : ∀ k, k < 4 → bitsOf (t.reg R.HOST_TX_VC_REC) (4 * k) 4 = bitsOf (s.reg R.HOST_TX_VC_REC) (4 * k) 4) :
    t.placementOk = s.placementOk := by
  have hport : ∀ c, t.txPort c = s.txPort c := fun c => by
    unfold State.txPort State.get
    rw [show t.reg (F.HOST_TX_MAP_TAP_PORT).reg = _ from hmap, show t.reg (F.HOST_TX_MAP_REC_PORT).reg = _ from hmap]
    rfl
  have hplace : ∀ c, c < 24 → t.wirePlace c = s.wirePlace c := fun c hc => by
    unfold State.wirePlace State.wireVc
    rw [hport]
    split
    · unfold State.get
      rw [show t.reg (F.HOST_TX_VC_TAP_VC (c % 8)).reg (c / 8) = _ from hvc (c / 8) (by omega)]
      rfl
    · rw [hrec _ (by omega)]
  have htaps : (List.range 17).map t.wirePlace = (List.range 17).map s.wirePlace :=
    List.map_congr_left fun c hc => hplace c (by have := List.mem_range.mp hc; omega)
  have hrecs : [20, 21, 22, 23].map t.wirePlace = [20, 21, 22, 23].map s.wirePlace :=
    List.map_congr_left fun c hc => hplace c (by simp at hc; omega)
  unfold State.placementOk
  rw [htaps, hrecs]

theorem State.placementOk_of_regs {s t : State} (h : t.regs = s.regs) : t.placementOk = s.placementOk :=
  State.placementOk_congr (State.reg_congr h _ _ _) (fun _ _ => State.reg_congr h _ _ _) fun _ _ => by
    rw [State.reg_congr h]

/-- A write of HOST_STATUS keeps the placement. -/
theorem State.placementOk_showTxPorts (s : State) : s.showTxPorts.placementOk = s.placementOk := by
  have hother : ∀ (r : Reg) (i : Nat), r.addr i 0 ≠ R.HOST_STATUS.addr 0 0 → s.showTxPorts.reg r i = s.reg r i := by
    intro r i h
    unfold State.showTxPorts
    split
    · exact (State.reg_setReg_other _ _ _ _ _ _ _ _ h).trans (State.reg_setReg_other _ _ _ _ _ _ _ _ h)
    · rfl
  refine State.placementOk_congr (hother _ _ (by decide)) (fun i hi => hother _ _ ?_) fun _ _ => ?_
  · simp only [Reg.addr, R.HOST_TX_VC_TAP, R.HOST_STATUS]; omega
  · rw [hother R.HOST_TX_VC_REC 0 (by decide)]

/-- Packets that go out write no register. -/
theorem foldState_emitWords_regs (chan : Nat) (l : List (List Word)) (s : State) :
    (foldState (fun t ws => t.emitWords chan ws) s l).regs = s.regs :=
  foldState_keeps (P := fun t : State => t.regs = s.regs) (f := fun t ws => t.emitWords chan ws)
    (fun _ _ h => h) rfl l

theorem State.formVerdict_regs (s : State) : s.formVerdict.regs = s.regs := by
  unfold State.formVerdict; split <;> rfl

theorem State.formVerdicts_regs (s : State) (n : Nat) : (s.formVerdicts n).regs = s.regs := by
  induction n generalizing s with
  | zero => rfl
  | succ n ih => exact (ih _).trans s.formVerdict_regs

/-- What waits for its transmit port and goes out writes no register. -/
theorem State.flushTx_regs (s : State) : s.flushTx.regs = s.regs := by
  have h1 : ∀ t : State, t.flushStatus.regs = t.regs := fun t => by
    unfold State.flushStatus; split
    · exact foldState_emitWords_regs _ _ _
    · rfl
  have h2 : ∀ t : State, t.flushStats.regs = t.regs := fun t => by
    unfold State.flushStats; split
    · exact foldState_emitWords_regs _ _ _
    · rfl
  have h3 : ∀ t : State, t.flushSnap.regs = t.regs := fun t => by
    unfold State.flushSnap; split
    · exact foldState_emitWords_regs _ _ _
    · rfl
  unfold State.flushTx
  rw [h3, h2, State.formVerdicts_regs, h1]

/-- The ERR bit of the placement is outside every channel's field. -/
theorem State.placementOk_putErr (s : State) : (s.putBit F.HOST_TX_VC_REC_ERR true).placementOk = s.placementOk := by
  refine State.placementOk_congr (State.reg_setReg_other _ _ _ _ _ _ _ _ (by decide)) (fun i hi => ?_) fun k hk => ?_
  · refine State.reg_setReg_other _ _ _ _ _ _ _ _ ?_
    simp only [Reg.addr, R.HOST_TX_VC_TAP, F.HOST_TX_VC_REC_ERR, R.HOST_TX_VC_REC]; omega
  · have hk16 : 4 * k + 4 ≤ 16 := by omega
    exact State.get_put_apart s F.HOST_TX_VC_REC_ERR ⟨R.HOST_TX_VC_REC, 4 * k, 4⟩ _ 0 0 rfl (hk16.trans (by decide))
      (Or.inl hk16)

theorem State.placed_ok {s t : State} (h : t.placementOk = true) : s.placed t = t.showTxPorts.flushTx := if_pos h

theorem State.placed_refused {s t : State} (h : t.placementOk = false) : s.placed t = s.putBit F.HOST_TX_VC_REC_ERR true :=
  if_neg (by simp [h])

/-- A placement that is taken or refused leaves a sound one sound. -/
theorem State.placed_placementOk {s : State} (hs : s.placementOk = true) (t : State) : (s.placed t).placementOk = true := by
  cases ht : t.placementOk with
  | true => rw [State.placed_ok ht, State.placementOk_of_regs (State.flushTx_regs _), State.placementOk_showTxPorts, ht]
  | false => rw [State.placed_refused ht, State.placementOk_putErr, hs]

/-- The write of a virtual-channel register is the placement it asks for. -/
theorem State.writeTxVc_placed (s : State) (k v : Nat) : s.writeTxVc k v = s.placed (if k = 3 then s.mergeReg R.HOST_TX_VC_REC v
    else s.mergeReg R.HOST_TX_VC_TAP (if k = 2 then v % 16 else v) k) := by
  unfold State.writeTxVc; split <;> rfl

/-- Settles O16: the pending records go out in packets of up to 64, and the placement of the channels stays sound. -/
theorem hostTransmit : Obligations.HostTransmit := by
  unfold Obligations.HostTransmit
  have hmap : ∀ (s : State) (v : Word), Live s → exec (.hostTxMapWrite v) s = .next (s.placed (s.mergeReg R.HOST_TX_MAP v.toNat)) :=
    fun s v hlive => goes_onDevice hlive (by unfold exec; rfl) rfl
  have hvc : ∀ (s : State) (k : Fin 4) (v : Word), Live s →
      exec (.hostTxVcWrite k v) s = .next (s.placed (if k.val = 3 then s.mergeReg R.HOST_TX_VC_REC v.toNat
        else s.mergeReg R.HOST_TX_VC_TAP (if k.val = 2 then v.toNat % 16 else v.toNat) k.val)) :=
    fun s k v hlive => goes_onDevice hlive (by unfold exec; rfl) (State.writeTxVc_placed s k.val v.toNat)
  refine ⟨fun s hlive _ hup => ?records, fun s v hlive h => (hmap s v hlive).trans (congrArg _ (State.placed_ok h)),
    fun s v hlive h => (hmap s v hlive).trans (congrArg _ (State.placed_refused h)), fun s t k v hlive ht => ?vc,
    fun s k v hlive h => ⟨fun t ht => ?_, fun t ht => ?_⟩⟩
  case records =>
    obtain ⟨fs, hfs, hlen, hsent⟩ := State.formVerdicts_all _ s hup rfl
    exact ⟨_, fs, goes_onDevice hlive (by unfold exec; rfl) rfl, hfs, hlen, by rw [hlen]; exact hsent⟩
  case vc =>
    subst ht
    exact ⟨fun h => (hvc s k v hlive).trans (congrArg _ (State.placed_ok h)),
      fun h => (hvc s k v hlive).trans (congrArg _ (State.placed_refused h))⟩
  · rw [hvc s k v hlive] at ht
    exact Host.Outcome.next.inj ht ▸ State.placed_placementOk h _
  · rw [hmap s v hlive] at ht
    exact Host.Outcome.next.inj ht ▸ State.placed_placementOk h _

end Sys2Proof.Machine
end

section
/-! The Common Command Codes (R58): each acts on a bus that is up, out of HDR mode. -/
namespace Sys2Proof.Machine
open Sys2Proof.Claims

/-- What the I3C target does on a bus that is up. -/
theorem goes_onBus {i : Instr} {s t : State} {f : State → State} (hbus : BusUp s) (hi : exec i s = onBus s f)
    (ht : f s = t) : Goes i s t := by
  refine goes_onDevice hbus.1 hi ?_
  rw [if_pos hbus.2, ht]

/-- A Common Command Code acts on the target out of HDR mode. -/
theorem goes_onSdr {i : Instr} {s t : State} {f : State → State} (hbus : BusUp s) (hi : exec i s = onSdr s f)
    (ht : f (sdr s) = t) : Goes i s t := goes_onBus hbus hi ht

/-- A request of an In-Band Interrupt changes the I3C target alone. -/
theorem State.requestIbi_i3c (s : State) : OnlyI3c s s.requestIbi := by
  unfold State.requestIbi; split_ifs <;> rfl

/-- With the interrupts enabled, one is pending after a request. -/
theorem State.requestIbi_pending {s : State} (h : s.i3c.ibiOn = true) :
    s.requestIbi.i3c.ibiOn = true ∧ s.requestIbi.i3c.pending = true := by
  unfold State.requestIbi
  rw [if_neg (by simp [h])]
  split
  · rename_i hp; exact ⟨h, hp⟩
  · exact ⟨h, rfl⟩

/-- With the interrupts disabled, a cause requests none. -/
theorem State.raise_disabled {s : State} (h : s.i3c.ibiOn = false) (f : Fld) : s.raise f = s.put f 1 := by
  have hreq : (s.put f 1).requestIbi = s.put f 1 := if_pos (by simp [h])
  unfold State.raise
  dsimp only
  rw [hreq, ite_self]

/-- A limit out of range changes nothing. -/
theorem limitOk_iff (n : Nat) : limitOk n = true ↔ 8 ≤ n ∧ n ≤ 256 := by simp [limitOk]

/-- The status word that GETSTATUS answers (R58). -/
theorem State.i3cStatus_eq (s : State) : s.i3cStatus =
    bit s.i3c.pending + 2 ^ 5 * bit s.i3c.protoErr + 2 ^ 8 * (s.reg R.HOST_STATUS % 256) := by
  simp [State.i3cStatus, bitsOf]

/-- Settles O17: each Common Command Code by the operation it is on the target. -/
theorem commonCommandCodes : Obligations.CommonCommandCodes := by
  unfold Obligations.CommonCommandCodes
  intro s d hbus
  refine ⟨fun h => ?enec, fun h => ?enecActive, ?disec, goes_onSdr hbus (show execRstdaa s = _ from rfl) rfl, fun a h => ?entdaa,
    fun a b h => ?entdaaTaken, ?setaasa, fun a => goes_onSdr hbus (show execSetdasa a s = _ from rfl) rfl,
    fun a => goes_onSdr hbus (show execSetnewda a s = _ from rfl) rfl, fun n h8 h256 => ?limits, fun n hn => ?noLimits,
    goes_onSdr hbus (show execGetmwl s = _ from rfl) rfl, goes_onSdr hbus (show execGetmrl s = _ from rfl) rfl,
    goes_onSdr hbus (show execGetpid s = _ from rfl) rfl, goes_onSdr hbus (show execGetbcr s = _ from rfl) rfl,
    goes_onSdr hbus (show execGetdcr s = _ from rfl) rfl, ?getstatus, goes_onSdr hbus (show execGetmxds s = _ from rfl) rfl,
    goes_onSdr hbus (show execGetcaps s = _ from rfl) rfl, goes_onBus hbus (show execEnthdr0 s = _ from rfl) rfl,
    fun l => goes_onSdr hbus (show execEntas l s = _ from rfl) rfl, fun v hv => goes_onSdr hbus (show execRstact d v s = _ from rfl) (if_neg hv),
    goes_onSdr hbus (show execRstact d 0x01#8 s = _ from rfl) (if_pos rfl), fun c => ⟨goes_onSdr hbus (show execCccUnlisted .direct c s = _ from rfl) rfl,
      goes_onSdr hbus (show execCccUnlisted .broadcast c s = _ from rfl) rfl⟩⟩
  case enec => exact goes_onSdr hbus (show execEnec d s = _ from rfl) (if_neg (not_not_intro h))
  case enecActive =>
    refine ⟨_, goes_onSdr hbus (show execEnec d s = _ from rfl) (if_pos h), ?_, State.requestIbi_pending rfl⟩
    exact (State.requestIbi_i3c { sdr s with i3c := { (sdr s).i3c with ibiOn := true } }).trans rfl
  case disec => exact ⟨_, goes_onSdr hbus (show execDisec d s = _ from rfl) rfl, rfl, rfl, rfl, rfl, State.raise_disabled rfl⟩
  case entdaa =>
    exact ⟨_, goes_onSdr hbus (show execEntdaa a s = _ from rfl) (if_neg (by simp [sdr, h])), rfl, rfl, rfl⟩
  case entdaaTaken => exact goes_onSdr hbus (show execEntdaa a s = _ from rfl) (if_pos (by simp [sdr, h]))
  case setaasa => exact ⟨_, goes_onSdr hbus (show execSetaasa s = _ from rfl) rfl, rfl, rfl⟩
  case limits =>
    have hok := (limitOk_iff n).mpr ⟨h8, h256⟩
    exact ⟨goes_onSdr hbus (show execSetmwl d n s = _ from rfl) (if_pos hok), goes_onSdr hbus (show execSetmrl d n s = _ from rfl) (if_pos hok)⟩
  case noLimits =>
    have hno : ¬ limitOk n = true := fun h => by have := (limitOk_iff n).mp h; omega
    exact ⟨goes_onSdr hbus (show execSetmwl d n s = _ from rfl) (if_neg hno), goes_onSdr hbus (show execSetmrl d n s = _ from rfl) (if_neg hno)⟩
  case getstatus => exact ⟨_, goes_onSdr hbus (show execGetstatus s = _ from rfl) rfl, rfl, rfl,
    congrArg (fun n => some (twoBytes n)) s.i3cStatus_eq⟩

end Sys2Proof.Machine
end

section
/-! The register window of the I3C target, in SDR and in HDR-DDR (R59, R60). -/
namespace Sys2Proof.Machine
open Sys2Proof.Claims

/-- What a write to the target does with the offset that its first two bytes give. -/
theorem goes_privateWrite {s t : State} {lo hi : Byte} {d : List Byte} (hbus : BusUp s) (hmwl : 8 ≤ s.i3c.mwl)
    (ht : (if (lo.toNat + 256 * hi.toNat) % 4 ≠ 0 then sdr s
      else if (d.take (s.i3c.mwl - 2)).isEmpty then
        { sdr s with i3c := { (sdr s).i3c with ptr := lo.toNat + 256 * hi.toNat } }
      else (sdr s).windowWrites (lo.toNat + 256 * hi.toNat) (bytesWords (d.take (s.i3c.mwl - 2)))) = t) :
    Goes (.i3cPrivateWrite (lo :: hi :: d)) s t := by
  refine goes_onSdr hbus (show execI3cPrivateWrite (lo :: hi :: d) s = _ from rfl) ?_
  obtain ⟨n, hn⟩ : ∃ n, s.i3c.mwl = n + 2 := ⟨s.i3c.mwl - 2, by omega⟩
  rw [hn] at ht
  rw [show (sdr s).i3c.mwl = n + 2 from hn]
  exact ht

/-- A write to the target of one word at an aligned offset of the first 256 bytes. -/
theorem goes_privateWrite_word {s t : State} {lo : Byte} {v : Word} (hbus : BusUp s) (hmwl : 8 ≤ s.i3c.mwl)
    (h4 : lo.toNat % 4 = 0) (ht : (sdr s).windowWrite lo.toNat v = t) :
    Goes (.i3cPrivateWrite (lo :: 0x00#8 :: wordBytes v)) s t := by
  have htake : (wordBytes v).take (s.i3c.mwl - 2) = wordBytes v :=
    List.take_of_length_le (show 4 ≤ s.i3c.mwl - 2 by omega)
  have hoff : lo.toNat + 256 * (0x00#8).toNat = lo.toNat := by simp
  refine goes_privateWrite hbus hmwl ?_
  rw [htake, hoff, if_neg (not_not_intro h4), if_neg (by simp [wordBytes])]
  have hw := bytesWords_wordsBytes [v]
  rw [show wordsBytes [v] = wordBytes v by simp [wordsBytes]] at hw
  rw [hw, ← ht]; rfl

/-- A window write below 0x40 is one of MBX_H2D_DATA, or a collision. -/
theorem State.windowWrite_data {s : State} {off : Nat} (h : off < 0x40) (v : Word) : s.windowWrite off v =
    if s.on F.MBX_H2D_GO_FULL then s.putBit F.HOST_STATUS_MBX_COLLIDE true
    else s.setReg R.MBX_H2D_DATA v.toNat (off / 4) := if_pos h

/-- A read of one word of the window, other than MBX_D2H_GO, changes nothing. -/
theorem State.windowReads_one {s : State} {off : Nat} (h : off ≠ 0xC0) :
    s.windowReads 1 off = (s, [s.windowValue off]) := by
  simp only [State.windowReads, if_neg h]

theorem State.windowValue_sdr (s : State) (off : Nat) : (sdr s).windowValue off = s.windowValue off := rfl

/-- Two 16-bit data words of HDR-DDR make one word, the first its low half. -/
theorem hdrWords_pair (a b : BitVec 16) : hdrWords [a, b] = [b ++ a] := rfl

theorem toNat_hdrWord (a b : BitVec 16) : (b ++ a).toNat = a.toNat + 2 ^ 16 * b.toNat := by
  rw [BitVec.toNat_append, Nat.shiftLeft_eq, ← Nat.shiftLeft_eq, ← Nat.shiftLeft_add_eq_or_of_lt a.isLt, Nat.shiftLeft_eq]
  omega

/-- What each listed offset of the window shows. -/
theorem State.windowValue_d2h (s : State) {i : Nat} (hi : i < 16) : s.windowValue (0x80 + 4 * i) = w32 (s.reg R.MBX_D2H_DATA i) := by
  rw [State.windowValue, if_neg (by omega), if_neg (by omega), if_pos (by omega), show (0x80 + 4 * i - 0x80) / 4 = i by omega]

theorem State.windowValue_h2d (s : State) {i : Nat} (hi : i < 16) : s.windowValue (4 * i) = w32 (s.reg R.MBX_H2D_DATA i) := by
  rw [State.windowValue, if_pos (by omega), show 4 * i / 4 = i by omega]

/-- Settles O18: the read pointer, the words of a write, and the reads, in SDR and in HDR-DDR. -/
theorem registerWindow : Obligations.RegisterWindow := by
  unfold Obligations.RegisterWindow
  refine ⟨fun s lo hi hbus hmwl h4 => ?pointer, fun s lo v hbus hmwl h4 hlo hfull => ?free,
    fun s lo v hbus hmwl h4 hlo hfull => ?full, fun s lo hi d hbus hmwl h4 => goes_privateWrite hbus hmwl (if_pos h4),
    fun s hbus hmrl hptr => ?read, fun s => ⟨rfl, rfl, rfl, rfl, rfl, fun i hi => ⟨s.windowValue_h2d hi, s.windowValue_d2h hi⟩⟩,
    fun s k a b n hbus hhdr hk hfull => ?hdrWrite, fun s k d n hbus hhdr hk => ?hdrError,
    fun s k d ok hbus hhdr hk hgo => ?hdrRead⟩
  case pointer =>
    refine goes_privateWrite hbus hmwl ?_
    rw [if_neg (not_not_intro h4), List.take_nil, List.isEmpty_nil, if_pos rfl]
  case free =>
    refine goes_privateWrite_word hbus hmwl h4 ?_
    rw [State.windowWrite_data hlo, if_neg (by exact Bool.eq_false_iff.mp hfull)]
  case full =>
    refine goes_privateWrite_word hbus hmwl h4 ?_
    rw [State.windowWrite_data hlo, if_pos (by exact hfull)]
  case read =>
    have hmin : min 4 (sdr s).i3c.mrl = 4 := Nat.min_eq_left (show 4 ≤ s.i3c.mrl by omega)
    refine ⟨_, goes_onSdr hbus (show execI3cPrivateRead 4 s = _ from rfl) rfl, ?_⟩
    have hread : (sdr s).windowReads (ceilDiv 4 4) (sdr s).i3c.ptr = (sdr s, [s.windowValue s.i3c.ptr]) :=
      State.windowReads_one hptr
    rw [hmin]
    dsimp only
    rw [hread]
    exact ⟨rfl, rfl, rfl⟩
  case hdrWrite =>
    refine goes_onBus hbus (show execHdrDdrTransfer k [a, b] n true s = _ from rfl) ?_
    rw [if_neg (by simp [hhdr]), if_pos (by omega), if_pos rfl, hdrWords_pair]
    show s.windowWrite (4 * k.toNat) (b ++ a) = _
    rw [State.windowWrite_data (by omega), if_neg (Bool.eq_false_iff.mp hfull), toNat_hdrWord,
      show 4 * k.toNat / 4 = k.toNat by omega]
  case hdrError =>
    refine goes_onBus hbus (show execHdrDdrTransfer k d n false s = _ from rfl) ?_
    rw [if_neg (by simp [hhdr]), if_pos hk, if_neg (by simp)]
  case hdrRead =>
    refine goes_onBus hbus (show execHdrDdrTransfer k d 1 ok s = _ from rfl) ?_
    rw [if_neg (by simp [hhdr]), if_neg (by omega), State.windowReads_one (by omega)]
    rfl

end Sys2Proof.Machine
end

section
/-! The mailboxes and the In-Band Interrupts (R62 to R66). -/
namespace Sys2Proof.Machine
open Sys2Proof.Claims

/-- The lowest bit of what two numbers share. -/
theorem land_mod_two (x m : Nat) : (x &&& m) % 2 = (x % 2) * (m % 2) := by
  have h : (x &&& m) % 2 ^ 1 = (x % 2 ^ 1) &&& (m % 2 ^ 1) := Nat.and_mod_two_pow
  rw [Nat.pow_one] at h
  rw [h]
  rcases Nat.mod_two_eq_zero_or_one x with hx | hx <;> rcases Nat.mod_two_eq_zero_or_one m with hm | hm <;> rw [hx, hm] <;> rfl

/-- Bits taken away from a number that has them are cleared. -/
theorem testBit_sub_land (x m i : Nat) : (x - Nat.land x m).testBit i = (x.testBit i && !m.testBit i) := by
  show (x - (x &&& m)).testBit i = _
  have hle := Nat.and_le_left (n := x) (m := m)
  have hmod := land_mod_two x m
  induction i generalizing x m with
  | zero =>
    simp only [Nat.testBit_zero]
    rcases Nat.mod_two_eq_zero_or_one x with hx | hx <;> rcases Nat.mod_two_eq_zero_or_one m with hm | hm <;>
      simp only [hx, hm] at hmod ⊢ <;> simp <;> omega
  | succ i ih =>
    have hdiv : (x - (x &&& m)) / 2 = x / 2 - (x / 2 &&& m / 2) := by
      have hhalf : (x &&& m) / 2 = x / 2 &&& m / 2 := Nat.and_div_two
      have hlow : (x &&& m) % 2 ≤ x % 2 := by
        rcases Nat.mod_two_eq_zero_or_one m with hm | hm <;> rw [hmod, hm] <;> omega
      omega
    rw [Nat.testBit_succ, Nat.testBit_succ, Nat.testBit_succ, hdiv, ih _ _ Nat.and_le_left (land_mod_two _ _)]

/-! ### Posting and taking a message -/

/-- The registers of one field's write are those at other addresses. -/
theorem sameRegs_put (s : State) (f : Fld) (v : Nat) : SameRegs s (s.put f v) [f.reg.addr 0 0] :=
  fun _ ha => tget?_setReg _ _ _ _ _ _ fun h => ha (by simp [h])

theorem SameRegs.trans {s t u : State} {l k : List Nat} (h : SameRegs s t l) (g : SameRegs t u k) : SameRegs s u (l ++ k) :=
  fun a ha => (g a fun hk => ha (List.mem_append_right _ hk)).trans (h a fun hl => ha (List.mem_append_left _ hl))

/-- The device frees MBX_D2H: FULL and REPLY are clear, and the watchdog is off. -/
theorem State.freeD2h_regs (s : State) : s.freeD2h.regs = ((s.putBit F.MBX_D2H_GO_FULL false).put F.HOST_IBI_CAUSE_REPLY 0).regs := rfl

theorem State.freeD2h_full (s : State) : s.freeD2h.on F.MBX_D2H_GO_FULL = false := by
  rw [State.on_congr s.freeD2h_regs, State.on, State.get_put_other _ _ _ _ _ _ _ _ (by decide)]
  exact State.on_putBit _ _ _ _ _ rfl (by decide)

theorem State.freeD2h_reply (s : State) : s.freeD2h.get F.HOST_IBI_CAUSE_REPLY = 0 := by
  rw [State.get_congr s.freeD2h_regs, State.get_put _ _ _ _ _ (by decide)]; rfl

theorem State.freeD2h_sameRegs (s : State) : SameRegs s s.freeD2h [R.MBX_D2H_GO.addr 0 0, R.HOST_IBI_CAUSE.addr 0 0] :=
  SameRegs.trans (sameRegs_put s F.MBX_D2H_GO_FULL (bit false)) (sameRegs_put _ F.HOST_IBI_CAUSE_REPLY 0)

/-- A register that freeing MBX_D2H does not write. -/
theorem State.freeD2h_get (s : State) (f : Fld) (h1 : f.reg.addr 0 0 ≠ R.MBX_D2H_GO.addr 0 0)
    (h2 : f.reg.addr 0 0 ≠ R.HOST_IBI_CAUSE.addr 0 0) : s.freeD2h.get f = s.get f := by
  rw [State.get_congr s.freeD2h_regs, State.get_put_other _ _ _ _ _ _ _ _ h2, State.putBit,
    State.get_put_other _ _ _ _ _ _ _ _ h1]

theorem State.freeD2h_portUp (s : State) : s.freeD2h.portUp (s.freeD2h.txPort 22) = s.portUp (s.txPort 22) := by
  have hport : s.freeD2h.txPort 22 = s.txPort 22 := by
    unfold State.txPort
    rw [State.freeD2h_get s F.HOST_TX_MAP_REC_PORT (by decide) (by decide)]; rfl
  unfold State.portUp State.on
  rw [hport, State.freeD2h_get s F.HOST_STATUS_TX0_UP (by decide) (by decide),
    State.freeD2h_get s F.HOST_STATUS_TX1_UP (by decide) (by decide)]

theorem State.readD2hGo_full {s : State} (h : s.on F.MBX_D2H_GO_FULL = true) : s.readD2hGo = s.freeD2h.nextD2h := if_pos h

theorem State.nextD2h_nil {s : State} (h : s.host.d2hQueue = []) : s.nextD2h = s := by rw [State.nextD2h, h]

theorem State.nextD2h_cons {s : State} {ws : List Word} {q : List (List Word)} (h : s.host.d2hQueue = ws :: q) :
    s.nextD2h = State.placeD2h { s with host := { s.host with d2hQueue := q } } ws := by rw [State.nextD2h, h]

/-- A placed reply sets its cause. -/
theorem State.placeD2h_reply (s : State) (ws : List Word) : (s.placeD2h ws).get F.HOST_IBI_CAUSE_REPLY = 1 := by
  rw [State.get_congr (s.placeD2h_regs ws), State.get_put _ _ _ _ _ (by decide)]; rfl

/-- Words that go out are one packet of the channel's type. -/
theorem State.emitWords_sent (s : State) (chan : Nat) (ws : List Word) : ∃ f, (s.emitWords chan ws).host.sent = s.host.sent ++ [f] ∧
    f.chan = chan ∧ f.packets = [(recType chan, wordsBytes ws)] := ⟨_, rfl, rfl, rfl⟩

/-! ### Causes -/

/-- The causes that a write of HOST_IBI_CAUSE clears. -/
theorem testBit_ibiMask {i : Nat} (hi : i < 32) : Nat.testBit 0xFFE i = (decide (1 ≤ i) && decide (i ≤ 11)) := by
  revert i; decide

/-- A write of HOST_IBI_CAUSE clears causes, and requests an interrupt while an enabled one stays set. -/
theorem State.writeIbiCause_eq (s : State) (v : Nat) : ∃ t, s.writeIbiCause v = t ∧
    t = { s with regs := t.regs, i3c := t.i3c } ∧
    t.regs = (s.setReg R.HOST_IBI_CAUSE (s.reg R.HOST_IBI_CAUSE - Nat.land (s.reg R.HOST_IBI_CAUSE) (Nat.land v 0xFFE))).regs ∧
    (t.ibiActive ≠ 0 → s.i3c.ibiOn = true → t.i3c.pending = true) := by
  refine ⟨_, rfl, ?_⟩
  unfold State.writeIbiCause
  dsimp only
  generalize hu : s.setReg R.HOST_IBI_CAUSE _ = u
  have honly : u = { s with regs := u.regs, i3c := s.i3c } := by rw [← hu]; rfl
  split
  · have hreq := u.requestIbi_i3c
    refine ⟨by rw [hreq, honly], u.requestIbi_regs, fun _ hon => ?_⟩
    exact (State.requestIbi_pending (by rw [honly]; exact hon)).2
  · rename_i h
    exact ⟨by rw [honly], rfl, fun hne => absurd hne h⟩

/-- Settles O19: the mailboxes' messages and replies, and the notifications. -/
theorem mailboxesAndNotifications : Obligations.MailboxesAndNotifications := by
  unfold Obligations.MailboxesAndNotifications
  refine ⟨fun s v hbus hfull => goes_onBus hbus (show execMbxH2dGoWrite v s = _ from rfl) (if_pos hfull),
    fun s v hbus hfull hv => ?post, fun s v hbus hfull hv => ?ignored,
    fun s hlive hfull => goes_onDevice hlive (show execMbxWake s = _ from rfl) (if_pos hfull),
    fun s hbus hfull hq => ?taken, fun s ws q hbus hfull hq => ?next, fun s hbus hfull => ?free,
    fun s hlive hwatch hfull hq hup => ?watchdog, fun s f hf h0 h1 hon => ?cause,
    fun s f hf h0 => if_neg fun h => h0 h.1, fun s v hlive => ?clear, fun s hbus hp => ?delivered⟩
  case post =>
    refine ⟨_, goes_onBus hbus (show execMbxH2dGoWrite v s = _ from rfl)
      ((if_neg (Bool.eq_false_iff.mp hfull)).trans (if_pos hv)), rfl, sameRegs_put s F.MBX_H2D_GO_FULL (bit true), ?_⟩
    exact State.on_putBit s F.MBX_H2D_GO_FULL true 0 0 rfl (by decide)
  case ignored =>
    exact goes_onBus hbus (show execMbxH2dGoWrite v s = _ from rfl)
      ((if_neg (Bool.eq_false_iff.mp hfull)).trans (if_neg (Bool.eq_false_iff.mp hv)))
  case taken =>
    have hread : s.readD2hGo = s.freeD2h := (State.readD2hGo_full hfull).trans (State.nextD2h_nil hq)
    refine ⟨_, goes_onBus hbus (show execMbxD2hGoRead s = _ from rfl) rfl, ?_⟩
    rw [hread]
    exact ⟨rfl, s.freeD2h_sameRegs, s.freeD2h_full, s.freeD2h_reply, rfl⟩
  case next =>
    have hread : s.readD2hGo = State.placeD2h { s.freeD2h with host := { s.freeD2h.host with d2hQueue := q } } ws :=
      (State.readD2hGo_full hfull).trans (State.nextD2h_cons hq)
    refine ⟨_, goes_onBus hbus (show execMbxD2hGoRead s = _ from rfl) rfl, ?_⟩
    rw [hread]
    refine ⟨State.placeD2h_queue _ _, State.placeD2h_full _ _, State.placeD2h_reply _ _, fun i h16 hi => ?_⟩
    refine (congrArg w32 (State.placeD2h_data _ ws hi h16)).trans ?_
    rw [List.getD_eq_getElem _ _ hi]; simp [w32]
  case free =>
    refine goes_onBus hbus (show execMbxD2hGoRead s = _ from rfl) ?_
    rw [State.readD2hGo, if_neg (Bool.eq_false_iff.mp hfull)]
  case watchdog =>
    have hup' := s.freeD2h_portUp.trans hup
    obtain ⟨f, hsent, hchan, hpackets⟩ := s.freeD2h.emitWords_sent 22 s.host.d2hLast
    refine ⟨_, f, goes_onDevice hlive (show execMbxWatchdogExpire s = _ from rfl)
      ((if_pos (by simp [hwatch, hfull])).trans (State.nextD2h_nil ?_)), ?_⟩
    · rw [State.raise_host, State.sendStatus_up hup']; exact hq
    · have hu : (s.freeD2h.sendStatus s.host.d2hLast).regs = s.freeD2h.regs := by rw [State.sendStatus_up hup']; rfl
      have hregs := State.raise_regs ((s.freeD2h.sendStatus s.host.d2hLast).bump F.HOST_TX_CNT_MBX_WDT) F.HOST_IBI_CAUSE_MBX_WDT
      refine ⟨?_, ?_, hchan, hpackets, ?_, ?_⟩
      · rw [State.on_congr hregs, State.on, State.get_put_other _ _ _ _ _ _ _ _ (by decide), State.bump, State.bumpBy,
          State.get_put_other _ _ _ _ _ _ _ _ (by decide), State.get_congr hu]
        exact s.freeD2h_full
      · rw [State.raise_host, State.sendStatus_up hup']; exact hsent
      · rw [State.get_congr hregs, State.get_put_other _ _ _ _ _ _ _ _ (by decide), State.bump,
          State.get_bumpBy _ _ _ _ _ (by decide), State.get_congr hu, State.freeD2h_get s _ (by decide) (by decide)]
      · rw [State.get_congr hregs, State.get_put _ _ _ _ _ (by decide)]; rfl
  case cause =>
    have hraise : s.raise f = (s.put f 1).requestIbi := if_pos ⟨h0, h1⟩
    rw [hraise]
    exact ⟨(State.requestIbi_pending (s := s.put f 1) hon).2, State.requestIbi_regs _⟩
  case clear =>
    obtain ⟨t, ht, honly, hregs, hpend⟩ := s.writeIbiCause_eq v.toNat
    refine ⟨t, goes_onDevice hlive (show execHostIbiCauseWrite v s = _ from rfl) ht, honly, fun a ha => ?_, fun i hi => ?_, hpend⟩
    · rw [hregs]
      exact tget?_setReg _ _ _ _ _ _ fun h => ha (by simp [h])
    · rw [State.reg_congr hregs, State.reg_setReg, bitAt_eq_testBit, bitAt_eq_testBit, bitAt_eq_testBit, Nat.testBit_mod_two_pow,
        testBit_sub_land, show Nat.land v.toNat 0xFFE = v.toNat &&& 0xFFE from rfl, Nat.testBit_and, testBit_ibiMask hi,
        Bool.and_assoc]
      simp [hi]
  case delivered =>
    exact ⟨_, goes_onBus hbus (show execIbiDelivered s = _ from rfl) (if_pos hp), rfl, rfl, rfl, rfl⟩

end Sys2Proof.Machine
end

section
/-! The general commands and the start of any command (R52, R70, R74, R80, R449). -/
namespace Sys2Proof.Machine
open Sys2Proof.Claims

/-! ### The reset that a command asks for -/

theorem State.requestReset_boot (s : State) (cause : Nat) :
    s.requestReset cause = { s with boot := { s.boot with resetDue := (s.requestReset cause).boot.resetDue } } := by
  unfold State.requestReset; split <;> rfl

theorem State.requestReset_due (s : State) (cause : Nat) : (s.requestReset cause).boot.resetDue.isSome = true ∧
    (s.boot.resetDue = none → (s.requestReset cause).boot.resetDue = some cause) := by
  unfold State.requestReset
  split
  · rename_i h
    exact ⟨h, fun hn => by simp [hn] at h⟩
  · exact ⟨rfl, fun _ => rfl⟩

/-! ### The setpoint -/

/-- With no CMD_SET_VCORE running, none ends. -/
theorem State.vcoreSettled_none {s : State} (h : s.runningCmd 0x0103 = none) (n : Nat) : s.vcoreSettled n = s := by
  cases n with
  | zero => rfl
  | succ n =>
    rw [State.vcoreSettled, h]
    simp

theorem State.settleVcore_none {s : State} (h : s.runningCmd 0x0103 = none) : s.settleVcore = s := by
  have hfin : s.finishOp 0x0103 .badState = s := by rw [State.finishOp, h]
  unfold State.settleVcore
  dsimp only
  split
  · exact timesFrom_keeps (P := fun t => t = s) (f := fun t _ => t.finishOp 0x0103 .badState)
      (fun t _ ht => by rw [ht, hfin]) rfl _ _
  · exact State.vcoreSettled_none h _

/-- A device that is not throttled shows its setpoint, and stays so. -/
theorem State.setDepth_zero {s : State} (h : s.power.depth = 0) :
    s.setDepth 0 = (s.showVcore.putBit F.SYS_THROTTLE_STAT_ACTIVE false).put F.SYS_THROTTLE_STAT_DEPTH 0 := by
  obtain ⟨regs, latch, mem, fills, scrub, i3c, host, boot, fuses, straps, snap, time, link, die, field, cams, pipes, rules,
    bobs, lastBob, intake, looms, sched, twin, ⟨target, now, depth, floor⟩, tdcSeen, fenceDue, splits, copies, freeUse,
    pending⟩ := s
  obtain rfl : depth = 0 := h
  rfl

/-- Without the external supply both fields of SYS_VCORE follow the setpoint. -/
theorem State.showVcore_get {s : State} (h : s.straps.pwrExt = false) :
    s.showVcore.get F.SYS_VCORE_TARGET = s.power.target % 2 ^ 10 ∧
    s.showVcore.get F.SYS_VCORE_EFFECTIVE = s.vcoreEffective % 2 ^ 10 := by
  have hshow : s.showVcore = (s.put F.SYS_VCORE_TARGET s.power.target).put F.SYS_VCORE_EFFECTIVE s.vcoreEffective := by
    unfold State.showVcore; exact if_neg (by simp [h])
  rw [hshow]
  refine ⟨?_, State.get_put _ _ _ _ _ (by decide)⟩
  rw [State.get_put_apart _ F.SYS_VCORE_EFFECTIVE F.SYS_VCORE_TARGET _ 0 0 rfl (by decide) (.inl (by decide)),
    State.get_put _ _ _ _ _ (by decide)]
  rfl

theorem State.showVcore_power (s : State) : s.showVcore.power = s.power ∧ s.showVcore.host = s.host ∧
    s.showVcore.straps = s.straps := by
  unfold State.showVcore; dsimp only; split <;> exact ⟨rfl, rfl, rfl⟩

/-- The state in which a new setpoint has been taken on an unthrottled device. -/
def State.retargeted (s : State) (mv : Nat) : State :=
  (State.showVcore { s with power := { s.power with target := mv } }).putBit F.SYS_THROTTLE_STAT_ACTIVE false |>.put
    F.SYS_THROTTLE_STAT_DEPTH 0

theorem State.retargeted_eq (s : State) (mv : Nat) : (s.retargeted mv).power = { s.power with target := mv } ∧
    (s.retargeted mv).host = s.host := by
  obtain ⟨hp, hh, -⟩ := State.showVcore_power { s with power := { s.power with target := mv } }
  exact ⟨hp, hh⟩

theorem State.retargeted_get (s : State) (f : Fld) (hf : f.reg = R.SYS_VCORE) (mv : Nat) :
    (s.retargeted mv).get f = (State.showVcore { s with power := { s.power with target := mv } }).get f := by
  have hreg : f.reg.addr 0 0 ≠ R.SYS_THROTTLE_STAT.addr 0 0 := by rw [hf]; decide
  rw [State.retargeted, State.get_put_other _ _ _ _ _ _ _ _ hreg, State.putBit, State.get_put_other _ _ _ _ _ _ _ _ hreg]

/-- On an unthrottled device, with no CMD_SET_VCORE running, a new setpoint only shows. -/
theorem State.retargeted_settled {s : State} (hdepth : s.power.depth = 0) (hrun : s.runningCmd 0x0103 = none) (mv n : Nat) :
    (State.setDepth { s with power := { s.power with target := mv } } (min s.power.depth n)).settleVcore = s.retargeted mv := by
  have hset : State.setDepth { s with power := { s.power with target := mv } } (min s.power.depth n) = s.retargeted mv := by
    rw [hdepth, Nat.zero_min]
    exact State.setDepth_zero (s := { s with power := { s.power with target := mv } }) hdepth
  have hhost := (s.retargeted_eq mv).2
  rw [hset]
  exact State.settleVcore_none (by unfold State.runningCmd; rw [hhost]; exact hrun)

/-! ### The start of a command -/

/-- A command of the source that has sent no reply yet lets none start. -/
theorem State.mayStart_silent {s : State} {src : Source} {op : Nat} {e : Source × Cmd} (he : e ∈ s.host.running)
    (hsrc : e.1 = src) (hsil : e.2.silent = true) : s.mayStart src op = false := by
  have hany : (s.host.running.any fun e => e.1 == src && e.2.silent) = true :=
    List.any_eq_true.mpr ⟨e, he, by simp [hsrc, hsil]⟩
  simp [State.mayStart, hany]

theorem State.startCmd_begin {s : State} {src : Source} {op : Nat} {c : Cmd} (body : State → Cmd → State × Answer)
    (hc : s.oldest src = some c) (hop : c.opcode = op) (hmay : s.mayStart src op = true) :
    s.startCmd src op body = s.begin src c body := by
  rw [State.startCmd, hc]; exact if_pos ⟨hop, hmay⟩

/-- A command that fails at once is answered, whatever its bulk. -/
theorem begin_fails {s : State} {src : Source} {c : Cmd} (body : State → Cmd → State × Answer)
    (h : (body (s.dropOldest src) c).2.fails = true) :
    s.begin src c body = (body (s.dropOldest src) c).1.answer src c (body (s.dropOldest src) c).2 :=
  if_pos (by simp [h])

/-- A command whose bulk was cut short, or did not come, ends so, with nothing else done. -/
theorem begin_cut {s : State} {src : Source} {c : Cmd} {op : Nat} (body : State → Cmd → State × Answer)
    (h : (body (s.dropOldest src) c).2.fails = false) (hop : c.opcode = op) (h901 : op ≠ 0x0901) (hbulk : op ∉ bulkOps)
    (haw : c.bulkEnd ≠ .awaiting) (hst : c.bulkStatus ≠ .done) :
    s.begin src c body = (s.dropOldest src).reply src c c.bulkStatus := by
  subst hop
  exact (if_neg (by simp [h, h901])).trans ((if_neg haw).trans (if_pos ⟨hst, by simp [hbulk]⟩))

/-- A setpoint that the device can give is one that its command does not refuse. -/
theorem setVcore_taken {s : State} {c : Cmd} (h10 : c.p 1 % 10 = 0) (hlo : 650 ≤ c.p 1) (hhi : c.p 1 ≤ 900)
    (hext : s.straps.pwrExt = false) (hno : bitAt (s.get F.SYS_PWR_STAT_NO_RESPONSE) 0 = false)
    (hbad : s.on F.SYS_PWR_STAT_BAD_MODE = false) :
    ¬ (c.p 1 % 10 ≠ 0 ∨ c.p 1 < 650 ∨ 900 < c.p 1) ∧ ¬ (s.straps.pwrExt || s.regulatorBad) = true :=
  ⟨by omega, by simp [hext, State.regulatorBad, hno, hbad]⟩

/-- Settles O20: each general command by its row, and the start of any command by what its bulk has come to. -/
theorem generalCommands : Obligations.GeneralCommands := by
  unfold Obligations.GeneralCommands
  refine ⟨fun s src c h => ends_runCmd h (show execCmdNop src s = _ from rfl) rfl,
    fun s src c h => ends_runCmd h (show execCmdGetInfo src s = _ from rfl) rfl, fun s src c h => ?reset,
    fun s src c h h10 hlo hhi hext hno hbad hdepth hrun => ?setVcore,
    fun s src c h hbad => ends_runCmd h (show execCmdSetVcore src s = _ from rfl) (if_pos hbad),
    fun s src op body h => startCmd_not body fun c hc ⟨hop, hmay⟩ => ?notOldest,
    fun s src op e he hsrc hsil => State.mayStart_silent he hsrc hsil,
    fun s src op c body hc hop h901 hmay => ?begins⟩
  case reset =>
    obtain ⟨hdue, hnone⟩ := (s.dropOldest src).requestReset_due 1
    refine ⟨_, ends_runCmd h (show execCmdReset src s = _ from rfl) rfl, hdue, hnone, ?_⟩
    unfold State.resetAfter
    rw [State.requestReset_boot]
    rfl
  case setVcore =>
    obtain ⟨hrange, hable⟩ := setVcore_taken h10 hlo hhi hext hno hbad
    obtain ⟨hpower, hhost⟩ := (s.dropOldest src).retargeted_eq (c.p 1)
    have hmod : c.p 1 % 2 ^ 10 = c.p 1 := Nat.mod_eq_of_lt (by omega)
    obtain ⟨htarget, heff⟩ := State.showVcore_get
      (s := { s.dropOldest src with power := { s.power with target := c.p 1 } }) hext
    have hsettle := State.retargeted_settled (s := s.dropOldest src) hdepth hrun (c.p 1)
    have hnow : ((s.dropOldest src).retargeted (c.p 1)).power.now = s.power.now := by rw [hpower]; rfl
    have heffective : ((s.dropOldest src).retargeted (c.p 1)).vcoreEffective = c.p 1 := by
      unfold State.vcoreEffective; rw [hpower]; exact (congrArg (c.p 1 - ·) hdepth)
    refine ⟨(s.dropOldest src).retargeted (c.p 1), hpower, hhost, fun h1 => ?_, fun h1 => ?_, ?_, ?_⟩
    · refine ends_runCmd h (show execCmdSetVcore src s = _ from rfl) ((if_neg hrange).trans ((if_neg hable).trans ?_))
      dsimp only
      rw [hsettle, hnow, heffective, if_pos h1]
      rfl
    · refine lasts_runCmd h (show execCmdSetVcore src s = _ from rfl) ((if_neg hrange).trans ((if_neg hable).trans ?_))
      dsimp only
      rw [hsettle, hnow, heffective, if_neg h1]
    · rw [State.retargeted_get _ _ rfl]; exact htarget.trans hmod
    · rw [State.retargeted_get _ _ rfl]
      refine heff.trans (Eq.trans ?_ hmod)
      exact congrArg (fun d => (c.p 1 - d) % 2 ^ 10) hdepth
  case notOldest =>
    rcases h c hc with hne | hno
    · exact hne hop
    · simp [hno] at hmay
  case begins =>
    rw [State.startCmd_begin body hc hop hmay]
    refine ⟨begin_fails body, fun hf haw => begin_awaits body haw hf (hop ▸ h901), fun hf hb htr => ?_, fun hf hb htm => ?_⟩
    · have hst : c.bulkStatus = .truncated := by rw [Cmd.bulkStatus, htr]
      rw [begin_cut body hf hop h901 hb (by simp [htr]) (by simp [hst]), hst]
    · have hst : c.bulkStatus = .timeout := by rw [Cmd.bulkStatus, htm]
      rw [begin_cut body hf hop h901 hb (by simp [htm]) (by simp [hst]), hst]

end Sys2Proof.Machine
end

section
/-! Memory reads what was written (R56, R305 to R307). -/
namespace Sys2Proof.Machine
open Sys2Proof.Claims

/-! ### Granules -/

theorem granSize_pos (a : Nat) : 0 < granSize a := by unfold granSize; split <;> decide

theorem granBase_of_aligned {a : Nat} (h : a % granSize a = 0) : granBase a = a :=
  Nat.div_mul_cancel (Nat.dvd_of_mod_eq_zero h)

/-- The addresses of one granule have its size and its base. -/
theorem granSize_inside {a i : Nat} (h : a % granSize a = 0) (hi : i < granSize a) : granSize (a + i) = granSize a := by
  unfold granSize at *
  split_ifs at * <;> omega

theorem granBase_inside {a i : Nat} (h : a % granSize a = 0) (hi : i < granSize a) : granBase (a + i) = a := by
  rw [granBase, granSize_inside h hi, Nat.add_div_of_dvd_right (Nat.dvd_of_mod_eq_zero h), Nat.div_eq_of_lt hi, Nat.add_zero,
    Nat.div_mul_cancel (Nat.dvd_of_mod_eq_zero h)]

/-- A whole granule is the one granule of its range. -/
theorem granules_whole {a : Nat} (h : a % granSize a = 0) : granules a (granSize a) = [a] := by
  have hpos := granSize_pos a
  have hceil : ceilDiv (a + granSize a - granBase a) (granSize a) = 1 := by
    rw [granBase_of_aligned h, ceilDiv, show a + granSize a - a + granSize a - 1 = granSize a + (granSize a - 1) by omega,
      Nat.add_div_left _ hpos, Nat.div_eq_of_lt (by omega)]
  rw [granules, if_neg (by omega)]
  simp only [hceil]
  simp [granBase_of_aligned h]

@[simp] theorem dataBytes_goodData (d : List Byte) : dataBytes (goodData d) = d := by simp [dataBytes, goodData]
@[simp] theorem dataGood_goodData (d : List Byte) : dataGood (goodData d) = true := by simp [dataGood, goodData]
@[simp] theorem length_goodData (d : List Byte) : (goodData d).length = d.length := by simp [goodData]

/-! ### What a read of a granule finds -/

theorem tget?_tdel_none {α : Type} {t : Tbl α} {k : Nat} (h : tget? t k = none) : tget? (tdel t k) k = none := by
  induction t with
  | nil => rfl
  | cons e t ih =>
    unfold tget? at h
    split at h
    · exact absurd h (by simp)
    · rename_i hk; simp only [tdel, if_neg hk, tget?, ih h]

/-- No mark that a granule loses makes another good. -/
theorem Memory.bad_markBad {m : Memory} {g : Nat} (h : m.good g = false) (k : Nat) : (m.markBad k).good g = false := by
  have hnone : tget? m.clean g = none ∨ tget? m.valid g = none := by
    unfold Memory.good at h
    cases hc : tget? m.clean g <;> simp_all
  by_cases hk : g = k
  · subst hk
    exact hnone.elim (fun h => Memory.bad_of_bit (tget?_tdel_none h)) fun h => Memory.bad_of_check (tget?_tdel_none h)
  · rw [Memory.good_markBad_other _ hk, h]

/-- Two memories with the same bytes, of which the second has no granule good that was not. -/
def Memory.Worse (m n : Memory) : Prop := (∀ a, n.byte a = m.byte a) ∧ ∀ g, m.good g = false → n.good g = false

theorem Memory.Worse.refl (m : Memory) : m.Worse m := ⟨fun _ => rfl, fun _ h => h⟩

theorem State.uncorrectable_worse (s : State) (rd : Reader) (g : Nat) : s.mem.Worse (s.uncorrectable rd g).mem := by
  have hmem : (s.uncorrectable rd g).mem = s.mem.markBad g := by unfold State.uncorrectable; dsimp only; split <;> rfl
  rw [hmem]
  exact ⟨fun _ => rfl, fun k hk => Memory.bad_markBad hk g⟩

theorem State.loomCorrection_mem (s : State) (n : Nat) : (s.loomCorrection n).mem = s.mem := by
  unfold State.loomCorrection; dsimp only; split <;> rfl

theorem State.corrected_worse (s : State) (rd : Reader) (g dev : Nat) : s.mem.Worse (s.corrected rd g dev).mem := by
  have hmem : (s.corrected rd g dev).mem = s.mem.mend g := by
    unfold State.corrected
    dsimp only
    split
    · rfl
    · exact State.loomCorrection_mem _ _
    · rfl
  rw [hmem]
  exact ⟨fun _ => rfl, fun _ hk => hk⟩

theorem State.found_worse (s : State) (rd : Reader) (g : Nat) : s.mem.Worse (s.found rd g).mem := by
  unfold State.found
  dsimp only
  split_ifs
  · split
    · exact s.corrected_worse rd g _
    · exact s.uncorrectable_worse rd g
    · exact .refl _
  all_goals first | exact s.uncorrectable_worse rd g | exact .refl _

theorem State.meet_worse (s : State) (g : Nat) : s.mem.Worse (s.meet g).mem := by
  unfold State.meet
  split
  · split <;> exact .refl _
  · exact .refl _

/-- A read of a granule leaves every byte, and makes no granule good. -/
theorem State.touch_worse (s : State) (rd : Reader) (g : Nat) : s.mem.Worse (s.touch rd g).mem := by
  obtain ⟨hb, hg⟩ := s.found_worse rd g
  obtain ⟨kb, kg⟩ := (s.found rd g).meet_worse g
  exact ⟨fun a => (kb a).trans (hb a), fun k hk => kg k (hg k hk)⟩

/-- A read of a good granule without an error changes nothing. -/
theorem State.touch_good {s : State} {g : Nat} (rd : Reader) (hg : s.mem.good g = true) (hf : tget? s.mem.flaws g = none) :
    s.touch rd g = s := by
  have hfound : s.found rd g = s := by rw [State.found, hf, if_pos hg]
  rw [State.touch, hfound, State.meet]
  split
  · exact if_pos hg
  · rfl

/-- Reading one granule that is good gives its bytes and changes nothing. -/
theorem State.readData_good {s : State} {a : Nat} (ha : a % granSize a = 0) (hg : s.mem.good a = true)
    (hf : tget? s.mem.flaws a = none) : s.readData a (granSize a) = (s, goodData (s.mem.bytes a (granSize a))) := by
  unfold State.readData
  rw [granules_whole ha, show foldState (fun u g => State.touch u .foreground g) s [a] = s from State.touch_good _ hg hf]
  refine Prod.ext rfl ?_
  simp only [goodData, Memory.bytes, List.map_map]
  refine List.map_congr_left fun i hi => ?_
  rw [granBase_inside ha (List.mem_range.mp hi), if_pos hg]; rfl

/-- Reading one granule that is not good gives no byte. -/
theorem State.readData_bad {s : State} {a : Nat} (ha : a % granSize a = 0) (hg : s.mem.good a = false) :
    (s.readData a (granSize a)).2 = List.replicate (granSize a) none := by
  unfold State.readData
  rw [granules_whole ha]
  have hbad : (State.touch s .foreground a).mem.good a = false := (s.touch_worse .foreground a).2 a hg
  show (List.range (granSize a)).map (fun i => if (State.touch s .foreground a).mem.good (granBase (a + i)) then _ else _) = _
  rw [List.eq_replicate_iff]
  refine ⟨by simp, fun b hb => ?_⟩
  obtain ⟨i, hi, rfl⟩ := List.mem_map.mp hb
  rw [granBase_inside ha (List.mem_range.mp hi), if_neg (by simp [hbad])]

/-! ### Writes -/

/-- A write of one whole granule of good bytes. -/
theorem State.writeShare_whole (s : State) {a : Nat} {d : List Byte} (ha : a % granSize a = 0) (hd : d.length = granSize a) :
    s.writeShare a (goodData d) = { s with mem := (s.mem.setBytes a d).markGood a } := by
  have hbase := granBase_of_aligned ha
  unfold State.writeShare
  dsimp only
  rw [hbase, if_pos ⟨rfl, by rw [length_goodData, hd]⟩, dataBytes_goodData, dataGood_goodData]
  rfl

/-- A narrower write of good bytes: its granule is read, and the bytes are stored. -/
theorem State.writeShare_part (s : State) {a : Nat} {d : List Byte} (hd : d.length < granSize a) :
    s.writeShare a (goodData d) = { s.touch .foreground (granBase a) with
      mem := (s.touch .foreground (granBase a)).mem.setBytes a d } := by
  unfold State.writeShare
  dsimp only
  rw [if_neg (by rw [length_goodData]; omega), dataBytes_goodData, dataGood_goodData]
  rfl

theorem Memory.bytes_setBytes {m : Memory} (h : m.wf = true) (a : Nat) (bs : List Byte) :
    (m.setBytes a bs).bytes a bs.length = bs := by
  refine List.ext_getElem (by simp [Memory.bytes]) fun i hi hi' => ?_
  simp only [Memory.bytes, List.getElem_map, List.getElem_range]
  exact Memory.byte_setBytes h a i bs hi'

theorem Memory.flaws_setBytes (m : Memory) (a : Nat) (bs : List Byte) : (m.setBytes a bs).flaws = m.flaws := by
  induction bs generalizing m a with
  | nil => rfl
  | cons b t ih => rw [Memory.setBytes, ih]; rfl

/-- The upset of the poison bit of a good word, or of one that carries both marks, leaves it poisoned. -/
theorem Memory.upset_poisonBit {m : Memory} {g : Nat} (h : m.wf = true) (hg : 0x2000000000 ≤ g)
    (heq : tget? m.clean g = tget? m.valid g) : (m.upset g .poisonBit).good g = false := by
  unfold Memory.upset
  rw [if_neg (by omega)]
  cases hc : tget? m.clean g with
  | some u => exact Memory.bad_of_bit (tget?_tdel_same ((Memory.wf_iff m).mp h).2.1)
  | none => exact Memory.bad_of_check (heq ▸ hc)

/-! ### DDR5 interleaving -/

theorem subchannel_of_eight (k : Nat) (h : k < 8) : (if k < 4 then k else k + 4) / 2 = [0, 1, 4, 5].getD (k / 2) 0 ∧
    (if k < 4 then k else k + 4) % 2 = k % 2 := by
  revert k; decide

theorem subchannel_of_four (k : Nat) (h : k < 4) : (if k < 2 then k else k + 6) / 2 = [0, 4].getD (k / 2) 0 ∧
    (if k < 2 then k else k + 6) % 2 = k % 2 := by
  revert k; decide

/-- Settles O10: whole and narrower writes, upsets of the poison bit, reset, and the interleaving. -/
theorem memoryReadsWhatWasWritten : Obligations.MemoryReadsWhatWasWritten := by
  unfold Obligations.MemoryReadsWhatWasWritten
  refine ⟨fun s a d hwf ha hd => ?whole, fun s a d hpos hin hd hg => ?part, fun s g hwf hlo h8 heq => ?upset,
    fun s cause h a => rfl, fun s a h => ?sixteen, fun s a h => ?eight, fun s a h => ?four⟩
  case whole =>
    have hw := s.writeShare_whole ha hd
    have hwf' := Memory.wf_setBytes hwf a d
    dsimp only
    rw [hw]
    refine ⟨?_, fun x hx => Memory.byte_setBytes_other _ _ hx, fun g hg => ?_, rfl⟩
    · have hread := State.readData_good (s := { s with mem := (s.mem.setBytes a d).markGood a }) ha
        (Memory.good_markGood_same _ _) (tget?_tdel_same ((Memory.wf_iff _).mp hwf').2.2.2.1)
      rw [hd, hread]
      refine Prod.ext rfl (congrArg goodData ?_)
      exact hd ▸ Memory.bytes_setBytes hwf a d
    · exact (Memory.good_markGood_other _ hg).trans (Memory.good_setBytes _ _ _ _)
  case part =>
    obtain ⟨hbytes, hbad⟩ := s.touch_worse .foreground (granBase a)
    dsimp only
    rw [s.writeShare_part hd]
    exact ⟨(Memory.good_setBytes _ _ _ _).trans (hbad _ hg),
      fun x hx => (Memory.byte_setBytes_other _ _ hx).trans (hbytes x)⟩
  case upset =>
    have hsize : granSize g = 8 := if_neg (by omega)
    have ha : g % granSize g = 0 := by rw [hsize]; exact h8
    have hread := State.readData_bad (s := s.withFlaws [(g, .poisonBit)]) ha (by
      show (s.mem.upset (granBase g) .poisonBit).good g = false
      rw [granBase_of_aligned ha]
      exact Memory.upset_poisonBit hwf hlo heq)
    rwa [hsize] at hread
  case sixteen => unfold State.subchannel; exact if_pos h
  case eight =>
    unfold State.subchannel
    dsimp only
    rw [h]
    exact subchannel_of_eight _ (Nat.mod_lt _ (by decide))
  case four =>
    unfold State.subchannel
    dsimp only
    rw [h]
    exact subchannel_of_four _ (Nat.mod_lt _ (by decide))

end Sys2Proof.Machine
end

section
/-! Reads and writes of words by command, and what a read of a register does (R10, R55, R56). -/
namespace Sys2Proof.Machine
open Sys2Proof.Claims

/-- An event that can fence a loom settles the state once it has done what its row says. -/
theorem goes_onCore {i : Instr} {s t : State} {f : State → State} (hlive : Live s) (hi : exec i s = onCore s f)
    (ht : f s = t) : Goes i s t.settle := goes_onDevice hlive hi (congrArg State.settle ht)

/-! ### The register table -/

/-- A register that stands in a table at a place before which none is defined at the address. -/
theorem findReg_at {l : List Reg} {a : Nat} (n : Nat) {r : Reg} {p : Nat × Nat} (hpre : ∀ q ∈ l.take n, q.index? a = none)
    (hr : l[n]? = some r) (hi : r.index? a = some p) : findReg l a = some (r, p.1, p.2) := by
  have hdrop : l.drop n = r :: l.drop (n + 1) := by
    obtain ⟨hn, rfl⟩ := List.getElem?_eq_some_iff.mp hr
    exact List.drop_eq_getElem_cons hn
  rw [← List.take_append_drop n l, findReg_append hpre, hdrop, findReg, hi]

/-- The mailbox registers in the table. -/
theorem findReg_mailbox {r : Reg} (hr : r ∈ [R.MBX_H2D_DATA, R.MBX_H2D_GO, R.MBX_D2H_DATA, R.MBX_D2H_GO]) {i : Nat}
    (hi : i < r.count) : findReg regTable (r.addr i 0) = some (r, i, 0) := by
  simp only [List.mem_cons, List.not_mem_nil, or_false] at hr
  rcases hr with rfl | rfl | rfl | rfl
  · exact findReg_at (p := (i, 0)) 5 (by revert i; decide +kernel) rfl (by revert i; decide +kernel)
  · exact findReg_at (p := (i, 0)) 9 (by revert i; decide +kernel) rfl (by revert i; decide +kernel)
  · exact findReg_at (p := (i, 0)) 6 (by revert i; decide +kernel) rfl (by revert i; decide +kernel)
  · exact findReg_at (p := (i, 0)) 10 (by revert i; decide +kernel) rfl (by revert i; decide +kernel)

/-! ### A word of memory -/

/-- A word lies in one granule. -/
theorem granBase_word {a i : Nat} (h : a % 4 = 0) (hi : i < 4) : granBase (a + i) = granBase a := by
  unfold granBase granSize; split_ifs <;> omega

theorem granules_word {a : Nat} (h : a % 4 = 0) : granules a 4 = [granBase a] := by
  have hceil : ceilDiv (a + 4 - granBase a) (granSize a) = 1 := by
    unfold ceilDiv granBase granSize; split_ifs <;> omega
  rw [granules, if_neg (by decide)]
  simp [hceil]

/-- A word of a good granule without an error is delivered, and nothing changes. -/
theorem State.readData_word_good {s : State} {a : Nat} (h : a % 4 = 0) (hg : s.mem.good (granBase a) = true)
    (hf : tget? s.mem.flaws (granBase a) = none) : s.readData a 4 = (s, goodData (s.mem.bytes a 4)) := by
  unfold State.readData
  rw [granules_word h, show foldState (fun u g => State.touch u .foreground g) s [granBase a] = s from State.touch_good _ hg hf]
  refine Prod.ext rfl ?_
  simp only [goodData, Memory.bytes, List.map_map]
  refine List.map_congr_left fun i hi => ?_
  rw [granBase_word h (List.mem_range.mp hi), if_pos hg]; rfl

/-- A poisoned granule without an error, and without its mark of good data, is only noted when it is in the cache. -/
theorem State.touch_poisoned {s : State} {g : Nat} (rd : Reader) (hg : s.mem.good g = false)
    (hf : tget? s.mem.flaws g = none) (hc : tget? s.mem.clean g = none) :
    s.touch rd g = { s with mem := { s.mem with met := (s.touch rd g).mem.met } } := by
  have hfound : s.found rd g = s := by
    unfold State.found
    dsimp only
    rw [if_neg (by simp [hg]), hf, hc]
    simp
  rw [State.touch, hfound, State.meet]
  split
  · split <;> rfl
  · rfl

/-- A word of such a granule is poisoned. -/
theorem State.readData_word_poisoned {s : State} {a : Nat} (h : a % 4 = 0) (hg : s.mem.good (granBase a) = false) :
    s.readData a 4 = (s.touch .foreground (granBase a), List.replicate 4 none) := by
  have hbad : (s.touch .foreground (granBase a)).mem.good (granBase a) = false := (s.touch_worse .foreground _).2 _ hg
  unfold State.readData
  rw [granules_word h]
  refine Prod.ext rfl (List.eq_replicate_iff.mpr ⟨by simp, fun b hb => ?_⟩)
  obtain ⟨i, hi, rfl⟩ := List.mem_map.mp hb
  rw [granBase_word h (List.mem_range.mp hi)]
  exact if_neg (Bool.eq_false_iff.mp hbad)

/-- A word of memory that no state refuses is read as its granule says. -/
theorem State.readWord_memory {s : State} {a : Nat} (h : a % 4 = 0) (hm : (s.region a).isMemory = true)
    (hr : s.memRefusal a = none) : s.readWord a = ((s.readData a 4).1,
      if dataGood (s.readData a 4).2 then .value (bytesNat (dataBytes (s.readData a 4).2)) else .fails .poisoned) := by
  unfold State.readWord
  rw [if_neg (by omega)]
  cases hreg : s.region a <;> rw [hreg] at hm <;> first | exact absurd hm (by decide) | (dsimp only; rw [hr])

theorem State.readWord_refused {s : State} {a : Nat} {st : Status} (h : a % 4 = 0) (hm : (s.region a).isMemory = true)
    (hr : s.memRefusal a = some st) : s.readWord a = (s, .fails st) := by
  unfold State.readWord
  rw [if_neg (by omega)]
  cases hreg : s.region a <;> rw [hreg] at hm <;> first | exact absurd hm (by decide) | (dsimp only; rw [hr])

theorem State.readWords_fails {s t : State} {a : Nat} {st : Status} (h : s.readWord a = (t, .fails st)) (n : Nat) :
    s.readWords (n + 1) a = (t, [], st) := by
  simp only [State.readWords, h]

theorem State.readWords_value {s t : State} {a w : Nat} (h : s.readWord a = (t, .value w)) (n : Nat) :
    s.readWords (n + 1) a = ((t.readWords n (a + 4)).1, w32 w :: (t.readWords n (a + 4)).2.1, (t.readWords n (a + 4)).2.2) := by
  simp only [State.readWords, h]

/-! ### Writes -/

/-- A write of words that cover one granule of memory stores them at once. -/
theorem State.writeWords_granule {s : State} {a : Nat} {ws : List Word} (ha : a % granSize a = 0)
    (hlen : 4 * ws.length = granSize a) (hm : (s.region a).isMemory = true) (hr : s.memRefusal a = none) :
    s.writeWords ws.length a ws 0 = (s.writeShare a (goodData (wordsBytes ws)), ws.length, .done) := by
  cases ws with
  | nil => exact absurd hlen (by have := granSize_pos a; simp; omega)
  | cons w rest =>
    have hk : min ((granBase a + granSize a - a) / 4) (rest.length + 1) = rest.length + 1 := by
      rw [granBase_of_aligned ha, List.length_cons] at *
      omega
    have hdone : ∀ (t : State) (n b m : Nat), t.writeWords n b [] m = (t, m, .done) := fun t n b m => by cases n <;> rfl
    rw [List.length_cons, State.writeWords]
    cases hreg : s.region a <;> rw [hreg] at hm <;> first
      | exact absurd hm (by decide)
      | (dsimp only; rw [hr]; dsimp only; rw [hk, List.take_of_length_le (by simp), List.drop_of_length_le (by simp), hdone, Nat.zero_add])

/-! ### A read of a register -/

/-- What a register shows does not hang on what is latched. -/
theorem State.shown_latch (s : State) (x : Tbl Word) (r : Reg) (i j : Nat) : State.shown { s with latch := x } r i j = s.shown r i j :=
  rfl

/-- The high registers that a read of a low one latches. -/
theorem State.latchHigh_only (s : State) (r : Reg) (i j : Nat) :
    s.latchHigh r i j = { s with latch := (s.latchHigh r i j).latch } := by
  refine foldState_keeps (P := fun t : State => t = { s with latch := t.latch }) (fun t e ht => ?_) rfl latchPairs
  split
  · rw [ht]
  · exact ht

theorem State.latchHigh_pair (s : State) {r hi : Reg} (h : (r, hi) ∈ latchPairs) (i j : Nat) :
    tget? (s.latchHigh r i j).latch (hi.addr i j) = some (w32 (s.shown hi i j)) := by
  have hone : ∀ (t : State) (x : Nat), tget? (tset t.latch x (w32 (s.shown hi i j))) x = some (w32 (s.shown hi i j)) :=
    fun t x => tget?_tset_same _ _ _
  have hbelow : R.SCHED_FENCE_TIME_S_LO.addr i j ≠ R.SCHED_FENCE_TIME_S_HI.addr i j := by
    simp only [Reg.addr, R.SCHED_FENCE_TIME_S_LO, R.SCHED_FENCE_TIME_S_HI]; omega
  simp only [latchPairs, List.mem_cons, List.not_mem_nil, or_false, Prod.mk.injEq] at h
  rcases h with ⟨rfl, rfl⟩ | ⟨rfl, rfl⟩ | ⟨rfl, rfl⟩ | ⟨rfl, rfl⟩ | ⟨rfl, rfl⟩ | ⟨rfl, rfl⟩ | ⟨rfl, rfl⟩ | ⟨rfl, rfl⟩ |
    ⟨rfl, rfl⟩ | ⟨rfl, rfl⟩
  case inr.inr.inr.inr.inr.inr.inr.inr.inl =>
    exact (tget?_tset_other _ _ hbelow).trans (hone s _)
  all_goals exact hone _ _

/-- A bit that a mask of 32 bits leaves. -/
theorem testBit_without (x : Nat) {m k : Nat} (hm : m < 2 ^ 32) (hk : k < 32) :
    (without x m).testBit k = (x.testBit k && !m.testBit k) := by
  rw [show without x m = x &&& (2 ^ 32 - (m + 1)) from congrArg (x &&& ·) (by omega)]
  rw [Nat.testBit_and, Nat.testBit_two_pow_sub_succ hm]
  simp [hk]

/-- A read sets RC fields to their reset value and leaves the other bits. -/
theorem State.readClear_bit (s : State) {r : Reg} (hrc : r.rc < 2 ^ 32) (i j : Nat) {k : Nat} (hk : k < 32) :
    bitAt ((s.readClear r i j).reg r i j) k = if bitAt r.rc k then bitAt (r.reset i j) k else bitAt (s.reg r i j) k := by
  simp only [bitAt_eq_testBit]
  unfold State.readClear
  split
  · rename_i h0; simp [h0]
  · rw [State.reg_setReg, Nat.testBit_mod_two_pow]
    show (decide (k < 32) && (without (s.reg r i j) r.rc ||| (r.reset i j &&& r.rc)).testBit k) = _
    rw [Nat.testBit_or, testBit_without _ hrc hk, Nat.testBit_and]
    cases r.rc.testBit k <;> simp [hk]

/-- A register that is no critical word, none of the two with more to their read, and not latched. -/
theorem State.readReg_plain {s : State} {r : Reg} {i j : Nat} (ht : r.base ≠ R.ETH_TXTS_ID.base)
    (hl : tget? s.latch (r.addr i j) = none) (hc : critWord r i = none) (hn : r.base ≠ R.TK_TIME_NS.base) :
    s.readReg r i j = ((s.latchHigh r i j).readClear r i j, s.shown r i j) := by
  simp only [State.readReg, if_neg ht, hl, hc, if_neg hn]

theorem State.readWord_register {s : State} {r : Reg} {i j a : Nat} (hreg : s.region a = .block) (h4 : a % 4 = 0)
    (hfind : findReg regTable a = some (r, i, j)) (hfence : s.fencedReg r a = false) :
    s.readWord a = ((s.readReg r i j).1, .value (s.readReg r i j).2) := by
  simp [State.readWord, h4, hreg, hfind, hfence]

/-- The mailbox registers are in a block, behind no fence. -/
theorem State.mailbox_access (s : State) {r : Reg} (hr : r ∈ [R.MBX_H2D_DATA, R.MBX_H2D_GO, R.MBX_D2H_DATA, R.MBX_D2H_GO])
    {i : Nat} (hi : i < r.count) : s.region (r.addr i 0) = .block ∧ r.addr i 0 % 4 = 0 ∧ s.fencedReg r (r.addr i 0) = false := by
  have hin : 0x3F00100000 ≤ r.addr i 0 ∧ r.addr i 0 < 0x3F00100144 ∧ r.addr i 0 % 4 = 0 := by
    simp only [List.mem_cons, List.not_mem_nil, or_false] at hr
    rcases hr with rfl | rfl | rfl | rfl <;> revert i <;> decide +kernel
  obtain ⟨hlo, hhi, h4⟩ := hin
  refine ⟨?_, h4, ?_⟩
  · unfold State.region
    rw [if_neg (by omega), if_neg (by omega), if_neg (by omega), if_neg (by omega), if_pos (by omega)]
  · unfold State.fencedReg
    rw [decide_eq_false (show ¬ 0x3F01000000 ≤ r.addr i 0 by omega)]
    rfl

/-- Settles O11: the commands by their rows, each kind of word, and the reads of registers. -/
theorem memoryCommands : Obligations.MemoryCommands := by
  unfold Obligations.MemoryCommands
  refine ⟨fun s src c flaws x h h1 hn hx => ?read, fun s src c flaws h hn => ?noRead, fun s n a h4 hm hr hg hf => ?good,
    fun s n a h4 => State.readWords_fails (if_pos h4) n, fun s n a h4 hm hr hg hf hc => ?poisoned,
    fun s n a k h4 hk hf => ?fenced, fun s n a h4 hd hw => ?unwiped, fun s src c ws x h h4 hws hx => ?write,
    fun s src c h h4 => ?noWrite, fun s a ws ha hlen hm hr => State.writeWords_granule ha hlen hm hr,
    fun s r i j a hreg h4 hfind hfence ht => ⟨fun w hw => ?latched, fun hl hc hn hrc => ?register⟩,
    fun s r i hr hi hl => ?mailbox⟩
  case read =>
    refine goes_onCore h.1 (show execCmdMemRead src flaws s = _ from rfl) ?_
    rw [startCmd_starts h, if_neg (by omega), hx]
    rfl
  case noRead =>
    refine goes_onCore h.1 (show execCmdMemRead src flaws s = _ from rfl) ?_
    rw [startCmd_starts h, if_pos hn]
    rfl
  case good =>
    have hread := State.readData_word_good h4 hg hf
    exact State.readWords_value (by rw [State.readWord_memory h4 hm hr, hread, dataBytes_goodData, dataGood_goodData]; rfl) n
  case poisoned =>
    have hread := State.readData_word_poisoned h4 hg
    exact ⟨_, State.readWords_fails (by rw [State.readWord_memory h4 hm hr, hread]; rfl) n,
      State.touch_poisoned .foreground hg hf hc⟩
  case fenced =>
    exact State.readWords_fails (State.readWord_refused h4 (by rw [hk]; rfl) (by rw [State.memRefusal, hk]; exact if_pos hf)) n
  case unwiped =>
    exact State.readWords_fails (State.readWord_refused h4 (by rw [hd]; rfl)
      (by rw [State.memRefusal, hd]; exact if_neg (by simp [hw]))) n
  case write =>
    have hbulk : c.bulkEnd = .none ∨ c.bulkEnd = .complete := h.2.2.2.2
    have haw : c.bulkEnd ≠ .awaiting := by rcases hbulk with e | e <;> rw [e] <;> decide
    have hst : c.bulkStatus = .done := by rcases hbulk with e | e <;> rw [Cmd.bulkStatus, e]
    refine goes_onCore h.1 (show execCmdMemWrite src s = _ from rfl) ?_
    rw [startCmd_starts h]
    dsimp only
    rw [if_neg (by omega), if_neg haw, ← hws, ← hx, hst]
    by_cases hd : x.2.2 = .done
    · rw [if_pos hd, hd]; rfl
    · rw [if_neg hd]; rfl
  case noWrite =>
    refine goes_onCore h.1 (show execCmdMemWrite src s = _ from rfl) ?_
    rw [startCmd_starts h]
    dsimp only
    rw [if_pos h4]
    rfl
  case latched =>
    rw [State.readWord_register hreg h4 hfind hfence]
    simp only [State.readReg, if_neg ht, hw]
  case register =>
    have honly := (s.latchHigh r i j).readClear_onlyRegs r i j
    have hhigh := s.latchHigh_only r i j
    refine ⟨_, by rw [State.readWord_register hreg h4 hfind hfence, State.readReg_plain ht hl hc hn], ?_, ?_, fun k hk => ?_,
      fun hi hp => ?_⟩
    · rw [honly.1, hhigh]
    · exact fun b hb => (honly.2 b hb).trans (by rw [hhigh])
    · rw [State.readClear_bit _ hrc i j hk, State.reg_congr (s := s) (by rw [hhigh])]
    · rw [honly.1]; exact s.latchHigh_pair hp i j
  case mailbox =>
    obtain ⟨hreg, h4, hfence⟩ := s.mailbox_access hr hi
    rw [State.readWord_register hreg h4 (findReg_mailbox hr hi) hfence]
    have hplain : s.readReg r i 0 = (s, s.reg r i) := by
      simp only [List.mem_cons, List.not_mem_nil, or_false] at hr
      rcases hr with rfl | rfl | rfl | rfl <;> exact (State.readReg_plain (by decide) hl rfl (by decide)).trans rfl
    rw [hplain]

end Sys2Proof.Machine
end

section
/-! The register file, REGISTER_WRITE and BLOCK_LOCK_WRITE (R10, R54, R55). -/
namespace Sys2Proof.Machine
open Sys2Proof.Claims

/-! ### What a host write makes of a register's value -/

/-- A bit of a register after a host write, by the masks that hold it. -/
theorem Reg.testBit_merge (r : Reg) (old : Nat) {v i : Nat} (hi : i < 32) (hw : r.rw < 2 ^ 32) (hl : r.rwl < 2 ^ 32)
    (hc : v &&& r.w1c < 2 ^ 32) : (r.merge old v).testBit i =
      ((((old.testBit i && !(r.rw.testBit i || r.rwl.testBit i)) || (v.testBit i && (r.rw.testBit i || r.rwl.testBit i))) &&
        !(v.testBit i && r.w1c.testBit i)) || (v.testBit i && r.w1s.testBit i)) := by
  show (without (without old (r.rw ||| r.rwl) ||| (v &&& (r.rw ||| r.rwl))) (v &&& r.w1c) ||| (v &&& r.w1s)).testBit i = _
  rw [Nat.testBit_or, testBit_without _ hc hi, Nat.testBit_or, testBit_without _ (Nat.or_lt_two_pow hw hl) hi]
  simp only [Nat.testBit_and, Nat.testBit_or]

/-- A field of a register that the host writes plainly, after the write. -/
theorem Reg.bitsOf_merge (r : Reg) (old v : Nat) {lo w : Nat} (h32 : lo + w ≤ 32) (hrw : r.rw < 2 ^ 32) (hl : r.rwl = 0)
    (hc : r.w1c = 0) (hs : r.w1s = 0) (hall : ∀ k, k < w → r.rw.testBit (lo + k) = true) :
    bitsOf (r.merge old v % 2 ^ 32) lo w = bitsOf v lo w := by
  refine Nat.eq_of_testBit_eq fun k => ?_
  rw [testBit_bitsOf, testBit_bitsOf, Nat.testBit_mod_two_pow]
  by_cases hk : k < w
  · have hi : lo + k < 32 := by omega
    rw [r.testBit_merge old hi hrw (by rw [hl]; decide) (by rw [hc, Nat.and_zero]; decide), hall k hk, hl, hc, hs]
    simp [hk, hi]
  · simp [hk]

theorem State.mergeReg_onlyRegs (s : State) (r : Reg) (v i j : Nat) : OnlyRegs s (s.mergeReg r v i j) [r.addr i j] :=
  ⟨rfl, fun _ ha => tget?_setReg _ _ _ _ _ _ (by simpa using ha)⟩

/-! ### Which write an address takes -/

/-- A register write at the address of a register that no fence or lock holds. -/
theorem goes_registerWrite {s t : State} {a : Nat} {v : Word} {r : Reg} {i j : Nat} (hlive : Live s)
    (hreg : s.region a = .block) (h4 : a % 4 = 0) (hfind : findReg regTable a = some (r, i, j))
    (hfence : s.fencedReg r a = false) (hlock : s.refused r a = false) (ht : r.base ≠ R.SYS_THROTTLE.base)
    (hw : s.writeReg r i j a v.toNat = t) : Goes (.registerWrite a v) s t := by
  refine goes_onDevice hlive (show execRegisterWrite a v s = _ from rfl) ?_
  rw [if_pos ⟨hreg, h4⟩]
  simp [State.writeRegWord, hfind, hfence, hlock, ht, hw]

/-- Addresses of the shared blocks, behind no loom's fence. -/
theorem State.block_access (s : State) {a : Nat} (r : Reg) (hlo : 0x3F00000000 ≤ a) (hhi : a < 0x3F00F00000) :
    s.region a = .block ∧ s.fencedReg r a = false := by
  refine ⟨?_, ?_⟩
  · unfold State.region
    rw [if_neg (by omega), if_neg (by omega), if_neg (by omega), if_neg (by omega), if_pos (by omega)]
  · unfold State.fencedReg
    rw [decide_eq_false (show ¬ 0x3F01000000 ≤ a by omega)]
    rfl

/-- A register write of a shared block's register that is no mailbox's, no FIELD register and no critical field's. -/
theorem goes_registerWrite_block {s t : State} {a : Nat} {v : Word} {r : Reg} {i j : Nat} (hlive : Live s)
    (hfind : findReg regTable a = some (r, i, j)) (hin : 0x3F00000000 ≤ a ∧ a < 0x3F00F00000 ∧ a % 4 = 0) (hl : r.rwl = 0)
    (ht : r.base ≠ R.SYS_THROTTLE.base) (hw : s.writeReg r i j a v.toNat = t) : Goes (.registerWrite a v) s t := by
  obtain ⟨hreg, hfence⟩ := s.block_access r hin.1 hin.2.1
  exact goes_registerWrite hlive hreg hin.2.2 hfind hfence (by simp [State.refused, hl]) ht hw

/-- The registers whose write does more than store. -/
def actingRegs : List Reg := [R.SYS_THROTTLE, R.HOST_STATUS, R.HOST_IBI_CAUSE, R.HOST_IBI_EN, R.HOST_TX_MAP, R.HOST_TX_VC_TAP,
  R.HOST_TX_VC_REC, R.HOST_CFG, R.BOB_AGE_LIMIT, R.QUANT_STAT_CTRL, R.QUANT_CALIB_CTRL, R.QUANT_SCALE_POLICY, R.LINK_CFG,
  R.TK_CTRL, R.DET_CTRL]

/-- The write of a register that does no more than store. -/
theorem State.writeReg_plain {s : State} {r : Reg} {i a : Nat} (j v : Nat) (hign : s.writeIgnored r i = false)
    (hmbx : ¬(0x3F00100000 ≤ a ∧ a < 0x3F00200000)) (hfield : ¬(0x3F00A00000 ≤ a ∧ a < 0x3F00AFFFFC))
    (hbase : r.base ∉ (actingRegs ++ learnRegs).map (fun (x : Reg) => x.base)) : s.writeReg r i j a v = s.mergeReg r v i j := by
  have hmbx' : ¬(a < 0x3F00200000 ∧ 0x3F00100000 ≤ a) := fun h => hmbx ⟨h.2, h.1⟩
  have hlearn : (learnRegs.findIdx? fun (x : Reg) => x.base == r.base) = none := by
    refine List.findIdx?_eq_none_iff.mpr fun x hx => ?_
    have : r.base ≠ x.base := fun e => hbase (List.mem_map.mpr ⟨x, List.mem_append_right _ hx, e.symm⟩)
    simpa using this.symm
  have hne : ∀ q ∈ actingRegs, r.base ≠ q.base :=
    fun q hq e => hbase (List.mem_map.mpr ⟨q, List.mem_append_left _ hq, e.symm⟩)
  simp only [actingRegs, List.forall_mem_cons] at hne
  obtain ⟨-, h1, h2, h3, h4, h5, h6, h7, h8, h9, h10, h11, h12, h13, h14, -⟩ := hne
  unfold State.writeReg
  dsimp only
  by_cases hb : r.base = R.BLOCK_LOCK.base
  · exact if_pos hb
  · refine (if_neg hb).trans ((if_neg hmbx').trans ((if_neg h1).trans ((if_neg h2).trans ((if_neg h3).trans
      ((if_neg h4).trans ((if_neg h5).trans ((if_neg h6).trans ((if_neg h7).trans ((if_neg h8).trans ((if_neg h9).trans
      ((if_neg h10).trans ((if_neg h12).trans ((if_neg h13).trans ((if_neg h14).trans ((if_neg hfield).trans ?_)))))))))))))))
    rw [hlearn]
    exact (if_neg (by simp [hign])).trans (if_neg fun h => h11 h.1)

/-- A write of a LOCK sets it or leaves it. -/
theorem State.mergeReg_lock (s : State) {r : Reg} (hr : r ∈ [R.BLOCK_LOCK, R.LOOM_LOCK, R.MILL_LOCK]) (v : Word) (i j : Nat) :
    bitAt ((s.mergeReg r v.toNat i j).reg r i j) 0 = (bitAt (s.reg r i j) 0 || bitAt v.toNat 0) := by
  have hmasks : r.rw = 0 ∧ r.rwl = 0 ∧ r.w1c = 0 ∧ r.w1s = 1 := by
    simp only [List.mem_cons, List.not_mem_nil, or_false] at hr
    rcases hr with rfl | rfl | rfl <;> exact ⟨rfl, rfl, rfl, rfl⟩
  obtain ⟨hrw, hrwl, hc, hs⟩ := hmasks
  rw [State.mergeReg, State.reg_setReg, bitAt_eq_testBit, bitAt_eq_testBit, bitAt_eq_testBit, Nat.testBit_mod_two_pow,
    r.testBit_merge _ (by decide) (by rw [hrw]; decide) (by rw [hrwl]; decide) (by rw [hc, Nat.and_zero]; decide), hrw, hrwl, hc, hs]
  simp

/-- A write of HOST_IBI_EN requests an interrupt when the enabled causes become non-zero. -/
theorem State.writeIbiEn_eq (s : State) (v : Nat) : ∃ t, s.writeIbiEn v = t ∧ t = { s with regs := t.regs, i3c := t.i3c } ∧
    t.regs = (s.put F.HOST_IBI_EN_EN v).regs ∧
    (s.ibiActive = 0 → t.ibiActive ≠ 0 → s.i3c.ibiOn = true → t.i3c.pending = true) ∧
    ((s.ibiActive ≠ 0 ∨ t.ibiActive = 0) → t.i3c = s.i3c) := by
  have hactive : (s.put F.HOST_IBI_EN_EN v).requestIbi.ibiActive = (s.put F.HOST_IBI_EN_EN v).ibiActive := by
    unfold State.ibiActive; rw [State.reg_congr (State.requestIbi_regs _), State.reg_congr (State.requestIbi_regs _)]
  by_cases h : s.ibiActive = 0 ∧ (s.put F.HOST_IBI_EN_EN v).ibiActive ≠ 0
  · refine ⟨_, if_pos h, ?_, State.requestIbi_regs _, fun _ _ hon => (State.requestIbi_pending (s := s.put F.HOST_IBI_EN_EN v) hon).2,
      fun hq => absurd hq ?_⟩
    · have hreq := State.requestIbi_i3c (s.put F.HOST_IBI_EN_EN v)
      rw [hreq]; rfl
    · rw [hactive]; simpa using h
  · exact ⟨_, if_neg h, rfl, rfl, fun h0 h1 _ => absurd ⟨h0, h1⟩ h, fun _ => rfl⟩

theorem R.policy_addr (p : Fin 8) : 0x3F00000000 ≤ R.QUANT_SCALE_POLICY.addr p.val 0 ∧
    R.QUANT_SCALE_POLICY.addr p.val 0 < 0x3F00F00000 ∧ R.QUANT_SCALE_POLICY.addr p.val 0 % 4 = 0 := by
  revert p; decide +kernel

/-- A write of QUANT_SCALE_POLICY is taken, with the policy of before in place of the reserved code 3. -/
theorem State.writeReg_policy (s : State) (p : Fin 8) (v : Nat) :
    s.writeReg R.QUANT_SCALE_POLICY p.val 0 (R.QUANT_SCALE_POLICY.addr p.val 0) v = s.mergeReg R.QUANT_SCALE_POLICY
      (if v % 4 = 3 then setBits v 0 2 (s.get F.QUANT_SCALE_POLICY_POLICY p.val) else v) p.val 0 := by
  have hmbx : ¬(R.QUANT_SCALE_POLICY.addr p.val 0 < 0x3F00200000 ∧ 0x3F00100000 ≤ R.QUANT_SCALE_POLICY.addr p.val 0) := by
    revert p; decide +kernel
  have hfield : ¬(0x3F00A00000 ≤ R.QUANT_SCALE_POLICY.addr p.val 0 ∧ R.QUANT_SCALE_POLICY.addr p.val 0 < 0x3F00AFFFFC) := by
    revert p; decide +kernel
  have hlearn : (learnRegs.findIdx? fun (x : Reg) => x.base == R.QUANT_SCALE_POLICY.base) = none := rfl
  have hign : s.writeIgnored R.QUANT_SCALE_POLICY p.val = false := rfl
  unfold State.writeReg
  dsimp only
  refine (if_neg (by decide)).trans ((if_neg hmbx).trans ((if_neg (by decide)).trans ((if_neg (by decide)).trans
    ((if_neg (by decide)).trans ((if_neg (by decide)).trans ((if_neg (by decide)).trans ((if_neg (by decide)).trans
    ((if_neg (by decide)).trans ((if_neg (by decide)).trans ((if_neg (by decide)).trans ((if_neg (by decide)).trans
    ((if_neg (by decide)).trans ((if_neg (by decide)).trans ((if_neg (by decide)).trans ((if_neg hfield).trans ?_)))))))))))))))
  rw [hlearn]
  refine (if_neg (by simp [hign])).trans ?_
  by_cases h3 : v % 4 = 3
  · rw [if_pos h3]; exact if_pos ⟨rfl, h3⟩
  · rw [if_neg h3]; exact if_neg fun h => h3 h.2

/-- A plainly written field of QUANT_SCALE_POLICY reads as the write has it. -/
theorem State.policy_field (s : State) (p v : Nat) (f : Fld) (hr : f.reg = R.QUANT_SCALE_POLICY) (h32 : f.lo + f.width ≤ 32)
    (hall : ∀ k, k < f.width → R.QUANT_SCALE_POLICY.rw.testBit (f.lo + k) = true) :
    (s.mergeReg R.QUANT_SCALE_POLICY v p).get f p = bitsOf v f.lo f.width := by
  rw [State.get, hr, State.mergeReg, State.reg_setReg]
  exact Reg.bitsOf_merge _ _ _ h32 (by decide) rfl rfl rfl hall

/-- Settles O8: the register file, the codes of a host write, and each kind of register. -/
theorem registerWrites : Obligations.RegisterWrites := by
  unfold Obligations.RegisterWrites
  refine ⟨fun s r i j v => s.reg_setReg r v i j, fun s r i j v => ⟨rfl, fun _ ha => tget?_setReg _ _ _ _ _ _ (by simpa using ha)⟩,
    fun s f i j v h => s.get_put f v i j h, fun r old v i hi _ hv hrw hrwl => ?codes,
    fun s a v r i j hlive hreg h4 hfind hfence hlock hign hmbx hfield hbase => ?plain,
    fun s a v r i j hlive hreg h4 hfind hheld => ?held, fun s a v hlive hreg hfind => ?undefined,
    fun s a v r i j hlive hfind hr hfence => ?lock, fun s v hlive => ?status, fun s v hlive => ?ibiEn,
    fun s v hlive => ⟨?cfg, ?ctrl⟩, fun s p v hlive => ?policy⟩
  case codes =>
    have hmerge := r.testBit_merge old hi hrw hrwl (lt_of_le_of_lt Nat.and_le_left hv)
    simp only [bitAt_eq_testBit]
    refine ⟨fun h hc hs => ?_, fun h hl hs hc => ?_, fun h hl hc hs => ?_, fun h hl hc hs => ?_⟩
    · rw [hmerge, h, hc, hs]; simp
    · rw [hmerge, h, hl, hs, hc]; simp
    · rw [hmerge, h, hl, hs, hc]; simp
    · rw [hmerge, h, hl, hs, hc]; simp
  case plain =>
    exact goes_registerWrite hlive hreg h4 hfind hfence hlock (fun e => hbase (by rw [e]; decide))
      (State.writeReg_plain j _ hign hmbx hfield hbase)
  case held =>
    refine goes_onDevice hlive (show execRegisterWrite a v s = _ from rfl) ?_
    rw [if_pos ⟨hreg, h4⟩]
    rcases hheld with h | h
    · simp [State.writeRegWord, hfind, h]
    · simp only [State.writeRegWord, hfind, h]; split <;> rfl
  case undefined =>
    refine ⟨goes_onDevice hlive (show execRegisterWrite a v s = _ from rfl) ?_, fun h4 => ?_⟩
    · simp only [State.writeRegWord, hfind]; split <;> rfl
    · simp [State.readWord, h4, hreg, hfind]
  case lock =>
    refine ⟨_, goes_onDevice hlive (show execBlockLockWrite a v s = _ from rfl) ?_, s.mergeReg_onlyRegs r v.toNat i j,
      s.mergeReg_lock hr v i j⟩
    have hlock : r.isLock = true := by
      simp only [List.mem_cons, List.not_mem_nil, or_false] at hr
      rcases hr with rfl | rfl | rfl <;> rfl
    simp [hfind, hlock, hfence]
  case status =>
    exact goes_registerWrite_block hlive (findReg_at (p := (0, 0)) 13 (by decide +kernel) rfl rfl) (by decide) rfl (by decide) rfl
  case ibiEn =>
    obtain ⟨t, ht, honly, hregs, hpend, hquiet⟩ := s.writeIbiEn_eq v.toNat
    refine ⟨t, goes_registerWrite_block hlive (findReg_at (p := (0, 0)) 15 (by decide +kernel) rfl rfl) (by decide) rfl
      (by decide) ht, honly, fun a ha => ?_, ?_, hpend, hquiet⟩
    · rw [hregs]
      exact tget?_setReg _ _ _ _ _ _ fun h => ha (by rw [h]; exact List.mem_singleton.mpr rfl)
    · rw [State.get_congr hregs, State.get_put _ _ _ _ _ (by decide)]; rfl
  case cfg =>
    exact goes_registerWrite_block hlive (findReg_at (p := (0, 0)) 16 (by decide +kernel) rfl rfl) (by decide) rfl (by decide) rfl
  case ctrl =>
    exact goes_registerWrite_block hlive (findReg_at (p := (0, 0)) 221 (by decide +kernel) rfl rfl) (by decide) rfl (by decide) rfl
  case policy =>
    have hfind : findReg regTable (R.QUANT_SCALE_POLICY.addr p.val 0) = some (R.QUANT_SCALE_POLICY, p.val, 0) :=
      findReg_at (p := (p.val, 0)) 117 (by revert p; decide +kernel) rfl (by revert p; decide +kernel)
    refine ⟨_, goes_registerWrite_block hlive hfind (R.policy_addr p) rfl (by decide)
      (State.writeReg_policy s p v.toNat), State.mergeReg_onlyRegs _ _ _ _ _, ?_, ?_⟩
    · rw [State.policy_field _ _ _ F.QUANT_SCALE_POLICY_LOW_CONF rfl (by decide) (by decide)]
      split
      · exact bitsOf_setBits_other _ _ _ _ _ _ (.inr (by decide))
      · rfl
    · rw [State.policy_field _ _ _ F.QUANT_SCALE_POLICY_POLICY rfl (by decide) (by decide)]
      split
      · exact (bitsOf_setBits_same _ _ _ _).trans (Nat.mod_eq_of_lt (bitsOf_lt _ _ _))
      · simp [bitsOf, F.QUANT_SCALE_POLICY_POLICY]

end Sys2Proof.Machine
end

section
/-! SUPPORT. Reads of fields and registers through writes elsewhere: side conditions that `decide` settles from the register
table, so that a chain of writes is read by rewriting. -/
namespace Sys2Proof.Machine
open Sys2Proof.Claims

/-! ### Addresses that differ -/

/-- Registers of one stride whose places in it differ never meet. -/
theorem Reg.addr_ne_of_stride {r q : Reg} (hs : r.stride = q.stride) (hm : r.base % r.stride ≠ q.base % r.stride) (i k : Nat) :
    r.addr i 0 ≠ q.addr k 0 := by
  intro h
  simp only [Reg.addr, Nat.zero_mul, Nat.add_zero, ← hs] at h
  have hmod := congrArg (· % r.stride) h
  simp only [Nat.add_mul_mod_self_right] at hmod
  exact hm hmod

/-- The address past the last place of a register. -/
def Reg.top (r : Reg) : Nat := r.base + r.count * r.stride + 4

theorem Reg.addr_lt_top {r : Reg} {i : Nat} (hi : i < r.count) : r.addr i 0 < r.top := by
  have := Nat.mul_le_mul_right r.stride (Nat.le_of_lt hi)
  simp only [Reg.addr, Reg.top]; omega

/-- Registers of which one's instances all lie below the other's never meet. -/
theorem Reg.addr_ne_of_below {r q : Reg} (h : r.top ≤ q.base) {i : Nat} (hi : i < r.count) (k : Nat) : r.addr i 0 ≠ q.addr k 0 := by
  have h1 := Reg.addr_lt_top hi
  have h2 : q.base ≤ q.addr k 0 := by simp only [Reg.addr]; omega
  omega

/-! ### Reads through a write of another register -/

section
variable (s : State) {r q : Reg} {f g : Fld} (v : Nat) (i k : Nat)

theorem State.reg_setReg_stride (hs : q.stride = r.stride) (hm : q.base % q.stride ≠ r.base % q.stride) :
    (s.setReg r v i).reg q k = s.reg q k := State.reg_setReg_other _ _ _ _ _ _ _ _ (Reg.addr_ne_of_stride hs hm k i)

theorem State.reg_setReg_above (h : r.top ≤ q.base) (hi : i < r.count) : (s.setReg r v i).reg q k = s.reg q k :=
  State.reg_setReg_other _ _ _ _ _ _ _ _ (Reg.addr_ne_of_below h hi k).symm

theorem State.reg_setReg_below (h : q.top ≤ r.base) (hk : k < q.count) : (s.setReg r v i).reg q k = s.reg q k :=
  State.reg_setReg_other _ _ _ _ _ _ _ _ (Reg.addr_ne_of_below h hk i)

theorem State.get_setReg_stride (hs : g.reg.stride = r.stride) (hm : g.reg.base % g.reg.stride ≠ r.base % g.reg.stride) :
    (s.setReg r v i).get g k = s.get g k := by rw [State.get, State.reg_setReg_stride s v i k hs hm, State.get]

theorem State.get_setReg_above (h : r.top ≤ g.reg.base) (hi : i < r.count) : (s.setReg r v i).get g k = s.get g k := by
  rw [State.get, State.reg_setReg_above s v i k h hi, State.get]

theorem State.get_setReg_below (h : g.reg.top ≤ r.base) (hk : k < g.reg.count) : (s.setReg r v i).get g k = s.get g k := by
  rw [State.get, State.reg_setReg_below s v i k h hk, State.get]

theorem State.reg_put_stride (hs : q.stride = f.reg.stride) (hm : q.base % q.stride ≠ f.reg.base % q.stride) :
    (s.put f v i).reg q k = s.reg q k := State.reg_setReg_stride s _ i k hs hm

theorem State.reg_put_above (h : f.reg.top ≤ q.base) (hi : i < f.reg.count) : (s.put f v i).reg q k = s.reg q k :=
  State.reg_setReg_above s _ i k h hi

theorem State.reg_put_below (h : q.top ≤ f.reg.base) (hk : k < q.count) : (s.put f v i).reg q k = s.reg q k :=
  State.reg_setReg_below s _ i k h hk

theorem State.get_put_stride (hs : g.reg.stride = f.reg.stride) (hm : g.reg.base % g.reg.stride ≠ f.reg.base % g.reg.stride) :
    (s.put f v i).get g k = s.get g k := State.get_setReg_stride s _ i k hs hm

theorem State.get_put_above (h : f.reg.top ≤ g.reg.base) (hi : i < f.reg.count) : (s.put f v i).get g k = s.get g k :=
  State.get_setReg_above s _ i k h hi

theorem State.get_put_below (h : g.reg.top ≤ f.reg.base) (hk : k < g.reg.count) : (s.put f v i).get g k = s.get g k :=
  State.get_setReg_below s _ i k h hk

/-- A field beside the written one in its register. -/
theorem State.get_put_beside (hreg : g.reg = f.reg) (hw : g.lo + g.width ≤ 32)
    (h : g.lo + g.width ≤ f.lo ∨ f.lo + f.width ≤ g.lo) : (s.put f v i).get g i = s.get g i :=
  State.get_put_apart s f g v i 0 hreg hw h

end

/-! ### Reads through writes of the units' own records -/

section
variable (s : State) (g : Fld) (i j : Nat)

@[simp] theorem State.get_setCam (p : Nat) (x : CamPort) : (s.setCam p x).get g i j = s.get g i j := rfl
@[simp] theorem State.get_setPipe (p : Nat) (x : Pipe) : (s.setPipe p x).get g i j = s.get g i j := rfl
@[simp] theorem State.on_setCam (p : Nat) (x : CamPort) : (s.setCam p x).on g i j = s.on g i j := rfl
@[simp] theorem State.on_setPipe (p : Nat) (x : Pipe) : (s.setPipe p x).on g i j = s.on g i j := rfl

end

/-! ### Owners of resources (R53) -/

/-- The owner of a resource that has no critical word shows in its register. -/
theorem State.owner_eq (s : State) {i : Nat} (h : 12 < i) : s.owner i = s.get F.SYS_OWN_OWNER i := by
  rw [State.owner, State.ownReg, decide_eq_false (by omega)]; rfl

theorem State.ownerInst_eq (s : State) {i : Nat} (h : 12 < i) : s.ownerInst i = s.get F.SYS_OWN_INSTANCE i := by
  rw [State.ownerInst, State.ownReg, decide_eq_false (by omega)]; rfl

/-- With no critical word split every owner shows in its register. -/
theorem State.owner_unsplit {s : State} (h : s.splits = []) (i : Nat) : s.owner i = s.get F.SYS_OWN_OWNER i := by
  rw [State.owner, State.ownReg, State.splitWord, h]; simp [State.get, F.SYS_OWN_OWNER]

theorem State.ownerInst_unsplit {s : State} (h : s.splits = []) (i : Nat) : s.ownerInst i = s.get F.SYS_OWN_INSTANCE i := by
  rw [State.ownerInst, State.ownReg, State.splitWord, h]; simp [State.get, F.SYS_OWN_INSTANCE]

theorem State.own_regs (s : State) (i o n : Nat) :
    (s.own i o n).regs = ((s.put F.SYS_OWN_OWNER o i).put F.SYS_OWN_INSTANCE n i).regs := by
  unfold State.own; dsimp only; split <;> rfl

/-- Giving a resource an owner writes its register, and its critical word where it has one. -/
theorem State.own_only (s : State) (i o n : Nat) : s.own i o n = { s with regs := (s.own i o n).regs, copies := (s.own i o n).copies } := by
  unfold State.own; dsimp only; split <;> rfl

theorem State.own_splits (s : State) (i o n : Nat) : (s.own i o n).splits = s.splits := by rw [s.own_only]

/-- A resource without a critical word. -/
theorem State.own_plain (s : State) {i : Nat} (h : 12 < i) (o n : Nat) :
    s.own i o n = (s.put F.SYS_OWN_OWNER o i).put F.SYS_OWN_INSTANCE n i := if_neg (by omega)

theorem State.get_own (s : State) (i o n : Nat) : (s.own i o n).get F.SYS_OWN_OWNER i = o % 2 ^ 8 ∧
    (s.own i o n).get F.SYS_OWN_INSTANCE i = n % 2 ^ 8 := by
  rw [State.get_congr (s.own_regs i o n), State.get_congr (s.own_regs i o n)]
  refine ⟨?_, State.get_put _ _ _ _ _ (by decide)⟩
  rw [State.get_put_apart _ F.SYS_OWN_INSTANCE F.SYS_OWN_OWNER _ _ 0 rfl (by decide) (.inl (by decide)),
    State.get_put _ _ _ _ _ (by decide)]
  rfl

end Sys2Proof.Machine
end

section
/-! Camera port commands and line triggers (R86, R97, R99). -/
namespace Sys2Proof.Machine
open Sys2Proof.Claims

/-! ### Line triggers -/

/-- A write of a FIELD register changes registers, and goes to the field die. -/
theorem State.setField_only (s : State) (r : Reg) (v i : Nat) :
    s.setField r v i = { s with regs := (s.setField r v i).regs, field := (s.setField r v i).field } := by
  unfold State.setField; dsimp only; split <;> rfl

theorem State.setField_regs (s : State) (r : Reg) (v i : Nat) : ∃ b d,
    (s.setField r v i).regs = (((s.setReg r v i).putBit F.FIELD_LINK_STAT_PENDING b).putBit F.FIELD_STOP_CLEAR_PENDING d).regs := by
  unfold State.setField; dsimp only; split <;> exact ⟨_, _, rfl⟩

/-- A register of an earlier block keeps its value when a FIELD register is written. -/
theorem State.get_setField (s : State) {r : Reg} (v i : Nat) {g : Fld} {k : Nat} (hk : k < g.reg.count)
    (hr : g.reg.top ≤ r.base) (hf : g.reg.top ≤ R.FIELD_LINK_STAT.base) : (s.setField r v i).get g k = s.get g k := by
  obtain ⟨b, d, h⟩ := s.setField_regs r v i
  have hstop : R.FIELD_LINK_STAT.base ≤ F.FIELD_STOP_CLEAR_PENDING.reg.base := by decide
  rw [State.get_congr h, State.putBit, State.get_put_below _ _ _ _ (hf.trans hstop) hk, State.putBit,
    State.get_put_below _ _ _ _ hf hk, State.get_setReg_below _ _ _ _ hr hk]

theorem State.setField_cam (s : State) (r : Reg) (v i p : Nat) : (s.setField r v i).cam p = s.cam p := by
  unfold State.cam; rw [s.setField_only]

theorem State.own_cam (s : State) (i o n p : Nat) : (s.own i o n).cam p = s.cam p := by unfold State.cam; rw [s.own_only]

theorem State.setField_splits (s : State) (r : Reg) (v i : Nat) : (s.setField r v i).splits = s.splits := by
  rw [s.setField_only]

theorem State.stopTrigger_splits (s : State) (p : Nat) : (s.stopTrigger p).splits = s.splits := by
  have hunit : ∀ (t : State) (n : Nat), ((t.own (13 + n) ownNone 0).putBit F.TK_CMP_S_HI_ARMED false n).splits = t.splits :=
    fun t n => t.own_splits _ _ _
  unfold State.stopTrigger
  dsimp only
  cases (s.cam p).trigFo <;> cases (s.cam p).trigUnit <;>
    simp only [State.setCam_splits, hunit, State.own_splits, State.putField, State.setField_splits]

/-- A stopped trigger has no output, no unit and no period. -/
theorem State.stopTrigger_cam (s : State) (p : Nat) : ((s.stopTrigger p).cam p).trigFo = none ∧
    ((s.stopTrigger p).cam p).trigUnit = none ∧ ((s.stopTrigger p).cam p).trigPer = 0 := by
  unfold State.stopTrigger
  dsimp only
  rw [State.cam_setCam]
  exact ⟨rfl, rfl, rfl⟩

/-- A trigger on a field output owns it, with its period and width. -/
theorem State.startTrigger_fo {s : State} (hs : s.splits = []) {p i : Nat} (hi : i < 8) (hp : p < 17) (per w : Nat) :
    let t := s.startTrigger p 0 i per w
    t.owner (5 + i) = ownLineTrigger ∧ t.ownerInst (5 + i) = p ∧ (t.cam p).trigFo = some i ∧ (t.cam p).trigPer = per ∧
      (t.cam p).trigW = w := by
  have h62 : 5 + i < R.SYS_OWN.count := by show 5 + i < 62; omega
  dsimp only
  rw [State.startTrigger, if_pos rfl]
  dsimp only
  generalize hu : State.setCam (s.own (5 + i) ownLineTrigger p) p _ = u
  have husplit : u.splits = [] := by rw [← hu]; exact (s.own_splits _ _ _).trans hs
  obtain ⟨ho, hn⟩ := s.get_own (5 + i) ownLineTrigger p
  have hsplit : (((u.setField R.FIELD_FO_TRIG_WIDTH w i).setField R.FIELD_FO_TRIG_PERIOD
      (per + 2 ^ 24 * u.get F.CAM_CTRL_ENC p) i).putField (F.FIELD_FO_FUNC_FUNC i) 2).splits = [] := by
    rw [State.putField, State.setField_splits, State.setField_splits, State.setField_splits]; exact husplit
  rw [State.owner_unsplit hsplit, State.ownerInst_unsplit hsplit, State.putField]
  have hget : ∀ g : Fld, g.reg = R.SYS_OWN → ∀ v1 v2 v3, (((u.setField R.FIELD_FO_TRIG_WIDTH v1 i).setField R.FIELD_FO_TRIG_PERIOD
      v2 i).setField R.FIELD_FO_FUNC v3).get g (5 + i) = (s.own (5 + i) ownLineTrigger p).get g (5 + i) := by
    intro g hg v1 v2 v3
    have hk : 5 + i < g.reg.count := by rw [hg]; exact h62
    rw [State.get_setField _ _ _ hk (by rw [hg]; decide) (by rw [hg]; decide),
      State.get_setField _ _ _ hk (by rw [hg]; decide) (by rw [hg]; decide),
      State.get_setField _ _ _ hk (by rw [hg]; decide) (by rw [hg]; decide), ← hu]
    rfl
  refine ⟨(hget _ rfl _ _ _).trans ho, (hget _ rfl _ _ _).trans (hn.trans (Nat.mod_eq_of_lt (by omega))), ?_⟩
  rw [State.setField_cam, State.setField_cam, State.setField_cam, ← hu, State.cam_setCam]
  exact ⟨rfl, rfl, rfl⟩

/-- A trigger on a compare unit owns it, with its period and width. -/
theorem State.startTrigger_unit (s : State) {p i : Nat} (hi : i < 32) (hp : p < 17) (per w : Nat) :
    let t := s.startTrigger p 1 i per w
    t.owner (13 + i) = ownCamera ∧ t.ownerInst (13 + i) = p ∧ (t.cam p).trigUnit = some i ∧ (t.cam p).trigPer = per ∧
      (t.cam p).trigW = w := by
  have h62 : 13 + i < R.SYS_OWN.count := by show 13 + i < 62; omega
  obtain ⟨ho, hn⟩ := s.get_own (13 + i) ownCamera p
  dsimp only
  rw [State.startTrigger, if_neg (by decide), State.owner_eq _ (by omega), State.ownerInst_eq _ (by omega)]
  have hput : ∀ (u : State) (f g : Fld) (v : Nat), g.reg = R.SYS_OWN → R.SYS_OWN.top ≤ f.reg.base →
      (u.put f v i).get g (13 + i) = u.get g (13 + i) :=
    fun u f g v hg hf => State.get_put_below _ _ _ _ (by rw [hg]; exact hf) (by rw [hg]; exact h62)
  have hkeep : ∀ (u : State) (g : Fld), g.reg = R.SYS_OWN → (u.cam p).trigUnit = some i →
      (u.retrigger p).get g (13 + i) = u.get g (13 + i) ∧ ((u.retrigger p).cam p).trigUnit = some i ∧
      ((u.retrigger p).cam p).trigPer = (u.cam p).trigPer ∧ ((u.retrigger p).cam p).trigW = (u.cam p).trigW := by
    intro u g hg hu
    unfold State.retrigger
    dsimp only
    rw [hu]
    dsimp only
    split
    · refine ⟨?_, ?_⟩
      · rw [State.putBit, hput _ _ _ _ hg (by decide), State.putTime, hput _ _ _ _ hg (by decide), hput _ _ _ _ hg (by decide),
          hput _ _ _ _ hg (by decide)]
        rfl
      · show ((State.setCam u p _).cam p).trigUnit = _ ∧ ((State.setCam u p _).cam p).trigPer = _ ∧ ((State.setCam u p _).cam p).trigW = _
        rw [State.cam_setCam]; exact ⟨rfl, rfl, rfl⟩
    · refine ⟨?_, ?_⟩
      · rw [State.putBit, hput _ _ _ _ hg (by decide)]; rfl
      · show ((State.setCam u p _).cam p).trigUnit = _ ∧ ((State.setCam u p _).cam p).trigPer = _ ∧ ((State.setCam u p _).cam p).trigW = _
        rw [State.cam_setCam]; exact ⟨rfl, rfl, rfl⟩
  generalize hu : State.setCam (s.own (13 + i) ownCamera p) p _ = u
  have hcam : (u.cam p).trigUnit = some i ∧ (u.cam p).trigPer = per ∧ (u.cam p).trigW = w := by
    rw [← hu, State.cam_setCam]; exact ⟨rfl, rfl, rfl⟩
  obtain ⟨hunit, hper, hw⟩ := hcam
  have hown : ∀ g, u.get g (13 + i) = (s.own (13 + i) ownCamera p).get g (13 + i) := fun g => by rw [← hu]; rfl
  obtain ⟨h1, h2, h3, h4⟩ := hkeep u F.SYS_OWN_OWNER rfl hunit
  refine ⟨h1.trans ((hown _).trans ho), (hkeep u F.SYS_OWN_INSTANCE rfl hunit).1.trans ((hown _).trans
    (hn.trans (Nat.mod_eq_of_lt (by omega)))), h2, h3.trans hper, h4.trans hw⟩

/-! ### Enabling and disabling -/

/-- A change of the ports, and then of registers. -/
theorem frame_regs_cams {s x t : State} (hx : x = { s with cams := x.cams }) (ht : t = { x with regs := t.regs }) :
    t = { s with regs := t.regs, cams := t.cams } := by rw [ht, hx]


/-- What a port that is switched on or off shows: QUIET and IN_USE. -/
theorem State.showPort_only (s : State) (p : Nat) : s.showPort p = { s with regs := (s.showPort p).regs } := rfl

theorem State.get_showPort (s : State) {p : Nat} {g : Fld} (hs : g.reg.stride = R.CAM_CTRL.stride)
    (hm : g.reg.base % g.reg.stride ≠ R.CAM_CTRL.base % g.reg.stride) (hb : R.SYS_OWN.top ≤ g.reg.base) (hp : p < 17) :
    (s.showPort p).get g p = s.get g p := by
  have h62 : 45 + p < R.SYS_OWN.count := by show 45 + p < 62; omega
  unfold State.showPort
  dsimp only
  rw [State.putBit, State.get_put_above _ _ _ _ hb h62, State.putBit, State.get_put_stride _ _ _ _ hs hm]

/-- Fields of CAM_CTRL other than QUIET. -/
theorem State.get_showPort_ctrl (s : State) {p : Nat} {g : Fld} (hr : g.reg = R.CAM_CTRL) (hw : g.lo + g.width ≤ 2) (hp : p < 17) :
    (s.showPort p).get g p = s.get g p := by
  have h62 : 45 + p < R.SYS_OWN.count := by show 45 + p < 62; omega
  unfold State.showPort
  dsimp only
  rw [State.putBit, State.get_put_above _ _ _ _ (by rw [hr]; decide) h62, State.putBit,
    State.get_put_beside _ _ _ hr (by omega) (.inl hw)]

theorem State.showPort_owner (s : State) {p : Nat} (hp : p < 17) : (s.showPort p).owner (45 + p) = s.get F.SYS_OWN_OWNER (45 + p) := by
  have h62 : 45 + p < R.SYS_OWN.count := by show 45 + p < 62; omega
  rw [State.owner_eq _ (by omega)]
  unfold State.showPort
  dsimp only
  rw [State.putBit, State.get_put_beside (f := F.SYS_OWN_IN_USE) (g := F.SYS_OWN_OWNER) _ _ _ rfl (by decide) (.inl (by decide)), State.putBit,
    State.get_put_below _ _ _ _ (by decide) h62]

/-- The registers that enabling a port writes, before its owner and what it shows. -/
def State.camSet (s : State) (c : Cmd) (w words slots : Nat) : State :=
  (((((((s.setReg R.CAM_CTRL w c.target).setReg R.CAM_LINE_WORDS words c.target).setReg R.CAM_BLOCK_LINES (bitsOf (c.p 3) 0 16)
    c.target).put F.CAM_FILL_FILL (c.p 8) c.target).put F.CAM_INCOMPLETE_POLICY_DECIDE (c.p 8 / 2 ^ 16) c.target).put
    F.CAM_LS_SLOTS_SLOTS slots c.target).put F.CAM_LS_USED_USED 0 c.target).put F.CAM_HOLES_ENTRIES 0 c.target

/-- Enabling writes registers alone, beside the port's own record. -/
theorem State.camSet_only (s : State) (c : Cmd) (w words slots : Nat) : s.camSet c w words slots =
    { s with regs := (s.camSet c w words slots).regs } := rfl

theorem State.camSet_opened (s : State) (c : Cmd) (w words slots : Nat) :
    let t := ((s.camSet c w words slots).own (45 + c.target) ownLineStore c.target).showPort c.target
    t = { s with regs := t.regs } := by
  dsimp only
  rw [State.own_plain _ (by omega), State.showPort_only, State.camSet_only]
  rfl

/-- The port's own record as enabling begins it. -/
def State.camCleared (s : State) (c : Cmd) : State :=
  s.setCam c.target { s.cam c.target with
    first := true, orphans := false, streamed := true, beam := (camRegions c).1, beamLen := (camRegions c).2.1
    spill := (camRegions c).2.2.1, spillLen := (camRegions c).2.2.2, blk := none, prev := none, behind := none, held := []
    outs := [], holes := [], stood := [], taps := [] }

/-- CAM_CTRL as an enable writes it, with EN and ARMED set. -/
def camWord (c : Cmd) : Nat := bitsOf (c.p 1) 0 6 * 2 ^ 4 + bitsOf (c.p 1) 8 4 * 2 ^ 10 + bitsOf (c.p 1) 12 2 * 2 ^ 14 +
  bitsOf (c.p 1) 14 2 * 2 ^ 16 + bitsOf (c.p 4) 0 1 * 2 ^ 18 + 3

/-- What an enabled port's registers show. -/
theorem State.camSet_shows (s : State) {c : Cmd} (hp : c.target < 17) {w words : Nat} (slots : Nat) (hw : w % 4 = 3)
    (hwords : words = c.p 2 % 2 ^ 14) :
    let t := ((s.camSet c w words slots).own (45 + c.target) ownLineStore c.target).showPort c.target
    t.on F.CAM_CTRL_EN c.target = true ∧ t.on F.CAM_CTRL_ARMED c.target = true ∧
      t.get F.CAM_LINE_WORDS_LINE_WORDS c.target = c.p 2 % 2 ^ 14 ∧ t.get F.CAM_BLOCK_LINES_BLOCK_LINES c.target = c.p 3 % 2 ^ 16 ∧
      t.owner (45 + c.target) = ownLineStore := by
  have h62 : 45 + c.target < R.SYS_OWN.count := by show 45 + c.target < 62; omega
  have hown : ∀ (u : State) (g : Fld), R.SYS_OWN.top ≤ g.reg.base →
      (u.own (45 + c.target) ownLineStore c.target).get g c.target = u.get g c.target := fun u g hg => by
    rw [State.own_plain _ (by omega), State.get_put_above _ _ _ _ hg h62, State.get_put_above _ _ _ _ hg h62]
  have hctrl : ∀ g : Fld, g.reg = R.CAM_CTRL → (s.camSet c w words slots).get g c.target = bitsOf (w % 2 ^ 32) g.lo g.width := by
    intro g hg
    have hput : ∀ (u : State) (f : Fld) (v : Nat), f.reg.stride = R.CAM_CTRL.stride → f.reg.base % 256 ≠ 0 →
        (u.put f v c.target).get g c.target = u.get g c.target := fun u f v h1 h2 =>
      State.get_put_stride _ _ _ _ (by rw [hg, h1]) (by rw [hg]; exact h2.symm)
    rw [State.camSet, hput _ _ _ rfl (by decide), hput _ _ _ rfl (by decide), hput _ _ _ rfl (by decide), hput _ _ _ rfl (by decide),
      hput _ _ _ rfl (by decide), State.get_setReg_stride _ _ _ _ (by rw [hg]; rfl) (by rw [hg]; decide),
      State.get_setReg_stride _ _ _ _ (by rw [hg]; rfl) (by rw [hg]; decide), State.get, hg, State.reg_setReg]
  dsimp only
  refine ⟨?_, ?_, ?_, ?_, ?_⟩
  · rw [State.on, State.get_showPort_ctrl _ rfl (by decide) hp, hown _ _ (by decide), hctrl _ rfl]
    simp only [bitsOf, F.CAM_CTRL_EN, bne_iff_ne]; omega
  · rw [State.on, State.get_showPort_ctrl _ rfl (by decide) hp, hown _ _ (by decide), hctrl _ rfl]
    simp only [bitsOf, F.CAM_CTRL_ARMED, bne_iff_ne]; omega
  · rw [State.get_showPort _ rfl (by decide) (by decide) hp, hown _ _ (by decide), State.camSet]
    simp (disch := decide) only [State.get_put_stride, State.get_setReg_stride]
    rw [State.get, show F.CAM_LINE_WORDS_LINE_WORDS.reg = R.CAM_LINE_WORDS from rfl, State.reg_setReg]
    simp only [bitsOf, F.CAM_LINE_WORDS_LINE_WORDS]; omega
  · rw [State.get_showPort _ rfl (by decide) (by decide) hp, hown _ _ (by decide), State.camSet]
    simp (disch := decide) only [State.get_put_stride]
    rw [State.get, show F.CAM_BLOCK_LINES_BLOCK_LINES.reg = R.CAM_BLOCK_LINES from rfl, State.reg_setReg]
    simp only [bitsOf, F.CAM_BLOCK_LINES_BLOCK_LINES]; omega
  · rw [State.showPort_owner _ hp, (State.get_own _ _ _ _).1]; rfl

/-- The registers that disabling a port writes. -/
def State.camOff (s : State) (p : Nat) : State :=
  (((((s.putBit F.CAM_CTRL_EN false p).putBit F.CAM_CTRL_ARMED false p).put F.CAM_LS_SLOTS_SLOTS 0 p).put
    F.CAM_HOLES_ENTRIES 0 p).own (45 + p) ownNone 0).showPort p

theorem State.camOff_only (s : State) (p : Nat) : s.camOff p = { s with regs := (s.camOff p).regs } := by
  unfold State.camOff; rw [State.own_plain _ (by omega)]; rfl

/-- A disabled port is off, and its line store has no owner. -/
theorem State.camOff_shows (s : State) {p : Nat} (hp : p < 17) : (s.camOff p).on F.CAM_CTRL_EN p = false ∧
    (s.camOff p).owner (45 + p) = ownNone := by
  have h62 : 45 + p < R.SYS_OWN.count := by show 45 + p < 62; omega
  unfold State.camOff
  refine ⟨?_, by rw [State.showPort_owner _ hp, (State.get_own _ _ _ _).1]; rfl⟩
  rw [State.on, State.get_showPort_ctrl _ rfl (by decide) hp, State.own_plain _ (by omega),
    State.get_put_above _ _ _ _ (by decide) h62, State.get_put_above _ _ _ _ (by decide) h62,
    State.get_put_stride _ _ _ _ (by decide) (by decide), State.get_put_stride _ _ _ _ (by decide) (by decide), State.putBit,
    State.get_put_beside (g := F.CAM_CTRL_EN) (f := F.CAM_CTRL_ARMED) _ _ _ rfl (by decide) (.inl (by decide))]
  exact State.on_putBit s F.CAM_CTRL_EN false p 0 rfl (by decide)

/-- The end of raw taps changes the pipes, and what goes out and notes it. -/
theorem State.endRawTaps_only (s : State) (b : Block) : s.endRawTaps b = { s with
    regs := (s.endRawTaps b).regs, i3c := (s.endRawTaps b).i3c, host := (s.endRawTaps b).host, snap := (s.endRawTaps b).snap,
    pipes := (s.endRawTaps b).pipes } := by
  refine foldState_keeps (P := fun t : State => t = { s with regs := t.regs, i3c := t.i3c, host := t.host, snap := t.snap, pipes := t.pipes })
    (fun t e ht => ?_) rfl _
  dsimp only
  generalize hu : State.setPipe t e.1 _ = u
  have honly : u = { s with regs := u.regs, i3c := u.i3c, host := u.host, snap := u.snap, pipes := u.pipes } := by
    rw [← hu, ht]; rfl
  have hsend := State.sendTap_s u b.port (tapHeader b.port e.2 0xFFF b.base b.time 0)
    (((t.pipe e.1).tapBobs.filter fun w => w.bobbin == 0xFFF && w.tap == e.2 && w.port == b.port && w.base == b.base).flatMap (·.packets))
  unfold OnlyS at hsend
  rw [hsend, honly]

/-- Ending a port's open block changes its own record, the pipes' raw taps, and what goes out. -/
theorem State.dropBlock_cams (s : State) {p q : Nat} (h : q ≠ p) : tget? (s.dropBlock p).cams q = tget? s.cams q := by
  unfold State.dropBlock
  split
  · rw [State.endRawTaps_only]; exact tget?_tset_other _ _ h
  · rfl

theorem bitsOf_kind (x : Nat) : bitsOf x 8 1 = bit (bitAt x 8) := by
  unfold bitsOf bitAt bit
  rcases Nat.mod_two_eq_zero_or_one (x / 2 ^ 8) with h | h <;> simp only [Nat.pow_one, h] <;> rfl

/-- Settles O21: enable, disable and trigger by their checks, and the end of a pulse. -/
theorem cameraCommands : Obligations.CameraCommands := by
  unfold Obligations.CameraCommands
  refine ⟨fun s src c h hp hok hen hc1 hc2 => ?enable, fun s src c h hok => ?enableBad, fun s src c h hok => ⟨fun hen => ?enabled, fun hen hc => ?clash⟩,
    fun s src c h hen => ?disabled, fun s src c h hen hb => ?busy, fun s src c h hp hen hn hh ho => ?disable,
    fun s src c h hp hok hper hk hheld => ?unit, fun s src c h hp hok hper hk hs hheld => ?output,
    fun s src c h => ⟨fun hok => ?triggerBad, fun hok hper hk hheld => ?held⟩, fun s src c h hok hper => ?stop,
    fun s p hlive => goes_onDevice (f := fun s => s.setCam p.val { s.cam p.val with trigOn := false }) hlive rfl rfl, fun s i hup => ?pulseEnd⟩
  case enable =>
    have h1 : ¬ (!(s.dropOldest src).camEnableOk c) = true := by simp [hok]
    have h3 : ¬ ((s.dropOldest src).clashes ⟨ownPortBeam + c.target, (camRegions c).1, (camRegions c).2.1⟩
          (fun o => isPortOwner o && o != ownPortBeam + c.target && o != ownPortSpill + c.target) ||
        (s.dropOldest src).clashes ⟨ownPortSpill + c.target, (camRegions c).2.2.1, (camRegions c).2.2.2⟩
          (fun o => isPortOwner o && o != ownPortBeam + c.target && o != ownPortSpill + c.target)) = true := by
      rw [hc1, hc2]; decide
    have hword : camWord c % 4 = 3 := by unfold camWord; omega
    have hwords : bitsOf (c.p 2) 0 14 = c.p 2 % 2 ^ 14 := by simp [bitsOf]
    obtain ⟨he, ha, hl, hb, ho⟩ := ((s.dropOldest src).camCleared c).camSet_shows hp
      ((camRegions c).2.1 / roundUp (4 * bitsOf (c.p 2) 0 14) 64 + (camRegions c).2.2.2 / roundUp (4 * bitsOf (c.p 2) 0 14) 64)
      hword hwords
    have honly := ((s.dropOldest src).camCleared c).camSet_opened c (camWord c) (bitsOf (c.p 2) 0 14)
      ((camRegions c).2.1 / roundUp (4 * bitsOf (c.p 2) 0 14) 64 + (camRegions c).2.2.2 / roundUp (4 * bitsOf (c.p 2) 0 14) 64)
    refine ⟨_, ends_runCmd h (show execCmdCamEnable src s = _ from rfl) ((if_neg h1).trans ((if_neg (Bool.eq_false_iff.mp hen)).trans
      (if_neg h3))), frame_regs_cams rfl honly, he, ha, hl, hb, ho, ?_⟩
    have hcam : ∀ t : State, t = { (s.dropOldest src).camCleared c with regs := t.regs } →
        t.cam c.target = ((s.dropOldest src).camCleared c).cam c.target := fun t ht => by unfold State.cam; rw [ht]
    have hcleared : State.cam ((s.dropOldest src).camCleared c) c.target = _ := State.cam_setCam _ _ _
    have hbeam : bitsOf (c.p 6) 0 8 = c.p 6 % 256 := by simp [bitsOf]
    have hrecord := (hcam _ honly).trans hcleared
    exact ⟨(congrArg CamPort.beam hrecord).trans (congrArg (c.p 5 + 2 ^ 32 * ·) hbeam), congrArg CamPort.first hrecord,
      congrArg CamPort.held hrecord, fun q hq =>
        (congrArg (fun t : State => tget? t.cams q) honly).trans (tget?_tset_other _ _ hq)⟩
  case enableBad =>
    exact ends_runCmd h (show execCmdCamEnable src s = _ from rfl) (if_pos (by simp [hok]))
  case enabled =>
    exact ends_runCmd h (show execCmdCamEnable src s = _ from rfl) ((if_neg (by simp [hok])).trans (if_pos hen))
  case clash =>
    refine ends_runCmd h (show execCmdCamEnable src s = _ from rfl) ((if_neg (by simp [hok])).trans
      ((if_neg (Bool.eq_false_iff.mp hen)).trans (if_pos ?_)))
    rw [hc]; rfl
  case disabled =>
    exact ends_runCmd h (show execCmdCamDisable src s = _ from rfl) (if_pos (by exact (congrArg (!·) hen).trans rfl))
  case busy =>
    refine ends_runCmd h (show execCmdCamDisable src s = _ from rfl) ((if_neg ?_).trans (if_pos ?_))
    · exact Bool.eq_false_iff.mp ((congrArg (!·) hen).trans rfl)
    · show (s.named c.target || !(s.cam c.target).held.isEmpty || !(s.cam c.target).outs.isEmpty) = true
      rcases hb with h | h | h <;> simp [h]
  case disable =>
    have hidle : ¬ (s.named c.target || !(s.cam c.target).held.isEmpty || !(s.cam c.target).outs.isEmpty) = true := by
      simp [hn, hh, ho]
    have hon : ¬ (!(s.dropOldest src).on F.CAM_CTRL_EN c.target) = true := by
      rw [show (s.dropOldest src).on F.CAM_CTRL_EN c.target = true from hen]; decide
    have hend := ends_runCmd (i := .cmdCamDisable src) h (show execCmdCamDisable src s = _ from rfl) ((if_neg hon).trans (if_neg hidle))
    generalize hu : State.setCam ((s.dropOldest src).dropBlock c.target) c.target _ = u at hend
    have honly := u.camOff_only c.target
    obtain ⟨hoff, hown⟩ := u.camOff_shows hp
    refine ⟨u.camOff c.target, hend, frame_regs_cams (by rw [← hu]; rfl) honly, hoff, hown, ?_, fun q hq => ?_⟩
    · have hcam : (u.camOff c.target).cam c.target = u.cam c.target := (congrArg (fun t : State => t.cam c.target) honly).trans rfl
      rw [hcam, ← hu, State.cam_setCam]
    · rw [honly, ← hu]
      exact (tget?_tset_other _ _ hq).trans (State.dropBlock_cams _ hq)
  case unit =>
    have hindex : bitsOf (c.p 1) 0 5 = c.p 1 % 32 := by simp [bitsOf]
    have hper' : ¬ bitsOf (c.p 2) 0 24 = 0 := by simpa [bitsOf] using hper
    have hkind : bitsOf (c.p 1) 8 1 = 1 := by rw [bitsOf_kind, hk]; rfl
    have hfree : ¬ (s.dropOldest src).heldByOther (trigResource 1 (bitsOf (c.p 1) 0 5)) ownCamera c.target = true := by
      rw [hindex]; exact Bool.eq_false_iff.mp hheld
    refine ⟨_, ends_runCmd h (show execCmdCamTrigger src s = _ from rfl) ((if_neg (by simp [hok])).trans ((if_neg hper').trans
      ((if_neg ?_).trans rfl))), ?_⟩
    · rw [hkind]; exact hfree
    · rw [hkind, hindex, show bitsOf (c.p 2) 0 24 = c.p 2 % 2 ^ 24 by simp [bitsOf],
        show bitsOf (c.p 3) 0 16 = c.p 3 % 2 ^ 16 by simp [bitsOf]]
      exact State.startTrigger_unit _ (Nat.mod_lt _ (by decide)) hp _ _
  case output =>
    have hindex : bitsOf (c.p 1) 0 5 = c.p 1 % 32 := by simp [bitsOf]
    have hper' : ¬ bitsOf (c.p 2) 0 24 = 0 := by simpa [bitsOf] using hper
    have hkind : bitsOf (c.p 1) 8 1 = 0 := by rw [bitsOf_kind, hk]; rfl
    have hi8 : c.p 1 % 32 < 8 := by
      have h8 := hok
      rw [camTriggerOk, hkind, hindex] at h8
      simpa using (Bool.and_eq_true_iff.mp h8).1
    have hfree : ¬ (s.dropOldest src).heldByOther (trigResource 0 (bitsOf (c.p 1) 0 5)) ownLineTrigger c.target = true := by
      rw [hindex]; exact Bool.eq_false_iff.mp hheld
    refine ⟨_, ends_runCmd h (show execCmdCamTrigger src s = _ from rfl) ((if_neg (by simp [hok])).trans ((if_neg hper').trans
      ((if_neg ?_).trans rfl))), ?_⟩
    · rw [hkind]; exact hfree
    · rw [hkind, hindex, show bitsOf (c.p 2) 0 24 = c.p 2 % 2 ^ 24 by simp [bitsOf],
        show bitsOf (c.p 3) 0 16 = c.p 3 % 2 ^ 16 by simp [bitsOf]]
      refine State.startTrigger_fo ?_ hi8 hp _ _
      refine (apply_ite State.splits _ _ _).trans ?_
      rw [State.stopTrigger_splits, ite_self]
      exact hs
  case triggerBad =>
    exact ends_runCmd h (show execCmdCamTrigger src s = _ from rfl) (if_pos (by simp [hok]))
  case held =>
    refine ends_runCmd h (show execCmdCamTrigger src s = _ from rfl) ((if_neg (by simp [hok])).trans
      ((if_neg (by simpa [bitsOf] using hper)).trans (if_pos ?_)))
    rw [bitsOf_kind, hk]
    exact (congrArg (fun i => s.heldByOther (13 + i) ownCamera c.target) (by simp [bitsOf])).trans hheld
  case stop =>
    exact ⟨_, ends_runCmd h (show execCmdCamTrigger src s = _ from rfl) ((if_neg (by simp [hok])).trans (if_pos (by simpa [bitsOf] using hper))),
      State.stopTrigger_cam _ _⟩
  case pulseEnd =>
    refine ⟨_, (congrArg Host.Outcome.next (if_pos hup) : execTriggerPulseEnd (.fo i) s = _), rfl, rfl, fun j hj => ?_⟩
    show bitAt (setBits s.die.trigOn i.val 1 (bit false)) j = _
    rw [bitAt_eq_testBit, testBit_setBits, bitAt_eq_testBit]
    by_cases hij : j = i.val
    · subst hij; simp [bit]
    · rw [if_neg (by omega)]; simp [hij]

end Sys2Proof.Machine
end

section
/-! What the bookkeeping of lines, holes and raw taps leaves of a camera port (R87 to R96): the memories, device time, every
port's open block, what waits in the pipes, and the registers below. -/
namespace Sys2Proof.Machine
open Sys2Proof.Claims

/-- The fields of a port's registers that lines and holes leave. -/
def camKeptFields : List Fld := [F.CAM_BLOCK_CNT_BLOCK_SHORT, F.CAM_DROP_CNT_FIFO_DROP, F.CAM_PITCH_PITCH, F.CAM_BLOCK_LINES_BLOCK_LINES]

/-- The memories, device time, the open blocks, what waits in the pipes, the fields above and the count of timing-dependent choices. -/
structure CamKept (s t : State) : Prop where
  mem : t.mem = s.mem
  time : t.time = s.time
  blk : ∀ q, (t.cam q).blk = (s.cam q).blk
  inq : ∀ q, (t.pipe q).inq = (s.pipe q).inq
  fields : ∀ f ∈ camKeptFields, ∀ p < 17, t.get f p = s.get f p
  tdc : t.get F.DET_TDC_COUNT = s.get F.DET_TDC_COUNT

/-- The registers whose write leaves those fields, whatever the index where it is left open. -/
def Reg.camClear (r : Reg) (i j : Nat) : Bool :=
  decide (0x3F00E0000C ≤ r.base) ||
  (r.stride == 0x100 && r.stride2 == 0 && r.base % 0x100 != 0x48 && r.base % 0x100 != 0x4C && r.base % 0x100 != 0x14 &&
    r.base % 0x100 != 0x08) ||
  (r.stride == 0x1000 && r.stride2 == 0 && r.base % 0x1000 != 0x08 && decide (0x3F00701200 ≤ r.base)) ||
  (i == 0 && j == 0 && (decide (r.base + 4 ≤ 0x3F00700000) || (decide (0x3F00701200 ≤ r.base) && r.base != 0x3F00E00008)))

def CamClear (f : Fld) (i j : Nat) : Prop := f.reg.camClear i j = true

theorem Reg.camClear_ne {r : Reg} {i j : Nat} (h : r.camClear i j = true) :
    (∀ b ∈ [0x3F00700048, 0x3F0070004C, 0x3F00700014, 0x3F00700008], ∀ p < 17, b + p * 0x100 ≠ r.addr i j) ∧
    0x3F00E00008 ≠ r.addr i j := by
  simp only [Reg.camClear, Bool.or_eq_true, Bool.and_eq_true, decide_eq_true_eq, beq_iff_eq, bne_iff_ne] at h
  simp only [List.forall_mem_cons, List.not_mem_nil, false_implies, implies_true, and_true, Reg.addr]
  rcases h with ((h | h) | h) | h
  · refine ⟨⟨?_, ?_, ?_, ?_⟩, ?_⟩ <;> intros <;> omega
  · obtain ⟨⟨⟨⟨⟨hs, h2⟩, h3⟩, h4⟩, h5⟩, h6⟩ := h
    rw [hs, h2]
    refine ⟨⟨?_, ?_, ?_, ?_⟩, ?_⟩ <;> intros <;> omega
  · obtain ⟨⟨⟨hs, h2⟩, h3⟩, h4⟩ := h
    rw [hs, h2]
    refine ⟨⟨?_, ?_, ?_, ?_⟩, ?_⟩ <;> intros <;> omega
  · obtain ⟨⟨hi, hj⟩, h4⟩ := h
    rw [hi, hj]
    refine ⟨⟨?_, ?_, ?_, ?_⟩, ?_⟩ <;> intros <;> omega

theorem camKept_refl (s : State) : CamKept s s := ⟨rfl, rfl, fun _ => rfl, fun _ => rfl, fun _ _ _ _ => rfl, rfl⟩

theorem CamKept.trans {r s t : State} (h : CamKept r s) (k : CamKept s t) : CamKept r t :=
  ⟨k.mem.trans h.mem, k.time.trans h.time, fun q => (k.blk q).trans (h.blk q), fun q => (k.inq q).trans (h.inq q),
    fun f hf p hp => (k.fields f hf p hp).trans (h.fields f hf p hp), k.tdc.trans h.tdc⟩

/-- A change of none of the records and registers that the relation speaks of. -/
theorem camKept_of_same {r s t : State} (h : CamKept r s) (hm : t.mem = s.mem) (ht : t.time = s.time) (hr : t.regs = s.regs) (hc : t.cams = s.cams)
    (hp : t.pipes = s.pipes) : CamKept r t := by
  have hcam : ∀ q, t.cam q = s.cam q := fun q => by unfold State.cam; rw [hc]
  have hpipe : ∀ q, t.pipe q = s.pipe q := fun q => by unfold State.pipe; rw [hp]
  exact h.trans ⟨hm, ht, fun q => by rw [hcam], fun q => by rw [hpipe], fun f _ p _ => State.get_congr hr f p 0, State.get_congr hr _ _ _⟩

theorem camKept_host {r s : State} (h : CamKept r s) (x : HostLink) : CamKept r { s with host := x } := camKept_of_same h rfl rfl rfl rfl rfl
theorem camKept_i3c {r s : State} (h : CamKept r s) (x : I3c) : CamKept r { s with i3c := x } := camKept_of_same h rfl rfl rfl rfl rfl
theorem camKept_snap {r s : State} (h : CamKept r s) (x : SnapUnit) : CamKept r { s with snap := x } := camKept_of_same h rfl rfl rfl rfl rfl
theorem camKept_bobs {r s : State} (h : CamKept r s) (x : Tbl Bobbin) : CamKept r { s with bobs := x } := camKept_of_same h rfl rfl rfl rfl rfl
theorem camKept_sched {r s : State} (h : CamKept r s) (x : Sched) : CamKept r { s with sched := x } := camKept_of_same h rfl rfl rfl rfl rfl
theorem camKept_freeUse {r s : State} (h : CamKept r s) (x : Nat) : CamKept r { s with freeUse := x } := camKept_of_same h rfl rfl rfl rfl rfl
theorem camKept_tdcSeen {r s : State} (h : CamKept r s) (x : Bool) : CamKept r { s with tdcSeen := x } := camKept_of_same h rfl rfl rfl rfl rfl

theorem camKept_put {r s : State} (h : CamKept r s) (f : Fld) (v i j : Nat) (hf : CamClear f i j) : CamKept r (s.put f v i j) := by
  obtain ⟨hcam, htdc⟩ := Reg.camClear_ne hf
  refine h.trans ⟨rfl, rfl, fun _ => rfl, fun _ => rfl, fun g hg p hp => State.get_put_other _ _ _ _ _ _ _ _ ?_,
    State.get_put_other _ _ _ _ _ _ _ _ ?_⟩
  · simp only [camKeptFields, List.mem_cons, List.not_mem_nil, or_false] at hg
    rcases hg with rfl | rfl | rfl | rfl
    · exact hcam 0x3F00700048 (by decide) p hp
    · exact hcam 0x3F0070004C (by decide) p hp
    · exact hcam 0x3F00700014 (by decide) p hp
    · exact hcam 0x3F00700008 (by decide) p hp
  · exact htdc

theorem camKept_putBit {r s : State} (h : CamKept r s) (f : Fld) (b : Bool) (i j : Nat) (hf : CamClear f i j) :
    CamKept r (s.putBit f b i j) := camKept_put h f _ i j hf
theorem camKept_bumpBy {r s : State} (h : CamKept r s) (f : Fld) (n i j : Nat) (hf : CamClear f i j) :
    CamKept r (s.bumpBy f n i j) := camKept_put h f _ i j hf
theorem camKept_bump {r s : State} (h : CamKept r s) (f : Fld) (i j : Nat) (hf : CamClear f i j) :
    CamKept r (s.bump f i j) := camKept_put h f _ i j hf
theorem camKept_bumpWrap {r s : State} (h : CamKept r s) (f : Fld) (n i j : Nat) (hf : CamClear f i j) :
    CamKept r (s.bumpWrap f n i j) := camKept_put h f _ i j hf
theorem camKept_peak {r s : State} (h : CamKept r s) (f : Fld) (v i j : Nat) (hf : CamClear f i j) :
    CamKept r (s.peak f v i j) := camKept_put h f _ i j hf

theorem camKept_setCam {r s : State} (h : CamKept r s) (p : Nat) (x : CamPort) (hx : x.blk = (s.cam p).blk) :
    CamKept r (s.setCam p x) := by
  refine h.trans ⟨rfl, rfl, fun q => ?_, fun _ => rfl, fun _ _ _ _ => rfl, rfl⟩
  by_cases hq : q = p
  · subst hq; rw [State.cam_setCam]; exact hx
  · rw [State.cam_setCam_other _ _ hq]

theorem camKept_setPipe {r s : State} (h : CamKept r s) (p : Nat) (x : Pipe) (hx : x.inq = (s.pipe p).inq) :
    CamKept r (s.setPipe p x) := by
  refine h.trans ⟨rfl, rfl, fun _ => rfl, fun q => ?_, fun _ _ _ _ => rfl, rfl⟩
  by_cases hq : q = p
  · subst hq; rw [State.pipe_setPipe]; exact hx
  · rw [State.pipe_setPipe_other _ _ hq]

theorem camKept_ite {c : Prop} [Decidable c] {r s t : State} (hs : CamKept r s) (ht : CamKept r t) :
    CamKept r (if c then s else t) := by
  split
  · exact hs
  · exact ht

theorem camKept_ite_fst {α : Type} {c : Prop} [Decidable c] {r : State} {x y : State × α} (hx : CamKept r x.1)
    (hy : CamKept r y.1) : CamKept r (if c then x else y).1 := by
  split
  · exact hx
  · exact hy

theorem camKept_foldState {α : Type} {r : State} {f : State → α → State} (hf : ∀ s a, CamKept r s → CamKept r (f s a))
    {s : State} (h : CamKept r s) (l : List α) : CamKept r (foldState f s l) := foldState_keeps (P := CamKept r) hf h l

theorem camKept_timesFrom {r : State} {f : State → Nat → State} (hf : ∀ s i, CamKept r s → CamKept r (f s i))
    {s : State} (h : CamKept r s) (n i : Nat) : CamKept r (timesFrom f n i s) := timesFrom_keeps (P := CamKept r) hf h n i

end Sys2Proof.Machine
end

section
/-! The relation above, step by step: each function of the line store, of the holes, of the raw taps and of the events keeps
it (R87 to R101). -/
namespace Sys2Proof.Machine
open Sys2Proof.Claims

/-- A fold whose state component each step keeps in a property ends in it. -/
theorem foldl_fst_keeps {σ β α : Type} {P : σ → Prop} {f : σ × β → α → σ × β} (hf : ∀ a x, P a.1 → P (f a x).1)
    {a : σ × β} (ha : P a.1) (l : List α) : P (l.foldl f a).1 := by
  induction l generalizing a with
  | nil => exact ha
  | cons x l ih => exact ih (hf a x ha)

theorem camKept_setTaps {r s : State} (h : CamKept r s) (p : Nat) (x : List TapSet) :
    CamKept r (s.setCam p { s.cam p with taps := x }) := camKept_setCam h p _ rfl

theorem sysOwn_addr_lt {i : Nat} (h : i < 62) : R.SYS_OWN.addr i 0 < 0x3F00700000 := by
  have : R.SYS_OWN.addr i 0 = 0x3F00000400 + i * 4 := rfl
  omega

theorem tapRule_addr_ge (q n : Nat) : 0x3F00800040 ≤ R.PIPE_TAP_RULE.addr q n := by
  have : R.PIPE_TAP_RULE.addr q n = 0x3F00800040 + q * 0x1000 + n * 4 := rfl
  omega

theorem tapRule_addr_ne {q n : Nat} (hn : n < 0 + 4) : R.PIPE_TAP_RULE.addr q n ≠ 0x3F00E00008 := by
  have : R.PIPE_TAP_RULE.addr q n = 0x3F00800040 + q * 0x1000 + n * 4 := rfl
  omega

theorem camKept_base {g : Fld} (hg : g ∈ camKeptFields) : 0x3F00700008 ≤ g.reg.base ∧ g.reg.base ≤ 0x3F0070004C ∧
    g.reg.stride = 0x100 ∧ g.reg.stride2 = 0 := by
  revert g hg
  decide

theorem camKept_put_low {r s : State} (h : CamKept r s) (f : Fld) (v i j : Nat) (ha : f.reg.addr i j < 0x3F00700000) :
    CamKept r (s.put f v i j) := by
  refine h.trans ⟨rfl, rfl, fun _ => rfl, fun _ => rfl, fun g hg p hp => State.get_put_other _ _ _ _ _ _ _ _ ?_,
    State.get_put_other _ _ _ _ _ _ _ _ fun e => ?_⟩
  · obtain ⟨hb, hle, hs, h2⟩ := camKept_base hg
    intro e
    have : g.reg.addr p 0 = g.reg.base + p * 0x100 := by unfold Reg.addr; rw [hs, h2]; omega
    omega
  · have : F.DET_TDC_COUNT.reg.addr 0 0 = 0x3F00E00008 := rfl
    omega

theorem camKept_put_high {r s : State} (h : CamKept r s) (f : Fld) (v i j : Nat) (ha : 0x3F00800040 ≤ f.reg.addr i j)
    (hn : f.reg.addr i j ≠ 0x3F00E00008) : CamKept r (s.put f v i j) := by
  refine h.trans ⟨rfl, rfl, fun _ => rfl, fun _ => rfl, fun g hg p hp => State.get_put_other _ _ _ _ _ _ _ _ ?_,
    State.get_put_other _ _ _ _ _ _ _ _ fun e => hn e.symm⟩
  obtain ⟨hb, hle, hs, h2⟩ := camKept_base hg
  intro e
  have : g.reg.addr p 0 = g.reg.base + p * 0x100 := by unfold Reg.addr; rw [hs, h2]; omega
  omega

/-- The count of merged holes shares its register with the one of dropped lines. -/
theorem camKept_bumpMerge {r s : State} (h : CamKept r s) {p : Nat} (hp : p < 17) : CamKept r (s.bump F.CAM_DROP_CNT_HOLE_MERGE p) := by
  refine h.trans ⟨rfl, rfl, fun _ => rfl, fun _ => rfl, fun g hg q hq => ?_, State.get_put_other _ _ _ _ _ _ _ _ ?_⟩
  · simp only [camKeptFields, List.mem_cons, List.not_mem_nil, or_false] at hg
    rcases hg with rfl | rfl | rfl | rfl
    · exact State.get_put_stride _ _ _ _ (by decide) (by decide)
    · by_cases hqp : q = p
      · subst hqp
        exact State.get_put_beside (f := F.CAM_DROP_CNT_HOLE_MERGE) (g := F.CAM_DROP_CNT_FIFO_DROP) _ _ _ rfl (by decide) (by decide)
      · refine State.get_put_other _ _ _ _ _ _ _ _ fun e => hqp ?_
        have e' : (0x3F0070004C : Nat) + q * 0x100 + 0 * 0 = 0x3F0070004C + p * 0x100 + 0 * 0 := e
        omega
    · exact State.get_put_stride _ _ _ _ (by decide) (by decide)
    · exact State.get_put_stride _ _ _ _ (by decide) (by decide)
  · have : F.CAM_DROP_CNT_HOLE_MERGE.reg.addr p 0 = 0x3F0070004C + p * 0x100 + 0 * 0 := rfl
    have : F.DET_TDC_COUNT.reg.addr 0 0 = 0x3F00E00008 := rfl
    omega

theorem camKept_timeDrawn {r s : State} (h : CamKept r s) : CamKept r s.timeDrawn := by
  unfold State.timeDrawn
  exact camKept_freeUse h _

theorem camKept_requestIbi {r s : State} (h : CamKept r s) : CamKept r s.requestIbi := by
  unfold State.requestIbi
  exact camKept_ite h (camKept_ite (camKept_i3c h _) (camKept_i3c h _))

theorem camKept_raise {r s : State} (h : CamKept r s) (cause : Fld) (hf : CamClear cause 0 0) : CamKept r (s.raise
    cause) := by
  unfold State.raise
  exact camKept_ite (camKept_requestIbi (camKept_put h _ _ _ _ hf)) (camKept_put h _ _ _ _ hf)

theorem camKept_emit {r s : State} (h : CamKept r s) (chan : Nat) (packets : List (Nat × List Byte)) (bad : List
    Bool) : CamKept r (s.emit chan packets bad) := by
  unfold State.emit
  exact camKept_host h _

theorem camKept_emitWords {r s : State} (h : CamKept r s) (chan : Nat) (ws : List Word) : CamKept r (s.emitWords chan
    ws) := by
  unfold State.emitWords
  exact camKept_emit h _ _ _

theorem camKept_tapKeep {r s : State} (h : CamKept r s) (chan : Nat) (ps : List (Nat × List (Option Byte))) : CamKept
    r (s.tapKeep chan ps).1 := by
  unfold State.tapKeep
  refine camKept_ite_fst h ?_
  exact camKept_raise (camKept_bump h _ _ _ (by rfl)) _ (by rfl)

theorem camKept_sendTrace {r s : State} (h : CamKept r s) (ws : List Word) : CamKept r (s.sendTrace ws) := by
  unfold State.sendTrace
  exact camKept_ite (camKept_emitWords h _ _) (camKept_host h _)

theorem camKept_snapMerge {r s : State} (h : CamKept r s) (n src : Nat) : CamKept r (s.snapMerge n src) := by
  unfold State.snapMerge
  dsimp only
  split
  · exact camKept_bump (camKept_snap h _) _ _ _ (by rfl)
  · exact h

theorem camKept_snapTake {r s : State} (h : CamKept r s) (src : Nat) : CamKept r (s.snapTake src) := by
  unfold State.snapTake
  exact camKept_snap (camKept_bump (camKept_putBit (camKept_put (camKept_bumpWrap h _ _ _ _ (by rfl)) _ _ _ _ (by
      rfl)) _ _ _ _ (by rfl)) _ _ _ (by rfl)) _

theorem camKept_snapFire {r s : State} (h : CamKept r s) (src : Nat) : CamKept r (s.snapFire src).1 := by
  unfold State.snapFire
  dsimp only
  split
  · exact camKept_snapMerge h _ _
  · refine camKept_ite_fst ?_ ?_
    · dsimp only
      exact camKept_snapMerge h _ _
    · refine camKept_ite_fst ?_ ?_
      · dsimp only
        exact camKept_bump h _ _ _ (by rfl)
      · dsimp only
        exact camKept_snapTake h _

theorem camKept_snapIf {r s : State} (h : CamKept r s) (src : Nat) : CamKept r (s.snapIf src) := by
  unfold State.snapIf
  exact camKept_ite (camKept_snapFire h _) h

theorem camKept_traceEvent {r s : State} (h : CamKept r s) (src id : Nat) : CamKept r (s.traceEvent src id) := by
  unfold State.traceEvent
  exact camKept_ite (camKept_ite (camKept_sendTrace (camKept_snap h _) _) (camKept_bump (camKept_snap h _) _ _ _ (by
      rfl))) h

theorem camKept_event {r s : State} (h : CamKept r s) (src id : Nat) : CamKept r (s.event src id) := by
  unfold State.event
  exact camKept_snapIf (camKept_traceEvent h _ _) _

theorem camKept_poisonConsumed {r s : State} (h : CamKept r s) (id : Nat) : CamKept r (s.poisonConsumed id) := by
  unfold State.poisonConsumed
  exact camKept_event h _ _

theorem camKept_sendTap {r s : State} (h : CamKept r s) (chan : Nat) (head : Nat × List (Option Byte)) (ls : List
    (Nat × List (Option Byte))) : CamKept r (s.sendTap chan head ls) := by
  unfold State.sendTap
  exact camKept_ite (camKept_timesFrom (fun s i k => camKept_poisonConsumed (camKept_bump k _ _ _ (by rfl)) _)
      (camKept_emit h _ _ _) _ _) h

theorem camKept_setBob {r s : State} (h : CamKept r s) (id : Nat) (b : Bobbin) : CamKept r (s.setBob id b) := by
  unfold State.setBob
  exact camKept_bobs h _

theorem camKept_setPart {r s : State} (h : CamKept r s) (p : Nat) (x : Partition) : CamKept r (s.setPart p x) := by
  unfold State.setPart
  exact camKept_sched h _

theorem camKept_showPort {r s : State} (h : CamKept r s) (p : Nat) (hp : p < 17) : CamKept r (s.showPort p) := by
  unfold State.showPort
  exact camKept_put_low (camKept_putBit h _ _ _ _ (by rfl)) _ _ _ _ (sysOwn_addr_lt (by omega))

theorem camKept_showSlots {r s : State} (h : CamKept r s) (p : Nat) : CamKept r (s.showSlots p) := by
  unfold State.showSlots
  exact camKept_peak (camKept_put h _ _ _ _ (by rfl)) _ _ _ _ (by rfl)

theorem camKept_showOuts {r s : State} (h : CamKept r s) (q : Nat) : CamKept r (s.showOuts q) := by
  unfold State.showOuts
  exact camKept_peak (camKept_put h _ _ _ _ (by rfl)) _ _ _ _ (by rfl)

theorem camKept_sweep {r s : State} (h : CamKept r s) (p : Nat) (hp : p < 17) : CamKept r (s.sweep p) := by
  unfold State.sweep
  exact camKept_showPort (camKept_timesFrom (fun s _ k => camKept_showOuts k _) (camKept_showSlots (camKept_setCam h
      _ _ (by rfl)) _) _ _) _ hp

theorem camKept_mapLines {r s : State} (h : CamKept r s) (p : Nat) (f : Line → Line) (hp : p < 17) : CamKept r
    (s.mapLines p f) := by
  unfold State.mapLines
  exact camKept_sweep (camKept_setCam h _ _ (by rfl)) _ hp

theorem camKept_showReady {r s : State} (h : CamKept r s) (p : Nat) : CamKept r (s.showReady p) := by
  unfold State.showReady
  exact camKept_peak (camKept_put h _ _ _ _ (by rfl)) _ _ _ _ (by rfl)

theorem camKept_wake {r s : State} (h : CamKept r s) (id : Nat) : CamKept r (s.wake id) := by
  unfold State.wake
  exact camKept_ite (camKept_showReady (camKept_setPart (camKept_setBob h _ _) _ _) _) h

theorem camKept_closeInput {r s : State} (h : CamKept r s) (id : Nat) : CamKept r (s.closeInput id) := by
  unfold State.closeInput
  exact camKept_ite (camKept_setBob h _ _) h

theorem camKept_placeFor {r s : State} (h : CamKept r s) (p : Nat) (lo hi : Int) (id : Nat) : CamKept r (s.placeFor p
    lo hi id) := by
  unfold State.placeFor
  exact camKept_closeInput (camKept_wake (camKept_setBob h _ _) _) _

theorem camKept_place {r s : State} (h : CamKept r s) (p : Nat) (lo hi : Int) : CamKept r (s.place p lo hi) := by
  unfold State.place
  exact camKept_foldState (fun _ a k => camKept_placeFor k _ _ _ _) h _

theorem camKept_markHole {r s : State} (h : CamKept r s) (p id : Nat) : CamKept r (s.markHole p id) := by
  unfold State.markHole
  exact camKept_ite h (camKept_setBob h _ _)

theorem camKept_addHole {r s : State} (h : CamKept r s) (p : Nat) (lo hi : Int) (hp : p < 17) : CamKept r (s.addHole
    p lo hi) := by
  unfold State.addHole
  dsimp only
  refine camKept_ite h (camKept_place (camKept_foldState (fun _ a k => camKept_markHole k _ _) ?_ _) _ _ _)
  have hput : ∀ (x : CamPort) (n : Nat), x.blk = (s.cam p).blk → CamKept r ((s.setCam p x).put F.CAM_HOLES_ENTRIES n
      p) :=
    fun x n hx => camKept_put (camKept_setCam h p x hx) _ _ _ _ (by rfl)
  have hgap : ∀ (hs : List (Int × Int)) (x y : Int), ({ s.cam p with holes := hs }.noteGap x y).blk = (s.cam p).blk :=
    fun _ _ _ => rfl
  exact camKept_ite (camKept_bumpMerge (hput _ _ (hgap _ _ _)) hp) (hput _ _ (hgap _ _ _))

theorem camKept_tapCount {r s : State} (h : CamKept r s) (e : TapSet) : CamKept r (s.tapCount e).1 := by
  unfold State.tapCount
  exact camKept_setPipe h _ _ (by rfl)

theorem camKept_tapBobLine {r s : State} (h : CamKept r s) (q n p time : Nat) (pos : Int) (ps : List (Nat × List
    (Option Byte))) : CamKept r (s.tapBobLine q n p time pos ps) := by
  unfold State.tapBobLine
  dsimp only
  refine camKept_setPipe ?_ _ _ (by rfl)
  refine foldl_fst_keeps (P := CamKept r) (fun a w k => ?_) h _
  exact camKept_ite_fst (camKept_tapKeep k _ _) k

theorem camKept_sendTapBob {r s : State} (h : CamKept r s) (w : TapWork) : CamKept r (s.sendTapBob w) := by
  unfold State.sendTapBob
  split
  · exact camKept_sendTap h _ _ _
  · exact camKept_sendTap (camKept_timeDrawn h) _ _ _

theorem camKept_tapBobEnd {r s : State} (h : CamKept r s) (q p : Nat) (upTo : Int) : CamKept r (s.tapBobEnd q p upTo)
    := by
  unfold State.tapBobEnd
  exact camKept_foldState (fun s a k => camKept_sendTapBob k _) (camKept_setPipe h _ _ (by rfl)) _

theorem camKept_tapBlock {r s : State} (h : CamKept r s) (l : List TapSet) : CamKept r (s.tapBlock l).1 := by
  induction l with
  | nil => exact h
  | cons e l ih =>
    unfold State.tapBlock
    dsimp only
    split
    · exact camKept_tapCount ih e
    · exact ih

theorem camKept_releaseTaps {r s : State} (h : CamKept r s) (p : Nat) (hp : p < 17) : CamKept r (s.releaseTaps p) :=
    by
  unfold State.releaseTaps
  exact camKept_mapLines h _ _ hp

theorem camKept_tapsTake {r s : State} (h : CamKept r s) (p : Nat) (hp : p < 17) : CamKept r (s.tapsTake p) := by
  unfold State.tapsTake
  dsimp only
  refine camKept_releaseTaps (camKept_setTaps ?_ p _) p hp
  refine timesFrom_keeps_below (P := CamKept r) (fun u q _ hu => ?_) h
  refine timesFrom_keeps_below (P := CamKept r) (fun v n hn hv => ?_) hu
  split
  · exact camKept_ite (camKept_put_high (camKept_setPipe hv _ _ (by rfl)) _ _ _ _ (tapRule_addr_ge q n)
        (tapRule_addr_ne hn)) hv
  · exact hv

theorem camKept_endRawTaps {r s : State} (h : CamKept r s) (b : Block) : CamKept r (s.endRawTaps b) := by
  unfold State.endRawTaps
  exact camKept_foldState (fun s a k => camKept_sendTap (camKept_setPipe k _ _ (by rfl)) _ _ _) h _

theorem camKept_endStanding {r s : State} (h : CamKept r s) (p : Nat) (base : Int) : CamKept r (s.endStanding p base)
    := by
  unfold State.endStanding
  dsimp only
  split
  · exact h
  · exact camKept_foldState (fun _ a k => camKept_placeFor (camKept_markHole k _ _) _ _ _ _) (camKept_setCam h _ _
        (by rfl)) _

theorem camKept_countLength {r s : State} (h : CamKept r s) (p n len : Nat) : CamKept r (s.countLength p n len) := by
  unfold State.countLength
  exact camKept_ite (camKept_bump h _ _ _ (by rfl)) (camKept_ite (camKept_bump h _ _ _ (by rfl)) h)

theorem camKept_rawTaps {r s : State} (h : CamKept r s) (b : Block) (d : List Byte) : CamKept r (s.rawTaps b d) := by
  unfold State.rawTaps
  exact camKept_foldState (fun s a k => camKept_setPipe (camKept_tapKeep k _ _) _ _ (by rfl)) (camKept_foldState (fun
      _ a k => camKept_tapBobLine k _ _ _ _ _ _) h _) _

end Sys2Proof.Machine
end

section
/-! Frame Start, Frame End, the placement of blocks and the holes (R87 to R92). -/
namespace Sys2Proof.Machine
open Sys2Proof.Claims

/-- What the physical layer counts of a packet (R93): the time it was seen, and the counts of frames and packets. -/
structure CamSeen (s t : State) : Prop where
  only : t = { s with regs := t.regs, cams := t.cams }
  regs : ∀ a, (a < 0x3F00700000 ∨ 0x3F00701100 ≤ a ∨ a % 0x100 ∉ [0x38, 0x40]) → tget? t.regs a = tget? s.regs a
  cam : ∀ q, ∃ x, t.cam q = { s.cam q with seenAt := x }

namespace CamSeen
variable {r s t : State}

theorem refl (s : State) : CamSeen s s := ⟨rfl, fun _ _ => rfl, fun q => ⟨(s.cam q).seenAt, rfl⟩⟩

theorem trans (h : CamSeen r s) (k : CamSeen s t) : CamSeen r t :=
  ⟨k.only.trans (by rw [h.only]), fun a ha => (k.regs a ha).trans (h.regs a ha), fun q => by
    obtain ⟨x, hx⟩ := h.cam q
    obtain ⟨y, hy⟩ := k.cam q
    exact ⟨y, hy.trans (by rw [hx])⟩⟩

theorem phySeen (s : State) (p : Nat) : CamSeen s (s.phySeen p) := by
  refine ⟨rfl, fun _ _ => rfl, fun q => ?_⟩
  by_cases h : q = p
  · subst h; exact ⟨_, State.cam_setCam _ _ _⟩
  · exact ⟨_, State.cam_setCam_other _ _ h⟩

theorem put (s : State) (f : Fld) (v : Nat) {p : Nat} (hp : p < 17)
    (hf : 0x3F00700000 ≤ f.reg.base ∧ f.reg.base < 0x3F00700100 ∧ f.reg.stride = 0x100 ∧ f.reg.base % 0x100 ∈ [0x38, 0x40]) :
    CamSeen s (s.put f v p) := by
  refine ⟨rfl, fun a ha => tget?_setReg _ _ _ _ _ _ fun e => ?_, fun q => ⟨_, rfl⟩⟩
  obtain ⟨hb, hlt, hs, hm⟩ := hf
  have e' : a = f.reg.base + p * 0x100 := by rw [e, Reg.addr, hs]; omega
  rcases ha with h | h | h
  · omega
  · omega
  · rw [e', Nat.add_mul_mod_self_right] at h; exact h hm

theorem reg_same (h : CamSeen s t) {g : Reg} {i j : Nat}
    (hg : 0x3F00701100 ≤ g.addr i j ∨ g.addr i j % 0x100 ∉ [0x38, 0x40]) : t.reg g i j = s.reg g i j := by
  rw [State.reg, State.reg, h.regs _ (.inr hg)]

theorem reg_out (h : CamSeen s t) (g : Reg) (i j : Nat) (hg : 0x3F00701100 ≤ g.base) : t.reg g i j = s.reg g i j :=
  h.reg_same (.inl (by unfold Reg.addr; omega))

theorem get_out (h : CamSeen s t) (g : Fld) (i j : Nat) (hg : 0x3F00701100 ≤ g.reg.base) : t.get g i j = s.get g i j := by
  rw [State.get, h.reg_out _ _ _ hg, State.get]

theorem get_port (h : CamSeen s t) (g : Fld) (p : Nat) (hs : g.reg.stride = 0x100) (hg : g.reg.base % 0x100 ∉ [0x38, 0x40]) :
    t.get g p = s.get g p := by
  rw [State.get, State.get, h.reg_same (.inr ?_)]
  rwa [Reg.addr, hs, Nat.zero_mul, Nat.add_zero, Nat.add_mul_mod_self_right]

theorem on_port (h : CamSeen s t) (g : Fld) (p : Nat) (hs : g.reg.stride = 0x100) (hg : g.reg.base % 0x100 ∉ [0x38, 0x40]) :
    t.on g p = s.on g p := by rw [State.on, h.get_port g p hs hg, State.on]

theorem mem (h : CamSeen s t) : t.mem = s.mem := by rw [h.only]

theorem blk (h : CamSeen s t) (p : Nat) : (t.cam p).blk = (s.cam p).blk := by
  obtain ⟨x, hx⟩ := h.cam p; rw [hx]

theorem onStream (h : CamSeen s t) (p vc : Nat) : t.onStream p vc = s.onStream p vc := by
  obtain ⟨x, hx⟩ := h.cam p
  rw [State.onStream, State.onStream, hx, h.get_port _ _ rfl (by decide)]

theorem named (h : CamSeen s t) (p : Nat) : t.named p = s.named p := by
  simp only [State.named, State.servedBy, State.tapsOf, State.rulesOf, State.on,
    h.get_out F.PIPE_CTRL_INLINE _ _ (by decide), h.get_out F.PIPE_CTRL_TM_MASK _ _ (by decide),
    h.get_out F.PIPE_TAP_MODE _ _ (by decide), h.get_out F.PIPE_TAP_VC _ _ (by decide),
    h.get_out F.BOB_RULE_CTRL_EN _ _ (by decide), h.get_out F.BOB_RULE_CTRL_PORTS _ _ (by decide)]

theorem storing (h : CamSeen s t) (p : Nat) : t.storing p = s.storing p := by
  obtain ⟨x, hx⟩ := h.cam p
  rw [State.storing, State.storing, h.named, hx]

theorem count (h : CamSeen s t) (c : Nat) : t.count? c = s.count? c := by
  have hfield : t.field = s.field := by rw [h.only]
  simp only [State.count?, State.mirrorOf, State.on, h.get_out F.FIELD_LINK_STAT_COUNT_VALID _ _ (by decide), hfield]
  rfl

end CamSeen

theorem State.shortPacket_seen (s : State) (p : Fin 17) (cor : Bool) : CamSeen s (s.shortPacket p.val cor) := by
  unfold State.shortPacket
  split
  · exact (CamSeen.phySeen _ _).trans (CamSeen.put _ _ _ p.isLt (by decide))
  · exact CamSeen.phySeen _ _

/-- Where no event of an in-line pipe waits, a Frame Start is taken at once. -/
theorem State.inlinePush_start {s : State} {q : Nat} (h : (s.pipe q).inq = []) (b : Block) :
    s.inlinePush q (.start b) = { s with pipes := (s.inlinePush q (.start b)).pipes } := by
  unfold State.inlinePush
  dsimp only
  rw [h, show ([] : List InEvent).length + 1 = 1 from rfl, State.inlineMarks, State.pipe_setPipe]
  rfl

/-- The pipe that serves a block's port is told of its Frame Start, if it takes the block in line. -/
def State.tellPipe (s : State) (pc : Option PipeCfg) (b : Block) : State :=
  match pc with
  | some c => if c.through then s else s.inlinePush c.q (.start b)
  | none => s

theorem State.tellPipe_only {s : State} (h : ∀ q, (s.pipe q).inq = []) (pc : Option PipeCfg) (b : Block) :
    ∃ x, s.tellPipe pc b = { s with pipes := x } := by
  cases pc with
  | none => exact ⟨s.pipes, rfl⟩
  | some c =>
    unfold State.tellPipe
    dsimp only
    split
    · exact ⟨s.pipes, rfl⟩
    · exact ⟨_, State.inlinePush_start (h _) b⟩

theorem State.placeBlock_free {s : State} {p : Nat} {raw : Int} (h : (s.cam p).first = true) :
    s.placeBlock p raw = (s, raw, false, none) := by
  unfold State.placeBlock
  dsimp only
  rw [if_pos (by rw [h]; rfl)]

theorem State.endStanding_none {s : State} {p : Nat} (h : (s.cam p).standing = none) (base : Int) : s.endStanding p base = s := by
  unfold State.endStanding
  dsimp only
  rw [h]

/-- A port's record and the registers that show its block, as a Frame Start leaves them. -/
def State.showOpened (s : State) (p : Nat) (x : CamPort) (base : Int) : State :=
  ((s.setCam p x).putBit F.CAM_CTRL_ARMED false p).putCount F.CAM_BASE_LO_BASE F.CAM_BASE_HI_BASE base p

theorem State.showOpened_cam (s : State) (p : Nat) (x : CamPort) (base : Int) : (s.showOpened p x base).cam p = x :=
  State.cam_setCam _ _ _

theorem State.showOpened_armed (s : State) (p : Nat) (x : CamPort) (base : Int) :
    (s.showOpened p x base).on F.CAM_CTRL_ARMED p = false := by
  unfold State.showOpened State.putCount State.on
  rw [State.get_put_stride _ _ _ _ (by decide) (by decide), State.get_put_stride _ _ _ _ (by decide) (by decide)]
  exact State.on_putBit _ _ _ _ _ (by decide) (by decide)

theorem State.showOpened_mem (s : State) (p : Nat) (x : CamPort) (base : Int) : (s.showOpened p x base).mem = s.mem := rfl

theorem State.showOpened_pipe (s : State) (p : Nat) (x : CamPort) (base : Int) (q : Nat) :
    (s.showOpened p x base).pipe q = s.pipe q := rfl

/-- An opened block shows, ARMED is clear, and no byte of memory has changed. -/
theorem State.showOpened_told {u : State} (hinq : ∀ q, (u.pipe q).inq = []) (p : Nat) {x : CamPort} {b : Block}
    (hx : x.blk = some b) (base : Int) (pc : Option PipeCfg) :
    (((u.showOpened p x base).tellPipe pc b).cam p).blk = some b ∧
    ((u.showOpened p x base).tellPipe pc b).on F.CAM_CTRL_ARMED p = false ∧
    ((u.showOpened p x base).tellPipe pc b).mem = u.mem := by
  have hcam := u.showOpened_cam p x base
  have harm := u.showOpened_armed p x base
  have hmem := u.showOpened_mem p x base
  have hpipe : ∀ q, ((u.showOpened p x base).pipe q).inq = [] := fun q => (congrArg Pipe.inq (u.showOpened_pipe p x base q)).trans (hinq q)
  generalize u.showOpened p x base = v at hcam harm hmem hpipe ⊢
  obtain ⟨y, hy⟩ := State.tellPipe_only hpipe pc b
  have hcams : (v.tellPipe pc b).cams = v.cams := by rw [hy]
  have hregs : (v.tellPipe pc b).regs = v.regs := by rw [hy]
  refine ⟨?_, (State.on_congr hregs _ _ _).trans harm, ?_⟩
  · rw [State.cam, hcams]
    exact (congrArg CamPort.blk hcam).trans hx
  · rw [hy]; exact hmem

/-- The block that a Frame Start opens, placed as `r` says, and what it starts (R88). -/
def State.startBlock (s : State) (p : Nat) (base : Int) (snapped : Bool) (behind : Option Int) : State :=
  let tb := s.tapBlock (s.cam p).taps
  let b : Block := { port := p, base := base, pitch := s.camPitch p, len := s.blockLines p, time := s.time.now,
                     snapped := snapped, taps := tb.2, pipe := (s.servedBy p).map fun q => s.pipeCfg q p }
  let x : CamPort := { tb.1.cam p with
    first := false, orphans := false, blk := some b, prev := some (b.base, b.pitch, b.len), behind := behind }
  (tb.1.showOpened p x b.base).tellPipe b.pipe b

theorem State.openBlock_eq (s : State) (p : Nat) (k : Int) : s.openBlock p k =
    let r := s.placeBlock p (wrap48 (k + signed 32 (s.get F.CAM_CNT_OFFSET_OFFSET p)))
    ((r.1.endStanding p r.2.1).tapsTake p).startBlock p r.2.1 r.2.2.1 r.2.2.2 := rfl

/-- What a Frame Start shows of the block that it opens. -/
theorem State.startBlock_view {s t : State} {p : Nat} (ht : CamKept s t) (hp : p < 17) (hinq : ∀ q, (s.pipe q).inq = [])
    (base : Int) (snapped : Bool) (behind : Option Int) :
    ∃ b, ((t.startBlock p base snapped behind).cam p).blk = some b ∧ b.base = base ∧ b.pitch = s.camPitch p ∧
      b.len = s.get F.CAM_BLOCK_LINES_BLOCK_LINES p ∧ b.count = 0 ∧ b.time = s.time.now ∧
      (t.startBlock p base snapped behind).on F.CAM_CTRL_ARMED p = false ∧ (t.startBlock p base snapped behind).mem = s.mem := by
  have hu : CamKept s (t.tapBlock (t.cam p).taps).1 := camKept_tapBlock ht _
  have hpitch : t.camPitch p = s.camPitch p := by
    rw [State.camPitch, ht.fields F.CAM_PITCH_PITCH (by simp [camKeptFields]) p hp, State.camPitch]
  have hlen : t.blockLines p = s.get F.CAM_BLOCK_LINES_BLOCK_LINES p :=
    ht.fields F.CAM_BLOCK_LINES_BLOCK_LINES (by simp [camKeptFields]) p hp
  unfold State.startBlock
  dsimp only
  generalize (t.tapBlock (t.cam p).taps) = tb at hu
  generalize hb : Block.mk p _ _ _ _ _ _ _ _ _ _ _ _ = b
  have htold := fun x hx => State.showOpened_told (u := tb.1) (fun q => (hu.inq q).trans (hinq q)) p (x := x) (b := b) hx
  refine ⟨b, (htold _ ?_ _ _).1, ?_, ?_, ?_, ?_, ?_, (htold _ ?_ _ _).2.1, (htold _ ?_ _ _).2.2.trans hu.mem⟩
  · rfl
  · rw [← hb]
  · rw [← hb]; exact hpitch
  · rw [← hb]; exact hlen
  · rw [← hb]
  · rw [← hb]; exact congrArg (fun x => x.now) ht.time
  · rfl
  · rfl

/-- The first Frame Start that is stored opens a block at the count that it came at (R88). -/
theorem State.openBlock_first {s : State} {p : Nat} (k : Int) (hfirst : (s.cam p).first = true)
    (hstand : (s.cam p).standing = none) : s.openBlock p k =
      (s.tapsTake p).startBlock p (wrap48 (k + signed 32 (s.get F.CAM_CNT_OFFSET_OFFSET p))) false none := by
  rw [State.openBlock_eq, State.placeBlock_free hfirst]
  dsimp only
  rw [State.endStanding_none hstand]

theorem State.setBlk_get (s : State) (p : Nat) (x : Option Block) (g : Fld) (i : Nat) : (s.setBlk p x).get g i = s.get g i := rfl

theorem State.setBlk_blk (s : State) (p : Nat) (x : Option Block) : ((s.setBlk p x).cam p).blk = x :=
  congrArg CamPort.blk (State.cam_setCam _ _ _)

/-- The end of a block that no pipe takes: the block has gone, and no byte of memory has changed. -/
theorem State.closeBlock_plain {s : State} {b : Block} {p : Nat} (hp : p < 17) (hport : b.port = p) (hpipe : b.pipe = none) :
    ((s.closeBlock b).cam p).blk = none ∧ (s.closeBlock b).mem = s.mem ∧
    (b.count < b.len → (s.closeBlock b).get F.CAM_BLOCK_CNT_BLOCK_SHORT p = min (s.get F.CAM_BLOCK_CNT_BLOCK_SHORT p + 1) 255) ∧
    (b.len ≤ b.count → (s.closeBlock b).get F.CAM_BLOCK_CNT_BLOCK_SHORT p = s.get F.CAM_BLOCK_CNT_BLOCK_SHORT p) := by
  have hend : ∀ t : State, CamKept (t.setBlk p none)
      (foldState (fun w q => if b.pipe.isNone then w.tapBobEnd q p b.last else w) ((t.setBlk p none).endRawTaps b) (List.range 4)) :=
    fun t => camKept_foldState (fun _ a k => camKept_ite (camKept_tapBobEnd k a p b.last) k) (camKept_endRawTaps (camKept_refl _) b) _
  have hclose : s.closeBlock b = foldState (fun w q => if b.pipe.isNone then w.tapBobEnd q p b.last else w)
      (((if b.count < b.len then (s.bump F.CAM_BLOCK_CNT_BLOCK_SHORT p).addHole p (b.pos b.count) b.last else s).setBlk p none).endRawTaps b)
      (List.range 4) := by
    unfold State.closeBlock
    simp only [hpipe, hport, decide_eq_true_eq]
  rw [hclose]
  have hshort : CamKept (s.bump F.CAM_BLOCK_CNT_BLOCK_SHORT p)
      ((s.bump F.CAM_BLOCK_CNT_BLOCK_SHORT p).addHole p (b.pos b.count) b.last) := camKept_addHole (camKept_refl _) p _ _ hp
  have hget := fun t => (hend t).fields F.CAM_BLOCK_CNT_BLOCK_SHORT (by simp [camKeptFields]) p hp
  refine ⟨((hend _).blk p).trans (State.setBlk_blk _ _ _), (hend _).mem.trans ?_, fun hlt => ?_, fun hle => ?_⟩
  · split
    · exact hshort.mem
    · rfl
  · rw [hget, if_pos hlt, State.setBlk_get, hshort.fields F.CAM_BLOCK_CNT_BLOCK_SHORT (by simp [camKeptFields]) p hp]
    exact State.get_bumpBy _ _ _ _ _ (by decide)
  · rw [hget, if_neg (by omega), State.setBlk_get]

/-- Settles O22: the first Frame Start through what the line store leaves of a block's port, the others branch by branch. -/
theorem cameraBlocks : Obligations.CameraBlocks := by
  unfold Obligations.CameraBlocks
  refine ⟨?packet, ?disabled, ?other, ?noBlock, ?first, ?place, ?frameEnd, ?holes⟩
  case packet =>
    intro s p cor
    unfold State.shortPacket
    simp only [Bool.and_eq_true, bne_iff_ne]
  case disabled =>
    intro s p vc cor hl hon hen
    have hseen := s.shortPacket_seen p cor
    refine goes_onDevice hl (by unfold exec; rfl) ?_
    dsimp only
    have hframe : CamSeen (s.shortPacket p cor) ((s.shortPacket p.val cor).bumpWrap F.CAM_FRAMES_FRAMES 1 p.val) :=
      CamSeen.put _ _ _ p.isLt (by decide)
    have hoff : ((s.shortPacket p.val cor).bumpWrap F.CAM_FRAMES_FRAMES 1 p.val).on F.CAM_CTRL_EN p.val = false := by
      rw [(hseen.trans hframe).on_port _ _ rfl (by decide)]; exact hen
    rw [if_neg (by rw [hseen.onStream, hon]; decide), if_pos (by rw [hoff]; rfl)]
  case other =>
    intro s p vc cor hl hoff
    have hseen := s.shortPacket_seen p cor
    constructor <;>
    · refine goes_onDevice hl (by unfold exec; rfl) ?_
      exact if_pos (by rw [hseen.onStream, hoff]; rfl)
  case noBlock =>
    intro s p vc cor hl hon hblk
    have hseen := s.shortPacket_seen p cor
    refine goes_onDevice hl (by unfold exec; rfl) ?_
    dsimp only
    rw [if_neg (by rw [hseen.onStream, hon]; decide), hseen.blk, hblk]
  case first =>
    intro s p vc cor k hl hon hen hst hblk hfirst hstand hinq hk
    have hshort := s.shortPacket_seen p cor
    have hframe : CamSeen (s.shortPacket p cor) ((s.shortPacket p.val cor).bumpWrap F.CAM_FRAMES_FRAMES 1 p.val) :=
      CamSeen.put _ _ _ p.isLt (by decide)
    have hseen := hshort.trans hframe
    obtain ⟨x, hx⟩ := hseen.cam p.val
    have hpipe : ∀ q, (((s.shortPacket p.val cor).bumpWrap F.CAM_FRAMES_FRAMES 1 p.val).pipe q).inq = [] := by
      intro q; rw [hseen.only]; exact hinq q
    have hopen := State.openBlock_first (p := p.val) k (by rw [hx]; exact hfirst) (by rw [hx]; exact hstand)
    obtain ⟨b, hb, hbase, hpitch, hlen, hcount, htime, harm, hmem⟩ := State.startBlock_view (camKept_tapsTake (camKept_refl _) p.val p.isLt)
      p.isLt hpipe (wrap48 (k + signed 32 (State.get _ F.CAM_CNT_OFFSET_OFFSET p.val))) false none
    rw [← hopen] at hb harm hmem
    refine ⟨_, b, goes_onDevice hl (by unfold exec; rfl) ?_, hb, ?_, ?_, ?_, hcount, ?_, harm, hmem.trans hseen.mem⟩
    · dsimp only
      rw [if_neg (by rw [hshort.onStream, hon]; decide), if_neg (by rw [hseen.on_port _ _ rfl (by decide), hen]; decide),
        if_neg (by rw [hseen.storing, hst]; decide), hseen.blk, hblk]
      dsimp only
      rw [hseen.count, hseen.get_port _ _ rfl (by decide), hk]
    · rw [hbase, hseen.get_port _ _ rfl (by decide)]
    · rw [hpitch, State.camPitch, hseen.get_port _ _ rfl (by decide), State.camPitch]
    · rw [hlen, hseen.get_port _ _ rfl (by decide)]
    · rw [htime, hseen.only]
  case place =>
    intro s p raw base pitch n hfirst hstand hprev tol htol
    have hplace : s.placeBlock p raw =
        if base + n * pitch / 65536 - tol ≤ raw ∧ raw ≤ base + n * pitch / 65536 + tol then
          (s, base + n * pitch / 65536, true, none)
        else if base + n * pitch / 65536 + tol < raw then
          ((s.bump F.CAM_BLOCK_CNT_GAP p).addHole p (base + n * pitch / 65536) (raw - 1), raw, false, none)
        else (s, raw, false, some (base + n * pitch / 65536)) := by
      unfold State.placeBlock
      dsimp only
      rw [if_neg (by rw [hfirst, hstand]; decide), hprev, htol]
    rw [hplace]
    refine ⟨fun h1 h2 => if_pos ⟨h1, h2⟩, fun h => (if_neg (by omega)).trans (if_pos h), fun h => (if_neg (by omega)).trans (if_neg ?_)⟩
    have : (0 : Int) ≤ tol := by rw [htol]; exact Int.natCast_nonneg _
    omega
  case frameEnd =>
    intro s p vc cor b hl hon hblk hst hport hpipe
    have hseen := s.shortPacket_seen p cor
    have hsh : (s.shortPacket p.val cor).get F.CAM_BLOCK_CNT_BLOCK_SHORT p.val = s.get F.CAM_BLOCK_CNT_BLOCK_SHORT p.val :=
      hseen.get_port _ _ rfl (by decide)
    obtain ⟨hnone, hmem, hlt, hle⟩ := State.closeBlock_plain (s := s.shortPacket p.val cor) p.isLt hport hpipe
    rw [hsh] at hlt hle
    refine ⟨_, goes_onDevice hl (by unfold exec; rfl) ?_, hnone, hmem.trans hseen.mem, hlt, hle⟩
    dsimp only
    rw [if_neg (by rw [hseen.onStream, hon]; decide), hseen.blk, hblk]
    exact if_pos (by rw [hseen.storing]; exact hst)
  case holes =>
    intro s p f hl hf
    refine ⟨_, goes_onDevice hl (by unfold exec; rfl) (by rw [hf]), rfl, ?_, ?_⟩
    · intro a ha
      exact tget?_setReg _ _ _ _ _ _ (fun e => ha (by rw [e]; exact List.mem_singleton.mpr rfl))
    · exact congrArg CamPort.holes (State.cam_setCam _ _ _)

end Sys2Proof.Machine
end

section
/-! Lines of a camera port: where they go, and what they leave (R83 to R96). -/
namespace Sys2Proof.Machine
open Sys2Proof.Claims

/-! ### The bytes of a line -/

theorem length_lineData (addr : Nat) (d : List Byte) (lost : List Nat) :
    (lineData addr d lost).length = d.length + (roundUp d.length (granSize addr) - d.length) := by
  simp [lineData, padded]

theorem getElem?_lineData {addr i : Nat} {d : List Byte} {lost : List Nat} (hi : i < d.length) :
    (lineData addr d lost)[i]? = some (if i / 8 ∈ lost then none else d[i]?) := by
  simp [lineData, padded, goodData, List.getElem?_append_left, hi]

theorem length_fitLine (fill len : Nat) (d : List Byte) : (fitLine fill len d).length = len := by
  simp [fitLine]; omega

theorem getElem?_fitLine {fill len i : Nat} {d : List Byte} (hi : i < len) :
    (fitLine fill len d)[i]? = if i < d.length then d[i]? else some (fillByte fill i) := by
  unfold fitLine
  by_cases h : i < d.length
  · rw [if_pos h, List.getElem?_append_left (by simp; omega), List.getElem?_take, if_pos hi]
  · have hlen : (d.take len).length = d.length := by simp; omega
    rw [if_neg h, List.getElem?_append_right (by omega), hlen, List.getElem?_map, List.getElem?_range (by omega)]
    simp [show d.length + (i - d.length) = i by omega]

theorem le_roundUp (a m : Nat) (hm : 0 < m) : a ≤ roundUp a m := by
  have h1 := Nat.div_add_mod (a + m - 1) m
  have h2 := Nat.mod_lt (a + m - 1) hm
  have h3 : roundUp a m = m * ((a + m - 1) / m) := Nat.mul_comm _ _
  omega

/-! ### What a write of memory depends on, and which bytes it leaves -/

theorem State.corrected_mem (s : State) (rd : Reader) (g dev : Nat) : (s.corrected rd g dev).mem = s.mem.mend g := by
  unfold State.corrected State.loomCorrection
  dsimp only
  split
  · rfl
  · split <;> rfl
  · rfl

theorem State.uncorrectable_mem (s : State) (rd : Reader) (g : Nat) : (s.uncorrectable rd g).mem = s.mem.markBad g := by
  unfold State.uncorrectable; dsimp only; split <;> rfl

section
variable {s t : State} (hm : t.mem = s.mem)
include hm

theorem State.found_mem_congr (rd : Reader) (g : Nat) : (t.found rd g).mem = (s.found rd g).mem := by
  unfold State.found
  dsimp only
  rw [hm]
  split
  · split
    · rw [State.corrected_mem, State.corrected_mem, hm]
    · rw [State.uncorrectable_mem, State.uncorrectable_mem, hm]
    · exact hm
  · split
    · split
      · rw [State.uncorrectable_mem, State.uncorrectable_mem, hm]
      · exact hm
    · split
      · rw [State.uncorrectable_mem, State.uncorrectable_mem, hm]
      · exact hm

theorem State.meet_mem_congr (g : Nat) : (t.meet g).mem = (s.meet g).mem := by
  by_cases hg : 0x2000000000 ≤ g ∧ g < 0x2018000000
  · have hc : ∀ u : State, u.region g = .cache := fun u => (if_neg (by omega)).trans (if_pos hg.2)
    unfold State.meet
    rw [hc, hc]
    dsimp only
    rw [hm]
    split
    · exact hm
    · rfl
  · have hmem : ∀ u : State, (u.meet g).mem = u.mem := by
      intro u
      have hc : u.region g ≠ .cache := by unfold State.region; split_ifs <;> simp_all
      unfold State.meet
      split
      · contradiction
      · rfl
    rw [hmem, hmem, hm]

theorem State.touch_mem_congr (rd : Reader) (g : Nat) : (t.touch rd g).mem = (s.touch rd g).mem :=
  State.meet_mem_congr (State.found_mem_congr hm rd g) g

theorem State.writeShare_mem_congr (a : Nat) (d : Data) : (t.writeShare a d).mem = (s.writeShare a d).mem := by
  unfold State.writeShare
  dsimp only
  rw [hm, State.touch_mem_congr hm]
  split <;> rfl

theorem State.writeFuel_mem_congr (fuel a : Nat) (d : Data) : (t.writeFuel fuel a d).mem = (s.writeFuel fuel a d).mem := by
  induction fuel generalizing s t a d with
  | zero => exact hm
  | succ n ih =>
    cases d with
    | nil => exact hm
    | cons x d => exact ih (State.writeShare_mem_congr hm a _) _ _

/-- What a write does to the memories depends on them and on how far the wipe has come. -/
theorem State.writeData_mem_congr (hw : ∀ a, t.wiped a = s.wiped a) (a : Nat) (d : Data) :
    (t.writeData a d).mem = (s.writeData a d).mem := by
  unfold State.writeData State.mustWait
  rw [hm, hw]
  split
  · rfl
  · exact State.writeFuel_mem_congr hm _ a d

end

theorem State.writeShare_byte_other (s : State) {a x : Nat} (d : Data) (hx : x < a ∨ a + d.length ≤ x) :
    (s.writeShare a d).mem.byte x = s.mem.byte x := by
  have hlen : (dataBytes d).length = d.length := by simp [dataBytes]
  unfold State.writeShare
  dsimp only
  split
  · split
    · rw [Memory.byte_markGood, Memory.byte_setBytes_other _ _ (by omega)]
    · rw [Memory.byte_markBad, Memory.byte_setBytes_other _ _ (by omega)]
  · split
    · rw [Memory.byte_setBytes_other _ _ (by omega), (s.touch_worse _ _).1]
    · rw [Memory.byte_markBad, Memory.byte_setBytes_other _ _ (by omega), (s.touch_worse _ _).1]

theorem State.writeFuel_byte_other (s : State) (fuel : Nat) {a x : Nat} (d : Data) (hx : x < a ∨ a + d.length ≤ x) :
    (s.writeFuel fuel a d).mem.byte x = s.mem.byte x := by
  induction fuel generalizing s a d with
  | zero => rfl
  | succ n ih =>
    cases d with
    | nil => rfl
    | cons b d =>
      generalize hd : b :: d = l at hx
      have hstep : s.writeFuel (n + 1) a (b :: d) =
          (s.writeShare a ((b :: d).take (granBase a + granSize a - a))).writeFuel n (a + (granBase a + granSize a - a))
            ((b :: d).drop (granBase a + granSize a - a)) := rfl
      rw [hd] at hstep
      rw [hstep, ih _ _ (by rw [List.length_drop]; omega), s.writeShare_byte_other _ (by rw [List.length_take]; omega)]

/-- A write leaves every byte outside its range. -/
theorem State.writeData_byte_other (s : State) {a x : Nat} (d : Data) (hx : x < a ∨ a + d.length ≤ x) :
    (s.writeData a d).mem.byte x = s.mem.byte x := by
  unfold State.writeData
  split
  · rfl
  · exact s.writeFuel_byte_other _ d hx

/-! ### Lines of an open block -/

theorem CamSeen.streamPacket {s t : State} (h : CamSeen s t) (p : Nat) (pk : CamPacket) : t.streamPacket p pk = s.streamPacket p pk := by
  obtain ⟨x, hx⟩ := h.cam p
  rw [State.streamPacket, State.streamPacket, hx, h.get_port _ _ rfl (by decide), h.get_port _ _ rfl (by decide)]

theorem CamSeen.wiped {s t : State} (h : CamSeen s t) (a : Nat) : t.wiped a = s.wiped a := by
  simp only [State.wiped, State.on, h.get_out F.MEM_WIPE_MARK_MARK _ _ (by decide), h.get_out F.MEM_WIPE_STAT_DDR_DONE _ _ (by decide),
    h.get_out F.MEM_WIPE_STAT_SRAM_DONE _ _ (by decide)]

theorem CamSeen.lineSlot {s t : State} (h : CamSeen s t) (p : Nat) : t.lineSlot p = s.lineSlot p := by
  obtain ⟨x, hx⟩ := h.cam p
  unfold State.lineSlot State.slotSize
  simp only [hx, h.get_port F.CAM_LINE_WORDS_LINE_WORDS p rfl (by decide), h.wiped]

/-- What is counted of a packet that has a header (R83, R93). -/
def State.countPacket (s : State) (p : Nat) (pk : CamPacket) : State :=
  let t := s.phySeen p
  let u := if pk.header = 1 then t.bump F.CAM_PKT_CNT_ECC_CORR p else t
  if pk.crcOk then u else u.bump F.CAM_PKT_CNT_CRC_ERR p

theorem State.countPacket_seen (s : State) (p : Fin 17) (pk : CamPacket) : CamSeen s (s.countPacket p.val pk) := by
  have hphy := CamSeen.phySeen s p.val
  have hecc : CamSeen s (if pk.header = 1 then (s.phySeen p.val).bump F.CAM_PKT_CNT_ECC_CORR p.val else s.phySeen p.val) := by
    split
    · exact hphy.trans (CamSeen.put _ _ _ p.isLt (by decide))
    · exact hphy
  unfold State.countPacket
  dsimp only
  split
  · exact hecc
  · exact hecc.trans (CamSeen.put _ _ _ p.isLt (by decide))

/-- A packet whose header can be read is counted, and then taken where it is of the port's stream. -/
theorem goes_camLongPacket {s t : State} {p : Fin 17} {k pk : CamPacket} (hl : Live s)
    (hpk : pk = if p.val = 16 then s.pinPacket k else k) (hh : pk.header < 2)
    (ht : (if s.streamPacket p.val pk = false then (s.countPacket p.val pk).bump F.CAM_PKT_CNT_DISCARD p.val
      else (s.countPacket p.val pk).takePacketLine p.val pk) = t) : Goes (.camLongPacket p k) s t := by
  refine goes_onDevice hl (by unfold exec; rfl) ?_
  have hpin : (s.phySeen p.val).pinPacket k = s.pinPacket k := rfl
  dsimp only
  rw [hpin, ← hpk, if_neg (by omega)]
  refine Eq.trans ?_ ht
  have hs := (s.countPacket_seen p pk).streamPacket p.val pk
  rw [← hs]
  simp only [Bool.not_eq_true']
  rfl

/-- A packet of the port's stream while a block is open. -/
theorem goes_camLine {s : State} {p : Fin 17} {k pk : CamPacket} {b : Block} (hl : Live s)
    (hpk : pk = if p.val = 16 then s.pinPacket k else k) (hh : pk.header < 2) (hst : s.streamPacket p.val pk = true)
    (hen : s.on F.CAM_CTRL_EN p.val = true) (hstore : s.storing p.val = true) (hb : (s.cam p.val).blk = some b) :
    Goes (.camLongPacket p k) s ((s.countPacket p.val pk).takeLine b pk) := by
  have hseen := s.countPacket_seen p pk
  refine goes_camLongPacket hl hpk hh ((if_neg (by rw [hst]; decide)).trans ?_)
  unfold State.takePacketLine
  rw [if_neg (by rw [hseen.on_port _ _ rfl (by decide), hen]; decide), if_neg (by rw [hseen.storing, hstore]; decide), hseen.blk, hb]

theorem State.countLength_kept {s : State} (p : Fin 17) (n len : Nat) :
    CamKept s (s.countLength p.val n len) ∧ ∀ a, (s.countLength p.val n len).wiped a = s.wiped a := by
  refine ⟨camKept_countLength (camKept_refl s) _ _ _, fun a => ?_⟩
  have hbump : ∀ f : Fld, f.reg = R.CAM_LINE_CNT → (s.bump f p.val).wiped a = s.wiped a := by
    intro f hf
    have hget : ∀ g : Fld, R.CAM_LINE_CNT.top ≤ g.reg.base → (s.bump f p.val).get g = s.get g := fun g hg =>
      State.get_put_above s _ p.val 0 (by rw [hf]; exact hg) (by rw [hf]; exact p.isLt)
    simp only [State.wiped, State.on, hget F.MEM_WIPE_MARK_MARK (by decide), hget F.MEM_WIPE_STAT_DDR_DONE (by decide),
      hget F.MEM_WIPE_STAT_SRAM_DONE (by decide)]
  unfold State.countLength
  split
  · exact hbump _ rfl
  · split
    · exact hbump _ rfl
    · rfl

/-- A stored line of a block that no pipe takes: its bytes are written, and the block has one line more. -/
theorem State.storeLine_plain {s : State} {b : Block} {p : Nat} (hp : p < 17) (hport : b.port = p) (hpipe : b.pipe = none)
    (slot addr : Nat) (d : List Byte) (lost : List Nat) :
    (∃ b', ((s.storeLine b slot addr d lost).cam p).blk = some b' ∧ b'.count = b.count + 1) ∧
    (s.storeLine b slot addr d lost).mem = (s.writeData addr (lineData addr d lost)).mem := by
  unfold State.storeLine
  simp only [hport, hpipe]
  generalize s.writeData addr (lineData addr d lost) = t
  have hkept : ∀ (x : CamPort) (lo hi : Int), CamKept (t.setCam p x) ((((t.setCam p x).place p lo hi).rawTaps b d).sweep p) :=
    fun x lo hi => camKept_sweep (camKept_rawTaps (camKept_place (camKept_refl _) _ _ _) _ _) _ hp
  refine ⟨⟨_, ((hkept _ _ _).blk p).trans (congrArg CamPort.blk (State.cam_setCam _ _ _)), rfl⟩, (hkept _ _ _).mem⟩

/-- A line that finds no room becomes a hole of its block (R91). -/
theorem State.lineHole_view {s : State} {b : Block} {p : Nat} (hp : p < 17) (hport : b.port = p) :
    CamKept (s.setBlk p (some (b.next true))) (s.lineHole b) := by
  unfold State.lineHole
  rw [hport]
  exact camKept_addHole (camKept_refl _) _ _ _ hp

/-- A timing-dependent choice counts, and leaves what the relation names (R294). -/
theorem State.tdc_line (s : State) : CamKept (s.bumpWrap F.DET_TDC_COUNT) (s.tdc 4) := by
  unfold State.tdc State.tdcFirst
  have hb : CamKept (s.bumpWrap F.DET_TDC_COUNT) ((s.bumpWrap F.DET_TDC_COUNT).bump (tdcField 4)) :=
    camKept_bump (camKept_refl _) _ _ _ (by rfl)
  dsimp only
  split
  · exact hb
  · exact camKept_put (camKept_put (camKept_put (camKept_put (camKept_tdcSeen hb _) _ _ _ _ (by rfl)) _ _ _ _ (by rfl))
      _ _ _ _ (by rfl)) _ _ _ _ (by rfl)

/-! ### The sweep of the lines that none awaits -/

theorem State.sweep_view (s : State) (p : Nat) : ∃ c, c.held = ((s.cam p).held.filter fun l => !l.takers.isEmpty || s.retained p l) ∧
    s.sweep p = { s.setCam p c with regs := (s.sweep p).regs } := by
  refine ⟨{ s.cam p with held := (s.cam p).held.filter fun l => !l.takers.isEmpty || s.retained p l
                         outs := (s.cam p).outs.filter fun l => !l.takers.isEmpty || s.retained p l }, rfl, ?_⟩
  unfold State.sweep
  dsimp only
  generalize s.setCam p _ = t
  have hkeep : timesFrom State.showOuts 4 0 (t.showSlots p) = { t with regs := (timesFrom State.showOuts 4 0 (t.showSlots p)).regs } :=
    timesFrom_keeps (P := fun u : State => u = { t with regs := u.regs }) (fun u q hu => by
      have h : u.showOuts q = { u with regs := (u.showOuts q).regs } := rfl
      rw [h]
      generalize (u.showOuts q).regs = r
      rw [hu]) rfl 4 0
  rw [State.showPort_only]
  generalize timesFrom State.showOuts 4 0 (t.showSlots p) = u at hkeep
  rw [hkeep]

/-- Settles O23: packets that are no line by the branch they take, lines through what the line store keeps of a port. -/
theorem cameraLines : Obligations.CameraLines := by
  unfold Obligations.CameraLines
  refine ⟨?header, ?noLine, ?stored, ?data, ?fit, ?noRoom, ?retain⟩
  case header =>
    intro s p k hl hp hh hb
    refine goes_onDevice hl (by unfold exec; rfl) ?_
    have hseen := (CamSeen.phySeen s p.val).trans (CamSeen.put (s.phySeen p.val) F.CAM_PKT_CNT_HDR_ERR
      (min ((s.phySeen p.val).get F.CAM_PKT_CNT_HDR_ERR p.val + 1) (2 ^ F.CAM_PKT_CNT_HDR_ERR.width - 1)) p.isLt (by decide))
    have hnone : (((s.phySeen p.val).bump F.CAM_PKT_CNT_HDR_ERR p.val).cam p.val).blk = none := (hseen.blk _).trans hb
    dsimp only
    rw [if_neg hp, if_pos hh, State.headerLost, hnone]
  case noLine =>
    intro s u v p k pk hl hpk hh hu hv
    have hcount : s.countPacket p.val pk = v := by rw [hv, hu]; rfl
    have hseen := s.countPacket_seen p pk
    rw [hcount] at hseen
    refine ⟨fun hst => ?_, fun hst hen => ?_, fun hst hen hstore hblk harm => ?_⟩
    · exact goes_camLongPacket hl hpk hh (by rw [if_pos hst, hcount])
    · refine goes_camLongPacket hl hpk hh ?_
      rw [if_neg (by rw [hst]; decide), hcount, State.takePacketLine, if_pos (by rw [hseen.on_port _ _ rfl (by decide), hen]; rfl)]
    · refine goes_camLongPacket hl hpk hh ?_
      obtain ⟨x, hx⟩ := hseen.cam p.val
      rw [if_neg (by rw [hst]; decide), hcount, State.takePacketLine, if_neg (by rw [hseen.on_port _ _ rfl (by decide), hen]; decide),
        if_neg (by rw [hseen.storing, hstore]; decide), hseen.blk, hblk]
      refine if_neg ?_
      rw [hseen.on_port _ _ rfl (by decide), hx]
      rcases harm with h | h <;> simp [h]
  case stored =>
    intro s p k pk b slot addr n hl hpk hh hcrc hroom hst hen hstore hb hport hpipe hlt hbehind hslot hn
    have hseen := s.countPacket_seen p pk
    have hgoes := goes_camLine hl hpk hh hst hen hstore hb
    obtain ⟨x, hx⟩ := hseen.cam p.val
    generalize s.countPacket p.val pk = v at hseen hgoes hx
    have hlen : 4 * v.get F.CAM_LINE_WORDS_LINE_WORDS p.val = n := by rw [hseen.get_port _ _ rfl (by decide), hn]
    have htake : v.takeLine b pk = (v.countLength p.val pk.payload.length n).storeLine b slot addr
        (fitLine (s.get F.CAM_FILL_FILL p.val) n pk.payload) pk.lost := by
      unfold State.takeLine
      dsimp only
      rw [if_neg (by omega), hport, if_neg (by rw [hx, hbehind]; simp), if_neg (by rw [hroom]; decide), hseen.lineSlot, hslot]
      dsimp only
      rw [if_neg (by rw [hcrc]; decide), hlen, hseen.get_port _ _ rfl (by decide)]
    rw [htake] at hgoes
    obtain ⟨hk, hw⟩ := State.countLength_kept (s := v) p pk.payload.length n
    obtain ⟨hblk, hmem⟩ := State.storeLine_plain (s := v.countLength p.val pk.payload.length n) p.isLt hport hpipe slot addr
      (fitLine (s.get F.CAM_FILL_FILL p.val) n pk.payload) pk.lost
    have hwrite := hmem.trans (State.writeData_mem_congr (s := s) (hk.mem.trans hseen.mem) (fun a => (hw a).trans (hseen.wiped a)) addr
      (lineData addr (fitLine (s.get F.CAM_FILL_FILL p.val) n pk.payload) pk.lost))
    refine ⟨_, hgoes, hblk, hwrite, fun a ha => ?_⟩
    have hle := le_roundUp n (granSize addr) (granSize_pos addr)
    rw [hwrite]
    refine s.writeData_byte_other _ ?_
    rw [length_lineData, length_fitLine]
    omega
  case data => exact fun addr i d lost hi => getElem?_lineData hi
  case fit =>
    intro fill len d
    exact ⟨length_fitLine _ _ _, fun i hi hd => (getElem?_fitLine hi).trans (if_pos hd),
      fun i hi hd => (getElem?_fitLine hi).trans (if_neg (by omega))⟩
  case noRoom =>
    intro s p k pk b hl hpk hh hst hen hstore hb hport hlt hbehind hroom
    have hseen := s.countPacket_seen p pk
    have hgoes := goes_camLine hl hpk hh hst hen hstore hb
    obtain ⟨x, hx⟩ := hseen.cam p.val
    generalize s.countPacket p.val pk = v at hseen hgoes hx
    have htake : v.takeLine b pk = ((v.bump F.CAM_DROP_CNT_FIFO_DROP p.val).tdc 4).lineHole b := by
      unfold State.takeLine
      dsimp only
      rw [if_neg (by omega), hport, if_neg (by rw [hx, hbehind]; simp), if_pos (by rw [hroom]; rfl)]
    rw [htake] at hgoes
    have hhole := State.lineHole_view (s := (v.bump F.CAM_DROP_CNT_FIFO_DROP p.val).tdc 4) p.isLt hport
    have htdc := State.tdc_line (v.bump F.CAM_DROP_CNT_FIFO_DROP p.val)
    refine ⟨_, hgoes, (hhole.blk _).trans (State.setBlk_blk _ _ _), (hhole.mem.trans htdc.mem).trans hseen.mem, ?_, ?_⟩
    · rw [hhole.fields F.CAM_DROP_CNT_FIFO_DROP (by simp [camKeptFields]) _ p.isLt, State.setBlk_get,
        htdc.fields F.CAM_DROP_CNT_FIFO_DROP (by simp [camKeptFields]) _ p.isLt, ← hseen.get_port _ _ rfl (by decide)]
      refine (State.get_put_below _ _ _ _ (by decide) p.isLt).trans ?_
      exact State.get_bumpBy _ _ _ _ _ (by decide)
    · rw [hhole.tdc, State.setBlk_get, htdc.tdc, ← hseen.get_out _ _ _ (by decide)]
      refine (State.get_put _ _ _ _ _ (by decide)).trans ?_
      have hdrop : (v.bump F.CAM_DROP_CNT_FIFO_DROP p.val).get F.DET_TDC_COUNT = v.get F.DET_TDC_COUNT :=
        State.get_put_above _ _ _ _ (by decide) p.isLt
      rw [hdrop]; rfl
  case retain =>
    intro s p l hl hheld
    obtain ⟨c, hc, hsweep⟩ := s.sweep_view p.val
    refine ⟨s.sweep p.val, goes_onDevice hl (by unfold exec; rfl) rfl, ?_, ?_⟩
    · generalize s.sweep p.val = t at hsweep
      rw [hsweep, State.setCam]
    · have hcams : (s.sweep p.val).cams = (s.setCam p.val c).cams := by
        generalize s.sweep p.val = t at hsweep
        rw [hsweep]
      have hcam : (s.sweep p.val).cam p.val = c := by rw [State.cam, hcams]; exact State.cam_setCam _ _ _
      rw [hcam, hc, List.mem_filter]
      simp [hheld]

end Sys2Proof.Machine
end

section
/-! Lanes, sample settings and the read of a bobbin (R133, R139, R152). -/
namespace Sys2Proof.Machine
open Sys2Proof.Claims

theorem Cmd.p_lt (c : Cmd) (i : Nat) : c.p i < 2 ^ 32 := BitVec.isLt _

/-! ### The outputs of a lane -/

theorem State.own_regs_other (s : State) {i k : Nat} (o n : Nat) (hk : k ≠ i) : (s.own i o n).reg R.SYS_OWN k = s.reg R.SYS_OWN k := by
  have hne : ∀ f : Fld, f.reg = R.SYS_OWN → R.SYS_OWN.addr k 0 ≠ f.reg.addr i 0 := by
    intro f hf e
    have e' : (0x3F00000400 : Nat) + k * 4 + 0 * 0 = 0x3F00000400 + i * 4 + 0 * 0 := by rw [hf] at e; exact e
    omega
  rw [State.reg_congr (s.own_regs i o n)]
  exact (State.reg_setReg_other _ _ _ _ _ _ _ _ (hne F.SYS_OWN_INSTANCE rfl)).trans
    (State.reg_setReg_other _ _ _ _ _ _ _ _ (hne F.SYS_OWN_OWNER rfl))

/-- The outputs of a mask, given to an owner one by one. -/
def State.ownAll (s : State) (l : List Nat) (o n : Nat) : State := foldState (fun u i => u.own (5 + i) o n) s l

theorem State.ownAll_only (s : State) (l : List Nat) (o n : Nat) :
    s.ownAll l o n = { s with regs := (s.ownAll l o n).regs, copies := (s.ownAll l o n).copies } :=
  foldState_keeps (P := fun u : State => u = { s with regs := u.regs, copies := u.copies }) (fun u i hu => by
    have h := u.own_only (5 + i) o n
    generalize u.own (5 + i) o n = v at h
    rw [h, hu]) rfl l

theorem State.ownAll_owner (s : State) {l : List Nat} {o n k : Nat} (hk : k ∈ l) :
    (s.ownAll l o n).get F.SYS_OWN_OWNER (5 + k) = o % 2 ^ 8 ∧ (s.ownAll l o n).get F.SYS_OWN_INSTANCE (5 + k) = n % 2 ^ 8 := by
  have hkeep : ∀ (l : List Nat) (u : State), u.get F.SYS_OWN_OWNER (5 + k) = o % 2 ^ 8 ∧ u.get F.SYS_OWN_INSTANCE (5 + k) = n % 2 ^ 8 →
      (u.ownAll l o n).get F.SYS_OWN_OWNER (5 + k) = o % 2 ^ 8 ∧ (u.ownAll l o n).get F.SYS_OWN_INSTANCE (5 + k) = n % 2 ^ 8 := by
    intro l u hu
    refine foldState_keeps (P := fun v : State => v.get F.SYS_OWN_OWNER (5 + k) = o % 2 ^ 8 ∧ v.get F.SYS_OWN_INSTANCE (5 + k) = n % 2 ^ 8)
      (fun v i hv => ?_) hu l
    by_cases hi : k = i
    · subst hi; exact v.get_own (5 + k) o n
    · have hreg := v.own_regs_other (i := 5 + i) (k := 5 + k) o n (by omega)
      exact ⟨(congrArg (fun x => bitsOf x _ _) hreg).trans hv.1, (congrArg (fun x => bitsOf x _ _) hreg).trans hv.2⟩
  induction l generalizing s with
  | nil => exact absurd hk (by simp)
  | cons i l ih =>
    have hstep : s.ownAll (i :: l) o n = (s.own (5 + i) o n).ownAll l o n := rfl
    rw [hstep]
    by_cases hi : k = i
    · subst hi; exact hkeep l _ (s.get_own (5 + k) o n)
    · exact ih _ ((List.mem_cons.mp hk).resolve_left hi)

/-- A register above the resources' own ones keeps its value. -/
theorem State.ownAll_reg (s : State) (l : List Nat) (o n : Nat) {q : Reg} (hq : R.SYS_OWN.top ≤ q.base) (hl : ∀ i ∈ l, i < 57) (k : Nat) :
    (s.ownAll l o n).reg q k = s.reg q k := by
  induction l generalizing s with
  | nil => rfl
  | cons i l ih =>
    have hi : 5 + i < R.SYS_OWN.count := by have := hl i (by simp); show 5 + i < 62; omega
    refine (ih _ fun j hj => hl j (by simp [hj])).trans ?_
    rw [State.reg_congr (s.own_regs _ o n)]
    exact (State.reg_put_above _ _ _ k hq hi).trans (State.reg_put_above _ _ _ k hq hi)

theorem mem_maskList {n m i : Nat} : i ∈ maskList n m ↔ i < n ∧ bitAt m i = true := by
  simp [maskList, those, List.mem_filter, List.mem_range]

theorem State.takeOutputs_only (s : State) (m l : Nat) :
    s.takeOutputs m l = { s with regs := (s.takeOutputs m l).regs, field := (s.takeOutputs m l).field, copies := (s.takeOutputs m l).copies } := by
  have h := s.ownAll_only (maskList 8 m) ownEjector l
  unfold State.takeOutputs
  dsimp only
  rw [show foldState (fun u i => u.own (5 + i) ownEjector l) s (maskList 8 m) = s.ownAll (maskList 8 m) ownEjector l from rfl]
  generalize s.ownAll (maskList 8 m) ownEjector l = u at h
  split
  · rw [h]
  · rw [State.setField_only u, h]

theorem State.takeOutputs_owner {s : State} (hs : s.splits = []) {m l i : Nat} (hi : i < 8) (hm : bitAt m i = true) (hl : l < 256) :
    (s.takeOutputs m l).owner (5 + i) = ownEjector ∧ (s.takeOutputs m l).ownerInst (5 + i) = l := by
  have hsplit : (s.takeOutputs m l).splits = [] := by rw [s.takeOutputs_only]; exact hs
  have hm0 : m ≠ 0 := by rintro rfl; rw [bitAt_eq_testBit] at hm; simp at hm
  rw [State.owner_unsplit hsplit, State.ownerInst_unsplit hsplit]
  unfold State.takeOutputs
  dsimp only
  rw [if_neg hm0]
  have hk : 5 + i < F.SYS_OWN_OWNER.reg.count := by show 5 + i < 62; omega
  obtain ⟨ho, hn⟩ := s.ownAll_owner (o := ownEjector) (n := l) (mem_maskList.mpr ⟨hi, hm⟩)
  rw [State.get_setField (g := F.SYS_OWN_OWNER) _ _ _ hk (by decide) (by decide),
    State.get_setField (g := F.SYS_OWN_INSTANCE) _ _ _ hk (by decide) (by decide)]
  exact ⟨ho, hn.trans (Nat.mod_eq_of_lt (by omega))⟩

theorem State.reg_setField (s : State) {r : Reg} (v i : Nat) {q : Reg} {k : Nat} (hk : k < q.count)
    (hr : q.top ≤ r.base) (hf : q.top ≤ R.FIELD_LINK_STAT.base) : (s.setField r v i).reg q k = s.reg q k := by
  obtain ⟨b, d, h⟩ := s.setField_regs r v i
  have hstop : R.FIELD_LINK_STAT.base ≤ F.FIELD_STOP_CLEAR_PENDING.reg.base := by decide
  rw [State.reg_congr h, State.putBit, State.reg_put_below _ _ _ _ (hf.trans hstop) hk, State.putBit,
    State.reg_put_below _ _ _ _ hf hk, State.reg_setReg_below _ _ _ _ hr hk]

theorem State.takeOutputs_reg (s : State) (m l : Nat) {q : Reg} (hq : R.SYS_OWN.top ≤ q.base) (hf : q.top ≤ R.FIELD_LINK_STAT.base)
    {k : Nat} (hk : k < q.count) : (s.takeOutputs m l).reg q k = s.reg q k := by
  have hown := s.ownAll_reg (maskList 8 m) ownEjector l hq (fun i hi => by have := (mem_maskList.mp hi).1; omega) k
  unfold State.takeOutputs
  dsimp only
  split
  · exact hown
  · refine (State.reg_setField _ _ _ hk ?_ hf).trans hown
    exact hf.trans (by decide)

/-! ### CMD_LANE_SET -/

/-- The registers of a lane as CMD_LANE_SET writes them. -/
def State.laneRegs (s : State) (c : Cmd) (l : Nat) : State :=
  (((s.setReg R.BOB_LANE_CFG (c.p 1 + 2 ^ 8 * bitsOf (c.p 3) 16 1 + 2 ^ 15 + 2 ^ 16 * bitsOf (c.p 3) 0 16) l).put
    F.BOB_LANE_OFFSET_OFFSET (c.p 2) l).put F.BOB_LANE_ADVANCE_ADVANCE (c.p 4) l).setReg R.BOB_LANE_VALVE (c.p 5) l

/-- A lane as CMD_LANE_SET leaves it. -/
def State.laneSet (s : State) (c : Cmd) : State :=
  ((s.laneRegs c c.target).stored (15 + c.target)).takeOutputs (c.p 1) c.target

theorem State.laneSet_only (s : State) (c : Cmd) :
    s.laneSet c = { s with regs := (s.laneSet c).regs, field := (s.laneSet c).field, copies := (s.laneSet c).copies } := by
  have hregs : s.laneRegs c c.target = { s with regs := (s.laneRegs c c.target).regs } := rfl
  unfold State.laneSet
  generalize s.laneRegs c c.target = u at hregs
  have h := State.takeOutputs_only (u.stored (15 + c.target)) (c.p 1) c.target
  generalize (u.stored (15 + c.target)).takeOutputs (c.p 1) c.target = t at h
  rw [h, State.stored, hregs]

theorem State.laneSet_reg (s : State) {c : Cmd} {q : Reg} (h1 : R.SYS_OWN.top ≤ q.base) (h2 : q.top ≤ R.FIELD_LINK_STAT.base)
    (h3 : c.target < q.count) : (s.laneSet c).reg q c.target = (s.laneRegs c c.target).reg q c.target := by
  have hstored : ((s.laneRegs c c.target).stored (15 + c.target)).regs = (s.laneRegs c c.target).regs := rfl
  rw [State.laneSet, State.takeOutputs_reg _ _ _ h1 h2 h3, State.reg_congr hstored]

theorem State.laneSet_get (s : State) {c : Cmd} {g : Fld} (h1 : R.SYS_OWN.top ≤ g.reg.base) (h2 : g.reg.top ≤ R.FIELD_LINK_STAT.base)
    (h3 : c.target < g.reg.count) : (s.laneSet c).get g c.target = (s.laneRegs c c.target).get g c.target := by
  rw [State.get, State.laneSet_reg _ h1 h2 h3, State.get]

theorem State.laneSet_owner {s : State} (hs : s.splits = []) {c : Cmd} {i : Nat} (hi : i < 8) (hm : bitAt (c.p 1) i = true)
    (hl : c.target < 256) : (s.laneSet c).owner (5 + i) = ownEjector ∧ (s.laneSet c).ownerInst (5 + i) = c.target := by
  have hsplit : (s.laneRegs c c.target).splits = s.splits := rfl
  exact State.takeOutputs_owner (s := (s.laneRegs c c.target).stored (15 + c.target)) (hsplit.trans hs) hi hm hl

theorem execCmdLaneSet_eq (src : Source) (s : State) : execCmdLaneSet src s = runCmd s src 0x0304 fun s c =>
    if !laneOk c || s.valvesTaken c then refuse s .badParam
    else if (maskList 8 (c.p 1)).any fun i => s.heldByOther (5 + i) ownEjector c.target then refuse s .resourceHeld
    else doneWith (s.laneSet c) := rfl

/-- The bounds that a valid CMD_LANE_SET keeps (R139). -/
theorem laneOk_bounds {c : Cmd} (h : laneOk c = true) : c.p 1 < 2 ^ 8 ∧ c.p 2 < 2 ^ 24 ∧ c.p 4 < 2 ^ 16 ∧ c.p 5 < 2 ^ 18 := by
  simp only [laneOk, Bool.and_eq_true, decide_eq_true_eq] at h
  omega

theorem State.laneRegs_shows (s : State) {c : Cmd} (h : laneOk c = true) (l : Nat) :
    (s.laneRegs c l).get F.BOB_LANE_CFG_MASK l = c.p 1 ∧ (s.laneRegs c l).get F.BOB_LANE_CFG_WIDTH l = c.p 3 % 2 ^ 16 ∧
    (s.laneRegs c l).get F.BOB_LANE_CFG_SET l = 1 ∧ (s.laneRegs c l).get F.BOB_LANE_OFFSET_OFFSET l = c.p 2 ∧
    (s.laneRegs c l).get F.BOB_LANE_ADVANCE_ADVANCE l = c.p 4 ∧ (s.laneRegs c l).reg R.BOB_LANE_VALVE l = c.p 5 := by
  obtain ⟨h1, h2, h4, h5⟩ := laneOk_bounds h
  have hcfg : (s.laneRegs c l).reg R.BOB_LANE_CFG l =
      (c.p 1 + 2 ^ 8 * bitsOf (c.p 3) 16 1 + 2 ^ 15 + 2 ^ 16 * bitsOf (c.p 3) 0 16) % 2 ^ 32 := by
    unfold State.laneRegs
    rw [State.reg_setReg_stride _ _ _ _ (by decide) (by decide), State.reg_put_stride _ _ _ _ (by decide) (by decide),
      State.reg_put_stride _ _ _ _ (by decide) (by decide), State.reg_setReg]
  have hb : bitsOf (c.p 3) 16 1 < 2 := bitsOf_lt _ _ _
  have hw : bitsOf (c.p 3) 0 16 = c.p 3 % 2 ^ 16 := by simp [bitsOf]
  have hwl : bitsOf (c.p 3) 0 16 < 2 ^ 16 := bitsOf_lt _ _ _
  refine ⟨?_, ?_, ?_, ?_, ?_, ?_⟩
  · rw [State.get, show F.BOB_LANE_CFG_MASK.reg = R.BOB_LANE_CFG from rfl, hcfg]
    show (_ % 2 ^ 32) / 2 ^ 0 % 2 ^ 8 = _
    omega
  · rw [State.get, show F.BOB_LANE_CFG_WIDTH.reg = R.BOB_LANE_CFG from rfl, hcfg, ← hw]
    show (_ % 2 ^ 32) / 2 ^ 16 % 2 ^ 16 = _
    omega
  · rw [State.get, show F.BOB_LANE_CFG_SET.reg = R.BOB_LANE_CFG from rfl, hcfg]
    show (_ % 2 ^ 32) / 2 ^ 15 % 2 ^ 1 = _
    omega
  · unfold State.laneRegs
    rw [State.get_setReg_stride _ _ _ _ (by decide) (by decide), State.get_put_stride _ _ _ _ (by decide) (by decide),
      State.get_put _ _ _ _ _ (by decide)]
    exact Nat.mod_eq_of_lt h2
  · unfold State.laneRegs
    rw [State.get_setReg_stride _ _ _ _ (by decide) (by decide), State.get_put _ _ _ _ _ (by decide)]
    exact Nat.mod_eq_of_lt h4
  · unfold State.laneRegs
    rw [State.reg_setReg]
    exact Nat.mod_eq_of_lt (by omega)

theorem State.heldByOther_dropOldest (s : State) (src : Source) (i o n f : Nat) :
    (s.dropOldest src).heldByOther i o n f = s.heldByOther i o n f := rfl

/-! ### CMD_SAMPLE_CONFIG -/

/-- The sample settings as CMD_SAMPLE_CONFIG leaves them. -/
def State.sampleSet (s : State) (c : Cmd) : State :=
  let t := (((s.put F.SAMPLE_CREDITS_LIMIT (c.p 1)).put F.SAMPLE_CREDITS_AVAIL (c.p 1)).put F.SAMPLE_DECODE_LIMIT_US (c.p 2)).put
    F.SAMPLE_MAX_PIXELS_MAX (c.p 3)
  { t with intake := { t.intake with nextSeq := 0, nextOut := 0 } }

theorem State.sampleSet_only (s : State) (c : Cmd) :
    s.sampleSet c = { s with regs := (s.sampleSet c).regs, intake := { s.intake with nextSeq := 0, nextOut := 0 } } := rfl

theorem State.sampleSet_shows (s : State) {c : Cmd} (h1 : c.p 1 ≤ 256) (h2 : c.p 2 < 2 ^ 16) :
    (s.sampleSet c).get F.SAMPLE_CREDITS_LIMIT = c.p 1 ∧ (s.sampleSet c).get F.SAMPLE_CREDITS_AVAIL = c.p 1 ∧
    (s.sampleSet c).get F.SAMPLE_DECODE_LIMIT_US = c.p 2 ∧ (s.sampleSet c).get F.SAMPLE_MAX_PIXELS_MAX = c.p 3 % 2 ^ 32 := by
  have hregs : (s.sampleSet c).regs = ((((s.put F.SAMPLE_CREDITS_LIMIT (c.p 1)).put F.SAMPLE_CREDITS_AVAIL (c.p 1)).put
    F.SAMPLE_DECODE_LIMIT_US (c.p 2)).put F.SAMPLE_MAX_PIXELS_MAX (c.p 3)).regs := rfl
  simp only [State.get_congr hregs]
  refine ⟨?_, ?_, ?_, ?_⟩
  · rw [State.get_put_stride _ _ _ _ (by decide) (by decide), State.get_put_stride _ _ _ _ (by decide) (by decide),
      State.get_put_beside (f := F.SAMPLE_CREDITS_AVAIL) (g := F.SAMPLE_CREDITS_LIMIT) _ _ _ rfl (by decide) (by decide), State.get_put _ _ _ _ _ (by decide)]
    exact Nat.mod_eq_of_lt (by show c.p 1 < 2 ^ 9; omega)
  · rw [State.get_put_stride _ _ _ _ (by decide) (by decide), State.get_put_stride _ _ _ _ (by decide) (by decide),
      State.get_put _ _ _ _ _ (by decide)]
    exact Nat.mod_eq_of_lt (by show c.p 1 < 2 ^ 9; omega)
  · rw [State.get_put_stride _ _ _ _ (by decide) (by decide), State.get_put _ _ _ _ _ (by decide)]
    exact Nat.mod_eq_of_lt h2
  · rw [State.get_put _ _ _ _ _ (by decide)]; rfl

/-! ### CMD_BOBBIN_READ -/

theorem Bobbin.length_read (b : Bobbin) : b.read.length = 6 := by
  unfold Bobbin.read; dsimp only; split <;> rfl

theorem Bobbin.read_free {b : Bobbin} (h : b.state = .free) : b.read = [0, 0, 0, 0, 0, 0] := if_pos h

theorem Bobbin.read_taken {b : Bobbin} (h : b.state ≠ .free) :
    b.read.getD 1 0 = w32 b.serial ∧ (b.read.getD 0 0).toNat % 16 = b.state.code := by
  unfold Bobbin.read
  rw [if_neg h]
  refine ⟨rfl, ?_⟩
  have hc : b.state.code < 16 := by cases b.state <;> decide
  simp only [List.getD_cons_zero, w32, BitVec.toNat_ofNat]
  omega

/-- Settles O27: the lane by what its registers and its outputs show, the rest branch by branch. -/
theorem laneAndSampleCommands : Obligations.LaneAndSampleCommands := by
  unfold Obligations.LaneAndSampleCommands
  refine ⟨?lane, ?laneParam, ?laneHeld, ?samples, ?outstanding, ?sampleParam, ?bobbinParam, ?bobbin⟩
  case lane =>
    intro s src c hs hl hok hv hfree
    have hany : ((maskList 8 (c.p 1)).any fun i => (s.dropOldest src).heldByOther (5 + i) ownEjector c.target) = false := by
      rw [List.any_eq_false]
      intro i hi
      obtain ⟨hi8, hbit⟩ := mem_maskList.mp hi
      rw [State.heldByOther_dropOldest, hfree i hi8 hbit]; decide
    obtain ⟨hmask, hwidth, hset, hoff, hadv, hvalve⟩ := (s.dropOldest src).laneRegs_shows hok c.target
    have hends : Ends (.cmdLaneSet src) s ((s.dropOldest src).laneSet c) src c .done := ends_runCmd hs (execCmdLaneSet_eq src s)
      ((if_neg (by rw [hok, hv]; decide)).trans (if_neg (by rw [hany]; decide)))
    have hval : ((s.dropOldest src).laneSet c).reg R.BOB_LANE_VALVE c.target = c.p 5 :=
      (State.laneSet_reg (q := R.BOB_LANE_VALVE) _ (by decide) (by decide) hl).trans hvalve
    have hown : s.splits = [] → ∀ i, i < 8 → bitAt (c.p 1) i = true →
        ((s.dropOldest src).laneSet c).owner (5 + i) = ownEjector ∧ ((s.dropOldest src).laneSet c).ownerInst (5 + i) = c.target :=
      fun hsp i hi hbit => State.laneSet_owner (s := s.dropOldest src) (c := c) hsp hi hbit (by omega)
    replace hmask := (State.laneSet_get (g := F.BOB_LANE_CFG_MASK) _ (by decide) (by decide) hl).trans hmask
    replace hwidth := (State.laneSet_get (g := F.BOB_LANE_CFG_WIDTH) _ (by decide) (by decide) hl).trans hwidth
    replace hset := (State.laneSet_get (g := F.BOB_LANE_CFG_SET) _ (by decide) (by decide) hl).trans hset
    replace hoff := (State.laneSet_get (g := F.BOB_LANE_OFFSET_OFFSET) _ (by decide) (by decide) hl).trans hoff
    replace hadv := (State.laneSet_get (g := F.BOB_LANE_ADVANCE_ADVANCE) _ (by decide) (by decide) hl).trans hadv
    have honly := (s.dropOldest src).laneSet_only c
    generalize (s.dropOldest src).laneSet c = t at hends hval hown honly hmask hwidth hset hoff hadv
    exact ⟨t, hends, honly, hmask, hwidth, hset, hoff, hadv, hval, hown⟩
  case laneParam =>
    intro s src c hs h
    refine ends_runCmd hs (execCmdLaneSet_eq src s) (if_pos ?_)
    rcases h with h | h <;> simp [h]
  case laneHeld =>
    intro s src c i hs hok hv hi hbit hheld
    have hany : ((maskList 8 (c.p 1)).any fun i => (s.dropOldest src).heldByOther (5 + i) ownEjector c.target) = true :=
      List.any_eq_true.mpr ⟨i, mem_maskList.mpr ⟨hi, hbit⟩, hheld⟩
    exact ends_runCmd hs (execCmdLaneSet_eq src s) ((if_neg (by rw [hok, hv]; decide)).trans (if_pos hany))
  case samples =>
    intro s src c hs hno h1 h256 h2 h3
    obtain ⟨hlim, hav, hdec, hmax⟩ := (s.dropOldest src).sampleSet_shows h256 h2
    exact ⟨(s.dropOldest src).sampleSet c, ends_runCmd hs (show execCmdSampleConfig src s = _ from rfl)
      ((if_neg (by rw [show (s.dropOldest src).intake.samples = [] from hno]; decide)).trans (if_neg (by omega))),
      (s.dropOldest src).sampleSet_only c, hlim, hav, hdec, hmax.trans (Nat.mod_eq_of_lt (Cmd.p_lt c 3))⟩
  case outstanding =>
    intro s src c hs hne
    refine ends_runCmd hs (show execCmdSampleConfig src s = _ from rfl) (if_pos ?_)
    simpa [State.dropOldest] using hne
  case sampleParam =>
    intro s src c hs hno h
    exact ends_runCmd hs (show execCmdSampleConfig src s = _ from rfl)
      ((if_neg (by rw [show (s.dropOldest src).intake.samples = [] from hno]; decide)).trans (if_pos (by omega)))
  case bobbinParam => exact fun s src c hs h => ends_runCmd hs (show execCmdBobbinRead src s = _ from rfl) (if_pos h)
  case bobbin =>
    intro s src c hs h
    refine ⟨_, ends_runCmd hs (show execCmdBobbinRead src s = _ from rfl) (if_neg (by omega)), Bobbin.length_read _,
      fun hf => Bobbin.read_free hf, fun hf => ?_⟩
    have hread : (s.bob (c.p 1)).read.getD 1 0 = w32 (s.bob (c.p 1)).serial ∧
        ((s.bob (c.p 1)).read.getD 0 0).toNat % 16 = (s.bob (c.p 1)).state.code := Bobbin.read_taken hf
    exact hread

end Sys2Proof.Machine
end

section
/-! Steps that leave every memory, and split no critical word. -/
namespace Sys2Proof.Machine
open Sys2Proof.Claims

/-- The memories and the record of split words stay as they are. -/
structure Aside (s t : State) : Prop where
  mem : t.mem = s.mem
  splits : t.splits = s.splits

theorem aside_refl (s : State) : Aside s s := ⟨rfl, rfl⟩

theorem Aside.trans {r s t : State} (h : Aside r s) (k : Aside s t) : Aside r t := ⟨k.mem.trans h.mem, k.splits.trans h.splits⟩

theorem aside_latch {r s : State} (h : Aside r s) (x : Tbl Word) : Aside r { s with latch := x } := ⟨h.mem, h.splits⟩
theorem aside_fills {r s : State} (h : Aside r s) (x : List Fill) : Aside r { s with fills := x } := ⟨h.mem, h.splits⟩
theorem aside_scrub {r s : State} (h : Aside r s) (x : Scrub) : Aside r { s with scrub := x } := ⟨h.mem, h.splits⟩
theorem aside_i3c {r s : State} (h : Aside r s) (x : I3c) : Aside r { s with i3c := x } := ⟨h.mem, h.splits⟩
theorem aside_host {r s : State} (h : Aside r s) (x : HostLink) : Aside r { s with host := x } := ⟨h.mem, h.splits⟩
theorem aside_boot {r s : State} (h : Aside r s) (x : Boot) : Aside r { s with boot := x } := ⟨h.mem, h.splits⟩
theorem aside_fuses {r s : State} (h : Aside r s) (x : Fuses) : Aside r { s with fuses := x } := ⟨h.mem, h.splits⟩
theorem aside_straps {r s : State} (h : Aside r s) (x : Straps) : Aside r { s with straps := x } := ⟨h.mem, h.splits⟩
theorem aside_snap {r s : State} (h : Aside r s) (x : SnapUnit) : Aside r { s with snap := x } := ⟨h.mem, h.splits⟩
theorem aside_time {r s : State} (h : Aside r s) (x : TimeUnit) : Aside r { s with time := x } := ⟨h.mem, h.splits⟩
theorem aside_link {r s : State} (h : Aside r s) (x : LinkUnit) : Aside r { s with link := x } := ⟨h.mem, h.splits⟩
theorem aside_die {r s : State} (h : Aside r s) (x : FieldDie) : Aside r { s with die := x } := ⟨h.mem, h.splits⟩
theorem aside_field {r s : State} (h : Aside r s) (x : FieldDev) : Aside r { s with field := x } := ⟨h.mem, h.splits⟩
theorem aside_cams {r s : State} (h : Aside r s) (x : Tbl CamPort) : Aside r { s with cams := x } := ⟨h.mem, h.splits⟩
theorem aside_pipes {r s : State} (h : Aside r s) (x : Tbl Pipe) : Aside r { s with pipes := x } := ⟨h.mem, h.splits⟩
theorem aside_rules {r s : State} (h : Aside r s) (x : Tbl Rule) : Aside r { s with rules := x } := ⟨h.mem, h.splits⟩
theorem aside_bobs {r s : State} (h : Aside r s) (x : Tbl Bobbin) : Aside r { s with bobs := x } := ⟨h.mem, h.splits⟩
theorem aside_lastBob {r s : State} (h : Aside r s) (x : Nat) : Aside r { s with lastBob := x } := ⟨h.mem, h.splits⟩
theorem aside_intake {r s : State} (h : Aside r s) (x : Intake) : Aside r { s with intake := x } := ⟨h.mem, h.splits⟩
theorem aside_looms {r s : State} (h : Aside r s) (x : Tbl Loom) : Aside r { s with looms := x } := ⟨h.mem, h.splits⟩
theorem aside_sched {r s : State} (h : Aside r s) (x : Sched) : Aside r { s with sched := x } := ⟨h.mem, h.splits⟩
theorem aside_twin {r s : State} (h : Aside r s) (x : Twin) : Aside r { s with twin := x } := ⟨h.mem, h.splits⟩
theorem aside_power {r s : State} (h : Aside r s) (x : Power) : Aside r { s with power := x } := ⟨h.mem, h.splits⟩
theorem aside_tdcSeen {r s : State} (h : Aside r s) (x : Bool) : Aside r { s with tdcSeen := x } := ⟨h.mem, h.splits⟩
theorem aside_fenceDue {r s : State} (h : Aside r s) (x : List (Nat × Nat)) : Aside r { s with fenceDue := x } := ⟨h.mem, h.splits⟩
theorem aside_copies {r s : State} (h : Aside r s) (x : Tbl Copies) : Aside r { s with copies := x } := ⟨h.mem, h.splits⟩
theorem aside_freeUse {r s : State} (h : Aside r s) (x : Nat) : Aside r { s with freeUse := x } := ⟨h.mem, h.splits⟩
theorem aside_pending {r s : State} (h : Aside r s) (x : List Instr) : Aside r { s with pending := x } := ⟨h.mem, h.splits⟩
theorem aside_regs {r s : State} (h : Aside r s) (x : Tbl Word) : Aside r { s with regs := x } := ⟨h.mem, h.splits⟩

theorem aside_ite {c : Prop} [Decidable c] {r s t : State} (hs : Aside r s) (ht : Aside r t) :
    Aside r (if c then s else t) := by
  split
  · exact hs
  · exact ht

theorem aside_ite_fst {α : Type} {c : Prop} [Decidable c] {r : State} {x y : State × α} (hx : Aside r x.1)
    (hy : Aside r y.1) : Aside r (if c then x else y).1 := by
  split
  · exact hx
  · exact hy

theorem aside_foldState {α : Type} {r : State} {f : State → α → State} (hf : ∀ s a, Aside r s → Aside r (f s a))
    {s : State} (h : Aside r s) (l : List α) : Aside r (foldState f s l) := foldState_keeps (P := Aside r) hf h l

theorem aside_timesFrom {r : State} {f : State → Nat → State} (hf : ∀ s i, Aside r s → Aside r (f s i))
    {s : State} (h : Aside r s) (n i : Nat) : Aside r (timesFrom f n i s) := timesFrom_keeps (P := Aside r) hf h n i

end Sys2Proof.Machine
end

section
/-! The relation above, function by function: parts found, samples, events, ports and frames of the Ranoz link. -/
namespace Sys2Proof.Machine
open Sys2Proof.Claims

theorem aside_setReg {r s : State} (h : Aside r s) (r' : Reg) (v i j : Nat) : Aside r (s.setReg r' v i j) := by
  unfold State.setReg
  exact aside_regs h _

theorem aside_put {r s : State} (h : Aside r s) (f : Fld) (v i j : Nat) : Aside r (s.put f v i j) := by
  unfold State.put
  exact aside_setReg h _ _ _ _

theorem aside_putBit {r s : State} (h : Aside r s) (f : Fld) (b : Bool) (i j : Nat) : Aside r (s.putBit f b i j) := by
  unfold State.putBit
  exact aside_put h _ _ _ _

theorem aside_bumpBy {r s : State} (h : Aside r s) (f : Fld) (n i j : Nat) : Aside r (s.bumpBy f n i j) := by
  unfold State.bumpBy
  exact aside_put h _ _ _ _

theorem aside_bump {r s : State} (h : Aside r s) (f : Fld) (i j : Nat) : Aside r (s.bump f i j) := by
  unfold State.bump
  exact aside_bumpBy h _ _ _ _

theorem aside_bumpWrap {r s : State} (h : Aside r s) (f : Fld) (n i j : Nat) : Aside r (s.bumpWrap f n i j) := by
  unfold State.bumpWrap
  exact aside_put h _ _ _ _

theorem aside_peak {r s : State} (h : Aside r s) (f : Fld) (v i j : Nat) : Aside r (s.peak f v i j) := by
  unfold State.peak
  exact aside_put h _ _ _ _

theorem aside_requestIbi {r s : State} (h : Aside r s) : Aside r s.requestIbi := by
  unfold State.requestIbi
  exact aside_ite h (aside_ite (aside_i3c h _) (aside_i3c h _))

theorem aside_raise {r s : State} (h : Aside r s) (cause : Fld) : Aside r (s.raise cause) := by
  unfold State.raise
  exact aside_ite (aside_requestIbi (aside_put h _ _ _ _)) (aside_put h _ _ _ _)

theorem aside_emit {r s : State} (h : Aside r s) (chan : Nat) (packets : List (Nat × List Byte)) (bad : List Bool) :
    Aside r (s.emit chan packets bad) := by
  unfold State.emit
  exact aside_host h _

theorem aside_emitWords {r s : State} (h : Aside r s) (chan : Nat) (ws : List Word) : Aside r (s.emitWords chan ws)
    := by
  unfold State.emitWords
  exact aside_emit h _ _ _

theorem aside_tapKeep {r s : State} (h : Aside r s) (chan : Nat) (ps : List (Nat × List (Option Byte))) : Aside r
    (s.tapKeep chan ps).1 := by
  unfold State.tapKeep
  refine aside_ite_fst ?_ ?_
  · exact h
  · dsimp only
    exact aside_raise (aside_bump h _ _ _) _

theorem aside_sendTrace {r s : State} (h : Aside r s) (ws : List Word) : Aside r (s.sendTrace ws) := by
  unfold State.sendTrace
  exact aside_ite (aside_emitWords h _ _) (aside_host h _)

theorem aside_snapMerge {r s : State} (h : Aside r s) (n src : Nat) : Aside r (s.snapMerge n src) := by
  unfold State.snapMerge
  dsimp only
  split
  · exact aside_bump (aside_snap h _) _ _ _
  · exact h

theorem aside_snapTake {r s : State} (h : Aside r s) (src : Nat) : Aside r (s.snapTake src) := by
  unfold State.snapTake
  exact aside_snap (aside_bump (aside_putBit (aside_put (aside_bumpWrap h _ _ _ _) _ _ _ _) _ _ _ _) _ _ _) _

theorem aside_snapFire {r s : State} (h : Aside r s) (src : Nat) : Aside r (s.snapFire src).1 := by
  unfold State.snapFire
  dsimp only
  split
  · exact aside_snapMerge h _ _
  · refine aside_ite_fst ?_ ?_
    · dsimp only
      exact aside_snapMerge h _ _
    · refine aside_ite_fst ?_ ?_
      · dsimp only
        exact aside_bump h _ _ _
      · dsimp only
        exact aside_snapTake h _

theorem aside_snapIf {r s : State} (h : Aside r s) (src : Nat) : Aside r (s.snapIf src) := by
  unfold State.snapIf
  exact aside_ite (aside_snapFire h _) h

theorem aside_traceEvent {r s : State} (h : Aside r s) (src id : Nat) : Aside r (s.traceEvent src id) := by
  unfold State.traceEvent
  exact aside_ite (aside_ite (aside_sendTrace (aside_snap h _) _) (aside_bump (aside_snap h _) _ _ _)) h

theorem aside_event {r s : State} (h : Aside r s) (src id : Nat) : Aside r (s.event src id) := by
  unfold State.event
  exact aside_snapIf (aside_traceEvent h _ _) _

theorem aside_poisonConsumed {r s : State} (h : Aside r s) (id : Nat) : Aside r (s.poisonConsumed id) := by
  unfold State.poisonConsumed
  exact aside_event h _ _

theorem aside_sendTap {r s : State} (h : Aside r s) (chan : Nat) (head : Nat × List (Option Byte)) (ls : List (Nat ×
    List (Option Byte))) : Aside r (s.sendTap chan head ls) := by
  unfold State.sendTap
  exact aside_ite (aside_timesFrom (fun s i k => aside_poisonConsumed (aside_bump k _ _ _) _) (aside_emit h _ _ _) _
      _) h

theorem aside_setCredits {r s : State} (h : Aside r s) (vl n : Nat) : Aside r (s.setCredits vl n) := by
  unfold State.setCredits
  exact aside_put (aside_link h _) _ _ _ _

theorem aside_startFrame {r s : State} (h : Aside r s) (f : RzFrame) : Aside r (s.startFrame f) := by
  unfold State.startFrame
  exact aside_setCredits (aside_bumpBy (aside_link h _) _ _ _ _) _ _

theorem aside_pumpList {r s : State} (h : Aside r s) (l : List RzFrame) (blocked : List Nat) : Aside r (s.pumpList l
    blocked) := by
  induction l generalizing s blocked with
  | nil => exact h
  | cons f t ih =>
    unfold State.pumpList
    split
    · exact ih (aside_startFrame (aside_link h _) _) _
    · exact ih h _

theorem aside_pump {r s : State} (h : Aside r s) : Aside r s.pump := by
  unfold State.pump
  exact aside_ite (aside_pumpList h _ _) h

theorem aside_linkSend {r s : State} (h : Aside r s) (kind vl : Nat) (payload : List Word) (poison : List Nat) :
    Aside r (s.linkSend kind vl payload poison) := by
  unfold State.linkSend
  exact aside_pump (aside_link h _)

theorem aside_stored {r s : State} (h : Aside r s) (w : Nat) : Aside r (s.stored w) := by
  unfold State.stored
  exact aside_copies h _

theorem aside_own {r s : State} (h : Aside r s) (i owner inst : Nat) : Aside r (s.own i owner inst) := by
  unfold State.own
  exact aside_ite (aside_stored (aside_put (aside_put h _ _ _ _) _ _ _ _) _) (aside_put (aside_put h _ _ _ _) _ _ _ _)

theorem aside_setCam {r s : State} (h : Aside r s) (p : Nat) (c : CamPort) : Aside r (s.setCam p c) := by
  unfold State.setCam
  exact aside_cams h _

theorem aside_setBob {r s : State} (h : Aside r s) (id : Nat) (b : Bobbin) : Aside r (s.setBob id b) := by
  unfold State.setBob
  exact aside_bobs h _

theorem aside_setRule {r s : State} (h : Aside r s) (r' : Nat) (x : Rule) : Aside r (s.setRule r' x) := by
  unfold State.setRule
  exact aside_rules h _

theorem aside_setPipe {r s : State} (h : Aside r s) (q : Nat) (x : Pipe) : Aside r (s.setPipe q x) := by
  unfold State.setPipe
  exact aside_pipes h _

theorem aside_setPart {r s : State} (h : Aside r s) (p : Nat) (x : Partition) : Aside r (s.setPart p x) := by
  unfold State.setPart
  exact aside_sched h _

theorem aside_showPort {r s : State} (h : Aside r s) (p : Nat) : Aside r (s.showPort p) := by
  unfold State.showPort
  exact aside_putBit (aside_putBit h _ _ _ _) _ _ _ _

theorem aside_showPorts {r s : State} (h : Aside r s) : Aside r s.showPorts := by
  unfold State.showPorts
  exact aside_timesFrom (fun s i k => aside_showPort k _) h _ _

theorem aside_showSlots {r s : State} (h : Aside r s) (p : Nat) : Aside r (s.showSlots p) := by
  unfold State.showSlots
  exact aside_peak (aside_put h _ _ _ _) _ _ _ _

theorem aside_showOuts {r s : State} (h : Aside r s) (q : Nat) : Aside r (s.showOuts q) := by
  unfold State.showOuts
  exact aside_peak (aside_put h _ _ _ _) _ _ _ _

theorem aside_sweep {r s : State} (h : Aside r s) (p : Nat) : Aside r (s.sweep p) := by
  unfold State.sweep
  exact aside_showPort (aside_timesFrom (fun s i k => aside_showOuts k _) (aside_showSlots (aside_setCam h _ _) _) _
      _) _

theorem aside_mapLines {r s : State} (h : Aside r s) (p : Nat) (f : Line → Line) : Aside r (s.mapLines p f) := by
  unfold State.mapLines
  exact aside_sweep (aside_setCam h _ _) _

theorem aside_showReady {r s : State} (h : Aside r s) (p : Nat) : Aside r (s.showReady p) := by
  unfold State.showReady
  exact aside_peak (aside_put h _ _ _ _) _ _ _ _

theorem aside_wake {r s : State} (h : Aside r s) (id : Nat) : Aside r (s.wake id) := by
  unfold State.wake
  exact aside_ite (aside_showReady (aside_setPart (aside_setBob h _ _) _ _) _) h

theorem aside_closeInput {r s : State} (h : Aside r s) (id : Nat) : Aside r (s.closeInput id) := by
  unfold State.closeInput
  exact aside_ite (aside_setBob h _ _) h

theorem aside_placeFor {r s : State} (h : Aside r s) (p : Nat) (lo hi : Int) (id : Nat) : Aside r (s.placeFor p lo hi
    id) := by
  unfold State.placeFor
  exact aside_closeInput (aside_wake (aside_setBob h _ _) _) _

theorem aside_place {r s : State} (h : Aside r s) (p : Nat) (lo hi : Int) : Aside r (s.place p lo hi) := by
  unfold State.place
  exact aside_foldState (fun s a k => aside_placeFor k _ _ _ _) h _

theorem aside_markHole {r s : State} (h : Aside r s) (p id : Nat) : Aside r (s.markHole p id) := by
  unfold State.markHole
  exact aside_ite h (aside_setBob h _ _)

theorem aside_markStood {r s : State} (h : Aside r s) (id : Nat) : Aside r (s.markStood id) := by
  unfold State.markStood
  exact aside_setBob h _ _

theorem aside_addHole {r s : State} (h : Aside r s) (p : Nat) (lo hi : Int) : Aside r (s.addHole p lo hi) := by
  unfold State.addHole
  exact aside_ite h (aside_place (aside_foldState (fun s a k => aside_markHole k _ _) (aside_ite (aside_bump
      (aside_put (aside_setCam h _ _) _ _ _ _) _ _ _) (aside_put (aside_setCam h _ _) _ _ _ _)) _) _ _ _)

theorem aside_showBobs {r s : State} (h : Aside r s) : Aside r s.showBobs := by
  unfold State.showBobs
  exact aside_put (aside_put h _ _ _ _) _ _ _ _

theorem aside_mirror {r s : State} (h : Aside r s) (code : Nat) (ws : List Word) : Aside r (s.mirror code ws) := by
  unfold State.mirror
  exact aside_ite (aside_linkSend h _ _ _ _) h

theorem aside_fieldSend {r s : State} (h : Aside r s) (m : Msg) : Aside r (s.fieldSend m) := by
  unfold State.fieldSend
  exact aside_field h _

theorem aside_showPending {r s : State} (h : Aside r s) : Aside r s.showPending := by
  unfold State.showPending
  exact aside_putBit (aside_putBit h _ _ _ _) _ _ _ _

theorem aside_setField {r s : State} (h : Aside r s) (r' : Reg) (v i : Nat) : Aside r (s.setField r' v i) := by
  unfold State.setField
  exact aside_showPending (aside_ite (aside_setReg h _ _ _ _) (aside_fieldSend (aside_setReg h _ _ _ _) _))

theorem aside_putField {r s : State} (h : Aside r s) (f : Fld) (v i : Nat) : Aside r (s.putField f v i) := by
  unfold State.putField
  exact aside_setField h _ _ _

theorem aside_showTable {r s : State} (h : Aside r s) : Aside r s.showTable := by
  unfold State.showTable
  exact aside_peak (aside_put h _ _ _ _) _ _ _ _

theorem aside_sendEntry {r s : State} (h : Aside r s) (e : Nat) (d : DevEntry) (bobbin prov : Nat) (us : Bool) (width
    lead : Nat) (eject : Int) : Aside r (s.sendEntry e d bobbin prov us width lead eject) := by
  unfold State.sendEntry
  exact aside_showTable (aside_field (aside_fieldSend (aside_fieldSend (aside_fieldSend h _) _) _) _)

theorem aside_takeStored {r s : State} (h : Aside r s) (id p : Nat) : Aside r (s.takeStored id p) := by
  unfold State.takeStored
  exact aside_foldState (fun s a k => aside_placeFor k _ _ _ _) (aside_setCam h _ _) _

theorem aside_takeHoles {r s : State} (h : Aside r s) (id p : Nat) : Aside r (s.takeHoles id p) := by
  unfold State.takeHoles
  dsimp only
  split
  · exact aside_ite (aside_ite (aside_placeFor (aside_markHole (aside_markStood (aside_foldState (fun s a k =>
        aside_ite (aside_placeFor (aside_markHole k _ _) _ _ _ _) k) h _) _) _ _) _ _ _ _) (aside_markStood
        (aside_foldState (fun s a k => aside_ite (aside_placeFor (aside_markHole k _ _) _ _ _ _) k) h _) _))
        (aside_foldState (fun s a k => aside_ite (aside_placeFor (aside_markHole k _ _) _ _ _ _) k) h _)
  · exact aside_foldState (fun s a k => aside_ite (aside_placeFor (aside_markHole k _ _) _ _ _ _) k) h _

theorem aside_takeFloor {r s : State} (h : Aside r s) (id p : Nat) : Aside r (s.takeFloor id p) := by
  unfold State.takeFloor
  dsimp only
  split
  · exact aside_ite (aside_placeFor (aside_markHole (aside_setBob h _ _) _ _) _ _ _ _) (aside_setBob h _ _)
  · exact h

theorem aside_untracked {r s : State} (h : Aside r s) : Aside r s.untracked := by
  unfold State.untracked
  exact aside_raise (aside_bump h _ _ _) _

theorem aside_tapCount {r s : State} (h : Aside r s) (e : TapSet) : Aside r (s.tapCount e).1 := by
  unfold State.tapCount
  exact aside_setPipe h _ _

theorem aside_tapCreated {r s : State} (h : Aside r s) (id p : Nat) (e : TapSet) : Aside r (s.tapCreated id p e) := by
  unfold State.tapCreated
  exact aside_ite (aside_ite (aside_setPipe (aside_tapCount h _) _ _) (aside_tapCount h _)) h

theorem aside_tapsCreated {r s : State} (h : Aside r s) (id : Nat) : Aside r (s.tapsCreated id) := by
  unfold State.tapsCreated
  exact aside_foldState (fun s a k => aside_foldState (fun s a k' => aside_tapCreated k' _ _ _) k _) h _

theorem aside_createBob {r s : State} (h : Aside r s) (r' id e : Nat) (wstart : Int) : Aside r (s.createBob r' id e
    wstart) := by
  unfold State.createBob
  exact aside_mirror (aside_tapsCreated (aside_foldState (fun s a k => aside_takeStored (aside_takeHoles
      (aside_takeFloor k _ _) _ _) _ _) (aside_sendEntry (aside_showBobs (aside_put (aside_setBob (aside_lastBob h _)
      _ _) _ _ _ _)) _ _ _ _ _ _ _ _) _) _) _ _

theorem aside_partFound {r s : State} (h : Aside r s) (r' : Nat) (c : Int) : Aside r (s.partFound r' c) := by
  unfold State.partFound
  refine aside_ite ?_ ?_
  · exact h
  · refine aside_ite ?_ ?_
    · exact aside_untracked h
    · split
      · exact aside_createBob h _ _ _ _
      · exact aside_untracked h

theorem aside_releaseTaps {r s : State} (h : Aside r s) (p : Nat) : Aside r (s.releaseTaps p) := by
  unfold State.releaseTaps
  exact aside_mapLines h _ _

theorem aside_tapsTake {r s : State} (h : Aside r s) (p : Nat) : Aside r (s.tapsTake p) := by
  unfold State.tapsTake
  dsimp only
  refine aside_releaseTaps ?_ _
  refine aside_setCam ?_ _ _
  refine aside_timesFrom (fun s i k => ?_) h _ _
  refine aside_timesFrom (fun s i k' => ?_) k _ _
  split
  · exact aside_ite (aside_put (aside_setPipe k' _ _) _ _ _ _) k'
  · exact k'

theorem aside_endRawTaps {r s : State} (h : Aside r s) (b : Block) : Aside r (s.endRawTaps b) := by
  unfold State.endRawTaps
  exact aside_foldState (fun s a k => aside_sendTap (aside_setPipe k _ _) _ _ _) h _

theorem aside_probeEdge {r s : State} (h : Aside r s) (r' : Nat) (c : Int) (safe : Bool) : Aside r (s.probeEdge r' c
    safe) := by
  unfold State.probeEdge
  exact aside_ite (aside_bump h _ _ _) (aside_ite (aside_ite (aside_setRule h _ _) (aside_untracked (aside_setRule h
      _ _))) (aside_partFound (aside_setRule h _ _) _ _))

theorem aside_latchTaken {r s : State} (h : Aside r s) (i enc low : Nat) (safe : Bool) : Aside r (s.latchTaken i enc
    low safe) := by
  unfold State.latchTaken
  split
  · exact aside_probeEdge h _ _ _
  · exact aside_ite h (aside_untracked h)
  · exact h

theorem aside_pitchStep {r s : State} (h : Aside r s) (r' : Nat) : Aside r (s.pitchStep r') := by
  unfold State.pitchStep
  dsimp only
  split
  · exact aside_ite (aside_partFound (aside_setRule h _ _) _ _) h
  · exact h

theorem aside_findDue {r s : State} (h : Aside r s) (r' : Nat) : Aside r (s.findDue r') := by
  unfold State.findDue
  dsimp only
  refine aside_timesFrom (fun s i k => aside_pitchStep k _) ?_ _ _
  refine aside_foldState (fun s a k => ?_) (aside_field h _) _
  split
  · exact aside_latchTaken k _ _ _ _
  · exact k

end Sys2Proof.Machine
end

section
/-! Provisional actions, class maps and part-finder rules (R27, R28, R126, R132, R135). -/
namespace Sys2Proof.Machine
open Sys2Proof.Claims

/-! ### Which ports are named, shown -/

/-- What showing the camera ports writes: their records, and registers above the owners of the probe inputs and below the
bobbins' registers. -/
structure PortsShown (s t : State) : Prop where
  only : t = { s with regs := t.regs, cams := t.cams }
  regs : ∀ a, (a < 0x3F000004B4 ∨ 0x3F00900000 ≤ a) → tget? t.regs a = tget? s.regs a

namespace PortsShown
variable {r s t : State}

theorem refl (s : State) : PortsShown s s := ⟨rfl, fun _ _ => rfl⟩

theorem trans (h : PortsShown r s) (k : PortsShown s t) : PortsShown r t :=
  ⟨k.only.trans (by rw [h.only]), fun a ha => (k.regs a ha).trans (h.regs a ha)⟩

theorem put (s : State) (f : Fld) (v i : Nat) (hlo : 0x3F000004B4 ≤ f.reg.addr i 0) (hhi : f.reg.addr i 0 < 0x3F00900000) :
    PortsShown s (s.put f v i) :=
  ⟨rfl, fun a ha => tget?_setReg _ _ _ _ _ _ (by omega)⟩

theorem setCam (s : State) (p : Nat) (x : CamPort) : PortsShown s (s.setCam p x) := ⟨rfl, fun _ _ => rfl⟩

theorem showPort (s : State) {p : Nat} (hp : p < 17) : PortsShown s (s.showPort p) := by
  have h1 : F.CAM_CTRL_QUIET.reg.addr p 0 = 0x3F00700000 + p * 0x100 + 0 * 0 := rfl
  have h2 : F.SYS_OWN_IN_USE.reg.addr (45 + p) 0 = 0x3F00000400 + (45 + p) * 0x4 + 0 * 0 := rfl
  unfold State.showPort State.putBit
  exact (put _ _ _ _ (by omega) (by omega)).trans (put _ _ _ _ (by omega) (by omega))

theorem showSlots (s : State) {p : Nat} (hp : p < 17) : PortsShown s (s.showSlots p) := by
  have h1 : F.CAM_LS_USED_USED.reg.addr p 0 = F.CAM_LS_USED_USED.reg.base + p * 0x100 + 0 * 0 := rfl
  have h2 : F.CAM_LS_PEAK_PEAK.reg.addr p 0 = F.CAM_LS_PEAK_PEAK.reg.base + p * 0x100 + 0 * 0 := rfl
  have hb : 0x3F00700000 ≤ F.CAM_LS_USED_USED.reg.base ∧ F.CAM_LS_USED_USED.reg.base < 0x3F00700100 ∧
    0x3F00700000 ≤ F.CAM_LS_PEAK_PEAK.reg.base ∧ F.CAM_LS_PEAK_PEAK.reg.base < 0x3F00700100 := by decide
  unfold State.showSlots State.peak
  exact (put _ _ _ _ (by omega) (by omega)).trans (put _ _ _ _ (by omega) (by omega))

theorem showOuts (s : State) {q : Nat} (hq : q < 4) : PortsShown s (s.showOuts q) := by
  have h1 : F.PIPE_OUT_USED_USED.reg.addr q 0 = F.PIPE_OUT_USED_USED.reg.base + q * 0x1000 + 0 * 0 := rfl
  have h2 : F.PIPE_OUT_USED_PEAK.reg.addr q 0 = F.PIPE_OUT_USED_PEAK.reg.base + q * 0x1000 + 0 * 0 := rfl
  have hb : 0x3F00800000 ≤ F.PIPE_OUT_USED_USED.reg.base ∧ F.PIPE_OUT_USED_USED.reg.base < 0x3F00801000 ∧
    0x3F00800000 ≤ F.PIPE_OUT_USED_PEAK.reg.base ∧ F.PIPE_OUT_USED_PEAK.reg.base < 0x3F00801000 := by decide
  unfold State.showOuts State.peak
  exact (put _ _ _ _ (by omega) (by omega)).trans (put _ _ _ _ (by omega) (by omega))

theorem sweep (s : State) {p : Nat} (hp : p < 17) : PortsShown s (s.sweep p) := by
  unfold State.sweep
  dsimp only
  refine trans ?_ (showPort _ hp)
  exact timesFrom_keeps_below (P := PortsShown s) (fun u q hq hu => hu.trans (showOuts u (by omega)))
    ((setCam s p _).trans (showSlots _ hp))

theorem showPorts (s : State) : PortsShown s s.showPorts :=
  timesFrom_keeps_below (P := PortsShown s) (fun u p hp hu => hu.trans (showPort u (by omega))) (refl s)

theorem sweepAll (s : State) : PortsShown s (foldState (fun v p => v.sweep p) s (List.range 17)).showPorts := by
  have h : ∀ (l : List Nat) (u : State), (∀ p ∈ l, p < 17) → PortsShown u (foldState (fun v p => v.sweep p) u l) := by
    intro l
    induction l with
    | nil => exact fun u _ => refl u
    | cons p l ih =>
      exact fun u hl => (sweep u (hl p (by simp))).trans (ih _ fun q hq => hl q (by simp [hq]))
  exact (h _ _ (by simp)).trans (showPorts _)

theorem reg_same (h : PortsShown s t) (q : Reg) (i : Nat) (hq : q.addr i 0 < 0x3F000004B4 ∨ 0x3F00900000 ≤ q.addr i 0) :
    t.reg q i = s.reg q i := by rw [State.reg, State.reg, h.regs _ hq]

theorem get_same (h : PortsShown s t) (g : Fld) (i : Nat) (hq : g.reg.addr i 0 < 0x3F000004B4 ∨ 0x3F00900000 ≤ g.reg.addr i 0) :
    t.get g i = s.get g i := by rw [State.get, State.get, h.reg_same _ _ hq]

theorem splits (h : PortsShown s t) : t.splits = s.splits := by rw [h.only]

theorem owner (h : PortsShown s t) {i : Nat} (hi : i < 45) : t.owner i = s.owner i ∧ t.ownerInst i = s.ownerInst i := by
  have hreg : t.reg R.SYS_OWN i = s.reg R.SYS_OWN i :=
    h.reg_same _ _ (.inl (by show 0x3F00000400 + i * 4 + 0 * 0 < 0x3F000004B4; omega))
  have hown : t.ownReg i = s.ownReg i := by unfold State.ownReg State.splitWord; rw [h.splits, hreg]
  exact ⟨by rw [State.owner, hown, State.owner], by rw [State.ownerInst, hown, State.ownerInst]⟩

end PortsShown

theorem State.showPorts_only (s : State) : s.showPorts = { s with regs := s.showPorts.regs } :=
  timesFrom_keeps (P := fun u : State => u = { s with regs := u.regs }) (fun u p hu => by
    have h := u.showPort_only p
    generalize u.showPort p = v at h
    rw [h, hu]) rfl 17 0

theorem ruleReg_high (i : Nat) : 0x3F00900000 ≤ R.BOB_RULE_CTRL.addr i 0 := by
  show 0x3F00900000 ≤ 0x3F00900100 + i * 8 + 0 * 0
  omega

/-! ### CMD_FINDER_ENABLE -/

/-- The record of a rule that CMD_FINDER_ENABLE sets. -/
def State.newRule (s : State) (c : Cmd) : Rule :=
  { detail := c.p 2, offset := signed 32 (c.p 4), wlen := c.p 5, hold := s.get F.BOB_RULE_AUX_HOLD c.target
    next := s.firstPitch (bitsOf (c.p 1) 0 2) (bitsOf (c.p 3) 0 1) (c.p 2) }

/-- The rule's register and its record. -/
def State.ruleSet (s : State) (c : Cmd) : State := (s.setReg R.BOB_RULE_CTRL (ruleWord c) c.target).setRule c.target (s.newRule c)

theorem State.ruleSet_only (s : State) (c : Cmd) : s.ruleSet c = { s with regs := (s.ruleSet c).regs, rules := (s.ruleSet c).rules } := rfl

theorem ruleWord_lt (c : Cmd) : ruleWord c < 2 ^ 32 := by
  have h1 : bitsOf (c.p 1) 0 2 < 2 ^ 2 := bitsOf_lt _ _ _
  have h2 : bitsOf (c.p 3) 0 1 < 2 ^ 1 := bitsOf_lt _ _ _
  have h3 : bitsOf (c.p 6) 0 4 < 2 ^ 4 := bitsOf_lt _ _ _
  have h4 : bitsOf (c.p 6) 8 4 < 2 ^ 4 := bitsOf_lt _ _ _
  have h5 : bitsOf (c.p 6) 16 3 < 2 ^ 3 := bitsOf_lt _ _ _
  have h6 : bitsOf (c.p 3) 8 17 < 2 ^ 17 := bitsOf_lt _ _ _
  unfold ruleWord
  omega

theorem State.ruleSet_reg (s : State) (c : Cmd) : (s.ruleSet c).reg R.BOB_RULE_CTRL c.target = ruleWord c := by
  rw [State.reg_congr (t := s.ruleSet c) (s := s.setReg R.BOB_RULE_CTRL (ruleWord c) c.target) rfl, State.reg_setReg]
  exact Nat.mod_eq_of_lt (ruleWord_lt c)

theorem State.ruleSet_rule (s : State) (c : Cmd) : (s.ruleSet c).rule c.target = s.newRule c := by
  unfold State.ruleSet State.rule State.setRule tgetD
  rw [tget?_tset_same]

theorem execCmdFinderEnable_eq (src : Source) (s : State) : execCmdFinderEnable src s = runCmd s src 0x0302 fun s c =>
    if !finderOk c then refuse s .badParam
    else if s.on F.BOB_RULE_CTRL_EN c.target then refuse s .badState
    else if !s.boot.provWritten then refuse s .badState
    else if s.laneCfg F.BOB_LANE_CFG_SET (bitsOf (c.p 6) 0 4) = 0 then refuse s .badState
    else if !s.feedsOk c then refuse s .badState
    else if bitsOf (c.p 1) 0 2 = 0 ∧ s.heldByOther (bitsOf (c.p 2) 0 2) ownProbe c.target = true then refuse s .resourceHeld
    else doneWith (if bitsOf (c.p 1) 0 2 = 0 then (s.ruleSet c).takeProbe c.target c else s.ruleSet c).showPorts := rfl

/-- A rule whose checks hold: what remains to be checked is who holds the probe input. -/
theorem ends_finderEnable {s t : State} {src : Source} {c : Cmd} {st : Status} (hs : Starts s src 0x0302 c) (hok : finderOk c = true)
    (hen : s.on F.BOB_RULE_CTRL_EN c.target = false) (hprov : s.boot.provWritten = true)
    (hlane : (s.dropOldest src).laneCfg F.BOB_LANE_CFG_SET (c.p 6 % 16) ≠ 0) (hfeeds : (s.dropOldest src).feedsOk c = true)
    (ht : (if c.p 1 % 4 = 0 ∧ s.heldByOther (c.p 2 % 4) ownProbe c.target = true then refuse (s.dropOldest src) .resourceHeld
      else doneWith (if c.p 1 % 4 = 0 then ((s.dropOldest src).ruleSet c).takeProbe c.target c else (s.dropOldest src).ruleSet c).showPorts) =
        (t, .final st [])) : Ends (.cmdFinderEnable src) s t src c st := by
  have hb : ∀ x : Nat, bitsOf x 0 2 = x % 4 ∧ bitsOf x 0 4 = x % 16 := fun x => by simp [bitsOf]
  refine ends_runCmd hs (execCmdFinderEnable_eq src s) ?_
  rw [if_neg (by rw [hok]; decide), if_neg (by rw [show (s.dropOldest src).on F.BOB_RULE_CTRL_EN c.target = false from hen]; decide),
    if_neg (by rw [show (s.dropOldest src).boot.provWritten = true from hprov]; decide), if_neg (by rw [(hb _).2]; exact hlane),
    if_neg (by rw [hfeeds]; decide), (hb _).1, (hb _).1]
  exact ht

theorem State.takeProbe_shows {s : State} {c : Cmd} (hc : c.target < 16) (hs : s.splits = [])
    (hreg : s.reg R.BOB_RULE_CTRL c.target = ruleWord c) :
    (s.takeProbe c.target c).on F.BOB_RULE_CTRL_EN c.target = true ∧ (s.takeProbe c.target c).owner (c.p 2 % 4) = ownProbe ∧
    (s.takeProbe c.target c).ownerInst (c.p 2 % 4) = c.target := by
  have hi : c.p 2 % 4 < 4 := Nat.mod_lt _ (by decide)
  have hb : bitsOf (c.p 2) 0 2 = c.p 2 % 4 := by simp [bitsOf]
  unfold State.takeProbe
  dsimp only
  rw [hb]
  generalize c.p 2 % 4 = i at hi
  obtain ⟨ho, hn⟩ := s.get_own i ownProbe c.target
  have hsp := (s.own_splits i ownProbe c.target).trans hs
  have hrule : (s.own i ownProbe c.target).get F.BOB_RULE_CTRL_EN c.target = 1 := by
    rw [State.get_congr (s.own_regs _ _ _), State.get_put_above _ _ _ _ (by decide) (show i < 62 by omega),
      State.get_put_above _ _ _ _ (by decide) (show i < 62 by omega), State.get]
    show bitsOf (s.reg R.BOB_RULE_CTRL c.target) 0 1 = 1
    rw [hreg]
    unfold ruleWord bitsOf
    omega
  generalize s.own i ownProbe c.target = u at ho hn hsp hrule
  have hsplit : ∀ v, (u.setField R.FIELD_PROBE_CFG v).splits = [] := fun v => (u.setField_splits _ _ _).trans hsp
  rw [State.owner_unsplit (hsplit _), State.ownerInst_unsplit (hsplit _), State.on,
    State.get_setField (g := F.BOB_RULE_CTRL_EN) _ _ _ hc (by decide) (by decide),
    State.get_setField (g := F.SYS_OWN_OWNER) _ _ _ (show i < 62 by omega) (by decide) (by decide),
    State.get_setField (g := F.SYS_OWN_INSTANCE) _ _ _ (show i < 62 by omega) (by decide) (by decide), hrule]
  exact ⟨rfl, ho, hn.trans (Nat.mod_eq_of_lt (by omega))⟩

/-! ### CMD_FINDER_DISABLE -/

/-- A rule that is taken back, its probe input with it. -/
def State.ruleOff (s : State) (r : Nat) (probe : Bool) (i : Nat) : State :=
  let t := s.putBit F.BOB_RULE_CTRL_EN false r
  if probe then (t.own i ownNone 0).putField (F.FIELD_PROBE_CFG_EN i) 0 else t

theorem State.ruleOff_only (s : State) (r : Nat) (probe : Bool) (i : Nat) : s.ruleOff r probe i =
    { s with regs := (s.ruleOff r probe i).regs, field := (s.ruleOff r probe i).field, copies := (s.ruleOff r probe i).copies } := by
  unfold State.ruleOff
  dsimp only
  split
  · have h := (s.putBit F.BOB_RULE_CTRL_EN false r).own_only i ownNone 0
    generalize (s.putBit F.BOB_RULE_CTRL_EN false r).own i ownNone 0 = u at h
    unfold State.putField
    have hf := u.setField_only (F.FIELD_PROBE_CFG_EN i).reg
      (setBits (u.reg (F.FIELD_PROBE_CFG_EN i).reg) (F.FIELD_PROBE_CFG_EN i).lo (F.FIELD_PROBE_CFG_EN i).width 0) 0
    generalize u.setField _ _ _ = v at hf
    rw [hf, h]; rfl
  · rfl

theorem State.ruleOff_shows (s : State) {r : Nat} (hr : r < 16) (probe : Bool) {i : Nat} (hi : i < 4) :
    (s.ruleOff r probe i).on F.BOB_RULE_CTRL_EN r = false ∧
    (probe = true → s.splits = [] → (s.ruleOff r probe i).owner i = ownNone) := by
  have hen : (s.putBit F.BOB_RULE_CTRL_EN false r).get F.BOB_RULE_CTRL_EN r = 0 := State.get_put _ _ _ _ _ (by decide)
  cases probe with
  | false => exact ⟨by show ((s.putBit F.BOB_RULE_CTRL_EN false r).get F.BOB_RULE_CTRL_EN r != 0) = false; rw [hen]; rfl, nofun⟩
  | true =>
    have hoff : s.ruleOff r true i = ((s.putBit F.BOB_RULE_CTRL_EN false r).own i ownNone 0).setField R.FIELD_PROBE_CFG
      (setBits (((s.putBit F.BOB_RULE_CTRL_EN false r).own i ownNone 0).reg R.FIELD_PROBE_CFG) (F.FIELD_PROBE_CFG_EN i).lo
        (F.FIELD_PROBE_CFG_EN i).width 0) 0 := rfl
    rw [hoff]
    have hsp : ((s.putBit F.BOB_RULE_CTRL_EN false r).own i ownNone 0).splits = s.splits := State.own_splits _ _ _ _
    obtain ⟨ho, -⟩ := (s.putBit F.BOB_RULE_CTRL_EN false r).get_own i ownNone 0
    have hget : ((s.putBit F.BOB_RULE_CTRL_EN false r).own i ownNone 0).get F.BOB_RULE_CTRL_EN r = 0 := by
      rw [State.get_congr (State.own_regs _ _ _ _), State.get_put_above _ _ _ _ (by decide) (show i < 62 by omega),
        State.get_put_above _ _ _ _ (by decide) (show i < 62 by omega), hen]
    generalize (s.putBit F.BOB_RULE_CTRL_EN false r).own i ownNone 0 = u at ho hget hsp
    refine ⟨?_, fun _ hs => ?_⟩
    · rw [State.on, State.get_setField (g := F.BOB_RULE_CTRL_EN) _ _ _ hr (by decide) (by decide), hget]; rfl
    · rw [State.owner_unsplit ((State.setField_splits _ _ _ _).trans (hsp.trans hs)),
        State.get_setField (g := F.SYS_OWN_OWNER) _ _ _ (show i < 62 by omega) (by decide) (by decide)]
      exact ho

theorem execCmdFinderDisable_eq (src : Source) (s : State) : execCmdFinderDisable src s = runCmd s src 0x0303 fun s c =>
    if !s.on F.BOB_RULE_CTRL_EN c.target then refuse s .badState
    else if s.bobs.any fun e => e.2.rule == c.target && e.2.state == .arming then refuse s .busy
    else doneWith (foldState (fun v p => v.sweep p) ((s.findDue c.target).ruleOff c.target
      (decide (s.get F.BOB_RULE_CTRL_SOURCE c.target = 0)) (bitsOf (s.rule c.target).detail 0 2)) (List.range 17)).showPorts := by
  unfold execCmdFinderDisable State.ruleOff
  simp only [decide_eq_true_eq]

theorem hasReserved_of {v i : Nat} (hi : i < 16) (h : (v / 2 ^ (2 * i)) % 4 = 3) : hasReserved v = true :=
  List.any_eq_true.mpr ⟨i, List.mem_range.mpr hi, by simpa [bitsOf] using h⟩

/-- Settles O26: enabling by the order of its checks, and disabling by what the ports' sweep leaves. -/
theorem ruleCommands : Obligations.RuleCommands := by
  unfold Obligations.RuleCommands
  refine ⟨?prov, ?reserved, ?classMap, ?refused, ?noTable, ?enable, ?disabled, ?arming, ?disable⟩
  case prov =>
    exact fun s src c hs h => ends_runCmd hs (show execCmdProvTableSet src s = _ from rfl) (if_neg (by rw [h]; decide))
  case reserved =>
    intro s src c i hi h
    exact ⟨fun hs => ends_runCmd hs (show execCmdProvTableSet src s = _ from rfl) (if_pos (hasReserved_of hi h)),
      fun hs => ends_runCmd hs (show execCmdClassMapSet src s = _ from rfl) (if_pos (hasReserved_of hi h))⟩
  case classMap =>
    exact fun s src c hs h => ends_runCmd hs (show execCmdClassMapSet src s = _ from rfl) (if_neg (by rw [h]; decide))
  case refused =>
    intro s src c hs
    refine ⟨fun h => ends_runCmd hs (execCmdFinderEnable_eq src s) (if_pos (by rw [h]; rfl)), fun hok h => ?_⟩
    refine ends_runCmd hs (execCmdFinderEnable_eq src s) ((if_neg (by rw [hok]; decide)).trans ?_)
    have hb : bitsOf (c.p 6) 0 4 = c.p 6 % 16 := by simp [bitsOf]
    rw [hb]
    split
    · rfl
    · rename_i hen
      split
      · rfl
      · split
        · rfl
        · rename_i hlane
          rcases h with h | h | h
          · exact absurd h hen
          · exact absurd h hlane
          · exact if_pos (by rw [h]; rfl)
  case noTable =>
    intro s src c hs hok hen hprov
    refine ends_runCmd hs (execCmdFinderEnable_eq src s) ((if_neg (by rw [hok]; decide)).trans ((if_neg ?_).trans (if_pos ?_)))
    · rw [show (s.dropOldest src).on F.BOB_RULE_CTRL_EN c.target = false from hen]; decide
    · rw [show (s.dropOldest src).boot.provWritten = false from hprov]; rfl
  case enable =>
    intro s src c hs hc hok hen hprov hlane hfeeds
    have hplain : c.p 1 % 4 ≠ 0 → ∃ t, Ends (.cmdFinderEnable src) s t src c .done ∧
        t = { s.dropOldest src with regs := t.regs, rules := t.rules } ∧ t.reg R.BOB_RULE_CTRL c.target = ruleWord c ∧
        t.rule c.target = (s.dropOldest src).newRule c := by
      intro hsrc
      have hends := ends_finderEnable (t := ((s.dropOldest src).ruleSet c).showPorts) (st := .done) hs hok hen hprov hlane hfeeds
        (by rw [if_neg (fun h => hsrc h.1), if_neg hsrc, doneWith_eq])
      have honly := (s.dropOldest src).ruleSet_only c
      have hreg := (s.dropOldest src).ruleSet_reg c
      have hrule := (s.dropOldest src).ruleSet_rule c
      generalize (s.dropOldest src).ruleSet c = u at hends honly hreg hrule
      have hshown := (PortsShown.showPorts u).reg_same R.BOB_RULE_CTRL c.target (.inr (ruleReg_high _))
      have hfr := u.showPorts_only
      generalize u.showPorts = t at hends hshown hfr
      refine ⟨t, hends, by rw [hfr, honly], hshown.trans hreg, ?_⟩
      have hrules : t.rules = u.rules := by rw [hfr]
      rw [State.rule, hrules]; exact hrule
    have hb : ∀ x : Nat, bitsOf x 0 2 = x % 4 ∧ bitsOf x 0 1 = x % 2 := fun x => by simp [bitsOf]
    refine ⟨fun h2 => ?_, fun h1 => ?_, fun h0 hsp hfree => ?_, fun h0 hheld => ?_⟩
    · obtain ⟨t, hends, honly, hreg, hrule⟩ := hplain (by omega)
      refine ⟨t, hends, honly, hreg, by rw [hrule]; rfl, by rw [hrule]; rfl, by rw [hrule]; rfl, ?_⟩
      rw [hrule, State.newRule, (hb _).1, (hb _).2, h2]
      rfl
    · obtain ⟨t, hends, honly, hreg, hrule⟩ := hplain (by omega)
      refine ⟨t, hends, honly, hreg, by rw [hrule]; rfl, by rw [hrule]; rfl, by rw [hrule]; rfl, ?_⟩
      rw [hrule, State.newRule, (hb _).1, h1]
      rfl
    · have hends := ends_finderEnable (t := (((s.dropOldest src).ruleSet c).takeProbe c.target c).showPorts) (st := .done) hs hok hen hprov hlane hfeeds
        (by rw [if_neg (by rw [hfree]; simp), if_pos h0, doneWith_eq])
      obtain ⟨hon, how, hin⟩ := State.takeProbe_shows (s := (s.dropOldest src).ruleSet c) hc hsp ((s.dropOldest src).ruleSet_reg c)
      have hshown := PortsShown.showPorts (((s.dropOldest src).ruleSet c).takeProbe c.target c)
      obtain ⟨ho, hi⟩ := hshown.owner (i := c.p 2 % 4) (by omega)
      refine ⟨_, hends, ?_, ho.trans how, hi.trans hin⟩
      rw [State.on, hshown.get_same _ _ (.inr (ruleReg_high _))]
      exact hon
    · exact ends_finderEnable hs hok hen hprov hlane hfeeds (if_pos ⟨h0, hheld⟩)
  case disabled =>
    intro s src c hs h
    refine ends_runCmd hs (execCmdFinderDisable_eq src s) (if_pos ?_)
    rw [show (s.dropOldest src).on F.BOB_RULE_CTRL_EN c.target = false from h]; rfl
  case arming =>
    rintro s src c hs hen ⟨e, he, hr, hst⟩
    refine ends_runCmd hs (execCmdFinderDisable_eq src s) ((if_neg ?_).trans (if_pos ?_))
    · rw [show (s.dropOldest src).on F.BOB_RULE_CTRL_EN c.target = true from hen]; decide
    · exact List.any_eq_true.mpr ⟨e, he, by rw [hr, hst]; simp⟩
  case disable =>
    intro s src c hs hc hen hno
    have hi : bitsOf (s.rule c.target).detail 0 2 < 4 := bitsOf_lt _ _ _
    have hnone : ((s.dropOldest src).bobs.any fun e => e.2.rule == c.target && e.2.state == .arming) = false := by
      rw [List.any_eq_false]
      intro e he h
      rw [Bool.and_eq_true, beq_iff_eq, beq_iff_eq] at h
      exact hno e he h
    have hends : Ends (.cmdFinderDisable src) s _ src c .done := ends_runCmd hs (execCmdFinderDisable_eq src s)
      ((if_neg (by rw [show (s.dropOldest src).on F.BOB_RULE_CTRL_EN c.target = true from hen]; decide)).trans
        (if_neg (by rw [hnone]; decide)))
    have hrule : (s.dropOldest src).rule c.target = s.rule c.target := rfl
    have hsource : (s.dropOldest src).get F.BOB_RULE_CTRL_SOURCE c.target = s.get F.BOB_RULE_CTRL_SOURCE c.target := rfl
    rw [hrule, hsource] at hends
    have haside := aside_findDue (aside_refl (s.dropOldest src)) c.target
    generalize (s.dropOldest src).findDue c.target = f at hends haside ⊢
    generalize bitsOf (s.rule c.target).detail 0 2 = i at hends hi ⊢
    generalize hprobe : decide (s.get F.BOB_RULE_CTRL_SOURCE c.target = 0) = probe at hends
    obtain ⟨hoff, hown⟩ := f.ruleOff_shows hc probe hi
    have honly := f.ruleOff_only c.target probe i
    generalize f.ruleOff c.target probe i = u at hends hoff hown honly
    have hshown := PortsShown.sweepAll u
    generalize (foldState (fun v p => v.sweep p) u (List.range 17)).showPorts = t at hends hshown
    refine ⟨t, hends, ?_, ?_, ?_, fun h0 hsp => ?_⟩
    · rw [State.on, hshown.get_same _ _ (.inr (ruleReg_high _))]; exact hoff
    · rw [hshown.only, honly]
    · rw [hshown.only, honly]; exact haside.mem
    · exact (hshown.owner (by omega)).1.trans (hown (hprobe ▸ decide_eq_true h0) (haside.splits.trans hsp))

end Sys2Proof.Machine
end

section
/-! The pipe commands (R102, R114, R118, R121). -/
namespace Sys2Proof.Machine
open Sys2Proof.Claims

/-! ### Showing the ports, seen from the pipes' registers -/

theorem State.showPorts_high (s : State) {a : Nat} (ha : 0x3F00701200 ≤ a) : tget? s.showPorts.regs a = tget? s.regs a := by
  refine timesFrom_keeps_below (P := fun u : State => tget? u.regs a = tget? s.regs a) (fun u p hp hu => ?_) rfl
  have h1 : F.CAM_CTRL_QUIET.reg.addr p 0 = 0x3F00700000 + p * 0x100 + 0 * 0 := rfl
  have h2 : F.SYS_OWN_IN_USE.reg.addr (45 + p) 0 = 0x3F00000400 + (45 + p) * 0x4 + 0 * 0 := rfl
  refine Eq.trans ?_ hu
  exact (tget?_setReg _ _ _ _ _ _ (by omega)).trans (tget?_setReg _ _ _ _ _ _ (by omega))

theorem State.showPorts_reg (s : State) {q : Reg} (hq : 0x3F00701200 ≤ q.base) (i j : Nat) : s.showPorts.reg q i j = s.reg q i j := by
  rw [State.reg, State.reg, s.showPorts_high (by unfold Reg.addr; omega)]

theorem State.showPorts_get (s : State) {g : Fld} (hg : 0x3F00701200 ≤ g.reg.base) (i j : Nat) : s.showPorts.get g i j = s.get g i j := by
  rw [State.get, State.get, s.showPorts_reg hg]

/-! ### CMD_PIPE_CONFIG -/

/-- The registers of a pipe as CMD_PIPE_CONFIG writes them. -/
def State.pipeRegs (s : State) (c : Cmd) : State :=
  ((((((s.put F.PIPE_CTRL_INLINE (c.p 1) c.target).put F.PIPE_CTRL_TM_MASK (c.p 2) c.target).put F.PIPE_STAGES_EN (c.p 3) c.target).put
    F.PIPE_STAGES_CFA (c.p 3 / 2 ^ 8) c.target).put F.PIPE_DM_THRESH_T (c.p 4) c.target).put F.PIPE_OUT_FMT_FMT (c.p 5) c.target).put
    F.PIPE_OUT_FMT_MATRIX_SEL (c.p 6) c.target

/-- A pipe as CMD_PIPE_CONFIG leaves it. -/
def State.pipeSet (s : State) (c : Cmd) : State :=
  (s.pipeRegs c).setPipe c.target { s.pipe c.target with store := some (s.storeRegs c.target) }

theorem State.pipeSet_only (s : State) (c : Cmd) : s.pipeSet c = { s with regs := (s.pipeSet c).regs, pipes := (s.pipeSet c).pipes } := rfl

theorem State.pipeSet_store (s : State) (c : Cmd) : ((s.pipeSet c).pipe c.target).store = some (s.storeRegs c.target) :=
  congrArg Pipe.store (State.pipe_setPipe _ _ _)

theorem State.pipeSet_pipes (s : State) {c : Cmd} {q : Nat} (h : q ≠ c.target) : tget? (s.pipeSet c).pipes q = tget? s.pipes q :=
  tget?_tset_other _ _ h

theorem pipeConfigOk_bounds {c : Cmd} (h : pipeConfigOk c = true) :
    c.p 1 < 32 ∧ c.p 2 < 2 ^ 17 ∧ c.p 3 < 2 ^ 10 ∧ c.p 4 < 2 ^ 16 ∧ c.p 5 ≤ 5 ∧ c.p 6 < 2 ^ 16 := by
  simp only [pipeConfigOk, Bool.and_eq_true, decide_eq_true_eq] at h
  omega

theorem State.pipeRegs_shows (s : State) {c : Cmd} (h : pipeConfigOk c = true) :
    (s.pipeRegs c).get F.PIPE_CTRL_INLINE c.target = c.p 1 ∧ (s.pipeRegs c).get F.PIPE_CTRL_TM_MASK c.target = c.p 2 ∧
    (s.pipeRegs c).get F.PIPE_STAGES_EN c.target = c.p 3 % 32 ∧ (s.pipeRegs c).get F.PIPE_STAGES_CFA c.target = c.p 3 / 256 ∧
    (s.pipeRegs c).get F.PIPE_DM_THRESH_T c.target = c.p 4 ∧ (s.pipeRegs c).get F.PIPE_OUT_FMT_FMT c.target = c.p 5 ∧
    (s.pipeRegs c).get F.PIPE_OUT_FMT_MATRIX_SEL c.target = c.p 6 := by
  obtain ⟨h1, h2, h3, h4, h5, h6⟩ := pipeConfigOk_bounds h
  unfold State.pipeRegs
  refine ⟨?_, ?_, ?_, ?_, ?_, ?_, ?_⟩
  · simp (disch := decide) only [State.get_put_stride]
    rw [State.get_put_beside (f := F.PIPE_CTRL_TM_MASK) (g := F.PIPE_CTRL_INLINE) _ _ _ rfl (by decide) (by decide),
      State.get_put _ _ _ _ _ (by decide)]
    exact Nat.mod_eq_of_lt h1
  · simp (disch := decide) only [State.get_put_stride]
    rw [State.get_put _ _ _ _ _ (by decide)]
    exact Nat.mod_eq_of_lt h2
  · simp (disch := decide) only [State.get_put_stride]
    rw [State.get_put_beside (f := F.PIPE_STAGES_CFA) (g := F.PIPE_STAGES_EN) _ _ _ rfl (by decide) (by decide),
      State.get_put _ _ _ _ _ (by decide)]
    rfl
  · simp (disch := decide) only [State.get_put_stride]
    rw [State.get_put _ _ _ _ _ (by decide)]
    exact Nat.mod_eq_of_lt (by show c.p 3 / 2 ^ 8 < 2 ^ 2; omega)
  · simp (disch := decide) only [State.get_put_stride]
    rw [State.get_put _ _ _ _ _ (by decide)]
    exact Nat.mod_eq_of_lt h4
  · rw [State.get_put_beside (f := F.PIPE_OUT_FMT_MATRIX_SEL) (g := F.PIPE_OUT_FMT_FMT) _ _ _ rfl (by decide) (by decide),
      State.get_put _ _ _ _ _ (by decide)]
    exact Nat.mod_eq_of_lt (by show c.p 5 < 2 ^ 4; omega)
  · rw [State.get_put _ _ _ _ _ (by decide)]
    exact Nat.mod_eq_of_lt h6

/-- The registers of the other pipes stay. -/
theorem State.pipeRegs_other (s : State) {c : Cmd} {r : Reg}
    (hr : r ∈ [R.PIPE_CTRL, R.PIPE_STAGES, R.PIPE_DM_THRESH, R.PIPE_OUT_FMT]) {q : Nat} (hq : q ≠ c.target) :
    (s.pipeRegs c).reg r q = s.reg r q := by
  have hne : ∀ g ∈ [R.PIPE_CTRL, R.PIPE_STAGES, R.PIPE_DM_THRESH, R.PIPE_OUT_FMT],
      ∃ o < 0x1000, ∀ i, g.addr i 0 = 0x3F00800000 + o + i * 0x1000 := by
    simp only [List.forall_mem_cons, List.not_mem_nil, false_implies, implies_true, and_true]
    exact ⟨⟨0, by decide, fun i => rfl⟩, ⟨4, by decide, fun i => rfl⟩, ⟨8, by decide, fun i => rfl⟩, ⟨12, by decide, fun i => rfl⟩⟩
  have hstep : ∀ (u : State) (f : Fld) (v : Nat), f.reg ∈ [R.PIPE_CTRL, R.PIPE_STAGES, R.PIPE_DM_THRESH, R.PIPE_OUT_FMT] →
      (u.put f v c.target).reg r q = u.reg r q := by
    intro u f v hf
    obtain ⟨o, ho, hro⟩ := hne r hr
    obtain ⟨o', ho', hfo⟩ := hne f.reg hf
    refine State.reg_setReg_other _ _ _ _ _ _ _ _ ?_
    rw [hro, hfo]
    omega
  unfold State.pipeRegs
  rw [hstep _ _ _ (by simp [F.PIPE_OUT_FMT_MATRIX_SEL]), hstep _ _ _ (by simp [F.PIPE_OUT_FMT_FMT]),
    hstep _ _ _ (by simp [F.PIPE_DM_THRESH_T]), hstep _ _ _ (by simp [F.PIPE_STAGES_CFA]), hstep _ _ _ (by simp [F.PIPE_STAGES_EN]),
    hstep _ _ _ (by simp [F.PIPE_CTRL_TM_MASK]), hstep _ _ _ (by simp [F.PIPE_CTRL_INLINE])]

theorem execCmdPipeConfig_eq (src : Source) (s : State) : execCmdPipeConfig src s = runCmd s src 0x0204 fun s c =>
    if !pipeConfigOk c || !s.storeOk c.target then refuse s .badParam
    else if (List.range 17).any fun p => (c.p 1 == p || bitAt (c.p 2) p) && (s.servedBy p).any (· != c.target) then refuse s .badState
    else if !(s.outLines c.target).isEmpty && (s.pipe c.target).store != some (s.storeRegs c.target) then refuse s .badState
    else doneWith (s.pipeSet c).showPorts := rfl

/-! ### CMD_PIPE_TABLE -/

theorem defectsOk_iff (l : List Nat) : defectsOk l = true ↔ (∀ e ∈ l, e / 16384 ≠ 3) ∧ l.Pairwise fun a b => a % 16384 < b % 16384 := by
  induction l with
  | nil => simp [defectsOk]
  | cons a l ih =>
    cases l with
    | nil => simp [defectsOk]
    | cons b t =>
      rw [defectsOk, Bool.and_eq_true, Bool.and_eq_true, ih, bne_iff_ne, decide_eq_true_eq, List.pairwise_cons (a := a)]
      constructor
      · rintro ⟨⟨ha, hab⟩, hall, hp⟩
        refine ⟨List.forall_mem_cons.mpr ⟨ha, hall⟩, fun e he => ?_, hp⟩
        rcases List.mem_cons.mp he with rfl | he
        · exact hab
        · exact lt_trans hab ((List.pairwise_cons.mp hp).1 e he)
      · rintro ⟨hall, hfirst, hp⟩
        obtain ⟨ha, hall⟩ := List.forall_mem_cons.mp hall
        exact ⟨⟨ha, hfirst b (by simp)⟩, hall, hp⟩

/-- A pipe with a table in the place of a key. -/
def State.tableSet (s : State) (q key : Nat) (l : List Nat) : State :=
  s.setPipe q { s.pipe q with tables := tset (s.pipe q).tables key l }

theorem State.tableSet_table (s : State) (q key : Nat) (l : List Nat) : tget? ((s.tableSet q key l).pipe q).tables key = some l :=
  (congrArg (fun x : Pipe => tget? x.tables key) (State.pipe_setPipe _ _ _)).trans (tget?_tset_same _ _ _)

theorem execCmdPipeTable_eq (src : Source) (s : State) : execCmdPipeTable src s = runCmd s src 0x0205 fun s c =>
    if (if c.p 1 % 4 = 3 then decide (c.p 2 % 32 < 4) else decide (c.p 2 % 32 < 17) && s.servedBy (c.p 2 % 32) == some c.target) = false then
      (s, .final .badParam [0])
    else if c.bulkStatus ≠ .done then (s, .final c.bulkStatus [w32 c.bulk.length])
    else if c.bulkEnd = .awaiting then doneWith s
    else if !(tableOf (c.p 1 % 4) c.bulk).2 then (s, .final .badParam [w32 c.bulk.length])
    else doneWith (s.tableSet c.target (tableKey (c.p 1 % 4) (if c.p 1 % 4 = 3 then c.p 2 % 32 else s.pipePos c.target (c.p 2 % 32)))
      (tableOf (c.p 1 % 4) c.bulk).1) [w32 c.bulk.length] := by
  have hb : ∀ x : Nat, bitsOf x 0 2 = x % 4 ∧ bitsOf x 0 5 = x % 32 := fun x => by simp [bitsOf]
  unfold execCmdPipeTable State.tableSet
  simp only [hb]

/-- Of the oldest command of a source, whatever has become of its bulk, the answer that fails is given at once. -/
theorem ends_failing {i : Instr} {s t : State} {src : Source} {op : Nat} {c : Cmd} {body : State → Cmd → State × Answer} {st : Status}
    {ws : List Word} (hl : Live s) (ho : s.oldest src = some c) (hop : c.opcode = op) (hm : s.mayStart src op = true)
    (hi : exec i s = runCmd s src op body) (hb : body (s.dropOldest src) c = (t, .final st ws)) (hst : st ≠ .done) :
    Ends i s t src c st ws := by
  have hf : (Answer.final st ws).fails = true := by cases st <;> first | exact absurd rfl hst | rfl
  have hbegin : s.startCmd src op body = s.begin src c body := State.startCmd_begin body ho hop hm
  refine goes_onDevice hl hi ?_
  rw [hbegin, begin_fails body (by rw [hb]; exact hf), hb]
  rfl

/-! ### CMD_STATS_SET -/

/-- The statistics settings of a pipe as CMD_STATS_SET writes them. -/
def State.statsSet (s : State) (c : Cmd) : State :=
  (((s.put F.PIPE_STAT_CFG_ZX (c.p 1 % 128) c.target).put F.PIPE_STAT_CFG_ZY (c.p 1 / 256 % 32) c.target).put F.PIPE_STAT_CFG_HIST_EN
    (c.p 2) c.target).put F.PIPE_STAT_CFG_ZONE_EN (c.p 2 / 2 ^ 8) c.target

theorem State.statsSet_only (s : State) (c : Cmd) : OnlyRegs s (s.statsSet c) [R.PIPE_STAT_CFG.addr c.target 0] := by
  refine ⟨rfl, fun a ha => ?_⟩
  have hne : ∀ f : Fld, f.reg = R.PIPE_STAT_CFG → a ≠ f.reg.addr c.target 0 := fun f hf e => ha (by rw [e, hf]; exact List.mem_singleton.mpr rfl)
  exact (tget?_setReg _ _ _ _ _ _ (hne _ rfl)).trans ((tget?_setReg _ _ _ _ _ _ (hne _ rfl)).trans
    ((tget?_setReg _ _ _ _ _ _ (hne _ rfl)).trans (tget?_setReg _ _ _ _ _ _ (hne _ rfl))))

theorem State.statsSet_shows (s : State) (c : Cmd) :
    (s.statsSet c).get F.PIPE_STAT_CFG_ZX c.target = c.p 1 % 128 ∧ (s.statsSet c).get F.PIPE_STAT_CFG_ZY c.target = c.p 1 / 256 % 32 ∧
    (s.statsSet c).get F.PIPE_STAT_CFG_HIST_EN c.target = c.p 2 % 256 ∧
    (s.statsSet c).get F.PIPE_STAT_CFG_ZONE_EN c.target = c.p 2 / 256 % 256 := by
  unfold State.statsSet
  refine ⟨?_, ?_, ?_, ?_⟩
  · rw [State.get_put_beside (f := F.PIPE_STAT_CFG_ZONE_EN) (g := F.PIPE_STAT_CFG_ZX) _ _ _ rfl (by decide) (by decide),
      State.get_put_beside (f := F.PIPE_STAT_CFG_HIST_EN) (g := F.PIPE_STAT_CFG_ZX) _ _ _ rfl (by decide) (by decide),
      State.get_put_beside (f := F.PIPE_STAT_CFG_ZY) (g := F.PIPE_STAT_CFG_ZX) _ _ _ rfl (by decide) (by decide),
      State.get_put _ _ _ _ _ (by decide)]
    exact Nat.mod_mod _ _
  · rw [State.get_put_beside (f := F.PIPE_STAT_CFG_ZONE_EN) (g := F.PIPE_STAT_CFG_ZY) _ _ _ rfl (by decide) (by decide),
      State.get_put_beside (f := F.PIPE_STAT_CFG_HIST_EN) (g := F.PIPE_STAT_CFG_ZY) _ _ _ rfl (by decide) (by decide),
      State.get_put _ _ _ _ _ (by decide)]
    exact Nat.mod_mod _ _
  · rw [State.get_put_beside (f := F.PIPE_STAT_CFG_ZONE_EN) (g := F.PIPE_STAT_CFG_HIST_EN) _ _ _ rfl (by decide) (by decide),
      State.get_put _ _ _ _ _ (by decide)]
    rfl
  · rw [State.get_put _ _ _ _ _ (by decide)]
    rfl

theorem execCmdStatsSet_eq (src : Source) (s : State) : execCmdStatsSet src s = runCmd s src 0x0207 fun s c =>
    if c.p 1 % 128 = 0 ∨ 64 < c.p 1 % 128 ∨ c.p 1 / 256 % 32 = 0 ∨ 16 < c.p 1 / 256 % 32 then refuse s .badParam
    else doneWith (s.statsSet c) := by
  have hb : ∀ x : Nat, bitsOf x 0 7 = x % 128 ∧ bitsOf x 8 5 = x / 256 % 32 := fun x => by simp [bitsOf]
  unfold execCmdStatsSet State.statsSet
  simp only [hb]

/-! ### CMD_TAP_SET -/

/-- A raw tap as CMD_TAP_SET leaves it: its rules wait for the port's next block. -/
def State.tapRegs (s : State) (c : Cmd) (n : Nat) : State :=
  ((s.put F.PIPE_TAP_MODE (c.p 2) c.target n).put F.PIPE_TAP_N (c.p 2 / 2 ^ 16) c.target n).put F.PIPE_TAP_VC (c.p 3 % 32) c.target n

def State.tapSet (s : State) (c : Cmd) (n : Nat) : State :=
  (s.tapRegs c n).setPipe c.target { s.pipe c.target with tapDue := tset (s.pipe c.target).tapDue n (c.p 4 % 2 ^ 16) }

theorem State.tapSet_due (s : State) (c : Cmd) (n : Nat) : tget? ((s.tapSet c n).pipe c.target).tapDue n = some (c.p 4 % 2 ^ 16) :=
  (congrArg (fun x : Pipe => tget? x.tapDue n) (State.pipe_setPipe _ _ _)).trans (tget?_tset_same _ _ _)

theorem State.tapRegs_shows (s : State) {c : Cmd} (n : Nat) :
    (s.tapRegs c n).get F.PIPE_TAP_MODE c.target n = c.p 2 % 4 ∧ (s.tapRegs c n).get F.PIPE_TAP_N c.target n = c.p 2 / 2 ^ 16 ∧
    (s.tapRegs c n).get F.PIPE_TAP_VC c.target n = c.p 3 % 32 := by
  have h32 := Cmd.p_lt c 2
  unfold State.tapRegs
  refine ⟨?_, ?_, ?_⟩
  · rw [State.get_put_apart _ F.PIPE_TAP_VC F.PIPE_TAP_MODE _ _ _ rfl (by decide) (by decide),
      State.get_put_apart _ F.PIPE_TAP_N F.PIPE_TAP_MODE _ _ _ rfl (by decide) (by decide), State.get_put _ _ _ _ _ (by decide)]
    rfl
  · rw [State.get_put_apart _ F.PIPE_TAP_VC F.PIPE_TAP_N _ _ _ rfl (by decide) (by decide), State.get_put _ _ _ _ _ (by decide)]
    exact Nat.mod_eq_of_lt (by show c.p 2 / 2 ^ 16 < 2 ^ 16; omega)
  · rw [State.get_put _ _ _ _ _ (by decide)]
    exact Nat.mod_mod _ _

theorem State.tapRegs_rule (s : State) {c : Cmd} {n : Nat} :
    (s.tapRegs c n).get F.PIPE_TAP_RULE_RULES c.target n = s.get F.PIPE_TAP_RULE_RULES c.target n := by
  have hne : ∀ f : Fld, f.reg = R.PIPE_TAP → F.PIPE_TAP_RULE_RULES.reg.addr c.target n ≠ f.reg.addr c.target n := by
    intro f hf e
    rw [hf] at e
    have e' : 0x3F00800040 + c.target * 0x1000 + n * 4 = 0x3F00800030 + c.target * 0x1000 + n * 4 := e
    omega
  unfold State.tapRegs
  rw [State.get_put_other _ _ _ _ _ _ _ _ (hne _ rfl), State.get_put_other _ _ _ _ _ _ _ _ (hne _ rfl),
    State.get_put_other _ _ _ _ _ _ _ _ (hne _ rfl)]

theorem execCmdTapSet_eq (src : Source) (s : State) : execCmdTapSet src s = runCmd s src 0x0206 fun s c =>
    if !s.tapOk c then refuse s .badParam else doneWith (s.tapSet c (c.p 1 % 4)).showPorts := by
  have hb : ∀ x : Nat, bitsOf x 0 2 = x % 4 ∧ bitsOf x 0 5 = x % 32 ∧ bitsOf x 0 16 = x % 2 ^ 16 := fun x => by simp [bitsOf]
  unfold execCmdTapSet State.tapSet State.tapRegs
  simp only [hb]
  rfl

/-- Settles O24: each command by the order of its checks and by what its registers show. -/
theorem pipeCommands : Obligations.PipeCommands := by
  unfold Obligations.PipeCommands
  refine ⟨?config, ?configParam, ?served, ?table, ?tableRefused, ?tables, ?stats, ?tap, ?tapParam⟩
  case config =>
    intro s src c hs hc hok hstore hserved hlines
    have hends : Ends (.cmdPipeConfig src) s ((s.dropOldest src).pipeSet c).showPorts src c .done := ends_runCmd hs (execCmdPipeConfig_eq src s) (by
      rw [if_neg (by rw [hok, hstore]; decide), if_neg, if_neg, doneWith_eq]
      · have h1 : (s.dropOldest src).outLines c.target = s.outLines c.target := rfl
        have h2 : (s.dropOldest src).pipe c.target = s.pipe c.target := rfl
        have h3 : (s.dropOldest src).storeRegs c.target = s.storeRegs c.target := rfl
        rw [h1, h2, h3]
        rcases hlines with h | h <;> simp [h]
      · rw [Bool.not_eq_true, List.any_eq_false]
        intro p hp h
        rw [Bool.and_eq_true, Option.any_eq_true] at h
        obtain ⟨-, q, hq, hne⟩ := h
        exact bne_iff_ne.mp hne (hserved p q (List.mem_range.mp hp) hq))
    have honly := (s.dropOldest src).pipeSet_only c
    have hst := (s.dropOldest src).pipeSet_store c
    obtain ⟨g1, g2, g3, g4, g5, g6, g7⟩ := (s.dropOldest src).pipeRegs_shows hok
    have hother := fun (r : Reg) hr (q : Nat) hq => (s.dropOldest src).pipeRegs_other (c := c) (r := r) hr (q := q) hq
    have hpipes := fun (q : Nat) hq => (s.dropOldest src).pipeSet_pipes (c := c) (q := q) hq
    have hregs : ((s.dropOldest src).pipeSet c).regs = ((s.dropOldest src).pipeRegs c).regs := rfl
    generalize (s.dropOldest src).pipeRegs c = w at g1 g2 g3 g4 g5 g6 g7 hother hregs
    generalize (s.dropOldest src).pipeSet c = u at hends honly hst hpipes hregs
    have hshow := u.showPorts_only
    have hget : ∀ g : Fld, 0x3F00701200 ≤ g.reg.base → u.showPorts.get g c.target = w.get g c.target := fun g hg =>
      (u.showPorts_get hg _ _).trans (State.get_congr hregs _ _ _)
    have hreg : ∀ r ∈ [R.PIPE_CTRL, R.PIPE_STAGES, R.PIPE_DM_THRESH, R.PIPE_OUT_FMT], ∀ q, u.showPorts.reg r q = w.reg r q := by
      intro r hr q
      refine (u.showPorts_reg ?_ _ _).trans (State.reg_congr hregs _ _ _)
      revert r
      decide
    generalize u.showPorts = t at hends hshow hget hreg
    have hpip : t.pipes = u.pipes := by rw [hshow]
    refine ⟨t, hends, by rw [hshow, honly], (hget _ (by decide)).trans g1, (hget _ (by decide)).trans g2, (hget _ (by decide)).trans g3,
      (hget _ (by decide)).trans g4, (hget _ (by decide)).trans g5, (hget _ (by decide)).trans g6, (hget _ (by decide)).trans g7, ?_,
      fun q hq => ?_, fun r hr q _ hq => (hreg r hr q).trans (hother r hr q hq)⟩
    · rw [State.pipe, hpip]; exact hst
    · rw [hpip]; exact hpipes q hq
  case configParam =>
    intro s src c hs h
    refine ends_runCmd hs (execCmdPipeConfig_eq src s) (if_pos ?_)
    rcases h with h | h <;> simp [h]
  case served =>
    intro s src c p q hs hok hstore hp hport hserv hq
    refine ends_runCmd hs (execCmdPipeConfig_eq src s) ((if_neg (by rw [hok, hstore]; decide)).trans (if_pos ?_))
    refine List.any_eq_true.mpr ⟨p, List.mem_range.mpr hp, ?_⟩
    have hserv' : (s.dropOldest src).servedBy p = some q := hserv
    rw [hserv']
    rcases hport with h | h <;> simp [h, hq]
  case table =>
    intro s src c key kind port hs hkind hport h3 hn3
    have hbulk : c.bulkStatus = .done ∧ c.bulkEnd ≠ .awaiting := by
      rcases hs.2.2.2.2 with h | h <;> exact ⟨by rw [Cmd.bulkStatus, h], by rw [h]; decide⟩
    have hok : (if c.p 1 % 4 = 3 then decide (c.p 2 % 32 < 4) else decide (c.p 2 % 32 < 17) &&
        (s.dropOldest src).servedBy (c.p 2 % 32) == some c.target) = true := by
      rw [← hkind, ← hport]
      split
      · rename_i h; exact decide_eq_true (h3 h).1
      · rename_i h
        obtain ⟨h17, hserv, -⟩ := hn3 h
        have hserv' : (s.dropOldest src).servedBy port = some c.target := hserv
        rw [hserv', decide_eq_true h17]; simp
    have hkey : tableKey (c.p 1 % 4) (if c.p 1 % 4 = 3 then c.p 2 % 32 else (s.dropOldest src).pipePos c.target (c.p 2 % 32)) = key := by
      rw [← hkind, ← hport]
      split
      · rename_i h; rw [tableKey, h, (h3 h).2]
      · rename_i h; rw [(hn3 h).2.2]; rfl
    subst hkind
    refine ⟨fun htab => ⟨(s.dropOldest src).tableSet c.target key (tableOf (c.p 1 % 4) c.bulk).1, ends_runCmd hs (execCmdPipeTable_eq src s) (by
      rw [if_neg (by rw [hok]; decide), if_neg (not_not.mpr hbulk.1), if_neg hbulk.2, if_neg (by rw [htab]; decide), hkey, doneWith_eq]), rfl,
      State.tableSet_table _ _ _ _⟩,
      fun htab => ends_runCmd hs (execCmdPipeTable_eq src s) (by
      rw [if_neg (by rw [hok]; decide), if_neg (not_not.mpr hbulk.1), if_neg hbulk.2, if_pos (by rw [htab]; rfl)])⟩
  case tableRefused =>
    intro s src c hl ho hop hm
    refine ⟨fun h => ends_failing hl ho hop hm (execCmdPipeTable_eq src s) (if_pos ?_) (by decide), fun h3 h4 hcut => ?_⟩
    · rcases h with ⟨h3, h4⟩ | ⟨h3, h4⟩
      · rw [if_pos h3]; exact decide_eq_false (by omega)
      · have hserv : (s.dropOldest src).servedBy (c.p 2 % 32) = s.servedBy (c.p 2 % 32) := rfl
        rw [if_neg (by omega), hserv]
        rcases h4 with h | h
        · rw [decide_eq_false (by omega)]; rfl
        · simp [h]
    · refine ends_failing hl ho hop hm (execCmdPipeTable_eq src s) ((if_neg ?_).trans ((if_pos ?_).trans ?_)) (by decide)
      · rw [if_pos h3, decide_eq_true h4]; decide
      · rw [Cmd.bulkStatus, hcut]; decide
      · rw [Cmd.bulkStatus, hcut]
  case tables =>
    intro bs
    refine ⟨rfl, ?_, rfl, ?_, ?_, ?_⟩
    · exact beq_iff_eq
    · exact beq_iff_eq
    · show (decide (1 ≤ bs.length / 4) && decide (bs.length / 4 ≤ 16384)) = true ↔ _
      rw [Bool.and_eq_true, decide_eq_true_eq, decide_eq_true_eq]
    · show (decide ((halves bs).length ≤ 4096) && defectsOk (halves bs)) = true ↔ _
      rw [Bool.and_eq_true, decide_eq_true_eq, defectsOk_iff]
  case stats =>
    intro s src c hs
    refine ⟨fun h1 h2 h3 h4 => ⟨_, ends_runCmd hs (execCmdStatsSet_eq src s) (if_neg (by omega)), State.statsSet_only _ c,
      State.statsSet_shows _ c⟩, fun h => ends_runCmd hs (execCmdStatsSet_eq src s) (if_pos h)⟩
  case tap =>
    intro s src c n hs hc hn hok
    have hends : Ends (.cmdTapSet src) s ((s.dropOldest src).tapSet c (c.p 1 % 4)).showPorts src c .done := ends_runCmd hs (execCmdTapSet_eq src s)
      (if_neg (by rw [hok]; decide))
    rw [← hn] at hends
    obtain ⟨g1, g2, g3⟩ := (s.dropOldest src).tapRegs_shows (c := c) n
    have hrule := (s.dropOldest src).tapRegs_rule (c := c) (n := n)
    have hdue := (s.dropOldest src).tapSet_due c n
    have hregs : ((s.dropOldest src).tapSet c n).regs = ((s.dropOldest src).tapRegs c n).regs := rfl
    have hmem : ((s.dropOldest src).tapSet c n).mem = s.mem := rfl
    generalize (s.dropOldest src).tapRegs c n = w at g1 g2 g3 hrule hregs
    generalize (s.dropOldest src).tapSet c n = u at hends hdue hregs hmem
    have hshow := u.showPorts_only
    have hget : ∀ g : Fld, 0x3F00701200 ≤ g.reg.base → u.showPorts.get g c.target n = w.get g c.target n := fun g hg =>
      (u.showPorts_get hg _ _).trans (State.get_congr hregs _ _ _)
    generalize u.showPorts = t at hends hshow hget
    have hpip : t.pipes = u.pipes := by rw [hshow]
    refine ⟨t, hends, (hget _ (by decide)).trans g1, (hget _ (by decide)).trans g2, (hget _ (by decide)).trans g3, ?_,
      (hget _ (by decide)).trans hrule, ?_⟩
    · rw [State.pipe, hpip]; exact hdue
    · rw [hshow]; exact hmem
  case tapParam => exact fun s src c hs h => ends_runCmd hs (execCmdTapSet_eq src s) (if_pos (by rw [h]; rfl))

end Sys2Proof.Machine
end

section
/-! Blocks and lines in a pipe: a statement about every port number, of which only 17 exist. -/
namespace Sys2Proof.Machine
open Sys2Proof.Claims

/-- A line of a port number that no port has, whose place among the owners is the first pipe's PIPE_CNT. -/
def farLine : PipeWork := { blk := { port := 0x1FFEDC, base := 0, pitch := 1, len := 1, time := 0 } }

/-- A state in which that port's lines have 8 words, and PIPE_CNT has counted 127 lines too long. -/
def farState : State := { ({} : State) with regs := [(0x3F00800024, 0x7F000000#32), (R.CAM_LINE_WORDS.addr 0x1FFEDC 0, 8#32)] }

theorem farState_count : farState.get F.PIPE_CNT_OVERSIZE 0 = 127 := by decide +kernel

theorem farLine_long : farLine.blk.cfg.slotSize < packedLen farLine.blk.cfg.fmt (farState.portWidth farLine.blk.port) := by decide +kernel

theorem farLine_count : (pipeLine farState farLine 0 0 []).1.get F.PIPE_CNT_OVERSIZE 0 = 0 := by decide +kernel

/-- Refutes O25: showing a line's end writes the IN_USE bit of its port's owner, and for a port number that no port has that bit
is the highest of PIPE_CNT, so that the 128th line that is too long reads as none. -/
theorem not_pipeBlocks : ¬ Obligations.PipeBlocks := by
  unfold Obligations.PipeBlocks
  rintro ⟨-, -, -, -, -, hlong⟩
  obtain ⟨t, hline, -, hcount⟩ := hlong farState farLine 0 0 [] farLine_long
  have ht : t = (pipeLine farState farLine 0 0 []).1 := by rw [hline]
  have hq : farLine.blk.cfg.q = 0 := rfl
  rw [hq, ht, farLine_count, farState_count] at hcount
  exact absurd hcount (by decide)

end Sys2Proof.Machine
end

section
/-! The start of a batch step (R211, R212). -/
namespace Sys2Proof.Machine
open Sys2Proof.Claims

/-! ### What giving a segment and judging the rows leave -/

/-- The parts, what the fences say, the sizes of the jobs, and that a step of a partition runs. -/
structure StepKept (p : Nat) (s t : State) : Prop where
  parts : t.sched.parts = s.sched.parts
  due : t.fenceDue = s.fenceDue
  splits : t.splits = s.splits
  regs : ∀ a, a < 0x3F01000000 → a % 0x40 ≠ 0x2C → a ≠ R.SCHED_BATCH.addr p 0 → tget? t.regs a = tget? s.regs a
  running : t.get F.SCHED_BATCH_RUNNING p = s.get F.SCHED_BATCH_RUNNING p

namespace StepKept
variable {p : Nat} {r s t : State}

theorem refl (s : State) : StepKept p s s := ⟨rfl, rfl, rfl, fun _ _ _ _ => rfl, rfl⟩

theorem trans (h : StepKept p r s) (k : StepKept p s t) : StepKept p r t :=
  ⟨k.parts.trans h.parts, k.due.trans h.due, k.splits.trans h.splits, fun a h1 h2 h3 => (k.regs a h1 h2 h3).trans (h.regs a h1 h2 h3),
    k.running.trans h.running⟩

/-- Registers of the looms, and the counts of waits for a page, are none of those. -/
theorem put (s : State) (f : Fld) (v i : Nat) (hf : 0x3F01000000 ≤ f.reg.base ∨ (f.reg.base = 0x3F00C0212C ∧ f.reg.stride = 0x40))
    (hp : p < 8) : StepKept p s (s.put f v i) := by
  have hbatch : R.SCHED_BATCH.addr p 0 = 0x3F00C02104 + p * 0x40 + 0 * 0 := rfl
  have haddr : 0x3F01000000 ≤ f.reg.addr i 0 ∨ f.reg.addr i 0 = 0x3F00C0212C + i * 0x40 := by
    rcases hf with h | ⟨h, hs⟩
    · exact .inl (by unfold Reg.addr; omega)
    · exact .inr (by unfold Reg.addr; rw [h, hs]; omega)
  refine ⟨rfl, rfl, rfl, fun a h1 h2 _ => tget?_setReg _ _ _ _ _ _ (by omega), State.get_put_other _ _ _ _ _ _ _ _ ?_⟩
  show R.SCHED_BATCH.addr p 0 ≠ _
  omega

theorem fields (hl : t.sched = s.sched) (hd : t.fenceDue = s.fenceDue) (hs : t.splits = s.splits) (hr : t.regs = s.regs) :
    StepKept p s t :=
  ⟨by rw [hl], hd, hs, fun _ _ _ _ => by rw [hr], State.get_congr hr _ _ _⟩

theorem giveSegment (hp : p < 8) (s : State) (k n : Nat) : StepKept p s (s.giveSegment k n) := by
  unfold State.giveSegment State.mapLoom State.showLoom State.peak State.putBit
  dsimp only
  have h0 : ∀ x : Loom, StepKept p s (s.setLoom n x) := fun x => fields rfl rfl rfl rfl
  refine (h0 _).trans ((put _ _ _ _ ?_ hp).trans ((put _ _ _ _ ?_ hp).trans ((put _ _ _ _ ?_ hp).trans ((put _ _ _ _ ?_ hp).trans
    ((put _ _ _ _ ?_ hp).trans ((put _ _ _ _ ?_ hp).trans ((put _ _ _ _ ?_ hp).trans ((put _ _ _ _ ?_ hp).trans
      ((put _ _ _ _ ?_ hp).trans ((put _ _ _ _ ?_ hp).trans ((put _ _ _ _ ?_ hp).trans (put _ _ _ _ ?_ hp))))))))))))
  all_goals exact .inl (by decide)

theorem noteReady (hp : p < 8) (s : State) (id : Nat) : StepKept p s (s.noteReady id) := by
  have hbob : ∀ b, StepKept p s (s.setBob id b) := fun b => fields rfl rfl rfl rfl
  unfold State.noteReady
  dsimp only
  split
  · split
    · exact hbob _
    · exact refl s
  · split
    · exact (hbob _).trans (put _ _ _ _ (.inr ⟨rfl, rfl⟩) hp)
    · exact refl s

theorem judgeReady (hp : p < 8) (s : State) : StepKept p s (s.judgeReady p) := by
  have hfold : StepKept p s (foldState (fun u (e : Nat × Bobbin) => if e.2.partition = p then u.noteReady e.1 else u) s s.bobs) := by
    refine foldState_keeps (P := StepKept p s) (fun u e hu => ?_) (refl s) _
    split
    · exact hu.trans (noteReady hp u e.1)
    · exact hu
  unfold State.judgeReady
  dsimp only
  generalize foldState (fun u (e : Nat × Bobbin) => if e.2.partition = p then u.noteReady e.1 else u) s s.bobs = t at hfold
  refine hfold.trans ⟨rfl, rfl, rfl, fun a _ _ ha => tget?_setReg _ _ _ _ _ _ ha, ?_⟩
  exact State.get_put_beside (f := F.SCHED_BATCH_READY) (g := F.SCHED_BATCH_RUNNING) _ _ _ rfl (by decide) (by decide)

theorem part (h : StepKept p s t) (q : Nat) : t.part q = s.part q := by rw [State.part, h.parts, State.part]

theorem reg (h : StepKept p s t) (g : Reg) (i : Nat) (h1 : g.addr i 0 < 0x3F01000000) (h2 : g.addr i 0 % 0x40 ≠ 0x2C)
    (h3 : g.addr i 0 ≠ R.SCHED_BATCH.addr p 0) : t.reg g i = s.reg g i := by rw [State.reg, State.reg, h.regs _ h1 h2 h3]

theorem jobLooms (h : StepKept p s t) (hp : p < 8) : t.jobLooms p = s.jobLooms p := by
  have hb : R.SCHED_BATCH.addr p 0 = 0x3F00C02104 + p * 0x40 + 0 * 0 := rfl
  have hsz : R.SCHED_JOB_SIZE.addr p 0 = 0x3F00C0100C + p * 0x40 + 0 * 0 := rfl
  have hlo : R.SCHED_FENCE_MAP_LO.addr 0 0 = 0x3F00C05004 := rfl
  have hhi : R.SCHED_FENCE_MAP_HI.addr 0 0 = 0x3F00C05008 := rfl
  have hmap : t.fenceMap = s.fenceMap := by
    unfold State.fenceMap State.splitWord
    rw [h.splits, h.reg _ _ (by omega) (by omega) (by omega), h.reg _ _ (by omega) (by omega) (by omega)]
  have hsize : t.get F.SCHED_JOB_SIZE_SIZE p = s.get F.SCHED_JOB_SIZE_SIZE p := by
    show bitsOf (t.reg R.SCHED_JOB_SIZE p) _ _ = bitsOf (s.reg R.SCHED_JOB_SIZE p) _ _
    rw [h.reg _ _ (by omega) (by omega) (by omega)]
  have hfresh : t.freshLooms p = s.freshLooms p := by
    unfold State.freshLooms State.activeLooms State.fenced State.lent
    rw [h.part, hmap, h.parts, h.due]
  rw [State.jobLooms, hfresh, hsize, State.jobLooms]

end StepKept

/-! ### Segments -/

theorem State.showLoom_looms (s : State) (n : Nat) : (s.showLoom n).looms = s.looms := rfl

theorem State.loom_giveSegment (s : State) (k n : Nat) : ∃ c ∈ ((s.giveSegment k n).loom n).cmds, c.kind = k := by
  have hl : ∀ x : Loom, ((s.setLoom n x).showLoom n).loom n = x := by
    intro x
    rw [State.loom, State.showLoom_looms, State.setLoom, tgetD, tget?_tset_same]
  unfold State.giveSegment State.mapLoom
  rw [hl]
  exact ⟨{ kind := k }, by simp, rfl⟩

theorem State.loom_giveSegment_other (s : State) (k : Nat) {m n : Nat} (h : m ≠ n) : (s.giveSegment k n).loom m = s.loom m := by
  unfold State.giveSegment State.mapLoom
  rw [State.loom, State.showLoom_looms, State.setLoom, tgetD, tget?_tset_other _ _ h, State.loom, tgetD]

/-- Every loom of a list has the segment that it was given. -/
theorem State.loom_giveSegments (s : State) (k : Nat) {l : List Nat} {n : Nat} (hn : n ∈ l) :
    ∃ c ∈ ((foldState (fun u m => u.giveSegment k m) s l).loom n).cmds, c.kind = k := by
  have hkeep : ∀ (l : List Nat) (u : State), (∃ c ∈ (u.loom n).cmds, c.kind = k) →
      ∃ c ∈ ((foldState (fun u m => u.giveSegment k m) u l).loom n).cmds, c.kind = k := by
    intro l u hu
    refine foldState_keeps (P := fun v : State => ∃ c ∈ (v.loom n).cmds, c.kind = k) (fun v m hv => ?_) hu l
    by_cases h : n = m
    · subst h; exact v.loom_giveSegment k n
    · rw [v.loom_giveSegment_other k h]; exact hv
  induction l generalizing s with
  | nil => exact absurd hn (by simp)
  | cons m l ih =>
    rw [foldState_cons]
    by_cases h : n = m
    · subst h; exact hkeep l _ (s.loom_giveSegment k n)
    · exact ih _ ((List.mem_cons.mp hn).resolve_left h)

theorem State.noteReady_looms (s : State) (id : Nat) : (s.noteReady id).looms = s.looms := by
  unfold State.noteReady
  dsimp only
  split
  · split <;> rfl
  · split <;> rfl

theorem State.judgeReady_looms (s : State) (p : Nat) : (s.judgeReady p).looms = s.looms := by
  refine foldState_keeps (P := fun u : State => u.looms = s.looms) (fun u e hu => ?_) rfl s.bobs
  split
  · exact (u.noteReady_looms e.1).trans hu
  · exact hu

/-! ### Rows -/

/-- A step takes no more than 64 rows (R212). -/
theorem State.length_takeRows (s : State) (p : Nat) (ids rows : List Nat) (h : rows.length ≤ 64) :
    (s.takeRows p ids rows).2.length ≤ 64 := by
  induction ids generalizing s rows with
  | nil => exact h
  | cons id t ih =>
    unfold State.takeRows
    split
    · exact h
    · rename_i hlt
      have hnext : (rows ++ [id]).length ≤ 64 := by simp; omega
      dsimp only
      split
      · split
        · exact ih _ _ hnext
        · exact ih _ _ h
      · exact ih _ _ hnext

/-! ### The start -/

/-- A step as it shows before its segments are given. -/
def State.stepShown (s : State) (p : Nat) (why : Why) (rows : List Nat) (bobs : List Bobbin) (tok : List (List (Option Int)))
    (now : Nat) : State :=
  let x := s.part p
  let b := s.setPart p { x with
    step := some { rows := rows, earlyRun := s.get F.EARLY_RUN_RUN p, bobs := bobs }, overdue := none, rowTok := tok, headOut := [] }
  let c := (b.put F.SCHED_BATCH_LAST_M rows.length p).putBit F.SCHED_BATCH_RUNNING true p
  let d := match why with
    | .full => c.bump F.SCHED_START_CNT_FULL p
    | .latest => c.bump F.SCHED_START_CNT_LATEST p
    | .waited => c.bump F.SCHED_LAG_CNT_FILL_WAIT p
  if x.overdue = some now then d.bump F.SCHED_LAG_CNT_OVERDUE p else d

theorem State.stepShown_view (s : State) (p : Nat) (why : Why) (rows : List Nat) (bobs : List Bobbin) (tok : List (List (Option Int)))
    (now : Nat) : ((s.stepShown p why rows bobs tok now).part p).step.map (·.rows) = some rows ∧
    (s.stepShown p why rows bobs tok now).get F.SCHED_BATCH_RUNNING p = 1 := by
  have hpart : ∀ x, (s.setPart p x).part p = x := fun x => by
    rw [State.part, State.setPart, tgetD, tget?_tset_same]
  unfold State.stepShown
  dsimp only
  generalize hx : Partition.mk .. = x
  have hstep : x.step.map (·.rows) = some rows := by rw [← hx]; rfl
  generalize hc : ((s.setPart p x).put F.SCHED_BATCH_LAST_M rows.length p).putBit F.SCHED_BATCH_RUNNING true p = c
  have hcp : c.sched = (s.setPart p x).sched := by rw [← hc]; rfl
  have hrun : c.get F.SCHED_BATCH_RUNNING p = 1 := by rw [← hc]; exact State.get_put _ _ _ _ _ (by decide)
  have hview : ∀ t : State, t.sched = c.sched → t.get F.SCHED_BATCH_RUNNING p = c.get F.SCHED_BATCH_RUNNING p →
      (t.part p).step.map (·.rows) = some rows ∧ t.get F.SCHED_BATCH_RUNNING p = 1 := by
    intro t ht hr
    have htp : t.part p = x := by rw [State.part, ht, hcp]; exact hpart x
    exact ⟨by rw [htp]; exact hstep, hr.trans hrun⟩
  have hbump : ∀ (u : State) (f : Fld), f.reg.stride = 0x40 → f.reg.base % 0x40 ≠ 4 →
      (u.bump f p).get F.SCHED_BATCH_RUNNING p = u.get F.SCHED_BATCH_RUNNING p := fun u f hs hb =>
    State.get_put_stride u _ p p hs.symm (by show (0x3F00C02104 : Nat) % 0x40 ≠ _; exact fun e => hb e.symm)
  generalize hd : (match why with
    | .full => c.bump F.SCHED_START_CNT_FULL p
    | .latest => c.bump F.SCHED_START_CNT_LATEST p
    | .waited => c.bump F.SCHED_LAG_CNT_FILL_WAIT p) = d
  have hdv : d.sched = c.sched ∧ d.get F.SCHED_BATCH_RUNNING p = c.get F.SCHED_BATCH_RUNNING p := by
    subst hd
    cases why with
    | full => exact ⟨rfl, hbump _ _ rfl (by decide)⟩
    | latest => exact ⟨rfl, hbump _ _ rfl (by decide)⟩
    | waited => exact ⟨rfl, hbump _ _ rfl (by decide)⟩
  split
  · exact hview _ hdv.1 ((hbump _ _ rfl (by decide)).trans hdv.2)
  · exact hview _ hdv.1 hdv.2

/-- The state in which a step's rows have been taken and their tokens read, and those tokens. -/
def State.stepTokens (s : State) (p : Nat) : State × List (List (Option Int)) :=
  let r := (s.boundary p).takeRows p ((s.boundary p).rowOrder p) []
  r.1.rowTokens p r.2

theorem State.startStep_eq (s : State) (p : Nat) (why : Why) : s.startStep p why =
    let r := (s.boundary p).takeRows p ((s.boundary p).rowOrder p) []
    if r.2 = [] then r.1
    else
      let e := (s.stepTokens p).1.stepShown p why r.2 (r.2.map r.1.bob) (s.stepTokens p).2 s.time.now
      (foldState (fun u n => u.giveSegment 2 n) (e.useModel ((s.stepTokens p).1.part p).model) (e.jobLooms p)).judgeReady p := by
  unfold State.startStep State.stepTokens State.stepShown
  cases why <;> with_reducible rfl

/-- A step that starts shows its rows and RUNNING, and every loom of the job has its segment. -/
theorem State.startStep_view {s : State} {p : Nat} (hp : p < 8) (why : Why) {rows : List Nat}
    (hrows : ((s.boundary p).takeRows p ((s.boundary p).rowOrder p) []).2 = rows) (hne : rows ≠ []) :
    ((s.startStep p why).part p).step.map (·.rows) = some rows ∧ (s.startStep p why).on F.SCHED_BATCH_RUNNING p = true ∧
    ∀ n, n ∈ (s.startStep p why).jobLooms p → ∃ c ∈ ((s.startStep p why).loom n).cmds, c.kind = 2 := by
  have hstart := s.startStep_eq p why
  dsimp only at hstart
  rw [hrows, if_neg hne] at hstart
  generalize rows.map ((s.boundary p).takeRows p ((s.boundary p).rowOrder p) []).1.bob = bobs at hstart
  obtain ⟨hstep, hrun⟩ := (s.stepTokens p).1.stepShown_view p why rows bobs (s.stepTokens p).2 s.time.now
  generalize ((s.stepTokens p).1.part p).model = m at hstart
  generalize (s.stepTokens p).1.stepShown p why rows bobs (s.stepTokens p).2 s.time.now = e at hstart hstep hrun
  have hmodel : StepKept p e (e.useModel m) := ⟨rfl, rfl, rfl, fun _ _ _ _ => rfl, rfl⟩
  have hgiven : StepKept p e (foldState (fun u n => u.giveSegment 2 n) (e.useModel m) (e.jobLooms p)) :=
    foldState_keeps (P := StepKept p e) (fun v n hv => hv.trans (StepKept.giveSegment hp v 2 n)) hmodel _
  have hgive := fun n (hn : n ∈ e.jobLooms p) => (e.useModel m).loom_giveSegments 2 hn
  generalize foldState (fun u n => u.giveSegment 2 n) (e.useModel m) (e.jobLooms p) = v at hstart hgiven hgive
  have hkept := hgiven.trans (StepKept.judgeReady hp v)
  have hlooms := v.judgeReady_looms p
  rw [← hstart] at hkept hlooms
  generalize s.startStep p why = t at hkept hlooms
  refine ⟨by rw [hkept.part]; exact hstep, by rw [State.on, hkept.running, hrun]; rfl, fun n hn => ?_⟩
  rw [hkept.jobLooms hp] at hn
  rw [State.loom, hlooms]
  exact hgive n hn

section
variable {s : State} {p : Fin 8} {why : State → Option Why}

theorem State.startIf_starts {w : Why} (hm : (s.judgeReady p.val).mayStep p.val = true) (hw : why (s.judgeReady p.val) = some w) :
    s.startIf p.val why = ((s.judgeReady p.val).noteDefer p.val).startStep p.val w := by
  unfold State.startIf
  dsimp only
  rw [if_pos hm, hw]

theorem State.startIf_stays (h : (s.judgeReady p.val).mayStep p.val = false ∨ why (s.judgeReady p.val) = none) :
    s.startIf p.val why = s.judgeReady p.val := by
  unfold State.startIf
  dsimp only
  rcases h with h | h
  · rw [if_neg (by rw [h]; decide)]
  · rw [h]; split <;> rfl

end

section
variable (p : Fin 8) (s : State)

theorem execBatchStepStart_eq : exec (.batchStepStart p) s = onDevice s fun s => s.startIf p.val fun t => t.startWhy p.val := rfl

theorem execLatestStartReached_eq : exec (.latestStartReached p) s = onDevice s fun s => s.startIf p.val fun t =>
    if t.latestReached p.val then t.startWhy p.val else none := rfl

theorem execFillWaitExpire_eq : exec (.fillWaitExpire p) s = onDevice s fun s => s.startIf p.val fun t =>
    if t.get F.SCHED_FILL_WAIT_US ≠ 0 ∧ t.waited (t.readyParts p.val) (t.get F.SCHED_FILL_WAIT_US) = true then t.startWhy p.val
    else none := rfl

theorem execSampleBatchWaitExpire_eq : exec (.sampleBatchWaitExpire p) s = onDevice s fun s => s.startIf p.val fun t =>
    if t.waited (t.readySamples p.val) (t.get F.SAMPLE_BATCH_WAIT_US) then t.startWhy p.val else none := rfl

end

/-- Settles O37: the start rule branch by branch, and a step's start by what its segments and the judging of the rows leave. -/
theorem stepStarts : Obligations.StepStarts := by
  unfold Obligations.StepStarts
  refine ⟨?starts, ?stays, ?noTime, ?may, ?full, ?parts, ?samples, ?none, ?step⟩
  case starts =>
    rintro s t p w hl rfl hm hw
    exact ⟨goes_onDevice hl (execBatchStepStart_eq p s) (State.startIf_starts hm hw),
      fun h => goes_onDevice hl (execLatestStartReached_eq p s) (State.startIf_starts hm ((if_pos h).trans hw)),
      fun h0 h => goes_onDevice hl (execFillWaitExpire_eq p s) (State.startIf_starts hm ((if_pos ⟨h0, h⟩).trans hw)),
      fun h => goes_onDevice hl (execSampleBatchWaitExpire_eq p s) (State.startIf_starts hm ((if_pos h).trans hw))⟩
  case stays =>
    rintro s t p hl rfl h
    have hite : ∀ (c : Prop) [Decidable c] (x : Option Why), x = none → (if c then x else none) = none := fun c _ x hx => by
      rw [hx, ite_self]
    exact ⟨goes_onDevice hl (execBatchStepStart_eq p s) (State.startIf_stays h),
      goes_onDevice hl (execLatestStartReached_eq p s) (State.startIf_stays (h.imp_right (hite _ _))),
      goes_onDevice hl (execFillWaitExpire_eq p s) (State.startIf_stays (h.imp_right (hite _ _))),
      goes_onDevice hl (execSampleBatchWaitExpire_eq p s) (State.startIf_stays (h.imp_right (hite _ _)))⟩
  case noTime =>
    rintro s t p hl rfl
    refine ⟨fun h => goes_onDevice hl (execLatestStartReached_eq p s) (State.startIf_stays (.inr (if_neg (Bool.eq_false_iff.mp h)))),
      fun h => goes_onDevice hl (execFillWaitExpire_eq p s) (State.startIf_stays (.inr (if_neg ?_))),
      fun h => goes_onDevice hl (execSampleBatchWaitExpire_eq p s) (State.startIf_stays (.inr (if_neg (Bool.eq_false_iff.mp h))))⟩
    rintro ⟨h1, h2⟩
    rcases h with h | h
    · exact h1 h
    · rw [h] at h2; exact absurd h2 (by decide)
  case may =>
    intro s p h
    rw [Bool.eq_false_iff]
    intro hm
    simp only [State.mayStep, Bool.and_eq_true, beq_iff_eq, Option.isNone_iff_eq_none, Bool.not_eq_true', Option.all_eq_true,
      decide_eq_true_eq] at hm
    obtain ⟨⟨⟨hst, hstep⟩, hrun⟩, hmodel⟩ := hm
    rcases h with h | h | h | ⟨m, hjob, h⟩
    · exact h hst
    · rw [hstep] at h; exact absurd h (by decide)
    · rw [hrun] at h; exact absurd h (by decide)
    · obtain ⟨hfloor, hload⟩ := hmodel m hjob
      rcases h with h | h
      · omega
      · rw [hload] at h; exact absurd h (by decide)
  case full => exact fun s p h => if_pos h
  case parts =>
    intro s p hlt hne
    refine ⟨fun h => (if_neg (by omega)).trans (if_pos ⟨hne, h⟩),
      fun hno hf hw => (if_neg (by omega)).trans ((if_neg ?_).trans (if_pos ⟨hne, hf, hw⟩))⟩
    rintro ⟨-, h⟩
    rw [hno] at h
    exact absurd h (by decide)
  case samples =>
    intro s p hlt hparts hne hw
    unfold State.startWhy
    dsimp only
    rw [hparts]
    exact (if_neg (by simp; omega)).trans ((if_neg (fun h => h.1 rfl)).trans ((if_neg (fun h => h.1 rfl)).trans (if_pos ⟨rfl, hne, hw⟩)))
  case none =>
    intro s p hparts hsamples
    unfold State.startWhy
    dsimp only
    rw [hparts, hsamples]
    exact (if_neg (by decide)).trans ((if_neg (fun h => h.1 rfl)).trans ((if_neg (fun h => h.1 rfl)).trans (if_neg (fun h => h.2.1 rfl))))
  case step =>
    intro s p w rows hrows hne
    refine ⟨?_, State.startStep_view p.isLt w hrows hne⟩
    rw [← hrows]
    exact State.length_takeRows _ _ _ _ (by decide)

end Sys2Proof.Machine
end

section
/-! Messages that the field die takes (R18, R335, R341, R345, R351, R411, R465). -/
namespace Sys2Proof.Machine
open Sys2Proof.Claims

/-- The arm of an event of a field die that is powered gives the next state. -/
theorem goes_onDie {i : Instr} {s t : State} {f : State → State} (hup : DieUp s) (hi : exec i s = onDie s f) (ht : f s = t) : Goes i s t := by
  have hp : s.die.powered = true := hup
  rw [Goes, hi, onDie, if_pos hp, ht]

/-! ### Entries of the eject table -/

section
variable (s : State) (e : Nat) (x : Entry)

@[simp] theorem State.entry_setEntry : (s.setEntry e x).entry e = x := by
  rw [State.entry, State.setEntry, tgetD, tget?_tset_same]

theorem State.entry_setEntry_other {f : Nat} (h : f ≠ e) : (s.setEntry e x).entry f = s.entry f := by
  rw [State.entry, State.setEntry, tgetD, tget?_tset_other _ _ h, State.entry, tgetD]

@[simp] theorem State.entry_report (r : Report) (f : Nat) : (s.report r).entry f = s.entry f := rfl
@[simp] theorem State.entry_dropMsg (f : Nat) : s.dropMsg.entry f = s.entry f := rfl
@[simp] theorem State.entry_tallyUp (k f : Nat) : (s.tallyUp k).entry f = s.entry f := rfl

theorem State.entry_setStop (f : Nat) : s.setStop.entry f = s.entry f := by
  unfold State.setStop; split <;> rfl

end

/-- What an event of the eject table may change on the field die, besides one entry. -/
structure EntryStep (e : Nat) (s t : State) : Prop where
  only : OnlyDie s t
  other : ∀ f, f ≠ e → t.entry f = s.entry f
  enc : t.die.enc = s.die.enc
  safe : t.die.safe = s.die.safe

namespace EntryStep
variable {e : Nat} {r s t : State}

theorem refl (s : State) : EntryStep e s s := ⟨rfl, fun _ _ => rfl, rfl, rfl⟩

theorem trans (h : EntryStep e r s) (k : EntryStep e s t) : EntryStep e r t := by
  obtain ⟨h1, h2, h3, h4⟩ := h
  obtain ⟨k1, k2, k3, k4⟩ := k
  refine ⟨?_, fun f hf => (k2 f hf).trans (h2 f hf), k3.trans h3, k4.trans h4⟩
  unfold OnlyDie at *
  rw [k1, h1]

theorem setEntry (s : State) (x : Entry) : EntryStep e s (s.setEntry e x) :=
  ⟨rfl, fun _ hf => s.entry_setEntry_other e x hf, rfl, rfl⟩

theorem report (s : State) (r : Report) : EntryStep e s (s.report r) := ⟨rfl, fun _ _ => rfl, rfl, rfl⟩

theorem dropMsg (s : State) : EntryStep e s s.dropMsg := ⟨rfl, fun _ _ => rfl, rfl, rfl⟩

theorem tallyUp (s : State) (k : Nat) : EntryStep e s (s.tallyUp k) := ⟨rfl, fun _ _ => rfl, rfl, rfl⟩

theorem setStop (s : State) : EntryStep e s s.setStop := by
  unfold State.setStop
  split
  · exact ⟨rfl, fun _ _ => rfl, rfl, rfl⟩
  · exact ⟨rfl, fun _ _ => rfl, rfl, rfl⟩

theorem checkWritten (s : State) : EntryStep e s (s.checkWritten e) := by
  unfold State.checkWritten
  dsimp only
  split
  · split
    · exact setEntry s _
    · exact (setEntry s _).trans (tallyUp _ _)
  · exact refl s

theorem pos (h : EntryStep e s t) (c : Nat) : t.pos c = s.pos c := by
  unfold State.pos State.encCh; rw [h.enc]

end EntryStep

/-- A check of a written entry clears its error, and changes no report. -/
theorem State.checkWritten_view (s : State) (e : Nat) : (s.checkWritten e).entry e = { s.entry e with flaw := none } ∧
    (s.checkWritten e).die.entries = s.die.entries ∧ (s.checkWritten e).die.link = s.die.link ∧
    (s.checkWritten e).die.loading = s.die.loading ∧
    tgetD (s.checkWritten e).die.tally 1 0 = tgetD s.die.tally 1 0 + (if (s.entry e).flaw = some false then 1 else 0) := by
  unfold State.checkWritten
  dsimp only
  split
  · rename_i u hu
    cases u with
    | true => exact ⟨s.entry_setEntry e _, rfl, rfl, rfl, by rw [hu]; rfl⟩
    | false =>
      refine ⟨s.entry_setEntry e _, rfl, rfl, rfl, ?_⟩
      show tgetD (tset s.die.tally 1 (tgetD s.die.tally 1 0 + 1)) 1 0 = _
      rw [tgetD, tget?_tset_same, if_pos hu]
  · rename_i hu
    refine ⟨?_, rfl, rfl, rfl, by rw [hu]; rfl⟩
    rw [← hu]

/-- An entry without an error passes its check when it is armed. -/
theorem State.checkArmed_sound {s : State} {e : Nat} (h : (s.entry e).flaw = none) : s.checkArmed e = s := by
  unfold State.checkArmed
  dsimp only
  rw [h]

/-- The close of an entry makes its action final; STOP sets the latch (R21, R23). -/
theorem State.closeEntry_view (s : State) (e : Nat) : EntryStep e s (s.closeEntry e) ∧
    (s.closeEntry e).entry e = { s.entry e with closed := true, final := (s.entry e).decided } ∧
    (s.closeEntry e).die.entries = s.die.entries ∧ ((s.entry e).decided = 2 → (s.closeEntry e).die.stop = true) := by
  unfold State.closeEntry
  dsimp only
  split
  · rename_i h
    refine ⟨(EntryStep.setEntry s _).trans (EntryStep.setStop _), ?_, ?_, fun _ => ?_⟩
    · rw [State.entry_setStop, State.entry_setEntry]
    · unfold State.setStop; split <;> rfl
    · unfold State.setStop State.statusDue
      dsimp only
      split
      · assumption
      · rfl
  · rename_i h
    exact ⟨EntryStep.setEntry s _, s.entry_setEntry e _, rfl, fun h2 => absurd h2 h⟩

section
variable {s : State} {e : Nat} (hflaw : (s.entry e).flaw = none)

/-- An entry whose eject count has passed is refused (R18). -/
theorem State.judge_late (h : (s.entry e).eject ≤ s.pos (s.entry e).enc) :
    EntryStep e s (s.judge e) ∧ ((s.judge e).entry e).phase = .free ∧ ∃ r, (s.judge e).die.entries = s.die.entries ++ [r] ∧
      r.what = .refuse e := by
  unfold State.judge
  dsimp only
  rw [if_pos h]
  refine ⟨(EntryStep.setEntry s _).trans (EntryStep.report _ _), ?_, ⟨_, rfl, rfl⟩⟩
  rw [State.entry_report, State.freeEntry, State.entry_setEntry]

include hflaw

/-- An entry whose close count has passed is closed when it is armed (R18). -/
theorem State.judge_closed (h : s.pos (s.entry e).enc < (s.entry e).eject) (hc : (s.entry e).close ≤ s.pos (s.entry e).enc) :
    EntryStep e s (s.judge e) ∧ ((s.judge e).entry e).phase = .armed ∧ ((s.judge e).entry e).closed = true ∧
      ((s.judge e).entry e).final = (s.entry e).prov ∧ ((s.entry e).prov = 2 → (s.judge e).die.stop = true) ∧
      ∃ r, (s.judge e).die.entries = s.die.entries ++ [r] ∧ r.what = .ack e true := by
  unfold State.judge
  dsimp only
  rw [if_neg (by omega), if_pos hc]
  obtain ⟨hstep, hent, hrep, hstop⟩ := (s.setEntry e { s.entry e with phase := .armed, amended := none }).closeEntry_view e
  rw [State.entry_setEntry] at hent hstop
  generalize (s.setEntry e { s.entry e with phase := .armed, amended := none }).closeEntry e = u at hstep hent hrep hstop
  have hdone : State.checkArmed (u.report (.ack e true)) e = u.report (.ack e true) :=
    State.checkArmed_sound (by rw [State.entry_report, hent]; exact hflaw)
  rw [hdone, State.entry_report, hent]
  refine ⟨((EntryStep.setEntry s _).trans hstep).trans (EntryStep.report _ _), rfl, rfl, rfl, fun h2 => hstop h2,
    ⟨{ what := .ack e true, time := stamp5 u.time.now }, ?_, rfl⟩⟩
  exact congrArg (· ++ _) hrep

/-- Any other entry is armed (R18). -/
theorem State.judge_armed (h : s.pos (s.entry e).enc < (s.entry e).eject) (hc : s.pos (s.entry e).enc < (s.entry e).close) :
    EntryStep e s (s.judge e) ∧ ((s.judge e).entry e).phase = .armed ∧ ((s.judge e).entry e).closed = (s.entry e).closed ∧
      ∃ r, (s.judge e).die.entries = s.die.entries ++ [r] ∧ r.what = .ack e false := by
  unfold State.judge
  dsimp only
  rw [if_neg (by omega), if_neg (by omega)]
  have hdone : State.checkArmed ((s.setEntry e { s.entry e with phase := .armed }).report (.ack e false)) e =
      (s.setEntry e { s.entry e with phase := .armed }).report (.ack e false) :=
    State.checkArmed_sound (by rw [State.entry_report, State.entry_setEntry]; exact hflaw)
  rw [hdone, State.entry_report, State.entry_setEntry]
  exact ⟨(EntryStep.setEntry s _).trans (EntryStep.report _ _), rfl, rfl, ⟨_, rfl, rfl⟩⟩

end

/-! ### The field die's copy of its settings -/

/-- What taking a setting leaves beside the copy: the table, the link, the sampled inputs. -/
structure CfgKept (s t : State) : Prop where
  frame : t = { s with die := t.die, copies := t.copies }
  copy : t.die.copy = s.die.copy
  table : t.die.table = s.die.table
  link : t.die.link = s.die.link
  copies : t.copies = s.copies
  splits : t.die.splits = s.die.splits
  raw : t.die.raw = s.die.raw

namespace CfgKept
variable {r s t : State}

theorem refl (s : State) : CfgKept s s := ⟨rfl, rfl, rfl, rfl, rfl, rfl, rfl⟩

theorem trans (h : CfgKept r s) (k : CfgKept s t) : CfgKept r t := by
  obtain ⟨h1, h2, h3, h4, h5, h6, h7⟩ := h
  obtain ⟨k1, k2, k3, k4, k5, k6, k7⟩ := k
  exact ⟨by rw [k1, h1], k2.trans h2, k3.trans h3, k4.trans h4, k5.trans h5, k6.trans h6, k7.trans h7⟩

theorem setDeb (s : State) (i : Nat) (b : Bool) : CfgKept s (s.setDeb i b) := by
  unfold State.setDeb; split <;> exact ⟨rfl, rfl, rfl, rfl, rfl, rfl, rfl⟩

theorem undebounced (h : CfgKept s t) (i : Nat) : t.undebounced i = s.undebounced i := by
  simp only [State.undebounced, State.isProbe, State.dget, State.copyOf, h.copy, h.splits]

theorem showRaw (s : State) : CfgKept s s.showRaw :=
  timesFrom_keeps (P := CfgKept s) (fun u i hu => by
    split
    · exact hu.trans (setDeb u i _)
    · exact hu) (refl s) 16 0

end CfgKept

theorem bitAt_setBits (x i j : Nat) (b : Bool) : bitAt (setBits x i 1 (bit b)) j = if j = i then b else bitAt x j := by
  rw [bitAt_eq_testBit, bitAt_eq_testBit, testBit_setBits]
  by_cases h : j = i
  · subst h
    rw [if_pos ⟨Nat.le_refl _, Nat.lt_succ_self _⟩, if_pos rfl, Nat.sub_self]
    cases b <;> rfl
  · rw [if_neg (by omega), if_neg h]

theorem State.deb_setDeb (s : State) (i j : Nat) (b : Bool) :
    bitAt (s.setDeb i b).die.deb j = if j = i then b else bitAt s.die.deb j := by
  unfold State.setDeb
  split
  · rename_i h
    by_cases hj : j = i
    · subst hj; rw [if_pos rfl]; exact h
    · rw [if_neg hj]
  · exact bitAt_setBits _ _ _ _

/-- The inputs that have no debounce show their sampled level (R336, R347). -/
theorem State.deb_showRaw (s : State) {j : Nat} (hj : j < 16) (hu : s.undebounced j = true) :
    bitAt s.showRaw.die.deb j = bitAt s.die.raw j := by
  have hgen : ∀ (n i : Nat) (u : State), CfgKept s u → (i ≤ j → j < i + n) → (j < i → bitAt u.die.deb j = bitAt s.die.raw j) →
      bitAt (timesFrom (fun t i => if t.undebounced i then t.setDeb i (bitAt t.die.raw i) else t) n i u).die.deb j =
        bitAt s.die.raw j := by
    intro n
    induction n with
    | zero => intro i u _ hin hdone; exact hdone (by omega)
    | succ n ih =>
      intro i u hk hin hdone
      refine ih (i + 1) _ ?_ (by omega) fun hlt => ?_ <;> dsimp only
      · split
        · exact hk.trans (CfgKept.setDeb u i _)
        · exact hk
      · by_cases hji : j = i
        · subst hji
          rw [if_pos (by rw [hk.undebounced]; exact hu), State.deb_setDeb, if_pos rfl, hk.raw]
        · split
          · rw [State.deb_setDeb, if_neg hji]; exact hdone (by omega)
          · exact hdone (by omega)
  exact hgen 16 0 s (CfgKept.refl s) (by omega) (by omega)

/-- A setting that the field die has taken: the copy, and which critical words it touches. -/
def State.cfgTaken (s : State) (k v : Nat) : State :=
  State.stored { s with die := { s.die with copy := tset s.die.copy k v } }
    (if k = cfgIndex R.FIELD_SAFE_VALUES 0 then 45 else if k = cfgIndex R.FIELD_ENC_CFG 0 then 46
      else if k = cfgIndex R.FIELD_ENC_CFG 1 then 47 else 48)

theorem State.cfgTaken_copies (s : State) (k v : Nat) {w : Nat} (hw : w < 45) :
    tget? (s.cfgTaken k v).copies w = tget? s.copies w := by
  refine tget?_tdel_other _ ?_
  split_ifs <;> omega

/-- The settings of the probes and of the debounce are none of a line trigger's or an encoder's. -/
theorem isInputCfg_apart {k : Nat} (h : isInputCfg k = true) :
    (∀ i < 8, k ≠ cfgIndex R.FIELD_FO_TRIG_PERIOD i) ∧ k ≠ cfgIndex R.FIELD_ENC_CFG 1 := by
  have hall : ∀ k ∈ cfgIndex R.FIELD_PROBE_CFG 0 :: (List.range 16).map (cfgIndex R.FIELD_FI_CFG),
      (∀ i < 8, k ≠ cfgIndex R.FIELD_FO_TRIG_PERIOD i) ∧ k ≠ cfgIndex R.FIELD_ENC_CFG 1 := by decide +kernel
  refine hall k ?_
  simp only [isInputCfg, Bool.or_eq_true, beq_iff_eq, List.any_eq_true] at h
  rcases h with h | ⟨i, hi, h⟩
  · rw [h]; exact List.mem_cons_self
  · rw [h]; exact List.mem_cons_of_mem _ (List.mem_map_of_mem hi)

theorem State.takeCfg_kept (s : State) (k v : Nat) : CfgKept (s.cfgTaken k v) (s.takeCfg k v) ∧
    (isInputCfg k = true → s.takeCfg k v = (s.cfgTaken k v).showRaw) := by
  unfold State.takeCfg
  dsimp only
  rw [show State.stored _ _ = s.cfgTaken k v from rfl]
  refine ⟨?_, fun h => ?_⟩
  · split
    · exact ⟨rfl, rfl, rfl, rfl, rfl, rfl, rfl⟩
    · split
      · exact ⟨rfl, rfl, rfl, rfl, rfl, rfl, rfl⟩
      · split
        · exact CfgKept.showRaw _
        · exact CfgKept.refl _
  · obtain ⟨h1, h2⟩ := isInputCfg_apart h
    rw [if_neg (fun hc => h1 _ hc.2.2 hc.2.1), if_neg (fun hc => h2 hc.1), if_pos h]

/-! ### FIELD_TABLE_CLEAR -/

theorem State.freeAll_view (s : State) (es : List Nat) : OnlyDie s (foldState (fun t e => t.freeEntry e) s es) ∧
    (foldState (fun t e => t.freeEntry e) s es).die.entries = s.die.entries ∧
    (foldState (fun t e => t.freeEntry e) s es).die.pulses = s.die.pulses ∧
    ∀ e, (e ∈ es ∨ (s.entry e).phase = .free) → ((foldState (fun t e => t.freeEntry e) s es).entry e).phase = .free := by
  induction es generalizing s with
  | nil => exact ⟨rfl, rfl, rfl, fun e he => he.resolve_left (by simp)⟩
  | cons a es ih =>
    rw [foldState_cons]
    obtain ⟨h1, h2, h3, h4⟩ := ih (s.freeEntry a)
    refine ⟨?_, h2, h3, fun e he => h4 e ?_⟩
    · unfold OnlyDie at *
      rw [h1]
      rfl
    · by_cases hea : e = a
      · subst hea
        exact .inr (by rw [State.freeEntry, State.entry_setEntry])
      · rcases he with he | he
        · exact .inl ((List.mem_cons.mp he).resolve_left hea)
        · exact .inr (by rw [State.freeEntry, State.entry_setEntry_other _ _ _ hea]; exact he)

theorem tget?_none_of_key {α : Type} {t : Tbl α} {k : Nat} (h : k ∉ t.map (·.1)) : tget? t k = none := by
  induction t with
  | nil => rfl
  | cons e t ih =>
    simp only [List.map_cons, List.mem_cons, not_or] at h
    unfold tget?
    rw [if_neg (fun hk => h.1 hk)]
    exact ih h.2

/-! ### The messages of an entry -/

/-- The first message of an entry, taken (R335). -/
def State.takeA (s : State) (e b mask enc prov : Nat) (us : Bool) : State :=
  let t := s.dropMsg.checkWritten e
  State.setEntry { t with die := { t.die with loading := e } } e
    { phase := .partA, bobbin := b, mask := mask, enc := enc, prov := prov, unitUs := us }

theorem State.takeA_step (s : State) (e b mask enc prov : Nat) (us : Bool) : EntryStep e s (s.takeA e b mask enc prov us) := by
  have hstep := (EntryStep.dropMsg (e := e) s).trans (EntryStep.checkWritten s.dropMsg)
  unfold State.takeA
  generalize s.dropMsg.checkWritten e = t at hstep
  have hload : EntryStep e t { t with die := { t.die with loading := e } } := ⟨rfl, fun _ _ => rfl, rfl, rfl⟩
  exact hstep.trans (hload.trans (EntryStep.setEntry _ _))

/-- The state in which a message of the entry that is loading is taken: the entry's storage has been checked. -/
def State.loaded (s : State) : State := s.dropMsg.checkWritten s.die.loading

theorem State.loaded_view (s : State) : EntryStep s.die.loading s s.loaded ∧
    s.loaded.entry s.die.loading = { s.entry s.die.loading with flaw := none } ∧ s.loaded.die.entries = s.die.entries := by
  obtain ⟨hent, hrep, -⟩ := s.dropMsg.checkWritten_view s.die.loading
  exact ⟨(EntryStep.dropMsg s).trans (EntryStep.checkWritten s.dropMsg), hent, hrep⟩

/-- The third message of an entry, taken: the entry is complete (R335). -/
def State.takeC (s : State) (high lead width : Nat) : State :=
  let x := s.loaded.entry s.die.loading
  let eject := signed 48 (x.low + 2 ^ 40 * high)
  s.loaded.setEntry s.die.loading { x with phase := .held, eject := eject, close := eject - lead, width := width }

theorem State.takeC_view (s : State) (high lead width : Nat) : EntryStep s.die.loading s (s.takeC high lead width) ∧
    (s.takeC high lead width).entry s.die.loading = { s.entry s.die.loading with
      phase := .held, eject := signed 48 ((s.entry s.die.loading).low + 2 ^ 40 * high)
      close := signed 48 ((s.entry s.die.loading).low + 2 ^ 40 * high) - lead, width := width, flaw := none } ∧
    (s.takeC high lead width).die.entries = s.die.entries := by
  obtain ⟨hstep, hent, hrep⟩ := s.loaded_view
  unfold State.takeC
  dsimp only
  rw [hent]
  exact ⟨hstep.trans (EntryStep.setEntry _ _), State.entry_setEntry _ _ _, hrep⟩

section
variable {s : State}

theorem goes_entryA {e b mask enc prov : Nat} {us : Bool} (h : DieTakes s (.entryA e b mask enc prov us)) :
    Goes .fieldEntryA s (s.takeA e b mask enc prov us) := by
  refine goes_onDie h.1 (by unfold exec; rfl) ?_
  dsimp only
  rw [h.2]
  rfl

theorem goes_entryB {low : Nat} (h : DieTakes s (.entryB low)) : Goes .fieldEntryB s
    (if (s.loaded.entry s.die.loading).phase = .partA then
      s.loaded.setEntry s.die.loading { s.loaded.entry s.die.loading with phase := .partB, low := low } else s.dropMsg) := by
  refine goes_onDie h.1 (by unfold exec; rfl) ?_
  dsimp only
  rw [h.2]
  rfl

theorem goes_entryC {high lead width : Nat} (h : DieTakes s (.entryC high lead width)) : Goes .fieldEntryC s
    (if (s.loaded.entry s.die.loading).phase = .partB then
      (if s.die.safe then s.takeC high lead width else (s.takeC high lead width).judge s.die.loading) else s.dropMsg) := by
  refine goes_onDie h.1 (by unfold exec; rfl) ?_
  dsimp only
  rw [h.2]
  rfl

theorem goes_cfgMsg {k v : Nat} (h : DieTakes s (.cfg k v)) (hk : k ≠ clearIndex) : Goes .fieldCfgMsg s (s.dropMsg.takeCfg k v) := by
  refine goes_onDie h.1 (by unfold exec; rfl) ?_
  rw [h.2]
  exact if_neg hk

theorem goes_tableClear {v : Nat} (h : DieTakes s (.cfg clearIndex v)) : Goes .fieldTableClear s
    (if bitAt v 0 then foldState (fun t e => t.freeEntry e) s.dropMsg (s.die.table.map (·.1)) else s.dropMsg) := by
  refine goes_onDie h.1 (by unfold exec; rfl) ?_
  rw [h.2]
  exact if_pos rfl

end

/-- Settles O30: each message by the step that it makes of one entry, and the settings by what they leave. -/
theorem fieldDieMessages : Obligations.FieldDieMessages := by
  unfold Obligations.FieldDieMessages
  refine ⟨?entryA, ?entryB, ?entryC, ?cfg, ?strayB, ?strayC, ?noClear, ?noMessage, ?clear, ?stop, ?resync⟩
  case entryA =>
    intro s e b mask enc prov us h
    obtain ⟨-, -, hlink, -, htally⟩ := s.dropMsg.checkWritten_view e
    have hstep := s.takeA_step e b mask enc prov us
    refine ⟨_, goes_entryA h, hstep.only, rfl, congrArg LinkEnd.inbox hlink, State.entry_setEntry _ _ _, htally, hstep.other⟩
  case entryB =>
    intro s low h hph
    obtain ⟨hstep, hent, -⟩ := s.loaded_view
    have hgo := goes_entryB h
    rw [if_pos (by rw [hent]; exact hph), hent] at hgo
    have hall := hstep.trans (EntryStep.setEntry s.loaded { s.entry s.die.loading with phase := .partB, low := low, flaw := none })
    exact ⟨_, hgo, hall.only, State.entry_setEntry _ _ _, hall.other⟩
  case entryC =>
    rintro s high lead width h hph eject heject p hp
    obtain ⟨-, hload, -⟩ := s.loaded_view
    obtain ⟨hstep, hent, hrep⟩ := s.takeC_view high lead width
    have hgo := goes_entryC h
    rw [if_pos (by rw [hload]; exact hph)] at hgo
    rw [← heject] at hent
    have hpos : (s.takeC high lead width).pos (s.entry s.die.loading).enc = p := (hstep.pos _).trans hp.symm
    generalize s.takeC high lead width = u at hstep hent hrep hgo hpos
    cases hsafe : s.die.safe with
    | true =>
      rw [hsafe] at hgo
      exact ⟨u, hgo, hstep.only, hstep.other, fun _ => ⟨by rw [hent], by rw [hent], by rw [hent], hrep⟩, nofun, nofun, nofun⟩
    | false =>
      rw [hsafe] at hgo
      have hej : (u.entry s.die.loading).eject = eject ∧ (u.entry s.die.loading).close = eject - lead ∧
          (u.entry s.die.loading).enc = (s.entry s.die.loading).enc ∧ (u.entry s.die.loading).flaw = none ∧
          (u.entry s.die.loading).prov = (s.entry s.die.loading).prov ∧
          (u.entry s.die.loading).closed = (s.entry s.die.loading).closed := by rw [hent]; exact ⟨rfl, rfl, rfl, rfl, rfl, rfl⟩
      obtain ⟨hje, hjc, hjn, hjf, hjp, hjcl⟩ := hej
      have hall : EntryStep s.die.loading u (u.judge s.die.loading) := by
        by_cases h1 : eject ≤ p
        · exact (State.judge_late (by rw [hje, hjn, hpos]; exact h1)).1
        · by_cases h2 : eject - lead ≤ p
          · exact (State.judge_closed hjf (by rw [hje, hjn, hpos]; omega) (by rw [hjc, hjn, hpos]; exact h2)).1
          · exact (State.judge_armed hjf (by rw [hje, hjn, hpos]; omega) (by rw [hjc, hjn, hpos]; omega)).1
      refine ⟨u.judge s.die.loading, hgo, (hstep.trans hall).only, (hstep.trans hall).other, nofun, fun _ h1 => ?_, fun _ h1 h2 => ?_,
        fun _ h2 => ?_⟩
      · obtain ⟨-, hph, r, hr, hw⟩ := State.judge_late (s := u) (e := s.die.loading) (by rw [hje, hjn, hpos]; exact h1)
        exact ⟨hph, r, by rw [hr, hrep], hw⟩
      · obtain ⟨-, hph, hcl, hfin, hstop, r, hr, hw⟩ := State.judge_closed hjf (by rw [hje, hjn, hpos]; omega)
          (by rw [hjc, hjn, hpos]; exact h2)
        rw [hjp] at hfin hstop
        exact ⟨hph, hcl, hfin, hstop, r, by rw [hr, hrep], hw⟩
      · obtain ⟨-, hph, hcl, r, hr, hw⟩ := State.judge_armed hjf (by rw [hje, hjn, hpos]; omega) (by rw [hjc, hjn, hpos]; exact h2)
        exact ⟨hph, hcl.trans hjcl, r, by rw [hr, hrep], hw⟩
  case cfg =>
    intro s k v h hk
    obtain ⟨hkept, hraw⟩ := s.dropMsg.takeCfg_kept k v
    refine ⟨_, goes_cfgMsg h hk, ?_, ?_, fun j hj => ?_, hkept.table, ?_, fun w hw => ?_, fun hin i hi hu => ?_⟩
    · have hset : s.dropMsg.cfgTaken k v = { s with die := (s.dropMsg.cfgTaken k v).die, copies := (s.dropMsg.cfgTaken k v).copies } := rfl
      have hframe := hkept.frame
      generalize s.dropMsg.cfgTaken k v = u at hset hframe
      generalize s.dropMsg.takeCfg k v = t at hframe
      rw [hframe, hset]
    · rw [hkept.copy]; exact tget?_tset_same _ _ _
    · rw [hkept.copy]; exact tget?_tset_other _ _ hj
    · exact congrArg LinkEnd.inbox hkept.link
    · rw [hkept.copies]; exact s.dropMsg.cfgTaken_copies k v hw
    · rw [hkept.undebounced] at hu
      rw [hraw hin]
      exact State.deb_showRaw _ hi hu
  case strayB =>
    intro s low h hph
    have hgo := goes_entryB h
    rwa [if_neg (by rw [s.loaded_view.2.1]; exact hph)] at hgo
  case strayC =>
    intro s high lead width h hph
    have hgo := goes_entryC h
    rwa [if_neg (by rw [s.loaded_view.2.1]; exact hph)] at hgo
  case noClear =>
    intro s v h hv
    have hgo := goes_tableClear h
    rwa [hv] at hgo
  case noMessage =>
    intro s i hup hno hi
    simp only [List.mem_cons, List.not_mem_nil, or_false] at hi
    rcases hi with rfl | rfl | rfl | rfl | rfl | rfl | rfl <;>
      exact goes_onDie hup (by unfold exec; rfl) (by simp only [hno])
  case clear =>
    intro s v h hv
    have hgo := goes_tableClear h
    rw [hv] at hgo
    obtain ⟨honly, hent, hpul, hfree⟩ := s.dropMsg.freeAll_view (s.die.table.map (·.1))
    refine ⟨_, hgo, ?_, fun e => hfree e ?_, hent, hpul⟩
    · have hdrop : OnlyDie s s.dropMsg := rfl
      generalize s.dropMsg = u at honly hdrop
      unfold OnlyDie at *
      rw [if_pos rfl, honly, hdrop]
    · by_cases he : e ∈ s.die.table.map (·.1)
      · exact .inl he
      · refine .inr ?_
        rw [State.entry_dropMsg, State.entry, tgetD, tget?_none_of_key he]
  case stop =>
    intro s h
    exact ⟨_, goes_onDie h.1 (by unfold exec; rfl) (by dsimp only; rw [h.2]; rfl), rfl⟩
  case resync =>
    intro s h
    refine ⟨{ s with die := { s.dropMsg.die.snapshot with link := s.dropMsg.die.link.restart, stDue := true } },
      goes_onDie h.1 (by unfold exec; rfl) (by dsimp only; rw [h.2]; rfl), rfl, rfl, rfl, rfl, rfl, rfl, rfl, rfl, fun r hr c p v hw => ?_⟩
    have hmem : r ∈ s.die.first.filter fun r => match r.what with | .sync _ _ _ => false | _ => true := hr
    have hf := (List.mem_filter.mp hmem).2
    rw [hw] at hf
    exact Bool.false_ne_true hf

end Sys2Proof.Machine
end

section
/-! The life of an eject entry (R20 to R23, R337, R341 to R343, R363 to R365). -/
namespace Sys2Proof.Machine
open Sys2Proof.Claims

/-! ### Amendments that have arrived -/

/-- What an answered amendment leaves: the entries but their amendment and its answer, and all of the field die that the
compares read. -/
structure Amended (s t : State) : Prop where
  only : OnlyDie s t
  entry : ∀ e, ∃ a b, t.entry e = { s.entry e with amended := a, answered := b }
  enc : t.die.enc = s.die.enc
  safe : t.die.safe = s.die.safe
  copy : t.die.copy = s.die.copy
  splits : t.die.splits = s.die.splits
  amendIn : t.die.amendIn = s.die.amendIn
  powered : t.die.powered = s.die.powered
  faults : t.die.faults = s.die.faults

theorem onlyDie_trans {r s t : State} (h : OnlyDie r s) (k : OnlyDie s t) : OnlyDie r t := by
  unfold OnlyDie at *; rw [k, h]

namespace Amended
variable {r s t : State}

theorem refl (s : State) : Amended s s := ⟨rfl, fun e => ⟨(s.entry e).amended, (s.entry e).answered, rfl⟩, rfl, rfl, rfl, rfl, rfl, rfl, rfl⟩

theorem trans (h : Amended r s) (k : Amended s t) : Amended r t := by
  obtain ⟨h1, h2, h3, h4, h5, h6, h7, h8, h9⟩ := h
  obtain ⟨k1, k2, k3, k4, k5, k6, k7, k8, k9⟩ := k
  refine ⟨onlyDie_trans h1 k1, fun e => ?_, k3.trans h3, k4.trans h4, k5.trans h5, k6.trans h6, k7.trans h7, k8.trans h8, k9.trans h9⟩
  obtain ⟨a, b, he⟩ := h2 e
  obtain ⟨c, d, ke⟩ := k2 e
  exact ⟨c, d, ke.trans (by rw [he])⟩

theorem set (s : State) (e : Nat) (a : Option Nat) (b : Bool) :
    Amended s (s.setEntry e { s.entry e with amended := a, answered := b }) := by
  refine ⟨rfl, fun f => ?_, rfl, rfl, rfl, rfl, rfl, rfl, rfl⟩
  by_cases h : f = e
  · subst h; exact ⟨a, b, s.entry_setEntry f _⟩
  · exact ⟨_, _, s.entry_setEntry_other e _ h⟩

theorem report (s : State) (r : Report) : Amended s (s.report r) := ⟨rfl, fun _ => ⟨_, _, rfl⟩, rfl, rfl, rfl, rfl, rfl, rfl, rfl⟩

theorem amendEntry (s : State) (e a : Nat) : Amended s (s.amendEntry e a) := by
  unfold State.amendEntry
  dsimp only
  split
  · exact refl s
  · split
    · split
      · exact (set s e _ true).trans (report _ _)
      · exact (set s e _ true).trans (report _ _)
    · exact (set s e _ true).trans (report _ _)
    · exact refl s

theorem pos (h : Amended s t) (c : Nat) : t.pos c = s.pos c := by unfold State.pos State.encCh; rw [h.enc]

end Amended

section
variable {s : State} {e : Nat} (ha : (s.entry e).answered = false) (hp : (s.entry e).phase = .armed)
include ha hp

/-- An amendment that comes before the close is accepted (R20). -/
theorem State.amendEntry_accepts (hc : (s.entry e).closed = false) (a : Nat) :
    s.amendEntry e a = (s.setEntry e { s.entry e with amended := some a, answered := true }).report (.accept e) := by
  unfold State.amendEntry
  dsimp only
  rw [ha, hp, hc]
  rfl

/-- One that comes after it is rejected (R20). -/
theorem State.amendEntry_rejects (hc : (s.entry e).closed = true) (a : Nat) :
    s.amendEntry e a = (s.setEntry e { s.entry e with answered := true }).report (.reject e false) := by
  unfold State.amendEntry
  dsimp only
  rw [ha, hp, hc]
  rfl

end

theorem State.answerAmends_amended (s : State) : Amended { s with die := { s.die with amendIn := [] } } s.answerAmends := by
  unfold State.answerAmends
  dsimp only
  split
  · exact Amended.refl _
  · exact foldState_keeps (P := Amended { s with die := { s.die with amendIn := [] } }) (fun u a hu => hu.trans (Amended.amendEntry u _ _))
      (Amended.refl _) _

theorem State.answerAmends_none {s : State} (h : s.die.amendIn = []) : s.answerAmends = s := by
  have hset : ({ s with die := { s.die with amendIn := [] } } : State) = s := by rw [← h]
  unfold State.answerAmends
  dsimp only
  rw [h, foldState_nil, ite_self, hset]

theorem State.answerAmends_only (s : State) : OnlyDie s s.answerAmends := by
  have h := s.answerAmends_amended.only
  have h0 : OnlyDie s { s with die := { s.die with amendIn := [] } } := rfl
  exact onlyDie_trans h0 h

/-! ### Compares -/

theorem State.closeEntry_stop {s : State} {e : Nat} (h : (s.entry e).decided ≠ 2) : (s.closeEntry e).die.stop = s.die.stop := by
  unfold State.closeEntry
  dsimp only
  rw [if_neg (show (s.entry e).decided ≠ actStop from h)]
  rfl

theorem stamp5_le (t : Nat) : stamp5 t ≤ t := Nat.div_mul_le_self _ _

section
variable {s : State} {e : Nat}

/-- The close compare matches (R21). -/
theorem State.closeMatch_closes (hs : s.die.safe = false) (hp : (s.entry e).phase = .armed) (hc : (s.entry e).closed = false)
    (hpos : (s.entry e).close ≤ s.pos (s.entry e).enc) :
    s.closeMatch e = (s.closeEntry e).report (.close e (s.entry e).amended.isSome) := if_pos ⟨hs, hp, hc, hpos⟩

theorem State.closeMatch_stays
    (h : s.pos (s.entry e).enc < (s.entry e).close ∨ (s.entry e).closed = true ∨ s.die.safe = true ∨ (s.entry e).phase ≠ .armed) :
    s.closeMatch e = s := by
  refine if_neg ?_
  rintro ⟨hs, hp, hc, hpos⟩
  rcases h with h | h | h | h
  · omega
  · rw [hc] at h; exact absurd h (by decide)
  · rw [hs] at h; exact absurd h (by decide)
  · exact h hp

theorem State.ejectMatch_stays
    (h : (s.entry e).phase ≠ .armed ∨ (s.entry e).closed = false ∨ s.pos (s.entry e).enc < (s.entry e).eject ∨ s.die.safe = true) :
    s.ejectMatch e = s := by
  refine if_neg ?_
  rintro ⟨hs, hp, hc, hpos⟩
  rcases h with h | h | h | h
  · exact h hp
  · rw [hc] at h; exact absurd h (by decide)
  · omega
  · rw [hs] at h; exact absurd h (by decide)

/-- The eject compare matches (R22, R23). -/
theorem State.ejectMatch_fires (hs : s.die.safe = false) (hp : (s.entry e).phase = .armed) (hc : (s.entry e).closed = true)
    (hpos : (s.entry e).eject ≤ s.pos (s.entry e).enc) :
    s.ejectMatch e = State.report (State.freeEntry (if (s.entry e).final = 0 then s else
      { s with die := { s.die with pulses := s.die.pulses ++ [s.pulseOf (s.entry e) e] } }) e) (.eject e false 0) :=
  if_pos ⟨hs, hp, hc, hpos⟩

theorem State.closeMatch_only (s : State) (e : Nat) : OnlyDie s (s.closeMatch e) ∧ (s.closeMatch e).die.amendIn = s.die.amendIn := by
  have hclose : OnlyDie s (s.closeEntry e) ∧ (s.closeEntry e).die.amendIn = s.die.amendIn := by
    refine ⟨(s.closeEntry_view e).1.only, ?_⟩
    unfold State.closeEntry State.setStop
    dsimp only
    split
    · split <;> rfl
    · rfl
  unfold State.closeMatch
  dsimp only
  split
  · exact ⟨onlyDie_trans hclose.1 rfl, hclose.2⟩
  · exact ⟨rfl, rfl⟩

theorem State.freeEntry_view (s : State) (e : Nat) : EntryStep e s (s.freeEntry e) ∧ ((s.freeEntry e).entry e).phase = .free := by
  refine ⟨EntryStep.setEntry s _, ?_⟩
  rw [State.freeEntry, State.entry_setEntry]

/-- What a fired entry leaves (R23). -/
theorem State.fired_view (s : State) (e : Nat) :
    let u := if (s.entry e).final = 0 then s else { s with die := { s.die with pulses := s.die.pulses ++ [s.pulseOf (s.entry e) e] } }
    let t := (u.freeEntry e).report (.eject e false 0)
    EntryStep e s t ∧ (t.entry e).phase = .free ∧ (∃ r, t.die.entries = s.die.entries ++ [r] ∧ r.what = .eject e false 0) ∧
    ((s.entry e).final = 0 → t.die.pulses = s.die.pulses) ∧
    ((s.entry e).final ≠ 0 → t.die.pulses = s.die.pulses ++ [s.pulseOf (s.entry e) e]) ∧ t.die.amendIn = s.die.amendIn := by
  by_cases h : (s.entry e).final = 0
  · simp only [if_pos h]
    obtain ⟨hstep, hph⟩ := s.freeEntry_view e
    exact ⟨hstep.trans (EntryStep.report _ _), hph, ⟨_, rfl, rfl⟩, fun _ => rfl, fun hn => absurd h hn, rfl⟩
  · simp only [if_neg h]
    have hset : EntryStep e s { s with die := { s.die with pulses := s.die.pulses ++ [s.pulseOf (s.entry e) e] } } :=
      ⟨rfl, fun _ _ => rfl, rfl, rfl⟩
    obtain ⟨hstep, hph⟩ := State.freeEntry_view { s with die := { s.die with pulses := s.die.pulses ++ [s.pulseOf (s.entry e) e] } } e
    exact ⟨hset.trans (hstep.trans (EntryStep.report _ _)), hph, ⟨_, rfl, rfl⟩, fun h0 => absurd h0 h, fun _ => rfl, rfl⟩

theorem State.ejectMatch_only (s : State) (e : Nat) : OnlyDie s (s.ejectMatch e) ∧ (s.ejectMatch e).die.amendIn = s.die.amendIn := by
  unfold State.ejectMatch
  dsimp only
  split
  · obtain ⟨hstep, -, -, -, -, hin⟩ := s.fired_view e
    exact ⟨hstep.only, hin⟩
  · exact ⟨rfl, rfl⟩

theorem State.entryTmo_only (s : State) (e : Nat) : OnlyDie s (s.entryTmo e) ∧ (s.entryTmo e).die.amendIn = s.die.amendIn := by
  unfold State.entryTmo
  dsimp only
  split
  · split <;> exact ⟨rfl, rfl⟩
  · exact ⟨rfl, rfl⟩

end

section
variable {s : State} {e : Nat}

theorem State.entryTmo_stays (h : s.dget F.FIELD_ENTRY_TMO_S = 0 ∨ (s.entry e).phase ≠ .armed) : s.entryTmo e = s := by
  refine if_neg ?_
  rintro ⟨h1, h2⟩
  exact h.elim h1 fun hn => hn h2

/-- Neither compare matches while the count is ahead of what the entry awaits, or in the safe state. -/
theorem State.compares_stay (h : s.die.safe = true ∨ CountAhead s e) : (s.closeMatch e).ejectMatch e = s := by
  have hclose : s.closeMatch e = s := by
    refine State.closeMatch_stays ?_
    rcases h with h | ⟨h, -⟩
    · exact .inr (.inr (.inl h))
    · cases hc : (s.entry e).closed with
      | true => exact .inr (.inl rfl)
      | false => exact .inl (h hc)
  rw [hclose]
  refine State.ejectMatch_stays ?_
  rcases h with h | ⟨-, h⟩
  · exact .inr (.inr (.inr h))
  · cases hc : (s.entry e).closed with
    | true => exact .inr (.inr (.inl (h hc)))
    | false => exact .inr (.inl rfl)

end

/-! ### Pulses -/

theorem foldl_min_spec {α : Type} (f : α → Nat) (l : List α) (p : α) :
    let m := l.foldl (fun a b => if f b < f a then b else a) p
    m ∈ p :: l ∧ ∀ q ∈ p :: l, f m ≤ f q := by
  induction l generalizing p with
  | nil => simp
  | cons b l ih =>
    obtain ⟨hm, hle⟩ := ih (if f b < f p then b else p)
    rw [List.foldl_cons]
    generalize l.foldl (fun a b => if f b < f a then b else a) (if f b < f p then b else p) = m at hm hle
    have hfirst := hle _ List.mem_cons_self
    refine ⟨?_, fun q hq => ?_⟩
    · rcases List.mem_cons.mp hm with h | h
      · rw [h]; split <;> simp
      · simp [h]
    · rcases List.mem_cons.mp hq with rfl | hq
      · refine le_trans hfirst ?_; split <;> omega
      · rcases List.mem_cons.mp hq with rfl | hq
        · refine le_trans hfirst ?_; split <;> omega
        · exact hle q (List.mem_cons_of_mem _ hq)

theorem State.endingPulse_spec (s : State) (e : Nat) {q : Pulse} (hq : q ∈ s.die.pulses) (he : q.entry = e) :
    ∃ p, s.endingPulse e = some p ∧ p ∈ s.die.pulses ∧ p.entry = e ∧ s.pulseDue p ≤ s.pulseDue q := by
  have hmem : q ∈ s.die.pulses.filter (·.entry == e) := List.mem_filter.mpr ⟨hq, by simp [he]⟩
  unfold State.endingPulse
  generalize hl : s.die.pulses.filter (·.entry == e) = l at hmem
  cases l with
  | nil => exact absurd hmem (by simp)
  | cons p t =>
    obtain ⟨hm, hle⟩ := foldl_min_spec s.pulseDue t p
    refine ⟨_, rfl, ?_⟩
    have hin : ∀ x ∈ p :: t, x ∈ s.die.pulses ∧ x.entry = e := by
      intro x hx
      rw [← hl] at hx
      exact ⟨(List.mem_filter.mp hx).1, beq_iff_eq.mp (List.mem_filter.mp hx).2⟩
    exact ⟨(hin _ hm).1, (hin _ hm).2, hle q hmem⟩

theorem State.endingPulse_none {s : State} {e : Nat} (h : ∀ p ∈ s.die.pulses, p.entry ≠ e) : s.endingPulse e = none := by
  have hnil : s.die.pulses.filter (·.entry == e) = [] := List.filter_eq_nil_iff.mpr fun p hp => by simp [h p hp]
  rw [State.endingPulse, hnil]

/-! ### The safe state -/

/-- An error of an entry that is armed is found when it is armed (R365). -/
theorem State.checkArmed_flawed {s : State} {e : Nat} {u : Bool} (h : (s.entry e).flaw = some u) (hp : (s.entry e).phase = .armed) :
    s.checkArmed e = (s.setEntry e { s.entry e with flaw := none }).foundFlaw u := by
  unfold State.checkArmed
  dsimp only
  rw [h]
  exact if_pos hp

/-- Entering the safe state answers what amendments have arrived, and drops every pulse (R341). -/
theorem State.enterSafe_view {s : State} (h : s.die.safe = false) (c : Nat) : OnlyDie s (s.enterSafe c) ∧ (s.enterSafe c).die.safe = true ∧
    (s.enterSafe c).die.cause = c ∧ (s.enterSafe c).die.pulses = [] ∧ (s.enterSafe c).die.table = s.answerAmends.die.table := by
  have heq : s.enterSafe c = State.statusDue { s.answerAmends with die := { s.answerAmends.die with
      safe := true, cause := c, runs := 0, pulses := [], trigOn := 0 } } := if_neg (by rw [h]; decide)
  have honly := s.answerAmends_only
  rw [heq]
  generalize s.answerAmends = t at honly
  exact ⟨onlyDie_trans honly rfl, rfl, rfl, rfl, rfl⟩

/-- In the safe state a lasting cause replaces the recorded one (R341). -/
theorem State.enterSafe_again {s : State} (h : s.die.safe = true) {c : Nat} (hc : 2 ≤ c) :
    s.enterSafe c = { s with die := { s.die with cause := c, runs := 0, stDue := true } } := by
  unfold State.enterSafe
  rw [if_pos h, if_pos hc]
  rfl

/-- What an output's level in the safe state is made of stays as the die enters it. -/
theorem State.enterSafe_levels (s : State) (c : Nat) : (s.enterSafe c).die.safe = true ∧ (s.enterSafe c).die.copy = s.die.copy ∧
    (s.enterSafe c).die.splits = s.die.splits ∧ (s.enterSafe c).die.powered = s.die.powered ∧
    (s.enterSafe c).die.faults = s.die.faults := by
  have hk := s.answerAmends_amended
  cases h : s.die.safe with
  | true =>
    unfold State.enterSafe
    rw [if_pos h]
    split <;> exact ⟨h, rfl, rfl, rfl, rfl⟩
  | false =>
    have heq : s.enterSafe c = State.statusDue { s.answerAmends with die := { s.answerAmends.die with
        safe := true, cause := c, runs := 0, pulses := [], trigOn := 0 } } := if_neg (by rw [h]; decide)
    rw [heq]
    generalize s.answerAmends = t at hk
    exact ⟨rfl, hk.copy, hk.splits, hk.powered, hk.faults⟩

theorem dget_congr {s t : State} (hc : t.die.copy = s.die.copy) (hs : t.die.splits = s.die.splits) (f : Fld) (i : Nat) :
    t.dget f i = s.dget f i := by
  unfold State.dget State.copyOf
  rw [hc, hs]

/-- What the exit from the safe state keeps while no entry has an error. -/
structure ExitKept (s t : State) : Prop where
  only : OnlyDie s t
  cause : t.die.cause = s.die.cause
  pulses : t.die.pulses = s.die.pulses
  powerup : t.die.powerup = s.die.powerup
  flaws : (∀ e, (s.entry e).flaw = none) → ∀ e, (t.entry e).flaw = none

namespace ExitKept
variable {r s t : State}

theorem refl (s : State) : ExitKept s s := ⟨rfl, rfl, rfl, rfl, id⟩

theorem trans (h : ExitKept r s) (k : ExitKept s t) : ExitKept r t :=
  ⟨onlyDie_trans h.only k.only, k.cause.trans h.cause, k.pulses.trans h.pulses, k.powerup.trans h.powerup, fun x => k.flaws (h.flaws x)⟩

theorem setEntry (s : State) (e : Nat) (x : Entry) (hx : x.flaw = (s.entry e).flaw) : ExitKept s (s.setEntry e x) := by
  refine ⟨rfl, rfl, rfl, rfl, fun h f => ?_⟩
  by_cases hf : f = e
  · subst hf; rw [State.entry_setEntry, hx]; exact h f
  · rw [State.entry_setEntry_other _ _ _ hf]; exact h f

theorem report (s : State) (r : Report) : ExitKept s (s.report r) := ⟨rfl, rfl, rfl, rfl, id⟩

theorem freeEntry (s : State) (e : Nat) : ExitKept s (s.freeEntry e) := setEntry s e _ rfl

theorem setStop (s : State) : ExitKept s s.setStop := by
  unfold State.setStop; split <;> exact ⟨rfl, rfl, rfl, rfl, id⟩

theorem closeEntry (s : State) (e : Nat) : ExitKept s (s.closeEntry e) := by
  unfold State.closeEntry
  dsimp only
  split
  · exact (setEntry s e { s.entry e with closed := true, final := (s.entry e).decided } rfl).trans (setStop _)
  · exact setEntry s e { s.entry e with closed := true, final := (s.entry e).decided } rfl

/-- With no error in any entry a judged entry meets none. -/
theorem judge (s : State) (hf : ∀ e, (s.entry e).flaw = none) (e : Nat) : ExitKept s (s.judge e) := by
  have harm : ∀ x : Entry, x.flaw = (s.entry e).flaw → ∀ r, ExitKept s (State.checkArmed ((s.setEntry e x).report r) e) := by
    intro x hx r
    rw [State.checkArmed_sound (by rw [State.entry_report, State.entry_setEntry, hx]; exact hf e)]
    exact (setEntry s e x hx).trans (report _ _)
  unfold State.judge
  dsimp only
  split
  · exact (freeEntry s e).trans (report _ _)
  · split
    · have hclose := closeEntry (s.setEntry e { s.entry e with phase := .armed, amended := none }) e
      have hset : ExitKept s (s.setEntry e { s.entry e with phase := .armed, amended := none }) := 
        setEntry s e { s.entry e with phase := .armed, amended := none } rfl
      have hboth := hset.trans hclose
      rw [State.checkArmed_sound (by rw [State.entry_report]; exact hboth.flaws hf e)]
      exact hboth.trans (report _ _)
    · exact harm { s.entry e with phase := .armed } rfl _

theorem exitEntry (s : State) (hf : ∀ e, (s.entry e).flaw = none) (e : Nat) : ExitKept s (s.exitEntry e) := by
  have hclosed : ExitKept s (if (s.entry e).closed || decide (s.pos (s.entry e).enc < (s.entry e).close) then s
      else (s.closeEntry e).report (.close e (s.entry e).amended.isSome)) := by
    split
    · exact refl s
    · exact (closeEntry s e).trans (report _ _)
  unfold State.exitEntry
  dsimp only
  split
  · exact judge s hf e
  · generalize (if (s.entry e).closed || decide (s.pos (s.entry e).enc < (s.entry e).close) then s
      else (s.closeEntry e).report (.close e (s.entry e).amended.isSome)) = t at hclosed
    split
    · exact hclosed.trans ((freeEntry t e).trans (report _ _))
    · exact hclosed
  · exact refl s

theorem exitLate (s : State) (e : Nat) : ExitKept s (s.exitLate e) := by
  unfold State.exitLate
  dsimp only
  split
  · exact (freeEntry s e).trans (report _ _)
  · exact refl s

end ExitKept

/-- The entries as the exit from the safe state treats them, one by one (R343). -/
def State.treated (s : State) : State :=
  let es := s.die.table.map (·.1)
  foldState (fun u e => u.exitLate e) (foldState (fun u e => u.exitEntry e) s es) es

theorem State.treated_kept {s : State} (hf : ∀ e, (s.entry e).flaw = none) : ExitKept s s.treated := by
  have h1 : ∀ es, ExitKept s (foldState (fun u e => u.exitEntry e) s es) := fun es =>
    foldState_keeps (P := ExitKept s) (fun u e hu => hu.trans (ExitKept.exitEntry u (hu.flaws hf) e)) (ExitKept.refl s) es
  exact foldState_keeps (P := ExitKept s) (fun u e hu => hu.trans (ExitKept.exitLate u e)) (h1 _) _

/-- The state `t` out of the safe state, its reports since `s` marked as those of the exit (R343). -/
def State.outOfSafe (s t : State) : State :=
  State.statusDue { t with die := { t.die with
    safe := false, powerup := false, runs := 0
    entries := t.die.entries.take s.die.entries.length ++ (t.die.entries.drop s.die.entries.length).map fun r => { r with atExit := true } } }

theorem State.leaveSafe_eq (s : State) : s.leaveSafe =
    if 2 ≤ s.treated.die.cause then (s.outOfSafe s.treated).enterSafe s.treated.die.cause else s.outOfSafe s.treated := rfl

theorem State.outOfSafe_view (s t : State) : OnlyDie t (s.outOfSafe t) ∧ (s.outOfSafe t).die.safe = false ∧
    (s.outOfSafe t).die.powerup = false ∧ (s.outOfSafe t).die.pulses = t.die.pulses ∧
    (s.outOfSafe s).die.entries = s.die.entries := by
  refine ⟨rfl, rfl, rfl, rfl, ?_⟩
  show s.die.entries.take _ ++ (s.die.entries.drop _).map _ = _
  simp

/-- A held entry with an error that the exit arms is found out: the cause is then a lasting one (R343, R365). -/
theorem State.exitEntry_flawed {s : State} {e : Nat} (hs : s.die.safe = true) (hp : (s.entry e).phase = .held)
    (hf : (s.entry e).flaw = some true) (hc : s.pos (s.entry e).enc < (s.entry e).close)
    (he : s.pos (s.entry e).enc < (s.entry e).eject) : OnlyDie s (s.exitEntry e) ∧ (s.exitEntry e).die.cause = 3 := by
  have hexit : s.exitEntry e = s.judge e := by
    unfold State.exitEntry
    dsimp only
    rw [hp]
  have hjudge : s.judge e = State.checkArmed ((s.setEntry e { s.entry e with phase := .armed }).report (.ack e false)) e := by
    unfold State.judge
    dsimp only
    rw [if_neg (by omega), if_neg (by omega)]
  rw [hexit, hjudge]
  have harm : ExitKept s ((s.setEntry e { s.entry e with phase := .armed }).report (.ack e false)) :=
    (ExitKept.setEntry s e { s.entry e with phase := .armed } rfl).trans (ExitKept.report _ _)
  have hent : ((s.setEntry e { s.entry e with phase := .armed }).report (.ack e false)).entry e = { s.entry e with phase := .armed } := by
    rw [State.entry_report, State.entry_setEntry]
  have hsafe : ((s.setEntry e { s.entry e with phase := .armed }).report (.ack e false)).die.safe = true := hs
  generalize (s.setEntry e { s.entry e with phase := .armed }).report (.ack e false) = u at harm hent hsafe
  rw [State.checkArmed_flawed (u := true) (by rw [hent]; exact hf) (by rw [hent])]
  have hset : OnlyDie u (u.setEntry e { u.entry e with flaw := none }) := rfl
  have hsafe' : (u.setEntry e { u.entry e with flaw := none }).die.safe = true := hsafe
  generalize u.setEntry e { u.entry e with flaw := none } = v at hset hsafe'
  rw [State.foundFlaw, if_pos rfl, State.enterSafe_again hsafe' (by decide)]
  exact ⟨onlyDie_trans (onlyDie_trans harm.only hset) rfl, rfl⟩

theorem entry_flawless {s : State} (h : ∀ x ∈ s.die.table, x.2.flaw = none) (e : Nat) : (s.entry e).flaw = none := by
  have hall : ∀ t : Tbl Entry, (∀ x ∈ t, x.2.flaw = none) → (tgetD t e {}).flaw = none := by
    intro t
    induction t with
    | nil => exact fun _ => rfl
    | cons x t ih =>
      intro ht
      have hrest := ih fun y hy => ht y (List.mem_cons_of_mem _ hy)
      by_cases hk : e = x.1
      · rw [tgetD, tget?, if_pos hk]; exact ht x List.mem_cons_self
      · rw [tgetD, tget?, if_neg hk]; exact hrest
  exact hall _ h

/-- Settles O31: each compare, timeout and error by the step that it makes of its entry, the exit from the safe state by what
the treatment of the entries keeps. -/
theorem ejectTable : Obligations.EjectTable := by
  unfold Obligations.EjectTable
  refine ⟨?close, ?closeNot, ?none, ?answered, ?amendFirst, ?eject, ?ejectNot, ?pulseNone, ?pulseFirst, ?pulse, ?tmoNot, ?tmoFires,
    ?tmo, ?error, ?errorStands, ?amendNone, ?amend, ?amendSafe, ?exitNot, ?exitFlaw, ?exit, ?safeLevels⟩
  case close =>
    intro s e hup hs hp hin hc hpos
    obtain ⟨hstep, hent, hrep, hstop⟩ := s.closeEntry_view e.val
    have hkeep := s.closeEntry_stop (e := e.val)
    have hm := State.closeMatch_closes hs hp hc hpos
    generalize s.closeEntry e.val = u at hstep hent hrep hstop hkeep hm
    have hall := hstep.trans (EntryStep.report u (.close e.val (s.entry e.val).amended.isSome))
    refine ⟨_, _, goes_onDie hup (by unfold exec; rfl) (by rw [State.answerAmends_none hin, hm]), hall.only, ?_, hall.other,
      congrArg (· ++ _) hrep, rfl, ?_, hstop, hkeep⟩
    · rw [State.entry_report, hent]; rfl
    · have htime : u.time = s.time := by rw [hstep.only]
      rw [← htime]; exact stamp5_le _
  case closeNot =>
    intro s e hup h
    refine goes_onDie hup (by unfold exec; rfl) (State.closeMatch_stays ?_)
    have hk := s.answerAmends_amended
    obtain ⟨a, b, he⟩ := hk.entry e.val
    have hpos : s.answerAmends.pos (s.entry e.val).enc = s.pos (s.entry e.val).enc := hk.pos _
    have henc : (s.answerAmends.entry e.val).enc = (s.entry e.val).enc := by rw [he]; rfl
    have hcl : (s.answerAmends.entry e.val).close = (s.entry e.val).close := by rw [he]; rfl
    have hcd : (s.answerAmends.entry e.val).closed = (s.entry e.val).closed := by rw [he]; rfl
    rw [henc, hpos, hcl, hcd]
    rcases h with h | h | h
    · exact .inl h
    · exact .inr (.inl h)
    · exact .inr (.inr (.inl (hk.safe.trans h)))
  case none => exact fun s h => State.answerAmends_none h
  case answered =>
    intro s e hup
    have hin : s.answerAmends.die.amendIn = [] := s.answerAmends_amended.amendIn
    obtain ⟨h1, i1⟩ := State.closeMatch_only s.answerAmends e.val
    obtain ⟨h2, i2⟩ := State.ejectMatch_only (s.answerAmends.closeMatch e.val) e.val
    obtain ⟨h3, i3⟩ := State.entryTmo_only ((s.answerAmends.closeMatch e.val).ejectMatch e.val) e.val
    exact ⟨⟨_, goes_onDie hup (by unfold exec; rfl) rfl, onlyDie_trans s.answerAmends_only h1, i1.trans hin⟩,
      ⟨_, goes_onDie hup (by unfold exec; rfl) rfl, onlyDie_trans s.answerAmends_only (onlyDie_trans h1 (onlyDie_trans h2 h3)),
        i3.trans (i2.trans (i1.trans hin))⟩⟩
  case amendFirst =>
    intro s e a hup hs hin hp hc ha hpos
    have hanswer : s.answerAmends = State.amendEntry { s with die := { s.die with amendIn := [] } } e.val a :=
      (if_neg (by rw [hs]; decide)).trans (by rw [hin]; rfl)
    rw [State.amendEntry_accepts (s := { s with die := { s.die with amendIn := [] } }) ha hp hc a] at hanswer
    have hk := s.answerAmends_amended
    have honly := s.answerAmends_only
    have hent : s.answerAmends.entry e.val = { s.entry e.val with amended := some a, answered := true } := by
      rw [hanswer, State.entry_report, State.entry_setEntry]; rfl
    have hrep : ∃ r, s.answerAmends.die.entries = s.die.entries ++ [r] ∧ r.what = .accept e.val := by
      rw [hanswer]; exact ⟨_, rfl, rfl⟩
    obtain ⟨r, hr, hw⟩ := hrep
    have hi : exec (.closeMatch e) s = onDie s fun s => s.answerAmends.closeMatch e.val := by unfold exec; rfl
    have hgo := fun t => goes_onDie (t := t) hup hi
    have hm : s.answerAmends.closeMatch e.val =
        (s.answerAmends.closeEntry e.val).report (.close e.val (s.answerAmends.entry e.val).amended.isSome) := by
      refine State.closeMatch_closes (hk.safe.trans hs) (by rw [hent]; exact hp) (by rw [hent]; exact hc) ?_
      rw [hent]
      exact (hk.pos (s.entry e.val).enc).symm ▸ hpos
    obtain ⟨hstep, hcl, hentries, -⟩ := s.answerAmends.closeEntry_view e.val
    rw [hent] at hcl hm
    generalize s.answerAmends = u at hr honly hm hstep hcl hentries hgo
    generalize u.closeEntry e.val = v at hm hstep hcl hentries
    refine ⟨v.report (.close e.val true), r, { what := .close e.val true, time := stamp5 v.time.now }, hgo _ hm, onlyDie_trans honly (onlyDie_trans hstep.only rfl), ?_, hw, rfl, ?_, ?_⟩
    · show v.die.entries ++ [_] = _
      rw [hentries, hr, List.append_assoc]; rfl
    · rw [State.entry_report, hcl]
    · rw [State.entry_report, hcl]; rfl
  case eject =>
    intro s e hup hs hp hc hpos
    obtain ⟨hstep, hph, ⟨r, hr, hw⟩, h0, h1, -⟩ := s.fired_view e.val
    rw [← State.ejectMatch_fires hs hp hc hpos] at hstep hph hr h0 h1
    exact ⟨_, r, goes_onDie hup (by unfold exec; rfl) rfl, hstep.only, hph, hstep.other, hr, hw, h0, fun hn => ⟨_, h1 hn, rfl, rfl⟩⟩
  case ejectNot => exact fun s e hup h => goes_onDie hup (by unfold exec; rfl) (State.ejectMatch_stays h)
  case pulseNone =>
    intro s e hup h
    exact goes_onDie hup (by unfold exec; rfl) (by simp only [State.endingPulse_none h])
  case pulseFirst => exact fun s e q hq he => s.endingPulse_spec e hq he
  case pulse =>
    intro s e p hup hp
    have hi : exec (.pulseEnd e) s = onDie s fun s => match s.endingPulse e.val with
        | none => s
        | some p => if p.unitUs || decide (p.ends ≤ s.pos p.enc) then { s with die := { s.die with pulses := removeFirst (· == p) s.die.pulses } }
          else State.tallyUp { s with die := { s.die with pulses := removeFirst (· == p) s.die.pulses } } 0 := by
      unfold exec; rfl
    by_cases h : (p.unitUs || decide (p.ends ≤ s.pos p.enc)) = true
    · refine ⟨{ s with die := { s.die with pulses := removeFirst (· == p) s.die.pulses } }, goes_onDie hup hi ?_, rfl, rfl,
        fun _ => rfl, fun h1 h2 => ?_⟩
      · simp only [hp, if_pos h]
      rw [h1, Bool.false_or] at h
      have hle := of_decide_eq_true h
      omega
    · refine ⟨State.tallyUp { s with die := { s.die with pulses := removeFirst (· == p) s.die.pulses } } 0, goes_onDie hup hi ?_, rfl,
        rfl, fun hor => ?_, fun _ _ => ?_⟩
      · simp only [hp, if_neg h]
      · refine absurd ?_ h
        rcases hor with h1 | h1
        · rw [h1, Bool.true_or]
        · rw [decide_eq_true h1, Bool.or_true]
      · show tgetD (tset s.die.tally 0 _) 0 0 = _
        rw [tgetD, tget?_tset_same]
  case tmoNot =>
    intro s e hup hin h
    refine goes_onDie hup (by unfold exec; rfl) ?_
    rw [State.answerAmends_none hin]
    rcases h with h | ⟨h0, h⟩
    · rw [State.closeMatch_stays (.inr (.inr (.inr h))), State.ejectMatch_stays (.inl h), State.entryTmo_stays (.inr h)]
    · rw [State.compares_stay h, State.entryTmo_stays (.inl h0)]
  case tmoFires =>
    intro s e hup hin hs hp hc hpos
    obtain ⟨hstep, hph, ⟨r, hr, hw⟩, -⟩ := s.fired_view e.val
    rw [← State.ejectMatch_fires hs hp hc hpos] at hstep hph hr
    refine ⟨_, r, goes_onDie hup (by unfold exec; rfl) ?_, goes_onDie hup (by unfold exec; rfl) rfl, hr, hw⟩
    rw [State.answerAmends_none hin, State.closeMatch_stays (.inr (.inl hc)), State.entryTmo_stays (.inr (by rw [hph]; decide))]
    rfl
  case tmo =>
    intro s e hup h0 hp hin
    have hi : exec (.entryTmoExpire e) s = onDie s fun s => ((s.answerAmends.closeMatch e.val).ejectMatch e.val).entryTmo e.val := by
      unfold exec; rfl
    refine ⟨fun hs hahead => ?_, fun hs => ?_⟩
    · have ht : s.entryTmo e.val = (s.freeEntry e.val).report (.eject e.val true 2) :=
        (if_pos ⟨h0, hp⟩).trans (if_neg (by rw [hs]; decide))
      obtain ⟨hstep, hph⟩ := s.freeEntry_view e.val
      exact ⟨(s.freeEntry e.val).report (.eject e.val true 2), _,
        goes_onDie hup hi (by rw [State.answerAmends_none hin, State.compares_stay (.inr hahead), ht]), onlyDie_trans hstep.only rfl, hph, rfl, rfl, rfl⟩
    · have ht : s.entryTmo e.val = s.setEntry e.val { s.entry e.val with late := true } := (if_pos ⟨h0, hp⟩).trans (if_pos hs)
      exact goes_onDie hup hi (by rw [State.answerAmends_none hin, State.compares_stay (.inl hs), ht])
  case error =>
    intro s e hup hp
    have hgo : ∀ b, Goes (.ejectTableError e b) s (s.foundFlaw b) := fun b =>
      goes_onDie hup (show execEjectTableError e b s = _ from rfl) (if_pos hp)
    refine ⟨hgo false, fun hs => ?_, fun hs => ?_⟩
    · obtain ⟨honly, hsafe, hcause, hpul, htab⟩ := State.enterSafe_view hs 3
      exact ⟨_, hgo true, honly, hsafe, hcause, hpul, fun hin => htab.trans (by rw [State.answerAmends_none hin])⟩
    · have h : s.foundFlaw true = { s with die := { s.die with cause := 3, runs := 0, stDue := true } } :=
        State.enterSafe_again hs (by decide)
      exact h ▸ hgo true
  case errorStands =>
    intro s e b hup h
    exact goes_onDie hup (by unfold exec; rfl) (if_neg h)
  case amendNone =>
    intro s hup h
    exact goes_onDie hup (by unfold exec; rfl) (by simp only [h])
  case amend =>
    intro s e a q hup hs hin ha hp
    have hi : exec .amendArrive s = onDie s fun s => match s.die.amendIn with
        | [] => s
        | (e, a) :: t => if s.die.safe then { s with die := { s.die with amendIn := t } }
          else State.amendEntry { s with die := { s.die with amendIn := t } } e a := by
      unfold exec; rfl
    have hgo : Goes .amendArrive s (State.amendEntry { s with die := { s.die with amendIn := q } } e a) :=
      goes_onDie hup hi (by simp only [hin, hs]; rfl)
    cases hc : (s.entry e).closed with
    | false =>
      rw [State.amendEntry_accepts (s := { s with die := { s.die with amendIn := q } }) ha hp hc a] at hgo
      refine ⟨_, _, hgo, rfl, rfl, rfl, fun _ => ⟨rfl, ?_⟩, fun h => absurd h (by decide)⟩
      rw [State.entry_report, State.entry_setEntry]
    | true =>
      rw [State.amendEntry_rejects (s := { s with die := { s.die with amendIn := q } }) ha hp hc a] at hgo
      refine ⟨_, _, hgo, rfl, rfl, rfl, fun h => absurd h (by decide), fun _ => ⟨rfl, ?_⟩⟩
      rw [State.entry_report, State.entry_setEntry]
      exact ⟨rfl, rfl⟩
  case amendSafe =>
    intro s e a q hup hs hin
    refine goes_onDie hup (by unfold exec; rfl) ?_
    simp only [hin, hs]
    rfl
  case exitNot =>
    intro s hup h
    refine goes_onDie hup (by unfold exec; rfl) (if_neg ?_)
    rintro ⟨h1, h2, h3⟩
    rcases h with h | h | h
    · omega
    · omega
    · rw [h] at h1; exact absurd h1 (by decide)
  case exitFlaw =>
    intro s e x hup hs hr hc htab hp hf hclose heject
    have hx : s.entry e = x := by rw [State.entry, htab, tgetD, tget?, if_pos rfl]
    have htreated : s.treated = (s.exitEntry e).exitLate e := by rw [State.treated, htab]; rfl
    obtain ⟨honly, hcause⟩ := State.exitEntry_flawed (s := s) (e := e) hs (hx ▸ hp) (hx ▸ hf) (hx ▸ hclose) (hx ▸ heject)
    have hlate := ExitKept.exitLate (s.exitEntry e) e
    have hleave := s.leaveSafe_eq
    have hgo : Goes .safeStateExit s s.leaveSafe := goes_onDie hup (show execSafeStateExit s = _ from rfl) (if_pos ⟨hs, hr, hc⟩)
    have hkept := onlyDie_trans honly hlate.only
    have hthree := hlate.cause.trans hcause
    rw [← htreated] at hkept hthree
    generalize s.treated = t at hleave hkept hthree
    obtain ⟨hout, hsafe, -⟩ := s.outOfSafe_view t
    rw [hleave, if_pos (by rw [hthree]; decide), hthree] at hgo
    generalize s.outOfSafe t = u at hgo hout hsafe
    obtain ⟨hin, h1, h2, -⟩ := State.enterSafe_view hsafe 3
    exact ⟨_, hgo, onlyDie_trans hkept (onlyDie_trans hout hin), h1, h2⟩
  case exit =>
    intro s hup hs hr hc hf
    have hkept := State.treated_kept (entry_flawless hf)
    have hleave := s.leaveSafe_eq
    have hnil : s.die.table = [] → s.treated = s := fun h => by rw [State.treated, h]; rfl
    have hgo : Goes .safeStateExit s s.leaveSafe := goes_onDie hup (show execSafeStateExit s = _ from rfl) (if_pos ⟨hs, hr, hc⟩)
    generalize s.treated = t at hkept hleave hnil
    have hcause : ¬ 2 ≤ t.die.cause := by rw [hkept.cause]; omega
    rw [hleave, if_neg hcause] at hgo
    obtain ⟨honly, hsafe, hpow, hpul, hent⟩ := s.outOfSafe_view t
    exact ⟨_, hgo, onlyDie_trans hkept.only honly, hsafe, hpow, hpul.trans hkept.pulses, fun h => by rw [hnil h]; exact hent⟩
  case safeLevels =>
    intro s c i hp hfl
    obtain ⟨hsafe, hcopy, hsplits, hpow, hfaults⟩ := s.enterSafe_levels c
    have hget := dget_congr hcopy hsplits F.FIELD_SAFE_VALUES_VALUES 0
    unfold State.outLevel
    rw [hpow, hfaults, hp, hfl, hsafe, hget]
    rfl

end Sys2Proof.Machine
end

section
/-! Inputs, encoders, outputs and the supply of the field die (R336, R339, R347, R348, R354, R356 to R362, R444). -/
namespace Sys2Proof.Machine
open Sys2Proof.Claims

/-! ### Inputs -/

section
variable (s : State) (i : Nat) (b : Bool)

theorem State.setDeb_only : OnlyDie s (s.setDeb i b) ∧ (s.setDeb i b).die.raw = s.die.raw ∧
    (s.setDeb i b).die.first = s.die.first ∧ (s.setDeb i b).die.tally = s.die.tally ∧ (s.setDeb i b).die.enc = s.die.enc ∧
    (s.setDeb i b).die.copy = s.die.copy ∧ (s.setDeb i b).die.splits = s.die.splits := by
  unfold State.setDeb
  split <;> exact ⟨rfl, rfl, rfl, rfl, rfl, rfl, rfl⟩

/-- The sampled level of an input. -/
def State.sampled : State := { s with die := { s.die with raw := withBit s.die.raw i b } }

theorem State.sampled_raw : bitAt (s.sampled i b).die.raw i = b := by
  show bitAt (setBits s.die.raw i 1 (bit b)) i = b
  rw [bitAt_setBits, if_pos rfl]

end

section
variable {s : State} {i : Fin 16} {b : Bool} (hup : DieUp s) (hne : bitAt s.die.raw i.val ≠ b)
include hup hne

theorem goes_plainEdge (h : s.isProbe i.val = false) : Goes (.fiEdge i b) s
    (if s.dget F.FIELD_FI_CFG_DEBOUNCE i.val = 0 then (s.sampled i.val b).setDeb i.val b else s.sampled i.val b) :=
  goes_onDie hup (show execFiEdge i b s = _ from rfl) ((if_neg hne).trans (if_neg (show ¬ s.isProbe i.val = true by rw [h]; decide)))

theorem goes_probeEdge (h : s.isProbe i.val = true) (hb : b = (s.dget (F.FIELD_PROBE_CFG_FALL i.val) == 0)) :
    Goes (.fiEdge i b) s (((s.sampled i.val b).setDeb i.val b).probeLatch i.val) :=
  goes_onDie hup (show execFiEdge i b s = _ from rfl)
    ((if_neg hne).trans ((if_pos (show s.isProbe i.val = true from h)).trans (if_pos (show b = (s.dget _ == 0) from hb))))

end

/-- A probe's latch takes the count of its channel as it stands (R348). -/
theorem State.probeLatch_view (s : State) (i : Nat) :
    (s.latchesWaiting i < 16 → ∃ r, OnlyDie s (s.probeLatch i) ∧ (s.probeLatch i).die.first = s.die.first ++ [r] ∧
      r.what = .latch i (s.dget (F.FIELD_PROBE_CFG_ENC i)) (unsigned 24 (s.encCh (s.dget (F.FIELD_PROBE_CFG_ENC i))).count)) ∧
    (16 ≤ s.latchesWaiting i → OnlyDie s (s.probeLatch i) ∧ (s.probeLatch i).die.first = s.die.first ∧
      tgetD (s.probeLatch i).die.tally (2 + i) 0 = tgetD s.die.tally (2 + i) 0 + 1) := by
  unfold State.probeLatch
  dsimp only
  refine ⟨fun h => ?_, fun h => ?_⟩
  · rw [if_pos h]
    exact ⟨_, rfl, rfl, rfl⟩
  · rw [if_neg (by omega)]
    refine ⟨rfl, rfl, ?_⟩
    show tgetD (tset s.die.tally (2 + i) _) (2 + i) 0 = _
    rw [tgetD, tget?_tset_same]

/-! ### Encoders -/

section
variable (s : State) (c : Nat) (e : EncCh)

@[simp] theorem State.encCh_setEnc : (s.setEnc c e).encCh c = e := by
  rw [State.encCh, State.setEnc, tgetD, tget?_tset_same]

theorem State.encCh_setEnc_other {d : Nat} (h : d ≠ c) : (s.setEnc c e).encCh d = s.encCh d := by
  rw [State.encCh, State.setEnc, tgetD, tget?_tset_other _ _ h, State.encCh, tgetD]

/-- The position that follows a count leaves the count and the levels (R359). -/
theorem EncCh.follow_view : e.follow.count = e.count ∧ e.follow.a = e.a ∧ e.follow.b = e.b ∧ e.follow.ssi = e.ssi := by
  unfold EncCh.follow
  split
  · split
    · exact ⟨rfl, rfl, rfl, rfl⟩
    · split <;> exact ⟨rfl, rfl, rfl, rfl⟩
  · split
    · exact ⟨rfl, rfl, rfl, rfl⟩
    · split <;> exact ⟨rfl, rfl, rfl, rfl⟩

/-- A new count changes its channel and the line triggers, and no other channel. -/
theorem State.setCount_view (v : Int) : OnlyDie s (s.setCount c e v) ∧ (s.setCount c e v).die.tally = s.die.tally ∧
    (s.setCount c e v).die.enc = (s.setEnc c (EncCh.follow { e with count := wrap48 v })).die.enc := by
  unfold State.setCount
  refine timesFrom_keeps (P := fun t => OnlyDie s t ∧ t.die.tally = s.die.tally ∧
    t.die.enc = (s.setEnc c (EncCh.follow { e with count := wrap48 v })).die.enc) ?_ ?_ 8 0
  rotate_left
  · exact ⟨rfl, rfl, rfl⟩
  rintro t i ⟨h1, h2, h3⟩
  unfold State.lineTrigger
  dsimp only
  split
  · split
    · split
      · exact ⟨onlyDie_trans h1 rfl, h2, h3⟩
      · exact ⟨h1, h2, h3⟩
    · exact ⟨h1, h2, h3⟩
  · exact ⟨h1, h2, h3⟩

theorem State.setCount_encCh (v : Int) : ((s.setCount c e v).encCh c).count = wrap48 v ∧ ((s.setCount c e v).encCh c).a = e.a ∧
    ((s.setCount c e v).encCh c).b = e.b ∧ ((s.setCount c e v).encCh c).ssi = e.ssi ∧
    ∀ d, d ≠ c → (s.setCount c e v).encCh d = s.encCh d := by
  obtain ⟨-, -, henc⟩ := s.setCount_view c e v
  have hat : ∀ d, (s.setCount c e v).encCh d = (s.setEnc c (EncCh.follow { e with count := wrap48 v })).encCh d := fun d => by
    unfold State.encCh; rw [henc]
  obtain ⟨h1, h2, h3, h4⟩ := ({ e with count := wrap48 v } : EncCh).follow_view
  rw [hat c, State.encCh_setEnc]
  exact ⟨h1, h2, h3, h4, fun d hd => (hat d).trans (s.encCh_setEnc_other c _ hd)⟩

end

/-- A change of one of A and B counts one (R358). -/
theorem State.quadChange_one {s : State} {c : Nat} {a b : Bool} (h : (s.encCh c).a = a ↔ (s.encCh c).b ≠ b) (n : Nat) :
    ∃ x, x.count = (s.encCh c).count ∧ x.a = a ∧ x.b = b ∧
    s.quadChange c a b n = (s.setEnc c { s.encCh c with a := a, b := b }).setCount c x ((s.encCh c).count +
      (if xor (quadForward (s.encCh c).a (s.encCh c).b a b) (s.dget F.FIELD_ENC_CFG_INVERT c != 0) then 1 else -1)) := by
  have h1 : ¬ ((s.encCh c).a = a ∧ (s.encCh c).b = b) := fun ⟨ha, hb⟩ => h.mp ha hb
  have h2 : ¬ ((s.encCh c).a ≠ a ∧ (s.encCh c).b ≠ b) := fun ⟨ha, hb⟩ => ha (h.mpr hb)
  unfold State.quadChange
  dsimp only
  rw [if_neg h1, if_neg h2, State.encCh_setEnc]
  refine ⟨_, ?_, ?_, ?_, congrArg _ ?_⟩
  rotate_left 3
  · split <;> rfl
  all_goals rfl

section
variable {s : State}

/-- The step of the count that a read position makes (R362). -/
def State.ssiStep (s : State) (raw q : Nat) : Int :=
  let d := signed (s.dget F.FIELD_ENC_CFG_SSI_BITS 1) (unsigned (s.dget F.FIELD_ENC_CFG_SSI_BITS 1) ((s.ssiPos raw : Int) - q))
  if s.dget F.FIELD_ENC_CFG_INVERT 1 = 1 then -d else d

theorem goes_ssiStep {raw q : Nat} (hup : DieUp s) (hm : s.dget F.FIELD_ENC_CFG_MODE 1 = 1) (hq : (s.encCh 1).ssi = some q)
    (h : ¬ 2 ^ (s.dget F.FIELD_ENC_CFG_SSI_BITS 1 - 2) < (signed (s.dget F.FIELD_ENC_CFG_SSI_BITS 1)
      (unsigned (s.dget F.FIELD_ENC_CFG_SSI_BITS 1) ((s.ssiPos raw : Int) - q))).natAbs) (n : Nat) :
    ∃ f : EncCh, Goes (.ssiRead raw true n) s
      (s.setCount 1 { f with ssi := some (s.ssiPos raw) } ((s.encCh 1).count + s.ssiStep raw q)) := by
  refine ⟨if s.ssiStep raw q = 0 then s.encCh 1 else (s.encCh 1).span (decide (0 < s.ssiStep raw q)) (n / (s.ssiStep raw q).natAbs),
    goes_onDie hup (show execSsiRead raw true n s = _ from rfl) ((if_neg (not_not.mpr hm)).trans ((if_neg (by decide)).trans ?_))⟩
  simp only [hq]
  exact if_neg h

/-- The latch of a Z pulse, by whether it is outside tolerance (R361). -/
def State.zEdge (s : State) (c : Nat) (drift : Bool) : State :=
  let t := (s.setEnc c { s.encCh c with
    zLast := some ((s.encCh c).count, (s.encCh c).lastDir.getD (s.encCh c).fwd) }).reportFirst (.index c (unsigned 24 (s.encCh c).count))
  if drift then t.tallyUp (8 + c) else t

theorem State.zEdge_view (s : State) (c : Nat) (drift : Bool) : OnlyDie s (s.zEdge c drift) ∧
    (s.zEdge c drift).die.first = s.die.first ++ [{ what := .index c (unsigned 24 (s.encCh c).count), time := stamp5 s.time.now }] ∧
    ((s.zEdge c drift).encCh c).count = (s.encCh c).count := by
  have hcount : ((s.setEnc c { s.encCh c with
      zLast := some ((s.encCh c).count, (s.encCh c).lastDir.getD (s.encCh c).fwd) }).encCh c).count = (s.encCh c).count := by
    rw [State.encCh_setEnc]
  cases drift <;> exact ⟨rfl, rfl, hcount⟩

theorem goes_zEdge {c : Fin 2} (hup : DieUp s) (hm : s.dget F.FIELD_ENC_CFG_MODE c.val ≠ 1) :
    ∃ drift, Goes (.encZEdge c) s (s.zEdge c.val drift) :=
  ⟨_, goes_onDie hup (show execEncZEdge c s = _ from rfl) (if_neg hm)⟩

theorem State.outLevel_faulted {i : Nat} (h : bitAt s.die.faults i = true) : s.outLevel i = false := by
  rw [State.outLevel, h, Bool.or_true]
  exact if_pos rfl

end

/-- Nothing happens on a field die that is not powered (R444). -/
theorem goes_dieOff {i : Instr} {s : State} {f : State → State} (hp : s.die.powered = false) (hi : exec i s = onDie s f) : Goes i s s := by
  rw [Goes, hi, onDie, if_neg (by rw [hp]; decide)]

/-- Settles O32: each event by the one channel, input or output that it changes. -/
theorem fieldDieInputs : Obligations.FieldDieInputs := by
  unfold Obligations.FieldDieInputs
  refine ⟨?same, ?edge, ?probe, ?debounce, ?quad, ?forward, ?index, ?fault, ?ssi, ?snapshot, ?speed, ?overload, ?retry, ?quadIdle,
    ?indexIdle, ?ssiIdle, ?outputs, ?up, ?unpowered, ?powerUp, ?powerDown⟩
  case same => exact fun s i hup => goes_onDie hup (show execFiEdge i _ s = _ from rfl) (if_pos rfl)
  case edge =>
    intro s i b hup hne hp
    have hgo := goes_plainEdge hup hne hp
    have hraw := s.sampled_raw i.val b
    obtain ⟨honly, hr, hfirst, -⟩ := (s.sampled i.val b).setDeb_only i.val b
    have hset : OnlyDie s (s.sampled i.val b) := rfl
    by_cases h : s.dget F.FIELD_FI_CFG_DEBOUNCE i.val = 0
    · rw [if_pos h] at hgo
      refine ⟨_, hgo, onlyDie_trans hset honly, by rw [hr]; exact hraw, hfirst, fun hn => absurd h hn, fun _ => ?_⟩
      rw [State.deb_setDeb, if_pos rfl]
    · rw [if_neg h] at hgo
      exact ⟨_, hgo, rfl, hraw, rfl, fun _ => rfl, fun h0 => absurd h0 h⟩
  case probe =>
    intro s i b hup hne hp hb
    have hgo := goes_probeEdge hup hne hp hb
    obtain ⟨honly, -, hfirst, htally, henc, hcopy, hsplits⟩ := (s.sampled i.val b).setDeb_only i.val b
    have hset : OnlyDie s (s.sampled i.val b) := rfl
    have hall := onlyDie_trans hset honly
    have hget := dget_congr (s := s) hcopy hsplits (F.FIELD_PROBE_CFG_ENC i.val) 0
    have hwait : ((s.sampled i.val b).setDeb i.val b).latchesWaiting i.val = s.latchesWaiting i.val := by
      unfold State.latchesWaiting; rw [hfirst]; rfl
    have hch : ∀ c, ((s.sampled i.val b).setDeb i.val b).encCh c = s.encCh c := fun c => by unfold State.encCh; rw [henc]; rfl
    obtain ⟨htake, hlost⟩ := ((s.sampled i.val b).setDeb i.val b).probeLatch_view i.val
    generalize (s.sampled i.val b).setDeb i.val b = u at hgo hfirst htally hall hget hwait hch htake hlost
    rw [hwait, hget, hch] at htake
    rw [hwait] at hlost
    refine ⟨fun h => ?_, fun h => ?_⟩
    · obtain ⟨r, h1, h2, h3⟩ := htake h
      exact ⟨_, r, hgo, onlyDie_trans hall h1, h2.trans (congrArg (· ++ [r]) hfirst), h3⟩
    · obtain ⟨h1, h2, h3⟩ := hlost h
      exact ⟨_, hgo, onlyDie_trans hall h1, h2.trans hfirst, h3.trans (by rw [htally]; rfl)⟩
  case debounce =>
    intro s i hup
    obtain ⟨honly, -⟩ := s.setDeb_only i.val (bitAt s.die.raw i.val)
    refine ⟨_, goes_onDie hup (show execDebounceExpire i s = _ from rfl) rfl, honly, ?_, fun h => ?_⟩
    · rw [State.deb_setDeb, if_pos rfl]
    · rw [State.setDeb, if_neg h]
  case quad =>
    intro s c q n hup hm hf
    have hgo : Goes (.encQuadEdge c q n) s (s.quadChange c.val q.a q.b n) :=
      goes_onDie hup (show execEncQuadEdge c q n s = _ from rfl) (if_neg (by rw [hm]; simp only [ne_eq, not_true_eq_false, false_or]; omega))
    refine ⟨fun h => ?_, fun ha hb => ?_, fun ha hb => ?_⟩
    · obtain ⟨x, hx, hxa, hxb, heq⟩ := State.quadChange_one h n
      rw [heq] at hgo
      have hset : OnlyDie s (s.setEnc c.val { s.encCh c.val with a := q.a, b := q.b }) := rfl
      obtain ⟨honly, htally, -⟩ := (s.setEnc c.val { s.encCh c.val with a := q.a, b := q.b }).setCount_view c.val x ((s.encCh c).count +
        (if xor (quadForward (s.encCh c).a (s.encCh c).b q.a q.b) (s.dget F.FIELD_ENC_CFG_INVERT c != 0) then 1 else -1))
      obtain ⟨hcount, ha, hb, -, hother⟩ := (s.setEnc c.val { s.encCh c.val with a := q.a, b := q.b }).setCount_encCh c.val x
        ((s.encCh c).count + (if xor (quadForward (s.encCh c).a (s.encCh c).b q.a q.b) (s.dget F.FIELD_ENC_CFG_INVERT c != 0)
          then 1 else -1))
      refine ⟨_, hgo, onlyDie_trans hset honly, ha.trans hxa, hb.trans hxb, hcount, htally, fun d hd => (hother d hd).trans ?_⟩
      exact s.encCh_setEnc_other _ _ hd
    · rw [State.quadChange, if_neg (fun h => ha h.1), if_pos ⟨ha, hb⟩] at hgo
      exact hgo
    · rw [State.quadChange, if_pos ⟨ha, hb⟩] at hgo
      exact hgo
  case forward => decide
  case index =>
    intro s c hup hm
    obtain ⟨drift, hgo⟩ := goes_zEdge hup hm
    obtain ⟨honly, hfirst, hcount⟩ := s.zEdge_view c.val drift
    exact ⟨_, _, hgo, honly, hfirst, rfl, hcount⟩
  case fault => exact fun s c b hup => goes_onDie hup (show execEncLineFault c b s = _ from rfl) rfl
  case ssi =>
    intro s raw n hup hm
    have hi : ∀ b, exec (.ssiRead raw b n) s = _ := fun b => show execSsiRead raw b n s = _ from rfl
    refine ⟨goes_onDie hup (hi false) ((if_neg (not_not.mpr hm)).trans (if_pos rfl)), fun hq => ?_, ?_⟩
    · have hgo : Goes (.ssiRead raw true n) s (s.setCount 1 { s.encCh 1 with ssi := some (s.ssiPos raw) } (s.ssiPos raw)) := by
        refine goes_onDie hup (hi true) ((if_neg (not_not.mpr hm)).trans ((if_neg (by decide)).trans ?_))
        simp only [hq]
      obtain ⟨honly, -⟩ := s.setCount_view 1 { s.encCh 1 with ssi := some (s.ssiPos raw) } (s.ssiPos raw)
      obtain ⟨hcount, -, -, hssi, -⟩ := s.setCount_encCh 1 { s.encCh 1 with ssi := some (s.ssiPos raw) } (s.ssiPos raw)
      exact ⟨_, hgo, honly, hcount, hssi⟩
    · rintro q hq d rfl
      refine ⟨fun h => ?_, fun h => ?_⟩
      · refine goes_onDie hup (hi true) ((if_neg (not_not.mpr hm)).trans ((if_neg (by decide)).trans ?_))
        simp only [hq]
        exact if_pos h
      · obtain ⟨f, hgo⟩ := goes_ssiStep hup hm hq (not_lt.mpr h) n
        obtain ⟨honly, -⟩ := s.setCount_view 1 { f with ssi := some (s.ssiPos raw) } ((s.encCh 1).count + s.ssiStep raw q)
        obtain ⟨hcount, -⟩ := s.setCount_encCh 1 { f with ssi := some (s.ssiPos raw) } ((s.encCh 1).count + s.ssiStep raw q)
        exact ⟨_, hgo, honly, hcount⟩
  case snapshot =>
    intro s hup
    refine ⟨⟨{ s with die := s.die.snapshot }, goes_onDie hup (show execSyncSnapshot s = _ from rfl) rfl, rfl, fun r hr c p v hw => ?_,
      fun h => ?_⟩, goes_onDie hup (show execStatusPeriodic s = _ from rfl) rfl⟩
    · have hf := (List.mem_filter.mp hr).2
      rw [hw] at hf
      exact Bool.false_ne_true hf
    · refine List.filter_eq_self.mpr fun r hr => ?_
      cases hw : r.what with
      | sync c p v => exact absurd hw (h r hr c p v)
      | _ => rfl
  case speed =>
    exact fun s c hup => ⟨goes_onDie hup (show execSpeedPeriodic c true s = _ from rfl) rfl,
      goes_onDie hup (show execSpeedPeriodic c false s = _ from rfl) rfl⟩
  case overload =>
    intro s o hup h
    refine ⟨_, goes_onDie hup (show execOutputOverload o s = _ from rfl) (if_neg (by rw [h]; decide)), rfl, ?_, ?_, rfl, rfl⟩
    · show bitAt (withBit s.die.faults o.val true) o.val = true
      exact (bitAt_setBits _ _ _ _).trans (if_pos rfl)
    · refine State.outLevel_faulted ?_
      exact (bitAt_setBits _ _ _ _).trans (if_pos rfl)
  case retry =>
    intro s o hup h
    refine ⟨goes_onDie hup (show execOutputFaultRetry o true s = _ from rfl) (if_neg (by rw [h]; decide)), _,
      goes_onDie hup (show execOutputFaultRetry o false s = _ from rfl) (if_pos (by rw [h]; rfl)), rfl, ?_, rfl⟩
    exact (bitAt_setBits _ _ _ _).trans (if_pos rfl)
  case quadIdle =>
    exact fun s c q n hup h => goes_onDie hup (show execEncQuadEdge c q n s = _ from rfl) (if_pos h)
  case indexIdle => exact fun s c hup h => goes_onDie hup (show execEncZEdge c s = _ from rfl) (if_pos h)
  case ssiIdle => exact fun s raw n b hup h => goes_onDie hup (show execSsiRead raw b n s = _ from rfl) (if_pos h)
  case outputs =>
    refine fun s o b hup => ⟨fun h => goes_onDie hup (show execOutputOverload o s = _ from rfl) (if_pos h), fun h =>
      goes_onDie hup (show execOutputFaultRetry o b s = _ from rfl) (if_neg ?_)⟩
    rw [h, Bool.false_and]; decide
  case up =>
    intro s hup
    have hp : s.die.powered = true := hup
    unfold Goes
    exact congrArg Host.Outcome.next (if_pos hp)
  case unpowered =>
    intro s i c o b q raw n hp x hx
    simp only [List.mem_cons, List.not_mem_nil, or_false] at hx
    rcases hx with rfl | rfl | rfl | rfl | rfl | rfl | rfl | rfl | rfl | rfl | rfl
    · exact goes_dieOff hp (show execFiEdge i b s = _ from rfl)
    · exact goes_dieOff hp (show execDebounceExpire i s = _ from rfl)
    · exact goes_dieOff hp (show execEncQuadEdge c q n s = _ from rfl)
    · exact goes_dieOff hp (show execEncZEdge c s = _ from rfl)
    · exact goes_dieOff hp (show execEncLineFault c b s = _ from rfl)
    · exact goes_dieOff hp (show execSsiRead raw b n s = _ from rfl)
    · exact goes_dieOff hp (show execSyncSnapshot s = _ from rfl)
    · exact goes_dieOff hp (show execStatusPeriodic s = _ from rfl)
    · exact goes_dieOff hp (show execSpeedPeriodic c b s = _ from rfl)
    · exact goes_dieOff hp (show execOutputOverload o s = _ from rfl)
    · exact goes_dieOff hp (show execOutputFaultRetry o b s = _ from rfl)
  case powerUp =>
    intro s hp
    have hup : (if s.die.powered then s else { s with die := { stDue := true } }) = { s with die := { stDue := true } } :=
      if_neg (by rw [hp]; decide)
    exact ⟨_, congrArg Host.Outcome.next hup, rfl, rfl, rfl, rfl, rfl, rfl, rfl⟩
  case powerDown =>
    intro s
    exact ⟨_, rfl, rfl, rfl, rfl, rfl, fun i => if_pos rfl⟩

end Sys2Proof.Machine
end

section
/-! Frames of the field link (R332 to R337, R464). -/
namespace Sys2Proof.Machine
open Sys2Proof.Claims

/-! ### Frames on the wire -/

/-- A frame in which the line inverts no bit arrives as it was sent (R332). -/
theorem receiveOver_clean (x : BitVec 64) : receiveOver x 0 = some x := by
  have hplain : (frameBits x ^^^ 0#80 ^^^ scrambleSeq) = x.zeroExtend 80 <<< 16 ||| (crc16 x).zeroExtend 80 := by
    rw [BitVec.xor_zero, frameBits, BitVec.xor_assoc, BitVec.xor_self, BitVec.xor_zero]
  have hx : (x.zeroExtend 80 <<< 16 ||| (crc16 x).zeroExtend 80).extractLsb' 16 64 = x := by
    ext i hi
    simp only [BitVec.getElem_extractLsb', BitVec.getLsbD_or, BitVec.getLsbD_shiftLeft, BitVec.getLsbD_setWidth]
    simp [hi, show 16 + i < 80 by omega, show i < 80 by omega]
  have hc : (x.zeroExtend 80 <<< 16 ||| (crc16 x).zeroExtend 80).extractLsb' 0 16 = crc16 x := by
    ext i hi
    simp only [BitVec.getElem_extractLsb', BitVec.getLsbD_or, BitVec.getLsbD_shiftLeft, BitVec.getLsbD_setWidth]
    simp [hi, show i < 80 by omega]
  show receivePayload (frameBits x ^^^ 0#80) = some x
  unfold receivePayload
  dsimp only
  rw [hplain, hx, hc, if_pos rfl]

theorem UpFrame.received_clean (f : UpFrame) (now : Nat) : f.received now 0 = some f := by
  rw [UpFrame.received, receiveOver_clean]
  exact congrArg some (if_pos rfl)

theorem DownFrame.received_clean (f : DownFrame) : f.received 0 = some f := by
  rw [DownFrame.received, receiveOver_clean]
  exact congrArg some (if_pos rfl)

/-! ### What an end of the link takes -/

theorem LinkEnd.acked_keeps {α β : Type} (l : LinkEnd α β) (m : Nat) : (l.acked m).inbox = l.inbox ∧ (l.acked m).expect = l.expect ∧
    (l.acked m).resync = l.resync ∧ (l.acked m).ignore = l.ignore := by
  unfold LinkEnd.acked
  split <;> exact ⟨rfl, rfl, rfl, rfl⟩

theorem LinkEnd.goodFrame_up {α β : Type} (l : LinkEnd α β) (k : Nat) :
    (l.goodFrame k).up = true ↔ l.up = true ∨ 8 ≤ (l.goodFrame k).good := by
  show (l.up || decide (8 ≤ l.run k)) = true ↔ l.up = true ∨ 8 ≤ l.run k
  rw [Bool.or_eq_true, decide_eq_true_eq]

/-- An end takes the numbered item it expects. -/
theorem LinkEnd.takes_iff {α β : Type} {l : LinkEnd α β} (h : l.resync = false) (n : Nat) : l.takes n = true ↔ n = l.expect := by
  rw [LinkEnd.takes, h, Bool.not_false, Bool.true_and, beq_iff_eq]

/-! ### The next frame -/

theorem State.nextRep_only (s : State) : OnlyDie s s.nextRep.1 := by
  unfold State.nextRep
  dsimp only
  split
  · rfl
  · rfl
  · rfl
  · split
    · rfl
    · split
      · rfl
      · split <;> rfl

theorem State.loadRep_only (s : State) : OnlyDie s s.loadRep := by
  unfold State.loadRep
  dsimp only
  split
  · rfl
  · have h := s.nextRep_only
    split
    · rename_i t r hr
      rw [hr] at h
      exact onlyDie_trans h rfl
    · rfl

theorem State.composeUp_only (s : State) : OnlyDie s s.composeUp := by
  unfold State.composeUp
  dsimp only
  split
  · rfl
  · split
    · rfl
    · split
      · rfl
      · have h := s.loadRep_only
        generalize s.loadRep = t at h
        exact onlyDie_trans h rfl

/-! ### The link as the device shows it -/

/-- What the device keeps and shows once the link has gone down (R464). -/
structure LinkFell (s t : State) : Prop where
  up : t.on F.FIELD_LINK_STAT_UP = false
  valid : t.on F.FIELD_LINK_STAT_COUNT_VALID = false
  mirror : t.field.mirror = []
  link : t.field.link = s.field.link
  die : t.die = s.die
  mem : t.mem = s.mem

/-- With no mirrored count a line trigger has no next time. -/
theorem State.project_none {s : State} (h : s.field.mirror = []) (c : Nat) (k : Int) : s.project c k = none := by
  unfold State.project State.mirrorOf
  rw [h]
  rfl

theorem LinkFell.retrigger {s u : State} (h : LinkFell s u) (p : Nat) : LinkFell s (u.retrigger p) := by
  have hproj : u.project (u.get F.CAM_CTRL_ENC p) = fun _ => none := funext fun k => State.project_none h.mirror _ k
  have hbind : ∀ x : Option Int, x.bind (fun _ => (none : Option Nat)) = none := fun x => by cases x <;> rfl
  unfold State.retrigger
  dsimp only
  split
  · exact h
  · rename_i i _
    rw [hproj]
    simp only [hbind]
    have hset : LinkFell s (u.setCam p { u.cam p with trigNext := none, trigAt := none }) := by
      obtain ⟨h1, h2, h3, h4, h5, h6⟩ := h
      exact ⟨h1, h2, h3, h4, h5, h6⟩
    generalize u.setCam p { u.cam p with trigNext := none, trigAt := none } = v at hset
    have hne : R.FIELD_LINK_STAT.addr 0 0 ≠ R.TK_CMP_S_HI.addr i 0 := by
      have h1 : R.FIELD_LINK_STAT.addr 0 0 = 0x3F00A00000 + 0 * 0 + 0 * 0 := rfl
      have h2 : R.TK_CMP_S_HI.addr i 0 = 0x3F00300108 + i * 0x10 + 0 * 0 := rfl
      omega
    obtain ⟨h1, h2, h3, h4, h5, h6⟩ := hset
    refine ⟨?_, ?_, h3, h4, h5, h6⟩
    · rw [State.on, State.putBit, State.get_put_other _ F.TK_CMP_S_HI_ARMED F.FIELD_LINK_STAT_UP _ i 0 0 0 hne]; exact h1
    · rw [State.on, State.putBit, State.get_put_other _ F.TK_CMP_S_HI_ARMED F.FIELD_LINK_STAT_COUNT_VALID _ i 0 0 0 hne]; exact h2

theorem State.fieldFall_fell (s : State) : LinkFell s s.fieldFall := by
  unfold State.fieldFall State.retriggerAll
  dsimp only
  refine timesFrom_keeps (P := LinkFell s) (fun u p hu => hu.retrigger p) ?_ 17 0
  have hne : ∀ i < 2, R.FIELD_LINK_STAT.addr 0 0 ≠ R.TK_VEL.addr i 0 := by decide
  refine ⟨?_, ?_, rfl, rfl, rfl, rfl⟩
  · rw [State.on, State.get_put_other _ F.TK_VEL_VEL F.FIELD_LINK_STAT_UP _ 1 0 0 0 (hne 1 (by decide)),
      State.get_put_other _ F.TK_VEL_VEL F.FIELD_LINK_STAT_UP _ 0 0 0 0 (hne 0 (by decide)), State.putBit,
      State.get_put_beside (f := F.FIELD_LINK_STAT_COUNT_VALID) (g := F.FIELD_LINK_STAT_UP) (hreg := rfl) (hw := by decide)
        (h := by decide), State.putBit,
      State.get_put_beside (f := F.FIELD_LINK_STAT_RUN) (g := F.FIELD_LINK_STAT_UP) (hreg := rfl) (hw := by decide) (h := by decide)]
    exact State.on_putBit _ F.FIELD_LINK_STAT_UP false 0 0 rfl (by decide)
  · rw [State.on, State.get_put_other _ F.TK_VEL_VEL F.FIELD_LINK_STAT_COUNT_VALID _ 1 0 0 0 (hne 1 (by decide)),
      State.get_put_other _ F.TK_VEL_VEL F.FIELD_LINK_STAT_COUNT_VALID _ 0 0 0 0 (hne 0 (by decide))]
    exact State.on_putBit _ F.FIELD_LINK_STAT_COUNT_VALID false 0 0 rfl (by decide)

/-- A link that is down shows so. -/
theorem State.showLink_down {s : State} (h : s.fieldUp = false) :
    (s.on F.FIELD_LINK_STAT_UP = false → s.showLink = s) ∧ (s.on F.FIELD_LINK_STAT_UP = true → s.showLink = s.fieldFall) := by
  refine ⟨fun hu => if_pos (h.trans hu.symm), fun hu => ?_⟩
  refine (if_neg (by rw [h, hu]; decide)).trans (if_neg (by rw [h]; decide))

theorem State.answerAmends_link (s : State) : s.answerAmends.die.link = s.die.link := by
  unfold State.answerAmends
  dsimp only
  split
  · rfl
  · refine foldState_keeps (P := fun t : State => t.die.link = s.die.link) (fun t a ht => ?_) (by rfl) _
    unfold State.amendEntry
    dsimp only
    split
    · exact ht
    · split
      · split <;> exact ht
      · exact ht
      · exact ht

/-- Entering the safe state leaves the link, and starts the count of frames with RUN anew. -/
theorem State.enterSafe_link {s : State} (h : s.die.safe = false) (c : Nat) :
    (s.enterSafe c).die.link = s.die.link ∧ (s.enterSafe c).die.runs = 0 := by
  have heq : s.enterSafe c = State.statusDue { s.answerAmends with die := { s.answerAmends.die with
      safe := true, cause := c, runs := 0, pulses := [], trigOn := 0 } } := if_neg (by rw [h]; decide)
  have hlink := s.answerAmends_link
  rw [heq]
  generalize s.answerAmends = t at hlink
  exact ⟨hlink, rfl⟩

/-- The field die's end of the link after a good frame of a direction that is up. -/
def dieEnd (l : LinkEnd Rep Msg) (f : DownFrame) : LinkEnd Rep Msg :=
  let m := if l.resync then l else l.acked f.rack
  if f.resync then (if m.ignore = 0 then { m with inbox := m.inbox ++ [Msg.resync] } else m)
  else
    match f.msg with
    | some (k, x) => if m.takes k then { m with expect := (k + 1) % 16, inbox := m.inbox ++ [x] } else m
    | none => m

theorem State.takeDown_up {s : State} {k : Nat} (h : s.die.link.up = true) (f : DownFrame) : s.takeDown f k =
    { s with die := { s.die with
        link := dieEnd (s.die.link.goodFrame k) f
        runs := if f.run then s.die.runs + 1 else 0
        amendIn := match f.amend with
          | some a => if s.die.safe then s.die.amendIn else s.die.amendIn ++ [a]
          | none => s.die.amendIn } } := by
  have hup : (s.die.link.goodFrame k).up = true := (s.die.link.goodFrame_up k).mpr (.inl h)
  exact if_neg (by rw [hup]; decide)

/-- The field die takes the message it expects, and no other. -/
theorem dieEnd_inbox {l : LinkEnd Rep Msg} {f : DownFrame} (hl : l.resync = false) (hf : f.resync = false) {n : Nat} {m : Msg}
    (hm : f.msg = some (n, m)) : (n = l.expect → (dieEnd l f).inbox = l.inbox ++ [m]) ∧ (n ≠ l.expect → (dieEnd l f).inbox = l.inbox) := by
  obtain ⟨hin, hexp, hres, -⟩ := l.acked_keeps f.rack
  have hm' : (if l.resync then l else l.acked f.rack) = l.acked f.rack := if_neg (by rw [hl]; decide)
  unfold dieEnd
  simp only [hm', hf, hm]
  refine ⟨fun h => ?_, fun h => ?_⟩
  · have ht : (l.acked f.rack).takes n = true := (LinkEnd.takes_iff (hres.trans hl) n).mpr (h.trans hexp.symm)
    simp [ht, hin]
  · have ht : (l.acked f.rack).takes n = false :=
      Bool.eq_false_iff.mpr fun ht => h (((LinkEnd.takes_iff (hres.trans hl) n).mp ht).trans hexp)
    simp [ht, hin]

/-- The device takes the report it expects, with the frame's low bits and the time of its arrival, and no other. -/
theorem State.upEnd_takes {s : State} {l : LinkEnd Msg Taken} {f : UpFrame} (hl : l.resync = false) (hf : f.resync = false) {n : Nat}
    {r : Rep} (hr : f.report = some (n, r)) :
    (n = l.expect → (s.upEnd l f).inbox = l.inbox ++ [{ rep := r, arrived := s.time.now, low := f.low, safe := f.safe }] ∧
      (s.upEnd l f).expect = (l.expect + 1) % 16) ∧
    (n ≠ l.expect → (s.upEnd l f).inbox = l.inbox ∧ (s.upEnd l f).expect = l.expect) := by
  obtain ⟨hin, hexp, hres, -⟩ := l.acked_keeps f.mack
  have hm' : (if l.resync then l else l.acked f.mack) = l.acked f.mack := if_neg (by rw [hl]; decide)
  unfold State.upEnd
  simp only [hm', hf, hr]
  refine ⟨fun h => ?_, fun h => ?_⟩
  · have ht : (l.acked f.mack).takes n = true := (LinkEnd.takes_iff (hres.trans hl) n).mpr (h.trans hexp.symm)
    rw [if_pos ht]
    exact ⟨congrArg (· ++ _) hin, congrArg (fun k => (k + 1) % 16) h⟩
  · have ht : (l.acked f.mack).takes n = false :=
      Bool.eq_false_iff.mpr fun ht => h (((LinkEnd.takes_iff (hres.trans hl) n).mp ht).trans hexp)
    simp [ht, hexp, hin]

theorem LinkEnd.silent_of {α β : Type} {l : LinkEnd α β} (h : l.up = true) (h3 : 3 ≤ l.missed) : l.silent = true := by
  rw [LinkEnd.silent, h, decide_eq_true h3]; rfl

theorem LinkEnd.not_silent {α β : Type} {l : LinkEnd α β} (h : l.up = false ∨ l.missed < 3) : l.silent = false := by
  rcases h with h | h
  · rw [LinkEnd.silent, h, Bool.false_and]
  · rw [LinkEnd.silent, decide_eq_false (by omega), Bool.and_false]

theorem LinkEnd.stuck_of {α β : Type} {l : LinkEnd α β} (h : l.unacked ≠ []) (h4 : 4 ≤ l.stale) : l.stuck = true := by
  rw [LinkEnd.stuck, decide_eq_true h4, Bool.and_true, Bool.not_eq_true', List.isEmpty_eq_false_iff]; exact h

theorem LinkEnd.not_stuck {α β : Type} {l : LinkEnd α β} (h : l.unacked = [] ∨ l.stale < 4) : l.stuck = false := by
  rcases h with h | h
  · rw [LinkEnd.stuck, h]; rfl
  · rw [LinkEnd.stuck, decide_eq_false (by omega), Bool.and_false]

section
variable {s t : State} {e : Slot}

/-- A frame that the device does not find in its slot (R332). -/
def State.missedUp (s : State) : State := { s with field := { s.field with link := s.field.link.badFrame } }

/-- A frame that the field die does not find in its slot (R332, R342). -/
def State.missedDown (s : State) : State := { s with die := { s.die with runs := 0, link := s.die.link.badFrame } }

theorem execFieldUpFrameRx_live (h : Live s) : exec (.fieldUpFrameRx e) s = .next (State.composeUp (match s.die.wire with
    | none => s.missedUp
    | some f => match (f.received s.time.now e.errors).filter fun _ => s.field.link.finds e.offset with
      | some g => (s.takeUp g e.offset).gateTaken
      | none => s.missedUp.bump F.FIELD_LINK_CNT_CRC_ERR)) := by
  have hh : s.boot.held = false := h
  show execFieldUpFrameRx e s = _
  unfold execFieldUpFrameRx
  rw [if_neg (by rw [hh]; decide)]
  rfl

theorem execFieldDownFrameRx_on (h : s.die.powered = true) : exec (.fieldDownFrameRx e) s =
    .next (State.composeDown (match s.field.wire with
    | none => s.missedDown
    | some f => match (f.received e.errors).filter fun _ => s.die.link.finds e.offset with
      | some g => (s.takeDown g e.offset).showLink
      | none => s.missedDown)) := by
  show execFieldDownFrameRx e s = _
  unfold execFieldDownFrameRx
  rw [h]
  rfl

theorem filter_missed {α : Type} {x : Option α} {b : Bool} (h : x = none ∨ b = false) : x.filter (fun _ => b) = none := by
  rcases h with rfl | rfl
  · rfl
  · cases x <;> rfl

end

/-- Settles O33: frames by the round trip of a payload, the ends of the link by what they take, the link's fall by what the
device then shows. -/
theorem fieldFrames : Obligations.FieldFrames := by
  unfold Obligations.FieldFrames
  refine ⟨?offsets, ?upClean, ?downClean, ?upBad, ?upNone, ?upHeld, ?upGood, ?upEnd, ?downGood, ?downBad, ?downOff, ?takeDown,
    ?dieFalls, ?dieStays, ?devStays, ?devFallsShown, ?devFalls, ?upIdle, ?downIdle, ?upResend, ?downResend⟩
  case offsets =>
    intro l k
    refine ⟨fun h => ?_, fun h => ?_, rfl, rfl, fun h => if_pos h, fun h => if_neg h, l.goodFrame_up k⟩
    · rw [LinkEnd.finds, h]; rfl
    · rw [LinkEnd.finds, h, Bool.not_true, Bool.false_or, beq_iff_eq]
  case upClean => exact UpFrame.received_clean
  case downClean => exact DownFrame.received_clean
  case upBad =>
    intro s e f hl hw h
    have hgo : Goes (.fieldUpFrameRx e) s (State.composeUp (s.missedUp.bump F.FIELD_LINK_CNT_CRC_ERR)) := by
      rw [Goes, execFieldUpFrameRx_live hl, hw]
      simp only [filter_missed h]
    have honly := (s.missedUp.bump F.FIELD_LINK_CNT_CRC_ERR).composeUp_only
    have hset : s.missedUp.bump F.FIELD_LINK_CNT_CRC_ERR =
      { s with regs := (s.missedUp.bump F.FIELD_LINK_CNT_CRC_ERR).regs, field := { s.field with link := s.field.link.badFrame } } := rfl
    have hcnt : (s.missedUp.bump F.FIELD_LINK_CNT_CRC_ERR).get F.FIELD_LINK_CNT_CRC_ERR =
        min (s.get F.FIELD_LINK_CNT_CRC_ERR + 1) (2 ^ F.FIELD_LINK_CNT_CRC_ERR.width - 1) :=
      State.get_bumpBy s.missedUp F.FIELD_LINK_CNT_CRC_ERR 1 0 0 (by decide)
    have hsame : SameRegs s (s.missedUp.bump F.FIELD_LINK_CNT_CRC_ERR) [R.FIELD_LINK_CNT.addr 0 0] :=
      sameRegs_put s F.FIELD_LINK_CNT_CRC_ERR _
    generalize s.missedUp.bump F.FIELD_LINK_CNT_CRC_ERR = u at hgo honly hset hcnt hsame
    generalize u.composeUp = t at hgo honly
    have hregs : t.regs = u.regs := by rw [honly]
    refine ⟨t, hgo, ?_, fun a ha => by rw [hregs]; exact hsame a ha, (State.get_congr hregs _ 0 0).trans hcnt⟩
    rw [hregs, honly, hset]
    rfl
  case upNone =>
    intro s e hl hw
    rw [Goes, execFieldUpFrameRx_live hl, hw]
    rfl
  case upHeld => exact fun s e h => congrArg (fun u => Host.Outcome.next (State.composeUp u)) (if_pos h)
  case upGood =>
    intro s e f g hl hw hr hf
    rw [Goes, execFieldUpFrameRx_live hl, hw]
    simp only [hr, hf]
    rfl
  case upEnd =>
    intro s l f r hl hf
    refine ⟨fun hr => ?_, fun n hn hr => (State.upEnd_takes hl hf hr).2 hn⟩
    obtain ⟨hin, hexp⟩ := (State.upEnd_takes (s := s) hl hf hr).1 rfl
    exact ⟨_, hin, rfl, rfl, rfl, rfl, hexp⟩
  case downGood =>
    intro s e f g hp hw hr hf
    rw [Goes, execFieldDownFrameRx_on hp, hw]
    simp only [hr, hf]
    rfl
  case downBad =>
    intro s e hp h
    rw [Goes, execFieldDownFrameRx_on hp]
    cases hw : s.field.wire with
    | none => rfl
    | some f =>
      simp only [filter_missed (h f hw)]
      rfl
  case downOff =>
    exact fun s e h => congrArg (fun u => Host.Outcome.next (State.composeDown u)) (if_pos (by rw [h]; rfl))
  case takeDown =>
    intro s f k hup hres hf
    rw [State.takeDown_up hup]
    refine ⟨rfl, rfl, fun m hm => ?_, fun n m hn hm => ?_, fun a ha hs => ?_⟩
    · exact (dieEnd_inbox (l := s.die.link.goodFrame k) hres hf hm).1 rfl
    · exact (dieEnd_inbox (l := s.die.link.goodFrame k) hres hf hm).2 hn
    · simp only [ha, hs]
      rfl
  case dieFalls =>
    intro s hp hup h3 hs
    have hgo : Goes (.fieldLinkDown false) s
        (State.showLink (State.enterSafe { s with die := { s.die with runs := 0, link := s.die.link.fall } } 1)) :=
      congrArg Host.Outcome.next ((if_neg (by decide)).trans (if_pos (by rw [hp, LinkEnd.silent_of hup h3]; rfl)))
    obtain ⟨honly, hsafe, hcause, hpul, -⟩ :=
      State.enterSafe_view (s := { s with die := { s.die with runs := 0, link := s.die.link.fall } }) hs 1
    obtain ⟨hlink, hruns⟩ := State.enterSafe_link (s := { s with die := { s.die with runs := 0, link := s.die.link.fall } }) hs 1
    generalize State.enterSafe { s with die := { s.die with runs := 0, link := s.die.link.fall } } 1 = u at *
    have hmem : u.mem = s.mem := by rw [honly]
    have hdown : u.die.link.up = false := by rw [hlink]; rfl
    have hfield : u.fieldUp = false := by rw [State.fieldUp, hdown, Bool.and_false]
    cases hstat : u.on F.FIELD_LINK_STAT_UP with
    | false =>
      rw [(State.showLink_down hfield).1 hstat] at hgo
      exact ⟨u, hgo, hsafe, hcause, hpul, hdown, hruns, hstat, hmem⟩
    | true =>
      rw [(State.showLink_down hfield).2 hstat] at hgo
      obtain ⟨hoff, -, -, -, hdie, hmem'⟩ := u.fieldFall_fell
      refine ⟨_, hgo, ?_, ?_, ?_, ?_, ?_, hoff, hmem'.trans hmem⟩ <;> rw [hdie]
      · exact hsafe
      · exact hcause
      · exact hpul
      · exact hdown
      · exact hruns
  case dieStays =>
    intro s h
    refine congrArg Host.Outcome.next ((if_neg (by decide)).trans (if_neg ?_))
    rcases h with h | h
    · rw [h, Bool.false_and]; decide
    · rw [LinkEnd.not_silent h, Bool.and_false]; decide
  case devStays =>
    exact fun s h => congrArg Host.Outcome.next ((if_pos rfl).trans (if_neg (by rw [LinkEnd.not_silent h]; decide)))
  case devFallsShown =>
    intro s hup h3 hstat
    have hgo : Goes (.fieldLinkDown true) s (State.showLink { s with field := { s.field with link := s.field.link.fall } }) :=
      congrArg Host.Outcome.next ((if_pos rfl).trans (if_pos (LinkEnd.silent_of hup h3)))
    rwa [(State.showLink_down (s := { s with field := { s.field with link := s.field.link.fall } }) rfl).1 hstat] at hgo
  case devFalls =>
    intro s hup h3 hstat
    have hgo : Goes (.fieldLinkDown true) s (State.showLink { s with field := { s.field with link := s.field.link.fall } }) :=
      congrArg Host.Outcome.next ((if_pos rfl).trans (if_pos (LinkEnd.silent_of hup h3)))
    rw [(State.showLink_down (s := { s with field := { s.field with link := s.field.link.fall } }) rfl).2 hstat] at hgo
    obtain ⟨hoff, hvalid, hmir, hlink, hdie, hmem⟩ := State.fieldFall_fell { s with field := { s.field with link := s.field.link.fall } }
    exact ⟨_, hgo, hoff, hvalid, hmir, by rw [hlink]; rfl, hdie, hmem⟩
  case upIdle =>
    exact fun s h => congrArg Host.Outcome.next ((if_pos rfl).trans (if_neg (by rw [LinkEnd.not_stuck h]; decide)))
  case downIdle =>
    exact fun s h => congrArg Host.Outcome.next ((if_neg (by decide)).trans (if_neg (by rw [LinkEnd.not_stuck h]; decide)))
  case upResend =>
    intro s h h4
    exact ⟨_, congrArg Host.Outcome.next ((if_pos rfl).trans (if_pos (LinkEnd.stuck_of h h4))), rfl,
      sameRegs_put s F.FIELD_LINK_CNT_RESEND _,
      State.get_bumpBy { s with die := { s.die with link := s.die.link.goBack } } F.FIELD_LINK_CNT_RESEND 1 0 0 (by decide)⟩
  case downResend =>
    intro s h h4
    exact ⟨_, congrArg Host.Outcome.next ((if_neg (by decide)).trans (if_pos (LinkEnd.stuck_of h h4))), rfl,
      sameRegs_put s F.FIELD_LINK_CNT_RESEND _,
      State.get_bumpBy { s with field := { s.field with link := s.field.link.goBack } } F.FIELD_LINK_CNT_RESEND 1 0 0 (by decide)⟩

end Sys2Proof.Machine
end

section
/-! Steps that leave the field die, the eject table's mirror and what the life of every bobbin has come to. -/
namespace Sys2Proof.Machine
open Sys2Proof.Claims

/-- The field die and the device's side of it stay as they are, and every bobbin keeps its state and its final action. -/
structure Calm (s t : State) : Prop where
  die : t.die = s.die
  field : t.field = s.field
  state : ∀ i, (t.bob i).state = (s.bob i).state
  final : ∀ i, (t.bob i).final = (s.bob i).final
  amended : ∀ i, (t.bob i).amended = (s.bob i).amended
  sorted : tsorted s.bobs = true → tsorted t.bobs = true

theorem calm_refl (s : State) : Calm s s := ⟨rfl, rfl, fun _ => rfl, fun _ => rfl, fun _ => rfl, id⟩

theorem Calm.trans {r s t : State} (h : Calm r s) (k : Calm s t) : Calm r t :=
  ⟨k.die.trans h.die, k.field.trans h.field, fun i => (k.state i).trans (h.state i), fun i => (k.final i).trans (h.final i),
    fun i => (k.amended i).trans (h.amended i), fun x => k.sorted (h.sorted x)⟩

/-- A bobbin's record that keeps its state, its final action and its verdict. -/
theorem calm_setBob {r s : State} (h : Calm r s) {id : Nat} {b : Bobbin} (hs : b.state = (s.bob id).state)
    (hf : b.final = (s.bob id).final) (ha : b.amended = (s.bob id).amended) : Calm r (s.setBob id b) := by
  have hat : ∀ i, (s.setBob id b).bob i = if i = id then b else s.bob i := by
    intro i
    by_cases hi : i = id
    · subst hi; rw [if_pos rfl, State.bob, State.setBob, tgetD, tget?_tset_same]
    · rw [if_neg hi, State.bob, State.setBob, tgetD, tget?_tset_other _ _ hi, State.bob, tgetD]
  refine h.trans ⟨rfl, rfl, fun i => ?_, fun i => ?_, fun i => ?_, fun x => tsorted_tset id b x⟩ <;>
    rw [hat i] <;> by_cases hi : i = id
  · rw [if_pos hi, hi]; exact hs
  · rw [if_neg hi]
  · rw [if_pos hi, hi]; exact hf
  · rw [if_neg hi]
  · rw [if_pos hi, hi]; exact ha
  · rw [if_neg hi]

/-- A change of another part of the state. -/
theorem calm_of {r s t : State} (h : Calm r s) (hd : t.die = s.die) (hf : t.field = s.field) (hb : t.bobs = s.bobs) : Calm r t :=
  h.trans ⟨hd, hf, fun i => by rw [State.bob, hb, State.bob], fun i => by rw [State.bob, hb, State.bob],
    fun i => by rw [State.bob, hb, State.bob], fun x => by rw [hb]; exact x⟩

theorem calm_latch {r s : State} (h : Calm r s) (x : Tbl Word) : Calm r { s with latch := x } := calm_of h rfl rfl rfl
theorem calm_fills {r s : State} (h : Calm r s) (x : List Fill) : Calm r { s with fills := x } := calm_of h rfl rfl rfl
theorem calm_scrub {r s : State} (h : Calm r s) (x : Scrub) : Calm r { s with scrub := x } := calm_of h rfl rfl rfl
theorem calm_i3c {r s : State} (h : Calm r s) (x : I3c) : Calm r { s with i3c := x } := calm_of h rfl rfl rfl
theorem calm_host {r s : State} (h : Calm r s) (x : HostLink) : Calm r { s with host := x } := calm_of h rfl rfl rfl
theorem calm_boot {r s : State} (h : Calm r s) (x : Boot) : Calm r { s with boot := x } := calm_of h rfl rfl rfl
theorem calm_fuses {r s : State} (h : Calm r s) (x : Fuses) : Calm r { s with fuses := x } := calm_of h rfl rfl rfl
theorem calm_straps {r s : State} (h : Calm r s) (x : Straps) : Calm r { s with straps := x } := calm_of h rfl rfl rfl
theorem calm_snap {r s : State} (h : Calm r s) (x : SnapUnit) : Calm r { s with snap := x } := calm_of h rfl rfl rfl
theorem calm_time {r s : State} (h : Calm r s) (x : TimeUnit) : Calm r { s with time := x } := calm_of h rfl rfl rfl
theorem calm_link {r s : State} (h : Calm r s) (x : LinkUnit) : Calm r { s with link := x } := calm_of h rfl rfl rfl
theorem calm_cams {r s : State} (h : Calm r s) (x : Tbl CamPort) : Calm r { s with cams := x } := calm_of h rfl rfl rfl
theorem calm_pipes {r s : State} (h : Calm r s) (x : Tbl Pipe) : Calm r { s with pipes := x } := calm_of h rfl rfl rfl
theorem calm_rules {r s : State} (h : Calm r s) (x : Tbl Rule) : Calm r { s with rules := x } := calm_of h rfl rfl rfl
theorem calm_lastBob {r s : State} (h : Calm r s) (x : Nat) : Calm r { s with lastBob := x } := calm_of h rfl rfl rfl
theorem calm_intake {r s : State} (h : Calm r s) (x : Intake) : Calm r { s with intake := x } := calm_of h rfl rfl rfl
theorem calm_looms {r s : State} (h : Calm r s) (x : Tbl Loom) : Calm r { s with looms := x } := calm_of h rfl rfl rfl
theorem calm_sched {r s : State} (h : Calm r s) (x : Sched) : Calm r { s with sched := x } := calm_of h rfl rfl rfl
theorem calm_twin {r s : State} (h : Calm r s) (x : Twin) : Calm r { s with twin := x } := calm_of h rfl rfl rfl
theorem calm_power {r s : State} (h : Calm r s) (x : Power) : Calm r { s with power := x } := calm_of h rfl rfl rfl
theorem calm_tdcSeen {r s : State} (h : Calm r s) (x : Bool) : Calm r { s with tdcSeen := x } := calm_of h rfl rfl rfl
theorem calm_fenceDue {r s : State} (h : Calm r s) (x : List (Nat × Nat)) : Calm r { s with fenceDue := x } := calm_of h rfl rfl rfl
theorem calm_copies {r s : State} (h : Calm r s) (x : Tbl Copies) : Calm r { s with copies := x } := calm_of h rfl rfl rfl
theorem calm_freeUse {r s : State} (h : Calm r s) (x : Nat) : Calm r { s with freeUse := x } := calm_of h rfl rfl rfl
theorem calm_pending {r s : State} (h : Calm r s) (x : List Instr) : Calm r { s with pending := x } := calm_of h rfl rfl rfl
theorem calm_regs {r s : State} (h : Calm r s) (x : Tbl Word) : Calm r { s with regs := x } := calm_of h rfl rfl rfl
theorem calm_mem {r s : State} (h : Calm r s) (x : Memory) : Calm r { s with mem := x } := calm_of h rfl rfl rfl
theorem calm_splits {r s : State} (h : Calm r s) (x : List Nat) : Calm r { s with splits := x } := calm_of h rfl rfl rfl

theorem calm_ite {c : Prop} [Decidable c] {r s t : State} (hs : Calm r s) (ht : Calm r t) :
    Calm r (if c then s else t) := by
  split
  · exact hs
  · exact ht

theorem calm_ite_fst {α : Type} {c : Prop} [Decidable c] {r : State} {x y : State × α} (hx : Calm r x.1)
    (hy : Calm r y.1) : Calm r (if c then x else y).1 := by
  split
  · exact hx
  · exact hy

theorem calm_foldState {α : Type} {r : State} {f : State → α → State} (hf : ∀ s a, Calm r s → Calm r (f s a))
    {s : State} (h : Calm r s) (l : List α) : Calm r (foldState f s l) := foldState_keeps (P := Calm r) hf h l

theorem calm_timesFrom {r : State} {f : State → Nat → State} (hf : ∀ s i, Calm r s → Calm r (f s i))
    {s : State} (h : Calm r s) (n i : Nat) : Calm r (timesFrom f n i s) := timesFrom_keeps (P := Calm r) hf h n i

end Sys2Proof.Machine
end

section
/-! The relation above, function by function: records, timed frames, taps, the end of a bobbin's compute. -/
namespace Sys2Proof.Machine
open Sys2Proof.Claims

theorem tget?_map_vals {α : Type} {t : Tbl α} {f : Nat × α → Nat × α} (hf : ∀ e, (f e).1 = e.1) (i : Nat) :
    tget? (t.map f) i = (tget? t i).map fun v => (f (i, v)).2 := by
  induction t with
  | nil => rfl
  | cons e t ih =>
    obtain ⟨j, v⟩ := e
    have hcons : tget? (List.map f ((j, v) :: t)) i = if i = j then some (f (j, v)).2 else tget? (t.map f) i := by
      rw [List.map_cons]
      show (if i = (f (j, v)).1 then some (f (j, v)).2 else _) = _
      rw [hf]
    rw [hcons, tget?]
    by_cases h : i = j
    · rw [if_pos h, if_pos h, h]; rfl
    · rw [if_neg h, if_neg h, ih]

theorem tsorted_map_keys {α : Type} {t : Tbl α} {f : Nat × α → Nat × α} (hf : ∀ e, (f e).1 = e.1) (h : tsorted t = true) :
    tsorted (t.map f) = true := by
  suffices ∀ a, tsortedFrom a t = true → tsortedFrom a (t.map f) = true from this 0 h
  clear h
  induction t with
  | nil => exact fun _ _ => rfl
  | cons e t ih =>
    intro a h
    simp only [tsortedFrom, Bool.and_eq_true, decide_eq_true_eq, List.map_cons] at h ⊢
    rw [hf e]
    exact ⟨h.1, ih _ h.2⟩

theorem calm_setReg {r s : State} (h : Calm r s) (r' : Reg) (v i j : Nat) : Calm r (s.setReg r' v i j) := by
  unfold State.setReg
  exact calm_regs h _

theorem calm_put {r s : State} (h : Calm r s) (f : Fld) (v i j : Nat) : Calm r (s.put f v i j) := by
  unfold State.put
  exact calm_setReg h _ _ _ _

theorem calm_putBit {r s : State} (h : Calm r s) (f : Fld) (b : Bool) (i j : Nat) : Calm r (s.putBit f b i j) := by
  unfold State.putBit
  exact calm_put h _ _ _ _

theorem calm_bumpBy {r s : State} (h : Calm r s) (f : Fld) (n i j : Nat) : Calm r (s.bumpBy f n i j) := by
  unfold State.bumpBy
  exact calm_put h _ _ _ _

theorem calm_bump {r s : State} (h : Calm r s) (f : Fld) (i j : Nat) : Calm r (s.bump f i j) := by
  unfold State.bump
  exact calm_bumpBy h _ _ _ _

theorem calm_bumpWrap {r s : State} (h : Calm r s) (f : Fld) (n i j : Nat) : Calm r (s.bumpWrap f n i j) := by
  unfold State.bumpWrap
  exact calm_put h _ _ _ _

theorem calm_peak {r s : State} (h : Calm r s) (f : Fld) (v i j : Nat) : Calm r (s.peak f v i j) := by
  unfold State.peak
  exact calm_put h _ _ _ _

theorem calm_drawn {r s : State} (h : Calm r s) : Calm r s.drawn := by
  unfold State.drawn
  exact calm_freeUse h _

theorem calm_timeDrawn {r s : State} (h : Calm r s) : Calm r s.timeDrawn := by
  unfold State.timeDrawn
  exact calm_freeUse h _

theorem calm_requestIbi {r s : State} (h : Calm r s) : Calm r s.requestIbi := by
  unfold State.requestIbi
  exact calm_ite h (calm_ite (calm_i3c h _) (calm_i3c h _))

theorem calm_raise {r s : State} (h : Calm r s) (cause : Fld) : Calm r (s.raise cause) := by
  unfold State.raise
  exact calm_ite (calm_requestIbi (calm_put h _ _ _ _)) (calm_put h _ _ _ _)

theorem calm_emit {r s : State} (h : Calm r s) (chan : Nat) (packets : List (Nat × List Byte)) (bad : List Bool) :
    Calm r (s.emit chan packets bad) := by
  unfold State.emit
  exact calm_host h _

theorem calm_emitWords {r s : State} (h : Calm r s) (chan : Nat) (ws : List Word) : Calm r (s.emitWords chan ws) := by
  unfold State.emitWords
  exact calm_emit h _ _ _

theorem calm_dropRecord {r s : State} (h : Calm r s) : Calm r s.dropRecord := by
  unfold State.dropRecord
  exact calm_raise (calm_bump h _ _ _) _

theorem calm_dropPending {r s : State} (h : Calm r s) : Calm r s.dropPending := by
  unfold State.dropPending
  exact calm_host h _

theorem calm_formVerdict {r s : State} (h : Calm r s) : Calm r s.formVerdict := by
  unfold State.formVerdict
  exact calm_ite h (calm_dropPending (calm_emit h _ _ _))

theorem calm_tapKeep {r s : State} (h : Calm r s) (chan : Nat) (ps : List (Nat × List (Option Byte))) : Calm r
    (s.tapKeep chan ps).1 := by
  unfold State.tapKeep
  refine calm_ite_fst ?_ ?_
  · exact h
  · dsimp only
    exact calm_raise (calm_bump h _ _ _) _

theorem calm_sendTrace {r s : State} (h : Calm r s) (ws : List Word) : Calm r (s.sendTrace ws) := by
  unfold State.sendTrace
  exact calm_ite (calm_emitWords h _ _) (calm_host h _)

theorem calm_snapMerge {r s : State} (h : Calm r s) (n src : Nat) : Calm r (s.snapMerge n src) := by
  unfold State.snapMerge
  dsimp only
  split
  · exact calm_bump (calm_snap h _) _ _ _
  · exact h

theorem calm_snapTake {r s : State} (h : Calm r s) (src : Nat) : Calm r (s.snapTake src) := by
  unfold State.snapTake
  exact calm_snap (calm_bump (calm_putBit (calm_put (calm_bumpWrap h _ _ _ _) _ _ _ _) _ _ _ _) _ _ _) _

theorem calm_snapFire {r s : State} (h : Calm r s) (src : Nat) : Calm r (s.snapFire src).1 := by
  unfold State.snapFire
  dsimp only
  split
  · exact calm_snapMerge h _ _
  · refine calm_ite_fst ?_ ?_
    · dsimp only
      exact calm_snapMerge h _ _
    · refine calm_ite_fst ?_ ?_
      · dsimp only
        exact calm_bump h _ _ _
      · dsimp only
        exact calm_snapTake h _

theorem calm_snapIf {r s : State} (h : Calm r s) (src : Nat) : Calm r (s.snapIf src) := by
  unfold State.snapIf
  exact calm_ite (calm_snapFire h _) h

theorem calm_traceEvent {r s : State} (h : Calm r s) (src id : Nat) : Calm r (s.traceEvent src id) := by
  unfold State.traceEvent
  exact calm_ite (calm_ite (calm_sendTrace (calm_snap h _) _) (calm_bump (calm_snap h _) _ _ _)) h

theorem calm_event {r s : State} (h : Calm r s) (src id : Nat) : Calm r (s.event src id) := by
  unfold State.event
  exact calm_snapIf (calm_traceEvent h _ _) _

theorem calm_poisonConsumed {r s : State} (h : Calm r s) (id : Nat) : Calm r (s.poisonConsumed id) := by
  unfold State.poisonConsumed
  exact calm_event h _ _

theorem calm_sendTap {r s : State} (h : Calm r s) (chan : Nat) (head : Nat × List (Option Byte)) (ls : List (Nat ×
    List (Option Byte))) : Calm r (s.sendTap chan head ls) := by
  unfold State.sendTap
  exact calm_ite (calm_timesFrom (fun s i k => calm_poisonConsumed (calm_bump k _ _ _) _) (calm_emit h _ _ _) _ _) h

theorem calm_tdcFirst {r s : State} (h : Calm r s) (cause : Nat) : Calm r (s.tdcFirst cause) := by
  unfold State.tdcFirst
  exact calm_ite h (calm_put (calm_put (calm_put (calm_put (calm_tdcSeen h _) _ _ _ _) _ _ _ _) _ _ _ _) _ _ _ _)

theorem calm_tdc {r s : State} (h : Calm r s) (cause : Nat) : Calm r (s.tdc cause) := by
  unfold State.tdc
  exact calm_tdcFirst (calm_bump (calm_bumpWrap h _ _ _ _) _ _ _) _

theorem calm_setCredits {r s : State} (h : Calm r s) (vl n : Nat) : Calm r (s.setCredits vl n) := by
  unfold State.setCredits
  exact calm_put (calm_link h _) _ _ _ _

theorem calm_startFrame {r s : State} (h : Calm r s) (f : RzFrame) : Calm r (s.startFrame f) := by
  unfold State.startFrame
  exact calm_setCredits (calm_bumpBy (calm_link h _) _ _ _ _) _ _

theorem calm_pumpList {r s : State} (h : Calm r s) (l : List RzFrame) (blocked : List Nat) : Calm r (s.pumpList l
    blocked) := by
  induction l generalizing s blocked with
  | nil => exact h
  | cons f t ih =>
    unfold State.pumpList
    split
    · exact ih (calm_startFrame (calm_link h _) _) _
    · exact ih h _

theorem calm_pump {r s : State} (h : Calm r s) : Calm r s.pump := by
  unfold State.pump
  exact calm_ite (calm_pumpList h _ _) h

theorem calm_linkSend {r s : State} (h : Calm r s) (kind vl : Nat) (payload : List Word) (poison : List Nat) : Calm r
    (s.linkSend kind vl payload poison) := by
  unfold State.linkSend
  exact calm_pump (calm_link h _)

theorem calm_addRecord {r s : State} (h : Calm r s) (ws : List Word) : Calm r (s.addRecord ws) := by
  unfold State.addRecord
  exact calm_ite (calm_ite (calm_formVerdict (calm_host (calm_host h _) _)) (calm_host (calm_host h _) _))
      (calm_dropRecord (calm_host h _))

theorem calm_record {r s : State} (h : Calm r s) (serial w1 w2 hi16 conf : Nat) (f : RecFlags) (time id : Nat) : Calm
    r (s.record serial w1 w2 hi16 conf f time id) := by
  unfold State.record
  exact calm_ite (calm_poisonConsumed (calm_bump (calm_ite (calm_event (calm_raise (calm_addRecord h _) _) _ _)
      (calm_addRecord h _)) _ _ _) _) (calm_ite (calm_event (calm_raise (calm_addRecord h _) _) _ _) (calm_addRecord
      h _))

theorem calm_loomCorrection {r s : State} (h : Calm r s) (n : Nat) : Calm r (s.loomCorrection n) := by
  unfold State.loomCorrection
  exact calm_ite (calm_fenceDue (calm_bump h _ _ _) _) (calm_bump h _ _ _)

theorem calm_corrected {r s : State} (h : Calm r s) (rd : Reader) (g dev : Nat) : Calm r (s.corrected rd g dev) := by
  unfold State.corrected
  dsimp only
  split
  · exact calm_put (calm_put (calm_put (calm_bump (calm_mem h _) _ _ _) _ _ _ _) _ _ _ _) _ _ _ _
  · exact calm_loomCorrection (calm_bump (calm_mem h _) _ _ _) _
  · exact calm_bump (calm_mem h _) _ _ _

theorem calm_uncorrectable {r s : State} (h : Calm r s) (rd : Reader) (g : Nat) : Calm r (s.uncorrectable rd g) := by
  unfold State.uncorrectable
  dsimp only
  split
  · exact calm_fenceDue (calm_put (calm_put (calm_bump (calm_mem h _) _ _ _) _ _ _ _) _ _ _ _) _
  · exact calm_put (calm_put (calm_bump (calm_mem h _) _ _ _) _ _ _ _) _ _ _ _

theorem calm_meet {r s : State} (h : Calm r s) (g : Nat) : Calm r (s.meet g) := by
  unfold State.meet
  dsimp only
  split
  · exact calm_ite h (calm_mem h _)
  · exact h

theorem calm_found {r s : State} (h : Calm r s) (rd : Reader) (g : Nat) : Calm r (s.found rd g) := by
  unfold State.found
  dsimp only
  refine calm_ite ?_ ?_
  · split
    · exact calm_corrected h _ _ _
    · exact calm_uncorrectable h _ _
    · exact h
  · exact calm_ite (calm_ite (calm_uncorrectable h _ _) h) (calm_ite (calm_uncorrectable h _ _) h)

theorem calm_touch {r s : State} (h : Calm r s) (rd : Reader) (g : Nat) : Calm r (s.touch rd g) := by
  unfold State.touch
  exact calm_meet (calm_found h _ _) _

theorem calm_readData {r s : State} (h : Calm r s) (a n : Nat) : Calm r (s.readData a n).1 := by
  unfold State.readData
  exact calm_foldState (fun _ a k => calm_touch k _ _) h _

theorem calm_setCam {r s : State} (h : Calm r s) (p : Nat) (c : CamPort) : Calm r (s.setCam p c) := by
  unfold State.setCam
  exact calm_cams h _

theorem calm_setPipe {r s : State} (h : Calm r s) (q : Nat) (x : Pipe) : Calm r (s.setPipe q x) := by
  unfold State.setPipe
  exact calm_pipes h _

theorem calm_setLoom {r s : State} (h : Calm r s) (n : Nat) (x : Loom) : Calm r (s.setLoom n x) := by
  unfold State.setLoom
  exact calm_looms h _

theorem calm_setPart {r s : State} (h : Calm r s) (p : Nat) (x : Partition) : Calm r (s.setPart p x) := by
  unfold State.setPart
  exact calm_sched h _

theorem calm_showLoom {r s : State} (h : Calm r s) (n : Nat) : Calm r (s.showLoom n) := by
  unfold State.showLoom
  exact calm_put (calm_put (calm_putBit (calm_put (calm_put (calm_put (calm_peak (calm_put (calm_put (calm_put
      (calm_put (calm_put h _ _ _ _) _ _ _ _) _ _ _ _) _ _ _ _) _ _ _ _) _ _ _ _) _ _ _ _) _ _ _ _) _ _ _ _) _ _ _ _)
      _ _ _ _) _ _ _ _

theorem calm_mapLoom {r s : State} (h : Calm r s) (n : Nat) (f : Loom → Loom) : Calm r (s.mapLoom n f) := by
  unfold State.mapLoom
  exact calm_showLoom (calm_setLoom h _ _) _

theorem calm_showPort {r s : State} (h : Calm r s) (p : Nat) : Calm r (s.showPort p) := by
  unfold State.showPort
  exact calm_putBit (calm_putBit h _ _ _ _) _ _ _ _

theorem calm_showSlots {r s : State} (h : Calm r s) (p : Nat) : Calm r (s.showSlots p) := by
  unfold State.showSlots
  exact calm_peak (calm_put h _ _ _ _) _ _ _ _

theorem calm_showOuts {r s : State} (h : Calm r s) (q : Nat) : Calm r (s.showOuts q) := by
  unfold State.showOuts
  exact calm_peak (calm_put h _ _ _ _) _ _ _ _

theorem calm_sweep {r s : State} (h : Calm r s) (p : Nat) : Calm r (s.sweep p) := by
  unfold State.sweep
  exact calm_showPort (calm_timesFrom (fun s _ k => calm_showOuts k _) (calm_showSlots (calm_setCam h _ _) _) _ _) _

theorem calm_mapLines {r s : State} (h : Calm r s) (p : Nat) (f : Line → Line) : Calm r (s.mapLines p f) := by
  unfold State.mapLines
  exact calm_sweep (calm_setCam h _ _) _

theorem calm_showReady {r s : State} (h : Calm r s) (p : Nat) : Calm r (s.showReady p) := by
  unfold State.showReady
  exact calm_peak (calm_put h _ _ _ _) _ _ _ _

theorem calm_pageFreed {r s : State} (h : Calm r s) (p : Nat) : Calm r (s.pageFreed p) := by
  have hat : ∀ i, ((s.pageFreed p).bob i).state = (s.bob i).state ∧ ((s.pageFreed p).bob i).final = (s.bob i).final ∧
      ((s.pageFreed p).bob i).amended = (s.bob i).amended := by
    intro i
    unfold State.pageFreed State.bob tgetD
    dsimp only
    rw [tget?_map_vals fun e => by split <;> rfl]
    cases tget? s.bobs i with
    | none => exact ⟨rfl, rfl, rfl⟩
    | some b =>
      dsimp only [Option.map_some]
      split <;> exact ⟨rfl, rfl, rfl⟩
  refine h.trans ⟨rfl, rfl, fun i => (hat i).1, fun i => (hat i).2.1, fun i => (hat i).2.2, fun x => ?_⟩
  unfold State.pageFreed
  dsimp only
  exact tsorted_map_keys (fun e => by split <;> rfl) x

theorem calm_freePages {r s : State} (h : Calm r s) (id : Nat) : Calm r (s.freePages id) := by
  have hset := calm_setPart (calm_setBob h (id := id) (b := { s.bob id with pages := [] }) rfl rfl rfl) (s.bob
      id).partition
    { s.part (s.bob id).partition with pages := (s.part (s.bob id).partition).pages.filter fun e => e.2 != id }
  unfold State.freePages
  exact calm_put (calm_ite hset (calm_pageFreed hset _)) _ _ _ _

theorem calm_freeStage {r s : State} (h : Calm r s) (id : Nat) (which : Nat → Bool) : Calm r (s.freeStage id which)
    := by
  unfold State.freeStage
  exact calm_put (calm_setPart h _ _) _ _ _ _

theorem calm_discardTasks {r s : State} (h : Calm r s) (id : Nat) : Calm r (s.discardTasks id) := by
  unfold State.discardTasks
  exact calm_showReady (calm_bumpBy (calm_foldState (fun _ a k => calm_mapLoom k _ _) (calm_setPart h _ _) _) _ _ _
      _) _

theorem calm_releaseAll {r s : State} (h : Calm r s) (id : Nat) : Calm r (s.releaseAll id) := by
  unfold State.releaseAll
  exact calm_foldState (fun s a k => calm_mapLines k _ _) h _

theorem calm_endCompute {r s : State} (h : Calm r s) (id : Nat) : Calm r (s.endCompute id) := by
  have hset := calm_setBob h (id := id) (b := { s.bob id with computing := false, ended := true, waits := false })
      rfl rfl rfl
  have hdone := fun w => calm_freeStage (calm_discardTasks (calm_releaseAll hset id) id) id w
  unfold State.endCompute
  exact calm_ite h (calm_ite (hdone _) (calm_freePages (hdone _) _))

theorem calm_showBobs {r s : State} (h : Calm r s) : Calm r s.showBobs := by
  unfold State.showBobs
  exact calm_put (calm_put h _ _ _ _) _ _ _ _

theorem calm_mirror {r s : State} (h : Calm r s) (code : Nat) (ws : List Word) : Calm r (s.mirror code ws) := by
  unfold State.mirror
  exact calm_ite (calm_linkSend h _ _ _ _) h

theorem calm_bobRecord {r s : State} (h : Calm r s) (id time : Nat) : Calm r (s.bobRecord id time) := by
  have hset := calm_setBob h (id := id) (b := { s.bob id with recorded := true, late := !(s.bob id).amended }) rfl rfl rfl
  unfold State.bobRecord
  exact calm_ite h (calm_record hset _ _ _ _ _ _ _ _)

theorem calm_tapCount {r s : State} (h : Calm r s) (e : TapSet) : Calm r (s.tapCount e).1 := by
  unfold State.tapCount
  exact calm_setPipe h _ _

theorem calm_sendTapBob {r s : State} (h : Calm r s) (w : TapWork) : Calm r (s.sendTapBob w) := by
  unfold State.sendTapBob
  split
  · exact calm_sendTap h _ _ _
  · exact calm_sendTap (calm_timeDrawn h) _ _ _

theorem calm_releaseTaps {r s : State} (h : Calm r s) (p : Nat) : Calm r (s.releaseTaps p) := by
  unfold State.releaseTaps
  exact calm_mapLines h _ _

theorem calm_sendRejects {r s : State} (h : Calm r s) (id p q n : Nat) : Calm r (s.sendRejects id p q n) := by
  unfold State.sendRejects
  dsimp only
  refine calm_sendTapBob ?_ _
  refine foldl_fst_keeps (P := Calm r) (fun a l k => ?_) ?_ _
  · refine calm_tapKeep ?_ _ _
    exact calm_readData k _ _
  · exact h

theorem calm_tapClose {r s : State} (h : Calm r s) (id p : Nat) (e : TapSet) : Calm r (s.tapClose id p e) := by
  unfold State.tapClose
  exact calm_ite (calm_ite (calm_sendRejects (calm_tapCount h _) _ _ _ _) (calm_tapCount h _)) h

theorem calm_tapsClose {r s : State} (h : Calm r s) (id : Nat) : Calm r (s.tapsClose id) := by
  unfold State.tapsClose
  exact calm_foldState (fun s a k => calm_releaseTaps k _) (calm_foldState (fun s a k => calm_foldState (fun s a k'
      => calm_tapClose k' _ _ _) k _) h _) _

theorem calm_putTime {r s : State} (h : Calm r s) (ns lo hi : Fld) (t i : Nat) : Calm r (s.putTime ns lo hi t i) := by
  unfold State.putTime
  exact calm_put (calm_put (calm_put h _ _ _ _) _ _ _ _) _ _ _ _

theorem calm_setDom {r s : State} (h : Calm r s) (d : Nat) (x : Domain) : Calm r (s.setDom d x) := by
  unfold State.setDom
  exact calm_time h _

theorem calm_setEth {r s : State} (h : Calm r s) (p : Nat) (x : EthPort) : Calm r (s.setEth p x) := by
  unfold State.setEth
  exact calm_time h _

theorem calm_showEth {r s : State} (h : Calm r s) (p : Nat) : Calm r (s.showEth p) := by
  unfold State.showEth
  dsimp only
  refine calm_ite ?_ ?_
  · split
    · exact calm_putBit (calm_putTime (calm_put h _ _ _ _) _ _ _ _ _) _ _ _ _
    · exact calm_putBit (calm_put h _ _ _ _) _ _ _ _
  · exact calm_put h _ _ _ _

theorem calm_ptpStart {r s : State} (h : Calm r s) (p : Nat) (m : Nat × Nat) : Calm r (s.ptpStart p m) := by
  unfold State.ptpStart
  exact calm_ite (calm_drawn (calm_setDom (calm_setEth h _ _) _ _)) (calm_setEth h _ _)

theorem calm_ptpFlush {r s : State} (h : Calm r s) (p n : Nat) : Calm r (s.ptpFlush p n) := by
  induction n generalizing s with
  | zero => exact h
  | succ n ih =>
    unfold State.ptpFlush
    split
    · exact h
    · split
      · exact ih (calm_ptpStart (calm_setEth h _ _) _ _)
      · exact h

theorem calm_ptpGo {r s : State} (h : Calm r s) (p : Nat) : Calm r (s.ptpGo p) := by
  unfold State.ptpGo
  exact calm_ptpFlush h _ _

theorem calm_launchHead {r s : State} (h : Calm r s) (p : Nat) (exact : Bool) : Calm r (s.launchHead p exact) := by
  unfold State.launchHead
  dsimp only
  split
  · exact calm_ite h (calm_ite (calm_ptpGo (calm_showEth (calm_bump (calm_setEth h _ _) _ _ _) _) _) (calm_showEth
        (calm_drawn (calm_setEth (calm_ite (calm_bump h _ _ _) h) _ _)) _))
  · exact h

theorem calm_queueFrame {r s : State} (h : Calm r s) (p : Nat) (f : TimedFrame) : Calm r (s.queueFrame p f) := by
  unfold State.queueFrame
  exact calm_ite (calm_bump h _ _ _) (calm_ite (calm_bump h _ _ _) (calm_ite (calm_bump h _ _ _) (calm_launchHead
      (calm_showEth (calm_setEth h _ _) _) _ _)))

theorem calm_timedFrame {r s : State} (h : Calm r s) (id closed : Nat) : Calm r (s.timedFrame id closed) := by
  unfold State.timedFrame
  exact calm_ite h (calm_queueFrame (calm_drawn h) _ _)

theorem calm_finalDiff {r s : State} (h : Calm r s) (id : Nat) : Calm r (s.finalDiff id) := by
  unfold State.finalDiff
  exact calm_ite (calm_bump h _ _ _) h

theorem calm_armLate {r s : State} (h : Calm r s) : Calm r s.armLate := by
  unfold State.armLate
  exact calm_tdc (calm_bump h _ _ _) _

end Sys2Proof.Machine
end

section
/-! Reports of the field die that the device applies (R18 to R22, R128, R137, R336 to R344, R360, R361). -/
namespace Sys2Proof.Machine
open Sys2Proof.Claims

/-- The oldest report is applied by the row that names it. -/
theorem goes_report {i : Instr} {s t : State} {k : Taken} {f : State → Taken → Option State} (h : Reports s k)
    (hi : exec i s = onReport s f) (hf : f s.dropReport k = some t) : Goes i s t := by
  refine goes_onDevice h.1 hi ?_
  simp only [h.2, hf]
  rfl

/-! ### The table's mirror -/

theorem State.setField_table (s : State) (r : Reg) (v i : Nat) :
    (s.setField r v i).field.table = s.field.table ∧ (s.setField r v i).field.amends = s.field.amends := by
  unfold State.setField; dsimp only; split <;> exact ⟨rfl, rfl⟩

theorem State.drainGate_keeps (s : State) : s.drainGate.die = s.die ∧ s.drainGate.bobs = s.bobs ∧
    s.drainGate.field.table = s.field.table := by
  unfold State.drainGate
  split
  · have h := s.setField_only R.FIELD_TWIN_GATE 0 0
    have ht := (s.setField_table R.FIELD_TWIN_GATE 0 0).1
    generalize s.setField R.FIELD_TWIN_GATE 0 = t at h ht
    refine ⟨?_, ?_, ht⟩
    · show t.die = s.die
      rw [h]
    · show t.bobs = s.bobs
      rw [h]
  · exact ⟨rfl, rfl, rfl⟩

theorem State.freeDevEntry_keeps (s : State) (e : Nat) : (s.freeDevEntry e).die = s.die ∧ (s.freeDevEntry e).bobs = s.bobs ∧
    (s.freeDevEntry e).field.table = tdel s.field.table e :=
  State.drainGate_keeps (State.showTable (State.dropAmend { s with field := { s.field with table := tdel s.field.table e } } e))

/-! ### Bobbins -/

/-- A retired bobbin is free. -/
theorem State.retireBob_free {s : State} (h : tsorted s.bobs = true) (id : Nat) : ((s.retireBob id).bob id).state = .free ∧
    (s.retireBob id).die = s.die ∧ (s.retireBob id).field = s.field := by
  have hend := calm_endCompute (calm_refl s) id
  unfold State.retireBob
  generalize s.endCompute id = t at hend
  have hmir := calm_mirror (calm_refl (t.freeBob id)) 4 [w32 id]
  have hfree : ((t.freeBob id).bob id).state = .free := by
    show (tgetD (tdel t.bobs id) id {}).state = _
    rw [tgetD, tget?_tdel_same (hend.sorted h)]
  exact ⟨(hmir.state id).trans hfree, hmir.die.trans hend.die, hmir.field.trans hend.field⟩

theorem State.finalise_final (s : State) (id final time : Nat) : ((s.finalise id final time).bob id).state = .armedFinal ∧
    ((s.finalise id final time).bob id).final = final := by
  have hset := calm_refl (s.setBob id { s.bob id with
    state := .armedFinal, final := final, since := s.time.uptime - (s.time.now - time) / nsUnit })
  have hbob := s.bob_setBob id { s.bob id with
    state := .armedFinal, final := final, since := s.time.uptime - (s.time.now - time) / nsUnit }
  have hall := calm_mirror (calm_endCompute (calm_tapsClose (calm_timedFrame (calm_finalDiff hset id) id time) id) id) 3
    [w32 id, w32 (final + 4)]
  exact ⟨(hall.state id).trans (by rw [hbob]), (hall.final id).trans (by rw [hbob])⟩

/-! ### Latches -/

section
variable {s : State} {r : Nat} {c : Int} {safe : Bool}

theorem State.probeEdge_held {l : Int} (hl : (s.rule r).lastC = some l) (h0 : (s.rule r).hold ≠ 0) (h : c < l + (s.rule r).hold) :
    s.probeEdge r c safe = s.bump F.BOB_CNT_PROBE_HELD := by
  refine if_pos ?_
  rw [hl, Option.any_some, decide_eq_true h, Bool.and_true, bne_iff_ne]
  exact h0

theorem State.probeEdge_counts (h : ∀ l, (s.rule r).lastC = some l → (s.rule r).hold ≠ 0 → l + (s.rule r).hold ≤ c) :
    s.probeEdge r c safe = if safe then
      (if (s.setRule r { s.rule r with lastC := some c }).role = 2 then s.setRule r { s.rule r with lastC := some c }
        else (s.setRule r { s.rule r with lastC := some c }).untracked)
      else (s.setRule r { s.rule r with lastC := some c }).partFound r c := by
  refine if_neg ?_
  rw [Option.any_eq_true]
  rintro ⟨l, hl, hh⟩
  rw [Bool.and_eq_true, bne_iff_ne, decide_eq_true_eq] at hh
  have := h l hl hh.1
  omega

end

/-! ### Status -/

/-- What a STATUS shows, before what POWERUP means (R336, R351, R354, R358). -/
def State.statusShown (s : State) (faults : Nat) (stop powerup : Bool) (lines cause sets faultN : Nat) : State :=
  ((((((((s.put F.FIELD_FO_STAT_FAULT faults).putBit F.FIELD_STOP_REQ stop).putBit F.FIELD_LINK_STAT_POWERUP powerup).put
    F.FIELD_LINK_STAT_SAFE_CAUSE cause).put F.FIELD_ENC_ERR_LINE_FAULT (lines % 2) 0).put F.FIELD_ENC_ERR_LINE_FAULT
    (lines / 2) 1).bumpBy F.FIELD_STOP_SETS sets).bumpBy F.FIELD_FO_STAT_FAULT_CNT faultN)

theorem State.statusShown_only (s : State) (faults : Nat) (stop powerup : Bool) (lines cause sets faultN : Nat) :
    s.statusShown faults stop powerup lines cause sets faultN =
      { s with regs := (s.statusShown faults stop powerup lines cause sets faultN).regs } := rfl

section
variable (s : State) (faults : Nat) (stop powerup : Bool) (lines cause sets faultN : Nat)

/-- A register other than STOP and FO_STAT is shown by the puts before the two counters. -/
theorem State.statusShown_get {g : Fld} (hf : g.reg.addr 0 0 ≠ R.FIELD_FO_STAT.addr 0 0) (hs : g.reg.addr 0 0 ≠ R.FIELD_STOP.addr 0 0)
    (he : ∀ i < 2, g.reg.addr 0 0 ≠ R.FIELD_ENC_ERR.addr i 0) : (s.statusShown faults stop powerup lines cause sets faultN).get g =
      ((((s.put F.FIELD_FO_STAT_FAULT faults).putBit F.FIELD_STOP_REQ stop).putBit F.FIELD_LINK_STAT_POWERUP powerup).put
        F.FIELD_LINK_STAT_SAFE_CAUSE cause).get g := by
  rw [State.statusShown, State.bumpBy, State.get_put_other _ F.FIELD_FO_STAT_FAULT_CNT g _ 0 0 0 0 hf, State.bumpBy,
    State.get_put_other _ F.FIELD_STOP_SETS g _ 0 0 0 0 hs, State.get_put_other _ F.FIELD_ENC_ERR_LINE_FAULT g _ 1 0 0 0 (he 1 (by decide)),
    State.get_put_other _ F.FIELD_ENC_ERR_LINE_FAULT g _ 0 0 0 0 (he 0 (by decide))]

theorem State.statusShown_cause : (s.statusShown faults stop powerup lines cause sets faultN).get F.FIELD_LINK_STAT_SAFE_CAUSE =
    cause % 2 ^ F.FIELD_LINK_STAT_SAFE_CAUSE.width := by
  rw [State.statusShown_get (g := F.FIELD_LINK_STAT_SAFE_CAUSE) _ _ _ _ _ _ _ _ (by decide) (by decide) (by decide)]
  exact State.get_put _ F.FIELD_LINK_STAT_SAFE_CAUSE cause 0 0 (by decide)

theorem State.statusShown_fault : (s.statusShown faults stop powerup lines cause sets faultN).get F.FIELD_FO_STAT_FAULT = faults % 256 := by
  have hstop : F.FIELD_FO_STAT_FAULT.reg.addr 0 0 ≠ R.FIELD_STOP.addr 0 0 := by decide
  have hlink : F.FIELD_FO_STAT_FAULT.reg.addr 0 0 ≠ R.FIELD_LINK_STAT.addr 0 0 := by decide
  have hone : F.FIELD_FO_STAT_FAULT.reg.addr 0 0 ≠ R.FIELD_ENC_ERR.addr 1 0 := by decide
  have hzero : F.FIELD_FO_STAT_FAULT.reg.addr 0 0 ≠ R.FIELD_ENC_ERR.addr 0 0 := by decide
  rw [State.statusShown, State.bumpBy,
    State.get_put_beside (f := F.FIELD_FO_STAT_FAULT_CNT) (g := F.FIELD_FO_STAT_FAULT) (hreg := rfl) (hw := by decide) (h := by decide),
    State.bumpBy, State.get_put_other _ F.FIELD_STOP_SETS F.FIELD_FO_STAT_FAULT _ 0 0 0 0 hstop,
    State.get_put_other _ F.FIELD_ENC_ERR_LINE_FAULT F.FIELD_FO_STAT_FAULT _ 1 0 0 0 hone,
    State.get_put_other _ F.FIELD_ENC_ERR_LINE_FAULT F.FIELD_FO_STAT_FAULT _ 0 0 0 0 hzero,
    State.get_put_other _ F.FIELD_LINK_STAT_SAFE_CAUSE F.FIELD_FO_STAT_FAULT _ 0 0 0 0 hlink, State.putBit,
    State.get_put_other _ F.FIELD_LINK_STAT_POWERUP F.FIELD_FO_STAT_FAULT _ 0 0 0 0 hlink, State.putBit,
    State.get_put_other _ F.FIELD_STOP_REQ F.FIELD_FO_STAT_FAULT _ 0 0 0 0 hstop]
  exact State.get_put s F.FIELD_FO_STAT_FAULT faults 0 0 (by decide)

/-- A field of STOP that is neither counter nor request is as the puts before it left it. -/
theorem State.statusShown_stop : (s.statusShown faults stop powerup lines cause sets faultN).on F.FIELD_STOP_REQ = stop ∧
    (s.statusShown faults stop powerup lines cause sets faultN).get F.FIELD_STOP_SETS =
      min (s.get F.FIELD_STOP_SETS + sets) (2 ^ F.FIELD_STOP_SETS.width - 1) := by
  have hfo : R.FIELD_STOP.addr 0 0 ≠ R.FIELD_FO_STAT.addr 0 0 := by decide
  have hlink : R.FIELD_STOP.addr 0 0 ≠ R.FIELD_LINK_STAT.addr 0 0 := by decide
  have hone : R.FIELD_STOP.addr 0 0 ≠ R.FIELD_ENC_ERR.addr 1 0 := by decide
  have hzero : R.FIELD_STOP.addr 0 0 ≠ R.FIELD_ENC_ERR.addr 0 0 := by decide
  have hbefore : ∀ g : Fld, g.reg = R.FIELD_STOP → ((((((s.put F.FIELD_FO_STAT_FAULT faults).putBit F.FIELD_STOP_REQ stop).putBit
      F.FIELD_LINK_STAT_POWERUP powerup).put F.FIELD_LINK_STAT_SAFE_CAUSE cause).put F.FIELD_ENC_ERR_LINE_FAULT (lines % 2) 0).put
      F.FIELD_ENC_ERR_LINE_FAULT (lines / 2) 1).get g = ((s.put F.FIELD_FO_STAT_FAULT faults).putBit F.FIELD_STOP_REQ stop).get g := by
    intro g hg
    rw [State.get_put_other _ F.FIELD_ENC_ERR_LINE_FAULT g _ 1 0 0 0 (hg ▸ hone),
      State.get_put_other _ F.FIELD_ENC_ERR_LINE_FAULT g _ 0 0 0 0 (hg ▸ hzero),
      State.get_put_other _ F.FIELD_LINK_STAT_SAFE_CAUSE g _ 0 0 0 0 (hg ▸ hlink), State.putBit,
      State.get_put_other _ F.FIELD_LINK_STAT_POWERUP g _ 0 0 0 0 (hg ▸ hlink)]
  constructor
  · rw [State.on, State.statusShown, State.bumpBy, State.get_put_other _ F.FIELD_FO_STAT_FAULT_CNT F.FIELD_STOP_REQ _ 0 0 0 0 hfo,
      State.bumpBy, State.get_put_beside (f := F.FIELD_STOP_SETS) (g := F.FIELD_STOP_REQ) (hreg := rfl) (hw := by decide) (h := by decide),
      hbefore _ rfl]
    exact State.on_putBit _ F.FIELD_STOP_REQ stop 0 0 rfl (by decide)
  · rw [State.statusShown, State.bumpBy, State.get_put_other _ F.FIELD_FO_STAT_FAULT_CNT F.FIELD_STOP_SETS _ 0 0 0 0 hfo,
      State.get_bumpBy _ F.FIELD_STOP_SETS sets 0 0 (by decide), hbefore _ rfl, State.putBit,
      State.get_put_beside (f := F.FIELD_STOP_REQ) (g := F.FIELD_STOP_SETS) (hreg := rfl) (hw := by decide) (h := by decide),
      State.get_put_other _ F.FIELD_FO_STAT_FAULT F.FIELD_STOP_SETS _ 0 0 0 0 hfo]

end

/-- What waits for the field die shows in two bits of two registers. -/
theorem State.showPending_get (s : State) {g : Fld} (h : (g.reg = R.FIELD_LINK_STAT ∧ F.FIELD_LINK_STAT_PENDING.lo + 1 ≤ g.lo) ∨
    (g.reg = R.FIELD_STOP ∧ (g.lo + g.width ≤ 1 ∨ 2 ≤ g.lo)) ∨ g.reg = R.FIELD_FO_STAT) (hw : g.lo + g.width ≤ 32) :
    s.showPending.get g = s.get g := by
  have h1 : R.FIELD_LINK_STAT.addr 0 0 ≠ R.FIELD_STOP.addr 0 0 := by decide
  have h2 : R.FIELD_FO_STAT.addr 0 0 ≠ R.FIELD_STOP.addr 0 0 := by decide
  have h3 : R.FIELD_FO_STAT.addr 0 0 ≠ R.FIELD_LINK_STAT.addr 0 0 := by decide
  rw [State.showPending, State.putBit, State.putBit]
  rcases h with ⟨hg, hl⟩ | ⟨hg, hl⟩ | hg
  · rw [State.get_put_other _ F.FIELD_STOP_CLEAR_PENDING g _ 0 0 0 0 (hg ▸ h1),
      State.get_put_beside (f := F.FIELD_LINK_STAT_PENDING) (g := g) (hreg := hg) (hw := hw) (h := .inr hl)]
  · rw [State.get_put_beside (f := F.FIELD_STOP_CLEAR_PENDING) (g := g) (hreg := hg) (hw := hw) (h := hl),
      State.get_put_other _ F.FIELD_LINK_STAT_PENDING g _ 0 0 0 0 (hg ▸ h1.symm)]
  · rw [State.get_put_other _ F.FIELD_STOP_CLEAR_PENDING g _ 0 0 0 0 (hg ▸ h2),
      State.get_put_other _ F.FIELD_LINK_STAT_PENDING g _ 0 0 0 0 (hg ▸ h3)]

/-- What a STATUS shows stays as the fields that the device keeps of it change. -/
theorem State.status_get (u : State) (f : FieldDev) {g : Fld} (h : (g.reg = R.FIELD_LINK_STAT ∧ F.FIELD_LINK_STAT_PENDING.lo + 1 ≤ g.lo) ∨
    (g.reg = R.FIELD_STOP ∧ (g.lo + g.width ≤ 1 ∨ 2 ≤ g.lo)) ∨ g.reg = R.FIELD_FO_STAT) (hw : g.lo + g.width ≤ 32) :
    (State.showPending { u with field := f }).get g = u.get g :=
  (State.showPending_get _ h hw).trans (State.get_congr (s := u) (t := { u with field := f }) rfl g 0 0)

theorem State.statusTaken (u : State) (first : Bool) :
    State.showPending (State.takePowerup { u with field := { u.field with seen := true } } false first) =
      State.showPending { u with field := { u.field with seen := true, sawOff := true } } := rfl

/-- No report, no change. -/
theorem goes_noReport {i : Instr} {s : State} {f : State → Taken → Option State} (hl : Live s) (h : s.report? = none)
    (hi : exec i s = onReport s f) : Goes i s s := goes_onDevice hl hi (by simp only [h])

theorem State.role_indexed (s : State) (v : Int) (c : Nat) :
    (s.putCount F.FIELD_ENC_INDEX_LO_INDEX F.FIELD_ENC_INDEX_HI_INDEX v c).role = s.role := by
  have hlo : F.TWIN_CTRL_ROLE.reg.top ≤ F.FIELD_ENC_INDEX_LO_INDEX.reg.base := by decide
  have hhi : F.TWIN_CTRL_ROLE.reg.top ≤ F.FIELD_ENC_INDEX_HI_INDEX.reg.base := by decide
  have hget : (s.putCount F.FIELD_ENC_INDEX_LO_INDEX F.FIELD_ENC_INDEX_HI_INDEX v c).get F.TWIN_CTRL_ROLE = s.get F.TWIN_CTRL_ROLE := by
    rw [State.putCount, State.get_put_below _ _ _ _ hhi (by decide), State.get_put_below _ _ _ _ hlo (by decide)]
  unfold State.role
  rw [hget]
  rfl

/-- Settles O34: each report by the row that applies it, its bobbin by what the end of its life leaves. -/
theorem fieldReportsApplied : Obligations.FieldReportsApplied := by
  unfold Obligations.FieldReportsApplied
  refine ⟨?ackOpen, ?ackClosed, ?ackOther, ?acceptNone, ?closeNone, ?ejectNone, ?ejectCut, ?refuseNone, ?refuse, ?accept, ?reject,
    ?closeDecided, ?close, ?final, ?eject, ?latch, ?latchNone, ?indexNone, ?syncDown, ?noReport, ?index, ?sync0, ?sync1, ?levels,
    ?status, ?speed, ?resyncReset, ?resync⟩
  case ackOpen =>
    intro s k e id h hk he hb
    have he' : s.dropReport.entryBob e = some id := he
    have hb' : (s.dropReport.bob id).state = .arming := hb
    refine goes_report h (show execFieldAckReport s = _ from rfl) ?_
    simp only [hk, he', State.ackBob, hb']
    rfl
  case ackClosed =>
    intro s k e id h hk he hb
    have he' : s.dropReport.entryBob e = some id := he
    have hb' : (s.dropReport.bob id).state = .arming := hb
    refine goes_report h (show execFieldAckReport s = _ from rfl) ?_
    simp only [hk, he', State.ackBob, hb']
    rfl
  case ackOther =>
    intro s k e b h hk hb
    refine goes_report h (show execFieldAckReport s = _ from rfl) ?_
    simp only [hk]
    cases he : s.dropReport.entryBob e with
    | none => rfl
    | some id => exact congrArg some (if_pos (hb id he))
  case acceptNone =>
    intro s k e h hk he
    have he' : s.dropReport.entryBob e = none := he
    refine goes_report h (show execFieldAcceptReport s = _ from rfl) ?_
    simp only [hk, he']
  case closeNone =>
    intro s k e b h hk he
    have he' : s.dropReport.entryBob e = none := he
    refine goes_report h (show execFieldCloseReport s = _ from rfl) ?_
    simp only [hk, he']
  case ejectNone =>
    intro s k e h hk he
    have he' : s.dropReport.entryBob e = none := he
    refine goes_report h (show execFieldEjectReport s = _ from rfl) ?_
    simp only [hk, he']
    rfl
  case ejectCut =>
    intro s k e why h hk he
    have he' : s.dropReport.entryBob e = none := he
    refine goes_report h (show execFieldEjectReport s = _ from rfl) ?_
    simp only [hk, he']
    rfl
  case refuseNone =>
    intro s k e h hk he
    have he' : s.dropReport.entryBob e = none := he
    refine goes_report h (show execFieldRefuseReport s = _ from rfl) ?_
    simp only [hk, he']
  case refuse =>
    intro s k e id h hk he hs ht
    have he' : s.dropReport.entryBob e = some id := he
    have hgo : Goes .fieldRefuseReport s (((s.dropReport.freeDevEntry e).armLate.bobRecord id k.arrived).retireBob id) := by
      refine goes_report h (show execFieldRefuseReport s = _ from rfl) ?_
      simp only [hk, he']
    obtain ⟨hdie, hbobs, htab⟩ := s.dropReport.freeDevEntry_keeps e
    generalize s.dropReport.freeDevEntry e = u at hgo hdie hbobs htab
    have hcalm := calm_bobRecord (calm_armLate (calm_refl u)) id k.arrived
    obtain ⟨h1, h2, h3⟩ := State.retireBob_free (hcalm.sorted (by rw [hbobs]; exact hs)) id
    refine ⟨_, hgo, h1, ?_, h2.trans (hcalm.die.trans hdie)⟩
    rw [h3, hcalm.field, htab]
    exact tget?_tdel_same ht
  case accept =>
    intro s k e id h hk he
    have he' : s.dropReport.entryBob e = some id := he
    have hgo : Goes .fieldAcceptReport s (((((s.dropReport.dropAmend e).setBob id { s.bob id with
        amended := true, tested := true, state := .decided }).bobRecord id k.rep.time).endCompute id).mirror 3
        [w32 id, w32 ((s.bob id).amendTo.getD (s.bob id).provAct)]) := by
      refine goes_report h (show execFieldAcceptReport s = _ from rfl) ?_
      simp only [hk, he']
      rfl
    have hbob := (s.dropReport.dropAmend e).bob_setBob id { s.bob id with amended := true, tested := true, state := .decided }
    have ham : ∀ a ∈ ((s.dropReport.dropAmend e).setBob id { s.bob id with
        amended := true, tested := true, state := .decided }).field.amends, a.entry ≠ e := fun a ha => by
      simpa using (List.mem_filter.mp ha).2
    generalize (s.dropReport.dropAmend e).setBob id { s.bob id with amended := true, tested := true, state := .decided } = u at hgo hbob ham
    have hcalm := calm_mirror (calm_endCompute (calm_bobRecord (calm_refl u) id k.rep.time) id) 3
      [w32 id, w32 ((s.bob id).amendTo.getD (s.bob id).provAct)]
    exact ⟨_, hgo, (hcalm.state id).trans (by rw [hbob]), (hcalm.amended id).trans (by rw [hbob]), fun a ha => ham a (hcalm.field ▸ ha)⟩
  case reject =>
    intro s k e b h hk
    have hgo : Goes .fieldRejectReport s ((s.dropReport.dropAmend e).bump
        (if b then F.FIELD_AMEND_LATE_NOT_ARMED else F.FIELD_AMEND_LATE_LATE)) := by
      refine goes_report h (show execFieldRejectReport s = _ from rfl) ?_
      simp only [hk]
    have ham : ∀ a ∈ (s.dropReport.dropAmend e).field.amends, a.entry ≠ e := fun a ha => by
      simpa using (List.mem_filter.mp ha).2
    have hsame : ∀ f : Fld, f.reg = R.FIELD_AMEND_LATE → SameRegs s ((s.dropReport.dropAmend e).bump f) [R.FIELD_AMEND_LATE.addr 0 0] :=
      fun f hf => hf ▸ sameRegs_put s f _
    refine ⟨_, hgo, rfl, hsame _ ?_, ham⟩
    cases b <;> rfl
  case closeDecided =>
    intro s k e id b h hk he hb
    have he' : s.dropReport.entryBob e = some id := he
    have hb' : (s.dropReport.bob id).state = .decided := hb
    refine goes_report h (show execFieldCloseReport s = _ from rfl) ?_
    simp only [hk, he', hb', if_pos]
    rfl
  case close =>
    intro s k e id b h hk he hb
    have he' : s.dropReport.entryBob e = some id := he
    have hb' : (s.dropReport.bob id).state ≠ .decided := hb
    refine goes_report h (show execFieldCloseReport s = _ from rfl) ?_
    simp only [hk, he', if_neg hb']
    rfl
  case final => exact fun s id f n => s.finalise_final id f n
  case eject =>
    intro s k e id why b h hk he hs ht
    have he' : s.dropReport.entryBob e = some id := he
    have hgo : Goes .fieldEjectReport s (State.retireBob (State.bobRecord (if b then (s.dropReport.freeDevEntry e).bump
        (if why = 1 then F.FIELD_EJECT_CNT_MISSED else F.FIELD_EJECT_CNT_DISCARD) else s.dropReport.freeDevEntry e) id k.arrived) id) := by
      refine goes_report h (show execFieldEjectReport s = _ from rfl) ?_
      simp only [hk, he']
    obtain ⟨hdie, hbobs, htab⟩ := s.dropReport.freeDevEntry_keeps e
    generalize s.dropReport.freeDevEntry e = u at hgo hdie hbobs htab
    have hcalm := calm_bobRecord (calm_ite (c := b = true) (calm_bump (calm_refl u)
      (if why = 1 then F.FIELD_EJECT_CNT_MISSED else F.FIELD_EJECT_CNT_DISCARD) 0 0) (calm_refl u)) id k.arrived
    obtain ⟨h1, h2, h3⟩ := State.retireBob_free (hcalm.sorted (by rw [hbobs]; exact hs)) id
    refine ⟨_, hgo, h1, ?_, h2.trans (hcalm.die.trans hdie)⟩
    rw [h3, hcalm.field, htab]
    exact tget?_tdel_same ht
  case latch =>
    intro s k i enc low r c h hk hp hrole
    have hp' : s.dropReport.probeRule i = some r := hp
    have hi : exec .fieldLatchReport s = _ := show execFieldLatchReport s = _ from rfl
    refine ⟨fun hc => ?_, fun l hc hl h0 hlt => ?_, ?_⟩
    · have hc' : s.dropReport.count? enc = none := hc
      refine goes_report h hi ?_
      simp only [hk, State.latchTaken, hp', hc']
      exact congrArg some (if_neg hrole)
    · have hc' : s.dropReport.count? enc = some c := hc
      refine goes_report h hi ?_
      simp only [hk, State.latchTaken, hp', hc']
      exact congrArg some (State.probeEdge_held (s := s.dropReport) hl h0 hlt)
    · rintro hc hhold t rfl
      have hc' : s.dropReport.count? enc = some c := hc
      have hgo : Goes .fieldLatchReport s (s.dropReport.probeEdge r (rebuild c 24 low) k.safe) := by
        refine goes_report h hi ?_
        simp only [hk, State.latchTaken, hp', hc']
      rw [State.probeEdge_counts (s := s.dropReport) hhold] at hgo
      refine ⟨fun hs => ?_, fun hs => ?_⟩
      · rw [hs, if_pos rfl, if_neg (show ¬ (s.dropReport.setRule r _).role = 2 from hrole)] at hgo
        exact hgo
      · rw [hs, if_neg (by decide)] at hgo
        exact hgo
  case latchNone =>
    intro s k i enc low h hk hp
    have hp' : s.dropReport.probeRule i = none := hp
    refine goes_report h (show execFieldLatchReport s = _ from rfl) ?_
    simp only [hk, State.latchTaken, hp']
  case indexNone =>
    intro s k c low h hk hc
    have hc' : s.dropReport.count? c = none := hc
    refine goes_report h (show execFieldIndexReport s = _ from rfl) ?_
    simp only [hk, hc']
  case syncDown =>
    intro s k c p bits h hk hup
    have hup' : s.dropReport.on F.FIELD_LINK_STAT_UP = false := hup
    refine goes_report h (show execFieldSyncReport s = _ from rfl) ?_
    simp only [hk, hup']
    rfl
  case noReport =>
    intro s i hl h hi
    simp only [List.mem_cons, List.not_mem_nil, or_false] at hi
    rcases hi with rfl | rfl | rfl | rfl | rfl | rfl | rfl | rfl | rfl | rfl | rfl | rfl | rfl
    · exact goes_noReport hl h (show execFieldAckReport s = _ from rfl)
    · exact goes_noReport hl h (show execFieldRefuseReport s = _ from rfl)
    · exact goes_noReport hl h (show execFieldAcceptReport s = _ from rfl)
    · exact goes_noReport hl h (show execFieldRejectReport s = _ from rfl)
    · exact goes_noReport hl h (show execFieldCloseReport s = _ from rfl)
    · exact goes_noReport hl h (show execFieldEjectReport s = _ from rfl)
    · exact goes_noReport hl h (show execFieldLatchReport s = _ from rfl)
    · exact goes_noReport hl h (show execFieldIndexReport s = _ from rfl)
    · exact goes_noReport hl h (show execFieldSyncReport s = _ from rfl)
    · exact goes_noReport hl h (show execFieldFiStateReport s = _ from rfl)
    · exact goes_noReport hl h (show execFieldStatusReport s = _ from rfl)
    · exact goes_noReport hl h (show execFieldSpeedReport s = _ from rfl)
    · exact goes_noReport hl h (show execFieldResyncReport s = _ from rfl)
  case index =>
    intro s k c low n h hk hc hrole
    have hc' : s.dropReport.count? c = some n := hc
    have hr := (s.dropReport.role_indexed (rebuild n 24 low) c).trans hrole
    refine goes_report h (show execFieldIndexReport s = _ from rfl) ?_
    simp only [hk, hc', hr]
    refine congrArg some ((if_neg (by decide)).trans (if_neg ?_))
    rw [hr]
    exact fun h1 => absurd h1.1 (by decide)
  case sync0 =>
    intro s k c bits h hk hup
    have hup' : s.dropReport.on F.FIELD_LINK_STAT_UP = true := hup
    refine goes_report h (show execFieldSyncReport s = _ from rfl) ?_
    simp only [hk, hup']
    rfl
  case sync1 =>
    intro s k c bits lo h hk hup hlo
    have hup' : s.dropReport.on F.FIELD_LINK_STAT_UP = true := hup
    have hlo' : (s.dropReport.mirrorOf c).part0 = some lo := hlo
    refine goes_report h (show execFieldSyncReport s = _ from rfl) ?_
    simp only [hk, hup', hlo']
    rfl
  case levels =>
    intro s k v h hk h0
    have hget : (s.dropReport.put F.FIELD_FI_STATE_STATE v).get F.SNAP_CTRL_SOURCES = 0 :=
      (State.get_put_other s.dropReport F.FIELD_FI_STATE_STATE F.SNAP_CTRL_SOURCES v 0 0 0 0 (by decide)).trans h0
    have hsnap : (s.dropReport.put F.FIELD_FI_STATE_STATE v).snapIf 2 = s.dropReport.put F.FIELD_FI_STATE_STATE v := by
      rw [State.snapIf, hget]
      exact if_neg (by decide)
    refine goes_report h (show execFieldFiStateReport s = _ from rfl) ?_
    simp only [hk, hsnap, ite_self]
  case status =>
    intro s k faults lines cause sets n stop h hk
    have hgo : Goes .fieldStatusReport s (State.showPending { s.dropReport.statusShown faults stop false lines cause sets n with
        field := { (s.dropReport.statusShown faults stop false lines cause sets n).field with seen := true, sawOff := true } }) := by
      refine goes_report h (show execFieldStatusReport s = _ from rfl) ?_
      simp only [hk]
      exact congrArg some (State.statusTaken (s.dropReport.statusShown faults stop false lines cause sets n) _)
    have honly := s.dropReport.statusShown_only faults stop false lines cause sets n
    have hcause := s.dropReport.statusShown_cause faults stop false lines cause sets n
    have hfault := s.dropReport.statusShown_fault faults stop false lines cause sets n
    obtain ⟨hreq, hsets⟩ := s.dropReport.statusShown_stop faults stop false lines cause sets n
    generalize s.dropReport.statusShown faults stop false lines cause sets n = u at hgo honly hcause hfault hreq hsets
    refine ⟨_, hgo, ?_, rfl, rfl, ?_, ?_, ?_, ?_⟩
    · rw [honly]; rfl
    · rw [State.status_get u _ (g := F.FIELD_FO_STAT_FAULT) (.inr (.inr rfl)) (by decide)]
      exact hfault
    · rw [State.on, State.status_get u _ (g := F.FIELD_STOP_REQ) (.inr (.inl ⟨rfl, .inl (by decide)⟩)) (by decide)]
      exact hreq
    · rw [State.status_get u _ (g := F.FIELD_LINK_STAT_SAFE_CAUSE) (.inl ⟨rfl, by decide⟩) (by decide)]
      exact hcause
    · rw [State.status_get u _ (g := F.FIELD_STOP_SETS) (.inr (.inl ⟨rfl, .inr (by decide)⟩)) (by decide)]
      rw [hsets, State.get_congr (s := s) (t := s.dropReport) rfl]
  case speed =>
    intro s k c n h hk
    refine goes_report h (show execFieldSpeedReport s = _ from rfl) ?_
    simp only [hk]
  case resyncReset =>
    intro s k h hk hr hoff
    have hr' : s.dropReport.field.link.resync = false := hr
    have hoff' : s.dropReport.field.sawOff = true := hoff
    have hgo : Goes .fieldResyncReport s (s.dropReport.requestReset 4) := by
      refine goes_report h (show execFieldResyncReport s = _ from rfl) ?_
      simp only [hk, hr', hoff']
      rfl
    exact ⟨_, hgo, (s.dropReport.requestReset_due 4).1, fun hn => (s.dropReport.requestReset_due 4).2 hn⟩
  case resync =>
    intro s k h hk hr hfw
    have hr' : s.dropReport.field.link.resync = true := hr
    have hall : ∀ f : FieldDev, State.sendAll { s.dropReport with field := f } = { s.dropReport with field := f } := fun f => by
      have hfw' : ({ s.dropReport with field := f } : State).on F.HOST_STATUS_FW_RUN = false := hfw
      unfold State.sendAll
      dsimp only
      rw [hfw', Bool.and_false, Bool.false_and]
      exact if_neg (by decide)
    have hgo : Goes .fieldResyncReport s (State.showPending { s.dropReport with field := { s.dropReport.field with
        allDue := true, seen := false, link := s.dropReport.field.link.restart } }) := by
      refine goes_report h (show execFieldResyncReport s = _ from rfl) ?_
      simp only [hk, hr', hall]
      rfl
    exact ⟨_, hgo, rfl, rfl, rfl, rfl, rfl⟩

end Sys2Proof.Machine
end

section
/-! The field commands and the FIELD registers (R31, R345 to R357). -/
namespace Sys2Proof.Machine
open Sys2Proof.Claims

/-! ### FIELD registers -/

theorem bitsOf_mod_word {x lo w : Nat} (h : lo + w ≤ 32) : bitsOf (x % 2 ^ 32) lo w = bitsOf x lo w := by
  apply Nat.eq_of_testBit_eq
  intro k
  rw [testBit_bitsOf, testBit_bitsOf, Nat.testBit_mod_two_pow]
  by_cases hk : k < w
  · simp [show lo + k < 32 by omega]
  · simp [hk]

/-- A register of the FIELD block whose writes nothing else changes: neither LINK_STAT nor STOP. -/
def FieldOwn (r : Reg) (i : Nat) : Prop := r.addr i 0 ≠ R.FIELD_LINK_STAT.addr 0 0 ∧ r.addr i 0 ≠ R.FIELD_STOP.addr 0 0

theorem State.reg_setField_same (s : State) {r : Reg} {i : Nat} (h : FieldOwn r i) (v : Nat) : (s.setField r v i).reg r i = v % 2 ^ 32 := by
  obtain ⟨b, d, hregs⟩ := s.setField_regs r v i
  rw [State.reg_congr hregs, State.putBit, State.reg_put_other _ F.FIELD_STOP_CLEAR_PENDING r _ 0 0 i 0 h.2, State.putBit,
    State.reg_put_other _ F.FIELD_LINK_STAT_PENDING r _ 0 0 i 0 h.1, State.reg_setReg]

theorem State.reg_setField_other (s : State) {r q : Reg} {i k : Nat} (hq : FieldOwn q k) (hne : q.addr k 0 ≠ r.addr i 0) (v : Nat) :
    (s.setField r v i).reg q k = s.reg q k := by
  obtain ⟨b, d, hregs⟩ := s.setField_regs r v i
  rw [State.reg_congr hregs, State.putBit, State.reg_put_other _ F.FIELD_STOP_CLEAR_PENDING q _ 0 0 k 0 hq.2, State.putBit,
    State.reg_put_other _ F.FIELD_LINK_STAT_PENDING q _ 0 0 k 0 hq.1, State.reg_setReg_other _ _ _ _ _ _ _ _ hne]

theorem State.get_setField_same (s : State) {r : Reg} {i : Nat} (h : FieldOwn r i) (v : Nat) {g : Fld} (hg : g.reg = r)
    (hw : g.lo + g.width ≤ 32) : (s.setField r v i).get g i = bitsOf v g.lo g.width := by
  rw [State.get, hg, State.reg_setField_same s h, bitsOf_mod_word hw]

theorem State.get_putField (s : State) {f : Fld} {i : Nat} (h : FieldOwn f.reg i) (hw : f.lo + f.width ≤ 32) (v : Nat) :
    (s.putField f v i).get f i = v % 2 ^ f.width := by
  rw [State.putField, State.get_setField_same s h _ rfl hw, bitsOf_setBits_same]

theorem State.get_putField_beside (s : State) {f g : Fld} {i : Nat} (h : FieldOwn f.reg i) (hg : g.reg = f.reg) (hw : g.lo + g.width ≤ 32)
    (hd : g.lo + g.width ≤ f.lo ∨ f.lo + f.width ≤ g.lo) (v : Nat) : (s.putField f v i).get g i = s.get g i := by
  rw [State.putField, State.get_setField_same s h _ hg hw, bitsOf_setBits_other _ _ _ _ _ _ hd, State.get, hg]

theorem State.get_putField_other (s : State) {f g : Fld} {i k : Nat} (hq : FieldOwn g.reg k) (hne : g.reg.addr k 0 ≠ f.reg.addr i 0)
    (v : Nat) : (s.putField f v i).get g k = s.get g k := by
  rw [State.get, State.putField, State.reg_setField_other s hq hne, State.get]

theorem State.putField_only (s : State) (f : Fld) (v i : Nat) :
    s.putField f v i = { s with regs := (s.putField f v i).regs, field := (s.putField f v i).field } := s.setField_only _ _ _

theorem fieldOwn_fi (i : Nat) : FieldOwn R.FIELD_FI_CFG i := by
  have h : R.FIELD_FI_CFG.addr i 0 = 0x3F00A00100 + i * 4 + 0 * 0 := rfl
  have h1 : R.FIELD_LINK_STAT.addr 0 0 = 0x3F00A00000 := rfl
  have h2 : R.FIELD_STOP.addr 0 0 = 0x3F00A00020 := rfl
  exact ⟨by omega, by omega⟩

theorem fieldOwn_enc (i : Nat) : FieldOwn R.FIELD_ENC_CFG i := by
  have h : R.FIELD_ENC_CFG.addr i 0 = 0x3F00A00200 + i * 0x40 + 0 * 0 := rfl
  have h1 : R.FIELD_LINK_STAT.addr 0 0 = 0x3F00A00000 := rfl
  have h2 : R.FIELD_STOP.addr 0 0 = 0x3F00A00020 := rfl
  exact ⟨by omega, by omega⟩

theorem fieldOwn_fo : FieldOwn R.FIELD_FO_FUNC 0 := ⟨by decide, by decide⟩
theorem fieldOwn_safe : FieldOwn R.FIELD_SAFE_VALUES 0 := ⟨by decide, by decide⟩

/-- A write of a FIELD register goes to the field die, unless every setting is to be sent anyway (R345). -/
theorem State.setField_outbox (s : State) (r : Reg) (v i : Nat) : (s.setField r v i).field.outbox =
    if s.field.allDue then s.field.outbox else s.field.outbox ++ [.cfg (cfgIndex r i) (v % 2 ^ 32)] := by
  have hset : (s.setField r v i).field =
      (if s.field.allDue then s.setReg r v i else (s.setReg r v i).fieldSend (.cfg (cfgIndex r i) ((s.setReg r v i).reg r i))).field := rfl
  rw [hset, State.reg_setReg]
  split
  · rfl
  · exact (List.append_assoc _ _ _).symm

/-- An output, input or channel keeps the owner it was given as its settings are written. -/
theorem State.owner_setField {s : State} (hs : s.splits = []) (r : Reg) (v i : Nat) {k : Nat} (hk : k < R.SYS_OWN.count)
    (hr : R.SYS_OWN.top ≤ r.base) : (s.setField r v i).owner k = s.owner k := by
  rw [State.owner_unsplit (s := s.setField r v i) (by rw [State.setField_splits]; exact hs), State.owner_unsplit hs]
  exact State.get_setField (g := F.SYS_OWN_OWNER) s v i hk hr (by decide)

theorem State.owner_putField {s : State} (hs : s.splits = []) (f : Fld) (v i : Nat) {k : Nat} (hk : k < R.SYS_OWN.count)
    (hr : R.SYS_OWN.top ≤ f.reg.base) : (s.putField f v i).owner k = s.owner k := State.owner_setField hs _ _ _ hk hr

theorem State.owner_own {s : State} (hs : s.splits = []) (i o n : Nat) : (s.own i o n).owner i = o % 2 ^ 8 := by
  rw [State.owner_unsplit (by rw [State.own_splits]; exact hs)]
  exact (s.get_own i o n).1

/-! ### CMD_FI_CONFIG -/

theorem State.setThreshold_only (s : State) (i v : Nat) :
    s.setThreshold i v = { s with regs := (s.setThreshold i v).regs, field := (s.setThreshold i v).field } := by
  refine foldState_keeps (P := fun t : State => t = { s with regs := t.regs, field := t.field }) (fun t j ht => ?_) rfl _
  have h := t.putField_only F.FIELD_FI_CFG_TYPE3 v j
  generalize t.putField F.FIELD_FI_CFG_TYPE3 v j = u at h
  rw [h, ht]

/-- The inputs of a group take the threshold type; their debounce times stay. -/
theorem State.setThreshold_get (s : State) (v : Nat) (l : List Nat) {j : Nat} :
    ((j ∈ l ∨ s.get F.FIELD_FI_CFG_TYPE3 j = v % 2) →
      (foldState (fun t j => t.putField F.FIELD_FI_CFG_TYPE3 v j) s l).get F.FIELD_FI_CFG_TYPE3 j = v % 2) ∧
    (foldState (fun t j => t.putField F.FIELD_FI_CFG_TYPE3 v j) s l).get F.FIELD_FI_CFG_DEBOUNCE j = s.get F.FIELD_FI_CFG_DEBOUNCE j := by
  induction l generalizing s with
  | nil => exact ⟨fun h => h.elim (fun hn => absurd hn (by simp)) id, rfl⟩
  | cons k l ih =>
    have hne : j ≠ k → R.FIELD_FI_CFG.addr j 0 ≠ R.FIELD_FI_CFG.addr k 0 := fun h => Reg.addr_ne (by decide) h
    obtain ⟨ht, hd⟩ := ih (s.putField F.FIELD_FI_CFG_TYPE3 v k)
    rw [foldState_cons]
    refine ⟨fun h => ht ?_, hd.trans ?_⟩
    · by_cases hjk : j = k
      · subst hjk
        exact .inr (State.get_putField s (f := F.FIELD_FI_CFG_TYPE3) (fieldOwn_fi j) (by decide) v)
      · rcases h with h | h
        · exact .inl ((List.mem_cons.mp h).resolve_left hjk)
        · exact .inr ((State.get_putField_other s (f := F.FIELD_FI_CFG_TYPE3) (g := F.FIELD_FI_CFG_TYPE3) (fieldOwn_fi j) (hne hjk) v).trans h)
    · by_cases hjk : j = k
      · subst hjk
        exact State.get_putField_beside s (f := F.FIELD_FI_CFG_TYPE3) (g := F.FIELD_FI_CFG_DEBOUNCE) (fieldOwn_fi j) rfl (by decide)
          (by decide) v
      · exact State.get_putField_other s (f := F.FIELD_FI_CFG_TYPE3) (g := F.FIELD_FI_CFG_DEBOUNCE) (fieldOwn_fi j) (hne hjk) v

theorem State.setThreshold_owner {s : State} (hs : s.splits = []) (i v : Nat) {k : Nat} (hk : k < R.SYS_OWN.count) :
    (s.setThreshold i v).owner k = s.owner k := by
  refine (foldState_keeps (P := fun t : State => t.splits = [] ∧ t.owner k = s.owner k) (fun t j ht => ?_) ⟨hs, rfl⟩ _).2
  exact ⟨by rw [State.putField, State.setField_splits]; exact ht.1, (State.owner_setField ht.1 _ _ _ hk (by decide)).trans ht.2⟩

/-- The settings of an input as CMD_FI_CONFIG leaves them (R346). -/
def State.fiSet (s : State) (c : Cmd) : State :=
  ((if c.target < 4 then s.own c.target ownDebounced 0 else s).putField F.FIELD_FI_CFG_DEBOUNCE (c.p 2) c.target).setThreshold
    c.target (bitsOf (c.p 1) 0 1)

theorem State.fiSet_only (s : State) (c : Cmd) :
    s.fiSet c = { s with regs := (s.fiSet c).regs, field := (s.fiSet c).field, copies := (s.fiSet c).copies } := by
  have hown : (if c.target < 4 then s.own c.target ownDebounced 0 else s) =
      { s with regs := (if c.target < 4 then s.own c.target ownDebounced 0 else s).regs
               copies := (if c.target < 4 then s.own c.target ownDebounced 0 else s).copies } := by
    split
    · exact s.own_only _ _ _
    · rfl
  unfold State.fiSet
  generalize (if c.target < 4 then s.own c.target ownDebounced 0 else s) = t at hown
  have hput := t.putField_only F.FIELD_FI_CFG_DEBOUNCE (c.p 2) c.target
  generalize t.putField F.FIELD_FI_CFG_DEBOUNCE (c.p 2) c.target = u at hput
  have hthr := u.setThreshold_only c.target (bitsOf (c.p 1) 0 1)
  generalize u.setThreshold c.target (bitsOf (c.p 1) 0 1) = v at hthr
  rw [hthr, hput, hown]

theorem State.fiSet_shows (s : State) {c : Cmd} (h1 : c.p 1 < 2) (h2 : c.p 2 < 2 ^ 16) :
    (c.target < 4 → s.splits = [] → (s.fiSet c).owner c.target = ownDebounced) ∧
    (s.fiSet c).get F.FIELD_FI_CFG_DEBOUNCE c.target = c.p 2 ∧
    ∀ k, k < 4 → (s.fiSet c).get F.FIELD_FI_CFG_TYPE3 (c.target / 4 * 4 + k) = c.p 1 := by
  have hbit : bitsOf (c.p 1) 0 1 = c.p 1 := by unfold bitsOf; omega
  unfold State.fiSet
  rw [hbit]
  refine ⟨fun h4 hs => ?_, ?_, fun k hk => ?_⟩
  · have hs' : (s.own c.target ownDebounced 0).splits = [] := by rw [State.own_splits]; exact hs
    have hcount : R.SYS_OWN.count = 62 := rfl
    rw [if_pos h4, State.setThreshold_owner (by rw [State.putField, State.setField_splits]; exact hs') _ _ (by omega),
      State.owner_putField hs' _ _ _ (by omega) (by decide), State.owner_own hs]
    decide
  · rw [State.setThreshold, (State.setThreshold_get _ _ _).2, State.get_putField _ (f := F.FIELD_FI_CFG_DEBOUNCE) (fieldOwn_fi _) (by decide)]
    exact Nat.mod_eq_of_lt h2
  · rw [State.setThreshold, (State.setThreshold_get _ _ _).1 (.inl (List.mem_map.mpr ⟨k, List.mem_range.mpr hk, rfl⟩))]
    omega

theorem execCmdFiConfig_eq (src : Source) (s : State) : exec (.cmdFiConfig src) s = runCmd s src 0x0701 fun s c =>
    if bitsOf (c.p 1) 1 7 ≠ 0 ∨ 2 ^ 10 ≤ c.p 1 ∨ 2 ≤ bitsOf (c.p 1) 8 2 ∨ 2 ^ 16 ≤ c.p 2 ∨ (bitsOf (c.p 1) 8 2 = 1 ∧ 4 ≤ c.target) then
      refuse s .badParam
    else if c.target < 4 ∧ s.owner c.target = ownProbe then refuse s .resourceHeld
    else if bitsOf (c.p 1) 8 2 = 1 then doneWith (s.own c.target ownNone 0)
    else doneWith (s.fiSet c) := rfl

/-- The parameters of CMD_FI_CONFIG that are in range: a threshold type, or the release of one of the first four inputs. -/
theorem fiParam_iff {c : Cmd} : (bitsOf (c.p 1) 1 7 ≠ 0 ∨ 2 ^ 10 ≤ c.p 1 ∨ 2 ≤ bitsOf (c.p 1) 8 2 ∨ 2 ^ 16 ≤ c.p 2 ∨
    (bitsOf (c.p 1) 8 2 = 1 ∧ 4 ≤ c.target)) ↔
    (2 ≤ c.p 1 ∧ c.p 1 ≠ 0x100 ∧ c.p 1 ≠ 0x101) ∨ 2 ^ 16 ≤ c.p 2 ∨ (2 ≤ c.p 1 ∧ 4 ≤ c.target) := by
  unfold bitsOf
  omega

/-! ### CMD_FO_ASSIGN and CMD_FO_RELEASE -/

/-- An output given to a function, STOP_REQUEST or GENERAL_OUTPUT (R349). -/
def State.foAssigned (s : State) (i p : Nat) : State :=
  if p = ownStop then
    ((s.own (5 + i) p 0).setField R.FIELD_SAFE_VALUES (withBit ((s.own (5 + i) p 0).reg R.FIELD_SAFE_VALUES) i false)).putField
      (F.FIELD_FO_FUNC_FUNC i) 3
  else (s.own (5 + i) p 0).putField (F.FIELD_FO_FUNC_FUNC i) 4

theorem State.foAssigned_only (s : State) (i p : Nat) : s.foAssigned i p =
    { s with regs := (s.foAssigned i p).regs, field := (s.foAssigned i p).field, copies := (s.foAssigned i p).copies } := by
  have hown := s.own_only (5 + i) p 0
  unfold State.foAssigned
  generalize s.own (5 + i) p 0 = t at hown
  split
  · have h1 := t.setField_only R.FIELD_SAFE_VALUES (withBit (t.reg R.FIELD_SAFE_VALUES) i false) 0
    generalize t.setField R.FIELD_SAFE_VALUES (withBit (t.reg R.FIELD_SAFE_VALUES) i false) = u at h1
    have h2 := u.putField_only (F.FIELD_FO_FUNC_FUNC i) 3 0
    generalize u.putField (F.FIELD_FO_FUNC_FUNC i) 3 = v at h2
    rw [h2, h1, hown]
  · have h2 := t.putField_only (F.FIELD_FO_FUNC_FUNC i) 4 0
    generalize t.putField (F.FIELD_FO_FUNC_FUNC i) 4 = v at h2
    rw [h2, hown]

theorem State.foAssigned_shows (s : State) {i p : Nat} (hi : i < 8) (hp : p = 7 ∨ p = 8) :
    (s.splits = [] → (s.foAssigned i p).owner (5 + i) = p) ∧ (s.foAssigned i p).get (F.FIELD_FO_FUNC_FUNC i) = p - 4 ∧
    (p = 7 → bitAt ((s.foAssigned i p).reg R.FIELD_SAFE_VALUES) i = false) := by
  have hcount : R.SYS_OWN.count = 62 := rfl
  have hlo : (F.FIELD_FO_FUNC_FUNC i).lo = 3 * i := rfl
  have hbase : R.SYS_OWN.top ≤ (F.FIELD_FO_FUNC_FUNC i).reg.base := show R.SYS_OWN.top ≤ R.FIELD_FO_FUNC.base by decide
  have hne : R.FIELD_SAFE_VALUES.addr 0 0 ≠ (F.FIELD_FO_FUNC_FUNC i).reg.addr 0 0 :=
    show R.FIELD_SAFE_VALUES.addr 0 0 ≠ R.FIELD_FO_FUNC.addr 0 0 by decide
  have hwidth : (F.FIELD_FO_FUNC_FUNC i).width = 3 := rfl
  have hfo : FieldOwn (F.FIELD_FO_FUNC_FUNC i).reg 0 := fieldOwn_fo
  have hown : s.splits = [] → (s.own (5 + i) p 0).owner (5 + i) = p := fun hs => by
    rw [State.owner_own hs]; omega
  have hsp : s.splits = [] → (s.own (5 + i) p 0).splits = [] := fun hs => by rw [State.own_splits]; exact hs
  unfold State.foAssigned
  rcases hp with rfl | rfl
  · rw [if_pos (by decide)]
    refine ⟨fun hs => ?_, ?_, fun _ => ?_⟩
    · rw [State.owner_putField (by rw [State.setField_splits]; exact hsp hs) _ _ _ (by omega) hbase,
        State.owner_setField (hsp hs) _ _ _ (by omega) (by decide)]
      exact hown hs
    · rw [State.get_putField _ hfo (by omega), hwidth]
      rfl
    · rw [State.putField, State.reg_setField_other _ fieldOwn_safe hne,
        State.reg_setField_same _ fieldOwn_safe, bitAt_eq_testBit, Nat.testBit_mod_two_pow, ← bitAt_eq_testBit, withBit, bitAt_setBits,
        if_pos rfl, Bool.and_false]
  · rw [if_neg (by decide)]
    refine ⟨fun hs => ?_, ?_, fun h => absurd h (by decide)⟩
    · rw [State.owner_putField (hsp hs) _ _ _ (by omega) hbase]
      exact hown hs
    · rw [State.get_putField _ hfo (by omega), hwidth]
      rfl

theorem execCmdFoAssign_eq (src : Source) (s : State) : exec (.cmdFoAssign src) s = runCmd s src 0x0702 fun s c =>
    if (c.p 1 ≠ ownStop ∧ c.p 1 ≠ ownGeneral) ∨ c.p 2 ≠ 0 then refuse s .badParam
    else if s.heldByOther (5 + c.target) (c.p 1) 0 then refuse s .resourceHeld
    else doneWith (s.foAssigned c.target (c.p 1)) := by
  show execCmdFoAssign src s = _
  unfold execCmdFoAssign State.foAssigned
  congr 1
  funext s c
  dsimp only
  by_cases h : c.p 1 = ownStop
  · rw [if_pos h, if_pos h]
  · rw [if_neg h, if_neg h]

theorem State.releaseOutput_only (s : State) (i : Nat) : s.releaseOutput i =
    { s with regs := (s.releaseOutput i).regs, field := (s.releaseOutput i).field, copies := (s.releaseOutput i).copies } := by
  have hown := s.own_only (5 + i) ownNone 0
  unfold State.releaseOutput
  dsimp only
  generalize s.own (5 + i) ownNone 0 = t at hown
  have h := t.setField_only R.FIELD_FO_FUNC (setBits (setBits (s.reg R.FIELD_FO_FUNC) (3 * i) 3 0) (24 + i) 1 0) 0
  generalize t.setField R.FIELD_FO_FUNC (setBits (setBits (s.reg R.FIELD_FO_FUNC) (3 * i) 3 0) (24 + i) 1 0) = u at h
  rw [h, hown]

theorem State.releaseOutput_shows (s : State) {i : Nat} (hi : i < 8) :
    (s.splits = [] → (s.releaseOutput i).owner (5 + i) = ownNone) ∧ (s.releaseOutput i).get (F.FIELD_FO_FUNC_FUNC i) = 0 ∧
    (s.releaseOutput i).get (F.FIELD_FO_FUNC_LEVEL i) = 0 := by
  have hcount : R.SYS_OWN.count = 62 := rfl
  have hf : (F.FIELD_FO_FUNC_FUNC i).lo = 3 * i ∧ (F.FIELD_FO_FUNC_FUNC i).width = 3 := ⟨rfl, rfl⟩
  have hl : (F.FIELD_FO_FUNC_LEVEL i).lo = 24 + i ∧ (F.FIELD_FO_FUNC_LEVEL i).width = 1 := ⟨rfl, rfl⟩
  unfold State.releaseOutput
  refine ⟨fun hs => ?_, ?_, ?_⟩
  · rw [State.owner_setField (by rw [State.own_splits]; exact hs) _ _ _ (by omega) (by decide), State.owner_own hs]
    decide
  · rw [State.get_setField_same _ fieldOwn_fo (g := F.FIELD_FO_FUNC_FUNC i) (hg := rfl) (hw := by omega),
      bitsOf_setBits_other _ _ _ _ _ _ (by omega), hf.1, hf.2, bitsOf_setBits_same]
    rfl
  · rw [State.get_setField_same _ fieldOwn_fo (g := F.FIELD_FO_FUNC_LEVEL i) (hg := rfl) (hw := by omega), hl.1, hl.2, bitsOf_setBits_same]
    rfl

theorem bitAt_low (x : Nat) {i : Nat} (h : i < 8) : bitAt (bitsOf x 0 8) i = bitAt x i := by
  rw [bitAt_eq_testBit, bitAt_eq_testBit, testBit_bitsOf, decide_eq_true h, Bool.true_and, Nat.zero_add]

/-! ### CMD_ENC_CONFIG -/

theorem encWord_fields (old : Nat) (c : Cmd) : bitsOf (encWord old c) 0 2 = c.p 1 % 4 ∧ bitsOf (encWord old c) 2 1 = c.p 1 / 4 % 2 := by
  unfold encWord bitsOf
  dsimp only
  split <;> omega

/-- The owner of the pins that an encoder mode needs. -/
def encOwner (mode : Nat) : Nat := if mode = 0 then ownQuadrature else if mode = 1 then ownSsi else ownNone

/-- An encoder channel as CMD_ENC_CONFIG leaves it (R357). -/
def State.encSet (s : State) (c : Cmd) : State :=
  let o := if c.target = 1 then s.own 4 (encOwner (c.p 1 % 4)) 0 else s
  let t := if c.p 1 % 4 = 1 then o.dropOffset c.target else o
  t.setField R.FIELD_ENC_CFG (encWord (s.reg R.FIELD_ENC_CFG c.target) c) c.target

theorem State.dropOffset_only (s : State) (c : Nat) :
    s.dropOffset c = { s with regs := (s.dropOffset c).regs, twin := (s.dropOffset c).twin } := rfl

theorem State.dropOffset_off (s : State) (c : Nat) : (s.dropOffset c).on (offsetBit c) = false := by
  unfold State.dropOffset offsetBit
  split
  · exact State.on_putBit _ F.TWIN_STAT_OFFSET_VALID0 false 0 0 rfl (by decide)
  · exact State.on_putBit _ F.TWIN_STAT_OFFSET_VALID1 false 0 0 rfl (by decide)

theorem State.dropOffset_owner {s : State} (hs : s.splits = []) (c i : Nat) (hi : i < R.SYS_OWN.count) :
    (s.dropOffset c).owner i = s.owner i := by
  have hne : ∀ f : Fld, f.reg = R.TWIN_STAT → ∀ t : State, t.regs = s.regs → (t.putBit f false).get F.SYS_OWN_OWNER i = s.get F.SYS_OWN_OWNER i := by
    intro f hf t ht
    rw [State.putBit, State.get_put_below (g := F.SYS_OWN_OWNER) (f := f) _ _ _ _ (by rw [hf]; decide) hi, State.get_congr ht]
  rw [State.owner_unsplit (s := s.dropOffset c) hs, State.owner_unsplit hs]
  refine hne (offsetBit c) ?_ _ rfl
  unfold offsetBit
  split <;> rfl

theorem State.encSet_only (s : State) (c : Cmd) : s.encSet c =
    { s with regs := (s.encSet c).regs, field := (s.encSet c).field, copies := (s.encSet c).copies, twin := (s.encSet c).twin } ∧
    (c.p 1 % 4 ≠ 1 → (s.encSet c).twin = s.twin) := by
  have hown : (if c.target = 1 then s.own 4 (encOwner (c.p 1 % 4)) 0 else s) =
      { s with regs := (if c.target = 1 then s.own 4 (encOwner (c.p 1 % 4)) 0 else s).regs
               copies := (if c.target = 1 then s.own 4 (encOwner (c.p 1 % 4)) 0 else s).copies } := by
    split
    · exact s.own_only _ _ _
    · rfl
  unfold State.encSet
  dsimp only
  generalize (if c.target = 1 then s.own 4 (encOwner (c.p 1 % 4)) 0 else s) = o at hown
  have hdrop : (if c.p 1 % 4 = 1 then o.dropOffset c.target else o) =
      { o with regs := (if c.p 1 % 4 = 1 then o.dropOffset c.target else o).regs
               twin := (if c.p 1 % 4 = 1 then o.dropOffset c.target else o).twin } := by
    split
    · exact o.dropOffset_only _
    · rfl
  have hkeep : c.p 1 % 4 ≠ 1 → (if c.p 1 % 4 = 1 then o.dropOffset c.target else o) = o := fun h => if_neg h
  generalize (if c.p 1 % 4 = 1 then o.dropOffset c.target else o) = u at hdrop hkeep
  have hset := u.setField_only R.FIELD_ENC_CFG (encWord (s.reg R.FIELD_ENC_CFG c.target) c) c.target
  generalize u.setField R.FIELD_ENC_CFG (encWord (s.reg R.FIELD_ENC_CFG c.target) c) c.target = v at hset
  refine ⟨by rw [hset, hdrop, hown], fun h => ?_⟩
  rw [hset, hkeep h, hown]

theorem State.encSet_shows (s : State) (c : Cmd) : (c.p 1 % 4 = 1 → (s.encSet c).on (offsetBit c.target) = false) ∧
    (c.target = 1 → s.splits = [] → (s.encSet c).owner 4 = encOwner (c.p 1 % 4)) ∧
    (s.encSet c).get F.FIELD_ENC_CFG_MODE c.target = c.p 1 % 4 ∧ (s.encSet c).get F.FIELD_ENC_CFG_INVERT c.target = c.p 1 / 4 % 2 := by
  obtain ⟨hmode, hinv⟩ := encWord_fields (s.reg R.FIELD_ENC_CFG c.target) c
  have hbit : ∀ t : State, (t.setField R.FIELD_ENC_CFG (encWord (s.reg R.FIELD_ENC_CFG c.target) c) c.target).get (offsetBit c.target) =
      t.get (offsetBit c.target) := by
    intro t
    unfold offsetBit
    split
    · exact State.get_setField (g := F.TWIN_STAT_OFFSET_VALID0) t _ _ (k := 0) (by decide) (by decide) (by decide)
    · exact State.get_setField (g := F.TWIN_STAT_OFFSET_VALID1) t _ _ (k := 0) (by decide) (by decide) (by decide)
  unfold State.encSet
  dsimp only
  refine ⟨fun h => ?_, fun h hs => ?_, ?_, ?_⟩
  · rw [State.on, hbit, if_pos h]
    exact State.dropOffset_off _ _
  · rw [if_pos h]
    have hown : (s.own 4 (encOwner (c.p 1 % 4)) 0).owner 4 = encOwner (c.p 1 % 4) := by
      rw [State.owner_own hs]
      unfold encOwner
      split
      · rfl
      · split <;> rfl
    have hs' : (s.own 4 (encOwner (c.p 1 % 4)) 0).splits = [] := by rw [State.own_splits]; exact hs
    generalize s.own 4 (encOwner (c.p 1 % 4)) 0 = o at hown hs'
    rw [State.owner_setField (by split <;> exact hs') _ _ _ (by decide) (by decide), ← hown]
    split
    · exact State.dropOffset_owner hs' _ 4 (by decide)
    · rfl
  · rw [State.get_setField_same _ (fieldOwn_enc _) _ rfl (by decide)]
    exact hmode
  · rw [State.get_setField_same _ (fieldOwn_enc _) _ rfl (by decide)]
    exact hinv

theorem bitsOf_low (x : Nat) : bitsOf x 0 2 = x % 4 ∧ bitsOf x 2 1 = x / 4 % 2 := by unfold bitsOf; omega

theorem execCmdEncConfig_eq (src : Source) (s : State) : exec (.cmdEncConfig src) s = runCmd s src 0x0705 fun s c =>
    if !encOk c then refuse s .badParam
    else if c.target = 1 ∧ c.p 1 % 4 ≠ 2 ∧ s.heldByOther 4 (encOwner (c.p 1 % 4)) 0 = true then refuse s .resourceHeld
    else if (s.get F.FIELD_ENC_CFG_MODE c.target != c.p 1 % 4 || s.get F.FIELD_ENC_CFG_INVERT c.target != c.p 1 / 4 % 2) &&
        s.encInUse c.target then refuse s .busy
    else doneWith (s.encSet c) := by
  show execCmdEncConfig src s = _
  unfold execCmdEncConfig
  congr 1
  funext s c
  obtain ⟨h1, h2⟩ := bitsOf_low (c.p 1)
  simp only [h1, h2]
  rfl

/-! ### The commands, case by case -/

/-- Settles O35: inputs, outputs and encoders by what their registers then show, the rest branch by branch. -/
theorem fieldCommands : Obligations.FieldCommands := by
  unfold Obligations.FieldCommands
  refine ⟨?outbox, ?fi, ?fiFree, ?fiHeld, ?fiParam, ?fo, ?foHeld, ?foParam, ?release, ?releaseArmed, ?releaseOther, ?foSet, ?enc,
    ?encParam, ?lead, ?stop, ?safe, ?safeStop, ?safeLocked, ?write, ?noWrite⟩
  case outbox => exact fun s r v i => s.setField_outbox r v i
  case fi =>
    intro s src c hs h16 h1 h2 hown
    have hok : ¬ _ := fiParam_iff.not.mpr (show ¬ ((2 ≤ c.p 1 ∧ c.p 1 ≠ 0x100 ∧ c.p 1 ≠ 0x101) ∨ 2 ^ 16 ≤ c.p 2 ∨
      (2 ≤ c.p 1 ∧ 4 ≤ c.target)) by omega)
    have hends : Ends (.cmdFiConfig src) s ((s.dropOldest src).fiSet c) src c .done := by
      refine ends_runCmd hs (execCmdFiConfig_eq src s) ((if_neg hok).trans ((if_neg fun h => hown h.1 h.2).trans (if_neg ?_)))
      unfold bitsOf; omega
    obtain ⟨h3, h4, h5⟩ := (s.dropOldest src).fiSet_shows h1 h2
    have honly := (s.dropOldest src).fiSet_only c
    generalize (s.dropOldest src).fiSet c = t at hends h3 h4 h5 honly
    exact ⟨t, hends, honly, h3, h4, h5⟩
  case fiFree =>
    intro s src c hs h4 h1 h2 hown
    have hok : ¬ _ := fiParam_iff.not.mpr (show ¬ ((2 ≤ c.p 1 ∧ c.p 1 ≠ 0x100 ∧ c.p 1 ≠ 0x101) ∨ 2 ^ 16 ≤ c.p 2 ∨
      (2 ≤ c.p 1 ∧ 4 ≤ c.target)) by omega)
    have hact : bitsOf (c.p 1) 8 2 = 1 := by unfold bitsOf; omega
    have hends : Ends (.cmdFiConfig src) s ((s.dropOldest src).own c.target ownNone 0) src c .done :=
      ends_runCmd hs (execCmdFiConfig_eq src s) ((if_neg hok).trans ((if_neg fun h => hown h.2).trans (if_pos hact)))
    exact ⟨_, hends, State.own_only _ _ _ _, fun hsp => (State.owner_own (s := s.dropOldest src) hsp c.target ownNone 0).trans (by decide)⟩
  case fiHeld =>
    intro s src c hs h4 h1 h2 hown
    have hok : ¬ _ := fiParam_iff.not.mpr (show ¬ ((2 ≤ c.p 1 ∧ c.p 1 ≠ 0x100 ∧ c.p 1 ≠ 0x101) ∨ 2 ^ 16 ≤ c.p 2 ∨
      (2 ≤ c.p 1 ∧ 4 ≤ c.target)) by omega)
    exact ends_runCmd hs (execCmdFiConfig_eq src s) ((if_neg hok).trans (if_pos ⟨h4, hown⟩))
  case fiParam =>
    intro s src c hs h
    exact ends_runCmd hs (execCmdFiConfig_eq src s) (if_pos (fiParam_iff.mpr h))
  case fo =>
    intro s src c hs h8 h1 h2 hheld
    have hends : Ends (.cmdFoAssign src) s ((s.dropOldest src).foAssigned c.target (c.p 1)) src c .done := by
      refine ends_runCmd hs (execCmdFoAssign_eq src s) ((if_neg ?_).trans (if_neg ?_))
      · rintro (⟨h7, h8⟩ | h)
        · exact h1.elim h7 h8
        · exact h h2
      · rw [State.heldByOther_dropOldest, hheld]; decide
    obtain ⟨h3, h4, h5⟩ := (s.dropOldest src).foAssigned_shows h8 h1
    have honly := (s.dropOldest src).foAssigned_only c.target (c.p 1)
    generalize (s.dropOldest src).foAssigned c.target (c.p 1) = t at hends h3 h4 h5 honly
    exact ⟨t, hends, honly, h3, h4, h5⟩
  case foHeld =>
    intro s src c hs h1 h2 hheld
    refine ends_runCmd hs (execCmdFoAssign_eq src s) ((if_neg ?_).trans (if_pos hheld))
    rintro (⟨h7, h8⟩ | h)
    · exact h1.elim h7 h8
    · exact h h2
  case foParam => exact fun s src c hs h => ends_runCmd hs (execCmdFoAssign_eq src s) (if_pos h)
  case release =>
    intro s src c hs h8 hown
    have hi : exec (.cmdFoRelease src) s = _ := show execCmdFoRelease src s = _ from rfl
    have hends : Ends (.cmdFoRelease src) s ((s.dropOldest src).releaseOutput c.target) src c .done := by
      refine ends_runCmd hs hi ((if_neg ?_).trans ((if_neg ?_).trans ((if_neg ?_).trans (if_neg ?_))))
      · intro h
        have h' : s.owner (5 + c.target) = ownLineTrigger := h
        rw [h'] at hown
        rcases hown with hown | ⟨hown, -⟩ | ⟨hown, -⟩ <;> exact absurd hown (by decide)
      · rintro ⟨h, ha⟩
        have h' : s.owner (5 + c.target) = ownEjector := h
        have ha' : s.outputArmed c.target = true := ha
        rw [h', ha'] at hown
        rcases hown with hown | ⟨-, hown⟩ | ⟨hown, -⟩ <;> exact absurd hown (by decide)
      · rintro ⟨h, ha⟩
        have h' : s.owner (5 + c.target) = ownStop := h
        have ha' : s.on F.FIELD_STOP_REQ = true := ha
        rw [h', ha'] at hown
        rcases hown with hown | ⟨hown, -⟩ | ⟨-, hown⟩ <;> exact absurd hown (by decide)
      · intro h
        have h' : s.owner (5 + c.target) = ownNone := h
        rw [h'] at hown
        rcases hown with hown | ⟨hown, -⟩ | ⟨hown, -⟩ <;> exact absurd hown (by decide)
    obtain ⟨h3, h4, h5⟩ := (s.dropOldest src).releaseOutput_shows h8
    have honly := (s.dropOldest src).releaseOutput_only c.target
    generalize (s.dropOldest src).releaseOutput c.target = t at hends h3 h4 h5 honly
    exact ⟨t, hends, honly, h3, h4, h5⟩
  case releaseArmed =>
    intro s src c hs ho ha
    have ho' : (s.dropOldest src).owner (5 + c.target) = ownEjector := ho
    exact ends_runCmd hs (show execCmdFoRelease src s = _ from rfl) ((if_neg (by rw [ho']; decide)).trans (if_pos ⟨ho', ha⟩))
  case releaseOther =>
    intro s src c hs
    have hi : exec (.cmdFoRelease src) s = _ := show execCmdFoRelease src s = _ from rfl
    refine ⟨fun ho hr => ?_, fun ho => ends_runCmd hs hi (if_pos ho), fun ho => ?_⟩
    · have ho' : (s.dropOldest src).owner (5 + c.target) = ownStop := ho
      refine ends_runCmd hs hi ((if_neg (by rw [ho']; decide)).trans ((if_neg ?_).trans (if_pos ⟨ho', hr⟩)))
      rw [ho']
      exact fun h => absurd h.1 (by decide)
    · have ho' : (s.dropOldest src).owner (5 + c.target) = ownNone := ho
      refine ends_runCmd hs hi ((if_neg (by rw [ho']; decide)).trans ((if_neg ?_).trans ((if_neg ?_).trans (if_pos ho'))))
      · rw [ho']; exact fun h => absurd h.1 (by decide)
      · rw [ho']; exact fun h => absurd h.1 (by decide)
  case foSet =>
    intro s src c hs h8
    have hi : exec (.cmdFoSet src) s = _ := show execCmdFoSet src s = _ from rfl
    have hl : (F.FIELD_FO_FUNC_LEVEL c.target).lo = 24 + c.target ∧ (F.FIELD_FO_FUNC_LEVEL c.target).width = 1 := ⟨rfl, rfl⟩
    have hf : (F.FIELD_FO_FUNC_FUNC c.target).lo = 3 * c.target ∧ (F.FIELD_FO_FUNC_FUNC c.target).width = 3 := ⟨rfl, rfl⟩
    refine ⟨fun ho => ends_runCmd hs hi (if_pos ho), fun ho => ⟨_, ends_runCmd hs hi (if_neg (not_not.mpr ho)), State.putField_only _ _ _ _, ?_, ?_⟩⟩
    · rw [State.get_putField _ (f := F.FIELD_FO_FUNC_LEVEL c.target) fieldOwn_fo (by omega), hl.2]
      unfold bitsOf
      omega
    · rw [State.get_putField_beside _ (f := F.FIELD_FO_FUNC_LEVEL c.target) (g := F.FIELD_FO_FUNC_FUNC c.target) fieldOwn_fo rfl (by omega)
        (.inl (by omega))]
      exact State.get_congr rfl _ _ _
  case enc =>
    rintro s src c o hs h2 hok rfl
    have hnok : ¬ (!encOk c) = true := by rw [hok]; decide
    refine ⟨fun h1 hm hheld => ?_, fun hfree huse hdiff => ?_, fun hfree huse => ?_⟩
    · exact ends_runCmd hs (execCmdEncConfig_eq src s) ((if_neg hnok).trans (if_pos ⟨h1, hm, hheld⟩))
    · refine ends_runCmd hs (execCmdEncConfig_eq src s) ((if_neg hnok).trans ((if_neg ?_).trans (if_pos ?_)))
      · rintro ⟨h1, hm, hheld⟩
        exact Bool.false_ne_true ((hfree h1 hm).symm.trans hheld)
      · have huse' : (s.dropOldest src).encInUse c.target = true := huse
        rw [huse', Bool.and_true, Bool.or_eq_true, bne_iff_ne, bne_iff_ne]
        exact hdiff
    · have hends : Ends (.cmdEncConfig src) s ((s.dropOldest src).encSet c) src c .done := by
        refine ends_runCmd hs (execCmdEncConfig_eq src s) ((if_neg hnok).trans ((if_neg ?_).trans (if_neg ?_)))
        · rintro ⟨h1, hm, hheld⟩
          exact Bool.false_ne_true ((hfree h1 hm).symm.trans hheld)
        · rw [Bool.and_eq_true, Bool.or_eq_true, bne_iff_ne, bne_iff_ne]
          rintro ⟨hdiff, hu⟩
          rcases huse with huse | ⟨hm, hi⟩
          · exact Bool.false_ne_true (huse.symm.trans hu)
          · exact hdiff.elim (fun h => h hm) (fun h => h hi)
      obtain ⟨honly, htwin⟩ := (s.dropOldest src).encSet_only c
      obtain ⟨h3, h4, h5, h6⟩ := (s.dropOldest src).encSet_shows c
      generalize (s.dropOldest src).encSet c = t at hends honly htwin h3 h4 h5 h6
      exact ⟨t, hends, honly, htwin, h3, h4, h5, h6⟩
  case encParam => exact fun s src c hs h => ends_runCmd hs (execCmdEncConfig_eq src s) (if_pos (by rw [h]; rfl))
  case lead =>
    intro s src c hs
    have hi : exec (.cmdEjectLeadSet src) s = _ := show execCmdEjectLeadSet src s = _ from rfl
    exact ⟨fun h1 h2 => ends_runCmd hs hi (if_neg (by omega)), fun h => ends_runCmd hs hi (if_pos h)⟩
  case stop =>
    intro s src c hs
    refine ⟨_, ends_runCmd hs (show execCmdStopClear src s = _ from rfl) rfl, rfl, (List.append_assoc _ _ _).symm, ?_⟩
    rw [State.showPending, State.on_putBit _ F.FIELD_STOP_CLEAR_PENDING _ 0 0 rfl (by decide)]
    exact List.contains_iff_mem.mpr (List.mem_append_right _ (List.mem_append_right _ List.mem_cons_self))
  case safe =>
    intro s src c hs hlock hfree
    have hno : ((s.dropOldest src).locked R.FIELD_SAFE_VALUES.base || (List.range 8).any fun i =>
        bitAt (bitsOf (c.p 1) 0 8) i && (s.dropOldest src).owner (5 + i) == ownStop) = false := by
      have hl : (s.dropOldest src).locked R.FIELD_SAFE_VALUES.base = false := hlock
      rw [hl, Bool.false_or, List.any_eq_false]
      intro i hi
      have hi8 := List.mem_range.mp hi
      rw [bitAt_low _ hi8, Bool.and_eq_true, beq_iff_eq]
      exact fun h => hfree i hi8 h.1 h.2
    refine ⟨_, ends_runCmd hs (show execCmdSafeValuesSet src s = _ from rfl) (if_neg (by rw [hno]; decide)), State.setField_only _ _ _ _, ?_⟩
    rw [State.reg_setField_same _ fieldOwn_safe]
    unfold bitsOf
    omega
  case safeStop =>
    intro s src c i hs hi hbit ho
    refine ends_runCmd hs (show execCmdSafeValuesSet src s = _ from rfl) (if_pos ?_)
    rw [Bool.or_eq_true, List.any_eq_true]
    refine .inr ⟨i, List.mem_range.mpr hi, ?_⟩
    rw [bitAt_low _ hi, Bool.and_eq_true, beq_iff_eq]
    exact ⟨hbit, ho⟩
  case safeLocked =>
    intro s src c hs hlock
    have hl : (s.dropOldest src).locked R.FIELD_SAFE_VALUES.base = true := hlock
    exact ends_runCmd hs (show execCmdSafeValuesSet src s = _ from rfl) (if_pos (by rw [hl, Bool.true_or]))
  case write =>
    intro s a v r i j hl h1 h2 hf
    have hgo : Goes (.fieldRegisterWrite a v) s (s.writeField r v.toNat i) := by
      refine goes_onDevice hl (show execFieldRegisterWrite a v s = _ from rfl) ((if_pos ⟨h1, h2⟩).trans ?_)
      simp only [hf]
    refine ⟨fun hb => ?_, fun hb hr => ?_, fun hb hr => ?_⟩ <;> unfold State.writeField at hgo
    · rwa [if_pos hb] at hgo
    · rwa [if_neg hb, if_pos hr] at hgo
    · rwa [if_neg hb, if_neg hr] at hgo
  case noWrite =>
    intro s a v hl h
    refine goes_onDevice hl (show execFieldRegisterWrite a v s = _ from rfl) ?_
    split
    · rename_i hin
      have hf : findReg regTable a = none := by
        rcases h with h | h | h
        · omega
        · omega
        · exact h
      rw [hf]
    · rfl

end Sys2Proof.Machine
end

section
/-! Deleting a partition: what the statement leaves out is a fence that is due already. -/
namespace Sys2Proof.Machine
open Sys2Proof.Claims

/-- CMD_PARTITION_DELETE of partition 0, whose reply the host does not ask for. -/
def deleteCmd : Cmd := { opcode := 0x0405, quiet := true }

/-- A state in which partition 0 has no loom and no job, the deletion waits, and a fence of loom 7 is due. -/
def fenceDueState : State := { ({} : State) with
  host := { waiting := [(.h2d, deleteCmd)] }, sched := { parts := [(0, {})] }, fenceDue := [(7, 1)] }

theorem fenceDueState_starts : Starts fenceDueState .h2d 0x0405 deleteCmd := by
  refine ⟨?_, ?_, rfl, ?_, .inl rfl⟩
  · rfl
  · rfl
  · decide +kernel

/-- The fences that are due in the state an outcome gives. -/
def dueAfter : Host.Outcome State Fault Refusal → List (Nat × Nat)
  | .next t => t.fenceDue
  | _ => [(7, 1)]

theorem dueAfter_delete : dueAfter (exec (.cmdPartitionDelete .h2d) fenceDueState) = [] := by decide +kernel

/-- Refutes O39: a deletion settles the fences that are due, so that it changes more than registers and partitions where one is. -/
theorem not_partitions : ¬ Obligations.Partitions := by
  unfold Obligations.Partitions
  rintro ⟨-, hdel, -⟩
  obtain ⟨-, -, -, hdel⟩ := hdel fenceDueState .h2d deleteCmd fenceDueState_starts (by decide)
  obtain ⟨t, hends, ht, -⟩ := hdel (by decide +kernel) (by decide +kernel) (by decide +kernel) (by decide +kernel) (by decide +kernel)
  have hreply : t.reply .h2d deleteCmd .done = t := replyFrame.2.2 t .h2d deleteCmd .done [] rfl (.inl rfl)
  rw [Ends, hreply, Goes] at hends
  have hnone : t.fenceDue = [] := by
    have h := dueAfter_delete
    rwa [hends] at h
  have hdue : t.fenceDue = [(7, 1)] := by rw [ht]; rfl
  rw [hdue] at hnone
  exact absurd hnone (by decide)

end Sys2Proof.Machine
end

section
/-! The job commands (R278 to R285, R291). -/
namespace Sys2Proof.Machine
open Sys2Proof.Claims

/-! ### A job that has ended -/

section
variable {p : Nat} (hp : p < 8)
include hp

/-- The registers that show a partition's stage, its mill's queue and the slots in use lie apart from its job's. -/
theorem State.jobShown_get (s : State) {g : Fld} (hg : g.reg = R.SCHED_JOB) :
    (((s.showStage p).showReady p).showInUse).get g p = s.get g p := by
  have hcount : p < g.reg.count := by rw [hg]; exact hp
  have hbelow : ∀ (t : State) (f : Fld) (v i : Nat), R.SCHED_JOB.top ≤ f.reg.base → (t.put f v i).get g p = t.get g p :=
    fun t f v i h => State.get_put_below (f := f) (g := g) t v i p (by rw [hg]; exact h) hcount
  have hstage : (s.showStage p).get g p = s.get g p := hbelow _ F.SCHED_STAGE_USED_USED _ _ (by decide)
  have hready : ∀ t : State, (t.showReady p).get g p = t.get g p := fun t =>
    (hbelow _ F.MILL_STRIPE_Q_PEAK _ _ (by decide)).trans (hbelow _ F.MILL_STRIPE_Q_READY _ _ (by decide))
  have huse : ∀ t : State, t.showInUse.get g p = t.get g p := fun t =>
    timesFrom_keeps_below (P := fun u : State => u.get g p = t.get g p) (fun u k hk hu => by
      split
      · rw [State.putBit, State.get_put_above (f := F.SCHED_SLOT_IN_USE) (g := g) u _ k p (by rw [hg]; decide) hk]
        exact hu
      · exact hu) rfl
  rw [huse, hready, hstage]

/-- The job registers of a partition that has none: IDLE, with the job's last status (R278, R291). -/
theorem State.jobTail_shows (s : State) (last : Status) :
    let t := ((((s.clearJobRegs p).put F.SCHED_JOB_LAST last.code p).showStage p).showReady p).showInUse
    t.get F.SCHED_JOB_STATE p = 0 ∧ t.get F.SCHED_JOB_LAST p = last.code := by
  dsimp only
  rw [State.jobShown_get hp _ (g := F.SCHED_JOB_STATE) rfl, State.jobShown_get hp _ (g := F.SCHED_JOB_LAST) rfl,
    State.get_put _ F.SCHED_JOB_LAST _ _ _ (by decide),
    State.get_put_beside (f := F.SCHED_JOB_LAST) (g := F.SCHED_JOB_STATE) (hreg := rfl) (hw := by decide) (h := by decide)]
  refine ⟨?_, by cases last <;> rfl⟩
  unfold State.clearJobRegs
  dsimp only
  rw [State.putBit,
    State.get_put_beside (f := F.SCHED_JOB_IMMEDIATE) (g := F.SCHED_JOB_STATE) (hreg := rfl) (hw := by decide) (h := by decide),
    State.putBit, State.get_put_beside (f := F.SCHED_JOB_LEARN) (g := F.SCHED_JOB_STATE) (hreg := rfl) (hw := by decide) (h := by decide),
    State.get_put _ F.SCHED_JOB_STATE _ _ _ (by decide)]
  rfl

end

/-- Showing changes registers alone, so that the partitions stay. -/
theorem State.jobTail_sched (s : State) (p : Nat) (last : Status) :
    (((((s.clearJobRegs p).put F.SCHED_JOB_LAST last.code p).showStage p).showReady p).showInUse).sched = s.sched := by
  have huse : ∀ t : State, t.showInUse.sched = t.sched := fun t =>
    timesFrom_keeps (P := fun u : State => u.sched = t.sched) (fun u k hu => by
      split <;> exact hu) rfl 64 0
  have hready : ∀ t : State, (t.showReady p).sched = t.sched := fun t => rfl
  have hstage : ∀ t : State, (t.showStage p).sched = t.sched := fun t => rfl
  have hput : ∀ (t : State) (f : Fld) (v i : Nat), (t.put f v i).sched = t.sched := fun t f v i => rfl
  have hreg : ∀ (t : State) (r : Reg) (v i : Nat), (t.setReg r v i).sched = t.sched := fun t r v i => rfl
  rw [huse, hready, hstage, hput]
  unfold State.clearJobRegs
  simp only [State.putBit, hput, hreg]

/-- A partition without a job. -/
def Partition.jobless (x : Partition) : Partition :=
  { x with step := none, ready := [], issued := [], waitSeen := [], stage := [], learning := false, model := 0
           switch := false, overdue := none, redo := false, paused := [], rowTok := []
           headOut := [], drained := [], saved := [], savedMem := {} }

/-- A partition whose job has ended has no work left (R291). -/
theorem State.jobIdle_shows (s : State) {p : Nat} (hp : p < 8) (last samples : Status) :
    let t := s.jobIdle p last samples
    t.get F.SCHED_JOB_STATE p = 0 ∧ t.get F.SCHED_JOB_LAST p = last.code ∧ (t.part p).step = none ∧ (t.part p).ready = [] ∧
    (t.part p).issued = [] ∧ (t.part p).stage = [] ∧ (t.part p).model = 0 := by
  have hfold : ∀ (u : State) (l : List (Nat × Loom)), (foldState (fun (t : State) (k : Nat × Loom) => t.showLoom k.1) u l).sched = u.sched :=
    fun u l => by
      refine foldState_keeps (P := fun t : State => t.sched = u.sched) (fun t k ht => ?_) rfl l
      exact ht
  have hidle : ∃ d : State, s.jobIdle p last samples = (((((foldState (fun (t : State) (k : Nat × Loom) => t.showLoom k.1)
      (d.setPart p (d.part p).jobless) (d.part p).saved).clearJobRegs p).put F.SCHED_JOB_LAST last.code p).showStage p).showReady p).showInUse :=
    ⟨_, rfl⟩
  obtain ⟨d, hidle⟩ := hidle
  have hpart := hfold (d.setPart p (d.part p).jobless) (d.part p).saved
  have hset := d.part_setPart p (d.part p).jobless
  dsimp only
  rw [hidle]
  generalize foldState (fun (t : State) (k : Nat × Loom) => t.showLoom k.1) _ (d.part p).saved = f at hpart
  obtain ⟨hstate, hlast⟩ := State.jobTail_shows hp f last
  have hsched := f.jobTail_sched p last
  generalize ((((f.clearJobRegs p).put F.SCHED_JOB_LAST last.code p).showStage p).showReady p).showInUse = t at hstate hlast hsched
  have ht : t.part p = (d.part p).jobless := by
    show tgetD t.sched.parts p {} = _
    rw [hsched, hpart]
    exact hset
  rw [ht]
  exact ⟨hstate, hlast, rfl, rfl, rfl, rfl, rfl⟩

theorem State.startingShown_get (s : State) (p : Nat) (learn : Bool) :
    ((s.put F.SCHED_JOB_STATE 1 p).putBit F.SCHED_JOB_LEARN learn p).get F.SCHED_JOB_STATE p = 1 := by
  rw [State.putBit,
    State.get_put_beside (f := F.SCHED_JOB_LEARN) (g := F.SCHED_JOB_STATE) (hreg := rfl) (hw := by decide) (h := by decide),
    State.get_put _ F.SCHED_JOB_STATE _ _ _ (by decide)]
  decide

/-! ### CMD_ARITH_PROFILE_SET -/

/-- The profile as CMD_ARITH_PROFILE_SET leaves it (R291). -/
def State.profileSet (s : State) (c : Cmd) : State :=
  if bitAt (c.p 1) 8 then ((s.put F.DET_ARITH_PROFILE_PROFILE (c.p 1 % 256)).stored 1).putBit F.DET_ARITH_PROFILE_LOCK true
  else (s.put F.DET_ARITH_PROFILE_PROFILE (c.p 1 % 256)).stored 1

theorem State.profileSet_shows (s : State) (c : Cmd) (hlock : s.on F.DET_ARITH_PROFILE_LOCK = false) :
    s.profileSet c = { s with regs := (s.profileSet c).regs, copies := (s.profileSet c).copies } ∧
    SameRegs s (s.profileSet c) [R.DET_ARITH_PROFILE.addr 0 0] ∧ (s.profileSet c).get F.DET_ARITH_PROFILE_PROFILE = c.p 1 % 256 ∧
    (s.profileSet c).on F.DET_ARITH_PROFILE_LOCK = bitAt (c.p 1) 8 := by
  have hstored : ((s.put F.DET_ARITH_PROFILE_PROFILE (c.p 1 % 256)).stored 1).regs = (s.put F.DET_ARITH_PROFILE_PROFILE (c.p 1 % 256)).regs := rfl
  have hsame : SameRegs s ((s.put F.DET_ARITH_PROFILE_PROFILE (c.p 1 % 256)).stored 1) [R.DET_ARITH_PROFILE.addr 0 0] :=
    sameRegs_put s F.DET_ARITH_PROFILE_PROFILE _
  have hget : ((s.put F.DET_ARITH_PROFILE_PROFILE (c.p 1 % 256)).stored 1).get F.DET_ARITH_PROFILE_PROFILE = c.p 1 % 256 := by
    rw [State.get_congr hstored, State.get_put _ F.DET_ARITH_PROFILE_PROFILE _ _ _ (by decide)]
    exact Nat.mod_eq_of_lt (by show c.p 1 % 256 < 2 ^ 8; omega)
  have honly : (s.put F.DET_ARITH_PROFILE_PROFILE (c.p 1 % 256)).stored 1 =
      { s with regs := ((s.put F.DET_ARITH_PROFILE_PROFILE (c.p 1 % 256)).stored 1).regs
               copies := ((s.put F.DET_ARITH_PROFILE_PROFILE (c.p 1 % 256)).stored 1).copies } := rfl
  have hoff : ((s.put F.DET_ARITH_PROFILE_PROFILE (c.p 1 % 256)).stored 1).on F.DET_ARITH_PROFILE_LOCK = false := by
    rw [State.on_congr hstored, State.on,
      State.get_put_beside (f := F.DET_ARITH_PROFILE_PROFILE) (g := F.DET_ARITH_PROFILE_LOCK) (hreg := rfl) (hw := by decide) (h := by decide)]
    exact hlock
  unfold State.profileSet
  generalize (s.put F.DET_ARITH_PROFILE_PROFILE (c.p 1 % 256)).stored 1 = t at hsame hget honly hoff
  cases hb : bitAt (c.p 1) 8 with
  | false =>
    rw [if_neg (by decide)]
    exact ⟨honly, hsame, hget, hoff⟩
  | true =>
    rw [if_pos rfl]
    refine ⟨?_, fun a ha => ?_, ?_, State.on_putBit t F.DET_ARITH_PROFILE_LOCK true 0 0 rfl (by decide)⟩
    · have hput : t.putBit F.DET_ARITH_PROFILE_LOCK true = { t with regs := (t.putBit F.DET_ARITH_PROFILE_LOCK true).regs } := rfl
      generalize t.putBit F.DET_ARITH_PROFILE_LOCK true = u at hput
      rw [hput, honly]
    · exact (sameRegs_put t F.DET_ARITH_PROFILE_LOCK _ a ha).trans (hsame a ha)
    · rw [State.putBit,
        State.get_put_beside (f := F.DET_ARITH_PROFILE_LOCK) (g := F.DET_ARITH_PROFILE_PROFILE) (hreg := rfl) (hw := by decide) (h := by decide)]
      exact hget

/-! ### The commands, case by case -/

theorem execCmdArithProfileSet_eq (src : Source) (s : State) : exec (.cmdArithProfileSet src) s = runCmd s src 0x040C fun s c =>
    if c.p 1 % 256 = 0 ∨ 3 < c.p 1 % 256 ∨ 512 ≤ c.p 1 then refuse s .badParam
    else if s.on F.DET_ARITH_PROFILE_LOCK then refuse s .badState
    else if (List.range 8).any fun p => s.get F.SCHED_JOB_STATE p != 0 then refuse s .badState
    else doneWith (s.profileSet c) := rfl

/-- Settles O40: the end of a job by what its partition then shows, the rest branch by branch. -/
theorem jobCommands : Obligations.JobCommands := by
  unfold Obligations.JobCommands
  refine ⟨?start, ?starting, ?stop, ?cancel, ?idle, ?preempt, ?boundary, ?immediate, ?noPreempt, ?resume, ?resumed, ?noResume, ?profile⟩
  case start =>
    intro s src c hs
    have hi : exec (.cmdJobStart src) s = _ := show execCmdJobStart src s = _ from rfl
    have hpart : s.hasPart c.target = true → s.get F.SCHED_JOB_STATE c.target = 0 →
        ¬ (!(s.dropOldest src).hasPart c.target || (s.dropOldest src).get F.SCHED_JOB_STATE c.target != 0) = true := by
      intro h1 h2
      have h1' : (s.dropOldest src).hasPart c.target = true := h1
      have h2' : (s.dropOldest src).get F.SCHED_JOB_STATE c.target = 0 := h2
      rw [h1', h2']
      decide
    refine ⟨fun h => ?_, fun h1 h2 hm => ?_, fun m h1 h2 hm hfew => ?_, fun m t h1 h2 hm hmany ht => ⟨fun hfit => ?_, fun hfit hb => ?_,
      fun u hfit hb => ⟨fun hl => ?_, fun hl => ?_⟩⟩⟩
    · refine ends_runCmd hs hi (if_pos ?_)
      rw [Bool.or_eq_true, Bool.not_eq_true', bne_iff_ne]
      exact h
    · have hm' : (s.dropOldest src).model? (c.p 1) = none := hm
      refine ends_runCmd hs hi ((if_neg (hpart h1 h2)).trans ?_)
      simp only [hm']
      rfl
    · have hm' : (s.dropOldest src).model? (c.p 1) = some m := hm
      refine ends_runCmd hs hi ((if_neg (hpart h1 h2)).trans ?_)
      simp only [hm']
      exact if_pos hfew
    all_goals
      have hm' : (s.dropOldest src).model? (c.p 1) = some m := hm
      have hmany' : ¬ ((s.dropOldest src).activeLooms c.target).length < m.floor := by
        show ¬ (s.activeLooms c.target).length < m.floor
        omega
      subst ht
    · refine ends_runCmd hs hi ((if_neg (hpart h1 h2)).trans ?_)
      simp only [hm', if_neg hmany', hfit]
      rfl
    · refine ends_runCmd hs hi ((if_neg (hpart h1 h2)).trans ?_)
      simp only [hm', if_neg hmany', hfit, hb]
      rfl
    · refine begins_runCmd hs hi ((if_neg (hpart h1 h2)).trans ?_)
      rw [hl] at hfit hb
      simp only [hm', if_neg hmany', hl, hfit, hb, Bool.not_true, Bool.false_eq_true, if_false]
    · refine begins_runCmd hs hi ((if_neg (hpart h1 h2)).trans ?_)
      rw [hl] at hfit hb
      simp only [hm', if_neg hmany', hl, hfit, hb, Bool.not_true, Bool.false_eq_true, if_false, if_true]
  case starting =>
    intro s p id learn
    refine ⟨?_, ?_, ?_⟩
    · exact State.startingShown_get _ p.val learn
    · exact congrArg Partition.model (s.part_setPart p.val { s.part p.val with model := id, learning := learn })
    · exact congrArg Partition.learning (s.part_setPart p.val { s.part p.val with model := id, learning := learn })
  case stop =>
    rintro s t src c hs
    have hi : exec (.cmdJobStop src) s = _ := show execCmdJobStop src s = _ from rfl
    refine ⟨fun h => ends_runCmd hs hi (if_pos h), fun h ht => ?_⟩
    have h' : ¬ (s.dropOldest src).get F.SCHED_JOB_STATE c.target ≠ 2 := not_not.mpr h
    subst ht
    exact ⟨fun ha => begins_runCmd hs hi ((if_neg h').trans (if_neg (Bool.eq_false_iff.mp ha))),
      fun ha => ends_runCmd hs hi ((if_neg h').trans (if_pos ha))⟩
  case cancel =>
    intro s src c hs
    have hi : exec (.cmdJobCancel src) s = _ := show execCmdJobCancel src s = _ from rfl
    exact ⟨fun h => ends_runCmd hs hi (if_pos h), fun h => ends_runCmd hs hi (if_neg h)⟩
  case idle => exact fun s p last samples => ⟨_, rfl, s.jobIdle_shows p.isLt last samples⟩
  case preempt =>
    intro s src c hs
    have hi : exec (.cmdJobPreempt src) s = _ := show execCmdJobPreempt src s = _ from rfl
    refine ⟨fun h1 h2 => ?_, fun h1 h2 => ?_, fun h1 h2 hok => ?_, fun h1 h2 hok => ?_, fun h1 h3 him hok => ?_, fun h2 h => ?_⟩
    · exact ends_runCmd hs hi ((if_pos h2).trans (if_pos h1))
    · refine begins_runCmd hs hi ((if_pos h2).trans ((if_neg (by omega)).trans ?_))
      simp [h1]
    · have hok' : (s.dropOldest src).saveOk c.target = true := hok
      refine begins_runCmd hs hi ((if_pos h2).trans ((if_neg (by omega)).trans ?_))
      simp [h1, hok']
    · have hok' : (s.dropOldest src).saveOk c.target = false := hok
      refine ends_runCmd hs hi ((if_pos h2).trans ((if_neg (by omega)).trans ?_))
      simp [h1, hok']
    · have hok' : (s.dropOldest src).saveOk c.target = true := hok
      have h3' : (s.dropOldest src).get F.SCHED_JOB_STATE c.target = 3 := h3
      refine begins_runCmd hs hi ((if_neg (by rw [h3']; decide)).trans ((if_pos ⟨h3, by rw [h1]; rfl, him⟩).trans ?_))
      simp [hok']
    · refine ends_runCmd hs hi ((if_neg h2).trans ?_)
      split
      · rename_i hcond
        obtain ⟨h3, h1, him⟩ := hcond
        rcases h with h | h | h | h
        · exact absurd h3 h
        · exact absurd (beq_iff_eq.mp h1) h
        · exact absurd (h.symm.trans him) (by decide)
        · have hok' : (s.dropOldest src).saveOk c.target = false := h
          rw [hok']
          rfl
      · rfl
  case boundary =>
    intro s p hl hst hpa him
    refine goes_onCore hl (show execPreemptComplete p s = _ from rfl) ((if_pos ⟨hst, hpa⟩).trans ?_)
    rw [him]
    rfl
  case immediate =>
    intro s p hl hst hpa him
    refine goes_onCore hl (show execPreemptComplete p s = _ from rfl) ((if_pos ⟨hst, hpa⟩).trans ?_)
    rw [him]
    rfl
  case noPreempt =>
    intro s p hl h
    refine goes_onCore hl (show execPreemptComplete p s = _ from rfl) (if_neg ?_)
    rintro ⟨h1, h2⟩
    rcases h with h | h
    · exact h h1
    · exact Bool.false_ne_true (h.symm.trans h2)
  case resume =>
    intro s src c hs
    have hi : exec (.cmdJobResume src) s = _ := show execCmdJobResume src s = _ from rfl
    refine ⟨fun h => ends_runCmd hs hi (if_pos ?_), fun h4 hl => lasts_runCmd hs hi (if_neg ?_)⟩
    · rw [List.any_eq_true]
      exact h
    · rw [List.any_eq_true]
      rintro (h | ⟨n, hn, hlent⟩)
      · exact h h4
      · exact Bool.false_ne_true ((hl n hn).symm.trans hlent)
  case resumed =>
    rintro s t u p hl h5 rfl
    have hi : exec (.resumeComplete p) s = _ := show execResumeComplete p s = _ from rfl
    refine ⟨?_, ?_⟩
    · rintro hne rfl
      refine goes_onCore hl hi ((if_neg (not_not.mpr h5)).trans ?_)
      simp only [if_pos hne, if_neg (Ne.symm hne)]
      rfl
    · rintro heq rfl
      refine goes_onCore hl hi ((if_neg (not_not.mpr h5)).trans ?_)
      simp only [heq, ne_eq, not_true_eq_false, if_false, if_true]
  case noResume => exact fun s p hl h => goes_onCore hl (show execResumeComplete p s = _ from rfl) (if_pos h)
  case profile =>
    intro s src c hs
    have hi := execCmdArithProfileSet_eq src s
    have hok : 1 ≤ c.p 1 % 256 → c.p 1 % 256 ≤ 3 → c.p 1 < 512 → ¬ (c.p 1 % 256 = 0 ∨ 3 < c.p 1 % 256 ∨ 512 ≤ c.p 1) := by omega
    refine ⟨fun h => ends_runCmd hs hi (if_pos h), fun h1 h2 h3 hlock => ends_runCmd hs hi ((if_neg (hok h1 h2 h3)).trans (if_pos hlock)),
      fun h1 h2 h3 hlock hjob => ends_runCmd hs hi ((if_neg (hok h1 h2 h3)).trans ((if_neg (Bool.eq_false_iff.mp hlock)).trans (if_pos ?_))),
      fun h1 h2 h3 hlock hjob => ?_⟩
    · obtain ⟨p, hp, hj⟩ := hjob
      exact List.any_eq_true.mpr ⟨p, List.mem_range.mpr hp, bne_iff_ne.mpr hj⟩
    · have hany : ¬ ((List.range 8).any fun p => (s.dropOldest src).get F.SCHED_JOB_STATE p != 0) = true := by
        rw [List.any_eq_true]
        rintro ⟨p, hp, hj⟩
        exact bne_iff_ne.mp hj (hjob p (List.mem_range.mp hp))
      obtain ⟨honly, hsame, hget, hon⟩ := (s.dropOldest src).profileSet_shows c hlock
      exact ⟨_, ends_runCmd hs hi ((if_neg (hok h1 h2 h3)).trans ((if_neg (Bool.eq_false_iff.mp hlock)).trans (if_neg hany))), honly,
        hsame, hget, hon⟩

end Sys2Proof.Machine
end

section
/-! Models, their registry and the model cache (R257, R272 to R277). -/
namespace Sys2Proof.Machine
open Sys2Proof.Claims

/-! ### What a frame for the partner changes -/

section
variable (s : State)

theorem State.startFrame_only (f : RzFrame) : s.startFrame f = { s with regs := (s.startFrame f).regs, link := (s.startFrame f).link } := rfl

theorem State.pumpList_only (l : List RzFrame) (blocked : List Nat) :
    s.pumpList l blocked = { s with regs := (s.pumpList l blocked).regs, link := (s.pumpList l blocked).link } := by
  induction l generalizing s blocked with
  | nil => rfl
  | cons f t ih =>
    unfold State.pumpList
    split
    · have hf := State.startFrame_only { s with link := { s.link with queue := removeFirst (· == f) s.link.queue } } f
      generalize State.startFrame { s with link := { s.link with queue := removeFirst (· == f) s.link.queue } } f = u at hf
      have hu := ih u blocked
      generalize u.pumpList t blocked = v at hu
      rw [hu, hf]
    · exact ih s _

/-- A frame for the partner changes the link and its registers alone. -/
theorem State.linkSend_only (kind vl : Nat) (payload : List Word) (poison : List Nat) :
    s.linkSend kind vl payload poison =
      { s with regs := (s.linkSend kind vl payload poison).regs, link := (s.linkSend kind vl payload poison).link } := by
  have hpump : ∀ t : State, t.pump = { t with regs := t.pump.regs, link := t.pump.link } := by
    intro t
    unfold State.pump
    split
    · exact t.pumpList_only _ _
    · rfl
  unfold State.linkSend
  dsimp only
  have hset : ∀ x : LinkUnit, State.pump { s with link := x } = { s with
      regs := (State.pump { s with link := x }).regs, link := (State.pump { s with link := x }).link } := fun x => by
    have h := hpump { s with link := x }
    generalize State.pump { s with link := x } = u at h
    rw [h]
  exact hset _

theorem State.mirror_only (code : Nat) (ws : List Word) :
    s.mirror code ws = { s with regs := (s.mirror code ws).regs, link := (s.mirror code ws).link } := by
  unfold State.mirror
  split
  · exact s.linkSend_only _ _ _ _
  · rfl

theorem State.showModels_only : s.showModels = { s with regs := s.showModels.regs } := by
  unfold State.showModels
  refine timesFrom_keeps (P := fun t : State => t = { s with regs := t.regs }) (fun t k ht => ?_) rfl 64 0
  unfold State.showSlot
  split <;> (rw [ht]; rfl)

/-- The end of a command leaves the memories and the models. -/
theorem State.finish_models (e : Source × Cmd) (st : Status) (ws : List Word) :
    (s.finish e st ws).mem = s.mem ∧ (s.finish e st ws).sched = s.sched := by
  have h := replyFrame.1 { s with host := { s.host with running := removeFirst (· == e) s.host.running } } e.1 e.2 st ws
  dsimp only at h
  unfold State.finish
  generalize State.reply { s with host := { s.host with running := removeFirst (· == e) s.host.running } } e.1 e.2 st ws = t at h
  exact ⟨by rw [h], by rw [h]⟩

end

/-! ### The registry -/

/-- A model that is no longer registered. -/
def State.unregistered (s : State) (id : Nat) : State :=
  State.mirrorModel (State.showModels ((match s.host.running.find? fun e : Source × Cmd => e.2.opcode == 0x0403 && e.2.p 1 == id with
    | some e => s.finish e .noModel
    | none => s).mapModels fun l => l.filter fun m => m.id != id)) id 0 0

theorem find?_filter_ne {l : List Model} {id k : Nat} :
    (l.filter fun m => m.id != id).find? (·.id == k) = if k = id then none else l.find? (·.id == k) := by
  induction l with
  | nil => simp
  | cons m l ih =>
    by_cases hm : m.id = id
    · rw [List.filter_cons_of_neg (by simp [hm]), ih, List.find?_cons]
      by_cases hk : k = id
      · rw [if_pos hk, if_pos hk]
      · rw [if_neg hk, if_neg hk, show (m.id == k) = false by rw [hm]; exact beq_eq_false_iff_ne.mpr (Ne.symm hk)]
    · rw [List.filter_cons_of_pos (by simp [hm]), List.find?_cons, List.find?_cons, ih]
      by_cases hk : k = id
      · rw [if_pos hk, show (m.id == k) = false by rw [hk]; exact beq_eq_false_iff_ne.mpr hm, if_pos hk]
      · rw [if_neg hk, if_neg hk]

theorem State.unregistered_models (s : State) (id : Nat) : (s.unregistered id).model? id = none ∧
    (∀ k, k ≠ id → (s.unregistered id).model? k = s.model? k) ∧ (s.unregistered id).mem = s.mem := by
  have hfin : (match s.host.running.find? fun e : Source × Cmd => e.2.opcode == 0x0403 && e.2.p 1 == id with
      | some e => s.finish e .noModel
      | none => s).mem = s.mem ∧ (match s.host.running.find? fun e : Source × Cmd => e.2.opcode == 0x0403 && e.2.p 1 == id with
      | some e => s.finish e .noModel
      | none => s).sched = s.sched := by
    split
    · exact s.finish_models _ _ _
    · exact ⟨rfl, rfl⟩
  unfold State.unregistered
  generalize (match s.host.running.find? fun e : Source × Cmd => e.2.opcode == 0x0403 && e.2.p 1 == id with
      | some e => s.finish e .noModel
      | none => s) = t at hfin
  have hshow := (t.mapModels fun l => l.filter fun m => m.id != id).showModels_only
  have hmap : (t.mapModels fun l => l.filter fun m => m.id != id).sched.models = s.sched.models.filter (fun m => m.id != id) ∧
      (t.mapModels fun l => l.filter fun m => m.id != id).mem = s.mem := by
    refine ⟨?_, hfin.1⟩
    show t.sched.models.filter _ = _
    rw [hfin.2]
  generalize t.mapModels (fun l => l.filter fun m => m.id != id) = u at hshow hmap
  generalize u.showModels = v at hshow
  have hmir := v.mirror_only 6 [w32 id, 0, w32 0]
  have hv : (v.mirrorModel id 0 0).sched.models = s.sched.models.filter (fun m => m.id != id) ∧ (v.mirrorModel id 0 0).mem = s.mem := by
    unfold State.mirrorModel
    rw [hmir, hshow]
    exact hmap
  have hmodel : ∀ k, (v.mirrorModel id 0 0).model? k = if k = id then none else s.model? k := fun k => by
    rw [State.model?, hv.1, find?_filter_ne, State.model?]
  exact ⟨(hmodel id).trans (if_pos rfl), fun k hk => (hmodel k).trans (if_neg hk), hv.2⟩

theorem State.model?_id {s : State} {id : Nat} {m : Model} (h : s.model? id = some m) : m.id = id :=
  beq_iff_eq.mp (List.find?_some (p := fun x : Model => x.id == id) h)

theorem execCmdModelUnregister_eq (src : Source) (s : State) : exec (.cmdModelUnregister src) s = runCmd s src 0x0402 fun s c =>
    match s.model? (c.p 1) with
    | none => refuse s .noModel
    | some _ => if s.modelBusy (c.p 1) then refuse s .busy else doneWith (s.unregistered (c.p 1)) := by
  show execCmdModelUnregister src s = _
  unfold execCmdModelUnregister State.unregistered
  rfl

theorem execCmdModelPin_eq (src : Source) (s : State) : exec (.cmdModelPin src) s = runCmd s src 0x0403 fun s c =>
    match s.model? (c.p 1) with
    | none => refuse s .noModel
    | some m =>
      if bitAt (c.p 2) 0 then
        match s.beginResident (c.p 1) with
        | some t => (t, .begun)
        | none => refuse s .overflow
      else doneWith (State.showModels ((s.reply src c .accepted).mapModel (c.p 1) fun x => { x with pinned := false }))
        [w32 (if m.resident then m.slot.getD 0xFF else 0xFF)] := rfl

theorem execCmdLearnCommit_eq (src : Source) (s : State) : exec (.cmdLearnCommit src) s = runCmd s src 0x040B fun s c =>
    if c.p 1 = 0 then refuse s .badParam
    else
      match s.jobModel c.target with
      | none => refuse s .badState
      | some m =>
        if s.role == 2 || !(s.part c.target).learning || s.get F.SCHED_JOB_STATE c.target == 1 ||
            s.get F.SCHED_LEARN_STEPS_STEPS c.target == 0 || (s.model? (c.p 1)).isSome then refuse s .badState
        else if 1024 ≤ s.sched.models.length ∨ (s.registrySpace m.len).isNone = true ∨ (s.placeModel m 66).isNone = true then
          refuse s .overflow
        else (s.mapLearn c.target fun l => { l with commits := l.commits ++
          [{ id := c.p 1, par := if (s.part c.target).learn.running then none else some (s.part c.target).learn.working }] }, .begun) := rfl

/-- A partition whose learning may be committed (R257). -/
theorem commit_ready {s : State} {p id : Nat} (h1 : s.role ≠ 2) (h3 : (s.part p).learning = true) (h4 : s.get F.SCHED_JOB_STATE p ≠ 1)
    (h5 : s.get F.SCHED_LEARN_STEPS_STEPS p ≠ 0) (h6 : s.model? id = none) :
    ¬ (s.role == 2 || !(s.part p).learning || s.get F.SCHED_JOB_STATE p == 1 || s.get F.SCHED_LEARN_STEPS_STEPS p == 0 ||
      (s.model? id).isSome) = true := by
  rw [h3, h6]
  simp [h1, h4, h5]

/-- Settles O41: the end of a registration by what is left of the registry, the rest branch by branch. -/
theorem models : Obligations.Models := by
  unfold Obligations.Models
  refine ⟨?register, ?packet, ?noLoad, ?chunk, ?unregister, ?pin, ?residentIdle, ?load, ?noModel, ?resident, ?noReload, ?reload, ?commit,
    ?commitDone, ?noCommit⟩
  case register =>
    intro s src c hs
    have hi : exec (.cmdModelRegister src) s = _ := show execCmdModelRegister src s = _ from rfl
    have hok : c.p 1 ≠ 0 → s.model? (c.p 1) = none → c.p 2 ≠ 0 → c.p 2 % 64 = 0 →
        ¬ (c.p 1 = 0 ∨ ((s.dropOldest src).model? (c.p 1)).isSome = true ∨ c.p 2 = 0 ∨ c.p 2 % 64 ≠ 0) := by
      rintro h1 h2 h3 h4 (h | h | h | h)
      · exact h1 h
      · rw [show (s.dropOldest src).model? (c.p 1) = none from h2] at h
        exact absurd h (by decide)
      · exact h3 h
      · exact h h4
    have hreg : s.registryOk = true → ¬ (!(s.dropOldest src).registryOk) = true := fun h => by
      rw [show (s.dropOldest src).registryOk = true from h]; decide
    refine ⟨fun h => ends_runCmd hs hi (if_pos h), ?_, ?_, ?_, ?_⟩
    · rintro a h1 h2 h3 h4 hr hl hn ha l rfl
      have hl' : (s.dropOldest src).sched.loading = none := hl
      have ha' : (s.dropOldest src).registrySpace (c.p 2) = some a := ha
      refine begins_runCmd hs hi ((if_neg (hok h1 h2 h3 h4)).trans ((if_neg (hreg hr)).trans ((if_neg (by rw [hl']; decide)).trans
        ((if_neg (not_le.mpr hn)).trans ?_))))
      simp only [ha']
      rfl
    · exact fun h1 h2 h3 h4 hr hl => ends_runCmd hs hi ((if_neg (hok h1 h2 h3 h4)).trans ((if_neg (hreg hr)).trans (if_pos hl)))
    · intro h1 h2 h3 h4 hr
      exact ends_runCmd hs hi ((if_neg (hok h1 h2 h3 h4)).trans (if_pos (by rw [show (s.dropOldest src).registryOk = false from hr]; rfl)))
    · intro h1 h2 h3 h4 hr hl h
      have hl' : (s.dropOldest src).sched.loading = none := hl
      refine ends_runCmd hs hi ((if_neg (hok h1 h2 h3 h4)).trans ((if_neg (hreg hr)).trans ((if_neg (by rw [hl']; decide)).trans ?_)))
      split
      · rfl
      · rename_i hn
        have hsp : (s.dropOldest src).registrySpace (c.p 2) = none := h.resolve_left hn
        simp only [hsp]
        rfl
  case packet =>
    intro s k hl hup h0 h4 hlist hcrc
    refine goes_onDevice hl (show execHostRxModelChunk k s = _ from rfl) ?_
    have hecc : s.eccCounted k = s := if_neg (by omega)
    rw [State.rxFilter_taken hup (by omega) hlist hcrc h4, hecc]
  case noLoad =>
    intro s bs h
    unfold State.takeChunk
    simp only [h]
  case chunk =>
    rintro s bs l o hl rfl
    refine ⟨fun h => ?_, ?_⟩
    · unfold State.takeChunk
      simp only [hl]
      refine if_pos ?_
      simpa [bitsOf] using h
    · rintro h1 h2 h3 h4 h5 m t rfl rfl
      have hno : ¬ (bs.length < 8 ∨ bs.length % 4 ≠ 0 ∨ bitsOf (bytesWord (bs.drop (4 * 0))).toNat 0 16 ≠ l.tag ∨
          (bytesWord (bs.drop (4 * 1))).toNat % 4 ≠ 0 ∨ l.len < (bytesWord (bs.drop (4 * 1))).toNat + (bs.drop 8).length) := by
        have hw : bitsOf (bytesWord (bs.drop (4 * 0))).toNat 0 16 = (bytesWord bs).toNat % 2 ^ 16 := by simp [bitsOf]
        have h4' : (bytesWord (bs.drop (4 * 1))).toNat % 4 = 0 := h4
        have h5' : (bytesWord (bs.drop (4 * 1))).toNat + (bs.length - 8) ≤ l.len := h5
        rw [hw, h3, List.length_drop]
        omega
      refine ⟨fun h => ?_, fun h => ?_⟩ <;> unfold State.takeChunk <;> simp only [hl]
      · exact (if_neg hno).trans (if_pos h)
      · exact (if_neg hno).trans (if_neg h)
  case unregister =>
    intro s src c hs
    have hi := execCmdModelUnregister_eq src s
    refine ⟨fun hm => ?_, fun m hm hb => ?_, fun m hm hb => ?_⟩
    · have hm' : (s.dropOldest src).model? (c.p 1) = none := hm
      refine ends_runCmd hs hi ?_
      simp only [hm']
      rfl
    · have hm' : (s.dropOldest src).model? (c.p 1) = some m := hm
      refine ends_runCmd hs hi ?_
      simp only [hm']
      exact if_pos hb
    · have hm' : (s.dropOldest src).model? (c.p 1) = some m := hm
      have hends : Ends (.cmdModelUnregister src) s ((s.dropOldest src).unregistered (c.p 1)) src c .done := by
        refine ends_runCmd hs hi ?_
        simp only [hm']
        exact if_neg (show ¬ (s.dropOldest src).modelBusy (c.p 1) = true from Bool.eq_false_iff.mp hb)
      exact ⟨_, hends, (s.dropOldest src).unregistered_models (c.p 1)⟩
  case pin =>
    intro s src c hs
    have hi := execCmdModelPin_eq src s
    refine ⟨fun hm => ?_, fun m t hm hb ht => ?_, fun m hm hb ht => ?_, fun m hm hb => ?_⟩
    · have hm' : (s.dropOldest src).model? (c.p 1) = none := hm
      refine ends_runCmd hs hi ?_
      simp only [hm']
      rfl
    · have hm' : (s.dropOldest src).model? (c.p 1) = some m := hm
      refine begins_runCmd hs hi ?_
      simp only [hm', hb, ht, if_true]
    · have hm' : (s.dropOldest src).model? (c.p 1) = some m := hm
      refine ends_runCmd hs hi ?_
      simp only [hm', hb, ht, if_true]
      rfl
    · have hm' : (s.dropOldest src).model? (c.p 1) = some m := hm
      refine ends_runCmd hs hi ?_
      simp only [hm', hb]
      rfl
  case residentIdle =>
    intro s m id k hl hm hk hr hstart hpin
    refine goes_onDevice hl (show execModelResident id s = _ from rfl) ?_
    have hnone : s.host.running.find? (fun e : Source × Cmd => e.2.opcode == 0x0403 && e.2.p 1 == m.id) = none := by
      rw [State.model?_id hm]
      exact List.find?_eq_none.mpr fun e he => by
        have := List.any_eq_false.mp hpin e he
        exact this
    have hdone : s.pinDone m = s := by unfold State.pinDone; rw [hnone]
    simp only [hm, hk, hr, Option.isNone_some, if_true, hdone, hstart]
    rfl
  case load =>
    intro s m id k hl hm hk hr
    refine goes_onDevice hl (show execModelResident id s = _ from rfl) ?_
    simp only [hm, hk, hr, Option.isNone_some, Bool.false_eq_true, if_false]
  case noModel =>
    rintro s id hl (hm | ⟨m, hm, hk⟩) <;> refine goes_onDevice hl (show execModelResident id s = _ from rfl) ?_
    · simp only [hm]
    · simp only [hm, hk, Option.isNone_none, if_true]
  case resident =>
    intro s m id k hl hm hk hr
    refine goes_onDevice hl (show execModelResident id s = _ from rfl) ?_
    simp only [hm, hk, hr, Option.isNone_some, if_true]
    rfl
  case noReload =>
    intro s id unit hl hm
    refine goes_onDevice hl (show execModelCacheReload id unit s = _ from rfl) ?_
    simp only [hm]
  case reload =>
    intro s m id unit hl hm
    have hi : exec (.modelCacheReload id unit) s = _ := show execModelCacheReload id unit s = _ from rfl
    refine ⟨fun h => goes_onDevice hl hi ?_, fun h1 h2 h3 => goes_onDevice hl hi ?_⟩
    · simp only [hm]
      refine if_neg ?_
      rintro ⟨h1, h2, h3⟩
      rcases h with h | h | h
      · exact Bool.false_ne_true (h.symm.trans h1)
      · omega
      · rw [h] at h3
        exact absurd h3 (by decide)
    · simp only [hm]
      exact if_pos ⟨h1, h2, h3⟩
  case commit =>
    intro s src c hs
    have hi := execCmdLearnCommit_eq src s
    refine ⟨fun h => ends_runCmd hs hi (if_pos h), fun h0 h => ?_, fun m h0 h1 h2 h3 h4 h5 h6 h => ?_,
      fun m h0 h1 h2 h3 h4 h5 h6 h7 h8 h9 k hk hp => ?_⟩
    · refine ends_runCmd hs hi ((if_neg h0).trans ?_)
      cases hm : (s.dropOldest src).jobModel c.target with
      | none => rfl
      | some m =>
        refine if_pos ?_
        simp only [Bool.or_eq_true, beq_iff_eq, Bool.not_eq_true']
        rcases h with h | h | h | h | h | h
        · exact .inl (.inl (.inl (.inl h)))
        · rw [show (s.dropOldest src).jobModel c.target = none from h] at hm
          exact absurd hm (by simp)
        · exact .inl (.inl (.inl (.inr h)))
        · exact .inl (.inl (.inr h))
        · exact .inl (.inr h)
        · exact .inr h
    · have hm' : (s.dropOldest src).jobModel c.target = some m := h2
      refine ends_runCmd hs hi ((if_neg h0).trans ?_)
      simp only [hm']
      refine (if_neg ?_).trans (if_pos ?_)
      · exact commit_ready (s := s.dropOldest src) h1 h3 h4 h5 h6
      · rw [Option.isNone_iff_eq_none, Option.isNone_iff_eq_none]
        exact h
    · have hm' : (s.dropOldest src).jobModel c.target = some m := h2
      obtain ⟨id, par⟩ := k
      subst hk hp
      refine begins_runCmd hs hi ((if_neg h0).trans ?_)
      simp only [hm']
      refine (if_neg ?_).trans (if_neg ?_)
      · exact commit_ready (s := s.dropOldest src) h1 h3 h4 h5 h6
      · rintro (h | h | h)
        · exact absurd h (not_le.mpr h7)
        · rw [Option.isNone_iff_eq_none] at h
          rw [show s.registrySpace m.len = none from h] at h8
          exact absurd h8 (by decide)
        · rw [Option.isNone_iff_eq_none] at h
          rw [h] at h9
          exact absurd h9 (by decide)
  case commitDone =>
    intro s p k lps hl hk
    have hi : exec (.learnCommitDone p) s = _ := show execLearnCommitDone p s = _ from rfl
    refine ⟨fun hp => goes_onDevice hl hi ?_, fun hp => goes_onDevice hl hi ?_⟩ <;> simp only [hk, hp]
  case noCommit =>
    intro s p hl hc
    refine goes_onDevice hl (show execLearnCommitDone p s = _ from rfl) ?_
    simp only [hc, List.head?_nil]

end Sys2Proof.Machine
end

section
/-! PROOF. The learning and statistics registers: what each write takes, and what it refuses with ERR set. -/

namespace Sys2Proof.Machine
open Sys2Proof.Claims

/-! ### What a field write and a whole write leave unchanged -/

theorem State.put_onlyRegs (s : State) (f : Fld) (v i : Nat) : OnlyRegs s (s.put f v i) [f.reg.addr i 0] :=
  ⟨rfl, fun _ ha => tget?_setReg _ _ _ _ _ _ (by simpa using ha)⟩

theorem onlyRegs_trans {s t u : State} {as bs : List Nat} (h : OnlyRegs s t as) (k : OnlyRegs t u bs) : OnlyRegs s u (as ++ bs) := by
  obtain ⟨ht, hs⟩ := h
  obtain ⟨hu, hr⟩ := k
  refine ⟨by rw [hu, ht], fun a ha => ?_⟩
  rw [List.mem_append, not_or] at ha
  rw [hr a ha.2, hs a ha.1]

theorem onlyRegs_mono {s t : State} {as bs : List Nat} (h : OnlyRegs s t as) (k : ∀ a ∈ as, a ∈ bs) : OnlyRegs s t bs :=
  ⟨h.1, fun a ha => h.2 a fun hm => ha (k a hm)⟩

theorem State.learnErr_refused (s : State) (p : Nat) : OnlyRegs s (s.learnErr p) [R.SCHED_LEARN_CTRL.addr p 0] ∧
    (s.learnErr p).on F.SCHED_LEARN_CTRL_ERR p = true :=
  ⟨s.put_onlyRegs F.SCHED_LEARN_CTRL_ERR 1 p, by
    rw [State.learnErr, State.on, State.putBit, State.get_put _ _ _ _ _ (by decide)]; decide⟩

/-! ### SCHED_LEARN (R246, R256) -/

theorem goes_learn (s : State) (p : Fin 8) (off : Nat) (v : Word) (hl : Live s) :
    Goes (.schedLearnHyperWrite p off v) s (s.writeLearn p.val off v.toNat) :=
  goes_onDevice hl (show execSchedLearnHyperWrite p off v s = _ from rfl) rfl

/-- Showing NEED leaves every field of SCHED_LEARN_CTRL. -/
theorem State.showNeed_get (s : State) (p : Nat) {f : Fld} (hf : f.reg = R.SCHED_LEARN_CTRL) :
    (s.showNeed p).get f p = s.get f p :=
  State.get_put_stride (f := F.SCHED_LEARN_NEED_NEED) s _ _ _ (by rw [hf]; rfl) (by rw [hf]; decide)

theorem State.writeLearnCtrl_kept {s : State} {p v : Nat}
    (h : s.learns p = false ∨ bitsOf v 16 9 = s.get F.SCHED_LEARN_CTRL_BATCH p) :
    s.writeLearnCtrl p v = (s.mergeReg R.SCHED_LEARN_CTRL v p).showNeed p := by
  unfold State.writeLearnCtrl
  refine congrArg (State.showNeed · p) (if_neg ?_)
  rcases h with h | h <;> simp [h]

/-- A write that would change BATCH while a LEARN job runs keeps BATCH and sets ERR. -/
theorem State.writeLearnCtrl_refused {s : State} {p v : Nat} (hl : s.learns p = true)
    (hb : bitsOf v 16 9 ≠ s.get F.SCHED_LEARN_CTRL_BATCH p) :
    OnlyRegs s (s.writeLearnCtrl p v) [R.SCHED_LEARN_CTRL.addr p 0, R.SCHED_LEARN_NEED.addr p 0] ∧
    (s.writeLearnCtrl p v).get F.SCHED_LEARN_CTRL_BATCH p = s.get F.SCHED_LEARN_CTRL_BATCH p ∧
    (s.writeLearnCtrl p v).on F.SCHED_LEARN_CTRL_ERR p = true := by
  have heq : s.writeLearnCtrl p v = (((s.mergeReg R.SCHED_LEARN_CTRL v p).put F.SCHED_LEARN_CTRL_BATCH
      (s.get F.SCHED_LEARN_CTRL_BATCH p) p).learnErr p).showNeed p := by
    unfold State.writeLearnCtrl
    exact congrArg (State.showNeed · p) (if_pos (by simp [hl, hb]))
  rw [heq]
  refine ⟨?_, ?_, ?_⟩
  · refine onlyRegs_mono (onlyRegs_trans (onlyRegs_trans (onlyRegs_trans (s.mergeReg_onlyRegs _ _ _ _)
      (State.put_onlyRegs _ F.SCHED_LEARN_CTRL_BATCH _ _)) (State.learnErr_refused _ _).1)
      (State.put_onlyRegs _ F.SCHED_LEARN_NEED_NEED _ _)) ?_
    simp [F.SCHED_LEARN_CTRL_BATCH, F.SCHED_LEARN_NEED_NEED]
  · rw [State.showNeed_get _ _ rfl, State.learnErr, State.putBit,
      State.get_put_beside (f := F.SCHED_LEARN_CTRL_ERR) (g := F.SCHED_LEARN_CTRL_BATCH) (hreg := rfl) (hw := by decide) (h := by decide),
      State.get_put _ _ _ _ _ (by decide)]
    exact Nat.mod_eq_of_lt (bitsOf_lt _ _ _)
  · have := (State.learnErr_refused ((s.mergeReg R.SCHED_LEARN_CTRL v p).put F.SCHED_LEARN_CTRL_BATCH
      (s.get F.SCHED_LEARN_CTRL_BATCH p) p) p).2
    unfold State.on at this ⊢
    rwa [State.showNeed_get _ _ rfl]

/-! ### The statistics ring (R235) -/

/-- Enabling the ring starts it anew: both of its counts read 0, and no other register changes. -/
theorem State.writeStatCtrl_started {s : State} {p v : Nat} (h : s.reg R.QUANT_STAT_CTRL p % 4 = 0 ∧ v % 4 ≠ 0)
    (ha : s.ringPlaced (s.ringArea p) = true) :
    OnlyRegs s (s.writeStatCtrl p v) [R.QUANT_STAT_CTRL.addr p 0, R.QUANT_STAT_WR.addr p 0, R.QUANT_STAT_RD.addr p 0] ∧
    (s.writeStatCtrl p v).get F.QUANT_STAT_WR_WR p = 0 ∧ (s.writeStatCtrl p v).get F.QUANT_STAT_RD_RD p = 0 := by
  have heq : s.writeStatCtrl p v =
      ((s.mergeReg R.QUANT_STAT_CTRL v p).put F.QUANT_STAT_WR_WR 0 p).put F.QUANT_STAT_RD_RD 0 p := by
    unfold State.writeStatCtrl
    exact (if_pos h).trans (if_pos ha)
  rw [heq]
  refine ⟨?_, ?_, ?_⟩
  · refine onlyRegs_mono (onlyRegs_trans (onlyRegs_trans (s.mergeReg_onlyRegs _ _ _ _)
      (State.put_onlyRegs _ F.QUANT_STAT_WR_WR _ _)) (State.put_onlyRegs _ F.QUANT_STAT_RD_RD _ _)) ?_
    simp [F.QUANT_STAT_WR_WR, F.QUANT_STAT_RD_RD]
  · rw [State.get_put_stride (f := F.QUANT_STAT_RD_RD) (g := F.QUANT_STAT_WR_WR) (hs := rfl) (hm := by decide),
      State.get_put _ _ _ _ _ (by decide), Nat.zero_mod]
  · rw [State.get_put _ _ _ _ _ (by decide), Nat.zero_mod]

/-! ### Calibration (R239, R240) -/

/-- A field of one bit is set when its bit of the register is. -/
theorem State.on_eq_testBit (s : State) {f : Fld} (hw : f.width = 1) (i j : Nat) : s.on f i j = (s.reg f.reg i j).testBit f.lo := by
  rw [State.on, State.get, hw, ← bitAt_eq_testBit, bitsOf, bitAt, pow_one]
  rcases Nat.mod_two_eq_zero_or_one (s.reg f.reg i j / 2 ^ f.lo) with h | h <;> rw [h] <;> rfl

/-- EN after a write of QUANT_CALIB_CTRL is the bit written. -/
theorem State.calibEn_merge (s : State) (p v : Nat) (hv : v < 4) :
    (s.mergeReg R.QUANT_CALIB_CTRL v p).on F.QUANT_CALIB_CTRL_EN p = v.testBit 0 := by
  rw [State.on_eq_testBit _ rfl]
  show ((s.setReg R.QUANT_CALIB_CTRL _ p).reg R.QUANT_CALIB_CTRL p).testBit 0 = _
  rw [State.reg_setReg, Nat.testBit_mod_two_pow, Reg.testBit_merge _ _ (by decide) (by decide) (by decide)
    (Nat.lt_of_le_of_lt Nat.and_le_left (by omega))]
  have h1 : R.QUANT_CALIB_CTRL.rw.testBit 0 = true := by decide
  have h2 : R.QUANT_CALIB_CTRL.w1c.testBit 0 = false := by decide
  have h3 : R.QUANT_CALIB_CTRL.w1s.testBit 0 = false := by decide
  simp [h1, h2, h3]

/-- Setting the partition's calibration flags beside a write of QUANT_CALIB_CTRL. -/
theorem State.calib_set (s : State) (p v : Nat) (c : Calib) (hv : v < 4) :
    let t := (s.mergeReg R.QUANT_CALIB_CTRL v p).setPart p { s.part p with calib := c }
    t = { s with regs := t.regs, sched := t.sched } ∧ SameRegs s t [R.QUANT_CALIB_CTRL.addr p 0] ∧
      t.on F.QUANT_CALIB_CTRL_EN p = v.testBit 0 ∧ (t.part p).calib = c := by
  intro t
  have hpart : t.part p = { s.part p with calib := c } := State.part_setPart _ _ _
  refine ⟨rfl, (s.mergeReg_onlyRegs _ _ _ _).2, s.calibEn_merge p v hv, ?_⟩
  rw [hpart]

theorem State.writeCalibCtrl_again {s : State} {p v : Nat} (h : s.on F.QUANT_CALIB_CTRL_EN p = bitAt v 0) :
    s.writeCalibCtrl p v = s.mergeReg R.QUANT_CALIB_CTRL v p := by
  unfold State.writeCalibCtrl
  dsimp only
  rw [h]
  cases bitAt v 0 <;> rfl

/-- Settles O42: what each write of the learning and statistics registers takes and refuses. -/
theorem learnAndStatRegisters : Obligations.LearnAndStatRegisters := by
  unfold Obligations.LearnAndStatRegisters
  refine ⟨?rate, ?beta, ?area, ?ctrl, ?none, ?eps, ?bad, ?held, ?batch, ?ring, ?stat, ?again, ?enable, ?disable⟩
  case rate => exact fun s p v hl h => goes_onDevice hl (show execSchedLearnHyperWrite p _ v s = _ from rfl) (if_pos h)
  case beta =>
    exact fun s p v hl h => ⟨goes_onDevice hl (show execSchedLearnHyperWrite p _ v s = _ from rfl) (if_pos h),
      goes_onDevice hl (show execSchedLearnHyperWrite p _ v s = _ from rfl) (if_pos h)⟩
  case area =>
    intro s p v hl h
    have h' : ¬s.learns p.val = true := by simp [h]
    exact ⟨goes_onDevice hl (show execSchedLearnHyperWrite p _ v s = _ from rfl) (if_neg h'),
      goes_onDevice hl (show execSchedLearnHyperWrite p _ v s = _ from rfl) (if_neg h')⟩
  case ctrl =>
    exact fun s p v hl h => goes_onDevice hl (show execSchedLearnHyperWrite p _ v s = _ from rfl) (State.writeLearnCtrl_kept h)
  case none =>
    intro s p off v hl h
    simp only [List.mem_cons, List.not_mem_nil, or_false, not_or] at h
    obtain ⟨h0, h4, h8, hc, h10, h14, h18⟩ := h
    refine goes_onDevice hl (show execSchedLearnHyperWrite p _ v s = _ from rfl) ?_
    simp only [State.writeLearn, h0, h4, h8, hc, h10, h14, h18, if_false]
  case eps => exact fun s p v hl h => goes_onDevice hl (show execSchedLearnHyperWrite p _ v s = _ from rfl) (if_pos h)
  case bad =>
    intro s p off v hl hoff h
    obtain ⟨honly, herr⟩ := s.learnErr_refused p.val
    have h' : ¬hyperOk off v.toNat = true := by simp [h]
    refine ⟨_, ?_, honly, herr⟩
    rcases hoff with rfl | rfl | rfl | rfl
    · exact goes_onDevice hl (show execSchedLearnHyperWrite p _ v s = _ from rfl) (if_neg h')
    · exact goes_onDevice hl (show execSchedLearnHyperWrite p _ v s = _ from rfl) (if_neg h')
    · exact goes_onDevice hl (show execSchedLearnHyperWrite p _ v s = _ from rfl) (if_neg h')
    · exact goes_onDevice hl (show execSchedLearnHyperWrite p _ v s = _ from rfl) (if_neg h')
  case held =>
    intro s p off v hl hoff h
    obtain ⟨honly, herr⟩ := s.learnErr_refused p.val
    refine ⟨_, ?_, honly, herr⟩
    rcases hoff with rfl | rfl
    · exact goes_onDevice hl (show execSchedLearnHyperWrite p _ v s = _ from rfl) (if_pos h)
    · exact goes_onDevice hl (show execSchedLearnHyperWrite p _ v s = _ from rfl) (if_pos h)
  case batch =>
    exact fun s p v hl h hb => ⟨_, goes_onDevice hl (show execSchedLearnHyperWrite p _ v s = _ from rfl) rfl,
      State.writeLearnCtrl_refused h hb⟩
  case ring =>
    refine fun s p v hl ho hv => ⟨fun ha => ⟨_, goes_onDevice hl (show execQuantStatCtrlWrite p v s = _ from rfl) rfl,
      State.writeStatCtrl_started ⟨ho, hv⟩ ha⟩, fun ha => ?_⟩
    exact goes_onDevice hl (show execQuantStatCtrlWrite p v s = _ from rfl) ((if_pos ⟨ho, hv⟩).trans (if_neg (by simp [ha])))
  case stat =>
    exact fun s p v hl h => goes_onDevice hl (show execQuantStatCtrlWrite p v s = _ from rfl)
      (if_neg fun ⟨ho, hv⟩ => h.elim (fun k => k ho) hv)
  case again =>
    exact fun s p hl => ⟨fun h => goes_onDevice hl (show execQuantCalibEnSet p s = _ from rfl) (State.writeCalibCtrl_again h),
      fun h => goes_onDevice hl (show execQuantCalibEnClear p s = _ from rfl) (State.writeCalibCtrl_again h)⟩
  case enable =>
    intro s p hl hoff
    have hnew : (!s.on F.QUANT_CALIB_CTRL_EN p.val && bitAt 1 0) = true := by rw [hoff]; rfl
    refine ⟨fun hok => goes_onDevice hl (show execQuantCalibEnSet p s = _ from rfl)
      ((if_pos hnew).trans (if_neg (by simp [hok]))), fun hok => ?_⟩
    obtain ⟨honly, hregs, hen, hc⟩ := s.calib_set p.val 1 { (s.part p.val).calib with startDue := true } (by decide)
    exact ⟨_, goes_onDevice hl (show execQuantCalibEnSet p s = _ from rfl) ((if_pos hnew).trans (if_pos hok)),
      honly, hregs, hen, by rw [hc]⟩
  case disable =>
    intro s p hl hon
    have hold : ¬(!s.on F.QUANT_CALIB_CTRL_EN p.val && bitAt 0 0) = true := by simp [hon]
    have hnew : (s.on F.QUANT_CALIB_CTRL_EN p.val && !bitAt 0 0) = true := by rw [hon]; rfl
    obtain ⟨honly, -, hen, hc⟩ := s.calib_set p.val 0 { (s.part p.val).calib with startDue := false, stopDue := true } (by decide)
    exact ⟨_, goes_onDevice hl (show execQuantCalibEnClear p s = _ from rfl) ((if_neg hold).trans (if_pos hnew)),
      honly, hen, by rw [hc], by rw [hc]⟩

end Sys2Proof.Machine
end

section
/-! PROOF. Telemetry, throttling, the stepping of the setpoint, and power alerts. -/

namespace Sys2Proof.Machine
open Sys2Proof.Claims

/-! ### A reply leaves the commands that run -/

theorem State.sendStatus_running (s : State) (ws : List Word) : (s.sendStatus ws).host.running = s.host.running := by
  unfold State.sendStatus
  split_ifs
  · rfl
  · rfl
  · exact congrArg HostLink.running (State.raise_host _ _)

theorem State.fillBox_host (s : State) (r : Reg) (ws : List Word) : (s.fillBox r ws).host = s.host := by rw [s.fillBox_only r ws]

theorem State.postD2h_running (s : State) (ws : List Word) : (s.postD2h ws).host.running = s.host.running := by
  unfold State.postD2h
  split_ifs
  · show (((s.fillBox _ _).putBit _ _).raise _).host.running = _
    rw [State.raise_host]
    exact congrArg HostLink.running (s.fillBox_host _ _)
  · rfl
  · exact s.sendStatus_running ws

theorem State.linkSend_host (s : State) (kind vl : Nat) (ws : List Word) (p : List Nat) : (s.linkSend kind vl ws p).host = s.host := by
  rw [s.linkSend_only kind vl ws p]

theorem State.postD2t_running (s : State) (ws : List Word) : (s.postD2t ws).host.running = s.host.running := by
  unfold State.postD2t
  split_ifs
  · exact congrArg HostLink.running ((State.linkSend_host _ _ _ _ _).trans (s.fillBox_host _ _))
  · rfl

theorem State.reply_running (s : State) (src : Source) (c : Cmd) {st : Status} (hst : st ≠ .poisoned) (ws : List Word) :
    (s.reply src c st ws).host.running = s.host.running := by
  unfold State.reply
  rw [if_neg hst]
  dsimp only
  split_ifs
  · rfl
  · cases src with
    | h2d =>
      unfold State.routeReply
      dsimp only
      split_ifs
      · exact s.sendStatus_running _
      · exact s.postD2h_running _
    | csi vc => exact s.sendStatus_running _
    | t2d => exact s.postD2t_running _

/-! ### Ending every command of an opcode -/

theorem removeFirst_eq_erase {α : Type} [BEq α] (e : α) (l : List α) : removeFirst (· == e) l = l.erase e := by
  induction l with
  | nil => rfl
  | cons a l ih => rw [removeFirst, List.erase_cons, ih]

/-- How many commands of an opcode run. -/
def State.countOp (s : State) (op : Nat) : Nat := s.host.running.countP fun e => e.2.opcode == op

theorem State.runningCmd_eq_none {s : State} {op : Nat} : s.runningCmd op = none ↔ s.countOp op = 0 := by
  unfold State.runningCmd State.countOp
  rw [List.find?_eq_none, List.countP_eq_zero]

theorem State.finishOp_count (s : State) (op : Nat) {st : Status} (hst : st ≠ .poisoned) (ws : List Word) :
    (s.finishOp op st ws).countOp op = s.countOp op - 1 := by
  unfold State.finishOp
  cases he : s.runningCmd op with
  | none => rw [State.runningCmd_eq_none.mp he]
  | some e =>
    have hmem : e ∈ s.host.running := List.mem_of_find?_eq_some he
    have hop : (e.2.opcode == op) = true := List.find?_some (p := fun e : Source × Cmd => e.2.opcode == op) he
    show State.countOp (s.finish e st ws) op = _
    unfold State.countOp State.finish
    rw [State.reply_running _ _ _ hst]
    show (removeFirst (· == e) s.host.running).countP _ = _
    rw [removeFirst_eq_erase, List.countP_erase, if_pos ⟨hmem, hop⟩]

theorem finishOps_none (op : Nat) {st : Status} (hst : st ≠ .poisoned) {s : State} {n : Nat} (i : Nat) (h : s.countOp op ≤ n) :
    (timesFrom (fun t _ => t.finishOp op st) n i s).runningCmd op = none := by
  induction n generalizing s i with
  | zero => exact State.runningCmd_eq_none.mpr (Nat.le_zero.mp h)
  | succ n ih =>
    refine ih (i + 1) ?_
    rw [State.finishOp_count s op hst]
    omega

/-! ### Throttling (R452) -/

theorem State.setDepth_power (s : State) (d : Nat) : (s.setDepth d).power = { s.power with depth := d } := by
  have hshow : ∀ t : State, t.showVcore.power = t.power := fun t => by unfold State.showVcore; split <;> rfl
  unfold State.setDepth
  dsimp only
  have hraise : ∀ (t : State) (c : Fld), (t.raise c).power = t.power := fun t c => by rw [State.raise_i t c]
  have hu : ∀ t : State, (if s.power.depth = 0 ∧ d ≠ 0 then t.bump F.SYS_THROTTLE_STAT_ENTRIES else t).power = t.power :=
    fun t => by split <;> rfl
  have hput : ((State.showVcore { s with power := { s.power with depth := d } }).putBit F.SYS_THROTTLE_STAT_ACTIVE (d != 0)
      |>.put F.SYS_THROTTLE_STAT_DEPTH (d / 10)).power = { s.power with depth := d } := hshow _
  split
  · rw [hraise, hu, hput]
  · rw [hu, hput]

/-! ### Temperatures and alerts -/

/-- The temperature and its mark, as a sensor's value shows them. -/
def State.tempAt (s : State) (i : Nat) : Nat × Bool := (s.get F.SYS_TEMP_TEMP i, s.on F.SYS_TEMP_VALID i)

/-- One sensor's value is shown. -/
def State.showTemp (s : State) (v : Int) (i : Nat) : State :=
  (s.put F.SYS_TEMP_TEMP (unsigned 16 v) i).putBit F.SYS_TEMP_VALID true i

theorem unsigned_lt (w : Nat) (x : Int) : unsigned w x < 2 ^ w := by
  unfold unsigned
  have h0 : (0 : Int) < (2 ^ w : Nat) := by positivity
  have h1 := Int.emod_lt_of_pos x h0
  have h2 := Int.emod_nonneg x (ne_of_gt h0)
  omega

theorem State.tempAt_showTemp (s : State) (v : Int) (i : Nat) : (s.showTemp v i).tempAt i = (unsigned 16 v, true) := by
  refine Prod.ext ?_ (State.on_putBit _ F.SYS_TEMP_VALID _ _ _ rfl (by decide))
  show ((s.put F.SYS_TEMP_TEMP (unsigned 16 v) i).putBit F.SYS_TEMP_VALID true i).get F.SYS_TEMP_TEMP i = _
  rw [State.putBit, State.get_put_beside (f := F.SYS_TEMP_VALID) (g := F.SYS_TEMP_TEMP) (hreg := rfl) (hw := by decide) (h := by decide),
    State.get_put _ _ _ _ _ (by decide)]
  exact Nat.mod_eq_of_lt (unsigned_lt 16 v)

theorem State.tempAt_showTemp_other (s : State) (v : Int) {i k : Nat} (h : i < k) : (s.showTemp v k).tempAt i = s.tempAt i := by
  have hne : ∀ f g : Fld, f.reg = R.SYS_TEMP → g.reg = R.SYS_TEMP → f.reg.addr i 0 ≠ g.reg.addr k 0 := fun f g hf hg => by
    rw [hf, hg]
    simp only [Reg.addr, R.SYS_TEMP]
    omega
  refine Prod.ext ?_ ?_
  · show ((s.put _ _ k).put _ _ k).get F.SYS_TEMP_TEMP i = _
    rw [State.get_put_other _ _ _ _ _ _ _ _ (hne _ _ rfl rfl), State.get_put_other _ _ _ _ _ _ _ _ (hne _ _ rfl rfl)]
    rfl
  · show (((s.put _ _ k).put _ _ k).get F.SYS_TEMP_VALID i != 0) = _
    rw [State.get_put_other _ _ _ _ _ _ _ _ (hne _ _ rfl rfl), State.get_put_other _ _ _ _ _ _ _ _ (hne _ _ rfl rfl)]
    rfl

/-- What an alert leaves of SYS_PWR_STAT: the alert's mark, and the regulators that do not answer. -/
structure Alerted (s t : State) : Prop where
  only : OnlyRegs s t [R.SYS_PWR_STAT.addr 0 0]
  alert : t.on F.SYS_PWR_STAT_ALERT = true
  noResponse : t.get F.SYS_PWR_STAT_NO_RESPONSE = s.get F.SYS_PWR_STAT_NO_RESPONSE

/-- A write of a field of SYS_PWR_STAT beside both. -/
theorem Alerted.put {s t : State} (h : Alerted s t) {f : Fld} (v : Nat) (hf : f.reg = R.SYS_PWR_STAT) (hlo : 5 ≤ f.lo) :
    Alerted s (t.put f v) := by
  obtain ⟨honly, halert, hno⟩ := h
  have hbeside : ∀ g : Fld, g.reg = R.SYS_PWR_STAT → g.lo + g.width ≤ 5 → (t.put f v).get g = t.get g := fun g hg hw =>
    t.get_put_beside v 0 (hg.trans hf.symm) (by omega) (Or.inl (by omega))
  refine ⟨onlyRegs_mono (onlyRegs_trans honly (t.put_onlyRegs f v 0)) (by simp [hf]), ?_, ?_⟩
  · rw [State.on, hbeside _ rfl (by decide)]; exact halert
  · rw [hbeside _ rfl (by decide)]; exact hno

theorem State.alert_marked (s : State) : Alerted s (s.putBit F.SYS_PWR_STAT_ALERT true) :=
  ⟨s.put_onlyRegs F.SYS_PWR_STAT_ALERT 1 0, State.on_putBit _ _ _ _ _ rfl (by decide),
    s.get_put_beside (f := F.SYS_PWR_STAT_ALERT) (g := F.SYS_PWR_STAT_NO_RESPONSE) 1 0 rfl (by decide) (by decide)⟩

/-- Settles O52: what a sample shows, the throttle's step, the setpoint's step and an alert. -/
theorem powerAndThrottle : Obligations.PowerAndThrottle := by
  unfold Obligations.PowerAndThrottle
  refine ⟨?off, ?sample, ?temps, ?deeper, ?back, ?same, ?lowest, ?bad, ?up, ?down, ?idle, ?alert⟩
  case off =>
    exact fun s x hl h => goes_onDevice hl (show execTelemetrySample x s = _ from rfl) (if_neg (by simp [h]))
  case sample =>
    intro s t u x hotT hotP cool hfw ht hT hP hc hu
    subst hu hc hP hT ht
    exact goes_onDevice hfw.1 (show execTelemetrySample x s = _ from rfl) (if_pos hfw.2)
  case temps =>
    intro s x i v hi hv
    have h : (s.sampleTemps x).tempAt i = (unsigned 16 v, true) := by
      refine timesFrom_view_eq (v := fun t : State => t.tempAt i) (k := i) (fun t => ?_) (fun t m hm => ?_) (by omega)
        (Or.inl (Nat.zero_le i))
      · simp only [hv]
        exact t.tempAt_showTemp v i
      · split
        · exact t.tempAt_showTemp_other _ hm
        · rfl
    exact Prod.mk.inj h
  case deeper =>
    intro s cool h
    have heq : s.throttle true cool = s.setDepth (s.power.depth + 10) := if_pos (by simpa using h)
    rw [heq, State.vcoreEffective, State.setDepth_power]
    exact ⟨rfl, by show s.vcoreLowest ≤ s.power.target - (s.power.depth + 10); omega⟩
  case back =>
    intro s h
    have heq : s.throttle false true = s.setDepth (s.power.depth - 10) := if_pos (by simpa using h)
    rw [heq, State.setDepth_power]
  case same => exact fun s => rfl
  case lowest => exact fun s => rfl
  case bad =>
    intro s h
    have heq : s.settleVcore = timesFrom (fun t _ => t.finishOp 0x0103 .badState) s.host.running.length 0 s := if_pos h
    rw [heq]
    refine ⟨finishOps_none _ (by decide) 0 List.countP_le_length, fun e he hop => ?_⟩
    have hrun : s.runningCmd 0x0103 = some e := by rw [State.runningCmd, he, List.find?_cons_of_pos (by simp [hop])]
    rw [he]
    show s.finishOp 0x0103 .badState = _
    rw [State.finishOp, hrun]
  case up =>
    intro s hfw hext hbad hlt
    refine ⟨{ s with power := { s.power with now := min (s.power.now + 10) s.vcoreEffective } }, ?_, rfl, rfl⟩
    refine goes_onDevice hfw.1 (show execVcoreStep s = _ from rfl) ((if_pos ?_).trans ?_)
    · simp [hfw.2, hext, hbad, Nat.ne_of_lt hlt]
    · rw [if_pos hlt]
  case down =>
    intro s hfw hext hbad hlt
    refine ⟨{ s with power := { s.power with now := max (s.power.now - 10) s.vcoreEffective } }, ?_, rfl, rfl⟩
    refine goes_onDevice hfw.1 (show execVcoreStep s = _ from rfl) ((if_pos ?_).trans ?_)
    · simp [hfw.2, hext, hbad, Nat.ne_of_gt hlt]
    · rw [if_neg (Nat.not_lt.mpr hlt.le)]
  case idle =>
    intro s hl h
    refine goes_onDevice hl (show execVcoreStep s = _ from rfl) (if_neg ?_)
    rcases h with h | h | h | h <;> simp [h]
  case alert =>
    intro s ws hl
    have h : Alerted s (timesFrom (fun (t : State) i =>
        let w := (ws.getD i 0).toNat % 2 ^ 16
        if w = 0 then t else (t.put F.SYS_PWR_STAT_ALERT_SRC i).put F.SYS_PWR_STAT_STATUS_WORD w) 3 0
        (s.putBit F.SYS_PWR_STAT_ALERT true)) := by
      refine timesFrom_keeps (P := fun t : State => Alerted s t) (fun t i ht => ?_) s.alert_marked 3 0
      dsimp only
      split
      · exact ht
      · exact (ht.put i rfl (by decide)).put _ rfl (by decide)
    obtain ⟨honly, halert, hno⟩ := h
    exact ⟨_, goes_onDevice hl (show execPwrAlert ws s = _ from rfl) rfl, honly, halert, hno⟩

end Sys2Proof.Machine
end

section
/-! PROOF. The twin mailboxes and the lane tests. -/

namespace Sys2Proof.Machine
open Sys2Proof.Claims

/-! ### Commands of the core, where no fence is due -/

theorem timesFrom_id {σ : Type} {f : σ → Nat → σ} {s : σ} (h : ∀ i, f s i = s) (n i : Nat) : timesFrom f n i s = s := by
  induction n generalizing i with
  | zero => rfl
  | succ n ih => rw [timesFrom, h, ih]

theorem State.settleOnce_none {s : State} (h : s.fenceDue = []) : s.settleOnce = s := by
  have hdue : ((List.range 64).flatMap fun n => s.fenceDue.filter fun e : Nat × Nat => e.1 == n) = [] := by rw [h]; rfl
  unfold State.settleOnce
  rw [hdue]
  show ({ s with fenceDue := [] } : State) = s
  rw [← h]

theorem State.settle_none {s : State} (h : s.fenceDue = []) : s.settle = s := by
  unfold State.settle
  rw [State.settleOnce_none h]
  exact timesFrom_id (fun i => if_neg (by rw [h]; simp)) 64 0

theorem goes_onCore_quiet {i : Instr} {s t : State} {f : State → State} (hlive : Live s) (hi : exec i s = onCore s f)
    (ht : f s = t) (hdue : t.fenceDue = []) : Goes i s t :=
  (goes_onCore hlive hi ht).trans (congrArg Host.Outcome.next (State.settle_none hdue))

theorem State.reply_fenceDue (s : State) (src : Source) (c : Cmd) (st : Status) (ws : List Word) :
    (s.reply src c st ws).fenceDue = s.fenceDue := by rw [s.reply_r src c st ws]

/-- A command of the core whose turn it is, before the fences that are due. -/
theorem goes_coreCmd {i : Instr} {s : State} {src : Source} {op : Nat} {c : Cmd} {body : State → Cmd → State × Answer}
    {t : State} {a : Answer} (h : Starts s src op c) (hi : exec i s = onCore s fun s => s.startCmd src op body)
    (hb : body (s.dropOldest src) c = (t, a)) : Goes i s (t.answer src c a).settle :=
  goes_onCore h.1 hi (by rw [startCmd_starts h, hb])

theorem ends_coreCmd {i : Instr} {s : State} {src : Source} {op : Nat} {c : Cmd} {body : State → Cmd → State × Answer}
    {t : State} {st : Status} {ws : List Word} (h : Starts s src op c) (hi : exec i s = onCore s fun s => s.startCmd src op body)
    (hb : body (s.dropOldest src) c = (t, .final st ws)) (hdue : t.fenceDue = []) : Ends i s t src c st ws :=
  goes_onCore_quiet h.1 hi (by rw [startCmd_starts h, hb]; rfl) ((t.reply_fenceDue src c st ws).trans hdue)

theorem lasts_coreCmd {i : Instr} {s : State} {src : Source} {op : Nat} {c : Cmd} {body : State → Cmd → State × Answer}
    {t : State} (h : Starts s src op c) (hi : exec i s = onCore s fun s => s.startCmd src op body)
    (hb : body (s.dropOldest src) c = (t, .later)) (hdue : t.fenceDue = []) : Lasts i s t src c :=
  goes_onCore_quiet h.1 hi (by rw [startCmd_starts h, hb]; rfl) hdue

/-- A frame that waits for the receiving instruction is taken out of the inbox and handed on. -/
theorem goes_frame {i : Instr} {s t : State} {kind : Nat} {x : RzFrame} {f : State → RzFrame → State} (hx : Frames s kind x)
    (hi : exec i s = onDevice s fun s => s.onFrame kind f) (ht : f (s.consume x) x = t) : Goes i s t :=
  goes_onDevice hx.1 hi (by rw [State.onFrame, hx.2]; exact ht)

/-- Settles O55: the twin mailboxes' words and acknowledgements, and the start and the end of a lane test. -/
theorem twinMailboxesAndLaneTests : Obligations.TwinMailboxesAndLaneTests := by
  unfold Obligations.TwinMailboxesAndLaneTests
  refine ⟨?send, ?noSend, ?full, ?take, ?read, ?noRead, ?ack, ?test, ?testEnd, ?noEnd⟩
  case send =>
    intro s v hfw hfull hv
    exact goes_onDevice hfw.1 (show execMbxD2tGoWrite v s = _ from rfl) ((if_pos hfw.2).trans (if_neg (by simp [hfull, hv])))
  case noSend =>
    intro s v hl h
    refine goes_onDevice hl (show execMbxD2tGoWrite v s = _ from rfl) ?_
    have hstay : s.writeD2tGo v.toNat = s := if_pos (by simpa using h)
    rw [hstay, ite_self]
  case full => exact fun s x hx h => goes_frame hx (show execMbxFrameRx s = _ from rfl) (if_pos h)
  case take =>
    intro s u x ws hx hfull hws hu
    have hnot : ¬(s.consume x).on F.MBX_T2D_GO_FULL = true := by
      rw [show (s.consume x).on F.MBX_T2D_GO_FULL = s.on F.MBX_T2D_GO_FULL from rfl, hfull]; decide
    subst hws hu
    exact ⟨State.on_putBit _ _ _ _ _ rfl (by decide),
      fun hr => goes_frame hx (show execMbxFrameRx s = _ from rfl) ((if_neg hnot).trans (if_pos hr)),
      fun hr => goes_frame hx (show execMbxFrameRx s = _ from rfl) ((if_neg hnot).trans (if_neg (by rw [hr]; decide)))⟩
  case read => exact fun s hl h => goes_onDevice hl (show execMbxT2dGoRead s = _ from rfl) (if_pos h)
  case noRead => exact fun s hl h => goes_onDevice hl (show execMbxT2dGoRead s = _ from rfl) (if_neg (by rw [h]; decide))
  case ack => exact fun s x hx => goes_frame hx (show execMbxAckRx s = _ from rfl) rfl
  case test =>
    intro s src c hs hdue
    have hi := show execCmdLaneTest src s = _ from rfl
    have hbits : bitsOf (c.p 1) 8 24 = c.p 1 / 256 := by
      have := c.p_lt 1
      rw [bitsOf]
      omega
    have hdue' : (s.dropOldest src).fenceDue = [] := hdue
    refine ⟨fun h => ?_, fun h ht hr => ?_, fun h ht hsp => ?_, fun h ht hsp => ?_, fun h ht hr hup => ?_, fun h ht hr hup => ?_⟩
    · exact ends_coreCmd hs hi (if_pos (hbits.trans h)) hdue'
    · have h' : ¬bitsOf (c.p 1) 8 24 = 0 := hbits ▸ h
      exact ends_coreCmd hs hi ((if_neg h').trans (if_pos ⟨ht, hr⟩)) hdue'
    · have h' : ¬bitsOf (c.p 1) 8 24 = 0 := hbits ▸ h
      exact ends_coreCmd hs hi ((if_neg h').trans ((if_neg fun k => by omega).trans (if_pos ⟨ht, hsp⟩))) hdue'
    · have h' : ¬bitsOf (c.p 1) 8 24 = 0 := hbits ▸ h
      exact lasts_coreCmd hs hi ((if_neg h').trans ((if_neg fun k => by omega).trans ((if_neg fun k => k.2 hsp).trans
        (if_pos ht)))) hdue'
    · have h' : ¬bitsOf (c.p 1) 8 24 = 0 := hbits ▸ h
      refine lasts_coreCmd hs hi ((if_neg h').trans ((if_neg fun k => k.2 hr).trans ((if_neg fun k => by omega).trans
        ((if_neg (by omega)).trans (Prod.ext (if_neg ?_) rfl))))) hdue'
      exact Bool.eq_false_iff.mp hup
    · have h' : ¬bitsOf (c.p 1) 8 24 = 0 := hbits ▸ h
      have hup' : (s.dropOldest src).on F.LINK_STAT_UP = true := hup
      have hfall : (if (s.dropOldest src).on F.LINK_STAT_UP = true then (s.dropOldest src).linkFall else
          (s.dropOldest src).bringUp) = (s.dropOldest src).linkFall := if_pos hup'
      exact goes_coreCmd (t := (s.dropOldest src).linkFall) (a := .later) hs hi ((if_neg h').trans ((if_neg fun k => k.2 hr).trans
        ((if_neg fun k => by omega).trans ((if_neg (by omega)).trans (congrArg (Prod.mk · Answer.later) hfall)))))
  case testEnd =>
    intro s e errors bits hl hrun ws hws
    have hi := show execLaneTestEnd errors bits s = _ from rfl
    subst hws
    refine ⟨fun ht => goes_onCore hl hi ?_, fun ht hup => goes_onCore hl hi ?_, fun ht hup => goes_onCore hl hi ?_⟩
    · simp only [hrun, if_pos ht]
    · simp only [hrun, if_neg (Nat.not_le.mpr ht), hup, Bool.false_eq_true, if_false]
    · simp only [hrun, if_neg (Nat.not_le.mpr ht), hup, if_true]
  case noEnd =>
    exact fun s errors bits hl hdue hrun => goes_onCore_quiet hl (show execLaneTestEnd errors bits s = _ from rfl)
      (by rw [hrun]) hdue

end Sys2Proof.Machine
end

section
/-! PROOF. The issue and the retirement of stripe tasks. -/

namespace Sys2Proof.Machine
open Sys2Proof.Claims

/-- The command that an issued task puts on its loom. -/
def Task.command (k : Task) : LoomCmd := { kind := 1, bobbin := k.bobbin, token := k.token, stripe := k.stripe }

/-- The partition's record once a task has been issued to a loom. -/
def Partition.issue (x : Partition) (n : Nat) (k : Task) (slot : Nat) : Partition :=
  { x with
    ready := x.ready.filter fun t => !(t.bobbin == k.bobbin && t.token == k.token && t.stripe == k.stripe)
    issued := x.issued ++ [{ k with loom := some n, calib := x.calib.gathering }]
    stage := tset x.stage slot (k.bobbin, k.token)
    waitSeen := x.waitSeen.filter (· != (k.bobbin, k.token)) }

theorem State.showLoom_sched (s : State) (n : Nat) : (s.showLoom n).sched = s.sched := rfl

/-- Only registers differ, as an equation of states. -/
def RegsAlone (s t : State) : Prop := t = { s with regs := t.regs }

theorem regsAlone_put {s t : State} (h : RegsAlone s t) (f : Fld) (v i j : Nat) : RegsAlone s (t.put f v i j) := by
  unfold RegsAlone at *
  rw [h]
  rfl

theorem regsAlone_putBit {s t : State} (h : RegsAlone s t) (f : Fld) (b : Bool) (i j : Nat) : RegsAlone s (t.putBit f b i j) :=
  regsAlone_put h f _ i j

theorem regsAlone_peak {s t : State} (h : RegsAlone s t) (f : Fld) (v i j : Nat) : RegsAlone s (t.peak f v i j) :=
  regsAlone_put h f _ i j

theorem State.showLoom_alone (s : State) (n : Nat) : RegsAlone s (s.showLoom n) := by
  unfold State.showLoom
  extract_lets l q tags h t u v far
  have ht : RegsAlone s t := regsAlone_put (regsAlone_put (regsAlone_put (regsAlone_put (s := s) (t := s) rfl _ _ _ _) _ _ _ _) _ _ _ _) _ _ _ _
  have hu : RegsAlone s u := regsAlone_put (regsAlone_peak (regsAlone_put ht _ _ _ _) _ _ _ _) _ _ _ _
  have hv : RegsAlone s v := regsAlone_putBit (regsAlone_put (regsAlone_put hu _ _ _ _) _ _ _ _) _ _ _ _
  exact regsAlone_put (regsAlone_put hv _ _ _ _) _ _ _ _

theorem State.giveCmd_sched (s : State) (n : Nat) (c : LoomCmd) : (s.giveCmd n c).sched = s.sched := State.showLoom_sched _ n

theorem State.giveCmd_looms (s : State) (n : Nat) (c : LoomCmd) :
    (s.giveCmd n c).looms = tset s.looms n { s.loom n with cmds := (s.loom n).cmds ++ [c] } :=
  State.showLoom_looms _ n

theorem State.issueTask_eq (s : State) (p n : Nat) (k : Task) (slot : Nat) : s.issueTask p n k slot =
    (((s.setPart p ((s.part p).issue n k slot)).giveCmd n k.command).showStage p).showReady p := rfl

theorem State.issueTask_part (s : State) (p n : Nat) (k : Task) (slot : Nat) :
    (s.issueTask p n k slot).part p = (s.part p).issue n k slot := by
  rw [s.issueTask_eq]
  generalize hu : (s.setPart p ((s.part p).issue n k slot)) = u
  have hsched : (((u.giveCmd n k.command).showStage p).showReady p).sched = u.sched := u.giveCmd_sched n k.command
  rw [State.part, hsched, ← State.part, ← hu, State.part_setPart]

theorem State.issueTask_only (s : State) (p n : Nat) (k : Task) (slot : Nat) :
    s.issueTask p n k slot = { s with regs := (s.issueTask p n k slot).regs, sched := (s.issueTask p n k slot).sched,
                                      looms := (s.issueTask p n k slot).looms } := by
  have hgive : ∀ (u : State) (c : LoomCmd), ((u.giveCmd n c).showStage p).showReady p =
      { u with regs := (((u.giveCmd n c).showStage p).showReady p).regs, looms := (((u.giveCmd n c).showStage p).showReady p).looms } := by
    intro u c
    have h : RegsAlone (u.setLoom n { u.loom n with cmds := (u.loom n).cmds ++ [c] }) (((u.giveCmd n c).showStage p).showReady p) :=
      regsAlone_peak (regsAlone_put (regsAlone_put (State.showLoom_alone _ n) _ _ _ _) _ _ _ _) _ _ _ _
    unfold RegsAlone at h
    rw [h]
    rfl
  have h := hgive (s.setPart p ((s.part p).issue n k slot)) k.command
  rw [← s.issueTask_eq] at h
  generalize s.issueTask p n k slot = t at h
  have hsched : t.sched = (s.setPart p ((s.part p).issue n k slot)).sched := by rw [h]
  rw [hsched]
  exact h

theorem State.showStage_looms (s : State) (p : Nat) : (s.showStage p).looms = s.looms := rfl

theorem State.showReady_looms (s : State) (p : Nat) : (s.showReady p).looms = s.looms := rfl

theorem State.issueTask_looms (s : State) (p n : Nat) (k : Task) (slot : Nat) :
    (s.issueTask p n k slot).looms = tset s.looms n { s.loom n with cmds := (s.loom n).cmds ++ [k.command] } := by
  rw [s.issueTask_eq]
  generalize hu : s.setPart p ((s.part p).issue n k slot) = u
  rw [State.showReady_looms, State.showStage_looms, u.giveCmd_looms, ← hu]
  rfl

/-- What the issue of a task does: the partition's lists, its staging slot and the loom's command. -/
theorem State.issueTask_spec (s : State) (p n : Nat) (k : Task) (slot : Nat) :
    s.issueTask p n k slot = { s with regs := (s.issueTask p n k slot).regs, sched := (s.issueTask p n k slot).sched,
                                      looms := (s.issueTask p n k slot).looms } ∧
    ((s.issueTask p n k slot).part p).issued =
      (s.part p).issued ++ [{ k with loom := some n, calib := (s.part p).calib.gathering }] ∧
    tget? ((s.issueTask p n k slot).part p).stage slot = some (k.bobbin, k.token) ∧
    k ∉ ((s.issueTask p n k slot).part p).ready ∧
    ((s.issueTask p n k slot).loom n).cmds = (s.loom n).cmds ++ [k.command] ∧
    ∀ m, m ≠ n → tget? (s.issueTask p n k slot).looms m = tget? s.looms m := by
  have hpart := s.issueTask_part p n k slot
  have hlooms := s.issueTask_looms p n k slot
  refine ⟨s.issueTask_only p n k slot, ?_, ?_, ?_, ?_, fun m hm => ?_⟩
  · rw [hpart]; rfl
  · rw [hpart]; exact tget?_tset_same _ _ _
  · rw [hpart, Partition.issue, List.mem_filter]; simp
  · rw [State.loom, hlooms, tgetD, tget?_tset_same]
  · rw [hlooms, tget?_tset_other _ _ hm]

/-- A stripe vector has the layer's length, and holds what was stored unless the task is spoilt. -/
theorem Task.vector_spec (k : Task) (im : Config.Image) (store : Nat) : (k.vector im store).length = 4 * dimOf im ∧
    (k.spoilt = true → ∀ b ∈ k.vector im store, b = none) ∧
    (k.spoilt = false → ∀ i, i < 4 * dimOf im → (k.vector im store).getD i none = (tgetD k.outs store []).getD i none) := by
  refine ⟨?_, fun h b hb => ?_, fun h i hi => ?_⟩
  · unfold Task.vector
    dsimp only
    split
    · simp
    · simp only [List.length_append, List.length_replicate, List.length_take]; omega
  · unfold Task.vector at hb
    dsimp only at hb
    rw [if_pos h] at hb
    exact (List.mem_replicate.mp (by simpa using hb)).2
  · unfold Task.vector
    dsimp only
    rw [if_neg (by rw [h]; decide)]
    generalize tgetD k.outs store [] = d
    simp only [List.getD_eq_getElem?_getD]
    by_cases hd : i < d.length
    · rw [List.getElem?_append_left (by rw [List.length_take]; omega), List.getElem?_take_of_lt hi]
    · rw [List.getElem?_append_right (by rw [List.length_take]; omega), List.getElem?_eq_none (l := d) (by omega),
        List.getElem?_replicate]
      split <;> rfl

/-- Settles O36: which task a loom takes, what its issue and its retirement change, and when neither happens. -/
theorem stripeTasks : Obligations.StripeTasks := by
  unfold Obligations.StripeTasks
  refine ⟨?issue, ?wait, fun s p n => rfl, ?seen, Task.vector_spec, ?again, ?noIssue, ?retire, ?noRetire,
    fun s h => State.settle_none h⟩
  case issue =>
    intro s p n k q slot hl hjob hloom hroom hdue horder hslot
    obtain ⟨honly, hissued, hstage, hready, hcmds, hlooms⟩ := s.issueTask_spec p.val n.val k slot
    refine ⟨s.issueTask p.val n.val k slot, goes_onDevice hl (show execStripeTaskIssue p n s = _ from rfl) ?_,
      honly, hissued, hstage, hready, hcmds, hlooms⟩
    refine (if_pos ⟨hjob, hloom, hroom, hdue⟩).trans ?_
    rw [horder, State.issueFirst, hslot]
  case wait =>
    intro s p n hl hjob hloom hroom hdue
    refine ⟨fun h => ?_, fun k q h hslot => ?_⟩
    · refine goes_onDevice hl (show execStripeTaskIssue p n s = _ from rfl) ((if_pos ⟨hjob, hloom, hroom, hdue⟩).trans ?_)
      rw [h]; rfl
    · refine goes_onDevice hl (show execStripeTaskIssue p n s = _ from rfl) ((if_pos ⟨hjob, hloom, hroom, hdue⟩).trans ?_)
      rw [h, State.issueFirst, hslot]
  case again => exact fun k => ⟨rfl, rfl, rfl⟩
  case seen => exact fun s p k h => if_pos h
  case noIssue =>
    intro s p n hl h
    refine goes_onDevice hl (show execStripeTaskIssue p n s = _ from rfl) (if_neg fun ⟨hjob, hloom, hroom, hdue⟩ => ?_)
    rcases h with h | h | h | h
    · exact h hjob
    · omega
    · rw [hloom] at h; exact absurd h (by decide)
    · rw [hdue] at h; exact absurd h (by decide)
  case retire =>
    intro s n b token stripe o k hl hk hruns hway hstored
    refine goes_onCore hl (show execStripeTaskRetire n b token stripe o s = _ from rfl) ?_
    dsimp only
    rw [hk]
    exact if_pos (by rw [hruns, hway, hstored]; rfl)
  case noRetire =>
    intro s n b token stripe o hl h
    refine goes_onCore hl (show execStripeTaskRetire n b token stripe o s = _ from rfl) ?_
    dsimp only
    cases hk : (s.part (s.bob b.val).partition).issued.find? fun t =>
        t.loom == some n.val && t.bobbin == b.val && t.token == token && t.stripe == stripe with
    | none => rfl
    | some k =>
      refine if_neg ?_
      rcases h k hk with h | h | h <;> simp [h]

end Sys2Proof.Machine
end

section
/-! Steps that leave what a bobbin was created with, its state, the eject table's mirror and the registers of serial and of counts. -/
namespace Sys2Proof.Machine
open Sys2Proof.Claims

/-- What a bobbin is created with. -/
def Bobbin.core (b : Bobbin) : Nat × Int × Int × Int × Option Nat × Nat × Nat × Nat :=
  (b.serial, b.wstart, b.eject, b.close, b.entry, b.mask, b.enc, b.provAct)

/-- Every bobbin keeps what it was created with, and its state unless it is OPEN, and the memories, the field unit, the field die and the two registers are as before. -/
structure BobKept (s t : State) : Prop where
  mem : t.mem = s.mem
  die : t.die = s.die
  field : t.field = s.field
  last : t.lastBob = s.lastBob
  core : ∀ i, (t.bob i).core = (s.bob i).core
  state : ∀ i, (s.bob i).state ≠ .open → (t.bob i).state = (s.bob i).state
  regs : ∀ a ∈ [R.BOB_SERIAL.addr 0 0, R.BOB_CNT.addr 0 0], tget? t.regs a = tget? s.regs a

/-- The registers whose write leaves the two, whatever the index where it is left open. -/
def Reg.bobClear (r : Reg) (i j : Nat) : Bool :=
  decide (0x3F00900014 ≤ r.base) ||
  ((r.stride == 0x100 || r.stride == 0x1000) && r.stride2 == 0 && r.base % 0x100 != 0x04 && r.base % 0x100 != 0x10) ||
  (i == 0 && j == 0 && r.base != 0x3F00900004 && r.base != 0x3F00900010)

def BobClear (f : Fld) (i j : Nat) : Prop := f.reg.bobClear i j = true

theorem Reg.bobClear_ne {r : Reg} {i j : Nat} (h : r.bobClear i j = true) :
    ∀ a ∈ [R.BOB_SERIAL.addr 0 0, R.BOB_CNT.addr 0 0], a ≠ r.addr i j := by
  simp only [Reg.bobClear, Bool.or_eq_true, Bool.and_eq_true, decide_eq_true_eq, beq_iff_eq, bne_iff_ne] at h
  simp only [List.forall_mem_cons, List.not_mem_nil, false_implies, implies_true, and_true, Reg.addr, R.BOB_SERIAL, R.BOB_CNT]
  rcases h with (h | h) | h
  · constructor <;> omega
  · obtain ⟨⟨⟨hs, h2⟩, h3⟩, h4⟩ := h
    rcases hs with hs | hs <;> rw [hs, h2] <;> constructor <;> omega
  · obtain ⟨⟨⟨hi, hj⟩, h3⟩, h4⟩ := h
    rw [hi, hj]
    constructor <;> omega

theorem bobKept_refl (s : State) : BobKept s s := ⟨rfl, rfl, rfl, rfl, fun _ => rfl, fun _ _ => rfl, fun _ _ => rfl⟩

theorem BobKept.trans {r s t : State} (h : BobKept r s) (k : BobKept s t) : BobKept r t :=
  ⟨k.mem.trans h.mem, k.die.trans h.die, k.field.trans h.field, k.last.trans h.last, fun i => (k.core i).trans (h.core i),
    fun i hi => (k.state i (by rw [h.state i hi]; exact hi)).trans (h.state i hi),
    fun a ha => (k.regs a ha).trans (h.regs a ha)⟩

/-- A change of none of the records and registers that the relation speaks of. -/
theorem bobKept_of {r s t : State} (h : BobKept r s) (hm : t.mem = s.mem) (hd : t.die = s.die) (hf : t.field = s.field)
    (hl : t.lastBob = s.lastBob) (hb : t.bobs = s.bobs) (hr : t.regs = s.regs) : BobKept r t :=
  h.trans ⟨hm, hd, hf, hl, fun i => by rw [State.bob, hb, State.bob], fun i _ => by rw [State.bob, hb, State.bob],
    fun a _ => by rw [hr]⟩

theorem bobKept_latch {r s : State} (h : BobKept r s) (x : Tbl Word) : BobKept r { s with latch := x } := bobKept_of h rfl rfl rfl rfl rfl rfl
theorem bobKept_i3c {r s : State} (h : BobKept r s) (x : I3c) : BobKept r { s with i3c := x } := bobKept_of h rfl rfl rfl rfl rfl rfl
theorem bobKept_host {r s : State} (h : BobKept r s) (x : HostLink) : BobKept r { s with host := x } := bobKept_of h rfl rfl rfl rfl rfl rfl
theorem bobKept_snap {r s : State} (h : BobKept r s) (x : SnapUnit) : BobKept r { s with snap := x } := bobKept_of h rfl rfl rfl rfl rfl rfl
theorem bobKept_time {r s : State} (h : BobKept r s) (x : TimeUnit) : BobKept r { s with time := x } := bobKept_of h rfl rfl rfl rfl rfl rfl
theorem bobKept_link {r s : State} (h : BobKept r s) (x : LinkUnit) : BobKept r { s with link := x } := bobKept_of h rfl rfl rfl rfl rfl rfl
theorem bobKept_cams {r s : State} (h : BobKept r s) (x : Tbl CamPort) : BobKept r { s with cams := x } := bobKept_of h rfl rfl rfl rfl rfl rfl
theorem bobKept_pipes {r s : State} (h : BobKept r s) (x : Tbl Pipe) : BobKept r { s with pipes := x } := bobKept_of h rfl rfl rfl rfl rfl rfl
theorem bobKept_rules {r s : State} (h : BobKept r s) (x : Tbl Rule) : BobKept r { s with rules := x } := bobKept_of h rfl rfl rfl rfl rfl rfl
theorem bobKept_looms {r s : State} (h : BobKept r s) (x : Tbl Loom) : BobKept r { s with looms := x } := bobKept_of h rfl rfl rfl rfl rfl rfl
theorem bobKept_sched {r s : State} (h : BobKept r s) (x : Sched) : BobKept r { s with sched := x } := bobKept_of h rfl rfl rfl rfl rfl rfl
theorem bobKept_twin {r s : State} (h : BobKept r s) (x : Twin) : BobKept r { s with twin := x } := bobKept_of h rfl rfl rfl rfl rfl rfl
theorem bobKept_tdcSeen {r s : State} (h : BobKept r s) (x : Bool) : BobKept r { s with tdcSeen := x } := bobKept_of h rfl rfl rfl rfl rfl rfl
theorem bobKept_freeUse {r s : State} (h : BobKept r s) (x : Nat) : BobKept r { s with freeUse := x } := bobKept_of h rfl rfl rfl rfl rfl rfl

/-- A write of a register at another address. -/
theorem bobKept_putAt {r s : State} (h : BobKept r s) (f : Fld) (v i j : Nat)
    (hf : ∀ a ∈ [R.BOB_SERIAL.addr 0 0, R.BOB_CNT.addr 0 0], a ≠ f.reg.addr i j) : BobKept r (s.put f v i j) :=
  h.trans ⟨rfl, rfl, rfl, rfl, fun _ => rfl, fun _ _ => rfl, fun a ha => tget?_setReg _ _ _ _ _ _ (hf a ha)⟩

theorem bobKept_put {r s : State} (h : BobKept r s) (f : Fld) (v i j : Nat) (hf : BobClear f i j) : BobKept r (s.put f v i j) :=
  bobKept_putAt h f v i j (Reg.bobClear_ne hf)

theorem bobKept_putBit {r s : State} (h : BobKept r s) (f : Fld) (b : Bool) (i j : Nat) (hf : BobClear f i j) :
    BobKept r (s.putBit f b i j) := bobKept_put h f _ i j hf
theorem bobKept_bumpBy {r s : State} (h : BobKept r s) (f : Fld) (n i j : Nat) (hf : BobClear f i j) :
    BobKept r (s.bumpBy f n i j) := bobKept_put h f _ i j hf
theorem bobKept_bump {r s : State} (h : BobKept r s) (f : Fld) (i j : Nat) (hf : BobClear f i j) :
    BobKept r (s.bump f i j) := bobKept_put h f _ i j hf
theorem bobKept_bumpWrap {r s : State} (h : BobKept r s) (f : Fld) (n i j : Nat) (hf : BobClear f i j) :
    BobKept r (s.bumpWrap f n i j) := bobKept_put h f _ i j hf
theorem bobKept_peak {r s : State} (h : BobKept r s) (f : Fld) (v i j : Nat) (hf : BobClear f i j) :
    BobKept r (s.peak f v i j) := bobKept_put h f _ i j hf

/-- A bobbin's record that keeps what it was created with. -/
theorem bobKept_setBob {r s : State} (h : BobKept r s) (id : Nat) (b : Bobbin) (hb : b.core = (s.bob id).core)
    (hs : b.state = (s.bob id).state) : BobKept r (s.setBob id b) := by
  refine h.trans ⟨rfl, rfl, rfl, rfl, fun i => ?_, fun i _ => ?_, fun _ _ => rfl⟩ <;> by_cases hi : i = id
  · subst hi; rw [State.bob_setBob]; exact hb
  · rw [State.bob_setBob_other _ _ hi]
  · subst hi; rw [State.bob_setBob]; exact hs
  · rw [State.bob_setBob_other _ _ hi]

theorem bobKept_ite {c : Prop} [Decidable c] {r s t : State} (hs : BobKept r s) (ht : BobKept r t) :
    BobKept r (if c then s else t) := by
  split
  · exact hs
  · exact ht

theorem bobKept_ite_fst {α : Type} {c : Prop} [Decidable c] {r : State} {x y : State × α} (hx : BobKept r x.1)
    (hy : BobKept r y.1) : BobKept r (if c then x else y).1 := by
  split
  · exact hx
  · exact hy

theorem bobKept_foldState {α : Type} {r : State} {f : State → α → State} (hf : ∀ s a, BobKept r s → BobKept r (f s a))
    {s : State} (h : BobKept r s) (l : List α) : BobKept r (foldState f s l) := foldState_keeps (P := BobKept r) hf h l

theorem bobKept_timesFrom {r : State} {f : State → Nat → State} (hf : ∀ s i, BobKept r s → BobKept r (f s i))
    {s : State} (h : BobKept r s) (n i : Nat) : BobKept r (timesFrom f n i s) := timesFrom_keeps (P := BobKept r) hf h n i

end Sys2Proof.Machine
end

section
/-! The relation above, function by function: the end of a bobbin's compute, its creation, and the mirror's messages. -/
namespace Sys2Proof.Machine
open Sys2Proof.Claims

theorem foldState_keeps_mem {σ α : Type} {f : σ → α → σ} {P : σ → Prop} {l : List α} (h : ∀ s, ∀ a ∈ l, P s → P (f s a)) {s : σ}
    (hs : P s) : P (foldState f s l) := by
  induction l generalizing s with
  | nil => exact hs
  | cons a l ih => exact ih (fun t b hb => h t b (List.mem_cons_of_mem a hb)) (h s a List.mem_cons_self hs)

theorem bobKept_setCredits {r s : State} (h : BobKept r s) (vl n : Nat) : BobKept r (s.setCredits vl n) := by
  unfold State.setCredits
  exact bobKept_put (bobKept_link h _) _ _ _ _ (by rfl)

theorem bobKept_startFrame {r s : State} (h : BobKept r s) (f : RzFrame) : BobKept r (s.startFrame f) := by
  unfold State.startFrame
  exact bobKept_setCredits (bobKept_bumpBy (bobKept_link h _) _ _ _ _ (by rfl)) _ _

theorem bobKept_pumpList {r s : State} (h : BobKept r s) (l : List RzFrame) (blocked : List Nat) : BobKept r
    (s.pumpList l
    blocked) := by
  induction l generalizing s blocked with
  | nil => exact h
  | cons f t ih =>
    unfold State.pumpList
    split
    · exact ih (bobKept_startFrame (bobKept_link h _) _) _
    · exact ih h _

theorem bobKept_pump {r s : State} (h : BobKept r s) : BobKept r s.pump := by
  unfold State.pump
  exact bobKept_ite (bobKept_pumpList h _ _) h

theorem bobKept_linkSend {r s : State} (h : BobKept r s) (kind vl : Nat) (payload : List Word) (poison : List Nat) :
    BobKept r (s.linkSend kind vl payload poison) := by
  unfold State.linkSend
  exact bobKept_pump (bobKept_link h _)

theorem bobKept_setCam {r s : State} (h : BobKept r s) (p : Nat) (c : CamPort) : BobKept r (s.setCam p c) := by
  unfold State.setCam
  exact bobKept_cams h _

theorem bobKept_setPipe {r s : State} (h : BobKept r s) (q : Nat) (x : Pipe) : BobKept r (s.setPipe q x) := by
  unfold State.setPipe
  exact bobKept_pipes h _

theorem bobKept_setLoom {r s : State} (h : BobKept r s) (n : Nat) (x : Loom) : BobKept r (s.setLoom n x) := by
  unfold State.setLoom
  exact bobKept_looms h _

theorem bobKept_setPart {r s : State} (h : BobKept r s) (p : Nat) (x : Partition) : BobKept r (s.setPart p x) := by
  unfold State.setPart
  exact bobKept_sched h _

theorem bobKept_showLoom {r s : State} (h : BobKept r s) (n : Nat) : BobKept r (s.showLoom n) := by
  unfold State.showLoom
  exact bobKept_put (bobKept_put (bobKept_putBit (bobKept_put (bobKept_put (bobKept_put (bobKept_peak (bobKept_put
      (bobKept_put (bobKept_put (bobKept_put (bobKept_put h _ _ _ _ (by rfl)) _ _ _ _ (by rfl)) _ _ _ _ (by rfl)) _ _
      _ _ (by rfl)) _ _ _ _ (by rfl)) _ _ _ _ (by rfl)) _ _ _ _ (by rfl)) _ _ _ _ (by rfl)) _ _ _ _ (by rfl)) _ _ _ _
      (by rfl)) _ _ _ _ (by rfl)) _ _ _ _ (by rfl)

theorem bobKept_mapLoom {r s : State} (h : BobKept r s) (n : Nat) (f : Loom → Loom) : BobKept r (s.mapLoom n f) := by
  unfold State.mapLoom
  exact bobKept_showLoom (bobKept_setLoom h _ _) _

theorem bobKept_showPort {r s : State} (h : BobKept r s) (p : Nat) (hp : p < 17) : BobKept r (s.showPort p) := by
  unfold State.showPort
  refine bobKept_putAt (bobKept_putBit h _ _ _ _ (by rfl)) _ _ _ _ fun a ha => ?_
  have hown : F.SYS_OWN_IN_USE.reg.addr (45 + p) 0 < 0x3F00700000 := sysOwn_addr_lt (by omega)
  simp only [List.mem_cons, List.not_mem_nil, or_false] at ha
  rcases ha with rfl | rfl
  · exact Nat.ne_of_gt (Nat.lt_of_lt_of_le hown (by decide))
  · exact Nat.ne_of_gt (Nat.lt_of_lt_of_le hown (by decide))

theorem bobKept_showSlots {r s : State} (h : BobKept r s) (p : Nat) : BobKept r (s.showSlots p) := by
  unfold State.showSlots
  exact bobKept_peak (bobKept_put h _ _ _ _ (by rfl)) _ _ _ _ (by rfl)

theorem bobKept_showOuts {r s : State} (h : BobKept r s) (q : Nat) : BobKept r (s.showOuts q) := by
  unfold State.showOuts
  exact bobKept_peak (bobKept_put h _ _ _ _ (by rfl)) _ _ _ _ (by rfl)

theorem bobKept_sweep {r s : State} (h : BobKept r s) (p : Nat) (hp : p < 17) : BobKept r (s.sweep p) := by
  unfold State.sweep
  exact bobKept_showPort (bobKept_timesFrom (fun s _ k => bobKept_showOuts k _) (bobKept_showSlots (bobKept_setCam h
      _ _) _) _ _) _ hp

theorem bobKept_mapLines {r s : State} (h : BobKept r s) (p : Nat) (f : Line → Line) (hp : p < 17) : BobKept r
    (s.mapLines p f) := by
  unfold State.mapLines
  exact bobKept_sweep (bobKept_setCam h _ _) _ hp

theorem bobKept_showReady {r s : State} (h : BobKept r s) (p : Nat) : BobKept r (s.showReady p) := by
  unfold State.showReady
  exact bobKept_peak (bobKept_put h _ _ _ _ (by rfl)) _ _ _ _ (by rfl)

theorem bobKept_wake {r s : State} (h : BobKept r s) (id : Nat) : BobKept r (s.wake id) := by
  unfold State.wake
  exact bobKept_ite (bobKept_showReady (bobKept_setPart (bobKept_setBob h _ _ (by rfl) (by rfl)) _ _) _) h

theorem bobKept_closeInput {r s : State} (h : BobKept r s) (id : Nat) : BobKept r (s.closeInput id) := by
  unfold State.closeInput
  dsimp only
  split
  case isFalse => exact h
  case isTrue hopen =>
    refine h.trans ⟨rfl, rfl, rfl, rfl, fun i => ?_, fun i hi => ?_, fun _ _ => rfl⟩ <;> by_cases hid : i = id
    · subst hid; rw [State.bob_setBob]; rfl
    · rw [State.bob_setBob_other _ _ hid]
    · subst hid; exact absurd hopen.1 hi
    · rw [State.bob_setBob_other _ _ hid]

theorem bobKept_placeFor {r s : State} (h : BobKept r s) (p : Nat) (lo hi : Int) (id : Nat) : BobKept r (s.placeFor p
    lo hi id) := by
  unfold State.placeFor
  exact bobKept_closeInput (bobKept_wake (bobKept_setBob h _ _ (by rfl) (by rfl)) _) _

theorem bobKept_markHole {r s : State} (h : BobKept r s) (p id : Nat) : BobKept r (s.markHole p id) := by
  unfold State.markHole
  exact bobKept_ite h (bobKept_setBob h _ _ (by rfl) (by rfl))

theorem bobKept_markStood {r s : State} (h : BobKept r s) (id : Nat) : BobKept r (s.markStood id) := by
  unfold State.markStood
  exact bobKept_setBob h _ _ (by rfl) (by rfl)

theorem bobKept_pageFreed {r s : State} (h : BobKept r s) (p : Nat) : BobKept r (s.pageFreed p) := by
  have hat : ∀ i, ((s.pageFreed p).bob i).core = (s.bob i).core ∧ ((s.pageFreed p).bob i).state = (s.bob i).state :=
      by
    intro i
    unfold State.pageFreed State.bob tgetD
    dsimp only
    rw [tget?_map_vals fun e => by split <;> rfl]
    cases tget? s.bobs i with
    | none => exact ⟨rfl, rfl⟩
    | some b =>
      dsimp only [Option.map_some]
      split <;> exact ⟨rfl, rfl⟩
  exact h.trans ⟨rfl, rfl, rfl, rfl, fun i => (hat i).1, fun i _ => (hat i).2, fun _ _ => rfl⟩

theorem bobKept_freePages {r s : State} (h : BobKept r s) (id : Nat) : BobKept r (s.freePages id) := by
  unfold State.freePages
  exact bobKept_put (bobKept_ite (bobKept_setPart (bobKept_setBob h _ _ (by rfl) (by rfl)) _ _) (bobKept_pageFreed
      (bobKept_setPart (bobKept_setBob h _ _ (by rfl) (by rfl)) _ _) _)) _ _ _ _ (by rfl)

theorem bobKept_freeStage {r s : State} (h : BobKept r s) (id : Nat) (which : Nat → Bool) : BobKept r (s.freeStage id
    which) := by
  unfold State.freeStage
  exact bobKept_put (bobKept_setPart h _ _) _ _ _ _ (by rfl)

theorem bobKept_discardTasks {r s : State} (h : BobKept r s) (id : Nat) : BobKept r (s.discardTasks id) := by
  unfold State.discardTasks
  exact bobKept_showReady (bobKept_bumpBy (bobKept_foldState (fun _ a k => bobKept_mapLoom k _ _) (bobKept_setPart h
      _ _) _) _ _ _ _ (by rfl)) _

theorem bobKept_releaseAll {r s : State} (h : BobKept r s) (id : Nat) : BobKept r (s.releaseAll id) := by
  unfold State.releaseAll
  exact foldState_keeps_mem (P := BobKept r) (fun t p hp k => bobKept_mapLines k _ _ (mem_maskList.mp hp).1) h

theorem bobKept_endCompute {r s : State} (h : BobKept r s) (id : Nat) : BobKept r (s.endCompute id) := by
  unfold State.endCompute
  exact bobKept_ite h (bobKept_ite (bobKept_freeStage (bobKept_discardTasks (bobKept_releaseAll (bobKept_setBob h _ _
      (by rfl) (by rfl)) _) _) _ _) (bobKept_freePages (bobKept_freeStage (bobKept_discardTasks (bobKept_releaseAll
      (bobKept_setBob h _ _ (by rfl) (by rfl)) _) _) _ _) _))

theorem bobKept_showBobs {r s : State} (h : BobKept r s) : BobKept r s.showBobs := by
  unfold State.showBobs
  exact bobKept_put (bobKept_put h _ _ _ _ (by rfl)) _ _ _ _ (by rfl)

theorem bobKept_mirror {r s : State} (h : BobKept r s) (code : Nat) (ws : List Word) : BobKept r (s.mirror code ws)
    := by
  unfold State.mirror
  exact bobKept_ite (bobKept_linkSend h _ _ _ _) h

theorem bobKept_takeStored {r s : State} (h : BobKept r s) (id p : Nat) : BobKept r (s.takeStored id p) := by
  unfold State.takeStored
  exact bobKept_foldState (fun _ a k => bobKept_placeFor k _ _ _ _) (bobKept_setCam h _ _) _

theorem bobKept_takeHoles {r s : State} (h : BobKept r s) (id p : Nat) : BobKept r (s.takeHoles id p) := by
  unfold State.takeHoles
  dsimp only
  split
  · exact bobKept_ite (bobKept_ite (bobKept_placeFor (bobKept_markHole (bobKept_markStood (bobKept_foldState (fun _ a
        k => bobKept_ite (bobKept_placeFor (bobKept_markHole k _ _) _ _ _ _) k) h _) _) _ _) _ _ _ _)
        (bobKept_markStood (bobKept_foldState (fun _ a k => bobKept_ite (bobKept_placeFor (bobKept_markHole k _ _) _
        _ _ _) k) h _) _)) (bobKept_foldState (fun _ a k => bobKept_ite (bobKept_placeFor (bobKept_markHole k _ _) _
        _ _ _) k) h _)
  · exact bobKept_foldState (fun _ a k => bobKept_ite (bobKept_placeFor (bobKept_markHole k _ _) _ _ _ _) k) h _

theorem bobKept_takeFloor {r s : State} (h : BobKept r s) (id p : Nat) : BobKept r (s.takeFloor id p) := by
  unfold State.takeFloor
  dsimp only
  split
  · exact bobKept_ite (bobKept_placeFor (bobKept_markHole (bobKept_setBob h _ _ (by rfl) (by rfl)) _ _) _ _ _ _)
        (bobKept_setBob h _ _ (by rfl) (by rfl))
  · exact h

theorem bobKept_tapCount {r s : State} (h : BobKept r s) (e : TapSet) : BobKept r (s.tapCount e).1 := by
  unfold State.tapCount
  exact bobKept_setPipe h _ _

theorem bobKept_tapCreated {r s : State} (h : BobKept r s) (id p : Nat) (e : TapSet) : BobKept r (s.tapCreated id p
    e) := by
  unfold State.tapCreated
  exact bobKept_ite (bobKept_ite (bobKept_setPipe (bobKept_tapCount h _) _ _) (bobKept_tapCount h _)) h

theorem bobKept_tapsCreated {r s : State} (h : BobKept r s) (id : Nat) : BobKept r (s.tapsCreated id) := by
  unfold State.tapsCreated
  exact bobKept_foldState (fun _ a k => bobKept_foldState (fun _ a k' => bobKept_tapCreated k' _ _ _) k _) h _

end Sys2Proof.Machine
end

section
/-! PROOF. Parts found, the bobbins they create, and bobbins that age out. -/

namespace Sys2Proof.Machine
open Sys2Proof.Claims

/-- A field reads alike where its register's word is alike. -/
theorem State.get_of_word {s t : State} {f : Fld} {i j : Nat} (h : tget? t.regs (f.reg.addr i j) = tget? s.regs (f.reg.addr i j)) :
    t.get f i j = s.get f i j := by
  unfold State.get State.reg
  rw [h]

theorem State.count?_setRule (s : State) (r : Nat) (x : Rule) (c : Nat) : (s.setRule r x).count? c = s.count? c := rfl

/-! ### Creation (R17, R126 to R131) -/

/-- The device's record of a bobbin's entry. -/
def Bobbin.devEntry (b : Bobbin) (id : Nat) : DevEntry := { bobbin := some id, standby := false, mask := b.mask, enc := b.enc }

/-- The state in which a bobbin has been recorded and its entry sent, before it takes the lines that are stored already. -/
def State.recorded (s : State) (e id : Nat) (b : Bobbin) : State :=
  (({ s with lastBob := id }.setBob id b).put F.BOB_SERIAL_NEXT (b.serial + 1)).showBobs.sendEntry e (b.devEntry id) id b.provAct
    (s.laneCfg F.BOB_LANE_CFG_UNIT b.lane != 0) (s.laneCfg F.BOB_LANE_CFG_WIDTH b.lane) s.lead b.eject

/-- Sending an entry puts its three messages on the queue, and beside the table's registers changes nothing else. -/
theorem State.sendEntry_spec (s : State) (e : Nat) (d : DevEntry) (id prov : Nat) (us : Bool) (width lead : Nat) (eject : Int) :
    (s.sendEntry e d id prov us width lead eject).field.link.queue = s.field.link.queue ++
      [.entryA e id d.mask d.enc prov us, .entryB (unsigned 48 eject % 2 ^ 40), .entryC (unsigned 48 eject / 2 ^ 40) lead width] ∧
    (s.sendEntry e d id prov us width lead eject).mem = s.mem ∧
    (s.sendEntry e d id prov us width lead eject).bobs = s.bobs ∧
    (s.sendEntry e d id prov us width lead eject).lastBob = s.lastBob ∧
    (s.sendEntry e d id prov us width lead eject).get F.BOB_SERIAL_NEXT = s.get F.BOB_SERIAL_NEXT := by
  refine ⟨?_, rfl, rfl, rfl, ?_⟩
  · show ((s.field.link.queue ++ [_]) ++ [_]) ++ [_] = _
    simp only [List.append_assoc, List.cons_append, List.nil_append]
  · unfold State.sendEntry State.showTable
    refine State.get_of_word ?_
    exact (tget?_setReg _ _ _ _ _ _ (by decide)).trans (tget?_setReg _ _ _ _ _ _ (by decide))

theorem State.recorded_spec (s : State) (e id : Nat) (b : Bobbin) (hs : b.serial = s.get F.BOB_SERIAL_NEXT) :
    (s.recorded e id b).bob id = b ∧ (s.recorded e id b).lastBob = id ∧ (s.recorded e id b).mem = s.mem ∧
    (s.recorded e id b).get F.BOB_SERIAL_NEXT = (s.get F.BOB_SERIAL_NEXT + 1) % 2 ^ 32 ∧
    (s.recorded e id b).field.link.queue = s.field.link.queue ++ [.entryA e id b.mask b.enc b.provAct
        (s.laneCfg F.BOB_LANE_CFG_UNIT b.lane != 0), .entryB (unsigned 48 b.eject % 2 ^ 40),
      .entryC (unsigned 48 b.eject / 2 ^ 40) s.lead (s.laneCfg F.BOB_LANE_CFG_WIDTH b.lane)] := by
  have hput : (({ s with lastBob := id }.setBob id b).put F.BOB_SERIAL_NEXT (b.serial + 1)).get F.BOB_SERIAL_NEXT =
      (s.get F.BOB_SERIAL_NEXT + 1) % 2 ^ 32 := by rw [State.get_put _ _ _ _ _ (by decide), hs]; rfl
  unfold State.recorded
  generalize hu : ({ s with lastBob := id }.setBob id b).put F.BOB_SERIAL_NEXT (b.serial + 1) = u at hput
  have hbobs : u.bobs = tset s.bobs id b := by rw [← hu]; rfl
  have hlast : u.lastBob = id := by rw [← hu]; rfl
  have hmem : u.mem = s.mem := by rw [← hu]; rfl
  have hfield : u.field = s.field := by rw [← hu]; rfl
  have hshow := bobKept_showBobs (bobKept_refl u)
  have hshown : u.showBobs.bobs = u.bobs := rfl
  generalize u.showBobs = v at hshow hshown
  obtain ⟨hqueue, hm, hb, hl, hserial⟩ := v.sendEntry_spec e (b.devEntry id) id b.provAct
    (s.laneCfg F.BOB_LANE_CFG_UNIT b.lane != 0) (s.laneCfg F.BOB_LANE_CFG_WIDTH b.lane) s.lead b.eject
  refine ⟨?_, ?_, ?_, ?_, ?_⟩
  · rw [State.bob, hb, hshown, hbobs, tgetD, tget?_tset_same]
  · rw [hl, hshow.last, hlast]
  · rw [hm, hshow.mem, hmem]
  · rw [hserial, State.get_of_word (hshow.regs _ (by decide)), hput]
  · rw [hqueue, hshow.field, hfield]; rfl

/-- After its entry has been sent, a bobbin takes what is stored already: its record keeps what it was created with. -/
theorem State.createBob_kept (s : State) (r id e : Nat) (w : Int) :
    BobKept (s.recorded e id (s.newBobbin r e w)) (s.createBob r id e w) := by
  unfold State.createBob
  exact bobKept_mirror (bobKept_tapsCreated (bobKept_foldState (fun _ _ k => bobKept_takeStored (bobKept_takeHoles
    (bobKept_takeFloor k _ _) _ _) _ _) (bobKept_refl _) _) _) _ _

/-! ### Ageing (R123) -/

theorem BobKept.cnt {s t : State} (h : BobKept s t) : t.get F.BOB_CNT_AGED = s.get F.BOB_CNT_AGED :=
  State.get_of_word (h.regs _ (by decide))

theorem State.retireBob_cnt (s : State) (id : Nat) : (s.retireBob id).get F.BOB_CNT_AGED = s.get F.BOB_CNT_AGED := by
  unfold State.retireBob
  rw [(bobKept_mirror (bobKept_refl ((s.endCompute id).freeBob id)) 4 [w32 id]).cnt]
  unfold State.freeBob
  rw [(bobKept_showBobs (bobKept_refl _)).cnt, ← (bobKept_endCompute (bobKept_refl s) id).cnt]
  rfl

/-- The entry of a bobbin stands without it. -/
def State.orphaned (s : State) (id : Nat) : State :=
  let f := fun (e : Nat × DevEntry) => if e.2.bobbin = some id then (e.1, { e.2 with bobbin := none }) else e
  { s with field := { s.field with table := s.field.table.map f } }

theorem State.ageOut_eq (s : State) (id : Nat) : s.ageOut id = ((s.orphaned id).retireBob id).bump F.BOB_CNT_AGED := rfl

theorem State.orphaned_table {s : State} {id : Nat} : ∀ e ∈ (s.orphaned id).field.table, e.2.bobbin ≠ some id := by
  intro e he
  obtain ⟨x, -, rfl⟩ := List.mem_map.mp he
  dsimp only
  split
  · simp
  · assumption

theorem State.ageOut_spec {s : State} (hsort : tsorted s.bobs = true) (id : Nat) : ((s.ageOut id).bob id).state = .free ∧
    (∀ e ∈ (s.ageOut id).field.table, e.2.bobbin ≠ some id) ∧ (s.ageOut id).die = s.die ∧
    (s.ageOut id).get F.BOB_CNT_AGED = min (s.get F.BOB_CNT_AGED + 1) 255 := by
  have htable := s.orphaned_table (id := id)
  have hcnt0 : (s.orphaned id).get F.BOB_CNT_AGED = s.get F.BOB_CNT_AGED := rfl
  have hdie0 : (s.orphaned id).die = s.die := rfl
  obtain ⟨hstate, hdie, hfield⟩ := State.retireBob_free (s := s.orphaned id) hsort id
  have hcnt := (s.orphaned id).retireBob_cnt id
  rw [s.ageOut_eq]
  generalize (s.orphaned id).retireBob id = u at hstate hdie hfield hcnt
  refine ⟨hstate, fun e he => htable e (by rw [← hfield]; exact he), hdie.trans hdie0, ?_⟩
  rw [State.bump, State.get_bumpBy _ _ _ _ _ (by decide), hcnt, hcnt0]
  rfl

/-- The age limit after a write of its register. -/
theorem State.ageLimit_merge (s : State) (v : Nat) : (s.mergeReg R.BOB_AGE_LIMIT v).get F.BOB_AGE_LIMIT_MS = v % 2 ^ 16 := by
  show bitsOf ((s.setReg R.BOB_AGE_LIMIT _).reg R.BOB_AGE_LIMIT) 0 16 = _
  rw [State.reg_setReg, Reg.bitsOf_merge _ _ _ (by decide) (by decide) rfl rfl rfl (by decide), bitsOf, pow_zero, Nat.div_one]

/-- Settles O28: what triggers find, which bobbin is next, what its creation leaves, and which bobbins age out. -/
theorem parts : Obligations.Parts := by
  unfold Obligations.Parts
  refine ⟨?trigger, ?early, ?untracked, ?next, ?expire, ?stay, ?limit, ?create⟩
  case trigger =>
    intro s r m k hl hen hsrc hnext hcount hle
    refine goes_onDevice hl (show execPitchTrigger r s = _ from rfl) ?_
    unfold State.pitchStep
    dsimp only
    rw [hnext, hcount]
    exact if_pos (by simp [hen, hsrc, hle])
  case early =>
    intro s r m k hl hnext hcount hlt
    refine goes_onDevice hl (show execPitchTrigger r s = _ from rfl) ?_
    unfold State.pitchStep
    dsimp only
    rw [hnext, hcount]
    exact if_neg (by simp [hlt])
  case untracked =>
    intro s r c hrole h
    refine (if_neg hrole).trans ?_
    by_cases hdown : (s.isSplit || !s.on F.FIELD_LINK_STAT_UP || s.on F.FIELD_LINK_STAT_SAFE ||
        !s.on F.FIELD_LINK_STAT_COUNT_VALID) = true
    · exact if_pos hdown
    · refine (if_neg hdown).trans ?_
      rcases h with h | h | h | h | h | h
      · exact absurd (by simp [h]) hdown
      · exact absurd (by simp [h]) hdown
      · exact absurd (by simp [h]) hdown
      · exact absurd (by simp [h]) hdown
      · rw [h]; rfl
      · rw [h]; cases s.nextBob <;> rfl
  case next =>
    intro s id h
    obtain ⟨hfree, i, hi, hid, hbefore⟩ := List.find?_eq_some_iff_getElem.mp h
    have hlen : i < min 3840 (s.bobs.length + 1) := by simpa using hi
    simp only [List.getElem_map, List.getElem_range] at hid hbefore
    refine ⟨by omega, Option.isNone_iff_eq_none.mp hfree, i, by omega, hid.symm, fun j hj hnone => ?_⟩
    have := hbefore j hj
    rw [hnone] at this
    exact absurd this (by decide)
  case expire =>
    intro s b hl hsort hlim hst hwait
    obtain ⟨hstate, htable, hdie, hcnt⟩ := State.ageOut_spec hsort b.val
    exact ⟨_, goes_onDevice hl (show execBobAgeExpire b s = _ from rfl) (if_pos ⟨hlim, hst, hwait⟩), hstate, htable, hdie, hcnt⟩
  case stay =>
    intro s b hl h
    refine goes_onDevice hl (show execBobAgeExpire b s = _ from rfl) (if_neg fun ⟨hlim, hst, hwait⟩ => ?_)
    rcases h with h | h | h
    · exact hlim h
    · exact h hst
    · rw [hwait] at h; exact absurd h (by decide)
  case limit =>
    intro s v lim hl hlim
    refine goes_onDevice hl (show execBobAgeLimitWrite v s = _ from rfl) ?_
    unfold State.writeAgeLimit
    dsimp only
    rw [State.ageLimit_merge, ← hlim]
    refine congrArg (foldState _ _) (List.filter_congr fun e _ => ?_)
    show (_ == _ && lim != 0 && decide (lim < s.time.uptime - e.2.since) && !s.ejectWaits e.1) = _
    rw [Bool.eq_iff_iff]
    simp [and_assoc]
  case create =>
    intro s r id e c hrole hsplit hup hsafe hvalid hnext hfree
    have heq : s.partFound r c = s.createBob r id e (wrap48 (c + (s.rule r).offset)) := by
      refine (if_neg hrole).trans ((if_neg ?_).trans ?_)
      · simp [hsplit, hup, hsafe, hvalid]
      · rw [hnext, hfree]
    obtain ⟨hbob, hlast, hmem, hserial, hqueue⟩ := s.recorded_spec e id (s.newBobbin r e (wrap48 (c + (s.rule r).offset))) rfl
    have hkept := s.createBob_kept r id e (wrap48 (c + (s.rule r).offset))
    rw [heq]
    generalize s.createBob r id e (wrap48 (c + (s.rule r).offset)) = t at hkept
    have hcore := hkept.core id
    have hstate := hkept.state id (by rw [hbob]; exact nofun)
    rw [hbob] at hcore hstate
    simp only [Bobbin.core, Prod.mk.injEq] at hcore
    obtain ⟨hser, hwstart, heject, hclose, hentry, hmask, henc, hprov⟩ := hcore
    refine ⟨t, rfl, hstate, hwstart, ?_, ?_, hser, hentry, hkept.last.trans hlast, ?_, hkept.mem.trans hmem, ?_⟩
    · rw [heject, hwstart]; rfl
    · rw [hclose, heject]; rfl
    · rw [State.get_of_word (hkept.regs _ (by decide)), hserial]
    · refine ⟨_, _, _, (congrArg (fun f : FieldDev => f.link.queue) hkept.field).trans hqueue, ⟨_, by rw [hmask, henc, hprov]⟩,
        by rw [heject], ⟨_, by rw [heject]⟩⟩

end Sys2Proof.Machine
end

section
/-! PROOF. The wipe of the memories and CMD_MEM_FILL. -/

namespace Sys2Proof.Machine
open Sys2Proof.Claims

/-! ### What a wipe leaves (R316) -/

theorem tget?_filter_key {α : Type} (t : Tbl α) (keep : Nat → Bool) (a : Nat) :
    tget? (t.filter fun e => keep e.1) a = if keep a then tget? t a else none := by
  induction t with
  | nil => simp [tget?]
  | cons e t ih =>
    obtain ⟨j, v⟩ := e
    rw [List.filter_cons]
    by_cases hj : keep j = true
    · rw [if_pos hj, tget?, tget?, ih]
      by_cases ha : a = j
      · subst ha; rw [if_pos rfl, if_pos rfl, if_pos hj]
      · rw [if_neg ha, if_neg ha]
    · rw [if_neg hj, ih, tget?]
      by_cases ha : a = j
      · subst ha; rw [if_neg hj, if_neg hj]
      · rw [if_neg ha]

/-- Whether an address lies outside of a wiped range. -/
def outside (lo hi a : Nat) : Bool := decide (a < lo) || decide (hi ≤ a)

section
variable (m : Memory) (lo hi a : Nat)

theorem Memory.wipe_byte : (m.wipe lo hi).byte a = if outside lo hi a then m.byte a else 0 := by
  show (tget? (m.cells.filter fun e => outside lo hi e.1) a).getD 0 = _
  rw [tget?_filter_key]
  split <;> rfl

theorem Memory.wipe_valid : tget? (m.wipe lo hi).valid a = if outside lo hi a then tget? m.valid a else none :=
  tget?_filter_key m.valid (outside lo hi) a

theorem Memory.wipe_good : (m.wipe lo hi).good a = if outside lo hi a then m.good a else false := by
  have hclean : tget? (m.wipe lo hi).clean a = if outside lo hi a then tget? m.clean a else none :=
    tget?_filter_key m.clean (outside lo hi) a
  rw [Memory.good, hclean, Memory.wipe_valid]
  split <;> rfl

variable {lo hi a}

theorem outside_iff : outside lo hi a = true ↔ a < lo ∨ hi ≤ a := by simp [outside]

/-- The check byte of a wiped word: its data are 0 and its mark says that it is poisoned. -/
theorem Memory.wipe_checkByte (hlo : lo ≤ a) (hhi : a + 8 ≤ hi) : (m.wipe lo hi).checkByte a = 0xFF := by
  have hin : ∀ k, k < 8 → outside lo hi (a + k) = false := fun k hk => by
    rw [Bool.eq_false_iff]; intro h; rcases outside_iff.mp h with h | h <;> omega
  have hbytes : bytesNat ((m.wipe lo hi).bytes a 8) = 0 := by
    refine bytesNat_zero fun b hb => ?_
    obtain ⟨k, hk, rfl⟩ := List.mem_map.mp hb
    rw [Memory.wipe_byte, hin k (List.mem_range.mp hk)]
    rfl
  unfold Memory.checkByte
  rw [hbytes, Memory.wipe_valid, show outside lo hi a = false from hin 0 (by decide)]
  rfl

end

/-! ### READY and the writes that waited -/

theorem State.becomeReady_only (s : State) : s.becomeReady = { s with regs := s.becomeReady.regs, i3c := s.becomeReady.i3c } := by
  unfold State.becomeReady
  split
  · exact (OnlyI.put s F.HOST_STATUS_READY 1 0 0).trans (State.raise_i _ _)
  · rfl

theorem State.becomeReady_on (s : State) (f : Fld) (i j : Nat) (h : f.reg.addr i j ≠ R.HOST_STATUS.addr 0 0)
    (h' : f.reg.addr i j ≠ R.HOST_IBI_CAUSE.addr 0 0) : s.becomeReady.on f i j = s.on f i j := by
  unfold State.becomeReady
  split
  · refine congrArg (· != 0) (State.get_of_word ?_)
    rw [State.raise_regs]
    exact (tget?_setReg _ _ _ _ _ _ h').trans (tget?_setReg _ _ _ _ _ _ h)
  · rfl

theorem State.releaseHeld_none {s : State} (h : s.mem.held = []) : s.releaseHeld = s := by
  unfold State.releaseHeld
  rw [h, foldState_nil]
  have hm : ({ s.mem with held := [] } : Memory) = s.mem := by rw [← h]
  rw [hm]

/-! ### The fill (R318) -/

theorem State.fillPrefix_dropOldest (s : State) (src : Source) (n a : Nat) : (s.dropOldest src).fillPrefix n a = s.fillPrefix n a := by
  have href : ∀ a, (s.dropOldest src).fillRefusal a = s.fillRefusal a := fun _ => rfl
  induction n generalizing a with
  | zero => rfl
  | succ n ih => rw [State.fillPrefix, State.fillPrefix, href, ih]

theorem State.fillChunks_bound (s : State) (pattern : Word) (n a w : Nat) :
    (s.fillChunks pattern n a w).2 ≤ w + 64 * n ∧ w ≤ (s.fillChunks pattern n a w).2 := by
  induction n generalizing s a w with
  | zero => exact ⟨Nat.le_refl _, Nat.le_refl _⟩
  | succ n ih =>
    rw [State.fillChunks]
    split
    · exact ⟨Nat.le_add_right _ _, Nat.le_refl _⟩
    · dsimp only
      obtain ⟨hle, hge⟩ := ih (s.writeFuel ((goodData ((List.replicate 16 (wordBytes pattern)).flatten)).length + 1) a
        (goodData ((List.replicate 16 (wordBytes pattern)).flatten))) (a + 64) (w + 64)
      exact ⟨by omega, by omega⟩

/-- Settles O45: the SRAM's wipe, the DDR5 wipe MiB by MiB, and the fill. -/
theorem wipeAndFill : Obligations.WipeAndFill := by
  unfold Obligations.WipeAndFill
  refine ⟨?sram, ?sramDone, ?training, ?trained, fun s => State.releaseHeld_none, ?mark, ?last, ?still, ?fill, ?fillEnd, ?fillGone,
    ?noFill, State.fillChunks_bound⟩
  case sram =>
    intro s hl hdone
    have hexec : Goes .sramWipeDone s (State.becomeReady (State.putBit { s with mem := s.mem.wipe 0x2000000000 0x3F00000000 }
        F.MEM_WIPE_STAT_SRAM_DONE true)) :=
      goes_onDevice hl (show execSramWipeDone s = _ from rfl) (if_neg (by rw [hdone]; decide))
    have honly := State.becomeReady_only (State.putBit { s with mem := s.mem.wipe 0x2000000000 0x3F00000000 }
      F.MEM_WIPE_STAT_SRAM_DONE true)
    have hon := State.becomeReady_on (State.putBit { s with mem := s.mem.wipe 0x2000000000 0x3F00000000 }
      F.MEM_WIPE_STAT_SRAM_DONE true) F.MEM_WIPE_STAT_SRAM_DONE 0 0 (by decide) (by decide)
    rw [State.on_putBit _ _ _ _ _ rfl (by decide)] at hon
    generalize State.becomeReady (State.putBit { s with mem := s.mem.wipe 0x2000000000 0x3F00000000 }
      F.MEM_WIPE_STAT_SRAM_DONE true) = t at hexec honly hon
    have hmem : t.mem = s.mem.wipe 0x2000000000 0x3F00000000 := by rw [honly]; rfl
    refine ⟨t, hexec, ?_, hon, fun a hlo hhi => ?_, fun a ha => ?_⟩
    · rw [hmem]; exact honly
    · have hin : outside 0x2000000000 0x3F00000000 a = false := by
        rw [Bool.eq_false_iff]; intro h; rcases outside_iff.mp h with h | h <;> omega
      rw [hmem, Memory.wipe_good, Memory.wipe_byte, hin]
      exact ⟨rfl, rfl, fun h8 => s.mem.wipe_checkByte hlo (by omega)⟩
    · rw [hmem, Memory.wipe_good, Memory.wipe_byte, outside_iff.mpr ha]
      exact ⟨rfl, rfl⟩
  case sramDone => exact fun s hl h => goes_onDevice hl (show execSramWipeDone s = _ from rfl) (if_pos h)
  case training =>
    intro s hl htr hcap
    have hne : R.MEM_DDR_CFG.addr 0 0 ≠ R.MEM_WIPE_STAT.addr 0 0 := by decide
    refine ⟨_, goes_onDevice hl (show execDdrTrainingDone s = _ from rfl) (if_neg (by simp [htr, hcap])), ?_, ?_, ?_, ?_⟩
    · exact onlyRegs_trans (s.put_onlyRegs F.MEM_DDR_CFG_TRAINED 1 0) (State.put_onlyRegs _ F.MEM_WIPE_STAT_DDR_RUN 1 0)
    · rw [State.on, State.putBit, State.get_put_other _ _ _ _ _ _ _ _ hne]
      exact State.on_putBit _ _ _ _ _ rfl (by decide)
    · exact State.on_putBit _ _ _ _ _ rfl (by decide)
    · refine congrArg (· * 2 ^ 30) ?_
      rw [State.putBit, State.get_put_other _ _ _ _ _ _ _ _ hne, State.putBit]
      exact s.get_put_beside (f := F.MEM_DDR_CFG_TRAINED) (g := F.MEM_DDR_CFG_CAPACITY) 1 0 rfl (by decide) (by decide)
  case trained =>
    intro s hl h
    exact goes_onDevice hl (show execDdrTrainingDone s = _ from rfl) (if_pos (by rcases h with h | h <;> simp [h]))
  case mark =>
    intro s k hl hrun hk hlt
    subst hk
    have hcap : (State.put { s with mem := s.mem.wipe (s.get F.MEM_WIPE_MARK_MARK * 2 ^ 20) ((s.get F.MEM_WIPE_MARK_MARK + 1) * 2 ^ 20) }
        F.MEM_WIPE_MARK_MARK (s.get F.MEM_WIPE_MARK_MARK + 1)).capacity = s.capacity :=
      congrArg (· * 2 ^ 30) (State.get_put_other _ _ _ _ _ _ _ _ (by decide))
    exact goes_onDevice hl (show execDdrWipeMarkAdvance s = _ from rfl) ((if_pos hrun).trans (if_neg (by rw [hcap]; omega)))
  case last =>
    intro s k hl hrun hk hle u hu
    subst hk
    have hcap : u.capacity = s.capacity := by
      rw [hu]; exact congrArg (· * 2 ^ 30) (State.get_put_other _ _ _ _ _ _ _ _ (by decide))
    have hexec : Goes .ddrWipeMarkAdvance s
        (((u.putBit F.MEM_WIPE_STAT_DDR_RUN false).putBit F.MEM_WIPE_STAT_DDR_DONE true).releaseHeld.becomeReady) := by
      refine goes_onDevice hl (show execDdrWipeMarkAdvance s = _ from rfl) ((if_pos hrun).trans ?_)
      dsimp only
      rw [← hu]
      exact if_pos (by rw [hcap]; exact hle)
    refine ⟨hexec, fun hheld => ?_⟩
    have hheld' : ((u.putBit F.MEM_WIPE_STAT_DDR_RUN false).putBit F.MEM_WIPE_STAT_DDR_DONE true).mem.held = [] := by
      rw [hu]; exact hheld
    rw [State.releaseHeld_none hheld'] at hexec
    refine ⟨_, hexec, ?_, ?_, ?_⟩
    · rw [State.becomeReady_on _ _ _ _ (by decide) (by decide), State.on, State.putBit,
        State.get_put_beside (f := F.MEM_WIPE_STAT_DDR_DONE) (g := F.MEM_WIPE_STAT_DDR_RUN) _ _ _ rfl (by decide) (by decide)]
      exact State.on_putBit _ _ _ _ _ rfl (by decide)
    · rw [State.becomeReady_on _ _ _ _ (by decide) (by decide)]
      exact State.on_putBit _ _ _ _ _ rfl (by decide)
    · rw [State.becomeReady_only]; rfl
  case still => exact fun s hl h => goes_onDevice hl (show execDdrWipeMarkAdvance s = _ from rfl) (if_neg (by rw [h]; decide))
  case fill =>
    intro s src c a hs ha
    subst ha
    refine ⟨fun h => ends_runCmd hs (show execCmdMemFill src s = _ from rfl) (if_pos h), fun h1 h2 h3 h4 => ?_⟩
    refine ⟨_, rfl, rfl, ?_, rfl, rfl, begins_runCmd hs (show execCmdMemFill src s = _ from rfl) (if_neg ?_)⟩
    · exact s.fillPrefix_dropOldest src _ _
    · rintro (h | h | h | h)
      · exact h h1
      · exact h h2
      · exact h3 h
      · exact h4 h
  case fillEnd =>
    intro s f q e r hl hf hr he
    refine goes_onDevice hl (show execMemFillDone s = _ from rfl) ?_
    rw [hf]
    dsimp only
    rw [← hr, he]
  case fillGone =>
    intro s f q r hl hf hr he
    refine goes_onDevice hl (show execMemFillDone s = _ from rfl) ?_
    rw [hf]
    dsimp only
    rw [← hr, he]
  case noFill =>
    intro s hl hf
    refine goes_onDevice hl (show execMemFillDone s = _ from rfl) ?_
    rw [hf]

end Sys2Proof.Machine
end

section
/-! PROOF. Heartbeats, the mirror and the cross-check of twin operation. -/

namespace Sys2Proof.Machine
open Sys2Proof.Claims

/-- What a STANDBY device does with a mirror frame: one row per item. -/
theorem goes_mirror {s t u : State} {f : RzFrame} (hf : Frames s 7 f) (ht : t = s.consume f) (hr : t.role = 2)
    (h : (let k := f.word 0
      if k = 1 then t.mirrorCreate f
      else if k = 2 then t.mirrorAmend (f.word 1) (f.word 2)
      else if k = 3 then t.mirrorResult (f.word 1) (f.word 2)
      else if k = 4 then t.mirrorFree (f.word 1)
      else if k = 5 then t.mirrorIndex f
      else if k = 6 then t.mirrorModels (f.word 1) (f.word 2) (f.word 3)
      else if k = 7 then t.mirrorBuild (f.word 1) (f.word 2)
      else if k = 8 then { t with twin := { t.twin with peerPar := t.twin.peerPar ++ f.payload.drop 1 } }
      else if k = 9 then t.putBit F.TWIN_STAT_SYNCED true
      else t) = u) : Goes .mirrorRx s u := by
  subst ht
  exact goes_frame hf (show execMirrorRx s = _ from rfl) ((if_neg (not_not.mpr hr)).trans h)

/-- What a heartbeat of a partner whose firmware runs brings. -/
theorem goes_heartbeat {s t u v : State} {f : RzFrame} (hf : Frames s 1 f) (hfw : bitAt (f.word 0) 6 = true)
    (ht : t = { s.consume f with twin := { s.twin with
      hbAny := some s.time.uptime, hbRecv := s.time.uptime, partnerSeq := f.word 0 / 2 ^ 16, hbFields := f.payload } })
    (hu : u = (if roleOf f.payload = 0 then t.latency f else (t.latency f).validBeat f (roleOf f.payload)))
    (h : (if u.role ≠ 1 then u else if roleOf f.payload ≠ 2 then (if u.twin.syncSent then u.unsync else u)
      else if u.twin.syncSent then u else u.sendSnapshot) = v) : Goes .heartbeatRx s v := by
  subst ht hu
  exact goes_frame hf (show execHeartbeatRx s = _ from rfl) ((if_neg (by rw [hfw]; decide)).trans h)

/-- Settles O57: heartbeats out and in, the mirror's items, and the verdicts that are compared. -/
theorem twinTraffic : Obligations.TwinTraffic := by
  unfold Obligations.TwinTraffic
  refine ⟨?send, ?noSend, ?stopped, ?beat, ?noMirror, ?mirror, ?verdict, ?agree, ?expire, ?stays⟩
  case send =>
    intro s t n hfw hup hn ht
    subst ht hn
    exact goes_onDevice hfw.1 (show execHeartbeatSend s = _ from rfl) (if_pos (by rw [hfw.2, hup]; rfl))
  case noSend =>
    intro s hl h
    exact goes_onDevice hl (show execHeartbeatSend s = _ from rfl) (if_neg (by rcases h with h | h <;> simp [h]))
  case stopped => exact fun s f hf h => goes_frame hf (show execHeartbeatRx s = _ from rfl) (if_pos (by rw [h]; rfl))
  case beat =>
    intro s t u f hf hfw ht hu
    refine ⟨fun hr => goes_heartbeat hf hfw ht hu (if_pos hr), fun hr hp hs => ?_, fun hr hp hs => ?_, fun hr hp => ?_⟩
    · exact goes_heartbeat hf hfw ht hu ((if_neg (not_not.mpr hr)).trans ((if_neg (not_not.mpr hp)).trans (if_neg (by rw [hs]; decide))))
    · exact goes_heartbeat hf hfw ht hu ((if_neg (not_not.mpr hr)).trans ((if_neg (not_not.mpr hp)).trans (if_pos hs)))
    · exact goes_heartbeat hf hfw ht hu ((if_neg (not_not.mpr hr)).trans (if_pos hp))
  case noMirror => exact fun s f hf hr => goes_frame hf (show execMirrorRx s = _ from rfl) (if_pos hr)
  case mirror =>
    intro s t f hf ht hr
    refine ⟨fun h => ?_, fun h => ?_, fun h => ?_, fun h => ?_, fun h => ?_, fun h => ?_, fun h => ?_, fun h => ?_, fun h => ?_,
      fun h => goes_mirror hf ht hr ?_⟩
    iterate 9 exact goes_mirror hf ht hr (by rw [h]; rfl)
    have hne : ∀ k, 1 ≤ k → k ≤ 9 → f.word 0 ≠ k := by omega
    simp only [hne 1 (by decide) (by decide), hne 2 (by decide) (by decide), hne 3 (by decide) (by decide),
      hne 4 (by decide) (by decide), hne 5 (by decide) (by decide), hne 6 (by decide) (by decide), hne 7 (by decide) (by decide),
      hne 8 (by decide) (by decide), hne 9 (by decide) (by decide), if_false]
  case verdict =>
    intro s f id hf hid
    subst hid
    have hi := show execVerdictRx s = _ from rfl
    refine ⟨fun h => goes_frame hf hi (if_pos h), fun mine hr hb hw => ?_, fun hr hb hw hend => ?_, fun hr hb hw ht he => ?_⟩
    · refine goes_frame hf hi ((if_neg (not_or.mpr ⟨not_not.mpr hr, hb⟩)).trans ?_)
      show (match tget? s.twin.waiting (f.word 0 % 4096) with | some mine => _ | none => _) = _
      rw [hw]
    · refine goes_frame hf hi ((if_neg (not_or.mpr ⟨not_not.mpr hr, hb⟩)).trans ?_)
      show (match tget? s.twin.waiting (f.word 0 % 4096) with | some mine => _ | none => _) = _
      rw [hw]
      exact if_pos (by rw [Bool.or_eq_true]; exact hend)
    · refine ⟨{ s.consume f with twin := { s.twin with
        peerHeads := tset s.twin.peerHeads (f.word 0 % 4096) (verdictOfFrame f) } }, ?_, rfl, tget?_tset_same _ _ _⟩
      refine goes_frame hf hi ((if_neg (not_or.mpr ⟨not_not.mpr hr, hb⟩)).trans ?_)
      show (match tget? s.twin.waiting (f.word 0 % 4096) with | some mine => _ | none => _) = _
      rw [hw]
      refine if_neg ?_
      show ¬((s.bob (f.word 0 % 4096)).tested || (s.bob (f.word 0 % 4096)).ended) = true
      rw [ht, he]
      decide
  case agree =>
    intro s t id mine peer hcls hconf hamends ht
    subst ht
    exact if_pos ⟨hcls, hconf, hamends⟩
  case expire =>
    intro s t b v hl hw hr hwait ht
    subst ht
    refine goes_onDevice hl (show execXcheckWaitExpire b s = _ from rfl) ?_
    rw [hw]
    exact if_pos ⟨hr, hwait⟩
  case stays =>
    intro s b hl h
    refine goes_onDevice hl (show execXcheckWaitExpire b s = _ from rfl) ?_
    cases hw : tget? s.twin.waiting b.val with
    | none => rfl
    | some v =>
      refine if_neg fun ⟨hr, hwait⟩ => ?_
      rcases h with h | h | h
      · rw [hw] at h; exact absurd h nofun
      · exact h hr
      · rw [hwait] at h; exact absurd h (by decide)

end Sys2Proof.Machine
end

section
/-! PROOF. Causes of reset, what reset leaves, and its release. -/

namespace Sys2Proof.Machine
open Sys2Proof.Claims

/-! ### The loss of a rail while fuses are burnt (R425) -/

theorem State.burnFuses_boot (s : State) (b : Nat) (bs : List Byte) (cut : BurnCut) : (s.burnFuses b bs cut).boot = s.boot := by
  unfold State.burnFuses
  dsimp only
  split_ifs <;> rfl

theorem State.cutBurn_held (s : State) (cut : Option BurnCut) : (s.cutBurn cut).boot.held = s.boot.held := by
  unfold State.cutBurn
  split
  · dsimp only
    split
    · rw [State.burnFuses_boot]
      show (s.readData _ 2700).1.boot.held = _
      rw [(s.readData_kept _ 2700).1]
    · rfl
  · rfl

theorem State.losePower_live {s : State} (h : Live s) : Live s.losePower := by
  unfold State.losePower
  split
  · exact (s.cutBurn_held _).trans h
  · exact h

theorem State.losePower_idle {s : State} (h : s.boot.transition = none ∨ s.boot.held = true) : s.losePower = s :=
  if_neg (by rcases h with h | h <;> simp [h])

/-! ### Entering reset (R409, R466) -/

theorem State.hold_live {s : State} (hl : Live s) (cause : Nat) (f : Holds → Holds) :
    s.hold cause f = s.enterReset (s.causeAfter cause) (f {}) := if_neg (by rw [show s.boot.held = false from hl]; decide)

theorem State.hold_held {s : State} (hh : s.boot.held = true) (cause : Nat) (f : Holds → Holds) :
    s.hold cause f = { s with boot := { s.boot with holds := f s.boot.holds } } := if_pos hh

/-- In reset only the cause register holds a value other than its reset value. -/
theorem State.enterReset_regs (s : State) (cause : Nat) (h : Holds) :
    (s.enterReset cause h).regs = [(R.SEC_RESET_CAUSE.addr 0 0, w32 cause)] := rfl

theorem State.enterReset_cause (s : State) (cause : Nat) (h : Holds) : (s.enterReset cause h).reg R.SEC_RESET_CAUSE = cause % 2 ^ 32 := by
  rw [State.reg, s.enterReset_regs, tget?, if_pos rfl]
  simp [w32]

/-- The three fields of SEC_RESET_CAUSE after one more reset. -/
theorem State.causeAfter_fields (s : State) {c : Nat} (hc : c < 16) :
    bitsOf (s.causeAfter c % 2 ^ 32) 0 4 = c ∧ bitsOf (s.causeAfter c % 2 ^ 32) 4 4 = s.get F.SEC_RESET_CAUSE_CAUSE ∧
    bitsOf (s.causeAfter c % 2 ^ 32) 8 8 = (s.get F.SEC_RESET_CAUSE_COUNT + 1) % 256 := by
  have hprev : s.get F.SEC_RESET_CAUSE_CAUSE < 16 := bitsOf_lt _ _ _
  unfold State.causeAfter bitsOf
  generalize s.get F.SEC_RESET_CAUSE_CAUSE = x at hprev
  generalize s.get F.SEC_RESET_CAUSE_COUNT = y
  refine ⟨?_, ?_, ?_⟩ <;> omega

/-! ### Release (R302, R410, R446) -/

/-- Only registers beside the DDR5 configuration and the wipe's progress change, and the copies of critical words. -/
structure FuseShown (s t : State) : Prop where
  only : t = { s with regs := t.regs, copies := t.copies }
  regs : ∀ a ∈ [R.MEM_DDR_CFG.addr 0 0, R.MEM_WIPE_STAT.addr 0 0], tget? t.regs a = tget? s.regs a

theorem FuseShown.setReg {s t : State} (h : FuseShown s t) (r : Reg) (v i : Nat)
    (hr : ∀ a ∈ [R.MEM_DDR_CFG.addr 0 0, R.MEM_WIPE_STAT.addr 0 0], a ≠ r.addr i 0) : FuseShown s (t.setReg r v i) := by
  obtain ⟨honly, hregs⟩ := h
  refine ⟨?_, fun a ha => (tget?_setReg _ _ _ _ _ _ (hr a ha)).trans (hregs a ha)⟩
  rw [honly]
  rfl

theorem FuseShown.put {s t : State} (h : FuseShown s t) (f : Fld) (v : Nat)
    (hf : ∀ a ∈ [R.MEM_DDR_CFG.addr 0 0, R.MEM_WIPE_STAT.addr 0 0], a ≠ f.reg.addr 0 0) : FuseShown s (t.put f v) :=
  h.setReg f.reg _ 0 hf

theorem FuseShown.stored {s t : State} (h : FuseShown s t) (w : Nat) : FuseShown s (t.stored w) := by
  obtain ⟨honly, hregs⟩ := h
  exact ⟨by rw [honly]; rfl, hregs⟩

theorem State.showFuses_shown (s : State) : FuseShown s s.showFuses := by
  unfold State.showFuses
  dsimp only
  refine timesFrom_keeps_below (P := fun t => FuseShown s t) (fun t p hp h => ?_)
    ((((((FuseShown.put ⟨rfl, fun _ _ => rfl⟩ _ _ (by decide)).stored 0).put F.LC_STATE_DEBUG _ (by decide)).put _ _ (by decide)).put
      _ _ (by decide)).put _ _ (by decide))
  have hp2 : p = 0 ∨ p = 1 := by omega
  rcases hp2 with rfl | rfl
  · exact (h.setReg R.ETH_MAC_LO _ _ (by decide)).setReg R.ETH_MAC_HI _ _ (by decide)
  · exact (h.setReg R.ETH_MAC_LO _ _ (by decide)).setReg R.ETH_MAC_HI _ _ (by decide)

theorem strapCapacity_lt (x : Nat) : strapCapacity x < 2 ^ 8 := by
  unfold strapCapacity
  dsimp only
  split_ifs <;> decide

theorem State.newNonce_spec (s : State) : s.newNonce.boot.held = s.boot.held ∧ s.newNonce.regs = s.regs ∧ s.newNonce.mem = s.mem ∧
    s.newNonce.straps = s.straps := ⟨rfl, rfl, rfl, rfl⟩

theorem State.release_spec (s : State) (x : Straps) : Live (s.release x) ∧
    (s.release x).get F.MEM_DDR_CFG_CAPACITY = strapCapacity x.ddrCfg ∧
    (s.release x).on F.MEM_WIPE_STAT_DDR_DONE = (strapCapacity x.ddrCfg == 0) ∧ (s.release x).mem = s.mem ∧
    (s.release x).straps = x := by
  unfold State.release
  extract_lets lc fld t cap a b c d
  have hcap : d.get F.MEM_DDR_CFG_CAPACITY = cap := by
    have hb : b.get F.MEM_DDR_CFG_CAPACITY = cap :=
      (State.get_put _ _ _ _ _ (by decide)).trans (Nat.mod_eq_of_lt (strapCapacity_lt _))
    exact (State.get_put_other _ _ _ _ _ _ _ _ (by decide)).trans ((State.get_put_other _ _ _ _ _ _ _ _ (by decide)).trans
      ((State.get_put_other _ _ _ _ _ _ _ _ (by decide)).trans ((State.get_put_other _ _ _ _ _ _ _ _ (by decide)).trans hb)))
  have hdone : d.on F.MEM_WIPE_STAT_DDR_DONE = (cap == 0) := State.on_putBit _ _ _ _ _ rfl (by decide)
  have hheld : d.boot.held = false := rfl
  have hmem : d.mem = s.mem := rfl
  have hstraps : d.straps = x := rfl
  clear_value d
  have hshow := d.showFuses_shown
  generalize d.showFuses = u at hshow
  obtain ⟨honly, hregs⟩ := hshow
  refine ⟨?_, ?_, ?_, ?_, ?_⟩
  · exact u.newNonce_spec.1.trans (by rw [honly]; exact hheld)
  · rw [State.get_congr (s := u) (t := u.newNonce) u.newNonce_spec.2.1, State.get_of_word (hregs _ (by decide)), hcap]
  · rw [State.on_congr (s := u) (t := u.newNonce) u.newNonce_spec.2.1, State.on, State.get_of_word (hregs _ (by decide))]
    exact hdone
  · exact u.newNonce_spec.2.2.1.trans (by rw [honly]; exact hmem)
  · exact u.newNonce_spec.2.2.2.trans (by rw [honly]; exact hstraps)

/-- Settles O58: what begins a reset, what it leaves, and what releases it. -/
theorem resets : Obligations.Resets := by
  unfold Obligations.Resets
  refine ⟨?causes, ?rails, ?burnt, fun s => rfl, ?watchdog, ?begin, ?placed, ?noReply, ?left, ?fields, ?rstHeld, ?held, ?live,
    ?released, ?holdEnd, ?cooled, State.release_spec⟩
  case causes =>
    exact fun s hl => ⟨congrArg _ (State.hold_live hl 0 _), congrArg _ (State.hold_live hl 0 _),
      congrArg _ (if_neg (by rw [show s.boot.held = false from hl]; decide)),
      goes_onDevice hl (show execPrivateMemoryUe s = _ from rfl) rfl⟩
  case rails =>
    exact fun s => ⟨rfl, fun hl => ⟨_, rfl, congrArg _ (State.hold_live (State.losePower_live hl) 0 _)⟩, State.losePower_idle⟩
  case burnt =>
    intro s hl ht
    refine ⟨_, if_pos ?_⟩
    rw [show s.boot.held = false from hl, Option.isSome_iff_ne_none.mpr ht]
    rfl
  case watchdog =>
    exact fun s hl => ⟨fun h => goes_onDevice hl (show execMgmtWatchdog s = _ from rfl) (if_pos h),
      fun h => goes_onDevice hl (show execMgmtWatchdog s = _ from rfl) (if_neg (by rw [h]; decide))⟩
  case begin =>
    intro s hl
    refine ⟨fun c hc hw => goes_onDevice hl (show execResetBegin s = _ from rfl) ?_,
      fun h => goes_onDevice hl (show execResetBegin s = _ from rfl) ?_⟩
    · rw [hc]
      exact if_neg (by rw [hw]; decide)
    · cases hc : s.boot.resetDue with
      | none => rfl
      | some c => exact if_pos (h.resolve_left (by rw [hc]; exact nofun))
  case placed =>
    intro s
    unfold State.placeD2h
    dsimp only
    rw [State.raise_host]
    exact (if_pos (congrArg HostLink.resetReply (s.fillBox_host _ _))).trans rfl
  case noReply => exact fun s h => by rw [State.doneWaits, h]; rfl
  case left =>
    refine fun s cause h => ⟨_, rfl, rfl, rfl, rfl, rfl, rfl, rfl, rfl, rfl, rfl, rfl, rfl, fun a => rfl, fun a ha => ?_,
      s.enterReset_cause cause h⟩
    rw [s.enterReset_regs, tget?, if_neg ha]
    rfl
  case fields =>
    intro s c hc
    have hread : ∀ f : Fld, f.reg = R.SEC_RESET_CAUSE →
        (s.enterReset (s.causeAfter c) {}).get f = bitsOf (s.causeAfter c % 2 ^ 32) f.lo f.width := fun f hf => by
      rw [State.get, hf, s.enterReset_cause]
    obtain ⟨h1, h2, h3⟩ := s.causeAfter_fields hc
    exact ⟨(hread _ rfl).trans h1, (hread _ rfl).trans h2, (hread _ rfl).trans h3⟩
  case rstHeld => exact fun s t hh ht => by subst ht; exact congrArg _ (State.hold_held hh 0 _)
  case held =>
    intro s hh
    have hidle : s.losePower = s := State.losePower_idle (.inr hh)
    have hrail : execRailFault s = .next { s with boot := { s.boot with holds := { s.boot.holds with rail := true } } } := by
      unfold execRailFault
      rw [hidle, State.hold_held hh]
    exact ⟨hrail, congrArg Host.Outcome.next (State.hold_held hh 0 _), congrArg Host.Outcome.next (if_pos hh),
      (onDevice_held hh _ : execPrivateMemoryUe s = _), (onDevice_held hh _ : execMgmtWatchdog s = _),
      (onDevice_held hh _ : execResetBegin s = _)⟩
  case live =>
    intro s x hl
    have hl' : s.boot.held = false := hl
    exact ⟨congrArg Host.Outcome.next (if_pos (by simp [hl'])), congrArg Host.Outcome.next (if_neg (by simp [hl'])),
      congrArg Host.Outcome.next (if_neg (by simp [hl']))⟩
  case released =>
    intro s t x hh ht
    subst ht
    refine ⟨fun h => congrArg Host.Outcome.next ((if_neg (by simp [hh])).trans (if_pos ?_)),
      fun h1 h2 => congrArg Host.Outcome.next ((if_neg (by simp [hh])).trans (if_neg ?_))⟩
    · rw [Bool.or_eq_true]; exact h
    · simp [h1, h2]
  case holdEnd =>
    intro s t x hh hholds ht
    refine congrArg Host.Outcome.next ((if_pos (by rw [hh, hholds]; rfl)).trans ?_)
    dsimp only
    rw [hholds, ← ht]
    exact if_pos rfl
  case cooled =>
    intro s t x hh hholds ht
    refine congrArg Host.Outcome.next ((if_pos (by rw [hh, hholds]; rfl)).trans ?_)
    dsimp only
    rw [hholds, ← ht]
    exact if_pos rfl

end Sys2Proof.Machine
end

section
/-! PROOF. Frames, acknowledgements and credits of the Ranoz link. -/

namespace Sys2Proof.Machine
open Sys2Proof.Claims

/-! ### The link's operations -/

/-- A write of a register leaves the link's UP bit, unless it is that register. -/
theorem State.up_put (s : State) {f : Fld} (v i : Nat) (h : f.reg.addr i 0 ≠ R.LINK_STAT.addr 0 0) :
    (s.put f v i).on F.LINK_STAT_UP = s.on F.LINK_STAT_UP :=
  congrArg (· != 0) (State.get_put_other _ _ _ _ _ _ _ _ h.symm)

theorem State.frameErrors_up (s : State) (l : List Nat) : (s.frameErrors l).on F.LINK_STAT_UP = s.on F.LINK_STAT_UP :=
  State.up_put _ _ 0 (by decide)

theorem State.takeAck_kept (s : State) (ack : Nat) : (s.takeAck ack).regs = s.regs ∧ (s.takeAck ack).fenceDue = s.fenceDue := by
  unfold State.takeAck
  split <;> exact ⟨rfl, rfl⟩

theorem State.sendNak_kept (s : State) : s.sendNak = { s with link := s.sendNak.link } ∧ s.sendNak.link.expect = s.link.expect ∧
    s.sendNak.link.inbox = s.link.inbox ∧ (s.framesGo = true → s.sendNak.link.sent.length = s.link.sent.length + 1) ∧
    (s.framesGo = false → s.sendNak.link.sent = s.link.sent ∧ s.sendNak.link.nakOwed = true) := by
  unfold State.sendNak
  by_cases h : s.framesGo = true
  · rw [if_pos h]
    exact ⟨rfl, rfl, rfl, fun _ => List.length_append, fun k => absurd (h.symm.trans k) (by decide)⟩
  · rw [if_neg h]
    exact ⟨rfl, rfl, rfl, fun k => absurd k h, fun _ => ⟨rfl, rfl⟩⟩

/-- A frame that is not taken: counted, and answered with a NAK. -/
theorem State.badFrame_spec (s : State) : s.badFrame = { s with regs := s.badFrame.regs, link := s.badFrame.link } ∧
    s.badFrame.link.expect = s.link.expect ∧ s.badFrame.link.inbox = s.link.inbox ∧
    (s.framesGo = true → s.badFrame.link.sent.length = s.link.sent.length + 1) ∧
    (s.framesGo = false → s.badFrame.link.sent = s.link.sent ∧ s.badFrame.link.nakOwed = true) ∧
    s.badFrame.get F.LINK_CNT_CRC_ERR = min (s.get F.LINK_CNT_CRC_ERR + 1) 255 := by
  have hgo : (s.bump F.LINK_CNT_CRC_ERR).framesGo = s.framesGo :=
    congrArg (· && s.link.start.isNone) (s.up_put (f := F.LINK_CNT_CRC_ERR) _ 0 (by decide))
  have hcnt : (s.bump F.LINK_CNT_CRC_ERR).get F.LINK_CNT_CRC_ERR = min (s.get F.LINK_CNT_CRC_ERR + 1) 255 :=
    State.get_bumpBy s F.LINK_CNT_CRC_ERR 1 0 0 (by decide)
  obtain ⟨honly, hexpect, hinbox, hgoes, hwaits⟩ := (s.bump F.LINK_CNT_CRC_ERR).sendNak_kept
  rw [hgo] at hgoes hwaits
  unfold State.badFrame
  generalize (s.bump F.LINK_CNT_CRC_ERR).sendNak = t at honly hexpect hinbox hgoes hwaits
  refine ⟨?_, hexpect, hinbox, hgoes, hwaits, ?_⟩
  · rw [honly]; rfl
  · rw [State.get_congr (s := s.bump F.LINK_CNT_CRC_ERR) (t := t) (by rw [honly])]; exact hcnt

theorem State.badFrame_fenceDue (s : State) : s.badFrame.fenceDue = s.fenceDue := by rw [s.badFrame_spec.1]

theorem State.takeFrame_fenceDue (s : State) (f : RxFrame) : (s.takeFrame f).fenceDue = s.fenceDue := by
  unfold State.takeFrame
  dsimp only
  split_ifs <;> rfl

/-- Whether firmware runs is not touched by the count of poison marks. -/
theorem State.fw_poisonRx (s : State) (n : Nat) : (s.bumpBy F.LINK_POISON_RX n).on F.HOST_STATUS_FW_RUN = s.on F.HOST_STATUS_FW_RUN :=
  congrArg (· != 0) (State.get_put_other _ _ _ _ _ _ _ _ (by decide))

theorem State.takeFrame_taken (s : State) (f : RxFrame) (hfw : s.on F.HOST_STATUS_FW_RUN = true) (hk : f.kind < 9) :
    (s.takeFrame f).link.inbox = s.link.inbox ++ [storedFrame f] ∧ (s.takeFrame f).link.expect = (s.link.expect + 1) % 4096 ∧
    (s.takeFrame f).link.ackOwed = true := by
  unfold State.takeFrame
  extract_lets x k0 t u k1 back
  have hu : u.on F.HOST_STATUS_FW_RUN = true := (State.fw_poisonRx t f.poison.length).trans hfw
  rw [if_neg (Nat.not_le.mpr hk), if_neg (by rw [hu]; decide)]
  exact ⟨rfl, rfl, rfl⟩

theorem State.takeFrame_discarded (s : State) (f : RxFrame) (hfw : s.on F.HOST_STATUS_FW_RUN = false) :
    (s.takeFrame f).link.inbox = s.link.inbox ∧ (s.takeFrame f).link.returned.length = s.link.returned.length + 1 := by
  unfold State.takeFrame
  extract_lets x k0 t u k1 back
  have hu : u.on F.HOST_STATUS_FW_RUN = false := (State.fw_poisonRx t f.poison.length).trans hfw
  have hback : back.link.inbox = s.link.inbox ∧ back.link.returned.length = s.link.returned.length + 1 := ⟨rfl, List.length_append⟩
  by_cases hk : 9 ≤ f.kind
  · rw [if_pos hk]
    exact hback
  · rw [if_neg hk, if_pos (by rw [hu]; rfl)]
    exact hback

/-! ### What a frame does -/

section
variable {s t : State} {w : FrameWire} {l : List (Option Sym)} {f : RxFrame}

/-- A frame on a link that is up is read, its code errors counted first. -/
theorem goes_ranozFrame {u : State} (hl : Live s) (hup : s.on F.LINK_STAT_UP = true)
    (hw : frameSyms w (s.on F.LINK_STAT_FB_ACTIVE) = some l) (ht : t = s.frameErrors (codeErrors l)) (hf : f = readFrame l)
    (h : (if f.crcOk then t.goodFrame f else t.badFrame) = u) : Goes (.ranozFrameRx w) s u.settle := by
  refine goes_onCore hl (show execRanozFrameRx w s = _ from rfl) ((if_neg (by rw [hup]; decide)).trans ?_)
  rw [hw]
  dsimp only
  rw [← ht, ← hf]
  exact h

theorem State.goodFrame_null (t : State) (hk : f.kind = 0) :
    t.goodFrame f = if f.nak then (t.takeAck f.ack).resend else t.takeAck f.ack := by
  unfold State.goodFrame
  rw [if_neg fun h => h.1 hk]
  exact if_pos (Or.inl hk)

theorem State.goodFrame_stray (t : State) (hk : f.kind ≠ 0) (hq : f.seq ≠ t.link.expect) : t.goodFrame f = t.badFrame :=
  if_pos ⟨hk, hq⟩

theorem State.goodFrame_taken (t : State) (hk : f.kind ≠ 0) (hq : f.seq = t.link.expect) {u : State}
    (hu : (if f.nak then (t.takeAck f.ack).resend else t.takeAck f.ack) = u) (hup : u.on F.LINK_STAT_UP = true) :
    t.goodFrame f = u.takeFrame f := by
  unfold State.goodFrame
  rw [if_neg fun h => h.2 hq]
  dsimp only
  rw [hu]
  exact if_neg (by rw [hup]; simp [hk])

end

/-- Settles O54: frames on the wire, what a received one does, resending, NULL frames and credits. -/
theorem ranozFrames : Obligations.RanozFrames := by
  unfold Obligations.RanozFrames
  refine ⟨fun f ack hk hv hs ha he hl hp => readFrame_symbols f ack hk hv hs ha he hl hp,
    fun h last run l _ => laneSyms_laneLine h last run l, ?noFrame, ?frame, fun s => ⟨_, rfl, s.badFrame_spec⟩,
    State.takeFrame_taken, State.takeFrame_discarded, ?noAck, ?resend, ?eighth, ?null, ?noNull, ?credit, ?noCredit, ?start⟩
  case noFrame =>
    intro s w hl hdue h
    refine goes_onCore_quiet hl (show execRanozFrameRx w s = _ from rfl) ?_ hdue
    by_cases hup : s.on F.LINK_STAT_UP = true
    · refine (if_neg (by rw [hup]; decide)).trans ?_
      rw [h.resolve_left (by rw [hup]; decide)]
    · exact if_pos (by rw [Bool.eq_false_iff.mpr hup]; rfl)
  case frame =>
    intro s t w l f hl hup hw ht hf
    have hdueT : t.fenceDue = s.fenceDue := by rw [ht]; rfl
    have hexpT : t.link.expect = s.link.expect := by rw [ht]; rfl
    have hupT : t.on F.LINK_STAT_UP = true := by rw [ht, s.frameErrors_up]; exact hup
    obtain ⟨hackRegs, hackDue⟩ := t.takeAck_kept f.ack
    have hackUp : (t.takeAck f.ack).on F.LINK_STAT_UP = true := (State.on_congr hackRegs _ _ _).trans hupT
    have goes : ∀ {u : State}, (if f.crcOk then t.goodFrame f else t.badFrame) = u → Goes (.ranozFrameRx w) s u.settle :=
      fun h => goes_ranozFrame hl hup hw ht hf h
    have quiet : ∀ {u : State}, (if f.crcOk then t.goodFrame f else t.badFrame) = u → u.fenceDue = [] →
        Goes (.ranozFrameRx w) s u := fun {u} h k => by have := goes h; rwa [State.settle_none k] at this
    refine ⟨fun hdue hc => ?_, fun hdue hc hk hn => ?_, fun hc hk hn => ?_, fun hdue hc hk hq hn => ?_,
      fun hdue hc hk hq hn hup' hdue' => ?_, fun hdue hc hk hq => ?_⟩
    · exact quiet (if_neg (by rw [hc]; decide)) (by rw [State.badFrame_fenceDue, hdueT, hdue])
    · refine quiet ((if_pos hc).trans ((t.goodFrame_null hk).trans (if_neg (by rw [hn]; decide)))) ?_
      rw [hackDue, hdueT, hdue]
    · exact goes ((if_pos hc).trans ((t.goodFrame_null hk).trans (if_pos hn)))
    · refine quiet ((if_pos hc).trans (t.goodFrame_taken hk (hq.trans hexpT.symm) (if_neg (by rw [hn]; decide)) hackUp)) ?_
      rw [State.takeFrame_fenceDue, hackDue, hdueT, hdue]
    · refine quiet ((if_pos hc).trans (t.goodFrame_taken hk (hq.trans hexpT.symm) (if_pos hn) hup')) ?_
      rw [State.takeFrame_fenceDue, hdue']
    · refine quiet ((if_pos hc).trans (t.goodFrame_stray hk (by rw [hexpT]; exact hq))) ?_
      rw [State.badFrame_fenceDue, hdueT, hdue]
  case noAck =>
    intro s hl hdue h
    refine goes_onCore_quiet hl (show execRanozAckTmo s = _ from rfl) ?_ hdue
    have hstay : s.resend = s := if_pos (by rcases h with h | h <;> simp [h])
    rw [hstay, ite_self]
  case resend =>
    intro s hl hdue hgo hun hres
    have hup : s.on F.LINK_STAT_UP = true := (Bool.and_eq_true_iff.mp hgo).1
    have hresend : s.resend = { s.resendFrames with link := { s.resendFrames.link with resends := s.resendFrames.link.resends + 1 } } :=
      (if_neg (by simp [hgo, hun])).trans (if_neg (Nat.not_le.mpr hres))
    refine ⟨_, goes_onCore_quiet hl (show execRanozAckTmo s = _ from rfl) ((if_pos hup).trans hresend) hdue, rfl, rfl, rfl, ?_⟩
    show (s.link.sent ++ s.link.unacked.map fun f => (_, f)).length = _
    rw [List.length_append, List.length_map]
  case eighth =>
    intro s hl hgo hun hres
    have hup : s.on F.LINK_STAT_UP = true := (Bool.and_eq_true_iff.mp hgo).1
    exact goes_onCore hl (show execRanozAckTmo s = _ from rfl) ((if_pos hup).trans ((if_neg (by simp [hgo, hun])).trans (if_pos hres)))
  case null =>
    exact fun s hl hgo ha => goes_onDevice hl (show execRanozNullTmo s = _ from rfl) (if_pos (by rw [hgo, ha]; rfl))
  case noNull =>
    exact fun s hl h => goes_onDevice hl (show execRanozNullTmo s = _ from rfl) (if_neg (by rcases h with h | h <;> simp [h]))
  case credit =>
    intro s a b c vl hl hup hvl
    subst hvl
    refine goes_onDevice hl (show execCreditReturnRx a (b, c) s = _ from rfl) ((if_pos hup).trans ?_)
    have hlane : bitsOf a.toNat 0 2 = a.toNat % 4 := by rw [bitsOf, pow_zero, Nat.div_one]; rfl
    rw [hlane]
    rfl
  case noCredit =>
    exact fun s a b c hl hup => goes_onDevice hl (show execCreditReturnRx a (b, c) s = _ from rfl) (if_neg (by rw [hup]; decide))
  case start =>
    intro s f
    refine ⟨?_, rfl, rfl⟩
    show tgetD (tset _ f.vl _) f.vl 0 = _
    rw [tgetD_tset_same]
    rfl

end Sys2Proof.Machine
end

section
/-! PROOF. Loom instructions on their engines: placing, issue, execution, and the status that is held. -/

namespace Sys2Proof.Machine
open Sys2Proof.Claims

/-! ### Placing (R260) -/

/-- An instruction that may be placed joins its engine's queue. -/
theorem State.feed_placed {s : State} {n : Fin 64} {e : Fin 4} {kind : Nat} {ws : List Word} {aux : Aux} {st : Nat}
    (hk : fld ws 0 0 4 = kind) (hf : s.frozen n.val = false) (hq : ((s.loom n.val).queue e.val).length < 512)
    (hst : st = (s.loom n.val).nextCmd e.val) (hc : st < (s.loom n.val).base + (s.loom n.val).cmds.length) {l : Loom}
    (hl : l = { s.loom n.val with
      queues := tset (s.loom n.val).queues e.val ((s.loom n.val).queue e.val ++ [{ words := ws, aux := aux, cmd := st }])
      fetched := tset (s.loom n.val).fetched e.val (if kind = 0xC then st + 1 else st) }) :
    s.feed n e kind ws aux = (s.setLoom n.val l).pumpLoom n.val := by
  subst hl hst
  refine if_neg ?_
  rintro (h | h | h | h)
  · exact h hk
  · exact absurd (h.symm.trans hf) (by decide)
  · exact absurd h (Nat.not_le.mpr hq)
  · exact absurd h (Nat.not_le.mpr hc)

/-- One that may not be placed changes nothing. -/
theorem State.feed_refused {s : State} {n : Fin 64} {e : Fin 4} {kind : Nat} {ws : List Word} {aux : Aux}
    (h : s.frozen n.val = true ∨ 512 ≤ ((s.loom n.val).queue e.val).length ∨ fld ws 0 0 4 ≠ kind ∨
      (s.loom n.val).base + (s.loom n.val).cmds.length ≤ (s.loom n.val).nextCmd e.val) :
    s.feed n e kind ws aux = s := by
  refine if_pos ?_
  rcases h with h | h | h | h
  · exact .inr (.inl h)
  · exact .inr (.inr (.inl h))
  · exact .inl h
  · exact .inr (.inr (.inr h))

theorem feeds_of {mk : Fin 64 → Fin 4 → List Word → Aux → Instr} {kind : Nat}
    (hi : ∀ n e ws aux s, exec (mk n e ws aux) s = onCore s fun s => s.feed n e kind ws aux) : Feeds mk kind :=
  fun s n e ws aux _ hl hk hf hq hst hc _ h => goes_onCore hl (hi n e ws aux s) (State.feed_placed hk hf hq hst hc h)

/-! ### Issue and execution (R161 to R166, R264) -/

theorem Loom.nextCmd_none {l : Loom} (e : Nat) (h : ∀ c ∈ l.cmds, c.given = false) : l.nextCmd e = max l.base (tgetD l.fetched e 0) := by
  have hnone : (l.cmds.drop (max l.base (tgetD l.fetched e 0) - l.base)).takeWhile (·.given) = [] := by
    cases hd : l.cmds.drop (max l.base (tgetD l.fetched e 0) - l.base) with
    | nil => rfl
    | cons c t => exact List.takeWhile_cons_of_neg (by rw [h c (List.mem_of_mem_drop (hd ▸ List.mem_cons_self))]; decide)
  unfold Loom.nextCmd
  dsimp only
  rw [hnone]
  rfl

/-- An instruction that uses a tag waits for it. -/
theorem QIns.uses_all {q : QIns} {t : Nat} {l : Loom} (hu : q.uses = some t) (hc : l.complete t = false) :
    q.uses.all l.complete = false := by rw [hu]; exact hc

theorem mayIssue_wait {l : Loom} {e t : Nat} {q : QIns} (hb : q.aux.blind = false) (he : engineRuns e q = true) (hk : q.kind = 0xB)
    (hu : q.uses = some t) (hc : l.complete t = false) : mayIssue l e q = false := by
  have htakes : q.takes = false := by rw [QIns.takes, hk]; rfl
  have harray : q.array = false := by rw [QIns.array, hk]; rfl
  simp [mayIssue, hb, he, htakes, harray, QIns.uses_all hu hc]

theorem mayIssue_takes {l : Loom} {e : Nat} {q : QIns} (hb : q.aux.blind = false) (he : engineRuns e q = true) (ht : q.takes = true) :
    mayIssue l e q = ((tget? l.tags q.tag).isNone && (!q.remote || decide (l.outstanding.length < 4))) := by
  simp [mayIssue, hb, he, ht]

theorem QIns.takes_of_remote {q : QIns} (h : q.remote = true) : q.takes = true := by
  have hk : (q.kind == 9) = true := (Bool.and_eq_true_iff.mp h).1
  rw [QIns.takes, hk]
  rfl

theorem mayRun_pass {l : Loom} {earlier : List QIns} {q : QIns} (hq : q.pass true = true)
    (h : ∀ r ∈ earlier, r.kind = 3 ∨ r.group ≠ q.group) : mayRun l earlier q = true := by
  have hk : q.kind = 1 ∨ q.kind = 2 := by
    have := (Bool.and_eq_true_iff.mp hq).1
    simpa using this
  have huses : q.uses = none := by unfold QIns.uses; rcases hk with hk | hk <;> rw [hk] <;> rfl
  have hk3 : q.kind ≠ 3 := by omega
  have hnone : (earlier.any fun r => if q.kind = 3 then r.kind == 3 || r.group == q.group
      else if q.pass true then r.kind != 3 && r.group == q.group else r.group == q.group) = false := by
    rw [List.any_eq_false]
    intro r hr
    rw [if_neg hk3, if_pos hq]
    rcases h r hr with h3 | hg
    · simp [h3]
    · simp [hg]
  rw [mayRun, huses, hnone]
  simp

theorem arrayMay_split {l : Loom} {q r : QIns} (hs : q.sound = true) (hr : r ∈ l.pendings) (h : q.split ≠ l.split) :
    arrayMay l q = false := by
  have hne : l.pendings.isEmpty = false := by
    cases hp : l.pendings with
    | nil => rw [hp] at hr; exact absurd hr List.not_mem_nil
    | cons => rfl
  simp [arrayMay, hs, h, hne]

theorem arrayMay_swap {l : Loom} {q r : QIns} (hs : q.sound = true) (hr : r ∈ l.pendings) (hk : q.kind = 3) (hp : r.pass false = true)
    (hg : r.group = q.group) : arrayMay l q = false := by
  have hany : (l.pendings.any fun r => r.pass false && r.group == q.group) = true :=
    List.any_eq_true.mpr ⟨r, hr, by simp [hp, hg]⟩
  simp [arrayMay, hs, hk, hany]

theorem arrayMay_free {l : Loom} {q : QIns} (h : q.split = l.split) (hg : ∀ r ∈ l.pendings, r.group ≠ q.group) : arrayMay l q = true := by
  have hany : (l.pendings.any fun r => r.pass false && r.group == q.group) = false :=
    List.any_eq_false.mpr fun r hr => by simp [hg r hr]
  simp [arrayMay, h, hany]

/-! ### A command that has been given up -/

theorem mem_cutToEnd {cmd : Nat} {qs : List QIns} {r : QIns} (h : r ∈ cutToEnd cmd qs) (hc : r.cmd = cmd) : r.kind = 0xC := by
  unfold cutToEnd at h
  rcases List.mem_append.mp h with h | h
  · have := of_decide_eq_true (List.mem_filter.mp h).2
    omega
  · rcases List.mem_cons.mp h with rfl | h
    · show fld [0xC#32] 0 0 4 = 0xC
      decide
    · have := of_decide_eq_true (List.mem_filter.mp h).2
      omega

theorem tget?_tabulate {α : Type} (f : Nat → α) {l : List Nat} {e : Nat} (h : e ∈ l) : tget? (l.map fun e => (e, f e)) e = some (f e) := by
  induction l with
  | nil => exact absurd h List.not_mem_nil
  | cons a l ih =>
    rw [List.map_cons, tget?]
    by_cases ha : e = a
    · rw [if_pos ha, ha]
    · rw [if_neg ha, ih ((List.mem_cons.mp h).resolve_left ha)]

theorem Loom.giveUp_ends {l : Loom} {cmd e : Nat} (he : e < 4) (hi : l.endIssued cmd e = false) :
    ∀ r ∈ (l.giveUp cmd).queue e, r.cmd = cmd → r.kind = 0xC := by
  intro r hr hc
  have hq : (l.giveUp cmd).queue e = cutToEnd cmd (l.queue e) :=
    (congrArg (·.getD []) (tget?_tabulate (fun e => if l.endIssued cmd e then l.queue e else cutToEnd cmd (l.queue e))
      (List.mem_range.mpr he))).trans (if_neg (by rw [hi]; decide))
  exact mem_cutToEnd (hq ▸ hr) hc

/-! ### Statuses (R267) -/

theorem Status.code_lt (st : Status) : st.code < 2 ^ 8 := by cases st <;> decide

/-- The first status other than DONE is held, with its engine. -/
theorem State.noteStatus_held {s : State} {n : Nat} (e : Fin 4) (tag : Nat) {st : Status} (hst : st ≠ .done)
    (h0 : s.get F.LOOM_ENG_STAT_STATUS n = 0) :
    (s.noteStatus n e.val tag st).get F.LOOM_ENG_STAT_STATUS n = st.code ∧
    (s.noteStatus n e.val tag st).get F.LOOM_ENG_STAT_ENGINE n = e.val ∧
    OnlyRegs s (s.noteStatus n e.val tag st) [R.LOOM_ENG_STAT.addr n 0] := by
  have heq : s.noteStatus n e.val tag st =
      ((s.put F.LOOM_ENG_STAT_STATUS st.code n).put F.LOOM_ENG_STAT_ENGINE e.val n).put F.LOOM_ENG_STAT_TAG tag n := if_pos ⟨hst, h0⟩
  rw [heq]
  refine ⟨?_, ?_, ?_⟩
  · rw [State.get_put_beside (f := F.LOOM_ENG_STAT_TAG) (g := F.LOOM_ENG_STAT_STATUS) _ _ _ rfl (by decide) (by decide),
      State.get_put_beside (f := F.LOOM_ENG_STAT_ENGINE) (g := F.LOOM_ENG_STAT_STATUS) _ _ _ rfl (by decide) (by decide),
      State.get_put _ _ _ _ _ (by decide)]
    exact Nat.mod_eq_of_lt st.code_lt
  · rw [State.get_put_beside (f := F.LOOM_ENG_STAT_TAG) (g := F.LOOM_ENG_STAT_ENGINE) _ _ _ rfl (by decide) (by decide),
      State.get_put _ _ _ _ _ (by decide)]
    exact Nat.mod_eq_of_lt e.isLt
  · refine onlyRegs_mono (onlyRegs_trans (onlyRegs_trans (s.put_onlyRegs F.LOOM_ENG_STAT_STATUS _ _)
      (State.put_onlyRegs _ F.LOOM_ENG_STAT_ENGINE _ _)) (State.put_onlyRegs _ F.LOOM_ENG_STAT_TAG _ _)) ?_
    simp [F.LOOM_ENG_STAT_STATUS, F.LOOM_ENG_STAT_ENGINE, F.LOOM_ENG_STAT_TAG]

theorem State.noteStatus_looms (s : State) (n e tag : Nat) (st : Status) : (s.noteStatus n e tag st).looms = s.looms := by
  unfold State.noteStatus
  split <;> rfl

theorem State.spoilStep_kept (s : State) (n cmd : Nat) : (s.spoilStep n cmd).looms = s.looms ∧ (s.spoilStep n cmd).regs = s.regs := by
  unfold State.spoilStep
  dsimp only
  split <;> exact ⟨rfl, rfl⟩

/-- The status of an instruction: held if it is the first other than DONE, with nothing of the looms changed. -/
theorem State.insStatus_held {s : State} {n : Nat} (e : Fin 4) (q : QIns) {st : Status} (hst : st ≠ .done) :
    (s.insStatus n e.val q st).looms = s.looms ∧ (s.get F.LOOM_ENG_STAT_STATUS n = 0 →
      (s.insStatus n e.val q st).get F.LOOM_ENG_STAT_STATUS n = st.code ∧
      (s.insStatus n e.val q st).get F.LOOM_ENG_STAT_ENGINE n = e.val) := by
  have heq : s.insStatus n e.val q st = (s.noteStatus n e.val q.echo st).spoilStep n q.cmd := if_neg hst
  obtain ⟨hlooms, hregs⟩ := (s.noteStatus n e.val q.echo st).spoilStep_kept n q.cmd
  rw [heq]
  refine ⟨hlooms.trans (s.noteStatus_looms n e.val q.echo st), fun h0 => ?_⟩
  obtain ⟨hcode, heng, -⟩ := State.noteStatus_held e q.echo hst h0
  rw [State.get_congr hregs, State.get_congr hregs]
  exact ⟨hcode, heng⟩

/-- An instruction on a wrong engine leaves its queue with BAD_PARAM. -/
theorem State.issueTurn_wrong {s : State} {n : Fin 64} {e : Fin 4} {q : QIns} {rest : List QIns}
    (hq : (s.loom n.val).queue e.val = q :: rest) (hf : s.frozen n.val = false) (hb : q.aux.blind = false)
    (he : engineRuns e.val q = false) : ((s.issueTurn n.val e.val).loom n.val).queue e.val = rest ∧
    (s.get F.LOOM_ENG_STAT_STATUS n.val = 0 →
      (s.issueTurn n.val e.val).get F.LOOM_ENG_STAT_STATUS n.val = Status.badParam.code ∧
      (s.issueTurn n.val e.val).get F.LOOM_ENG_STAT_ENGINE n.val = e.val) := by
  obtain ⟨u, hu⟩ : ∃ u, u = s.setLoom n.val { s.loom n.val with
      queues := tset (s.loom n.val).queues e.val rest
      cmds := (s.loom n.val).cmds.modify ((s.loom n.val).place q) fun c => { c with started := true } } := ⟨_, rfl⟩
  have hmay : mayIssue (s.loom n.val) e.val q = true := if_pos (by simp [he])
  have hturn : s.issueTurn n.val e.val = u.finishIns n.val e.val q .badParam := by
    unfold State.issueTurn
    rw [hq]
    dsimp only
    rw [if_pos (by rw [hf, hmay]; rfl), State.issueHead]
    dsimp only
    rw [if_neg (by rw [hb]; decide), if_pos (by rw [he]; rfl), hu]
  have hloom : u.loom n.val = { s.loom n.val with
      queues := tset (s.loom n.val).queues e.val rest
      cmds := (s.loom n.val).cmds.modify ((s.loom n.val).place q) fun c => { c with started := true } } := by
    rw [hu, State.loom_setLoom]
  have hregs : u.regs = s.regs := by rw [hu]; rfl
  rw [hturn]
  unfold State.finishIns
  dsimp only
  generalize hv : u.setLoom n.val _ = v
  obtain ⟨hlooms, hheld⟩ := v.insStatus_held (n := n.val) e q (st := .badParam) (by decide)
  have hvregs : v.regs = s.regs := by rw [← hv]; exact hregs
  have hqueue : (v.loom n.val).queue e.val = rest := by
    rw [← hv, State.loom_setLoom, Loom.queue, hloom]
    exact tgetD_tset_same _ _ _ _
  refine ⟨?_, fun h0 => hheld ((State.get_congr hvregs _ _ _).trans h0)⟩
  rw [State.loom, hlooms]
  exact hqueue

/-! ### Tags (R264) -/

theorem State.completeTag_kept {s : State} {n t : Nat} (st : Status) (d : Data) {x : Tag} (hx : tget? (s.loom n).tags t = some x)
    (hc : x.consumers ≠ 0) : ∃ y, tget? ((s.completeTag n t st d).loom n).tags t = some y ∧ y.status = some st.code ∧ y.payload = d ∧
      y.consumers = x.consumers := by
  refine ⟨{ x with status := some st.code, payload := d, remote := none, parked := none }, ?_, rfl, rfl, rfl⟩
  unfold State.completeTag
  dsimp only
  rw [hx]
  dsimp only
  rw [State.loom, State.noteStatus_looms, ← State.loom, State.loom_setLoom, if_neg hc]
  exact tget?_tset_same _ _ _

theorem Loom.consumed_last {l : Loom} {t : Nat} {x : Tag} (hs : tsorted l.tags = true) (hx : tget? l.tags t = some x)
    (hc : x.consumers = 1) (hst : x.status.isSome = true) : tget? (l.consumed t).tags t = none := by
  unfold Loom.consumed
  rw [hx]
  dsimp only
  rw [if_pos ⟨by rw [hc], hst⟩]
  exact tget?_tdel_same hs

/-- Settles O43: the placing of every instruction, when one issues and executes, and the statuses that are held. -/
theorem loomInstructions : Obligations.LoomInstructions := by
  unfold Obligations.LoomInstructions
  refine ⟨?feeds, ?refused, fun l e => Loom.nextCmd_none e, fun s n e q rest => State.issueTurn_wrong,
    fun l e t q => mayIssue_wait, ?unready, fun l earlier q => mayRun_pass, ?arrayWaits, fun l q => arrayMay_free,
    fun l cmd e => Loom.giveUp_ends, ?taken, ?remote, ?frozen, ?poisoned, ?second, ?first, fun s n t st d x => State.completeTag_kept st d,
    fun l t x => Loom.consumed_last, ?mm, ?conv⟩
  case feeds =>
    exact ⟨feeds_of fun _ _ _ _ _ => rfl, feeds_of fun _ _ _ _ _ => rfl, feeds_of fun _ _ _ _ _ => rfl, feeds_of fun _ _ _ _ _ => rfl,
      feeds_of fun _ _ _ _ _ => rfl, feeds_of fun _ _ _ _ _ => rfl, feeds_of fun _ _ _ _ _ => rfl, feeds_of fun _ _ _ _ _ => rfl,
      feeds_of fun _ _ _ _ _ => rfl, feeds_of fun _ _ _ _ _ => rfl, feeds_of fun _ _ _ _ _ => rfl⟩
  case refused =>
    intro s n e ws aux hl y hy h
    have hstay := State.feed_refused (aux := aux) h
    simp only [List.mem_cons, List.not_mem_nil, or_false] at hy
    rcases hy with rfl | rfl | rfl | rfl | rfl | rfl | rfl | rfl | rfl | rfl | rfl
    · exact goes_onCore hl (show execWload n e ws aux s = _ from rfl) hstay
    · exact goes_onCore hl (show execMm n e ws aux s = _ from rfl) hstay
    · exact goes_onCore hl (show execMmt n e ws aux s = _ from rfl) hstay
    · exact goes_onCore hl (show execConv n e ws aux s = _ from rfl) hstay
    · exact goes_onCore hl (show execDw n e ws aux s = _ from rfl) hstay
    · exact goes_onCore hl (show execVprog n e ws aux s = _ from rfl) hstay
    · exact goes_onCore hl (show execLfetch n e ws aux s = _ from rfl) hstay
    · exact goes_onCore hl (show execShuttle n e ws aux s = _ from rfl) hstay
    · exact goes_onCore hl (show execSignal n e ws aux s = _ from rfl) hstay
    · exact goes_onCore hl (show execWait n e ws aux s = _ from rfl) hstay
    · exact goes_onCore hl (show execEndInstr n e ws aux s = _ from rfl) hstay
  case unready =>
    intro l earlier t q hs hu hc
    simp [mayRun, hs, QIns.uses_all hu hc]
  case arrayWaits => exact fun l q r hs hr => ⟨arrayMay_split hs hr, arrayMay_swap hs hr⟩
  case taken =>
    intro l e q hb he ht htag
    rw [mayIssue_takes hb he ht, Option.isNone_eq_false_iff.mpr htag, Bool.false_and]
  case remote =>
    intro l e q hb he hr hfull
    rw [mayIssue_takes hb he (QIns.takes_of_remote hr), hr, decide_eq_false (Nat.not_lt.mpr hfull)]
    exact Bool.and_false _
  case frozen =>
    intro s n e q rest hq hf
    unfold State.issueTurn
    rw [hq]
    exact if_neg (by simp [hf])
  case poisoned =>
    intro s n q hp
    unfold State.runIns
    dsimp only
    rw [if_pos hp]
  case second => exact fun s n e tag st h => if_neg fun k => h k.2
  case first => exact fun s n e tag st hst h0 => State.noteStatus_held e tag hst h0
  case mm =>
    intro s n q h
    unfold State.runMm
    dsimp only
    rw [if_pos (by rw [h]; rfl)]
  case conv =>
    intro s n q d h
    unfold State.runConv
    dsimp only
    rw [if_pos (by rw [h]; rfl)]

end Sys2Proof.Machine
end

section
/-! PROOF. Device time's source and the commands of time and of the Ethernet ports. -/

namespace Sys2Proof.Machine
open Sys2Proof.Claims

/-! ### The servo: what the choice of device time's source may change -/

/-- The registers that show device time's source and rate. -/
def servoRegs : List Nat := [R.TK_STAT, R.TK_RATE_LO, R.TK_RATE_HI, R.TK_HOLDOVER].map fun r => r.addr 0 0

/-- `t` is `s` but for device time's rate, what holds it, and the registers that show them. -/
def Steered (s t : State) : Prop :=
  t = { s with regs := t.regs, freeUse := t.freeUse, time := { s.time with
    rate := t.time.rate, followed := t.time.followed, holdFrom := t.time.holdFrom } } ∧ SameRegs s t servoRegs

theorem steered_refl (s : State) : Steered s s := ⟨rfl, fun _ _ => rfl⟩

theorem steered_put {s t : State} (h : Steered s t) (f : Fld) (v : Nat) (hf : f.reg.addr 0 0 ∈ servoRegs) : Steered s (t.put f v) := by
  obtain ⟨ht, hr⟩ := h
  refine ⟨?_, fun a ha => ?_⟩
  · generalize hu : t.put f v = u
    have hk : u = { t with regs := u.regs } := hu ▸ rfl
    rw [hk, ht]
  · rw [← hr a ha]
    exact tget?_setReg _ _ _ _ _ _ fun he => ha (he ▸ hf)

theorem steered_putBit {s t : State} (h : Steered s t) (f : Fld) (b : Bool) (hf : f.reg.addr 0 0 ∈ servoRegs) :
    Steered s (t.putBit f b) := steered_put h f _ hf

theorem steered_drawn {s t : State} (h : Steered s t) : Steered s t.drawn := by
  obtain ⟨ht, hr⟩ := h
  exact ⟨by rw [ht]; rfl, hr⟩

/-- Device time's rate and what holds it are part of what the servo sets. -/
theorem steered_time {s t : State} (h : Steered s t) (r : Int) (b : Bool) (n : Nat) :
    Steered s { t with time := { t.time with rate := r, followed := b, holdFrom := n } } := by
  obtain ⟨ht, hr⟩ := h
  exact ⟨by rw [ht], hr⟩

theorem State.follow_steered (s : State) : Steered s s.follow := by
  unfold State.follow
  split
  · extract_lets x c k t
    have ht : Steered s { t with time := { t.time with rate := rateUnits (x.rate + c) } } :=
      steered_time (steered_drawn (steered_time (steered_refl s) s.time.rate true s.time.holdFrom)) _ true s.time.holdFrom
    exact steered_putBit (steered_putBit (steered_putBit (steered_put (steered_put ht _ _ (by decide)) _ _ (by decide))
      _ _ (by decide)) _ _ (by decide)) _ _ (by decide)
  · extract_lets v
    have ht : Steered s v := steered_putBit (steered_putBit (steered_refl s) _ _ (by decide)) _ _ (by decide)
    split
    · exact steered_putBit (steered_put (steered_time ht v.time.rate v.time.followed v.time.uptime) _ _ (by decide)) _ _ (by decide)
    · exact ht

theorem steered_trans {s t u : State} (h : Steered s t) (k : Steered t u) : Steered s u := by
  obtain ⟨ht, hr⟩ := h
  obtain ⟨hu, hq⟩ := k
  exact ⟨by rw [hu, ht], fun a ha => (hq a ha).trans (hr a ha)⟩

theorem State.showLocks_steered (s : State) : Steered s s.showLocks :=
  steered_putBit (steered_putBit (steered_refl s) _ _ (by decide)) _ _ (by decide)

theorem State.autoSelect_steered (s : State) : Steered s s.autoSelect := by
  unfold State.autoSelect
  extract_lets d
  split
  · exact steered_put (steered_refl s) _ _ (by decide)
  · exact steered_refl s

theorem State.servo_steered (s : State) : Steered s s.servo :=
  steered_trans (steered_trans s.showLocks_steered s.showLocks.autoSelect_steered) (State.follow_steered _)

theorem steered_now {s t : State} (h : Steered s t) : t.time.now = s.time.now := by rw [h.1]

theorem steered_dom {s t : State} (h : Steered s t) (d : Nat) : t.dom d = s.dom d := by rw [h.1]; rfl

theorem steered_reg {s t : State} (h : Steered s t) (r : Reg) (i : Nat) (hr : r.addr i 0 ∉ servoRegs) : t.reg r i = s.reg r i :=
  by rw [State.reg, State.reg, h.2 _ hr]

theorem steered_get {s t : State} (h : Steered s t) (f : Fld) (i : Nat) (hf : f.reg.addr i 0 ∉ servoRegs) : t.get f i = s.get f i := by
  rw [State.get, State.get, steered_reg h _ _ hf]

theorem steered_on {s t : State} (h : Steered s t) (f : Fld) (i : Nat) (hf : f.reg.addr i 0 ∉ servoRegs) : t.on f i = s.on f i := by
  rw [State.on, State.on, steered_get h f i hf]

/-- A selected domain that is locked stays selected, and device time follows it. -/
theorem State.follow_some {s : State} {d : Nat} (h : s.followedDom = some d) :
    s.follow.get F.TK_STAT_SEL = s.get F.TK_STAT_SEL ∧ s.follow.on F.TK_STAT_FOLLOWING = true := by
  unfold State.follow
  split
  · extract_lets x c k t
    have hreg : t.get F.TK_STAT_SEL = s.get F.TK_STAT_SEL := rfl
    clear_value t
    refine ⟨?_, ?_⟩
    · unfold State.setRate State.putBit
      extract_lets k u
      have hu : u.get F.TK_STAT_SEL = t.get F.TK_STAT_SEL := rfl
      clear_value u
      rw [State.get_put_stride (f := F.TK_HOLDOVER_ACTIVE) (g := F.TK_STAT_SEL) (hs := rfl) (hm := by decide),
        State.get_put_beside (f := F.TK_STAT_SLEWING) (g := F.TK_STAT_SEL) _ _ 0 rfl (by decide) (by decide),
        State.get_put_beside (f := F.TK_STAT_FOLLOWING) (g := F.TK_STAT_SEL) _ _ 0 rfl (by decide) (by decide),
        State.get_put_stride (f := F.TK_RATE_HI_RATE) (g := F.TK_STAT_SEL) (hs := rfl) (hm := by decide),
        State.get_put_stride (f := F.TK_RATE_LO_RATE) (g := F.TK_STAT_SEL) (hs := rfl) (hm := by decide), hu, hreg]
    · rw [State.on, State.putBit, State.get_put_stride (f := F.TK_HOLDOVER_ACTIVE) (g := F.TK_STAT_FOLLOWING) (hs := rfl) (hm := by decide),
        State.putBit, State.get_put_beside (f := F.TK_STAT_SLEWING) (g := F.TK_STAT_FOLLOWING) _ _ 0 rfl (by decide) (by decide)]
      exact State.on_putBit _ F.TK_STAT_FOLLOWING true 0 0 rfl (by decide)
  · rename_i hn
    rw [h] at hn
    cases hn

theorem domStat_apart {d : Nat} (hd : d < 2) : R.TK_DOM_STAT.addr d 0 ∉ servoRegs :=
  (by decide : ∀ d < 2, R.TK_DOM_STAT.addr d 0 ∉ servoRegs) d hd

theorem steered_locked {s t : State} (h : Steered s t) {d : Nat} (hd : d < 2) : t.lockedDom d = s.lockedDom d :=
  steered_on h F.TK_DOM_STAT_LOCKED d (domStat_apart hd)

theorem State.showLocks_sel (s : State) : s.showLocks.get F.TK_STAT_SEL = s.get F.TK_STAT_SEL := by
  unfold State.showLocks State.putBit
  rw [State.get_put_beside (f := F.TK_STAT_DOM1_LOCK) (g := F.TK_STAT_SEL) _ _ 0 rfl (by decide) (by decide),
    State.get_put_beside (f := F.TK_STAT_DOM0_LOCK) (g := F.TK_STAT_SEL) _ _ 0 rfl (by decide) (by decide)]

theorem State.servo_locked {s : State} {d : Nat} (hlt : d < 2) (hd : s.get F.TK_STAT_SEL = d) (hlock : s.lockedDom d = true) :
    s.servo.get F.TK_STAT_SEL = d ∧ s.servo.on F.TK_STAT_FOLLOWING = true := by
  have hsel : s.showLocks.get F.TK_STAT_SEL = d := s.showLocks_sel.trans hd
  have hl : s.showLocks.lockedDom d = true := (steered_locked s.showLocks_steered hlt).trans hlock
  have hauto : s.showLocks.autoSelect = s.showLocks := if_neg (by rw [hsel, hl]; simp)
  have hf : s.showLocks.followedDom = some d := by rw [State.followedDom, hsel]; exact if_pos hl
  obtain ⟨h1, h2⟩ := State.follow_some hf
  rw [State.servo, hauto]
  exact ⟨h1.trans hsel, h2⟩

/-! ### CMD_TIME_DOMAIN_SET and CMD_ETH_CONFIG -/

/-- The state of a domain in its register. -/
def domWord (c : Cmd) : Nat :=
  bitsOf (c.p 4) 0 1 + 8 * c.p 1 + 16 * c.p 3 + 32 * bitsOf (c.p 4) 1 1 + 64 * bitsOf (c.p 4) 2 1 + 256 * c.p 2

theorem domWord_fields (c : Cmd) (h1 : c.p 1 < 2) (h2 : c.p 2 < 256) (h3 : c.p 3 < 2) :
    bitsOf (domWord c % 2 ^ 32) 0 1 = bitsOf (c.p 4) 0 1 ∧ bitsOf (domWord c % 2 ^ 32) 1 1 = 0 ∧
      bitsOf (domWord c % 2 ^ 32) 3 1 = c.p 1 ∧ bitsOf (domWord c % 2 ^ 32) 8 8 = c.p 2 := by
  have ha : bitsOf (c.p 4) 0 1 < 2 := bitsOf_lt _ _ _
  have hb : bitsOf (c.p 4) 1 1 < 2 := bitsOf_lt _ _ _
  have hc : bitsOf (c.p 4) 2 1 < 2 := bitsOf_lt _ _ _
  unfold domWord
  generalize bitsOf (c.p 4) 0 1 = a at *
  generalize bitsOf (c.p 4) 1 1 = b at *
  generalize bitsOf (c.p 4) 2 1 = e at *
  simp only [bitsOf]
  omega

theorem bitsOf_one_ne (x i : Nat) : (bitsOf x i 1 != 0) = bitAt x i := by
  have h : x / 2 ^ i % 2 < 2 := Nat.mod_lt _ (by decide)
  rw [bitsOf, bitAt, pow_one]
  rcases (by omega : x / 2 ^ i % 2 = 0 ∨ x / 2 ^ i % 2 = 1) with h | h <;> rw [h] <;> rfl

theorem State.showDom_only (s : State) (d : Nat) : OnlyRegs s (s.showDom d) [R.TK_DOM_OFFSET.addr d 0, R.TK_DOM_RATE.addr d 0] :=
  onlyRegs_trans (s.put_onlyRegs _ _ _) (State.put_onlyRegs _ _ _ _)

theorem State.showDom_domStat (s : State) {d : Nat} (hd : d < 2) : (s.showDom d).reg R.TK_DOM_STAT d = s.reg R.TK_DOM_STAT d := by
  have h := (s.showDom_only d).2 (R.TK_DOM_STAT.addr d 0)
    ((by decide : ∀ d < 2, R.TK_DOM_STAT.addr d 0 ∉ [R.TK_DOM_OFFSET.addr d 0, R.TK_DOM_RATE.addr d 0]) d hd)
  rw [State.reg, State.reg, h]


/-- A port's link goes down, and nothing beyond registers and the In-Band Interrupts changes. -/
theorem State.linkChange_down (s : State) {p : Nat} (hp : p < 2) :
    (s.linkChange p false).on F.ETH_STAT_LINK_UP p = false ∧ (s.linkChange p false).time = s.time := by
  unfold State.linkChange
  split
  · rename_i h
    exact ⟨by simpa using h, rfl⟩
  · refine ⟨?_, ?_⟩
    · rw [if_neg Bool.false_ne_true, State.on, State.bump, State.bumpBy,
        State.get_put_stride (f := F.ETH_CNT_LINK_DOWN) (g := F.ETH_STAT_LINK_UP) (hs := rfl) (hm := by decide),
        State.get_congr (State.raise_regs _ _), State.get_put_other]
      · exact State.on_putBit _ F.ETH_STAT_LINK_UP false p 0 rfl (by decide)
      · exact (by decide : ∀ p < 2, F.ETH_STAT_LINK_UP.reg.addr p 0 ≠ F.HOST_IBI_CAUSE_LINK.reg.addr 0 0) p hp
    · rw [if_neg Bool.false_ne_true, State.bump, State.bumpBy, State.put_time, State.raise_i]
      rfl

/-- A port's settings, as CMD_ETH_CONFIG writes them. -/
def State.putEth (s : State) (p : Nat) (c : Cmd) : State :=
  (((s.put F.ETH_CFG_SPEED (c.p 1) p).put F.ETH_ASYM_RX_PS (c.p 2) p).put F.ETH_ASYM_TX_PS (c.p 3) p).put F.ETH_LATE_POLICY_DROP (c.p 4) p

theorem State.putEth_kept (s : State) (p : Nat) (c : Cmd) (f : Fld) (hs : f.reg.stride = 0x100) (hm : ∀ b ∈
    [R.ETH_CFG, R.ETH_ASYM_RX, R.ETH_ASYM_TX, R.ETH_LATE_POLICY].map (·.base % 0x100), f.reg.base % 0x100 ≠ b) :
    (s.putEth p c).get f p = s.get f p := by
  unfold State.putEth
  rw [State.get_put_stride (f := F.ETH_LATE_POLICY_DROP) (hs := hs) (hm := by rw [hs]; exact hm (R.ETH_LATE_POLICY.base % 0x100) (by decide)),
    State.get_put_stride (f := F.ETH_ASYM_TX_PS) (hs := hs) (hm := by rw [hs]; exact hm (R.ETH_ASYM_TX.base % 0x100) (by decide)),
    State.get_put_stride (f := F.ETH_ASYM_RX_PS) (hs := hs) (hm := by rw [hs]; exact hm (R.ETH_ASYM_RX.base % 0x100) (by decide)),
    State.get_put_stride (f := F.ETH_CFG_SPEED) (hs := hs) (hm := by rw [hs]; exact hm (R.ETH_CFG.base % 0x100) (by decide))]

theorem State.putEth_settings (s : State) (p : Nat) (c : Cmd) : (s.putEth p c).get F.ETH_CFG_SPEED p = c.p 1 % 2 ^ 2 ∧
    (s.putEth p c).get F.ETH_ASYM_RX_PS p = c.p 2 % 2 ^ 32 ∧ (s.putEth p c).get F.ETH_ASYM_TX_PS p = c.p 3 % 2 ^ 32 ∧
    (s.putEth p c).get F.ETH_LATE_POLICY_DROP p = c.p 4 % 2 ^ 1 := by
  unfold State.putEth
  refine ⟨?_, ?_, ?_, State.get_put _ _ _ _ _ (by decide)⟩
  · rw [State.get_put_stride (f := F.ETH_LATE_POLICY_DROP) (g := F.ETH_CFG_SPEED) (hs := rfl) (hm := by decide),
      State.get_put_stride (f := F.ETH_ASYM_TX_PS) (g := F.ETH_CFG_SPEED) (hs := rfl) (hm := by decide),
      State.get_put_stride (f := F.ETH_ASYM_RX_PS) (g := F.ETH_CFG_SPEED) (hs := rfl) (hm := by decide)]
    exact State.get_put _ _ _ _ _ (by decide)
  · rw [State.get_put_stride (f := F.ETH_LATE_POLICY_DROP) (g := F.ETH_ASYM_RX_PS) (hs := rfl) (hm := by decide),
      State.get_put_stride (f := F.ETH_ASYM_TX_PS) (g := F.ETH_ASYM_RX_PS) (hs := rfl) (hm := by decide)]
    exact State.get_put _ _ _ _ _ (by decide)
  · rw [State.get_put_stride (f := F.ETH_LATE_POLICY_DROP) (g := F.ETH_ASYM_TX_PS) (hs := rfl) (hm := by decide)]
    exact State.get_put _ _ _ _ _ (by decide)

/-! ### The compare unit of a launch port -/

theorem onlyRegs_get {s t : State} {but : List Nat} (h : OnlyRegs s t but) (f : Fld) (i : Nat) (hf : f.reg.addr i 0 ∉ but) :
    t.get f i = s.get f i := by
  rw [State.get, State.get, State.reg, State.reg, h.2 _ hf]

theorem onlyRegs_on {s t : State} {but : List Nat} (h : OnlyRegs s t but) (f : Fld) (i : Nat) (hf : f.reg.addr i 0 ∉ but) :
    t.on f i = s.on f i := by
  rw [State.on, State.on, onlyRegs_get h f i hf]

/-- The registers of a compare unit. -/
def cmpRegs (u : Nat) : List Nat := [R.TK_CMP_NS.addr u 0, R.TK_CMP_S_LO.addr u 0, R.TK_CMP_S_HI.addr u 0]

theorem ethStat_apart {u p : Nat} (hu : u < 32) (hp : p < 2) : R.ETH_STAT.addr p 0 ∉ cmpRegs u :=
  (by decide : ∀ u < 32, ∀ p < 2, R.ETH_STAT.addr p 0 ∉ cmpRegs u) u hu p hp

theorem own_apart {u i p : Nat} (hu : u < 32) (hi : i < 45) (hp : p < 2) : R.SYS_OWN.addr i 0 ∉ R.ETH_STAT.addr p 0 :: cmpRegs u := by
  simp only [cmpRegs, Reg.addr, R.SYS_OWN, R.ETH_STAT, R.TK_CMP_NS, R.TK_CMP_S_LO, R.TK_CMP_S_HI, List.mem_cons, List.not_mem_nil, or_false]
  omega

/-- A launch port's compare unit. -/
theorem State.ethUnit_lt (s : State) (p : Nat) : s.get F.ETH_STAT_UNIT p < 32 := bitsOf_lt _ _ _

theorem State.showEth_only (s : State) (p : Nat) :
    OnlyRegs s (s.showEth p) (R.ETH_STAT.addr p 0 :: cmpRegs (s.get F.ETH_STAT_UNIT p)) := by
  unfold State.showEth
  extract_lets u t
  have ht : OnlyRegs s t [R.ETH_STAT.addr p 0] := s.put_onlyRegs _ _ _
  clear_value t
  split
  · split
    · exact onlyRegs_mono (onlyRegs_trans ht (onlyRegs_trans (t.put_onlyRegs F.TK_CMP_NS_NS _ u)
        (onlyRegs_trans (State.put_onlyRegs _ F.TK_CMP_S_LO_S _ u) (onlyRegs_trans (State.put_onlyRegs _ F.TK_CMP_S_HI_S_HI _ u)
          (State.put_onlyRegs _ F.TK_CMP_S_HI_ARMED _ u))))) (by
            simp [cmpRegs, u, F.TK_CMP_NS_NS, F.TK_CMP_S_LO_S, F.TK_CMP_S_HI_S_HI, F.TK_CMP_S_HI_ARMED])
    · exact onlyRegs_mono (onlyRegs_trans ht (t.put_onlyRegs F.TK_CMP_S_HI_ARMED _ u)) (by simp [cmpRegs, u, F.TK_CMP_S_HI_ARMED])
  · exact onlyRegs_mono ht (by simp)

/-- What a port shows of its queue leaves the other fields of its status. -/
theorem State.showEth_stat (s : State) {p : Nat} (hp : p < 2) (f : Fld) (hreg : f.reg = R.ETH_STAT) (hlo : f.lo + f.width ≤ 8) :
    (s.showEth p).get f p = s.get f p := by
  have hq : (s.put F.ETH_STAT_QUEUED (s.eth p).queue.length p).get f p = s.get f p :=
    State.get_put_beside (f := F.ETH_STAT_QUEUED) _ _ p hreg (by omega) (.inl hlo)
  have hne : f.reg.addr p 0 ∉ cmpRegs (s.get F.ETH_STAT_UNIT p) := hreg ▸ ethStat_apart (s.ethUnit_lt p) hp
  unfold State.showEth
  extract_lets u t
  have hu : f.reg.addr p 0 ∉ cmpRegs u := hne
  have htq : t.get f p = s.get f p := hq
  clear_value t u
  simp only [cmpRegs, List.mem_cons, not_or] at hu
  obtain ⟨hn, hl, hh, -⟩ := hu
  split
  · split
    · rw [State.putBit, State.get_put_other _ F.TK_CMP_S_HI_ARMED _ _ _ _ _ _ hh, State.putTime,
        State.get_put_other _ F.TK_CMP_S_HI_S_HI _ _ _ _ _ _ hh, State.get_put_other _ F.TK_CMP_S_LO_S _ _ _ _ _ _ hl,
        State.get_put_other _ F.TK_CMP_NS_NS _ _ _ _ _ _ hn, htq]
    · rw [State.putBit, State.get_put_other _ F.TK_CMP_S_HI_ARMED _ _ _ _ _ _ hh, htq]
  · exact htq

theorem State.own_onlyRegs (s : State) {i : Nat} (h : 12 < i) (o n : Nat) : OnlyRegs s (s.own i o n) [R.SYS_OWN.addr i 0] := by
  have hown : s.own i o n = (s.put F.SYS_OWN_OWNER o i).put F.SYS_OWN_INSTANCE n i := if_neg (by omega)
  rw [hown]
  exact onlyRegs_mono (onlyRegs_trans (s.put_onlyRegs _ _ _) (State.put_onlyRegs _ _ _ _)) (by simp [F.SYS_OWN_OWNER, F.SYS_OWN_INSTANCE])

theorem State.dropUnit_only (s : State) (p : Nat) : OnlyRegs s (s.dropUnit p) [R.SYS_OWN.addr (13 + s.get F.ETH_STAT_UNIT p) 0,
    R.TK_CMP_S_HI.addr (s.get F.ETH_STAT_UNIT p) 0, R.ETH_STAT.addr p 0] := by
  unfold State.dropUnit
  extract_lets u
  split
  · exact onlyRegs_mono (onlyRegs_trans (s.own_onlyRegs (by omega) _ _) (onlyRegs_trans (State.put_onlyRegs _ F.TK_CMP_S_HI_ARMED _ u)
      (onlyRegs_trans (State.put_onlyRegs _ F.ETH_STAT_LAUNCH_EN _ p) (State.put_onlyRegs _ F.ETH_STAT_UNIT _ p)))) (by
        simp [u, F.TK_CMP_S_HI_ARMED, F.ETH_STAT_LAUNCH_EN, F.ETH_STAT_UNIT])
  · exact ⟨rfl, fun _ _ => rfl⟩


theorem State.dropUnit_off (s : State) (p : Nat) : (s.dropUnit p).on F.ETH_STAT_LAUNCH_EN p = false := by
  unfold State.dropUnit
  extract_lets u
  split
  · rw [State.on, State.get_put_beside (f := F.ETH_STAT_UNIT) (g := F.ETH_STAT_LAUNCH_EN) _ _ p rfl (by decide) (by decide)]
    exact State.on_putBit _ F.ETH_STAT_LAUNCH_EN false p 0 rfl (by decide)
  · rename_i h
    simpa using h

theorem State.dropUnit_owner (s : State) {p : Nat} (hp : p < 2) (h : s.on F.ETH_STAT_LAUNCH_EN p = true) :
    (s.dropUnit p).owner (13 + s.get F.ETH_STAT_UNIT p) = ownNone := by
  have hu := s.ethUnit_lt p
  have hne := own_apart (i := 13 + s.get F.ETH_STAT_UNIT p) hu (by omega) hp
  simp only [cmpRegs, List.mem_cons, not_or] at hne
  obtain ⟨he, -, -, hh, -⟩ := hne
  rw [State.owner_eq _ (by omega), State.dropUnit, if_pos h, State.get_put_other _ F.ETH_STAT_UNIT F.SYS_OWN_OWNER _ _ _ _ _ he,
    State.putBit, State.get_put_other _ F.ETH_STAT_LAUNCH_EN F.SYS_OWN_OWNER _ _ _ _ _ he,
    State.putBit, State.get_put_other _ F.TK_CMP_S_HI_ARMED F.SYS_OWN_OWNER _ _ _ _ _ hh]
  exact (State.get_own _ _ _ _).1

/-- What CMD_LAUNCH_ENABLE leaves: the port has the unit, in the place of the one it had. -/
def State.takeUnit (s : State) (p u : Nat) : State :=
  ((((s.dropUnit p).own (13 + u) ownLaunch p).putBit F.ETH_STAT_LAUNCH_EN true p).put F.ETH_STAT_UNIT u p).showEth p

theorem State.takeUnit_spec (s : State) {p u : Nat} (hp : p < 2) (hu : u < 32) :
    OnlyRegs s (s.takeUnit p u) (([R.SYS_OWN.addr (13 + s.get F.ETH_STAT_UNIT p) 0, R.TK_CMP_S_HI.addr (s.get F.ETH_STAT_UNIT p) 0,
      R.ETH_STAT.addr p 0] ++ [R.SYS_OWN.addr (13 + u) 0]) ++ (R.ETH_STAT.addr p 0 :: cmpRegs u)) ∧
    (s.takeUnit p u).on F.ETH_STAT_LAUNCH_EN p = true ∧ (s.takeUnit p u).get F.ETH_STAT_UNIT p = u ∧
    (s.takeUnit p u).owner (13 + u) = ownLaunch ∧ (s.takeUnit p u).ownerInst (13 + u) = p := by
  unfold State.takeUnit
  generalize hx : (s.dropUnit p).own (13 + u) ownLaunch p = x
  have hdx : OnlyRegs s x ([R.SYS_OWN.addr (13 + s.get F.ETH_STAT_UNIT p) 0, R.TK_CMP_S_HI.addr (s.get F.ETH_STAT_UNIT p) 0,
      R.ETH_STAT.addr p 0] ++ [R.SYS_OWN.addr (13 + u) 0]) :=
    hx ▸ onlyRegs_trans (s.dropUnit_only p) (State.own_onlyRegs _ (by omega) _ _)
  have hgx := (s.dropUnit p).get_own (13 + u) ownLaunch p
  rw [hx] at hgx
  obtain ⟨howner, hinst⟩ := hgx
  generalize hy : (x.putBit F.ETH_STAT_LAUNCH_EN true p).put F.ETH_STAT_UNIT u p = y
  have hxy : OnlyRegs x y [R.ETH_STAT.addr p 0] :=
    hy ▸ onlyRegs_mono (onlyRegs_trans (x.put_onlyRegs F.ETH_STAT_LAUNCH_EN _ p) (State.put_onlyRegs _ F.ETH_STAT_UNIT _ p))
      (by simp [F.ETH_STAT_LAUNCH_EN, F.ETH_STAT_UNIT])
  have hen : y.on F.ETH_STAT_LAUNCH_EN p = true := by
    rw [← hy, State.on, State.get_put_beside (f := F.ETH_STAT_UNIT) (g := F.ETH_STAT_LAUNCH_EN) _ _ p rfl (by decide) (by decide)]
    exact State.on_putBit x F.ETH_STAT_LAUNCH_EN true p 0 rfl (by decide)
  have hunit : y.get F.ETH_STAT_UNIT p = u := by
    rw [← hy, State.get_put _ _ _ _ _ (by decide)]
    exact Nat.mod_eq_of_lt hu
  have hsh := y.showEth_only p
  rw [hunit] at hsh
  have hxz := onlyRegs_mono (bs := R.ETH_STAT.addr p 0 :: cmpRegs u) (onlyRegs_trans hxy hsh) (by simp)
  have hown : R.SYS_OWN.addr (13 + u) 0 ∉ R.ETH_STAT.addr p 0 :: cmpRegs u := own_apart hu (by omega) hp
  refine ⟨onlyRegs_trans hdx hxz, ?_, ?_, ?_, ?_⟩
  · rw [State.on, y.showEth_stat hp F.ETH_STAT_LAUNCH_EN rfl (by decide)]
    exact hen
  · rw [y.showEth_stat hp F.ETH_STAT_UNIT rfl (by decide), hunit]
  · rw [State.owner_eq _ (by omega), onlyRegs_get hxz F.SYS_OWN_OWNER (13 + u) hown, howner]
    rfl
  · rw [State.ownerInst, State.ownReg, decide_eq_false (by omega)]
    exact (onlyRegs_get hxz F.SYS_OWN_INSTANCE (13 + u) hown).trans (hinst.trans (Nat.mod_eq_of_lt (by omega)))

/-- Settles O48: device time, its domains, the ports' settings and their compare units. -/
theorem timeAndPortCommands : Obligations.TimeAndPortCommands := by
  unfold Obligations.TimeAndPortCommands
  refine ⟨?read, ?domain, ?select, ?config, ?launch, ?drop⟩
  case read =>
    intro s src c h
    exact ends_runCmd h (show execCmdTimeRead src s = _ from rfl) rfl
  case domain =>
    intro s src c h htgt
    have hi : exec (.cmdTimeDomainSet src) s = _ := (show execCmdTimeDomainSet src s = _ from rfl)
    refine ⟨fun hbad => ends_runCmd h hi (if_pos hbad), fun h1 h2 h3 => ?_⟩
    generalize hx : ((s.dropOldest src).setReg R.TK_DOM_STAT (domWord c) c.target).setDom c.target {} = x
    have hst := (x.showDom c.target).servo_steered
    have hreg : (x.showDom c.target).servo.reg R.TK_DOM_STAT c.target = domWord c % 2 ^ 32 := by
      rw [steered_reg hst _ _ (domStat_apart htgt), State.showDom_domStat _ htgt, ← hx]
      exact (s.dropOldest src).reg_setReg R.TK_DOM_STAT _ _ 0
    obtain ⟨hen, hlk, hport, hdom⟩ := domWord_fields c h1 h2 h3
    refine ⟨(x.showDom c.target).servo, ends_runCmd h hi ((if_neg (by omega)).trans (by rw [← hx]; rfl)), ?_, ?_, ?_, ?_, ?_⟩
    · exact (congrArg (fun w => bitsOf w 0 1 != 0) hreg).trans (by rw [hen]; exact bitsOf_one_ne _ _)
    · exact (congrArg (fun w => bitsOf w 3 1) hreg).trans hport
    · exact (congrArg (fun w => bitsOf w 8 8) hreg).trans hdom
    · exact (congrArg (fun w => bitsOf w 1 1 != 0) hreg).trans (by rw [hlk]; rfl)
    · rw [steered_dom hst, ← hx]
      exact tgetD_tset_same _ _ _ _
  case select =>
    intro s src c h htgt
    have hi : exec (.cmdTimeSelect src) s = _ := (show execCmdTimeSelect src s = _ from rfl)
    refine ⟨fun hlock => ends_runCmd h hi (if_neg ((Bool.eq_false_iff).1 hlock)), fun hlock => ?_⟩
    generalize hx : (s.dropOldest src).put F.TK_STAT_SEL c.target = x
    have hsel : x.get F.TK_STAT_SEL = c.target := by
      rw [← hx, State.get_put _ _ _ _ _ (by decide)]
      exact Nat.mod_eq_of_lt htgt
    have hl : x.lockedDom c.target = true := by
      rw [← hx]
      exact (steered_locked (steered_put (steered_refl _) F.TK_STAT_SEL _ (by decide)) htgt).trans hlock
    obtain ⟨h1, h2⟩ := State.servo_locked htgt hsel hl
    refine ⟨x.servo, ends_runCmd h hi ((if_pos hlock).trans (by rw [hx]; rfl)), h1, h2, ?_⟩
    rw [steered_now x.servo_steered, ← hx]
    rfl
  case config =>
    intro s src c h htgt
    have hi : exec (.cmdEthConfig src) s = _ := (show execCmdEthConfig src s = _ from rfl)
    refine ⟨fun hbad => ends_runCmd h hi (if_pos hbad), fun h1 h4 hnew hl => ends_runCmd h hi ?_, fun h1 h4 hok => ?_⟩
    · have hn : (s.get F.ETH_CFG_SPEED c.target != c.p 1 && s.on F.ETH_STAT_LAUNCH_EN c.target) = true := by simp [hnew, hl]
      exact (if_neg (by omega)).trans (if_pos hn)
    · have hn : ¬(s.get F.ETH_CFG_SPEED c.target != c.p 1 && s.on F.ETH_STAT_LAUNCH_EN c.target) = true := by
        rcases hok with hok | hok <;> simp [hok]
      generalize ha : (if (s.get F.ETH_CFG_SPEED c.target != c.p 1 || c.p 1 == 0) then (s.dropOldest src).linkChange c.target false
        else s.dropOldest src) = a
      obtain ⟨hdown, hkeep⟩ := (s.dropOldest src).linkChange_down htgt
      have hlink : (s.get F.ETH_CFG_SPEED c.target ≠ c.p 1 ∨ c.p 1 = 0) → a.on F.ETH_STAT_LINK_UP c.target = false := by
        intro hd
        rw [← ha, if_pos (by simpa using hd)]
        exact hdown
      have hsame : s.get F.ETH_CFG_SPEED c.target = c.p 1 → c.p 1 ≠ 0 →
          a.on F.ETH_STAT_LINK_UP c.target = s.on F.ETH_STAT_LINK_UP c.target := by
        intro hd h0
        rw [← ha, if_neg (by simp [hd, h0])]
        rfl
      have htime : a.time = s.time := by
        rw [← ha]
        split
        · exact hkeep
        · rfl
      generalize hu : a.setEth c.target { a.eth c.target with configured := true } = u
      have hup : (u.putEth c.target c).on F.ETH_STAT_LINK_UP c.target = a.on F.ETH_STAT_LINK_UP c.target := by
        rw [State.on, State.putEth_kept u c.target c F.ETH_STAT_LINK_UP rfl (by decide), ← hu]
        rfl
      obtain ⟨hspeed, hrx, htx, hdrop⟩ := u.putEth_settings c.target c
      refine ⟨u.putEth c.target c, ends_runCmd h hi ((if_neg (by omega)).trans ((if_neg hn).trans ?_)), ?_, ?_, ?_, ?_, ?_, ?_, ?_, ?_⟩
      · rw [← hu, ← ha]
        rfl
      · exact hspeed.trans (Nat.mod_eq_of_lt (by omega))
      · exact hrx.trans (Nat.mod_eq_of_lt (c.p_lt 2))
      · exact htx.trans (Nat.mod_eq_of_lt (c.p_lt 3))
      · exact hdrop.trans (Nat.mod_eq_of_lt (by omega))
      · show u.time.now = s.time.now
        rw [← hu, ← htime]
        rfl
      · show u.eth c.target = _
        have hx : a.eth c.target = s.eth c.target := by rw [State.eth, State.eth, htime]
        rw [← hu, ← hx]
        exact tgetD_tset_same _ _ _ _
      · exact fun hd => hup.trans (hlink hd)
      · exact fun hd h0 => hup.trans (hsame hd h0)
  case launch =>
    intro s src c h htgt
    have hi : exec (.cmdLaunchEnable src) s = _ := (show execCmdLaunchEnable src s = _ from rfl)
    refine ⟨fun hbad => ends_runCmd h hi (if_pos hbad), fun h1 hup => ends_runCmd h hi ?_, fun h1 hup hheld => ends_runCmd h hi ?_,
      fun h1 hup hheld hon hne hq => ends_runCmd h hi ?_, fun h1 hup hheld hok => ?_⟩
    · exact (if_neg (by omega)).trans (if_pos (show (!s.on F.ETH_STAT_LINK_UP c.target) = true by simp [hup]))
    · exact (if_neg (by omega)).trans ((if_neg (show ¬(!s.on F.ETH_STAT_LINK_UP c.target) = true by simp [hup])).trans (if_pos hheld))
    · exact (if_neg (by omega)).trans ((if_neg (show ¬(!s.on F.ETH_STAT_LINK_UP c.target) = true by simp [hup])).trans
        ((if_neg (show ¬s.heldByOther (13 + c.p 1) ownLaunch c.target = true by simp [hheld])).trans
        (if_pos (show (s.on F.ETH_STAT_LAUNCH_EN c.target && s.get F.ETH_STAT_UNIT c.target != c.p 1 &&
          !(s.eth c.target).queue.isEmpty) = true by simp [hon, hne, hq]))))
    · have hno : ¬(s.on F.ETH_STAT_LAUNCH_EN c.target && s.get F.ETH_STAT_UNIT c.target != c.p 1 &&
          !(s.eth c.target).queue.isEmpty) = true := by
        rcases hok with hok | hok | hok <;> simp [hok]
      obtain ⟨honly, hen, hunit, hown, hinst⟩ := (s.dropOldest src).takeUnit_spec htgt h1
      refine ⟨_, ends_runCmd h hi ((if_neg (by omega)).trans
        ((if_neg (show ¬(!s.on F.ETH_STAT_LINK_UP c.target) = true by simp [hup])).trans
        ((if_neg (show ¬s.heldByOther (13 + c.p 1) ownLaunch c.target = true by simp [hheld])).trans
        ((if_neg hno).trans rfl)))), onlyRegs_mono honly ?_, hen, hunit, hown, hinst⟩
      intro a ha
      have hk : (s.dropOldest src).get F.ETH_STAT_UNIT c.target = s.get F.ETH_STAT_UNIT c.target := rfl
      rw [hk] at ha
      simp only [cmpRegs, List.map_cons, List.map_nil, List.flatMap_cons, List.flatMap_nil, List.cons_append, List.nil_append,
        List.mem_cons, List.not_mem_nil, or_false] at ha ⊢
      tauto
  case drop =>
    intro s src c h htgt
    have hi : exec (.cmdLaunchDisable src) s = _ := (show execCmdLaunchDisable src s = _ from rfl)
    have hqe (t : List TimedFrame) : (!t.isEmpty) = true ↔ t ≠ [] := by simp
    refine ⟨fun hq => ends_runCmd h hi (if_pos ((hqe _).2 hq)), fun hq => ?_⟩
    refine ⟨(s.dropOldest src).dropUnit c.target, ends_runCmd h hi (if_neg fun hne => (hqe _).1 hne hq), ?_, State.dropUnit_off _ _, fun hon => ?_⟩
    · exact (State.dropUnit_only _ _).1
    · exact (s.dropOldest src).dropUnit_owner htgt hon

end Sys2Proof.Machine
end

section
/-! PROOF. PTP messages, the choice of a transmitter and the lock of a domain. -/

namespace Sys2Proof.Machine
open Sys2Proof.Claims

theorem ptpCnt_apart {d : Nat} (hd : d < 2) : R.PTP_CNT.addr d 0 ∉ servoRegs :=
  (by decide : ∀ d < 2, R.PTP_CNT.addr d 0 ∉ servoRegs) d hd

/-! ### Whether a message is taken -/

theorem ptpTake_deaf {s : State} {d : Nat} (h : s.hears (s.domPort d) = false) (f : State → State) : ptpTake s d f = s :=
  if_pos (by rw [h]; rfl)

theorem ptpTake_discard {s : State} {d : Nat} (h : s.hears (s.domPort d) = true)
    (hno : s.on F.HOST_STATUS_FW_RUN = false ∨ s.on F.TK_DOM_STAT_EN d = false ∨ (s.eth (s.domPort d)).configured = false)
    (f : State → State) : ptpTake s d f = s.bump F.ETH_CNT_RX_DISCARD (s.domPort d) := by
  rw [ptpTake, if_neg (by rw [h]; decide), if_neg]
  rw [State.takes]
  rcases hno with hno | hno | hno <;> simp [hno]

theorem ptpTake_taken {s : State} {d : Nat} (h : s.hears (s.domPort d) = true) (hfw : s.on F.HOST_STATUS_FW_RUN = true)
    (hen : s.on F.TK_DOM_STAT_EN d = true) (hc : (s.eth (s.domPort d)).configured = true) (f : State → State) :
    ptpTake s d f = f s := by
  rw [ptpTake, if_neg (by rw [h]; decide), if_pos]
  rw [State.takes, hfw, hc, hen]
  rfl

/-- A PTP message that a domain receives. -/
def PtpRx (d : Fin 2) (i : Instr) : Prop :=
  (∃ g, i = .ptpAnnounceRx d g) ∨ (∃ n b o r, i = .ptpSyncRx d n b o r) ∨ (∃ n o r, i = .ptpFollowUpRx d n o r) ∨
    (∃ r, i = .ptpDelayRespRx d r) ∨ i = .ptpPdelayReqRx d ∨ (∃ b v, i = .ptpPdelayRespRx d b v) ∨
    (∃ o, i = .ptpPdelayRespFollowUpRx d o)

theorem ptpRx_exec {d : Fin 2} {i : Instr} (h : PtpRx d i) (s : State) :
    ∃ f : State → State, exec i s = onDevice s fun s => ptpTake s d.val f := by
  rcases h with ⟨g, rfl⟩ | ⟨n, b, o, r, rfl⟩ | ⟨n, o, r, rfl⟩ | ⟨r, rfl⟩ | rfl | ⟨b, v, rfl⟩ | ⟨o, rfl⟩ <;> exact ⟨_, rfl⟩

/-! ### The data set comparison and the best master -/

theorem lexLess_asymm : ∀ a b : List Nat, lexLess a b = true → lexLess b a = false
  | [], _, h => by simp [lexLess] at h
  | _ :: _, [], h => by simp [lexLess] at h
  | a :: as, b :: bs, h => by
    have ih := lexLess_asymm as bs
    simp only [lexLess, Bool.or_eq_true, decide_eq_true_eq, Bool.and_eq_true, beq_iff_eq] at h
    simp only [lexLess, Bool.or_eq_false_iff, decide_eq_false_iff_not, Bool.and_eq_false_iff, beq_eq_false_iff_ne]
    rcases h with h | ⟨rfl, h⟩
    · exact ⟨by omega, .inl (by omega)⟩
    · exact ⟨by omega, .inr (ih h)⟩

theorem betterMaster_asymm {a b : Announce} (h : betterMaster a b = true) : betterMaster b a = false := by
  unfold betterMaster at *
  by_cases hg : a.gm = b.gm
  · rw [if_pos hg] at h
    rw [if_pos hg.symm]
    exact lexLess_asymm _ _ h
  · rw [if_neg hg] at h
    rw [if_neg (Ne.symm hg)]
    exact lexLess_asymm _ _ h

/-- One master against the best so far. -/
def pickBetter (best : Option Announce) (m : Master) : Option Announce :=
  match best with
  | none => some m.ann
  | some b => some (if betterMaster m.ann b then m.ann else b)

/-- Whether a master is in the choice. -/
def Master.stands (m : Master) (x : Domain) (up : Nat) : Bool := (m.good && m.fresh up) || decide (x.parent = some (sender m.ann))

theorem Domain.best_eq (x : Domain) (up : Nat) : x.best up = (x.foreign.filter fun m => m.stands x up).foldl pickBetter none := rfl

theorem foldl_pickBetter {l : List Master} {b : Option Announce} {a : Announce} (h : l.foldl pickBetter b = some a) :
    b = some a ∨ ∃ m ∈ l, m.ann = a := by
  induction l generalizing b with
  | nil => exact .inl h
  | cons m l ih =>
    rcases ih h with hb | ⟨k, hk, hka⟩
    · cases b with
      | none => exact .inr ⟨m, List.mem_cons_self, Option.some.inj hb⟩
      | some c =>
        by_cases hm : betterMaster m.ann c = true
        · rw [pickBetter, if_pos hm] at hb
          exact .inr ⟨m, List.mem_cons_self, Option.some.inj hb⟩
        · rw [pickBetter, if_neg hm] at hb
          exact .inl hb
    · exact .inr ⟨k, List.mem_cons_of_mem _ hk, hka⟩

theorem Domain.best_stands {x : Domain} {up : Nat} {a : Announce} (h : x.best up = some a) :
    ∃ m ∈ x.foreign, m.ann = a ∧ m.stands x up = true := by
  rcases foldl_pickBetter (x.best_eq up ▸ h) with hn | ⟨m, hm, ha⟩
  · cases hn
  · obtain ⟨hmem, hs⟩ := List.mem_filter.1 hm
    exact ⟨m, hmem, ha, hs⟩

/-! ### A domain that changes its transmitter or is lost -/

/-- A domain whose grandmaster has changed. -/
def State.newMaster (s : State) (d : Nat) (a : Announce) : State :=
  State.servo (((s.setDom d { gm := some a.gm, parent := some (sender a), foreign := (s.dom d).foreign, delay := (s.dom d).delay }).bump
    F.PTP_CNT_GM_CHANGE d).putBit F.TK_DOM_STAT_LOCKED false d)

theorem State.chooseMaster_new {s : State} {d : Nat} {a : Announce} (h : (s.dom d).best s.time.uptime = some a)
    (hg : ((s.dom d).gm.all (· == a.gm)) = false) : s.chooseMaster d = s.newMaster d a := by
  rw [State.chooseMaster]
  simp only [h]
  exact if_neg (by simp [hg])

theorem State.newMaster_spec (s : State) {d : Nat} (hd : d < 2) (a : Announce) : (s.newMaster d a).lockedDom d = false ∧
    ((s.newMaster d a).dom d).gm = some a.gm ∧ ((s.newMaster d a).dom d).parent = some (sender a) ∧
    ((s.newMaster d a).dom d).modelled = false ∧ ((s.newMaster d a).dom d).delay = (s.dom d).delay := by
  generalize hy : ({ gm := some a.gm, parent := some (sender a), foreign := (s.dom d).foreign, delay := (s.dom d).delay } : Domain) = y
  generalize hx : ((s.setDom d y).bump F.PTP_CNT_GM_CHANGE d).putBit F.TK_DOM_STAT_LOCKED false d = x
  have hn : s.newMaster d a = x.servo := by rw [← hx, ← hy]; rfl
  have hdom : x.servo.dom d = y := by
    rw [steered_dom x.servo_steered, ← hx]
    exact tgetD_tset_same _ _ _ _
  rw [hn, hdom, steered_locked x.servo_steered hd, ← hy, ← hx]
  exact ⟨State.on_putBit _ F.TK_DOM_STAT_LOCKED false d 0 rfl (by decide), rfl, rfl, rfl, rfl⟩

/-- What the choice of a transmitter keeps of a domain that is lost. -/
theorem State.chooseMaster_lost (s : State) {d : Nat} (hd : d < 2) (h : (s.dom d).inside = 0) (hl : s.lockedDom d = false) :
    (s.chooseMaster d).lockedDom d = false ∧ ((s.chooseMaster d).dom d).inside = 0 ∧ (s.chooseMaster d).time.now = s.time.now ∧
    (s.chooseMaster d).on F.TK_DOM_STAT_LOST d = s.on F.TK_DOM_STAT_LOST d ∧
    (s.chooseMaster d).get F.PTP_CNT_ANNOUNCE_TMO d = s.get F.PTP_CNT_ANNOUNCE_TMO d := by
  cases hb : (s.dom d).best s.time.uptime with
  | none =>
    rw [State.chooseMaster]
    simp only [hb]
    exact ⟨hl, h, trivial, trivial, trivial⟩
  | some a =>
    cases hg : (s.dom d).gm.all (· == a.gm) with
    | true =>
      have hs : s.chooseMaster d = s.setDom d { s.dom d with gm := some a.gm, parent := some (sender a) } := by
        rw [State.chooseMaster]
        simp only [hb]
        exact if_pos hg
      rw [hs]
      refine ⟨hl, ?_, rfl, rfl, rfl⟩
      rw [State.setDom, State.dom, tgetD_tset_same]
      exact h
    | false =>
      rw [State.chooseMaster_new hb hg, State.newMaster]
      generalize hy : ({ gm := some a.gm, parent := some (sender a), foreign := (s.dom d).foreign, delay := (s.dom d).delay } : Domain) = y
      have hin : y.inside = 0 := hy ▸ rfl
      have hlost : (((s.setDom d y).bump F.PTP_CNT_GM_CHANGE d).putBit F.TK_DOM_STAT_LOCKED false d).on F.TK_DOM_STAT_LOST d =
          s.on F.TK_DOM_STAT_LOST d := by
        rw [State.on, State.putBit,
          State.get_put_beside (f := F.TK_DOM_STAT_LOCKED) (g := F.TK_DOM_STAT_LOST) _ _ d rfl (by decide) (by decide),
          State.bump, State.bumpBy,
          State.get_put_stride (f := F.PTP_CNT_GM_CHANGE) (g := F.TK_DOM_STAT_LOST) (hs := rfl) (hm := by decide)]
        rfl
      have hcnt : (((s.setDom d y).bump F.PTP_CNT_GM_CHANGE d).putBit F.TK_DOM_STAT_LOCKED false d).get F.PTP_CNT_ANNOUNCE_TMO d =
          s.get F.PTP_CNT_ANNOUNCE_TMO d := by
        rw [State.putBit, State.get_put_stride (f := F.TK_DOM_STAT_LOCKED) (g := F.PTP_CNT_ANNOUNCE_TMO) (hs := rfl) (hm := by decide),
          State.bump, State.bumpBy,
          State.get_put_beside (f := F.PTP_CNT_GM_CHANGE) (g := F.PTP_CNT_ANNOUNCE_TMO) _ _ d rfl (by decide) (by decide)]
        rfl
      generalize hx : ((s.setDom d y).bump F.PTP_CNT_GM_CHANGE d).putBit F.TK_DOM_STAT_LOCKED false d = x at hlost hcnt ⊢
      have hst := x.servo_steered
      refine ⟨?_, ?_, ?_, ?_, ?_⟩
      · rw [steered_locked hst hd, ← hx]
        exact State.on_putBit _ F.TK_DOM_STAT_LOCKED false d 0 rfl (by decide)
      · rw [steered_dom hst, ← hx]
        exact (congrArg Domain.inside (tgetD_tset_same _ _ _ _)).trans hin
      · rw [steered_now hst, ← hx]
        rfl
      · rw [steered_on hst F.TK_DOM_STAT_LOST d (domStat_apart hd), hlost]
      · rw [steered_get hst F.PTP_CNT_ANNOUNCE_TMO d (ptpCnt_apart hd), hcnt]

theorem State.loseDom_spec (s : State) {d : Nat} (hd : d < 2) : (s.loseDom d).lockedDom d = false ∧
    (s.loseDom d).on F.TK_DOM_STAT_LOST d = true ∧ ((s.loseDom d).dom d).inside = 0 ∧ (s.loseDom d).time.now = s.time.now ∧
    ((s.loseDom d).dom d).foreign = (s.dom d).foreign ∧ ((s.loseDom d).dom d).parent = (s.dom d).parent ∧
    (s.loseDom d).get F.PTP_CNT_ANNOUNCE_TMO d = s.get F.PTP_CNT_ANNOUNCE_TMO d := by
  unfold State.loseDom
  extract_lets t
  have ht : t.time = s.time := by
    simp only [t]
    split <;> rfl
  have hcnt : t.get F.PTP_CNT_ANNOUNCE_TMO d = s.get F.PTP_CNT_ANNOUNCE_TMO d := by
    simp only [t]
    split
    · exact State.get_put_beside (f := F.PTP_CNT_LOCK_LOSS) (g := F.PTP_CNT_ANNOUNCE_TMO) _ _ d rfl (by decide) (by decide)
    · rfl
  clear_value t
  have hcx : (((t.setDom d { t.dom d with inside := 0 }).putBit F.TK_DOM_STAT_LOCKED false d).putBit
      F.TK_DOM_STAT_LOST true d).get F.PTP_CNT_ANNOUNCE_TMO d = s.get F.PTP_CNT_ANNOUNCE_TMO d := by
    rw [State.putBit, State.get_put_stride (f := F.TK_DOM_STAT_LOST) (g := F.PTP_CNT_ANNOUNCE_TMO) (hs := rfl) (hm := by decide),
      State.putBit, State.get_put_stride (f := F.TK_DOM_STAT_LOCKED) (g := F.PTP_CNT_ANNOUNCE_TMO) (hs := rfl) (hm := by decide)]
    exact hcnt
  have hlk : (((t.setDom d { t.dom d with inside := 0 }).putBit F.TK_DOM_STAT_LOCKED false d).putBit
      F.TK_DOM_STAT_LOST true d).lockedDom d = false := by
    rw [State.lockedDom, State.on, State.putBit,
      State.get_put_beside (f := F.TK_DOM_STAT_LOST) (g := F.TK_DOM_STAT_LOCKED) _ _ d rfl (by decide) (by decide)]
    exact State.on_putBit _ F.TK_DOM_STAT_LOCKED false d 0 rfl (by decide)
  have hlost : (((t.setDom d { t.dom d with inside := 0 }).putBit F.TK_DOM_STAT_LOCKED false d).putBit
      F.TK_DOM_STAT_LOST true d).on F.TK_DOM_STAT_LOST d = true := State.on_putBit _ F.TK_DOM_STAT_LOST true d 0 rfl (by decide)
  have hdom : (((t.setDom d { t.dom d with inside := 0 }).putBit F.TK_DOM_STAT_LOCKED false d).putBit
      F.TK_DOM_STAT_LOST true d).dom d = { t.dom d with inside := 0 } := tgetD_tset_same _ _ _ _
  have hnow : (((t.setDom d { t.dom d with inside := 0 }).putBit F.TK_DOM_STAT_LOCKED false d).putBit
      F.TK_DOM_STAT_LOST true d).time.now = s.time.now :=
    show t.time.now = s.time.now by rw [ht]
  have htd : t.dom d = s.dom d := by rw [State.dom, State.dom, ht]
  generalize ((t.setDom d { t.dom d with inside := 0 }).putBit F.TK_DOM_STAT_LOCKED false d).putBit F.TK_DOM_STAT_LOST true d = x at *
  have hst := x.servo_steered
  refine ⟨(steered_locked hst hd).trans hlk, (steered_on hst F.TK_DOM_STAT_LOST d (domStat_apart hd)).trans hlost, ?_,
    (steered_now hst).trans hnow, ?_, ?_, (steered_get hst F.PTP_CNT_ANNOUNCE_TMO d (ptpCnt_apart hd)).trans hcx⟩
  · rw [steered_dom hst, hdom]
  · rw [steered_dom hst, hdom, htd]
  · rw [steered_dom hst, hdom, htd]

/-! ### A measurement of the offset -/

/-- A domain after a measurement. -/
def State.measured (s : State) (d : Nat) (i o r : Int) (up : Nat) : Domain :=
  let x := s.dom d
  let now := o + x.delay
  { x with
    inside := if x.modelled && decide ((now - x.predict up).natAbs ≤ s.get F.TK_CTRL_LOCK_NS * 1000) then x.inside + 1 else 0
    modelled := true, since := up, base := now, rate := r, offset := i - now, sync := some (o, i) }

theorem State.measure_spec (s : State) {d : Nat} (i o r : Int) (up : Nat) (h : (s.dom d).inside < 15) :
    (s.measure d i up o r).dom d = s.measured d i o r up ∧ (s.measure d i up o r).time.now = s.time.now := by
  have hle : (s.measured d i o r up).inside ≤ 15 := by
    unfold State.measured
    dsimp only
    split <;> omega
  have hm : s.measure d i up o r = ((s.setDom d (s.measured d i o r up)).showDom d).servo := if_neg fun hk => by
    have : 16 ≤ (s.measured d i o r up).inside := hk.1
    omega
  have hst := ((s.setDom d (s.measured d i o r up)).showDom d).servo_steered
  rw [hm, steered_dom hst, steered_now hst]
  exact ⟨tgetD_tset_same _ _ _ _, rfl⟩

/-- A PTP message that starts is sent, and a request keeps its egress timestamp. -/
theorem State.ptpStart_spec (s : State) (p : Nat) (m : Nat × Nat) : ((s.ptpStart p m).eth p).ptpSent = (s.eth p).ptpSent ++ [m] ∧
    (m.2 < 2 → ((s.ptpStart p m).dom m.1).asked = some (s.egress p)) := by
  unfold State.ptpStart
  extract_lets x t
  have ht : (t.eth p).ptpSent = (s.eth p).ptpSent ++ [m] := by
    simp only [t, State.setEth, State.eth, tgetD_tset_same]
  have heg : t.egress p = s.egress p := rfl
  clear_value t
  refine ⟨?_, fun hm => ?_⟩
  · split
    · exact ht
    · exact ht
  · rw [if_pos hm, ← heg]
    exact congrArg Domain.asked (tgetD_tset_same _ _ _ _)

/-! ### The lock -/

/-- Device time and the word of TK_STAT stay. -/
structure StampKept (s t : State) : Prop where
  now : t.time.now = s.time.now
  word : tget? t.regs (R.TK_STAT.addr 0 0) = tget? s.regs (R.TK_STAT.addr 0 0)

theorem stampKept_put {s t : State} (h : StampKept s t) (f : Fld) (v i : Nat) (hf : R.TK_STAT.addr 0 0 ≠ f.reg.addr i 0) :
    StampKept s (t.put f v i) := ⟨h.now, (tget?_setReg _ _ _ _ _ _ hf).trans h.word⟩

theorem stampKept_of {s t u : State} (h : StampKept s t) (hn : u.time.now = t.time.now) (hr : u.regs = t.regs) : StampKept s u :=
  ⟨hn.trans h.now, by rw [hr]; exact h.word⟩

theorem stampKept_setEth {s t : State} (h : StampKept s t) (p : Nat) (x : EthPort) : StampKept s (t.setEth p x) := stampKept_of h rfl rfl

theorem stampKept_setCam {s t : State} (h : StampKept s t) (p : Nat) (x : CamPort) : StampKept s (t.setCam p x) := stampKept_of h rfl rfl

theorem tkCmp_apart (u : Nat) : R.TK_STAT.addr 0 0 ≠ R.TK_CMP_NS.addr u 0 ∧ R.TK_STAT.addr 0 0 ≠ R.TK_CMP_S_LO.addr u 0 ∧
    R.TK_STAT.addr 0 0 ≠ R.TK_CMP_S_HI.addr u 0 := by
  simp only [Reg.addr, R.TK_STAT, R.TK_CMP_NS, R.TK_CMP_S_LO, R.TK_CMP_S_HI]
  omega

theorem stampKept_putTime {s t : State} (h : StampKept s t) (x u : Nat) :
    StampKept s (t.putTime F.TK_CMP_NS_NS F.TK_CMP_S_LO_S F.TK_CMP_S_HI_S_HI x u) := by
  obtain ⟨hn, hl, hh⟩ := tkCmp_apart u
  exact stampKept_put (stampKept_put (stampKept_put h F.TK_CMP_NS_NS _ u hn) F.TK_CMP_S_LO_S _ u hl) F.TK_CMP_S_HI_S_HI _ u hh

theorem stampKept_arm {s t : State} (h : StampKept s t) (b : Bool) (u : Nat) : StampKept s (t.putBit F.TK_CMP_S_HI_ARMED b u) :=
  stampKept_put h F.TK_CMP_S_HI_ARMED _ u (tkCmp_apart u).2.2

theorem stampKept_showEth {s t : State} (h : StampKept s t) {p : Nat} (hp : p < 2) : StampKept s (t.showEth p) := by
  unfold State.showEth
  extract_lets u v
  have hv : StampKept s v := stampKept_put h F.ETH_STAT_QUEUED _ p
    ((by decide : ∀ p < 2, R.TK_STAT.addr 0 0 ≠ R.ETH_STAT.addr p 0) p hp)
  split
  · split
    · exact stampKept_arm (stampKept_putTime hv _ _) _ _
    · exact stampKept_arm hv _ _
  · exact hv

theorem stampKept_restamp {s t : State} (h : StampKept s t) {p : Nat} (hp : p < 2) (d : Int) : StampKept s (t.restamp p d) := by
  unfold State.restamp
  exact stampKept_showEth (stampKept_setEth h p _) hp

theorem stampKept_retrigger {s t : State} (h : StampKept s t) (p : Nat) : StampKept s (t.retrigger p) := by
  unfold State.retrigger
  extract_lets x ch
  split
  · exact h
  · split
    · exact stampKept_arm (stampKept_putTime (stampKept_setCam h p _) _ _) _ _
    · exact stampKept_arm (stampKept_setCam h p _) _ _

theorem stampKept_showDom {s t : State} (h : StampKept s t) {d : Nat} (hd : d < 2) : StampKept s (t.showDom d) :=
  stampKept_put (stampKept_put h F.TK_DOM_OFFSET_OFFSET _ d
    ((by decide : ∀ d < 2, R.TK_STAT.addr 0 0 ≠ R.TK_DOM_OFFSET.addr d 0) d hd)) F.TK_DOM_RATE_RATE _ d
    ((by decide : ∀ d < 2, R.TK_STAT.addr 0 0 ≠ R.TK_DOM_RATE.addr d 0) d hd)

theorem stampKept_snapMerge {s t : State} (h : StampKept s t) (n src : Nat) : StampKept s (t.snapMerge n src) := by
  unfold State.snapMerge
  split
  · refine stampKept_put ?_ F.SNAP_CNT_MERGED _ 0 (by decide)
    exact stampKept_of h rfl rfl
  · exact h

theorem stampKept_snapTake {s t : State} (h : StampKept s t) (src : Nat) : StampKept s (t.snapTake src) := by
  unfold State.snapTake
  extract_lets n v u
  have hu : StampKept s u := stampKept_put (stampKept_put (stampKept_put (stampKept_put h F.SNAP_STAT_SEQ _ 0 (by decide)) F.SNAP_STAT_NEXT _ 0 (by decide))
    F.SNAP_STAT_BUSY _ 0 (by decide)) F.SNAP_CNT_TAKEN _ 0 (by decide)
  exact stampKept_of hu rfl rfl

theorem stampKept_snapIf {s t : State} (h : StampKept s t) (src : Nat) : StampKept s (t.snapIf src) := by
  unfold State.snapIf State.snapFire
  split
  · split
    · exact stampKept_snapMerge h _ _
    · split
      · exact stampKept_snapMerge h _ _
      · extract_lets n
        split
        · exact stampKept_put h F.SNAP_CNT_DROPPED _ 0 (by decide)
        · exact stampKept_snapTake h _
  · exact h

theorem stampKept_snapStep {s t : State} (h : StampKept s t) : StampKept s t.snapStep := by
  unfold State.snapStep
  extract_lets u
  split
  · unfold State.fireSnapTime
    split
    · exact h
    · extract_lets k v
      have hv : StampKept s v := by
        simp only [v]
        split
        · exact stampKept_of h rfl rfl
        · exact stampKept_arm (stampKept_put h F.SNAP_STAT_TIME_ARMED _ 0 (by decide)) _ _
      exact stampKept_snapIf hv _
  · exact h

/-- Device time after the step. -/
def State.stepped (s : State) (offset : Int) : Nat := ((s.time.now : Int) - psUnits offset).toNat

theorem State.stepTime_spec (s : State) (offset : Int) : (s.stepTime offset).time.now = s.stepped offset ∧
    tget? (s.stepTime offset).regs (R.TK_STAT.addr 0 0) = tget? s.regs (R.TK_STAT.addr 0 0) := by
  unfold State.stepTime
  extract_lets d n moved k0 k1 t u
  have ht : t.time.now = s.stepped offset := rfl
  have htr : t.regs = s.regs := rfl
  have hu : StampKept t u := by
    simp only [u, State.snapTimeBack]
    have hp : StampKept t ((t.put F.TK_STEP_LO_STEP n).put F.TK_STEP_HI_STEP (n / 2 ^ 32)) :=
      stampKept_put (stampKept_put ⟨rfl, rfl⟩ F.TK_STEP_LO_STEP _ 0 (by decide)) F.TK_STEP_HI_STEP _ 0 (by decide)
    split
    · exact stampKept_of hp rfl rfl
    · exact hp
  have hr : StampKept t ((u.restamp 0 d).restamp 1 d).retriggerAll :=
    timesFrom_keeps (P := fun x : State => StampKept t x) (fun x p k => stampKept_retrigger k p)
      (stampKept_restamp (stampKept_restamp hu (by decide) d) (by decide) d) 17 0
  obtain ⟨hnow, hword⟩ := stampKept_snapStep (stampKept_showDom (stampKept_showDom hr (d := 0) (by decide)) (d := 1) (by decide))
  rw [hnow, hword, ht, htr]
  exact ⟨rfl, rfl⟩

/-! The seal stays through a choice of the domain that device time follows. -/

theorem State.showLocks_sealBit (s : State) : s.showLocks.on F.TK_STAT_SEALED = s.on F.TK_STAT_SEALED := by
  unfold State.showLocks State.putBit
  rw [State.on, State.get_put_beside (f := F.TK_STAT_DOM1_LOCK) (g := F.TK_STAT_SEALED) _ _ 0 rfl (by decide) (by decide),
    State.get_put_beside (f := F.TK_STAT_DOM0_LOCK) (g := F.TK_STAT_SEALED) _ _ 0 rfl (by decide) (by decide)]
  rfl

theorem State.autoSelect_sealBit (s : State) : s.autoSelect.on F.TK_STAT_SEALED = s.on F.TK_STAT_SEALED := by
  unfold State.autoSelect
  extract_lets d
  split
  · rw [State.on, State.get_put_beside (f := F.TK_STAT_SEL) (g := F.TK_STAT_SEALED) _ _ 0 rfl (by decide) (by decide)]
    rfl
  · rfl

theorem State.follow_sealBit (s : State) : s.follow.on F.TK_STAT_SEALED = s.on F.TK_STAT_SEALED := by
  have hold (t : State) (b : Bool) : (t.putBit F.TK_HOLDOVER_ACTIVE b).get F.TK_STAT_SEALED = t.get F.TK_STAT_SEALED :=
    State.get_put_stride (f := F.TK_HOLDOVER_ACTIVE) (g := F.TK_STAT_SEALED) t _ 0 0 rfl (by decide)
  have slew (t : State) (b : Bool) : (t.putBit F.TK_STAT_SLEWING b).get F.TK_STAT_SEALED = t.get F.TK_STAT_SEALED :=
    State.get_put_beside (f := F.TK_STAT_SLEWING) (g := F.TK_STAT_SEALED) _ _ 0 rfl (by decide) (by decide)
  have foll (t : State) (b : Bool) : (t.putBit F.TK_STAT_FOLLOWING b).get F.TK_STAT_SEALED = t.get F.TK_STAT_SEALED :=
    State.get_put_beside (f := F.TK_STAT_FOLLOWING) (g := F.TK_STAT_SEALED) _ _ 0 rfl (by decide) (by decide)
  suffices h : s.follow.get F.TK_STAT_SEALED = s.get F.TK_STAT_SEALED by rw [State.on, h, State.on]
  unfold State.follow
  split
  · extract_lets x c k t
    have hreg : t.get F.TK_STAT_SEALED = s.get F.TK_STAT_SEALED := rfl
    clear_value t
    rw [hold, slew, foll, State.setRate,
      State.get_put_stride (f := F.TK_RATE_HI_RATE) (g := F.TK_STAT_SEALED) (hs := rfl) (hm := by decide),
      State.get_put_stride (f := F.TK_RATE_LO_RATE) (g := F.TK_STAT_SEALED) (hs := rfl) (hm := by decide)]
    exact hreg
  · extract_lets t
    have ht : t.get F.TK_STAT_SEALED = s.get F.TK_STAT_SEALED := by simp only [t, slew, foll]
    clear_value t
    split
    · rw [hold, State.get_put_stride (f := F.TK_HOLDOVER_MS) (g := F.TK_STAT_SEALED) (hs := rfl) (hm := by decide)]
      exact ht
    · exact ht

theorem State.servo_sealBit (s : State) : s.servo.on F.TK_STAT_SEALED = s.on F.TK_STAT_SEALED := by
  rw [State.servo, State.follow_sealBit, State.autoSelect_sealBit, State.showLocks_sealBit]

/-- A domain that is locked, in its register and in TK_STAT. -/
def State.showLocked (s : State) (d : Nat) : State :=
  ((s.putBit F.TK_DOM_STAT_LOCKED true d).putBit F.TK_DOM_STAT_LOST false d).showLocks

theorem State.showLocked_spec (s : State) {d : Nat} (hd : d < 2) : (s.showLocked d).time = s.time ∧
    (s.showLocked d).lockedDom d = true ∧ (s.showLocked d).get F.TK_STAT_SEL = s.get F.TK_STAT_SEL ∧
    (s.showLocked d).sealed = s.sealed ∧ (s.showLocked d).on F.TK_DOM_STAT_STEP_MODE d = s.on F.TK_DOM_STAT_STEP_MODE d := by
  have hne : R.TK_STAT.addr 0 0 ≠ R.TK_DOM_STAT.addr d 0 := (by decide : ∀ d < 2, R.TK_STAT.addr 0 0 ≠ R.TK_DOM_STAT.addr d 0) d hd
  generalize hx : (s.putBit F.TK_DOM_STAT_LOCKED true d).putBit F.TK_DOM_STAT_LOST false d = x
  have hsh : s.showLocked d = x.showLocks := by rw [← hx]; rfl
  have hst := x.showLocks_steered
  have hword : ∀ f : Fld, f.reg = R.TK_STAT → x.get f = s.get f := by
    intro f hf
    have hf' : f.reg.addr 0 0 ≠ R.TK_DOM_STAT.addr d 0 := hf ▸ hne
    rw [← hx, State.putBit, State.get_put_other _ F.TK_DOM_STAT_LOST _ _ _ _ _ _ hf', State.putBit,
      State.get_put_other _ F.TK_DOM_STAT_LOCKED _ _ _ _ _ _ hf']
  have hlk : x.lockedDom d = true := by
    rw [← hx, State.lockedDom, State.on, State.putBit,
      State.get_put_beside (f := F.TK_DOM_STAT_LOST) (g := F.TK_DOM_STAT_LOCKED) _ _ d rfl (by decide) (by decide)]
    exact State.on_putBit _ F.TK_DOM_STAT_LOCKED true d 0 rfl (by decide)
  have hstep : x.on F.TK_DOM_STAT_STEP_MODE d = s.on F.TK_DOM_STAT_STEP_MODE d := by
    rw [← hx, State.on, State.putBit,
      State.get_put_beside (f := F.TK_DOM_STAT_LOST) (g := F.TK_DOM_STAT_STEP_MODE) _ _ d rfl (by decide) (by decide), State.putBit,
      State.get_put_beside (f := F.TK_DOM_STAT_LOCKED) (g := F.TK_DOM_STAT_STEP_MODE) _ _ d rfl (by decide) (by decide)]
    rfl
  have htime : x.time = s.time := by rw [← hx]; rfl
  have hsplit : x.splits = s.splits := by rw [← hx]; rfl
  rw [hsh]
  refine ⟨htime, (steered_locked hst hd).trans hlk, x.showLocks_sel.trans (hword F.TK_STAT_SEL rfl), ?_,
    (steered_on hst F.TK_DOM_STAT_STEP_MODE d (domStat_apart hd)).trans hstep⟩
  rw [State.sealed, x.showLocks_sealBit, State.sealed, State.on, hword F.TK_STAT_SEALED rfl]
  exact congrArg (fun l : List Nat => (s.get F.TK_STAT_SEALED != 0) || l.contains 2) hsplit

/-- The seal is set. -/
def State.setSeal (s : State) : State := (s.putBit F.TK_STAT_SEALED true).stored 2

theorem State.lockDom_unsealed {s : State} {d : Nat} (hd : d < 2) (hsel : s.get F.TK_STAT_SEL = d) (hs : s.sealed = false) :
    s.lockDom d = (if s.on F.TK_DOM_STAT_STEP_MODE d then (s.showLocked d).setSeal
      else (s.showLocked d).setSeal.stepTime (s.dom d).offset).servo := by
  obtain ⟨ht, -, hx, hz, hm⟩ := s.showLocked_spec hd
  have hdom : (s.showLocked d).dom d = s.dom d := by rw [State.dom, State.dom, ht]
  rw [← hm, ← hdom]
  exact congrArg State.servo (if_pos ⟨hx.trans hsel, hz.trans hs⟩)

theorem State.lockDom_sealed {s : State} {d : Nat} (hd : d < 2) (h : s.get F.TK_STAT_SEL ≠ d ∨ s.sealed = true) :
    s.lockDom d = (s.showLocked d).servo := by
  obtain ⟨-, -, hx, hz, -⟩ := s.showLocked_spec hd
  refine congrArg State.servo (if_neg fun hk => ?_)
  obtain ⟨h1, h2⟩ := hk
  rcases h with h | h
  · exact h (hx.symm.trans h1)
  · exact absurd (hz.symm.trans h2) (by rw [h]; decide)

theorem State.setSeal_locked (s : State) {d : Nat} (hd : d < 2) : s.setSeal.lockedDom d = s.lockedDom d :=
  congrArg (· != 0) (State.get_put_other s F.TK_STAT_SEALED F.TK_DOM_STAT_LOCKED _ 0 0 d 0
    ((by decide : ∀ d < 2, R.TK_DOM_STAT.addr d 0 ≠ R.TK_STAT.addr 0 0) d hd))

/-- Settles O49: the messages of a tracked domain, the choice of its transmitter, and its lock and loss. -/
theorem ptpMessages : Obligations.PtpMessages := by
  unfold Obligations.PtpMessages
  refine ⟨?deaf, ?off, ?discard, ?hear, ?best, ?two, ?better, ?choose, ?noBest, ?taken, ?measure, ?lock, ?sealing, ?shift, ?ask, ?noAsk,
    ?send, ?sync, ?drop, ?announce, ?untracked⟩
  case deaf =>
    intro s d i hl hd hi
    obtain ⟨f, hf⟩ := ptpRx_exec hi s
    exact goes_onDevice hl hf (ptpTake_deaf hd f)
  case off =>
    intro s p hc h0
    rw [State.hears, State.laneOn, hc, h0]
    simp
  case discard =>
    intro s d i hl hd hno hi
    obtain ⟨f, hf⟩ := ptpRx_exec hi s
    exact goes_onDevice hl hf (ptpTake_discard hd hno f)
  case hear =>
    intro x a up
    refine ⟨⟨_, rfl, rfl, rfl, ?_⟩, rfl⟩
    simp only [Bool.or_eq_true, decide_eq_true_eq, List.any_eq_true, Bool.and_eq_true, Master.fresh]
    exact Or.comm
  case best =>
    intro x up a h
    obtain ⟨m, hm, ha, hs⟩ := Domain.best_stands h
    refine ⟨m, hm, ha, ?_⟩
    simpa [Master.stands, Master.fresh, ha] using hs
  case two =>
    intro x up m k hf hm hk hmf hkf
    have h1 : m.stands x up = true := by simp [Master.stands, Master.fresh, hm, hmf]
    have h2 : k.stands x up = true := by simp [Master.stands, Master.fresh, hk, hkf]
    rw [Domain.best_eq, hf, List.filter_cons, if_pos h1, List.filter_cons, if_pos h2]
    rfl
  case better =>
    intro a b
    refine ⟨fun hg => ?_, fun hg h => ?_, betterMaster_asymm⟩
    · rw [betterMaster, if_neg hg]
      refine ⟨fun h => ?_, fun h0 h => ?_, fun h0 h1 h => ?_⟩
      · simp [lexLess, h]
      · simp [lexLess, h0, h]
      · simp [lexLess, h0, h1, h]
    · rw [betterMaster, if_pos hg]
      simp [lexLess, h]
  case choose =>
    intro s d a hb
    refine ⟨fun hg => ?_, fun g hg hne hd => ?_⟩
    · have hall : (s.dom d).gm.all (· == a.gm) = true := by rcases hg with hg | hg <;> simp [hg]
      rw [State.chooseMaster]
      simp only [hb]
      exact if_pos hall
    · rw [State.chooseMaster_new hb (by simp [hg, hne])]
      exact State.newMaster_spec s hd a
  case noBest =>
    intro s d h
    rw [State.chooseMaster]
    simp only [h]
  case taken =>
    intro s d hfw hh hen hc
    have take (f : State → State) : ptpTake s d.val f = f s := ptpTake_taken hh hfw.2 hen hc f
    refine ⟨fun a ha => ?_, fun a ha => ?_, fun n o r i hi => ⟨?_, ?_⟩, fun n o r i up hsq => ?_, fun n o r hsq => ?_,
      fun t1 t2 t3 t4 hs ha => ⟨fun hp => ?_, fun hp => ?_⟩, fun t4 hno => ?_, fun hp => ?_, fun hp h1 => ?_, fun hp h1 => ?_,
      fun b v ha => ?_, fun b v t1 ha hp => ?_, fun v t1 ha hp => ⟨?_, ?_⟩, fun v t1 t2 t4 ha hp => ?_, fun v hno => ?_⟩
    · exact goes_onDevice hfw.1 (show execPtpAnnounceRx d a s = _ from rfl) ((take _).trans (if_pos ha))
    · exact goes_onDevice hfw.1 (show execPtpAnnounceRx d a s = _ from rfl) ((take _).trans (if_neg (by omega)))
    · exact goes_onDevice hfw.1 (show execPtpSyncRx d n true o r s = _ from rfl) ((take _).trans (by rw [hi]; rfl))
    · exact goes_onDevice hfw.1 (show execPtpSyncRx d n false o r s = _ from rfl) ((take _).trans (by rw [hi]; rfl))
    · refine goes_onDevice hfw.1 (show execPtpFollowUpRx d n o r s = _ from rfl) ((take _).trans ?_)
      simp only [hsq, if_true]
    · refine goes_onDevice hfw.1 (show execPtpFollowUpRx d n o r s = _ from rfl) ((take _).trans ?_)
      cases hx : (s.dom d.val).syncSeq with
      | none => rfl
      | some x =>
        rw [hx] at hsq
        exact if_neg (by simpa using hsq)
    · refine goes_onDevice hfw.1 (show execPtpDelayRespRx d t4 s = _ from rfl) ((take _).trans ?_)
      simp only [hs, ha]
      exact if_neg (by simp [hp])
    · refine goes_onDevice hfw.1 (show execPtpDelayRespRx d t4 s = _ from rfl) ((take _).trans ?_)
      simp only [hs, ha]
      exact if_pos hp
    · refine goes_onDevice hfw.1 (show execPtpDelayRespRx d t4 s = _ from rfl) ((take _).trans ?_)
      rcases hno with hno | hno
      · simp only [hno]
      · dsimp only
        rw [hno]
        cases (s.dom d.val).sync <;> rfl
    · exact goes_onDevice hfw.1 (show execPtpPdelayReqRx d s = _ from rfl) ((take _).trans (if_pos (by simp [hp])))
    · exact goes_onDevice hfw.1 (show execPtpPdelayReqRx d s = _ from rfl) ((take _).trans ((if_neg (by simp [hp])).trans (if_pos h1)))
    · exact goes_onDevice hfw.1 (show execPtpPdelayReqRx d s = _ from rfl)
        ((take _).trans ((if_neg (by simp [hp])).trans (if_neg (by simp [h1]))))
    · refine goes_onDevice hfw.1 (show execPtpPdelayRespRx d b v s = _ from rfl) ((take _).trans ?_)
      simp only [ha]
    · refine goes_onDevice hfw.1 (show execPtpPdelayRespRx d b v s = _ from rfl) ((take _).trans ?_)
      simp only [ha]
      exact if_pos (by simp [hp])
    · refine goes_onDevice hfw.1 (show execPtpPdelayRespRx d true v s = _ from rfl) ((take _).trans ?_)
      simp only [ha]
      exact if_neg (by simp [hp])
    · refine goes_onDevice hfw.1 (show execPtpPdelayRespRx d false v s = _ from rfl) ((take _).trans ?_)
      simp only [ha]
      exact if_neg (by simp [hp])
    · refine goes_onDevice hfw.1 (show execPtpPdelayRespFollowUpRx d v s = _ from rfl) ((take _).trans ?_)
      simp only [ha, hp]
    · refine goes_onDevice hfw.1 (show execPtpPdelayRespFollowUpRx d v s = _ from rfl) ((take _).trans ?_)
      rcases hno with hno | hno
      · simp only [hno]
      · dsimp only
        rw [hno]
        cases (s.dom d.val).asked <;> rfl
  case measure =>
    intro s d i o r up hin
    have h := s.measure_spec i o r up hin
    obtain ⟨hdom, hnow⟩ := h
    rw [hdom, hnow]
    exact ⟨rfl, rfl, rfl, rfl, if_congr (by simp) rfl rfl⟩
  case lock =>
    intro s d hno
    obtain ⟨ht, hlk, -, -, -⟩ := s.showLocked_spec d.isLt
    by_cases hk : s.get F.TK_STAT_SEL ≠ d.val ∨ s.sealed = true
    · rw [State.lockDom_sealed d.isLt hk]
      have hst := (s.showLocked d.val).servo_steered
      exact ⟨(steered_now hst).trans (by rw [ht]), (steered_locked hst d.isLt).trans hlk⟩
    · obtain ⟨hsel, hs⟩ := not_or.1 hk
      have hm : s.on F.TK_DOM_STAT_STEP_MODE d.val = true := by
        rcases hno with hno | hno | hno
        · exact absurd hno hsel
        · exact absurd hno hs
        · exact hno
      rw [State.lockDom_unsealed d.isLt (not_not.1 hsel) (Bool.eq_false_iff.2 hs), if_pos hm]
      have hst := (s.showLocked d.val).setSeal.servo_steered
      refine ⟨(steered_now hst).trans ?_, (steered_locked hst d.isLt).trans (((s.showLocked d.val).setSeal_locked d.isLt).trans hlk)⟩
      exact congrArg TimeUnit.now ht
  case sealing =>
    intro s d hsel hs
    obtain ⟨ht, -⟩ := s.showLocked_spec d.isLt
    have hbit : (s.showLocked d.val).setSeal.on F.TK_STAT_SEALED = true := State.on_putBit _ F.TK_STAT_SEALED true 0 0 rfl (by decide)
    have hnow : (s.showLocked d.val).setSeal.time = s.time := ht
    rw [State.lockDom_unsealed d.isLt hsel hs]
    generalize (s.showLocked d.val).setSeal = v at hbit hnow
    obtain ⟨hstep, hword⟩ := v.stepTime_spec (s.dom d.val).offset
    refine ⟨?_, fun hm => ?_⟩
    · rw [State.sealed, State.servo_sealBit]
      refine Bool.or_eq_true_iff.2 (.inl ?_)
      split
      · exact hbit
      · have hreg : (v.stepTime (s.dom d.val).offset).reg R.TK_STAT = v.reg R.TK_STAT := by rw [State.reg, hword, State.reg]
        exact (congrArg (fun w => bitsOf w 2 1 != 0) hreg).trans hbit
    · rw [if_neg (by simp [hm]), steered_now (State.servo_steered _), hstep, State.stepped, hnow]
  case shift =>
    intro x o
    refine ⟨rfl, rfl, fun a b h => ?_, fun a b h => ?_, fun n i up h => ?_⟩
    · rw [Domain.shift, h]; rfl
    · rw [Domain.shift, h]; rfl
    · rw [Domain.shift, h]; rfl
  case ask =>
    intro s d hfw hen hr
    exact goes_onDevice hfw.1 (show execPtpDelayReqSend d s = _ from rfl) (if_pos (by rw [hfw.2, hen, hr]; rfl))
  case noAsk =>
    intro s d hl hno
    refine goes_onDevice hl (show execPtpDelayReqSend d s = _ from rfl) (if_neg ?_)
    rcases hno with hno | hno | hno <;> simp [hno]
  case send =>
    intro s d kind p hp hw
    generalize hx : s.setEth p { s.eth p with ptpWait := (s.eth p).ptpWait ++ [(d.val, kind)] } = x
    have hxe : x.eth p = { s.eth p with ptpWait := [(d.val, kind)] } := by
      rw [← hx, State.setEth, State.eth, tgetD_tset_same, hw]
      rfl
    have hmay : x.ptpMay p kind = s.ptpMay p kind := by
      rw [State.ptpMay, hxe, ← hx]
      rfl
    have hsend : s.ptpSend d.val kind = x.ptpFlush p 1 := by
      have h1 : s.ptpSend d.val kind = x.ptpGo p := by rw [← hx, hp]; rfl
      rw [h1, State.ptpGo, hxe]
      rfl
    refine ⟨fun hm => ?_, fun hm => ?_⟩
    · generalize hy : x.setEth p { x.eth p with ptpWait := [] } = y
      have hye : y.eth p = { s.eth p with ptpWait := [] } := by
        rw [← hy, hxe, State.setEth, State.eth, tgetD_tset_same]
      have hstart : s.ptpSend d.val kind = y.ptpStart p (d.val, kind) := by
        rw [hsend, State.ptpFlush]
        have hq : (x.eth p).ptpWait = [(d.val, kind)] := by rw [hxe]
        simp only [hq]
        exact (if_pos (hmay.trans hm)).trans (by rw [hy]; rfl)
      have heg : y.egress p = s.egress p := by rw [← hy, ← hx]; rfl
      rw [hstart]
      obtain ⟨hsent, hasked⟩ := y.ptpStart_spec p (d.val, kind)
      rw [hye] at hsent
      rw [heg] at hasked
      exact ⟨hsent, hasked⟩
    · rw [hsend, State.ptpFlush, hxe]
      exact (if_neg (by rw [hmay, hm]; decide)).trans (by rw [← hx, hw]; rfl)
  case sync =>
    intro s d hl hen
    obtain ⟨h1, h2, h3, h4, -⟩ := s.loseDom_spec d.isLt
    exact ⟨_, goes_onDevice hl (show execSyncTmo d s = _ from rfl) (if_pos hen), h1, h2, h3, h4⟩
  case drop =>
    intro x
    refine ⟨rfl, fun m hm => ?_⟩
    obtain ⟨hmem, hs⟩ := List.mem_filter.1 hm
    exact ⟨hmem, of_decide_eq_true hs⟩
  case announce =>
    intro s d hl hen
    generalize hu : (s.bump F.PTP_CNT_ANNOUNCE_TMO d.val).loseDom d.val = u
    obtain ⟨hlk, hlost, hin, hnow, hf, hp, hcnt⟩ := (s.bump F.PTP_CNT_ANNOUNCE_TMO d.val).loseDom_spec d.isLt
    rw [hu] at hlk hlost hin hnow hf hp hcnt
    have hdx : ((u.setDom d.val (u.dom d.val).drop).dom d.val).inside = 0 := by
      rw [State.setDom, State.dom, tgetD_tset_same]
      exact hin
    obtain ⟨h1, h2, h3, h4, h5⟩ := (u.setDom d.val (u.dom d.val).drop).chooseMaster_lost d.isLt hdx hlk
    refine ⟨_, goes_onDevice hl (show execAnnounceTmo d s = _ from rfl) ((if_pos hen).trans (by rw [hu])), ⟨u, hf, hp, rfl⟩, ?_, h1,
      h4.trans hlost, h2, h3.trans hnow⟩
    rw [h5]
    exact hcnt.trans (State.get_bumpBy _ _ _ _ _ (by decide))
  case untracked =>
    intro s d hl hen
    exact ⟨goes_onDevice hl (show execSyncTmo d s = _ from rfl) (if_neg (by simp [hen])),
      goes_onDevice hl (show execAnnounceTmo d s = _ from rfl) (if_neg (by simp [hen]))⟩

end Sys2Proof.Machine
end

section
/-! PROOF. Ethernet ports, timed frames and the compare units. -/

namespace Sys2Proof.Machine
open Sys2Proof.Claims

/-! ### What shows a queue, and what its launch leaves -/

theorem State.showEth_time (s : State) (p : Nat) : (s.showEth p).time = s.time := by rw [(s.showEth_only p).1]

theorem State.showEth_eth (s : State) (p k : Nat) : (s.showEth p).eth k = s.eth k := by rw [State.eth, State.eth, s.showEth_time]

theorem State.setEth_eth (s : State) (p : Nat) (x : EthPort) : (s.setEth p x).eth p = x := tgetD_tset_same _ _ _ _

theorem ethReg_apart {u p : Nat} (hu : u < 32) (hp : p < 2) : ∀ b ∈ [R.ETH_CFG.addr p 0, R.ETH_ASYM_TX.addr p 0, R.ETH_TXTS_STAT.addr p 0],
    b ∉ R.ETH_STAT.addr p 0 :: cmpRegs u :=
  (by decide : ∀ u < 32, ∀ p < 2, ∀ b ∈ [R.ETH_CFG.addr p 0, R.ETH_ASYM_TX.addr p 0, R.ETH_TXTS_STAT.addr p 0],
    b ∉ R.ETH_STAT.addr p 0 :: cmpRegs u) u hu p hp

theorem State.showEth_speed (s : State) {p : Nat} (hp : p < 2) : (s.showEth p).get F.ETH_CFG_SPEED p = s.get F.ETH_CFG_SPEED p :=
  onlyRegs_get (s.showEth_only p) F.ETH_CFG_SPEED p (ethReg_apart (s.ethUnit_lt p) hp _ List.mem_cons_self)

theorem State.showEth_runs (s : State) {p : Nat} (hp : p < 2) : (s.showEth p).ethRuns p = s.ethRuns p := by
  rw [State.ethRuns, State.on, s.showEth_stat hp F.ETH_STAT_LINK_UP rfl (by decide), s.showEth_eth, s.showEth_speed hp]
  rfl

/-- A port's timestamps, and the word that shows them, stay. -/
structure StampsKept (p : Nat) (s t : State) : Prop where
  txts : (t.eth p).txts = (s.eth p).txts
  word : tget? t.regs (R.ETH_TXTS_STAT.addr p 0) = tget? s.regs (R.ETH_TXTS_STAT.addr p 0)

theorem StampsKept.trans {p : Nat} {s t u : State} (h : StampsKept p s t) (k : StampsKept p t u) : StampsKept p s u :=
  ⟨k.txts.trans h.txts, k.word.trans h.word⟩

theorem stampsKept_refl (p : Nat) (s : State) : StampsKept p s s := ⟨rfl, rfl⟩

theorem stampsKept_showEth {p : Nat} (hp : p < 2) (s : State) : StampsKept p s (s.showEth p) :=
  ⟨congrArg EthPort.txts (s.showEth_eth p p),
    (s.showEth_only p).2 _ (ethReg_apart (s.ethUnit_lt p) hp _ (by simp))⟩

theorem stampsKept_setEth {p : Nat} {s : State} {x : EthPort} (h : x.txts = (s.eth p).txts) : StampsKept p s (s.setEth p x) :=
  ⟨(congrArg EthPort.txts (s.setEth_eth p x)).trans h, rfl⟩

theorem launchCnt_apart (p : Nat) : R.ETH_TXTS_STAT.addr p 0 ≠ R.ETH_LAUNCH_CNT.addr p 0 := by
  simp only [Reg.addr, R.ETH_TXTS_STAT, R.ETH_LAUNCH_CNT]
  omega

theorem stampsKept_bump (p : Nat) (s : State) (f : Fld) (hf : f.reg = R.ETH_LAUNCH_CNT) : StampsKept p s (s.bump f p) :=
  ⟨rfl, tget?_setReg _ _ _ _ _ _ (by rw [hf]; exact launchCnt_apart p)⟩

theorem stampsKept_ptpStart (p : Nat) (s : State) (m : Nat × Nat) : StampsKept p s (s.ptpStart p m) := by
  unfold State.ptpStart
  extract_lets x t
  have ht : StampsKept p s t := stampsKept_setEth rfl
  clear_value t
  split
  · exact ht.trans ⟨rfl, rfl⟩
  · exact ht

theorem stampsKept_ptpFlush (p n : Nat) (s : State) : StampsKept p s (s.ptpFlush p n) := by
  induction n generalizing s with
  | zero => exact stampsKept_refl p s
  | succ n ih =>
    unfold State.ptpFlush
    split
    · exact stampsKept_refl p s
    · split
      · refine StampsKept.trans ?_ (ih _)
        refine StampsKept.trans ?_ (stampsKept_ptpStart p _ _)
        exact stampsKept_setEth rfl
      · exact stampsKept_refl p s

theorem stampsKept_launchHead {p : Nat} (hp : p < 2) (s : State) (b : Bool) : StampsKept p s (s.launchHead p b) := by
  unfold State.launchHead
  extract_lets x
  split
  · split
    · exact stampsKept_refl p s
    · split
      · refine StampsKept.trans ?_ (stampsKept_ptpFlush p _ _)
        refine StampsKept.trans ?_ (stampsKept_showEth hp _)
        refine StampsKept.trans ?_ (stampsKept_bump p _ F.ETH_LAUNCH_CNT_NO_LAUNCH rfl)
        exact stampsKept_setEth rfl
      · extract_lets d u
        have hu : StampsKept p s u := by
          simp only [u]
          split
          · exact stampsKept_bump p s F.ETH_LAUNCH_CNT_LATE_SENT rfl
          · exact stampsKept_refl p s
        clear_value u
        refine StampsKept.trans ?_ (stampsKept_showEth hp _)
        exact StampsKept.trans hu ⟨(congrArg EthPort.txts (u.setEth_eth p _)).trans hu.txts.symm, rfl⟩
  · exact stampsKept_refl p s

/-- While a frame is on the wire, no other starts. -/
theorem State.launchHead_busy {s : State} {p : Nat} (h : (s.eth p).onWire ≠ none) (b : Bool) : s.launchHead p b = s := by
  unfold State.launchHead
  extract_lets x
  split
  · rename_i hx _
    exact absurd hx h
  · rfl

/-- With an empty queue nothing starts. -/
theorem State.launchHead_empty {s : State} {p : Nat} (h : (s.eth p).queue = []) (b : Bool) : s.launchHead p b = s := by
  unfold State.launchHead
  extract_lets x
  split
  · rename_i hx
    exact absurd (hx.symm.trans h) (by simp)
  · rfl

/-- An on-time frame that reaches a free wire in its own cycle leaves its residue after the launch time. -/
theorem State.launchHead_exact {s : State} {p : Nat} {f : TimedFrame} {q : List TimedFrame} (hw : (s.eth p).onWire = none)
    (hq : (s.eth p).queue = f :: q) (hl : f.late = false) (ht : f.launch / nsUnit ≤ s.nowNs) (hr : s.ethRuns p = true) :
    ((s.launchHead p true).eth p).onWire =
      some { f with stamp := f.launch + (psUnits (s.freeVal.toNat % s.deltaRange p : Nat)).toNat } := by
  unfold State.launchHead
  simp only [hw, hq]
  rw [if_neg (by omega), if_neg (by simp [hr]), State.showEth_eth]
  refine (congrArg EthPort.onWire (tgetD_tset_same _ _ _ _)).trans ?_
  simp [hl]

theorem psUnits_lt {a b : Nat} (h : a < b) : (psUnits a).toNat < (psUnits b).toNat := by
  simp only [psUnits, nsUnit]
  push_cast
  omega

/-- A change of a port's link shows, and notifies. -/
theorem State.linkChange_spec (s : State) {p : Nat} (hp : p < 2) {b : Bool} (hlane : b = true → s.laneOn p = true)
    (hne : s.on F.ETH_STAT_LINK_UP p ≠ b) : s.linkChange p b = { s with regs := (s.linkChange p b).regs, i3c := (s.linkChange p b).i3c } ∧
    (s.linkChange p b).on F.ETH_STAT_LINK_UP p = b ∧ (s.linkChange p b).on F.HOST_IBI_CAUSE_LINK = true := by
  have hno : ¬((b && !s.laneOn p) || s.on F.ETH_STAT_LINK_UP p == b) = true := by
    cases b with
    | false => simpa using hne
    | true => simpa [hlane rfl] using hne
  generalize hx : (s.putBit F.ETH_STAT_LINK_UP b p).raise F.HOST_IBI_CAUSE_LINK = x
  have hlc : s.linkChange p b = if b then x else x.bump F.ETH_CNT_LINK_DOWN p := by rw [← hx]; exact if_neg hno
  have honly : OnlyI s x := by
    rw [← hx]
    exact (OnlyI.put s F.ETH_STAT_LINK_UP _ p 0).trans (State.raise_i _ _)
  have hup : x.on F.ETH_STAT_LINK_UP p = b := by
    have hk : R.ETH_STAT.addr p 0 ≠ R.HOST_IBI_CAUSE.addr 0 0 :=
      (by decide : ∀ p < 2, R.ETH_STAT.addr p 0 ≠ R.HOST_IBI_CAUSE.addr 0 0) p hp
    rw [← hx, State.on, State.get_congr (State.raise_regs _ _),
      State.get_put_other _ F.HOST_IBI_CAUSE_LINK F.ETH_STAT_LINK_UP _ _ _ _ _ hk]
    exact State.on_putBit _ F.ETH_STAT_LINK_UP b p 0 rfl (by decide)
  have hcause : x.on F.HOST_IBI_CAUSE_LINK = true := by
    rw [← hx, State.on, State.get_congr (State.raise_regs _ _), State.get_put _ _ _ _ _ (by decide)]
    rfl
  rw [hlc]
  cases b with
  | true =>
    rw [if_pos rfl]
    exact ⟨honly, hup, hcause⟩
  | false =>
    rw [if_neg Bool.false_ne_true]
    refine ⟨honly.trans (OnlyI.put x F.ETH_CNT_LINK_DOWN _ p 0), ?_, ?_⟩
    · rw [State.on, State.bump, State.bumpBy,
        State.get_put_stride (f := F.ETH_CNT_LINK_DOWN) (g := F.ETH_STAT_LINK_UP) (hs := rfl) (hm := by decide)]
      exact hup
    · have hk : R.HOST_IBI_CAUSE.addr 0 0 ≠ R.ETH_CNT.addr p 0 :=
        (by decide : ∀ p < 2, R.HOST_IBI_CAUSE.addr 0 0 ≠ R.ETH_CNT.addr p 0) p hp
      rw [State.on, State.bump, State.bumpBy,
        State.get_put_other x F.ETH_CNT_LINK_DOWN F.HOST_IBI_CAUSE_LINK _ p 0 0 0 hk]
      exact hcause

/-! ### The end of a frame on the wire -/

/-- The timestamp of a frame that was sent, or its loss where 16 wait already. -/
def State.keepStamp (s : State) (p : Nat) (f : TimedFrame) : State :=
  let x := s.eth p
  let t := s.setEth p { x with onWire := none }
  if x.txts.length < 16 then
    (t.setEth p { x with onWire := none, txts := x.txts ++ [(f.serial % 2 ^ 16, f.late, f.stamp)] }).put
      F.ETH_TXTS_STAT_DEPTH (x.txts.length + 1) p
  else (t.bump F.ETH_TXTS_STAT_DROP p).putBit F.ETH_TXTS_STAT_OVF true p

theorem execTimedFrameTxDone_eq {s : State} {p : Fin 2} {f : TimedFrame} (hl : Live s) (h : (s.eth p.val).onWire = some f) :
    Goes (.timedFrameTxDone p) s (((s.keepStamp p.val f).launchHead p.val false).ptpGo p.val) := by
  refine goes_onDevice hl (show execTimedFrameTxDone p s = _ from rfl) ?_
  simp only [h]
  rfl

theorem stampsKept_next {p : Nat} (hp : p < 2) (s : State) : StampsKept p s ((s.launchHead p false).ptpGo p) :=
  (stampsKept_launchHead hp s false).trans (stampsKept_ptpFlush p _ _)

theorem stampsKept_get {p : Nat} {s t : State} (h : StampsKept p s t) (f : Fld) (hf : f.reg = R.ETH_TXTS_STAT) : t.get f p = s.get f p := by
  rw [State.get, State.get, State.reg, State.reg, hf, h.word]

/-- Settles O50: frames received and sent, launch times, timestamps and what a compare unit acts for. -/
theorem portsAndFrames : Obligations.PortsAndFrames := by
  unfold Obligations.PortsAndFrames
  refine ⟨?deaf, ?other, ?management, ?notTaken, ?passed, ?onTime, ?link, ?noLink, ?queue, ?sent, ?noSent, ?noStamp, ?stamp, ?time,
    ?early, ?fire⟩
  case deaf =>
    intro s p k hl hd
    exact goes_onDevice hl (show execEthRxOther p k s = _ from rfl) (if_pos (by simp [hd]))
  case other =>
    intro s p hl hh
    exact ⟨goes_onDevice hl (show execEthRxOther p .badFcs s = _ from rfl) (if_neg (by simp [hh])),
      goes_onDevice hl (show execEthRxOther p .other s = _ from rfl) (if_neg (by simp [hh]))⟩
  case management =>
    intro s p d hfw hh hc
    exact goes_onDevice hfw.1 (show execEthRxOther p (.management d) s = _ from rfl) ((if_neg (by simp [hh])).trans
      (if_pos (by rw [State.takes, hfw.2, hc]; rfl)))
  case notTaken =>
    intro s p d hl hh hno
    refine goes_onDevice hl (show execEthRxOther p (.management d) s = _ from rfl) ((if_neg (by simp [hh])).trans (if_neg ?_))
    rw [State.takes]
    rcases hno with hno | hno <;> simp [hno]
  case passed =>
    intro s p l
    have hspan : s.islandSpan p = 4 ∨ s.islandSpan p = 8 := by
      unfold State.islandSpan
      split
      · exact .inl rfl
      · exact .inr rfl
    have hmod : s.freeVal.toNat % s.islandSpan p + 1 ≤ s.islandSpan p := Nat.mod_lt _ (by omega)
    refine ⟨fun h => decide_eq_false ?_, fun h => decide_eq_true ?_, by omega⟩
    · have := Nat.le_mul_of_pos_left s.time.pace (Nat.add_pos_right (s.freeVal.toNat % s.islandSpan p) Nat.one_pos)
      omega
    · have := Nat.mul_le_mul_right s.time.pace hmod
      omega
  case onTime =>
    intro s p f hen hr hq hw hl hle hlt
    generalize hx : s.setEth p.val { s.eth p.val with queue := insertBefore (fun g => decide (f.launch < g.launch)) f (s.eth p.val).queue } = x
    have hxe : x.eth p.val = { s.eth p.val with queue := [f] } := by rw [← hx, State.setEth_eth, hq]; rfl
    have hgo : s.queueFrame p.val f = (x.showEth p.val).launchHead p.val true := by
      have hnow : decide (s.time.now < f.launch + s.time.pace) = true := decide_eq_true hlt
      rw [← hx, ← hnow]
      exact (if_neg (by simp [hen])).trans ((if_neg (by simp [hl])).trans (if_neg (by simp [hq])))
    have hye : (x.showEth p.val).eth p.val = { s.eth p.val with queue := [f] } := (x.showEth_eth _ _).trans hxe
    have hrun : (x.showEth p.val).ethRuns p.val = true := by
      rw [x.showEth_runs p.isLt, ← hr, State.ethRuns, hxe, ← hx]
      rfl
    have hnow : (x.showEth p.val).nowNs = s.nowNs := by rw [State.nowNs, x.showEth_time, ← hx]; rfl
    have hrange : (x.showEth p.val).deltaRange p.val = s.deltaRange p.val := by
      rw [State.deltaRange, x.showEth_speed p.isLt, ← hx]
      rfl
    have hpos : 0 < s.deltaRange p.val := by
      unfold State.deltaRange
      split <;> decide
    rw [hgo]
    refine ⟨_, State.launchHead_exact (by rw [hye]; exact hw) (by rw [hye]) hl (by rw [hnow]; exact hle) hrun, rfl, Nat.le_add_right _ _,
      Nat.add_lt_add_left ?_ _⟩
    rw [hrange]
    exact psUnits_lt (Nat.mod_lt _ hpos)
  case link =>
    intro s p b hl hlane hne
    refine ⟨s.linkChange p.val b, goes_onDevice hl (show execEthLinkChange p b s = _ from rfl) rfl, ?_⟩
    exact s.linkChange_spec p.isLt hlane hne
  case noLink =>
    intro s p b hl hno
    refine goes_onDevice hl (show execEthLinkChange p b s = _ from rfl) (if_pos ?_)
    rcases hno with ⟨rfl, hno⟩ | hno <;> simp [hno]
  case queue =>
    intro s p f
    refine ⟨fun hen => if_pos (by simp [hen]), fun hen hl hd => ?_, fun hen hl hq => ?_, fun hen hok hlen hw => ?_⟩
    · exact (if_neg (by simp [hen])).trans (if_pos (by rw [hl, hd]; rfl))
    · exact (if_neg (by simp [hen])).trans ((if_neg (by simp [hl])).trans (if_pos hq))
    · have hq : s.queueFrame p.val f = ((s.setEth p.val { s.eth p.val with
          queue := insertBefore (fun g => decide (f.launch < g.launch)) f (s.eth p.val).queue }).showEth p.val).launchHead p.val
          (decide (s.time.now < f.launch + s.time.pace)) :=
        (if_neg (by simp [hen])).trans ((if_neg (by rcases hok with h | h <;> simp [h])).trans (if_neg (by omega)))
      have he : ((s.setEth p.val { s.eth p.val with
          queue := insertBefore (fun g => decide (f.launch < g.launch)) f (s.eth p.val).queue }).showEth p.val).eth p.val =
          { s.eth p.val with queue := insertBefore (fun g => decide (f.launch < g.launch)) f (s.eth p.val).queue } := by
        rw [State.showEth_eth, State.setEth_eth]
      rw [hq, State.launchHead_busy (by rw [he]; exact hw), he]
  case sent =>
    intro s p f hl hw
    have hkept := stampsKept_next p.isLt (s.keepStamp p.val f)
    refine ⟨fun hlen => ⟨_, execTimedFrameTxDone_eq hl hw, ?_, ?_, fun hq hp => ?_⟩, fun hlen => ⟨_, execTimedFrameTxDone_eq hl hw, ?_, ?_, ?_⟩⟩
    · rw [hkept.txts, State.keepStamp, if_pos hlen]
      exact congrArg EthPort.txts (State.setEth_eth _ _ _)
    · rw [stampsKept_get hkept F.ETH_TXTS_STAT_DEPTH rfl, State.keepStamp, if_pos hlen, State.get_put _ _ _ _ _ (by decide)]
      exact Nat.mod_eq_of_lt (show _ < 32 by omega)
    · have hk : s.keepStamp p.val f = ((s.setEth p.val { s.eth p.val with onWire := none }).setEth p.val { s.eth p.val with
          onWire := none, txts := (s.eth p.val).txts ++ [(f.serial % 2 ^ 16, f.late, f.stamp)] }).put
          F.ETH_TXTS_STAT_DEPTH ((s.eth p.val).txts.length + 1) p.val := if_pos hlen
      have he : (s.keepStamp p.val f).eth p.val = { s.eth p.val with
          onWire := none, txts := (s.eth p.val).txts ++ [(f.serial % 2 ^ 16, f.late, f.stamp)] } := by
        rw [hk]
        exact State.setEth_eth _ _ _
      have hgo : ((s.keepStamp p.val f).launchHead p.val false).ptpGo p.val = s.keepStamp p.val f := by
        rw [State.launchHead_empty (by rw [he]; exact hq), State.ptpGo, he, hp]
        rfl
      rw [hgo]
      exact ⟨congrArg EthPort.onWire he, by rw [hk]; rfl⟩
    · rw [hkept.txts, State.keepStamp, if_neg (by omega)]
      exact (congrArg EthPort.txts (s.setEth_eth p.val { s.eth p.val with onWire := none })).trans rfl
    · rw [State.on, stampsKept_get hkept F.ETH_TXTS_STAT_OVF rfl, State.keepStamp, if_neg (by omega)]
      exact State.on_putBit _ F.ETH_TXTS_STAT_OVF true p.val 0 rfl (by decide)
    · rw [stampsKept_get hkept F.ETH_TXTS_STAT_DROP rfl, State.keepStamp, if_neg (by omega), State.putBit,
        State.get_put_beside (f := F.ETH_TXTS_STAT_OVF) (g := F.ETH_TXTS_STAT_DROP) _ _ p.val rfl (by decide) (by decide), State.bump,
        State.get_bumpBy _ _ _ _ _ (by decide)]
      rfl
  case noSent =>
    intro s p hl hn
    refine goes_onDevice hl (show execTimedFrameTxDone p s = _ from rfl) ?_
    simp only [hn]
  case noStamp =>
    intro s p hl hn
    refine goes_onDevice hl (show execEthTxtsIdRead p s = _ from rfl) ?_
    simp only [State.readTxts, hn]
  case stamp =>
    intro s p i tm late q hl hq
    refine ⟨(s.readTxts p.val).1, goes_onDevice hl (show execEthTxtsIdRead p s = _ from rfl) rfl, ?_⟩
    simp only [State.readTxts, hq]
    refine ⟨congrArg EthPort.txts (s.setEth_eth p.val _), ?_, ?_, rfl⟩
    · rw [State.get_put_stride (f := F.ETH_TXTS_S_HI_FRAC) (g := F.ETH_TXTS_NS_NS) (hs := rfl) (hm := by decide), State.putTime,
        State.get_put_stride (f := F.ETH_TXTS_S_HI_S_HI) (g := F.ETH_TXTS_NS_NS) (hs := rfl) (hm := by decide),
        State.get_put_stride (f := F.ETH_TXTS_S_LO_S) (g := F.ETH_TXTS_NS_NS) (hs := rfl) (hm := by decide),
        State.get_put _ _ _ _ _ (by decide)]
      exact Nat.mod_eq_of_lt (Nat.lt_trans (Nat.mod_lt _ (by decide)) (by decide))
    · exact State.get_put _ _ _ _ _ (by decide)
  case time =>
    intro s hl
    refine ⟨s.latchTime, goes_onDevice hl (show execTkTimeNsRead s = _ from rfl) rfl, ?_, ?_, ?_⟩
    · exact onlyRegs_mono (onlyRegs_trans (s.put_onlyRegs F.TK_TIME_S_LO_S _ 0)
        (onlyRegs_trans (State.put_onlyRegs _ F.TK_TIME_S_HI_S_HI _ 0) (State.put_onlyRegs _ F.TK_TIME_S_HI_FRAC _ 0))) (by decide)
    · rw [State.latchTime, State.get_put_stride (f := F.TK_TIME_S_HI_FRAC) (g := F.TK_TIME_S_LO_S) (hs := rfl) (hm := by decide),
        State.get_put_stride (f := F.TK_TIME_S_HI_S_HI) (g := F.TK_TIME_S_LO_S) (hs := rfl) (hm := by decide)]
      exact State.get_put _ _ _ _ _ (by decide)
    · rw [State.latchTime,
        State.get_put_beside (f := F.TK_TIME_S_HI_FRAC) (g := F.TK_TIME_S_HI_S_HI) _ _ 0 rfl (by decide) (by decide)]
      exact State.get_put _ _ _ _ _ (by decide)
  case early =>
    intro s u hl hno
    refine goes_onDevice hl (show execCompareUnitFire u s = _ from rfl) (if_pos ?_)
    rcases hno with hno | hno <;> simp [hno]
  case fire =>
    intro s u hl harm hle
    have hi : exec (.compareUnitFire u) s = _ := (show execCompareUnitFire u s = _ from rfl)
    have hgo : ¬(!s.on F.TK_CMP_S_HI_ARMED u.val || decide (s.nowNs < s.compareTime u.val)) = true := by
      simp [harm, hle]
    have hlc : ownLaunch ≠ ownCamera ∧ ownLaunch ≠ ownSnapshot ∧ ownCamera ≠ ownSnapshot := by decide
    refine ⟨fun ho => ?_, fun ho => ?_, fun ho => ?_, fun h1 h2 h3 => ?_⟩
    · exact goes_onDevice hl hi ((if_neg hgo).trans (if_pos ho))
    · exact goes_onDevice hl hi ((if_neg hgo).trans ((if_neg (by rw [ho]; exact hlc.1.symm)).trans (if_pos ho)))
    · exact goes_onDevice hl hi ((if_neg hgo).trans ((if_neg (by rw [ho]; exact hlc.2.1.symm)).trans
        ((if_neg (by rw [ho]; exact hlc.2.2.symm)).trans (if_pos ho))))
    · exact goes_onDevice hl hi ((if_neg hgo).trans ((if_neg h1).trans ((if_neg h2).trans (if_neg h3))))

end Sys2Proof.Machine
end

section
/-! PROOF. Twin roles, takeover and handover. -/

namespace Sys2Proof.Machine
open Sys2Proof.Claims

/-! ### Taking the STANDBY role -/

/-- The field gate of a STANDBY device leaves a register of the twin block. -/
theorem State.setGate_reg (s : State) (r : Reg) (v : Nat) (hr : r = R.TWIN_CTRL ∨ r = R.TWIN_STAT) :
    (s.setField R.FIELD_TWIN_GATE v).reg r = s.reg r := by
  rcases hr with rfl | rfl
  · exact s.reg_setField_other (q := R.TWIN_CTRL) (k := 0) ⟨by decide, by decide⟩ (by decide) v
  · exact s.reg_setField_other (q := R.TWIN_STAT) (k := 0) ⟨by decide, by decide⟩ (by decide) v

/-- The word of the device's role is set, and the partner's state is no longer taken for its own. -/
theorem State.setRole_unsync (s : State) (hot policy : Nat) :
    ((s.setRole 2 hot policy).unsync).get F.TWIN_CTRL_ROLE = 2 ∧ ((s.setRole 2 hot policy).unsync).on F.TWIN_STAT_SYNCED = false ∧
    ((s.setRole 2 hot policy).unsync).splits = s.splits ∧ ((s.setRole 2 hot policy).unsync).twin.syncSent = false := by
  refine ⟨?_, State.on_putBit _ F.TWIN_STAT_SYNCED false 0 0 rfl (by decide), ?_, rfl⟩
  · rw [State.unsync, State.putBit, State.get_put_other _ F.TWIN_STAT_SYNCED F.TWIN_CTRL_ROLE _ _ _ _ _ (by decide)]
    generalize hx : (((s.put F.TWIN_CTRL_ROLE 2).put F.TWIN_CTRL_HOT hot).put F.TWIN_CTRL_POLICY policy).stored 3 = x
    have hraise : (x.raise F.HOST_IBI_CAUSE_TWIN).get F.TWIN_CTRL_ROLE = x.get F.TWIN_CTRL_ROLE := by
      rw [State.get_congr (State.raise_regs _ _), State.get_put_other _ F.HOST_IBI_CAUSE_TWIN F.TWIN_CTRL_ROLE _ _ _ _ _ (by decide)]
    have hx2 : x.get F.TWIN_CTRL_ROLE = 2 := by
      have hstored (t : State) : (t.stored 3).get F.TWIN_CTRL_ROLE = t.get F.TWIN_CTRL_ROLE := rfl
      rw [← hx, hstored,
        State.get_put_beside (f := F.TWIN_CTRL_POLICY) (g := F.TWIN_CTRL_ROLE) _ _ 0 rfl (by decide) (by decide),
        State.get_put_beside (f := F.TWIN_CTRL_HOT) (g := F.TWIN_CTRL_ROLE) _ _ 0 rfl (by decide) (by decide),
        State.get_put _ _ _ _ _ (by decide)]
      rfl
    rw [State.setRole, hx]
    exact hraise.trans hx2
  · rw [State.unsync, State.setRole, State.raise_i]
    rfl

theorem State.takeRole_standby (s : State) (hot policy : Nat) :
    s.takeRole 2 hot policy = ((((s.setRole 2 hot policy).unsync).setDom 2 {}).setField R.FIELD_TWIN_GATE 1).servo :=
  congrArg State.servo (if_pos rfl)

theorem State.takeStandby (s : State) (hot policy : Nat) (h : s.splits = []) : (s.takeRole 2 hot policy).role = 2 ∧
    (s.takeRole 2 hot policy).on F.TWIN_STAT_SYNCED = false ∧ (s.takeRole 2 hot policy).twin.syncSent = false := by
  obtain ⟨hrole, hsync, hsplit, hsent⟩ := s.setRole_unsync hot policy
  rw [s.takeRole_standby hot policy]
  generalize (s.setRole 2 hot policy).unsync = x at *
  generalize hy : (x.setDom 2 {}).setField R.FIELD_TWIN_GATE 1 = y
  have hctrl : y.reg R.TWIN_CTRL = x.reg R.TWIN_CTRL := by rw [← hy]; exact State.setGate_reg _ _ _ (.inl rfl)
  have hstat : y.reg R.TWIN_STAT = x.reg R.TWIN_STAT := by rw [← hy]; exact State.setGate_reg _ _ _ (.inr rfl)
  have hys : y.splits = [] := by rw [← hy, State.setField_splits]; exact hsplit.trans h
  have hyt : y.twin.syncSent = false := by rw [← hy, State.setField_only]; exact hsent
  have hst := y.servo_steered
  have hss : y.servo.splitWord 3 = false := by rw [State.splitWord, hst.1, hys]; rfl
  refine ⟨?_, ?_, ?_⟩
  · rw [State.role, hss, if_neg Bool.false_ne_true, steered_get hst F.TWIN_CTRL_ROLE 0 (by decide), ← hrole]
    exact congrArg (fun w => bitsOf w 0 2) hctrl
  · rw [steered_on hst F.TWIN_STAT_SYNCED 0 (by decide), ← hsync]
    exact congrArg (fun w => bitsOf w 2 1 != 0) hstat
  · rw [hst.1]
    exact hyt

/-! ### Bobbins that a takeover marks -/

theorem mem_of_tget? {α : Type} {t : Tbl α} {k : Nat} {v : α} (h : tget? t k = some v) : (k, v) ∈ t := by
  induction t with
  | nil => cases h
  | cons e t ih =>
    obtain ⟨j, w⟩ := e
    by_cases hk : k = j
    · rw [tget?, if_pos hk] at h
      rw [hk, Option.some.inj h]
      exact List.mem_cons_self
    · rw [tget?, if_neg hk] at h
      exact List.mem_cons_of_mem _ (ih h)

/-- A bobbin of a part that is not free is among those of parts. -/
theorem State.mem_partBobs {s : State} {id : Nat} (hs : (s.bob id).sample = none) (hf : (s.bob id).state ≠ .free) : id ∈ s.partBobs := by
  cases hg : tget? s.bobs id with
  | none =>
    have hb : s.bob id = {} := by rw [State.bob, tgetD, hg]
    exact absurd (by rw [hb]) hf
  | some b =>
    have hb : s.bob id = b := by rw [State.bob, tgetD, hg]
    rw [hb] at hs hf
    exact List.mem_map.2 ⟨(id, b), List.mem_filter.2 ⟨mem_of_tget? hg, by simp [hs, hf]⟩, rfl⟩

/-- The bobbins of a list are marked, and nothing but bobbins changes. -/
theorem foldState_mark (l : List Nat) (s : State) :
    (foldState (fun (t : State) id => t.setBob id { t.bob id with taken := true }) s l =
      { s with bobs := (foldState (fun (t : State) id => t.setBob id { t.bob id with taken := true }) s l).bobs }) ∧
    ∀ id, (foldState (fun (t : State) id => t.setBob id { t.bob id with taken := true }) s l).bob id =
      if id ∈ l then { s.bob id with taken := true } else s.bob id := by
  induction l generalizing s with
  | nil => exact ⟨rfl, fun id => (if_neg List.not_mem_nil).symm⟩
  | cons k l ih =>
    obtain ⟨h1, h2⟩ := ih (s.setBob k { s.bob k with taken := true })
    refine ⟨h1, fun id => (h2 id).trans ?_⟩
    by_cases hk : id = k
    · subst hk
      rw [State.bob_setBob, if_pos List.mem_cons_self]
      split <;> rfl
    · rw [State.bob_setBob_other _ _ hk]
      simp [hk]

/-! ### The handover -/

/-- What CMD_TWIN_HANDOVER does. -/
def handoverBody (src : Source) (s : State) (_c : Cmd) : State × Answer :=
  if s.role ≠ 1 ∨ (s.twin.peer.getD 0 0).toNat % 4 ≠ 2 ∨ bitAt (s.twin.peer.getD 0 0).toNat 7 = false ∨
      s.twin.handover.isSome = true then refuse s .badState
  else if !s.on F.LINK_STAT_UP then refuse s .linkDown
  else ({ s with twin := { s.twin with handover := some src, asked := false } }, .begun)

/-- With no handover asked for, none is asked of the partner. -/
theorem State.askHandover_none {s : State} (h : s.twin.handover = none) : s.askHandover = s := if_neg (by simp [h])

theorem goes_handover {s : State} {src : Source} {c : Cmd} {t : State} {a : Answer} (h : Starts s src 0x0803 c)
    (hb : handoverBody src (s.dropOldest src) c = (t, a)) : Goes (.cmdTwinHandover src) s (t.answer src c a).askHandover :=
  goes_onDevice h.1 (show execCmdTwinHandover src s = onDevice s fun s => State.askHandover (s.startCmd src 0x0803 (handoverBody src)) from rfl)
    (by rw [startCmd_starts h, hb])

/-- A refused command of a device that has no handover in progress. -/
theorem ends_handover {s : State} {src : Source} {c : Cmd} {st : Status} (h : Starts s src 0x0803 c) (hn : s.twin.handover = none)
    (hb : handoverBody src (s.dropOldest src) c = (s.dropOldest src, .final st)) :
    Ends (.cmdTwinHandover src) s (s.dropOldest src) src c st := by
  have hk : ((s.dropOldest src).reply src c st).twin.handover = none := by
    rw [State.reply_r]
    exact hn
  exact (goes_handover h hb).trans (congrArg Host.Outcome.next (State.askHandover_none hk))

/-- Settles O56: a role's checks, the takeover, the handover and the loss of the partner. -/
theorem twinRoles : Obligations.TwinRoles := by
  unfold Obligations.TwinRoles
  refine ⟨?role, ?standby, ?status, ?handover, ?again, ?ctl, ?takeover, ?noTakeover, ?mark, ?expire, ?noExpire, ?lost, ?noLost⟩
  case role =>
    intro s src c hot policy h hhot hpol
    subst hhot hpol
    have hi : exec (.cmdTwinRole src) s = _ := (show execCmdTwinRole src s = _ from rfl)
    refine ⟨fun hbad => ends_runCmd h hi (if_pos hbad), fun h1 h2 hp hz hy hr => ends_runCmd h hi ?_,
      fun h1 h2 hp hz hy hr hdown => ends_runCmd h hi ?_, fun h1 h2 hp hz hy hr hup hseen hfit => ends_runCmd h hi ?_,
      fun h1 h2 hp hz hy hr hup hseen hfit => ends_runCmd h hi ?_, fun h0 hp hz hy hr hpart => ends_runCmd h hi ?_,
      fun h0 hp hz hy hno => ends_runCmd h hi ?_⟩
    · exact (if_neg (by omega)).trans (if_pos (.inl ⟨hr, by omega⟩))
    · exact (if_neg (by omega)).trans ((if_neg (show ¬((s.role ≠ 0 ∧ c.p 1 ≠ 0) ∨ _) by omega)).trans (if_pos ⟨by omega, hdown⟩))
    · exact (if_neg (by omega)).trans ((if_neg (show ¬((s.role ≠ 0 ∧ c.p 1 ≠ 0) ∨ _) by omega)).trans
        ((if_neg (show ¬(c.p 1 ≠ 0 ∧ (s.on F.LINK_STAT_UP = false ∨ s.partnerSeen = false)) by simp [hup, hseen])).trans
          (if_pos ⟨by omega, hfit⟩)))
    · exact (if_neg (by omega)).trans ((if_neg (show ¬((s.role ≠ 0 ∧ c.p 1 ≠ 0) ∨ _) by omega)).trans
        ((if_neg (show ¬(c.p 1 ≠ 0 ∧ (s.on F.LINK_STAT_UP = false ∨ s.partnerSeen = false)) by simp [hup, hseen])).trans
          (if_neg (show ¬(c.p 1 ≠ 0 ∧ s.roleFits (c.p 1) (bitsOf (c.p 2) 0 1) (bitsOf (c.p 2) 4 2) = false) by simp [hfit]))))
    · exact (if_neg (by omega)).trans (if_pos (.inr ⟨hr, h0, hpart⟩))
    · refine (if_neg (by omega)).trans ((if_neg (show ¬((s.role ≠ 0 ∧ c.p 1 ≠ 0) ∨ (s.role = 1 ∧ c.p 1 = 0 ∧ roleOf s.twin.hbFields = 2))
        by omega)).trans ((if_neg (by omega)).trans ((if_neg (by omega)).trans ?_)))
      rw [h0]
      rfl
  case standby =>
    intro s hot policy h
    exact s.takeStandby hot policy h
  case status =>
    intro s src c h
    exact ends_runCmd h (show execCmdTwinStatus src s = _ from rfl) rfl
  case handover =>
    intro s src c w h hw hn
    subst hw
    have hgo : (s.role = 1 → (s.twin.peer.getD 0 0).toNat % 4 = 2 → bitAt (s.twin.peer.getD 0 0).toNat 7 = true →
        ¬(s.role ≠ 1 ∨ (s.twin.peer.getD 0 0).toNat % 4 ≠ 2 ∨ bitAt (s.twin.peer.getD 0 0).toNat 7 = false ∨
          s.twin.handover.isSome = true)) := by
      rw [hn]
      rintro hr hp hb (k | k | k | k)
      · exact k hr
      · exact k hp
      · exact absurd (k.symm.trans hb) (by decide)
      · cases k
    refine ⟨fun hno => ends_handover h hn (if_pos ?_), fun hr hp hb hup => ends_handover h hn ((if_neg (hgo hr hp hb)).trans (if_pos ?_)),
      fun hr hp hb hup t ht => ?_⟩
    · rcases hno with hno | hno | hno
      · exact .inl hno
      · exact .inr (.inl hno)
      · exact .inr (.inr (.inl hno))
    · show (!s.on F.LINK_STAT_UP) = true
      rw [hup]
      rfl
    · subst ht
      exact goes_handover h ((if_neg (hgo hr hp hb)).trans (if_neg (show ¬(!s.on F.LINK_STAT_UP) = true by rw [hup]; decide)))
  case again =>
    intro s src c h hn
    exact goes_handover h (if_pos (.inr (.inr (.inr (Option.isSome_iff_ne_none.2 hn)))))
  case ctl =>
    intro s f hx
    have hi : exec .twinCtlRx s = _ := (show execTwinCtlRx s = _ from rfl)
    refine ⟨fun t hw hr ht => goes_frame hx hi ?_, fun hw ha hr => goes_frame hx hi ?_, fun h1 h2 => goes_frame hx hi ?_⟩
    · rw [ht]
      exact if_pos ⟨hw, hr⟩
    · exact (if_neg (by omega)).trans (if_pos ⟨hw, ha, hr⟩)
    · refine (if_neg fun hk => ?_).trans (if_neg fun hk => ?_)
      · rcases h1 with h1 | h1
        · exact h1 hk.1
        · exact h1 hk.2
      · obtain ⟨hw, ha, hr⟩ := hk
        rcases h2 with h2 | h2 | h2
        · exact h2 hw
        · exact absurd (h2.symm.trans ha) (by decide)
        · exact h2 hr
  case takeover =>
    intro s hl hr hb
    exact goes_onDevice hl (show execTakeoverTmo s = _ from rfl) (if_pos ⟨hr, hb⟩)
  case noTakeover =>
    intro s hl hno
    refine goes_onDevice hl (show execTakeoverTmo s = _ from rfl) (if_neg fun hk => ?_)
    rcases hno with hno | hno
    · exact hno hk.1
    · exact absurd (hk.2.symm.trans hno) (by decide)
  case mark =>
    intro s
    obtain ⟨h1, h2⟩ := foldState_mark s.partBobs s
    exact ⟨h1, fun id hs hf => (h2 id).trans (if_pos (State.mem_partBobs hs hf))⟩
  case expire =>
    intro s t hl ha hw ht
    refine goes_onDevice hl (show execHandoverTmo s = _ from rfl) ?_
    rw [ht]
    exact if_pos (by rw [ha, hw]; rfl)
  case noExpire =>
    intro s hl hno
    refine goes_onDevice hl (show execHandoverTmo s = _ from rfl) (if_neg ?_)
    rcases hno with hno | hno <;> simp [hno]
  case lost =>
    intro s hl hr ht hn hb
    have hgo := goes_onDevice (t := (State.putBit { s with twin := { s.twin with lost := true } } F.TWIN_STAT_PARTNER_LOST true).resolveWaiting)
      (i := .partnerLost) hl (show execPartnerLost s = _ from rfl) (if_pos ⟨hr, ht, hn, hb⟩)
    refine ⟨hgo, fun hw => ⟨_, hgo, ?_⟩⟩
    generalize hx : State.putBit { s with twin := { s.twin with lost := true } } F.TWIN_STAT_PARTNER_LOST true = x
    have hxw : x.twin.waiting = [] := by rw [← hx]; exact hw
    have hres : x.resolveWaiting = { x with twin := { x.twin with waiting := [], peerHeads := [] } } := by
      rw [State.resolveWaiting, hxw]
      rfl
    rw [hres]
    refine ⟨by rw [← hx]; rfl, by rw [← hx]; rfl, ?_⟩
    rw [← hx]
    exact State.on_putBit _ F.TWIN_STAT_PARTNER_LOST true 0 0 rfl (by decide)
  case noLost =>
    intro s hl hno
    refine goes_onDevice hl (show execPartnerLost s = _ from rfl) (if_neg fun hk => ?_)
    obtain ⟨h1, h2, h3, h4⟩ := hk
    rcases hno with hno | hno | hno | hno
    · exact hno h1
    · exact absurd (h3.symm.trans hno) (by decide)
    · rw [hno] at h2
      cases h2
    · exact absurd (h4.symm.trans hno) (by decide)

end Sys2Proof.Machine
end

section
/-! PROOF. The lanes of the Ranoz link: markers, alignment, bring-up and fallback. -/

namespace Sys2Proof.Machine
open Sys2Proof.Claims

/-! ### A marker as it is sent and read -/

theorem markerBytes_read {l n k : Nat} {al fw : Bool} {m : LaneMarker} (hl : l < 8) (hn : n < 4) (hk : k < 16)
    (h : [m.b1, m.b2, m.b3] = markerBytes l n al fw k) : markerGood m = m.placed ∧ markerNumber m = l ∧ markerLanes m = n ∧
    markerAligned m = al ∧ markerFw m = fw ∧ markerSession m = k := by
  have hb1 : m.b1 = BitVec.ofNat 8 (l % 8 + 2 ^ 3 * (n % 4) + 2 ^ 5 * bit al + 2 ^ 6 * bit fw) := (List.cons.inj h).1
  have hb2 : m.b2 = BitVec.ofNat 8 (k % 16) := (List.cons.inj (List.cons.inj h).2).1
  have hb3 : m.b3 = ~~~(m.b1 ^^^ m.b2) := by
    rw [hb1, hb2]
    exact (List.cons.inj (List.cons.inj (List.cons.inj h).2).2).1
  have hal : bit al < 2 := by cases al <;> decide
  have hfw : bit fw < 2 := by cases fw <;> decide
  have h1 : m.b1.toNat = l + 8 * n + 32 * bit al + 64 * bit fw := by
    rw [hb1, BitVec.toNat_ofNat]
    omega
  have h2 : m.b2.toNat = k := by
    rw [hb2, BitVec.toNat_ofNat]
    omega
  have hone (b : Bool) : (bit b == 1) = b := by cases b <;> rfl
  refine ⟨?_, ?_, ?_, ?_, ?_, ?_⟩
  · rw [markerGood, hb3]
    simp
  · rw [markerNumber, h1, bitsOf]
    omega
  · rw [markerLanes, h1, bitsOf]
    omega
  · rw [markerAligned, h1, bitAt,
      (by omega : (l + 8 * n + 32 * bit al + 64 * bit fw) / 2 ^ 5 % 2 = bit al)]
    exact hone al
  · rw [markerFw, h1, bitAt,
      (by omega : (l + 8 * n + 32 * bit al + 64 * bit fw) / 2 ^ 6 % 2 = bit fw)]
    exact hone fw
  · rw [markerSession, h2, bitsOf]
    omega

/-! ### A lane's alignment -/

theorem State.showLanes_link (s : State) : s.showLanes.link = s.link := rfl

/-- Whether a lane is aligned after a marker: two good ones in a row, and neither errors nor a second missing one. -/
def markerKeeps (m : LaneMarker) (k : LinkUnit) (l : Nat) : Bool :=
  !(decide (2 ≤ if markerGood m then 0 else tgetD k.missed l 0 + 1) || decide (16 ≤ m.errors + tgetD k.errors l 0)) &&
    (tgetD k.aligned l false || decide (2 ≤ if markerGood m then tgetD k.markers l 0 + 1 else 0))

theorem State.laneAfter_aligned (s : State) (l k : Nat) (m : LaneMarker) :
    (s.laneAfter l m).laneAligned k = if k = l then markerKeeps m s.link l else s.laneAligned k := by
  have hx : (s.laneAfter l m).laneAligned k = tgetD (tset s.link.aligned l (markerKeeps m s.link l)) k false := rfl
  rw [hx]
  by_cases h : k = l
  · rw [if_pos h, h, tgetD_tset_same]
  · rw [if_neg h, tgetD_tset_other _ _ _ h]
    rfl

theorem State.showLanes_up (s : State) : s.showLanes.on F.LINK_STAT_UP = s.on F.LINK_STAT_UP := by
  rw [State.on, State.showLanes,
    State.get_put_beside (f := F.LINK_STAT_ALIGNED) (g := F.LINK_STAT_UP) _ _ 0 rfl (by decide) (by decide)]
  rfl

theorem State.bringUp_aligned (s : State) : s.bringUp.get F.LINK_STAT_ALIGNED = 0 := by
  rw [State.bringUp, State.putBit,
    State.get_put_beside (f := F.LINK_STAT_FB_REFUSED) (g := F.LINK_STAT_ALIGNED) _ _ 0 rfl (by decide) (by decide), State.putBit,
    State.get_put_beside (f := F.LINK_STAT_FB_ACTIVE) (g := F.LINK_STAT_ALIGNED) _ _ 0 rfl (by decide) (by decide)]
  exact State.get_put _ _ _ _ _ (by decide)

theorem State.startFrames_eq (s : State) {l : Nat} {same : Bool} (hs : s.link.start = some (l, same)) (hn : s.link.nakOwed = false) :
    s.startFrames = (if same then State.resendFrames { s with link := { s.link with start := none } }
      else { s with link := { s.link with start := none } }).pump := by
  unfold State.startFrames
  simp only [hs, hn, Bool.false_eq_true, if_false]

/-! ### The link comes up -/

/-- A link that comes up keeps its UP bit and its cause, sends no frame, and waits for a lane's marker. -/
structure RiseKept (s t : State) : Prop where
  up : t.on F.LINK_STAT_UP = s.on F.LINK_STAT_UP
  cause : t.on F.HOST_IBI_CAUSE_LINK = s.on F.HOST_IBI_CAUSE_LINK
  sent : t.link.sent = s.link.sent
  start : t.link.start = s.link.start

theorem RiseKept.trans {s t u : State} (h : RiseKept s t) (k : RiseKept t u) : RiseKept s u :=
  ⟨k.up.trans h.up, k.cause.trans h.cause, k.sent.trans h.sent, k.start.trans h.start⟩

theorem riseKept_setReg {s t : State} (h : RiseKept s t) (r : Reg) (v i : Nat) (hu : R.LINK_STAT.addr 0 0 ≠ r.addr i 0)
    (hc : R.HOST_IBI_CAUSE.addr 0 0 ≠ r.addr i 0) : RiseKept s (t.setReg r v i) :=
  h.trans ⟨congrArg (fun w => bitsOf w 0 1 != 0) (State.reg_setReg_other t r R.LINK_STAT v i 0 0 0 hu),
    congrArg (fun w => bitsOf w F.HOST_IBI_CAUSE_LINK.lo F.HOST_IBI_CAUSE_LINK.width != 0)
      (State.reg_setReg_other t r R.HOST_IBI_CAUSE v i 0 0 0 hc), rfl, rfl⟩

theorem riseKept_setCredits {s t : State} (h : RiseKept s t) (l n : Nat) : RiseKept s (t.setCredits l n) := by
  unfold State.setCredits State.put
  refine riseKept_setReg ?_ R.LINK_CREDIT _ 0 (by decide) (by decide)
  exact h.trans ⟨rfl, rfl, rfl, rfl⟩

theorem riseKept_newSession (s : State) : RiseKept s s.newSession := by
  unfold State.newSession
  extract_lets k1 k2 t u
  have hu : RiseKept s u := by
    simp only [u, State.putBit, State.put]
    refine riseKept_setReg (riseKept_setReg ?_ R.MBX_D2T_GO _ 0 (by decide) (by decide)) R.TWIN_STAT _ 0 (by decide) (by decide)
    exact ⟨rfl, rfl, rfl, rfl⟩
  exact timesFrom_keeps (P := fun x : State => RiseKept s x) (fun x l k => riseKept_setCredits k l fullCredits) hu 4 0

theorem riseKept_fillBox (s : State) (ws : List Word) : RiseKept s (s.fillBox R.MBX_D2T_DATA ws) := by
  unfold State.fillBox
  refine timesFrom_keeps_below (P := fun x : State => RiseKept s x) (fun x i hi k => ?_) ⟨rfl, rfl, rfl, rfl⟩
  split
  · refine riseKept_setReg k _ _ _ ?_ ?_ <;> simp only [Reg.addr, R.LINK_STAT, R.HOST_IBI_CAUSE, R.MBX_D2T_DATA] <;> omega
  · exact k

theorem riseKept_nextD2t (s : State) (h : s.link.start ≠ none) : RiseKept s s.nextD2t := by
  unfold State.nextD2t
  split
  · exact ⟨rfl, rfl, rfl, rfl⟩
  · rename_i ws rest _
    unfold State.placeD2t
    extract_lets _ t
    have ht : RiseKept s t := by
      simp only [t, State.putBit, State.put]
      refine riseKept_setReg (RiseKept.trans ?_ (riseKept_fillBox _ ws)) R.MBX_D2T_GO _ 0 (by decide) (by decide)
      exact ⟨rfl, rfl, rfl, rfl⟩
    clear_value t
    unfold State.linkSend
    extract_lets f k
    generalize hy : ({ t with link := { t.link with queue := t.link.queue ++ [f] } } : State) = y
    have hk : RiseKept s y := by rw [← hy]; exact ht.trans ⟨rfl, rfl, rfl, rfl⟩
    have hgo : y.framesGo = false := by
      cases hys : y.link.start with
      | none => exact absurd (hk.start.symm.trans hys) h
      | some e => rw [State.framesGo, hys]; simp
    rw [State.pump, if_neg (by simp [hgo])]
    exact hk

/-- A link that has come up: its session goes on, or starts anew. -/
def State.linkRisen (s : State) (lane : Nat) : State :=
  let same := s.link.lastUpSession.isSome && s.link.lastUpSession == s.link.partner
  let u : State := { s with link := { s.link with lastUpSession := s.link.partner, start := some (lane, same) } }
  if same then u else u.newSession.nextD2t

theorem State.rise_kept (s : State) (l : Nat) : ∃ same, (s.linkRisen l).on F.LINK_STAT_UP = s.on F.LINK_STAT_UP ∧
    (s.linkRisen l).on F.HOST_IBI_CAUSE_LINK = s.on F.HOST_IBI_CAUSE_LINK ∧ (s.linkRisen l).link.sent = s.link.sent ∧
    (s.linkRisen l).link.start = some (l, same) := by
  unfold State.linkRisen
  extract_lets same k u
  refine ⟨same, ?_⟩
  have hs : u.link.start = some (l, same) := rfl
  have hu : u.on F.LINK_STAT_UP = s.on F.LINK_STAT_UP ∧ u.on F.HOST_IBI_CAUSE_LINK = s.on F.HOST_IBI_CAUSE_LINK ∧ u.link.sent = s.link.sent :=
    ⟨rfl, rfl, rfl⟩
  clear_value u
  obtain ⟨h1, h2, h3⟩ := hu
  split
  · exact ⟨h1, h2, h3, hs⟩
  · have hn := riseKept_newSession u
    have hd := riseKept_nextD2t u.newSession (by rw [hn.start, hs]; exact Option.some_ne_none _)
    obtain ⟨k1, k2, k3, k4⟩ := hn.trans hd
    exact ⟨k1.trans h1, k2.trans h2, k3.trans h3, k4.trans hs⟩

/-- Settles O53: markers, alignment, the start and the end of the link, fallback and LINK_CFG. -/
theorem ranozLanes : Obligations.RanozLanes := by
  unfold Obligations.RanozLanes
  refine ⟨?marker, ?idle, ?sends, ?read, ?taken, ?start, ?rise, ?risen, ?waits, ?fresh, ?resend, ?noLane, ?aligned, ?lost, ?other,
    ?mayNot, ?fallback, ?settled, ?loss, ?fall, ?cfgNo, ?cfg⟩
  case marker => exact fun _ _ => rfl
  case idle =>
    intro s
    refine ⟨fun h => if_pos h, fun h => if_neg (by rw [h]; decide), ?_⟩
    rw [State.rxAligned, State.everyLane]
    simp
  case sends =>
    intro s l
    refine ⟨fun h => if_pos ?_, fun h1 h2 => ?_⟩
    · rcases h with h | h <;> simp [h]
    · have hs : s.laneSends l = s.laneMarker l ++ List.replicate 1020 s.idleSent := if_neg (by simp [h1, h2])
      have hlen : (s.laneMarker l).length = 4 := rfl
      rw [hs]
      exact ⟨by rw [← hlen, List.take_left], by rw [← hlen, List.drop_left]⟩
  case read =>
    intro l n k al fw m hl hn hk h
    exact markerBytes_read hl hn hk h
  case taken =>
    intro s a b c l m hl hlt ht ha hb hc hs
    refine goes_onCore hl (show execRanozMarkerRx l m s = _ from rfl) ?_
    subst ha hb hc
    refine (if_neg (by simp [hlt, ht])).trans (if_neg ?_)
    cases hst : s.link.start with
    | none => simp
    | some e =>
      obtain ⟨k, same⟩ := e
      have hk : k ≠ l.val := fun hk => hs same (by rw [hst, hk])
      simp [hk]
  case start =>
    intro s a b c l m same hl hlt ht hst ha hb hc
    refine goes_onCore hl (show execRanozMarkerRx l m s = _ from rfl) ?_
    subst ha hb hc
    exact (if_neg (by simp [hlt, ht])).trans (if_pos (by simp [hst]))
  case rise =>
    intro s l hup hmay
    exact (if_neg (by simp [hup])).trans (if_pos hmay)
  case risen =>
    intro s l
    generalize hx : (s.putBit F.LINK_STAT_UP true).raise F.HOST_IBI_CAUSE_LINK = x
    have hup : x.on F.LINK_STAT_UP = true := by
      rw [← hx, State.on, State.get_congr (State.raise_regs _ _),
        State.get_put_other _ F.HOST_IBI_CAUSE_LINK F.LINK_STAT_UP _ _ _ _ _ (by decide)]
      exact State.on_putBit _ F.LINK_STAT_UP true 0 0 rfl (by decide)
    have hcause : x.on F.HOST_IBI_CAUSE_LINK = true := by
      rw [← hx, State.on, State.get_congr (State.raise_regs _ _), State.get_put _ _ _ _ _ (by decide)]
      rfl
    have hlink : x.link = s.link := by rw [← hx, State.raise_i]; rfl
    obtain ⟨same, hk⟩ := x.rise_kept l
    have hrise : s.linkRise l = x.linkRisen l := by rw [← hx]; rfl
    obtain ⟨hup', hcause', hsent, hstart⟩ := hk
    rw [hrise]
    refine ⟨hup'.trans hup, ?_, hsent.trans (by rw [hlink]), ⟨same, hstart⟩, hcause'.trans hcause⟩
    rw [State.framesGo, hstart]
    simp
  case waits =>
    intro s h
    exact if_neg (by simp [h])
  case fresh =>
    intro s t l hs hn ht
    subst ht
    rw [s.startFrames_eq hs hn, if_neg Bool.false_ne_true]
  case resend =>
    intro s t l hs hn ht
    subst ht
    rw [s.startFrames_eq hs hn, if_pos rfl]
  case noLane =>
    intro s l m hl hd hno
    refine goes_onCore_quiet hl (show execRanozMarkerRx l m s = _ from rfl) (if_pos ?_) hd
    rcases hno with h | h <;> simp [h]
  case aligned =>
    intro s l m hg he hm
    rw [State.laneAfter_aligned, if_pos rfl, markerKeeps, hg]
    simp [he, hm]
  case lost =>
    intro s l m h
    rw [State.laneAfter_aligned, if_pos rfl, markerKeeps]
    rcases h with h | ⟨hg, hm⟩
    · simp [h]
    · simp [hg, hm]
  case other =>
    intro s l k m h
    rw [State.laneAfter_aligned, if_neg h]
  case mayNot =>
    intro s h
    unfold State.mayRise
    rcases h with h | h | h <;> simp [h]
  case fallback =>
    intro s hl h
    exact goes_onCore hl (show execFallbackTimeout s = _ from rfl) (if_neg (by simp [h]))
  case settled =>
    intro s hl hd h
    exact goes_onCore_quiet hl (show execFallbackTimeout s = _ from rfl) (if_pos h) hd
  case loss =>
    intro s l hl hd hlt hal hup
    generalize hx : ({ s with link := { s.link with
      aligned := tset s.link.aligned l.val false, markers := tset s.link.markers l.val 0, deskewed := false } } : State) = x
    have hxu : x.showLanes.on F.LINK_STAT_UP = false := by
      rw [State.showLanes_up, ← hx]
      exact hup
    have hxd : x.showLanes.fenceDue = [] := by rw [← hx]; exact hd
    have hxl : x.showLanes.link.aligned = tset s.link.aligned l.val false := by rw [← hx]; rfl
    refine ⟨x.showLanes, goes_onCore_quiet hl (show execRanozLaneLoss l s = _ from rfl)
      ((if_neg (by simp [hlt, hal])).trans (by rw [hx]; exact if_neg (by simp [hxu]))) hxd, by rw [← hx]; rfl, ?_, by rw [← hx]; rfl,
      fun k hk => ?_⟩
    · rw [State.laneAligned, hxl]
      exact tgetD_tset_same _ _ _ _
    · rw [State.laneAligned, hxl]
      exact tgetD_tset_other _ _ _ hk
  case fall =>
    intro s t l hl hlt hal hup ht
    subst ht
    refine goes_onCore hl (show execRanozLaneLoss l s = _ from rfl) ((if_neg (by simp [hlt, hal])).trans (if_pos ?_))
    exact (State.showLanes_up _).trans hup
  case cfgNo =>
    intro s v hl hd hno
    refine goes_onCore_quiet hl (show execLinkCfgWrite v s = _ from rfl) (if_pos ?_) hd
    rcases hno with h | h | h
    · exact .inl h
    · exact .inr (.inl h)
    · refine .inr (.inr ?_)
      rw [bitsOf]
      omega
  case cfg =>
    intro s t v hl hd hr hv hup ht hne
    subst ht
    have htu : (s.mergeReg R.LINK_CFG v.toNat).on F.LINK_STAT_UP = false :=
      (congrArg (fun w => bitsOf w 0 1 != 0) (State.reg_setReg_other s R.LINK_CFG R.LINK_STAT _ 0 0 0 0 (by decide))).trans hup
    refine ⟨goes_onCore_quiet hl (show execLinkCfgWrite v s = _ from rfl) ((if_neg ?_).trans ((if_neg hne).trans (if_neg (by simp [htu])))) hd,
      rfl, State.bringUp_aligned _⟩
    rw [hr, bitsOf]
    omega

end Sys2Proof.Machine
end

section
/-! PROOF. Snapshots and trace. -/

namespace Sys2Proof.Machine
open Sys2Proof.Claims

/-! ### The firing -/

/-- The next entry of the ring is taken. -/
theorem State.snapTake_spec (s : State) (src : Nat) : ∃ e, tget? (s.snapTake src).snap.ring (s.get F.SNAP_STAT_NEXT) = some e ∧
    e.seq = (s.snap.count + 1) % 2 ^ 32 ∧ (s.snapTake src).snap.count = e.seq ∧ (s.snapTake src).snap.trail = [] ∧
    e.time = s.time.now ∧ e.sources = 2 ^ src ∧ (s.snapTake src).snap.taking = some (s.get F.SNAP_STAT_NEXT) ∧
    (s.snapTake src).get F.SNAP_STAT_NEXT = (s.get F.SNAP_STAT_NEXT + 1) % 8 ∧
    (s.snapTake src).get F.SNAP_STAT_SEQ = (s.get F.SNAP_STAT_SEQ + 1) % 2 ^ 16 ∧ (s.snapTake src).mem = s.mem := by
  generalize hu : (((s.bumpWrap F.SNAP_STAT_SEQ).put F.SNAP_STAT_NEXT (s.get F.SNAP_STAT_NEXT + 1)).putBit F.SNAP_STAT_BUSY true).bump
    F.SNAP_CNT_TAKEN = u
  have hregs : (s.snapTake src).regs = u.regs := by rw [← hu]; rfl
  refine ⟨_, tget?_tset_same _ _ _, rfl, rfl, rfl, rfl, rfl, rfl, ?_, ?_, rfl⟩
  · rw [State.get_congr hregs, ← hu, State.bump, State.bumpBy,
      State.get_put_stride (f := F.SNAP_CNT_TAKEN) (g := F.SNAP_STAT_NEXT) (hs := rfl) (hm := by decide), State.putBit,
      State.get_put_beside (f := F.SNAP_STAT_BUSY) (g := F.SNAP_STAT_NEXT) _ _ 0 rfl (by decide) (by decide)]
    exact State.get_put _ _ _ _ _ (by decide)
  · rw [State.get_congr hregs, ← hu, State.bump, State.bumpBy,
      State.get_put_stride (f := F.SNAP_CNT_TAKEN) (g := F.SNAP_STAT_SEQ) (hs := rfl) (hm := by decide), State.putBit,
      State.get_put_beside (f := F.SNAP_STAT_BUSY) (g := F.SNAP_STAT_SEQ) _ _ 0 rfl (by decide) (by decide),
      State.get_put_beside (f := F.SNAP_STAT_NEXT) (g := F.SNAP_STAT_SEQ) _ _ 0 rfl (by decide) (by decide)]
    exact State.get_put _ _ _ _ _ (by decide)

/-! ### What a block has copied -/

theorem tget?_append {α : Type} (l k : Tbl α) (a : Nat) : tget? (l ++ k) a = (tget? l a).or (tget? k a) := by
  induction l with
  | nil => rfl
  | cons e l ih =>
    obtain ⟨j, v⟩ := e
    by_cases h : a = j
    · rw [List.cons_append, tget?, tget?, if_pos h, if_pos h]
      rfl
    · rw [List.cons_append, tget?, tget?, if_neg h, if_neg h, ih]

/-- Of tables for the places of a list, the one of the address's own place answers. -/
theorem tget?_flatMap_place {α : Type} (f : Nat → Tbl α) (hf : ∀ p a, regPlace a ≠ p → tget? (f p) a = none) (a : Nat) (l : List Nat) :
    tget? (l.flatMap f) a = if regPlace a ∈ l then tget? (f (regPlace a)) a else none := by
  induction l with
  | nil => rfl
  | cons p l ih =>
    rw [List.flatMap_cons, tget?_append, ih]
    by_cases hp : regPlace a = p
    · subst hp
      rw [if_pos List.mem_cons_self]
      cases hg : tget? (f (regPlace a)) a with
      | none => split <;> rfl
      | some v => rfl
    · rw [hf p a hp]
      simp [hp]

theorem State.tget?_latched (s : State) (p lag a : Nat) :
    tget? (s.latched p lag) a = if regPlace a = p then tget? (s.snap.trail.getD (lag - 1) s.shownRegs) a else none := by
  rw [State.latched, tget?_filter_key _ fun b => regPlace b == p]
  exact if_congr beq_iff_eq rfl rfl

/-! ### The latch and the settings -/

/-- The entry with what every block has copied. -/
def State.latchedEntry (s : State) (e : Snap) (lags : List Nat) : Snap :=
  { e with lag := lags.map (min 200), regs := s.latchRegs e (lags.map (min 200)) }

/-- The entry that every block has latched is valid. -/
def State.latchDone (s : State) (n : Nat) : State :=
  ((s.put F.SNAP_STAT_VALID (setBits (s.get F.SNAP_STAT_VALID) n 1 1)).putBit F.SNAP_STAT_BUSY false).raise F.HOST_IBI_CAUSE_SNAP

theorem State.latchDone_spec (s : State) {n : Nat} (hn : n < 8) : (s.latchDone n).snap = s.snap ∧
    bitAt ((s.latchDone n).get F.SNAP_STAT_VALID) n = true ∧ (s.latchDone n).on F.SNAP_STAT_BUSY = false ∧
    (s.latchDone n).on F.HOST_IBI_CAUSE_SNAP = true := by
  unfold State.latchDone
  refine ⟨by rw [State.raise_i]; rfl, ?_, ?_, ?_⟩
  · rw [State.get_congr (State.raise_regs _ _), State.get_put_other _ F.HOST_IBI_CAUSE_SNAP F.SNAP_STAT_VALID _ _ _ _ _ (by decide),
      State.putBit, State.get_put_beside (f := F.SNAP_STAT_BUSY) (g := F.SNAP_STAT_VALID) _ _ 0 rfl (by decide) (by decide),
      State.get_put _ _ _ _ _ (by decide)]
    have hbit : (setBits (s.get F.SNAP_STAT_VALID) n 1 1).testBit n = true := by
      rw [testBit_setBits]
      simp
    rw [bitAt_eq_testBit, Nat.testBit_mod_two_pow, hbit]
    exact (Bool.and_true _).trans (decide_eq_true hn)
  · rw [State.on, State.get_congr (State.raise_regs _ _), State.get_put_other _ F.HOST_IBI_CAUSE_SNAP F.SNAP_STAT_BUSY _ _ _ _ _ (by decide)]
    exact State.on_putBit _ F.SNAP_STAT_BUSY false 0 0 rfl (by decide)
  · rw [State.on, State.get_congr (State.raise_regs _ _), State.get_put _ _ _ _ _ (by decide)]
    rfl

theorem snapReg_apart {u : Nat} (hu : u < 32) : ∀ a ∈ [R.SNAP_CTRL.addr 0 0, R.SNAP_STAT.addr 0 0, R.SNAP_ENC_LO.addr 0 0, R.SNAP_ENC_HI.addr 0 0],
    a ∉ R.SYS_OWN.addr (13 + u) 0 :: cmpRegs u := by
  intro a ha
  simp only [List.mem_cons, List.not_mem_nil, or_false] at ha
  rcases ha with rfl | rfl | rfl | rfl <;>
    simp only [cmpRegs, Reg.addr, R.SYS_OWN, R.TK_CMP_NS, R.TK_CMP_S_LO, R.TK_CMP_S_HI, R.SNAP_CTRL, R.SNAP_STAT, R.SNAP_ENC_LO,
      R.SNAP_ENC_HI, List.mem_cons, List.not_mem_nil, or_false] <;>
    omega

/-- What CMD_SNAP_CONFIG writes of its parameters. -/
def State.snapSettings (s : State) (p q : Nat) : State :=
  (((((s.put F.SNAP_CTRL_SOURCES (bitsOf p 0 8)).put F.SNAP_CTRL_UNIT (bitsOf q 0 5)).put F.SNAP_CTRL_ENC (bitsOf q 8 1)).put
    F.SNAP_CTRL_FI (bitsOf q 12 4)).put F.SNAP_CTRL_EDGE (bitsOf q 16 1)).put F.SNAP_CTRL_REARM (bitsOf q 24 1)

/-- What CMD_SNAP_CONFIG leaves. -/
def State.snapConfig (s : State) (p q : Nat) : State :=
  let b := s.releaseSnapUnit.snapSettings p q
  let d := if bitAt (bitsOf p 0 8) 0 then b.armSnapTime (bitsOf q 0 5) else b
  if bitAt (bitsOf p 0 8) 1 then d.armSnapEnc (bitsOf q 8 1) else d.putBit F.SNAP_STAT_ENC_ARMED false

theorem State.snapSettings_spec (s : State) (p q : Nat) : OnlyRegs s (s.snapSettings p q) [R.SNAP_CTRL.addr 0 0] ∧
    (s.snapSettings p q).get F.SNAP_CTRL_SOURCES = bitsOf p 0 8 ∧ (s.snapSettings p q).get F.SNAP_CTRL_UNIT = bitsOf q 0 5 := by
  unfold State.snapSettings
  refine ⟨?_, ?_, ?_⟩
  · exact onlyRegs_mono (onlyRegs_trans (s.put_onlyRegs F.SNAP_CTRL_SOURCES _ 0) (onlyRegs_trans (State.put_onlyRegs _ F.SNAP_CTRL_UNIT _ 0)
      (onlyRegs_trans (State.put_onlyRegs _ F.SNAP_CTRL_ENC _ 0) (onlyRegs_trans (State.put_onlyRegs _ F.SNAP_CTRL_FI _ 0)
      (onlyRegs_trans (State.put_onlyRegs _ F.SNAP_CTRL_EDGE _ 0) (State.put_onlyRegs _ F.SNAP_CTRL_REARM _ 0)))))) (by decide)
  · rw [State.get_put_beside (f := F.SNAP_CTRL_REARM) (g := F.SNAP_CTRL_SOURCES) _ _ 0 rfl (by decide) (by decide),
      State.get_put_beside (f := F.SNAP_CTRL_EDGE) (g := F.SNAP_CTRL_SOURCES) _ _ 0 rfl (by decide) (by decide),
      State.get_put_beside (f := F.SNAP_CTRL_FI) (g := F.SNAP_CTRL_SOURCES) _ _ 0 rfl (by decide) (by decide),
      State.get_put_beside (f := F.SNAP_CTRL_ENC) (g := F.SNAP_CTRL_SOURCES) _ _ 0 rfl (by decide) (by decide),
      State.get_put_beside (f := F.SNAP_CTRL_UNIT) (g := F.SNAP_CTRL_SOURCES) _ _ 0 rfl (by decide) (by decide),
      State.get_put _ _ _ _ _ (by decide)]
    exact Nat.mod_eq_of_lt (bitsOf_lt _ _ _)
  · rw [State.get_put_beside (f := F.SNAP_CTRL_REARM) (g := F.SNAP_CTRL_UNIT) _ _ 0 rfl (by decide) (by decide),
      State.get_put_beside (f := F.SNAP_CTRL_EDGE) (g := F.SNAP_CTRL_UNIT) _ _ 0 rfl (by decide) (by decide),
      State.get_put_beside (f := F.SNAP_CTRL_FI) (g := F.SNAP_CTRL_UNIT) _ _ 0 rfl (by decide) (by decide),
      State.get_put_beside (f := F.SNAP_CTRL_ENC) (g := F.SNAP_CTRL_UNIT) _ _ 0 rfl (by decide) (by decide),
      State.get_put _ _ _ _ _ (by decide)]
    exact Nat.mod_eq_of_lt (bitsOf_lt _ _ _)

theorem State.releaseSnapUnit_spec (s : State) : OnlyRegs s s.releaseSnapUnit (R.SNAP_STAT.addr 0 0 ::
    R.SYS_OWN.addr (13 + s.get F.SNAP_CTRL_UNIT) 0 :: cmpRegs (s.get F.SNAP_CTRL_UNIT)) ∧ s.releaseSnapUnit.on F.SNAP_STAT_TIME_ARMED = false := by
  unfold State.releaseSnapUnit
  extract_lets u
  split
  · exact ⟨onlyRegs_mono (onlyRegs_trans (s.own_onlyRegs (by omega) _ _) (onlyRegs_trans (State.put_onlyRegs _ F.TK_CMP_S_HI_ARMED _ u)
      (State.put_onlyRegs _ F.SNAP_STAT_TIME_ARMED _ 0))) (by
        simp [cmpRegs, u, F.TK_CMP_S_HI_ARMED, F.SNAP_STAT_TIME_ARMED]),
      State.on_putBit _ F.SNAP_STAT_TIME_ARMED false 0 0 rfl (by decide)⟩
  · exact ⟨onlyRegs_mono (s.put_onlyRegs F.SNAP_STAT_TIME_ARMED _ 0) (by simp [F.SNAP_STAT_TIME_ARMED]),
      State.on_putBit _ F.SNAP_STAT_TIME_ARMED false 0 0 rfl (by decide)⟩

theorem State.setReg_onlyRegs (s : State) (r : Reg) (v i : Nat) : OnlyRegs s (s.setReg r v i) [r.addr i 0] :=
  ⟨rfl, fun _ ha => tget?_setReg _ _ _ _ _ _ (by simpa using ha)⟩

/-- The TIME source may fire again. -/
def State.rearmed (s : State) : State := { s with snap := { s.snap with timeRearm := false } }

/-- The compare unit of the TIME source, with SNAP_CMP. -/
def State.snapUnit (s : State) (u : Nat) : State :=
  (((s.own (13 + u) ownSnapshot 0).setReg R.TK_CMP_NS (s.reg R.SNAP_CMP_NS) u).setReg R.TK_CMP_S_LO
    (s.reg R.SNAP_CMP_S_LO) u).put F.TK_CMP_S_HI_S_HI (s.get F.SNAP_CMP_S_HI_S_HI) u

theorem State.armSnapTime_eq (s : State) (u : Nat) :
    s.armSnapTime u = ((s.snapUnit u).rearmed.putBit F.TK_CMP_S_HI_ARMED true u).putBit F.SNAP_STAT_TIME_ARMED true := rfl

theorem State.armSnapTime_spec (s : State) {u : Nat} (hu : u < 32) :
    SameRegs s (s.armSnapTime u) (R.SNAP_STAT.addr 0 0 :: R.SYS_OWN.addr (13 + u) 0 :: cmpRegs u) ∧ (s.armSnapTime u).mem = s.mem ∧
    (s.armSnapTime u).on F.SNAP_STAT_TIME_ARMED = true ∧ (s.armSnapTime u).owner (13 + u) = ownSnapshot := by
  rw [s.armSnapTime_eq u]
  generalize ht : s.snapUnit u = t
  have hown := s.own_onlyRegs (i := 13 + u) (by omega) ownSnapshot 0
  have htr : OnlyRegs (s.own (13 + u) ownSnapshot 0) t (cmpRegs u) := ht ▸ onlyRegs_mono (onlyRegs_trans (State.setReg_onlyRegs _ R.TK_CMP_NS _ u)
    (onlyRegs_trans (State.setReg_onlyRegs _ R.TK_CMP_S_LO _ u) (State.put_onlyRegs _ F.TK_CMP_S_HI_S_HI _ u)))
    (by simp [cmpRegs, F.TK_CMP_S_HI_S_HI])
  have howner : t.get F.SYS_OWN_OWNER (13 + u) = ownSnapshot := by
    rw [onlyRegs_get htr F.SYS_OWN_OWNER (13 + u) fun hm => own_apart (i := 13 + u) (p := 0) hu (by omega) (by decide)
      (List.mem_cons_of_mem _ hm)]
    exact (s.get_own (13 + u) ownSnapshot 0).1
  have hst := onlyRegs_trans hown htr
  have hvr : t.rearmed.regs = t.regs := rfl
  have hvm : t.rearmed.mem = t.mem := rfl
  generalize t.rearmed = v at hvr hvm ⊢
  have hput := onlyRegs_trans (v.put_onlyRegs F.TK_CMP_S_HI_ARMED (bit true) u) (State.put_onlyRegs _ F.SNAP_STAT_TIME_ARMED (bit true) 0)
  refine ⟨fun a ha => ?_, ?_, State.on_putBit _ F.SNAP_STAT_TIME_ARMED true 0 0 rfl (by decide), ?_⟩
  · simp only [cmpRegs, List.mem_cons, List.not_mem_nil, or_false, not_or] at ha
    obtain ⟨hs, ho, hn, hl, hh⟩ := ha
    refine (hput.2 a ?_).trans (((congrArg (tget? · a) hvr)).trans (hst.2 a ?_))
    · simp [F.TK_CMP_S_HI_ARMED, F.SNAP_STAT_TIME_ARMED, hh, hs]
    · simp [cmpRegs, ho, hn, hl, hh]
  · show v.mem = s.mem
    rw [hvm, hst.1]
  · have hne : R.SYS_OWN.addr (13 + u) 0 ∉ R.ETH_STAT.addr 0 0 :: cmpRegs u := own_apart hu (by omega) (by decide)
    simp only [cmpRegs, List.mem_cons, not_or] at hne
    obtain ⟨-, -, -, hh, -⟩ := hne
    have hs : R.SYS_OWN.addr (13 + u) 0 ≠ R.SNAP_STAT.addr 0 0 := by simp only [Reg.addr, R.SYS_OWN, R.SNAP_STAT]; omega
    rw [State.owner_eq _ (by omega), State.putBit, State.get_put_other _ F.SNAP_STAT_TIME_ARMED F.SYS_OWN_OWNER _ _ _ _ _ hs,
      State.putBit, State.get_put_other _ F.TK_CMP_S_HI_ARMED F.SYS_OWN_OWNER _ _ _ _ _ hh, State.get_congr hvr, howner]

/-- The ENCODER source, armed or not. -/
def State.snapEnc (s : State) (on : Bool) (c : Nat) : State := if on then s.armSnapEnc c else s.putBit F.SNAP_STAT_ENC_ARMED false

theorem State.snapEnc_spec (s : State) (on : Bool) (c : Nat) : SameRegs s (s.snapEnc on c) [R.SNAP_STAT.addr 0 0] ∧
    (s.snapEnc on c).mem = s.mem ∧ (s.snapEnc on c).on F.SNAP_STAT_ENC_ARMED = on ∧
    (s.snapEnc on c).on F.SNAP_STAT_TIME_ARMED = s.on F.SNAP_STAT_TIME_ARMED ∧
    (on = true → (s.snapEnc on c).snap.encAt = signed 48 (s.reg R.SNAP_ENC_LO + 2 ^ 32 * s.reg R.SNAP_ENC_HI)) ∧
    (on = false → s.snapEnc on c = { s with regs := (s.snapEnc on c).regs }) := by
  have hput (t : State) (b : Bool) : SameRegs t (t.putBit F.SNAP_STAT_ENC_ARMED b) [R.SNAP_STAT.addr 0 0] :=
    (t.put_onlyRegs F.SNAP_STAT_ENC_ARMED _ 0).2
  have htime (t : State) (b : Bool) : (t.putBit F.SNAP_STAT_ENC_ARMED b).on F.SNAP_STAT_TIME_ARMED = t.on F.SNAP_STAT_TIME_ARMED := by
    rw [State.on, State.putBit,
      State.get_put_beside (f := F.SNAP_STAT_ENC_ARMED) (g := F.SNAP_STAT_TIME_ARMED) _ _ 0 rfl (by decide) (by decide), State.on]
  unfold State.snapEnc
  cases on with
  | false => exact ⟨hput s false, rfl, State.on_putBit _ F.SNAP_STAT_ENC_ARMED false 0 0 rfl (by decide), htime s false, nofun, fun _ => rfl⟩
  | true =>
    rw [if_pos rfl, State.armSnapEnc]
    exact ⟨hput _ true, rfl, State.on_putBit _ F.SNAP_STAT_ENC_ARMED true 0 0 rfl (by decide), htime _ true, fun _ => rfl, nofun⟩

/-- The TIME source, armed or not. -/
def State.snapTime (s : State) (on : Bool) (u : Nat) : State := if on then s.armSnapTime u else s

theorem State.snapTime_spec (s : State) (on : Bool) {u : Nat} (hu : u < 32) (hs : s.on F.SNAP_STAT_TIME_ARMED = false) :
    SameRegs s (s.snapTime on u) (R.SNAP_STAT.addr 0 0 :: R.SYS_OWN.addr (13 + u) 0 :: cmpRegs u) ∧ (s.snapTime on u).mem = s.mem ∧
    (s.snapTime on u).on F.SNAP_STAT_TIME_ARMED = on ∧ (on = true → (s.snapTime on u).owner (13 + u) = ownSnapshot) := by
  unfold State.snapTime
  cases on with
  | false => exact ⟨fun _ _ => rfl, rfl, hs, nofun⟩
  | true =>
    obtain ⟨h1, h2, h3, h4⟩ := s.armSnapTime_spec hu
    exact ⟨h1, h2, h3, fun _ => h4⟩

theorem sameRegs_reg {s t : State} {but : List Nat} (h : SameRegs s t but) (r : Reg) (i : Nat) (hr : r.addr i 0 ∉ but) :
    t.reg r i = s.reg r i := by
  rw [State.reg, State.reg, h _ hr]

theorem State.snapConfig_spec (s : State) (p q : Nat) : (s.snapConfig p q).get F.SNAP_CTRL_SOURCES = bitsOf p 0 8 ∧
    (s.snapConfig p q).get F.SNAP_CTRL_UNIT = bitsOf q 0 5 ∧ (s.snapConfig p q).on F.SNAP_STAT_TIME_ARMED = bitAt (bitsOf p 0 8) 0 ∧
    (s.snapConfig p q).on F.SNAP_STAT_ENC_ARMED = bitAt (bitsOf p 0 8) 1 ∧ (s.snapConfig p q).mem = s.mem ∧
    (bitAt (bitsOf p 0 8) 0 = true → (s.snapConfig p q).owner (13 + bitsOf q 0 5) = ownSnapshot) ∧
    (bitAt (bitsOf p 0 8) 1 = true →
      (s.snapConfig p q).snap.encAt = signed 48 (s.reg R.SNAP_ENC_LO + 2 ^ 32 * s.reg R.SNAP_ENC_HI)) ∧
    (bitAt (bitsOf p 0 8) 0 = false → bitAt (bitsOf p 0 8) 1 = false → s.snapConfig p q = { s with regs := (s.snapConfig p q).regs }) := by
  have hu : bitsOf q 0 5 < 32 := bitsOf_lt _ _ _
  have hu' : s.get F.SNAP_CTRL_UNIT < 32 := bitsOf_lt _ _ _
  obtain ⟨hrel, hoff⟩ := s.releaseSnapUnit_spec
  obtain ⟨hset, hsrc, hunit⟩ := s.releaseSnapUnit.snapSettings_spec p q
  have heq : s.snapConfig p q = ((s.releaseSnapUnit.snapSettings p q).snapTime (bitAt (bitsOf p 0 8) 0) (bitsOf q 0 5)).snapEnc
    (bitAt (bitsOf p 0 8) 1) (bitsOf q 8 1) := rfl
  generalize s.releaseSnapUnit = a at *
  generalize a.snapSettings p q = b at *
  have hboff : b.on F.SNAP_STAT_TIME_ARMED = false := (onlyRegs_on hset F.SNAP_STAT_TIME_ARMED 0 (by decide)).trans hoff
  obtain ⟨hd, hdm, hdt, hdo⟩ := b.snapTime_spec (bitAt (bitsOf p 0 8) 0) hu hboff
  have hdoff (h : bitAt (bitsOf p 0 8) 0 = false) : b.snapTime (bitAt (bitsOf p 0 8) 0) (bitsOf q 0 5) = b := by rw [h]; rfl
  generalize b.snapTime (bitAt (bitsOf p 0 8) 0) (bitsOf q 0 5) = d at *
  obtain ⟨he, hem, hen, het, hea, heo⟩ := d.snapEnc_spec (bitAt (bitsOf p 0 8) 1) (bitsOf q 8 1)
  rw [heq]
  generalize d.snapEnc (bitAt (bitsOf p 0 8) 1) (bitsOf q 8 1) = t at *
  have hctrl : t.reg R.SNAP_CTRL = b.reg R.SNAP_CTRL := by
    have hne := snapReg_apart hu (R.SNAP_CTRL.addr 0 0) (by simp)
    rw [sameRegs_reg he R.SNAP_CTRL 0 (by decide), sameRegs_reg hd R.SNAP_CTRL 0 (List.not_mem_cons_of_ne_of_not_mem (by decide) hne)]
  have henc (r : Reg) (hr : r = R.SNAP_ENC_LO ∨ r = R.SNAP_ENC_HI) : d.reg r = s.reg r := by
    have hmem : r.addr 0 0 ∈ [R.SNAP_CTRL.addr 0 0, R.SNAP_STAT.addr 0 0, R.SNAP_ENC_LO.addr 0 0, R.SNAP_ENC_HI.addr 0 0] := by
      rcases hr with rfl | rfl <;> simp
    have hstat : r.addr 0 0 ≠ R.SNAP_STAT.addr 0 0 ∧ r.addr 0 0 ≠ R.SNAP_CTRL.addr 0 0 := by rcases hr with rfl | rfl <;> decide
    rw [sameRegs_reg hd r 0 (List.not_mem_cons_of_ne_of_not_mem hstat.1 (snapReg_apart hu _ hmem)),
      sameRegs_reg hset.2 r 0 (by simpa using hstat.2),
      sameRegs_reg hrel.2 r 0 (List.not_mem_cons_of_ne_of_not_mem hstat.1 (snapReg_apart hu' _ hmem))]
  have hbm : b = { s with regs := b.regs } := by rw [hset.1, hrel.1]
  refine ⟨?_, ?_, het.trans hdt, hen, ?_, fun h => ?_, fun h => ?_, fun h0 h1 => ?_⟩
  · rw [← hsrc]
    exact congrArg (fun w => bitsOf w 0 8) hctrl
  · rw [← hunit]
    exact congrArg (fun w => bitsOf w 8 5) hctrl
  · rw [hem, hdm, hbm]
  · have hne : R.SYS_OWN.addr (13 + bitsOf q 0 5) 0 ∉ [R.SNAP_STAT.addr 0 0] := by
      simp only [Reg.addr, R.SYS_OWN, R.SNAP_STAT, List.mem_singleton]
      omega
    rw [State.owner_eq _ (by omega), ← hdo h, State.owner_eq _ (by omega)]
    exact congrArg (fun w => bitsOf w 0 8) (sameRegs_reg he R.SYS_OWN _ hne)
  · rw [hea h, henc _ (.inl rfl), henc _ (.inr rfl)]
  · rw [heo h1, hdoff h0, hbm]

/-- Settles O51: the firing, its latch, the reading of an entry, and trace. -/
theorem snapshots : Obligations.Snapshots := by
  unfold Obligations.Snapshots
  refine ⟨?trigger, ?fire, ?merge, ?config, ?latch, ?noLatch, ?copied, ?trace, ?holdoff, ?read, ?done, ?noRead, ?traceSet⟩
  case trigger =>
    intro s src c h
    exact ends_runCmd h (show execCmdSnapTrigger src s = _ from rfl) rfl
  case fire =>
    intro s src n ht hh hn
    subst hn
    refine ⟨fun hok => ?_, fun hv hk => ?_⟩
    · obtain ⟨e, he⟩ := s.snapTake_spec src
      refine ⟨_, e, ?_, he⟩
      rw [State.snapFire, ht]
      refine (if_neg (by simp [hh])).trans (if_neg ?_)
      rcases hok with h | h <;> simp [h]
    · rw [State.snapFire, ht]
      exact (if_neg (by simp [hh])).trans (if_pos (by rw [hv, hk]; rfl))
  case merge =>
    intro s src n e ht he
    have hm : s.snapMerge n src = ({ s with snap := { s.snap with ring := tset s.snap.ring n (e.withSource src) } } : State).bump F.SNAP_CNT_MERGED := by
      rw [State.snapMerge, he]
    refine ⟨s.snapMerge n src, by rw [State.snapFire, ht], ?_, ?_⟩
    · rw [hm]
      exact tget?_tset_same _ _ _
    · rw [hm, State.bump, State.bumpBy,
        State.get_put_stride (f := F.SNAP_CNT_MERGED) (g := F.SNAP_STAT_SEQ) (hs := rfl) (hm := by decide)]
      rfl
  case config =>
    intro s src c h
    have hi : exec (.cmdSnapConfig src) s = _ := (show execCmdSnapConfig src s = _ from rfl)
    have hb0 : bitAt (bitsOf (c.p 1) 0 8) 0 = bitAt (c.p 1) 0 := by simp only [bitAt, bitsOf]; congr 1; omega
    have hb1 : bitAt (bitsOf (c.p 1) 0 8) 1 = bitAt (c.p 1) 1 := by simp only [bitAt, bitsOf]; congr 1; omega
    refine ⟨fun hbit hheld => ends_runCmd h hi (if_pos ?_), fun hok => ?_⟩
    · rw [hb0, hbit]
      exact hheld
    · have hno : ¬(bitAt (bitsOf (c.p 1) 0 8) 0 && s.heldByOther (13 + bitsOf (c.p 2) 0 5) ownSnapshot 0) = true := by
        rw [hb0]
        rcases hok with k | k <;> simp [k]
      obtain ⟨hsrc, hunit, htime, henc, hmem, hown, hat, halone⟩ := (s.dropOldest src).snapConfig_spec (c.p 1) (c.p 2)
      rw [hb0] at htime hown halone
      rw [hb1] at henc hat halone
      refine ⟨(s.dropOldest src).snapConfig (c.p 1) (c.p 2), ends_runCmd h hi ((if_neg hno).trans rfl), hsrc.trans ?_, hunit.trans ?_, htime,
        henc, hmem, hown, hat, halone⟩
      · rw [bitsOf]; omega
      · rw [bitsOf]; omega
  case latch =>
    intro s lags n e hl ht hn he
    generalize hx : ({ s with snap := { s.snap with
      taking := none, trail := [], ring := tset s.snap.ring n (s.latchedEntry e lags) } } : State) = x
    have hxs : x.snap = { s.snap with taking := none, trail := [], ring := tset s.snap.ring n (s.latchedEntry e lags) } := by rw [← hx]
    obtain ⟨hsnap, hvalid, hbusy, hcause⟩ := x.latchDone_spec hn
    refine ⟨x.latchDone n, s.latchedEntry e lags,
      goes_onDevice hl (show execSnapLatchDone lags s = _ from rfl) ?_, by rw [hsnap, hxs], ?_, rfl, rfl, rfl, rfl, by rw [hsnap, hxs],
      hvalid, hbusy, hcause⟩
    · simp only [ht, he]
      rw [← hx]
      rfl
    · rw [hsnap, hxs]
      exact tget?_tset_same _ _ _
  case noLatch =>
    intro s lags hl hno
    refine goes_onDevice hl (show execSnapLatchDone lags s = _ from rfl) ?_
    rcases hno with h | ⟨n, h, hr⟩
    · simp only [h]
    · simp only [h, hr]
  case copied =>
    intro s e lags a ha
    refine ⟨fun hne => ?_, fun heq => ?_⟩
    · rw [State.latchRegs, tget?_tset_other _ _ hne, tget?_flatMap_place _ fun p b hb => by rw [State.tget?_latched, if_neg hb],
        if_pos (List.mem_range.2 ha), State.tget?_latched, if_pos rfl]
    · rw [State.latchRegs, heq, tget?_tset_same]
  case trace =>
    intro s ws
    refine ⟨fun h => ⟨if_neg (by simp [h]), if_neg (by simp [h])⟩, fun h => ⟨if_pos h, if_pos h⟩⟩
  case holdoff =>
    intro s hl
    exact goes_onDevice hl (show execSnapHoldoffExpire s = _ from rfl) rfl
  case read =>
    intro s src c h
    have hi : exec (.cmdSnapRead src) s = _ := (show execCmdSnapRead src s = _ from rfl)
    refine ⟨fun hbad => ends_runCmd h hi ?_, fun e he h7 hv ht => ends_runCmd h hi ?_, fun e he h7 hv ht =>
      ⟨_, rfl, begins_runCmd h hi ?_⟩⟩
    · show (match tget? s.snap.ring (c.p 1) with | none => _ | some e => _) = _
      cases hr : tget? s.snap.ring (c.p 1) with
      | none => rfl
      | some e =>
        refine if_pos ?_
        rcases hbad with hb | hb | hb
        · exact .inl hb
        · exact .inr hb
        · exact absurd (hr.symm.trans hb) (by simp)
    · have hv' : ¬(7 < c.p 1 ∨ bitAt (s.get F.SNAP_STAT_VALID) (c.p 1) = false) := by simp [hv, h7]
      show (match tget? s.snap.ring (c.p 1) with | none => _ | some e => _) = _
      rw [he]
      exact (if_neg hv').trans (if_pos ht)
    · have hv' : ¬(7 < c.p 1 ∨ bitAt (s.get F.SNAP_STAT_VALID) (c.p 1) = false) := by simp [hv, h7]
      have hq : c.p 2 % 2 ^ 17 = bitsOf (c.p 2) 0 17 := by rw [bitsOf]; omega
      show (match tget? s.snap.ring (c.p 1) with | none => _ | some e => _) = _
      rw [he, hq]
      exact (if_neg hv').trans (if_neg ht)
  case done =>
    intro s t src n mask seq q hl hr ht
    refine ⟨fun e he htk hs => goes_onDevice hl (show execSnapReadDone s = _ from rfl) ?_,
      fun hno => goes_onDevice hl (show execSnapReadDone s = _ from rfl) ?_⟩
    · subst ht
      simp only [hr, he]
      exact if_neg (by rintro (k | k); exacts [htk k, k hs])
    · subst ht
      simp only [hr]
      rcases hno with k | k | ⟨e, he, k⟩
      · cases hg : tget? s.snap.ring n with
        | none => rfl
        | some e => exact if_pos (.inl k)
      · rw [k]
      · rw [he]
        exact if_pos (.inr k)
  case noRead =>
    intro s hl hr
    refine goes_onDevice hl (show execSnapReadDone s = _ from rfl) ?_
    simp only [hr]
  case traceSet =>
    intro s src c h
    have hi : exec (.cmdTraceSet src) s = _ := (show execCmdTraceSet src s = _ from rfl)
    exact ⟨fun hbad => ends_runCmd h hi (if_pos hbad), fun hok => ⟨_, rfl, ends_runCmd h hi (if_neg (by omega))⟩⟩

end Sys2Proof.Machine
end

section
/-! PROOF. Transfers, remote requests, the windows and the fence map. -/

namespace Sys2Proof.Machine
open Sys2Proof.Claims

/-! ### The fence map -/

/-- Setting a clear bit by an addition changes that bit alone. -/
theorem testBit_add_two_pow {x n : Nat} (h : x.testBit n = false) (m : Nat) :
    (x + 2 ^ n).testBit m = if m = n then true else x.testBit m := by
  have hlt : x % 2 ^ (n + 1) < 2 ^ n := by
    have hmod : x % 2 ^ (n + 1) = x % 2 ^ n + 2 ^ n * (x / 2 ^ n % 2) := by rw [pow_succ, Nat.mod_mul]
    have hbit : x / 2 ^ n % 2 = 0 := by
      have hb : bitAt x n = false := by rw [bitAt_eq_testBit, h]
      have h2 : x / 2 ^ n % 2 < 2 := Nat.mod_lt _ (by decide)
      have h1 : x / 2 ^ n % 2 ≠ 1 := by simpa [bitAt] using hb
      omega
    rw [hmod, hbit]
    exact Nat.mod_lt _ (Nat.two_pow_pos n)
  have hx : x = 2 ^ (n + 1) * (x / 2 ^ (n + 1)) + x % 2 ^ (n + 1) := (Nat.div_add_mod _ _).symm
  generalize x / 2 ^ (n + 1) = a at hx
  generalize x % 2 ^ (n + 1) = b at hx hlt
  have hp : 2 ^ (n + 1) = 2 ^ n + 2 ^ n := by rw [pow_succ]; omega
  have hadd : x + 2 ^ n = 2 ^ (n + 1) * a + (2 ^ n + b) := by omega
  rw [hadd, Nat.testBit_two_pow_mul_add a (by omega), hx, Nat.testBit_two_pow_mul_add a (by omega)]
  by_cases hm : m = n
  · subst hm
    rw [if_pos (by omega), if_pos rfl, Nat.testBit_two_pow_add_eq, Nat.testBit_lt_two_pow hlt]
    rfl
  · rw [if_neg hm]
    by_cases hlt' : m < n + 1
    · rw [if_pos hlt', if_pos hlt', Nat.testBit_two_pow_add_gt (by omega)]
    · rw [if_neg hlt', if_neg hlt']

/-- Whether a loom is fenced: its bit of the map's low or high half. -/
theorem State.fenced_low {s : State} (h : s.splits = []) (hlo : s.reg R.SCHED_FENCE_MAP_LO < 2 ^ 32) {n : Nat} (hn : n < 32) :
    s.fenced n = (s.reg R.SCHED_FENCE_MAP_LO).testBit n := by
  rw [State.fenced, bitAt_eq_testBit, State.fenceMap, State.splitWord, State.splitWord, h, if_neg (by simp), if_neg (by simp), Nat.add_comm,
    Nat.testBit_two_pow_mul_add _ hlo, if_pos hn]

theorem State.fenced_high {s : State} (h : s.splits = []) (hlo : s.reg R.SCHED_FENCE_MAP_LO < 2 ^ 32) {n : Nat} (hn : 32 ≤ n) :
    s.fenced n = (s.reg R.SCHED_FENCE_MAP_HI).testBit (n - 32) := by
  rw [State.fenced, bitAt_eq_testBit, State.fenceMap, State.splitWord, State.splitWord, h, if_neg (by simp), if_neg (by simp), Nat.add_comm,
    Nat.testBit_two_pow_mul_add _ hlo, if_neg (by omega)]

theorem State.fenceMap_lt (s : State) : s.reg R.SCHED_FENCE_MAP_LO < 2 ^ 32 ∧ s.reg R.SCHED_FENCE_MAP_HI < 2 ^ 32 := by
  constructor
  · rw [State.reg]
    split
    · exact BitVec.isLt _
    · exact Nat.two_pow_pos 32
  · rw [State.reg]
    split
    · exact BitVec.isLt _
    · exact Nat.two_pow_pos 32

/-- The map with a loom's bit. -/
theorem testBit_marked {x n : Nat} (hx : x.testBit n = false) {m : Nat} (hm : m < 32) :
    ((x + 2 ^ n) % 2 ^ 32).testBit m = if m = n then true else x.testBit m := by
  rw [Nat.testBit_mod_two_pow, testBit_add_two_pow hx, decide_eq_true hm, Bool.true_and]

theorem State.fenceMark_fenced {s : State} {n : Nat} (hn : n < 64) (hf : s.fenced n = false) (hs : s.splits = []) (m : Nat) (hm : m < 64) :
    (s.fenceMark n).fenced m = if m = n then true else s.fenced m := by
  have hlo := s.fenceMap_lt.1
  have hsplit : ¬s.splitWord (if n < 32 then 4 else 5) = true := by rw [State.splitWord, hs]; simp
  by_cases h : n < 32
  · have ht : s.fenceMark n = (s.setReg R.SCHED_FENCE_MAP_LO (s.reg R.SCHED_FENCE_MAP_LO + 2 ^ n)).stored 4 :=
      (if_neg hsplit).trans (if_pos h)
    have hts : (s.fenceMark n).splits = [] := by rw [ht]; exact hs
    have htl : (s.fenceMark n).reg R.SCHED_FENCE_MAP_LO = (s.reg R.SCHED_FENCE_MAP_LO + 2 ^ n) % 2 ^ 32 := by
      rw [ht]
      exact s.reg_setReg R.SCHED_FENCE_MAP_LO _ 0 0
    have hth : (s.fenceMark n).reg R.SCHED_FENCE_MAP_HI = s.reg R.SCHED_FENCE_MAP_HI := by
      rw [ht]
      exact s.reg_setReg_other R.SCHED_FENCE_MAP_LO R.SCHED_FENCE_MAP_HI _ 0 0 0 0 (by decide)
    have htlt : (s.fenceMark n).reg R.SCHED_FENCE_MAP_LO < 2 ^ 32 := (s.fenceMark n).fenceMap_lt.1
    rw [State.fenced_low hs hlo h] at hf
    by_cases hm' : m < 32
    · rw [State.fenced_low hts htlt hm', State.fenced_low hs hlo hm', htl, testBit_marked hf hm']
    · rw [State.fenced_high hts htlt (by omega), State.fenced_high hs hlo (by omega), hth, if_neg (by omega)]
  · have ht : s.fenceMark n = (s.setReg R.SCHED_FENCE_MAP_HI (s.reg R.SCHED_FENCE_MAP_HI + 2 ^ (n - 32))).stored 5 :=
      (if_neg hsplit).trans (if_neg h)
    have hts : (s.fenceMark n).splits = [] := by rw [ht]; exact hs
    have htl : (s.fenceMark n).reg R.SCHED_FENCE_MAP_LO = s.reg R.SCHED_FENCE_MAP_LO := by
      rw [ht]
      exact s.reg_setReg_other R.SCHED_FENCE_MAP_HI R.SCHED_FENCE_MAP_LO _ 0 0 0 0 (by decide)
    have hth : (s.fenceMark n).reg R.SCHED_FENCE_MAP_HI = (s.reg R.SCHED_FENCE_MAP_HI + 2 ^ (n - 32)) % 2 ^ 32 := by
      rw [ht]
      exact s.reg_setReg R.SCHED_FENCE_MAP_HI _ 0 0
    have htlt : (s.fenceMark n).reg R.SCHED_FENCE_MAP_LO < 2 ^ 32 := (s.fenceMark n).fenceMap_lt.1
    rw [State.fenced_high hs hlo (by omega)] at hf
    by_cases hm' : m < 32
    · rw [State.fenced_low hts htlt hm', State.fenced_low hs hlo hm', htl, if_neg (by omega)]
    · rw [State.fenced_high hts htlt (by omega), State.fenced_high hs hlo (by omega), hth, testBit_marked hf (by omega)]
      exact if_congr (by omega) rfl rfl

/-! ### The windows of every loom -/

/-- Of steps that each leave a view but one, the view is what that one makes of it. -/
theorem timesFrom_view_at {σ β : Type} {f : σ → Nat → σ} {v : σ → β} {g : β → β} {k : Nat} (hset : ∀ t, v (f t k) = g (v t))
    (hkeep : ∀ t m, m ≠ k → v (f t m) = v t) {n i : Nat} {s : σ} (hk : k < i + n) :
    v (timesFrom f n i s) = if i ≤ k then g (v s) else v s := by
  induction n generalizing i s with
  | zero => rw [timesFrom, if_neg (by omega)]
  | succ n ih =>
    rw [timesFrom, ih (by omega)]
    rcases Nat.lt_trichotomy i k with h | h | h
    · rw [if_pos (by omega), if_pos (by omega), hkeep s i (by omega)]
    · subst h
      rw [if_neg (by omega), if_pos (by omega), hset]
    · rw [if_neg (by omega), if_neg (by omega), hkeep s i (by omega)]

/-- What a window of the pace reads for one loom. -/
def paceStep (rates : List Nat) (t : State) (n : Nat) : State :=
  match rates[n]? with
  | some r =>
    let v := r % 2 ^ 16
    ((t.put F.LOOM_PACE_RATE v n).putBit F.LOOM_PACE_VALID true n).put F.LOOM_PACE_MIN_MIN
      (min v (t.get F.LOOM_PACE_MIN_MIN n)) n
  | none => t

/-- What a loom's pace registers show. -/
def paceView (n : Nat) (t : State) : Nat × Bool × Nat := (t.get F.LOOM_PACE_RATE n, t.on F.LOOM_PACE_VALID n, t.get F.LOOM_PACE_MIN_MIN n)

theorem paceStep_only (rates : List Nat) (t : State) (n : Nat) :
    OnlyRegs t (paceStep rates t n) [R.LOOM_PACE.addr n 0, R.LOOM_PACE_MIN.addr n 0] := by
  unfold paceStep
  split
  · exact onlyRegs_mono (onlyRegs_trans (t.put_onlyRegs F.LOOM_PACE_RATE _ n) (onlyRegs_trans (State.put_onlyRegs _ F.LOOM_PACE_VALID _ n)
      (State.put_onlyRegs _ F.LOOM_PACE_MIN_MIN _ n))) (by simp [F.LOOM_PACE_RATE, F.LOOM_PACE_VALID, F.LOOM_PACE_MIN_MIN])
  · exact ⟨rfl, fun _ _ => rfl⟩

theorem pace_apart {m n : Nat} (h : n ≠ m) : R.LOOM_PACE.addr n 0 ∉ [R.LOOM_PACE.addr m 0, R.LOOM_PACE_MIN.addr m 0] ∧
    R.LOOM_PACE_MIN.addr n 0 ∉ [R.LOOM_PACE.addr m 0, R.LOOM_PACE_MIN.addr m 0] := by
  simp only [Reg.addr, R.LOOM_PACE, R.LOOM_PACE_MIN, List.mem_cons, List.not_mem_nil, or_false]
  omega

theorem paceStep_other (rates : List Nat) (t : State) {m n : Nat} (h : m ≠ n) : paceView n (paceStep rates t m) = paceView n t := by
  have hk := paceStep_only rates t m
  obtain ⟨hp, hm⟩ := pace_apart h.symm
  rw [paceView, onlyRegs_get hk F.LOOM_PACE_RATE n hp, onlyRegs_on hk F.LOOM_PACE_VALID n hp, onlyRegs_get hk F.LOOM_PACE_MIN_MIN n hm]
  rfl

theorem paceStep_same {rates : List Nat} {n r : Nat} (h : rates[n]? = some r) (t : State) :
    paceView n (paceStep rates t n) = (r % 2 ^ 16, true, min (r % 2 ^ 16) (paceView n t).2.2) := by
  have hlt : r % 2 ^ 16 < 2 ^ 16 := Nat.mod_lt _ (by decide)
  have hstep : paceStep rates t n = ((t.put F.LOOM_PACE_RATE (r % 2 ^ 16) n).putBit F.LOOM_PACE_VALID true n).put F.LOOM_PACE_MIN_MIN
      (min (r % 2 ^ 16) (t.get F.LOOM_PACE_MIN_MIN n)) n := by rw [paceStep, h]
  rw [hstep]
  refine Prod.ext ?_ (Prod.ext ?_ ?_)
  · show State.get _ F.LOOM_PACE_RATE n = r % 2 ^ 16
    rw [State.get_put_stride (f := F.LOOM_PACE_MIN_MIN) (g := F.LOOM_PACE_RATE) (hs := rfl) (hm := by decide), State.putBit,
      State.get_put_beside (f := F.LOOM_PACE_VALID) (g := F.LOOM_PACE_RATE) _ _ n rfl (by decide) (by decide),
      State.get_put _ _ _ _ _ (by decide)]
    exact Nat.mod_eq_of_lt hlt
  · show State.on _ F.LOOM_PACE_VALID n = true
    rw [State.on, State.get_put_stride (f := F.LOOM_PACE_MIN_MIN) (g := F.LOOM_PACE_VALID) (hs := rfl) (hm := by decide)]
    exact State.on_putBit _ F.LOOM_PACE_VALID true n 0 rfl (by decide)
  · show State.get _ F.LOOM_PACE_MIN_MIN n = _
    rw [State.get_put _ _ _ _ _ (by decide)]
    exact Nat.mod_eq_of_lt (Nat.lt_of_le_of_lt (Nat.min_le_left _ _) hlt)

/-- Steps that each change registers of a list change registers of that list. -/
theorem timesFrom_onlyRegs {f : State → Nat → State} {but : List Nat} {n : Nat} (s : State)
    (h : ∀ t k, k < n → ∃ as, OnlyRegs t (f t k) as ∧ ∀ a ∈ as, a ∈ but) : OnlyRegs s (timesFrom f n 0 s) but := by
  refine timesFrom_keeps_below (P := fun t : State => OnlyRegs s t but) (fun t k hk ht => ?_) ⟨rfl, fun _ _ => rfl⟩
  obtain ⟨as, ha, hb⟩ := h t k (by omega)
  exact onlyRegs_mono (onlyRegs_trans ht ha) (by simpa [or_imp, forall_and] using hb)

/-! ### Receiving frames -/

/-- A frame of the link that the core takes. -/
theorem goes_coreFrame {i : Instr} {s t : State} {kind : Nat} {x : RzFrame} {f : State → RzFrame → State} (hx : Frames s kind x)
    (hi : exec i s = onCore s fun s => s.onFrame kind f) (ht : f (s.consume x) x = t) : Goes i s t.settle :=
  goes_onCore hx.1 hi (by rw [State.onFrame, hx.2]; exact ht)

/-- Settles O44: transfers, remote requests and their ends, the windows, and the fence map. -/
theorem loomTransfers : Obligations.LoomTransfers := by
  unfold Obligations.LoomTransfers
  refine ⟨?done, ?notDone, ?link, ?badRequest, ?request, ?response, ?late, ?deliver, ?came, ?live, ?holder, ?saved, ?window, ?pace,
    ?again, ?mark, ?split⟩
  case done =>
    intro s n t lost x hl hx h1 h2 h3
    refine goes_onCore hl (show execShuttleComplete n { tag := t, lost := lost } s = _ from rfl) ?_
    simp only [hx]
    exact if_pos (by rw [h1, h2, h3]; rfl)
  case notDone =>
    intro s n t lost hl hno
    refine goes_onCore hl (show execShuttleComplete n { tag := t, lost := lost } s = _ from rfl) ?_
    dsimp only
    cases hx : tget? (s.loom n.val).tags t.val with
    | none => rfl
    | some x =>
      refine if_neg ?_
      rcases hno x hx with h | h | h
      · simp [h]
      · simp [h]
      · simp [h]
  case link =>
    intro lost d i hi
    have hget : (overLink lost d)[i]? = some (if lost.contains (i / 8) then none else d[i]) := by
      rw [overLink, List.getElem?_mapIdx, List.getElem?_eq_getElem hi]
      rfl
    refine ⟨fun h => ?_, fun h => ?_⟩
    · rw [hget, if_pos (by simpa using h)]
    · rw [hget, if_neg (by simpa using h), List.getElem?_eq_getElem hi]
  case badRequest =>
    intro s f len hx hlen hno
    subst hlen
    refine goes_coreFrame hx (show execRreqReceive s = _ from rfl) (if_neg fun hk => ?_)
    rcases hno with h | h
    · exact hk.1 h
    · exact absurd (hk.2.symm.trans h) (by decide)
  case request =>
    intro s f a len hx hlen hne ha hok p hp
    subst hlen ha hp
    exact goes_coreFrame hx (show execRreqReceive s = _ from rfl) (if_pos ⟨hne, hok⟩)
  case response =>
    intro s f hx
    exact goes_coreFrame hx (show execRrespReceive s = _ from rfl) rfl
  case late =>
    intro s n f h1 h2
    unfold State.response
    simp only [h1, h2]
  case deliver =>
    intro s n t f hf ha hok
    unfold State.response
    simp only [ha, hf, hok]
    rfl
  case came =>
    intro s p n t hl h
    exact goes_onCore hl (show execRemoteTmoExpire p { loom := n, tag := t } s = _ from rfl) (if_pos h)
  case live =>
    intro s p n t hl hin hs hh
    have hi : exec (.remoteTmoExpire p { loom := n, tag := t }) s = _ := (show execRemoteTmoExpire p { loom := n, tag := t } s = _ from rfl)
    have hgo : (if s.responseIn p.val n.val t.val = true then s else
        s.remoteEnds p.val n.val t.val .timeout F.LINK_REMOTE_CNT_TIMEOUT) = s.remoteEndsLive n.val t.val .timeout F.LINK_REMOTE_CNT_TIMEOUT :=
      (if_neg (by simp [hin])).trans ((if_neg (by simp [hs])).trans (if_pos hh))
    refine ⟨fun x hx hfar => ⟨fun hf => ?_, fun hf l hl' => ?_⟩, fun hno => ?_⟩
    · refine goes_onCore hl hi (hgo.trans ?_)
      unfold State.remoteEndsLive
      simp only [hx, Option.filter_some, hfar, if_true, hf]
      rfl
    · subst hl'
      refine goes_onCore hl hi (hgo.trans ?_)
      unfold State.remoteEndsLive
      simp only [hx, Option.filter_some, hfar, if_true, hf]
    · refine goes_onCore hl hi (hgo.trans ?_)
      unfold State.remoteEndsLive
      cases hx : tget? (s.loom n.val).tags t.val with
      | none => simp only [hx, Option.filter_none]
      | some x =>
        simp only [hx, Option.filter_some, hno x hx]
        rfl
  case holder =>
    intro s p n t hl hin hs hh
    exact goes_onCore hl (show execRemoteTmoExpire p { loom := n, tag := t } s = _ from rfl)
      ((if_neg (by simp [hin])).trans ((if_neg (by simp [hs])).trans (if_neg hh)))
  case saved =>
    intro s p n t l hl hin hs
    have hi : exec (.remoteTmoExpire p { loom := n, tag := t }) s = _ := (show execRemoteTmoExpire p { loom := n, tag := t } s = _ from rfl)
    have hget : tgetD (s.part p.val).saved n.val {} = l := by rw [tgetD, hs]
    have hgo : (if s.responseIn p.val n.val t.val = true then s else
        s.remoteEnds p.val n.val t.val .timeout F.LINK_REMOTE_CNT_TIMEOUT) = s.remoteEndsSaved p.val n.val t.val .timeout F.LINK_REMOTE_CNT_TIMEOUT :=
      (if_neg (by simp [hin])).trans (if_pos (by simp [hs]))
    refine ⟨fun h => goes_onCore hl hi (hgo.trans (if_neg ?_)), fun h => goes_onCore hl hi (hgo.trans (if_pos ?_))⟩
    · rw [hget, h]
      decide
    · rw [hget]
      exact h
  case window =>
    intro s hl
    refine ⟨_, goes_onDevice hl (show execFenceWindowExpire s = _ from rfl) rfl, ?_, fun n hn => ?_⟩
    · exact timesFrom_onlyRegs s fun t k hk => ⟨_, t.put_onlyRegs F.LOOM_CORR_COUNT 0 k, fun a ha =>
        List.mem_map.2 ⟨k, List.mem_range.2 hk, (List.mem_singleton.1 ha).symm⟩⟩
    · refine (timesFrom_view_at (v := fun t : State => t.get F.LOOM_CORR_COUNT n) (g := fun _ => 0) (k := n)
        (fun t => State.get_put t F.LOOM_CORR_COUNT 0 n 0 (by decide)) (fun t m hm => ?_) (by omega)).trans (if_pos (by omega))
      exact State.get_put_other _ _ _ _ _ _ _ _ (Reg.addr_ne (by decide) hm.symm)
  case pace =>
    intro s rates hl
    refine ⟨timesFrom (paceStep rates) 64 0 s, goes_onDevice hl (show execPaceWindow rates s = _ from rfl) rfl, ?_, fun n r hn hr => ?_,
      fun n hn hr => ?_⟩
    · exact timesFrom_onlyRegs s fun t k hk => ⟨_, paceStep_only rates t k, fun a ha =>
        List.mem_flatMap.2 ⟨k, List.mem_range.2 hk, ha⟩⟩
    · have h := (timesFrom_view_at (f := paceStep rates) (v := paceView n) (g := fun x => (r % 2 ^ 16, true, min (r % 2 ^ 16) x.2.2)) (k := n)
        (n := 64) (i := 0) (s := s) (paceStep_same hr) (fun t m hm => paceStep_other rates t hm) (by omega)).trans (if_pos (by omega))
      exact ⟨congrArg Prod.fst h, congrArg (fun x => x.2.1) h, congrArg (fun x => x.2.2) h⟩
    · refine (timesFrom_view_at (f := paceStep rates) (v := fun t : State => t.reg R.LOOM_PACE n) (g := id) (k := n) (n := 64) (i := 0) (s := s)
        (fun t => ?_) (fun t m hm => ?_) (by omega)).trans (if_pos (by omega))
      · rw [paceStep, hr]
        rfl
      · have hk := (paceStep_only rates t m).2 _ (pace_apart hm.symm).1
        rw [State.reg, hk, State.reg]
  case again =>
    intro s n cause
    refine ⟨fun h => ?_, fun h => ?_⟩
    · rw [State.fenceAll]
      simp only [List.filter_cons, h, Bool.not_true, Bool.false_eq_true, if_false, List.filter_nil]
      rfl
    · rw [State.fenceAll]
      simp only [List.filter_cons, h, Bool.not_false, if_true, List.filter_nil]
      rfl
  case mark =>
    intro s n hf hs
    exact ⟨(State.fenceMark_fenced n.isLt hf hs n.val n.isLt).trans (if_pos rfl),
      fun m hm hne => (State.fenceMark_fenced n.isLt hf hs m hm).trans (if_neg hne)⟩
  case split =>
    intro s n h
    exact if_pos h

end Sys2Proof.Machine
end

section
/-! Steps that leave no copy of a critical word apart from the others. -/
namespace Sys2Proof.Machine
open Sys2Proof.Claims

/-- Where no copy of a critical word is apart from the others before, none is after. -/
def Uncopied (s t : State) : Prop := s.copies = [] → t.copies = []

theorem uncopied_refl (s : State) : Uncopied s s := id

theorem uncopied_stored {r s : State} (h : Uncopied r s) (w : Nat) : Uncopied r (s.stored w) := fun k => by
  rw [State.stored, h k]
  rfl

theorem uncopied_latch {r s : State} (h : Uncopied r s) (x : Tbl Word) : Uncopied r { s with latch := x } := h
theorem uncopied_fills {r s : State} (h : Uncopied r s) (x : List Fill) : Uncopied r { s with fills := x } := h
theorem uncopied_scrub {r s : State} (h : Uncopied r s) (x : Scrub) : Uncopied r { s with scrub := x } := h
theorem uncopied_i3c {r s : State} (h : Uncopied r s) (x : I3c) : Uncopied r { s with i3c := x } := h
theorem uncopied_host {r s : State} (h : Uncopied r s) (x : HostLink) : Uncopied r { s with host := x } := h
theorem uncopied_boot {r s : State} (h : Uncopied r s) (x : Boot) : Uncopied r { s with boot := x } := h
theorem uncopied_fuses {r s : State} (h : Uncopied r s) (x : Fuses) : Uncopied r { s with fuses := x } := h
theorem uncopied_straps {r s : State} (h : Uncopied r s) (x : Straps) : Uncopied r { s with straps := x } := h
theorem uncopied_snap {r s : State} (h : Uncopied r s) (x : SnapUnit) : Uncopied r { s with snap := x } := h
theorem uncopied_time {r s : State} (h : Uncopied r s) (x : TimeUnit) : Uncopied r { s with time := x } := h
theorem uncopied_link {r s : State} (h : Uncopied r s) (x : LinkUnit) : Uncopied r { s with link := x } := h
theorem uncopied_die {r s : State} (h : Uncopied r s) (x : FieldDie) : Uncopied r { s with die := x } := h
theorem uncopied_field {r s : State} (h : Uncopied r s) (x : FieldDev) : Uncopied r { s with field := x } := h
theorem uncopied_cams {r s : State} (h : Uncopied r s) (x : Tbl CamPort) : Uncopied r { s with cams := x } := h
theorem uncopied_pipes {r s : State} (h : Uncopied r s) (x : Tbl Pipe) : Uncopied r { s with pipes := x } := h
theorem uncopied_rules {r s : State} (h : Uncopied r s) (x : Tbl Rule) : Uncopied r { s with rules := x } := h
theorem uncopied_bobs {r s : State} (h : Uncopied r s) (x : Tbl Bobbin) : Uncopied r { s with bobs := x } := h
theorem uncopied_lastBob {r s : State} (h : Uncopied r s) (x : Nat) : Uncopied r { s with lastBob := x } := h
theorem uncopied_intake {r s : State} (h : Uncopied r s) (x : Intake) : Uncopied r { s with intake := x } := h
theorem uncopied_looms {r s : State} (h : Uncopied r s) (x : Tbl Loom) : Uncopied r { s with looms := x } := h
theorem uncopied_sched {r s : State} (h : Uncopied r s) (x : Sched) : Uncopied r { s with sched := x } := h
theorem uncopied_twin {r s : State} (h : Uncopied r s) (x : Twin) : Uncopied r { s with twin := x } := h
theorem uncopied_power {r s : State} (h : Uncopied r s) (x : Power) : Uncopied r { s with power := x } := h
theorem uncopied_tdcSeen {r s : State} (h : Uncopied r s) (x : Bool) : Uncopied r { s with tdcSeen := x } := h
theorem uncopied_fenceDue {r s : State} (h : Uncopied r s) (x : List (Nat × Nat)) : Uncopied r { s with fenceDue := x } := h
theorem uncopied_freeUse {r s : State} (h : Uncopied r s) (x : Nat) : Uncopied r { s with freeUse := x } := h
theorem uncopied_pending {r s : State} (h : Uncopied r s) (x : List Instr) : Uncopied r { s with pending := x } := h
theorem uncopied_mem {r s : State} (h : Uncopied r s) (x : Memory) : Uncopied r { s with mem := x } := h
theorem uncopied_splits {r s : State} (h : Uncopied r s) (x : List Nat) : Uncopied r { s with splits := x } := h
theorem uncopied_regs {r s : State} (h : Uncopied r s) (x : Tbl Word) : Uncopied r { s with regs := x } := h

theorem uncopied_ite {c : Prop} [Decidable c] {r s t : State} (hs : Uncopied r s) (ht : Uncopied r t) :
    Uncopied r (if c then s else t) := by
  split
  · exact hs
  · exact ht

theorem uncopied_ite_fst {α : Type} {c : Prop} [Decidable c] {r : State} {x y : State × α} (hx : Uncopied r x.1)
    (hy : Uncopied r y.1) : Uncopied r (if c then x else y).1 := by
  split
  · exact hx
  · exact hy

theorem uncopied_foldState {α : Type} {r : State} {f : State → α → State} (hf : ∀ s a, Uncopied r s → Uncopied r (f s a))
    {s : State} (h : Uncopied r s) (l : List α) : Uncopied r (foldState f s l) := foldState_keeps (P := Uncopied r) hf h l

theorem uncopied_timesFrom {r : State} {f : State → Nat → State} (hf : ∀ s i, Uncopied r s → Uncopied r (f s i))
    {s : State} (h : Uncopied r s) (n i : Nat) : Uncopied r (timesFrom f n i s) := timesFrom_keeps (P := Uncopied r) hf h n i

end Sys2Proof.Machine
end

section
/-! The relation above, function by function, up to the end of a job. -/
namespace Sys2Proof.Machine
open Sys2Proof.Claims

theorem uncopied_setReg {r s : State} (h : Uncopied r s) (r' : Reg) (v i j : Nat) : Uncopied r (s.setReg r' v i j) :=
    by
  unfold State.setReg
  exact uncopied_regs h _

theorem uncopied_put {r s : State} (h : Uncopied r s) (f : Fld) (v i j : Nat) : Uncopied r (s.put f v i j) := by
  unfold State.put
  exact uncopied_setReg h _ _ _ _

theorem uncopied_putBit {r s : State} (h : Uncopied r s) (f : Fld) (b : Bool) (i j : Nat) : Uncopied r (s.putBit f b
    i j) := by
  unfold State.putBit
  exact uncopied_put h _ _ _ _

theorem uncopied_bumpBy {r s : State} (h : Uncopied r s) (f : Fld) (n i j : Nat) : Uncopied r (s.bumpBy f n i j) := by
  unfold State.bumpBy
  exact uncopied_put h _ _ _ _

theorem uncopied_bump {r s : State} (h : Uncopied r s) (f : Fld) (i j : Nat) : Uncopied r (s.bump f i j) := by
  unfold State.bump
  exact uncopied_bumpBy h _ _ _ _

theorem uncopied_bumpWrap {r s : State} (h : Uncopied r s) (f : Fld) (n i j : Nat) : Uncopied r (s.bumpWrap f n i j)
    := by
  unfold State.bumpWrap
  exact uncopied_put h _ _ _ _

theorem uncopied_peak {r s : State} (h : Uncopied r s) (f : Fld) (v i j : Nat) : Uncopied r (s.peak f v i j) := by
  unfold State.peak
  exact uncopied_put h _ _ _ _

theorem uncopied_requestIbi {r s : State} (h : Uncopied r s) : Uncopied r s.requestIbi := by
  unfold State.requestIbi
  exact uncopied_ite h (uncopied_ite (uncopied_i3c h _) (uncopied_i3c h _))

theorem uncopied_raise {r s : State} (h : Uncopied r s) (cause : Fld) : Uncopied r (s.raise cause) := by
  unfold State.raise
  exact uncopied_ite (uncopied_requestIbi (uncopied_put h _ _ _ _)) (uncopied_put h _ _ _ _)

theorem uncopied_emit {r s : State} (h : Uncopied r s) (chan : Nat) (packets : List (Nat × List Byte)) (bad : List
    Bool) : Uncopied r (s.emit chan packets bad) := by
  unfold State.emit
  exact uncopied_host h _

theorem uncopied_emitWords {r s : State} (h : Uncopied r s) (chan : Nat) (ws : List Word) : Uncopied r (s.emitWords
    chan ws) := by
  unfold State.emitWords
  exact uncopied_emit h _ _ _

theorem uncopied_dropRecord {r s : State} (h : Uncopied r s) : Uncopied r s.dropRecord := by
  unfold State.dropRecord
  exact uncopied_raise (uncopied_bump h _ _ _) _

theorem uncopied_sendStatus {r s : State} (h : Uncopied r s) (ws : List Word) : Uncopied r (s.sendStatus ws) := by
  unfold State.sendStatus
  exact uncopied_ite (uncopied_emitWords h _ _) (uncopied_ite (uncopied_host h _) (uncopied_dropRecord h))

theorem uncopied_dropPending {r s : State} (h : Uncopied r s) : Uncopied r s.dropPending := by
  unfold State.dropPending
  exact uncopied_host h _

theorem uncopied_formVerdict {r s : State} (h : Uncopied r s) : Uncopied r s.formVerdict := by
  unfold State.formVerdict
  exact uncopied_ite h (uncopied_dropPending (uncopied_emit h _ _ _))

theorem uncopied_sendTrace {r s : State} (h : Uncopied r s) (ws : List Word) : Uncopied r (s.sendTrace ws) := by
  unfold State.sendTrace
  exact uncopied_ite (uncopied_emitWords h _ _) (uncopied_host h _)

theorem uncopied_snapMerge {r s : State} (h : Uncopied r s) (n src : Nat) : Uncopied r (s.snapMerge n src) := by
  unfold State.snapMerge
  dsimp only
  split
  · exact uncopied_bump (uncopied_snap h _) _ _ _
  · exact h

theorem uncopied_snapTake {r s : State} (h : Uncopied r s) (src : Nat) : Uncopied r (s.snapTake src) := by
  unfold State.snapTake
  exact uncopied_snap (uncopied_bump (uncopied_putBit (uncopied_put (uncopied_bumpWrap h _ _ _ _) _ _ _ _) _ _ _ _) _
      _ _) _

theorem uncopied_snapFire {r s : State} (h : Uncopied r s) (src : Nat) : Uncopied r (s.snapFire src).1 := by
  unfold State.snapFire
  dsimp only
  split
  · exact uncopied_snapMerge h _ _
  · refine uncopied_ite_fst ?_ ?_
    · dsimp only
      exact uncopied_snapMerge h _ _
    · refine uncopied_ite_fst ?_ ?_
      · dsimp only
        exact uncopied_bump h _ _ _
      · dsimp only
        exact uncopied_snapTake h _

theorem uncopied_snapIf {r s : State} (h : Uncopied r s) (src : Nat) : Uncopied r (s.snapIf src) := by
  unfold State.snapIf
  exact uncopied_ite (uncopied_snapFire h _) h

theorem uncopied_traceEvent {r s : State} (h : Uncopied r s) (src id : Nat) : Uncopied r (s.traceEvent src id) := by
  unfold State.traceEvent
  exact uncopied_ite (uncopied_ite (uncopied_sendTrace (uncopied_snap h _) _) (uncopied_bump (uncopied_snap h _) _ _
      _)) h

theorem uncopied_event {r s : State} (h : Uncopied r s) (src id : Nat) : Uncopied r (s.event src id) := by
  unfold State.event
  exact uncopied_snapIf (uncopied_traceEvent h _ _) _

theorem uncopied_poisonConsumed {r s : State} (h : Uncopied r s) (id : Nat) : Uncopied r (s.poisonConsumed id) := by
  unfold State.poisonConsumed
  exact uncopied_event h _ _

theorem uncopied_setCredits {r s : State} (h : Uncopied r s) (vl n : Nat) : Uncopied r (s.setCredits vl n) := by
  unfold State.setCredits
  exact uncopied_put (uncopied_link h _) _ _ _ _

theorem uncopied_startFrame {r s : State} (h : Uncopied r s) (f : RzFrame) : Uncopied r (s.startFrame f) := by
  unfold State.startFrame
  exact uncopied_setCredits (uncopied_bumpBy (uncopied_link h _) _ _ _ _) _ _

theorem uncopied_pumpList {r s : State} (h : Uncopied r s) (l : List RzFrame) (blocked : List Nat) : Uncopied r
    (s.pumpList l
    blocked) := by
  induction l generalizing s blocked with
  | nil => exact h
  | cons f t ih =>
    unfold State.pumpList
    split
    · exact ih (uncopied_startFrame (uncopied_link h _) _) _
    · exact ih h _

theorem uncopied_pump {r s : State} (h : Uncopied r s) : Uncopied r s.pump := by
  unfold State.pump
  exact uncopied_ite (uncopied_pumpList h _ _) h

theorem uncopied_linkSend {r s : State} (h : Uncopied r s) (kind vl : Nat) (payload : List Word) (poison : List Nat)
    : Uncopied r (s.linkSend kind vl payload poison) := by
  unfold State.linkSend
  exact uncopied_pump (uncopied_link h _)

theorem uncopied_fillBox {r s : State} (h : Uncopied r s) (r' : Reg) (ws : List Word) : Uncopied r (s.fillBox r' ws)
    := by
  unfold State.fillBox
  refine uncopied_timesFrom (fun s i k => ?_) h _ _
  split
  · exact uncopied_setReg k _ _ _ _
  · exact k

theorem uncopied_placeD2h {r s : State} (h : Uncopied r s) (ws : List Word) : Uncopied r (s.placeD2h ws) := by
  unfold State.placeD2h
  exact uncopied_host (uncopied_raise (uncopied_putBit (uncopied_fillBox h _ _) _ _ _ _) _) _

theorem uncopied_postD2h {r s : State} (h : Uncopied r s) (ws : List Word) : Uncopied r (s.postD2h ws) := by
  unfold State.postD2h
  exact uncopied_ite (uncopied_placeD2h h _) (uncopied_ite (uncopied_host h _) (uncopied_sendStatus h _))

theorem uncopied_placeD2t {r s : State} (h : Uncopied r s) (ws : List Word) : Uncopied r (s.placeD2t ws) := by
  unfold State.placeD2t
  exact uncopied_linkSend (uncopied_putBit (uncopied_fillBox h _ _) _ _ _ _) _ _ _ _

theorem uncopied_postD2t {r s : State} (h : Uncopied r s) (ws : List Word) : Uncopied r (s.postD2t ws) := by
  unfold State.postD2t
  exact uncopied_ite (uncopied_placeD2t h _) (uncopied_link h _)

theorem uncopied_routeReply {r s : State} (h : Uncopied r s) (src : Source) (csi : Bool) (ws : List Word) : Uncopied
    r (s.routeReply src csi ws) := by
  unfold State.routeReply
  split
  · exact uncopied_ite (uncopied_sendStatus h _) (uncopied_postD2h h _)
  · exact uncopied_sendStatus h _
  · exact uncopied_postD2t h _

theorem uncopied_reply {r s : State} (h : Uncopied r s) (src : Source) (c : Cmd) (st : Status) (ws : List Word) :
    Uncopied r (s.reply src c st ws) := by
  unfold State.reply
  exact uncopied_ite (uncopied_ite (uncopied_poisonConsumed (uncopied_bump h _ _ _) _) h) (uncopied_routeReply
      (uncopied_ite (uncopied_poisonConsumed (uncopied_bump h _ _ _) _) h) _ _ _)

theorem uncopied_addRecord {r s : State} (h : Uncopied r s) (ws : List Word) : Uncopied r (s.addRecord ws) := by
  unfold State.addRecord
  exact uncopied_ite (uncopied_ite (uncopied_formVerdict (uncopied_host (uncopied_host h _) _)) (uncopied_host
      (uncopied_host h _) _)) (uncopied_dropRecord (uncopied_host h _))

theorem uncopied_record {r s : State} (h : Uncopied r s) (serial w1 w2 hi16 conf : Nat) (f : RecFlags) (time id :
    Nat) : Uncopied r (s.record serial w1 w2 hi16 conf f time id) := by
  unfold State.record
  exact uncopied_ite (uncopied_poisonConsumed (uncopied_bump (uncopied_ite (uncopied_event (uncopied_raise
      (uncopied_addRecord h _) _) _ _) (uncopied_addRecord h _)) _ _ _) _) (uncopied_ite (uncopied_event
      (uncopied_raise (uncopied_addRecord h _) _) _ _) (uncopied_addRecord h _))

theorem uncopied_loomCorrection {r s : State} (h : Uncopied r s) (n : Nat) : Uncopied r (s.loomCorrection n) := by
  unfold State.loomCorrection
  exact uncopied_ite (uncopied_fenceDue (uncopied_bump h _ _ _) _) (uncopied_bump h _ _ _)

theorem uncopied_corrected {r s : State} (h : Uncopied r s) (rd : Reader) (g dev : Nat) : Uncopied r (s.corrected rd
    g dev) := by
  unfold State.corrected
  dsimp only
  split
  · exact uncopied_put (uncopied_put (uncopied_put (uncopied_bump (uncopied_mem h _) _ _ _) _ _ _ _) _ _ _ _) _ _ _ _
  · exact uncopied_loomCorrection (uncopied_bump (uncopied_mem h _) _ _ _) _
  · exact uncopied_bump (uncopied_mem h _) _ _ _

theorem uncopied_uncorrectable {r s : State} (h : Uncopied r s) (rd : Reader) (g : Nat) : Uncopied r (s.uncorrectable
    rd g) := by
  unfold State.uncorrectable
  dsimp only
  split
  · exact uncopied_fenceDue (uncopied_put (uncopied_put (uncopied_bump (uncopied_mem h _) _ _ _) _ _ _ _) _ _ _ _) _
  · exact uncopied_put (uncopied_put (uncopied_bump (uncopied_mem h _) _ _ _) _ _ _ _) _ _ _ _

theorem uncopied_meet {r s : State} (h : Uncopied r s) (g : Nat) : Uncopied r (s.meet g) := by
  unfold State.meet
  dsimp only
  split
  · exact uncopied_ite h (uncopied_mem h _)
  · exact h

theorem uncopied_found {r s : State} (h : Uncopied r s) (rd : Reader) (g : Nat) : Uncopied r (s.found rd g) := by
  unfold State.found
  dsimp only
  refine uncopied_ite ?_ ?_
  · split
    · exact uncopied_corrected h _ _ _
    · exact uncopied_uncorrectable h _ _
    · exact h
  · exact uncopied_ite (uncopied_ite (uncopied_uncorrectable h _ _) h) (uncopied_ite (uncopied_uncorrectable h _ _) h)

theorem uncopied_touch {r s : State} (h : Uncopied r s) (rd : Reader) (g : Nat) : Uncopied r (s.touch rd g) := by
  unfold State.touch
  exact uncopied_meet (uncopied_found h _ _) _

theorem uncopied_readData {r s : State} (h : Uncopied r s) (a n : Nat) : Uncopied r (s.readData a n).1 := by
  unfold State.readData
  exact uncopied_foldState (fun _ a k => uncopied_touch k _ _) h _

theorem uncopied_writeShare {r s : State} (h : Uncopied r s) (a : Nat) (d : Data) : Uncopied r (s.writeShare a d) :=
    by
  unfold State.writeShare
  exact uncopied_ite (uncopied_mem h _) (uncopied_mem (uncopied_touch h _ _) _)

theorem uncopied_writeFuel {r s : State} (h : Uncopied r s) (n a : Nat) (d : Data) : Uncopied r (s.writeFuel n a d)
    := by
  induction n generalizing s a d with
  | zero => exact h
  | succ n ih =>
    cases d with
    | nil => exact h
    | cons x d =>
      unfold State.writeFuel
      exact ih (uncopied_writeShare h _ _) _ _

theorem uncopied_writeData {r s : State} (h : Uncopied r s) (a : Nat) (d : Data) : Uncopied r (s.writeData a d) := by
  unfold State.writeData
  exact uncopied_ite (uncopied_mem h _) (uncopied_writeFuel h _ _ _)

theorem uncopied_setCam {r s : State} (h : Uncopied r s) (p : Nat) (c : CamPort) : Uncopied r (s.setCam p c) := by
  unfold State.setCam
  exact uncopied_cams h _

theorem uncopied_setBob {r s : State} (h : Uncopied r s) (id : Nat) (b : Bobbin) : Uncopied r (s.setBob id b) := by
  unfold State.setBob
  exact uncopied_bobs h _

theorem uncopied_setLoom {r s : State} (h : Uncopied r s) (n : Nat) (x : Loom) : Uncopied r (s.setLoom n x) := by
  unfold State.setLoom
  exact uncopied_looms h _

theorem uncopied_setPart {r s : State} (h : Uncopied r s) (p : Nat) (x : Partition) : Uncopied r (s.setPart p x) := by
  unfold State.setPart
  exact uncopied_sched h _

theorem uncopied_showLoom {r s : State} (h : Uncopied r s) (n : Nat) : Uncopied r (s.showLoom n) := by
  unfold State.showLoom
  exact uncopied_put (uncopied_put (uncopied_putBit (uncopied_put (uncopied_put (uncopied_put (uncopied_peak
      (uncopied_put (uncopied_put (uncopied_put (uncopied_put (uncopied_put h _ _ _ _) _ _ _ _) _ _ _ _) _ _ _ _) _ _
      _ _) _ _ _ _) _ _ _ _) _ _ _ _) _ _ _ _) _ _ _ _) _ _ _ _) _ _ _ _

theorem uncopied_mapLoom {r s : State} (h : Uncopied r s) (n : Nat) (f : Loom → Loom) : Uncopied r (s.mapLoom n f) :=
    by
  unfold State.mapLoom
  exact uncopied_showLoom (uncopied_setLoom h _ _) _

theorem uncopied_showPort {r s : State} (h : Uncopied r s) (p : Nat) : Uncopied r (s.showPort p) := by
  unfold State.showPort
  exact uncopied_putBit (uncopied_putBit h _ _ _ _) _ _ _ _

theorem uncopied_showSlots {r s : State} (h : Uncopied r s) (p : Nat) : Uncopied r (s.showSlots p) := by
  unfold State.showSlots
  exact uncopied_peak (uncopied_put h _ _ _ _) _ _ _ _

theorem uncopied_showOuts {r s : State} (h : Uncopied r s) (q : Nat) : Uncopied r (s.showOuts q) := by
  unfold State.showOuts
  exact uncopied_peak (uncopied_put h _ _ _ _) _ _ _ _

theorem uncopied_sweep {r s : State} (h : Uncopied r s) (p : Nat) : Uncopied r (s.sweep p) := by
  unfold State.sweep
  exact uncopied_showPort (uncopied_timesFrom (fun s i k => uncopied_showOuts k _) (uncopied_showSlots
      (uncopied_setCam h _ _) _) _ _) _

theorem uncopied_mapLines {r s : State} (h : Uncopied r s) (p : Nat) (f : Line → Line) : Uncopied r (s.mapLines p f)
    := by
  unfold State.mapLines
  exact uncopied_sweep (uncopied_setCam h _ _) _

theorem uncopied_showReady {r s : State} (h : Uncopied r s) (p : Nat) : Uncopied r (s.showReady p) := by
  unfold State.showReady
  exact uncopied_peak (uncopied_put h _ _ _ _) _ _ _ _

theorem uncopied_pageFreed {r s : State} (h : Uncopied r s) (p : Nat) : Uncopied r (s.pageFreed p) := by
  unfold State.pageFreed
  exact uncopied_bobs h _

theorem uncopied_freePages {r s : State} (h : Uncopied r s) (id : Nat) : Uncopied r (s.freePages id) := by
  unfold State.freePages
  exact uncopied_put (uncopied_ite (uncopied_setPart (uncopied_setBob h _ _) _ _) (uncopied_pageFreed
      (uncopied_setPart (uncopied_setBob h _ _) _ _) _)) _ _ _ _

theorem uncopied_freeStage {r s : State} (h : Uncopied r s) (id : Nat) (which : Nat → Bool) : Uncopied r (s.freeStage
    id which) := by
  unfold State.freeStage
  exact uncopied_put (uncopied_setPart h _ _) _ _ _ _

theorem uncopied_discardTasks {r s : State} (h : Uncopied r s) (id : Nat) : Uncopied r (s.discardTasks id) := by
  unfold State.discardTasks
  exact uncopied_showReady (uncopied_bumpBy (uncopied_foldState (fun _ a k => uncopied_mapLoom k _ _)
      (uncopied_setPart h _ _) _) _ _ _ _) _

theorem uncopied_releaseAll {r s : State} (h : Uncopied r s) (id : Nat) : Uncopied r (s.releaseAll id) := by
  unfold State.releaseAll
  exact uncopied_foldState (fun s a k => uncopied_mapLines k _ _) h _

theorem uncopied_endCompute {r s : State} (h : Uncopied r s) (id : Nat) : Uncopied r (s.endCompute id) := by
  unfold State.endCompute
  exact uncopied_ite h (uncopied_ite (uncopied_freeStage (uncopied_discardTasks (uncopied_releaseAll (uncopied_setBob
      h _ _) _) _) _ _) (uncopied_freePages (uncopied_freeStage (uncopied_discardTasks (uncopied_releaseAll
      (uncopied_setBob h _ _) _) _) _ _) _))

theorem uncopied_showBobs {r s : State} (h : Uncopied r s) : Uncopied r s.showBobs := by
  unfold State.showBobs
  exact uncopied_put (uncopied_put h _ _ _ _) _ _ _ _

theorem uncopied_freeBob {r s : State} (h : Uncopied r s) (id : Nat) : Uncopied r (s.freeBob id) := by
  unfold State.freeBob
  exact uncopied_showBobs (show Uncopied r { s with bobs := tdel s.bobs id, twin := _ } from h)

theorem uncopied_finish {r s : State} (h : Uncopied r s) (e : Source × Cmd) (st : Status) (ws : List Word) : Uncopied
    r (s.finish e st ws) := by
  unfold State.finish
  exact uncopied_reply (uncopied_host h _) _ _ _ _

theorem uncopied_finishFor {r s : State} (h : Uncopied r s) (op target : Nat) (st : Status) (ws : List Word) :
    Uncopied r (s.finishFor op target st ws) := by
  unfold State.finishFor
  split
  · exact uncopied_finish h _ _ _
  · exact h

theorem uncopied_getItem {r s : State} (h : Uncopied r s) (a : Area) (item n : Nat) : Uncopied r (s.getItem a item
    n).1 := by
  unfold State.getItem
  exact uncopied_readData h _ _

theorem uncopied_putItem {r s : State} (h : Uncopied r s) (a : Area) (item n : Nat) : Uncopied r (s.putItem a item n)
    := by
  unfold State.putItem
  exact uncopied_mem h _

theorem uncopied_proposeOne {r s : State} (h : Uncopied r s) (p i fmt : Nat) : Uncopied r (s.proposeOne p i fmt) := by
  unfold State.proposeOne
  exact uncopied_ite (uncopied_bump (uncopied_writeData h _ _) _ _ _) (uncopied_ite (uncopied_bump
      (uncopied_writeData h _ _) _ _ _) (uncopied_writeData h _ _))

theorem uncopied_stopCalib {r s : State} (h : Uncopied r s) (p : Nat) : Uncopied r (s.stopCalib p) := by
  unfold State.stopCalib
  exact uncopied_putBit (uncopied_setPart (uncopied_foldState (fun s a k => uncopied_proposeOne k _ _ _)
      (uncopied_put (uncopied_put h _ _ _ _) _ _ _ _) _) _ _) _ _ _ _

theorem uncopied_calibJobEnd {r s : State} (h : Uncopied r s) (p : Nat) : Uncopied r (s.calibJobEnd p) := by
  unfold State.calibJobEnd
  exact uncopied_setPart (uncopied_ite (uncopied_stopCalib h _) h) _ _

theorem uncopied_mapLearn {r s : State} (h : Uncopied r s) (p : Nat) (f : Learn → Learn) : Uncopied r (s.mapLearn p
    f) := by
  unfold State.mapLearn
  exact uncopied_setPart h _ _

theorem uncopied_endLearn {r s : State} (h : Uncopied r s) (p : Nat) : Uncopied r (s.endLearn p) := by
  unfold State.endLearn
  exact uncopied_putBit (uncopied_mapLearn h _ _) _ _ _ _

theorem uncopied_batchFull {r s : State} (h : Uncopied r s) (p : Nat) : Uncopied r (s.batchFull p) := by
  unfold State.batchFull
  exact uncopied_ite (uncopied_mapLearn (uncopied_put h _ _ _ _) _ _) (uncopied_mapLearn (uncopied_put h _ _ _ _) _ _)

theorem uncopied_gatherNext {r s : State} (h : Uncopied r s) (p n : Nat) : Uncopied r (s.gatherNext p n) := by
  induction n generalizing s with
  | zero => exact h
  | succ n ih =>
    unfold State.gatherNext
    dsimp only
    split
    · exact h
    · split
      · exact h
      · split
        · exact h
        · next _ place _ _ k _ =>
          have hread : Uncopied r (s.getItem (s.learnArea p) (3 * place) (if k.gives then k.bytes else 0)).1 :=
            uncopied_getItem h _ _ _
          have hlearn := fun f => uncopied_mapLearn hread p f
          have hskip := fun f => uncopied_bump (hlearn f) F.SCHED_LEARN_CNT_SKIP p 0
          exact ih (uncopied_ite (uncopied_batchFull (uncopied_ite (hlearn _) (hskip _)) _) (uncopied_ite (hlearn _)
              (hskip _)))

theorem uncopied_parkLearn {r s : State} (h : Uncopied r s) (p : Nat) (k : Parked) : Uncopied r (s.parkLearn p k) :=
    by
  unfold State.parkLearn
  exact uncopied_gatherNext (uncopied_putItem (uncopied_mapLearn h _ _) _ _ _) _ _

theorem uncopied_mapSample {r s : State} (h : Uncopied r s) (place : Nat) (f : Sample → Sample) : Uncopied r
    (s.mapSample place f) := by
  unfold State.mapSample
  exact uncopied_intake h _

theorem uncopied_sampleRecord {r s : State} (h : Uncopied r s) (x : Sample) (st : Status) (lo : Nat) : Uncopied r
    (s.sampleRecord x st lo) := by
  unfold State.sampleRecord
  exact uncopied_ite h (uncopied_record h _ _ _ _ _ _ _ _)

theorem uncopied_countSample {r s : State} (h : Uncopied r s) (st : Status) : Uncopied r (s.countSample st) := by
  unfold State.countSample
  split
  · exact uncopied_bump h _ _ _
  · exact uncopied_bump h _ _ _
  · exact uncopied_bump h _ _ _
  · exact uncopied_bump h _ _ _
  · exact uncopied_bump h _ _ _
  · exact uncopied_bump h _ _ _
  · exact uncopied_bump h _ _ _
  · exact h

theorem uncopied_recordsDue {r s : State} (h : Uncopied r s) (n : Nat) : Uncopied r (s.recordsDue n) := by
  induction n generalizing s with
  | zero => exact h
  | succ n ih =>
    unfold State.recordsDue
    split
    · exact h
    · split
      · exact h
      · exact ih (uncopied_bumpWrap (uncopied_intake (uncopied_sampleRecord h _ _ _) _) _ _ _ _)

theorem uncopied_giveDecoder {r s : State} (h : Uncopied r s) (d : Nat) : Uncopied r (s.giveDecoder d) := by
  unfold State.giveDecoder
  refine uncopied_ite ?_ ?_
  · exact h
  · split
    · exact uncopied_mapSample h _ _
    · exact h

theorem uncopied_giveDecoders {r s : State} (h : Uncopied r s) : Uncopied r s.giveDecoders := by
  unfold State.giveDecoders
  exact uncopied_giveDecoder (uncopied_giveDecoder h _) _

theorem uncopied_sampleDone {r s : State} (h : Uncopied r s) (place : Nat) (st : Status) (head : Head) : Uncopied r
    (s.sampleDone place st head) := by
  unfold State.sampleDone
  dsimp only
  split
  · exact h
  · refine uncopied_giveDecoders ?_
    refine uncopied_recordsDue ?_ _
    refine uncopied_ite ?_ ?_
    · refine uncopied_parkLearn ?_ _ _
      split
      · exact uncopied_freeBob (uncopied_endCompute (uncopied_mapSample (uncopied_countSample h _) _ _) _) _
      · exact uncopied_mapSample (uncopied_countSample h _) _ _
    · split
      · exact uncopied_freeBob (uncopied_endCompute (uncopied_mapSample (uncopied_countSample h _) _ _) _) _
      · exact uncopied_mapSample (uncopied_countSample h _) _ _

theorem uncopied_dropSamples {r s : State} (h : Uncopied r s) (p : Nat) (st : Status) : Uncopied r (s.dropSamples p
    st) := by
  unfold State.dropSamples
  exact uncopied_foldState (fun s a k => uncopied_sampleDone k _ _ _) h _

theorem uncopied_withdraw {r s : State} (h : Uncopied r s) (p : Nat) (ns : List Nat) (which : LoomCmd → Bool) :
    Uncopied r (s.withdraw p ns which) := by
  unfold State.withdraw
  exact uncopied_showReady (uncopied_foldState (fun _ a k => uncopied_mapLoom k _ _) (uncopied_bumpBy
      (uncopied_setPart h _ _) _ _ _ _) _) _

theorem uncopied_clearLoom {r s : State} (h : Uncopied r s) (n : Nat) : Uncopied r (s.clearLoom n) := by
  unfold State.clearLoom
  exact uncopied_mapLoom h _ _

theorem uncopied_showPages {r s : State} (h : Uncopied r s) (p : Nat) : Uncopied r (s.showPages p) := by
  unfold State.showPages
  exact uncopied_peak (uncopied_put h _ _ _ _) _ _ _ _

theorem uncopied_dropPages {r s : State} (h : Uncopied r s) (p id : Nat) : Uncopied r (s.dropPages p id) := by
  unfold State.dropPages
  exact uncopied_showPages (uncopied_setPart h _ _) _

theorem uncopied_showStage {r s : State} (h : Uncopied r s) (p : Nat) : Uncopied r (s.showStage p) := by
  unfold State.showStage
  exact uncopied_put h _ _ _ _

theorem uncopied_jobLost {r s : State} (h : Uncopied r s) (id : Nat) : Uncopied r (s.jobLost id) := by
  unfold State.jobLost
  exact uncopied_ite h (uncopied_endCompute (uncopied_setBob h _ _) _)

theorem uncopied_clearJobRegs {r s : State} (h : Uncopied r s) (p : Nat) : Uncopied r (s.clearJobRegs p) := by
  unfold State.clearJobRegs
  exact uncopied_putBit (uncopied_putBit (uncopied_put (uncopied_putBit (uncopied_put (uncopied_put (uncopied_put
      (uncopied_put (uncopied_put (uncopied_put (uncopied_setReg (uncopied_setReg (uncopied_setReg (uncopied_setReg
      (uncopied_setReg (uncopied_setReg h _ _ _ _) _ _ _ _) _ _ _ _) _ _ _ _) _ _ _ _) _ _ _ _) _ _ _ _) _ _ _ _) _ _
      _ _) _ _ _ _) _ _ _ _) _ _ _ _) _ _ _ _) _ _ _ _) _ _ _ _) _ _ _ _

theorem uncopied_showInUse {r s : State} (h : Uncopied r s) : Uncopied r s.showInUse := by
  unfold State.showInUse
  refine uncopied_timesFrom (fun s i k => ?_) h _ _
  split
  · exact uncopied_putBit k _ _ _ _
  · exact k

theorem uncopied_jobIdle {r s : State} (h : Uncopied r s) (p : Nat) (last samples : Status) : Uncopied r (s.jobIdle p
    last samples) := by
  unfold State.jobIdle
  exact uncopied_showInUse (uncopied_showReady (uncopied_showStage (uncopied_put (uncopied_clearJobRegs
      (uncopied_foldState (fun s a k => uncopied_showLoom k _) (uncopied_setPart (uncopied_endLearn
      (uncopied_calibJobEnd (uncopied_foldState (fun s a k => uncopied_dropPages k _ _) (uncopied_dropSamples
      (uncopied_foldState (fun s a k => uncopied_jobLost k _) (uncopied_foldState (fun s a k => uncopied_ite
      (uncopied_setBob k _ _) k) h _) _) _ _) _) _) _) _ _) _) _) _ _ _ _) _) _)

theorem uncopied_finishAll {r s : State} (h : Uncopied r s) (op p : Nat) (st : Status) : Uncopied r (s.finishAll op p
    st) := by
  unfold State.finishAll
  exact uncopied_timesFrom (fun s i k => uncopied_finishFor k _ _ _ _) h _ _

theorem uncopied_endWaiting {r s : State} (h : Uncopied r s) (p : Nat) (st : Status) : Uncopied r (s.endWaiting p st)
    := by
  unfold State.endWaiting
  exact uncopied_foldState (fun s a k => uncopied_finishAll k _ _ _) h _

theorem uncopied_jobKill {r s : State} (h : Uncopied r s) (p : Nat) (last samples : Status) : Uncopied r (s.jobKill p
    last samples) := by
  unfold State.jobKill
  exact uncopied_endWaiting (uncopied_jobIdle (uncopied_foldState (fun _ a k => uncopied_clearLoom k _)
      (uncopied_withdraw h _ _ _) _) _ _ _) _ _

end Sys2Proof.Machine
end

section
/-! PROOF. The scrubber and the critical words. -/

namespace Sys2Proof.Machine
open Sys2Proof.Claims

/-! ### What the scrubber's access finds where no bit is in error (R313, R314) -/

/-- A granule with no error, whose mark says good or of which no mark is left to tell poison by. -/
def Memory.quiet (m : Memory) (g : Nat) : Prop := tget? m.flaws g = none ∧ (m.good g = true ∨ tget? m.clean g = none)

theorem State.found_quiet {s : State} {g : Nat} (h : s.mem.quiet g) (rd : Reader) : s.found rd g = s := by
  obtain ⟨hflaw, hmark⟩ := h
  unfold State.found
  rw [hflaw]
  dsimp only
  split
  · rfl
  next hbad =>
    have hclean : tget? s.mem.clean g = none := hmark.resolve_left hbad
    rw [hclean]
    split
    · exact if_neg (by simp)
    · rfl

theorem State.meet_quiet {s : State} {g : Nat} (h : s.mem.good g = true ∨ s.region g ≠ .cache) : s.meet g = s := by
  unfold State.meet
  split
  next hreg => exact if_pos (h.resolve_right fun k => k hreg)
  · rfl

theorem State.region_ddr (s : State) {g : Nat} (h : g < 0x2000000000) : s.region g ≠ .cache := by
  rw [State.region, if_pos h]
  split <;> exact Region.noConfusion

theorem State.touch_quiet {s : State} {g : Nat} (h : s.mem.quiet g) (hreg : s.mem.good g = true ∨ s.region g ≠ .cache)
    (rd : Reader) : s.touch rd g = s := by rw [State.touch, State.found_quiet h, State.meet_quiet hreg]

/-! ### Which access is made (R320, R321) -/

/-- The debt of a memory, set. -/
def State.setDebt (s : State) (k n : Nat) : State := { s with scrub := { s.scrub with debt := tset s.scrub.debt k n } }

section
variable {s : State} {g : Nat}

theorem State.scrubAccess_deferred (fl : Option Flaw) (h : tgetD s.scrub.debt (s.scrubTarget g) 0 < s.get F.SCRUB_DEBT_MAX_MAX) :
    s.scrubAccess g true fl =
      (s.setDebt (s.scrubTarget g) (tgetD s.scrub.debt (s.scrubTarget g) 0 + 1), false) := by
  unfold State.scrubAccess
  dsimp only
  rw [if_neg (Nat.not_le.mpr h), if_pos rfl]
  rfl

theorem State.scrubAccess_made (h : tgetD s.scrub.debt (s.scrubTarget g) 0 < s.get F.SCRUB_DEBT_MAX_MAX) :
    s.scrubAccess g false none = (s.touch .scrubber g, true) := by
  unfold State.scrubAccess
  dsimp only
  rw [if_neg (Nat.not_le.mpr h), if_neg Bool.false_ne_true]
  rfl

theorem State.scrubAccess_forced (b : Bool) (h : s.get F.SCRUB_DEBT_MAX_MAX ≤ tgetD s.scrub.debt (s.scrubTarget g) 0) :
    s.scrubAccess g b none = (((s.setDebt (s.scrubTarget g) 0).bump F.SCRUB_CNT_FORCED).touch .scrubber g, true) := by
  unfold State.scrubAccess
  dsimp only
  rw [if_pos h]
  rfl

end

/-- The DDR5 access after the granule has been read: the position, which shows in SCRUB_POS. -/
def State.ddrOn (s : State) (pos : Nat) : State := State.put { s with scrub := { s.scrub with ddr := pos } } F.SCRUB_POS_POS (pos / 2 ^ 20)

/-! ### The copies of a critical word (R319) -/

theorem State.readCritical_none {s : State} {w : Nat} (h : tget? s.copies w = none) : s.readCritical w = s := by
  rw [State.readCritical, h]

/-- The value of a split word of the core goes to one register: its own. -/
theorem State.splitValue_home (s : State) {w : Nat} (h : w < 45) :
    ∃ v, s.splitValue w = s.setReg (critHome w).1 v (critHome w).2 := by
  unfold State.splitValue critHome
  by_cases h0 : w = 0
  · subst h0; exact ⟨_, rfl⟩
  by_cases h1 : w = 1
  · subst h1; exact ⟨_, rfl⟩
  by_cases h2 : w = 2
  · subst h2; exact ⟨_, rfl⟩
  by_cases h3 : w = 3
  · subst h3; exact ⟨_, rfl⟩
  by_cases h4 : w = 4
  · subst h4; exact ⟨_, rfl⟩
  by_cases h5 : w = 5
  · subst h5; exact ⟨_, rfl⟩
  by_cases h6 : w = 6
  · subst h6; exact ⟨_, rfl⟩
  by_cases h31 : w = 31
  · subst h31; exact ⟨_, rfl⟩
  rw [if_neg h0, if_neg h1, if_neg h2, if_neg h3, if_neg h4, if_neg h5, if_neg h6, if_neg h0, if_neg h1, if_neg h2, if_neg h3,
    if_neg h4, if_neg h5, if_neg h6]
  by_cases h15 : w < 15
  · rw [if_pos h15, if_pos h15]; exact ⟨_, rfl⟩
  rw [if_neg h15, if_neg h15]
  by_cases hlane : w < 31
  · rw [if_pos hlane, if_pos hlane]; exact ⟨_, rfl⟩
  rw [if_neg hlane, if_neg hlane, if_neg h31, if_neg h31, if_pos h]
  exact ⟨_, rfl⟩

/-- A word of the field die that splits brings the die into its safe state. -/
theorem State.splitValue_die (s : State) {w : Nat} (h : 45 ≤ w) : OnlyDie s (s.splitValue w) := by
  unfold State.splitValue
  rw [if_neg (by omega), if_neg (by omega), if_neg (by omega), if_neg (by omega), if_neg (by omega), if_neg (by omega),
    if_neg (by omega), if_neg (by omega), if_neg (by omega), if_neg (by omega), if_neg (by omega)]
  dsimp only
  split
  next =>
    set u : State := { s with die := { s.die with splits := s.die.splits ++ [cfgIndex (critField w).1 (critField w).2] } } with hu
    have hsafe : OnlyDie u (u.enterSafe 2) := by
      cases hs : u.die.safe with
      | true => rw [State.enterSafe_again hs (by decide)]; rfl
      | false => exact (State.enterSafe_view hs 2).1
    exact onlyDie_trans (s := u) rfl hsafe
  next => rfl

theorem uncopied_splitValue {r s : State} (h : Uncopied r s) (w : Nat) : Uncopied r (s.splitValue w) := by
  by_cases hw : w < 45
  · obtain ⟨v, hv⟩ := s.splitValue_home hw
    rw [hv]
    exact uncopied_setReg h _ _ _ _
  · have honly : OnlyDie s (s.splitValue w) := s.splitValue_die (by omega)
    intro k
    rw [honly]
    exact h k

theorem State.splitOne_copies {s : State} (h : s.copies = []) (w : Nat) : (s.splitOne w).copies = [] := by
  unfold State.splitOne
  split
  · exact h
  · refine uncopied_timesFrom (r := s) (fun t p k => uncopied_ite k (uncopied_jobKill k _ _ _)) ?_ _ _ h
    refine uncopied_splitValue (uncopied_splits (uncopied_ite (uncopied_refl s) ?_) _) w
    exact uncopied_put (uncopied_putBit (uncopied_refl s) _ _ _ _) _ _ _ _


/-- The registers that splits are recorded in, and those of the jobs, hold no critical word. -/
theorem critHome_addr : ∀ w : Fin 45, (critHome w.val).1.addr (critHome w.val).2 0 ≠ R.MEM_TMR_STAT.addr 0 0 ∧
    ∀ p : Fin 8, (critHome w.val).1.addr (critHome w.val).2 0 ≠ F.SCHED_JOB_STATE.reg.addr p.val 0 := by decide

/-- What a split leaves of the state beside the word itself. -/
theorem State.splitValue_keeps (s : State) (w : Nat) : (s.splitValue w).splits = s.splits ∧ (s.splitValue w).mem = s.mem ∧
    (∀ f : Fld, f.reg = R.MEM_TMR_STAT → (s.splitValue w).get f = s.get f) ∧
    ∀ p, p < 8 → (s.splitValue w).get F.SCHED_JOB_STATE p = s.get F.SCHED_JOB_STATE p := by
  by_cases hw : w < 45
  · obtain ⟨v, hv⟩ := s.splitValue_home hw
    obtain ⟨htmr, hjob⟩ := critHome_addr ⟨w, hw⟩
    rw [hv]
    refine ⟨rfl, rfl, fun f hf => ?_, fun p hp => ?_⟩
    · rw [State.get, State.get, hf, State.reg_setReg_other _ _ _ _ _ _ _ _ htmr.symm]
    · rw [State.get, State.get, State.reg_setReg_other _ _ _ _ _ _ _ _ (hjob ⟨p, hp⟩).symm]
  · have honly : OnlyDie s (s.splitValue w) := s.splitValue_die (by omega)
    rw [honly]
    exact ⟨rfl, rfl, fun _ _ => rfl, fun _ _ => rfl⟩

theorem jobState_addr : ∀ p : Fin 8, F.SCHED_JOB_STATE.reg.addr p.val 0 ≠ R.MEM_TMR_STAT.addr 0 0 := by decide

/-- A split of a word while no job is there (R319): it is recorded, and MEM_TMR_STAT names the first. -/
theorem State.splitOne_idle {s : State} {w : Nat} (hw : w < 48) (hnot : s.splitWord w = false)
    (hjobs : ∀ p, p < 8 → s.get F.SCHED_JOB_STATE p = 0) :
    (s.splitOne w).splits = s.splits ++ [w] ∧ (s.splitOne w).isSplit = true ∧
      (s.isSplit = false → (s.splitOne w).get F.MEM_TMR_STAT_INDEX = w) ∧ (s.splitOne w).mem = s.mem := by
  set t : State := if s.isSplit then s else (s.putBit F.MEM_TMR_STAT_SPLIT true).put F.MEM_TMR_STAT_INDEX w with ht
  set u : State := State.splitValue { t with splits := t.splits ++ [w] } w with hu
  have hfacts : t.splits = s.splits ∧ t.mem = s.mem ∧ t.isSplit = true ∧ (s.isSplit = false → t.get F.MEM_TMR_STAT_INDEX = w) ∧
      ∀ p, p < 8 → t.get F.SCHED_JOB_STATE p = s.get F.SCHED_JOB_STATE p := by
    rw [ht]
    by_cases hs : s.isSplit = true
    · rw [if_pos hs]
      exact ⟨rfl, rfl, hs, fun k => absurd hs (by simp [k]), fun _ _ => rfl⟩
    · rw [if_neg hs]
      refine ⟨rfl, rfl, ?_, fun _ => ?_, fun p hp => ?_⟩
      · rw [State.isSplit, State.on, State.get_put_beside (f := F.MEM_TMR_STAT_INDEX) (g := F.MEM_TMR_STAT_SPLIT) _ _ _ rfl (by decide) (by decide)]
        exact s.on_putBit _ _ _ _ rfl (by decide)
      · rw [State.get_put _ _ _ _ _ (by decide)]
        exact Nat.mod_eq_of_lt (Nat.lt_trans hw (by decide))
      · rw [State.get_put_other _ _ _ _ _ _ _ _ (jobState_addr ⟨p, hp⟩), State.putBit,
          State.get_put_other _ _ _ _ _ _ _ _ (jobState_addr ⟨p, hp⟩)]
  obtain ⟨hsplits, hmem, hon, hindex, hjob⟩ := hfacts
  obtain ⟨usplits, umem, utmr, ujob⟩ := State.splitValue_keeps { t with splits := t.splits ++ [w] } w
  have hone : s.splitOne w = u := by
    rw [State.splitOne, if_neg (by rw [hnot]; exact Bool.false_ne_true)]
    refine timesFrom_keeps_below (P := fun v : State => v = u) (fun v p hp hv => ?_) rfl
    rw [hv]
    exact if_pos ((ujob p (by omega)).trans ((hjob p (by omega)).trans (hjobs p (by omega))))
  rw [hone]
  refine ⟨usplits.trans (by rw [hsplits]), ?_, fun hs => (utmr _ rfl).trans (hindex hs), umem.trans hmem⟩
  rw [State.isSplit, State.on, utmr _ rfl]
  exact hon

/-! ### Upsets of the copies -/

theorem State.strike_split {s : State} {u : Upset} {x : Copies}
    (hx : (tgetD s.copies u.word.val {}).upset u.copy (u.flip &&& BitVec.ofNat 32 (critMask u.word.val)) = x) (hv : x.vote = none) :
    s.strike u = { s with copies := tset s.copies u.word.val x } := by
  unfold State.strike
  dsimp only
  rw [hx, hv]

/-- An upset that leaves two copies as they were. -/
theorem State.strike_one {s : State} {u : Upset} {x : Copies}
    (hx : (tgetD s.copies u.word.val {}).upset u.copy (u.flip &&& BitVec.ofNat 32 (critMask u.word.val)) = x) (hv : x.vote = some 0)
    (hne : x ≠ {}) : s.strike u = { s with copies := tset s.copies u.word.val x } := by
  unfold State.strike
  dsimp only
  rw [hx, hv]
  dsimp only
  have hsame : ({ a := x.a ^^^ 0, b := x.b ^^^ 0, c := x.c ^^^ 0 } : Copies) = x := by
    obtain ⟨a, b, c⟩ := x
    exact Copies.mk.injEq .. ▸ ⟨BitVec.xor_zero, BitVec.xor_zero, BitVec.xor_zero⟩
  rw [if_pos rfl, hsame, if_neg hne]

/-- One upset copy of a word whose three copies were alike: the other two agree. -/
theorem Copies.upset_one (k : Fin 3) {m : BitVec 32} (hm : m ≠ 0) :
    (Copies.upset {} k m).vote = some 0 ∧ Copies.upset {} k m ≠ {} := by
  match k with
  | 0 =>
    refine ⟨?_, fun k => hm (by simpa [Copies.upset] using k)⟩
    simp [Copies.vote, Copies.upset]
  | 1 =>
    refine ⟨?_, fun k => hm (by simpa [Copies.upset] using k)⟩
    simp [Copies.vote, Copies.upset]
  | 2 =>
    refine ⟨?_, fun k => hm (by simpa [Copies.upset] using k)⟩
    simp [Copies.vote, Copies.upset]

theorem timesFrom_only {σ : Type} {f : σ → Nat → σ} {s t : σ} {w : Nat} (hw : f s w = t) (hs : ∀ k, k ≠ w → f s k = s)
    (ht : ∀ k, f t k = t) (n i : Nat) (hi : i ≤ w) (hn : w < i + n) : timesFrom f n i s = t := by
  induction n generalizing i with
  | zero => omega
  | succ n ih =>
    rw [timesFrom]
    by_cases hiw : i = w
    · subst hiw; rw [hw]; exact timesFrom_id ht _ _
    · rw [hs i hiw]; exact ih (i + 1) (by omega) (by omega)

/-- The walk over the critical words while one word alone has copies apart. -/
theorem State.walk_one {s : State} {w : Nat} {x : Copies} (hw : w < 48) (hc : s.copies = [(w, x)])
    (hread : (s.readCritical w).copies = []) :
    timesFrom (fun (u : State) k => u.readCritical k) 48 0 s = s.readCritical w := by
  refine timesFrom_only rfl (fun k hk => State.readCritical_none ?_) (fun k => State.readCritical_none ?_) 48 0 (Nat.zero_le w)
    (by omega)
  · rw [hc]
    exact if_neg hk
  · rw [hread]
    rfl

/-- The copies of one word alone, read. -/
theorem State.readCritical_alone {s : State} (w : Nat) (x : Copies) : State.readCritical { s with copies := [(w, x)] } w =
    if x.vote.isSome then State.bump { s with copies := [] } F.MEM_TMR_CNT_REWRITE else State.splitOne { s with copies := [] } w := by
  rw [State.readCritical]
  simp [tget?, tdel]

theorem State.alone {s : State} (h : s.copies = []) : { s with copies := [] } = s := by rw [← h]

/-- The first upset of a word. -/
theorem State.strike_first {s : State} {u : Upset} (hc : s.copies = []) (h : u.flip &&& BitVec.ofNat 32 (critMask u.word.val) ≠ 0) :
    s.strike u = { s with copies := [(u.word.val, Copies.upset {} u.copy (u.flip &&& BitVec.ofNat 32 (critMask u.word.val)))] } := by
  obtain ⟨hv, hx⟩ := Copies.upset_one u.copy h
  rw [State.strike_one (by rw [hc]; rfl) hv hx, hc]
  rfl

/-- An upset after which two copies agree on another value: the word takes it. -/
theorem State.strike_flip {s : State} {u : Upset} {x : Copies} {m : BitVec 32}
    (hx : (tgetD s.copies u.word.val {}).upset u.copy (u.flip &&& BitVec.ofNat 32 (critMask u.word.val)) = x) (hv : x.vote = some m)
    (hm : m ≠ 0) (hne : (⟨x.a ^^^ m, x.b ^^^ m, x.c ^^^ m⟩ : Copies) ≠ {}) : s.strike u =
      State.flipWord { s with copies := tset s.copies u.word.val ⟨x.a ^^^ m, x.b ^^^ m, x.c ^^^ m⟩ } u.word.val m := by
  unfold State.strike
  dsimp only
  rw [hx, hv]
  dsimp only
  rw [if_neg hm, if_neg hne]

theorem filter_here {s : State} {l : List Upset} (h : ∀ u ∈ l, u.word.val < 45 ∨ s.die.powered = true) :
    (l.filter fun u => decide (u.word.val < 45) || s.die.powered) = l := by
  refine List.filter_eq_self.mpr fun u hu => ?_
  rcases h u hu with k | k <;> simp [k]

theorem critHome_reset : ∀ w : Fin 45, (critHome w.val).1.reset (critHome w.val).2 0 < 2 ^ 32 := by decide

theorem State.critReg_lt (s : State) (w : Fin 45) : s.reg (critHome w.val).1 (critHome w.val).2 < 2 ^ 32 := by
  unfold State.reg
  split
  · exact BitVec.isLt _
  · exact critHome_reset w

/-- One copy upset: the walk writes it again and counts. -/
theorem State.walk_one_upset {s : State} {u : Upset} (hc : s.copies = []) (h : u.flip &&& BitVec.ofNat 32 (critMask u.word.val) ≠ 0) :
    timesFrom (fun (v : State) k => v.readCritical k) 48 0 (s.strike u) = s.bump F.MEM_TMR_CNT_REWRITE := by
  obtain ⟨hv, -⟩ := Copies.upset_one u.copy h
  have hread := State.readCritical_alone (s := s) u.word.val (Copies.upset {} u.copy
    (u.flip &&& BitVec.ofNat 32 (critMask u.word.val)))
  rw [hv, if_pos (by simp), State.alone hc] at hread
  rw [State.strike_first hc h, State.walk_one u.word.isLt rfl (by rw [hread]; exact hc), hread]

/-- Two copies upset apart from each other: no two agree, and the walk finds the word split. -/
theorem State.walk_apart {s : State} {w : Fin 48} {f g : BitVec 32} (hc : s.copies = [])
    (hf : f &&& BitVec.ofNat 32 (critMask w.val) ≠ 0) (hg : g &&& BitVec.ofNat 32 (critMask w.val) ≠ 0)
    (hfg : f &&& BitVec.ofNat 32 (critMask w.val) ≠ g &&& BitVec.ofNat 32 (critMask w.val)) :
    timesFrom (fun (u : State) k => u.readCritical k) 48 0 ((s.strike ⟨w, 0, f⟩).strike ⟨w, 1, g⟩) = s.splitOne w.val := by
  generalize hx : f &&& BitVec.ofNat 32 (critMask w.val) = x at *
  generalize hy : g &&& BitVec.ofNat 32 (critMask w.val) = y at *
  have hfirst : s.strike ⟨w, 0, f⟩ = { s with copies := [(w.val, { a := x })] } :=
    (State.strike_first (u := ⟨w, 0, f⟩) hc (by rw [hx]; exact hf)).trans (by simp [Copies.upset, hx])
  have hvote : (Copies.mk x y 0).vote = none := by
    rw [Copies.vote, if_neg (fun k => k.elim hfg hf), if_neg hg]
  have hsecond : (s.strike ⟨w, 0, f⟩).strike ⟨w, 1, g⟩ = { s with copies := [(w.val, ⟨x, y, 0⟩)] } := by
    rw [hfirst, State.strike_split (x := ⟨x, y, 0⟩) (by simp [tgetD, tget?, Copies.upset, hy]) hvote]
    simp [tset]
  have hread := State.readCritical_alone (s := s) w.val ⟨x, y, 0⟩
  rw [hvote, if_neg (by simp), State.alone hc] at hread
  rw [hsecond, State.walk_one w.isLt rfl (by rw [hread]; exact State.splitOne_copies hc _), hread]

/-- Two copies upset alike carry the value with them. -/
theorem State.strike_alike {s : State} {w : Fin 48} {f m : BitVec 32} (hc : s.copies = []) (hw : w.val < 45)
    (hm : m = f &&& BitVec.ofNat 32 (critMask w.val)) (hne : m ≠ 0) : ∃ t, (s.strike ⟨w, 0, f⟩).strike ⟨w, 1, f⟩ = t ∧
      t.reg (critHome w.val).1 (critHome w.val).2 = Nat.xor (s.reg (critHome w.val).1 (critHome w.val).2) m.toNat ∧
      tget? t.copies w.val = some { c := m } := by
  subst hm
  set m := f &&& BitVec.ofNat 32 (critMask w.val) with hm
  have hfirst : s.strike ⟨w, 0, f⟩ = { s with copies := [(w.val, { a := m })] } :=
    (State.strike_first (u := ⟨w, 0, f⟩) hc hne).trans (by simp [Copies.upset, hm])
  rw [hfirst]
  have hvote : (Copies.mk m m 0).vote = some m := by simp [Copies.vote]
  have hne0 : (⟨m ^^^ m, m ^^^ m, 0 ^^^ m⟩ : Copies) ≠ {} := fun k => hne (by simpa using k)
  have hflip := State.strike_flip (s := { s with copies := [(w.val, { a := m })] }) (u := ⟨w, 1, f⟩) (x := ⟨m, m, 0⟩)
    (by simp [tgetD, tget?, Copies.upset, hm]) hvote hne hne0
  refine ⟨_, rfl, ?_, ?_⟩
  · rw [hflip, State.flipWord, if_pos hw]
    dsimp only
    rw [State.reg_setReg]
    exact Nat.mod_eq_of_lt (Nat.xor_lt_two_pow (State.critReg_lt s ⟨w, hw⟩) m.isLt)
  · rw [hflip, State.flipWord, if_pos hw]
    show tget? (tset _ _ _) _ = _
    rw [tget?_tset_same]
    simp

theorem goes_tmrWalk {s t : State} {l : List Upset} (hl : Live s) (hhere : ∀ u ∈ l, u.word.val < 45 ∨ s.die.powered = true)
    (ht : timesFrom (fun (v : State) k => v.readCritical k) 48 0 (foldState State.strike s l) = t) :
    Goes (.tmrWalk l []) s t.settle := by
  refine goes_onCore hl (show execTmrWalk l [] s = _ from rfl) ?_
  dsimp only
  rw [filter_here hhere, List.filter_nil, foldState, ht]

/-! ### The obligation -/

/-- A register that shows a critical word is not the one whose read takes a transmit timestamp. -/
theorem critWord_base {r : Reg} {i w : Nat} (h : critWord r i = some w) : r.base ≠ R.ETH_TXTS_ID.base := by
  intro hr
  have hnone : critWord r i = none := by
    unfold critWord
    rw [hr]
    simp [R.ETH_TXTS_ID, R.LC_STATE, R.DET_ARITH_PROFILE, R.TWIN_CTRL, R.SCHED_FENCE_MAP_LO, R.SCHED_FENCE_MAP_HI, R.BOB_PROV_TABLE,
      R.BOB_CLASS_MAP, R.BOB_LANE_CFG, R.FIELD_EJECT_LEAD, R.SYS_OWN, R.TK_STAT]
  rw [hnone] at h
  cases h

/-- Settles O46: the scrubber and the critical words. -/
theorem scrubAndSplit : Obligations.ScrubAndSplit := by
  unfold Obligations.ScrubAndSplit
  refine ⟨?scrubSet, ?deferred, ?made, ?forced, ?ddrOff, ?sramOff, ?sramDeferred, ?sramMade, ?walkLate, ?walkOne, ?walkTwo, ?twoAlike,
    ?readWord, ?readReg, ?splitTwice, ?splitOnce⟩
  case scrubSet =>
    intro s src c h
    have hi : exec (.cmdScrubSet src) s = runCmd s src 0x0504 _ := (show execCmdScrubSet src s = _ from rfl)
    refine ⟨fun hbad => ?_, fun h1 h2 h3 => ?_⟩
    · refine ends_runCmd h hi (if_pos ?_)
      omega
    · refine ⟨_, ends_runCmd h hi (if_neg (by omega)), ?_, ?_, ?_⟩
      · exact onlyRegs_trans (State.put_onlyRegs _ _ _ _) (State.put_onlyRegs _ _ _ _)
      · rw [State.get_put_other _ _ _ _ _ _ _ _ (by decide), State.get_put _ _ _ _ _ (by decide)]
        exact Nat.mod_eq_of_lt (Nat.lt_of_le_of_lt h1 (by decide))
      · rw [State.get_put _ _ _ _ _ (by decide)]
        exact Nat.mod_eq_of_lt (Nat.lt_of_le_of_lt h3 (by decide))
  case deferred =>
    rintro s fl k hl hdue hdone hrate hcap rfl hdebt
    refine goes_onCore_quiet hl (show execScrubDdrAccess true fl s = _ from rfl) ?_ ?_
    · rw [if_pos (by simp [hdone, hrate, hcap])]
      dsimp only
      rw [State.scrubAccess_deferred fl hdebt]
      exact if_neg Bool.false_ne_true
    · exact hdue
  case made =>
    intro s hl hdue hdone hrate hdebt hcap haddr hmark hflaw
    refine ⟨s.ddrOn (s.scrub.ddr + 64), goes_onCore_quiet hl (show execScrubDdrAccess false none s = _ from rfl) ?_ hdue, rfl, ?_⟩
    · rw [if_pos (by simp [hdone, hrate]; omega)]
      dsimp only
      rw [State.scrubAccess_made hdebt, State.touch_quiet ⟨hflaw, hmark⟩ (.inr (s.region_ddr haddr)), if_pos rfl]
      have hwrap : decide (s.capacity ≤ s.scrub.ddr + 64) = false := decide_eq_false (Nat.not_le.mpr hcap)
      rw [hwrap, if_neg Bool.false_ne_true, if_neg Bool.false_ne_true]
      rfl
    · exact State.get_put _ _ _ _ _ (by decide)
  case forced =>
    rintro s b k hl hdue hdone hrate rfl hdebt hcap haddr hmark hflaw
    set u : State := (s.setDebt (s.scrubTarget s.scrub.ddr) 0).bump F.SCRUB_CNT_FORCED with hu
    refine ⟨u.ddrOn (s.scrub.ddr + 64), goes_onCore_quiet hl (show execScrubDdrAccess b none s = _ from rfl) ?_ hdue, rfl, ?_⟩
    · rw [if_pos (by simp [hdone, hrate]; omega)]
      dsimp only
      rw [State.scrubAccess_forced b hdebt, ← hu, State.touch_quiet (s := u) ⟨hflaw, hmark⟩ (.inr (u.region_ddr haddr)), if_pos rfl]
      have hwrap : decide (s.capacity ≤ s.scrub.ddr + 64) = false := decide_eq_false (Nat.not_le.mpr hcap)
      rw [hwrap, if_neg Bool.false_ne_true, if_neg Bool.false_ne_true]
      rfl
    · rw [State.ddrOn, State.get_put_other _ _ _ _ _ _ _ _ (by decide)]
      exact State.get_bumpBy _ _ _ _ _ (by decide)
  case ddrOff =>
    intro s b fl hl hoff
    refine goes_onCore hl (show execScrubDdrAccess b fl s = _ from rfl) (if_neg ?_)
    rcases hoff with h | h | h <;> simp [h]
  case sramOff =>
    intro s b fl hl hoff
    refine goes_onCore hl (show execScrubSramAccess b fl s = _ from rfl) (if_neg ?_)
    rcases hoff with h | h <;> simp [h]
  case sramDeferred =>
    rintro s fl k hl hdue hdone hper rfl hdebt
    refine goes_onCore_quiet hl (show execScrubSramAccess true fl s = _ from rfl) ?_ ?_
    · rw [if_pos (by simp [hdone, hper])]
      dsimp only
      rw [State.scrubAccess_deferred fl hdebt]
      exact if_neg Bool.false_ne_true
    · exact hdue
  case sramMade =>
    rintro s g hl hdue hdone hper rfl hdebt hflaw hmark hpass
    refine goes_onCore_quiet hl (show execScrubSramAccess false none s = _ from rfl) ?_ hdue
    rw [if_pos (by simp [hdone, hper])]
    dsimp only
    rw [State.scrubAccess_made hdebt, State.touch_quiet ⟨hflaw, hmark.imp id fun k => k.1⟩ (hmark.imp id fun k => k.2), if_pos rfl,
      hpass, if_neg Bool.false_ne_true]
  case walkLate =>
    intro s us hl hc
    refine goes_onCore hl (show execTmrWalk [] us s = _ from rfl) ?_
    have hwalk : timesFrom (fun (u : State) w => u.readCritical w) 48 0 s = s :=
      timesFrom_id (fun w => State.readCritical_none (by rw [hc]; rfl)) 48 0
    dsimp only [List.filter_nil, foldState]
    rw [hwalk]
  case walkOne =>
    intro s u hl hc hhere hne
    exact goes_tmrWalk hl (fun v hv => by rw [List.mem_singleton.mp hv]; exact hhere) (State.walk_one_upset hc hne)
  case walkTwo =>
    rintro s w f g m hl hc hhere rfl hf hg hfg
    have htwo : ∀ v ∈ [(⟨w, 0, f⟩ : Upset), ⟨w, 1, g⟩], v.word.val < 45 ∨ s.die.powered = true := fun v hv => by
      rcases List.mem_pair.mp hv with rfl | rfl <;> exact hhere
    exact goes_tmrWalk hl htwo (State.walk_apart hc hf hg hfg)
  case twoAlike => exact fun s w f m hc hw hm hne => State.strike_alike hc hw hm hne
  case readWord =>
    intro s w x hx
    refine ⟨fun hv => ?_, fun hv => ?_⟩
    · rw [State.readCritical, hx]
      exact if_pos (Option.isSome_iff_ne_none.mpr hv)
    · rw [State.readCritical, hx]
      dsimp only
      rw [hv]
      exact if_neg Bool.false_ne_true
  case readReg =>
    intro s r i j w hw hlatch
    rw [State.readReg, if_neg (critWord_base hw), hlatch]
    dsimp only
    rw [hw]
  case splitTwice =>
    intro s w h
    exact if_pos h
  case splitOnce =>
    intro s w hnot hjobs
    exact State.splitOne_idle w.isLt hnot hjobs

end Sys2Proof.Machine
end

section
/-! PROOF. Attestation and the life cycle. -/

namespace Sys2Proof.Machine
open Sys2Proof.Claims

/-! ### What a transition burns (R422, R425) -/

/-- The two cells of the life-cycle word, each with a value burnt into it. -/
theorem or_both (a b v : Nat) : Nat.lor (Nat.lor a v) (Nat.lor b v) = Nat.lor (Nat.lor a b) v := by
  show (a ||| v) ||| (b ||| v) = (a ||| b) ||| v
  refine Nat.eq_of_testBit_eq fun i => ?_
  simp only [Nat.testBit_or]
  cases a.testBit i <;> cases b.testBit i <;> simp

theorem burnLife_life {cut : BurnCut} {n : Nat} (h : n + 1 < cut.fields) (b : Nat) (f : Fuses) :
    (burnLife cut n b f).life = Nat.lor f.life b := by
  have hn : n < cut.fields := by omega
  rw [burnLife, if_pos hn, if_pos h]
  exact or_both _ _ _

theorem burnLife_none {cut : BurnCut} {n : Nat} (h : cut.fields ≤ n) (b : Nat) (f : Fuses) : burnLife cut n b f = f := by
  rw [burnLife, if_neg (Nat.not_lt.mpr h), if_neg (by omega)]

section
variable (s : State) (bs : List Byte) (k : BurnCut)

/-- The fuses that a transition burns before the life-cycle state, and after how many of them the state comes. -/
def burnValues (b : Nat) : Nat × Fuses :=
  let f := s.fuses
  if b = 0x01 then (2, { f with uds := burnField k 0 f.uds (fit 32 (Config.entropy s.entropyDraw.2)),
                                vendorRoot := burnField k 1 f.vendorRoot (slice bs 40 32) })
  else if b = 0x03 then (3, { f with ownerSeed := burnField k 0 f.ownerSeed (fit 32 (Config.entropy s.entropyDraw.2)),
                                     ownerAuth := burnField k 1 f.ownerAuth (slice bs 40 32),
                                     modelKey := burnField k 2 f.modelKey (slice bs 72 32) })
  else if b = 0x1F then (2, { f with uds := eraseField k 0 f.uds, ownerSeed := eraseField k 1 f.ownerSeed })
  else (0, f)

theorem State.burnFuses_fuses (b : Nat) :
    (s.burnFuses b bs k).fuses = burnLife k (burnValues s bs k b).1 b (burnValues s bs k b).2 := by
  unfold State.burnFuses burnValues
  dsimp only
  split_ifs <;> rfl

theorem State.burnFuses_mem (b : Nat) : (s.burnFuses b bs k).mem = s.mem := by
  unfold State.burnFuses
  dsimp only
  split_ifs <;> rfl

theorem burnValues_life (b : Nat) : (burnValues s bs k b).2.life = s.fuses.life ∧ (burnValues s bs k b).1 ≤ 3 := by
  unfold burnValues
  dsimp only
  split_ifs <;> exact ⟨rfl, by simp⟩

end

/-- An allowed transition sets every bit of the new state and no other. -/
theorem lcAllowed_or : ∀ a ∈ lcCodes, ∀ b ∈ lcCodes, lcAllowed a b = true → Nat.lor a b = b := by decide

theorem lcAllowed_code {a b : Nat} (h : lcAllowed a b = true) : b ∈ lcCodes := by
  simp only [lcAllowed, Bool.or_eq_true, Bool.and_eq_true, beq_iff_eq] at h
  have hb : b = 0x01 ∨ b = 0x03 ∨ b = 0x07 ∨ b = 0x0F ∨ b = 0x1F := by omega
  rcases hb with rfl | rfl | rfl | rfl | rfl <;> decide

theorem burnField_written {k : BurnCut} {n : Nat} (h : n < k.fields) (f : FuseField) (v : List Byte) :
    (burnField k n f v).written = true := by
  unfold burnField
  by_cases hw : f.written = true
  · rw [if_pos hw]; exact hw
  · rw [if_neg hw, if_pos h]; rfl

/-- The fuses burnt: the reset that follows is due (R422). -/
def burnDone (u : State) : State := { u with boot := { u.boot with resetDue := none, lcNext := true } }

/-! ### The obligation -/

theorem State.ahead_none {s : State} {op : Nat} (h : s.runningCmd op = none) :
    (s.host.running.filter fun e => e.2.opcode == op).length = 0 := by
  rw [State.runningCmd, List.find?_eq_none] at h
  rw [List.filter_eq_nil_iff.mpr h]
  rfl

/-- Settles O60: sessions, evidence and life-cycle transitions. -/
theorem attestAndLifeCycle : Obligations.AttestAndLifeCycle := by
  unfold Obligations.AttestAndLifeCycle
  refine ⟨?session, ?opened, ?noOpen, ?attest, ?evidence, ?noEvidence, ?transition, ?done, ?notDone, ?burnt, ?scrapped, ?owned, ?closed,
    fun _ _ => rfl, ?last⟩
  case session =>
    intro s src c h
    have hi : exec (.cmdAttestOpen src) s = runCmd s src 0x0903 _ := (show execCmdAttestOpen src s = _ from rfl)
    refine ⟨fun hbad => ?_, fun h0 h1 hop hses => ?_, fun h0 h1 hop hses => ?_⟩
    · refine ends_runCmd h hi (if_pos ?_)
      show (s.life == 0 || s.life == 0x1F || s.boot.attestOpen) = true
      rcases hbad with k | k | k <;> simp [k]
    · refine ends_runCmd h hi ((if_neg ?_).trans (if_pos hses))
      show ¬ (s.life == 0 || s.life == 0x1F || s.boot.attestOpen) = true
      simp [h0, h1, hop]
    · refine ⟨_, lasts_runCmd h hi ((if_neg ?_).trans (if_neg (Nat.not_le.mpr hses))), rfl, rfl, ?_⟩
      · show ¬ (s.life == 0 || s.life == 0x1F || s.boot.attestOpen) = true
        simp [h0, h1, hop]
      · rw [State.get_put _ _ _ _ _ (by decide)]
        exact Nat.mod_eq_of_lt (Nat.lt_of_le_of_lt (Nat.succ_le_of_lt hses) (by decide))
  case opened =>
    intro s e hl he
    refine goes_onDevice hl (show execAttestOpenDone s = _ from rfl) ?_
    rw [he]
  case noOpen =>
    intro s hl hno
    refine goes_onDevice hl (show execAttestOpenDone s = _ from rfl) ?_
    rw [hno]
  case attest =>
    rintro s src c a h rfl
    have hi : exec (.cmdAttest src) s = runCmd s src 0x0904 _ := (show execCmdAttest src s = _ from rfl)
    have hopen : (s.dropOldest src).on F.SEC_ATTEST_OPEN = s.on F.SEC_ATTEST_OPEN := rfl
    have hcnt : (s.dropOldest src).get F.SEC_ATTEST_CNT_COUNT = s.get F.SEC_ATTEST_CNT_COUNT := rfl
    have hbuf : ∀ a, (s.dropOldest src).bufferRefusal a 5568 = s.bufferRefusal a 5568 := fun _ => rfl
    have hahead : s.runningCmd 0x0904 = none → ((s.dropOldest src).host.running.filter fun e => e.2.opcode == 0x0904).length = 0 :=
      fun k => State.ahead_none k
    refine ⟨fun hop => ?_, fun hop hover => ?_, fun hop hno hcount hmod => ?_, fun hop hno hcount hmod hnone => ?_,
      fun st hop hno hcount hmod hsome => ?_⟩
    · exact ends_runCmd h hi (if_pos (by rw [hopen, hop]; rfl))
    · refine ends_runCmd h hi ((if_neg ?_).trans (if_pos ?_))
      · rw [hopen, hop]; decide
      · rw [hcnt]; omega
    all_goals
      have hno' := hahead hno
    · refine ends_runCmd h hi ((if_neg ?_).trans ((if_neg ?_).trans (if_pos hmod)))
      · rw [hopen, hop]; decide
      · rw [hcnt, hno']; omega
    · refine begins_runCmd h hi ((if_neg ?_).trans ((if_neg ?_).trans ((if_neg (not_not.mpr hmod)).trans ?_)))
      · rw [hopen, hop]; decide
      · rw [hcnt, hno']; omega
      · rw [hbuf, hnone]
    · refine ends_runCmd h hi ((if_neg ?_).trans ((if_neg ?_).trans ((if_neg (not_not.mpr hmod)).trans ?_)))
      · rw [hopen, hop]; decide
      · rw [hcnt, hno']; omega
      · rw [hbuf, hsome]; rfl
  case evidence =>
    rintro s e a hl he rfl
    refine ⟨fun st hsome => ?_, fun hnone => ?_⟩
    · refine goes_onDevice hl (show execAttestDone s = _ from rfl) ?_
      rw [he]
      dsimp only
      rw [hsome]
    · refine goes_onDevice hl (show execAttestDone s = _ from rfl) ?_
      rw [he]
      dsimp only
      rw [hnone]
  case noEvidence =>
    intro s hl hno
    refine goes_onDevice hl (show execAttestDone s = _ from rfl) ?_
    rw [hno]
  case transition =>
    intro s src c h
    have hi : exec (.cmdLcTransition src) s = runCmd s src 0x0905 _ := (show execCmdLcTransition src s = _ from rfl)
    have hlife : (s.dropOldest src).life = s.life := rfl
    have hrole : (s.dropOldest src).role = s.role := rfl
    have hjob : ∀ p, (s.dropOldest src).get F.SCHED_JOB_STATE p = s.get F.SCHED_JOB_STATE p := fun _ => rfl
    have hfault : (s.dropOldest src).on F.LC_STATE_FUSE_FAULT = s.on F.LC_STATE_FUSE_FAULT := rfl
    refine ⟨fun hcode => ?_, fun hcode hbad => ?_, fun hcode hall hidle hr hf => ?_⟩
    · exact ends_runCmd h hi (if_pos (by simpa using hcode))
    · refine ends_runCmd h hi ((if_neg (by simpa using hcode)).trans (if_pos ?_))
      rw [hlife, hrole, hfault]
      simp only [hjob]
      rcases hbad with k | k | ⟨p, hp, k⟩ | ⟨k, k2⟩
      · simp [k]
      · simp [k]
      · have hbusy : ((List.range 8).any fun p => s.get F.SCHED_JOB_STATE p != 0) = true :=
          List.any_eq_true.mpr ⟨p, List.mem_range.mpr hp, by simpa using k⟩
        simp [hbusy]
      · simp [k, k2]
    · refine begins_runCmd h hi ((if_neg (by simpa using hcode)).trans (if_neg ?_))
      rw [hlife, hrole, hfault]
      simp only [hjob]
      have hbusy : ((List.range 8).any fun p => s.get F.SCHED_JOB_STATE p != 0) = false :=
        List.any_eq_false.mpr fun p hp => by simp [hidle p (List.mem_range.mp hp)]
      rw [hall, hbusy, hr]
      rcases hf with k | k <;> simp [k]
  case done =>
    intro s src b a e r hl htr he hdue
    have hi : exec .lcTransitionDone s = onDevice s _ := (show execLcTransitionDone s = _ from rfl)
    refine ⟨fun st hsome => ?_, ?_⟩
    · refine goes_onDevice hl hi ?_
      rw [htr, he]
      dsimp only
      rw [if_neg hdue, hsome]
    · intro hnone hr
      have hread : execLcTransitionDone s = onDevice s fun _ => if (!dataGood r.2) = true then r.1.lcFails e .poisoned
          else if (!r.1.recordOk (dataBytes r.2) b) = true then r.1.newNonce.lcFails e .authFail
          else if (r.1.newNonce.fuses.torn && b != 0x1F) = true then
            (r.1.newNonce.putBit F.LC_STATE_FUSE_FAULT true).lcFails e .badState
          else (State.resetAfter (burnDone (r.1.newNonce.burnFuses b (dataBytes r.2))) 2 e.2).finish e .done := by
        rw [execLcTransitionDone, onDevice_live hl, onDevice_live hl, htr, he]
        dsimp only
        rw [if_neg hdue, hnone]
        dsimp only
        rw [← hr]
        rfl
      refine ⟨fun hbad => goes_onDevice hl hread (if_pos (by rw [hbad]; rfl)), fun hgood => ?_⟩
      have hg : ¬ (!dataGood r.2) = true := by rw [hgood]; decide
      by_cases hok : r.1.recordOk (dataBytes r.2) b = true
      · rw [if_pos hok]
        have hk : ¬ (!r.1.recordOk (dataBytes r.2) b) = true := by rw [hok]; decide
        refine ⟨fun htorn hb => goes_onDevice hl hread ((if_neg hg).trans ((if_neg hk).trans (if_pos ?_))), ?_⟩
        · simp [htorn, hb]
        · rintro u v hburn rfl rfl
          refine goes_onDevice hl hread ((if_neg hg).trans ((if_neg hk).trans (if_neg ?_)))
          rcases hburn with k | k <;> simp [k]
      · rw [if_neg hok]
        exact goes_onDevice hl hread ((if_neg hg).trans (if_pos (by simpa using hok)))
  case notDone =>
    intro s hl hno
    refine goes_onDevice hl (show execLcTransitionDone s = _ from rfl) ?_
    rcases hno with k | k
    · rw [k]
    · split
      · exact if_pos k
      · rfl
  case burnt =>
    intro s b bs hlife hall
    obtain ⟨hl, hn⟩ := burnValues_life s bs noCut b
    refine ⟨?_, s.burnFuses_mem bs noCut b⟩
    rw [State.burnFuses_fuses, burnLife_life (show (burnValues s bs noCut b).1 + 1 < 5 by omega), hl]
    exact lcAllowed_or _ hlife b (lcAllowed_code hall) hall
  case scrapped =>
    intro s b bs k hb hk
    have htwo : (burnValues s bs k b).1 = 2 := by rcases hb with rfl | rfl <;> rfl
    rw [State.burnFuses_fuses, burnLife_none (by rw [htwo]; exact hk)]
    exact (burnValues_life s bs k b).1
  case owned =>
    intro s bs k
    refine ⟨fun hk => ?_, fun hk _ _ _ => ⟨?_, ?_, ?_⟩⟩
    · rw [State.burnFuses_fuses, burnLife_none (show k.fields ≤ (burnValues s bs k 0x03).1 from hk)]
      exact (burnValues_life s bs k 0x03).1
    all_goals
      rw [State.burnFuses_fuses]
      exact burnField_written (by omega) _ _
  case closed =>
    intro s b bs k hb
    have heq : s.burnFuses b bs k = { s with fuses := burnLife k 0 b s.fuses } := by
      rcases hb with rfl | rfl <;> rfl
    rw [heq]
    refine ⟨⟨_, rfl, rfl⟩, fun h0 => ?_, fun h1 => if_pos h1, fun h2 => if_pos h2⟩
    rw [burnLife_none (Nat.le_of_eq h0)]
  case last =>
    rintro a b h rfl
    simp [lcAllowed] at h

end Sys2Proof.Machine
end

section
/-! PROOF. The first second and firmware. -/

namespace Sys2Proof.Machine
open Sys2Proof.Claims

/-! ### A firmware load and its commands (R414, R415) -/

theorem goes_loadCmd {i : Instr} {s : State} {src : Source} {op : Nat} {c : Cmd} {body : State → Cmd → State × Answer} {t : State}
    {a : Answer} (h : Starts s src op c) (hi : exec i s = onDevice s fun s => State.fwProgress (s.startCmd src op body))
    (hb : body (s.dropOldest src) c = (t, a)) : Goes i s (t.answer src c a).fwProgress :=
  goes_onDevice h.1 hi (by rw [startCmd_starts h, hb])

theorem State.fwProgress_awaiting {s : State} {e : Source × Cmd} (he : s.loadCmd = some e) (hb : e.2.bulkEnd = .awaiting) :
    s.fwProgress = s := by
  unfold State.fwProgress
  split
  next hcmd => cases hcmd.symm.trans he; rw [hb]
  next => rfl

theorem State.fwProgress_empty {s : State} {l : FwLoad} {e : Source × Cmd} (hl : s.boot.load = some l) (he : s.loadCmd = some e)
    (hb : e.2.bulkEnd = .none) (hf : l.full = false) : s.fwProgress = s := by
  rw [State.fwProgress, hl, he]
  dsimp only
  rw [hb]
  exact if_neg (by rw [hf]; exact Bool.false_ne_true)

theorem State.fwProgress_complete {s : State} {l : FwLoad} {e : Source × Cmd} (hl : s.boot.load = some l) (he : s.loadCmd = some e)
    (hb : e.2.bulkEnd = .complete) : s.fwProgress = s.fwComplete e e.2.bulk := by
  rw [State.fwProgress, hl, he]
  dsimp only
  rw [hb]

theorem State.reply_boot (s : State) (src : Source) (c : Cmd) (st : Status) (ws : List Word) : (s.reply src c st ws).boot = s.boot := by
  rw [s.reply_r src c st ws]

theorem State.reply_loadCmd (s : State) (src : Source) (c : Cmd) {st : Status} (hst : st ≠ .poisoned) (ws : List Word) :
    (s.reply src c st ws).loadCmd = s.loadCmd := by rw [State.loadCmd, State.reply_running s src c hst, State.loadCmd]

/-- A command of a load that is refused while none is in progress. -/
theorem ends_loadCmd {i : Instr} {s : State} {src : Source} {op : Nat} {c : Cmd} {body : State → Cmd → State × Answer} {t : State}
    {st : Status} {ws : List Word} (h : Starts s src op c) (hi : exec i s = onDevice s fun s => State.fwProgress (s.startCmd src op body))
    (hb : body (s.dropOldest src) c = (t, .final st ws)) (hno : t.boot.load = none) : Ends i s t src c st ws :=
  (goes_loadCmd h hi hb).trans (congrArg Host.Outcome.next (State.fwProgress_idle ((State.reply_boot ..).symm ▸ hno)))

/-- The state in which a load has begun. -/
def State.loading (s : State) (src : Source) (n : Nat) : State :=
  (State.putBit { s with boot := { s.boot with load := some { src := src, len := n } } } F.SEC_BOOT_LOADING true).putBit F.SEC_BOOT_VIA_MBX
    (!isCsi src)

theorem State.loading_on (s : State) (src : Source) (n : Nat) : (s.loading src n).on F.SEC_BOOT_LOADING = true ∧
    (s.loading src n).on F.SEC_BOOT_VIA_MBX = !isCsi src := by
  refine ⟨?_, State.on_putBit _ F.SEC_BOOT_VIA_MBX _ 0 0 rfl (by decide)⟩
  rw [State.on, State.loading, State.putBit,
    State.get_put_beside (f := F.SEC_BOOT_VIA_MBX) (g := F.SEC_BOOT_LOADING) _ _ _ rfl (by decide) (by decide)]
  exact State.on_putBit _ F.SEC_BOOT_LOADING _ 0 0 rfl (by decide)

theorem loadCmd_runs (t : State) (src : Source) {c : Cmd} (h : c.opcode = 0x0901) : (runs t src c).loadCmd = some (src, c) := by
  rw [State.loadCmd, runs, List.reverse_append]
  exact List.find?_cons_of_pos (by simpa using h)

section
variable {s : State} {src : Source} {c : Cmd}

/-- The checks of CMD_FW_LOAD that its parameters and the life cycle pass. -/
theorem fwLoad_begins {t : State × Answer} (hno : s.boot.load = none) (hlen : fwLengthOk (c.p 1) = true)
    (hrun : s.on F.HOST_STATUS_FW_RUN = false) (hlife : s.life ≠ 0x1F)
    (ht : (if isCsi src && c.bulkLen != c.p 1 then refuse s .badParam else (s.loading src (c.p 1), Answer.begun)) = t) :
    (let n := c.p 1
    if s.on F.HOST_STATUS_FW_RUN then refuse s .badState
    else if !fwLengthOk n then refuse s .badParam
    else if s.boot.load.isSome || s.life == 0x1F then refuse s .badState
    else if isCsi src && c.bulkLen != n then refuse s .badParam
    else
      let t : State := { s with boot := { s.boot with load := some { src := src, len := n } } }
      ((t.putBit F.SEC_BOOT_LOADING true).putBit F.SEC_BOOT_VIA_MBX (!isCsi src), .begun)) = t := by
  rw [← ht]
  dsimp only
  rw [hrun, hlen, hno, if_neg Bool.false_ne_true, if_neg (by decide), if_neg (by simp [hlife])]
  rfl

end

/-! ### The registers that firmware's start shows (R416, R442) -/

/-- The two bits of HOST_STATUS that say who runs. -/
def RunFld (f : Fld) : Prop := f = F.HOST_STATUS_BOOT_ROM ∨ f = F.HOST_STATUS_FW_RUN

theorem State.becomeReady_run (s : State) {f : Fld} (hf : RunFld f) : s.becomeReady.on f = s.on f := by
  have hraise : (State.raise (s.putBit F.HOST_STATUS_READY true) F.HOST_IBI_CAUSE_READY).on f = s.on f := by
    rw [State.on_congr (State.raise_regs _ _)]
    rcases hf with rfl | rfl
    · rw [State.on, State.get_put_other _ _ _ _ _ _ _ _ (by decide), State.putBit,
        State.get_put_beside (f := F.HOST_STATUS_READY) (g := F.HOST_STATUS_BOOT_ROM) _ _ _ rfl (by decide) (by decide), State.on]
    · rw [State.on, State.get_put_other _ _ _ _ _ _ _ _ (by decide), State.putBit,
        State.get_put_beside (f := F.HOST_STATUS_READY) (g := F.HOST_STATUS_FW_RUN) _ _ _ rfl (by decide) (by decide), State.on]
  unfold State.becomeReady
  split
  · exact hraise
  · rfl

theorem State.showTxPorts_run (s : State) {f : Fld} (hf : RunFld f) : s.showTxPorts.on f = s.on f := by
  unfold State.showTxPorts
  split
  · rw [State.on]
    rcases hf with rfl | rfl
    · rw [State.putBit, State.get_put_beside (f := F.HOST_STATUS_TX1_UP) (g := F.HOST_STATUS_BOOT_ROM) _ _ _ rfl (by decide) (by decide),
        State.putBit, State.get_put_beside (f := F.HOST_STATUS_TX0_UP) (g := F.HOST_STATUS_BOOT_ROM) _ _ _ rfl (by decide) (by decide),
        State.on]
    · rw [State.putBit, State.get_put_beside (f := F.HOST_STATUS_TX1_UP) (g := F.HOST_STATUS_FW_RUN) _ _ _ rfl (by decide) (by decide),
        State.putBit, State.get_put_beside (f := F.HOST_STATUS_TX0_UP) (g := F.HOST_STATUS_FW_RUN) _ _ _ rfl (by decide) (by decide),
        State.on]
  · rfl

theorem State.showTxPorts_only (s : State) : s.showTxPorts = { s with regs := s.showTxPorts.regs } := by
  unfold State.showTxPorts
  split <;> rfl

theorem State.flushTx_h (s : State) : OnlyH s s.flushTx :=
  ((s.flushStatus_h.trans (State.formVerdicts_h _ _)).trans (State.flushStats_h _)).trans (State.flushSnap_h _)

theorem State.showVcore_only (s : State) : s.showVcore = { s with regs := s.showVcore.regs } := by
  unfold State.showVcore
  dsimp only
  split <;> rfl

theorem State.showVcore_run (s : State) {f : Fld} (hf : RunFld f) : s.showVcore.on f = s.on f := by
  have hreg : f.reg.addr 0 0 ≠ R.SYS_VCORE.addr 0 0 := by rcases hf with rfl | rfl <;> decide
  unfold State.showVcore
  dsimp only
  split
  · rw [State.on, State.get_put_other _ _ _ _ _ _ _ _ hreg, State.on]
  · rw [State.on, State.get_put_other _ _ _ _ _ _ _ _ hreg, State.get_put_other _ _ _ _ _ _ _ _ hreg, State.on]

/-- The settings of the field die are sent again, which shows in the FIELD block alone. -/
theorem State.sendAll_only (s : State) : s.sendAll = { s with regs := s.sendAll.regs, field := s.sendAll.field } := by
  unfold State.sendAll
  dsimp only
  split <;> rfl

theorem State.sendAll_run (s : State) {f : Fld} (hf : RunFld f) : s.sendAll.on f = s.on f := by
  have hstat : f.reg.addr 0 0 ≠ R.FIELD_LINK_STAT.addr 0 0 := by rcases hf with rfl | rfl <;> decide
  have hstop : f.reg.addr 0 0 ≠ R.FIELD_STOP.addr 0 0 := by rcases hf with rfl | rfl <;> decide
  unfold State.sendAll
  dsimp only
  split
  · rw [State.on, State.showPending, State.putBit, State.get_put_other _ _ _ _ _ _ _ _ hstop, State.putBit,
      State.get_put_other _ _ _ _ _ _ _ _ hstat]
    rfl
  · rfl

/-- The loads that wait end with BAD_STATE: replies go out. -/
theorem State.endLoads_kept (s : State) : s.endLoads.boot.load = none ∧ s.endLoads.power = s.power ∧ s.endLoads.mem = s.mem := by
  refine timesFrom_keeps (P := fun t : State => t.boot.load = none ∧ t.power = s.power ∧ t.mem = s.mem) (fun t _ h => ?_)
    (show s.endLoad.boot.load = none ∧ s.endLoad.power = s.power ∧ s.endLoad.mem = s.mem from ⟨rfl, rfl, rfl⟩) _ _
  unfold State.finishOp
  split
  next e _ =>
    rw [State.finish, State.reply_r _ e.1 e.2 .badState []]
    exact h
  next => exact h

/-- What shows of the start of firmware leaves the supplies, the memories and the boot state. -/
structure SameCore (s t : State) : Prop where
  power : t.power = s.power
  mem : t.mem = s.mem
  boot : t.boot = s.boot

theorem SameCore.trans {r s t : State} (h : SameCore r s) (k : SameCore s t) : SameCore r t :=
  ⟨k.power.trans h.power, k.mem.trans h.mem, k.boot.trans h.boot⟩

theorem State.sendAll_core (s : State) : SameCore s s.sendAll := by rw [s.sendAll_only]; exact ⟨rfl, rfl, rfl⟩
theorem State.showTxPorts_core (s : State) : SameCore s s.showTxPorts := by rw [s.showTxPorts_only]; exact ⟨rfl, rfl, rfl⟩
theorem State.flushTx_core (s : State) : SameCore s s.flushTx := by rw [s.flushTx_h]; exact ⟨rfl, rfl, rfl⟩
theorem State.showVcore_core (s : State) : SameCore s s.showVcore := by rw [s.showVcore_only]; exact ⟨rfl, rfl, rfl⟩
theorem State.becomeReady_core (s : State) : SameCore s s.becomeReady := by rw [s.becomeReady_only]; exact ⟨rfl, rfl, rfl⟩

/-- Firmware starts to run. -/
theorem goes_fwRun {s : State} (hl : Live s) (hst : s.boot.started = true) (hrun : s.on F.HOST_STATUS_FW_RUN = false) :
    ∃ t, Goes .fwRun s t ∧ t.on F.HOST_STATUS_FW_RUN = true ∧ t.on F.HOST_STATUS_BOOT_ROM = false ∧
      t.power = { s.power with target := 750 } ∧ t.mem = s.mem ∧ t.boot.load = none := by
  set a : State := (s.endLoads.putBit F.HOST_STATUS_FW_RUN true).putBit F.HOST_STATUS_BOOT_ROM false with ha
  set b : State := State.showVcore { a with power := { a.power with target := 750 } } with hb
  set c : State := b.sendAll.showTxPorts.flushTx with hc
  obtain ⟨hload, hpow, hmem⟩ := s.endLoads_kept
  have hon : ∀ f, RunFld f → c.becomeReady.on f = a.on f := fun f hf => by
    rw [c.becomeReady_run hf, hc, State.on_congr (State.flushTx_regs _), State.showTxPorts_run _ hf, State.sendAll_run _ hf, hb,
      State.showVcore_run _ hf]
    rfl
  have hcb : SameCore b c := ((b.sendAll_core).trans b.sendAll.showTxPorts_core).trans b.sendAll.showTxPorts.flushTx_core
  have hab : SameCore { a with power := { a.power with target := 750 } } b := State.showVcore_core _
  obtain ⟨hp, hm, hbt⟩ := (hab.trans hcb).trans c.becomeReady_core
  have hrest : c.becomeReady.power = { s.power with target := 750 } ∧ c.becomeReady.mem = s.mem ∧ c.becomeReady.boot.load = none :=
    ⟨hp.trans (by rw [← hpow]; rfl), hm.trans hmem, (congrArg Boot.load hbt).trans hload⟩
  refine ⟨c.becomeReady, goes_onDevice hl (show execFwRun s = _ from rfl) (if_pos (by simp [hst, hrun])), ?_, ?_, hrest⟩
  · rw [hon _ (.inr rfl), ha, State.putBit, State.on,
      State.get_put_beside (f := F.HOST_STATUS_BOOT_ROM) (g := F.HOST_STATUS_FW_RUN) _ _ _ rfl (by decide) (by decide)]
    exact State.on_putBit _ F.HOST_STATUS_FW_RUN _ 0 0 rfl (by decide)
  · rw [hon _ (.inl rfl)]
    exact State.on_putBit _ F.HOST_STATUS_BOOT_ROM _ 0 0 rfl (by decide)

/-! ### The identity's public key (R412, R419) -/

theorem length_natBytes (n x : Nat) : (natBytes n x).length = n := by
  induction n generalizing x with
  | zero => rfl
  | succ n ih => rw [natBytes, List.length_cons, ih]

theorem length_fit (n : Nat) (bs : List Byte) : (fit n bs).length = n := by simp [fit]

theorem fit_take (n : Nat) (bs : List Byte) : fit n (bs.take n) = fit n bs := by
  rw [fit, fit, List.take_append, List.take_append, List.take_take, Nat.min_self, List.length_take]
  congr 2
  omega

theorem length_beBytes (n : Nat) : (beBytes n).length = 4 := by rw [beBytes, List.length_reverse, length_natBytes]

theorem slice_append_right {xs ys : List Byte} {k n : Nat} (h : xs.length = k) : slice (xs ++ ys) k n = ys.take n := by
  rw [slice, List.drop_left' h]

/-- The fields of a key block, each behind the ones before it. -/
theorem keyBlock_fields (seed : List Byte) (h : Nat) : (keyBlock seed h).length = 56 ∧
    slice (keyBlock seed h) 0 4 = beBytes (lmsType h) ∧ slice (keyBlock seed h) 4 4 = [0, 0, 0, 3] ∧
    slice (keyBlock seed h) 8 16 = fit 16 (Config.sha256 (seed ++ [0x49])) := by
  have htype := length_beBytes (lmsType h)
  have hident := length_fit 16 (lmsIdent seed)
  refine ⟨?_, ?_, ?_, ?_⟩
  · simp only [keyBlock, List.length_append, length_beBytes, length_fit]
  · rw [keyBlock, List.append_assoc, List.append_assoc, slice, List.drop_zero]
    exact List.take_left' htype
  · rw [keyBlock, List.append_assoc, List.append_assoc, slice_append_right htype]
    exact List.take_left' (length_beBytes 3)
  · rw [keyBlock, List.append_assoc, slice_append_right (by rw [List.length_append, htype, length_beBytes])]
    rw [List.take_left' hident, lmsIdent]
    exact fit_take 16 _

/-! ### The obligation -/

theorem State.readyNow_raise (s : State) : (State.raise (s.putBit F.HOST_STATUS_READY true) F.HOST_IBI_CAUSE_READY).on F.HOST_STATUS_READY = true ∧
    (State.raise (s.putBit F.HOST_STATUS_READY true) F.HOST_IBI_CAUSE_READY).on F.HOST_IBI_CAUSE_READY = true := by
  rw [State.on_congr (State.raise_regs _ _), State.on_congr (State.raise_regs _ _)]
  refine ⟨?_, State.on_putBit _ F.HOST_IBI_CAUSE_READY true 0 0 rfl (by decide)⟩
  rw [State.on, State.get_put_other _ _ _ _ _ _ _ _ (by decide)]
  exact State.on_putBit _ F.HOST_STATUS_READY true 0 0 rfl (by decide)

/-- Settles O59: the interfaces, the firmware image and what leads to READY. -/
theorem bootAndFirmware : Obligations.BootAndFirmware := by
  unfold Obligations.BootAndFirmware
  refine ⟨fun s hl => ⟨goes_onDevice hl (show execI3cTargetReady s = _ from rfl) rfl,
      goes_onDevice hl (show execEthLanesStart s = _ from rfl) rfl⟩, ?csi, ?load, ?secondLoad, ?chunkNone, ?chunk, ?chunkBad, ?complete,
    ?noStart, ?start, fun s hl => goes_fwRun hl, ?clear, ?noSend, ?noRun, ?noIdentity, ?identity, keyBlock_fields, ?loomsGood, ?loomsBad,
    ?noLooms, ?ready, ?notReady⟩
  case csi =>
    intro s hl
    refine ⟨fun hup => ?_, ?_, fun hdown hq => ?_⟩
    · exact goes_onDevice hl (show execHostCsi2Ready s = _ from rfl) (if_pos hup)
    · rintro hdown t rfl
      exact goes_onDevice hl (show execHostCsi2Ready s = _ from rfl) (if_neg (by rw [hdown]; exact Bool.false_ne_true))
    · set u : State := State.showTxPorts { s with host := { s.host with csiReady := true } } with hu
      have hq' : u.host.statusQ = [] := by
        rw [hu, State.showTxPorts_only]
        exact hq
      have hflush : u.flushStatus = u ∨ u.flushStatus = { u with host := { u.host with statusQ := [] } } := by
        unfold State.flushStatus
        split
        · exact .inr (by rw [hq']; rfl)
        · exact .inl rfl
      have hkept : u.flushStatus.regs = u.regs ∧ u.flushStatus.host.csiReady = u.host.csiReady := by
        rcases hflush with k | k <;> rw [k] <;> exact ⟨rfl, rfl⟩
      refine ⟨u.flushStatus, goes_onDevice hl (show execHostCsi2Ready s = _ from rfl) (if_neg (by rw [hdown]; exact Bool.false_ne_true)),
        ?_, ?_, ?_⟩
      · rw [hkept.2, hu, State.showTxPorts_only]
      · rw [State.on_congr hkept.1, hu, State.showTxPorts, if_pos rfl, State.putBit, State.on,
          State.get_put_beside (f := F.HOST_STATUS_TX1_UP) (g := F.HOST_STATUS_TX0_UP) _ _ _ rfl (by decide) (by decide)]
        exact State.on_putBit _ F.HOST_STATUS_TX0_UP _ 0 0 rfl (by decide)
      · rw [State.on_congr hkept.1, hu, State.showTxPorts, if_pos rfl]
        exact State.on_putBit _ F.HOST_STATUS_TX1_UP _ 0 0 rfl (by decide)
  case load =>
    intro s src c h hno
    have hi : exec (.cmdFwLoad src) s = onDevice s fun s => State.fwProgress (s.startCmd src 0x0901 _) :=
      (show execCmdFwLoad src s = _ from rfl)
    have hno' : (s.dropOldest src).boot.load = none := hno
    have hop : c.opcode = 0x0901 := h.2.2.1
    refine ⟨fun hrun => ?_, fun hrun hlen => ?_, fun hlen hlife => ?_, fun hsrc hbulk hlen hrun hlife => ?_,
      fun hsrc hne hlen hrun hlife => ?_, fun hsrc heq hbulk hlen hrun hlife => ?_⟩
    · exact ends_loadCmd h hi (if_pos hrun) hno
    · exact ends_loadCmd h hi ((if_neg (by rw [show (s.dropOldest src).on F.HOST_STATUS_FW_RUN = false from hrun]; decide)).trans
        (if_pos (by simp [hlen]))) hno
    · by_cases hrun : s.on F.HOST_STATUS_FW_RUN = true
      · exact ends_loadCmd h hi (if_pos hrun) hno
      · refine ends_loadCmd h hi ((if_neg hrun).trans ((if_neg (by simp [hlen])).trans (if_pos ?_))) hno
        rw [show (s.dropOldest src).life = 0x1F from hlife]
        simp
    · subst hsrc
      set t : State := (s.dropOldest .h2d).loading .h2d (c.p 1) with ht
      obtain ⟨hon, hvia⟩ := (s.dropOldest .h2d).loading_on .h2d (c.p 1)
      have hbegun : Goes (.cmdFwLoad .h2d) s (((runs t .h2d c).reply .h2d c .accepted)).fwProgress :=
        goes_loadCmd h hi (fwLoad_begins hno' hlen hrun hlife (if_neg (by simp [isCsi])))
      have hcmd : ((runs t .h2d c).reply .h2d c .accepted).loadCmd = some (.h2d, c) :=
        (State.reply_loadCmd _ _ _ (by decide) _).trans (loadCmd_runs t .h2d hop)
      have hload : ((runs t .h2d c).reply .h2d c .accepted).boot.load = some { src := .h2d, len := c.p 1 } := by
        rw [State.reply_boot]; rfl
      have hempty : FwLoad.full { src := .h2d, len := c.p 1 } = false := by
        have : 2640 ≤ c.p 1 := by simp [fwLengthOk] at hlen; omega
        simp [FwLoad.full]; omega
      rw [State.fwProgress_empty hload hcmd hbulk hempty] at hbegun
      exact ⟨t, hbegun, rfl, hon, hvia, _, rfl, rfl, rfl⟩
    · refine ends_loadCmd h hi (fwLoad_begins hno' hlen hrun hlife ((if_pos (by simp [hsrc, hne])).trans rfl)) hno
    · set t : State := (s.dropOldest src).loading src (c.p 1) with ht
      obtain ⟨hon, hvia⟩ := (s.dropOldest src).loading_on src (c.p 1)
      have hbegun : Goes (.cmdFwLoad src) s (((runs t src c).reply src c .accepted)).fwProgress :=
        goes_loadCmd h hi (fwLoad_begins hno' hlen hrun hlife (if_neg (by simp [heq])))
      have hcmd : ((runs t src c).reply src c .accepted).loadCmd = some (src, c) :=
        (State.reply_loadCmd _ _ _ (by decide) _).trans (loadCmd_runs t src hop)
      have hload : ((runs t src c).reply src c .accepted).boot.load = some { src := src, len := c.p 1 } := by
        rw [State.reply_boot]; rfl
      rw [State.fwProgress_complete hload hcmd hbulk] at hbegun
      exact ⟨t, (src, c), hbegun, loadCmd_runs t src hop, rfl, rfl, hon, hvia.trans (by rw [hsrc]; rfl)⟩
  case secondLoad =>
    intro s src c l e h hl hrun hlen he hb
    have hi : exec (.cmdFwLoad src) s = onDevice s fun s => State.fwProgress (s.startCmd src 0x0901 _) :=
      (show execCmdFwLoad src s = _ from rfl)
    have hcmd : ((s.dropOldest src).reply src c .badState).loadCmd = some e :=
      (State.reply_loadCmd _ _ _ (by decide) _).trans he
    have hgo : Goes (.cmdFwLoad src) s (((s.dropOldest src).reply src c .badState)).fwProgress := by
      refine goes_loadCmd (a := .final .badState []) h hi ?_
      refine (if_neg ?_).trans ((if_neg (by simp [hlen])).trans (if_pos ?_))
      · rw [show (s.dropOldest src).on F.HOST_STATUS_FW_RUN = false from hrun]; decide
      · rw [show (s.dropOldest src).boot.load = some l from hl]; rfl
    rw [State.fwProgress_awaiting hcmd hb] at hgo
    exact hgo
  case chunkNone =>
    intro s src c h hno
    refine ends_loadCmd h (show execCmdFwChunk src s = _ from rfl) ?_ hno
    rw [show (s.dropOldest src).boot.load = none from hno]
    rfl
  case chunk =>
    rintro s t src c l m h hl hsrc hrun hmod hlen rfl rfl
    refine goes_loadCmd (a := .final .done []) h (show execCmdFwChunk src s = _ from rfl) ?_
    rw [show (s.dropOldest src).boot.load = some l from hl]
    refine (if_neg ?_).trans (if_neg (by omega))
    rw [show (s.dropOldest src).on F.HOST_STATUS_FW_RUN = false from hrun]
    simp [hsrc]
  case chunkBad =>
    intro s src c l h hl
    have hl' : (s.dropOldest src).boot.load = some l := hl
    refine ⟨fun hbad => ?_, fun hsrc hrun hbad => ?_⟩
    · refine goes_loadCmd (a := .final .badState []) h (show execCmdFwChunk src s = _ from rfl) ?_
      rw [hl']
      exact if_pos hbad
    · refine goes_loadCmd (a := .final .badParam []) h (show execCmdFwChunk src s = _ from rfl) ?_
      rw [hl']
      refine (if_neg ?_).trans (if_pos hbad)
      rw [show (s.dropOldest src).on F.HOST_STATUS_FW_RUN = false from hrun]
      simp [hsrc]
  case complete =>
    rintro s t e bs rfl
    refine ⟨rfl, fun hok hno => ?_, fun hok himg => ?_, fun hbad => ?_⟩
    · have heq : s.fwComplete e bs =
          State.putBit { s.endLoad with boot := { s.endLoad.boot with image := some bs } } F.SEC_BOOT_VERIFIED true :=
        (if_neg (by simp [hok])).trans (if_neg (by rw [show s.endLoad.boot.image = none from hno]; simp))
      rw [heq]
      exact ⟨State.on_putBit _ F.SEC_BOOT_VERIFIED true 0 0 rfl (by decide), rfl⟩
    · exact (if_neg (by simp [hok])).trans (if_pos himg)
    · exact if_pos (by simp [hbad])
  case noStart =>
    intro s hl hno
    refine goes_onDevice hl (show execFirmwareStart s = _ from rfl) ?_
    rcases hno with k | k | k
    · rw [k]
    all_goals
      split
      · exact if_pos (by simp [k])
      · rfl
  case start =>
    rintro s t bs hl himg hst hwipe rfl
    refine goes_onDevice hl (show execFirmwareStart s = _ from rfl) ?_
    rw [himg]
    exact if_neg (by simp [hst, hwipe])
  case clear =>
    intro s hall hclear hup hrun hres
    have heq : s.sendAll = State.showPending { s with field := { s.field with
        allDue := false, clearDue := false, allSent := true
        link := { s.field.link with queue := [Msg.cfg clearIndex 1] ++ s.allSettings ++ s.field.link.queue } } } := by
      unfold State.sendAll
      dsimp only
      rw [if_pos (by simp [hall, hup, hrun, hres]), if_pos hclear]
    rw [heq]
    exact ⟨rfl, rfl⟩
  case noSend =>
    intro s hno
    refine if_neg ?_
    rcases hno with k | k | k | k <;> simp [k]
  case noRun =>
    intro s hl hno
    refine goes_onDevice hl (show execFwRun s = _ from rfl) (if_neg ?_)
    rcases hno with k | k <;> simp [k]
  case noIdentity =>
    intro s hl hno
    refine goes_onDevice hl (show execIdentityDerived s = _ from rfl) (if_neg ?_)
    rcases hno with k | k | k <;> simp [k]
  case identity =>
    rintro s t hup hlife hid rfl
    exact goes_onDevice hup.1 (show execIdentityDerived s = _ from rfl) (if_pos (by simp [hup.2, hlife, hid]))
  case loomsGood =>
    rintro s hup hddr hloom t rfl
    exact goes_onDevice hup.1 (show execLoomStartupTestDone [] s = _ from rfl) (if_pos (by simp [hup.2, hddr, hloom]))
  case loomsBad =>
    rintro s t failed hup hddr hloom rfl
    exact goes_onDevice hup.1 (show execLoomStartupTestDone failed s = _ from rfl) (if_pos (by simp [hup.2, hddr, hloom]))
  case noLooms =>
    intro s failed hl hno
    refine goes_onDevice hl (show execLoomStartupTestDone failed s = _ from rfl) (if_neg ?_)
    rcases hno with k | k | k <;> simp [k]
  case ready =>
    intro s hnow hoff
    have heq : s.becomeReady = State.raise (s.putBit F.HOST_STATUS_READY true) F.HOST_IBI_CAUSE_READY := if_pos (by simp [hnow, hoff])
    rw [heq]
    exact s.readyNow_raise
  case notReady =>
    intro s hno
    exact if_neg (by simp [hno])

end Sys2Proof.Machine
end

section
/-! PROOF. The intake of samples. -/

namespace Sys2Proof.Machine
open Sys2Proof.Claims

/-! ### Deferred optimiser steps are noted beside the samples (R254) -/

theorem State.noteDefer_cases (s : State) (p : Nat) :
    s.noteDefer p = s ∨ ∃ f, s.noteDefer p = (s.mapLearn p f).bump F.SCHED_LEARN_CNT_DEFER p :=
  (ite_eq_or_eq _ _ _).symm.imp id fun h => ⟨_, h⟩

/-- What the note of deferred optimiser steps leaves: all but the schedulers' record and their counts. -/
theorem State.noteDefers_only (s : State) : s.noteDefers = { s with regs := s.noteDefers.regs, sched := s.noteDefers.sched } := by
  refine timesFrom_keeps (P := fun t : State => t = { s with regs := t.regs, sched := t.sched }) (fun t p h => ?_) rfl _ _
  rcases t.noteDefer_cases p with k | ⟨f, k⟩
  · rw [k]; exact h
  · rw [k, h]; rfl

theorem State.noteDefers_intake (s : State) : s.noteDefers.intake = s.intake := by rw [s.noteDefers_only]
theorem State.noteDefers_bobs (s : State) : s.noteDefers.bobs = s.bobs := by rw [s.noteDefers_only]

theorem State.noteDefers_bob (s : State) (id : Nat) : s.noteDefers.bob id = s.bob id := by
  rw [State.bob, s.noteDefers_bobs, State.bob]

theorem State.noteDefers_sample (s : State) (n : Nat) : s.noteDefers.sample? n = s.sample? n := by
  rw [State.sample?, s.noteDefers_intake, State.sample?]

theorem State.noteDefers_get (s : State) {f : Fld} (h : ∀ p : Fin 8, f.reg.addr 0 0 ≠ F.SCHED_LEARN_CNT_DEFER.reg.addr p.val 0) :
    s.noteDefers.get f = s.get f := by
  refine timesFrom_keeps_below (P := fun t : State => t.get f = s.get f) (fun t p hp ht => ?_) rfl
  rcases t.noteDefer_cases p with k | ⟨g, k⟩
  · rw [k]; exact ht
  · rw [k, State.bump, State.bumpBy, State.get_put_other _ _ _ _ _ _ _ _ (h ⟨p, by omega⟩)]
    exact ht

theorem goes_samples {i : Instr} {s t : State} {f : State → State} (hl : Live s) (hi : exec i s = onSamples s f) (ht : f s = t) :
    Goes i s t.noteDefers := goes_onDevice hl hi (congrArg State.noteDefers ht)

/-! ### The list of the outstanding samples -/

theorem insertBefore_split {α : Type} (later : α → Bool) (x : α) (l : List α) :
    ∃ a b, l = a ++ b ∧ insertBefore later x l = a ++ x :: b := by
  induction l with
  | nil => exact ⟨[], [], rfl, rfl⟩
  | cons y l ih =>
    unfold insertBefore
    split
    · exact ⟨[], y :: l, rfl, rfl⟩
    · obtain ⟨a, b, hl, hi⟩ := ih
      exact ⟨y :: a, b, by rw [hl]; rfl, by rw [hi]; rfl⟩

theorem replaceFirst_split {α : Type} {p : α → Bool} {f : α → α} {a b : List α} {x : α} (ha : ∀ y ∈ a, p y = false) (hx : p x = true) :
    replaceFirst p f (a ++ x :: b) = a ++ f x :: b := by
  induction a with
  | nil => exact if_pos hx
  | cons y a ih =>
    rw [List.cons_append, replaceFirst, ha y List.mem_cons_self, if_neg Bool.false_ne_true, ih fun z hz => ha z (List.mem_cons_of_mem y hz)]
    rfl

theorem replaceFirst_length {α : Type} (p : α → Bool) (f : α → α) (l : List α) : (replaceFirst p f l).length = l.length := by
  induction l with
  | nil => rfl
  | cons y l ih =>
    unfold replaceFirst
    split
    · rfl
    · rw [List.length_cons, ih, List.length_cons]

theorem replaceFirst_mem {α : Type} (p : α → Bool) (f : α → α) {l : List α} {y : α} (h : y ∈ l) :
    y ∈ replaceFirst p f l ∨ f y ∈ replaceFirst p f l := by
  induction l with
  | nil => cases h
  | cons z l ih =>
    unfold replaceFirst
    rcases List.mem_cons.mp h with rfl | hy
    · split
      · exact .inr List.mem_cons_self
      · exact .inl List.mem_cons_self
    · split
      · exact .inl (List.mem_cons_of_mem _ hy)
      · exact (ih hy).imp (List.mem_cons_of_mem _) (List.mem_cons_of_mem _)

theorem replaceFirst_map {α β : Type} (p : α → Bool) {f : α → α} {g : α → β} (hf : ∀ y, g (f y) = g y) (l : List α) :
    (replaceFirst p f l).map g = l.map g := by
  induction l with
  | nil => rfl
  | cons y l ih =>
    unfold replaceFirst
    split
    · rw [List.map_cons, List.map_cons, hf]
    · rw [List.map_cons, List.map_cons, ih]

/-- The sample at a place of which some sample has changed. -/
theorem State.sample?_mapSample (s : State) {q : Nat} {f : Sample → Sample} (hf : ∀ y, (f y).place = y.place) (n : Nat) :
    (s.mapSample q f).sample? n = if n = q then (s.sample? n).map f else s.sample? n := by
  unfold State.sample? State.mapSample
  dsimp only
  induction s.intake.samples with
  | nil => simp [replaceFirst]
  | cons y l ih =>
    unfold replaceFirst
    by_cases hq : y.place = q
    · rw [if_pos (by simp [hq])]
      by_cases hn : n = q
      · rw [if_pos hn, List.find?_cons_of_pos (by simp [hf, hq, hn]), List.find?_cons_of_pos (by simp [hq, hn])]
        rfl
      · rw [if_neg hn, List.find?_cons_of_neg (by simp [hf, hq]; omega), List.find?_cons_of_neg (by simp [hq]; omega)]
    · rw [if_neg (by simp [hq])]
      by_cases hn : y.place = n
      · rw [List.find?_cons_of_pos (by simp [hn]), List.find?_cons_of_pos (by simp [hn]), if_neg (by omega)]
      · rw [List.find?_cons_of_neg (by simp [hn]), List.find?_cons_of_neg (by simp [hn])]
        exact ih

/-- No two samples have one place. -/
def State.placesApart (s : State) : Prop := (s.intake.samples.map fun (y : Sample) => y.place).Nodup

theorem find?_of_nodup {α : Type} {g : α → Nat} {l : List α} (h : (l.map g).Nodup) {x : α} (hx : x ∈ l) :
    l.find? (fun y => g y == g x) = some x := by
  induction l with
  | nil => cases hx
  | cons y l ih =>
    rw [List.map_cons, List.nodup_cons] at h
    obtain ⟨hnot, hl⟩ := h
    rcases List.mem_cons.mp hx with rfl | hxl
    · exact List.find?_cons_of_pos (by simp)
    · rw [List.find?_cons_of_neg]
      · exact ih hl hxl
      · intro k
        exact hnot (by rw [beq_iff_eq.mp k]; exact List.mem_map_of_mem hxl)

theorem State.sample?_of_mem {s : State} (h : s.placesApart) {x : Sample} (hx : x ∈ s.intake.samples) : s.sample? x.place = some x :=
  find?_of_nodup h hx

theorem State.mapSample_apart {s : State} (h : s.placesApart) (q : Nat) {f : Sample → Sample} (hf : ∀ y, (f y).place = y.place) :
    (s.mapSample q f).placesApart := by
  unfold State.placesApart State.mapSample
  rw [replaceFirst_map _ hf]
  exact h

/-! ### The JPEG decoders (R145) -/

/-- What the decoders take: nothing, or a waiting sample that is marked. -/
theorem State.giveDecoder_cases (s : State) (d : Nat) : s.giveDecoder d = s ∨ ∃ x ∈ s.intake.samples, x.stage = .stream ∧
    s.giveDecoder d = s.mapSample x.place fun y => { y with decoder := some d } := by
  unfold State.giveDecoder
  split
  · exact .inl rfl
  · split
    next x hx =>
      have hp := List.find?_some hx
      simp only [Bool.and_eq_true, beq_iff_eq] at hp
      exact .inr ⟨x, List.mem_of_find?_eq_some hx, hp.1.1.2, rfl⟩
    next => exact .inl rfl

/-- A sample that streams no more takes no decoder. -/
theorem State.giveDecoder_sample {s : State} (h : s.placesApart) {y : Sample} {n : Nat} (hy : s.sample? n = some y)
    (hst : y.stage ≠ .stream) (d : Nat) : (s.giveDecoder d).placesApart ∧ (s.giveDecoder d).sample? n = some y := by
  rcases s.giveDecoder_cases d with k | ⟨x, hx, hxs, k⟩
  · rw [k]; exact ⟨h, hy⟩
  · rw [k]
    refine ⟨State.mapSample_apart h _ fun _ => rfl, ?_⟩
    rw [State.sample?_mapSample s (q := x.place) (f := fun y => { y with decoder := some d }) (fun _ => rfl), if_neg]
    · exact hy
    · rintro rfl
      have hxy : x = y := Option.some.inj ((State.sample?_of_mem h hx).symm.trans hy)
      exact hst (hxy ▸ hxs)

theorem State.giveDecoders_sample {s : State} (h : s.placesApart) {y : Sample} {n : Nat} (hy : s.sample? n = some y)
    (hst : y.stage ≠ .stream) : s.giveDecoders.sample? n = some y := by
  obtain ⟨h0, hy0⟩ := State.giveDecoder_sample h hy hst 0
  exact (State.giveDecoder_sample h0 hy0 hst 1).2

theorem State.giveDecoder_only (s : State) (d : Nat) :
    s.giveDecoder d = { s with intake := { s.intake with samples := (s.giveDecoder d).intake.samples } } := by
  rcases s.giveDecoder_cases d with k | ⟨x, -, -, k⟩
  · rw [k]
  · rw [k]; rfl

theorem State.giveDecoder_list (s : State) (d : Nat) : (s.giveDecoder d).intake.samples.length = s.intake.samples.length ∧
    ∀ y ∈ s.intake.samples, y ∈ (s.giveDecoder d).intake.samples ∨ { y with decoder := some d } ∈ (s.giveDecoder d).intake.samples := by
  rcases s.giveDecoder_cases d with k | ⟨x, -, -, k⟩
  · rw [k]; exact ⟨rfl, fun y hy => .inl hy⟩
  · rw [k]; exact ⟨replaceFirst_length _ _ _, fun y hy => replaceFirst_mem _ _ hy⟩

theorem State.giveDecoders_only (s : State) :
    s.giveDecoders = { s with intake := { s.intake with samples := s.giveDecoders.intake.samples } } := by
  rw [State.giveDecoders, State.giveDecoder_only, s.giveDecoder_only 0]

/-- The decoders that the samples take change no more of them. -/
theorem State.giveDecoders_list (s : State) : s.giveDecoders.intake.samples.length = s.intake.samples.length ∧
    ∀ y ∈ s.intake.samples, ∃ d, { y with decoder := d } ∈ s.giveDecoders.intake.samples := by
  obtain ⟨hlen0, hmem0⟩ := s.giveDecoder_list 0
  obtain ⟨hlen1, hmem1⟩ := (s.giveDecoder 0).giveDecoder_list 1
  refine ⟨hlen1.trans hlen0, fun y hy => ?_⟩
  rcases hmem0 y hy with h | h <;> rcases hmem1 _ h with k | k
  · exact ⟨y.decoder, k⟩
  · exact ⟨some 1, k⟩
  · exact ⟨some 0, k⟩
  · exact ⟨some 1, k⟩

/-! ### Sequence numbers (R140, R143) -/

/-- No record is due. -/
def State.noneDue (s : State) : Prop := ∀ y, s.numbered s.intake.nextOut = some y → y.status = none

theorem State.recordsDue_idle {s : State} (h : s.noneDue) (n : Nat) : s.recordsDue n = s := by
  cases n with
  | zero => rfl
  | succ n =>
    unfold State.recordsDue
    split
    · rfl
    next y hy =>
      rw [h y hy]

/-- Where no sample waits for its number and no record is due, none is given. -/
theorem State.giveNumbers_none {s : State} (hseq : ∀ y ∈ s.intake.samples, y.seq ≠ none) (hdue : s.noneDue) : s.giveNumbers = s := by
  have hnone : (s.intake.samples.filter fun x => x.seq.isNone && s.intake.headers.all fun h => decide (x.place < h.2.1)) = [] :=
    List.filter_eq_nil_iff.mpr fun y hy => by simp [hseq y hy]
  unfold State.giveNumbers
  dsimp only
  rw [hnone]
  exact State.recordsDue_idle hdue _

/-- The state in which the one sample that waits has its number. -/
def State.numberedOne (s : State) (a b : List Sample) (x : Sample) : State :=
  { s with intake := { s.intake with
    samples := a ++ { x with seq := some s.intake.nextSeq } :: b, nextSeq := (s.intake.nextSeq + 1) % 2 ^ 32 } }

section
variable {s : State} {a b : List Sample} {x : Sample}

theorem State.giveNumber_one (hs : s.intake.samples = a ++ x :: b) (ha : ∀ y ∈ a, y.place ≠ x.place) (hst : x.status = none) :
    ∃ sched, s.giveNumber x.place = { s.numberedOne a b x with sched := sched } := by
  have hmap : ∀ f, replaceFirst (fun y : Sample => y.place == x.place) f s.intake.samples = a ++ f x :: b := fun f => by
    rw [hs]
    exact replaceFirst_split (fun y hy => by simp [ha y hy]) (by simp)
  have hfind : s.sample? x.place = some x := by
    unfold State.sample?
    rw [hs, List.find?_append, List.find?_eq_none.mpr (fun y hy => by simp [ha y hy]), List.find?_cons_of_pos (by simp)]
    rfl
  unfold State.giveNumber State.mapSample
  rw [hmap, hfind]
  dsimp only
  split
  · rw [if_neg (by rw [hst]; exact Bool.false_ne_true)]
    exact ⟨_, rfl⟩
  · exact ⟨s.sched, rfl⟩

theorem State.giveNumbers_one (hs : s.intake.samples = a ++ x :: b) (hx : x.seq = none) (hst : x.status = none)
    (hold : ∀ y ∈ a ++ b, y.seq ≠ none ∧ y.place ≠ x.place) (hh : s.intake.headers = [])
    (hdue : ∀ y, (a ++ b).find? (·.seq == some s.intake.nextOut) = some y → y.status = none) :
    ∃ sched, s.giveNumbers = { s.numberedOne a b x with sched := sched } := by
  have hclear : (s.intake.samples.filter fun x => x.seq.isNone && s.intake.headers.all fun h => decide (x.place < h.2.1)) = [x] := by
    have hno : ∀ l : List Sample, (∀ y ∈ l, y ∈ a ++ b) → (l.filter fun y : Sample => y.seq.isNone && true) = [] := fun l hl =>
      List.filter_eq_nil_iff.mpr fun y hy => by simp [(hold y (hl y hy)).1]
    simp only [hh, hs, List.all_nil]
    rw [List.filter_append, hno a fun y => List.mem_append_left b, List.filter_cons_of_pos (by simp [hx]),
      hno b fun y => List.mem_append_right a]
    rfl
  obtain ⟨sched, hone⟩ := State.giveNumber_one hs (fun y hy => (hold y (List.mem_append_left b hy)).2) hst
  refine ⟨sched, ?_⟩
  unfold State.giveNumbers
  dsimp only
  rw [hclear]
  dsimp only [foldState]
  rw [hone]
  refine State.recordsDue_idle (fun y hy => ?_) _
  have hfound : (a ++ { x with seq := some s.intake.nextSeq } :: b).find? (·.seq == some s.intake.nextOut) = some y := hy
  rw [List.find?_append] at hfound
  rw [List.find?_append] at hdue
  cases ha : a.find? (·.seq == some s.intake.nextOut) with
  | some z =>
    rw [ha] at hfound
    exact hdue y (by rw [ha]; exact hfound)
  | none =>
    rw [ha, Option.none_or, List.find?_cons] at hfound
    split at hfound
    · cases hfound; exact hst
    · exact hdue y (by rw [ha]; exact hfound)

end

/-! ### Headers (R140, R142) -/

/-- A record that tells of no poison changes the host link, and registers of the HOST block alone. -/
theorem State.sampleRecord_plain (s : State) (x : Sample) {st : Status} (h : st ≠ .poisoned) (lo : Nat) :
    (s.sampleRecord x st lo).intake = s.intake ∧ ∀ f : Fld, f.reg.addr 0 0 ≠ R.HOST_TX_CNT.addr 0 0 →
      f.reg.addr 0 0 ≠ R.HOST_IBI_CAUSE.addr 0 0 → (s.sampleRecord x st lo).get f = s.get f := by
  have hadd : ∀ (t : State) (ws : List Word), (t.addRecord ws).intake = t.intake ∧ ∀ f : Fld,
      f.reg.addr 0 0 ≠ R.HOST_TX_CNT.addr 0 0 → f.reg.addr 0 0 ≠ R.HOST_IBI_CAUSE.addr 0 0 → (t.addRecord ws).get f = t.get f := by
    intro t ws
    unfold State.addRecord
    dsimp only
    split
    · split
      · refine ⟨?_, fun f _ _ => (State.get_congr (State.formVerdict_regs _) f 0 0)⟩
        rw [State.formVerdict_h]
      · exact ⟨rfl, fun _ _ _ => rfl⟩
    · refine ⟨?_, fun f hcnt hibi => ?_⟩
      · rw [State.dropRecord_i]
      · rw [State.dropRecord, State.get_congr (State.raise_regs _ _), State.get_put_other _ _ _ _ _ _ _ _ hibi, State.bump, State.bumpBy,
          State.get_put_other _ _ _ _ _ _ _ _ hcnt]
        rfl
  unfold State.sampleRecord State.record
  split
  · exact ⟨rfl, fun _ _ _ => rfl⟩
  · dsimp only
    rw [if_neg Bool.false_ne_true, if_neg (by simpa using h)]
    exact hadd _ _

/-- A packet of an intake that takes it is given to its virtual channel. -/
theorem goes_sample {s u : State} {x : RxPacket} {v : Fin 4} (hl : Live s) (hup : s.host.csiReady = true) (hh : x.header < 2)
    (hlist : x.listed = true) (hcrc : x.crcOk = true) (hv : x.vc = v.val)
    (hu : u = if x.header = 1 then s.bump F.HOST_RX_CNT_ECC_CORR else s) :
    Goes (.hostRxSample x) s (u.samplePacket v.val x.payload).noteDefers := by
  refine goes_samples hl (show execHostRxSample x s = _ from rfl) ?_
  have hvc : x.vc < 4 := by rw [hv]; exact v.isLt
  rw [State.rxFilter_taken hup hh hlist hcrc hvc, hu]
  exact congrArg (fun k => State.samplePacket _ k x.payload) hv

theorem State.eccCounted_intake (s : State) (x : RxPacket) : (if x.header = 1 then s.bump F.HOST_RX_CNT_ECC_CORR else s).intake = s.intake := by
  split <;> rfl

/-- The header and the intake's registers stand beside the counts of received packets. -/
theorem State.eccCounted_get (s : State) (x : RxPacket) {f : Fld} (h : f.reg.addr 0 0 ≠ R.HOST_RX_CNT.addr 0 0) :
    (if x.header = 1 then s.bump F.HOST_RX_CNT_ECC_CORR else s).get f = s.get f := by
  split
  · exact State.get_put_other _ _ _ _ _ _ _ _ h
  · rfl

/-- A header that is not complete yet. -/
theorem State.samplePacket_short {s : State} {vc n : Nat} {old bs : List Byte} (hopen : tget? s.intake.opened vc = none)
    (hold : tget? s.intake.headers vc = some (n, old)) (hlen : old.length + bs.length < 48) :
    s.samplePacket vc bs = { s with intake := { s.intake with headers := tset s.intake.headers vc (n, old ++ bs) } } := by
  have hd : tgetD s.intake.headers vc (s.intake.nextPlace, []) = (n, old) := by rw [tgetD, hold]
  unfold State.samplePacket
  simp only [hopen, Option.isSome_none, Bool.false_eq_true, if_false]
  simp only [hd, hold, Option.isSome_some, if_true]
  exact if_pos (by rw [List.length_append]; exact hlen)

/-- The first packet of a sample. -/
theorem State.samplePacket_first {s : State} {vc : Nat} {bs : List Byte} (hopen : tget? s.intake.opened vc = none)
    (hno : tget? s.intake.headers vc = none) : s.samplePacket vc bs =
      let t : State := { s with intake := { s.intake with nextPlace := s.intake.nextPlace + 1 } }
      if bs.length < 48 then { t with intake := { t.intake with headers := tset t.intake.headers vc (s.intake.nextPlace, bs) } }
      else
        let r := t.takeHeader vc s.intake.nextPlace (bs.take 48) (bs.drop 48)
        if r.2 && !(bs.drop 48).isEmpty then r.1.takeStream vc (bs.drop 48) else r.1 := by
  have hd : tgetD s.intake.headers vc (s.intake.nextPlace, []) = (s.intake.nextPlace, []) := by rw [tgetD, hno]
  unfold State.samplePacket
  simp only [hopen, Option.isSome_none, Bool.false_eq_true, if_false]
  simp only [hd, hno, Option.isSome_none, Bool.false_eq_true, if_false, List.nil_append]

/-- The sample of a complete header. -/
def headed (place vc : Nat) (ws : List Word) : Sample :=
  { place := place, vc := vc, header := ws, size := 0, grey := greyJpeg place ws [] }

theorem State.takeHeader_bad {s : State} {vc place : Nat} {bs rest : List Byte}
    (h : crcWords ((bytesWords bs).take 11) ≠ (bytesWords bs).getD 11 0) : ∃ r, s.takeHeader vc place bs rest =
      ((State.sampleRecord (State.bump { s with intake := { s.intake with headers := tdel s.intake.headers vc } } F.SAMPLE_CNT_REJECT)
        r .crcFail 0xFFFFFFFF).giveNumbers, false) := by
  unfold State.takeHeader
  exact ⟨_, if_pos h⟩

theorem State.takeHeader_good {s t : State} {vc place : Nat} {bs : List Byte} {ws : List Word} (hws : ws = bytesWords bs)
    (h : crcWords (ws.take 11) = ws.getD 11 0)
    (ht : t = { s with intake := { s.intake with headers := tdel s.intake.headers vc } }) (hcred : s.get F.SAMPLE_CREDITS_AVAIL ≠ 0)
    (hok : t.sampleRefusal (headed place vc ws) = (none, false)) : s.takeHeader vc place bs [] =
      ((t.addSample { headed place vc ws with size := (headed place vc ws).need }).giveNumbers.giveDecoders, true) := by
  subst hws ht
  unfold State.takeHeader
  refine (if_neg (not_not.mpr h)).trans ((if_neg hcred).trans ?_)
  rw [headed] at hok
  dsimp only
  rw [hok]
  rfl

/-- A sample that passes the checks has a stream (R142). -/
theorem streamLen_of_accepted {s : State} {x : Sample} (h : s.sampleRefusal x = (none, false)) : x.streamLen ≠ 0 := by
  have hf : x.fieldsOk = true := by
    unfold State.sampleRefusal at h
    dsimp only at h
    split at h
    · cases h
    next k => simpa using k
  simp only [Sample.fieldsOk, Bool.and_eq_true] at hf
  simpa using hf.1.1.1.1.1.1.1.2

/-- What the file says of a sample once its frame is at hand. -/
def Sample.known (x z : Sample) : Sample :=
  { z with grey := greyJpeg x.place x.header x.stream, size := Sample.need { x with grey := greyJpeg x.place x.header x.stream } }

theorem State.knowFile_eq (s : State) (x : Sample) : s.knowFile x = s.mapSample x.place x.known := rfl

/-- A sample is ready: its image is at hand and its decoder free. -/
theorem State.sampleReady_spec {s : State} (h : s.placesApart) {n : Nat} {x : Sample} (hx : s.sample? n = some x) (img : Img) (trunc : Bool) :
    (s.sampleReady n img trunc).regs = s.regs ∧ ∃ y, (s.sampleReady n img trunc).sample? n = some y ∧ y.seq = x.seq ∧
      y.stage = .ready ∧ y.decoder = none ∧ y.trunc = trunc := by
  unfold State.sampleReady
  rw [hx]
  dsimp only
  refine ⟨?_, ?_⟩
  · rw [State.giveDecoders_only]
    rfl
  · set u := s.putItem s.sampleArea (3 * n + 2) (x.width * x.height * x.comps * 2) with hu
    set f : Sample → Sample := fun y => { y with
      stage := .ready, decoder := none, trunc := trunc, stream := []
      lines := (x.augment (s.get F.SAMPLE_FILL_FILL) img).map fun l =>
        (packLine (s.info x.part).inFmt (l.map fun c => c.map some)).map fun b => b.getD 0 } with hf
    have happart : (u.mapSample n f).placesApart := State.mapSample_apart (s := u) h n fun _ => rfl
    have hsample : (u.mapSample n f).sample? n = some (f x) := by
      rw [State.sample?_mapSample u (q := n) (f := f) (fun _ => rfl), if_pos rfl, show u.sample? n = some x from hx]
      rfl
    exact ⟨f x, State.giveDecoders_sample happart hsample (by simp [hf]), rfl, rfl, rfl, rfl⟩

/-! ### Sample bobbins (R149) -/

theorem find?_shifted {p : Nat → Bool} {b n id : Nat} (h : ((List.range n).map (b + ·)).find? p = some id) :
    b ≤ id ∧ id < b + n ∧ ∀ j, b ≤ j → j < id → p j = false := by
  rw [List.find?_map, Option.map_eq_some_iff] at h
  obtain ⟨k, hk, rfl⟩ := h
  obtain ⟨-, hin, hbefore⟩ := List.find?_range_eq_some.mp hk
  have hlt : k < n := List.mem_range.mp hin
  refine ⟨by omega, by omega, fun j hj hjk => ?_⟩
  have hb := hbefore (j - b) (by omega)
  rw [Function.comp_apply, show b + (j - b) = j by omega] at hb
  simpa using hb

theorem State.freeSampleBob_spec {s : State} {id : Nat} (h : s.freeSampleBob = some id) :
    0xF00 ≤ id ∧ id ≤ 0xFFF ∧ ∀ j, 0xF00 ≤ j → j < id → tget? s.bobs j ≠ none := by
  rw [State.freeSampleBob] at h
  obtain ⟨hlo, hhi, hbefore⟩ := find?_shifted (b := 0xF00) (n := 256) h
  refine ⟨hlo, by omega, fun j hj hjk hnone => ?_⟩
  have hb := hbefore j hj hjk
  rw [hnone] at hb
  cases hb

/-- A woken bobbin keeps what it holds but its ready tasks. -/
theorem State.wake_bob (s : State) (id : Nat) : ∃ r, (s.wake id).bob id = { s.bob id with ready := r } := by
  unfold State.wake
  dsimp only
  split
  · refine ⟨(s.bob id).ready ++ s.newReady (s.bob id), ?_⟩
    exact State.bob_setBob _ _ _
  · exact ⟨(s.bob id).ready, rfl⟩

theorem State.wake_intake (s : State) (id : Nat) : (s.wake id).intake = s.intake := by
  unfold State.wake
  dsimp only
  split <;> rfl

/-- The checks of a header read the outstanding samples alone of the intake. -/
theorem State.sampleRefusal_intake (s : State) (n : Intake) (h : n.samples = s.intake.samples) (x : Sample) :
    State.sampleRefusal { s with intake := n } x = s.sampleRefusal x := by
  unfold State.sampleRefusal State.sampleSpace
  dsimp only
  rw [h]
  rfl

/-- A sample that is accepted, before its decoder: it has the next number and its place in the submission order. -/
theorem State.addSample_spec {s : State} {x : Sample} (hx : x.seq = none) (hst : x.status = none) (hlen : x.streamLen ≠ 0)
    (hold : ∀ y ∈ s.intake.samples, y.seq ≠ none ∧ y.place < x.place) (hh : s.intake.headers = []) (hdue : s.noneDue) :
    ∃ t, (s.addSample x).giveNumbers = t ∧ t.get F.SAMPLE_CREDITS_AVAIL = s.get F.SAMPLE_CREDITS_AVAIL - 1 ∧
      t.intake.nextSeq = (s.intake.nextSeq + 1) % 2 ^ 32 ∧ t.intake.samples.length = s.intake.samples.length + 1 ∧
      { x with seq := some s.intake.nextSeq } ∈ t.intake.samples ∧ t.intake.opened = tset s.intake.opened x.vc x.streamLen := by
  obtain ⟨a, b, hab, hins⟩ := insertBefore_split (fun y : Sample => decide (x.place < y.place)) x s.intake.samples
  obtain ⟨sched, hnum⟩ := State.giveNumbers_one (s := s.addSample x) (a := a) (b := b) (x := x) hins hx hst
    (fun y hy => ⟨(hold y (hab ▸ hy)).1, Nat.ne_of_lt (hold y (hab ▸ hy)).2⟩) hh (fun y hy => hdue y (by rw [State.numbered, hab]; exact hy))
  refine ⟨_, hnum, ?_, rfl, ?_, ?_, if_neg hlen⟩
  · refine (State.get_put s F.SAMPLE_CREDITS_AVAIL _ 0 0 (by decide)).trans (Nat.mod_eq_of_lt ?_)
    exact Nat.lt_of_le_of_lt (Nat.sub_le _ _) (bitsOf_lt _ _ _)
  · show (a ++ _ :: b).length = _
    rw [hab]
    simp only [List.length_append, List.length_cons]
    omega
  · exact List.mem_append_right a List.mem_cons_self

/-- A sample's bobbin as it is taken. -/
def State.sampleBob (s : State) (x : Sample) : Bobbin :=
  { state := .open, serial := x.id, partition := x.part, wlen := x.cropH, computing := true
    tokens := tokensOf x.cropH (s.info x.part).tokenR, slot := s.jobSlot x.part, sample := some x.place }

/-- The state in which a sample has taken a bobbin and runs. -/
def State.sampleTaken (s : State) (x : Sample) (id : Nat) : State :=
  (((s.setBob id (s.sampleBob x)).showBobs).mapSample x.place fun y =>
    { y with stage := .running, bobbin := some id, usedBob := id }).deliverSample id

theorem State.sampleRun_taken (s : State) {x : Sample} (hw : x.cropW = (s.info x.part).width)
    (ht : tokensOf x.cropH (s.info x.part).tokenR ≤ (s.info x.part).tMax) (id : Nat) : s.sampleRun x id = s.sampleTaken x id :=
  if_neg (by simp [hw, Nat.not_lt.mpr ht])

theorem State.mapSample_bob (s : State) (q : Nat) (f : Sample → Sample) (id : Nat) : (s.mapSample q f).bob id = s.bob id := rfl
theorem State.showBobs_bob (s : State) (id : Nat) : s.showBobs.bob id = s.bob id := rfl
theorem State.showBobs_sample (s : State) (n : Nat) : s.showBobs.sample? n = s.sample? n := rfl

theorem State.sampleTaken_spec (s : State) {x : Sample} (hx : s.sample? x.place = some x) (id : Nat) :
    (∃ r, (s.sampleTaken x id).bob id = { s.sampleBob x with state := .closedInput, ready := r }) ∧
      (s.sampleTaken x id).sample? x.place = some { x with stage := .running, bobbin := some id, usedBob := id } := by
  set f : Sample → Sample := fun y => { y with stage := .running, bobbin := some id, usedBob := id } with hf
  set v : State := (s.setBob id (s.sampleBob x)).showBobs with hv
  set u : State := v.mapSample x.place f with hu
  have hbob : u.bob id = s.sampleBob x := by
    rw [hu, State.mapSample_bob, hv, State.showBobs_bob, State.bob_setBob]
  have hsample : v.sample? x.place = some x := by rw [hv, State.showBobs_sample]; exact hx
  refine ⟨?_, ?_⟩
  · obtain ⟨r, hr⟩ := (u.setBob id { u.bob id with state := .closedInput }).wake_bob id
    refine ⟨r, ?_⟩
    rw [State.sampleTaken, ← hv, ← hf, ← hu, State.deliverSample, hr, State.bob_setBob, hbob]
  · have hint : (s.sampleTaken x id).intake = u.intake := by
      rw [State.sampleTaken, ← hv, ← hf, ← hu, State.deliverSample, State.wake_intake, State.setBob_intake]
    have hfind : u.sample? x.place = some (f x) := by
      rw [hu, State.sample?_mapSample v (f := f) (fun _ => rfl), if_pos rfl, hsample]
      rfl
    rw [State.sample?] at hfind
    rw [State.sample?, hint, hfind]

/-! ### The obligation -/

/-- Settles O29: headers, credits, decoding and sample bobbins. -/
theorem sampleIntake : Obligations.SampleIntake := by
  unfold Obligations.SampleIntake
  refine ⟨?first, ?more, ?whole, ?start, ?decoded, ?late, ?noLimit, ?bobbin⟩
  case first =>
    intro s u x v hl hup hh hlist hcrc hv hopen hno hu hlen
    have hint : u.intake = s.intake := by rw [hu]; exact s.eccCounted_intake x
    have hgo := goes_sample hl hup hh hlist hcrc hv hu
    rw [State.samplePacket_first (by rw [hint]; exact hopen) (by rw [hint]; exact hno)] at hgo
    dsimp only at hgo
    rw [if_pos hlen, hint] at hgo
    exact hgo
  case more =>
    intro s u x v n bs hl hup hh hlist hcrc hv hopen hold hlen hu
    have hint : u.intake = s.intake := by rw [hu]; exact s.eccCounted_intake x
    have hgo := goes_sample hl hup hh hlist hcrc hv hu
    rw [State.samplePacket_short (by rw [hint]; exact hopen) (by rw [hint]; exact hold) hlen, hint] at hgo
    exact hgo
  case whole =>
    intro s u x v ws hl hup hh hlist hcrc hv hopen hno hlen hws hold hdue hu
    have hint : u.intake = s.intake := by rw [hu]; exact s.eccCounted_intake x
    have hcredGet : u.get F.SAMPLE_CREDITS_AVAIL = s.get F.SAMPLE_CREDITS_AVAIL := by rw [hu]; exact s.eccCounted_get x (by decide)
    have hrejGet : u.get F.SAMPLE_CNT_REJECT = s.get F.SAMPLE_CNT_REJECT := by rw [hu]; exact s.eccCounted_get x (by decide)
    have hgo := goes_sample hl hup hh hlist hcrc hv hu
    have hnone : tget? u.intake.headers v.val = none := by rw [hint, hno]; rfl
    rw [State.samplePacket_first (by rw [hint]; exact hopen) hnone] at hgo
    dsimp only at hgo
    rw [if_neg (by omega), List.take_of_length_le (by omega), List.drop_of_length_le (by omega)] at hgo
    set w : State := { u with intake := { u.intake with nextPlace := u.intake.nextPlace + 1 } } with hw
    refine ⟨fun hc hcred hok => ?_, fun hbad => ?_⟩
    · set w0 : State := { w with intake := { w.intake with headers := tdel w.intake.headers v.val } } with hw0
      have hok' : w0.sampleRefusal (headed u.intake.nextPlace v.val ws) = (none, false) := by
        rw [hint]
        exact (State.sampleRefusal_intake u w0.intake rfl _).trans hok
      rw [State.takeHeader_good hws hc hw0 (by rw [show w.get F.SAMPLE_CREDITS_AVAIL = _ from hcredGet]; exact hcred) hok'] at hgo
      have hsamples : w0.intake.samples = s.intake.samples := show u.intake.samples = _ from congrArg Intake.samples hint
      have hplace : u.intake.nextPlace = s.intake.nextPlace := congrArg Intake.nextPlace hint
      have hheads : w0.intake.headers = [] := by
        show tdel u.intake.headers v.val = []
        rw [hint, hno]
        rfl
      obtain ⟨t, ht, hcr, hseq, hlen', hmem, hop⟩ := State.addSample_spec (s := w0)
        (x := { headed u.intake.nextPlace v.val ws with size := (headed u.intake.nextPlace v.val ws).need }) rfl rfl
        (streamLen_of_accepted hok') (by rw [hsamples, hplace]; exact hold) hheads
        (by
          rw [State.noneDue, State.numbered, hsamples]
          show ∀ y, s.intake.samples.find? (fun x => x.seq == some u.intake.nextOut) = some y → _
          rw [hint]
          exact hdue)
      rw [ht, if_neg (by simp)] at hgo
      obtain ⟨hl1, hl2⟩ := t.giveDecoders_list
      have honly := t.giveDecoders_only
      have hregs : t.giveDecoders.regs = t.regs := by rw [honly]
      have hseq' : t.giveDecoders.intake.nextSeq = t.intake.nextSeq := by rw [honly]
      have hopened : t.giveDecoders.intake.opened = t.intake.opened := by rw [honly]
      obtain ⟨d, hd⟩ := hl2 _ hmem
      have hw0seq : w0.intake.nextSeq = s.intake.nextSeq := show u.intake.nextSeq = _ from congrArg Intake.nextSeq hint
      refine ⟨_, hgo, ?_, ?_, ?_, ⟨_, by rw [State.noteDefers_intake]; exact hd, by rw [← hw0seq], rfl, rfl⟩, ?_⟩
      · rw [State.noteDefers_get _ (by decide), State.get_congr hregs, hcr, show w0.get F.SAMPLE_CREDITS_AVAIL = _ from hcredGet]
      · rw [State.noteDefers_intake, hseq', hseq, hw0seq]
      · rw [State.noteDefers_intake, hl1, hlen', hsamples]
      · rw [State.noteDefers_intake, hopened, hop]
        exact Option.isSome_iff_exists.mpr ⟨_, tget?_tset_same _ _ _⟩
    · obtain ⟨r, hr⟩ := State.takeHeader_bad (s := w) (vc := v.val) (place := u.intake.nextPlace) (rest := []) (by rw [← hws]; exact hbad)
      rw [hr, if_neg (by simp)] at hgo
      set b : State := State.bump { w with intake := { w.intake with headers := tdel w.intake.headers v.val } } F.SAMPLE_CNT_REJECT with hb
      set c : State := b.sampleRecord r .crcFail 0xFFFFFFFF with hc
      obtain ⟨hci, hcg⟩ := b.sampleRecord_plain r (st := .crcFail) (by decide) 0xFFFFFFFF
      rw [← hc] at hci hcg
      have hsamples : c.intake.samples = s.intake.samples := by
        rw [hci]
        show u.intake.samples = _
        rw [hint]
      have hnum : c.giveNumbers = c := by
        refine State.giveNumbers_none (fun y hy => (hold y (hsamples ▸ hy)).1) ?_
        rw [State.noneDue, State.numbered, hsamples, hci]
        show ∀ y, s.intake.samples.find? (fun x => x.seq == some u.intake.nextOut) = some y → _
        rw [hint]
        exact hdue
      rw [hnum] at hgo
      refine ⟨_, hgo, ?_, ?_, ?_, ?_⟩
      · rw [State.noteDefers_get _ (by decide), hcg _ (by decide) (by decide), hb, State.bump, State.bumpBy,
          State.get_put_other _ _ _ _ _ _ _ _ (by decide)]
        exact hcredGet
      · rw [State.noteDefers_intake, hci]
        show u.intake.nextSeq = _
        rw [hint]
      · rw [State.noteDefers_intake, hsamples]
      · rw [State.noteDefers_get _ (by decide), hcg _ (by decide) (by decide), ← hrejGet]
        exact State.get_bumpBy w F.SAMPLE_CNT_REJECT 1 0 0 (by decide)
  case start =>
    intro s n x hl hx hj hd hst hne
    refine goes_samples hl (show execSampleDecodeStart n s = _ from rfl) ?_
    rw [hx]
    exact if_pos (by simp [hj, hd, hst, hne])
  case decoded =>
    intro s n x hl hx hst hapart
    have hmem : x ∈ s.intake.samples := List.mem_of_find?_eq_some hx
    have hseq : x.seq = some n := by simpa using List.find?_some hx
    have hgo : ∀ t, (if (Config.jpegFrame x.stream).any (fun f => !jpegAccepts f || f.width != x.width || f.height != x.height) = true then
        s.sampleDone x.place .badParam
        else (s.knowFile x).sampleReady x.place (x.jpegImg (s.get F.SAMPLE_FILL_FILL)) x.jpegShort) = t →
        Goes (.sampleDecodeDone n) s t.noteDefers := by
      rintro t rfl
      refine goes_samples hl (show execSampleDecodeDone n s = _ from rfl) ?_
      rw [hx]
      exact if_neg (not_not.mpr hst)
    refine ⟨_, hgo _ rfl, fun hbad => if_pos hbad, fun hgood => ?_⟩
    rw [hgood, if_neg Bool.false_ne_true]
    have happart : (s.knowFile x).placesApart := State.mapSample_apart (s := s) hapart _ fun _ => rfl
    obtain ⟨z, hz, hzseq⟩ : ∃ z, (s.knowFile x).sample? x.place = some z ∧ z.seq = x.seq := by
      rw [State.knowFile_eq, State.sample?_mapSample s (f := x.known) (fun _ => rfl), if_pos rfl, State.sample?_of_mem hapart hmem]
      exact ⟨_, rfl, rfl⟩
    obtain ⟨hregs, y, hy, hys, hrest⟩ := State.sampleReady_spec happart hz (x.jpegImg (s.get F.SAMPLE_FILL_FILL)) x.jpegShort
    exact ⟨hregs, y, hy, hys.trans (hzseq.trans hseq), hrest⟩
  case late =>
    intro s n x hl hx hlim hst
    refine goes_samples hl (show execSampleDecodeLimitExpire n s = _ from rfl) ?_
    rw [hx]
    exact if_pos ⟨hlim, hst⟩
  case noLimit =>
    intro s n hl hlim
    refine goes_samples hl (show execSampleDecodeLimitExpire n s = _ from rfl) ?_
    split
    · exact if_neg fun k => k.1 hlim
    · rfl
  case bobbin =>
    intro s x id hl hready hfree hx
    obtain ⟨hlo, hhi, hlow⟩ := State.freeSampleBob_spec hfree
    have hi : exec .sampleTakeBobbin s = onSamples s _ := (show execSampleTakeBobbin s = _ from rfl)
    refine ⟨hlo, hhi, hlow, fun hbad => ?_, fun hw ht => ?_⟩
    · refine goes_samples hl hi ?_
      rw [hready, hfree]
      refine if_pos ?_
      rcases hbad with k | k <;> simp [k]
    · obtain ⟨hbob, hsample⟩ := s.sampleTaken_spec hx id
      refine ⟨(s.sampleTaken x id).noteDefers, ?_⟩
      obtain ⟨r, hr⟩ := hbob
      rw [← State.noteDefers_bob] at hr
      rw [← State.noteDefers_sample] at hsample
      refine ⟨_, goes_samples hl hi ?_, ?_, ?_, ?_, hsample, rfl, rfl⟩
      · rw [hready, hfree]
        exact s.sampleRun_taken hw ht id
      all_goals rw [hr]
      · rfl
      · rfl

end Sys2Proof.Machine
end

section
/-! PROOF. The end of a batch step and the optimiser step. -/

namespace Sys2Proof.Machine
open Sys2Proof.Claims

/-! ### Rows and their units (R215, R222) -/

/-- Nothing but poison comes of a row whose input is poisoned. -/
theorem State.rowBlocks_none (s : State) (o : Arrivals) (p row : Nat) (b : Bobbin) (lives : Bool) (n k : Nat) :
    (s.rowBlocks o p row b lives n k none).2 = none := by
  induction n generalizing s k with
  | zero => rfl
  | succ n ih => exact ih _ _

theorem foldl_tset_isSome (l : List Nat) (m : Tbl Unit) (u : Nat) (h : u ∈ l ∨ (tget? m u).isSome = true) :
    (tget? (l.foldl (fun t k => tset t k ()) m) u).isSome = true := by
  induction l generalizing m with
  | nil => exact h.resolve_left List.not_mem_nil
  | cons k l ih =>
    refine ih _ ?_
    by_cases hk : u = k
    · right
      rw [hk, tget?_tset_same]
      rfl
    · rw [tget?_tset_other _ _ hk]
      exact h.imp (fun hm => (List.mem_cons.mp hm).resolve_left hk) id

theorem StepRun.members_length (st : StepRun) : st.members.length = st.rows.length := by
  rw [StepRun.members, List.length_map, List.length_zipIdx]

theorem StepRun.members_get (st : StepRun) {i : Nat} (h : i < st.rows.length) :
    st.members[i]? = some (st.rows.getD i 0, i, st.bobs.getD i {}) := by
  rw [StepRun.members, List.getElem?_map, List.getElem?_zipIdx, List.getElem?_eq_getElem h, List.getD_eq_getElem _ _ h]
  simp

/-! ### One token of a bobbin is done -/

theorem State.freeStage_only (s : State) (id : Nat) (which : Nat → Bool) :
    s.freeStage id which = { s with regs := (s.freeStage id which).regs, sched := (s.freeStage id which).sched } := rfl

theorem State.rowDone_eq {s : State} {id : Nat} (h : s.rowLives id = true) (hs : (s.bob id).sample = none) (o : Arrivals) (p e : Nat)
    (row : Option (List Word)) : s.rowDone o p e row id =
      (let u := (s.setBob id { s.bob id with done := (s.bob id).done + 1, member := false }).freeStage id (· == (s.bob id).done)
      let last := decide ((s.bob id).done + 1 = (s.bob id).tokens)
      if last ∨ e ≠ 0 then
        u.partHead id (headOf (s.rowHead o p id row).1.logits ((s.bob id).alarmed.contains (s.bob id).done)) last
      else u.setBob id { u.bob id with heads := (s.bob id).heads ++ [{}] }) := by
  unfold State.rowDone
  rw [if_neg (by rw [h]; exact Bool.false_ne_true)]
  dsimp only
  rw [hs]
  rfl

/-! ### The optimiser step starts (R254) -/

/-- When an optimiser step that starts now would be over, guard time included. -/
def State.optEnd (s : State) (p : Nat) : Int :=
  s.time.now + s.get F.SCHED_LEARN_OPT_TIME_NS p * nsUnit + usUnits (s.get F.SCHED_GUARD_US)

theorem State.noteDefer_free {s : State} {p : Nat} (h : ∀ x, s.partLatest p = some x → s.optEnd p ≤ x) : s.noteDefer p = s := by
  unfold State.noteDefer
  dsimp only
  refine if_neg ?_
  cases hx : s.partLatest p with
  | none => simp
  | some x =>
    have hle := h x hx
    unfold State.optEnd at hle
    simp [Int.not_lt.mpr hle]

theorem State.noteDefer_held {s : State} {p : Nat} (h : (s.part p).learn.held = true) : s.noteDefer p = s := by
  unfold State.noteDefer
  dsimp only
  exact if_neg (by simp [h])

theorem State.noteDefer_late {s : State} {p : Nat} {x : Int} (hdue : (s.part p).learn.due = true) (hmay : s.mayStep p = true)
    (hheld : (s.part p).learn.held = false) (hx : s.partLatest p = some x) (hlt : x < s.optEnd p) :
    s.noteDefer p = (s.mapLearn p fun l => { l with held := true }).bump F.SCHED_LEARN_CNT_DEFER p := by
  simp only [State.mayStep, Bool.and_eq_true] at hmay
  obtain ⟨⟨⟨hjob, hstep⟩, hrun⟩, -⟩ := hmay
  unfold State.noteDefer
  dsimp only
  refine if_pos ?_
  rw [hx]
  unfold State.optEnd at hlt
  have hrun' : (s.part p).learn.running = false := by simpa using hrun
  simp [hdue, hrun', hheld, hstep, beq_iff_eq.mp hjob, hlt]

theorem State.part_of_sched {s t : State} (h : t.sched = s.sched) (p : Nat) : t.part p = s.part p := by rw [State.part, h, State.part]

theorem State.takeSchedule_cases (s : State) (p : Nat) :
    s.takeSchedule p = s ∨ RegsAlone (s.setPart p { s.part p with switch := false }) (s.takeSchedule p) := by
  unfold State.takeSchedule
  split
  · exact .inl rfl
  · right
    dsimp only
    exact regsAlone_put (regsAlone_put (regsAlone_put (regsAlone_put (regsAlone_put
      (show RegsAlone (s.setPart p { s.part p with switch := false }) (s.setPart p { s.part p with switch := false }) from rfl)
      _ _ _ _) _ _ _ _) _ _ _ _) _ _ _ _) _ _ _ _

theorem State.takeSchedule_spec (s : State) (p : Nat) :
    s.takeSchedule p = { s with regs := (s.takeSchedule p).regs, sched := (s.takeSchedule p).sched } ∧
      ((s.takeSchedule p).part p).learn = (s.part p).learn := by
  rcases s.takeSchedule_cases p with h | h
  · rw [h]; exact ⟨rfl, rfl⟩
  · unfold RegsAlone at h
    have hsched : (s.takeSchedule p).sched = (s.setPart p { s.part p with switch := false }).sched := by rw [h]
    refine ⟨by rw [h]; rfl, ?_⟩
    rw [State.part_of_sched hsched, State.part_setPart]

theorem State.freshSchedule_spec (s : State) (p : Nat) :
    s.freshSchedule p = { s with regs := (s.freshSchedule p).regs, sched := (s.freshSchedule p).sched } ∧
      ((s.freshSchedule p).part p).learn = (s.part p).learn := by
  unfold State.freshSchedule
  split
  · exact s.takeSchedule_spec p
  · exact ⟨rfl, rfl⟩

theorem State.mapLearn_learn (s : State) (p : Nat) (f : Learn → Learn) : ((s.mapLearn p f).part p).learn = f (s.part p).learn :=
  congrArg Partition.learn (State.part_setPart s p _)

theorem State.mapLearn_only (s : State) (p : Nat) (f : Learn → Learn) : s.mapLearn p f = { s with sched := (s.mapLearn p f).sched } := rfl

/-- Segments given to looms change the looms and what shows of them. -/
theorem State.giveSegments_only (s : State) (k : Nat) (l : List Nat) : foldState (fun u n => u.giveSegment k n) s l =
    { s with regs := (foldState (fun u n => u.giveSegment k n) s l).regs,
             looms := (foldState (fun u n => u.giveSegment k n) s l).looms } := by
  refine foldState_keeps (P := fun t : State => t = { s with regs := t.regs, looms := t.looms }) (fun t n h => ?_) rfl l
  have hshow : ∀ f, t.mapLoom n f = { t with regs := (t.mapLoom n f).regs, looms := (t.mapLoom n f).looms } := fun f =>
    State.showLoom_alone (t.setLoom n (f (t.loom n))) n
  rw [State.giveSegment, hshow, h]

/-! ### What an optimiser step that diverges leaves (R255) -/

/-- A step that reads memory for a partition leaves the schedulers and whether the partition's learning diverges. -/
def LearnKept (p : Nat) (s t : State) : Prop :=
  t.sched = s.sched ∧ t.on F.SCHED_LEARN_CTRL_DIVERGED p = s.on F.SCHED_LEARN_CTRL_DIVERGED p

section
variable {p : Nat} {r s : State}

theorem learnKept_put (h : LearnKept p r s) {f : Fld} (v : Nat) {i : Nat} (hp : f.reg.addr i 0 < 0x3F00C04000 ∨ 0x3F01000000 ≤ f.reg.addr i 0)
    (hp8 : p < 8) : LearnKept p r (s.put f v i) := by
  refine ⟨h.1, ?_⟩
  have hne : F.SCHED_LEARN_CTRL_DIVERGED.reg.addr p 0 ≠ f.reg.addr i 0 := by
    simp only [F.SCHED_LEARN_CTRL_DIVERGED, R.SCHED_LEARN_CTRL, Reg.addr] at hp ⊢
    omega
  rw [← h.2, State.on, State.get_put_other _ _ _ _ _ _ _ _ hne, State.on]

theorem learnKept_fenceDue (h : LearnKept p r s) (x : List (Nat × Nat)) : LearnKept p r { s with fenceDue := x } := h

theorem learnKept_loomCorrection (h : LearnKept p r s) (hp : p < 8) (n : Nat) : LearnKept p r (s.loomCorrection n) := by
  have hcorr : 0x3F01000000 ≤ F.LOOM_CORR_COUNT.reg.addr n 0 := by simp only [F.LOOM_CORR_COUNT, R.LOOM_CORR, Reg.addr]; omega
  have ht : LearnKept p r (s.bump F.LOOM_CORR_COUNT n) := learnKept_put h _ (.inr hcorr) hp
  unfold State.loomCorrection
  dsimp only
  split
  · exact learnKept_fenceDue ht _
  · exact ht

theorem learnKept_corrected (h : LearnKept p r s) (hp : p < 8) (g d : Nat) : LearnKept p r (s.corrected .foreground g d) := by
  have hcnt : (corrCounter .foreground g).reg.addr 0 0 < 0x3F00C04000 := by unfold corrCounter; dsimp only; split <;> decide
  have hbump : LearnKept p r (State.bump { s with mem := s.mem.mend g } (corrCounter .foreground g)) :=
    learnKept_put (s := { s with mem := s.mem.mend g }) h _ (.inl hcnt) hp
  unfold State.corrected
  extract_lets t
  have ht : LearnKept p r t := hbump
  clear_value t
  split
  · exact learnKept_put (learnKept_put (learnKept_put ht _ (.inl (by decide)) hp) _ (.inl (by decide)) hp) _ (.inl (by decide)) hp
  · exact learnKept_loomCorrection ht hp _
  · exact ht

theorem learnKept_uncorrectable (h : LearnKept p r s) (hp : p < 8) (g : Nat) : LearnKept p r (s.uncorrectable .foreground g) := by
  have hcnt : (ueCounter .foreground g).reg.addr 0 0 < 0x3F00C04000 := by unfold ueCounter; dsimp only; split <;> decide
  have hbump : LearnKept p r (State.bump { s with mem := s.mem.markBad g } (ueCounter .foreground g)) :=
    learnKept_put (s := { s with mem := s.mem.markBad g }) h _ (.inl hcnt) hp
  have hlo := learnKept_put hbump (f := F.MEM_UE_ADDR_LO_ADDR) g (i := 0) (.inl (by decide)) hp
  have hhi := learnKept_put hlo (f := F.MEM_UE_ADDR_HI_ADDR) (g / 2 ^ 32) (i := 0) (.inl (by decide)) hp
  unfold State.uncorrectable
  extract_lets t
  have ht : LearnKept p r t := hhi
  clear_value t
  split
  · exact learnKept_fenceDue ht _
  · exact ht

theorem learnKept_touch (h : LearnKept p r s) (hp : p < 8) (g : Nat) : LearnKept p r (s.touch .foreground g) := by
  have hfound : LearnKept p r (s.found .foreground g) := by
    unfold State.found
    dsimp only
    split_ifs
    · split
      · exact learnKept_corrected h hp _ _
      · exact learnKept_uncorrectable h hp _
      · exact h
    · exact learnKept_uncorrectable h hp _
    · exact h
    · exact learnKept_uncorrectable h hp _
    · exact h
  unfold State.touch State.meet
  split
  · split
    · exact hfound
    · exact hfound
  · exact hfound

theorem learnKept_getItem (hp : p < 8) (s : State) (a : Area) (item n : Nat) : LearnKept p s (s.getItem a item n).1 :=
  foldState_keeps (P := LearnKept p s) (fun _ g h => learnKept_touch h hp g) ⟨rfl, rfl⟩ _

end

/-- Whether a partition's learning has diverged, with the parameters that it keeps. -/
def Diverged (p : Nat) (m w : List LearnPar) (s : State) : Prop :=
  s.on F.SCHED_LEARN_CTRL_DIVERGED p = true ∧ (s.part p).learn.master = m ∧ (s.part p).learn.working = w

section
variable {p : Nat} {m w : List LearnPar} {s : State}

theorem diverged_mapLearn (h : Diverged p m w s) {f : Learn → Learn} (hm : ∀ l, (f l).master = l.master) (hw : ∀ l, (f l).working = l.working) :
    Diverged p m w (s.mapLearn p f) := by
  obtain ⟨hon, hmas, hwork⟩ := h
  refine ⟨hon, ?_, ?_⟩
  · rw [State.mapLearn_learn, hm, hmas]
  · rw [State.mapLearn_learn, hw, hwork]

theorem diverged_put (h : Diverged p m w s) {f : Fld} (v : Nat)
    (hf : F.SCHED_LEARN_CTRL_DIVERGED.reg.addr p 0 ≠ f.reg.addr p 0) : Diverged p m w (s.put f v p) := by
  obtain ⟨hon, hrest⟩ := h
  refine ⟨?_, hrest⟩
  rw [State.on, State.get_put_other _ _ _ _ _ _ _ _ hf]
  exact hon

theorem learnCnt_apart (p : Nat) : F.SCHED_LEARN_CTRL_DIVERGED.reg.addr p 0 ≠ R.SCHED_LEARN_CNT.addr p 0 := by
  simp only [F.SCHED_LEARN_CTRL_DIVERGED, R.SCHED_LEARN_CTRL, R.SCHED_LEARN_CNT, Reg.addr]
  omega

theorem diverged_batchFull (h : Diverged p m w s) : Diverged p m w (s.batchFull p) := by
  have hput : Diverged p m w (s.put F.SCHED_LEARN_LOSS_LOSS (s.part p).learn.loss p) := by
    refine diverged_put h _ ?_
    simp only [F.SCHED_LEARN_CTRL_DIVERGED, R.SCHED_LEARN_CTRL, F.SCHED_LEARN_LOSS_LOSS, R.SCHED_LEARN_LOSS, Reg.addr]
    omega
  unfold State.batchFull
  dsimp only
  split
  · exact diverged_mapLearn hput (fun _ => rfl) fun _ => rfl
  · exact diverged_mapLearn hput (fun _ => rfl) fun _ => rfl

theorem Learn.add_kept (l : Learn) (k : Parked) : (l.add k).master = l.master ∧ (l.add k).working = l.working := by
  unfold Learn.add
  split <;> exact ⟨rfl, rfl⟩

theorem diverged_ite {c : Prop} [Decidable c] {t : State} (hs : Diverged p m w s) (ht : Diverged p m w t) :
    Diverged p m w (if c then s else t) := by
  split
  · exact hs
  · exact ht

theorem diverged_getItem (hp : p < 8) (h : Diverged p m w s) (a : Area) (item n : Nat) : Diverged p m w (s.getItem a item n).1 := by
  obtain ⟨hsched, hon⟩ := learnKept_getItem hp s a item n
  obtain ⟨hdiv, hmas, hwork⟩ := h
  refine ⟨hon.trans hdiv, ?_, ?_⟩
  · rw [State.part_of_sched hsched]; exact hmas
  · rw [State.part_of_sched hsched]; exact hwork

/-- The next samples of the mini-batch change neither the parameters nor DIVERGED. -/
theorem diverged_gatherNext (hp : p < 8) (n : Nat) (h : Diverged p m w s) : Diverged p m w (s.gatherNext p n) := by
  induction n generalizing s with
  | zero => exact h
  | succ n ih =>
    unfold State.gatherNext
    dsimp only
    split
    · exact h
    · split
      · exact h
      · split
        · exact h
        next _ place _ _ k _ =>
          have hread := diverged_getItem (s := s) hp h (s.learnArea p) (3 * place) (if k.gives then k.bytes else 0)
          have hadd : ∀ g : Bool, Diverged p m w ((s.getItem (s.learnArea p) (3 * place) (if k.gives then k.bytes else 0)).1.mapLearn p
              fun x => { x.add { k with gives := g } with
                parked := x.parked.filter (·.place != place), added := x.added + 1 }) := fun g =>
            diverged_mapLearn hread (fun l => (l.add_kept _).1) fun l => (l.add_kept _).2
          have hskip := fun g => diverged_put (hadd g) (f := F.SCHED_LEARN_CNT_SKIP)
          exact ih (diverged_ite (diverged_batchFull (diverged_ite (hadd _) (hskip _ _ (learnCnt_apart p))))
            (diverged_ite (hadd _) (hskip _ _ (learnCnt_apart p))))

end

theorem State.optDone_diverged (s : State) (p : Nat) (hp : p < 8) (h : ((s.part p).learn.step (s.info p).learn).sound = false) :
    Diverged p (s.part p).learn.master (s.part p).learn.working (s.optDone p) := by
  unfold State.optDone
  dsimp only
  rw [if_neg (by rw [h]; exact Bool.false_ne_true)]
  refine diverged_gatherNext hp _ (diverged_mapLearn ?_ (fun _ => rfl) fun _ => rfl)
  refine diverged_put ?_ _ (learnCnt_apart p)
  have hpart : ∀ f, (((s.mapLearn p f).putBit F.SCHED_LEARN_CTRL_DIVERGED true p).part p).learn = f (s.part p).learn := fun f => by
    rw [State.part_of_sched (t := (s.mapLearn p f).putBit F.SCHED_LEARN_CTRL_DIVERGED true p) (s := s.mapLearn p f) rfl,
      State.mapLearn_learn]
  refine ⟨State.on_putBit _ F.SCHED_LEARN_CTRL_DIVERGED true p 0 rfl (by decide), ?_, ?_⟩
  · rw [hpart]
  · rw [hpart]

/-! ### The obligation -/

theorem State.sig_congr {s : State} {p : Nat}
    (h : s.profile ≠ 3 ∨ ∀ m, s.jobModel p = some m → m.profile ≠ 3 ∨ m.info.float = false) (a b : Nat) : s.sig p a = s.sig p b := by
  have hoff : (s.profile == 3 && ((s.jobModel p).any fun m => m.profile == 3 && m.info.float)) = false := by
    rcases h with h | h
    · simp [h]
    · cases hm : s.jobModel p with
      | none => simp
      | some m => rcases h m hm with k | k <;> simp [k]
  unfold State.sig
  rw [hoff, if_neg Bool.false_ne_true, if_neg Bool.false_ne_true]

/-- Settles O38: the end of a batch step, the rows it has taken, and the optimiser step. -/
theorem stepEnds : Obligations.StepEnds := by
  unfold Obligations.StepEnds
  refine ⟨?done, fun s o p row id b => ?poisoned, fun s p => ⟨⟨_, rfl⟩, fun u hu => foldl_tset_isSome _ _ _ (.inl hu)⟩,
    fun st => ⟨st.members_length, fun i hi => st.members_get hi⟩, fun s p a b h => State.sig_congr h a b, ?idle, ?left, ?more, ?last,
    ?optStart, ?optLate, ?optIdle, ?optDone, ?optLeft, fun s p h => s.optDone_diverged p.val p.isLt h⟩
  case done =>
    intro s c d p j b h g o st r hl hst hruns hredo hleft ho hr hc hd
    have hi : exec (.batchStepDone p j b h g) s = onCore s _ := (show execBatchStepDone p j b h g s = _ from rfl)
    refine goes_onCore hl hi ?_
    dsimp only
    rw [hst]
    refine (if_neg (by simp [hruns, hredo, hleft])).trans ?_
    rw [hd, hc, hr, ho]
  case poisoned => exact State.rowBlocks_none s o p row b _ _ _
  case idle =>
    intro s p j b h g hl hno
    refine goes_onCore hl (show execBatchStepDone p j b h g s = _ from rfl) ?_
    dsimp only
    rcases hno with k | k
    · rw [k]
    · split
      · rfl
      · refine if_pos ?_
        rcases k with k | k | k <;> simp [k]
  case left =>
    intro s o p e id row h
    exact if_pos (by simp [h])
  case more =>
    intro s o p id row hlive hs hlt
    refine ⟨_, State.rowDone_eq hlive hs o p 0 row, ?_⟩
    dsimp only
    rw [if_neg (by simp; omega)]
    set b : Bobbin := { s.bob id with done := (s.bob id).done + 1, member := false } with hb
    set u : State := (s.setBob id b).freeStage id (· == (s.bob id).done) with hu
    have hbobs : u.bobs = tset s.bobs id b := rfl
    have hub : u.bob id = b := by rw [State.bob, hbobs, tgetD_tset_same]
    refine ⟨?_, ?_, ?_, fun j hj => ?_⟩
    · rw [State.bob_setBob, hub]
    · rw [State.bob_setBob, hub]
    · rw [State.bob_setBob]
      simp
    · show tget? (tset u.bobs id _) j = _
      rw [tget?_tset_other _ _ hj, hbobs, tget?_tset_other _ _ hj]
  case last =>
    rintro s u o p e id row hlive hs hlast rfl
    rw [State.rowDone_eq hlive hs]
    dsimp only
    rw [decide_eq_true hlast, if_pos (.inl rfl)]
  case optStart =>
    intro s p hl hdue hmay hfree
    have hnote : s.noteDefer p.val = s := State.noteDefer_free hfree
    obtain ⟨honly, hlearn⟩ := s.freshSchedule_spec p.val
    set a : State := (s.freshSchedule p.val).mapLearn p.val fun l => { l with
      running := true, due := false, held := false, hyper := (s.hyper p.val).list } with ha
    have hsegs := a.giveSegments_only 3 ((s.freshSchedule p.val).jobLooms p.val)
    set t : State := foldState (fun u n => u.giveSegment 3 n) a ((s.freshSchedule p.val).jobLooms p.val) with ht
    have hsched : t.sched = a.sched := by rw [hsegs]
    refine ⟨t, goes_onDevice hl (show execOptimiserStepStart p s = _ from rfl) ?_, ?_, ?_⟩
    · refine (if_pos (by simp [hdue, hmay])).trans ?_
      rw [hnote]
      refine if_pos ?_
      cases hx : s.partLatest p.val with
      | none => rfl
      | some x => exact decide_eq_true (hfree x hx)
    · rw [hsegs, ha, State.mapLearn_only, honly]
    · rw [State.part_of_sched hsched, ha, State.mapLearn_learn, hlearn]
  case optLate =>
    intro s p x hl hdue hmay hx hlt
    have hbusy : decide (s.optEnd p.val ≤ x) = false := decide_eq_false (Int.not_le.mpr hlt)
    have hgo : Goes (.optimiserStepStart p) s (s.noteDefer p.val) := by
      refine goes_onDevice hl (show execOptimiserStepStart p s = _ from rfl) ?_
      refine (if_pos (by simp [hdue, hmay])).trans ?_
      rw [hx]
      exact if_neg (by simpa using hlt)
    refine ⟨fun hheld => ?_, fun hheld => ?_⟩
    · rwa [State.noteDefer_held hheld] at hgo
    · rwa [State.noteDefer_late hdue hmay hheld hx hlt] at hgo
  case optIdle =>
    intro s p hl hno
    refine goes_onDevice hl (show execOptimiserStepStart p s = _ from rfl) (if_neg ?_)
    rcases hno with k | k <;> simp [k]
  case optDone =>
    rintro s t p hl hrun hruns hredo hleft rfl x rfl
    exact goes_onCore hl (show execOptimiserStepDone p s = _ from rfl) (if_pos ⟨hrun, hruns, hredo, hleft⟩)
  case optLeft =>
    intro s p hl hno
    refine goes_onCore hl (show execOptimiserStepDone p s = _ from rfl) (if_neg ?_)
    rintro ⟨hrun, hruns, hredo, hleft⟩
    rcases hno with k | k | k | k
    · rw [hrun] at k; cases k
    · rw [hruns] at k; cases k
    · rw [hredo] at k; cases k
    · rw [hleft] at k; cases k

end Sys2Proof.Machine
end

section
/-! PROOF. What the loom instructions compute. -/

namespace Sys2Proof.Machine
open Sys2Proof.Claims

/-! ### A pass (R156 to R159) -/

theorem overflows48_iff (z : Int) : overflows48 z = true ↔ z < -2 ^ 47 ∨ 2 ^ 47 ≤ z := by
  rw [overflows48, Bool.or_eq_true, decide_eq_true_iff, decide_eq_true_iff]

/-- The sum of a pass of an integer or codebook mode. -/
def Reading.total (r : Reading) (ts : List Term) : Int := (ts.map fun t => r.wInt t.entry t.w * r.aInt (t.a.getD 0)).sum

theorem joinPass_int {r : Reading} (h : modeFloat r.mode = false) (tree : Bool) (acc : Acc) (ts : List Term) :
    joinPass r tree acc ts =
      ({ float := false, sum := acc.sum + r.total ts,
         bad := (acc.bad || ts.any fun t => t.a.isNone || t.bad) || overflows48 (acc.sum + r.total ts) },
       { poison := acc.bad || ts.any fun t => t.a.isNone || t.bad, ovf := overflows48 (acc.sum + r.total ts) }) := by
  unfold joinPass
  rw [h]
  rfl

/-- Terms of which none is poisoned. -/
theorem terms_clean {ts : List Term} :
    (ts.any fun t => t.a.isNone || t.bad) = false ↔ ∀ t ∈ ts, t.a.isSome = true ∧ t.bad = false := by
  rw [List.any_eq_false]
  refine forall₂_congr fun t _ => ?_
  cases t.a <;> simp

theorem floatPass_fold {acc : Nat} {ts : List (FpVal × FpVal)} (h : ∀ t ∈ ts, t.1.special = false ∧ t.2.special = false) :
    (floatPass false acc ts).1 = ts.foldl (fun a t => fmaVal t.1 t.2 (val32 a)) acc := by
  have hno : (ts.any fun t => t.1.special || t.2.special) = false :=
    List.any_eq_false.mpr fun t ht => by simp [h t ht]
  have hfold : ∀ (l : List (FpVal × FpVal)) (a : Nat) (b : Bool),
      (l.foldl (fun (a : Nat × Bool) t => (fmaVal t.1 t.2 (val32 a.1), a.2 || isInf32 (fmaVal t.1 t.2 (val32 a.1)))) (a, b)).1 =
        l.foldl (fun a t => fmaVal t.1 t.2 (val32 a)) a := by
    intro l
    induction l with
    | nil => exact fun _ _ => rfl
    | cons t l ih => exact fun a b => ih _ _
  unfold floatPass
  dsimp only
  rw [hno, if_neg Bool.false_ne_true, if_neg Bool.false_ne_true]
  exact hfold ts acc false

/-- A float pass whose terms are all numbers takes them in order, one rounding each. -/
theorem joinPass_float {r : Reading} {acc : Acc} {ts : List Term} (h : modeFloat r.mode = true)
    (hts : ∀ t ∈ ts, t.a.isSome = true ∧ t.bad = false ∧ ((r.fmt r.aE5M2).val (t.a.getD 0)).special = false ∧
      ((r.fmt r.wE5M2).val t.w).special = false) :
    (joinPass r false acc ts).1.sum = (ts.foldl (fun (a : Nat) t =>
      fmaVal ((r.fmt r.aE5M2).val (t.a.getD 0)) ((r.fmt r.wE5M2).val t.w) (val32 a)) acc.sum.toNat : Nat) := by
  have hlive : ((ts.zip (ts.map fun t => ((r.fmt r.aE5M2).val (t.a.getD 0), (r.fmt r.wE5M2).val t.w))).filter
      fun e => e.1.a.isSome && !e.1.bad).map (·.2) =
        ts.map fun t => ((r.fmt r.aE5M2).val (t.a.getD 0), (r.fmt r.wE5M2).val t.w) := by
    rw [List.filter_eq_self.mpr, List.map_snd_zip (by simp)]
    intro e he
    obtain ⟨h1, h2, -⟩ := hts e.1 (List.of_mem_zip he).1
    simp [h1, h2]
  unfold joinPass
  rw [h, if_pos rfl]
  dsimp only
  rw [hlive, floatPass_fold, List.foldl_map]
  intro t ht
  obtain ⟨u, hu, rfl⟩ := List.mem_map.mp ht
  exact (hts u hu).2.2

/-! ### Tiles and their terms (R161, R164, R166) -/

theorem getD_map_range {α : Type} (f : Nat → α) {i n : Nat} (h : i < n) (d : α) : ((List.range n).map f).getD i d = f i := by
  rw [List.getD_eq_getElem?_getD, List.getElem?_map, List.getElem?_range h]
  rfl

theorem tileCells_get {mode rows cols i j : Nat} (hi : i < rows) (hj : j < cols) (d : Data) :
    ((tileCells mode rows cols d).getD i [])[j]? =
      some (((packedAt (wBits mode) d (i * cols + j)).map fun c => (c, false)).getD (0, true)) := by
  rw [tileCells, getD_map_range _ hi, List.getElem?_map, List.getElem?_range hj, Option.map_some]
  cases packedAt (wBits mode) d (i * cols + j) <;> rfl

section
variable {x : MmIns} {l : Loom} {n o i : Nat} {t : Tile}

theorem MmIns.terms_get (hi : i < x.len) (v : Data) : (x.terms l n t v o)[i]? = some
    { a := packedAt (8 * aBytes x.rd.mode) v i, w := (x.cell l n t o i).1, entry := (x.cell l n t o i).2.1, bad := (x.cell l n t o i).2.2 } := by
  rw [MmIns.terms, List.getElem?_map, List.getElem?_range hi]
  rfl

variable {c : Nat} {b : Bool}

/-- The cell of a term that the load of its tile has written. -/
theorem MmIns.cell_plain (hc : (t.cells.getD (if x.weft then o else i) [])[if x.weft then i else o]? = some (c, b))
    (hm : modeBook x.rd.mode = false) : x.cell l n t o i = (c, 0, b) := by
  unfold MmIns.cell
  dsimp only
  rw [hc, hm]
  rfl

theorem MmIns.cell_book (hc : (t.cells.getD (if x.weft then o else i) [])[if x.weft then i else o]? = some (c, b))
    (hm : modeBook x.rd.mode = true) : x.cell l n t o i =
      (c, (l.entry n (x.first + if x.weft then i else o) c).1, b || (l.entry n (x.first + if x.weft then i else o) c).2) := by
  unfold MmIns.cell
  dsimp only
  rw [hc, hm]
  rfl

end

/-- The pass of one output. -/
def MmIns.pass (x : MmIns) (tree : Bool) (l : Loom) (n : Nat) (t : Tile) (m : Nat) (v : Data) (o : Nat) : Acc × Faults :=
  joinPass x.rd tree (if x.accIn then tgetD l.accs (x.acc m o) (freshAcc x.rd.mode) else freshAcc x.rd.mode) (x.terms l n t v o)

theorem MmIns.rowAccs_list (x : MmIns) (tree : Bool) (l : Loom) (n : Nat) (t : Tile) (m : Nat) (v : Data) :
    (x.rowAccs tree l n t m v).1 = (List.range x.outs).map fun o => (x.pass tree l n t m v o).1 := by
  have hfold : ∀ (os : List Nat) (a : List Acc × Faults), (os.foldl (fun (a : List Acc × Faults) o =>
      (a.1 ++ [(x.pass tree l n t m v o).1], a.2.join (x.pass tree l n t m v o).2)) a).1 =
        a.1 ++ os.map fun o => (x.pass tree l n t m v o).1 := by
    intro os
    induction os with
    | nil => exact fun a => (List.append_nil _).symm
    | cons o os ih =>
      intro a
      rw [List.foldl_cons, ih, List.map_cons, List.append_assoc]
      rfl
  exact hfold _ _

/-! ### The epilogue (R175, R176) -/

theorem epilogue_bad (epi : Nat) {cs : List Acc} (h : ∃ c ∈ cs, c.bad = true) : epilogue epi cs = cs.map fun _ => none :=
  if_pos (List.any_eq_true.mpr h)

theorem epilogue_good (epi : Nat) {cs : List Acc} (h : ∀ c ∈ cs, c.bad = false) :
    epilogue epi cs = (vecRun (Config.vecProgram epi) (cs.map (·.word))).map some :=
  if_neg (by rw [Bool.not_eq_true, List.any_eq_false]; exact fun c hc => by rw [h c hc]; exact Bool.false_ne_true)

/-! ### The taps of a convolution (R182, R183, R185) -/

theorem ConvIns.tap_eq (x : ConvIns) (ox oy kx ky : Nat) : x.tap ox oy kx ky =
    x.source (x.stride * ox - x.padL + x.dil * kx) (x.stride * oy - x.padT + x.dil * ky) := by
  unfold ConvIns.tap
  push_cast
  rfl

/-- The terms of all slices and taps of one output. -/
theorem ConvIns.acc_sum (x : ConvIns) (h : modeFloat x.rd.mode = false) (m : Memory) (l : Loom) (tree : Bool) (n : Nat) (w : Data)
    (ox oy oc : Nat) : (x.acc m l tree n w ox oy oc).1.sum = (((List.range x.slices).flatMap fun sl => (List.range x.k).flatMap fun ky =>
      (List.range x.k).map fun kx => x.rd.total (x.terms m l n w ox oy oc sl ky kx)).sum) := by
  have hfold : ∀ (es : List (Nat × Nat × Nat)) (a : Acc × Faults), (es.foldl (fun (a : Acc × Faults) (e : Nat × Nat × Nat) =>
      let r := joinPass x.rd (tree && !x.dw) a.1 (x.terms m l n w ox oy oc e.1 e.2.1 e.2.2)
      (r.1, a.2.join r.2)) a).1.sum = a.1.sum + (es.map fun e => x.rd.total (x.terms m l n w ox oy oc e.1 e.2.1 e.2.2)).sum := by
    intro es
    induction es with
    | nil => exact fun a => (Int.add_zero _).symm
    | cons e es ih =>
      intro a
      rw [List.foldl_cons, ih, List.map_cons, List.sum_cons, ← Int.add_assoc]
      dsimp only
      rw [joinPass_int h]
  unfold ConvIns.acc
  rw [hfold, freshAcc, Int.zero_add, List.map_flatMap]
  simp only [List.map_flatMap, List.map_map, Function.comp_def]

/-! ### What the bookkeeping of an instruction leaves (R169, R170, R173, R230, R232) -/

section
variable (s : State) (n : Nat)

theorem State.noteFault_mem (g k : Nat) (err : Fld) (met : Bool) : (s.noteFault n g k err met).mem = s.mem := by
  cases met <;> rfl

theorem State.noteFault_looms (g k : Nat) (err : Fld) (met : Bool) : (s.noteFault n g k err met).looms = s.looms := by
  cases met <;> rfl

theorem State.arrayStatus_mem (g tag : Nat) (st : Status) (f : Faults) : (s.arrayStatus n g tag st f).mem = s.mem := by
  unfold State.arrayStatus
  dsimp only
  split_ifs <;> simp only [State.noteFault_mem, State.putBit_mem, State.put_mem]

theorem State.arrayStatus_looms (g tag : Nat) (st : Status) (f : Faults) : (s.arrayStatus n g tag st f).looms = s.looms := by
  unfold State.arrayStatus
  dsimp only
  split_ifs <;> simp only [State.noteFault_looms, State.putBit_looms, State.put_looms]

theorem State.arrayStatus_loom (g tag : Nat) (st : Status) (f : Faults) : (s.arrayStatus n g tag st f).loom n = s.loom n := by
  rw [State.loom, State.arrayStatus_looms, State.loom]

theorem State.countPasses_mem (passes products : Nat) : (s.countPasses n passes products).mem = s.mem := rfl

theorem State.countPasses_accs (passes products : Nat) : ((s.countPasses n passes products).loom n).accs = (s.loom n).accs := by
  unfold State.countPasses
  dsimp only
  rw [State.loom, State.put_looms, State.put_looms, State.bumpWrap_looms, ← State.loom, State.loom_setLoom]

theorem State.countConv_mem (nans : Nat) (invalid : Bool) : (s.countConv n nans invalid).mem = s.mem := by
  unfold State.countConv
  dsimp only
  split <;> rfl

theorem State.countConv_looms (nans : Nat) (invalid : Bool) : (s.countConv n nans invalid).looms = s.looms := by
  unfold State.countConv
  dsimp only
  split <;> rfl

theorem State.gather_mem (q : QIns) (first : Nat) (rows : List (List (Option Word))) : (s.gather n q first rows).mem = s.mem := by
  unfold State.gather
  dsimp only
  split
  · split_ifs <;> rfl
  · rfl

theorem State.gather_looms (q : QIns) (first : Nat) (rows : List (List (Option Word))) :
    (s.gather n q first rows).looms = s.looms := by
  unfold State.gather
  dsimp only
  split
  · split_ifs <;> rfl
  · rfl

variable {n} {q : QIns} {rows : List (List (Option Word))} {place : State → List Data → State}

/-- Of the memory a conversion changes what its rows' places take. -/
theorem State.convert_mem : (s.convert n q rows place).mem = (place s (rows.map fun r => (auxStore q.aux r).1)).mem := by
  unfold State.convert
  dsimp only
  rw [State.gather_mem, State.countConv_mem, List.map_map]
  rfl

theorem State.convert_looms : (s.convert n q rows place).looms = (place s (rows.map fun r => (auxStore q.aux r).1)).looms := by
  unfold State.convert
  dsimp only
  rw [State.gather_looms, State.countConv_looms, List.map_map]
  rfl

end

theorem MemKept.looms {s t : State} (h : MemKept s t) : t.looms = s.looms := by rw [h.1]

theorem State.writeRows_kept (n base stride : Nat) (s : State) (ds : List Data) : MemKept s (State.writeRows n base stride s ds) :=
  foldState_kept (f := fun (u : State) (e : Data × Nat) => u.writeData (scratch n (base + e.2 * stride)) (rowData e.1))
    (fun t _ => State.writeData_kept t _ _) s _

/-! ### WLOAD (R161, R173) -/

theorem State.mapGroup_group (s : State) (n g : Nat) (f : Group → Group) :
    ((s.mapGroup n g f).loom n).group g = f ((s.loom n).group g) := by
  have h : (s.mapGroup n g f).loom n = { s.loom n with groups := tset (s.loom n).groups g (f ((s.loom n).group g)) } :=
    State.loom_setLoom _ _ _
  rw [h, Loom.group, tgetD, tget?_tset_same]

/-- A WLOAD fills its group's back registers with its tile. -/
theorem State.runWload_fills {s : State} {n : Nat} {q : QIns} (d : Data) (h : wloadOk q.words = true) : (s.runWload n q d).2 = .done ∧
    (((s.runWload n q d).1.loom n).group (fld q.words 0 6 2)).back = some (wloadTile q.words d) := by
  unfold State.runWload
  dsimp only
  rw [if_pos h]
  refine ⟨rfl, ?_⟩
  rw [State.arrayStatus_loom, State.mapGroup_group]

/-! ### MM and MMT (R157 to R173) -/

theorem State.readRows_length (s : State) (stride len m a : Nat) : (s.readRows stride len m a).2.length = m := by
  induction m generalizing s a with
  | zero => rfl
  | succ m ih => exact congrArg Nat.succ (ih _ _)

theorem Faults.any_join (f g : Faults) : (f.join g).any = (f.any || g.any) := by
  cases f; cases g
  simp only [Faults.join, Faults.any]
  ac_rfl

/-- What a list of passes meets together. -/
theorem Faults.any_foldl {α : Type} (g : α → Faults) (l : List α) (f : Faults) :
    (l.foldl (fun (f : Faults) r => f.join (g r)) f).any = (f.any || l.any fun r => (g r).any) := by
  induction l generalizing f with
  | nil => exact (Bool.or_false _).symm
  | cons r l ih => rw [List.foldl_cons, ih, Faults.any_join, List.any_cons, Bool.or_assoc]

theorem Faults.any_parity (b : Bool) : ({ wpar := b } : Faults).any = b := by cases b <;> rfl

section
variable {x : MmIns} {ws : List Word} {aux : Aux}

/-- An accumulator's key names its row and its output. -/
theorem MmIns.acc_inj {m m' o o' : Nat} (h : x.first + x.outs ≤ 64) (ho : o < x.outs) (ho' : o' < x.outs) :
    x.acc m o = x.acc m' o' ↔ m = m' ∧ o = o' := by
  unfold MmIns.acc
  omega

/-- The outputs of a valid instruction lie in its group's columns. -/
theorem MmIns.outs_le (h : x.ok ws aux = true) : x.first + x.outs ≤ 64 := by
  simp only [MmIns.ok, Bool.and_eq_true, decide_eq_true_iff, Bool.not_eq_true', Bool.and_eq_false_iff, bne_eq_false_iff_eq] at h
  obtain ⟨⟨⟨⟨⟨⟨⟨⟨⟨⟨⟨⟨⟨⟨⟨⟨-, hsplit⟩, hgroup⟩, -⟩, -⟩, -⟩, -⟩, hrows⟩, -⟩, hcols⟩, -⟩, -⟩, -⟩, -⟩, hweft⟩, -⟩, -⟩ := h
  unfold MmIns.first MmIns.outs
  have hs : x.split = 0 ∨ x.split = 1 ∨ x.split = 2 := by omega
  rcases hweft with hw | hw
  · rw [hw, if_neg Bool.false_ne_true]
    rcases hs with hs | hs | hs <;> rw [hs] at hgroup hcols ⊢
    · rw [show groupWidth 0 = 64 from rfl] at *
      rw [show groupCount 0 = 1 from rfl] at hgroup
      omega
    · rw [show groupWidth 1 = 32 from rfl] at *
      rw [show groupCount 1 = 2 from rfl] at hgroup
      omega
    · rw [show groupWidth 2 = 16 from rfl] at *
      rw [show groupCount 2 = 4 from rfl] at hgroup
      omega
  · rw [hw] at hgroup ⊢
    have hg : x.group = 0 := Nat.lt_one_iff.mp hgroup
    rw [hg, Nat.zero_mul, Nat.zero_add]
    split_ifs
    · exact hrows
    · rw [hw] at hcols; exact hcols

/-- What a run of writes to a table leaves under a key that it writes, if all that it writes there is the same. -/
theorem tget?_foldl_tset {α β : Type} (key : β → Nat) (val : β → α) {k : Nat} {v : α} (l : List β) (b : Tbl α)
    (hv : ∀ e ∈ l, key e = k → val e = v) (h : (∃ e ∈ l, key e = k) ∨ tget? b k = some v) :
    tget? (l.foldl (fun b e => tset b (key e) (val e)) b) k = some v := by
  induction l generalizing b with
  | nil => exact h.resolve_left fun ⟨e, he, _⟩ => absurd he List.not_mem_nil
  | cons e l ih =>
    refine ih _ (fun f hf => hv f (List.mem_cons_of_mem _ hf)) ?_
    by_cases hk : key e = k
    · exact .inr (by dsimp only; rw [hv e List.mem_cons_self hk, hk, tget?_tset_same])
    · dsimp only
      rw [tget?_tset_other _ _ (Ne.symm hk)]
      refine h.imp_left fun ⟨f, hf, hfk⟩ => ⟨f, (List.mem_cons.mp hf).resolve_left ?_, hfk⟩
      rintro rfl
      exact hk hfk

/-- The accumulators that an instruction's rows store. -/
theorem MmIns.keepAccs_get (h : x.first + x.outs ≤ 64) {rows : List (List Acc)} (hrows : ∀ r ∈ rows, r.length = x.outs)
    (old : Tbl Acc) {m o : Nat} {r : List Acc} {c : Acc} (hr : rows[m]? = some r) (hc : r[o]? = some c) :
    tget? (x.keepAccs old rows) (x.acc m o) = some c := by
  have hflat : x.keepAccs old rows = (rows.zipIdx.flatMap fun r => r.1.zipIdx.map fun e => (r.2, e)).foldl
      (fun b (e : Nat × Acc × Nat) => tset b (x.acc e.1 e.2.2) e.2.1) old := by
    unfold MmIns.keepAccs
    rw [List.foldl_flatMap]
    simp only [List.foldl_map]
  have hlt : ∀ {r : List Acc} {o : Nat} {c : Acc}, r ∈ rows → r[o]? = some c → o < x.outs := fun hr hc =>
    hrows _ hr ▸ (List.getElem?_eq_some_iff.mp hc).1
  rw [hflat]
  refine tget?_foldl_tset (fun e : Nat × Acc × Nat => x.acc e.1 e.2.2) (fun e => e.2.1) _ old ?_
    (.inl ⟨(m, c, o), List.mem_flatMap.mpr ⟨(r, m), List.mem_zipIdx_iff_getElem?.mpr hr,
      List.mem_map.mpr ⟨(c, o), List.mem_zipIdx_iff_getElem?.mpr hc, rfl⟩⟩, rfl⟩)
  intro e he hk
  obtain ⟨⟨r', m'⟩, hr', he⟩ := List.mem_flatMap.mp he
  obtain ⟨⟨c', o'⟩, hc', rfl⟩ := List.mem_map.mp he
  rw [List.mem_zipIdx_iff_getElem?] at hr' hc'
  obtain ⟨hm, ho⟩ := (MmIns.acc_inj h (hlt (List.mem_of_getElem? hr') hc') (hlt (List.mem_of_getElem? hr) hc)).mp hk
  have hreq : r' = r := by
    rw [show m' = m from hm, hr] at hr'
    exact (Option.some.inj hr').symm
  rw [hreq, show o' = o from ho, hc] at hc'
  exact (Option.some.inj hc').symm

end

/-- What an MM or MMT meets. -/
def passMet (aux : Aux) (rs : List (List Acc × Faults)) : Faults := rs.foldl (fun (f : Faults) r => f.join r.2) { wpar := aux.parity }

/-- The accumulators that an MM or MMT keeps: poisoned where it has met a fault. -/
def passRows (bad : Bool) (rs : List (List Acc × Faults)) : List (List Acc) :=
  rs.map fun r => if bad then r.1.map fun (c : Acc) => { c with bad := true } else r.1

theorem passMet_any (aux : Aux) (rs : List (List Acc × Faults)) :
    (passMet aux rs).any = (aux.parity || rs.any fun r => r.2.any) := by
  rw [passMet, Faults.any_foldl (g := fun r : List Acc × Faults => r.2), Faults.any_parity]

theorem passRows_false (rs : List (List Acc × Faults)) : passRows false rs = rs.map (·.1) := rfl

/-- The state once the accumulators are stored. -/
def State.accsKept (s : State) (n : Nat) (x : MmIns) (rows : List (List Acc)) : State :=
  (s.setLoom n { s.loom n with accs := x.keepAccs (s.loom n).accs rows }).putBit F.LOOM_ARRAY_CFG_AXIS x.weft n

/-- The state once the output rows are stored. -/
def State.rowsOut (s : State) (n : Nat) (x : MmIns) (q : QIns) (rows : List (List Acc)) : State :=
  if x.accOut then s.convert n q (rows.map (epilogue x.epi)) (State.writeRows n x.oBase q.aux.stride) else s

theorem State.accsKept_accs (s : State) (n : Nat) (x : MmIns) (rows : List (List Acc)) :
    ((s.accsKept n x rows).loom n).accs = x.keepAccs (s.loom n).accs rows := by
  rw [State.accsKept, State.loom, State.putBit_looms, ← State.loom, State.loom_setLoom]

theorem State.rowsOut_looms (s : State) (n : Nat) (x : MmIns) (q : QIns) (rows : List (List Acc)) :
    (s.rowsOut n x q rows).looms = s.looms := by
  unfold State.rowsOut
  split_ifs
  · rw [State.convert_looms, (State.writeRows_kept _ _ _ _ _).looms]
  · rfl

section
variable {s a : State} {n : Nat} {x : MmIns} {q : QIns} {t : Tile} {vs : State × List Data} {rs : List (List Acc × Faults)}

theorem State.mmPass_eq (ha : a = (if x.keep then s else s.swapIn n x.group x.first (groupWidth x.split) t))
    (hvs : vs = a.readRows x.aStride x.vecBytes x.m (scratch n x.aBase))
    (hrs : rs = vs.2.zipIdx.map (fun e => x.rowAccs (s.profile == 2) (a.loom n) n t e.2 e.1)) :
    s.mmPass n x q t = let rows := passRows (passMet q.aux rs).any rs
      let st : Status := if (passMet q.aux rs).any then .poisoned else .done
      ((((vs.1.accsKept n x rows).rowsOut n x q rows).countPasses n 1 (x.m * x.rows * x.cols * slotTime x.rd.mode)).arrayStatus n x.group
        x.tag st (passMet q.aux rs), st) := by
  subst hrs hvs ha
  rfl

/-- The accumulators after a pass, and the memory. -/
theorem State.mmPass_left (ha : a = (if x.keep then s else s.swapIn n x.group x.first (groupWidth x.split) t))
    (hvs : vs = a.readRows x.aStride x.vecBytes x.m (scratch n x.aBase))
    (hrs : rs = vs.2.zipIdx.map (fun e => x.rowAccs (s.profile == 2) (a.loom n) n t e.2 e.1)) {rows : List (List Acc)}
    (hrows : rows = passRows (passMet q.aux rs).any rs) :
    (s.mmPass n x q t).2 = (if (passMet q.aux rs).any then .poisoned else .done) ∧
    (((s.mmPass n x q t).1).loom n).accs = x.keepAccs (vs.1.loom n).accs rows ∧
    (s.mmPass n x q t).1.mem = ((vs.1.accsKept n x rows).rowsOut n x q rows).mem := by
  rw [State.mmPass_eq ha hvs hrs, ← hrows]
  refine ⟨rfl, ?_, ?_⟩
  · dsimp only
    rw [State.arrayStatus_loom, State.countPasses_accs, State.loom, State.rowsOut_looms, ← State.loom, State.accsKept_accs]
  · dsimp only
    rw [State.arrayStatus_mem, State.countPasses_mem]

theorem State.runMm_pass (hx : x = mmIns q.words) (hok : x.ok q.words q.aux = true)
    (ht : (if x.keep then ((s.loom n).group x.group).front else ((s.loom n).group x.group).back) = some t)
    (hm : t.mode = x.rd.mode) (hs : t.split = x.split) (hc : x.classOk (s.loom n).accs = true) :
    s.runMm n q = s.mmPass n x q t := by
  unfold State.runMm
  rw [← hx]
  dsimp only
  rw [hok, if_neg (by simp), ht]
  dsimp only
  rw [if_neg (by simp [hm, hs]), hc, if_neg (by simp)]

/-- Row `m` of a pass. -/
theorem rs_get (hvs : vs = a.readRows x.aStride x.vecBytes x.m (scratch n x.aBase)) {tree : Bool}
    (hrs : rs = vs.2.zipIdx.map (fun e => x.rowAccs tree (a.loom n) n t e.2 e.1)) {m o : Nat} (hm : m < x.m) (ho : o < x.outs) :
    ∃ r c, rs[m]? = some r ∧ r.1[o]? = some c := by
  have hlen : m < vs.2.length := by rw [hvs, State.readRows_length]; exact hm
  have hr : rs[m]? = some (x.rowAccs tree (a.loom n) n t m vs.2[m]) := by
    rw [hrs, List.getElem?_map, List.getElem?_zipIdx, List.getElem?_eq_getElem hlen, Option.map_some, Option.map_some, Nat.zero_add]
  refine ⟨_, (x.pass tree (a.loom n) n t m vs.2[m] o).1, hr, ?_⟩
  rw [MmIns.rowAccs_list, List.getElem?_map, List.getElem?_range ho, Option.map_some]

/-- Every row of a pass has its outputs. -/
theorem passRows_length {tree : Bool} (hrs : rs = vs.2.zipIdx.map (fun e => x.rowAccs tree (a.loom n) n t e.2 e.1)) (bad : Bool) :
    ∀ r ∈ passRows bad rs, r.length = x.outs := by
  intro r hr
  obtain ⟨p, hp, rfl⟩ := List.mem_map.mp hr
  obtain ⟨e, -, rfl⟩ := List.mem_map.mp (hrs ▸ hp)
  cases bad <;> simp [MmIns.rowAccs_list]

/-- An MM or MMT that meets no fault. -/
theorem State.runMm_done (hx : x = mmIns q.words) (hok : x.ok q.words q.aux = true)
    (ht : (if x.keep then ((s.loom n).group x.group).front else ((s.loom n).group x.group).back) = some t)
    (hm : t.mode = x.rd.mode) (hs : t.split = x.split) (hc : x.classOk (s.loom n).accs = true)
    (ha : a = (if x.keep then s else s.swapIn n x.group x.first (groupWidth x.split) t))
    (hvs : vs = a.readRows x.aStride x.vecBytes x.m (scratch n x.aBase))
    (hrs : rs = vs.2.zipIdx.map (fun e => x.rowAccs (s.profile == 2) (a.loom n) n t e.2 e.1))
    (hp : q.aux.parity = false) (hclean : ∀ r ∈ rs, r.2.any = false) : ∃ u, s.runMm n q = (u, .done) ∧
      (∀ m o, m < x.m → o < x.outs → ∃ r c, rs[m]? = some r ∧ r.1[o]? = some c ∧ tget? (u.loom n).accs (x.acc m o) = some c) ∧
      (x.accOut = false → u.mem = vs.1.mem) ∧
      (x.accOut = true → ∀ b : State, b = State.putBit (vs.1.setLoom n { vs.1.loom n with accs := (u.loom n).accs })
          F.LOOM_ARRAY_CFG_AXIS x.weft n →
        u.mem = (State.writeRows n x.oBase q.aux.stride b (rs.map fun r => (auxStore q.aux (epilogue x.epi r.1)).1)).mem) := by
  have hany : (passMet q.aux rs).any = false := by
    rw [passMet_any, hp, Bool.false_or, List.any_eq_false]
    exact fun r hr => by rw [hclean r hr]; exact Bool.false_ne_true
  obtain ⟨hst, haccs, hmem⟩ := State.mmPass_left (q := q) ha hvs hrs rfl
  rw [hany] at hst haccs hmem
  rw [State.runMm_pass hx hok ht hm hs hc]
  refine ⟨_, Prod.ext rfl hst, fun m o hlt ho => ?_, fun hout => ?_, fun hout b hb => ?_⟩
  · obtain ⟨r, c, hr, hcell⟩ := rs_get hvs hrs hlt ho
    refine ⟨r, c, hr, hcell, ?_⟩
    rw [haccs]
    exact MmIns.keepAccs_get (MmIns.outs_le hok) (passRows_length hrs false) _ (by rw [passRows_false, List.getElem?_map, hr]; rfl) hcell
  · rw [hmem, State.rowsOut, hout, if_neg Bool.false_ne_true]
    rfl
  · rw [haccs] at hb
    rw [hmem, State.rowsOut, hout, if_pos rfl, State.convert_mem, hb, passRows_false, List.map_map, List.map_map]
    rfl

/-- An MM or MMT that meets a fault. -/
theorem State.runMm_poisoned (hx : x = mmIns q.words) (hok : x.ok q.words q.aux = true)
    (ht : (if x.keep then ((s.loom n).group x.group).front else ((s.loom n).group x.group).back) = some t)
    (hm : t.mode = x.rd.mode) (hs : t.split = x.split) (hc : x.classOk (s.loom n).accs = true)
    (ha : a = (if x.keep then s else s.swapIn n x.group x.first (groupWidth x.split) t))
    (hvs : vs = a.readRows x.aStride x.vecBytes x.m (scratch n x.aBase))
    (hrs : rs = vs.2.zipIdx.map (fun e => x.rowAccs (s.profile == 2) (a.loom n) n t e.2 e.1))
    (hf : q.aux.parity = true ∨ ∃ r ∈ rs, r.2.any = true) : ∃ u, s.runMm n q = (u, .poisoned) ∧
      ∀ m o, m < x.m → o < x.outs → ∃ c, tget? (u.loom n).accs (x.acc m o) = some c ∧ c.bad = true := by
  have hany : (passMet q.aux rs).any = true := by
    rw [passMet_any, Bool.or_eq_true, List.any_eq_true]
    exact hf
  obtain ⟨hst, haccs, -⟩ := State.mmPass_left (q := q) ha hvs hrs rfl
  rw [hany] at hst haccs
  rw [State.runMm_pass hx hok ht hm hs hc]
  refine ⟨_, Prod.ext rfl hst, fun m o hlt ho => ?_⟩
  obtain ⟨r, c, hr, hcell⟩ := rs_get hvs hrs hlt ho
  refine ⟨{ c with bad := true }, ?_, rfl⟩
  rw [haccs]
  exact MmIns.keepAccs_get (MmIns.outs_le hok) (passRows_length hrs true) _ (by rw [passRows, List.getElem?_map, hr]; rfl)
    (by dsimp only; rw [if_pos rfl, List.getElem?_map, hcell]; rfl)

end

/-! ### VPROG (R259) -/

theorem State.runVprog_rows {s : State} {n len : Nat} {q : QIns} {x : MmIns} {vs : State × List (Option (List Word))}
    (hx : x = mmIns q.words) (hlen : len = (if x.aStride = 0 then 64 else x.aStride)) (hplain : plainBits q.words maskMm = true)
    (h1 : 1 ≤ x.m) (h2 : x.m ≤ 1024) (ha : x.aBase % 64 = 0) (hs : x.aStride % 64 = 0) (ho : x.oBase % 64 = 0)
    (hin : x.aBase + (x.m - 1) * x.aStride + len ≤ scratchLen) (hout : x.oBase + x.m * q.aux.stride ≤ scratchLen)
    (hvs : vs = (s.noteReduce n x q).vprogRows n x q.aux len x.m) :
    (s.runVprog n q).2 = (if vs.2.all (·.isSome) then .done else .poisoned) ∧
    (s.runVprog n q).1.mem = (State.writeRows n x.oBase q.aux.stride vs.1
      (vs.2.map fun r => (auxStore q.aux (vprogElems q.aux r)).1)).mem := by
  unfold State.runVprog
  rw [← hx]
  dsimp only
  rw [← hlen, ← hvs, if_neg (by simp [hplain, h1, h2, ha, hs, ho, hin, hout])]
  refine ⟨rfl, ?_⟩
  dsimp only
  rw [State.convert_mem, List.map_map]
  rfl

/-! ### CONV and DW (R180, R185) -/

theorem State.mapGroup_mem (s : State) (n g : Nat) (f : Group → Group) : (s.mapGroup n g f).mem = s.mem := rfl

theorem State.convStatus_mem (s : State) (n tag : Nat) (st : Status) : (s.convStatus n tag st).mem = s.mem := rfl

/-- A line of a tile whose lines are equally long. -/
theorem flatten_line {α : Type} {w : Nat} : ∀ {ls : List (List α)}, (∀ l ∈ ls, l.length = w) → ∀ {i : Nat} (hi : i < ls.length),
    (ls.flatten.drop (i * w)).take w = ls[i]
  | l :: ls, h, 0, _ => by
    rw [Nat.zero_mul, List.drop_zero, List.flatten_cons, List.take_left' (h l List.mem_cons_self), List.getElem_cons_zero]
  | l :: ls, h, i + 1, hi => by
    rw [List.flatten_cons, Nat.succ_mul, Nat.add_comm (i * w), ← List.drop_drop, List.drop_left' (h l List.mem_cons_self),
      flatten_line (fun k hk => h k (List.mem_cons_of_mem _ hk)) (Nat.lt_of_succ_lt_succ hi), List.getElem_cons_succ]

/-- A tile laid out line by line and cut again. -/
theorem tile_lines {α : Type} {w h : Nat} (f : Nat → Nat → α) :
    ((List.range h).map fun y => (((List.range h).map fun y => (List.range w).map (f y)).flatten.drop (y * w)).take w) =
      (List.range h).map fun y => (List.range w).map (f y) := by
  refine List.map_congr_left fun y hy => ?_
  have hlen : ∀ l ∈ (List.range h).map fun y => (List.range w).map (f y), l.length = w := by
    intro l hl
    obtain ⟨_, -, rfl⟩ := List.mem_map.mp hl
    rw [List.length_map, List.length_range]
  rw [flatten_line hlen (by rw [List.length_map, List.length_range]; exact List.mem_range.mp hy), List.getElem_map, List.getElem_range]

/-- What a CONV or DW meets. -/
def convMet (aux : Aux) (ls : List (List (List (Acc × Faults)))) : Faults :=
  ls.flatten.flatten.foldl (fun (f : Faults) r => f.join r.2) { wpar := aux.parity }

theorem convMet_any (aux : Aux) (ls : List (List (List (Acc × Faults)))) :
    (convMet aux ls).any = (aux.parity || ls.flatten.flatten.any fun r => r.2.any) := by
  rw [convMet, Faults.any_foldl (g := fun r : Acc × Faults => r.2), Faults.any_parity]

/-- The epilogue's elements of an output pixel, before it is stored. -/
def ConvIns.pixel (x : ConvIns) (m : Memory) (l : Loom) (tree : Bool) (n : Nat) (w : Data) (bad : Bool) (oy ox : Nat) :
    List (Option Word) :=
  epilogue x.epi ((List.range x.cout).map fun oc =>
    { (x.acc m l tree n w ox oy oc).1 with bad := (x.acc m l tree n w ox oy oc).1.bad || bad })

theorem ConvIns.pixel_good (x : ConvIns) (m : Memory) (l : Loom) (tree : Bool) (n : Nat) (w : Data) (oy ox : Nat) :
    x.pixel m l tree n w false oy ox = epilogue x.epi ((List.range x.cout).map fun oc => (x.acc m l tree n w ox oy oc).1) := by
  simp only [ConvIns.pixel, Bool.or_false]

section
variable {s a b : State} {n : Nat} {q : QIns} {w : Data} {x : ConvIns} {l : Loom}

/-- The memory after a convolution. -/
theorem State.convPass_left (ha : a = (s.reshape n x.split).touchTaps n x)
    (hl : l = (if x.cb then (a.loom n).swapBook x.first (groupWidth x.split)
      (loadBook x.cbChan x.cbLarge x.cout (w.drop (roundUp x.allTiles 64))) else a.loom n))
    (hb : b = (a.setLoom n { l with shed := x.lastWindow a.mem n }).keepLines n x) {met : Faults}
    (hmet : met = convMet q.aux ((List.range x.outH).map fun oy => x.line a.mem l (s.profile == 2) n w oy)) :
    (s.convPass n x q w).2 = (if met.any then .poisoned else .done) ∧
    (s.convPass n x q w).1.mem = (b.writeTile n x ((List.range x.outH).map fun oy => (List.range x.outW).map fun ox =>
      (auxStore q.aux (x.pixel a.mem l (s.profile == 2) n w met.any oy ox)).1)).mem := by
  have hrows : (((List.range x.outH).map fun oy => x.line a.mem l (s.profile == 2) n w oy).map fun l => l.map fun p =>
      epilogue x.epi (p.map fun e => { e.1 with bad := e.1.bad || met.any })) =
        (List.range x.outH).map fun oy => (List.range x.outW).map fun ox => x.pixel a.mem l (s.profile == 2) n w met.any oy ox := by
    simp only [ConvIns.line, ConvIns.pixel, List.map_map, Function.comp_def]
  unfold State.convPass
  dsimp only
  rw [← ha, ← hl, ← hb, ← convMet, ← hmet, hrows]
  refine ⟨rfl, ?_⟩
  rw [State.convStatus_mem, State.arrayStatus_mem, State.countPasses_mem, State.mapGroup_mem, State.convert_mem, List.map_flatten,
    List.map_map]
  simp only [Function.comp_def, List.map_map]
  rw [tile_lines fun oy ox => (auxStore q.aux (x.pixel a.mem l (s.profile == 2) n w met.any oy ox)).1]

theorem State.runConv_pass (hx : x = convIns q.words) (hok : x.ok q.words q.aux = true)
    (h : (s.loom n).split ≠ x.split ∨ ((s.loom n).group x.group).back = none) : s.runConv n q w = s.convPass n x q w := by
  unfold State.runConv
  rw [← hx]
  dsimp only
  rw [hok, if_neg (by simp), if_neg]
  rintro ⟨hs, hg⟩
  rcases h with h | h
  · exact h hs
  · rw [h] at hg
    exact Bool.false_ne_true hg

/-- A CONV or DW that meets no fault. -/
theorem State.runConv_done (hx : x = convIns q.words) (hok : x.ok q.words q.aux = true)
    (h : (s.loom n).split ≠ x.split ∨ ((s.loom n).group x.group).back = none) (ha : a = (s.reshape n x.split).touchTaps n x)
    (hl : l = (if x.cb then (a.loom n).swapBook x.first (groupWidth x.split)
      (loadBook x.cbChan x.cbLarge x.cout (w.drop (roundUp x.allTiles 64))) else a.loom n))
    (hb : b = (a.setLoom n { l with shed := x.lastWindow a.mem n }).keepLines n x) (hp : q.aux.parity = false)
    (hclean : ∀ ox oy oc, ox < x.outW → oy < x.outH → oc < x.cout → (x.acc a.mem l (s.profile == 2) n w ox oy oc).2.any = false) :
    ∃ u, s.runConv n q w = (u, .done) ∧
      u.mem = (b.writeTile n x ((List.range x.outH).map fun oy => (List.range x.outW).map fun ox =>
        (auxStore q.aux (epilogue x.epi ((List.range x.cout).map fun oc => (x.acc a.mem l (s.profile == 2) n w ox oy oc).1))).1)).mem := by
  have hany : (convMet q.aux ((List.range x.outH).map fun oy => x.line a.mem l (s.profile == 2) n w oy)).any = false := by
    rw [convMet_any, hp, Bool.false_or, List.any_eq_false]
    intro e he
    obtain ⟨p, hp, he⟩ := List.mem_flatten.mp he
    obtain ⟨r, hr, hp⟩ := List.mem_flatten.mp hp
    obtain ⟨oy, hoy, rfl⟩ := List.mem_map.mp hr
    obtain ⟨ox, hox, rfl⟩ := List.mem_map.mp hp
    obtain ⟨oc, hoc, rfl⟩ := List.mem_map.mp he
    rw [hclean ox oy oc (List.mem_range.mp hox) (List.mem_range.mp hoy) (List.mem_range.mp hoc)]
    exact Bool.false_ne_true
  obtain ⟨hst, hmem⟩ := State.convPass_left (q := q) ha hl hb rfl
  rw [hany] at hst hmem
  simp only [ConvIns.pixel_good] at hmem
  rw [State.runConv_pass hx hok h]
  exact ⟨_, Prod.ext rfl hst, hmem⟩

end

/-! ### The statement -/

theorem Reading.wInt_values (r : Reading) (e : Int) (c : Nat) : (r.mode = 0 → r.wInt e c = signed 8 c) ∧
    (r.mode = 1 → r.wInt e c = signed 4 c) ∧ (modeBook r.mode = true → r.wInt e c = e) := by
  unfold Reading.wInt
  refine ⟨fun h => if_pos h, fun h => ?_, fun h => ?_⟩
  · rw [if_neg (by omega), if_pos h]
  · rw [modeBook, Bool.or_eq_true, beq_iff_eq, beq_iff_eq] at h
    rw [if_neg (by omega), if_neg (by omega)]

theorem Reading.aInt_values (r : Reading) (c : Nat) :
    (r.uns = false → r.aInt c = signed 8 c) ∧ (r.uns = true → r.aInt c = (c % 256 : Nat)) := by
  unfold Reading.aInt
  exact ⟨fun h => by rw [h, if_neg Bool.false_ne_true], fun h => by rw [h, if_pos rfl]⟩

/-- An integer or codebook pass: its exact sum, and when it is a fault. -/
theorem joinPass_exact {r : Reading} (h : modeFloat r.mode = false) (tree : Bool) (acc : Acc) (ts : List Term) {z : Int}
    (hz : z = acc.sum + (ts.map fun t => r.wInt t.entry t.w * r.aInt (t.a.getD 0)).sum) :
    (joinPass r tree acc ts).1.sum = z ∧ ((joinPass r tree acc ts).2.ovf = true ↔ z < -2 ^ 47 ∨ 2 ^ 47 ≤ z) ∧
    ((joinPass r tree acc ts).1.bad = false ↔
      acc.bad = false ∧ (∀ t ∈ ts, t.a.isSome = true ∧ t.bad = false) ∧ -2 ^ 47 ≤ z ∧ z < 2 ^ 47) := by
  rw [joinPass_int h, Reading.total, ← hz]
  refine ⟨rfl, overflows48_iff z, ?_⟩
  dsimp only
  rw [Bool.or_eq_false_iff, Bool.or_eq_false_iff, terms_clean, ← Bool.not_eq_true (overflows48 z), overflows48_iff, not_or, not_lt,
    not_le, and_assoc]

theorem ConvIns.source_inside (x : ConvIns) {px py : Int} (h1 : 0 ≤ px) (h2 : px < x.inW) (h3 : 0 ≤ py) (h4 : py < x.inH) :
    x.source px py = some (px.toNat, py.toNat) := if_pos ⟨h1, h2, h3, h4⟩

theorem ConvIns.source_outside (x : ConvIns) {px py : Int} (h : px < 0 ∨ x.inW ≤ px ∨ py < 0 ∨ x.inH ≤ py) :
    (x.padMode = 0 ∨ x.padMode = 3 → x.source px py = none) ∧
    (x.padMode = 1 → x.source px py = some ((clampCoord px x.inW).toNat, (clampCoord py x.inH).toNat)) ∧
    (x.padMode = 2 → x.source px py = some ((mirrorCoord px x.inW).toNat, (mirrorCoord py x.inH).toNat)) := by
  unfold ConvIns.source
  rw [if_neg (by omega)]
  refine ⟨fun hm => ?_, fun hm => ?_, fun hm => ?_⟩
  · rw [if_neg (by omega), if_neg (by omega)]
  · rw [if_pos hm]
  · rw [if_neg (by omega), if_pos hm]

theorem ConvIns.code_none (x : ConvIns) {m : Memory} {n ox oy kx ky ch : Nat} (h : x.tap ox oy kx ky = none) :
    x.code m n ox oy kx ky ch = some (if x.padMode = 3 then x.padVal % 2 ^ (8 * aBytes x.rd.mode) else 0) := by
  unfold ConvIns.code
  rw [h]

theorem ConvIns.code_some (x : ConvIns) {m : Memory} {n ox oy kx ky ch : Nat} {p : Nat × Nat} (h : x.tap ox oy kx ky = some p) :
    x.code m n ox oy kx ky ch = packedAt (8 * aBytes x.rd.mode)
      (m.peek (scratch n (x.aBase + p.2 * x.aLine + p.1 * x.aPix + ch * aBytes x.rd.mode)) (aBytes x.rd.mode)) 0 := by
  unfold ConvIns.code
  rw [h]
  rfl

theorem State.vprogRow_input {s : State} {n len m : Nat} {x : MmIns} {aux : Aux} (h : s.partialsOf n aux m = []) {d : Data}
    (hd : d = (s.readData (scratch n (x.aBase + m * x.aStride)) len).2) :
    (s.vprogRow n x aux len m).2 = if dataGood d then some (Config.vecInput x.epi (dataBytes d)) else none := by
  unfold State.vprogRow
  rw [h, hd]

theorem State.partialsOf_split {s : State} {n m : Nat} {aux : Aux} (h : s.splitsSums n = true ∨ s.floatOn n = false) :
    s.partialsOf n aux m = aux.partials.getD m [] := by
  unfold State.partialsOf
  rw [if_pos]
  rcases h with h | h <;> simp [h]

/-- Settles O6: a lemma for each instruction, resting on what one pass adds (`joinPass_exact`, `joinPass_float`) and on the
bookkeeping that leaves the accumulators and the memory as the pass has made them. -/
theorem loomArithmetic : Obligations.LoomArithmetic := by
  unfold Obligations.LoomArithmetic
  refine ⟨fun r e c => ?_, fun r tree acc ts z h hz => joinPass_exact h tree acc ts hz, fun r acc ts h hts => joinPass_float h hts,
    fun s n q d h => State.runWload_fills d h, fun ws d i j hi hj => tileCells_get hi hj d,
    fun x l n o i t v c b hi hc => ⟨rfl, rfl, fun hm => ?_, fun hm y hy => ?_⟩, fun x tree l n m o t v ho => ?_,
    fun s a n q x t vs rs hx hok ht hm hs hc ha hvs hrs => ⟨fun hp hf => State.runMm_done hx hok ht hm hs hc ha hvs hrs hp hf,
      fun hf => State.runMm_poisoned hx hok ht hm hs hc ha hvs hrs hf⟩,
    fun epi cs => ⟨epilogue_bad epi, epilogue_good epi⟩, fun x ox oy kx ky px py hpx hpy => ?_,
    fun x m n ox oy kx ky ch => ⟨fun h => x.code_none h, fun p h => x.code_some h⟩,
    fun x m l tree n w ox oy oc h => x.acc_sum h m l tree n w ox oy oc,
    fun s a b n q w x l hx hok h ha hl hb hp hclean => State.runConv_done hx hok h ha hl hb hp hclean,
    fun s n len q x vs hx hlen hplain h1 h2 ha hs ho hin hout hvs => State.runVprog_rows hx hlen hplain h1 h2 ha hs ho hin hout hvs,
    fun s n len m x aux h d hd => State.vprogRow_input h hd, fun s n m aux h => State.partialsOf_split h, fun a b => ⟨rfl, rfl⟩⟩
  · obtain ⟨hplain, hhalf, hbook⟩ := r.wInt_values e c
    exact ⟨hplain, hhalf, hbook, r.aInt_values c⟩
  · rw [MmIns.terms_get hi, MmIns.cell_plain hc hm]
  · rw [MmIns.terms_get hi, MmIns.cell_book hc hm, ← hy]
  · rw [MmIns.rowAccs_list, List.getElem?_map, List.getElem?_range ho]
    rfl
  · rw [ConvIns.tap_eq, ← hpx, ← hpy]
    exact ⟨x.source_inside, x.source_outside⟩

end Sys2Proof.Machine
end
